-- ==== Sys2Proof/Word.lean ====
section
/-! DEFINITION. The word type of the register bus and its plainest arithmetic. -/
namespace Sys2Proof

/-- One 32-bit register word (R8, R11). -/
abbrev Word := BitVec 32

/-- One byte. -/
abbrev Byte := BitVec 8

/-- A register value written as a number. -/
def word (n : Nat) : Word := BitVec.ofNat 32 n

/-- Bits [hi:lo] of a number (R8). -/
def bits (v hi lo : Nat) : Nat := v / 2 ^ lo % 2 ^ (hi + 1 - lo)

/-- Bit i of a number. -/
def bit (v i : Nat) : Bool := v.testBit i

/-- A signed number read from the low `w` bits of `v` (two's complement). -/
def signed (w v : Nat) : Int :=
  if v % 2 ^ w < 2 ^ (w - 1) then (v % 2 ^ w : Nat) else (v % 2 ^ w : Nat) - (2 ^ w : Nat)

/-- The low `w` bits of the two's complement form of an integer. -/
def unsigned (w : Nat) (i : Int) : Nat := (i % (2 ^ w : Nat)).toNat

end Sys2Proof
end

