-- ==== Sys2Proof/Syntax.lean ====
section
/-! DEFINITION. The commands the block takes: one constructor per row of the spec's table, with the operands each
row needs: the resource it names, and what arrives from outside (a received burst, message, frame, packet, a
measured figure). Indices are bounded by their types (R12). -/
namespace Sys2Proof

/-- Port n, 0 to 127 (R12). -/
abbrev Port := Fin 128
/-- Pair p within a port, 0 to 3, lettered A to D (R12). -/
abbrev Pair := Fin 4
/-- Line tile t, 0 to 7 (R12). -/
abbrev Tile := Fin 8
/-- Pair-slice s on a tile, 0 to 67 (R12). -/
abbrev SliceIx := Fin 68
/-- Host lane h, 0 to 135 (R12). -/
abbrev Lane := Fin 136
/-- Spare lane group g, 0 to 7 (R12). -/
abbrev Group := Fin 8
/-- Host lane octet o, 0 to 16 (R12). -/
abbrev Octet := Fin 17

/-- A direction of a port: transmit (host to line) or receive (line to host). -/
inductive Dir where
  | tx | rx
deriving DecidableEq, Repr

/-- A link: a port, or in BREAKOUT one of its sub-links (R111, R154). -/
structure LinkId where
  n : Port
  sub : Option Pair
deriving DecidableEq, Repr

/-- A waymark message (R101). -/
structure Msg where
  code : Nat
  seq : Nat
  ack : Nat
  stage : Nat
  now : Nat
  pmask : Nat
  ppoly : Nat
  arg : Nat
deriving DecidableEq, Repr

/-- The value X(k) of one subcarrier (R67, R86): the point (re, im) over the square root of its constellation's average energy, at
`level` in 0.5 dB above the nominal level of R108. -/
structure Tone where
  re : Int
  im : Int
  energy : Nat
  level : Int
deriving DecidableEq, Repr

/-- One symbol on a pair (R65, R67): X(0) to X(1023), and the samples of their inverse transform in the order sent. -/
structure LineSymbol where
  spectrum : List Tone
  order : List Nat
deriving DecidableEq, Repr

/-- The transmit samples of the front end with global pair index `g`, as the receiver of a pair has them for its echo and near-end
cancellers: from 384 samples before the receive window on (R17, R114, R125). -/
structure RefSamples where
  g : Nat
  samples : List Int
deriving DecidableEq, Repr

/-- What step 2 of the receive chain gives for one symbol of a pair (R114): the count of its first sample in the own timebase, the ADC
samples of the window from there on, and the transmit samples that fall within it. -/
structure RxWindow where
  p : Pair
  start : Int
  adc : List Int
  refs : List RefSamples
deriving DecidableEq, Repr

/-- A single-bit error that the Hostel corrected (R237): bank, word address, and whether the scrubber's own read found it. -/
structure Corrected where
  bank : Nat
  word : Nat
  scrub : Bool
deriving DecidableEq, Repr

/-- A coach (R92): header byte, forty 257-bit blocks, CRC-32C. -/
structure Coach where
  hdr : Nat
  blocks : List Nat
  crc : Nat
deriving DecidableEq, Repr

/-- A 64b/66b block of a host lane: control or data, and its 64 payload bits. -/
structure HostBlock where
  ctrl : Bool
  data : Nat
deriving DecidableEq, Repr

/-- A greeting burst whose header and body passed their checks (R162 to R164, R169): its fields, its capability
pages, whether it ended within 1 µs of the receiver's own last burst (rule 1 of R158), its preamble level, the
pairs that decoded it, and the other bursts of the same burst interval, each with the pairs that decoded it and its
preamble level (R169). -/
structure Burst where
  level : Nat
  attempt : Nat
  sender : Nat
  echo : Nat
  resultCrc : Nat
  pages : List Nat
  nearOwn : Bool
  dbfs : Int
  onPairs : List Pair
  rivals : List (List Pair × Int)
deriving DecidableEq, Repr

/-- What one pair measures in a step of a G2 slot (R128): noise power per subcarrier and, while only this end transmits, received
power after E3, both in 2^-30 of the nominal transmit PSD at the cable-attach interface (R108, R127); analogue gain code, hybrid
suppression and trims, TD_DELAY, the echo length L_E, the shortening ratio, the loop's lock and figures, the first SNR estimate per
subcarrier. -/
structure G2Meas where
  p : Pair
  gain : Nat
  hyb : Nat
  trimR : Nat
  trimC : Nat
  tdDelay : Nat
  echoLen : Nat
  noise : List (Nat × Nat)
  power : List (Nat × Nat)
  ssnr : Nat
  locked : Bool
  terr : Nat
  freq : Nat
  snr : List (Nat × Nat)
deriving DecidableEq, Repr

/-- What the monitors of a pair show over a stage beside what its symbols give: the residual timing error in fs (R122, R151), the total
transmit power in 0.1 dBm (R113). -/
structure StageMeas where
  p : Pair
  terr : Nat
  power : Int
deriving DecidableEq, Repr

/-- A start-up frame (R182): header fields, body (a TABLE's entries, or the 64 STATUS bits), and its CRC-32C. -/
structure SuFrame where
  kind : Nat
  pair : Pair
  set : Nat
  arg : Nat
  body : List Nat
  crc : Nat
deriving DecidableEq, Repr


/-- What a REFLECT run measures (R320, R324): the analogue gain it set, period after period the 16,384 ADC samples of each pair of the
port, the noise floor of the reflection response in 0.5 dB below unit reflection, and its duration in µs. -/
structure ReflectMeas where
  gain : Nat
  periods : List (List (List Int))
  noise : Nat
  timeUs : Nat
deriving DecidableEq, Repr

/-- The master of a register access (R450, R480): the Porter for a ring command, the Porter's firmware, the debug
access port. -/
inductive Master where
  | ring | firmware | dap
deriving DecidableEq, Repr

/-- A register access: bus address, the word written (none for a read), its master (R450). -/
structure BusAccess where
  a : Nat
  wr : Option Word
  m : Master
deriving DecidableEq, Repr

/-- A hardware update that falls in the cycle of a software access (R458): the value hardware gives an RWH field,
counts added to a counter, bits set in a W1C field. -/
structure HwUpdate where
  rwh : Option Nat
  inc : Nat
  set : Nat
deriving DecidableEq, Repr

/-- What a ring input receives of a packet (R388): the running disparity after its Start, and the ten-bit codes from there to Terminate,
or to the idle pair that ends a packet without one. -/
structure RingRx where
  plus : Bool
  codes : List Nat
deriving DecidableEq, Repr

/-- A command as it is executed: the ring that carried it last, its host agent and tag, FLAGS [2:0] (FENCE, NOQUEUE,
NOREPLY), its parameters (R398). -/
structure Call where
  ring : Nat
  src : Nat
  tag : Nat
  flags : Nat
  body : List Nat
deriving DecidableEq, Repr

/-- The reference check at the start of a calibration run (R482): the deviation of VREF and of RCAL in 0.01 %. -/
structure RefMeas where
  vref : Int
  rcal : Int
deriving DecidableEq, Repr

/-- What a calibration run measures (R485, R494): the corrections of its fields in 1/16 of the trim LSB, and in
compatibility mode those of the repeat. For ADC the fields are the gain, offset and skew of the spare and then of
sub-ADCs 0 to 63; for TSENSE offset and gain. -/
structure CalMeas where
  first : List Int
  second : List Int
deriving DecidableEq, Repr

/-- A failure a memory test finds (R533): instance, word address, failing bit, row. -/
structure MemFail where
  inst : Nat
  word : Nat
  bit : Nat
  row : Nat
deriving DecidableEq, Repr

/-- A cell of the boundary register (R549): host lane pairs in each direction, RESET_N, INT_N, TEMP_ALERT_N, DEVID, the AVSBus pins;
REFCLK and the four ring pins as observe-only cells. -/
inductive BoundaryCell where
  | laneTx (h : Lane)
  | laneRx (h : Lane)
  | resetN
  | intN
  | tempAlertN
  | devid (i : Fin 6)
  | avsClk
  | avsMdata
  | avsSdata
  | refclk
  | ring (i : Fin 4)
deriving DecidableEq, Repr

/-- A board-test instruction as it is loaded: its code, the boundary register (R548, R549), whose cells of input pins hold the levels that
the board puts on them, and the TCK cycles that the TAP then
spends in Run-Test/Idle, where the instructions of IEEE 1149.6 move their pins. -/
structure BoardLoad where
  ir : Nat
  cells : List (BoundaryCell × Bool)
  idle : Nat
deriving DecidableEq, Repr

/-- The commands of the block: one constructor per row of the spec's table of operations and events, in the
table's order, with the row's operands (log entries 6 and 7); `fails` are the MRAM addresses of words that fail their read-back (R502). -/
inductive Instr where
  /-- SLICE_FAULT (R527). -/
  | sliceFault (t : Tile) (sl : SliceIx) (code : Nat)
  /-- CROSSBAR_CHANGE (R19). -/
  | crossbarChange (t : Tile) (j : Nat)
  /-- SLICE_SCRUB (R526). -/
  | sliceScrub (t : Tile) (sl : SliceIx) (corrected : Nat)
  /-- TILE_LINK_CHECK_FAIL (R27). -/
  | tileLinkCheckFail (t : Tile) (retryFails : Bool)
  /-- PORT_MODE_WRITE (R45). -/
  | portModeWrite (n : Port) (v : Word)
  /-- TIMETABLE_MODE_APPLY (R45). -/
  | timetableModeApply (n : Port)
  /-- BUNDLE_MODE_APPLY (R45). -/
  | bundleModeApply (n : Port)
  /-- TEST_MODE_DRAIN_POINT (R50). -/
  | testModeDrainPoint (n : Port) (b : Nat)
  /-- PATTERN_INJ_SINGLE (R42). -/
  | patternInjSingle (n : Port)
  /-- PATTERN_INJ_BURST (R42). -/
  | patternInjBurst (n : Port)
  /-- MODE_CHANGE_APPLY (R46). -/
  | modeChangeApply (l : LinkId)
  /-- COACH_TX (R96). -/
  | coachTx (l : LinkId)
  /-- COACH_RX (R92): the windows of pairs A to D in successive data symbols. -/
  | coachRx (n : Port) (sub : Option Pair) (a : List RxWindow) (b : List RxWindow) (c : List RxWindow) (d : List RxWindow) (t : Rat)
  /-- WAYMARK_SYMBOL_TX (R104). -/
  | waymarkSymbolTx (l : LinkId)
  /-- WAYMARK_SYMBOL_RX (R199). -/
  | waymarkSymbolRx (l : LinkId) (rx : List RxWindow)
  /-- WAYMARK_SYNC_LOSS (R200). -/
  | waymarkSyncLoss (l : LinkId)
  /-- WM_MESSAGE_ABANDON (R202). -/
  | wmMessageAbandon (l : LinkId) (p : Pair)
  /-- WM_STATUS (R102). -/
  | wmStatus (l : LinkId) (p : Pair) (m : Msg)
  /-- SWAP_ENTRY (R205). -/
  | swapEntry (l : LinkId) (p : Pair) (m : Msg)
  /-- SWAP_COMMIT (R206). -/
  | swapCommit (l : LinkId) (p : Pair) (m : Msg)
  /-- SWAP_ACCEPT (R207). -/
  | swapAccept (l : LinkId) (p : Pair) (m : Msg)
  /-- SWAP_DECLINE (R206). -/
  | swapDecline (l : LinkId) (p : Pair) (m : Msg)
  /-- RATE_PROPOSE (R212). -/
  | ratePropose (l : LinkId) (p : Pair) (m : Msg)
  /-- RATE_ACCEPT (R213). -/
  | rateAccept (l : LinkId) (p : Pair) (m : Msg)
  /-- RATE_DECLINE (R212). -/
  | rateDecline (l : LinkId) (p : Pair) (m : Msg)
  /-- MODE_PROPOSE (R46). -/
  | modePropose (l : LinkId) (p : Pair) (m : Msg)
  /-- MODE_ACCEPT (R46). -/
  | modeAccept (l : LinkId) (p : Pair) (m : Msg)
  /-- MODE_DECLINE (R46). -/
  | modeDecline (l : LinkId) (p : Pair) (m : Msg)
  /-- EEI_PROPOSE (R296). -/
  | eeiPropose (l : LinkId) (p : Pair) (m : Msg)
  /-- EEI_ACCEPT (R296). -/
  | eeiAccept (l : LinkId) (p : Pair) (m : Msg)
  /-- EEI_REFUSE (R296). -/
  | eeiRefuse (l : LinkId) (p : Pair) (m : Msg)
  /-- EEI_ABORT (R308). -/
  | eeiAbort (l : LinkId) (p : Pair) (m : Msg)
  /-- EEI_WAKE_MSG (R309). -/
  | eeiWakeMsg (l : LinkId) (p : Pair) (m : Msg)
  /-- FAULT_NOTICE (R215). -/
  | faultNotice (l : LinkId) (p : Pair) (m : Msg)
  /-- RETRAIN_REQUEST (R189). -/
  | retrainRequest (l : LinkId) (p : Pair) (m : Msg)
  /-- STAGE_CHECK (R201). -/
  | stageCheck (l : LinkId) (p : Pair) (m : Msg)
  /-- WM_UNKNOWN_CODE (R102). -/
  | wmUnknownCode (n : Port) (p : Pair) (m : Msg)
  /-- PAIR_TBL_DATA_WRITE (R113). -/
  | pairTblDataWrite (n : Port) (p : Pair) (v : Word)
  /-- TABLE_SHADOW_COPY_DONE (R73). -/
  | tableShadowCopyDone (n : Port) (p : Pair) (d : Dir)
  /-- SUBADC_TAKE_SLOT (R119). -/
  | subadcTakeSlot (n : Port) (p : Pair) (slot : Nat) (back : Bool)
  /-- SUBADC_FAIL (R120). -/
  | subadcFail (n : Port) (p : Pair) (sub : Nat)
  /-- GAIN_LIMIT_RETRAIN (R118). -/
  | gainLimitRetrain (l : LinkId)
  /-- TIMING_ERROR_RETRAIN (R123). -/
  | timingErrorRetrain (l : LinkId)
  /-- ECHO_DRIFT_CHECK (R131): with the taps of E2 as they stand. -/
  | echoDriftCheck (n : Port) (sub : Option Pair) (p : Pair) (e2 : List Int)
  /-- ECHO_STORE_REFRESH (R131). -/
  | echoStoreRefresh (n : Port) (p : Pair)
  /-- ECHO_TAP_SATURATION (R132). -/
  | echoTapSaturation (l : LinkId)
  /-- FEXT_H_REESTIMATE (R136). -/
  | fextHReestimate (l : LinkId) (fext nextOwn nextPartner : Nat)
  /-- DEAD_PAIR_DECLARE (R147). -/
  | deadPairDeclare (l : LinkId) (p : Pair)
  /-- COEF_SNAPSHOT_REQUEST (R149). -/
  | coefSnapshotRequest (n : Port) (p : Pair) (v : Word)
  /-- COEF_SNAPSHOT_DONE (R149). -/
  | coefSnapshotDone (n : Port) (p : Pair)
  /-- COEF_MEM_SELECT (R149). -/
  | coefMemSelect (n : Port) (p : Pair) (v : Word)
  /-- COEF_DATA_WRITE (R149). -/
  | coefDataWrite (n : Port) (p : Pair) (v : Word)
  /-- STARTUP_ENABLE_SET (R194). -/
  | startupEnableSet (n : Port)
  /-- STARTUP_ENABLE_CLEAR (R194). -/
  | startupEnableClear (n : Port)
  /-- G0_BACKOFF_EXPIRE (R170). -/
  | g0BackoffExpire (l : LinkId)
  /-- G0_REPLY_TIMEOUT (R170). -/
  | g0ReplyTimeout (l : LinkId)
  /-- PREAMBLE_DETECT (R165). -/
  | preambleDetect (n : Port) (p : Pair) (before rx : List Int) (gain : Nat)
  /-- CAPTURE_OVERRIDE (R167). -/
  | captureOverride (n : Port) (p : Pair) (before rx : List Int) (gain : Nat) (frozenInTime : Bool)
  /-- BURST_HEADER_DECODE (R166). -/
  | burstHeaderDecode (n : Port) (p : Pair) (rx : List (Int × Int)) (body : Option (List (Int × Int)))
  /-- GREET (R171). -/
  | greet (l : LinkId) (b : Burst)
  /-- REPLY (R171). -/
  | reply (l : LinkId) (b : Burst)
  /-- CONFIRM (R171). -/
  | confirm (l : LinkId) (b : Burst)
  /-- CONFIRM_ACK (R173). -/
  | confirmAck (l : LinkId) (b : Burst)
  /-- CONFIRM_NAK (R172). -/
  | confirmNak (l : LinkId) (b : Burst)
  /-- CONFIRM_TIMEOUT (R172). -/
  | confirmTimeout (l : LinkId)
  /-- G1_RESPONDER_TIMEOUT (R172). -/
  | g1ResponderTimeout (l : LinkId)
  /-- SETUP_INTERVAL_END (R173). -/
  | setupIntervalEnd (l : LinkId)
  /-- G2_SLOT_STEP (R128). -/
  | g2SlotStep (l : LinkId) (meas : List G2Meas)
  /-- VERDICT_SEND (R177). -/
  | verdictSend (l : LinkId)
  /-- VERDICT (R177). -/
  | verdict (l : LinkId) (b : Burst)
  /-- G3_START (R178). -/
  | g3Start (l : LinkId)
  /-- G3_SYNC_TIMEOUT (R180). -/
  | g3SyncTimeout (l : LinkId)
  /-- G4A_TABLE_COMPUTE (R181). -/
  | g4aTableCompute (l : LinkId)
  /-- STARTUP_TABLE_FRAME (R183). -/
  | startupTableFrame (l : LinkId) (f : SuFrame)
  /-- CARRYING_SET_DECIDE (R184). -/
  | carryingSetDecide (l : LinkId)
  /-- STARTUP_STATUS_FRAME (R185). -/
  | startupStatusFrame (l : LinkId) (f : SuFrame)
  /-- STARTUP_ABORT_FRAME (R185). -/
  | startupAbortFrame (l : LinkId) (f : SuFrame)
  /-- VERIFY_RESULT (R186). -/
  | verifyResult (n : Port) (sub : Option Pair)
  /-- SHOW_STAGE_NAME (R187). -/
  | showStageName (l : LinkId)
  /-- SHOW_TIMEOUT (R187). -/
  | showTimeout (l : LinkId)
  /-- SHOWTIME_ENTRY (R188). -/
  | showtimeEntry (l : LinkId)
  /-- FAST_RETRAIN_START (R190). -/
  | fastRetrainStart (l : LinkId)
  /-- FAST_RETRAIN_FAIL (R191). -/
  | fastRetrainFail (l : LinkId) (cause : Nat)
  /-- STARTUP_FAIL (R192). -/
  | startupFail (l : LinkId) (cause : Nat)
  /-- HOLD_OFF_EXPIRE (R193). -/
  | holdOffExpire (l : LinkId)
  /-- STAGE_BOUNDARY (R197). -/
  | stageBoundary (l : LinkId) (meas : List StageMeas)
  /-- SWAP_EVALUATION (R203). -/
  | swapEvaluation (l : LinkId)
  /-- SWAP_COMMIT_SEND (R206). -/
  | swapCommitSend (l : LinkId) (p : Pair)
  /-- TABLE_SWAP_APPLY (R207). -/
  | tableSwapApply (l : LinkId) (p : Pair) (d : Dir)
  /-- RATE_TRIGGER (R211). -/
  | rateTrigger (l : LinkId)
  /-- RATE_PROPOSE_SEND (R212). -/
  | rateProposeSend (l : LinkId)
  /-- RATE_CHANGE_APPLY (R213). -/
  | rateChangeApply (l : LinkId) (d : Dir)
  /-- COACH_LOSS_RETRAIN (R208). -/
  | coachLossRetrain (l : LinkId)
  /-- TRIPAIR_FALLBACK_APPLY (R215). -/
  | tripairFallbackApply (l : LinkId) (d : Dir)
  /-- TRIPAIR_RESTORE_REQUEST (R219). -/
  | tripairRestoreRequest (l : LinkId) (p : Pair)
  /-- LINK_DOWN (R224). -/
  | linkDown (l : LinkId) (cause : Nat)
  /-- INGRESS_BLOCK (R229). -/
  | ingressBlock (n : Port) (h : Lane) (t : Rat) (rx : List Int)
  /-- EGRESS_BLOCK (R232). -/
  | egressBlock (n : Port) (t : Rat)
  /-- FAR_EGRESS_REPORT (R233). -/
  | farEgressReport (n : Port) (sub : Option Pair) (t : Rat)
  /-- FRAME_EXPIRY (R245). -/
  | frameExpiry (l : LinkId) (d : Dir) (t : Rat) (cause : Nat)
  /-- FC_XOFF_REPEAT (R253). -/
  | fcXoffRepeat (n : Port)
  /-- FC_FRAME_INSERT (R254). -/
  | fcFrameInsert (n : Port) (t : Rat)
  /-- HOSTEL_SCRUB_PASS (R237). -/
  | hostelScrubPass (corrected : List Corrected)
  /-- HOSTEL_FENCE (R237). -/
  | hostelFence (bank : Nat) (addr : Nat)
  /-- LANE_FAULT (R277). -/
  | laneFault (h : Lane) (cause : Nat)
  /-- HOST_DONE (R279). -/
  | hostDone (g : Group)
  /-- HOST_WAIT_EXPIRE (R279). -/
  | hostWaitExpire (g : Group)
  /-- SUBSTITUTE (R277). -/
  | substitute (g : Group) (i : Nat)
  /-- REVERT (R281). -/
  | revert (g : Group)
  /-- LANE_ENABLE_WRITE (R280). -/
  | laneEnableWrite (h : Lane) (enable : Bool)
  /-- LANE_RATE_WRITE (R265). -/
  | laneRateWrite (h : Lane) (half : Bool)
  /-- LANE_ACQUIRED (R272). -/
  | laneAcquired (h : Lane)
  /-- HL_TX_FFE_WRITE (R270). -/
  | hlTxFfeWrite (h : Lane) (v : Word)
  /-- SPARE_MODE_WRITE (R276). -/
  | spareModeWrite (g : Group) (v : Word)
  /-- EYE_SCAN_START (R284). -/
  | eyeScanStart (h : Lane) (v : Word)
  /-- EYE_SCAN_DONE (R283). -/
  | eyeScanDone (h : Lane) (errors : Nat)
  /-- PRBS_ENABLE_WRITE (R286). -/
  | prbsEnableWrite (h : Lane) (v : Word)
  /-- PRBS_INJ_SINGLE (R287). -/
  | prbsInjSingle (h : Lane)
  /-- PRBS_INJ_BURST (R287). -/
  | prbsInjBurst (h : Lane)
  /-- PRBS_CHECKER_LOCK (R287). -/
  | prbsCheckerLock (h : Lane)
  /-- PRBS_LOCK_LOSS (R287). -/
  | prbsLockLoss (h : Lane) (compared wrong : Nat)
  /-- EEI_PROPOSE_SEND (R295). -/
  | eeiProposeSend (l : LinkId)
  /-- EEI_BUDGET_APPLY (R294). -/
  | eeiBudgetApply (l : LinkId)
  /-- EEI_ENTRY (R298). -/
  | eeiEntry (l : LinkId)
  /-- EEI_REFRESH (R299). -/
  | eeiRefresh (l : LinkId) (meas : List StageMeas)
  /-- EEI_WAKE_CAUSE (R302). -/
  | eeiWakeCause (l : LinkId) (cause : Nat)
  /-- EEI_PRESTEP_DONE (R303). -/
  | eeiPrestepDone (l : LinkId)
  /-- WAKE_DETECT (R305). -/
  | wakeDetect (l : LinkId)
  /-- WAKE_CONFIRM_TIMEOUT (R305). -/
  | wakeConfirmTimeout (l : LinkId)
  /-- EEI_RESUME (R304). -/
  | eeiResume (l : LinkId) (quietUs wakeNs : Nat)
  /-- PARTIAL_FAST_RETRAIN_START (R307). -/
  | partialFastRetrainStart (l : LinkId)
  /-- PARTIAL_FAST_RETRAIN_FAIL (R307). -/
  | partialFastRetrainFail (l : LinkId)
  /-- CAL_DEFERRAL_WAKE (R306). -/
  | calDeferralWake (l : LinkId) (item : Nat)
  /-- REFLECT_START (R317). -/
  | reflectStart (n : Port) (p : Pair) (v : Word)
  /-- REFLECT_DONE (R322). -/
  | reflectDone (n : Port) (p : Pair) (r : ReflectMeas)
  /-- DIAG_CTRL_ABORT (R332). -/
  | diagCtrlAbort (n : Port) (p : Pair)
  /-- MAPS_START (R325). -/
  | mapsStart (n : Port) (p : Pair) (v : Word)
  /-- MAPS_DONE (R325). -/
  | mapsDone (n : Port) (p : Pair) (timeUs : Nat)
  /-- HISTORY_RECORD (R329). -/
  | historyRecord (n : Port) (p : Pair)
  /-- HIST_CLEAR (R331). -/
  | histClear (n : Port)
  /-- REFCLK_LOST (R347). -/
  | refclkLost
  /-- REFCLK_QUALIFIED (R349). -/
  | refclkQualified
  /-- LPLL_ACTIVE_UNLOCK (R350). -/
  | lpllActiveUnlock (t : Tile)
  /-- LPLL_BOTH_UNLOCK (R352). -/
  | lpllBothUnlock (t : Tile)
  /-- LPLL_STANDBY_UNLOCK (R353). -/
  | lpllStandbyUnlock (t : Tile)
  /-- LPLL_RELOCK (R352). -/
  | lpllRelock (t : Tile) (sub : Bool)
  /-- LPLL_SWAP (R353). -/
  | lpllSwap (t : Tile)
  /-- HPLL_UNLOCK (R354). -/
  | hpllUnlock (o : Octet)
  /-- HPLL_RELOCK (R354). -/
  | hpllRelock (o : Octet)
  /-- HUB_PLL_UNLOCK (R355). -/
  | hubPllUnlock
  /-- HUB_PLL_RELOCK (R355). -/
  | hubPllRelock
  /-- RING_PLL_UNLOCK (R355). -/
  | ringPllUnlock
  /-- RING_PLL_RELOCK (R355). -/
  | ringPllRelock
  /-- CLK_DIV_WRITE (R343). -/
  | clkDivWrite (v : Word)
  /-- CLOCK_SWITCH_STEP (R344). -/
  | clockSwitchStep (dom : Nat)
  /-- CLOCK_SWITCH_FORCED (R345). -/
  | clockSwitchForced (dom : Nat) (t : Tile)
  /-- RAIL_GOOD (R362). -/
  | railGood (r : Fin 7) (strap : Nat)
  /-- RAIL_LOST (R362). -/
  | railLost (r : Fin 7)
  /-- RESET_N_ASSERT (R376). -/
  | resetNAssert
  /-- AVS_UPDATE (R364). -/
  | avsUpdate (want vout iout : Nat) (fail : Option (Nat × Nat))
  /-- AVS_CFG_WRITE (R365). -/
  | avsCfgWrite (v : Word)
  /-- DOMAIN_WAKE_ON_ACCESS (R369). -/
  | domainWakeOnAccess (x : BusAccess)
  /-- DOMAIN_WAKE_DONE (R371). -/
  | domainWakeDone (id : Nat) (stallNs : Nat)
  /-- DOMAIN_WAKE_FAIL (R372). -/
  | domainWakeFail (id : Nat)
  /-- DOMAIN_RETURN (R370). -/
  | domainReturn (id : Nat)
  /-- PORT_POWER_OFF (R367). -/
  | portPowerOff (n : Port)
  /-- TILE_POWER_OFF (R366). -/
  | tilePowerOff (t : Tile)
  /-- DOMAIN_RETRY (R374). -/
  | domainRetry (id : Nat)
  /-- DOMAIN_OFF_REQUEST (R374). -/
  | domainOffRequest (id : Nat)
  /-- BOOT_STEP_DONE (R380). -/
  | bootStepDone (failedLinks : List Tile)
  /-- BOOT_WATCHDOG_EXPIRE (R382). -/
  | bootWatchdogExpire
  /-- DEVICE_RESET_START (R379). -/
  | deviceResetStart
  /-- TILE_RESET_DONE (R377). -/
  | tileResetDone (t : Tile) (linkUp : Bool)
  /-- RING_INPUT_SYNC (R389). -/
  | ringInputSync (r : Fin 2)
  /-- RING_GLITCH (R394). -/
  | ringGlitch (r : Fin 2)
  /-- RING_BREAK (R409). -/
  | ringBreak (r : Fin 2)
  /-- RING_RESTORED (R409). -/
  | ringRestored (r : Fin 2)
  /-- PACKET_RX (R399). -/
  | packetRx (r : Fin 2) (rx : RingRx)
  /-- ENUMERATE (R397). -/
  | enumerate (r : Fin 2) (rx : RingRx)
  /-- SEQ_EPOCH (R417). -/
  | seqEpoch (r : Fin 2) (rx : RingRx) (waited : Nat)
  /-- RING_PING (R410). -/
  | ringPing (r : Fin 2) (rx : RingRx)
  /-- RING_CONTROL_RESERVED (R423). -/
  | ringControlReserved (r : Fin 2) (rx : RingRx)
  /-- COMMAND_START (R400). -/
  | commandStart
  /-- COMMAND_TIMEOUT (R401). -/
  | commandTimeout (src tag : Nat)
  /-- REPLY_RETENTION_EXPIRE (R404). -/
  | replyRetentionExpire
  /-- NOTICE_SEND (R415). -/
  | noticeSend
  /-- INT_REPEAT_EXPIRE (R415). -/
  | intRepeatExpire
  /-- SEQ_TICK_SATURATE (R418). -/
  | seqTickSaturate
  /-- WRAP_WRITE (R412). -/
  | wrapWrite (v : Word)
  /-- DEV_NOP (R432). -/
  | devNop (c : Call)
  /-- DEV_IDENTIFY (R432). -/
  | devIdentify (c : Call)
  /-- DEV_STATUS (R432). -/
  | devStatus (c : Call)
  /-- DEVICE_RESET (R379). -/
  | deviceReset (c : Call)
  /-- TILE_RESET (R375). -/
  | tileReset (c : Call)
  /-- PORT_RESET (R375). -/
  | portReset (c : Call)
  /-- DEV_INT_READ (R432). -/
  | devIntRead (c : Call)
  /-- DEV_INT_CLEAR (R474). -/
  | devIntClear (c : Call)
  /-- DEV_TEMPS (R432). -/
  | devTemps (c : Call)
  /-- DEV_JOBS (R429). -/
  | devJobs (c : Call)
  /-- DEV_JOB_ABORT (R432). -/
  | devJobAbort (c : Call)
  /-- PORT_ENABLE (R433). -/
  | portEnable (c : Call)
  /-- PORT_MODE_SET (R433). -/
  | portModeSet (c : Call)
  /-- PORT_RETRAIN (R433). -/
  | portRetrain (c : Call)
  /-- PORT_RATE (R433). -/
  | portRate (c : Call)
  /-- PORT_STATUS (R433). -/
  | portStatus (c : Call)
  /-- PORT_SUMMARY (R433). -/
  | portSummary (c : Call)
  /-- PORT_COUNTERS (R434). -/
  | portCounters (c : Call)
  /-- PORT_PEER (R433). -/
  | portPeer (c : Call)
  /-- PORT_FLOWCTL (R433). -/
  | portFlowctl (c : Call)
  /-- PORT_SUBLINKS (R433). -/
  | portSublinks (c : Call)
  /-- HL_ENABLE (R435). -/
  | hlEnable (c : Call)
  /-- HL_STATUS (R435). -/
  | hlStatus (c : Call)
  /-- HL_FFE (R435). -/
  | hlFfe (c : Call)
  /-- HL_SPARE_SET (R435). -/
  | hlSpareSet (c : Call)
  /-- HL_SPARE_ACT (R435). -/
  | hlSpareAct (c : Call)
  /-- HL_EYE_SCAN (R435). -/
  | hlEyeScan (c : Call)
  /-- HL_EYE_RESULT (R435). -/
  | hlEyeResult (c : Call)
  /-- HL_PRBS (R435). -/
  | hlPrbs (c : Call)
  /-- HL_PRBS_READ (R435). -/
  | hlPrbsRead (c : Call)
  /-- HL_PRBS_INJECT (R435). -/
  | hlPrbsInject (c : Call)
  /-- DIAG_REFLECT (R436). -/
  | diagReflect (c : Call)
  /-- DIAG_RESULT (R436). -/
  | diagResult (c : Call)
  /-- DIAG_MAPS (R436). -/
  | diagMaps (c : Call)
  /-- DIAG_MAP_READ (R436). -/
  | diagMapRead (c : Call)
  /-- DIAG_TRACE_READ (R436). -/
  | diagTraceRead (c : Call)
  /-- DIAG_HISTORY (R436). -/
  | diagHistory (c : Call)
  /-- DIAG_PROFILE (R436). -/
  | diagProfile (c : Call)
  /-- DIAG_SNR (R436). -/
  | diagSnr (c : Call)
  /-- DIAG_ABORT (R436). -/
  | diagAbort (c : Call)
  /-- CAL_RUN (R490). -/
  | calRun (c : Call)
  /-- CAL_STATUS (R437). -/
  | calStatus (c : Call)
  /-- CAL_CFG (R437). -/
  | calCfg (c : Call)
  /-- CAL_SAVE (R497). -/
  | calSave (c : Call) (fails : List Nat)
  /-- EEI_SET (R438). -/
  | eeiSet (c : Call)
  /-- EEI_WAKE (R438). -/
  | eeiWake (c : Call)
  /-- PWR_DOMAIN (R438). -/
  | pwrDomain (c : Call)
  /-- PWR_AVS (R438). -/
  | pwrAvs (c : Call)
  /-- PWR_STATUS (R438). -/
  | pwrStatus (c : Call)
  /-- NV_INFO (R439). -/
  | nvInfo (c : Call)
  /-- NV_READ (R439). -/
  | nvRead (c : Call)
  /-- NV_OPEN (R440). -/
  | nvOpen (c : Call) (fails : List Nat)
  /-- NV_WRITE (R440). -/
  | nvWrite (c : Call) (fails : List Nat)
  /-- NV_COMMIT (R440). -/
  | nvCommit (c : Call) (fails : List Nat)
  /-- NV_CLOSE (R440). -/
  | nvClose (c : Call)
  /-- NV_SAVE_CONFIG (R508). -/
  | nvSaveConfig (c : Call) (fails : List Nat)
  /-- GB_INFO (R441). -/
  | gbInfo (c : Call)
  /-- GB_READ (R519). -/
  | gbRead (c : Call)
  /-- GB_CLEAR (R516). -/
  | gbClear (c : Call)
  /-- GB_RATE (R518). -/
  | gbRate (c : Call)
  /-- REG_READ (R442). -/
  | regRead (c : Call)
  /-- REG_WRITE (R442). -/
  | regWrite (c : Call)
  /-- REG_READ_LIST (R442). -/
  | regReadList (c : Call)
  /-- REG_RMW (R442). -/
  | regRmw (c : Call)
  /-- REG_WRITE_BLOCK (R442). -/
  | regWriteBlock (c : Call)
  /-- COMMIT_CONFIG (R464). -/
  | commitConfig (c : Call)
  /-- CNC_CLAIM (R443). -/
  | cncClaim (c : Call)
  /-- CNC_RELEASE (R443). -/
  | cncRelease (c : Call)
  /-- CNC_LIST (R443). -/
  | cncList (c : Call)
  /-- SLICE_SWAP (R538). -/
  | sliceSwap (c : Call)
  /-- BIST_RUN (R443). -/
  | bistRun (c : Call)
  /-- BIST_CFG (R443). -/
  | bistCfg (c : Call)
  /-- PORTER_SWITCH (R528). -/
  | porterSwitch (c : Call)
  /-- LOCK_SET (R469). -/
  | lockSet (c : Call)
  /-- UNLOCK_WRITE (R444). -/
  | unlockWrite (c : Call)
  /-- LOCK_STATUS (R444). -/
  | lockStatus (c : Call)
  /-- COMPLETION_ACCEPT (R445). -/
  | completionAccept
  /-- REGISTER_WRITE (R452). -/
  | registerWrite (x : BusAccess) (hw : HwUpdate)
  /-- RC_READ (R452). -/
  | rcRead (x : BusAccess) (hw : HwUpdate)
  /-- COUNTER_LOW_READ (R454). -/
  | counterLowRead (x : BusAccess)
  /-- COUNTER_HIGH_WRITE (R455). -/
  | counterHighWrite (x : BusAccess)
  /-- COUNTER_LOW_WRITE (R455). -/
  | counterLowWrite (x : BusAccess) (hw : HwUpdate)
  /-- WINDOW_DATA_ACCESS (R457). -/
  | windowDataAccess (x : BusAccess)
  /-- CFG_WALKER_PASS (R462). -/
  | cfgWalkerPass (dirty : Bool)
  /-- CFG_COMMIT (R464). -/
  | cfgCommit
  /-- COMMIT_PASS_DONE (R464). -/
  | commitPassDone
  /-- CFG_CHECK_ENABLE_WRITE (R465). -/
  | cfgCheckEnableWrite (v : Word) (m : Master)
  /-- CFG_FENCED_CLEAR (R466). -/
  | cfgFencedClear
  /-- HUB_LOCK_WRITE (R469). -/
  | hubLockWrite (v : Word) (m : Master)
  /-- UNLOCK_KEY_WRITE (R470). -/
  | unlockKeyWrite (v : Word) (m : Master)
  /-- UNLOCK_WINDOW_EXPIRE (R470). -/
  | unlockWindowExpire
  /-- TRIM_TRACK_TICK (R484). -/
  | trimTrackTick (temps : List (Nat × Int))
  /-- CAL_RUN_START (R487). -/
  | calRunStart (item target : Nat) (ref : RefMeas)
  /-- CAL_RUN_DONE (R485). -/
  | calRunDone (item target : Nat) (m : CalMeas)
  /-- CAL_RUN_TIMEOUT (R495). -/
  | calRunTimeout (item target : Nat)
  /-- CAL_RETRY (R495). -/
  | calRetry (item target : Nat)
  /-- OP_SECONDS_STORE (R513). -/
  | opSecondsStore (fails : List Nat)
  /-- GB_EVENT_ACCEPT (R514). -/
  | gbEventAccept
  /-- GB_RECORD_WRITE (R514). -/
  | gbRecordWrite (fails : Bool)
  /-- GB_CLEAR_DOORBELL (R516). -/
  | gbClearDoorbell
  /-- GB_RATE_WINDOW_END (R518). -/
  | gbRateWindowEnd
  /-- PORTER_TAKEOVER (R528). -/
  | porterTakeover (cause : Nat)
  /-- BIST_UNIT_DUE (R530). -/
  | bistUnitDue
  /-- BIST_TEST_DONE (R535). -/
  | bistTestDone (unit : Nat) (fails : List MemFail)
  /-- BANK_DRAINED (R537). -/
  | bankDrained (b : Fin 66)
  /-- BANK_DRAIN_TIMEOUT (R537). -/
  | bankDrainTimeout (b : Fin 66)
  /-- MAINT_SWAP_COPY_DONE (R538). -/
  | maintSwapCopyDone (t : Tile) (old : SliceIx)
  /-- MAINT_SWAP_SHADOW_DONE (R538). -/
  | maintSwapShadowDone (t : Tile) (old : SliceIx) (agree : Bool)
  /-- CLAIM_GRANT (R542). -/
  | claimGrant (fails : List Nat)
  /-- DAP_OPERATION (R552). -/
  | dapOperation (op : Nat) (a v : Nat)
  /-- BOARD_TEST_BEGIN (R550). -/
  | boardTestBegin (load : BoardLoad)
  /-- BOARD_TEST_END (R550). -/
  | boardTestEnd
  /-- TAP_RESET (R551). -/
  | tapReset
  /-- PORTER_HALT (R554). -/
  | porterHalt (pc : Word)
  /-- PORTER_BREAKPOINT (R554). -/
  | porterBreakpoint (i : Fin 4) (pc : Word)
  /-- PORTER_RESUME (R554). -/
  | porterResume
  /-- PORTER_STEP (R554). -/
  | porterStep (pc : Word)
  /-- DBG_CORE_DATA_ACCESS (R554). -/
  | dbgCoreDataAccess (wr : Option Word)
  /-- TEMP_ALERT_ASSERT (R576). -/
  | tempAlertAssert
  /-- TEMP_ALERT_RELEASE (R576). -/
  | tempAlertRelease
  /-- TILE_LINK_LOCK_LOSS (R27). -/
  | tileLinkLockLoss (t : Tile)
  /-- FRONTEND_FAULT (R215). -/
  | frontendFault (n : Port) (p : Pair)
  /-- RESET_N_RELEASE (R375). -/
  | resetNRelease (strap : Nat)
  /-- DEVICE_RESET_END (R375). -/
  | deviceResetEnd
  /-- RING_SYNC_LOSS (R389). -/
  | ringSyncLoss (r : Fin 2) (errs : Nat)
  /-- PACKET_FORWARD (R391). -/
  | packetForward (r : Fin 2) (rx : RingRx)
  /-- CAL_RUN_START_TIMEOUT (R490). -/
  | calRunStartTimeout (item target : Nat)
  /-- DOMAIN_POWER_DOWN_DONE (R371). -/
  | domainPowerDownDone (id : Nat)
deriving DecidableEq, Repr

end Sys2Proof
end

