-- ==== Sys2Proof/Decode.lean ====
section
/-! DEFINITION. The commands that a word spells: the spec gives no row of the table any bits, so no word spells a
command (log entry 6). -/
namespace Sys2Proof

/-- The command that `nbits` bits `w` spell by the table's bits: none, for the table gives no row bits. -/
def decodeTableWord (_nbits _w : Nat) : Option Instr := none

end Sys2Proof
end

