-- ==== Sys2Proof/Machine/LineCode.lean ====
section
/-! DEFINITION. The codes of the line signal as functions on bits: the checks, whitening, the trellis code, the
constellation labels, the outer code, the waymark code, PRBS, and the order in which a port stream fills the
pairs (The Line Signal, R67 to R110). -/
namespace Sys2Proof.Machine

/-! ### Checks -/

/-- One bit of the reflected CRC-32C (R6). -/
def crc32cBit (c : Nat) : Nat := if c % 2 = 1 then (c / 2) ^^^ 0x82F63B78 else c / 2

/-- One byte of the reflected CRC-32C (R6). -/
def crc32cByte (c b : Nat) : Nat :=
  crc32cBit (crc32cBit (crc32cBit (crc32cBit (crc32cBit (crc32cBit (crc32cBit (crc32cBit (c ^^^ b))))))))

/-- CRC-32C over bytes (R6). -/
def crc32c (bs : List Nat) : Nat := (bs.foldl crc32cByte 0xFFFFFFFF) ^^^ 0xFFFFFFFF

/-- One bit of the CRC-16 of R100. -/
def crc16Bit (c : Nat) (b : Bool) : Nat :=
  if bit c 15 != b then (c * 2 % 2 ^ 16) ^^^ 0x1021 else c * 2 % 2 ^ 16

/-- CRC-16 over bits, first bit first (R100). -/
def crc16 (bs : List Bool) : Nat := bs.foldl crc16Bit 0xFFFF

/-- The low `w` bits of `v`, most significant first. -/
def bitsMsb (w v : Nat) : List Bool := (List.range w).map (fun i => bit v (w - 1 - i))

/-- The low `w` bits of `v`, least significant first. -/
def bitsLsb (w v : Nat) : List Bool := (List.range w).map (fun i => bit v i)

/-- The number whose bits, least significant first, are given. -/
def ofBitsLsb : List Bool → Nat
  | [] => 0
  | b :: bs => b.toNat + 2 * ofBitsLsb bs

/-- The number whose bits, most significant first, are given. -/
def ofBitsMsb (bs : List Bool) : Nat := bs.foldl (fun a b => 2 * a + b.toNat) 0

/-- The `k` low bytes of `v`, least significant byte first (R9). -/
def bytesLsb (k v : Nat) : List Nat := (List.range k).map (fun i => v / 256 ^ i % 256)

/-- The number whose bytes, least significant first, are given. -/
def ofBytesLsb : List Nat → Nat
  | [] => 0
  | b :: bs => b % 256 + 256 * ofBytesLsb bs

/-- Bits in sending order grouped into bytes, the first bit a byte's least significant bit (R92). -/
def bytesOfBits : Nat → List Bool → List Nat
  | 0, _ => []
  | fuel + 1, bs => if bs.isEmpty then [] else ofBitsLsb (bs.take 8) :: bytesOfBits fuel (bs.drop 8)

/-! ### Shift-register sequences -/

/-- `count` bits of the sequence x(n) = x(n - a) xor x(n - b), the history newest first. -/
def lfsr (a b : Nat) : Nat → List Bool → List Bool
  | 0, _ => []
  | count + 1, h =>
    let x := (h.getD (a - 1) false) != (h.getD (b - 1) false)
    x :: lfsr a b count (x :: h.take (b - 1))

/-- The whitening sequence w of a pair in a stage (R79): seed bits [31:0] the stage count, [33:32] p, ones above. -/
def whitening (stage p count : Nat) : List Bool :=
  lfsr 39 58 count (bitsLsb 58 (stage % 2 ^ 32 + p % 4 * 2 ^ 32 + (2 ^ 24 - 1) * 2 ^ 34))

/-- The sync sequence z of R99. -/
def syncSequence (count : Nat) : List Bool := lfsr 9 11 count (List.replicate 11 true)

/-- The sequence v of R100. -/
def waymarkMask (count : Nat) : List Bool := lfsr 4 7 count (List.replicate 7 true)

/-- The training generator of pair p (R176). -/
def trainingBits (p count : Nat) : List Bool := lfsr 18 23 count (bitsLsb 23 (0x555555 ^^^ (p * 2 ^ 20)))

/-- The taps of the PRBS polynomials of PORT_PATTERN_CFG.POLY (R42). -/
def prbsTaps : Nat → Nat × Nat
  | 0 => (6, 7)
  | 1 => (14, 15)
  | 2 => (18, 23)
  | _ => (28, 31)

/-- `count` bits of the selected PRBS after the history `h`, newest first (R53, R185). -/
def prbs (poly count : Nat) (h : List Bool) : List Bool := lfsr (prbsTaps poly).1 (prbsTaps poly).2 count h

/-- Exclusive-or of two bit lists. -/
def xorBits (a b : List Bool) : List Bool := List.zipWith (fun x y => x != y) a b

/-- Invert the first `k` bits of a list. -/
def invertFirst (k : Nat) (bs : List Bool) : List Bool := (bs.take k).map (fun b => !b) ++ bs.drop k

/-- Its descrambler: a wrong bit also disturbs the bits 39 and 58 after it (R87). -/
def descramble : List Bool → List Bool → List Bool × List Bool
  | [], h => ([], h)
  | x :: xs, h =>
    let r := descramble xs (x :: h.take 57)
    ((x != ((h.getD 38 false) != (h.getD 57 false))) :: r.1, r.2)

/-- The self-synchronising scrambler of PLAIN (R87): the scrambled bits and the new history, newest first. -/
def scramble : List Bool → List Bool → List Bool × List Bool
  | [], h => ([], h)
  | d :: ds, h =>
    let x := d != ((h.getD 38 false) != (h.getD 57 false))
    let r := scramble ds (x :: h.take 57)
    (x :: r.1, r.2)

/-! ### The inner code (R80 to R85) -/

/-- The trellis state r1 to r4. -/
abbrev Trellis := Bool × Bool × Bool × Bool

/-- One step of the trellis encoder (R81): u0 and the next state. -/
def trellisStep (r : Trellis) (u1 u2 : Bool) : Bool × Trellis :=
  (r.1, (r.1 != (r.2.1 != u2)), (r.2.2.1 != (u1 != u2)), (r.2.2.2 != u2), r.1)

/-- The coset label bits of k1 and k2 (R82), each as a number 0 to 3. -/
def cosetLabels (u0 u1 u2 u3 : Bool) : Nat × Nat :=
  ((u1 != u3).toNat * 2 + u3.toNat, (u0 != (u1 != (u2 != u3))).toNat * 2 + (u2 != u3).toNat)

/-- The bits u1 and u2 that close the trellis, with `left` 4D symbols to go, 3 to 1 (R83). -/
def closing (r : Trellis) (left : Nat) : Bool × Bool :=
  let u2 := if left = 3 then r.1 != r.2.1 else false
  (r.2.2.1 != u2, u2)

/-- Encode the 4D symbols of one data symbol (R80 to R83): bit counts of the pairs of subcarriers, payload bits,
state; the labels in ascending index. -/
def tcmEncode : List (Nat × Nat) → List Bool → Trellis → List Nat
  | [], _, _ => []
  | (b1, b2) :: rest, bs, r =>
    let left := rest.length + 1
    let (u1, u2, bs) :=
      if left ≤ 3 then ((closing r left).1, (closing r left).2, bs)
      else (bs.getD 0 false, bs.getD 1 false, bs.drop 2)
    let u3 := bs.getD 0 false
    let bs := bs.drop 1
    let (u0, r') := trellisStep r u1 u2
    let (v, w) := cosetLabels u0 u1 u2 u3
    (v + 4 * ofBitsLsb (bs.take (b1 - 2))) :: (w + 4 * ofBitsLsb ((bs.drop (b1 - 2)).take (b2 - 2))) ::
      tcmEncode rest (bs.drop (b1 + b2 - 4)) r'

/-- Group loaded subcarriers in ascending index into 4D symbols (R80). -/
def fourD : List Nat → List (Nat × Nat)
  | b1 :: b2 :: rest => (b1, b2) :: fourD rest
  | _ => []

/-- The labels of one uncoded data symbol (R87): b bits each, label bit 0 first. -/
def plainLabels : List Nat → List Bool → List Nat
  | [], _ => []
  | b :: rest, bs => ofBitsLsb (bs.take b) :: plainLabels rest (bs.drop b)

/-- Label bits c[i], c[i - 2], … down to `stop`, most significant first, read as two's complement. -/
def labelInt (c : Nat) (is : List Nat) : Int := signed is.length (ofBitsMsb (is.map (bit c)))

/-- The indices i, i - 2, i - 4, … not below `lo`. -/
def everyOther : Nat → Nat → Nat → List Nat
  | 0, _, _ => []
  | fuel + 1, i, lo => if i < lo then [] else i :: (if i < lo + 2 then [] else everyOther fuel (i - 2) lo)

/-- The integer pair (x, y) of a b-bit label (R84). -/
def labelXY (b c : Nat) : Int × Int :=
  if b % 2 = 0 then (labelInt c (everyOther b (b - 1) 1), labelInt c (everyOther b (b - 2) 0))
  else (labelInt c ((b - 1) :: everyOther b (b - 2) 1), labelInt c (everyOther b (b - 3) 0))

/-- The corner moves of R85. -/
def cornerMove (xb yb : Int) : Int × Int :=
  if xb = 3 then
    (if yb = 1 then (1, -3) else if yb = 0 then (1, 2) else if yb = -1 then (-1, -3) else (-1, 2))
  else if xb = -4 then
    (if yb = 1 then (0, -3) else if yb = 0 then (0, 2) else if yb = -1 then (-2, -3) else (-2, 2))
  else (xb, yb)

/-- The point (X, Y) of a b-bit label before scaling (R84, R85). -/
def labelPoint (b c : Nat) : Int × Int :=
  let (x, y) := labelXY b c
  let (x, y) :=
    if b % 2 = 1 ∧ 5 ≤ b then
      let u : Int := (2 ^ ((b + 1) / 2 - 3) : Nat)
      let (xb, yb) := cornerMove (x / u) (y / u)
      (xb * u + x % u, yb * u + y % u)
    else (x, y)
  (2 * x + 1, 2 * y + 1)

/-! ### The outer code of REACH (R88, R89) -/

/-- Multiplication by α in GF(2^10) with x^10 + x^3 + 1 (R88). -/
def gfTimesAlpha (a : Nat) : Nat := if bit a 9 then (a * 2 % 1024) ^^^ 9 else a * 2

/-- Multiplication in GF(2^10) (R88). -/
def gfMul (a b : Nat) : Nat :=
  ((List.range 10).foldl (fun (acc : Nat × Nat) i =>
    ((if bit b i then acc.1 ^^^ acc.2 else acc.1), gfTimesAlpha acc.2)) (0, a)).1

/-- α to the power n. -/
def gfAlpha : Nat → Nat
  | 0 => 1
  | n + 1 => gfTimesAlpha (gfAlpha n)

/-- Multiply a polynomial (coefficients, highest first) by (x - r). -/
def polyTimesRoot (p : List Nat) (r : Nat) : List Nat :=
  List.zipWith (fun a b => a ^^^ b) (p ++ [0]) (0 :: p.map (gfMul r))

/-- The generator of a code with `par` parity symbols: the product of (x - α^i), i = 0 to par - 1 (R88). -/
def rsGeneratorOf (par : Nat) : List Nat := (List.range par).foldl (fun p i => polyTimesRoot p (gfAlpha i)) [1]

/-- The generator of RS(544,520) (R88). -/
def rsGenerator : List Nat := rsGeneratorOf 24

/-- One symbol into the division register. -/
def rsStep (g : List Nat) (reg : List Nat) (m : Nat) : List Nat :=
  let f := (reg.headD 0) ^^^ m
  List.zipWith (fun a b => a ^^^ gfMul f b) (reg.drop 1 ++ [0]) g

/-- The `par` parity symbols of a message of 544 - par symbols (R88): the first symbol is the coefficient of the highest power, the
parity symbols follow highest power first; the spec gives neither order (DESIGN CHOICE, log entry 47). -/
def rsParityOf (par : Nat) (msg : List Nat) : List Nat :=
  msg.foldl (rsStep ((rsGeneratorOf par).drop 1)) (List.replicate par 0)

/-- The 24 parity symbols of RS(544,520) (R88). -/
def rsParity (msg : List Nat) : List Nat := rsParityOf 24 msg

/-- The inverse in GF(2^10): a to the power 1022. -/
def gfInv (a : Nat) : Nat :=
  ((List.range 9).foldl (fun (x : Nat × Nat) _ => let q := gfMul x.2 x.2; (gfMul x.1 q, q)) (1, a)).1

/-- A polynomial, coefficients lowest first, at a point. -/
def gfEval (p : List Nat) (x : Nat) : Nat := p.foldr (fun c acc => c ^^^ gfMul acc x) 0

/-- The sum of two polynomials, and the product with c x^m. -/
def gfAdd : List Nat → List Nat → List Nat
  | a :: as, b :: bs => (a ^^^ b) :: gfAdd as bs
  | [], bs => bs
  | as, [] => as
def gfScale (c m : Nat) (p : List Nat) : List Nat := List.replicate m 0 ++ p.map (gfMul c)

/-- The syndromes of a word, its first symbol the highest power. -/
def rsSyndromes (par : Nat) (w : List Nat) : List Nat := (List.range par).map (fun i => gfEval w.reverse (gfAlpha i))

/-- The state of the Berlekamp-Massey iteration: connection polynomial, the one before the last change, its length, steps since, and
the discrepancy then. -/
structure BmState where
  c : List Nat
  b : List Nat
  len : Nat
  gap : Nat
  disc : Nat

/-- Step n of the iteration over the syndromes. -/
def bmStep (syn : List Nat) (x : BmState) (n : Nat) : BmState :=
  let d := (List.range (x.len + 1)).foldl (fun a i => a ^^^ gfMul (x.c.getD i 0) (if i ≤ n then syn.getD (n - i) 0 else 0)) 0
  if d = 0 then { x with gap := x.gap + 1 }
  else
    let c := gfAdd x.c (gfScale (gfMul d (gfInv x.disc)) x.gap x.b)
    if 2 * x.len ≤ n then ⟨c, x.c, n + 1 - x.len, 1, d⟩ else { x with c := c, gap := x.gap + 1 }

/-- Decode a word of a code with `par` parity symbols: the corrected word with the number of symbols corrected, at most par / 2, or
none where it does not decode (R88). -/
def rsDecode (par : Nat) (w : List Nat) : Option (List Nat × Nat) :=
  let syn := rsSyndromes par w
  if syn.all (· == 0) then some (w, 0)
  else
    let x := (List.range par).foldl (bmStep syn) ⟨[1], [1], 0, 1, 1⟩
    let omega := (List.range par).map (fun i =>
      (List.range (i + 1)).foldl (fun a j => a ^^^ gfMul (x.c.getD j 0) (syn.getD (i - j) 0)) 0)
    -- the formal derivative: the odd coefficients, one power down
    let deriv := (x.c.drop 1).zipIdx.map (fun y => if y.2 % 2 = 0 then y.1 else 0)
    let n := w.length
    let fixed := w.zipIdx.map (fun y =>
      let loc := gfAlpha (n - 1 - y.2)
      let inv := gfInv loc
      if gfEval x.c inv = 0 then (y.1 ^^^ gfMul loc (gfMul (gfEval omega inv) (gfInv (gfEval deriv inv))), 1) else (y.1, 0))
    let cnt := (fixed.map (·.2)).sum
    let out := fixed.map (·.1)
    if par / 2 < x.len ∨ cnt ≠ x.len ∨ !(rsSyndromes par out).all (· == 0) then none else some (out, cnt)

/-- Bits as 10-bit symbols, the first bit the least significant (R88). -/
def symbols10 : Nat → List Bool → List Nat
  | 0, _ => []
  | fuel + 1, bs => if bs.isEmpty then [] else ofBitsLsb (bs.take 10) :: symbols10 fuel (bs.drop 10)

/-- Every second element, starting with the first. -/
def evens {α : Type} : List α → List α
  | a :: _ :: rest => a :: evens rest
  | [a] => [a]
  | [] => []

/-- Two lists taken in turn. -/
def interleave {α : Type} : List α → List α → List α
  | a :: as, b :: bs => a :: b :: interleave as bs
  | as, [] => as
  | [], bs => bs

/-- Two interleaved codewords of 10,880 bits received: their message bits, each with whether its codeword failed to decode, the
symbols corrected and the codewords that failed. -/
def openWords (par : Nat) (bs : List Bool) : List (Bool × Bool) × Nat × Nat :=
  let sy := symbols10 1088 bs
  let one (w : List Nat) : List (Nat × Bool) × Nat × Nat :=
    match rsDecode par w with
    | some (v, c) => ((v.take (544 - par)).map (fun x => (x, false)), c, 0)
    | none => ((w.take (544 - par)).map (fun x => (x, true)), 0, 1)
  let a := one (evens sy)
  let b := one (evens (sy.drop 1))
  ((interleave a.1 b.1).flatMap (fun x => (bitsLsb 10 x.1).map (fun y => (y, x.2))), a.2.1 + b.2.1, a.2.2 + b.2.2)

/-- A received interleave pair of 10,880 bits as 10,400 coach-stream bits (R89, R91). -/
def openPair (bs : List Bool) : List (Bool × Bool) × Nat × Nat := openWords 24 bs

/-- Message bits of two interleaved codewords as 10,880 bits. -/
def codewordPair (par : Nat) (bs : List Bool) : List Bool :=
  let sy := symbols10 1088 bs
  let a := evens sy
  let b := evens (sy.drop 1)
  (interleave (a ++ rsParityOf par a) (b ++ rsParityOf par b)).flatMap (bitsLsb 10)

/-- An interleave pair: 10,400 coach-stream bits as 10,880 bits (R89). -/
def interleavePair (bs : List Bool) : List Bool := codewordPair 24 bs

/-! ### The waymark code (R100) -/

/-- One bit of the rate-1/2 code, constraint length 7, generators 171 and 133 octal; the history newest first. -/
def convStep (b : Bool) (h : List Bool) : List Bool :=
  let g (i : Nat) := h.getD (i - 1) false
  [b != (g 1 != (g 2 != (g 3 != g 6))), b != (g 2 != (g 3 != (g 5 != g 6)))]

/-- The coded bits of an information word from state `h` (R100). -/
def convEncode : List Bool → List Bool → List Bool
  | [], _ => []
  | b :: bs, h => convStep b h ++ convEncode bs (b :: h.take 5)

/-- The 248 coded and masked bits of a waymark message (R100): message bits 95 down to 0, CRC-16, twelve zeros. -/
def waymarkCode (m crc : Nat) : List Bool :=
  xorBits (convEncode (bitsMsb 96 m ++ bitsMsb 16 crc ++ List.replicate 12 false) []) (waymarkMask 248)

/-- The QPSK point of a bit pair (R99). -/
def qpsk (c0 c1 : Bool) : Int × Int := (1 - 2 * (c0.toNat : Int), 1 - 2 * (c1.toNat : Int))

/-! ### Subcarriers and the word rule (R66, R94, R110) -/

/-- A pilot index (R66). -/
def isPilot (k : Nat) : Bool := decide (k % 32 = 16 ∧ k ≤ 464)

/-- An excluded index: never carries data (R66). -/
def isExcluded (k : Nat) : Bool := decide (k < 4) || isPilot k || decide (496 ≤ k)

/-- A SPLITBAND band edge (R110). -/
def isBandEdge (k : Nat) : Bool :=
  decide (k = 4 ∨ k = 495) || (decide (k % 32 = 31) && decide (k < 480)) || (decide (k % 32 = 0) && decide (32 ≤ k))

/-- Index k lies in a band that the end transmits in SPLITBAND: even bands for the lower-identity end (R110). -/
def inBand (lower : Bool) (k : Nat) : Bool := (k / 32 % 2 == 0) == lower

/-- A data subcarrier that a direction may load: outside SPLITBAND every data index, in SPLITBAND those of the
sender's bands less the band edges (R66, R110). -/
def loadable (split lower : Bool) (k : Nat) : Bool :=
  !isExcluded k && (!split || (inBand lower k && !isBandEdge k))

/-- The port stream's word w: the carrying pair that takes it and its word number there (R94). -/
def wordPlace (carry : List Nat) (w : Nat) : Nat × Nat :=
  (carry.getD (w % carry.length) 0, w / carry.length)

/-- The bits of one data symbol's stream that pair number `i` of `n` carrying pairs takes: 16-bit words in turn
(R94). -/
def pairShare (n i share : Nat) (stream : List Bool) : List Bool :=
  (List.range (share / 16)).flatMap (fun w => (stream.drop (16 * (w * n + i))).take 16)

/-! ### Coaches (R92, R93) -/

/-- The header byte: TYPE and SEQ (R93). -/
def coachHdr (ty seq : Nat) : Nat := ty % 4 * 64 + seq % 64

/-- The 10,288 bits under the CRC, in sending order (R92). -/
def coachBits (hdr : Nat) (blocks : List Nat) : List Bool :=
  bitsLsb 8 hdr ++ blocks.flatMap (bitsLsb 257)

/-- The CRC-32C of a coach: header and blocks as 1286 bytes (R92). -/
def coachCrc (hdr : Nat) (blocks : List Nat) : Nat := crc32c (bytesOfBits 1286 (coachBits hdr blocks))

/-- The waymark message as 96 bits (R101). -/
def msgWord (code seq ack stage now pmask ppoly arg : Nat) : Nat :=
  code % 256 * 2 ^ 88 + seq % 16 * 2 ^ 84 + ack % 16 * 2 ^ 80 + stage % 2 ^ 32 * 2 ^ 48 + now % 256 * 2 ^ 40 +
    pmask % 16 * 2 ^ 36 + ppoly % 4 * 2 ^ 34 + arg % 2 ^ 32

end Sys2Proof.Machine
end

