-- ==== Sys2Proof/Config.lean ====
section
/-! DEFINITION. What an implementation fixes and the spec leaves open: the free values. None has a body, so no
proof can see what any of them is (log entries 2 and 3). -/
namespace Sys2Proof.Config

/-- A value the spec leaves open, one for each count of `State.free` (log entry 3). -/
opaque freeNat : Nat → Nat

/-- A random draw of the device (sender identities of R156, back-off of R170, hold-off of R193, the uncorrectable
pattern's place): one for each count of `State.free` (log entry 3). -/
opaque freeDraw : Nat → Nat

/-- Trained coefficients: entry i of the memory that training number k left (R128, R130, R136; log entry 3). -/
opaque freeCoef : Nat → Nat → Nat

/-- The exponent of the LMS step of W: the spec gives none (R136; log entry 3). -/
opaque weightShift : Nat

/-- The exponents of the third-order timing loop for a TR_BW code: phase, frequency, rate (order 0 to 2); the spec gives its bandwidths
alone (R121, R122; log entry 3). -/
opaque loopShift : Nat → Nat → Nat

/-- The largest sample that the ADC gives: the spec gives no scale of it (R118; log entry 3). -/
opaque adcFull : Nat

/-- A line of a reflection or cross response at the reference plane in 2^-15, from the average at a pair: divided by the chirp's amplitude
at a level and gain, the device's own response removed by the front-end reference of CALIB, whose form the spec does not give (R320;
log entry 3). -/
opaque referencePlane : Nat → Nat → Nat → Nat → Nat → Int × Int → Int × Int

/-- Where a response of taps stands out: round-trip delay in ps and step height in 1/128 after the 1.5 GHz filter, by ascending delay; the
spec does not give the search (R321, R322; log entry 3). -/
opaque reflections : List Int → List (Nat × Int)

/-- The stored front-end response of a pair at a subcarrier in 0.1 dB (R325; log entry 3). -/
opaque frontEndLoss : Nat → Nat → Int

/-- The fixed 5440-bit uncorrectable pattern stored in the device (R259): the spec gives no bits of it. -/
opaque uncorrectablePattern : Nat

/-- The alignment markers of Clause 119 at half or at full rate: the spec gives no bits of them (R4, log entry 10). -/
opaque alignmentMarkers : Bool → Nat

/-- What the transmitter puts on reserved subcarrier k for the other subcarriers of a symbol, TR_ITER and PAR_TARGET, in 2^-15 of the
mask's amplitude; and whether a sample still exceeds DAC full scale (R109): the spec gives neither the algorithm nor that scale
(log entry 3). -/
opaque reserved : List Tone → Nat → Nat → Nat → Int × Int
opaque clipped : List Tone → Nat → Nat → Bool

end Sys2Proof.Config
end

