-- ==== Sys2Proof/Machine/Store.lean ====
section
/-! DEFINITION. Sparse stores: a list of key and value pairs in one canonical form (keys strictly rising, no
entry equal to what an unlisted key reads as), so that equal contents are equal data. -/
namespace Sys2Proof.Machine

/-- A sparse store: key and value pairs. -/
abbrev SMap (α : Type) := List (Nat × α)

/-- The value at key `k`: the listed one, or what the unlisted key reads as (`d k`). -/
def SMap.get {α : Type} (d : Nat → α) : SMap α → Nat → α
  | [], k => d k
  | (j, v) :: m, k => if k = j then v else SMap.get d m k

/-- Take key `k` out of the store. -/
def SMap.drop {α : Type} : SMap α → Nat → SMap α
  | [], _ => []
  | (j, v) :: m, k => if k = j then SMap.drop m k else (j, v) :: SMap.drop m k

/-- Put key `k` into the store at its place among rising keys. -/
def SMap.insert {α : Type} : SMap α → Nat → α → SMap α
  | [], k, v => [(k, v)]
  | (j, w) :: m, k, v => if k < j then (k, v) :: (j, w) :: m else (j, w) :: SMap.insert m k v

/-- Write `v` at key `k`, keeping the canonical form. -/
def SMap.put {α : Type} [DecidableEq α] (d : Nat → α) (m : SMap α) (k : Nat) (v : α) : SMap α :=
  if v = d k then SMap.drop m k else SMap.insert (SMap.drop m k) k v

/-- Every key of the store is above `b`. -/
def SMap.above {α : Type} (b : Nat) : SMap α → Bool
  | [] => true
  | (j, _) :: m => decide (b < j) && SMap.above b m

/-- The canonical form: keys strictly rising and no listed value equal to the unlisted one. -/
def SMap.wf {α : Type} [DecidableEq α] (d : Nat → α) : SMap α → Bool
  | [] => true
  | (j, v) :: m => SMap.above j m && decide (v ≠ d j) && SMap.wf d m

end Sys2Proof.Machine
end

