-- ==== Sys2Proof/Machine/Regs.lean ====
section
/-! DEFINITION. The register map: every register of the spec by its bus address (R447, R13), every field by its
bits, and the table of access types, configuration-check marks (C) and reset values, written from the register
tables of the chapters. A register is a function of its instance (port n, pair p, lane h, tile t, slice s). -/
namespace Sys2Proof.Machine

/-- A field of a register: the bus address of its word, its high bit and its low bit. -/
structure Fld where
  addr : Nat
  hi : Nat
  lo : Nat
deriving DecidableEq, Repr

/-- The access types of R11. -/
inductive Acc where
  | rw | ro | w1c | rc | wo | rwh | mw | rwl
deriving DecidableEq, Repr

/-- One row of a register table: bits, access type, the C mark and the reset value. -/
structure FieldDef where
  hi : Nat
  lo : Nat
  acc : Acc
  cfg : Bool
  reset : Nat
deriving DecidableEq, Repr

/-- Which half of a 64-bit register a word is (R454, R455). -/
inductive Half where
  | whole | low | high
deriving DecidableEq, Repr

/-- One register of a block: offset, stride and count of a family, and its fields. -/
structure RegDef where
  off : Nat
  stride : Nat
  count : Nat
  half : Half
  fields : List FieldDef
deriving DecidableEq, Repr

/-- The kinds of register block (R447). -/
inductive Blk where
  | hub | lane | hostel | ttPort | cal | nv | gb | bist | cnc | mr | dbg | tile | port | pair | slice
deriving DecidableEq, Repr

/-- Base of host lane h's block (R447). -/
def laneBase (h : Nat) : Nat := 0x01000000 + h * 0x1000
/-- Base of port n's Timetable block (R447). -/
def ttBase (n : Nat) : Nat := 0x02010000 + n * 0x100
/-- Base of tile t's common block (R23, R447). -/
def tileBase (t : Nat) : Nat := 0x10000000 + t * 0x01000000
/-- Base of port n's block on its tile (R42, R447). -/
def portBase (n : Nat) : Nat := 0x10100000 + n / 16 * 0x01000000 + n % 16 * 0x10000
/-- Base of the block of pair p of port n (R447). -/
def pairBase (n p : Nat) : Nat := portBase n + 0x8000 + p * 0x1000
/-- Base of slice s's block on tile t (R447). -/
def sliceBase (t s : Nat) : Nat := 0x10F00000 + t * 0x01000000 + s * 0x1000

/-- Base of the hub block (R447). -/
def hubBase : Nat := 0x00000000
/-- Base of the hostel block (R447). -/
def hostelBase : Nat := 0x02000000
/-- Base of the cal block (R447). -/
def calBase : Nat := 0x03000000
/-- Base of the nv block (R447). -/
def nvBase : Nat := 0x03010000
/-- Base of the gb block (R447). -/
def gbBase : Nat := 0x03020000
/-- Base of the bist block (R447). -/
def bistBase : Nat := 0x03030000
/-- Base of the cnc block (R447). -/
def cncBase : Nat := 0x03040000
/-- Base of the mr block (R447). -/
def mrBase : Nat := 0x04000000
/-- Base of the dbg block (R447). -/
def dbgBase : Nat := 0x04010000

/-- HUB_ID: R476 of 15_registers.md. -/
def HUB_ID : Nat := hubBase + 0x0
def HUB_ID.PART : Fld := ⟨HUB_ID, 31, 16⟩
def HUB_ID.STEP : Fld := ⟨HUB_ID, 7, 0⟩
/-- HUB_UID_LO: R476 of 15_registers.md. -/
def HUB_UID_LO : Nat := hubBase + 0x4
def HUB_UID_LO.UID : Fld := ⟨HUB_UID_LO, 31, 0⟩
/-- HUB_UID_HI: R476 of 15_registers.md. -/
def HUB_UID_HI : Nat := hubBase + 0x8
def HUB_UID_HI.UID : Fld := ⟨HUB_UID_HI, 31, 0⟩
/-- HUB_FW_VERSION: R476 of 15_registers.md. -/
def HUB_FW_VERSION : Nat := hubBase + 0xC
def HUB_FW_VERSION.VERSION : Fld := ⟨HUB_FW_VERSION, 31, 0⟩
/-- HUB_SCRATCH: R476 of 15_registers.md. -/
def HUB_SCRATCH : Nat := hubBase + 0x10
def HUB_SCRATCH.DATA : Fld := ⟨HUB_SCRATCH, 31, 0⟩
/-- HUB_STATUS: R476 of 15_registers.md. -/
def HUB_STATUS : Nat := hubBase + 0x14
def HUB_STATUS.WRITE_LOST : Fld := ⟨HUB_STATUS, 31, 31⟩
def HUB_STATUS.UNMAPPED : Fld := ⟨HUB_STATUS, 30, 30⟩
/-- HUB_WRITE_LOST_ADDR: R476 of 15_registers.md. -/
def HUB_WRITE_LOST_ADDR : Nat := hubBase + 0x18
def HUB_WRITE_LOST_ADDR.ADDR : Fld := ⟨HUB_WRITE_LOST_ADDR, 31, 0⟩
/-- HUB_WRITE_LOST_COUNT: R476 of 15_registers.md. -/
def HUB_WRITE_LOST_COUNT : Nat := hubBase + 0x1C
def HUB_WRITE_LOST_COUNT.COUNT : Fld := ⟨HUB_WRITE_LOST_COUNT, 31, 0⟩
/-- HUB_UNMAPPED_ADDR: R476 of 15_registers.md. -/
def HUB_UNMAPPED_ADDR : Nat := hubBase + 0x20
def HUB_UNMAPPED_ADDR.ADDR : Fld := ⟨HUB_UNMAPPED_ADDR, 31, 0⟩
/-- CLK_DIV: R357 of 11_clocks.md. -/
def CLK_DIV : Nat := hubBase + 0x100
def CLK_DIV.FCLK_RED : Fld := ⟨CLK_DIV, 8, 8⟩
def CLK_DIV.RCLK_DIV : Fld := ⟨CLK_DIV, 5, 4⟩
def CLK_DIV.MCLK_DIV : Fld := ⟨CLK_DIV, 1, 0⟩
/-- CLK_STATUS: R357 of 11_clocks.md. -/
def CLK_STATUS : Nat := hubBase + 0x104
def CLK_STATUS.REF_QUAL : Fld := ⟨CLK_STATUS, 31, 31⟩
def CLK_STATUS.REF_LOST : Fld := ⟨CLK_STATUS, 30, 30⟩
def CLK_STATUS.ACLK_AOSC : Fld := ⟨CLK_STATUS, 29, 29⟩
def CLK_STATUS.HUBPLL_LOCK : Fld := ⟨CLK_STATUS, 28, 28⟩
def CLK_STATUS.RINGPLL_LOCK : Fld := ⟨CLK_STATUS, 27, 27⟩
def CLK_STATUS.SWITCH_BUSY : Fld := ⟨CLK_STATUS, 26, 26⟩
def CLK_STATUS.FCLK_RED_ACT : Fld := ⟨CLK_STATUS, 8, 8⟩
def CLK_STATUS.RCLK_ACT : Fld := ⟨CLK_STATUS, 5, 4⟩
def CLK_STATUS.MCLK_ACT : Fld := ⟨CLK_STATUS, 1, 0⟩
/-- CLK_FLAGS: R357 of 11_clocks.md. -/
def CLK_FLAGS : Nat := hubBase + 0x108
def CLK_FLAGS.CDC_ANY : Fld := ⟨CLK_FLAGS, 8, 8⟩
def CLK_FLAGS.RINGPLL_UNLOCK : Fld := ⟨CLK_FLAGS, 4, 4⟩
def CLK_FLAGS.HUBPLL_UNLOCK : Fld := ⟨CLK_FLAGS, 3, 3⟩
def CLK_FLAGS.SWITCH_FORCED : Fld := ⟨CLK_FLAGS, 2, 2⟩
def CLK_FLAGS.REF_REQUAL : Fld := ⟨CLK_FLAGS, 1, 1⟩
def CLK_FLAGS.REF_LOST : Fld := ⟨CLK_FLAGS, 0, 0⟩
/-- CLK_REF_LOSSES: R357 of 11_clocks.md. -/
def CLK_REF_LOSSES : Nat := hubBase + 0x110
def CLK_REF_LOSSES.COUNT : Fld := ⟨CLK_REF_LOSSES, 31, 0⟩
/-- CLK_SWITCHES: R357 of 11_clocks.md. -/
def CLK_SWITCHES : Nat := hubBase + 0x114
def CLK_SWITCHES.COUNT : Fld := ⟨CLK_SWITCHES, 31, 0⟩
/-- CLK_SWITCHES_FORCED: R357 of 11_clocks.md. -/
def CLK_SWITCHES_FORCED : Nat := hubBase + 0x118
def CLK_SWITCHES_FORCED.COUNT : Fld := ⟨CLK_SWITCHES_FORCED, 31, 0⟩
/-- CLK_REF_LOST_TIME: R357 of 11_clocks.md. -/
def CLK_REF_LOST_TIME : Nat := hubBase + 0x11C
def CLK_REF_LOST_TIME.TIME : Fld := ⟨CLK_REF_LOST_TIME, 31, 0⟩
/-- CLK_CDC_OVERRUN0: R357 of 11_clocks.md. -/
def CLK_CDC_OVERRUN0 : Nat := hubBase + 0x120
def CLK_CDC_OVERRUN0.TILE : Fld := ⟨CLK_CDC_OVERRUN0, 15, 8⟩
def CLK_CDC_OVERRUN0.HUB : Fld := ⟨CLK_CDC_OVERRUN0, 7, 0⟩
/-- CLK_CDC_OVERRUN1: R357 of 11_clocks.md. -/
def CLK_CDC_OVERRUN1 : Nat := hubBase + 0x124
def CLK_CDC_OVERRUN1.OCTET : Fld := ⟨CLK_CDC_OVERRUN1, 16, 0⟩
/-- CLK_HPLL_STATUS: R357 of 11_clocks.md. -/
def CLK_HPLL_STATUS (o : Nat) : Nat := hubBase + 0x140 + 4 * o
def CLK_HPLL_STATUS.LOCKED (o : Nat) : Fld := ⟨CLK_HPLL_STATUS o, 31, 31⟩
def CLK_HPLL_STATUS.COASTING (o : Nat) : Fld := ⟨CLK_HPLL_STATUS o, 30, 30⟩
def CLK_HPLL_STATUS.UNLOCK (o : Nat) : Fld := ⟨CLK_HPLL_STATUS o, 29, 29⟩
def CLK_HPLL_STATUS.LOSSES (o : Nat) : Fld := ⟨CLK_HPLL_STATUS o, 15, 0⟩
/-- PWR_PHASE: R385 of 12_power_reset.md. -/
def PWR_PHASE : Nat := hubBase + 0x200
def PWR_PHASE.BOOT_STEP : Fld := ⟨PWR_PHASE, 15, 12⟩
def PWR_PHASE.FW_ROM : Fld := ⟨PWR_PHASE, 9, 9⟩
def PWR_PHASE.FW_BANK : Fld := ⟨PWR_PHASE, 8, 8⟩
def PWR_PHASE.READY : Fld := ⟨PWR_PHASE, 4, 4⟩
def PWR_PHASE.PHASE : Fld := ⟨PWR_PHASE, 1, 0⟩
/-- PWR_NEXT_PHASE: R385 of 12_power_reset.md. -/
def PWR_NEXT_PHASE : Nat := hubBase + 0x204
def PWR_NEXT_PHASE.NEXT : Fld := ⟨PWR_NEXT_PHASE, 1, 0⟩
/-- PWR_RESET_CAUSE: R385 of 12_power_reset.md. -/
def PWR_RESET_CAUSE : Nat := hubBase + 0x208
def PWR_RESET_CAUSE.RAIL : Fld := ⟨PWR_RESET_CAUSE, 21, 16⟩
def PWR_RESET_CAUSE.CAUSE : Fld := ⟨PWR_RESET_CAUSE, 7, 0⟩
/-- PWR_BOOT_TIME: R385 of 12_power_reset.md. -/
def PWR_BOOT_TIME : Nat := hubBase + 0x20C
def PWR_BOOT_TIME.TIME : Fld := ⟨PWR_BOOT_TIME, 31, 0⟩
/-- PWR_DEVICE_RESETS: R385 of 12_power_reset.md. -/
def PWR_DEVICE_RESETS : Nat := hubBase + 0x210
def PWR_DEVICE_RESETS.COUNT : Fld := ⟨PWR_DEVICE_RESETS, 31, 0⟩
/-- PWR_BOOT_FAILS: R385 of 12_power_reset.md. -/
def PWR_BOOT_FAILS : Nat := hubBase + 0x214
def PWR_BOOT_FAILS.COUNT : Fld := ⟨PWR_BOOT_FAILS, 7, 0⟩
/-- PWR_RAIL_STATUS: R385 of 12_power_reset.md. -/
def PWR_RAIL_STATUS : Nat := hubBase + 0x220
def PWR_RAIL_STATUS.GOOD : Fld := ⟨PWR_RAIL_STATUS, 6, 0⟩
/-- PWR_AVS_CFG: R385 of 12_power_reset.md. -/
def PWR_AVS_CFG : Nat := hubBase + 0x230
def PWR_AVS_CFG.ENABLE : Fld := ⟨PWR_AVS_CFG, 31, 31⟩
def PWR_AVS_CFG.VMAX : Fld := ⟨PWR_AVS_CFG, 27, 16⟩
def PWR_AVS_CFG.VMIN : Fld := ⟨PWR_AVS_CFG, 11, 0⟩
/-- PWR_AVS_STATUS: R385 of 12_power_reset.md. -/
def PWR_AVS_STATUS : Nat := hubBase + 0x234
def PWR_AVS_STATUS.FAULT : Fld := ⟨PWR_AVS_STATUS, 31, 31⟩
def PWR_AVS_STATUS.BUSY : Fld := ⟨PWR_AVS_STATUS, 30, 30⟩
def PWR_AVS_STATUS.TARGET : Fld := ⟨PWR_AVS_STATUS, 27, 16⟩
def PWR_AVS_STATUS.VOUT : Fld := ⟨PWR_AVS_STATUS, 11, 0⟩
/-- PWR_AVS_IOUT: R385 of 12_power_reset.md. -/
def PWR_AVS_IOUT : Nat := hubBase + 0x238
def PWR_AVS_IOUT.IOUT : Fld := ⟨PWR_AVS_IOUT, 15, 0⟩
/-- PWR_AVS_FAULTS: R385 of 12_power_reset.md. -/
def PWR_AVS_FAULTS : Nat := hubBase + 0x23C
def PWR_AVS_FAULTS.COUNT : Fld := ⟨PWR_AVS_FAULTS, 31, 0⟩
/-- PWR_DOMAIN_CFG: R385 of 12_power_reset.md. -/
def PWR_DOMAIN_CFG : Nat := hubBase + 0x240
def PWR_DOMAIN_CFG.TILE_AUTO_OFF : Fld := ⟨PWR_DOMAIN_CFG, 31, 31⟩
def PWR_DOMAIN_CFG.PORT_AUTO_OFF : Fld := ⟨PWR_DOMAIN_CFG, 30, 30⟩
def PWR_DOMAIN_CFG.OCTET_AUTO_OFF : Fld := ⟨PWR_DOMAIN_CFG, 29, 29⟩
def PWR_DOMAIN_CFG.RETURN_US : Fld := ⟨PWR_DOMAIN_CFG, 15, 0⟩
/-- PWR_DOM_ADDR: R385 of 12_power_reset.md. -/
def PWR_DOM_ADDR : Nat := hubBase + 0x250
def PWR_DOM_ADDR.AUTO_INC : Fld := ⟨PWR_DOM_ADDR, 16, 16⟩
def PWR_DOM_ADDR.ID : Fld := ⟨PWR_DOM_ADDR, 11, 0⟩
/-- PWR_DOM_DATA: R385 of 12_power_reset.md. -/
def PWR_DOM_DATA : Nat := hubBase + 0x254
def PWR_DOM_DATA.WAKES : Fld := ⟨PWR_DOM_DATA, 31, 16⟩
def PWR_DOM_DATA.REG_AWAKE : Fld := ⟨PWR_DOM_DATA, 4, 4⟩
def PWR_DOM_DATA.STATE : Fld := ⟨PWR_DOM_DATA, 2, 0⟩
/-- PWR_DOM_CTRL: R385 of 12_power_reset.md. -/
def PWR_DOM_CTRL : Nat := hubBase + 0x258
def PWR_DOM_CTRL.REQ : Fld := ⟨PWR_DOM_CTRL, 17, 16⟩
def PWR_DOM_CTRL.ID : Fld := ⟨PWR_DOM_CTRL, 11, 0⟩
/-- PWR_STATUS: R385 of 12_power_reset.md. -/
def PWR_STATUS : Nat := hubBase + 0x25C
def PWR_STATUS.CMD_IGNORED : Fld := ⟨PWR_STATUS, 0, 0⟩
/-- PWR_WAKE_MAX: R385 of 12_power_reset.md. -/
def PWR_WAKE_MAX : Nat := hubBase + 0x260
def PWR_WAKE_MAX.TIME : Fld := ⟨PWR_WAKE_MAX, 19, 0⟩
/-- PWR_DOMAIN_FAULTS: R385 of 12_power_reset.md. -/
def PWR_DOMAIN_FAULTS : Nat := hubBase + 0x264
def PWR_DOMAIN_FAULTS.COUNT : Fld := ⟨PWR_DOMAIN_FAULTS, 31, 0⟩
/-- PWR_DOMAIN_WAKES: R385 of 12_power_reset.md. -/
def PWR_DOMAIN_WAKES : Nat := hubBase + 0x268
def PWR_DOMAIN_WAKES.COUNT : Fld := ⟨PWR_DOMAIN_WAKES, 31, 0⟩
/-- PWR_DOMAIN_LAST_FAULT: R385 of 12_power_reset.md. -/
def PWR_DOMAIN_LAST_FAULT : Nat := hubBase + 0x26C
def PWR_DOMAIN_LAST_FAULT.ID : Fld := ⟨PWR_DOMAIN_LAST_FAULT, 11, 0⟩
/-- HUB_INT_STATUS: R477 of 15_registers.md. -/
def HUB_INT_STATUS : Nat := hubBase + 0x300
def HUB_INT_STATUS.PORTER : Fld := ⟨HUB_INT_STATUS, 16, 16⟩
def HUB_INT_STATUS.WRITE_LOST : Fld := ⟨HUB_INT_STATUS, 15, 15⟩
def HUB_INT_STATUS.CDC : Fld := ⟨HUB_INT_STATUS, 14, 14⟩
def HUB_INT_STATUS.NV : Fld := ⟨HUB_INT_STATUS, 13, 13⟩
def HUB_INT_STATUS.BIST : Fld := ⟨HUB_INT_STATUS, 12, 12⟩
def HUB_INT_STATUS.CAL : Fld := ⟨HUB_INT_STATUS, 11, 11⟩
def HUB_INT_STATUS.RING : Fld := ⟨HUB_INT_STATUS, 10, 10⟩
def HUB_INT_STATUS.HOSTEL : Fld := ⟨HUB_INT_STATUS, 9, 9⟩
def HUB_INT_STATUS.LOCK : Fld := ⟨HUB_INT_STATUS, 8, 8⟩
def HUB_INT_STATUS.CONFIG : Fld := ⟨HUB_INT_STATUS, 7, 7⟩
def HUB_INT_STATUS.POWER : Fld := ⟨HUB_INT_STATUS, 6, 6⟩
def HUB_INT_STATUS.CLOCK : Fld := ⟨HUB_INT_STATUS, 5, 5⟩
def HUB_INT_STATUS.SPARE_WAIT : Fld := ⟨HUB_INT_STATUS, 4, 4⟩
def HUB_INT_STATUS.LANE : Fld := ⟨HUB_INT_STATUS, 3, 3⟩
def HUB_INT_STATUS.LINK : Fld := ⟨HUB_INT_STATUS, 2, 2⟩
def HUB_INT_STATUS.GUESTBOOK : Fld := ⟨HUB_INT_STATUS, 1, 1⟩
def HUB_INT_STATUS.JOB : Fld := ⟨HUB_INT_STATUS, 0, 0⟩
/-- HUB_INT_ENABLE: R477 of 15_registers.md. -/
def HUB_INT_ENABLE : Nat := hubBase + 0x304
def HUB_INT_ENABLE.ENABLE : Fld := ⟨HUB_INT_ENABLE, 16, 0⟩
/-- HUB_INT_SUMMARY: R477 of 15_registers.md. -/
def HUB_INT_SUMMARY : Nat := hubBase + 0x308
def HUB_INT_SUMMARY.SUMMARY : Fld := ⟨HUB_INT_SUMMARY, 16, 0⟩
/-- HUB_INT_PORT: R477 of 15_registers.md. -/
def HUB_INT_PORT (j : Nat) : Nat := hubBase + 0x310 + 4 * j
def HUB_INT_PORT.CHANGED (j : Nat) : Fld := ⟨HUB_INT_PORT j, 31, 0⟩
/-- HUB_INT_LANE: R477 of 15_registers.md. -/
def HUB_INT_LANE (j : Nat) : Nat := hubBase + 0x320 + 4 * j
def HUB_INT_LANE.CHANGED (j : Nat) : Fld := ⟨HUB_INT_LANE j, 31, 0⟩
/-- CFG_CHECK_CFG: R478 of 15_registers.md. -/
def CFG_CHECK_CFG : Nat := hubBase + 0x400
def CFG_CHECK_CFG.ENABLE : Fld := ⟨CFG_CHECK_CFG, 31, 31⟩
def CFG_CHECK_CFG.ACTION : Fld := ⟨CFG_CHECK_CFG, 1, 0⟩
/-- CFG_CRC_REF: R478 of 15_registers.md. -/
def CFG_CRC_REF : Nat := hubBase + 0x404
def CFG_CRC_REF.CRC : Fld := ⟨CFG_CRC_REF, 31, 0⟩
/-- CFG_CRC_NOW: R478 of 15_registers.md. -/
def CFG_CRC_NOW : Nat := hubBase + 0x408
def CFG_CRC_NOW.CRC : Fld := ⟨CFG_CRC_NOW, 31, 0⟩
/-- CFG_CHECK_STATUS: R478 of 15_registers.md. -/
def CFG_CHECK_STATUS : Nat := hubBase + 0x40C
def CFG_CHECK_STATUS.MISMATCH : Fld := ⟨CFG_CHECK_STATUS, 31, 31⟩
def CFG_CHECK_STATUS.FENCED : Fld := ⟨CFG_CHECK_STATUS, 30, 30⟩
def CFG_CHECK_STATUS.RELOADED : Fld := ⟨CFG_CHECK_STATUS, 29, 29⟩
def CFG_CHECK_STATUS.COMMIT_BUSY : Fld := ⟨CFG_CHECK_STATUS, 28, 28⟩
def CFG_CHECK_STATUS.SEG_MISMATCH : Fld := ⟨CFG_CHECK_STATUS, 24, 16⟩
def CFG_CHECK_STATUS.SKIPPED : Fld := ⟨CFG_CHECK_STATUS, 8, 0⟩
/-- CFG_COMMIT: R478 of 15_registers.md. -/
def CFG_COMMIT : Nat := hubBase + 0x410
def CFG_COMMIT.COMMIT : Fld := ⟨CFG_COMMIT, 0, 0⟩
/-- CFG_PASSES: R478 of 15_registers.md. -/
def CFG_PASSES : Nat := hubBase + 0x414
def CFG_PASSES.COUNT : Fld := ⟨CFG_PASSES, 31, 0⟩
/-- CFG_DIRTY: R478 of 15_registers.md. -/
def CFG_DIRTY : Nat := hubBase + 0x418
def CFG_DIRTY.COUNT : Fld := ⟨CFG_DIRTY, 31, 0⟩
/-- CFG_MISMATCHES: R478 of 15_registers.md. -/
def CFG_MISMATCHES : Nat := hubBase + 0x41C
def CFG_MISMATCHES.COUNT : Fld := ⟨CFG_MISMATCHES, 31, 0⟩
/-- CFG_RELOADS: R478 of 15_registers.md. -/
def CFG_RELOADS : Nat := hubBase + 0x420
def CFG_RELOADS.COUNT : Fld := ⟨CFG_RELOADS, 31, 0⟩
/-- CFG_SEG_REF: R478 of 15_registers.md. -/
def CFG_SEG_REF (j : Nat) : Nat := hubBase + 0x430 + 4 * j
def CFG_SEG_REF.CRC (j : Nat) : Fld := ⟨CFG_SEG_REF j, 31, 0⟩
/-- HUB_LOCK: R479 of 15_registers.md. -/
def HUB_LOCK : Nat := hubBase + 0x500
def HUB_LOCK.LOCK : Fld := ⟨HUB_LOCK, 0, 0⟩
/-- UNLOCK_KEY: R479 of 15_registers.md. -/
def UNLOCK_KEY : Nat := hubBase + 0x504
def UNLOCK_KEY.KEY : Fld := ⟨UNLOCK_KEY, 15, 0⟩
/-- HUB_LOCK_STATUS: R479 of 15_registers.md. -/
def HUB_LOCK_STATUS : Nat := hubBase + 0x508
def HUB_LOCK_STATUS.WINDOW_OPEN : Fld := ⟨HUB_LOCK_STATUS, 31, 31⟩
def HUB_LOCK_STATUS.LOCK : Fld := ⟨HUB_LOCK_STATUS, 30, 30⟩
def HUB_LOCK_STATUS.PHASE : Fld := ⟨HUB_LOCK_STATUS, 29, 28⟩
def HUB_LOCK_STATUS.VIOLATION : Fld := ⟨HUB_LOCK_STATUS, 27, 27⟩
def HUB_LOCK_STATUS.KEY_BAD : Fld := ⟨HUB_LOCK_STATUS, 26, 26⟩
def HUB_LOCK_STATUS.TIME_LEFT : Fld := ⟨HUB_LOCK_STATUS, 10, 0⟩
/-- HUB_LOCK_LAST_ADDR: R479 of 15_registers.md. -/
def HUB_LOCK_LAST_ADDR : Nat := hubBase + 0x50C
def HUB_LOCK_LAST_ADDR.ADDR : Fld := ⟨HUB_LOCK_LAST_ADDR, 31, 0⟩
/-- HUB_LOCK_VIOLATIONS: R479 of 15_registers.md. -/
def HUB_LOCK_VIOLATIONS : Nat := hubBase + 0x510
def HUB_LOCK_VIOLATIONS.COUNT : Fld := ⟨HUB_LOCK_VIOLATIONS, 31, 0⟩
/-- HUB_LOCK_KEY_BAD: R479 of 15_registers.md. -/
def HUB_LOCK_KEY_BAD : Nat := hubBase + 0x514
def HUB_LOCK_KEY_BAD.COUNT : Fld := ⟨HUB_LOCK_KEY_BAD, 31, 0⟩
/-- HL_CFG: R288 of 08_host_lanes.md. -/
def HL_CFG (h : Nat) : Nat := laneBase h + 0x0
def HL_CFG.ENABLE (h : Nat) : Fld := ⟨HL_CFG h, 31, 31⟩
def HL_CFG.RATE (h : Nat) : Fld := ⟨HL_CFG h, 30, 30⟩
def HL_CFG.PRECODE_TX (h : Nat) : Fld := ⟨HL_CFG h, 29, 29⟩
def HL_CFG.PRECODE_RX (h : Nat) : Fld := ⟨HL_CFG h, 28, 28⟩
def HL_CFG.TX_INV (h : Nat) : Fld := ⟨HL_CFG h, 27, 27⟩
def HL_CFG.RX_INV (h : Nat) : Fld := ⟨HL_CFG h, 26, 26⟩
/-- HL_TX_FFE: R288 of 08_host_lanes.md. -/
def HL_TX_FFE (h : Nat) : Nat := laneBase h + 0x4
def HL_TX_FFE.AMP (h : Nat) : Fld := ⟨HL_TX_FFE h, 19, 16⟩
def HL_TX_FFE.PRE (h : Nat) : Fld := ⟨HL_TX_FFE h, 12, 8⟩
def HL_TX_FFE.POST (h : Nat) : Fld := ⟨HL_TX_FFE h, 5, 0⟩
/-- HL_STATUS: R288 of 08_host_lanes.md. -/
def HL_STATUS (h : Nat) : Nat := laneBase h + 0x8
def HL_STATUS.STATE (h : Nat) : Fld := ⟨HL_STATUS h, 31, 28⟩
def HL_STATUS.CTLE (h : Nat) : Fld := ⟨HL_STATUS h, 20, 16⟩
def HL_STATUS.PORT (h : Nat) : Fld := ⟨HL_STATUS h, 14, 8⟩
def HL_STATUS.RATE_PENDING (h : Nat) : Fld := ⟨HL_STATUS h, 4, 4⟩
def HL_STATUS.FFE_CLAMPED (h : Nat) : Fld := ⟨HL_STATUS h, 3, 3⟩
def HL_STATUS.SIGNAL (h : Nat) : Fld := ⟨HL_STATUS h, 2, 2⟩
def HL_STATUS.CDR_LOCK (h : Nat) : Fld := ⟨HL_STATUS h, 1, 1⟩
def HL_STATUS.AM_LOCK (h : Nat) : Fld := ⟨HL_STATUS h, 0, 0⟩
/-- HL_RX_CFG: R288 of 08_host_lanes.md. -/
def HL_RX_CFG (h : Nat) : Nat := laneBase h + 0xC
def HL_RX_CFG.CTLE_MANUAL (h : Nat) : Fld := ⟨HL_RX_CFG h, 31, 31⟩
def HL_RX_CFG.FREEZE (h : Nat) : Fld := ⟨HL_RX_CFG h, 30, 30⟩
def HL_RX_CFG.CTLE_CODE (h : Nat) : Fld := ⟨HL_RX_CFG h, 20, 16⟩
/-- HL_FAULT_CFG: R288 of 08_host_lanes.md. -/
def HL_FAULT_CFG (h : Nat) : Nat := laneBase h + 0x10
def HL_FAULT_CFG.AUTO (h : Nat) : Fld := ⟨HL_FAULT_CFG h, 31, 31⟩
def HL_FAULT_CFG.UNCORR_MAX (h : Nat) : Fld := ⟨HL_FAULT_CFG h, 8, 0⟩
/-- HL_FAULT_STATUS: R288 of 08_host_lanes.md. -/
def HL_FAULT_STATUS (h : Nat) : Nat := laneBase h + 0x14
def HL_FAULT_STATUS.LAST_CAUSE (h : Nat) : Fld := ⟨HL_FAULT_STATUS h, 14, 8⟩
def HL_FAULT_STATUS.HOST (h : Nat) : Fld := ⟨HL_FAULT_STATUS h, 6, 6⟩
def HL_FAULT_STATUS.HPLL (h : Nat) : Fld := ⟨HL_FAULT_STATUS h, 5, 5⟩
def HL_FAULT_STATUS.TX_MON (h : Nat) : Fld := ⟨HL_FAULT_STATUS h, 4, 4⟩
def HL_FAULT_STATUS.AM (h : Nat) : Fld := ⟨HL_FAULT_STATUS h, 3, 3⟩
def HL_FAULT_STATUS.UNCORR (h : Nat) : Fld := ⟨HL_FAULT_STATUS h, 2, 2⟩
def HL_FAULT_STATUS.CDR (h : Nat) : Fld := ⟨HL_FAULT_STATUS h, 1, 1⟩
def HL_FAULT_STATUS.LOS (h : Nat) : Fld := ⟨HL_FAULT_STATUS h, 0, 0⟩
/-- HL_EYE_CTRL: R288 of 08_host_lanes.md. -/
def HL_EYE_CTRL (h : Nat) : Nat := laneBase h + 0x40
def HL_EYE_CTRL.START (h : Nat) : Fld := ⟨HL_EYE_CTRL h, 31, 31⟩
def HL_EYE_CTRL.EYE (h : Nat) : Fld := ⟨HL_EYE_CTRL h, 25, 24⟩
def HL_EYE_CTRL.PHASE (h : Nat) : Fld := ⟨HL_EYE_CTRL h, 21, 16⟩
def HL_EYE_CTRL.VOFF (h : Nat) : Fld := ⟨HL_EYE_CTRL h, 14, 8⟩
def HL_EYE_CTRL.DWELL (h : Nat) : Fld := ⟨HL_EYE_CTRL h, 5, 0⟩
/-- HL_EYE_STATUS: R288 of 08_host_lanes.md. -/
def HL_EYE_STATUS (h : Nat) : Nat := laneBase h + 0x44
def HL_EYE_STATUS.NO_CLAIM (h : Nat) : Fld := ⟨HL_EYE_STATUS h, 3, 3⟩
def HL_EYE_STATUS.ABORTED (h : Nat) : Fld := ⟨HL_EYE_STATUS h, 2, 2⟩
def HL_EYE_STATUS.DONE (h : Nat) : Fld := ⟨HL_EYE_STATUS h, 1, 1⟩
def HL_EYE_STATUS.BUSY (h : Nat) : Fld := ⟨HL_EYE_STATUS h, 0, 0⟩
/-- HL_EYE_ERR: R288 of 08_host_lanes.md. -/
def HL_EYE_ERR (h : Nat) : Nat := laneBase h + 0x48
/-- HL_EYE_UI: R288 of 08_host_lanes.md. -/
def HL_EYE_UI (h : Nat) : Nat := laneBase h + 0x50
/-- HL_PRBS_CTRL: R288 of 08_host_lanes.md. -/
def HL_PRBS_CTRL (h : Nat) : Nat := laneBase h + 0x80
def HL_PRBS_CTRL.TX_EN (h : Nat) : Fld := ⟨HL_PRBS_CTRL h, 31, 31⟩
def HL_PRBS_CTRL.RX_EN (h : Nat) : Fld := ⟨HL_PRBS_CTRL h, 30, 30⟩
def HL_PRBS_CTRL.TX_PAT (h : Nat) : Fld := ⟨HL_PRBS_CTRL h, 27, 26⟩
def HL_PRBS_CTRL.RX_PAT (h : Nat) : Fld := ⟨HL_PRBS_CTRL h, 25, 24⟩
def HL_PRBS_CTRL.INJ_SINGLE (h : Nat) : Fld := ⟨HL_PRBS_CTRL h, 17, 17⟩
def HL_PRBS_CTRL.INJ_BURST (h : Nat) : Fld := ⟨HL_PRBS_CTRL h, 16, 16⟩
def HL_PRBS_CTRL.BURST_LEN (h : Nat) : Fld := ⟨HL_PRBS_CTRL h, 15, 8⟩
def HL_PRBS_CTRL.USER_LEN (h : Nat) : Fld := ⟨HL_PRBS_CTRL h, 7, 0⟩
/-- HL_PRBS_STATUS: R288 of 08_host_lanes.md. -/
def HL_PRBS_STATUS (h : Nat) : Nat := laneBase h + 0x84
def HL_PRBS_STATUS.LOCK_LOSS (h : Nat) : Fld := ⟨HL_PRBS_STATUS h, 31, 16⟩
def HL_PRBS_STATUS.NO_CLAIM (h : Nat) : Fld := ⟨HL_PRBS_STATUS h, 1, 1⟩
def HL_PRBS_STATUS.LOCKED (h : Nat) : Fld := ⟨HL_PRBS_STATUS h, 0, 0⟩
/-- HL_PRBS_ERR: R288 of 08_host_lanes.md. -/
def HL_PRBS_ERR (h : Nat) : Nat := laneBase h + 0x88
/-- HL_PRBS_BITS: R288 of 08_host_lanes.md. -/
def HL_PRBS_BITS (h : Nat) : Nat := laneBase h + 0x90
/-- HL_PRBS_USER: R288 of 08_host_lanes.md. -/
def HL_PRBS_USER (h i : Nat) : Nat := laneBase h + 0xA0 + 4 * i
def HL_PRBS_USER.PATTERN (h i : Nat) : Fld := ⟨HL_PRBS_USER h i, 31, 0⟩
/-- HL_RS_CW: R288 of 08_host_lanes.md. -/
def HL_RS_CW (h : Nat) : Nat := laneBase h + 0x100
/-- HL_RS_CORR_SYM: R288 of 08_host_lanes.md. -/
def HL_RS_CORR_SYM (h : Nat) : Nat := laneBase h + 0x108
/-- HL_RS_UNCORR: R288 of 08_host_lanes.md. -/
def HL_RS_UNCORR (h : Nat) : Nat := laneBase h + 0x110
def HL_RS_UNCORR.COUNT (h : Nat) : Fld := ⟨HL_RS_UNCORR h, 31, 0⟩
/-- HL_AM_LOSS: R288 of 08_host_lanes.md. -/
def HL_AM_LOSS (h : Nat) : Nat := laneBase h + 0x114
def HL_AM_LOSS.COUNT (h : Nat) : Fld := ⟨HL_AM_LOSS h, 31, 0⟩
/-- HL_LOS_EVENTS: R288 of 08_host_lanes.md. -/
def HL_LOS_EVENTS (h : Nat) : Nat := laneBase h + 0x118
def HL_LOS_EVENTS.COUNT (h : Nat) : Fld := ⟨HL_LOS_EVENTS h, 31, 0⟩
/-- HL_FAULTS: R288 of 08_host_lanes.md. -/
def HL_FAULTS (h : Nat) : Nat := laneBase h + 0x11C
def HL_FAULTS.COUNT (h : Nat) : Fld := ⟨HL_FAULTS h, 31, 0⟩
/-- HL_SPARE_CFG: R289 of 08_host_lanes.md. -/
def HL_SPARE_CFG (h : Nat) : Nat := laneBase h + 0x200
def HL_SPARE_CFG.MODE (h : Nat) : Fld := ⟨HL_SPARE_CFG h, 31, 30⟩
def HL_SPARE_CFG.RATE (h : Nat) : Fld := ⟨HL_SPARE_CFG h, 29, 29⟩
def HL_SPARE_CFG.PREFER_EN (h : Nat) : Fld := ⟨HL_SPARE_CFG h, 20, 20⟩
def HL_SPARE_CFG.PREFER (h : Nat) : Fld := ⟨HL_SPARE_CFG h, 19, 16⟩
def HL_SPARE_CFG.HOST_WAIT (h : Nat) : Fld := ⟨HL_SPARE_CFG h, 9, 0⟩
/-- HL_SPARE_STATUS: R289 of 08_host_lanes.md. -/
def HL_SPARE_STATUS (h : Nat) : Nat := laneBase h + 0x204
def HL_SPARE_STATUS.STATE (h : Nat) : Fld := ⟨HL_SPARE_STATUS h, 31, 28⟩
def HL_SPARE_STATUS.LANE (h : Nat) : Fld := ⟨HL_SPARE_STATUS h, 19, 16⟩
def HL_SPARE_STATUS.CMD_IGNORED (h : Nat) : Fld := ⟨HL_SPARE_STATUS h, 10, 10⟩
def HL_SPARE_STATUS.SLOW (h : Nat) : Fld := ⟨HL_SPARE_STATUS h, 9, 9⟩
def HL_SPARE_STATUS.HOST_DONE (h : Nat) : Fld := ⟨HL_SPARE_STATUS h, 8, 8⟩
/-- HL_SPARE_SUBS: R289 of 08_host_lanes.md. -/
def HL_SPARE_SUBS (h : Nat) : Nat := laneBase h + 0x208
def HL_SPARE_SUBS.COUNT (h : Nat) : Fld := ⟨HL_SPARE_SUBS h, 31, 0⟩
/-- HL_SPARE_HOST_LATE: R289 of 08_host_lanes.md. -/
def HL_SPARE_HOST_LATE (h : Nat) : Nat := laneBase h + 0x20C
def HL_SPARE_HOST_LATE.COUNT (h : Nat) : Fld := ⟨HL_SPARE_HOST_LATE h, 31, 0⟩
/-- HL_SPARE_CTRL: R289 of 08_host_lanes.md. -/
def HL_SPARE_CTRL (h : Nat) : Nat := laneBase h + 0x210
def HL_SPARE_CTRL.LANE (h : Nat) : Fld := ⟨HL_SPARE_CTRL h, 19, 16⟩
def HL_SPARE_CTRL.REVERT (h : Nat) : Fld := ⟨HL_SPARE_CTRL h, 2, 2⟩
def HL_SPARE_CTRL.SUBSTITUTE (h : Nat) : Fld := ⟨HL_SPARE_CTRL h, 1, 1⟩
def HL_SPARE_CTRL.HOST_DONE (h : Nat) : Fld := ⟨HL_SPARE_CTRL h, 0, 0⟩
/-- HOSTEL_CFG: R260 of 07_timetable_hostel.md. -/
def HOSTEL_CFG : Nat := hostelBase + 0x0
def HOSTEL_CFG.SCRUB_EN : Fld := ⟨HOSTEL_CFG, 31, 31⟩
def HOSTEL_CFG.SCRUB_PASS_MS : Fld := ⟨HOSTEL_CFG, 15, 0⟩
/-- HOSTEL_STATUS: R260 of 07_timetable_hostel.md. -/
def HOSTEL_STATUS : Nat := hostelBase + 0x4
def HOSTEL_STATUS.IN_SERVICE : Fld := ⟨HOSTEL_STATUS, 31, 24⟩
def HOSTEL_STATUS.SPARE : Fld := ⟨HOSTEL_STATUS, 23, 22⟩
def HOSTEL_STATUS.SHARED_FREE : Fld := ⟨HOSTEL_STATUS, 17, 0⟩
/-- HOSTEL_BANK_STATE: R260 of 07_timetable_hostel.md. -/
def HOSTEL_BANK_STATE (j : Nat) : Nat := hostelBase + 0x10 + 4 * j
def HOSTEL_BANK_STATE.STATE (j : Nat) : Fld := ⟨HOSTEL_BANK_STATE j, 31, 0⟩
/-- HOSTEL_ECC_CORR: R260 of 07_timetable_hostel.md. -/
def HOSTEL_ECC_CORR : Nat := hostelBase + 0x30
/-- HOSTEL_ECC_UNCORR: R260 of 07_timetable_hostel.md. -/
def HOSTEL_ECC_UNCORR : Nat := hostelBase + 0x38
def HOSTEL_ECC_UNCORR.COUNT : Fld := ⟨HOSTEL_ECC_UNCORR, 31, 0⟩
/-- HOSTEL_FENCES: R260 of 07_timetable_hostel.md. -/
def HOSTEL_FENCES : Nat := hostelBase + 0x3C
def HOSTEL_FENCES.COUNT : Fld := ⟨HOSTEL_FENCES, 31, 0⟩
/-- HOSTEL_ECC_LAST: R260 of 07_timetable_hostel.md. -/
def HOSTEL_ECC_LAST : Nat := hostelBase + 0x40
def HOSTEL_ECC_LAST.UNCORR : Fld := ⟨HOSTEL_ECC_LAST, 31, 31⟩
def HOSTEL_ECC_LAST.BANK : Fld := ⟨HOSTEL_ECC_LAST, 30, 24⟩
def HOSTEL_ECC_LAST.WORD : Fld := ⟨HOSTEL_ECC_LAST, 23, 0⟩
/-- HOSTEL_SHARED_MIN: R260 of 07_timetable_hostel.md. -/
def HOSTEL_SHARED_MIN : Nat := hostelBase + 0x44
def HOSTEL_SHARED_MIN.MIN : Fld := ⟨HOSTEL_SHARED_MIN, 17, 0⟩
/-- TT_FC_SA_LO: R260 of 07_timetable_hostel.md. -/
def TT_FC_SA_LO : Nat := hostelBase + 0x100
def TT_FC_SA_LO.SA : Fld := ⟨TT_FC_SA_LO, 31, 0⟩
/-- TT_FC_SA_HI: R260 of 07_timetable_hostel.md. -/
def TT_FC_SA_HI : Nat := hostelBase + 0x104
def TT_FC_SA_HI.SA : Fld := ⟨TT_FC_SA_HI, 15, 0⟩
/-- TT_PORT_CFG: R261 of 07_timetable_hostel.md. -/
def TT_PORT_CFG (n : Nat) : Nat := ttBase n + 0x0
def TT_PORT_CFG.FC_SEL (n : Nat) : Fld := ⟨TT_PORT_CFG n, 31, 30⟩
def TT_PORT_CFG.STEER (n : Nat) : Fld := ⟨TT_PORT_CFG n, 24, 24⟩
def TT_PORT_CFG.PFC_MASK (n : Nat) : Fld := ⟨TT_PORT_CFG n, 23, 16⟩
def TT_PORT_CFG.MAX_FRAME (n : Nat) : Fld := ⟨TT_PORT_CFG n, 13, 0⟩
/-- TT_FC_CFG: R261 of 07_timetable_hostel.md. -/
def TT_FC_CFG (n : Nat) : Nat := ttBase n + 0x4
def TT_FC_CFG.QUANTA (n : Nat) : Fld := ⟨TT_FC_CFG n, 31, 16⟩
def TT_FC_CFG.XOFF_LAG (n : Nat) : Fld := ⟨TT_FC_CFG n, 15, 8⟩
def TT_FC_CFG.XON_LAG (n : Nat) : Fld := ⟨TT_FC_CFG n, 7, 0⟩
/-- TT_FC_BEDS: R261 of 07_timetable_hostel.md. -/
def TT_FC_BEDS (n : Nat) : Nat := ttBase n + 0x8
def TT_FC_BEDS.XOFF_BEDS (n : Nat) : Fld := ⟨TT_FC_BEDS n, 31, 16⟩
def TT_FC_BEDS.XON_BEDS (n : Nat) : Fld := ⟨TT_FC_BEDS n, 15, 0⟩
/-- TT_CAP: R261 of 07_timetable_hostel.md. -/
def TT_CAP (n : Nat) : Nat := ttBase n + 0xC
def TT_CAP.CAP_RX (n : Nat) : Fld := ⟨TT_CAP n, 31, 16⟩
def TT_CAP.CAP_TX (n : Nat) : Fld := ⟨TT_CAP n, 15, 0⟩
/-- TT_BOUND: R261 of 07_timetable_hostel.md. -/
def TT_BOUND (n : Nat) : Nat := ttBase n + 0x10
def TT_BOUND.BOUND (n : Nat) : Fld := ⟨TT_BOUND n, 31, 0⟩
/-- TT_MARGIN: R261 of 07_timetable_hostel.md. -/
def TT_MARGIN (n : Nat) : Nat := ttBase n + 0x14
def TT_MARGIN.MARGIN (n : Nat) : Fld := ⟨TT_MARGIN n, 31, 0⟩
/-- TT_STATUS: R261 of 07_timetable_hostel.md. -/
def TT_STATUS (n : Nat) : Nat := ttBase n + 0x18
def TT_STATUS.XOFF (n : Nat) : Fld := ⟨TT_STATUS n, 31, 31⟩
def TT_STATUS.TT_EFFECTIVE (n : Nat) : Fld := ⟨TT_STATUS n, 30, 30⟩
def TT_STATUS.NO_ROUTE (n : Nat) : Fld := ⟨TT_STATUS n, 29, 29⟩
/-- TT_BEDS: R261 of 07_timetable_hostel.md. -/
def TT_BEDS (n : Nat) : Nat := ttBase n + 0x1C
def TT_BEDS.RX (n : Nat) : Fld := ⟨TT_BEDS n, 31, 16⟩
def TT_BEDS.TX (n : Nat) : Fld := ⟨TT_BEDS n, 15, 0⟩
/-- TT_LAG_MAX: R261 of 07_timetable_hostel.md. -/
def TT_LAG_MAX (n : Nat) : Nat := ttBase n + 0x20
def TT_LAG_MAX.LAG (n : Nat) : Fld := ⟨TT_LAG_MAX n, 23, 0⟩
/-- TT_STEER_MAP: R261 of 07_timetable_hostel.md. -/
def TT_STEER_MAP (n : Nat) : Nat := ttBase n + 0x24
def TT_STEER_MAP.MAP (n : Nat) : Fld := ⟨TT_STEER_MAP n, 15, 0⟩
/-- TT_ACCEPTED: R261 of 07_timetable_hostel.md. -/
def TT_ACCEPTED (n : Nat) : Nat := ttBase n + 0x40
/-- TT_REFUSED_BOUND: R261 of 07_timetable_hostel.md. -/
def TT_REFUSED_BOUND (n : Nat) : Nat := ttBase n + 0x48
def TT_REFUSED_BOUND.COUNT (n : Nat) : Fld := ⟨TT_REFUSED_BOUND n, 31, 0⟩
/-- TT_REFUSED_BEDS: R261 of 07_timetable_hostel.md. -/
def TT_REFUSED_BEDS (n : Nat) : Nat := ttBase n + 0x4C
def TT_REFUSED_BEDS.COUNT (n : Nat) : Fld := ⟨TT_REFUSED_BEDS n, 31, 0⟩
/-- TT_REFUSED_ROUTE: R261 of 07_timetable_hostel.md. -/
def TT_REFUSED_ROUTE (n : Nat) : Nat := ttBase n + 0x50
def TT_REFUSED_ROUTE.COUNT (n : Nat) : Fld := ⟨TT_REFUSED_ROUTE n, 31, 0⟩
/-- TT_REFUSED_CAP: R261 of 07_timetable_hostel.md. -/
def TT_REFUSED_CAP (n : Nat) : Nat := ttBase n + 0x54
def TT_REFUSED_CAP.COUNT (n : Nat) : Fld := ⟨TT_REFUSED_CAP n, 31, 0⟩
/-- TT_OVERSIZE: R261 of 07_timetable_hostel.md. -/
def TT_OVERSIZE (n : Nat) : Nat := ttBase n + 0x58
def TT_OVERSIZE.COUNT (n : Nat) : Fld := ⟨TT_OVERSIZE n, 31, 0⟩
/-- TT_EXPIRED_TX: R261 of 07_timetable_hostel.md. -/
def TT_EXPIRED_TX (n : Nat) : Nat := ttBase n + 0x5C
def TT_EXPIRED_TX.COUNT (n : Nat) : Fld := ⟨TT_EXPIRED_TX n, 31, 0⟩
/-- TT_EXPIRED_RX: R261 of 07_timetable_hostel.md. -/
def TT_EXPIRED_RX (n : Nat) : Nat := ttBase n + 0x60
def TT_EXPIRED_RX.COUNT (n : Nat) : Fld := ⟨TT_EXPIRED_RX n, 31, 0⟩
/-- TT_TAILDROP_TX: R261 of 07_timetable_hostel.md. -/
def TT_TAILDROP_TX (n : Nat) : Nat := ttBase n + 0x64
def TT_TAILDROP_TX.COUNT (n : Nat) : Fld := ⟨TT_TAILDROP_TX n, 31, 0⟩
/-- TT_TAILDROP_RX: R261 of 07_timetable_hostel.md. -/
def TT_TAILDROP_RX (n : Nat) : Nat := ttBase n + 0x68
def TT_TAILDROP_RX.COUNT (n : Nat) : Fld := ⟨TT_TAILDROP_RX n, 31, 0⟩
/-- TT_FC_SENT: R261 of 07_timetable_hostel.md. -/
def TT_FC_SENT (n : Nat) : Nat := ttBase n + 0x6C
def TT_FC_SENT.COUNT (n : Nat) : Fld := ⟨TT_FC_SENT n, 31, 0⟩
/-- TT_MALFORMED: R261 of 07_timetable_hostel.md. -/
def TT_MALFORMED (n : Nat) : Nat := ttBase n + 0x70
def TT_MALFORMED.COUNT (n : Nat) : Fld := ⟨TT_MALFORMED n, 31, 0⟩
/-- TT_ECC_LOSS: R261 of 07_timetable_hostel.md. -/
def TT_ECC_LOSS (n : Nat) : Nat := ttBase n + 0x74
def TT_ECC_LOSS.COUNT (n : Nat) : Fld := ⟨TT_ECC_LOSS n, 31, 0⟩
/-- TT_FRAMES_RX: R261 of 07_timetable_hostel.md. -/
def TT_FRAMES_RX (n : Nat) : Nat := ttBase n + 0x78
/-- TT_CW_REFUSED: R261 of 07_timetable_hostel.md. -/
def TT_CW_REFUSED (n : Nat) : Nat := ttBase n + 0x80
def TT_CW_REFUSED.COUNT (n : Nat) : Fld := ⟨TT_CW_REFUSED n, 31, 0⟩
/-- TT_OS_TX: R261 of 07_timetable_hostel.md. -/
def TT_OS_TX (n : Nat) : Nat := ttBase n + 0x84
def TT_OS_TX.COUNT (n : Nat) : Fld := ⟨TT_OS_TX n, 31, 0⟩
/-- TT_FLUSHED: R261 of 07_timetable_hostel.md. -/
def TT_FLUSHED (n : Nat) : Nat := ttBase n + 0x88
def TT_FLUSHED.COUNT (n : Nat) : Fld := ⟨TT_FLUSHED n, 31, 0⟩
/-- CAL_CFG: R498 of 16_calibration.md. -/
def CAL_CFG : Nat := calBase + 0x0
def CAL_CFG.BG_EN : Fld := ⟨CAL_CFG, 31, 31⟩
def CAL_CFG.REPORT : Fld := ⟨CAL_CFG, 30, 30⟩
def CAL_CFG.VERIFY : Fld := ⟨CAL_CFG, 29, 29⟩
def CAL_CFG.MAX_AGE : Fld := ⟨CAL_CFG, 23, 16⟩
def CAL_CFG.DTEMP : Fld := ⟨CAL_CFG, 7, 0⟩
/-- CAL_STATUS: R498 of 16_calibration.md. -/
def CAL_STATUS : Nat := calBase + 0x4
def CAL_STATUS.VREF_OK : Fld := ⟨CAL_STATUS, 31, 31⟩
def CAL_STATUS.RCAL_OK : Fld := ⟨CAL_STATUS, 30, 30⟩
def CAL_STATUS.HUB_BUSY : Fld := ⟨CAL_STATUS, 29, 29⟩
def CAL_STATUS.REF_BUSY : Fld := ⟨CAL_STATUS, 28, 28⟩
def CAL_STATUS.DUE : Fld := ⟨CAL_STATUS, 15, 0⟩
/-- CAL_ITEM_ADDR: R498 of 16_calibration.md. -/
def CAL_ITEM_ADDR : Nat := calBase + 0x10
def CAL_ITEM_ADDR.ITEM : Fld := ⟨CAL_ITEM_ADDR, 31, 24⟩
def CAL_ITEM_ADDR.AUTO_INC : Fld := ⟨CAL_ITEM_ADDR, 20, 20⟩
def CAL_ITEM_ADDR.INDEX : Fld := ⟨CAL_ITEM_ADDR, 18, 0⟩
/-- CAL_ITEM_DATA: R498 of 16_calibration.md. -/
def CAL_ITEM_DATA : Nat := calBase + 0x14
def CAL_ITEM_DATA.DATA : Fld := ⟨CAL_ITEM_DATA, 31, 0⟩
/-- CAL_RUNS: R498 of 16_calibration.md. -/
def CAL_RUNS : Nat := calBase + 0x20
def CAL_RUNS.COUNT : Fld := ⟨CAL_RUNS, 31, 0⟩
/-- CAL_FAILS: R498 of 16_calibration.md. -/
def CAL_FAILS : Nat := calBase + 0x24
def CAL_FAILS.COUNT : Fld := ⟨CAL_FAILS, 31, 0⟩
/-- CAL_DEFERRALS: R498 of 16_calibration.md. -/
def CAL_DEFERRALS : Nat := calBase + 0x28
def CAL_DEFERRALS.COUNT : Fld := ⟨CAL_DEFERRALS, 31, 0⟩
/-- CAL_ABANDONED: R498 of 16_calibration.md. -/
def CAL_ABANDONED : Nat := calBase + 0x2C
def CAL_ABANDONED.COUNT : Fld := ⟨CAL_ABANDONED, 31, 0⟩
/-- CAL_HUB_TEMP: R498 of 16_calibration.md. -/
def CAL_HUB_TEMP (i : Nat) : Nat := calBase + 0x40 + 4 * i
def CAL_HUB_TEMP.STALE (i : Nat) : Fld := ⟨CAL_HUB_TEMP i, 31, 31⟩
def CAL_HUB_TEMP.TEMP (i : Nat) : Fld := ⟨CAL_HUB_TEMP i, 15, 0⟩
/-- NV_LOAD_STATUS: R522 of 17_nv_guestbook.md. -/
def NV_LOAD_STATUS : Nat := nvBase + 0x0
def NV_LOAD_STATUS.BYTES : Fld := ⟨NV_LOAD_STATUS, 31, 0⟩
/-- NV_STATUS: R522 of 17_nv_guestbook.md. -/
def NV_STATUS : Nat := nvBase + 0x4
def NV_STATUS.WRITE_FAULT : Fld := ⟨NV_STATUS, 31, 31⟩
def NV_STATUS.BUSY : Fld := ⟨NV_STATUS, 30, 30⟩
def NV_STATUS.OPEN : Fld := ⟨NV_STATUS, 29, 26⟩
/-- NV_WRITE_FAULTS: R522 of 17_nv_guestbook.md. -/
def NV_WRITE_FAULTS : Nat := nvBase + 0x8
def NV_WRITE_FAULTS.COUNT : Fld := ⟨NV_WRITE_FAULTS, 31, 0⟩
/-- NV_COMMITS: R522 of 17_nv_guestbook.md. -/
def NV_COMMITS : Nat := nvBase + 0xC
def NV_COMMITS.COUNT : Fld := ⟨NV_COMMITS, 31, 0⟩
/-- NV_WORDS_WRITTEN: R522 of 17_nv_guestbook.md. -/
def NV_WORDS_WRITTEN : Nat := nvBase + 0x10
/-- NV_CONFIG_SKIPPED: R522 of 17_nv_guestbook.md. -/
def NV_CONFIG_SKIPPED : Nat := nvBase + 0x18
def NV_CONFIG_SKIPPED.COUNT : Fld := ⟨NV_CONFIG_SKIPPED, 31, 0⟩
/-- NV_REPAIR_SKIPPED: R522 of 17_nv_guestbook.md. -/
def NV_REPAIR_SKIPPED : Nat := nvBase + 0x1C
def NV_REPAIR_SKIPPED.COUNT : Fld := ⟨NV_REPAIR_SKIPPED, 31, 0⟩
/-- NV_OP_SECONDS: R522 of 17_nv_guestbook.md. -/
def NV_OP_SECONDS : Nat := nvBase + 0x20
def NV_OP_SECONDS.SECONDS : Fld := ⟨NV_OP_SECONDS, 31, 0⟩
/-- NV_POWER_CYCLES: R522 of 17_nv_guestbook.md. -/
def NV_POWER_CYCLES : Nat := nvBase + 0x24
def NV_POWER_CYCLES.COUNT : Fld := ⟨NV_POWER_CYCLES, 15, 0⟩
/-- GB_STATUS: R523 of 17_nv_guestbook.md. -/
def GB_STATUS : Nat := gbBase + 0x0
def GB_STATUS.FULL : Fld := ⟨GB_STATUS, 31, 31⟩
def GB_STATUS.GEN : Fld := ⟨GB_STATUS, 23, 16⟩
def GB_STATUS.NEXT : Fld := ⟨GB_STATUS, 15, 0⟩
/-- GB_QUEUE: R523 of 17_nv_guestbook.md. -/
def GB_QUEUE : Nat := gbBase + 0x4
def GB_QUEUE.QUEUE_MAX : Fld := ⟨GB_QUEUE, 25, 16⟩
def GB_QUEUE.QUEUED : Fld := ⟨GB_QUEUE, 9, 0⟩
/-- GB_RECORDED: R523 of 17_nv_guestbook.md. -/
def GB_RECORDED : Nat := gbBase + 0xC
def GB_RECORDED.COUNT : Fld := ⟨GB_RECORDED, 31, 0⟩
/-- GB_LOST: R523 of 17_nv_guestbook.md. -/
def GB_LOST : Nat := gbBase + 0x10
def GB_LOST.COUNT : Fld := ⟨GB_LOST, 31, 0⟩
/-- GB_SUPPRESSED: R523 of 17_nv_guestbook.md. -/
def GB_SUPPRESSED : Nat := gbBase + 0x14
def GB_SUPPRESSED.COUNT : Fld := ⟨GB_SUPPRESSED, 31, 0⟩
/-- GB_QUEUE_DROP: R523 of 17_nv_guestbook.md. -/
def GB_QUEUE_DROP : Nat := gbBase + 0x18
def GB_QUEUE_DROP.COUNT : Fld := ⟨GB_QUEUE_DROP, 31, 0⟩
/-- GB_CLEAR_CTRL: R523 of 17_nv_guestbook.md. -/
def GB_CLEAR_CTRL : Nat := gbBase + 0x1C
def GB_CLEAR_CTRL.CLEAR : Fld := ⟨GB_CLEAR_CTRL, 0, 0⟩
/-- GB_RATE_DEFAULT: R523 of 17_nv_guestbook.md. -/
def GB_RATE_DEFAULT : Nat := gbBase + 0x20
def GB_RATE_DEFAULT.LIMIT : Fld := ⟨GB_RATE_DEFAULT, 7, 0⟩
/-- GB_READ_ADDR: R523 of 17_nv_guestbook.md. -/
def GB_READ_ADDR : Nat := gbBase + 0x40
def GB_READ_ADDR.AUTO_INC : Fld := ⟨GB_READ_ADDR, 20, 20⟩
def GB_READ_ADDR.INDEX : Fld := ⟨GB_READ_ADDR, 17, 0⟩
/-- GB_READ_DATA: R523 of 17_nv_guestbook.md. -/
def GB_READ_DATA : Nat := gbBase + 0x44
def GB_READ_DATA.DATA : Fld := ⟨GB_READ_DATA, 31, 0⟩
/-- BIST_CFG: R544 of 18_selftest_faults.md. -/
def BIST_CFG : Nat := bistBase + 0x0
def BIST_CFG.ENABLE : Fld := ⟨BIST_CFG, 31, 31⟩
def BIST_CFG.RETURN : Fld := ⟨BIST_CFG, 30, 30⟩
def BIST_CFG.SWEEP : Fld := ⟨BIST_CFG, 9, 0⟩
/-- BIST_STATUS: R544 of 18_selftest_faults.md. -/
def BIST_STATUS : Nat := bistBase + 0x4
def BIST_STATUS.BUSY : Fld := ⟨BIST_STATUS, 31, 31⟩
def BIST_STATUS.STEP : Fld := ⟨BIST_STATUS, 30, 28⟩
def BIST_STATUS.SWEEP_POS : Fld := ⟨BIST_STATUS, 9, 0⟩
/-- BIST_CURRENT: R544 of 18_selftest_faults.md. -/
def BIST_CURRENT : Nat := bistBase + 0x8
def BIST_CURRENT.UNIT : Fld := ⟨BIST_CURRENT, 31, 0⟩
/-- BIST_LAST_UNIT: R544 of 18_selftest_faults.md. -/
def BIST_LAST_UNIT : Nat := bistBase + 0xC
def BIST_LAST_UNIT.UNIT : Fld := ⟨BIST_LAST_UNIT, 31, 0⟩
/-- BIST_LAST_RESULT: R544 of 18_selftest_faults.md. -/
def BIST_LAST_RESULT : Nat := bistBase + 0x10
def BIST_LAST_RESULT.RESULT : Fld := ⟨BIST_LAST_RESULT, 31, 0⟩
/-- BIST_RUNS: R544 of 18_selftest_faults.md. -/
def BIST_RUNS : Nat := bistBase + 0x20
def BIST_RUNS.COUNT : Fld := ⟨BIST_RUNS, 31, 0⟩
/-- BIST_FAILS: R544 of 18_selftest_faults.md. -/
def BIST_FAILS : Nat := bistBase + 0x24
def BIST_FAILS.COUNT : Fld := ⟨BIST_FAILS, 31, 0⟩
/-- BIST_REPAIRS: R544 of 18_selftest_faults.md. -/
def BIST_REPAIRS : Nat := bistBase + 0x28
def BIST_REPAIRS.COUNT : Fld := ⟨BIST_REPAIRS, 31, 0⟩
/-- BIST_SKIPPED: R544 of 18_selftest_faults.md. -/
def BIST_SKIPPED : Nat := bistBase + 0x2C
def BIST_SKIPPED.COUNT : Fld := ⟨BIST_SKIPPED, 31, 0⟩
/-- BIST_POSTPONED: R544 of 18_selftest_faults.md. -/
def BIST_POSTPONED : Nat := bistBase + 0x30
def BIST_POSTPONED.COUNT : Fld := ⟨BIST_POSTPONED, 31, 0⟩
/-- BIST_SWEEPS: R544 of 18_selftest_faults.md. -/
def BIST_SWEEPS : Nat := bistBase + 0x34
def BIST_SWEEPS.COUNT : Fld := ⟨BIST_SWEEPS, 31, 0⟩
/-- BIST_PORTER_STATUS: R544 of 18_selftest_faults.md. -/
def BIST_PORTER_STATUS : Nat := bistBase + 0x40
def BIST_PORTER_STATUS.ACTIVE : Fld := ⟨BIST_PORTER_STATUS, 31, 31⟩
def BIST_PORTER_STATUS.STANDBY_READY : Fld := ⟨BIST_PORTER_STATUS, 30, 30⟩
def BIST_PORTER_STATUS.STANDBY_FAILED : Fld := ⟨BIST_PORTER_STATUS, 29, 29⟩
/-- BIST_PORTER_TAKEOVERS: R544 of 18_selftest_faults.md. -/
def BIST_PORTER_TAKEOVERS : Nat := bistBase + 0x44
def BIST_PORTER_TAKEOVERS.COUNT : Fld := ⟨BIST_PORTER_TAKEOVERS, 31, 0⟩
/-- BIST_PORTER_ECC: R544 of 18_selftest_faults.md. -/
def BIST_PORTER_ECC : Nat := bistBase + 0x48
def BIST_PORTER_ECC.COUNT : Fld := ⟨BIST_PORTER_ECC, 31, 0⟩
/-- CNC_STATUS: R545 of 18_selftest_faults.md. -/
def CNC_STATUS : Nat := cncBase + 0x0
def CNC_STATUS.WAITING_INT : Fld := ⟨CNC_STATUS, 23, 16⟩
def CNC_STATUS.WAITING : Fld := ⟨CNC_STATUS, 15, 8⟩
def CNC_STATUS.HELD : Fld := ⟨CNC_STATUS, 7, 0⟩
/-- CNC_LIST_ADDR: R545 of 18_selftest_faults.md. -/
def CNC_LIST_ADDR : Nat := cncBase + 0x10
def CNC_LIST_ADDR.AUTO_INC : Fld := ⟨CNC_LIST_ADDR, 16, 16⟩
def CNC_LIST_ADDR.INDEX : Fld := ⟨CNC_LIST_ADDR, 8, 0⟩
/-- CNC_LIST_DATA: R545 of 18_selftest_faults.md. -/
def CNC_LIST_DATA : Nat := cncBase + 0x14
def CNC_LIST_DATA.DATA : Fld := ⟨CNC_LIST_DATA, 31, 0⟩
/-- CNC_GRANTS: R545 of 18_selftest_faults.md. -/
def CNC_GRANTS : Nat := cncBase + 0x20
def CNC_GRANTS.COUNT : Fld := ⟨CNC_GRANTS, 31, 0⟩
/-- CNC_CONFLICTS: R545 of 18_selftest_faults.md. -/
def CNC_CONFLICTS : Nat := cncBase + 0x24
def CNC_CONFLICTS.COUNT : Fld := ⟨CNC_CONFLICTS, 31, 0⟩
/-- CNC_QUEUED: R545 of 18_selftest_faults.md. -/
def CNC_QUEUED : Nat := cncBase + 0x28
def CNC_QUEUED.COUNT : Fld := ⟨CNC_QUEUED, 31, 0⟩
/-- CNC_PREEMPTED: R545 of 18_selftest_faults.md. -/
def CNC_PREEMPTED : Nat := cncBase + 0x2C
def CNC_PREEMPTED.COUNT : Fld := ⟨CNC_PREEMPTED, 31, 0⟩
/-- MR_ID: R419 of 13_management_ring.md. -/
def MR_ID : Nat := mrBase + 0x0
def MR_ID.ASSIGNED : Fld := ⟨MR_ID, 31, 31⟩
def MR_ID.ENUMERATED : Fld := ⟨MR_ID, 30, 30⟩
def MR_ID.POS_RING : Fld := ⟨MR_ID, 29, 29⟩
def MR_ID.POSITION : Fld := ⟨MR_ID, 22, 16⟩
def MR_ID.STRAP : Fld := ⟨MR_ID, 13, 8⟩
def MR_ID.DEVID : Fld := ⟨MR_ID, 5, 0⟩
/-- MR_CFG: R419 of 13_management_ring.md. -/
def MR_CFG : Nat := mrBase + 0x4
def MR_CFG.INT_PIN : Fld := ⟨MR_CFG, 31, 31⟩
def MR_CFG.INT_REPEAT : Fld := ⟨MR_CFG, 23, 16⟩
def MR_CFG.INT_DEST : Fld := ⟨MR_CFG, 15, 8⟩
def MR_CFG.WRAP : Fld := ⟨MR_CFG, 1, 0⟩
/-- MR_STATUS: R419 of 13_management_ring.md. -/
def MR_STATUS : Nat := mrBase + 0x8
def MR_STATUS.MR0_SYNC : Fld := ⟨MR_STATUS, 31, 31⟩
def MR_STATUS.MR1_SYNC : Fld := ⟨MR_STATUS, 30, 30⟩
def MR_STATUS.MR0_BREAK : Fld := ⟨MR_STATUS, 29, 29⟩
def MR_STATUS.MR1_BREAK : Fld := ⟨MR_STATUS, 28, 28⟩
def MR_STATUS.SEQ_STALE : Fld := ⟨MR_STATUS, 27, 27⟩
def MR_STATUS.LARGE_CHAIN : Fld := ⟨MR_STATUS, 26, 26⟩
def MR_STATUS.DUP_DEVID : Fld := ⟨MR_STATUS, 25, 25⟩
def MR_STATUS.EPOCH_SET : Fld := ⟨MR_STATUS, 24, 24⟩
def MR_STATUS.CHAIN : Fld := ⟨MR_STATUS, 23, 16⟩
def MR_STATUS.QUEUED : Fld := ⟨MR_STATUS, 13, 8⟩
/-- MR_SEQ: R419 of 13_management_ring.md. -/
def MR_SEQ : Nat := mrBase + 0x10
/-- MR_CMDS: R419 of 13_management_ring.md. -/
def MR_CMDS : Nat := mrBase + 0x18
/-- MR0_CODE_ERR: R419 of 13_management_ring.md. -/
def MR0_CODE_ERR : Nat := mrBase + 0x20
def MR0_CODE_ERR.COUNT : Fld := ⟨MR0_CODE_ERR, 31, 0⟩
/-- MR1_CODE_ERR: R419 of 13_management_ring.md. -/
def MR1_CODE_ERR : Nat := mrBase + 0x24
def MR1_CODE_ERR.COUNT : Fld := ⟨MR1_CODE_ERR, 31, 0⟩
/-- MR0_GLITCH: R419 of 13_management_ring.md. -/
def MR0_GLITCH : Nat := mrBase + 0x28
def MR0_GLITCH.COUNT : Fld := ⟨MR0_GLITCH, 31, 0⟩
/-- MR1_GLITCH: R419 of 13_management_ring.md. -/
def MR1_GLITCH : Nat := mrBase + 0x2C
def MR1_GLITCH.COUNT : Fld := ⟨MR1_GLITCH, 31, 0⟩
/-- MR_BREAKS: R419 of 13_management_ring.md. -/
def MR_BREAKS : Nat := mrBase + 0x30
def MR_BREAKS.COUNT : Fld := ⟨MR_BREAKS, 31, 0⟩
/-- MR_HDR_DROP: R419 of 13_management_ring.md. -/
def MR_HDR_DROP : Nat := mrBase + 0x34
def MR_HDR_DROP.COUNT : Fld := ⟨MR_HDR_DROP, 31, 0⟩
/-- MR_CRC_ERR: R419 of 13_management_ring.md. -/
def MR_CRC_ERR : Nat := mrBase + 0x38
def MR_CRC_ERR.COUNT : Fld := ⟨MR_CRC_ERR, 31, 0⟩
/-- MR_BUSY: R419 of 13_management_ring.md. -/
def MR_BUSY : Nat := mrBase + 0x3C
def MR_BUSY.COUNT : Fld := ⟨MR_BUSY, 31, 0⟩
/-- MR_REPLAY: R419 of 13_management_ring.md. -/
def MR_REPLAY : Nat := mrBase + 0x40
def MR_REPLAY.COUNT : Fld := ⟨MR_REPLAY, 31, 0⟩
/-- MR_TAG_REUSE: R419 of 13_management_ring.md. -/
def MR_TAG_REUSE : Nat := mrBase + 0x44
def MR_TAG_REUSE.COUNT : Fld := ⟨MR_TAG_REUSE, 31, 0⟩
/-- MR_NOREPLY_ERR: R419 of 13_management_ring.md. -/
def MR_NOREPLY_ERR : Nat := mrBase + 0x48
def MR_NOREPLY_ERR.COUNT : Fld := ⟨MR_NOREPLY_ERR, 31, 0⟩
/-- MR_NOTICES: R419 of 13_management_ring.md. -/
def MR_NOTICES : Nat := mrBase + 0x4C
def MR_NOTICES.COUNT : Fld := ⟨MR_NOTICES, 31, 0⟩
/-- MR_EPOCH_IGNORED: R419 of 13_management_ring.md. -/
def MR_EPOCH_IGNORED : Nat := mrBase + 0x50
def MR_EPOCH_IGNORED.COUNT : Fld := ⟨MR_EPOCH_IGNORED, 31, 0⟩
/-- DBG_CTRL: R559 of 19_debug.md. -/
def DBG_CTRL : Nat := dbgBase + 0x0
def DBG_CTRL.SIDE_EFFECTS : Fld := ⟨DBG_CTRL, 0, 0⟩
/-- DBG_DAP_STATUS: R559 of 19_debug.md. -/
def DBG_DAP_STATUS : Nat := dbgBase + 0x4
def DBG_DAP_STATUS.BOARD_TEST : Fld := ⟨DBG_DAP_STATUS, 2, 2⟩
def DBG_DAP_STATUS.OVERRUN : Fld := ⟨DBG_DAP_STATUS, 1, 1⟩
def DBG_DAP_STATUS.BUSY : Fld := ⟨DBG_DAP_STATUS, 0, 0⟩
/-- DBG_PORTER_CTRL: R559 of 19_debug.md. -/
def DBG_PORTER_CTRL : Nat := dbgBase + 0x10
def DBG_PORTER_CTRL.STEP : Fld := ⟨DBG_PORTER_CTRL, 2, 2⟩
def DBG_PORTER_CTRL.RESUME : Fld := ⟨DBG_PORTER_CTRL, 1, 1⟩
def DBG_PORTER_CTRL.HALT : Fld := ⟨DBG_PORTER_CTRL, 0, 0⟩
/-- DBG_PORTER_STATUS: R559 of 19_debug.md. -/
def DBG_PORTER_STATUS : Nat := dbgBase + 0x14
def DBG_PORTER_STATUS.HALTED : Fld := ⟨DBG_PORTER_STATUS, 31, 31⟩
def DBG_PORTER_STATUS.REASON : Fld := ⟨DBG_PORTER_STATUS, 30, 28⟩
def DBG_PORTER_STATUS.BREAK : Fld := ⟨DBG_PORTER_STATUS, 27, 26⟩
def DBG_PORTER_STATUS.IN_WINDOW : Fld := ⟨DBG_PORTER_STATUS, 25, 25⟩
def DBG_PORTER_STATUS.PAIR : Fld := ⟨DBG_PORTER_STATUS, 24, 24⟩
/-- DBG_PORTER_PC: R559 of 19_debug.md. -/
def DBG_PORTER_PC : Nat := dbgBase + 0x18
def DBG_PORTER_PC.PC : Fld := ⟨DBG_PORTER_PC, 31, 0⟩
/-- DBG_BREAK: R559 of 19_debug.md. -/
def DBG_BREAK (i : Nat) : Nat := dbgBase + 0x20 + 4 * i
def DBG_BREAK.ADDR (i : Nat) : Fld := ⟨DBG_BREAK i, 31, 2⟩
def DBG_BREAK.EN (i : Nat) : Fld := ⟨DBG_BREAK i, 0, 0⟩
/-- DBG_HALTS: R559 of 19_debug.md. -/
def DBG_HALTS : Nat := dbgBase + 0x30
def DBG_HALTS.COUNT : Fld := ⟨DBG_HALTS, 31, 0⟩
/-- DBG_CORE_ADDR: R559 of 19_debug.md. -/
def DBG_CORE_ADDR : Nat := dbgBase + 0x40
def DBG_CORE_ADDR.SPACE : Fld := ⟨DBG_CORE_ADDR, 31, 30⟩
def DBG_CORE_ADDR.CORE : Fld := ⟨DBG_CORE_ADDR, 29, 29⟩
def DBG_CORE_ADDR.AUTO_INC : Fld := ⟨DBG_CORE_ADDR, 16, 16⟩
def DBG_CORE_ADDR.INDEX : Fld := ⟨DBG_CORE_ADDR, 15, 0⟩
/-- DBG_CORE_DATA: R559 of 19_debug.md. -/
def DBG_CORE_DATA : Nat := dbgBase + 0x44
def DBG_CORE_DATA.DATA : Fld := ⟨DBG_CORE_DATA, 31, 0⟩
/-- DBG_DAP_OPS: R559 of 19_debug.md. -/
def DBG_DAP_OPS : Nat := dbgBase + 0x48
def DBG_DAP_OPS.COUNT : Fld := ⟨DBG_DAP_OPS, 31, 0⟩
/-- TILE_XBAR_MAP: R23 of 01_architecture.md. -/
def TILE_XBAR_MAP (t q : Nat) : Nat := tileBase t + 0x100 + 4 * q
def TILE_XBAR_MAP.SLICE_D (t q : Nat) : Fld := ⟨TILE_XBAR_MAP t q, 30, 24⟩
def TILE_XBAR_MAP.SLICE_C (t q : Nat) : Fld := ⟨TILE_XBAR_MAP t q, 22, 16⟩
def TILE_XBAR_MAP.SLICE_B (t q : Nat) : Fld := ⟨TILE_XBAR_MAP t q, 14, 8⟩
def TILE_XBAR_MAP.SLICE_A (t q : Nat) : Fld := ⟨TILE_XBAR_MAP t q, 6, 0⟩
/-- TILE_SLICE_STATE: R23 of 01_architecture.md. -/
def TILE_SLICE_STATE (t j : Nat) : Nat := tileBase t + 0x140 + 4 * j
def TILE_SLICE_STATE.STATE (t j : Nat) : Fld := ⟨TILE_SLICE_STATE t j, 31, 0⟩
/-- TILE_SPARE_STATUS: R23 of 01_architecture.md. -/
def TILE_SPARE_STATUS (t : Nat) : Nat := tileBase t + 0x160
def TILE_SPARE_STATUS.XBAR_PENDING (t : Nat) : Fld := ⟨TILE_SPARE_STATUS t, 16, 16⟩
def TILE_SPARE_STATUS.FAILED (t : Nat) : Fld := ⟨TILE_SPARE_STATUS t, 14, 8⟩
def TILE_SPARE_STATUS.HELD (t : Nat) : Fld := ⟨TILE_SPARE_STATUS t, 6, 4⟩
def TILE_SPARE_STATUS.FREE (t : Nat) : Fld := ⟨TILE_SPARE_STATUS t, 2, 0⟩
/-- TILE_XBAR_SWITCHES: R23 of 01_architecture.md. -/
def TILE_XBAR_SWITCHES (t : Nat) : Nat := tileBase t + 0x164
def TILE_XBAR_SWITCHES.COUNT (t : Nat) : Fld := ⟨TILE_XBAR_SWITCHES t, 31, 0⟩
/-- TILE_CLK_STATUS: R358 of 11_clocks.md. -/
def TILE_CLK_STATUS (t : Nat) : Nat := tileBase t + 0x300
def TILE_CLK_STATUS.ACTIVE (t : Nat) : Fld := ⟨TILE_CLK_STATUS t, 31, 31⟩
def TILE_CLK_STATUS.M_LOCK (t : Nat) : Fld := ⟨TILE_CLK_STATUS t, 30, 30⟩
def TILE_CLK_STATUS.S_LOCK (t : Nat) : Fld := ⟨TILE_CLK_STATUS t, 29, 29⟩
def TILE_CLK_STATUS.COASTING (t : Nat) : Fld := ⟨TILE_CLK_STATUS t, 28, 28⟩
def TILE_CLK_STATUS.CMD_IGNORED (t : Nat) : Fld := ⟨TILE_CLK_STATUS t, 4, 4⟩
def TILE_CLK_STATUS.SWITCH_FORCED (t : Nat) : Fld := ⟨TILE_CLK_STATUS t, 3, 3⟩
def TILE_CLK_STATUS.S_UNLOCK (t : Nat) : Fld := ⟨TILE_CLK_STATUS t, 2, 2⟩
def TILE_CLK_STATUS.M_UNLOCK (t : Nat) : Fld := ⟨TILE_CLK_STATUS t, 1, 1⟩
/-- TILE_CLK_CTRL: R358 of 11_clocks.md. -/
def TILE_CLK_CTRL (t : Nat) : Nat := tileBase t + 0x304
def TILE_CLK_CTRL.SWAP (t : Nat) : Fld := ⟨TILE_CLK_CTRL t, 0, 0⟩
/-- TILE_PLL_SWITCHES: R358 of 11_clocks.md. -/
def TILE_PLL_SWITCHES (t : Nat) : Nat := tileBase t + 0x308
def TILE_PLL_SWITCHES.COUNT (t : Nat) : Fld := ⟨TILE_PLL_SWITCHES t, 31, 0⟩
/-- TILE_CAL_STATUS: R499 of 16_calibration.md. -/
def TILE_CAL_STATUS (t : Nat) : Nat := tileBase t + 0x400
def TILE_CAL_STATUS.BUSY (t : Nat) : Fld := ⟨TILE_CAL_STATUS t, 31, 31⟩
def TILE_CAL_STATUS.REF_WAIT (t : Nat) : Fld := ⟨TILE_CAL_STATUS t, 30, 30⟩
def TILE_CAL_STATUS.ITEM (t : Nat) : Fld := ⟨TILE_CAL_STATUS t, 27, 24⟩
def TILE_CAL_STATUS.DUE (t : Nat) : Fld := ⟨TILE_CAL_STATUS t, 23, 16⟩
def TILE_CAL_STATUS.TARGET (t : Nat) : Fld := ⟨TILE_CAL_STATUS t, 15, 0⟩
/-- TILE_TEMP: R499 of 16_calibration.md. -/
def TILE_TEMP (t i : Nat) : Nat := tileBase t + 0x410 + 4 * i
def TILE_TEMP.STALE (t i : Nat) : Fld := ⟨TILE_TEMP t i, 31, 31⟩
def TILE_TEMP.TEMP (t i : Nat) : Fld := ⟨TILE_TEMP t i, 15, 0⟩
/-- PORT_MODE: R42 of 02_modes.md. -/
def PORT_MODE (n : Nat) : Nat := portBase n + 0x40
def PORT_MODE.SELECT (n : Nat) : Fld := ⟨PORT_MODE n, 31, 16⟩
def PORT_MODE.PATTERN (n : Nat) : Fld := ⟨PORT_MODE n, 11, 11⟩
def PORT_MODE.LOOP_FAR (n : Nat) : Fld := ⟨PORT_MODE n, 10, 10⟩
def PORT_MODE.LOOP_NEAR (n : Nat) : Fld := ⟨PORT_MODE n, 9, 9⟩
def PORT_MODE.PLAIN (n : Nat) : Fld := ⟨PORT_MODE n, 8, 8⟩
def PORT_MODE.TRANSPARENT (n : Nat) : Fld := ⟨PORT_MODE n, 7, 7⟩
def PORT_MODE.EEI (n : Nat) : Fld := ⟨PORT_MODE n, 6, 6⟩
def PORT_MODE.TRIPAIR (n : Nat) : Fld := ⟨PORT_MODE n, 5, 5⟩
def PORT_MODE.BREAKOUT (n : Nat) : Fld := ⟨PORT_MODE n, 4, 4⟩
def PORT_MODE.BUNDLE (n : Nat) : Fld := ⟨PORT_MODE n, 3, 3⟩
def PORT_MODE.SPLITBAND (n : Nat) : Fld := ⟨PORT_MODE n, 2, 2⟩
def PORT_MODE.REACH (n : Nat) : Fld := ⟨PORT_MODE n, 1, 1⟩
def PORT_MODE.TIMETABLE (n : Nat) : Fld := ⟨PORT_MODE n, 0, 0⟩
/-- PORT_MODE_EFFECTIVE: R42 of 02_modes.md. -/
def PORT_MODE_EFFECTIVE (n : Nat) : Nat := portBase n + 0x44
def PORT_MODE_EFFECTIVE.FC_IGNORED (n : Nat) : Fld := ⟨PORT_MODE_EFFECTIVE n, 16, 16⟩
def PORT_MODE_EFFECTIVE.EFFECTIVE (n : Nat) : Fld := ⟨PORT_MODE_EFFECTIVE n, 11, 0⟩
/-- PORT_MODE_INACTIVE: R42 of 02_modes.md. -/
def PORT_MODE_INACTIVE (n : Nat) : Nat := portBase n + 0x48
def PORT_MODE_INACTIVE.INACTIVE (n : Nat) : Fld := ⟨PORT_MODE_INACTIVE n, 11, 0⟩
/-- PORT_MODE_REASON0: R42 of 02_modes.md. -/
def PORT_MODE_REASON0 (n : Nat) : Nat := portBase n + 0x4C
def PORT_MODE_REASON0.REASON (n : Nat) : Fld := ⟨PORT_MODE_REASON0 n, 31, 0⟩
/-- PORT_MODE_REASON1: R42 of 02_modes.md. -/
def PORT_MODE_REASON1 (n : Nat) : Nat := portBase n + 0x50
def PORT_MODE_REASON1.REASON (n : Nat) : Fld := ⟨PORT_MODE_REASON1 n, 15, 0⟩
/-- PORT_MODE_PENDING: R42 of 02_modes.md. -/
def PORT_MODE_PENDING (n : Nat) : Nat := portBase n + 0x54
def PORT_MODE_PENDING.STAGE_VALID (n : Nat) : Fld := ⟨PORT_MODE_PENDING n, 16, 16⟩
def PORT_MODE_PENDING.PENDING (n : Nat) : Fld := ⟨PORT_MODE_PENDING n, 11, 0⟩
/-- PORT_MODE_STAGE: R42 of 02_modes.md. -/
def PORT_MODE_STAGE (n : Nat) : Nat := portBase n + 0x58
def PORT_MODE_STAGE.STAGE (n : Nat) : Fld := ⟨PORT_MODE_STAGE n, 31, 0⟩
/-- PORT_MODE_CHANGES: R42 of 02_modes.md. -/
def PORT_MODE_CHANGES (n : Nat) : Nat := portBase n + 0x5C
def PORT_MODE_CHANGES.COUNT (n : Nat) : Fld := ⟨PORT_MODE_CHANGES n, 31, 0⟩
/-- PORT_MODE_DECLINED: R42 of 02_modes.md. -/
def PORT_MODE_DECLINED (n : Nat) : Nat := portBase n + 0x60
def PORT_MODE_DECLINED.COUNT (n : Nat) : Fld := ⟨PORT_MODE_DECLINED n, 31, 0⟩
/-- PORT_PATTERN_CFG: R42 of 02_modes.md. -/
def PORT_PATTERN_CFG (n : Nat) : Nat := portBase n + 0x64
def PORT_PATTERN_CFG.BURST_LEN (n : Nat) : Fld := ⟨PORT_PATTERN_CFG n, 31, 24⟩
def PORT_PATTERN_CFG.INJ_BURST (n : Nat) : Fld := ⟨PORT_PATTERN_CFG n, 17, 17⟩
def PORT_PATTERN_CFG.INJ_SINGLE (n : Nat) : Fld := ⟨PORT_PATTERN_CFG n, 16, 16⟩
def PORT_PATTERN_CFG.POLY (n : Nat) : Fld := ⟨PORT_PATTERN_CFG n, 9, 8⟩
def PORT_PATTERN_CFG.PAIR_MASK (n : Nat) : Fld := ⟨PORT_PATTERN_CFG n, 3, 0⟩
/-- PORT_PATTERN_STATUS: R42 of 02_modes.md. -/
def PORT_PATTERN_STATUS (n : Nat) : Nat := portBase n + 0x68
def PORT_PATTERN_STATUS.RX_LOCK (n : Nat) : Fld := ⟨PORT_PATTERN_STATUS n, 11, 8⟩
def PORT_PATTERN_STATUS.RX_MASK (n : Nat) : Fld := ⟨PORT_PATTERN_STATUS n, 7, 4⟩
def PORT_PATTERN_STATUS.TX_MASK (n : Nat) : Fld := ⟨PORT_PATTERN_STATUS n, 3, 0⟩
/-- PORT_PATTERN_ERR: R42 of 02_modes.md. -/
def PORT_PATTERN_ERR (n p : Nat) : Nat := portBase n + 0x6C + 4 * p
def PORT_PATTERN_ERR.COUNT (n p : Nat) : Fld := ⟨PORT_PATTERN_ERR n p, 31, 0⟩
/-- PORT_LOOP_DISCARD: R42 of 02_modes.md. -/
def PORT_LOOP_DISCARD (n : Nat) : Nat := portBase n + 0x7C
def PORT_LOOP_DISCARD.COUNT (n : Nat) : Fld := ⟨PORT_LOOP_DISCARD n, 31, 0⟩
/-- PORT_LOOP_OVERFLOW: R42 of 02_modes.md. -/
def PORT_LOOP_OVERFLOW (n : Nat) : Nat := portBase n + 0x80
def PORT_LOOP_OVERFLOW.COUNT (n : Nat) : Fld := ⟨PORT_LOOP_OVERFLOW n, 31, 0⟩
/-- PORT_FRAMING_TX: R112 of 03_line_signal.md. -/
def PORT_FRAMING_TX (n : Nat) : Nat := portBase n + 0x100
def PORT_FRAMING_TX.SHARE16 (n : Nat) : Fld := ⟨PORT_FRAMING_TX n, 31, 24⟩
def PORT_FRAMING_TX.REACH_M (n : Nat) : Fld := ⟨PORT_FRAMING_TX n, 23, 16⟩
def PORT_FRAMING_TX.CARRY_MASK (n : Nat) : Fld := ⟨PORT_FRAMING_TX n, 11, 8⟩
def PORT_FRAMING_TX.CODING (n : Nat) : Fld := ⟨PORT_FRAMING_TX n, 5, 4⟩
def PORT_FRAMING_TX.STREAM (n : Nat) : Fld := ⟨PORT_FRAMING_TX n, 2, 0⟩
/-- PORT_FRAMING_RX: R112 of 03_line_signal.md. -/
def PORT_FRAMING_RX (n : Nat) : Nat := portBase n + 0x104
def PORT_FRAMING_RX.SHARE16 (n : Nat) : Fld := ⟨PORT_FRAMING_RX n, 31, 24⟩
def PORT_FRAMING_RX.REACH_M (n : Nat) : Fld := ⟨PORT_FRAMING_RX n, 23, 16⟩
def PORT_FRAMING_RX.CARRY_MASK (n : Nat) : Fld := ⟨PORT_FRAMING_RX n, 11, 8⟩
def PORT_FRAMING_RX.CODING (n : Nat) : Fld := ⟨PORT_FRAMING_RX n, 5, 4⟩
def PORT_FRAMING_RX.STREAM (n : Nat) : Fld := ⟨PORT_FRAMING_RX n, 2, 0⟩
/-- PORT_LOAD_CFG: R112 of 03_line_signal.md. -/
def PORT_LOAD_CFG (n : Nat) : Nat := portBase n + 0x108
def PORT_LOAD_CFG.TARGET_MARGIN (n : Nat) : Fld := ⟨PORT_LOAD_CFG n, 7, 0⟩
/-- PORT_COACH_TX: R112 of 03_line_signal.md. -/
def PORT_COACH_TX (n : Nat) : Nat := portBase n + 0x110
/-- PORT_FILL_TX: R112 of 03_line_signal.md. -/
def PORT_FILL_TX (n : Nat) : Nat := portBase n + 0x118
/-- PORT_COACH_RX: R112 of 03_line_signal.md. -/
def PORT_COACH_RX (n : Nat) : Nat := portBase n + 0x120
/-- PORT_CRC_BAD: R112 of 03_line_signal.md. -/
def PORT_CRC_BAD (n : Nat) : Nat := portBase n + 0x128
/-- PORT_HDR_BAD: R112 of 03_line_signal.md. -/
def PORT_HDR_BAD (n : Nat) : Nat := portBase n + 0x130
def PORT_HDR_BAD.COUNT (n : Nat) : Fld := ⟨PORT_HDR_BAD n, 31, 0⟩
/-- PORT_SEQ_SLIP: R112 of 03_line_signal.md. -/
def PORT_SEQ_SLIP (n : Nat) : Nat := portBase n + 0x134
def PORT_SEQ_SLIP.COUNT (n : Nat) : Fld := ⟨PORT_SEQ_SLIP n, 31, 0⟩
/-- PORT_RS_CW: R112 of 03_line_signal.md. -/
def PORT_RS_CW (n : Nat) : Nat := portBase n + 0x138
/-- PORT_RS_CORR_SYM: R112 of 03_line_signal.md. -/
def PORT_RS_CORR_SYM (n : Nat) : Nat := portBase n + 0x140
/-- PORT_RS_UNCORR: R112 of 03_line_signal.md. -/
def PORT_RS_UNCORR (n : Nat) : Nat := portBase n + 0x148
def PORT_RS_UNCORR.COUNT (n : Nat) : Fld := ⟨PORT_RS_UNCORR n, 31, 0⟩
/-- PORT_RX_CFG: R152 of 04_line_receiver.md. -/
def PORT_RX_CFG (n : Nat) : Nat := portBase n + 0x200
def PORT_RX_CFG.FAIL_MAX (n : Nat) : Fld := ⟨PORT_RX_CFG n, 24, 16⟩
def PORT_RX_CFG.ERLE_MIN (n : Nat) : Fld := ⟨PORT_RX_CFG n, 15, 8⟩
def PORT_RX_CFG.AVG (n : Nat) : Fld := ⟨PORT_RX_CFG n, 7, 4⟩
def PORT_RX_CFG.TR_BW (n : Nat) : Fld := ⟨PORT_RX_CFG n, 3, 2⟩
def PORT_RX_CFG.SB_AUTO (n : Nat) : Fld := ⟨PORT_RX_CFG n, 0, 0⟩
/-- PORT_ECHO_DRIFT_CFG: R152 of 04_line_receiver.md. -/
def PORT_ECHO_DRIFT_CFG (n : Nat) : Nat := portBase n + 0x204
def PORT_ECHO_DRIFT_CFG.RETRAIN (n : Nat) : Fld := ⟨PORT_ECHO_DRIFT_CFG n, 31, 16⟩
def PORT_ECHO_DRIFT_CFG.STORE (n : Nat) : Fld := ⟨PORT_ECHO_DRIFT_CFG n, 15, 0⟩
/-- PORT_ECHO_ADAPT: R152 of 04_line_receiver.md. -/
def PORT_ECHO_ADAPT (n : Nat) : Nat := portBase n + 0x208
def PORT_ECHO_ADAPT.FREEZE (n : Nat) : Fld := ⟨PORT_ECHO_ADAPT n, 16, 16⟩
def PORT_ECHO_ADAPT.XT_MU (n : Nat) : Fld := ⟨PORT_ECHO_ADAPT n, 11, 8⟩
def PORT_ECHO_ADAPT.ECHO_MU (n : Nat) : Fld := ⟨PORT_ECHO_ADAPT n, 3, 0⟩
/-- PORT_RX_LIMITS: R152 of 04_line_receiver.md. -/
def PORT_RX_LIMITS (n : Nat) : Nat := portBase n + 0x20C
def PORT_RX_LIMITS.DEAD_SNR (n : Nat) : Fld := ⟨PORT_RX_LIMITS n, 31, 24⟩
def PORT_RX_LIMITS.DEAD_STAGES (n : Nat) : Fld := ⟨PORT_RX_LIMITS n, 23, 16⟩
def PORT_RX_LIMITS.CLIP_MAX (n : Nat) : Fld := ⟨PORT_RX_LIMITS n, 15, 0⟩
/-- PORT_QUALITY: R152 of 04_line_receiver.md. -/
def PORT_QUALITY (n : Nat) : Nat := portBase n + 0x210
def PORT_QUALITY.STALE (n : Nat) : Fld := ⟨PORT_QUALITY n, 31, 31⟩
def PORT_QUALITY.LQ (n : Nat) : Fld := ⟨PORT_QUALITY n, 23, 16⟩
def PORT_QUALITY.MARGIN (n : Nat) : Fld := ⟨PORT_QUALITY n, 15, 0⟩
/-- PORT_RX_STATUS: R152 of 04_line_receiver.md. -/
def PORT_RX_STATUS (n : Nat) : Nat := portBase n + 0x214
def PORT_RX_STATUS.BREAKOUT_FEXT (n : Nat) : Fld := ⟨PORT_RX_STATUS n, 3, 3⟩
def PORT_RX_STATUS.SB_CHOSEN (n : Nat) : Fld := ⟨PORT_RX_STATUS n, 1, 1⟩
def PORT_RX_STATUS.ECHO_FAIL (n : Nat) : Fld := ⟨PORT_RX_STATUS n, 0, 0⟩
/-- PORT_XT_STATUS: R152 of 04_line_receiver.md. -/
def PORT_XT_STATUS (n : Nat) : Nat := portBase n + 0x218
def PORT_XT_STATUS.BUNDLE_CONVERGED (n : Nat) : Fld := ⟨PORT_XT_STATUS n, 24, 24⟩
def PORT_XT_STATUS.NEXT_PARTNER (n : Nat) : Fld := ⟨PORT_XT_STATUS n, 23, 16⟩
def PORT_XT_STATUS.FEXT (n : Nat) : Fld := ⟨PORT_XT_STATUS n, 15, 8⟩
def PORT_XT_STATUS.NEXT_OWN (n : Nat) : Fld := ⟨PORT_XT_STATUS n, 7, 0⟩
/-- PORT_RETRAIN_ECHO: R152 of 04_line_receiver.md. -/
def PORT_RETRAIN_ECHO (n : Nat) : Nat := portBase n + 0x220
def PORT_RETRAIN_ECHO.COUNT (n : Nat) : Fld := ⟨PORT_RETRAIN_ECHO n, 31, 0⟩
/-- PORT_RETRAIN_GAIN: R152 of 04_line_receiver.md. -/
def PORT_RETRAIN_GAIN (n : Nat) : Nat := portBase n + 0x224
def PORT_RETRAIN_GAIN.COUNT (n : Nat) : Fld := ⟨PORT_RETRAIN_GAIN n, 31, 0⟩
/-- PORT_RETRAIN_TIMING: R152 of 04_line_receiver.md. -/
def PORT_RETRAIN_TIMING (n : Nat) : Nat := portBase n + 0x228
def PORT_RETRAIN_TIMING.COUNT (n : Nat) : Fld := ⟨PORT_RETRAIN_TIMING n, 31, 0⟩
/-- PORT_SB_AUTO: R152 of 04_line_receiver.md. -/
def PORT_SB_AUTO (n : Nat) : Nat := portBase n + 0x22C
def PORT_SB_AUTO.COUNT (n : Nat) : Fld := ⟨PORT_SB_AUTO n, 31, 0⟩
/-- PORT_DEAD_PAIR: R152 of 04_line_receiver.md. -/
def PORT_DEAD_PAIR (n : Nat) : Nat := portBase n + 0x230
def PORT_DEAD_PAIR.COUNT (n : Nat) : Fld := ⟨PORT_DEAD_PAIR n, 31, 0⟩
/-- PORT_STARTUP_CFG: R195 of 05_link_startup.md. -/
def PORT_STARTUP_CFG (n : Nat) : Nat := portBase n + 0x300
def PORT_STARTUP_CFG.ENABLE (n : Nat) : Fld := ⟨PORT_STARTUP_CFG n, 31, 31⟩
def PORT_STARTUP_CFG.FR_ALLOW (n : Nat) : Fld := ⟨PORT_STARTUP_CFG n, 30, 30⟩
def PORT_STARTUP_CFG.TIER (n : Nat) : Fld := ⟨PORT_STARTUP_CFG n, 29, 28⟩
def PORT_STARTUP_CFG.VERIFY_MAX (n : Nat) : Fld := ⟨PORT_STARTUP_CFG n, 23, 16⟩
def PORT_STARTUP_CFG.FAIL_LIMIT (n : Nat) : Fld := ⟨PORT_STARTUP_CFG n, 15, 8⟩
/-- PORT_GREET_CFG: R195 of 05_link_startup.md. -/
def PORT_GREET_CFG (n : Nat) : Nat := portBase n + 0x304
def PORT_GREET_CFG.DET_THRESH (n : Nat) : Fld := ⟨PORT_GREET_CFG n, 31, 24⟩
def PORT_GREET_CFG.CAPTURE_DB (n : Nat) : Fld := ⟨PORT_GREET_CFG n, 23, 20⟩
def PORT_GREET_CFG.LEVEL_START (n : Nat) : Fld := ⟨PORT_GREET_CFG n, 17, 16⟩
/-- PORT_LOCAL_TAG: R195 of 05_link_startup.md. -/
def PORT_LOCAL_TAG (n : Nat) : Nat := portBase n + 0x308
def PORT_LOCAL_TAG.TAG (n : Nat) : Fld := ⟨PORT_LOCAL_TAG n, 31, 0⟩
/-- PORT_STARTUP_STATUS: R195 of 05_link_startup.md. -/
def PORT_STARTUP_STATUS (n : Nat) : Nat := portBase n + 0x310
def PORT_STARTUP_STATUS.PHASE (n : Nat) : Fld := ⟨PORT_STARTUP_STATUS n, 31, 28⟩
def PORT_STARTUP_STATUS.FAST (n : Nat) : Fld := ⟨PORT_STARTUP_STATUS n, 27, 27⟩
def PORT_STARTUP_STATUS.INITIATOR (n : Nat) : Fld := ⟨PORT_STARTUP_STATUS n, 26, 26⟩
def PORT_STARTUP_STATUS.HIGHER_ID (n : Nat) : Fld := ⟨PORT_STARTUP_STATUS n, 25, 25⟩
def PORT_STARTUP_STATUS.LIMIT (n : Nat) : Fld := ⟨PORT_STARTUP_STATUS n, 24, 24⟩
def PORT_STARTUP_STATUS.LEVEL (n : Nat) : Fld := ⟨PORT_STARTUP_STATUS n, 21, 20⟩
def PORT_STARTUP_STATUS.EXCLUDED (n : Nat) : Fld := ⟨PORT_STARTUP_STATUS n, 19, 16⟩
def PORT_STARTUP_STATUS.CONSEC_FAIL (n : Nat) : Fld := ⟨PORT_STARTUP_STATUS n, 15, 8⟩
def PORT_STARTUP_STATUS.LAST_CAUSE (n : Nat) : Fld := ⟨PORT_STARTUP_STATUS n, 7, 0⟩
/-- PORT_STARTUP_RESULT: R195 of 05_link_startup.md. -/
def PORT_STARTUP_RESULT (n : Nat) : Nat := portBase n + 0x314
def PORT_STARTUP_RESULT.REMOTE_CAUSE (n : Nat) : Fld := ⟨PORT_STARTUP_RESULT n, 31, 24⟩
def PORT_STARTUP_RESULT.CARRY (n : Nat) : Fld := ⟨PORT_STARTUP_RESULT n, 19, 16⟩
def PORT_STARTUP_RESULT.MAX_TIER (n : Nat) : Fld := ⟨PORT_STARTUP_RESULT n, 15, 14⟩
def PORT_STARTUP_RESULT.RESOLVED (n : Nat) : Fld := ⟨PORT_STARTUP_RESULT n, 11, 0⟩
/-- PORT_OWN_ID: R195 of 05_link_startup.md. -/
def PORT_OWN_ID (n : Nat) : Nat := portBase n + 0x318
def PORT_OWN_ID.ID (n : Nat) : Fld := ⟨PORT_OWN_ID n, 31, 0⟩
/-- PORT_PEER_ID: R195 of 05_link_startup.md. -/
def PORT_PEER_ID (n : Nat) : Nat := portBase n + 0x31C
def PORT_PEER_ID.ID (n : Nat) : Fld := ⟨PORT_PEER_ID n, 31, 0⟩
/-- PORT_PEER_TAG: R195 of 05_link_startup.md. -/
def PORT_PEER_TAG (n : Nat) : Nat := portBase n + 0x320
def PORT_PEER_TAG.TAG (n : Nat) : Fld := ⟨PORT_PEER_TAG n, 31, 0⟩
/-- PORT_PEER_INFO: R195 of 05_link_startup.md. -/
def PORT_PEER_INFO (n : Nat) : Nat := portBase n + 0x324
def PORT_PEER_INFO.PROTO (n : Nat) : Fld := ⟨PORT_PEER_INFO n, 31, 24⟩
def PORT_PEER_INFO.STEP (n : Nat) : Fld := ⟨PORT_PEER_INFO n, 23, 16⟩
def PORT_PEER_INFO.NO_DEVID (n : Nat) : Fld := ⟨PORT_PEER_INFO n, 14, 14⟩
def PORT_PEER_INFO.DEVID (n : Nat) : Fld := ⟨PORT_PEER_INFO n, 13, 8⟩
def PORT_PEER_INFO.PORT (n : Nat) : Fld := ⟨PORT_PEER_INFO n, 6, 0⟩
/-- PORT_STARTUP_TIME: R195 of 05_link_startup.md. -/
def PORT_STARTUP_TIME (n : Nat) : Nat := portBase n + 0x328
def PORT_STARTUP_TIME.TIME (n : Nat) : Fld := ⟨PORT_STARTUP_TIME n, 31, 0⟩
/-- PORT_STARTUPS: R195 of 05_link_startup.md. -/
def PORT_STARTUPS (n : Nat) : Nat := portBase n + 0x330
def PORT_STARTUPS.COUNT (n : Nat) : Fld := ⟨PORT_STARTUPS n, 31, 0⟩
/-- PORT_FAST_RETRAINS: R195 of 05_link_startup.md. -/
def PORT_FAST_RETRAINS (n : Nat) : Nat := portBase n + 0x334
def PORT_FAST_RETRAINS.COUNT (n : Nat) : Fld := ⟨PORT_FAST_RETRAINS n, 31, 0⟩
/-- PORT_STARTUP_FAILS: R195 of 05_link_startup.md. -/
def PORT_STARTUP_FAILS (n : Nat) : Nat := portBase n + 0x338
def PORT_STARTUP_FAILS.COUNT (n : Nat) : Fld := ⟨PORT_STARTUP_FAILS n, 31, 0⟩
/-- PORT_FR_FAILS: R195 of 05_link_startup.md. -/
def PORT_FR_FAILS (n : Nat) : Nat := portBase n + 0x33C
def PORT_FR_FAILS.COUNT (n : Nat) : Fld := ⟨PORT_FR_FAILS n, 31, 0⟩
/-- PORT_G0_NOREPLY: R195 of 05_link_startup.md. -/
def PORT_G0_NOREPLY (n : Nat) : Nat := portBase n + 0x340
def PORT_G0_NOREPLY.COUNT (n : Nat) : Fld := ⟨PORT_G0_NOREPLY n, 31, 0⟩
/-- PORT_GREET_MODE: R195 of 05_link_startup.md. -/
def PORT_GREET_MODE (n : Nat) : Nat := portBase n + 0x344
def PORT_GREET_MODE.COUNT (n : Nat) : Fld := ⟨PORT_GREET_MODE n, 31, 0⟩
/-- PORT_ID_COLLIDE: R195 of 05_link_startup.md. -/
def PORT_ID_COLLIDE (n : Nat) : Nat := portBase n + 0x348
def PORT_ID_COLLIDE.COUNT (n : Nat) : Fld := ⟨PORT_ID_COLLIDE n, 31, 0⟩
/-- PORT_SWAP_CFG: R225 of 06_showtime_adaptation.md. -/
def PORT_SWAP_CFG (n : Nat) : Nat := portBase n + 0x400
def PORT_SWAP_CFG.AUTO (n : Nat) : Fld := ⟨PORT_SWAP_CFG n, 31, 31⟩
def PORT_SWAP_CFG.SWAP_DOWN (n : Nat) : Fld := ⟨PORT_SWAP_CFG n, 23, 16⟩
def PORT_SWAP_CFG.HOLDOFF (n : Nat) : Fld := ⟨PORT_SWAP_CFG n, 15, 8⟩
def PORT_SWAP_CFG.WEAK_MIN (n : Nat) : Fld := ⟨PORT_SWAP_CFG n, 7, 0⟩
/-- PORT_RATE_CFG: R225 of 06_showtime_adaptation.md. -/
def PORT_RATE_CFG (n : Nat) : Nat := portBase n + 0x404
def PORT_RATE_CFG.AUTO_DOWN (n : Nat) : Fld := ⟨PORT_RATE_CFG n, 31, 31⟩
def PORT_RATE_CFG.AUTO_UP (n : Nat) : Fld := ⟨PORT_RATE_CFG n, 30, 30⟩
def PORT_RATE_CFG.REQ_TIER (n : Nat) : Fld := ⟨PORT_RATE_CFG n, 29, 28⟩
def PORT_RATE_CFG.DOWN_MARGIN (n : Nat) : Fld := ⟨PORT_RATE_CFG n, 23, 16⟩
def PORT_RATE_CFG.UP_HYST (n : Nat) : Fld := ⟨PORT_RATE_CFG n, 15, 8⟩
def PORT_RATE_CFG.DOWN_STAGES (n : Nat) : Fld := ⟨PORT_RATE_CFG n, 7, 0⟩
/-- PORT_LINK_CFG: R225 of 06_showtime_adaptation.md. -/
def PORT_LINK_CFG (n : Nat) : Nat := portBase n + 0x408
def PORT_LINK_CFG.CRC_STAGES (n : Nat) : Fld := ⟨PORT_LINK_CFG n, 23, 16⟩
def PORT_LINK_CFG.COACH_LOSS_MAX (n : Nat) : Fld := ⟨PORT_LINK_CFG n, 15, 8⟩
def PORT_LINK_CFG.WM_RETRY (n : Nat) : Fld := ⟨PORT_LINK_CFG n, 7, 0⟩
/-- PORT_TRIPAIR_CFG: R225 of 06_showtime_adaptation.md. -/
def PORT_TRIPAIR_CFG (n : Nat) : Nat := portBase n + 0x40C
def PORT_TRIPAIR_CFG.RESTORE (n : Nat) : Fld := ⟨PORT_TRIPAIR_CFG n, 31, 31⟩
def PORT_TRIPAIR_CFG.RESTORE_STAGES (n : Nat) : Fld := ⟨PORT_TRIPAIR_CFG n, 15, 0⟩
/-- PORT_LINK_STATUS: R225 of 06_showtime_adaptation.md. -/
def PORT_LINK_STATUS (n : Nat) : Nat := portBase n + 0x410
def PORT_LINK_STATUS.STATE (n : Nat) : Fld := ⟨PORT_LINK_STATUS n, 31, 28⟩
def PORT_LINK_STATUS.DEAD_MASK (n : Nat) : Fld := ⟨PORT_LINK_STATUS n, 27, 24⟩
def PORT_LINK_STATUS.TRIPAIR_ACTIVE (n : Nat) : Fld := ⟨PORT_LINK_STATUS n, 20, 20⟩
def PORT_LINK_STATUS.TIER_TX (n : Nat) : Fld := ⟨PORT_LINK_STATUS n, 19, 18⟩
def PORT_LINK_STATUS.TIER_RX (n : Nat) : Fld := ⟨PORT_LINK_STATUS n, 17, 16⟩
def PORT_LINK_STATUS.LAST_RETRAIN (n : Nat) : Fld := ⟨PORT_LINK_STATUS n, 15, 8⟩
def PORT_LINK_STATUS.LAST_DOWN (n : Nat) : Fld := ⟨PORT_LINK_STATUS n, 7, 0⟩
/-- PORT_STAGE_NOW: R225 of 06_showtime_adaptation.md. -/
def PORT_STAGE_NOW (n : Nat) : Nat := portBase n + 0x414
def PORT_STAGE_NOW.STAGE (n : Nat) : Fld := ⟨PORT_STAGE_NOW n, 31, 0⟩
/-- PORT_STAGE_FAR: R225 of 06_showtime_adaptation.md. -/
def PORT_STAGE_FAR (n : Nat) : Nat := portBase n + 0x418
def PORT_STAGE_FAR.STAGE (n : Nat) : Fld := ⟨PORT_STAGE_FAR n, 31, 0⟩
/-- PORT_CHANGE_STATUS: R225 of 06_showtime_adaptation.md. -/
def PORT_CHANGE_STATUS (n : Nat) : Nat := portBase n + 0x41C
def PORT_CHANGE_STATUS.VALID (n : Nat) : Fld := ⟨PORT_CHANGE_STATUS n, 31, 31⟩
def PORT_CHANGE_STATUS.KIND (n : Nat) : Fld := ⟨PORT_CHANGE_STATUS n, 30, 28⟩
def PORT_CHANGE_STATUS.TIER (n : Nat) : Fld := ⟨PORT_CHANGE_STATUS n, 25, 24⟩
def PORT_CHANGE_STATUS.PAIRS (n : Nat) : Fld := ⟨PORT_CHANGE_STATUS n, 19, 16⟩
/-- PORT_CHANGE_STAGE: R225 of 06_showtime_adaptation.md. -/
def PORT_CHANGE_STAGE (n : Nat) : Nat := portBase n + 0x420
def PORT_CHANGE_STAGE.STAGE (n : Nat) : Fld := ⟨PORT_CHANGE_STAGE n, 31, 0⟩
/-- PORT_SWAPS: R225 of 06_showtime_adaptation.md. -/
def PORT_SWAPS (n : Nat) : Nat := portBase n + 0x440
def PORT_SWAPS.COUNT (n : Nat) : Fld := ⟨PORT_SWAPS n, 31, 0⟩
/-- PORT_SWAP_DECLINES: R225 of 06_showtime_adaptation.md. -/
def PORT_SWAP_DECLINES (n : Nat) : Nat := portBase n + 0x444
def PORT_SWAP_DECLINES.COUNT (n : Nat) : Fld := ⟨PORT_SWAP_DECLINES n, 31, 0⟩
/-- PORT_RATE_CHANGES: R225 of 06_showtime_adaptation.md. -/
def PORT_RATE_CHANGES (n : Nat) : Nat := portBase n + 0x448
def PORT_RATE_CHANGES.COUNT (n : Nat) : Fld := ⟨PORT_RATE_CHANGES n, 31, 0⟩
/-- PORT_RATE_DECLINES: R225 of 06_showtime_adaptation.md. -/
def PORT_RATE_DECLINES (n : Nat) : Nat := portBase n + 0x44C
def PORT_RATE_DECLINES.COUNT (n : Nat) : Fld := ⟨PORT_RATE_DECLINES n, 31, 0⟩
/-- PORT_TRIPAIR_FALLBACKS: R225 of 06_showtime_adaptation.md. -/
def PORT_TRIPAIR_FALLBACKS (n : Nat) : Nat := portBase n + 0x450
def PORT_TRIPAIR_FALLBACKS.COUNT (n : Nat) : Fld := ⟨PORT_TRIPAIR_FALLBACKS n, 31, 0⟩
/-- PORT_TRIPAIR_SLOW: R225 of 06_showtime_adaptation.md. -/
def PORT_TRIPAIR_SLOW (n : Nat) : Nat := portBase n + 0x454
def PORT_TRIPAIR_SLOW.COUNT (n : Nat) : Fld := ⟨PORT_TRIPAIR_SLOW n, 31, 0⟩
/-- PORT_TRIPAIR_RESTORES: R225 of 06_showtime_adaptation.md. -/
def PORT_TRIPAIR_RESTORES (n : Nat) : Nat := portBase n + 0x458
def PORT_TRIPAIR_RESTORES.COUNT (n : Nat) : Fld := ⟨PORT_TRIPAIR_RESTORES n, 31, 0⟩
/-- PORT_STAGE_SKIP: R225 of 06_showtime_adaptation.md. -/
def PORT_STAGE_SKIP (n : Nat) : Nat := portBase n + 0x45C
def PORT_STAGE_SKIP.COUNT (n : Nat) : Fld := ⟨PORT_STAGE_SKIP n, 31, 0⟩
/-- PORT_STAGE_REPEAT: R225 of 06_showtime_adaptation.md. -/
def PORT_STAGE_REPEAT (n : Nat) : Nat := portBase n + 0x460
def PORT_STAGE_REPEAT.COUNT (n : Nat) : Fld := ⟨PORT_STAGE_REPEAT n, 31, 0⟩
/-- PORT_STAGE_RESYNC: R225 of 06_showtime_adaptation.md. -/
def PORT_STAGE_RESYNC (n : Nat) : Nat := portBase n + 0x464
def PORT_STAGE_RESYNC.COUNT (n : Nat) : Fld := ⟨PORT_STAGE_RESYNC n, 31, 0⟩
/-- PORT_STAGE_GUESS: R225 of 06_showtime_adaptation.md. -/
def PORT_STAGE_GUESS (n : Nat) : Nat := portBase n + 0x468
def PORT_STAGE_GUESS.COUNT (n : Nat) : Fld := ⟨PORT_STAGE_GUESS n, 31, 0⟩
/-- PORT_WM_TIMEOUT: R225 of 06_showtime_adaptation.md. -/
def PORT_WM_TIMEOUT (n : Nat) : Nat := portBase n + 0x46C
def PORT_WM_TIMEOUT.COUNT (n : Nat) : Fld := ⟨PORT_WM_TIMEOUT n, 31, 0⟩
/-- PORT_COACH_LOSS: R225 of 06_showtime_adaptation.md. -/
def PORT_COACH_LOSS (n : Nat) : Nat := portBase n + 0x470
def PORT_COACH_LOSS.COUNT (n : Nat) : Fld := ⟨PORT_COACH_LOSS n, 31, 0⟩
/-- PORT_RETRAIN_CRC: R225 of 06_showtime_adaptation.md. -/
def PORT_RETRAIN_CRC (n : Nat) : Nat := portBase n + 0x474
def PORT_RETRAIN_CRC.COUNT (n : Nat) : Fld := ⟨PORT_RETRAIN_CRC n, 31, 0⟩
/-- PORT_RETRAIN_STAGE: R225 of 06_showtime_adaptation.md. -/
def PORT_RETRAIN_STAGE (n : Nat) : Nat := portBase n + 0x478
def PORT_RETRAIN_STAGE.COUNT (n : Nat) : Fld := ⟨PORT_RETRAIN_STAGE n, 31, 0⟩
/-- PORT_RETRAIN_WM: R225 of 06_showtime_adaptation.md. -/
def PORT_RETRAIN_WM (n : Nat) : Nat := portBase n + 0x47C
def PORT_RETRAIN_WM.COUNT (n : Nat) : Fld := ⟨PORT_RETRAIN_WM n, 31, 0⟩
/-- PORT_RETRAIN_MARGIN: R225 of 06_showtime_adaptation.md. -/
def PORT_RETRAIN_MARGIN (n : Nat) : Nat := portBase n + 0x480
def PORT_RETRAIN_MARGIN.COUNT (n : Nat) : Fld := ⟨PORT_RETRAIN_MARGIN n, 31, 0⟩
/-- PORT_RETRAIN_RX: R225 of 06_showtime_adaptation.md. -/
def PORT_RETRAIN_RX (n : Nat) : Nat := portBase n + 0x484
def PORT_RETRAIN_RX.COUNT (n : Nat) : Fld := ⟨PORT_RETRAIN_RX n, 31, 0⟩
/-- PORT_LINK_DOWNS: R225 of 06_showtime_adaptation.md. -/
def PORT_LINK_DOWNS (n : Nat) : Nat := portBase n + 0x488
def PORT_LINK_DOWNS.COUNT (n : Nat) : Fld := ⟨PORT_LINK_DOWNS n, 31, 0⟩
/-- PORT_FAULT_NOTICES: R225 of 06_showtime_adaptation.md. -/
def PORT_FAULT_NOTICES (n : Nat) : Nat := portBase n + 0x48C
def PORT_FAULT_NOTICES.COUNT (n : Nat) : Fld := ⟨PORT_FAULT_NOTICES n, 31, 0⟩
/-- PORT_SHOWTIME_TIME: R225 of 06_showtime_adaptation.md. -/
def PORT_SHOWTIME_TIME (n : Nat) : Nat := portBase n + 0x490
def PORT_SHOWTIME_TIME.TIME (n : Nat) : Fld := ⟨PORT_SHOWTIME_TIME n, 31, 0⟩
/-- PORT_RETRAIN_OTHER: R225 of 06_showtime_adaptation.md. -/
def PORT_RETRAIN_OTHER (n : Nat) : Nat := portBase n + 0x494
def PORT_RETRAIN_OTHER.COUNT (n : Nat) : Fld := ⟨PORT_RETRAIN_OTHER n, 31, 0⟩
/-- EEI_WAKE_BUDGET: R314 of 09_energy_idle.md. -/
def EEI_WAKE_BUDGET (n : Nat) : Nat := portBase n + 0x500
def EEI_WAKE_BUDGET.BUDGET (n : Nat) : Fld := ⟨EEI_WAKE_BUDGET n, 19, 0⟩
/-- EEI_CFG: R314 of 09_energy_idle.md. -/
def EEI_CFG (n : Nat) : Nat := portBase n + 0x504
def EEI_CFG.HOLDOFF (n : Nat) : Fld := ⟨EEI_CFG n, 23, 16⟩
def EEI_CFG.IDLE_STAGES (n : Nat) : Fld := ⟨EEI_CFG n, 15, 8⟩
def EEI_CFG.MAX_DEPTH (n : Nat) : Fld := ⟨EEI_CFG n, 1, 0⟩
/-- EEI_STATUS: R314 of 09_energy_idle.md. -/
def EEI_STATUS (n : Nat) : Nat := portBase n + 0x508
def EEI_STATUS.STATE (n : Nat) : Fld := ⟨EEI_STATUS n, 31, 28⟩
def EEI_STATUS.ALLOWED (n : Nat) : Fld := ⟨EEI_STATUS n, 27, 26⟩
def EEI_STATUS.DEPTH (n : Nat) : Fld := ⟨EEI_STATUS n, 25, 24⟩
def EEI_STATUS.LAST_REFUSER (n : Nat) : Fld := ⟨EEI_STATUS n, 23, 16⟩
def EEI_STATUS.PEER_CODE (n : Nat) : Fld := ⟨EEI_STATUS n, 15, 8⟩
def EEI_STATUS.LAST_WAKE (n : Nat) : Fld := ⟨EEI_STATUS n, 7, 0⟩
/-- EEI_ENTRY_STAGE: R314 of 09_energy_idle.md. -/
def EEI_ENTRY_STAGE (n : Nat) : Nat := portBase n + 0x50C
def EEI_ENTRY_STAGE.STAGE (n : Nat) : Fld := ⟨EEI_ENTRY_STAGE n, 31, 0⟩
/-- EEI_ENTRIES_LAYOVER: R314 of 09_energy_idle.md. -/
def EEI_ENTRIES_LAYOVER (n : Nat) : Nat := portBase n + 0x510
def EEI_ENTRIES_LAYOVER.COUNT (n : Nat) : Fld := ⟨EEI_ENTRIES_LAYOVER n, 31, 0⟩
/-- EEI_ENTRIES_OVERNIGHT: R314 of 09_energy_idle.md. -/
def EEI_ENTRIES_OVERNIGHT (n : Nat) : Nat := portBase n + 0x514
def EEI_ENTRIES_OVERNIGHT.COUNT (n : Nat) : Fld := ⟨EEI_ENTRIES_OVERNIGHT n, 31, 0⟩
/-- EEI_ENTRIES_LONGSTAY: R314 of 09_energy_idle.md. -/
def EEI_ENTRIES_LONGSTAY (n : Nat) : Nat := portBase n + 0x518
def EEI_ENTRIES_LONGSTAY.COUNT (n : Nat) : Fld := ⟨EEI_ENTRIES_LONGSTAY n, 31, 0⟩
/-- EEI_ENTER_WAKE: R314 of 09_energy_idle.md. -/
def EEI_ENTER_WAKE (n : Nat) : Nat := portBase n + 0x51C
def EEI_ENTER_WAKE.COUNT (n : Nat) : Fld := ⟨EEI_ENTER_WAKE n, 31, 0⟩
/-- EEI_FALSE_WAKES: R314 of 09_energy_idle.md. -/
def EEI_FALSE_WAKES (n : Nat) : Nat := portBase n + 0x520
def EEI_FALSE_WAKES.COUNT (n : Nat) : Fld := ⟨EEI_FALSE_WAKES n, 31, 0⟩
/-- EEI_WAKE_LATE: R314 of 09_energy_idle.md. -/
def EEI_WAKE_LATE (n : Nat) : Nat := portBase n + 0x524
def EEI_WAKE_LATE.COUNT (n : Nat) : Fld := ⟨EEI_WAKE_LATE n, 31, 0⟩
/-- EEI_QUIET_TIME: R314 of 09_energy_idle.md. -/
def EEI_QUIET_TIME (n : Nat) : Nat := portBase n + 0x528
/-- EEI_WAKE_MAX: R314 of 09_energy_idle.md. -/
def EEI_WAKE_MAX (n : Nat) : Nat := portBase n + 0x530
def EEI_WAKE_MAX.TIME (n : Nat) : Fld := ⟨EEI_WAKE_MAX n, 19, 0⟩
/-- EEI_REFUSED: R314 of 09_energy_idle.md. -/
def EEI_REFUSED (n c : Nat) : Nat := portBase n + 0x540 + 4 * (c - 1)
def EEI_REFUSED.COUNT (n c : Nat) : Fld := ⟨EEI_REFUSED n c, 31, 0⟩
/-- EEI_ABORTED: R314 of 09_energy_idle.md. -/
def EEI_ABORTED (n c : Nat) : Nat := portBase n + 0x580 + 4 * (c - 1)
def EEI_ABORTED.COUNT (n c : Nat) : Fld := ⟨EEI_ABORTED n c, 31, 0⟩
/-- DIAG_CFG: R333 of 10_cable_diagnostics.md. -/
def DIAG_CFG (n : Nat) : Nat := portBase n + 0x600
def DIAG_CFG.DELAY_PS_M (n : Nat) : Fld := ⟨DIAG_CFG n, 31, 16⟩
def DIAG_CFG.LENGTH (n : Nat) : Fld := ⟨DIAG_CFG n, 15, 0⟩
/-- DIAG_CFG2: R333 of 10_cable_diagnostics.md. -/
def DIAG_CFG2 (n : Nat) : Nat := portBase n + 0x604
def DIAG_CFG2.EVT_THRESH (n : Nat) : Fld := ⟨DIAG_CFG2 n, 31, 24⟩
def DIAG_CFG2.LOSS_DB_M (n : Nat) : Fld := ⟨DIAG_CFG2 n, 23, 16⟩
/-- DIAG_HIST_CFG: R333 of 10_cable_diagnostics.md. -/
def DIAG_HIST_CFG (n : Nat) : Nat := portBase n + 0x608
def DIAG_HIST_CFG.HIST_EN (n : Nat) : Fld := ⟨DIAG_HIST_CFG n, 31, 31⟩
def DIAG_HIST_CFG.HIST_CLEAR (n : Nat) : Fld := ⟨DIAG_HIST_CFG n, 30, 30⟩
def DIAG_HIST_CFG.PROFILE_EVERY (n : Nat) : Fld := ⟨DIAG_HIST_CFG n, 23, 16⟩
def DIAG_HIST_CFG.PERIOD (n : Nat) : Fld := ⟨DIAG_HIST_CFG n, 15, 0⟩
/-- PAIR_TX_CFG: R113 of 03_line_signal.md. -/
def PAIR_TX_CFG (n p : Nat) : Nat := pairBase n p + 0x0
def PAIR_TX_CFG.PAR_TARGET (n p : Nat) : Fld := ⟨PAIR_TX_CFG n p, 31, 24⟩
def PAIR_TX_CFG.TR_ITER (n p : Nat) : Fld := ⟨PAIR_TX_CFG n p, 19, 17⟩
def PAIR_TX_CFG.PSD_OFFSET (n p : Nat) : Fld := ⟨PAIR_TX_CFG n p, 4, 0⟩
/-- PAIR_TX_POWER: R113 of 03_line_signal.md. -/
def PAIR_TX_POWER (n p : Nat) : Nat := pairBase n p + 0x4
def PAIR_TX_POWER.STALE (n p : Nat) : Fld := ⟨PAIR_TX_POWER n p, 31, 31⟩
def PAIR_TX_POWER.POWER (n p : Nat) : Fld := ⟨PAIR_TX_POWER n p, 15, 0⟩
/-- PAIR_TX_CLIP: R113 of 03_line_signal.md. -/
def PAIR_TX_CLIP (n p : Nat) : Nat := pairBase n p + 0x8
def PAIR_TX_CLIP.COUNT (n p : Nat) : Fld := ⟨PAIR_TX_CLIP n p, 31, 0⟩
/-- PAIR_TBL_ADDR: R113 of 03_line_signal.md. -/
def PAIR_TBL_ADDR (n p : Nat) : Nat := pairBase n p + 0x10
def PAIR_TBL_ADDR.AUTO_INC (n p : Nat) : Fld := ⟨PAIR_TBL_ADDR n p, 16, 16⟩
def PAIR_TBL_ADDR.DIR (n p : Nat) : Fld := ⟨PAIR_TBL_ADDR n p, 11, 11⟩
def PAIR_TBL_ADDR.BANK (n p : Nat) : Fld := ⟨PAIR_TBL_ADDR n p, 10, 10⟩
def PAIR_TBL_ADDR.INDEX (n p : Nat) : Fld := ⟨PAIR_TBL_ADDR n p, 9, 0⟩
/-- PAIR_TBL_DATA: R113 of 03_line_signal.md. -/
def PAIR_TBL_DATA (n p : Nat) : Nat := pairBase n p + 0x14
def PAIR_TBL_DATA.EXCL (n p : Nat) : Fld := ⟨PAIR_TBL_DATA n p, 12, 12⟩
def PAIR_TBL_DATA.GAIN (n p : Nat) : Fld := ⟨PAIR_TBL_DATA n p, 8, 4⟩
def PAIR_TBL_DATA.B (n p : Nat) : Fld := ⟨PAIR_TBL_DATA n p, 3, 0⟩
/-- PAIR_TBL_STATUS: R113 of 03_line_signal.md. -/
def PAIR_TBL_STATUS (n p : Nat) : Nat := pairBase n p + 0x18
def PAIR_TBL_STATUS.HOST_WRITE_IGNORED (n p : Nat) : Fld := ⟨PAIR_TBL_STATUS n p, 8, 8⟩
def PAIR_TBL_STATUS.SHADOW_VALID_RX (n p : Nat) : Fld := ⟨PAIR_TBL_STATUS n p, 6, 6⟩
def PAIR_TBL_STATUS.SHADOW_VALID_TX (n p : Nat) : Fld := ⟨PAIR_TBL_STATUS n p, 5, 5⟩
def PAIR_TBL_STATUS.COPY_BUSY (n p : Nat) : Fld := ⟨PAIR_TBL_STATUS n p, 4, 4⟩
def PAIR_TBL_STATUS.SWAP_PENDING_RX (n p : Nat) : Fld := ⟨PAIR_TBL_STATUS n p, 3, 3⟩
def PAIR_TBL_STATUS.SWAP_PENDING_TX (n p : Nat) : Fld := ⟨PAIR_TBL_STATUS n p, 2, 2⟩
def PAIR_TBL_STATUS.ACTIVE_RX (n p : Nat) : Fld := ⟨PAIR_TBL_STATUS n p, 1, 1⟩
def PAIR_TBL_STATUS.ACTIVE_TX (n p : Nat) : Fld := ⟨PAIR_TBL_STATUS n p, 0, 0⟩
/-- PAIR_TBL_SWAP_STAGE: R113 of 03_line_signal.md. -/
def PAIR_TBL_SWAP_STAGE (n p : Nat) : Nat := pairBase n p + 0x1C
def PAIR_TBL_SWAP_STAGE.STAGE (n p : Nat) : Fld := ⟨PAIR_TBL_SWAP_STAGE n p, 31, 0⟩
/-- PAIR_TBL_SWAPS: R113 of 03_line_signal.md. -/
def PAIR_TBL_SWAPS (n p : Nat) : Nat := pairBase n p + 0x20
def PAIR_TBL_SWAPS.COUNT (n p : Nat) : Fld := ⟨PAIR_TBL_SWAPS n p, 31, 0⟩
/-- PAIR_WM_TX_LAST: R113 of 03_line_signal.md. -/
def PAIR_WM_TX_LAST (n p i : Nat) : Nat := pairBase n p + 0x30 + 4 * i
def PAIR_WM_TX_LAST.MSG (n p i : Nat) : Fld := ⟨PAIR_WM_TX_LAST n p i, 31, 0⟩
/-- PAIR_WM_RX_LAST: R113 of 03_line_signal.md. -/
def PAIR_WM_RX_LAST (n p i : Nat) : Nat := pairBase n p + 0x3C + 4 * i
def PAIR_WM_RX_LAST.MSG (n p i : Nat) : Fld := ⟨PAIR_WM_RX_LAST n p i, 31, 0⟩
/-- PAIR_WM_UNKNOWN: R113 of 03_line_signal.md. -/
def PAIR_WM_UNKNOWN (n p : Nat) : Nat := pairBase n p + 0x48
def PAIR_WM_UNKNOWN.COUNT (n p : Nat) : Fld := ⟨PAIR_WM_UNKNOWN n p, 31, 0⟩
/-- PAIR_SUB_COACH_RX: R113 of 03_line_signal.md. -/
def PAIR_SUB_COACH_RX (n p : Nat) : Nat := pairBase n p + 0x50
def PAIR_SUB_COACH_RX.COUNT (n p : Nat) : Fld := ⟨PAIR_SUB_COACH_RX n p, 31, 0⟩
/-- PAIR_SUB_CRC_BAD: R113 of 03_line_signal.md. -/
def PAIR_SUB_CRC_BAD (n p : Nat) : Nat := pairBase n p + 0x54
def PAIR_SUB_CRC_BAD.COUNT (n p : Nat) : Fld := ⟨PAIR_SUB_CRC_BAD n p, 31, 0⟩
/-- PAIR_AGC: R151 of 04_line_receiver.md. -/
def PAIR_AGC (n p : Nat) : Nat := pairBase n p + 0x100
def PAIR_AGC.DGAIN (n p : Nat) : Fld := ⟨PAIR_AGC n p, 23, 12⟩
def PAIR_AGC.FROZEN (n p : Nat) : Fld := ⟨PAIR_AGC n p, 8, 8⟩
def PAIR_AGC.AGAIN (n p : Nat) : Fld := ⟨PAIR_AGC n p, 4, 0⟩
/-- PAIR_ADC_STATUS: R151 of 04_line_receiver.md. -/
def PAIR_ADC_STATUS (n p : Nat) : Nat := pairBase n p + 0x104
def PAIR_ADC_STATUS.DEGRADED (n p : Nat) : Fld := ⟨PAIR_ADC_STATUS n p, 9, 9⟩
def PAIR_ADC_STATUS.COMMITTED (n p : Nat) : Fld := ⟨PAIR_ADC_STATUS n p, 8, 8⟩
def PAIR_ADC_STATUS.SPARE_SLOT (n p : Nat) : Fld := ⟨PAIR_ADC_STATUS n p, 6, 0⟩
/-- PAIR_TR_FREQ: R151 of 04_line_receiver.md. -/
def PAIR_TR_FREQ (n p : Nat) : Nat := pairBase n p + 0x108
def PAIR_TR_FREQ.FREQ (n p : Nat) : Fld := ⟨PAIR_TR_FREQ n p, 31, 0⟩
/-- PAIR_TR_STATUS: R151 of 04_line_receiver.md. -/
def PAIR_TR_STATUS (n p : Nat) : Nat := pairBase n p + 0x10C
def PAIR_TR_STATUS.LOCKED (n p : Nat) : Fld := ⟨PAIR_TR_STATUS n p, 31, 31⟩
def PAIR_TR_STATUS.TERR (n p : Nat) : Fld := ⟨PAIR_TR_STATUS n p, 15, 0⟩
/-- PAIR_TEQ_STATUS: R151 of 04_line_receiver.md. -/
def PAIR_TEQ_STATUS (n p : Nat) : Nat := pairBase n p + 0x110
def PAIR_TEQ_STATUS.SSNR (n p : Nat) : Fld := ⟨PAIR_TEQ_STATUS n p, 31, 16⟩
/-- PAIR_ECHO_STATUS: R151 of 04_line_receiver.md. -/
def PAIR_ECHO_STATUS (n p : Nat) : Nat := pairBase n p + 0x114
def PAIR_ECHO_STATUS.DEPTH (n p : Nat) : Fld := ⟨PAIR_ECHO_STATUS n p, 31, 24⟩
def PAIR_ECHO_STATUS.TD_DELAY (n p : Nat) : Fld := ⟨PAIR_ECHO_STATUS n p, 23, 16⟩
def PAIR_ECHO_STATUS.HYB (n p : Nat) : Fld := ⟨PAIR_ECHO_STATUS n p, 15, 8⟩
/-- PAIR_ERLE: R151 of 04_line_receiver.md. -/
def PAIR_ERLE (n p : Nat) : Nat := pairBase n p + 0x118
def PAIR_ERLE.FAIL_COUNT (n p : Nat) : Fld := ⟨PAIR_ERLE n p, 24, 16⟩
def PAIR_ERLE.MEDIAN (n p : Nat) : Fld := ⟨PAIR_ERLE n p, 15, 0⟩
/-- PAIR_ECHO_DRIFT: R151 of 04_line_receiver.md. -/
def PAIR_ECHO_DRIFT (n p : Nat) : Nat := pairBase n p + 0x11C
def PAIR_ECHO_DRIFT.TRAINED (n p : Nat) : Fld := ⟨PAIR_ECHO_DRIFT n p, 31, 16⟩
def PAIR_ECHO_DRIFT.STORED (n p : Nat) : Fld := ⟨PAIR_ECHO_DRIFT n p, 15, 0⟩
/-- PAIR_QUALITY: R151 of 04_line_receiver.md. -/
def PAIR_QUALITY (n p : Nat) : Nat := pairBase n p + 0x120
def PAIR_QUALITY.STALE (n p : Nat) : Fld := ⟨PAIR_QUALITY n p, 31, 31⟩
def PAIR_QUALITY.DEAD (n p : Nat) : Fld := ⟨PAIR_QUALITY n p, 30, 30⟩
def PAIR_QUALITY.LQ (n p : Nat) : Fld := ⟨PAIR_QUALITY n p, 23, 16⟩
def PAIR_QUALITY.MARGIN (n p : Nat) : Fld := ⟨PAIR_QUALITY n p, 15, 0⟩
/-- PAIR_EVM: R151 of 04_line_receiver.md. -/
def PAIR_EVM (n p : Nat) : Nat := pairBase n p + 0x124
def PAIR_EVM.STALE (n p : Nat) : Fld := ⟨PAIR_EVM n p, 31, 31⟩
def PAIR_EVM.EVM (n p : Nat) : Fld := ⟨PAIR_EVM n p, 15, 0⟩
/-- PAIR_SNR_MEAN: R151 of 04_line_receiver.md. -/
def PAIR_SNR_MEAN (n p : Nat) : Nat := pairBase n p + 0x128
def PAIR_SNR_MEAN.STALE (n p : Nat) : Fld := ⟨PAIR_SNR_MEAN n p, 31, 31⟩
def PAIR_SNR_MEAN.SNR (n p : Nat) : Fld := ⟨PAIR_SNR_MEAN n p, 15, 0⟩
/-- PAIR_PILOT_SNR: R151 of 04_line_receiver.md. -/
def PAIR_PILOT_SNR (n p : Nat) : Nat := pairBase n p + 0x12C
def PAIR_PILOT_SNR.SNR (n p : Nat) : Fld := ⟨PAIR_PILOT_SNR n p, 7, 0⟩
/-- PAIR_SNR_ADDR: R151 of 04_line_receiver.md. -/
def PAIR_SNR_ADDR (n p : Nat) : Nat := pairBase n p + 0x130
def PAIR_SNR_ADDR.AUTO_INC (n p : Nat) : Fld := ⟨PAIR_SNR_ADDR n p, 16, 16⟩
def PAIR_SNR_ADDR.INDEX (n p : Nat) : Fld := ⟨PAIR_SNR_ADDR n p, 8, 0⟩
/-- PAIR_SNR_DATA: R151 of 04_line_receiver.md. -/
def PAIR_SNR_DATA (n p : Nat) : Nat := pairBase n p + 0x134
def PAIR_SNR_DATA.STALE (n p : Nat) : Fld := ⟨PAIR_SNR_DATA n p, 31, 31⟩
def PAIR_SNR_DATA.MARGIN (n p : Nat) : Fld := ⟨PAIR_SNR_DATA n p, 23, 16⟩
def PAIR_SNR_DATA.ERLE (n p : Nat) : Fld := ⟨PAIR_SNR_DATA n p, 15, 8⟩
def PAIR_SNR_DATA.SNR (n p : Nat) : Fld := ⟨PAIR_SNR_DATA n p, 7, 0⟩
/-- PAIR_COEF_ADDR: R151 of 04_line_receiver.md. -/
def PAIR_COEF_ADDR (n p : Nat) : Nat := pairBase n p + 0x140
def PAIR_COEF_ADDR.SNAPSHOT (n p : Nat) : Fld := ⟨PAIR_COEF_ADDR n p, 31, 31⟩
def PAIR_COEF_ADDR.AUTO_INC (n p : Nat) : Fld := ⟨PAIR_COEF_ADDR n p, 24, 24⟩
def PAIR_COEF_ADDR.MEM (n p : Nat) : Fld := ⟨PAIR_COEF_ADDR n p, 19, 16⟩
def PAIR_COEF_ADDR.INDEX (n p : Nat) : Fld := ⟨PAIR_COEF_ADDR n p, 12, 0⟩
/-- PAIR_COEF_DATA: R151 of 04_line_receiver.md. -/
def PAIR_COEF_DATA (n p : Nat) : Nat := pairBase n p + 0x144
def PAIR_COEF_DATA.DATA (n p : Nat) : Fld := ⟨PAIR_COEF_DATA n p, 31, 0⟩
/-- PAIR_COEF_STATUS: R151 of 04_line_receiver.md. -/
def PAIR_COEF_STATUS (n p : Nat) : Nat := pairBase n p + 0x148
def PAIR_COEF_STATUS.WRITE_IGNORED (n p : Nat) : Fld := ⟨PAIR_COEF_STATUS n p, 3, 3⟩
def PAIR_COEF_STATUS.SNAP_VALID (n p : Nat) : Fld := ⟨PAIR_COEF_STATUS n p, 2, 2⟩
def PAIR_COEF_STATUS.SNAP_BUSY (n p : Nat) : Fld := ⟨PAIR_COEF_STATUS n p, 1, 1⟩
/-- PAIR_ADC_CLIP: R151 of 04_line_receiver.md. -/
def PAIR_ADC_CLIP (n p : Nat) : Nat := pairBase n p + 0x160
def PAIR_ADC_CLIP.COUNT (n p : Nat) : Fld := ⟨PAIR_ADC_CLIP n p, 31, 0⟩
/-- PAIR_ADC_SWAPS: R151 of 04_line_receiver.md. -/
def PAIR_ADC_SWAPS (n p : Nat) : Nat := pairBase n p + 0x164
def PAIR_ADC_SWAPS.COUNT (n p : Nat) : Fld := ⟨PAIR_ADC_SWAPS n p, 31, 0⟩
/-- PAIR_TR_SLIP: R151 of 04_line_receiver.md. -/
def PAIR_TR_SLIP (n p : Nat) : Nat := pairBase n p + 0x168
def PAIR_TR_SLIP.COUNT (n p : Nat) : Fld := ⟨PAIR_TR_SLIP n p, 31, 0⟩
/-- PAIR_ECHO_STORES: R151 of 04_line_receiver.md. -/
def PAIR_ECHO_STORES (n p : Nat) : Nat := pairBase n p + 0x16C
def PAIR_ECHO_STORES.COUNT (n p : Nat) : Fld := ⟨PAIR_ECHO_STORES n p, 31, 0⟩
/-- PAIR_ECHO_SAT: R151 of 04_line_receiver.md. -/
def PAIR_ECHO_SAT (n p : Nat) : Nat := pairBase n p + 0x170
def PAIR_ECHO_SAT.COUNT (n p : Nat) : Fld := ⟨PAIR_ECHO_SAT n p, 31, 0⟩
/-- PAIR_WM_CRC_BAD: R151 of 04_line_receiver.md. -/
def PAIR_WM_CRC_BAD (n p : Nat) : Nat := pairBase n p + 0x174
def PAIR_WM_CRC_BAD.COUNT (n p : Nat) : Fld := ⟨PAIR_WM_CRC_BAD n p, 31, 0⟩
/-- PAIR_VIT_SYMS: R151 of 04_line_receiver.md. -/
def PAIR_VIT_SYMS (n p : Nat) : Nat := pairBase n p + 0x178
/-- PAIR_GREET_DET: R196 of 05_link_startup.md. -/
def PAIR_GREET_DET (n p : Nat) : Nat := pairBase n p + 0x200
def PAIR_GREET_DET.COUNT (n p : Nat) : Fld := ⟨PAIR_GREET_DET n p, 31, 0⟩
/-- PAIR_GREET_CAPTURE: R196 of 05_link_startup.md. -/
def PAIR_GREET_CAPTURE (n p : Nat) : Nat := pairBase n p + 0x204
def PAIR_GREET_CAPTURE.COUNT (n p : Nat) : Fld := ⟨PAIR_GREET_CAPTURE n p, 31, 0⟩
/-- PAIR_GREET_IGNORED: R196 of 05_link_startup.md. -/
def PAIR_GREET_IGNORED (n p : Nat) : Nat := pairBase n p + 0x208
def PAIR_GREET_IGNORED.COUNT (n p : Nat) : Fld := ⟨PAIR_GREET_IGNORED n p, 31, 0⟩
/-- PAIR_GREET_HDR_BAD: R196 of 05_link_startup.md. -/
def PAIR_GREET_HDR_BAD (n p : Nat) : Nat := pairBase n p + 0x20C
def PAIR_GREET_HDR_BAD.COUNT (n p : Nat) : Fld := ⟨PAIR_GREET_HDR_BAD n p, 31, 0⟩
/-- PAIR_GREET_BODY_BAD: R196 of 05_link_startup.md. -/
def PAIR_GREET_BODY_BAD (n p : Nat) : Nat := pairBase n p + 0x210
def PAIR_GREET_BODY_BAD.COUNT (n p : Nat) : Fld := ⟨PAIR_GREET_BODY_BAD n p, 31, 0⟩
/-- PAIR_GREET_OWN: R196 of 05_link_startup.md. -/
def PAIR_GREET_OWN (n p : Nat) : Nat := pairBase n p + 0x214
def PAIR_GREET_OWN.COUNT (n p : Nat) : Fld := ⟨PAIR_GREET_OWN n p, 31, 0⟩
/-- PAIR_GREET_REJECT: R196 of 05_link_startup.md. -/
def PAIR_GREET_REJECT (n p : Nat) : Nat := pairBase n p + 0x218
def PAIR_GREET_REJECT.COUNT (n p : Nat) : Fld := ⟨PAIR_GREET_REJECT n p, 31, 0⟩
/-- PAIR_GREET_LEVEL: R196 of 05_link_startup.md. -/
def PAIR_GREET_LEVEL (n p : Nat) : Nat := pairBase n p + 0x21C
def PAIR_GREET_LEVEL.LEVEL (n p : Nat) : Fld := ⟨PAIR_GREET_LEVEL n p, 15, 0⟩
/-- PAIR_SUB_OWN_ID: R196 of 05_link_startup.md. -/
def PAIR_SUB_OWN_ID (n p : Nat) : Nat := pairBase n p + 0x220
def PAIR_SUB_OWN_ID.ID (n p : Nat) : Fld := ⟨PAIR_SUB_OWN_ID n p, 31, 0⟩
/-- PAIR_SUB_PEER_ID: R196 of 05_link_startup.md. -/
def PAIR_SUB_PEER_ID (n p : Nat) : Nat := pairBase n p + 0x224
def PAIR_SUB_PEER_ID.ID (n p : Nat) : Fld := ⟨PAIR_SUB_PEER_ID n p, 31, 0⟩
/-- PAIR_SUB_STARTUP: R196 of 05_link_startup.md. -/
def PAIR_SUB_STARTUP (n p : Nat) : Nat := pairBase n p + 0x228
def PAIR_SUB_STARTUP.PHASE (n p : Nat) : Fld := ⟨PAIR_SUB_STARTUP n p, 31, 28⟩
def PAIR_SUB_STARTUP.CONSEC_FAIL (n p : Nat) : Fld := ⟨PAIR_SUB_STARTUP n p, 15, 8⟩
def PAIR_SUB_STARTUP.LAST_CAUSE (n p : Nat) : Fld := ⟨PAIR_SUB_STARTUP n p, 7, 0⟩
/-- PAIR_SWAP_STATUS: R226 of 06_showtime_adaptation.md. -/
def PAIR_SWAP_STATUS (n p : Nat) : Nat := pairBase n p + 0x300
def PAIR_SWAP_STATUS.IN_PROGRESS (n p : Nat) : Fld := ⟨PAIR_SWAP_STATUS n p, 31, 31⟩
def PAIR_SWAP_STATUS.WEAK (n p : Nat) : Fld := ⟨PAIR_SWAP_STATUS n p, 24, 16⟩
def PAIR_SWAP_STATUS.TO_SEND (n p : Nat) : Fld := ⟨PAIR_SWAP_STATUS n p, 15, 8⟩
def PAIR_SWAP_STATUS.SENT (n p : Nat) : Fld := ⟨PAIR_SWAP_STATUS n p, 7, 0⟩
/-- PAIR_SUB_LINK_STATUS: R226 of 06_showtime_adaptation.md. -/
def PAIR_SUB_LINK_STATUS (n p : Nat) : Nat := pairBase n p + 0x304
def PAIR_SUB_LINK_STATUS.STATE (n p : Nat) : Fld := ⟨PAIR_SUB_LINK_STATUS n p, 31, 28⟩
def PAIR_SUB_LINK_STATUS.LAST_RETRAIN (n p : Nat) : Fld := ⟨PAIR_SUB_LINK_STATUS n p, 15, 8⟩
def PAIR_SUB_LINK_STATUS.LAST_DOWN (n p : Nat) : Fld := ⟨PAIR_SUB_LINK_STATUS n p, 7, 0⟩
/-- PAIR_WM_MISS: R226 of 06_showtime_adaptation.md. -/
def PAIR_WM_MISS (n p : Nat) : Nat := pairBase n p + 0x310
def PAIR_WM_MISS.COUNT (n p : Nat) : Fld := ⟨PAIR_WM_MISS n p, 31, 0⟩
/-- PAIR_SWAP_ENTRY_TX: R226 of 06_showtime_adaptation.md. -/
def PAIR_SWAP_ENTRY_TX (n p : Nat) : Nat := pairBase n p + 0x314
def PAIR_SWAP_ENTRY_TX.COUNT (n p : Nat) : Fld := ⟨PAIR_SWAP_ENTRY_TX n p, 31, 0⟩
/-- PAIR_SWAP_ENTRY_RX: R226 of 06_showtime_adaptation.md. -/
def PAIR_SWAP_ENTRY_RX (n p : Nat) : Nat := pairBase n p + 0x318
def PAIR_SWAP_ENTRY_RX.COUNT (n p : Nat) : Fld := ⟨PAIR_SWAP_ENTRY_RX n p, 31, 0⟩
/-- PAIR_SWAP_DECLINED: R226 of 06_showtime_adaptation.md. -/
def PAIR_SWAP_DECLINED (n p : Nat) : Nat := pairBase n p + 0x31C
def PAIR_SWAP_DECLINED.COUNT (n p : Nat) : Fld := ⟨PAIR_SWAP_DECLINED n p, 31, 0⟩
/-- PAIR_SUB_DOWNS: R226 of 06_showtime_adaptation.md. -/
def PAIR_SUB_DOWNS (n p : Nat) : Nat := pairBase n p + 0x320
def PAIR_SUB_DOWNS.COUNT (n p : Nat) : Fld := ⟨PAIR_SUB_DOWNS n p, 31, 0⟩
/-- PAIR_SUB_FAST_RETRAINS: R226 of 06_showtime_adaptation.md. -/
def PAIR_SUB_FAST_RETRAINS (n p : Nat) : Nat := pairBase n p + 0x324
def PAIR_SUB_FAST_RETRAINS.COUNT (n p : Nat) : Fld := ⟨PAIR_SUB_FAST_RETRAINS n p, 31, 0⟩
/-- DIAG_CTRL: R334 of 10_cable_diagnostics.md. -/
def DIAG_CTRL (n p : Nat) : Nat := pairBase n p + 0x400
def DIAG_CTRL.START (n p : Nat) : Fld := ⟨DIAG_CTRL n p, 31, 31⟩
def DIAG_CTRL.ABORT (n p : Nat) : Fld := ⟨DIAG_CTRL n p, 30, 30⟩
def DIAG_CTRL.KIND (n p : Nat) : Fld := ⟨DIAG_CTRL n p, 24, 24⟩
def DIAG_CTRL.LEVEL (n p : Nat) : Fld := ⟨DIAG_CTRL n p, 17, 16⟩
def DIAG_CTRL.CROSS (n p : Nat) : Fld := ⟨DIAG_CTRL n p, 8, 8⟩
def DIAG_CTRL.AVG (n p : Nat) : Fld := ⟨DIAG_CTRL n p, 3, 0⟩
/-- DIAG_STATUS: R334 of 10_cable_diagnostics.md. -/
def DIAG_STATUS (n p : Nat) : Nat := pairBase n p + 0x404
def DIAG_STATUS.RESULT (n p : Nat) : Fld := ⟨DIAG_STATUS n p, 31, 28⟩
def DIAG_STATUS.KIND (n p : Nat) : Fld := ⟨DIAG_STATUS n p, 24, 24⟩
def DIAG_STATUS.REASON (n p : Nat) : Fld := ⟨DIAG_STATUS n p, 23, 16⟩
def DIAG_STATUS.BUSY (n p : Nat) : Fld := ⟨DIAG_STATUS n p, 6, 6⟩
def DIAG_STATUS.OVERFLOW (n p : Nat) : Fld := ⟨DIAG_STATUS n p, 5, 5⟩
def DIAG_STATUS.EVENTS (n p : Nat) : Fld := ⟨DIAG_STATUS n p, 4, 0⟩
/-- DIAG_INFO: R334 of 10_cable_diagnostics.md. -/
def DIAG_INFO (n p : Nat) : Nat := pairBase n p + 0x408
def DIAG_INFO.NOISE (n p : Nat) : Fld := ⟨DIAG_INFO n p, 31, 24⟩
def DIAG_INFO.REJECTED (n p : Nat) : Fld := ⟨DIAG_INFO n p, 15, 0⟩
/-- DIAG_TIME: R334 of 10_cable_diagnostics.md. -/
def DIAG_TIME (n p : Nat) : Nat := pairBase n p + 0x40C
def DIAG_TIME.TIME (n p : Nat) : Fld := ⟨DIAG_TIME n p, 31, 0⟩
/-- DIAG_MAP_ADDR: R334 of 10_cable_diagnostics.md. -/
def DIAG_MAP_ADDR (n p : Nat) : Nat := pairBase n p + 0x410
def DIAG_MAP_ADDR.MAP (n p : Nat) : Fld := ⟨DIAG_MAP_ADDR n p, 19, 16⟩
def DIAG_MAP_ADDR.AUTO_INC (n p : Nat) : Fld := ⟨DIAG_MAP_ADDR n p, 9, 9⟩
def DIAG_MAP_ADDR.INDEX (n p : Nat) : Fld := ⟨DIAG_MAP_ADDR n p, 8, 0⟩
/-- DIAG_MAP_DATA: R334 of 10_cable_diagnostics.md. -/
def DIAG_MAP_DATA (n p : Nat) : Nat := pairBase n p + 0x414
def DIAG_MAP_DATA.VALUE (n p : Nat) : Fld := ⟨DIAG_MAP_DATA n p, 15, 0⟩
/-- DIAG_MAP_STATUS: R334 of 10_cable_diagnostics.md. -/
def DIAG_MAP_STATUS (n p : Nat) : Nat := pairBase n p + 0x418
def DIAG_MAP_STATUS.STALE (n p : Nat) : Fld := ⟨DIAG_MAP_STATUS n p, 31, 31⟩
def DIAG_MAP_STATUS.CHECKED (n p : Nat) : Fld := ⟨DIAG_MAP_STATUS n p, 30, 30⟩
def DIAG_MAP_STATUS.XNEXT_FAIL (n p : Nat) : Fld := ⟨DIAG_MAP_STATUS n p, 28, 28⟩
def DIAG_MAP_STATUS.FEXT_FAIL (n p : Nat) : Fld := ⟨DIAG_MAP_STATUS n p, 27, 27⟩
def DIAG_MAP_STATUS.NEXT_FAIL (n p : Nat) : Fld := ⟨DIAG_MAP_STATUS n p, 26, 26⟩
def DIAG_MAP_STATUS.RL_FAIL (n p : Nat) : Fld := ⟨DIAG_MAP_STATUS n p, 25, 25⟩
def DIAG_MAP_STATUS.IL_FAIL (n p : Nat) : Fld := ⟨DIAG_MAP_STATUS n p, 24, 24⟩
def DIAG_MAP_STATUS.WORST_MAP (n p : Nat) : Fld := ⟨DIAG_MAP_STATUS n p, 19, 16⟩
def DIAG_MAP_STATUS.WORST_K (n p : Nat) : Fld := ⟨DIAG_MAP_STATUS n p, 8, 0⟩
/-- DIAG_MAP_STAGE: R334 of 10_cable_diagnostics.md. -/
def DIAG_MAP_STAGE (n p : Nat) : Nat := pairBase n p + 0x41C
def DIAG_MAP_STAGE.STAGE (n p : Nat) : Fld := ⟨DIAG_MAP_STAGE n p, 31, 0⟩
/-- DIAG_EVENT: R334 of 10_cable_diagnostics.md. -/
def DIAG_EVENT (n p j : Nat) : Nat := pairBase n p + 0x440 + 4 * j
def DIAG_EVENT.CLASS (n p j : Nat) : Fld := ⟨DIAG_EVENT n p j, 31, 28⟩
def DIAG_EVENT.PAIR (n p j : Nat) : Fld := ⟨DIAG_EVENT n p j, 25, 24⟩
def DIAG_EVENT.RHO (n p j : Nat) : Fld := ⟨DIAG_EVENT n p j, 23, 16⟩
def DIAG_EVENT.DIST (n p j : Nat) : Fld := ⟨DIAG_EVENT n p j, 15, 0⟩
/-- DIAG_TRACE_ADDR: R334 of 10_cable_diagnostics.md. -/
def DIAG_TRACE_ADDR (n p : Nat) : Nat := pairBase n p + 0x480
def DIAG_TRACE_ADDR.AUTO_INC (n p : Nat) : Fld := ⟨DIAG_TRACE_ADDR n p, 16, 16⟩
def DIAG_TRACE_ADDR.SRC (n p : Nat) : Fld := ⟨DIAG_TRACE_ADDR n p, 15, 14⟩
def DIAG_TRACE_ADDR.INDEX (n p : Nat) : Fld := ⟨DIAG_TRACE_ADDR n p, 13, 0⟩
/-- DIAG_TRACE_DATA: R334 of 10_cable_diagnostics.md. -/
def DIAG_TRACE_DATA (n p : Nat) : Nat := pairBase n p + 0x484
def DIAG_TRACE_DATA.TAP (n p : Nat) : Fld := ⟨DIAG_TRACE_DATA n p, 15, 0⟩
/-- DIAG_HIST_ADDR: R334 of 10_cable_diagnostics.md. -/
def DIAG_HIST_ADDR (n p : Nat) : Nat := pairBase n p + 0x490
def DIAG_HIST_ADDR.AUTO_INC (n p : Nat) : Fld := ⟨DIAG_HIST_ADDR n p, 16, 16⟩
def DIAG_HIST_ADDR.INDEX (n p : Nat) : Fld := ⟨DIAG_HIST_ADDR n p, 11, 0⟩
/-- DIAG_HIST_DATA: R334 of 10_cable_diagnostics.md. -/
def DIAG_HIST_DATA (n p : Nat) : Nat := pairBase n p + 0x494
def DIAG_HIST_DATA.DATA (n p : Nat) : Fld := ⟨DIAG_HIST_DATA n p, 31, 0⟩
/-- DIAG_HIST_SEQ: R334 of 10_cable_diagnostics.md. -/
def DIAG_HIST_SEQ (n p : Nat) : Nat := pairBase n p + 0x498
def DIAG_HIST_SEQ.SEQ (n p : Nat) : Fld := ⟨DIAG_HIST_SEQ n p, 31, 0⟩
/-- DIAG_RUNS: R334 of 10_cable_diagnostics.md. -/
def DIAG_RUNS (n p : Nat) : Nat := pairBase n p + 0x4A0
def DIAG_RUNS.COUNT (n p : Nat) : Fld := ⟨DIAG_RUNS n p, 31, 0⟩
/-- DIAG_ABORTS: R334 of 10_cable_diagnostics.md. -/
def DIAG_ABORTS (n p : Nat) : Nat := pairBase n p + 0x4A4
def DIAG_ABORTS.COUNT (n p : Nat) : Fld := ⟨DIAG_ABORTS n p, 31, 0⟩
/-- SLICE_STATUS: R546 of 18_selftest_faults.md. -/
def SLICE_STATUS (t s : Nat) : Nat := sliceBase t s + 0x0
def SLICE_STATUS.STATE (t s : Nat) : Fld := ⟨SLICE_STATUS t s, 31, 30⟩
def SLICE_STATUS.FAULT_CODE (t s : Nat) : Fld := ⟨SLICE_STATUS t s, 27, 24⟩
def SLICE_STATUS.FRONT_END (t s : Nat) : Fld := ⟨SLICE_STATUS t s, 22, 16⟩
/-- SLICE_ECC_CORR: R546 of 18_selftest_faults.md. -/
def SLICE_ECC_CORR (t s : Nat) : Nat := sliceBase t s + 0x4
def SLICE_ECC_CORR.COUNT (t s : Nat) : Fld := ⟨SLICE_ECC_CORR t s, 31, 0⟩
/-- SLICE_ECC_UNCORR: R546 of 18_selftest_faults.md. -/
def SLICE_ECC_UNCORR (t s : Nat) : Nat := sliceBase t s + 0x8
def SLICE_ECC_UNCORR.COUNT (t s : Nat) : Fld := ⟨SLICE_ECC_UNCORR t s, 31, 0⟩
/-- SLICE_FAULTS: R546 of 18_selftest_faults.md. -/
def SLICE_FAULTS (t s : Nat) : Nat := sliceBase t s + 0xC
def SLICE_FAULTS.COUNT (t s : Nat) : Fld := ⟨SLICE_FAULTS t s, 31, 0⟩
/-- SLICE_SPARE_ROWS: R546 of 18_selftest_faults.md. -/
def SLICE_SPARE_ROWS (t s : Nat) : Nat := sliceBase t s + 0x10
def SLICE_SPARE_ROWS.USED (t s : Nat) : Fld := ⟨SLICE_SPARE_ROWS t s, 15, 8⟩
def SLICE_SPARE_ROWS.LEFT (t s : Nat) : Fld := ⟨SLICE_SPARE_ROWS t s, 7, 0⟩

/-- Rows of the hub block's register tables, part 1. -/
def hubDefs1 : List RegDef := [
  ⟨0x0, 0, 1, .whole, [⟨31, 16, .ro, false, 0x5120⟩, ⟨7, 0, .ro, false, 0xA1⟩]⟩,
  ⟨0x4, 0, 1, .whole, [⟨31, 0, .ro, false, 0x0⟩]⟩,
  ⟨0x8, 0, 1, .whole, [⟨31, 0, .ro, false, 0x0⟩]⟩,
  ⟨0xC, 0, 1, .whole, [⟨31, 0, .ro, false, 0x0⟩]⟩,
  ⟨0x10, 0, 1, .whole, [⟨31, 0, .rw, false, 0x0⟩]⟩,
  ⟨0x14, 0, 1, .whole, [⟨31, 31, .w1c, false, 0x0⟩, ⟨30, 30, .w1c, false, 0x0⟩]⟩,
  ⟨0x18, 0, 1, .whole, [⟨31, 0, .ro, false, 0x0⟩]⟩,
  ⟨0x1C, 0, 1, .whole, [⟨31, 0, .rw, false, 0x0⟩]⟩,
  ⟨0x20, 0, 1, .whole, [⟨31, 0, .ro, false, 0x0⟩]⟩,
  ⟨0x100, 0, 1, .whole, [⟨8, 8, .rw, true, 0x0⟩, ⟨5, 4, .rw, true, 0x0⟩, ⟨1, 0, .rw, true, 0x0⟩]⟩,
  ⟨0x104, 0, 1, .whole, [⟨31, 31, .ro, false, 0x0⟩, ⟨30, 30, .ro, false, 0x0⟩, ⟨29, 29, .ro, false, 0x1⟩, ⟨28, 28, .ro, false, 0x0⟩, ⟨27, 27, .ro, false, 0x0⟩, ⟨26, 26, .ro, false, 0x0⟩, ⟨8, 8, .ro, false, 0x0⟩, ⟨5, 4, .ro, false, 0x0⟩, ⟨1, 0, .ro, false, 0x0⟩]⟩,
  ⟨0x108, 0, 1, .whole, [⟨8, 8, .ro, false, 0x0⟩, ⟨4, 4, .w1c, false, 0x0⟩, ⟨3, 3, .w1c, false, 0x0⟩, ⟨2, 2, .w1c, false, 0x0⟩, ⟨1, 1, .w1c, false, 0x0⟩, ⟨0, 0, .w1c, false, 0x0⟩]⟩,
  ⟨0x110, 0, 1, .whole, [⟨31, 0, .rw, false, 0x0⟩]⟩,
  ⟨0x114, 0, 1, .whole, [⟨31, 0, .rw, false, 0x0⟩]⟩,
  ⟨0x118, 0, 1, .whole, [⟨31, 0, .rw, false, 0x0⟩]⟩,
  ⟨0x11C, 0, 1, .whole, [⟨31, 0, .ro, false, 0x0⟩]⟩,
  ⟨0x120, 0, 1, .whole, [⟨15, 8, .w1c, false, 0x0⟩, ⟨7, 0, .w1c, false, 0x0⟩]⟩,
  ⟨0x124, 0, 1, .whole, [⟨16, 0, .w1c, false, 0x0⟩]⟩,
  ⟨0x140, 4, 17, .whole, [⟨31, 31, .ro, false, 0x0⟩, ⟨30, 30, .ro, false, 0x0⟩, ⟨29, 29, .w1c, false, 0x0⟩, ⟨15, 0, .rw, false, 0x0⟩]⟩,
  ⟨0x200, 0, 1, .whole, [⟨15, 12, .ro, false, 0x0⟩, ⟨9, 9, .ro, false, 0x0⟩, ⟨8, 8, .ro, false, 0x0⟩, ⟨4, 4, .ro, false, 0x0⟩, ⟨1, 0, .ro, false, 0x0⟩]⟩,
  ⟨0x204, 0, 1, .whole, [⟨1, 0, .rw, false, 0x0⟩]⟩,
  ⟨0x208, 0, 1, .whole, [⟨21, 16, .ro, false, 0x0⟩, ⟨7, 0, .ro, false, 0x1⟩]⟩,
  ⟨0x20C, 0, 1, .whole, [⟨31, 0, .ro, false, 0x0⟩]⟩,
  ⟨0x210, 0, 1, .whole, [⟨31, 0, .rw, false, 0x0⟩]⟩,
  ⟨0x214, 0, 1, .whole, [⟨7, 0, .ro, false, 0x0⟩]⟩,
  ⟨0x220, 0, 1, .whole, [⟨6, 0, .ro, false, 0x7F⟩]⟩,
  ⟨0x230, 0, 1, .whole, [⟨31, 31, .rw, true, 0x1⟩, ⟨27, 16, .rw, true, 0x320⟩, ⟨11, 0, .rw, true, 0x2BC⟩]⟩,
  ⟨0x234, 0, 1, .whole, [⟨31, 31, .ro, false, 0x0⟩, ⟨30, 30, .ro, false, 0x0⟩, ⟨27, 16, .ro, false, 0x320⟩, ⟨11, 0, .ro, false, 0x0⟩]⟩,
  ⟨0x238, 0, 1, .whole, [⟨15, 0, .ro, false, 0x0⟩]⟩,
  ⟨0x23C, 0, 1, .whole, [⟨31, 0, .rw, false, 0x0⟩]⟩]

/-- Rows of the hub block's register tables, part 2. -/
def hubDefs2 : List RegDef := [
  ⟨0x240, 0, 1, .whole, [⟨31, 31, .rw, true, 0x0⟩, ⟨30, 30, .rw, true, 0x1⟩, ⟨29, 29, .rw, true, 0x1⟩, ⟨15, 0, .rw, true, 0x3E8⟩]⟩,
  ⟨0x250, 0, 1, .whole, [⟨16, 16, .rw, false, 0x1⟩, ⟨11, 0, .rwh, false, 0x0⟩]⟩,
  ⟨0x254, 0, 1, .whole, [⟨31, 16, .ro, false, 0x0⟩, ⟨4, 4, .ro, false, 0x0⟩, ⟨2, 0, .ro, false, 0x0⟩]⟩,
  ⟨0x258, 0, 1, .whole, [⟨17, 16, .wo, false, 0x0⟩, ⟨11, 0, .wo, false, 0x0⟩]⟩,
  ⟨0x25C, 0, 1, .whole, [⟨0, 0, .w1c, false, 0x0⟩]⟩,
  ⟨0x260, 0, 1, .whole, [⟨19, 0, .rc, false, 0x0⟩]⟩,
  ⟨0x264, 0, 1, .whole, [⟨31, 0, .rw, false, 0x0⟩]⟩,
  ⟨0x268, 0, 1, .whole, [⟨31, 0, .rw, false, 0x0⟩]⟩,
  ⟨0x26C, 0, 1, .whole, [⟨11, 0, .ro, false, 0x0⟩]⟩,
  ⟨0x300, 0, 1, .whole, [⟨16, 16, .w1c, false, 0x0⟩, ⟨15, 15, .w1c, false, 0x0⟩, ⟨14, 14, .w1c, false, 0x0⟩, ⟨13, 13, .w1c, false, 0x0⟩, ⟨12, 12, .w1c, false, 0x0⟩, ⟨11, 11, .w1c, false, 0x0⟩, ⟨10, 10, .w1c, false, 0x0⟩, ⟨9, 9, .w1c, false, 0x0⟩, ⟨8, 8, .w1c, false, 0x0⟩, ⟨7, 7, .w1c, false, 0x0⟩, ⟨6, 6, .w1c, false, 0x0⟩, ⟨5, 5, .w1c, false, 0x0⟩, ⟨4, 4, .ro, false, 0x0⟩, ⟨3, 3, .ro, false, 0x0⟩, ⟨2, 2, .ro, false, 0x0⟩, ⟨1, 1, .w1c, false, 0x0⟩, ⟨0, 0, .ro, false, 0x0⟩]⟩,
  ⟨0x304, 0, 1, .whole, [⟨16, 0, .rw, true, 0x1FFFF⟩]⟩,
  ⟨0x308, 0, 1, .whole, [⟨16, 0, .ro, false, 0x0⟩]⟩,
  ⟨0x310, 4, 4, .whole, [⟨31, 0, .w1c, false, 0x0⟩]⟩,
  ⟨0x320, 4, 5, .whole, [⟨31, 0, .w1c, false, 0x0⟩]⟩,
  ⟨0x400, 0, 1, .whole, [⟨31, 31, .rwl, false, 0x1⟩, ⟨1, 0, .rwl, false, 0x0⟩]⟩,
  ⟨0x404, 0, 1, .whole, [⟨31, 0, .ro, false, 0x0⟩]⟩,
  ⟨0x408, 0, 1, .whole, [⟨31, 0, .ro, false, 0x0⟩]⟩,
  ⟨0x40C, 0, 1, .whole, [⟨31, 31, .ro, false, 0x0⟩, ⟨30, 30, .w1c, false, 0x0⟩, ⟨29, 29, .ro, false, 0x0⟩, ⟨28, 28, .ro, false, 0x0⟩, ⟨24, 16, .ro, false, 0x0⟩, ⟨8, 0, .ro, false, 0x0⟩]⟩,
  ⟨0x410, 0, 1, .whole, [⟨0, 0, .wo, false, 0x0⟩]⟩,
  ⟨0x414, 0, 1, .whole, [⟨31, 0, .rw, false, 0x0⟩]⟩,
  ⟨0x418, 0, 1, .whole, [⟨31, 0, .rw, false, 0x0⟩]⟩,
  ⟨0x41C, 0, 1, .whole, [⟨31, 0, .rw, false, 0x0⟩]⟩,
  ⟨0x420, 0, 1, .whole, [⟨31, 0, .rw, false, 0x0⟩]⟩,
  ⟨0x430, 4, 9, .whole, [⟨31, 0, .ro, false, 0x0⟩]⟩,
  ⟨0x500, 0, 1, .whole, [⟨0, 0, .rw, false, 0x0⟩]⟩,
  ⟨0x504, 0, 1, .whole, [⟨15, 0, .wo, false, 0x0⟩]⟩,
  ⟨0x508, 0, 1, .whole, [⟨31, 31, .ro, false, 0x0⟩, ⟨30, 30, .ro, false, 0x0⟩, ⟨29, 28, .ro, false, 0x0⟩, ⟨27, 27, .w1c, false, 0x0⟩, ⟨26, 26, .w1c, false, 0x0⟩, ⟨10, 0, .ro, false, 0x0⟩]⟩,
  ⟨0x50C, 0, 1, .whole, [⟨31, 0, .ro, false, 0x0⟩]⟩,
  ⟨0x510, 0, 1, .whole, [⟨31, 0, .rw, false, 0x0⟩]⟩,
  ⟨0x514, 0, 1, .whole, [⟨31, 0, .rw, false, 0x0⟩]⟩]

/-- The hub block's register tables. -/
def hubDefs : List RegDef := hubDefs1 ++ hubDefs2

/-- Rows of the lane block's register tables, part 1. -/
def laneDefs1 : List RegDef := [
  ⟨0x0, 0, 1, .whole, [⟨31, 31, .rw, true, 0x0⟩, ⟨30, 30, .rw, true, 0x0⟩, ⟨29, 29, .rw, true, 0x0⟩, ⟨28, 28, .rw, true, 0x0⟩, ⟨27, 27, .rw, true, 0x0⟩, ⟨26, 26, .rw, true, 0x0⟩]⟩,
  ⟨0x4, 0, 1, .whole, [⟨19, 16, .rw, true, 0xA⟩, ⟨12, 8, .rw, true, 0x4⟩, ⟨5, 0, .rw, true, 0xC⟩]⟩,
  ⟨0x8, 0, 1, .whole, [⟨31, 28, .ro, false, 0x0⟩, ⟨20, 16, .ro, false, 0x0⟩, ⟨14, 8, .ro, false, 0x0⟩, ⟨4, 4, .ro, false, 0x0⟩, ⟨3, 3, .ro, false, 0x0⟩, ⟨2, 2, .ro, false, 0x0⟩, ⟨1, 1, .ro, false, 0x0⟩, ⟨0, 0, .ro, false, 0x0⟩]⟩,
  ⟨0xC, 0, 1, .whole, [⟨31, 31, .rw, true, 0x0⟩, ⟨30, 30, .rw, true, 0x0⟩, ⟨20, 16, .rw, true, 0xA⟩]⟩,
  ⟨0x10, 0, 1, .whole, [⟨31, 31, .rw, true, 0x1⟩, ⟨8, 0, .rw, true, 0x10⟩]⟩,
  ⟨0x14, 0, 1, .whole, [⟨14, 8, .ro, false, 0x0⟩, ⟨6, 6, .w1c, false, 0x0⟩, ⟨5, 5, .w1c, false, 0x0⟩, ⟨4, 4, .w1c, false, 0x0⟩, ⟨3, 3, .w1c, false, 0x0⟩, ⟨2, 2, .w1c, false, 0x0⟩, ⟨1, 1, .w1c, false, 0x0⟩, ⟨0, 0, .w1c, false, 0x0⟩]⟩,
  ⟨0x40, 0, 1, .whole, [⟨31, 31, .wo, false, 0x0⟩, ⟨25, 24, .rw, false, 0x1⟩, ⟨21, 16, .rw, false, 0x0⟩, ⟨14, 8, .rw, false, 0x0⟩, ⟨5, 0, .rw, false, 0x14⟩]⟩,
  ⟨0x44, 0, 1, .whole, [⟨3, 3, .w1c, false, 0x0⟩, ⟨2, 2, .ro, false, 0x0⟩, ⟨1, 1, .ro, false, 0x0⟩, ⟨0, 0, .ro, false, 0x0⟩]⟩,
  ⟨0x48, 0, 1, .low, [⟨31, 0, .ro, false, 0x0⟩]⟩,
  ⟨0x4C, 0, 1, .high, [⟨31, 0, .ro, false, 0x0⟩]⟩,
  ⟨0x50, 0, 1, .low, [⟨31, 0, .ro, false, 0x0⟩]⟩,
  ⟨0x54, 0, 1, .high, [⟨31, 0, .ro, false, 0x0⟩]⟩,
  ⟨0x80, 0, 1, .whole, [⟨31, 31, .rw, false, 0x0⟩, ⟨30, 30, .rw, false, 0x0⟩, ⟨27, 26, .rw, false, 0x2⟩, ⟨25, 24, .rw, false, 0x2⟩, ⟨17, 17, .wo, false, 0x0⟩, ⟨16, 16, .wo, false, 0x0⟩, ⟨15, 8, .rw, false, 0x10⟩, ⟨7, 0, .rw, false, 0xA0⟩]⟩,
  ⟨0x84, 0, 1, .whole, [⟨31, 16, .rw, false, 0x0⟩, ⟨1, 1, .w1c, false, 0x0⟩, ⟨0, 0, .ro, false, 0x0⟩]⟩,
  ⟨0x88, 0, 1, .low, [⟨31, 0, .rw, false, 0x0⟩]⟩,
  ⟨0x8C, 0, 1, .high, [⟨31, 0, .rw, false, 0x0⟩]⟩,
  ⟨0x90, 0, 1, .low, [⟨31, 0, .rw, false, 0x0⟩]⟩,
  ⟨0x94, 0, 1, .high, [⟨31, 0, .rw, false, 0x0⟩]⟩,
  ⟨0xA0, 4, 5, .whole, [⟨31, 0, .rw, false, 0x0⟩]⟩,
  ⟨0x100, 0, 1, .low, [⟨31, 0, .rw, false, 0x0⟩]⟩,
  ⟨0x104, 0, 1, .high, [⟨31, 0, .rw, false, 0x0⟩]⟩,
  ⟨0x108, 0, 1, .low, [⟨31, 0, .rw, false, 0x0⟩]⟩,
  ⟨0x10C, 0, 1, .high, [⟨31, 0, .rw, false, 0x0⟩]⟩,
  ⟨0x110, 0, 1, .whole, [⟨31, 0, .rw, false, 0x0⟩]⟩,
  ⟨0x114, 0, 1, .whole, [⟨31, 0, .rw, false, 0x0⟩]⟩,
  ⟨0x118, 0, 1, .whole, [⟨31, 0, .rw, false, 0x0⟩]⟩,
  ⟨0x11C, 0, 1, .whole, [⟨31, 0, .rw, false, 0x0⟩]⟩,
  ⟨0x200, 0, 1, .whole, [⟨31, 30, .rw, true, 0x0⟩, ⟨29, 29, .rw, true, 0x0⟩, ⟨20, 20, .rw, true, 0x0⟩, ⟨19, 16, .rw, true, 0x0⟩, ⟨9, 0, .rw, true, 0xFA⟩]⟩,
  ⟨0x204, 0, 1, .whole, [⟨31, 28, .ro, false, 0x0⟩, ⟨19, 16, .ro, false, 0x0⟩, ⟨10, 10, .w1c, false, 0x0⟩, ⟨9, 9, .ro, false, 0x0⟩, ⟨8, 8, .ro, false, 0x0⟩]⟩,
  ⟨0x208, 0, 1, .whole, [⟨31, 0, .rw, false, 0x0⟩]⟩]

/-- Rows of the lane block's register tables, part 2. -/
def laneDefs2 : List RegDef := [
  ⟨0x20C, 0, 1, .whole, [⟨31, 0, .rw, false, 0x0⟩]⟩,
  ⟨0x210, 0, 1, .whole, [⟨19, 16, .wo, false, 0x0⟩, ⟨2, 2, .wo, false, 0x0⟩, ⟨1, 1, .wo, false, 0x0⟩, ⟨0, 0, .wo, false, 0x0⟩]⟩]

/-- The lane block's register tables. -/
def laneDefs : List RegDef := laneDefs1 ++ laneDefs2

/-- Rows of the hostel block's register tables, part 1. -/
def hostelDefs1 : List RegDef := [
  ⟨0x0, 0, 1, .whole, [⟨31, 31, .rw, true, 0x1⟩, ⟨15, 0, .rw, true, 0x3E8⟩]⟩,
  ⟨0x4, 0, 1, .whole, [⟨31, 24, .ro, false, 0x40⟩, ⟨23, 22, .ro, false, 0x2⟩, ⟨17, 0, .ro, false, 0x2D000⟩]⟩,
  ⟨0x10, 4, 5, .whole, [⟨31, 0, .ro, false, 0x0⟩]⟩,
  ⟨0x30, 0, 1, .low, [⟨31, 0, .rw, false, 0x0⟩]⟩,
  ⟨0x34, 0, 1, .high, [⟨31, 0, .rw, false, 0x0⟩]⟩,
  ⟨0x38, 0, 1, .whole, [⟨31, 0, .rw, false, 0x0⟩]⟩,
  ⟨0x3C, 0, 1, .whole, [⟨31, 0, .rw, false, 0x0⟩]⟩,
  ⟨0x40, 0, 1, .whole, [⟨31, 31, .ro, false, 0x0⟩, ⟨30, 24, .ro, false, 0x0⟩, ⟨23, 0, .ro, false, 0x0⟩]⟩,
  ⟨0x44, 0, 1, .whole, [⟨17, 0, .rc, false, 0x2D000⟩]⟩,
  ⟨0x100, 0, 1, .whole, [⟨31, 0, .rw, true, 0x0⟩]⟩,
  ⟨0x104, 0, 1, .whole, [⟨15, 0, .rw, true, 0x0⟩]⟩]

/-- The hostel block's register tables. -/
def hostelDefs : List RegDef := hostelDefs1

/-- Rows of the ttPort block's register tables, part 1. -/
def ttPortDefs1 : List RegDef := [
  ⟨0x0, 0, 1, .whole, [⟨31, 30, .rw, true, 0x0⟩, ⟨24, 24, .rw, true, 0x0⟩, ⟨23, 16, .rw, true, 0xFF⟩, ⟨13, 0, .rw, true, 0x3E80⟩]⟩,
  ⟨0x4, 0, 1, .whole, [⟨31, 16, .rw, true, 0x400⟩, ⟨15, 8, .rw, true, 0x50⟩, ⟨7, 0, .rw, true, 0x28⟩]⟩,
  ⟨0x8, 0, 1, .whole, [⟨31, 16, .rw, true, 0x400⟩, ⟨15, 0, .rw, true, 0x300⟩]⟩,
  ⟨0xC, 0, 1, .whole, [⟨31, 16, .rw, true, 0x800⟩, ⟨15, 0, .rw, true, 0x800⟩]⟩,
  ⟨0x10, 0, 1, .whole, [⟨31, 0, .ro, false, 0x9C4⟩]⟩,
  ⟨0x14, 0, 1, .whole, [⟨31, 0, .ro, false, 0x160⟩]⟩,
  ⟨0x18, 0, 1, .whole, [⟨31, 31, .ro, false, 0x0⟩, ⟨30, 30, .ro, false, 0x0⟩, ⟨29, 29, .ro, false, 0x0⟩]⟩,
  ⟨0x1C, 0, 1, .whole, [⟨31, 16, .ro, false, 0x0⟩, ⟨15, 0, .ro, false, 0x0⟩]⟩,
  ⟨0x20, 0, 1, .whole, [⟨23, 0, .rc, false, 0x0⟩]⟩,
  ⟨0x24, 0, 1, .whole, [⟨15, 0, .rw, true, 0xE4E4⟩]⟩,
  ⟨0x40, 0, 1, .low, [⟨31, 0, .rw, false, 0x0⟩]⟩,
  ⟨0x44, 0, 1, .high, [⟨31, 0, .rw, false, 0x0⟩]⟩,
  ⟨0x48, 0, 1, .whole, [⟨31, 0, .rw, false, 0x0⟩]⟩,
  ⟨0x4C, 0, 1, .whole, [⟨31, 0, .rw, false, 0x0⟩]⟩,
  ⟨0x50, 0, 1, .whole, [⟨31, 0, .rw, false, 0x0⟩]⟩,
  ⟨0x54, 0, 1, .whole, [⟨31, 0, .rw, false, 0x0⟩]⟩,
  ⟨0x58, 0, 1, .whole, [⟨31, 0, .rw, false, 0x0⟩]⟩,
  ⟨0x5C, 0, 1, .whole, [⟨31, 0, .rw, false, 0x0⟩]⟩,
  ⟨0x60, 0, 1, .whole, [⟨31, 0, .rw, false, 0x0⟩]⟩,
  ⟨0x64, 0, 1, .whole, [⟨31, 0, .rw, false, 0x0⟩]⟩,
  ⟨0x68, 0, 1, .whole, [⟨31, 0, .rw, false, 0x0⟩]⟩,
  ⟨0x6C, 0, 1, .whole, [⟨31, 0, .rw, false, 0x0⟩]⟩,
  ⟨0x70, 0, 1, .whole, [⟨31, 0, .rw, false, 0x0⟩]⟩,
  ⟨0x74, 0, 1, .whole, [⟨31, 0, .rw, false, 0x0⟩]⟩,
  ⟨0x78, 0, 1, .low, [⟨31, 0, .rw, false, 0x0⟩]⟩,
  ⟨0x7C, 0, 1, .high, [⟨31, 0, .rw, false, 0x0⟩]⟩,
  ⟨0x80, 0, 1, .whole, [⟨31, 0, .rw, false, 0x0⟩]⟩,
  ⟨0x84, 0, 1, .whole, [⟨31, 0, .rw, false, 0x0⟩]⟩,
  ⟨0x88, 0, 1, .whole, [⟨31, 0, .rw, false, 0x0⟩]⟩]

/-- The ttPort block's register tables. -/
def ttPortDefs : List RegDef := ttPortDefs1

/-- Rows of the cal block's register tables, part 1. -/
def calDefs1 : List RegDef := [
  ⟨0x0, 0, 1, .whole, [⟨31, 31, .rw, true, 0x1⟩, ⟨30, 30, .rw, true, 0x0⟩, ⟨29, 29, .rw, true, 0x0⟩, ⟨23, 16, .rw, true, 0x18⟩, ⟨7, 0, .rw, true, 0x32⟩]⟩,
  ⟨0x4, 0, 1, .whole, [⟨31, 31, .ro, false, 0x0⟩, ⟨30, 30, .ro, false, 0x0⟩, ⟨29, 29, .ro, false, 0x0⟩, ⟨28, 28, .ro, false, 0x0⟩, ⟨15, 0, .ro, false, 0x0⟩]⟩,
  ⟨0x10, 0, 1, .whole, [⟨31, 24, .rw, false, 0x0⟩, ⟨20, 20, .rw, false, 0x1⟩, ⟨18, 0, .rwh, false, 0x0⟩]⟩,
  ⟨0x14, 0, 1, .whole, [⟨31, 0, .ro, false, 0x0⟩]⟩,
  ⟨0x20, 0, 1, .whole, [⟨31, 0, .rw, false, 0x0⟩]⟩,
  ⟨0x24, 0, 1, .whole, [⟨31, 0, .rw, false, 0x0⟩]⟩,
  ⟨0x28, 0, 1, .whole, [⟨31, 0, .rw, false, 0x0⟩]⟩,
  ⟨0x2C, 0, 1, .whole, [⟨31, 0, .rw, false, 0x0⟩]⟩,
  ⟨0x40, 4, 4, .whole, [⟨31, 31, .ro, false, 0x0⟩, ⟨15, 0, .ro, false, 0x0⟩]⟩]

/-- The cal block's register tables. -/
def calDefs : List RegDef := calDefs1

/-- Rows of the nv block's register tables, part 1. -/
def nvDefs1 : List RegDef := [
  ⟨0x0, 0, 1, .whole, [⟨31, 0, .ro, false, 0x0⟩]⟩,
  ⟨0x4, 0, 1, .whole, [⟨31, 31, .w1c, false, 0x0⟩, ⟨30, 30, .ro, false, 0x0⟩, ⟨29, 26, .ro, false, 0x0⟩]⟩,
  ⟨0x8, 0, 1, .whole, [⟨31, 0, .rw, false, 0x0⟩]⟩,
  ⟨0xC, 0, 1, .whole, [⟨31, 0, .rw, false, 0x0⟩]⟩,
  ⟨0x10, 0, 1, .low, [⟨31, 0, .rw, false, 0x0⟩]⟩,
  ⟨0x14, 0, 1, .high, [⟨31, 0, .rw, false, 0x0⟩]⟩,
  ⟨0x18, 0, 1, .whole, [⟨31, 0, .rw, false, 0x0⟩]⟩,
  ⟨0x1C, 0, 1, .whole, [⟨31, 0, .rw, false, 0x0⟩]⟩,
  ⟨0x20, 0, 1, .whole, [⟨31, 0, .ro, false, 0x0⟩]⟩,
  ⟨0x24, 0, 1, .whole, [⟨15, 0, .ro, false, 0x0⟩]⟩]

/-- The nv block's register tables. -/
def nvDefs : List RegDef := nvDefs1

/-- Rows of the gb block's register tables, part 1. -/
def gbDefs1 : List RegDef := [
  ⟨0x0, 0, 1, .whole, [⟨31, 31, .ro, false, 0x0⟩, ⟨23, 16, .ro, false, 0x0⟩, ⟨15, 0, .ro, false, 0x0⟩]⟩,
  ⟨0x4, 0, 1, .whole, [⟨25, 16, .rc, false, 0x0⟩, ⟨9, 0, .ro, false, 0x0⟩]⟩,
  ⟨0xC, 0, 1, .whole, [⟨31, 0, .rw, false, 0x0⟩]⟩,
  ⟨0x10, 0, 1, .whole, [⟨31, 0, .rw, false, 0x0⟩]⟩,
  ⟨0x14, 0, 1, .whole, [⟨31, 0, .rw, false, 0x0⟩]⟩,
  ⟨0x18, 0, 1, .whole, [⟨31, 0, .rw, false, 0x0⟩]⟩,
  ⟨0x1C, 0, 1, .whole, [⟨0, 0, .wo, false, 0x0⟩]⟩,
  ⟨0x20, 0, 1, .whole, [⟨7, 0, .rw, true, 0x10⟩]⟩,
  ⟨0x40, 0, 1, .whole, [⟨20, 20, .rw, false, 0x1⟩, ⟨17, 0, .rwh, false, 0x0⟩]⟩,
  ⟨0x44, 0, 1, .whole, [⟨31, 0, .ro, false, 0x0⟩]⟩]

/-- The gb block's register tables. -/
def gbDefs : List RegDef := gbDefs1

/-- Rows of the bist block's register tables, part 1. -/
def bistDefs1 : List RegDef := [
  ⟨0x0, 0, 1, .whole, [⟨31, 31, .rw, true, 0x1⟩, ⟨30, 30, .rw, true, 0x1⟩, ⟨9, 0, .rw, true, 0x18⟩]⟩,
  ⟨0x4, 0, 1, .whole, [⟨31, 31, .ro, false, 0x0⟩, ⟨30, 28, .ro, false, 0x0⟩, ⟨9, 0, .ro, false, 0x0⟩]⟩,
  ⟨0x8, 0, 1, .whole, [⟨31, 0, .ro, false, 0x0⟩]⟩,
  ⟨0xC, 0, 1, .whole, [⟨31, 0, .ro, false, 0x0⟩]⟩,
  ⟨0x10, 0, 1, .whole, [⟨31, 0, .ro, false, 0x0⟩]⟩,
  ⟨0x20, 0, 1, .whole, [⟨31, 0, .rw, false, 0x0⟩]⟩,
  ⟨0x24, 0, 1, .whole, [⟨31, 0, .rw, false, 0x0⟩]⟩,
  ⟨0x28, 0, 1, .whole, [⟨31, 0, .rw, false, 0x0⟩]⟩,
  ⟨0x2C, 0, 1, .whole, [⟨31, 0, .rw, false, 0x0⟩]⟩,
  ⟨0x30, 0, 1, .whole, [⟨31, 0, .rw, false, 0x0⟩]⟩,
  ⟨0x34, 0, 1, .whole, [⟨31, 0, .rw, false, 0x0⟩]⟩,
  ⟨0x40, 0, 1, .whole, [⟨31, 31, .ro, false, 0x0⟩, ⟨30, 30, .ro, false, 0x0⟩, ⟨29, 29, .ro, false, 0x0⟩]⟩,
  ⟨0x44, 0, 1, .whole, [⟨31, 0, .rw, false, 0x0⟩]⟩,
  ⟨0x48, 0, 1, .whole, [⟨31, 0, .rw, false, 0x0⟩]⟩]

/-- The bist block's register tables. -/
def bistDefs : List RegDef := bistDefs1

/-- Rows of the cnc block's register tables, part 1. -/
def cncDefs1 : List RegDef := [
  ⟨0x0, 0, 1, .whole, [⟨23, 16, .ro, false, 0x0⟩, ⟨15, 8, .ro, false, 0x0⟩, ⟨7, 0, .ro, false, 0x0⟩]⟩,
  ⟨0x10, 0, 1, .whole, [⟨16, 16, .rw, false, 0x1⟩, ⟨8, 0, .rwh, false, 0x0⟩]⟩,
  ⟨0x14, 0, 1, .whole, [⟨31, 0, .ro, false, 0x0⟩]⟩,
  ⟨0x20, 0, 1, .whole, [⟨31, 0, .rw, false, 0x0⟩]⟩,
  ⟨0x24, 0, 1, .whole, [⟨31, 0, .rw, false, 0x0⟩]⟩,
  ⟨0x28, 0, 1, .whole, [⟨31, 0, .rw, false, 0x0⟩]⟩,
  ⟨0x2C, 0, 1, .whole, [⟨31, 0, .rw, false, 0x0⟩]⟩]

/-- The cnc block's register tables. -/
def cncDefs : List RegDef := cncDefs1

/-- Rows of the mr block's register tables, part 1. -/
def mrDefs1 : List RegDef := [
  ⟨0x0, 0, 1, .whole, [⟨31, 31, .ro, false, 0x0⟩, ⟨30, 30, .ro, false, 0x0⟩, ⟨29, 29, .ro, false, 0x0⟩, ⟨22, 16, .ro, false, 0x7F⟩, ⟨13, 8, .ro, false, 0x0⟩, ⟨5, 0, .ro, false, 0x0⟩]⟩,
  ⟨0x4, 0, 1, .whole, [⟨31, 31, .rw, true, 0x1⟩, ⟨23, 16, .rw, true, 0xA⟩, ⟨15, 8, .rw, true, 0x80⟩, ⟨1, 0, .rw, false, 0x0⟩]⟩,
  ⟨0x8, 0, 1, .whole, [⟨31, 31, .ro, false, 0x0⟩, ⟨30, 30, .ro, false, 0x0⟩, ⟨29, 29, .ro, false, 0x0⟩, ⟨28, 28, .ro, false, 0x0⟩, ⟨27, 27, .ro, false, 0x0⟩, ⟨26, 26, .ro, false, 0x0⟩, ⟨25, 25, .w1c, false, 0x0⟩, ⟨24, 24, .ro, false, 0x0⟩, ⟨23, 16, .ro, false, 0x0⟩, ⟨13, 8, .ro, false, 0x0⟩]⟩,
  ⟨0x10, 0, 1, .low, [⟨31, 0, .ro, false, 0x0⟩]⟩,
  ⟨0x14, 0, 1, .high, [⟨15, 0, .ro, false, 0x0⟩]⟩,
  ⟨0x18, 0, 1, .low, [⟨31, 0, .rw, false, 0x0⟩]⟩,
  ⟨0x1C, 0, 1, .high, [⟨31, 0, .rw, false, 0x0⟩]⟩,
  ⟨0x20, 0, 1, .whole, [⟨31, 0, .rw, false, 0x0⟩]⟩,
  ⟨0x24, 0, 1, .whole, [⟨31, 0, .rw, false, 0x0⟩]⟩,
  ⟨0x28, 0, 1, .whole, [⟨31, 0, .rw, false, 0x0⟩]⟩,
  ⟨0x2C, 0, 1, .whole, [⟨31, 0, .rw, false, 0x0⟩]⟩,
  ⟨0x30, 0, 1, .whole, [⟨31, 0, .rw, false, 0x0⟩]⟩,
  ⟨0x34, 0, 1, .whole, [⟨31, 0, .rw, false, 0x0⟩]⟩,
  ⟨0x38, 0, 1, .whole, [⟨31, 0, .rw, false, 0x0⟩]⟩,
  ⟨0x3C, 0, 1, .whole, [⟨31, 0, .rw, false, 0x0⟩]⟩,
  ⟨0x40, 0, 1, .whole, [⟨31, 0, .rw, false, 0x0⟩]⟩,
  ⟨0x44, 0, 1, .whole, [⟨31, 0, .rw, false, 0x0⟩]⟩,
  ⟨0x48, 0, 1, .whole, [⟨31, 0, .rw, false, 0x0⟩]⟩,
  ⟨0x4C, 0, 1, .whole, [⟨31, 0, .rw, false, 0x0⟩]⟩,
  ⟨0x50, 0, 1, .whole, [⟨31, 0, .rw, false, 0x0⟩]⟩]

/-- The mr block's register tables. -/
def mrDefs : List RegDef := mrDefs1

/-- Rows of the dbg block's register tables, part 1. -/
def dbgDefs1 : List RegDef := [
  ⟨0x0, 0, 1, .whole, [⟨0, 0, .rw, false, 0x0⟩]⟩,
  ⟨0x4, 0, 1, .whole, [⟨2, 2, .ro, false, 0x0⟩, ⟨1, 1, .w1c, false, 0x0⟩, ⟨0, 0, .ro, false, 0x0⟩]⟩,
  ⟨0x10, 0, 1, .whole, [⟨2, 2, .wo, false, 0x0⟩, ⟨1, 1, .wo, false, 0x0⟩, ⟨0, 0, .wo, false, 0x0⟩]⟩,
  ⟨0x14, 0, 1, .whole, [⟨31, 31, .ro, false, 0x0⟩, ⟨30, 28, .ro, false, 0x0⟩, ⟨27, 26, .ro, false, 0x0⟩, ⟨25, 25, .ro, false, 0x0⟩, ⟨24, 24, .ro, false, 0x0⟩]⟩,
  ⟨0x18, 0, 1, .whole, [⟨31, 0, .ro, false, 0x0⟩]⟩,
  ⟨0x20, 4, 4, .whole, [⟨31, 2, .rw, false, 0x0⟩, ⟨0, 0, .rw, false, 0x0⟩]⟩,
  ⟨0x30, 0, 1, .whole, [⟨31, 0, .rw, false, 0x0⟩]⟩,
  ⟨0x40, 0, 1, .whole, [⟨31, 30, .rw, false, 0x0⟩, ⟨29, 29, .rw, false, 0x0⟩, ⟨16, 16, .rw, false, 0x1⟩, ⟨15, 0, .rwh, false, 0x0⟩]⟩,
  ⟨0x44, 0, 1, .whole, [⟨31, 0, .rw, false, 0x0⟩]⟩,
  ⟨0x48, 0, 1, .whole, [⟨31, 0, .rw, false, 0x0⟩]⟩]

/-- The dbg block's register tables. -/
def dbgDefs : List RegDef := dbgDefs1

/-- Rows of the tile block's register tables, part 1. -/
def tileDefs1 : List RegDef := [
  ⟨0x100, 4, 16, .whole, [⟨30, 24, .ro, false, 0x0⟩, ⟨22, 16, .ro, false, 0x0⟩, ⟨14, 8, .ro, false, 0x0⟩, ⟨6, 0, .ro, false, 0x0⟩]⟩,
  ⟨0x140, 4, 5, .whole, [⟨31, 0, .ro, false, 0x0⟩]⟩,
  ⟨0x160, 0, 1, .whole, [⟨16, 16, .ro, false, 0x0⟩, ⟨14, 8, .ro, false, 0x0⟩, ⟨6, 4, .ro, false, 0x0⟩, ⟨2, 0, .ro, false, 0x4⟩]⟩,
  ⟨0x164, 0, 1, .whole, [⟨31, 0, .rw, false, 0x0⟩]⟩,
  ⟨0x300, 0, 1, .whole, [⟨31, 31, .ro, false, 0x0⟩, ⟨30, 30, .ro, false, 0x0⟩, ⟨29, 29, .ro, false, 0x0⟩, ⟨28, 28, .ro, false, 0x0⟩, ⟨4, 4, .w1c, false, 0x0⟩, ⟨3, 3, .w1c, false, 0x0⟩, ⟨2, 2, .w1c, false, 0x0⟩, ⟨1, 1, .w1c, false, 0x0⟩]⟩,
  ⟨0x304, 0, 1, .whole, [⟨0, 0, .wo, false, 0x0⟩]⟩,
  ⟨0x308, 0, 1, .whole, [⟨31, 0, .rw, false, 0x0⟩]⟩,
  ⟨0x400, 0, 1, .whole, [⟨31, 31, .ro, false, 0x0⟩, ⟨30, 30, .ro, false, 0x0⟩, ⟨27, 24, .ro, false, 0x0⟩, ⟨23, 16, .ro, false, 0x0⟩, ⟨15, 0, .ro, false, 0x0⟩]⟩,
  ⟨0x410, 4, 4, .whole, [⟨31, 31, .ro, false, 0x0⟩, ⟨15, 0, .ro, false, 0x0⟩]⟩]

/-- The tile block's register tables. -/
def tileDefs : List RegDef := tileDefs1

/-- Rows of the port block's register tables, part 1. -/
def portDefs1 : List RegDef := [
  ⟨0x40, 0, 1, .whole, [⟨31, 16, .wo, false, 0x0⟩, ⟨11, 11, .mw, true, 0x0⟩, ⟨10, 10, .mw, true, 0x0⟩, ⟨9, 9, .mw, true, 0x0⟩, ⟨8, 8, .mw, true, 0x0⟩, ⟨7, 7, .mw, true, 0x0⟩, ⟨6, 6, .mw, true, 0x0⟩, ⟨5, 5, .mw, true, 0x0⟩, ⟨4, 4, .mw, true, 0x0⟩, ⟨3, 3, .mw, true, 0x0⟩, ⟨2, 2, .mw, true, 0x0⟩, ⟨1, 1, .mw, true, 0x0⟩, ⟨0, 0, .mw, true, 0x0⟩]⟩,
  ⟨0x44, 0, 1, .whole, [⟨16, 16, .ro, false, 0x0⟩, ⟨11, 0, .ro, false, 0x0⟩]⟩,
  ⟨0x48, 0, 1, .whole, [⟨11, 0, .ro, false, 0x0⟩]⟩,
  ⟨0x4C, 0, 1, .whole, [⟨31, 0, .ro, false, 0x0⟩]⟩,
  ⟨0x50, 0, 1, .whole, [⟨15, 0, .ro, false, 0x0⟩]⟩,
  ⟨0x54, 0, 1, .whole, [⟨16, 16, .ro, false, 0x0⟩, ⟨11, 0, .ro, false, 0x0⟩]⟩,
  ⟨0x58, 0, 1, .whole, [⟨31, 0, .ro, false, 0x0⟩]⟩,
  ⟨0x5C, 0, 1, .whole, [⟨31, 0, .rw, false, 0x0⟩]⟩,
  ⟨0x60, 0, 1, .whole, [⟨31, 0, .rw, false, 0x0⟩]⟩,
  ⟨0x64, 0, 1, .whole, [⟨31, 24, .rw, true, 0x10⟩, ⟨17, 17, .wo, false, 0x0⟩, ⟨16, 16, .wo, false, 0x0⟩, ⟨9, 8, .rw, true, 0x3⟩, ⟨3, 0, .rw, true, 0xF⟩]⟩,
  ⟨0x68, 0, 1, .whole, [⟨11, 8, .ro, false, 0x0⟩, ⟨7, 4, .ro, false, 0x0⟩, ⟨3, 0, .ro, false, 0x0⟩]⟩,
  ⟨0x6C, 4, 4, .whole, [⟨31, 0, .rw, false, 0x0⟩]⟩,
  ⟨0x7C, 0, 1, .whole, [⟨31, 0, .rw, false, 0x0⟩]⟩,
  ⟨0x80, 0, 1, .whole, [⟨31, 0, .rw, false, 0x0⟩]⟩,
  ⟨0x100, 0, 1, .whole, [⟨31, 24, .ro, false, 0x0⟩, ⟨23, 16, .ro, false, 0x0⟩, ⟨11, 8, .ro, false, 0x0⟩, ⟨5, 4, .ro, false, 0x0⟩, ⟨2, 0, .ro, false, 0x0⟩]⟩,
  ⟨0x104, 0, 1, .whole, [⟨31, 24, .ro, false, 0x0⟩, ⟨23, 16, .ro, false, 0x0⟩, ⟨11, 8, .ro, false, 0x0⟩, ⟨5, 4, .ro, false, 0x0⟩, ⟨2, 0, .ro, false, 0x0⟩]⟩,
  ⟨0x108, 0, 1, .whole, [⟨7, 0, .rw, true, 0x1E⟩]⟩,
  ⟨0x110, 0, 1, .low, [⟨31, 0, .rw, false, 0x0⟩]⟩,
  ⟨0x114, 0, 1, .high, [⟨31, 0, .rw, false, 0x0⟩]⟩,
  ⟨0x118, 0, 1, .low, [⟨31, 0, .rw, false, 0x0⟩]⟩,
  ⟨0x11C, 0, 1, .high, [⟨31, 0, .rw, false, 0x0⟩]⟩,
  ⟨0x120, 0, 1, .low, [⟨31, 0, .rw, false, 0x0⟩]⟩,
  ⟨0x124, 0, 1, .high, [⟨31, 0, .rw, false, 0x0⟩]⟩,
  ⟨0x128, 0, 1, .low, [⟨31, 0, .rw, false, 0x0⟩]⟩,
  ⟨0x12C, 0, 1, .high, [⟨31, 0, .rw, false, 0x0⟩]⟩,
  ⟨0x130, 0, 1, .whole, [⟨31, 0, .rw, false, 0x0⟩]⟩,
  ⟨0x134, 0, 1, .whole, [⟨31, 0, .rw, false, 0x0⟩]⟩,
  ⟨0x138, 0, 1, .low, [⟨31, 0, .rw, false, 0x0⟩]⟩,
  ⟨0x13C, 0, 1, .high, [⟨31, 0, .rw, false, 0x0⟩]⟩,
  ⟨0x140, 0, 1, .low, [⟨31, 0, .rw, false, 0x0⟩]⟩]

/-- Rows of the port block's register tables, part 2. -/
def portDefs2 : List RegDef := [
  ⟨0x144, 0, 1, .high, [⟨31, 0, .rw, false, 0x0⟩]⟩,
  ⟨0x148, 0, 1, .whole, [⟨31, 0, .rw, false, 0x0⟩]⟩,
  ⟨0x200, 0, 1, .whole, [⟨24, 16, .rw, true, 0x18⟩, ⟨15, 8, .rw, true, 0xDC⟩, ⟨7, 4, .rw, true, 0x6⟩, ⟨3, 2, .rw, true, 0x2⟩, ⟨0, 0, .rw, true, 0x1⟩]⟩,
  ⟨0x204, 0, 1, .whole, [⟨31, 16, .rw, true, 0xFF9C⟩, ⟨15, 0, .rw, true, 0xFED4⟩]⟩,
  ⟨0x208, 0, 1, .whole, [⟨16, 16, .rw, true, 0x0⟩, ⟨11, 8, .rw, true, 0xA⟩, ⟨3, 0, .rw, true, 0xC⟩]⟩,
  ⟨0x20C, 0, 1, .whole, [⟨31, 24, .rw, true, 0x18⟩, ⟨23, 16, .rw, true, 0x8⟩, ⟨15, 0, .rw, true, 0x40⟩]⟩,
  ⟨0x210, 0, 1, .whole, [⟨31, 31, .ro, false, 0x0⟩, ⟨23, 16, .ro, false, 0x0⟩, ⟨15, 0, .ro, false, 0x0⟩]⟩,
  ⟨0x214, 0, 1, .whole, [⟨3, 3, .ro, false, 0x0⟩, ⟨1, 1, .ro, false, 0x0⟩, ⟨0, 0, .ro, false, 0x0⟩]⟩,
  ⟨0x218, 0, 1, .whole, [⟨24, 24, .ro, false, 0x0⟩, ⟨23, 16, .ro, false, 0x0⟩, ⟨15, 8, .ro, false, 0x0⟩, ⟨7, 0, .ro, false, 0x0⟩]⟩,
  ⟨0x220, 0, 1, .whole, [⟨31, 0, .rw, false, 0x0⟩]⟩,
  ⟨0x224, 0, 1, .whole, [⟨31, 0, .rw, false, 0x0⟩]⟩,
  ⟨0x228, 0, 1, .whole, [⟨31, 0, .rw, false, 0x0⟩]⟩,
  ⟨0x22C, 0, 1, .whole, [⟨31, 0, .rw, false, 0x0⟩]⟩,
  ⟨0x230, 0, 1, .whole, [⟨31, 0, .rw, false, 0x0⟩]⟩,
  ⟨0x300, 0, 1, .whole, [⟨31, 31, .rw, true, 0x0⟩, ⟨30, 30, .rw, true, 0x1⟩, ⟨29, 28, .rw, true, 0x0⟩, ⟨23, 16, .rw, true, 0x2⟩, ⟨15, 8, .rw, true, 0x8⟩]⟩,
  ⟨0x304, 0, 1, .whole, [⟨31, 24, .rw, true, 0x80⟩, ⟨23, 20, .rw, true, 0x6⟩, ⟨17, 16, .rw, true, 0x0⟩]⟩,
  ⟨0x308, 0, 1, .whole, [⟨31, 0, .rw, true, 0x0⟩]⟩,
  ⟨0x310, 0, 1, .whole, [⟨31, 28, .ro, false, 0x0⟩, ⟨27, 27, .ro, false, 0x0⟩, ⟨26, 26, .ro, false, 0x0⟩, ⟨25, 25, .ro, false, 0x0⟩, ⟨24, 24, .ro, false, 0x0⟩, ⟨21, 20, .ro, false, 0x0⟩, ⟨19, 16, .ro, false, 0x0⟩, ⟨15, 8, .ro, false, 0x0⟩, ⟨7, 0, .ro, false, 0x0⟩]⟩,
  ⟨0x314, 0, 1, .whole, [⟨31, 24, .ro, false, 0x0⟩, ⟨19, 16, .ro, false, 0x0⟩, ⟨15, 14, .ro, false, 0x0⟩, ⟨11, 0, .ro, false, 0x0⟩]⟩,
  ⟨0x318, 0, 1, .whole, [⟨31, 0, .ro, false, 0x0⟩]⟩,
  ⟨0x31C, 0, 1, .whole, [⟨31, 0, .ro, false, 0x0⟩]⟩,
  ⟨0x320, 0, 1, .whole, [⟨31, 0, .ro, false, 0x0⟩]⟩,
  ⟨0x324, 0, 1, .whole, [⟨31, 24, .ro, false, 0x0⟩, ⟨23, 16, .ro, false, 0x0⟩, ⟨14, 14, .ro, false, 0x0⟩, ⟨13, 8, .ro, false, 0x0⟩, ⟨6, 0, .ro, false, 0x0⟩]⟩,
  ⟨0x328, 0, 1, .whole, [⟨31, 0, .ro, false, 0x0⟩]⟩,
  ⟨0x330, 0, 1, .whole, [⟨31, 0, .rw, false, 0x0⟩]⟩,
  ⟨0x334, 0, 1, .whole, [⟨31, 0, .rw, false, 0x0⟩]⟩,
  ⟨0x338, 0, 1, .whole, [⟨31, 0, .rw, false, 0x0⟩]⟩,
  ⟨0x33C, 0, 1, .whole, [⟨31, 0, .rw, false, 0x0⟩]⟩,
  ⟨0x340, 0, 1, .whole, [⟨31, 0, .rw, false, 0x0⟩]⟩,
  ⟨0x344, 0, 1, .whole, [⟨31, 0, .rw, false, 0x0⟩]⟩]

/-- Rows of the port block's register tables, part 3. -/
def portDefs3 : List RegDef := [
  ⟨0x348, 0, 1, .whole, [⟨31, 0, .rw, false, 0x0⟩]⟩,
  ⟨0x400, 0, 1, .whole, [⟨31, 31, .rw, true, 0x1⟩, ⟨23, 16, .rw, true, 0xF⟩, ⟨15, 8, .rw, true, 0x40⟩, ⟨7, 0, .rw, true, 0x1⟩]⟩,
  ⟨0x404, 0, 1, .whole, [⟨31, 31, .rw, true, 0x1⟩, ⟨30, 30, .rw, true, 0x0⟩, ⟨29, 28, .rw, true, 0x0⟩, ⟨23, 16, .rw, true, 0x0⟩, ⟨15, 8, .rw, true, 0x14⟩, ⟨7, 0, .rw, true, 0x40⟩]⟩,
  ⟨0x408, 0, 1, .whole, [⟨23, 16, .rw, true, 0x10⟩, ⟨15, 8, .rw, true, 0x10⟩, ⟨7, 0, .rw, true, 0x20⟩]⟩,
  ⟨0x40C, 0, 1, .whole, [⟨31, 31, .rw, true, 0x0⟩, ⟨15, 0, .rw, true, 0x1000⟩]⟩,
  ⟨0x410, 0, 1, .whole, [⟨31, 28, .ro, false, 0x0⟩, ⟨27, 24, .ro, false, 0x0⟩, ⟨20, 20, .ro, false, 0x0⟩, ⟨19, 18, .ro, false, 0x0⟩, ⟨17, 16, .ro, false, 0x0⟩, ⟨15, 8, .ro, false, 0x0⟩, ⟨7, 0, .ro, false, 0x0⟩]⟩,
  ⟨0x414, 0, 1, .whole, [⟨31, 0, .ro, false, 0x0⟩]⟩,
  ⟨0x418, 0, 1, .whole, [⟨31, 0, .ro, false, 0x0⟩]⟩,
  ⟨0x41C, 0, 1, .whole, [⟨31, 31, .ro, false, 0x0⟩, ⟨30, 28, .ro, false, 0x0⟩, ⟨25, 24, .ro, false, 0x0⟩, ⟨19, 16, .ro, false, 0x0⟩]⟩,
  ⟨0x420, 0, 1, .whole, [⟨31, 0, .ro, false, 0x0⟩]⟩,
  ⟨0x440, 0, 1, .whole, [⟨31, 0, .rw, false, 0x0⟩]⟩,
  ⟨0x444, 0, 1, .whole, [⟨31, 0, .rw, false, 0x0⟩]⟩,
  ⟨0x448, 0, 1, .whole, [⟨31, 0, .rw, false, 0x0⟩]⟩,
  ⟨0x44C, 0, 1, .whole, [⟨31, 0, .rw, false, 0x0⟩]⟩,
  ⟨0x450, 0, 1, .whole, [⟨31, 0, .rw, false, 0x0⟩]⟩,
  ⟨0x454, 0, 1, .whole, [⟨31, 0, .rw, false, 0x0⟩]⟩,
  ⟨0x458, 0, 1, .whole, [⟨31, 0, .rw, false, 0x0⟩]⟩,
  ⟨0x45C, 0, 1, .whole, [⟨31, 0, .rw, false, 0x0⟩]⟩,
  ⟨0x460, 0, 1, .whole, [⟨31, 0, .rw, false, 0x0⟩]⟩,
  ⟨0x464, 0, 1, .whole, [⟨31, 0, .rw, false, 0x0⟩]⟩,
  ⟨0x468, 0, 1, .whole, [⟨31, 0, .rw, false, 0x0⟩]⟩,
  ⟨0x46C, 0, 1, .whole, [⟨31, 0, .rw, false, 0x0⟩]⟩,
  ⟨0x470, 0, 1, .whole, [⟨31, 0, .rw, false, 0x0⟩]⟩,
  ⟨0x474, 0, 1, .whole, [⟨31, 0, .rw, false, 0x0⟩]⟩,
  ⟨0x478, 0, 1, .whole, [⟨31, 0, .rw, false, 0x0⟩]⟩,
  ⟨0x47C, 0, 1, .whole, [⟨31, 0, .rw, false, 0x0⟩]⟩,
  ⟨0x480, 0, 1, .whole, [⟨31, 0, .rw, false, 0x0⟩]⟩,
  ⟨0x484, 0, 1, .whole, [⟨31, 0, .rw, false, 0x0⟩]⟩,
  ⟨0x488, 0, 1, .whole, [⟨31, 0, .rw, false, 0x0⟩]⟩,
  ⟨0x48C, 0, 1, .whole, [⟨31, 0, .rw, false, 0x0⟩]⟩]

/-- Rows of the port block's register tables, part 4. -/
def portDefs4 : List RegDef := [
  ⟨0x490, 0, 1, .whole, [⟨31, 0, .ro, false, 0x0⟩]⟩,
  ⟨0x494, 0, 1, .whole, [⟨31, 0, .rw, false, 0x0⟩]⟩,
  ⟨0x500, 0, 1, .whole, [⟨19, 0, .rw, true, 0x0⟩]⟩,
  ⟨0x504, 0, 1, .whole, [⟨23, 16, .rw, true, 0x40⟩, ⟨15, 8, .rw, true, 0x8⟩, ⟨1, 0, .rw, true, 0x3⟩]⟩,
  ⟨0x508, 0, 1, .whole, [⟨31, 28, .ro, false, 0x8⟩, ⟨27, 26, .ro, false, 0x0⟩, ⟨25, 24, .ro, false, 0x0⟩, ⟨23, 16, .ro, false, 0x0⟩, ⟨15, 8, .ro, false, 0x0⟩, ⟨7, 0, .ro, false, 0x0⟩]⟩,
  ⟨0x50C, 0, 1, .whole, [⟨31, 0, .ro, false, 0x0⟩]⟩,
  ⟨0x510, 0, 1, .whole, [⟨31, 0, .rw, false, 0x0⟩]⟩,
  ⟨0x514, 0, 1, .whole, [⟨31, 0, .rw, false, 0x0⟩]⟩,
  ⟨0x518, 0, 1, .whole, [⟨31, 0, .rw, false, 0x0⟩]⟩,
  ⟨0x51C, 0, 1, .whole, [⟨31, 0, .rw, false, 0x0⟩]⟩,
  ⟨0x520, 0, 1, .whole, [⟨31, 0, .rw, false, 0x0⟩]⟩,
  ⟨0x524, 0, 1, .whole, [⟨31, 0, .rw, false, 0x0⟩]⟩,
  ⟨0x528, 0, 1, .low, [⟨31, 0, .rw, false, 0x0⟩]⟩,
  ⟨0x52C, 0, 1, .high, [⟨31, 0, .rw, false, 0x0⟩]⟩,
  ⟨0x530, 0, 1, .whole, [⟨19, 0, .rc, false, 0x0⟩]⟩,
  ⟨0x540, 4, 10, .whole, [⟨31, 0, .rw, false, 0x0⟩]⟩,
  ⟨0x580, 4, 10, .whole, [⟨31, 0, .rw, false, 0x0⟩]⟩,
  ⟨0x600, 0, 1, .whole, [⟨31, 16, .rw, true, 0x1130⟩, ⟨15, 0, .rw, true, 0x0⟩]⟩,
  ⟨0x604, 0, 1, .whole, [⟨31, 24, .rw, true, 0x3⟩, ⟨23, 16, .rw, true, 0x3F⟩]⟩,
  ⟨0x608, 0, 1, .whole, [⟨31, 31, .rw, true, 0x1⟩, ⟨30, 30, .wo, false, 0x0⟩, ⟨23, 16, .rw, true, 0x3C⟩, ⟨15, 0, .rw, true, 0x3E8⟩]⟩]

/-- The port block's register tables. -/
def portDefs : List RegDef := portDefs1 ++ portDefs2 ++ portDefs3 ++ portDefs4

/-- Rows of the pair block's register tables, part 1. -/
def pairDefs1 : List RegDef := [
  ⟨0x0, 0, 1, .whole, [⟨31, 24, .rw, true, 0x69⟩, ⟨19, 17, .rw, true, 0x3⟩, ⟨4, 0, .rw, true, 0xC⟩]⟩,
  ⟨0x4, 0, 1, .whole, [⟨31, 31, .ro, false, 0x0⟩, ⟨15, 0, .ro, false, 0x0⟩]⟩,
  ⟨0x8, 0, 1, .whole, [⟨31, 0, .rw, false, 0x0⟩]⟩,
  ⟨0x10, 0, 1, .whole, [⟨16, 16, .rw, false, 0x1⟩, ⟨11, 11, .rw, false, 0x0⟩, ⟨10, 10, .rw, false, 0x0⟩, ⟨9, 0, .rwh, false, 0x0⟩]⟩,
  ⟨0x14, 0, 1, .whole, [⟨12, 12, .ro, false, 0x0⟩, ⟨8, 4, .ro, false, 0xC⟩, ⟨3, 0, .ro, false, 0x0⟩]⟩,
  ⟨0x18, 0, 1, .whole, [⟨8, 8, .w1c, false, 0x0⟩, ⟨6, 6, .ro, false, 0x0⟩, ⟨5, 5, .ro, false, 0x0⟩, ⟨4, 4, .ro, false, 0x0⟩, ⟨3, 3, .ro, false, 0x0⟩, ⟨2, 2, .ro, false, 0x0⟩, ⟨1, 1, .ro, false, 0x0⟩, ⟨0, 0, .ro, false, 0x0⟩]⟩,
  ⟨0x1C, 0, 1, .whole, [⟨31, 0, .ro, false, 0x0⟩]⟩,
  ⟨0x20, 0, 1, .whole, [⟨31, 0, .rw, false, 0x0⟩]⟩,
  ⟨0x30, 4, 3, .whole, [⟨31, 0, .ro, false, 0x0⟩]⟩,
  ⟨0x3C, 4, 3, .whole, [⟨31, 0, .ro, false, 0x0⟩]⟩,
  ⟨0x48, 0, 1, .whole, [⟨31, 0, .rw, false, 0x0⟩]⟩,
  ⟨0x50, 0, 1, .whole, [⟨31, 0, .rw, false, 0x0⟩]⟩,
  ⟨0x54, 0, 1, .whole, [⟨31, 0, .rw, false, 0x0⟩]⟩,
  ⟨0x100, 0, 1, .whole, [⟨23, 12, .ro, false, 0x0⟩, ⟨8, 8, .ro, false, 0x0⟩, ⟨4, 0, .ro, false, 0x4⟩]⟩,
  ⟨0x104, 0, 1, .whole, [⟨9, 9, .ro, false, 0x0⟩, ⟨8, 8, .ro, false, 0x0⟩, ⟨6, 0, .ro, false, 0x40⟩]⟩,
  ⟨0x108, 0, 1, .whole, [⟨31, 0, .ro, false, 0x0⟩]⟩,
  ⟨0x10C, 0, 1, .whole, [⟨31, 31, .ro, false, 0x0⟩, ⟨15, 0, .ro, false, 0x0⟩]⟩,
  ⟨0x110, 0, 1, .whole, [⟨31, 16, .ro, false, 0x0⟩]⟩,
  ⟨0x114, 0, 1, .whole, [⟨31, 24, .ro, false, 0x0⟩, ⟨23, 16, .ro, false, 0x0⟩, ⟨15, 8, .ro, false, 0x0⟩]⟩,
  ⟨0x118, 0, 1, .whole, [⟨24, 16, .ro, false, 0x0⟩, ⟨15, 0, .ro, false, 0x0⟩]⟩,
  ⟨0x11C, 0, 1, .whole, [⟨31, 16, .ro, false, 0x8000⟩, ⟨15, 0, .ro, false, 0x8000⟩]⟩,
  ⟨0x120, 0, 1, .whole, [⟨31, 31, .ro, false, 0x0⟩, ⟨30, 30, .ro, false, 0x0⟩, ⟨23, 16, .ro, false, 0x0⟩, ⟨15, 0, .ro, false, 0x0⟩]⟩,
  ⟨0x124, 0, 1, .whole, [⟨31, 31, .ro, false, 0x0⟩, ⟨15, 0, .ro, false, 0x0⟩]⟩,
  ⟨0x128, 0, 1, .whole, [⟨31, 31, .ro, false, 0x0⟩, ⟨15, 0, .ro, false, 0x0⟩]⟩,
  ⟨0x12C, 0, 1, .whole, [⟨7, 0, .ro, false, 0x0⟩]⟩,
  ⟨0x130, 0, 1, .whole, [⟨16, 16, .rw, false, 0x1⟩, ⟨8, 0, .rwh, false, 0x0⟩]⟩,
  ⟨0x134, 0, 1, .whole, [⟨31, 31, .ro, false, 0x0⟩, ⟨23, 16, .ro, false, 0x80⟩, ⟨15, 8, .ro, false, 0x0⟩, ⟨7, 0, .ro, false, 0x0⟩]⟩,
  ⟨0x140, 0, 1, .whole, [⟨31, 31, .wo, false, 0x0⟩, ⟨24, 24, .rw, false, 0x1⟩, ⟨19, 16, .rw, false, 0x0⟩, ⟨12, 0, .rwh, false, 0x0⟩]⟩,
  ⟨0x144, 0, 1, .whole, [⟨31, 0, .rw, false, 0x0⟩]⟩,
  ⟨0x148, 0, 1, .whole, [⟨3, 3, .w1c, false, 0x0⟩, ⟨2, 2, .ro, false, 0x0⟩, ⟨1, 1, .ro, false, 0x0⟩]⟩]

/-- Rows of the pair block's register tables, part 2. -/
def pairDefs2 : List RegDef := [
  ⟨0x160, 0, 1, .whole, [⟨31, 0, .rw, false, 0x0⟩]⟩,
  ⟨0x164, 0, 1, .whole, [⟨31, 0, .rw, false, 0x0⟩]⟩,
  ⟨0x168, 0, 1, .whole, [⟨31, 0, .rw, false, 0x0⟩]⟩,
  ⟨0x16C, 0, 1, .whole, [⟨31, 0, .rw, false, 0x0⟩]⟩,
  ⟨0x170, 0, 1, .whole, [⟨31, 0, .rw, false, 0x0⟩]⟩,
  ⟨0x174, 0, 1, .whole, [⟨31, 0, .rw, false, 0x0⟩]⟩,
  ⟨0x178, 0, 1, .low, [⟨31, 0, .rw, false, 0x0⟩]⟩,
  ⟨0x17C, 0, 1, .high, [⟨31, 0, .rw, false, 0x0⟩]⟩,
  ⟨0x200, 0, 1, .whole, [⟨31, 0, .rw, false, 0x0⟩]⟩,
  ⟨0x204, 0, 1, .whole, [⟨31, 0, .rw, false, 0x0⟩]⟩,
  ⟨0x208, 0, 1, .whole, [⟨31, 0, .rw, false, 0x0⟩]⟩,
  ⟨0x20C, 0, 1, .whole, [⟨31, 0, .rw, false, 0x0⟩]⟩,
  ⟨0x210, 0, 1, .whole, [⟨31, 0, .rw, false, 0x0⟩]⟩,
  ⟨0x214, 0, 1, .whole, [⟨31, 0, .rw, false, 0x0⟩]⟩,
  ⟨0x218, 0, 1, .whole, [⟨31, 0, .rw, false, 0x0⟩]⟩,
  ⟨0x21C, 0, 1, .whole, [⟨15, 0, .ro, false, 0x0⟩]⟩,
  ⟨0x220, 0, 1, .whole, [⟨31, 0, .ro, false, 0x0⟩]⟩,
  ⟨0x224, 0, 1, .whole, [⟨31, 0, .ro, false, 0x0⟩]⟩,
  ⟨0x228, 0, 1, .whole, [⟨31, 28, .ro, false, 0x0⟩, ⟨15, 8, .ro, false, 0x0⟩, ⟨7, 0, .ro, false, 0x0⟩]⟩,
  ⟨0x300, 0, 1, .whole, [⟨31, 31, .ro, false, 0x0⟩, ⟨24, 16, .ro, false, 0x0⟩, ⟨15, 8, .ro, false, 0x0⟩, ⟨7, 0, .ro, false, 0x0⟩]⟩,
  ⟨0x304, 0, 1, .whole, [⟨31, 28, .ro, false, 0x0⟩, ⟨15, 8, .ro, false, 0x0⟩, ⟨7, 0, .ro, false, 0x0⟩]⟩,
  ⟨0x310, 0, 1, .whole, [⟨31, 0, .rw, false, 0x0⟩]⟩,
  ⟨0x314, 0, 1, .whole, [⟨31, 0, .rw, false, 0x0⟩]⟩,
  ⟨0x318, 0, 1, .whole, [⟨31, 0, .rw, false, 0x0⟩]⟩,
  ⟨0x31C, 0, 1, .whole, [⟨31, 0, .rw, false, 0x0⟩]⟩,
  ⟨0x320, 0, 1, .whole, [⟨31, 0, .rw, false, 0x0⟩]⟩,
  ⟨0x324, 0, 1, .whole, [⟨31, 0, .rw, false, 0x0⟩]⟩,
  ⟨0x400, 0, 1, .whole, [⟨31, 31, .wo, false, 0x0⟩, ⟨30, 30, .wo, false, 0x0⟩, ⟨24, 24, .rw, false, 0x0⟩, ⟨17, 16, .rw, false, 0x1⟩, ⟨8, 8, .rw, false, 0x1⟩, ⟨3, 0, .rw, false, 0xC⟩]⟩,
  ⟨0x404, 0, 1, .whole, [⟨31, 28, .ro, false, 0x0⟩, ⟨24, 24, .ro, false, 0x0⟩, ⟨23, 16, .ro, false, 0x0⟩, ⟨6, 6, .ro, false, 0x0⟩, ⟨5, 5, .ro, false, 0x0⟩, ⟨4, 0, .ro, false, 0x0⟩]⟩,
  ⟨0x408, 0, 1, .whole, [⟨31, 24, .ro, false, 0x0⟩, ⟨15, 0, .ro, false, 0x0⟩]⟩]

/-- Rows of the pair block's register tables, part 3. -/
def pairDefs3 : List RegDef := [
  ⟨0x40C, 0, 1, .whole, [⟨31, 0, .ro, false, 0x0⟩]⟩,
  ⟨0x410, 0, 1, .whole, [⟨19, 16, .rw, false, 0x0⟩, ⟨9, 9, .rw, false, 0x1⟩, ⟨8, 0, .rwh, false, 0x0⟩]⟩,
  ⟨0x414, 0, 1, .whole, [⟨15, 0, .ro, false, 0xFFFF⟩]⟩,
  ⟨0x418, 0, 1, .whole, [⟨31, 31, .ro, false, 0x0⟩, ⟨30, 30, .ro, false, 0x0⟩, ⟨28, 28, .ro, false, 0x0⟩, ⟨27, 27, .ro, false, 0x0⟩, ⟨26, 26, .ro, false, 0x0⟩, ⟨25, 25, .ro, false, 0x0⟩, ⟨24, 24, .ro, false, 0x0⟩, ⟨19, 16, .ro, false, 0x0⟩, ⟨8, 0, .ro, false, 0x0⟩]⟩,
  ⟨0x41C, 0, 1, .whole, [⟨31, 0, .ro, false, 0x0⟩]⟩,
  ⟨0x440, 4, 16, .whole, [⟨31, 28, .ro, false, 0x0⟩, ⟨25, 24, .ro, false, 0x0⟩, ⟨23, 16, .ro, false, 0x0⟩, ⟨15, 0, .ro, false, 0x0⟩]⟩,
  ⟨0x480, 0, 1, .whole, [⟨16, 16, .rw, false, 0x1⟩, ⟨15, 14, .rw, false, 0x0⟩, ⟨13, 0, .rwh, false, 0x0⟩]⟩,
  ⟨0x484, 0, 1, .whole, [⟨15, 0, .ro, false, 0x0⟩]⟩,
  ⟨0x490, 0, 1, .whole, [⟨16, 16, .rw, false, 0x1⟩, ⟨11, 0, .rwh, false, 0x0⟩]⟩,
  ⟨0x494, 0, 1, .whole, [⟨31, 0, .ro, false, 0xFFFFFFFF⟩]⟩,
  ⟨0x498, 0, 1, .whole, [⟨31, 0, .ro, false, 0x0⟩]⟩,
  ⟨0x4A0, 0, 1, .whole, [⟨31, 0, .rw, false, 0x0⟩]⟩,
  ⟨0x4A4, 0, 1, .whole, [⟨31, 0, .rw, false, 0x0⟩]⟩]

/-- The pair block's register tables. -/
def pairDefs : List RegDef := pairDefs1 ++ pairDefs2 ++ pairDefs3

/-- Rows of the slice block's register tables, part 1. -/
def sliceDefs1 : List RegDef := [
  ⟨0x0, 0, 1, .whole, [⟨31, 30, .ro, false, 0x0⟩, ⟨27, 24, .ro, false, 0x0⟩, ⟨22, 16, .ro, false, 0x0⟩]⟩,
  ⟨0x4, 0, 1, .whole, [⟨31, 0, .rw, false, 0x0⟩]⟩,
  ⟨0x8, 0, 1, .whole, [⟨31, 0, .rw, false, 0x0⟩]⟩,
  ⟨0xC, 0, 1, .whole, [⟨31, 0, .rw, false, 0x0⟩]⟩,
  ⟨0x10, 0, 1, .whole, [⟨15, 8, .ro, false, 0x0⟩, ⟨7, 0, .ro, false, 0x0⟩]⟩]

/-- The slice block's register tables. -/
def sliceDefs : List RegDef := sliceDefs1

/-- The register tables of a block. -/
def blkDefs : Blk → List RegDef
  | .hub => hubDefs
  | .lane => laneDefs
  | .hostel => hostelDefs
  | .ttPort => ttPortDefs
  | .cal => calDefs
  | .nv => nvDefs
  | .gb => gbDefs
  | .bist => bistDefs
  | .cnc => cncDefs
  | .mr => mrDefs
  | .dbg => dbgDefs
  | .tile => tileDefs
  | .port => portDefs
  | .pair => pairDefs
  | .slice => sliceDefs

/-- The row of a block's tables that holds offset `off`, with the index within its family. -/
def findDef : List RegDef → Nat → Option (RegDef × Nat)
  | [], _ => none
  | r :: rs, off =>
    if r.off = off then some (r, 0)
    else if r.off < off ∧ r.stride ≠ 0 ∧ (off - r.off) % r.stride = 0 ∧ (off - r.off) / r.stride < r.count then
      some (r, (off - r.off) / r.stride)
    else findDef rs off

/-- The block, instance and offset of a bus address (R447); none where no block lies. -/
def classify (a : Nat) : Option (Blk × Nat × Nat) :=
  if a < 0x00010000 then some (.hub, 0, a)
  else if 0x01000000 ≤ a ∧ a < 0x01000000 + 136 * 0x1000 then
    some (.lane, (a - 0x01000000) / 0x1000, (a - 0x01000000) % 0x1000)
  else if 0x02000000 ≤ a ∧ a < 0x02010000 then some (.hostel, 0, a - 0x02000000)
  else if 0x02010000 ≤ a ∧ a < 0x02010000 + 128 * 0x100 then
    some (.ttPort, (a - 0x02010000) / 0x100, (a - 0x02010000) % 0x100)
  else if 0x03000000 ≤ a ∧ a < 0x03010000 then some (.cal, 0, a - 0x03000000)
  else if 0x03010000 ≤ a ∧ a < 0x03020000 then some (.nv, 0, a - 0x03010000)
  else if 0x03020000 ≤ a ∧ a < 0x03030000 then some (.gb, 0, a - 0x03020000)
  else if 0x03030000 ≤ a ∧ a < 0x03040000 then some (.bist, 0, a - 0x03030000)
  else if 0x03040000 ≤ a ∧ a < 0x03050000 then some (.cnc, 0, a - 0x03040000)
  else if 0x04000000 ≤ a ∧ a < 0x04010000 then some (.mr, 0, a - 0x04000000)
  else if 0x04010000 ≤ a ∧ a < 0x04020000 then some (.dbg, 0, a - 0x04010000)
  else if 0x10000000 ≤ a ∧ a < 0x18000000 then
    let t := (a - 0x10000000) / 0x01000000
    let b := (a - 0x10000000) % 0x01000000
    if b < 0x00100000 then some (.tile, t, b)
    else if b < 0x00200000 then
      let n := 16 * t + (b - 0x00100000) / 0x10000
      let c := (b - 0x00100000) % 0x10000
      if c < 0x8000 then some (.port, n, c)
      else if c < 0xC000 then some (.pair, 4 * n + (c - 0x8000) / 0x1000, (c - 0x8000) % 0x1000)
      else none
    else if 0x00F00000 ≤ b ∧ b < 0x00F00000 + 68 * 0x1000 then
      some (.slice, 68 * t + (b - 0x00F00000) / 0x1000, (b - 0x00F00000) % 0x1000)
    else none
  else none

/-- The register row that a bus address names: block, instance, row, index within the family. -/
def regAt (a : Nat) : Option (Blk × Nat × RegDef × Nat) :=
  match classify a with
  | none => none
  | some (b, i, off) =>
    match findDef (blkDefs b) off with
    | none => none
    | some (r, j) => if b = .lane ∧ i < 128 ∧ 0x200 ≤ off then none else some (b, i, r, j)

/-- The reset value that a row's fields give. -/
def fieldsReset : List FieldDef → Nat
  | [] => 0
  | f :: fs => f.reset * 2 ^ f.lo + fieldsReset fs

/-- Reset values that depend on the instance: TILE_XBAR_MAPq and TILE_SLICE_STATEj (R23), HOSTEL_BANK_STATEj
(R260), HL_STATUS.PORT (R288), SLICE_SPARE_ROWS.LEFT (R534: 16 instances of 4 rows), the load state of the MRAM (R522; log entry 5), and MR_ID with every strap pin unconnected
(R396; log entry 5). -/
def indexReset (b : Blk) (i off : Nat) : Option Nat :=
  match b with
  | .tile =>
    if 0x100 ≤ off ∧ off < 0x140 then
      let f := off - 0x100
      some (f + (f + 1) * 0x100 + (f + 2) * 0x10000 + (f + 3) * 0x1000000)
    else if off = 0x150 then some 0x55 else none
  | .hostel => if off = 0x20 then some 0x5 else none
  | .lane => if i < 128 ∧ 0x200 ≤ off then some 0 else if off = 0x8 then some ((if i < 128 then i else 0x7F) * 0x100) else none
  | .nv => if off = 0 then some 0x16161610 else none
  | .mr => if off = 0 then some 0x007F3F00 else none
  | .slice => if off = 0x10 then some 0x40 else none
  | _ => none

/-- What the register at a bus address reads as right after reset. -/
def regReset (a : Nat) : Word :=
  match classify a with
  | none => 0
  | some (b, i, off) =>
    match indexReset b i off with
    | some v => word v
    | none =>
      match findDef (blkDefs b) off with
      | none => 0
      | some (r, _) => word (fieldsReset r.fields)

end Sys2Proof.Machine
end

