-- ==== Sys2Proof/Machine/State.lean ====
section
/-! DEFINITION. The state of the block as plain data: the registers by address, the state no register shows, and
the queue of commands that wait; faults and refusals; the state right after reset. -/
namespace Sys2Proof.Machine

/-- Why the block stops. No rule of the spec stops the block on a command, so no meaning raises a fault (safe). -/
inductive Fault where
  /-- Raised by nothing: the spec names no condition that stops the block (log entry 9). Safe. -/
  | none
deriving DecidableEq, Repr

/-- Why a command has no meaning. -/
inductive Refusal where
  /-- Raised by an arm of `exec` for a command not modelled yet. Safe. -/
  | notModelled (mnemonic : String)
deriving DecidableEq, Repr


/-! ### The waymark channel -/

/-- The content of a waymark message that waits or is outstanding: code, named stage, ARG; whether it is port
scope (R103). -/
structure WMsg where
  code : Nat
  stage : Option Nat
  arg : Nat
  port : Bool
deriving DecidableEq, Repr

/-- An acknowledged message sent and not yet covered by an ACK (R105): its content, its SEQ, the stage field of
its first sending, the waymark symbols sent since its last and since its first sending. -/
structure OutMsg where
  msg : WMsg
  seq : Nat
  stage : Nat
  since : Nat
  first : Nat
deriving DecidableEq, Repr

/-- A swap this end's receiver runs on a pair (R205, R206): none, entries still being sent, the commit sent and
waiting for its reply. -/
inductive SwapPhase where
  | idle | entries | commit
deriving DecidableEq, Repr

/-! ### Pairs -/

/-- A reference transform: that of the transmit samples of the front end with global pair index `g` in a receive window, at subcarriers 0
to 511 (R17, R114, R125). -/
structure RefBins where
  g : Nat
  bins : List (Int × Int)
deriving DecidableEq, Repr

/-- The state of a pair that no register shows (R73, R105, R116 to R120, R131, R146 to R149, R165 to R168, R203). -/
structure PairSt where
  /-- PSD_OFFSET as latched at G0 entry (R108). -/
  psd : Nat
  /-- SEQ last used and SEQ last accepted of the pair's waymark channel (R105). -/
  seqTx : Nat
  seqRx : Nat
  /-- Outstanding acknowledged messages, oldest first (R105). -/
  outs : List OutMsg
  /-- SEQs of messages acted on ahead of their order (R105, the four exceptions). -/
  ahead : List Nat
  /-- Pair-scope messages waiting (R103, R104). -/
  waiting : List WMsg
  /-- Waymark symbols since the last STATUS (R104). -/
  sinceStatus : Nat
  /-- The bit swap or rate change this end's receiver runs on the pair, and the next index to send from. -/
  swap : SwapPhase
  nextEntry : Nat
  /-- Stages since the last swap of the receive direction was applied or declined (R203). -/
  sinceSwap : Nat
  /-- SWAP_ENTRY messages received since the last commit (R206), and entries held while COPY_BUSY is 1 (R205). -/
  rxEntries : Nat
  /-- SWAP_ENTRY messages sent since the last commit (R206). -/
  txEntries : Nat
  heldEntries : List Nat
  /-- The transmit or receive shadow is reloaded at the next stage boundary (R205). -/
  reloadTx : Bool
  reloadRx : Bool
  /-- Copies of the new active bank into the shadow still running, transmit and receive (R73). -/
  copyTx : Bool
  copyRx : Bool
  /-- The level of the detection in progress (R165), whether its header has been decoded (R168). -/
  detect : Option Nat
  hdrDone : Bool
  /-- The detector: samples in a row at or above the threshold, e(n) at the first of them (R165). -/
  detRun : Nat
  detFirst : Nat
  /-- The preamble level of the last burst that decoded whole (R165, R196). -/
  heardLevel : Nat
  /-- That detection lasts: the metric has not fallen below the threshold (R165). -/
  detLive : Bool
  /-- Analogue gain frozen on the last accepted greeting burst (R117). -/
  greetGain : Nat
  /-- Trim codes and analogue gain: MEM 0x9 (R150). -/
  trimR : Nat
  trimC : Nat
  /-- Sum and count of pilot SNR over the stages that decide exclusion (R180, R190). -/
  pilotSum : Nat
  pilotCount : Nat
  /-- Runs of stages: pilots below DEAD_SNR (R147), digital gain at a limit (R118), timing beyond 2 samples
  (R123), pilots good after a fallback (R219), missed waymark symbols (R200). -/
  deadRun : Nat
  gainRun : Nat
  timingRun : Nat
  restoreRun : Nat
  missRun : Nat
  /-- The E2 taps at their limit, each with its run of stages (R132). -/
  satTaps : List (Nat × Nat)
  /-- The slow digital gain in 1/64 of PAIR_AGC.DGAIN's unit (R118). -/
  gainFine : Int
  /-- Sum of the timing offsets that the pilots gave in this stage, in 1/512 sample, and how many (R121, R123). -/
  timeSum : Int
  timeCount : Nat
  /-- The reference transforms of the last receive windows, newest first (R125). -/
  refs : List (List RefBins)
  /-- The timing loop: the phase of the next window within an own sample, the pair's estimate of the far frequency, and its rate of change
  for each symbol, in 2^-40 (R121). -/
  trPhase : Int
  trFreq : Int
  trRate : Int
  /-- Energy of the shortening equaliser's input over this stage with the count of its samples, and over the stage whose level the slow
  gain holds (R118). -/
  energy : Nat × Nat
  gainRef : Option (Nat × Nat)
  /-- In BREAKOUT, the outputs of step 8 in the last windows, each with the window's start, newest first (R137). -/
  rxOut : List (Int × List (Int × Int))
  /-- Full-scale symbols of this stage, and of each of the last 1024 stages, newest first (R118). -/
  clipNow : Nat
  clips : List Nat
  /-- The far frequency measured in each of the last 64 stages, newest first, in 0.01 ppm (R121, R233). -/
  freqs : List Int
  /-- A stored-set refresh waits for the stage boundary (R131). -/
  storeDue : Bool
  /-- The pair of identities the stored set comes from (R189). -/
  storedIds : Option (Nat × Nat)
  /-- Analogue gain code held with the stored set and the trained set (R150). -/
  storedGain : Nat
  trainedGain : Nat
  /-- The sub-ADC that has failed (R120). -/
  badSub : Option Nat
  /-- Calibration touches the pair's receive measurement path (R146). -/
  stale : Bool
  /-- Stages of the averaging window still to run after that calibration (R146). -/
  staleLeft : Nat
  /-- The pair sends nothing: quiet in an EEI depth (R292). -/
  quiet : Bool
  /-- PATTERN bits to invert in the next data symbol (R42). -/
  injBits : Nat
  /-- The memory the coefficient snapshot was taken of (R149). -/
  snapMem : Nat
  /-- The PRBS polynomial that the far end announced for the pair (R53, R101). -/
  farPoly : Nat
  /-- The last 58 scrambled bits of PLAIN (R87) and the last 31 PRBS bits sent (R53), newest first. -/
  scrambler : List Bool
  prbsTx : List Bool
  /-- The last 58 bits that the descrambler of PLAIN took (R87), the last 31 of the PRBS checker (R53, R185), newest first, and how far
  that checker is towards its lock. -/
  descrambler : List Bool
  prbsRx : List Bool
  prbsRun : Nat
deriving DecidableEq, Repr

/-- Every pair right after reset. -/
def PairSt.reset : PairSt :=
  { psd := 12, seqTx := 0, seqRx := 0, outs := [], ahead := [], waiting := [], sinceStatus := 0, swap := .idle,
    nextEntry := 0, sinceSwap := 255, rxEntries := 0, txEntries := 0, heldEntries := [], reloadTx := false, reloadRx := false, copyTx := false, copyRx := false,
    detect := none, hdrDone := false, detRun := 0, detFirst := 0, heardLevel := 0, detLive := false, greetGain := 4, trimR := 0, trimC := 0, pilotSum := 0, pilotCount := 0,
    deadRun := 0, gainRun := 0,
    timingRun := 0, satTaps := [], gainFine := 0, timeSum := 0, timeCount := 0, refs := [], trPhase := 0, trFreq := 0, trRate := 0,
    energy := (0, 0), gainRef := none, rxOut := [], clipNow := 0,
    restoreRun := 0, missRun := 0, clips := [], freqs := [], storeDue := false, storedIds := none,
    storedGain := 0, trainedGain := 0, badSub := none, stale := false, staleLeft := 0, quiet := false, injBits := 0, snapMem := 0,
    farPoly := 3, scrambler := [], prbsTx := List.replicate 31 true, descrambler := [], prbsRx := [], prbsRun := 0 }

/-! ### Links -/

/-- What an agreed or waiting change does (R71, R225). -/
inductive ChangeKind where
  | swap (p : Nat) (d : Dir)
  | rate (tier : Nat) (d : Dir)
  | mode (bit : Nat) (on : Bool)
  | eei (depth : Nat)
  | fault (mask code : Nat)
  | retrain (cause : Nat) (full : Bool)
deriving DecidableEq, Repr

/-- An agreed change: its named stage, and in which directions it has applied (R198). -/
structure Change where
  stage : Nat
  kind : ChangeKind
  txDone : Bool
  rxDone : Bool
deriving DecidableEq, Repr

/-- A proposal of this end that waits for its reply (R46, R47, R212, R296). -/
structure Proposal where
  code : Nat
  stage : Nat
  arg : Nat
deriving DecidableEq, Repr

/-- The local EEI state of a link (R292 to R313). -/
structure EeiSt where
  /-- Agreed or current depth, the agreed entry stage, whether the pairs are in the depth. -/
  depth : Nat
  entry : Nat
  agreed : Bool
  inDepth : Bool
  /-- EEI_WAKE sent or received for the agreed entry: enter and wake at once (R309), and whether the peer sent it. -/
  enterWake : Bool
  peerWake : Bool
  /-- Cause of the wake in progress, pre-step started by the detector, pre-step done, confirmed, own alerts sent,
  peer's alerts received. -/
  waking : Option Nat
  detected : Bool
  preDone : Bool
  confirmed : Bool
  alertSent : Bool
  alertHeard : Bool
  /-- A partial fast retrain runs (R307). -/
  partialFr : Bool
  /-- Idle stages of host ingress, stages since the last refusal, abort or wake, refusal counted in this idle
  period, depth cap after a BUDGET refusal (R295, R296). -/
  idle : Nat
  hold : Nat
  refused : Bool
  cap : Nat
  /-- Budget and MAX_DEPTH in force (R294), µs of the wake cause and of entry. -/
  budget : Nat
  maxDepth : Nat
  wakeAt : Nat
  quietAt : Nat
  /-- EEI_ABORT sent for a proposal that still waits for its reply, with its code (R308). -/
  abortCode : Option Nat
  /-- EEI_WAKE is sent in every waymark symbol before the entry stage (R309). -/
  sendWake : Bool
  /-- Own stage count at which the partial fast retrain of Long Stay began (R307). -/
  partialAt : Nat
  /-- The receive direction has not yet resumed; symbols of the far end since its first alert symbol (R304). -/
  rxQuiet : Bool
  alertSyms : Option Nat
deriving DecidableEq, Repr

def EeiSt.reset : EeiSt :=
  { depth := 0, entry := 0, agreed := false, inDepth := false, enterWake := false, peerWake := false,
    waking := none, detected := false, preDone := false, confirmed := false, alertSent := false,
    alertHeard := false, partialFr := false, idle := 0, hold := 255, refused := false, cap := 3, budget := 0,
    maxDepth := 3, wakeAt := 0, quietAt := 0, abortCode := none, sendWake := false, partialAt := 0,
    rxQuiet := false, alertSyms := none }

/-- The state of a link, a port or a sub-link (R111, R154), that no register shows or that a register shows only
for the port. Phases are coded as PORT_STARTUP_STATUS.PHASE (R195). -/
structure LinkSt where
  phase : Nat
  fast : Bool
  /-- HALF_RATE as this end sent it at the last start-up (R174, R265). -/
  sentHalf : Bool
  ownId : Nat
  peerId : Nat
  initiator : Bool
  attempt : Nat
  peerAttempt : Nat
  level : Nat
  waitReply : Bool
  confirms : Nat
  confirmed : Bool
  setup : Bool
  peerPages : List Nat
  resolved : Nat
  maxTier : Nat
  resultWord : Nat
  /-- Step reached in G2: 0 to 14, seven of each slot (R128, R176). -/
  g2Step : Nat
  echoFail : Nat
  splitband : Bool
  sbAuto : Bool
  ownVerdict : Nat
  peerVerdict : Option Nat
  timingBad : Bool
  /-- Own transmit stage count, far stage count and whether the far count is known (R179, R197, R199). -/
  own : Nat
  far : Nat
  /-- The far count of the stage before (R207). -/
  farPrev : Nat
  synced : Bool
  adopted : Bool
  excluded : Nat
  /-- PORT_STARTUP_CFG.TIER and PORT_GREET_CFG as they stood at G0 entry (R194); the result of R184 has been
  decided. -/
  tier : Nat
  greetCfg : Nat
  decided : Bool
  /-- SET and stream of the tables this end computed, and (pair, SET, stream, CARRY) of the TABLE frames kept. -/
  ownStreams : List (Nat × Nat)
  peerTables : List (Nat × Nat × Nat × Nat)
  carry : Nat
  streamTx : Nat
  streamRx : Nat
  deadMask : Nat
  /-- Pairs that died in a fast retrain: the G3 that follows excludes them (R191). -/
  frExclude : Nat
  /-- Training of the running sequence has ended and its pairs are excluded (R180, R190). -/
  trained : Bool
  /-- This end has reached its own stage V and sends coaches (R188). -/
  coachOn : Bool
  verify : Nat
  farVerify : Nat
  errSyms : Nat
  showStage : Option Nat
  farShow : Option Nat
  startedAt : Nat
  showAt : Nat
  consecFail : Nat
  lastCause : Nat
  remoteCause : Nat
  /-- Stage F of the running fast retrain, its cause, its restarts (R190, R191). -/
  frStage : Nat
  frCause : Nat
  frRestarts : Nat
  /-- Pairs removed by fallback when the fast retrain began (R219). -/
  frDead : Nat
  /-- A waymark symbol was received in this stage (R300). -/
  rxSeen : Bool
  changes : List Change
  proposals : List Proposal
  /-- Withdrawn proposals to send again (R47), with whether the crossing one has been settled. -/
  withdrawn : List Proposal
  /-- Mode bits whose DECLINED reason stands, and the negotiated bits in effect (R46, R175). -/
  declined : Nat
  negotiated : Nat
  /-- The coding of the receive direction while a change of PLAIN has applied in one direction only (R198). -/
  plainRx : Option Bool
  /-- Mode changes whose retrain runs (R42, R45, R47). -/
  retrainModes : List (Nat × Bool)
  /-- Table exchanges of TRANSPARENT and PLAIN that wait for the running exchange or bit swap to end (R45, R46). -/
  modeAsk : List (Nat × Bool)
  /-- Port-scope messages waiting (R103), and messages accepted and not yet acted on. -/
  waiting : List WMsg
  inbox : List (Nat × Msg)
  /-- CRC_BAD coaches of this stage and of the last 64 stages, newest first (R145, R208). -/
  stageBad : Nat
  badHist : List Nat
  lossRun : Nat
  sinceFallback : Nat
  lossAfterFallback : Bool
  lossAsk : Bool
  downRun : Nat
  upRun : Nat
  disagree : Nat
  checkSent : Bool
  checkAcked : Bool
  missRun : Nat
  evalRun : Nat
  /-- A pair was declared dead in this stage: it takes precedence over receiver-caused retrain requests (R148). -/
  asked : Bool
  retrainOut : Bool
  /-- The tier (or 4 for TRANSPARENT, R58) whose entries this end is sending (R212), and the stages until a
  declined proposal may be tried again. -/
  rateWait : Option Nat
  rateHold : Nat
  rateTrig : Bool
  /-- A host request for another tier stands (R211). -/
  rateAsk : Bool
  capacityLow : Bool
  /-- Coach SEQ sent and expected (R93). -/
  coachTx : Nat
  coachRx : Option Nat
  /-- The waymark symbol of the running stage has been sent. -/
  wmSent : Bool
  /-- R193's limit, causes of the last retrain and link-down (R223, R224). -/
  limit : Bool
  lastRetrain : Nat
  lastDown : Nat
  /-- The running hold-off or back-off in slots of 31.25 µs (R170, R193). -/
  wait : Nat
  /-- Port-scope messages acted on: code, named stage, ARG (R103), newest first. -/
  seen : List (Nat × Nat × Nat)
  /-- Carrying set of the receive direction; `carry` is that of the transmit direction (R198, R215). -/
  carryRx : Nat
  eei : EeiSt
deriving DecidableEq, Repr

def LinkSt.reset : LinkSt :=
  { phase := 0, fast := false, sentHalf := false, ownId := 0, peerId := 0, initiator := false, attempt := 0, peerAttempt := 0,
    level := 0, waitReply := false, confirms := 0, confirmed := false, setup := false, peerPages := [],
    resolved := 0, maxTier := 0, resultWord := 0, g2Step := 0, echoFail := 0, splitband := false, sbAuto := false,
    ownVerdict := 0, peerVerdict := none, timingBad := false, own := 0, far := 0, farPrev := 0, synced := false, adopted := false,
    tier := 0, greetCfg := 0, decided := false, excluded := 0, ownStreams := [], peerTables := [], carry := 0, streamTx := 0, streamRx := 0, deadMask := 0,
    frExclude := 0, trained := false, coachOn := false, verify := 0, farVerify := 0, errSyms := 0, showStage := none, farShow := none, startedAt := 0, showAt := 0,
    consecFail := 0, lastCause := 0, remoteCause := 0, frStage := 0, frCause := 0, frRestarts := 0, frDead := 0, rxSeen := false, changes := [],
    proposals := [], withdrawn := [], declined := 0, negotiated := 0, plainRx := none, retrainModes := [], modeAsk := [], waiting := [], inbox := [], stageBad := 0,
    badHist := [], lossRun := 0, sinceFallback := 64, lossAfterFallback := false, lossAsk := false, downRun := 0,
    upRun := 0, disagree := 0, checkSent := false, checkAcked := false, missRun := 0, evalRun := 0, asked := false,
    retrainOut := false, rateWait := none, rateHold := 0, rateTrig := false, rateAsk := false, capacityLow := false, coachTx := 63,
    coachRx := none, wmSent := false, limit := false, lastRetrain := 0, lastDown := 0, wait := 0, seen := [],
    carryRx := 0, eei := EeiSt.reset }

/-! ### The Timetable and the Hostel -/

/-- Where a frame stands (R242, R243). -/
inductive FrameState where
  | candidate | accepted | refused
deriving DecidableEq, Repr

/-- A frame, ordered set or codeword stored in the Hostel: its 257-bit blocks not yet sent, whether any has been
sent, whether its Terminate block is in, its banks (one for each bed held), its block count, its arrival and
deadline in ns, whether it entered under TIMETABLE, whether it is an ordered set. -/
structure Frame where
  state : FrameState
  blocks : List Nat
  count : Nat
  sent : Bool
  closed : Bool
  banks : List Nat
  arrive : Rat
  deadline : Rat
  tt : Bool
  os : Bool
  /-- It came after the notice of a test-mode change and waits for the new route (R50). -/
  held : Bool
  /-- It is no frame but control blocks received outside one (R32). -/
  stray : Bool
  /-- The last block that left holds an error control block: nothing more of the frame need come (R232, R245). -/
  err : Bool
deriving DecidableEq, Repr

/-- An RS codeword that waits for CODEWORD coaches (R246, R259): its deadline (none outside TIMETABLE or where the pattern stands for
it), its beds, and whether the alignment markers lie in its pair. -/
structure CwUnit where
  due : Option Rat
  banks : List Nat
  mark : Bool
  /-- It came after the notice of a test-mode change and waits for the new route (R50). -/
  held : Bool
deriving DecidableEq, Repr

/-- The queues of a link in the Timetable (R233, R241): capacity in bits per data symbol, the agreed new capacities,
each with its stage or none for one that a drain point brings (R50), the far egress capacity in bits per ns, the virtual finish time, the lag of the last queued block,
the transmit queue and the receive queue. -/
structure QueueSt where
  cap : Nat
  capNew : List (Nat × Option Nat)
  far : Rat
  vf : Option Rat
  lastLag : Rat
  tx : List Frame
  rx : List Frame
  /-- A frame that received coaches are filling is open. -/
  rxOpen : Bool
  /-- The rest of a frame removed from the receive queue is dropped to its end (R237, R256). -/
  rxDrop : Bool
  /-- The transmit queue was flushed and the link has not been in showtime since (R257). -/
  flushed : Bool
  /-- Blocks that the coach framer may still take by the far egress capacity (R233). -/
  pace : Rat
  /-- The receive part in force at the first data symbol of the coach being received, in 0.1 ns (R248). -/
  rxPartAt : Option Nat
  /-- Pairs of codewords waiting for CODEWORD coaches, in lane order, with two units for each pair that has bits left; and received
  bits, each with whether it came in a CRC_BAD coach (R98, R258, R259). -/
  cwTx : List Bool
  cwUnits : List CwUnit
  cwRx : List (Bool × Bool)
  /-- The deadline of each whole pair in `cwRx` (R247, R259), and pairs since the last one with alignment markers. -/
  cwRxDue : List (Option Rat)
  cwAm : Option Nat
  /-- Coaches returned under LOOP_FAR that wait: TYPE and blocks (R52). -/
  loop : List (Nat × List Nat)
  /-- Coach bits not yet laid on the line, and data symbols sent in this stage (R94, R95). -/
  stream : List Bool
  symbol : Nat
  /-- In REACH, coded bits not yet laid on the line and interleave pairs sent in this stage (R89, R90). -/
  coded : List Bool
  ilv : Nat
  /-- Data symbols received in the running far stage, the coach-stream bits not yet taken as coaches, each with whether it lies in a
  codeword that failed, and in REACH the coded bits and interleave pairs received in the stage (R89 to R91, R94). -/
  rxSym : Nat
  rxBits : List (Bool × Bool)
  rxCoded : List Bool
  rxIlv : Nat
deriving DecidableEq, Repr

def QueueSt.reset : QueueSt :=
  { cap := 0, capNew := [], far := 403125 / 1000, vf := none, lastLag := 0, tx := [], rx := [],
    rxOpen := false, rxDrop := false, flushed := true, pace := 0, rxPartAt := none, cwTx := [], cwUnits := [], cwRx := [],
    cwRxDue := [], cwAm := none, loop := [], stream := [], symbol := 0, coded := [], ilv := 0, rxSym := 0, rxBits := [],
    rxCoded := [], rxIlv := 0 }

/-- The ingress and egress of a port (R229 to R232, R252 to R256). -/
structure HostPort where
  /-- The 64b/66b blocks of the 257b block being formed, oldest first; whether a frame is open, its sub-link, its
  length in bytes, whether it is dropped to its Terminate block. -/
  group : List HostBlock
  isOpen : Bool
  sub : Option Pair
  length : Nat
  dropping : Bool
  lastOs : Option Nat
  opened : Bool
  /-- The last ordered set received for the egress, and blocks ready to leave. -/
  egressOs : Option Nat
  egress : List HostBlock
  turn : Nat
  /-- A generated frame waiting: its pause time (R254); when the last one entered; the condition holds. -/
  fcWait : Option Nat
  fcAt : Option Rat
  fcBetween : Bool
  xoffOn : Bool
  tailAt : Option Nat
  /-- The frame rule of the frame now opening: a TIMETABLE change waits (R45). -/
  ttWait : Bool
  /-- The frame that is dropped was closed by R230. -/
  cut : Bool
  /-- 257b blocks without a write slot that wait in the host ingress stage: their 66b blocks, whether they close their frame, their
  arrival (R36). -/
  stage : List (List HostBlock × Bool × Rat)
  /-- The egress of a completed switch waits for a codeword boundary (R279). -/
  resume : Bool
deriving DecidableEq, Repr

def HostPort.reset : HostPort :=
  { group := [], isOpen := false, sub := none, length := 0, dropping := false, lastOs := none, opened := false,
    egressOs := none, egress := [], turn := 0, fcWait := none, fcAt := none, fcBetween := false, xoffOn := false,
    tailAt := none, ttWait := false, cut := false, stage := [], resume := false }

/-! ### Ports -/

/-- The mode state of a port that no register shows (R45 to R50, R590). -/
structure PortSt where
  /-- Local mode bits in effect, and local bits whose change waits, with the value that waits. -/
  localOn : Nat
  localWait : Nat
  localVal : Nat
  /-- Negotiated bits written while a change of the same bit is pending (R47). -/
  rewritten : Nat
  /-- Pairs on which this end sends PRBS, and its polynomial, as last announced (R53). -/
  patMask : Nat
  patPoly : Nat
  /-- Pairs on which the far end sends PRBS (R53). -/
  farPmask : Nat
  /-- The front ends and slices of the port are powered off (R367). -/
  frontOff : Bool
deriving DecidableEq, Repr

def PortSt.reset : PortSt :=
  { localOn := 0, localWait := 0, localVal := 0, rewritten := 0, patMask := 0, patPoly := 3, farPmask := 0,
    frontOff := false }

/-! ### Host lanes -/

/-- The state of a host lane that no register shows (R265 to R269, R281, R283 to R287, R550): the rate, precoding and
inversion in force since the lane was enabled; a revert waits for the lane; the eye-scan job that runs, if a command
runs it; PRBS bits still to invert; the lane waits for its octet's HPLL;
a type-3 REPAIR entry held it FAILED at boot; its transmitter's blocks, scrambler, bits and pairs of codewords not yet sent, the last
symbols that its precoders have sent and received; the last bits of its pattern generator and the place in the user pattern. -/
structure LaneSt where
  half : Bool
  preTx : Bool
  preRx : Bool
  invTx : Bool
  invRx : Bool
  revert : Bool
  eyeJob : Nat
  inject : Nat
  hpllDown : Bool
  barred : Bool
  txBlocks : List HostBlock
  txScrambler : List Bool
  txBits : List Bool
  txPairs : Nat
  txLast : Nat
  rxLast : Nat
  patternTx : List Bool
  patternAt : Nat
  /-- The receiver (R228, R275): bits not yet taken; the PCS lane found at each place of the multiplex, none while alignment is
  sought, and the symbols of each that wait for the others; the deskewed bits of the running pair of codewords; pairs since the
  markers; that the running pair is not to be taken (R275); descrambler; blocks recovered and not yet taken by the port; which of the
  last 512 codewords were uncorrectable, newest first (R277). -/
  rxBits : List Bool
  rxCols : List Nat
  rxSyms : List (List Nat)
  rxPair : List Bool
  rxPairs : Nat
  rxSkip : Bool
  rxScrambler : List Bool
  rxBlocks : List HostBlock
  rxUncorr : List Bool
  /-- The checker (R287): bits before the next, newest first, received until it locks and predicted after; symbols in a row that matched;
  which of the last 256 symbols did not, newest first. -/
  checkBits : List Bool
  checkRun : Nat
  checkMiss : List Bool
deriving DecidableEq, Repr

def LaneSt.reset : LaneSt :=
  { half := false, preTx := false, preRx := false, invTx := false, invRx := false, revert := false, eyeJob := 0, inject := 0,
    hpllDown := false, barred := false, txBlocks := [], txScrambler := [], txBits := [], txPairs := 0, txLast := 0, rxLast := 0,
    patternTx := [], patternAt := 0, rxBits := [], rxCols := [], rxSyms := [], rxPair := [], rxPairs := 0, rxSkip := false,
    rxScrambler := [], rxBlocks := [], rxUncorr := [], checkBits := [], checkRun := 0, checkMiss := [] }

/-! ### Tiles -/

/-- A crossbar change that waits for its boundary (R19, R20): front end, the slice to connect, whether a fault asked for
it, and for a maintenance swap the slice it replaces. -/
structure XChange where
  fe : Nat
  slice : Nat
  fault : Bool
  old : Nat
deriving DecidableEq, Repr

/-- The stage a maintenance swap has reached (R538): coefficient copy, shadow run, switch at a boundary, or waiting for
the port's next showtime (R351, R539). -/
inductive SwapStage where
  | copy | shadow | switch | wait
deriving DecidableEq, Repr

/-- A maintenance swap under way on a tile (R538): the slice replaced, the spare, its stage, whether it swaps back, and
the claim it runs under. -/
structure MSwap where
  old : Nat
  spare : Nat
  stage : SwapStage
  back : Bool
  handle : Nat
deriving DecidableEq, Repr

/-- The state of a tile that no register shows: its link has failed in service (R27); it is under TILE_RESET and which
job answers it (R375, R432); crossbar changes and maintenance swaps under way. -/
structure TileSt where
  linkDown : Bool
  inReset : Bool
  changes : List XChange
  swaps : List MSwap
  /-- Link-layer retries of the tile link (R27). -/
  retries : Nat
  /-- When the tile's LPLL last switched, until the switch is found to have been forced (R345). -/
  switchAt : Option Nat
  /-- Wires of the tile link that a spare wire stands in for, assigned at boot (R27): wire and spare. -/
  wires : List (Nat × Nat)
deriving DecidableEq, Repr

def TileSt.reset : TileSt := { linkDown := false, inReset := false, changes := [], swaps := [], retries := 0, switchAt := none, wires := [] }

/-! ### Diagnostics -/

/-- The state of a pair's diagnostics (R317 to R331): the REFLECT run in the fallen-pair context (false: port idle), the
job of a run, the history ring as (SEQ, words 1 to 3), newest first, the last eight profiles as (SEQ, cause, values),
newest first, and what the period has gathered: lowest LQ, lowest margin, highest EVM, flags, whether any fresh value. -/
structure DiagSt where
  fallen : Bool
  /-- The snapshot of a MAPS run: victim pair, map, subcarrier, value (R325). -/
  snap : List (Nat × Nat × Nat × Nat)
  job : Nat
  recs : List (Nat × Nat × Nat × Nat)
  profiles : List (Nat × Nat × List Nat)
  lqMin : Nat
  marginMin : Int
  evmMax : Int
  flags : Nat
  fresh : Bool
  crcBase : Nat
deriving DecidableEq, Repr

def DiagSt.reset : DiagSt :=
  { fallen := false, snap := [], job := 0, recs := [], profiles := [], lqMin := 0, marginMin := 0, evmMax := 0, flags := 0, fresh := false,
    crcBase := 0 }

/-! ### Power -/

/-- The state of a power domain (R366, R370 to R374, R385): STATE and WAKES of PWR_DOM_DATA, REG_AWAKE, the state to
return to. -/
structure DomSt where
  state : Nat
  wakes : Nat
  awake : Bool
  prior : Nat
  /-- The domain is powering down (R371). -/
  down : Bool
deriving DecidableEq, Repr

/-- A domain right after a reset of device scope, before boot step 5: AON, the hub core and Hostel groups 0 to 7 are ON,
Hostel group 8, tiles, front ends, slices and octets OFF (R366, R380, R381). -/
def DomSt.reset (id : Nat) : DomSt :=
  { state := if id < 2 ∨ (0x010 ≤ id ∧ id < 0x018) then 3 else 0, wakes := 0, awake := false, prior := 0, down := false }

/-! ### Commands, jobs and claims -/

/-- A command packet accepted from a ring (R398, R404): its call, opcode and CRC. -/
structure Pkt where
  call : Call
  op : Nat
  crc : Nat
deriving DecidableEq, Repr

/-- A reply kept for retransmissions (R404): the command, STATUS, results, and when it was sent. -/
structure Kept where
  pkt : Pkt
  status : Nat
  body : List Nat
  at_ : Nat
deriving DecidableEq, Repr

/-- An entry of the REPAIR body (R509). -/
structure Repair where
  ty : Nat
  unit : Nat
  elem : Nat
  spare : Nat
deriving DecidableEq, Repr

/-- What a waiting claim is for (R487, R527, R531, R534, R542): a host command, a calibration run, a test of a FAILED
slice or a FENCED bank, REPAIR entries to add and to remove. -/
inductive Why where
  | command (p : Pkt)
  | cal (item target : Nat)
  | test (unit : Nat)
  | repair (add remove : List Repair)
deriving DecidableEq, Repr

/-- A claim that waits (R542): kind and resource (R430), the pair it concerns (R540 P), the holder-to-be (0xFF internal) and its purpose. -/
structure Waiting where
  kind : Nat
  res : Nat
  pair : Option Nat
  src : Nat
  why : Why
deriving DecidableEq, Repr

/-- A claim held (R431): handle, kind, resource, the pair it concerns, holder (0xFF
internal), whether CNC_CLAIM took it. -/
structure Claim where
  handle : Nat
  kind : Nat
  res : Nat
  pair : Option Nat
  src : Nat
  byClaim : Bool
deriving DecidableEq, Repr

/-- A job that runs (R427, R428): number, opcode, host agent and tag of its command, its claim (0 none), whether the job
took the claim, what it runs on, runs done and refused (DIAG_MAPS) or points still to scan and error counts found
(HL_EYE_SCAN). -/
structure Job where
  num : Nat
  op : Nat
  src : Nat
  tag : Nat
  handle : Nat
  owns : Bool
  res : Nat
  left : Nat
  done : Nat
  refused : Nat
  grid : List (Int × Int)
  errs : List Nat
deriving DecidableEq, Repr

/-- A completion on its way through the collector (R445): when it became ready, its tile (8 for the hub) and its port, lane,
bank or unit number; a job ends, or one MAPS run of a job ends. -/
structure Completion where
  ready : Nat
  tile : Nat
  unit : Nat
  job : Nat
  status : Nat
  arg : Nat
  run : Bool
deriving DecidableEq, Repr

/-- The stage of a unit test (R537, R538, R544 STEP): waiting for a claim or a drain, swapping, testing, swapping back. -/
inductive TestStage where
  | wait | swap | test | back
deriving DecidableEq, Repr

/-- A unit test under way (R530 to R538): the unit as a BIST RESOURCE (R430), its claim, its job (0 none), whether it
belongs to the periodic sweep, its stage, the slice that a swap put in its place (0x7F none), and a result word to report
once a swap back has ended. -/
structure Test where
  unit : Nat
  handle : Nat
  job : Nat
  periodic : Bool
  stage : TestStage
  spare : Nat
  result : Nat
deriving DecidableEq, Repr

/-! ### Calibration -/

/-- An item-target (R484 to R498). Set points are lists of fields in 1/16 of the trim LSB, at −5, 25, 55, 85 and 110 °C;
`trims` in LSB. -/
structure CalSt where
  state : Nat
  stale : Bool
  lastFail : Bool
  cause : Nat
  tLast : Option Int
  at_ : Nat
  count : Nat
  time : Nat
  fails : Nat
  dev : Int
  points : List (List Int)
  trims : List Int
  /-- Rejections in a row; no run since a boot with defaults; a deferral stands; jobs that ask for a run. -/
  inRow : Nat
  first : Bool
  deferred : Bool
  asked : List Nat
deriving DecidableEq, Repr

def CalSt.reset : CalSt :=
  { state := 0, stale := false, lastFail := false, cause := 0, tLast := none, at_ := 0, count := 0, time := 0, fails := 0,
    dev := 0, points := [], trims := [], inRow := 0, first := true, deferred := false, asked := [] }

/-- A calibration run in progress (R487): item, target, its claim, and whether compatibility mode was set as it began (R494). -/
structure CalRun where
  item : Nat
  target : Nat
  handle : Nat
  compat : Bool
deriving DecidableEq, Repr

/-! ### Non-volatile store and Guestbook -/

/-- A partition open for writing (R440): partition, bank, holder, claim. -/
structure NvOpen where
  part : Nat
  bank : Nat
  src : Nat
  handle : Nat
deriving DecidableEq, Repr

/-- The header of a FIRMWARE bank whose body is empty: SEQUENCE 1, version 0x0001_0000 (R503; log entry 5). -/
def firmwareHeader : List Nat :=
  [0x00, 0xA5, 0x20, 0x51, 1, 0, 0, 0, 0, 0, 0, 0, 0, 0, 0, 0, 0, 0, 1, 0, 0, 0, 0, 0, 0, 0, 0, 0, 0xD6, 0xA9, 0x14, 0x1A]

/-- What a byte of MRAM that nothing has written reads as: Guestbook slots 0xFF (R519), FIRMWARE bank A a valid header,
the power-cycle count of the SYSTEM area 1, every other
byte 0, so that the other banks are EMPTY (R504; log entry 5). -/
def mramReset (a : Nat) : Byte :=
  if a < 32 then BitVec.ofNat 8 (firmwareHeader.getD a 0)
  else if 0x600000 ≤ a ∧ a < 0x700000 then 0xFF
  else if a = 0x7A0004 then 1 else 0

/-! ### The hub -/

/-- The state of the hub's clocks, ring, locks, configuration check, Porter and debug port that no register shows. -/
structure HubSt where
  /-- When REFCLK and the hub PLL were lost (R349, R359); clock domains still to switch (R343: 1 MCLK, 2 RCLK, 3 FCLK);
  REFCLK has been qualified since the last cold reset. -/
  refLostAt : Option Nat
  hubLostAt : Option Nat
  switches : List Nat
  everQual : Bool
  /-- PLLs that lost lock by themselves, not with REFCLK: bit o HPLL o, bit 20 + 2t LPLL-M and 21 + 2t LPLL-S of tile t (R353,
  R354). -/
  pllLost : Nat
  /-- References found out of limits since their last good check: bit 0 VREF, bit 1 RCAL (R482). -/
  refBad : Nat
  /-- When boot step 1 began; a reset of device scope lasts; the reply to DEVICE_RESET has been sent and the reset
  follows; rails lost since the last boot (event 0x1061, R386); a boot from the boot ROM is due (R382), bank loaded. -/
  bootAt : Nat
  resetting : Bool
  resetDue : Bool
  railsLost : Nat
  watchdogLimit : Bool
  /-- When each ring input lost sync (R409); the bypass is closed (R392). -/
  lost0 : Option Nat
  lost1 : Option Nat
  /-- When the last epoch was accepted, and the µs of its HOLD (R417). -/
  epochAt : Nat
  epochHold : Nat
  /-- INT_SEQ, and that of the last INTERRUPT notice; bits of the summary already notified; notices due as (TYPE, RING, ARG). -/
  intSeq : Nat
  intLast : Nat
  notified : Nat
  notices : List (Nat × Nat × Nat)
  /-- The open unlock window: when opened and by which master (R470). -/
  window : Option (Nat × Nat)
  /-- The commit that runs: its cause and the command it answers; commits that wait (R464); segments to re-commit with
  their cause (R467); a mismatch episode and its clean passes (R465). -/
  commit : Option (Nat × Option Call)
  commits : List (Nat × Option Call)
  recommit : List (Nat × Nat)
  episode : Bool
  passes : Nat
  /-- Accesses that wait for a domain's wake (R371). -/
  wakes : List BusAccess
  /-- Completions accepted while the Porter is halted (R445, R555). -/
  porterQ : List Completion
  /-- The DAP register (R552): STATE, ADDR, RDATA; the board-test instruction loaded (R550). -/
  dapState : Nat
  dapAddr : Nat
  dapData : Nat
  boardTest : Option Nat
  /-- A board test has ended and the ring inputs are not both in sync again: the bypass is still closed (R550). -/
  rejoin : Bool
  /-- The TAP instruction loaded (R548), and the boundary register as last updated (R549). -/
  ir : Nat
  boundary : List (BoundaryCell × Bool)
  /-- TEMP_ALERT_N is driven low, since when (R576). -/
  tempAlert : Option Nat
  /-- Last job number and last claim handle (R427, R431). -/
  jobNum : Nat
  handle : Nat
  /-- The sweep's second round over skipped units, and those units with the reason (R531, R547). -/
  retrying : Bool
  skipped : List (Nat × Nat)
  /-- Operating seconds at the time `opAt` (R513). -/
  opBase : Nat
  opAt : Nat
  /-- When the window of the Guestbook rate limit began, in operating seconds (R518). -/
  rateStart : Nat
  /-- BIST starts fallen due during a halt (R555). -/
  bistDue : Nat
  /-- A RELOAD of the configuration check waits for the Porter (R555); the CONFIG image loaded at boot as its SEQUENCE and its
  (address, value) entries (R466, R508). -/
  reloadDue : Bool
  image : Option (Nat × List (Nat × Nat))
  /-- The highest junction temperature at the halt of the Porter (R555); the VDD_CORE voltage last commanded, in mV; with ENABLE
  0, 0.80 V has been commanded (R364). -/
  haltTemp : Int
  avsMv : Nat
  avsOnce : Bool
deriving DecidableEq, Repr

/-- Beds of the Hostel in use: by bank, and those of the shared pool (R235). -/
structure BedUse where
  used : SMap Nat
  shared : Nat
deriving DecidableEq, Repr

/-- The hub right after a cold reset. -/
def HubSt.reset : HubSt :=
  { refLostAt := none, hubLostAt := none, switches := [], everQual := false, pllLost := 0, refBad := 0, bootAt := 0, resetting := false, resetDue := false,
    railsLost := 0, watchdogLimit := false, lost0 := none, lost1 := none, epochAt := 0, epochHold := 0, intSeq := 0, intLast := 0,
    notified := 0, notices := [], window := none, commit := none, commits := [], recommit := [],
    episode := false, passes := 0, wakes := [], porterQ := [], dapState := 0, dapAddr := 0, dapData := 0,
    boardTest := none, rejoin := false, ir := 2, boundary := [], tempAlert := none, jobNum := 0, handle := 0, retrying := false, skipped := [], opBase := 0, opAt := 0, rateStart := 0,
    bistDue := 0, reloadDue := false, image := none, haltTemp := 0, avsMv := 800, avsOnce := false }

/-! ### What leaves the device, and events -/

/-- An event raised for the Guestbook (R514): code, severity (0 informational, 1 warning, 2 error), parameters. -/
structure Event where
  code : Nat
  sev : Nat
  params : List Nat
deriving DecidableEq, Repr

/-- What the block sends to the outside, in order (log entry 8). -/
inductive Out where
  /-- A burst: TYPE, header, pages; the lines and signs of its preamble, its level in 0.5 dB, its symbols (R159 to R163). -/
  | burst (l : LinkId) (kind : Nat) (hdr : Nat) (pages : List Nat) (lines : List (Nat × Nat × Nat)) (signs : List Int) (level : Int)
      (syms : List LineSymbol)
  /-- A pair's waymark symbol with its message (R99). -/
  | waymark (l : LinkId) (p : Nat) (m : Msg) (sym : LineSymbol)
  | coach (l : LinkId) (c : Coach)
  /-- A pair's data symbol with the labels it carries (R84 to R86). -/
  | symbol (l : LinkId) (p : Nat) (labels : List Nat) (sym : LineSymbol)
  /-- A start-up frame and its data symbols (R182). -/
  | startupFrame (l : LinkId) (p : Nat) (f : SuFrame) (syms : List LineSymbol)
  /-- Successive training or PRBS data symbols of a pair (R176, R185). -/
  | training (l : LinkId) (p : Nat) (syms : List LineSymbol)
  /-- The chirp on a pair: its level and lines (R319). -/
  | chirp (n p : Nat) (level : Int) (lines : List (Nat × Nat))
  | hostBlock (n : Nat) (b : HostBlock)
  /-- PAM4 levels of a host lane (R267 to R269). -/
  | lane (h : Nat) (levels : List Int)
  /-- The transmitter of a lane: c(-1), c(0), c(1) in 1/128 and the peak differential output in mVppd (R270). -/
  | ffe (h : Nat) (taps : List Int) (peak : Nat)
  /-- The alert symbols of a pair (R303). -/
  | alert (l : LinkId) (p : Nat) (syms : List LineSymbol)
  /-- A packet of the device's own, and one forwarded, on a ring output: its bytes and its ten-bit codes (R388, R391). -/
  | packet (ring : Nat) (bytes : List Nat) (codes : List Nat)
  | forward (ring : Nat) (bytes : List Nat) (codes : List Nat)
  | readData (x : BusAccess) (v : Word) (status : Nat)
  | avs (mv : Nat)
  | pins (cells : List (BoundaryCell × Bool))
  | tdo (bits : List Bool)
deriving DecidableEq, Repr

/-! ### The state -/

/-- The state of the block. `pending` is the queue of commands that wait. -/
structure State where
  /-- µs of ACLK time since reset. -/
  now : Nat
  /-- The next free value to take (the model's own field, log entry 3). -/
  free : Nat
  regs : SMap Word
  ports : SMap PortSt
  pairs : SMap PairSt
  links : SMap LinkSt
  queues : SMap QueueSt
  hosts : SMap HostPort
  lanes : SMap LaneSt
  /-- The host lane that serves each port (R24, R278). -/
  laneOf : SMap Nat
  tbl : SMap Nat
  held : SMap Nat
  snr : SMap Nat
  erle : SMap Nat
  /-- By pair and subcarrier: the sum of |e(k)|² over this stage with its count, the running average σ²(k) in 1/256 of its unit
  (R141, R142), and the noise power of G2 (R128). -/
  errs : SMap (Nat × Nat)
  sigma : SMap Nat
  noise : SMap Nat
  /-- Coefficient entries written or gathered, and the training that left the others (R149, R150). -/
  coef : SMap (Option Word)
  seeds : SMap Nat
  banks : BedUse
  /-- Spare rows in use, as a mask, by slice and instance or bank (R534). -/
  rows : SMap Nat
  tiles : SMap TileSt
  diags : SMap DiagSt
  /-- Loss and crosstalk maps (R325) and reflection traces (R320). -/
  maps : SMap Nat
  traces : SMap Nat
  doms : SMap DomSt
  cals : SMap CalSt
  calRuns : List CalRun
  /-- What CALIB bodies written by this device hold: the body and the item-targets saved with it, newest first (R497, R510). -/
  calSaved : List (List Nat × SMap CalSt)
  /-- Commands queued and in the executors, in arrival order; replies retained, oldest first (R400, R404). -/
  queued : List Pkt
  running : List Pkt
  kept : List Kept
  jobs : List Job
  /-- Job records not read, oldest first (R429); the grids of the last four eye scans: job, points, error counts. -/
  records : List (List Nat)
  eyes : List (Nat × Nat × List Nat)
  completions : List Completion
  claims : List Claim
  waiting : List Waiting
  /-- Internal requests that found 48 internal claims waiting (R542). -/
  later : List Waiting
  /-- Commands whose claim was granted while the Porter was halted, with the handle: they run after RESUME (R555). -/
  granted : List (Pkt × Nat)
  tests : List Test
  nvOpen : List NvOpen
  /-- The MRAM, by byte address (R501). -/
  mram : SMap Byte
  /-- The Guestbook RAM queue: slot and record (R514); limits of codes; codes of the running window with records accepted
  and suppressed (R518). -/
  gbQueue : List (Nat × List Nat)
  gbLimits : List (Nat × Nat)
  gbWindow : List (Nat × Nat × Nat)
  /-- Shadows and pending high words of 64-bit counters, by 2 × address + master (R454, R455). -/
  shadows : SMap Word
  highs : SMap Word
  /-- Core registers and memories of the active Porter pair, as the debugger reaches them (R554). -/
  core : SMap (Option Word)
  hub : HubSt
  raised : List Event
  out : List Out
  pending : List Instr
deriving DecidableEq, Repr

def State.reset : State :=
  { now := 0, free := 0, regs := [], ports := [], pairs := [], links := [], queues := [], hosts := [], lanes := [], laneOf := [],
    tbl := [],
    held := [], snr := [], erle := [], errs := [], sigma := [], noise := [], coef := [], seeds := [], banks := ⟨[], 0⟩, rows := [], tiles := [], diags := [], maps := [], traces := [], doms := [], cals := [],
    calRuns := [], calSaved := [], queued := [], running := [], kept := [], jobs := [], records := [], eyes := [], completions := [], claims := [],
    waiting := [], later := [], granted := [], tests := [], nvOpen := [], mram := [], gbQueue := [], gbLimits := [], gbWindow := [],
    shadows := [], highs := [], core := [], hub := HubSt.reset, raised := [], out := [], pending := [] }

end Sys2Proof.Machine
end

