-- ==== Sys2Proof/Machine/Ops.lean ====
section
/-! DEFINITION. The named operations over the state: registers and their fields, the sparse stores of the state no
register shows, counters, events, interrupt bits, free values, what leaves the block. -/
namespace Sys2Proof.Machine

/-! ### Registers -/

/-- The stored word at a bus address. -/
def State.reg (s : State) (a : Nat) : Word := SMap.get regReset s.regs a

/-- Write the stored word at a bus address. -/
def State.setReg (s : State) (a : Nat) (v : Word) : State := { s with regs := SMap.put regReset s.regs a v }

/-- Replace bits [hi:lo] of `w` by the low bits of `v`. -/
def insertBits (w hi lo v : Nat) : Nat :=
  w % 2 ^ lo + v % 2 ^ (hi + 1 - lo) * 2 ^ lo + w / 2 ^ (hi + 1) * 2 ^ (hi + 1)

/-- The value of a register field. -/
def State.fld (s : State) (f : Fld) : Nat := bits (s.reg f.addr).toNat f.hi f.lo

/-- Write a register field; the other bits of its word stay. -/
def State.setFld (s : State) (f : Fld) (v : Nat) : State :=
  s.setReg f.addr (word (insertBits (s.reg f.addr).toNat f.hi f.lo v))

/-- A one-bit field as a Bool. -/
def State.flag (s : State) (f : Fld) : Bool := s.fld f != 0

/-- Put a field back to its reset value. -/
def State.clearReg (s : State) (a : Nat) : State := s.setReg a (regReset a)

/-- Count one in a 32-bit counter that wraps. -/
def State.inc (s : State) (a : Nat) : State := s.setReg a (s.reg a + 1)

/-- Count `k` in a 32-bit counter that wraps. -/
def State.addTo (s : State) (a k : Nat) : State := s.setReg a (s.reg a + word k)

/-- The value of a 64-bit counter (R454). -/
def State.val64 (s : State) (a : Nat) : Nat := (s.reg a).toNat + (s.reg (a + 4)).toNat * 2 ^ 32

/-- Write a 64-bit counter, both words at once. -/
def State.set64 (s : State) (a v : Nat) : State := (s.setReg a (word v)).setReg (a + 4) (word (v / 2 ^ 32))

/-- Count `k` in a 64-bit counter. -/
def State.add64 (s : State) (a k : Nat) : State := s.set64 a (s.val64 a + k)

/-- Count one in a 64-bit counter. -/
def State.inc64 (s : State) (a : Nat) : State := s.add64 a 1

/-- The state of a Hostel bank: 0 IN_SERVICE, 1 SPARE, 2 DRAINING, 3 FENCED (R236, R260). -/
def bankState (s : State) (b : Nat) : Nat :=
  bits (s.reg (HOSTEL_BANK_STATE (b / 16))).toNat (2 * (b % 16) + 1) (2 * (b % 16))

/-! ### The stores -/

/-- The key of a link: 5n for a port, 5n + 1 + p for a sub-link. -/
def linkKey (l : LinkId) : Nat := 5 * l.n.val + (match l.sub with | none => 0 | some p => 1 + p.val)

/-- The global pair index (R12). -/
def gpair (n p : Nat) : Nat := 4 * n + p

def State.port (s : State) (n : Nat) : PortSt := SMap.get (fun _ => PortSt.reset) s.ports n
def State.setPort (s : State) (n : Nat) (v : PortSt) : State :=
  { s with ports := SMap.put (fun _ => PortSt.reset) s.ports n v }
def State.modPort (s : State) (n : Nat) (g : PortSt → PortSt) : State := s.setPort n (g (s.port n))

def State.pair (s : State) (n p : Nat) : PairSt := SMap.get (fun _ => PairSt.reset) s.pairs (gpair n p)
def State.setPair (s : State) (n p : Nat) (v : PairSt) : State :=
  { s with pairs := SMap.put (fun _ => PairSt.reset) s.pairs (gpair n p) v }
def State.modPair (s : State) (n p : Nat) (g : PairSt → PairSt) : State := s.setPair n p (g (s.pair n p))

def State.link (s : State) (l : LinkId) : LinkSt := SMap.get (fun _ => LinkSt.reset) s.links (linkKey l)
def State.setLink (s : State) (l : LinkId) (v : LinkSt) : State :=
  { s with links := SMap.put (fun _ => LinkSt.reset) s.links (linkKey l) v }
def State.modLink (s : State) (l : LinkId) (g : LinkSt → LinkSt) : State := s.setLink l (g (s.link l))

def State.queue (s : State) (l : LinkId) : QueueSt := SMap.get (fun _ => QueueSt.reset) s.queues (linkKey l)
def State.setQueue (s : State) (l : LinkId) (v : QueueSt) : State :=
  { s with queues := SMap.put (fun _ => QueueSt.reset) s.queues (linkKey l) v }
def State.modQueue (s : State) (l : LinkId) (g : QueueSt → QueueSt) : State := s.setQueue l (g (s.queue l))

def State.host (s : State) (n : Nat) : HostPort := SMap.get (fun _ => HostPort.reset) s.hosts n
def State.setHost (s : State) (n : Nat) (v : HostPort) : State :=
  { s with hosts := SMap.put (fun _ => HostPort.reset) s.hosts n v }
def State.modHost (s : State) (n : Nat) (g : HostPort → HostPort) : State := s.setHost n (g (s.host n))

def State.lane (s : State) (h : Nat) : LaneSt := SMap.get (fun _ => LaneSt.reset) s.lanes h
def State.setLane (s : State) (h : Nat) (v : LaneSt) : State :=
  { s with lanes := SMap.put (fun _ => LaneSt.reset) s.lanes h v }
def State.modLane (s : State) (h : Nat) (g : LaneSt → LaneSt) : State := s.setLane h (g (s.lane h))

/-- The host lane that serves port n: lane n at reset (R24), the group's spare after a substitution (R278). -/
def State.portLane (s : State) (n : Nat) : Nat := SMap.get (fun k => k) s.laneOf n
def State.setPortLane (s : State) (n h : Nat) : State := { s with laneOf := SMap.put (fun k => k) s.laneOf n h }

def State.tile (s : State) (t : Nat) : TileSt := SMap.get (fun _ => TileSt.reset) s.tiles t
def State.setTile (s : State) (t : Nat) (v : TileSt) : State :=
  { s with tiles := SMap.put (fun _ => TileSt.reset) s.tiles t v }
def State.modTile (s : State) (t : Nat) (g : TileSt → TileSt) : State := s.setTile t (g (s.tile t))

def State.diag (s : State) (g : Nat) : DiagSt := SMap.get (fun _ => DiagSt.reset) s.diags g
def State.setDiag (s : State) (g : Nat) (v : DiagSt) : State :=
  { s with diags := SMap.put (fun _ => DiagSt.reset) s.diags g v }
def State.modDiag (s : State) (g : Nat) (f : DiagSt → DiagSt) : State := s.setDiag g (f (s.diag g))

def State.dom (s : State) (i : Nat) : DomSt := SMap.get DomSt.reset s.doms i
def State.setDom (s : State) (i : Nat) (v : DomSt) : State := { s with doms := SMap.put DomSt.reset s.doms i v }
def State.modDom (s : State) (i : Nat) (g : DomSt → DomSt) : State := s.setDom i (g (s.dom i))

/-- The key of an item-target (R483). -/
def calKey (item target : Nat) : Nat := item * 65536 + target % 65536

def State.cal (s : State) (item target : Nat) : CalSt := SMap.get (fun _ => CalSt.reset) s.cals (calKey item target)
def State.setCal (s : State) (item target : Nat) (v : CalSt) : State :=
  { s with cals := SMap.put (fun _ => CalSt.reset) s.cals (calKey item target) v }
def State.modCal (s : State) (item target : Nat) (g : CalSt → CalSt) : State :=
  s.setCal item target (g (s.cal item target))

/-- An entry of map `m` at subcarrier `k` in the block of pair `g` (R325): 0xFFFF where none was computed. -/
def State.mapAt (s : State) (g m k : Nat) : Nat := SMap.get (fun _ => 0xFFFF) s.maps ((g * 16 + m) * 512 + k)
def State.setMap (s : State) (g m k v : Nat) : State :=
  { s with maps := SMap.put (fun _ => 0xFFFF) s.maps ((g * 16 + m) * 512 + k) v }

/-- A tap of the response of pair `g` into pair `src` (R320). -/
def State.tapAt (s : State) (g src i : Nat) : Nat := SMap.get (fun _ => 0) s.traces ((g * 4 + src) * 16384 + i)
def State.setTap (s : State) (g src i v : Nat) : State :=
  { s with traces := SMap.put (fun _ => 0) s.traces ((g * 4 + src) * 16384 + i) v }

def State.modHub (s : State) (g : HubSt → HubSt) : State := { s with hub := g s.hub }

/-! ### Time, free values, events, outputs -/

/-- Take the next free value (log entry 3). -/
def State.draw (s : State) : Nat × State := (Config.freeNat s.free, { s with free := s.free + 1 })

/-- Take the next random draw of the device (log entry 3). -/
def State.random (s : State) : Nat × State := (Config.freeDraw s.free, { s with free := s.free + 1 })

/-- Raise an event for the Guestbook (R514). -/
def State.raise (s : State) (code sev : Nat) (params : List Nat) : State :=
  { s with raised := s.raised ++ [⟨code, sev, params⟩] }

/-- Send something to the outside. -/
def State.emit (s : State) (o : Out) : State := { s with out := s.out ++ [o] }

/-- Set an event bit of HUB_INT_STATUS (R473). -/
def State.intBit (s : State) (i : Nat) : State := s.setFld ⟨HUB_INT_STATUS, i, i⟩ 1

/-- Apply a step for every number of a list, in order. -/
def forEach {α : Type} (xs : List α) (f : α → State → State) (s : State) : State :=
  xs.foldl (fun s x => f x s) s

/-- The pairs 0 to 3. -/
def allPairs : List Nat := [0, 1, 2, 3]

/-- The pairs that a link spans: all four of a port, the one of a sub-link. -/
def linkPairs (l : LinkId) : List Nat :=
  match l.sub with
  | none => allPairs
  | some p => [p.val]


/-- The port itself as a link, and a sub-link of it. -/
def portLink (n : Port) : LinkId := ⟨n, none⟩
def subLink (n : Port) (p : Pair) : LinkId := ⟨n, some p⟩

/-- The links of a port: itself and its four sub-links. -/
def portLinks (n : Port) : List LinkId := [⟨n, none⟩, ⟨n, some 0⟩, ⟨n, some 1⟩, ⟨n, some 2⟩, ⟨n, some 3⟩]

/-- A mask of pairs as a list. -/
def maskPairs (m : Nat) : List Nat := allPairs.filter (fun p => bit m p)

/-- The mask of a list of pairs. -/
def pairsMask (ps : List Nat) : Nat := ps.foldl (fun m p => if bit m p then m else m + 2 ^ p) 0

/-- Number of pairs in a mask. -/
def pairCount (m : Nat) : Nat := (maskPairs m).length

/-- Set or clear bit i of a number. -/
def setBit (m i : Nat) (on : Bool) : Nat :=
  if bit m i then (if on then m else m - 2 ^ i) else (if on then m + 2 ^ i else m)

/-- Stage S is later than stage C (R70). -/
def later (s c : Nat) : Bool :=
  let d := (s + 2 ^ 32 - c % 2 ^ 32) % 2 ^ 32
  decide (1 ≤ d ∧ d < 2 ^ 31)

/-- Stage C is not earlier than stage S (R70, R198). -/
def reached (c s : Nat) : Bool := c % 2 ^ 32 == s % 2 ^ 32 || later c s

/-- A stage count k stages on. -/
def stagePlus (c k : Nat) : Nat := (c + k) % 2 ^ 32

end Sys2Proof.Machine
end

