-- ==== Sys2Proof/Machine/Operands.lean ====
section
/-! DEFINITION. The operand forms of the line commands: bit and gain tables in their two banks, shares, the
validity of a table, loading and bit-swap procedures, margins and quality figures (R72 to R77, R102, R142 to R145,
R204). SNR and margins are in 0.25 dB; the procedures count in 0.05 dB, where every constant of R77 is whole. -/
namespace Sys2Proof.Machine

/-! ### Tables -/

/-- The entry of an empty or excluded index: b = 0, G = 12 (R72), in the PAIR_TBL_DATA format. -/
def emptyEntry : Nat := 12 * 16

/-- The entry with bit count b and gain code g (R113). -/
def entryOf (b g : Nat) : Nat := g % 32 * 16 + b % 16

/-- Bit count and gain code of an entry. -/
def entryB (e : Nat) : Nat := e % 16
def entryG (e : Nat) : Nat := e / 16 % 32

/-- 0 for transmit, 1 for receive. -/
def dirNat : Dir → Nat
  | .tx => 0
  | .rx => 1

/-- The key of an entry of a pair's tables: direction, physical bank, index (R73). -/
def tblKey (n p : Nat) (d : Dir) (bank k : Nat) : Nat := ((gpair n p * 2 + dirNat d) * 2 + bank % 2) * 512 + k

/-- An entry of a bank. -/
def State.entry (s : State) (n p : Nat) (d : Dir) (bank k : Nat) : Nat :=
  SMap.get (fun _ => emptyEntry) s.tbl (tblKey n p d bank k)

/-- Write an entry of a bank. -/
def State.setEntry (s : State) (n p : Nat) (d : Dir) (bank k e : Nat) : State :=
  { s with tbl := SMap.put (fun _ => emptyEntry) s.tbl (tblKey n p d bank k) e }

/-- A whole bank, index 0 to 511. -/
def State.bank (s : State) (n p : Nat) (d : Dir) (bank : Nat) : List Nat :=
  (List.range 512).map (s.entry n p d bank)

/-- Write a whole bank. -/
def State.setBank (s : State) (n p : Nat) (d : Dir) (bank : Nat) (t : List Nat) : State :=
  (List.range 512).foldl (fun s k => s.setEntry n p d bank k (t.getD k emptyEntry)) s

/-- The active bank of a direction (R73). -/
def activeBank (s : State) (n p : Nat) (d : Dir) : Nat :=
  match d with
  | .tx => s.fld (PAIR_TBL_STATUS.ACTIVE_TX n p)
  | .rx => s.fld (PAIR_TBL_STATUS.ACTIVE_RX n p)

/-- The shadow bank of a direction. -/
def shadowBank (s : State) (n p : Nat) (d : Dir) : Nat := 1 - activeBank s n p d

/-- The active and the shadow table. -/
def State.active (s : State) (n p : Nat) (d : Dir) : List Nat := s.bank n p d (activeBank s n p d)
def State.shadow (s : State) (n p : Nat) (d : Dir) : List Nat := s.bank n p d (shadowBank s n p d)

/-- The key of a held three-pair or computed table: SET 0 for four pairs, d + 1 with pair d dead (R182, R216). -/
def heldKey (n p : Nat) (d : Dir) (set k : Nat) : Nat := ((gpair n p * 2 + dirNat d) * 8 + set % 8) * 512 + k

/-- A held table. -/
def State.heldTable (s : State) (n p : Nat) (d : Dir) (set : Nat) : List Nat :=
  (List.range 512).map (fun k => SMap.get (fun _ => emptyEntry) s.held (heldKey n p d set k))

/-- Write a held table. -/
def State.setHeldTable (s : State) (n p : Nat) (d : Dir) (set : Nat) (t : List Nat) : State :=
  let w (h : SMap Nat) (k : Nat) : SMap Nat :=
    SMap.put (fun _ => emptyEntry) h (heldKey n p d set k) (t.getD k emptyEntry)
  { s with held := (List.range 512).foldl w s.held }

/-- SNR(k) of a pair in 0.25 dB (R142), ERLE(k) in 0.25 dB (R127). -/
def State.snrOf (s : State) (n p k : Nat) : Nat := SMap.get (fun _ => 0) s.snr (gpair n p * 512 + k)
def State.setSnr (s : State) (n p k v : Nat) : State :=
  { s with snr := SMap.put (fun _ => 0) s.snr (gpair n p * 512 + k % 512) (min v 255) }
def State.erleOf (s : State) (n p k : Nat) : Nat := SMap.get (fun _ => 0) s.erle (gpair n p * 512 + k)
def State.setErle (s : State) (n p k v : Nat) : State :=
  { s with erle := SMap.put (fun _ => 0) s.erle (gpair n p * 512 + k % 512) (min v 255) }

/-- Gross bits, loaded subcarriers, Q and NET of a table (R74). -/
def gross (t : List Nat) : Nat := (t.map entryB).sum
def loadedCount (t : List Nat) : Nat := (t.filter (fun e => decide (2 ≤ entryB e))).length
def tableQ (t : List Nat) : Nat := loadedCount t / 2
def net (plain : Bool) (t : List Nat) : Nat :=
  if plain then gross t else if tableQ t = 0 then 0 else gross t - tableQ t - 6

/-- The CRC-16 of a bank: entries 4 to 495, EXCL read as 0, most significant bit first (R102). -/
def bankCrc (t : List Nat) : Nat :=
  crc16 (((t.drop 4).take 492).flatMap (bitsMsb 16))

/-! ### Shares (R75) -/

/-- Required coach bits per data symbol of a stream: tiers 0 to 3, TRANSPARENT full rate 4, half rate 5. -/
def requiredBits (stream : Nat) : Rat :=
  if stream ≤ 3 then (27520 : Rat) / 3 * (4 - stream) / 4
  else if stream = 4 then (425000 : Rat) * 258 / 257 * 128 / 5625
  else (425000 : Rat) * 258 / 257 * 128 / 5625 / 2

/-- The least whole number not below a non-negative rational. -/
def ceilNat (q : Rat) : Nat := q.ceil.toNat

/-- The 250 ppm allowance of R75. -/
def allowance : Rat := 1 - 250 / 1000000

/-- M of REACH for a stream (R75). -/
def reachM (stream : Nat) : Nat := ceilNat (63 * requiredBits stream / (10400 * allowance))

/-- The share S of a stream over P pairs (R75). -/
def share (reach : Bool) (stream pairs : Nat) : Nat :=
  if pairs = 0 then 0
  else if reach then ceilNat ((reachM stream * 10880 : Nat) / (63 * pairs * 16 : Nat) : Rat) * 16
  else ceilNat (requiredBits stream / (pairs * allowance * 16)) * 16

/-- The highest NET a valid table can reach: coding, band plan, whether the sender is the lower-identity end (R75). -/
def maxNet (plain split lower : Bool) : Nat :=
  match plain, split, lower with
  | false, false, _ => 2677
  | true, false, _ => 2800
  | false, true, true => 2616
  | true, true, true => 2736
  | false, true, false => 2478
  | true, true, false => 2604

/-! ### Validity (R76) -/

/-- A table is valid for a share: the six conditions of R76. `psd` is the sender's PSD_OFFSET code. -/
def validTable (plain split lower : Bool) (psd sh : Nat) (t : List Nat) : Bool :=
  let ks := (List.range 512).zip t
  ks.all (fun (k, e) =>
    (entryB e == 0 || decide (2 ≤ entryB e ∧ entryB e ≤ 12)) && decide (entryG e ≤ 18) &&
    (!isExcluded k || entryB e == 0) &&
    (entryB e == 0 || decide (psd + entryG e ≤ 30)) &&
    (!split || entryB e == 0 || loadable true lower k)) &&
  (plain || (loadedCount t % 2 == 0 && (loadedCount t == 0 || decide (6 ≤ loadedCount t)))) &&
  decide (sh ≤ net plain t) && decide (gross t ≤ 2800)

/-! ### Loading (R77), in 0.05 dB -/

/-- Required SNR for b bits (R77). -/
def req (plain reach : Bool) (b : Nat) : Int :=
  60 * b + (if plain then 240 else 150) - (if reach then 50 else 0)

/-- The largest b in 0, 2 to 12 whose requirement the SNR less the target meets. -/
def bestBits (plain reach : Bool) (snr target : Int) : Nat :=
  ((List.range 11).map (fun i => 12 - i)).find? (fun b => decide (req plain reach b ≤ snr - target)) |>.getD 0

/-- The last index of a list that holds. -/
def lastIndex (p : Nat → Bool) (n : Nat) : Option Nat := ((List.range n).reverse).find? p

/-- The index with the least value among those that hold; the lowest index on a tie. -/
def argMin (n : Nat) (p : Nat → Bool) (v : Nat → Int) : Option Nat :=
  (List.range n).foldl (fun best k =>
    if p k then (match best with | none => some k | some j => if v k < v j then some k else some j) else best) none

/-- The index with the largest value among those that hold; the lowest index on a tie. -/
def argMax (n : Nat) (p : Nat → Bool) (v : Nat → Int) : Option Nat := argMin n p (fun k => - v k)

/-- The trim loop of R77 on bit counts; `ex k b` is the excess. -/
def trimLoop (plain : Bool) (ex : Nat → Nat → Int) (sh : Nat) : Nat → List Nat → List Nat
  | 0, b => b
  | fuel + 1, b =>
    if net plain b ≤ sh then b
    else
      let at_ (k : Nat) := b.getD k 0
      match argMin 512 (fun k => decide (3 ≤ at_ k)) (fun k => ex k (at_ k)) with
      | some k => trimLoop plain ex sh fuel (b.set k (at_ k - 1))
      | none =>
        match argMin 512 (fun k => at_ k == 2) (fun k => ex k 2) with
        | none => b
        | some k1 =>
          let b1 := b.set k1 0
          if plain then (if sh ≤ net plain b1 then trimLoop plain ex sh fuel b1 else b)
          else
            match argMin 512 (fun k => b1.getD k 0 == 2) (fun k => ex k 2) with
            | none => b
            | some k2 =>
              let b2 := b1.set k2 0
              if sh ≤ net plain b2 then trimLoop plain ex sh fuel b2 else b

/-- The gain code for an excess: minus the excess rounded down to 0.5 dB, not below -6.0 dB (R77). -/
def gainFor (ex : Int) : Nat := (12 - ex / 10).toNat % 32

/-- Load one pair for a share (R77): SNRs in 0.25 dB by index, target in 0.1 dB; none where it cannot be loaded. -/
def loadTable (plain reach split lower : Bool) (snr : List Nat) (target sh : Nat) : Option (List Nat) :=
  let sn (k : Nat) : Int := 5 * snr.getD k 0
  let tg : Int := 2 * target
  let b0 := (List.range 512).map (fun k =>
    if loadable split lower k then bestBits plain reach (sn k) tg else 0)
  let b1 :=
    if !plain && loadedCount b0 % 2 == 1 then
      (match lastIndex (fun k => decide (2 ≤ b0.getD k 0)) 512 with | some k => b0.set k 0 | none => b0)
    else b0
  if net plain b1 < sh then none
  else
    let ex (k b : Nat) : Int := sn k - tg - req plain reach b
    let b2 := trimLoop plain ex sh 6000 b1
    some ((List.range 512).map (fun k =>
      let b := b2.getD k 0
      if 2 ≤ b then entryOf b (gainFor (ex k b)) else emptyEntry))

/-! ### Margins and quality (R143 to R145) -/

/-- Margin of a loaded subcarrier in 0.05 dB (R143). -/
def subMargin (plain reach : Bool) (snr b : Nat) : Int := 5 * (snr : Int) - req plain reach b

/-- Insert into a rising list. -/
def insertSorted (x : Int) : List Int → List Int
  | [] => [x]
  | y :: ys => if x ≤ y then x :: y :: ys else y :: insertSorted x ys

/-- A list in rising order. -/
def sortInts (xs : List Int) : List Int := xs.foldr insertSorted []

/-- The pair margin M_p in 0.25 dB, rounded down (R143): the mean of the 16 lowest margins. -/
def pairMargin (ms : List Int) : Int :=
  let low := (sortInts ms).take 16
  if low.isEmpty then 0 else low.sum / (5 * low.length : Nat)

/-- lq_pair (R145): margin in 0.25 dB, target in 0.1 dB. -/
def lqPair (m : Int) (target : Nat) : Nat :=
  -- 128 + 16 (m/4 - t/10), rounded half up: floor((2560 + 80 m - 32 t + 10) / 20)
  let v : Int := (2560 + 80 * m - 32 * target + 10) / 20
  (max 0 (min 255 v)).toNat

/-- The least e with 2^e at least n. -/
def ceilLog2 (n : Nat) : Nat := if n ≤ 1 then 0 else Nat.log2 (n - 1) + 1

/-- lq_port (R145): the least lq_pair of the carrying pairs and the CRC_BAD coaches of 64 stages. -/
def lqPort (lqs : List Nat) (c : Nat) : Nat :=
  lqs.foldl min 255 - 16 * ceilLog2 (1 + c)

/-! ### Bit swap (R204) -/

/-- Lower a weak subcarrier until its SNR meets the target or b is 2. -/
def lowerBits (plain reach : Bool) (snr target : Int) : Nat → Nat → Nat
  | 0, b => b
  | fuel + 1, b =>
    if 2 < b ∧ snr - target < req plain reach b then lowerBits plain reach snr target fuel (b - 1) else b

/-- Move the deficit to the subcarriers with the largest excess (R204); none where no candidate remains. -/
def raiseLoop (ex : Nat → Nat → Int) : Nat → Nat → List Nat → Option (List Nat)
  | 0, d, b => if d = 0 then some b else none
  | fuel + 1, d, b =>
    if d = 0 then some b
    else
      match argMax 512 (fun k => decide (2 ≤ b.getD k 0 ∧ b.getD k 0 ≤ 11 ∧ 60 ≤ ex k (b.getD k 0)))
          (fun k => ex k (b.getD k 0)) with
      | none => none
      | some k => raiseLoop ex fuel (d - 1) (b.set k (b.getD k 0 + 1))

/-- The new table of a bit swap (R204): active table, SNRs in 0.25 dB, target and SWAP_DOWN in 0.1 dB. -/
def swapTable (plain reach : Bool) (t snr : List Nat) (target down sh : Nat) : Option (List Nat) :=
  let sn (k : Nat) : Int := 5 * snr.getD k 0
  let tg : Int := 2 * target
  let b0 := t.map entryB
  let ex (k b : Nat) : Int := sn k - tg - req plain reach b
  let b1 := (List.range 512).map (fun k =>
    let b := b0.getD k 0
    if 2 ≤ b ∧ subMargin plain reach (snr.getD k 0) b < tg - 2 * down then lowerBits plain reach (sn k) tg 12 b else b)
  match raiseLoop ex 6000 (sh - net plain b1) b1 with
  | none => none
  | some b2 => some ((List.range 512).map (fun k =>
      let b := b2.getD k 0
      if b = b0.getD k 0 then t.getD k emptyEntry else entryOf b (gainFor (ex k b))))

/-- The weak subcarriers of a table (R203). -/
def weakCount (plain reach : Bool) (t snr : List Nat) (target down : Nat) : Nat :=
  ((List.range 512).filter (fun k =>
    let b := entryB (t.getD k emptyEntry)
    decide (2 ≤ b ∧ subMargin plain reach (snr.getD k 0) b < 2 * (target : Int) - 2 * down))).length

end Sys2Proof.Machine
end

