-- ==== Sys2Proof/Machine/CoefOps.lean ====
section
/-! DEFINITION. The coefficient memories of the slices: entries, trained contents, the stored and trained sets, the
snapshot buffer (R125, R126, R128, R131, R149, R150, R190). What training and adaptation leave in an entry is a free
value: the spec gives no number for it (log entry 3). -/
namespace Sys2Proof.Machine

/-- Entries of a memory (R150). -/
def memEntries : Nat → Nat
  | 0x0 => 64
  | 0x1 => 128
  | 0x2 => 4096
  | 0x3 => 3072
  | 0x4 => 4096
  | 0x5 => 2048
  | 0x6 => 2048
  | 0x7 => 4289
  | 0x8 => 4289
  | 0x9 => 3
  | _ => 0

/-- The snapshot buffer has the place of memory 15, which R150 reserves. -/
def snapPlace : Nat := 15

/-- The key of an entry of a pair's memory. -/
def coefKey (g mem i : Nat) : Nat := (g * 16 + mem) * 8192 + i

/-- A written entry of a memory. -/
def State.coefAt (s : State) (g mem i : Nat) : Option Word := SMap.get (fun _ => none) s.coef (coefKey g mem i)

/-- Write an entry of a memory. -/
def State.setCoef (s : State) (g mem i : Nat) (v : Word) : State :=
  { s with coef := SMap.put (fun _ => none) s.coef (coefKey g mem i) (some v) }

/-- The training that left part `j` of a memory: 0 for none. Only the sets have parts: 0 shortening equaliser, 1 E2,
2 E3. -/
def State.seed (s : State) (g mem j : Nat) : Nat := SMap.get (fun _ => 0) s.seeds ((g * 16 + mem) * 4 + j)
def State.setSeed (s : State) (g mem j v : Nat) : State :=
  { s with seeds := SMap.put (fun _ => 0) s.seeds ((g * 16 + mem) * 4 + j) v }

/-- The written entries of a memory, as (index, value). -/
def memListed (s : State) (g mem : Nat) : List (Nat × Word) :=
  (s.coef.filter (fun x => x.1 / 8192 == g * 16 + mem)).map (fun x => (x.1 % 8192, x.2.getD 0))

/-- Set every entry of a memory to zero. -/
def clearMem (g mem : Nat) (s : State) : State :=
  let s := { s with coef := s.coef.filter (fun x => x.1 / 8192 != g * 16 + mem) }
  (((s.setSeed g mem 0 0).setSeed g mem 1 0).setSeed g mem 2 0).setSeed g mem 3 0

/-- A memory is trained afresh: its entries take new free values. -/
def trainMem (g mem : Nat) (s : State) : State :=
  let s := clearMem g mem s
  { s.setSeed g mem 0 (s.free + 1) with free := s.free + 1 }

/-- The entries of one part of a memory that trains by parts: an aggressor of MEM 0x3 and 0x4, a column of MEM 0x6 (R150). -/
def partSize (mem : Nat) : Nat := if mem = 6 then 512 else 1024

/-- One part of a memory is trained afresh, the others stay (R128, R134 to R136). -/
def trainPart (g mem j : Nat) (s : State) : State :=
  let s := { s with coef := s.coef.filter (fun x => !(x.1 / 8192 == g * 16 + mem && x.1 % 8192 / partSize mem == j)) }
  { s.setSeed g mem j (s.free + 1) with free := s.free + 1 }

/-- A row of the channel matrix is estimated afresh: one training gives its four columns (R136). -/
def trainRow (g : Nat) (s : State) : State :=
  let s := clearMem g 6 s
  let t := s.free + 1
  { (((s.setSeed g 6 0 t).setSeed g 6 1 t).setSeed g 6 2 t).setSeed g 6 3 t with free := t }

/-- Row p of W is set from the channel matrix of the pairs `ps` as it now stands, the other columns to zero (R136): the entries are
those of `weightEntry` until adaptation moves them. -/
def setWeights (n p : Nat) (ps : List Nat) (s : State) : State :=
  let g := gpair n p
  let s := clearMem g 5 s
  forEach ps (fun c s => s.setSeed g 5 c (s.seed (gpair n c) 6 p)) s

/-- The value that training number `seed` left in entry i, in `w` bits; 0 where there was none. -/
def trainedEntry (seed i w : Nat) : Word := if seed = 0 then 0 else word (Config.freeCoef seed i % 2 ^ w)

/-- Copy the written entries of a memory from index `src` on to memory `dst`, index `di` on. -/
def copyListed (g mem src count dst di : Nat) (s : State) : State :=
  forEach ((memListed s g mem).filter (fun x => decide (src ≤ x.1 ∧ x.1 < src + count)))
    (fun x s => s.setCoef g dst (di + (x.1 - src)) x.2) s

/-- Copy part `j` of a set to or from the memory it belongs to: its written entries and its training. -/
def copyPart (g mem sj src count dst dj di : Nat) (s : State) : State :=
  (copyListed g mem src count dst di s).setSeed g dst dj (s.seed g mem sj)

/-- Gather E2, E3, D, TD_DELAY and the trims into a set (R131, R150). -/
def gatherEcho (n p set : Nat) (s : State) : State :=
  let g := gpair n p
  let k := s.pair n p
  let hd := s.fld (PAIR_ECHO_STATUS.DEPTH n p) % 256 * 2 ^ 24 + s.fld (PAIR_ECHO_STATUS.TD_DELAY n p) * 2 ^ 16 +
    k.trimR % 256 * 2 ^ 8 + k.trimC % 256
  let s := copyPart g 1 0 0 128 set 1 64 s
  let s := copyPart g 2 0 0 4096 set 2 192 s
  s.setCoef g set 4288 (word hd)

/-- Gather the shortening equaliser and the echo part into a set, MEM 0x7 or 0x8 (R128, R150). -/
def gatherSet (n p set : Nat) (s : State) : State :=
  let g := gpair n p
  gatherEcho n p set (copyPart g 0 0 0 64 set 0 0 (clearMem g set s))

/-- Put the stored set and its gain back (R190). -/
def restoreStored (n p : Nat) (s : State) : State :=
  let g := gpair n p
  let hd := ((s.coefAt g 7 4288).getD 0).toNat
  let s := clearMem g 2 (clearMem g 1 (clearMem g 0 s))
  let s := copyPart g 7 0 0 64 0 0 0 s
  let s := copyPart g 7 1 64 128 1 0 0 s
  let s := copyPart g 7 2 192 4096 2 0 0 s
  let s := (s.setFld (PAIR_ECHO_STATUS.DEPTH n p) (hd / 2 ^ 24)).setFld (PAIR_ECHO_STATUS.TD_DELAY n p)
    (bits hd 23 16)
  let s := s.modPair n p (fun k => { k with trimR := bits hd 15 8, trimC := bits hd 7 0 })
  s.setFld (PAIR_AGC.AGAIN n p) (s.pair n p).storedGain

/-- A spare slice serves the pair after a fault: what its memories hold beside the stored set is not the pair's (R149, R527): free values
in NEXT, W, H and the trained set (log entry 3). -/
def freshSlice (n p : Nat) (s : State) : State :=
  let g := gpair n p
  let s := forEach [0, 1, 2, 3] (trainPart g 4) (forEach [0, 1, 2] (trainPart g 3) s)
  let s := setWeights n p allPairs (trainRow g s)
  let s := trainMem g 8 s
  let t := s.free
  (((s.setSeed g 8 1 t).setSeed g 8 2 t).setCoef g 8 4288 (trainedEntry t 4288 32))

/-- Drop the echo part of a set, E2, E3 and header; the shortening equaliser's part stays. -/
def dropEcho (g set : Nat) (s : State) : State :=
  let inEcho (x : Nat × Option Word) : Bool := x.1 / 8192 == g * 16 + set && decide (64 ≤ x.1 % 8192)
  { s with coef := s.coef.filter (fun x => !inEcho x) }

/-- Refresh the stored set from the current E2, E3, TD_DELAY, D, trims and gain; the drift from it is then none
(R131, R150, R151). -/
def refreshStored (n p : Nat) (s : State) : State :=
  let g := gpair n p
  let s := gatherEcho n p 7 (dropEcho g 7 s)
  let s := s.modPair n p (fun k => { k with storedGain := s.fld (PAIR_AGC.AGAIN n p) })
  s.setFld (PAIR_ECHO_DRIFT.STORED n p) 0x8000

/-- An entry reads 0 at excluded indices, and in E3 at depths m ≥ D (R150). -/
def entryZero (depth mem i : Nat) : Bool :=
  if mem = 2 then isExcluded (i % 512) || decide (depth ≤ i / 512)
  else decide (3 ≤ mem ∧ mem ≤ 6) && isExcluded (i % 512)

/-! ### The FEXT equaliser (R136) -/

/-- A complex value with whole parts, and with rational parts. -/
abbrev Cx := Int × Int
abbrev Cq := Rat × Rat

def Cx.mul (a b : Cx) : Cx := (a.1 * b.1 - a.2 * b.2, a.1 * b.2 + a.2 * b.1)
def Cx.add (a b : Cx) : Cx := (a.1 + b.1, a.2 + b.2)
def Cx.sub (a b : Cx) : Cx := (a.1 - b.1, a.2 - b.2)
def Cx.conj (a : Cx) : Cx := (a.1, -a.2)
def Cx.sum (xs : List Cx) : Cx := xs.foldl Cx.add (0, 0)
def Cq.mul (a b : Cq) : Cq := (a.1 * b.1 - a.2 * b.2, a.1 * b.2 + a.2 * b.1)
def Cq.sub (a b : Cq) : Cq := (a.1 - b.1, a.2 - b.2)
def Cq.inv (a : Cq) : Cq := let d := a.1 * a.1 + a.2 * a.2; (a.1 / d, -a.2 / d)

/-- The complex value of an entry: the real part in bits [31:16], the imaginary part in [15:0], two's complement (R150); and back,
saturating. -/
def cxOf (v : Word) : Cx := (signed 16 (v.toNat / 2 ^ 16), signed 16 (v.toNat % 2 ^ 16))
def sat16 (v : Int) : Int := max (-32768) (min 32767 v)
def wordOfCx (x : Cx) : Word := word (unsigned 16 (sat16 x.1) * 2 ^ 16 + unsigned 16 (sat16 x.2))

/-- One step of the elimination of column `i`. -/
def eliminate (rows : List (List Cq)) (i : Nat) : List (List Cq) :=
  let r := rows.getD i []
  let r := r.map (Cq.mul (r.getD i (0, 0)).inv)
  rows.zipIdx.map (fun x => if x.2 = i then r
    else List.zipWith (fun a b => a.sub ((x.1.getD i (0, 0)).mul b)) x.1 r)

/-- (H^H H + N)^-1 H^H for a square H and the noise powers (R136). -/
def mmse (h : List (List Cx)) (noise : List Nat) : List (List Cq) :=
  let m := h.length
  let at_ (r c : Nat) : Cx := (h.getD r []).getD c (0, 0)
  let q (x : Cx) : Cq := (x.1, x.2)
  let rows := (List.range m).map (fun r =>
    (List.range m).map (fun c => q ((Cx.sum ((List.range m).map (fun i => (at_ i r).conj.mul (at_ i c)))).add
      (if r = c then (noise.getD r 0, 0) else (0, 0)))) ++
    (List.range m).map (fun c => q (at_ c r).conj))
  ((List.range m).foldl eliminate rows).map (fun r => r.drop m)

/-- The noise power of a subcarrier of a pair, as G2 measured it (R128). -/
def State.noiseOf (s : State) (g k : Nat) : Nat := SMap.get (fun _ => 0) s.noise (g * 512 + k)
def State.setNoise (s : State) (g k v : Nat) : State :=
  { s with noise := SMap.put (fun _ => 0) s.noise (g * 512 + k % 512) v }

/-- Entry W(k, p, c) of row p of a W set from the channel matrix of the pairs whose training numbers stand at `place` (R136): H in
2^-15, W in 2^-8, rounded down. -/
def weightEntry (s : State) (n p place i : Nat) : Word :=
  let k := i % 512
  let t (c : Nat) : Nat := s.seed (gpair n p) place c
  let ps := allPairs.filter (fun c => t c != 0)
  let h := ps.map (fun r => ps.map (fun c => cxOf (trainedEntry (t r) (512 * c + k) 32)))
  let w := mmse h (ps.map (fun r => s.noiseOf (gpair n r) k))
  if ps.contains (i / 512) && ps.contains p then
    let x := (w.getD (ps.idxOf p) []).getD (ps.idxOf (i / 512)) (0, 0)
    wordOfCx ((x.1 * 2 ^ 23).floor, (x.2 * 2 ^ 23).floor)
  else 0

/-- Part of a set, part index and index within the memory it belongs to (R150). -/
def setPart (i : Nat) : Nat × Nat := if i < 64 then (0, i) else if i < 192 then (1, i - 64) else (2, i - 192)

/-- A memory is one of the two sets. -/
def isSetMem (mem : Nat) : Bool := mem == 7 || mem == 8

/-- Entry i of the memory of layout `mem` that stands at `place` (the memory itself, or the snapshot buffer), as the receiver uses it:
also at the pilots, where a read gives 0 (R121, R150). -/
def coefEntry (s : State) (n p place mem i : Nat) : Word :=
  let g := gpair n p
  let (j, x) := if isSetMem mem then setPart i else (0, i)
  let lay := if isSetMem mem then j else mem
  match s.coefAt g place i with
  | some v => v
  | none =>
    if isSetMem mem && i == 4288 then 0
    else if lay = 5 && !isSetMem mem then weightEntry s n p place x
    else trainedEntry (s.seed g place (if !isSetMem mem && decide (3 ≤ lay) then x / partSize lay else j)) x
      (if lay ≤ 1 then 16 else 32)

/-- Entry i of a memory as it reads (R150). -/
def coefValue (s : State) (n p place mem i : Nat) : Word :=
  let (j, x) := if isSetMem mem then setPart i else (mem, i)
  if memEntries mem ≤ i then 0
  else if mem = 9 ∧ place = 9 then
    (if i = 0 then word ((s.pair n p).trimR % 256) else if i = 1 then word ((s.pair n p).trimC % 256)
     else word (s.fld (PAIR_AGC.AGAIN n p)))
  else if !(isSetMem mem && i == 4288) && entryZero (s.fld (PAIR_ECHO_STATUS.DEPTH n p)) j x then 0
  else coefEntry s n p place mem i

/-- Adaptation of a port is not frozen (R130). -/
def mayAdapt (s : State) (n : Nat) : Bool := !s.flag (PORT_ECHO_ADAPT.FREEZE n)

/-- Take the memory into the snapshot buffer (R149). -/
def takeSnapshot (n p mem : Nat) (s : State) : State :=
  let g := gpair n p
  let s := s.modPair n p (fun k => { k with snapMem := mem })
  let s := clearMem g snapPlace s
  if mem = 9 then forEach [0, 1, 2] (fun i s => s.setCoef g snapPlace i (coefValue s n p 9 9 i)) s
  else
    let s := copyPart g mem 0 0 8192 snapPlace 0 0 s
    forEach [1, 2, 3] (fun j s => s.setSeed g snapPlace j (s.seed g mem j)) s

end Sys2Proof.Machine
end

