-- ==== Sys2Proof/Machine/JobOps.lean ====
section
/-! DEFINITION. Jobs, completions, claims and slice states as shared operations: what ends an activity and what that
leaves (R18 to R23, R33, R417, R427 to R431, R445, R473, R509, R540 to R542). -/
namespace Sys2Proof.Machine

/-! ### The chain-wide sequence number (R417) -/

/-- TICK: µs of ACLK time since the last accepted epoch, saturating. -/
def seqTick (s : State) : Nat := min (s.now - s.hub.epochAt + s.hub.epochHold) 0xFFFF

/-- EPOCH and TICK as the 48-bit number. -/
def seqNow (s : State) : Nat := bits (s.val64 MR_SEQ) 47 16 * 2 ^ 16 + seqTick s

/-! ### Operating seconds (R513) -/

/-- Operating seconds of ACLK time. -/
def opSeconds (s : State) : Nat := s.hub.opBase + (s.now - s.hub.opAt) / 1000000

/-- The byte of MRAM at an address, and a write of one. -/
def State.nvByte (s : State) (a : Nat) : Nat := (SMap.get mramReset s.mram a).toNat
def State.setNvByte (s : State) (a v : Nat) : State := { s with mram := SMap.put mramReset s.mram a (BitVec.ofNat 8 v) }

/-- The power-cycle count kept in the SYSTEM area (R501, R513; its place there is PRESUMED, log entry 5). -/
def powerCycles (s : State) : Nat := s.nvByte 0x7A0004 + 256 * s.nvByte 0x7A0005

/-- A time in the Guestbook time format of the configuration in force (R512, R513). -/
def gbTime (s : State) : Nat :=
  if s.flag MR_STATUS.LARGE_CHAIN then seqNow s else opSeconds s % 2 ^ 32 + powerCycles s % 2 ^ 16 * 2 ^ 32

/-! ### Jobs and completions (R428, R445) -/

/-- The job has not ended: no completion of it waits. -/
def jobLive (s : State) (num : Nat) : Bool :=
  s.jobs.any (fun j => j.num == num) && !(s.completions ++ s.hub.porterQ).any (fun c => c.job == num && !c.run)

/-- The live job of an opcode on a resource. -/
def jobOn (s : State) (op res : Nat) : Option Job := s.jobs.find? (fun j => j.op == op && j.res == res && jobLive s j.num)

/-- The live job that holds a claim. -/
def jobOfClaim (s : State) (h : Nat) : Option Job := s.jobs.find? (fun j => h != 0 && j.handle == h && jobLive s j.num)

/-! ### Slices and the crossbar (R18 to R23) -/

/-- The state of slice i of tile t: 0 IN_SERVICE, 1 FREE, 2 HELD, 3 FAILED. -/
def sliceState (s : State) (t i : Nat) : Nat :=
  bits (s.reg (TILE_SLICE_STATE t (i / 16))).toNat (2 * (i % 16) + 1) (2 * (i % 16))

/-- The 68 slices of a tile, and those in a state. -/
def allSlices : List Nat := List.range 68
def slicesIn (s : State) (t st : Nat) : List Nat := allSlices.filter (fun i => sliceState s t i == st)

/-- Show the counts of TILE_SPARE_STATUS and XBAR_PENDING (R23). -/
def showSpares (t : Nat) (s : State) : State :=
  let s := (s.setFld (TILE_SPARE_STATUS.FREE t) (slicesIn s t 1).length).setFld (TILE_SPARE_STATUS.HELD t) (slicesIn s t 2).length
  (s.setFld (TILE_SPARE_STATUS.FAILED t) (slicesIn s t 3).length).setFld (TILE_SPARE_STATUS.XBAR_PENDING t)
    (!(s.tile t).changes.isEmpty).toNat

/-- Set the state of a slice. -/
def setSliceState (t i st : Nat) (s : State) : State :=
  showSpares t (s.setFld ⟨TILE_SLICE_STATE t (i / 16), 2 * (i % 16) + 1, 2 * (i % 16)⟩ st)

/-- The slice that serves front end f, 0x7F when none (R23, R536). -/
def feSlice (s : State) (t f : Nat) : Nat := bits (s.reg (TILE_XBAR_MAP t (f / 4))).toNat (8 * (f % 4) + 6) (8 * (f % 4))

/-- Connect a slice to front end f. -/
def setFeSlice (t f i : Nat) (s : State) : State :=
  s.setFld ⟨TILE_XBAR_MAP t (f / 4), 8 * (f % 4) + 6, 8 * (f % 4)⟩ i

/-- The front end that slice i serves. -/
def frontEnd (s : State) (t i : Nat) : Option Nat := (List.range 64).find? (fun f => feSlice s t f == i)

/-- The tile, the front end and the serving slice of a global pair. -/
def pairTile (g : Nat) : Nat := g / 64
def pairFe (g : Nat) : Nat := g % 64
def pairSlice (s : State) (g : Nat) : Nat := feSlice s (pairTile g) (pairFe g)

/-- The global pair a slice serves. -/
def slicePair (s : State) (t i : Nat) : Option Nat := (frontEnd s t i).map (fun f => 64 * t + f)

/-- The port and pair of a global pair. -/
def portOf (g : Nat) : Port := ⟨g / 4 % 128, by omega⟩
def pairOf (g : Nat) : Pair := ⟨g % 4, by omega⟩

/-- The tile of a port. -/
def tileOf (n : Port) : Nat := n.val / 16

/-! ### Claims (R430, R431, R540, R542) -/

/-- The unit kind of a BIST resource: 1 slice, 2 bank, 3 standby Porter pair, 4 sub-ADC; its tile and element. -/
def unitKind (res : Nat) : Nat := bits res 31 28
def unitTile (res : Nat) : Nat := bits res 27 24
def unitElem (res : Nat) : Nat := bits res 15 0

/-- The BIST resource of a slice, a bank, the standby Porter pair. -/
def sliceUnit (t i : Nat) : Nat := 2 ^ 28 + t * 2 ^ 24 + i
def bankUnit (b : Nat) : Nat := 2 * 2 ^ 28 + b
def porterUnit : Nat := 3 * 2 ^ 28

/-- The global pair a claim concerns (R540 P): the pair named, the pair a named slice serves now, the pair of a sub-ADC. -/
def claimPair (s : State) (kind res : Nat) : Option Nat :=
  if kind = 1 then
    (if unitKind res = 1 then slicePair s (unitTile res) (unitElem res)
     else if unitKind res = 4 then some (unitElem res) else none)
  else if kind = 2 then (if 1 ≤ bits res 31 24 ∧ bits res 31 24 ≤ 4 then some (unitElem res) else none)
  else if kind = 3 then some (unitElem res)
  else if kind = 5 then slicePair s (unitTile res) (unitElem res)
  else none

/-- The row of the conflict matrix a claim falls in: 1 to 4 the BIST units, 5 CAL, 6 CABLE, 7 EYE, 8 SWAP, 9 PRBS,
10 NV_WRITE, 11 FW_UPDATE (R540). -/
def claimRow (kind res : Nat) : Nat := if kind = 1 then unitKind res else kind + 3

/-- The code of the matrix for two rows, the lower first (R540): 0 none, 1 R, 2 P, 3 A, 4 F. -/
def matrixCode (a b : Nat) : Nat :=
  if a = 1 ∧ b = 1 ∨ a = 2 ∧ b = 2 ∨ a = 3 ∧ b = 3 then 1
  else if a = 4 ∧ b = 4 then 2
  else if a = b then 1
  else if a = 1 ∧ (b = 5 ∨ b = 6) then 2
  else if a = 1 ∧ b = 8 then 1
  else if a = 4 ∧ b = 5 then 3
  else if a = 4 ∧ b = 6 then 2
  else if a = 5 ∧ (b = 6 ∨ b = 8) then 2
  else if a = 6 ∧ b = 8 then 2
  else if a = 10 ∧ b = 11 then 4
  else 0

/-- The resource two claims of one name share (R540 R): tile and slice for slices and swaps, else the resource. -/
def claimName (kind res : Nat) : Nat :=
  if kind = 5 then sliceUnit (unitTile res) (unitElem res)
  else if kind = 1 ∧ unitKind res = 1 then sliceUnit (unitTile res) (unitElem res)
  else if kind = 1 ∧ unitKind res = 2 then bankUnit (unitElem res)
  else if kind = 1 ∧ unitKind res = 3 then porterUnit
  else if kind = 1 then 4 * 2 ^ 28 + bits res 23 16 * 2 ^ 16 + unitElem res
  else if kind = 2 then bits res 31 24 * 2 ^ 16 + bits res 15 0
  else if kind = 3 then bits res 15 0
  else if kind = 8 then 0
  else bits res 7 0

/-- Two claims conflict (R540). -/
def conflict (k1 r1 : Nat) (p1 : Option Nat) (k2 r2 : Nat) (p2 : Option Nat) : Bool :=
  let a := claimRow k1 r1
  let b := claimRow k2 r2
  let same := p1.isSome && p1 == p2
  match matrixCode (min a b) (max a b) with
  | 1 => claimName k1 r1 == claimName k2 r2
  | 2 => same
  | 3 => same && (if k1 = 2 then bits r1 31 24 == 1 else bits r2 31 24 == 1)
  | 4 => if k1 = 7 then bits r1 7 0 == 0 else bits r2 7 0 == 0
  | _ => false

/-- A claim of a slice, of a bank. -/
def claimsSlice (kind res : Nat) : Bool := (kind == 1 && unitKind res == 1) || kind == 5
def claimsBank (kind res : Nat) : Bool := kind == 1 && unitKind res == 2

/-- A held claim whose use has not begun: no test of its unit runs. -/
def idleClaim (s : State) (c : Claim) : Bool := !s.tests.any (fun x => x.unit == claimName c.kind c.res)

/-- FREE slices of a tile, and SPARE banks, that claims already granted are still to take (R22, R541). -/
def promisedSlices (s : State) (t : Nat) : Nat :=
  (s.claims.filter (fun c => claimsSlice c.kind c.res && unitTile c.res == t && idleClaim s c &&
    decide (sliceState s t (unitElem c.res) ≤ 1))).length
def promisedBanks (s : State) : Nat :=
  (s.claims.filter (fun c => claimsBank c.kind c.res && idleClaim s c && bankState s (unitElem c.res) == 0)).length

/-- The spare rule allows a claim (R22, R541), those counted off that claims already granted are still to take. A HELD slice is in use by
the maintenance that holds it (log entry 18). -/
def spareAllows (s : State) (kind res : Nat) : Bool :=
  let t := unitTile res
  let i := unitElem res
  if claimsSlice kind res then
    sliceState s t i == 3 || (sliceState s t i != 2 && decide (promisedSlices s t + 2 ≤ (slicesIn s t 1).length))
  else if claimsBank kind res then
    bankState s i != 0 || decide (promisedBanks s + 2 ≤ s.fld HOSTEL_STATUS.SPARE)
  else true

/-- Nothing held stands against a claim, and fewer than 64 are held (R431, R542). -/
def holdable (s : State) (kind res : Nat) (pair : Option Nat) : Bool :=
  decide (s.claims.length < 64) && spareAllows s kind res &&
    s.claims.all (fun c => !conflict c.kind c.res c.pair kind res pair)

/-- A new claim could be granted at once: nothing that waits stands against it either. -/
def grantable (s : State) (kind res : Nat) : Bool :=
  let p := claimPair s kind res
  holdable s kind res p && s.waiting.all (fun w => !conflict w.kind w.res w.pair kind res p)

/-- The claim of a kind and resource that a holder already has (R431). -/
def heldClaim (s : State) (src kind res : Nat) : Option Claim :=
  s.claims.find? (fun c => c.src == src && c.kind == kind && claimName c.kind c.res == claimName kind res)

/-- The next handle: 16 bits, never 0, held by no claim. -/
def nextHandle (s : State) : Nat :=
  let free := (List.range 66).map (fun i => (s.hub.handle + i) % 65535 + 1)
  (free.find? (fun h => s.claims.all (fun c => c.handle != h))).getD 1

/-- Show the counts of CNC_STATUS (R545). -/
def isHost (w : Waiting) : Bool := match w.why with | .command _ => true | _ => false
def showClaims (s : State) : State :=
  ((s.setFld CNC_STATUS.HELD s.claims.length).setFld CNC_STATUS.WAITING (s.waiting.filter isHost).length).setFld
    CNC_STATUS.WAITING_INT (s.waiting.filter (fun w => !isHost w)).length

/-- Take a claim: its handle, and the state with it held and counted (R542). -/
def takeClaim (src kind res : Nat) (pair : Option Nat) (byClaim : Bool) (s : State) : Nat × State :=
  let h := nextHandle s
  let s := { s with claims := s.claims ++ [(⟨h, kind, res, pair, src, byClaim⟩ : Claim)] }
  (h, showClaims ((s.modHub (fun b => { b with handle := h })).inc CNC_GRANTS))

/-- Internal requests that found no place take the places that are free (R542). -/
def refill : Nat → State → State
  | 0, s => s
  | k + 1, s =>
    match s.later with
    | [] => s
    | w :: ws =>
      if (s.waiting.filter (fun w => !isHost w)).length < 48 then
        refill k { s with later := ws, waiting := s.waiting ++ [w] }
      else s

/-- Queue an internal claim (R542). -/
def askInternal (kind res : Nat) (why : Why) (s : State) : State :=
  let w : Waiting := ⟨kind, res, claimPair s kind res, 0xFF, why⟩
  showClaims (refill 1 { s with later := s.later ++ [w] })

/-- Release the claim of a handle (R431). -/
def releaseClaim (h : Nat) (s : State) : State :=
  showClaims (refill 48 { s with claims := s.claims.filter (fun c => c.handle != h) })

/-- A job's activity ends (R428, R431): its completion becomes ready in the collector, and the claim the job took is
released. -/
def finishJob (num status arg tile unit : Nat) (s : State) : State :=
  if !jobLive s num then s
  else
    let s := { s with completions := s.completions ++ [(⟨s.now, tile, unit, num, status, arg, false⟩ : Completion)] }
    match s.jobs.find? (fun j => j.num == num) with
    | some j => if j.owns then releaseClaim j.handle s else s
    | none => s

/-- End every job of a list ABORTED (R428). -/
def abortJobs (js : List Job) (tile unit : Nat) (s : State) : State :=
  forEach js (fun j s => finishJob j.num 0x0B 0 tile unit s) s

/-- The device asks to add and remove REPAIR entries through an internal NV_WRITE claim (R237, R527, R534, R535). -/
def askRepair (add remove : List Repair) (s : State) : State := askInternal 7 3 (.repair add remove) s

/-- A claim of the kinds R540 lists is held on a pair. -/
def claimOnPair (s : State) (kind g : Nat) : Bool := s.claims.any (fun c => c.kind == kind && c.pair == some g)

end Sys2Proof.Machine
end

