-- ==== Sys2Proof/Machine/SideOps.lean ====
section
/-! DEFINITION. What a link's events do to the units beside the line: cable diagnostics, history, maintenance swaps,
calibration runs, sub-ADC tests; what holds a port down or busy (R306, R312, R317 to R332, R351, R367, R486 to R492,
R538, R539, R543). -/
namespace Sys2Proof.Machine

/-! ### Diagnostics and history (R317, R329 to R332) -/

/-- A REFLECT run is in progress on a global pair. -/
def reflecting (s : State) (g : Nat) : Bool :=
  s.flag (DIAG_STATUS.BUSY (g / 4) (g % 4)) && s.fld (DIAG_STATUS.KIND (g / 4) (g % 4)) == 0

/-- A running REFLECT ends ABORTED with a reason (R332): counted, event 0x2061, its job ABORTED. -/
def abortReflect (g reason : Nat) (s : State) : State :=
  if !reflecting s g then s
  else
    let n := g / 4
    let p := g % 4
    let s := (s.setFld (DIAG_STATUS.BUSY n p) 0).setFld (DIAG_STATUS.RESULT n p) 4
    let s := ((s.setFld (DIAG_STATUS.REASON n p) reason).inc (DIAG_ABORTS n p)).raise 0x2061 0 [n, p, reason]
    let arg := (s.reg (DIAG_STATUS n p)).toNat
    let job := (s.diag g).job
    finishJob job 0x0B arg (pairTile g) n (s.modDiag g (fun d => { d with job := 0 }))

/-- Abort the REFLECT runs of a port that stand in a context (false: port idle; true: fallen pair). -/
def abortContext (n : Port) (fallen : Bool) (reason : Nat) (s : State) : State :=
  forEach allPairs (fun p s =>
    if (s.diag (gpair n p)).fallen == fallen then abortReflect (gpair n p) reason s else s) s

/-- Set a flag of the history period of a pair (R329 FLAGS). -/
def histFlag (n p bitNo : Nat) (s : State) : State :=
  s.modDiag (gpair n p) (fun d => { d with flags := setBit d.flags bitNo true })

/-- Set a flag for every pair of a link. -/
def histFlags (l : LinkId) (bitNo : Nat) (s : State) : State :=
  forEach (linkPairs l) (fun p s => histFlag l.n p bitNo s) s

/-- Capture an SNR profile of a pair with the SEQ of the nearest record and a cause: 1 periodic, 2 dead pair, 3 link-down
(R331, R334). The last eight are kept. -/
def captureProfile (n p cause : Nat) (s : State) : State :=
  let seq := (s.reg (DIAG_HIST_SEQ n p)).toNat
  let near := if seq = 0 then 0 else seq - 1
  let vals := (List.range 512).map (fun k => SMap.get (fun _ => 0) s.snr (gpair n p * 512 + k))
  s.modDiag (gpair n p) (fun d => { d with profiles := ((near, cause, vals) :: d.profiles).take 8 })

/-- A fresh value of a pair's quality enters the period's record (R329): lowest LQ, lowest margin, highest EVM. -/
def histSample (n p : Nat) (s : State) : State :=
  let lq := s.fld (PAIR_QUALITY.LQ n p)
  let m := signed 16 (s.fld (PAIR_QUALITY.MARGIN n p))
  let e := signed 16 (s.fld (PAIR_EVM.EVM n p))
  s.modDiag (gpair n p) (fun d =>
    if d.fresh then { d with lqMin := min d.lqMin lq, marginMin := min d.marginMin m, evmMax := max d.evmMax e }
    else { d with lqMin := lq, marginMin := m, evmMax := e, fresh := true })

/-! ### Stale outputs (R146, R492) -/

/-- The pairs whose receive measurement path an item-target touches (R483): HYBRID and TERM their pair, a tile sensor the
16 pairs it serves. -/
def stalePairs (item target : Nat) : List Nat :=
  if item = 3 ∨ item = 4 then [target]
  else if item = 6 ∧ target / 256 < 8 then (List.range 16).map (fun i => 64 * (target / 256) + 16 * (target % 256 % 4) + i)
  else []

/-- The quality values of a pair show STALE from now on, the port's with them where the pair carries coaches (R146, R152). -/
def showStale (n p : Nat) (s : State) : State :=
  let s := ((s.setFld (PAIR_QUALITY.STALE n p) 1).setFld (PAIR_EVM.STALE n p) 1).setFld (PAIR_SNR_MEAN.STALE n p) 1
  let on (k : LinkSt) : Bool := k.phase == 7 && bit k.carryRx p
  if on (s.link ⟨Fin.ofNat 128 n, none⟩) || on (s.link ⟨Fin.ofNat 128 n, some (Fin.ofNat 4 p)⟩) then s.setFld (PORT_QUALITY.STALE n) 1 else s

/-- Mark the outputs of an item-target stale (R492). -/
def markStale (item target : Nat) (s : State) : State :=
  let s := forEach (stalePairs item target) (fun g s => showStale (g / 4) (g % 4) (s.modPair (g / 4) (g % 4) (fun k =>
    { k with stale := true }))) s
  let s := s.modCal item target (fun c => { c with stale := true })
  if item = 2 then s.setFld (PAIR_TX_POWER.STALE (target / 4) (target % 4)) 1
  else if item = 6 then
    (if target / 256 < 8 then s.setFld (TILE_TEMP.STALE (target / 256) (target % 4)) 1
     else s.setFld (CAL_HUB_TEMP.STALE (target % 4)) 1)
  else s

/-- The run's hold on its outputs ends: receive quality after a full averaging window (R146), the others at once; their
10 µs lie below the model's events (log entry 12). -/
def clearStale (item target : Nat) (s : State) : State :=
  let s := forEach (stalePairs item target) (fun g s =>
    s.modPair (g / 4) (g % 4) (fun k => { k with
      stale := false, staleLeft := 2 ^ min 10 (s.fld (PORT_RX_CFG.AVG (g / 4))) })) s
  let s := s.modCal item target (fun c => { c with stale := false })
  if item = 2 then s.setFld (PAIR_TX_POWER.STALE (target / 4) (target % 4)) 0
  else if item = 6 then
    (if target / 256 < 8 then s.setFld (TILE_TEMP.STALE (target / 256) (target % 4)) 0
     else s.setFld (CAL_HUB_TEMP.STALE (target % 4)) 0)
  else s

/-! ### Calibration: temperatures, due item-targets, abandoned runs (R484, R486, R489) -/

/-- The serving sensor of an item-target (R484): die 0 to 7 a tile, 8 the hub; sensor 0 to 3. -/
def servingSensor (item target : Nat) : Nat × Nat :=
  if item = 6 then (target / 256, target % 4)
  else if item = 5 then (8, min (target / 8 / 4) 3)
  else (pairTile target, target / 4 % 16 / 4)

/-- The last reading of a sensor, signed, 0.125 °C. -/
def sensorTemp (s : State) (d : Nat × Nat) : Int :=
  signed 16 (if d.1 < 8 then s.fld (TILE_TEMP.TEMP d.1 d.2) else s.fld (CAL_HUB_TEMP.TEMP d.2))

/-- DTEMP as it acts, in 0.1 °C (R498). -/
def calDtemp (s : State) : Nat := min 200 (max 5 (s.fld CAL_CFG.DTEMP))

/-- Background runs take place (R486). -/
def backgroundOn (s : State) : Bool :=
  s.flag CAL_CFG.BG_EN && (s.fld PWR_PHASE.PHASE == 1 || s.fld PWR_PHASE.PHASE == 2)

/-- The domain that an item-target acts on is ON (R366, R486). -/
def targetOn (s : State) (item target : Nat) : Bool :=
  if item = 5 then (s.dom (0x040 + target / 8)).state == 3
  else if item = 6 then decide (8 ≤ target / 256) || (s.dom (0x020 + target / 256)).state == 3
  else (s.dom (0x020 + pairTile target)).state == 3 && !(s.port (target / 4)).frontOff

/-- An item-target is due (R486, R491, R495): a CAL_RUN names it, or in the background its temperature has moved, it has
no t_last, it is too old, or a run of it was abandoned or is to be repeated. A committed pair's ADC item is exempt, a FAILED
item-target runs for a CAL_RUN only, one in RETRY_WAIT waits, one whose domain is OFF is not checked. -/
def calDue (s : State) (item target : Nat) : Bool :=
  let c := s.cal item target
  if item = 1 ∧ s.flag (PAIR_ADC_STATUS.COMMITTED (target / 4) (target % 4)) then false
  else if c.state = 3 then false
  else if !c.asked.isEmpty then true
  else if !backgroundOn s ∨ !targetOn s item target ∨ c.state = 2 ∨ c.state = 7 then false
  else if c.state = 4 then true
  else match c.tLast with
    | none => true
    | some t =>
      let d := sensorTemp s (servingSensor item target) - t
      decide ((calDtemp s : Int) * 8 < 10 * d.natAbs) ||
        (s.fld CAL_CFG.MAX_AGE != 0 && decide (c.at_ + s.fld CAL_CFG.MAX_AGE * 3600000000 ≤ s.now))

/-- A run is in progress on an item-target. -/
def calRunning (s : State) (item target : Nat) : Bool := s.calRuns.any (fun r => r.item == item && r.target == target)

/-- The jobs that asked for an item-target end ABORTED (R490). -/
def abortAsked (item target : Nat) (s : State) : State :=
  let js := (s.cal item target).asked
  let g := if item ≤ 4 then pairTile target else if item = 6 ∧ target / 256 < 8 then target / 256 else 8
  forEach js (fun j s => finishJob j 0x0B 0 g (if item ≤ 4 then target / 4 else target) s)
    (s.modCal item target (fun c => { c with asked := [] }))

/-- TILE_CAL_STATUS and CAL_STATUS.HUB_BUSY (R498, R499). -/
def showCalBusy (die : Nat) (s : State) : State :=
  let mine := s.calRuns.find? (fun r => (servingSensor r.item r.target).1 == die)
  if die < 8 then
    match mine with
    | some r => (((s.setFld (TILE_CAL_STATUS.BUSY die) 1).setFld (TILE_CAL_STATUS.ITEM die) r.item).setFld
        (TILE_CAL_STATUS.TARGET die) r.target)
    | none => s.setFld (TILE_CAL_STATUS.BUSY die) 0
  else s.setFld CAL_STATUS.HUB_BUSY mine.isSome.toNat

/-- The reference switch is in use while a run that uses a reference is in progress (R482, R483). -/
def showRefBusy (s : State) : State := s.setFld CAL_STATUS.REF_BUSY (s.calRuns.any (fun r => r.item != 3)).toNat

/-- The claim that a run or a swap took for itself is released; one that a host took with CNC_CLAIM stays (R431). -/
def releaseTaken (h : Nat) (s : State) : State :=
  if s.claims.any (fun c => c.handle == h && !c.byClaim) then releaseClaim h s else s

/-- A run is abandoned (R351, R489): the correction stays, the item-target stays due, STALE holds after an LPLL switch
until the repeated run ends; counted, event 0x5004; its CAL_RUN job ends ABORTED. -/
def abandonRun (reason : Nat) (r : CalRun) (s : State) : State :=
  let s := { s with calRuns := s.calRuns.filter (· != r) }
  let s := s.modCal r.item r.target (fun c => { c with state := 4 })
  let s := if reason = 1 then s else clearStale r.item r.target s
  let s := (s.inc CAL_ABANDONED).raise 0x5004 0 [r.item, r.target, reason]
  let s := releaseTaken r.handle (abortAsked r.item r.target s)
  showRefBusy (showCalBusy (servingSensor r.item r.target).1 s)

/-- Abandon every run that `p` selects. -/
def abandonRuns (reason : Nat) (p : CalRun → Bool) (s : State) : State :=
  forEach (s.calRuns.filter p) (abandonRun reason) s

/-- A run acts on a pair of the link: the items of a pair (R483). -/
def runOnLink (l : LinkId) (r : CalRun) : Bool :=
  decide (1 ≤ r.item ∧ r.item ≤ 4) && (linkPairs l).any (fun p => r.target == gpair l.n p)

/-! ### Maintenance swaps and sub-ADC tests (R538, R539, R543) -/

/-- A swap has not switched and holds a spare. -/
def unswitched (w : MSwap) : Bool := w.stage != .wait

/-- The test or job that a swap serves ends ABORTED, and the claim it runs under is released (R539). -/
def endSwapJob (t : Nat) (w : MSwap) (s : State) : State :=
  let ts := s.tests.filter (fun x => x.handle == w.handle)
  let s := { s with tests := s.tests.filter (fun x => x.handle != w.handle) }
  let s := forEach ts (fun x s => finishJob x.job 0x0B 0 t x.unit s) s
  let s := match jobOfClaim s w.handle with
    | some j => finishJob j.num 0x0B 0 t (unitElem j.res) s
    | none => s
  releaseTaken w.handle s

/-- Take a swap's crossbar change back. -/
def takeSwapOut (t : Nat) (w : MSwap) (s : State) : State :=
  s.modTile t (fun k => { k with changes := k.changes.filter (fun c => c.fault || c.old != w.old || c.slice != w.spare) })

/-- A swap that has not switched is abandoned (R539): its spare returns to `st` (1 FREE, 3 FAILED); it restarts when the
port is next in showtime, or ends with its job ABORTED; event 0x7012 with a reason, 0 for none. -/
def abandonSwap (t : Nat) (w : MSwap) (st reason : Nat) (restart : Bool) (s : State) : State :=
  let s := takeSwapOut t w s
  let s := setSliceState t w.spare st s
  let s := if reason = 0 then s else s.raise 0x7012 1 [t, w.old, reason]
  if restart then
    s.modTile t (fun k => { k with swaps := k.swaps.map (fun x => if x == w then { x with stage := .wait, spare := 0x7F } else x) })
  else endSwapJob t w (s.modTile t (fun k => { k with swaps := k.swaps.filter (· != w) }))

/-- The unswitched swaps of a link's pairs. -/
def linkSwaps (s : State) (l : LinkId) : List MSwap :=
  let fes := (linkPairs l).map (fun p => pairFe (gpair l.n p))
  (s.tile (tileOf l.n)).swaps.filter (fun w => unswitched w && fes.any (fun f => feSlice s (tileOf l.n) f == w.old))

/-- The link leaves showtime, or begins start-up or a fast retrain: its swaps restart at the next showtime (R539), its
sub-ADC tests are abandoned (R543). -/
def disturbTests (l : LinkId) (s : State) : State :=
  let t := tileOf l.n
  let s := forEach (linkSwaps s l) (fun w s => abandonSwap t w 1 3 true s) s
  let hit (x : Test) : Bool := unitKind x.unit == 4 && (linkPairs l).any (fun p => unitElem x.unit == gpair l.n p)
  let gone := s.tests.filter hit
  forEach gone (fun x s =>
    let s := s.setFld (PAIR_ADC_STATUS.SPARE_SLOT l.n (unitElem x.unit % 4)) 64
    releaseClaim x.handle (finishJob x.job 0x0B 0 t l.n s)) { s with tests := s.tests.filter (fun x => !hit x) }

/-- A link reaches showtime: the maintenance swaps that wait for it restart from the beginning, on a FREE spare, or for a
swap back on the tested slice (R351, R539). -/
def sideShowtime (l : LinkId) (s : State) : State :=
  let t := tileOf l.n
  let fes := (linkPairs l).map (fun p => pairFe (gpair l.n p))
  let hit := (s.tile t).swaps.filter (fun w => w.stage == .wait && fes.any (fun f => feSlice s t f == w.old))
  forEach hit (fun w s =>
    let own := if w.back then (s.tests.find? (fun x => x.handle == w.handle)).map (fun x => unitElem x.unit) else none
    let free := slicesIn s t 1
    match (match own with | some i => free.find? (· == i) | none => free.head?) with
    | none => s
    | some i => setSliceState t i 2 (s.modTile t (fun k => { k with
        swaps := k.swaps.map (fun x => if x == w then { x with stage := .copy, spare := i } else x) }))) s

/-- ENABLE is set (R332, R367): the REFLECT runs of the idle port end with reason STARTUP, its front ends and slices are powered. -/
def sideEnable (n : Port) (s : State) : State :=
  let s := abortContext n false 4 (s.modPort n (fun k => { k with frontOff := false }))
  forEach allPairs (fun p s =>
    let g := gpair n p
    let on (id : Nat) (s : State) : State := s.modDom id (fun d => { d with prior := 0 })
    on (0x400 + 68 * pairTile g + pairSlice s g) (on (0x200 + g) s)) s

/-! ### The hooks of the link operations -/

/-- A link has left showtime or a fast retrain (R224): what ends with it beside the line. -/
def sideLinkDown (l : LinkId) (s : State) : State :=
  let s := abortContext l.n true 5 s
  let s := histFlags l 2 (forEach (linkPairs l) (fun p s => captureProfile l.n p 3 s) s)
  disturbTests l s

/-- A fast retrain of the link begins (R191, R332, R489). -/
def sideRetrain (l : LinkId) (s : State) : State :=
  let s := abortContext l.n true 5 s
  disturbTests l (histFlags l 5 (abandonRuns 4 (runOnLink l) s))

/-- A link enters G0. -/
def sideStartup (l : LinkId) (s : State) : State := disturbTests l (abortContext l.n true 5 s)

/-- A link enters G2: calibration runs of its pairs are abandoned (R489). -/
def sideG2 (l : LinkId) (s : State) : State := abandonRuns 4 (runOnLink l) s

/-- A cable diagnostic holds a pair of the link (R312 DIAG). -/
def diagHolds (s : State) (l : LinkId) : Bool := (linkPairs l).any (fun p => claimOnPair s 3 (gpair l.n p))

/-- A calibration item of the link is running or due (R306, R312 CAL). -/
def calBusy (s : State) (l : LinkId) : Bool :=
  (linkPairs l).any (fun p => [1, 2, 3, 4].any (fun i => calRunning s i (gpair l.n p) || calDue s i (gpair l.n p)))

/-- A maintenance claim holds a pair, front end or slice of the link (R312 CONCIERGE). -/
def claimHolds (s : State) (l : LinkId) : Bool :=
  (linkPairs l).any (fun p => claimOnPair s 1 (gpair l.n p) || claimOnPair s 5 (gpair l.n p))

/-- The device adds a REPAIR entry through an internal NV_WRITE claim (R237, R509). -/
def internalRepair (type unit spare : Nat) (s : State) : State := askRepair [⟨type, unit, 0, spare⟩] [] s

/-- The port may be enabled: neither BOOT nor RECOVERY, not FENCED, its tile up with its link (R27, R383, R466, R591). -/
def portAllowed (s : State) (n : Port) : Bool :=
  s.fld PWR_PHASE.PHASE != 0 && s.fld PWR_PHASE.PHASE != 3 && !s.flag CFG_CHECK_STATUS.FENCED &&
    !(s.tile (tileOf n)).linkDown && !(s.tile (tileOf n)).inReset

/-- The tile of a port has a locked LPLL, and REFCLK is qualified (R349, R352). -/
def tileClocked (s : State) (n : Port) : Bool :=
  s.flag CLK_STATUS.REF_QUAL && (s.flag (TILE_CLK_STATUS.M_LOCK (tileOf n)) || s.flag (TILE_CLK_STATUS.S_LOCK (tileOf n)))

end Sys2Proof.Machine
end

