-- ==== Sys2Proof/Machine/HostBlocks.lean ====
section
/-! DEFINITION. 64b/66b blocks and their 256b/257b transcoding (R29, R229). The block type codes and the transcoding
are those of IEEE 802.3 Clauses 82 and 119, to which R4 refers and which the spec does not restate: PRESUMED, log
entry 10. -/
namespace Sys2Proof.Machine

/-- What a 64b/66b block is to the ingress (R229). -/
inductive BlockKind where
  | idle | start | data | term (bytes : Nat) | error | ordered
deriving DecidableEq, Repr

/-- The block type octet of a control block. -/
def blockType (b : HostBlock) : Nat := b.data % 256

/-- Octets before a Terminate of each type code. -/
def termBytes (ty : Nat) : Option Nat :=
  if ty = 0x87 then some 0 else if ty = 0x99 then some 1 else if ty = 0xAA then some 2
  else if ty = 0xB4 then some 3 else if ty = 0xCC then some 4 else if ty = 0xD2 then some 5
  else if ty = 0xE1 then some 6 else if ty = 0xFF then some 7 else none

/-- The eight control characters of a block of type 0x1E. -/
def controlChars (b : HostBlock) : List Nat := (List.range 8).map (fun i => b.data / 2 ^ (8 + 7 * i) % 128)

/-- Classify a block (R229): idle control blocks hold idle or Low Power Idle characters (R266). A control block that is none of the
others is an error control block. -/
def blockKind (b : HostBlock) : BlockKind :=
  if !b.ctrl then .data
  else if blockType b = 0x78 then .start
  else if blockType b = 0x4B then .ordered
  else if blockType b = 0x1E && (controlChars b).all (fun c => c == 0 || c == 6) then .idle
  else match termBytes (blockType b) with
    | some k => .term k
    | none => .error

/-- An idle control block. -/
def idleBlock : HostBlock := ⟨true, 0x1E⟩

/-- An error control block: type 0x1E and eight /E/ characters. -/
def errorBlock : HostBlock := ⟨true, 0x1E + 256 * ((List.range 8).foldl (fun a i => a + 0x1E * 128 ^ i) 0)⟩

/-- A sequence ordered set with its 24-bit value (octets 1 to 3). -/
def orderedBlock (v : Nat) : HostBlock := ⟨true, 0x4B + v % 2 ^ 24 * 256⟩

/-- The value of an ordered set. -/
def orderedValue (b : HostBlock) : Nat := b.data / 256 % 2 ^ 24

/-- Local Fault: octets 0, 0, 1. -/
def localFault : HostBlock := orderedBlock 0x010000

/-- Four 64b/66b blocks as one 257b block. -/
def transcode (g : List HostBlock) : Nat :=
  if g.all (fun b => !b.ctrl) then
    1 + 2 * (g.foldr (fun b acc => b.data % 2 ^ 64 + 2 ^ 64 * acc) 0)
  else
    let flags := g.foldr (fun b acc => (!b.ctrl).toNat + 2 * acc) 0
    let i := (g.takeWhile (fun b => !b.ctrl)).length
    let pay := g.foldr (fun b acc => b.data % 2 ^ 64 + 2 ^ 64 * acc) 0
    -- the second nibble of the first control block's type is left out
    let cut := 64 * i + 4
    2 * flags + 2 ^ 5 * (pay % 2 ^ cut + pay / 2 ^ (cut + 4) * 2 ^ cut)

/-- The type octet whose low nibble is given: every low nibble occurs once. -/
def typeOfNibble (x : Nat) : Nat :=
  [0x00, 0xE1, 0xD2, 0x33, 0xB4, 0x55, 0x66, 0x87, 0x78, 0x99, 0xAA, 0x4B, 0xCC, 0x2D, 0x1E, 0xFF].getD x 0

/-- The 64b/66b blocks of a 257b block. -/
def untranscode (x : Nat) : List HostBlock :=
  if x % 2 = 1 then (List.range 4).map (fun i => ⟨false, x / 2 / 2 ^ (64 * i) % 2 ^ 64⟩)
  else
    let flags := x / 2 % 16
    let pay := x / 32
    let i := ((List.range 4).takeWhile (fun i => bit flags i)).length
    let cut := 64 * i + 4
    let hi := typeOfNibble (pay / 2 ^ (64 * i) % 16) / 16
    let full := pay % 2 ^ cut + hi * 2 ^ cut + pay / 2 ^ cut * 2 ^ (cut + 4)
    (List.range 4).map (fun i => ⟨!bit flags i, full / 2 ^ (64 * i) % 2 ^ 64⟩)

/-- The 257b block of four error control blocks (R32), and of four idle blocks. -/
def errorBlock257 : Nat := transcode [errorBlock, errorBlock, errorBlock, errorBlock]
def idleBlock257 : Nat := transcode [idleBlock, idleBlock, idleBlock, idleBlock]

/-- One bit, one byte, and the whole of the frame check sequence of IEEE 802.3 (PRESUMED, log entry 10). -/
def fcsBit (c : Nat) : Nat := if c % 2 = 1 then (c / 2) ^^^ 0xEDB88320 else c / 2
def fcsByte (c b : Nat) : Nat := (List.range 8).foldl (fun c _ => fcsBit c) (c ^^^ b)
def fcs (bs : List Nat) : Nat := (bs.foldl fcsByte 0xFFFFFFFF) ^^^ 0xFFFFFFFF

/-- The `k` octets of a number, most significant first. -/
def octets (k v : Nat) : List Nat := (List.range k).map (fun i => v / 256 ^ (k - 1 - i) % 256)

/-- A frame of 64 octets as host blocks: Start with the preamble, eight data blocks, Terminate (R252, log entry 10). -/
def frameBlocks (bs : List Nat) : List HostBlock :=
  let word (xs : List Nat) : Nat := xs.foldr (fun b acc => b % 256 + 256 * acc) 0
  ⟨true, word [0x78, 0x55, 0x55, 0x55, 0x55, 0x55, 0x55, 0xD5]⟩ ::
    (List.range 8).map (fun i => ⟨false, word ((bs.drop (8 * i)).take 8)⟩) ++ [⟨true, 0x87⟩]

/-- Octet i of a frame's bytes, from its data blocks after the Start block. -/
def frameOctet (g : List HostBlock) (i : Nat) : Nat :=
  ((g.drop 1).getD (i / 8) idleBlock).data / 256 ^ (i % 8) % 256

end Sys2Proof.Machine
end

