-- ==== Sys2Proof/Machine/ModeOps.lean ====
section
/-! DEFINITION. The modes of a port: which are in effect, why a set mode is not, the latency bound and margin they
give, and the registers that show it (R40 to R60, R239, R240, R293). -/
namespace Sys2Proof.Machine

/-! ### Modes in effect -/

/-- The twelve PORT_MODE bits (R40). -/
def mTIMETABLE : Nat := 0
def mREACH : Nat := 1
def mSPLITBAND : Nat := 2
def mBUNDLE : Nat := 3
def mBREAKOUT : Nat := 4
def mTRIPAIR : Nat := 5
def mEEI : Nat := 6
def mTRANSPARENT : Nat := 7
def mPLAIN : Nat := 8
def mLOOP_NEAR : Nat := 9
def mLOOP_FAR : Nat := 10
def mPATTERN : Nat := 11

/-- Bit i is a local mode (R45): TIMETABLE, BUNDLE, EEI and the test modes. -/
def isLocalMode (i : Nat) : Bool := i == 0 || i == 3 || i == 6 || i == 9 || i == 10 || i == 11

/-- Bit i is a test mode (R40). -/
def isTestMode (i : Nat) : Bool := i == 9 || i == 10 || i == 11

/-- PORT_MODE[11:0]. -/
def modeSet (s : State) (n : Nat) : Nat := (s.reg (PORT_MODE n)).toNat % 4096

/-- The port runs as BREAKOUT sub-links (R111, R154, R195). -/
def isBreakout (s : State) (n : Port) : Bool := (s.link (portLink n)).phase == 9

/-- The links that carry the port's traffic: itself, or in BREAKOUT its sub-links. -/
def activeLinks (s : State) (n : Port) : List LinkId :=
  if isBreakout s n then [subLink n 0, subLink n 1, subLink n 2, subLink n 3] else [portLink n]

/-- A link in showtime (R188). -/
def inShow (s : State) (l : LinkId) : Bool := (s.link l).phase == 7

/-- A link in showtime or a fast retrain. -/
def isUp (s : State) (l : LinkId) : Bool := (s.link l).phase == 7 || (s.link l).phase == 8

/-- A link in start-up: G0 to G5 or HOLD_OFF. -/
def inStartup (s : State) (l : LinkId) : Bool :=
  let ph := (s.link l).phase
  decide (1 ≤ ph ∧ ph ≤ 6) || ph == 10

/-- This end sends coaches: in showtime, and before it from its own stage V (R188). -/
def sendsCoaches (k : LinkSt) : Bool := k.phase == 7 || (k.coachOn && (k.phase == 6 || k.phase == 8))

/-- The port is in showtime; in BREAKOUT while any sub-link is (R48, R222). -/
def portShow (s : State) (n : Port) : Bool := (activeLinks s n).any (inShow s)

/-- The BUNDLE partner, port n xor 1 (R12). -/
def partner (n : Port) : Port := ⟨if n.val % 2 = 0 then n.val + 1 else n.val - 1, by split <;> omega⟩

/-- A negotiated mode in effect on a link in showtime (R45, R188). -/
def negotiatedOn (s : State) (n : Port) (i : Nat) : Bool :=
  (activeLinks s n).any (fun l => inShow s l && bit (s.link l).negotiated i)

/-- SPLITBAND in effect, forced or chosen by start-up. -/
def splitOn (s : State) (n : Port) : Bool := (activeLinks s n).any (fun l => inShow s l && (s.link l).splitband)

/-- SPLITBAND in effect because start-up chose it (R43, AUTO). -/
def splitAuto (s : State) (n : Port) : Bool := (activeLinks s n).any (fun l => inShow s l && (s.link l).sbAuto)

/-- A local mode whose change has taken effect. -/
def localOn (s : State) (n : Port) (i : Nat) : Bool := bit (s.port n).localOn i

/-- A loop acts on the coaches of a link: from the first data symbol of its stage V on (R48). -/
def loopOn (s : State) (l : LinkId) (i : Nat) : Bool := localOn s l.n i && sendsCoaches (s.link l)

/-- The pairs PORT_PATTERN_CFG names. -/
def patternMask (s : State) (n : Port) : Nat := s.fld (PORT_PATTERN_CFG.PAIR_MASK n)

/-- The pairs on which this end sends PRBS: those of the last announcement (R53). -/
def sentPattern (s : State) (n : Port) : Nat := (s.port n).patMask

/-- A test mode is in effect on the port (R60). -/
def testOn (s : State) (n : Port) : Bool :=
  portShow s n && (localOn s n 9 || localOn s n 10 || sentPattern s n != 0)

/-- TRANSPARENT lacks the line capacity it needs (R58), always so in BREAKOUT (R55 row 41). -/
def capacityLow (s : State) (n : Port) : Bool :=
  isBreakout s n || (activeLinks s n).any (fun l => (s.link l).capacityLow)

/-- Mode i is in effect (R42, R48, R54 to R60). -/
def inEffect (s : State) (n : Port) (i : Nat) : Bool :=
  if i = 0 then localOn s n 0
  else if !portShow s n then false
  else if i = 1 then negotiatedOn s n 1
  else if i = 2 then splitOn s n
  else if i = 3 then localOn s n 3 && portShow s (partner n)
  else if i = 4 then isBreakout s n
  else if i = 5 then negotiatedOn s n 5 && !isBreakout s n
  else if i = 6 then localOn s n 6 && !testOn s n
  else if i = 7 then negotiatedOn s n 7 && !capacityLow s n
  else if i = 8 then negotiatedOn s n 8
  else if i = 11 then sentPattern s n != 0
  else localOn s n i

/-- The modes in effect as bits [11:0]. -/
def effectiveModes (s : State) (n : Port) : Nat :=
  (List.range 12).foldl (fun m i => if inEffect s n i then m + 2 ^ i else m) 0

/-- The mode whose tables a wait code of `rateWait` exchanges: 4 and 5 TRANSPARENT, 6 and 7 PLAIN. -/
def waitMode (w : Nat) : Option Nat := if w = 4 ∨ w = 5 then some 7 else if w = 6 ∨ w = 7 then some 8 else none

/-- A change of mode i waits on link l for its tables, a reply, a resend, its agreed stage or the end of its retrain (R42 PENDING). -/
def linkPending (s : State) (l : LinkId) (i : Nat) : Bool :=
  let k := s.link l
  (k.proposals ++ k.withdrawn).any (fun q => q.code == 0x30 && q.arg % 16 == i) ||
  k.waiting.any (fun w => w.code == 0x30 && w.arg % 16 == i) ||
  k.changes.any (fun c => match c.kind with | .mode b _ => b == i | _ => false) ||
  k.modeAsk.any (fun x => x.1 == i) || k.retrainModes.any (fun x => x.1 == i) ||
  (k.rateWait.any (fun w => waitMode w == some i) && !bit k.declined i)

/-- PATTERN has drained and waits for the waymark symbol that announces it, on a link that sends coaches (R45). -/
def patternDue (s : State) (n : Port) : Bool :=
  let want := if localOn s n 11 then patternMask s n else 0
  (activeLinks s n).any (fun l => sendsCoaches (s.link l) &&
    (linkPairs l).any (fun p => bit want p != bit (sentPattern s n) p))

/-- A change of mode i of the port waits. -/
def modePending (s : State) (n : Port) (i : Nat) : Bool :=
  if isLocalMode i then bit (s.port n).localWait i || (i == 11 && patternDue s n) else (activeLinks s n).any (fun l => linkPending s l i)

/-- Mode changes agreed on the port's links. -/
def agreedModes (s : State) (n : Port) : List (Nat × Bool) :=
  ((activeLinks s n).flatMap (fun l => (s.link l).changes)).filterMap (fun c =>
    match c.kind with | .mode b on => some (b, on) | _ => none)

/-- The reason code of mode i (R43, R44, R48, R158, R175). -/
def modeReason (s : State) (n : Port) (i : Nat) : Nat :=
  if bit (modeSet s n) i then
    if inEffect s n i then 0
    else if i = 0 then 1
    else if i = 4 ∧ (activeLinks s n).any (fun l => (s.link l).phase == 1 && bit (s.link l).declined 4) then 3
    else if !portShow s n then 2
    else if i = 5 ∧ isBreakout s n then 6
    else if i = 7 ∧ isBreakout s n then 7
    else if i = 7 ∧ capacityLow s n ∧ !(agreedModes s n).any (fun c => c.1 == 7) then 7
    else if modePending s n i then 1
    else if i = 3 then (if localOn s n 3 then 5 else 1)
    else if i = 6 then (if localOn s n 6 then 4 else 1)
    else if i = 11 then (if localOn s n 11 then 6 else 1)
    else if i = 9 ∨ i = 10 then 1
    else 3
  else if i = 2 ∧ splitAuto s n then 8
  else 0

/-! ### Bound and margin (R57, R239, R240), in 0.1 ns -/

/-- The port's host lane runs at half rate (R265). -/
def laneHalf (s : State) (n : Port) : Bool := (s.lane (s.portLane n)).half

/-- Either end announced HALF_RATE at the last start-up (R57, R265): bit 33 of page 0 (R174). -/
def halfRate (s : State) (n : Port) : Bool :=
  (activeLinks s n).any (fun l => (s.link l).sentHalf || bit ((s.link l).peerPages.headD 0) 33)

/-- The wake budget in force, in ns (R294); in BREAKOUT the largest of the sub-links'. -/
def wakeBudget (s : State) (n : Port) : Nat :=
  ((activeLinks s n).map (fun l => (s.link l).eei.budget)).foldl max 0

/-- The sum of the terms of R240 for a set of modes: REACH, BREAKOUT, SPLITBAND, half-rate lanes. -/
def modeTerms (eff : Nat) (half : Bool) (reach brk split hr : Nat) : Nat :=
  (if bit eff 1 then reach else 0) + (if bit eff 4 then brk else 0) + (if bit eff 2 then split else 0) +
  (if half then hr else 0)

/-- A column of R239: base, TRANSPARENT, PLAIN, both. -/
def budgetColumn (eff base tr pl both : Nat) : Nat :=
  match bit eff 7, bit eff 8 with
  | false, false => base
  | true, false => tr
  | false, true => pl
  | true, true => both

/-- The EEI term: the wake budget (ns) while EEI is in effect. -/
def eeiTerm (eff budget : Nat) : Nat := if bit eff 6 then 10 * budget else 0

/-- Bound, margin, transmit and receive part (R57, R239, R240) for a set of modes. -/
def boundFor (eff : Nat) (half : Bool) (budget : Nat) : Nat :=
  budgetColumn eff 2500 1900 2300 1750 + modeTerms eff half 2300 100 250 200 + eeiTerm eff budget
def marginFor (eff : Nat) (half : Bool) (budget : Nat) : Nat :=
  budgetColumn eff 352 202 352 252 + modeTerms eff half 1152 100 250 0 + eeiTerm eff budget
def txFor (eff : Nat) (half : Bool) (budget : Nat) : Nat :=
  budgetColumn eff 1416 916 1366 916 + modeTerms eff half 1476 100 250 100 + eeiTerm eff budget
def rxFor (eff : Nat) (half : Bool) : Nat :=
  budgetColumn eff 1084 984 934 834 + modeTerms eff half 824 0 0 100

/-- The latency bound (R57), the margin that admission checks (R239, R240) and the two parts, now. -/
def boundOf (s : State) (n : Port) : Nat := boundFor (effectiveModes s n) (halfRate s n) (wakeBudget s n)
def marginOf (s : State) (n : Port) : Nat := marginFor (effectiveModes s n) (halfRate s n) (wakeBudget s n)
def txPart (s : State) (n : Port) : Nat := txFor (effectiveModes s n) (halfRate s n) (wakeBudget s n)
def rxPart (s : State) (n : Port) : Nat := rxFor (effectiveModes s n) (halfRate s n)

/-- The mode sets a frame admitted now may travel under: the modes in effect, and with each agreed change (R49). -/
def modeSets (s : State) (n : Port) : List Nat :=
  let eff := effectiveModes s n
  eff :: (agreedModes s n).map (fun c => setBit eff c.1 c.2)

/-- The lower of the old and new bounds between agreement and the agreed stage (R49). -/
def admitBound (s : State) (n : Port) : Nat :=
  (modeSets s n).foldl (fun m e => min m (boundFor e (halfRate s n) (wakeBudget s n))) (boundOf s n)

/-- The margin that admission checks: what the lower bound leaves after the fixed time of each configuration the frame may
travel under (R49, R239, R240). -/
def admitMargin (s : State) (n : Port) : Nat :=
  (modeSets s n).foldl (fun m e =>
    min m (admitBound s n + marginFor e (halfRate s n) (wakeBudget s n) - boundFor e (halfRate s n) (wakeBudget s n)))
    (marginOf s n)

/-- The transmit part that an admitted frame must meet: its own under the modes in effect, less what the lower bound of an
agreed change takes away (R49). -/
def admitTx (s : State) (n : Port) : Nat := txPart s n + admitBound s n - boundOf s n

/-! ### EEI depths (R291, R293) -/

/-- The required budget of a depth in ns (R293). -/
def requiredBudget (reach : Bool) (depth : Nat) : Nat :=
  match depth with
  | 1 => if reach then 4368 else 2934
  | 2 => if reach then 12868 else 11434
  | _ => 351434

/-- The allowed depth: the deepest whose required budget the budget meets and that MAX_DEPTH allows; 0 for none. -/
def allowedDepth (reach : Bool) (budget maxDepth : Nat) : Nat :=
  if 3 ≤ maxDepth ∧ requiredBudget reach 3 ≤ budget then 3
  else if 2 ≤ maxDepth ∧ requiredBudget reach 2 ≤ budget then 2
  else if 1 ≤ maxDepth ∧ requiredBudget reach 1 ≤ budget then 1
  else 0

/-- The allowed depth of a link now. -/
def linkAllowed (s : State) (l : LinkId) : Nat :=
  let e := (s.link l).eei
  allowedDepth (inEffect s l.n 1) (if inEffect s l.n 6 then e.budget else 0) e.maxDepth

/-- EEI_STATUS.STATE of a link (R314). -/
def eeiState (s : State) (l : LinkId) : Nat :=
  let k := s.link l
  let e := k.eei
  if !inShow s l || !localOn s l.n 6 then 8
  else if testOn s l.n ∧ !e.inDepth ∧ e.waking.isNone then 7
  else if e.waking.isSome then 6
  else if e.inDepth then 2 + e.depth
  else if e.agreed then 2
  else if k.proposals.any (fun q => q.code == 0x40) then 1
  else 0

/-- Show a link's EEI state in EEI_STATUS; in BREAKOUT the register shows the sub-link that acted last (R314). -/
def showEei (l : LinkId) (s : State) : State :=
  let e := (s.link l).eei
  ((s.setFld (EEI_STATUS.STATE l.n) (eeiState s l)).setFld (EEI_STATUS.ALLOWED l.n) (linkAllowed s l)).setFld
    (EEI_STATUS.DEPTH l.n) (if e.agreed || e.inDepth || e.waking.isSome then e.depth else 0)

/-! ### Showing the modes -/

/-- The reason word of modes lo to lo + 7 (R42). -/
def reasonWord (s : State) (n : Port) (lo count : Nat) : Nat :=
  (List.range count).foldl (fun w i => w + modeReason s n (lo + i) * 16 ^ i) 0

/-- The reason code the registers show for mode i. -/
def shownReason (s : State) (n : Nat) (i : Nat) : Nat :=
  if i < 8 then bits (s.reg (PORT_MODE_REASON0 n)).toNat (4 * i + 3) (4 * i)
  else bits (s.reg (PORT_MODE_REASON1 n)).toNat (4 * (i - 8) + 3) (4 * (i - 8))

/-- Record event 0x2040 for every reason code that changes (R44). -/
def reasonEvents (n : Port) (s : State) : State :=
  forEach (List.range 12) (fun i s =>
    if shownReason s n i = modeReason s n i then s
    else s.raise 0x2040 0 [n, i, shownReason s n i, modeReason s n i]) s

/-- The earliest agreed mode change of a port's links, if any (R42 PORT_MODE_STAGE). -/
def modeStage (s : State) (n : Port) : Option Nat :=
  ((activeLinks s n).flatMap (fun l => (s.link l).changes)).foldl (fun b c =>
    match c.kind with
    | .mode _ _ => (match b with | none => some c.stage | some x => if later x c.stage then some c.stage else some x)
    | _ => b) none

/-- Show the modes of a port: EFFECTIVE, INACTIVE, REASON, PENDING, STAGE, the counts and event of a change, the
bound and margin, and the EEI state (R42, R44, R240, R255). -/
def showModes (n : Port) (s : State) : State :=
  let eff := effectiveModes s n
  let fc := inEffect s n 7 && (s.fld (TT_PORT_CFG.FC_SEL n) == 1 || s.fld (TT_PORT_CFG.FC_SEL n) == 2)
  let changed := s.fld (PORT_MODE_EFFECTIVE.EFFECTIVE n) != eff
  let r0 := reasonWord s n 0 8
  let r1 := reasonWord s n 8 4
  let ina := (List.range 12).foldl (fun m i => if bit (modeSet s n) i && !inEffect s n i then m + 2 ^ i else m) 0
  let pend := (List.range 12).foldl (fun m i => if modePending s n i then m + 2 ^ i else m) 0
  let st := modeStage s n
  let b := boundOf s n
  let m := marginOf s n
  let tt := inEffect s n 0
  let s := reasonEvents n s
  let s := if changed then s.inc (PORT_MODE_CHANGES n) else s
  let s := (s.setFld (PORT_MODE_EFFECTIVE.EFFECTIVE n) eff).setFld (PORT_MODE_EFFECTIVE.FC_IGNORED n) fc.toNat
  let s := s.setFld (PORT_MODE_INACTIVE.INACTIVE n) ina
  let s := (s.setReg (PORT_MODE_REASON0 n) (word r0)).setReg (PORT_MODE_REASON1 n) (word r1)
  let s := (s.setFld (PORT_MODE_PENDING.PENDING n) pend).setFld (PORT_MODE_PENDING.STAGE_VALID n) st.isSome.toNat
  let s := match st with | some x => s.setReg (PORT_MODE_STAGE n) (word x) | none => s
  let s := (s.setReg (TT_BOUND n) (word b)).setReg (TT_MARGIN n) (word m)
  let s := s.setFld (TT_STATUS.TT_EFFECTIVE n) tt.toNat
  if isBreakout s n then s else showEei (portLink n) s

/-- Show the modes of a port and of its BUNDLE partner, whose BUNDLE depends on it (R43 PARTNER_DOWN). -/
def refreshModes (n : Port) (s : State) : State := showModes (partner n) (showModes n s)

end Sys2Proof.Machine
end

