-- ==== Sys2Proof/Machine/TtOps.lean ====
section
/-! DEFINITION. The Timetable and the Hostel: beds and banks, capacity notices, admission, refusal, tail-drop,
expiry, flushing and flow control, as operations over a link's queues (R33, R228 to R259). -/
namespace Sys2Proof.Machine

/-! ### Banks and beds (R234 to R236) -/

/-- Set the state of a bank. -/
def setBankState (b st : Nat) (s : State) : State :=
  s.setFld ⟨HOSTEL_BANK_STATE (b / 16), 2 * (b % 16) + 1, 2 * (b % 16)⟩ st

/-- The 66 banks. -/
def allBanks : List Nat := List.range 66

/-- Banks in a state. -/
def banksIn (s : State) (st : Nat) : List Nat := allBanks.filter (fun b => bankState s b == st)

/-- Beds of a bank (R25). -/
def bedsPerBank : Nat := 3072

/-- Beds used in a bank; a bank holds 196,608 / 64 beds (R25). -/
def bedsUsed (s : State) (b : Nat) : Nat := SMap.get (fun _ => 0) s.banks.used b
def setBedsUsed (b v : Nat) (s : State) : State := { s with banks := { s.banks with used := SMap.put (fun _ => 0) s.banks.used b v } }

/-- Set the number of beds of the shared pool in use. -/
def setShared (v : Nat) (s : State) : State := { s with banks := { s.banks with shared := v } }

/-- Beds held by a list of frames. -/
def framesBeds (fs : List Frame) : Nat := (fs.map (fun f => f.banks.length)).sum

/-- Beds held by a direction of a port (R235). -/
def dirBeds (s : State) (n : Port) (d : Dir) : Nat :=
  ((portLinks n).map (fun l => match d with
    | .tx => framesBeds (s.queue l).tx + ((s.queue l).cwUnits.map (fun u => u.banks.length)).sum
    | .rx => framesBeds (s.queue l).rx)).sum

/-- Free beds of the shared pool (R235, R236): 184,320, less the beds of banks out of service that none replaces, less those in use. -/
def poolFree (s : State) : Nat :=
  184320 - bedsPerBank * (64 - s.fld HOSTEL_STATUS.IN_SERVICE) - s.banks.shared

/-- Show the free beds of the pool, and the lowest number (R260). -/
def showPool (s : State) : State :=
  let s := s.setFld HOSTEL_STATUS.SHARED_FREE (poolFree s)
  if s.fld HOSTEL_STATUS.SHARED_FREE < s.fld HOSTEL_SHARED_MIN.MIN then
    s.setFld HOSTEL_SHARED_MIN.MIN (s.fld HOSTEL_STATUS.SHARED_FREE) else s

/-- Show a port's beds (R261). -/
def showBeds (n : Port) (s : State) : State :=
  (s.setFld (TT_BEDS.TX n) (min (dirBeds s n .tx) 0xFFFF)).setFld (TT_BEDS.RX n) (min (dirBeds s n .rx) 0xFFFF)

/-- Show the number of banks in service and spare, and the pool that they leave (R236). -/
def showBanks (s : State) : State :=
  showPool ((s.setFld HOSTEL_STATUS.IN_SERVICE (banksIn s 0).length).setFld HOSTEL_STATUS.SPARE (banksIn s 1).length)

/-- The shared beds a direction may hold (TT_CAP, R235). -/
def bedCap (s : State) (n : Port) (d : Dir) : Nat :=
  match d with
  | .tx => s.fld (TT_CAP.CAP_TX n)
  | .rx => s.fld (TT_CAP.CAP_RX n)

/-- Banks a bed may be granted from: in service with a free bed, other than the frame's last bank if possible. -/
def bedChoices (s : State) (last : Option Nat) : List Nat :=
  let free := (banksIn s 0).filter (fun b => decide (bedsUsed s b < bedsPerBank))
  let other := free.filter (fun b => some b != last)
  if other.isEmpty then free else other

/-- Take a bed for a direction that holds `held` beds, from the pool once its reserve of 48 is full (R235): the bank, or none. Which of
the allowed banks it lies in is left open by the spec: a free value (log entry 3). An empty pool raises event 0x4012 (R262). -/
def takeBed (n : Port) (held : Nat) (last : Option Nat) (s : State) : Option Nat × State :=
  let shared := decide (48 ≤ held)
  if shared && poolFree s == 0 then (none, s.raise 0x4012 1 [0, n])
  else
    let ch := bedChoices s last
    match ch with
    | [] => (none, s)
    | b0 :: _ =>
      let (v, s) := s.draw
      let b := ch.getD (v % ch.length) b0
      let s := setBedsUsed b (bedsUsed s b + 1) s
      (some b, if shared then showPool (setShared (s.banks.shared + 1) s) else s)

/-- Grant a bed to a direction that holds `held`, up to its cap (R235). -/
def grantTo (n : Port) (d : Dir) (held : Nat) (last : Option Nat) (s : State) : Option Nat × State :=
  if decide (48 ≤ held) && decide (bedCap s n d ≤ held - 48) then (none, s) else takeBed n held last s

/-- Grant a bed to a direction (R235). -/
def grantBed (n : Port) (d : Dir) (last : Option Nat) (s : State) : Option Nat × State := grantTo n d (dirBeds s n d) last s

/-- Return one bed of a bank; `held` beds were held by the direction before (R235). -/
def releaseBed (held b : Nat) (s : State) : State :=
  let s := setBedsUsed b (bedsUsed s b - 1) s
  if 48 < held then showPool (setShared (s.banks.shared - 1) s) else s

/-- Return a list of beds. -/
def releaseBeds (n : Port) (d : Dir) (bs : List Nat) (s : State) : State :=
  (bs.foldl (fun (x : Nat × State) b => (x.1 - 1, releaseBed x.1 b x.2)) (dirBeds s n d, s)).2

/-! ### Capacity (R33, R75, R233, R241) -/

/-- The mask of pairs that carry coaches in the transmit direction (R94). -/
def carryMask (s : State) (l : LinkId) : Nat :=
  let k := s.link l
  if sendsCoaches k then k.carry else 0

/-- Pairs that PATTERN takes from the coaches of this end's transmit direction, as last announced (R53). -/
def patternPairs (s : State) (l : LinkId) : Nat :=
  pairsMask ((linkPairs l).filter (bit (sentPattern s l.n)))

/-- The carrying pairs of the transmit direction, less those PATTERN names, as a list (R94). -/
def carryList (s : State) (l : LinkId) : List Nat :=
  (maskPairs (carryMask s l)).filter (fun p => !bit (patternPairs s l) p)

/-- The share in force in the transmit direction: PORT_FRAMING_TX.SHARE16 of the port, for a sub-link the share of
tier 100 over one pair (R111, R112). TRANSPARENT shares its stream over the pairs that carry coaches (R58). -/
def txShare (s : State) (l : LinkId) : Nat :=
  let k := s.link l
  match l.sub with
  | none => share (bit k.negotiated 1) k.streamTx (if 4 ≤ k.streamTx then (carryList s l).length else pairCount k.carry)
  | some _ => share (bit k.negotiated 1) 3 1

/-- The net line capacity per data symbol that the tile reports (R33, R75): P × S less the pairs named by PATTERN;
under LOOP_NEAR the committed tier's, for the loop lies before the line (R55 rows 9 and 65); 0 outside showtime. -/
def lineCapacity (s : State) (l : LinkId) : Nat :=
  if !inShow s l then 0
  else if inEffect s l.n 9 then pairCount (carryMask s l) * txShare s l
  else (carryList s l).length * txShare s l

/-- The tile's notice of the capacity in force, at once (R33); agreed capacities whose stage has come end. -/
def capNotice (l : LinkId) (s : State) : State :=
  let c := lineCapacity s l
  let own := (s.link l).own
  s.modQueue l (fun q => { q with cap := c, capNew := q.capNew.filter (fun x => x.2.all (fun st => later st own)) })

/-- The tile's notice of an agreed capacity and its stage (R33, R213): admission uses the lower of old and new until then. -/
def capAgree (l : LinkId) (c stage : Nat) (s : State) : State :=
  s.modQueue l (fun q => { q with capNew := q.capNew ++ [(c, some stage)] })

/-- The notice of a capacity that a test-mode change brings at its drain point (R50), and its end. -/
def capAwait (l : LinkId) (c : Nat) (s : State) : State :=
  s.modQueue l (fun q => { q with capNew := q.capNew ++ [(c, none)] })
def capDrained (l : LinkId) (s : State) : State :=
  s.modQueue l (fun q => { q with capNew := q.capNew.filter (fun x => x.2.isSome) })

/-- An agreed change of a stage is cancelled, and its capacity with it (R214). -/
def capCancel (l : LinkId) (stage : Nat) (s : State) : State :=
  s.modQueue l (fun q => { q with capNew := q.capNew.filter (fun x => x.2 != some stage) })

/-- C of R241: the lowest of the capacity in force and those agreed. -/
def queueCap (q : QueueSt) : Nat := q.capNew.foldl (fun c x => min c x.1) q.cap

/-- Host rate in coach bits per ns (R242). -/
def hostRate (half : Bool) : Rat := if half then 2015625 / 10000 else 403125 / 1000

/-- c of R241 in bits per ns; e of R233 is not applied in TRANSPARENT. -/
def queueRate (s : State) (l : LinkId) : Rat :=
  let q := s.queue l
  let line : Rat := (queueCap q : Rat) * 45 / 1024
  if inEffect s l.n 7 then line else min line q.far

/-! ### Frames leaving a queue -/

/-- Update the queue of a direction. -/
def setFrames (l : LinkId) (d : Dir) (fs : List Frame) (s : State) : State :=
  s.modQueue l (fun q => match d with
    | .tx => { q with tx := fs }
    | .rx => { q with rx := fs })

/-- The queue of a direction. -/
def frames (s : State) (l : LinkId) (d : Dir) : List Frame :=
  match d with
  | .tx => (s.queue l).tx
  | .rx => (s.queue l).rx

/-- What remains of a frame whose rest is removed: one error control block where any of it has left, else nothing
(R243, R245). -/
def truncated (f : Frame) : List Frame :=
  if f.sent then [{ f with state := .refused, blocks := [errorBlock257], closed := true, banks := f.banks.take 1 }]
  else []

/-- Remove every frame of a queue that `p` selects, ending a sent part with an error control block, and release
its beds; answers how many. -/
def dropFrames (l : LinkId) (d : Dir) (p : Frame → Bool) (s : State) : Nat × State :=
  let fs := frames s l d
  let hit := fs.filter p
  let s := releaseBeds l.n d (hit.flatMap (fun f => if f.sent then f.banks.drop 1 else f.banks)) s
  (hit.length, setFrames l d (fs.flatMap (fun f => if p f then truncated f else [f])) s)

/-- The expiry counter of a direction. -/
def expiredAt (n : Port) (d : Dir) : Nat :=
  match d with
  | .tx => TT_EXPIRED_TX n
  | .rx => TT_EXPIRED_RX n

/-- Expire the accepted TIMETABLE frames that `p` selects (R245): count, event 0x4010. Ordered sets are no frames and stay. -/
def expireFrames (l : LinkId) (d : Dir) (p : Frame → Bool) (cause : Nat) (s : State) : State :=
  let (k, s) := dropFrames l d (fun f => f.tt && !f.os && f.state == .accepted && p f) s
  if k = 0 then s else (s.addTo (expiredAt l.n d) k).raise 0x4010 1 [l.n, dirNat d, cause, k]

/-- Bits of alignment markers that begin a pair of codewords: 2056 at full rate, 1028 at half rate (log entry 10). -/
def markerLen (half : Bool) : Nat := if half then 1028 else 2056

/-- Bits of a pair of codewords from place `o` on, with the uncorrectable pattern in the symbols of the codewords that `bad` names; the
first `m` bits of the pair are alignment markers and keep their places (R259). The codewords share the pair symbol by symbol (log
entry 10). -/
def spoilPair (half : Bool) (m : Nat) (bad : Bool × Bool) (o : Nat) (bs : List Bool) : List Bool :=
  (bs.zipIdx o).map (fun x =>
    let sy := x.2 / 10
    if x.2 < m then bit (Config.alignmentMarkers half) x.2
    else if (if sy % 2 = 0 then bad.1 else bad.2) then bit Config.uncorrectablePattern (sy / 2 * 10 + x.2 % 10)
    else x.1)

/-- Waiting pairs of codewords, with the codewords that `p` selects as the uncorrectable pattern (R259). -/
def spoilUnits (half : Bool) (p : CwUnit → Bool) : List Bool → List CwUnit → List Bool
  | bs, a :: b :: us =>
    let r := bs.length - 10880 * (us.length / 2)
    let here := if p a || p b then spoilPair half (if a.mark then markerLen half else 0) (p a, p b) (10880 - r) (bs.take r)
      else bs.take r
    here ++ spoilUnits half p (bs.drop r) us
  | bs, _ => bs

/-- The uncorrectable pattern goes in the place of the waiting codewords that `p` selects: how many (R259). -/
def dropCodewords (l : LinkId) (p : CwUnit → Bool) (s : State) : Nat × State :=
  let q := s.queue l
  let k := (q.cwUnits.filter p).length
  if k = 0 then (0, s)
  else
    let half := laneHalf s l.n
    (k, (s.modQueue l (fun q => { q with
      cwTx := spoilUnits half p q.cwTx q.cwUnits,
      cwUnits := q.cwUnits.map (fun u => if p u then { u with due := none } else u) })).addTo (TT_CW_REFUSED l.n) k)

/-- Expire the waiting codewords whose deadline `p` selects: counted, event 0x4010, the pattern in their place (R245, R246, R259). -/
def expireCodewords (l : LinkId) (p : Rat → Bool) (cause : Nat) (s : State) : State :=
  let (k, s) := dropCodewords l (fun u => u.due.any p) s
  if k = 0 then s else (s.addTo (TT_EXPIRED_TX l.n) k).raise 0x4010 1 [l.n, 0, cause, k]

/-- Received codewords not yet handed to the egress whose deadline `p` selects leave as the pattern (R247, R259); they count in
TT_CW_REFUSED as they leave. -/
def expireRxCodewords (l : LinkId) (p : Rat → Bool) (cause : Nat) (s : State) : State :=
  let q := s.queue l
  let hit := q.cwRxDue.map (fun d => d.any p)
  let k := 2 * (hit.filter (· == true)).length
  if k = 0 then s
  else
    let s := s.modQueue l (fun q => { q with
      cwRx := q.cwRx.zipIdx.map (fun x => if hit.getD (x.2 / 10880) false then (x.1.1, true) else x.1),
      cwRxDue := q.cwRxDue.map (fun d => if d.any p then none else d) })
    (s.addTo (TT_EXPIRED_RX l.n) k).raise 0x4010 1 [l.n, 1, cause, k]

/-- Add a pair of codewords, with their units, to those that wait (R258, R259). -/
def pushPair (l : LinkId) (bs : List Bool) (a b : CwUnit) (s : State) : State :=
  s.modQueue l (fun q => { q with cwTx := q.cwTx ++ bs, cwUnits := q.cwUnits ++ [a, b] })

/-- Take the first `k` waiting codeword bits, with the units and beds of the pairs that leave whole. -/
def dropCodewordBits (l : LinkId) (k : Nat) (s : State) : State :=
  let q := s.queue l
  let bs := q.cwTx.drop k
  let gone := q.cwUnits.length - 2 * ((bs.length + 10879) / 10880)
  let s := releaseBeds l.n .tx ((q.cwUnits.take gone).flatMap (fun u => u.banks)) s
  s.modQueue l (fun q => { q with cwTx := bs, cwUnits := q.cwUnits.drop gone })

/-- Bits of waiting codewords that may leave: those held for a new route stay (R50). -/
def cwReady (q : QueueSt) : Nat := q.cwTx.length - 10880 * ((q.cwUnits.filter (fun u => u.held)).length / 2)

/-- All waiting codewords go, with their beds (R257). -/
def clearCodewords (l : LinkId) (s : State) : State :=
  let s := releaseBeds l.n .tx ((s.queue l).cwUnits.flatMap (fun u => u.banks)) s
  s.modQueue l (fun q => { q with cwTx := [], cwUnits := [] })

/-- Every queued frame expires: link down, tile link failed (R246, R250). -/
def expireAll (l : LinkId) (cause : Nat) (s : State) : State := expireFrames l .tx (fun _ => true) cause s

/-- Flush the transmit queue of a port outside TIMETABLE (R257). -/
def flushTx (l : LinkId) (s : State) : State :=
  let fs := frames s l .tx
  let gone := fs.filter (fun f => !f.tt)
  let s := releaseBeds l.n .tx (gone.flatMap (fun f => f.banks)) s
  let s := (setFrames l .tx (fs.filter (fun f => f.tt)) s).modQueue l (fun q => { q with flushed := true })
  showBeds l.n (s.addTo (TT_FLUSHED l.n) (gone.filter (fun f => !f.os)).length)

/-! ### Flow control (R252 to R255) -/

/-- Flow control frames may be sent: PAUSE or PFC is selected and TRANSPARENT is not in effect (R255). -/
def fcOn (s : State) (n : Port) : Bool :=
  (s.fld (TT_PORT_CFG.FC_SEL n) == 1 || s.fld (TT_PORT_CFG.FC_SEL n) == 2) && !inEffect s n 7

/-- Host ingress has a route now: LOOP_FAR without LOOP_NEAR takes it away (R52), and in BREAKOUT a sub-link outside
showtime (R231). -/
def routeNow (s : State) (l : LinkId) : Bool :=
  !(loopOn s l 10 && !loopOn s l 9) && (l.sub.isNone || inShow s l)

/-- Host ingress of a link has a route for what comes now: the present one, and the one that a waiting change of the loops leaves
(R50, R52). -/
def hasRoute (s : State) (l : LinkId) : Bool :=
  let k := s.port l.n
  let after (i : Nat) : Bool := if bit k.localWait i then bit k.localVal i else localOn s l.n i
  routeNow s l && !(sendsCoaches (s.link l) && after 10 && !after 9)

/-- The XOFF condition of a link (R253); outside TIMETABLE also while blocks wait in the host ingress stage (R36). -/
def xoffCond (s : State) (l : LinkId) : Bool :=
  let q := s.queue l
  !hasRoute s l || queueCap q == 0 ||
  (if inEffect s l.n 0 then
    decide ((s.fld (TT_FC_CFG.XOFF_LAG l.n) : Rat) / 4 ≤ q.lastLag) || decide (queueCap q < q.cap)
  else decide (s.fld (TT_FC_BEDS.XOFF_BEDS l.n) ≤ dirBeds s l.n .tx) || !(s.host l.n).stage.isEmpty)

/-- The XON condition of a link (R253) at time t. -/
def xonCond (s : State) (l : LinkId) (t : Rat) : Bool :=
  let q := s.queue l
  hasRoute s l && queueCap q != 0 &&
  (if inEffect s l.n 0 then
    (match q.vf with | none => true | some v => decide (v - t ≤ (s.fld (TT_FC_CFG.XON_LAG l.n) : Rat) / 4)) &&
      queueCap q == q.cap
  else decide (dirBeds s l.n .tx ≤ s.fld (TT_FC_BEDS.XON_BEDS l.n)) && (s.host l.n).stage.isEmpty)

/-- Judge the conditions of R253 and queue a generated frame when one begins. The lag of a block ends with the XON that follows it: a
new XOFF needs a new block. -/
def fcJudge (n : Port) (t : Rat) (s : State) : State :=
  if !fcOn s n then s
  else
    let h := s.host n
    if !h.xoffOn && (activeLinks s n).any (xoffCond s) then
      s.modHost n (fun h => { h with xoffOn := true, fcWait := some (s.fld (TT_FC_CFG.QUANTA n)) })
    else if h.xoffOn && (activeLinks s n).all (fun l => xonCond s l t) then
      forEach (activeLinks s n) (fun l s => s.modQueue l (fun q => { q with lastLag := 0 }))
        (s.modHost n (fun h => { h with xoffOn := false, fcWait := some 0 }))
    else s

/-- Show whether the ingress has a route (R261). -/
def showRoute (n : Port) (s : State) : State :=
  s.setFld (TT_STATUS.NO_ROUTE n) ((activeLinks s n).any (fun l => !hasRoute s l)).toNat

/-! ### Admission (R242, R256) -/

/-- Append a block to the last frame of the transmit queue. -/
def appendTx (l : LinkId) (x : Nat) (bank : Option Nat) (g : Frame → Frame) (s : State) : State :=
  s.modQueue l (fun q =>
    match q.tx.getLast? with
    | none => q
    | some f =>
      let f := { f with blocks := f.blocks ++ [x], count := f.count + 1,
                        banks := f.banks ++ (match bank with | some b => [b] | none => []) }
      { q with tx := q.tx.dropLast ++ [g f] })

/-- With an EEI entry agreed or the link in a depth, vf starts no earlier than the depth's longest wake plus one
stage, in ns (R250, R293). -/
def eeiFloor (s : State) (l : LinkId) : Rat :=
  let e := (s.link l).eei
  if e.agreed || e.inDepth || e.waking.isSome then (requiredBudget (inEffect s l.n 1) e.depth : Nat) else 0

/-- Charge `cb` coach bits to vf at time t; none while the capacity is 0 (R241). -/
def chargeVf (s : State) (l : LinkId) (t : Rat) (cb : Nat) : Rat :=
  let q := s.queue l
  let start := max (max (q.vf.getD t) t) (t + eeiFloor s l)
  start + (cb : Rat) / queueRate s l

/-- End the open frame of a link, not accepted (R242, R243): where part of it is queued, with a last block charged to vf; else nothing
of it stays. -/
def endOpen (l : LinkId) (t : Rat) (x : Nat) (s : State) : State :=
  match (s.queue l).tx.getLast? with
  | none => s
  | some f =>
    if f.closed then s
    else if f.count = 0 then s.modQueue l (fun q => { q with tx := q.tx.dropLast })
    else
      let v := chargeVf s l t 258
      let ok := queueCap (s.queue l) != 0
      let s := appendTx l x none (fun f => { f with state := .refused, closed := true }) s
      s.modQueue l (fun q => if ok then { q with vf := some v, lastLag := v - t } else q)

/-- Refuse the open frame of a link (R242): counted against its reason, an error control block in place of the block. -/
def refuseFrame (l : LinkId) (t : Rat) (counter : Nat) (s : State) : State := endOpen l t errorBlock257 (s.inc counter)

/-- The committed tiers of all ports in showtime in a direction, in Gbit/s (R36). -/
def committedSum (s : State) (d : Dir) : Nat :=
  (s.links.map (fun x => if x.2.phase == 7 then 100 * (4 - min 3 (match d with | .tx => x.2.streamTx | .rx => x.2.streamRx)) else 0)).sum

/-- The Hostel may have no write slot for a block: reduced FCLK with more than 25.6 Tbit/s committed in a direction (R36). -/
def slotsShort (s : State) : Bool :=
  s.flag CLK_STATUS.FCLK_RED_ACT && (decide (25600 < committedSum s .tx) || decide (25600 < committedSum s .rx))

/-- Whether a block finds no write slot where they are short: the spec does not say which, a free value (R36, log entry 3). -/
def noSlot (s : State) : Bool × State :=
  if slotsShort s then let (v, s) := s.draw; (v % 2 == 1, s) else (false, s)

/-- The frame's next block needs a new bed: 15 blocks a bed (R234). -/
def needsBed (f : Frame) : Bool := f.count % 15 == 0

/-- The largest lag of an accepted frame, in 0.1 ns to the nearest (R244, R261; DEDUCED from the worked example, log entry 47). -/
def noteLag (n : Port) (lag : Rat) (s : State) : State :=
  let lg := min (lag * 10 + 1 / 2).floor.toNat 0xFFFFFF
  if s.fld (TT_LAG_MAX.LAG n) < lg then s.setFld (TT_LAG_MAX.LAG n) lg else s

/-- Why admission refuses a unit before its lag is looked at: no route, or no capacity; while the hub PLL is unlocked every frame is
refused (R242, R355). -/
def refusal (l : LinkId) (s : State) : Option Nat :=
  if !hasRoute s l then some (TT_REFUSED_ROUTE l.n)
  else if queueCap (s.queue l) == 0 || !s.flag CLK_STATUS.HUBPLL_LOCK then some (TT_REFUSED_CAP l.n)
  else none

/-- A unit whose lag is over the margin fails: at its last block, or where the line is slower than the host (R242). -/
def overMargin (l : LinkId) (lag : Rat) (last : Bool) (s : State) : Bool :=
  decide ((admitMargin s l.n : Rat) / 10 < lag) && (decide (queueRate s l < hostRate (laneHalf s l.n)) || last)

/-- Admit block `x` of the open frame under TIMETABLE (R242, R243): whether the frame is refused. A frame that finds no write slot is
refused as for want of a bed (R36; DESIGN CHOICE, log entry 47: the spec names no counter). -/
def admitBlock (l : LinkId) (x : Nat) (isTerm : Bool) (t : Rat) (s : State) : Bool × State :=
  match (s.queue l).tx.getLast? with
  | none => (true, s)
  | some f =>
    match refusal l s with
    | some c => (true, refuseFrame l t c s)
    | none =>
      let (short, s) := noSlot s
      let (bed, s) := if short then (none, s) else if needsBed f then grantBed l.n .tx f.banks.getLast? s else (some 0, s)
      match bed with
      | none => (true, refuseFrame l t (TT_REFUSED_BEDS l.n) s)
      | some b =>
        let v := chargeVf s l t 258
        let lag := v - t
        if overMargin l lag isTerm s then
          -- the refused block is not queued: its bed goes back
          (true, refuseFrame l t (TT_REFUSED_BOUND l.n) (if needsBed f then releaseBed (dirBeds s l.n .tx + 1) b s else s))
        else
          let s := appendTx l x (if needsBed f then some b else none) (fun f =>
            if isTerm then { f with state := .accepted, closed := true, arrive := t, deadline := t + (admitTx s l.n : Rat) / 10 } else f) s
          let s := s.modQueue l (fun q => { q with vf := some v, lastLag := lag })
          (false, if isTerm then noteLag l.n lag (s.inc64 (TT_ACCEPTED l.n)) else s)

/-- The port's queue was flushed and it is not yet in showtime again: frames tail-drop (R257). -/
def tailDropping (s : State) (l : LinkId) : Bool := (s.queue l).flushed

/-- Tail-drop the last frame of a queue (R256): removed whole and counted; event 0x4011 at the first after 1 s without one. -/
def tailDrop (l : LinkId) (d : Dir) (s : State) : State :=
  let fs := frames s l d
  let s := releaseBeds l.n d (match fs.getLast? with | some f => f.banks | none => []) s
  let s := setFrames l d fs.dropLast s
  let s := s.inc (match d with | .tx => TT_TAILDROP_TX l.n | .rx => TT_TAILDROP_RX l.n)
  let quiet := match (s.host l.n).tailAt with | none => true | some a => decide (a + 1000000 ≤ s.now)
  let s := if quiet then s.raise 0x4011 1 [l.n, dirNat d] else s
  s.modHost l.n (fun h => { h with tailAt := some s.now })

/-- Store block `x` of the open frame outside TIMETABLE (R256); answers whether the frame was tail-dropped. -/
def storeBlock (l : LinkId) (x : Nat) (isTerm : Bool) (t : Rat) (s : State) : Bool × State :=
  match (s.queue l).tx.getLast? with
  | none => (true, s)
  | some f =>
    if tailDropping s l then (true, tailDrop l .tx s)
    else
      let (bed, s) := if needsBed f then grantBed l.n .tx f.banks.getLast? s else (some 0, s)
      match bed with
      | none => (true, tailDrop l .tx s)
      | some b =>
        (false, appendTx l x (if needsBed f then some b else none)
          (fun f => if isTerm then { f with state := .accepted, closed := true, arrive := t } else f) s)

/-- A test-mode change of the port waits for its drain point: new frames wait for the new route (R50). -/
def testWaiting (s : State) (n : Port) : Bool := [9, 10, 11].any (bit (s.port n).localWait)

/-- A new frame at the end of the transmit queue. -/
def newFrame (tt os : Bool) (t : Rat) : Frame :=
  { state := .candidate, blocks := [], count := 0, sent := false, closed := false, banks := [], arrive := t,
    deadline := 0, tt := tt, os := os, held := false, stray := false, err := false }

/-- The link that a frame of the port takes: the port, or in BREAKOUT the sub-link its steering value names (R231). -/
def steerLink (s : State) (n : Port) (g : List HostBlock) : LinkId :=
  if isBreakout s n then
    let v := if s.fld (TT_PORT_CFG.STEER n) = 0 then frameOctet g 5 % 8
      else if frameOctet g 12 = 0x81 ∧ frameOctet g 13 = 0 then frameOctet g 14 / 32 else 0
    let p := bits (s.reg (TT_STEER_MAP n)).toNat (2 * v + 1) (2 * v)
    subLink n ⟨p % 4, by omega⟩
  else portLink n

/-- The link of the frame that is open at the ingress. -/
def ingressLink (s : State) (n : Port) : LinkId := ⟨n, (s.host n).sub⟩

/-- The frame rule and the link for the next block at the ingress: those of the open frame, else those now in force (R45, R231). -/
def openUnder (n : Port) (s : State) : Bool :=
  if (s.host n).opened then (match (s.queue (ingressLink s n)).tx.getLast? with | some f => f.tt | none => false)
  else inEffect s n 0

/-- The 66b blocks end with a Terminate block, not with the error control block that closes a frame (R229, R230). -/
def endsWell (g : List HostBlock) : Bool := g.any (fun b => match blockKind b with | .term _ => true | _ => false)

/-- Form the 257b block of up to four host blocks and admit or store it; `isTerm` closes the frame. Answers whether the frame is gone.
A frame of TIMETABLE that an error control block closes is not accepted: that block is charged and not tested, and where none of the
frame is queued nothing of it is (R229, R230, R243). -/
def formGroup (n : Port) (g : List HostBlock) (isTerm : Bool) (t : Rat) (s : State) : Bool × State :=
  let x := transcode (g ++ List.replicate (4 - g.length) idleBlock)
  let cut := isTerm && !endsWell g
  let tt := openUnder n s
  if cut && tt && !(s.host n).opened then (true, s)
  else
    let s := if (s.host n).opened then s
      else
        let l := steerLink s n g
        let new := { newFrame tt false t with held := testWaiting s n }
        (s.modHost n (fun h => { h with opened := true, sub := l.sub })).modQueue l (fun q => { q with tx := q.tx ++ [new] })
    let l := ingressLink s n
    let r := if cut && tt then (true, endOpen l t x s) else if tt then admitBlock l x isTerm t s else storeBlock l x isTerm t s
    (r.1, if isTerm || r.1 then r.2.modHost n (fun h => { h with opened := false }) else r.2)

/-- The frame at the ingress whose blocks are gone is dropped to its Terminate block. -/
def dropRest (n : Port) (s : State) : State :=
  s.modHost n (fun h => if h.isOpen then { h with isOpen := false, dropping := true, cut := false, group := [] } else h)

/-- Blocks that wait in the host ingress stage go on, in order, while they find write slots (R36). -/
def drainStage (n : Port) : Nat → State → State
  | 0, s => s
  | fuel + 1, s =>
    match (s.host n).stage with
    | [] => s
    | (g, e, t) :: xs =>
      let (short, s) := noSlot s
      if short then s
      else
        let r := formGroup n g e t (s.modHost n (fun h => { h with stage := xs }))
        if r.1 && !e then
          let ys := xs.dropWhile (fun x => !x.2.1)
          let s := r.2.modHost n (fun h => { h with stage := ys.drop 1 })
          drainStage n fuel (if ys.isEmpty then dropRest n s else s)
        else drainStage n fuel r.2

/-- The 257b block of the host blocks gathered is complete: admitted or stored. Outside TIMETABLE a block without a write slot waits in
the host ingress stage where flow control is sent, and tail-drops its frame where it is not (R36). Whether a block finds a slot is a
free value (log entry 3). -/
def formBlock (n : Port) (isTerm : Bool) (t : Rat) (s : State) : State :=
  let g := (s.host n).group
  let s := s.modHost n (fun h => { h with group := [], isOpen := h.isOpen && !isTerm })
  if !(s.host n).stage.isEmpty then s.modHost n (fun h => { h with stage := h.stage ++ [(g, isTerm, t)] })
  else
    let (short, s) := if openUnder n s then (false, s) else noSlot s
    if short && fcOn s n then s.modHost n (fun h => { h with stage := [(g, isTerm, t)] })
    else
      let r := formGroup n g isTerm t s
      if short && !r.1 then dropRest n ((tailDrop (ingressLink r.2 n) .tx r.2).modHost n (fun h => { h with opened := false }))
      else if r.1 then dropRest n r.2
      else r.2

/-- Add a kept host block to the open frame; the fourth, or a Terminate, completes a 257b block (R229). -/
def pushBlock (n : Port) (b : HostBlock) (isTerm : Bool) (t : Rat) (s : State) : State :=
  let s := s.modHost n (fun h => { h with group := h.group ++ [b] })
  if isTerm || decide (4 ≤ (s.host n).group.length) then formBlock n isTerm t s else s

/-- MAX_FRAME in bytes (R261). -/
def maxFrame (s : State) (n : Port) : Nat := min (max (s.fld (TT_PORT_CFG.MAX_FRAME n)) 64) 16000

/-- Close the open frame with an error control block (R229, R230). -/
def closeWithError (n : Port) (t : Rat) (s : State) : State :=
  if (s.host n).isOpen then pushBlock n errorBlock true t s else s

/-- Queue an ordered set on every link of the port that carries traffic (R229, R231, R242): outside admission and bed caps, charged to
vf (R241). One that comes inside a frame is queued before that frame, even where part of it has left: DESIGN CHOICE, log entry 47. -/
def queueOrdered (n : Port) (b : HostBlock) (t : Rat) (s : State) : State :=
  let x := transcode [b, idleBlock, idleBlock, idleBlock]
  let s := forEach ((activeLinks s n).filter (fun l => l.sub.isNone || inShow s l)) (fun l s =>
    let (bed, s) := takeBed n (dirBeds s n .tx) none s
    let tt := inEffect s n 0
    let v := chargeVf s l t 258
    let s := if tt && queueCap (s.queue l) != 0 then s.modQueue l (fun q => { q with vf := some v, lastLag := v - t }) else s
    let f := { newFrame tt true t with
                 state := .accepted, blocks := [x], count := 1, closed := true, banks := bed.toList,
                 deadline := t + (admitTx s n : Rat) / 10 }
    -- between frames: never inside the open one
    s.modQueue l (fun q => match q.tx.getLast? with
      | some g => if g.closed then { q with tx := q.tx ++ [f] } else { q with tx := q.tx.dropLast ++ [f, g] }
      | none => { q with tx := [f] })) s
  s.inc (TT_OS_TX n)

/-- A frame is longer than MAX_FRAME while still open (R230). -/
def oversize (s : State) (n : Port) : Bool := decide (maxFrame s n < (s.host n).length)

/-- The next block of a frame longer than MAX_FRAME is replaced by an error control block, which closes it; the rest of the frame is
removed (R230). -/
def cutFrame (n : Port) (more : Bool) (t : Rat) (s : State) : State :=
  ((closeWithError n t s).inc (TT_OVERSIZE n)).modHost n (fun h => { h with isOpen := false, dropping := more, cut := true })

/-- One 64b/66b block at the ingress outside TRANSPARENT (R229, R230). -/
def ingressBlock (n : Port) (b : HostBlock) (t : Rat) (s : State) : State :=
  let h := s.host n
  match blockKind b with
  | .idle => s
  | .start =>
    let s := if h.isOpen || (h.dropping && !h.cut) then (closeWithError n t s).inc (TT_MALFORMED n) else s
    let s := s.modHost n (fun h => { h with isOpen := true, dropping := false, cut := false, length := 0, group := [], lastOs := none })
    pushBlock n b false t s
  | .data =>
    if h.dropping then s
    else if !h.isOpen then s.inc (TT_MALFORMED n)
    else if oversize s n then cutFrame n true t s
    else pushBlock n b false t (s.modHost n (fun h => { h with length := h.length + 8 }))
  | .term k =>
    if h.dropping then s.modHost n (fun h => { h with dropping := false })
    else if !h.isOpen then s.inc (TT_MALFORMED n)
    else if oversize s n then cutFrame n false t s
    else pushBlock n b true t (s.modHost n (fun h => { h with length := h.length + k }))
  | .error =>
    if h.dropping then s
    else if !h.isOpen then s.inc (TT_MALFORMED n)
    else if oversize s n then cutFrame n true t s
    else pushBlock n b false t s
  | .ordered =>
    if h.lastOs = some (orderedValue b) then s
    else queueOrdered n b t (s.modHost n (fun h => { h with lastOs := some (orderedValue b) }))

/-- Refuse a codeword (R259): counted; the pattern goes in its place. -/
def refuseCodeword (n : Port) (counter : Nat) (mark : Bool) (s : State) : CwUnit × State :=
  (⟨none, [], mark, false⟩, (s.inc counter).inc (TT_CW_REFUSED n))

/-- Admit one codeword of 5440 bits as R242 admits a Terminate block (R259): its unit, with no deadline where it is refused. It takes
two beds of 512 bytes (DESIGN CHOICE, log entry 47). -/
def admitCodeword (n : Port) (mark : Bool) (t : Rat) (s : State) : CwUnit × State :=
  let l := portLink n
  match refusal l s with
  | some c => refuseCodeword n c mark s
  | none =>
    let (short, s) := noSlot s
    if short then refuseCodeword n (TT_REFUSED_BEDS n) mark s
    else
      let (b1, s) := grantBed n .tx none s
      let (b2, s) := match b1 with | none => (none, s) | some _ => grantTo n .tx (dirBeds s n .tx + 1) b1 s
      match b1, b2 with
      | some x, some y =>
        let v := chargeVf s l t 5440
        let lag := v - t
        if overMargin l lag true s then
          refuseCodeword n (TT_REFUSED_BOUND n) mark (releaseBed (dirBeds s n .tx + 1) y (releaseBed (dirBeds s n .tx + 2) x s))
        else
          let s := s.modQueue l (fun q => { q with vf := some v, lastLag := lag })
          (⟨some (t + (admitTx s n : Rat) / 10), [x, y], mark, false⟩, noteLag n lag (s.inc64 (TT_ACCEPTED n)))
      | some x, none => refuseCodeword n (TT_REFUSED_BEDS n) mark (releaseBed (dirBeds s n .tx + 1) x s)
      | none, _ => refuseCodeword n (TT_REFUSED_BEDS n) mark s

/-- One 64-bit piece of the lane's stream in TRANSPARENT: 170 pieces make a pair of codewords, each admitted as one unit; a refused
codeword goes on as the uncorrectable pattern (R258, R259). `ctrl` of a piece says that its pair begins with alignment markers. -/
def ingressCodeword (n : Port) (b : HostBlock) (t : Rat) (s : State) : State :=
  let g := (s.host n).group ++ [b]
  if g.length < 170 then s.modHost n (fun h => { h with group := g })
  else
    let s := s.modHost n (fun h => { h with group := [] })
    let bs := g.flatMap (fun b => bitsLsb 64 b.data)
    let mark := g.any (fun b => b.ctrl)
    let l := portLink n
    let held := testWaiting s n
    if inEffect s n 0 then
      let (x, s) := admitCodeword n mark t s
      let (y, s) := admitCodeword n mark t s
      let half := laneHalf s n
      let bad := (x.due.isNone, y.due.isNone)
      pushPair l (if bad.1 || bad.2 then spoilPair half (if mark then markerLen half else 0) bad 0 bs else bs)
        { x with held := held } { y with held := held } s
    else pushPair l bs ⟨none, [], mark, held⟩ ⟨none, [], mark, held⟩ s

/-! ### Blocks for the line and for the host (R234) -/

/-- Take the next block of a queue; frames outside TIMETABLE leave only when whole (R256). The bed of the block
returns when its last block has left (R234). Answers the block, whether it ends its frame, and the frame. -/
def takeBlock (l : LinkId) (d : Dir) (s : State) : Option (Nat × Bool × Frame) × State :=
  match frames s l d with
  | [] => (none, s)
  | f :: fs =>
    match f.blocks with
    | [] => if f.closed then (none, releaseBeds l.n d f.banks (setFrames l d fs s)) else (none, s)
    | x :: xs =>
      if (!f.tt && !f.closed) || (f.held && testWaiting s l.n) then (none, s)
      else
        let gone := f.count - xs.length
        let ends := xs.isEmpty && f.closed
        let free := if ends then f.banks else if gone % 15 = 0 then f.banks.take 1 else []
        let s := releaseBeds l.n d free s
        let err := (untranscode x).any (fun b => blockKind b == .error)
        let f := { f with blocks := xs, sent := true, err := err, banks := f.banks.drop free.length }
        (some (x, ends, f), setFrames l d (if ends then fs else f :: fs) s)

/-- Up to `k` blocks of a queue. -/
def takeBlocks (l : LinkId) (d : Dir) : Nat → State → List Nat × State
  | 0, s => ([], s)
  | k + 1, s =>
    match takeBlock l d s with
    | (none, s) => ([], s)
    | (some (x, _, _), s) => let r := takeBlocks l d k s
                             (x :: r.1, r.2)

/-- A frame whose Terminate block was lost in a CRC_BAD coach ends where the next frame or ordered set begins (DESIGN CHOICE, log
entry 47): outside TIMETABLE its blocks could not leave before (R32, R256). -/
def closeRx (l : LinkId) (s : State) : State :=
  match (s.queue l).rx.getLast? with
  | none => s
  | some f => s.modQueue l (fun q => { q with rx := q.rx.dropLast ++ [{ f with closed := true, state := .accepted }], rxOpen := false })

/-- The link is down: the frame that received coaches were filling ends with an error control block (R232, R245). -/
def breakRx (l : LinkId) (s : State) : State :=
  let s := if (s.queue l).rxOpen then
      closeRx l (s.modQueue l (fun q => match q.rx.getLast? with
        | none => q
        | some f => { q with rx := q.rx.dropLast ++ [{ f with blocks := f.blocks ++ [errorBlock257], count := f.count + 1 }] }))
    else s
  s.modQueue l (fun q => { q with rxDrop := false })

/-- Store a block received from the line (R30 step 9): the first block of a frame opens it, a Terminate closes it; no bed tail-drops the
frame, and the rest of a frame that was removed is dropped (R237, R256). The error control blocks of a CRC_BAD coach stand in their
place, within a frame or as a unit of their own (R32). `t` is when the coach's CRC reached the ADC (R247); the deadline follows the
receive part in force at the coach's first data symbol (R248). -/
def receiveBlock (l : LinkId) (x : Nat) (t : Rat) (s : State) : State :=
  let hb := untranscode x
  let kinds := hb.map blockKind
  let opens := kinds.headD .idle == .start
  let isOs := kinds.headD .idle == .ordered
  let closes := endsWell hb
  if kinds.all (fun k => k == .idle) then s
  else if (s.queue l).rxDrop && !opens && !isOs then
    (if closes then s.modQueue l (fun q => { q with rxDrop := false }) else s)
  else
    let q := s.queue l
    let tt := inEffect s l.n 0
    let s := if q.rxOpen && (opens || isOs) then closeRx l s else s
    let stray := !opens && !isOs && !q.rxOpen
    let s := if opens || stray || isOs then
        setFrames l .rx ((s.queue l).rx ++ [{ newFrame tt isOs t with stray := stray }]) s
      else s
    match (s.queue l).rx.getLast? with
    | none => s
    | some f =>
      let done := closes || isOs || stray
      let (bed, s) := if isOs then (match takeBed l.n (dirBeds s l.n .rx) none s with | (b, s) => (some b.toList, s))
        else if needsBed f then (match grantBed l.n .rx f.banks.getLast? s with | (b, s) => (b.map (fun b => [b]), s))
        else (some [], s)
      match bed with
      | none =>
        if stray then setFrames l .rx (s.queue l).rx.dropLast s
        else (tailDrop l .rx s).modQueue l (fun q => { q with rxOpen := false, rxDrop := !done })
      | some bs =>
        let f := { f with blocks := f.blocks ++ [x], count := f.count + 1, banks := f.banks ++ bs,
                          closed := done, state := if done then .accepted else f.state,
                          deadline := t + ((q.rxPartAt.getD (rxPart s l.n) : Nat) : Rat) / 10 }
        s.modQueue l (fun q => { q with rx := q.rx.dropLast ++ [f], rxOpen := (opens || (q.rxOpen && !isOs)) && !done, rxDrop := false })

/-- Store a coach's blocks in order. -/
def receiveBlocks (l : LinkId) (xs : List Nat) (t : Rat) (s : State) : State :=
  showBeds l.n (forEach xs (fun x s => receiveBlock l x t s) s)

end Sys2Proof.Machine
end

