-- ==== Sys2Proof/Machine/LinkOps.lean ====
section
/-! DEFINITION. The shared operations of a link: what its registers show, waymark messages to send, agreed changes,
pair faults, retrain requests, link-down, G0 entry and start-up failure (R70, R71, R103 to R105, R156, R191 to R194,
R202, R205, R214 to R217, R223, R224). -/
namespace Sys2Proof.Machine

/-! ### What a link is -/

/-- This end holds the larger identity (R156). -/
def isHigher (k : LinkSt) : Bool := decide (k.peerId < k.ownId)

/-- REACH and PLAIN as resolved or agreed. -/
def isReach (k : LinkSt) : Bool := bit k.negotiated mREACH
def isPlain (k : LinkSt) : Bool := bit k.negotiated mPLAIN

/-- The coding of a direction: a change of PLAIN applies at the own stage in one, at the far stage in the other (R198). -/
def plainRx (k : LinkSt) : Bool := k.plainRx.getD (isPlain k)
def codingOf (k : LinkSt) : Dir → Bool
  | .tx => isPlain k
  | .rx => plainRx k

/-- The stream and the carrying set of a direction. -/
def streamOf (k : LinkSt) : Dir → Nat
  | .tx => k.streamTx
  | .rx => k.streamRx
def carryOf (k : LinkSt) : Dir → Nat
  | .tx => k.carry
  | .rx => k.carryRx

/-- The stream a sub-link's share follows: tier 100 (R111). -/
def shareStream (l : LinkId) (stream : Nat) : Nat := if l.sub.isSome then 3 else stream

/-- The share of a stream over P pairs on a link (R75, R111). -/
def linkShare (k : LinkSt) (l : LinkId) (stream pairs : Nat) : Nat := share (isReach k) (shareStream l stream) pairs

/-- The carrying pairs of a direction that PATTERN leaves to coaches, at the end that sends (R53, R58). -/
def coachList (s : State) (l : LinkId) (d : Dir) : List Nat :=
  let pat := match d with
    | .tx => patternPairs s l
    | .rx => (s.port l.n.val).farPmask
  (maskPairs (carryOf (s.link l) d)).filter (fun p => !bit pat p)

/-- The pairs over which a stream is shared in a direction: a tier over the carrying pairs (R75), TRANSPARENT over those of them that
carry coaches (R58). -/
def streamPairs (s : State) (l : LinkId) (d : Dir) (stream : Nat) : Nat :=
  if 4 ≤ stream then (coachList s l d).length else pairCount (carryOf (s.link l) d)

/-- The share of a stream in a direction, and the share in force. -/
def streamShare (s : State) (l : LinkId) (d : Dir) (stream : Nat) : Nat :=
  linkShare (s.link l) l stream (streamPairs s l d stream)
def dirShare (s : State) (l : LinkId) (d : Dir) : Nat := streamShare s l d (streamOf (s.link l) d)

/-- Stages of the running sequence: since G3 entry, since F in a fast retrain, since the partial fast retrain began; each
phase boundary in these counts (R153, R190, R307). -/
def seqStage (k : LinkSt) : Nat :=
  if k.phase = 8 then (k.own + 2 ^ 32 - k.frStage) % 2 ^ 32
  else if k.eei.partialFr then (k.own + 2 ^ 32 - k.eei.partialAt) % 2 ^ 32
  else k.own

/-- The link runs G3 to G5 of a start-up, a fast retrain or a partial fast retrain. -/
def inSequence (k : LinkSt) : Bool := decide (4 ≤ k.phase ∧ k.phase ≤ 6) || k.phase == 8 || k.eei.partialFr

/-- First stage of G4b, of G5, of the verification count, and of VERIFY, in the running sequence (R153, R186, R190). -/
def tableStage (k : LinkSt) : Nat := if k.phase = 8 then 128 else 5120
def verifyStage (k : LinkSt) : Nat := if k.phase = 8 then 144 else 5376
def resultStage (k : LinkSt) : Nat := if k.phase = 8 then 208 else if k.eei.partialFr then 144 else 6016

/-- The sender of a direction is the lower-identity end (R110). -/
def senderLower (k : LinkSt) : Dir → Bool
  | .tx => !isHigher k
  | .rx => isHigher k

/-- PSD_OFFSET codes 19 to 31 act as 18 (R113, R174). -/
def psdCode (v : Nat) : Nat := min (v % 32) 18

/-- The sender's PSD_OFFSET of a pair in a direction (R76, R108, R174). -/
def senderPsd (s : State) (l : LinkId) (p : Nat) : Dir → Nat
  | .tx => (s.pair l.n.val p).psd
  | .rx => psdCode (bits ((s.link l).peerPages.getD 0 0) (5 * p + 4) (5 * p))

/-- The target margin in 0.1 dB (R112). -/
def targetMargin (s : State) (n : Port) : Nat := min (s.fld (PORT_LOAD_CFG.TARGET_MARGIN n)) 120

/-- SNR(k) of a pair, index 0 to 511. -/
def snrList (s : State) (n p : Nat) : List Nat := (List.range 512).map (s.snrOf n p)

/-- The receive table of a pair for a coding and a stream over `pairs` pairs, within the highest NET of the coding and band
plan (R75, R77). -/
def computeTable (s : State) (l : LinkId) (plain : Bool) (p stream pairs target : Nat) : Option (List Nat) :=
  let k := s.link l
  let sh := linkShare k l stream pairs
  if maxNet plain k.splitband (senderLower k .rx) < sh then none
  else loadTable plain (isReach k) k.splitband (senderLower k .rx) (snrList s l.n.val p) target sh

/-- A table is valid for a coding, a direction of a pair and a share (R76). -/
def tableValidFor (s : State) (l : LinkId) (plain : Bool) (p : Nat) (d : Dir) (sh : Nat) (t : List Nat) : Bool :=
  let k := s.link l
  validTable plain k.splitband (senderLower k d) (senderPsd s l p d) sh t

/-- A table is valid for a direction of a pair and a share in the coding in use (R76). -/
def tableValid (s : State) (l : LinkId) (p : Nat) (d : Dir) (sh : Nat) (t : List Nat) : Bool :=
  tableValidFor s l (codingOf (s.link l) d) p d sh t

/-- The tier a stream code shows (PORT_LINK_STATUS). -/
def shownTier (stream : Nat) : Nat := if stream = 4 then 0 else if stream = 5 then 2 else stream

/-- The mask of an agreed fallback that has not applied in both directions. -/
def pendingFault (k : LinkSt) : Nat :=
  match k.changes.find? (fun c => match c.kind with | .fault _ _ => true | _ => false) with
  | some c => (match c.kind with | .fault m _ => m | _ => 0)
  | none => 0

/-- A pair that a fallback, or a start-up on three pairs, has left without payload in showtime: it keeps waymark symbols and pilots, without
a message (R184, R219). -/
def isFallen (k : LinkSt) (p : Nat) : Bool :=
  k.phase == 7 && (bit k.deadMask p || (!bit k.carry p && !bit k.carryRx p))

/-- Pairs of a link that carry a waymark message now: in showtime the carrying pairs, in start-up and fast retrain every pair up to the
end of G4a and then those not excluded; none that is dead, also with its fallback still agreed, or quiet (R103, R179, R183, R215,
R219). -/
def wmPairs (s : State) (l : LinkId) : List Nat :=
  let k := s.link l
  (linkPairs l).filter (fun p =>
    (if k.phase = 7 then bit (carryOf k .tx) p && !bit (k.deadMask ||| pendingFault k) p else !bit k.excluded p || decide (seqStage k < tableStage k)) &&
    !(s.pair l.n.val p).quiet)

/-! ### What the registers show -/

/-- PORT_LINK_STATUS.STATE of a phase (R225). -/
def linkState (ph : Nat) : Nat :=
  if ph = 7 then 2 else if ph = 8 then 3 else if ph = 9 then 4 else if ph = 0 then 0 else 1

/-- KIND, TIER and PAIRS of a change (R225). -/
def changeShown : ChangeKind → Nat × Nat × Nat
  | .swap p _ => (1, 0, 2 ^ p)
  | .rate t _ => (2, shownTier t, 0)
  | .mode _ _ => (3, 0, 0)
  | .eei _ => (4, 0, 0)
  | .fault m _ => (5, 0, m)
  | .retrain _ _ => (6, 0, 0)

/-- The earliest agreed change. -/
def earliest (cs : List Change) : Option Change :=
  cs.foldl (fun b c => match b with
    | none => some c
    | some x => if later x.stage c.stage then some c else some x) none

/-- A direction carries coaches: the transmit direction from this end's own stage V, the receive direction from far stage V
(R95, R188). -/
def showDir (k : LinkSt) (d : Dir) : Bool :=
  match d with
  | .tx => sendsCoaches k
  | .rx => k.phase == 7 || ((k.phase == 6 || k.phase == 8) && k.decided && k.verify == 1 &&
      k.showStage.any (fun v => k.synced && reached k.far v))

/-- The receive direction is in a depth: from the far end's stage E to its resume symbol (R198, R298, R304). -/
def rxAsleep (k : LinkSt) : Bool := k.eei.rxQuiet && reached k.far k.eei.entry

/-- Pairs of a direction that carry coaches: dead, PATTERN and quiet pairs do not (R94). -/
def coachMask (s : State) (l : LinkId) (d : Dir) : Nat :=
  let k := s.link l
  let asleep (p : Nat) : Bool := match d with
    | .tx => (s.pair l.n.val p).quiet
    | .rx => rxAsleep k
  if showDir k d then pairsMask ((coachList s l d).filter (fun p => !asleep p)) else 0

/-- PORT_FRAMING_TX or RX (R112). -/
def framingWord (s : State) (l : LinkId) (d : Dir) : Nat :=
  let k := s.link l
  if showDir k d then
    dirShare s l d / 16 % 256 * 2 ^ 24 + (if isReach k then reachM (shareStream l (streamOf k d)) else 0) * 2 ^ 16 +
    coachMask s l d * 2 ^ 8 + (codingOf k d).toNat * 16 + streamOf k d
  else 0

/-- PORT_FRAMING_TX or RX of a port: its own, or in BREAKOUT that of the first sub-link in showtime with the carrying pairs of
all of them (R111, R112). -/
def portFraming (s : State) (n : Port) (d : Dir) : Nat :=
  let up := (activeLinks s n).filter (fun l => showDir (s.link l) d)
  match up with
  | [] => 0
  | l :: _ =>
    let m := (up.map (fun l => coachMask s l d)).foldl (· ||| ·) 0
    insertBits (framingWord s l d) 11 8 m

/-- A bit swap of a pair is in progress at its receiver: entries being sent, or a commit that waits for its reply (R226). -/
def swapRuns (s : State) (l : LinkId) (p : Nat) : Bool :=
  (s.pair l.n.val p).swap == .entries || (s.pair l.n.val p).waiting.any (fun w => w.code == 0x11) ||
  (s.link l).proposals.any (fun q => q.code == 0x11 && q.arg == p)

/-- Show the agreed changes of a link in its pairs and, for a port, in the port. With swaps pending in both directions of a pair
PAIR_TBL_SWAP_STAGE shows the transmit one's stage, with none it keeps the last: the spec gives neither (DESIGN CHOICES, log entry
47). -/
def showChanges (l : LinkId) (s : State) : State :=
  let k := s.link l
  let s := forEach (linkPairs l) (fun p s =>
    let mine (d : Dir) := k.changes.find? (fun c => c.kind == .swap p d)
    let st := match mine .tx with
      | some c => some c.stage
      | none => (mine .rx).map (·.stage)
    let s := (s.setFld (PAIR_TBL_STATUS.SWAP_PENDING_TX l.n p) (mine .tx).isSome.toNat).setFld
      (PAIR_TBL_STATUS.SWAP_PENDING_RX l.n p) (mine .rx).isSome.toNat
    let s := s.setFld (PAIR_SWAP_STATUS.IN_PROGRESS l.n p) (swapRuns s l p).toNat
    match st with
    | some x => s.setReg (PAIR_TBL_SWAP_STAGE l.n p) (word x)
    | none => s) s
  match earliest k.changes with
  | none => s.setReg (PORT_CHANGE_STATUS l.n) 0
  | some c =>
    let (kd, t, m) := changeShown c.kind
    (s.setReg (PORT_CHANGE_STATUS l.n) (word (2 ^ 31 + kd * 2 ^ 28 + t * 2 ^ 24 + m * 2 ^ 16))).setReg
      (PORT_CHANGE_STAGE l.n) (word c.stage)

/-- The interrupt bit of a port whose shown link state changes (R475). -/
def stateChange (n : Port) (f : Fld) (v : Nat) (s : State) : State :=
  if s.fld f = v then s else s.setFld ⟨HUB_INT_PORT (n.val / 32), n.val % 32, n.val % 32⟩ 1

/-- Show the state of a port that is not in BREAKOUT (R195, R225, R112). -/
def showPort (n : Port) (s : State) : State :=
  let l := portLink n
  let k := s.link l
  let hi := isHigher k && k.peerId != 0
  let su := k.phase * 2 ^ 28 + (k.fast || k.phase == 8).toNat * 2 ^ 27 + k.initiator.toNat * 2 ^ 26 + hi.toNat * 2 ^ 25 +
    k.limit.toNat * 2 ^ 24 + k.level % 4 * 2 ^ 20 + k.excluded % 16 * 2 ^ 16 + k.consecFail % 256 * 2 ^ 8 +
    k.lastCause % 256
  let tri := (k.phase == 7 || k.phase == 8) && pairCount k.carry == 3
  let ls := linkState k.phase * 2 ^ 28 + k.deadMask % 16 * 2 ^ 24 + tri.toNat * 2 ^ 20 +
    shownTier k.streamTx * 2 ^ 18 + shownTier k.streamRx * 2 ^ 16 + k.lastRetrain % 256 * 2 ^ 8 + k.lastDown % 256
  let p0 := k.peerPages.getD 0 0
  let p1 := k.peerPages.getD 1 0
  let info := bits p0 63 56 * 2 ^ 24 + bits p0 55 48 * 2 ^ 16 + bits p1 30 30 * 2 ^ 14 +
    (if bit p1 30 then 0 else bits p1 29 24) * 2 ^ 8 + bits p1 22 16
  let s := stateChange n (PORT_LINK_STATUS.STATE n) (linkState k.phase) s
  let s := (s.setReg (PORT_STARTUP_STATUS n) (word su)).setReg (PORT_LINK_STATUS n) (word ls)
  let s := ((s.setFld (PORT_STARTUP_RESULT.REMOTE_CAUSE n) k.remoteCause).setFld
    (PORT_STARTUP_RESULT.MAX_TIER n) k.maxTier).setFld (PORT_STARTUP_RESULT.RESOLVED n) k.resolved
  let s := if k.phase = 9 then s.setReg (PORT_STARTUP_RESULT n) 0 else s
  let s := (s.setReg (PORT_OWN_ID n) (word k.ownId)).setReg (PORT_PEER_ID n) (word k.peerId)
  let s := (s.setReg (PORT_PEER_TAG n) (word (bits p1 63 32))).setReg (PORT_PEER_INFO n) (word info)
  let s := (s.setReg (PORT_STAGE_NOW n) (word k.own)).setReg (PORT_STAGE_FAR n) (word k.far)
  (s.setReg (PORT_FRAMING_TX n) (word (portFraming s n .tx))).setReg (PORT_FRAMING_RX n) (word (portFraming s n .rx))

/-- Show the state of a sub-link; the port's fields read 0 beside PHASE 9 and STATE 4 (R195, R196, R226). -/
def showSub (n : Port) (p : Pair) (s : State) : State :=
  let k := s.link (subLink n p)
  let brk := isBreakout s n
  let v (x : Nat) : Word := if brk then word x else 0
  let s := (s.setReg (PAIR_SUB_OWN_ID n p) (v k.ownId)).setReg (PAIR_SUB_PEER_ID n p) (v k.peerId)
  let s := s.setReg (PAIR_SUB_STARTUP n p) (v (k.phase * 2 ^ 28 + k.consecFail % 256 * 2 ^ 8 + k.lastCause % 256))
  let s := stateChange n (PAIR_SUB_LINK_STATUS.STATE n p) (if brk then linkState k.phase else 0) s
  let s := s.setReg (PAIR_SUB_LINK_STATUS n p)
    (v (linkState k.phase * 2 ^ 28 + k.lastRetrain % 256 * 2 ^ 8 + k.lastDown % 256))
  if brk then
    let s := (s.setReg (PORT_STARTUP_STATUS n) (word (9 * 2 ^ 28))).setReg (PORT_STARTUP_RESULT n) 0
    let s := ((s.setReg (PORT_OWN_ID n) 0).setReg (PORT_PEER_ID n) 0).setReg (PORT_PEER_TAG n) 0
    let s := stateChange n (PORT_LINK_STATUS.STATE n) 4 s
    let s := (s.setReg (PORT_PEER_INFO n) 0).setFld (PORT_LINK_STATUS.STATE n) 4
    (s.setReg (PORT_FRAMING_TX n) (word (portFraming s n .tx))).setReg (PORT_FRAMING_RX n) (word (portFraming s n .rx))
  else s

/-- Show a link: its state, its changes, its port's modes. -/
def showLink (l : LinkId) (s : State) : State :=
  let s := match l.sub with
    | none => showPort l.n s
    | some p => showSub l.n p s
  refreshModes l.n (showChanges l s)

/-! ### Messages to send (R103, R104, R202) -/

/-- The stage that the next waymark symbol of this end opens or opened. -/
def nextWaymark (k : LinkSt) : Nat := if k.wmSent then stagePlus k.own 1 else k.own

/-- Let a port-scope message wait. -/
def sendPort (l : LinkId) (code : Nat) (stage : Option Nat) (arg : Nat) (s : State) : State :=
  s.modLink l (fun k => { k with waiting := k.waiting ++ [⟨code, stage, arg, true⟩] })

/-- Let a pair-scope message wait. -/
def sendPair (n p : Nat) (code : Nat) (stage : Option Nat) (arg : Nat) (s : State) : State :=
  s.modPair n p (fun k => { k with waiting := k.waiting ++ [⟨code, stage, arg, false⟩] })

/-- The stage field of a message as the change it names (R101). -/
def msgStage (m : Msg) : Nat := m.stage % 2 ^ 32

/-! ### Agreed changes (R71, R205, R214) -/

/-- A change is agreed for the stage. -/
def agreedAt (k : LinkSt) (stage : Nat) : Bool := k.changes.any (fun c => c.stage == stage)

/-- A change is agreed or pending for the stage: an agreed one, or a proposal of this end that names it (R71, R106 BUSY). -/
def stageBusy (k : LinkSt) (stage : Nat) : Bool := agreedAt k stage || k.proposals.any (fun q => q.stage == stage)

/-- Record an agreed change. A change of one direction is done in the other at once. -/
def agree (l : LinkId) (stage : Nat) (kind : ChangeKind) (s : State) : State :=
  let dn (d : Dir) : Bool := match kind with
    | .swap _ e => e != d
    | .rate _ e => e != d
    | _ => false
  s.modLink l (fun k => { k with changes := k.changes ++ [⟨stage, kind, dn .tx, dn .rx⟩] })

/-- Drop a change from the agreed ones. -/
def dropChange (l : LinkId) (c : Change) (s : State) : State :=
  s.modLink l (fun k => { k with changes := k.changes.filter (fun x => x != c) })

/-- The entries or the commit this end's receiver runs on a pair end. -/
def endSwap (n p : Nat) (s : State) : State :=
  (s.modPair n p (fun k => { k with swap := .idle, nextEntry := 0 })).setFld (PAIR_SWAP_STATUS.TO_SEND n p) 0

/-- The receive shadow of a pair is reloaded at the next stage boundary and what its receiver ran for it ends (R205). -/
def dropRxSwap (n p : Nat) (s : State) : State :=
  endSwap n p (s.modPair n p (fun k => { k with reloadRx := true, waiting := k.waiting.filter (fun w => w.code != 0x11) }))

/-- The transmit shadow of a pair is reloaded at the next stage boundary (R205). -/
def reloadTxShadow (n p : Nat) (s : State) : State := s.modPair n p (fun k => { k with reloadTx := true })

/-- An end's rate change that waits for entries or a reply ends. -/
def endRate (l : LinkId) (s : State) : State := s.modLink l (fun k => { k with rateWait := none })

/-- The message proposes an exchange of tables: a rate change, TRANSPARENT or PLAIN. -/
def proposesTables (code arg : Nat) : Bool :=
  code == 0x20 || (code == 0x30 && (arg % 16 == mTRANSPARENT || arg % 16 == mPLAIN))

/-- The receive shadows of every pair are reloaded and what this end sends for an exchange of tables ends, a proposal that still waits
with it (R205, R214). -/
def dropRxTables (l : LinkId) (s : State) : State :=
  let s := s.modLink l (fun k => { k with waiting := k.waiting.filter (fun w => !proposesTables w.code w.arg),
                                          withdrawn := k.withdrawn.filter (fun q => !proposesTables q.code q.arg) })
  endRate l (forEach (linkPairs l) (dropRxSwap l.n.val) s)

/-- The transmit shadows of every pair are reloaded (R205). -/
def dropTxTables (l : LinkId) (s : State) : State := forEach (linkPairs l) (reloadTxShadow l.n.val) s

/-- An exchange of tables in both directions is over without effect (R205, R214). -/
def endExchange (l : LinkId) (s : State) : State := dropTxTables l (dropRxTables l s)

/-- Cancel one change (R214): a swap, a rate change or an exchange for a mode reloads the shadows, an EEI entry is forgotten. -/
def cancelChange (l : LinkId) (c : Change) (s : State) : State :=
  let s := capCancel l c.stage (dropChange l c s)
  match c.kind with
  | .mode b _ => if b = mTRANSPARENT ∨ b = mPLAIN then endExchange l s else s
  | .swap p .tx => reloadTxShadow l.n.val p s
  | .swap p .rx => dropRxSwap l.n.val p s
  | .rate _ .tx => dropTxTables l s
  | .rate _ .rx => dropRxTables l s
  | .eei _ => s.modLink l (fun k => { k with eei := { k.eei with agreed := false, enterWake := false } })
  | _ => s

/-- A proposal of this end that waits for its reply is over without effect (R207, R214): its tables are reloaded, an EEI proposal is
forgotten with the abort or wake that it brought. -/
def cancelProposal (l : LinkId) (q : Proposal) (s : State) : State :=
  let s := s.modLink l (fun k => { k with proposals := k.proposals.filter (fun x => x != q) })
  if q.code = 0x11 then dropRxSwap l.n.val q.arg s
  else if q.code = 0x20 then dropRxTables l s
  else if proposesTables q.code q.arg then endExchange l s
  else if q.code = 0x40 then s.modLink l (fun k => { k with eei := { k.eei with
    abortCode := none, enterWake := false, sendWake := false } })
  else s

/-- Cancel every swap, rate, mode and EEI change named at or after a stage, and this end's proposals of them that wait for their
reply (R214). -/
def cancelFrom (l : LinkId) (stage : Nat) (keep : Change → Bool) (s : State) : State :=
  let hit := (s.link l).changes.filter (fun c => reached c.stage stage && !keep c)
  let own := (s.link l).proposals.filter (fun q => reached q.stage stage)
  forEach own (cancelProposal l) (forEach hit (cancelChange l) s)

/-- A change of a fault or retrain is kept when a fault notice cancels the others. -/
def isFaultOrRetrain (c : Change) : Bool :=
  match c.kind with
  | .fault _ _ => true
  | .retrain _ _ => true
  | _ => false

/-- A swap is agreed or run on a pair, or its receive shadow is still to be restored (R205). -/
def swapBusy (s : State) (l : LinkId) (p : Nat) : Bool :=
  (s.pair l.n.val p).swap != .idle || (s.pair l.n.val p).reloadRx || (s.pair l.n.val p).copyRx ||
  (s.link l).changes.any (fun c => match c.kind with | .swap q _ => q == p | _ => false)

/-- A rate change of the link waits for entries, a reply or its stage. -/
def rateBusy (k : LinkSt) : Bool :=
  k.rateWait.isSome || k.changes.any (fun c => match c.kind with | .rate _ _ => true | _ => false)

/-- A fault notice is agreed. -/
def faultBusy (k : LinkSt) : Bool := k.changes.any (fun c => match c.kind with | .fault _ _ => true | _ => false)

/-! ### Leaving showtime and entering G0 -/

/-- With no other link of the port in showtime a local mode is in effect as it was last written, a waiting change with it, and no
rewrite of a negotiated bit waits: start-up resolves it (R47, R48). PRBS and the route held for a test mode end. -/
def settleLocal (l : LinkId) (s : State) : State :=
  if (activeLinks s l.n).any (fun m => m != l && isUp s m) then s
  else
    let w := modeSet s l.n
    let tests : List Nat := [mBUNDLE, mEEI, mLOOP_NEAR, mLOOP_FAR, mPATTERN]
    let s := s.modPort l.n (fun k => { k with
      localOn := tests.foldl (fun m b => setBit m b (bit w b)) k.localOn,
      localWait := tests.foldl (fun m b => setBit m b false) k.localWait, rewritten := 0, patMask := 0, farPmask := 0 })
    ((s.setFld (PORT_PATTERN_STATUS.TX_MASK l.n) 0).setFld (PORT_PATTERN_STATUS.RX_MASK l.n) 0).setFld
      (PORT_PATTERN_STATUS.RX_LOCK l.n) 0

/-- Nothing of a coach stream stands, nor of a received codeword stream. -/
def clearStream (l : LinkId) (s : State) : State :=
  s.modQueue l (fun q => { q with stream := [], coded := [], loop := [], cwRx := [], cwRxDue := [], cwAm := none, symbol := 0, ilv := 0,
                                  rxBits := [], rxCoded := [], rxIlv := 0, rxPartAt := none, pace := 0, capNew := [] })

/-- A sub-link that stops sends and hears no PRBS. -/
def dropSubPattern (l : LinkId) (s : State) : State :=
  let off (m : Nat) : Nat := pairsMask ((maskPairs m).filter (fun p => !(linkPairs l).contains p))
  let s := s.modPort l.n (fun k => { k with patMask := off k.patMask, farPmask := off k.farPmask })
  let s := s.setFld (PORT_PATTERN_STATUS.TX_MASK l.n) (off (s.fld (PORT_PATTERN_STATUS.TX_MASK l.n)))
  let s := s.setFld (PORT_PATTERN_STATUS.RX_MASK l.n) (off (s.fld (PORT_PATTERN_STATUS.RX_MASK l.n)))
  s.setFld (PORT_PATTERN_STATUS.RX_LOCK l.n) (off (s.fld (PORT_PATTERN_STATUS.RX_LOCK l.n)))

/-- What ends when a link stops: messages, changes, proposals, runs, an EEI depth (R105, R145, R224, R314). -/
def clearLink (l : LinkId) (s : State) : State :=
  let e := (s.link l).eei
  let s := s.modLink l (fun k => { k with
    changes := [], proposals := [], withdrawn := [], waiting := [], inbox := [], seen := [], lossRun := 0,
    downRun := 0, upRun := 0, disagree := 0, checkSent := false, checkAcked := false, asked := false,
    rateWait := none, plainRx := none, retrainModes := [], rateHold := 0, rateTrig := false, stageBad := 0, badHist := [], showStage := none,
    farShow := none, wmSent := false, lossAsk := false, modeAsk := [], coachOn := false,
    eei := { EeiSt.reset with budget := e.budget, maxDepth := e.maxDepth } })
  let s := forEach (linkPairs l) (fun p s =>
    ((endSwap l.n.val p s).modPair l.n.val p (fun k => { k with
      outs := [], ahead := [], waiting := [], heldEntries := [], quiet := false,
      deadRun := 0, gainRun := 0, timingRun := 0, satTaps := [], restoreRun := 0, missRun := 0, injBits := 0 })).setFld
      (PAIR_QUALITY.LQ l.n p) 0) s
  let s := if (activeLinks s l.n).any (fun m => m != l && inShow s m) then s
    else (s.setFld (PORT_QUALITY.LQ l.n) 0).setFld (PORT_RX_STATUS.BREAKOUT_FEXT l.n) 0
  let s := dropSubPattern l (settleLocal l s)
  clearStream l (clearCodewords l (breakRx l s))

/-- Identities held by the ports and sub-links of the device (R156). -/
def heldIds (s : State) : List Nat := s.links.map (fun x => x.2.ownId)

/-- Draw a new identity: neither 0 nor all ones, held by no other port or sub-link (R156). -/
def drawIdentity (s : State) : Nat × State :=
  let (v, s) := s.random
  let ids := heldIds s
  let ok (x : Nat) : Bool := x != 0 && x != 2 ^ 32 - 1 && !ids.contains x
  (((List.range 1024).map (fun i => (v + i) % 2 ^ 32)).find? ok |>.getD 1, s)

/-- A random number of slots, 0 to 63 (R170, R193). -/
def drawSlots (l : LinkId) (s : State) : State :=
  let (v, s) := s.random
  s.modLink l (fun k => { k with wait := v % 64 })

/-- One link enters G0 from another state (R108, R156, R170, R257). -/
def enterG0One (l : LinkId) (s : State) : State :=
  let (i, s) := drawIdentity s
  let s := s.modLink l (fun k => { k with
    phase := 1, ownId := i, attempt := 0, peerAttempt := 0, waitReply := false, confirms := 0,
    confirmed := false, setup := false, tier := s.fld (PORT_STARTUP_CFG.TIER l.n),
    greetCfg := (s.reg (PORT_GREET_CFG l.n)).toNat, level := s.fld (PORT_GREET_CFG.LEVEL_START l.n),
    deadMask := 0, decided := false,
    verify := 0, farVerify := 0, errSyms := 0, showStage := none, farShow := none, peerVerdict := none,
    ownVerdict := 0, g2Step := 0, synced := false, adopted := false, declined := 0 })
  let s := forEach (linkPairs l) (fun p s =>
    (s.modPair l.n.val p (fun k => { k with
      psd := psdCode (s.fld (PAIR_TX_CFG.PSD_OFFSET l.n p)), detect := none, hdrDone := false, detRun := 0 })).setFld
      (PAIR_AGC.FROZEN l.n p) 0) s
  sideStartup l (flushTx l (drawSlots l s))

/-- PORT_MODE.BREAKOUT is set. -/
def breakoutSet (s : State) (n : Port) : Bool := bit (modeSet s n) mBREAKOUT

/-- A sub-link other than `l` is in showtime or a fast retrain. -/
def otherSubUp (s : State) (l : LinkId) : Bool := (activeLinks s l.n).any (fun m => m != l && isUp s m)

/-- A port that takes or leaves the BREAKOUT form starts with no failure behind it: CONSEC_FAIL, LIMIT, LAST_CAUSE and
PORT_STARTUP_RESULT do not survive, since the spec says only that they read 0 in BREAKOUT (DESIGN CHOICE, log entry 47). The causes of
its last link-down and retrain are kept (R224). -/
def changedForm (k : LinkSt) : LinkSt := { LinkSt.reset with lastDown := k.lastDown, lastRetrain := k.lastRetrain }

/-- A link enters G0: the port as a whole, as four sub-links when PORT_MODE.BREAKOUT is set, or one sub-link. A port
leaves the BREAKOUT form when the bit is clear and no other sub-link is up. -/
def enterG0 (l : LinkId) (s : State) : State :=
  let n := l.n
  if breakoutSet s n then
    match l.sub with
    | some _ => if isBreakout s n then enterG0One l s else s
    | none =>
      let s := s.modLink (portLink n) (fun k => { changedForm k with phase := 9 })
      let s := forEach [subLink n 0, subLink n 1, subLink n 2, subLink n 3] enterG0One s
      showPort n (forEach [0, 1, 2, 3] (showSub n) s)
  else
    match l.sub with
    | none => enterG0One l s
    | some _ =>
      if otherSubUp s l then enterG0One l s
      else
        let last := changedForm (s.link l)
        let s := forEach [subLink n 0, subLink n 1, subLink n 2, subLink n 3]
          (fun m s => clearLink m (s.setLink m LinkSt.reset)) s
        let s := enterG0One (portLink n) (s.setLink (portLink n) last)
        showPort n (forEach [0, 1, 2, 3] (showSub n) s)

/-- The ceiling of this end's receive direction: the lower rate (larger code) of REQ_TIER and the maximum (R210); a sub-link carries
tier 100 (R222). -/
def ceiling (s : State) (l : LinkId) : Nat :=
  if l.sub.isSome then 3 else max (s.fld (PORT_RATE_CFG.REQ_TIER l.n)) (s.link l).maxTier

/-- The tier in effect of the receive direction, TRANSPARENT as the tier it shows (R225). -/
def tierNow (k : LinkSt) : Nat := shownTier k.streamRx

/-- The host asks for a tier: its trigger stands where the ceiling differs from the tier in effect (R211). -/
def askTier (n : Port) (s : State) : State :=
  forEach (activeLinks s n) (fun l s => s.modLink l (fun k => { k with rateAsk := ceiling s l != tierNow k })) s

/-- Start the hold-off of R193: 0 to 63 slots, 100 ms once the failure limit is reached. -/
def enterHoldOff (l : LinkId) (s : State) : State :=
  let s := drawSlots l s
  s.modLink l (fun k => { k with phase := 10, wait := if k.limit then 3200 else k.wait })

/-- The cause of event 0x4010 for a link-down cause (R262): CLOCK, TILELINK, else LINE. -/
def expiryCause (cause : Nat) : Nat := if cause = 4 then 5 else if cause = 5 ∨ cause = 6 then 4 else 1

/-- The pair parameter of an event: the sub-link's pair in BREAKOUT, else 0. -/
def subPair (l : LinkId) : Nat := match l.sub with | some p => p.val | none => 0

/-- A link leaves showtime or a fast retrain (R224). RETRAIN, MODE and FR_FAIL enter G0; DISABLED stays down; every
other cause holds off. -/
def linkDown (l : LinkId) (cause : Nat) (s : State) : State :=
  if !isUp s l then s
  else
    let k := s.link l
    let s := expireRxCodewords l (fun _ => true) (expiryCause cause) (expireCodewords l (fun _ => true) (expiryCause cause) s)
    let s := clearLink l s
    let s := s.modLink l (fun k => { k with phase := 0, lastDown := cause })
    let s := s.inc (PORT_LINK_DOWNS l.n)
    let s := if l.sub.isSome then s.inc (PAIR_SUB_DOWNS l.n (subPair l)) else s
    let s := s.raise 0x2020 (if cause = 9 then 0 else 1) [l.n, cause, k.lastRetrain, subPair l]
    let s := showBeds l.n (expireAll l (expiryCause cause) (capNotice l s))
    let s := sideLinkDown l s
    let s := if cause = 7 ∨ cause = 8 ∨ cause = 0xA then enterG0 l s
      else if cause = 9 then flushTx l s
      else enterHoldOff l s
    showRoute l.n (showLink l s)

/-- Stop a link in any phase with link-down cause DISABLED and start-up cause DISABLED (R192, R194). -/
def disableLink (l : LinkId) (s : State) : State :=
  if isUp s l then linkDown l 9 s
  else if inStartup s l then
    showLink l (flushTx l ((clearLink l s).modLink l (fun k => { k with phase := 0, lastCause := 0xE })))
  else s

/-- A start-up of a link fails with a cause of R192 and holds off (R193). -/
def startupFail (l : LinkId) (cause : Nat) (s : State) : State :=
  let k := s.link l
  if !(decide (1 ≤ k.phase ∧ k.phase ≤ 6)) then s
  else
    let s := clearLink l s
    let s := s.inc (PORT_STARTUP_FAILS l.n)
    let s := s.raise 0x2011 1 [l.n, k.phase, cause, k.remoteCause]
    let c := min (k.consecFail + 1) 255
    let lim := s.fld (PORT_STARTUP_CFG.FAIL_LIMIT l.n)
    let hit := lim != 0 && decide (lim ≤ c)
    let s := if hit && !k.limit then s.raise 0x2012 1 [l.n, c] else s
    let s := s.modLink l (fun k => { k with consecFail := c, limit := k.limit || hit, lastCause := cause })
    showLink l (enterHoldOff l s)

/-- A fast retrain ends in full start-up (R191): counted, event 0x2014, link-down FR_FAIL. -/
def fastRetrainFail (l : LinkId) (cause : Nat) (s : State) : State :=
  if (s.link l).phase != 8 then s
  else
    let s := (s.inc (PORT_FR_FAILS l.n)).raise 0x2014 1 [l.n, cause]
    linkDown l 0xA (s.modLink l (fun k => { k with lastCause := 0xD }))

/-- A failure under R180 to R187: of the start-up, or of the fast retrain it happens in. -/
def phaseFail (l : LinkId) (cause : Nat) (s : State) : State :=
  if (s.link l).phase = 8 then fastRetrainFail l cause s else startupFail l cause s

/-! ### An EEI depth that ends at once (R301) -/

/-- End a depth or a wake without a wake sequence, wake cause FAULT. -/
def eeiBreak (l : LinkId) (s : State) : State :=
  let e := (s.link l).eei
  let s := s.modLink l (fun k => { k with eei := { k.eei with rxQuiet := false, alertSyms := none } })
  if e.inDepth || e.waking.isSome then
    let s := s.modLink l (fun k => { k with eei := { k.eei with
      inDepth := false, waking := none, detected := false, preDone := false, confirmed := false, alertSent := false,
      alertHeard := false, partialFr := false, hold := 0, cap := 3 } })
    let s := forEach (linkPairs l) (fun p s => s.modPair l.n.val p (fun k => { k with quiet := false })) s
    s.setFld (EEI_STATUS.LAST_WAKE l.n) 0xA
  else s

/-! ### Retrain requests (R148, R191, R202, R223) -/

/-- The place of a cause in the order of R223. -/
def causeRank (c : Nat) : Nat :=
  match [1, 0xD, 8, 9, 2, 3, 0xA, 4, 5, 6, 7, 0xC, 0xB].findIdx? (· == c) with
  | some i => i
  | none => 13

/-- Codes that ask for full start-up: ECHO, HOST_FULL, reserved codes and 0x0E (R223). -/
def isFullCause (c : Nat) : Bool := c == 1 || c == 0xD || causeRank c == 13

/-- An agreed or requested retrain of the link. -/
def retrainAgreed (k : LinkSt) : Option Change :=
  k.changes.find? (fun c => match c.kind with | .retrain _ _ => true | _ => false)

/-- A change agreed that itself begins a fast retrain or a full start-up (R45, R189). -/
def modeRetrains (k : LinkSt) : Bool :=
  k.changes.any (fun c => match c.kind with
    | .mode b on => b == mREACH || b == mSPLITBAND || b == mBREAKOUT || (b == mTRIPAIR && on)
    | _ => false)

/-- The port requests a retrain (R148, R223): at most one a stage, the first in the order of causes; dropped while a
retrain is under way. It names this end's count plus 4 and is acted on whether or not it is acknowledged. -/
def requestRetrain (l : LinkId) (cause : Nat) (s : State) : State :=
  let k := s.link l
  if k.phase != 7 || (k.asked && decide (1 ≤ cause ∧ cause ≤ 3)) then s
  else
    let unsent := k.waiting.find? (fun w => w.code == 0x51)
    match retrainAgreed k, unsent with
    | some c, some w =>
      -- several causes in one stage: the first in the order is sent
      if causeRank cause < causeRank w.arg then
        s.modLink l (fun k => { k with
          waiting := k.waiting.map (fun x => if x.code == 0x51 then { x with arg := cause } else x),
          changes := k.changes.map (fun x => if x == c then { x with kind := .retrain cause (isFullCause cause) }
                                             else x) })
      else s
    | some _, none => s
    | none, _ =>
      if modeRetrains k then s
      else
        let st := stagePlus (nextWaymark k) 4
        let s := eeiBreak l s
        agree l st (.retrain cause (isFullCause cause)) (sendPort l 0x51 (some st) cause s)

/-- A slice replacement or LPLL switch on a link (R191): in showtime a request; in a fast retrain a restart of it, the
second one a full start-up. -/
def requestForced (l : LinkId) (cause : Nat) (s : State) : State :=
  let k := s.link l
  if k.phase = 8 then
    if 1 ≤ k.frRestarts then fastRetrainFail l 0xD s
    else
      let st := stagePlus (nextWaymark k) 4
      agree l st (.retrain cause false) (sendPort l 0x51 (some st) cause s)
  else requestRetrain l cause s

/-! ### Pair faults (R215 to R217) -/

/-- TRIPAIR is in effect on a four-pair port that holds the three-pair tables of both directions with pair d dead: those that
loaded and were exchanged (R181, R183, R215, R216). -/
def canFallBack (s : State) (l : LinkId) (d : Nat) : Bool :=
  let k := s.link l
  l.sub.isNone && k.phase == 7 && bit k.negotiated mTRIPAIR && pairCount k.carry == 4 && pairCount k.carryRx == 4 &&
  k.ownStreams.any (fun x => x.1 == d + 1) &&
  (allPairs.filter (· != d)).all (fun p => k.peerTables.any (fun x => x.1 == p && x.2.1 == d + 1))

/-- The stream of the held three-pair tables of a direction with pair d dead. -/
def heldStream (k : LinkSt) (d : Dir) (p : Nat) : Nat :=
  match d with
  | .rx => ((k.ownStreams.find? (fun x => x.1 == p + 1)).map (·.2)).getD k.streamRx
  | .tx => ((k.peerTables.find? (fun x => x.2.1 == p + 1)).map (fun x => x.2.2.1)).getD k.streamTx

/-- A dead pair takes precedence over the receiver's own causes of its stage (R148): a request with one of them that has not been
sent goes, and no other is made in the stage. -/
def deadFirst (l : LinkId) (s : State) : State :=
  s.modLink l (fun k =>
    let mine (w : WMsg) : Bool := w.code == 0x51 && decide (1 ≤ w.arg ∧ w.arg ≤ 3)
    let k := { k with asked := true }
    if k.waiting.any mine then
      { k with waiting := k.waiting.filter (fun w => !mine w),
               changes := k.changes.filter (fun c => match c.kind with | .retrain _ _ => false | _ => true) }
    else k)

/-- Agree the fallback of one pair at a stage (R214, R215): the capacity notice of the three-pair stream. -/
def agreeFallback (l : LinkId) (p code stage : Nat) (s : State) : State :=
  let s := eeiBreak l s
  let s := cancelFrom l stage isFaultOrRetrain s
  let k := s.link l
  let rest := (maskPairs k.carry).filter (fun q => q != p && !bit (patternPairs s l) q)
  let x := heldStream k .tx p
  -- TRANSPARENT leaves with the fallback (R55 row 47)
  let cap := rest.length * linkShare k l (if 4 ≤ x then max (shownTier x) k.maxTier else x) 3
  capAgree l cap stage (agree l stage (.fault (2 ^ p) code) s)

/-- A carrying pair fails with a fault code (R215, R217, R191, R222). -/
def pairFault (l : LinkId) (p code : Nat) (s : State) : State :=
  let k := s.link l
  let downCause := if code = 3 then 3 else 2
  if k.phase = 8 then fastRetrainFail l 7 (s.modLink l (fun k => { k with frExclude := setBit k.frExclude p true }))
  else if k.phase != 7 || !bit (k.carry ||| k.carryRx) p then s
  else if bit (pendingFault k) p then s
  else if canFallBack s l p && pendingFault k == 0 then
    let st := stagePlus (nextWaymark k) 4
    let s := deadFirst l (agreeFallback l p code st s)
    sendPort l 0x50 (some st) (2 ^ p + code * 256) s
  else linkDown l downCause s

/-- The link that a pair of a port belongs to: its sub-link in BREAKOUT, else the port. -/
def linkOfPair (s : State) (n : Port) (p : Pair) : LinkId := if isBreakout s n then subLink n p else portLink n

/-- A sub-ADC has failed (R120, R534): the first of a pair gives its slot to the spare for good, event 0x5010, with a type-5
REPAIR entry; a second one on the pair is a pair fault, code ADC. -/
def failSubAdc (n : Port) (p : Pair) (i : Nat) (s : State) : State :=
  match (s.pair n p).badSub with
  | none =>
    let s := s.setFld (PAIR_ADC_STATUS.SPARE_SLOT n p) i
    let s := (s.setFld (PAIR_ADC_STATUS.COMMITTED n p) 1).setFld (PAIR_ADC_STATUS.DEGRADED n p) 1
    let s := (s.modPair n p (fun k => { k with badSub := some i })).raise 0x5010 2 [gpair n p, i]
    askRepair [⟨5, gpair n p, i, 0xFFFF⟩] [] s
  | some j =>
    let l := linkOfPair s n p
    if i = j then s else showLink l (pairFault l p 2 s)

/-- A link stops with the tile link, REFCLK or both LPLLs gone (R27, R347, R352): out of showtime with a cause, out of start-up
without one of R192; it waits in HOLD_OFF. -/
def dropLink (l : LinkId) (cause : Nat) (s : State) : State :=
  if isUp s l then linkDown l cause s
  else if inStartup s l && (s.link l).phase != 10 then
    showLink l (flushTx l (enterHoldOff l (clearLink l s)))
  else s

end Sys2Proof.Machine
end

