-- ==== Sys2Proof/Machine/LineSignal.lean ====
section
/-! DEFINITION. The signal that this end transmits: the values X(k) of every symbol, its samples in order, waymark symbols, training,
start-up frames, bursts and the chirp (R65 to R68, R84 to R86, R99, R100, R108 to R110, R159 to R163, R176, R182, R319). A value
stays exact: a point, the energy of its constellation, a level in 0.5 dB. -/
namespace Sys2Proof.Machine

/-! ### Symbols (R65, R67) -/

/-- Zero amplitude, and the complex conjugate. -/
def zeroTone : Tone := ⟨0, 0, 1, 0⟩
def conjTone (x : Tone) : Tone := { x with im := -x.im }

/-- X(0) to X(1023) from X(1) to X(511) (R67). -/
def spectrumOf (f : Nat → Tone) : List Tone :=
  (List.range 1024).map (fun k =>
    if k = 0 ∨ k = 512 then zeroTone else if k < 512 then f k else conjTone (f (1024 - k)))

/-- The samples of the inverse transform in the order sent: the cyclic prefix x(928) to x(1023), then x(0) to x(1023) (R67). -/
def sampleOrder : List Nat := (List.range 96).map (· + 928) ++ List.range 1024

/-- A symbol of 1120 samples (R65, R67). -/
def symbolFrom (f : Nat → Tone) : LineSymbol := ⟨spectrumOf f, sampleOrder⟩

/-- Sample i as sent, as the terms of the inverse transform x(m) = Σ X(k) exp(2πj k m / 1024): each value X(k) with its number of
1/1024 turns (R67). -/
def symbolSample (y : LineSymbol) (i : Nat) : List (Tone × Nat) :=
  y.spectrum.zipIdx.map (fun x => (x.1, x.2 * y.order.getD i 0 % 1024))

/-! ### Levels (R86, R108) -/

/-- The average energy of a b-bit constellation (R86). -/
def constellationEnergy (b : Nat) : Nat :=
  ((List.range (2 ^ b)).map (fun c => let x := labelPoint b c; (x.1 * x.1 + x.2 * x.2).toNat)).sum / 2 ^ b

/-- The level of a subcarrier in 0.5 dB for a PSD_OFFSET code and a fine gain code; code 12 is 0 dB in both (R72, R86, R108). -/
def toneLevel (psd g : Nat) : Int := (psd : Int) + (g : Int) - 24

/-- A QPSK point at a level (R99). -/
def qpskTone (level : Int) (c0 c1 : Bool) : Tone := ⟨(qpsk c0 c1).1, (qpsk c0 c1).2, 2, level⟩

/-- The pilot point (+1, +1) with a fine gain of 0 dB (R68). -/
def pilotTone (psd : Nat) : Tone := ⟨1, 1, 2, toneLevel psd 12⟩

/-- Subcarrier k is one that this end transmits: every one, in SPLITBAND those of its own bands (R68, R110). -/
def ownIndex (split lower : Bool) (k : Nat) : Bool := !split || inBand lower k

/-- A data subcarrier that this end transmits, band edges included (R66, R99, R176). -/
def ownData (split lower : Bool) (k : Nat) : Bool := !isExcluded k && ownIndex split lower k

/-- SNR(k) reads 0 on the subcarriers that the far end does not transmit in the band plan (R142). -/
def clearBands (l : LinkId) (s : State) : State :=
  let k := s.link l
  forEach (linkPairs l) (fun p s =>
    forEach ((List.range 512).filter (fun i => !ownData k.splitband (senderLower k .rx) i)) (fun i s => s.setSnr l.n p i 0) s) s

/-! ### Tone reservation (R109) -/

/-- TR_ITER and PAR_TARGET as they act (R109, R113). -/
def trIter (s : State) (n : Port) (p : Nat) : Nat := min 4 (s.fld (PAIR_TX_CFG.TR_ITER n p))
def parTarget (s : State) (n : Port) (p : Nat) : Nat := max 80 (min 140 (s.fld (PAIR_TX_CFG.PAR_TARGET n p)))

/-- Half of the mask's amplitude bound of 2^15 in each direction: no value exceeds the mask (R109). -/
def maskClamp (v : Int) : Int := max (-23170) (min 23170 v)

/-- The mask on 496 to 503 is +3.0 dB above nominal (R107, R108). The values are free within it (log entry 3). -/
def reservedTone (s : State) (n : Port) (p : Nat) (xs : List Tone) (k : Nat) : Tone :=
  let v := Config.reserved xs (trIter s n p) (parTarget s n p) k
  ⟨maskClamp v.1, maskClamp v.2, 2 ^ 30, 6⟩

/-- The subcarriers of tone reservation (R66). -/
def isReserved (k : Nat) : Bool := decide (496 ≤ k ∧ k ≤ 503)

/-- A pair that no slice serves, or a FAILED one: its transmit output is zero and its receive output is discarded (R22, R527). -/
def muted (s : State) (n : Port) (p : Nat) : Bool :=
  let g := gpair n p
  pairSlice s g == 0x7F || sliceState s (pairTile g) (pairSlice s g) == 3

/-- A pair's symbol with tone reservation, for the values of the other subcarriers; zero on a muted pair (R66, R67, R109, R527). -/
def withReserved (s : State) (n : Port) (p : Nat) (f : Nat → Tone) : LineSymbol :=
  let xs := (List.range 496).map f
  symbolFrom (fun k => if muted s n p then zeroTone else if isReserved k then reservedTone s n p xs k else if k < 496 then f k else zeroTone)

/-- A sample exceeds DAC full scale: a free value of the symbol (R109, log entry 3). -/
def isClipped (s : State) (n : Port) (p : Nat) (y : LineSymbol) : Bool :=
  Config.clipped y.spectrum (trIter s n p) (parTarget s n p)

/-- Count the clipped ones of a pair's symbols in PAIR_TX_CLIP (R109). -/
def countClips (n : Port) (p : Nat) (ys : List LineSymbol) (s : State) : State :=
  s.addTo (PAIR_TX_CLIP n p) (ys.filter (isClipped s n p)).length

/-! ### Data symbols (R66 to R68, R84 to R86) -/

/-- The end transmits in the even bands (R110), and SPLITBAND is in use. -/
def txSplit (s : State) (l : LinkId) : Bool := (s.link l).splitband
def txLower (s : State) (l : LinkId) : Bool := senderLower (s.link l) .tx

/-- The labels of the loaded subcarriers at their indices. -/
def placeLabels (t : List Nat) (labels : List Nat) : List (Nat × Nat) :=
  ((List.range 512).filter (fun k => decide (2 ≤ entryB (t.getD k emptyEntry)))).zip labels

/-- X(k) of a data symbol: pilots, the labelled points at their levels, zero elsewhere (R66, R68, R72, R84 to R86). -/
def dataTone (split lower : Bool) (psd : Nat) (t : List Nat) (at_ : List (Nat × Nat)) (k : Nat) : Tone :=
  if isPilot k then (if ownIndex split lower k then pilotTone psd else zeroTone)
  else match at_.find? (fun x => x.1 == k) with
    | none => zeroTone
    | some (_, c) =>
      let e := t.getD k emptyEntry
      let x := labelPoint (entryB e) c
      ⟨x.1, x.2, constellationEnergy (entryB e), toneLevel psd (entryG e)⟩

/-- A pair's data symbol with these labels through its active table. -/
def dataSymbol (s : State) (l : LinkId) (p : Nat) (labels : List Nat) : LineSymbol :=
  let t := s.active l.n p .tx
  withReserved s l.n p (dataTone (txSplit s l) (txLower s l) (s.pair l.n p).psd t (placeLabels t labels))

/-! ### QPSK over a set of subcarriers -/

/-- X(k) of a symbol whose subcarriers `ks` carry bit pairs in order at a level, with this end's pilots. -/
def qpskSymbol (s : State) (l : LinkId) (p : Nat) (ks : List Nat) (bs : List Bool) : LineSymbol :=
  let psd := (s.pair l.n p).psd
  let split := txSplit s l
  let lower := txLower s l
  withReserved s l.n p (fun k =>
    if isPilot k then (if ownIndex split lower k then pilotTone psd else zeroTone)
    else if ks.contains k then
      let i := ks.idxOf k
      qpskTone (toneLevel psd 12) (bs.getD (2 * i) false) (bs.getD (2 * i + 1) false)
    else zeroTone)

/-- The data subcarriers that this end transmits in waymark symbols and training (R99, R176). -/
def txData (s : State) (l : LinkId) : List Nat := (List.range 512).filter (ownData (txSplit s l) (txLower s l))

/-! ### The waymark symbol (R99, R100) -/

/-- The channel set: the first 124 data subcarriers from index 8 that this end transmits, less the band edges (R99). -/
def channelSetOf (split lower : Bool) : List Nat :=
  ((List.range 512).filter (fun k => decide (8 ≤ k) && loadable split lower k)).take 124
def channelSet (s : State) (l : LinkId) : List Nat := channelSetOf (txSplit s l) (txLower s l)

/-- The waymark symbol of a pair with a message: the coded message on the channel set, the sync sequence on the other data
subcarriers in ascending index (R99, R100). -/
def waymarkSymbol (s : State) (l : LinkId) (p : Nat) (m : Nat) : LineSymbol :=
  let cs := channelSet s l
  let ss := (txData s l).filter (fun k => !cs.contains k)
  qpskSymbol s l p (cs ++ ss) (waymarkCode m (crc16 (bitsMsb 96 m)) ++ syncSequence (2 * ss.length))

/-- The waymark symbol of a pair after its fallback: it carries no message, so the channel set stands at zero amplitude beside the sync
sequence (R103, R219; DESIGN CHOICE, log entry 51). -/
def syncSymbol (s : State) (l : LinkId) (p : Nat) : LineSymbol :=
  let cs := channelSet s l
  let ss := (txData s l).filter (fun k => !cs.contains k)
  qpskSymbol s l p ss (syncSequence (2 * ss.length))

/-! ### Training (R176, R179) -/

/-- `count` training symbols of a pair from symbol `first` since the generator's restart (R176). -/
def trainingSymbols (s : State) (l : LinkId) (p first count : Nat) : List LineSymbol :=
  let ks := txData s l
  let w := 2 * ks.length
  let bs := (trainingBits p (w * (first + count))).drop (w * first)
  (List.range count).map (fun i => qpskSymbol s l p ks ((bs.drop (w * i)).take w))

/-! ### Codewords of bursts and start-up frames (R163, R182) -/

/-- A codeword of the rate-1/2 code: the bits and six zeros, coded from state 0, XORed with v(n) (R163). -/
def codeword (bs : List Bool) : List Bool :=
  let c := convEncode (bs ++ List.replicate 6 false) []
  xorBits c (waymarkMask c.length)

/-- Symbols of `w` bits filled in order, the last completed with zero bits. -/
def fillSymbols (w : Nat) (bs : List Bool) : List (List Bool) :=
  (List.range ((bs.length + w - 1) / w)).map (fun i =>
    let x := (bs.drop (w * i)).take w
    x ++ List.replicate (w - x.length) false)

/-- The header word and the body of a start-up frame as bits, in the order sent (R182, R183, R185): a TABLE's entries of nine bits,
bit 8 first, the 64 bits of a STATUS, no body of the others. -/
def frameWord (f : SuFrame) : Nat := f.kind % 16 * 2 ^ 28 + f.pair.val * 2 ^ 24 + f.set % 16 * 2 ^ 20 + f.arg % 2 ^ 20
def frameBody (f : SuFrame) : List Bool :=
  if f.kind = 1 then ((f.body.take 492).flatMap (bitsMsb 9))
  else if f.kind = 2 then bitsMsb 64 (f.body.getD 0 0)
  else []

/-- The CRC-32C of a frame over header and body as bytes, least significant byte first (R182); the last byte of a TABLE's body of 4428
bits is completed with zeros at the top (DESIGN CHOICE, log entry 51). -/
def frameCrc (f : SuFrame) : Nat :=
  let b := frameBody f
  crc32c (bytesLsb 4 (frameWord f) ++ bytesLsb ((b.length + 7) / 8) (ofBitsMsb b))

/-- A frame with its CRC-32C, and whether a received one's is right. -/
def sealFrame (f : SuFrame) : SuFrame := { f with crc := frameCrc f }
def frameGood (f : SuFrame) : Bool := f.crc == frameCrc f

/-- The frame set: every data subcarrier the sender transmits in data symbols, less the band edges (R182). -/
def frameSet (s : State) (l : LinkId) : List Nat := (List.range 512).filter (loadable (txSplit s l) (txLower s l))

/-- The data symbols of a start-up frame (R182), QPSK at a fine gain of 0 dB (DESIGN CHOICE, log entry 51). -/
def frameSymbols (s : State) (l : LinkId) (p : Nat) (f : SuFrame) : List LineSymbol :=
  let ks := frameSet s l
  (fillSymbols (2 * ks.length) (codeword (bitsMsb 32 (frameWord f) ++ frameBody f ++ bitsMsb 32 f.crc))).map (qpskSymbol s l p ks)

/-! ### Bursts (R159 to R163) -/

/-- The level of a burst's subcarriers in 0.5 dB above nominal (R161). -/
def burstLevel (code : Nat) : Int :=
  match code with
  | 0 => -24
  | 1 => -12
  | 2 => 0
  | _ => 6

/-- The preamble (R160): the sixteen lines of p(n) as (subcarrier, phase in π/16, power over that of a subcarrier at the burst's level): the
power of 64 subcarriers over sixteen lines is four times; and the signs of its eight repetitions. -/
def preambleLines : List (Nat × Nat × Nat) := (List.range 16).map (fun i => (4 * (i + 2), i * i % 32, 4))
def preambleSigns : List Int := [1, 1, 1, 1, 1, 1, 1, -1]

/-- The robust set (R159). -/
def robustSet : List Nat := (List.range 64).map (· + 8)

/-- A header or body symbol of a burst: QPSK on the robust set, nothing else (R159). -/
def burstSymbol (code : Nat) (bs : List Bool) : LineSymbol :=
  symbolFrom (fun k => if robustSet.contains k then
    qpskTone (burstLevel code) (bs.getD (2 * (k - 8)) false) (bs.getD (2 * (k - 8) + 1) false) else zeroTone)

/-- The alert symbols of a pair: QPSK of the sync sequence on the robust set at LEVEL 3, the eighth inverted, with tone reservation (R109,
R303). -/
def alertSymbols (s : State) (n : Port) (p : Nat) : List LineSymbol :=
  let bs := syncSequence 128
  (List.range 8).map (fun i =>
    let x (j : Nat) : Bool := bs.getD j false != decide (i = 7)
    withReserved s n p (fun k => if robustSet.contains k then qpskTone (burstLevel 3) (x (2 * (k - 8))) (x (2 * (k - 8) + 1)) else zeroTone))

/-- The bits of a burst's body in the order sent: its pages, then the CRC-32C over them as bytes (R163). -/
def bodyCrc (pages : List Nat) : Nat := crc32c (pages.flatMap (bytesLsb 8))
def burstBody (pages : List Nat) : List Bool := pages.flatMap (bitsMsb 64) ++ bitsMsb 32 (bodyCrc pages)

/-- The symbols of a burst after its preamble: the header's codeword, then the body's (R162, R163). -/
def burstSymbols (hdr : Nat) (pages : List Nat) : List LineSymbol :=
  let code := bits hdr 113 112
  (fillSymbols 128 (codeword (bitsMsb 122 hdr)) ++ fillSymbols 128 (codeword (burstBody pages))).map (burstSymbol code)

/-! ### The chirp (R319) -/

/-- The offset of DIAG_CTRL.LEVEL in 0.5 dB; in the fallen-pair context every code acts as 0 (R318, R334). -/
def chirpLevel (s : State) (n : Port) (p : Nat) (fallen : Bool) : Int :=
  match (if fallen then 0 else s.fld (DIAG_CTRL.LEVEL n p)) with
  | 0 => -40
  | 1 => -24
  | 2 => -12
  | _ => 0

/-- The lines of one period of 16,384 samples: m with the phase πm²/16,384 in units of π/16,384; every other X(m) is 0, and
X(16,384 - m) the conjugate (R319). -/
def chirpLines : List (Nat × Nat) := ((List.range 7936).drop 64).map (fun m => (m, m * m % 32768))

end Sys2Proof.Machine
end

