-- ==== Sys2Proof/Machine/EeiOps.lean ====
section
/-! DEFINITION. Energy-Efficient Idle: agreement, entry, wake causes and the wake sequence, as operations over a link
(R291 to R314); the start of a fast retrain (R189, R190). -/
namespace Sys2Proof.Machine

/-! ### Starting a retrain (R189, R190) -/

/-- Every pair of the link has a stored set from the current pair of identities, and FR_ALLOW is 1 (R189). -/
def fastAllowed (s : State) (l : LinkId) : Bool :=
  let k := s.link l
  s.flag (PORT_STARTUP_CFG.FR_ALLOW l.n) &&
  (linkPairs l).all (fun p => (s.pair l.n.val p).storedIds == some (k.ownId, k.peerId))

/-- The slow digital gain of a pair starts again at 0 dB, before its receiver measures a new level to hold: the spec does not say where it
starts (DESIGN CHOICE, log entry 47; R118). -/
def restartGain (n p : Nat) (s : State) : State :=
  (s.setFld (PAIR_AGC.DGAIN n p) 0).modPair n p (fun q => { q with gainFine := 0, gainRef := none, gainRun := 0 })

/-- Begin the fast retrain at stage `f` with a cause (R190): the stored set restored on every pair, training begins,
the changes named at or after `f` are cancelled (R214), capacity 0 (R33, R250). -/
def startFast (l : LinkId) (f cause restarts : Nat) (s : State) : State :=
  let s := cancelFrom l f (fun _ => false) (eeiBreak l s)
  let s := s.modLink l (fun k => { k with
    phase := 8, frStage := f, frCause := cause, frRestarts := restarts, verify := 0, farVerify := 0,
    errSyms := 0, showStage := none, farShow := none, startedAt := s.now, ownStreams := [], peerTables := [],
    excluded := 0, trained := false, coachOn := false, coachRx := none, modeAsk := [], plainRx := none, retrainModes := [], lastRetrain := cause, changes := k.changes.filter (fun c => !reached c.stage f),
    frDead := if k.phase = 8 then k.frDead else pairsMask ((linkPairs l).filter (isFallen k)), decided := false, adopted := false, lossRun := 0, sinceFallback := 64 })
  let s := forEach (linkPairs l) (fun p s =>
    restoreStored l.n.val p (s.modPair l.n.val p (fun k => { k with
      quiet := false, pilotSum := 0, pilotCount := 0 }))) (endExchange l s)
  -- LQ is 0 outside showtime (R145); the slow gain starts again
  let s := forEach (linkPairs l) (fun p s => restartGain l.n.val p (s.setFld (PAIR_QUALITY.LQ l.n p) 0)) s
  let s := clearStream l (dropSubPattern l s)
  showRoute l.n (sideRetrain l (capNotice l s))

/-- A retrain begins at its stage (R189): a fast one where the cause and the stored set allow it, otherwise a full
start-up, link-down RETRAIN. -/
def beginRetrain (l : LinkId) (f cause : Nat) (full : Bool) (s : State) : State :=
  let r := if (s.link l).phase = 8 then (s.link l).frRestarts + 1 else 0
  let s := s.modLink l (fun k => { k with lastRetrain := cause })
  if full || !fastAllowed s l then
    -- a fast retrain that becomes a full start-up ends FR_FAIL (R191)
    (if (s.link l).phase = 8 then fastRetrainFail l cause s else linkDown l 7 (eeiBreak l s))
  else if 2 ≤ r then fastRetrainFail l 0xD s
  else startFast l f cause r s

/-! ### EEI: counters -/

/-- Count a refusal under a code at this end (R313). -/
def countRefusal (l : LinkId) (code : Nat) (s : State) : State :=
  let s := if 1 ≤ code ∧ code ≤ 10 then s.inc (EEI_REFUSED l.n code) else s
  (s.setFld (EEI_STATUS.LAST_REFUSER l.n) code).modLink l (fun k => { k with eei := { k.eei with hold := 0 } })

/-- Count an abort under a code at this end (R313). -/
def countAbort (l : LinkId) (code : Nat) (s : State) : State :=
  let s := if 1 ≤ code ∧ code ≤ 10 then s.inc (EEI_ABORTED l.n code) else s
  (s.setFld (EEI_STATUS.LAST_REFUSER l.n) code).modLink l (fun k => { k with eei := { k.eei with hold := 0 } })

/-- Update a link's EEI state. -/
def modEei (l : LinkId) (g : EeiSt → EeiSt) (s : State) : State := s.modLink l (fun k => { k with eei := g k.eei })

/-! ### EEI: agreement -/

/-- IDLE_STAGES and HOLDOFF (R314). -/
def idleStages (s : State) (n : Port) : Nat := max 1 (s.fld (EEI_CFG.IDLE_STAGES n))
def eeiHoldOff (s : State) (n : Port) : Nat := max 1 (s.fld (EEI_CFG.HOLDOFF n))

/-- The transmit queue of a link holds no bed. -/
def queueEmpty (s : State) (l : LinkId) : Bool := (s.queue l).tx.all (fun f => f.banks.isEmpty)

/-- Another change of the link is agreed or pending (R312 CHANGE). -/
def changeBusy (s : State) (l : LinkId) : Bool :=
  let k := s.link l
  !k.changes.isEmpty || k.proposals.any (fun q => q.code != 0x40) || !k.withdrawn.isEmpty || rateBusy k ||
  k.waiting.any (fun w => w.code == 0x20 || w.code == 0x30 || w.code == 0x50 || w.code == 0x51) ||
  (linkPairs l).any (fun p => (s.pair l.n.val p).swap != .idle)

/-- The first refuser of R312 that applies at this end; `depth` is a proposed depth to check against its own. -/
def refuser (s : State) (l : LinkId) (depth : Nat) (host : Bool) : Option Nat :=
  let a := linkAllowed s l
  if a = 0 ∨ a < depth then some 2
  else if testOn s l.n || diagHolds s l then some 3
  else if calBusy s l then some 4
  else if host then some 5
  else if claimHolds s l then some 7
  else if changeBusy s l then some 8
  else none

/-- Record the agreement of an entry at stage E (R296, R297): the change, the registers. The notice of R33 brings no other capacity:
from here on the Timetable starts vf by the depth's longest wake (R250). -/
def agreeEntry (l : LinkId) (depth stage : Nat) (s : State) : State :=
  let s := modEei l (fun e => { e with depth := depth, entry := stage, agreed := true, enterWake := false,
                                       peerWake := false, sendWake := false }) s
  (agree l stage (.eei depth) s).setReg (EEI_ENTRY_STAGE l.n) (word stage)

/-- Forget an agreed entry. -/
def dropEntry (l : LinkId) (s : State) : State :=
  let s := s.modLink l (fun k => { k with changes := k.changes.filter (fun c =>
    match c.kind with | .eei _ => false | _ => true) })
  modEei l (fun e => { e with agreed := false, enterWake := false, peerWake := false, sendWake := false,
                                abortCode := none }) s

/-- The stage of this end's own entry proposal that waits for its reply. -/
def proposedEntry (k : LinkSt) : Option Proposal := k.proposals.find? (fun q => q.code == 0x40)

/-! ### EEI: refresh and waking -/

/-- The refresh interval of a depth (R291). -/
def refreshEvery (depth : Nat) : Nat := if depth = 1 then 14 else if depth = 2 then 140 else 0

/-- The running stage is a refresh stage of a quiet link (R299). -/
def refreshStage (k : LinkSt) : Bool :=
  k.eei.inDepth && k.eei.waking.isNone && decide (1 ≤ k.eei.depth ∧ k.eei.depth ≤ 2) &&
  k.own % refreshEvery k.eei.depth == 0

/-- The settings of a tile's power controller for the slices and front ends of a link (R311): body bias and source bias in 0.01 V. -/
inductive SliceClock where
  | running | gated | stopped
deriving DecidableEq, Repr
inductive LogicSupply where
  | on | retentionFlops
deriving DecidableEq, Repr
inductive SramArray where
  | normal | standby | lightSleep (sourceBias : Nat) | deepRetention (sourceBias : Nat)
deriving DecidableEq, Repr
inductive SramAssist where
  | calibrated | off | retentionClamp
deriving DecidableEq, Repr
inductive FrontEnd where
  | on | idle | off
deriving DecidableEq, Repr
structure PowerSetting where
  clock : SliceClock
  logic : LogicSupply
  bodyBias : Nat
  sram : SramArray
  assist : SramAssist
  frontEnd : FrontEnd
  detector : Bool
deriving DecidableEq, Repr

/-- The columns of R311 for a depth, 0 Active. -/
def powerOf (depth : Nat) : PowerSetting :=
  match depth with
  | 0 => ⟨.running, .on, 0, .normal, .calibrated, .on, false⟩
  | 1 => ⟨.gated, .on, 10, .standby, .off, .idle, true⟩
  | 2 => ⟨.gated, .on, 30, .lightSleep 10, .off, .off, true⟩
  | _ => ⟨.stopped, .retentionFlops, 50, .deepRetention 25, .retentionClamp, .off, true⟩

/-- What the tile's power controller applies to the pairs of a link: the depth's settings from the entry to the end of the pre-step, but
in a refresh those of an active pair (R298, R299, R303, R311). -/
def tilePower (k : LinkSt) : PowerSetting :=
  powerOf (if k.eei.inDepth && !k.eei.preDone && !refreshStage k then k.eei.depth else 0)

/-- The stage that EEI_WAKE names in a wake sequence: that of this end's resume symbol, N symbols after the first alert
symbol (in REACH the first stage that begins then), or in Long Stay its own count plus 8 (R303, R304). -/
def resumeStage (s : State) (l : LinkId) : Nat :=
  let k := s.link l
  let reach := (isReach k).toNat
  stagePlus k.own (if k.eei.depth = 1 then 1 + reach else if k.eei.depth = 2 then 4 + reach else 8)

/-- Send training symbols of a pair, the first of them `first` symbols after the generator's restart (R176). -/
def sendTraining (l : LinkId) (first count p : Nat) (s : State) : State :=
  let ys := trainingSymbols s l p first count
  (countClips l.n p ys s).emit (.training l p ys)

/-- Training symbols between the alerts and the resume symbol: N symbols from the first alert less eight alerts and the waymark
symbols among them; in Long Stay those of the alerts' stage (R303, R304). -/
def wakeTraining (depth : Nat) : Nat := if depth = 2 then 244 else 55

/-- With a wake cause and the pre-step done, every carrying pair sends its alert symbols and training, and EEI_WAKE in each waymark
symbol after them (R303). The generator starts again after the alerts (DESIGN CHOICE, log entry 51). -/
def startAlerts (l : LinkId) (s : State) : State :=
  let e := (s.link l).eei
  if e.waking.isSome && e.preDone && !e.alertSent then
    let s := forEach (maskPairs (s.link l).carry) (fun p s =>
      let ys := alertSymbols s l.n p
      sendTraining l 0 (wakeTraining e.depth) p ((countClips l.n p ys s).emit (.alert l p ys))) s
    sendPort l 0x44 (some (resumeStage s l)) 0 (modEei l (fun e => { e with alertSent := true, sendWake := true }) s)
  else s

/-- Begin a wake in a depth with a cause (R302, R303): the pre-step starts; Layover has none. -/
def beginWake (l : LinkId) (cause : Nat) (s : State) : State :=
  let s := modEei l (fun e => { e with
    waking := some cause, wakeAt := s.now, preDone := e.preDone || e.depth == 1, confirmed := true, cap := 3 }) s
  startAlerts l (s.setFld (EEI_STATUS.LAST_WAKE l.n) cause)

/-- The depth is over: nothing of the wake stands, the pairs send again. -/
def endDepth (l : LinkId) (s : State) : State :=
  let s := modEei l (fun e => { e with
    inDepth := false, waking := none, detected := false, preDone := false, confirmed := false, alertSent := false,
    alertHeard := false, partialFr := false, enterWake := false, peerWake := false, sendWake := false, hold := 0,
    cap := 3 }) s
  let s := forEach (linkPairs l) (fun p s => s.modPair l.n.val p (fun k => { k with quiet := false })) s
  s.modLink l (fun k => { k with waiting := k.waiting.filter (fun w => w.code != 0x44) })

/-- A wake cause arises at a link (R302, R308, R309): after the proposal or the agreement and before E an abort, or too
late for one an entry with a wake at once; in a depth a wake; otherwise nothing. -/
def wakeCause (l : LinkId) (cause : Nat) (s : State) : State :=
  let k := s.link l
  let e := k.eei
  let abortable (st : Nat) : Bool := reached (stagePlus st (2 ^ 32 - 2)) (nextWaymark k)
  if k.phase != 7 then s
  else if e.inDepth then (if e.waking.isSome then s else beginWake l cause s)
  else if e.agreed then
    if e.enterWake then s
    else if abortable e.entry then
      countAbort l cause (sendPort l 0x43 (some e.entry) cause (dropEntry l s))
    else
      (modEei l (fun e => { e with enterWake := true, sendWake := true, waking := none }) s).setFld
        (EEI_STATUS.LAST_WAKE l.n) cause |> sendPort l 0x44 (some e.entry) 0
  else
    match proposedEntry k with
    | some q =>
      if e.abortCode.isSome || e.sendWake then s
      else if abortable q.stage then
        modEei l (fun e => { e with abortCode := some cause, hold := 0 }) (sendPort l 0x43 (some q.stage) cause s)
      else
        modEei l (fun e => { e with enterWake := true, sendWake := true, entry := q.stage })
          ((sendPort l 0x44 (some q.stage) 0 s).setFld (EEI_STATUS.LAST_WAKE l.n) cause)
    | none => s.modLink l (fun k => { k with waiting := k.waiting.filter (fun w => w.code != 0x40) })

/-- A wake cause for every link of a port. -/
def wakePort (n : Port) (cause : Nat) (s : State) : State := forEach (activeLinks s n) (fun l s => wakeCause l cause s) s

/-- The pairs of a link become quiet or send again. -/
def setQuiet (l : LinkId) (q : Bool) (s : State) : State :=
  forEach (maskPairs ((s.link l).carry ||| (s.link l).carryRx)) (fun p s =>
    s.modPair l.n.val p (fun k => { k with quiet := q })) s

/-- The host opened a frame or delivered a new ordered set on a link (R295, R302 HOST). -/
def hostActive (l : LinkId) (s : State) : State :=
  wakeCause l 5 (modEei l (fun e => { e with idle := 0, refused := false }) s)

/-- Put the budget, MAX_DEPTH and the EEI bit in force (R45, R294): a depth that the new allowed depth forbids wakes or
aborts with cause BUDGET. -/
def applyBudget (l : LinkId) (s : State) : State :=
  let n := l.n
  let b := min (s.fld (EEI_WAKE_BUDGET.BUDGET n)) 1000000
  let d := s.fld (EEI_CFG.MAX_DEPTH n)
  let s := modEei l (fun e => { e with budget := b, maxDepth := d, cap := if e.budget = b then e.cap else 3 }) s
  let s := if bit (s.port n).localWait mEEI then
      -- the value last written waits where it differs from the one now in effect (R590)
      let v := bit (modeSet s n) mEEI
      s.modPort n (fun k => { k with localOn := setBit k.localOn mEEI (bit k.localVal mEEI),
                                     localWait := setBit k.localWait mEEI (bit k.localVal mEEI != v),
                                     localVal := setBit k.localVal mEEI v })
    else s
  let e := (s.link l).eei
  let s := if (e.agreed || e.inDepth) && decide (linkAllowed s l < e.depth) then wakeCause l 2 s else s
  refreshModes n s

/-- Carrying pairs whose margin stands below 0 dB; all of them where none does. -/
def failingMask (s : State) (l : LinkId) : Nat :=
  let ps := maskPairs (s.link l).carryRx
  let bad := ps.filter (fun p => decide (signed 16 (s.fld (PAIR_QUALITY.MARGIN l.n p)) < 0))
  pairsMask (if bad.isEmpty then ps else bad)

/-- A partial fast retrain fails: counted, event 0x2050; it goes on as a fast retrain with cause MARGIN (R307). -/
def partialFail (l : LinkId) (s : State) : State :=
  if !(s.link l).eei.partialFr then s
  else
    let s := (s.inc (EEI_WAKE_LATE l.n)).raise 0x2050 1 [l.n, failingMask s l, subPair l]
    beginRetrain l (s.link l).own 7 false (endDepth l s)

end Sys2Proof.Machine
end

