-- ==== Sys2Proof/Machine/NvOps.lean ====
section
/-! DEFINITION. The MRAM as shared operations: partitions, banks, headers, what load takes, how a bank is written; the REPAIR
list (R501 to R509, R440, R534). -/
namespace Sys2Proof.Machine

/-! ### The array (R501, R502) -/

/-- First address of bank `b` (0 A, 1 B) of a partition: 0 FIRMWARE, 1 CONFIG, 2 CALIB, 3 REPAIR. -/
def bankBase (part b : Nat) : Nat :=
  match part with
  | 0 => 0x200000 * b
  | 1 => 0x700000 + 0x40000 * b
  | 2 => 0x400000 + 0x100000 * b
  | _ => 0x780000 + 0x10000 * b

/-- Size of a bank. -/
def bankSize (part : Nat) : Nat :=
  match part with
  | 0 => 0x200000
  | 1 => 0x40000
  | 2 => 0x100000
  | _ => 0x10000

/-- Most bytes a body holds. -/
def bodyMax (part : Nat) : Nat := bankSize part - 32

/-- `count` bytes of the array from an address. -/
def nvBytes (s : State) (a count : Nat) : List Nat := (List.range count).map (fun i => s.nvByte (a + i))

/-- A word of the array. -/
def nvWord (s : State) (a : Nat) : Nat := ofBytesLsb (nvBytes s a 4)

/-- Put bytes at rising addresses. -/
def putBytes (a : Nat) : List Nat → State → State
  | [], s => s
  | b :: bs, s => putBytes (a + 1) bs (s.setNvByte a b)

/-- Write bytes; every word touched is programmed and counted (R502). -/
def nvPut (a : Nat) (bs : List Nat) (s : State) : State :=
  if bs.isEmpty then s else (putBytes a bs s).add64 NV_WORDS_WRITTEN ((a + bs.length + 3) / 4 - a / 4)

/-- The SYSTEM area stores the Guestbook generation; while REFCLK is not qualified the write waits (R348, R516). -/
def storeGen (s : State) : State :=
  let gen := s.fld GB_STATUS.GEN
  if !s.flag CLK_STATUS.REF_QUAL || s.nvByte 0x7A0008 == gen then s else nvPut 0x7A0008 [gen] s

/-- A word fails its read-back after three programs (R502): it is left as it stands, the failure is flagged, counted and
recorded as event 0x6003. What the word then holds is open: a free value. -/
def nvFault (part bank a : Nat) (s : State) : State :=
  let (v, s) := s.draw
  let s := (putBytes a (bytesLsb 4 v) s).add64 NV_WORDS_WRITTEN 2
  ((s.setFld NV_STATUS.WRITE_FAULT 1).inc NV_WRITE_FAULTS).raise 0x6003 1 [part, bank, a]

/-- The words among `fails` that lie in a range just written fail their read-back (R502). -/
def nvFails (part bank lo hi : Nat) (fails : List Nat) (s : State) : State :=
  (fails.filter (fun a => a % 4 == 0 && decide (lo ≤ a ∧ a < hi))).foldl (fun s a => nvFault part bank a s) s

/-! ### Banks (R503 to R507) -/

/-- A field of a bank's header, by its first byte. -/
def header (s : State) (part b off : Nat) : Nat := nvWord s (bankBase part b + off)

/-- The body of a bank. -/
def bankBody (s : State) (part b : Nat) : List Nat := nvBytes s (bankBase part b + 32) (header s part b 8)

/-- The state of a bank: 0 VALID, 1 EMPTY, 2 CORRUPT, 3 FORMAT (R504, R508). -/
def nvBankState (s : State) (part b : Nat) : Nat :=
  let magic := header s part b 0
  let len := header s part b 8
  if magic = 0 ∨ magic = 0xFFFFFFFF then 1
  else if magic ≠ 0x5120A500 + part ∨ header s part b 28 ≠ crc32c (nvBytes s (bankBase part b) 28) ∨
      header s part b 4 = 0 ∨ bodyMax part < len then 2
  else if header s part b 12 ≠ crc32c (bankBody s part b) then 2
  else if part = 1 ∧ len % 8 ≠ 0 then 2
  else if part ≠ 0 ∧ header s part b 16 ≠ 1 then 3
  else 0

/-- The bank load takes (R506). -/
def loadBank (s : State) (part : Nat) : Option Nat :=
  match nvBankState s part 0 == 0, nvBankState s part 1 == 0 with
  | true, true => if later (header s part 1 4) (header s part 0 4) then some 1 else some 0
  | true, false => some 0
  | false, true => some 1
  | false, false => none

/-- The bank a write opens: the one load does not take (R505). -/
def writeBank (s : State) (part : Nat) : Nat :=
  match loadBank s part with
  | some 0 => 1
  | _ => 0

/-- Invalidate a bank: its MAGIC becomes 0 (R505). -/
def invalidate (part b : Nat) (s : State) : State := nvPut (bankBase part b) [0, 0, 0, 0] s

/-- The SEQUENCE a commit writes (R505). -/
def nextSequence (s : State) (part b : Nat) : Nat :=
  if nvBankState s part (1 - b) = 0 then
    let q := (header s part (1 - b) 4 + 1) % 2 ^ 32
    if q = 0 then 1 else q
  else 1

/-- The 32 bytes of a header. -/
def headerBytes (part seq len crc fmt : Nat) : List Nat :=
  let h := bytesLsb 4 (0x5120A500 + part) ++ bytesLsb 4 seq ++ bytesLsb 4 len ++ bytesLsb 4 crc ++ bytesLsb 4 fmt ++
    List.replicate 8 0
  h ++ bytesLsb 4 (crc32c h)

/-- Write the header of a bank whose body stands (R505): counted, event 0x6004. Answers the SEQUENCE. -/
def commitBank (part b len crc fmt : Nat) (s : State) : Nat × State :=
  let seq := nextSequence s part b
  let s := nvPut (bankBase part b) (headerBytes part seq len crc fmt) s
  (seq, (s.inc NV_COMMITS).raise 0x6004 0 [part, b, seq, len])

/-- The device's own write of a partition: invalidate, body, header (R505). -/
def writePartition (part : Nat) (body : List Nat) (s : State) : Nat × State :=
  let b := writeBank s part
  let s := nvPut (bankBase part b + 32) body (invalidate part b s)
  commitBank part b body.length (crc32c body) 1 s

/-! ### The REPAIR list (R509, R534, R535) -/

/-- The 8 bytes of an entry, and an entry from its bytes. -/
def repairBytes (r : Repair) : List Nat := [r.ty % 256, 0] ++ bytesLsb 2 r.unit ++ bytesLsb 2 r.elem ++ bytesLsb 2 r.spare
def repairOf (bs : List Nat) : Repair :=
  ⟨bs.getD 0 0, ofBytesLsb ((bs.drop 2).take 2), ofBytesLsb ((bs.drop 4).take 2), ofBytesLsb ((bs.drop 6).take 2)⟩

/-- A body as 8-byte pieces. -/
def pieces8 : Nat → List Nat → List (List Nat)
  | 0, _ => []
  | k + 1, bs => if bs.length < 8 then [] else bs.take 8 :: pieces8 k (bs.drop 8)

/-- An entry names things that exist (R509). -/
def repairValid (r : Repair) : Bool :=
  match r.ty with
  | 1 => decide (r.unit < 66 ∧ (r.spare < 16 ∨ r.spare = 0xFFFF))
  | 2 => decide (r.unit < 8 ∧ r.elem < 68)
  | 3 => decide (r.unit < 136)
  | 4 => decide (r.unit < 8)
  | 5 => decide (r.unit < 512 ∧ r.elem < 64)
  | 6 => decide (r.unit < 8 ∧ r.elem / 256 < 68 ∧ r.elem % 256 < 16 ∧ r.spare < 4)
  | _ => false

/-- The entries stored: those of the bank load takes, none where it takes none. -/
def repairStored (s : State) : List Repair :=
  match loadBank s 3 with
  | none => []
  | some b => (pieces8 8192 (bankBody s 3 b)).map repairOf

/-- The entries that apply. -/
def repairs (s : State) : List Repair := (repairStored s).filter repairValid

/-- Rewrite REPAIR with entries removed and added (R534, R535). Where there is no room for an entry, event 0x7030. -/
def rewriteRepair (add remove : List Repair) (s : State) : State :=
  let old := (repairStored s).filter (fun r => !remove.contains r)
  let new := add.filter (fun r => !old.contains r)
  let room := bodyMax 3 / 8 - old.length
  let s := forEach (new.drop room) (fun r s => s.raise 0x7030 1 [r.ty, r.unit]) s
  (writePartition 3 ((old ++ new.take room).flatMap repairBytes) s).2

end Sys2Proof.Machine
end

