-- ==== Sys2Proof/Machine/LaneOps.lean ====
section
/-! DEFINITION. Host lanes as shared operations: what a lane and its group's spare do when a lane is enabled, fails, is
replaced or reverts; eye scans and PRBS (R264 to R289). -/
namespace Sys2Proof.Machine

/-! ### Names -/

/-- The octet of a lane (R24), the group it belongs to, the spare lane of a group. -/
def octetOf (h : Nat) : Nat := h / 8
def groupOf (h : Nat) : Nat := if h < 128 then h / 16 else h - 128
def spareLane (g : Nat) : Nat := 128 + g

/-- A port by number. -/
def toPort (n : Nat) : Port := ⟨n % 128, by omega⟩

/-- The state of a lane: 0 DISABLED, 1 ACQUIRE, 2 IN_SERVICE, 3 FAILED, 4 REPLACED, 5 STANDBY; of a group's spare: 0 OFF,
1 STANDBY, 2 WAITING, 3 SUBSTITUTED, 4 REVERTING, 5 FAILED (R288, R289). -/
def laneState (s : State) (h : Nat) : Nat := s.fld (HL_STATUS.STATE h)
def spareState (s : State) (g : Nat) : Nat := s.fld (HL_SPARE_STATUS.STATE (spareLane g))

/-- The interrupt bit of a lane (R475). -/
def laneInt (h : Nat) (s : State) : State := s.setFld ⟨HUB_INT_LANE (h / 32), h % 32, h % 32⟩ 1

/-- Set the state of a lane. -/
def setLaneState (h st : Nat) (s : State) : State :=
  if laneState s h = st then s else laneInt h (s.setFld (HL_STATUS.STATE h) st)

/-- The port a lane carries, 0x7F for none. -/
def lanePort (s : State) (h : Nat) : Nat := s.fld (HL_STATUS.PORT h)
def setLanePort (h p : Nat) (s : State) : State := s.setFld (HL_STATUS.PORT h) p

/-- MODE of a group: WARM or not (R276). -/
def isWarm (s : State) (g : Nat) : Bool := s.fld (HL_SPARE_CFG.MODE (spareLane g)) == 1

/-- The lane within its group that the spare stands for. -/
def spareFor (s : State) (g : Nat) : Nat := 16 * g + s.fld (HL_SPARE_STATUS.LANE (spareLane g))

/-- The spare's switch waits for HOST_DONE: WAITING, or REVERTING with the lane acquired (R278, R279, R281). -/
def spareWaits (s : State) (g : Nat) : Bool :=
  spareState s g == 2 || (spareState s g == 4 && !(s.lane (spareFor s g)).revert)

/-- A spare is in state WAITING: the level bit SPARE_WAIT (R473). -/
def spareWaiting (s : State) : Bool := (List.range 8).any (fun g => spareState s g == 2)

/-- SPARE_WAIT is notified anew when it comes back (R459, R473). -/
def settleSpares (s : State) : State :=
  if spareWaiting s then s else s.modHub (fun h => { h with notified := setBit h.notified 4 false })

/-- Set the state of a spare. -/
def setSpareState (g st : Nat) (s : State) : State :=
  if spareState s g = st then s
  else settleSpares (laneInt (spareLane g) (s.setFld (HL_SPARE_STATUS.STATE (spareLane g)) st))

/-- A claim of a kind is held on a lane (R284, R286). -/
def laneClaim (s : State) (kind h : Nat) : Bool := s.claims.any (fun c => c.kind == kind && c.res % 256 == h)

/-! ### What passes between a lane and its port (R266, R271, R278, R286) -/

/-- The port's ingress receives what its lane receives. -/
def ingressOn (s : State) (n : Port) : Bool :=
  let h := s.portLane n
  laneState s h == 2 && !s.flag (HL_PRBS_CTRL.RX_EN h) && s.flag (CLK_HPLL_STATUS.LOCKED (octetOf h)) &&
    s.hub.boardTest.isNone

/-- The egress lane of a port is down, in electrical idle, or sends a pattern; a lane that acquires sends (R271, R286). -/
def egressDown (s : State) (n : Port) : Bool :=
  let h := s.portLane n
  (laneState s h != 1 && laneState s h != 2) || s.flag (HL_PRBS_CTRL.TX_EN h) || !s.flag (CLK_HPLL_STATUS.LOCKED (octetOf h)) ||
    s.hub.boardTest.isSome

/-- The egress is held in a substitution or a revert, and after it to the next codeword boundary (R278, R279, R281). -/
def egressHeld (s : State) (n : Port) : Bool :=
  (spareWaits s (groupOf n) && spareFor s (groupOf n) == n.val) || (s.host n).resume

/-- A lane's transmitter stands at a codeword boundary. -/
def atBoundary (s : State) (h : Nat) : Bool := (s.lane h).txBlocks.isEmpty && (s.lane h).txBits.isEmpty

/-! ### Eye scans and PRBS (R283 to R287) -/

/-- DWELL as it acts. -/
def eyeDwell (s : State) (h : Nat) : Nat := max 10 (min 40 (s.fld (HL_EYE_CTRL.DWELL h)))

/-- A running eye scan ends ABORTED (R284), and the job it belongs to with the points completed (R435). -/
def abortEye (h : Nat) (s : State) : State :=
  if !s.flag (HL_EYE_STATUS.BUSY h) then s
  else
    let s := ((s.setFld (HL_EYE_STATUS.BUSY h) 0).setFld (HL_EYE_STATUS.ABORTED h) 1).setFld (HL_EYE_STATUS.DONE h) 0
    let num := (s.lane h).eyeJob
    let s := s.modLane h (fun k => { k with eyeJob := 0 })
    match s.jobs.find? (fun j => num != 0 && j.num == num) with
    | none => s
    | some j =>
      let s := { s with eyes := ((j.num, j.grid.length, j.errs) :: s.eyes).take 4 }
      finishJob num 0x0B j.errs.length 8 h s

/-- Start a scan with the settings of HL_EYE_CTRL. -/
def startEye (h : Nat) (s : State) : State :=
  let s := (s.setFld (HL_EYE_STATUS.BUSY h) 1).setFld (HL_EYE_STATUS.DONE h) 0
  s.setFld (HL_EYE_STATUS.ABORTED h) 0

/-- Point the sampler at a point of a grid: PHASE and VOFF. -/
def aimEye (h : Nat) (x : Int × Int) (s : State) : State :=
  (s.setFld (HL_EYE_CTRL.PHASE h) (unsigned 6 x.1)).setFld (HL_EYE_CTRL.VOFF h) (unsigned 7 x.2)

/-- The checker loses lock (R287). -/
def prbsUnlock (h : Nat) (s : State) : State :=
  if s.flag (HL_PRBS_STATUS.LOCKED h) then
    let s := s.modLane h (fun k => { k with checkRun := 0, checkMiss := [] })
    (s.setFld (HL_PRBS_STATUS.LOCKED h) 0).setFld (HL_PRBS_STATUS.LOCK_LOSS h) (s.fld (HL_PRBS_STATUS.LOCK_LOSS h) + 1)
  else s

/-- Set the generator and the checker; with both off the claim that HL_PRBS took is released (R431). -/
def setPrbs (h tx rx : Nat) (s : State) : State :=
  let was := s.flag (HL_PRBS_CTRL.TX_EN h) || s.flag (HL_PRBS_CTRL.RX_EN h)
  let s := if rx = 0 then s.setFld (HL_PRBS_STATUS.LOCKED h) 0 else s
  let s := (s.setFld (HL_PRBS_CTRL.TX_EN h) tx).setFld (HL_PRBS_CTRL.RX_EN h) rx
  let s := if tx = 0 then s.modLane h (fun k => { k with inject := 0, patternTx := [], patternAt := 0 }) else s
  let s := if rx = 0 then s.modLane h (fun k => { k with checkBits := [], checkRun := 0, checkMiss := [] }) else s
  if was ∧ tx = 0 ∧ rx = 0 then
    forEach (s.claims.filter (fun c => c.kind == 6 && c.res % 256 == h && !c.byClaim)) (fun c s => releaseClaim c.handle s) s
  else s

/-- An injection: so many bits are inverted after those of an injection still running (R287). -/
def injectBits (h k : Nat) (s : State) : State :=
  if s.flag (HL_PRBS_CTRL.TX_EN h) then s.modLane h (fun x => { x with inject := x.inject + k }) else s

/-! ### Enabling and disabling -/

/-- The locks a receiver shows. -/
def setLocks (h v : Nat) (s : State) : State :=
  ((s.setFld (HL_STATUS.SIGNAL h) v).setFld (HL_STATUS.CDR_LOCK h) v).setFld (HL_STATUS.AM_LOCK h) v

/-- The CTLE code of a receiver that adapts: a free value, held by FREEZE, replaced by CTLE_MANUAL (R272). -/
def adaptCtle (h : Nat) (s : State) : State :=
  if s.flag (HL_RX_CFG.FREEZE h) || s.flag (HL_RX_CFG.CTLE_MANUAL h) then s
  else
    let (c, s) := s.draw
    s.setFld (HL_STATUS.CTLE h) (c % 21)

/-- The rate of a port's host lane has changed: a port in showtime whose HALF_RATE differs asks for a full start-up, HOST_FULL
(R265). -/
def rateTaken (n : Port) (s : State) : State :=
  forEach (activeLinks s n) (fun l s =>
    if inShow s l && (s.link l).sentHalf != laneHalf s n then showLink l (requestRetrain l 0xD s) else s) s

/-- The stream of a lane's transmitter begins at a codeword boundary (R268, R271). -/
def freshTx (k : LaneSt) : LaneSt := { k with txBlocks := [], txScrambler := [], txBits := [], txPairs := 0, txLast := 0 }

/-- A lane's receiver has no alignment; blocks recovered before stay with their port (R275). -/
def freshRx (k : LaneSt) : LaneSt := { k with rxBits := [], rxCols := [], rxSyms := [], rxPair := [], rxPairs := 0, rxSkip := false }

/-- A lane starts to acquire, with the settings of its block in force and its stream at a codeword boundary (R265, R268, R269, R271,
R272); it waits where its octet's HPLL
is not locked (R349). -/
def acquire (h : Nat) (half : Bool) (s : State) : State :=
  let s := s.modLane h (fun k => { freshRx (freshTx k) with
    half := half, preTx := s.flag (HL_CFG.PRECODE_TX h), preRx := s.flag (HL_CFG.PRECODE_RX h),
    invTx := s.flag (HL_CFG.TX_INV h), invRx := s.flag (HL_CFG.RX_INV h), hpllDown := false,
    rxLast := 0, rxScrambler := [], rxBlocks := [], rxUncorr := [] })
  let s := (setLocks h 0 s).setFld (HL_STATUS.RATE_PENDING h) 0
  if s.flag (CLK_HPLL_STATUS.LOCKED (octetOf h)) then setLaneState h 1 s
  else s.modLane h (fun k => { k with hpllDown := true })

/-- An octet's domain is powered (R366). -/
def octetOn (o : Nat) (s : State) : State :=
  if (s.dom (0x040 + o)).state = 0 then s.modDom (0x040 + o) (fun d => { d with state := 3 }) else s

/-- Every lane of an octet is disabled; octet 16 also needs every group OFF (R366). -/
def octetIdle (s : State) (o : Nat) : Bool :=
  if o < 16 then (List.range 8).all (fun i => !s.flag (HL_CFG.ENABLE (8 * o + i)))
  else (List.range 8).all (fun g => !isWarm s g)

/-- Status registers and counters of a lane read their reset values after OFF; configuration registers are kept (R366). -/
def clearLaneStatus (h : Nat) (s : State) : State :=
  let base := laneBase h
  let gone (a : Nat) : Bool := decide (base ≤ a ∧ a < base + 0x1000) &&
    !([0x0, 0x4, 0xC, 0x10, 0x200].contains (a - base))
  { s with regs := s.regs.filter (fun x => !gone x.1) }

/-- A lane that a REPAIR entry keeps FAILED shows it through an OFF of its octet (R280). -/
def keepFailed (h : Nat) (s : State) : State :=
  if (s.lane h).barred then
    (let s := s.setFld (HL_STATUS.STATE h) 3
     if h < 128 then s else s.setFld (HL_SPARE_STATUS.STATE h) 5)
  else s

/-- Power an octet off: its HPLL stops, its status is lost. -/
def octetOff (o : Nat) (s : State) : State :=
  let s := s.modDom (0x040 + o) (fun d => { d with state := 0, awake := false })
  let s := s.setFld (CLK_HPLL_STATUS.LOCKED o) 0
  forEach ((List.range 8).map (fun i => 8 * o + i)) (fun h s =>
    let p := lanePort s h
    let c := s.fld (HL_STATUS.FFE_CLAMPED h)
    keepFailed h ((setLanePort h p (clearLaneStatus h s)).setFld (HL_STATUS.FFE_CLAMPED h) c)) s

/-- Power an octet off when OCTET_AUTO_OFF is 1 and its condition holds. -/
def octetJudge (o : Nat) (s : State) : State :=
  if s.flag PWR_DOMAIN_CFG.OCTET_AUTO_OFF && octetIdle s o && (s.dom (0x040 + o)).state == 3 then octetOff o s else s

/-- ENABLE of a lane 0 to 127 becomes 1 (R272, R280, R281): ACQUIRE, unless it is REPLACED or a REPAIR entry bars it. -/
def enableLane (h : Nat) (s : State) : State :=
  if s.flag (HL_CFG.ENABLE h) then s
  else
    let s := octetOn (octetOf h) (s.setFld (HL_CFG.ENABLE h) 1)
    if (s.lane h).barred ∨ laneState s h ≠ 0 then s
    else
      let s := acquire h (s.flag (HL_CFG.RATE h)) s
      if s.portLane h = h then rateTaken (toPort h) s else s

/-- ENABLE of a lane 0 to 127 becomes 0 (R266, R280, R284): DISABLED, unless it is REPLACED or a REPAIR entry bars it. -/
def disableLane (h : Nat) (s : State) : State :=
  let s := abortEye h (s.setFld (HL_CFG.ENABLE h) 0)
  let s := s.modLane h (fun k => { k with hpllDown := false })
  let s := if (s.lane h).barred ∨ (laneState s h = 4) then s
    else
      let s := if (s.lane h).revert then setSpareState (groupOf h) 3 (s.modLane h (fun k => { k with revert := false })) else s
      let s := if s.portLane h = h then s else setLanePort h 0x7F s
      setLaneState h (if s.portLane h = h then 0 else 4) (setLocks h 0 (prbsUnlock h s))
  octetJudge (octetOf h) s

/-! ### Faults, substitution, revert (R277 to R282) -/

/-- The fault is recorded (R277): its bit, LAST_CAUSE, HL_FAULTS, event 0x3001 with the port and whether a spare took over. -/
def recordFault (h cause : Nat) (took : Bool) (s : State) : State :=
  let s := s.setFld ⟨HL_FAULT_STATUS h, cause - 1, cause - 1⟩ 1
  let s := (s.setFld (HL_FAULT_STATUS.LAST_CAUSE h) cause).inc (HL_FAULTS h)
  s.raise 0x3001 2 [h, cause, lanePort s h, took.toNat]

/-- The time in ns of the hub's microsecond count, for what a switch of lanes does to an open frame. -/
def nowNs (s : State) : Rat := ((s.now * 1000 : Nat) : Rat)

/-- A frame open at the ingress whose rest is lost: under TIMETABLE it is refused, else closed with an error control block (R278). R242
names no reason for it: it counts as one without a route (DESIGN CHOICE, log entry 47). -/
def loseFrame (n : Port) (s : State) : State :=
  let h := s.host n
  let s := if !h.isOpen then s
    else if openUnder n s then
      (if h.opened then refuseFrame (ingressLink s n) (nowNs s) (TT_REFUSED_ROUTE n) s else s.inc (TT_REFUSED_ROUTE n))
    else closeWithError n (nowNs s) s
  s.modHost n (fun h => { h with isOpen := false, opened := false, dropping := false, group := [] })

/-- The port's ingress moves to another lane (R275, R278, R281): an open frame, or a partial pair of codewords, ends; blocks come from
the first whole codewords of the lane's own alignment after the move. -/
def moveIngress (p h : Nat) (s : State) : State :=
  let s := loseFrame (toPort p) s
  (s.modLane h (fun k => { k with rxBlocks := [], rxSkip := !k.rxPair.isEmpty })).setPortLane p h

/-- Protection holds for a lane of a group (R276, R280): WARM, the spare in STANDBY with alignment, at the lane's rate, serving no other
lane. -/
def isProtected (s : State) (g h : Nat) : Bool :=
  let sp := spareLane g
  isWarm s g && spareState s g == 1 && lanePort s sp == 0x7F && s.flag (HL_STATUS.AM_LOCK sp) && (s.lane sp).half == (s.lane h).half

/-- Substitution of lane h by its group's spare (R278), event 0x3002. -/
def substitute (h cause : Nat) (slow : Bool) (s : State) : State :=
  let g := groupOf h
  let sp := spareLane g
  let p := h
  let s := setLanePort sp p (moveIngress p sp s)
  let s := setLanePort h 0x7F (setLaneState h 4 s)
  let s := setLaneState sp (if slow then 1 else 2) s
  let s := (s.setFld (HL_SPARE_STATUS.LANE sp) (h % 16)).setFld (HL_SPARE_STATUS.HOST_DONE sp) 0
  let s := s.setFld (HL_SPARE_STATUS.SLOW sp) slow.toNat
  (setSpareState g 2 s).raise 0x3002 1 [h, sp, cause, p]

/-- A spare lane fails (R280, R354): the port it serves has no lane. -/
def failSpare (sp cause : Nat) (s : State) : State :=
  setSpareState (sp - 128) 5 (setLaneState sp 3 (recordFault sp cause false s))

/-- A lane becomes FAILED, or REPLACED where its group is protected, or where SUBSTITUTE moves it to a spare set to its rate that has
still to acquire (R277, R278, R280, R281). -/
def failLane (h cause : Nat) (s : State) : State :=
  let g := groupOf h
  let sp := spareLane g
  let s := if (s.lane h).revert then setSpareState g 3 (s.modLane h (fun k => { k with revert := false })) else s
  let rate := (s.lane h).half
  let differs := (s.lane sp).half != rate
  let slow := cause == 7 && isWarm s g && spareState s g == 1 && lanePort s sp == 0x7F &&
    (if differs then s.flag (HL_SPARE_CFG.RATE sp) == rate else laneState s sp == 1)
  let own := s.portLane h == h
  if own && isProtected s g h then substitute h cause false (recordFault h cause true s)
  else if own && slow then
    let s := recordFault h cause true s
    substitute h cause true (if differs then acquire sp rate s else s)
  else setLaneState h 3 (recordFault h cause false s)

/-- What a receiver shows of a fault, and counts, in whatever state its lane is (R275, R277, R284). -/
def showFault (h cause : Nat) (s : State) : State :=
  let s := if cause = 1 then (s.inc (HL_LOS_EVENTS h)).setFld (HL_STATUS.SIGNAL h) 0
    else if cause = 2 then s.setFld (HL_STATUS.CDR_LOCK h) 0
    else if cause = 4 then (s.inc (HL_AM_LOSS h)).setFld (HL_STATUS.AM_LOCK h) 0
    else s
  let s := if cause = 1 ∨ cause = 2 ∨ cause = 4 then s.modLane h freshRx else s
  if cause = 1 ∨ cause = 2 then abortEye h s else s

/-- A fault of a lane with one of the causes of R277: what its receiver shows, and what follows for a lane that serves a port (R277, R280,
R282); a spare that serves none only shows it. A disabled lane is tested for the causes other than 0x02 to 0x04 (DEDUCED, log entry 47). Fault
detection is suspended in the board-test state (R550). -/
def laneFault (h cause : Nat) (s : State) : State :=
  let st := laneState s h
  let held := laneClaim s 6 h
  let pattern := held && s.flag (HL_PRBS_CTRL.RX_EN h)
  let transparent := decide (lanePort s h < 128) && inEffect s (toPort (lanePort s h)) mTRANSPARENT
  if (st = 0 ∧ (h ≥ 128 ∨ (2 ≤ cause ∧ cause ≤ 4))) ∨ (pattern ∧ (cause = 3 ∨ cause = 4)) ∨ (cause = 3 ∧ transparent) ∨ s.hub.boardTest.isSome then s
  else
    let s := showFault h cause s
    if held then recordFault h cause false s
    else if st = 3 ∨ st = 4 ∨ (h ≥ 128 ∧ lanePort s h = 0x7F ∧ cause ≠ 6) then s
    else if h < 128 then
      (if s.flag (HL_FAULT_CFG.AUTO h) then failLane h cause s else recordFault h cause false s)
    else failSpare h cause s

/-- The spare's switch is complete (R279, R281): the egress goes on from the next codeword boundary. -/
def completeSwitch (g : Nat) (s : State) : State :=
  let sp := spareLane g
  let h := spareFor s g
  let n := toPort h
  let s := if atBoundary s (s.portLane n) then s else s.modHost n (fun h => { h with resume := true })
  if spareState s g = 2 then (setSpareState g 3 s).inc (HL_SPARE_SUBS sp)
  else ((setSpareState g 1 s).inc (HL_SPARE_SUBS sp)).raise 0x3004 0 [sp, h, h]

/-- A request that R281 ignores. -/
def spareIgnored (g : Nat) (s : State) : State := s.setFld (HL_SPARE_STATUS.CMD_IGNORED (spareLane g)) 1

/-- HOST_DONE (R279, R281). -/
def hostDone (g : Nat) (s : State) : State :=
  if spareWaits s g then completeSwitch g (s.setFld (HL_SPARE_STATUS.HOST_DONE (spareLane g)) 1) else spareIgnored g s

/-- SUBSTITUTE of the lane with an index in the group: cause HOST; one that holds a PRBS grant does not fail (R277, R281, R282). -/
def askSubstitute (g i : Nat) (s : State) : State :=
  if spareState s g = 2 ∨ spareState s g = 4 then spareIgnored g s
  else
    let h := 16 * g + i % 16
    if laneState s h = 4 then s
    else if laneClaim s 6 h then recordFault h 7 false s
    else failLane h 7 s

/-- REVERT (R281): the lane is re-enabled and acquires; a FAILED lane cannot be reverted to. With no completed substitution in force the
request is ignored with CMD_IGNORED: DESIGN CHOICE, log entry 47. -/
def askRevert (g : Nat) (s : State) : State :=
  let h := spareFor s g
  if spareState s g ≠ 3 ∨ laneState s h = 3 then spareIgnored g s
  else
    let s := octetOn (octetOf h) (s.setFld (HL_CFG.ENABLE h) 1)
    let s := acquire h (s.flag (HL_CFG.RATE h)) s
    setSpareState g 4 ((s.setFld (HL_SPARE_STATUS.HOST_DONE (spareLane g)) 0).modLane h (fun k => { k with revert := true }))

/-- Write HL_SPARE_CFG of a group (R276, R280): the spare is enabled or disabled by MODE, unless a REPAIR entry bars it. One that was
serving a lane when it was set OFF serves it again (DESIGN CHOICE, log entry 47). -/
def writeSpareCfg (g v : Nat) (s : State) : State :=
  let sp := spareLane g
  let warm := isWarm s g
  let keep := (s.reg (HL_SPARE_CFG sp)).toNat
  let v := bits v 31 29 * 2 ^ 29 + bits keep 28 21 * 2 ^ 21 + bits v 20 16 * 2 ^ 16 + bits keep 15 10 * 2 ^ 10 + bits v 9 0
  let s := s.setReg (HL_SPARE_CFG sp) (word v)
  if (s.lane sp).barred then (if isWarm s g then octetOn 16 s else octetJudge 16 s)
  else if isWarm s g && !warm then
    let s := octetOn 16 s
    setSpareState g (if lanePort s sp = 0x7F then 1 else 3) (acquire sp (s.flag (HL_SPARE_CFG.RATE sp)) s)
  else if !isWarm s g && warm then
    let s := abortEye sp (s.modLane sp (fun k => { k with hpllDown := false }))
    let s := setSpareState g 0 (setLaneState sp 0 (setLocks sp 0 (prbsUnlock sp s)))
    octetJudge 16 s
  else s

/-- An HPLL has lost lock: its lanes fail or show it (R280, R354). The lane PREFER names is taken first where it is among them. -/
def octetFails (o : Nat) (s : State) : State :=
  let hs := (List.range 8).map (fun i => 8 * o + i)
  let s := forEach hs (fun h s => prbsUnlock h (abortEye h s)) s
  if o < 16 then
    let sp := spareLane (groupOf (8 * o))
    let pick := 16 * groupOf (8 * o) + s.fld (HL_SPARE_CFG.PREFER sp)
    let order := if s.flag (HL_SPARE_CFG.PREFER_EN sp) && hs.contains pick then pick :: hs.filter (· != pick) else hs
    forEach order (fun h s =>
      let on := laneState s h == 1 || laneState s h == 2
      let s := if on then laneFault h 6 s else s
      if on && laneState s h != 4 then s.modLane h (fun k => { k with hpllDown := true }) else s) s
  else
    forEach (List.range 8) (fun g s =>
      let sp := spareLane g
      let on := isWarm s g && (spareState s g == 1 || spareState s g == 2 || spareState s g == 3)
      let s := if on then failSpare sp 6 s else s
      if on then s.modLane sp (fun k => { k with hpllDown := true }) else s) s

/-- An HPLL has locked: the lanes that wait for it enter ACQUIRE (R349, R354). -/
def octetLocks (o : Nat) (s : State) : State :=
  let hs := ((List.range 8).map (fun i => 8 * o + i)).filter (fun h => (s.lane h).hpllDown)
  forEach hs (fun h s =>
    let s := setLaneState h 1 (setLocks h 0 (s.modLane h (fun k => { freshRx (freshTx k) with hpllDown := false })))
    if h < 128 then s else (if spareState s (h - 128) = 5 then setSpareState (h - 128) 1 s else s)) s

end Sys2Proof.Machine
end

