-- ==== Sys2Proof/Machine/HostLanes.lean ====
section
/-! DEFINITION. What the host lane commands do (R264 to R290). -/
namespace Sys2Proof.Machine

/-- LANE_FAULT: a fault of a lane is detected with a cause 0x01 to 0x05 of R277; HPLL and HOST have commands of their own. -/
def execLaneFault (h : Lane) (cause : Nat) (s : State) : Host.Outcome State Fault Refusal :=
  if cause < 1 ∨ 5 < cause then .next s else .next (laneFault h cause s)

/-- HOST_DONE: the host has moved its port (R279). -/
def execHostDone (g : Group) (s : State) : Host.Outcome State Fault Refusal := .next (hostDone g s)

/-- HOST_WAIT_EXPIRE: HOST_WAIT has passed without HOST_DONE: the switch completes, event 0x3003 (R279). -/
def execHostWaitExpire (g : Group) (s : State) : Host.Outcome State Fault Refusal :=
  if !spareWaits s g then .next s
  else
    let h := spareFor s g
    let s := (s.inc (HL_SPARE_HOST_LATE (spareLane g))).raise 0x3003 1 [spareLane g, h]
    .next (completeSwitch g s)

/-- SUBSTITUTE: host firmware asks for the substitution of a lane, cause HOST (R277). -/
def execSubstitute (g : Group) (i : Nat) (s : State) : Host.Outcome State Fault Refusal := .next (askSubstitute g i s)

/-- REVERT: host firmware asks that a port return to its own lane (R281). -/
def execRevert (g : Group) (s : State) : Host.Outcome State Fault Refusal := .next (askRevert g s)

/-- A write of HL_CFG.ENABLE (R265 to R272, R280, R366). Spare lanes ignore it (R276); in RECOVERY a write of 1 is ignored
(R383). -/
def writeLaneEnable (h : Nat) (on : Bool) (s : State) : State :=
  if h ≥ 128 then s
  else if on then (if s.fld PWR_PHASE.PHASE = 3 then s else enableLane h s)
  else disableLane h s

/-- A write of HL_CFG.RATE acts when the lane is next enabled (R265). Spare lanes ignore it (R276). -/
def writeLaneRate (h rate : Nat) (s : State) : State :=
  if h ≥ 128 then s
  else
    let s := s.setFld (HL_CFG.RATE h) rate
    if s.flag (HL_CFG.ENABLE h) then s.setFld (HL_STATUS.RATE_PENDING h) 1 else s

/-- LANE_ENABLE_WRITE: HL_CFG.ENABLE of a lane is written. -/
def execLaneEnableWrite (h : Lane) (enable : Bool) (s : State) : Host.Outcome State Fault Refusal :=
  .next (writeLaneEnable h enable s)

/-- LANE_RATE_WRITE: HL_CFG.RATE is written. -/
def execLaneRateWrite (h : Lane) (half : Bool) (s : State) : Host.Outcome State Fault Refusal :=
  .next (writeLaneRate h half.toNat s)

/-- LANE_ACQUIRED: the receiver of a lane has adapted and holds alignment (R272, R275): in service, or for a spare STANDBY; a lane that had kept its state
without lock (R282) only shows it; a lane that a revert re-enabled takes its port back, held until HOST_DONE (R281). -/
def execLaneAcquired (h : Lane) (s : State) : Host.Outcome State Fault Refusal :=
  let st := laneState s h
  if (st ≠ 1 ∧ st ≠ 2 ∧ st ≠ 5) ∨ s.hub.boardTest.isSome then .next s
  else
    let s := adaptCtle h (setLocks h 1 s)
    if st ≠ 1 then .next s
    else if h.val ≥ 128 then
      let g := h.val - 128
      .next (setLaneState h (if spareState s g = 2 ∨ spareState s g = 3 then 2 else 5) s)
    else if (s.lane h).revert then
      let g := groupOf h
      let s := setLanePort h h (moveIngress h h (s.modLane h (fun k => { k with revert := false })))
      let s := setLaneState (spareLane g) 5 (setLanePort (spareLane g) 0x7F s)
      .next (rateTaken (toPort h) (setLaneState h 2 s))
    else .next (setLaneState h 2 s)

/-- The coefficients c(-1), c(0), c(1) of a transmitter in 1/128, POST clamped (R270). -/
def ffeTaps (pre post : Nat) : List Int :=
  let pre := min pre 31
  let post := min post (64 - pre)
  [-(pre : Int), 128 - (pre : Int) - (post : Int), -(post : Int)]

/-- The peak differential output in mVppd (R270). -/
def ffePeak (amp : Nat) : Nat := 600 + 20 * amp

/-- A write of HL_TX_FFE: coefficients and amplitude of a transmitter together, POST clamped (R270). -/
def writeFfe (h w : Nat) (s : State) : State :=
  let amp := bits w 19 16
  let pre := bits w 12 8
  let post := bits w 5 0
  let s := ((s.setFld (HL_TX_FFE.AMP h) amp).setFld (HL_TX_FFE.PRE h) pre).setFld (HL_TX_FFE.POST h) post
  (s.setFld (HL_STATUS.FFE_CLAMPED h) (decide (64 < pre + post)).toNat).emit (.ffe h (ffeTaps pre post) (ffePeak amp))

/-- HL_TX_FFE_WRITE (R270). -/
def execHlTxFfeWrite (h : Lane) (v : Word) (s : State) : Host.Outcome State Fault Refusal := .next (writeFfe h v.toNat s)

/-- SPARE_MODE_WRITE: HL_SPARE_CFG of a group is written (R276, R280). -/
def execSpareModeWrite (g : Group) (v : Word) (s : State) : Host.Outcome State Fault Refusal :=
  .next (writeSpareCfg g v.toNat s)

/-- A write of HL_EYE_CTRL (R284): a scan that runs ends ABORTED; START needs the eye-scan grant. -/
def writeEyeCtrl (h w : Nat) (s : State) : State :=
  let s := abortEye h s
  let s := ((s.setFld (HL_EYE_CTRL.EYE h) (bits w 25 24)).setFld (HL_EYE_CTRL.PHASE h) (bits w 21 16)).setFld
    (HL_EYE_CTRL.VOFF h) (bits w 14 8)
  let s := s.setFld (HL_EYE_CTRL.DWELL h) (bits w 5 0)
  if !bit w 31 then s
  else if !laneClaim s 4 h then s.setFld (HL_EYE_STATUS.NO_CLAIM h) 1
  else if laneState s h = 0 then s.setFld (HL_EYE_STATUS.ABORTED h) 1
  else startEye h s

/-- EYE_SCAN_START: HL_EYE_CTRL is written (R284). -/
def execEyeScanStart (h : Lane) (v : Word) (s : State) : Host.Outcome State Fault Refusal := .next (writeEyeCtrl h v.toNat s)

/-- EYE_SCAN_DONE: 2^DWELL UIs have been compared, with so many errors (R283). A scan of a job goes on to its next point, or
ends the job with the points completed (R435). -/
def execEyeScanDone (h : Lane) (errors : Nat) (s : State) : Host.Outcome State Fault Refusal :=
  if !s.flag (HL_EYE_STATUS.BUSY h) then .next s
  else
    let uis := 2 ^ eyeDwell s h
    let e := min errors uis
    let s := (s.set64 (HL_EYE_UI h) uis).set64 (HL_EYE_ERR h) e
    let num := (s.lane h).eyeJob
    match s.jobs.find? (fun j => num != 0 && j.num == num) with
    | none => .next ((s.setFld (HL_EYE_STATUS.BUSY h) 0).setFld (HL_EYE_STATUS.DONE h) 1)
    | some j =>
      let errs := j.errs ++ [min e 0xFFFFFFFF]
      let s := { s with jobs := s.jobs.map (fun x => if x.num == num then { x with errs := errs } else x) }
      match j.grid[errs.length]? with
      | some x => .next (startEye h (aimEye h x s))
      | none =>
        let s := (s.setFld (HL_EYE_STATUS.BUSY h) 0).setFld (HL_EYE_STATUS.DONE h) 1
        let s := { s with eyes := ((j.num, j.grid.length, errs) :: s.eyes).take 4 }
        .next (finishJob num 0 errs.length 8 h (s.modLane h (fun k => { k with eyeJob := 0 })))

/-- A write of HL_PRBS_CTRL (R285 to R287). One that sets TX_EN or RX_EN without the grant is ignored. -/
def writePrbsCtrl (h w : Nat) (s : State) : State :=
  if (bit w 31 || bit w 30) && !laneClaim s 6 h then s.setFld (HL_PRBS_STATUS.NO_CLAIM h) 1
  else
    let s := setPrbs h (bits w 31 31) (bits w 30 30) s
    let s := (s.setFld (HL_PRBS_CTRL.TX_PAT h) (bits w 27 26)).setFld (HL_PRBS_CTRL.RX_PAT h) (bits w 25 24)
    let s := (s.setFld (HL_PRBS_CTRL.BURST_LEN h) (bits w 15 8)).setFld (HL_PRBS_CTRL.USER_LEN h) (bits w 7 0)
    let s := if bit w 17 then injectBits h 1 s else s
    if bit w 16 then injectBits h (max 1 (bits w 15 8)) s else s

/-- PRBS_ENABLE_WRITE: HL_PRBS_CTRL is written (R286). -/
def execPrbsEnableWrite (h : Lane) (v : Word) (s : State) : Host.Outcome State Fault Refusal := .next (writePrbsCtrl h v.toNat s)

/-- PRBS_INJ_SINGLE: one transmitted bit is inverted (R287). -/
def execPrbsInjSingle (h : Lane) (s : State) : Host.Outcome State Fault Refusal := .next (injectBits h 1 s)

/-- PRBS_INJ_BURST: BURST_LEN consecutive bits are inverted, 0 acting as 1 (R287). -/
def execPrbsInjBurst (h : Lane) (s : State) : Host.Outcome State Fault Refusal :=
  .next (injectBits h (max 1 (s.fld (HL_PRBS_CTRL.BURST_LEN h))) s)

/-- PRBS_CHECKER_LOCK: 64 consecutive symbols matched (R287); for an input whose levels the model is not given. -/
def execPrbsCheckerLock (h : Lane) (s : State) : Host.Outcome State Fault Refusal :=
  if s.flag (HL_PRBS_CTRL.RX_EN h) then .next (s.setFld (HL_PRBS_STATUS.LOCKED h) 1) else .next s

/-- PRBS_LOCK_LOSS: 32 or more of 256 symbols mismatched: the checker loses lock; the bits compared and wrong while it was locked
are counted (R287); for an input whose levels the model is not given. -/
def execPrbsLockLoss (h : Lane) (compared wrong : Nat) (s : State) : Host.Outcome State Fault Refusal :=
  if !s.flag (HL_PRBS_STATUS.LOCKED h) then .next s
  else .next ((prbsUnlock h s).add64 (HL_PRBS_BITS h) compared |>.add64 (HL_PRBS_ERR h) wrong)

end Sys2Proof.Machine
end

