-- ==== Sys2Proof/Machine/SliceOps.lean ====
section
/-! DEFINITION. Slices, spares and unit tests as shared operations: rebuilding from REPAIR, faults, maintenance swaps, tests
and the periodic sweep (R18 to R23, R27, R236, R524 to R543). -/
namespace Sys2Proof.Machine

/-! ### Spare rows (R534, R546) -/

/-- The rows of a slice instance, of a bank. -/
def sliceRows (t i inst : Nat) : Nat := (t * 68 + i) * 16 + inst % 16
def bankRows (b : Nat) : Nat := 2 ^ 20 + b

/-- The spare rows in use, as a mask; put one in use. -/
def rowsUsed (s : State) (k : Nat) : Nat := SMap.get (fun _ => 0) s.rows k
def useRow (k r : Nat) (s : State) : State :=
  { s with rows := SMap.put (fun _ => 0) s.rows k (setBit (rowsUsed s k) r true) }

/-- Number of rows in use. -/
def rowCount (m : Nat) : Nat := ((List.range 16).filter (bit m)).length

/-- Show SLICE_SPARE_ROWS of a slice: four spare rows in each of 16 instances. -/
def showRows (t i : Nat) (s : State) : State :=
  let used := ((List.range 16).map (fun x => rowCount (rowsUsed s (sliceRows t i x)))).sum
  (s.setFld (SLICE_SPARE_ROWS.USED t i) used).setFld (SLICE_SPARE_ROWS.LEFT t i) (64 - used)

/-! ### Slices and banks from REPAIR (R509, R536) -/

/-- One REPAIR entry of a tile: a committed sub-ADC, a spare row (R120, R536). -/
def applyTileRepair (t : Nat) (r : Repair) (s : State) : State :=
  if r.ty = 5 ∧ pairTile r.unit = t then
    let n := r.unit / 4
    let p := r.unit % 4
    let s := s.setFld (PAIR_ADC_STATUS.SPARE_SLOT n p) r.elem
    let s := (s.setFld (PAIR_ADC_STATUS.COMMITTED n p) 1).setFld (PAIR_ADC_STATUS.DEGRADED n p) 1
    s.modPair n p (fun k => { k with badSub := some r.elem })
  else if r.ty = 6 ∧ r.unit = t then
    showRows t (r.elem / 256) (useRow (sliceRows t (r.elem / 256) (r.elem % 256)) r.spare s)
  else s

/-- The slice among 64 to 67 for the next front end: neither FAILED nor given (R536 step 3). -/
def nextSpare (s : State) (t : Nat) : Option Nat := [64, 65, 66, 67].find? (fun i => sliceState s t i == 1)

/-- Rebuild a tile's slice states and crossbar map from REPAIR (R536). -/
def rebuildSlices (t : Nat) (s : State) : State :=
  let rs := repairs s
  let s := { s with rows := s.rows.filter (fun x => decide (2 ^ 20 ≤ x.1) || x.1 / 16 / 68 != t) }
  let s := forEach (List.range 5) (fun j s => s.clearReg (TILE_SLICE_STATE t j)) s
  let s := forEach (List.range 16) (fun q s => s.clearReg (TILE_XBAR_MAP t q)) s
  let s := forEach rs (applyTileRepair t) s
  let s := forEach (rs.filter (fun r => r.ty == 2 && r.unit == t)) (fun r s => setSliceState t r.elem 3 s) s
  let s := forEach ((List.range 64).filter (fun f => sliceState s t f == 3)) (fun f s =>
    match nextSpare s t with
    | some i => setSliceState t i 0 (setFeSlice t f i s)
    | none => setFeSlice t f 0x7F s) s
  showSpares t s

/-- One SPARE bank takes the place of a DRAINING or FENCED one while fewer than 64 are IN_SERVICE (R236). -/
def fillBanks : Nat → State → State
  | 0, s => showBanks s
  | k + 1, s =>
    if (banksIn s 0).length < 64 then
      match (banksIn s 1).head? with
      | some b => fillBanks k (setBankState b 0 s)
      | none => showBanks s
    else showBanks s

/-- Rebuild the Hostel banks from type-1 entries (R536). The banks start as at reset: 0 to 63 IN_SERVICE, 64 and 65 SPARE. -/
def rebuildBanks (s : State) : State :=
  let s := { s with rows := s.rows.filter (fun x => decide (x.1 < 2 ^ 20)) }
  let s := forEach (List.range 5) (fun j s => s.clearReg (HOSTEL_BANK_STATE j)) s
  let s := forEach ((repairs s).filter (fun r => r.ty == 1)) (fun r s =>
    if r.spare = 0xFFFF then setBankState r.unit 3 s else useRow (bankRows r.unit) r.spare s) s
  fillBanks 2 s

/-- A bank changes state after a test or a postponement: event 0x4002 (R535, R262). -/
def moveBank (b st : Nat) (s : State) : State := fillBanks 2 ((setBankState b st s).raise 0x4002 0 [b, st])

/-! ### Maintenance swaps (R538) -/

/-- Start a swap of slice `old` on tile t: the spare becomes HELD and the copy begins. -/
def startSwap (t old spare : Nat) (back : Bool) (handle : Nat) (s : State) : State :=
  let s := s.modTile t (fun k => { k with swaps := k.swaps ++ [(⟨old, spare, .copy, back, handle⟩ : MSwap)] })
  setSliceState t spare 2 s

/-- Replace a swap by another stage of it. -/
def stageSwap (t : Nat) (w : MSwap) (st : SwapStage) (s : State) : State :=
  s.modTile t (fun k => { k with swaps := k.swaps.map (fun x => if x == w then { x with stage := st } else x) })

/-- The swap of a tile that replaces a slice. -/
def swapOf (s : State) (t old : Nat) : Option MSwap := (s.tile t).swaps.find? (fun w => w.old == old)

/-- The link a front end of a tile serves. -/
def feLink (s : State) (t f : Nat) : LinkId := linkOfPair s (portOf (64 * t + f)) (pairOf (64 * t + f))

/-- The crossbar is asked to connect the spare of a swap (R19, R20). -/
def askSwitch (t : Nat) (w : MSwap) (s : State) : State :=
  match frontEnd s t w.old with
  | none => s
  | some f =>
    let s := stageSwap t w .switch s
    showSpares t (s.modTile t (fun k => { k with changes := k.changes ++ [(⟨f, w.spare, false, w.old⟩ : XChange)] }))

/-! ### Unit tests (R530 to R538, R544) -/

/-- BIST_STATUS and BIST_CURRENT, of the last test started. -/
def showBist (s : State) : State :=
  let swapping := s.tiles.any (fun x => !x.2.swaps.isEmpty)
  let s := s.setFld BIST_STATUS.BUSY (swapping || !s.tests.isEmpty).toNat
  match s.tests.getLast? with
  | none => (s.setFld BIST_STATUS.STEP (if swapping then 2 else 0)).setReg BIST_CURRENT 0
  | some x =>
    let st := match x.stage with
      | .wait => 1
      | .swap => 2
      | .test => 3
      | .back => 5
    (s.setFld BIST_STATUS.STEP st).setReg BIST_CURRENT (word x.unit)

/-- Put a test on the list. -/
def addTest (unit handle job : Nat) (periodic : Bool) (st : TestStage) (spare : Nat) (s : State) : State :=
  showBist { s with tests := s.tests ++ [(⟨unit, handle, job, periodic, st, spare, 0⟩ : Test)] }

/-- Replace the test of a unit. -/
def putTest (x : Test) (s : State) : State :=
  showBist { s with tests := s.tests.map (fun y => if y.unit == x.unit then x else y) }

/-- The tile and number under which a unit's completions are ordered (R445). -/
def unitPlace (unit : Nat) : Nat × Nat :=
  if unitKind unit = 1 then (unitTile unit, unitElem unit)
  else if unitKind unit = 4 then (pairTile (unitElem unit), unitElem unit)
  else (8, unitElem unit)

/-- Begin the test of a unit whose claim has been granted (R535, R537, R538): an IN_SERVICE slice is swapped out first, an
IN_SERVICE bank drains, a sub-ADC has the spare stand in (R119); else the test begins at once. A FREE slice and a SPARE
bank under test are HELD and DRAINING. -/
def beginUnit (unit handle job : Nat) (periodic : Bool) (s : State) : State :=
  let t := unitTile unit
  let i := unitElem unit
  if unitKind unit = 1 then
    if sliceState s t i = 0 then
      match (slicesIn s t 1).head? with
      | some sp =>
        let s := addTest unit handle job periodic .swap sp (startSwap t i sp false handle s)
        if periodic then s
        else match slicePair s t i with
          | some g => wakePort (portOf g) 7 s
          | none => s
      | none => addTest unit handle job periodic .swap 0x7F s
    else if sliceState s t i = 1 then addTest unit handle job periodic .test 0x7F (setSliceState t i 2 s)
    else addTest unit handle job periodic .test 0x7F s
  else if unitKind unit = 2 then
    if bankState s i = 0 then addTest unit handle job periodic .wait 0x7F (fillBanks 2 (setBankState i 2 s))
    else if bankState s i = 1 then addTest unit handle job periodic .test 0x7F (showBanks (setBankState i 2 s))
    else addTest unit handle job periodic .test 0x7F s
  else if unitKind unit = 4 then
    let g := i % 512
    let sub := bits unit 23 16
    let s := if sub < 64 then (s.setFld (PAIR_ADC_STATUS.SPARE_SLOT (g / 4) (g % 4)) sub).inc (PAIR_ADC_SWAPS (g / 4) (g % 4)) else s
    addTest unit handle job periodic .test 0x7F s
  else addTest unit handle job periodic .test 0x7F s

/-- Release the claim of a test or run unless CNC_CLAIM took it (R431). -/
def releaseOwn (h : Nat) (s : State) : State :=
  if s.claims.any (fun c => c.handle == h && !c.byClaim) then releaseClaim h s else s

/-- A unit test ends: counted, shown, its job ended with the result word, its claim released (R431, R533, R544). -/
def endTest (x : Test) (status result : Nat) (s : State) : State :=
  let s := { s with tests := s.tests.filter (fun y => y.unit != x.unit) }
  let s := if status = 0 then
      ((s.inc BIST_RUNS).setReg BIST_LAST_UNIT (word x.unit)).setReg BIST_LAST_RESULT (word result) else s
  let (t, u) := unitPlace x.unit
  showBist (releaseOwn x.handle (finishJob x.job status result t u s))

/-! ### Slice faults (R22, R527, R539) -/

/-- The spare a fault takes: the swap's own spare if the faulted slice is being swapped, else the lowest FREE slice, else the
spare of an unswitched swap. Answers the spare and the swap that ends. -/
def faultSpare (s : State) (t i : Nat) : Option (Nat × Option MSwap) :=
  let ws := (s.tile t).swaps.filter (fun w => w.stage != .wait)
  match ws.find? (fun w => w.old == i) with
  | some w => some (w.spare, some w)
  | none =>
    match (slicesIn s t 1).head? with
    | some sp => some (sp, none)
    | none => (ws.head?).map (fun w => (w.spare, some w))

/-- A swap ends because a fault takes its spare or hits its old slice (R527 step 2, R539). -/
def preempt (t i : Nat) (w : MSwap) (s : State) : State :=
  let own := w.old == i
  let s := if own then s else s.inc CNC_PREEMPTED
  abandonSwap t w 2 (if own then 0 else 2) false s

/-- A front end's FAILED slice `old` is replaced because slice `i` has failed (R22, R527 step 2): a spare waits for its boundary,
or the pair stops. -/
def replaceSlice (t i code f old : Nat) (s : State) : State :=
  let l := feLink s t f
  let s := s.modTile t (fun k => { k with changes := k.changes.filter (fun c => c.fe != f) })
  match faultSpare s t i with
  | some (sp, w) =>
    let s := match w with
      | some w => preempt t i w s
      | none => s
    let s := setSliceState t sp 2 s
    let s := s.modTile t (fun k => { k with changes := k.changes ++ [(⟨f, sp, true, old⟩ : XChange)] })
    let s := showSpares t (s.raise 0x7010 2 [t, i, code, sp])
    showBist (showLink l (eeiBreak l s))
  | none =>
    let s := showSpares t (setFeSlice t f 0x7F s)
    let s := s.raise 0x7010 2 [t, i, code, 0xFF]
    let s := askInternal 1 (sliceUnit t old) (.test (sliceUnit t old)) s
    showLink l (pairFault l (f % 4) 3 s)

/-- A slice fault (R527): FAILED with a REPAIR entry; the pair's replacement waits for its boundary, or the pair stops (R22). A
spare that waits to be connected as a fault replacement is tested, and another takes its place (R21). -/
def sliceFault (t i code : Nat) (s : State) : State :=
  let fe := frontEnd s t i
  let was := sliceState s t i
  let s := s.setFld (SLICE_STATUS.FAULT_CODE t i) code
  let s := if code = 1 then s.inc (SLICE_ECC_UNCORR t i) else s
  let s := s.inc (SLICE_FAULTS t i)
  let s := askRepair [⟨2, t, i, 0xFFFF⟩] [] s
  let ws := (s.tile t).swaps.filter (fun w => unswitched w && w.spare == i)
  let s := forEach ws (fun w s => abandonSwap t w 3 0 false s) s
  match fe with
  | none =>
    let s := setSliceState t i 3 s
    match (s.tile t).changes.find? (fun c => c.fault && c.slice == i) with
    | some c => replaceSlice t i code c.fe c.old (askInternal 1 (sliceUnit t i) (.test (sliceUnit t i)) s)
    | none =>
      let s := s.raise 0x7010 2 [t, i, code, 0xFF]
      if was = 1 ∨ !ws.isEmpty then askInternal 1 (sliceUnit t i) (.test (sliceUnit t i)) s else s
  | some f => replaceSlice t i code f i (abortReflect (64 * t + f) 6 (setSliceState t i 3 s))

/-- A change that waits is made at the boundary that has come (R20): fault replacements first. -/
def nextChange (k : TileSt) : Option XChange :=
  match k.changes.find? (fun c => c.fault) with
  | some c => some c
  | none => k.changes.head?

/-- A fault replacement is connected (R527 steps 3 and 4): the stored set and gain are loaded, the link asks for a fast
retrain with cause SLICE, the FAILED slice is to be tested. -/
def connectFault (t : Nat) (c : XChange) (s : State) : State :=
  let g := 64 * t + c.fe
  let n := portOf g
  let l := feLink s t c.fe
  let s := setSliceState t c.slice 0 (setFeSlice t c.fe c.slice s)
  let s := (restoreStored n (g % 4) (freshSlice n (g % 4) s)).setFld (PAIR_COEF_STATUS.SNAP_VALID n (g % 4)) 0
  let s := askInternal 1 (sliceUnit t c.old) (.test (sliceUnit t c.old)) s
  showLink l (requestForced l 8 s)

/-- A maintenance swap switches (R538 step 4): event 0x7011; the old slice is HELD and tested, or after a swap back is
re-initialised and FREE, and its test ends. A job of SLICE_SWAP ends with the slice that took over (log entry 19). -/
def connectSwap (t : Nat) (c : XChange) (s : State) : State :=
  let s := setSliceState t c.slice 0 (setFeSlice t c.fe c.slice s)
  let g := 64 * t + c.fe
  let s := (s.raise 0x7011 0 [t, c.old, c.slice]).setFld (PAIR_COEF_STATUS.SNAP_VALID (portOf g) (g % 4)) 0
  match swapOf s t c.old with
  | none => setSliceState t c.old 2 s
  | some w =>
    let s := s.modTile t (fun k => { k with swaps := k.swaps.filter (· != w) })
    if w.back then
      let s := setSliceState t c.old 1 s
      match s.tests.find? (fun x => x.unit == sliceUnit t c.slice) with
      | some x => endTest x 0 x.result s
      | none => showBist s
    else
      let s := setSliceState t c.old 2 s
      let unit := sliceUnit t c.old
      match s.tests.find? (fun x => x.unit == unit) with
      | some x =>
        match jobOfClaim s w.handle with
        | some j =>
          if j.op = 0x0903 then
            let s := finishJob j.num 0 c.slice t c.old s
            let (h, s) := takeClaim 0xFF 1 unit none false s
            putTest { x with handle := h, job := 0, stage := .test } s
          else putTest { x with stage := .test } s
        | none => putTest { x with stage := .test } s
      | none => showBist s

/-! ### The outcome of a test (R533 to R535) -/

/-- The result word of a failure (R533). -/
def resultWord (repaired : Bool) (f : MemFail) : Nat :=
  2 ^ 31 + repaired.toNat * 2 ^ 30 + f.inst % 32 * 2 ^ 25 + f.word % 2 ^ 17 * 2 ^ 8 + f.bit % 256

/-- The rows of the instance a failure lies in, how many it has, and the REPAIR entry for one of them. -/
def rowPlace (unit inst : Nat) : Option (Nat × Nat) :=
  if unitKind unit = 1 then some (sliceRows (unitTile unit) (unitElem unit) inst, 4)
  else if unitKind unit = 2 then some (bankRows (unitElem unit), 16)
  else none
def rowEntry (unit : Nat) (f : MemFail) (spare : Nat) : Repair :=
  if unitKind unit = 1 then ⟨6, unitTile unit, unitElem unit * 256 + f.inst % 16, spare⟩
  else ⟨1, unitElem unit, f.row % 65536, spare⟩

/-- Repair the failing rows of a test and its repeats in the order found (R534): the lowest free spare row of the instance;
counted, event 0x7002. Answers whether all could be repaired, and the REPAIR entries. A row that fails again after its
repair cannot. -/
def repairRows (unit : Nat) : List MemFail → List (Nat × Nat) → State → Bool × List Repair × State
  | [], _, s => (true, [], s)
  | f :: fs, done, s =>
    match rowPlace unit f.inst with
    | none => (false, [], s)
    | some (k, count) =>
      if done.contains (f.inst, f.row) then (false, [], s)
      else match (List.range count).find? (fun r => !bit (rowsUsed s k) r) with
        | none => (false, [], s)
        | some r =>
          let s := ((useRow k r s).inc BIST_REPAIRS).raise 0x7002 0 [unit, f.inst, f.row, r]
          let s := if unitKind unit = 1 then showRows (unitTile unit) (unitElem unit) s else s
          let (ok, es, s) := repairRows unit fs ((f.inst, f.row) :: done) s
          (ok, rowEntry unit f r :: es, s)

/-- A tested slice ends FREE (R535, R538): swapped back when BIST_CFG.RETURN is 1 and another slice holds its place. -/
def sliceFreed (x : Test) (t i result : Nat) (s : State) : State :=
  if s.flag BIST_CFG.RETURN && x.spare != 0x7F && (frontEnd s t x.spare).isSome then
    putTest { x with stage := .back, result := result } (startSwap t x.spare i true x.handle s)
  else endTest x 0 result (setSliceState t i 1 s)

/-- The outcome of a slice's test: `fate` 0 no failure, 1 repaired, 2 unrepairable (R535). -/
def sliceOutcome (x : Test) (fate result : Nat) (es : List Repair) (s : State) : State :=
  let t := unitTile x.unit
  let i := unitElem x.unit
  let two : Repair := ⟨2, t, i, 0xFFFF⟩
  let failed := sliceState s t i == 3
  if fate = 2 then
    let s := (askRepair (two :: es) [] s).raise 0x7003 2 [x.unit, result]
    endTest x 0 result (setSliceState t i 3 s)
  else if failed then
    if fate = 1 then endTest x 0 result (setSliceState t i 1 (askRepair es [two] s)) else endTest x 0 result s
  else
    let s := if es.isEmpty then s else askRepair es [] s
    sliceFreed x t i result s

/-- The outcome of a bank's test (R535). -/
def bankOutcome (x : Test) (fate result : Nat) (es : List Repair) (s : State) : State :=
  let b := unitElem x.unit
  let mark := (repairs s).filter (fun r => r.ty == 1 && r.unit == b && r.spare == 0xFFFF)
  if fate = 2 then
    let s := s.raise 0x7003 2 [x.unit, result]
    if bankState s b = 3 then endTest x 0 result (if es.isEmpty then s else askRepair es [] s)
    else endTest x 0 result (showBanks (setBankState b 3 (askRepair (⟨1, b, 0, 0xFFFF⟩ :: es) [] s)))
  else
    let s := if bankState s b = 3 ∨ !es.isEmpty then askRepair es (if bankState s b = 3 then mark else []) s else s
    endTest x 0 result (moveBank b 1 s)

/-- The outcome of a unit test (R535). -/
def testDone (x : Test) (fails : List MemFail) (s : State) : State :=
  match fails with
  | [] =>
    if unitKind x.unit = 1 then sliceOutcome x 0 0 [] s
    else if unitKind x.unit = 2 then bankOutcome x 0 0 [] s
    else if unitKind x.unit = 4 then
      let g := unitElem x.unit
      endTest x 0 0 (s.setFld (PAIR_ADC_STATUS.SPARE_SLOT (g / 4) (g % 4)) 64)
    else endTest x 0 0 s
  | f :: _ =>
    let (ok, es, s) := repairRows x.unit fails [] s
    let result := if unitKind x.unit = 4 then 2 ^ 31 + f.bit % 256 else resultWord ok f
    let s := ((s.inc BIST_FAILS).raise 0x7001 1 [x.unit, result]).intBit 12
    let fate := if ok then 1 else 2
    if unitKind x.unit = 1 then sliceOutcome x fate result es s
    else if unitKind x.unit = 2 then bankOutcome x fate result es s
    else if unitKind x.unit = 4 then
      let g := unitElem x.unit
      let s := s.setFld (PAIR_ADC_STATUS.SPARE_SLOT (g / 4) (g % 4)) 64
      endTest x 0 result (failSubAdc (portOf g) (pairOf g) (bits x.unit 23 16 % 64) s)
    else
      let s := (s.setFld BIST_PORTER_STATUS.STANDBY_FAILED 1).setFld BIST_PORTER_STATUS.STANDBY_READY 0
      endTest x 0 result (s.raise 0x7003 2 [x.unit, result])

/-! ### The periodic sweep (R530, R531) -/

/-- Unit number `k` of the sweep. -/
def sweepUnit (k : Nat) : Nat :=
  if k < 544 then sliceUnit (k / 68) (k % 68) else if k < 610 then bankUnit (k - 544) else porterUnit

/-- A slice serves a pair of a port in an EEI depth. -/
def inDepthUnit (s : State) (unit : Nat) : Bool :=
  unitKind unit == 1 && (match slicePair s (unitTile unit) (unitElem unit) with
    | some g => (activeLinks s (portOf g)).any (fun l => (s.link l).eei.inDepth)
    | none => false)

/-- Why a unit is skipped (R531): 1 conflict, 2 spare rule, 3 domain OFF, 4 EEI depth; 0 it is not. -/
def skipReason (s : State) (unit : Nat) : Nat :=
  if unitKind unit = 1 ∧ (s.dom (0x020 + unitTile unit)).state = 0 then 3
  else if inDepthUnit s unit then 4
  else if !spareAllows s 1 unit then 2
  else if !grantable s 1 unit then 1
  else 0

/-- The next place of the sweep, or of its second round. -/
def showSweep (s : State) : State :=
  if s.hub.retrying then s.setFld BIST_STATUS.SWEEP_POS ((s.hub.skipped.head?.map (·.1)).getD 0) else s

/-- Go on to the next unit of the sweep; after the last, to the skipped ones once more, then the sweep is complete. -/
def sweepNext (s : State) : State :=
  if s.hub.retrying then
    if s.hub.skipped.isEmpty then
      ((s.modHub (fun h => { h with retrying := false })).inc BIST_SWEEPS).setFld BIST_STATUS.SWEEP_POS 0
    else showSweep s
  else
    let k := s.fld BIST_STATUS.SWEEP_POS
    if k < 610 then s.setFld BIST_STATUS.SWEEP_POS (k + 1)
    else if s.hub.skipped.isEmpty then (s.inc BIST_SWEEPS).setFld BIST_STATUS.SWEEP_POS 0
    else showSweep (s.modHub (fun h => { h with retrying := true }))

/-- A unit is skipped: in the first round it is kept for a second try, in the second event 0x7004 (R531). -/
def skipUnit (k reason : Nat) (again : Bool) (s : State) : State :=
  let s := s.inc BIST_SKIPPED
  if again then s.raise 0x7004 0 [sweepUnit k, reason]
  else s.modHub (fun h => { h with skipped := h.skipped ++ [(k, reason)] })

/-- The sweep starts its next unit test, or skips the unit (R530, R531). -/
def sweepStart (s : State) : State :=
  let again := s.hub.retrying
  let k := if again then (s.hub.skipped.head?.map (·.1)).getD 0 else s.fld BIST_STATUS.SWEEP_POS
  let unit := sweepUnit k
  let reason := skipReason s unit
  let s := if again then s.modHub (fun h => { h with skipped := h.skipped.drop 1 }) else s
  if reason ≠ 0 then sweepNext (skipUnit k reason again s)
  else
    let (h, s) := takeClaim 0xFF 1 unit (claimPair s 1 unit) false s
    sweepNext (beginUnit unit h 0 true s)

/-- A periodic test that fell due while another ran starts when that one ends (R530). -/
def sweepDue (s : State) : State :=
  if s.hub.bistDue ≠ 0 ∧ !s.tests.any (fun x => x.periodic) ∧ !s.flag DBG_PORTER_STATUS.HALTED then
    sweepStart (s.modHub (fun h => { h with bistDue := 0 }))
  else s

/-! ### Tile links (R27) -/

/-- A tile link has failed: the tile's ports stop with cause TILELINK, REFLECT runs on it end, its domain is in FAULT
(R27, R332, R372). -/
def tileLinkFailed (t : Nat) (s : State) : State :=
  let s := s.modTile t (fun k => { k with linkDown := true })
  let ports := (List.finRange 128).filter (fun n => tileOf n == t)
  let s := forEach ports (fun n s =>
    let s := forEach allPairs (fun p s => abortReflect (gpair n p) 6 s) s
    forEach (activeLinks s n) (fun l s => dropLink l 4 s) s) s
  ((s.modDom (0x020 + t) (fun d => { d with state := 5 })).setFld PWR_DOMAIN_LAST_FAULT.ID (0x020 + t)).intBit 6

end Sys2Proof.Machine
end

