-- ==== Sys2Proof/Machine/Cal.lean ====
section
/-! DEFINITION. Calibration: corrections and their temperature sets, runs and their verification, and what the calibration events
do (R481 to R500). -/
namespace Sys2Proof.Machine

/-! ### Items (R483) -/

/-- The item code and the target exist. -/
def calValid (item target : Nat) : Bool :=
  if item = 0 then false
  else if item ≤ 4 then decide (target < 512)
  else if item = 5 then decide (target < 136)
  else if item = 6 then decide (target / 256 ≤ 8 ∧ target % 256 < 4)
  else false

/-- Number of fields of a correction: the spare and 64 sub-ADCs with gain, offset and skew; 63 cells; offset and gain of a
sensor. -/
def fieldCount (item : Nat) : Nat := if item = 1 then 195 else if item = 2 then 63 else if item = 6 then 2 else 1

/-- The limits of R493 for a field, in 1/16 of its LSB: absolute, step, agreement. The LSB of a sensor's gain is PRESUMED 0.0625 %
(log entry 24). -/
def calLimits (item field : Nat) : Nat × Nat × Nat :=
  if item = 1 then
    (if field % 3 = 0 then (4800, 800, 400) else if field % 3 = 1 then (2048, 512, 256) else (480, 96, 48))
  else if item = 2 then (1600, 240, 120)
  else if item = 3 then (3200, 320, 160)
  else if item = 4 then (960, 128, 64)
  else if item = 5 then (512, 128, 64)
  else if field = 0 then (768, 256, 128) else (512, 128, 64)

/-! ### Temperature sets (R484, R485) -/

/-- The set points in 0.125 °C. -/
def setPoints : List Int := [-40, 200, 440, 680, 880]

/-- The two set points that bracket T, and how far T lies from the lower to the upper; one point at or beyond an end, and at a
set point. -/
def bracket (t : Int) : Nat × Nat × Rat :=
  if t ≤ -40 then (0, 0, 0)
  else if 880 ≤ t then (4, 4, 0)
  else match (List.range 4).find? (fun i => decide (t < setPoints.getD (i + 1) 0)) with
    | none => (4, 4, 0)
    | some i =>
      let a := setPoints.getD i 0
      let b := setPoints.getD (i + 1) 0
      if t = a then (i, i, 0) else (i, i + 1, ((t - a : Int) : Rat) / ((b - a : Int) : Rat))

/-- The interpolated value of a field at T, in 1/16 of the LSB; nominal is 0. -/
def interp (v : List Int) (t : Int) : Rat :=
  let (i, j, w) := bracket t
  let a : Rat := (v.getD i 0 : Int)
  let b : Rat := (v.getD j 0 : Int)
  a + (b - a) * w

/-- The nearest whole number; a half goes up (log entry 24). -/
def nearest (x : Rat) : Int := (x + 1 / 2).floor

/-- The set points of a field after a run at T with deviation d (R485). -/
def updateField (v : List Int) (t : Int) (d : Rat) : List Int :=
  let (i, j, _) := bracket t
  (List.range 5).map (fun k => if k = i ∨ k = j then nearest ((v.getD k 0 : Int) + d) else v.getD k 0)

/-- The fields of an item-target, nominal where none is held. -/
def calFields (s : State) (item target : Nat) : List (List Int) :=
  (List.range (fieldCount item)).map (fun f => (s.cal item target).points.getD f [])

/-- The trim codes that the interpolated values stand for at T. -/
def trimGoal (s : State) (item target : Nat) (t : Int) : List Int :=
  (calFields s item target).map (fun v => nearest (interp v t / 16))

/-- The temperature of an item-target's serving sensor. -/
def calTemp (s : State) (item target : Nat) : Int := sensorTemp s (servingSensor item target)

/-- One step of a trim towards its goal: at most one LSB. -/
def stepTrim (now goal : Int) : Int := if now < goal then now + 1 else if goal < now then now - 1 else now

/-- A pair with a failed sub-ADC: it is no longer calibrated by rotation (R120). -/
def isCommitted (s : State) (item target : Nat) : Bool :=
  item == 1 && s.flag (PAIR_ADC_STATUS.COMMITTED (target / 4) (target % 4))

/-- Set every trim of an item-target at once: at boot, after a reset and while its domain is OFF (R486, R497). The skews of a pair with
a failed sub-ADC stay (R120); a field is gain, offset or skew in turn. -/
def setTrims (item target : Nat) (s : State) : State :=
  let g := trimGoal s item target (calTemp s item target)
  let held := isCommitted s item target
  s.modCal item target (fun c =>
    if c.points.isEmpty then { c with trims := [] }
    else { c with trims := g.mapIdx (fun i y => if held && i % 3 == 2 then c.trims.getD i y else y) })

/-- The background estimator of a pair with a failed sub-ADC: the gains and offsets are its estimates, each a free value since the spec
gives no algorithm (log entry 3); the skews are held (R120). -/
def estimateTrims (item target : Nat) (s : State) : State :=
  let (v, s) := s.draw
  s.modCal item target (fun c => { c with
    trims := c.trims.mapIdx (fun i y => if i % 3 == 2 then y else (Config.freeCoef v i : Int) - Config.freeCoef v (i + fieldCount 1)) })

/-! ### Due, deferred (R486 to R488) -/

/-- A pair's item-target is deferred while due: its port in an EEI depth or with an agreed entry, a cable diagnostic claim on the
pair, the port in G2 to G5 or in a fast retrain (R488). -/
def calDeferCond (s : State) (g : Nat) : Bool :=
  let l := linkOfPair s (portOf g) (pairOf g)
  let k := s.link l
  (k.phase == 7 && (k.eei.inDepth || k.eei.agreed)) || claimOnPair s 3 g || decide (3 ≤ k.phase ∧ k.phase ≤ 6) || k.phase == 8

/-- An item-target is due and deferred. -/
def calDeferred (s : State) (item target : Nat) : Bool :=
  decide (1 ≤ item ∧ item ≤ 4) && calDeferCond s target && calDue s item target

/-- Deferrals are counted as they begin (R488). -/
def countDeferrals (s : State) : State :=
  forEach (List.range 512) (fun g s =>
    if calDeferCond s g then
      forEach [1, 2, 3, 4] (fun i s =>
        if calDue s i g && !(s.cal i g).deferred then (s.modCal i g (fun c => { c with deferred := true })).inc CAL_DEFERRALS
        else s) s
    else
      forEach [1, 2, 3, 4] (fun i s =>
        if (s.cal i g).deferred then s.modCal i g (fun c => { c with deferred := false }) else s) s) s

/-- STATE of an item-target as CAL_ITEM_DATA shows it (R498). -/
def calState (s : State) (item target : Nat) : Nat :=
  let c := s.cal item target
  if calRunning s item target then 3
  else if item = 1 ∧ s.flag (PAIR_ADC_STATUS.COMMITTED (target / 4) (target % 4)) then 6
  else if c.state = 7 then 7
  else if calDeferred s item target then 5
  else if calDue s item target then 4
  else if c.state = 2 then 2
  else if c.tLast.isNone then 0
  else 1

/-- The item-targets of a sequencer in the order of R487: TSENSE, TERM, HYBRID, ADC, DAC of a tile; TSENSE and HL_TX_AMP of the
hub. -/
def sequence (die : Nat) : List (Nat × Nat) :=
  let sensors := (List.range 4).map (fun i => (6, die * 256 + i))
  if die < 8 then sensors ++ [4, 3, 1, 2].flatMap (fun i => (List.range 64).map (fun f => (i, 64 * die + f)))
  else sensors ++ (List.range 136).map (fun h => (5, h))

/-- The CAL resource of an item-target (R430). -/
def calRes (item target : Nat) : Nat := item * 2 ^ 24 + target

/-- The claim that a run would use: one of the device's own, or that of a job that asked for the run. -/
def calClaim (s : State) (item target : Nat) : Option Claim :=
  s.claims.find? (fun c => c.kind == 2 && claimName 2 c.res == claimName 2 (calRes item target) &&
    (c.src == 0xFF || s.jobs.any (fun j => j.handle == c.handle && (s.cal item target).asked.contains j.num)))

/-- The device waits for a claim for an item-target. -/
def calWaits (s : State) (item target : Nat) : Bool := (s.waiting ++ s.later).any (fun w => w.why == .cal item target)

/-- The item-target that a sequencer takes next: CAL_RUN requests first; a deferred one, and one whose claim waits, are passed
over (R487, R488). -/
def nextRun (s : State) (die : Nat) : Option (Nat × Nat) :=
  let ok (x : Nat × Nat) : Bool := calDue s x.1 x.2 && !calDeferred s x.1 x.2 && !calWaits s x.1 x.2
  match (sequence die).find? (fun x => !(s.cal x.1 x.2).asked.isEmpty && ok x) with
  | some x => some x
  | none => (sequence die).find? ok

/-! ### The end of a run (R485, R493 to R496) -/

/-- The jobs that asked for a run end with its result (R490, R496). -/
def answerAsked (item target : Nat) (pass : Bool) (s : State) : State :=
  let c := s.cal item target
  let arg := if s.flag CAL_CFG.REPORT then (if pass then 1 else 2) else c.count
  let g := if item ≤ 4 then pairTile target else if item = 6 ∧ target / 256 < 8 then target / 256 else 8
  forEach c.asked (fun j s => finishJob j 0 arg g (if item ≤ 4 then target / 4 else target) s)
    (s.modCal item target (fun c => { c with asked := [] }))

/-- What every completed run does: counted with its time, no longer in progress, its claim released (R496). -/
def closeRun (r : CalRun) (pass : Bool) (s : State) : State :=
  let s := { s with calRuns := s.calRuns.filter (· != r) }
  let s := releaseTaken r.handle (answerAsked r.item r.target pass s)
  showRefBusy (showCalBusy (servingSensor r.item r.target).1 (clearStale r.item r.target s))

/-- A run is rejected (R495): its cause, the counts, event 0x5001; retried once after 10 s, then FAILED with event 0x5002; an ADC
run that fails at a sub-ADC is not retried. -/
def rejectRun (r : CalRun) (cause : Nat) (dev : Int) (retry : Bool) (s : State) : State :=
  let c := s.cal r.item r.target
  let again := c.inRow == 0 && retry
  let s := s.modCal r.item r.target (fun c => { c with
    state := if again then 7 else 2, lastFail := true, cause := cause, count := c.count + 1, time := gbTime s,
    fails := c.fails + 1, dev := dev, inRow := c.inRow + 1 })
  let s := (((s.inc CAL_RUNS).inc CAL_FAILS).intBit 11).raise 0x5001 1 [r.item, r.target, cause, unsigned 32 dev]
  let s := if again || !retry then s else s.raise 0x5002 2 [r.item, r.target, cause]
  closeRun r false s

/-- A run is accepted (R485): the set points move, t_last, the counts. -/
def acceptRun (r : CalRun) (t : Int) (d : List Rat) (dev : Int) (s : State) : State :=
  let vs := calFields s r.item r.target
  let s := s.modCal r.item r.target (fun c => { c with
    state := 1, lastFail := false, cause := 0, count := c.count + 1, time := gbTime s, dev := dev, inRow := 0, first := false,
    tLast := some t, at_ := s.now, points := vs.mapIdx (fun i v => updateField v t (d.getD i 0)) })
  closeRun r true (s.inc CAL_RUNS)

/-- The first field of a result that verification rejects, with its cause (R493, R494): 1 LIMIT, 2 STEP, 3 AGREE. -/
def verifyFields (item : Nat) (compat first : Bool) (a b : List Int) (d : List Rat) : Option (Nat × Nat) :=
  (List.range (fieldCount item)).findSome? (fun i =>
    let (lim, stp, tol) := calLimits item i
    let x := a.getD i 0
    if compat then (if tol < (x - b.getD i 0).natAbs then some (i, 3) else none)
    else if lim < x.natAbs then some (i, 1)
    else if !first && decide ((stp : Rat) < |d.getD i 0|) then some (i, 2)
    else none)

/-- The deviation of a run: the d of largest size, in LSB. -/
def deviation (d : List Rat) : Int :=
  let big := d.foldl (fun m x => if |m| < |x| then x else m) (0 : Rat)
  nearest (big / 16)

/-- The run that holds the reference switch: the first in progress that uses a reference (R482). -/
def refHolder (s : State) : Option CalRun := s.calRuns.find? (fun r => r.item != 3)

/-- TILE_CAL_STATUS.REF_WAIT of every tile (R499). -/
def showRefWait (s : State) : State :=
  let holder := refHolder s
  forEach (List.range 8) (fun t s =>
    let mine := s.calRuns.find? (fun r => (servingSensor r.item r.target).1 == t)
    let w := match mine with | some r => r.item != 3 && holder != some r | none => false
    if s.flag (TILE_CAL_STATUS.REF_WAIT t) == w then s else s.setFld (TILE_CAL_STATUS.REF_WAIT t) w.toNat) s

/-! ### Events -/

/-- The check of the reference that a run uses (R482): its OK bit, and event 0x5003 once per episode. -/
def checkReference (item : Nat) (ref : RefMeas) (s : State) : Bool × State :=
  if item = 3 then (true, s)
  else
    let (bitNo, code, dev, lim) := if item = 4 then (1, 2, ref.rcal, 500) else (0, 1, ref.vref, 200)
    let f : Fld := if item = 4 then CAL_STATUS.RCAL_OK else CAL_STATUS.VREF_OK
    if dev.natAbs ≤ lim then
      (true, (s.setFld f 1).modHub (fun h => { h with refBad := setBit h.refBad bitNo false }))
    else
      let s' := (s.setFld f 0).modHub (fun h => { h with refBad := setBit h.refBad bitNo true })
      (false, if bit s.hub.refBad bitNo then s' else s'.raise 0x5003 2 [code, unsigned 32 dev])

/-- Begin a run under a claim (R482, R492). -/
def beginCalRun (item target : Nat) (ref : RefMeas) (h : Nat) (s : State) : State :=
  let r : CalRun := ⟨item, target, h, s.flag CAL_CFG.VERIFY⟩
  let s := markStale item target { s with calRuns := s.calRuns ++ [r] }
  let s := showRefBusy (showCalBusy (servingSensor item target).1 s)
  let (ok, s) := checkReference item ref s
  if ok then showRefWait s else showRefWait (rejectRun r 4 0 true s)

/-- CAL_RUN_START: a free sequencer takes its next item-target: it takes the CAL claim and the run starts, or the claim is asked
for and waits (R482, R487, R490). -/
def execCalRunStart (item target : Nat) (ref : RefMeas) (s : State) : Host.Outcome State Fault Refusal :=
  let die := (servingSensor item target).1
  if !calValid item target || !s.flag CLK_STATUS.REF_QUAL ||
      s.calRuns.any (fun r => (servingSensor r.item r.target).1 == die) || nextRun s die != some (item, target) then .next s
  else match calClaim s item target with
    | some c => .next (beginCalRun item target ref c.handle s)
    | none =>
      let res := calRes item target
      if grantable s 2 res then
        let (h, s) := takeClaim 0xFF 2 res (claimPair s 2 res) false s
        .next (beginCalRun item target ref h s)
      else .next (askInternal 2 res (.cal item target) s)

/-- CAL_RUN_DONE: a run ends with its measurement: verified, then accepted or rejected (R485, R491, R493 to R496). A run that waits
for the reference switch does not end. -/
def execCalRunDone (item target : Nat) (m : CalMeas) (s : State) : Host.Outcome State Fault Refusal :=
  match s.calRuns.find? (fun r => r.item == item && r.target == target) with
  | none => .next s
  | some r =>
    if item ≠ 3 ∧ refHolder s ≠ some r then .next s
    else
      let compat := r.compat
      let t := calTemp s item target
      let c := (List.range (fieldCount item)).map (fun i =>
        if compat then ((m.first.getD i 0 + m.second.getD i 0 : Int) : Rat) / 2 else ((m.first.getD i 0 : Int) : Rat))
      let vs := calFields s item target
      let d := c.mapIdx (fun i x => x - interp (vs.getD i []) t)
      match verifyFields item compat (s.cal item target).first m.first m.second d with
      | none => .next (showRefWait (acceptRun r t d (deviation d) s))
      | some (f, cause) =>
        let sub := item == 1 && decide (3 ≤ f)
        let s := rejectRun r cause (deviation d) (!sub) s
        .next (showRefWait (if sub then failSubAdc (portOf target) (pairOf target) (f / 3 - 1) s else s))

/-- CAL_RUN_TIMEOUT: a run has exceeded twice its run time: rejected with cause TIMEOUT (R495). -/
def execCalRunTimeout (item target : Nat) (s : State) : Host.Outcome State Fault Refusal :=
  match s.calRuns.find? (fun r => r.item == item && r.target == target) with
  | none => .next s
  | some r => .next (showRefWait (rejectRun r 5 0 true s))

/-- CAL_RETRY: 10 s after a rejection the item-target is due again (R495). -/
def execCalRetry (item target : Nat) (s : State) : Host.Outcome State Fault Refusal :=
  if (s.cal item target).state ≠ 7 then .next s else .next (s.modCal item target (fun c => { c with state := 4 }))

/-- CAL_RUN_START_TIMEOUT: 1 s after the grant the run has not started: the job ends ABORTED (R490). -/
def execCalRunStartTimeout (item target : Nat) (s : State) : Host.Outcome State Fault Refusal :=
  if (s.cal item target).asked.isEmpty || calRunning s item target then .next s
  else .next (abortAsked item target s)

/-- TRIM_TRACK_TICK: every 1 ms: sensors are read (die × 4 + sensor, 0.125 °C; a stale one holds), each trim moves at most one LSB
towards its interpolated value, deferrals are judged (R484, R486, R488, R492). -/
def execTrimTrackTick (temps : List (Nat × Int)) (s : State) : Host.Outcome State Fault Refusal :=
  let s := forEach temps (fun x s =>
    let die := x.1 / 4
    let i := x.1 % 4
    if die < 8 then
      (if s.flag (TILE_TEMP.STALE die i) || (s.dom (0x020 + die)).state != 3 then s
       else s.setFld (TILE_TEMP.TEMP die i) (unsigned 16 x.2))
    else if die = 8 then
      (if s.flag (CAL_HUB_TEMP.STALE i) then s else s.setFld (CAL_HUB_TEMP.TEMP i) (unsigned 16 x.2))
    else s) s
  let s := forEach s.cals (fun x s =>
    let item := x.1 / 65536
    let target := x.1 % 65536
    if x.2.points.isEmpty then s
    else if !targetOn s item target then setTrims item target s
    else if isCommitted s item target then estimateTrims item target s
    else
      let g := trimGoal s item target (calTemp s item target)
      s.modCal item target (fun c => { c with trims := g.mapIdx (fun i y => stepTrim (c.trims.getD i 0) y) })) s
  .next (countDeferrals s)

end Sys2Proof.Machine
end

