-- ==== Sys2Proof/Machine/Clocks.lean ====
section
/-! DEFINITION. The clocks: REFCLK, the PLLs, divider changes, clock-domain crossings, and what the clock events do (R336 to
R359). -/
namespace Sys2Proof.Machine

/-! ### Flags and crossings -/

/-- Set a W1C bit of CLK_FLAGS: the CLOCK interrupt (R473). -/
def clkFlag (i : Nat) (s : State) : State := (s.setFld ⟨CLK_FLAGS, i, i⟩ 1).intBit 5

/-- RCLK ≤ MCLK is broken by the dividers in use (R341, R342): RCLK at 195 MHz with MCLK at 97 MHz. -/
def badDividers (s : State) : Bool :=
  s.fld CLK_STATUS.RCLK_ACT == 0 && s.fld CLK_STATUS.MCLK_ACT == 2

/-- CDC_ANY follows the two overrun registers; its rise sets the CDC interrupt (R357, R473). -/
def showCdc (s : State) : State :=
  let any := (s.reg CLK_CDC_OVERRUN0).toNat != 0 || (s.reg CLK_CDC_OVERRUN1).toNat != 0
  let s := if any && !s.flag CLK_FLAGS.CDC_ANY then s.intBit 14 else s
  s.setFld CLK_FLAGS.CDC_ANY any.toNat

/-- An overrun of a crossing: its flag, and event 0x1050 when the flag was clear (R356). -/
def cdcOverrun (i : Nat) (s : State) : State :=
  if bit (s.reg CLK_CDC_OVERRUN0).toNat i then s
  else showCdc ((s.setFld ⟨CLK_CDC_OVERRUN0, i, i⟩ 1).raise 0x1050 1 [0, i])

/-- While the dividers in use break a relation and no switch is under way, the two crossings between MCLK and RCLK show
OVERRUN (R342). -/
def judgeDividers (s : State) : State :=
  if badDividers s && s.hub.switches.isEmpty then cdcOverrun 1 (cdcOverrun 0 s) else showCdc s

/-! ### Hub dividers (R341 to R345) -/

/-- A divider code as it acts: 3 acts as 2. -/
def divCode (v : Nat) : Nat := min v 2

/-- The divider of CLK_DIV and the one in use of a domain: 1 MCLK, 2 RCLK, 3 FCLK. -/
def divWanted (s : State) (d : Nat) : Nat :=
  if d = 1 then divCode (s.fld CLK_DIV.MCLK_DIV) else if d = 2 then divCode (s.fld CLK_DIV.RCLK_DIV) else s.fld CLK_DIV.FCLK_RED
def divAct : Nat → Fld
  | 1 => CLK_STATUS.MCLK_ACT
  | 2 => CLK_STATUS.RCLK_ACT
  | _ => CLK_STATUS.FCLK_RED_ACT

/-- The order of the switches (R343): clocks that fall in the order RCLK, MCLK, FCLK, then clocks that rise in the order FCLK,
MCLK, RCLK. -/
def switchOrder (s : State) : List Nat :=
  [2, 1, 3].filter (fun d => decide (s.fld (divAct d) < divWanted s d)) ++
    [3, 1, 2].filter (fun d => decide (divWanted s d < s.fld (divAct d)))

/-- CLK_DIV is written: the write completes, then the domains switch one at a time (R343). -/
def writeClkDiv (v : Nat) (s : State) : State :=
  let s := s.setReg CLK_DIV (word (bits v 8 8 * 256 + bits v 5 4 * 16 + bits v 1 0))
  let todo := switchOrder s
  let s := (s.modHub (fun h => { h with switches := todo })).setFld CLK_STATUS.SWITCH_BUSY (!todo.isEmpty).toNat
  judgeDividers s

/-- One domain has switched to its divider (R344). -/
def switchDomain (d : Nat) (s : State) : State :=
  match s.hub.switches with
  | [] => s
  | x :: rest =>
    if x ≠ d then s
    else
      let s := (s.setFld (divAct d) (divWanted s d)).inc CLK_SWITCHES
      let s := (s.modHub (fun h => { h with switches := rest })).setFld CLK_STATUS.SWITCH_BUSY (!rest.isEmpty).toNat
      judgeDividers s

/-- A forced switch (R345): its flag of the hub or of a tile, the count, event 0x1040. -/
def forced (d t : Nat) (s : State) : State :=
  let s := if d = 4 then (s.setFld (TILE_CLK_STATUS.SWITCH_FORCED t) 1).intBit 5 else clkFlag 2 s
  (s.inc CLK_SWITCHES_FORCED).raise 0x1040 1 [d, if d = 4 then t else 0]

/-- CLK_DIV_WRITE: CLK_DIV is written (R342, R343). -/
def execClkDivWrite (v : Word) (s : State) : Host.Outcome State Fault Refusal := .next (writeClkDiv v.toNat s)

/-- CLOCK_SWITCH_STEP: the domain that is next in the order has switched (R343, R344). -/
def execClockSwitchStep (dom : Nat) (s : State) : Host.Outcome State Fault Refusal := .next (switchDomain dom s)

/-- CLOCK_SWITCH_FORCED: the old clock had stopped (R345): a hub domain that is next in the order switches by force; a tile's
LPLL switch of this moment is found to have been forced. The switch of ACLK away from a lost REFCLK is REFCLK_LOST's own. -/
def execClockSwitchForced (dom : Nat) (t : Tile) (s : State) : Host.Outcome State Fault Refusal :=
  if dom = 4 then
    if (s.tile t).switchAt = some s.now then .next (forced 4 t (s.modTile t (fun k => { k with switchAt := none })))
    else .next s
  else if s.hub.switches.head? = some dom then .next (forced dom 0 (switchDomain dom s))
  else .next s

/-! ### LPLLs (R350 to R353) -/

/-- The lock field and the loss flag of an LPLL: 0 M, 1 S. -/
def lpllLock (t i : Nat) : Fld := if i = 0 then TILE_CLK_STATUS.M_LOCK t else TILE_CLK_STATUS.S_LOCK t
def lpllUnlock (t i : Nat) : Fld := if i = 0 then TILE_CLK_STATUS.M_UNLOCK t else TILE_CLK_STATUS.S_UNLOCK t

/-- The active LPLL of a tile. -/
def activeLpll (s : State) (t : Nat) : Nat := s.fld (TILE_CLK_STATUS.ACTIVE t)

/-- An LPLL loses lock by itself. -/
def loseLpll (t i : Nat) (s : State) : State :=
  if s.flag (lpllLock t i) then
    let s := ((s.setFld (lpllLock t i) 0).setFld (lpllUnlock t i) 1).intBit 5
    s.modHub (fun h => { h with pllLost := setBit h.pllLost (20 + 2 * t + i) true })
  else s

/-- The ports of a tile. -/
def tilePorts (t : Nat) : List Port := (List.finRange 128).filter (fun n => tileOf n == t)

/-- A tile switches to its other LPLL (R346, R350, R351): counted, event 0x1010; calibration runs of the tile and swaps still
copying are abandoned, REFLECT runs end with FAULT, the ports in showtime ask for a fast retrain and those in one restart. -/
def lpllSwitch (t cause : Nat) (s : State) : State :=
  let now := 1 - activeLpll s t
  let s := ((s.setFld (TILE_CLK_STATUS.ACTIVE t) now).inc (TILE_PLL_SWITCHES t)).raise 0x1010 1 [t, now, cause]
  let s := s.modTile t (fun k => { k with switchAt := some s.now })
  let s := abandonRuns 1 (fun r => (servingSensor r.item r.target).1 == t) s
  let s := forEach ((s.tile t).swaps.filter (fun w => w.stage == .copy)) (fun w s => abandonSwap t w 1 0 true s) s
  forEach (tilePorts t) (fun n s =>
    let s := forEach allPairs (fun p s => abortReflect (gpair n p) 6 s) s
    forEach (activeLinks s n) (fun l s => showLink l (requestForced l 9 s)) s) s

/-- SWAP is written (R353): to the standby when it is locked; ignored otherwise. -/
def swapLpll (t : Nat) (s : State) : State :=
  if s.flag (lpllLock t (1 - activeLpll s t)) then lpllSwitch t 2 s else s.setFld (TILE_CLK_STATUS.CMD_IGNORED t) 1

/-- LPLL_ACTIVE_UNLOCK: the active LPLL loses lock while the other is locked (R350). -/
def execLpllActiveUnlock (t : Tile) (s : State) : Host.Outcome State Fault Refusal :=
  let a := activeLpll s t
  if s.flag (lpllLock t a) && s.flag (lpllLock t (1 - a)) then .next (lpllSwitch t 1 (loseLpll t a s)) else .next s

/-- LPLL_BOTH_UNLOCK: neither LPLL of a tile is locked any more (R352): the tile coasts, its ports go down with cause PLL, event
0x1011. -/
def execLpllBothUnlock (t : Tile) (s : State) : Host.Outcome State Fault Refusal :=
  if !s.flag (TILE_CLK_STATUS.M_LOCK t) && !s.flag (TILE_CLK_STATUS.S_LOCK t) then .next s
  else
    let s := (loseLpll t 1 (loseLpll t 0 s)).setFld (TILE_CLK_STATUS.COASTING t) 1
    let s := s.raise 0x1011 2 [t]
    .next (forEach (tilePorts t) (fun n s => forEach (activeLinks s n) (fun l s => dropLink l 6 s) s) s)

/-- LPLL_STANDBY_UNLOCK: an LPLL that is not active loses lock (R353). -/
def execLpllStandbyUnlock (t : Tile) (s : State) : Host.Outcome State Fault Refusal :=
  let i := 1 - activeLpll s t
  if s.flag (lpllLock t i) && s.flag (lpllLock t (1 - i)) then .next ((loseLpll t i s).raise 0x1012 0 [t, i, 0]) else .next s

/-- LPLL_RELOCK: LPLL-M or, with `sub`, LPLL-S relocks (R349, R352, R353): beside a locked one it becomes the standby; when
neither was locked the tile runs on it. -/
def execLpllRelock (t : Tile) (sub : Bool) (s : State) : Host.Outcome State Fault Refusal :=
  let i := sub.toNat
  if !s.flag CLK_STATUS.REF_QUAL || s.flag (lpllLock t i) || (s.dom (0x020 + t)).state != 3 then .next s
  else
    let alone := bit s.hub.pllLost (20 + 2 * t + i)
    let other := s.flag (lpllLock t (1 - i))
    let s := (s.setFld (lpllLock t i) 1).modHub (fun h => { h with pllLost := setBit h.pllLost (20 + 2 * t + i) false })
    if other then .next (if alone then s.raise 0x1012 0 [t, i, 1] else s)
    else
      let s := s.setFld (TILE_CLK_STATUS.COASTING t) 0
      .next (if activeLpll s t = i then s else lpllSwitch t 3 s)

/-- LPLL_SWAP: TILE_CLK_CTRL.SWAP is written (R353). -/
def execLpllSwap (t : Tile) (s : State) : Host.Outcome State Fault Refusal := .next (swapLpll t s)

/-! ### HPLLs (R354) -/

/-- The lanes of an octet that are REPLACED. -/
def replacedLanes (s : State) (o : Nat) : Nat := ((List.range 8).filter (fun i => laneState s (8 * o + i) == 4)).length

/-- HPLL_UNLOCK: the HPLL of an octet loses lock: counted, flagged, event 0x1020 with the lanes that a spare took over (R354). -/
def execHpllUnlock (o : Octet) (s : State) : Host.Outcome State Fault Refusal :=
  if !s.flag (CLK_HPLL_STATUS.LOCKED o) then .next s
  else
    let s := (s.setFld (CLK_HPLL_STATUS.LOCKED o) 0).setFld (CLK_HPLL_STATUS.COASTING o) 1
    let s := (s.setFld (CLK_HPLL_STATUS.UNLOCK o) 1).intBit 5
    let s := s.setFld (CLK_HPLL_STATUS.LOSSES o) (s.fld (CLK_HPLL_STATUS.LOSSES o) + 1)
    let s := s.modHub (fun h => { h with pllLost := setBit h.pllLost o true })
    let before := replacedLanes s o
    let s := octetFails o s
    .next (s.raise 0x1020 2 [o, replacedLanes s o - before])

/-- HPLL_RELOCK: the HPLL of a powered octet locks; its lanes that wait enter ACQUIRE; event 0x1021 after a loss of its own
(R349, R354). -/
def execHpllRelock (o : Octet) (s : State) : Host.Outcome State Fault Refusal :=
  if !s.flag CLK_STATUS.REF_QUAL || s.flag (CLK_HPLL_STATUS.LOCKED o) || (s.dom (0x040 + o)).state != 3 then .next s
  else
    let s := (s.setFld (CLK_HPLL_STATUS.LOCKED o) 1).setFld (CLK_HPLL_STATUS.COASTING o) 0
    let alone := bit s.hub.pllLost o
    let s := octetLocks o (s.modHub (fun h => { h with pllLost := setBit h.pllLost o false }))
    .next (if alone then s.raise 0x1021 0 [o] else s)

/-! ### The hub PLL and the ring PLL (R355) -/

/-- The accepted TIMETABLE frames queued in every direction (R355). -/
def queuedFrames (s : State) : Nat :=
  (s.queues.map (fun q => ((q.2.tx ++ q.2.rx).filter (fun f => f.tt && !f.os && f.state == .accepted)).length +
    (q.2.cwUnits.filter (fun u => u.due.isSome)).length + 2 * (q.2.cwRxDue.filter (fun d => d.isSome)).length)).sum

/-- HUB_PLL_UNLOCK: the hub PLL loses lock with REFCLK qualified: every accepted TIMETABLE frame and codeword expires with cause CLOCK,
event 0x1030; line links stay (R259, R355). -/
def execHubPllUnlock (s : State) : Host.Outcome State Fault Refusal :=
  if !s.flag CLK_STATUS.REF_QUAL || !s.flag CLK_STATUS.HUBPLL_LOCK then .next s
  else
    let s := clkFlag 3 (s.setFld CLK_STATUS.HUBPLL_LOCK 0)
    let s := s.modHub (fun h => { h with hubLostAt := some s.now })
    let s := s.raise 0x1030 2 [queuedFrames s]
    .next (forEach (List.finRange 128) (fun n s => showBeds n (forEach (portLinks n) (fun l s =>
      let s := expireFrames l .rx (fun _ => true) 4 (expireFrames l .tx (fun _ => true) 4 s)
      expireRxCodewords l (fun _ => true) 4 (expireCodewords l (fun _ => true) 4 s)) s)) s)

/-- HUB_PLL_RELOCK: the hub PLL locks; admission resumes; event 0x1031 with the duration of a loss of its own (R355). -/
def execHubPllRelock (s : State) : Host.Outcome State Fault Refusal :=
  if !s.flag CLK_STATUS.REF_QUAL || s.flag CLK_STATUS.HUBPLL_LOCK then .next s
  else
    let s := s.setFld CLK_STATUS.HUBPLL_LOCK 1
    match s.hub.hubLostAt with
    | some a => .next ((s.modHub (fun h => { h with hubLostAt := none })).raise 0x1031 0 [s.now - a])
    | none => .next s

/-- The inputs of the rings lose their clock or their device: out of sync, with nothing counted (log entry 22). -/
def dropSync (s : State) : State :=
  ((s.setFld MR_STATUS.MR0_SYNC 0).setFld MR_STATUS.MR1_SYNC 0).modHub (fun h => { h with lost0 := none, lost1 := none })

/-- RING_PLL_UNLOCK: the ring PLL alone loses lock: the bypass closes, event 0x9010 (R355, R392). -/
def execRingPllUnlock (s : State) : Host.Outcome State Fault Refusal :=
  if !s.flag CLK_STATUS.REF_QUAL || !s.flag CLK_STATUS.RINGPLL_LOCK then .next s
  else .next (dropSync ((clkFlag 4 (s.setFld CLK_STATUS.RINGPLL_LOCK 0)).raise 0x9010 1 []))

/-- RING_PLL_RELOCK: the ring PLL locks; the device rejoins the ring (R349, R355). -/
def execRingPllRelock (s : State) : Host.Outcome State Fault Refusal :=
  if !s.flag CLK_STATUS.REF_QUAL then .next s else .next (s.setFld CLK_STATUS.RINGPLL_LOCK 1)

/-! ### REFCLK (R337, R338, R347 to R349) -/

/-- Every PLL coasts and shows no lock (R347). Nothing is counted as a loss of a PLL's own (log entry 21). -/
def allCoast (s : State) : State :=
  let s := (s.setFld CLK_STATUS.HUBPLL_LOCK 0).setFld CLK_STATUS.RINGPLL_LOCK 0
  let s := s.modHub (fun h => { h with hubLostAt := none, pllLost := 0 })
  let s := forEach (List.range 8) (fun t s =>
    if s.flag (TILE_CLK_STATUS.M_LOCK t) || s.flag (TILE_CLK_STATUS.S_LOCK t) then
      ((s.setFld (TILE_CLK_STATUS.M_LOCK t) 0).setFld (TILE_CLK_STATUS.S_LOCK t) 0).setFld (TILE_CLK_STATUS.COASTING t) 1
    else s) s
  forEach (List.range 17) (fun o s =>
    if s.flag (CLK_HPLL_STATUS.LOCKED o) then (s.setFld (CLK_HPLL_STATUS.LOCKED o) 0).setFld (CLK_HPLL_STATUS.COASTING o) 1
    else s) s

/-- Host lanes lose their clock: eye scans end, checkers lose lock, and each enabled lane that no spare replaces waits for its
HPLL to enter ACQUIRE (R271, R284, R347, R349). -/
def lanesIdle (s : State) : State :=
  forEach (List.range 136) (fun h s =>
    let s := prbsUnlock h (abortEye h s)
    let on := if h < 128 then s.flag (HL_CFG.ENABLE h) && !(s.lane h).barred && laneState s h != 4
              else isWarm s (h - 128) && !(s.lane h).barred && spareState s (h - 128) != 0
    if on then setLocks h 0 (s.modLane h (fun k => { k with hpllDown := true })) else s) s

/-- A line port in start-up, showtime or fast retrain, which REFCLK loss brings down. -/
def onLine (s : State) (n : Port) : Bool := (activeLinks s n).any (fun l => isUp s l || (inStartup s l && (s.link l).phase != 10))

/-- REFCLK_LOST: a missing edge is declared on a qualified REFCLK (R347): PLLs coast, lanes go idle, ACLK is forced to AOSC,
ports go down with REFLOSS, calibration runs are abandoned (R489), REFLECT runs end (R332), the bypass closes, event 0x1001
with the ports that went down. -/
def execRefclkLost (s : State) : Host.Outcome State Fault Refusal :=
  if !s.flag CLK_STATUS.REF_QUAL then .next s
  else
    let s := clkFlag 0 ((s.setFld CLK_STATUS.REF_QUAL 0).setFld CLK_STATUS.REF_LOST 1)
    let s := lanesIdle (allCoast s)
    let s := forced 0 0 ((s.setFld CLK_STATUS.ACLK_AOSC 1).inc CLK_SWITCHES)
    let down := ((List.finRange 128).filter (onLine s)).length
    let s := abandonRuns 3 (fun _ => true) s
    let s := forEach (List.finRange 128) (fun n s =>
      let s := forEach allPairs (fun p s => abortReflect (gpair n p) 6 s) s
      forEach (activeLinks s n) (fun l s => dropLink l 5 s) s) s
    let s := dropSync (s.modHub (fun h => { h with refLostAt := some s.now }))
    .next ((s.inc CLK_REF_LOSSES).raise 0x1001 2 [down])

/-- REFCLK_QUALIFIED: 4096 cycles without a missing edge (R337, R338, R349): ACLK switches to REFCLK; after a loss, its flag, its
duration and event 0x1002. The PLLs relock by commands of their own. -/
def execRefclkQualified (s : State) : Host.Outcome State Fault Refusal :=
  if s.flag CLK_STATUS.REF_QUAL then .next s
  else
    let s := (s.setFld CLK_STATUS.REF_QUAL 1).setFld CLK_STATUS.REF_LOST 0
    let s := if s.hub.refLostAt.isSome then storeGen s else s
    let s := if s.flag CLK_STATUS.ACLK_AOSC then (s.setFld CLK_STATUS.ACLK_AOSC 0).inc CLK_SWITCHES else s
    match s.hub.refLostAt with
    | none => .next (s.modHub (fun h => { h with everQual := true }))
    | some a =>
      let d := s.now - a
      let s := (clkFlag 1 (s.modHub (fun h => { h with refLostAt := none }))).setReg CLK_REF_LOST_TIME (word d)
      .next (s.raise 0x1002 0 [d])

end Sys2Proof.Machine
end

