-- ==== Sys2Proof/Machine/RxFront.lean ====
section
/-! DEFINITION. Steps 2 to 7 of the receive chain: full-scale samples, the slow digital gain, the time-domain echo canceller, timing
recovery with its resampler, the shortening equaliser, prefix removal and the transforms (R65, R114, R118, R121 to R125, R130). Word
lengths and roundings, which the spec does not give, are DESIGN CHOICES (log entry 51). -/
namespace Sys2Proof.Machine

/-! ### Angles -/

/-- sin of i/1024 turn in 2^-14, for the first quarter. -/
def sineTable : List Int :=
  [0, 101, 201, 302, 402, 503, 603, 704, 804, 904, 1005, 1105, 1205, 1306, 1406, 1506, 1606, 1706, 1806, 1906, 2006, 2105,
   2205, 2305, 2404, 2503, 2603, 2702, 2801, 2900, 2999, 3098, 3196, 3295, 3393, 3492, 3590, 3688, 3786, 3883, 3981, 4078,
   4176, 4273, 4370, 4467, 4563, 4660, 4756, 4852, 4948, 5044, 5139, 5235, 5330, 5425, 5520, 5614, 5708, 5803, 5897, 5990,
   6084, 6177] ++
  [6270, 6363, 6455, 6547, 6639, 6731, 6823, 6914, 7005, 7096, 7186, 7276, 7366, 7456, 7545, 7635, 7723, 7812, 7900, 7988,
   8076, 8163, 8250, 8337, 8423, 8509, 8595, 8680, 8765, 8850, 8935, 9019, 9102, 9186, 9269, 9352, 9434, 9516, 9598, 9679,
   9760, 9841, 9921, 10001, 10080, 10159, 10238, 10316, 10394, 10471, 10549, 10625, 10702, 10778, 10853, 10928, 11003,
   11077, 11151, 11224, 11297, 11370, 11442, 11514] ++
  [11585, 11656, 11727, 11797, 11866, 11935, 12004, 12072, 12140, 12207, 12274, 12340, 12406, 12472, 12537, 12601, 12665,
   12729, 12792, 12854, 12916, 12978, 13039, 13100, 13160, 13219, 13279, 13337, 13395, 13453, 13510, 13567, 13623, 13678,
   13733, 13788, 13842, 13896, 13949, 14001, 14053, 14104, 14155, 14206, 14256, 14305, 14354, 14402, 14449, 14497, 14543,
   14589, 14635, 14680, 14724, 14768, 14811, 14854, 14896, 14937, 14978, 15019, 15059, 15098] ++
  [15137, 15175, 15213, 15250, 15286, 15322, 15357, 15392, 15426, 15460, 15493, 15525, 15557, 15588, 15619, 15649, 15679,
   15707, 15736, 15763, 15791, 15817, 15843, 15868, 15893, 15917, 15941, 15964, 15986, 16008, 16029, 16049, 16069, 16088,
   16107, 16125, 16143, 16160, 16176, 16192, 16207, 16221, 16235, 16248, 16261, 16273, 16284, 16295, 16305, 16315, 16324,
   16332, 16340, 16347, 16353, 16359, 16364, 16369, 16373, 16376, 16379, 16381, 16383, 16384] ++
  [16384]

/-- The sine of i/1024 turn, and cosine and sine of it, in 2^-14. -/
def sineAt (i : Nat) : Int :=
  let j := i % 1024
  if j < 256 then sineTable.getD j 0 else if j < 512 then sineTable.getD (512 - j) 0
  else if j < 768 then -sineTable.getD (j - 512) 0 else -sineTable.getD (1024 - j) 0
def turnAt (i : Nat) : Cx := (sineAt (i + 256), sineAt i)

/-- A value turned back by an angle in turns: by the nearest 1/1024 turn, the rest as a small angle, 2π as 710/113. -/
def turnBack (a : Rat) (x : Cx) : Cx :=
  let i := (a * 1024 + 1 / 2).floor
  let r := (a - i / 1024) * 710 / 113
  let y := x.mul (turnAt (i % 1024).toNat).conj
  (((y.1 + r * y.2) / 16384).floor, ((y.2 - r * y.1) / 16384).floor)

/-- The angle of a value in turns, from -1/2 to 1/2: the nearest 1/1024 turn, the rest as a small angle. -/
def turnsOf (v : Cx) : Rat :=
  let along (i : Nat) : Int := let e := turnAt i; v.1 * e.1 + v.2 * e.2
  let i := (List.range 1024).foldl (fun b i => if along b < along i then i else b) 0
  let e := turnAt i
  (if i ≤ 512 then (i : Rat) else (i : Rat) - 1024) / 1024 + ((v.2 * e.1 - v.1 * e.2 : Int) : Rat) / along i * 113 / 710

/-! ### Steps 2 and 3: the ADC and the slow gain -/

/-- An ADC sample stands at full scale (R118). -/
def isFullScale (xs : List Int) : Bool := xs.any (fun v => decide (Config.adcFull ≤ v.natAbs))

/-- The factor of a slow gain of c/16 dB in 2^-12, rounded down: the largest g with g^320 ≤ 2^3840 10^c (R118). -/
def gainFactor (c : Int) : Nat :=
  (List.range 15).reverse.foldl (fun g i =>
    let d := g + 2 ^ i
    if (d ^ 64) ^ 5 * 10 ^ (-c).toNat ≤ (2 ^ 192) ^ 20 * 10 ^ c.toNat then d else g) 0

/-- Step 3: the samples after the slow digital gain (R118). -/
def slowGain (s : State) (n p : Nat) (xs : List Int) : List Int :=
  let f : Int := gainFactor (signed 12 (s.fld (PAIR_AGC.DGAIN n p)))
  xs.map (fun x => x * f / 4096)

/-! ### Step 4: the time-domain echo canceller (R125, R130) -/

/-- Transmit samples of a front end in a window, from 384 before its start on. -/
def txSamples (x : RxWindow) (g : Nat) : List Int := ((x.refs.find? (fun r => r.g == g)).map (·.samples)).getD []

/-- The taps of the shortening equaliser and of E2, as MEM 0x0 and MEM 0x1 hold them (R150). -/
def tapsOf (s : State) (n p mem : Nat) : List Int :=
  (List.range (memEntries mem)).map (fun i => signed 16 (coefEntry s n p mem mem i).toNat)

/-- The transmit samples that the 128 taps see at sample i of the window: from TD_DELAY = d samples back, newest first. -/
def echoSamples (tx : List Int) (d i : Nat) : List Int := ((tx.drop (384 + i - d - 127)).take 128).reverse

/-- A sum of products of taps and samples. -/
def products (ws xs : List Int) : Int := (List.zipWith (· * ·) ws xs).sum

/-- Step 4: the samples less the echo that E2 models; taps in 2^-15. -/
def lessEcho (ws : List Int) (d : Nat) (tx xs : List Int) : List Int :=
  xs.zipIdx.map (fun x => x.1 - products ws (echoSamples tx d x.2) / 32768)

/-- The taps after a symbol by sign-error LMS with step 2^-mu: e the time-domain error, what step 4 leaves (R130); a tap saturates at its
limit of ±(1 - 2^-15) (R132). -/
def echoStep (ws : List Int) (mu d : Nat) (tx err : List Int) : List Int :=
  ws.zipIdx.map (fun w =>
    let g := (err.zipIdx.map (fun e => e.1.sign * tx.getD (384 + e.2 - d - w.2) 0)).sum
    max (-32767) (min 32767 (w.1 + g / 2 ^ mu)))

/-! ### Step 5: the resampler and its loop (R121 to R123) -/

/-- The place of far sample j after the first, in own samples of 2^-40, at a far frequency of `freq`/2^40 above the own one. -/
def farSpan (freq : Int) (j : Nat) : Int := j * 2 ^ 80 / (2 ^ 40 + freq)

/-- Step 5: `count` samples at the far rate from a phase on, with a resolution of 1/512 sample, by linear interpolation. -/
def resample (phase freq : Int) (count : Nat) (xs : List Int) : List Int :=
  (List.range count).map (fun j =>
    let q := (phase + farSpan freq j) / 2 ^ 31
    let i := (q / 512).toNat
    let f := q % 512
    (xs.getD i 0 * (512 - f) + xs.getD (i + 1) 0 * f) / 512)

/-- The far frequency that a pair's resampler follows: the mean of the estimates of the pairs that carry coaches, in BREAKOUT, or before
any carries, its own (R121). -/
def sharedFreq (s : State) (l : LinkId) (p : Nat) : Int :=
  match (maskPairs (coachMask s l .rx)).map (fun q => (s.pair l.n q).trFreq) with
  | [] => (s.pair l.n p).trFreq
  | fs => fs.sum / (fs.length : Int)

/-- 3500 ppm, the range of the loop (R122). -/
def freqLimit : Int := 3500 * 2 ^ 40 / 1000000

/-- A timing offset in 1/512 sample goes through the third-order loop: the rate, the frequency, and the phase of the next window, which
also moves on by what 1120 far samples last in own ones; each whole sample of it is a step of the resampler (R121, R123). -/
def stepLoop (l : LinkId) (p : Nat) (t : Int) (s : State) : State :=
  let q := s.pair l.n p
  let bw := s.fld (PORT_RX_CFG.TR_BW l.n)
  let part (i : Nat) : Int := t * 2 ^ 31 / 2 ^ Config.loopShift bw i
  let rate := q.trRate + part 2
  let phase := q.trPhase + (farSpan (sharedFreq s l p) 1120 - 1120 * 2 ^ 40) - part 0
  (s.modPair l.n p (fun q => { q with
    trPhase := phase % 2 ^ 40, trFreq := max (-freqLimit) (min freqLimit (q.trFreq + rate + part 1)), trRate := rate })).addTo
    (PAIR_TR_SLIP l.n p) (phase / 2 ^ 40).natAbs

/-- A frequency of the loop in 0.01 ppm, and back (R151). -/
def shownFreq (f : Int) : Int := f * 100000000 / 2 ^ 40
def loopFreq (v : Int) : Int := v * 2 ^ 40 / 100000000

/-- PAIR_TR_FREQ of a link's pairs (R121). -/
def showFreq (l : LinkId) (s : State) : State :=
  forEach (linkPairs l) (fun p s => s.setFld (PAIR_TR_FREQ.FREQ l.n p) (unsigned 32 (shownFreq (sharedFreq s l p)))) s

/-! ### Steps 6 and 7: shortening, prefix removal, transforms (R65, R124) -/

/-- Step 6, and the prefix off: the 1024 samples after the first 96, through the 64 taps in 2^-14. -/
def shorten (ws xs : List Int) : List Int :=
  (List.range 1024).map (fun i => products ws ((xs.drop (i + 33)).take 64).reverse / 16384)

/-- Step 7: X(k) = Σ x(n) exp(-2πj k n / 1024) in the unit of a receive value, 2^-5 of that of a sample (R65, R67). -/
def dftAt (xs : List Int) (k : Nat) : Cx :=
  let x := xs.zipIdx.foldl (fun (a : Cx) x =>
    let e := turnAt (x.2 * k)
    (a.1 + x.1 * e.1, a.2 - x.1 * e.2)) (0, 0)
  (x.1 / 2 ^ 19, x.2 / 2 ^ 19)
def dft (xs : List Int) : List Cx := (List.range 512).map (dftAt xs)

/-- What steps 2 to 7 give for a symbol of a pair: the transforms of the window and of its references; the samples after step 4 and the
own transmit samples, for the adaptation of E2; the energy of the resampled samples; a sample at full scale. -/
structure RxBins where
  p : Pair
  start : Int
  fft : List Cx
  refs : List RefBins
  err : List Int
  tx : List Int
  energy : Nat
  full : Bool

/-- Steps 2 to 7 of a pair's symbol (R114). Nothing is heard on a pair whose receive output is discarded (R527). The references pass
through the same resampler, and not through the shortening equaliser, which is part of the echo's path (R114, R125). -/
def rxFront (s : State) (l : LinkId) (x : RxWindow) : RxBins :=
  let n := l.n
  let p := x.p
  let q := s.pair n p
  let f := sharedFreq s l p
  let tx := txSamples x (gpair n p)
  let err := lessEcho (tapsOf s n p 1) (s.fld (PAIR_ECHO_STATUS.TD_DELAY n p)) tx (slowGain s n p x.adc)
  let ys := resample q.trPhase f 1120 err
  { p := p, start := x.start, err := err, tx := tx,
    fft := if muted s n p then [] else dft (shorten (tapsOf s n p 0) ys),
    refs := x.refs.map (fun r => ⟨r.g, dft ((resample q.trPhase f 1120 (r.samples.drop 384)).drop 96)⟩),
    energy := (ys.map (fun y => y.natAbs * y.natAbs)).sum, full := isFullScale x.adc }

end Sys2Proof.Machine
end

