-- ==== Sys2Proof/Machine/LineReceive.lean ====
section
/-! DEFINITION. The receive chain from step 8 on: near-end cancellation, the FEXT equaliser, pilot phase correction, decoding,
decisions and errors, the adaptation that uses them, the quality figures drawn from them, reassembly of the port stream (R87 to R91,
R94, R99, R100, R114, R121, R125, R130, R134 to R147, R186). -/
namespace Sys2Proof.Machine

/-! ### Steps 8 and 9: cancellation and equalisation -/

/-- The reference transform of a front end in a receive window, at subcarrier k; 0 where the window has none. -/
def refAt (w : List RefBins) (g k : Nat) : Cx :=
  match w.find? (fun r => r.g == g) with
  | some r => r.bins.getD k (0, 0)
  | none => (0, 0)

/-- The reference windows of a pair from the current one back (R125). -/
def refWindows (s : State) (n : Nat) (x : RxBins) : List (List RefBins) := x.refs :: (s.pair n x.p.val).refs

/-- A coefficient of a pair's memory. -/
def coefAt (s : State) (n p mem i : Nat) : Cx := cxOf (coefEntry s n p mem mem i)

/-- A pair that stands in the sum of its port's cancellers: neither dead nor quiet (R55 rows 32 and 33, R134). -/
def isAggressor (s : State) (n : Port) (p : Pair) : Bool :=
  (!isFallen (s.link (linkOfPair s n p)) p.val || reflecting s (gpair n p)) && !(s.pair n p).quiet

/-- The subcarriers on which a partner pair transmits inside this link's receive band (R55 row 22). -/
def partnerHits (s : State) (l : LinkId) (p : Pair) (k : Nat) : Bool :=
  let me := s.link l
  let pl := linkOfPair s (partner l.n) p
  !me.splitband || (inBand (senderLower me .rx) k && ownIndex (s.link pl).splitband (senderLower (s.link pl) .tx) k)

/-- The aggressors of a pair at a subcarrier: memory, first index, front end (R59, R134, R150): the other pairs of the port, not in
SPLITBAND; in BUNDLE the partner's four. -/
def aggressors (s : State) (l : LinkId) (v : Pair) (k : Nat) : List (Nat × Nat × Nat) :=
  let n := l.n
  let own := ([0, 1, 2, 3] : List Pair).filter (· != v)
  let own := (own.zipIdx.filter (fun x => isAggressor s n x.1)).map (fun x => (3, 1024 * x.2, gpair n x.1.val))
  let q := partner n
  let far := (([0, 1, 2, 3] : List Pair).filter (fun p => isAggressor s q p && partnerHits s l p k)).map (fun p =>
    (4, 1024 * p.val, gpair q p.val))
  (if (s.link l).splitband then [] else own) ++ (if inEffect s n mBUNDLE then far else [])

/-- The near-end canceller's terms at a subcarrier, as (memory, index, reference): E3 over D depths, not in SPLITBAND (R125, R133), and
the aggressors over two (R134). -/
def nearTerms (s : State) (l : LinkId) (ws : List (List RefBins)) (v : Pair) (k : Nat) : List (Nat × Nat × Cx) :=
  let n := l.n.val
  let depth := if (s.link l).splitband then 0 else s.fld (PAIR_ECHO_STATUS.DEPTH n v)
  (List.range depth).map (fun m => (2, 512 * m + k, refAt (ws.getD m []) (gpair n v) k)) ++
  (aggressors s l v k).flatMap (fun a => [0, 1].map (fun m => (a.1, a.2.1 + 512 * m + k, refAt (ws.getD m []) a.2.2 k)))

/-- The FFT output of a pair after step 8: the terms, coefficients in 2^-13, are subtracted (R114, R125, R134, R150). -/
def cancelled (s : State) (l : LinkId) (x : RxBins) (k : Nat) : Cx :=
  let sum := Cx.sum ((nearTerms s l (refWindows s l.n x) x.p k).map (fun t => (coefAt s l.n x.p t.1 t.2.1).mul t.2.2))
  (x.fft.getD k (0, 0)).sub (sum.1 / 8192, sum.2 / 8192)

/-- The one of a pair's last windows that starts nearest a sample count, the newer on a tie (R137). -/
def nearestOut (at_ : Int) (ws : List (Int × List Cx)) : Option (Int × List Cx) :=
  ws.foldl (fun b w => match b with
    | none => some w
    | some x => if (w.1 - at_).natAbs < (x.1 - at_).natAbs then some w else some x) none

/-- In BREAKOUT, the other sub-links' outputs at a window of pair v: each aggressor's from its nearest window, turned by the phase of the
offset between the two starts (R137); none of a quiet pair, whose column is left out (R136). -/
def otherOutputs (s : State) (n : Port) (x : RxBins) (k : Nat) : List (Nat × Cx) :=
  (allPairs.filter (fun c => c != x.p.val && !(s.pair n c).quiet)).filterMap (fun c =>
    (nearestOut x.start (s.pair n c).rxOut).map (fun w =>
      (c, turnBack (((w.1 - x.start) * k : Int) / 1024 : Rat) (w.2.getD k (0, 0)))))

/-- The FFT outputs of the port's pairs after step 8: those of the pairs that have a window in this symbol (R136), in BREAKOUT also the
nearest ones of the other sub-links (R137). -/
def outputs (s : State) (l : LinkId) (xs : List RxBins) (k : Nat) : List (Nat × Cx) :=
  xs.map (fun x => (x.p.val, cancelled s l x k)) ++ (if l.sub.isSome then xs.flatMap (fun x => otherOutputs s l.n x k) else [])

/-- The equalised value of pair p (R136): row p of W over the outputs, W in 2^-8. -/
def equalised (s : State) (l : LinkId) (ys : List (Nat × Cx)) (p k : Nat) : Cx :=
  let sum := Cx.sum (ys.map (fun y => (coefAt s l.n p 5 (512 * y.1 + k)).mul y.2))
  (sum.1 / 256, sum.2 / 256)

/-! ### Step 10: pilot phase (R121) -/

/-- The pilots that a direction's receiver uses: in SPLITBAND the far end's (R121). -/
def rxPilots (k : LinkSt) : List Nat := (List.range 512).filter (fun i => isPilot i && ownIndex k.splitband (senderLower k .rx) i)

/-- The pilot point (R68), in the unit of a receive value. -/
def pilotPoint : Cx := (64, 64)

/-- The straight line a + b k through phase errors (k, φ) by least squares: common phase and slope (R121). -/
def fitLine (xs : List (Nat × Rat)) : Rat × Rat :=
  let n : Rat := xs.length
  let sx : Rat := (xs.map (fun x => (x.1 : Rat))).sum
  let sy := (xs.map (·.2)).sum
  let sxx : Rat := (xs.map (fun x => (x.1 * x.1 : Rat))).sum
  let sxy := (xs.map (fun x => (x.1 : Rat) * x.2)).sum
  let d := n * sxx - sx * sx
  let b := if d = 0 then 0 else (n * sxy - sx * sy) / d
  (if n = 0 then 0 else (sy - b * sx) / n, b)

/-- Phases in turns that follow each other in ascending frequency, each taken at the whole turn nearest the one before. -/
def unwrap : Option Rat → List (Nat × Rat) → List (Nat × Rat)
  | _, [] => []
  | none, (k, a) :: rest => (k, a) :: unwrap (some a) rest
  | some b, (k, a) :: rest => let a := a + (b - a + 1 / 2).floor; (k, a) :: unwrap (some a) rest

/-- The phase errors of the received pilots against (+1, +1) in turns, and their fit: common phase, and timing offset as the slope across
frequency (R121). A pilot without amplitude has no phase. -/
def pilotFit (vs : List (Nat × Cx)) : Rat × Rat :=
  fitLine (unwrap none ((vs.filter (fun v => v.2 != (0, 0))).map (fun v => (v.1, turnsOf (v.2.mul (1, -1))))))

/-- The pilot phase correction of a value at subcarrier k (R114 step 10). -/
def derotate (f : Rat × Rat) (k : Nat) (x : Cx) : Cx := turnBack (f.1 + f.2 * k) x

/-- The slope as a timing offset in 1/512 sample: a slope of 1/1024 turn is one sample (R121). -/
def timingOf (slope : Rat) : Int := (slope * 524288).floor

/-- What one pair's symbol gives after step 10: its values at the pilots, and at any subcarrier. -/
structure RxPairValues where
  p : Pair
  fit : Rat × Rat
  pilots : List (Nat × Cx)

/-- Steps 8 to 10 of a pair's symbol. -/
def pairValues (s : State) (l : LinkId) (xs : List RxBins) (p : Pair) : RxPairValues :=
  let vs := (rxPilots (s.link l)).map (fun k => (k, equalised s l (outputs s l xs k) p k))
  let f := pilotFit vs
  ⟨p, f, vs.map (fun v => (v.1, derotate f v.1 v.2))⟩

/-- The value of a pair at a subcarrier after step 10. -/
def valueAt (s : State) (l : LinkId) (xs : List RxBins) (v : RxPairValues) (k : Nat) : Cx :=
  derotate v.fit k (equalised s l (outputs s l xs k) v.p k)

/-! ### Step 11: decoding data symbols (R139, R140) -/

/-- The point of a label, in the unit of a receive value. -/
def pointOf (b c : Nat) : Cx := let x := labelPoint b c; (64 * x.1, 64 * x.2)

/-- The squared distance of two values. -/
def distance (x y : Cx) : Nat := ((x.1 - y.1) * (x.1 - y.1) + (x.2 - y.2) * (x.2 - y.2)).toNat

/-- The label nearest a value among `cs`, with its squared distance; the first on a tie. -/
def nearestPoint (b : Nat) (x : Cx) (cs : List Nat) : Nat × Nat :=
  cs.foldl (fun best c => let d := distance x (pointOf b c); if d < best.2 then (c, d) else best)
    (cs.headD 0, distance x (pointOf b (cs.headD 0)))

/-- The nearest point of each of the four cosets of a subcarrier (R82, R139): label, and squared distance over σ²(k), in 2^-32. -/
def cosetNearest (b : Nat) (x : Cx) (sigma : Nat) : List (Nat × Nat) :=
  (List.range 4).map (fun v =>
    let r := nearestPoint b x ((List.range (2 ^ (b - 2))).map (fun i => v + 4 * i))
    (r.1, r.2 * 2 ^ 40 / max 1 sigma))

/-- A branch that survives: u1, u2, u3 and the labels of the two subcarriers. -/
structure Branch where
  u1 : Bool
  u2 : Bool
  u3 : Bool
  c1 : Nat
  c2 : Nat

/-- The number of a trellis state: r1 is bit 0 (log entry 51), and the state of a number. -/
def trellisNum (r : Trellis) : Nat := r.1.toNat + 2 * r.2.1.toNat + 4 * r.2.2.1.toNat + 8 * r.2.2.2.toNat
def trellisOf (i : Nat) : Trellis := (bit i 0, bit i 1, bit i 2, bit i 3)

/-- A path: its metric and its branches, newest first. -/
abbrev Path := Nat × List Branch

/-- The better of two paths into a state: the first on a tie. -/
def betterPath (a b : Option Path) : Option Path :=
  match a, b with
  | none, y => y
  | x, none => x
  | some x, some y => if y.1 < x.1 then some y else some x

/-- One 4D symbol of the decoder (R80 to R83, R139): `left` counts the 4D symbols from it to the last; in the last three only the
branch that closes the trellis is possible. The survivor from the lower-numbered state is kept on a tie. -/
def viterbiStep (left : Nat) (a b : List (Nat × Nat)) (ps : List (Option Path)) : List (Option Path) :=
  let moves := (List.range 16).flatMap (fun i =>
    let r := trellisOf i
    let us := if left ≤ 3 then [closing r left] else [(false, false), (false, true), (true, false), (true, true)]
    us.map (fun u =>
      let (u0, r') := trellisStep r u.1 u.2
      let best := [false, true].map (fun u3 =>
        let (v, w) := cosetLabels u0 u.1 u.2 u3
        let x := a.getD v (0, 0)
        let y := b.getD w (0, 0)
        (x.2 + y.2, Branch.mk u.1 u.2 u3 x.1 y.1))
      let m := match best with
        | [x, y] => if y.1 < x.1 then y else x
        | _ => (0, ⟨false, false, false, 0, 0⟩)
      (trellisNum r', (ps.getD i none).map (fun (p : Path) => (p.1 + m.1, m.2 :: p.2)))))
  (List.range 16).map (fun j => (moves.filter (fun m => m.1 == j)).foldl (fun x m => betterPath x m.2) none)

/-- Run the decoder over the 4D symbols of a data symbol. -/
def viterbiRun : List (List (Nat × Nat) × List (Nat × Nat)) → List (Option Path) → List (Option Path)
  | [], ps => ps
  | (a, b) :: rest, ps => viterbiRun rest (viterbiStep (rest.length + 1) a b ps)

/-- Group a list into pairs. -/
def inPairs {α : Type} : List α → List (α × α)
  | a :: b :: rest => (a, b) :: inPairs rest
  | _ => []

/-- The branches of the path that starts and ends in state 0 (R139). -/
def viterbi (vs : List (Nat × Cx × Nat)) : List Branch :=
  let fs := (inPairs vs).map (fun x =>
    (cosetNearest x.1.1 x.1.2.1 x.1.2.2, cosetNearest x.2.1 x.2.2.1 x.2.2.2))
  match (viterbiRun fs (some (0, []) :: List.replicate 15 none)).headD none with
  | some p => p.2.reverse
  | none => []

/-- The payload bits of the branches (R80 to R83). -/
def branchBits : List (Nat × Nat) → List Branch → List Bool
  | (b1, b2) :: bs, x :: xs =>
    (if xs.length + 1 ≤ 3 then [] else [x.u1, x.u2]) ++ [x.u3] ++ bitsLsb (b1 - 2) (x.c1 / 4) ++ bitsLsb (b2 - 2) (x.c2 / 4) ++
      branchBits bs xs
  | _, _ => []

/-- Decode a data symbol from (b, value, σ²) of its loaded subcarriers in ascending index: the payload bits, still whitened or scrambled,
and the labels decided (R139 to R141). -/
def decodeSymbol (plain : Bool) (vs : List (Nat × Cx × Nat)) : List Bool × List Nat :=
  if plain then
    let cs := vs.map (fun v => (v.1, (nearestPoint v.1 v.2.1 (List.range (2 ^ v.1))).1))
    (cs.flatMap (fun c => bitsLsb c.1 c.2), cs.map (·.2))
  else
    let xs := viterbi vs
    (branchBits (fourD (vs.map (·.1))) xs, xs.flatMap (fun x => [x.c1, x.c2]))

/-! ### The waymark decoder (R99, R100, R140, R200) -/

/-- A path of the waymark decoder: its metric and decided bits, newest first. -/
abbrev WmPath := Nat × List Bool

def betterWm (a b : Option WmPath) : Option WmPath :=
  match a, b with
  | none, y => y
  | x, none => x
  | some x, some y => if y.1 < x.1 then some y else some x

/-- The QPSK point of a bit pair, in the unit of a receive value. -/
def qpskPoint (c : Bool × Bool) : Cx := let x := qpsk c.1 c.2; (64 * x.1, 64 * x.2)

/-- The coded pair that leaves state i with a bit; the state's bits are the last six, the newest bit 0 (R100). -/
def wmOut (i : Nat) (b : Bool) : Bool × Bool :=
  let o := convStep b (bitsLsb 6 i)
  (o.getD 0 false, o.getD 1 false)

/-- The four coded pairs of states j and j + 32, for each j. -/
def wmOuts : List ((Bool × Bool) × (Bool × Bool) × (Bool × Bool) × (Bool × Bool)) :=
  (List.range 32).map (fun j => (wmOut j false, wmOut j true, wmOut (j + 32) false, wmOut (j + 32) true))

/-- One coded pair of the 64-state decoder: states j and j + 32 lead to 2 j and 2 j + 1. The mask of R100 is taken off the points. -/
def wmStep (ps : List (Option WmPath)) (x : (Bool × Bool) × Cx) : List (Option WmPath) :=
  let d (c : Bool × Bool) : Nat := distance x.2 (qpskPoint ((c.1 != x.1.1), (c.2 != x.1.2)))
  let go (a : Option WmPath) (c : Bool × Bool) (b : Bool) : Option WmPath := a.map (fun p => (p.1 + d c, b :: p.2))
  ((ps.take 32).zip ((ps.drop 32).zip wmOuts)).flatMap (fun y =>
    let o := y.2.2
    [betterWm (go y.1 o.1 false) (go y.2.1 o.2.2.1 false), betterWm (go y.1 o.2.1 true) (go y.2.1 o.2.2.2 true)])

/-- The information bits of the path that starts and ends in state 0. -/
def wmDecode (xs : List Cx) : List Bool :=
  match (((inPairs (waymarkMask (2 * xs.length))).zip xs).foldl wmStep (some (0, []) :: List.replicate 63 none)).headD none with
  | some p => p.2.reverse
  | none => []

/-- The subcarriers that carry the far end's message, and its other data subcarriers, those of the sync sequence (R99). -/
def rxChannel (k : LinkSt) : List Nat := channelSetOf k.splitband (senderLower k .rx)
def rxSync (k : LinkSt) : List Nat :=
  let cs := rxChannel k
  (List.range 512).filter (fun i => ownData k.splitband (senderLower k .rx) i && !cs.contains i)

/-- The sync points (R99). -/
def syncPoints (count : Nat) : List Cx := (inPairs (syncSequence (2 * count))).map qpskPoint

/-- The normalised correlation of received and known points is below 0.5 (R200). -/
def syncMissed (ys zs : List Cx) : Bool :=
  let c := (List.zipWith (fun y z => y.1 * z.1 + y.2 * z.2) ys zs).sum
  let e (xs : List Cx) : Int := (xs.map (fun x => x.1 * x.1 + x.2 * x.2)).sum
  decide (c ≤ 0) || decide (4 * c * c < e ys * e zs)

/-- What a pair heard of a waymark symbol: whether it misses the symbol, the 96 message bits and the CRC-16 that came with them. -/
structure Heard where
  p : Pair
  miss : Bool
  bits : Nat
  crc : Nat
deriving DecidableEq, Repr

/-- The waymark symbol of a pair from its values at the sync and the channel subcarriers (R100, R140, R200). -/
def hearValues (p : Pair) (sync chan : List Cx) : Heard :=
  let info := wmDecode chan
  ⟨p, syncMissed sync (syncPoints sync.length), ofBitsMsb (info.take 96), ofBitsMsb ((info.drop 96).take 16)⟩

/-- Its CRC-16 passes. -/
def Heard.good (h : Heard) : Bool := crc16 (bitsMsb 96 h.bits) == h.crc

/-! ### Decisions, errors, adaptation (R130, R134 to R136, R141) -/

/-- Add errors of a pair to the sums of the stage (R141, R142). -/
def addErrors (n p : Nat) (es : List (Nat × Cx)) (s : State) : State :=
  forEach es (fun e s =>
    let key := gpair n p * 512 + e.1 % 512
    let x := SMap.get (fun _ => (0, 0)) s.errs key
    { s with errs := SMap.put (fun _ => (0, 0)) s.errs key (x.1 + distance e.2 (0, 0), x.2 + 1) }) s

/-- The sign of a value, as a complex number. -/
def Cx.sign (x : Cx) : Cx := (x.1.sign, x.2.sign)

/-- Memory 2 takes the echo step, memories 3 and 4 the crosstalk step; the partner's coefficients move only while the partner is in
showtime (R130, R134, R135). -/
def stepShift (s : State) (n : Port) (mem : Nat) : Nat :=
  if mem = 2 then s.fld (PORT_ECHO_ADAPT.ECHO_MU n) else s.fld (PORT_ECHO_ADAPT.XT_MU n)
def mayStep (s : State) (n : Port) (mem : Nat) : Bool := mem != 4 || portShow s (partner n)

/-- Write a moved coefficient. -/
def moveCoef (n p mem i : Nat) (d : Cx) (s : State) : State := s.setCoef (gpair n p) mem i (wordOfCx ((coefAt s n p mem i).add d))

/-- A symbol of the far end is received on the link: its direction is in no depth, or in a refresh or wake sequence (R292). -/
def rxHears (k : LinkSt) : Bool := !rxAsleep k || refreshStage k || k.eei.alertSyms.isSome

/-- A maintenance swap copies the slice of a pair: the pair's adaptation is held (R538 step 2). -/
def copying (s : State) (n p : Nat) : Bool :=
  let g := gpair n p
  (s.tile (pairTile g)).swaps.any (fun w => w.stage == .copy && w.old == pairSlice s g)

/-- E2 takes its step by the time-domain error of the symbol (R130). -/
def adaptEcho (n p : Nat) (x : RxBins) (s : State) : State :=
  let ws := echoStep (tapsOf s n p 1) (s.fld (PORT_ECHO_ADAPT.ECHO_MU n)) (s.fld (PAIR_ECHO_STATUS.TD_DELAY n p)) x.tx x.err
  forEach ws.zipIdx (fun w s => s.setCoef (gpair n p) 1 w.2 (word (unsigned 16 w.1))) s

/-- The coefficients of a pair move by its errors: E2, E3 and NEXT by sign-error LMS with steps 2^-ECHO_MU and 2^-XT_MU, row p of W by
LMS with a step that the spec does not give (R130, R134 to R136; log entry 3). -/
def adaptPair (l : LinkId) (xs : List RxBins) (x : RxBins) (es : List (Nat × Cx)) (s : State) : State :=
  let n := l.n
  let p := x.p.val
  let k := s.link l
  if !mayAdapt s n || copying s n p || k.phase != 7 || !rxHears k then s
  else adaptEcho n p x <| forEach es (fun e s =>
    let k := e.1
    let ys := outputs s l xs k
    let s' := forEach (nearTerms s l (refWindows s n x) x.p k) (fun t s =>
      if mayStep s n t.1 then
        let d := (Cx.sign e.2).mul t.2.2.conj
        let u : Int := 64 * 2 ^ stepShift s n t.1
        moveCoef n p t.1 t.2.1 (d.1 * 8192 / u, d.2 * 8192 / u) s
      else s) s
    forEach ys (fun y s =>
      let d := e.2.mul y.2.conj
      let u : Int := 16 * 2 ^ Config.weightShift
      moveCoef n p 5 (512 * y.1 + k) (-(d.1 / u), -(d.2 / u)) s) s') s

/-! ### A symbol of a pair -/

/-- The active receive table is in use: from the decision of R184 on. -/
def usesTable (k : LinkSt) : Bool := k.decided || k.phase == 7

/-- The table that receives on a pair: none is loaded before the decision of R184. -/
def rxTable (s : State) (l : LinkId) (p : Nat) : List Nat := if usesTable (s.link l) then s.active l.n p .rx else []

/-- The loaded subcarriers of a table. -/
def loadedIndices (t : List Nat) : List Nat := (List.range 512).filter (fun k => decide (2 ≤ entryB (t.getD k emptyEntry)))

/-- σ²(k) of a pair in 1/256 of its unit (R142). -/
def State.sigmaOf (s : State) (g k : Nat) : Nat := SMap.get (fun _ => 0) s.sigma (g * 512 + k)

/-- The payload bits of a pair's data symbol and the errors of its loaded subcarriers (R139 to R141). -/
def decodePair (s : State) (l : LinkId) (xs : List RxBins) (v : RxPairValues) : List Bool × List (Nat × Cx) :=
  let t := rxTable s l v.p
  let ks := loadedIndices t
  let vs := ks.map (fun k => (entryB (t.getD k emptyEntry), valueAt s l xs v k, s.sigmaOf (gpair l.n v.p) k))
  let r := decodeSymbol (plainRx (s.link l)) vs
  (r.1, (ks.zip (vs.zip r.2)).map (fun x => (x.1, x.2.1.2.1.sub (pointOf x.2.1.1 x.2.2))))

/-- The errors of a pair's pilots (R141). -/
def pilotErrors (v : RxPairValues) : List (Nat × Cx) := v.pilots.map (fun x => (x.1, x.2.sub pilotPoint))

/-- What a pair keeps of a symbol: its references, in BREAKOUT its outputs; timing offset, energy and clipping of the stage (R118, R121,
R125, R137). A symbol with a full-scale sample is counted (R151). -/
def keepSymbol (s0 : State) (l : LinkId) (x : RxBins) (t : Int) (s : State) : State :=
  let out := if l.sub.isSome then [(x.start, (List.range 512).map (cancelled s0 l x))] else []
  (s.modPair l.n x.p (fun q => { q with
    refs := (x.refs :: q.refs).take 8, rxOut := (out ++ q.rxOut).take 4, timeSum := q.timeSum + t, timeCount := q.timeCount + 1,
    energy := (q.energy.1 + x.energy, q.energy.2 + 1120), clipNow := q.clipNow + x.full.toNat })).addTo
    (PAIR_ADC_CLIP l.n x.p) x.full.toNat

/-- A symbol of a pair has come: the errors `snr` are summed for its quality figures, the coefficients move by `es`, the timing loop
takes its step (R121, R130, R141, R142). -/
def takeSymbol (l : LinkId) (xs : List RxBins) (x : RxBins) (v : RxPairValues) (es snr : List (Nat × Cx)) (s : State) : State :=
  let t := timingOf v.fit.2
  let a := keepSymbol s l x t (adaptPair l xs x es (addErrors l.n x.p snr s))
  if rxHears (s.link l) then stepLoop l x.p t a else a

/-! ### PRBS checked (R42, R53, R185, R186) -/

/-- Check bits against the generator that runs from the history `h`: the count of wrong bits, and the new history, newest first. -/
def prbsErrors (poly : Nat) (bs : List Bool) (h : List Bool) : Nat × List Bool :=
  let x := prbs poly bs.length h
  (((xorBits bs x).filter id).length, (x.reverse ++ h).take 31)

/-- The state of a checker not yet locked: history, newest first, and how far it is: 31 bits fill it, 31 further ones that each follow
from those before lock it (DESIGN CHOICE, log entry 51). -/
def prbsSeek (poly : Nat) : List Bool → List Bool × Nat → List Bool × Nat
  | [], x => x
  | b :: bs, (h, r) =>
    if 62 ≤ r then ((prbs poly (bs.length + 1) h).reverse ++ h |>.take 31, r)
    else
      let ok := (prbs poly 1 h) == [b]
      prbsSeek poly bs ((b :: h).take 31, if r < 31 ∨ (ok ∧ h.any id) then r + 1 else 31)

/-- The checker of a pair named by the far end takes a data symbol's bits: a locked one counts the wrong bits, another seeks its lock
(R42, R53). -/
def checkPattern (n : Port) (p : Nat) (bs : List Bool) (s : State) : State :=
  let q := s.pair n p
  let lock := s.fld (PORT_PATTERN_STATUS.RX_LOCK n)
  if bit lock p then
    let r := prbsErrors q.farPoly bs q.prbsRx
    (s.modPair n p (fun q => { q with prbsRx := r.2 })).addTo (PORT_PATTERN_ERR n p) r.1
  else
    let r := prbsSeek q.farPoly bs (q.prbsRx, q.prbsRun)
    let s := s.modPair n p (fun q => { q with prbsRx := r.1, prbsRun := r.2 })
    if 62 ≤ r.2 then s.setFld (PORT_PATTERN_STATUS.RX_LOCK n) (setBit lock p true) else s

/-! ### A data symbol of a link -/

/-- A pair's payload without its whitening or scrambling (R79, R87, R114 step 12); PRBS is not whitened. -/
def openPayload (l : LinkId) (p : Nat) (isPrbs : Bool) (bs : List Bool) (s : State) : List Bool × State :=
  let k := s.link l
  let q := s.pair l.n p
  if plainRx k then
    let r := descramble bs q.descrambler
    (r.1, s.modPair l.n p (fun q => { q with descrambler := r.2 }))
  else if isPrbs then (bs, s)
  else
    let j := (s.queue l).rxSym
    (xorBits bs ((whitening k.far p (bs.length * (j + 1))).drop (bs.length * j)), s)

/-- The words of R94: 16 bits of each list in turn. -/
def mergeWords : Nat → List (List Bool) → List Bool
  | 0, _ => []
  | fuel + 1, xs => if xs.all (·.isEmpty) then [] else xs.flatMap (·.take 16) ++ mergeWords fuel (xs.map (·.drop 16))

/-- Coach-stream bits from the port stream of a data symbol: as they are, or in REACH those of each interleave pair that is complete,
M in a stage, with the counts of R112 (R88 to R91). -/
def takeStream (l : LinkId) (bs : List Bool) (s : State) : State :=
  let k := s.link l
  if !isReach k then s.modQueue l (fun q => { q with rxBits := q.rxBits ++ bs.map (fun b => (b, false)) })
  else
    let c := (s.queue l).rxCoded ++ bs
    if c.length < 10880 ∨ reachM (shareStream l k.streamRx) ≤ (s.queue l).rxIlv then s.modQueue l (fun q => { q with rxCoded := c })
    else
      let r := openPair (c.take 10880)
      let s := ((s.add64 (PORT_RS_CW l.n) 2).add64 (PORT_RS_CORR_SYM l.n) r.2.1).addTo (PORT_RS_UNCORR l.n) r.2.2
      s.modQueue l (fun q => { q with rxCoded := c.drop 10880, rxIlv := q.rxIlv + 1, rxBits := q.rxBits ++ r.1 })

/-- The data symbols of G5 carry PRBS31 (R185, R190, R307). -/
def verifying (k : LinkSt) : Bool :=
  (k.decided && (k.phase == 6 || k.phase == 8)) ||
  (k.eei.partialFr && decide (112 ≤ (k.own + 2 ^ 32 - k.eei.partialAt) % 2 ^ 32))

/-! ### Training points (R141, R181, R190, R307) -/

/-- The stage of the far end's sequence; in a partial fast retrain, where each end's index is its own timer, this end's (R179, R307). -/
def farSeq (k : LinkSt) : Nat := seqStage (if k.eei.partialFr then k else { k with own := k.far })

/-- The stages in which SNR(k) is measured on training points: G4a, FR-G4a, stages 96 to 111 of a partial fast retrain. -/
def snrStage (k : LinkSt) : Bool :=
  let i := farSeq k
  (k.phase == 5 && decide (4096 ≤ i ∧ i < 5120)) || (k.phase == 8 && decide (96 ≤ i ∧ i < 128)) ||
  (k.eei.partialFr && decide (96 ≤ i ∧ i < 112))

/-- The errors of a pair's training data symbol j against the known points (R176, R181). -/
def trainErrors (s : State) (l : LinkId) (xs : List RxBins) (v : RxPairValues) (j : Nat) : List (Nat × Cx) :=
  let k := s.link l
  let ks := (List.range 512).filter (ownData k.splitband (senderLower k .rx))
  let w := 2 * ks.length
  let i := 63 * farSeq k + j
  let zs := (inPairs ((trainingBits v.p (w * (i + 1))).drop (w * i))).map qpskPoint
  (ks.zip zs).map (fun x => (x.1, (valueAt s l xs v x.1).sub x.2))

/-! ### A wake in the receive direction (R304) -/

/-- The receive direction has resumed: its coach stream starts again at bit 0. -/
def openRx (l : LinkId) (s : State) : State :=
  (modEei l (fun e => { e with rxQuiet := false, alertSyms := none }) s).modQueue l (fun q => { q with
    rxBits := [], rxCoded := [], rxPartAt := none })

/-- The symbol that comes is the first one at least N symbols after the far end's first alert symbol. -/
def atResume (k : LinkSt) : Bool :=
  k.eei.rxQuiet && decide (1 ≤ k.eei.depth ∧ k.eei.depth ≤ 2) &&
  (k.eei.alertSyms.any (fun c => decide ((if k.eei.depth = 1 then 64 else 256) ≤ c)))

/-- A symbol after the alerts is counted; a data symbol from the Nth on, outside REACH, is the resume symbol. -/
def countAlert (l : LinkId) (s : State) : State :=
  let k := s.link l
  if atResume k && !isReach k then openRx l s
  else modEei l (fun e => { e with alertSyms := e.alertSyms.map (· + 1) }) s

/-- A far stage begins: in REACH it is the one after the Nth symbol that resumes, in Long Stay stage V. -/
def resumeAtStage (l : LinkId) (s : State) : State :=
  let k := s.link l
  if (atResume k && isReach k) || (k.eei.rxQuiet && k.eei.depth == 3 && k.showStage.any (reached k.far)) then openRx l s else s

/-! ### A data symbol of a link, continued -/

/-- The history of the far end's PRBS31 of verification on a pair at data symbol j of the running far stage: `net` bits in each of 62
symbols of a stage since its start with all ones, NET of the pair's table (R185). -/
def verifyHistory (s : State) (l : LinkId) (p j : Nat) : List Bool :=
  let k := s.link l
  let t := s.active l.n p .rx
  let i := farSeq k - (if k.eei.partialFr then 112 else verifyStage k)
  ((prbs 3 ((62 * i + (j - 1)) * net (plainRx k) t) (List.replicate 31 true)).reverse ++ List.replicate 31 true).take 31

/-- A data symbol of a link (R53, R87, R94, R114, R139 to R141, R181, R186): pilots always; in showtime the coaches' share of each
carrying pair and the PRBS of the pairs the far end names; in verification PRBS31 in data symbols 2 to 63; where SNR is measured
on training the errors of its points. Each symbol decoded on a pair is counted (R151). -/
def rxSymbol (l : LinkId) (rx : List RxWindow) (s : State) : State :=
  let s := countAlert l s
  let xs := rx.map (rxFront s l)
  let k := s.link l
  let n := l.n
  let j := (s.queue l).rxSym
  if 63 ≤ j then s
  else
    let ps := (linkPairs l).filter (fun p => xs.any (fun x => x.p.val == p))
    let show_ := showDir k .rx && !rxAsleep k
    let prbs_ := !show_ && verifying k && decide (1 ≤ j)
    let mask := coachMask s l .rx
    let decodes (p : Nat) : Bool := (show_ && (bit mask p || bit (s.port n).farPmask p)) || (prbs_ && bit k.carryRx p)
    let dec (x : RxBins) : RxBins × RxPairValues × List Bool × List (Nat × Cx) :=
      let v := pairValues s l xs x.p
      if decodes x.p then (x, v, decodePair s l xs v)
      else (x, v, [], if snrStage k then trainErrors s l xs v j else [])
    let ds := (xs.filter (fun x => ps.contains x.p.val)).map dec
    let s := forEach ds (fun d s =>
      let es := pilotErrors d.2.1 ++ d.2.2.2
      takeSymbol l xs d.1 d.2.1 es es (s.add64 (PAIR_VIT_SYMS n d.1.p) (decodes d.1.p).toNat)) s
    let bitsOf (p : Nat) : List Bool := match ds.find? (fun d => d.1.p.val == p) with
      | some d => d.2.2.1
      | none => []
    let s := if show_ then
        let s := forEach (ps.filter (bit (s.port n).farPmask)) (fun p s =>
          let r := openPayload l p true (bitsOf p) s
          checkPattern n p r.1 r.2) s
        let r := (maskPairs mask).foldl (fun (a : List (List Bool) × State) p =>
          let r := openPayload l p false (bitsOf p) a.2
          (a.1 ++ [r.1.take (dirShare s l .rx)], r.2)) ([], s)
        takeStream l (mergeWords 4096 r.1) r.2
      else if prbs_ then
        let r := (maskPairs k.carryRx).foldl (fun (a : Nat × State) p =>
          let o := openPayload l p true (bitsOf p) a.2
          let h := (o.2.pair n p).prbsRx
          let e := prbsErrors 3 o.1 (if h.isEmpty then verifyHistory s l p j else h)
          (a.1 + e.1, o.2.modPair n p (fun q => { q with prbsRx := e.2 }))) (0, s)
        r.2.modLink l (fun k => { k with errSyms := k.errSyms + (decide (0 < r.1) && countsVerify k).toNat })
      else s
    s.modQueue l (fun q => { q with rxSym := q.rxSym + 1 })
where
  /-- The far stages over which R186 counts: from 512 before the result on, in a fast retrain from 160, in a partial one from 128. -/
  countsVerify (k : LinkSt) : Bool :=
    if k.phase = 8 then decide (160 ≤ (k.far + 2 ^ 32 - k.frStage) % 2 ^ 32 ∧ (k.far + 2 ^ 32 - k.frStage) % 2 ^ 32 ≤ 207)
    else if k.eei.partialFr then decide (128 ≤ (k.own + 2 ^ 32 - k.eei.partialAt) % 2 ^ 32 ∧ (k.own + 2 ^ 32 - k.eei.partialAt) % 2 ^ 32 ≤ 143)
    else decide (5504 ≤ k.far ∧ k.far ≤ 6015)

/-! ### A waymark symbol of a pair -/

/-- What a pair hears, and its errors: pilots; the sync points; the re-encoded message where its CRC-16 passes (R99, R100, R140,
R141). -/
def hearPair (s : State) (l : LinkId) (xs : List RxBins) (v : RxPairValues) : Heard × List (Nat × Cx) × List (Nat × Cx) :=
  let k := s.link l
  let cs := rxChannel k
  let ss := rxSync k
  let ys := ss.map (valueAt s l xs v)
  let zs := cs.map (valueAt s l xs v)
  let h := hearValues v.p ys zs
  let code := (inPairs (waymarkCode h.bits h.crc)).map qpskPoint
  let es := (ss.zip (List.zipWith Cx.sub ys (syncPoints ss.length))) ++
    (if h.good then cs.zip (List.zipWith Cx.sub zs code) else [])
  -- every error adapts (R141); loaded subcarriers draw their SNR from data symbols alone (R142)
  let t := rxTable s l v.p
  (h, pilotErrors v ++ es, pilotErrors v ++ es.filter (fun e => decide (entryB (t.getD e.1 emptyEntry) < 2)))

/-- A waymark symbol of a link: what each of its pairs heard, and the errors taken (R140 to R142). -/
def rxWaymark (l : LinkId) (rx : List RxWindow) (s : State) : List Heard × State :=
  let s := modEei l (fun e => { e with alertSyms := e.alertSyms.map (· + 1) }) s
  let xs := rx.map (rxFront s l)
  let mine := xs.filter (fun x => (linkPairs l).contains x.p.val)
  let ds := mine.map (fun x => let v := pairValues s l xs x.p; (x, v, hearPair s l xs v))
  (ds.map (fun d => d.2.2.1), forEach ds (fun d s => takeSymbol l xs d.1 d.2.1 d.2.2.2.1 d.2.2.2.2 s) s)

/-! ### Quality figures (R142, R144, R147) -/

/-- The largest c below 2^w with 10^c den^m ≤ num^m: m/10 of the ratio's dB value, rounded down. -/
def ratioCode (w m num den : Nat) : Nat :=
  (List.range w).reverse.foldl (fun c i => let d := c + 2 ^ i; if 10 ^ d * den ^ m ≤ num ^ m then d else c) 0

/-- The SNR code of Es over σ²: 0.25 dB, rounded down, at most 63.75 dB (R142). -/
def snrCode (es sigma : Nat) : Nat := if sigma = 0 then 255 else ratioCode 8 40 es sigma

/-- The energy of the constellation in use at a subcarrier, in the unit of |e(k)|²: its table's, or QPSK (R142). -/
def energyAt (t : List Nat) (k : Nat) : Nat :=
  let b := entryB (t.getD k emptyEntry)
  4096 * (if 2 ≤ b then constellationEnergy b else 2)

/-- The errors of a subcarrier over this stage. -/
def State.errOf (s : State) (g k : Nat) : Nat × Nat := SMap.get (fun _ => (0, 0)) s.errs (g * 512 + k)

/-- σ²(k) after a stage: the exponential average of the stage's mean of |e(k)|², the first mean itself (R142). -/
def nextSigma (avg old : Nat) (x : Nat × Nat) : Nat :=
  let m := 256 * x.1 / x.2
  if old = 0 then m else ((old : Int) + ((m : Int) - old) / (avg : Int)).toNat

/-- Mean SNR of the pilots over the stage, from the stage's errors alone (R147), where any pilot was received. -/
def pilotSnr (s : State) (l : LinkId) (p : Nat) : Option Nat :=
  let g := gpair l.n p
  let cs := (rxPilots (s.link l)).filterMap (fun k =>
    let x := s.errOf g k
    if x.2 = 0 then none else some (snrCode (2 * 4096 * x.2) x.1))
  if cs.isEmpty then none else some (cs.sum / cs.length)

/-- SNR(k) of a pair after a stage: of the data subcarriers that the far end transmits and that had errors (R142). -/
def updateSnr (l : LinkId) (p avg : Nat) (s : State) : State :=
  let g := gpair l.n p
  let k := s.link l
  let t := rxTable s l p
  forEach ((List.range 512).filter (fun i => decide ((s.errOf g i).2 ≠ 0) && ownData k.splitband (senderLower k .rx) i)) (fun i s =>
    let v := nextSigma avg (s.sigmaOf g i) (s.errOf g i)
    let s := { s with sigma := SMap.put (fun _ => 0) s.sigma (g * 512 + i) v }
    s.setSnr l.n p i (snrCode (256 * energyAt t i) v)) s

/-- EVM of a pair in 0.1 dB, rounded down: Σ σ²(k) over Σ Es(k) of its loaded subcarriers (R144); with no error -204.7 dB. -/
def evmOf (s : State) (l : LinkId) (p : Nat) : Int :=
  let t := rxTable s l p
  let ks := loadedIndices t
  let e := (ks.map (fun k => s.sigmaOf (gpair l.n p) k)).sum
  let es := 256 * (ks.map (energyAt t)).sum
  if es ≤ e then ratioCode 11 100 e es
  else if e = 0 then -2047
  else
    let c := ratioCode 11 100 es e
    if 10 ^ c * e ^ 100 = es ^ 100 then -c else -(c : Int) - 1

/-- A stage's sums are dropped. -/
def clearErrors (n p : Nat) (s : State) : State :=
  let g := gpair n p
  ({ s with errs := s.errs.filter (fun x => x.1 / 512 != g) }).modPair n p (fun q => { q with
    timeSum := 0, timeCount := 0, energy := (0, 0) })

end Sys2Proof.Machine
end

