-- ==== Sys2Proof/Machine/Modes.lean ====
section
/-! DEFINITION. The mode commands: writes of PORT_MODE, local modes taking effect, negotiated changes proposed,
answered and applied, PATTERN error injection (R40 to R60, R220, R221, R590). -/
namespace Sys2Proof.Machine

/-! ### Shared parts -/

/-- The TRANSPARENT stream of the port's host lane (R58). -/
def transStream (s : State) (n : Port) : Nat := if halfRate s n then 5 else 4

/-- Part 1 of R58: in both directions the TRANSPARENT share over the pairs that carry coaches lies within the highest NET of
the coding and band plan; never after a fallback (R55 row 47). -/
def transparentFits (s : State) (l : LinkId) : Bool :=
  let k := s.link l
  let ok (d : Dir) : Bool := !(coachList s l d).isEmpty &&
    decide (streamShare s l d (transStream s l.n) ≤ maxNet (codingOf k d) k.splitband (senderLower k d))
  l.sub.isNone && k.deadMask == 0 && ok .tx && ok .rx

/-- The active tables of a direction that carries TRANSPARENT reach its share (R58). -/
def transparentCarried (s : State) (l : LinkId) (d : Dir) : Bool :=
  decide (streamOf (s.link l) d < 4) || (maskPairs (carryOf (s.link l) d)).all (fun p =>
    decide (dirShare s l d ≤ net (codingOf (s.link l) d) (s.active l.n.val p d)))

/-- The highest tier, not above `top`, whose share every carrying pair's table of a direction allows (R184). -/
def tierByNet (s : State) (l : LinkId) (d : Dir) (top : Nat) : Nat :=
  let k := s.link l
  let ps := maskPairs (carryOf k d)
  let fits (t : Nat) : Bool := ps.all (fun p =>
    decide (streamShare s l d t ≤ net (codingOf k d) (s.active l.n.val p d)))
  ((List.range 4).filter (fun t => decide (top ≤ t))).find? fits |>.getD 3

/-- Put the stream of a direction in force. -/
def setStream (l : LinkId) (d : Dir) (x : Nat) (s : State) : State :=
  s.modLink l (fun k => match d with
    | .tx => { k with streamTx := x }
    | .rx => { k with streamRx := x })

/-- A direction leaves the TRANSPARENT stream for the highest tier its tables allow (R58, R184). -/
def loseStream (l : LinkId) (d : Dir) (s : State) : State := setStream l d (tierByNet s l d (s.link l).maxTier) s

/-- TRANSPARENT leaves effect for want of capacity: the port terminates RS, and a direction that carried its stream carries
the highest tier its tables allow (R58, R184). -/
def loseTransparent (l : LinkId) (s : State) : State :=
  let s := s.modLink l (fun k => { k with capacityLow := true })
  forEach [Dir.tx, Dir.rx] (fun d s =>
    if streamOf (s.link l) d < 4 then s else loseStream l d s) s

/-- The receive tables of every carrying pair for a stream, coding and target; none where one does not load. -/
def computeAll (s : State) (l : LinkId) (plain : Bool) (stream target : Nat) : Option (List (Nat × List Nat)) :=
  let k := s.link l
  let ps := maskPairs k.carryRx
  let ts := ps.map (fun p => (p, computeTable s l plain p stream (streamPairs s l .rx stream) target))
  if ts.all (fun x => x.2.isSome) then some (ts.map (fun x => (x.1, x.2.getD []))) else none

/-- The indices k of the SWAP_ENTRY messages still to send from index `i` on (R205). -/
def entryPlan (act new : List Nat) : Nat → Nat → List Nat
  | 0, _ => []
  | fuel + 1, i =>
    if 495 < i then []
    else if act.getD i emptyEntry != new.getD i emptyEntry then i :: entryPlan act new fuel (i + 2)
    else entryPlan act new fuel (i + 1)

/-- Write computed receive tables into the receive shadows and begin to send their entries (R212). The wait code is
the tier, 4 or 5 for TRANSPARENT, 6 and 7 for setting and clearing PLAIN. -/
def beginEntries (l : LinkId) (wait : Nat) (ts : List (Nat × List Nat)) (s : State) : State :=
  let n := l.n
  let s := forEach ts (fun x s =>
    (s.setBank n x.1 .rx (shadowBank s n x.1 .rx) x.2).modPair n x.1 (fun k => { k with
      swap := .entries, nextEntry := 4 })) s
  let s := forEach ts (fun x s => s.setFld (PAIR_SWAP_STATUS.TO_SEND n x.1)
    (min 255 (entryPlan (s.active n x.1 .rx) x.2 492 4).length)) s
  s.modLink l (fun k => { k with rateWait := some wait })

/-- Start the table exchange of TRANSPARENT or PLAIN on a link (R45, R58); while another exchange or a bit swap uses the
shadows it waits. Where the tables of TRANSPARENT do not load it shows CAPACITY; where those of PLAIN do not, the change is not
proposed and shows DECLINED (log entry 48). -/
def beginModeTables (l : LinkId) (b : Nat) (on : Bool) (s : State) : State :=
  let k := s.link l
  if k.rateWait.isSome || (linkPairs l).any (fun p => swapBusy s l p) then
    s.modLink l (fun k => { k with modeAsk := k.modeAsk.filter (fun x => x.1 != b) ++ [(b, on)] })
  else if b = mTRANSPARENT then
    if !transparentFits s l then s.modLink l (fun k => { k with capacityLow := true })
    else match computeAll s l (plainRx k) (transStream s l.n) (targetMargin s l.n) with
      | some ts => beginEntries l (transStream s l.n) ts s
      | none => s.modLink l (fun k => { k with capacityLow := true })
  else
    match computeAll s l on k.streamRx (targetMargin s l.n) with
    | some ts => beginEntries l (if on then 6 else 7) ts s
    | none => s.modLink l (fun k => { k with declined := setBit k.declined b true })

/-- A table exchange that waited begins once the shadows are free (R45, R214). -/
def startModeAsk (l : LinkId) (s : State) : State :=
  let k := s.link l
  if k.phase != 7 || k.rateWait.isSome || (linkPairs l).any (fun p => swapBusy s l p) then s
  else match k.modeAsk with
    | [] => s
    | (b, on) :: rest => beginModeTables l b on (s.modLink l (fun k => { k with modeAsk := rest }))

/-- While TRANSPARENT is set, shows CAPACITY and part 1 of R58 holds, part 2 is judged: the tables are computed and, where they
load, exchanged (R58). -/
def retryTransparent (l : LinkId) (s : State) : State :=
  let k := s.link l
  if l.sub.isNone && k.phase == 7 && bit (modeSet s l.n) mTRANSPARENT && k.capacityLow && transparentFits s l &&
      k.rateWait.isNone && !linkPending s l mTRANSPARENT && (linkPairs l).all (fun p => !swapBusy s l p) then
    beginModeTables l mTRANSPARENT true s
  else s

/-- TRANSPARENT may stay in effect over the present pairs: part 1 of R58 holds, and the tables in use reach the share that these
pairs give. -/
def transparentStands (s : State) (l : LinkId) : Bool :=
  transparentFits s l && transparentCarried s l .tx && transparentCarried s l .rx

/-- The carrying pairs, the coding or the band plan have changed: part 1 of R58 is judged. TRANSPARENT leaves effect where it
fails, or where the tables in use no longer reach its share; where it holds and TRANSPARENT is out of effect part 2 is judged. -/
def judgeTransparent (l : LinkId) (s : State) : State :=
  retryTransparent l (if bit (s.link l).negotiated mTRANSPARENT && !transparentStands s l then loseTransparent l s else s)

/-- The value of a negotiated mode in effect on a link: SPLITBAND by the band plan, BREAKOUT by the form. -/
def modeNow (s : State) (l : LinkId) (b : Nat) : Bool :=
  let k := s.link l
  if b = mSPLITBAND then k.splitband else if b = mBREAKOUT then l.sub.isSome else bit k.negotiated b

/-- Propose a negotiated change on a link in showtime (R46): TRANSPARENT set and PLAIN first exchange their tables. -/
def proposeMode (l : LinkId) (b : Nat) (on : Bool) (s : State) : State :=
  let k := s.link l
  if k.phase != 7 then s
  else if modeNow s l b == on then
    -- nothing to change: a wait for capacity or tables ends with the bit
    (if k.rateWait.any (fun w => waitMode w == some b) then endExchange l s else s).modLink l (fun k => { k with
      modeAsk := k.modeAsk.filter (fun x => x.1 != b), capacityLow := k.capacityLow && (b != mTRANSPARENT || on) })
  else if b = mSPLITBAND ∧ !on ∧ k.sbAuto then s
  else
    -- an exchange kept after a decline starts over
    let s := if k.rateWait.any (fun w => waitMode w == some b) then endExchange l s else s
    let s := s.modLink l (fun k => { k with declined := setBit k.declined b false, capacityLow := k.capacityLow && b != mTRANSPARENT })
    if (b = mTRANSPARENT ∧ on) ∨ b = mPLAIN then beginModeTables l b on s
    else sendPort l 0x30 none (b + on.toNat * 16) s

/-- After a change of mode `b` has applied or been declined, propose the value last written if it was rewritten while
the change was pending and differs from the value in effect (R47). -/
def afterPending (l : LinkId) (b : Nat) (s : State) : State :=
  if bit (s.port l.n).rewritten b && (s.link l).phase == 7 then
    let s := s.modPort l.n (fun k => { k with rewritten := setBit k.rewritten b false })
    proposeMode l b (bit (modeSet s l.n) b) s
  else s

/-- The writes of negotiated bits that a retrain held back are proposed once the link is in showtime again (R47). -/
def afterRetrain (l : LinkId) (s : State) : State :=
  forEach ((List.range 12).filter (fun b => !isLocalMode b)) (fun b s => afterPending l b s) s

/-- A change of a local mode begins to wait. -/
def waitLocal (n : Port) (b : Nat) (v : Bool) (s : State) : State :=
  s.modPort n (fun k => { k with localWait := setBit k.localWait b true, localVal := setBit k.localVal b v })

/-- The capacity a link will have once a test-mode change applies; TRANSPARENT may leave effect with it. -/
def testCapacity (s : State) (l : LinkId) (b : Nat) (v : Bool) : Nat :=
  let s := s.modPort l.n (fun k => { k with
    localOn := setBit k.localOn b v,
    patMask := if b = mPATTERN then (if v then patternMask s l.n else 0) else k.patMask })
  lineCapacity (if inEffect s l.n mTRANSPARENT && !transparentStands s l then loseTransparent l s else s) l

/-- The change notice of a test mode to the Timetable (R50): a reduction counts at once, until the change has applied. -/
def testNotice (n : Port) (b : Nat) (v : Bool) (s : State) : State :=
  forEach (activeLinks s n) (fun l s =>
    let c := testCapacity s l b v
    if c < (s.queue l).cap then capAwait l c s else s) s

/-- The pairs that PATTERN names change while it is on: the change follows with the next waymark symbol, its notice at once (R53,
R250). -/
def patternNotice (n : Port) (s : State) : State :=
  if localOn s n mPATTERN then testNotice n mPATTERN true s else s

/-- No test-mode change of the port waits: the notices of the capacities that they bring are over (R50). -/
def testSettled (n : Port) (s : State) : State :=
  if testWaiting s n || patternDue s n then s else forEach (activeLinks s n) capDrained s

/-- BUNDLE comes into effect: the cross-port canceller starts from zero coefficients (R45, R135). -/
def startBundle (n : Port) (s : State) : State :=
  ((forEach allPairs (fun p s => clearMem (gpair n p) 4 s) s).setFld (PORT_XT_STATUS.BUNDLE_CONVERGED n) 0).setFld
    (PORT_XT_STATUS.NEXT_PARTNER n) 0

/-- Put a local mode bit in force; BUNDLE from 0 to 1 starts its canceller. -/
def putLocal (n : Port) (b : Nat) (v : Bool) (s : State) : State :=
  let was := bit (s.port n).localOn b
  let s := s.modPort n (fun k => { k with localOn := setBit k.localOn b v })
  if b = mBUNDLE ∧ v ∧ !was then startBundle n s else s

/-- A write of a local mode bit (R45, R48, R50, R590). A change of PATTERN waits until the waymark symbol that announces it. -/
def writeLocal (n : Port) (b : Nat) (v : Bool) (s : State) : State :=
  let k := s.port n
  if bit k.localWait b || (b == mPATTERN && patternDue s n) then s
  else if b ≠ 0 ∧ !portShow s n then putLocal n b v s
  else if bit k.localOn b == v then s
  else
    let s := waitLocal n b v s
    if isTestMode b then
      let s := testNotice n b v s
      if v then wakePort n 3 s else s
    else s

/-- A local change has taken effect: set its bit, and let the value last written wait where it differs (R590). -/
def applyLocal (n : Port) (b : Nat) (s : State) : State :=
  let k := s.port n
  if !bit k.localWait b then s
  else
    let s := putLocal n b (bit k.localVal b) (s.modPort n (fun k => { k with localWait := setBit k.localWait b false }))
    writeLocal n b (bit (modeSet s n) b) s

/-! ### Writes and local modes -/

/-- A write of PORT_MODE: the selected bits take the written values (R42); local changes begin to wait or act at once,
negotiated ones are proposed (R45, R46, R47). -/
def writePortMode (n : Port) (w : Nat) (s : State) : State :=
  let sel := w / 2 ^ 16 % 4096
  let new := (List.range 12).foldl (fun m i => if bit sel i then setBit m i (bit w i) else m) (modeSet s n)
  let s := s.setReg (PORT_MODE n) (word new)
  let s := forEach ((List.range 12).filter (bit sel)) (fun b s =>
    if isLocalMode b then writeLocal n b (bit w b) s
    else if modePending s n b then s.modPort n (fun k => { k with rewritten := setBit k.rewritten b true })
    else forEach (activeLinks s n) (fun l s => proposeMode l b (bit w b) s) s) s
  refreshModes n s

/-- PORT_MODE_WRITE: PORT_MODE is written (R42, R45). -/
def execPortModeWrite (n : Port) (v : Word) (s : State) : Host.Outcome State Fault Refusal := .next (writePortMode n v.toNat s)

/-- TIMETABLE_MODE_APPLY: a frame boundary of host ingress; the waiting TIMETABLE change takes effect (R45, R250).
Frames already stored keep the rule they entered with. -/
def execTimetableModeApply (n : Port) (s : State) : Host.Outcome State Fault Refusal :=
  .next (refreshModes n (if (s.host n).isOpen then s else applyLocal n mTIMETABLE s))

/-- BUNDLE_MODE_APPLY: a stage boundary; the waiting BUNDLE change takes effect, and from 0 to 1 the partner
coefficients start from zero (R45, R135). -/
def execBundleModeApply (n : Port) (s : State) : Host.Outcome State Fault Refusal :=
  .next (refreshModes n (applyLocal n mBUNDLE s))

/-- Every link of the port is out of EEI depths and wakes. -/
def allAwake (s : State) (n : Port) : Bool :=
  (activeLinks s n).all (fun l => !(s.link l).eei.inDepth && (s.link l).eei.waking.isNone)

/-- Every frame committed to the route that the waiting test-mode change replaces has left it (R50): a link outside showtime,
without capacity or without a route holds none (log entry 49); otherwise no frame that came before the notice waits, and with
LOOP_FAR no returned coach. Of codewords no whole coach is left: the rest of their stream goes on with what follows it. -/
def drained (s : State) (n : Port) : Bool :=
  (activeLinks s n).all (fun l =>
    !inShow s l || lineCapacity s l == 0 || !routeNow s l ||
    ((s.queue l).tx.all (fun f => f.held || f.state == .refused || f.blocks.isEmpty) && (s.queue l).loop.isEmpty &&
      decide (cwReady (s.queue l) < 10280)))

/-- Frames held for a new route go on once no test-mode change waits (R50). -/
def releaseHeld (n : Port) (s : State) : State :=
  if testWaiting s n then s
  else forEach (activeLinks s n) (fun l s => s.modQueue l (fun q => { q with
    tx := q.tx.map (fun f => { f with held := false }), cwUnits := q.cwUnits.map (fun u => { u with held := false }) })) s

/-- TEST_MODE_DRAIN_POINT: the committed frames have left the old route; the waiting change of LOOP_NEAR, LOOP_FAR or PATTERN
applies (R50 to R53), PATTERN with the next waymark symbol; capacity and route follow. A port in an EEI depth wakes first; an entry
agreed since the write is aborted (R60). -/
def execTestModeDrainPoint (n : Port) (b : Nat) (s : State) : Host.Outcome State Fault Refusal :=
  if !isTestMode b || !bit (s.port n).localWait b || !allAwake s n || !drained s n then .next s
  else
    let s := releaseHeld n (applyLocal n b s)
    let s := if b = mPATTERN then s else forEach (activeLinks s n) capNotice (testSettled n s)
    let s := if testOn s n then wakePort n 3 s else s
    .next (refreshModes n (forEach (activeLinks s n) showLink (showRoute n s)))

/-- The waymark symbol of a stage announces the PRBS of the link's pairs: a change of PATTERN, PAIR_MASK or POLY acts from this
stage's data symbols (R45, R53); the generator of a pair newly named, or given another polynomial, starts from ones (R185; log
entry 24). The capacity follows, TRANSPARENT is judged, an EEI entry ends (R60), and a value written since waits in its turn (R590). -/
def announcePattern (l : LinkId) (s : State) : State :=
  let n := l.n
  let k := s.port n
  let want := if localOn s n mPATTERN && sendsCoaches (s.link l) then patternMask s n else 0
  let poly := s.fld (PORT_PATTERN_CFG.POLY n)
  let ps := linkPairs l
  let mask := pairsMask (allPairs.filter (fun p => if ps.contains p then bit want p else bit k.patMask p))
  if mask = k.patMask ∧ poly = k.patPoly then testSettled n s
  else
    let fresh := (maskPairs mask).filter (fun p => !bit k.patMask p || poly != k.patPoly)
    let s := forEach fresh (fun p s => s.modPair n p (fun q => { q with prbsTx := List.replicate 31 true, injBits := 0 })) s
    let s := s.modPort n (fun k => { k with patMask := mask, patPoly := poly })
    let s := s.setFld (PORT_PATTERN_STATUS.TX_MASK n) mask
    if mask = k.patMask then testSettled n s
    else
      let s := capNotice l (testSettled n (judgeTransparent l s))
      let s := if k.patMask = 0 then wakePort n 3 s else s
      writeLocal n mPATTERN (bit (modeSet s n) mPATTERN) s

/-- Invert `count` PRBS bits of each named pair in the next data symbol, while PATTERN is in effect (R42). The spec does not say
what two injections before one symbol give, nor which of its bits are inverted: the larger count holds, and the first bits of the
symbol are inverted (DESIGN CHOICE, log entry 47). -/
def injectPattern (n : Port) (count : Nat) (s : State) : State :=
  if inEffect s n mPATTERN then
    forEach (maskPairs (sentPattern s n)) (fun p s =>
      s.modPair n p (fun k => { k with injBits := max k.injBits count })) s
  else s

/-- PATTERN_INJ_SINGLE: INJ_SINGLE written 1 (R42). -/
def execPatternInjSingle (n : Port) (s : State) : Host.Outcome State Fault Refusal := .next (injectPattern n 1 s)

/-- PATTERN_INJ_BURST: INJ_BURST written 1; a BURST_LEN of 0 acts as 1 (R42). -/
def execPatternInjBurst (n : Port) (s : State) : Host.Outcome State Fault Refusal :=
  .next (injectPattern n (max 1 (s.fld (PORT_PATTERN_CFG.BURST_LEN n))) s)

/-! ### Negotiated changes -/

/-- A proposal of this end with a code and stage, and the proposals without it. -/
def proposalAt (k : LinkSt) (code stage : Nat) : Option Proposal :=
  k.proposals.find? (fun q => q.code == code && q.stage == stage)

/-- Take a proposal out. -/
def dropProposal (l : LinkId) (q : Proposal) (s : State) : State :=
  s.modLink l (fun k => { k with proposals := k.proposals.filter (fun x => x != q) })

/-- The message is accepted and acted on: take it out of the inbox. -/
def consume (l : LinkId) (p : Nat) (m : Msg) (s : State) : State :=
  s.modLink l (fun k => { k with inbox := k.inbox.filter (fun x => x != (p, m)) })

/-- Two proposals of one code cross (R47): the higher end keeps its own and answers nothing; the lower end withdraws
its own. Answers whether to reply. -/
def crossing (l : LinkId) (code : Nat) (s : State) : Bool × State :=
  let k := s.link l
  match k.proposals.find? (fun q => q.code == code) with
  | none => (true, s)
  | some q =>
    if isHigher k then (false, s)
    else (true, (dropProposal l q s).modLink l (fun k => { k with withdrawn := k.withdrawn ++ [q] }))

/-- A named stage lies less than four stages ahead (R106). -/
def tooClose (k : LinkSt) (stage : Nat) : Bool := !reached stage (stagePlus k.own 4)

/-- Every SWAP_ENTRY of a pair has been sent and acknowledged (R206). -/
def entriesDone (s : State) (l : LinkId) (p : Nat) : Bool :=
  let q := s.pair l.n.val p
  q.swap == .entries && q.outs.all (fun o => o.msg.code != 0x10) &&
  (entryPlan (s.active l.n p .rx) (s.shadow l.n p .rx) 492 q.nextEntry).isEmpty

/-- Every entry of this end's exchange has been acknowledged on every carrying pair, its own proposal sent or not (R58). -/
def entriesAcked (s : State) (l : LinkId) : Bool :=
  (maskPairs (s.link l).carryRx).all (fun p => entriesDone s l p || (s.pair l.n.val p).swap == .commit)

/-- The transmit shadows of every carrying pair are valid for a coding and a stream's share (R58, R76). -/
def shadowsValid (s : State) (l : LinkId) (plain : Bool) (stream : Nat) : Bool :=
  (maskPairs (s.link l).carry).all (fun p => tableValidFor s l plain p .tx (streamShare s l .tx stream) (s.shadow l.n p .tx))

/-- The reason to decline a mode proposal, or none to accept it (R46, R58, R76, R106, R220, R221). Clearing REACH, TRIPAIR,
TRANSPARENT or PLAIN is accepted whatever this end's own bit; PLAIN in either direction needs its tables exchanged (R45). A proposal
whose stage is both too close and taken is answered STAGE_PAST: the spec gives no order (DESIGN CHOICE, log entry 47). -/
def modeDeclineReason (s : State) (l : LinkId) (b : Nat) (on : Bool) (stage : Nat) : Option Nat :=
  let k := s.link l
  let own := bit (modeSet s l.n) b
  if decide (12 ≤ b) || isLocalMode b then some 2
  else if tooClose k stage then some 3
  else if stageBusy k stage then some 1
  else if b = mSPLITBAND then
    if on && testOn s l.n then some 6 else if !on && own then some 4 else none
  else if b = mBREAKOUT then (if on == own then none else some 4)
  else if on && !own then some 4
  else if b = mTRANSPARENT ∧ on then
    if !transparentFits s l then some 5
    else match k.rateWait with
      | some w =>
        if !((w == 4 || w == 5) && entriesAcked s l) then some 1
        else if shadowsValid s l (isPlain k) w then none else some 2
      | none =>
        if (computeAll s l (plainRx k) (transStream s l.n) (targetMargin s l.n)).isSome then some 1 else some 5
  else if b = mPLAIN then
    match k.rateWait with
    | some w =>
      if !(w == (if on then 6 else 7) && entriesAcked s l) then some 1
      else if shadowsValid s l on k.streamTx then none else some 2
    | none => if (computeAll s l on k.streamRx (targetMargin s l.n)).isSome then some 1 else some 5
  else none

/-- The capacity once a mode change applies: TRANSPARENT's share (R33, R58). -/
def modeCapacity (s : State) (l : LinkId) (b : Nat) (on : Bool) : Nat :=
  if b = mTRANSPARENT ∧ on then
    (carryList s l).length * streamShare s l .tx (transStream s l.n)
  else if b = mREACH ∨ b = mSPLITBAND ∨ b = mBREAKOUT ∨ (b = mTRIPAIR ∧ on) then 0
  else (s.queue l).cap

/-- Agree a mode change at both ends' records (R33, R46). -/
def agreeMode (l : LinkId) (b : Nat) (on : Bool) (stage : Nat) (s : State) : State :=
  capAgree l (modeCapacity s l b on) stage (agree l stage (.mode b on) s)

/-- This end has declined a mode proposal. Of TRANSPARENT set the shadows reload, and this end, if it holds the bit, shows CAPACITY and
judges part 2 again (R58). Of PLAIN declined BUSY this end begins to send its tables, while the proposer keeps its own, so that
the change can be met; after another reason the shadows reload. The spec has neither for PLAIN (DESIGN CHOICE, log entry 48). -/
def declineMode (l : LinkId) (b : Nat) (on : Bool) (r : Nat) (s : State) : State :=
  let mine := (s.link l).rateWait.any (fun w => waitMode w == some b)
  if b = mTRANSPARENT ∧ on then
    let s := if mine then endExchange l s else dropTxTables l s
    s.modLink l (fun k => { k with capacityLow := k.capacityLow || (bit (modeSet s l.n) b && !bit k.negotiated b) })
  else if b = mPLAIN then
    if r = 1 then
      if mine then s else beginModeTables l b on (s.modLink l (fun k => { k with declined := setBit k.declined b false }))
    else if mine then endExchange l s else dropTxTables l s
  else s

/-- MODE_PROPOSE: accepted or declined, the reply naming the proposal's stage (R46, R47). -/
def execModePropose (l : LinkId) (p : Pair) (m : Msg) (s : State) : Host.Outcome State Fault Refusal :=
  let s := consume l p m s
  if (s.link l).phase != 7 then .next s
  else
    let (go, s) := crossing l 0x30 s
    if !go then .next (showLink l s)
    else
      let b := m.arg % 16
      let on := bit m.arg 4
      let st := msgStage m
      match modeDeclineReason s l b on st with
      | some r =>
        .next (showLink l (declineMode l b on r (sendPort l 0x32 (some st) r s)))
      | none =>
        let s := agreeMode l b on st s
        -- its own withdrawn proposal of the same change is met
        let s := s.modLink l (fun k => { k with
          withdrawn := k.withdrawn.filter (fun q => !(q.code == 0x30 && q.arg % 32 == m.arg % 32)) })
        .next (showLink l (sendPort l 0x31 (some st) (m.arg % 32) s))

/-- MODE_ACCEPT: the agreed stage is recorded (R46). Where another change has been agreed for that stage since the proposal, the
accepted change is dropped without a count or a new proposal: the spec does not say what becomes of it (DESIGN CHOICE, log
entry 47). -/
def execModeAccept (l : LinkId) (p : Pair) (m : Msg) (s : State) : Host.Outcome State Fault Refusal :=
  let s := consume l p m s
  match proposalAt (s.link l) 0x30 (msgStage m) with
  | none => .next s
  | some q =>
    let s := dropProposal l q s
    -- at most one change is agreed for a stage (R71)
    .next (showLink l (if agreedAt (s.link l) q.stage then s else agreeMode l (q.arg % 16) (bit q.arg 4) q.stage s))

/-- MODE_DECLINE: the mode shows DECLINED, PORT_MODE_DECLINED counts one; declined tables are reloaded (R46, R58), but for those of
PLAIN that the other end is too BUSY for (DESIGN CHOICE, log entry 48). -/
def execModeDecline (l : LinkId) (p : Pair) (m : Msg) (s : State) : Host.Outcome State Fault Refusal :=
  let s := consume l p m s
  match proposalAt (s.link l) 0x30 (msgStage m) with
  | none => .next s
  | some q =>
    let b := q.arg % 16
    let s := (dropProposal l q s).inc (PORT_MODE_DECLINED l.n)
    -- TRANSPARENT keeps showing CAPACITY, but where the other end does not hold the bit (R46, R58)
    let set := b == mTRANSPARENT && bit q.arg 4
    let keep := set && m.arg % 256 != 4
    let s := s.modLink l (fun k => { k with
      declined := if keep then k.declined else setBit k.declined b true,
      capacityLow := if set then keep else k.capacityLow })
    let s := if set ∨ (b = mPLAIN ∧ m.arg % 256 ≠ 1) then endExchange l s else s
    .next (showLink l (afterPending l b s))

/-- Exchange the banks of a direction on every carrying pair (R73, R213). -/
def swapBanks (l : LinkId) (d : Dir) (s : State) : State :=
  let n := l.n
  forEach (maskPairs (carryOf (s.link l) d)) (fun p s =>
    let s := match d with
      | .tx => s.setFld (PAIR_TBL_STATUS.ACTIVE_TX n p) (1 - s.fld (PAIR_TBL_STATUS.ACTIVE_TX n p))
      | .rx => s.setFld (PAIR_TBL_STATUS.ACTIVE_RX n p) (1 - s.fld (PAIR_TBL_STATUS.ACTIVE_RX n p))
    let s := (s.setFld (PAIR_TBL_STATUS.COPY_BUSY n p) 1).inc (PAIR_TBL_SWAPS n p)
    s.modPair n p (fun k => match d with
      | .tx => { k with copyTx := true }
      | .rx => { k with copyRx := true, swap := .idle })) s

/-- The coding of a direction changes with the tables exchanged for it (R45): the transmit direction's is `negotiated`'s bit, the
receive direction keeps the old or has the new one until both have changed (R198). -/
def applyCoding (l : LinkId) (on : Bool) (d : Dir) (s : State) : State :=
  let s := swapBanks l d s
  s.modLink l (fun k =>
    match d with
    | .tx =>
      let other := plainRx k
      { k with negotiated := setBit k.negotiated mPLAIN on, plainRx := if other = on then none else some other }
    | .rx => { k with plainRx := if isPlain k = on then none else some on })

/-- A mode change reaches one direction of a link (R45, R58, R198). -/
def applyModeDir (l : LinkId) (b : Nat) (on : Bool) (d : Dir) (s : State) : State :=
  if b = mTRANSPARENT then
    if on then setStream l d (transStream s l.n) (swapBanks l d s)
    else setStream l d (tierByNet s l d (s.link l).maxTier) s
  else if b = mPLAIN then applyCoding l on d s
  else s

/-- The fast retrain that a mode change begins: the change waits for its end (R42, R45, R189). -/
def modeRetrain (l : LinkId) (c : Change) (b : Nat) (on : Bool) (s : State) : State :=
  (beginRetrain l c.stage 0xE false s).modLink l (fun k =>
    if k.phase = 8 then { k with retrainModes := [(b, on)] } else k)

/-- A mode change applies from this end's own stage: retrains and restarts (R45, R189, R220, R221). -/
def applyModeWhole (l : LinkId) (c : Change) (b : Nat) (on : Bool) (s : State) : State :=
  let put (s : State) : State := s.modLink l (fun k => { k with negotiated := setBit k.negotiated b on })
  if b = mREACH then modeRetrain l c b on (put s)
  else if b = mSPLITBAND then
    if on then modeRetrain l c b on (clearBands l ((put s).modLink l (fun k => { k with splitband := true, sbAuto := false })))
    else linkDown l 8 s
  else if b = mBREAKOUT then
    if on then linkDown l 8 s
    else forEach (activeLinks s l.n) (fun m s => linkDown m 8 s) s
  else if b = mTRIPAIR then
    if on then modeRetrain l c b on (put s)
    else forEach allPairs (fun p s => forEach [1, 2, 3, 4] (fun set s =>
      (s.setHeldTable l.n p .tx set []).setHeldTable l.n p .rx set []) s) (put s)
  else if b = mPLAIN then s
  else put s

/-- Changes of a mode agreed, earliest first. -/
def modeChangeDue (k : LinkSt) : Option (Change × Nat × Bool) :=
  (k.changes.filterMap (fun c => match c.kind with
    | .mode b on =>
      if (!c.txDone && reached k.own c.stage) || (!c.rxDone && reached k.far c.stage) then some (c, b, on) else none
    | _ => none)).head?

/-- MODE_CHANGE_APPLY: an agreed mode change applies, in each direction at its first stage not earlier than the agreed
one (R198), once (R45, R46). -/
def execModeChangeApply (l : LinkId) (s : State) : Host.Outcome State Fault Refusal :=
  if (s.link l).phase != 7 then .next s
  else match modeChangeDue (s.link l) with
  | none => .next s
  | some (c, b, on) =>
    let k := s.link l
    let tx := !c.txDone && reached k.own c.stage
    let rx := !c.rxDone && reached k.far c.stage
    let c' := { c with txDone := c.txDone || tx, rxDone := c.rxDone || rx }
    let both := c'.txDone && c'.rxDone
    let s := if tx then applyModeDir l b on .tx s else s
    let s := if rx then applyModeDir l b on .rx s else s
    let rest (k : LinkSt) : List Change :=
      if both then k.changes.filter (· != c) else k.changes.map (fun x => if x == c then c' else x)
    let s := s.modLink l (fun k => { k with changes := rest k })
    let twoSided := b == mTRANSPARENT || b == mPLAIN
    -- a retrain or restart begins with this end's own stage and ends the change; the others end with both directions
    let s := if tx && !twoSided then
        applyModeWhole l c b on (s.modLink l (fun k => { k with changes := k.changes.filter (fun x => x != c') }))
      else if tx then applyModeWhole l c b on s
      else s
    let s := if (s.link l).phase = 7 then
        let s := if twoSided && both then endRate l s else s
        let s := if b = mPLAIN ∧ both then judgeTransparent l s else s
        let s := s.modLink l (fun k => { k with lossRun := 0, capacityLow := k.capacityLow && b != mTRANSPARENT })
        capNotice l (if on && !bit (modeSet s l.n) b then s else
          s.modLink l (fun k => { k with declined := setBit k.declined b (!on && bit (modeSet s l.n) b) }))
      else s
    .next (showLink l (afterPending l b s))

end Sys2Proof.Machine
end

