-- ==== Sys2Proof/Machine/Waymark.lean ====
section
/-! DEFINITION. The waymark channel: what each symbol carries, what a received one gives, messages abandoned, stage
counts compared, and the bit-swap and table commands (R69 to R73, R99 to R106, R197 to R207). -/
namespace Sys2Proof.Machine

/-! ### Codes (R102, R104) -/

/-- A code of R102. -/
def knownCode (c : Nat) : Bool :=
  [0x00, 0x01, 0x10, 0x11, 0x12, 0x13, 0x20, 0x21, 0x22, 0x30, 0x31, 0x32, 0x40, 0x41, 0x42, 0x43, 0x44, 0x50, 0x51,
   0x60].contains c

/-- The code uses SEQ and ACK; it names a stage; it has port scope (R102). -/
def ackCode (c : Nat) : Bool := knownCode c && decide (0x10 ≤ c)
def namesStage (c : Nat) : Bool := ackCode c && c != 0x10 && c != 0x60
def portCode (c : Nat) : Bool := knownCode c && decide (0x20 ≤ c)

/-- The priority of a code, 1 first (R104). -/
def prio (c : Nat) : Nat :=
  if c = 0x50 then 1
  else if c = 0x51 ∨ c = 0x60 then 2
  else if c = 0x44 ∨ c = 0x43 then 3
  else if [0x12, 0x13, 0x21, 0x22, 0x31, 0x32, 0x41, 0x42].contains c then 4
  else if [0x11, 0x20, 0x30, 0x40].contains c then 5
  else if c = 0x10 then 6
  else if c = 0x01 then 7
  else 8

/-- Codes acted on at their first good receipt, even out of order (R105). -/
def eagerCode (c : Nat) : Bool := c == 0x50 || c == 0x51 || c == 0x44 || c == 0x43

/-- The code may be sent in the link's phase: in start-up IDLE only, in a fast retrain and in a depth the codes of R190
and R300. -/
def mayCarry (k : LinkSt) (c : Nat) : Bool :=
  if k.phase = 7 then
    if k.eei.inDepth then [0x44, 0x43, 0x50, 0x51, 0x01].contains c else true
  else if k.phase = 8 then [0x01, 0x60, 0x51].contains c
  else false

/-- Pairs that send a waymark message in the running stage. -/
def sendPairs (s : State) (l : LinkId) : List Nat :=
  let k := s.link l
  if k.phase = 7 ∧ k.eei.inDepth then
    if refreshStage k || k.eei.alertSent then (maskPairs k.carry).filter (fun p => !bit k.deadMask p) else []
  else if decide (4 ≤ k.phase ∧ k.phase ≤ 8) then wmPairs s l
  else []

/-! ### Sending -/

/-- ARG of a SWAP_ENTRY for k and k + 1 (R102, R205). -/
def entryArg (t : List Nat) (k : Nat) : Nat :=
  let e0 := t.getD k emptyEntry
  let e1 := if isExcluded (k + 1) then emptyEntry else t.getD (k + 1) emptyEntry
  k * 2 ^ 23 + entryB e0 * 2 ^ 19 + entryG e0 * 2 ^ 14 + entryB e1 * 2 ^ 10 + entryG e1 * 2 ^ 5

/-- The stage a new message names at its first sending (R202). -/
def firstStage (s : State) (l : LinkId) (w : WMsg) : Nat :=
  let k := s.link l
  match w.stage with
  | some x => x
  | none =>
    if w.code = 0x20 ∧ shownTier k.streamRx < w.arg % 4 then stagePlus k.own (max 8 (2 + ceilNat ((boundOf s l.n : Rat) / 14336)))
    else stagePlus k.own 8

/-- Put a message on a pair's waymark symbol: the registers of the last message sent, the output (R101, R113). -/
def putMessage (l : LinkId) (p : Nat) (code seq stage arg : Nat) (s : State) : State :=
  let k := s.link l
  let pm := patternPairs s l
  let pp := (s.port l.n).patPoly
  let ack := (s.pair l.n.val p).seqRx
  let m : Msg := ⟨code, seq, ack, stage, k.own % 256, pm, pp, arg⟩
  let w := msgWord code seq ack stage (k.own % 256) pm pp arg
  let s := forEach [0, 1, 2] (fun i s => s.setReg (PAIR_WM_TX_LAST l.n p i) (word (w / 2 ^ (32 * i)))) s
  let y := waymarkSymbol s l p w
  (countClips l.n p [y] s).emit (.waymark l p m y)

/-- Send a new acknowledged message on a pair: the next SEQ, outstanding from now (R105). -/
def sendNew (l : LinkId) (p : Nat) (w : WMsg) (stage : Nat) (s : State) : State :=
  let q := (s.pair l.n.val p).seqTx
  let sq := (q + 1) % 16
  let s := s.modPair l.n.val p (fun k => { k with
    seqTx := sq, outs := k.outs ++ [⟨{ w with stage := some stage }, sq, stage, 0, 0⟩] })
  putMessage l p w.code sq (if namesStage w.code then stage else (s.link l).own) w.arg s

/-- What the first sending of a port-scope message records: a proposal that waits for its reply, counters (R46, R206,
R215, R223). -/
def recordSent (l : LinkId) (w : WMsg) (stage : Nat) (s : State) : State :=
  if w.code = 0x20 ∨ w.code = 0x30 ∨ w.code = 0x40 then
    s.modLink l (fun k => { k with proposals := k.proposals ++ [⟨w.code, stage, w.arg⟩] })
  else if w.code = 0x50 then s.inc (PORT_FAULT_NOTICES l.n)
  else if w.code = 0x51 then
    let c := w.arg
    let a := if c = 1 then PORT_RETRAIN_ECHO l.n else if c = 2 then PORT_RETRAIN_TIMING l.n
      else if c = 3 then PORT_RETRAIN_GAIN l.n else if c = 4 then PORT_RETRAIN_CRC l.n
      else if c = 5 then PORT_RETRAIN_STAGE l.n else if c = 6 then PORT_RETRAIN_WM l.n
      else if c = 7 then PORT_RETRAIN_MARGIN l.n else PORT_RETRAIN_OTHER l.n
    (s.inc a).modLink l (fun k => { k with lastRetrain := c })
  else s

/-- Outstanding messages of a pair due for resending: two further symbols sent since their last sending, and now a
third (R105). -/
def dueOuts (k : PairSt) : List OutMsg := k.outs.filter (fun o => decide (3 ≤ o.since))

/-- The message of highest priority; the earliest on a tie. -/
def bestBy {α : Type} (pr : α → Nat) : List α → Option α
  | [] => none
  | x :: xs => match bestBy pr xs with
    | none => some x
    | some y => if pr y < pr x then some y else some x

/-- Resend an outstanding message; every later one follows (R105). -/
def resend (l : LinkId) (p : Nat) (o : OutMsg) (s : State) : State :=
  let outs := (s.pair l.n.val p).outs
  let before := outs.takeWhile (fun x => x.seq != o.seq)
  let after := (outs.dropWhile (fun x => x.seq != o.seq)).drop 1
  let s := s.modPair l.n.val p (fun k => { k with
    outs := before ++ { o with since := 0 } :: after.map (fun x => { x with since := max 3 x.since }) })
  putMessage l p o.msg.code o.seq (if namesStage o.msg.code then o.stage else (s.link l).own) o.msg.arg s

/-- CRC_BAD coaches of the port in the last 64 stages (R145). -/
def badCoaches (s : State) (n : Port) : Nat := ((activeLinks s n).map (fun l => (s.link l).badHist.sum)).sum

/-- The ARG of a STATUS message (R102, R145): with the port's CRC_BAD coaches of the last 64 stages, the c that R145 puts there, where
R102 says of the last stage (DESIGN CHOICE, log entry 47). -/
def statusArg (s : State) (l : LinkId) (p : Nat) : Nat :=
  let n := l.n
  let m := signed 16 (s.fld (PAIR_QUALITY.MARGIN n p))
  let c := badCoaches s n
  s.fld (PAIR_QUALITY.LQ n p) * 2 ^ 24 + s.fld (PORT_QUALITY.LQ n) * 2 ^ 16 +
    unsigned 8 (max (-128) (min 127 m)) * 2 ^ 8 + min 255 c

/-- What one pair sends when no port-scope message starts: a due resend, a new pair-scope message, STATUS after 16
stages without one, a SWAP_ENTRY, or IDLE; `hold` while a port-scope message waits (R103, R104). The spec does not say when a STATUS
waits: it waits once 16 stages have passed since the last, and every other free symbol is IDLE (DESIGN CHOICE, log entry 47). -/
def sendOne (l : LinkId) (hold : Bool) (p : Nat) (s : State) : State :=
  let n := l.n
  let k := s.link l
  let q := s.pair n p
  let statusDue := (k.phase == 7 || k.phase == 8) && decide (16 ≤ q.sinceStatus) && !hold && mayCarry k 1
  -- due resends go among themselves in SEQ order; a new message goes first only if its priority is above all of theirs (R105)
  let dues := (dueOuts q).filter (fun o => mayCarry k o.msg.code)
  let due := dues.head?
  let best := dues.foldl (fun b o => min b (prio o.msg.code)) 8
  let free := !hold && decide (q.outs.length < 4)
  let fresh := if free then bestBy (fun (w : WMsg) => prio w.code) (q.waiting.filter (fun w => mayCarry k w.code))
    else none
  let plan := if free && q.swap == .entries && mayCarry k 0x10 then
      entryPlan (s.active n p .rx) (s.shadow n p .rx) 492 q.nextEntry
    else []
  let status (s : State) : State :=
    (putMessage l p 0x01 (s.pair n p).seqTx k.own (statusArg s l p) s).modPair n p (fun k => { k with sinceStatus := 0 })
  let idle (s : State) : State := putMessage l p 0x00 (s.pair n p).seqTx k.own 0 s
  let low (s : State) : State :=
    if statusDue then status s
    else match plan with
      | i :: rest =>
        let w : WMsg := ⟨0x10, none, entryArg (s.shadow n p .rx) i, false⟩
        let s := sendNew l p w k.own s
        let s := (s.inc (PAIR_SWAP_ENTRY_TX n p)).modPair n p (fun k => { k with nextEntry := i + 2,
                                                                                    txEntries := k.txEntries + 1 })
        let sent := min 255 (s.pair n p).txEntries
        (s.setFld (PAIR_SWAP_STATUS.SENT n p) sent).setFld (PAIR_SWAP_STATUS.TO_SEND n p) (min 255 rest.length)
      | [] => idle s
  let newMsg (w : WMsg) (s : State) : State :=
    let st := firstStage s l w
    let s := sendNew l p w st (s.modPair n p (fun k => { k with waiting := k.waiting.erase w }))
    -- a SWAP_COMMIT waits for its reply with its named stage (R71, R106)
    if w.code = 0x11 then s.modLink l (fun k => { k with proposals := k.proposals ++ [⟨0x11, st, p⟩] }) else s
  match due, fresh with
  | some o, some w =>
    if best ≤ prio w.code then (if best = 6 && statusDue then status s else resend l p o s)
    else newMsg w s
  | some o, none => if best = 6 && statusDue then status s else resend l p o s
  | none, some w => newMsg w s
  | none, none => low s

/-- A waymark symbol has been sent on a pair: the counts of R104 and R105 move. -/
def tickPair (n p : Nat) (s : State) : State :=
  s.modPair n p (fun k => { k with
    sinceStatus := k.sinceStatus + 1,
    outs := k.outs.map (fun o => { o with since := o.since + 1, first := o.first + 1 }) })

/-! ### Receiving -/

/-- A message from its 96 bits (R101). -/
def msgOf (w : Nat) : Msg :=
  { code := bits w 95 88, seq := bits w 87 84, ack := bits w 83 80, stage := bits w 79 48, now := bits w 47 40,
    pmask := bits w 39 36, ppoly := bits w 35 34, arg := bits w 31 0 }

/-- The count nearest `run` whose low byte is `now` (R199). -/
def nearestCount (run now : Nat) : Nat :=
  let d := (now + 256 - run % 256) % 256
  if d < 128 then stagePlus run d else stagePlus run (2 ^ 32 - (256 - d))

/-- The count a message carries (R199). -/
def carriedCount (run : Nat) (m : Msg) : Nat := if namesStage m.code then nearestCount run m.now else m.stage

/-- An ACK covers the outstanding messages up to its SEQ (R105). -/
def takeAck (l : LinkId) (p ack : Nat) (s : State) : State :=
  let outs := (s.pair l.n.val p).outs
  if outs.any (fun o => o.seq == ack) then
    let rest := (outs.dropWhile (fun o => o.seq != ack)).drop 1
    let gone := outs.take (outs.length - rest.length)
    let s := s.modPair l.n.val p (fun k => { k with outs := rest })
    if gone.any (fun o => o.msg.code == 0x60) then s.modLink l (fun k => { k with checkAcked := true }) else s
  else s

/-- Hand a message to its command, a port-scope one once (R103). -/
def deliver (l : LinkId) (p : Nat) (m : Msg) (s : State) : State :=
  let id := (m.code, m.stage, m.arg)
  if portCode m.code then
    if (s.link l).seen.contains id then s
    else s.modLink l (fun k => { k with inbox := k.inbox ++ [(p, m)], seen := (id :: k.seen).take 16 })
  else s.modLink l (fun k => { k with inbox := k.inbox ++ [(p, m)] })

/-- SEQ rules of a good acknowledged message (R105). -/
def acceptSeq (l : LinkId) (p : Nat) (m : Msg) (s : State) : State :=
  let q := s.pair l.n.val p
  let d := (m.seq + 16 - q.seqRx) % 16
  if d = 1 then
    let s := s.modPair l.n.val p (fun k => { k with seqRx := m.seq, ahead := k.ahead.filter (· != m.seq) })
    if q.ahead.contains m.seq then s else deliver l p m s
  else if d = 0 ∨ 13 ≤ d then s
  else if eagerCode m.code then
    if q.ahead.contains m.seq then s
    else deliver l p m (s.modPair l.n.val p (fun k => { k with ahead := m.seq :: k.ahead }))
  else s

/-- One pair's part of a received waymark symbol: a miss, a CRC failure or a good message (R100, R140, R200). -/
def receivePair (l : LinkId) (r : Heard) (s : State) : State :=
  let n := l.n
  let p := r.p.val
  -- a fallen pair's symbol carries no message (R219)
  let mute := isFallen (s.link l) p
  if r.miss then (s.inc (PAIR_WM_MISS n p)).modPair n p (fun k => { k with missRun := k.missRun + 1 })
  else
    let s := s.modPair n p (fun k => { k with missRun := 0 })
    if mute then s
    else if !r.good then s.inc (PAIR_WM_CRC_BAD n p)
    else
      let s := forEach [0, 1, 2] (fun i s => s.setReg (PAIR_WM_RX_LAST n p i) (word (r.bits / 2 ^ (32 * i)))) s
      let m := msgOf r.bits
      if !knownCode m.code then s
      else
        let s := takeAck l p m.ack s
        if ackCode m.code then acceptSeq l p m s
        else if m.code = 1 then deliver l p m s
        else s

/-- The good messages of a received symbol on the given pairs. -/
def goodMessages (rx : List Heard) (ps : List Nat) : List (Nat × Msg) :=
  (rx.filter (fun r => ps.contains r.p.val && !r.miss && r.good && knownCode (msgOf r.bits).code)).map (fun r =>
    (r.p.val, msgOf r.bits))

/-- Compare a received count with the running one (R201): the lower end takes it, the higher end sends STAGE_CHECK;
four messages that still disagree after its acknowledgement ask for a fast retrain with cause STAGE. -/
def compareCount (l : LinkId) (run c : Nat) (s : State) : State :=
  let k := s.link l
  let wrong :=
    if isHigher k then !(c == k.own || c == stagePlus k.own 1 || stagePlus c 1 == k.own)
    else c != run
  if !wrong then s.modLink l (fun k => { k with disagree := 0, checkSent := false, checkAcked := false })
  else
    let d := if k.checkAcked then k.disagree + 1 else 0
    let s := s.modLink l (fun k => { k with disagree := d })
    let s := if isHigher k then
        (if k.checkSent then s else sendPort l 0x60 none 0 (s.modLink l (fun k => { k with checkSent := true })))
      else (s.inc (PORT_STAGE_RESYNC l.n)).raise 0x2025 0 [l.n, run, c]
    if 4 ≤ d then requestRetrain l 5 (s.modLink l (fun k => { k with disagree := 0 })) else s

/-- Compare each good message of a symbol in turn (R201): the count that the receiver then holds. -/
def compareAll (l : LinkId) : List (Nat × Msg) → Nat → State → Nat × State
  | [], run, s => (run, s)
  | (_, m) :: rest, run, s =>
    let c := carriedCount run m
    compareAll l rest (if isHigher (s.link l) then run else c) (compareCount l run c s)

/-- A swap of this end's receiver has had no SWAP_ACCEPT by the waymark symbol of the first stage at which it would apply: the shadow
reloads (R207). -/
def lapseSwaps (l : LinkId) (s : State) : State :=
  let k := s.link l
  forEach (k.proposals.filter (fun q => q.code == 0x11 && reached k.farPrev q.stage)) (cancelProposal l) s

/-- The announcement of the far end's PRBS on the link's pairs (R53, R101, R111): a checker starts afresh on a pair newly named or
given another polynomial. -/
def hearPattern (l : LinkId) (m : Msg) (s : State) : State :=
  let n := l.n
  let ps := linkPairs l
  let old := (s.port n).farPmask
  let mask := pairsMask (allPairs.filter (fun p => if ps.contains p then bit m.pmask p else bit old p))
  let fresh := ps.filter (fun p => bit m.pmask p && (!bit old p || m.ppoly % 4 != (s.pair n p).farPoly))
  let s := forEach ps (fun p s => s.modPair n p (fun q => { q with farPoly := m.ppoly % 4 })) s
  let s := forEach fresh (fun p s => s.modPair n p (fun q => { q with prbsRx := [], prbsRun := 0 })) s
  let s := (s.modPort n (fun q => { q with farPmask := mask })).setFld (PORT_PATTERN_STATUS.RX_MASK n) mask
  let keep := (maskPairs mask).filter (fun p => !fresh.contains p)
  let s := s.setFld (PORT_PATTERN_STATUS.RX_LOCK n) (s.fld (PORT_PATTERN_STATUS.RX_LOCK n) &&& pairsMask keep)
  if mask = old then s else judgeTransparent l s

/-- What a received waymark symbol does: misses, messages and acknowledgements of every pair, the far count, the announcement of PRBS,
an alert confirmed; the far stage's data symbols follow (R53, R69, R100, R105, R199 to R201, R305). -/
def hearSymbol (l : LinkId) (rx : List Heard) (s : State) : State :=
    let k := s.link l
    let s := forEach rx (receivePair l) s
    let ps := if k.phase = 7 then maskPairs k.carryRx else linkPairs l
    let good := goodMessages rx ps
    let run := stagePlus k.far 1
    let s := match good with
      | (_, m) :: _ =>
        let first := if k.synced then carriedCount run m else m.stage
        let r := if (k.phase = 7 ∨ k.phase = 8) ∧ k.synced then compareAll l good run s else (first, s)
        -- the higher end takes the count of the first message (R199), the lower one each that it compares (R201)
        let c := if isHigher k then first else r.1
        let s := r.2.modLink l (fun k => { k with far := c, farPrev := k.far, synced := true, rxSeen := true })
        let s := hearPattern l m s
        let e := k.eei
        let near := c == run || c == stagePlus run 1 || stagePlus c 1 == run
        if k.phase = 7 ∧ e.inDepth ∧ e.detected ∧ !e.confirmed ∧ e.depth ≠ 3 ∧ near then beginWake l 6 s else s
      | [] =>
        if k.phase = 7 ∨ k.phase = 8 then
          (s.inc (PORT_STAGE_GUESS l.n)).modLink l (fun k => { k with far := run, farPrev := k.far, rxSeen := true })
        else s.modLink l (fun k => { k with far := if k.synced then run else k.far, farPrev := k.far })
    lapseSwaps l (resumeAtStage l (s.modQueue l (fun q => { q with rxSym := 0, rxCoded := [], rxIlv := 0 })))

/-- WAYMARK_SYMBOL_RX: the waymark symbol of the link's pairs goes through the receive chain (R114, R140) and is heard. -/
def execWaymarkSymbolRx (l : LinkId) (rx : List RxWindow) (s : State) : Host.Outcome State Fault Refusal :=
  let k := s.link l
  if !(decide (4 ≤ k.phase ∧ k.phase ≤ 8)) then .next s
  else
    let r := rxWaymark l rx s
    .next (showLink l (hearSymbol l r.1 r.2))

/-- WAYMARK_SYNC_LOSS: every carrying pair has missed two waymark symbols in a row: link-down SYNC in showtime, G3_SYNC in start-up
once sync has been found (R180, R200). -/
def execWaymarkSyncLoss (l : LinkId) (s : State) : Host.Outcome State Fault Refusal :=
  let k := s.link l
  let ps := if k.phase = 7 then maskPairs k.carryRx else (linkPairs l).filter (fun p => !bit k.excluded p)
  if ps.any (fun p => decide ((s.pair l.n.val p).missRun < 2)) then .next s
  else if k.phase = 7 then .next (linkDown l 1 s)
  else if decide (4 ≤ k.phase) && k.synced then .next (phaseFail l 6 s)
  else .next s

/-- WM_MESSAGE_ABANDON: the oldest message unacknowledged after WM_RETRY symbols is given up: counted, event 0x2026, a
fast retrain with cause WAYMARK (R202). -/
def execWmMessageAbandon (l : LinkId) (p : Pair) (s : State) : Host.Outcome State Fault Refusal :=
  let lim := max 8 (s.fld (PORT_LINK_CFG.WM_RETRY l.n))
  match (s.pair l.n.val p).outs with
  | [] => .next s
  | o :: rest =>
    if o.first < lim then .next s
    else
      let s := s.modPair l.n.val p (fun k => { k with outs := rest })
      let s := (s.inc (PORT_WM_TIMEOUT l.n)).raise 0x2026 1 [l.n, p, o.msg.code]
      let s := s.modLink l (fun k => { k with proposals := k.proposals.filter (fun q =>
        !(q.code == o.msg.code && q.stage == o.stage)) })
      .next (showLink l (requestRetrain l 6 s))

/-- WM_STATUS: a STATUS message; its content stands in PAIR_WM_RX_LAST (R102, R145). -/
def execWmStatus (l : LinkId) (p : Pair) (m : Msg) (s : State) : Host.Outcome State Fault Refusal :=
  .next (consume l p m s)

/-- STAGE_CHECK: acknowledged by R105 and compared: the lower end takes the count it carries (R201). -/
def execStageCheck (l : LinkId) (p : Pair) (m : Msg) (s : State) : Host.Outcome State Fault Refusal :=
  let s := (consume l p m s).modLink l (fun k => { k with checkAcked := true })
  let k := s.link l
  if isHigher k || k.far == msgStage m then .next (showLink l s)
  else
    let s := (s.inc (PORT_STAGE_RESYNC l.n)).raise 0x2025 0 [l.n, k.far, msgStage m]
    .next (showLink l (s.modLink l (fun k => { k with far := msgStage m })))

/-- WM_UNKNOWN_CODE: a message with a code outside R102 is ignored and counted (R102). -/
def execWmUnknownCode (n : Port) (p : Pair) (m : Msg) (s : State) : Host.Outcome State Fault Refusal :=
  .next (if knownCode m.code then s else s.inc (PAIR_WM_UNKNOWN n p))

end Sys2Proof.Machine
end

