-- ==== Sys2Proof/Machine/Coach.lean ====
section
/-! DEFINITION. Coaches sent and received (R51 to R53, R78 to R98, R297), and the bit tables and bit swap of a pair
(R73, R113, R203 to R209). -/
namespace Sys2Proof.Machine

/-! ### Laying coaches on the line -/

/-- Send a pair's data symbol with these labels (R84 to R86, R109). -/
def sendLabels (l : LinkId) (p : Nat) (labels : List Nat) (s : State) : State :=
  let y := dataSymbol s l p labels
  (countClips l.n p [y] s).emit (.symbol l p labels y)

/-- The labels that one data symbol of a pair carries: payload of NET bits through TCM or PLAIN (R78 to R87). -/
def symbolLabels (plain : Bool) (t : List Nat) (payload : List Bool) : List Nat :=
  let bs := (t.map entryB).filter (fun b => decide (2 ≤ b))
  if plain then plainLabels bs payload else tcmEncode (fourD bs) payload (false, false, false, false)

/-- One data symbol of a pair carries NET bits of PRBS, unwhitened, scrambled in PLAIN; the bits of a pending injection are inverted
(R42, R53, R185). -/
def sendPrbs (l : LinkId) (poly : Nat) (p : Nat) (s : State) : State :=
  let n := l.n.val
  let q := s.pair n p
  let plain := isPlain (s.link l)
  let t := s.active n p .tx
  let x := prbs poly (net plain t) q.prbsTx
  let y := invertFirst q.injBits x
  let (y, h) := if plain then scramble y q.scrambler else (y, q.scrambler)
  sendLabels l p (symbolLabels plain t y) (s.modPair n p (fun k => { k with
    prbsTx := (x.reverse ++ q.prbsTx).take 31, injBits := 0, scrambler := h }))

/-- One pair's part of data symbol `j` (0 first) of a stage: its share of the stream and pad, whitened or scrambled, coded (R78,
R79, R87). -/
def sendPairSymbol (l : LinkId) (j : Nat) (sh : Nat) (bs : List Bool) (p : Nat) (s : State) : State :=
  let k := s.link l
  let n := l.n.val
  let q := s.pair n p
  let plain := isPlain k
  let t := s.active n p .tx
  let nb := net plain t
  let d := bs ++ List.replicate (nb - sh) false
  let (x, h) := if plain then scramble d q.scrambler
    else (xorBits d ((whitening k.own p (nb * (j + 1))).drop (nb * j)), q.scrambler)
  sendLabels l p (symbolLabels plain t x) (s.modPair n p (fun k => { k with scrambler := h }))

/-- The pairs of a link in showtime that a fallback has removed and no REFLECT holds (R219, R318). -/
def deadPairs (s : State) (l : LinkId) : List Nat :=
  let k := s.link l
  if k.phase = 7 then (linkPairs l).filter (fun p => isFallen k p && !reflecting s (gpair l.n p)) else []

/-- Send one data symbol from `bs`, its P × S stream bits: the words of R94 over the carrying pairs, PRBS on the named
pairs, pilots alone on the dead ones (R219). -/
def sendSymbol (l : LinkId) (bs : List Bool) (s : State) : State :=
  let ps := carryList s l
  let sh := txShare s l
  let j := (s.queue l).symbol
  let s := forEach ((List.range ps.length).zip ps) (fun x s =>
    sendPairSymbol l j sh (pairShare ps.length x.1 sh bs) x.2 s) s
  let named := (linkPairs l).filter (bit (patternPairs s l))
  let s := forEach named (sendPrbs l (s.port l.n).patPoly) s
  let s := forEach ((deadPairs s l).filter (fun p => !named.contains p)) (fun p s => sendLabels l p [] s) s
  s.modQueue l (fun q => { q with symbol := q.symbol + 1 })

/-- Code coach-stream bits into the interleave pairs of this stage (R89, R90); a stage takes M. -/
def codePairs (l : LinkId) : Nat → State → State
  | 0, s => s
  | fuel + 1, s =>
    let q := s.queue l
    let m := reachM (shareStream l (s.link l).streamTx)
    if q.stream.length < 10400 ∨ m ≤ q.ilv then s
    else codePairs l fuel (s.modQueue l (fun q => { q with
      coded := q.coded ++ interleavePair (q.stream.take 10400), stream := q.stream.drop 10400, ilv := q.ilv + 1 }))

/-- Send every data symbol of this stage that is full. -/
def sendSymbols (l : LinkId) : Nat → State → State
  | 0, s => s
  | fuel + 1, s =>
    let q := s.queue l
    let want := lineBits s l
    let reach := isReach (s.link l)
    let src := if reach then q.coded else q.stream
    let padded := reach && decide (reachM (shareStream l (s.link l).streamTx) ≤ q.ilv) && decide (src.length < want)
    if 63 ≤ q.symbol ∨ (src.length < want ∧ !padded) ∨ (want = 0 ∧ patternPairs s l = 0) then s
    else
      let bs := src.take want ++ List.replicate (want - src.length) false
      let s := s.modQueue l (fun q => if reach then { q with coded := q.coded.drop want }
        else { q with stream := q.stream.drop want })
      sendSymbols l fuel (sendSymbol l bs s)
where
  /-- P × S of the pairs that carry coaches. -/
  lineBits (s : State) (l : LinkId) : Nat := (carryList s l).length * txShare s l

/-- The stage has no symbol or interleave pair left for the coach bits that wait: no coach boundary yet. -/
def lineBusy (s : State) (l : LinkId) : Bool :=
  let q := s.queue l
  let want := sendSymbols.lineBits s l
  if isReach (s.link l) then decide (10400 ≤ q.stream.length) else want != 0 && decide (want ≤ q.stream.length)

/-- With an EEI entry agreed, the coach would not end within data symbol 63 of stage E - 1 (R297). -/
def beyondEntry (s : State) (l : LinkId) : Bool :=
  let k := s.link l
  let q := s.queue l
  if k.eei.agreed then
    let stages := (k.eei.entry + 2 ^ 32 - k.own) % 2 ^ 32
    let room := if isReach k then (stages * reachM (shareStream l k.streamTx) - q.ilv) * 10400
      else (stages * 63 - q.symbol) * sendSymbols.lineBits s l
    decide (room < q.stream.length + 10320)
  else false

/-- The blocks that the framer may take in a coach's time at the far egress capacity, and the credit kept: what 40 blocks at the line
capacity leave of it, at most one coach's blocks saved (R233; the way of pacing is a DESIGN CHOICE, log entry 47). -/
def paceCredit (s : State) (l : LinkId) : Rat :=
  let line : Rat := (lineCapacity s l : Rat) * 45 / 1024
  if line ≤ 0 then 40 else min 40 ((s.queue l).pace + 40 * (s.queue l).far / line)

/-- Take the blocks of a coach from the transmit queue, paced to the far egress (R233). -/
def takePaced (l : LinkId) (s : State) : List Nat × State :=
  let credit := paceCredit s l
  let r := takeBlocks l .tx (min 40 credit.floor.toNat) s
  (r.1, r.2.modQueue l (fun q => { q with pace := credit - (r.1.length : Nat) }))

/-- Add received codeword bits: each pair that is now whole has its deadline under TIMETABLE (R247, R248, R259). -/
def pushCodewords (l : LinkId) (bs : List (Bool × Bool)) (t : Rat) (s : State) : State :=
  let q := s.queue l
  let all := q.cwRx ++ bs
  let due := if inEffect s l.n mTIMETABLE then some (t + ((q.rxPartAt.getD (rxPart s l.n) : Nat) : Rat) / 10) else none
  s.modQueue l (fun q => { q with
    cwRx := all, cwRxDue := q.cwRxDue ++ List.replicate (all.length / 10880 - q.cwRxDue.length) due })

/-- The coach that the framer has ready: TYPE and blocks, and the state without them (R52, R92, R96, R98). Looped
coaches stand in for host ingress under LOOP_FAR; a data coach carries up to 40 blocks and idle blocks after them. -/
def nextCoach (l : LinkId) (s : State) : (Nat × List Nat) × State :=
  let n := l.n
  let q := s.queue l
  let fill : Nat × List Nat := (1, List.replicate 40 0)
  let host (s : State) : (Nat × List Nat) × State :=
    if inEffect s n mTRANSPARENT then
      if 10280 ≤ cwReady q then
        ((2, (List.range 40).map (fun i => ofBitsLsb ((q.cwTx.drop (257 * i)).take 257))),
          dropCodewordBits l 10280 s)
      else (fill, s)
    else
      let r := takePaced l s
      if r.1.isEmpty then (fill, r.2)
      else ((0, r.1 ++ List.replicate (40 - r.1.length) idleBlock257), r.2)
  if loopOn s l mLOOP_FAR then
    match q.loop with
    | x :: rest => (x, s.modQueue l (fun q => { q with loop := rest }))
    | [] => (fill, s)
  else if loopOn s l mLOOP_NEAR then (fill, s)
  else host s

/-- LOOP_NEAR: the port's own coach of host ingress goes to its own reassembly (R51). -/
def loopNear (l : LinkId) (s : State) : State :=
  let n := l.n
  if !loopOn s l mLOOP_NEAR then s
  else if inEffect s n mTRANSPARENT then
    let q := s.queue l
    if 10280 ≤ cwReady q then
      dropCodewordBits l 10280 (pushCodewords l ((q.cwTx.take 10280).map (fun b => (b, false))) (s.now * 1000 : Nat)
        (s.modQueue l (fun q => { q with rxPartAt := none })))
    else s
  else
    let r := takePaced l s
    receiveBlocks l r.1 (r.2.now * 1000 : Nat) (r.2.modQueue l (fun q => { q with rxPartAt := none }))

/-- Send a coach: SEQ, counters, its bits into the stream, the symbols that are full (R92 to R95, R112). -/
def sendCoach (l : LinkId) (x : Nat × List Nat) (s : State) : State :=
  let n := l.n
  let seq := ((s.link l).coachTx + 1) % 64
  let hdr := coachHdr x.1 seq
  let crc := coachCrc hdr x.2
  let s := s.modLink l (fun k => { k with coachTx := seq })
  let s := s.inc64 (PORT_COACH_TX n)
  let s := if x.1 = 1 then s.inc64 (PORT_FILL_TX n) else s
  let s := s.emit (.coach l ⟨hdr, x.2, crc⟩)
  s.modQueue l (fun q => { q with stream := q.stream ++ coachBits hdr x.2 ++ bitsLsb 32 crc })

/-- Code and send what the running stage still holds. -/
def pumpLine (l : LinkId) (s : State) : State := sendSymbols l 64 (if isReach (s.link l) then codePairs l 64 s else s)

/-- COACH_TX: at a coach boundary the framer sends a data, codeword, looped or fill coach (R92 to R98). Quiet links,
a stage that is full and the stages before an agreed entry send none. -/
def execCoachTx (l : LinkId) (s : State) : Host.Outcome State Fault Refusal :=
  let k := s.link l
  if !sendsCoaches k || k.eei.inDepth then .next s
  else
    let s := pumpLine l s
    if lineBusy s l || (carryList s l).isEmpty || beyondEntry s l then .next (showBeds l.n (loopNear l s))
    else
      let s := loopNear l s
      let (x, s) := nextCoach l s
      .next (showBeds l.n (fcJudge l.n (s.now * 1000 : Nat) (pumpLine l (sendCoach l x s))))

/-! ### Receiving coaches -/

/-- Forty error control blocks (R32). -/
def errorBlocks : List Nat := List.replicate 40 errorBlock257

/-- The route of a received coach's blocks; under LOOP_FAR one returned coach waits for transmit capacity, a second is an overflow:
the spec gives no depth (DESIGN CHOICE, log entry 47): TYPE, blocks, whether it is CRC_BAD, the time its CRC reached the ADC
(R32, R51, R52, R97, R98). -/
def routeCoach (l : LinkId) (ty : Nat) (blocks : List Nat) (bad : Bool) (t : Rat) (s : State) : State :=
  let n := l.n
  let near := loopOn s l mLOOP_NEAR
  let far := loopOn s l mLOOP_FAR
  let host (s : State) : State :=
    if bad then
      if inEffect s n mTRANSPARENT then
        pushCodewords l (List.replicate 10280 (false, true)) t s
      else receiveBlocks l errorBlocks t s
    else if ty = 0 then receiveBlocks l blocks t s
    else if ty = 2 then pushCodewords l ((blocks.flatMap (bitsLsb 257)).map (fun b => (b, false))) t s
    else s
  if near && !far then s.inc (PORT_LOOP_DISCARD n)
  else
    let s := if far && (bad || ty != 1) then
        if lineCapacity s l = 0 || !(s.queue l).loop.isEmpty then s.inc (PORT_LOOP_OVERFLOW n)
        else s.modQueue l (fun q => { q with loop := q.loop ++ [if bad then (0, errorBlocks) else (ty, blocks)] })
      else s
    if near then s else host s

/-- A coach from its 10,320 bits (R92). -/
def coachOf (bs : List Bool) : Coach :=
  ⟨ofBitsLsb (bs.take 8), (List.range 40).map (fun i => ofBitsLsb ((bs.drop (8 + 257 * i)).take 257)), ofBitsLsb ((bs.drop 10288).take 32)⟩

/-- A coach has come: the CRC-32C check, the header, SEQ, the counters, the route of the blocks (R91 to R97, R112). `outerFail`
says that some of its bits lie in a codeword that failed to decode. A good coach with the reserved TYPE counts in PORT_HDR_BAD and not
in PAIR_SUB_CRC_BAD; after a CRC_BAD coach the SEQ expected goes on by one (DESIGN CHOICES, log entry 47). -/
def takeCoach (l : LinkId) (c : Coach) (outerFail : Bool) (t : Rat) (s : State) : State :=
    let k := s.link l
    let n := l.n
    let good := c.crc == coachCrc c.hdr c.blocks
    let ty := c.hdr / 64 % 4
    let seq := c.hdr % 64
    let crcBad := !good || outerFail
    let hdrBad := !crcBad && ty == 3
    let bad := crcBad || hdrBad
    let s := if good && !outerFail then
        let s := s.inc64 (PORT_COACH_RX n)
        if l.sub.isSome then s.inc (PAIR_SUB_COACH_RX n (subPair l)) else s
      else s
    let s := if crcBad then
        let s := s.inc64 (PORT_CRC_BAD n)
        if l.sub.isSome then s.inc (PAIR_SUB_CRC_BAD n (subPair l)) else s
      else if hdrBad then s.inc (PORT_HDR_BAD n)
      else s
    let want := k.coachRx.map (fun e => (e + 1) % 64)
    let s := if !bad && want.isSome && want != some seq then s.inc (PORT_SEQ_SLIP n) else s
    let ref := if bad then want else some seq
    let s := s.modLink l (fun k => { k with coachRx := ref, stageBad := k.stageBad + bad.toNat })
    showBeds n (routeCoach l ty c.blocks bad t s)

/-- The receive part in force at the first data symbol of the coach that begins in `rxBits` (R248). -/
def markCoach (l : LinkId) (s : State) : State :=
  let r := rxPart s l.n
  s.modQueue l (fun q => { q with rxPartAt := if q.rxBits.isEmpty then none else some r })

/-- A data symbol goes through the receive chain; where a coach begins in it, its receive part is kept. -/
def rxSymbolOf (l : LinkId) (x : List RxWindow) (s : State) : State :=
  let fresh := (s.queue l).rxBits.isEmpty
  let s := rxSymbol l x s
  if fresh then markCoach l s else s

/-- Data symbols of a link come from step 7 of the receive chain, in order, and go through the rest of it (R114); where they
complete a coach it is taken, at most one for a command: `t` is the time in ns at which its CRC reached the ADC (R92). With a carrying
pair whose slice has failed the coach is CRC_BAD (R527). -/
def receiveCoach (l : LinkId) (rx : List (List RxWindow)) (t : Rat) (s : State) : State :=
  if !(decide (4 ≤ (s.link l).phase ∧ (s.link l).phase ≤ 8)) then s
  else
    let s := forEach rx (rxSymbolOf l) s
    let bs := (s.queue l).rxBits
    if bs.length < 10320 then s
    else
      let c := bs.take 10320
      let s := s.modQueue l (fun q => { q with rxBits := bs.drop 10320 })
      let lost := (maskPairs (coachMask s l .rx)).any (muted s l.n)
      markCoach l (takeCoach l (coachOf (c.map (·.1))) (c.any (·.2) || lost) t s)

/-- The windows of the pairs, symbol by symbol: symbol i has window i of each pair that has one. -/
def bySymbol (ws : List (List RxWindow)) : List (List RxWindow) :=
  (List.range (ws.foldl (fun m w => max m w.length) 0)).map (fun i => ws.filterMap (fun w => w[i]?))

/-- COACH_RX: data symbols of the link of port n, in BREAKOUT of its sub-link `sub`, as pairs A to D receive them. -/
def execCoachRx (n : Port) (sub : Option Pair) (a b c d : List RxWindow) (t : Rat) (s : State) : Host.Outcome State Fault Refusal :=
  .next (receiveCoach ⟨n, sub⟩ (bySymbol [a, b, c, d]) t s)

/-! ### Tables (R73, R113) -/

/-- INDEX after an access to PAIR_TBL_DATA: 519 wraps to 0 (R113); above 519, where the spec gives no step, it counts on modulo
1024 (DESIGN CHOICE, log entry 47). -/
def stepTblIndex (n p : Nat) (s : State) : State :=
  let i := s.fld (PAIR_TBL_ADDR.INDEX n p)
  if s.flag (PAIR_TBL_ADDR.AUTO_INC n p) then
    s.setFld (PAIR_TBL_ADDR.INDEX n p) (if i = 519 then 0 else (i + 1) % 1024) else s

/-- A write of PAIR_TBL_DATA is ignored; HOST_WRITE_IGNORED is set, and the window steps on (R113, R457). -/
def writeTblData (n p : Nat) (s : State) : State :=
  stepTblIndex n p (s.setFld (PAIR_TBL_STATUS.HOST_WRITE_IGNORED n p) 1)

/-- PAIR_TBL_DATA_WRITE (R113). -/
def execPairTblDataWrite (n : Port) (p : Pair) (_v : Word) (s : State) : Host.Outcome State Fault Refusal :=
  .next (writeTblData n p s)

/-- Write the two entries of a SWAP_ENTRY into the transmit shadow; not the second at an excluded index (R205). -/
def writeEntries (n p arg : Nat) (s : State) : State :=
  let i := bits arg 31 23
  let b := shadowBank s n p .tx
  let s := if isExcluded i then s else s.setEntry n p .tx b i (entryOf (bits arg 22 19) (bits arg 18 14))
  if isExcluded (i + 1) then s else s.setEntry n p .tx b (i + 1) (entryOf (bits arg 13 10) (bits arg 9 5))

/-- Load a shadow from its active bank (R73, R205). -/
def reloadShadow (n p : Nat) (d : Dir) (s : State) : State :=
  s.setBank n p d (shadowBank s n p d) (s.active n p d)

/-- TABLE_SHADOW_COPY_DONE: the new active bank stands in the shadow; held entries are written; COPY_BUSY clears when no
copy runs (R73, R205). -/
def execTableShadowCopyDone (n : Port) (p : Pair) (d : Dir) (s : State) : Host.Outcome State Fault Refusal :=
  let q := s.pair n p
  let runs := match d with
    | .tx => q.copyTx
    | .rx => q.copyRx
  if !runs then .next s
  else
    let s := reloadShadow n p d s
    let s := s.modPair n p (fun k => match d with
      | .tx => { k with copyTx := false }
      | .rx => { k with copyRx := false })
    let busy := (s.pair n p).copyTx || (s.pair n p).copyRx
    let s := if busy then s
      else forEach q.heldEntries (writeEntries n p) (s.modPair n p (fun k => { k with heldEntries := [] }))
    .next (s.setFld (PAIR_TBL_STATUS.COPY_BUSY n p) busy.toNat)

/-! ### Bit swap -/

/-- SWAP_ENTRY: two entries for the transmit shadow, held while COPY_BUSY is 1 (R205). -/
def execSwapEntry (l : LinkId) (p : Pair) (m : Msg) (s : State) : Host.Outcome State Fault Refusal :=
  let n := l.n
  let s := (consume l p m s).inc (PAIR_SWAP_ENTRY_RX n p)
  let s := s.modPair n p (fun k => { k with rxEntries := k.rxEntries + 1 })
  .next (if s.flag (PAIR_TBL_STATUS.COPY_BUSY n p) then
      s.modPair n p (fun k => { k with heldEntries := k.heldEntries ++ [m.arg] })
    else writeEntries n p m.arg s)

/-- A declined swap is counted (R206). -/
def countDecline (l : LinkId) (p : Nat) (s : State) : State := (s.inc (PAIR_SWAP_DECLINED l.n p)).inc (PORT_SWAP_DECLINES l.n)

/-- The reason to decline a SWAP_COMMIT, or none (R106, R206). -/
def swapDeclineReason (s : State) (l : LinkId) (p : Nat) (m : Msg) : Option Nat :=
  let k := s.link l
  let t := s.shadow l.n.val p .tx
  if tooClose k (msgStage m) then some 3
  else if stageBusy k (msgStage m) || k.changes.any (fun c => c.kind == .swap p .tx) then some 1
  else if bankCrc t != m.arg / 2 ^ 16 % 2 ^ 16 || (s.pair l.n.val p).rxEntries % 2 ^ 16 != m.arg % 2 ^ 16 ||
      !tableValid s l p .tx (dirShare s l .tx) t then some 2
  else none

/-- SWAP_COMMIT: answered SWAP_ACCEPT or SWAP_DECLINE (R206); the notice of equal capacity of R209. -/
def execSwapCommit (l : LinkId) (p : Pair) (m : Msg) (s : State) : Host.Outcome State Fault Refusal :=
  let s := consume l p m s
  if (s.link l).phase != 7 then .next s
  else
    let r := swapDeclineReason s l p m
    let s := s.modPair l.n p (fun k => { k with rxEntries := 0 })
    match r with
    | some r => .next (showLink l (reloadTxShadow l.n p (countDecline l p (sendPair l.n p 0x13 (some (msgStage m)) r s))))
    | none =>
      let s := sendPair l.n p 0x12 (some (msgStage m)) 0 s
      .next (showLink l (capAgree l (s.queue l).cap (msgStage m) (agree l (msgStage m) (.swap p .tx) s)))

/-- This end's SWAP_COMMIT of a pair for a stage waits for its reply; and it has its reply. -/
def commitAt (k : LinkSt) (p stage : Nat) : Bool := k.proposals.contains ⟨0x11, stage, p⟩
def dropCommit (l : LinkId) (p stage : Nat) (s : State) : State :=
  s.modLink l (fun k => { k with proposals := k.proposals.filter (fun q => q != ⟨0x11, stage, p⟩) })

/-- SWAP_ACCEPT: the swap will apply at the named stage if it came by the waymark symbol of the first stage at which it would apply and
no other change is agreed for that stage (R71); else the shadow reloads (R207). -/
def execSwapAccept (l : LinkId) (p : Pair) (m : Msg) (s : State) : Host.Outcome State Fault Refusal :=
  let s := consume l p m s
  let k := s.link l
  let s := dropCommit l p (msgStage m) s
  if !commitAt k p (msgStage m) then .next s
  else if reached k.farPrev (msgStage m) || agreedAt k (msgStage m) then .next (showLink l (dropRxSwap l.n p s))
  else .next (showLink l (agree l (msgStage m) (.swap p .rx) s))

/-- SWAP_DECLINE: counted; the shadow reloads, as that of the end that declined has (R206). -/
def execSwapDecline (l : LinkId) (p : Pair) (m : Msg) (s : State) : Host.Outcome State Fault Refusal :=
  let s := consume l p m s
  let mine := commitAt (s.link l) p (msgStage m)
  let s := (countDecline l p (dropCommit l p (msgStage m) s)).modPair l.n p (fun k => { k with sinceSwap := 0 })
  .next (showLink l (if mine then dropRxSwap l.n p s else s))

/-- A swap of a pair agreed for a direction whose stage has come (R198). -/
def swapDue (k : LinkSt) (p : Nat) (d : Dir) : Option Change :=
  k.changes.find? (fun c => c.kind == .swap p d &&
    (match d with
    | .tx => reached k.own c.stage
    | .rx => reached k.far c.stage))

/-- TABLE_SWAP_APPLY: the banks of a pair exchange their roles (R73, R207, R209); counted; the shadow copy starts. -/
def execTableSwapApply (l : LinkId) (p : Pair) (d : Dir) (s : State) : Host.Outcome State Fault Refusal :=
  match swapDue (s.link l) p d with
  | none => .next s
  | some c =>
    let n := l.n
    let s := dropChange l c s
    let s := match d with
      | .tx => (s.setFld (PAIR_TBL_STATUS.ACTIVE_TX n p) (1 - s.fld (PAIR_TBL_STATUS.ACTIVE_TX n p))).modPair n p
          (fun k => { k with copyTx := true })
      | .rx => (s.setFld (PAIR_TBL_STATUS.ACTIVE_RX n p) (1 - s.fld (PAIR_TBL_STATUS.ACTIVE_RX n p))).modPair n p
          (fun k => { k with copyRx := true, swap := .idle, sinceSwap := 0 })
    let s := ((s.setFld (PAIR_TBL_STATUS.COPY_BUSY n p) 1).inc (PAIR_TBL_SWAPS n p)).inc (PORT_SWAPS n)
    let s := histFlag n p 4 (s.modLink l (fun k => { k with lossRun := 0 }))
    .next (showLink l (capNotice l s))

/-- The pair may start a bit swap now (R203). -/
def mayStartSwap (s : State) (l : LinkId) (p : Nat) : Bool :=
  let n := l.n
  let k := s.link l
  s.flag (PORT_SWAP_CFG.AUTO n) && decide (max 4 (s.fld (PORT_SWAP_CFG.HOLDOFF n)) ≤ (s.pair n.val p).sinceSwap) &&
  !rateBusy k && !faultBusy k && (linkPairs l).all (fun q => !swapBusy s l q) && !testOn s n &&
  !(s.pair n.val p).quiet

/-- Evaluate one pair (R203, R204): count the weak subcarriers; start a swap, or abandon one that finds no
candidate. -/
def evaluatePair (l : LinkId) (p : Nat) (s : State) : State :=
  let n := l.n
  let k := s.link l
  if s.flag (PAIR_QUALITY.STALE n p) || (s.pair n p).quiet then s
  else
    let tg := targetMargin s n
    let dn := min (s.fld (PORT_SWAP_CFG.SWAP_DOWN n)) 60
    let act := s.active n p .rx
    let snr := snrList s n p
    let weak := weakCount (plainRx k) (isReach k) act snr tg dn
    let s := s.setFld (PAIR_SWAP_STATUS.WEAK n p) weak
    if max 1 (s.fld (PORT_SWAP_CFG.WEAK_MIN n)) ≤ weak ∧ mayStartSwap s l p then
      match swapTable (plainRx k) (isReach k) act snr tg dn (dirShare s l .rx) with
      | none => (s.inc (PAIR_SWAP_DECLINED n p)).modLink l (fun k => { k with rateTrig := true })
      | some t =>
        let s := s.setBank n p .rx (shadowBank s n p .rx) t
        let left := (entryPlan act t 492 4).length
        let s := s.setFld (PAIR_SWAP_STATUS.TO_SEND n p) (min 255 left)
        s.modPair n p (fun k => { k with swap := .entries, nextEntry := 4 })
    else s

/-- The up trigger's run: evaluations in a row at which the next higher tier, not above the ceiling, loads at TARGET_MARGIN
plus UP_HYST (R211). -/
def evaluateUp (l : LinkId) (s : State) : State :=
  let k := s.link l
  let next := k.streamRx - 1
  let up := s.flag (PORT_RATE_CFG.AUTO_UP l.n) && l.sub.isNone && decide (1 ≤ k.streamRx ∧ k.streamRx ≤ 3) &&
    decide (ceiling s l ≤ next) &&
    (computeAll s l (plainRx k) next (targetMargin s l.n + s.fld (PORT_RATE_CFG.UP_HYST l.n))).isSome
  s.modLink l (fun k => { k with upRun := if up then k.upRun + 1 else 0 })

/-- SWAP_EVALUATION: every 16 stages the received pairs are evaluated (R203, R204), and with them the up trigger and
the capacity of TRANSPARENT (R58, R211). -/
def execSwapEvaluation (l : LinkId) (s : State) : Host.Outcome State Fault Refusal :=
  let k := s.link l
  if k.phase != 7 || k.eei.inDepth then .next s
  else
    let s := forEach (maskPairs k.carryRx) (evaluatePair l) s
    .next (showLink l (retryTransparent l (evaluateUp l s)))

/-- SWAP_COMMIT_SEND: with every entry acknowledged the receiving end sends SWAP_COMMIT: the CRC-16 of its receive
shadow and the number of entries sent since the last commit (R206). -/
def execSwapCommitSend (l : LinkId) (p : Pair) (s : State) : Host.Outcome State Fault Refusal :=
  let n := l.n
  if (s.link l).phase != 7 || !entriesDone s l p || (s.link l).rateWait.isSome then .next s
  else
    let arg := bankCrc (s.shadow n p .rx) * 2 ^ 16 + (s.pair n p).txEntries % 2 ^ 16
    let s := sendPair n p 0x11 none arg (s.modPair n p (fun k => { k with swap := .commit, txEntries := 0 }))
    .next (showLink l ((s.setFld (PAIR_SWAP_STATUS.SENT n p) 0).setFld (PAIR_SWAP_STATUS.TO_SEND n p) 0))

end Sys2Proof.Machine
end

