-- ==== Sys2Proof/Machine/Receiver.lean ====
section
/-! DEFINITION. The receiver's commands: the spare sub-ADC, retrain causes of gain, timing and echo, drift checks and
stored sets, crosstalk figures, dead pairs, the coefficient windows (R118 to R120, R123, R131, R132, R136, R147 to
R149). -/
namespace Sys2Proof.Machine

/-! ### The spare sub-ADC -/

/-- SUBADC_TAKE_SLOT: the spare takes slot `slot` (counted in PAIR_ADC_SWAPS), or hands it back (R119). A committed
spare does not move (R120). -/
def execSubadcTakeSlot (n : Port) (p : Pair) (slot : Nat) (back : Bool) (s : State) :
    Host.Outcome State Fault Refusal :=
  if s.flag (PAIR_ADC_STATUS.COMMITTED n p) then .next s
  else if back then .next (s.setFld (PAIR_ADC_STATUS.SPARE_SLOT n p) 64)
  else .next ((s.setFld (PAIR_ADC_STATUS.SPARE_SLOT n p) (slot % 64)).inc (PAIR_ADC_SWAPS n p))

/-- SUBADC_FAIL: the first failed sub-ADC gives its slot to the spare for good, event 0x5010; a second one on the pair
is a pair fault, code ADC (R120). -/
def execSubadcFail (n : Port) (p : Pair) (sub : Nat) (s : State) : Host.Outcome State Fault Refusal :=
  .next (failSubAdc n p (sub % 64) s)

/-! ### Retrain causes -/

/-- GAIN_LIMIT_RETRAIN: a digital gain at a limit for 16 stages, or more than CLIP_MAX full-scale symbols in 1024
stages, asks for a fast retrain with cause GAIN (R118, R148). -/
def execGainLimitRetrain (l : LinkId) (s : State) : Host.Outcome State Fault Refusal :=
  let lim := s.fld (PORT_RX_LIMITS.CLIP_MAX l.n)
  let hit := (maskPairs (s.link l).carryRx).any (fun p =>
    decide (16 ≤ (s.pair l.n p).gainRun) || decide (lim < (s.pair l.n p).clips.sum))
  .next (if hit then showLink l (requestRetrain l 3 s) else s)

/-- TIMING_ERROR_RETRAIN: a timing error beyond 2 samples for two stages asks for a fast retrain with cause TIMING
(R123, R148). -/
def execTimingErrorRetrain (l : LinkId) (s : State) : Host.Outcome State Fault Refusal :=
  let hit := (maskPairs (s.link l).carryRx).any (fun p => decide (2 ≤ (s.pair l.n p).timingRun))
  .next (if hit then showLink l (requestRetrain l 2 s) else s)

/-- ECHO_TAP_SATURATION: an E2 tap at its limit for 16 stages asks for full start-up with cause ECHO (R132, R148). -/
def execEchoTapSaturation (l : LinkId) (s : State) : Host.Outcome State Fault Refusal :=
  let hit := (maskPairs (s.link l).carryRx).any (fun p => (s.pair l.n p).satTaps.any (fun x => decide (16 ≤ x.2)))
  .next (if hit then showLink l (requestRetrain l 1 s) else s)

/-! ### Echo drift and the stored set -/

/-- The sums of |now - set|² and |set|² over the E3 coefficients of a pair, in SPLITBAND over its E2 taps (R131, R133). -/
def driftSums (s : State) (n p set : Nat) (split : Bool) : Nat × Nat :=
  let now (i : Nat) : Cx := if split then (signed 16 (coefValue s n p 1 1 i).toNat, 0) else cxOf (coefValue s n p 2 2 i)
  let old (i : Nat) : Cx :=
    if split then (signed 16 (coefValue s n p set set (64 + i)).toNat, 0) else cxOf (coefValue s n p set set (192 + i))
  let is := List.range (if split then 128 else 4096)
  ((is.map (fun i => distance (now i) (old i))).sum, (is.map (fun i => distance (old i) (0, 0))).sum)

/-- 10 log10 of a ratio in 0.1 dB, rounded down, within -204.7 and +204.7 dB; -3276.8 dB where the sets are equal (R131, R151; the
rounding and the ends are a DESIGN CHOICE, log entry 51). -/
def driftOf (x : Nat × Nat) : Int :=
  if x.1 = 0 then -32768
  else if x.2 ≤ x.1 then (if x.2 = 0 then 2047 else ratioCode 11 100 x.1 x.2)
  else
    let c := ratioCode 11 100 x.2 x.1
    if 10 ^ c * x.1 ^ 100 = x.2 ^ 100 then -c else -(c : Int) - 1

/-- ECHO_DRIFT_CHECK: every 64 stages the drift figures of a pair over its E3 coefficients (E2 in SPLITBAND), in 0.1 dB; beyond
STORE the stored set is refreshed at the next stage boundary, beyond RETRAIN a full retrain is requested (R131, R133). The taps of E2
are those of MEM 0x1: the operand `_e2` has no effect. -/
def execEchoDriftCheck (n : Port) (sub : Option Pair) (p : Pair) (_e2 : List Int) (s : State) : Host.Outcome State Fault Refusal :=
  let l : LinkId := ⟨n, sub⟩
  if (s.link l).phase != 7 then .next s
  else
    let split := (s.link l).splitband
    let st := driftOf (driftSums s n p 7 split)
    let tr := driftOf (driftSums s n p 8 split)
    let s := (s.setFld (PAIR_ECHO_DRIFT.STORED n p) (unsigned 16 st)).setFld (PAIR_ECHO_DRIFT.TRAINED n p) (unsigned 16 tr)
    let s := if signed 16 (s.fld (PORT_ECHO_DRIFT_CFG.STORE n)) < st then
        s.modPair n p (fun k => { k with storeDue := true }) else s
    .next (if signed 16 (s.fld (PORT_ECHO_DRIFT_CFG.RETRAIN n)) < tr then showLink l (requestRetrain l 1 s) else s)

/-- ECHO_STORE_REFRESH: at the stage boundary the current E2, E3, TD_DELAY, D and trims replace the stored set; counted
(R131). -/
def execEchoStoreRefresh (n : Port) (p : Pair) (s : State) : Host.Outcome State Fault Refusal :=
  if !(s.pair n p).storeDue then .next s
  else
    let k := s.link (linkOfPair s n p)
    let s := refreshStored n p s
    let s := s.modPair n p (fun q => { q with storeDue := false, storedIds := some (k.ownId, k.peerId) })
    .next (s.inc (PAIR_ECHO_STORES n p))

/-! ### Crosstalk -/

/-- FEXT_H_REESTIMATE: every 256 stages H is estimated afresh from decisions, W stays; the 3 × 3 equalisers of R136 follow from H and
are those that `setWeights` gives for three pairs. The median suppressions, in 0.25 dB, show
in PORT_XT_STATUS (R135, R136). -/
def execFextHReestimate (l : LinkId) (fext nextOwn nextPartner : Nat) (s : State) : Host.Outcome State Fault Refusal :=
  let n := l.n
  if (s.link l).phase != 7 then .next s
  else
    let s := if s.flag (PORT_ECHO_ADAPT.FREEZE n) then s
      else forEach (maskPairs (s.link l).carryRx) (fun p s => trainRow (gpair n p) s) s
    let s := (s.setFld (PORT_XT_STATUS.FEXT n) (min fext 255)).setFld (PORT_XT_STATUS.NEXT_OWN n) (min nextOwn 255)
    let s := if inEffect s n mBUNDLE then
        (s.setFld (PORT_XT_STATUS.NEXT_PARTNER n) (min nextPartner 255)).setFld (PORT_XT_STATUS.BUNDLE_CONVERGED n)
          (decide (80 ≤ nextPartner)).toNat
      else s
    .next s

/-! ### Dead pairs -/

/-- DEAD_STAGES as it acts, 2 to 13 (R147). -/
def deadStages (s : State) (n : Port) : Nat := min 13 (max 2 (s.fld (PORT_RX_LIMITS.DEAD_STAGES n)))

/-- DEAD_PAIR_DECLARE: pilots below DEAD_SNR for DEAD_STAGES stages; counted, shown, a pair fault with code DEAD (R147,
R191, R215, R217). -/
def execDeadPairDeclare (l : LinkId) (p : Pair) (s : State) : Host.Outcome State Fault Refusal :=
  let n := l.n
  if !isUp s l || s.flag (PAIR_QUALITY.DEAD n p) || decide ((s.pair n p).deadRun < deadStages s n) then .next s
  else
    let s := histFlag n p 3 (captureProfile n p 2 (s.inc (PORT_DEAD_PAIR n)))
    let s := (s.setFld (PAIR_QUALITY.DEAD n p) 1).setFld (PAIR_QUALITY.LQ n p) 0
    .next (showLink l (pairFault l p 1 s))

/-! ### The coefficient windows -/

/-- The fields of a write to PAIR_COEF_ADDR (R151): AUTO_INC, MEM, INDEX; SNAP_VALID clears (R149). -/
def writeCoefAddr (n : Port) (p : Pair) (v : Word) (s : State) : State :=
  let w := v.toNat
  let s := ((s.setFld (PAIR_COEF_ADDR.AUTO_INC n p) (bits w 24 24)).setFld (PAIR_COEF_ADDR.MEM n p)
    (bits w 19 16)).setFld (PAIR_COEF_ADDR.INDEX n p) (bits w 12 0)
  s.setFld (PAIR_COEF_STATUS.SNAP_VALID n p) 0

/-- A write of PAIR_COEF_ADDR; with SNAPSHOT = 1 the copy of MEM begins (R149). -/
def writeCoefWindow (n : Port) (p : Pair) (v : Word) (s : State) : State :=
  let s := writeCoefAddr n p v s
  if bit v.toNat 31 then s.setFld (PAIR_COEF_STATUS.SNAP_BUSY n p) 1 else s

/-- COEF_SNAPSHOT_REQUEST: PAIR_COEF_ADDR is written with SNAPSHOT = 1 (R149). -/
def execCoefSnapshotRequest (n : Port) (p : Pair) (v : Word) (s : State) : Host.Outcome State Fault Refusal :=
  .next (writeCoefWindow n p v s)

/-- COEF_SNAPSHOT_DONE: at the symbol boundary the memory stands in the snapshot buffer (R149): the one that MEM names then, also where
MEM was written while SNAP_BUSY was 1 (DESIGN CHOICE, log entry 47). -/
def execCoefSnapshotDone (n : Port) (p : Pair) (s : State) : Host.Outcome State Fault Refusal :=
  if !s.flag (PAIR_COEF_STATUS.SNAP_BUSY n p) then .next s
  else
    let mem := s.fld (PAIR_COEF_ADDR.MEM n p)
    let s := takeSnapshot n p mem s
    .next ((s.setFld (PAIR_COEF_STATUS.SNAP_BUSY n p) 0).setFld (PAIR_COEF_STATUS.SNAP_VALID n p) 1)

/-- COEF_MEM_SELECT: a write of MEM (R149). -/
def execCoefMemSelect (n : Port) (p : Pair) (v : Word) (s : State) : Host.Outcome State Fault Refusal :=
  .next (writeCoefAddr n p v s)

/-- INDEX after an access to PAIR_COEF_DATA: it wraps to 0 after the memory's last entry (R150). -/
def stepCoefIndex (n p : Nat) (s : State) : State :=
  let i := s.fld (PAIR_COEF_ADDR.INDEX n p)
  let last := memEntries (s.fld (PAIR_COEF_ADDR.MEM n p))
  if s.flag (PAIR_COEF_ADDR.AUTO_INC n p) then
    s.setFld (PAIR_COEF_ADDR.INDEX n p) (if last ≤ i + 1 then 0 else i + 1)
  else s

/-- PWR_PHASE.PHASE is TEST (R383). -/
def isTestPhase (s : State) : Bool := s.fld PWR_PHASE.PHASE == 2

/-- A write to PAIR_COEF_DATA takes effect: TEST phase, and the port neither in showtime nor in start-up (R149). A fast
retrain counts with showtime (log entry 14). -/
def mayWriteCoef (s : State) (n : Port) : Bool :=
  isTestPhase s && (activeLinks s n).all (fun l => !isUp s l && !inStartup s l)

/-- Put a written entry where it belongs: the front-end settings stand in the pair's trims and gain (R150); a gain code above 24 is
taken as 24 (DESIGN CHOICE, log entry 47). -/
def writeCoefEntry (n p mem i : Nat) (v : Word) (s : State) : State :=
  if memEntries mem ≤ i then s
  else if mem = 9 then
    (if i = 0 then s.modPair n p (fun k => { k with trimR := v.toNat % 256 })
     else if i = 1 then s.modPair n p (fun k => { k with trimC := v.toNat % 256 })
     else s.setFld (PAIR_AGC.AGAIN n p) (min 24 (v.toNat % 256)))
  else s.setCoef (gpair n p) mem i (if mem ≤ 1 then word (v.toNat % 2 ^ 16) else v)

/-- A write of PAIR_COEF_DATA: an entry of the selected memory is written where R149 allows; any other write is ignored and
sets WRITE_IGNORED. The index steps on (R151). -/
def writeCoefData (n : Port) (p : Pair) (v : Word) (s : State) : State :=
  let i := s.fld (PAIR_COEF_ADDR.INDEX n p)
  let mem := s.fld (PAIR_COEF_ADDR.MEM n p)
  let s := if mayWriteCoef s n then writeCoefEntry n p mem i v s
    else s.setFld (PAIR_COEF_STATUS.WRITE_IGNORED n p) 1
  stepCoefIndex n p s

/-- COEF_DATA_WRITE (R149). -/
def execCoefDataWrite (n : Port) (p : Pair) (v : Word) (s : State) : Host.Outcome State Fault Refusal :=
  .next (writeCoefData n p v s)

end Sys2Proof.Machine
end

