-- ==== Sys2Proof/Machine/Startup.lean ====
section
/-! DEFINITION. Link start-up, G0 to showtime, and fast retrain (R153 to R196). -/
namespace Sys2Proof.Machine

/-! ### Greeting bursts sent -/

/-- Burst types (R164). -/
def tGREET : Nat := 1
def tREPLY : Nat := 2
def tCONFIRM : Nat := 3
def tACK : Nat := 4
def tNAK : Nat := 5
def tVERDICT : Nat := 6

/-- The 122 header bits of a burst (R162). -/
def burstHeader (ty npages level attempt sender echo rcrc : Nat) : Nat :=
  let top := ty % 16 * 2 ^ 102 + npages % 16 * 2 ^ 98 + level % 4 * 2 ^ 96 + attempt % 256 * 2 ^ 88 +
    sender % 2 ^ 32 * 2 ^ 56 + echo % 2 ^ 32 * 2 ^ 24 + rcrc % 2 ^ 16 * 2 ^ 8
  top * 2 ^ 16 + crc16 (bitsMsb 106 top)

/-- Page 0 of a link (R174). -/
def page0 (s : State) (l : LinkId) : Nat :=
  let n := l.n
  let psd := allPairs.foldl (fun a p => a + (s.pair n p).psd % 32 * 2 ^ (5 * p)) 0
  0x01 * 2 ^ 56 + 0xA1 * 2 ^ 48 + modeSet s n * 2 ^ 36 + (s.link l).tier % 4 * 2 ^ 34 +
    (laneHalf s n).toNat * 2 ^ 33 + s.fld (PORT_RX_CFG.SB_AUTO n) * 2 ^ 32 + psd

/-- Page 1 of a link (R174). -/
def page1 (s : State) (l : LinkId) : Nat :=
  let asg := s.flag MR_ID.ASSIGNED
  (s.reg (PORT_LOCAL_TAG l.n)).toNat * 2 ^ 32 + (!asg).toNat * 2 ^ 30 +
    (if asg then s.fld MR_ID.DEVID else 0) * 2 ^ 24 + l.n.val * 2 ^ 16 +
    (match l.sub with | some p => p.val | none => 0) * 2 ^ 8

/-- Send a burst of a type with pages; CONFIRM carries RESULT_CRC (R162, R164). -/
def sendBurst (l : LinkId) (ty : Nat) (pages : List Nat) (s : State) : State :=
  let k := s.link l
  let att := if ty = tGREET then k.attempt else k.peerAttempt
  let echo := if ty = tGREET then 0 else k.peerId
  let rc := if ty = tCONFIRM then crc16 (bitsMsb 32 k.resultWord) else 0
  let hdr := burstHeader ty pages.length k.level att k.ownId echo rc
  s.emit (.burst l ty hdr pages preambleLines preambleSigns (burstLevel k.level) (burstSymbols hdr pages))

/-- Send a burst with the two capability pages. -/
def sendCaps (l : LinkId) (ty : Nat) (s : State) : State :=
  sendBurst l ty [page0 s l, page1 s l] (s.modLink l (fun k => { k with sentHalf := laneHalf s l.n }))

/-! ### Greeting bursts received -/

/-- DET_THRESH and CAPTURE_DB as they act (R195), as they stood at G0 entry. -/
def detThresh (k : LinkSt) : Nat := min 0xF0 (max 0x20 (bits k.greetCfg 31 24))
def captureDb (k : LinkSt) : Nat := min 12 (max 3 (bits k.greetCfg 23 20))

/-- The receiver of a pair listens for bursts: G0, G1, and the verdict exchange of G2. -/
def listens (k : LinkSt) : Bool := decide (1 ≤ k.phase ∧ k.phase ≤ 3)

/-- The fast AGC runs: G0 and G1 (R116). -/
def agcRuns (k : LinkSt) : Bool := k.phase == 1 || k.phase == 2

/-! ### The preamble detector (R165, R167) -/

/-- For each sample of `rx`, the samples of the receiver after analogue gain that follow the 767 of `before`: the two sums of R165, of
products with the sample 256 earlier, without its sign, and of squares, over the last 512 samples. -/
def preambleSums (before rx : List Int) : List (Nat × Nat) :=
  let xs := (before ++ rx).reverse
  let sums (i : Nat) : Nat × Nat :=
    let w := (xs.drop (rx.length - 1 - i)).take 768
    ((List.zipWith (· * ·) (w.take 512) (w.drop 256)).sum.natAbs, (w.take 512).foldl (fun a r => a + (r * r).toNat) 0)
  (List.range rx.length).map sums

/-- How far a pair's detector is: the run of samples at or above the threshold and e(n) at its first; the level of a detection that the
run completed; whether the metric fell below the threshold before it and after it. -/
structure Scan where
  run : Nat
  first : Nat
  hit : Option Nat
  before : Bool
  after : Bool

/-- One sample: c(n) against the threshold in 1/256; e(n) at least `least` (R165, R167). -/
def scanSample (thresh : Nat) (enough : Nat → Bool) (x : Scan) (c : Nat × Nat) : Scan :=
  if thresh * c.2 ≤ 256 * c.1 ∧ c.2 ≠ 0 ∧ enough c.2 then
    let first := if x.run = 0 then c.2 else x.first
    { x with run := x.run + 1, first := first, hit := if x.run + 1 = 64 ∧ x.hit.isNone then some first else x.hit }
  else { x with run := 0, before := x.before || x.hit.isNone, after := x.after || x.hit.isSome }

/-- A detector goes through samples. -/
def scanPreamble (thresh : Nat) (enough : Nat → Bool) (run first : Nat) (before rx : List Int) : Scan :=
  (preambleSums before rx).foldl (scanSample thresh enough) ⟨run, first, none, false, false⟩

/-- A level stands at least CAPTURE_DB above another (R167). -/
def captures (k : LinkSt) (old new : Nat) : Bool := decide (10 ^ captureDb k * old ^ 10 ≤ new ^ 10)

/-- A preamble level in 0.25 dBFS, rounded down: e(n) against 512 samples of full scale (R165, R196). -/
def dbfsOf (e : Nat) : Int :=
  let full := 512 * (Config.adcFull * Config.adcFull)
  if e = 0 then -2048
  else if full ≤ e then (ratioCode 11 40 e full : Int)
  else
    let c := ratioCode 11 40 full e
    if 10 ^ c * e ^ 40 = full ^ 40 then -c else -(c : Int) - 1

/-- A burst ends on a pair: the detection ends, the AGC is released (R116, R166). -/
def endBurst (l : LinkId) (p : Nat) (s : State) : State :=
  let s := s.modPair l.n.val p (fun q => { q with detect := none, hdrDone := false, detLive := false })
  if agcRuns (s.link l) then s.setFld (PAIR_AGC.FROZEN l.n p) 0 else s

/-- A detection begins on a pair: counted, the AGC freezes at a gain code (R116, R165). -/
def beginDetect (l : LinkId) (p : Nat) (level gain : Nat) (s : State) : State :=
  let s := (s.modPair l.n.val p (fun q => { q with detect := some level, hdrDone := false, detLive := true })).inc
    (PAIR_GREET_DET l.n p)
  if agcRuns (s.link l) then
    (s.setFld (PAIR_AGC.FROZEN l.n p) 1).setFld (PAIR_AGC.AGAIN l.n p) (min gain 24)
  else s

/-- A preamble of a level has been detected on a pair. While a burst is being received it counts of itself but does not take the receiver
over (CAPTURE_OVERRIDE does that, R167), and after a decoded header it is ignored, and counted where it would have overridden
(R168). -/
def detected (l : LinkId) (p level gain : Nat) (s : State) : State :=
  let n := l.n.val
  let q := s.pair n p
  match q.detect with
  | none => beginDetect l p level gain s
  | some d =>
    if q.hdrDone then (if captures (s.link l) d level then s.inc (PAIR_GREET_IGNORED n p) else s)
    else if q.detLive then s
    else (s.modPair n p (fun q => { q with detLive := true })).inc (PAIR_GREET_DET n p)

/-- The metric of a pair falls below the threshold: the detection that lasts ends (R165). -/
def endDetect (n p : Nat) (fell : Bool) (s : State) : State :=
  if fell then s.modPair n p (fun q => { q with detLive := false }) else s

/-- PREAMBLE_DETECT: samples `rx` come on a pair after the 767 of `before`; a preamble is detected where c(n) has stood at or above the
threshold for 64 of them in a row (R165). `gain` is the code where the fast AGC stands. One detection at most is taken from the samples
of one command. -/
def execPreambleDetect (n : Port) (p : Pair) (before rx : List Int) (gain : Nat) (s : State) :
    Host.Outcome State Fault Refusal :=
  let l := linkOfPair s n p
  let k := s.link l
  let q := s.pair n p
  if !listens k then .next s
  else
    let x := scanPreamble (detThresh k) (fun _ => true) q.detRun q.detFirst before rx
    let s := endDetect n p x.before (s.modPair n p (fun q => { q with detRun := x.run, detFirst := x.first }))
    match x.hit with
    | none => .next s
    | some e => .next (endDetect n p x.after (detected l p e gain s))

/-- CAPTURE_OVERRIDE: before the header is decoded, a preamble stronger by CAPTURE_DB in samples `rx` takes the receiver over (R167); where
the AGC has not frozen again in time both bursts are lost. -/
def execCaptureOverride (n : Port) (p : Pair) (before rx : List Int) (gain : Nat) (frozenInTime : Bool) (s : State) :
    Host.Outcome State Fault Refusal :=
  let l := linkOfPair s n p
  let k := s.link l
  let q := s.pair n p
  match q.detect with
  | none => .next s
  | some d =>
    if !listens k || q.hdrDone then .next s
    else match (scanPreamble (detThresh k) (captures k d) 0 0 before rx).hit with
      | none => .next s
      | some e =>
        let s := beginDetect l p e gain (s.inc (PAIR_GREET_CAPTURE n p))
        .next (if frozenInTime then s else endBurst l p s)

/-! ### A burst's header and body (R160, R163, R166) -/

/-- The channel of the robust set from the 16 received preamble lines, in 2^-14: at each line its value less the line's own phase,
between lines by linear interpolation, beyond the last as at it (DESIGN CHOICE, log entry 51; R160). -/
def lineChannel (lines : List Cx) (k : Nat) : Cx :=
  let at_ (i : Nat) : Cx := (lines.getD i (0, 0)).mul (turnAt (32 * (i * i))).conj
  let i := min 15 ((k - 8) / 4)
  let r : Int := ((k - 8) % 4 : Nat)
  let x := at_ i
  let y := at_ (min 15 (i + 1))
  ((x.1 * (4 - r) + y.1 * r) / 4, (x.2 * (4 - r) + y.2 * r) / 4)

/-- A value of the robust set, equalised, in the unit of a receive value: a line has twice the amplitude of a subcarrier (R160), √8 against
√2 for (+1, +1); 181 stands for 64 √8. -/
def equaliseRobust (lines : List Cx) (k : Nat) (x : Cx) : Cx :=
  let h := lineChannel lines k
  let y := x.mul h.conj
  let e := h.1 * h.1 + h.2 * h.2
  (y.1 * 181 * 16384 / e, y.2 * 181 * 16384 / e)

/-- The information bits of a codeword of `count` coded pairs from the received values of its symbols on the robust set (R163). -/
def decodeRobust (lines : List Cx) (count : Nat) (ys : List Cx) : List Bool :=
  wmDecode (((ys.zipIdx).map (fun y => equaliseRobust lines (8 + y.2 % 64) y.1)).take count)

/-- The 122 header bits, from the lines of the preamble and the values of the two header symbols after them (R162, R163). -/
def decodedHeader (rx : List Cx) : Nat := ofBitsMsb ((decodeRobust (rx.take 16) 128 (rx.drop 16)).take 122)

/-- The pages of a body and its CRC-32C (R163). -/
def decodedBody (lines : List Cx) (pages : Nat) (ys : List Cx) : List Nat × Nat :=
  let bs := decodeRobust lines (64 * pages + 38) ys
  ((List.range pages).map (fun i => ofBitsMsb ((bs.drop (64 * i)).take 64)), ofBitsMsb ((bs.drop (64 * pages)).take 32))

/-- BURST_HEADER_DECODE: the received values of a burst's preamble lines and header symbols on a pair, and once it has come those of its
body. A bad HCRC or type, or a bad body, ends the burst and is counted (R160, R164, R166); a body that is good leaves the level of its
preamble. -/
def execBurstHeaderDecode (n : Port) (p : Pair) (rx : List (Int × Int)) (body : Option (List (Int × Int))) (s : State) :
    Host.Outcome State Fault Refusal :=
  let l := linkOfPair s n p
  if (s.pair n p).detect.isNone then .next s
  else
    let hdr := decodedHeader rx
    let ty := bits hdr 121 118
    if crc16 (bitsMsb 106 (hdr / 2 ^ 16)) != hdr % 2 ^ 16 || !(decide (1 ≤ ty ∧ ty ≤ 6)) then
      .next (endBurst l p (s.inc (PAIR_GREET_HDR_BAD n p)))
    else
      match body with
      | none => .next (s.modPair n p (fun q => { q with hdrDone := true }))
      | some ys =>
        let b := decodedBody (rx.take 16) (bits hdr 117 114) ys
        if bodyCrc b.1 != b.2 then .next (endBurst l p (s.inc (PAIR_GREET_BODY_BAD n p)))
        else .next (endBurst l p (s.modPair n p (fun q => { q with heardLevel := q.detect.getD 0 })))

/-- The burst that the port takes as received in a burst interval is decoded on the most pairs, on a tie at the higher preamble level
(R169). Two that stand equal in both are each taken: the rule names none (DESIGN CHOICE, log entry 47). -/
def winsInterval (b : Burst) : Bool :=
  b.rivals.all (fun r => decide (r.1.length < b.onPairs.length) || (r.1.length == b.onPairs.length && decide (r.2 ≤ b.dbfs)))

/-- Count one on each pair of a list. -/
def countPairs (n : Port) (ps : List Pair) (a : Nat → Nat → Nat) (s : State) : State :=
  forEach ps (fun p s => s.inc (a n p)) s

/-- Identities held by the other ports and sub-links (R158 rule 3). -/
def otherIds (s : State) (l : LinkId) : List Nat :=
  (s.links.filter (fun x => x.1 != linkKey l)).map (fun x => x.2.ownId)

/-- The rules of R158 and R169 on a good burst: whether it is acted on. `caps` says that it carries page 0. The burst taken as
received in its interval makes the pairs that decoded another count it; another burst does nothing of itself. -/
def acceptBurst (l : LinkId) (b : Burst) (caps : Bool) (s : State) : Bool × State :=
  let n := l.n
  let k := s.link l
  let s := if listens k && winsInterval b then countPairs n (b.rivals.flatMap (·.1)) PAIR_GREET_REJECT s else s
  if !listens k || !winsInterval b then (false, s)
  else if b.sender = k.ownId ∧ b.nearOwn then (false, countPairs n b.onPairs PAIR_GREET_OWN s)
  else if b.sender = k.ownId then
    -- identity collision: a new identity and a new attempt, from G1 on by G0 entry (R108)
    let s := s.inc (PORT_ID_COLLIDE n)
    if k.phase ≠ 1 then (false, enterG0One l s)
    else
      let (i, s) := drawIdentity s
      (false, drawSlots l (s.modLink l (fun k => { k with
        ownId := i, waitReply := false, confirms := 0, confirmed := false, setup := false })))
  else if (otherIds s l).contains b.sender && b.sender != 0 then (false, countPairs n b.onPairs PAIR_GREET_REJECT s)
  else if b.echo ≠ 0 ∧ b.echo ≠ k.ownId then (false, countPairs n b.onPairs PAIR_GREET_REJECT s)
  else if k.phase ≠ 1 ∧ k.peerId ≠ b.sender then (false, countPairs n b.onPairs PAIR_GREET_REJECT s)
  else if caps && bit (b.pages.getD 0 0) 40 != breakoutSet s n then
    let s := s.inc (PORT_GREET_MODE n)
    (false, if breakoutSet s n then s.modLink l (fun k => { k with declined := setBit k.declined mBREAKOUT true })
            else s)
  else
    let s := forEach b.onPairs (fun p s =>
      let s := s.setFld (PAIR_GREET_LEVEL.LEVEL n p) (unsigned 16 (dbfsOf (s.pair n p).heardLevel))
      if agcRuns k then s.modPair n p (fun q => { q with greetGain := s.fld (PAIR_AGC.AGAIN n p) }) else s) s
    (true, s)

/-! ### G0 -/

/-- G0_BACKOFF_EXPIRE: the random listening is over; the GREET of the next attempt is sent (R170). -/
def execG0BackoffExpire (l : LinkId) (s : State) : Host.Outcome State Fault Refusal :=
  let k := s.link l
  if k.phase != 1 || k.waitReply then .next s
  else
    let s := s.modLink l (fun k => { k with attempt := k.attempt + 1, waitReply := true, wait := 1 })
    .next (showLink l (sendCaps l tGREET s))

/-- G0_REPLY_TIMEOUT: no reply within a slot; counted, the level rises, a new back-off (R170). -/
def execG0ReplyTimeout (l : LinkId) (s : State) : Host.Outcome State Fault Refusal :=
  let k := s.link l
  if k.phase != 1 || !k.waitReply then .next s
  else
    let s := s.inc (PORT_G0_NOREPLY l.n)
    .next (showLink l (drawSlots l (s.modLink l (fun k => { k with
      waitReply := false, level := min (k.level + 1) 3 }))))

/-! ### G1 -/

/-- The modes resolved from the two page-0 sets (R175). -/
def resolveModes (mine theirs : Nat) : Nat :=
  let a := bits mine 47 36
  let b := bits theirs 47 36
  let both (i : Nat) : Bool := bit a i && bit b i
  let m := setBit (setBit (setBit 0 mREACH (both mREACH)) mTRIPAIR (both mTRIPAIR)) mPLAIN (both mPLAIN)
  let m := setBit m mTRANSPARENT (both mTRANSPARENT && bit mine 33 == bit theirs 33)
  setBit (setBit m mSPLITBAND (bit a mSPLITBAND || bit b mSPLITBAND)) mBREAKOUT (both mBREAKOUT)

/-- Resolve against the peer's pages: modes, maximum tier (the lower rate, the larger code: log entry 13), the
result word (R171, R175), the bits that show DECLINED. -/
def resolve (l : LinkId) (pages : List Nat) (s : State) : State :=
  let mine := page0 s l
  let theirs := pages.getD 0 0
  let r := resolveModes mine theirs
  let tier := max (bits mine 35 34) (bits theirs 35 34)
  let half := (bit r mTRANSPARENT && bit mine 33).toNat
  let neg := (List.range 12).filter (fun i => !isLocalMode i)
  let dec := neg.foldl (fun m i => setBit m i (bit (modeSet s l.n) i && !bit r i)) 0
  s.modLink l (fun k => { k with
    peerPages := pages, resolved := r, maxTier := tier, declined := dec, resultWord := r + tier * 2 ^ 12 + half * 2 ^ 14 })

/-- The protocol versions of the two ends are equal (R175). -/
def protoOk (s : State) (l : LinkId) (pages : List Nat) : Bool :=
  bits (page0 s l) 63 56 == bits (pages.getD 0 0) 63 56

/-- GREET: while listening the port becomes responder and sends REPLY at the higher level (R170, R171). -/
def execGreet (l : LinkId) (b : Burst) (s : State) : Host.Outcome State Fault Refusal :=
  let (ok, s) := acceptBurst l b true s
  let k := s.link l
  if !ok || k.phase != 1 || k.waitReply then .next (showLink l s)
  else
    let s := s.modLink l (fun k => { k with
      phase := 2, initiator := false, peerId := b.sender, peerPages := b.pages, peerAttempt := b.attempt % 256,
      level := max k.level (b.level % 4), startedAt := s.now, confirms := 0, confirmed := false, setup := false })
    .next (showLink l (sendCaps l tREPLY s))

/-- REPLY: the port becomes initiator, resolves and sends CONFIRM (R170, R171, R175). -/
def execReply (l : LinkId) (b : Burst) (s : State) : Host.Outcome State Fault Refusal :=
  let (ok, s) := acceptBurst l b true s
  let k := s.link l
  if !ok || k.phase != 1 || !k.waitReply || b.echo != k.ownId || b.attempt % 256 != k.attempt % 256 then
    .next (showLink l s)
  else
    let s := s.modLink l (fun k => { k with
      phase := 2, initiator := true, waitReply := false, peerId := b.sender, peerPages := b.pages,
      peerAttempt := b.attempt % 256, level := b.level % 4, startedAt := s.now, confirms := 1, confirmed := false,
      setup := false })
    -- with unequal PROTO the CONFIRM lets the responder resolve too: both ends return with cause PROTO (R175; log entry 50)
    let s := sendCaps l tCONFIRM (resolve l b.pages s)
    .next (if protoOk s l b.pages then showLink l s else startupFail l 2 s)

/-- CONFIRM: the responder resolves and compares RESULT_CRC; CONFIRM_ACK restarts its set-up interval, CONFIRM_NAK ends
the start-up with cause CAPABILITY (R171 to R173). -/
def execConfirm (l : LinkId) (b : Burst) (s : State) : Host.Outcome State Fault Refusal :=
  let (ok, s) := acceptBurst l b true s
  let k := s.link l
  if !ok || k.phase != 2 || k.initiator then .next (showLink l s)
  else if !protoOk s l b.pages then .next (startupFail l 2 s)
  else
    let s := resolve l b.pages s
    if crc16 (bitsMsb 32 (s.link l).resultWord) = b.resultCrc then
      .next (showLink l (sendBurst l tACK [] (s.modLink l (fun k => { k with confirmed := true, setup := true }))))
    else .next (startupFail l 3 (sendBurst l tNAK [] s))

/-- CONFIRM_ACK: the initiator starts its set-up interval (R171, R173). -/
def execConfirmAck (l : LinkId) (b : Burst) (s : State) : Host.Outcome State Fault Refusal :=
  let (ok, s) := acceptBurst l b false s
  let k := s.link l
  if !ok || k.phase != 2 || !k.initiator then .next (showLink l s)
  else .next (showLink l (s.modLink l (fun k => { k with confirmed := true, setup := true })))

/-- CONFIRM_NAK: the initiator ends the start-up with cause CAPABILITY (R172). -/
def execConfirmNak (l : LinkId) (b : Burst) (s : State) : Host.Outcome State Fault Refusal :=
  let (ok, s) := acceptBurst l b false s
  let k := s.link l
  if !ok || k.phase != 2 || !k.initiator then .next (showLink l s) else .next (startupFail l 3 s)

/-- CONFIRM_TIMEOUT: the initiator repeats CONFIRM, three copies in all, then fails with cause G1_TIMEOUT (R172). -/
def execConfirmTimeout (l : LinkId) (s : State) : Host.Outcome State Fault Refusal :=
  let k := s.link l
  if k.phase != 2 || !k.initiator || k.setup then .next s
  else if k.confirms < 3 then
    .next (showLink l (sendCaps l tCONFIRM (s.modLink l (fun k => { k with confirms := k.confirms + 1 }))))
  else .next (startupFail l 1 s)

/-- G1_RESPONDER_TIMEOUT: no CONFIRM within 200 µs of the REPLY: cause G1_TIMEOUT (R172). -/
def execG1ResponderTimeout (l : LinkId) (s : State) : Host.Outcome State Fault Refusal :=
  let k := s.link l
  if k.phase != 2 || k.initiator || k.confirmed then .next s else .next (startupFail l 1 s)

/-- SETUP_INTERVAL_END: G2 begins with the resolved modes (R128, R152, R173); its training uses every data subcarrier, the band plan comes
with G3 (R176, R178). -/
def execSetupIntervalEnd (l : LinkId) (s : State) : Host.Outcome State Fault Refusal :=
  let k := s.link l
  if k.phase != 2 || !k.setup then .next s
  else
    let s := s.modLink l (fun k => { k with
      phase := 3, g2Step := 0, echoFail := 0, timingBad := false, ownVerdict := 0, peerVerdict := none,
      negotiated := k.resolved, splitband := false, sbAuto := false, setup := false })
    let s := (s.setFld (PORT_RX_STATUS.ECHO_FAIL l.n) 0).setFld (PORT_RX_STATUS.SB_CHOSEN l.n) 0
    .next (showLink l (sideG2 l s))

/-! ### G2 -/

/-- D of R126: the least depth from 1 to 8 with 1120 D − 1024 ≥ L_E; 8 where none reaches. -/
def echoDepth (len : Nat) : Nat :=
  ((List.range 8).map (· + 1)).find? (fun d => decide (len + 1024 ≤ 1120 * d)) |>.getD 8

/-- Data subcarriers whose ERLE lies below ERLE_MIN (R129). -/
def erleFails (s : State) (n p : Nat) : Nat :=
  let m := max 0xA0 (s.fld (PORT_RX_CFG.ERLE_MIN n))
  ((List.range 512).filter (fun k => !isExcluded k && decide (s.erleOf n p k < m))).length

/-- A pair fails echo training (R129). -/
def failsEcho (s : State) (n p : Nat) : Bool :=
  decide (min 477 (s.fld (PORT_RX_CFG.FAIL_MAX n)) < erleFails s n p)

/-- The power of residual echo at a subcarrier, from the power received while only this end transmits: less the noise of the quiet
interval; a residual below the noise counts as the noise (R127). -/
def residualEcho (s : State) (n p : Nat) (x : Nat × Nat) : Nat :=
  let v := s.noiseOf (gpair n p) x.1
  max (x.2 - v) v

/-- A transmit PSD over a power in 2^-30 of the nominal PSD, in `m` steps for 10 dB, the PSD that many steps above nominal; rounded
down. -/
def psdRatio (w m : Nat) (psd : Int) (power : Nat) : Int := psd + (if power = 0 then 2 ^ w - 1 else ratioCode w m (2 ^ 30) power : Nat)

/-- The median of some figures: of an even number, the mean of the middle two, rounded down (DESIGN CHOICE, log entry 51). -/
def medianOf (vs : List Int) : Int :=
  let xs := sortInts vs
  if xs.isEmpty then 0 else (xs.getD ((xs.length - 1) / 2) 0 + xs.getD (xs.length / 2) 0) / 2

/-- A complex coefficient times a factor in 2^-12. -/
def scaleCoef (n p mem i : Nat) (f : Int) (s : State) : State :=
  let x := cxOf (coefEntry s n p mem mem i)
  s.setCoef (gpair n p) mem i (wordOfCx (x.1 * f / 4096, x.2 * f / 4096))

/-- The analogue gain of a pair falls by `d` dB after the slot in which it listened: its diagonal of H is rescaled by that step, that of W
against it (R117, R128). The noise figures stand at the cable-attach interface, and the shortening equaliser has no scale. -/
def rescale (n p d : Nat) (s : State) : State :=
  if d = 0 then s
  else forEach ((List.range 512).map (· + 512 * p)) (fun i s =>
    scaleCoef n p 5 i (gainFactor (16 * d)) (scaleCoef n p 6 i (gainFactor (-(16 * d : Nat))) s)) s

/-- One pair's part of a step at the end that transmits (R117, R125 to R128). -/
def g2Send (l : LinkId) (step : Nat) (m : G2Meas) (s : State) : State :=
  let n := l.n.val
  let p := m.p.val
  let g := gpair n p
  let k := s.link l
  match step with
  | 2 =>
    let c := min (s.pair n p).greetGain (min m.gain 24)
    let s := if k.g2Step < 7 then s else rescale n p (s.fld (PAIR_AGC.AGAIN n p) - c) s
    restartGain n p ((s.setFld (PAIR_AGC.AGAIN n p) c).setFld (PAIR_AGC.FROZEN n p) 1)
  | 3 =>
    let s := s.modPair n p (fun k => { k with trimR := m.trimR % 256, trimC := m.trimC % 256 })
    s.setFld (PAIR_ECHO_STATUS.HYB n p) (min m.hyb 255)
  | 4 => trainMem g 1 (s.setFld (PAIR_ECHO_STATUS.TD_DELAY n p) (min m.tdDelay 255))
  | 5 =>
    let s := trainMem g 2 (s.setFld (PAIR_ECHO_STATUS.DEPTH n p) (echoDepth m.echoLen))
    forEach [0, 1, 2] (trainPart g 3) s
  | 6 =>
    let e (x : Nat × Nat) : Nat := residualEcho s n p x
    let s := forEach m.power (fun x s => s.setErle n p x.1 (psdRatio 10 40 (2 * ((s.pair n p).psd : Int) - 24) (e x)).toNat) s
    let vs := m.power.map (fun x => psdRatio 12 100 (5 * ((s.pair n p).psd : Int) - 60) (e x))
    (s.setFld (PAIR_ERLE.FAIL_COUNT n p) (erleFails s n p)).setFld (PAIR_ERLE.MEDIAN n p) (medianOf vs).toNat
  | 7 =>
    let s := gatherSet n p 7 (gatherSet n p 8 s)
    let gn := s.fld (PAIR_AGC.AGAIN n p)
    let s := s.modPair n p (fun q => { q with
      trainedGain := gn, storedGain := gn, storedIds := some (k.ownId, k.peerId), storeDue := false })
    let s := (s.setFld (PAIR_ECHO_DRIFT.STORED n p) 0x8000).setFld (PAIR_ECHO_DRIFT.TRAINED n p) 0x8000
    if failsEcho s n p then
      (s.modLink l (fun k => { k with echoFail := setBit k.echoFail p true })).setFld (PORT_RX_STATUS.ECHO_FAIL n) 1
    else s
  | _ => s

/-- One pair's part of a step at the silent end (R124, R128, R136). -/
def g2Listen (l : LinkId) (step : Nat) (m : G2Meas) (s : State) : State :=
  let n := l.n.val
  let p := m.p.val
  let g := gpair n p
  match step with
  | 3 =>
    let s := ((s.setFld (PAIR_TR_STATUS.LOCKED n p) m.locked.toNat).setFld (PAIR_TR_STATUS.TERR n p) m.terr).setFld
      (PAIR_TR_FREQ.FREQ n p) m.freq
    let s := s.modPair n p (fun q => { q with trPhase := 0, trFreq := loopFreq (signed 32 m.freq), trRate := 0 })
    if m.locked then s else s.modLink l (fun k => { k with timingBad := true })
  | 4 => trainMem g 0 (s.setFld (PAIR_TEQ_STATUS.SSNR n p) m.ssnr)
  | 5 => setWeights n p [p] (trainPart g 6 p s)
  | 6 =>
    forEach (m.snr.filter (fun x => !isExcluded x.1)) (fun x s => s.setSnr n p x.1 x.2) s
  | _ => s

/-- The training symbols that begin in a step of a transmit slot, as (first, count): symbol i starts 22.4 i ns after the 40 µs of
step 1 (R65, R128, R176). -/
def slotSymbols (step : Nat) : Nat × Nat :=
  let ends : List Nat := [0, 40, 100, 400, 1100, 1800, 1960, 2000]
  let upTo (us : Nat) : Nat := ((us - 40) * 10000 + 223) / 224
  let a := upTo (ends.getD (step - 1) 0)
  (a, upTo (ends.getD step 0) - a)

/-- The noise power per subcarrier that a pair measures in the quiet interval of a slot, at either end (R128). -/
def measureNoise (n : Nat) (m : G2Meas) (s : State) : State :=
  forEach m.noise (fun x s => s.setNoise (gpair n m.p.val) x.1 x.2) s

/-- G2_SLOT_STEP: the next of the seven steps of each of the two slots; the higher-identity end transmits in the first, training from
the end of its quiet interval (R128, R176). -/
def execG2SlotStep (l : LinkId) (meas : List G2Meas) (s : State) : Host.Outcome State Fault Refusal :=
  let k := s.link l
  if k.phase != 3 || decide (14 ≤ k.g2Step) then .next s
  else
    let sends := decide (k.g2Step < 7) == isHigher k
    let step := k.g2Step % 7 + 1
    let ms := meas.filter (fun m => (linkPairs l).contains m.p.val)
    let x := slotSymbols step
    let s := if step = 1 then forEach ms (measureNoise l.n) s else s
    let s := forEach ms (fun m s => if sends then g2Send l step m s else g2Listen l step m s) s
    let s := if sends then forEach (linkPairs l) (sendTraining l x.1 x.2) s else s
    .next (showLink l (s.modLink l (fun k => { k with g2Step := k.g2Step + 1 })))

/-- This end's verdict: ECHO_FAIL, SB, FAIL and CAUSE (R129, R177, R178). Where both causes of FAIL hold, ECHO is given
(log entry 14). -/
def verdictWord (s : State) (l : LinkId) : Nat :=
  let k := s.link l
  let forced := bit k.resolved mSPLITBAND
  let auto := s.flag (PORT_RX_CFG.SB_AUTO l.n)
  let bad := k.echoFail != 0 && !forced
  let sb := bad && auto
  let echo := bad && !auto
  let fail := echo || k.timingBad
  k.echoFail % 16 * 2 ^ 60 + sb.toNat * 2 ^ 59 + fail.toNat * 2 ^ 58 +
    (if echo then 4 else if k.timingBad then 5 else 0) * 2 ^ 48

/-- VERDICT_SEND: one copy of this end's VERDICT (R177). -/
def execVerdictSend (l : LinkId) (s : State) : Host.Outcome State Fault Refusal :=
  let k := s.link l
  if k.phase != 3 || decide (k.g2Step < 14) then .next s
  else
    let v := verdictWord s l
    .next (sendBurst l tVERDICT [v] (s.modLink l (fun k => { k with ownVerdict := v })))

/-- VERDICT: the peer's verdict is kept (R177). -/
def execVerdict (l : LinkId) (b : Burst) (s : State) : Host.Outcome State Fault Refusal :=
  let (ok, s) := acceptBurst l b false s
  if !ok || (s.link l).phase != 3 then .next (showLink l s)
  else .next (showLink l (s.modLink l (fun k => { k with peerVerdict := some (b.pages.getD 0 0) })))

/-! ### G3 and G4 -/

/-- Enter G3 with a band plan: stage 0, the SEQs of R105 at 0, nothing known of the far count (R105, R110, R179). -/
def enterG3 (l : LinkId) (s : State) : State :=
  let s := s.modLink l (fun k => { k with
    phase := 4, own := 0, far := 0, farPrev := 0, synced := false, adopted := false, wmSent := false, excluded := 0,
    trained := false, coachOn := false, coachRx := none,
    ownStreams := [], peerTables := [], decided := false, verify := 0, farVerify := 0, showStage := none,
    farShow := none, frRestarts := 0 })
  forEach (linkPairs l) (fun p s => s.modPair l.n.val p (fun q => { q with
    seqTx := 0, seqRx := 0, outs := [], ahead := [], waiting := [], sinceStatus := 0, txEntries := 0, rxEntries := 0, pilotSum := 0, pilotCount := 0,
    missRun := 0, prbsTx := List.replicate 31 true, scrambler := [], descrambler := [], refs := [], rxOut := [], freqs := [] })) (clearBands l s)

/-- G3_START: at 4100 µs the verdicts decide (R177, R178). -/
def execG3Start (l : LinkId) (s : State) : Host.Outcome State Fault Refusal :=
  let k := s.link l
  let own := verdictWord s l
  if k.phase != 3 || decide (k.g2Step < 14) then .next s
  else match k.peerVerdict with
    | none => .next (startupFail l 5 s)
    | some v =>
      if bit own 58 then .next (startupFail l (bits own 55 48) s)
      else if bit v 58 then
        .next (startupFail l 0xC (s.modLink l (fun k => { k with remoteCause := bits v 55 48 })))
      else
        let sb := bit own 59 || bit v 59
        let s := if sb then (s.inc (PORT_SB_AUTO l.n)).setFld (PORT_RX_STATUS.SB_CHOSEN l.n) 1 else s
        let s := s.modLink l (fun k => { k with splitband := sb || bit k.resolved mSPLITBAND, sbAuto := sb })
        .next (showLink l (enterG3 l s))

/-- G3_SYNC_TIMEOUT: no waymark sync within 128 stages: cause G3_SYNC (R180). -/
def execG3SyncTimeout (l : LinkId) (s : State) : Host.Outcome State Fault Refusal :=
  let k := s.link l
  if k.phase != 4 || k.synced || decide (k.own < 128) then .next s else .next (startupFail l 6 s)

/-- The streams tried, in order (R181): TRANSPARENT where resolved, then the tiers from the maximum down. Over the one pair of a
sub-link only tier 100 can be carried (R75, R111). -/
def streamOrder (k : LinkSt) (l : LinkId) : List Nat :=
  let tr := if bit k.negotiated mTRANSPARENT && l.sub.isNone then [if bit k.resultWord 14 then 5 else 4] else []
  tr ++ (if l.sub.isSome then [3] else (List.range 4).filter (fun t => decide (k.maxTier ≤ t)))

/-- The receive tables of the pairs `ps` for a stream over them, where each loads and is valid (R76, R77, R181). -/
def tablesFor (s : State) (l : LinkId) (ps : List Nat) (stream : Nat) : Option (List (Nat × List Nat)) :=
  let tg := targetMargin s l.n
  let sh := linkShare (s.link l) l stream ps.length
  let ts := ps.map (fun p => (p, computeTable s l (isPlain (s.link l)) p stream ps.length tg))
  if ts.all (fun x => match x.2 with | some t => tableValid s l x.1 .rx sh t | none => false) then
    some (ts.map (fun x => (x.1, x.2.getD [])))
  else none

/-- The first stream that loads on the pairs, with its tables. -/
def bestStream (s : State) (l : LinkId) (ps : List Nat) : Option (Nat × List (Nat × List Nat)) :=
  (streamOrder (s.link l) l).findSome? (fun st => (tablesFor s l ps st).map (fun ts => (st, ts)))

/-- Hold the receive tables of a SET and record its stream. -/
def holdSet (l : LinkId) (set : Nat) (x : Nat × List (Nat × List Nat)) (s : State) : State :=
  let s := forEach x.2 (fun t s => s.setHeldTable l.n t.1 .rx set t.2) s
  s.modLink l (fun k => { k with ownStreams := k.ownStreams ++ [(set, x.1)] })

/-- G4A_TABLE_COMPUTE: at the end of G4a the receive tables are computed, those of three pairs with TRIPAIR too; too few
pairs fail with cause PAIR, no stream with MARGIN (R181, R190). -/
def execG4aTableCompute (l : LinkId) (s : State) : Host.Outcome State Fault Refusal :=
  let k := s.link l
  let ready := (k.phase == 5 && decide (5120 ≤ k.own)) || (k.phase == 8 && decide (128 ≤ seqStage k))
  if !ready || !k.ownStreams.isEmpty then .next s
  else
    let ps := (linkPairs l).filter (fun p => !bit k.excluded p)
    let tri := bit k.negotiated mTRIPAIR && l.sub.isNone
    let full := ps.length == (linkPairs l).length
    if full then
      match bestStream s l ps with
      | none => .next (phaseFail l 8 s)
      | some x =>
        let s := holdSet l 0 x s
        let s := if tri then
            forEach ps (fun d s => match bestStream s l (ps.filter (· != d)) with
              | some y => holdSet l (d + 1) y s
              | none => s) s
          else s
        .next (showLink l s)
    else if ps.length = 3 ∧ tri then
      match bestStream s l ps, (linkPairs l).find? (fun p => bit k.excluded p) with
      | some x, some d => .next (showLink l (holdSet l (d + 1) x s))
      | _, _ => .next (phaseFail l 8 s)
    else .next (phaseFail l 7 s)

/-- The table of a TABLE frame: entries 4 to 495, the excluded ones empty (R72, R183). -/
def frameTable (f : SuFrame) : List Nat :=
  (List.range 496).map (fun k => if isExcluded k then emptyEntry else f.body.getD (k - 4) emptyEntry % 512)

/-- STARTUP_TABLE_FRAME: the first good copy of each TABLE frame is kept (R183). -/
def execStartupTableFrame (l : LinkId) (f : SuFrame) (s : State) : Host.Outcome State Fault Refusal :=
  let k := s.link l
  let open_ := k.phase == 5 || (k.phase == 8 && decide (seqStage k < 144))
  let p := f.pair.val
  let set := f.set % 16
  if !open_ || !frameGood f || f.kind != 1 || !(linkPairs l).contains p || decide (5 ≤ set) ||
      k.peerTables.any (fun x => x.1 == p && x.2.1 == set) then .next s
  else
    let t := frameTable f
    -- an invalid table is never activated: a frame that carries one counts as not received (R76; log entry 49)
    let pairs := if set = 0 then (linkPairs l).length else 3
    if !tableValid s l p .tx (linkShare k l (bits f.arg 19 17) pairs) t then .next s
    else
    let s := s.setHeldTable l.n p .tx set t
    .next (s.modLink l (fun k => { k with
      peerTables := k.peerTables ++ [(p, set, bits f.arg 19 17, bits f.arg 15 12)] }))

/-- The peer's CARRY, from its TABLE frames. -/
def peerCarry (k : LinkSt) : Option Nat := k.peerTables.head?.map (fun x => x.2.2.2)

/-- Write the chosen tables of both directions into bank 0 as the active bank, the shadow copies begin; the streams and the
carrying set stand (R73, R184). -/
def chooseSet (l : LinkId) (set carry rx tx : Nat) (s : State) : State :=
  let n := l.n
  let s := forEach (maskPairs carry) (fun p s =>
    let s := (s.setBank n p .rx 0 (s.heldTable n p .rx set)).setBank n p .tx 0 (s.heldTable n p .tx set)
    let s := (s.setFld (PAIR_TBL_STATUS.ACTIVE_TX n p) 0).setFld (PAIR_TBL_STATUS.ACTIVE_RX n p) 0
    (s.setFld (PAIR_TBL_STATUS.COPY_BUSY n p) 1).modPair n p (fun q => { q with
      copyTx := true, copyRx := true, prbsTx := List.replicate 31 true, prbsRx := [] })) s
  let s := s.modLink l (fun k => { k with
    decided := true, errSyms := 0, carry := carry, carryRx := carry, streamRx := rx, streamTx := tx, capacityLow := false,
    -- what a fallback removed stays so until a pair rejoins; a full start-up clears it (R225)
    deadMask := if k.phase = 8 then pairsMask ((maskPairs k.deadMask).filter (fun p => !bit carry p)) else 0 })
  let isT (x : Nat) : Bool := x == 4 || x == 5
  if isT rx && !isT tx then
    let s := s.modLink l (fun k => { k with capacityLow := true })
    setStream l .rx (tierByNet s l .rx (s.link l).maxTier) s
  else if isT tx && !isT rx then
    let s := s.modLink l (fun k => { k with capacityLow := true })
    setStream l .tx (tierByNet s l .tx (s.link l).maxTier) s
  else s.modLink l (fun k => { k with capacityLow := bit k.negotiated mTRANSPARENT && !isT rx })

/-- CARRYING_SET_DECIDE: the pairs in both ends' CARRY, and the tables they use, or the cause they fail with (R184). Where
no TABLE frame came, the peer's CARRY is unknown and the cause is TABLE (log entry 14). -/
def execCarryingSetDecide (l : LinkId) (s : State) : Host.Outcome State Fault Refusal :=
  let k := s.link l
  let ready := (k.phase == 6 && decide (5376 ≤ k.own)) || (k.phase == 8 && decide (144 ≤ seqStage k))
  if !ready || k.decided then .next s
  else match peerCarry k with
    | none => .next (phaseFail l 9 s)
    | some pc =>
      let ps := (linkPairs l).filter (fun p => !bit k.excluded p && bit pc p)
      let miss := (linkPairs l).filter (fun p => !ps.contains p)
      let tri := bit k.negotiated mTRIPAIR && l.sub.isNone
      let set := match miss with
        | [] => some 0
        | [d] => if tri then some (d + 1) else none
        | _ => none
      match set with
      | none => .next (phaseFail l 7 s)
      | some set =>
        let tx := k.peerTables.filter (fun x => x.2.1 == set && ps.contains x.1)
        match k.ownStreams.find? (fun x => x.1 == set) with
        | none => .next (phaseFail l 8 s)
        | some own =>
          if !ps.all (fun p => tx.any (fun x => x.1 == p)) then .next (phaseFail l 9 s)
          else .next (showLink l (chooseSet l set (pairsMask ps) own.2 ((tx.map (fun x => x.2.2.1)).headD 3) s))

/-! ### G5 -/

/-- STARTUP_STATUS_FRAME: the peer's VERIFY and SHOW_STAGE (R185 to R187). What follows from FAIL and from the first
SHOW_VALID comes at the next stage boundary. -/
def execStartupStatusFrame (l : LinkId) (f : SuFrame) (s : State) : Host.Outcome State Fault Refusal :=
  let k := s.link l
  if !inSequence k || decide (4 ≤ k.phase ∧ k.phase ≤ 5) || !frameGood f || f.kind != 2 ||
      !bit (carryOf k .rx) f.pair.val then .next s
  else
    let v := f.body.headD 0
    let s := s.modLink l (fun k => { k with farVerify := bits f.arg 19 18 })
    .next (if bit f.arg 17 then s.modLink l (fun k => { k with farShow := some (bits v 63 32) }) else s)

/-- STARTUP_ABORT_FRAME: the peer has failed; cause REMOTE (R185). -/
def execStartupAbortFrame (l : LinkId) (f : SuFrame) (s : State) : Host.Outcome State Fault Refusal :=
  let k := s.link l
  if !(k.phase == 5 || k.phase == 6 || k.phase == 8) || !frameGood f || f.kind != 3 then .next s
  else .next (phaseFail l 0xC (s.modLink l (fun k => { k with remoteCause := f.arg % 256 })))

/-- The margin of a link as reported: the port's, or a sub-link's own pair's (R143, R154). -/
def portMargin (s : State) (l : LinkId) : Int :=
  signed 16 (match l.sub with
    | none => s.fld (PORT_QUALITY.MARGIN l.n)
    | some p => s.fld (PAIR_QUALITY.MARGIN l.n p))

/-- VERIFY_RESULT: with the data symbols counted errored, PASS or FAIL (R186). -/
def execVerifyResult (n : Port) (sub : Option Pair) (s : State) : Host.Outcome State Fault Refusal :=
  let l : LinkId := ⟨n, sub⟩
  let k := s.link l
  if !inSequence k || decide (seqStage k < resultStage k) || k.verify != 0 then .next s
  else
    let pass := decide (k.errSyms ≤ s.fld (PORT_STARTUP_CFG.VERIFY_MAX l.n)) && decide (0 ≤ portMargin s l)
    .next (showLink l (s.modLink l (fun k => { k with verify := if pass then 1 else 2 })))

/-- SHOW_STAGE_NAME: the higher-identity end, with PASS at both ends, names V = C + 16 from its next stage C, in a fast
retrain V = C + 8 (R187, R190). -/
def execShowStageName (l : LinkId) (s : State) : Host.Outcome State Fault Refusal :=
  let k := s.link l
  if !inSequence k || !isHigher k || k.verify != 1 || k.farVerify != 1 || k.showStage.isSome then .next s
  else
    let d := if decide (4 ≤ k.phase ∧ k.phase ≤ 6) then 16 else 8
    .next (showLink l (s.modLink l (fun k => { k with showStage := some (stagePlus k.own (1 + d)) })))

/-- The lower-identity end's last stage to receive SHOW_VALID: 6047, or F + 240 (R187, R190). -/
def showLimit (k : LinkSt) : Nat := if k.phase = 8 then 240 else if k.eei.partialFr then 172 else 6047

/-- SHOW_TIMEOUT: the higher-identity end has not received SHOW_VALID with V by the end of V − 4; the lower end none by its
limit: cause SHOW (R187). -/
def execShowTimeout (l : LinkId) (s : State) : Host.Outcome State Fault Refusal :=
  let k := s.link l
  if !inSequence k then .next s
  else
    let late := if isHigher k then
        (match k.showStage with
        | some v => k.farShow != some v && reached k.own (stagePlus v (2 ^ 32 - 3))
        | none => false)
      else k.farShow.isNone && decide (showLimit k < seqStage k)
    .next (if late then (if k.eei.partialFr then showLink l (partialFail l s) else phaseFail l 0xB s) else s)

/-- The pairs a fast retrain brought back (R219). -/
def rejoined (k : LinkSt) : List Nat := (maskPairs k.frDead).filter (fun p => bit k.carry p)

/-- SHOWTIME_ENTRY: at V in both directions the link enters showtime (R188); after a fast retrain FAST_RETRAINS and event
0x2013 stand in place of STARTUPS and 0x2010, and a restored pair is counted (R190, R219). The first coach sent has SEQ 0, the first
received cannot slip, and the scrambler starts from zeros, also after a fast retrain (DESIGN CHOICES, log entry 47). -/
def execShowtimeEntry (l : LinkId) (s : State) : Host.Outcome State Fault Refusal :=
  let n := l.n
  let k := s.link l
  if !(k.phase == 6 || k.phase == 8) || !k.decided || k.verify != 1 then .next s
  else match k.showStage with
    | none => .next s
    | some v =>
      if !reached k.own v || !reached k.far v || (isHigher k && k.farShow != some v) then .next s
      else
        let fr := k.phase == 8
        let us := s.now - k.startedAt
        let s := s.modLink l (fun k => { k with
          phase := 7, fast := fr, consecFail := 0, limit := false, showAt := s.now, coachOn := true,
          lossRun := 0, downRun := 0, upRun := 0, rateTrig := false, disagree := 0, rateWait := none, retrainModes := [], stageBad := 0, badHist := [],
          sinceFallback := 64, lossAfterFallback := false, frRestarts := 0 })
        let s := forEach (maskPairs k.carry) (fun p s =>
          (s.setFld (PAIR_QUALITY.DEAD n p) 0).modPair n p (fun q => { q with
            quiet := false, deadRun := 0, gainRun := 0, timingRun := 0, satTaps := [],
            restoreRun := 0 })) s
        let s := if fr then s.inc (PORT_FAST_RETRAINS n) else s.inc (PORT_STARTUPS n)
        let s := (s.setReg (PORT_STARTUP_TIME n) (word us)).setFld (PORT_STARTUP_RESULT.CARRY n) k.carry
        let s := if fr then s.raise 0x2013 0 [n, us, k.frCause] else s.raise 0x2010 0 [n, us, k.carry, k.streamTx]
        let s := if fr then forEach (rejoined k) (fun p s =>
            (s.inc (PORT_TRIPAIR_RESTORES n)).raise 0x2023 0 [n, p]) s else s
        let s := if fr && l.sub.isSome then s.inc (PAIR_SUB_FAST_RETRAINS n (subPair l)) else s
        let s := if fr then s
          else forEach (linkPairs l) (fun p s => clearMem (gpair n p) 4 s)
            ((s.setFld (PORT_XT_STATUS.BUNDLE_CONVERGED n) 0).setFld (PORT_XT_STATUS.NEXT_PARTNER n) 0)
        let s := s.setFld (PORT_RX_STATUS.BREAKOUT_FEXT n) (isBreakout s n).toNat
        let s := s.modLink l (fun k => { k with eei := { k.eei with idle := 0, hold := 255, refused := false, cap := 3 } })
        let s := s.modQueue l (fun q => { q with flushed := false })
        .next (showRoute n (showLink l (capNotice l (judgeTransparent l (afterRetrain l (sideShowtime l s))))))

/-! ### Fast retrain, failure, hold-off, enable -/

/-- FAST_RETRAIN_START: the stage of an agreed or requested retrain has come (R189, R190). -/
def execFastRetrainStart (l : LinkId) (s : State) : Host.Outcome State Fault Refusal :=
  let k := s.link l
  if !isUp s l then .next s
  else
    let due := k.changes.filter (fun c => match c.kind with | .retrain _ _ => reached k.own c.stage | _ => false)
    match earliest due with
    | none => .next s
    | some c =>
      match c.kind with
      | .retrain cause full =>
        -- if either request asks for full start-up, full start-up governs
        let full := full || k.changes.any (fun c => match c.kind with | .retrain _ f => f | _ => false)
        let s := s.modLink l (fun k => { k with changes := k.changes.filter (fun c =>
          match c.kind with | .retrain _ _ => false | _ => true) })
        .next (showLink l (beginRetrain l k.own cause full s))
      | _ => .next s

/-- FAST_RETRAIN_FAIL: a fast retrain ends in full start-up, with the cause that ended it (R191). -/
def execFastRetrainFail (l : LinkId) (cause : Nat) (s : State) : Host.Outcome State Fault Refusal :=
  .next (fastRetrainFail l cause s)

/-- STARTUP_FAIL: a start-up ends with a cause of R192, counted, and holds off (R192, R193); DISABLED and FR_FAIL are not counted, but
shown (R191, R192). NONE and the reserved causes end nothing. -/
def execStartupFail (l : LinkId) (cause : Nat) (s : State) : Host.Outcome State Fault Refusal :=
  .next (if cause = 0xE then disableLink l s else if cause = 0xD then fastRetrainFail l cause s
    else if 1 ≤ cause ∧ cause ≤ 0xC then startupFail l cause s else s)

/-- The port is enabled and may run. -/
def portEnabled (s : State) (n : Port) : Bool := s.flag (PORT_STARTUP_CFG.ENABLE n) && portAllowed s n

/-- HOLD_OFF_EXPIRE: the hold-off is over; G0 with a new identity (R193), once the tile's LPLL has locked (R349). -/
def execHoldOffExpire (l : LinkId) (s : State) : Host.Outcome State Fault Refusal :=
  if (s.link l).phase != 10 || !portEnabled s l.n || !tileClocked s l.n then .next s
  else .next (showLink l (enterG0 l s))

/-- An enabled port whose links are all down enters G0 (R194), its REFLECT runs ended and its front ends woken (R332, R367);
without a locked LPLL it waits in HOLD_OFF (R349). -/
def startPort (n : Port) (s : State) : State :=
  if portEnabled s n && (activeLinks s n).all (fun l => (s.link l).phase == 0) then
    let s := sideEnable n s
    if tileClocked s n then forEach (portLinks n) showLink (enterG0 (portLink n) s)
    else showLink (portLink n) (enterHoldOff (portLink n) s)
  else s

/-- Stop every link of a port with cause DISABLED (R192, R194). -/
def stopPort (n : Port) (s : State) : State :=
  let subs := isBreakout s n
  let s := forEach (activeLinks s n) disableLink s
  if subs then
    forEach (portLinks n) showLink (s.modLink (portLink n) (fun k => { k with phase := 0, lastCause := 0xE }))
  else s

/-- A write of PORT_STARTUP_CFG.ENABLE (R194): 1 starts the port, but is ignored in RECOVERY (R383); 0 stops it with cause
DISABLED in any phase (R192). While FENCED the port stays down (R466). -/
def writeEnable (n : Port) (on : Bool) (s : State) : State :=
  if !on then stopPort n (s.setFld (PORT_STARTUP_CFG.ENABLE n) 0)
  else if s.fld PWR_PHASE.PHASE = 3 then s
  else startPort n (s.setFld (PORT_STARTUP_CFG.ENABLE n) 1)

/-- STARTUP_ENABLE_SET: ENABLE is written 1: G0 begins (R156, R194). -/
def execStartupEnableSet (n : Port) (s : State) : Host.Outcome State Fault Refusal := .next (writeEnable n true s)

/-- STARTUP_ENABLE_CLEAR: ENABLE is written 0: the transmitters stop in any phase, cause DISABLED (R192, R194). -/
def execStartupEnableClear (n : Port) (s : State) : Host.Outcome State Fault Refusal := .next (writeEnable n false s)

end Sys2Proof.Machine
end

