-- ==== Sys2Proof/Machine/Showtime.lean ====
section
/-! DEFINITION. The stage boundary and the commands of showtime: measurements, rate changes, coach loss, three-pair
fallback, fault notices, retrain requests, link-down (R142 to R148, R179 to R188, R197 to R219, R223, R224). -/
namespace Sys2Proof.Machine

/-! ### Measurements of a stage -/

/-- The averaging window of SNR in stages (R142). -/
def avgStages (s : State) (n : Port) : Nat := 2 ^ min 10 (s.fld (PORT_RX_CFG.AVG n))

/-- The pair's quality values hold and show STALE (R146). -/
def isStale (q : PairSt) : Bool := q.stale || q.staleLeft != 0

/-- The pair takes new SNR figures: from G4 on, and not while stale or quiet (R142, R145, R146, R181). -/
def takesSnr (k : LinkSt) (q : PairSt) : Bool := decide (5 ≤ k.phase ∧ k.phase ≤ 8) && !isStale q && (!q.quiet || k.eei.partialFr)

/-- The stages whose pilots decide exclusion (R180, R190). -/
def exclusionStage (k : LinkSt) : Bool :=
  (k.phase == 4 && decide (3840 ≤ k.own ∧ k.own ≤ 4095)) ||
  (k.phase == 8 && decide (64 ≤ seqStage k ∧ seqStage k ≤ 95))

/-- What the pilots of a pair's stage give, where any came: PAIR_PILOT_SNR in 0.25 dB, and the runs and sums that follow it (R147, R180,
R219). -/
def measurePilots (l : LinkId) (p : Nat) (s : State) : State :=
  let n := l.n
  let k := s.link l
  let dead := s.fld (PORT_RX_LIMITS.DEAD_SNR n)
  match pilotSnr s l p with
  | none => s
  | some v =>
    let up := k.phase == 7 || k.phase == 8
    let run (c : Bool) (r : Nat) : Nat := if c && up then r + 1 else 0
    let ex := exclusionStage k
    (s.setFld (PAIR_PILOT_SNR.SNR n p) (min v 255)).modPair n p (fun q => { q with
      deadRun := run (decide (v < dead)) q.deadRun,
      restoreRun := run (isFallen k p && !reflecting s (gpair n p) && decide (dead + 24 ≤ v)) q.restoreRun,
      pilotSum := if ex then q.pilotSum + v else q.pilotSum,
      pilotCount := if ex then q.pilotCount + 1 else q.pilotCount })

/-- The timing offset averaged over the stage lies beyond ±2 samples; in 1/512 sample (R123). -/
def timingBeyond (q : PairSt) : Bool := q.timeCount != 0 && decide (1024 * q.timeCount < q.timeSum.natAbs)

/-- The slow digital gain in showtime, after a stage at a level above that of showtime entry: the level moves it against itself with a time
constant of 64 stages, within -6 to +12 dB (R118). -/
def nextGain (up : Bool) (fine level : Int) : Int := if up then max (-6144) (min 12288 (fine - level)) else fine

/-- The E2 taps at their limit after a stage, with their runs (R132). -/
def nextTaps (old : List (Nat × Nat)) (taps : List Nat) : List (Nat × Nat) :=
  taps.map (fun t => (t, (match old.find? (fun x => x.1 == t) with | some x => x.2 | none => 0) + 1))

/-- What a pair's monitors show: the residual timing error, and the transmit power while no calibration touches its monitor (R113, R151). -/
def showMonitors (l : LinkId) (meas : List StageMeas) (s : State) : State :=
  forEach (meas.filter (fun m => (linkPairs l).contains m.p.val)) (fun m s =>
    let s := s.setFld (PAIR_TR_STATUS.TERR l.n m.p) m.terr
    if s.flag (PAIR_TX_POWER.STALE l.n m.p) then s else s.setFld (PAIR_TX_POWER.POWER l.n m.p) (unsigned 16 m.power)) s

/-- The level of a stage over that of another, from the energies of their samples, in 1/16 dB, rounded toward 0 (R118). -/
def levelOver (x y : Nat × Nat) : Int :=
  let a := x.1 * y.2
  let b := y.1 * x.2
  if a = 0 ∨ b = 0 then 0 else if b ≤ a then (ratioCode 10 160 a b : Int) else -(ratioCode 10 160 b a : Int)

/-- The E2 taps of a pair that stand at their limit (R132). -/
def tapsAtLimit (s : State) (n p : Nat) : List Nat :=
  ((tapsOf s n p 1).zipIdx.filter (fun w => decide (32767 ≤ w.1.natAbs))).map (·.2)

/-- One pair's measurements over the stage that ends (R118, R121, R123, R132, R142, R144, R147, R151). The level that the slow gain holds
is that of the first stage of showtime (DESIGN CHOICE, log entry 47). -/
def measurePair (l : LinkId) (p : Nat) (s : State) : State :=
  let n := l.n
  let k := s.link l
  let q := s.pair n p
  let up := k.phase == 7 || k.phase == 8
  let s := measurePilots l p s
  let ref := match q.gainRef with
    | some r => some r
    | none => if k.phase = 7 ∧ q.energy.2 ≠ 0 then some q.energy else none
  let fine := nextGain (k.phase == 7) q.gainFine ((ref.map (levelOver q.energy)).getD 0)
  let s := s.setFld (PAIR_AGC.DGAIN n p) (unsigned 12 (fine / 64))
  let taps := tapsAtLimit s n p
  let s := if taps.isEmpty then s else s.inc (PAIR_ECHO_SAT n p)
  let s := if takesSnr k q then
      let s := updateSnr l p (avgStages s n) s
      s.setFld (PAIR_EVM.EVM n p) (unsigned 16 (evmOf s l p))
    else s
  s.modPair n p (fun q => { q with
    gainFine := fine, gainRef := ref,
    gainRun := if up && (decide (fine = -6144) || decide (fine = 12288)) then q.gainRun + 1 else 0,
    timingRun := if up && timingBeyond q then q.timingRun + 1 else 0,
    satTaps := if up then nextTaps q.satTaps taps else [] })

/-- A stage goes into the histories of a pair: its full-scale symbols (R118), the far frequency (R121, R233). -/
def endStagePair (l : LinkId) (p : Nat) (s : State) : State :=
  let f := signed 32 (s.fld (PAIR_TR_FREQ.FREQ l.n p))
  clearErrors l.n p (s.modPair l.n p (fun q => { q with
    clips := (q.clipNow :: q.clips).take 1024, clipNow := 0, freqs := (f :: q.freqs).take 64 }))

/-! ### Quality figures (R143, R145) -/

/-- The margins of a pair's loaded subcarriers against its receive table, in 0.05 dB. -/
def margins (s : State) (l : LinkId) (p : Nat) : List Int :=
  let k := s.link l
  let t := s.active l.n p .rx
  ((List.range 512).filter (fun i => decide (2 ≤ entryB (t.getD i emptyEntry)))).map (fun i =>
    subMargin (plainRx k) (isReach k) (s.snrOf l.n p i) (entryB (t.getD i emptyEntry)))

/-- The mean SNR of the loaded subcarriers, in 0.25 dB. -/
def meanSnr (s : State) (l : LinkId) (p : Nat) : Nat :=
  let t := s.active l.n p .rx
  let ks := (List.range 512).filter (fun i => decide (2 ≤ entryB (t.getD i emptyEntry)))
  if ks.isEmpty then 0 else (ks.map (s.snrOf l.n p)).sum / ks.length

/-- A pair's margin, mean SNR and LQ (R143, R145, R146). LQ is 0 outside showtime and on a dead pair. -/
def pairQuality (l : LinkId) (p : Nat) (s : State) : State :=
  let n := l.n
  let k := s.link l
  let q := s.pair n p
  let st := (isStale q).toNat
  let s := ((s.setFld (PAIR_QUALITY.STALE n p) st).setFld (PAIR_EVM.STALE n p) st).setFld (PAIR_SNR_MEAN.STALE n p) st
  if isStale q || (q.quiet && !k.eei.partialFr) then histFlag n p (if isStale q then 0 else 1) s
  else
    let m := pairMargin (margins s l p)
    let s := (s.setFld (PAIR_QUALITY.MARGIN n p) (unsigned 16 m)).setFld (PAIR_SNR_MEAN.SNR n p) (meanSnr s l p)
    histSample n p (s.setFld (PAIR_QUALITY.LQ n p)
      (if k.phase = 7 ∧ !bit k.deadMask p ∧ !s.flag (PAIR_QUALITY.DEAD n p) then lqPair m (targetMargin s n) else 0))

/-- The pairs that carry coaches on the port's links: of a port in showtime or a sequence that leads to it, in BREAKOUT of the sub-links
in showtime (R145); none that the far end names by PATTERN (R94). A quiet pair keeps its place with the value it holds. -/
def carriers (s : State) (n : Port) : List Nat :=
  ((activeLinks s n).flatMap (fun l =>
    let ph := (s.link l).phase
    if ph == 7 || (l.sub.isNone && (ph == 6 || ph == 8)) then maskPairs (s.link l).carryRx else [])).filter
    (fun p => !bit (s.port n).farPmask p)

/-- The port's margin, LQ and STALE (R143, R145, R152). -/
def portQuality (n : Port) (s : State) : State :=
  let ps := carriers s n
  let st := ps.any (fun p => s.flag (PAIR_QUALITY.STALE n p))
  let ms := ps.map (fun p => signed 16 (s.fld (PAIR_QUALITY.MARGIN n p)))
  let m := match ms with
    | [] => 0
    | x :: xs => xs.foldl min x
  let lq := if portShow s n && !ps.isEmpty then
      lqPort (ps.map (fun p => s.fld (PAIR_QUALITY.LQ n p))) (badCoaches s n)
    else 0
  ((s.setFld (PORT_QUALITY.STALE n) st.toNat).setFld (PORT_QUALITY.MARGIN n) (unsigned 16 m)).setFld
    (PORT_QUALITY.LQ n) lq

/-- Every figure of a link after a stage. -/
def linkQuality (l : LinkId) (s : State) : State :=
  let k := s.link l
  let ps := if k.decided || k.phase = 7 then maskPairs k.carryRx else []
  portQuality l.n (forEach ps (pairQuality l) s)

/-! ### Start-up frames sent (R182, R183, R185) -/

/-- Data symbols of a TABLE frame: 10, in SPLITBAND 20 at the lower-identity end and 21 at the other (R183). -/
def tableSymbols (k : LinkSt) : Nat := if k.splitband then (if isHigher k then 21 else 20) else 10

/-- The pairs this end did not exclude. -/
def ownCarry (k : LinkSt) (l : LinkId) : Nat := pairsMask ((linkPairs l).filter (fun p => !bit k.excluded p))

/-- The TABLE frames of a pair, in ascending SET. -/
def tableFrames (s : State) (l : LinkId) (p : Pair) : List SuFrame :=
  let k := s.link l
  (k.ownStreams.filter (fun x => x.1 != p.val + 1)).map (fun x => sealFrame
    { kind := 1, pair := p, set := x.1,
      arg := x.2 * 2 ^ 17 + (isPlain k).toNat * 2 ^ 16 + ownCarry k l * 2 ^ 12,
      body := ((s.heldTable l.n p .rx x.1).drop 4).take 492, crc := 0 })

/-- The TABLE frames that begin on a pair in a stage of G4b: the cycle repeats from its first stage, as long as a frame ends by its last
(R183). -/
def framesIn (k : LinkSt) (fs : List SuFrame) : List SuFrame :=
  let j := seqStage k - tableStage k
  let w := tableSymbols k
  if fs.isEmpty then []
  else ((List.range 64).filter (fun x => let i := (63 * j + w - 1) / w + x
                                         decide (w * i < 63 * (j + 1) ∧ w * (i + 1) ≤ 63 * (verifyStage k - tableStage k)))).map (fun x =>
    fs.getD (((63 * j + w - 1) / w + x) % fs.length) ⟨1, 0, 0, 0, [], 0⟩)

/-- The STATUS frame of a stage of G5 on a pair. -/
def statusFrame (s : State) (l : LinkId) (p : Pair) : SuFrame :=
  let k := s.link l
  let v := k.showStage.getD 0
  sealFrame
  { kind := 2, pair := p, set := 0, arg := k.verify % 4 * 2 ^ 18 + k.showStage.isSome.toNat * 2 ^ 17,
    body := [v % 2 ^ 32 * 2 ^ 32 + min k.errSyms 0xFFFF * 2 ^ 16 + unsigned 16 (portMargin s l)], crc := 0 }

/-- Send a start-up frame on a pair (R182). -/
def sendFrame (l : LinkId) (p : Nat) (f : SuFrame) (s : State) : State :=
  let ys := frameSymbols s l p f
  (countClips l.n p ys s).emit (.startupFrame l p f ys)

/-- The pairs that send training in a stage of a sequence: every one up to the end of G4a (R179), in a partial fast retrain the carrying
ones. -/
def trainPairs (k : LinkSt) (l : LinkId) : List Nat := (linkPairs l).filter (fun p => !k.eei.partialFr || bit k.carry p)

/-- What the data symbols of the running stage carry in a sequence: training in G3 and G4a (R179, R190, R307), the generator at the
stage's place since its restart; TABLE frames in G4b; in G5 a STATUS frame in data symbol 1 and PRBS31 in the others (R185); none
from the end's own stage V, whose data symbols carry coaches (R188). No ABORT frame is sent: it 'may' replace one of the others (R185;
DESIGN CHOICE, log entry 47). Data symbols 1 to 3 of a refresh stage carry training (R299), and in Long Stay every data symbol between the alerts and the
partial fast retrain (R303). -/
def sendFrames (l : LinkId) (s : State) : State :=
  let k := s.link l
  let ps : List Pair := [0, 1, 2, 3].filter (fun (p : Pair) => (linkPairs l).contains p.val)
  if refreshStage k && k.phase == 7 then forEach (sendPairs s l) (sendTraining l 0 3) s
  else if k.eei.alertSent && k.eei.depth == 3 && !k.eei.partialFr then forEach (sendPairs s l) (sendTraining l 0 63) s
  else if !inSequence k then s
  else if decide (seqStage k < (if k.eei.partialFr then 112 else tableStage k)) then
    forEach (trainPairs k l) (sendTraining l (63 * seqStage k) 63) s
  else if !k.eei.partialFr && decide (seqStage k < verifyStage k) then
    forEach (ps.filter (fun p => !bit k.excluded p.val)) (fun p s =>
      forEach (framesIn k (tableFrames s l p)) (sendFrame l p) s) s
  else if k.eei.partialFr || (k.decided && k.phase != 7 && !k.coachOn) then
    forEach (ps.filter (fun p => bit k.carry p.val)) (fun p s =>
      forEach (List.range 62) (fun _ s => sendPrbs l 3 p.val s) (sendFrame l p (statusFrame s l p) s)) s
  else s

/-- A fallen pair's waymark symbol: the sync sequence without a message (R109, R219). -/
def sendSync (l : LinkId) (p : Nat) (s : State) : State :=
  let y := syncSymbol s l p
  (countClips l.n p [y] s).emit (.symbol l p [] y)

/-- WAYMARK_SYMBOL_TX: each pair's waymark symbol of the running stage, with the announcement of PRBS, and the start-up frames of its
data symbols (R53, R99 to R105, R182 to R185); the sync sequence without a message on dead pairs (R219). A waiting port-scope message
starts in the same symbol on every pair, once each has room and no resend of its priority or higher is due. -/
def execWaymarkSymbolTx (l : LinkId) (s : State) : Host.Outcome State Fault Refusal :=
  if (s.link l).wmSent then .next s
  else
    let s := announcePattern l s
    let k := s.link l
    let ps := sendPairs s l
    -- the counts move first, so that a message sent now stands at 0 symbols since its sending
    let s := forEach ps (fun p s => tickPair l.n.val p s) s
    let s := s.modLink l (fun k => { k with wmSent := true })
    let s := forEach (if k.eei.inDepth then [] else deadPairs s l) (sendSync l) s
    let cand := bestBy (fun (w : WMsg) => prio w.code) (k.waiting.filter (fun w => mayCarry k w.code))
    match cand with
    | none => .next (showLink l (sendFrames l (forEach ps (sendOne l false) s)))
    | some w =>
      let ok := !ps.isEmpty && ps.all (fun p =>
        decide ((s.pair l.n.val p).outs.length < 4) &&
        (dueOuts (s.pair l.n.val p)).all (fun o => decide (prio w.code < prio o.msg.code)))
      if ok then
        let st := firstStage s l w
        let s := s.modLink l (fun k => { k with waiting := k.waiting.erase w })
        .next (showLink l (sendFrames l (recordSent l w st (forEach ps (fun p s => sendNew l p w st s) s))))
      else .next (showLink l (sendFrames l (forEach ps (sendOne l true) s)))

/-! ### The stage boundary -/

/-- The count of the transmit stage that begins (R69, R187, R197, R300). -/
def nextOwn (k : LinkSt) : Nat :=
  let adopt := stagePlus k.far 1
  let plain := stagePlus k.own 1
  let named := k.verify == 1 && k.farShow.isSome && !k.adopted
  if isHigher k then plain
  else if k.eei.partialFr then (if named then adopt else plain)
  else if k.eei.inDepth then (if k.rxSeen && decide (k.eei.depth ≤ 2) then adopt else plain)
  else if k.phase = 7 ∨ k.phase = 8 then adopt
  else if k.phase = 6 ∧ named then adopt
  else plain

/-- The link's own transmit stage V begins: it sends coaches from here (R95, R188). The SEQ of the first coach is 0 and the
scrambler starts from zeros, at the entry that ends a fast retrain too: the spec gives neither (DESIGN CHOICE, log entry 47). -/
def startCoaches (l : LinkId) (s : State) : State :=
  let k := s.link l
  if k.coachOn || !(k.phase == 6 || k.phase == 8) || !k.decided || k.verify != 1 ||
      !k.showStage.any (fun v => reached k.own v) then s
  else
    let s := s.modLink l (fun k => { k with coachOn := true, coachTx := 63 })
    let s := forEach (maskPairs k.carry) (fun p s => s.modPair l.n p (fun q => { q with scrambler := [] })) s
    (clearCodewords l (expireCodewords l (fun _ => true) 1 s)).modQueue l (fun q => { q with
      stream := [], coded := [], symbol := 0, ilv := 0, loop := [], pace := 0 })

/-- Begin the next transmit stage: its count, skips and repeats in showtime and fast retrains (R187, R197, R307), the far
count of a quiet link by symbol timing (R300). -/
def countStage (l : LinkId) (s : State) : State :=
  let k := s.link l
  let own := nextOwn k
  let counts := (k.phase = 7 ∨ k.phase = 8) && !isHigher k && !k.eei.partialFr
  let s := if counts && own == stagePlus k.own 2 then s.inc (PORT_STAGE_SKIP l.n) else s
  let s := if counts && own == k.own then s.inc (PORT_STAGE_REPEAT l.n) else s
  let named := !isHigher k && inSequence k && k.verify == 1 && k.farShow.isSome && !k.adopted
  startCoaches l <| s.modLink l (fun k => { k with
    own := own, wmSent := false, asked := false, rxSeen := false,
    far := if k.eei.inDepth && !k.rxSeen then stagePlus k.far 1 else k.far,
    adopted := k.adopted || named, showStage := if named then k.farShow else k.showStage })

/-- Training of G3 or FR-G3 has ended: the cancellers and the equaliser hold what it left (R135, R136, R180, R190). -/
def endTraining (l : LinkId) (s : State) : State :=
  let n := l.n
  let split := (s.link l).splitband
  let live (m : Port) (q : Pair) : Bool := isAggressor s m q && !bit (s.link (linkOfPair s m q)).excluded q.val
  let s := forEach (linkPairs l) (fun p s =>
    let g := gpair n p
    let s := trainMem g 1 s
    -- SPLITBAND uses neither E3 nor the own-port coefficients (R133, R134); a dead or quiet aggressor's are kept
    let others := ([0, 1, 2, 3] : List Pair).filter (fun q => q.val != p)
    let s := if split then s
      else forEach ((others.zipIdx).filter (fun x => live n x.1)) (fun x s => trainPart g 3 x.2 s) (trainMem g 2 s)
    let s := if portShow s (partner n) && localOn s n mBUNDLE then
        forEach (([0, 1, 2, 3] : List Pair).filter (live (partner n))) (fun q s => trainPart g 4 q.val s) s
      else s
    trainRow g s) s
  let ps := (linkPairs l).filter (fun p => !bit (s.link l).excluded p)
  forEach ps (fun p s => setWeights n p ps s) s

/-- The pairs excluded: mean pilot SNR below DEAD_SNR, or not measured (R180), or no slice (R536); after a fallback the dead pair too, unless the
retrain is to restore it (R219), and after a fast retrain that a dead pair ended that pair (R191). -/
def exclude (l : LinkId) (s : State) : State :=
  let dead := s.fld (PORT_RX_LIMITS.DEAD_SNR l.n)
  let bad := (linkPairs l).filter (fun p =>
    let q := s.pair l.n p
    q.pilotCount == 0 || decide (q.pilotSum < dead * q.pilotCount) || pairSlice s (gpair l.n p) == 0x7F)
  let k := s.link l
  let old := if k.phase = 8 then (if k.frCause ≠ 0xB then maskPairs k.frDead else [])
    else (maskPairs k.frExclude).filter (fun p => (linkPairs l).contains p)
  s.modLink l (fun k => { k with excluded := pairsMask (bad ++ old), frExclude := 0 })

/-- What a boundary of the start-up sequence does: G4, G5 and the end of FR-G3 begin (R153, R180, R190). -/
def advancePhase (l : LinkId) (s : State) : State :=
  let k := s.link l
  if k.phase = 4 ∧ 4096 ≤ k.own then
    (endTraining l (exclude l s)).modLink l (fun k => { k with phase := 5 })
  else if k.phase = 5 ∧ 5376 ≤ k.own then s.modLink l (fun k => { k with phase := 6 })
  else if k.phase = 8 ∧ 96 ≤ seqStage k ∧ !k.trained then
    (endTraining l (exclude l s)).modLink l (fun k => { k with trained := true })
  else if k.eei.partialFr ∧ 96 ≤ seqStage k ∧ !k.trained then
    (endTraining l s).modLink l (fun k => { k with trained := true })
  else s

/-- A FAIL in VERIFY, own or received, ends the sequence at the end of its stage (R186, R307). -/
def verifyFails (l : LinkId) (s : State) : State :=
  let k := s.link l
  if !inSequence k then s
  else if k.verify = 2 then (if k.eei.partialFr then partialFail l s else phaseFail l 0xA s)
  else if k.farVerify = 2 then
    (if k.eei.partialFr then partialFail l s
     else phaseFail l 0xC (s.modLink l (fun k => { k with remoteCause := 0xA })))
  else s

/-- The coaches of the stage that ends: the history of CRC_BAD and the coach-loss run (R145, R208). -/
def countCoaches (l : LinkId) (s : State) : State :=
  let k := s.link l
  if k.phase ≠ 7 then s
  else
    let loss := decide (s.fld (PORT_LINK_CFG.COACH_LOSS_MAX l.n) < k.stageBad)
    let s := if loss then s.inc (PORT_COACH_LOSS l.n) else s
    s.modLink l (fun k => { k with
      badHist := (k.stageBad :: k.badHist).take 64, stageBad := 0,
      lossAfterFallback := if loss && k.lossRun == 0 then decide (k.sinceFallback < 64) else k.lossAfterFallback,
      lossRun := if loss then k.lossRun + 1 else 0, sinceFallback := min 64 (k.sinceFallback + 1) })

/-- The margin that the runs of a link follow: the port's, of a sub-link its own pair's (R211, R222). -/
def runMargin (s : State) (l : LinkId) : Int :=
  signed 16 (match l.sub with
    | none => s.fld (PORT_QUALITY.MARGIN l.n)
    | some p => s.fld (PAIR_QUALITY.MARGIN l.n p))

/-- The runs that showtime keeps by the stage: margin, swaps, hold-offs, EEI idle (R203, R211, R212, R295). -/
def countRuns (l : LinkId) (s : State) : State :=
  let k := s.link l
  if k.phase ≠ 7 then s
  else
    let down := signed 8 (s.fld (PORT_RATE_CFG.DOWN_MARGIN l.n))
    let low := decide (runMargin s l < down) && !k.eei.inDepth
    let busy := (s.host l.n).isOpen && ingressLink s l.n == l
    let s := s.modLink l (fun k => { k with
      downRun := if low then k.downRun + 1 else 0, rateHold := k.rateHold - 1,
      eei := { k.eei with idle := if busy then 0 else min 255 (k.eei.idle + 1), hold := min 255 (k.eei.hold + 1) } })
    forEach (linkPairs l) (fun p s => s.modPair l.n p (fun q => { q with sinceSwap := min 255 (q.sinceSwap + 1) })) s

/-- Shadows to reload, calibration windows (R146, R205). -/
def boundaryPairs (l : LinkId) (s : State) : State :=
  forEach (linkPairs l) (fun p s =>
    let q := s.pair l.n p
    let s := if q.reloadTx then reloadShadow l.n p .tx s else s
    let s := if q.reloadRx then reloadShadow l.n p .rx s else s
    s.modPair l.n p (fun q => { q with
      reloadTx := false, reloadRx := false, staleLeft := if q.stale then q.staleLeft else q.staleLeft - 1 })) s

/-- A capacity agreed for a stage holds from it until the change has applied, where it is the lower one (R33). -/
def reachCapacity (l : LinkId) (s : State) : State :=
  let own := (s.link l).own
  let due (x : Nat × Option Nat) : Bool := x.2.any (reached own)
  s.modQueue l (fun q => { q with
    cap := (q.capNew.filter due).foldl (fun c x => min c x.1) q.cap, capNew := q.capNew.filter (fun x => !due x) })

/-- Messages that a boundary sends: withdrawn proposals again (R47), EEI_WAKE in every waymark symbol (R303, R309). -/
def boundaryMessages (l : LinkId) (s : State) : State :=
  let k := s.link l
  let s := forEach k.withdrawn (fun q s => sendPort l q.code none q.arg s)
    (s.modLink l (fun k => { k with withdrawn := [] }))
  let e := k.eei
  if e.sendWake && (e.inDepth || !reached k.own e.entry) then
    sendPort l 0x44 (some (if e.inDepth then resumeStage s l else e.entry)) 0
      (s.modLink l (fun k => { k with waiting := k.waiting.filter (fun w => w.code != 0x44) }))
  else s

/-- STAGE_BOUNDARY: a stage ends with its measurements and the next begins (R69, R142 to R146, R179 to R186, R197, R205,
R208). -/
def execStageBoundary (l : LinkId) (meas : List StageMeas) (s : State) : Host.Outcome State Fault Refusal :=
  let k := s.link l
  if !(decide (4 ≤ k.phase ∧ k.phase ≤ 8)) then .next s
  else
    let on := !k.eei.inDepth || k.eei.partialFr
    let s := showMonitors l meas s
    let s := if on then showFreq l (forEach (linkPairs l) (measurePair l) s) else s
    let s := forEach (linkPairs l) (endStagePair l) s
    let s := linkQuality l (countCoaches l s)
    let s := startModeAsk l (boundaryPairs l (countRuns l s))
    let s := advancePhase l (countStage l s)
    let s := s.modQueue l (fun q => { q with symbol := 0, ilv := 0, coded := [] })
    .next (showLink l (verifyFails l (boundaryMessages l (reachCapacity l s))))

/-! ### Rate change -/

/-- A trigger of R211 holds. -/
def rateDue (s : State) (l : LinkId) : Bool :=
  let k := s.link l
  let auto := s.flag (PORT_RATE_CFG.AUTO_DOWN l.n)
  (auto && (decide (max 1 (s.fld (PORT_RATE_CFG.DOWN_STAGES l.n)) ≤ k.downRun) || k.rateTrig)) ||
  (s.flag (PORT_RATE_CFG.AUTO_UP l.n) && decide (64 ≤ k.upRun)) ||
  (k.rateAsk && ceiling s l != tierNow k)

/-- The highest tier, not above the ceiling, whose share loads on every carrying pair, with its tables (R211). -/
def bestTier (s : State) (l : LinkId) : Option (Nat × List (Nat × List Nat)) :=
  let k := s.link l
  ((List.range 4).filter (fun t => decide (ceiling s l ≤ t))).findSome? (fun t =>
    (computeAll s l (plainRx k) t (targetMargin s l.n)).map (fun ts => (t, ts)))

/-- The triggers of R211 are met: their runs start again. -/
def clearTriggers (l : LinkId) (s : State) : State :=
  s.modLink l (fun k => { k with rateTrig := false, rateAsk := false, downRun := 0, upRun := 0 })

/-- RATE_TRIGGER: a receiving end decides on a new tier and begins to send its tables; where none loads it asks for a fast
retrain with cause MARGIN (R211, R212). The triggers stand until a change has applied or the best tier is the one in effect, so that
a declined proposal is made again; a sub-link has tier 100 alone (R222). -/
def execRateTrigger (l : LinkId) (s : State) : Host.Outcome State Fault Refusal :=
  let k := s.link l
  if k.phase != 7 || k.eei.inDepth || rateBusy k || k.rateHold != 0 || !rateDue s l ||
      (linkPairs l).any (fun p => swapBusy s l p) || faultBusy k then .next s
  else
    match bestTier s l with
    | none => .next (showLink l (requestRetrain l 7 s))
    | some (t, ts) =>
      if t = k.streamRx || l.sub.isSome then .next (clearTriggers l s)
      else if (retrainAgreed k).isSome then .next s
      else .next (showLink l (beginEntries l t ts s))

/-- Every entry of a rate or mode change has been sent and acknowledged on every carrying pair (R212). -/
def allEntriesDone (s : State) (l : LinkId) : Bool := (maskPairs (s.link l).carryRx).all (entriesDone s l)

/-- The pairs wait for the reply to a rate or mode proposal. -/
def awaitReply (l : LinkId) (s : State) : State :=
  forEach (maskPairs (s.link l).carryRx) (fun p s => s.modPair l.n p (fun q => { q with
    swap := .commit })) s

/-- A bit swap is agreed. -/
def swapAgreed (k : LinkSt) : Bool := k.changes.any (fun c => match c.kind with | .swap _ _ => true | _ => false)

/-- RATE_PROPOSE_SEND: with every entry acknowledged the proposal goes out: RATE_PROPOSE for a tier, MODE_PROPOSE for
TRANSPARENT, whose transmit shadows must be valid too (R58), or for PLAIN. -/
def execRateProposeSend (l : LinkId) (s : State) : Host.Outcome State Fault Refusal :=
  let k := s.link l
  if k.phase != 7 || !allEntriesDone s l then .next s
  else match k.rateWait with
    | none => .next s
    | some w =>
      -- it is not sent while a bit swap is agreed (R214)
      if w ≤ 3 then .next (if swapAgreed k then s else showLink l (sendPort l 0x20 none w (awaitReply l s)))
      else if w ≤ 5 then
        .next (if shadowsValid s l (isPlain k) w then showLink l (sendPort l 0x30 none (mTRANSPARENT + 16) (awaitReply l s)) else s)
      else .next (showLink l (sendPort l 0x30 none (mPLAIN + (if w = 6 then 16 else 0)) (awaitReply l s)))

/-- Bit swaps pending on the link: run by this end, or agreed. -/
def swapPending (s : State) (l : LinkId) : Bool :=
  let k := s.link l
  (k.rateWait.isNone && (linkPairs l).any (fun p => (s.pair l.n p).swap != .idle)) || swapAgreed k

/-- Less than the latency bound plus one stage remains before the named stage (R212), in 0.1 ns. -/
def tooLate (s : State) (l : LinkId) (stage : Nat) : Bool :=
  let k := s.link l
  let left := if later stage k.own then (stage + 2 ^ 32 - k.own) % 2 ^ 32 else 0
  decide (left * 14336 < boundOf s l.n + 14336)

/-- The reason to decline a RATE_PROPOSE, in the order of R212, or none. -/
def rateDeclineReason (s : State) (l : LinkId) (t stage : Nat) : Option Nat :=
  let k := s.link l
  if l.sub.isSome || decide (t < k.maxTier) then some 5
  else if !shadowsValid s l (isPlain k) t then some 2
  else if stageBusy k stage || swapPending s l then some 1
  else if testOn s l.n then some 6
  else if tooClose k stage || (decide (shownTier k.streamTx < t) && tooLate s l stage) then some 3
  else none

/-- A rate change of this end's receive direction is over without effect: its shadows reload, the next try waits HOLDOFF
stages (R205, R212). -/
def rateDeclined (l : LinkId) (s : State) : State :=
  let s := dropRxTables l s
  s.modLink l (fun k => { k with rateHold := max 4 (s.fld (PORT_SWAP_CFG.HOLDOFF l.n)) })

/-- RATE_PROPOSE: answered RATE_ACCEPT, with the capacity notice, or RATE_DECLINE (R106, R212, R213). -/
def execRatePropose (l : LinkId) (p : Pair) (m : Msg) (s : State) : Host.Outcome State Fault Refusal :=
  let s := consume l p m s
  if (s.link l).phase != 7 then .next s
  else
    let t := m.arg % 4
    let st := msgStage m
    match rateDeclineReason s l t st with
    | some r =>
      let s := dropTxTables l s
      .next (showLink l ((sendPort l 0x22 (some st) r s).inc (PORT_RATE_DECLINES l.n)))
    | none =>
      let k := s.link l
      let c := (carryList s l).length * linkShare k l t (pairCount k.carry)
      .next (showLink l (capAgree l c st (agree l st (.rate t .tx) (sendPort l 0x21 (some st) 0 s))))

/-- RATE_ACCEPT: the change is agreed for the receive direction (R213). -/
def execRateAccept (l : LinkId) (p : Pair) (m : Msg) (s : State) : Host.Outcome State Fault Refusal :=
  let s := consume l p m s
  match proposalAt (s.link l) 0x20 (msgStage m) with
  | none => .next s
  | some q =>
    let s := dropProposal l q s
    -- at most one change is agreed for a stage (R71)
    .next (showLink l (if agreedAt (s.link l) q.stage then rateDeclined l s else agree l q.stage (.rate (q.arg % 4) .rx) s))

/-- RATE_DECLINE: counted; the shadows reload (R212). -/
def execRateDecline (l : LinkId) (p : Pair) (m : Msg) (s : State) : Host.Outcome State Fault Refusal :=
  let s := consume l p m s
  match proposalAt (s.link l) 0x20 (msgStage m) with
  | none => .next s
  | some q => .next (showLink l (rateDeclined l ((dropProposal l q s).inc (PORT_RATE_DECLINES l.n))))

/-- A rate change agreed for a direction whose stage has come (R198). -/
def rateDueAt (k : LinkSt) (d : Dir) : Option (Change × Nat) :=
  (k.changes.filterMap (fun c => match c.kind with
    | .rate t e => if e == d && (match d with
        | .tx => reached k.own c.stage
        | .rx => reached k.far c.stage) then some (c, t) else none
    | _ => none)).head?

/-- TRANSPARENT lacks capacity where a direction no longer carries its stream (R58). -/
def judgeStreams (l : LinkId) (s : State) : State :=
  s.modLink l (fun k => { k with capacityLow := k.capacityLow ||
    (bit k.negotiated mTRANSPARENT && (decide (k.streamTx < 4) || decide (k.streamRx < 4))) })

/-- RATE_CHANGE_APPLY: the new tables and share of a direction take effect; counted, event 0x2024 (R73, R213). -/
def execRateChangeApply (l : LinkId) (d : Dir) (s : State) : Host.Outcome State Fault Refusal :=
  match rateDueAt (s.link l) d with
  | none => .next s
  | some (c, t) =>
    let old := shownTier (streamOf (s.link l) d)
    let s := judgeStreams l (setStream l d t (swapBanks l d (dropChange l c s)))
    let s := (s.inc (PORT_RATE_CHANGES l.n)).raise 0x2024 0 [l.n, dirNat d, old, t]
    let s := histFlags l 7 (s.modLink l (fun k => { k with lossRun := 0 }))
    let s := match d with
      | .tx => capNotice l s
      | .rx => forEach (maskPairs (s.link l).carryRx) (fun p s => endSwap l.n p s) (endRate l (clearTriggers l s))
    .next (showLink l s)

/-! ### Coach loss and fallback -/

/-- The stages of coach loss that call for a retrain (R208). -/
def lossLimit (s : State) (l : LinkId) : Nat :=
  let c := max 14 (s.fld (PORT_LINK_CFG.CRC_STAGES l.n))
  if (s.link l).lossAfterFallback then min 16 c else c

/-- COACH_LOSS_RETRAIN: coach loss for CRC_STAGES stages asks for a fast retrain: TRIPAIR, counted with event 0x2022, where
the run began within 64 stages after a fallback, else CRC (R208, R218); a request that others of its stage or an agreed retrain
stand in for is not counted (R223). -/
def execCoachLossRetrain (l : LinkId) (s : State) : Host.Outcome State Fault Refusal :=
  let k := s.link l
  if k.phase != 7 || decide (k.lossRun < lossLimit s l) then .next s
  else if k.lossAfterFallback then
    let t := requestRetrain l 0xA s
    .next (showLink l (if (t.link l).changes = k.changes then t
      else (t.inc (PORT_TRIPAIR_SLOW l.n)).raise 0x2022 1 [l.n, k.deadMask]))
  else .next (showLink l (requestRetrain l 4 s))

/-- The fault code that acts: reserved codes act as DEAD (R215). -/
def faultCode (c : Nat) : Nat := if 1 ≤ c ∧ c ≤ 4 then c else 1

/-- An agreed fallback moves to an earlier stage, and its capacity notice with it (R215). -/
def moveFault (l : LinkId) (c : Change) (st : Nat) (s : State) : State :=
  let s := s.modLink l (fun k => { k with changes := k.changes.map (fun x => if x == c then { c with stage := st } else x) })
  s.modQueue l (fun q => { q with capNew := q.capNew.map (fun x => if x.2 == some c.stage then (x.1, some st) else x) })

/-- A received notice of a fallback meets what this end has agreed: the earliest named stage governs, the masks combine; two
pairs, three pairs already, or no TRIPAIR take the port down (R215, R217). -/
def noticeFallback (l : LinkId) (mask code stage : Nat) (s : State) : State :=
  let k := s.link l
  let all := mask ||| pendingFault k
  let st := if tooClose k stage then stagePlus k.own 1 else stage
  let down := if code = 3 then 3 else 2
  match maskPairs all with
  | [p] =>
    if pendingFault k != 0 then
      match k.changes.find? (fun c => match c.kind with | .fault _ _ => true | _ => false) with
      | some c => if later c.stage st then moveFault l c st (cancelFrom l st isFaultOrRetrain s) else s
      | none => s
    else if canFallBack s l p then agreeFallback l p code st s
    else if bit k.deadMask p then s
    else linkDown l down s
  | [] => s
  | _ => linkDown l down s

/-- FAULT_NOTICE: acted on whatever stage it names; one that is too close at the next stage boundary (R215). -/
def execFaultNotice (l : LinkId) (p : Pair) (m : Msg) (s : State) : Host.Outcome State Fault Refusal :=
  let s := consume l p m s
  if (s.link l).phase != 7 then .next s
  else .next (showLink l (noticeFallback l (m.arg % 16) (faultCode (bits m.arg 15 8)) (msgStage m) (eeiBreak l s)))

/-- RETRAIN_REQUEST: counted, event 0x2027, always acted on; the earlier of two stages governs, and full start-up over
fast (R189, R191, R223). -/
def execRetrainRequest (l : LinkId) (p : Pair) (m : Msg) (s : State) : Host.Outcome State Fault Refusal :=
  let s := consume l p m s
  let k := s.link l
  if !isUp s l then .next s
  else
    let c := m.arg % 256
    let st := if reached k.own (msgStage m) then stagePlus k.own 1 else msgStage m
    let s := (s.inc (PORT_RETRAIN_RX l.n)).raise 0x2027 0 [l.n, c, msgStage m]
    let s := eeiBreak l (s.modLink l (fun k => { k with lastRetrain := c }))
    match retrainAgreed k with
    | some o =>
      let full := isFullCause c || (match o.kind with | .retrain _ f => f | _ => false)
      let first := later o.stage st
      let new : Change := { o with stage := if first then st else o.stage, kind := .retrain c full }
      .next (showLink l (s.modLink l (fun k => { k with changes := k.changes.map (fun x => if x == o then new else x) })))
    | none => .next (showLink l (agree l st (.retrain c (isFullCause c)) s))

/-- A fallback agreed whose stage a direction has reached. -/
def faultDue (k : LinkSt) (d : Dir) : Option (Change × Nat × Nat) :=
  (k.changes.filterMap (fun c => match c.kind with
    | .fault m code =>
      if (match d with
        | .tx => !c.txDone && reached k.own c.stage
        | .rx => !c.rxDone && reached k.far c.stage) then some (c, m, code) else none
    | _ => none)).head?

/-- A direction moves to the held tables of SET d + 1 on its three pairs (R215, R216). A held TRANSPARENT stream is not carried: the
direction has the highest tier its tables allow (R55 row 47, R58). Where the stream lies above the receiving end's ceiling a rate change
is asked for. -/
def moveToHeld (l : LinkId) (d : Dir) (p : Nat) (s : State) : State :=
  let n := l.n
  let k := s.link l
  let st := heldStream k d p
  let rest := (maskPairs (carryOf k d)).filter (· != p)
  let s := forEach rest (fun q s =>
    reloadShadow n q d (s.setBank n q d (activeBank s n q d) (s.heldTable n q d (p + 1)))) s
  -- the 3 × 3 equaliser of the last channel matrix (R136)
  let s := match d with
    | .tx => s
    | .rx => forEach rest (fun q s => setWeights n q rest s) s
  let m := pairsMask rest
  let s := s.modLink l (fun k => match d with
    | .tx => { k with carry := m }
    | .rx => { k with carryRx := m })
  let s := if st < 4 then setStream l d st s else loseStream l d (s.modLink l (fun k => { k with capacityLow := true }))
  match d with
  | .tx => s
  | .rx => dropRxTables l (s.modLink l (fun k => { k with rateAsk := k.rateAsk || decide (tierNow k < ceiling s l) }))

/-- TRIPAIR_FALLBACK_APPLY: a direction loses the dead pair at the named stage; the fallback is counted once, event 0x2021;
TRANSPARENT leaves effect (R58, R215, R216). -/
def execTripairFallbackApply (l : LinkId) (d : Dir) (s : State) : Host.Outcome State Fault Refusal :=
  match faultDue (s.link l) d with
  | none => .next s
  | some (c, m, code) =>
    match maskPairs m with
    | [p] =>
      let first := !c.txDone && !c.rxDone
      let c' := match d with
        | .tx => { c with txDone := true }
        | .rx => { c with rxDone := true }
      let both := c'.txDone && c'.rxDone
      let upd (k : LinkSt) : List Change :=
        if both then k.changes.filter (· != c) else k.changes.map (fun x => if x == c then c' else x)
      let s := moveToHeld l d p (s.modLink l (fun k => { k with
        changes := upd k, deadMask := setBit k.deadMask p true, lossRun := 0, sinceFallback := 0 }))
      let s := if first then
          ((s.inc (PORT_TRIPAIR_FALLBACKS l.n)).raise 0x2021 1 [l.n, m, code, c.stage]).modPair l.n p
            (fun q => { q with swap := .idle, outs := [], ahead := [], waiting := [] })
        else s
      let s := s.setFld (PAIR_QUALITY.LQ l.n p) 0
      .next (showLink l (capNotice l (judgeStreams l s)))
    | _ => .next s

/-- TRIPAIR_RESTORE_REQUEST: the dead pair's pilots have stood 6 dB above DEAD_SNR for RESTORE_STAGES: a fast retrain with
cause RESTORE (R219). -/
def execTripairRestoreRequest (l : LinkId) (p : Pair) (s : State) : Host.Outcome State Fault Refusal :=
  let n := l.n
  let lim := max 256 (s.fld (PORT_TRIPAIR_CFG.RESTORE_STAGES n))
  if s.flag (PORT_TRIPAIR_CFG.RESTORE n) && isFallen (s.link l) p &&
      decide (lim ≤ (s.pair n p).restoreRun) then .next (showLink l (requestRetrain l 0xB s))
  else .next s

/-- LINK_DOWN: the link leaves showtime or a fast retrain with a cause of R224. -/
def execLinkDown (l : LinkId) (cause : Nat) (s : State) : Host.Outcome State Fault Refusal := .next (linkDown l cause s)

/-- FRONTEND_FAULT: the tile's fault logic reports a front end: a pair fault with code FRONTEND (R215). -/
def execFrontendFault (n : Port) (p : Pair) (s : State) : Host.Outcome State Fault Refusal :=
  let l := linkOfPair s n p
  .next (showLink l (pairFault l p 4 s))

end Sys2Proof.Machine
end

