-- ==== Sys2Proof/Machine/DiagOps.lean ====
section
/-! DEFINITION. What the cable diagnostics compute: the responses of a REFLECT run from its ADC samples (R319 to R323), and the loss and
crosstalk maps from the receiver's estimates (R325, R326). Roundings, which the spec does not give, are DESIGN CHOICES (log entry 51). -/
namespace Sys2Proof.Machine

/-! ### Decibels -/

/-- 10 log10 of a / b in 0.1 dB, rounded down, from 0 to `most`: the largest x with 10^x b^100 ≤ a^100. -/
def tenthsOf (most a b : Nat) : Nat :=
  (List.range 12).reverse.foldl (fun x i =>
    let d := x + 2 ^ i
    if d ≤ most ∧ ((10 ^ d * (b ^ 10) ^ 10 : Nat) ≤ (a ^ 10) ^ 10) then d else x) 0

/-- 10 log10 of a / b in 0.1 dB, of either sign, within 204.8 dB. -/
def ratioTenths (a b : Nat) : Int := if b ≤ a then tenthsOf 2048 a b else -(tenthsOf 2048 b a)

/-- An entry of a map (R325): a loss in 0.1 dB, from 0 to one below the mark of an absent one. -/
def mapEntry (loss : Int) : Nat := (max 0 (min 0xFFFE loss)).toNat

/-! ### The averages of a REFLECT run (R320) -/

/-- The energy of a period. -/
def energyOf (xs : List Int) : Int := (xs.map (fun x => x * x)).sum

/-- A period is rejected: it holds a full-scale sample, or its energy is more than 6 dB above the median of those before it (R320). -/
def isRejected (seen : List Int) (xs : List Int) : Bool :=
  isFullScale xs || (!seen.isEmpty && decide (3981 * medianOf seen < 1000 * energyOf xs))

/-- The periods kept, by the samples of pair p, and how many were rejected. -/
def keepPeriods (p : Nat) : List Int → List (List (List Int)) → List (List (List Int)) × Nat
  | _, [] => ([], 0)
  | seen, x :: xs =>
    let mine := x.getD p []
    let r := keepPeriods p (seen ++ [energyOf mine]) xs
    if isRejected seen mine then (r.1, r.2 + 1) else (x :: r.1, r.2)

/-- The coherent sum of a pair's samples over the kept periods. -/
def sumPeriods (src : Nat) (kept : List (List (List Int))) : List Int :=
  kept.foldl (fun acc x => List.zipWith (· + ·) acc (x.getD src [])) (List.replicate 16384 0)

/-! ### The responses (R319, R320, R323) -/

/-- The transform of an average at line m of the chirp, less the chirp's phase, in 2^-10 of a sample (R319, R320). -/
def lineAt (avg : List Int) (count m : Nat) : Cx :=
  let y := avg.zipIdx.foldl (fun (a : Cx) x => Cx.add a (turnBack ((m * x.2 : Nat) / 16384 : Rat) (x.1 * 1024, 0))) (0, 0)
  let z := turnBack ((m * m : Nat) / 32768 : Rat) y
  (z.1 / max 1 count, z.2 / max 1 count)

/-- A response in frequency, lines 64 to 7935 in 2^-15: divided by the chirp's amplitude, the device's own response taken off by the
front-end reference of CALIB, whose form the spec does not give (R320; log entry 3). -/
def responseLines (g src level gain : Nat) (avg : List Int) (count : Nat) : List Cx :=
  ((List.range 7936).drop 64).map (fun m => Config.referencePlane g src level gain m (lineAt avg count m))

/-- The 16,384 taps of 20 ps of a response, in 2^-15, from its lines and their conjugates (R319, R320). -/
def responseTaps (lines : List Cx) : List Int :=
  (List.range 16384).map (fun t =>
    (lines.zipIdx.foldl (fun acc x => acc + 2 * (turnBack (-(((x.2 + 64) * t : Nat) / 16384 : Rat)) x.1).1) 0) / 16384)

/-- The return-loss map at subcarrier k, from 4 to 495: -20 log10 of the magnitude at line 16 k (R323). -/
def returnLoss (lines : List Cx) (k : Nat) : Nat :=
  let v := lines.getD (16 * k - 64) (0, 0)
  mapEntry (ratioTenths (2 ^ 30) (v.1 * v.1 + v.2 * v.2).natAbs)

/-! ### The reflections (R321, R322) -/

/-- One reflection in a run's response: its distance in mm, the corrected coefficient in 1/128, the largest positive peak that follows
within 30 cm in 1/128 (0 none), and the other pairs whose cross response within 5 cm is no more than 10 dB below, with its size. -/
structure Reflection where
  dist : Nat
  rho : Int
  follow : Int
  cross : List (Pair × Nat)
deriving DecidableEq, Repr

/-- Distance of a round-trip delay in mm (R321). -/
def reflDist (s : State) (n : Port) (tauPs : Nat) : Nat :=
  tauPs * 1000 / (2 * max 3000 (min 6000 (s.fld (DIAG_CFG.DELAY_PS_M n))))

/-- A step height in 1/128 corrected for the round-trip loss of 2 LOSS_DB_M d dB, taken to 0.1 dB, and held within the field: the
largest r with r^200 ≤ h^200 10^t (R322). -/
def lossless (s : State) (n : Port) (dist : Nat) (h : Int) : Int :=
  let t := 2 * s.fld (DIAG_CFG2.LOSS_DB_M n) * dist / 10000
  let r := (List.range 7).reverse.foldl (fun r i =>
    let d := r + 2 ^ i
    if ((d ^ 100) ^ 2 : Nat) ≤ (h.natAbs ^ 100) ^ 2 * 10 ^ t then d else r) 0
  h.sign * r

/-- The places of a response that stand out, by ascending delay: distance and corrected coefficient. The search by sub-tap interpolation
and the 1.5 GHz filter are not given (R321, R322; log entry 3). -/
def peaksOf (s : State) (n : Port) (taps : List Int) : List (Nat × Int) :=
  (Config.reflections taps).map (fun x => let d := reflDist s n x.1; (d, lossless s n d x.2))

/-- The reflections of a response, with the cross responses of the other pairs (R322). -/
def reflectionsOf (peaks : List (Nat × Int)) (cross : List (Pair × List (Nat × Int))) : List Reflection :=
  peaks.map (fun x =>
    let after := peaks.filter (fun y => decide (x.1 < y.1 ∧ y.1 ≤ x.1 + 300))
    let near (ys : List (Nat × Int)) : Nat :=
      ((ys.filter (fun y => decide (y.1 ≤ x.1 + 50 ∧ x.1 ≤ y.1 + 50))).map (fun y => y.2.natAbs)).foldl max 0
    ⟨x.1, x.2, (after.map (·.2)).foldl max 0,
      (cross.map (fun c => (c.1, near c.2))).filter (fun c => decide (0 < c.2 ∧ x.2.natAbs ^ 2 ≤ 10 * c.2 ^ 2))⟩)

/-- What a REFLECT run of a pair gives (R320 to R323): rejected periods, reflections, the taps of its responses by SRC, the lines of the
reflection response. -/
structure ReflectResult where
  rejected : Nat
  refs : List Reflection
  taps : List (Nat × List Int)
  lines : List Cx

/-- The run's results from its samples: the reflection response of pair p, and with CROSS a cross response into each other pair. -/
def reflectResult (s : State) (n : Port) (p : Pair) (r : ReflectMeas) : ReflectResult :=
  let g := gpair n p
  let level := if (s.diag g).fallen then 0 else s.fld (DIAG_CTRL.LEVEL n p)
  let kept := keepPeriods p [] (r.periods.take (2 ^ max 6 (s.fld (DIAG_CTRL.AVG n p))))
  let lines (src : Nat) : List Cx := responseLines g src level r.gain (sumPeriods src kept.1) kept.1.length
  let others := if s.flag (DIAG_CTRL.CROSS n p) then ([0, 1, 2, 3] : List Pair).filter (· != p) else []
  let own := lines p
  let taps := responseTaps own
  let cross : List (Pair × List Int) := others.map (fun q => (q, responseTaps (lines q)))
  { rejected := kept.2, taps := (p.val, taps) :: cross.map (fun c => (c.1.val, c.2)), lines := own,
    refs := reflectionsOf (peaksOf s n taps) (cross.map (fun c => (c.1, peaksOf s n c.2))) }

/-! ### The maps (R325, R326) -/

/-- The gains of a pair's receiver in 0.1 dB: analogue -4 + code dB, digital in 1/16 dB (R151). -/
def gainTenths (s : State) (n p : Nat) : Int :=
  10 * ((s.fld (PAIR_AGC.AGAIN n p) : Int) - 4) + signed 12 (s.fld (PAIR_AGC.DGAIN n p)) * 10 / 16

/-- The power of a complex value. -/
def powerOfCx (v : Cx) : Nat := (v.1 * v.1 + v.2 * v.2).natAbs

/-- Insertion loss (R325): from H(k, p, p) in 2^-15, the gains, the stored front-end response (a free value, log entry 3) and the far
end's PSD_OFFSET of -6.0 dB and 0.5 dB a code. -/
def insertionLoss (s : State) (n : Port) (p : Pair) (k : Nat) : Nat :=
  let l := linkOfPair s n p
  mapEntry (ratioTenths (2 ^ 30) (powerOfCx (coefAt s n p 6 (512 * p.val + k))) + gainTenths s n p +
    (5 * (senderPsd s l p .rx : Int) - 60) + Config.frontEndLoss (gpair n p) k)

/-- NEXT loss from the coefficients of depths 0 and 1, in 2^-13, added in power (DESIGN CHOICE, log entry 51), gain-corrected (R325). -/
def nextLoss (s : State) (n : Port) (p : Pair) (mem first k : Nat) : Nat :=
  mapEntry (ratioTenths (2 ^ 26) (powerOfCx (coefAt s n p mem (first + k)) + powerOfCx (coefAt s n p mem (first + 512 + k))) +
    gainTenths s n p)

/-- ACR-F: 20 log10 |H(k, p, p) / H(k, p, a)| (R325). -/
def acrF (s : State) (n : Port) (p a : Pair) (k : Nat) : Nat :=
  mapEntry (ratioTenths (powerOfCx (coefAt s n p 6 (512 * p.val + k))) (powerOfCx (coefAt s n p 6 (512 * a.val + k))))

/-- The other pairs of the port in letter order. -/
def otherPairs (p : Nat) : List Nat := allPairs.filter (· != p)

/-- A value of a MAPS run (R325) at subcarrier k of pair p. -/
def mapValue (s : State) (n : Port) (p : Pair) (m k : Nat) : Nat :=
  if m = 0 then insertionLoss s n p k
  else if m ≤ 4 then nextLoss s n p 3 (1024 * (m - 2)) k
  else if m ≤ 7 then acrF s n p (pairOf ((otherPairs p).getD (m - 5) 0)) k
  else nextLoss s n p 4 (1024 * (m - 8)) k

/-- The pair is dead or carries nothing. -/
def deadFor (s : State) (n : Port) (p : Nat) : Bool :=
  !(carriers s n).contains p || (activeLinks s n).any (fun l => bit (s.link l).deadMask p)

/-- The far end transmits on subcarrier k of a pair (R110). -/
def farSends (s : State) (n : Port) (p : Pair) (k : Nat) : Bool :=
  let x := s.link (linkOfPair s n p)
  !x.splitband || inBand (senderLower x .rx) k

/-- An estimate exists for an entry (R326). -/
def entryExists (s : State) (n : Port) (p : Pair) (m k : Nat) : Bool :=
  let split := splitOn s n
  !isExcluded k && farSends s n p k && !deadFor s n p &&
    (if m = 0 then true
     else if 2 ≤ m ∧ m ≤ 4 then !split && !deadFor s n ((otherPairs p).getD (m - 2) 0)
     else if 5 ≤ m ∧ m ≤ 7 then !isBreakout s n && !deadFor s n ((otherPairs p).getD (m - 5) 0)
     else if 8 ≤ m ∧ m ≤ 11 then inEffect s n mBUNDLE && !deadFor s (partner n) (m - 8)
     else false)

/-- The maps of a port from the receiver's estimates as they now stand: victim pair, map, subcarrier, value (R325). -/
def mapSnapshot (s : State) (n : Port) : List (Nat × Nat × Nat × Nat) :=
  ([0, 1, 2, 3] : List Pair).flatMap (fun p => [0, 2, 3, 4, 5, 6, 7, 8, 9, 10, 11].flatMap (fun m =>
    ((List.range 512).filter (entryExists s n p m)).map (fun k => (p.val, m, k, mapValue s n p m k))))

end Sys2Proof.Machine
end

