-- ==== Sys2Proof/Machine/Diag.lean ====
section
/-! DEFINITION. What the cable diagnostics commands do: REFLECT, MAPS, history (R316 to R335). -/
namespace Sys2Proof.Machine

/-! ### Starting a run (R317, R326, R328) -/

/-- REFLECT's contexts (R317): the port idle, or a pair fallen from a port that runs on three. -/
def idleContext (s : State) (n : Port) : Bool :=
  !s.flag (PORT_STARTUP_CFG.ENABLE n) && !isBreakout s n && (s.link (portLink n)).phase == 0
def fallenContext (s : State) (n : Port) (p : Nat) : Bool :=
  let k := s.link (portLink n)
  pairCount k.carry == 3 && isFallen k p

/-- The reason a REFLECT start is refused with, 0 for none (R317). -/
def reflectReason (s : State) (n : Port) (p : Nat) : Nat :=
  if !claimOnPair s 3 (gpair n p) then 1
  else if !idleContext s n && !fallenContext s n p then 2
  else if allPairs.any (fun q => q != p && reflecting s (gpair n q)) then 3
  else 0

/-- A run of a kind is refused with a reason. -/
def refuseRun (n : Port) (p kind reason : Nat) (s : State) : State :=
  ((s.setFld (DIAG_STATUS.RESULT n p) 3).setFld (DIAG_STATUS.KIND n p) kind).setFld (DIAG_STATUS.REASON n p) reason

/-- A run of a kind begins. -/
def beginRun (n : Port) (p kind : Nat) (s : State) : State :=
  let s := ((s.setFld (DIAG_STATUS.RESULT n p) 0).setFld (DIAG_STATUS.KIND n p) kind).setFld (DIAG_STATUS.REASON n p) 0
  s.setFld (DIAG_STATUS.BUSY n p) 1

/-- A REFLECT start that no event refuses: it runs or is refused (R317, R318). -/
def startReflect (n : Port) (p : Nat) (s : State) : State :=
  let r := reflectReason s n p
  if r ≠ 0 then refuseRun n p 0 r s
  else
    let fallen := fallenContext s n p
    let s := s.modDiag (gpair n p) (fun d => { d with fallen := fallen })
    -- the pair sends the chirp for as long as the run lasts (R319)
    histFlag n p 6 (beginRun n p 0 (s.emit (.chirp n p (chirpLevel s n p fallen) chirpLines)))

/-- A MAPS start (R325, R326, R328): refused outside showtime, and with stale quantities; else the snapshot is taken. -/
def startMaps (n : Port) (p : Nat) (s : State) : State :=
  if !portShow s n then refuseRun n p 1 8 s
  else if (carriers s n).any (fun q => isStale (s.pair n q)) then
    refuseRun n p 1 9 (forEach allPairs (fun q s => s.setFld ⟨DIAG_MAP_STATUS n q, 31, 31⟩ 1) s)
  else
    let stage := (s.reg (PORT_STAGE_NOW n)).toNat
    let snap := mapSnapshot s n
    let s := s.modDiag (gpair n p) (fun d => { d with snap := snap })
    beginRun n p 1 (forEach allPairs (fun q s => s.setReg (DIAG_MAP_STAGE n q) (word stage)) s)

/-- A write of DIAG_CTRL (R317, R325, R332, R334): the fields are stored; ABORT ends a REFLECT; a START in the same write is then
refused with the same reason. A START while the pair runs a diagnostic has no effect (log entry 20). -/
def writeDiagCtrl (n : Port) (p : Nat) (w : Nat) (s : State) : State :=
  let was := reflecting s (gpair n p)
  let s := ((s.setFld (DIAG_CTRL.KIND n p) (bits w 24 24)).setFld (DIAG_CTRL.LEVEL n p) (bits w 17 16)).setFld
    (DIAG_CTRL.CROSS n p) (bits w 8 8)
  let s := s.setFld (DIAG_CTRL.AVG n p) (bits w 3 0)
  let s := if bit w 30 then abortReflect (gpair n p) 7 s else s
  if !bit w 31 ∨ s.flag (DIAG_STATUS.BUSY n p) then s
  else if bit w 24 then startMaps n p s
  else if bit w 30 && was then refuseRun n p 0 7 s
  else startReflect n p s

/-- REFLECT_START: DIAG_CTRL is written with START and KIND 0 (R317). -/
def execReflectStart (n : Port) (p : Pair) (v : Word) (s : State) : Host.Outcome State Fault Refusal :=
  if bit v.toNat 24 || !bit v.toNat 31 then .next s else .next (writeDiagCtrl n p v.toNat s)

/-- MAPS_START: DIAG_CTRL is written with START and KIND 1 (R325). -/
def execMapsStart (n : Port) (p : Pair) (v : Word) (s : State) : Host.Outcome State Fault Refusal :=
  if !bit v.toNat 24 || !bit v.toNat 31 then .next s else .next (writeDiagCtrl n p v.toNat s)

/-- DIAG_CTRL_ABORT: ABORT is written (R332). -/
def execDiagCtrlAbort (n : Port) (p : Pair) (s : State) : Host.Outcome State Fault Refusal :=
  .next (abortReflect (gpair n p) 7 s)

/-! ### Class C7 (R61 to R63, R327), in 0.1 dB -/

/-- The frequency of subcarrier k in GHz. -/
def freqOf (k : Nat) : Rat := (k : Rat) * 48828125 / 1000000000

/-- Linear interpolation in a table of (GHz, dB). -/
def interpolate : List (Rat × Rat) → Rat → Rat
  | (f0, v0) :: (f1, v1) :: rest, f =>
    if f ≤ f1 ∨ rest.isEmpty then v0 + (v1 - v0) * (f - f0) / (f1 - f0) else interpolate ((f1, v1) :: rest) f
  | [(_, v)], _ => v
  | [], _ => 0

/-- The insertion-loss limit at 7 m (R61). -/
def lossTable : List (Rat × Rat) :=
  [(2 / 10, 12 / 10), (1, 34 / 10), (3, 73 / 10), (6, 122 / 10), (125 / 10, 22), (18, 298 / 10), (24, 38)]

/-- A limit "a to b" of R62. -/
def slopeLimit (a b : Rat) (f : Rat) : Rat := if f ≤ 6 then a else a + (b - a) * (f - 6) / 18

/-- How far an entry of a map falls short of its limit in dB, positive when it fails. -/
def shortfall (len map k v : Nat) : Rat :=
  let f := freqOf k
  let x : Rat := (v : Rat) / 10
  if map = 0 then x - interpolate lossTable f * len / 7000
  else if map = 1 then slopeLimit 12 8 f - x
  else if map ≤ 4 then slopeLimit 40 34 f - x
  else if map ≤ 7 then 20 - x
  else slopeLimit 35 30 f - x

/-- The class bit of a map in DIAG_MAP_STATUS: IL 24, RL 25, NEXT 26, FEXT 27, XNEXT 28. -/
def mapClass (map : Nat) : Nat := if map = 0 then 24 else if map = 1 then 25 else if map ≤ 4 then 26 else if map ≤ 7 then 27 else 28

/-- Check the maps of a pair against class C7 (R327) from 0.2 to 24 GHz; without a LENGTH nothing is checked. -/
def checkMaps (n : Port) (p : Nat) (s : State) : State :=
  let len := s.fld (DIAG_CFG.LENGTH n)
  let stale := bits (s.reg (DIAG_MAP_STATUS n p)).toNat 31 31
  if len = 0 then s.setFld ⟨DIAG_MAP_STATUS n p, 30, 30⟩ 0
  else
    let found := (List.range 12).flatMap (fun m => ((List.range 512).filter (fun k => decide (5 ≤ k ∧ k ≤ 491))).filterMap (fun k =>
      let v := s.mapAt (gpair n p) m k
      if v = 0xFFFF then none
      else
        let x := shortfall len m k v
        if 0 < x then some (m, k, x) else none))
    let fails := found.foldl (fun w e => setBit w (mapClass e.1) true) 0
    let worst := found.foldl (fun b e => if b.2.2 < e.2.2 then e else b) ((0, 0, 0) : Nat × Nat × Rat)
    s.setReg (DIAG_MAP_STATUS n p) (word (stale * 2 ^ 31 + 2 ^ 30 + fails + worst.1 * 2 ^ 16 + worst.2.1))

/-! ### REFLECT results (R320 to R324) -/

/-- EVT_THRESH as it acts. -/
def evtThresh (s : State) (n : Port) : Nat := max 1 (s.fld (DIAG_CFG2.EVT_THRESH n))

/-- Put an event at its place by distance. -/
def insertEvent (x : Reflection) : List Reflection → List Reflection
  | [] => [x]
  | y :: ys => if x.dist < y.dist then x :: y :: ys else y :: insertEvent x ys

/-- Events closer than 10 cm to the one before are reported as one with it (R321). -/
def mergeEvents (xs : List Reflection) : List Reflection :=
  (xs.foldl (fun kept x => match kept with
    | y :: _ => if x.dist < y.dist + 100 then kept else x :: kept
    | [] => [x]) []).reverse

/-- The criterion of an END event (R322). -/
def isEnd (s : State) (n : Port) (x : Reflection) : Bool :=
  let len := s.fld (DIAG_CFG.LENGTH n)
  len != 0 && decide (x.dist ≤ len + 100 ∧ len ≤ x.dist + 100) && decide (5 * x.rho.natAbs < 128)

/-- The class and the other pair of an event (R322): the first row it meets. -/
def classifyEvent (s : State) (n : Port) (p : Nat) (last : Bool) (r : Reflection) : Nat × Nat :=
  let strong := r.cross.foldl (fun b c => match b with
    | none => some c
    | some a => if a.2 < c.2 then some c else some a) none
  let short := if s.flag (DIAG_CTRL.CROSS n p) && decide (5 * r.rho ≤ -128) then strong else none
  match short with
  | some c => (3, c.1.val)
  | none =>
    if decide (384 ≤ 5 * r.rho) && last then (1, 0)
    else if decide (5 * r.rho ≤ -384) && last then (2, 0)
    else if isEnd s n r then (6, 0)
    else if decide (r.rho < 0) && decide (5 * r.rho.natAbs < 384) && decide (0 < r.follow) &&
        decide (r.rho.natAbs ≤ 2 * r.follow.natAbs) then (5, 0)
    else (4, 0)

/-- The events of a run, nearest first (R321, R322). -/
def reflEvents (s : State) (n : Port) (rs : List Reflection) : List Reflection :=
  let xs := rs.filter (fun x => decide (50 ≤ x.dist ∧ x.dist ≤ 35000) && decide (evtThresh s n < x.rho.natAbs))
  let xs := mergeEvents (xs.foldr insertEvent [])
  match xs.find? (isEnd s n) with
  | some e => xs.filter (fun x => decide (x.dist ≤ e.dist + 300))
  | none => xs

/-- Classify each event: an OPEN or a SHORT has none beyond it. -/
def classifyAll (s : State) (n : Port) (p : Nat) : List Reflection → List (Nat × Nat × Nat × Int)
  | [] => []
  | x :: xs =>
    let c := classifyEvent s n p xs.isEmpty x
    (c.1, c.2, x.dist, x.rho) :: classifyAll s n p xs

/-- The word of an event (R334). -/
def eventWord (e : Nat × Nat × Nat × Int) : Nat :=
  e.1 * 2 ^ 28 + e.2.1 % 4 * 2 ^ 24 + unsigned 8 e.2.2.2 * 2 ^ 16 + min e.2.2.1 0xFFFF

/-- The noise floor lies less than 6 dB below EVT_THRESH (R322): with N half-dB, 10^((N - 12) / 40) < 128 / EVT_THRESH. -/
def noisy (s : State) (n : Port) (noise : Nat) : Bool := decide (evtThresh s n ^ 40 * 10 ^ noise < 128 ^ 40 * 10 ^ 12)

/-- The taps and the return-loss map of a run (R320, R323); the maps and traces of before go. -/
def storeResponse (n : Port) (p : Nat) (r : ReflectResult) (s : State) : State :=
  let g := gpair n p
  let s := { s with traces := s.traces.filter (fun x => x.1 / 65536 != g),
                    maps := s.maps.filter (fun x => x.1 / 512 != g * 16 + 1) }
  let s := forEach r.taps (fun x s => forEach x.2.zipIdx (fun v s => s.setTap g x.1 v.2 (unsigned 16 v.1)) s) s
  forEach ((List.range 496).drop 4) (fun k s => s.setMap g 1 k (returnLoss r.lines k)) s

/-- REFLECT_DONE: a run is complete: events, response, return loss, the check against class C7, event 0x2060; its job ends with
DIAG_STATUS; the claim remains (R320 to R327, R436). -/
def execReflectDone (n : Port) (p : Pair) (r : ReflectMeas) (s : State) : Host.Outcome State Fault Refusal :=
  let g := gpair n p
  if !reflecting s g then .next s
  else
    let x := reflectResult s n p r
    let es := classifyAll s n p (reflEvents s n x.refs)
    let kept := es.take 16
    let periods := 2 ^ max 6 (s.fld (DIAG_CTRL.AVG n p))
    let low := decide (periods < 4 * x.rejected) || noisy s n r.noise
    let s := storeResponse n p x s
    let s := forEach (List.range 16) (fun j s =>
      s.setReg (DIAG_EVENT n p j) (word ((kept[j]?.map eventWord).getD 0))) s
    let s := s.setReg (DIAG_STATUS n p)
      (word ((if low then 2 else 1) * 2 ^ 28 + (decide (16 < es.length)).toNat * 32 + kept.length))
    let s := (s.setReg (DIAG_INFO n p) (word (min r.noise 255 * 2 ^ 24 + min x.rejected 0xFFFF))).setReg
      (DIAG_TIME n p) (word r.timeUs)
    let s := checkMaps n p (s.inc (DIAG_RUNS n p))
    let s := match kept.find? (fun e => e.1 == 1 || e.1 == 2 || e.1 == 3 || e.1 == 5) with
      | some e => s.raise 0x2060 1 [n, p, eventWord e, kept.length]
      | none => s
    let job := (s.diag g).job
    .next (finishJob job 0 (s.reg (DIAG_STATUS n p)).toNat (pairTile g) n (s.modDiag g (fun d => { d with job := 0 })))

/-! ### MAPS results (R325 to R327) -/

/-- Pilot indices hold the mean of their two neighbours (R326). -/
def fillPilots (g m : Nat) (s : State) : State :=
  forEach ((List.range 512).filter isPilot) (fun k s =>
    let a := s.mapAt g m (k - 1)
    let b := s.mapAt g m (k + 1)
    if a = 0xFFFF ∨ b = 0xFFFF then s else s.setMap g m k ((a + b) / 2)) s

/-- One run of a DIAG_MAPS job has ended: its completion goes to the collector (R436, R445). -/
def mapsRunEnds (n : Port) (p : Nat) (status : Nat) (s : State) : State :=
  let job := (s.diag (gpair n p)).job
  let s := s.modDiag (gpair n p) (fun d => { d with job := 0 })
  if job = 0 then s
  else { s with completions := s.completions ++ [(⟨s.now, tileOf n, n, job, status, 0, true⟩ : Completion)] }

/-- MAPS_DONE: a run is complete: the maps of every pair are replaced by those of the snapshot, and checked (R325 to R327). -/
def execMapsDone (n : Port) (p : Pair) (timeUs : Nat) (s : State) : Host.Outcome State Fault Refusal :=
  if !(s.flag (DIAG_STATUS.BUSY n p) && s.fld (DIAG_STATUS.KIND n p) == 1) then .next s
  else
    let mine (x : Nat × Nat) : Bool := x.1 / 512 / 16 / 4 == n.val && x.1 / 512 % 16 != 1
    let s := { s with maps := s.maps.filter (fun x => !mine x) }
    let s := forEach (s.diag (gpair n p)).snap (fun e s => s.setMap (gpair n e.1) e.2.1 e.2.2.1 e.2.2.2) s
    let s := (s.modDiag (gpair n p) (fun d => { d with snap := [] })).setReg (DIAG_TIME n p) (word timeUs)
    let s := forEach allPairs (fun q s => forEach [0, 2, 3, 4, 5, 6, 7, 8, 9, 10, 11] (fun m s => fillPilots (gpair n q) m s) s) s
    let s := forEach allPairs (fun q s => checkMaps n q (s.setFld ⟨DIAG_MAP_STATUS n q, 31, 31⟩ 0)) s
    let s := (s.setFld (DIAG_STATUS.RESULT n p) 1).setFld (DIAG_STATUS.BUSY n p) 0
    .next (mapsRunEnds n p 0 (s.inc (DIAG_RUNS n p)))

/-! ### History (R329 to R331) -/

/-- The record of a pair's period (R329): words 2 and 3. -/
def historyWords (s : State) (n : Port) (p : Nat) : Nat × Nat :=
  let d := s.diag (gpair n p)
  let show' := (activeLinks s n).any (fun l => inShow s l && (linkPairs l).contains p)
  let lq := if d.fresh then d.lqMin else if show' then s.fld (PAIR_QUALITY.LQ n p) else 0
  let m : Int := if d.fresh then d.marginMin else if show' then signed 16 (s.fld (PAIR_QUALITY.MARGIN n p)) else 0
  let e : Int := if d.fresh then d.evmMax else if show' then signed 16 (s.fld (PAIR_EVM.EVM n p)) else 0
  let snr := if show' then s.fld (PAIR_SNR_MEAN.SNR n p) else 0
  let crc := min ((s.val64 (PORT_CRC_BAD n) + 2 ^ 64 - d.crcBase) % 2 ^ 64) 255
  (lq * 2 ^ 24 + d.flags % 256 * 2 ^ 16 + unsigned 16 m, unsigned 16 e * 2 ^ 16 + snr % 256 * 2 ^ 8 + crc)

/-- The flags that hold now: STALE, QUIET, NOT_SHOWTIME, DEAD, DIAG. -/
def flagsNow (n : Port) (p : Nat) (s : State) : State :=
  let put (b : Nat) (c : Bool) (s : State) : State := if c then histFlag n p b s else s
  let show' := (activeLinks s n).any (fun l => inShow s l && (linkPairs l).contains p)
  put 0 (isStale (s.pair n p)) (put 1 (s.pair n p).quiet (put 2 (!show') (put 3 (s.flag (PAIR_QUALITY.DEAD n p))
    (put 6 (reflecting s (gpair n p)) s))))

/-- HISTORY_RECORD: a period of the history ends for a pair: one record, and a profile with every PROFILE_EVERY-th (R329,
R331). -/
def execHistoryRecord (n : Port) (p : Pair) (s : State) : Host.Outcome State Fault Refusal :=
  if !s.flag ⟨DIAG_HIST_CFG n, 31, 31⟩ then .next s
  else
    let s := flagsNow n p s
    let (w2, w3) := historyWords s n p
    let seq := (s.reg (DIAG_HIST_SEQ n p)).toNat
    let stage := (s.reg (PORT_STAGE_NOW n)).toNat
    let s := s.setReg (DIAG_HIST_SEQ n p) (word (if seq = 0xFFFFFFFE then 0 else seq + 1))
    let base := s.val64 (PORT_CRC_BAD n)
    let s := s.modDiag (gpair n p) (fun d => { d with
      recs := ((seq, stage, w2, w3) :: d.recs).take 256, flags := 0, fresh := false, crcBase := base })
    let every := s.fld ⟨DIAG_HIST_CFG n, 23, 16⟩
    let s := flagsNow n p s
    .next (if every ≠ 0 ∧ (seq + 1) % every = 0 then captureProfile n p 1 s else s)

/-- HIST_CLEAR: the rings and profiles of a port's pairs are emptied, SEQ returns to 0 (R331). -/
def histClear (n : Port) (s : State) : State :=
  forEach allPairs (fun p s =>
    (s.modDiag (gpair n p) (fun d => { d with recs := [], profiles := [] })).setReg (DIAG_HIST_SEQ n p) 0) s
def execHistClear (n : Port) (s : State) : Host.Outcome State Fault Refusal := .next (histClear n s)

end Sys2Proof.Machine
end

