-- ==== Sys2Proof/Machine/Resets.lean ====
section
/-! DEFINITION. Resets as shared operations, from device scope to one port, and the reset and supply events (R360 to R362, R375 to
R379, R382, R392). -/
namespace Sys2Proof.Machine

/-! ### Ports and tiles (R375, R377) -/

/-- The ports that `p` selects lose their port and pair registers, their hidden state, tables, coefficients and traces. -/
def dropPorts (p : Nat → Bool) (s : State) : State :=
  let keep {α : Type} (f : Nat → Nat) (m : SMap α) : SMap α := m.filter (fun x => !p (f x.1))
  { s with
    regs := s.regs.filter (fun x => match classify x.1 with
      | some (.port, n, _) => !p n
      | some (.pair, g, _) => !p (g / 4)
      | _ => true)
    ports := keep id s.ports, pairs := keep (· / 4) s.pairs, links := keep (· / 5) s.links, tbl := keep (· / 2048 / 4) s.tbl,
    held := keep (· / 8192 / 4) s.held, snr := keep (· / 512 / 4) s.snr, erle := keep (· / 512 / 4) s.erle,
    errs := keep (· / 512 / 4) s.errs, sigma := keep (· / 512 / 4) s.sigma, noise := keep (· / 512 / 4) s.noise,
    coef := keep (· / 131072 / 4) s.coef, seeds := keep (· / 64 / 4) s.seeds, diags := keep (· / 4) s.diags,
    maps := keep (· / 8192 / 4) s.maps, traces := keep (· / 65536 / 4) s.traces }

/-- The receive queue of a link is emptied: TIMETABLE frames expire, others are flushed (R377). -/
def flushRx (l : LinkId) (s : State) : State :=
  let s := expireFrames l .rx (fun _ => true) 1 s
  let fs := frames s l .rx
  let gone := fs.filter (fun f => !f.tt)
  let s := releaseBeds l.n .rx (gone.flatMap (fun f => f.banks)) s
  let s := setFrames l .rx (fs.filter (fun f => f.tt)) s
  showBeds l.n (s.addTo (TT_FLUSHED l.n) (gone.filter (fun f => !f.os)).length)

/-- A port leaves start-up or showtime with cause DISABLED, its queues are emptied, its diagnostics end (R332, R377). -/
def quitPort (n : Port) (s : State) : State :=
  let s := abortContext n false 4 s
  let ls := activeLinks s n
  let s := forEach ls disableLink s
  let s := forEach (portLinks n) (fun l s => flushRx l (flushTx l (expireAll l 1 s))) s
  forEach allPairs (fun p s => if (s.diag (gpair n p)).job = 0 then s else mapsRunEnds n p 0x0B s) s

/-- The sub-ADCs that REPAIR commits on the ports that `p` selects (R120, R509). -/
def applySubAdcs (p : Nat → Bool) (s : State) : State :=
  forEach ((repairs s).filter (fun r => r.ty == 5 && p (r.unit / 4))) (fun r s =>
    let n := r.unit / 4
    let q := r.unit % 4
    let s := s.setFld (PAIR_ADC_STATUS.SPARE_SLOT n q) r.elem
    let s := (s.setFld (PAIR_ADC_STATUS.COMMITTED n q) 1).setFld (PAIR_ADC_STATUS.DEGRADED n q) 1
    s.modPair n q (fun k => { k with badSub := some r.elem })) s

/-- A segment is to be committed again with a cause (R467). -/
def askRecommit (t cause : Nat) (s : State) : State :=
  s.modHub (fun h => { h with recommit := h.recommit.filter (fun x => x.1 != 1 + t) ++ [(1 + t, cause)] })

/-- PORT_RESET of a port (R375, R377, R467). -/
def portReset (n : Port) (s : State) : State :=
  let s := quitPort n s
  let s := applySubAdcs (· == n.val) (dropPorts (· == n.val) s)
  askRecommit (tileOf n) 3 (refreshModes n s)

/-- A claim names a slice, a pair or a sub-ADC of a tile (R431). -/
def claimOnTile (t kind res : Nat) : Bool :=
  if kind = 1 then (unitKind res == 1 && unitTile res == t) || (unitKind res == 4 && pairTile (unitElem res) == t)
  else if kind = 2 then decide (1 ≤ bits res 31 24 ∧ bits res 31 24 ≤ 4) && pairTile (unitElem res) == t
  else if kind = 3 then pairTile (unitElem res) == t
  else kind == 5 && unitTile res == t

/-- What a reset of a tile ends: its maintenance swaps, unit tests and calibration runs, and the claims on its slices, pairs and
sub-ADCs (R428, R431, R489). -/
def endTileWork (t : Nat) (s : State) : State :=
  let s := abandonRuns 2 (fun r => (servingSensor r.item r.target).1 == t) s
  let s := forEach (s.tile t).swaps (fun w s => endSwapJob t w s) s
  let hit (x : Test) : Bool := (unitKind x.unit == 1 && unitTile x.unit == t) || (unitKind x.unit == 4 && pairTile (unitElem x.unit) == t)
  let gone := s.tests.filter hit
  let s := { s with tests := s.tests.filter (fun x => !hit x) }
  let s := forEach gone (fun x s => releaseOwn x.handle (finishJob x.job 0x0B 0 t (unitPlace x.unit).2 s)) s
  let asked := s.cals.filter (fun x => !x.2.asked.isEmpty && (servingSensor (x.1 / 65536) (x.1 % 65536)).1 == t)
  let s := forEach asked (fun x s => abortAsked (x.1 / 65536) (x.1 % 65536) s) s
  let held := s.claims.filter (fun c => claimOnTile t c.kind c.res)
  showBist (forEach held (fun c s => releaseClaim c.handle s) s)

/-- The domain identifier belongs to the front ends and slices of a tile (R373). -/
def domOfTile (t id : Nat) : Bool :=
  decide (0x200 + 64 * t ≤ id ∧ id < 0x200 + 64 * (t + 1)) || decide (0x400 + 68 * t ≤ id ∧ id < 0x400 + 68 * (t + 1))

/-- Item-targets of a tile leave FAILED and HELD when it is reset (R496). -/
def resetCals (t : Nat) (m : SMap CalSt) : SMap CalSt :=
  m.filterMap (fun (x : Nat × CalSt) =>
    if (servingSensor (x.1 / 65536) (x.1 % 65536)).1 = t ∧ (x.2.state = 2 ∨ x.2.state = 7) then
      (let c : CalSt := { x.2 with state := 0, inRow := 0 }
       if c = CalSt.reset then none else some (x.1, c))
    else some x)

/-- TILE_RESET begins (R375, R377): ports leave with cause DISABLED, every register block of the tile takes its reset values. -/
def tileReset (t : Nat) (s : State) : State :=
  let s := forEach (tilePorts t) quitPort s
  let s := endTileWork t s
  let s := dropPorts (fun n => n / 16 == t) s
  let s := { s with
    regs := s.regs.filter (fun x => match classify x.1 with
      | some (.tile, u, _) => u != t
      | some (.slice, i, _) => i / 68 != t
      | _ => true)
    cals := resetCals t s.cals }
  let faulty := (s.doms.filter (fun x => domOfTile t x.1 && x.2.state == 5)).map (fun x => x.1)
  let s := { s with doms := s.doms.filter (fun x => !domOfTile t x.1) }
  let s := forEach faulty (fun id s => s.raise 0x1071 0 [id, 2]) s
  let was := (s.dom (0x020 + t)).state
  let s := s.setTile t { TileSt.reset with inReset := true, linkDown := (s.tile t).linkDown || was == 5, wires := (s.tile t).wires }
  s.modDom (0x020 + t) (fun d => { d with state := 6, awake := false, down := false })

/-- The tile common domain is up with its link: both LPLLs lock to a qualified REFCLK (R339, R366). -/
def tileUp (t : Nat) (s : State) : State :=
  let q := s.fld CLK_STATUS.REF_QUAL
  let s := (s.setFld (TILE_CLK_STATUS.M_LOCK t) q).setFld (TILE_CLK_STATUS.S_LOCK t) q
  s.modDom (0x020 + t) (fun d => { d with state := 3 })

/-- Set the trims of a tile's item-targets from the values held (R377, R486). -/
def tileTrims (t : Nat) (s : State) : State :=
  forEach (s.cals.filter (fun x => (servingSensor (x.1 / 65536) (x.1 % 65536)).1 == t)) (fun x s =>
    setTrims (x.1 / 65536) (x.1 % 65536) s) s

/-! ### Resets of device scope (R375, R376, R451) -/

/-- The registers of the AON domain beside those that show hardware state (R385, R419). -/
def aonRegs : List Nat :=
  [PWR_NEXT_PHASE, PWR_RESET_CAUSE, PWR_DEVICE_RESETS, PWR_BOOT_FAILS, PWR_RAIL_STATUS, MR_ID, MR_SEQ, MR_SEQ + 4]

/-- The address lies in the Guestbook block. -/
def isGbReg (a : Nat) : Bool := match classify a with | some (.gb, _, _) => true | _ => false

/-- STATE and RDATA of the debug access port through a reset of device scope: an operation that waits ends NOT_READY (R378, R551,
R552). -/
def dapAfter (h : HubSt) : Nat := if h.dapState = 1 then 2 else h.dapState
def dapDataAfter (h : HubSt) : Nat := if h.dapState = 1 then 0 else h.dapData

/-- A DEVICE_RESET (cause COMMAND or WATCHDOG) or a supply reset begins: all but the AON domain, and after the former the
Guestbook, takes its reset state; what shows the state of REFCLK, its PLLs and the TAP stays (R338, R375, R451, R551). -/
def deviceReset (cause : Nat) (s : State) : State :=
  let supply := cause == 3
  let s := forEach s.calRuns (fun r s => s.raise 0x5004 0 [r.item, r.target, 2]) s
  let clk := (s.reg CLK_STATUS).toNat
  let mr := (s.reg MR_STATUS).toNat
  let h := s.hub
  let t : State := { State.reset with
    now := s.now, free := s.free, mram := s.mram, calSaved := s.calSaved,
    regs := s.regs.filter (fun x => aonRegs.contains x.1 || (!supply && isGbReg x.1)),
    gbQueue := if supply then [] else s.gbQueue, gbLimits := if supply then [] else s.gbLimits,
    gbWindow := if supply then [] else s.gbWindow,
    raised := if supply then [] else s.raised, out := s.out, pending := s.pending,
    hub := { HubSt.reset with
      refLostAt := h.refLostAt, everQual := h.everQual, resetting := true, bootAt := s.now, railsLost := h.railsLost,
      watchdogLimit := h.watchdogLimit, epochAt := h.epochAt, epochHold := h.epochHold, boardTest := h.boardTest, ir := h.ir, boundary := h.boundary, dapState := dapAfter h,
      dapAddr := h.dapAddr, dapData := dapDataAfter h, opBase := h.opBase, opAt := h.opAt, rateStart := h.rateStart } }
  let t := t.setReg CLK_STATUS (word (bits clk 31 27 * 2 ^ 27))
  let t := t.setReg MR_STATUS (word (bits mr 25 24 * 2 ^ 24))
  let t := t.setFld DBG_DAP_STATUS.BOARD_TEST h.boardTest.isSome.toNat
  ((t.setFld PWR_RESET_CAUSE.CAUSE cause).setFld PWR_RESET_CAUSE.RAIL
    (if supply then h.railsLost % 64 else 0)).inc PWR_DEVICE_RESETS

/-- A cold reset begins with a cause, POWER_ON or RESET_N: only MRAM keeps its contents; the power-cycle count moves (R375, R396,
R513). The count is stored as the reset begins (log entry 5). -/
def coldReset (cause : Nat) (s : State) : State :=
  let h := s.hub
  let t : State := { State.reset with
    now := s.now, free := s.free, mram := s.mram, calSaved := s.calSaved, out := s.out, pending := s.pending,
    hub := { HubSt.reset with
      resetting := true, bootAt := s.now, epochAt := s.now, boardTest := h.boardTest, ir := h.ir, boundary := h.boundary, dapState := dapAfter h, dapAddr := h.dapAddr,
      dapData := dapDataAfter h, opAt := s.now } }
  let t := putBytes 0x7A0004 (bytesLsb 2 (powerCycles s + 1)) t
  let t := t.setFld DBG_DAP_STATUS.BOARD_TEST h.boardTest.isSome.toNat
  (t.setReg PWR_RAIL_STATUS (s.reg PWR_RAIL_STATUS)).setFld PWR_RESET_CAUSE.CAUSE cause

/-- The straps are sampled at a cold reset (R396): 0x3F means enumerate. -/
def sampleStrap (strap : Nat) (s : State) : State :=
  let v := strap % 64
  let s := s.setFld MR_ID.STRAP v
  if v = 0x3F then (s.setFld MR_ID.ASSIGNED 0).setFld MR_ID.DEVID 0
  else (s.setFld MR_ID.ASSIGNED 1).setFld MR_ID.DEVID v

/-- A reset of device scope ends: the boot begins at its first step (R380). -/
def beginBoot (s : State) : State := s.modHub (fun h => { h with resetting := false, bootAt := s.now })

/-- The cause of the reset that lasts. -/
def resetCause (s : State) : Nat := s.fld PWR_RESET_CAUSE.CAUSE

/-- All seven rails are good. -/
def railsGood (s : State) : Bool := s.fld PWR_RAIL_STATUS.GOOD == 0x7F

/-- RAIL_GOOD: a rail has become good (R362); with all good, a power-up or a supply reset ends. -/
def execRailGood (r : Fin 7) (strap : Nat) (s : State) : Host.Outcome State Fault Refusal :=
  if bit (s.fld PWR_RAIL_STATUS.GOOD) r then .next s
  else
    let s := s.setFld ⟨PWR_RAIL_STATUS, r, r⟩ 1
    if s.hub.resetting && railsGood s && (resetCause s == 1 || resetCause s == 3) then
      .next (beginBoot (if resetCause s = 1 then sampleStrap strap s else s))
    else .next s

/-- RAIL_LOST: a rail is lost (R362, R375): VDD_AON means a cold reset, any other a supply reset unless a cold reset lasts. -/
def execRailLost (r : Fin 7) (s : State) : Host.Outcome State Fault Refusal :=
  if !bit (s.fld PWR_RAIL_STATUS.GOOD) r then .next s
  else
    let s := s.setFld ⟨PWR_RAIL_STATUS, r, r⟩ 0
    if r.val = 6 then .next (coldReset 1 s)
    else if s.hub.resetting && (resetCause s == 1 || resetCause s == 2) then .next s
    else if s.hub.resetting && resetCause s == 3 then
      let s := s.modHub (fun h => { h with railsLost := setBit h.railsLost r true })
      .next (s.setFld PWR_RESET_CAUSE.RAIL (s.hub.railsLost % 64))
    else .next (deviceReset 3 (s.modHub (fun h => { h with railsLost := 2 ^ r.val })))

/-- RESET_N_ASSERT: RESET_N has been low for 1 µs: a cold reset (R375, R376). -/
def execResetNAssert (s : State) : Host.Outcome State Fault Refusal := .next (coldReset 2 s)

/-- RESET_N_RELEASE: RESET_N is high again: with every rail good the reset ends, otherwise when they are (R361, R375, R396). -/
def execResetNRelease (strap : Nat) (s : State) : Host.Outcome State Fault Refusal :=
  if s.hub.resetting && resetCause s == 2 then
    let s := sampleStrap strap s
    if railsGood s then .next (beginBoot s) else .next s
  else .next s

/-- DEVICE_RESET_START: 10 µs after the reply to DEVICE_RESET the reset begins; commands behind it are discarded (R379). -/
def execDeviceResetStart (s : State) : Host.Outcome State Fault Refusal :=
  if s.hub.resetDue then .next (deviceReset 4 s) else .next s

/-- DEVICE_RESET_END: the 10 µs of a DEVICE_RESET have passed: the boot begins (R375). -/
def execDeviceResetEnd (s : State) : Host.Outcome State Fault Refusal :=
  if s.hub.resetting && (resetCause s == 4 || resetCause s == 5) then .next (beginBoot s) else .next s

/-- BOOT_WATCHDOG_EXPIRE: READY is not set 500 ms after step 1 (R382): event 0x0002, a DEVICE_RESET with cause WATCHDOG; after
three in a row the next boot runs the recovery firmware. The device does not time out while it waits for REFCLK (R380). -/
def execBootWatchdogExpire (s : State) : Host.Outcome State Fault Refusal :=
  let step := s.fld PWR_PHASE.BOOT_STEP
  if s.hub.resetting || s.flag PWR_PHASE.READY || step == 0 then .next s
  else
    let n := min (s.fld PWR_BOOT_FAILS.COUNT + 1) 255
    let s := (s.setFld PWR_BOOT_FAILS.COUNT n).raise 0x0002 1 [step, n]
    .next (deviceReset 5 (s.modHub (fun h => { h with watchdogLimit := decide (3 ≤ n) })))

end Sys2Proof.Machine
end

