-- ==== Sys2Proof/Machine/Domains.lean ====
section
/-! DEFINITION. Power domains and the core voltage as shared operations: identifiers, states, off conditions, wakes and
power-downs, the requests of PWR_DOM_CTRL, the AVS settings (R364 to R374). -/
namespace Sys2Proof.Machine

/-! ### Identifiers and states (R366, R373) -/

/-- The kind of the domain an identifier names: 0 AON, hub core, Hostel groups 0 to 7; 1 Hostel group 8; 2 tile common; 3 octet;
4 front end; 5 pair-slice; 6 none (R373). -/
def domKind (id : Nat) : Nat :=
  if id < 2 ∨ 0x010 ≤ id ∧ id < 0x018 then 0
  else if id = 0x018 then 1
  else if 0x020 ≤ id ∧ id < 0x028 then 2
  else if 0x040 ≤ id ∧ id < 0x051 then 3
  else if 0x200 ≤ id ∧ id < 0x400 then 4
  else if 0x400 ≤ id ∧ id < 0x620 then 5
  else 6

/-- The tile that a tile, front-end or slice domain lies on. -/
def domTileOf (id : Nat) : Nat :=
  if domKind id = 2 then id - 0x020 else if domKind id = 4 then (id - 0x200) / 64 else (id - 0x400) / 68

/-- The state of a tile common domain as PWR_DOM_DATA shows it; a link failed in service is FAULT (R372). -/
def tileState (s : State) (t : Nat) : Nat := if (s.tile t).linkDown then 5 else (s.dom (0x020 + t)).state

/-- The EEI depth that the link of a global pair is in; 0 none. -/
def pairDepth (s : State) (g : Nat) : Nat :=
  let e := (s.link (linkOfPair s (portOf g) (pairOf g))).eei
  if e.inDepth then e.depth else 0

/-- The state that R366 and R367 give a front end, whatever wakes it: IDLE in Layover; OFF in Overnight, Long Stay, with the port
powered off or on request; ON. -/
def frontBase (s : State) (g : Nat) : Nat :=
  if (s.port (g / 4)).frontOff ∨ (s.dom (0x200 + g)).prior = 1 ∨ 2 ≤ pairDepth s g then 0
  else if pairDepth s g = 1 then 2 else 3

/-- The state that R366 and R367 give a slice: RETENTION while FREE and in Long Stay; OFF while FAILED, with the port powered off
or on request; ON. -/
def sliceBase' (s : State) (t i : Nat) : Nat :=
  if sliceState s t i = 3 then 0
  else if sliceState s t i = 1 then 1
  else match slicePair s t i with
    | none => 3
    | some g =>
      if (s.port (g / 4)).frontOff ∨ (s.dom (0x400 + 68 * t + i)).prior = 1 then 0
      else if pairDepth s g = 3 then 1 else 3

/-- The state of a front end or a slice apart from what wakes it. -/
def domBase (s : State) (id : Nat) : Nat :=
  let t := tileState s (domTileOf id)
  if t = 6 then 6
  else if t ≠ 3 then 0
  else if domKind id = 4 then frontBase s (id - 0x200)
  else sliceBase' s (domTileOf id) ((id - 0x400) % 68)

/-- STATE of a domain (R385): 0 OFF; 1 RETENTION; 2 IDLE; 3 ON; 4 WAKING; 5 FAULT; 6 RESET; 7 NONE. -/
def domState (s : State) (id : Nat) : Nat :=
  let d := s.dom id
  match domKind id with
  | 0 => 3
  | 1 => if d.state = 4 ∨ d.state = 5 then d.state else if bankState s 64 = 1 ∧ bankState s 65 = 1 then d.state else 3
  | 2 => tileState s (id - 0x020)
  | 3 => d.state
  | 6 => 7
  | k =>
    if tileState s (domTileOf id) ≠ 3 then domBase s id
    else if d.state = 4 ∨ d.state = 5 then d.state
    else if k = 5 ∧ d.awake ∧ domBase s id = 0 then 3
    else domBase s id

/-- The domain can serve a register access (R369): ON, or its register sub-domain awake; not powering down. -/
def domReady (s : State) (id : Nat) : Bool :=
  let d := s.dom id
  match domKind id with
  | 0 => true
  | 6 => true
  | 4 => !d.down && (domState s id == 3 || (d.awake && decide (domState s id < 4)))
  | 5 => !d.down && (domState s id == 3 || (d.awake && decide (domState s id < 4)))
  | _ => !d.down && domState s id == 3

/-- PWR_DOM_DATA of a domain (R385). -/
def domData (s : State) (id : Nat) : Nat :=
  let d := s.dom id
  if domKind id = 6 then 7 else d.wakes * 2 ^ 16 + d.awake.toNat * 16 + domState s id

/-! ### Off conditions (R366, R367, R374) -/

/-- A claim is held on a tile: its slices, pairs, sub-ADCs or sensors. -/
def tileClaimed (s : State) (t : Nat) : Bool :=
  s.claims.any (fun c => claimOnTile t c.kind c.res || (c.kind == 2 && bits c.res 31 24 == 6 && unitElem c.res / 256 == t))

/-- The front ends and slices of a port may be powered off (R367). -/
def portOffCond (s : State) (n : Port) : Bool :=
  s.flag PWR_DOMAIN_CFG.PORT_AUTO_OFF && !s.flag (PORT_STARTUP_CFG.ENABLE n) &&
    (portLinks n).all (fun l => (s.link l).phase == 0) &&
    !s.claims.any (fun c => c.pair.any (fun g => g / 4 == n.val))

/-- A tile common domain may be powered off (R366). -/
def tileOffCond (s : State) (t : Nat) : Bool :=
  s.flag PWR_DOMAIN_CFG.TILE_AUTO_OFF && tileState s t == 3 && (tilePorts t).all (fun n => !s.flag (PORT_STARTUP_CFG.ENABLE n)) &&
    !tileClaimed s t

/-- The off condition of a domain holds (R366). -/
def offCond (s : State) (id : Nat) : Bool :=
  match domKind id with
  | 1 => domState s id == 3 && bankState s 64 == 1 && bankState s 65 == 1
  | 2 => tileOffCond s (id - 0x020)
  | 3 => s.flag PWR_DOMAIN_CFG.OCTET_AUTO_OFF && octetIdle s (id - 0x040) && domState s id == 3
  | 4 => tileState s (domTileOf id) == 3 && (decide (2 ≤ pairDepth s (id - 0x200)) || portOffCond s (portOf (id - 0x200)))
  | 5 =>
    tileState s (domTileOf id) == 3 &&
      (let t := domTileOf id
       let i := (id - 0x400) % 68
       sliceState s t i == 3 || (slicePair s t i).any (fun g => portOffCond s (portOf g)))
  | _ => false

/-! ### What an access needs (R369, R371) -/

/-- The register at an address holds a configuration field, so it lies in always-on register logic (R366). -/
def isCfgReg (a : Nat) : Bool := match regAt a with | some (_, _, r, _) => r.fields.any (fun f => f.cfg) | none => false

/-- The domains that must serve an access to a block: a tile first; a pair block needs the front end and the slice that serve the
pair at that time. -/
def accessDoms (s : State) (b : Blk) (i a : Nat) : List Nat :=
  match b with
  | .tile => [0x020 + i]
  | .port => [0x020 + i / 16]
  | .pair =>
    let t := pairTile i
    let own := if isCfgReg a then [] else
      (0x200 + i) :: (if pairSlice s i < 68 then [0x400 + 68 * t + pairSlice s i] else [])
    (0x020 + t) :: own
  | .slice => (0x020 + i / 68) :: (if isCfgReg a then [] else [0x400 + i])
  | .lane => if isCfgReg a then [] else [0x040 + i / 8]
  | _ => []

/-- How an access stands: the address is unmapped; its block is not up or under reset; a domain is in FAULT; it waits for wakes;
it is served. -/
inductive Reach where
  | unmapped
  | notReady
  | fault
  | wait (ids : List Nat)
  | go
deriving DecidableEq, Repr

/-- The boot step at whose end a block is up (R591). -/
def upStep : Blk → Nat
  | .tile => 5
  | .port => 5
  | .pair => 5
  | .slice => 5
  | .lane => 5
  | .hostel => 6
  | .ttPort => 6
  | _ => 2

/-- The registers that the debug access port reaches from the end of the reset on (R385, R419, R591). -/
def aonDap : List Nat :=
  [PWR_PHASE, PWR_NEXT_PHASE, PWR_RESET_CAUSE, PWR_DEVICE_RESETS, PWR_BOOT_FAILS, MR_ID, MR_SEQ, MR_SEQ + 4]

/-- The block that an address lies in is up for a master (R591). -/
def blockUp (s : State) (m : Master) (b : Blk) (a : Nat) : Bool :=
  (decide (upStep b ≤ s.fld PWR_PHASE.BOOT_STEP) && !(s.flag PWR_PHASE.FW_ROM && upStep b == 5)) ||
    (m == .dap && aonDap.contains a)

/-- How an access of a master stands (R369, R372, R378, R449, R591). -/
def reach (s : State) (m : Master) (a : Nat) : Reach :=
  match classify a with
  | none => .unmapped
  | some (b, i, _) =>
    if s.hub.resetting || !blockUp s m b a then .notReady
    else
      let ids := accessDoms s b i a
      match ids.find? (fun id => !domReady s id) with
      | none => .go
      | some id =>
        if domKind id = 2 ∧ (s.tile (id - 0x020)).inReset then .notReady
        else if ids.any (fun id => domState s id == 5) then .fault
        else if domKind id = 2 then .wait [id]
        else .wait (ids.filter (fun id => !domReady s id))

/-! ### Wakes (R370 to R372) -/

/-- A wake for an access is counted (R370). -/
def countWake (id : Nat) (s : State) : State :=
  (s.modDom id (fun d => { d with wakes := min (d.wakes + 1) 0xFFFF })).inc PWR_DOMAIN_WAKES

/-- A tile common domain has woken from OFF: the state rebuilt from REPAIR, trims restored, the segment committed again (R366, R451,
R467). -/
def tileWake (t : Nat) (s : State) : State :=
  askRecommit t 5 (tileUp t (tileTrims t (applySubAdcs (fun n => n / 16 == t) (rebuildSlices t s))))

/-- A wake completes: the domain, or its register sub-domain, serves accesses until RETURN_US has passed (R369, R370). -/
def finishWake (id : Nat) (s : State) : State :=
  let s := if domKind id = 2 then tileWake (id - 0x020) s
    else s.modDom id (fun d => { d with state := if domKind id = 4 ∨ domKind id = 5 then 0 else 3 })
  s.modDom id (fun d => { d with awake := true, down := false })

/-- The longest stall of an access (R371). -/
def recordStall (ns : Nat) (s : State) : State :=
  let v := min ns 0xFFFFF
  if s.fld PWR_WAKE_MAX.TIME < v then s.setFld PWR_WAKE_MAX.TIME v else s

/-- The domains of an access wake at once: a command waits for its wakes, for a free time within 50 µs (R371, R401). -/
def wakeNow (ids : List Nat) (s : State) : State :=
  let s := forEach ids (fun id s => finishWake id (countWake id s)) s
  let (ns, s) := s.draw
  recordStall (ns % 50001) s

/-- A wake begins where the domain neither serves accesses nor wakes, powers down or is in FAULT (R369, R371). -/
def startWake (id : Nat) (s : State) : State :=
  if domReady s id || (s.dom id).down || domState s id == 4 || domState s id == 5 then s
  else s.modDom id (fun d => { d with state := 4 })

/-- Begin the wakes that the eight oldest waiting accesses need; a ninth waits for a free place (R371). -/
def startWakes (s : State) : State :=
  forEach (s.hub.wakes.take 8) (fun x s =>
    match reach s x.m x.a with
    | .wait ids => forEach ids (fun id s =>
        let t := startWake id s
        if t = s then s else countWake id t) s
    | _ => s) s

/-- An access waits for a domain. -/
def accessWaits (s : State) (id : Nat) : Bool :=
  s.hub.wakes.any (fun x => match reach s x.m x.a with | .wait ids => ids.contains id | _ => false)

/-! ### Power-downs (R366, R367, R371) -/

/-- A pair whose slice was OFF: status registers, counters, tables and coefficients read their reset values; configuration and what
Cable Diagnostics keeps stay (R366). -/
def losePair (g : Nat) (s : State) : State :=
  let n := portOf g
  let keep (f : Nat → Nat) (k : Nat) : Bool := f k != g
  let base := pairBase n (g % 4)
  applySubAdcs (· == n.val) { s with
    regs := s.regs.filter (fun x => !(decide (base ≤ x.1 ∧ x.1 < base + 0x400)) || isCfgReg x.1)
    pairs := s.pairs.filter (fun x => keep id x.1)
    tbl := s.tbl.filter (fun x => keep (· / 2048) x.1)
    held := s.held.filter (fun x => keep (· / 8192) x.1)
    snr := s.snr.filter (fun x => keep (· / 512) x.1)
    erle := s.erle.filter (fun x => keep (· / 512) x.1)
    errs := s.errs.filter (fun x => keep (· / 512) x.1)
    sigma := s.sigma.filter (fun x => keep (· / 512) x.1)
    noise := s.noise.filter (fun x => keep (· / 512) x.1)
    coef := s.coef.filter (fun x => keep (· / 131072) x.1)
    seeds := s.seeds.filter (fun x => keep (· / 64) x.1) }

/-- A front-end or slice domain is powered off on request or with its port. -/
def downSub (id : Nat) (s : State) : State := s.modDom id (fun d => { d with awake := false, down := true })

/-- The front ends and slices of a port are powered off (R367). -/
def portPowerOff (n : Port) (s : State) : State :=
  let s := s.modPort n (fun k => { k with frontOff := true })
  forEach allPairs (fun p s =>
    let g := gpair n p
    let s := downSub (0x200 + g) s
    let s := if pairSlice s g < 68 then downSub (0x400 + 68 * pairTile g + pairSlice s g) s else s
    losePair g s) s

/-- A tile common domain is powered off: its registers return to their reset values, its slices and crossbar to the state rebuilt
from REPAIR (R366, R451). -/
def tilePowerOff (t : Nat) (s : State) : State :=
  let s := dropPorts (fun n => n / 16 == t) s
  let s := { s with
    regs := s.regs.filter (fun x => match classify x.1 with
      | some (.tile, u, _) => u != t
      | some (.slice, i, _) => i / 68 != t
      | _ => true)
    doms := s.doms.filter (fun x => !domOfTile t x.1) }
  let s := s.setTile t { TileSt.reset with wires := (s.tile t).wires }
  let s := applySubAdcs (fun n => n / 16 == t) (rebuildSlices t s)
  s.modDom (0x020 + t) (fun d => { d with state := 0, awake := false, down := true })

/-- A domain whose off condition holds is powered off (R366, R374). -/
def powerOff (id : Nat) (s : State) : State :=
  match domKind id with
  | 1 => s.modDom id (fun d => { d with state := 0, awake := false, down := true })
  | 2 => tilePowerOff (id - 0x020) s
  | 3 => (octetOff (id - 0x040) s).modDom id (fun d => { d with down := true })
  | 4 => downSub id (s.modDom id (fun d => { d with prior := 1 }))
  | 5 =>
    let t := domTileOf id
    let s := downSub id (s.modDom id (fun d => { d with prior := 1 }))
    match slicePair s t ((id - 0x400) % 68) with
    | some g => losePair g s
    | none => s
  | _ => s

/-- A request of PWR_DOM_CTRL is ignored (R374). -/
def domIgnored (s : State) : State := s.setFld PWR_STATUS.CMD_IGNORED 1

/-- RETRY: FAULT clears and a wake is attempted; ignored for a domain not in FAULT and for a tile whose link failed in service
(R372, R374). -/
def domRetry (id : Nat) (s : State) : State :=
  if domKind id = 6 ∨ domState s id ≠ 5 ∨ (domKind id = 2 ∧ (s.tile (id - 0x020)).linkDown) then domIgnored s
  else (s.modDom id (fun d => { d with state := 4 })).raise 0x1071 0 [id, 1]

/-- OFF: the domain is powered off where its off condition holds, and ignored otherwise (R374). No power-down starts while an access
waits for the domain (R371). -/
def domOff (id : Nat) (s : State) : State :=
  if !offCond s id then domIgnored s
  else if accessWaits s id || (s.dom id).down then s
  else powerOff id s

/-- A write of PWR_DOM_CTRL (R374, R385). -/
def writeDomCtrl (v : Nat) (s : State) : State :=
  let id := bits v 11 0
  let req := bits v 17 16
  if req = 1 then domRetry id s else if req = 2 then domOff id s else s

/-- Octets follow OCTET_AUTO_OFF and their lanes' ENABLE when PWR_DOMAIN_CFG is written (R366). -/
def judgeOctets (s : State) : State :=
  forEach (List.range 17) (fun o s => if s.flag PWR_DOMAIN_CFG.OCTET_AUTO_OFF then octetJudge o s else octetOn o s) s

/-! ### Core voltage (R364, R365) -/

/-- A write of PWR_AVS_CFG: the limits, and FAULT is cleared (R365). -/
def writeAvsCfg (v : Nat) (s : State) : State :=
  let s := ((s.setFld PWR_AVS_CFG.ENABLE (bits v 31 31)).setFld PWR_AVS_CFG.VMAX (bits v 27 16)).setFld PWR_AVS_CFG.VMIN (bits v 11 0)
  let s := s.setFld PWR_AVS_STATUS.FAULT 0
  if s.flag PWR_AVS_CFG.ENABLE then s.modHub (fun h => { h with avsOnce := false }) else s

/-- VMAX and VMIN as they act: clamped to 700 to 800 mV; VMIN above VMAX acts as VMAX (R385). -/
def avsMax (s : State) : Nat := max 700 (min 800 (s.fld PWR_AVS_CFG.VMAX))
def avsMin (s : State) : Nat := min (avsMax s) (max 700 (min 800 (s.fld PWR_AVS_CFG.VMIN)))

/-- The dies with powered sensors: the hub (8) and every tile whose common domain is ON (R576). -/
def sensorDies (s : State) : List Nat := 8 :: (List.range 8).filter (fun t => domState s (0x020 + t) == 3)

/-- The powered sensors, as (die, sensor), and the highest of their readings in 0.125 °C. -/
def liveSensors (s : State) : List (Nat × Nat) := (sensorDies s).flatMap (fun d => (List.range 4).map (fun i => (d, i)))
def maxTemp (s : State) : Int :=
  ((liveSensors s).map (sensorTemp s)).foldl max (sensorTemp s (8, 0))

end Sys2Proof.Machine
end

