-- ==== Sys2Proof/Machine/Flags.lean ====
section
/-! DEFINITION. The interrupt flags of the device: its level bits, its status word and the pending summary (R473, R474). -/
namespace Sys2Proof.Machine

/-- The level bits of HUB_INT_STATUS as a number (R473). -/
def levelBits (s : State) : Nat :=
  (!s.records.isEmpty).toNat +
    ((List.range 4).any (fun j => s.reg (HUB_INT_PORT j) != 0)).toNat * 4 +
    ((List.range 5).any (fun j => s.reg (HUB_INT_LANE j) != 0)).toNat * 8 +
    (spareWaiting s).toNat * 16

/-- HUB_INT_STATUS, and the pending interrupt summary (R473, R474). -/
def intStatus (s : State) : Nat := (s.reg HUB_INT_STATUS).toNat ||| levelBits s
def summary (s : State) : Nat := intStatus s &&& s.fld HUB_INT_ENABLE.ENABLE

end Sys2Proof.Machine
end

