-- ==== Sys2Proof/Machine/Guestbook.lean ====
section
/-! DEFINITION. The Guestbook: records, acceptance and rate limit, writing, clearing, reading; the SYSTEM area's seconds (R512 to
R523). -/
namespace Sys2Proof.Machine

/-! ### Records (R512) -/

/-- SOURCE of an event: the thing that the table of R512 names for it (log entry 25). -/
def eventSource (code : Nat) (ps : List Nat) : Nat :=
  let p := ps.getD 0 0
  let hub (k : Nat) : Nat := k
  let of (kind n : Nat) : Nat := kind * 512 + n % 512
  match code / 0x1000 with
  | 0 => if code ≤ 3 then hub 9 else hub 0
  | 1 => if code = 0x1010 ∨ code = 0x1011 ∨ code = 0x1012 then of 1 p
         else if code = 0x1020 ∨ code = 0x1021 then of 6 p
         else if 0x1060 ≤ code then hub 9 else hub 8
  | 2 => if code = 0x2060 ∨ code = 0x2061 then of 3 (4 * p + ps.getD 1 0) else of 2 p
  | 3 => of 4 p
  | 4 => if code = 0x4001 ∨ code = 0x4002 then of 5 p
         else if code = 0x4010 ∨ code = 0x4011 then of 2 p else hub 2
  | 5 => if code = 0x5010 then of 3 p else hub 10
  | 6 => if 0x6010 ≤ code then hub 6 else hub 5
  | 7 => if code = 0x7010 ∨ code = 0x7011 ∨ code = 0x7012 then of 1 p
         else if 0x7020 ≤ code ∧ code < 0x7030 then hub 1 else hub 7
  | 9 => hub 4
  | 10 => hub 11
  | _ => hub 0

/-- The DEVID as packets and records carry it: 0x40 when none is held (R395, R512). -/
def ownId (s : State) : Nat := if s.flag MR_ID.ASSIGNED then s.fld MR_ID.DEVID else 0x40

/-- The 32 bytes of a record of an event accepted now. -/
def recordBytes (s : State) (e : Event) : List Nat :=
  let w := eventSource e.code e.params + (e.sev % 4) * 2 ^ 12 + s.fld MR_STATUS.LARGE_CHAIN * 2 ^ 14
  let h := bytesLsb 2 e.code ++ bytesLsb 2 w ++ bytesLsb 6 (gbTime s) ++
    (List.range 4).flatMap (fun i => bytesLsb 4 (e.params.getD i 0)) ++ [ownId s, 0]
  let gen := s.fld GB_STATUS.GEN
  h ++ bytesLsb 2 (crc16 ((h ++ [gen]).flatMap (bitsMsb 8))) ++ [gen, 0xA5]

/-- The address of a slot, and its bytes as the array holds them. -/
def slotBase (slot : Nat) : Nat := 0x600000 + 32 * slot
def slotBytes (s : State) (slot : Nat) : List Nat := nvBytes s (slotBase slot) 32

/-- A slot as GB_READ and the register window serve it: from the RAM queue while its record waits there (R519). -/
def slotRead (s : State) (slot : Nat) : List Nat :=
  match s.gbQueue.find? (fun x => x.1 == slot) with
  | some x => x.2
  | none => slotBytes s slot

/-- The 32 bytes are a current record (R519). -/
def isCurrent (s : State) (bs : List Nat) : Bool :=
  bs.getD 31 0 == 0xA5 && bs.getD 30 0 == s.fld GB_STATUS.GEN &&
    ofBytesLsb ((bs.drop 28).take 2) == crc16 ((bs.take 28 ++ [bs.getD 30 0]).flatMap (bitsMsb 8))

/-- The code of the most recent record, 0 when there is none (R414 EVENT). -/
def lastEvent (s : State) : Nat :=
  let next := s.fld GB_STATUS.NEXT
  if next = 0 then 0 else ofBytesLsb ((slotRead s (next - 1)).take 2)

/-! ### Acceptance (R514, R515, R518) -/

/-- The counts of GB_QUEUE. -/
def showGbQueue (s : State) : State :=
  let n := s.gbQueue.length
  let s := s.setFld GB_QUEUE.QUEUED n
  if s.fld GB_QUEUE.QUEUE_MAX < n then s.setFld GB_QUEUE.QUEUE_MAX n else s

/-- Give an event the slot NEXT and queue its record. -/
def queueRecord (e : Event) (s : State) : State :=
  let slot := s.fld GB_STATUS.NEXT
  let s := { s with gbQueue := s.gbQueue ++ [(slot, recordBytes s e)] }
  let s := showGbQueue ((s.setFld GB_STATUS.NEXT (slot + 1)).inc GB_RECORDED)
  if 1 ≤ e.sev then s.intBit 1 else s

/-- An event that the rate limit lets pass is accepted where a place exists, and lost otherwise; the last ordinary slot fills the
Guestbook with event 0x6010 (R514, R515). -/
def acceptEvent (e : Event) (s : State) : Bool × State :=
  if s.flag GB_STATUS.FULL then (false, s.inc GB_LOST)
  else if 512 ≤ s.gbQueue.length then (false, (s.inc GB_LOST).inc GB_QUEUE_DROP)
  else
    let s := queueRecord e s
    if s.fld GB_STATUS.NEXT = 32767 then
      (true, (queueRecord ⟨0x6010, 1, [32767, (s.reg GB_LOST).toNat]⟩ s).setFld GB_STATUS.FULL 1)
    else (true, s)

/-- The limit of a code (R518): 0 unlimited. -/
def gbLimit (s : State) (code : Nat) : Nat :=
  match s.gbLimits.find? (fun x => x.1 == code) with
  | some x => x.2
  | none => s.fld GB_RATE_DEFAULT.LIMIT

/-- Count one more record of a tracked code, accepted or suppressed. -/
def countCode (code acc sup : Nat) (s : State) : State :=
  { s with gbWindow := s.gbWindow.map (fun x => if x.1 == code then (x.1, x.2.1 + acc, x.2.2 + sup) else x) }

/-- An event meets the rate limit (R518): at most 256 codes are tracked in a window. -/
def limitEvent (e : Event) (s : State) : State :=
  if 0xB000 ≤ e.code then s
  else if 0x6010 ≤ e.code ∧ e.code ≤ 0x6012 then (acceptEvent e s).2
  else
    let known := s.gbWindow.any (fun x => x.1 == e.code)
    if !known && decide (256 ≤ s.gbWindow.length) then (acceptEvent e s).2
    else
      let s := if known then s else { s with gbWindow := s.gbWindow ++ [(e.code, 0, 0)] }
      let acc := ((s.gbWindow.find? (fun x => x.1 == e.code)).map (fun x => x.2.1)).getD 0
      let lim := gbLimit s e.code
      if lim ≠ 0 ∧ lim ≤ acc then (countCode e.code 0 1 s).inc GB_SUPPRESSED
      else
        let (ok, s) := acceptEvent e s
        if ok then countCode e.code 1 0 s else s

/-- GB_EVENT_ACCEPT: the oldest event raised meets the rate limit and is accepted, suppressed or lost (R514, R515, R518). -/
def execGbEventAccept (s : State) : Host.Outcome State Fault Refusal :=
  match s.raised with
  | [] => .next s
  | e :: rest => .next (limitEvent e { s with raised := rest })

/-- GB_RATE_WINDOW_END: the window of one second ends: event 0x6011 for each code with suppressions, in ascending order (R518). -/
def execGbRateWindowEnd (s : State) : Host.Outcome State Fault Refusal :=
  let start := s.hub.rateStart
  let hit := s.gbWindow.filter (fun x => x.2.2 != 0)
  let codes := (hit.map (fun x => (x.1 : Int)))
  let sorted := codes.foldr (fun x xs => (xs.takeWhile (fun y => decide (y < x))) ++ x :: xs.dropWhile (fun y => decide (y < x))) []
  let s := { s with gbWindow := [] }
  let s := s.modHub (fun h => { h with rateStart := opSeconds s })
  .next (forEach sorted (fun c s =>
    match hit.find? (fun x => (x.1 : Int) == c) with
    | some x => s.raise 0x6011 0 [x.1, x.2.2, x.2.1, start]
    | none => s) s)

/-! ### Writing, clearing (R514, R516, R517) -/

/-- GB_RECORD_WRITE: the oldest record of the RAM queue is written to its slot; writes wait while REFCLK is not qualified and until
the MRAM is up (R348, R514, R517). A word may fail its read-back (R502). -/
def execGbRecordWrite (fails : Bool) (s : State) : Host.Outcome State Fault Refusal :=
  match s.gbQueue with
  | [] => .next s
  | (slot, bs) :: rest =>
    if !s.flag CLK_STATUS.REF_QUAL || decide (s.fld PWR_PHASE.BOOT_STEP < 2) then .next s
    else
      let s := showGbQueue (nvPut (slotBase slot) bs { s with gbQueue := rest })
      if fails then
        let (w, s) := s.draw
        .next (nvFault 4 0 (slotBase slot + 4 * (w % 8)) s)
      else .next s

/-- Clear the Guestbook (R516): answers the number of records discarded. -/
def gbClear (s : State) : Nat × State :=
  let gone := if s.flag GB_STATUS.FULL then 32767 else s.fld GB_STATUS.NEXT
  let old := s.fld GB_STATUS.GEN
  let gen := (old + 1) % 256
  let s := storeGen (s.setFld GB_STATUS.GEN gen)
  let s := (s.setFld GB_STATUS.NEXT 0).setFld GB_STATUS.FULL 0
  let s := showGbQueue { s with gbQueue := [] }
  let s := s.setReg GB_RECORDED 0
  (gone, (acceptEvent ⟨0x6012, 0, [gone, (s.reg GB_LOST).toNat, (s.reg GB_SUPPRESSED).toNat, old]⟩ s).2)

/-- GB_CLEAR_DOORBELL: CLEAR is written (R516). -/
def execGbClearDoorbell (s : State) : Host.Outcome State Fault Refusal := .next (gbClear s).2

/-- The length of the run of current records from a slot on, at most `k` (R517). -/
def runLength (s : State) : Nat → Nat → Nat
  | 0, slot => slot
  | k + 1, slot => if isCurrent s (slotBytes s slot) then runLength s k (slot + 1) else slot

/-- At boot GEN and NEXT come from the SYSTEM area and the array; the records that waited through a DEVICE_RESET follow (R517). -/
def findNext (s : State) : State :=
  let s := s.setFld GB_STATUS.GEN (s.nvByte 0x7A0008)
  let n := runLength s 32768 0
  let next := max n ((s.gbQueue.map (fun x => x.1 + 1)).foldl max 0)
  (s.setFld GB_STATUS.NEXT next).setFld GB_STATUS.FULL (decide (32768 ≤ next)).toNat

/-- OP_SECONDS_STORE: every 60 s the SYSTEM area stores the operating seconds (R513); not while REFCLK is unqualified (R348). -/
def execOpSecondsStore (fails : List Nat) (s : State) : Host.Outcome State Fault Refusal :=
  if !s.flag CLK_STATUS.REF_QUAL then .next s
  else .next (nvFails 5 0 0x7A0000 0x7A0004 fails (nvPut 0x7A0000 (bytesLsb 4 (opSeconds s)) s))

end Sys2Proof.Machine
end

