-- ==== Sys2Proof/Machine/BusRead.lean ====
section
/-! DEFINITION. Reads of the register bus: what registers show of hardware state, the windows, the shadows of 64-bit counters, RC
fields (R446 to R458, R473, R474). -/
namespace Sys2Proof.Machine

/-! ### What registers show (R473, R474, R385, R419, R479) -/

/-- µs left in the unlock window (R479). -/
def windowLeft (s : State) : Nat :=
  match s.hub.window with
  | none => 0
  | some (t, _) => 1000 - (s.now - t)

/-- Registers of the hub block that show state held elsewhere. -/
def liveHub (s : State) (a v : Nat) : Nat :=
  if a = HUB_INT_STATUS then intStatus s
  else if a = HUB_INT_SUMMARY then summary s
  else if a = PWR_DOM_DATA then domData s (s.fld PWR_DOM_ADDR.ID)
  else if a = CFG_CHECK_STATUS then insertBits v 28 28 s.hub.commit.isSome.toNat
  else if a = HUB_LOCK_STATUS then
    insertBits (insertBits (insertBits (insertBits v 31 31 s.hub.window.isSome.toNat) 30 30 (s.fld HUB_LOCK.LOCK)) 29 28
      (s.fld PWR_PHASE.PHASE)) 10 0 (windowLeft s)
  else v

/-- Item-targets of a die due, deferred or in RETRY_WAIT (R498, R499). -/
def dueCount (s : State) (die : Nat) (retry : Bool) : Nat :=
  ((sequence die).filter (fun x =>
    let c := calState s x.1 x.2
    c == 4 || c == 5 || (retry && c == 7))).length

/-- A word of an item-target's status (R498). -/
def calWord (s : State) (item target w : Nat) : Nat :=
  if !calValid item target then 0
  else
    let c := s.cal item target
    match w with
    | 0 => calState s item target * 2 ^ 28 + c.stale.toNat * 2 ^ 27 + c.lastFail.toNat * 2 ^ 26 + c.cause % 256 * 2 ^ 16 +
        unsigned 16 (c.tLast.getD 0)
    | 1 => c.count % 2 ^ 32
    | 2 => c.time % 2 ^ 32
    | 3 => bits c.time 47 32
    | 4 => c.fails % 2 ^ 32
    | 5 => unsigned 16 c.dev
    | _ => 0

/-- The entry of a claim in CNC_LIST (R443): twelve bytes. -/
def claimEntry (handle kind src res tag st : Nat) : List Nat :=
  bytesLsb 2 handle ++ [kind, src] ++ bytesLsb 4 res ++ [tag, st, 0, 0]

/-- The list of held claims and then of waiting ones in queue order (R443, R542). -/
def claimList (s : State) : List (List Nat) :=
  s.claims.map (fun c => claimEntry c.handle c.kind c.src c.res 0 1) ++
    s.waiting.map (fun w => match w.why with
      | .command p => claimEntry 0 w.kind w.src w.res p.call.tag 2
      | _ => claimEntry 0 w.kind 0xFF w.res 0 2)

/-- Milliseconds since the last showtime entry; 0 outside showtime (R225). -/
def showtimeMs (s : State) (n : Port) : Nat :=
  let ls := (activeLinks s n).filter (inShow s)
  match (ls.map (fun l => (s.now - (s.link l).showAt) / 1000)).max? with
  | none => 0
  | some t => min t 0xFFFFFFFF

/-- A shadow table meets R76 for the share in force (R113). -/
def shadowValid (s : State) (n : Port) (p : Pair) (d : Dir) : Bool :=
  let l := linkOfPair s n p
  dirShare s l d != 0 && tableValid s l p d (dirShare s l d) (s.shadow n p d)

/-- Registers of the other blocks that show state held elsewhere. -/
def liveOther (s : State) (b : Blk) (i a v : Nat) : Nat :=
  match b with
  | .lane =>
    if a = HL_STATUS i ∧ s.flag (HL_RX_CFG.CTLE_MANUAL i) then insertBits v 20 16 (min 20 (s.fld (HL_RX_CFG.CTLE_CODE i))) else v
  | .cal =>
    if a = CAL_STATUS then insertBits v 15 0 (min 0xFFFF ((List.range 9).map (fun d => dueCount s d true)).sum)
    else if a = CAL_ITEM_DATA then
      calWord s (s.fld CAL_ITEM_ADDR.ITEM) (s.fld CAL_ITEM_ADDR.INDEX / 8) (s.fld CAL_ITEM_ADDR.INDEX % 8)
    else v
  | .nv =>
    if a = NV_STATUS then insertBits v 29 26 ((s.nvOpen.map (fun o => 2 ^ o.part)).sum)
    else if a = NV_OP_SECONDS then opSeconds s
    else if a = NV_POWER_CYCLES then powerCycles s
    else v
  | .gb =>
    if a = GB_READ_DATA then
      ofBytesLsb (((slotRead s (s.fld GB_READ_ADDR.INDEX / 8)).drop (4 * (s.fld GB_READ_ADDR.INDEX % 8))).take 4)
    else v
  | .cnc =>
    if a = CNC_LIST_DATA then
      ofBytesLsb ((((claimList s).getD (s.fld CNC_LIST_ADDR.INDEX / 4) []).drop (4 * (s.fld CNC_LIST_ADDR.INDEX % 4))).take 4)
    else v
  | .mr =>
    if a = MR_SEQ then seqNow s % 2 ^ 32
    else if a = MR_SEQ + 4 then seqNow s / 2 ^ 32
    else if a = MR_STATUS then insertBits v 13 8 (s.queued.length + s.running.length)
    else v
  | .dbg => if a = DBG_DAP_STATUS then insertBits v 0 0 (s.hub.dapState == 1).toNat else v
  | .tile =>
    if a = TILE_CAL_STATUS i then insertBits v 23 16 (min 0xFF (dueCount s i false))
    else v
  | .port => if a = PORT_SHOWTIME_TIME i then showtimeMs s (toPort i) else v
  | .pair =>
    if a = PAIR_TBL_STATUS (i / 4) (i % 4) then
      insertBits (insertBits v 6 6 (shadowValid s (portOf i) (pairOf i) .rx).toNat) 5 5 (shadowValid s (portOf i) (pairOf i) .tx).toNat
    else v
  | .slice =>
    if a = SLICE_STATUS (i / 68) (i % 68) then
      insertBits (insertBits v 31 30 (sliceState s (i / 68) (i % 68))) 22 16 ((frontEnd s (i / 68) (i % 68)).getD 0x7F)
    else v
  | _ => v

/-- What a register shows, without the effect of reading it. -/
def shown (s : State) (a : Nat) : Nat :=
  let v := (s.reg a).toNat
  match classify a with
  | none => 0
  | some (.hub, _, _) => liveHub s a v
  | some (b, i, _) => liveOther s b i a v

/-! ### The windows of a pair (R113, R149 to R151, R334) -/

/-- PAIR_TBL_DATA (R113). -/
def tblData (s : State) (n : Port) (p : Pair) : Nat :=
  let i := s.fld (PAIR_TBL_ADDR.INDEX n p)
  let d : Dir := if s.flag (PAIR_TBL_ADDR.DIR n p) then .rx else .tx
  let bk := s.fld (PAIR_TBL_ADDR.BANK n p)
  if i < 512 then (isExcluded i).toNat * 4096 + s.entry n p d bk i
  else
    let t := s.bank n p d bk
    let v := if i = 512 then net (codingOf (s.link (linkOfPair s n p)) d) t else if i = 513 then gross t else if i = 514 then tableQ t
      else if i = 515 then bankCrc t else 0
    v % 2 ^ 16

/-- The margin of a loaded subcarrier as shown: 0.25 dB, rounded down, in eight bits, within -127 and 127,
which the spec does not say (DESIGN CHOICE, log entry 47); 0x80 when b < 2 (R143, R151). -/
def shownMargin (s : State) (n : Port) (p : Pair) (k : Nat) : Nat :=
  let b := entryB ((s.active n p .rx).getD k emptyEntry)
  let l := s.link (linkOfPair s n p)
  if b < 2 then 0x80
  else unsigned 8 (max (-127) (min 127 (subMargin (plainRx l) (isReach l) (s.snrOf n p k) b / 5)))

/-- A word in the PAIR_SNR_DATA layout (R151). -/
def snrWord (s : State) (n : Port) (p : Pair) (k : Nat) : Nat :=
  (isStale (s.pair n p)).toNat * 2 ^ 31 + shownMargin s n p k * 2 ^ 16 + min 255 (s.erleOf n p k) * 2 ^ 8 + s.snrOf n p k % 256

/-- PAIR_COEF_DATA is read (R149): from the snapshot buffer while SNAP_VALID is 1, else live. -/
def readCoef (n : Port) (p : Pair) (s : State) : Nat × State :=
  let i := s.fld (PAIR_COEF_ADDR.INDEX n p)
  let mem := s.fld (PAIR_COEF_ADDR.MEM n p)
  if s.flag (PAIR_COEF_STATUS.SNAP_VALID n p) then ((coefValue s n p snapPlace (s.pair n p).snapMem i).toNat, s)
  else ((coefValue s n p mem mem i).toNat, s)

/-- DIAG_HIST_DATA (R329 to R331, R334). -/
def histData (s : State) (g i : Nat) : Nat :=
  let d := s.diag g
  if i < 1024 then
    match d.recs.find? (fun r => r.1 % 256 == i / 4) with
    | none => 0xFFFFFFFF
    | some (q, a, b, c) => match i % 4 with
      | 0 => q
      | 1 => a
      | 2 => b
      | _ => c
  else if i < 2048 then
    match d.profiles[(i - 1024) / 128]? with
    | none => 0xFFFFFFFF
    | some (_, _, vs) => ofBytesLsb ((vs.drop (4 * ((i - 1024) % 128))).take 4)
  else if i < 2064 then
    match d.profiles[(i - 2048) / 2]? with
    | none => 0xFFFFFFFF
    | some (q, c, _) => if i % 2 = 0 then q else c
  else 0

/-- INDEX steps on within a window after a DATA access (R457). -/
def stepIndex (auto index : Fld) (last : Nat) (s : State) : State :=
  if s.flag auto then s.setFld index (if s.fld index = last then 0 else s.fld index + 1) else s

/-- INDEX of the window whose DATA is at an address steps on; nothing where the address is no window's DATA (R456, R457). -/
def windowStep (b : Blk) (i a : Nat) (s : State) : Option State :=
  match b with
  | .hub => if a = PWR_DOM_DATA then some (stepIndex PWR_DOM_ADDR.AUTO_INC PWR_DOM_ADDR.ID 0xFFF s) else none
  | .cal => if a = CAL_ITEM_DATA then some (stepIndex CAL_ITEM_ADDR.AUTO_INC CAL_ITEM_ADDR.INDEX 0x7FFFF s) else none
  | .gb => if a = GB_READ_DATA then some (stepIndex GB_READ_ADDR.AUTO_INC GB_READ_ADDR.INDEX 0x3FFFF s) else none
  | .cnc => if a = CNC_LIST_DATA then some (stepIndex CNC_LIST_ADDR.AUTO_INC CNC_LIST_ADDR.INDEX 0x1FF s) else none
  | .pair =>
    let n := portOf i
    let p := pairOf i
    if a = PAIR_TBL_DATA n p then some (stepTblIndex n p s)
    else if a = PAIR_SNR_DATA n p then some (stepIndex (PAIR_SNR_ADDR.AUTO_INC n p) (PAIR_SNR_ADDR.INDEX n p) 511 s)
    else if a = PAIR_COEF_DATA n p then some (stepCoefIndex n p s)
    else if a = DIAG_MAP_DATA n p then some (stepIndex (DIAG_MAP_ADDR.AUTO_INC n p) (DIAG_MAP_ADDR.INDEX n p) 511 s)
    else if a = DIAG_TRACE_DATA n p then some (stepIndex (DIAG_TRACE_ADDR.AUTO_INC n p) (DIAG_TRACE_ADDR.INDEX n p) 16383 s)
    else if a = DIAG_HIST_DATA n p then some (stepIndex (DIAG_HIST_ADDR.AUTO_INC n p) (DIAG_HIST_ADDR.INDEX n p) 4095 s)
    else none
  | _ => none

/-- The word that DATA of a window gives. -/
def windowData (b : Blk) (i a : Nat) (s : State) : Nat × State :=
  match b with
  | .pair =>
    let n := portOf i
    let p := pairOf i
    if a = PAIR_TBL_DATA n p then (tblData s n p, s)
    else if a = PAIR_SNR_DATA n p then (snrWord s n p (s.fld (PAIR_SNR_ADDR.INDEX n p)), s)
    else if a = PAIR_COEF_DATA n p then readCoef n p s
    else if a = DIAG_MAP_DATA n p then (s.mapAt i (s.fld (DIAG_MAP_ADDR.MAP n p)) (s.fld (DIAG_MAP_ADDR.INDEX n p)), s)
    else if a = DIAG_TRACE_DATA n p then
      (s.tapAt i (s.fld (DIAG_TRACE_ADDR.SRC n p)) (s.fld (DIAG_TRACE_ADDR.INDEX n p)), s)
    else (histData s i (s.fld (DIAG_HIST_ADDR.INDEX n p)), s)
  | _ => (shown s a, s)

/-! ### The cores (R554) -/

/-- The Porter is halted (R554). -/
def halted (s : State) : Bool := s.flag DBG_PORTER_STATUS.HALTED

/-- The key of a core register or memory word: SPACE, CORE, INDEX. -/
def coreKey (s : State) : Nat := (s.fld DBG_CORE_ADDR.SPACE * 2 + s.fld DBG_CORE_ADDR.CORE) * 65536 + s.fld DBG_CORE_ADDR.INDEX

/-- INDEX after an access to DBG_CORE_DATA. -/
def stepCore (s : State) : State := stepIndex DBG_CORE_ADDR.AUTO_INC DBG_CORE_ADDR.INDEX 0xFFFF s

/-- A read of DBG_CORE_DATA (R554): 0 while the pair runs; SPACE 3 reads 0; a word the debugger has not written holds what the
firmware left, a free value that stays while the pair is halted. -/
def readCore (quiet : Bool) (s : State) : Nat × State :=
  if !halted s then (0, s)
  else
    let fin (s : State) : State := if quiet then s else stepCore s
    if s.fld DBG_CORE_ADDR.SPACE = 3 then (0, fin s)
    else match SMap.get (fun _ => none) s.core (coreKey s) with
      | some w => (w.toNat, fin s)
      | none =>
        let (v, t) := s.draw
        let w := word v
        (w.toNat, fin { t with core := SMap.put (fun _ => none) t.core (coreKey s) (some w) })

/-- A write of DBG_CORE_DATA (R554): ignored while the pair runs. -/
def writeCore (v : Word) (s : State) : State :=
  if !halted s then s
  else if s.fld DBG_CORE_ADDR.SPACE = 3 then stepCore s
  else stepCore { s with core := SMap.put (fun _ => none) s.core (coreKey s) (some v) }

/-! ### Reads (R452, R454, R458, R553) -/

/-- The shadow and pending-high-word key of a counter for a master: the Porter's for commands and firmware, the debugger's
(R454, R455). -/
def shadowKey (a : Nat) (m : Master) : Nat := 2 * a + (m == .dap).toNat

/-- The present value of the quantity that an RC field tracks as a minimum, at which it restarts; other RC fields restart at 0
(R452). -/
def rcRestart (s : State) (a : Nat) : Nat := if a = HOSTEL_SHARED_MIN then s.fld HOSTEL_STATUS.SHARED_FREE else 0

/-- An RC field takes a hardware update. -/
def rcUpdate (a old inc : Nat) : Nat := if a = HOSTEL_SHARED_MIN then (if inc = 0 then old else min old inc) else max old inc

/-- The RC fields of a register restart, and an update of the same cycle is applied to the restarted value (R458). -/
def restartRc (a : Nat) (fs : List FieldDef) (inc : Nat) (s : State) : State :=
  forEach (fs.filter (fun f => f.acc == .rc)) (fun f s =>
    s.setFld ⟨a, f.hi, f.lo⟩ (rcUpdate a (rcRestart s a) inc)) s

/-- The reading is side-effect-free: the debug access port's while SIDE_EFFECTS is 0 (R553). -/
def quietRead (s : State) (m : Master) : Bool := m == .dap && !s.flag DBG_CTRL.SIDE_EFFECTS

/-- A read of a register that is served: the word, and the state with what the read changes: windows step on, RC fields restart, the
low word of a 64-bit register fills the master's shadow (R452 to R457, R553). -/
def serveRead (m : Master) (a inc : Nat) (s : State) : Nat × State :=
  let quiet := quietRead s m
  match regAt a with
  | none => (0, s)
  | some (b, i, r, _) =>
    if a = DBG_CORE_DATA then readCore quiet s
    else match windowStep b i a s with
      | some _ =>
        let (v, s) := windowData b i a s
        (v, if quiet then s else (windowStep b i a s).getD s)
      | none =>
        let v := shown s a
        let t : State := match r.half with
          | .low => { s with shadows := SMap.put (fun _ => 0) s.shadows (shadowKey a m) (word (shown s (a + 4))) }
          | _ => s
        let v := match r.half with
          | .high => (SMap.get (fun _ => 0) s.shadows (shadowKey (a - 4) m)).toNat
          | _ => v
        (v % 2 ^ 32, if quiet then t else restartRc a r.fields inc t)

/-- A read of a register. While dividers that R341 does not allow stand, a read may return a value the register held earlier (R342):
which, and whether, are free values. -/
def busRead (m : Master) (a inc : Nat) (s : State) : Word × State :=
  let (v, t) := serveRead m a inc s
  if badDividers s then
    let (c, t) := t.draw
    let (w, t) := t.draw
    (word (if c % 2 = 1 then w else v), t)
  else (word v, t)

end Sys2Proof.Machine
end

