-- ==== Sys2Proof/Machine/RingCode.lean ====
section
/-! DEFINITION. The line code of a ring (R388): 8b/10b as IEEE 802.3 Clause 36 has it (R4), the characters of a packet, and the running
disparity of an output. -/
namespace Sys2Proof.Machine

/-- The six-bit codes a b c d e i of the five low bits of a data character, `a` highest, at negative running disparity. -/
def sixCodes : List Nat :=
  [0b100111, 0b011101, 0b101101, 0b110001, 0b110101, 0b101001, 0b011001, 0b111000,
   0b111001, 0b100101, 0b010101, 0b110100, 0b001101, 0b101100, 0b011100, 0b010111,
   0b011011, 0b100011, 0b010011, 0b110010, 0b001011, 0b101010, 0b011010, 0b111010,
   0b110011, 0b100110, 0b010110, 0b110110, 0b001110, 0b101110, 0b011110, 0b101011]

/-- The four-bit codes f g h j of the three high bits at negative running disparity; 7 is the primary code. -/
def fourCodes : List Nat := [0b1011, 0b1001, 0b0101, 0b1100, 0b1101, 0b1010, 0b0110, 0b1110]

/-- The ones of an n-bit code. -/
def codeOnes (n v : Nat) : Nat := ((List.range n).filter (fun i => bit v i)).length

/-- An n-bit code at the running disparity `plus`, from the one at negative disparity: an unbalanced code, and the two balanced ones
111000 and 1100, come inverted at positive disparity; with it the disparity after the code. -/
def codeAt (n v : Nat) (plus : Bool) : Nat × Bool :=
  let even := 2 * codeOnes n v == n
  (if plus && (!even || v == 0b111000 || v == 0b1100) then 2 ^ n - 1 - v else v, plus != !even)

/-- The data characters x.7 that take the alternate code 0111 at a running disparity after their six bits. -/
def altSeven (x : Nat) (plus : Bool) : Bool := if plus then [11, 13, 14].contains x else [17, 18, 20].contains x

/-- A character of the line: a data byte or a special one. -/
structure RingChar where
  special : Bool
  byte : Nat
deriving DecidableEq, Repr

/-- The four-bit codes of K28.0 to K28.7 after 001111. -/
def kCodes : List Nat := [0b0100, 0b1001, 0b0101, 0b0011, 0b0010, 0b1010, 0b0110, 0b1000]

/-- The ten-bit code of a character, `a` highest, and the running disparity after it. K28.y is 001111, its four bits, or the inverse of
all ten; K23.7, K27.7, K29.7 and K30.7 take the alternate code of 7. -/
def encodeChar (c : RingChar) (plus : Bool) : Nat × Bool :=
  let x := c.byte % 32
  let y := c.byte / 32 % 8
  if c.special && x == 28 then
    let v := 0b001111 * 16 + kCodes.getD y 0
    (if plus then 1023 - v else v, plus != !(codeOnes 10 v == 5))
  else
    let six := codeAt 6 (sixCodes.getD x 0) plus
    let four := codeAt 4 (if y = 7 ∧ (c.special || altSeven x six.2) then 0b0111 else fourCodes.getD y 0) six.2
    (six.1 * 16 + four.1, four.2)

/-- The codes of successive characters. -/
def encodeChars : List RingChar → Bool → List Nat
  | [], _ => []
  | c :: cs, plus => let r := encodeChar c plus; r.1 :: encodeChars cs r.2

/-- The first number below n whose code is v. -/
def codeIndex (n : Nat) (code : Nat → Nat) (v : Nat) : Option Nat := (List.range n).find? (fun i => code i == v)

/-- The character of a received code at the running disparity; none for a code error or a disparity error. -/
def decodeChar (v : Nat) (plus : Bool) : Option RingChar :=
  let six := v / 16
  let four := v % 16
  if six = (if plus then 0b110000 else 0b001111) then
    (codeIndex 8 (fun y => (encodeChar ⟨true, 32 * y + 28⟩ plus).1 % 16) four).map (fun y => ⟨true, 32 * y + 28⟩)
  else (codeIndex 32 (fun x => (codeAt 6 (sixCodes.getD x 0) plus).1) six).bind (fun x =>
    let after := (codeAt 6 (sixCodes.getD x 0) plus).2
    if four = (codeAt 4 0b0111 after).1 then
      (if altSeven x after then some ⟨false, 224 + x⟩ else if [23, 27, 29, 30].contains x then some ⟨true, 224 + x⟩ else none)
    else ((codeIndex 8 (fun y => (codeAt 4 (fourCodes.getD y 0) after).1) four).filter (fun y => y != 7 || !altSeven x after)).map
      (fun y => ⟨false, 32 * y + x⟩))

/-- The running disparity after a received code, right or wrong: each of its two parts moves it by its ones, 000111 and 0011 to
positive, 111000 and 1100 to negative. -/
def plusAfter (v : Nat) (plus : Bool) : Bool :=
  let part (n w balance : Nat) (plus : Bool) : Bool :=
    if n < 2 * codeOnes n w ∨ w = balance then true
    else if 2 * codeOnes n w < n ∨ w + balance = 2 ^ n - 1 then false
    else plus
  part 4 (v % 16) 0b0011 (part 6 (v / 16) 0b000111 plus)

/-- The characters of successive codes. -/
def decodeChars : List Nat → Bool → List (Option RingChar)
  | [], _ => []
  | v :: vs, plus => decodeChar v plus :: decodeChars vs (plusAfter v plus)

/-- A packet as a ring input reads it (R398): whether bytes 0 to 15 came without code or disparity errors and Terminate came directly
after byte 19 + LEN (R399), the code errors counted in it and whether they lose sync (R389), and the characters after Start up to Terminate or an idle pair; 256
stands for a character that is no byte. -/
structure Packet where
  clean : Bool
  errs : Nat
  burst : Bool
  bytes : List Nat
deriving DecidableEq, Repr

/-- Four of some 16 consecutive characters came in error (R389). -/
def errBurst : List Bool → Bool
  | [] => false
  | e :: es => decide (4 ≤ ((e :: es).take 16).countP id) || errBurst es

/-- The packet that received codes spell. A special character inside a packet, the Error of a device before this one, is no byte but
no code error either (DEDUCED, log entry 10). -/
def packetOf (rx : RingRx) : Packet :=
  let chars := decodeChars rx.codes rx.plus
  let ends : List (Option RingChar) := [some ⟨true, 0xFD⟩, some ⟨true, 0xBC⟩]
  let body := chars.takeWhile (fun c => !ends.contains c)
  let bytes := body.map (fun c => match c with | some ⟨false, b⟩ => b | _ => 256)
  let len := bytes.getD 7 0 + 256 * bytes.getD 8 0
  { clean := (bytes.take 16).all (fun b => decide (b < 256)) && decide (chars[body.length]? = some (some ⟨true, 0xFD⟩)) &&
      bytes.length == 20 + len,
    errs := (chars.filter (fun c => c.isNone)).length, burst := errBurst (chars.map (·.isNone)), bytes := bytes }

/-- A byte between Start and Terminate: one received with a code or disparity error, 256, is forwarded as Error (R388). -/
def ringByte (b : Nat) : RingChar := if b = 256 then ⟨true, 0xFE⟩ else ⟨false, b % 256⟩

/-- The characters of a packet: Start, its bytes, Terminate, and the eight idle pairs that every sender leaves (R388). -/
def ringChars (bs : List Nat) : List RingChar :=
  ⟨true, 0xFB⟩ :: bs.map ringByte ++ ⟨true, 0xFD⟩ :: (List.replicate 8 [⟨true, 0xBC⟩, ⟨false, 0x50⟩]).flatten

/-- The ones less the zeros of codes, and of what has been sent on an output. -/
def codesBalance (cs : List Nat) : Int := (cs.map (fun c => 2 * (codeOnes 10 c : Int) - 10)).sum
def ringBalance (o : Nat) : List Out → Int
  | [] => 0
  | .packet r _ cs :: xs => ringBalance o xs + (if r = o then codesBalance cs else 0)
  | .forward r _ cs :: xs => ringBalance o xs + (if r = o then codesBalance cs else 0)
  | _ :: xs => ringBalance o xs

/-- The codes of a packet on an output after what it has sent. The disparity begins negative, and idle pairs keep it (log entry 10). -/
def ringCodes (sent : List Out) (o : Nat) (bs : List Nat) : List Nat := encodeChars (ringChars bs) (decide (0 < ringBalance o sent))

end Sys2Proof.Machine
end

