-- ==== Sys2Proof/Machine/Replies.lean ====
section
/-! DEFINITION. What the device sends on its rings: bypass and wrap, replies and their retention, notices and interrupts; the gates
every command passes, and jobs (R392, R398 to R416, R421 to R429). -/
namespace Sys2Proof.Machine

/-! ### The rings (R392, R411 to R413) -/

/-- What closes the bypass (R392, R550). -/
def bypassForced (s : State) : Bool :=
  s.hub.resetting || !s.flag CLK_STATUS.REF_QUAL || !s.flag CLK_STATUS.RINGPLL_LOCK || decide (s.fld PWR_PHASE.BOOT_STEP < 2) ||
    s.hub.boardTest.isSome

/-- The bypass is closed: after a board test until the ring inputs are in sync (R392, R550). -/
def bypassed (s : State) : Bool := bypassForced s || s.hub.rejoin

/-- WRAP as it acts: 3 acts as 0 (R412). -/
def wrapNow (s : State) : Nat := let w := s.fld MR_CFG.WRAP; if w = 3 then 0 else w

/-- The output that a packet of the device's own leaves on: the ring named, or the wrapped output (R405, R413). -/
def outRing (s : State) (r : Nat) : Nat :=
  match wrapNow s with
  | 1 => 0
  | 2 => 1
  | _ => r

/-- The outputs that a notice leaves on (R413, R414). -/
def noticeRings (s : State) : List Nat := if wrapNow s = 0 then [0, 1] else [outRing s 0]

/-! ### Replies (R398, R402 to R405) -/

/-- A status that the table of R408 marks as executed, wholly or partly. -/
def executed (status : Nat) : Bool := status == 0 || status == 7 || status == 10 || status == 11

/-- The bytes of a packet that the device sends, between Start and Terminate (R9, R398): header, body, CRC-32C. -/
def packetBytes (dest src tag op flags status : Nat) (body : List Nat) : List Nat :=
  let bs := [0xC3, dest % 256, src % 256, tag % 256] ++ bytesLsb 2 op ++ [flags % 256] ++ bytesLsb 2 body.length ++ [status % 256] ++
    List.replicate 6 0 ++ body
  bs ++ bytesLsb 4 (crc32c bs)

/-- Send a packet on an output. -/
def sendPacket (o : Nat) (bs : List Nat) (s : State) : State := s.emit (.packet o bs (ringCodes s.out o bs))

/-- Send a reply on the ring of the command; a bypassed device sends nothing (R392, R398). -/
def emitReply (c : Call) (op status : Nat) (interim replay : Bool) (body : List Nat) (s : State) : State :=
  if bypassed s then s
  else
    let flags := c.flags % 8 + interim.toNat * 64 + replay.toNat * 128
    sendPacket (outRing s c.ring) (packetBytes c.src (ownId s) c.tag (op + 0x8000) flags status body) s

/-- A reply to a command that is not executed and never held: NOREPLY sends none and counts it (R403). -/
def refuse (c : Call) (op status : Nat) (s : State) : State :=
  if bit c.flags 2 then s.inc MR_NOREPLY_ERR else emitReply c op status false false [] s

/-- The packet of a command as the device holds it (R404): the one in an executor, or, for a command given directly, one with the CRC
of its packet as addressed to this device. -/
def pktOf (s : State) (op : Nat) (c : Call) : Pkt :=
  match s.running.find? (fun p => p.op == op && p.call.src == c.src && p.call.tag == c.tag) with
  | some p => p
  | none =>
    let head := [0xC3, ownId s, c.src, c.tag] ++ bytesLsb 2 op ++ [c.flags] ++ bytesLsb 2 c.body.length ++ List.replicate 7 0
    ⟨c, op, crc32c (head ++ c.body)⟩

/-- A command leaves its executor. -/
def leaveExecutor (p : Pkt) (s : State) : State := { s with running := s.running.filter (fun q => q != p) }

/-- The final reply of a command: counted where executed, sent unless NOREPLY is set, and retained, the newest 64 (R403, R404). -/
def finalReply (p : Pkt) (status : Nat) (body : List Nat) (s : State) : State :=
  let s := leaveExecutor p s
  let s := if executed status then s.inc64 MR_CMDS else s
  if bit p.call.flags 2 then (if status = 0 then s else s.inc MR_NOREPLY_ERR)
  else
    let kept := s.kept ++ [(⟨p, status, body, s.now⟩ : Kept)]
    emitReply p.call p.op status false false body { s with kept := kept.drop (kept.length - 64) }

/-- The interim reply QUEUED: the command leaves the command queue and waits for its claim (R402). -/
def interimReply (p : Pkt) (s : State) : State :=
  let s := (leaveExecutor p s).inc CNC_QUEUED
  if bit p.call.flags 2 then s else emitReply p.call p.op 0x0C true false [] s

/-! ### Notices and interrupts (R414, R415, R459, R474) -/

/-- Ask for a notice: READY 2, RING_BREAK 3, RING_RESTORED 4. -/
def askNotice (ty ring arg : Nat) (s : State) : State :=
  s.modHub (fun h => { h with notices := h.notices ++ [(ty, ring, arg)] })

/-- The host agent that notices go to (R419). -/
def intDest (s : State) : Nat := let d := s.fld MR_CFG.INT_DEST; if 0x80 ≤ d ∧ d ≤ 0x87 then d else 0x80

/-- The body of a notice (R414). -/
def noticeBody (s : State) (seq ty ring arg : Nat) : List Nat :=
  [ty, ownId s, s.fld PWR_PHASE.PHASE, 0] ++ bytesLsb 2 seq ++ bytesLsb 6 (seqNow s) ++ bytesLsb 4 (summary s) ++
    bytesLsb 2 (lastEvent s) ++ [ring, 0] ++ bytesLsb 4 arg ++ List.replicate 8 0

/-- Send a notice with an INT_SEQ on both outputs, or the wrapped one, counted once (R414, R415). -/
def sendNotice (seq ty ring arg : Nat) (s : State) : State :=
  let body := noticeBody s seq ty ring arg
  let bytes := packetBytes (intDest s) (ownId s) (seq % 256) 0x00FE 0 0 body
  (forEach (noticeRings s) (sendPacket · bytes) s).inc MR_NOTICES

/-- A new notice takes the next INT_SEQ. -/
def newNotice (ty ring arg : Nat) (s : State) : State :=
  let seq := (s.hub.intSeq + 1) % 2 ^ 16
  sendNotice seq ty ring arg (s.modHub (fun h => { h with intSeq := seq, intLast := if ty = 1 then seq else h.intLast }))

/-- Bits that have left the summary are notified anew when they come back (R415, R459). -/
def settleNotified (s : State) : State := s.modHub (fun h => { h with notified := h.notified &&& summary s })

/-! ### Jobs (R427 to R429) -/

/-- The body of a job result (R427). -/
def jobResult (num handle : Nat) : List Nat := bytesLsb 2 num ++ bytesLsb 2 handle

/-- The number of the next job. -/
def nextJob (s : State) : Nat := if s.hub.jobNum = 0xFFFF then 1 else s.hub.jobNum + 1

/-- A long command is accepted: its job begins (R427). -/
def beginJob (p : Pkt) (handle : Nat) (owns : Bool) (res left : Nat) (grid : List (Int × Int)) (s : State) : Nat × State :=
  let num := nextJob s
  let j : Job := ⟨num, p.op, p.call.src, p.call.tag, handle, owns, res, left, 0, 0, grid, []⟩
  (num, { s.modHub (fun h => { h with jobNum := num }) with jobs := s.jobs ++ [j] })

/-- No long command is accepted while 1024 job records are unread (R429). -/
def recordsFull (s : State) : Bool := decide (1024 ≤ s.records.length)

end Sys2Proof.Machine
end

