-- ==== Sys2Proof/Machine/BusWrite.lean ====
section
/-! DEFINITION. Writes of the register bus: the access types, counters, the registers whose write acts, the configuration check's
references and commits, the locks (R449 to R472, R425). -/
namespace Sys2Proof.Machine

/-! ### Configuration check: references and commits (R461 to R467) -/

/-- The bits of a row that carry the mark C. -/
def cfgBits (fs : List FieldDef) (v : Nat) : Nat :=
  (fs.filter (fun f => f.cfg)).foldl (fun w f => insertBits w f.hi f.lo (bits v f.hi f.lo)) 0

/-- The registers of a block that hold a C field, in ascending address, with their rows. -/
def cfgRows (b : Blk) (base : Nat) : List (Nat × RegDef) :=
  ((blkDefs b).filter (fun r => r.fields.any (fun f => f.cfg))).map (fun r => (base + r.off, r))

/-- The C registers of a host lane: spare lanes hold the group registers (R289). -/
def laneCfgRows (h : Nat) : List (Nat × RegDef) :=
  (cfgRows .lane (laneBase h)).filter (fun x => decide (128 ≤ h) || decide (x.1 < laneBase h + 0x200))

/-- The C registers of a segment in ascending address: 0 every block below 0x1000_0000, 1 + t tile t (R461). -/
def segRows (j : Nat) : List (Nat × RegDef) :=
  if j = 0 then
    cfgRows .hub hubBase ++ (List.range 136).flatMap laneCfgRows ++ cfgRows .hostel hostelBase ++
      (List.range 128).flatMap (fun n => cfgRows .ttPort (ttBase n)) ++ cfgRows .cal calBase ++ cfgRows .nv nvBase ++
      cfgRows .gb gbBase ++ cfgRows .bist bistBase ++ cfgRows .cnc cncBase ++ cfgRows .mr mrBase ++ cfgRows .dbg dbgBase
  else
    let t := j - 1
    cfgRows .tile (tileBase t) ++
      (List.range 16).flatMap (fun q =>
        let n := 16 * t + q
        cfgRows .port (portBase n) ++ allPairs.flatMap (fun p => cfgRows .pair (pairBase n p))) ++
      allSlices.flatMap (fun i => cfgRows .slice (sliceBase t i))

/-- The CRC of a segment (R461). -/
def segCrc (s : State) (j : Nat) : Nat :=
  crc32c ((segRows j).flatMap (fun x => bytesLsb 4 x.1 ++ bytesLsb 4 (cfgBits x.2.fields (s.reg x.1).toNat)))

/-- A segment is skipped: its tile is OFF, under TILE_RESET or in FAULT (R462). -/
def segSkipped (s : State) (j : Nat) : Bool := j != 0 && tileState s (j - 1) != 3 && tileState s (j - 1) != 4

/-- The overall CRC over nine segment CRCs (R461). -/
def overallCrc (cs : List Nat) : Nat := crc32c (cs.flatMap (bytesLsb 4))

/-- The committed segment references. -/
def segRefs (s : State) : List Nat := (List.range 9).map (fun j => (s.reg (CFG_SEG_REF j)).toNat)

/-- A commit pass ends (R464): references of the walked segments, CFG_CRC_REF, MISMATCH, FENCED and RELOADED cleared, event 0x0014;
the command it answers gets CFG_CRC_REF; ports held down by FENCED start (R466). -/
def endCommit (cause : Nat) (call : Option Call) (s : State) : State :=
  let fenced := s.flag CFG_CHECK_STATUS.FENCED
  let s := forEach (List.range 9) (fun j s =>
    if segSkipped s j then s else s.setReg (CFG_SEG_REF j) (word (segCrc s j))) s
  let ref := overallCrc (segRefs s)
  let s := s.setReg CFG_CRC_REF (word ref)
  let s := ((s.setFld CFG_CHECK_STATUS.MISMATCH 0).setFld CFG_CHECK_STATUS.FENCED 0).setFld CFG_CHECK_STATUS.RELOADED 0
  let left := s.hub.recommit.filter (fun x => segSkipped s x.1)
  let s := s.modHub (fun h => { h with commit := none, episode := false, passes := 0, recommit := left })
  let s := s.raise 0x0014 0 [ref, cause, 0xFF]
  let s := if fenced then
      forEach ((List.finRange 128).filter (fun n : Port => s.flag (PORT_STARTUP_CFG.ENABLE n))) startPort s
    else s
  match call with
  | none => s
  | some c => finalReply (pktOf s 0x0805 c) 0 (bytesLsb 4 ref) s

/-- The commit that waits longest begins when none runs (R464). -/
def nextCommit (s : State) : State :=
  match s.hub.commit, s.hub.commits with
  | none, c :: cs => s.modHub (fun h => { h with commit := some c, commits := cs })
  | _, _ => s

/-- A commit is requested: it starts at once, or when the one that runs ends (R464). -/
def startCommit (cause : Nat) (call : Option Call) (s : State) : State :=
  nextCommit (s.modHub (fun h => { h with commits := h.commits ++ [(cause, call)] }))

/-- The commit pass that runs ends, and the next begins. -/
def finishCommit (s : State) : State :=
  match s.hub.commit with
  | none => s
  | some (cause, call) => nextCommit (endCommit cause call s)

/-- A write that reaches a C field stalls until no commit runs: the passes end first (R464; log entry 26). -/
def settleCommits (s : State) : State :=
  (List.range (s.hub.commits.length + 1)).foldl (fun s _ => finishCommit s) s

/-- FENCED clears by a write of 1: each port with ENABLE = 1 enters G0 (R466). -/
def clearFenced (s : State) : State :=
  if !s.flag CFG_CHECK_STATUS.FENCED then s
  else
    let s := s.setFld CFG_CHECK_STATUS.FENCED 0
    forEach ((List.finRange 128).filter (fun n : Port => s.flag (PORT_STARTUP_CFG.ENABLE n))) startPort s

/-- A write of CFG_CHECK_CFG that the lock permits: ENABLE 0 stops the walkers, clears MISMATCH and ends an episode; ENABLE 1 starts
afresh (R462, R465). -/
def writeCheckCfg (v : Nat) (s : State) : State :=
  let was := s.flag CFG_CHECK_CFG.ENABLE
  let s := (s.setFld CFG_CHECK_CFG.ENABLE (bits v 31 31)).setFld CFG_CHECK_CFG.ACTION (bits v 1 0)
  if was && !bit v 31 then
    (s.setFld CFG_CHECK_STATUS.MISMATCH 0).modHub (fun h => { h with episode := false, passes := 0 })
  else if !was && bit v 31 then s.modHub (fun h => { h with episode := false, passes := 0 })
  else s

/-! ### Locks (R468 to R472) -/

/-- The number of a master in event parameters: 0 ring command, 1 Porter firmware, 2 debug access port (R480). -/
def masterCode : Master → Nat
  | .ring => 0
  | .firmware => 1
  | .dap => 2

/-- The unlock window closes unused: event 0x8003, and with the Porter halted event 0xA001 (R470, R558). -/
def expireWindow (s : State) : State :=
  match s.hub.window with
  | none => s
  | some (_, m) =>
    let s := (s.modHub (fun h => { h with window := none })).raise 0x8003 0 [m]
    if halted s then s.raise 0xA001 1 [m, (s.reg DBG_PORTER_PC).toNat] else s

/-- The 1 ms of the window have passed (R470, R472). -/
def windowOver (s : State) : Bool := match s.hub.window with | none => false | some (t, _) => decide (t + 1000 ≤ s.now)

/-- Lockable fields are locked (R469, R470). -/
def isLocked (s : State) : Bool := if s.fld PWR_PHASE.PHASE = 1 then s.flag HUB_LOCK.LOCK else s.hub.window.isNone

/-- A write to a locked field is refused (R471). -/
def refuseLocked (a : Nat) (m : Master) (s : State) : State :=
  let s := ((s.setFld HUB_LOCK_STATUS.VIOLATION 1).setReg HUB_LOCK_LAST_ADDR (word a)).inc HUB_LOCK_VIOLATIONS
  (s.intBit 8).raise 0x8001 1 [a, masterCode m, s.fld PWR_PHASE.PHASE]

/-- A write to a lockable register: refused with LOCKED, or it takes effect and closes the window (R470 to R472). -/
def writeLockable (m : Master) (a v : Nat) (s : State) : Nat × State :=
  let s := if windowOver s then expireWindow s else s
  if isLocked s then (5, refuseLocked a m s)
  else (0, writeCheckCfg v (if s.fld PWR_PHASE.PHASE = 1 then s else s.modHub (fun h => { h with window := none })))

/-- UNLOCK_KEY is written (R470): 0x5EA7 opens the window or restarts its time; any other value closes it. In SERVICE ignored
(R469). -/
def writeKey (m : Master) (v : Nat) (s : State) : State :=
  if s.fld PWR_PHASE.PHASE = 1 then s
  else
    let s := if windowOver s then expireWindow s else s
    if v % 65536 = 0x5EA7 then s.modHub (fun h => { h with window := some (s.now, masterCode m) })
    else
      let s := s.modHub (fun h => { h with window := none })
      (((s.setFld HUB_LOCK_STATUS.KEY_BAD 1).inc HUB_LOCK_KEY_BAD).intBit 8).raise 0x8002 1 [v % 65536, masterCode m]

/-- LOCK is set in SERVICE; event 0x8004 when it changes (R469). -/
def setLock (m : Master) (s : State) : State :=
  if s.fld PWR_PHASE.PHASE = 1 ∧ s.fld HUB_LOCK.LOCK = 0 then (s.setFld HUB_LOCK.LOCK 1).raise 0x8004 0 [masterCode m] else s

/-! ### Registers whose write acts (R452) -/

/-- The bits of a field in a written value. -/
def ofFld (f : Fld) (v : Nat) : Nat := bits v f.hi f.lo

/-- HL_CFG of a lane is written (R265, R269, R276, R280): in BOOT it is only stored, to act after step 9 (R380). -/
def writeLaneCfg (h v : Nat) (s : State) : State :=
  let s := (s.setFld (HL_CFG.PRECODE_TX h) (ofFld (HL_CFG.PRECODE_TX h) v)).setFld (HL_CFG.PRECODE_RX h) (ofFld (HL_CFG.PRECODE_RX h) v)
  let s := (s.setFld (HL_CFG.TX_INV h) (ofFld (HL_CFG.TX_INV h) v)).setFld (HL_CFG.RX_INV h) (ofFld (HL_CFG.RX_INV h) v)
  let on := ofFld (HL_CFG.ENABLE h) v
  let rate := ofFld (HL_CFG.RATE h) v
  if h ≥ 128 then s
  else if s.fld PWR_PHASE.PHASE = 0 then
    let s := (s.setFld (HL_CFG.ENABLE h) on).setFld (HL_CFG.RATE h) rate
    if on = 1 then octetOn (octetOf h) s else s
  else if on = 1 then writeLaneEnable h true (writeLaneRate h rate s)
  else
    let s := if s.flag (HL_CFG.ENABLE h) || laneState s h == 3 then writeLaneEnable h false s else s
    s.setFld (HL_CFG.RATE h) rate

/-- HL_SPARE_CFG of a group is written; in BOOT it is only stored (R276, R380). -/
def writeSpare (g v : Nat) (s : State) : State :=
  if s.fld PWR_PHASE.PHASE = 0 then
    let keep := (s.reg (HL_SPARE_CFG (spareLane g))).toNat
    let s := s.setReg (HL_SPARE_CFG (spareLane g)) (word (bits v 31 29 * 2 ^ 29 + bits keep 28 21 * 2 ^ 21 +
      bits v 20 16 * 2 ^ 16 + bits keep 15 10 * 2 ^ 10 + bits v 9 0))
    if isWarm s g then octetOn 16 s else s
  else writeSpareCfg g v s

/-- HL_SPARE_CTRL: the lowest doorbell acts; CMD_IGNORED is set for the others (R289). -/
def writeSpareCtrl (g v : Nat) (s : State) : State :=
  let many := decide (1 < v % 2 + v / 2 % 2 + v / 4 % 2)
  let s := if bit v 0 then hostDone g s else if bit v 1 then askSubstitute g (bits v 19 16) s
    else if bit v 2 then askRevert g s else s
  if many then spareIgnored g s else s

/-- MR_CFG is written: a change of WRAP records event 0x9004 (R412). -/
def writeWrap (w : Nat) (s : State) : State :=
  let old := s.fld MR_CFG.WRAP
  if old = w % 4 then s else (s.setFld MR_CFG.WRAP (w % 4)).raise 0x9004 0 [old, w % 4]

/-- PORT_STARTUP_CFG is written: a change of ENABLE acts (R194). -/
def writeStartupCfg (n : Port) (v : Nat) (s : State) : State :=
  let was := s.flag (PORT_STARTUP_CFG.ENABLE n)
  let on := ofFld (PORT_STARTUP_CFG.ENABLE n) v == 1
  let s := s.setReg (PORT_STARTUP_CFG n) (word (cfgBits
    (match regAt (PORT_STARTUP_CFG n) with | some (_, _, r, _) => r.fields | none => []) v))
  let s := s.setFld (PORT_STARTUP_CFG.ENABLE n) was.toNat
  if on == was then s else writeEnable n on s

/-- PORT_RATE_CFG is written: another REQ_TIER is a request of the host (R211). -/
def writeRateCfg (n : Port) (v : Nat) (s : State) : State :=
  let was := s.fld (PORT_RATE_CFG.REQ_TIER n)
  let s := s.setReg (PORT_RATE_CFG n) (word (cfgBits
    (match regAt (PORT_RATE_CFG n) with | some (_, _, r, _) => r.fields | none => []) v))
  if s.fld (PORT_RATE_CFG.REQ_TIER n) = was then s else askTier n s

/-- Registers whose write is more than a store of their fields. Answers nothing for the others. -/
def writeSpecial (b : Blk) (i a v : Nat) (s : State) : Option State :=
  match b with
  | .hub =>
    if a = CLK_DIV then some (writeClkDiv v s)
    else if a = PWR_AVS_CFG then some (writeAvsCfg v s)
    else if a = PWR_DOM_CTRL then some (writeDomCtrl v s)
    else if a = CFG_COMMIT then some (if bit v 0 then startCommit 1 none s else s)
    else if a = CFG_CHECK_STATUS then some (if bit v 30 then clearFenced s else s)
    else windowStep b i a s
  | .lane =>
    if a = HL_CFG i then some (writeLaneCfg i v s)
    else if a = HL_TX_FFE i then some (writeFfe i v s)
    else if a = HL_EYE_CTRL i then some (writeEyeCtrl i v s)
    else if a = HL_PRBS_CTRL i then some (writePrbsCtrl i v s)
    else if a = HL_SPARE_CFG i then some (writeSpare (i - 128) v s)
    else if a = HL_SPARE_CTRL i then some (writeSpareCtrl (i - 128) v s)
    else none
  | .gb => if a = GB_CLEAR_CTRL then some (if bit v 0 then (gbClear s).2 else s) else windowStep b i a s
  | .dbg => if a = DBG_CORE_DATA then some (writeCore (word v) s) else none
  | .tile => if a = TILE_CLK_CTRL i then some (if ofFld (TILE_CLK_CTRL.SWAP i) v = 1 then swapLpll i s else s) else none
  | .port =>
    let n := toPort i
    if a = PORT_MODE n then some (writePortMode n v s)
    else if a = PORT_STARTUP_CFG n then some (writeStartupCfg n v s)
    else if a = PORT_RATE_CFG n then some (writeRateCfg n v s)
    else none
  | .pair =>
    let n := portOf i
    let p := pairOf i
    if a = PAIR_TBL_DATA n p then some (writeTblData n p s)
    else if a = PAIR_COEF_ADDR n p then some (writeCoefWindow n p (word v) s)
    else if a = PAIR_COEF_DATA n p then some (writeCoefData n p (word v) s)
    else if a = DIAG_CTRL n p then some (writeDiagCtrl n p v s)
    else windowStep b i a s
  | _ => windowStep b i a s

/-- What follows from a store of a register's fields. -/
def afterWrite (b : Blk) (i a v : Nat) (s : State) : State :=
  match b with
  | .hub =>
    if a = CLK_CDC_OVERRUN0 ∨ a = CLK_CDC_OVERRUN1 then judgeDividers (showCdc s)
    else if a = PWR_DOMAIN_CFG then judgeOctets s
    else if HUB_INT_STATUS ≤ a ∧ a < HUB_INT_LANE 5 then settleNotified s
    else s
  | .port =>
    let n := toPort i
    if a = PORT_PATTERN_CFG n then
      let s := if ofFld (PORT_PATTERN_CFG.INJ_SINGLE n) v = 1 then injectPattern n 1 s else s
      let s := if ofFld (PORT_PATTERN_CFG.INJ_BURST n) v = 1 then injectPattern n (max 1 (s.fld (PORT_PATTERN_CFG.BURST_LEN n))) s else s
      refreshModes n (patternNotice n s)
    else if a = TT_PORT_CFG n then refreshModes n s
    else if a = DIAG_HIST_CFG n then (if ofFld (DIAG_HIST_CFG.HIST_CLEAR n) v = 1 then histClear n s else s)
    else s
  | _ => s

/-! ### A write (R452, R455, R458, R460) -/

/-- A register of the family of counters that software may preset: one RW field without the mark C that is no plain store. -/
def isCounter (a : Nat) (f : FieldDef) : Bool :=
  f.acc == .rw && !f.cfg && f.lo == 0 && decide (15 ≤ f.hi) && a != HUB_SCRATCH && a != DBG_CORE_DATA &&
    !(match regAt a with | some (.lane, i, _) => decide (HL_PRBS_USER i 0 ≤ a ∧ a ≤ HL_PRBS_USER i 4) | _ => false)

/-- A field after a write of `v` over `old`, with the hardware update of the same cycle (R452, R458): a W1C set stands, a counter's
increment is added, an RWH value of the hardware's wins. -/
def fieldAfter (a : Nat) (f : FieldDef) (old v : Nat) (hw : HwUpdate) : Nat :=
  let o := bits old f.hi f.lo
  let w := bits v f.hi f.lo
  let size := 2 ^ (f.hi + 1 - f.lo)
  match f.acc with
  | .rw => if isCounter a f then (w + hw.inc) % size else w
  | .rwh => hw.rwh.getD w % size
  | .w1c => (o - (o &&& w)) ||| bits hw.set f.hi f.lo
  | .rwl => w
  | _ => o

/-- A write discarded because the hardware wrote the same RWH field in that cycle (R460). -/
def writeLost (m : Master) (a : Nat) (s : State) : State :=
  let s := ((s.setFld HUB_STATUS.WRITE_LOST 1).setReg HUB_WRITE_LOST_ADDR (word a)).inc HUB_WRITE_LOST_COUNT
  (s.intBit 15).raise 0x0020 1 [a, masterCode m]

/-- A write of one word of a 64-bit register: the high word is held for the master; the low word loads both (R455). A register that
software may not write ignores it. -/
def write64 (m : Master) (a v : Nat) (low : Bool) (writable : Bool) (inc : Nat) (s : State) : State :=
  if !writable then s
  else if !low then { s with highs := SMap.put (fun _ => 0) s.highs (shadowKey (a - 4) m) (word v) }
  else
    let k := shadowKey a m
    let hi := (SMap.get (fun _ => 0) s.highs k).toNat
    let s := s.set64 a ((hi * 2 ^ 32 + v + inc) % 2 ^ 64)
    { s with highs := SMap.put (fun _ => 0) s.highs k 0 }

/-- A write of a mapped register that no lock guards. -/
def writePlain (m : Master) (a v : Nat) (hw : HwUpdate) (s : State) : State :=
  match regAt a with
  | none => s
  | some (b, i, r, _) =>
    match r.half with
    | .low => write64 m a v true (r.fields.any (fun f => f.acc == .rw)) hw.inc s
    | .high => write64 m a v false (r.fields.any (fun f => f.acc == .rw)) hw.inc s
    | .whole =>
      match writeSpecial b i a v s with
      | some t => t
      | none =>
        let wrap := s.fld MR_CFG.WRAP
        let old := (s.reg a).toNat
        let new := r.fields.foldl (fun w f => insertBits w f.hi f.lo (fieldAfter a f old v hw)) old
        let s := s.setReg a (word new)
        let s := if a = MR_CFG then writeWrap (bits v 1 0) (s.setFld MR_CFG.WRAP wrap) else s
        let s := if hw.rwh.isSome && r.fields.any (fun f => f.acc == .rwh) then writeLost m a s else s
        afterWrite b i a v s

/-- No hardware update in the cycle of the access. -/
def noUpdate : HwUpdate := ⟨none, 0, 0⟩

/-- A write of a register that is served, apart from the Porter's doorbells: its status, OK or LOCKED (R450, R464, R469 to R471). -/
def writeReg (m : Master) (a v : Nat) (hw : HwUpdate) (s : State) : Nat × State :=
  if a = CFG_CHECK_CFG then writeLockable m a v s
  else if a = UNLOCK_KEY then (0, writeKey m v s)
  else if a = HUB_LOCK then (0, if bit v 0 then setLock m s else s)
  else (0, writePlain m a v hw (if isCfgReg a then settleCommits s else s))

end Sys2Proof.Machine
end

