-- ==== Sys2Proof/Machine/ConfigCheck.lean ====
section
/-! DEFINITION. The configuration check's passes and actions, and the commands on commits and locks (R462 to R472). -/
namespace Sys2Proof.Machine

/-- The write of a device's own sequence to a register: as on the bus, waking what it needs; a block that is not up, or a domain in
FAULT, discards it (R369, R466, R508). -/
def ownWrite (a v : Nat) (s : State) : State :=
  match reach s .firmware a with
  | .go => (writeReg .firmware a v noUpdate s).2
  | .wait ids => (writeReg .firmware a v noUpdate (wakeNow ids s)).2
  | _ => s

/-- The value a CONFIG entry writes: an MW register takes every bit of [15:0] (R508). -/
def imageValue (a v : Nat) : Nat :=
  match regAt a with
  | some (_, _, r, _) => if r.fields.any (fun f => f.acc == .mw) then v % 65536 + 0xFFFF0000 else v
  | none => v

/-- RELOAD (R466): every C register is written from the CONFIG image loaded at boot. -/
def reload (s : State) : State :=
  let img := (s.hub.image.map (fun x => x.2)).getD []
  let seq := (s.hub.image.map (fun x => x.1)).getD 0
  let es := img.filter (fun e => isCfgReg e.1)
  let s := forEach es (fun e s => ownWrite e.1 (imageValue e.1 e.2) s) s
  ((s.setFld CFG_CHECK_STATUS.RELOADED 1).inc CFG_RELOADS).raise 0x0012 1 [seq, es.length]

/-- FENCE (R466): every port in start-up, showtime or fast retrain leaves with cause DISABLED. -/
def fence (s : State) : State :=
  let down := (List.finRange 128).filter (fun n => (activeLinks s n).any (fun l => isUp s l || inStartup s l))
  let s := forEach down stopPort (s.setFld CFG_CHECK_STATUS.FENCED 1)
  s.raise 0x0013 2 [down.length]

/-- The ACTION of a mismatch episode; RELOAD waits while the Porter is halted (R466, R555). -/
def checkAction (s : State) : State :=
  match s.fld CFG_CHECK_CFG.ACTION with
  | 1 => if halted s then s.modHub (fun h => { h with reloadDue := true }) else reload s
  | 2 => fence s
  | _ => s

/-- The walkers run: from the commit of boot step 7, which a boot from the boot ROM skips, while ENABLE is 1 and no commit runs
(R381, R462, R464, R465). -/
def walkersRun (s : State) : Bool :=
  s.flag CFG_CHECK_CFG.ENABLE && s.hub.commit.isNone && !s.hub.resetting && decide (7 ≤ s.fld PWR_PHASE.BOOT_STEP) &&
    !s.flag PWR_PHASE.FW_ROM

/-- The segments whose reset or wake has ended are committed again by this clean pass (R467). -/
def recommitSegs (s : State) : State :=
  forEach (s.hub.recommit.filter (fun x => !segSkipped s x.1)) (fun x s =>
    let s := s.setReg (CFG_SEG_REF x.1) (word (segCrc s x.1))
    let ref := overallCrc (segRefs s)
    let s := (s.setReg CFG_CRC_REF (word ref)).raise 0x0014 0 [ref, x.2, x.1]
    s.modHub (fun h => { h with recommit := h.recommit.filter (fun y => y.1 != x.1) })) s

/-- A clean pass is compared (R463, R465). -/
def cleanPass (s : State) : State :=
  let s := recommitSegs (s.inc CFG_PASSES)
  let refs := segRefs s
  let crcs := (List.range 9).map (fun j => if segSkipped s j then refs.getD j 0 else segCrc s j)
  let mask (p : Nat → Bool) : Nat := ((List.range 9).map (fun j => if p j then 2 ^ j else 0)).sum
  let mis := mask (fun j => crcs.getD j 0 != refs.getD j 0)
  let now := overallCrc crcs
  let ref := (s.reg CFG_CRC_REF).toNat
  let s := (s.setReg CFG_CRC_NOW (word now)).setFld CFG_CHECK_STATUS.SEG_MISMATCH mis
  let s := s.setFld CFG_CHECK_STATUS.SKIPPED (mask (segSkipped s))
  if now = ref then
    if s.hub.episode then
      let s := s.modHub (fun h => { h with episode := false, passes := h.passes + 1 })
      (s.setFld CFG_CHECK_STATUS.MISMATCH 0).raise 0x0011 0 [s.hub.passes]
    else s
  else if s.hub.episode then s.modHub (fun h => { h with passes := h.passes + 1 })
  else
    let s := s.modHub (fun h => { h with episode := true, passes := 1 })
    let s := ((s.setFld CFG_CHECK_STATUS.MISMATCH 1).intBit 7).inc CFG_MISMATCHES
    checkAction (s.raise 0x0010 1 [now, ref, mis, s.fld CFG_CHECK_CFG.ACTION])

/-- CFG_WALKER_PASS: a pass ends; a dirty one is only counted (R462, R463). -/
def execCfgWalkerPass (dirty : Bool) (s : State) : Host.Outcome State Fault Refusal :=
  if !walkersRun s then .next s else if dirty then .next (s.inc CFG_DIRTY) else .next (cleanPass s)

/-- CFG_COMMIT: the COMMIT doorbell is written (R464). -/
def execCfgCommit (s : State) : Host.Outcome State Fault Refusal := .next (startCommit 1 none s)

/-- COMMIT_PASS_DONE: the commit pass that runs ends (R464); while the Porter is halted it answers no command (R555). -/
def execCommitPassDone (s : State) : Host.Outcome State Fault Refusal :=
  if halted s && s.hub.commit.any (fun c => c.2.isSome) then .next s else .next (finishCommit s)

/-- CFG_CHECK_ENABLE_WRITE: CFG_CHECK_CFG is written under the locks (R465, R469 to R471). -/
def execCfgCheckEnableWrite (v : Word) (m : Master) (s : State) : Host.Outcome State Fault Refusal :=
  .next (writeLockable m CFG_CHECK_CFG v.toNat s).2

/-- CFG_FENCED_CLEAR: 1 is written to FENCED (R466). -/
def execCfgFencedClear (s : State) : Host.Outcome State Fault Refusal := .next (clearFenced s)

/-- HUB_LOCK_WRITE: HUB_LOCK is written (R469). -/
def execHubLockWrite (v : Word) (m : Master) (s : State) : Host.Outcome State Fault Refusal :=
  .next (if bit v.toNat 0 then setLock m s else s)

/-- UNLOCK_KEY_WRITE: UNLOCK_KEY is written (R470). -/
def execUnlockKeyWrite (v : Word) (m : Master) (s : State) : Host.Outcome State Fault Refusal := .next (writeKey m v.toNat s)

/-- UNLOCK_WINDOW_EXPIRE: the window's 1 ms have passed (R470, R558). -/
def execUnlockWindowExpire (s : State) : Host.Outcome State Fault Refusal := .next (expireWindow s)

/-- WRAP_WRITE: MR_CFG.WRAP is written (R412). -/
def execWrapWrite (v : Word) (s : State) : Host.Outcome State Fault Refusal := .next (writeWrap (bits v.toNat 1 0) s)

end Sys2Proof.Machine
end

