-- ==== Sys2Proof/Machine/Porter.lean ====
section
/-! DEFINITION. The Porter: completions and job records, halt, step and resume by the debugger, takeover by the standby pair
(R428, R445, R528, R529, R554 to R557). -/
namespace Sys2Proof.Machine

/-! ### Completions (R428, R436, R445) -/

/-- The job record of a job that has ended (R428). -/
def recordOf (s : State) (j : Job) (status arg : Nat) : List Nat :=
  bytesLsb 2 j.num ++ bytesLsb 2 j.op ++ [status, j.src, j.tag, 0] ++ bytesLsb 4 arg ++ bytesLsb 4 (seqNow s)

/-- The Porter writes the record of a job and forgets the job (R428). -/
def writeRecord (j : Job) (status arg : Nat) (s : State) : State :=
  { s with records := s.records ++ [recordOf s j status arg], jobs := s.jobs.filter (fun x => x.num != j.num) }

/-- One MAPS run of a DIAG_MAPS job has reported (R436): done, refused, or ended by a reset; the last one ends the job. -/
def countRun (j : Job) (status : Nat) (s : State) : State :=
  let j' := { j with
    left := j.left - 1, done := j.done + (status == 0).toNat, refused := j.refused + (status == 3).toNat,
    errs := if status = 0x0B then [1] else j.errs }
  if j'.left = 0 then writeRecord j (if j'.errs.isEmpty then 0 else 0x0B) (j'.done % 65536 + j'.refused % 65536 * 65536) s
  else { s with jobs := s.jobs.map (fun x => if x.num == j.num then j' else x) }

/-- The Porter takes a completion from its queue. -/
def takeCompletion (c : Completion) (s : State) : State :=
  match s.jobs.find? (fun j => j.num == c.job) with
  | none => s
  | some j => if c.run then countRun j c.status s else writeRecord j c.status c.arg s

/-- Completion `a` is accepted before `b`: by batch, then tile (the hub last), then unit (R445). -/
def comesBefore (a b : Completion) : Bool :=
  decide (a.ready < b.ready) || (a.ready == b.ready && (decide (a.tile < b.tile) || (a.tile == b.tile && decide (a.unit < b.unit))))

/-- The completion that the collector accepts next. -/
def nextCompletion : List Completion → Option Completion
  | [] => none
  | c :: cs => match nextCompletion cs with
    | none => some c
    | some d => if comesBefore d c then some d else some c

/-- COMPLETION_ACCEPT: the collector accepts the next completion; while the Porter is halted it fills the queue of 512 entries
(R445, R555). -/
def execCompletionAccept (s : State) : Host.Outcome State Fault Refusal :=
  match nextCompletion s.completions with
  | none => .next s
  | some c =>
    let rest := s.completions.erase c
    if halted s then
      if 512 ≤ s.hub.porterQ.length then .next s
      else .next ({ s with completions := rest }.modHub (fun h => { h with porterQ := h.porterQ ++ [c] }))
    else .next (takeCompletion c { s with completions := rest })

/-! ### Halt, resume, step (R554, R555) -/

/-- The Porter's firmware runs and no reset lasts: there is a pair to halt or to fail. -/
def porterUp (s : State) : Bool := !s.hub.resetting && decide (3 ≤ s.fld PWR_PHASE.BOOT_STEP)

/-- The active pair halts (R554): the reason, the program counter, event 0xA002. -/
def haltPair (reason brk : Nat) (pc : Word) (s : State) : State :=
  let s := ((s.setFld DBG_PORTER_STATUS.HALTED 1).setFld DBG_PORTER_STATUS.REASON reason).setFld DBG_PORTER_STATUS.BREAK brk
  let s := (s.setFld DBG_PORTER_STATUS.IN_WINDOW s.hub.window.isSome.toNat).setReg DBG_PORTER_PC pc
  let s := (s.inc DBG_HALTS).modHub (fun h => { h with haltTemp := maxTemp s })
  s.raise 0xA002 0 [1, reason, pc.toNat]

/-- The pair runs again: the halt is no longer shown, and what the cores hold is the firmware's. -/
def leaveHalt (s : State) : State :=
  let s := ((s.setFld DBG_PORTER_STATUS.HALTED 0).setFld DBG_PORTER_STATUS.REASON 0).setFld DBG_PORTER_STATUS.BREAK 0
  { (s.setFld DBG_PORTER_STATUS.IN_WINDOW 0).setReg DBG_PORTER_PC 0 with core := [] }

/-- What waited for the Porter is done: completions, a RELOAD, a BIST start (R555). -/
def catchUp (s : State) : State :=
  let q := s.hub.porterQ
  let s := forEach q takeCompletion (s.modHub (fun h => { h with porterQ := [] }))
  let s := if s.hub.reloadDue then reload (s.modHub (fun h => { h with reloadDue := false })) else s
  sweepDue s

/-- HALT by the doorbell. -/
def halt (pc : Word) (s : State) : State := if halted s || !porterUp s then s else haltPair 1 0 pc s

/-- RESUME: ignored unless halted. -/
def resume (s : State) : State :=
  if !halted s then s
  else
    let reason := s.fld DBG_PORTER_STATUS.REASON
    let pc := (s.reg DBG_PORTER_PC).toNat
    catchUp (leaveHalt (s.raise 0xA002 0 [2, reason, pc]))

/-- STEP: one instruction in both cores, and a new halt; ignored unless halted. -/
def stepPair (pc : Word) (s : State) : State := if !halted s then s else haltPair 3 0 pc { s with core := [] }

/-- PORTER_HALT (R554). -/
def execPorterHalt (pc : Word) (s : State) : Host.Outcome State Fault Refusal := .next (halt pc s)

/-- PORTER_BREAKPOINT: the cores reach an enabled breakpoint (R554). -/
def execPorterBreakpoint (i : Fin 4) (pc : Word) (s : State) : Host.Outcome State Fault Refusal :=
  if halted s || !porterUp s || !s.flag (DBG_BREAK.EN i) || s.fld (DBG_BREAK.ADDR i) != pc.toNat / 4 then .next s
  else .next (haltPair 2 i pc s)

/-- PORTER_RESUME (R554). -/
def execPorterResume (s : State) : Host.Outcome State Fault Refusal := .next (resume s)

/-- PORTER_STEP (R554). -/
def execPorterStep (pc : Word) (s : State) : Host.Outcome State Fault Refusal := .next (stepPair pc s)

/-- DBG_CORE_DATA_ACCESS: DBG_CORE_DATA is read (no word) or written (R554). -/
def execDbgCoreDataAccess (wr : Option Word) (s : State) : Host.Outcome State Fault Refusal :=
  match wr with
  | none => .next (readCore false s).2
  | some v => .next (writeCore v s)

/-- DBG_PORTER_CTRL is written: the lowest doorbell acts (R559). Where the cores stop is a free value. -/
def writePorterCtrl (v : Nat) (s : State) : State :=
  let (pc, s) := s.draw
  if bit v 0 then halt (word pc) s else if bit v 1 then resume s else if bit v 2 then stepPair (word pc) s else s

/-! ### Takeover (R528, R529, R557) -/

/-- The standby pair takes over (R528): a halt ends, a test of the standby is abandoned, and after a fault the faulted pair is tested
as the new standby. With no standby ready: event 0x7021 and a reset with cause WATCHDOG (R529). -/
def takeover (cause : Nat) (s : State) : State :=
  if !s.flag BIST_PORTER_STATUS.STANDBY_READY then deviceReset 5 (s.raise 0x7021 2 [cause])
  else
    let new := 1 - s.fld BIST_PORTER_STATUS.ACTIVE
    let s := (s.setFld BIST_PORTER_STATUS.ACTIVE new).setFld DBG_PORTER_STATUS.PAIR new
    let s := ((s.inc BIST_PORTER_TAKEOVERS).intBit 16).raise 0x7020 2 [cause, new]
    let s := match s.tests.find? (fun x => x.unit == porterUnit) with
      | some x => endTest x 0x0B 0 s
      | none => s
    let s := askInternal 1 porterUnit (.test porterUnit) s
    if halted s then catchUp (leaveHalt s) else s

/-- PORTER_TAKEOVER: the active pair faults: 1 lock-step, 2 ECC, 3 watchdog, which a halt suspends (R526, R528, R554). -/
def execPorterTakeover (cause : Nat) (s : State) : Host.Outcome State Fault Refusal :=
  if !porterUp s || cause < 1 || 3 < cause || (halted s && cause == 3) then .next s else .next (takeover cause s)

end Sys2Proof.Machine
end

