-- ==== Sys2Proof/Machine/Access.lean ====
section
/-! DEFINITION. Accesses of the register bus from outside: stalls and wakes, the debug access port, the rows of registers without a
row of their own (R369 to R374, R449 to R458, R552), power-downs, the core voltage and the temperature alert (R364 to R367, R576). -/
namespace Sys2Proof.Machine

/-! ### One access (R449, R450, R552) -/

/-- A write of any mapped register that is served: its status. -/
def busWrite (m : Master) (a v : Nat) (hw : HwUpdate) (s : State) : Nat × State :=
  if a = DBG_PORTER_CTRL then (0, writePorterCtrl v s) else writeReg m a v hw s

/-- The end of an access with a status and a word: a DAP operation shows its STATE and RDATA, another master is given both. An
operation counts as completed when it ends DONE (log entry 27); one that a reset of the TAP has overtaken shows nothing. -/
def endWith (x : BusAccess) (v : Word) (status : Nat) (s : State) : State :=
  if x.m == .dap then
    let bad := status == 8 || status == 9
    let s := if bad then s else s.inc DBG_DAP_OPS
    if s.hub.dapState ≠ 1 then s
    else s.modHub (fun h => { h with
      dapState := if status = 9 then 2 else if status = 8 then 3 else 0,
      dapData := if bad || x.wr.isSome then 0 else v.toNat })
  else s.emit (.readData x v status)

/-- A served access acts (R452). -/
def perform (x : BusAccess) (hw : HwUpdate) (s : State) : State :=
  match x.wr with
  | none =>
    let (v, s) := busRead x.m x.a hw.inc s
    endWith x v 0 s
  | some v =>
    let (st, s) := busWrite x.m x.a v.toNat hw s
    endWith x 0 st s

/-- The domains that an access counts as addressed to: of a pair or a slice, not their tile. -/
def addressed (s : State) (x : BusAccess) : List Nat :=
  match classify x.a with
  | none => []
  | some (b, i, _) =>
    match accessDoms s b i x.a with
    | t :: id :: ids => if domKind t = 2 then id :: ids else t :: id :: ids
    | ids => ids

/-- An earlier access to one of its domains still waits (R371). -/
def behind (s : State) (earlier : List BusAccess) (x : BusAccess) : Bool :=
  earlier.any (fun y => (addressed s y).any (fun id => (addressed s x).contains id))

/-- An access that no longer waits ends, served or failed. -/
def endAccess (x : BusAccess) (hw : HwUpdate) (s : State) : State :=
  match reach s x.m x.a with
  | .unmapped =>
    endWith x 0 0 (if x.m == .dap then (s.setFld HUB_STATUS.UNMAPPED 1).setReg HUB_UNMAPPED_ADDR (word x.a) else s)
  | .notReady => endWith x 0 9 s
  | .fault => endWith x 0 8 s
  | .wait _ => s
  | .go => perform x hw s

/-- The access has to wait. -/
def mustWait (s : State) (earlier : List BusAccess) (x : BusAccess) : Bool :=
  match reach s x.m x.a with
  | .wait _ => true
  | .go => behind s earlier x
  | _ => false

/-- The waiting accesses that no longer need to wait end, in order (R371, R372, R378). -/
def drainWakes : List BusAccess → List BusAccess → State → State
  | left, [], s => s.modHub (fun h => { h with wakes := left })
  | left, x :: xs, s =>
    if mustWait s left x then drainWakes (left ++ [x]) xs s else drainWakes left xs (endAccess x noUpdate s)

/-- The waiting accesses are judged again, and the wakes they need begin. -/
def settleWakes (s : State) : State := startWakes (drainWakes [] s.hub.wakes s)

/-- An access reaches the register bus. -/
def access (x : BusAccess) (hw : HwUpdate) (s : State) : State :=
  let s := if x.m == .dap then s.modHub (fun h => { h with dapState := 1, dapAddr := x.a }) else s
  if mustWait s s.hub.wakes x then startWakes (s.modHub (fun h => { h with wakes := h.wakes ++ [x] }))
  else endAccess x hw s

/-- A DAP operation that is neither a read nor a write, or comes while one is BUSY (R552). -/
def dapOverrun (s : State) : State := s.setFld DBG_DAP_STATUS.OVERRUN 1

/-- An access of a master: with a board-test instruction loaded the TAP carries none; a DAP operation while one is BUSY is ignored
and sets OVERRUN; a halted Porter makes none (R550, R552, R555). -/
def issue (x : BusAccess) (hw : HwUpdate) (s : State) : State :=
  if x.m == .dap then
    if s.hub.boardTest.isSome then s
    else if s.hub.dapState = 1 then dapOverrun s
    else access { x with a := x.a % 2 ^ 32 / 4 * 4 } hw s
  else if halted s then s
  else access x hw s

/-! ### The rows -/

/-- The register at an address is the low or the high word of a 64-bit register. -/
def halfAt (a : Nat) : Half := match regAt a with | some (_, _, r, _) => r.half | none => .whole

/-- The address is DATA of a window. -/
def isWindow (s : State) (a : Nat) : Bool :=
  match regAt a with | some (b, i, _) => (windowStep b i a s).isSome | none => false

/-- The register at an address holds an RC field. -/
def hasRc (a : Nat) : Bool := match regAt a with | some (_, _, r, _) => r.fields.any (fun f => f.acc == .rc) | none => false

/-- REGISTER_WRITE (R452, R458, R460). -/
def execRegisterWrite (x : BusAccess) (hw : HwUpdate) (s : State) : Host.Outcome State Fault Refusal :=
  if x.wr.isNone then .next s else .next (issue x hw s)

/-- RC_READ: a read of a register with an RC field (R452, R458, R553). -/
def execRcRead (x : BusAccess) (hw : HwUpdate) (s : State) : Host.Outcome State Fault Refusal :=
  if x.wr.isSome || !hasRc x.a then .next s else .next (issue x hw s)

/-- COUNTER_LOW_READ (R454). -/
def execCounterLowRead (x : BusAccess) (s : State) : Host.Outcome State Fault Refusal :=
  if x.wr.isSome || halfAt x.a != .low then .next s else .next (issue x noUpdate s)

/-- COUNTER_HIGH_WRITE (R455). -/
def execCounterHighWrite (x : BusAccess) (s : State) : Host.Outcome State Fault Refusal :=
  if x.wr.isNone || halfAt x.a != .high then .next s else .next (issue x noUpdate s)

/-- COUNTER_LOW_WRITE (R455). -/
def execCounterLowWrite (x : BusAccess) (hw : HwUpdate) (s : State) : Host.Outcome State Fault Refusal :=
  if x.wr.isNone || halfAt x.a != .low then .next s else .next (issue x hw s)

/-- WINDOW_DATA_ACCESS (R456, R457). -/
def execWindowDataAccess (x : BusAccess) (s : State) : Host.Outcome State Fault Refusal :=
  if !isWindow s x.a then .next s else .next (issue x noUpdate s)

/-! ### Wakes (R369 to R372) -/

/-- DOMAIN_WAKE_ON_ACCESS: an access that needs a wake stalls and wakes its domains (R369 to R371). -/
def execDomainWakeOnAccess (x : BusAccess) (s : State) : Host.Outcome State Fault Refusal :=
  match reach s x.m x.a with
  | .wait _ => .next (issue x noUpdate s)
  | _ => .next s

/-- DOMAIN_WAKE_DONE: a wake completes, and the accesses it held complete in order (R371). -/
def execDomainWakeDone (id stallNs : Nat) (s : State) : Host.Outcome State Fault Refusal :=
  if (s.dom id).state ≠ 4 ∨ domState s id ≠ 4 then .next s
  else
    let s := if accessWaits s id then recordStall stallNs s else s
    .next (settleWakes (finishWake id s))

/-- DOMAIN_WAKE_FAIL: the wake has not completed in 50 µs: FAULT, event 0x1070 with the address accessed, and every access that
waits for the domain ends DOMAIN_FAULT (R372). -/
def execDomainWakeFail (id : Nat) (s : State) : Host.Outcome State Fault Refusal :=
  if (s.dom id).state ≠ 4 ∨ domState s id ≠ 4 then .next s
  else
    let needs (x : BusAccess) : Bool := match reach s x.m x.a with | .wait ids => ids.contains id | _ => false
    let addr := ((s.hub.wakes.find? needs).map (fun x => x.a)).getD 0
    let s := (s.modDom id (fun d => { d with state := 5 })).setFld PWR_DOMAIN_LAST_FAULT.ID id
    let s := ((s.inc PWR_DOMAIN_FAULTS).intBit 6).raise 0x1070 2 [id, addr]
    .next (settleWakes s)

/-- DOMAIN_RETURN: RETURN_US has passed with no access: a domain that an access woke goes back to its earlier state (R370); the
power controller starts no power-down while an access waits (R371). -/
def execDomainReturn (id : Nat) (s : State) : Host.Outcome State Fault Refusal :=
  if !(s.dom id).awake || accessWaits s id then .next s
  else
    let kind := domKind id
    if kind = 4 ∨ kind = 5 then
      let base := domBase s id
      let s := s.modDom id (fun d => { d with awake := false, down := decide (base < 3) })
      if kind = 5 ∧ base = 0 then
        match slicePair s (domTileOf id) ((id - 0x400) % 68) with
        | some g => .next (losePair g s)
        | none => .next s
      else .next s
    else
      let s := s.modDom id (fun d => { d with awake := false })
      .next (if offCond s id then powerOff id s else s)

/-- DOMAIN_POWER_DOWN_DONE: a power-down ends, and what arrived meanwhile wakes the domain (R371). -/
def execDomainPowerDownDone (id : Nat) (s : State) : Host.Outcome State Fault Refusal :=
  if !(s.dom id).down then .next s else .next (settleWakes (s.modDom id (fun d => { d with down := false })))

/-! ### Power-downs (R366, R367, R374) -/

/-- PORT_POWER_OFF: a disabled, unclaimed port's front ends and slices are powered off (R367). -/
def execPortPowerOff (n : Port) (s : State) : Host.Outcome State Fault Refusal :=
  let ids := allPairs.flatMap (fun p => [0x200 + gpair n p, 0x400 + 68 * pairTile (gpair n p) + pairSlice s (gpair n p)])
  if (s.port n).frontOff || !portOffCond s n || tileState s (tileOf n) != 3 || ids.any (accessWaits s) then .next s
  else .next (portPowerOff n s)

/-- TILE_POWER_OFF (R366). -/
def execTilePowerOff (t : Tile) (s : State) : Host.Outcome State Fault Refusal :=
  if !tileOffCond s t || accessWaits s (0x020 + t) then .next s else .next (tilePowerOff t s)

/-- DOMAIN_RETRY: PWR_DOM_CTRL asks RETRY (R374). -/
def execDomainRetry (id : Nat) (s : State) : Host.Outcome State Fault Refusal := .next (domRetry id s)

/-- DOMAIN_OFF_REQUEST: PWR_DOM_CTRL asks OFF (R374). -/
def execDomainOffRequest (id : Nat) (s : State) : Host.Outcome State Fault Refusal := .next (domOff id s)

/-! ### The core voltage (R364, R365, R555) -/

/-- AVS_CFG_WRITE: PWR_AVS_CFG is written (R365). -/
def execAvsCfgWrite (v : Word) (s : State) : Host.Outcome State Fault Refusal := .next (writeAvsCfg v.toNat s)

/-- The regulator is commanded over AVSBus, and its voltage read back. -/
def commandVolts (mv : Nat) (s : State) : State := (s.modHub (fun h => { h with avsMv := mv })).emit (.avs mv)

/-- An AVSBus transaction has failed three retries (R365): FAULT, its count, event 0x1060 with operation and status word. -/
def avsFails (op st : Nat) (s : State) : State :=
  (((s.setFld PWR_AVS_STATUS.FAULT 1).inc PWR_AVS_FAULTS).intBit 6).raise 0x1060 1 [op, st]

/-- The target is not lowered while a tile is in an LPLL switch or a fast retrain (R364). -/
def mayLower (s : State) : Bool :=
  (List.range 8).all (fun t => (s.tile t).switchAt != some s.now) &&
    (List.finRange 128).all (fun n => (activeLinks s n).all (fun l => (s.link l).phase != 8))

/-- What the regulator is commanded now, with TARGET: none when nothing is to be sent (R364, R555). With ENABLE 0, 0.80 V once; while
the Porter is halted, VMAX where the highest temperature has risen 5 °C. -/
def nextVolts (want : Nat) (s : State) : Option (Nat × Nat) :=
  let mv := s.hub.avsMv
  if halted s then
    if s.flag PWR_AVS_CFG.ENABLE ∧ s.hub.haltTemp + 40 ≤ maxTemp s ∧ mv ≠ avsMax s then some (avsMax s, avsMax s) else none
  else if !s.flag PWR_AVS_CFG.ENABLE then (if s.hub.avsOnce then none else some (800, 800))
  else
    let aim := max (avsMin s) (min (avsMax s) want)
    let old := s.fld PWR_AVS_STATUS.TARGET
    let target := if aim < old ∧ !mayLower s then old else aim
    some (target, if mv < target then min target (mv + 10) else max target (mv - 10))

/-- AVS_UPDATE: the Porter recomputes the VDD_CORE target, `want` before the limits, and makes one step towards it; the output voltage
and current are read back, or the transaction fails (R364, R365). -/
def execAvsUpdate (want vout iout : Nat) (fail : Option (Nat × Nat)) (s : State) : Host.Outcome State Fault Refusal :=
  if s.hub.resetting || s.flag PWR_PHASE.FW_ROM || decide (s.fld PWR_PHASE.BOOT_STEP < 7) || s.flag PWR_AVS_STATUS.FAULT then .next s
  else
    let off := !s.flag PWR_AVS_CFG.ENABLE
    match nextVolts want s with
    | none => .next s
    | some (target, mv) =>
      let s := s.setFld PWR_AVS_STATUS.TARGET target
      let moved := mv != s.hub.avsMv || off
      let s := if moved && fail.all (fun f => f.1 != 1) then commandVolts mv s else s
      let s := if off then s.modHub (fun h => { h with avsOnce := true }) else s
      match fail with
      | some (op, st) => .next (avsFails op st (s.setFld PWR_AVS_STATUS.BUSY 0))
      | none =>
        let s := (s.setFld PWR_AVS_STATUS.VOUT vout).setFld PWR_AVS_IOUT.IOUT iout
        .next (s.setFld PWR_AVS_STATUS.BUSY (decide (mv ≠ target)).toNat)

/-! ### The temperature alert (R576) -/

/-- TEMP_ALERT_ASSERT: a powered sensor reads 108.0 °C or more: TEMP_ALERT_N is driven low, event 0x1080. -/
def execTempAlertAssert (s : State) : Host.Outcome State Fault Refusal :=
  match s.hub.tempAlert, (liveSensors s).find? (fun d => decide (864 ≤ sensorTemp s d)) with
  | none, some d =>
    let s' := s.modHub (fun h => { h with tempAlert := some s.now })
    .next (s'.raise 0x1080 1 [d.1, d.2, unsigned 32 (sensorTemp s d)])
  | _, _ => .next s

/-- TEMP_ALERT_RELEASE: every powered sensor reads 103.0 °C or less, event 0x1081. -/
def execTempAlertRelease (s : State) : Host.Outcome State Fault Refusal :=
  match s.hub.tempAlert with
  | none => .next s
  | some a =>
    if (liveSensors s).all (fun d => decide (sensorTemp s d ≤ 824)) then
      .next ((s.modHub (fun h => { h with tempAlert := none })).raise 0x1081 0 [unsigned 32 (maxTemp s), (s.now - a) / 1000])
    else .next s

/-! ### Pins, board test and the TAP (R416, R548 to R551, R576) -/

/-- The value of a cell of the boundary register as last updated; an open-drain output left unwritten is released. -/
def cellValue (s : State) (c : BoundaryCell) : Bool := ((s.hub.boundary.find? (fun x => x.1 == c)).map (·.2)).getD true

/-- An open-drain pin is driven low: by its own condition, or as the boundary register says while a board-test instruction is loaded;
HIGHZ releases it (R548, R550). -/
def pinLow (s : State) (c : BoundaryCell) (own : Bool) : Bool :=
  match s.hub.boardTest with
  | none => own
  | some ir => ir != 4 && !cellValue s c

/-- INT_N is driven low (R416): the summary is non-zero and MR_CFG.INT_PIN is 1; not in reset. -/
def intLow (s : State) : Bool :=
  pinLow s .intN (!s.hub.resetting && s.flag MR_CFG.INT_PIN && summary s != 0)

/-- TEMP_ALERT_N is driven low (R576). -/
def tempAlertLow (s : State) : Bool := pinLow s .tempAlertN s.hub.tempAlert.isSome

/-- The cells of the boundary register (R549). Their order in the chain is not given: this list's (DESIGN CHOICE, log entry 47). -/
def boundaryCells : List BoundaryCell :=
  (List.finRange 136).map .laneTx ++ (List.finRange 136).map .laneRx ++ [.resetN, .intN, .tempAlertN] ++
    (List.finRange 6).map .devid ++ [.avsClk, .avsMdata, .avsSdata, .refclk] ++ (List.finRange 4).map .ring

/-- The output pins: under a board-test instruction all follow the boundary register, the host lanes, INT_N, TEMP_ALERT_N and AVSBus, none
with HIGHZ (R548 to R550); else the device's own levels, AVSBus idle between its commands (R563). -/
def drivenPins (s : State) : List (BoundaryCell × Bool) :=
  match s.hub.boardTest with
  | none => [(.intN, !intLow s), (.tempAlertN, !tempAlertLow s), (.avsClk, false), (.avsMdata, true)]
  | some 4 => []
  | some _ => ((List.finRange 136).map BoundaryCell.laneTx ++ [BoundaryCell.intN, .tempAlertN, .avsClk, .avsMdata]).map
      (fun c => (c, cellValue s c))

/-- The pins with the host lanes' levels inverted or not. -/
def pinsAt (s : State) (inverted : Bool) : List (BoundaryCell × Bool) :=
  (drivenPins s).map (fun p => match p.1 with | .laneTx h => (.laneTx h, p.2 != inverted) | c => (c, p.2))

/-- Whether the host lanes are inverted, level after level, over so many TCK cycles in Run-Test/Idle: EXTEST_PULSE inverts them while the
TAP is in it, EXTEST_TRAIN at each TCK cycle, and both then return to the boundary register; no other instruction moves them (IEEE
1149.6, R4, R548). -/
def acLevels (ir idle : Nat) : List Bool :=
  if ir = 5 ∧ 0 < idle then [false, true, false]
  else if ir = 6 then (List.range (idle + 1)).map (fun i => i % 2 == 1) ++ (if idle % 2 = 1 then [false] else [])
  else [false]

/-- What a cell captures: the level of its pin. For an output that is the level the device drives; a transmitter of a host lane is captured
only while it follows the register (R549). -/
def captured (s : State) (c : BoundaryCell) : Bool :=
  ((drivenPins s).find? (fun x => x.1 == c)).elim (cellValue s c) (·.2)

/-- The data register that the loaded instruction selects, as captured, least significant bit first (R548, R552): IDCODE, the DAP
register, the boundary register, else the one bit of BYPASS. -/
def dataRegister (s : State) : List Bool :=
  match s.hub.ir with
  | 0x02 => bitsLsb 32 0x15120A5F
  | 0x20 => bitsLsb 66 (s.hub.dapState * 2 ^ 64 + s.hub.dapAddr * 2 ^ 32 + s.hub.dapData)
  | 0x00 | 0x01 | 0x05 | 0x06 => boundaryCells.map (captured s)
  | _ => [false]

/-- An instruction is loaded: its data register is captured and shifted out next. -/
def loadIr (ir : Nat) (s : State) : State :=
  let s := s.modHub (fun h => { h with ir := ir })
  s.emit (.tdo (dataRegister s))

/-- DAP_OPERATION: the DAP register is captured and shifted out, then Update-DR with OP, ADDR and WDATA (R552). -/
def execDapOperation (op a v : Nat) (s : State) : Host.Outcome State Fault Refusal :=
  let s := if s.hub.boardTest.isSome then s else loadIr 0x20 s
  match op % 4 with
  | 1 => .next (issue ⟨a, none, .dap⟩ noUpdate s)
  | 2 => .next (issue ⟨a, some (word v), .dap⟩ noUpdate s)
  | 3 => if s.hub.dapState = 1 ∧ s.hub.boardTest.isNone then .next (dapOverrun s) else .next s
  | _ => .next s

/-- The board-test state ends (R550): event 0xA003; each lane that acquired or served acquires anew; the
bypass stays closed until the ring inputs are in sync. -/
def endBoardTest (s : State) : State :=
  match s.hub.boardTest with
  | none => s
  | some ir =>
    let s := (s.modHub (fun h => { h with boardTest := none, rejoin := true })).setFld DBG_DAP_STATUS.BOARD_TEST 0
    let s := forEach (List.range 136) (fun h s =>
      let st := laneState s h
      if st = 1 ∨ st = 2 ∨ st = 5 then setLaneState h 1 (setLocks h 0 (s.modLane h (fun k => freshRx (freshTx k)))) else s) s
    s.raise 0xA003 1 [2, ir]

/-- The codes of the board-test instructions (R548, R550). -/
def isBoardTest (ir : Nat) : Bool := [0, 3, 4, 5, 6].contains ir

/-- BOARD_TEST_BEGIN: one of the board-test instructions is loaded with the boundary register (R548 to R550): the pins follow it, the
bypass closes, event 0xA003. -/
def execBoardTestBegin (load : BoardLoad) (s : State) : Host.Outcome State Fault Refusal :=
  let ir := load.ir
  if !isBoardTest ir || s.hub.boardTest == some ir then .next s
  else
    let s := endBoardTest s
    let s := s.modHub (fun h => { h with boardTest := some ir, boundary := load.cells, rejoin := false })
    let s := loadIr ir (dropSync (s.setFld DBG_DAP_STATUS.BOARD_TEST 1))
    .next ((forEach (acLevels ir load.idle) (fun i s => s.emit (.pins (pinsAt s i))) s).raise 0xA003 1 [1, ir])

/-- The instruction that ends a board test: a free value (log entry 27), BYPASS where that is a board-test code. -/
def endingIr (s : State) : Nat := let c := s.draw.1 % 256; if isBoardTest c then 0xFF else c

/-- BOARD_TEST_END: another instruction is loaded: IDCODE, SAMPLE/PRELOAD, DAP_ACCESS or BYPASS, as every other code acts (R548,
R550). -/
def execBoardTestEnd (s : State) : Host.Outcome State Fault Refusal :=
  let s := loadIr (endingIr s) (endBoardTest s.draw.2)
  .next (s.emit (.pins (drivenPins s)))

/-- TAP_RESET: TRST_N or Test-Logic-Reset: the TAP and DAP state and the board-test state only (R551). -/
def execTapReset (s : State) : Host.Outcome State Fault Refusal :=
  .next (endBoardTest (s.modHub (fun h => { h with dapState := 0, dapAddr := 0, dapData := 0, ir := 2 })))

end Sys2Proof.Machine
end

