-- ==== Sys2Proof/Machine/Boot.lean ====
section
/-! DEFINITION. The boot: what each of its nine steps does (R27, R364, R380 to R386, R497, R503 to R513, R536). -/
namespace Sys2Proof.Machine

/-! ### Loads from the MRAM (R504, R506, R522) -/

/-- The SOURCE of a load: 0 bank A, 1 bank B, 2 defaults. -/
def loadSource (bank : Option Nat) : Nat := bank.getD 2

/-- A bank that is CORRUPT or FORMAT at load: event 0x6001. -/
def reportBank (part b : Nat) (s : State) : State :=
  let st := nvBankState s part b
  if st < 2 then s else (s.intBit 13).raise 0x6001 1 [part, b, st, header s part b 4]

/-- A partition is loaded from a bank, or its defaults are used: what NV_LOAD_STATUS shows, events 0x6001 and 0x6002. -/
def loadPartition (part : Nat) (s : State) : State :=
  let bank := loadBank s part
  let v := nvBankState s part 1 * 16 + nvBankState s part 0 * 4 + loadSource bank
  let s := s.setFld ⟨NV_LOAD_STATUS, 8 * part + 7, 8 * part⟩ v
  let s := reportBank part 1 (reportBank part 0 s)
  if bank.isSome then s else (s.intBit 13).raise 0x6002 2 [part]

/-- The body of the bank that load takes. -/
def loadedBody (s : State) (part : Nat) : Option (List Nat) := (loadBank s part).map (bankBody s part)

/-- The entries of a CONFIG body (R508). -/
def imageEntries (body : List Nat) : List (Nat × Nat) :=
  (pieces8 (body.length / 8) body).map (fun bs => (ofBytesLsb (bs.take 4), ofBytesLsb (bs.drop 4)))

/-- The CONFIG image that stays in force until the next boot (R466). -/
def loadConfig (s : State) : State :=
  match loadBank s 1 with
  | none => s.modHub (fun h => { h with image := none })
  | some b => s.modHub (fun h => { h with image := some (header s 1 b 4, imageEntries (bankBody s 1 b)) })

/-- The keys of every item-target, ascending (R483). -/
def calKeys : List Nat :=
  [1, 2, 3, 4].flatMap (fun i => (List.range 512).map (fun g => i * 65536 + g)) ++
    (List.range 136).map (fun h => 5 * 65536 + h) ++
    (List.range 9).flatMap (fun d => (List.range 4).map (fun i => 6 * 65536 + d * 256 + i))

/-- The set points, t_last and COUNT of an item-target in a CALIB body that this device did not write: the layout of the body is the
firmware's own (R510), so they are free values; `n` is the first. -/
def foreignCal (n k : Nat) : CalSt :=
  let at_ (j : Nat) : Nat := Config.freeNat (n + 1024 * k + j)
  { CalSt.reset with
    points := (List.range (fieldCount (k / 65536))).map (fun f =>
      (List.range 5).map (fun i => signed 16 (at_ (5 * f + i) % 65536)))
    tLast := some (signed 16 (at_ 1000 % 65536)), count := at_ 1001 % 2 ^ 32, first := false }

/-- What CALIB gives is held from now on (R497); with defaults every item-target has no t_last. The age of a run begins at the load. -/
def loadCalib (s : State) : State :=
  match loadedBody s 2 with
  | none => s
  | some body =>
    match s.calSaved.find? (fun x => x.1 == body) with
    | some (_, m) => { s with cals := calKeys.map (fun k =>
        (k, { SMap.get (fun _ => CalSt.reset) m k with first := false, at_ := s.now })) }
    | none => { s with free := s.free + 2 ^ 29, cals := calKeys.map (fun k => (k, { foreignCal s.free k with at_ := s.now })) }

/-! ### The steps (R380) -/

/-- Step 1: ACLK is on a qualified REFCLK; step 2: the hub and ring PLLs have locked, the hub core runs, the Guestbook finds its place
(R517), a supply loss is recorded (R386). -/
def bootClocks (s : State) : State :=
  let s := findNext ((s.setFld CLK_STATUS.HUBPLL_LOCK 1).setFld CLK_STATUS.RINGPLL_LOCK 1)
  if s.hub.railsLost = 0 then s
  else (s.raise 0x1061 2 [s.hub.railsLost]).modHub (fun h => { h with railsLost := 0 })

/-- Why the recovery firmware of the boot ROM runs (R381, R382): 1 no valid firmware, 2 the watchdog limit, 0 it does not. -/
def romReason (s : State) : Nat := if s.hub.watchdogLimit then 2 else if (loadBank s 0).isNone then 1 else 0

/-- Step 3: the firmware is chosen and loaded into both Porter pairs. -/
def bootFirmware (s : State) : State :=
  let reason := romReason s
  let bank := (loadBank s 0).getD 0
  let version := header s 0 bank 16
  let s := (loadPartition 0 s).setFld BIST_PORTER_STATUS.STANDBY_READY 1
  if reason = 0 then (s.setFld PWR_PHASE.FW_BANK bank).setReg HUB_FW_VERSION (word version)
  else
    let s := s.setFld ⟨NV_LOAD_STATUS, 1, 0⟩ 2
    ((s.setFld PWR_PHASE.FW_ROM 1).setReg HUB_FW_VERSION (word 0xFFFF00A1)).raise 0x0003 2 [reason]

/-- Step 4: CONFIG, CALIB and REPAIR are loaded; operating seconds go on from the stored count (R513). -/
def bootLoads (s : State) : State :=
  let s := loadPartition 3 (loadCalib (loadPartition 2 (loadConfig (loadPartition 1 s))))
  let stored := nvWord s 0x7A0000
  s.modHub (fun h => { h with opBase := stored + 60, opAt := s.now })

/-- A lane of a type-3 REPAIR entry is FAILED and stays so (R280, R509). -/
def barLane (h : Nat) (s : State) : State :=
  let s := setLaneState h 3 (s.modLane h (fun k => { k with barred := true }))
  if h < 128 then s else setSpareState (h - 128) 5 s

/-- The spare wires of a tile link are assigned from the type-4 entries of REPAIR, in order: wire and spare (R27, R380, R509). -/
def assignWires (t : Nat) (s : State) : State :=
  let ws := ((repairs s).filter (fun r => r.ty == 4 && r.unit == t)).map (fun r => (r.elem, r.spare))
  s.modTile t (fun k => { k with wires := ws })

/-- A tile comes up with its link, or its link has failed (R27, R366, R372). -/
def bootTile (failed : List Tile) (t : Nat) (s : State) : State :=
  let s := rebuildSlices t (assignWires t s)
  if failed.any (fun x => x.val == t) then
    let s := s.modTile t (fun k => { k with linkDown := true })
    ((s.modDom (0x020 + t) (fun d => { d with state := 5 })).setFld PWR_DOMAIN_LAST_FAULT.ID (0x020 + t)).intBit 6
  else tileUp t s

/-- Step 5: REPAIR applied in order, tiles powered, tile links up. -/
def bootRepair (failed : List Tile) (s : State) : State :=
  let bad := (repairStored s).filter (fun r => !repairValid r)
  let s := rebuildBanks (s.addTo NV_REPAIR_SKIPPED bad.length)
  let s := forEach ((repairs s).filter (fun r => r.ty == 3)) (fun r s => barLane r.unit s) s
  forEach (List.range 8) (bootTile failed) s

/-- One entry of the CONFIG image is written, or skipped and counted (R508). -/
def bootEntry (e : Nat × Nat) (s : State) : State :=
  if isCfgReg e.1 then ownWrite e.1 (imageValue e.1 e.2) s else s.inc NV_CONFIG_SKIPPED

/-- Step 7: trims and calibration values, the CONFIG image, its commit. -/
def bootConfig (s : State) : State :=
  let s := forEach s.cals (fun x s => setTrims (x.1 / 65536) (x.1 % 65536) s) s
  let img := (s.hub.image.map (fun x => x.2)).getD []
  endCommit 2 none (forEach img bootEntry s)

/-- Step 8: VDD_CORE is moved from 0.80 V towards its target, by AVS_UPDATE from here on (R364). -/
def bootVolts (s : State) : State := s.modHub (fun h => { h with avsMv := 800, avsOnce := false })

/-- Ports and host lanes begin from the ENABLE values of the CONFIG image (R380), outside RECOVERY (R383). -/
def beginLine (s : State) : State :=
  if s.fld PWR_PHASE.PHASE = 3 then s
  else
    let s := forEach ((List.range 128).filter (fun h => s.flag (HL_CFG.ENABLE h))) (fun h s => enableLane h (s.setFld (HL_CFG.ENABLE h) 0)) s
    let s := forEach ((List.range 8).filter (isWarm s)) (fun g s =>
      let v := (s.reg (HL_SPARE_CFG (spareLane g))).toNat
      writeSpareCfg g v (s.setFld (HL_SPARE_CFG.MODE (spareLane g)) 0)) s
    forEach ((List.finRange 128).filter (fun n : Port => s.flag (PORT_STARTUP_CFG.ENABLE n))) startPort s

/-- The phase that a boot ends in (R384). -/
def endPhase (s : State) : Nat :=
  if s.flag PWR_PHASE.FW_ROM then 3
  else match s.fld PWR_NEXT_PHASE.NEXT with
    | 1 => 2
    | 2 => 3
    | _ => 1

/-- Step 9: the phase is set, READY is set and reported, event 0x0001 recorded; then ports and lanes begin. -/
def bootReady (s : State) : State :=
  let us := s.now - s.hub.bootAt
  let bank := if s.flag PWR_PHASE.FW_ROM then 2 else s.fld PWR_PHASE.FW_BANK
  let s := ((s.setFld PWR_PHASE.PHASE (endPhase s)).setFld PWR_PHASE.READY 1).setReg PWR_BOOT_TIME (word us)
  let s := (s.setFld PWR_BOOT_FAILS.COUNT 0).setFld PWR_NEXT_PHASE.NEXT 0
  let s := s.modHub (fun h => { h with watchdogLimit := false })
  let s := s.raise 0x0001 0 [s.fld PWR_PHASE.PHASE, us, bank, s.fld PWR_RESET_CAUSE.CAUSE]
  beginLine (askNotice 2 0 us s)

/-- The step that follows: a boot from the boot ROM skips steps 5 to 8 (R381). -/
def nextStep (s : State) : Nat :=
  let k := s.fld PWR_PHASE.BOOT_STEP
  if k = 4 ∧ s.flag PWR_PHASE.FW_ROM then 9 else k + 1

/-- A step can end: the clocks of steps 1, 2 and 5 need a qualified REFCLK (R338, R339, R380); steps after the load of the firmware
need a Porter that runs (R555). -/
def stepEnds (s : State) : Bool :=
  let k := nextStep s
  !s.hub.resetting && !s.flag PWR_PHASE.READY && (s.flag CLK_STATUS.REF_QUAL || !(k == 1 || k == 2 || k == 5)) && !halted s

/-- What a step does. -/
def bootStep (k : Nat) (failed : List Tile) (s : State) : State :=
  match k with
  | 2 => bootClocks s
  | 3 => bootFirmware s
  | 4 => bootLoads s
  | 5 => bootRepair failed s
  | 7 => bootConfig s
  | 8 => bootVolts s
  | 9 => bootReady s
  | _ => s

/-- BOOT_STEP_DONE: the boot step that runs ends; `failedLinks` are the tiles whose link does not come up in step 5. In step 6 every
Hostel word is written, so that no word carries an error. -/
def execBootStepDone (failedLinks : List Tile) (s : State) : Host.Outcome State Fault Refusal :=
  if !stepEnds s then .next s
  else
    let k := nextStep s
    .next ((bootStep k failedLinks s).setFld PWR_PHASE.BOOT_STEP k)

end Sys2Proof.Machine
end

