-- ==== Sys2Proof/Machine/Ring.lean ====
section
/-! DEFINITION. The management ring: input sync, breaks, packets received and forwarded, ring control, the command queue, retention,
notices (R387 to R420). -/
namespace Sys2Proof.Machine

/-! ### Inputs (R389, R394, R409) -/

/-- The registers of an input. -/
def ringSync (r : Nat) : Fld := if r = 0 then MR_STATUS.MR0_SYNC else MR_STATUS.MR1_SYNC
def ringBroken (r : Nat) : Fld := if r = 0 then MR_STATUS.MR0_BREAK else MR_STATUS.MR1_BREAK
def ringCodeErr (r : Nat) : Nat := if r = 0 then MR0_CODE_ERR else MR1_CODE_ERR
def ringGlitches (r : Nat) : Nat := if r = 0 then MR0_GLITCH else MR1_GLITCH

/-- When an input lost sync. -/
def ringLost (s : State) (r : Nat) : Option Nat := if r = 0 then s.hub.lost0 else s.hub.lost1
def setRingLost (r : Nat) (t : Option Nat) (s : State) : State :=
  s.modHub (fun h => if r = 0 then { h with lost0 := t } else { h with lost1 := t })

/-- An input comes into sync: the end of a break, with event 0x9002 and its notice, or of a glitch, which is counted (R394, R409). -/
def inputSync (r : Nat) (s : State) : State :=
  if bypassForced s || s.flag (ringSync r) then s
  else
    let lost := ringLost s r
    let s := setRingLost r none (s.setFld (ringSync r) 1)
    let s := if s.flag MR_STATUS.MR0_SYNC && s.flag MR_STATUS.MR1_SYNC then s.modHub (fun h => { h with rejoin := false }) else s
    match lost with
    | none => s
    | some t =>
      if s.flag (ringBroken r) then
        askNotice 4 r 0 (((s.setFld (ringBroken r) 0).intBit 10).raise 0x9002 0 [r, s.now - t])
      else s.inc (ringGlitches r)

/-- RING_INPUT_SYNC: 64 valid idle pairs in a row (R389). -/
def execRingInputSync (r : Fin 2) (s : State) : Host.Outcome State Fault Refusal := .next (inputSync r s)

/-- RING_SYNC_LOSS: an input loses sync, by code errors, which are counted, or by an absent signal (R389). -/
def execRingSyncLoss (r : Fin 2) (errs : Nat) (s : State) : Host.Outcome State Fault Refusal :=
  if bypassed s || !s.flag (ringSync r) then .next s
  else .next (setRingLost r (some s.now) ((s.setFld (ringSync r) 0).addTo (ringCodeErr r) errs))

/-- RING_GLITCH: a loss of sync ends before 20 µs (R394). -/
def execRingGlitch (r : Fin 2) (s : State) : Host.Outcome State Fault Refusal :=
  if (ringLost s r).isNone || s.flag (ringBroken r) then .next s else .next (inputSync r s)

/-- RING_BREAK: a loss of sync has lasted 20 µs (R409): event 0x9001 and a RING_BREAK notice. -/
def execRingBreak (r : Fin 2) (s : State) : Host.Outcome State Fault Refusal :=
  if bypassed s || (ringLost s r).isNone || s.flag (ringBroken r) then .next s
  else
    let s := ((s.setFld (ringBroken r) 1).inc MR_BREAKS).intBit 10
    .next (askNotice 3 r 0 (s.raise 0x9001 1 [r]))

/-- RING_RESTORED: a broken input regains sync (R409). -/
def execRingRestored (r : Fin 2) (s : State) : Host.Outcome State Fault Refusal :=
  if !s.flag (ringBroken r) then .next s else .next (inputSync r s)

/-! ### Packets (R391, R395, R398, R399, R412) -/

/-- The fields of a packet's header (R398). -/
def pkByte (pk : Packet) (i : Nat) : Nat := pk.bytes.getD i 0
def pkDest (pk : Packet) : Nat := pk.bytes.getD 1 0xFE
def pkSrc (pk : Packet) : Nat := pkByte pk 2
def pkOp (pk : Packet) : Nat := pkByte pk 4 + 256 * pkByte pk 5
def pkLen (pk : Packet) : Nat := pkByte pk 7 + 256 * pkByte pk 8
def pkBody (pk : Packet) : List Nat := (pk.bytes.drop 16).take (pkLen pk)
def pkCrc (pk : Packet) : Nat := ofBytesLsb ((pk.bytes.drop (16 + pkLen pk)).take 4)

/-- The source is a host agent; a device. -/
def fromHost (pk : Packet) : Bool := decide (0x80 ≤ pkSrc pk ∧ pkSrc pk ≤ 0x87)
def fromDevice (pk : Packet) : Bool := decide (pkSrc pk ≤ 0x40)

/-- The header is intact (R399). -/
def intact (pk : Packet) : Bool :=
  pk.clean && pkByte pk 0 == 0xC3 && decide (pkLen pk ≤ 1024) && pk.bytes.length == 20 + pkLen pk &&
    (if fromHost pk then ((pk.bytes.drop 9).take 7).all (· == 0) else fromDevice pk)

/-- The CRC passes (R398): a character received in error is none of a good packet. -/
def crcPasses (pk : Packet) : Bool := pk.bytes.all (fun b => decide (b < 256)) && crc32c (pk.bytes.take (16 + pkLen pk)) == pkCrc pk

/-- The packet is addressed to the device alone; to all (R395, R396). -/
def toMe (s : State) (pk : Packet) : Bool := s.flag MR_ID.ASSIGNED && pkDest pk == s.fld MR_ID.DEVID
def toAll (pk : Packet) : Bool := pkDest pk == 0xFF

/-- Packets arrive at an input: the bypass is open and the input in sync (R389, R392). -/
def hears (s : State) (r : Nat) : Bool := !bypassed s && s.flag (ringSync r)

/-- The output that the stream of an input leaves on; none where WRAP puts the other stream there (R412). -/
def through (s : State) (r : Nat) : Option Nat :=
  match wrapNow s with
  | 1 => if r = 1 then some 0 else none
  | 2 => if r = 0 then some 1 else none
  | _ => some r

/-- Forward bytes. -/
def forwardBytes (r : Nat) (bs : List Nat) (s : State) : State :=
  match through s r with
  | some o => s.emit (.forward o bs (ringCodes s.out o bs))
  | none => s

/-- The code errors of a packet are counted, and an input whose codes had four errors in 16 consecutive characters loses sync (R389). -/
def countErrs (r : Nat) (pk : Packet) (s : State) : State :=
  let s := s.addTo (ringCodeErr r) pk.errs
  if pk.burst then setRingLost r (some s.now) (s.setFld (ringSync r) 0) else s

/-- PACKET_FORWARD: a packet that is not for the device is forwarded (R391, R395). -/
def execPacketForward (r : Fin 2) (rx : RingRx) (s : State) : Host.Outcome State Fault Refusal :=
  let pk := packetOf rx
  if !hears s r || toMe s pk || toAll pk then .next s else .next (forwardBytes r pk.bytes (countErrs r pk s))

/-! ### Retransmissions and the queue (R400, R404) -/

/-- The commands in use: queued, in an executor, waiting for a claim. -/
def waitingPkts (s : State) : List Pkt := s.waiting.filterMap (fun w => match w.why with | .command p => some p | _ => none)
def inUse (s : State) : List Pkt := s.queued ++ s.running ++ waitingPkts s ++ s.granted.map (fun x => x.1)

/-- Two commands share source and tag; one is a retransmission of the other (R404). -/
def sameTag (p q : Pkt) : Bool := p.call.src == q.call.src && p.call.tag == q.call.tag
def sameCmd (p q : Pkt) : Bool := sameTag p q && p.op == q.op && p.call.body.length == q.call.body.length && p.crc == q.crc

/-- The final reply goes on the ring of the last copy (R404, R405). -/
def moveRing (q : Pkt) (s : State) : State :=
  let f (p : Pkt) : Pkt := if sameCmd p q then { p with call := { p.call with ring := q.call.ring } } else p
  { s with
    queued := s.queued.map f, running := s.running.map f, granted := s.granted.map (fun x => (f x.1, x.2)),
    waiting := s.waiting.map (fun w => match w.why with | .command p => { w with why := .command (f p) } | _ => w) }

/-- A command arrives intact (R400, R404). -/
def takeCommand (p : Pkt) (s : State) : State :=
  if (inUse s).any (fun q => sameCmd q p) then (moveRing p s).inc MR_REPLAY
  else match s.kept.find? (fun k => sameCmd k.pkt p) with
    | some k => (emitReply p.call p.op k.status false true k.body s).inc MR_REPLAY
    | none =>
      if (inUse s).any (fun q => sameTag q p) then (refuse p.call p.op 3 s).inc MR_TAG_REUSE
      else if 32 ≤ s.queued.length + s.running.length then (refuse p.call p.op 1 s).inc MR_BUSY
      else { s with queued := s.queued ++ [p] }

/-- The opcode belongs to ring control (R398, R423). -/
def isControl (op : Nat) : Bool := decide (0xF0 ≤ op ∧ op ≤ 0xFF)

/-- The command a packet carries. -/
def pkCommand (r : Nat) (pk : Packet) : Pkt := ⟨⟨r, pkSrc pk, pkByte pk 3, pkByte pk 6 % 8, pkBody pk⟩, pkOp pk, pkCrc pk⟩

/-- PACKET_RX: a command addressed to the device, or to all, which is forwarded too (R395, R399). What another device sends is no
command and has no effect here (log entry 28). -/
def execPacketRx (r : Fin 2) (rx : RingRx) (s : State) : Host.Outcome State Fault Refusal :=
  let pk := packetOf rx
  if !hears s r || !(toMe s pk || toAll pk) || isControl (pkOp pk) then .next s
  else
    let s := countErrs r pk s
    let s := if toAll pk then forwardBytes r pk.bytes s else s
    if !intact pk then .next (s.inc MR_HDR_DROP)
    else if !fromHost pk then .next s
    else if !crcPasses pk then .next ((refuse (pkCommand r pk).call (pkOp pk) 4 s).inc MR_CRC_ERR)
    else .next (takeCommand (pkCommand r pk) s)

/-! ### Ring control (R397, R410, R417, R423) -/

/-- A ring-control packet of an opcode arrives and is broadcast, or reserved ones to this device. -/
def controlOf (s : State) (r : Nat) (pk : Packet) (op : Nat) : Bool := hears s r && pkOp pk == op

/-- The packet with another body and the CRC moved by the change (R397, R417). -/
def rewrite (pk : Packet) (body : List Nat) : List Nat :=
  let head := pk.bytes.take 16
  let crc := pkCrc pk ^^^ crc32c (head ++ pkBody pk) ^^^ crc32c (head ++ body)
  head ++ body ++ bytesLsb 4 crc

/-- Whether a ring-control packet with a body length acts; failures are counted (R399). -/
def controlActs (pk : Packet) (len : Nat) : Bool := intact pk && crcPasses pk && toAll pk && pkLen pk == len && fromHost pk
def countBad (pk : Packet) (s : State) : State :=
  if !intact pk then s.inc MR_HDR_DROP else if !crcPasses pk then s.inc MR_CRC_ERR else s

/-- The device takes its place at an ENUMERATE (R397): COUNT and MAP as it forwards them. -/
def enumerateHere (r count map : Nat) (s : State) : (Nat × Nat) × State :=
  let s := (s.setFld MR_ID.POSITION count).setFld MR_ID.POS_RING r
  let free := ((List.range 64).find? (fun i => !bit map i)).getD 0
  let s := if s.fld MR_ID.STRAP = 0x3F then
      (if map % 2 ^ 64 = 2 ^ 64 - 1 then s
       else ((s.setFld MR_ID.DEVID free).setFld MR_ID.ASSIGNED 1).setFld MR_ID.ENUMERATED 1)
    else if bit map (s.fld MR_ID.DEVID) then
      ((s.setFld MR_STATUS.DUP_DEVID 1).intBit 10).raise 0x9003 2 [s.fld MR_ID.DEVID, count]
    else s
  let map' := if s.flag MR_ID.ASSIGNED then setBit map (s.fld MR_ID.DEVID) true else map
  (((count + 1) % 256, map'), s)

/-- ENUMERATE (R397). -/
def execEnumerate (r : Fin 2) (rx : RingRx) (s : State) : Host.Outcome State Fault Refusal :=
  let pk := packetOf rx
  if !controlOf s r pk 0xF0 then .next s
  else
    let s := countErrs r pk s
    if controlActs pk 9 then
      let (x, s) := enumerateHere r ((pkBody pk).getD 0 0) (ofBytesLsb ((pkBody pk).drop 1)) s
      .next (forwardBytes r (rewrite pk (x.1 :: bytesLsb 8 x.2)) s)
    else if toMe s pk then .next (countBad pk s)
    else .next (if toAll pk then countBad pk (forwardBytes r pk.bytes s) else forwardBytes r pk.bytes s)

/-- SEQ_EPOCH is accepted or ignored (R417, R418). -/
def takeEpoch (epoch chain hold : Nat) (s : State) : State :=
  let old := bits (s.val64 MR_SEQ) 47 16
  let s := if !s.flag MR_STATUS.EPOCH_SET || later epoch old then
      let s := (s.set64 MR_SEQ (epoch % 2 ^ 32 * 2 ^ 16)).setFld MR_STATUS.EPOCH_SET 1
      (s.setFld MR_STATUS.SEQ_STALE 0).modHub (fun h => { h with epochAt := s.now, epochHold := hold / 100 })
    else s.inc MR_EPOCH_IGNORED
  (s.setFld MR_STATUS.CHAIN chain).setFld MR_STATUS.LARGE_CHAIN (decide (16 < chain)).toNat

/-- SEQ_EPOCH: `waited` is the time in ns the packet waited behind a packet of the device's own; HOLD grows by it in every packet that
is forwarded (R417). -/
def execSeqEpoch (r : Fin 2) (rx : RingRx) (waited : Nat) (s : State) : Host.Outcome State Fault Refusal :=
  let pk := packetOf rx
  if !controlOf s r pk 0xF1 then .next s
  else
    let s := countErrs r pk s
    let b := pkBody pk
    let hold := ofBytesLsb ((b.drop 5).take 2)
    let out := if intact pk && toAll pk && pkLen pk == 7 then
        rewrite pk (b.take 5 ++ bytesLsb 2 (min 0xFFFF (hold + (waited + 9) / 10)))
      else pk.bytes
    let s := if toMe s pk then s else forwardBytes r out s
    if controlActs pk 7 then .next (takeEpoch (ofBytesLsb (b.take 4)) (b.getD 4 0) hold s)
    else .next (if toMe s pk || toAll pk then countBad pk s else s)

/-- RING_PING is forwarded and never consumed (R410). -/
def execRingPing (r : Fin 2) (rx : RingRx) (s : State) : Host.Outcome State Fault Refusal :=
  let pk := packetOf rx
  if !controlOf s r pk 0xF2 then .next s
  else
    let s := forwardBytes r pk.bytes (countErrs r pk s)
    .next (if toAll pk then countBad pk s else s)

/-- RING_CONTROL_RESERVED: opcodes 0x00F3 to 0x00FF are forwarded as R395 requires and otherwise ignored (R423). -/
def execRingControlReserved (r : Fin 2) (rx : RingRx) (s : State) : Host.Outcome State Fault Refusal :=
  let pk := packetOf rx
  if !hears s r || !decide (0xF3 ≤ pkOp pk ∧ pkOp pk ≤ 0xFF) then .next s
  else
    let s := countErrs r pk s
    let s := if toMe s pk then s else forwardBytes r pk.bytes s
    .next (if toMe s pk || toAll pk then countBad pk s else s)

/-! ### Executors (R400, R401) -/

/-- The opcodes of Command Reference (R423). -/
def opcodes : List Nat :=
  List.range 9 ++ [0x0010, 0x0011] ++ (List.range 10).map (· + 0x0100) ++ (List.range 10).map (· + 0x0200) ++
    (List.range 9).map (· + 0x0300) ++ (List.range 4).map (· + 0x0400) ++ (List.range 5).map (· + 0x0500) ++
    (List.range 7).map (· + 0x0600) ++ (List.range 4).map (· + 0x0700) ++ (List.range 6).map (· + 0x0800) ++
    (List.range 7).map (· + 0x0900) ++ (List.range 3).map (· + 0x0A00)

/-- READY is set: a command is no longer answered NOT_READY (R407). -/
def isReady (s : State) : Bool := s.flag PWR_PHASE.READY

/-- A FENCE command is in an executor. -/
def fenced (s : State) : Bool := s.running.any (fun p => bit p.call.flags 0)

/-- COMMAND_START: an executor takes the oldest queued command (R400). FENCE waits for the commands before it, and those behind it
wait; a command that waits for a claim holds no FENCE (log entry 17). An opcode that is not defined is answered BAD_OPCODE, before READY
NOT_READY. -/
def execCommandStart (s : State) : Host.Outcome State Fault Refusal :=
  match s.queued with
  | [] => .next s
  | p :: rest =>
    if halted s || s.hub.resetDue || s.hub.resetting || decide (4 ≤ s.running.length) || fenced s ||
        (bit p.call.flags 0 && !s.running.isEmpty) then .next s
    else
      let s := { s with queued := rest, running := s.running ++ [p] }
      if opcodes.contains p.op then .next s else .next (finalReply p (if isReady s then 2 else 9) [] s)

/-- The long commands (R401, R425 to R444). -/
def isLong (op : Nat) : Bool :=
  [0x0004, 0x0205, 0x0300, 0x0302, 0x0400, 0x0403, 0x0604, 0x0606, 0x0903, 0x0904].contains op

/-- COMMAND_TIMEOUT: a command in an executor has run 150 µs: TIMEOUT; what it changed stays (R401). A halt counts toward no limit. -/
def execCommandTimeout (src tag : Nat) (s : State) : Host.Outcome State Fault Refusal :=
  match s.running.find? (fun p => p.call.src == src && p.call.tag == tag) with
  | none => .next s
  | some p => if isLong p.op || halted s then .next s else .next (finalReply p 7 [] s)

/-- REPLY_RETENTION_EXPIRE: the oldest retained reply is 10 ms old (R404). -/
def execReplyRetentionExpire (s : State) : Host.Outcome State Fault Refusal := .next { s with kept := s.kept.drop 1 }

/-! ### Notices (R414 to R418) -/

/-- NOTICE_SEND: a notice that is due is sent: READY, RING_BREAK and RING_RESTORED in the order they fell due, then INTERRUPT when the
summary has gained a bit (R415, R459); none while the bypass is closed. -/
def execNoticeSend (s : State) : Host.Outcome State Fault Refusal :=
  if bypassed s then .next s
  else match s.hub.notices with
    | (ty, ring, arg) :: rest => .next (newNotice ty ring arg (s.modHub (fun h => { h with notices := rest })))
    | [] =>
      let sum := summary s
      if sum &&& s.hub.notified = sum then .next s
      else .next (newNotice 1 0 0 (s.modHub (fun h => { h with notified := sum })))

/-- INT_REPEAT_EXPIRE: the INTERRUPT notice is repeated with its INT_SEQ while the summary is not zero (R415). -/
def execIntRepeatExpire (s : State) : Host.Outcome State Fault Refusal :=
  if bypassed s || s.fld MR_CFG.INT_REPEAT == 0 || summary s == 0 || s.hub.notified == 0 then .next s
  else .next (sendNotice s.hub.intLast 1 0 0 s)

/-- SEQ_TICK_SATURATE: TICK reaches 0xFFFF: SEQ_STALE, event 0x9005 with the EPOCH held (R417, R418). -/
def execSeqTickSaturate (s : State) : Host.Outcome State Fault Refusal :=
  if s.flag MR_STATUS.SEQ_STALE then .next s
  else
    let s := (s.setFld MR_STATUS.SEQ_STALE 1).modHub (fun h => { h with epochHold := max h.epochHold 0xFFFF })
    .next (s.raise 0x9005 1 [bits (s.val64 MR_SEQ) 47 16])

end Sys2Proof.Machine
end

