-- ==== Sys2Proof/Machine/CmdOps.lean ====
section
/-! DEFINITION. What the ring commands share: their gate, parameters, register accesses, claims, and what ends the activity of a job or
of a claim (R407, R421 to R431, R443). -/
namespace Sys2Proof.Machine

/-! ### Parameters and results (R421, R422) -/

/-- A field of one, two or four bytes of a command's parameters. -/
def u8 (p : Pkt) (i : Nat) : Nat := p.call.body.getD i 0
def u16 (p : Pkt) (i : Nat) : Nat := ofBytesLsb ((p.call.body.drop i).take 2)
def u32 (p : Pkt) (i : Nat) : Nat := ofBytesLsb ((p.call.body.drop i).take 4)

/-- The length of the parameters. -/
def paramLen (p : Pkt) : Nat := p.call.body.length

/-- The numbers that a mask of `n` bytes from an offset names, ascending. -/
def maskItems (p : Pkt) (off n : Nat) : List Nat :=
  (List.range (8 * n)).filter (fun i => bit (u8 p (off + i / 8)) (i % 8))

/-- BAD_PARAM. -/
def badParam (p : Pkt) (s : State) : State := finalReply p 3 [] s

/-- OK with results. -/
def answer (p : Pkt) (body : List Nat) (s : State) : State := finalReply p 0 body s

/-- The phases S T R, S T, T, S of Command Reference as values of PHASE. -/
def inSTR : List Nat := [1, 2, 3]
def inST : List Nat := [1, 2]

/-- A command is executed (R407, R424, R555): before READY it is answered NOT_READY, in a phase not its own LOCKED, with a LEN that its
layout does not have BAD_PARAM. While the Porter is halted, and once a DEVICE_RESET is due, none is executed. -/
def gate (op : Nat) (phases : List Nat) (len : Nat → Bool) (c : Call) (run : Pkt → State → State) (s : State) :
    Host.Outcome State Fault Refusal :=
  if halted s || s.hub.resetting || s.hub.resetDue then .next s
  else
    let p := pktOf s op c
    if !isReady s then .next (finalReply p 9 [] s)
    else if !phases.contains (s.fld PWR_PHASE.PHASE) then .next (finalReply p 5 [] s)
    else if !len (paramLen p) then .next (badParam p s)
    else .next (run p s)

/-! ### Register accesses of a command (R423, R425) -/

/-- Make the domains that an address lies in ready, a tile before what lies on it: a status, 0 when it can be served (R369 to R372,
R378). -/
def readyFor : Nat → Nat → State → Nat × State
  | 0, _, s => (0, s)
  | k + 1, a, s =>
    match reach s .ring a with
    | .go => (0, s)
    | .wait ids => readyFor k a (wakeNow ids s)
    | .notReady => (9, s)
    | .fault => (8, s)
    | .unmapped => (3, s)

/-- Make every address of a list ready. -/
def needs : List Nat → State → Nat × State
  | [], s => (0, s)
  | a :: as, s =>
    match readyFor 3 a s with
    | (0, s) => needs as s
    | (st, s) => (st, s)

/-- An item of a command that goes on with the registers ready, or fails with the status that says why they are not. -/
def itemWithRegs (as : List Nat) (go : State → State) (s : State) : Nat × State :=
  match needs as s with
  | (0, s) => (0, go s)
  | (st, s) => (st, s)

/-- Go on with the registers ready, or answer why they are not. -/
def withRegs (p : Pkt) (as : List Nat) (go : State → State) (s : State) : State :=
  match needs as s with
  | (0, s) => go s
  | (st, s) => finalReply p st [] s

/-- Read a register as a command does, and several, as bytes. -/
def readWord (a : Nat) (s : State) : Nat × State :=
  let (v, s) := busRead .ring a 0 s
  (v.toNat, s)
def readBytes : List Nat → State → List Nat × State
  | [], s => ([], s)
  | a :: as, s =>
    let (v, s) := readWord a s
    let (vs, s) := readBytes as s
    (bytesLsb 4 v ++ vs, s)

/-- Read registers and answer their words. -/
def answerRegs (p : Pkt) (as : List Nat) (s : State) : State :=
  let (bs, s) := readBytes as s
  answer p bs s
def readRegs (p : Pkt) (as : List Nat) (s : State) : State := withRegs p as (answerRegs p as) s

/-- Write a register as a command does. -/
def writeWord (a v : Nat) (s : State) : State := (busWrite .ring a v noUpdate s).2

/-- What a register holds in its writable fields, apart from W1C bits and doorbells. -/
def keepWord (s : State) (a : Nat) : Nat :=
  match regAt a with
  | some (_, _, r, _) => (r.fields.filter (fun f => f.acc == .rw || f.acc == .rwh)).foldl
      (fun w f => insertBits w f.hi f.lo (bits (s.reg a).toNat f.hi f.lo)) 0
  | none => 0

/-- Write some fields of a register; the others keep their values, and no W1C bit or doorbell of it acts (R425). -/
def putFields (a : Nat) (fvs : List (Fld × Nat)) (s : State) : State :=
  if fvs.isEmpty then s else writeWord a (fvs.foldl (fun w x => insertBits w x.1.hi x.1.lo x.2) (keepWord s a)) s

/-- The fields whose APPLY bit is set (R422). -/
def applied (apply : Nat) (xs : List (Nat × Fld × Nat)) : List (Fld × Nat) :=
  (xs.filter (fun x => bit apply x.1)).map (fun x => x.2)

/-- Every value fits its field; one that does not is out of range (R408). -/
def fits (fvs : List (Fld × Nat)) : Bool := fvs.all (fun x => decide (x.2 < 2 ^ (x.1.hi + 1 - x.1.lo)))

/-- The words from one address to another. -/
def wordsFrom (lo hi : Nat) : List Nat := (List.range ((hi - lo) / 4 + 1)).map (fun i => lo + 4 * i)

/-- A counter of access type RW is written to 0, a 64-bit one both words at once; other registers are left (R434, R455). -/
def clearCounter (a : Nat) (s : State) : State :=
  match regAt a with
  | some (_, _, r, _) =>
    if r.fields.any (fun f => f.acc == .rw) then
      match r.half with
      | .whole => writeWord a 0 s
      | .low => writeWord a 0 (writeWord (a + 4) 0 s)
      | .high => s
    else s
  | none => s

/-- The multi header (R426). -/
def multiHeader (done st : Nat) : List Nat := bytesLsb 2 done ++ [st, 0]

/-- Carry out items in order until one fails: how many were done and the status of the one that failed (R426). -/
def doItems {α : Type} (f : α → State → Nat × State) : List α → Nat → State → Nat × Nat × State
  | [], done, s => (done, 0, s)
  | x :: xs, done, s =>
    match f x s with
    | (0, s) => doItems f xs (done + 1) s
    | (st, s) => (done, st, s)

/-- A multi-item command: OK, or PARTIAL at the first item that fails (R426). -/
def multi {α : Type} (p : Pkt) (f : α → State → Nat × State) (xs : List α) (s : State) : State :=
  let (done, st, s) := doItems f xs 0 s
  finalReply p (if st = 0 then 0 else 10) (multiHeader done st) s

/-! ### Claims (R402, R430, R431, R540 to R542) -/

/-- A wake cause for the links of a port, and what they show of it. -/
def wakeShown (n : Port) (cause : Nat) (s : State) : State :=
  forEach (activeLinks s n) showLink (wakePort n cause s)

/-- A grant on a pair of a port in an EEI depth, or with an agreed entry, wakes the port: DIAG for a cable claim, else CONCIERGE
(R302, R317, R542). -/
def grantWake (kind : Nat) (pair : Option Nat) (s : State) : State :=
  match pair with
  | some g => wakeShown (portOf g) (if kind = 3 then 3 else 7) s
  | none => s

/-- A command goes on under its claim: the one its agent holds, or one it takes now; else CONFLICT with NOQUEUE, BUSY where 16 commands
wait, or QUEUED (R402, R431, R542). `go` gets the handle and whether the command took the claim. -/
def withClaim (kind res : Nat) (byClaim : Bool) (p : Pkt) (go : Nat → Bool → State → State) (s : State) : State :=
  match heldClaim s p.call.src kind res with
  | some c => go c.handle false s
  | none =>
    let pair := claimPair s kind res
    if grantable s kind res then
      let (h, s) := takeClaim p.call.src kind res pair byClaim s
      go h true (grantWake kind pair s)
    else if bit p.call.flags 1 then finalReply p 6 [] (s.inc CNC_CONFLICTS)
    else if 16 ≤ (s.waiting.filter isHost).length then finalReply p 1 [] s
    else interimReply p (showClaims { s with waiting := s.waiting ++ [⟨kind, res, pair, p.call.src, .command p⟩] })

/-- A command stays in its executor: what it does waits (R348, R378). -/
def stay (p : Pkt) (s : State) : State := if s.running.contains p then s else { s with running := s.running ++ [p] }

/-- No new NV write begins while REFCLK is not qualified: the command waits for it (R348). -/
def whenQual (p : Pkt) (go : State → State) (s : State) : State := if s.flag CLK_STATUS.REF_QUAL then go s else stay p s

/-- A W1C bit that a request sets when it is ignored: whether this request was, with what an earlier one left still shown. -/
def ignoredBy (f : Fld) (request : State → State) (s : State) : Bool × State :=
  let old := s.flag f
  let s := request (s.setFld f 0)
  let ign := s.flag f
  (ign, s.setFld f (old || ign).toNat)

/-- A long command is accepted unless 1024 records are unread (R429). -/
def longOnly (p : Pkt) (go : State → State) (s : State) : State := if recordsFull s then finalReply p 1 [] s else go s

/-- A long command begins: its job, and the job result as its reply (R427). -/
def acceptJob (p : Pkt) (h : Nat) (owns : Bool) (res left : Nat) (grid : List (Int × Int)) (s : State) : Nat × State :=
  let (num, s) := beginJob p h owns res left grid s
  (num, answer p (jobResult num h) s)

/-! ### What ends an activity (R428, R443) -/

/-- A maintenance swap ends because its job or its claim does: the spare returns to FREE (R539). -/
def stopSwap (t : Nat) (w : MSwap) (s : State) : State :=
  showBist (if unswitched w then abandonSwap t w 1 0 false s
    else endSwapJob t w (s.modTile t (fun k => { k with swaps := k.swaps.filter (· != w) })))

/-- The swaps that run under a claim. -/
def swapsUnder (s : State) (h : Nat) : List (Nat × MSwap) :=
  (List.range 8).flatMap (fun t => ((s.tile t).swaps.filter (fun w => w.handle == h)).map (fun w => (t, w)))

/-- A unit test ends because its job or its claim does (R443): a slice or a bank under test goes back to the spares, a bank that drains
to service, a sub-ADC to its place. A HELD slice becomes FREE although it was not tested to
the end: the spec does not say (R21; DESIGN CHOICE, log entry 47). -/
def stopTest (x : Test) (s : State) : State :=
  let e := unitElem x.unit
  match swapsUnder s x.handle with
  | (t, w) :: _ => stopSwap t w s
  | [] =>
    let s := if unitKind x.unit = 1 then
        (if sliceState s (unitTile x.unit) e = 2 then setSliceState (unitTile x.unit) e 1 s else s)
      else if unitKind x.unit = 2 then
        (if bankState s e ≠ 2 then s
         else if x.stage == .wait then showBanks ((setBankState e 0 s).raise 0x4002 0 [e, 0])
         else moveBank e 1 s)
      else if unitKind x.unit = 4 then s.setFld (PAIR_ADC_STATUS.SPARE_SLOT (e / 4) (e % 4)) 64
      else s
    endTest x 0x0B 0 s

/-- A job is aborted by the host, or with its claim (R428, R432, R443). -/
def abortJob (j : Job) (s : State) : State :=
  match j.op with
  | 0x0205 => abortEye j.res s
  | 0x0300 => abortReflect j.res 7 s
  | 0x0302 =>
    let s := { s with diags := s.diags.filterMap (fun x =>
      if x.2.job = j.num then (let d : DiagSt := { x.2 with job := 0 }; if d = DiagSt.reset then none else some (x.1, d)) else some x) }
    finishJob j.num 0x0B 0 8 0 s
  | 0x0400 =>
    let item := bits j.res 31 24
    let target := bits j.res 15 0
    let s := s.modCal item target (fun c => { c with asked := c.asked.filter (· != j.num) })
    finishJob j.num 0x0B 0 8 0 s
  | 0x0903 =>
    match swapsUnder s j.handle with
    | (t, w) :: _ => stopSwap t w s
    | [] => finishJob j.num 0x0B 0 8 0 s
  | 0x0904 =>
    match s.tests.find? (fun x => x.job == j.num) with
    | some x => stopTest x s
    | none => finishJob j.num 0x0B 0 8 0 s
  | _ => finishJob j.num 0x0B 0 8 0 s

/-- The activity that uses a claim ends as the claim is released (R443): REFLECT, eye scan, PRBS, swap, test; jobs under it end
ABORTED. -/
def endUse (c : Claim) (s : State) : State :=
  let js := s.jobs.filter (fun j => j.handle == c.handle && jobLive s j.num)
  let s := forEach js (fun j s => if jobLive s j.num then abortJob j s else s) s
  let s := forEach (s.tests.filter (fun x => x.handle == c.handle)) stopTest s
  match c.kind with
  | 3 => abortReflect (claimName 3 c.res) 7 s
  | 4 => abortEye (c.res % 256) s
  | 5 => match swapsUnder s c.handle with
    | (t, w) :: _ => stopSwap t w s
    | [] => s
  | 6 => setPrbs (c.res % 256) 0 0 s
  | _ => s

/-- Release a claim and what uses it. -/
def releaseUse (c : Claim) (s : State) : State := releaseClaim c.handle (endUse c s)

end Sys2Proof.Machine
end

