-- ==== Sys2Proof/Machine/CalCommands.lean ====
section
/-! DEFINITION. The commands of the calibration group and of the power and EEI group (R437, R438). -/
namespace Sys2Proof.Machine

/-! ### Calibration (R437, R490, R496, R497) -/

/-- The item-target a command names. -/
def withItem (p : Pkt) (run : Nat → Nat → State → State) (s : State) : State :=
  if calValid (u8 p 0) (u16 p 2) then run (u8 p 0) (u16 p 2) s else badParam p s

/-- CAL_RUN goes on under its claim: the item-target is asked for, and its sequencer starts the run (R490). -/
def beginCal (p : Pkt) (h : Nat) (owns : Bool) (s : State) : State :=
  let (num, s) := acceptJob p h owns (calRes (u8 p 0) (u16 p 2)) 0 [] s
  s.modCal (u8 p 0) (u16 p 2) (fun c => { c with asked := c.asked ++ [num] })

/-- CAL_RUN. -/
def execCalRun (c : Call) (s : State) : Host.Outcome State Fault Refusal :=
  gate 0x0400 inST (· == 4) c (fun p => withItem p (fun i t =>
    longOnly p (withClaim 2 (calRes i t) false p (beginCal p)))) s

/-- CAL_STATUS: REPORT COUNT fills COUNT and the time, PASSFAIL fills RESULT (R496). -/
def execCalStatus (c : Call) (s : State) : Host.Outcome State Fault Refusal :=
  gate 0x0401 inST (· == 4) c (fun p => withItem p (fun i t s =>
    let k := s.cal i t
    let temp := bytesLsb 2 (unsigned 16 (k.tLast.getD 0))
    if s.flag CAL_CFG.REPORT then
      answer p ([1, if k.count = 0 then 0 else if k.lastFail then 2 else 1, k.stale.toNat, 0] ++ List.replicate 10 0 ++ temp) s
    else answer p ([0, 0, k.stale.toNat, 0] ++ bytesLsb 4 k.count ++ bytesLsb 6 k.time ++ temp) s)) s

/-- CAL_CFG. -/
def execCalCfg (c : Call) (s : State) : Host.Outcome State Fault Refusal :=
  gate 0x0402 inST (· == 6) c (fun p s =>
    let fvs := applied (u8 p 0) [(0, CAL_CFG.REPORT, u8 p 1), (1, CAL_CFG.VERIFY, u8 p 2), (2, CAL_CFG.DTEMP, u16 p 4)]
    if !fits fvs ∨ (bit (u8 p 0) 2 ∧ (u16 p 4 < 5 ∨ 200 < u16 p 4)) then badParam p s
    else
      let s := putFields CAL_CFG fvs s
      answer p ([s.fld CAL_CFG.REPORT, s.fld CAL_CFG.VERIFY] ++ bytesLsb 2 (calDtemp s)) s) s

/-- What CALIB holds of an item-target: the set points, t_last and COUNT (R497). -/
def savedCal (c : CalSt) : CalSt := { CalSt.reset with points := c.points, tLast := c.tLast, count := c.count }

/-- What CALIB holds of every item-target. -/
def savedCals (s : State) : SMap CalSt :=
  s.cals.filterMap (fun x => let c := savedCal x.2; if c = CalSt.reset then none else some (x.1, c))

/-- CAL_SAVE goes on under its claim: a body, which host software treats as opaque (R510), is written with the calibrations held. -/
def beginCalSave (fails : List Nat) (p : Pkt) (h : Nat) (owns : Bool) (s : State) : State :=
  let (num, s) := acceptJob p h owns 2 0 [] s
  let (v, s) := s.draw
  let (w, s) := s.draw
  let body := bytesLsb 4 v ++ bytesLsb 4 w
  let s := { s with calSaved := (body, savedCals s) :: s.calSaved }
  let b := writeBank s 2
  let (seq, s) := writePartition 2 body s
  let s := nvFails 2 b (bankBase 2 b) (bankBase 2 b + bankSize 2) fails s
  finishJob num 0 seq 8 2 s

/-- CAL_SAVE. -/
def execCalSave (c : Call) (fails : List Nat) (s : State) : Host.Outcome State Fault Refusal :=
  gate 0x0403 inST (· == 0) c (fun p => longOnly p (whenQual p (withClaim 7 2 false p (beginCalSave fails p)))) s

/-! ### Power and EEI (R438) -/

/-- An item of EEI_SET: EEI_WAKE_BUDGET, then EEI_CFG. -/
def eeiItem (p : Pkt) (n : Nat) : State → Nat × State :=
  itemWithRegs [EEI_CFG n] (fun s =>
    let s := putFields (EEI_WAKE_BUDGET n) (applied (u8 p 16) [(0, EEI_WAKE_BUDGET.BUDGET n, u32 p 20)]) s
    putFields (EEI_CFG n) (applied (u8 p 16) [(1, EEI_CFG.MAX_DEPTH n, u8 p 17), (2, EEI_CFG.IDLE_STAGES n, u8 p 18),
      (3, EEI_CFG.HOLDOFF n, u8 p 19)]) s)

/-- EEI_SET. -/
def execEeiSet (c : Call) (s : State) : Host.Outcome State Fault Refusal :=
  gate 0x0500 inST (· == 24) c (fun p s =>
    if !fits (applied (u8 p 16) [(0, EEI_WAKE_BUDGET.BUDGET 0, u32 p 20), (1, EEI_CFG.MAX_DEPTH 0, u8 p 17)]) then badParam p s
    else multi p (eeiItem p) (maskItems p 0 16) s) s

/-- The links of a port with an agreed entry or in a depth. -/
def restingLinks (s : State) (n : Port) : List LinkId :=
  (activeLinks s n).filter (fun l => (s.link l).eei.agreed || (s.link l).eei.inDepth)

/-- A mask of 128 ports as bytes. -/
def maskBytes (p : Nat → Bool) : List Nat := bytesLsb 16 (((List.range 128).map (fun n => if p n then 2 ^ n else 0)).sum)

/-- EEI_WAKE: the named ports that are AGREED or in a depth get wake cause COMMAND (R302, R308, R309). -/
def execEeiWake (c : Call) (s : State) : Host.Outcome State Fault Refusal :=
  gate 0x0501 inST (· == 16) c (fun p s =>
    let hit := (maskItems p 0 16).filter (fun n => !(restingLinks s (toPort n)).isEmpty)
    let s := forEach hit (fun n s =>
      forEach (restingLinks s (toPort n)) (fun l s => showLink l (wakeCause l 9 s)) s) s
    answer p (maskBytes (fun n => hit.contains n)) s) s

/-- PWR_DOMAIN: a request of PWR_DOM_CTRL and what the domain shows after it (R373, R374). -/
def execPwrDomain (c : Call) (s : State) : Host.Outcome State Fault Refusal :=
  gate 0x0502 inST (· == 3) c (fun p s =>
    let id := u16 p 0
    if 0xFFF < id ∨ 2 < u8 p 2 then badParam p s
    else
      let (ign, s) := ignoredBy PWR_STATUS.CMD_IGNORED (writeWord PWR_DOM_CTRL (u8 p 2 * 2 ^ 16 + id)) s
      answer p (bytesLsb 4 (domData s id) ++ [ign.toNat]) s) s

/-- PWR_AVS. -/
def execPwrAvs (c : Call) (s : State) : Host.Outcome State Fault Refusal :=
  gate 0x0503 inST (· == 6) c (fun p s =>
    let fvs := applied (u8 p 0) [(0, PWR_AVS_CFG.ENABLE, u8 p 1), (1, PWR_AVS_CFG.VMIN, u16 p 2), (2, PWR_AVS_CFG.VMAX, u16 p 4)]
    if !fits fvs then badParam p s
    else
      let (bs, s) := readBytes [PWR_AVS_STATUS] (putFields PWR_AVS_CFG fvs s)
      answer p (bs ++ bytesLsb 2 (s.fld PWR_AVS_IOUT.IOUT)) s) s

/-- PWR_STATUS: PWR_WAKE_MAX restarts with the read. -/
def execPwrStatus (c : Call) (s : State) : Host.Outcome State Fault Refusal :=
  gate 0x0504 inST (· == 0) c (fun p => answerRegs p
    [PWR_RAIL_STATUS, PWR_AVS_STATUS, PWR_AVS_IOUT, PWR_WAKE_MAX, PWR_DOMAIN_FAULTS, PWR_DOMAIN_LAST_FAULT]) s

end Sys2Proof.Machine
end

