-- ==== Sys2Proof/Machine/CncCommands.lean ====
section
/-! DEFINITION. The commands of the test, BIST, slice swap and Concierge group (R443, R538, R540 to R542). -/
namespace Sys2Proof.Machine

/-! ### Claims (R430, R431, R443) -/

/-- A BIST resource names a unit that exists; a sub-ADC test needs a pair whose spare is not committed (R430, R540). -/
def unitOk (s : State) (res : Nat) : Bool :=
  let i := unitElem res
  match unitKind res with
  | 1 => decide (unitTile res < 8 ∧ i < 68)
  | 2 => decide (i < 66)
  | 3 => true
  | 4 => decide (i < 512 ∧ bits res 23 16 ≤ 64) && !s.flag (PAIR_ADC_STATUS.COMMITTED (i / 4) (i % 4))
  | _ => false

/-- A kind and a resource name something that can be claimed. -/
def claimOk (s : State) (kind res : Nat) : Bool :=
  match kind with
  | 1 => unitOk s res
  | 2 => calValid (bits res 31 24) (unitElem res)
  | 3 => decide (unitElem res < 512)
  | 4 => decide (bits res 7 0 < 136)
  | 5 => decide (unitTile res < 8 ∧ unitElem res < 68)
  | 6 => decide (bits res 7 0 < 136)
  | 7 => decide (bits res 7 0 < 4)
  | 8 => true
  | _ => false

/-- CNC_CLAIM is answered with its handle. -/
def beginClaim (p : Pkt) (h : Nat) (_owns : Bool) (s : State) : State := answer p (bytesLsb 2 h) s

/-- CNC_CLAIM. -/
def execCncClaim (c : Call) (s : State) : Host.Outcome State Fault Refusal :=
  gate 0x0900 inST (· == 8) c (fun p s =>
    if !claimOk s (u8 p 0) (u32 p 4) then badParam p s else withClaim (u8 p 0) (u32 p 4) true p (beginClaim p) s) s

/-- CNC_RELEASE. -/
def execCncRelease (c : Call) (s : State) : Host.Outcome State Fault Refusal :=
  gate 0x0901 inST (· == 2) c (fun p s =>
    match s.claims.find? (fun x => x.handle == u16 p 0 && x.src == p.call.src) with
    | some x => answer p [] (releaseUse x s)
    | none => badParam p s) s

/-- CNC_LIST. -/
def execCncList (c : Call) (s : State) : Host.Outcome State Fault Refusal :=
  gate 0x0902 inST (· == 2) c (fun p s =>
    let first := u8 p 0
    if 127 < first then badParam p s
    else
      let es := ((claimList s).drop first).take 84
      answer p ([min s.claims.length 255, min s.waiting.length 255, es.length, 0] ++ es.flatten) s) s

/-! ### Swaps and tests (R443, R538) -/

/-- SLICE_SWAP goes on under its claim: the lowest FREE slice is HELD and the copy begins; the replaced slice is to be tested. A slice
that has left service while the command waited is out of range. -/
def beginSwap (p : Pkt) (h : Nat) (owns : Bool) (s : State) : State :=
  let t := u8 p 0
  let i := u8 p 1
  match sliceState s t i, (slicesIn s t 1).head? with
  | 0, some sp =>
    let s := (acceptJob p h owns (sliceUnit t i) 0 [] s).2
    addTest (sliceUnit t i) h 0 false .swap sp (startSwap t i sp false h s)
  | _, _ => badParam p (if owns then releaseClaim h s else s)

/-- SLICE_SWAP. -/
def execSliceSwap (c : Call) (s : State) : Host.Outcome State Fault Refusal :=
  gate 0x0903 inST (· == 2) c (fun p s =>
    if 8 ≤ u8 p 0 ∨ 68 ≤ u8 p 1 then badParam p s
    else if sliceState s (u8 p 0) (u8 p 1) ≠ 0 then badParam p s
    else longOnly p (withClaim 5 (u8 p 0 * 2 ^ 24 + u8 p 1) false p (beginSwap p)) s) s

/-- The unit of a BIST resource, without the bits its kind does not use. -/
def plainUnit (res : Nat) : Nat := claimName 1 res

/-- BIST_RUN goes on under its claim. -/
def beginBist (p : Pkt) (h : Nat) (owns : Bool) (s : State) : State :=
  let unit := plainUnit (u32 p 0)
  let (num, s) := acceptJob p h owns unit 0 [] s
  beginUnit unit h num false s

/-- BIST_RUN. -/
def execBistRun (c : Call) (s : State) : Host.Outcome State Fault Refusal :=
  gate 0x0904 inST (· == 4) c (fun p s =>
    if !unitOk s (u32 p 0) then badParam p s
    else longOnly p (withClaim 1 (plainUnit (u32 p 0)) false p (beginBist p)) s) s

/-- BIST_CFG: the sweep in force lies within 1 to 720 hours (R544). -/
def execBistCfg (c : Call) (s : State) : Host.Outcome State Fault Refusal :=
  gate 0x0905 inST (· == 4) c (fun p s =>
    let fvs := applied (u8 p 0) [(0, BIST_CFG.ENABLE, u8 p 1), (1, BIST_CFG.SWEEP, u16 p 2)]
    if !fits fvs ∨ (bit (u8 p 0) 1 ∧ (u16 p 2 < 1 ∨ 720 < u16 p 2)) then badParam p s
    else
      let s := putFields BIST_CFG fvs s
      answer p ([s.fld BIST_CFG.ENABLE, 0] ++ bytesLsb 2 (max 1 (min 720 (s.fld BIST_CFG.SWEEP)))) s) s

/-- PORTER_SWITCH: the takeover of R528; the new pair answers, unless none was ready and the device resets (R529). -/
def execPorterSwitch (c : Call) (s : State) : Host.Outcome State Fault Refusal :=
  gate 0x0906 [2] (· == 0) c (fun p s =>
    let s := takeover 4 s
    if s.hub.resetting then s else answer p [] s) s

end Sys2Proof.Machine
end

