-- ==== Sys2Proof/Machine/DiagCommands.lean ====
section
/-! DEFINITION. The commands of the diagnostics group (R436). -/
namespace Sys2Proof.Machine

/-- The pair a command names in its first two bytes. -/
def withGpair (p : Pkt) (run : Port → Pair → State → State) (s : State) : State :=
  if 512 ≤ u16 p 0 then badParam p s else run (portOf (u16 p 0)) (pairOf (u16 p 0)) s

/-! ### Runs (R317, R325, R332, R436) -/

/-- DIAG_REFLECT goes on under its claim, which it keeps (R431): LENGTH and DELAY_PS_M are written, then DIAG_CTRL. A start that is
refused ends the job ABORTED with the reason; so does one on a pair that runs a diagnostic, with BUSY (log entry 20). -/
def beginReflect (p : Pkt) (h : Nat) (_owns : Bool) (s : State) : State :=
  let g := u16 p 0
  let n := portOf g
  let q := pairOf g
  let (num, s) := acceptJob p h false g 0 [] s
  let fvs := [(DIAG_CFG.LENGTH n, u16 p 6)] ++ (if u16 p 8 = 0 then [] else [(DIAG_CFG.DELAY_PS_M n, u16 p 8)])
  let s := putFields (DIAG_CFG n) fvs s
  let busy := s.flag (DIAG_STATUS.BUSY n q)
  let s := writeWord (DIAG_CTRL n q) (2 ^ 31 + u8 p 2 * 2 ^ 16 + u8 p 3 * 2 ^ 8 + u8 p 4) s
  if busy then finishJob num 0x0B 3 (pairTile g) n s
  else if s.flag (DIAG_STATUS.BUSY n q) then s.modDiag g (fun d => { d with job := num })
  else finishJob num 0x0B (s.fld (DIAG_STATUS.REASON n q)) (pairTile g) n s

/-- DIAG_REFLECT. -/
def execDiagReflect (c : Call) (s : State) : Host.Outcome State Fault Refusal :=
  gate 0x0300 inST (· == 10) c (fun p => withGpair p (fun n q s =>
    if 3 < u8 p 2 ∨ 1 < u8 p 3 ∨ 15 < u8 p 4 then badParam p s
    else longOnly p (withRegs p [DIAG_CFG n, DIAG_STATUS n q] (withClaim 3 (u16 p 0) false p (beginReflect p))) s)) s

/-- DIAG_RESULT. -/
def execDiagResult (c : Call) (s : State) : Host.Outcome State Fault Refusal :=
  gate 0x0301 inST (· == 2) c (fun p => withGpair p (fun n q => readRegs p
    ([DIAG_STATUS n q, DIAG_INFO n q, DIAG_TIME n q] ++ (List.range 16).map (fun j => DIAG_EVENT n q j)))) s

/-- A MAPS run of a DIAG_MAPS job is started on a port, or refused, which its completion reports. -/
def startMapsRun (num k : Nat) (s : State) : State :=
  let n := toPort k
  let busy := s.flag (DIAG_STATUS.BUSY n 0)
  let s := writeWord (DIAG_CTRL n 0) (keepWord s (DIAG_CTRL n 0) % 2 ^ 24 + 2 ^ 31 + 2 ^ 24) s
  if !busy && s.flag (DIAG_STATUS.BUSY n 0) then s.modDiag (gpair n 0) (fun d => { d with job := num })
  else { s with completions := s.completions ++ [(⟨s.now, tileOf n, n, num, 3, 0, true⟩ : Completion)] }

/-- DIAG_MAPS: with no port named the job ends at once. -/
def execDiagMaps (c : Call) (s : State) : Host.Outcome State Fault Refusal :=
  gate 0x0302 inST (· == 16) c (fun p s =>
    let ns := maskItems p 0 16
    longOnly p (withRegs p (ns.map (fun n => DIAG_STATUS n 0)) (fun s =>
      let (num, s) := acceptJob p 0 false 0 ns.length [] s
      if ns.isEmpty then finishJob num 0 0 8 0 s else forEach ns (startMapsRun num) s)) s) s

/-- DIAG_ABORT. -/
def execDiagAbort (c : Call) (s : State) : Host.Outcome State Fault Refusal :=
  gate 0x0308 inST (· == 2) c (fun p => withGpair p (fun n q => withRegs p [DIAG_STATUS n q] (fun s =>
    let on := reflecting s (u16 p 0)
    answer p [on.toNat] (abortReflect (u16 p 0) 7 s)))) s

/-! ### Results (R325, R329 to R331, R334, R436) -/

/-- FIRST and COUNT name entries that exist, at most so many at once. -/
def rangeOk (first count most size : Nat) : Bool := decide (1 ≤ count ∧ count ≤ most ∧ first + count ≤ size)

/-- DIAG_MAP_READ. -/
def execDiagMapRead (c : Call) (s : State) : Host.Outcome State Fault Refusal :=
  gate 0x0303 inST (· == 8) c (fun p => withGpair p (fun n q s =>
    if 15 < u8 p 2 ∨ !rangeOk (u16 p 4) (u16 p 6) 512 512 then badParam p s
    else withRegs p [DIAG_MAP_DATA n q] (fun s =>
      answer p ((List.range (u16 p 6)).flatMap (fun i => bytesLsb 2 (s.mapAt (u16 p 0) (u8 p 2) (u16 p 4 + i)))) s) s)) s

/-- DIAG_TRACE_READ. -/
def execDiagTraceRead (c : Call) (s : State) : Host.Outcome State Fault Refusal :=
  gate 0x0304 inST (· == 8) c (fun p => withGpair p (fun n q s =>
    if 3 < u8 p 2 ∨ !rangeOk (u16 p 4) (u16 p 6) 512 16384 then badParam p s
    else withRegs p [DIAG_TRACE_DATA n q] (fun s =>
      answer p ((List.range (u16 p 6)).flatMap (fun i => bytesLsb 2 (s.tapAt (u16 p 0) (u8 p 2) (u16 p 4 + i)))) s) s)) s

/-- The SEQ after another; 0xFFFFFFFF is none (R331). -/
def nextSeq (q : Nat) : Nat := if q = 0xFFFFFFFE then 0 else q + 1

/-- DIAG_HISTORY. -/
def execDiagHistory (c : Call) (s : State) : Host.Outcome State Fault Refusal :=
  gate 0x0305 inST (· == 9) c (fun p => withGpair p (fun n q s =>
    if u8 p 8 < 1 ∨ 63 < u8 p 8 then badParam p s
    else withRegs p [DIAG_HIST_DATA n q] (fun s =>
      let first := u32 p 4
      let rs := ((s.diag (u16 p 0)).recs.reverse.filter (fun r => reached r.1 first)).take (u8 p 8)
      let next := match rs.getLast? with
        | some r => nextSeq r.1
        | none => first
      answer p (bytesLsb 4 next ++ [rs.length] ++ List.replicate 11 0 ++
        rs.flatMap (fun r => bytesLsb 4 r.1 ++ bytesLsb 4 r.2.1 ++ bytesLsb 4 r.2.2.1 ++ bytesLsb 4 r.2.2.2)) s) s)) s

/-- DIAG_PROFILE: an empty place reads as the window shows it, all ones. -/
def execDiagProfile (c : Call) (s : State) : Host.Outcome State Fault Refusal :=
  gate 0x0306 inST (· == 3) c (fun p => withGpair p (fun n q s =>
    if 7 < u8 p 2 then badParam p s
    else withRegs p [DIAG_HIST_DATA n q] (fun s =>
      match (s.diag (u16 p 0)).profiles[u8 p 2]? with
      | some (seq, cause, vs) => answer p (bytesLsb 4 seq ++ [cause, 0, 0, 0] ++ vs.map (· % 256)) s
      | none => answer p (List.replicate 5 0xFF ++ [0, 0, 0] ++ List.replicate 512 0xFF) s) s)) s

/-- DIAG_SNR. -/
def execDiagSnr (c : Call) (s : State) : Host.Outcome State Fault Refusal :=
  gate 0x0307 inST (· == 6) c (fun p => withGpair p (fun n q s =>
    if !rangeOk (u16 p 2) (u16 p 4) 256 512 then badParam p s
    else withRegs p [PAIR_SNR_DATA n q] (fun s =>
      answer p ((List.range (u16 p 4)).flatMap (fun i => bytesLsb 4 (snrWord s n q (u16 p 2 + i)))) s) s)) s

end Sys2Proof.Machine
end

