-- ==== Sys2Proof/Machine/LaneCommands.lean ====
section
/-! DEFINITION. The commands of the host lane group (R435). -/
namespace Sys2Proof.Machine

/-- The lane a command names in its first byte. -/
def withLane (p : Pkt) (run : Nat → State → State) (s : State) : State :=
  if 136 ≤ u8 p 0 then badParam p s else run (u8 p 0) s

/-- An item of HL_ENABLE; a spare lane fails it. -/
def enableItem (on rate h : Nat) (s : State) : Nat × State :=
  if 128 ≤ h then (3, s)
  else itemWithRegs [HL_CFG h]
    (putFields (HL_CFG h) ([(HL_CFG.ENABLE h, on)] ++ (if rate = 0xFF then [] else [(HL_CFG.RATE h, rate)]))) s

/-- HL_ENABLE. -/
def execHlEnable (c : Call) (s : State) : Host.Outcome State Fault Refusal :=
  gate 0x0200 inST (· == 19) c (fun p s =>
    let rate := u8 p 18
    if 1 < u8 p 17 ∨ (1 < rate ∧ rate ≠ 0xFF) then badParam p s
    else multi p (enableItem (u8 p 17) rate) (maskItems p 0 17) s) s

/-- HL_STATUS. -/
def execHlStatus (c : Call) (s : State) : Host.Outcome State Fault Refusal :=
  gate 0x0201 inST (· == 1) c (fun p => withLane p (fun h => readRegs p
    [HL_STATUS h, HL_FAULT_STATUS h, HL_RS_UNCORR h, HL_AM_LOSS h, HL_RS_CW h, HL_RS_CW h + 4, HL_RS_CORR_SYM h,
      HL_RS_CORR_SYM h + 4])) s

/-- HL_FFE. -/
def execHlFfe (c : Call) (s : State) : Host.Outcome State Fault Refusal :=
  gate 0x0202 inST (· == 4) c (fun p => withLane p (fun h s =>
    let fvs := [(HL_TX_FFE.PRE h, u8 p 1), (HL_TX_FFE.POST h, u8 p 2), (HL_TX_FFE.AMP h, u8 p 3)]
    if !fits fvs then badParam p s
    else withRegs p [HL_TX_FFE h, HL_STATUS h] (fun s =>
      let (bs, s) := readBytes [HL_TX_FFE h] (putFields (HL_TX_FFE h) fvs s)
      answer p (bs ++ [s.fld (HL_STATUS.FFE_CLAMPED h), 0, 0, 0]) s) s)) s

/-- The group a command names in its first byte. -/
def withGroup (p : Pkt) (run : Nat → State → State) (s : State) : State :=
  if 8 ≤ u8 p 0 then badParam p s else run (u8 p 0) s

/-- HL_SPARE_SET. -/
def execHlSpareSet (c : Call) (s : State) : Host.Outcome State Fault Refusal :=
  gate 0x0203 inST (· == 8) c (fun p => withGroup p (fun g s =>
    let sp := spareLane g
    let fvs := applied (u8 p 1) [(0, HL_SPARE_CFG.MODE sp, u8 p 2), (1, HL_SPARE_CFG.RATE sp, u8 p 3),
      (2, HL_SPARE_CFG.PREFER_EN sp, u8 p 4), (2, HL_SPARE_CFG.PREFER sp, u8 p 5), (3, HL_SPARE_CFG.HOST_WAIT sp, u16 p 6)]
    let as := [HL_SPARE_CFG sp, HL_SPARE_STATUS sp]
    if !fits fvs then badParam p s
    else withRegs p as (fun s => answerRegs p as (putFields (HL_SPARE_CFG sp) fvs s)) s)) s

/-- The doorbell of an action of HL_SPARE_ACT. -/
def spareDoorbell (action lane : Nat) : Nat :=
  if action = 1 then lane * 2 ^ 16 + 2 else if action = 2 then 4 else 1

/-- HL_SPARE_ACT: IGNORED says whether R281 ignored this action; CMD_IGNORED of an earlier one stands. -/
def execHlSpareAct (c : Call) (s : State) : Host.Outcome State Fault Refusal :=
  gate 0x0204 inST (· == 3) c (fun p => withGroup p (fun g s =>
    let sp := spareLane g
    let action := u8 p 1
    if action < 1 ∨ 3 < action ∨ (action = 1 ∧ 15 < u8 p 2) then badParam p s
    else withRegs p [HL_SPARE_CTRL sp, HL_SPARE_STATUS sp] (fun s =>
      let (ign, s) := ignoredBy (HL_SPARE_STATUS.CMD_IGNORED sp) (writeWord (HL_SPARE_CTRL sp) (spareDoorbell action (u8 p 2))) s
      let (bs, s) := readBytes [HL_SPARE_STATUS sp] s
      answer p (bs ++ [ign.toNat]) s) s)) s

/-! ### Eye scans (R283, R284, R435) -/

/-- The values from a minimum to a maximum in increments. -/
def span (lo hi : Int) (stp : Nat) : List Int := (List.range ((hi - lo).toNat / stp + 1)).map (fun (i : Nat) => lo + ((i * stp : Nat) : Int))

/-- The parameters of HL_EYE_SCAN are in range. -/
def eyeParamsOk (p : Pkt) : Bool :=
  let x (i : Nat) : Int := signed 8 (u8 p i)
  decide (u8 p 0 < 136 ∧ u8 p 1 ≤ 3 ∧ -32 ≤ x 2 ∧ x 2 ≤ x 3 ∧ x 3 ≤ 31 ∧ -64 ≤ x 4 ∧ x 4 ≤ x 5 ∧ x 5 ≤ 63 ∧
    1 ≤ u8 p 6 ∧ u8 p 6 ≤ 16 ∧ u8 p 7 ≤ 63)

/-- The grid of HL_EYE_SCAN, phase-major. -/
def eyeGrid (p : Pkt) : List (Int × Int) :=
  (span (signed 8 (u8 p 2)) (signed 8 (u8 p 3)) (u8 p 6)).flatMap (fun x =>
    (span (signed 8 (u8 p 4)) (signed 8 (u8 p 5)) (u8 p 6)).map (fun y => (x, y)))

/-- HL_EYE_SCAN goes on under its claim: the scan of the first point begins; on a disabled lane the job ends ABORTED with no point
completed (R284). -/
def beginEye (p : Pkt) (h : Nat) (owns : Bool) (s : State) : State :=
  let lane := u8 p 0
  let grid := eyeGrid p
  let s := abortEye lane s
  let (num, s) := acceptJob p h owns lane 0 grid s
  let s := (s.setFld (HL_EYE_CTRL.EYE lane) (u8 p 1)).setFld (HL_EYE_CTRL.DWELL lane) (u8 p 7)
  let s := aimEye lane (grid.headD (0, 0)) (s.modLane lane (fun k => { k with eyeJob := num }))
  if laneState s lane = 0 then abortEye lane (s.setFld (HL_EYE_STATUS.BUSY lane) 1) else startEye lane s

/-- HL_EYE_SCAN. -/
def execHlEyeScan (c : Call) (s : State) : Host.Outcome State Fault Refusal :=
  gate 0x0205 inST (· == 8) c (fun p s =>
    if !eyeParamsOk p then badParam p s
    else if 1024 < (eyeGrid p).length then badParam p s
    else longOnly p (withRegs p [HL_EYE_STATUS (u8 p 0)] (withClaim 4 (u8 p 0) false p (beginEye p))) s) s

/-- The points of a scan's grid, and the error counts of those completed. -/
def eyeOf (s : State) (num : Nat) : Option (Nat × List Nat) :=
  match s.eyes.find? (fun x => x.1 == num) with
  | some x => some x.2
  | none => (s.jobs.find? (fun j => j.num == num && j.op == 0x0205)).map (fun j => (j.grid.length, j.errs))

/-- The error counts of `k` points from an index on; that of a point not completed is a free value. -/
def eyeWords (errs : List Nat) : Nat → Nat → State → List Nat × State
  | 0, _, s => ([], s)
  | k + 1, i, s =>
    let (v, s) := match errs[i]? with
      | some e => (e, s)
      | none => s.draw
    let (vs, s) := eyeWords errs k (i + 1) s
    (bytesLsb 4 v ++ vs, s)

/-- HL_EYE_RESULT. -/
def execHlEyeResult (c : Call) (s : State) : Host.Outcome State Fault Refusal :=
  gate 0x0206 inST (· == 6) c (fun p s =>
    match eyeOf s (u16 p 0) with
    | none => badParam p s
    | some (points, errs) =>
      if u16 p 4 < 1 ∨ 255 < u16 p 4 ∨ points < u16 p 2 + u16 p 4 then badParam p s
      else
        let (bs, s) := eyeWords errs (u16 p 4) (u16 p 2) s
        answer p (bytesLsb 2 points ++ [0, 0] ++ bs) s) s

/-! ### PRBS (R285 to R287, R435) -/

/-- HL_PRBS goes on: HL_PRBS_CTRL and the user pattern are written in ascending offset; a claim just taken is released where both
stay off (R431). -/
def beginPrbs (p : Pkt) (h : Nat) (owns : Bool) (s : State) : State :=
  let lane := u8 p 0
  let s := putFields (HL_PRBS_CTRL lane) [(HL_PRBS_CTRL.TX_EN lane, u8 p 1), (HL_PRBS_CTRL.RX_EN lane, u8 p 2),
    (HL_PRBS_CTRL.TX_PAT lane, u8 p 3), (HL_PRBS_CTRL.RX_PAT lane, u8 p 4), (HL_PRBS_CTRL.USER_LEN lane, u8 p 5)] s
  let s := forEach (List.range 5) (fun i s => writeWord (HL_PRBS_USER lane i) (u32 p (6 + 4 * i)) s) s
  let s := if owns ∧ u8 p 1 = 0 ∧ u8 p 2 = 0 then releaseClaim h s else s
  answerRegs p [HL_PRBS_CTRL lane, HL_PRBS_STATUS lane] s

/-- Another agent holds the PRBS claim of a lane. -/
def prbsForeign (s : State) (p : Pkt) : Bool :=
  s.claims.any (fun c => c.kind == 6 && c.res % 256 == u8 p 0 && c.src != p.call.src)

/-- HL_PRBS: turning both off takes no claim. -/
def execHlPrbs (c : Call) (s : State) : Host.Outcome State Fault Refusal :=
  gate 0x0207 inST (· == 26) c (fun p => withLane p (fun h s =>
    if 1 < u8 p 1 ∨ 1 < u8 p 2 ∨ 3 < u8 p 3 ∨ 3 < u8 p 4 then badParam p s
    else withRegs p [HL_PRBS_CTRL h] (fun s =>
      if u8 p 1 = 0 ∧ u8 p 2 = 0 ∧ !prbsForeign s p then beginPrbs p 0 false s
      else withClaim 6 h false p (beginPrbs p) s) s)) s

/-- HL_PRBS_READ. -/
def execHlPrbsRead (c : Call) (s : State) : Host.Outcome State Fault Refusal :=
  gate 0x0208 inST (· == 2) c (fun p => withLane p (fun h s =>
    let as := [HL_PRBS_BITS h, HL_PRBS_BITS h + 4, HL_PRBS_ERR h, HL_PRBS_ERR h + 4, HL_PRBS_STATUS h]
    if 1 < u8 p 1 then badParam p s
    else withRegs p as (fun s =>
      let (bs, s) := readBytes as s
      answer p bs (if u8 p 1 = 1 then clearCounter (HL_PRBS_ERR h) (clearCounter (HL_PRBS_BITS h) s) else s)) s)) s

/-- HL_PRBS_INJECT. -/
def execHlPrbsInject (c : Call) (s : State) : Host.Outcome State Fault Refusal :=
  gate 0x0209 inST (· == 3) c (fun p => withLane p (fun h s =>
    if u8 p 1 < 1 ∨ 2 < u8 p 1 ∨ !s.flag (HL_PRBS_CTRL.TX_EN h) then badParam p s
    else withRegs p [HL_PRBS_CTRL h] (fun s =>
      let w := keepWord s (HL_PRBS_CTRL h)
      let v := if u8 p 1 = 1 then w + 2 ^ 17 else insertBits w 15 8 (u8 p 2) + 2 ^ 16
      answer p [] (writeWord (HL_PRBS_CTRL h) v s)) s)) s

end Sys2Proof.Machine
end

