-- ==== Sys2Proof/Machine/NvCommands.lean ====
section
/-! DEFINITION. The commands of the NV and firmware group and of the Guestbook group (R439 to R441, R505, R518). -/
namespace Sys2Proof.Machine

/-! ### Partitions (R439, R440) -/

/-- The partition a command names in its first byte. -/
def withPart (p : Pkt) (run : Nat → State → State) (s : State) : State :=
  if 4 ≤ u8 p 0 then badParam p s else run (u8 p 0) s

/-- A block of NV_INFO. -/
def bankInfo (s : State) (part b : Nat) : List Nat :=
  [(nvBankState s part b == 0).toNat, (loadBank s part == some b).toNat, 0, 0] ++ bytesLsb 4 (header s part b 4) ++
    bytesLsb 4 (header s part b 8) ++ bytesLsb 4 (header s part b 12)

/-- NV_INFO. -/
def execNvInfo (c : Call) (s : State) : Host.Outcome State Fault Refusal :=
  gate 0x0600 inSTR (· == 1) c (fun p => withPart p (fun part s => answer p (bankInfo s part 0 ++ bankInfo s part 1) s)) s

/-- The bank that NV_READ names: 0 A, 1 B, 2 the one load takes. -/
def readBank (s : State) (part bank : Nat) : Option Nat :=
  if bank ≤ 1 then some bank else if bank = 2 then loadBank s part else none

/-- NV_READ. -/
def execNvRead (c : Call) (s : State) : Host.Outcome State Fault Refusal :=
  gate 0x0601 inSTR (· == 10) c (fun p => withPart p (fun part s =>
    match readBank s part (u8 p 1) with
    | none => badParam p s
    | some b =>
      let count := u16 p 8
      if count < 1 ∨ 1024 < count ∨ bodyMax part < u32 p 4 + count then badParam p s
      else answer p (nvBytes s (bankBase part b + 32 + u32 p 4) count) s)) s

/-- The claim that a write of a partition needs (R440). -/
def nvKind (part : Nat) : Nat := if part = 0 then 8 else 7

/-- NV_OPEN goes on under its claim: the bank that load does not take is invalidated and opened. -/
def beginNvOpen (fails : List Nat) (p : Pkt) (h : Nat) (_owns : Bool) (s : State) : State :=
  let part := u8 p 0
  let b := writeBank s part
  let s := nvFails part b (bankBase part b) (bankBase part b + 4) fails (invalidate part b s)
  let s := { s with nvOpen := s.nvOpen.filter (fun o => o.part != part) ++ [(⟨part, b, p.call.src, h⟩ : NvOpen)] }
  answer p ([b, 0] ++ bytesLsb 2 h) s

/-- NV_OPEN. -/
def execNvOpen (c : Call) (fails : List Nat) (s : State) : Host.Outcome State Fault Refusal :=
  gate 0x0602 inSTR (· == 1) c (fun p => withPart p (fun part =>
    whenQual p (withClaim (nvKind part) part false p (beginNvOpen fails p)))) s

/-- The partition a command writes is open for its agent under a claim in force; another agent's is CONFLICT (R440). -/
def withOpen (p : Pkt) (run : NvOpen → State → State) (s : State) : State :=
  match s.nvOpen.find? (fun o => o.part == u8 p 0) with
  | none => badParam p s
  | some o =>
    if !s.claims.any (fun c => c.handle == o.handle) then badParam p s
    else if o.src ≠ p.call.src then finalReply p 6 [] (s.inc CNC_CONFLICTS)
    else run o s

/-- NV_WRITE. -/
def execNvWrite (c : Call) (fails : List Nat) (s : State) : Host.Outcome State Fault Refusal :=
  gate 0x0603 inSTR (fun n => decide (9 ≤ n ∧ n ≤ 1024)) c (fun p => withOpen p (fun o s =>
    let bs := p.call.body.drop 8
    if bodyMax o.part < u32 p 4 + bs.length then badParam p s
    else whenQual p (fun s =>
      let a := bankBase o.part o.bank + 32 + u32 p 4
      answer p [] (nvFails o.part o.bank a (a + bs.length) fails (nvPut a bs s))) s)) s

/-- The open partition is closed, and the claim that NV_OPEN took is released (R431, R440). -/
def closeNv (o : NvOpen) (s : State) : State := releaseTaken o.handle { s with nvOpen := s.nvOpen.filter (fun x => x != o) }

/-- What FORMAT a host's commit writes: 1, and for FIRMWARE the version of the image, which the spec does not place in the body: a
free value below that of the boot ROM's (R503). -/
def commitFormat (part : Nat) (s : State) : Nat × State :=
  if part = 0 then
    let (v, s) := s.draw
    (v % 0xFFFF0000, s)
  else (1, s)

/-- NV_COMMIT: the body is read back and checked; on a match the header is written (R440, R505). -/
def execNvCommit (c : Call) (fails : List Nat) (s : State) : Host.Outcome State Fault Refusal :=
  gate 0x0604 inSTR (· == 12) c (fun p => withOpen p (fun o s =>
    let len := u32 p 4
    if bodyMax o.part < len then badParam p s
    else longOnly p (whenQual p (fun s =>
      let (num, s) := acceptJob p 0 false o.part 0 [] s
      let base := bankBase o.part o.bank
      if crc32c (nvBytes s (base + 32) len) ≠ u32 p 8 then finishJob num 0x0B 0 8 o.part (closeNv o s)
      else
        let (fmt, s) := commitFormat o.part s
        let (seq, s) := commitBank o.part o.bank len (u32 p 8) fmt s
        finishJob num 0 seq 8 o.part (closeNv o (nvFails o.part o.bank base (base + 32) fails s)))) s)) s

/-- NV_CLOSE. -/
def execNvClose (c : Call) (s : State) : Host.Outcome State Fault Refusal :=
  gate 0x0605 inSTR (· == 1) c (fun p => withOpen p (fun o s => answer p [] (closeNv o s))) s

/-- The CONFIG body: an entry for every register that holds a configuration field, in ascending address (R508). -/
def configBody (s : State) : List Nat :=
  (List.range 9).flatMap (fun j => (segRows j).flatMap (fun x =>
    bytesLsb 4 x.1 ++ bytesLsb 4 (cfgBits x.2.fields (s.reg x.1).toNat)))

/-- NV_SAVE_CONFIG goes on under its claim. -/
def beginSaveConfig (fails : List Nat) (p : Pkt) (h : Nat) (owns : Bool) (s : State) : State :=
  let (num, s) := acceptJob p h owns 1 0 [] s
  let b := writeBank s 1
  let (seq, s) := writePartition 1 (configBody s) s
  finishJob num 0 seq 8 1 (nvFails 1 b (bankBase 1 b) (bankBase 1 b + bankSize 1) fails s)

/-- NV_SAVE_CONFIG. -/
def execNvSaveConfig (c : Call) (fails : List Nat) (s : State) : Host.Outcome State Fault Refusal :=
  gate 0x0606 inSTR (· == 0) c (fun p => longOnly p (whenQual p (withClaim 7 1 false p (beginSaveConfig fails p)))) s

/-! ### The Guestbook (R441, R518) -/

/-- GB_INFO. -/
def execGbInfo (c : Call) (s : State) : Host.Outcome State Fault Refusal :=
  gate 0x0700 inSTR (· == 0) c (fun p s =>
    let next := s.fld GB_STATUS.NEXT
    answer p (bytesLsb 4 (s.reg GB_RECORDED).toNat ++ bytesLsb 2 next ++ bytesLsb 2 next ++ bytesLsb 4 (s.reg GB_LOST).toNat ++
      bytesLsb 4 (s.reg GB_SUPPRESSED).toNat ++ [s.fld GB_STATUS.FULL, s.fld MR_STATUS.LARGE_CHAIN, 0, 0]) s) s

/-- GB_READ. -/
def execGbRead (c : Call) (s : State) : Host.Outcome State Fault Refusal :=
  gate 0x0701 inSTR (· == 3) c (fun p s =>
    if 32767 < u16 p 0 ∨ u8 p 2 < 1 ∨ 32 < u8 p 2 then badParam p s
    else answer p ((List.range (u8 p 2)).flatMap (fun i => slotRead s ((u16 p 0 + i) % 32768))) s) s

/-- GB_CLEAR. -/
def execGbClear (c : Call) (s : State) : Host.Outcome State Fault Refusal :=
  gate 0x0702 inSTR (· == 0) c (fun p s =>
    let (gone, s) := gbClear s
    answer p (bytesLsb 4 gone) s) s

/-- GB_RATE: at most 64 codes hold a limit that differs from the default (R518). -/
def execGbRate (c : Call) (s : State) : Host.Outcome State Fault Refusal :=
  gate 0x0703 inSTR (· == 3) c (fun p s =>
    let code := u16 p 0
    let lim := u8 p 2
    let rest := s.gbLimits.filter (fun x => x.1 != code)
    if code = 0xFFFF then answer p [] (writeWord GB_RATE_DEFAULT lim s)
    else if lim = s.fld GB_RATE_DEFAULT.LIMIT then answer p [] { s with gbLimits := rest }
    else if 64 ≤ rest.length then badParam p s
    else answer p [] { s with gbLimits := rest ++ [(code, lim)] }) s

end Sys2Proof.Machine
end

