-- ==== Sys2Proof/Machine/ClaimGrant.lean ====
section
/-! DEFINITION. A grant of the Concierge: which waiting claim is granted, and how what asked for it goes on (R402, R431, R527, R534,
R540 to R542, R555). -/
namespace Sys2Proof.Machine

/-! ### A command goes on under its claim (R402, R431) -/

/-- The registers that a command needs before its claim. -/
def grantRegs (p : Pkt) : List Nat :=
  match p.op with
  | 0x0205 => [HL_EYE_STATUS (u8 p 0)]
  | 0x0207 => [HL_PRBS_CTRL (u8 p 0)]
  | 0x0300 => [DIAG_CFG (portOf (u16 p 0)), DIAG_STATUS (portOf (u16 p 0)) (pairOf (u16 p 0))]
  | _ => []

/-- A long command that uses a claim: it needs room for its job record (R429). -/
def longOp (op : Nat) : Bool :=
  op == 0x0205 || op == 0x0300 || op == 0x0400 || op == 0x0403 || op == 0x0606 || op == 0x0903 || op == 0x0904

/-- A command that writes the MRAM (R348). -/
def nvOp (op : Nat) : Bool := op == 0x0403 || op == 0x0602 || op == 0x0606

/-- What the command does once it has its claim. -/
def beginGranted (fails : List Nat) (p : Pkt) (h : Nat) (s : State) : State :=
  match p.op with
  | 0x0205 => beginEye p h true s
  | 0x0207 => beginPrbs p h true s
  | 0x0300 => beginReflect p h true s
  | 0x0400 => beginCal p h true s
  | 0x0403 => beginCalSave fails p h true s
  | 0x0602 => beginNvOpen fails p h true s
  | 0x0606 => beginSaveConfig fails p h true s
  | 0x0903 => beginSwap p h true s
  | 0x0904 => beginBist p h true s
  | _ => beginClaim p h true s

/-- A command goes on under the claim just granted: a claim that a reset has released since aborts it; where its job record has no room,
or its registers cannot be reached now, it is answered so and its claim is released. -/
def goOn (fails : List Nat) (p : Pkt) (h : Nat) (s : State) : State :=
  if !s.claims.any (fun c => c.handle == h) then finalReply p 0x0B [] s
  else if longOp p.op && recordsFull s then finalReply p 1 [] (releaseClaim h s)
  else match needs (grantRegs p) s with
    | (0, s) => beginGranted fails p h s
    | (st, s) => finalReply p st [] (releaseClaim h s)

/-! ### The scan (R542) -/

/-- The work that a claim is for can go on now: NV writes wait for REFCLK, the device's own also for RESUME (R348, R555). -/
def canGrant (s : State) (w : Waiting) : Bool :=
  match w.why with
  | .command p => !nvOp p.op || s.flag CLK_STATUS.REF_QUAL
  | .repair _ _ => s.flag CLK_STATUS.REF_QUAL && !halted s
  | _ => true

/-- The first waiting claim that no held claim and no claim ahead of it conflicts with; `ahead` are those passed over. -/
def firstGrant (s : State) : List Waiting → List Waiting → Option (Waiting × List Waiting)
  | _, [] => none
  | ahead, w :: ws =>
    if canGrant s w && holdable s w.kind w.res w.pair && ahead.all (fun v => !conflict v.kind v.res v.pair w.kind w.res w.pair) then
      some (w, ahead ++ ws)
    else firstGrant s (ahead ++ [w]) ws

/-- What the holder of a new claim does with it. -/
def useGrant (fails : List Nat) (w : Waiting) (h : Nat) (s : State) : State :=
  match w.why with
  | .command p => if halted s then { s with granted := s.granted ++ [(p, h)] } else goOn fails p h s
  | .cal _ _ => s
  | .test unit => beginUnit unit h 0 false s
  | .repair add remove =>
    let b := writeBank s 3
    releaseClaim h (nvFails 3 b (bankBase 3 b) (bankBase 3 b + bankSize 3) fails (rewriteRepair add remove s))

/-- A claim leaves the queue and is held. -/
def takeWaiting (w : Waiting) (rest : List Waiting) (s : State) : Nat × State :=
  let byClaim := match w.why with | .command p => p.op == 0x0900 | _ => false
  let (h, s) := takeClaim w.src w.kind w.res w.pair byClaim (refill 48 { s with waiting := rest })
  (h, grantWake w.kind w.pair s)

/-- CLAIM_GRANT: a command whose claim was granted during a halt goes on; else the queue is scanned and one claim granted. `fails` are
the MRAM words of a write that follows which fail their read-back (R502). -/
def execClaimGrant (fails : List Nat) (s : State) : Host.Outcome State Fault Refusal :=
  match halted s, s.granted with
  | false, (p, h) :: gs => .next (goOn fails p h { s with granted := gs })
  | _, _ =>
    match firstGrant s [] s.waiting with
    | none => .next s
    | some (w, rest) =>
      let (h, s) := takeWaiting w rest s
      .next (useGrant fails w h s)

end Sys2Proof.Machine
end

