-- ==== Sys2Proof/Machine/DevCommands.lean ====
section
/-! DEFINITION. The commands of the device group, and the end of a tile reset (R377, R378, R428, R429, R432). -/
namespace Sys2Proof.Machine

/-! ### Identity, status, interrupts (R432) -/

/-- DEV_NOP. -/
def execDevNop (c : Call) (s : State) : Host.Outcome State Fault Refusal :=
  gate 0x0000 inSTR (· == 0) c (fun p s => answer p [] s) s

/-- FW_BANK of DEV_IDENTIFY: 0 A, 1 B, 2 boot ROM. -/
def fwBank (s : State) : Nat := if s.flag PWR_PHASE.FW_ROM then 2 else s.fld PWR_PHASE.FW_BANK

/-- DEV_IDENTIFY. -/
def execDevIdentify (c : Call) (s : State) : Host.Outcome State Fault Refusal :=
  gate 0x0001 inSTR (· == 0) c (fun p s =>
    let head := bytesLsb 4 0x5120 ++ [0xA1, ownId s, s.fld PWR_PHASE.PHASE, fwBank s]
    let (bs, s) := readBytes [HUB_FW_VERSION, PWR_BOOT_TIME, HUB_UID_LO, HUB_UID_HI] s
    answer p (head ++ bs ++ List.replicate 8 0) s) s

/-- Ports in showtime and lanes IN_SERVICE. -/
def portsUp (s : State) : Nat := ((List.finRange 128).filter (fun n => portShow s n)).length
def lanesUp (s : State) : Nat := ((List.range 136).filter (fun h => laneState s h == 2)).length

/-- DEV_STATUS. -/
def execDevStatus (c : Call) (s : State) : Host.Outcome State Fault Refusal :=
  gate 0x0002 inSTR (· == 0) c (fun p s =>
    let (bs, s) := readBytes [PWR_PHASE, CLK_STATUS, HUB_INT_SUMMARY] s
    answer p (bs ++ bytesLsb 2 (portsUp s) ++ bytesLsb 2 (lanesUp s) ++ bytesLsb 2 s.records.length ++ [0, 0] ++
      bytesLsb 6 (seqNow s) ++ [0, 0]) s) s

/-- DEV_INT_READ. -/
def execDevIntRead (c : Call) (s : State) : Host.Outcome State Fault Refusal :=
  gate 0x0006 inSTR (· == 0) c (fun p s => answerRegs p [HUB_INT_SUMMARY, HUB_INT_ENABLE] s) s

/-- DEV_INT_CLEAR: the bits are cleared as a write of HUB_INT_STATUS clears them (R473). -/
def execDevIntClear (c : Call) (s : State) : Host.Outcome State Fault Refusal :=
  gate 0x0007 inSTR (· == 4) c (fun p s => answerRegs p [HUB_INT_SUMMARY] (writeWord HUB_INT_STATUS (u32 p 0) s)) s

/-- A tile whose sensors DEV_TEMPS gives as 0x8000: OFF, or not up in a boot from the boot ROM (R432, R591). -/
def tileDark (s : State) (t : Nat) : Bool := s.flag PWR_PHASE.FW_ROM || tileState s t == 0

/-- DEV_TEMPS. -/
def execDevTemps (c : Call) (s : State) : Host.Outcome State Fault Refusal :=
  gate 0x0008 inSTR (· == 0) c (fun p s =>
    let lit := (List.range 8).filter (fun t => !tileDark s t)
    withRegs p (lit.map (fun t => TILE_TEMP t 0)) (fun s =>
      let tiles := (List.range 32).flatMap (fun k =>
        bytesLsb 2 (if tileDark s (k / 4) then 0x8000 else s.fld (TILE_TEMP.TEMP (k / 4) (k % 4))))
      answer p (tiles ++ (List.range 4).flatMap (fun i => bytesLsb 2 (s.fld (CAL_HUB_TEMP.TEMP i)))) s) s) s

/-! ### Resets (R375 to R379) -/

/-- DEVICE_RESET: PWR_NEXT_PHASE is written, the reply leaves, and the reset follows (R379, R384). -/
def execDeviceReset (c : Call) (s : State) : Host.Outcome State Fault Refusal :=
  gate 0x0003 inSTR (· == 1) c (fun p s =>
    let next := u8 p 0
    if 2 < next ∧ next ≠ 0xFF then badParam p s
    else
      let s := if next = 0xFF then s else writeWord PWR_NEXT_PHASE next s
      (answer p [] s).modHub (fun h => { h with resetDue := true })) s

/-- TILE_RESET: a tile already under reset is not reset anew; the job ends with the reset (R378). -/
def execTileReset (c : Call) (s : State) : Host.Outcome State Fault Refusal :=
  gate 0x0004 inST (· == 1) c (fun p s =>
    let t := u8 p 0
    if 8 ≤ t then badParam p s
    else longOnly p (fun s =>
      let s := (acceptJob p 0 false t 0 [] s).2
      if (s.tile t).inReset then s else settleWakes (tileReset t s)) s) s

/-- PORT_RESET: under a reset of its tile the command waits for the end of that (R378). -/
def execPortReset (c : Call) (s : State) : Host.Outcome State Fault Refusal :=
  gate 0x0005 inST (· == 1) c (fun p s =>
    if 128 ≤ u8 p 0 then badParam p s
    else
      let n := toPort (u8 p 0)
      if (s.tile (tileOf n)).inReset then stay p s
      else withRegs p [PORT_STARTUP_CFG n] (fun s => answer p [] (portReset n s)) s) s

/-- The PORT_RESET commands that a reset of a tile absorbed. -/
def absorbed (s : State) (t : Nat) : List Pkt := s.running.filter (fun p => p.op == 0x0005 && u8 p 0 / 16 == t)

/-- TILE_RESET_DONE: the reset of a tile ends (R377, R378, R467, R536): slices and crossbar rebuilt from REPAIR, trims restored; a
link that does not come up leaves the tile in FAULT; every TILE_RESET job of the tile ends. -/
def execTileResetDone (t : Tile) (linkUp : Bool) (s : State) : Host.Outcome State Fault Refusal :=
  if !(s.tile t).inReset then .next s
  else
    let was := (s.tile t).linkDown
    let s := applySubAdcs (fun n => n / 16 == t.val) (rebuildSlices t s)
    let s := tileTrims t (s.modTile t (fun k => { k with inReset := false, linkDown := !linkUp }))
    let s := if linkUp then
        (let s := tileUp t s
         if was then s.raise 0x1071 0 [0x020 + t, 2] else s)
      else ((s.modDom (0x020 + t) (fun d => { d with state := 5 })).setFld PWR_DOMAIN_LAST_FAULT.ID (0x020 + t)).intBit 6
    let js := s.jobs.filter (fun j => j.op == 0x0004 && j.res == t.val && jobLive s j.num)
    let s := forEach js (fun j s => finishJob j.num (if linkUp then 0 else 0x0B) 0 t 0 s) s
    .next (forEach (absorbed s t) (fun p s => answer p [] s) (askRecommit t 4 s))

/-! ### Jobs (R428, R429) -/

/-- DEV_JOBS: the oldest records are returned and removed. -/
def execDevJobs (c : Call) (s : State) : Host.Outcome State Fault Refusal :=
  gate 0x0010 inSTR (· == 1) c (fun p s =>
    let max := u8 p 0
    if max < 1 ∨ 63 < max then badParam p s
    else
      let out := s.records.take max
      let rest := s.records.drop max
      answer p (bytesLsb 2 out.length ++ bytesLsb 2 rest.length ++ out.flatten) (settleNotified { s with records := rest })) s

/-- DEV_JOB_ABORT: STATE 0 aborted, 1 already ended or past its point of no return, 2 a number not issued yet. -/
def execDevJobAbort (c : Call) (s : State) : Host.Outcome State Fault Refusal :=
  gate 0x0011 inSTR (· == 2) c (fun p s =>
    let num := u16 p 0
    if num = 0 then badParam p s
    else match s.jobs.find? (fun j => j.num == num && jobLive s j.num) with
      | some j => if j.op = 0x0004 then answer p [1] s else answer p [0] (abortJob j s)
      | none => answer p [if num ≤ s.hub.jobNum then 1 else 2] s) s

end Sys2Proof.Machine
end

