-- ==== Sys2Proof/Machine/Eei.lean ====
section
/-! DEFINITION. The commands of Energy-Efficient Idle (R291 to R315). -/
namespace Sys2Proof.Machine

/-! ### Entering -/

/-- The host side of a link is idle for IDLE_STAGES with an empty transmit queue (R295). -/
def hostIdle (s : State) (l : LinkId) : Bool :=
  decide (idleStages s l.n ≤ (s.link l).eei.idle) && queueEmpty s l

/-- The link has an entry proposed, agreed, or stands in a depth. -/
def eeiBusy (k : LinkSt) : Bool :=
  k.eei.agreed || k.eei.inDepth || (proposedEntry k).isSome || k.waiting.any (fun w => w.code == 0x40)

/-- EEI_PROPOSE_SEND: with every condition of R295 the allowed depth is proposed; where only the last two fail, one
refusal is counted in this idle period. -/
def execEeiProposeSend (l : LinkId) (s : State) : Host.Outcome State Fault Refusal :=
  let k := s.link l
  let e := k.eei
  if k.phase != 7 || !inEffect s l.n mEEI || !hostIdle s l || decide (e.hold < eeiHoldOff s l.n) || eeiBusy k then
    .next s
  else
    let d := min (linkAllowed s l) e.cap
    match (if d = 0 then some 2 else refuser s l 0 false) with
    | some c =>
      if e.refused then .next s
      else .next (showLink l (countRefusal l c (modEei l (fun e => { e with refused := true }) s)))
    | none => .next (showLink l (sendPort l 0x40 none d s))

/-- The code with which a received proposal is refused, or none (R106, R295, R296, R312). A stage that is past or taken
counts as CHANGE (log entry 15). -/
def eeiRefusal (s : State) (l : LinkId) (depth stage : Nat) : Option Nat :=
  let k := s.link l
  let d := if depth = 0 then 4 else depth
  match refuser s l d (!hostIdle s l) with
  | some c => some c
  | none => if k.eei.agreed || k.eei.inDepth || tooClose k stage || agreedAt k stage then some 8 else none

/-- EEI_PROPOSE: answered EEI_ACCEPT with the agreement recorded, or EEI_REFUSE counted under its code (R47, R296). -/
def execEeiPropose (l : LinkId) (p : Pair) (m : Msg) (s : State) : Host.Outcome State Fault Refusal :=
  let s := consume l p m s
  if (s.link l).phase != 7 then .next s
  else
    let (go, s) := crossing l 0x40 s
    if !go then .next (showLink l s)
    else
      let d := m.arg % 4
      let st := msgStage m
      match eeiRefusal s l d st with
      | some c => .next (showLink l (countRefusal l c (sendPort l 0x42 (some st) c s)))
      | none => .next (showLink l (agreeEntry l d st (sendPort l 0x41 (some st) d s)))

/-- EEI_ACCEPT: the proposer records the agreement; an abort it has sent governs; a wake it has begun enters and wakes at
once (R296, R308 to R310). -/
def execEeiAccept (l : LinkId) (p : Pair) (m : Msg) (s : State) : Host.Outcome State Fault Refusal :=
  let s := consume l p m s
  match proposalAt (s.link l) 0x40 (msgStage m) with
  | none => .next s
  | some q =>
    let e := (s.link l).eei
    let s := dropProposal l q s
    match e.abortCode with
    | some c => .next (showLink l (countAbort l c (modEei l (fun e => { e with abortCode := none }) s)))
    | none =>
      -- at most one change is agreed for a stage (R71): the entry is dropped (log entry 47)
      if agreedAt (s.link l) q.stage then
        .next (showLink l (modEei l (fun e => { e with enterWake := false, sendWake := false }) s))
      else
      let s := agreeEntry l (q.arg % 4) q.stage s
      .next (showLink l (modEei l (fun x => { x with enterWake := e.enterWake, sendWake := e.sendWake }) s))

/-- EEI_REFUSE: counted under PARTNER, the peer's code kept; after BUDGET the next proposal is one shallower; an abort or wake
begun for the proposal counts as nothing (R296, R308). -/
def execEeiRefuse (l : LinkId) (p : Pair) (m : Msg) (s : State) : Host.Outcome State Fault Refusal :=
  let s := consume l p m s
  match proposalAt (s.link l) 0x40 (msgStage m) with
  | none => .next s
  | some q =>
    let c := m.arg % 256
    let s := countRefusal l 1 ((dropProposal l q s).setFld (EEI_STATUS.PEER_CODE l.n) c)
    .next (showLink l (modEei l (fun e => { e with
      cap := if c = 2 then q.arg % 4 - 1 else e.cap, abortCode := none, enterWake := false, sendWake := false }) s))

/-- EEI_ABORT: an agreed entry of that stage, or a proposal for it, ends, counted under REMOTE (R308, R310); in a depth
entered at that stage it is a wake cause (R302); else only acknowledged. -/
def execEeiAbort (l : LinkId) (p : Pair) (m : Msg) (s : State) : Host.Outcome State Fault Refusal :=
  let s := consume l p m s
  let k := s.link l
  let st := msgStage m
  if k.phase != 7 then .next s
  else if k.eei.agreed && k.eei.entry == st then .next (showLink l (countAbort l 6 (dropEntry l s)))
  else if k.eei.inDepth && k.eei.entry == st then .next (showLink l (wakeCause l 6 s))
  else match proposalAt k 0x40 st with
    | some q =>
      let s := dropProposal l q s
      let c := (s.link l).eei.abortCode.getD 6
      .next (showLink l (countAbort l c (modEei l (fun e => { e with
        abortCode := none, enterWake := false, sendWake := false }) s)))
    | none => .next (showLink l s)

/-- EEI_WAKE: for an agreed entry both ends enter and wake at once, the cause REMOTE (R309); in a depth it confirms an alert
or is itself a wake cause (R302, R305). -/
def execEeiWakeMsg (l : LinkId) (p : Pair) (m : Msg) (s : State) : Host.Outcome State Fault Refusal :=
  let s := consume l p m s
  let k := s.link l
  let e := k.eei
  if k.phase != 7 then .next s
  else if e.agreed && e.entry == msgStage m then
    let s := if e.enterWake then s else s.setFld (EEI_STATUS.LAST_WAKE l.n) 6
    .next (showLink l (modEei l (fun e => { e with enterWake := true, peerWake := true }) s))
  else if e.inDepth then
    let s := modEei l (fun e => { e with alertHeard := true, confirmed := true }) s
    .next (showLink l (if e.waking.isNone then beginWake l 6 s else s))
  else .next (showLink l s)

/-- EEI_BUDGET_APPLY: the wake budget, MAX_DEPTH and the EEI bit take effect at a stage boundary (R45, R294). -/
def execEeiBudgetApply (l : LinkId) (s : State) : Host.Outcome State Fault Refusal := .next (applyBudget l s)

/-- The entry counter of a depth (R314). -/
def entryCounter (n : Port) (d : Nat) : Nat :=
  if d = 1 then EEI_ENTRIES_LAYOVER n else if d = 2 then EEI_ENTRIES_OVERNIGHT n else EEI_ENTRIES_LONGSTAY n

/-- EEI_ENTRY: at the agreed stage the carrying pairs become quiet and the depth is counted; with EEI_WAKE sent or received
the link enters and wakes at once, counted in EEI_ENTER_WAKE (R298, R309, R313). -/
def execEeiEntry (l : LinkId) (s : State) : Host.Outcome State Fault Refusal :=
  let k := s.link l
  let e := k.eei
  if k.phase != 7 || !e.agreed || !reached k.own e.entry then .next s
  else
    let s := s.modLink l (fun k => { k with
      changes := k.changes.filter (fun c => match c.kind with | .eei _ => false | _ => true) })
    let s := setQuiet l true (modEei l (fun e => { e with
      agreed := false, inDepth := true, quietAt := s.now, waking := none, detected := false, preDone := false,
      confirmed := false, alertSent := false, alertHeard := false, partialFr := false, sendWake := false,
      rxQuiet := true, alertSyms := none }) s)
    let s := s.modQueue l (fun q => { q with stream := [], coded := [] })
    let s := s.inc (if e.enterWake then EEI_ENTER_WAKE l.n else entryCounter l.n e.depth)
    -- a test mode that took effect since the agreement is a wake cause (R60, R302)
    .next (showLink l (if e.enterWake then beginWake l (s.fld (EEI_STATUS.LAST_WAKE l.n)) s
      else if testOn s l.n then beginWake l 3 s else s))

/-! ### While quiet -/

/-- EEI_REFRESH: in a refresh stage the receivers re-lock timing and measure the pilots of the refresh symbols, on which they have
adapted as they came; the dead-pair run counts refreshes (R147, R299, R300). -/
def execEeiRefresh (l : LinkId) (meas : List StageMeas) (s : State) : Host.Outcome State Fault Refusal :=
  let k := s.link l
  if k.phase != 7 || !refreshStage k then .next s
  else
    let n := l.n
    let s := forEach (maskPairs k.carryRx) (fun p s => clearErrors n p (measurePilots l p s)) (showMonitors l meas s)
    .next (showLink l (showFreq l s))

/-! ### Waking -/

/-- EEI_WAKE_CAUSE: a wake cause of R302 arises at this end: a wake in a depth, an abort or an enter-and-wake around an entry
(R303, R308, R309). -/
def execEeiWakeCause (l : LinkId) (cause : Nat) (s : State) : Host.Outcome State Fault Refusal :=
  .next (showLink l (wakeCause l cause s))

/-- EEI_PRESTEP_DONE: the depth's pre-step is over; a waking end sends its alerts (R303). -/
def execEeiPrestepDone (l : LinkId) (s : State) : Host.Outcome State Fault Refusal :=
  let e := (s.link l).eei
  if !e.inDepth || !(e.waking.isSome || e.detected) || e.preDone then .next s
  else .next (showLink l (startAlerts l (modEei l (fun e => { e with preDone := true }) s)))

/-- WAKE_DETECT: the wake detector declares an alert: the end starts its pre-step but does not transmit (R305). The eight alert symbols
have come; the symbols up to the resume symbol are counted from them (R304). -/
def execWakeDetect (l : LinkId) (s : State) : Host.Outcome State Fault Refusal :=
  let e := (s.link l).eei
  if !e.inDepth then .next s
  else if e.waking.isSome then .next (modEei l (fun e => { e with alertHeard := true, alertSyms := some 8 }) s)
  else .next (showLink l (modEei l (fun x => { x with
    detected := true, alertHeard := true, alertSyms := some 8, preDone := x.preDone || x.depth == 1 }) s))

/-- WAKE_CONFIRM_TIMEOUT: no confirmation within two stages of the pre-step: the end goes back to its depth, counted in
EEI_FALSE_WAKES (R305). -/
def execWakeConfirmTimeout (l : LinkId) (s : State) : Host.Outcome State Fault Refusal :=
  let e := (s.link l).eei
  if !e.inDepth || !e.detected || e.waking.isSome || !e.preDone then .next s
  else
    let s := modEei l (fun e => { e with detected := false, alertHeard := false, alertSyms := none, preDone := false }) s
    .next (showLink l (s.inc (EEI_FALSE_WAKES l.n)))

/-- The resume symbol has come: after N symbols from the first alert, in Long Stay at V of its naming (R304, R307). -/
def mayResume (k : LinkSt) : Bool :=
  k.eei.inDepth && k.eei.waking.isSome && k.eei.alertSent &&
  (k.eei.depth != 3 || (k.eei.partialFr && k.verify == 1 &&
    (match k.showStage with | some v => reached k.own v && (!isHigher k || k.farShow == some v) | none => false)))

/-- EEI_RESUME: coaches start again in the transmit direction, in the receive one when the far end's resume symbol comes; the quiet time
(µs) and the longest wake (ns), not less than the µs count shows, are accumulated; in BREAKOUT, and on a port, the depth is over (R304, R313). -/
def execEeiResume (l : LinkId) (quietUs wakeNs : Nat) (s : State) : Host.Outcome State Fault Refusal :=
  let n := l.n
  let k := s.link l
  if k.phase != 7 || !mayResume k then .next s
  else
    let s := endDepth l (s.modLink l (fun k => { k with verify := 0, farVerify := 0 }))
    let s := s.modQueue l (fun q => { q with stream := [], coded := [] })
    let s := s.add64 (EEI_QUIET_TIME n) (max quietUs (s.now - k.eei.quietAt))
    let w := min (max wakeNs (1000 * (s.now - k.eei.wakeAt))) 0xFFFFF
    .next (showLink l (if s.fld (EEI_WAKE_MAX.TIME n) < w then s.setFld (EEI_WAKE_MAX.TIME n) w else s))

/-- PARTIAL_FAST_RETRAIN_START: in Long Stay, with its own alerts sent and the peer's received, the end begins its partial
fast retrain at its stage boundary (R307). -/
def execPartialFastRetrainStart (l : LinkId) (s : State) : Host.Outcome State Fault Refusal :=
  let k := s.link l
  let e := k.eei
  if !e.inDepth || e.depth != 3 || !e.alertSent || !e.alertHeard || e.partialFr then .next s
  else
    let s := forEach (maskPairs k.carry) (fun p s => s.modPair l.n p (fun q => { q with prbsTx := List.replicate 31 true })) s
    .next (showLink l (s.modLink l (fun k => { k with
    verify := 0, farVerify := 0, errSyms := 0, showStage := none, farShow := none, adopted := false,
    eei := { k.eei with partialFr := true, partialAt := k.own } })))

/-- PARTIAL_FAST_RETRAIN_FAIL: it goes on as a fast retrain with cause MARGIN; counted, event 0x2050 (R307). -/
def execPartialFastRetrainFail (l : LinkId) (s : State) : Host.Outcome State Fault Refusal :=
  .next (showLink l (partialFail l s))

/-- CAL_DEFERRAL_WAKE: a calibration item deferred for 1 s wakes the link, event 0x2051 (R306). -/
def execCalDeferralWake (l : LinkId) (item : Nat) (s : State) : Host.Outcome State Fault Refusal :=
  if !(s.link l).eei.inDepth then .next s
  else .next (showLink l (wakeCause l 4 (s.raise 0x2051 0 [l.n, item])))

end Sys2Proof.Machine
end

