-- ==== Sys2Proof/Machine/PortCommands.lean ====
section
/-! DEFINITION. The commands of the port group (R433, R434). -/
namespace Sys2Proof.Machine

/-- The port a command names in its first byte. -/
def withPort (p : Pkt) (run : Port → State → State) (s : State) : State :=
  if 128 ≤ u8 p 0 then badParam p s else run (toPort (u8 p 0)) s

/-- An item of PORT_ENABLE: a write of PORT_STARTUP_CFG.ENABLE. -/
def enablePort (on n : Nat) : State → Nat × State :=
  itemWithRegs [PORT_STARTUP_CFG n] (putFields (PORT_STARTUP_CFG n) [(PORT_STARTUP_CFG.ENABLE n, on)])

/-- PORT_ENABLE. -/
def execPortEnable (c : Call) (s : State) : Host.Outcome State Fault Refusal :=
  gate 0x0100 inST (· == 17) c (fun p s =>
    if 1 < u8 p 16 then badParam p s else multi p (enablePort (u8 p 16)) (maskItems p 0 16) s) s

/-- The low bytes of registers, so many of each. -/
def readLow : List (Nat × Nat) → State → List Nat × State
  | [], s => ([], s)
  | (a, k) :: as, s =>
    let (v, s) := readWord a s
    let (vs, s) := readLow as s
    (bytesLsb k v ++ vs, s)

/-- The results of PORT_MODE_SET. -/
def answerModes (p : Pkt) (n : Port) (s : State) : State :=
  let r := readLow [(PORT_MODE_EFFECTIVE n, 2), (PORT_MODE_INACTIVE n, 2), (PORT_MODE_REASON0 n, 4), (PORT_MODE_REASON1 n, 2),
    (PORT_MODE_PENDING n, 2)] s
  answer p r.1 r.2

/-- PORT_MODE_SET. -/
def execPortModeSet (c : Call) (s : State) : Host.Outcome State Fault Refusal :=
  gate 0x0101 inST (· == 6) c (fun p => withPort p (fun n =>
    withRegs p [PORT_MODE n] (fun s => answerModes p n (writeWord (PORT_MODE n) (u16 p 2 * 2 ^ 16 + u16 p 4) s)))) s

/-- What PORT_RETRAIN does on a link: ACTED and the stage F. -/
def retrainLink (cause : Nat) (l : LinkId) (s : State) : (Nat × Nat) × State :=
  let k := s.link l
  if k.phase = 8 then ((2, k.frStage), s)
  else if k.phase ≠ 7 then ((0, 0), s)
  else match retrainAgreed k with
    | some x => ((2, x.stage), s)
    | none =>
      if modeRetrains k then ((2, ((k.changes.head?).map (fun x => x.stage)).getD 0), s)
      else
        let st := stagePlus (nextWaymark k) 4
        ((1, st), showLink l (requestRetrain l cause s))

/-- PORT_RETRAIN on several links: the outcome of the lowest in showtime or in a fast retrain. -/
def retrainLinks (cause : Nat) : List LinkId → Nat × Nat → State → (Nat × Nat) × State
  | [], x, s => (x, s)
  | l :: ls, x, s =>
    let (y, s) := retrainLink cause l s
    retrainLinks cause ls (if x.1 = 1 ∨ y.1 = 0 ∨ (x.1 = 2 ∧ y.1 = 2) then x else y) s

/-- PORT_RETRAIN (R189, R223). -/
def execPortRetrain (c : Call) (s : State) : Host.Outcome State Fault Refusal :=
  gate 0x0102 inST (· == 3) c (fun p => withPort p (fun n s =>
    let sub := u8 p 2
    if 1 < u8 p 1 ∨ (isBreakout s n ∧ 3 < sub ∧ sub ≠ 0xFF) then badParam p s
    else withRegs p [PORT_LINK_STATUS n] (fun s =>
      let ls := if isBreakout s n ∧ sub ≠ 0xFF then [subLink n ⟨sub % 4, by omega⟩] else activeLinks s n
      let (x, s) := retrainLinks (if u8 p 1 = 0 then 0xC else 0xD) ls (0, 0) s
      answer p ([x.1, 0, 0, 0] ++ bytesLsb 4 x.2) s) s)) s

/-- PORT_RATE: REQ_TIER is written, the host trigger of R211; the ceiling is the slower of REQ_TIER and the resolved maximum
(R210). -/
def execPortRate (c : Call) (s : State) : Host.Outcome State Fault Refusal :=
  gate 0x0103 inST (· == 2) c (fun p => withPort p (fun n s =>
    if 3 < u8 p 1 then badParam p s
    else withRegs p [PORT_RATE_CFG n] (fun s =>
      let s := putFields (PORT_RATE_CFG n) [(PORT_RATE_CFG.REQ_TIER n, u8 p 1)] s |> askTier n
      let top := max (u8 p 1) (s.fld (PORT_STARTUP_RESULT.MAX_TIER n))
      answer p [s.fld (PORT_LINK_STATUS.TIER_TX n), s.fld (PORT_LINK_STATUS.TIER_RX n), top, 0] s) s)) s

/-- PORT_STATUS. -/
def execPortStatus (c : Call) (s : State) : Host.Outcome State Fault Refusal :=
  gate 0x0104 inST (· == 1) c (fun p => withPort p (fun n => readRegs p
    [PORT_LINK_STATUS n, PORT_STARTUP_STATUS n, PORT_MODE_EFFECTIVE n, PORT_MODE_INACTIVE n, PORT_QUALITY n, PORT_FRAMING_TX n,
      PORT_FRAMING_RX n, PORT_STAGE_NOW n, EEI_STATUS n, TT_STATUS n, TT_BOUND n])) s

/-- The registers of PORT_SUMMARY for a port; none on a tile whose common domain is OFF. -/
def summaryRegs (s : State) (n : Nat) : List Nat := if tileState s (n / 16) = 0 then [] else [PORT_LINK_STATUS n, PORT_QUALITY n]

/-- The entries of PORT_SUMMARY. -/
def summaryBytes : List Nat → State → List Nat × State
  | [], s => ([], s)
  | n :: ns, s =>
    let (a, s) := if tileState s (n / 16) = 0 then (List.replicate 8 0, s) else readBytes [PORT_LINK_STATUS n, PORT_QUALITY n] s
    let (b, s) := summaryBytes ns s
    (a ++ b, s)

/-- PORT_SUMMARY. -/
def execPortSummary (c : Call) (s : State) : Host.Outcome State Fault Refusal :=
  gate 0x0105 inST (· == 0) c (fun p s =>
    withRegs p ((List.range 128).flatMap (summaryRegs s)) (fun s =>
      let (bs, s) := summaryBytes (List.range 128) s
      answer p bs s) s) s

/-- The sets of PORT_COUNTERS (R434). -/
def counterSet (n set : Nat) : List Nat :=
  match set with
  | 0 => wordsFrom (PORT_COACH_TX n) (PORT_RS_UNCORR n)
  | 1 => wordsFrom (PORT_RETRAIN_ECHO n) (PORT_DEAD_PAIR n)
  | 2 => wordsFrom (PORT_STARTUPS n) (PORT_ID_COLLIDE n)
  | 3 => wordsFrom (PORT_SWAPS n) (PORT_RETRAIN_OTHER n)
  | 4 => wordsFrom (TT_ACCEPTED n) (TT_FLUSHED n)
  | 5 => wordsFrom (EEI_STATUS n) (EEI_WAKE_MAX n) ++ (List.range 10).map (fun i => EEI_REFUSED n i) ++
      (List.range 10).map (fun i => EEI_ABORTED n i)
  | 6 => [PORT_MODE_CHANGES n, PORT_MODE_DECLINED n, PORT_PATTERN_ERR n 0, PORT_PATTERN_ERR n 1, PORT_PATTERN_ERR n 2,
      PORT_PATTERN_ERR n 3, PORT_LOOP_DISCARD n, PORT_LOOP_OVERFLOW n]
  | _ => []

/-- PORT_COUNTERS: read, and with CLEAR written to 0 in the same cycle. -/
def execPortCounters (c : Call) (s : State) : Host.Outcome State Fault Refusal :=
  gate 0x0106 inST (· == 3) c (fun p => withPort p (fun n s =>
    let as := counterSet n (u8 p 1)
    if 6 < u8 p 1 ∨ 1 < u8 p 2 then badParam p s
    else withRegs p as (fun s =>
      let (bs, s) := readBytes as s
      answer p bs (if u8 p 2 = 1 then forEach as clearCounter s else s)) s)) s

/-- PORT_PEER. -/
def execPortPeer (c : Call) (s : State) : Host.Outcome State Fault Refusal :=
  gate 0x0107 inST (· == 1) c (fun p => withPort p (fun n => readRegs p
    [PORT_OWN_ID n, PORT_PEER_ID n, PORT_PEER_TAG n, PORT_PEER_INFO n, PORT_STARTUP_RESULT n])) s

/-- PORT_FLOWCTL. -/
def execPortFlowctl (c : Call) (s : State) : Host.Outcome State Fault Refusal :=
  gate 0x0108 inST (· == 16) c (fun p => withPort p (fun n s =>
    let k := u8 p 1
    let cfg := applied k [(0, TT_PORT_CFG.FC_SEL n, u8 p 2), (1, TT_PORT_CFG.PFC_MASK n, u8 p 3)]
    let fc := applied k [(2, TT_FC_CFG.QUANTA n, u16 p 4), (3, TT_FC_CFG.XOFF_LAG n, u8 p 6), (3, TT_FC_CFG.XON_LAG n, u8 p 7)]
    let beds := applied k [(4, TT_FC_BEDS.XOFF_BEDS n, u16 p 8), (4, TT_FC_BEDS.XON_BEDS n, u16 p 10)]
    let cap := applied k [(5, TT_CAP.CAP_TX n, u16 p 12), (5, TT_CAP.CAP_RX n, u16 p 14)]
    let as := [TT_PORT_CFG n, TT_FC_CFG n, TT_FC_BEDS n, TT_CAP n]
    if !fits cfg then badParam p s
    else withRegs p as (fun s =>
      answerRegs p as (putFields (TT_CAP n) cap (putFields (TT_FC_BEDS n) beds (putFields (TT_FC_CFG n) fc
        (putFields (TT_PORT_CFG n) cfg s))))) s)) s

/-- PORT_SUBLINKS. -/
def execPortSublinks (c : Call) (s : State) : Host.Outcome State Fault Refusal :=
  gate 0x0109 inST (· == 1) c (fun p => withPort p (fun n => readRegs p (allPairs.flatMap (fun q =>
    [PAIR_SUB_LINK_STATUS n q, PAIR_SUB_STARTUP n q, PAIR_SUB_OWN_ID n q, PAIR_SUB_PEER_ID n q])))) s

end Sys2Proof.Machine
end

