-- ==== Sys2Proof/Machine/RegCommands.lean ====
section
/-! DEFINITION. The commands of the register access group and of the lock group (R442, R444, R453, R464, R469 to R472). -/
namespace Sys2Proof.Machine

/-! ### Reads (R424, R442) -/

/-- The addresses lie in the hub global block. -/
def allHub (as : List Nat) : Bool := as.all (fun a => match classify a with | some (.hub, _, _) => true | _ => false)

/-- The gate of REG_READ and REG_READ_LIST, which run before READY where they name the hub global block only (R407, R424). -/
def gateRead (op : Nat) (len : Nat → Bool) (addrs : Pkt → List Nat) (c : Call) (run : Pkt → State → State) (s : State) :
    Host.Outcome State Fault Refusal :=
  if isReady s then gate op inSTR len c run s
  else if halted s || s.hub.resetting || s.hub.resetDue then .next s
  else
    let p := pktOf s op c
    if !len (paramLen p) then .next (badParam p s)
    else if !allHub (addrs p) then .next (finalReply p 9 [] s)
    else .next (run p s)

/-- An item can be accessed: its status. -/
def itemReady (a : Nat) (s : State) : Nat × State := if a % 4 ≠ 0 then (3, s) else needs [a] s

/-- Read addresses in order until one fails: the words as bytes, and whether all were read. -/
def readItems : List Nat → State → List Nat × Bool × State
  | [], s => ([], true, s)
  | a :: as, s =>
    match itemReady a s with
    | (0, s) =>
      let (bs, s) := readBytes [a] s
      let (cs, ok, s) := readItems as s
      (bs ++ cs, ok, s)
    | (_, s) => ([], false, s)

/-- Answer the words read: PARTIAL where an item failed (R426). -/
def answerItems (p : Pkt) (as : List Nat) (s : State) : State :=
  let (bs, ok, s) := readItems as s
  finalReply p (if ok then 0 else 10) bs s

/-- The addresses of a block command: one address repeated, or ascending. -/
def blockAddrs (a count fixed : Nat) : List Nat := (List.range count).map (fun i => if fixed = 1 then a else a + 4 * i)

/-- REG_READ. -/
def execRegRead (c : Call) (s : State) : Host.Outcome State Fault Refusal :=
  let addrs (p : Pkt) : List Nat := blockAddrs (u32 p 0) (u16 p 4) (u8 p 6)
  gateRead 0x0800 (· == 8) addrs c (fun p s =>
    if u32 p 0 % 4 ≠ 0 ∨ u16 p 4 < 1 ∨ 256 < u16 p 4 ∨ 1 < u8 p 6 then badParam p s else answerItems p (addrs p) s) s

/-- The words of a list in the parameters from an offset on. -/
def listWords (p : Pkt) (off : Nat) : List Nat := (List.range ((paramLen p - off) / 4)).map (fun i => u32 p (off + 4 * i))

/-- REG_READ_LIST. -/
def execRegReadList (c : Call) (s : State) : Host.Outcome State Fault Refusal :=
  gateRead 0x0802 (fun n => n % 4 == 0 && decide (4 ≤ n ∧ n ≤ 1024)) (listWords · 0) c (fun p => answerItems p (listWords p 0)) s

/-! ### Writes (R442, R453) -/

/-- An item that writes a register: its status. -/
def writeItem (x : Nat × Nat) (s : State) : Nat × State :=
  match itemReady x.1 s with
  | (0, s) => busWrite .ring x.1 x.2 noUpdate s
  | (st, s) => (st, s)

/-- REG_WRITE. -/
def execRegWrite (c : Call) (s : State) : Host.Outcome State Fault Refusal :=
  gate 0x0801 inSTR (fun n => n % 8 == 0 && decide (8 ≤ n ∧ n ≤ 1024)) c (fun p => multi p writeItem
    ((List.range (paramLen p / 8)).map (fun i => (u32 p (8 * i), u32 p (8 * i + 4))))) s

/-- REG_WRITE_BLOCK. -/
def execRegWriteBlock (c : Call) (s : State) : Host.Outcome State Fault Refusal :=
  gate 0x0804 inSTR (fun n => n % 4 == 0 && decide (12 ≤ n ∧ n ≤ 1024)) c (fun p s =>
    let ws := listWords p 8
    if 1 < u8 p 4 then badParam p s
    else multi p writeItem ((blockAddrs (u32 p 0) ws.length (u8 p 4)).zip ws) s) s

/-- The register at an address is written under a mask in its upper half. -/
def isMasked (a : Nat) : Bool := match regAt a with | some (_, _, r, _) => r.fields.any (fun f => f.acc == .mw) | none => false

/-- What REG_RMW writes and reports for an old value, a mask and a value (R442, R453). -/
def rmwWords (masked : Bool) (old m v : Nat) : Nat × Nat :=
  if masked then
    let k := m % 65536
    (k * 65536 + (v &&& k), (old - (old &&& k)) % 65536 ||| (v &&& k))
  else
    let new := (old - (old &&& m)) ||| (v &&& m)
    (new, new)

/-- REG_RMW. -/
def execRegRmw (c : Call) (s : State) : Host.Outcome State Fault Refusal :=
  gate 0x0803 inSTR (· == 12) c (fun p s =>
    let a := u32 p 0
    match itemReady a s with
    | (0, s) =>
      let (old, s) := readWord a s
      let (w, new) := rmwWords (isMasked a) old (u32 p 4) (u32 p 8)
      match busWrite .ring a w noUpdate s with
      | (0, s) => answer p (bytesLsb 4 old ++ bytesLsb 4 new) s
      | (st, s) => finalReply p st [] s
    | (st, s) => finalReply p st [] s) s

/-- COMMIT_CONFIG: a commit pass; the command is answered at its end (R464). -/
def execCommitConfig (c : Call) (s : State) : Host.Outcome State Fault Refusal :=
  gate 0x0805 inSTR (· == 0) c (fun p s =>
    if (s.hub.commit.toList ++ s.hub.commits).any (fun x => x.2 == some p.call) then s
    else startCommit 1 (some p.call) (stay p s)) s

/-! ### Locks (R444, R469, R470) -/

/-- LOCK_SET. -/
def execLockSet (c : Call) (s : State) : Host.Outcome State Fault Refusal :=
  gate 0x0A00 [1] (· == 0) c (fun p s => answer p [] (setLock .ring s)) s

/-- The register at an address holds a lockable field. -/
def isLockable (a : Nat) : Bool := match regAt a with | some (_, _, r, _) => r.fields.any (fun f => f.acc == .rwl) | none => false

/-- UNLOCK_WRITE: the key and then the value, with no other access between. -/
def execUnlockWrite (c : Call) (s : State) : Host.Outcome State Fault Refusal :=
  gate 0x0A01 [2] (· == 12) c (fun p s =>
    if !isLockable (u32 p 4) then badParam p s
    else
      let s := writeKey .ring (u16 p 0) s
      if u16 p 0 ≠ 0x5EA7 then finalReply p 5 [] s
      else
        let (st, s) := busWrite .ring (u32 p 4) (u32 p 8) noUpdate s
        finalReply p st [] s) s

/-- LOCK_STATUS. -/
def execLockStatus (c : Call) (s : State) : Host.Outcome State Fault Refusal :=
  gate 0x0A02 inST (· == 0) c (fun p s =>
    answer p ([s.fld PWR_PHASE.PHASE, s.fld HUB_LOCK.LOCK, s.hub.window.isSome.toNat, 0] ++ bytesLsb 4 (windowLeft s)) s) s

end Sys2Proof.Machine
end

