-- ==== Sys2Proof/Machine/Tiles.lean ====
section
/-! DEFINITION. What the tile, slice and self-test commands do: faults, the crossbar, the tile link, unit tests, banks and
maintenance swaps (R18 to R27, R524 to R539). -/
namespace Sys2Proof.Machine

/-- SLICE_FAULT: a fault of a slice is declared with its code, 1 ECC to 4 XBAR (R526, R527). A FAILED slice has no further
fault; a tile that is OFF, in reset or in FAULT has none. -/
def execSliceFault (t : Tile) (sl : SliceIx) (code : Nat) (s : State) : Host.Outcome State Fault Refusal :=
  if sliceState s t sl = 3 ∨ code = 0 ∨ 4 < code then .next s else .next (sliceFault t sl code s)

/-- CROSSBAR_CHANGE: at the boundary between data symbols j and j + 1 one waiting change is made, fault replacements first
(R19, R20); never at a stage boundary or beside a waymark symbol. -/
def execCrossbarChange (t : Tile) (j : Nat) (s : State) : Host.Outcome State Fault Refusal :=
  match nextChange (s.tile t) with
  | none => .next s
  | some c =>
    if j < 1 ∨ 62 < j then .next s
    else
      let s := s.modTile t (fun k => { k with changes := k.changes.filter (· != c) })
      let s := s.inc (TILE_XBAR_SWITCHES t)
      let s := if c.fault then connectFault t c s else connectSwap t c s
      .next (showSpares t s)

/-- SLICE_SCRUB: the scrubber has read and corrected every memory of a slice: corrected errors are counted (R526). -/
def execSliceScrub (t : Tile) (sl : SliceIx) (corrected : Nat) (s : State) : Host.Outcome State Fault Refusal :=
  .next (s.addTo (SLICE_ECC_CORR t sl) corrected)

/-- TILE_LINK_CHECK_FAIL: a transfer fails its check and is retried once, counted; a second failure declares the link failed
(R27). -/
def execTileLinkCheckFail (t : Tile) (retryFails : Bool) (s : State) : Host.Outcome State Fault Refusal :=
  if (s.tile t).linkDown then .next s
  else
    let s := s.modTile t (fun k => { k with retries := k.retries + 1 })
    .next (if retryFails then settleWakes (tileLinkFailed t s) else s)

/-- TILE_LINK_LOCK_LOSS: the link loses lock and is declared failed (R27). -/
def execTileLinkLockLoss (t : Tile) (s : State) : Host.Outcome State Fault Refusal :=
  if (s.tile t).linkDown then .next s else .next (settleWakes (tileLinkFailed t s))

/-- BIST_UNIT_DUE: the periodic sweep starts its next unit test, or skips the unit; a test that falls due while the last
runs, or while the Porter is halted, waits (R530, R531, R555). -/
def execBistUnitDue (s : State) : Host.Outcome State Fault Refusal :=
  let ph := s.fld PWR_PHASE.PHASE
  if !s.flag BIST_CFG.ENABLE || (ph != 1 && ph != 2) then .next s
  else .next (sweepDue (s.modHub (fun h => { h with bistDue := 1 })))

/-- BIST_TEST_DONE: the test of a unit ends with the failures found in it and its repeats, in order (R533 to R535). -/
def execBistTestDone (unit : Nat) (fails : List MemFail) (s : State) : Host.Outcome State Fault Refusal :=
  match s.tests.find? (fun x => x.unit == unit && x.stage == .test) with
  | none => .next s
  | some x => .next (sweepDue (testDone x fails s))

/-- BANK_DRAINED: the last bed of a DRAINING bank is released; its test begins (R537). A replacement bank that a postponed
bank took its place back from becomes SPARE. -/
def execBankDrained (b : Fin 66) (s : State) : Host.Outcome State Fault Refusal :=
  if bankState s b ≠ 2 ∨ bedsUsed s b ≠ 0 then .next s
  else match s.tests.find? (fun x => x.unit == bankUnit b) with
    | some x => .next (if x.stage == .wait then putTest { x with stage := .test } s else s)
    | none => .next (moveBank b 1 s)

/-- BANK_DRAIN_TIMEOUT: a bed is still held 100 ms after the bank became DRAINING: the test is postponed (R537, R531 reason
5); the bank returns to IN_SERVICE and a replacement of it leaves service, at once if it holds no bed. -/
def execBankDrainTimeout (b : Fin 66) (s : State) : Host.Outcome State Fault Refusal :=
  match s.tests.find? (fun x => x.unit == bankUnit b && x.stage == .wait) with
  | none => .next s
  | some x =>
    let s := ((setBankState b 0 s).raise 0x4002 0 [b.val, 0]).inc BIST_POSTPONED
    let extra := if (banksIn s 0).length ≤ 64 then none
      else match (banksIn s 0).find? (fun c => c != b.val && bedsUsed s c == 0) with
        | some c => some c
        | none => ((banksIn s 0).filter (· != b.val)).getLast?
    let s := match extra with
      | none => s
      | some c => if bedsUsed s c = 0 then moveBank c 1 s else setBankState c 2 s
    let s := endTest x 0x0B 0 (showBanks s)
    let s := if x.periodic then skipUnit (544 + b.val) 5 s.hub.retrying s else s
    .next (sweepDue s)

/-- MAINT_SWAP_COPY_DONE: the copy into the spare is done; in showtime the shadow run begins, else the crossbar switches
(R538, R539). -/
def execMaintSwapCopyDone (t : Tile) (old : SliceIx) (s : State) : Host.Outcome State Fault Refusal :=
  match swapOf s t old with
  | none => .next s
  | some w =>
    if w.stage != .copy then .next s
    else match frontEnd s t old with
      | none => .next s
      | some f =>
        if inShow s (feLink s t f) then .next (stageSwap t w .shadow s) else .next (askSwitch t w s)

/-- MAINT_SWAP_SHADOW_DONE: after 16 agreeing stages the swap waits for its boundary; a disagreement fails the spare, which is
tested, reason 1 (R538, R539). -/
def execMaintSwapShadowDone (t : Tile) (old : SliceIx) (agree : Bool) (s : State) : Host.Outcome State Fault Refusal :=
  match swapOf s t old with
  | none => .next s
  | some w =>
    if w.stage != .shadow then .next s
    else if agree then .next (askSwitch t w s)
    else
      let u := sliceUnit t w.spare
      let s := showBist (abandonSwap t w 3 1 false s)
      .next (askInternal 1 u (.test u) (askRepair [⟨2, t, w.spare, 0xFFFF⟩] [] s))

end Sys2Proof.Machine
end

