-- ==== Sys2Proof/Machine/LanePcs.lean ====
section
/-! DEFINITION. The stream on a host lane (R4, R29, R30, R228, R232): pairs of RS(544,514) codewords with alignment markers, their
bits as PAM4 symbols with Gray code, polarity and precoder (R267 to R269). What R4 leaves to IEEE 802.3 Clause 119 (order of the
codewords, scrambler, place and spacing of the markers, multiplex of the PCS lanes) is PRESUMED, log entry 10; the markers have no
body. -/
namespace Sys2Proof.Machine

/-! ### PAM4 (R267 to R269) -/

/-- The symbol 0 to 3 of two bits, b1 first: 00, 01, 11, 10 (R267). -/
def graySymbol (b1 b0 : Bool) : Nat := 2 * b1.toNat + (b1 != b0).toNat

/-- The two bits of a symbol, b1 first (R267). -/
def grayBits (x : Nat) : List Bool := [bit x 1, bit x 1 != bit x 0]

/-- Bits as levels -3 to 3: Gray code, polarity, then the precoder, which has sent symbol `y` before (R267 to R269). -/
def pam4 (inv pre : Bool) : List Bool → Nat → List Int × Nat
  | b1 :: b0 :: bs, y =>
    let x := graySymbol b1 b0
    let x := if inv then 3 - x else x
    let y := if pre then (x + 4 - y % 4) % 4 else x
    let r := pam4 inv pre bs y
    ((2 * (y : Int) - 3) :: r.1, r.2)
  | _, y => ([], y)

/-- Received levels as bits: precoder, polarity, Gray code (R267 to R269). -/
def unPam4 (inv pre : Bool) : List Int → Nat → List Bool × Nat
  | v :: vs, y0 =>
    let y := ((v + 3) / 2).toNat % 4
    let x := if pre then (y + y0) % 4 else y
    let x := if inv then 3 - x else x
    let r := unPam4 inv pre vs y
    (grayBits x ++ r.1, r.2)
  | [], y0 => ([], y0)

/-! ### Transmit (R232) -/

/-- Send bits on a lane as PAM4 symbols. -/
def laneBits (h : Nat) (bs : List Bool) (s : State) : State :=
  let k := s.lane h
  let r := pam4 k.invTx k.preTx bs k.txLast
  (s.modLane h (fun k => { k with txLast := r.2 })).emit (.lane h r.1)

/-- The alignment markers that begin a codeword pair: 2056 bits at full rate, 1028 at half rate (log entry 10). -/
def markerBits (half : Bool) : List Bool := bitsLsb (markerLen half) (Config.alignmentMarkers half)

/-- Codeword pairs from one set of alignment markers to the next (log entry 10). -/
def markerPeriod (half : Bool) : Nat := if half then 2048 else 4096

/-- One 64b/66b block for a lane: four make a 257b block, which is scrambled; 10,280 bits make a pair of codewords, which leaves (R30,
R232). -/
def laneBlock (h : Nat) (b : HostBlock) (s : State) : State :=
  let k := s.lane h
  let g := k.txBlocks ++ [b]
  if g.length < 4 then s.modLane h (fun k => { k with txBlocks := g })
  else
    let x := scramble (bitsLsb 257 (transcode g)) k.txScrambler
    let bs := (if k.txBits.isEmpty && k.txPairs == 0 then markerBits k.half else k.txBits) ++ x.1
    let s := s.modLane h (fun k => { k with txBlocks := [], txScrambler := x.2, txBits := bs })
    if bs.length < 10280 then s
    else
      let s := s.modLane h (fun k => { k with txBits := [], txPairs := (k.txPairs + 1) % markerPeriod k.half })
      laneBits h (codewordPair 30 bs) s

/-- A port's egress sends a block on the lane that serves it (R232). -/
def sendHost (n : Port) (b : HostBlock) (s : State) : State := laneBlock (s.portLane n) b (s.emit (.hostBlock n b))

/-! ### Test patterns (R285 to R287) -/

/-- The places whose exclusive-or is the next bit of a pattern (R285); PRBS13Q and PRBS31Q by IEEE 802.3, the latter inverted: PRESUMED,
log entry 10. -/
def patternTaps (code : Nat) : List Nat := if code = 0 then [6, 7] else if code = 1 then [1, 2, 12, 13] else [28, 31]

/-- `count` bits of a sequence whose next bit is the exclusive-or of those at the taps, the history newest first. -/
def tapped (taps : List Nat) : Nat → List Bool → List Bool
  | 0, _ => []
  | k + 1, h =>
    let b := (taps.map (fun i => h.getD (i - 1) false)).foldl (· != ·) false
    b :: tapped taps k ((b :: h).take 31)

/-- USER_LEN as it acts: even, 2 to 160 (R288). -/
def userLen (s : State) (h : Nat) : Nat := max 2 (min 160 (s.fld (HL_PRBS_CTRL.USER_LEN h)) / 2 * 2)

/-- Bit i of the user pattern, bit 0 of USER0 first, repeated without a gap (R285). -/
def userBit (s : State) (h i : Nat) : Bool :=
  let j := i % userLen s h
  bit (s.reg (HL_PRBS_USER h (j / 32))).toNat (j % 32)

/-- Send 64 bits of a lane's pattern in place of a block of its port: Gray code and polarity, no precoder; the bits of a pending
injection are inverted. The generators start from ones (R285 to R287; DESIGN CHOICE, log entry 24). -/
def sendPattern (h : Nat) (s : State) : State :=
  let k := s.lane h
  let code := s.fld (HL_PRBS_CTRL.TX_PAT h)
  let hist := if k.patternTx.isEmpty then List.replicate 31 true else k.patternTx
  let x := if code = 3 then (List.range 64).map (fun i => userBit s h (k.patternAt + i)) else tapped (patternTaps code) 64 hist
  let y := invertFirst k.inject (if code = 2 then x.map (fun b => !b) else x)
  let s := s.modLane h (fun k => { k with
    patternTx := if code = 3 then k.patternTx else (x.reverse ++ hist).take 31,
    patternAt := if code = 3 then (k.patternAt + 64) % userLen s h else 0, inject := k.inject - 64 })
  s.emit (.lane h (pam4 k.invTx false y k.txLast).1)

/-- A lane sends its test pattern (R286): in place of its port's egress, or, REPLACED or STANDBY, of nothing. -/
def patternOn (s : State) (h : Nat) : Bool :=
  laneState s h != 0 && laneState s h != 3 && s.flag (HL_PRBS_CTRL.TX_EN h) && s.flag (CLK_HPLL_STATUS.LOCKED (octetOf h)) &&
    s.hub.boardTest.isNone

/-- A lane that carries no port's egress sends its pattern; the idle stream of R232 where it is a WARM spare or acquires for a revert;
else nothing (R271, R276, R281, R286). -/
def sideLane (h : Nat) (s : State) : State :=
  if patternOn s h then sendPattern h s
  else if (laneState s h == 1 || laneState s h == 5) && s.flag (CLK_HPLL_STATUS.LOCKED (octetOf h)) && s.hub.boardTest.isNone then
    laneBlock h idleBlock s
  else s

/-- The lanes whose time goes with the egress of port n and that do not serve it: its own lane after a substitution, and its group's
spare with the group's first port (DESIGN CHOICE, log entry 10: the table has no row for the time of a lane without a port). -/
def sideLanes (s : State) (n : Port) : List Nat :=
  (if s.portLane n = n.val then [] else [n.val]) ++
    (if n.val % 16 = 0 ∧ lanePort s (spareLane (groupOf n)) = 0x7F then [spareLane (groupOf n)] else [])

/-! ### Receive (R228, R275) -/

/-- PCS lanes that a physical lane carries (R275). -/
def pcsLanes (half : Bool) : Nat := if half then 8 else 16

/-- The alignment marker of PCS lane i: twelve symbols, the markers' symbols being dealt to the PCS lanes in turn (log entry 10). -/
def laneMarker (half : Bool) (i : Nat) : List Nat :=
  (List.range 12).map (fun r => ofBitsLsb (((markerBits half).drop (10 * (pcsLanes half * r + i))).take 10))

/-- The PCS lane whose marker stands first in the symbols of one place of the multiplex, and the symbols from there on. -/
def findMarker (half : Bool) : List Nat → Option (Nat × List Nat)
  | [] => none
  | x :: xs =>
    match (List.range (pcsLanes half)).find? (fun i => laneMarker half i == (x :: xs).take 12) with
    | some i => some (i, x :: xs)
    | none => findMarker half xs

/-- The symbols of place `i` of `w` places. -/
def place (w i : Nat) (sy : List Nat) : List Nat := (List.range (sy.length / w)).map (fun r => sy.getD (w * r + i) 0)

/-- Alignment with the first symbol at bit `o`: the PCS lane at each place, the symbols of each PCS lane from its marker on, and the bits
of the symbols that do not fill a row. The PCS lanes may stand at any places with any skew (R275). -/
def alignAt (half : Bool) (bs : List Bool) (o : Nat) : Option (List Nat × List (List Nat) × List Bool) :=
  let w := pcsLanes half
  let rest := bs.drop o
  let rows := rest.length / (10 * w)
  let sy := symbols10 (rows * w) rest
  let found := (List.range w).filterMap (fun i => findMarker half (place w i sy))
  let cols := found.map (·.1)
  if cols.length = w && (List.range w).all (fun i => cols.contains i) then
    some (cols, (List.range w).map (fun i => ((found.find? (fun x => x.1 == i)).map (·.2)).getD []), rest.drop (10 * w * rows))
  else none

/-- Bits within which alignment is sought: more than the skew of Clause 119 (log entry 10). -/
def alignWindow : Nat := 81920

/-- Rows of symbols join those that wait; `fuel` bounds the rows. -/
def takeRows (w : Nat) (cols : List Nat) : Nat → List Bool → List (List Nat) → List (List Nat) × List Bool
  | 0, bs, sy => (sy, bs)
  | fuel + 1, bs, sy =>
    if bs.length < 10 * w then (sy, bs)
    else
      let row := symbols10 w (bs.take (10 * w))
      takeRows w cols fuel (bs.drop (10 * w)) (sy.zipIdx.map (fun x => x.1 ++ [row.getD (cols.idxOf x.2) 0]))

/-- The deskewed bits: a symbol of every PCS lane in turn, as long as each has one. -/
def deskewed (sy : List (List Nat)) : List Bool × List (List Nat) :=
  let k := (sy.map List.length).foldl min (sy.headD []).length
  ((List.range k).flatMap (fun r => sy.flatMap (fun x => bitsLsb 10 (x.getD r 0))), sy.map (List.drop k))

/-- Received bits pass alignment and deskew: what joins the running pair of codewords. -/
def alignBits (h : Nat) (bs : List Bool) (s : State) : State :=
  let k := s.lane h
  let w := pcsLanes k.half
  let bits := k.rxBits ++ bs
  let got := if k.rxCols.isEmpty then (List.range 10).findSome? (alignAt k.half bits)
    else
      let r := takeRows w k.rxCols (bits.length / (10 * w)) bits k.rxSyms
      some (k.rxCols, r.1, r.2)
  match got with
  | none => s.modLane h (fun k => { k with rxBits := bits.drop (bits.length - alignWindow) })
  | some (cols, sy, rest) =>
    let d := deskewed sy
    let s := if k.rxCols.isEmpty then (s.modLane h (fun k => { k with rxPair := [], rxPairs := 0 })).setFld (HL_STATUS.AM_LOCK h) 1 else s
    s.modLane h (fun k => { k with rxBits := rest, rxCols := cols, rxSyms := d.2, rxPair := k.rxPair ++ d.1 })

/-- The 66b blocks of the 257b blocks of a pair; a 257b block of a codeword that did not decode is marked in each of its blocks, which
go on as error control blocks (R228). -/
def pairBlocks : Nat → List (Bool × Bool) → List Bool → List HostBlock × List Bool
  | 0, _, h => ([], h)
  | k + 1, bs, h =>
    let x := bs.take 257
    let d := descramble (x.map (·.1)) h
    let g := if x.any (·.2) then List.replicate 4 errorBlock else untranscode (ofBitsLsb d.1)
    let r := pairBlocks k (bs.drop 257) d.2
    (g ++ r.1, r.2)

/-- UNCORR_MAX as it acts (R288). -/
def uncorrMax (s : State) (h : Nat) : Nat := max 1 (min 512 (s.fld (HL_FAULT_CFG.UNCORR_MAX h)))

/-- A whole pair of codewords: decoded and counted; the uncorrectable codewords of the last 512 may be a fault, cause UNCORR (R228, R277,
R288). In TRANSPARENT the lane's bits stay as they are, in pieces of 64 whose `ctrl` says that markers begin the pair (R258). -/
def takePair (h : Nat) (bs : List Bool) (s : State) : State :=
  let k := s.lane h
  let mark := k.rxPairs == 0
  let s := s.modLane h (fun k => { k with rxPairs := (k.rxPairs + 1) % markerPeriod k.half, rxSkip := false })
  if k.rxSkip then s
  else if decide (lanePort s h < 128) && inEffect s (toPort (lanePort s h)) mTRANSPARENT then
    s.modLane h (fun k => { k with
      rxBlocks := k.rxBlocks ++ (List.range 170).map (fun i => ⟨mark, ofBitsLsb ((bs.drop (64 * i)).take 64)⟩) })
  else
    let r := openWords 30 bs
    let m := if mark then markerLen k.half else 0
    let x := pairBlocks ((10280 - m) / 257) (r.1.drop m) k.rxScrambler
    let s := s.add64 (HL_RS_CW h) 2
    let s := (s.add64 (HL_RS_CORR_SYM h) r.2.1).addTo (HL_RS_UNCORR h) r.2.2
    let win := (List.replicate r.2.2 true ++ List.replicate (2 - r.2.2) false ++ k.rxUncorr).take 512
    let many := decide (uncorrMax s h ≤ (win.filter id).length)
    let s := s.modLane h (fun k => { k with rxScrambler := x.2, rxBlocks := k.rxBlocks ++ x.1, rxUncorr := if many then [] else win })
    if many then laneFault h 3 s else s

/-- The whole pairs of a lane, at most `fuel`. -/
def takePairs (h : Nat) : Nat → State → State
  | 0, s => s
  | fuel + 1, s =>
    let bs := (s.lane h).rxPair
    if bs.length < 10880 then s
    else takePairs h fuel (takePair h (bs.take 10880) (s.modLane h (fun k => { k with rxPair := k.rxPair.drop 10880 })))

/-- A lane's receiver hears its input: it is not disabled, its octet's HPLL is locked, the checker does not have it (R266, R286). -/
def laneHears (s : State) (h : Nat) : Bool :=
  laneState s h != 0 && !s.flag (HL_PRBS_CTRL.RX_EN h) && s.flag (CLK_HPLL_STATUS.LOCKED (octetOf h)) && s.hub.boardTest.isNone

/-! ### The checker (R285 to R287) -/

/-- The next bit of the pattern RX_PAT after the bits of a history, newest first; of the user pattern where it has come to a place that
the history fits; none before there is history enough. -/
def patternNext (s : State) (h : Nat) (hist : List Bool) : Option Bool :=
  let code := s.fld (HL_PRBS_CTRL.RX_PAT h)
  if code = 3 then
    let n := userLen s h
    if hist.length < n then none
    else ((List.range n).find? (fun j => (List.range n).all (fun i => hist.getD i false == userBit s h (j + n - 1 - i)))).map (userBit s h)
  else
    let taps := patternTaps code
    if hist.length < taps.foldl max 0 then none
    else
      let b := (taps.map (fun i => hist.getD (i - 1) false)).foldl (· != ·) false
      some (if code = 2 then !b else b)

/-- History of a checker with one bit more: what PRBS31Q inverts on the line is kept as its generator has it. -/
def keepBit (code : Nat) (b : Bool) (hist : List Bool) : List Bool := ((if code = 2 then !b else b) :: hist).take 160

/-- A received symbol passes the checker (R287): out of lock it compares with the prediction from what was received, and 64 symbols in a
row that match lock it; in lock it counts bits, and 32 misses of 256 symbols lose the lock. -/
def checkSymbol (h : Nat) (b1 b0 : Bool) (s : State) : State :=
  let k := s.lane h
  let code := s.fld (HL_PRBS_CTRL.RX_PAT h)
  let locked := s.flag (HL_PRBS_STATUS.LOCKED h)
  let p1 := patternNext s h k.checkBits
  let h1 := keepBit code (if locked then p1.getD b1 else b1) k.checkBits
  let p0 := patternNext s h h1
  let h0 := keepBit code (if locked then p0.getD b0 else b0) h1
  let wrong := (p1 != some b1).toNat + (p0 != some b0).toNat
  let s := s.modLane h (fun k => { k with checkBits := h0 })
  if locked then
    let s := (s.add64 (HL_PRBS_BITS h) 2).add64 (HL_PRBS_ERR h) wrong
    let miss := (decide (0 < wrong) :: k.checkMiss).take 256
    let s := s.modLane h (fun k => { k with checkMiss := miss })
    if 32 ≤ (miss.filter id).length then prbsUnlock h s else s
  else
    let run := if wrong = 0 then k.checkRun + 1 else 0
    let s := s.modLane h (fun k => { k with checkRun := if run = 64 then 0 else run })
    if run = 64 then s.setFld (HL_PRBS_STATUS.LOCKED h) 1 else s

/-- Received bits pass the checker, two a symbol. -/
def checkLane (h : Nat) : List Bool → State → State
  | b1 :: b0 :: bs, s => checkLane h bs (checkSymbol h b1 b0 s)
  | _, s => s

/-- A lane's input goes to its checker (R286). -/
def laneChecks (s : State) (h : Nat) : Bool :=
  laneState s h != 0 && s.flag (HL_PRBS_CTRL.RX_EN h) && s.flag (CLK_HPLL_STATUS.LOCKED (octetOf h)) && s.hub.boardTest.isNone

/-- The levels that a lane has received: precoder, polarity and Gray code, alignment and deskew, codewords (R29, R228, R267 to R269, R272,
R275); with RX_EN polarity and Gray code alone, then the checker (R285, R286). -/
def hearLevels (h : Nat) (rx : List Int) (s : State) : State :=
  if laneChecks s h then checkLane h (unPam4 (s.lane h).invRx false rx 0).1 s
  else if rx.isEmpty || !laneHears s h then s
  else
    let k := s.lane h
    let y := unPam4 k.invRx k.preRx rx k.rxLast
    let s := alignBits h y.1 (adaptCtle h (s.modLane h (fun k => { k with rxLast := y.2 })))
    takePairs h ((s.lane h).rxPair.length / 10880) s

end Sys2Proof.Machine
end

