-- ==== Sys2Proof/Machine/Timetable.lean ====
section
/-! DEFINITION. The commands of the Timetable and the Hostel: host blocks in and out, far egress reports, expiry, flow
control, scrubbing and fences (R33, R228 to R259). -/
namespace Sys2Proof.Machine

/-- The command's block opens a frame or is a new ordered set (R295, R302 HOST). -/
def opensTraffic (s : State) (n : Port) (b : HostBlock) : Bool :=
  match blockKind b with
  | .start => true
  | .ordered => decide ((s.host n).lastOs ≠ some (orderedValue b))
  | _ => false

/-- The next block, or in TRANSPARENT the next 64 bits, that the port's lane has recovered, at time t (R229, R242, R256, R258, R259). -/
def takeIngress (n : Port) (t : Rat) (s : State) : State :=
  let h := s.portLane n
  match (s.lane h).rxBlocks with
  | [] => s
  | b :: bs =>
    let s := s.modLane h (fun k => { k with rxBlocks := bs })
    if inEffect s n mTRANSPARENT then ingressCodeword n b t s
    else
      let wakes := opensTraffic s n b
      let was := (s.host n).opened
      let s := ingressBlock n b t s
      if isBreakout s n then
        (if !was && (s.host n).opened then hostActive (ingressLink s n) s else s)
      else if wakes then hostActive (portLink n) s
      else s

/-- INGRESS_BLOCK: lane h receives some levels, and the ingress of port n takes the next 66b block of its lane at time t, after the
blocks that wait for a write slot (R36, R228 to R231, R242, R256, R258, R259, R275). -/
def execIngressBlock (n : Port) (h : Lane) (t : Rat) (rx : List Int) (s : State) :
    Host.Outcome State Fault Refusal :=
  let s := hearLevels h rx s
  if !ingressOn s n then .next s
  else
    let s := drainStage n (s.host n).stage.length s
    .next (showRoute n (showBeds n (fcJudge n t (takeIngress n t s))))

/-- A link has a block ready for the egress: the rest of a frame that has begun, a frame under TIMETABLE, or a whole
frame (R232, R256). -/
def egressReady (s : State) (l : LinkId) : Bool :=
  match frames s l .rx with
  | f :: _ => !f.blocks.isEmpty && (f.tt || f.closed)
  | [] => false

/-- The first frame of a link's receive queue has been sent in part, and its rest is to come: a frame of which an error control block
has left may have ended there (R232, R245). -/
def midFrame (s : State) (l : LinkId) : Bool :=
  match frames s l .rx with
  | f :: _ => f.sent && !(f.err && f.blocks.isEmpty)
  | [] => false

/-- The link whose turn it is at the egress: the one inside a frame, else the next ready one in ascending pair order
after the last (R232). -/
def egressTurn (s : State) (n : Port) : Option LinkId :=
  let ls := activeLinks s n
  match ls.find? (midFrame s) with
  | some l => some l
  | none =>
    let k := (s.host n).turn % ls.length
    ((ls.drop k ++ ls.take k).find? (egressReady s))

/-- The egress stands at a frame boundary. -/
def egressBoundary (s : State) (n : Port) : Bool :=
  (s.host n).egress.isEmpty && !(activeLinks s n).any (midFrame s)

/-- The 64b/66b blocks of a received 257b block; the padding after a Terminate goes, and one idle block keeps the gap
between frames (R232, log entry 10). Blocks outside a frame leave as they are (R32). -/
def egressBlocks (x : Nat) (ends stray : Bool) : List HostBlock :=
  let g := untranscode x
  if ends && !stray then (g.reverse.dropWhile (fun b => blockKind b == .idle)).reverse ++ [idleBlock] else g

/-- Send the first of some blocks to the host and keep the rest. -/
def sendBlocks (n : Port) (g : List HostBlock) (s : State) : State :=
  match g with
  | [] => s
  | b :: bs => sendHost n b (s.modHost n (fun h => { h with egress := bs }))

/-- Take a 257b block of the link whose turn it is; the ordered set of before, or idle, when none is ready (R232). -/
def egressNext (n : Port) (s : State) : State :=
  let quietBlock := match (s.host n).egressOs with
    | some v => orderedBlock v
    | none => idleBlock
  match egressTurn s n with
  | none => sendHost n quietBlock s
  | some l =>
    match takeBlock l .rx s with
    | (none, s) => sendHost n quietBlock s
    | (some (x, ends, f), s) =>
      let turn := match l.sub with | some p => p.val + 1 | none => 0
      if f.os then
        let b := (untranscode x).headD idleBlock
        let s := s.modHost n (fun h => { h with egressOs := some (orderedValue b), turn := turn })
        showBeds n (sendHost n b s)
      else
        let s := s.modHost n (fun h => { h with egressOs := none, fcBetween := false, turn := if ends then turn else h.turn })
        let s := if ends && !f.stray && f.state == .accepted then s.inc64 (TT_FRAMES_RX n) else s
        showBeds n (sendBlocks n (egressBlocks x ends f.stray) s)

/-- Send the first 64 bits of the codeword stream on the lane, in lane order, and keep the rest (R258). -/
def sendWords (n : Port) (g : List HostBlock) (s : State) : State :=
  match g with
  | [] => s
  | b :: bs =>
    let s := (s.modHost n (fun h => { h with egress := bs })).emit (.hostBlock n b)
    laneBits (s.portLane n) (bitsLsb 64 b.data) s

/-- The next pair of codewords for the host in TRANSPARENT, its codewords sharing it symbol by symbol (log entry 10); one with a bit of a
CRC_BAD coach, or expired, leaves as the uncorrectable pattern, counted. The markers keep their places: the egress knows them from the
last pair that began with them (R98, R258, R259). -/
def codewordNext (n : Port) (s : State) : State :=
  let q := s.queue (portLink n)
  if q.cwRx.length < 10880 then s
  else
    let half := laneHalf s n
    let c := q.cwRx.take 10880
    let bits := c.map (·.1)
    let hit (i : Nat) : Bool := c.zipIdx.any (fun x => x.1.2 && x.2 / 10 % 2 == i)
    let bad := (hit 0, hit 1)
    let seen := bits.take (markerLen half) == markerBits half
    let mark := seen || q.cwAm == some (markerPeriod half - 1)
    let s := s.modQueue (portLink n) (fun q => { q with
      cwRx := q.cwRx.drop 10880, cwRxDue := q.cwRxDue.drop 1, cwAm := if mark then some 0 else q.cwAm.map (· + 1) })
    let s := s.addTo (TT_CW_REFUSED n) (bad.1.toNat + bad.2.toNat)
    let v := ofBitsLsb (if bad.1 || bad.2 then spoilPair half (if mark then markerLen half else 0) bad 0 bits else bits)
    sendWords n ((List.range 170).map (fun i => ⟨false, v / 2 ^ (64 * i) % 2 ^ 64⟩)) s

/-- What the egress of a port does in the time of a block (R232, R256, R258). -/
def egressBlock (n : Port) (t : Rat) (s : State) : State :=
  if egressDown s n then s
  else if !portShow s n then sendHost n localFault s
  else if inEffect s n mTRANSPARENT then
    match (s.host n).egress with
    | [] => codewordNext n s
    | g => sendWords n g s
  else
    match (s.host n).egress with
    | [] => fcJudge n t (egressNext n s)
    | g => sendBlocks n g s

/-- A held egress sends idle blocks; once its switch is complete it goes on at the codeword boundary (R278, R279). -/
def egressWait (n : Port) (s : State) : State :=
  let s := if egressDown s n then s else sendHost n idleBlock s
  if atBoundary s (s.portLane n) then s.modHost n (fun h => { h with resume := false }) else s

/-- EGRESS_BLOCK: the time of a block on the lanes of a port: the next 64b/66b block, or in TRANSPARENT 64 bits of the codeword stream,
for the host; a lane under test sends its pattern (R232, R256, R258, R276, R286). -/
def execEgressBlock (n : Port) (t : Rat) (s : State) : Host.Outcome State Fault Refusal :=
  let s := forEach (sideLanes s n) sideLane s
  if patternOn s (s.portLane n) then .next (sendPattern (s.portLane n) s)
  else if egressHeld s n then .next (egressWait n s)
  else .next (egressBlock n t s)

/-- The far egress capacity e = host_rate × (1 + ρ) (R233): the far end's lane rate as it announced it (R174), and the lowest frequency
of its reference over the last 64 stages on the carrying pairs, in 0.01 ppm (R121). -/
def farCapacity (s : State) (l : LinkId) : Rat :=
  let k := s.link l
  let fs := (maskPairs k.carryRx).flatMap (fun p => (s.pair l.n.val p).freqs)
  let rho : Int := fs.foldl min (fs.headD 0)
  hostRate (bit (k.peerPages.headD 0) 33) * (1 + (rho : Rat) / 100000000)

/-- FAR_EGRESS_REPORT: the tile of a link reports the far egress capacity at time t (R233, R241). -/
def execFarEgressReport (n : Port) (sub : Option Pair) (t : Rat) (s : State) : Host.Outcome State Fault Refusal :=
  let l : LinkId := ⟨n, sub⟩
  .next (fcJudge n t (s.modQueue l (fun q => { q with far := farCapacity s l })))

/-- FRAME_EXPIRY: accepted frames, and codewords that wait, whose deadline has passed at time t expire (R245 to R247, R259). -/
def execFrameExpiry (l : LinkId) (d : Dir) (t : Rat) (cause : Nat) (s : State) : Host.Outcome State Fault Refusal :=
  let s := expireFrames l d (fun f => decide (f.deadline < t)) cause s
  let s := match d with
    | .tx => expireCodewords l (fun due => decide (due < t)) cause s
    | .rx => expireRxCodewords l (fun due => decide (due < t)) cause s
  .next (fcJudge l.n t (showBeds l.n s))

/-- FC_XOFF_REPEAT: half of the pause time has passed; where the XOFF condition lasts, XOFF is sent again (R253). -/
def execFcXoffRepeat (n : Port) (s : State) : Host.Outcome State Fault Refusal :=
  if fcOn s n && (s.host n).xoffOn && (activeLinks s n).any (xoffCond s) then
    .next (s.modHost n (fun h => { h with fcWait := some (s.fld (TT_FC_CFG.QUANTA n)) }))
  else .next s

/-- The 64 octets of a generated PAUSE or PFC frame with a pause time (R252). -/
def fcFrame (s : State) (n : Port) (q : Nat) : List Nat :=
  let sa := octets 2 (s.fld TT_FC_SA_HI.SA) ++ octets 4 (s.reg TT_FC_SA_LO).toNat
  let mask := s.fld (TT_PORT_CFG.PFC_MASK n)
  let body := if s.fld (TT_PORT_CFG.FC_SEL n) = 2 then
      octets 2 0x0101 ++ octets 2 mask ++ (List.range 8).flatMap (fun i => octets 2 (if bit mask i then q else 0))
    else octets 2 0x0001 ++ octets 2 q
  let bs := [0x01, 0x80, 0xC2, 0x00, 0x00, 0x01] ++ sa ++ octets 2 0x8808 ++ body
  let bs := bs ++ List.replicate (60 - bs.length) 0
  bs ++ bytesLsb 4 (fcs bs)

/-- FC_FRAME_INSERT: the waiting generated frame enters the egress at a frame boundary, one between two received frames and
one per 256 ns (R254). Where no frame has been received since the last one, a second waits for the next (DESIGN CHOICE, log entry 47:
"between two received frames" does not say what holds with no frame after it). -/
def execFcFrameInsert (n : Port) (t : Rat) (s : State) : Host.Outcome State Fault Refusal :=
  let h := s.host n
  let free := match h.fcAt with | none => true | some a => decide (a + 256 ≤ t)
  match h.fcWait with
  | none => .next s
  | some q =>
    if fcOn s n && !egressDown s n && !egressHeld s n && free && !h.fcBetween && egressBoundary s n then
      let s := s.modHost n (fun h => { h with fcWait := none, fcAt := some t, fcBetween := true })
      let s := (s.inc (TT_FC_SENT n)).setFld (TT_STATUS.XOFF n) (decide (q ≠ 0)).toNat
      .next (forEach (frameBlocks (fcFrame s n q) ++ [idleBlock]) (sendHost n) s)
    else .next s

/-- An error that the Hostel found is the last one recorded (R260). -/
def lastError (uncorr bank w : Nat) (s : State) : State :=
  ((s.setFld HOSTEL_ECC_LAST.UNCORR uncorr).setFld HOSTEL_ECC_LAST.BANK bank).setFld HOSTEL_ECC_LAST.WORD w

/-- HOSTEL_SCRUB_PASS: single-bit errors were corrected on reads, those of the scrubber among them while it runs (R237). -/
def execHostelScrubPass (corrected : List Corrected) (s : State) : Host.Outcome State Fault Refusal :=
  let xs := corrected.filter (fun x => !x.scrub || s.flag HOSTEL_CFG.SCRUB_EN)
  .next (forEach xs (fun x s => lastError 0 x.bank x.word (s.inc64 HOSTEL_ECC_CORR)) s)

/-- Every port and sub-link of the device. -/
def everyLink : List LinkId := (List.finRange 128).flatMap portLinks

/-- A frame holds a bed in bank b. -/
def inBank (b : Nat) (f : Frame) : Bool := f.banks.contains b

/-- What of some units of a queue is a frame: an ordered set is none. -/
def frameCount (fs : List Frame) : Nat := (fs.filter (fun f => !f.os && !f.stray)).length

/-- Remove what a queue holds in bank b: frames under TIMETABLE expire with cause ECC, others are discarded and counted in TT_ECC_LOSS
(R237); a waiting codeword becomes the uncorrectable pattern (R259). Ordered sets go uncounted. Answers how many of each. -/
def fenceQueue (b : Nat) (l : LinkId) (d : Dir) (s : State) : Nat × Nat × State :=
  let hit := (frames s l d).filter (inBank b)
  let cws := match d with | .tx => (s.queue l).cwUnits.any (fun u => u.banks.contains b) | .rx => false
  if hit.isEmpty && !cws then (0, 0, s)
  else
    let isOpen := hit.any (fun f => !f.closed)
    let s := (dropFrames l d (inBank b) s).2
    let s := releaseBeds l.n d ((frames s l d).flatMap (fun f => f.banks.filter (· == b))) s
    let s := setFrames l d ((frames s l d).map (fun f => { f with banks := f.banks.filter (· != b) })) s
    let c := if cws then dropCodewords l (fun u => u.banks.contains b) s else (0, s)
    let s := if cws then (releaseBeds l.n d ((c.2.queue l).cwUnits.flatMap (fun u => u.banks.filter (· == b))) c.2).modQueue l (fun q => { q with
        cwUnits := q.cwUnits.map (fun u => { u with banks := u.banks.filter (· != b) }) }) else c.2
    let tt := inEffect s l.n 0
    let gone := frameCount (hit.filter (fun f => f.tt)) + (if tt then c.1 else 0)
    let lost := frameCount (hit.filter (fun f => !f.tt)) + (if tt then 0 else c.1)
    let s := if gone = 0 then s else (s.addTo (expiredAt l.n d) gone).raise 0x4010 1 [l.n, dirNat d, 2, gone]
    let s := s.addTo (TT_ECC_LOSS l.n) lost
    let s := match d with
      | .tx => if isOpen && (s.host l.n).opened && decide ((s.host l.n).sub = l.sub) then
                 dropRest l.n (s.modHost l.n (fun h => { h with opened := false }))
               else s
      | .rx => if isOpen then s.modQueue l (fun q => { q with rxOpen := false, rxDrop := true }) else s
    (gone, lost, showBeds l.n s)

/-- HOSTEL_FENCE: an uncorrectable error in a bank (R237): the bank is FENCED and a SPARE bank takes its place; frames with a
bed in it go; its beds leave the pool when no spare is left; event 0x4001; a REPAIR entry keeps it fenced. -/
def execHostelFence (bank : Nat) (addr : Nat) (s : State) : Host.Outcome State Fault Refusal :=
  if bank < 66 ∧ bankState s bank ≠ 3 then
    let was := bankState s bank
    let spare := if was = 0 then (banksIn s 1).head? else none
    let s := setBankState bank 3 s
    let s := match spare with | some b => setBankState b 0 s | none => s
    let r := everyLink.foldl (fun (x : Nat × Nat × State) l =>
      let a := fenceQueue bank l .tx x.2.2
      let b := fenceQueue bank l .rx a.2.2
      (x.1 + a.1 + b.1, x.2.1 + a.2.1 + b.2.1, b.2.2)) (0, 0, s)
    let s := setBedsUsed bank 0 r.2.2
    let s := (showBanks ((s.inc HOSTEL_ECC_UNCORR).inc HOSTEL_FENCES)).intBit 9
    let s := lastError 1 bank addr s
    let s := s.raise 0x4001 2 [bank, spare.getD 0xFF, r.1, r.2.1]
    .next (internalRepair 1 bank 0xFFFF s)
  else .next s

end Sys2Proof.Machine
end

