-- ==== Sys2Proof/Machine/Dispatch.lean ====
section
/-! DEFINITION. The effect of each command: one arm per row of the table, one call of its meaning. -/
namespace Sys2Proof.Machine

def exec (i : Instr) (s : State) : Host.Outcome State Fault Refusal :=
  match i with
  | .sliceFault t sl code => Sys2Proof.Machine.execSliceFault t sl code s
  | .crossbarChange t j => Sys2Proof.Machine.execCrossbarChange t j s
  | .sliceScrub t sl corrected => Sys2Proof.Machine.execSliceScrub t sl corrected s
  | .tileLinkCheckFail t retryFails => Sys2Proof.Machine.execTileLinkCheckFail t retryFails s
  | .portModeWrite n v => Sys2Proof.Machine.execPortModeWrite n v s
  | .timetableModeApply n => Sys2Proof.Machine.execTimetableModeApply n s
  | .bundleModeApply n => Sys2Proof.Machine.execBundleModeApply n s
  | .testModeDrainPoint n b => Sys2Proof.Machine.execTestModeDrainPoint n b s
  | .patternInjSingle n => Sys2Proof.Machine.execPatternInjSingle n s
  | .patternInjBurst n => Sys2Proof.Machine.execPatternInjBurst n s
  | .modeChangeApply l => Sys2Proof.Machine.execModeChangeApply l s
  | .coachTx l => Sys2Proof.Machine.execCoachTx l s
  | .coachRx n sub a b c d t => Sys2Proof.Machine.execCoachRx n sub a b c d t s
  | .waymarkSymbolTx l => Sys2Proof.Machine.execWaymarkSymbolTx l s
  | .waymarkSymbolRx l rx => Sys2Proof.Machine.execWaymarkSymbolRx l rx s
  | .waymarkSyncLoss l => Sys2Proof.Machine.execWaymarkSyncLoss l s
  | .wmMessageAbandon l p => Sys2Proof.Machine.execWmMessageAbandon l p s
  | .wmStatus l p m => Sys2Proof.Machine.execWmStatus l p m s
  | .swapEntry l p m => Sys2Proof.Machine.execSwapEntry l p m s
  | .swapCommit l p m => Sys2Proof.Machine.execSwapCommit l p m s
  | .swapAccept l p m => Sys2Proof.Machine.execSwapAccept l p m s
  | .swapDecline l p m => Sys2Proof.Machine.execSwapDecline l p m s
  | .ratePropose l p m => Sys2Proof.Machine.execRatePropose l p m s
  | .rateAccept l p m => Sys2Proof.Machine.execRateAccept l p m s
  | .rateDecline l p m => Sys2Proof.Machine.execRateDecline l p m s
  | .modePropose l p m => Sys2Proof.Machine.execModePropose l p m s
  | .modeAccept l p m => Sys2Proof.Machine.execModeAccept l p m s
  | .modeDecline l p m => Sys2Proof.Machine.execModeDecline l p m s
  | .eeiPropose l p m => Sys2Proof.Machine.execEeiPropose l p m s
  | .eeiAccept l p m => Sys2Proof.Machine.execEeiAccept l p m s
  | .eeiRefuse l p m => Sys2Proof.Machine.execEeiRefuse l p m s
  | .eeiAbort l p m => Sys2Proof.Machine.execEeiAbort l p m s
  | .eeiWakeMsg l p m => Sys2Proof.Machine.execEeiWakeMsg l p m s
  | .faultNotice l p m => Sys2Proof.Machine.execFaultNotice l p m s
  | .retrainRequest l p m => Sys2Proof.Machine.execRetrainRequest l p m s
  | .stageCheck l p m => Sys2Proof.Machine.execStageCheck l p m s
  | .wmUnknownCode n p m => Sys2Proof.Machine.execWmUnknownCode n p m s
  | .pairTblDataWrite n p v => Sys2Proof.Machine.execPairTblDataWrite n p v s
  | .tableShadowCopyDone n p d => Sys2Proof.Machine.execTableShadowCopyDone n p d s
  | .subadcTakeSlot n p slot back => Sys2Proof.Machine.execSubadcTakeSlot n p slot back s
  | .subadcFail n p sub => Sys2Proof.Machine.execSubadcFail n p sub s
  | .gainLimitRetrain l => Sys2Proof.Machine.execGainLimitRetrain l s
  | .timingErrorRetrain l => Sys2Proof.Machine.execTimingErrorRetrain l s
  | .echoDriftCheck n sub p e2 => Sys2Proof.Machine.execEchoDriftCheck n sub p e2 s
  | .echoStoreRefresh n p => Sys2Proof.Machine.execEchoStoreRefresh n p s
  | .echoTapSaturation l => Sys2Proof.Machine.execEchoTapSaturation l s
  | .fextHReestimate l fext nextOwn nextPartner => Sys2Proof.Machine.execFextHReestimate l fext nextOwn nextPartner s
  | .deadPairDeclare l p => Sys2Proof.Machine.execDeadPairDeclare l p s
  | .coefSnapshotRequest n p v => Sys2Proof.Machine.execCoefSnapshotRequest n p v s
  | .coefSnapshotDone n p => Sys2Proof.Machine.execCoefSnapshotDone n p s
  | .coefMemSelect n p v => Sys2Proof.Machine.execCoefMemSelect n p v s
  | .coefDataWrite n p v => Sys2Proof.Machine.execCoefDataWrite n p v s
  | .startupEnableSet n => Sys2Proof.Machine.execStartupEnableSet n s
  | .startupEnableClear n => Sys2Proof.Machine.execStartupEnableClear n s
  | .g0BackoffExpire l => Sys2Proof.Machine.execG0BackoffExpire l s
  | .g0ReplyTimeout l => Sys2Proof.Machine.execG0ReplyTimeout l s
  | .preambleDetect n p level metric gain => Sys2Proof.Machine.execPreambleDetect n p level metric gain s
  | .captureOverride n p level metric gain frozenInTime => Sys2Proof.Machine.execCaptureOverride n p level metric gain frozenInTime s
  | .burstHeaderDecode n p hdr body => Sys2Proof.Machine.execBurstHeaderDecode n p hdr body s
  | .greet l b => Sys2Proof.Machine.execGreet l b s
  | .reply l b => Sys2Proof.Machine.execReply l b s
  | .confirm l b => Sys2Proof.Machine.execConfirm l b s
  | .confirmAck l b => Sys2Proof.Machine.execConfirmAck l b s
  | .confirmNak l b => Sys2Proof.Machine.execConfirmNak l b s
  | .confirmTimeout l => Sys2Proof.Machine.execConfirmTimeout l s
  | .g1ResponderTimeout l => Sys2Proof.Machine.execG1ResponderTimeout l s
  | .setupIntervalEnd l => Sys2Proof.Machine.execSetupIntervalEnd l s
  | .g2SlotStep l meas => Sys2Proof.Machine.execG2SlotStep l meas s
  | .verdictSend l => Sys2Proof.Machine.execVerdictSend l s
  | .verdict l b => Sys2Proof.Machine.execVerdict l b s
  | .g3Start l => Sys2Proof.Machine.execG3Start l s
  | .g3SyncTimeout l => Sys2Proof.Machine.execG3SyncTimeout l s
  | .g4aTableCompute l => Sys2Proof.Machine.execG4aTableCompute l s
  | .startupTableFrame l f => Sys2Proof.Machine.execStartupTableFrame l f s
  | .carryingSetDecide l => Sys2Proof.Machine.execCarryingSetDecide l s
  | .startupStatusFrame l f => Sys2Proof.Machine.execStartupStatusFrame l f s
  | .startupAbortFrame l f => Sys2Proof.Machine.execStartupAbortFrame l f s
  | .verifyResult n sub => Sys2Proof.Machine.execVerifyResult n sub s
  | .showStageName l => Sys2Proof.Machine.execShowStageName l s
  | .showTimeout l => Sys2Proof.Machine.execShowTimeout l s
  | .showtimeEntry l => Sys2Proof.Machine.execShowtimeEntry l s
  | .fastRetrainStart l => Sys2Proof.Machine.execFastRetrainStart l s
  | .fastRetrainFail l cause => Sys2Proof.Machine.execFastRetrainFail l cause s
  | .startupFail l cause => Sys2Proof.Machine.execStartupFail l cause s
  | .holdOffExpire l => Sys2Proof.Machine.execHoldOffExpire l s
  | .stageBoundary l meas => Sys2Proof.Machine.execStageBoundary l meas s
  | .swapEvaluation l => Sys2Proof.Machine.execSwapEvaluation l s
  | .swapCommitSend l p => Sys2Proof.Machine.execSwapCommitSend l p s
  | .tableSwapApply l p d => Sys2Proof.Machine.execTableSwapApply l p d s
  | .rateTrigger l => Sys2Proof.Machine.execRateTrigger l s
  | .rateProposeSend l => Sys2Proof.Machine.execRateProposeSend l s
  | .rateChangeApply l d => Sys2Proof.Machine.execRateChangeApply l d s
  | .coachLossRetrain l => Sys2Proof.Machine.execCoachLossRetrain l s
  | .tripairFallbackApply l d => Sys2Proof.Machine.execTripairFallbackApply l d s
  | .tripairRestoreRequest l p => Sys2Proof.Machine.execTripairRestoreRequest l p s
  | .linkDown l cause => Sys2Proof.Machine.execLinkDown l cause s
  | .ingressBlock n h t rx => Sys2Proof.Machine.execIngressBlock n h t rx s
  | .egressBlock n t => Sys2Proof.Machine.execEgressBlock n t s
  | .farEgressReport n sub t => Sys2Proof.Machine.execFarEgressReport n sub t s
  | .frameExpiry l d t cause => Sys2Proof.Machine.execFrameExpiry l d t cause s
  | .fcXoffRepeat n => Sys2Proof.Machine.execFcXoffRepeat n s
  | .fcFrameInsert n t => Sys2Proof.Machine.execFcFrameInsert n t s
  | .hostelScrubPass corrected => Sys2Proof.Machine.execHostelScrubPass corrected s
  | .hostelFence bank addr => Sys2Proof.Machine.execHostelFence bank addr s
  | .laneFault h cause => Sys2Proof.Machine.execLaneFault h cause s
  | .hostDone g => Sys2Proof.Machine.execHostDone g s
  | .hostWaitExpire g => Sys2Proof.Machine.execHostWaitExpire g s
  | .substitute g ix => Sys2Proof.Machine.execSubstitute g ix s
  | .revert g => Sys2Proof.Machine.execRevert g s
  | .laneEnableWrite h enable => Sys2Proof.Machine.execLaneEnableWrite h enable s
  | .laneRateWrite h half => Sys2Proof.Machine.execLaneRateWrite h half s
  | .laneAcquired h => Sys2Proof.Machine.execLaneAcquired h s
  | .hlTxFfeWrite h v => Sys2Proof.Machine.execHlTxFfeWrite h v s
  | .spareModeWrite g v => Sys2Proof.Machine.execSpareModeWrite g v s
  | .eyeScanStart h v => Sys2Proof.Machine.execEyeScanStart h v s
  | .eyeScanDone h errors => Sys2Proof.Machine.execEyeScanDone h errors s
  | .prbsEnableWrite h v => Sys2Proof.Machine.execPrbsEnableWrite h v s
  | .prbsInjSingle h => Sys2Proof.Machine.execPrbsInjSingle h s
  | .prbsInjBurst h => Sys2Proof.Machine.execPrbsInjBurst h s
  | .prbsCheckerLock h => Sys2Proof.Machine.execPrbsCheckerLock h s
  | .prbsLockLoss h compared wrong => Sys2Proof.Machine.execPrbsLockLoss h compared wrong s
  | .eeiProposeSend l => Sys2Proof.Machine.execEeiProposeSend l s
  | .eeiBudgetApply l => Sys2Proof.Machine.execEeiBudgetApply l s
  | .eeiEntry l => Sys2Proof.Machine.execEeiEntry l s
  | .eeiRefresh l meas => Sys2Proof.Machine.execEeiRefresh l meas s
  | .eeiWakeCause l cause => Sys2Proof.Machine.execEeiWakeCause l cause s
  | .eeiPrestepDone l => Sys2Proof.Machine.execEeiPrestepDone l s
  | .wakeDetect l => Sys2Proof.Machine.execWakeDetect l s
  | .wakeConfirmTimeout l => Sys2Proof.Machine.execWakeConfirmTimeout l s
  | .eeiResume l quietUs wakeNs => Sys2Proof.Machine.execEeiResume l quietUs wakeNs s
  | .partialFastRetrainStart l => Sys2Proof.Machine.execPartialFastRetrainStart l s
  | .partialFastRetrainFail l => Sys2Proof.Machine.execPartialFastRetrainFail l s
  | .calDeferralWake l item => Sys2Proof.Machine.execCalDeferralWake l item s
  | .reflectStart n p v => Sys2Proof.Machine.execReflectStart n p v s
  | .reflectDone n p r => Sys2Proof.Machine.execReflectDone n p r s
  | .diagCtrlAbort n p => Sys2Proof.Machine.execDiagCtrlAbort n p s
  | .mapsStart n p v => Sys2Proof.Machine.execMapsStart n p v s
  | .mapsDone n p timeUs => Sys2Proof.Machine.execMapsDone n p timeUs s
  | .historyRecord n p => Sys2Proof.Machine.execHistoryRecord n p s
  | .histClear n => Sys2Proof.Machine.execHistClear n s
  | .refclkLost => Sys2Proof.Machine.execRefclkLost s
  | .refclkQualified => Sys2Proof.Machine.execRefclkQualified s
  | .lpllActiveUnlock t => Sys2Proof.Machine.execLpllActiveUnlock t s
  | .lpllBothUnlock t => Sys2Proof.Machine.execLpllBothUnlock t s
  | .lpllStandbyUnlock t => Sys2Proof.Machine.execLpllStandbyUnlock t s
  | .lpllRelock t sub => Sys2Proof.Machine.execLpllRelock t sub s
  | .lpllSwap t => Sys2Proof.Machine.execLpllSwap t s
  | .hpllUnlock o => Sys2Proof.Machine.execHpllUnlock o s
  | .hpllRelock o => Sys2Proof.Machine.execHpllRelock o s
  | .hubPllUnlock => Sys2Proof.Machine.execHubPllUnlock s
  | .hubPllRelock => Sys2Proof.Machine.execHubPllRelock s
  | .ringPllUnlock => Sys2Proof.Machine.execRingPllUnlock s
  | .ringPllRelock => Sys2Proof.Machine.execRingPllRelock s
  | .clkDivWrite v => Sys2Proof.Machine.execClkDivWrite v s
  | .clockSwitchStep dom => Sys2Proof.Machine.execClockSwitchStep dom s
  | .clockSwitchForced dom t => Sys2Proof.Machine.execClockSwitchForced dom t s
  | .railGood r strap => Sys2Proof.Machine.execRailGood r strap s
  | .railLost r => Sys2Proof.Machine.execRailLost r s
  | .resetNAssert => Sys2Proof.Machine.execResetNAssert s
  | .avsUpdate want vout iout fail => Sys2Proof.Machine.execAvsUpdate want vout iout fail s
  | .avsCfgWrite v => Sys2Proof.Machine.execAvsCfgWrite v s
  | .domainWakeOnAccess x => Sys2Proof.Machine.execDomainWakeOnAccess x s
  | .domainWakeDone id stallNs => Sys2Proof.Machine.execDomainWakeDone id stallNs s
  | .domainWakeFail id => Sys2Proof.Machine.execDomainWakeFail id s
  | .domainReturn id => Sys2Proof.Machine.execDomainReturn id s
  | .portPowerOff n => Sys2Proof.Machine.execPortPowerOff n s
  | .tilePowerOff t => Sys2Proof.Machine.execTilePowerOff t s
  | .domainRetry id => Sys2Proof.Machine.execDomainRetry id s
  | .domainOffRequest id => Sys2Proof.Machine.execDomainOffRequest id s
  | .bootStepDone failedLinks => Sys2Proof.Machine.execBootStepDone failedLinks s
  | .bootWatchdogExpire => Sys2Proof.Machine.execBootWatchdogExpire s
  | .deviceResetStart => Sys2Proof.Machine.execDeviceResetStart s
  | .tileResetDone t linkUp => Sys2Proof.Machine.execTileResetDone t linkUp s
  | .ringInputSync r => Sys2Proof.Machine.execRingInputSync r s
  | .ringGlitch r => Sys2Proof.Machine.execRingGlitch r s
  | .ringBreak r => Sys2Proof.Machine.execRingBreak r s
  | .ringRestored r => Sys2Proof.Machine.execRingRestored r s
  | .packetRx r rx => Sys2Proof.Machine.execPacketRx r rx s
  | .enumerate r rx => Sys2Proof.Machine.execEnumerate r rx s
  | .seqEpoch r rx waited => Sys2Proof.Machine.execSeqEpoch r rx waited s
  | .ringPing r rx => Sys2Proof.Machine.execRingPing r rx s
  | .ringControlReserved r rx => Sys2Proof.Machine.execRingControlReserved r rx s
  | .commandStart => Sys2Proof.Machine.execCommandStart s
  | .commandTimeout src tag => Sys2Proof.Machine.execCommandTimeout src tag s
  | .replyRetentionExpire => Sys2Proof.Machine.execReplyRetentionExpire s
  | .noticeSend => Sys2Proof.Machine.execNoticeSend s
  | .intRepeatExpire => Sys2Proof.Machine.execIntRepeatExpire s
  | .seqTickSaturate => Sys2Proof.Machine.execSeqTickSaturate s
  | .wrapWrite v => Sys2Proof.Machine.execWrapWrite v s
  | .devNop c => Sys2Proof.Machine.execDevNop c s
  | .devIdentify c => Sys2Proof.Machine.execDevIdentify c s
  | .devStatus c => Sys2Proof.Machine.execDevStatus c s
  | .deviceReset c => Sys2Proof.Machine.execDeviceReset c s
  | .tileReset c => Sys2Proof.Machine.execTileReset c s
  | .portReset c => Sys2Proof.Machine.execPortReset c s
  | .devIntRead c => Sys2Proof.Machine.execDevIntRead c s
  | .devIntClear c => Sys2Proof.Machine.execDevIntClear c s
  | .devTemps c => Sys2Proof.Machine.execDevTemps c s
  | .devJobs c => Sys2Proof.Machine.execDevJobs c s
  | .devJobAbort c => Sys2Proof.Machine.execDevJobAbort c s
  | .portEnable c => Sys2Proof.Machine.execPortEnable c s
  | .portModeSet c => Sys2Proof.Machine.execPortModeSet c s
  | .portRetrain c => Sys2Proof.Machine.execPortRetrain c s
  | .portRate c => Sys2Proof.Machine.execPortRate c s
  | .portStatus c => Sys2Proof.Machine.execPortStatus c s
  | .portSummary c => Sys2Proof.Machine.execPortSummary c s
  | .portCounters c => Sys2Proof.Machine.execPortCounters c s
  | .portPeer c => Sys2Proof.Machine.execPortPeer c s
  | .portFlowctl c => Sys2Proof.Machine.execPortFlowctl c s
  | .portSublinks c => Sys2Proof.Machine.execPortSublinks c s
  | .hlEnable c => Sys2Proof.Machine.execHlEnable c s
  | .hlStatus c => Sys2Proof.Machine.execHlStatus c s
  | .hlFfe c => Sys2Proof.Machine.execHlFfe c s
  | .hlSpareSet c => Sys2Proof.Machine.execHlSpareSet c s
  | .hlSpareAct c => Sys2Proof.Machine.execHlSpareAct c s
  | .hlEyeScan c => Sys2Proof.Machine.execHlEyeScan c s
  | .hlEyeResult c => Sys2Proof.Machine.execHlEyeResult c s
  | .hlPrbs c => Sys2Proof.Machine.execHlPrbs c s
  | .hlPrbsRead c => Sys2Proof.Machine.execHlPrbsRead c s
  | .hlPrbsInject c => Sys2Proof.Machine.execHlPrbsInject c s
  | .diagReflect c => Sys2Proof.Machine.execDiagReflect c s
  | .diagResult c => Sys2Proof.Machine.execDiagResult c s
  | .diagMaps c => Sys2Proof.Machine.execDiagMaps c s
  | .diagMapRead c => Sys2Proof.Machine.execDiagMapRead c s
  | .diagTraceRead c => Sys2Proof.Machine.execDiagTraceRead c s
  | .diagHistory c => Sys2Proof.Machine.execDiagHistory c s
  | .diagProfile c => Sys2Proof.Machine.execDiagProfile c s
  | .diagSnr c => Sys2Proof.Machine.execDiagSnr c s
  | .diagAbort c => Sys2Proof.Machine.execDiagAbort c s
  | .calRun c => Sys2Proof.Machine.execCalRun c s
  | .calStatus c => Sys2Proof.Machine.execCalStatus c s
  | .calCfg c => Sys2Proof.Machine.execCalCfg c s
  | .calSave c fails => Sys2Proof.Machine.execCalSave c fails s
  | .eeiSet c => Sys2Proof.Machine.execEeiSet c s
  | .eeiWake c => Sys2Proof.Machine.execEeiWake c s
  | .pwrDomain c => Sys2Proof.Machine.execPwrDomain c s
  | .pwrAvs c => Sys2Proof.Machine.execPwrAvs c s
  | .pwrStatus c => Sys2Proof.Machine.execPwrStatus c s
  | .nvInfo c => Sys2Proof.Machine.execNvInfo c s
  | .nvRead c => Sys2Proof.Machine.execNvRead c s
  | .nvOpen c fails => Sys2Proof.Machine.execNvOpen c fails s
  | .nvWrite c fails => Sys2Proof.Machine.execNvWrite c fails s
  | .nvCommit c fails => Sys2Proof.Machine.execNvCommit c fails s
  | .nvClose c => Sys2Proof.Machine.execNvClose c s
  | .nvSaveConfig c fails => Sys2Proof.Machine.execNvSaveConfig c fails s
  | .gbInfo c => Sys2Proof.Machine.execGbInfo c s
  | .gbRead c => Sys2Proof.Machine.execGbRead c s
  | .gbClear c => Sys2Proof.Machine.execGbClear c s
  | .gbRate c => Sys2Proof.Machine.execGbRate c s
  | .regRead c => Sys2Proof.Machine.execRegRead c s
  | .regWrite c => Sys2Proof.Machine.execRegWrite c s
  | .regReadList c => Sys2Proof.Machine.execRegReadList c s
  | .regRmw c => Sys2Proof.Machine.execRegRmw c s
  | .regWriteBlock c => Sys2Proof.Machine.execRegWriteBlock c s
  | .commitConfig c => Sys2Proof.Machine.execCommitConfig c s
  | .cncClaim c => Sys2Proof.Machine.execCncClaim c s
  | .cncRelease c => Sys2Proof.Machine.execCncRelease c s
  | .cncList c => Sys2Proof.Machine.execCncList c s
  | .sliceSwap c => Sys2Proof.Machine.execSliceSwap c s
  | .bistRun c => Sys2Proof.Machine.execBistRun c s
  | .bistCfg c => Sys2Proof.Machine.execBistCfg c s
  | .porterSwitch c => Sys2Proof.Machine.execPorterSwitch c s
  | .lockSet c => Sys2Proof.Machine.execLockSet c s
  | .unlockWrite c => Sys2Proof.Machine.execUnlockWrite c s
  | .lockStatus c => Sys2Proof.Machine.execLockStatus c s
  | .completionAccept => Sys2Proof.Machine.execCompletionAccept s
  | .registerWrite x hw => Sys2Proof.Machine.execRegisterWrite x hw s
  | .rcRead x hw => Sys2Proof.Machine.execRcRead x hw s
  | .counterLowRead x => Sys2Proof.Machine.execCounterLowRead x s
  | .counterHighWrite x => Sys2Proof.Machine.execCounterHighWrite x s
  | .counterLowWrite x hw => Sys2Proof.Machine.execCounterLowWrite x hw s
  | .windowDataAccess x => Sys2Proof.Machine.execWindowDataAccess x s
  | .cfgWalkerPass dirty => Sys2Proof.Machine.execCfgWalkerPass dirty s
  | .cfgCommit => Sys2Proof.Machine.execCfgCommit s
  | .commitPassDone => Sys2Proof.Machine.execCommitPassDone s
  | .cfgCheckEnableWrite v m => Sys2Proof.Machine.execCfgCheckEnableWrite v m s
  | .cfgFencedClear => Sys2Proof.Machine.execCfgFencedClear s
  | .hubLockWrite v m => Sys2Proof.Machine.execHubLockWrite v m s
  | .unlockKeyWrite v m => Sys2Proof.Machine.execUnlockKeyWrite v m s
  | .unlockWindowExpire => Sys2Proof.Machine.execUnlockWindowExpire s
  | .trimTrackTick temps => Sys2Proof.Machine.execTrimTrackTick temps s
  | .calRunStart item target ref => Sys2Proof.Machine.execCalRunStart item target ref s
  | .calRunDone item target m => Sys2Proof.Machine.execCalRunDone item target m s
  | .calRunTimeout item target => Sys2Proof.Machine.execCalRunTimeout item target s
  | .calRetry item target => Sys2Proof.Machine.execCalRetry item target s
  | .opSecondsStore fails => Sys2Proof.Machine.execOpSecondsStore fails s
  | .gbEventAccept => Sys2Proof.Machine.execGbEventAccept s
  | .gbRecordWrite fails => Sys2Proof.Machine.execGbRecordWrite fails s
  | .gbClearDoorbell => Sys2Proof.Machine.execGbClearDoorbell s
  | .gbRateWindowEnd => Sys2Proof.Machine.execGbRateWindowEnd s
  | .porterTakeover cause => Sys2Proof.Machine.execPorterTakeover cause s
  | .bistUnitDue => Sys2Proof.Machine.execBistUnitDue s
  | .bistTestDone unit fails => Sys2Proof.Machine.execBistTestDone unit fails s
  | .bankDrained b => Sys2Proof.Machine.execBankDrained b s
  | .bankDrainTimeout b => Sys2Proof.Machine.execBankDrainTimeout b s
  | .maintSwapCopyDone t old => Sys2Proof.Machine.execMaintSwapCopyDone t old s
  | .maintSwapShadowDone t old agree => Sys2Proof.Machine.execMaintSwapShadowDone t old agree s
  | .claimGrant fails => Sys2Proof.Machine.execClaimGrant fails s
  | .dapOperation op a v => Sys2Proof.Machine.execDapOperation op a v s
  | .boardTestBegin load => Sys2Proof.Machine.execBoardTestBegin load s
  | .boardTestEnd => Sys2Proof.Machine.execBoardTestEnd s
  | .tapReset => Sys2Proof.Machine.execTapReset s
  | .porterHalt pc => Sys2Proof.Machine.execPorterHalt pc s
  | .porterBreakpoint ix pc => Sys2Proof.Machine.execPorterBreakpoint ix pc s
  | .porterResume => Sys2Proof.Machine.execPorterResume s
  | .porterStep pc => Sys2Proof.Machine.execPorterStep pc s
  | .dbgCoreDataAccess wr => Sys2Proof.Machine.execDbgCoreDataAccess wr s
  | .tempAlertAssert => Sys2Proof.Machine.execTempAlertAssert s
  | .tempAlertRelease => Sys2Proof.Machine.execTempAlertRelease s
  | .tileLinkLockLoss t => Sys2Proof.Machine.execTileLinkLockLoss t s
  | .frontendFault n p => Sys2Proof.Machine.execFrontendFault n p s
  | .resetNRelease strap => Sys2Proof.Machine.execResetNRelease strap s
  | .deviceResetEnd => Sys2Proof.Machine.execDeviceResetEnd s
  | .ringSyncLoss r errs => Sys2Proof.Machine.execRingSyncLoss r errs s
  | .packetForward r rx => Sys2Proof.Machine.execPacketForward r rx s
  | .calRunStartTimeout item target => Sys2Proof.Machine.execCalRunStartTimeout item target s
  | .domainPowerDownDone id => Sys2Proof.Machine.execDomainPowerDownDone id s

end Sys2Proof.Machine
end

