-- ==== Sys2Proof/Machine/Step.lean ====
section
/-! DEFINITION. The step of the block: the command at the front of the queue, or a tick of the clock. -/
namespace Sys2Proof.Machine

/-- A tick: nothing waits, so 1 µs of ACLK time passes (DESIGN CHOICE, log entry 1). -/
def idleStep (s : State) : State := { s with now := s.now + 1 }

/-- Take the command at the front of the queue and give its effect with the queue's rest; with none, a tick. -/
def step (s : State) : Host.Outcome State Fault Refusal :=
  match s.pending with
  | [] => .next (idleStep s)
  | i :: q => exec i { s with pending := q }

/-- Put the command that a word spells at the front of the queue; no word spells one. -/
def State.withFetchWord (s : State) (nbits w : Nat) : State :=
  match decodeTableWord nbits w with
  | none => s
  | some i => { s with pending := i :: s.pending }

end Sys2Proof.Machine
end

