-- ==== Sys2Proof/Safety.lean ====
section
/-! DEFINITION. What every step of the block keeps: the stores in canonical form, at most 64 replies retained, claims with handles of
16 bits that are never 0 (R404, R431, R501); the kinds of state, for what a command leaves as it was. -/
namespace Sys2Proof.Machine

/-- The MRAM is in canonical form: addresses strictly rising, no byte listed that an unlisted address reads as. -/
def Memory.wf (m : List Host.Cell) : Bool := SMap.wf mramReset m

/-- Every store of the state is in canonical form. -/
def State.canonical (s : State) : Bool :=
  SMap.wf regReset s.regs && SMap.wf (fun _ => PortSt.reset) s.ports && SMap.wf (fun _ => PairSt.reset) s.pairs &&
    SMap.wf (fun _ => LinkSt.reset) s.links && SMap.wf (fun _ => QueueSt.reset) s.queues && SMap.wf (fun _ => HostPort.reset) s.hosts &&
    SMap.wf (fun _ => LaneSt.reset) s.lanes && SMap.wf (fun k => k) s.laneOf && SMap.wf (fun _ => emptyEntry) s.tbl &&
    SMap.wf (fun _ => emptyEntry) s.held && SMap.wf (fun _ => 0) s.snr && SMap.wf (fun _ => 0) s.erle && SMap.wf (fun _ => none) s.coef &&
    SMap.wf (fun _ => 0) s.seeds && SMap.wf (fun _ => 0) s.banks.used && SMap.wf (fun _ => 0) s.rows && SMap.wf (fun _ => TileSt.reset) s.tiles &&
    SMap.wf (fun _ => DiagSt.reset) s.diags && SMap.wf (fun _ => 0xFFFF) s.maps && SMap.wf (fun _ => 0) s.traces &&
    SMap.wf DomSt.reset s.doms && SMap.wf (fun _ => CalSt.reset) s.cals && Memory.wf s.mram && SMap.wf (fun _ => 0) s.shadows &&
    SMap.wf (fun _ => 0) s.highs && SMap.wf (fun _ => none) s.core &&
    SMap.wf (fun _ => (0, 0)) s.errs && SMap.wf (fun _ => 0) s.sigma && SMap.wf (fun _ => 0) s.noise

/-- What every step keeps. -/
def Inv (s : State) : Prop :=
  s.canonical = true ∧ s.kept.length ≤ 64 ∧ ∀ c ∈ s.claims, 1 ≤ c.handle ∧ c.handle ≤ 0xFFFF

/-- The kinds of state: the parts of `State` but for the clock and the queue. -/
inductive Kind where
  | free | regs | ports | pairs | links | queues | hosts | lanes | laneOf | tbl | held | snr | erle | errs | sigma | noise | coef | seeds
  | banks | rows | tiles | diags | maps | traces | doms | cals | calRuns | calSaved | queued | running | kept | jobs
  | records | eyes | completions | claims | waiting | later | granted | tests | nvOpen | mram | gbQueue | gbLimits
  | gbWindow | shadows | highs | core | hub | raised | out
deriving DecidableEq, Repr

/-- A kind of state is in both states the same. -/
def Same (k : Kind) (s t : State) : Prop :=
  match k with
  | .free => t.free = s.free
  | .regs => t.regs = s.regs
  | .ports => t.ports = s.ports
  | .pairs => t.pairs = s.pairs
  | .links => t.links = s.links
  | .queues => t.queues = s.queues
  | .hosts => t.hosts = s.hosts
  | .lanes => t.lanes = s.lanes
  | .laneOf => t.laneOf = s.laneOf
  | .tbl => t.tbl = s.tbl
  | .held => t.held = s.held
  | .snr => t.snr = s.snr
  | .erle => t.erle = s.erle
  | .errs => t.errs = s.errs
  | .sigma => t.sigma = s.sigma
  | .noise => t.noise = s.noise
  | .coef => t.coef = s.coef
  | .seeds => t.seeds = s.seeds
  | .banks => t.banks = s.banks
  | .rows => t.rows = s.rows
  | .tiles => t.tiles = s.tiles
  | .diags => t.diags = s.diags
  | .maps => t.maps = s.maps
  | .traces => t.traces = s.traces
  | .doms => t.doms = s.doms
  | .cals => t.cals = s.cals
  | .calRuns => t.calRuns = s.calRuns
  | .calSaved => t.calSaved = s.calSaved
  | .queued => t.queued = s.queued
  | .running => t.running = s.running
  | .kept => t.kept = s.kept
  | .jobs => t.jobs = s.jobs
  | .records => t.records = s.records
  | .eyes => t.eyes = s.eyes
  | .completions => t.completions = s.completions
  | .claims => t.claims = s.claims
  | .waiting => t.waiting = s.waiting
  | .later => t.later = s.later
  | .granted => t.granted = s.granted
  | .tests => t.tests = s.tests
  | .nvOpen => t.nvOpen = s.nvOpen
  | .mram => t.mram = s.mram
  | .gbQueue => t.gbQueue = s.gbQueue
  | .gbLimits => t.gbLimits = s.gbLimits
  | .gbWindow => t.gbWindow = s.gbWindow
  | .shadows => t.shadows = s.shadows
  | .highs => t.highs = s.highs
  | .core => t.core = s.core
  | .hub => t.hub = s.hub
  | .raised => t.raised = s.raised
  | .out => t.out = s.out

end Sys2Proof.Machine
end

