-- ==== Sys2Proof/Certificates/Slice0/Obligations.lean ====
section
/-! DEFINITION. What is claimed of the device: one statement per group of commands, each saying where its commands complete and what they leave, and the
statements about every command and every step. A statement names the log entry wherever it rests on a choice of the model. -/
namespace Sys2Proof.Claims
open Sys2Proof.Machine

/-- A retrain request of this end is neither agreed nor pending, and the link is in showtime. -/
abbrev MayAsk (k : LinkSt) : Prop := k.phase = 7 ∧ retrainAgreed k = none ∧ modeRetrains k = false

/-- A retrain with a cause is requested and agreed, for this end's next waymark symbol plus 4 (R148, R223). -/
def RetrainAsked (cause : Nat) (l : LinkId) (s t : State) : Prop :=
  (⟨stagePlus (nextWaymark (s.link l)) 4, .retrain cause (isFullCause cause), false, false⟩ : Change) ∈ (t.link l).changes ∧
  (⟨0x51, some (stagePlus (nextWaymark (s.link l)) 4), cause, true⟩ : WMsg) ∈ (t.link l).waiting

/-- A burst with a header, its pages and its LEVEL code, as it is sent (R159 to R163). -/
def burstOut (l : LinkId) (kind hdr : Nat) (pages : List Nat) (level : Nat) : Out :=
  .burst l kind hdr pages preambleLines preambleSigns (burstLevel level) (burstSymbols hdr pages)

/-- The state after the symbols of a COACH_RX have been received. -/
def afterSymbols (l : LinkId) (rx : List (List RxWindow)) (s : State) : State := forEach rx (rxSymbolOf l) s

/-- The received coach-stream bits then, each with whether it lies in a codeword that failed to decode, and the coach that the first 10,320 of
them spell (R91, R92). -/
def bitsIn (l : LinkId) (rx : List (List RxWindow)) (s : State) : List (Bool × Bool) := ((afterSymbols l rx s).queue l).rxBits
def coachIn (l : LinkId) (rx : List (List RxWindow)) (s : State) : Coach := coachOf (((bitsIn l rx s).take 10320).map (·.1))

/-- Some of that coach's bits lie in a codeword that failed to decode (R91), or a carrying pair's receive output is discarded (R527). -/
def coachFailed (l : LinkId) (rx : List (List RxWindow)) (s : State) : Bool :=
  ((bitsIn l rx s).take 10320).any (·.2) || (maskPairs (coachMask (afterSymbols l rx s) l .rx)).any (muted (afterSymbols l rx s) l.n)

/-- A command may execute now: the Porter not halted, no reset under way or due, READY, in one of its phases, and its reply not suppressed
(R403, R407, R424, R555). -/
abbrev Admits (op : Nat) (phases : List Nat) (c : Call) (s : State) : Prop :=
  halted s = false ∧ s.hub.resetting = false ∧ s.hub.resetDue = false ∧ isReady s = true ∧ s.fld PWR_PHASE.PHASE ∈ phases ∧
    bit (pktOf s op c).call.flags 2 = false

/-- The final reply of a command, with a status and results, is the newest that is retained (R404, R408). -/
def Answered (op : Nat) (c : Call) (status : Nat) (body : List Nat) (s t : State) : Prop :=
  t.kept.getLast? = some ⟨pktOf s op c, status, body, s.now⟩

/-- From the first state to the second only a final reply was given: its counters, the executor, the retained replies and what was sent
aside, both are the same. -/
def OnlyReplied (u t : State) : Prop :=
  (∀ k : Kind, k ∉ [Kind.regs, .running, .kept, .out] → Same k u t) ∧
    ∀ a : Nat, a ≠ MR_CMDS → a ≠ MR_CMDS + 4 → a ≠ MR_NOREPLY_ERR → t.reg a = u.reg a

/-- One bit into a shift register with the Castagnoli polynomial, most significant bit out (R6). -/
def crcShift (r : BitVec 32) (b : Bool) : BitVec 32 := if r.msb != b then (r <<< 1) ^^^ 0x1EDC6F41#32 else r <<< 1

/-- The CRC by its parameters: each byte least significant bit first, initial value and final XOR all ones, output reflected (R6). -/
def crcOfParameters (bs : List Nat) : BitVec 32 :=
  ((bs.flatMap (fun b => (List.range 8).map (bit b))).foldl crcShift 0xFFFFFFFF#32).reverse ^^^ 0xFFFFFFFF#32

/-- What was sent, the PAM4 levels of the host lanes left aside. -/
def besideLanes (os : List Out) : List Out := os.filter (fun o => match o with | .lane _ _ => false | _ => true)

/-- All kinds of state. -/
def allKinds : List Kind :=
  [.free, .regs, .ports, .pairs, .links, .queues, .hosts, .lanes, .laneOf, .tbl, .held, .snr, .erle, .errs, .sigma, .noise, .coef, .seeds, .banks, .rows,
   .tiles, .diags, .maps, .traces, .doms, .cals, .calRuns, .calSaved, .queued, .running, .kept, .jobs, .records, .eyes, .completions, .claims, .waiting, .later,
   .granted, .tests, .nvOpen, .mram, .gbQueue, .gbLimits, .gbWindow, .shadows, .highs, .core, .hub, .raised, .out]

/-- Every kind but some. -/
def allBut (ks : List Kind) : List Kind := allKinds.filter (fun k => !ks.contains k)

/-- The kinds of state that a command may change; every other kind is as before it. Outputs (`out`) are only appended. -/
def footprint (c : Instr) : List Kind :=
  match c with
  | .sliceFault .. => [.free, .regs, .ports, .pairs, .links, .queues, .banks, .tiles, .diags, .completions, .claims, .waiting, .later, .tests, .raised]
  | .crossbarChange .. => [.free, .regs, .ports, .pairs, .links, .queues, .coef, .seeds, .banks, .tiles, .diags, .completions, .claims, .waiting, .later, .tests, .hub, .raised]
  | .sliceScrub .. => [.regs]
  | .tileLinkCheckFail .. => allBut [.calSaved, .queued, .granted, .nvOpen, .gbLimits, .gbWindow]
  | .portModeWrite .. => [.regs, .ports, .pairs, .links, .queues, .tbl, .coef, .seeds, .raised, .out]
  | .timetableModeApply .. => [.regs, .ports, .links, .queues, .coef, .seeds, .raised, .out]
  | .bundleModeApply .. => [.regs, .ports, .links, .queues, .coef, .seeds, .raised, .out]
  | .testModeDrainPoint .. => [.regs, .ports, .links, .queues, .coef, .seeds, .raised, .out]
  | .patternInjSingle .. => [.pairs]
  | .patternInjBurst .. => [.pairs]
  | .modeChangeApply .. => [.free, .regs, .ports, .pairs, .links, .queues, .tbl, .held, .snr, .coef, .seeds, .banks, .tiles, .diags, .cals, .calRuns, .completions, .claims, .waiting, .later, .tests, .raised]
  | .coachTx .. => [.free, .regs, .pairs, .links, .queues, .hosts, .banks, .raised, .out]
  | .coachRx .. => [.free, .regs, .pairs, .links, .queues, .hosts, .errs, .coef, .banks, .raised]
  | .waymarkSymbolTx .. => [.regs, .ports, .pairs, .links, .queues, .tbl, .coef, .seeds, .raised, .out]
  | .waymarkSymbolRx .. => [.regs, .ports, .pairs, .links, .queues, .tbl, .errs, .coef, .raised, .out]
  | .waymarkSyncLoss .. => [.free, .regs, .ports, .pairs, .links, .queues, .banks, .tiles, .diags, .completions, .claims, .waiting, .later, .tests, .raised]
  | .wmMessageAbandon .. => [.regs, .pairs, .links, .raised]
  | .wmStatus .. => [.links]
  | .swapEntry .. => [.regs, .pairs, .links, .tbl]
  | .swapCommit .. => [.regs, .pairs, .links, .queues, .raised]
  | .swapAccept .. => [.regs, .pairs, .links, .raised]
  | .swapDecline .. => [.regs, .pairs, .links, .raised]
  | .ratePropose .. => [.regs, .pairs, .links, .queues, .raised]
  | .rateAccept .. => [.regs, .pairs, .links, .raised]
  | .rateDecline .. => [.regs, .pairs, .links, .raised]
  | .modePropose .. => [.regs, .pairs, .links, .queues, .tbl, .raised]
  | .modeAccept .. => [.regs, .links, .queues, .raised]
  | .modeDecline .. => [.regs, .ports, .pairs, .links, .tbl, .raised]
  | .eeiPropose .. => [.regs, .links, .raised]
  | .eeiAccept .. => [.regs, .links, .raised]
  | .eeiRefuse .. => [.regs, .links, .raised]
  | .eeiAbort .. => [.regs, .links, .raised, .out]
  | .eeiWakeMsg .. => [.regs, .links, .raised, .out]
  | .faultNotice .. => [.free, .regs, .ports, .pairs, .links, .queues, .banks, .tiles, .diags, .completions, .claims, .waiting, .later, .tests, .raised]
  | .retrainRequest .. => [.regs, .pairs, .links, .raised]
  | .stageCheck .. => [.regs, .links, .raised]
  | .wmUnknownCode .. => [.regs]
  | .pairTblDataWrite .. => [.regs]
  | .tableShadowCopyDone .. => [.regs, .pairs, .tbl]
  | .subadcTakeSlot .. => [.regs]
  | .subadcFail .. => [.free, .regs, .ports, .pairs, .links, .queues, .banks, .tiles, .diags, .completions, .claims, .waiting, .later, .tests, .raised]
  | .gainLimitRetrain .. => [.regs, .pairs, .links, .raised]
  | .timingErrorRetrain .. => [.regs, .pairs, .links, .raised]
  | .echoDriftCheck .. => [.regs, .pairs, .links, .raised]
  | .echoStoreRefresh .. => [.regs, .pairs, .coef, .seeds]
  | .echoTapSaturation .. => [.regs, .pairs, .links, .raised]
  | .fextHReestimate .. => [.free, .regs, .coef, .seeds]
  | .deadPairDeclare .. => [.free, .regs, .ports, .pairs, .links, .queues, .banks, .tiles, .diags, .completions, .claims, .waiting, .later, .tests, .raised]
  | .coefSnapshotRequest .. => [.regs]
  | .coefSnapshotDone .. => [.regs, .pairs, .coef, .seeds]
  | .coefMemSelect .. => [.regs]
  | .coefDataWrite .. => [.regs, .pairs, .coef]
  | .startupEnableSet .. => [.free, .regs, .ports, .pairs, .links, .queues, .banks, .tiles, .diags, .doms, .completions, .claims, .waiting, .later, .tests, .raised]
  | .startupEnableClear .. => [.free, .regs, .ports, .pairs, .links, .queues, .banks, .tiles, .diags, .doms, .completions, .claims, .waiting, .later, .tests, .raised]
  | .g0BackoffExpire .. => [.regs, .links, .raised, .out]
  | .g0ReplyTimeout .. => [.free, .regs, .links, .raised]
  | .preambleDetect .. => [.regs, .pairs]
  | .captureOverride .. => [.regs, .pairs]
  | .burstHeaderDecode .. => [.regs, .pairs]
  | .greet .. => [.free, .regs, .pairs, .links, .queues, .banks, .tiles, .diags, .completions, .claims, .waiting, .later, .tests, .raised, .out]
  | .reply .. => [.free, .regs, .ports, .pairs, .links, .queues, .banks, .tiles, .diags, .completions, .claims, .waiting, .later, .tests, .raised, .out]
  | .confirm .. => [.free, .regs, .ports, .pairs, .links, .queues, .banks, .tiles, .diags, .completions, .claims, .waiting, .later, .tests, .raised, .out]
  | .confirmAck .. => [.free, .regs, .pairs, .links, .queues, .banks, .tiles, .diags, .completions, .claims, .waiting, .later, .tests, .raised]
  | .confirmNak .. => [.free, .regs, .ports, .pairs, .links, .queues, .banks, .tiles, .diags, .completions, .claims, .waiting, .later, .tests, .raised]
  | .confirmTimeout .. => [.free, .regs, .ports, .pairs, .links, .queues, .banks, .raised, .out]
  | .g1ResponderTimeout .. => [.free, .regs, .ports, .pairs, .links, .queues, .banks, .raised]
  | .setupIntervalEnd .. => [.regs, .pairs, .links, .cals, .calRuns, .completions, .claims, .waiting, .later, .raised]
  | .g2SlotStep .. => [.free, .regs, .pairs, .links, .snr, .erle, .noise, .coef, .seeds, .raised, .out]
  | .verdictSend .. => [.links, .out]
  | .verdict .. => [.free, .regs, .pairs, .links, .queues, .banks, .tiles, .diags, .completions, .claims, .waiting, .later, .tests, .raised]
  | .g3Start .. => [.free, .regs, .ports, .pairs, .links, .queues, .snr, .banks, .raised]
  | .g3SyncTimeout .. => [.free, .regs, .ports, .pairs, .links, .queues, .banks, .raised]
  | .g4aTableCompute .. => [.free, .regs, .ports, .pairs, .links, .queues, .held, .banks, .tiles, .diags, .completions, .claims, .waiting, .later, .tests, .raised]
  | .startupTableFrame .. => [.links, .held]
  | .carryingSetDecide .. => [.free, .regs, .ports, .pairs, .links, .queues, .tbl, .banks, .tiles, .diags, .completions, .claims, .waiting, .later, .tests, .raised]
  | .startupStatusFrame .. => [.links]
  | .startupAbortFrame .. => [.free, .regs, .ports, .pairs, .links, .queues, .banks, .tiles, .diags, .completions, .claims, .waiting, .later, .tests, .raised]
  | .verifyResult .. => [.regs, .links, .raised]
  | .showStageName .. => [.regs, .links, .raised]
  | .showTimeout .. => [.free, .regs, .ports, .pairs, .links, .queues, .coef, .seeds, .banks, .tiles, .diags, .cals, .calRuns, .completions, .claims, .waiting, .later, .tests, .raised]
  | .showtimeEntry .. => [.regs, .ports, .pairs, .links, .queues, .tbl, .coef, .seeds, .tiles, .raised]
  | .fastRetrainStart .. => [.free, .regs, .ports, .pairs, .links, .queues, .coef, .seeds, .banks, .tiles, .diags, .cals, .calRuns, .completions, .claims, .waiting, .later, .tests, .raised]
  | .fastRetrainFail .. => [.free, .regs, .ports, .pairs, .links, .queues, .banks, .tiles, .diags, .completions, .claims, .waiting, .later, .tests, .raised]
  | .startupFail .. => [.free, .regs, .ports, .pairs, .links, .queues, .banks, .tiles, .diags, .completions, .claims, .waiting, .later, .tests, .raised]
  | .holdOffExpire .. => [.free, .regs, .ports, .pairs, .links, .queues, .banks, .tiles, .diags, .completions, .claims, .waiting, .later, .tests, .raised]
  | .stageBoundary .. => [.free, .regs, .ports, .pairs, .links, .queues, .tbl, .snr, .errs, .sigma, .coef, .seeds, .banks, .tiles, .diags, .cals, .calRuns, .completions, .claims, .waiting, .later, .tests, .raised]
  | .swapEvaluation .. => [.regs, .pairs, .links, .tbl, .raised]
  | .swapCommitSend .. => [.regs, .pairs, .raised]
  | .tableSwapApply .. => [.regs, .pairs, .links, .queues, .diags, .raised]
  | .rateTrigger .. => [.regs, .pairs, .links, .tbl, .raised]
  | .rateProposeSend .. => [.regs, .pairs, .links, .raised]
  | .rateChangeApply .. => [.regs, .pairs, .links, .queues, .diags, .raised]
  | .coachLossRetrain .. => [.regs, .pairs, .links, .raised]
  | .tripairFallbackApply .. => [.regs, .pairs, .links, .queues, .tbl, .coef, .seeds, .raised]
  | .tripairRestoreRequest .. => [.regs, .pairs, .links, .raised]
  | .linkDown .. => [.free, .regs, .ports, .pairs, .links, .queues, .banks, .tiles, .diags, .completions, .claims, .waiting, .later, .tests, .raised]
  | .ingressBlock .. => [.free, .regs, .links, .queues, .hosts, .lanes, .laneOf, .banks, .eyes, .completions, .claims, .waiting, .later, .hub, .raised, .out]
  | .egressBlock .. => [.regs, .queues, .hosts, .lanes, .banks, .out]
  | .farEgressReport .. => [.queues, .hosts]
  | .frameExpiry .. => [.regs, .queues, .hosts, .banks, .raised]
  | .fcXoffRepeat .. => [.hosts]
  | .fcFrameInsert .. => [.regs, .hosts, .lanes, .out]
  | .hostelScrubPass .. => [.regs]
  | .hostelFence .. => [.regs, .queues, .hosts, .banks, .waiting, .later, .raised]
  | .laneFault .. => [.free, .regs, .queues, .hosts, .lanes, .laneOf, .banks, .eyes, .completions, .claims, .waiting, .later, .hub, .raised]
  | .hostDone .. => [.regs, .hosts, .hub, .raised]
  | .hostWaitExpire .. => [.regs, .hosts, .hub, .raised]
  | .substitute .. => [.free, .regs, .queues, .hosts, .lanes, .laneOf, .banks, .hub, .raised]
  | .revert .. => [.regs, .lanes, .doms, .hub]
  | .laneEnableWrite .. => [.regs, .pairs, .links, .lanes, .doms, .eyes, .completions, .claims, .waiting, .later, .hub, .raised]
  | .laneRateWrite .. => [.regs]
  | .laneAcquired .. => [.free, .regs, .pairs, .links, .queues, .hosts, .lanes, .laneOf, .banks, .raised]
  | .hlTxFfeWrite .. => [.regs, .out]
  | .spareModeWrite .. => [.regs, .lanes, .doms, .eyes, .completions, .claims, .waiting, .later, .hub]
  | .eyeScanStart .. => [.regs, .lanes, .eyes, .completions, .claims, .waiting, .later]
  | .eyeScanDone .. => [.regs, .lanes, .jobs, .eyes, .completions, .claims, .waiting, .later]
  | .prbsEnableWrite .. => [.regs, .lanes, .claims, .waiting, .later]
  | .prbsInjSingle .. => [.lanes]
  | .prbsInjBurst .. => [.lanes]
  | .prbsCheckerLock .. => [.regs]
  | .prbsLockLoss .. => [.regs, .lanes]
  | .eeiProposeSend .. => [.regs, .links, .raised]
  | .eeiBudgetApply .. => [.regs, .ports, .links, .raised, .out]
  | .eeiEntry .. => [.regs, .pairs, .links, .queues, .raised, .out]
  | .eeiRefresh .. => [.regs, .pairs, .errs, .raised]
  | .eeiWakeCause .. => [.regs, .links, .raised, .out]
  | .eeiPrestepDone .. => [.regs, .links, .raised, .out]
  | .wakeDetect .. => [.regs, .links, .raised]
  | .wakeConfirmTimeout .. => [.regs, .links, .raised]
  | .eeiResume .. => [.regs, .pairs, .links, .queues, .raised]
  | .partialFastRetrainStart .. => [.regs, .pairs, .links, .raised]
  | .partialFastRetrainFail .. => [.free, .regs, .ports, .pairs, .links, .queues, .coef, .seeds, .banks, .tiles, .diags, .cals, .calRuns, .completions, .claims, .waiting, .later, .tests, .raised]
  | .calDeferralWake .. => [.regs, .links, .raised, .out]
  | .reflectStart .. => [.regs, .diags, .completions, .claims, .waiting, .later, .raised, .out]
  | .reflectDone .. => [.regs, .diags, .maps, .traces, .completions, .claims, .waiting, .later, .raised]
  | .diagCtrlAbort .. => [.regs, .diags, .completions, .claims, .waiting, .later, .raised]
  | .mapsStart .. => [.regs, .diags, .completions, .claims, .waiting, .later, .raised, .out]
  | .mapsDone .. => [.regs, .diags, .maps, .completions]
  | .historyRecord .. => [.regs, .diags]
  | .histClear .. => [.regs, .diags]
  | .refclkLost => [.free, .regs, .ports, .pairs, .links, .queues, .lanes, .banks, .tiles, .diags, .cals, .calRuns, .eyes, .completions, .claims, .waiting, .later, .tests, .hub, .raised]
  | .refclkQualified => [.regs, .mram, .hub, .raised]
  | .lpllActiveUnlock .. => [.free, .regs, .ports, .pairs, .links, .queues, .banks, .tiles, .diags, .cals, .calRuns, .completions, .claims, .waiting, .later, .tests, .hub, .raised]
  | .lpllBothUnlock .. => [.free, .regs, .ports, .pairs, .links, .queues, .banks, .tiles, .diags, .completions, .claims, .waiting, .later, .tests, .hub, .raised]
  | .lpllStandbyUnlock .. => [.regs, .hub, .raised]
  | .lpllRelock .. => [.free, .regs, .ports, .pairs, .links, .queues, .banks, .tiles, .diags, .cals, .calRuns, .completions, .claims, .waiting, .later, .tests, .hub, .raised]
  | .lpllSwap .. => [.free, .regs, .ports, .pairs, .links, .queues, .banks, .tiles, .diags, .cals, .calRuns, .completions, .claims, .waiting, .later, .tests, .raised]
  | .hpllUnlock .. => [.free, .regs, .queues, .hosts, .lanes, .laneOf, .banks, .eyes, .completions, .claims, .waiting, .later, .hub, .raised]
  | .hpllRelock .. => [.regs, .lanes, .hub, .raised]
  | .hubPllUnlock => [.regs, .queues, .banks, .hub, .raised]
  | .hubPllRelock => [.regs, .hub, .raised]
  | .ringPllUnlock => [.regs, .hub, .raised]
  | .ringPllRelock => [.regs]
  | .clkDivWrite .. => [.regs, .hub, .raised]
  | .clockSwitchStep .. => [.regs, .hub, .raised]
  | .clockSwitchForced .. => [.regs, .tiles, .hub, .raised]
  | .railGood .. => [.regs, .hub]
  | .railLost .. => allBut [.calSaved, .out]
  | .resetNAssert => allBut [.calSaved, .out]
  | .avsUpdate .. => [.regs, .hub, .raised, .out]
  | .avsCfgWrite .. => [.regs, .hub]
  | .domainWakeOnAccess .. => allBut [.calSaved, .queued, .granted, .nvOpen, .gbLimits, .gbWindow]
  | .domainWakeDone .. => allBut [.calSaved, .queued, .granted, .nvOpen, .gbLimits, .gbWindow]
  | .domainWakeFail .. => allBut [.calSaved, .queued, .granted, .nvOpen, .gbLimits, .gbWindow]
  | .domainReturn .. => [.regs, .ports, .pairs, .links, .tbl, .held, .snr, .erle, .errs, .sigma, .noise, .coef, .seeds, .rows, .tiles, .diags, .maps, .traces, .doms]
  | .portPowerOff .. => [.regs, .ports, .pairs, .tbl, .held, .snr, .erle, .errs, .sigma, .noise, .coef, .seeds, .doms]
  | .tilePowerOff .. => [.regs, .ports, .pairs, .links, .tbl, .held, .snr, .erle, .errs, .sigma, .noise, .coef, .seeds, .rows, .tiles, .diags, .maps, .traces, .doms]
  | .domainRetry .. => [.regs, .doms, .raised]
  | .domainOffRequest .. => [.regs, .ports, .pairs, .links, .tbl, .held, .snr, .erle, .errs, .sigma, .noise, .coef, .seeds, .rows, .tiles, .diags, .maps, .traces, .doms]
  | .bootStepDone .. => allBut [.calSaved, .queued, .jobs, .records, .granted, .nvOpen, .gbLimits, .gbWindow, .shadows]
  | .bootWatchdogExpire => allBut [.calSaved, .mram, .out]
  | .deviceResetStart => allBut [.calSaved, .mram, .out]
  | .tileResetDone .. => [.regs, .pairs, .rows, .tiles, .doms, .cals, .running, .kept, .completions, .claims, .waiting, .later, .hub, .raised, .out]
  | .ringInputSync .. => [.regs, .hub, .raised]
  | .ringGlitch .. => [.regs, .hub, .raised]
  | .ringBreak .. => [.regs, .hub, .raised]
  | .ringRestored .. => [.regs, .hub, .raised]
  | .packetRx .. => [.regs, .queued, .running, .waiting, .granted, .hub, .out]
  | .enumerate .. => [.regs, .hub, .raised, .out]
  | .seqEpoch .. => [.regs, .hub, .out]
  | .ringPing .. => [.regs, .hub, .out]
  | .ringControlReserved .. => [.regs, .hub, .out]
  | .commandStart => [.regs, .queued, .running, .kept, .out]
  | .commandTimeout .. => [.regs, .running, .kept, .out]
  | .replyRetentionExpire => [.kept]
  | .noticeSend => [.regs, .hub, .out]
  | .intRepeatExpire => [.regs, .out]
  | .seqTickSaturate => [.regs, .hub, .raised]
  | .wrapWrite .. => [.regs, .raised]
  | .devNop .. => [.regs, .running, .kept, .out]
  | .devIdentify .. => [.free, .regs, .running, .kept, .shadows, .core, .out]
  | .devStatus .. => [.free, .regs, .running, .kept, .shadows, .core, .out]
  | .deviceReset .. => allBut [.calSaved, .queued, .granted, .nvOpen, .gbLimits, .gbWindow, .shadows]
  | .tileReset .. => allBut [.calSaved, .queued, .granted, .nvOpen, .gbLimits, .gbWindow]
  | .portReset .. => allBut [.hosts, .lanes, .laneOf, .calRuns, .calSaved, .queued, .jobs, .records, .eyes, .granted, .nvOpen, .mram, .gbQueue, .gbLimits, .gbWindow, .shadows, .highs, .core]
  | .devIntRead .. => [.free, .regs, .running, .kept, .shadows, .core, .out]
  | .devIntClear .. => allBut [.calSaved, .queued, .granted, .nvOpen, .gbLimits, .gbWindow]
  | .devTemps .. => [.free, .regs, .pairs, .rows, .doms, .cals, .running, .kept, .hub, .out]
  | .devJobs .. => [.regs, .running, .kept, .records, .hub, .out]
  | .devJobAbort .. => [.regs, .lanes, .tiles, .diags, .cals, .running, .kept, .eyes, .completions, .claims, .waiting, .later, .tests, .raised, .out]
  | .portEnable .. => allBut [.calSaved, .queued, .granted, .nvOpen, .gbLimits, .gbWindow, .shadows]
  | .portModeSet .. => allBut [.calSaved, .queued, .granted, .nvOpen, .gbLimits, .gbWindow]
  | .portRetrain .. => [.free, .regs, .pairs, .links, .rows, .doms, .cals, .running, .kept, .hub, .raised, .out]
  | .portRate .. => allBut [.calSaved, .queued, .granted, .nvOpen, .gbLimits, .gbWindow, .shadows]
  | .portStatus .. => [.free, .regs, .pairs, .rows, .doms, .cals, .running, .kept, .shadows, .core, .hub, .out]
  | .portSummary .. => [.free, .regs, .pairs, .rows, .doms, .cals, .running, .kept, .shadows, .core, .hub, .out]
  | .portCounters .. => allBut [.calSaved, .queued, .granted, .nvOpen, .gbLimits, .gbWindow]
  | .portPeer .. => [.free, .regs, .pairs, .rows, .doms, .cals, .running, .kept, .shadows, .core, .hub, .out]
  | .portFlowctl .. => allBut [.calSaved, .queued, .granted, .nvOpen, .gbLimits, .gbWindow]
  | .portSublinks .. => [.free, .regs, .pairs, .rows, .doms, .cals, .running, .kept, .shadows, .core, .hub, .out]
  | .hlEnable .. => allBut [.calSaved, .queued, .granted, .nvOpen, .gbLimits, .gbWindow, .shadows]
  | .hlStatus .. => [.free, .regs, .pairs, .rows, .doms, .cals, .running, .kept, .shadows, .core, .hub, .out]
  | .hlFfe .. => allBut [.calSaved, .queued, .granted, .nvOpen, .gbLimits, .gbWindow]
  | .hlSpareSet .. => allBut [.calSaved, .queued, .granted, .nvOpen, .gbLimits, .gbWindow]
  | .hlSpareAct .. => allBut [.calSaved, .queued, .granted, .nvOpen, .gbLimits, .gbWindow]
  | .hlEyeScan .. => [.free, .regs, .pairs, .links, .lanes, .rows, .doms, .cals, .running, .kept, .jobs, .eyes, .completions, .claims, .waiting, .later, .hub, .raised, .out]
  | .hlEyeResult .. => [.free, .regs, .running, .kept, .out]
  | .hlPrbs .. => allBut [.calSaved, .queued, .granted, .nvOpen, .gbLimits, .gbWindow]
  | .hlPrbsRead .. => allBut [.calSaved, .queued, .granted, .nvOpen, .gbLimits, .gbWindow]
  | .hlPrbsInject .. => allBut [.calSaved, .queued, .granted, .nvOpen, .gbLimits, .gbWindow, .shadows]
  | .diagReflect .. => allBut [.calSaved, .queued, .granted, .nvOpen, .gbLimits, .gbWindow, .shadows]
  | .diagResult .. => [.free, .regs, .pairs, .rows, .doms, .cals, .running, .kept, .shadows, .core, .hub, .out]
  | .diagMaps .. => allBut [.calSaved, .queued, .granted, .nvOpen, .gbLimits, .gbWindow, .shadows]
  | .diagMapRead .. => [.free, .regs, .pairs, .rows, .doms, .cals, .running, .kept, .hub, .out]
  | .diagTraceRead .. => [.free, .regs, .pairs, .rows, .doms, .cals, .running, .kept, .hub, .out]
  | .diagHistory .. => [.free, .regs, .pairs, .rows, .doms, .cals, .running, .kept, .hub, .out]
  | .diagProfile .. => [.free, .regs, .pairs, .rows, .doms, .cals, .running, .kept, .hub, .out]
  | .diagSnr .. => [.free, .regs, .pairs, .rows, .doms, .cals, .running, .kept, .hub, .out]
  | .diagAbort .. => [.free, .regs, .pairs, .rows, .diags, .doms, .cals, .running, .kept, .completions, .claims, .waiting, .later, .hub, .raised, .out]
  | .calRun .. => [.regs, .links, .cals, .running, .kept, .jobs, .claims, .waiting, .hub, .raised, .out]
  | .calStatus .. => [.regs, .running, .kept, .out]
  | .calCfg .. => allBut [.calSaved, .queued, .granted, .nvOpen, .gbLimits, .gbWindow, .shadows]
  | .calSave .. => [.free, .regs, .links, .calSaved, .running, .kept, .jobs, .completions, .claims, .waiting, .later, .mram, .hub, .raised, .out]
  | .eeiSet .. => allBut [.calSaved, .queued, .granted, .nvOpen, .gbLimits, .gbWindow, .shadows]
  | .eeiWake .. => [.regs, .links, .running, .kept, .raised, .out]
  | .pwrDomain .. => allBut [.calSaved, .queued, .granted, .nvOpen, .gbLimits, .gbWindow, .shadows]
  | .pwrAvs .. => allBut [.calSaved, .queued, .granted, .nvOpen, .gbLimits, .gbWindow]
  | .pwrStatus .. => [.free, .regs, .running, .kept, .shadows, .core, .out]
  | .nvInfo .. => [.regs, .running, .kept, .out]
  | .nvRead .. => [.regs, .running, .kept, .out]
  | .nvOpen .. => [.free, .regs, .links, .running, .kept, .claims, .waiting, .nvOpen, .mram, .hub, .raised, .out]
  | .nvWrite .. => [.free, .regs, .running, .kept, .mram, .raised, .out]
  | .nvCommit .. => [.free, .regs, .running, .kept, .jobs, .completions, .claims, .waiting, .later, .nvOpen, .mram, .hub, .raised, .out]
  | .nvClose .. => [.regs, .running, .kept, .claims, .waiting, .later, .nvOpen, .out]
  | .nvSaveConfig .. => [.free, .regs, .links, .running, .kept, .jobs, .completions, .claims, .waiting, .later, .mram, .hub, .raised, .out]
  | .gbInfo .. => [.regs, .running, .kept, .out]
  | .gbRead .. => [.regs, .running, .kept, .out]
  | .gbClear .. => [.regs, .running, .kept, .mram, .gbQueue, .out]
  | .gbRate .. => allBut [.calSaved, .queued, .granted, .nvOpen, .gbWindow, .shadows]
  | .regRead .. => [.free, .regs, .pairs, .rows, .doms, .cals, .running, .kept, .shadows, .core, .hub, .out]
  | .regWrite .. => allBut [.calSaved, .queued, .granted, .nvOpen, .gbLimits, .gbWindow, .shadows]
  | .regReadList .. => [.free, .regs, .pairs, .rows, .doms, .cals, .running, .kept, .shadows, .core, .hub, .out]
  | .regRmw .. => allBut [.calSaved, .queued, .granted, .nvOpen, .gbLimits, .gbWindow]
  | .regWriteBlock .. => allBut [.calSaved, .queued, .granted, .nvOpen, .gbLimits, .gbWindow, .shadows]
  | .commitConfig .. => [.regs, .running, .kept, .hub, .out]
  | .cncClaim .. => [.regs, .links, .running, .kept, .claims, .waiting, .hub, .raised, .out]
  | .cncRelease .. => [.regs, .lanes, .tiles, .diags, .cals, .running, .kept, .eyes, .completions, .claims, .waiting, .later, .tests, .raised, .out]
  | .cncList .. => [.regs, .running, .kept, .out]
  | .sliceSwap .. => [.regs, .links, .tiles, .running, .kept, .jobs, .claims, .waiting, .later, .tests, .hub, .raised, .out]
  | .bistRun .. => [.regs, .links, .tiles, .running, .kept, .jobs, .claims, .waiting, .tests, .hub, .raised, .out]
  | .bistCfg .. => allBut [.calSaved, .queued, .granted, .nvOpen, .gbLimits, .gbWindow, .shadows]
  | .porterSwitch .. => allBut [.calSaved]
  | .lockSet .. => [.regs, .running, .kept, .raised, .out]
  | .unlockWrite .. => allBut [.calSaved, .queued, .granted, .nvOpen, .gbLimits, .gbWindow, .shadows]
  | .lockStatus .. => [.regs, .running, .kept, .out]
  | .completionAccept => [.jobs, .records, .completions, .hub]
  | .registerWrite .. => allBut [.calSaved, .queued, .granted, .nvOpen, .gbLimits, .gbWindow]
  | .rcRead .. => allBut [.calSaved, .queued, .granted, .nvOpen, .gbLimits, .gbWindow]
  | .counterLowRead .. => allBut [.calSaved, .queued, .granted, .nvOpen, .gbLimits, .gbWindow]
  | .counterHighWrite .. => allBut [.calSaved, .queued, .granted, .nvOpen, .gbLimits, .gbWindow]
  | .counterLowWrite .. => allBut [.calSaved, .queued, .granted, .nvOpen, .gbLimits, .gbWindow]
  | .windowDataAccess .. => allBut [.calSaved, .queued, .granted, .nvOpen, .gbLimits, .gbWindow]
  | .cfgWalkerPass .. => allBut [.calSaved, .queued, .jobs, .records, .granted, .nvOpen, .gbLimits, .gbWindow, .shadows]
  | .cfgCommit => [.hub]
  | .commitPassDone => [.free, .regs, .ports, .pairs, .links, .queues, .banks, .tiles, .diags, .doms, .running, .kept, .completions, .claims, .waiting, .later, .tests, .hub, .raised, .out]
  | .cfgCheckEnableWrite .. => [.regs, .hub, .raised]
  | .cfgFencedClear => [.free, .regs, .ports, .pairs, .links, .queues, .banks, .tiles, .diags, .doms, .completions, .claims, .waiting, .later, .tests, .raised]
  | .hubLockWrite .. => [.regs, .raised]
  | .unlockKeyWrite .. => [.regs, .hub, .raised]
  | .unlockWindowExpire => [.hub, .raised]
  | .trimTrackTick .. => [.free, .regs, .cals]
  | .calRunStart .. => [.regs, .pairs, .cals, .calRuns, .completions, .claims, .waiting, .later, .hub, .raised]
  | .calRunDone .. => [.free, .regs, .ports, .pairs, .links, .queues, .banks, .tiles, .diags, .cals, .calRuns, .completions, .claims, .waiting, .later, .tests, .raised]
  | .calRunTimeout .. => [.regs, .pairs, .cals, .calRuns, .completions, .claims, .waiting, .later, .raised]
  | .calRetry .. => [.cals]
  | .opSecondsStore .. => [.free, .regs, .mram, .raised]
  | .gbEventAccept => [.regs, .gbQueue, .gbWindow, .raised]
  | .gbRecordWrite .. => [.free, .regs, .mram, .gbQueue, .raised]
  | .gbClearDoorbell => [.regs, .mram, .gbQueue]
  | .gbRateWindowEnd => [.gbWindow, .hub, .raised]
  | .porterTakeover .. => allBut [.calSaved]
  | .bistUnitDue => [.regs, .links, .tiles, .claims, .tests, .hub, .raised, .out]
  | .bistTestDone .. => [.free, .regs, .ports, .pairs, .links, .queues, .banks, .rows, .tiles, .diags, .completions, .claims, .waiting, .later, .tests, .hub, .raised, .out]
  | .bankDrained .. => [.regs, .tests, .raised]
  | .bankDrainTimeout .. => [.regs, .links, .tiles, .completions, .claims, .waiting, .later, .tests, .hub, .raised, .out]
  | .maintSwapCopyDone .. => [.regs, .tiles]
  | .maintSwapShadowDone .. => [.regs, .tiles, .completions, .claims, .waiting, .later, .tests, .raised]
  | .claimGrant .. => allBut [.queued, .gbLimits, .gbWindow]
  | .dapOperation .. => allBut [.calSaved, .queued, .granted, .nvOpen, .gbLimits, .gbWindow]
  | .boardTestBegin .. => [.regs, .lanes, .hub, .raised, .out]
  | .boardTestEnd => [.free, .regs, .lanes, .hub, .raised, .out]
  | .tapReset => [.regs, .lanes, .hub, .raised]
  | .porterHalt .. => [.regs, .hub, .raised]
  | .porterBreakpoint .. => [.regs, .hub, .raised]
  | .porterResume => allBut [.calSaved, .queued, .granted, .nvOpen, .gbLimits, .gbWindow, .shadows]
  | .porterStep .. => [.regs, .core, .hub, .raised]
  | .dbgCoreDataAccess .. => [.free, .regs, .core]
  | .tempAlertAssert => [.hub, .raised]
  | .tempAlertRelease => [.hub, .raised]
  | .tileLinkLockLoss .. => allBut [.calSaved, .queued, .granted, .nvOpen, .gbLimits, .gbWindow]
  | .frontendFault .. => [.free, .regs, .ports, .pairs, .links, .queues, .banks, .tiles, .diags, .completions, .claims, .waiting, .later, .tests, .raised]
  | .resetNRelease .. => [.regs, .hub]
  | .deviceResetEnd => [.hub]
  | .ringSyncLoss .. => [.regs, .hub]
  | .packetForward .. => [.regs, .hub, .out]
  | .calRunStartTimeout .. => [.regs, .cals, .completions, .claims, .waiting, .later]
  | .domainPowerDownDone .. => allBut [.calSaved, .queued, .granted, .nvOpen, .gbLimits, .gbWindow]

end Sys2Proof.Claims

open Sys2Proof Sys2Proof.Machine Sys2Proof.Claims

/-- For every command, every rest of the queue and every state: the step of the state with that command in front is the meaning of the command on the
state with the rest alone. (01_architecture, 95_what_each_step_holds) -/
def Obligations.StepRunsTheFrontCommand : Prop :=
  ∀ (c : Instr) (q : List Instr) (s : State), step { s with pending := c :: q } = exec c { s with pending := q }

/-- With no command waiting, a step answers the state with `now` one more and everything else as it was. That the empty queue is the clock is the model's
choice (DESIGN CHOICE, log entry 1). (95_what_each_step_holds) -/
def Obligations.EmptyQueueLetsAMicrosecondPass : Prop :=
  ∀ s : State, s.pending = [] → step s = .next { s with now := s.now + 1 }

/-- After reset every store is in canonical form, no reply is retained and no claim is held, so the invariant that EveryStepKeepsTheInvariant speaks of
holds. (R375, R404, R431) -/
def Obligations.ResetMeetsTheInvariant : Prop :=
  Inv State.reset

/-- From every state, reached or not, in which all stores are in canonical form (the MRAM among them), at most 64 final replies are retained (R404) and
every claim has a handle from 1 to 0xFFFF (R431), every step that answers a next state answers one in which the same holds. The canonical form is the
model's own; the bound and the handles are the spec's. (R404, R431, R501) -/
def Obligations.EveryStepKeepsTheInvariant : Prop :=
  ∀ s t : State, Inv s → step s = .next t → Inv t

/-- For every command, every state and every kind of state that the command's footprint does not list (registers, hidden state of ports, pairs, links,
queues, hosts, lanes, tables, coefficients, tiles, diagnostics, domains, calibrations, command queue, replies, jobs, claims, tests, MRAM with all its
bytes, Guestbook, shadows, hub state, events, outputs): after the command that kind is what it was before. (01_architecture, 95_what_each_step_holds) -/
def Obligations.CommandsChangeOnlyTheirKindsOfState : Prop :=
  ∀ (c : Instr) (s t : State) (k : Kind), exec c s = .next t → k ∉ footprint c → Same k s t

/-- For every command and every state: the next state has the same queue of waiting commands and the same time, and what has been sent before stands at
the front of what has been sent after (log entries 1 and 8 name the clock and the record of outputs as the model's own). (95_what_each_step_holds) -/
def Obligations.CommandsLeaveQueueAndClock : Prop :=
  ∀ (c : Instr) (s t : State), exec c s = .next t → t.pending = s.pending ∧ t.now = s.now ∧ ∃ more, t.out = s.out ++ more

/-- For every command with any operands and every state, the meaning answers a next state: never a fault, never a refusal (log entry 9: no rule of the
spec halts the device on a command). (R378, R421) -/
def Obligations.EveryCommandAnswersANextState : Prop :=
  ∀ (c : Instr) (s : State), ∃ t, exec c s = .next t

/-- On every list of bytes the CRC-32C of the model is that of a shift register with the Castagnoli polynomial 0x1EDC6F41, whose input takes each byte
least significant bit first, whose output is reflected, with initial value 0xFFFFFFFF and final XOR 0xFFFFFFFF; and over the ASCII string "123456789"
it is 0xE3069283. (R6) -/
def Obligations.CrcHasTheParametersOfTheManual : Prop :=
  (∀ bs : List Nat, (∀ b ∈ bs, b < 256) → crc32c bs = (crcOfParameters bs).toNat) ∧
  crc32c [0x31, 0x32, 0x33, 0x34, 0x35, 0x36, 0x37, 0x38, 0x39] = 0xE3069283

/-- For a command with NOREPLY set (FLAGS bit 2): the final reply, the interim reply QUEUED and the answer to a command that is not executed send nothing,
whatever the status; MR_NOREPLY_ERR counts one for a final status other than OK and for an answer without execution, and none for OK or QUEUED. (R403) -/
def Obligations.NoReplyMeansNoReply : Prop :=
  (∀ (p : Pkt) (status : Nat) (body : List Nat) (s : State), bit p.call.flags 2 = true →
      (finalReply p status body s).out = s.out ∧
      (finalReply p status body s).reg MR_NOREPLY_ERR = s.reg MR_NOREPLY_ERR + (if status = 0 then 0 else 1)) ∧
  (∀ (p : Pkt) (s : State), bit p.call.flags 2 = true →
      (interimReply p s).out = s.out ∧ (interimReply p s).reg MR_NOREPLY_ERR = s.reg MR_NOREPLY_ERR) ∧
  (∀ (c : Call) (op status : Nat) (s : State), bit c.flags 2 = true →
      (refuse c op status s).out = s.out ∧ (refuse c op status s).reg MR_NOREPLY_ERR = s.reg MR_NOREPLY_ERR + 1)

/-- For every state and coach received: if one of its bits lies in a codeword that failed to decode, the effect is that of the same coach with a wrong
CRC-32C and no failed codeword. The bits of a received pair of codewords are marked by the codeword that each 10-bit symbol belongs to, exactly those
of a word that does not decode as failed; and in REACH, when a pair of codewords is complete, PORT_RS_UNCORR grows by how many of the two failed and
the marked bits join the received stream. (R91) -/
def Obligations.CoachInAFailedCodewordIsCrcBad : Prop :=
  (∀ (n : Port) (sub : Option Pair) (a b c d : List RxWindow) (t : Rat) (s : State) (bad : Nat),
      let l : LinkId := ⟨n, sub⟩
      let rx := bySymbol [a, b, c, d]
      4 ≤ (s.link l).phase → (s.link l).phase ≤ 8 → 10320 ≤ (bitsIn l rx s).length → ((bitsIn l rx s).take 10320).any (·.2) = true → bad ≠ coachCrc (coachIn l rx s).hdr (coachIn l rx s).blocks →
      exec (.coachRx n sub a b c d t) s = .next (markCoach l (takeCoach l { coachIn l rx s with crc := bad } false t
        ((afterSymbols l rx s).modQueue l (fun q => { q with rxBits := (bitsIn l rx s).drop 10320 }))))) ∧
  (∀ bs : List Bool, bs.length = 10880 →
      let a := (rsDecode 24 (evens (symbols10 1088 bs))).isNone
      let b := (rsDecode 24 (evens ((symbols10 1088 bs).drop 1))).isNone
      (openPair bs).1.map (·.2) = (interleave (List.replicate 520 a) (List.replicate 520 b)).flatMap (List.replicate 10) ∧
        (openPair bs).2.2 = a.toNat + b.toNat) ∧
  (∀ (l : LinkId) (bs : List Bool) (s : State), isReach (s.link l) = true → 10880 ≤ ((s.queue l).rxCoded ++ bs).length →
      (s.queue l).rxIlv < reachM (shareStream l (s.link l).streamRx) →
      (takeStream l bs s).reg (PORT_RS_UNCORR l.n) =
        s.reg (PORT_RS_UNCORR l.n) + word (openPair (((s.queue l).rxCoded ++ bs).take 10880)).2.2 ∧
      ((takeStream l bs s).queue l).rxBits = (s.queue l).rxBits ++ (openPair (((s.queue l).rxCoded ++ bs).take 10880)).1)

/-- For every link that hears a waymark symbol in showtime, synchronised, where a message of a carrying pair passes its CRC-16: at the higher end the far
count becomes what the first such message says: its STAGE where the code names no stage, else the count nearest the running one whose low byte is NOW;
at the lower end it becomes in turn what each such message says, for it takes the count of every message that disagrees (R201). Where none passes, the
count before plus one. In G3 before sync the first message's STAGE is taken. The command hears what the receive chain made of the symbol. (R199, R201,
R179) -/
def Obligations.TheFirstGoodMessageGivesTheFarCount : Prop :=
  (∀ (l : LinkId) (rx : List RxWindow) (s : State), 4 ≤ (s.link l).phase → (s.link l).phase ≤ 8 →
      exec (.waymarkSymbolRx l rx) s = .next (showLink l (hearSymbol l (rxWaymark l rx s).1 (rxWaymark l rx s).2))) ∧
  (∀ (l : LinkId) (hs : List Heard) (s : State) (p : Nat) (m : Msg) (more : List (Nat × Msg)), (s.link l).phase = 7 → (s.link l).synced = true →
      isHigher (s.link l) = true → goodMessages hs (maskPairs (s.link l).carryRx) = (p, m) :: more →
      ((hearSymbol l hs s).link l).far = if namesStage m.code then nearestCount (stagePlus (s.link l).far 1) m.now else m.stage) ∧
  (∀ (l : LinkId) (hs : List Heard) (s : State) (p : Nat) (m : Msg) (more : List (Nat × Msg)), (s.link l).phase = 7 → (s.link l).synced = true →
      isHigher (s.link l) = false → goodMessages hs (maskPairs (s.link l).carryRx) = (p, m) :: more →
      ((hearSymbol l hs s).link l).far = more.foldl (fun c x => if namesStage x.2.code then nearestCount c x.2.now else x.2.stage)
        (if namesStage m.code then nearestCount (stagePlus (s.link l).far 1) m.now else m.stage)) ∧
  (∀ (l : LinkId) (hs : List Heard) (s : State), (s.link l).phase = 7 → goodMessages hs (maskPairs (s.link l).carryRx) = [] →
      ((hearSymbol l hs s).link l).far = stagePlus (s.link l).far 1) ∧
  (∀ (l : LinkId) (hs : List Heard) (s : State) (p : Nat) (m : Msg) (more : List (Nat × Msg)), (s.link l).phase = 4 → (s.link l).synced = false →
      goodMessages hs (linkPairs l) = (p, m) :: more →
      ((hearSymbol l hs s).link l).far = m.stage ∧ ((hearSymbol l hs s).link l).synced = true) ∧
  (∀ run now : Nat, now < 256 → nearestCount run now % 256 = now ∧ ((nearestCount run now : Int) - run + 128) % 2 ^ 32 < 256)

/-- For all stage counts S and C, the comparison that the model uses for stages says that S is later than C exactly when (S − C) modulo 2^32, taken over
the integers, lies between 1 and 2^31 − 1; and of two different stages not 2^31 apart exactly one is later. (R70) -/
def Obligations.LaterStagesByTheModularRule : Prop :=
  (∀ s c : Nat, later s c = true ↔ 1 ≤ ((s : Int) - c) % 2 ^ 32 ∧ ((s : Int) - c) % 2 ^ 32 ≤ 2 ^ 31 - 1) ∧
  (∀ s c : Nat, s % 2 ^ 32 ≠ c % 2 ^ 32 → (s + 2 ^ 31) % 2 ^ 32 ≠ c % 2 ^ 32 → (later s c = true ↔ later c s = false))

/-- Right after reset, on each tile t below 8: front end f below 64 is served by slice f, each of the slices 64 to 67 serves no front end and is a free
spare (state 1, FREE), and port n below 128 uses host lane n. (R18, R24) -/
def Obligations.ResetAssignsSlicesAndLanes : Prop :=
  (∀ t f : Nat, t < 8 → f < 64 → feSlice State.reset t f = f) ∧
  (∀ t i : Nat, t < 8 → 64 ≤ i → i < 68 → frontEnd State.reset t i = none ∧ sliceState State.reset t i = 1) ∧
  (∀ n : Nat, n < 128 → State.reset.portLane n = n)

/-- PREAMBLE_DETECT of a pair that listens and detects nothing yet, where the scan of the samples received finds a run at the threshold: the level found
is kept and PAIR_GREET_DET counts one. CAPTURE_OVERRIDE where the scan finds a burst stronger by the capture margin: it is received in place of the
other where the gain froze in time, else neither; PAIR_GREET_CAPTURE counts one. BURST_HEADER_DECODE where the header decoded from the received values
has a good CRC-16 and KIND 1 to 6: a header alone leaves the detection with the header marked done, a whole burst ends it; with a bad CRC-16 the
detection ends and PAIR_GREET_HDR_BAD counts one. G0_BACKOFF_EXPIRE in G0: a GREET burst with the next attempt number, with its preamble lines, its
symbols and the present level, goes out, and a reply is awaited. G0_REPLY_TIMEOUT: no reply is awaited, the level rises by one up to 3, a wait below
64 is drawn, and the link stays in G0. Each clause concludes that the command completes, exec answering a next state: preambleDetect, captureOverride,
burstHeaderDecode, g0BackoffExpire, g0ReplyTimeout. (R165, R167, R160, R170, R164) -/
def Obligations.GreetingReceiverAnswers : Prop :=
  (∀ (n : Port) (p : Pair) (before : List Int) (rx : List Int) (gain : Nat) (e : Nat) (s : State), listens (s.link (linkOfPair s n p)) = true → (scanPreamble (detThresh (s.link (linkOfPair s n p))) (fun _ => true) (s.pair n p).detRun (s.pair n p).detFirst before rx).hit = some e → (s.pair n p).detect = none →
    ∃ t : State, exec (.preambleDetect n p before rx gain) s = .next t ∧ (t.pair n p).detect = some e ∧ (t.pair n p).hdrDone = false ∧ t.reg (PAIR_GREET_DET n p) = s.reg (PAIR_GREET_DET n p) + 1) ∧
  (∀ (n : Port) (p : Pair) (before : List Int) (rx : List Int) (gain : Nat) (frozenInTime : Bool) (d e : Nat) (s : State), listens (s.link (linkOfPair s n p)) = true → (s.pair n p).detect = some d → (s.pair n p).hdrDone = false → (scanPreamble (detThresh (s.link (linkOfPair s n p))) (captures (s.link (linkOfPair s n p)) d) 0 0 before rx).hit = some e →
    ∃ t : State, exec (.captureOverride n p before rx gain frozenInTime) s = .next t ∧ ((t.pair n p).detect = (if frozenInTime then some e else none) ∧ t.reg (PAIR_GREET_CAPTURE n p) = s.reg (PAIR_GREET_CAPTURE n p) + 1)) ∧
  (∀ (n : Port) (p : Pair) (rx : List (Int × Int)) (body : Option (List (Int × Int))) (s : State), (s.pair n p).detect ≠ none → crc16 (bitsMsb 106 (decodedHeader rx / 65536)) = decodedHeader rx % 65536 → 1 ≤ bits (decodedHeader rx) 121 118 → bits (decodedHeader rx) 121 118 ≤ 6 →
    ∃ t : State, exec (.burstHeaderDecode n p rx body) s = .next t ∧ ((body = none → (t.pair n p).hdrDone = true ∧ (t.pair n p).detect = (s.pair n p).detect) ∧ (body ≠ none → (t.pair n p).detect = none))) ∧
  (∀ (n : Port) (p : Pair) (rx : List (Int × Int)) (body : Option (List (Int × Int))) (s : State), (s.pair n p).detect ≠ none → crc16 (bitsMsb 106 (decodedHeader rx / 65536)) ≠ decodedHeader rx % 65536 →
    ∃ t : State, exec (.burstHeaderDecode n p rx body) s = .next t ∧ (t.pair n p).detect = none ∧ t.reg (PAIR_GREET_HDR_BAD n p) = s.reg (PAIR_GREET_HDR_BAD n p) + 1) ∧
  (∀ (l : LinkId) (s : State), (s.link l).phase = 1 → (s.link l).waitReply = false →
    ∃ t : State, exec (.g0BackoffExpire l) s = .next t ∧ (t.link l).attempt = (s.link l).attempt + 1 ∧ (t.link l).waitReply = true ∧ t.out = s.out ++ [burstOut l 1 (burstHeader 1 2 (s.link l).level ((s.link l).attempt + 1) (s.link l).ownId 0 0) [page0 s l, page1 s l] (s.link l).level]) ∧
  (∀ (l : LinkId) (s : State), (s.link l).phase = 1 → (s.link l).waitReply = true →
    ∃ t : State, exec (.g0ReplyTimeout l) s = .next t ∧ (t.link l).waitReply = false ∧ (t.link l).level = min ((s.link l).level + 1) 3 ∧ (t.link l).phase = 1 ∧ (t.link l).wait < 64)

/-- GREET accepted in G0 with no reply awaited: G1 as responder with the sender's identity, pages and at least its level. REPLY accepted to the present
attempt with an agreed protocol: G1 as initiator, one CONFIRM sent. CONFIRM accepted by a responder: with the CRC of its own resolved result, set-up
is confirmed; with another, the start-up fails with cause 3. CONFIRM-ACK confirms the set-up of an initiator, CONFIRM-NAK fails it with cause 3.
CONFIRM_TIMEOUT below three CONFIRMs sends another. G1_RESPONDER_TIMEOUT fails with cause 1. SETUP_INTERVAL_END of a confirmed link: G2, with the
resolved modes negotiated and SPLITBAND not yet in effect. Each clause concludes that the command completes, exec answering a next state: greet,
reply, confirm, confirmAck, confirmNak, confirmTimeout, g1ResponderTimeout, setupIntervalEnd. (R170, R171, R172, R128, R173, R152) -/
def Obligations.GreetingExchange : Prop :=
  (∀ (l : LinkId) (b : Burst) (s : State), (acceptBurst l b true s).1 = true → (s.link l).phase = 1 → (s.link l).waitReply = false →
    ∃ t : State, exec (.greet l b) s = .next t ∧ (t.link l).phase = 2 ∧ (t.link l).initiator = false ∧ (t.link l).peerId = b.sender ∧ (t.link l).peerPages = b.pages ∧ (t.link l).level = max (s.link l).level (b.level % 4)) ∧
  (∀ (l : LinkId) (b : Burst) (s : State), (acceptBurst l b true s).1 = true → (s.link l).phase = 1 → (s.link l).waitReply = true → b.echo = (s.link l).ownId → b.attempt % 256 = (s.link l).attempt % 256 → protoOk (acceptBurst l b true s).2 l b.pages = true →
    ∃ t : State, exec (.reply l b) s = .next t ∧ (t.link l).phase = 2 ∧ (t.link l).initiator = true ∧ (t.link l).peerId = b.sender ∧ (t.link l).peerPages = b.pages ∧ (t.link l).confirms = 1) ∧
  (∀ (l : LinkId) (b : Burst) (s : State), (acceptBurst l b true s).1 = true → (s.link l).phase = 2 → (s.link l).initiator = false → protoOk (acceptBurst l b true s).2 l b.pages = true → crc16 (bitsMsb 32 ((resolve l b.pages (acceptBurst l b true s).2).link l).resultWord) = b.resultCrc →
    ∃ t : State, exec (.confirm l b) s = .next t ∧ (t.link l).confirmed = true ∧ (t.link l).setup = true ∧ (t.link l).peerPages = b.pages ∧ (t.link l).phase = 2) ∧
  (∀ (l : LinkId) (b : Burst) (s : State), (acceptBurst l b true s).1 = true → (s.link l).phase = 2 → (s.link l).initiator = false → protoOk (acceptBurst l b true s).2 l b.pages = true → crc16 (bitsMsb 32 ((resolve l b.pages (acceptBurst l b true s).2).link l).resultWord) ≠ b.resultCrc →
    ∃ t : State, exec (.confirm l b) s = .next t ∧ (t.link l).lastCause = 3 ∧ (t.link l).phase = 10) ∧
  (∀ (l : LinkId) (b : Burst) (s : State), (acceptBurst l b false s).1 = true → (s.link l).phase = 2 → (s.link l).initiator = true →
    ∃ t : State, exec (.confirmAck l b) s = .next t ∧ (t.link l).confirmed = true ∧ (t.link l).setup = true ∧ (t.link l).phase = 2) ∧
  (∀ (l : LinkId) (b : Burst) (s : State), (acceptBurst l b false s).1 = true → (s.link l).phase = 2 → (s.link l).initiator = true →
    ∃ t : State, exec (.confirmNak l b) s = .next t ∧ (t.link l).lastCause = 3 ∧ (t.link l).phase = 10) ∧
  (∀ (l : LinkId) (s : State), (s.link l).phase = 2 → (s.link l).initiator = true → (s.link l).setup = false → (s.link l).confirms < 3 →
    ∃ t : State, exec (.confirmTimeout l) s = .next t ∧ (t.link l).confirms = (s.link l).confirms + 1 ∧ (t.link l).phase = 2) ∧
  (∀ (l : LinkId) (s : State), (s.link l).phase = 2 → (s.link l).initiator = false → (s.link l).confirmed = false →
    ∃ t : State, exec (.g1ResponderTimeout l) s = .next t ∧ (t.link l).lastCause = 1 ∧ (t.link l).phase = 10) ∧
  (∀ (l : LinkId) (s : State), (s.link l).phase = 2 → (s.link l).setup = true →
    ∃ t : State, exec (.setupIntervalEnd l) s = .next t ∧ (t.link l).phase = 3 ∧ (t.link l).g2Step = 0 ∧ (t.link l).negotiated = (s.link l).resolved ∧ (t.link l).splitband = false)

/-- G2_SLOT_STEP before the last slot: the next slot. VERDICT_SEND after the last: the burst of kind 6 with the verdict word of this end, which is kept.
VERDICT accepted in G2: the peer's word is kept. G3_START with both words present: with neither FAIL, G3 at stage 0, not synchronised, SPLITBAND where
either word or the resolved modes ask for it; with the peer's FAIL only, a start-up failure of cause 0xC that shows the peer's cause. G3_SYNC_TIMEOUT
at stage 128 without sync: cause 6. Each clause concludes that the command completes, exec answering a next state: g2SlotStep, verdictSend, verdict,
g3Start, g3SyncTimeout. (R128, R177, R180, R176, R178) -/
def Obligations.TrainingAndVerdict : Prop :=
  (∀ (l : LinkId) (meas : List G2Meas) (s : State), (s.link l).phase = 3 → (s.link l).g2Step < 14 →
    ∃ t : State, exec (.g2SlotStep l meas) s = .next t ∧ (t.link l).g2Step = (s.link l).g2Step + 1 ∧ (t.link l).phase = 3) ∧
  (∀ (l : LinkId) (s : State), (s.link l).phase = 3 → 14 ≤ (s.link l).g2Step →
    ∃ t : State, exec (.verdictSend l) s = .next t ∧ (t.link l).ownVerdict = verdictWord s l ∧ t.out = s.out ++ [burstOut l 6 (burstHeader 6 1 (s.link l).level (s.link l).peerAttempt (s.link l).ownId (s.link l).peerId 0) [verdictWord s l] (s.link l).level]) ∧
  (∀ (l : LinkId) (b : Burst) (s : State), (acceptBurst l b false s).1 = true → (s.link l).phase = 3 →
    ∃ t : State, exec (.verdict l b) s = .next t ∧ (t.link l).peerVerdict = some (b.pages.getD 0 0)) ∧
  (∀ (l : LinkId) (v : Nat) (s : State), (s.link l).phase = 3 → 14 ≤ (s.link l).g2Step → (s.link l).peerVerdict = some v → bit (verdictWord s l) 58 = false → bit v 58 = false →
    ∃ t : State, exec (.g3Start l) s = .next t ∧ (t.link l).phase = 4 ∧ (t.link l).own = 0 ∧ (t.link l).synced = false ∧ (t.link l).splitband = ((bit (verdictWord s l) 59 || bit v 59) || bit (s.link l).resolved mSPLITBAND)) ∧
  (∀ (l : LinkId) (v : Nat) (s : State), (s.link l).phase = 3 → 14 ≤ (s.link l).g2Step → (s.link l).peerVerdict = some v → bit (verdictWord s l) 58 = false → bit v 58 = true →
    ∃ t : State, exec (.g3Start l) s = .next t ∧ (t.link l).lastCause = 0xC ∧ (t.link l).phase = 10 ∧ (t.link l).remoteCause = bits v 55 48) ∧
  (∀ (l : LinkId) (s : State), (s.link l).phase = 4 → (s.link l).synced = false → 128 ≤ (s.link l).own →
    ∃ t : State, exec (.g3SyncTimeout l) s = .next t ∧ (t.link l).lastCause = 6 ∧ (t.link l).phase = 10)

/-- G4A_TABLE_COMPUTE at the end of G4a: the stream code is that of the best tier for the pairs of the link, with cause 8 where none fits.
STARTUP_TABLE_FRAME with a good CRC-32C and a table that is valid for its stream: the table of that pair and set is kept once. CARRYING_SET_DECIDE:
with no table from the peer, cause 9; with all four pairs in order in both directions, all four carry. STARTUP_STATUS_FRAME of a carrying pair: the
peer's VERIFY and, if given, its showtime stage. STARTUP_ABORT_FRAME: cause 0xC and the peer's cause. VERIFY_RESULT from the stage of the result on:
PASS where the symbol errors counted are within VERIFY_MAX and the margin is not negative, else FAIL. SHOW_STAGE_NAME of the higher end with both
PASS: 17 stages on. Each clause concludes that the command completes, exec answering a next state: g4aTableCompute, startupTableFrame,
carryingSetDecide, startupStatusFrame, startupAbortFrame, verifyResult, showStageName. (R181, R183, R184, R185, R186, R187, R190) -/
def Obligations.TablesAndVerify : Prop :=
  (∀ (l : LinkId) (s : State), (s.link l).phase = 5 → 5120 ≤ (s.link l).own → (s.link l).ownStreams = [] → (s.link l).excluded = 0 →
    ∃ t : State, exec (.g4aTableCompute l) s = .next t ∧ ((t.link l).ownStreams.head? = (bestStream s l (linkPairs l)).map (fun x => (0, x.1)) ∧ (bestStream s l (linkPairs l) = none → (t.link l).lastCause = 8))) ∧
  (∀ (l : LinkId) (f : SuFrame) (s : State), (s.link l).phase = 5 → frameGood f = true → f.kind = 1 → f.pair.val ∈ linkPairs l → f.set < 5 → tableValid s l f.pair.val .tx (linkShare (s.link l) l (bits f.arg 19 17) (if f.set = 0 then (linkPairs l).length else 3)) (frameTable f) = true → (∀ x ∈ (s.link l).peerTables, ¬ (x.1 = f.pair.val ∧ x.2.1 = f.set)) →
    ∃ t : State, exec (.startupTableFrame l f) s = .next t ∧ (t.link l).peerTables = (s.link l).peerTables ++ [(f.pair.val, f.set, bits f.arg 19 17, bits f.arg 15 12)]) ∧
  (∀ (l : LinkId) (s : State), (s.link l).phase = 6 → 5376 ≤ (s.link l).own → (s.link l).decided = false → (s.link l).peerTables = [] →
    ∃ t : State, exec (.carryingSetDecide l) s = .next t ∧ (t.link l).lastCause = 9 ∧ (t.link l).phase = 10) ∧
  (∀ (l : LinkId) (own : Nat × Nat) (s : State), (s.link l).phase = 6 → 5376 ≤ (s.link l).own → (s.link l).decided = false → l.sub = none → (s.link l).excluded = 0 → peerCarry (s.link l) = some 15 → (s.link l).ownStreams.find? (fun x => x.1 == 0) = some own → allPairs.all (fun p => (s.link l).peerTables.any (fun x => x.1 == p && x.2.1 == 0)) = true →
    ∃ t : State, exec (.carryingSetDecide l) s = .next t ∧ (t.link l).decided = true ∧ (t.link l).carry = 15 ∧ (t.link l).carryRx = 15) ∧
  (∀ (l : LinkId) (f : SuFrame) (s : State), (s.link l).phase = 6 → frameGood f = true → f.kind = 2 → bit (s.link l).carryRx f.pair.val = true →
    ∃ t : State, exec (.startupStatusFrame l f) s = .next t ∧ ((t.link l).farVerify = bits f.arg 19 18 ∧ (bit f.arg 17 = true → (t.link l).farShow = some (bits (f.body.headD 0) 63 32)))) ∧
  (∀ (l : LinkId) (f : SuFrame) (s : State), ((s.link l).phase = 5 ∨ (s.link l).phase = 6) → frameGood f = true → f.kind = 3 →
    ∃ t : State, exec (.startupAbortFrame l f) s = .next t ∧ (t.link l).remoteCause = f.arg % 256 ∧ (t.link l).lastCause = 0xC ∧ (t.link l).phase = 10) ∧
  (∀ (n : Port) (sub : Option Pair) (s : State), inSequence (s.link ⟨n, sub⟩) = true → resultStage (s.link ⟨n, sub⟩) ≤ seqStage (s.link ⟨n, sub⟩) → (s.link ⟨n, sub⟩).verify = 0 →
    ∃ t : State, exec (.verifyResult n sub) s = .next t ∧ ((t.link ⟨n, sub⟩).verify = if (s.link ⟨n, sub⟩).errSyms ≤ s.fld (PORT_STARTUP_CFG.VERIFY_MAX n) ∧ 0 ≤ portMargin s ⟨n, sub⟩ then 1 else 2)) ∧
  (∀ (l : LinkId) (s : State), isHigher (s.link l) = true → 4 ≤ (s.link l).phase → (s.link l).phase ≤ 6 → (s.link l).verify = 1 → (s.link l).farVerify = 1 → (s.link l).showStage = none →
    ∃ t : State, exec (.showStageName l) s = .next t ∧ (t.link l).showStage = some (stagePlus (s.link l).own 17))

/-- SHOW_TIMEOUT of a lower end that hears no stage: cause 0xB. SHOWTIME_ENTRY at the agreed stage: showtime, with the count of failures cleared and FAST
0. FAST_RETRAIN_START at its stage where coefficients fit: phase 8, undecided, with the cause, at the present stage. FAST_RETRAIN_FAIL leaves the fast
retrain for neither it nor showtime. STARTUP_FAIL in G0 to G5 with a cause from 1 to 0xC: the cause is shown, hold-off begins, one more consecutive
failure up to 255. HOLD_OFF_EXPIRE of an enabled port with a clock: G0 again, the peer's identity as it was. ENABLE of an allowed port at rest: G0, a
wait for its tile or a hold-off. ENABLE cleared on a port that is up or starting: down. Each clause concludes that the command completes, exec
answering a next state: showTimeout, showtimeEntry, fastRetrainStart, fastRetrainFail, startupFail, holdOffExpire, startupEnableSet,
startupEnableClear. (R187, R188, R189, R191, R192, R193, R156, R190, R349, R194) -/
def Obligations.ShowtimeAndFailures : Prop :=
  (∀ (l : LinkId) (s : State), isHigher (s.link l) = false → (s.link l).phase = 6 → (s.link l).eei.partialFr = false → (s.link l).farShow = none → 6047 < (s.link l).own →
    ∃ t : State, exec (.showTimeout l) s = .next t ∧ (t.link l).lastCause = 0xB ∧ (t.link l).phase = 10) ∧
  (∀ (l : LinkId) (v : Nat) (s : State), (s.link l).phase = 6 → (s.link l).decided = true → (s.link l).verify = 1 → (s.link l).showStage = some v → reached (s.link l).own v = true → reached (s.link l).far v = true → (s.link l).farShow = some v →
    ∃ t : State, exec (.showtimeEntry l) s = .next t ∧ (t.link l).phase = 7 ∧ (t.link l).consecFail = 0 ∧ (t.link l).limit = false ∧ (t.link l).fast = false) ∧
  (∀ (l : LinkId) (cause st : Nat) (s : State), (s.link l).phase = 7 → (s.link l).changes = [⟨st, .retrain cause false, false, false⟩] → reached (s.link l).own st = true → fastAllowed s l = true →
    ∃ t : State, exec (.fastRetrainStart l) s = .next t ∧ (t.link l).phase = 8 ∧ (t.link l).decided = false ∧ (t.link l).frCause = cause ∧ (t.link l).frStage = (s.link l).own) ∧
  (∀ (l : LinkId) (cause : Nat) (s : State), (s.link l).phase = 8 →
    ∃ t : State, exec (.fastRetrainFail l cause) s = .next t ∧ (t.link l).phase ≠ 8 ∧ (t.link l).phase ≠ 7) ∧
  (∀ (l : LinkId) (cause : Nat) (s : State), 1 ≤ cause → cause ≤ 0xC → 1 ≤ (s.link l).phase → (s.link l).phase ≤ 6 →
    ∃ t : State, exec (.startupFail l cause) s = .next t ∧ (t.link l).lastCause = cause ∧ (t.link l).phase = 10 ∧ (t.link l).consecFail = min ((s.link l).consecFail + 1) 255) ∧
  (∀ (l : LinkId) (s : State), (s.link l).phase = 10 → portEnabled s l.n = true → tileClocked s l.n = true → breakoutSet s l.n = false → l.sub = none →
    ∃ t : State, exec (.holdOffExpire l) s = .next t ∧ (t.link l).phase = 1 ∧ (t.link l).peerId = (s.link l).peerId ∧ (t.link l).waitReply = false) ∧
  (∀ (n : Port) (s : State), portAllowed s n = true → (s.link (portLink n)).phase = 0 →
    ∃ t : State, exec (.startupEnableSet n) s = .next t ∧ ((t.link (portLink n)).phase = 1 ∨ (t.link (portLink n)).phase = 9 ∨ (t.link (portLink n)).phase = 10)) ∧
  (∀ (n : Port) (s : State), isBreakout s n = false → (isUp s (portLink n) = true ∨ inStartup s (portLink n) = true) →
    ∃ t : State, exec (.startupEnableClear n) s = .next t ∧ (t.link (portLink n)).phase = 0)

/-- EEI_PROPOSE_SEND of an idle link in showtime with EEI in effect, after its hold-off and with no refusal: a message 0x40 for the deepest depth allowed.
EEI_PROPOSE: with no refusal the entry is agreed for its stage and 0x41 answers. EEI_ACCEPT of the proposal made, with nothing else agreed for its
stage: its entry is agreed. EEI_REFUSE: the proposal ends, hold-off starts again, and after code 2 the cap is one below the depth asked. EEI_ABORT of
the agreed entry: none is agreed. EEI_WAKE_MSG before the entry: the wake is noted for it. EEI_BUDGET_APPLY outside an entry or a depth: the budget,
up to 1,000,000, and the deepest depth of the registers. Each clause concludes that the command completes, exec answering a next state:
eeiProposeSend, eeiPropose, eeiAccept, eeiRefuse, eeiAbort, eeiWakeMsg, eeiBudgetApply. (R295, R47, R296, R308, R309, R45, R310, R302, R294) -/
def Obligations.EeiAgreement : Prop :=
  (∀ (l : LinkId) (s : State), (s.link l).phase = 7 → inEffect s l.n mEEI = true → hostIdle s l = true → eeiHoldOff s l.n ≤ (s.link l).eei.hold → eeiBusy (s.link l) = false → 0 < min (linkAllowed s l) (s.link l).eei.cap → refuser s l 0 false = none →
    ∃ t : State, exec (.eeiProposeSend l) s = .next t ∧ (t.link l).waiting = (s.link l).waiting ++ [⟨0x40, none, min (linkAllowed s l) (s.link l).eei.cap, true⟩]) ∧
  (∀ (l : LinkId) (p : Pair) (m : Msg) (s : State), (s.link l).phase = 7 → proposedEntry (s.link l) = none → eeiRefusal (consume l p m s) l (m.arg % 4) (msgStage m) = none →
    ∃ t : State, exec (.eeiPropose l p m) s = .next t ∧ (t.link l).eei.agreed = true ∧ (t.link l).eei.depth = m.arg % 4 ∧ (t.link l).eei.entry = msgStage m ∧ (t.link l).waiting = (s.link l).waiting ++ [⟨0x41, some (msgStage m), m.arg % 4, true⟩]) ∧
  (∀ (l : LinkId) (p : Pair) (m : Msg) (q : Proposal) (s : State), proposalAt (s.link l) 0x40 (msgStage m) = some q → (s.link l).eei.abortCode = none → agreedAt (s.link l) q.stage = false →
    ∃ t : State, exec (.eeiAccept l p m) s = .next t ∧ (t.link l).eei.agreed = true ∧ (t.link l).eei.depth = q.arg % 4 ∧ (t.link l).eei.entry = q.stage) ∧
  (∀ (l : LinkId) (p : Pair) (m : Msg) (q : Proposal) (s : State), proposalAt (s.link l) 0x40 (msgStage m) = some q →
    ∃ t : State, exec (.eeiRefuse l p m) s = .next t ∧ ((t.link l).eei.hold = 0 ∧ (t.link l).eei.cap = (if m.arg % 256 = 2 then q.arg % 4 - 1 else (s.link l).eei.cap) ∧ (t.link l).proposals = (s.link l).proposals.filter (fun x => x != q))) ∧
  (∀ (l : LinkId) (p : Pair) (m : Msg) (s : State), (s.link l).phase = 7 → (s.link l).eei.agreed = true → (s.link l).eei.entry = msgStage m →
    ∃ t : State, exec (.eeiAbort l p m) s = .next t ∧ (t.link l).eei.agreed = false ∧ (t.link l).eei.hold = 0) ∧
  (∀ (l : LinkId) (p : Pair) (m : Msg) (s : State), (s.link l).phase = 7 → (s.link l).eei.agreed = true → (s.link l).eei.entry = msgStage m →
    ∃ t : State, exec (.eeiWakeMsg l p m) s = .next t ∧ (t.link l).eei.enterWake = true ∧ (t.link l).eei.peerWake = true) ∧
  (∀ (l : LinkId) (s : State), (s.link l).eei.agreed = false → (s.link l).eei.inDepth = false →
    ∃ t : State, exec (.eeiBudgetApply l) s = .next t ∧ (t.link l).eei.budget = min (s.fld (EEI_WAKE_BUDGET.BUDGET l.n)) 1000000 ∧ (t.link l).eei.maxDepth = s.fld (EEI_CFG.MAX_DEPTH l.n))

/-- EEI_ENTRY at the agreed stage: in the depth, the carrying pairs quiet. EEI_REFRESH, on every pair carrying towards this end: a pilot SNR below the
dead limit adds one to the run of that pair, another clears it, none leaves it. EEI_WAKE_CAUSE and CAL_DEFERRAL_WAKE in a depth: the wake with its
cause (4 for a calibration). EEI_PRESTEP_DONE of a wake: eight alert symbols go out on every carrying pair. WAKE_DETECT: detected and heard.
WAKE_CONFIRM_TIMEOUT: the detection is dropped and the depth goes on. EEI_RESUME where the wake is confirmed both ways: out of the depth.
PARTIAL_FAST_RETRAIN_START in depth 3 with both alerts: it runs from the present stage. PARTIAL_FAST_RETRAIN_FAIL: a fast retrain with cause 7. Each
clause concludes that the command completes, exec answering a next state: eeiEntry, eeiRefresh, eeiWakeCause, eeiPrestepDone, wakeDetect,
wakeConfirmTimeout, eeiResume, partialFastRetrainStart, partialFastRetrainFail, calDeferralWake. (R298, R147, R302, R303, R305, R304, R307, R306,
R309, R299, R313) -/
def Obligations.EeiDepthAndWake : Prop :=
  (∀ (l : LinkId) (s : State), (s.link l).phase = 7 → (s.link l).eei.agreed = true → reached (s.link l).own (s.link l).eei.entry = true → (s.link l).eei.enterWake = false →
    ∃ t : State, exec (.eeiEntry l) s = .next t ∧ ((t.link l).eei.agreed = false ∧ (t.link l).eei.inDepth = true ∧ ∀ p ∈ maskPairs ((s.link l).carry ||| (s.link l).carryRx), (t.pair l.n p).quiet = true)) ∧
  (∀ (l : LinkId) (meas : List StageMeas) (s : State), (s.link l).phase = 7 → refreshStage (s.link l) = true →
    ∃ t : State, exec (.eeiRefresh l meas) s = .next t ∧ (∀ p ∈ maskPairs (s.link l).carryRx, (t.pair l.n p).deadRun = match pilotSnr s l p with | none => (s.pair l.n p).deadRun | some v => if v < s.fld (PORT_RX_LIMITS.DEAD_SNR l.n) then (s.pair l.n p).deadRun + 1 else 0)) ∧
  (∀ (l : LinkId) (cause : Nat) (s : State), (s.link l).phase = 7 → (s.link l).eei.inDepth = true → (s.link l).eei.waking = none →
    ∃ t : State, exec (.eeiWakeCause l cause) s = .next t ∧ (t.link l).eei.waking = some cause ∧ (t.link l).eei.confirmed = true) ∧
  (∀ (l : LinkId) (s : State), (s.link l).eei.inDepth = true → (s.link l).eei.waking.isSome = true → (s.link l).eei.preDone = false → (s.link l).eei.alertSent = false →
    ∃ t : State, exec (.eeiPrestepDone l) s = .next t ∧ ((t.link l).eei.preDone = true ∧ (t.link l).eei.alertSent = true ∧ ∀ p ∈ maskPairs (s.link l).carry, ∃ ys, ys.length = 8 ∧ Out.alert l p ys ∈ t.out)) ∧
  (∀ (l : LinkId) (s : State), (s.link l).eei.inDepth = true → (s.link l).eei.waking = none →
    ∃ t : State, exec (.wakeDetect l) s = .next t ∧ (t.link l).eei.detected = true ∧ (t.link l).eei.alertHeard = true) ∧
  (∀ (l : LinkId) (s : State), (s.link l).eei.inDepth = true → (s.link l).eei.detected = true → (s.link l).eei.waking = none → (s.link l).eei.preDone = true →
    ∃ t : State, exec (.wakeConfirmTimeout l) s = .next t ∧ (t.link l).eei.detected = false ∧ (t.link l).eei.alertHeard = false ∧ (t.link l).eei.preDone = false ∧ (t.link l).eei.inDepth = true) ∧
  (∀ (l : LinkId) (quietUs : Nat) (wakeNs : Nat) (s : State), (s.link l).phase = 7 → mayResume (s.link l) = true →
    ∃ t : State, exec (.eeiResume l quietUs wakeNs) s = .next t ∧ (t.link l).eei.inDepth = false ∧ (t.link l).eei.waking = none ∧ (t.link l).eei.hold = 0) ∧
  (∀ (l : LinkId) (s : State), (s.link l).eei.inDepth = true → (s.link l).eei.depth = 3 → (s.link l).eei.alertSent = true → (s.link l).eei.alertHeard = true → (s.link l).eei.partialFr = false →
    ∃ t : State, exec (.partialFastRetrainStart l) s = .next t ∧ (t.link l).eei.partialFr = true ∧ (t.link l).eei.partialAt = (s.link l).own ∧ (t.link l).verify = 0) ∧
  (∀ (l : LinkId) (s : State), (s.link l).phase = 7 → (s.link l).eei.partialFr = true → fastAllowed s l = true →
    ∃ t : State, exec (.partialFastRetrainFail l) s = .next t ∧ (t.link l).phase = 8 ∧ (t.link l).frCause = 7) ∧
  (∀ (l : LinkId) (item : Nat) (s : State), (s.link l).phase = 7 → (s.link l).eei.inDepth = true → (s.link l).eei.waking = none →
    ∃ t : State, exec (.calDeferralWake l item) s = .next t ∧ (t.link l).eei.waking = some 4 ∧ (t.link l).eei.confirmed = true)

/-- SUBADC_TAKE_SLOT of a free spare: its slot is shown and PAIR_ADC_SWAPS counts one; no other register changes. SUBADC_FAIL notes the failed sub-ADC.
GAIN_LIMIT_RETRAIN after 16 stages, TIMING_ERROR_RETRAIN after 2 and ECHO_TAP_SATURATION with one tap 16 stages at its limit, with no such request
this stage: a retrain of cause 3, 2 or 1 is asked for and agreed. ECHO_DRIFT_CHECK within the retrain limit: both figures, of the coefficients held,
are shown, and a store is due above the store limit. ECHO_STORE_REFRESH: the stored coefficients are those of the present pair of identities.
FEXT_H_REESTIMATE shows its figures, each at most 255. Each clause concludes that the command completes, exec answering a next state: subadcTakeSlot,
subadcFail, gainLimitRetrain, timingErrorRetrain, echoTapSaturation, echoDriftCheck, echoStoreRefresh, fextHReestimate. (R119, R120, R118, R123, R132,
R131, R136, R148, R133, R135) -/
def Obligations.ReceiverLimitsAndDrift : Prop :=
  (∀ (n : Port) (p : Pair) (slot : Nat) (s : State), s.flag (PAIR_ADC_STATUS.COMMITTED n p) = false →
    ∃ t : State, exec (.subadcTakeSlot n p slot false) s = .next t ∧ (t.fld (PAIR_ADC_STATUS.SPARE_SLOT n p) = slot % 64 ∧ t.reg (PAIR_ADC_SWAPS n p) = s.reg (PAIR_ADC_SWAPS n p) + 1 ∧ ∀ a, a ≠ PAIR_ADC_STATUS n p → a ≠ PAIR_ADC_SWAPS n p → t.reg a = s.reg a)) ∧
  (∀ (n : Port) (p : Pair) (sub : Nat) (s : State), (s.pair n p).badSub = none →
    ∃ t : State, exec (.subadcFail n p sub) s = .next t ∧ (t.pair n p).badSub = some (sub % 64)) ∧
  (∀ (l : LinkId) (p : Nat) (s : State), MayAsk (s.link l) → (s.link l).asked = false → p ∈ maskPairs (s.link l).carryRx → 16 ≤ (s.pair l.n p).gainRun →
    ∃ t : State, exec (.gainLimitRetrain l) s = .next t ∧ RetrainAsked 3 l s t) ∧
  (∀ (l : LinkId) (p : Nat) (s : State), MayAsk (s.link l) → (s.link l).asked = false → p ∈ maskPairs (s.link l).carryRx → 2 ≤ (s.pair l.n p).timingRun →
    ∃ t : State, exec (.timingErrorRetrain l) s = .next t ∧ RetrainAsked 2 l s t) ∧
  (∀ (l : LinkId) (p i r : Nat) (s : State), MayAsk (s.link l) → (s.link l).asked = false → p ∈ maskPairs (s.link l).carryRx → (i, r) ∈ (s.pair l.n p).satTaps → 16 ≤ r →
    ∃ t : State, exec (.echoTapSaturation l) s = .next t ∧ RetrainAsked 1 l s t) ∧
  (∀ (n : Port) (sub : Option Pair) (p : Pair) (e2 : List Int) (s : State), (s.link ⟨n, sub⟩).phase = 7 → driftOf (driftSums s n p 8 (s.link ⟨n, sub⟩).splitband) ≤ signed 16 (s.fld (PORT_ECHO_DRIFT_CFG.RETRAIN n)) →
    ∃ t : State, exec (.echoDriftCheck n sub p e2) s = .next t ∧ t.fld (PAIR_ECHO_DRIFT.STORED n p) = unsigned 16 (driftOf (driftSums s n p 7 (s.link ⟨n, sub⟩).splitband)) ∧ t.fld (PAIR_ECHO_DRIFT.TRAINED n p) = unsigned 16 (driftOf (driftSums s n p 8 (s.link ⟨n, sub⟩).splitband)) ∧ (t.pair n p).storeDue = ((s.pair n p).storeDue || decide (signed 16 (s.fld (PORT_ECHO_DRIFT_CFG.STORE n)) < driftOf (driftSums s n p 7 (s.link ⟨n, sub⟩).splitband)))) ∧
  (∀ (n : Port) (p : Pair) (s : State), (s.pair n p).storeDue = true →
    ∃ t : State, exec (.echoStoreRefresh n p) s = .next t ∧ (t.pair n p).storeDue = false ∧ (t.pair n p).storedIds = some ((s.link (linkOfPair s n p)).ownId, (s.link (linkOfPair s n p)).peerId)) ∧
  (∀ (l : LinkId) (fext : Nat) (nextOwn : Nat) (nextPartner : Nat) (s : State), (s.link l).phase = 7 →
    ∃ t : State, exec (.fextHReestimate l fext nextOwn nextPartner) s = .next t ∧ t.fld (PORT_XT_STATUS.FEXT l.n) = min fext 255 ∧ t.fld (PORT_XT_STATUS.NEXT_OWN l.n) = min nextOwn 255)

/-- DEAD_PAIR_DECLARE of a carrying pair that may fall back: a fault of that pair with code 1 is agreed for this end's next waymark symbol plus 4 and
told. A snapshot request: MEM and INDEX taken, busy, not valid; its end: valid, not busy. A selection takes MEM, INDEX and AUTO_INC. A data write
outside showtime to a memory and index that exist is stored there; where writes are locked it is ignored with WRITE_IGNORED set and no coefficient
changes. Each clause concludes that the command completes, exec answering a next state: deadPairDeclare, coefSnapshotRequest, coefSnapshotDone,
coefMemSelect, coefDataWrite. (R147, R149, R191) -/
def Obligations.DeadPairsAndCoefficients : Prop :=
  (∀ (l : LinkId) (p : Pair) (s : State), canFallBack s l p = true → pendingFault (s.link l) = 0 → bit ((s.link l).carry ||| (s.link l).carryRx) p.val = true → s.flag (PAIR_QUALITY.DEAD l.n p) = false → deadStages s l.n ≤ (s.pair l.n p).deadRun →
    ∃ t : State, exec (.deadPairDeclare l p) s = .next t ∧ (⟨stagePlus (nextWaymark (s.link l)) 4, .fault (2 ^ p.val) 1, false, false⟩ : Change) ∈ (t.link l).changes ∧ (⟨0x50, some (stagePlus (nextWaymark (s.link l)) 4), 2 ^ p.val + 256, true⟩ : WMsg) ∈ (t.link l).waiting) ∧
  (∀ (n : Port) (p : Pair) (v : Word) (s : State), bit v.toNat 31 = true →
    ∃ t : State, exec (.coefSnapshotRequest n p v) s = .next t ∧ t.fld (PAIR_COEF_ADDR.MEM n p) = bits v.toNat 19 16 ∧ t.fld (PAIR_COEF_ADDR.INDEX n p) = bits v.toNat 12 0 ∧ t.flag (PAIR_COEF_STATUS.SNAP_VALID n p) = false ∧ t.flag (PAIR_COEF_STATUS.SNAP_BUSY n p) = true) ∧
  (∀ (n : Port) (p : Pair) (s : State), s.flag (PAIR_COEF_STATUS.SNAP_BUSY n p) = true →
    ∃ t : State, exec (.coefSnapshotDone n p) s = .next t ∧ t.flag (PAIR_COEF_STATUS.SNAP_BUSY n p) = false ∧ t.flag (PAIR_COEF_STATUS.SNAP_VALID n p) = true) ∧
  (∀ (n : Port) (p : Pair) (v : Word) (s : State),
    ∃ t : State, exec (.coefMemSelect n p v) s = .next t ∧ t.fld (PAIR_COEF_ADDR.MEM n p) = bits v.toNat 19 16 ∧ t.fld (PAIR_COEF_ADDR.INDEX n p) = bits v.toNat 12 0 ∧ t.fld (PAIR_COEF_ADDR.AUTO_INC n p) = bits v.toNat 24 24 ∧ t.flag (PAIR_COEF_STATUS.SNAP_VALID n p) = false) ∧
  (∀ (n : Port) (p : Pair) (v : Word) (s : State), mayWriteCoef s n = true → 2 ≤ s.fld (PAIR_COEF_ADDR.MEM n p) → s.fld (PAIR_COEF_ADDR.MEM n p) ≤ 8 → s.fld (PAIR_COEF_ADDR.INDEX n p) < memEntries (s.fld (PAIR_COEF_ADDR.MEM n p)) →
    ∃ t : State, exec (.coefDataWrite n p v) s = .next t ∧ t.coefAt (gpair n p) (s.fld (PAIR_COEF_ADDR.MEM n p)) (s.fld (PAIR_COEF_ADDR.INDEX n p)) = some v) ∧
  (∀ (n : Port) (p : Pair) (v : Word) (s : State), mayWriteCoef s n = false →
    ∃ t : State, exec (.coefDataWrite n p v) s = .next t ∧ t.flag (PAIR_COEF_STATUS.WRITE_IGNORED n p) = true ∧ t.coef = s.coef)

/-- WAYMARK_SYMBOL_TX once a stage: each pair that sends, the change of pattern announced first, sends its symbol with a message. WAYMARK_SYMBOL_RX in
showtime with nothing received: the far stage goes on by one. WAYMARK_SYNC_LOSS of every receiving pair: down with cause 1. WM_MESSAGE_ABANDON after
the retry limit: the message leaves the queue. WM_STATUS only takes the message from the inbox. STAGE_CHECK at the lower end adopts the stage.
WM_UNKNOWN_CODE counts one in PAIR_WM_UNKNOWN and changes no other register. Each clause concludes that the command completes, exec answering a next
state: waymarkSymbolTx, waymarkSymbolRx, waymarkSyncLoss, wmMessageAbandon, wmStatus, stageCheck, wmUnknownCode. (R53, R114, R180, R202, R102, R105,
R99, R140, R200, R145, R201) -/
def Obligations.WaymarkChannelSendsAndReceives : Prop :=
  (∀ (l : LinkId) (s : State), (s.link l).wmSent = false →
    ∃ t : State, exec (.waymarkSymbolTx l) s = .next t ∧ ((t.link l).wmSent = true ∧ ∀ p ∈ sendPairs (announcePattern l s) l, ∃ m y, Out.waymark l p m y ∈ t.out)) ∧
  (∀ (l : LinkId) (s : State), (s.link l).phase = 7 →
    ∃ t : State, exec (.waymarkSymbolRx l []) s = .next t ∧ (t.link l).far = stagePlus (s.link l).far 1 ∧ (t.link l).rxSeen = true) ∧
  (∀ (l : LinkId) (s : State), (s.link l).phase = 7 → (∀ p ∈ maskPairs (s.link l).carryRx, 2 ≤ (s.pair l.n p).missRun) →
    ∃ t : State, exec (.waymarkSyncLoss l) s = .next t ∧ (t.link l).phase = 10 ∧ (t.link l).lastDown = 1) ∧
  (∀ (l : LinkId) (p : Pair) (o : OutMsg) (rest : List OutMsg) (s : State), (s.pair l.n p).outs = o :: rest → max 8 (s.fld (PORT_LINK_CFG.WM_RETRY l.n)) ≤ o.first →
    ∃ t : State, exec (.wmMessageAbandon l p) s = .next t ∧ (t.pair l.n p).outs = rest) ∧
  (∀ (l : LinkId) (p : Pair) (m : Msg) (s : State),
    ∃ t : State, exec (.wmStatus l p m) s = .next t ∧ ((t.link l).inbox = (s.link l).inbox.filter (fun x => x != (p.val, m)) ∧ t.regs = s.regs ∧ t.pairs = s.pairs)) ∧
  (∀ (l : LinkId) (p : Pair) (m : Msg) (s : State), isHigher (s.link l) = false →
    ∃ t : State, exec (.stageCheck l p m) s = .next t ∧ (t.link l).far = msgStage m ∧ (t.link l).checkAcked = true) ∧
  (∀ (n : Port) (p : Pair) (m : Msg) (s : State), knownCode m.code = false →
    ∃ t : State, exec (.wmUnknownCode n p m) s = .next t ∧ (t.reg (PAIR_WM_UNKNOWN n p) = s.reg (PAIR_WM_UNKNOWN n p) + 1 ∧ ∀ a, a ≠ PAIR_WM_UNKNOWN n p → t.reg a = s.reg a))

/-- COACH_TX of a carrying link with a coach to send: a coach goes out and SEQ goes on by one modulo 64. COACH_RX: where the coach-stream bits received
spell a coach, with a good CRC-32C, no failed codeword and a known type, SEQ is taken; else the SEQ expected next stands in (log entry 47) and the
stage counts one bad coach; with fewer bits than a coach the symbols are received and no more. A host write of PAIR_TBL_DATA is ignored with its flag.
TABLE_SHADOW_COPY_DONE of receive: the shadow bank holds the active bank. SWAP_ENTRY: held while a copy runs, else stored in the transmit shadow.
SWAP_COMMIT with nothing to decline: agreed for its stage and 0x12 answers. SWAP_ACCEPT of an open SWAP_COMMIT, in time and at a stage with no agreed
change: the receive swap is due at its stage. SWAP_DECLINE of an open SWAP_COMMIT: idle, the receive shadow reloads, HOLDOFF starts again.
TABLE_SWAP_APPLY: the change leaves the list and a copy begins. SWAP_EVALUATION of one carrying pair, with enough weak subcarriers, a swap allowed and
a new table: WEAK shows the count and the entries start. SWAP_COMMIT_SEND: the bank's CRC and the number of entries go out, and the count starts
again. Each clause concludes that the command completes, exec answering a next state: coachTx, coachRx, pairTblDataWrite, tableShadowCopyDone,
swapEntry, swapCommit, swapAccept, swapDecline, tableSwapApply, swapEvaluation, swapCommitSend. (R92, R113, R73, R205, R206, R71, R203, R98, R209,
R207, R204) -/
def Obligations.CoachesAndTables : Prop :=
  (∀ (l : LinkId) (s : State), (s.link l).phase = 7 → (s.link l).eei.inDepth = false → lineBusy (pumpLine l s) l = false → carryList (pumpLine l s) l ≠ [] → beyondEntry (pumpLine l s) l = false →
    ∃ t : State, exec (.coachTx l) s = .next t ∧ ((t.link l).coachTx = ((s.link l).coachTx + 1) % 64 ∧ ∃ c, Out.coach l c ∈ t.out)) ∧
  (∀ (n : Port) (sub : Option Pair) (a : List RxWindow) (b : List RxWindow) (c : List RxWindow) (d : List RxWindow) (t : Rat) (s : State), (s.link ⟨n, sub⟩).phase = 7 → 10320 ≤ (bitsIn ⟨n, sub⟩ (bySymbol [a, b, c, d]) s).length → coachFailed ⟨n, sub⟩ (bySymbol [a, b, c, d]) s = false → (coachIn ⟨n, sub⟩ (bySymbol [a, b, c, d]) s).crc = coachCrc (coachIn ⟨n, sub⟩ (bySymbol [a, b, c, d]) s).hdr (coachIn ⟨n, sub⟩ (bySymbol [a, b, c, d]) s).blocks → (coachIn ⟨n, sub⟩ (bySymbol [a, b, c, d]) s).hdr / 64 % 4 ≠ 3 →
    ∃ u : State, exec (.coachRx n sub a b c d t) s = .next u ∧ (u.link ⟨n, sub⟩).coachRx = some ((coachIn ⟨n, sub⟩ (bySymbol [a, b, c, d]) s).hdr % 64) ∧ (u.link ⟨n, sub⟩).stageBad = (s.link ⟨n, sub⟩).stageBad) ∧
  (∀ (n : Port) (sub : Option Pair) (a : List RxWindow) (b : List RxWindow) (c : List RxWindow) (d : List RxWindow) (t : Rat) (s : State), (s.link ⟨n, sub⟩).phase = 7 → 10320 ≤ (bitsIn ⟨n, sub⟩ (bySymbol [a, b, c, d]) s).length → (coachFailed ⟨n, sub⟩ (bySymbol [a, b, c, d]) s = true ∨ (coachIn ⟨n, sub⟩ (bySymbol [a, b, c, d]) s).crc ≠ coachCrc (coachIn ⟨n, sub⟩ (bySymbol [a, b, c, d]) s).hdr (coachIn ⟨n, sub⟩ (bySymbol [a, b, c, d]) s).blocks ∨ (coachIn ⟨n, sub⟩ (bySymbol [a, b, c, d]) s).hdr / 64 % 4 = 3) →
    ∃ u : State, exec (.coachRx n sub a b c d t) s = .next u ∧ ((u.link ⟨n, sub⟩).coachRx = (s.link ⟨n, sub⟩).coachRx.map (fun e => (e + 1) % 64) ∧ (u.link ⟨n, sub⟩).stageBad = (s.link ⟨n, sub⟩).stageBad + 1)) ∧
  (∀ (n : Port) (sub : Option Pair) (a : List RxWindow) (b : List RxWindow) (c : List RxWindow) (d : List RxWindow) (t : Rat) (s : State), (s.link ⟨n, sub⟩).phase = 7 → (bitsIn ⟨n, sub⟩ (bySymbol [a, b, c, d]) s).length < 10320 →
    ∃ u : State, exec (.coachRx n sub a b c d t) s = .next u ∧ u = afterSymbols ⟨n, sub⟩ (bySymbol [a, b, c, d]) s) ∧
  (∀ (n : Port) (p : Pair) (v : Word) (s : State),
    ∃ t : State, exec (.pairTblDataWrite n p v) s = .next t ∧ t.flag (PAIR_TBL_STATUS.HOST_WRITE_IGNORED n p) = true ∧ t.tbl = s.tbl) ∧
  (∀ (n : Port) (p : Pair) (s : State), (s.pair n p).copyRx = true →
    ∃ t : State, exec (.tableShadowCopyDone n p .rx) s = .next t ∧ ((t.pair n p).copyRx = false ∧ ∀ k < 512, t.entry n p .rx (shadowBank s n p .rx) k = s.entry n p .rx (activeBank s n p .rx) k)) ∧
  (∀ (l : LinkId) (p : Pair) (m : Msg) (s : State), s.flag (PAIR_TBL_STATUS.COPY_BUSY l.n p) = true →
    ∃ t : State, exec (.swapEntry l p m) s = .next t ∧ (t.pair l.n p).rxEntries = (s.pair l.n p).rxEntries + 1 ∧ (t.pair l.n p).heldEntries = (s.pair l.n p).heldEntries ++ [m.arg]) ∧
  (∀ (l : LinkId) (p : Pair) (m : Msg) (s : State), s.flag (PAIR_TBL_STATUS.COPY_BUSY l.n p) = false → isExcluded (bits m.arg 31 23) = false →
    ∃ t : State, exec (.swapEntry l p m) s = .next t ∧ (t.pair l.n p).rxEntries = (s.pair l.n p).rxEntries + 1 ∧ t.entry l.n p .tx (shadowBank s l.n p .tx) (bits m.arg 31 23) = entryOf (bits m.arg 22 19) (bits m.arg 18 14)) ∧
  (∀ (l : LinkId) (p : Pair) (m : Msg) (s : State), (s.link l).phase = 7 → swapDeclineReason (consume l p m s) l p m = none →
    ∃ t : State, exec (.swapCommit l p m) s = .next t ∧ (⟨msgStage m, .swap p .tx, false, true⟩ : Change) ∈ (t.link l).changes ∧ (t.pair l.n p).rxEntries = 0 ∧ (⟨0x12, some (msgStage m), 0, false⟩ : WMsg) ∈ (t.pair l.n p).waiting) ∧
  (∀ (l : LinkId) (p : Pair) (m : Msg) (s : State), commitAt (s.link l) p (msgStage m) = true → reached (s.link l).farPrev (msgStage m) = false → agreedAt (s.link l) (msgStage m) = false →
    ∃ t : State, exec (.swapAccept l p m) s = .next t ∧ (⟨msgStage m, .swap p .rx, true, false⟩ : Change) ∈ (t.link l).changes ∧ commitAt (t.link l) p (msgStage m) = false) ∧
  (∀ (l : LinkId) (p : Pair) (m : Msg) (s : State), commitAt (s.link l) p (msgStage m) = true →
    ∃ t : State, exec (.swapDecline l p m) s = .next t ∧ (t.pair l.n p).swap = .idle ∧ (t.pair l.n p).reloadRx = true ∧ (t.pair l.n p).sinceSwap = 0) ∧
  (∀ (l : LinkId) (p : Pair) (d : Dir) (c : Change) (s : State), swapDue (s.link l) p d = some c →
    ∃ t : State, exec (.tableSwapApply l p d) s = .next t ∧ ((t.link l).changes = (s.link l).changes.filter (fun x => x != c) ∧ (d = .tx → (t.pair l.n p).copyTx = true) ∧ (d = .rx → (t.pair l.n p).copyRx = true ∧ (t.pair l.n p).swap = .idle))) ∧
  (∀ (l : LinkId) (p : Nat) (tb : List Nat) (s : State), (s.link l).phase = 7 → (s.link l).eei.inDepth = false → maskPairs (s.link l).carryRx = [p] → s.flag (PAIR_QUALITY.STALE l.n p) = false → mayStartSwap s l p = true → max 1 (s.fld (PORT_SWAP_CFG.WEAK_MIN l.n)) ≤ weakCount (plainRx (s.link l)) (isReach (s.link l)) (s.active l.n p .rx) (snrList s l.n p) (targetMargin s l.n) (min (s.fld (PORT_SWAP_CFG.SWAP_DOWN l.n)) 60) → swapTable (plainRx (s.link l)) (isReach (s.link l)) (s.active l.n p .rx) (snrList s l.n p) (targetMargin s l.n) (min (s.fld (PORT_SWAP_CFG.SWAP_DOWN l.n)) 60) (dirShare s l .rx) = some tb →
    ∃ t : State, exec (.swapEvaluation l) s = .next t ∧ (t.pair l.n p).swap = .entries ∧ (t.pair l.n p).nextEntry = 4 ∧ t.fld (PAIR_SWAP_STATUS.WEAK l.n p) = weakCount (plainRx (s.link l)) (isReach (s.link l)) (s.active l.n p .rx) (snrList s l.n p) (targetMargin s l.n) (min (s.fld (PORT_SWAP_CFG.SWAP_DOWN l.n)) 60) % 2 ^ 9) ∧
  (∀ (n : Port) (p : Pair) (s : State), (s.link ⟨n, some p⟩).phase = 7 → (s.link ⟨n, some p⟩).eei.inDepth = false →
    ∃ t : State, exec (.swapEvaluation ⟨n, some p⟩) s = .next t ∧ (t.link ⟨n, some p⟩).upRun = 0) ∧
  (∀ (l : LinkId) (p : Pair) (s : State), (s.link l).phase = 7 → entriesDone s l p = true → (s.link l).rateWait = none →
    ∃ t : State, exec (.swapCommitSend l p) s = .next t ∧ (t.pair l.n p).swap = .commit ∧ (t.pair l.n p).txEntries = 0 ∧ (t.pair l.n p).waiting = (s.pair l.n p).waiting ++ [⟨0x11, none, bankCrc (s.shadow l.n p .rx) * 65536 + (s.pair l.n p).txEntries % 65536, false⟩])

/-- A write of PORT_MODE that sets only bit 3 outside showtime takes effect at once; one of bit 0 waits for its boundary. TIMETABLE_MODE_APPLY between
frames, BUNDLE_MODE_APPLY, and TEST_MODE_DRAIN_POINT with every link awake and the committed frames gone: a waiting value that the register still has
takes effect. PATTERN_INJ_SINGLE and PATTERN_INJ_BURST with PATTERN in effect: every pair that sends PRBS has at least one, or the burst length, bits
to invert; no register changes. Each clause concludes that the command completes, exec answering a next state: portModeWrite, timetableModeApply,
bundleModeApply, testModeDrainPoint, patternInjSingle, patternInjBurst. (R42, R45, R50, R250, R135, R53) -/
def Obligations.ModeWritesAndLocalModes : Prop :=
  (∀ (n : Port) (v : Word) (s : State), v.toNat / 2 ^ 16 % 4096 = 8 → portShow s n = false → bit (s.port n).localWait 3 = false →
    ∃ t : State, exec (.portModeWrite n v) s = .next t ∧ bit (t.port n).localOn 3 = bit v.toNat 3) ∧
  (∀ (n : Port) (v : Word) (s : State), v.toNat / 2 ^ 16 % 4096 = 1 → bit (s.port n).localOn 0 = !bit v.toNat 0 → bit (s.port n).localWait 0 = false →
    ∃ t : State, exec (.portModeWrite n v) s = .next t ∧ (bit (t.port n).localWait 0 = true ∧ bit (t.port n).localVal 0 = bit v.toNat 0)) ∧
  (∀ (n : Port) (s : State), (s.host n).isOpen = false → bit (s.port n).localWait 0 = true → bit (modeSet s n) 0 = bit (s.port n).localVal 0 →
    ∃ t : State, exec (.timetableModeApply n) s = .next t ∧ bit (t.port n).localOn 0 = bit (s.port n).localVal 0) ∧
  (∀ (n : Port) (s : State), bit (s.port n).localWait 3 = true → bit (modeSet s n) 3 = bit (s.port n).localVal 3 →
    ∃ t : State, exec (.bundleModeApply n) s = .next t ∧ bit (t.port n).localOn 3 = bit (s.port n).localVal 3) ∧
  (∀ (n : Port) (b : Nat) (s : State), isTestMode b = true → allAwake s n = true → drained s n = true → bit (s.port n).localWait b = true → bit (modeSet s n) b = bit (s.port n).localVal b →
    ∃ t : State, exec (.testModeDrainPoint n b) s = .next t ∧ bit (t.port n).localOn b = bit (s.port n).localVal b) ∧
  (∀ (n : Port) (p : Nat) (s : State), inEffect s n mPATTERN = true → p ∈ maskPairs (sentPattern s n) →
    ∃ t : State, exec (.patternInjSingle n) s = .next t ∧ 1 ≤ (t.pair n p).injBits ∧ t.regs = s.regs) ∧
  (∀ (n : Port) (p : Nat) (s : State), inEffect s n mPATTERN = true → p ∈ maskPairs (sentPattern s n) →
    ∃ t : State, exec (.patternInjBurst n) s = .next t ∧ (max 1 (s.fld (PORT_PATTERN_CFG.BURST_LEN n))) ≤ (t.pair n p).injBits ∧ t.regs = s.regs)

/-- MODE_PROPOSE with no proposal of this end open: a reason answers 0x32 with that reason and agrees nothing; none answers 0x31 and agrees the change for
its stage. MODE_ACCEPT at a stage with no agreed change: the change of the proposal is agreed and the proposal ends. MODE_DECLINE of a mode not
rewritten since: the mode is marked declined and the proposal ends. MODE_CHANGE_APPLY of mode 7 or 8 at its stage: the mode is negotiated on or off as
agreed. Each clause concludes that the command completes, exec answering a next state: modePropose, modeAccept, modeDecline, modeChangeApply. (R46,
R198, R47, R58, R45) -/
def Obligations.ModeAgreement : Prop :=
  (∀ (l : LinkId) (p : Pair) (m : Msg) (r : Nat) (s : State), (s.link l).phase = 7 → (s.link l).proposals.find? (fun q => q.code == 0x30) = none → modeDeclineReason (consume l p m s) l (m.arg % 16) (bit m.arg 4) (msgStage m) = some r →
    ∃ t : State, exec (.modePropose l p m) s = .next t ∧ (⟨0x32, some (msgStage m), r, true⟩ : WMsg) ∈ (t.link l).waiting ∧ (t.link l).changes = (s.link l).changes) ∧
  (∀ (l : LinkId) (p : Pair) (m : Msg) (s : State), (s.link l).phase = 7 → (s.link l).proposals.find? (fun q => q.code == 0x30) = none → modeDeclineReason (consume l p m s) l (m.arg % 16) (bit m.arg 4) (msgStage m) = none →
    ∃ t : State, exec (.modePropose l p m) s = .next t ∧ (⟨0x31, some (msgStage m), m.arg % 32, true⟩ : WMsg) ∈ (t.link l).waiting ∧ (⟨msgStage m, .mode (m.arg % 16) (bit m.arg 4), false, false⟩ : Change) ∈ (t.link l).changes) ∧
  (∀ (l : LinkId) (p : Pair) (m : Msg) (q : Proposal) (s : State), proposalAt (s.link l) 0x30 (msgStage m) = some q → agreedAt (s.link l) q.stage = false →
    ∃ t : State, exec (.modeAccept l p m) s = .next t ∧ (⟨q.stage, .mode (q.arg % 16) (bit q.arg 4), false, false⟩ : Change) ∈ (t.link l).changes ∧ q ∉ (t.link l).proposals) ∧
  (∀ (l : LinkId) (p : Pair) (m : Msg) (q : Proposal) (s : State), proposalAt (s.link l) 0x30 (msgStage m) = some q → bit (s.port l.n).rewritten (q.arg % 16) = false → q.arg % 16 < 7 →
    ∃ t : State, exec (.modeDecline l p m) s = .next t ∧ bit (t.link l).declined (q.arg % 16) = true ∧ q ∉ (t.link l).proposals) ∧
  (∀ (l : LinkId) (c : Change) (b : Nat) (on : Bool) (s : State), (s.link l).phase = 7 → modeChangeDue (s.link l) = some (c, b, on) → (b = 7 ∨ b = 8) → c.txDone = false → reached (s.link l).own c.stage = true → bit (s.port l.n).rewritten b = false →
    ∃ t : State, exec (.modeChangeApply l) s = .next t ∧ bit (t.link l).negotiated b = on)

/-- RATE_TRIGGER due and free: where the best tier is the present one, or on a sub-link, the request and its runs are cleared; another tier is waited for;
where no tier loads, a retrain of cause 7 (MARGIN) is asked for and agreed. RATE_PROPOSE_SEND once its entries are sent and no swap is agreed: message
0x20 with the tier. RATE_PROPOSE: 0x22 with the reason and no change, or 0x21 and a transmit change at its stage. RATE_ACCEPT at a stage with no
agreed change: a receive change at the proposal's stage. RATE_DECLINE: nothing waits and a hold of at least 4 begins. RATE_CHANGE_APPLY at its stage:
the stream code of that direction is the new one and the loss run is 0. Each clause concludes that the command completes, exec answering a next state:
rateTrigger, rateProposeSend, ratePropose, rateAccept, rateDecline, rateChangeApply. (R211, R58, R106, R213, R212, R73) -/
def Obligations.RateChanges : Prop :=
  (∀ (l : LinkId) (x : Nat) (ts : List (Nat × List Nat)) (s : State), (s.link l).phase = 7 → (s.link l).eei.inDepth = false → rateBusy (s.link l) = false → (s.link l).rateHold = 0 → rateDue s l = true → (linkPairs l).any (fun p => swapBusy s l p) = false → faultBusy (s.link l) = false → bestTier s l = some (x, ts) → (x = (s.link l).streamRx ∨ l.sub.isSome = true) →
    ∃ t : State, exec (.rateTrigger l) s = .next t ∧ (t.link l).rateAsk = false ∧ (t.link l).rateTrig = false ∧ (t.link l).downRun = 0 ∧ (t.link l).upRun = 0) ∧
  (∀ (l : LinkId) (x : Nat) (ts : List (Nat × List Nat)) (s : State), (s.link l).phase = 7 → (s.link l).eei.inDepth = false → rateBusy (s.link l) = false → (s.link l).rateHold = 0 → rateDue s l = true → (linkPairs l).any (fun p => swapBusy s l p) = false → faultBusy (s.link l) = false → bestTier s l = some (x, ts) → x ≠ (s.link l).streamRx → l.sub = none → retrainAgreed (s.link l) = none →
    ∃ t : State, exec (.rateTrigger l) s = .next t ∧ (t.link l).rateWait = some x) ∧
  (∀ (l : LinkId) (s : State), (s.link l).eei.inDepth = false → rateBusy (s.link l) = false → (s.link l).rateHold = 0 → rateDue s l = true → (linkPairs l).any (fun p => swapBusy s l p) = false → faultBusy (s.link l) = false → bestTier s l = none → MayAsk (s.link l) →
    ∃ t : State, exec (.rateTrigger l) s = .next t ∧ RetrainAsked 7 l s t) ∧
  (∀ (l : LinkId) (w : Nat) (s : State), (s.link l).phase = 7 → allEntriesDone s l = true → (s.link l).rateWait = some w → w ≤ 3 → swapAgreed (s.link l) = false →
    ∃ t : State, exec (.rateProposeSend l) s = .next t ∧ (⟨0x20, none, w, true⟩ : WMsg) ∈ (t.link l).waiting ∧ (t.link l).rateWait = some w) ∧
  (∀ (l : LinkId) (p : Pair) (m : Msg) (r : Nat) (s : State), (s.link l).phase = 7 → rateDeclineReason (consume l p m s) l (m.arg % 4) (msgStage m) = some r →
    ∃ t : State, exec (.ratePropose l p m) s = .next t ∧ (⟨0x22, some (msgStage m), r, true⟩ : WMsg) ∈ (t.link l).waiting ∧ (t.link l).changes = (s.link l).changes) ∧
  (∀ (l : LinkId) (p : Pair) (m : Msg) (s : State), (s.link l).phase = 7 → rateDeclineReason (consume l p m s) l (m.arg % 4) (msgStage m) = none →
    ∃ t : State, exec (.ratePropose l p m) s = .next t ∧ (⟨0x21, some (msgStage m), 0, true⟩ : WMsg) ∈ (t.link l).waiting ∧ (⟨msgStage m, .rate (m.arg % 4) .tx, false, true⟩ : Change) ∈ (t.link l).changes) ∧
  (∀ (l : LinkId) (p : Pair) (m : Msg) (q : Proposal) (s : State), proposalAt (s.link l) 0x20 (msgStage m) = some q → agreedAt (s.link l) q.stage = false →
    ∃ t : State, exec (.rateAccept l p m) s = .next t ∧ (⟨q.stage, .rate (q.arg % 4) .rx, true, false⟩ : Change) ∈ (t.link l).changes ∧ q ∉ (t.link l).proposals) ∧
  (∀ (l : LinkId) (p : Pair) (m : Msg) (q : Proposal) (s : State), proposalAt (s.link l) 0x20 (msgStage m) = some q →
    ∃ t : State, exec (.rateDecline l p m) s = .next t ∧ (t.link l).rateWait = none ∧ 4 ≤ (t.link l).rateHold ∧ q ∉ (t.link l).proposals) ∧
  (∀ (l : LinkId) (d : Dir) (c : Change) (x : Nat) (s : State), rateDueAt (s.link l) d = some (c, x) →
    ∃ t : State, exec (.rateChangeApply l d) s = .next t ∧ streamOf (t.link l) d = x ∧ c ∉ (t.link l).changes ∧ (t.link l).lossRun = 0)

/-- STAGE_BOUNDARY in showtime: the higher end counts its own stage on by one, the lower end follows the stage it hears. COACH_LOSS_RETRAIN at the limit:
cause 4, or 10 after a fallback. FAULT_NOTICE of two pairs or more: down, with cause 3 for fault code 3, else 2. RETRAIN_REQUEST: agreed for its
stage, or the next one if that has passed. TRIPAIR_FALLBACK_APPLY: the pair is dead and no longer carries. TRIPAIR_RESTORE_REQUEST of a fallen pair,
with RESTORE set, after its run of good stages: cause 0xB. LINK_DOWN: hold-off with the cause. FRONTEND_FAULT of a carrying pair that may fall back: a
fault of code 4 is agreed and told. Each clause concludes that the command completes, exec answering a next state: stageBoundary, coachLossRetrain,
faultNotice, retrainRequest, tripairFallbackApply, tripairRestoreRequest, linkDown, frontendFault. (R69, R208, R215, R189, R58, R219, R224, R142,
R218, R191) -/
def Obligations.ShowtimeStagesAndFallback : Prop :=
  (∀ (l : LinkId) (meas : List StageMeas) (s : State), (s.link l).phase = 7 → (s.link l).eei.partialFr = false → isHigher (s.link l) = true →
    ∃ t : State, exec (.stageBoundary l meas) s = .next t ∧ (t.link l).own = stagePlus (s.link l).own 1 ∧ (t.link l).stageBad = 0) ∧
  (∀ (l : LinkId) (meas : List StageMeas) (s : State), (s.link l).phase = 7 → (s.link l).eei.partialFr = false → (s.link l).eei.inDepth = false → isHigher (s.link l) = false →
    ∃ t : State, exec (.stageBoundary l meas) s = .next t ∧ (t.link l).own = stagePlus (s.link l).far 1 ∧ (t.link l).stageBad = 0) ∧
  (∀ (l : LinkId) (s : State), MayAsk (s.link l) → lossLimit s l ≤ (s.link l).lossRun → (s.link l).lossAfterFallback = false →
    ∃ t : State, exec (.coachLossRetrain l) s = .next t ∧ RetrainAsked 4 l s t) ∧
  (∀ (l : LinkId) (s : State), MayAsk (s.link l) → lossLimit s l ≤ (s.link l).lossRun → (s.link l).lossAfterFallback = true →
    ∃ t : State, exec (.coachLossRetrain l) s = .next t ∧ RetrainAsked 10 l s t) ∧
  (∀ (l : LinkId) (p : Pair) (m : Msg) (s : State), (s.link l).phase = 7 → pendingFault (s.link l) = 0 → 2 ≤ (maskPairs (m.arg % 16)).length →
    ∃ t : State, exec (.faultNotice l p m) s = .next t ∧ ((t.link l).phase = 10 ∧ (t.link l).lastDown = if faultCode (bits m.arg 15 8) = 3 then 3 else 2)) ∧
  (∀ (l : LinkId) (p : Pair) (m : Msg) (s : State), isUp s l = true → retrainAgreed (s.link l) = none →
    ∃ t : State, exec (.retrainRequest l p m) s = .next t ∧ ((⟨if reached (s.link l).own (msgStage m) then stagePlus (s.link l).own 1 else msgStage m, .retrain (m.arg % 256) (isFullCause (m.arg % 256)), false, false⟩ : Change) ∈ (t.link l).changes ∧ (t.link l).lastRetrain = m.arg % 256)) ∧
  (∀ (l : LinkId) (d : Dir) (c : Change) (m code p : Nat) (s : State), faultDue (s.link l) d = some (c, m, code) → maskPairs m = [p] →
    ∃ t : State, exec (.tripairFallbackApply l d) s = .next t ∧ bit (t.link l).deadMask p = true ∧ carryOf (t.link l) d = pairsMask ((maskPairs (carryOf (s.link l) d)).filter (· != p)) ∧ (t.link l).lossRun = 0) ∧
  (∀ (l : LinkId) (p : Pair) (s : State), MayAsk (s.link l) → s.flag (PORT_TRIPAIR_CFG.RESTORE l.n) = true → isFallen (s.link l) p = true → max 256 (s.fld (PORT_TRIPAIR_CFG.RESTORE_STAGES l.n)) ≤ (s.pair l.n p).restoreRun →
    ∃ t : State, exec (.tripairRestoreRequest l p) s = .next t ∧ RetrainAsked 0xB l s t) ∧
  (∀ (l : LinkId) (cause : Nat) (s : State), isUp s l = true → cause ≠ 7 ∧ cause ≠ 8 ∧ cause ≠ 9 ∧ cause ≠ 0xA →
    ∃ t : State, exec (.linkDown l cause) s = .next t ∧ (t.link l).phase = 10 ∧ (t.link l).lastDown = cause) ∧
  (∀ (n : Port) (p : Pair) (s : State), canFallBack s (linkOfPair s n p) p = true → pendingFault (s.link (linkOfPair s n p)) = 0 → bit ((s.link (linkOfPair s n p)).carry ||| (s.link (linkOfPair s n p)).carryRx) p.val = true →
    ∃ t : State, exec (.frontendFault n p) s = .next t ∧ (⟨stagePlus (nextWaymark (s.link (linkOfPair s n p))) 4, .fault (2 ^ p.val) 4, false, false⟩ : Change) ∈ (t.link (linkOfPair s n p)).changes ∧ (⟨0x50, some (stagePlus (nextWaymark (s.link (linkOfPair s n p))) 4), 2 ^ p.val + 1024, true⟩ : WMsg) ∈ (t.link (linkOfPair s n p)).waiting)

/-- SLICE_FAULT of a slice that serves none and is not to replace one, codes 1 to 4: event 0x7010 with no front end. CROSSBAR_CHANGE inside its window:
the first waiting change is done. SLICE_SCRUB adds the corrected words to SLICE_ECC_CORR and changes no other register. TILE_LINK_CHECK_FAIL with a
retry left repeats and changes no register; without one, and at TILE_LINK_LOCK_LOSS, the tile domain goes to FAULT and the last fault names it. Each
clause concludes that the command completes, exec answering a next state: sliceFault, crossbarChange, sliceScrub, tileLinkCheckFail, tileLinkLockLoss.
(R526, R19, R27, R527, R20) -/
def Obligations.SlicesAndCrossbar : Prop :=
  (∀ (t : Tile) (sl : SliceIx) (code : Nat) (s : State), sliceState s t sl ≠ 3 → 1 ≤ code → code ≤ 4 → frontEnd s t sl = none → (s.tile t).changes.find? (fun c => c.fault && c.slice == sl.val) = none →
    ∃ u : State, exec (.sliceFault t sl code) s = .next u ∧ (⟨0x7010, 2, [t.val, sl.val, code, 0xFF]⟩ : Event) ∈ u.raised) ∧
  (∀ (t : Tile) (j : Nat) (c : XChange) (s : State), nextChange (s.tile t) = some c → c.fault = false → 1 ≤ j → j ≤ 62 → swapOf s t c.old = none →
    ∃ u : State, exec (.crossbarChange t j) s = .next u ∧ c ∉ (u.tile t).changes) ∧
  (∀ (t : Tile) (sl : SliceIx) (corrected : Nat) (s : State),
    ∃ u : State, exec (.sliceScrub t sl corrected) s = .next u ∧ (u.reg (SLICE_ECC_CORR t sl) = s.reg (SLICE_ECC_CORR t sl) + word corrected ∧ ∀ a, a ≠ SLICE_ECC_CORR t sl → u.reg a = s.reg a)) ∧
  (∀ (t : Tile) (s : State), (s.tile t).linkDown = false →
    ∃ u : State, exec (.tileLinkCheckFail t false) s = .next u ∧ (u.tile t).retries = (s.tile t).retries + 1 ∧ u.regs = s.regs) ∧
  (∀ (t : Tile) (s : State), (s.tile t).linkDown = false → s.hub.wakes = [] →
    ∃ u : State, exec (.tileLinkCheckFail t true) s = .next u ∧ (u.dom (0x020 + t)).state = 5 ∧ u.fld PWR_DOMAIN_LAST_FAULT.ID = 0x020 + t) ∧
  (∀ (t : Tile) (s : State), (s.tile t).linkDown = false → s.hub.wakes = [] →
    ∃ u : State, exec (.tileLinkLockLoss t) s = .next u ∧ (u.dom (0x020 + t)).state = 5 ∧ u.fld PWR_DOMAIN_LAST_FAULT.ID = 0x020 + t)

/-- BIST_UNIT_DUE while a periodic test runs is remembered and starts none. BIST_TEST_DONE of the Porter without a failure ends its test only.
BANK_DRAINED: a bank that waits for its test begins it; without one the bank is RETIRED with event 0x4002. BANK_DRAIN_TIMEOUT: a demanded test ends
with event 0x4002. MAINT_SWAP_COPY_DONE in showtime: the shadow stage. MAINT_SWAP_SHADOW_DONE with agreement: the crossbar change waits and the swap
is in its switch stage. Each clause concludes that the command completes, exec answering a next state: bistUnitDue, bistTestDone, bankDrained,
bankDrainTimeout, maintSwapCopyDone, maintSwapShadowDone. (R530, R533, R537, R538, R531, R535, R539) -/
def Obligations.TestsBanksAndSwaps : Prop :=
  (∀ (s : State), s.flag BIST_CFG.ENABLE = true → s.fld PWR_PHASE.PHASE = 2 → s.tests.any (fun x => x.periodic) = true →
    ∃ t : State, exec .bistUnitDue s = .next t ∧ t.hub.bistDue = 1 ∧ t.tests = s.tests) ∧
  (∀ (unit : Nat) (x : Test) (s : State), s.tests.find? (fun x => x.unit == unit && x.stage == .test) = some x → unitKind unit = 3 → s.hub.bistDue = 0 →
    ∃ t : State, exec (.bistTestDone unit []) s = .next t ∧ ((∀ y ∈ t.tests, y.unit ≠ unit) ∧ (∀ y ∈ s.tests, y.unit ≠ unit → y ∈ t.tests))) ∧
  (∀ (b : Fin 66) (x : Test) (s : State), bankState s b = 2 → bedsUsed s b = 0 → s.tests.find? (fun x => x.unit == bankUnit b) = some x → x.stage = .wait →
    ∃ t : State, exec (.bankDrained b) s = .next t ∧ ({ x with stage := .test } : Test) ∈ t.tests) ∧
  (∀ (b : Fin 66) (s : State), bankState s b = 2 → bedsUsed s b = 0 → s.tests.find? (fun x => x.unit == bankUnit b) = none →
    ∃ t : State, exec (.bankDrained b) s = .next t ∧ (⟨0x4002, 0, [b, 1]⟩ : Event) ∈ t.raised) ∧
  (∀ (b : Fin 66) (x : Test) (s : State), s.tests.find? (fun x => x.unit == bankUnit b && x.stage == .wait) = some x → x.periodic = false → s.hub.bistDue = 0 →
    ∃ t : State, exec (.bankDrainTimeout b) s = .next t ∧ (t.tests = s.tests.filter (fun y => y.unit != x.unit) ∧ (⟨0x4002, 0, [b.val, 0]⟩ : Event) ∈ t.raised)) ∧
  (∀ (t : Tile) (old : SliceIx) (w : MSwap) (f : Nat) (s : State), swapOf s t old = some w → w.stage = .copy → frontEnd s t old = some f → inShow s (feLink s t f) = true →
    ∃ u : State, exec (.maintSwapCopyDone t old) s = .next u ∧ ({ w with stage := .shadow } : MSwap) ∈ (u.tile t).swaps) ∧
  (∀ (t : Tile) (old : SliceIx) (w : MSwap) (f : Nat) (s : State), swapOf s t old = some w → w.stage = .shadow → frontEnd s t w.old = some f →
    ∃ u : State, exec (.maintSwapShadowDone t old true) s = .next u ∧ (⟨f, w.spare, false, w.old⟩ : XChange) ∈ (u.tile t).changes ∧ ({ w with stage := .switch } : MSwap) ∈ (u.tile t).swaps)

/-- INGRESS_BLOCK where the levels received end a block that starts a frame: the frame is open with that block; on a lane not in use the levels are heard
and no more. EGRESS_BLOCK: the test pattern of a lane set to send it; idle while the egress is held; else local fault while the link is not in
showtime, else the oldest egress block; PAM4 levels of the lane and of the side lanes may follow. FAR_EGRESS_REPORT: the far capacity is that of the
measured rate and the peer's lane rate, and no register changes. FRAME_EXPIRY: no accepted timetabled frame of that queue is past its deadline.
FC_XOFF_REPEAT while the XOFF condition of a link lasts: the pause is renewed. FC_FRAME_INSERT at a frame boundary sends the blocks of the PAUSE or
PFC frame and one idle block. HOSTEL_SCRUB_PASS: HOSTEL_ECC_CORR counts the corrections, those of the scrubber only with SCRUB_EN; the last one is
shown in HOSTEL_ECC_LAST with UNCORR 0. HOSTEL_FENCE of a bank not retired: event 0x4001 with the bank and the spare that takes its place, if any.
Each clause concludes that the command completes, exec answering a next state: ingressBlock, egressBlock, farEgressReport, frameExpiry, fcXoffRepeat,
fcFrameInsert, hostelScrubPass, hostelFence. (R36, R232, R233, R245, R253, R254, R237, R228, R256, R241, R247) -/
def Obligations.HostBlocksAndFrames : Prop :=
  (∀ (n : Port) (h : Lane) (t : Rat) (rx : List Int) (b : HostBlock) (bs : List HostBlock) (v : State) (s : State), hearLevels h rx s = v → ingressOn v n = true → (v.host n).stage = [] → (v.lane (v.portLane n)).rxBlocks = b :: bs → inEffect v n mTRANSPARENT = false → blockKind b = .start → (v.host n).isOpen = false → (v.host n).dropping = false →
    ∃ u : State, exec (.ingressBlock n h t rx) s = .next u ∧ (u.host n).isOpen = true ∧ (u.host n).group = [b] ∧ (u.host n).length = 0) ∧
  (∀ (n : Port) (h : Lane) (t : Rat) (rx : List Int) (s : State), ingressOn (hearLevels h rx s) n = false →
    ∃ u : State, exec (.ingressBlock n h t rx) s = .next u ∧ u = hearLevels h rx s) ∧
  (∀ (n : Port) (t : Rat) (v : State) (s : State), forEach (sideLanes s n) sideLane s = v → patternOn v (v.portLane n) = false → egressHeld v n = false → egressDown v n = false → portShow v n = false →
    ∃ u : State, exec (.egressBlock n t) s = .next u ∧ besideLanes u.out = besideLanes s.out ++ [.hostBlock n localFault]) ∧
  (∀ (n : Port) (t : Rat) (v : State) (s : State), forEach (sideLanes s n) sideLane s = v → patternOn v (v.portLane n) = true →
    ∃ u : State, exec (.egressBlock n t) s = .next u ∧ u = sendPattern (v.portLane n) v) ∧
  (∀ (n : Port) (t : Rat) (v : State) (s : State), forEach (sideLanes s n) sideLane s = v → patternOn v (v.portLane n) = false → egressHeld v n = true → egressDown v n = false →
    ∃ u : State, exec (.egressBlock n t) s = .next u ∧ besideLanes u.out = besideLanes s.out ++ [.hostBlock n idleBlock]) ∧
  (∀ (n : Port) (t : Rat) (b : HostBlock) (bs : List HostBlock) (v : State) (s : State), forEach (sideLanes s n) sideLane s = v → patternOn v (v.portLane n) = false → egressHeld v n = false → egressDown v n = false → portShow v n = true → inEffect v n mTRANSPARENT = false → (v.host n).egress = b :: bs →
    ∃ u : State, exec (.egressBlock n t) s = .next u ∧ besideLanes u.out = besideLanes s.out ++ [.hostBlock n b] ∧ (u.host n).egress = bs) ∧
  (∀ (n : Port) (sub : Option Pair) (t : Rat) (s : State),
    ∃ u : State, exec (.farEgressReport n sub t) s = .next u ∧ (u.queue ⟨n, sub⟩).far = farCapacity s ⟨n, sub⟩ ∧ u.regs = s.regs) ∧
  (∀ (l : LinkId) (d : Dir) (t : Rat) (cause : Nat) (s : State),
    ∃ u : State, exec (.frameExpiry l d t cause) s = .next u ∧ (∀ f ∈ frames u l d, f.tt = true → f.os = false → f.state = .accepted → ¬ f.deadline < t)) ∧
  (∀ (n : Port) (s : State), fcOn s n = true → (s.host n).xoffOn = true → (activeLinks s n).any (xoffCond s) = true →
    ∃ t : State, exec (.fcXoffRepeat n) s = .next t ∧ (t.host n).fcWait = some (s.fld (TT_FC_CFG.QUANTA n)) ∧ t.regs = s.regs) ∧
  (∀ (n : Port) (t : Rat) (q : Nat) (s : State), (s.host n).fcWait = some q → (s.host n).fcAt = none → fcOn s n = true → egressDown s n = false → egressHeld s n = false → (s.host n).fcBetween = false → egressBoundary s n = true →
    ∃ u : State, exec (.fcFrameInsert n t) s = .next u ∧ besideLanes u.out = besideLanes s.out ++ (frameBlocks (fcFrame s n q) ++ [idleBlock]).map (Out.hostBlock n) ∧ (u.host n).fcWait = none ∧ (u.host n).fcBetween = true) ∧
  (∀ (corrected : List Corrected) (s : State),
    ∃ t : State, exec (.hostelScrubPass corrected) s = .next t ∧ (t.val64 HOSTEL_ECC_CORR = (s.val64 HOSTEL_ECC_CORR + (corrected.filter (fun x => !x.scrub || s.flag HOSTEL_CFG.SCRUB_EN)).length) % 2 ^ 64)) ∧
  (∀ (corrected : List Corrected) (x : Corrected) (s : State), (corrected.filter (fun x => !x.scrub || s.flag HOSTEL_CFG.SCRUB_EN)).getLast? = some x →
    ∃ t : State, exec (.hostelScrubPass corrected) s = .next t ∧ t.fld HOSTEL_ECC_LAST.UNCORR = 0 ∧ t.fld HOSTEL_ECC_LAST.BANK = x.bank % 2 ^ 7 ∧ t.fld HOSTEL_ECC_LAST.WORD = x.word % 2 ^ 24) ∧
  (∀ (bank : Nat) (addr : Nat) (s : State), bank < 66 → bankState s bank ≠ 3 →
    ∃ t : State, exec (.hostelFence bank addr) s = .next t ∧ (∃ a b : Nat, (⟨0x4001, 2, [bank, (if bankState s bank = 0 then (banksIn s 1).head? else none).getD 0xFF, a, b]⟩ : Event) ∈ t.raised))

/-- LANE_FAULT of a lane in use without automatic substitution: event 0x3001 and the cause. HOST_DONE and HOST_WAIT_EXPIRE of a switch in progress: the
spare carries, the latter with event 0x3003. SUBSTITUTE of a lane of a protected group, not failed, under no PRBS claim, on its own port, with the
spare neither switching nor returning: the port uses the spare, event 0x3002. REVERT with the lane sound: it turns back. LANE_ENABLE: the lane takes
its rate, precoding and polarity; off, ENABLE reads 0. LANE_RATE_WRITE: RATE, and RATE_PENDING on an enabled lane. LANE_ACQUIRED: state 2.
HL_TX_FFE_WRITE: its fields, FFE_CLAMPED where PRE + POST exceeds 64. SPARE_MODE_WRITE: HOST_WAIT and PREFER. Each clause concludes that the command
completes, exec answering a next state: laneFault, hostDone, hostWaitExpire, substitute, revert, laneEnableWrite, laneRateWrite, laneAcquired,
hlTxFfeWrite, spareModeWrite. (R277, R279, R281, R272, R270, R276, R275, R280) -/
def Obligations.HostLanesFaultsAndSpares : Prop :=
  (∀ (h : Lane) (s : State), laneState s h = 2 → laneClaim s 6 h = false → s.hub.boardTest = none → h.val < 128 → s.flag (HL_FAULT_CFG.AUTO h) = false →
    ∃ t : State, exec (.laneFault h 5) s = .next t ∧ (⟨0x3001, 2, [h.val, 5, lanePort s h, 0]⟩ : Event) ∈ t.raised ∧ t.fld (HL_FAULT_STATUS.LAST_CAUSE h) = 5) ∧
  (∀ (g : Group) (s : State), spareState s g = 2 →
    ∃ t : State, exec (.hostDone g) s = .next t ∧ spareState t g = 3) ∧
  (∀ (g : Group) (s : State), spareState s g = 2 →
    ∃ t : State, exec (.hostWaitExpire g) s = .next t ∧ spareState t g = 3 ∧ (⟨0x3003, 1, [spareLane g, spareFor s g]⟩ : Event) ∈ t.raised) ∧
  (∀ (g : Group) (i : Nat) (s : State), spareState s g ≠ 2 → spareState s g ≠ 4 → laneState s (16 * g.val + i % 16) ≠ 4 → laneClaim s 6 (16 * g.val + i % 16) = false → (s.lane (16 * g.val + i % 16)).revert = false → s.portLane (16 * g.val + i % 16) = (16 * g.val + i % 16) → isProtected s (groupOf (16 * g.val + i % 16)) (16 * g.val + i % 16) = true →
    ∃ t : State, exec (.substitute g i) s = .next t ∧ t.portLane (16 * g.val + i % 16) = spareLane (groupOf (16 * g.val + i % 16)) ∧ (⟨0x3002, 1, [(16 * g.val + i % 16), spareLane (groupOf (16 * g.val + i % 16)), 7, (16 * g.val + i % 16)]⟩ : Event) ∈ t.raised) ∧
  (∀ (g : Group) (s : State), spareState s g = 3 → laneState s (spareFor s g) ≠ 3 →
    ∃ t : State, exec (.revert g) s = .next t ∧ (t.lane (spareFor s g)).revert = true ∧ spareState t g = 4) ∧
  (∀ (h : Lane) (s : State), h.val < 128 → s.fld PWR_PHASE.PHASE ≠ 3 → s.flag (HL_CFG.ENABLE h) = false → (s.lane h).barred = false → laneState s h = 0 →
    ∃ t : State, exec (.laneEnableWrite h true) s = .next t ∧ (t.lane h).half = s.flag (HL_CFG.RATE h) ∧ (t.lane h).preTx = s.flag (HL_CFG.PRECODE_TX h) ∧ (t.lane h).invRx = s.flag (HL_CFG.RX_INV h)) ∧
  (∀ (h : Lane) (s : State), h.val < 128 → (s.lane h).barred = true → s.flag (HL_EYE_STATUS.BUSY h) = false → s.flag PWR_DOMAIN_CFG.OCTET_AUTO_OFF = false →
    ∃ t : State, exec (.laneEnableWrite h false) s = .next t ∧ t.flag (HL_CFG.ENABLE h) = false) ∧
  (∀ (h : Lane) (half : Bool) (s : State), h.val < 128 →
    ∃ t : State, exec (.laneRateWrite h half) s = .next t ∧ (t.fld (HL_CFG.RATE h) = half.toNat ∧ (s.flag (HL_CFG.ENABLE h) = true → t.fld (HL_STATUS.RATE_PENDING h) = 1))) ∧
  (∀ (h : Lane) (s : State), laneState s h = 1 → s.hub.boardTest = none → h.val < 128 → (s.lane h).revert = false →
    ∃ t : State, exec (.laneAcquired h) s = .next t ∧ laneState t h = 2) ∧
  (∀ (h : Lane) (v : Word) (s : State),
    ∃ t : State, exec (.hlTxFfeWrite h v) s = .next t ∧ t.fld (HL_TX_FFE.AMP h) = bits v.toNat 19 16 ∧ t.fld (HL_TX_FFE.PRE h) = bits v.toNat 12 8 ∧ t.fld (HL_TX_FFE.POST h) = bits v.toNat 5 0 ∧ t.flag (HL_STATUS.FFE_CLAMPED h) = decide (64 < bits v.toNat 12 8 + bits v.toNat 5 0)) ∧
  (∀ (g : Group) (v : Word) (s : State), (s.lane (spareLane g)).barred = false → isWarm s g = false → bits v.toNat 31 30 ≠ 1 →
    ∃ t : State, exec (.spareModeWrite g v) s = .next t ∧ t.fld (HL_SPARE_CFG.HOST_WAIT (spareLane g)) = bits v.toNat 9 0 ∧ t.fld (HL_SPARE_CFG.PREFER (spareLane g)) = bits v.toNat 19 16)

/-- EYE_SCAN_START under a claim on a lane that is on: BUSY, not DONE, with its point and dwell. EYE_SCAN_DONE: DONE. PRBS_ENABLE_WRITE under a claim:
both enables and the pattern. PRBS_INJ_SINGLE and PRBS_INJ_BURST of a generator that is on: one, or the burst length but at least one, more bits to
invert, no register changed. PRBS_CHECKER_LOCK and PRBS_LOCK_LOSS: LOCKED is 1, or 0. Each clause concludes that the command completes, exec answering
a next state: eyeScanStart, eyeScanDone, prbsEnableWrite, prbsInjSingle, prbsInjBurst, prbsCheckerLock, prbsLockLoss. (R284, R283, R286, R287, R435) -/
def Obligations.HostLanesEyesAndPatterns : Prop :=
  (∀ (h : Lane) (v : Word) (s : State), s.flag (HL_EYE_STATUS.BUSY h) = false → bit v.toNat 31 = true → laneClaim s 4 h = true → laneState s h ≠ 0 →
    ∃ t : State, exec (.eyeScanStart h v) s = .next t ∧ t.flag (HL_EYE_STATUS.BUSY h) = true ∧ t.flag (HL_EYE_STATUS.DONE h) = false ∧ t.fld (HL_EYE_CTRL.PHASE h) = bits v.toNat 21 16 ∧ t.fld (HL_EYE_CTRL.VOFF h) = bits v.toNat 14 8 ∧ t.fld (HL_EYE_CTRL.DWELL h) = bits v.toNat 5 0) ∧
  (∀ (h : Lane) (errors : Nat) (s : State), s.flag (HL_EYE_STATUS.BUSY h) = true → (s.lane h).eyeJob = 0 →
    ∃ t : State, exec (.eyeScanDone h errors) s = .next t ∧ t.flag (HL_EYE_STATUS.BUSY h) = false ∧ t.flag (HL_EYE_STATUS.DONE h) = true) ∧
  (∀ (h : Lane) (v : Word) (s : State), bit v.toNat 31 = true → laneClaim s 6 h = true →
    ∃ t : State, exec (.prbsEnableWrite h v) s = .next t ∧ t.flag (HL_PRBS_CTRL.TX_EN h) = true ∧ t.flag (HL_PRBS_CTRL.RX_EN h) = bit v.toNat 30 ∧ t.fld (HL_PRBS_CTRL.TX_PAT h) = bits v.toNat 27 26) ∧
  (∀ (h : Lane) (s : State), s.flag (HL_PRBS_CTRL.TX_EN h) = true →
    ∃ t : State, exec (.prbsInjSingle h) s = .next t ∧ (t.lane h).inject = (s.lane h).inject + 1 ∧ t.regs = s.regs) ∧
  (∀ (h : Lane) (s : State), s.flag (HL_PRBS_CTRL.TX_EN h) = true →
    ∃ t : State, exec (.prbsInjBurst h) s = .next t ∧ (t.lane h).inject = (s.lane h).inject + max 1 (s.fld (HL_PRBS_CTRL.BURST_LEN h)) ∧ t.regs = s.regs) ∧
  (∀ (h : Lane) (s : State), s.flag (HL_PRBS_CTRL.RX_EN h) = true →
    ∃ t : State, exec (.prbsCheckerLock h) s = .next t ∧ t.flag (HL_PRBS_STATUS.LOCKED h) = true) ∧
  (∀ (h : Lane) (compared : Nat) (wrong : Nat) (s : State), s.flag (HL_PRBS_STATUS.LOCKED h) = true →
    ∃ t : State, exec (.prbsLockLoss h compared wrong) s = .next t ∧ t.flag (HL_PRBS_STATUS.LOCKED h) = false)

/-- CLK_DIV_WRITE takes the four fields and orders the switches. CLOCK_SWITCH_STEP and CLOCK_SWITCH_FORCED end the first waiting switch, the latter with
event 0x1040. HUBPLL_UNLOCK keeps the time and every link; HUBPLL_RELOCK locks with event 0x1031 and the time it lasted. RINGPLL_UNLOCK: no lock, both
ring inputs out of sync, event 0x9010; RINGPLL_RELOCK locks. REFCLK_LOST: the time is kept, event 0x1001 with the number of links down.
REFCLK_QUALIFIED: CLK_REF_LOST_TIME and event 0x1002 with that time. Each clause concludes that the command completes, exec answering a next state:
clkDivWrite, clockSwitchStep, clockSwitchForced, hubPllUnlock, hubPllRelock, ringPllUnlock, ringPllRelock, refclkLost, refclkQualified. (R342, R343,
R345, R259, R355, R349, R347, R337, R344, R392, R489, R338) -/
def Obligations.HubClocks : Prop :=
  (∀ (v : Word) (s : State),
    ∃ t : State, exec (.clkDivWrite v) s = .next t ∧ t.hub.switches = switchOrder (s.setReg CLK_DIV (word (bits v.toNat 8 8 * 256 + bits v.toNat 5 4 * 16 + bits v.toNat 1 0))) ∧ t.links = s.links) ∧
  (∀ (dom : Nat) (rest : List Nat) (s : State), s.hub.switches = dom :: rest →
    ∃ t : State, exec (.clockSwitchStep dom) s = .next t ∧ t.hub.switches = rest) ∧
  (∀ (t : Tile) (s : State), (s.tile t).switchAt = some s.now →
    ∃ u : State, exec (.clockSwitchForced 4 t) s = .next u ∧ (u.tile t).switchAt = none ∧ (⟨0x1040, 1, [4, t]⟩ : Event) ∈ u.raised) ∧
  (∀ (dom : Nat) (t : Tile) (rest : List Nat) (s : State), dom ≠ 4 → s.hub.switches = dom :: rest →
    ∃ u : State, exec (.clockSwitchForced dom t) s = .next u ∧ u.hub.switches = rest ∧ (⟨0x1040, 1, [dom, 0]⟩ : Event) ∈ u.raised) ∧
  (∀ (s : State), s.flag CLK_STATUS.REF_QUAL = true → s.flag CLK_STATUS.HUBPLL_LOCK = true →
    ∃ t : State, exec .hubPllUnlock s = .next t ∧ t.hub.hubLostAt = some s.now ∧ t.links = s.links) ∧
  (∀ (a : Nat) (s : State), s.flag CLK_STATUS.REF_QUAL = true → s.flag CLK_STATUS.HUBPLL_LOCK = false → s.hub.hubLostAt = some a →
    ∃ t : State, exec .hubPllRelock s = .next t ∧ t.flag CLK_STATUS.HUBPLL_LOCK = true ∧ t.hub.hubLostAt = none ∧ t.raised = s.raised ++ [⟨0x1031, 0, [s.now - a]⟩]) ∧
  (∀ (s : State), s.flag CLK_STATUS.REF_QUAL = true → s.flag CLK_STATUS.RINGPLL_LOCK = true →
    ∃ t : State, exec .ringPllUnlock s = .next t ∧ t.flag CLK_STATUS.RINGPLL_LOCK = false ∧ t.flag MR_STATUS.MR0_SYNC = false ∧ t.flag MR_STATUS.MR1_SYNC = false ∧ t.raised = s.raised ++ [⟨0x9010, 1, []⟩]) ∧
  (∀ (s : State), s.flag CLK_STATUS.REF_QUAL = true →
    ∃ t : State, exec .ringPllRelock s = .next t ∧ t.flag CLK_STATUS.RINGPLL_LOCK = true ∧ t.links = s.links) ∧
  (∀ (s : State), s.flag CLK_STATUS.REF_QUAL = true →
    ∃ t : State, exec .refclkLost s = .next t ∧ (t.hub.refLostAt = some s.now ∧ ∃ down : Nat, (⟨0x1001, 2, [down]⟩ : Event) ∈ t.raised)) ∧
  (∀ (a : Nat) (s : State), s.flag CLK_STATUS.REF_QUAL = false → s.hub.refLostAt = some a →
    ∃ t : State, exec .refclkQualified s = .next t ∧ t.hub.refLostAt = none ∧ t.reg CLK_REF_LOST_TIME = word (s.now - a) ∧ t.raised = s.raised ++ [⟨0x1002, 0, [s.now - a]⟩])

/-- With every link at rest, LPLL_ACTIVE_UNLOCK and LPLL_SWAP with the other PLL locked order the switch now; LPLL_BOTH_UNLOCK: COASTING, no lock, event
0x1011. LPLL_STANDBY_UNLOCK: event 0x1012 with side 0 and the loss noted. LPLL_RELOCK of a tile that is on: locked, the loss no longer noted.
HPLL_UNLOCK: the loss is noted with event 0x1020; HPLL_RELOCK of an octet that is on: no longer noted, and event 0x1021 where it was. Each clause
concludes that the command completes, exec answering a next state: lpllActiveUnlock, lpllSwap, lpllBothUnlock, lpllStandbyUnlock, lpllRelock,
hpllUnlock, hpllRelock. (R350, R353, R352, R349, R354) -/
def Obligations.TileAndHostPlls : Prop :=
  (∀ (t : Tile) (s : State), (∀ l, (s.link l).phase = 0) → s.flag (lpllLock t (activeLpll s t)) = true → s.flag (lpllLock t (1 - activeLpll s t)) = true →
    ∃ u : State, exec (.lpllActiveUnlock t) s = .next u ∧ (u.tile t).switchAt = some s.now) ∧
  (∀ (t : Tile) (s : State), (∀ l, (s.link l).phase = 0) → s.flag (lpllLock t (1 - activeLpll s t)) = true →
    ∃ u : State, exec (.lpllSwap t) s = .next u ∧ (u.tile t).switchAt = some s.now) ∧
  (∀ (t : Tile) (s : State), (∀ l, (s.link l).phase = 0) → s.flag (TILE_CLK_STATUS.M_LOCK t) = true → s.flag (TILE_CLK_STATUS.S_LOCK t) = true →
    ∃ u : State, exec (.lpllBothUnlock t) s = .next u ∧ u.flag (TILE_CLK_STATUS.COASTING t) = true ∧ u.flag (TILE_CLK_STATUS.M_LOCK t) = false ∧ u.flag (TILE_CLK_STATUS.S_LOCK t) = false ∧ u.raised = s.raised ++ [⟨0x1011, 2, [t.val]⟩]) ∧
  (∀ (t : Tile) (s : State), s.flag (lpllLock t (1 - activeLpll s t)) = true → s.flag (lpllLock t (1 - (1 - activeLpll s t))) = true →
    ∃ u : State, exec (.lpllStandbyUnlock t) s = .next u ∧ u.raised = s.raised ++ [⟨0x1012, 0, [t.val, 1 - activeLpll s t, 0]⟩] ∧ bit u.hub.pllLost (20 + 2 * t + (1 - activeLpll s t)) = true) ∧
  (∀ (t : Tile) (sub : Bool) (s : State), s.flag CLK_STATUS.REF_QUAL = true → s.flag (lpllLock t sub.toNat) = false → (s.dom (0x020 + t)).state = 3 → s.flag (lpllLock t (1 - sub.toNat)) = true →
    ∃ u : State, exec (.lpllRelock t sub) s = .next u ∧ bit u.hub.pllLost (20 + 2 * t + sub.toNat) = false ∧ u.flag (lpllLock t sub.toNat) = true) ∧
  (∀ (o : Octet) (s : State), s.flag (CLK_HPLL_STATUS.LOCKED o) = true →
    ∃ t : State, exec (.hpllUnlock o) s = .next t ∧ (bit t.hub.pllLost o = true ∧ ∃ k : Nat, (⟨0x1020, 2, [o.val, k]⟩ : Event) ∈ t.raised)) ∧
  (∀ (o : Octet) (s : State), s.flag CLK_STATUS.REF_QUAL = true → s.flag (CLK_HPLL_STATUS.LOCKED o) = false → (s.dom (0x040 + o)).state = 3 →
    ∃ t : State, exec (.hpllRelock o) s = .next t ∧ (bit t.hub.pllLost o = false ∧ (bit s.hub.pllLost o = true → (⟨0x1021, 0, [o.val]⟩ : Event) ∈ t.raised)))

/-- Each device command answers status OK with the results of its layout and changes nothing but what reading or clearing changes; DEV_JOBS takes the
records it gives; DEV_JOB_ABORT of a job that is not live says so, of a live one ends it. The conditions of each command: the Porter not halted, no
reset under way or due, READY, one of its phases, NOREPLY clear, the length of its layout, its parameters in range, its registers reachable. Answered:
the final reply that is kept last is that of this command, with status and results; only replied: nothing else of the state differs but the reply
counters, the executor, what is kept and sent. Each clause concludes that the command completes, exec answering a next state: devNop, devIdentify,
devStatus, devIntRead, devIntClear, devTemps, devJobs, devJobAbort. (R432, R423, R424, R403, R404, R408) -/
def Obligations.DeviceCommandsAnswer : Prop :=
  (∀ (c : Call) (s : State), Admits 0x0000 inSTR c s → paramLen (pktOf s 0x0000 c) = 0 →
    ∃ t : State, exec (.devNop c) s = .next t ∧ Answered 0x0000 c 0 ([]) s t ∧ OnlyReplied (s) t) ∧
  (∀ (c : Call) (s : State), Admits 0x0001 inSTR c s → paramLen (pktOf s 0x0001 c) = 0 →
    ∃ t : State, exec (.devIdentify c) s = .next t ∧ Answered 0x0001 c 0 (bytesLsb 4 0x5120 ++ [0xA1, ownId s, s.fld PWR_PHASE.PHASE, fwBank s] ++ (readBytes [HUB_FW_VERSION, PWR_BOOT_TIME, HUB_UID_LO, HUB_UID_HI] (s)).1 ++ [0, 0, 0, 0, 0, 0, 0, 0]) s t ∧ OnlyReplied ((readBytes [HUB_FW_VERSION, PWR_BOOT_TIME, HUB_UID_LO, HUB_UID_HI] (s)).2) t) ∧
  (∀ (c : Call) (s : State), Admits 0x0002 inSTR c s → paramLen (pktOf s 0x0002 c) = 0 →
    ∃ t : State, exec (.devStatus c) s = .next t ∧ Answered 0x0002 c 0 ((readBytes [PWR_PHASE, CLK_STATUS, HUB_INT_SUMMARY] (s)).1 ++ bytesLsb 2 (portsUp (readBytes [PWR_PHASE, CLK_STATUS, HUB_INT_SUMMARY] s).2) ++ bytesLsb 2 (lanesUp (readBytes [PWR_PHASE, CLK_STATUS, HUB_INT_SUMMARY] s).2) ++ bytesLsb 2 (readBytes [PWR_PHASE, CLK_STATUS, HUB_INT_SUMMARY] s).2.records.length ++ [0, 0] ++ bytesLsb 6 (seqNow (readBytes [PWR_PHASE, CLK_STATUS, HUB_INT_SUMMARY] s).2) ++ [0, 0]) s t ∧ OnlyReplied ((readBytes [PWR_PHASE, CLK_STATUS, HUB_INT_SUMMARY] (s)).2) t) ∧
  (∀ (c : Call) (s : State), Admits 0x0006 inSTR c s → paramLen (pktOf s 0x0006 c) = 0 →
    ∃ t : State, exec (.devIntRead c) s = .next t ∧ Answered 0x0006 c 0 ((readBytes [HUB_INT_SUMMARY, HUB_INT_ENABLE] (s)).1) s t ∧ OnlyReplied ((readBytes [HUB_INT_SUMMARY, HUB_INT_ENABLE] (s)).2) t) ∧
  (∀ (c : Call) (s : State), Admits 0x0007 inSTR c s → paramLen (pktOf s 0x0007 c) = 4 →
    ∃ t : State, exec (.devIntClear c) s = .next t ∧ Answered 0x0007 c 0 ((readBytes [HUB_INT_SUMMARY] (writeWord HUB_INT_STATUS (u32 (pktOf s 0x0007 c) 0) s)).1) s t ∧ OnlyReplied ((readBytes [HUB_INT_SUMMARY] (writeWord HUB_INT_STATUS (u32 (pktOf s 0x0007 c) 0) s)).2) t) ∧
  (∀ (c : Call) (s : State), Admits 0x0008 inSTR c s → paramLen (pktOf s 0x0008 c) = 0 → needs (((List.range 8).filter (fun t => !tileDark s t)).map (fun t => TILE_TEMP t 0)) s = (0, s) →
    ∃ t : State, exec (.devTemps c) s = .next t ∧ (Answered 0x0008 c 0 (((List.range 32).flatMap (fun k => bytesLsb 2 (if tileDark s (k / 4) then 0x8000 else s.fld (TILE_TEMP.TEMP (k / 4) (k % 4))))) ++ (List.range 4).flatMap (fun i => bytesLsb 2 (s.fld (CAL_HUB_TEMP.TEMP i)))) s t ∧ OnlyReplied (s) t)) ∧
  (∀ (c : Call) (s : State), Admits 0x0010 inSTR c s → paramLen (pktOf s 0x0010 c) = 1 → 1 ≤ u8 (pktOf s 0x0010 c) 0 → u8 (pktOf s 0x0010 c) 0 ≤ 63 →
    ∃ t : State, exec (.devJobs c) s = .next t ∧ Answered 0x0010 c 0 (bytesLsb 2 (s.records.take (u8 (pktOf s 0x0010 c) 0)).length ++ bytesLsb 2 (s.records.drop (u8 (pktOf s 0x0010 c) 0)).length ++ (s.records.take (u8 (pktOf s 0x0010 c) 0)).flatten) s t ∧ t.records = s.records.drop (u8 (pktOf s 0x0010 c) 0)) ∧
  (∀ (c : Call) (s : State), Admits 0x0011 inSTR c s → paramLen (pktOf s 0x0011 c) = 2 → u16 (pktOf s 0x0011 c) 0 ≠ 0 → s.jobs.find? (fun j => j.num == u16 (pktOf s 0x0011 c) 0 && jobLive s j.num) = none →
    ∃ t : State, exec (.devJobAbort c) s = .next t ∧ (Answered 0x0011 c 0 ([if u16 (pktOf s 0x0011 c) 0 ≤ s.hub.jobNum then 1 else 2]) s t ∧ OnlyReplied (s) t)) ∧
  (∀ (c : Call) (j : Job) (s : State), Admits 0x0011 inSTR c s → paramLen (pktOf s 0x0011 c) = 2 → u16 (pktOf s 0x0011 c) 0 ≠ 0 → s.jobs.find? (fun j => j.num == u16 (pktOf s 0x0011 c) 0 && jobLive s j.num) = some j → j.op ≠ 0x0004 →
    ∃ t : State, exec (.devJobAbort c) s = .next t ∧ Answered 0x0011 c 0 ([0]) s t ∧ OnlyReplied (abortJob j s) t)

/-- DEVICE_RESET answers OK and a reset is due. TILE_RESET of a tile in reset already is a job that changes no tile; of another, with no access waiting
for a wake, the tile is in reset and its domain shows RESET. The end of a tile reset leaves the domain ON, or in FAULT with the link down. PORT_RESET
answers OK and resets the port. The conditions of each command: the Porter not halted, no reset under way or due, READY, one of its phases, NOREPLY
clear, the length of its layout, its parameters in range, its registers reachable. Answered: the final reply that is kept last is that of this
command, with status and results; only replied: nothing else of the state differs but the reply counters, the executor, what is kept and sent. Each
clause concludes that the command completes, exec answering a next state: deviceReset, tileReset, portReset, tileResetDone. (R432, R375, R377, R379) -/
def Obligations.ResetCommandsAct : Prop :=
  (∀ (c : Call) (s : State), Admits 0x0003 inSTR c s → paramLen (pktOf s 0x0003 c) = 1 → (u8 (pktOf s 0x0003 c) 0 ≤ 2 ∨ u8 (pktOf s 0x0003 c) 0 = 0xFF) →
    ∃ t : State, exec (.deviceReset c) s = .next t ∧ Answered 0x0003 c 0 [] s t ∧ t.hub.resetDue = true) ∧
  (∀ (c : Call) (s : State), Admits 0x0004 inST c s → paramLen (pktOf s 0x0004 c) = 1 → u8 (pktOf s 0x0004 c) 0 < 8 → recordsFull s = false → (s.tile (u8 (pktOf s 0x0004 c) 0)).inReset = true →
    ∃ t : State, exec (.tileReset c) s = .next t ∧ (Answered 0x0004 c 0 (jobResult (nextJob s) 0) s t ∧ (∃ j ∈ t.jobs, j.num = nextJob s ∧ j.op = 0x0004 ∧ j.res = u8 (pktOf s 0x0004 c) 0) ∧ t.tiles = s.tiles)) ∧
  (∀ (c : Call) (s : State), Admits 0x0004 inST c s → paramLen (pktOf s 0x0004 c) = 1 → u8 (pktOf s 0x0004 c) 0 < 8 → recordsFull s = false → (s.tile (u8 (pktOf s 0x0004 c) 0)).inReset = false → s.hub.wakes = [] →
    ∃ t : State, exec (.tileReset c) s = .next t ∧ (t.tile (u8 (pktOf s 0x0004 c) 0)).inReset = true ∧ (t.dom (0x020 + u8 (pktOf s 0x0004 c) 0)).state = 6) ∧
  (∀ (c : Call) (s : State), Admits 0x0005 inST c s → paramLen (pktOf s 0x0005 c) = 1 → u8 (pktOf s 0x0005 c) 0 < 128 → (s.tile (tileOf (toPort (u8 (pktOf s 0x0005 c) 0)))).inReset = false → needs [PORT_STARTUP_CFG (toPort (u8 (pktOf s 0x0005 c) 0))] s = (0, s) →
    ∃ t : State, exec (.portReset c) s = .next t ∧ Answered 0x0005 c 0 [] s t ∧ OnlyReplied (portReset (toPort (u8 (pktOf s 0x0005 c) 0)) s) t) ∧
  (∀ (t : Tile) (s : State), (s.tile t).inReset = true →
    ∃ u : State, exec (.tileResetDone t true) s = .next u ∧ (u.tile t).inReset = false ∧ (u.dom (0x020 + t)).state = 3) ∧
  (∀ (t : Tile) (s : State), (s.tile t).inReset = true →
    ∃ u : State, exec (.tileResetDone t false) s = .next u ∧ (u.tile t).inReset = false ∧ (u.tile t).linkDown = true ∧ (u.dom (0x020 + t)).state = 5)

/-- Reads answer the words of the items that could be read, status OK or PARTIAL; writes answer how many items were done; REG_RMW answers the old and the
new word; COMMIT_CONFIG starts a commit pass at once where none runs and stays in its executor. The conditions of each command: the Porter not halted,
no reset under way or due, READY, one of its phases, NOREPLY clear, the length of its layout, its parameters in range, its registers reachable.
Answered: the final reply that is kept last is that of this command, with status and results; only replied: nothing else of the state differs but the
reply counters, the executor, what is kept and sent. Each clause concludes that the command completes, exec answering a next state: regRead,
regReadList, regWrite, regWriteBlock, regRmw, commitConfig. (R442, R423, R425, R426, R464) -/
def Obligations.RegisterCommandsAnswer : Prop :=
  (∀ (c : Call) (s : State), Admits 0x0800 inSTR c s → paramLen (pktOf s 0x0800 c) = 8 → u32 (pktOf s 0x0800 c) 0 % 4 = 0 → 1 ≤ u16 (pktOf s 0x0800 c) 4 → u16 (pktOf s 0x0800 c) 4 ≤ 256 → u8 (pktOf s 0x0800 c) 6 ≤ 1 →
    ∃ t : State, exec (.regRead c) s = .next t ∧ (Answered 0x0800 c (if (readItems (blockAddrs (u32 (pktOf s 0x0800 c) 0) (u16 (pktOf s 0x0800 c) 4) (u8 (pktOf s 0x0800 c) 6)) s).2.1 then 0 else 10) (readItems (blockAddrs (u32 (pktOf s 0x0800 c) 0) (u16 (pktOf s 0x0800 c) 4) (u8 (pktOf s 0x0800 c) 6)) s).1 s t ∧ OnlyReplied (readItems (blockAddrs (u32 (pktOf s 0x0800 c) 0) (u16 (pktOf s 0x0800 c) 4) (u8 (pktOf s 0x0800 c) 6)) s).2.2 t)) ∧
  (∀ (c : Call) (s : State), Admits 0x0802 inSTR c s → paramLen (pktOf s 0x0802 c) % 4 = 0 ∧ 4 ≤ paramLen (pktOf s 0x0802 c) ∧ paramLen (pktOf s 0x0802 c) ≤ 1024 →
    ∃ t : State, exec (.regReadList c) s = .next t ∧ (Answered 0x0802 c (if (readItems (listWords (pktOf s 0x0802 c) 0) s).2.1 then 0 else 10) (readItems (listWords (pktOf s 0x0802 c) 0) s).1 s t ∧ OnlyReplied (readItems (listWords (pktOf s 0x0802 c) 0) s).2.2 t)) ∧
  (∀ (c : Call) (s : State), Admits 0x0801 inSTR c s → paramLen (pktOf s 0x0801 c) % 8 = 0 ∧ 8 ≤ paramLen (pktOf s 0x0801 c) ∧ paramLen (pktOf s 0x0801 c) ≤ 1024 →
    ∃ t : State, exec (.regWrite c) s = .next t ∧ (Answered 0x0801 c (if (doItems writeItem ((List.range (paramLen (pktOf s 0x0801 c) / 8)).map (fun i => (u32 (pktOf s 0x0801 c) (8 * i), u32 (pktOf s 0x0801 c) (8 * i + 4)))) 0 s).2.1 = 0 then 0 else 10) (multiHeader (doItems writeItem ((List.range (paramLen (pktOf s 0x0801 c) / 8)).map (fun i => (u32 (pktOf s 0x0801 c) (8 * i), u32 (pktOf s 0x0801 c) (8 * i + 4)))) 0 s).1 (doItems writeItem ((List.range (paramLen (pktOf s 0x0801 c) / 8)).map (fun i => (u32 (pktOf s 0x0801 c) (8 * i), u32 (pktOf s 0x0801 c) (8 * i + 4)))) 0 s).2.1) s t ∧ OnlyReplied (doItems writeItem ((List.range (paramLen (pktOf s 0x0801 c) / 8)).map (fun i => (u32 (pktOf s 0x0801 c) (8 * i), u32 (pktOf s 0x0801 c) (8 * i + 4)))) 0 s).2.2 t)) ∧
  (∀ (c : Call) (s : State), Admits 0x0804 inSTR c s → paramLen (pktOf s 0x0804 c) % 4 = 0 ∧ 12 ≤ paramLen (pktOf s 0x0804 c) ∧ paramLen (pktOf s 0x0804 c) ≤ 1024 → u8 (pktOf s 0x0804 c) 4 ≤ 1 →
    ∃ t : State, exec (.regWriteBlock c) s = .next t ∧ (Answered 0x0804 c (if (doItems writeItem ((blockAddrs (u32 (pktOf s 0x0804 c) 0) (listWords (pktOf s 0x0804 c) 8).length (u8 (pktOf s 0x0804 c) 4)).zip (listWords (pktOf s 0x0804 c) 8)) 0 s).2.1 = 0 then 0 else 10) (multiHeader (doItems writeItem ((blockAddrs (u32 (pktOf s 0x0804 c) 0) (listWords (pktOf s 0x0804 c) 8).length (u8 (pktOf s 0x0804 c) 4)).zip (listWords (pktOf s 0x0804 c) 8)) 0 s).1 (doItems writeItem ((blockAddrs (u32 (pktOf s 0x0804 c) 0) (listWords (pktOf s 0x0804 c) 8).length (u8 (pktOf s 0x0804 c) 4)).zip (listWords (pktOf s 0x0804 c) 8)) 0 s).2.1) s t ∧ OnlyReplied (doItems writeItem ((blockAddrs (u32 (pktOf s 0x0804 c) 0) (listWords (pktOf s 0x0804 c) 8).length (u8 (pktOf s 0x0804 c) 4)).zip (listWords (pktOf s 0x0804 c) 8)) 0 s).2.2 t)) ∧
  (∀ (c : Call) (s : State), Admits 0x0803 inSTR c s → paramLen (pktOf s 0x0803 c) = 12 → (u32 (pktOf s 0x0803 c) 0) % 4 = 0 → needs [(u32 (pktOf s 0x0803 c) 0)] s = (0, s) → (busWrite .ring (u32 (pktOf s 0x0803 c) 0) (rmwWords (isMasked (u32 (pktOf s 0x0803 c) 0)) (readWord (u32 (pktOf s 0x0803 c) 0) s).1 (u32 (pktOf s 0x0803 c) 4) (u32 (pktOf s 0x0803 c) 8)).1 noUpdate (readWord (u32 (pktOf s 0x0803 c) 0) s).2).1 = 0 →
    ∃ t : State, exec (.regRmw c) s = .next t ∧ Answered 0x0803 c 0 (bytesLsb 4 (readWord (u32 (pktOf s 0x0803 c) 0) s).1 ++ bytesLsb 4 (rmwWords (isMasked (u32 (pktOf s 0x0803 c) 0)) (readWord (u32 (pktOf s 0x0803 c) 0) s).1 (u32 (pktOf s 0x0803 c) 4) (u32 (pktOf s 0x0803 c) 8)).2) s t ∧ OnlyReplied (busWrite .ring (u32 (pktOf s 0x0803 c) 0) (rmwWords (isMasked (u32 (pktOf s 0x0803 c) 0)) (readWord (u32 (pktOf s 0x0803 c) 0) s).1 (u32 (pktOf s 0x0803 c) 4) (u32 (pktOf s 0x0803 c) 8)).1 noUpdate (readWord (u32 (pktOf s 0x0803 c) 0) s).2).2 t) ∧
  (∀ (c : Call) (s : State), Admits 0x0805 inSTR c s → paramLen (pktOf s 0x0805 c) = 0 → s.hub.commit = none → s.hub.commits = [] →
    ∃ t : State, exec (.commitConfig c) s = .next t ∧ t.hub.commit = some (1, some (pktOf s 0x0805 c).call) ∧ t.hub.commits = [] ∧ (pktOf s 0x0805 c) ∈ t.running ∧ t.regs = s.regs)

/-- LOCK_SET in SERVICE sets LOCK with event 0x8004; UNLOCK_WRITE with the key writes the lockable register; LOCK_STATUS answers the phase, LOCK, whether
the window is open and the time left. The conditions of each command: the Porter not halted, no reset under way or due, READY, one of its phases,
NOREPLY clear, the length of its layout, its parameters in range, its registers reachable. Answered: the final reply that is kept last is that of this
command, with status and results; only replied: nothing else of the state differs but the reply counters, the executor, what is kept and sent. Each
clause concludes that the command completes, exec answering a next state: lockSet, unlockWrite, lockStatus. (R444, R469, R470, R471) -/
def Obligations.LockCommandsAndLocks : Prop :=
  (∀ (c : Call) (s : State), Admits 0x0A00 [1] c s → paramLen (pktOf s 0x0A00 c) = 0 → s.fld HUB_LOCK.LOCK = 0 →
    ∃ t : State, exec (.lockSet c) s = .next t ∧ Answered 0x0A00 c 0 [] s t ∧ t.fld HUB_LOCK.LOCK = 1 ∧ t.raised = s.raised ++ [⟨0x8004, 0, [masterCode .ring]⟩]) ∧
  (∀ (c : Call) (s : State), Admits 0x0A01 [2] c s → paramLen (pktOf s 0x0A01 c) = 12 → isLockable (u32 (pktOf s 0x0A01 c) 4) = true → u16 (pktOf s 0x0A01 c) 0 = 0x5EA7 →
    ∃ t : State, exec (.unlockWrite c) s = .next t ∧ Answered 0x0A01 c (busWrite .ring (u32 (pktOf s 0x0A01 c) 4) (u32 (pktOf s 0x0A01 c) 8) noUpdate (writeKey .ring (u16 (pktOf s 0x0A01 c) 0) s)).1 [] s t ∧ OnlyReplied (busWrite .ring (u32 (pktOf s 0x0A01 c) 4) (u32 (pktOf s 0x0A01 c) 8) noUpdate (writeKey .ring (u16 (pktOf s 0x0A01 c) 0) s)).2 t) ∧
  (∀ (c : Call) (s : State), Admits 0x0A02 inST c s → paramLen (pktOf s 0x0A02 c) = 0 →
    ∃ t : State, exec (.lockStatus c) s = .next t ∧ Answered 0x0A02 c 0 ([s.fld PWR_PHASE.PHASE, s.fld HUB_LOCK.LOCK, s.hub.window.isSome.toNat, 0] ++ bytesLsb 4 (windowLeft s)) s t ∧ OnlyReplied s t)

/-- Each port command answers OK, or the multi header, with the results of its layout, and acts as the register write it stands for; PORT_RETRAIN of a
link in showtime asks for the retrain at the next waymark plus 4, of a link down it answers stage 0 and changes nothing. The conditions of each
command: the Porter not halted, no reset under way or due, READY, one of its phases, NOREPLY clear, the length of its layout, its parameters in range,
its registers reachable. Answered: the final reply that is kept last is that of this command, with status and results; only replied: nothing else of
the state differs but the reply counters, the executor, what is kept and sent. Each clause concludes that the command completes, exec answering a next
state: portEnable, portModeSet, portRetrain, portRate, portStatus, portSummary, portCounters, portPeer, portFlowctl, portSublinks, hlStatus,
diagResult. (R433, R434, R425, R426) -/
def Obligations.PortCommandsAnswer : Prop :=
  (∀ (c : Call) (s : State), Admits 0x0100 inST c s → paramLen (pktOf s 0x0100 c) = 17 → u8 (pktOf s 0x0100 c) 16 ≤ 1 →
    ∃ t : State, exec (.portEnable c) s = .next t ∧ (Answered 0x0100 c (if (doItems (enablePort (u8 (pktOf s 0x0100 c) 16)) (maskItems (pktOf s 0x0100 c) 0 16) 0 s).2.1 = 0 then 0 else 10) (multiHeader (doItems (enablePort (u8 (pktOf s 0x0100 c) 16)) (maskItems (pktOf s 0x0100 c) 0 16) 0 s).1 (doItems (enablePort (u8 (pktOf s 0x0100 c) 16)) (maskItems (pktOf s 0x0100 c) 0 16) 0 s).2.1) s t ∧ OnlyReplied (doItems (enablePort (u8 (pktOf s 0x0100 c) 16)) (maskItems (pktOf s 0x0100 c) 0 16) 0 s).2.2 t)) ∧
  (∀ (c : Call) (s : State), Admits 0x0101 inST c s → paramLen (pktOf s 0x0101 c) = 6 → u8 (pktOf s 0x0101 c) 0 < 128 → needs [PORT_MODE (toPort (u8 (pktOf s 0x0101 c) 0))] s = (0, s) →
    ∃ t : State, exec (.portModeSet c) s = .next t ∧ Answered 0x0101 c 0 ((readLow [(PORT_MODE_EFFECTIVE (toPort (u8 (pktOf s 0x0101 c) 0)), 2), (PORT_MODE_INACTIVE (toPort (u8 (pktOf s 0x0101 c) 0)), 2), (PORT_MODE_REASON0 (toPort (u8 (pktOf s 0x0101 c) 0)), 4), (PORT_MODE_REASON1 (toPort (u8 (pktOf s 0x0101 c) 0)), 2), (PORT_MODE_PENDING (toPort (u8 (pktOf s 0x0101 c) 0)), 2)] (writeWord (PORT_MODE (toPort (u8 (pktOf s 0x0101 c) 0))) (u16 (pktOf s 0x0101 c) 2 * 2 ^ 16 + u16 (pktOf s 0x0101 c) 4) s)).1) s t ∧ OnlyReplied ((readLow [(PORT_MODE_EFFECTIVE (toPort (u8 (pktOf s 0x0101 c) 0)), 2), (PORT_MODE_INACTIVE (toPort (u8 (pktOf s 0x0101 c) 0)), 2), (PORT_MODE_REASON0 (toPort (u8 (pktOf s 0x0101 c) 0)), 4), (PORT_MODE_REASON1 (toPort (u8 (pktOf s 0x0101 c) 0)), 2), (PORT_MODE_PENDING (toPort (u8 (pktOf s 0x0101 c) 0)), 2)] (writeWord (PORT_MODE (toPort (u8 (pktOf s 0x0101 c) 0))) (u16 (pktOf s 0x0101 c) 2 * 2 ^ 16 + u16 (pktOf s 0x0101 c) 4) s)).2) t) ∧
  (∀ (c : Call) (s : State), Admits 0x0102 inST c s → paramLen (pktOf s 0x0102 c) = 3 → u8 (pktOf s 0x0102 c) 0 < 128 → u8 (pktOf s 0x0102 c) 1 = 0 → isBreakout s (toPort (u8 (pktOf s 0x0102 c) 0)) = false → needs [PORT_LINK_STATUS (toPort (u8 (pktOf s 0x0102 c) 0))] s = (0, s) → MayAsk (s.link (portLink (toPort (u8 (pktOf s 0x0102 c) 0)))) →
    ∃ t : State, exec (.portRetrain c) s = .next t ∧ Answered 0x0102 c 0 ([1, 0, 0, 0] ++ bytesLsb 4 (stagePlus (nextWaymark (s.link (portLink (toPort (u8 (pktOf s 0x0102 c) 0))))) 4)) s t ∧ RetrainAsked 0xC (portLink (toPort (u8 (pktOf s 0x0102 c) 0))) s t) ∧
  (∀ (c : Call) (s : State), Admits 0x0102 inST c s → paramLen (pktOf s 0x0102 c) = 3 → u8 (pktOf s 0x0102 c) 0 < 128 → u8 (pktOf s 0x0102 c) 1 ≤ 1 → isBreakout s (toPort (u8 (pktOf s 0x0102 c) 0)) = false → needs [PORT_LINK_STATUS (toPort (u8 (pktOf s 0x0102 c) 0))] s = (0, s) → (s.link (portLink (toPort (u8 (pktOf s 0x0102 c) 0)))).phase = 0 →
    ∃ t : State, exec (.portRetrain c) s = .next t ∧ Answered 0x0102 c 0 [0, 0, 0, 0, 0, 0, 0, 0] s t ∧ OnlyReplied s t) ∧
  (∀ (c : Call) (s : State), Admits 0x0103 inST c s → paramLen (pktOf s 0x0103 c) = 2 → u8 (pktOf s 0x0103 c) 0 < 128 → u8 (pktOf s 0x0103 c) 1 ≤ 3 → needs [PORT_RATE_CFG (toPort (u8 (pktOf s 0x0103 c) 0))] s = (0, s) →
    ∃ t : State, exec (.portRate c) s = .next t ∧ Answered 0x0103 c 0 ([(askTier (toPort (u8 (pktOf s 0x0103 c) 0)) (putFields (PORT_RATE_CFG (toPort (u8 (pktOf s 0x0103 c) 0))) [(PORT_RATE_CFG.REQ_TIER (toPort (u8 (pktOf s 0x0103 c) 0)), u8 (pktOf s 0x0103 c) 1)] s)).fld (PORT_LINK_STATUS.TIER_TX (toPort (u8 (pktOf s 0x0103 c) 0))), (askTier (toPort (u8 (pktOf s 0x0103 c) 0)) (putFields (PORT_RATE_CFG (toPort (u8 (pktOf s 0x0103 c) 0))) [(PORT_RATE_CFG.REQ_TIER (toPort (u8 (pktOf s 0x0103 c) 0)), u8 (pktOf s 0x0103 c) 1)] s)).fld (PORT_LINK_STATUS.TIER_RX (toPort (u8 (pktOf s 0x0103 c) 0))), max (u8 (pktOf s 0x0103 c) 1) ((askTier (toPort (u8 (pktOf s 0x0103 c) 0)) (putFields (PORT_RATE_CFG (toPort (u8 (pktOf s 0x0103 c) 0))) [(PORT_RATE_CFG.REQ_TIER (toPort (u8 (pktOf s 0x0103 c) 0)), u8 (pktOf s 0x0103 c) 1)] s)).fld (PORT_STARTUP_RESULT.MAX_TIER (toPort (u8 (pktOf s 0x0103 c) 0)))), 0]) s t ∧ OnlyReplied ((askTier (toPort (u8 (pktOf s 0x0103 c) 0)) (putFields (PORT_RATE_CFG (toPort (u8 (pktOf s 0x0103 c) 0))) [(PORT_RATE_CFG.REQ_TIER (toPort (u8 (pktOf s 0x0103 c) 0)), u8 (pktOf s 0x0103 c) 1)] s))) t) ∧
  (∀ (c : Call) (s : State), Admits 0x0104 inST c s → paramLen (pktOf s 0x0104 c) = 1 → u8 (pktOf s 0x0104 c) 0 < 128 → needs [PORT_LINK_STATUS (toPort (u8 (pktOf s 0x0104 c) 0)), PORT_STARTUP_STATUS (toPort (u8 (pktOf s 0x0104 c) 0)), PORT_MODE_EFFECTIVE (toPort (u8 (pktOf s 0x0104 c) 0)), PORT_MODE_INACTIVE (toPort (u8 (pktOf s 0x0104 c) 0)), PORT_QUALITY (toPort (u8 (pktOf s 0x0104 c) 0)), PORT_FRAMING_TX (toPort (u8 (pktOf s 0x0104 c) 0)), PORT_FRAMING_RX (toPort (u8 (pktOf s 0x0104 c) 0)), PORT_STAGE_NOW (toPort (u8 (pktOf s 0x0104 c) 0)), EEI_STATUS (toPort (u8 (pktOf s 0x0104 c) 0)), TT_STATUS (toPort (u8 (pktOf s 0x0104 c) 0)), TT_BOUND (toPort (u8 (pktOf s 0x0104 c) 0))] s = (0, s) →
    ∃ t : State, exec (.portStatus c) s = .next t ∧ Answered 0x0104 c 0 ((readBytes [PORT_LINK_STATUS (toPort (u8 (pktOf s 0x0104 c) 0)), PORT_STARTUP_STATUS (toPort (u8 (pktOf s 0x0104 c) 0)), PORT_MODE_EFFECTIVE (toPort (u8 (pktOf s 0x0104 c) 0)), PORT_MODE_INACTIVE (toPort (u8 (pktOf s 0x0104 c) 0)), PORT_QUALITY (toPort (u8 (pktOf s 0x0104 c) 0)), PORT_FRAMING_TX (toPort (u8 (pktOf s 0x0104 c) 0)), PORT_FRAMING_RX (toPort (u8 (pktOf s 0x0104 c) 0)), PORT_STAGE_NOW (toPort (u8 (pktOf s 0x0104 c) 0)), EEI_STATUS (toPort (u8 (pktOf s 0x0104 c) 0)), TT_STATUS (toPort (u8 (pktOf s 0x0104 c) 0)), TT_BOUND (toPort (u8 (pktOf s 0x0104 c) 0))] s).1) s t ∧ OnlyReplied ((readBytes [PORT_LINK_STATUS (toPort (u8 (pktOf s 0x0104 c) 0)), PORT_STARTUP_STATUS (toPort (u8 (pktOf s 0x0104 c) 0)), PORT_MODE_EFFECTIVE (toPort (u8 (pktOf s 0x0104 c) 0)), PORT_MODE_INACTIVE (toPort (u8 (pktOf s 0x0104 c) 0)), PORT_QUALITY (toPort (u8 (pktOf s 0x0104 c) 0)), PORT_FRAMING_TX (toPort (u8 (pktOf s 0x0104 c) 0)), PORT_FRAMING_RX (toPort (u8 (pktOf s 0x0104 c) 0)), PORT_STAGE_NOW (toPort (u8 (pktOf s 0x0104 c) 0)), EEI_STATUS (toPort (u8 (pktOf s 0x0104 c) 0)), TT_STATUS (toPort (u8 (pktOf s 0x0104 c) 0)), TT_BOUND (toPort (u8 (pktOf s 0x0104 c) 0))] s).2) t) ∧
  (∀ (c : Call) (s : State), Admits 0x0105 inST c s → paramLen (pktOf s 0x0105 c) = 0 → needs ((List.range 128).flatMap (summaryRegs s)) s = (0, s) →
    ∃ t : State, exec (.portSummary c) s = .next t ∧ Answered 0x0105 c 0 ((summaryBytes (List.range 128) s).1) s t ∧ OnlyReplied ((summaryBytes (List.range 128) s).2) t) ∧
  (∀ (c : Call) (s : State), Admits 0x0106 inST c s → paramLen (pktOf s 0x0106 c) = 3 → u8 (pktOf s 0x0106 c) 0 < 128 → u8 (pktOf s 0x0106 c) 1 ≤ 6 → u8 (pktOf s 0x0106 c) 2 = 0 → needs (counterSet (toPort (u8 (pktOf s 0x0106 c) 0)) (u8 (pktOf s 0x0106 c) 1)) s = (0, s) →
    ∃ t : State, exec (.portCounters c) s = .next t ∧ Answered 0x0106 c 0 ((readBytes (counterSet (toPort (u8 (pktOf s 0x0106 c) 0)) (u8 (pktOf s 0x0106 c) 1)) s).1) s t ∧ OnlyReplied ((readBytes (counterSet (toPort (u8 (pktOf s 0x0106 c) 0)) (u8 (pktOf s 0x0106 c) 1)) s).2) t) ∧
  (∀ (c : Call) (s : State), Admits 0x0106 inST c s → paramLen (pktOf s 0x0106 c) = 3 → u8 (pktOf s 0x0106 c) 0 < 128 → u8 (pktOf s 0x0106 c) 1 ≤ 6 → u8 (pktOf s 0x0106 c) 2 = 1 → needs (counterSet (toPort (u8 (pktOf s 0x0106 c) 0)) (u8 (pktOf s 0x0106 c) 1)) s = (0, s) →
    ∃ t : State, exec (.portCounters c) s = .next t ∧ Answered 0x0106 c 0 ((readBytes (counterSet (toPort (u8 (pktOf s 0x0106 c) 0)) (u8 (pktOf s 0x0106 c) 1)) s).1) s t ∧ OnlyReplied (forEach (counterSet (toPort (u8 (pktOf s 0x0106 c) 0)) (u8 (pktOf s 0x0106 c) 1)) clearCounter (readBytes (counterSet (toPort (u8 (pktOf s 0x0106 c) 0)) (u8 (pktOf s 0x0106 c) 1)) s).2) t) ∧
  (∀ (c : Call) (s : State), Admits 0x0107 inST c s → paramLen (pktOf s 0x0107 c) = 1 → u8 (pktOf s 0x0107 c) 0 < 128 → needs [PORT_OWN_ID (toPort (u8 (pktOf s 0x0107 c) 0)), PORT_PEER_ID (toPort (u8 (pktOf s 0x0107 c) 0)), PORT_PEER_TAG (toPort (u8 (pktOf s 0x0107 c) 0)), PORT_PEER_INFO (toPort (u8 (pktOf s 0x0107 c) 0)), PORT_STARTUP_RESULT (toPort (u8 (pktOf s 0x0107 c) 0))] s = (0, s) →
    ∃ t : State, exec (.portPeer c) s = .next t ∧ Answered 0x0107 c 0 ((readBytes [PORT_OWN_ID (toPort (u8 (pktOf s 0x0107 c) 0)), PORT_PEER_ID (toPort (u8 (pktOf s 0x0107 c) 0)), PORT_PEER_TAG (toPort (u8 (pktOf s 0x0107 c) 0)), PORT_PEER_INFO (toPort (u8 (pktOf s 0x0107 c) 0)), PORT_STARTUP_RESULT (toPort (u8 (pktOf s 0x0107 c) 0))] s).1) s t ∧ OnlyReplied ((readBytes [PORT_OWN_ID (toPort (u8 (pktOf s 0x0107 c) 0)), PORT_PEER_ID (toPort (u8 (pktOf s 0x0107 c) 0)), PORT_PEER_TAG (toPort (u8 (pktOf s 0x0107 c) 0)), PORT_PEER_INFO (toPort (u8 (pktOf s 0x0107 c) 0)), PORT_STARTUP_RESULT (toPort (u8 (pktOf s 0x0107 c) 0))] s).2) t) ∧
  (∀ (c : Call) (s : State), Admits 0x0108 inST c s → paramLen (pktOf s 0x0108 c) = 16 → u8 (pktOf s 0x0108 c) 0 < 128 → fits (applied (u8 (pktOf s 0x0108 c) 1) [(0, TT_PORT_CFG.FC_SEL (toPort (u8 (pktOf s 0x0108 c) 0)), u8 (pktOf s 0x0108 c) 2), (1, TT_PORT_CFG.PFC_MASK (toPort (u8 (pktOf s 0x0108 c) 0)), u8 (pktOf s 0x0108 c) 3)]) = true → needs [TT_PORT_CFG (toPort (u8 (pktOf s 0x0108 c) 0)), TT_FC_CFG (toPort (u8 (pktOf s 0x0108 c) 0)), TT_FC_BEDS (toPort (u8 (pktOf s 0x0108 c) 0)), TT_CAP (toPort (u8 (pktOf s 0x0108 c) 0))] s = (0, s) →
    ∃ t : State, exec (.portFlowctl c) s = .next t ∧ Answered 0x0108 c 0 ((readBytes [TT_PORT_CFG (toPort (u8 (pktOf s 0x0108 c) 0)), TT_FC_CFG (toPort (u8 (pktOf s 0x0108 c) 0)), TT_FC_BEDS (toPort (u8 (pktOf s 0x0108 c) 0)), TT_CAP (toPort (u8 (pktOf s 0x0108 c) 0))] (putFields (TT_CAP (toPort (u8 (pktOf s 0x0108 c) 0))) (applied (u8 (pktOf s 0x0108 c) 1) [(5, TT_CAP.CAP_TX (toPort (u8 (pktOf s 0x0108 c) 0)), u16 (pktOf s 0x0108 c) 12), (5, TT_CAP.CAP_RX (toPort (u8 (pktOf s 0x0108 c) 0)), u16 (pktOf s 0x0108 c) 14)]) (putFields (TT_FC_BEDS (toPort (u8 (pktOf s 0x0108 c) 0))) (applied (u8 (pktOf s 0x0108 c) 1) [(4, TT_FC_BEDS.XOFF_BEDS (toPort (u8 (pktOf s 0x0108 c) 0)), u16 (pktOf s 0x0108 c) 8), (4, TT_FC_BEDS.XON_BEDS (toPort (u8 (pktOf s 0x0108 c) 0)), u16 (pktOf s 0x0108 c) 10)]) (putFields (TT_FC_CFG (toPort (u8 (pktOf s 0x0108 c) 0))) (applied (u8 (pktOf s 0x0108 c) 1) [(2, TT_FC_CFG.QUANTA (toPort (u8 (pktOf s 0x0108 c) 0)), u16 (pktOf s 0x0108 c) 4), (3, TT_FC_CFG.XOFF_LAG (toPort (u8 (pktOf s 0x0108 c) 0)), u8 (pktOf s 0x0108 c) 6), (3, TT_FC_CFG.XON_LAG (toPort (u8 (pktOf s 0x0108 c) 0)), u8 (pktOf s 0x0108 c) 7)]) (putFields (TT_PORT_CFG (toPort (u8 (pktOf s 0x0108 c) 0))) (applied (u8 (pktOf s 0x0108 c) 1) [(0, TT_PORT_CFG.FC_SEL (toPort (u8 (pktOf s 0x0108 c) 0)), u8 (pktOf s 0x0108 c) 2), (1, TT_PORT_CFG.PFC_MASK (toPort (u8 (pktOf s 0x0108 c) 0)), u8 (pktOf s 0x0108 c) 3)]) s))))).1) s t ∧ OnlyReplied ((readBytes [TT_PORT_CFG (toPort (u8 (pktOf s 0x0108 c) 0)), TT_FC_CFG (toPort (u8 (pktOf s 0x0108 c) 0)), TT_FC_BEDS (toPort (u8 (pktOf s 0x0108 c) 0)), TT_CAP (toPort (u8 (pktOf s 0x0108 c) 0))] (putFields (TT_CAP (toPort (u8 (pktOf s 0x0108 c) 0))) (applied (u8 (pktOf s 0x0108 c) 1) [(5, TT_CAP.CAP_TX (toPort (u8 (pktOf s 0x0108 c) 0)), u16 (pktOf s 0x0108 c) 12), (5, TT_CAP.CAP_RX (toPort (u8 (pktOf s 0x0108 c) 0)), u16 (pktOf s 0x0108 c) 14)]) (putFields (TT_FC_BEDS (toPort (u8 (pktOf s 0x0108 c) 0))) (applied (u8 (pktOf s 0x0108 c) 1) [(4, TT_FC_BEDS.XOFF_BEDS (toPort (u8 (pktOf s 0x0108 c) 0)), u16 (pktOf s 0x0108 c) 8), (4, TT_FC_BEDS.XON_BEDS (toPort (u8 (pktOf s 0x0108 c) 0)), u16 (pktOf s 0x0108 c) 10)]) (putFields (TT_FC_CFG (toPort (u8 (pktOf s 0x0108 c) 0))) (applied (u8 (pktOf s 0x0108 c) 1) [(2, TT_FC_CFG.QUANTA (toPort (u8 (pktOf s 0x0108 c) 0)), u16 (pktOf s 0x0108 c) 4), (3, TT_FC_CFG.XOFF_LAG (toPort (u8 (pktOf s 0x0108 c) 0)), u8 (pktOf s 0x0108 c) 6), (3, TT_FC_CFG.XON_LAG (toPort (u8 (pktOf s 0x0108 c) 0)), u8 (pktOf s 0x0108 c) 7)]) (putFields (TT_PORT_CFG (toPort (u8 (pktOf s 0x0108 c) 0))) (applied (u8 (pktOf s 0x0108 c) 1) [(0, TT_PORT_CFG.FC_SEL (toPort (u8 (pktOf s 0x0108 c) 0)), u8 (pktOf s 0x0108 c) 2), (1, TT_PORT_CFG.PFC_MASK (toPort (u8 (pktOf s 0x0108 c) 0)), u8 (pktOf s 0x0108 c) 3)]) s))))).2) t) ∧
  (∀ (c : Call) (s : State), Admits 0x0109 inST c s → paramLen (pktOf s 0x0109 c) = 1 → u8 (pktOf s 0x0109 c) 0 < 128 → needs (allPairs.flatMap (fun q => [PAIR_SUB_LINK_STATUS (toPort (u8 (pktOf s 0x0109 c) 0)) q, PAIR_SUB_STARTUP (toPort (u8 (pktOf s 0x0109 c) 0)) q, PAIR_SUB_OWN_ID (toPort (u8 (pktOf s 0x0109 c) 0)) q, PAIR_SUB_PEER_ID (toPort (u8 (pktOf s 0x0109 c) 0)) q])) s = (0, s) →
    ∃ t : State, exec (.portSublinks c) s = .next t ∧ (Answered 0x0109 c 0 ((readBytes (allPairs.flatMap (fun q => [PAIR_SUB_LINK_STATUS (toPort (u8 (pktOf s 0x0109 c) 0)) q, PAIR_SUB_STARTUP (toPort (u8 (pktOf s 0x0109 c) 0)) q, PAIR_SUB_OWN_ID (toPort (u8 (pktOf s 0x0109 c) 0)) q, PAIR_SUB_PEER_ID (toPort (u8 (pktOf s 0x0109 c) 0)) q])) s).1) s t ∧ OnlyReplied ((readBytes (allPairs.flatMap (fun q => [PAIR_SUB_LINK_STATUS (toPort (u8 (pktOf s 0x0109 c) 0)) q, PAIR_SUB_STARTUP (toPort (u8 (pktOf s 0x0109 c) 0)) q, PAIR_SUB_OWN_ID (toPort (u8 (pktOf s 0x0109 c) 0)) q, PAIR_SUB_PEER_ID (toPort (u8 (pktOf s 0x0109 c) 0)) q])) s).2) t)) ∧
  (∀ (c : Call) (s : State), Admits 0x0201 inST c s → paramLen (pktOf s 0x0201 c) = 1 → u8 (pktOf s 0x0201 c) 0 < 136 → needs [HL_STATUS (u8 (pktOf s 0x0201 c) 0), HL_FAULT_STATUS (u8 (pktOf s 0x0201 c) 0), HL_RS_UNCORR (u8 (pktOf s 0x0201 c) 0), HL_AM_LOSS (u8 (pktOf s 0x0201 c) 0), HL_RS_CW (u8 (pktOf s 0x0201 c) 0), HL_RS_CW (u8 (pktOf s 0x0201 c) 0) + 4, HL_RS_CORR_SYM (u8 (pktOf s 0x0201 c) 0), HL_RS_CORR_SYM (u8 (pktOf s 0x0201 c) 0) + 4] s = (0, s) →
    ∃ t : State, exec (.hlStatus c) s = .next t ∧ Answered 0x0201 c 0 ((readBytes [HL_STATUS (u8 (pktOf s 0x0201 c) 0), HL_FAULT_STATUS (u8 (pktOf s 0x0201 c) 0), HL_RS_UNCORR (u8 (pktOf s 0x0201 c) 0), HL_AM_LOSS (u8 (pktOf s 0x0201 c) 0), HL_RS_CW (u8 (pktOf s 0x0201 c) 0), HL_RS_CW (u8 (pktOf s 0x0201 c) 0) + 4, HL_RS_CORR_SYM (u8 (pktOf s 0x0201 c) 0), HL_RS_CORR_SYM (u8 (pktOf s 0x0201 c) 0) + 4] s).1) s t ∧ OnlyReplied ((readBytes [HL_STATUS (u8 (pktOf s 0x0201 c) 0), HL_FAULT_STATUS (u8 (pktOf s 0x0201 c) 0), HL_RS_UNCORR (u8 (pktOf s 0x0201 c) 0), HL_AM_LOSS (u8 (pktOf s 0x0201 c) 0), HL_RS_CW (u8 (pktOf s 0x0201 c) 0), HL_RS_CW (u8 (pktOf s 0x0201 c) 0) + 4, HL_RS_CORR_SYM (u8 (pktOf s 0x0201 c) 0), HL_RS_CORR_SYM (u8 (pktOf s 0x0201 c) 0) + 4] s).2) t) ∧
  (∀ (c : Call) (s : State), Admits 0x0301 inST c s → paramLen (pktOf s 0x0301 c) = 2 → u16 (pktOf s 0x0301 c) 0 < 512 → needs ([DIAG_STATUS (portOf (u16 (pktOf s 0x0301 c) 0)) (pairOf (u16 (pktOf s 0x0301 c) 0)), DIAG_INFO (portOf (u16 (pktOf s 0x0301 c) 0)) (pairOf (u16 (pktOf s 0x0301 c) 0)), DIAG_TIME (portOf (u16 (pktOf s 0x0301 c) 0)) (pairOf (u16 (pktOf s 0x0301 c) 0))] ++ (List.range 16).map (fun j => DIAG_EVENT (portOf (u16 (pktOf s 0x0301 c) 0)) (pairOf (u16 (pktOf s 0x0301 c) 0)) j)) s = (0, s) →
    ∃ t : State, exec (.diagResult c) s = .next t ∧ (Answered 0x0301 c 0 ((readBytes ([DIAG_STATUS (portOf (u16 (pktOf s 0x0301 c) 0)) (pairOf (u16 (pktOf s 0x0301 c) 0)), DIAG_INFO (portOf (u16 (pktOf s 0x0301 c) 0)) (pairOf (u16 (pktOf s 0x0301 c) 0)), DIAG_TIME (portOf (u16 (pktOf s 0x0301 c) 0)) (pairOf (u16 (pktOf s 0x0301 c) 0))] ++ (List.range 16).map (fun j => DIAG_EVENT (portOf (u16 (pktOf s 0x0301 c) 0)) (pairOf (u16 (pktOf s 0x0301 c) 0)) j)) s).1) s t ∧ OnlyReplied ((readBytes ([DIAG_STATUS (portOf (u16 (pktOf s 0x0301 c) 0)) (pairOf (u16 (pktOf s 0x0301 c) 0)), DIAG_INFO (portOf (u16 (pktOf s 0x0301 c) 0)) (pairOf (u16 (pktOf s 0x0301 c) 0)), DIAG_TIME (portOf (u16 (pktOf s 0x0301 c) 0)) (pairOf (u16 (pktOf s 0x0301 c) 0))] ++ (List.range 16).map (fun j => DIAG_EVENT (portOf (u16 (pktOf s 0x0301 c) 0)) (pairOf (u16 (pktOf s 0x0301 c) 0)) j)) s).2) t))

/-- Each host lane command answers OK, or the multi header, with the results of its layout; eye scans and PRBS run under the claim the agent holds; the
spare commands act through the spare registers. The conditions of each command: the Porter not halted, no reset under way or due, READY, one of its
phases, NOREPLY clear, the length of its layout, its parameters in range, its registers reachable. Answered: the final reply that is kept last is that
of this command, with status and results; only replied: nothing else of the state differs but the reply counters, the executor, what is kept and sent.
Each clause concludes that the command completes, exec answering a next state: hlEnable, hlFfe, hlSpareSet, hlSpareAct, hlEyeScan, hlEyeResult,
hlPrbs, hlPrbsRead, hlPrbsInject. (R435, R425, R426, R427, R431) -/
def Obligations.HostLaneCommandsAnswer : Prop :=
  (∀ (c : Call) (s : State), Admits 0x0200 inST c s → paramLen (pktOf s 0x0200 c) = 19 → u8 (pktOf s 0x0200 c) 17 ≤ 1 → (u8 (pktOf s 0x0200 c) 18 ≤ 1 ∨ u8 (pktOf s 0x0200 c) 18 = 0xFF) →
    ∃ t : State, exec (.hlEnable c) s = .next t ∧ (Answered 0x0200 c (if (doItems (enableItem (u8 (pktOf s 0x0200 c) 17) (u8 (pktOf s 0x0200 c) 18)) (maskItems (pktOf s 0x0200 c) 0 17) 0 s).2.1 = 0 then 0 else 10) (multiHeader (doItems (enableItem (u8 (pktOf s 0x0200 c) 17) (u8 (pktOf s 0x0200 c) 18)) (maskItems (pktOf s 0x0200 c) 0 17) 0 s).1 (doItems (enableItem (u8 (pktOf s 0x0200 c) 17) (u8 (pktOf s 0x0200 c) 18)) (maskItems (pktOf s 0x0200 c) 0 17) 0 s).2.1) s t ∧ OnlyReplied (doItems (enableItem (u8 (pktOf s 0x0200 c) 17) (u8 (pktOf s 0x0200 c) 18)) (maskItems (pktOf s 0x0200 c) 0 17) 0 s).2.2 t)) ∧
  (∀ (c : Call) (s : State), Admits 0x0202 inST c s → paramLen (pktOf s 0x0202 c) = 4 → u8 (pktOf s 0x0202 c) 0 < 136 → fits [(HL_TX_FFE.PRE (u8 (pktOf s 0x0202 c) 0), u8 (pktOf s 0x0202 c) 1), (HL_TX_FFE.POST (u8 (pktOf s 0x0202 c) 0), u8 (pktOf s 0x0202 c) 2), (HL_TX_FFE.AMP (u8 (pktOf s 0x0202 c) 0), u8 (pktOf s 0x0202 c) 3)] = true → needs [HL_TX_FFE (u8 (pktOf s 0x0202 c) 0), HL_STATUS (u8 (pktOf s 0x0202 c) 0)] s = (0, s) →
    ∃ t : State, exec (.hlFfe c) s = .next t ∧ Answered 0x0202 c 0 ((readBytes [HL_TX_FFE (u8 (pktOf s 0x0202 c) 0)] (putFields (HL_TX_FFE (u8 (pktOf s 0x0202 c) 0)) [(HL_TX_FFE.PRE (u8 (pktOf s 0x0202 c) 0), u8 (pktOf s 0x0202 c) 1), (HL_TX_FFE.POST (u8 (pktOf s 0x0202 c) 0), u8 (pktOf s 0x0202 c) 2), (HL_TX_FFE.AMP (u8 (pktOf s 0x0202 c) 0), u8 (pktOf s 0x0202 c) 3)] s)).1 ++ [(readBytes [HL_TX_FFE (u8 (pktOf s 0x0202 c) 0)] (putFields (HL_TX_FFE (u8 (pktOf s 0x0202 c) 0)) [(HL_TX_FFE.PRE (u8 (pktOf s 0x0202 c) 0), u8 (pktOf s 0x0202 c) 1), (HL_TX_FFE.POST (u8 (pktOf s 0x0202 c) 0), u8 (pktOf s 0x0202 c) 2), (HL_TX_FFE.AMP (u8 (pktOf s 0x0202 c) 0), u8 (pktOf s 0x0202 c) 3)] s)).2.fld (HL_STATUS.FFE_CLAMPED (u8 (pktOf s 0x0202 c) 0)), 0, 0, 0]) s t ∧ OnlyReplied ((readBytes [HL_TX_FFE (u8 (pktOf s 0x0202 c) 0)] (putFields (HL_TX_FFE (u8 (pktOf s 0x0202 c) 0)) [(HL_TX_FFE.PRE (u8 (pktOf s 0x0202 c) 0), u8 (pktOf s 0x0202 c) 1), (HL_TX_FFE.POST (u8 (pktOf s 0x0202 c) 0), u8 (pktOf s 0x0202 c) 2), (HL_TX_FFE.AMP (u8 (pktOf s 0x0202 c) 0), u8 (pktOf s 0x0202 c) 3)] s)).2) t) ∧
  (∀ (c : Call) (s : State), Admits 0x0203 inST c s → paramLen (pktOf s 0x0203 c) = 8 → u8 (pktOf s 0x0203 c) 0 < 8 → fits (applied (u8 (pktOf s 0x0203 c) 1) [(0, HL_SPARE_CFG.MODE (spareLane (u8 (pktOf s 0x0203 c) 0)), u8 (pktOf s 0x0203 c) 2), (1, HL_SPARE_CFG.RATE (spareLane (u8 (pktOf s 0x0203 c) 0)), u8 (pktOf s 0x0203 c) 3), (2, HL_SPARE_CFG.PREFER_EN (spareLane (u8 (pktOf s 0x0203 c) 0)), u8 (pktOf s 0x0203 c) 4), (2, HL_SPARE_CFG.PREFER (spareLane (u8 (pktOf s 0x0203 c) 0)), u8 (pktOf s 0x0203 c) 5), (3, HL_SPARE_CFG.HOST_WAIT (spareLane (u8 (pktOf s 0x0203 c) 0)), u16 (pktOf s 0x0203 c) 6)]) = true → needs [HL_SPARE_CFG (spareLane (u8 (pktOf s 0x0203 c) 0)), HL_SPARE_STATUS (spareLane (u8 (pktOf s 0x0203 c) 0))] s = (0, s) →
    ∃ t : State, exec (.hlSpareSet c) s = .next t ∧ Answered 0x0203 c 0 ((readBytes [HL_SPARE_CFG (spareLane (u8 (pktOf s 0x0203 c) 0)), HL_SPARE_STATUS (spareLane (u8 (pktOf s 0x0203 c) 0))] (putFields (HL_SPARE_CFG (spareLane (u8 (pktOf s 0x0203 c) 0))) (applied (u8 (pktOf s 0x0203 c) 1) [(0, HL_SPARE_CFG.MODE (spareLane (u8 (pktOf s 0x0203 c) 0)), u8 (pktOf s 0x0203 c) 2), (1, HL_SPARE_CFG.RATE (spareLane (u8 (pktOf s 0x0203 c) 0)), u8 (pktOf s 0x0203 c) 3), (2, HL_SPARE_CFG.PREFER_EN (spareLane (u8 (pktOf s 0x0203 c) 0)), u8 (pktOf s 0x0203 c) 4), (2, HL_SPARE_CFG.PREFER (spareLane (u8 (pktOf s 0x0203 c) 0)), u8 (pktOf s 0x0203 c) 5), (3, HL_SPARE_CFG.HOST_WAIT (spareLane (u8 (pktOf s 0x0203 c) 0)), u16 (pktOf s 0x0203 c) 6)]) s)).1) s t ∧ OnlyReplied ((readBytes [HL_SPARE_CFG (spareLane (u8 (pktOf s 0x0203 c) 0)), HL_SPARE_STATUS (spareLane (u8 (pktOf s 0x0203 c) 0))] (putFields (HL_SPARE_CFG (spareLane (u8 (pktOf s 0x0203 c) 0))) (applied (u8 (pktOf s 0x0203 c) 1) [(0, HL_SPARE_CFG.MODE (spareLane (u8 (pktOf s 0x0203 c) 0)), u8 (pktOf s 0x0203 c) 2), (1, HL_SPARE_CFG.RATE (spareLane (u8 (pktOf s 0x0203 c) 0)), u8 (pktOf s 0x0203 c) 3), (2, HL_SPARE_CFG.PREFER_EN (spareLane (u8 (pktOf s 0x0203 c) 0)), u8 (pktOf s 0x0203 c) 4), (2, HL_SPARE_CFG.PREFER (spareLane (u8 (pktOf s 0x0203 c) 0)), u8 (pktOf s 0x0203 c) 5), (3, HL_SPARE_CFG.HOST_WAIT (spareLane (u8 (pktOf s 0x0203 c) 0)), u16 (pktOf s 0x0203 c) 6)]) s)).2) t) ∧
  (∀ (c : Call) (s : State), Admits 0x0204 inST c s → paramLen (pktOf s 0x0204 c) = 3 → u8 (pktOf s 0x0204 c) 0 < 8 → 1 ≤ u8 (pktOf s 0x0204 c) 1 → u8 (pktOf s 0x0204 c) 1 ≤ 3 → (u8 (pktOf s 0x0204 c) 1 = 1 → u8 (pktOf s 0x0204 c) 2 ≤ 15) → needs [HL_SPARE_CTRL (spareLane (u8 (pktOf s 0x0204 c) 0)), HL_SPARE_STATUS (spareLane (u8 (pktOf s 0x0204 c) 0))] s = (0, s) →
    ∃ t : State, exec (.hlSpareAct c) s = .next t ∧ Answered 0x0204 c 0 ((readBytes [HL_SPARE_STATUS (spareLane (u8 (pktOf s 0x0204 c) 0))] (ignoredBy (HL_SPARE_STATUS.CMD_IGNORED (spareLane (u8 (pktOf s 0x0204 c) 0))) (writeWord (HL_SPARE_CTRL (spareLane (u8 (pktOf s 0x0204 c) 0))) (spareDoorbell (u8 (pktOf s 0x0204 c) 1) (u8 (pktOf s 0x0204 c) 2))) s).2).1 ++ [(ignoredBy (HL_SPARE_STATUS.CMD_IGNORED (spareLane (u8 (pktOf s 0x0204 c) 0))) (writeWord (HL_SPARE_CTRL (spareLane (u8 (pktOf s 0x0204 c) 0))) (spareDoorbell (u8 (pktOf s 0x0204 c) 1) (u8 (pktOf s 0x0204 c) 2))) s).1.toNat]) s t ∧ OnlyReplied ((readBytes [HL_SPARE_STATUS (spareLane (u8 (pktOf s 0x0204 c) 0))] (ignoredBy (HL_SPARE_STATUS.CMD_IGNORED (spareLane (u8 (pktOf s 0x0204 c) 0))) (writeWord (HL_SPARE_CTRL (spareLane (u8 (pktOf s 0x0204 c) 0))) (spareDoorbell (u8 (pktOf s 0x0204 c) 1) (u8 (pktOf s 0x0204 c) 2))) s).2).2) t) ∧
  (∀ (c : Call) (cl : Claim) (s : State), Admits 0x0205 inST c s → paramLen (pktOf s 0x0205 c) = 8 → eyeParamsOk (pktOf s 0x0205 c) = true → (eyeGrid (pktOf s 0x0205 c)).length ≤ 1024 → recordsFull s = false → needs [HL_EYE_STATUS (u8 (pktOf s 0x0205 c) 0)] s = (0, s) → heldClaim s (pktOf s 0x0205 c).call.src 4 (u8 (pktOf s 0x0205 c) 0) = some cl → s.flag (HL_EYE_STATUS.BUSY (u8 (pktOf s 0x0205 c) 0)) = false → laneState s (u8 (pktOf s 0x0205 c) 0) ≠ 0 →
    ∃ t : State, exec (.hlEyeScan c) s = .next t ∧ (Answered 0x0205 c 0 (jobResult (nextJob s) cl.handle) s t ∧ t.flag (HL_EYE_STATUS.BUSY (u8 (pktOf s 0x0205 c) 0)) = true ∧ (t.lane (u8 (pktOf s 0x0205 c) 0)).eyeJob = nextJob s ∧ ∃ j ∈ t.jobs, j.num = nextJob s ∧ j.op = 0x0205 ∧ j.grid = eyeGrid (pktOf s 0x0205 c))) ∧
  (∀ (c : Call) (points : Nat) (es : List Nat) (s : State), Admits 0x0206 inST c s → paramLen (pktOf s 0x0206 c) = 6 → eyeOf s (u16 (pktOf s 0x0206 c) 0) = some (points, es) → 1 ≤ u16 (pktOf s 0x0206 c) 4 → u16 (pktOf s 0x0206 c) 4 ≤ 255 → u16 (pktOf s 0x0206 c) 2 + u16 (pktOf s 0x0206 c) 4 ≤ points →
    ∃ t : State, exec (.hlEyeResult c) s = .next t ∧ Answered 0x0206 c 0 (bytesLsb 2 points ++ [0, 0] ++ (eyeWords es (u16 (pktOf s 0x0206 c) 4) (u16 (pktOf s 0x0206 c) 2) s).1) s t ∧ OnlyReplied ((eyeWords es (u16 (pktOf s 0x0206 c) 4) (u16 (pktOf s 0x0206 c) 2) s).2) t) ∧
  (∀ (c : Call) (cl : Claim) (s : State), Admits 0x0207 inST c s → paramLen (pktOf s 0x0207 c) = 26 → u8 (pktOf s 0x0207 c) 0 < 136 → u8 (pktOf s 0x0207 c) 1 = 1 → u8 (pktOf s 0x0207 c) 2 ≤ 1 → u8 (pktOf s 0x0207 c) 3 ≤ 3 → u8 (pktOf s 0x0207 c) 4 ≤ 3 → needs [HL_PRBS_CTRL (u8 (pktOf s 0x0207 c) 0)] s = (0, s) → heldClaim s (pktOf s 0x0207 c).call.src 6 (u8 (pktOf s 0x0207 c) 0) = some cl →
    ∃ t : State, exec (.hlPrbs c) s = .next t ∧ (Answered 0x0207 c 0 ((readBytes [HL_PRBS_CTRL (u8 (pktOf s 0x0207 c) 0), HL_PRBS_STATUS (u8 (pktOf s 0x0207 c) 0)] (forEach (List.range 5) (fun i s => writeWord (HL_PRBS_USER (u8 (pktOf s 0x0207 c) 0) i) (u32 (pktOf s 0x0207 c) (6 + 4 * i)) s) (putFields (HL_PRBS_CTRL (u8 (pktOf s 0x0207 c) 0)) [(HL_PRBS_CTRL.TX_EN (u8 (pktOf s 0x0207 c) 0), u8 (pktOf s 0x0207 c) 1), (HL_PRBS_CTRL.RX_EN (u8 (pktOf s 0x0207 c) 0), u8 (pktOf s 0x0207 c) 2), (HL_PRBS_CTRL.TX_PAT (u8 (pktOf s 0x0207 c) 0), u8 (pktOf s 0x0207 c) 3), (HL_PRBS_CTRL.RX_PAT (u8 (pktOf s 0x0207 c) 0), u8 (pktOf s 0x0207 c) 4), (HL_PRBS_CTRL.USER_LEN (u8 (pktOf s 0x0207 c) 0), u8 (pktOf s 0x0207 c) 5)] s))).1) s t ∧ OnlyReplied ((readBytes [HL_PRBS_CTRL (u8 (pktOf s 0x0207 c) 0), HL_PRBS_STATUS (u8 (pktOf s 0x0207 c) 0)] (forEach (List.range 5) (fun i s => writeWord (HL_PRBS_USER (u8 (pktOf s 0x0207 c) 0) i) (u32 (pktOf s 0x0207 c) (6 + 4 * i)) s) (putFields (HL_PRBS_CTRL (u8 (pktOf s 0x0207 c) 0)) [(HL_PRBS_CTRL.TX_EN (u8 (pktOf s 0x0207 c) 0), u8 (pktOf s 0x0207 c) 1), (HL_PRBS_CTRL.RX_EN (u8 (pktOf s 0x0207 c) 0), u8 (pktOf s 0x0207 c) 2), (HL_PRBS_CTRL.TX_PAT (u8 (pktOf s 0x0207 c) 0), u8 (pktOf s 0x0207 c) 3), (HL_PRBS_CTRL.RX_PAT (u8 (pktOf s 0x0207 c) 0), u8 (pktOf s 0x0207 c) 4), (HL_PRBS_CTRL.USER_LEN (u8 (pktOf s 0x0207 c) 0), u8 (pktOf s 0x0207 c) 5)] s))).2) t)) ∧
  (∀ (c : Call) (s : State), Admits 0x0208 inST c s → paramLen (pktOf s 0x0208 c) = 2 → u8 (pktOf s 0x0208 c) 0 < 136 → u8 (pktOf s 0x0208 c) 1 ≤ 1 → needs [HL_PRBS_BITS (u8 (pktOf s 0x0208 c) 0), HL_PRBS_BITS (u8 (pktOf s 0x0208 c) 0) + 4, HL_PRBS_ERR (u8 (pktOf s 0x0208 c) 0), HL_PRBS_ERR (u8 (pktOf s 0x0208 c) 0) + 4, HL_PRBS_STATUS (u8 (pktOf s 0x0208 c) 0)] s = (0, s) →
    ∃ t : State, exec (.hlPrbsRead c) s = .next t ∧ (Answered 0x0208 c 0 ((readBytes [HL_PRBS_BITS (u8 (pktOf s 0x0208 c) 0), HL_PRBS_BITS (u8 (pktOf s 0x0208 c) 0) + 4, HL_PRBS_ERR (u8 (pktOf s 0x0208 c) 0), HL_PRBS_ERR (u8 (pktOf s 0x0208 c) 0) + 4, HL_PRBS_STATUS (u8 (pktOf s 0x0208 c) 0)] s).1) s t ∧ OnlyReplied (if u8 (pktOf s 0x0208 c) 1 = 1 then clearCounter (HL_PRBS_ERR (u8 (pktOf s 0x0208 c) 0)) (clearCounter (HL_PRBS_BITS (u8 (pktOf s 0x0208 c) 0)) (readBytes [HL_PRBS_BITS (u8 (pktOf s 0x0208 c) 0), HL_PRBS_BITS (u8 (pktOf s 0x0208 c) 0) + 4, HL_PRBS_ERR (u8 (pktOf s 0x0208 c) 0), HL_PRBS_ERR (u8 (pktOf s 0x0208 c) 0) + 4, HL_PRBS_STATUS (u8 (pktOf s 0x0208 c) 0)] s).2) else (readBytes [HL_PRBS_BITS (u8 (pktOf s 0x0208 c) 0), HL_PRBS_BITS (u8 (pktOf s 0x0208 c) 0) + 4, HL_PRBS_ERR (u8 (pktOf s 0x0208 c) 0), HL_PRBS_ERR (u8 (pktOf s 0x0208 c) 0) + 4, HL_PRBS_STATUS (u8 (pktOf s 0x0208 c) 0)] s).2) t)) ∧
  (∀ (c : Call) (s : State), Admits 0x0209 inST c s → paramLen (pktOf s 0x0209 c) = 3 → u8 (pktOf s 0x0209 c) 0 < 136 → 1 ≤ u8 (pktOf s 0x0209 c) 1 → u8 (pktOf s 0x0209 c) 1 ≤ 2 → s.flag (HL_PRBS_CTRL.TX_EN (u8 (pktOf s 0x0209 c) 0)) = true → needs [HL_PRBS_CTRL (u8 (pktOf s 0x0209 c) 0)] s = (0, s) →
    ∃ t : State, exec (.hlPrbsInject c) s = .next t ∧ (Answered 0x0209 c 0 ([]) s t ∧ OnlyReplied (writeWord (HL_PRBS_CTRL (u8 (pktOf s 0x0209 c) 0)) (if u8 (pktOf s 0x0209 c) 1 = 1 then (keepWord s (HL_PRBS_CTRL (u8 (pktOf s 0x0209 c) 0))) + 2 ^ 17 else insertBits (keepWord s (HL_PRBS_CTRL (u8 (pktOf s 0x0209 c) 0))) 15 8 (u8 (pktOf s 0x0209 c) 2) + 2 ^ 16) s) t))

/-- DIAG_REFLECT and DIAG_MAPS are jobs; the reads answer the registers, maps, taps, history, profiles and SNR words named; DIAG_ABORT ends a REFLECT and
says whether one ran. The conditions of each command: the Porter not halted, no reset under way or due, READY, one of its phases, NOREPLY clear, the
length of its layout, its parameters in range, its registers reachable. Answered: the final reply that is kept last is that of this command, with
status and results; only replied: nothing else of the state differs but the reply counters, the executor, what is kept and sent. Each clause concludes
that the command completes, exec answering a next state: diagReflect, diagMaps, diagMapRead, diagTraceRead, diagHistory, diagProfile, diagSnr,
diagAbort. (R436, R317, R320, R325, R329, R331, R332) -/
def Obligations.DiagnosticCommandsAnswer : Prop :=
  (∀ (c : Call) (cl : Claim) (s : State), Admits 0x0300 inST c s → paramLen (pktOf s 0x0300 c) = 10 → u16 (pktOf s 0x0300 c) 0 < 512 → u8 (pktOf s 0x0300 c) 2 ≤ 3 → u8 (pktOf s 0x0300 c) 3 ≤ 1 → u8 (pktOf s 0x0300 c) 4 ≤ 15 → recordsFull s = false → needs [DIAG_CFG (portOf (u16 (pktOf s 0x0300 c) 0)), DIAG_STATUS (portOf (u16 (pktOf s 0x0300 c) 0)) (pairOf (u16 (pktOf s 0x0300 c) 0))] s = (0, s) → heldClaim s (pktOf s 0x0300 c).call.src 3 (u16 (pktOf s 0x0300 c) 0) = some cl →
    ∃ t : State, exec (.diagReflect c) s = .next t ∧ (Answered 0x0300 c 0 (jobResult (nextJob s) cl.handle) s t ∧ (∃ j ∈ t.jobs, j.num = nextJob s ∧ j.op = 0x0300 ∧ j.res = u16 (pktOf s 0x0300 c) 0 ∧ j.owns = false))) ∧
  (∀ (c : Call) (s : State), Admits 0x0302 inST c s → paramLen (pktOf s 0x0302 c) = 16 → recordsFull s = false → needs ((maskItems (pktOf s 0x0302 c) 0 16).map (fun n => DIAG_STATUS n 0)) s = (0, s) →
    ∃ t : State, exec (.diagMaps c) s = .next t ∧ (Answered 0x0302 c 0 (jobResult (nextJob s) 0) s t ∧ ∃ j ∈ t.jobs, j.num = nextJob s ∧ j.op = 0x0302 ∧ j.left = (maskItems (pktOf s 0x0302 c) 0 16).length)) ∧
  (∀ (c : Call) (s : State), Admits 0x0303 inST c s → paramLen (pktOf s 0x0303 c) = 8 → u16 (pktOf s 0x0303 c) 0 < 512 → u8 (pktOf s 0x0303 c) 2 ≤ 15 → 1 ≤ u16 (pktOf s 0x0303 c) 6 → u16 (pktOf s 0x0303 c) 4 + u16 (pktOf s 0x0303 c) 6 ≤ 512 → needs [DIAG_MAP_DATA (portOf (u16 (pktOf s 0x0303 c) 0)) (pairOf (u16 (pktOf s 0x0303 c) 0))] s = (0, s) →
    ∃ t : State, exec (.diagMapRead c) s = .next t ∧ (Answered 0x0303 c 0 ((List.range (u16 (pktOf s 0x0303 c) 6)).flatMap (fun i => bytesLsb 2 (s.mapAt (u16 (pktOf s 0x0303 c) 0) (u8 (pktOf s 0x0303 c) 2) (u16 (pktOf s 0x0303 c) 4 + i)))) s t ∧ OnlyReplied (s) t)) ∧
  (∀ (c : Call) (s : State), Admits 0x0304 inST c s → paramLen (pktOf s 0x0304 c) = 8 → u16 (pktOf s 0x0304 c) 0 < 512 → u8 (pktOf s 0x0304 c) 2 ≤ 3 → 1 ≤ u16 (pktOf s 0x0304 c) 6 → u16 (pktOf s 0x0304 c) 6 ≤ 512 → u16 (pktOf s 0x0304 c) 4 + u16 (pktOf s 0x0304 c) 6 ≤ 16384 → needs [DIAG_TRACE_DATA (portOf (u16 (pktOf s 0x0304 c) 0)) (pairOf (u16 (pktOf s 0x0304 c) 0))] s = (0, s) →
    ∃ t : State, exec (.diagTraceRead c) s = .next t ∧ (Answered 0x0304 c 0 ((List.range (u16 (pktOf s 0x0304 c) 6)).flatMap (fun i => bytesLsb 2 (s.tapAt (u16 (pktOf s 0x0304 c) 0) (u8 (pktOf s 0x0304 c) 2) (u16 (pktOf s 0x0304 c) 4 + i)))) s t ∧ OnlyReplied (s) t)) ∧
  (∀ (c : Call) (s : State), Admits 0x0305 inST c s → paramLen (pktOf s 0x0305 c) = 9 → u16 (pktOf s 0x0305 c) 0 < 512 → 1 ≤ u8 (pktOf s 0x0305 c) 8 → u8 (pktOf s 0x0305 c) 8 ≤ 63 → needs [DIAG_HIST_DATA (portOf (u16 (pktOf s 0x0305 c) 0)) (pairOf (u16 (pktOf s 0x0305 c) 0))] s = (0, s) →
    ∃ t : State, exec (.diagHistory c) s = .next t ∧ (Answered 0x0305 c 0 (bytesLsb 4 (((((s.diag (u16 (pktOf s 0x0305 c) 0)).recs.reverse.filter (fun r => reached r.1 (u32 (pktOf s 0x0305 c) 4))).take (u8 (pktOf s 0x0305 c) 8)).getLast?.map (fun r => nextSeq r.1)).getD (u32 (pktOf s 0x0305 c) 4)) ++ [(((s.diag (u16 (pktOf s 0x0305 c) 0)).recs.reverse.filter (fun r => reached r.1 (u32 (pktOf s 0x0305 c) 4))).take (u8 (pktOf s 0x0305 c) 8)).length] ++ List.replicate 11 0 ++ (((s.diag (u16 (pktOf s 0x0305 c) 0)).recs.reverse.filter (fun r => reached r.1 (u32 (pktOf s 0x0305 c) 4))).take (u8 (pktOf s 0x0305 c) 8)).flatMap (fun r => bytesLsb 4 r.1 ++ bytesLsb 4 r.2.1 ++ bytesLsb 4 r.2.2.1 ++ bytesLsb 4 r.2.2.2)) s t ∧ OnlyReplied (s) t)) ∧
  (∀ (c : Call) (x : Nat × Nat × List Nat) (s : State), Admits 0x0306 inST c s → paramLen (pktOf s 0x0306 c) = 3 → u16 (pktOf s 0x0306 c) 0 < 512 → u8 (pktOf s 0x0306 c) 2 ≤ 7 → (s.diag (u16 (pktOf s 0x0306 c) 0)).profiles[u8 (pktOf s 0x0306 c) 2]? = some x → needs [DIAG_HIST_DATA (portOf (u16 (pktOf s 0x0306 c) 0)) (pairOf (u16 (pktOf s 0x0306 c) 0))] s = (0, s) →
    ∃ t : State, exec (.diagProfile c) s = .next t ∧ Answered 0x0306 c 0 (bytesLsb 4 x.1 ++ [x.2.1, 0, 0, 0] ++ x.2.2.map (· % 256)) s t ∧ OnlyReplied (s) t) ∧
  (∀ (c : Call) (s : State), Admits 0x0306 inST c s → paramLen (pktOf s 0x0306 c) = 3 → u16 (pktOf s 0x0306 c) 0 < 512 → u8 (pktOf s 0x0306 c) 2 ≤ 7 → (s.diag (u16 (pktOf s 0x0306 c) 0)).profiles[u8 (pktOf s 0x0306 c) 2]? = none → needs [DIAG_HIST_DATA (portOf (u16 (pktOf s 0x0306 c) 0)) (pairOf (u16 (pktOf s 0x0306 c) 0))] s = (0, s) →
    ∃ t : State, exec (.diagProfile c) s = .next t ∧ Answered 0x0306 c 0 (List.replicate 5 0xFF ++ [0, 0, 0] ++ List.replicate 512 0xFF) s t ∧ OnlyReplied (s) t) ∧
  (∀ (c : Call) (s : State), Admits 0x0307 inST c s → paramLen (pktOf s 0x0307 c) = 6 → u16 (pktOf s 0x0307 c) 0 < 512 → 1 ≤ u16 (pktOf s 0x0307 c) 4 → u16 (pktOf s 0x0307 c) 4 ≤ 256 → u16 (pktOf s 0x0307 c) 2 + u16 (pktOf s 0x0307 c) 4 ≤ 512 → needs [PAIR_SNR_DATA (portOf (u16 (pktOf s 0x0307 c) 0)) (pairOf (u16 (pktOf s 0x0307 c) 0))] s = (0, s) →
    ∃ t : State, exec (.diagSnr c) s = .next t ∧ (Answered 0x0307 c 0 ((List.range (u16 (pktOf s 0x0307 c) 4)).flatMap (fun i => bytesLsb 4 (snrWord s (portOf (u16 (pktOf s 0x0307 c) 0)) (pairOf (u16 (pktOf s 0x0307 c) 0)) (u16 (pktOf s 0x0307 c) 2 + i)))) s t ∧ OnlyReplied (s) t)) ∧
  (∀ (c : Call) (s : State), Admits 0x0308 inST c s → paramLen (pktOf s 0x0308 c) = 2 → u16 (pktOf s 0x0308 c) 0 < 512 → needs [DIAG_STATUS (portOf (u16 (pktOf s 0x0308 c) 0)) (pairOf (u16 (pktOf s 0x0308 c) 0))] s = (0, s) →
    ∃ t : State, exec (.diagAbort c) s = .next t ∧ Answered 0x0308 c 0 ([(reflecting s (u16 (pktOf s 0x0308 c) 0)).toNat]) s t ∧ OnlyReplied (abortReflect (u16 (pktOf s 0x0308 c) 0) 7 s) t)

/-- CAL_RUN under a claim is a job that the item-target is asked for; CAL_STATUS has its two report forms; CAL_CFG and PWR_AVS write their fields;
CAL_SAVE stores the calibrations with one commit; EEI_SET is multi-item; EEI_WAKE wakes the ports in a depth; PWR_DOMAIN and PWR_STATUS answer what
the domains show. The conditions of each command: the Porter not halted, no reset under way or due, READY, one of its phases, NOREPLY clear, the
length of its layout, its parameters in range, its registers reachable. Answered: the final reply that is kept last is that of this command, with
status and results; only replied: nothing else of the state differs but the reply counters, the executor, what is kept and sent. Each clause concludes
that the command completes, exec answering a next state: calRun, calStatus, calCfg, calSave, eeiSet, eeiWake, pwrDomain, pwrAvs, pwrStatus. (R437,
R438, R490, R496, R497, R374) -/
def Obligations.CalibrationAndPowerCommandsAnswer : Prop :=
  (∀ (c : Call) (cl : Claim) (s : State), Admits 0x0400 inST c s → paramLen (pktOf s 0x0400 c) = 4 → calValid (u8 (pktOf s 0x0400 c) 0) (u16 (pktOf s 0x0400 c) 2) = true → recordsFull s = false → heldClaim s (pktOf s 0x0400 c).call.src 2 (calRes (u8 (pktOf s 0x0400 c) 0) (u16 (pktOf s 0x0400 c) 2)) = some cl →
    ∃ t : State, exec (.calRun c) s = .next t ∧ (Answered 0x0400 c 0 (jobResult (nextJob s) cl.handle) s t ∧ nextJob s ∈ (t.cal (u8 (pktOf s 0x0400 c) 0) (u16 (pktOf s 0x0400 c) 2)).asked ∧ ∃ j ∈ t.jobs, j.num = nextJob s ∧ j.op = (pktOf s 0x0400 c).op ∧ j.handle = cl.handle)) ∧
  (∀ (c : Call) (s : State), Admits 0x0401 inST c s → paramLen (pktOf s 0x0401 c) = 4 → calValid (u8 (pktOf s 0x0401 c) 0) (u16 (pktOf s 0x0401 c) 2) = true → s.flag CAL_CFG.REPORT = true →
    ∃ t : State, exec (.calStatus c) s = .next t ∧ (Answered 0x0401 c 0 ([1, if (s.cal (u8 (pktOf s 0x0401 c) 0) (u16 (pktOf s 0x0401 c) 2)).count = 0 then 0 else if (s.cal (u8 (pktOf s 0x0401 c) 0) (u16 (pktOf s 0x0401 c) 2)).lastFail then 2 else 1, (s.cal (u8 (pktOf s 0x0401 c) 0) (u16 (pktOf s 0x0401 c) 2)).stale.toNat, 0] ++ List.replicate 10 0 ++ bytesLsb 2 (unsigned 16 ((s.cal (u8 (pktOf s 0x0401 c) 0) (u16 (pktOf s 0x0401 c) 2)).tLast.getD 0))) s t ∧ OnlyReplied s t)) ∧
  (∀ (c : Call) (s : State), Admits 0x0401 inST c s → paramLen (pktOf s 0x0401 c) = 4 → calValid (u8 (pktOf s 0x0401 c) 0) (u16 (pktOf s 0x0401 c) 2) = true → s.flag CAL_CFG.REPORT = false →
    ∃ t : State, exec (.calStatus c) s = .next t ∧ Answered 0x0401 c 0 ([0, 0, (s.cal (u8 (pktOf s 0x0401 c) 0) (u16 (pktOf s 0x0401 c) 2)).stale.toNat, 0] ++ bytesLsb 4 (s.cal (u8 (pktOf s 0x0401 c) 0) (u16 (pktOf s 0x0401 c) 2)).count ++ bytesLsb 6 (s.cal (u8 (pktOf s 0x0401 c) 0) (u16 (pktOf s 0x0401 c) 2)).time ++ bytesLsb 2 (unsigned 16 ((s.cal (u8 (pktOf s 0x0401 c) 0) (u16 (pktOf s 0x0401 c) 2)).tLast.getD 0))) s t ∧ OnlyReplied s t) ∧
  (∀ (c : Call) (s : State), Admits 0x0402 inST c s → paramLen (pktOf s 0x0402 c) = 6 → fits (applied (u8 (pktOf s 0x0402 c) 0) [(0, CAL_CFG.REPORT, u8 (pktOf s 0x0402 c) 1), (1, CAL_CFG.VERIFY, u8 (pktOf s 0x0402 c) 2), (2, CAL_CFG.DTEMP, u16 (pktOf s 0x0402 c) 4)]) = true → (bit (u8 (pktOf s 0x0402 c) 0) 2 = true → 5 ≤ u16 (pktOf s 0x0402 c) 4 ∧ u16 (pktOf s 0x0402 c) 4 ≤ 200) →
    ∃ t : State, exec (.calCfg c) s = .next t ∧ Answered 0x0402 c 0 ([(putFields CAL_CFG (applied (u8 (pktOf s 0x0402 c) 0) [(0, CAL_CFG.REPORT, u8 (pktOf s 0x0402 c) 1), (1, CAL_CFG.VERIFY, u8 (pktOf s 0x0402 c) 2), (2, CAL_CFG.DTEMP, u16 (pktOf s 0x0402 c) 4)]) s).fld CAL_CFG.REPORT, (putFields CAL_CFG (applied (u8 (pktOf s 0x0402 c) 0) [(0, CAL_CFG.REPORT, u8 (pktOf s 0x0402 c) 1), (1, CAL_CFG.VERIFY, u8 (pktOf s 0x0402 c) 2), (2, CAL_CFG.DTEMP, u16 (pktOf s 0x0402 c) 4)]) s).fld CAL_CFG.VERIFY] ++ bytesLsb 2 (calDtemp (putFields CAL_CFG (applied (u8 (pktOf s 0x0402 c) 0) [(0, CAL_CFG.REPORT, u8 (pktOf s 0x0402 c) 1), (1, CAL_CFG.VERIFY, u8 (pktOf s 0x0402 c) 2), (2, CAL_CFG.DTEMP, u16 (pktOf s 0x0402 c) 4)]) s))) s t ∧ OnlyReplied ((putFields CAL_CFG (applied (u8 (pktOf s 0x0402 c) 0) [(0, CAL_CFG.REPORT, u8 (pktOf s 0x0402 c) 1), (1, CAL_CFG.VERIFY, u8 (pktOf s 0x0402 c) 2), (2, CAL_CFG.DTEMP, u16 (pktOf s 0x0402 c) 4)]) s)) t) ∧
  (∀ (c : Call) (fails : List Nat) (cl : Claim) (s : State), Admits 0x0403 inST c s → paramLen (pktOf s 0x0403 c) = 0 → recordsFull s = false → s.flag CLK_STATUS.REF_QUAL = true → heldClaim s (pktOf s 0x0403 c).call.src 7 2 = some cl → fails = [] →
    ∃ t : State, exec (.calSave c fails) s = .next t ∧ (Answered 0x0403 c 0 (jobResult (nextJob s) cl.handle) s t ∧ t.calSaved.map (fun x => x.2) = savedCals s :: s.calSaved.map (fun x => x.2) ∧ t.reg NV_COMMITS = s.reg NV_COMMITS + 1)) ∧
  (∀ (c : Call) (s : State), Admits 0x0500 inST c s → paramLen (pktOf s 0x0500 c) = 24 → fits (applied (u8 (pktOf s 0x0500 c) 16) [(0, EEI_WAKE_BUDGET.BUDGET 0, u32 (pktOf s 0x0500 c) 20), (1, EEI_CFG.MAX_DEPTH 0, u8 (pktOf s 0x0500 c) 17)]) = true →
    ∃ t : State, exec (.eeiSet c) s = .next t ∧ (Answered 0x0500 c (if (doItems (eeiItem (pktOf s 0x0500 c)) (maskItems (pktOf s 0x0500 c) 0 16) 0 s).2.1 = 0 then 0 else 10) (multiHeader (doItems (eeiItem (pktOf s 0x0500 c)) (maskItems (pktOf s 0x0500 c) 0 16) 0 s).1 (doItems (eeiItem (pktOf s 0x0500 c)) (maskItems (pktOf s 0x0500 c) 0 16) 0 s).2.1) s t ∧ OnlyReplied (doItems (eeiItem (pktOf s 0x0500 c)) (maskItems (pktOf s 0x0500 c) 0 16) 0 s).2.2 t)) ∧
  (∀ (c : Call) (s : State), Admits 0x0501 inST c s → paramLen (pktOf s 0x0501 c) = 16 →
    ∃ t : State, exec (.eeiWake c) s = .next t ∧ (Answered 0x0501 c 0 (maskBytes (fun n => ((maskItems (pktOf s 0x0501 c) 0 16).filter (fun n => !(restingLinks s (toPort n)).isEmpty)).contains n)) s t ∧ OnlyReplied (forEach ((maskItems (pktOf s 0x0501 c) 0 16).filter (fun n => !(restingLinks s (toPort n)).isEmpty)) (fun n s => forEach (restingLinks s (toPort n)) (fun l s => showLink l (wakeCause l 9 s)) s) s) t)) ∧
  (∀ (c : Call) (s : State), Admits 0x0502 inST c s → paramLen (pktOf s 0x0502 c) = 3 → u16 (pktOf s 0x0502 c) 0 ≤ 0xFFF → u8 (pktOf s 0x0502 c) 2 ≤ 2 →
    ∃ t : State, exec (.pwrDomain c) s = .next t ∧ Answered 0x0502 c 0 (bytesLsb 4 (domData (ignoredBy PWR_STATUS.CMD_IGNORED (writeWord PWR_DOM_CTRL (u8 (pktOf s 0x0502 c) 2 * 2 ^ 16 + u16 (pktOf s 0x0502 c) 0)) s).2 (u16 (pktOf s 0x0502 c) 0)) ++ [(ignoredBy PWR_STATUS.CMD_IGNORED (writeWord PWR_DOM_CTRL (u8 (pktOf s 0x0502 c) 2 * 2 ^ 16 + u16 (pktOf s 0x0502 c) 0)) s).1.toNat]) s t ∧ OnlyReplied ((ignoredBy PWR_STATUS.CMD_IGNORED (writeWord PWR_DOM_CTRL (u8 (pktOf s 0x0502 c) 2 * 2 ^ 16 + u16 (pktOf s 0x0502 c) 0)) s).2) t) ∧
  (∀ (c : Call) (s : State), Admits 0x0503 inST c s → paramLen (pktOf s 0x0503 c) = 6 → fits (applied (u8 (pktOf s 0x0503 c) 0) [(0, PWR_AVS_CFG.ENABLE, u8 (pktOf s 0x0503 c) 1), (1, PWR_AVS_CFG.VMIN, u16 (pktOf s 0x0503 c) 2), (2, PWR_AVS_CFG.VMAX, u16 (pktOf s 0x0503 c) 4)]) = true →
    ∃ t : State, exec (.pwrAvs c) s = .next t ∧ Answered 0x0503 c 0 ((readBytes [PWR_AVS_STATUS] (putFields PWR_AVS_CFG (applied (u8 (pktOf s 0x0503 c) 0) [(0, PWR_AVS_CFG.ENABLE, u8 (pktOf s 0x0503 c) 1), (1, PWR_AVS_CFG.VMIN, u16 (pktOf s 0x0503 c) 2), (2, PWR_AVS_CFG.VMAX, u16 (pktOf s 0x0503 c) 4)]) s)).1 ++ bytesLsb 2 ((readBytes [PWR_AVS_STATUS] (putFields PWR_AVS_CFG (applied (u8 (pktOf s 0x0503 c) 0) [(0, PWR_AVS_CFG.ENABLE, u8 (pktOf s 0x0503 c) 1), (1, PWR_AVS_CFG.VMIN, u16 (pktOf s 0x0503 c) 2), (2, PWR_AVS_CFG.VMAX, u16 (pktOf s 0x0503 c) 4)]) s)).2.fld PWR_AVS_IOUT.IOUT)) s t ∧ OnlyReplied ((readBytes [PWR_AVS_STATUS] (putFields PWR_AVS_CFG (applied (u8 (pktOf s 0x0503 c) 0) [(0, PWR_AVS_CFG.ENABLE, u8 (pktOf s 0x0503 c) 1), (1, PWR_AVS_CFG.VMIN, u16 (pktOf s 0x0503 c) 2), (2, PWR_AVS_CFG.VMAX, u16 (pktOf s 0x0503 c) 4)]) s)).2) t) ∧
  (∀ (c : Call) (s : State), Admits 0x0504 inST c s → paramLen (pktOf s 0x0504 c) = 0 →
    ∃ t : State, exec (.pwrStatus c) s = .next t ∧ Answered 0x0504 c 0 ((readBytes [PWR_RAIL_STATUS, PWR_AVS_STATUS, PWR_AVS_IOUT, PWR_WAKE_MAX, PWR_DOMAIN_FAULTS, PWR_DOMAIN_LAST_FAULT] (s)).1) s t ∧ OnlyReplied ((readBytes [PWR_RAIL_STATUS, PWR_AVS_STATUS, PWR_AVS_IOUT, PWR_WAKE_MAX, PWR_DOMAIN_FAULTS, PWR_DOMAIN_LAST_FAULT] (s)).2) t)

/-- NV_INFO and NV_READ answer from the array; NV_OPEN invalidates and opens the bank that load does not take; NV_WRITE puts the bytes; NV_COMMIT writes
the header where the CRC agrees and none where it does not; NV_CLOSE closes; NV_SAVE_CONFIG commits once; GB_INFO, GB_READ, GB_CLEAR and GB_RATE
answer and act on the Guestbook. The conditions of each command: the Porter not halted, no reset under way or due, READY, one of its phases, NOREPLY
clear, the length of its layout, its parameters in range, its registers reachable. Answered: the final reply that is kept last is that of this
command, with status and results; only replied: nothing else of the state differs but the reply counters, the executor, what is kept and sent. Each
clause concludes that the command completes, exec answering a next state: nvInfo, nvRead, nvOpen, nvWrite, nvCommit, nvClose, nvSaveConfig, gbInfo,
gbRead, gbClear, gbRate. (R439, R440, R441, R505, R508, R518) -/
def Obligations.StorageAndGuestbookCommandsAnswer : Prop :=
  (∀ (c : Call) (s : State), Admits 0x0600 inSTR c s → paramLen (pktOf s 0x0600 c) = 1 → u8 (pktOf s 0x0600 c) 0 < 4 →
    ∃ t : State, exec (.nvInfo c) s = .next t ∧ Answered 0x0600 c 0 (bankInfo s (u8 (pktOf s 0x0600 c) 0) 0 ++ bankInfo s (u8 (pktOf s 0x0600 c) 0) 1) s t ∧ OnlyReplied s t) ∧
  (∀ (c : Call) (b : Nat) (s : State), Admits 0x0601 inSTR c s → paramLen (pktOf s 0x0601 c) = 10 → u8 (pktOf s 0x0601 c) 0 < 4 → readBank s (u8 (pktOf s 0x0601 c) 0) (u8 (pktOf s 0x0601 c) 1) = some b → 1 ≤ u16 (pktOf s 0x0601 c) 8 → u16 (pktOf s 0x0601 c) 8 ≤ 1024 → u32 (pktOf s 0x0601 c) 4 + u16 (pktOf s 0x0601 c) 8 ≤ bodyMax (u8 (pktOf s 0x0601 c) 0) →
    ∃ t : State, exec (.nvRead c) s = .next t ∧ Answered 0x0601 c 0 (nvBytes s (bankBase (u8 (pktOf s 0x0601 c) 0) b + 32 + u32 (pktOf s 0x0601 c) 4) (u16 (pktOf s 0x0601 c) 8)) s t ∧ OnlyReplied s t) ∧
  (∀ (c : Call) (fails : List Nat) (cl : Claim) (s : State), Admits 0x0602 inSTR c s → paramLen (pktOf s 0x0602 c) = 1 → u8 (pktOf s 0x0602 c) 0 < 4 → s.flag CLK_STATUS.REF_QUAL = true → heldClaim s (pktOf s 0x0602 c).call.src (nvKind (u8 (pktOf s 0x0602 c) 0)) (u8 (pktOf s 0x0602 c) 0) = some cl → fails = [] →
    ∃ t : State, exec (.nvOpen c fails) s = .next t ∧ (Answered 0x0602 c 0 ([writeBank s (u8 (pktOf s 0x0602 c) 0), 0] ++ bytesLsb 2 cl.handle) s t ∧ OnlyReplied ({ invalidate (u8 (pktOf s 0x0602 c) 0) (writeBank s (u8 (pktOf s 0x0602 c) 0)) s with nvOpen := s.nvOpen.filter (fun o => o.part != u8 (pktOf s 0x0602 c) 0) ++ [⟨u8 (pktOf s 0x0602 c) 0, writeBank s (u8 (pktOf s 0x0602 c) 0), (pktOf s 0x0602 c).call.src, cl.handle⟩] }) t)) ∧
  (∀ (c : Call) (fails : List Nat) (o : NvOpen) (s : State), Admits 0x0603 inSTR c s → 9 ≤ paramLen (pktOf s 0x0603 c) ∧ paramLen (pktOf s 0x0603 c) ≤ 1024 → s.nvOpen.find? (fun o => o.part == u8 (pktOf s 0x0603 c) 0) = some o → s.claims.any (fun x => x.handle == o.handle) = true → o.src = (pktOf s 0x0603 c).call.src → u32 (pktOf s 0x0603 c) 4 + ((pktOf s 0x0603 c).call.body.drop 8).length ≤ bodyMax o.part → s.flag CLK_STATUS.REF_QUAL = true → fails = [] →
    ∃ t : State, exec (.nvWrite c fails) s = .next t ∧ Answered 0x0603 c 0 ([]) s t ∧ OnlyReplied (nvPut (bankBase o.part o.bank + 32 + u32 (pktOf s 0x0603 c) 4) ((pktOf s 0x0603 c).call.body.drop 8) s) t) ∧
  (∀ (c : Call) (fails : List Nat) (o : NvOpen) (s : State), Admits 0x0604 inSTR c s → paramLen (pktOf s 0x0604 c) = 12 → s.nvOpen.find? (fun o => o.part == u8 (pktOf s 0x0604 c) 0) = some o → s.claims.any (fun x => x.handle == o.handle) = true → o.src = (pktOf s 0x0604 c).call.src → u32 (pktOf s 0x0604 c) 4 ≤ bodyMax o.part → recordsFull s = false → s.flag CLK_STATUS.REF_QUAL = true → crc32c (nvBytes s (bankBase o.part o.bank + 32) (u32 (pktOf s 0x0604 c) 4)) = u32 (pktOf s 0x0604 c) 8 → fails = [] →
    ∃ t : State, exec (.nvCommit c fails) s = .next t ∧ Answered 0x0604 c 0 (jobResult (nextJob s) 0) s t ∧ t.reg NV_COMMITS = s.reg NV_COMMITS + 1 ∧ o ∉ t.nvOpen) ∧
  (∀ (c : Call) (fails : List Nat) (o : NvOpen) (s : State), Admits 0x0604 inSTR c s → paramLen (pktOf s 0x0604 c) = 12 → s.nvOpen.find? (fun o => o.part == u8 (pktOf s 0x0604 c) 0) = some o → s.claims.any (fun x => x.handle == o.handle) = true → o.src = (pktOf s 0x0604 c).call.src → u32 (pktOf s 0x0604 c) 4 ≤ bodyMax o.part → recordsFull s = false → s.flag CLK_STATUS.REF_QUAL = true → crc32c (nvBytes s (bankBase o.part o.bank + 32) (u32 (pktOf s 0x0604 c) 4)) ≠ u32 (pktOf s 0x0604 c) 8 →
    ∃ t : State, exec (.nvCommit c fails) s = .next t ∧ Answered 0x0604 c 0 (jobResult (nextJob s) 0) s t ∧ t.mram = s.mram ∧ o ∉ t.nvOpen) ∧
  (∀ (c : Call) (o : NvOpen) (s : State), Admits 0x0605 inSTR c s → paramLen (pktOf s 0x0605 c) = 1 → s.nvOpen.find? (fun o => o.part == u8 (pktOf s 0x0605 c) 0) = some o → s.claims.any (fun x => x.handle == o.handle) = true → o.src = (pktOf s 0x0605 c).call.src →
    ∃ t : State, exec (.nvClose c) s = .next t ∧ Answered 0x0605 c 0 ([]) s t ∧ OnlyReplied (closeNv o s) t ∧ o ∉ t.nvOpen) ∧
  (∀ (c : Call) (fails : List Nat) (cl : Claim) (s : State), Admits 0x0606 inSTR c s → paramLen (pktOf s 0x0606 c) = 0 → recordsFull s = false → s.flag CLK_STATUS.REF_QUAL = true → heldClaim s (pktOf s 0x0606 c).call.src 7 1 = some cl → fails = [] →
    ∃ t : State, exec (.nvSaveConfig c fails) s = .next t ∧ Answered 0x0606 c 0 (jobResult (nextJob s) cl.handle) s t ∧ t.reg NV_COMMITS = s.reg NV_COMMITS + 1) ∧
  (∀ (c : Call) (s : State), Admits 0x0700 inSTR c s → paramLen (pktOf s 0x0700 c) = 0 →
    ∃ t : State, exec (.gbInfo c) s = .next t ∧ Answered 0x0700 c 0 (bytesLsb 4 (s.reg GB_RECORDED).toNat ++ bytesLsb 2 (s.fld GB_STATUS.NEXT) ++ bytesLsb 2 (s.fld GB_STATUS.NEXT) ++ bytesLsb 4 (s.reg GB_LOST).toNat ++ bytesLsb 4 (s.reg GB_SUPPRESSED).toNat ++ [s.fld GB_STATUS.FULL, s.fld MR_STATUS.LARGE_CHAIN, 0, 0]) s t ∧ OnlyReplied s t) ∧
  (∀ (c : Call) (s : State), Admits 0x0701 inSTR c s → paramLen (pktOf s 0x0701 c) = 3 → u16 (pktOf s 0x0701 c) 0 ≤ 32767 → 1 ≤ u8 (pktOf s 0x0701 c) 2 → u8 (pktOf s 0x0701 c) 2 ≤ 32 →
    ∃ t : State, exec (.gbRead c) s = .next t ∧ (Answered 0x0701 c 0 ((List.range (u8 (pktOf s 0x0701 c) 2)).flatMap (fun i => slotRead s ((u16 (pktOf s 0x0701 c) 0 + i) % 32768))) s t ∧ OnlyReplied s t)) ∧
  (∀ (c : Call) (s : State), Admits 0x0702 inSTR c s → paramLen (pktOf s 0x0702 c) = 0 →
    ∃ t : State, exec (.gbClear c) s = .next t ∧ (Answered 0x0702 c 0 (bytesLsb 4 (if s.flag GB_STATUS.FULL then 32767 else s.fld GB_STATUS.NEXT)) s t ∧ OnlyReplied ((gbClear s).2) t)) ∧
  (∀ (c : Call) (s : State), Admits 0x0703 inSTR c s → paramLen (pktOf s 0x0703 c) = 3 → u16 (pktOf s 0x0703 c) 0 = 0xFFFF →
    ∃ t : State, exec (.gbRate c) s = .next t ∧ Answered 0x0703 c 0 ([]) s t ∧ OnlyReplied (writeWord GB_RATE_DEFAULT (u8 (pktOf s 0x0703 c) 2) s) t) ∧
  (∀ (c : Call) (s : State), Admits 0x0703 inSTR c s → paramLen (pktOf s 0x0703 c) = 3 → u16 (pktOf s 0x0703 c) 0 ≠ 0xFFFF → u8 (pktOf s 0x0703 c) 2 = s.fld GB_RATE_DEFAULT.LIMIT →
    ∃ t : State, exec (.gbRate c) s = .next t ∧ (Answered 0x0703 c 0 ([]) s t ∧ OnlyReplied ({ s with gbLimits := (s.gbLimits.filter (fun x => x.1 != u16 (pktOf s 0x0703 c) 0)) }) t)) ∧
  (∀ (c : Call) (s : State), Admits 0x0703 inSTR c s → paramLen (pktOf s 0x0703 c) = 3 → u16 (pktOf s 0x0703 c) 0 ≠ 0xFFFF → u8 (pktOf s 0x0703 c) 2 ≠ s.fld GB_RATE_DEFAULT.LIMIT → (s.gbLimits.filter (fun x => x.1 != u16 (pktOf s 0x0703 c) 0)).length < 64 →
    ∃ t : State, exec (.gbRate c) s = .next t ∧ (Answered 0x0703 c 0 ([]) s t ∧ OnlyReplied ({ s with gbLimits := (s.gbLimits.filter (fun x => x.1 != u16 (pktOf s 0x0703 c) 0)) ++ [(u16 (pktOf s 0x0703 c) 0, u8 (pktOf s 0x0703 c) 2)] }) t))

/-- CNC_CLAIM answers the handle of a new or a held claim; CNC_RELEASE ends its use and no claim of that handle is left; CNC_LIST lists; SLICE_SWAP holds
a spare and begins the copy; BIST_RUN puts a test on the list; BIST_CFG writes its fields; PORTER_SWITCH makes the standby pair the active one. The
conditions of each command: the Porter not halted, no reset under way or due, READY, one of its phases, NOREPLY clear, the length of its layout, its
parameters in range, its registers reachable. Answered: the final reply that is kept last is that of this command, with status and results; only
replied: nothing else of the state differs but the reply counters, the executor, what is kept and sent. Each clause concludes that the command
completes, exec answering a next state: cncClaim, cncRelease, cncList, sliceSwap, bistRun, bistCfg, porterSwitch. (R443, R431, R540, R541, R542, R528) -/
def Obligations.ConciergeCommandsAnswer : Prop :=
  (∀ (c : Call) (s : State), Admits 0x0900 inST c s → paramLen (pktOf s 0x0900 c) = 8 → claimOk s (u8 (pktOf s 0x0900 c) 0) (u32 (pktOf s 0x0900 c) 4) = true → heldClaim s (pktOf s 0x0900 c).call.src (u8 (pktOf s 0x0900 c) 0) (u32 (pktOf s 0x0900 c) 4) = none → grantable s (u8 (pktOf s 0x0900 c) 0) (u32 (pktOf s 0x0900 c) 4) = true →
    ∃ t : State, exec (.cncClaim c) s = .next t ∧ Answered 0x0900 c 0 (bytesLsb 2 (nextHandle s)) s t ∧ t.claims = s.claims ++ [⟨nextHandle s, u8 (pktOf s 0x0900 c) 0, u32 (pktOf s 0x0900 c) 4, claimPair s (u8 (pktOf s 0x0900 c) 0) (u32 (pktOf s 0x0900 c) 4), (pktOf s 0x0900 c).call.src, true⟩]) ∧
  (∀ (c : Call) (cl : Claim) (s : State), Admits 0x0900 inST c s → paramLen (pktOf s 0x0900 c) = 8 → claimOk s (u8 (pktOf s 0x0900 c) 0) (u32 (pktOf s 0x0900 c) 4) = true → heldClaim s (pktOf s 0x0900 c).call.src (u8 (pktOf s 0x0900 c) 0) (u32 (pktOf s 0x0900 c) 4) = some cl →
    ∃ t : State, exec (.cncClaim c) s = .next t ∧ Answered 0x0900 c 0 (bytesLsb 2 cl.handle) s t ∧ OnlyReplied s t) ∧
  (∀ (c : Call) (x : Claim) (s : State), Admits 0x0901 inST c s → paramLen (pktOf s 0x0901 c) = 2 → s.claims.find? (fun x => x.handle == u16 (pktOf s 0x0901 c) 0 && x.src == (pktOf s 0x0901 c).call.src) = some x →
    ∃ t : State, exec (.cncRelease c) s = .next t ∧ (Answered 0x0901 c 0 ([]) s t ∧ OnlyReplied (releaseUse x s) t ∧ ∀ y ∈ t.claims, y.handle ≠ x.handle)) ∧
  (∀ (c : Call) (s : State), Admits 0x0902 inST c s → paramLen (pktOf s 0x0902 c) = 2 → u8 (pktOf s 0x0902 c) 0 ≤ 127 →
    ∃ t : State, exec (.cncList c) s = .next t ∧ Answered 0x0902 c 0 ([min s.claims.length 255, min s.waiting.length 255, (((claimList s).drop (u8 (pktOf s 0x0902 c) 0)).take 84).length, 0] ++ (((claimList s).drop (u8 (pktOf s 0x0902 c) 0)).take 84).flatten) s t ∧ OnlyReplied s t) ∧
  (∀ (c : Call) (cl : Claim) (sp : Nat) (s : State), Admits 0x0903 inST c s → paramLen (pktOf s 0x0903 c) = 2 → u8 (pktOf s 0x0903 c) 0 < 8 → u8 (pktOf s 0x0903 c) 1 < 68 → sliceState s (u8 (pktOf s 0x0903 c) 0) (u8 (pktOf s 0x0903 c) 1) = 0 → recordsFull s = false → heldClaim s (pktOf s 0x0903 c).call.src 5 (u8 (pktOf s 0x0903 c) 0 * 2 ^ 24 + u8 (pktOf s 0x0903 c) 1) = some cl → (slicesIn s (u8 (pktOf s 0x0903 c) 0) 1).head? = some sp →
    ∃ t : State, exec (.sliceSwap c) s = .next t ∧ Answered 0x0903 c 0 (jobResult (nextJob s) cl.handle) s t ∧ ⟨u8 (pktOf s 0x0903 c) 1, sp, .copy, false, cl.handle⟩ ∈ (t.tile (u8 (pktOf s 0x0903 c) 0)).swaps ∧ sliceState t (u8 (pktOf s 0x0903 c) 0) sp = 2) ∧
  (∀ (c : Call) (cl : Claim) (s : State), Admits 0x0904 inST c s → paramLen (pktOf s 0x0904 c) = 4 → unitOk s (u32 (pktOf s 0x0904 c) 0) = true → recordsFull s = false → heldClaim s (pktOf s 0x0904 c).call.src 1 (plainUnit (u32 (pktOf s 0x0904 c) 0)) = some cl →
    ∃ t : State, exec (.bistRun c) s = .next t ∧ (Answered 0x0904 c 0 (jobResult (nextJob s) cl.handle) s t ∧ ∃ x ∈ t.tests, x.unit = plainUnit (u32 (pktOf s 0x0904 c) 0) ∧ x.handle = cl.handle ∧ x.job = nextJob s ∧ x.periodic = false)) ∧
  (∀ (c : Call) (s : State), Admits 0x0905 inST c s → paramLen (pktOf s 0x0905 c) = 4 → fits (applied (u8 (pktOf s 0x0905 c) 0) [(0, BIST_CFG.ENABLE, u8 (pktOf s 0x0905 c) 1), (1, BIST_CFG.SWEEP, u16 (pktOf s 0x0905 c) 2)]) = true → (bit (u8 (pktOf s 0x0905 c) 0) 1 = true → 1 ≤ u16 (pktOf s 0x0905 c) 2 ∧ u16 (pktOf s 0x0905 c) 2 ≤ 720) →
    ∃ t : State, exec (.bistCfg c) s = .next t ∧ Answered 0x0905 c 0 ([(putFields BIST_CFG (applied (u8 (pktOf s 0x0905 c) 0) [(0, BIST_CFG.ENABLE, u8 (pktOf s 0x0905 c) 1), (1, BIST_CFG.SWEEP, u16 (pktOf s 0x0905 c) 2)]) s).fld BIST_CFG.ENABLE, 0] ++ bytesLsb 2 (max 1 (min 720 ((putFields BIST_CFG (applied (u8 (pktOf s 0x0905 c) 0) [(0, BIST_CFG.ENABLE, u8 (pktOf s 0x0905 c) 1), (1, BIST_CFG.SWEEP, u16 (pktOf s 0x0905 c) 2)]) s).fld BIST_CFG.SWEEP)))) s t ∧ OnlyReplied ((putFields BIST_CFG (applied (u8 (pktOf s 0x0905 c) 0) [(0, BIST_CFG.ENABLE, u8 (pktOf s 0x0905 c) 1), (1, BIST_CFG.SWEEP, u16 (pktOf s 0x0905 c) 2)]) s)) t) ∧
  (∀ (c : Call) (s : State), Admits 0x0906 [2] c s → paramLen (pktOf s 0x0906 c) = 0 → s.flag BIST_PORTER_STATUS.STANDBY_READY = true →
    ∃ t : State, exec (.porterSwitch c) s = .next t ∧ Answered 0x0906 c 0 ([]) s t ∧ OnlyReplied (takeover 4 s) t ∧ t.fld BIST_PORTER_STATUS.ACTIVE = (1 - s.fld BIST_PORTER_STATUS.ACTIVE))

/-- An access of a master that is not held back acts as the bus write or read of its address and gives its word and status; a low-word read fills the
master's shadow of the high word; a DAP read shows its word and DONE, a DAP write of HUB_SCRATCH stores the word. Each clause concludes that the
command completes, exec answering a next state: registerWrite, rcRead, counterLowRead, counterHighWrite, counterLowWrite, windowDataAccess,
dapOperation. (R452, R454, R455, R456, R552, R458, R457) -/
def Obligations.BusAccessesAreServed : Prop :=
  (∀ (x : BusAccess) (hw : HwUpdate) (v : Word) (s : State), x.wr = some v → x.m ≠ .dap → halted s = false → mustWait s s.hub.wakes x = false → reach s x.m x.a = .go →
    ∃ t : State, exec (.registerWrite x hw) s = .next t ∧ t = (busWrite x.m x.a v.toNat hw s).2.emit (.readData x 0 (busWrite x.m x.a v.toNat hw s).1)) ∧
  (∀ (x : BusAccess) (hw : HwUpdate) (s : State), x.wr = none → hasRc x.a = true → x.m ≠ .dap → halted s = false → mustWait s s.hub.wakes x = false → reach s x.m x.a = .go →
    ∃ t : State, exec (.rcRead x hw) s = .next t ∧ t = (busRead x.m x.a hw.inc s).2.emit (.readData x (busRead x.m x.a hw.inc s).1 0)) ∧
  (∀ (x : BusAccess) (s : State), x.wr = none → halfAt x.a = .low → isWindow s x.a = false → x.m ≠ .dap → halted s = false → mustWait s s.hub.wakes x = false → reach s x.m x.a = .go →
    ∃ t : State, exec (.counterLowRead x) s = .next t ∧ (t = (busRead x.m x.a 0 s).2.emit (.readData x (busRead x.m x.a 0 s).1 0) ∧ (quietRead s x.m = false → SMap.get (fun _ => 0) t.shadows (shadowKey x.a x.m) = word (shown s (x.a + 4))))) ∧
  (∀ (x : BusAccess) (v : Word) (s : State), x.wr = some v → halfAt x.a = .high → x.m ≠ .dap → halted s = false → mustWait s s.hub.wakes x = false → reach s x.m x.a = .go →
    ∃ t : State, exec (.counterHighWrite x) s = .next t ∧ t = (busWrite x.m x.a v.toNat noUpdate s).2.emit (.readData x 0 (busWrite x.m x.a v.toNat noUpdate s).1)) ∧
  (∀ (x : BusAccess) (hw : HwUpdate) (v : Word) (s : State), x.wr = some v → halfAt x.a = .low → x.m ≠ .dap → halted s = false → mustWait s s.hub.wakes x = false → reach s x.m x.a = .go →
    ∃ t : State, exec (.counterLowWrite x hw) s = .next t ∧ t = (busWrite x.m x.a v.toNat hw s).2.emit (.readData x 0 (busWrite x.m x.a v.toNat hw s).1)) ∧
  (∀ (x : BusAccess) (s : State), x.wr = none → isWindow s x.a = true → x.m ≠ .dap → halted s = false → mustWait s s.hub.wakes x = false → reach s x.m x.a = .go →
    ∃ t : State, exec (.windowDataAccess x) s = .next t ∧ t = (busRead x.m x.a 0 s).2.emit (.readData x (busRead x.m x.a 0 s).1 0)) ∧
  (∀ (x : BusAccess) (v : Word) (s : State), x.wr = some v → isWindow s x.a = true → x.m ≠ .dap → halted s = false → mustWait s s.hub.wakes x = false → reach s x.m x.a = .go →
    ∃ t : State, exec (.windowDataAccess x) s = .next t ∧ t = (busWrite x.m x.a v.toNat noUpdate s).2.emit (.readData x 0 (busWrite x.m x.a v.toNat noUpdate s).1)) ∧
  (∀ (op : Nat) (a : Nat) (v : Nat) (s : State), op % 4 = 1 → s.hub.boardTest = none → s.hub.dapState ≠ 1 → mustWait s s.hub.wakes ⟨a % 2 ^ 32 / 4 * 4, none, .dap⟩ = false → reach s .dap (a % 2 ^ 32 / 4 * 4) = .go →
    ∃ t : State, exec (.dapOperation op a v) s = .next t ∧ (t.hub.dapState = 0 ∧ t.hub.dapAddr = a % 2 ^ 32 / 4 * 4 ∧ t.hub.dapData = (busRead .dap (a % 2 ^ 32 / 4 * 4) 0 (s.modHub (fun h => { h with dapState := 1, dapAddr := a % 2 ^ 32 / 4 * 4 }))).1.toNat)) ∧
  (∀ (op : Nat) (a : Nat) (v : Nat) (s : State), op % 4 = 2 → a = HUB_SCRATCH → s.hub.boardTest = none → s.hub.dapState ≠ 1 → mustWait s s.hub.wakes ⟨a, some (word v), .dap⟩ = false → reach s .dap a = .go →
    ∃ t : State, exec (.dapOperation op a v) s = .next t ∧ t.reg HUB_SCRATCH = word v ∧ t.hub.dapState = 0 ∧ t.hub.dapData = 0)

/-- An access that needs a wake waits; a wake that is done serves accesses; one that fails leaves FAULT, its count and event 0x1070; a domain returns to
its earlier state; ports and tiles power off where their conditions hold; RETRY wakes a domain in FAULT with event 0x1071, OFF powers one off. Each
clause concludes that the command completes, exec answering a next state: domainWakeOnAccess, domainWakeDone, domainWakeFail, domainReturn,
domainPowerDownDone, portPowerOff, tilePowerOff, domainRetry, domainOffRequest. (R369, R371, R372, R370, R367, R366, R374) -/
def Obligations.DomainsWakeAndPowerDown : Prop :=
  (∀ (x : BusAccess) (ids : List Nat) (s : State), x.m ≠ .dap → halted s = false → reach s x.m x.a = .wait ids →
    ∃ t : State, exec (.domainWakeOnAccess x) s = .next t ∧ t.hub.wakes = s.hub.wakes ++ [x]) ∧
  (∀ (id : Nat) (stallNs : Nat) (s : State), (s.dom id).state = 4 → domState s id = 4 → s.hub.wakes = [] →
    ∃ t : State, exec (.domainWakeDone id stallNs) s = .next t ∧ (t.dom id).awake = true ∧ (t.dom id).down = false) ∧
  (∀ (id : Nat) (stallNs : Nat) (s : State), (s.dom id).state = 4 → domState s id = 4 →
    ∃ t : State, exec (.domainWakeDone id stallNs) s = .next t ∧ (t = settleWakes (finishWake id (if accessWaits s id then recordStall stallNs s else s)))) ∧
  (∀ (id : Nat) (s : State), (s.dom id).state = 4 → domState s id = 4 → s.hub.wakes = [] →
    ∃ t : State, exec (.domainWakeFail id) s = .next t ∧ (t.dom id).state = 5 ∧ t.fld PWR_DOMAIN_LAST_FAULT.ID = id % 2 ^ 12 ∧ t.reg PWR_DOMAIN_FAULTS = s.reg PWR_DOMAIN_FAULTS + 1 ∧ t.raised = s.raised ++ [⟨0x1070, 2, [id, 0]⟩]) ∧
  (∀ (id : Nat) (s : State), (s.dom id).awake = true → accessWaits s id = false → (domKind id = 4 ∨ domKind id = 5) →
    ∃ t : State, exec (.domainReturn id) s = .next t ∧ (t.dom id).awake = false ∧ (t.dom id).down = decide (domBase s id < 3)) ∧
  (∀ (id : Nat) (s : State), (s.dom id).awake = true → accessWaits s id = false → 1 ≤ domKind id → domKind id ≤ 3 →
    ∃ t : State, exec (.domainReturn id) s = .next t ∧ (t.dom id).awake = false) ∧
  (∀ (id : Nat) (s : State), (s.dom id).down = true → s.hub.wakes = [] →
    ∃ t : State, exec (.domainPowerDownDone id) s = .next t ∧ (t.dom id).down = false) ∧
  (∀ (n : Port) (s : State), (s.port n).frontOff = false → portOffCond s n = true → tileState s (tileOf n) = 3 → (allPairs.flatMap (fun p => [0x200 + gpair n p, 0x400 + 68 * pairTile (gpair n p) + pairSlice s (gpair n p)])).any (accessWaits s) = false →
    ∃ t : State, exec (.portPowerOff n) s = .next t ∧ (t.port n).frontOff = true) ∧
  (∀ (t : Tile) (s : State), tileOffCond s t = true → accessWaits s (0x020 + t) = false →
    ∃ u : State, exec (.tilePowerOff t) s = .next u ∧ (u.dom (0x020 + t)).state = 0 ∧ (u.dom (0x020 + t)).down = true ∧ (u.dom (0x020 + t)).awake = false) ∧
  (∀ (id : Nat) (s : State), domKind id ≠ 6 → domState s id = 5 → (domKind id = 2 → (s.tile (id - 0x020)).linkDown = false) →
    ∃ t : State, exec (.domainRetry id) s = .next t ∧ (t.dom id).state = 4 ∧ t.raised = s.raised ++ [⟨0x1071, 0, [id, 1]⟩]) ∧
  (∀ (id : Nat) (s : State), offCond s id = true → accessWaits s id = false → (s.dom id).down = false →
    ∃ t : State, exec (.domainOffRequest id) s = .next t ∧ t = powerOff id s ∧ (t.dom id).down = true)

/-- A write of PWR_AVS_CFG takes its fields and clears FAULT; an update shows TARGET, VOUT, IOUT and BUSY and the voltage commanded; one that fails sets
FAULT with event 0x1060; the alert begins with event 0x1080 and ends with 0x1081. Each clause concludes that the command completes, exec answering a
next state: avsCfgWrite, avsUpdate, tempAlertAssert, tempAlertRelease. (R365, R364) -/
def Obligations.CoreVoltageAndTemperatureAlert : Prop :=
  (∀ (v : Word) (s : State),
    ∃ t : State, exec (.avsCfgWrite v) s = .next t ∧ t.fld PWR_AVS_CFG.ENABLE = bits v.toNat 31 31 ∧ t.fld PWR_AVS_CFG.VMAX = bits v.toNat 27 16 ∧ t.fld PWR_AVS_CFG.VMIN = bits v.toNat 11 0 ∧ t.fld PWR_AVS_STATUS.FAULT = 0) ∧
  (∀ (want : Nat) (vout : Nat) (iout : Nat) (target mv : Nat) (s : State), s.hub.resetting = false → s.flag PWR_PHASE.FW_ROM = false → 7 ≤ s.fld PWR_PHASE.BOOT_STEP → s.flag PWR_AVS_STATUS.FAULT = false → nextVolts want s = some (target, mv) →
    ∃ t : State, exec (.avsUpdate want vout iout none) s = .next t ∧ t.fld PWR_AVS_STATUS.TARGET = target % 2 ^ 12 ∧ t.fld PWR_AVS_STATUS.VOUT = vout % 2 ^ 12 ∧ t.fld PWR_AVS_IOUT.IOUT = iout % 2 ^ 16 ∧ t.hub.avsMv = mv ∧ t.fld PWR_AVS_STATUS.BUSY = (decide (mv ≠ target)).toNat) ∧
  (∀ (want : Nat) (vout : Nat) (iout : Nat) (op st target mv : Nat) (s : State), s.hub.resetting = false → s.flag PWR_PHASE.FW_ROM = false → 7 ≤ s.fld PWR_PHASE.BOOT_STEP → s.flag PWR_AVS_STATUS.FAULT = false → nextVolts want s = some (target, mv) →
    ∃ t : State, exec (.avsUpdate want vout iout (some (op, st))) s = .next t ∧ t.fld PWR_AVS_STATUS.FAULT = 1 ∧ t.reg PWR_AVS_FAULTS = s.reg PWR_AVS_FAULTS + 1 ∧ t.raised = s.raised ++ [⟨0x1060, 1, [op, st]⟩]) ∧
  (∀ (d : Nat × Nat) (s : State), s.hub.tempAlert = none → (liveSensors s).find? (fun d => decide (864 ≤ sensorTemp s d)) = some d →
    ∃ t : State, exec .tempAlertAssert s = .next t ∧ t.hub.tempAlert = some s.now ∧ t.raised = s.raised ++ [⟨0x1080, 1, [d.1, d.2, unsigned 32 (sensorTemp s d)]⟩]) ∧
  (∀ (a : Nat) (s : State), s.hub.tempAlert = some a → (liveSensors s).all (fun d => decide (sensorTemp s d ≤ 824)) = true →
    ∃ t : State, exec .tempAlertRelease s = .next t ∧ t.hub.tempAlert = none ∧ t.raised = s.raised ++ [⟨0x1081, 0, [unsigned 32 (maxTemp s), (s.now - a) / 1000]⟩])

/-- A board-test instruction is loaded with its boundary cells, drops both ring inputs' sync and shows BOARD_TEST with event 0xA003; its end loads another
instruction, a free one (log entry 27), and clears it; a TAP reset leaves the DAP idle with address and data 0. Each clause concludes that the command
completes, exec answering a next state: boardTestBegin, boardTestEnd, tapReset. (R548, R551, R550) -/
def Obligations.BoardTestAndTap : Prop :=
  (∀ (load : BoardLoad) (s : State), isBoardTest load.ir = true → s.hub.boardTest ≠ some load.ir →
    ∃ t : State, exec (.boardTestBegin load) s = .next t ∧ t.hub.boardTest = some load.ir ∧ t.hub.ir = load.ir ∧ t.hub.boundary = load.cells ∧ t.fld DBG_DAP_STATUS.BOARD_TEST = 1 ∧ t.flag MR_STATUS.MR0_SYNC = false ∧ t.flag MR_STATUS.MR1_SYNC = false ∧ t.raised.getLast? = some ⟨0xA003, 1, [1, load.ir]⟩) ∧
  (∀ (j : Nat) (s : State), s.hub.boardTest = some j →
    ∃ t : State, exec .boardTestEnd s = .next t ∧ t.hub.boardTest = none ∧ t.hub.ir = endingIr s ∧ isBoardTest t.hub.ir = false ∧ t.fld DBG_DAP_STATUS.BOARD_TEST = 0 ∧ t.raised.getLast? = some ⟨0xA003, 1, [2, j]⟩) ∧
  (∀ (s : State),
    ∃ t : State, exec .tapReset s = .next t ∧ t.hub.boardTest = none ∧ t.hub.dapState = 0 ∧ t.hub.dapAddr = 0 ∧ t.hub.dapData = 0)

/-- A good rail is shown, the last one ends a power-up or a supply reset; a lost VDD_AON or RESET_N begins a cold reset that keeps MRAM and counts the
power cycle; another rail a supply reset; a due DEVICE_RESET begins with cause 4 and ends; the watchdog resets with cause 5 and counts; a boot step
that ends is shown, the ninth with READY and the phase. Each clause concludes that the command completes, exec answering a next state: railGood,
railLost, resetNAssert, resetNRelease, deviceResetStart, deviceResetEnd, bootWatchdogExpire, bootStepDone. (R362, R375, R361, R379, R382, R376, R380) -/
def Obligations.ResetsBeginAndEnd : Prop :=
  (∀ (r : Fin 7) (strap : Nat) (s : State), bit (s.fld PWR_RAIL_STATUS.GOOD) r = false →
    ∃ t : State, exec (.railGood r strap) s = .next t ∧ t.fld ⟨PWR_RAIL_STATUS, r, r⟩ = 1) ∧
  (∀ (r : Fin 7) (strap : Nat) (s : State), bit (s.fld PWR_RAIL_STATUS.GOOD) r = false → railsGood (s.setFld ⟨PWR_RAIL_STATUS, r, r⟩ 1) = true → s.hub.resetting = true → (resetCause s = 1 ∨ resetCause s = 3) →
    ∃ t : State, exec (.railGood r strap) s = .next t ∧ (t.hub.resetting = false ∧ t.hub.bootAt = s.now ∧ (resetCause s = 1 → t.fld MR_ID.STRAP = strap % 64))) ∧
  (∀ (r : Fin 7) (s : State), bit (s.fld PWR_RAIL_STATUS.GOOD) r = true → r.val = 6 →
    ∃ t : State, exec (.railLost r) s = .next t ∧ t.hub.resetting = true ∧ t.fld PWR_RESET_CAUSE.CAUSE = 1 ∧ t.mram = (putBytes 0x7A0004 (bytesLsb 2 (powerCycles s + 1)) s).mram ∧ t.queued = [] ∧ t.running = [] ∧ t.gbQueue = []) ∧
  (∀ (r : Fin 7) (s : State), bit (s.fld PWR_RAIL_STATUS.GOOD) r = true → r.val ≠ 6 → s.hub.resetting = false →
    ∃ t : State, exec (.railLost r) s = .next t ∧ t.hub.resetting = true ∧ t.fld PWR_RESET_CAUSE.CAUSE = 3 ∧ t.fld PWR_RESET_CAUSE.RAIL = 2 ^ r.val ∧ t.mram = s.mram) ∧
  (∀ (s : State),
    ∃ t : State, exec .resetNAssert s = .next t ∧ t.hub.resetting = true ∧ t.fld PWR_RESET_CAUSE.CAUSE = 2 ∧ t.mram = (putBytes 0x7A0004 (bytesLsb 2 (powerCycles s + 1)) s).mram ∧ t.reg PWR_RAIL_STATUS = s.reg PWR_RAIL_STATUS ∧ t.claims = [] ∧ t.running = []) ∧
  (∀ (strap : Nat) (s : State), s.hub.resetting = true → resetCause s = 2 → railsGood s = true →
    ∃ t : State, exec (.resetNRelease strap) s = .next t ∧ t.hub.resetting = false ∧ t.hub.bootAt = s.now ∧ t.fld MR_ID.STRAP = strap % 64) ∧
  (∀ (s : State), s.hub.resetDue = true →
    ∃ t : State, exec .deviceResetStart s = .next t ∧ t.hub.resetting = true ∧ t.hub.resetDue = false ∧ t.fld PWR_RESET_CAUSE.CAUSE = 4 ∧ t.reg PWR_DEVICE_RESETS = s.reg PWR_DEVICE_RESETS + 1 ∧ t.queued = [] ∧ t.running = [] ∧ t.mram = s.mram) ∧
  (∀ (s : State), s.hub.resetting = true → (resetCause s = 4 ∨ resetCause s = 5) →
    ∃ t : State, exec .deviceResetEnd s = .next t ∧ t.hub.resetting = false ∧ t.hub.bootAt = s.now) ∧
  (∀ (s : State), s.hub.resetting = false → s.flag PWR_PHASE.READY = false → s.fld PWR_PHASE.BOOT_STEP ≠ 0 →
    ∃ t : State, exec .bootWatchdogExpire s = .next t ∧ t.hub.resetting = true ∧ t.fld PWR_RESET_CAUSE.CAUSE = 5 ∧ t.fld PWR_BOOT_FAILS.COUNT = min (s.fld PWR_BOOT_FAILS.COUNT + 1) 255 ∧ t.hub.watchdogLimit = decide (3 ≤ min (s.fld PWR_BOOT_FAILS.COUNT + 1) 255)) ∧
  (∀ (failedLinks : List Tile) (s : State), stepEnds s = true → s.fld PWR_PHASE.BOOT_STEP ≤ 8 →
    ∃ t : State, exec (.bootStepDone failedLinks) s = .next t ∧ (t.fld PWR_PHASE.BOOT_STEP = nextStep s ∧ (nextStep s = 9 → t.fld PWR_PHASE.READY = 1 ∧ t.fld PWR_PHASE.PHASE = endPhase s)))

/-- Sync is shown and ends a loss; a loss keeps its time and counts the code errors; a short one counts a glitch; a long one is a break, counted, with
event 0x9001 and a notice; its end has event 0x9002 with the time and a notice. Each clause concludes that the command completes, exec answering a
next state: ringInputSync, ringSyncLoss, ringGlitch, ringBreak, ringRestored. (R389, R394, R409) -/
def Obligations.RingInputsSyncAndBreak : Prop :=
  (∀ (r : Fin 2) (s : State), bypassed s = false → s.flag (ringSync r) = false →
    ∃ t : State, exec (.ringInputSync r) s = .next t ∧ t.flag (ringSync r) = true ∧ ringLost t r = none) ∧
  (∀ (r : Fin 2) (errs : Nat) (s : State), bypassed s = false → s.flag (ringSync r) = true →
    ∃ t : State, exec (.ringSyncLoss r errs) s = .next t ∧ t.flag (ringSync r) = false ∧ ringLost t r = some s.now ∧ t.reg (ringCodeErr r) = s.reg (ringCodeErr r) + word errs) ∧
  (∀ (r : Fin 2) (t0 : Nat) (s : State), bypassed s = false → s.flag (ringSync r) = false → ringLost s r = some t0 → s.flag (ringBroken r) = false →
    ∃ t : State, exec (.ringGlitch r) s = .next t ∧ t.flag (ringSync r) = true ∧ ringLost t r = none ∧ t.reg (ringGlitches r) = s.reg (ringGlitches r) + 1) ∧
  (∀ (r : Fin 2) (t0 : Nat) (s : State), bypassed s = false → ringLost s r = some t0 → s.flag (ringBroken r) = false →
    ∃ t : State, exec (.ringBreak r) s = .next t ∧ t.flag (ringBroken r) = true ∧ t.reg MR_BREAKS = s.reg MR_BREAKS + 1 ∧ t.hub.notices = s.hub.notices ++ [(3, r.val, 0)] ∧ t.raised = s.raised ++ [⟨0x9001, 1, [r.val]⟩]) ∧
  (∀ (r : Fin 2) (t0 : Nat) (s : State), bypassed s = false → s.flag (ringSync r) = false → s.flag (ringBroken r) = true → ringLost s r = some t0 →
    ∃ t : State, exec (.ringRestored r) s = .next t ∧ t.flag (ringSync r) = true ∧ t.flag (ringBroken r) = false ∧ t.hub.notices = s.hub.notices ++ [(4, r.val, 0)] ∧ t.raised = s.raised ++ [⟨0x9002, 0, [r.val, s.now - t0]⟩])

/-- The packet is the one the received line codes spell. A packet for another is forwarded as it is, in its line codes; a good command for this device
joins the queue; ENUMERATE without straps takes the position and the lowest free DEVID and forwards the packet rewritten; a later SEQ_EPOCH is taken;
PING and reserved opcodes are forwarded; WRAP is stored, with event 0x9004 where it changes. Each clause concludes that the command completes, exec
answering a next state: packetForward, packetRx, enumerate, seqEpoch, ringPing, ringControlReserved, wrapWrite. (R391, R395, R397, R417, R410, R412,
R399, R423) -/
def Obligations.PacketsAndRingControl : Prop :=
  (∀ (r : Fin 2) (rx : RingRx) (pk : Packet) (s : State), packetOf rx = pk → hears s r = true → toMe s pk = false → toAll pk = false →
    ∃ t : State, exec (.packetForward r rx) s = .next t ∧ (t.out = s.out ++ (match through s r with | some o => [.forward o (pk.bytes) (ringCodes s.out o (pk.bytes))] | none => []) ∧ t.queued = s.queued)) ∧
  (∀ (r : Fin 2) (rx : RingRx) (pk : Packet) (s : State), packetOf rx = pk → hears s r = true → toMe s pk = true → isControl (pkOp pk) = false → intact pk = true → fromHost pk = true → crcPasses pk = true → (inUse s).any (fun q => sameTag q (pkCommand r pk)) = false → s.kept.find? (fun k => sameCmd k.pkt (pkCommand r pk)) = none → s.queued.length + s.running.length < 32 →
    ∃ t : State, exec (.packetRx r rx) s = .next t ∧ t.queued = s.queued ++ [pkCommand r pk] ∧ t.out = s.out) ∧
  (∀ (r : Fin 2) (rx : RingRx) (pk : Packet) (i : Nat) (s : State), packetOf rx = pk → controlOf s r pk 0xF0 = true → controlActs pk 9 = true → s.fld MR_ID.STRAP = 0x3F → (List.range 64).find? (fun i => !bit (ofBytesLsb ((pkBody pk).drop 1)) i) = some i →
    ∃ t : State, exec (.enumerate r rx) s = .next t ∧ (t.fld MR_ID.POSITION = (pkBody pk).getD 0 0 % 2 ^ 7 ∧ t.fld MR_ID.POS_RING = r.val ∧ t.fld MR_ID.DEVID = i ∧ t.fld MR_ID.ASSIGNED = 1 ∧ t.fld MR_ID.ENUMERATED = 1 ∧ t.out = s.out ++ (match through s r with | some o => [.forward o (rewrite pk ((((pkBody pk).getD 0 0 + 1) % 256) :: bytesLsb 8 (setBit (ofBytesLsb ((pkBody pk).drop 1)) i true))) (ringCodes s.out o (rewrite pk ((((pkBody pk).getD 0 0 + 1) % 256) :: bytesLsb 8 (setBit (ofBytesLsb ((pkBody pk).drop 1)) i true))))] | none => []))) ∧
  (∀ (r : Fin 2) (rx : RingRx) (waited : Nat) (pk : Packet) (s : State), packetOf rx = pk → controlOf s r pk 0xF1 = true → controlActs pk 7 = true → (s.flag MR_STATUS.EPOCH_SET = false ∨ later (ofBytesLsb ((pkBody pk).take 4)) (bits (s.val64 MR_SEQ) 47 16) = true) →
    ∃ t : State, exec (.seqEpoch r rx waited) s = .next t ∧ t.val64 MR_SEQ = (ofBytesLsb ((pkBody pk).take 4)) % 2 ^ 32 * 2 ^ 16 ∧ t.flag MR_STATUS.EPOCH_SET = true ∧ t.flag MR_STATUS.SEQ_STALE = false ∧ t.hub.epochAt = s.now ∧ t.fld MR_STATUS.LARGE_CHAIN = (decide (16 < (pkBody pk).getD 4 0)).toNat) ∧
  (∀ (r : Fin 2) (rx : RingRx) (pk : Packet) (s : State), packetOf rx = pk → controlOf s r pk 0xF2 = true →
    ∃ t : State, exec (.ringPing r rx) s = .next t ∧ (t.out = s.out ++ (match through s r with | some o => [.forward o (pk.bytes) (ringCodes s.out o (pk.bytes))] | none => []) ∧ t.queued = s.queued)) ∧
  (∀ (r : Fin 2) (rx : RingRx) (pk : Packet) (s : State), packetOf rx = pk → hears s r = true → 0xF3 ≤ pkOp pk → pkOp pk ≤ 0xFF → toMe s pk = false →
    ∃ t : State, exec (.ringControlReserved r rx) s = .next t ∧ (t.out = s.out ++ (match through s r with | some o => [.forward o (pk.bytes) (ringCodes s.out o (pk.bytes))] | none => []) ∧ t.queued = s.queued)) ∧
  (∀ (v : Word) (s : State),
    ∃ t : State, exec (.wrapWrite v) s = .next t ∧ (t.fld MR_CFG.WRAP = bits v.toNat 1 0 ∧ (s.fld MR_CFG.WRAP ≠ bits v.toNat 1 0 → t.raised = s.raised ++ [⟨0x9004, 0, [s.fld MR_CFG.WRAP, bits v.toNat 1 0]⟩])))

/-- The oldest command starts where FENCE and the executors allow; an unknown opcode is answered status 2; a timeout answers status 7; the oldest retained
reply goes; a due notice is sent with the next INT_SEQ, an interrupt notice remembers the summary; a repeat keeps its INT_SEQ; a saturated TICK sets
SEQ_STALE with event 0x9005. Each clause concludes that the command completes, exec answering a next state: commandStart, commandTimeout,
replyRetentionExpire, noticeSend, intRepeatExpire, seqTickSaturate. (R400, R401, R404, R415, R417, R459, R418) -/
def Obligations.ExecutorsNoticesAndRetention : Prop :=
  (∀ (p : Pkt) (rest : List Pkt) (s : State), s.queued = p :: rest → halted s = false → s.hub.resetDue = false → s.hub.resetting = false → s.running.length < 4 → fenced s = false → (bit p.call.flags 0 = true → s.running = []) → opcodes.contains p.op = true →
    ∃ t : State, exec .commandStart s = .next t ∧ t.queued = rest ∧ t.running = s.running ++ [p]) ∧
  (∀ (p : Pkt) (rest : List Pkt) (s : State), s.queued = p :: rest → halted s = false → s.hub.resetDue = false → s.hub.resetting = false → s.running.length < 4 → fenced s = false → (bit p.call.flags 0 = true → s.running = []) → opcodes.contains p.op = false → isReady s = true → bit p.call.flags 2 = false →
    ∃ t : State, exec .commandStart s = .next t ∧ t.queued = rest ∧ t.kept.getLast? = some ⟨p, 2, [], s.now⟩) ∧
  (∀ (src : Nat) (tag : Nat) (p : Pkt) (s : State), s.running.find? (fun p => p.call.src == src && p.call.tag == tag) = some p → isLong p.op = false → halted s = false → bit p.call.flags 2 = false →
    ∃ t : State, exec (.commandTimeout src tag) s = .next t ∧ t.kept.getLast? = some ⟨p, 7, [], s.now⟩ ∧ p ∉ t.running) ∧
  (∀ (s : State),
    ∃ t : State, exec .replyRetentionExpire s = .next t ∧ t.kept = s.kept.drop 1 ∧ t.queued = s.queued ∧ t.running = s.running ∧ t.out = s.out) ∧
  (∀ (ty ring arg : Nat) (rest : List (Nat × Nat × Nat)) (s : State), bypassed s = false → s.hub.notices = (ty, ring, arg) :: rest →
    ∃ t : State, exec .noticeSend s = .next t ∧ t.hub.notices = rest ∧ t.hub.intSeq = (s.hub.intSeq + 1) % 2 ^ 16 ∧ t.reg MR_NOTICES = s.reg MR_NOTICES + 1 ∧ t.out.length = s.out.length + (noticeRings s).length) ∧
  (∀ (s : State), bypassed s = false → s.hub.notices = [] → summary s &&& s.hub.notified ≠ summary s →
    ∃ t : State, exec .noticeSend s = .next t ∧ t.hub.intSeq = (s.hub.intSeq + 1) % 2 ^ 16 ∧ t.hub.intLast = (s.hub.intSeq + 1) % 2 ^ 16 ∧ t.hub.notified = summary s ∧ t.reg MR_NOTICES = s.reg MR_NOTICES + 1) ∧
  (∀ (s : State), bypassed s = false → s.fld MR_CFG.INT_REPEAT ≠ 0 → summary s ≠ 0 → s.hub.notified ≠ 0 →
    ∃ t : State, exec .intRepeatExpire s = .next t ∧ t.hub.intSeq = s.hub.intSeq ∧ t.reg MR_NOTICES = s.reg MR_NOTICES + 1 ∧ t.out.length = s.out.length + (noticeRings s).length) ∧
  (∀ (s : State), s.flag MR_STATUS.SEQ_STALE = false →
    ∃ t : State, exec .seqTickSaturate s = .next t ∧ t.fld MR_STATUS.SEQ_STALE = 1 ∧ seqTick t = 0xFFFF ∧ t.raised = s.raised ++ [⟨0x9005, 1, [bits (s.val64 MR_SEQ) 47 16]⟩])

/-- A dirty pass counts CFG_DIRTY, a clean one CFG_PASSES; a commit starts at once where none runs; the pass that ends clears MISMATCH, FENCED and
RELOADED; a lockable write acts unlocked and is refused and recorded locked; FENCED clears; LOCK is set in SERVICE; the key opens the window, another
value closes it with KEY_BAD; the window closes with event 0x8003. Each clause concludes that the command completes, exec answering a next state:
cfgWalkerPass, cfgCommit, commitPassDone, cfgCheckEnableWrite, cfgFencedClear, hubLockWrite, unlockKeyWrite, unlockWindowExpire. (R462, R464, R465,
R466, R469, R470, R463, R555, R558) -/
def Obligations.ConfigurationCheckAndLocks : Prop :=
  (∀ (s : State), walkersRun s = true →
    ∃ t : State, exec (.cfgWalkerPass true) s = .next t ∧ t.reg CFG_DIRTY = s.reg CFG_DIRTY + 1 ∧ t.reg CFG_PASSES = s.reg CFG_PASSES) ∧
  (∀ (s : State), walkersRun s = true →
    ∃ t : State, exec (.cfgWalkerPass false) s = .next t ∧ t.reg CFG_PASSES = s.reg CFG_PASSES + 1) ∧
  (∀ (s : State), s.hub.commit = none → s.hub.commits = [] →
    ∃ t : State, exec .cfgCommit s = .next t ∧ t.hub.commit = some (1, none) ∧ t.hub.commits = [] ∧ t.regs = s.regs) ∧
  (∀ (cause : Nat) (s : State), s.hub.commit = some (cause, none) → s.hub.commits = [] →
    ∃ t : State, exec .commitPassDone s = .next t ∧ t.hub.commit = none ∧ t.fld CFG_CHECK_STATUS.MISMATCH = 0 ∧ t.fld CFG_CHECK_STATUS.FENCED = 0 ∧ t.fld CFG_CHECK_STATUS.RELOADED = 0) ∧
  (∀ (v : Word) (m : Master) (s : State), windowOver s = false → isLocked s = false →
    ∃ t : State, exec (.cfgCheckEnableWrite v m) s = .next t ∧ (t.fld CFG_CHECK_CFG.ENABLE = bits v.toNat 31 31 ∧ t.fld CFG_CHECK_CFG.ACTION = bits v.toNat 1 0 ∧ t.hub.window = (if s.fld PWR_PHASE.PHASE = 1 then s.hub.window else none))) ∧
  (∀ (v : Word) (m : Master) (s : State), windowOver s = false → isLocked s = true →
    ∃ t : State, exec (.cfgCheckEnableWrite v m) s = .next t ∧ t.fld CFG_CHECK_CFG.ENABLE = s.fld CFG_CHECK_CFG.ENABLE ∧ t.fld CFG_CHECK_CFG.ACTION = s.fld CFG_CHECK_CFG.ACTION ∧ t.fld HUB_LOCK_STATUS.VIOLATION = 1 ∧ t.reg HUB_LOCK_LAST_ADDR = word CFG_CHECK_CFG ∧ t.reg HUB_LOCK_VIOLATIONS = s.reg HUB_LOCK_VIOLATIONS + 1 ∧ t.raised = s.raised ++ [⟨0x8001, 1, [CFG_CHECK_CFG, masterCode m, s.fld PWR_PHASE.PHASE]⟩]) ∧
  (∀ (s : State), s.flag CFG_CHECK_STATUS.FENCED = true →
    ∃ t : State, exec .cfgFencedClear s = .next t ∧ t.flag CFG_CHECK_STATUS.FENCED = false) ∧
  (∀ (v : Word) (m : Master) (s : State), bit v.toNat 0 = true → s.fld PWR_PHASE.PHASE = 1 → s.fld HUB_LOCK.LOCK = 0 →
    ∃ t : State, exec (.hubLockWrite v m) s = .next t ∧ t.fld HUB_LOCK.LOCK = 1 ∧ t.raised = s.raised ++ [⟨0x8004, 0, [masterCode m]⟩]) ∧
  (∀ (v : Word) (m : Master) (s : State), s.fld PWR_PHASE.PHASE ≠ 1 → v.toNat % 65536 = 0x5EA7 →
    ∃ t : State, exec (.unlockKeyWrite v m) s = .next t ∧ t.hub.window = some (s.now, masterCode m)) ∧
  (∀ (v : Word) (m : Master) (s : State), s.fld PWR_PHASE.PHASE ≠ 1 → v.toNat % 65536 ≠ 0x5EA7 →
    ∃ t : State, exec (.unlockKeyWrite v m) s = .next t ∧ t.hub.window = none ∧ t.fld HUB_LOCK_STATUS.KEY_BAD = 1 ∧ t.reg HUB_LOCK_KEY_BAD = s.reg HUB_LOCK_KEY_BAD + 1) ∧
  (∀ (t0 m : Nat) (s : State), s.hub.window = some (t0, m) →
    ∃ t : State, exec .unlockWindowExpire s = .next t ∧ t.hub.window = none ∧ ⟨0x8003, 0, [m]⟩ ∈ t.raised)

/-- The next completion writes the job's record, or waits in the queue of a halted Porter; halt, breakpoint and step show reason and pc with event 0xA002;
resume runs again; a core word is written and read while halted; a takeover makes the standby active with event 0x7020, or without a standby resets
the device. Each clause concludes that the command completes, exec answering a next state: completionAccept, porterHalt, porterBreakpoint,
porterResume, porterStep, dbgCoreDataAccess, porterTakeover. (R445, R554, R526, R555, R528) -/
def Obligations.PorterCompletionsHaltsAndTakeover : Prop :=
  (∀ (c : Completion) (j : Job) (s : State), halted s = false → nextCompletion s.completions = some c → c.run = false → s.jobs.find? (fun j => j.num == c.job) = some j →
    ∃ t : State, exec .completionAccept s = .next t ∧ (t.records = s.records ++ [recordOf s j c.status c.arg] ∧ t.jobs = s.jobs.filter (fun x => x.num != j.num) ∧ t.completions = s.completions.erase c)) ∧
  (∀ (c : Completion) (s : State), halted s = true → nextCompletion s.completions = some c → s.hub.porterQ.length < 512 →
    ∃ t : State, exec .completionAccept s = .next t ∧ t.hub.porterQ = s.hub.porterQ ++ [c] ∧ t.completions = s.completions.erase c ∧ t.records = s.records) ∧
  (∀ (pc : Word) (s : State), halted s = false → porterUp s = true →
    ∃ t : State, exec (.porterHalt pc) s = .next t ∧ t.fld DBG_PORTER_STATUS.HALTED = 1 ∧ t.fld DBG_PORTER_STATUS.REASON = 1 ∧ t.fld DBG_PORTER_STATUS.BREAK = 0 ∧ t.reg DBG_PORTER_PC = pc ∧ t.reg DBG_HALTS = s.reg DBG_HALTS + 1 ∧ t.raised = s.raised ++ [⟨0xA002, 0, [1, 1, pc.toNat]⟩]) ∧
  (∀ (i : Fin 4) (pc : Word) (s : State), halted s = false → porterUp s = true → s.flag (DBG_BREAK.EN i) = true → s.fld (DBG_BREAK.ADDR i) = pc.toNat / 4 →
    ∃ t : State, exec (.porterBreakpoint i pc) s = .next t ∧ t.fld DBG_PORTER_STATUS.HALTED = 1 ∧ t.fld DBG_PORTER_STATUS.REASON = 2 ∧ t.fld DBG_PORTER_STATUS.BREAK = i.val ∧ t.reg DBG_PORTER_PC = pc ∧ t.reg DBG_HALTS = s.reg DBG_HALTS + 1 ∧ t.raised = s.raised ++ [⟨0xA002, 0, [1, 2, pc.toNat]⟩]) ∧
  (∀ (s : State), halted s = true →
    ∃ t : State, exec .porterResume s = .next t ∧ halted t = false ∧ t.reg DBG_PORTER_PC = 0 ∧ t.core = [] ∧ t.hub.porterQ = []) ∧
  (∀ (pc : Word) (s : State), halted s = true →
    ∃ t : State, exec (.porterStep pc) s = .next t ∧ t.fld DBG_PORTER_STATUS.HALTED = 1 ∧ t.fld DBG_PORTER_STATUS.REASON = 3 ∧ t.fld DBG_PORTER_STATUS.BREAK = 0 ∧ t.reg DBG_PORTER_PC = pc ∧ t.reg DBG_HALTS = s.reg DBG_HALTS + 1 ∧ t.raised = s.raised ++ [⟨0xA002, 0, [1, 3, pc.toNat]⟩] ∧ t.core = []) ∧
  (∀ (v : Word) (s : State), halted s = true → s.fld DBG_CORE_ADDR.SPACE ≠ 3 →
    ∃ t : State, exec (.dbgCoreDataAccess (some v)) s = .next t ∧ (SMap.get (fun _ => none) t.core (coreKey s) = some v)) ∧
  (∀ (v : Word) (s : State), halted s = true → s.fld DBG_CORE_ADDR.SPACE ≠ 3 → SMap.get (fun _ => none) s.core (coreKey s) = some v →
    ∃ t : State, exec (.dbgCoreDataAccess none) s = .next t ∧ t = stepCore s) ∧
  (∀ (cause : Nat) (s : State), porterUp s = true → 1 ≤ cause → cause ≤ 3 → (halted s = true → cause ≠ 3) → s.flag BIST_PORTER_STATUS.STANDBY_READY = true →
    ∃ t : State, exec (.porterTakeover cause) s = .next t ∧ t.fld BIST_PORTER_STATUS.ACTIVE = 1 - s.fld BIST_PORTER_STATUS.ACTIVE ∧ t.fld DBG_PORTER_STATUS.PAIR = 1 - s.fld BIST_PORTER_STATUS.ACTIVE ∧ t.reg BIST_PORTER_TAKEOVERS = s.reg BIST_PORTER_TAKEOVERS + 1 ∧ halted t = false ∧ ⟨0x7020, 2, [cause, 1 - s.fld BIST_PORTER_STATUS.ACTIVE]⟩ ∈ t.raised) ∧
  (∀ (cause : Nat) (s : State), porterUp s = true → 1 ≤ cause → cause ≤ 3 → (halted s = true → cause ≠ 3) → s.flag BIST_PORTER_STATUS.STANDBY_READY = false →
    ∃ t : State, exec (.porterTakeover cause) s = .next t ∧ t.hub.resetting = true ∧ t.fld PWR_RESET_CAUSE.CAUSE = 5)

/-- An event within its limit takes the slot NEXT; a full Guestbook loses it; the oldest record is written to its slot; a clear moves GEN on and leaves
one record, and stores the new GEN where REFCLK is qualified and the area holds another; a rate window ends empty; the operating seconds are stored.
Each clause concludes that the command completes, exec answering a next state: gbEventAccept, gbRecordWrite, gbClearDoorbell, gbRateWindowEnd,
opSecondsStore. (R514, R348, R516, R518, R513, R515) -/
def Obligations.GuestbookAndSystemArea : Prop :=
  (∀ (e : Event) (rest : List Event) (s : State), s.raised = e :: rest → e.code < 0xB000 → s.flag GB_STATUS.FULL = false → s.gbQueue.length < 512 → gbLimit s e.code = 0 → (s.reg GB_RECORDED).toNat < 2 ^ 32 - 2 →
    ∃ t : State, exec .gbEventAccept s = .next t ∧ t.raised = rest ∧ (s.fld GB_STATUS.NEXT, recordBytes s e) ∈ t.gbQueue ∧ (s.reg GB_RECORDED).toNat < (t.reg GB_RECORDED).toNat) ∧
  (∀ (e : Event) (rest : List Event) (s : State), s.raised = e :: rest → e.code < 0xB000 → s.flag GB_STATUS.FULL = true → gbLimit s e.code = 0 →
    ∃ t : State, exec .gbEventAccept s = .next t ∧ t.raised = rest ∧ t.gbQueue = s.gbQueue ∧ t.reg GB_LOST = s.reg GB_LOST + 1) ∧
  (∀ (slot : Nat) (bs : List Nat) (rest : List (Nat × List Nat)) (s : State), s.gbQueue = (slot, bs) :: rest → s.flag CLK_STATUS.REF_QUAL = true → 2 ≤ s.fld PWR_PHASE.BOOT_STEP →
    ∃ t : State, exec (.gbRecordWrite false) s = .next t ∧ t.gbQueue = rest ∧ t.mram = (nvPut (slotBase slot) bs s).mram) ∧
  (∀ (s : State),
    ∃ t : State, exec .gbClearDoorbell s = .next t ∧ t.fld GB_STATUS.GEN = (s.fld GB_STATUS.GEN + 1) % 256 ∧ t.fld GB_STATUS.NEXT = 1 ∧ t.fld GB_STATUS.FULL = 0 ∧ t.reg GB_RECORDED = 1 ∧ t.gbQueue.length = 1) ∧
  (∀ (s : State), s.flag CLK_STATUS.REF_QUAL = true → s.nvByte 0x7A0008 ≠ (s.fld GB_STATUS.GEN + 1) % 256 →
    ∃ t : State, exec .gbClearDoorbell s = .next t ∧ t.mram = (nvPut 0x7A0008 [(s.fld GB_STATUS.GEN + 1) % 256] s).mram) ∧
  (∀ (s : State),
    ∃ t : State, exec .gbRateWindowEnd s = .next t ∧ t.gbWindow = [] ∧ t.hub.rateStart = opSeconds s ∧ t.regs = s.regs) ∧
  (∀ (s : State), s.flag CLK_STATUS.REF_QUAL = true →
    ∃ t : State, exec (.opSecondsStore []) s = .next t ∧ t.mram = (nvPut 0x7A0000 (bytesLsb 4 (opSeconds s)) s).mram)

/-- A run starts under the claim held or one it takes now, with the VERIFY that is set, and its outputs are stale; a run that ends is counted once and is
no longer in progress; a timeout is a failure with cause 5; a retry makes the item-target due; requests that do not start end; a tick shows the
reading of a powered sensor. Each clause concludes that the command completes, exec answering a next state: calRunStart, calRunDone, calRunTimeout,
calRetry, calRunStartTimeout, trimTrackTick. (R482, R485, R495, R490, R484, R487, R491, R486) -/
def Obligations.CalibrationRunsAndTrims : Prop :=
  (∀ (item : Nat) (target : Nat) (ref : RefMeas) (k : Claim) (s : State), calValid item target = true → s.flag CLK_STATUS.REF_QUAL = true → s.calRuns.any (fun r => (servingSensor r.item r.target).1 == (servingSensor item target).1) = false → nextRun s (servingSensor item target).1 = some (item, target) → calClaim s item target = some k → (item = 3 ∨ (if item = 4 then ref.rcal.natAbs ≤ 500 else ref.vref.natAbs ≤ 200)) →
    ∃ t : State, exec (.calRunStart item target ref) s = .next t ∧ t.calRuns = s.calRuns ++ [⟨item, target, k.handle, s.flag CAL_CFG.VERIFY⟩] ∧ (t.cal item target).stale = true) ∧
  (∀ (item : Nat) (target : Nat) (ref : RefMeas) (s : State), calValid item target = true → s.flag CLK_STATUS.REF_QUAL = true → s.calRuns.any (fun r => (servingSensor r.item r.target).1 == (servingSensor item target).1) = false → nextRun s (servingSensor item target).1 = some (item, target) → calClaim s item target = none → grantable s 2 (calRes item target) = true → (item = 3 ∨ (if item = 4 then ref.rcal.natAbs ≤ 500 else ref.vref.natAbs ≤ 200)) →
    ∃ t : State, exec (.calRunStart item target ref) s = .next t ∧ t.calRuns = s.calRuns ++ [⟨item, target, nextHandle s, s.flag CAL_CFG.VERIFY⟩] ∧ (t.cal item target).stale = true ∧ t.claims = s.claims ++ [⟨nextHandle s, 2, calRes item target, claimPair s 2 (calRes item target), 0xFF, false⟩]) ∧
  (∀ (item : Nat) (target : Nat) (m : CalMeas) (r : CalRun) (s : State), s.calRuns.find? (fun r => r.item == item && r.target == target) = some r → (item = 3 ∨ refHolder s = some r) →
    ∃ t : State, exec (.calRunDone item target m) s = .next t ∧ r ∉ t.calRuns ∧ t.reg CAL_RUNS = s.reg CAL_RUNS + 1 ∧ (t.cal item target).count = (s.cal item target).count + 1) ∧
  (∀ (item : Nat) (target : Nat) (r : CalRun) (s : State), s.calRuns.find? (fun r => r.item == item && r.target == target) = some r →
    ∃ t : State, exec (.calRunTimeout item target) s = .next t ∧ r ∉ t.calRuns ∧ t.reg CAL_RUNS = s.reg CAL_RUNS + 1 ∧ t.reg CAL_FAILS = s.reg CAL_FAILS + 1 ∧ (t.cal item target).cause = 5 ∧ (t.cal item target).lastFail = true) ∧
  (∀ (item : Nat) (target : Nat) (s : State), (s.cal item target).state = 7 →
    ∃ t : State, exec (.calRetry item target) s = .next t ∧ (t.cal item target).state = 4 ∧ t.regs = s.regs) ∧
  (∀ (item : Nat) (target : Nat) (s : State), (s.cal item target).asked ≠ [] → calRunning s item target = false →
    ∃ t : State, exec (.calRunStartTimeout item target) s = .next t ∧ (t.cal item target).asked = []) ∧
  (∀ (die i : Nat) (x : Int) (s : State), die < 8 → i < 4 → s.flag (TILE_TEMP.STALE die i) = false → (s.dom (0x020 + die)).state = 3 →
    ∃ t : State, exec (.trimTrackTick [(4 * die + i, x)]) s = .next t ∧ t.fld (TILE_TEMP.TEMP die i) = unsigned 16 x)

/-- A REFLECT or MAPS start that nothing refuses is BUSY with its KIND; an abort ends it with RESULT 4, REASON 7 and event 0x2061; a finished REFLECT
shows the number of events that its measured echo gives, at most 16, and its time, a finished MAPS RESULT 1; a history record takes the next SEQ and
keeps the newest 255 before it; a clear empties records and profiles. Each clause concludes that the command completes, exec answering a next state:
reflectStart, diagCtrlAbort, mapsStart, reflectDone, mapsDone, historyRecord, histClear. (R317, R332, R325, R320, R329, R327, R331) -/
def Obligations.DiagnosticRunsAndHistory : Prop :=
  (∀ (n : Port) (p : Pair) (v : Word) (s : State), bit v.toNat 31 = true → bit v.toNat 30 = false → bit v.toNat 24 = false → s.flag (DIAG_STATUS.BUSY n p) = false → reflectReason s n p = 0 →
    ∃ t : State, exec (.reflectStart n p v) s = .next t ∧ t.flag (DIAG_STATUS.BUSY n p) = true ∧ t.fld (DIAG_STATUS.KIND n p) = 0 ∧ t.fld (DIAG_CTRL.AVG n p) = bits v.toNat 3 0 ∧ t.fld (DIAG_CTRL.LEVEL n p) = bits v.toNat 17 16) ∧
  (∀ (n : Port) (p : Pair) (s : State), reflecting s (gpair n p) = true →
    ∃ t : State, exec (.diagCtrlAbort n p) s = .next t ∧ t.flag (DIAG_STATUS.BUSY n p) = false ∧ t.fld (DIAG_STATUS.RESULT n p) = 4 ∧ t.fld (DIAG_STATUS.REASON n p) = 7 ∧ t.reg (DIAG_ABORTS n p) = s.reg (DIAG_ABORTS n p) + 1 ∧ t.raised = s.raised ++ [⟨0x2061, 0, [n.val, p.val, 7]⟩]) ∧
  (∀ (n : Port) (p : Pair) (v : Word) (s : State), bit v.toNat 31 = true → bit v.toNat 30 = false → bit v.toNat 24 = true → s.flag (DIAG_STATUS.BUSY n p) = false → portShow s n = true → (carriers s n).any (fun q => isStale (s.pair n q)) = false →
    ∃ t : State, exec (.mapsStart n p v) s = .next t ∧ t.flag (DIAG_STATUS.BUSY n p) = true ∧ t.fld (DIAG_STATUS.KIND n p) = 1) ∧
  (∀ (n : Port) (p : Pair) (r : ReflectMeas) (s : State), reflecting s (gpair n p) = true →
    ∃ t : State, exec (.reflectDone n p r) s = .next t ∧ t.flag (DIAG_STATUS.BUSY n p) = false ∧ t.reg (DIAG_RUNS n p) = s.reg (DIAG_RUNS n p) + 1 ∧ t.reg (DIAG_TIME n p) = word r.timeUs ∧ t.fld (DIAG_STATUS.EVENTS n p) = min 16 (classifyAll s n p (reflEvents s n (reflectResult s n p r).refs)).length) ∧
  (∀ (n : Port) (p : Pair) (timeUs : Nat) (s : State), s.flag (DIAG_STATUS.BUSY n p) = true → s.fld (DIAG_STATUS.KIND n p) = 1 →
    ∃ t : State, exec (.mapsDone n p timeUs) s = .next t ∧ t.flag (DIAG_STATUS.BUSY n p) = false ∧ t.fld (DIAG_STATUS.RESULT n p) = 1 ∧ t.reg (DIAG_RUNS n p) = s.reg (DIAG_RUNS n p) + 1) ∧
  (∀ (n : Port) (p : Pair) (s : State), s.flag (DIAG_HIST_CFG.HIST_EN n) = true →
    ∃ t : State, exec (.historyRecord n p) s = .next t ∧ (t.reg (DIAG_HIST_SEQ n p) = word (if (s.reg (DIAG_HIST_SEQ n p)).toNat = 0xFFFFFFFE then 0 else (s.reg (DIAG_HIST_SEQ n p)).toNat + 1) ∧ (t.diag (gpair n p)).recs.head?.map (fun x => x.1) = some (s.reg (DIAG_HIST_SEQ n p)).toNat ∧ (t.diag (gpair n p)).recs.tail = (s.diag (gpair n p)).recs.take 255)) ∧
  (∀ (n : Port) (s : State),
    ∃ t : State, exec (.histClear n) s = .next t ∧ (∀ p ∈ allPairs, (t.diag (gpair n p)).recs = [] ∧ (t.diag (gpair n p)).profiles = [] ∧ t.reg (DIAG_HIST_SEQ n p) = 0))

/-- A CNC_CLAIM whose grant came during a halt is answered with its handle; the first waiting claim that nothing conflicts with is held under the next
handle, and a CNC_CLAIM that waited is answered with it. Each clause concludes that the command completes, exec answering a next state: claimGrant.
(R502) -/
def Obligations.ClaimGrantsGoOn : Prop :=
  (∀ (fails : List Nat) (p : Pkt) (h : Nat) (gs : List (Pkt × Nat)) (s : State), halted s = false → s.granted = (p, h) :: gs → p.op = 0x0900 → bit p.call.flags 2 = false → s.claims.any (fun x => x.handle == h) = true →
    ∃ t : State, exec (.claimGrant fails) s = .next t ∧ t.granted = gs ∧ t.kept.getLast? = some ⟨p, 0, bytesLsb 2 h, s.now⟩) ∧
  (∀ (fails : List Nat) (w : Waiting) (rest : List Waiting) (i k : Nat) (s : State), (halted s = true ∨ s.granted = []) → firstGrant s [] s.waiting = some (w, rest) → w.why = .cal i k →
    ∃ t : State, exec (.claimGrant fails) s = .next t ∧ t.claims = s.claims ++ [⟨nextHandle s, w.kind, w.res, w.pair, w.src, false⟩] ∧ t.reg CNC_GRANTS = s.reg CNC_GRANTS + 1) ∧
  (∀ (fails : List Nat) (w : Waiting) (rest : List Waiting) (p : Pkt) (s : State), halted s = false → s.granted = [] → firstGrant s [] s.waiting = some (w, rest) → w.why = .command p → p.op = 0x0900 → bit p.call.flags 2 = false →
    ∃ t : State, exec (.claimGrant fails) s = .next t ∧ t.claims = s.claims ++ [⟨nextHandle s, w.kind, w.res, w.pair, w.src, true⟩] ∧ t.kept.getLast? = some ⟨p, 0, bytesLsb 2 (nextHandle s), s.now⟩)
end

