-- ==== Sys2Proof/Laws/Store.lean ====
section
/-! SUPPORT. What the sparse store's operations do: a read after a write, and the canonical form kept. -/
namespace Sys2Proof.Machine

variable {α : Type}

theorem SMap.get_drop_same (d : Nat → α) (m : SMap α) (k : Nat) : SMap.get d (SMap.drop m k) k = d k := by
  induction m with
  | nil => rfl
  | cons e m ih =>
    obtain ⟨j, v⟩ := e
    by_cases h : k = j
    · simp [SMap.drop, h]; simpa [h] using ih
    · simp [SMap.drop, h, SMap.get, ih]

theorem SMap.get_drop_other (d : Nat → α) (m : SMap α) (k i : Nat) (h : i ≠ k) :
    SMap.get d (SMap.drop m k) i = SMap.get d m i := by
  induction m with
  | nil => rfl
  | cons e m ih =>
    obtain ⟨j, v⟩ := e
    by_cases hk : k = j
    · have : i ≠ j := by omega
      simp [SMap.drop, hk, SMap.get, this]; simpa [hk] using ih
    · by_cases hi : i = j
      · simp [SMap.drop, hk, SMap.get, hi]
      · simp [SMap.drop, hk, SMap.get, hi, ih]

theorem SMap.get_above (d : Nat → α) (m : SMap α) (b : Nat) (h : SMap.above b m = true) :
    ∀ i, i ≤ b → SMap.get d m i = d i := by
  induction m with
  | nil => intro i _; rfl
  | cons e m ih =>
    obtain ⟨j, v⟩ := e
    simp [SMap.above] at h
    intro i hi
    have : i ≠ j := by omega
    simp [SMap.get, this]
    exact ih h.2 i hi

theorem SMap.get_insert_same (d : Nat → α) (m : SMap α) (k : Nat) (v : α)
    (h : ∀ e ∈ m, e.1 ≠ k) : SMap.get d (SMap.insert m k v) k = v := by
  induction m with
  | nil => simp [SMap.insert, SMap.get]
  | cons e m ih =>
    obtain ⟨j, w⟩ := e
    have hj : j ≠ k := h (j, w) (by simp)
    by_cases hk : k < j
    · simp [SMap.insert, hk, SMap.get]
    · have : k ≠ j := fun x => hj x.symm
      simp [SMap.insert, hk, SMap.get, this]
      exact ih (fun e he => h e (by simp [he]))

theorem SMap.get_insert_other (d : Nat → α) (m : SMap α) (k i : Nat) (v : α) (hi : i ≠ k) :
    SMap.get d (SMap.insert m k v) i = SMap.get d m i := by
  induction m with
  | nil => simp [SMap.insert, SMap.get, hi]
  | cons e m ih =>
    obtain ⟨j, w⟩ := e
    by_cases hk : k < j
    · simp [SMap.insert, hk, SMap.get, hi]
    · by_cases hj : i = j
      · simp [SMap.insert, hk, SMap.get, hj]
      · simp [SMap.insert, hk, SMap.get, hj, ih]

theorem SMap.drop_no_key (m : SMap α) (k : Nat) : ∀ e ∈ SMap.drop m k, e.1 ≠ k := by
  induction m with
  | nil => intro e he; simp [SMap.drop] at he
  | cons e m ih =>
    obtain ⟨j, v⟩ := e
    by_cases h : k = j
    · intro e he
      subst h
      simp only [SMap.drop, if_true] at he
      exact ih e he
    · intro e he
      simp [SMap.drop, h] at he
      rcases he with he | he
      · subst he; exact fun x => h x.symm
      · exact ih e he

/-- A read after a write to the same key gives the value written. -/
@[simp] theorem SMap.get_put_same [DecidableEq α] (d : Nat → α) (m : SMap α) (k : Nat) (v : α) :
    SMap.get d (SMap.put d m k v) k = v := by
  unfold SMap.put
  split
  · rename_i h; rw [SMap.get_drop_same, h]
  · exact SMap.get_insert_same d _ k v (SMap.drop_no_key m k)

/-- A write leaves every other key as it was. -/
theorem SMap.get_put_other [DecidableEq α] (d : Nat → α) (m : SMap α) (k i : Nat) (v : α) (h : i ≠ k) :
    SMap.get d (SMap.put d m k v) i = SMap.get d m i := by
  unfold SMap.put
  split
  · exact SMap.get_drop_other d m k i h
  · rw [SMap.get_insert_other d _ k i v h, SMap.get_drop_other d m k i h]

theorem SMap.above_drop (m : SMap α) (b k : Nat) (h : SMap.above b m = true) :
    SMap.above b (SMap.drop m k) = true := by
  induction m with
  | nil => rfl
  | cons e m ih =>
    obtain ⟨j, v⟩ := e
    simp [SMap.above] at h
    by_cases hk : k = j
    · simpa [SMap.drop, hk] using (hk ▸ ih h.2)
    · simp [SMap.drop, hk, SMap.above, h.1, ih h.2]

theorem SMap.above_insert (m : SMap α) (b k : Nat) (v : α) (h : SMap.above b m = true) (hb : b < k) :
    SMap.above b (SMap.insert m k v) = true := by
  induction m with
  | nil => simp [SMap.insert, SMap.above, hb]
  | cons e m ih =>
    obtain ⟨j, w⟩ := e
    simp [SMap.above] at h
    by_cases hk : k < j
    · simp [SMap.insert, hk, SMap.above, hb, h.1, h.2]
    · simp [SMap.insert, hk, SMap.above, h.1, ih h.2]

theorem SMap.above_mono (m : SMap α) (a b : Nat) (h : SMap.above b m = true) (hab : a ≤ b) :
    SMap.above a m = true := by
  induction m with
  | nil => rfl
  | cons e m ih =>
    obtain ⟨j, v⟩ := e
    simp [SMap.above] at h ⊢
    exact ⟨by omega, ih h.2⟩

theorem SMap.wf_drop [DecidableEq α] (d : Nat → α) (m : SMap α) (k : Nat) (h : SMap.wf d m = true) :
    SMap.wf d (SMap.drop m k) = true := by
  induction m with
  | nil => rfl
  | cons e m ih =>
    obtain ⟨j, v⟩ := e
    simp [SMap.wf] at h
    by_cases hk : k = j
    · simpa [SMap.drop, hk] using (hk ▸ ih h.2)
    · simp [SMap.drop, hk, SMap.wf, h.1.2, ih h.2, SMap.above_drop _ _ _ h.1.1]

theorem SMap.wf_insert [DecidableEq α] (d : Nat → α) (m : SMap α) (k : Nat) (v : α)
    (hv : v ≠ d k) (hk : ∀ e ∈ m, e.1 ≠ k) (h : SMap.wf d m = true) :
    SMap.wf d (SMap.insert m k v) = true := by
  induction m with
  | nil => simp [SMap.insert, SMap.wf, SMap.above, hv]
  | cons e m ih =>
    obtain ⟨j, w⟩ := e
    have hj : j ≠ k := hk (j, w) (by simp)
    simp [SMap.wf] at h
    by_cases hlt : k < j
    · simp [SMap.insert, hlt, SMap.wf, SMap.above, hv, h.1.1, h.1.2, h.2]
      exact SMap.above_mono m k j h.1.1 (by omega)
    · have hjk : j < k := by omega
      simp [SMap.insert, hlt, SMap.wf, h.1.2]
      exact ⟨SMap.above_insert m j k v h.1.1 hjk, ih (fun e he => hk e (by simp [he])) h.2⟩

/-- A write keeps the canonical form. -/
theorem SMap.wf_put [DecidableEq α] (d : Nat → α) (m : SMap α) (k : Nat) (v : α) (h : SMap.wf d m = true) :
    SMap.wf d (SMap.put d m k v) = true := by
  unfold SMap.put
  split
  · exact SMap.wf_drop d m k h
  · rename_i hv
    exact SMap.wf_insert d _ k v hv (SMap.drop_no_key m k) (SMap.wf_drop d m k h)

theorem SMap.above_filter (m : SMap α) (b : Nat) (q : Nat × α → Bool) (h : SMap.above b m = true) :
    SMap.above b (m.filter q) = true := by
  induction m with
  | nil => rfl
  | cons e m ih =>
    obtain ⟨j, v⟩ := e
    simp [SMap.above] at h
    by_cases hq : q (j, v) <;> simp [hq, SMap.above, h.1, ih h.2]

/-- Taking entries out keeps the canonical form. -/
theorem SMap.wf_filter [DecidableEq α] (d : Nat → α) (m : SMap α) (q : Nat × α → Bool) (h : SMap.wf d m = true) :
    SMap.wf d (m.filter q) = true := by
  induction m with
  | nil => rfl
  | cons e m ih =>
    obtain ⟨j, v⟩ := e
    simp [SMap.wf] at h
    by_cases hq : q (j, v) <;> simp [hq, SMap.wf, h.1.2, ih h.2, SMap.above_filter _ _ _ h.1.1]

theorem SMap.above_filterMap (m : SMap α) (b : Nat) (f : Nat × α → Option (Nat × α)) (hf : ∀ e e', f e = some e' → e'.1 = e.1)
    (h : SMap.above b m = true) : SMap.above b (m.filterMap f) = true := by
  induction m with
  | nil => rfl
  | cons e m ih =>
    obtain ⟨j, v⟩ := e
    simp [SMap.above] at h
    cases hq : f (j, v) with
    | none => simp [hq, ih h.2]
    | some e' =>
      obtain ⟨j', v'⟩ := e'
      have hj := hf _ _ hq
      simp only at hj
      simp [hq, SMap.above, ih h.2, hj, h.1]

/-- Changing entries in place, to what their key does not read as unlisted, keeps the canonical form. -/
theorem SMap.wf_filterMap [DecidableEq α] (d : Nat → α) (m : SMap α) (f : Nat × α → Option (Nat × α))
    (hf : ∀ e e', f e = some e' → e'.1 = e.1) (hd : ∀ e e', e.2 ≠ d e.1 → f e = some e' → e'.2 ≠ d e'.1)
    (h : SMap.wf d m = true) : SMap.wf d (m.filterMap f) = true := by
  induction m with
  | nil => rfl
  | cons e m ih =>
    obtain ⟨j, v⟩ := e
    simp [SMap.wf] at h
    cases hq : f (j, v) with
    | none => simp [hq, ih h.2]
    | some e' =>
      obtain ⟨j', v'⟩ := e'
      have hj := hf _ _ hq
      have hv := hd _ _ h.1.2 hq
      simp only at hj hv
      simp [hq, SMap.wf, ih h.2, hj, hj ▸ hv, SMap.above_filterMap m j f hf h.1.1]

end Sys2Proof.Machine
end

