-- ==== Sys2Proof/Laws/State.lean ====
section
/-! SUPPORT. What the named updates of the state leave as it was, field by field, and what they change. -/
namespace Sys2Proof.Machine

variable (s : State)

@[simp] theorem State.setReg_now (a : Nat) (v : Word) : (s.setReg a v).now = s.now := by rw [State.setReg]
@[simp] theorem State.setReg_free (a : Nat) (v : Word) : (s.setReg a v).free = s.free := by rw [State.setReg]
@[simp] theorem State.setReg_ports (a : Nat) (v : Word) : (s.setReg a v).ports = s.ports := by rw [State.setReg]
@[simp] theorem State.setReg_pairs (a : Nat) (v : Word) : (s.setReg a v).pairs = s.pairs := by rw [State.setReg]
@[simp] theorem State.setReg_links (a : Nat) (v : Word) : (s.setReg a v).links = s.links := by rw [State.setReg]
@[simp] theorem State.setReg_queues (a : Nat) (v : Word) : (s.setReg a v).queues = s.queues := by rw [State.setReg]
@[simp] theorem State.setReg_hosts (a : Nat) (v : Word) : (s.setReg a v).hosts = s.hosts := by rw [State.setReg]
@[simp] theorem State.setReg_lanes (a : Nat) (v : Word) : (s.setReg a v).lanes = s.lanes := by rw [State.setReg]
@[simp] theorem State.setReg_laneOf (a : Nat) (v : Word) : (s.setReg a v).laneOf = s.laneOf := by rw [State.setReg]
@[simp] theorem State.setReg_tbl (a : Nat) (v : Word) : (s.setReg a v).tbl = s.tbl := by rw [State.setReg]
@[simp] theorem State.setReg_held (a : Nat) (v : Word) : (s.setReg a v).held = s.held := by rw [State.setReg]
@[simp] theorem State.setReg_snr (a : Nat) (v : Word) : (s.setReg a v).snr = s.snr := by rw [State.setReg]
@[simp] theorem State.setReg_erle (a : Nat) (v : Word) : (s.setReg a v).erle = s.erle := by rw [State.setReg]
@[simp] theorem State.setReg_errs (a : Nat) (v : Word) : (s.setReg a v).errs = s.errs := by rw [State.setReg]
@[simp] theorem State.setReg_sigma (a : Nat) (v : Word) : (s.setReg a v).sigma = s.sigma := by rw [State.setReg]
@[simp] theorem State.setReg_noise (a : Nat) (v : Word) : (s.setReg a v).noise = s.noise := by rw [State.setReg]
@[simp] theorem State.setReg_coef (a : Nat) (v : Word) : (s.setReg a v).coef = s.coef := by rw [State.setReg]
@[simp] theorem State.setReg_seeds (a : Nat) (v : Word) : (s.setReg a v).seeds = s.seeds := by rw [State.setReg]
@[simp] theorem State.setReg_banks (a : Nat) (v : Word) : (s.setReg a v).banks = s.banks := by rw [State.setReg]
@[simp] theorem State.setReg_rows (a : Nat) (v : Word) : (s.setReg a v).rows = s.rows := by rw [State.setReg]
@[simp] theorem State.setReg_tiles (a : Nat) (v : Word) : (s.setReg a v).tiles = s.tiles := by rw [State.setReg]
@[simp] theorem State.setReg_diags (a : Nat) (v : Word) : (s.setReg a v).diags = s.diags := by rw [State.setReg]
@[simp] theorem State.setReg_maps (a : Nat) (v : Word) : (s.setReg a v).maps = s.maps := by rw [State.setReg]
@[simp] theorem State.setReg_traces (a : Nat) (v : Word) : (s.setReg a v).traces = s.traces := by rw [State.setReg]
@[simp] theorem State.setReg_doms (a : Nat) (v : Word) : (s.setReg a v).doms = s.doms := by rw [State.setReg]
@[simp] theorem State.setReg_cals (a : Nat) (v : Word) : (s.setReg a v).cals = s.cals := by rw [State.setReg]
@[simp] theorem State.setReg_calRuns (a : Nat) (v : Word) : (s.setReg a v).calRuns = s.calRuns := by rw [State.setReg]
@[simp] theorem State.setReg_calSaved (a : Nat) (v : Word) : (s.setReg a v).calSaved = s.calSaved := by rw [State.setReg]
@[simp] theorem State.setReg_queued (a : Nat) (v : Word) : (s.setReg a v).queued = s.queued := by rw [State.setReg]
@[simp] theorem State.setReg_running (a : Nat) (v : Word) : (s.setReg a v).running = s.running := by rw [State.setReg]
@[simp] theorem State.setReg_kept (a : Nat) (v : Word) : (s.setReg a v).kept = s.kept := by rw [State.setReg]
@[simp] theorem State.setReg_jobs (a : Nat) (v : Word) : (s.setReg a v).jobs = s.jobs := by rw [State.setReg]
@[simp] theorem State.setReg_records (a : Nat) (v : Word) : (s.setReg a v).records = s.records := by rw [State.setReg]
@[simp] theorem State.setReg_eyes (a : Nat) (v : Word) : (s.setReg a v).eyes = s.eyes := by rw [State.setReg]
@[simp] theorem State.setReg_completions (a : Nat) (v : Word) : (s.setReg a v).completions = s.completions := by rw [State.setReg]
@[simp] theorem State.setReg_claims (a : Nat) (v : Word) : (s.setReg a v).claims = s.claims := by rw [State.setReg]
@[simp] theorem State.setReg_waiting (a : Nat) (v : Word) : (s.setReg a v).waiting = s.waiting := by rw [State.setReg]
@[simp] theorem State.setReg_later (a : Nat) (v : Word) : (s.setReg a v).later = s.later := by rw [State.setReg]
@[simp] theorem State.setReg_granted (a : Nat) (v : Word) : (s.setReg a v).granted = s.granted := by rw [State.setReg]
@[simp] theorem State.setReg_tests (a : Nat) (v : Word) : (s.setReg a v).tests = s.tests := by rw [State.setReg]
@[simp] theorem State.setReg_nvOpen (a : Nat) (v : Word) : (s.setReg a v).nvOpen = s.nvOpen := by rw [State.setReg]
@[simp] theorem State.setReg_mram (a : Nat) (v : Word) : (s.setReg a v).mram = s.mram := by rw [State.setReg]
@[simp] theorem State.setReg_gbQueue (a : Nat) (v : Word) : (s.setReg a v).gbQueue = s.gbQueue := by rw [State.setReg]
@[simp] theorem State.setReg_gbLimits (a : Nat) (v : Word) : (s.setReg a v).gbLimits = s.gbLimits := by rw [State.setReg]
@[simp] theorem State.setReg_gbWindow (a : Nat) (v : Word) : (s.setReg a v).gbWindow = s.gbWindow := by rw [State.setReg]
@[simp] theorem State.setReg_shadows (a : Nat) (v : Word) : (s.setReg a v).shadows = s.shadows := by rw [State.setReg]
@[simp] theorem State.setReg_highs (a : Nat) (v : Word) : (s.setReg a v).highs = s.highs := by rw [State.setReg]
@[simp] theorem State.setReg_core (a : Nat) (v : Word) : (s.setReg a v).core = s.core := by rw [State.setReg]
@[simp] theorem State.setReg_hub (a : Nat) (v : Word) : (s.setReg a v).hub = s.hub := by rw [State.setReg]
@[simp] theorem State.setReg_raised (a : Nat) (v : Word) : (s.setReg a v).raised = s.raised := by rw [State.setReg]
@[simp] theorem State.setReg_out (a : Nat) (v : Word) : (s.setReg a v).out = s.out := by rw [State.setReg]
@[simp] theorem State.setReg_pending (a : Nat) (v : Word) : (s.setReg a v).pending = s.pending := by rw [State.setReg]

@[simp] theorem State.setFld_now (f : Fld) (v : Nat) : (s.setFld f v).now = s.now := by rw [State.setFld, State.setReg_now]
@[simp] theorem State.setFld_free (f : Fld) (v : Nat) : (s.setFld f v).free = s.free := by rw [State.setFld, State.setReg_free]
@[simp] theorem State.setFld_ports (f : Fld) (v : Nat) : (s.setFld f v).ports = s.ports := by rw [State.setFld, State.setReg_ports]
@[simp] theorem State.setFld_pairs (f : Fld) (v : Nat) : (s.setFld f v).pairs = s.pairs := by rw [State.setFld, State.setReg_pairs]
@[simp] theorem State.setFld_links (f : Fld) (v : Nat) : (s.setFld f v).links = s.links := by rw [State.setFld, State.setReg_links]
@[simp] theorem State.setFld_queues (f : Fld) (v : Nat) : (s.setFld f v).queues = s.queues := by rw [State.setFld, State.setReg_queues]
@[simp] theorem State.setFld_hosts (f : Fld) (v : Nat) : (s.setFld f v).hosts = s.hosts := by rw [State.setFld, State.setReg_hosts]
@[simp] theorem State.setFld_lanes (f : Fld) (v : Nat) : (s.setFld f v).lanes = s.lanes := by rw [State.setFld, State.setReg_lanes]
@[simp] theorem State.setFld_laneOf (f : Fld) (v : Nat) : (s.setFld f v).laneOf = s.laneOf := by rw [State.setFld, State.setReg_laneOf]
@[simp] theorem State.setFld_tbl (f : Fld) (v : Nat) : (s.setFld f v).tbl = s.tbl := by rw [State.setFld, State.setReg_tbl]
@[simp] theorem State.setFld_held (f : Fld) (v : Nat) : (s.setFld f v).held = s.held := by rw [State.setFld, State.setReg_held]
@[simp] theorem State.setFld_snr (f : Fld) (v : Nat) : (s.setFld f v).snr = s.snr := by rw [State.setFld, State.setReg_snr]
@[simp] theorem State.setFld_erle (f : Fld) (v : Nat) : (s.setFld f v).erle = s.erle := by rw [State.setFld, State.setReg_erle]
@[simp] theorem State.setFld_errs (f : Fld) (v : Nat) : (s.setFld f v).errs = s.errs := by rw [State.setFld, State.setReg_errs]
@[simp] theorem State.setFld_sigma (f : Fld) (v : Nat) : (s.setFld f v).sigma = s.sigma := by rw [State.setFld, State.setReg_sigma]
@[simp] theorem State.setFld_noise (f : Fld) (v : Nat) : (s.setFld f v).noise = s.noise := by rw [State.setFld, State.setReg_noise]
@[simp] theorem State.setFld_coef (f : Fld) (v : Nat) : (s.setFld f v).coef = s.coef := by rw [State.setFld, State.setReg_coef]
@[simp] theorem State.setFld_seeds (f : Fld) (v : Nat) : (s.setFld f v).seeds = s.seeds := by rw [State.setFld, State.setReg_seeds]
@[simp] theorem State.setFld_banks (f : Fld) (v : Nat) : (s.setFld f v).banks = s.banks := by rw [State.setFld, State.setReg_banks]
@[simp] theorem State.setFld_rows (f : Fld) (v : Nat) : (s.setFld f v).rows = s.rows := by rw [State.setFld, State.setReg_rows]
@[simp] theorem State.setFld_tiles (f : Fld) (v : Nat) : (s.setFld f v).tiles = s.tiles := by rw [State.setFld, State.setReg_tiles]
@[simp] theorem State.setFld_diags (f : Fld) (v : Nat) : (s.setFld f v).diags = s.diags := by rw [State.setFld, State.setReg_diags]
@[simp] theorem State.setFld_maps (f : Fld) (v : Nat) : (s.setFld f v).maps = s.maps := by rw [State.setFld, State.setReg_maps]
@[simp] theorem State.setFld_traces (f : Fld) (v : Nat) : (s.setFld f v).traces = s.traces := by rw [State.setFld, State.setReg_traces]
@[simp] theorem State.setFld_doms (f : Fld) (v : Nat) : (s.setFld f v).doms = s.doms := by rw [State.setFld, State.setReg_doms]
@[simp] theorem State.setFld_cals (f : Fld) (v : Nat) : (s.setFld f v).cals = s.cals := by rw [State.setFld, State.setReg_cals]
@[simp] theorem State.setFld_calRuns (f : Fld) (v : Nat) : (s.setFld f v).calRuns = s.calRuns := by rw [State.setFld, State.setReg_calRuns]
@[simp] theorem State.setFld_calSaved (f : Fld) (v : Nat) : (s.setFld f v).calSaved = s.calSaved := by rw [State.setFld, State.setReg_calSaved]
@[simp] theorem State.setFld_queued (f : Fld) (v : Nat) : (s.setFld f v).queued = s.queued := by rw [State.setFld, State.setReg_queued]
@[simp] theorem State.setFld_running (f : Fld) (v : Nat) : (s.setFld f v).running = s.running := by rw [State.setFld, State.setReg_running]
@[simp] theorem State.setFld_kept (f : Fld) (v : Nat) : (s.setFld f v).kept = s.kept := by rw [State.setFld, State.setReg_kept]
@[simp] theorem State.setFld_jobs (f : Fld) (v : Nat) : (s.setFld f v).jobs = s.jobs := by rw [State.setFld, State.setReg_jobs]
@[simp] theorem State.setFld_records (f : Fld) (v : Nat) : (s.setFld f v).records = s.records := by rw [State.setFld, State.setReg_records]
@[simp] theorem State.setFld_eyes (f : Fld) (v : Nat) : (s.setFld f v).eyes = s.eyes := by rw [State.setFld, State.setReg_eyes]
@[simp] theorem State.setFld_completions (f : Fld) (v : Nat) : (s.setFld f v).completions = s.completions := by rw [State.setFld, State.setReg_completions]
@[simp] theorem State.setFld_claims (f : Fld) (v : Nat) : (s.setFld f v).claims = s.claims := by rw [State.setFld, State.setReg_claims]
@[simp] theorem State.setFld_waiting (f : Fld) (v : Nat) : (s.setFld f v).waiting = s.waiting := by rw [State.setFld, State.setReg_waiting]
@[simp] theorem State.setFld_later (f : Fld) (v : Nat) : (s.setFld f v).later = s.later := by rw [State.setFld, State.setReg_later]
@[simp] theorem State.setFld_granted (f : Fld) (v : Nat) : (s.setFld f v).granted = s.granted := by rw [State.setFld, State.setReg_granted]
@[simp] theorem State.setFld_tests (f : Fld) (v : Nat) : (s.setFld f v).tests = s.tests := by rw [State.setFld, State.setReg_tests]
@[simp] theorem State.setFld_nvOpen (f : Fld) (v : Nat) : (s.setFld f v).nvOpen = s.nvOpen := by rw [State.setFld, State.setReg_nvOpen]
@[simp] theorem State.setFld_mram (f : Fld) (v : Nat) : (s.setFld f v).mram = s.mram := by rw [State.setFld, State.setReg_mram]
@[simp] theorem State.setFld_gbQueue (f : Fld) (v : Nat) : (s.setFld f v).gbQueue = s.gbQueue := by rw [State.setFld, State.setReg_gbQueue]
@[simp] theorem State.setFld_gbLimits (f : Fld) (v : Nat) : (s.setFld f v).gbLimits = s.gbLimits := by rw [State.setFld, State.setReg_gbLimits]
@[simp] theorem State.setFld_gbWindow (f : Fld) (v : Nat) : (s.setFld f v).gbWindow = s.gbWindow := by rw [State.setFld, State.setReg_gbWindow]
@[simp] theorem State.setFld_shadows (f : Fld) (v : Nat) : (s.setFld f v).shadows = s.shadows := by rw [State.setFld, State.setReg_shadows]
@[simp] theorem State.setFld_highs (f : Fld) (v : Nat) : (s.setFld f v).highs = s.highs := by rw [State.setFld, State.setReg_highs]
@[simp] theorem State.setFld_core (f : Fld) (v : Nat) : (s.setFld f v).core = s.core := by rw [State.setFld, State.setReg_core]
@[simp] theorem State.setFld_hub (f : Fld) (v : Nat) : (s.setFld f v).hub = s.hub := by rw [State.setFld, State.setReg_hub]
@[simp] theorem State.setFld_raised (f : Fld) (v : Nat) : (s.setFld f v).raised = s.raised := by rw [State.setFld, State.setReg_raised]
@[simp] theorem State.setFld_out (f : Fld) (v : Nat) : (s.setFld f v).out = s.out := by rw [State.setFld, State.setReg_out]
@[simp] theorem State.setFld_pending (f : Fld) (v : Nat) : (s.setFld f v).pending = s.pending := by rw [State.setFld, State.setReg_pending]

@[simp] theorem State.clearReg_now (a : Nat) : (s.clearReg a).now = s.now := by rw [State.clearReg, State.setReg_now]
@[simp] theorem State.clearReg_free (a : Nat) : (s.clearReg a).free = s.free := by rw [State.clearReg, State.setReg_free]
@[simp] theorem State.clearReg_ports (a : Nat) : (s.clearReg a).ports = s.ports := by rw [State.clearReg, State.setReg_ports]
@[simp] theorem State.clearReg_pairs (a : Nat) : (s.clearReg a).pairs = s.pairs := by rw [State.clearReg, State.setReg_pairs]
@[simp] theorem State.clearReg_links (a : Nat) : (s.clearReg a).links = s.links := by rw [State.clearReg, State.setReg_links]
@[simp] theorem State.clearReg_queues (a : Nat) : (s.clearReg a).queues = s.queues := by rw [State.clearReg, State.setReg_queues]
@[simp] theorem State.clearReg_hosts (a : Nat) : (s.clearReg a).hosts = s.hosts := by rw [State.clearReg, State.setReg_hosts]
@[simp] theorem State.clearReg_lanes (a : Nat) : (s.clearReg a).lanes = s.lanes := by rw [State.clearReg, State.setReg_lanes]
@[simp] theorem State.clearReg_laneOf (a : Nat) : (s.clearReg a).laneOf = s.laneOf := by rw [State.clearReg, State.setReg_laneOf]
@[simp] theorem State.clearReg_tbl (a : Nat) : (s.clearReg a).tbl = s.tbl := by rw [State.clearReg, State.setReg_tbl]
@[simp] theorem State.clearReg_held (a : Nat) : (s.clearReg a).held = s.held := by rw [State.clearReg, State.setReg_held]
@[simp] theorem State.clearReg_snr (a : Nat) : (s.clearReg a).snr = s.snr := by rw [State.clearReg, State.setReg_snr]
@[simp] theorem State.clearReg_erle (a : Nat) : (s.clearReg a).erle = s.erle := by rw [State.clearReg, State.setReg_erle]
@[simp] theorem State.clearReg_errs (a : Nat) : (s.clearReg a).errs = s.errs := by rw [State.clearReg, State.setReg_errs]
@[simp] theorem State.clearReg_sigma (a : Nat) : (s.clearReg a).sigma = s.sigma := by rw [State.clearReg, State.setReg_sigma]
@[simp] theorem State.clearReg_noise (a : Nat) : (s.clearReg a).noise = s.noise := by rw [State.clearReg, State.setReg_noise]
@[simp] theorem State.clearReg_coef (a : Nat) : (s.clearReg a).coef = s.coef := by rw [State.clearReg, State.setReg_coef]
@[simp] theorem State.clearReg_seeds (a : Nat) : (s.clearReg a).seeds = s.seeds := by rw [State.clearReg, State.setReg_seeds]
@[simp] theorem State.clearReg_banks (a : Nat) : (s.clearReg a).banks = s.banks := by rw [State.clearReg, State.setReg_banks]
@[simp] theorem State.clearReg_rows (a : Nat) : (s.clearReg a).rows = s.rows := by rw [State.clearReg, State.setReg_rows]
@[simp] theorem State.clearReg_tiles (a : Nat) : (s.clearReg a).tiles = s.tiles := by rw [State.clearReg, State.setReg_tiles]
@[simp] theorem State.clearReg_diags (a : Nat) : (s.clearReg a).diags = s.diags := by rw [State.clearReg, State.setReg_diags]
@[simp] theorem State.clearReg_maps (a : Nat) : (s.clearReg a).maps = s.maps := by rw [State.clearReg, State.setReg_maps]
@[simp] theorem State.clearReg_traces (a : Nat) : (s.clearReg a).traces = s.traces := by rw [State.clearReg, State.setReg_traces]
@[simp] theorem State.clearReg_doms (a : Nat) : (s.clearReg a).doms = s.doms := by rw [State.clearReg, State.setReg_doms]
@[simp] theorem State.clearReg_cals (a : Nat) : (s.clearReg a).cals = s.cals := by rw [State.clearReg, State.setReg_cals]
@[simp] theorem State.clearReg_calRuns (a : Nat) : (s.clearReg a).calRuns = s.calRuns := by rw [State.clearReg, State.setReg_calRuns]
@[simp] theorem State.clearReg_calSaved (a : Nat) : (s.clearReg a).calSaved = s.calSaved := by rw [State.clearReg, State.setReg_calSaved]
@[simp] theorem State.clearReg_queued (a : Nat) : (s.clearReg a).queued = s.queued := by rw [State.clearReg, State.setReg_queued]
@[simp] theorem State.clearReg_running (a : Nat) : (s.clearReg a).running = s.running := by rw [State.clearReg, State.setReg_running]
@[simp] theorem State.clearReg_kept (a : Nat) : (s.clearReg a).kept = s.kept := by rw [State.clearReg, State.setReg_kept]
@[simp] theorem State.clearReg_jobs (a : Nat) : (s.clearReg a).jobs = s.jobs := by rw [State.clearReg, State.setReg_jobs]
@[simp] theorem State.clearReg_records (a : Nat) : (s.clearReg a).records = s.records := by rw [State.clearReg, State.setReg_records]
@[simp] theorem State.clearReg_eyes (a : Nat) : (s.clearReg a).eyes = s.eyes := by rw [State.clearReg, State.setReg_eyes]
@[simp] theorem State.clearReg_completions (a : Nat) : (s.clearReg a).completions = s.completions := by rw [State.clearReg, State.setReg_completions]
@[simp] theorem State.clearReg_claims (a : Nat) : (s.clearReg a).claims = s.claims := by rw [State.clearReg, State.setReg_claims]
@[simp] theorem State.clearReg_waiting (a : Nat) : (s.clearReg a).waiting = s.waiting := by rw [State.clearReg, State.setReg_waiting]
@[simp] theorem State.clearReg_later (a : Nat) : (s.clearReg a).later = s.later := by rw [State.clearReg, State.setReg_later]
@[simp] theorem State.clearReg_granted (a : Nat) : (s.clearReg a).granted = s.granted := by rw [State.clearReg, State.setReg_granted]
@[simp] theorem State.clearReg_tests (a : Nat) : (s.clearReg a).tests = s.tests := by rw [State.clearReg, State.setReg_tests]
@[simp] theorem State.clearReg_nvOpen (a : Nat) : (s.clearReg a).nvOpen = s.nvOpen := by rw [State.clearReg, State.setReg_nvOpen]
@[simp] theorem State.clearReg_mram (a : Nat) : (s.clearReg a).mram = s.mram := by rw [State.clearReg, State.setReg_mram]
@[simp] theorem State.clearReg_gbQueue (a : Nat) : (s.clearReg a).gbQueue = s.gbQueue := by rw [State.clearReg, State.setReg_gbQueue]
@[simp] theorem State.clearReg_gbLimits (a : Nat) : (s.clearReg a).gbLimits = s.gbLimits := by rw [State.clearReg, State.setReg_gbLimits]
@[simp] theorem State.clearReg_gbWindow (a : Nat) : (s.clearReg a).gbWindow = s.gbWindow := by rw [State.clearReg, State.setReg_gbWindow]
@[simp] theorem State.clearReg_shadows (a : Nat) : (s.clearReg a).shadows = s.shadows := by rw [State.clearReg, State.setReg_shadows]
@[simp] theorem State.clearReg_highs (a : Nat) : (s.clearReg a).highs = s.highs := by rw [State.clearReg, State.setReg_highs]
@[simp] theorem State.clearReg_core (a : Nat) : (s.clearReg a).core = s.core := by rw [State.clearReg, State.setReg_core]
@[simp] theorem State.clearReg_hub (a : Nat) : (s.clearReg a).hub = s.hub := by rw [State.clearReg, State.setReg_hub]
@[simp] theorem State.clearReg_raised (a : Nat) : (s.clearReg a).raised = s.raised := by rw [State.clearReg, State.setReg_raised]
@[simp] theorem State.clearReg_out (a : Nat) : (s.clearReg a).out = s.out := by rw [State.clearReg, State.setReg_out]
@[simp] theorem State.clearReg_pending (a : Nat) : (s.clearReg a).pending = s.pending := by rw [State.clearReg, State.setReg_pending]

@[simp] theorem State.inc_now (a : Nat) : (s.inc a).now = s.now := by rw [State.inc, State.setReg_now]
@[simp] theorem State.inc_free (a : Nat) : (s.inc a).free = s.free := by rw [State.inc, State.setReg_free]
@[simp] theorem State.inc_ports (a : Nat) : (s.inc a).ports = s.ports := by rw [State.inc, State.setReg_ports]
@[simp] theorem State.inc_pairs (a : Nat) : (s.inc a).pairs = s.pairs := by rw [State.inc, State.setReg_pairs]
@[simp] theorem State.inc_links (a : Nat) : (s.inc a).links = s.links := by rw [State.inc, State.setReg_links]
@[simp] theorem State.inc_queues (a : Nat) : (s.inc a).queues = s.queues := by rw [State.inc, State.setReg_queues]
@[simp] theorem State.inc_hosts (a : Nat) : (s.inc a).hosts = s.hosts := by rw [State.inc, State.setReg_hosts]
@[simp] theorem State.inc_lanes (a : Nat) : (s.inc a).lanes = s.lanes := by rw [State.inc, State.setReg_lanes]
@[simp] theorem State.inc_laneOf (a : Nat) : (s.inc a).laneOf = s.laneOf := by rw [State.inc, State.setReg_laneOf]
@[simp] theorem State.inc_tbl (a : Nat) : (s.inc a).tbl = s.tbl := by rw [State.inc, State.setReg_tbl]
@[simp] theorem State.inc_held (a : Nat) : (s.inc a).held = s.held := by rw [State.inc, State.setReg_held]
@[simp] theorem State.inc_snr (a : Nat) : (s.inc a).snr = s.snr := by rw [State.inc, State.setReg_snr]
@[simp] theorem State.inc_erle (a : Nat) : (s.inc a).erle = s.erle := by rw [State.inc, State.setReg_erle]
@[simp] theorem State.inc_errs (a : Nat) : (s.inc a).errs = s.errs := by rw [State.inc, State.setReg_errs]
@[simp] theorem State.inc_sigma (a : Nat) : (s.inc a).sigma = s.sigma := by rw [State.inc, State.setReg_sigma]
@[simp] theorem State.inc_noise (a : Nat) : (s.inc a).noise = s.noise := by rw [State.inc, State.setReg_noise]
@[simp] theorem State.inc_coef (a : Nat) : (s.inc a).coef = s.coef := by rw [State.inc, State.setReg_coef]
@[simp] theorem State.inc_seeds (a : Nat) : (s.inc a).seeds = s.seeds := by rw [State.inc, State.setReg_seeds]
@[simp] theorem State.inc_banks (a : Nat) : (s.inc a).banks = s.banks := by rw [State.inc, State.setReg_banks]
@[simp] theorem State.inc_rows (a : Nat) : (s.inc a).rows = s.rows := by rw [State.inc, State.setReg_rows]
@[simp] theorem State.inc_tiles (a : Nat) : (s.inc a).tiles = s.tiles := by rw [State.inc, State.setReg_tiles]
@[simp] theorem State.inc_diags (a : Nat) : (s.inc a).diags = s.diags := by rw [State.inc, State.setReg_diags]
@[simp] theorem State.inc_maps (a : Nat) : (s.inc a).maps = s.maps := by rw [State.inc, State.setReg_maps]
@[simp] theorem State.inc_traces (a : Nat) : (s.inc a).traces = s.traces := by rw [State.inc, State.setReg_traces]
@[simp] theorem State.inc_doms (a : Nat) : (s.inc a).doms = s.doms := by rw [State.inc, State.setReg_doms]
@[simp] theorem State.inc_cals (a : Nat) : (s.inc a).cals = s.cals := by rw [State.inc, State.setReg_cals]
@[simp] theorem State.inc_calRuns (a : Nat) : (s.inc a).calRuns = s.calRuns := by rw [State.inc, State.setReg_calRuns]
@[simp] theorem State.inc_calSaved (a : Nat) : (s.inc a).calSaved = s.calSaved := by rw [State.inc, State.setReg_calSaved]
@[simp] theorem State.inc_queued (a : Nat) : (s.inc a).queued = s.queued := by rw [State.inc, State.setReg_queued]
@[simp] theorem State.inc_running (a : Nat) : (s.inc a).running = s.running := by rw [State.inc, State.setReg_running]
@[simp] theorem State.inc_kept (a : Nat) : (s.inc a).kept = s.kept := by rw [State.inc, State.setReg_kept]
@[simp] theorem State.inc_jobs (a : Nat) : (s.inc a).jobs = s.jobs := by rw [State.inc, State.setReg_jobs]
@[simp] theorem State.inc_records (a : Nat) : (s.inc a).records = s.records := by rw [State.inc, State.setReg_records]
@[simp] theorem State.inc_eyes (a : Nat) : (s.inc a).eyes = s.eyes := by rw [State.inc, State.setReg_eyes]
@[simp] theorem State.inc_completions (a : Nat) : (s.inc a).completions = s.completions := by rw [State.inc, State.setReg_completions]
@[simp] theorem State.inc_claims (a : Nat) : (s.inc a).claims = s.claims := by rw [State.inc, State.setReg_claims]
@[simp] theorem State.inc_waiting (a : Nat) : (s.inc a).waiting = s.waiting := by rw [State.inc, State.setReg_waiting]
@[simp] theorem State.inc_later (a : Nat) : (s.inc a).later = s.later := by rw [State.inc, State.setReg_later]
@[simp] theorem State.inc_granted (a : Nat) : (s.inc a).granted = s.granted := by rw [State.inc, State.setReg_granted]
@[simp] theorem State.inc_tests (a : Nat) : (s.inc a).tests = s.tests := by rw [State.inc, State.setReg_tests]
@[simp] theorem State.inc_nvOpen (a : Nat) : (s.inc a).nvOpen = s.nvOpen := by rw [State.inc, State.setReg_nvOpen]
@[simp] theorem State.inc_mram (a : Nat) : (s.inc a).mram = s.mram := by rw [State.inc, State.setReg_mram]
@[simp] theorem State.inc_gbQueue (a : Nat) : (s.inc a).gbQueue = s.gbQueue := by rw [State.inc, State.setReg_gbQueue]
@[simp] theorem State.inc_gbLimits (a : Nat) : (s.inc a).gbLimits = s.gbLimits := by rw [State.inc, State.setReg_gbLimits]
@[simp] theorem State.inc_gbWindow (a : Nat) : (s.inc a).gbWindow = s.gbWindow := by rw [State.inc, State.setReg_gbWindow]
@[simp] theorem State.inc_shadows (a : Nat) : (s.inc a).shadows = s.shadows := by rw [State.inc, State.setReg_shadows]
@[simp] theorem State.inc_highs (a : Nat) : (s.inc a).highs = s.highs := by rw [State.inc, State.setReg_highs]
@[simp] theorem State.inc_core (a : Nat) : (s.inc a).core = s.core := by rw [State.inc, State.setReg_core]
@[simp] theorem State.inc_hub (a : Nat) : (s.inc a).hub = s.hub := by rw [State.inc, State.setReg_hub]
@[simp] theorem State.inc_raised (a : Nat) : (s.inc a).raised = s.raised := by rw [State.inc, State.setReg_raised]
@[simp] theorem State.inc_out (a : Nat) : (s.inc a).out = s.out := by rw [State.inc, State.setReg_out]
@[simp] theorem State.inc_pending (a : Nat) : (s.inc a).pending = s.pending := by rw [State.inc, State.setReg_pending]

@[simp] theorem State.addTo_now (a k : Nat) : (s.addTo a k).now = s.now := by rw [State.addTo, State.setReg_now]
@[simp] theorem State.addTo_free (a k : Nat) : (s.addTo a k).free = s.free := by rw [State.addTo, State.setReg_free]
@[simp] theorem State.addTo_ports (a k : Nat) : (s.addTo a k).ports = s.ports := by rw [State.addTo, State.setReg_ports]
@[simp] theorem State.addTo_pairs (a k : Nat) : (s.addTo a k).pairs = s.pairs := by rw [State.addTo, State.setReg_pairs]
@[simp] theorem State.addTo_links (a k : Nat) : (s.addTo a k).links = s.links := by rw [State.addTo, State.setReg_links]
@[simp] theorem State.addTo_queues (a k : Nat) : (s.addTo a k).queues = s.queues := by rw [State.addTo, State.setReg_queues]
@[simp] theorem State.addTo_hosts (a k : Nat) : (s.addTo a k).hosts = s.hosts := by rw [State.addTo, State.setReg_hosts]
@[simp] theorem State.addTo_lanes (a k : Nat) : (s.addTo a k).lanes = s.lanes := by rw [State.addTo, State.setReg_lanes]
@[simp] theorem State.addTo_laneOf (a k : Nat) : (s.addTo a k).laneOf = s.laneOf := by rw [State.addTo, State.setReg_laneOf]
@[simp] theorem State.addTo_tbl (a k : Nat) : (s.addTo a k).tbl = s.tbl := by rw [State.addTo, State.setReg_tbl]
@[simp] theorem State.addTo_held (a k : Nat) : (s.addTo a k).held = s.held := by rw [State.addTo, State.setReg_held]
@[simp] theorem State.addTo_snr (a k : Nat) : (s.addTo a k).snr = s.snr := by rw [State.addTo, State.setReg_snr]
@[simp] theorem State.addTo_erle (a k : Nat) : (s.addTo a k).erle = s.erle := by rw [State.addTo, State.setReg_erle]
@[simp] theorem State.addTo_errs (a k : Nat) : (s.addTo a k).errs = s.errs := by rw [State.addTo, State.setReg_errs]
@[simp] theorem State.addTo_sigma (a k : Nat) : (s.addTo a k).sigma = s.sigma := by rw [State.addTo, State.setReg_sigma]
@[simp] theorem State.addTo_noise (a k : Nat) : (s.addTo a k).noise = s.noise := by rw [State.addTo, State.setReg_noise]
@[simp] theorem State.addTo_coef (a k : Nat) : (s.addTo a k).coef = s.coef := by rw [State.addTo, State.setReg_coef]
@[simp] theorem State.addTo_seeds (a k : Nat) : (s.addTo a k).seeds = s.seeds := by rw [State.addTo, State.setReg_seeds]
@[simp] theorem State.addTo_banks (a k : Nat) : (s.addTo a k).banks = s.banks := by rw [State.addTo, State.setReg_banks]
@[simp] theorem State.addTo_rows (a k : Nat) : (s.addTo a k).rows = s.rows := by rw [State.addTo, State.setReg_rows]
@[simp] theorem State.addTo_tiles (a k : Nat) : (s.addTo a k).tiles = s.tiles := by rw [State.addTo, State.setReg_tiles]
@[simp] theorem State.addTo_diags (a k : Nat) : (s.addTo a k).diags = s.diags := by rw [State.addTo, State.setReg_diags]
@[simp] theorem State.addTo_maps (a k : Nat) : (s.addTo a k).maps = s.maps := by rw [State.addTo, State.setReg_maps]
@[simp] theorem State.addTo_traces (a k : Nat) : (s.addTo a k).traces = s.traces := by rw [State.addTo, State.setReg_traces]
@[simp] theorem State.addTo_doms (a k : Nat) : (s.addTo a k).doms = s.doms := by rw [State.addTo, State.setReg_doms]
@[simp] theorem State.addTo_cals (a k : Nat) : (s.addTo a k).cals = s.cals := by rw [State.addTo, State.setReg_cals]
@[simp] theorem State.addTo_calRuns (a k : Nat) : (s.addTo a k).calRuns = s.calRuns := by rw [State.addTo, State.setReg_calRuns]
@[simp] theorem State.addTo_calSaved (a k : Nat) : (s.addTo a k).calSaved = s.calSaved := by rw [State.addTo, State.setReg_calSaved]
@[simp] theorem State.addTo_queued (a k : Nat) : (s.addTo a k).queued = s.queued := by rw [State.addTo, State.setReg_queued]
@[simp] theorem State.addTo_running (a k : Nat) : (s.addTo a k).running = s.running := by rw [State.addTo, State.setReg_running]
@[simp] theorem State.addTo_kept (a k : Nat) : (s.addTo a k).kept = s.kept := by rw [State.addTo, State.setReg_kept]
@[simp] theorem State.addTo_jobs (a k : Nat) : (s.addTo a k).jobs = s.jobs := by rw [State.addTo, State.setReg_jobs]
@[simp] theorem State.addTo_records (a k : Nat) : (s.addTo a k).records = s.records := by rw [State.addTo, State.setReg_records]
@[simp] theorem State.addTo_eyes (a k : Nat) : (s.addTo a k).eyes = s.eyes := by rw [State.addTo, State.setReg_eyes]
@[simp] theorem State.addTo_completions (a k : Nat) : (s.addTo a k).completions = s.completions := by rw [State.addTo, State.setReg_completions]
@[simp] theorem State.addTo_claims (a k : Nat) : (s.addTo a k).claims = s.claims := by rw [State.addTo, State.setReg_claims]
@[simp] theorem State.addTo_waiting (a k : Nat) : (s.addTo a k).waiting = s.waiting := by rw [State.addTo, State.setReg_waiting]
@[simp] theorem State.addTo_later (a k : Nat) : (s.addTo a k).later = s.later := by rw [State.addTo, State.setReg_later]
@[simp] theorem State.addTo_granted (a k : Nat) : (s.addTo a k).granted = s.granted := by rw [State.addTo, State.setReg_granted]
@[simp] theorem State.addTo_tests (a k : Nat) : (s.addTo a k).tests = s.tests := by rw [State.addTo, State.setReg_tests]
@[simp] theorem State.addTo_nvOpen (a k : Nat) : (s.addTo a k).nvOpen = s.nvOpen := by rw [State.addTo, State.setReg_nvOpen]
@[simp] theorem State.addTo_mram (a k : Nat) : (s.addTo a k).mram = s.mram := by rw [State.addTo, State.setReg_mram]
@[simp] theorem State.addTo_gbQueue (a k : Nat) : (s.addTo a k).gbQueue = s.gbQueue := by rw [State.addTo, State.setReg_gbQueue]
@[simp] theorem State.addTo_gbLimits (a k : Nat) : (s.addTo a k).gbLimits = s.gbLimits := by rw [State.addTo, State.setReg_gbLimits]
@[simp] theorem State.addTo_gbWindow (a k : Nat) : (s.addTo a k).gbWindow = s.gbWindow := by rw [State.addTo, State.setReg_gbWindow]
@[simp] theorem State.addTo_shadows (a k : Nat) : (s.addTo a k).shadows = s.shadows := by rw [State.addTo, State.setReg_shadows]
@[simp] theorem State.addTo_highs (a k : Nat) : (s.addTo a k).highs = s.highs := by rw [State.addTo, State.setReg_highs]
@[simp] theorem State.addTo_core (a k : Nat) : (s.addTo a k).core = s.core := by rw [State.addTo, State.setReg_core]
@[simp] theorem State.addTo_hub (a k : Nat) : (s.addTo a k).hub = s.hub := by rw [State.addTo, State.setReg_hub]
@[simp] theorem State.addTo_raised (a k : Nat) : (s.addTo a k).raised = s.raised := by rw [State.addTo, State.setReg_raised]
@[simp] theorem State.addTo_out (a k : Nat) : (s.addTo a k).out = s.out := by rw [State.addTo, State.setReg_out]
@[simp] theorem State.addTo_pending (a k : Nat) : (s.addTo a k).pending = s.pending := by rw [State.addTo, State.setReg_pending]

@[simp] theorem State.set64_now (a v : Nat) : (s.set64 a v).now = s.now := by rw [State.set64, State.setReg_now, State.setReg_now]
@[simp] theorem State.set64_free (a v : Nat) : (s.set64 a v).free = s.free := by rw [State.set64, State.setReg_free, State.setReg_free]
@[simp] theorem State.set64_ports (a v : Nat) : (s.set64 a v).ports = s.ports := by rw [State.set64, State.setReg_ports, State.setReg_ports]
@[simp] theorem State.set64_pairs (a v : Nat) : (s.set64 a v).pairs = s.pairs := by rw [State.set64, State.setReg_pairs, State.setReg_pairs]
@[simp] theorem State.set64_links (a v : Nat) : (s.set64 a v).links = s.links := by rw [State.set64, State.setReg_links, State.setReg_links]
@[simp] theorem State.set64_queues (a v : Nat) : (s.set64 a v).queues = s.queues := by rw [State.set64, State.setReg_queues, State.setReg_queues]
@[simp] theorem State.set64_hosts (a v : Nat) : (s.set64 a v).hosts = s.hosts := by rw [State.set64, State.setReg_hosts, State.setReg_hosts]
@[simp] theorem State.set64_lanes (a v : Nat) : (s.set64 a v).lanes = s.lanes := by rw [State.set64, State.setReg_lanes, State.setReg_lanes]
@[simp] theorem State.set64_laneOf (a v : Nat) : (s.set64 a v).laneOf = s.laneOf := by rw [State.set64, State.setReg_laneOf, State.setReg_laneOf]
@[simp] theorem State.set64_tbl (a v : Nat) : (s.set64 a v).tbl = s.tbl := by rw [State.set64, State.setReg_tbl, State.setReg_tbl]
@[simp] theorem State.set64_held (a v : Nat) : (s.set64 a v).held = s.held := by rw [State.set64, State.setReg_held, State.setReg_held]
@[simp] theorem State.set64_snr (a v : Nat) : (s.set64 a v).snr = s.snr := by rw [State.set64, State.setReg_snr, State.setReg_snr]
@[simp] theorem State.set64_erle (a v : Nat) : (s.set64 a v).erle = s.erle := by rw [State.set64, State.setReg_erle, State.setReg_erle]
@[simp] theorem State.set64_errs (a v : Nat) : (s.set64 a v).errs = s.errs := by rw [State.set64, State.setReg_errs, State.setReg_errs]
@[simp] theorem State.set64_sigma (a v : Nat) : (s.set64 a v).sigma = s.sigma := by rw [State.set64, State.setReg_sigma, State.setReg_sigma]
@[simp] theorem State.set64_noise (a v : Nat) : (s.set64 a v).noise = s.noise := by rw [State.set64, State.setReg_noise, State.setReg_noise]
@[simp] theorem State.set64_coef (a v : Nat) : (s.set64 a v).coef = s.coef := by rw [State.set64, State.setReg_coef, State.setReg_coef]
@[simp] theorem State.set64_seeds (a v : Nat) : (s.set64 a v).seeds = s.seeds := by rw [State.set64, State.setReg_seeds, State.setReg_seeds]
@[simp] theorem State.set64_banks (a v : Nat) : (s.set64 a v).banks = s.banks := by rw [State.set64, State.setReg_banks, State.setReg_banks]
@[simp] theorem State.set64_rows (a v : Nat) : (s.set64 a v).rows = s.rows := by rw [State.set64, State.setReg_rows, State.setReg_rows]
@[simp] theorem State.set64_tiles (a v : Nat) : (s.set64 a v).tiles = s.tiles := by rw [State.set64, State.setReg_tiles, State.setReg_tiles]
@[simp] theorem State.set64_diags (a v : Nat) : (s.set64 a v).diags = s.diags := by rw [State.set64, State.setReg_diags, State.setReg_diags]
@[simp] theorem State.set64_maps (a v : Nat) : (s.set64 a v).maps = s.maps := by rw [State.set64, State.setReg_maps, State.setReg_maps]
@[simp] theorem State.set64_traces (a v : Nat) : (s.set64 a v).traces = s.traces := by rw [State.set64, State.setReg_traces, State.setReg_traces]
@[simp] theorem State.set64_doms (a v : Nat) : (s.set64 a v).doms = s.doms := by rw [State.set64, State.setReg_doms, State.setReg_doms]
@[simp] theorem State.set64_cals (a v : Nat) : (s.set64 a v).cals = s.cals := by rw [State.set64, State.setReg_cals, State.setReg_cals]
@[simp] theorem State.set64_calRuns (a v : Nat) : (s.set64 a v).calRuns = s.calRuns := by rw [State.set64, State.setReg_calRuns, State.setReg_calRuns]
@[simp] theorem State.set64_calSaved (a v : Nat) : (s.set64 a v).calSaved = s.calSaved := by rw [State.set64, State.setReg_calSaved, State.setReg_calSaved]
@[simp] theorem State.set64_queued (a v : Nat) : (s.set64 a v).queued = s.queued := by rw [State.set64, State.setReg_queued, State.setReg_queued]
@[simp] theorem State.set64_running (a v : Nat) : (s.set64 a v).running = s.running := by rw [State.set64, State.setReg_running, State.setReg_running]
@[simp] theorem State.set64_kept (a v : Nat) : (s.set64 a v).kept = s.kept := by rw [State.set64, State.setReg_kept, State.setReg_kept]
@[simp] theorem State.set64_jobs (a v : Nat) : (s.set64 a v).jobs = s.jobs := by rw [State.set64, State.setReg_jobs, State.setReg_jobs]
@[simp] theorem State.set64_records (a v : Nat) : (s.set64 a v).records = s.records := by rw [State.set64, State.setReg_records, State.setReg_records]
@[simp] theorem State.set64_eyes (a v : Nat) : (s.set64 a v).eyes = s.eyes := by rw [State.set64, State.setReg_eyes, State.setReg_eyes]
@[simp] theorem State.set64_completions (a v : Nat) : (s.set64 a v).completions = s.completions := by rw [State.set64, State.setReg_completions, State.setReg_completions]
@[simp] theorem State.set64_claims (a v : Nat) : (s.set64 a v).claims = s.claims := by rw [State.set64, State.setReg_claims, State.setReg_claims]
@[simp] theorem State.set64_waiting (a v : Nat) : (s.set64 a v).waiting = s.waiting := by rw [State.set64, State.setReg_waiting, State.setReg_waiting]
@[simp] theorem State.set64_later (a v : Nat) : (s.set64 a v).later = s.later := by rw [State.set64, State.setReg_later, State.setReg_later]
@[simp] theorem State.set64_granted (a v : Nat) : (s.set64 a v).granted = s.granted := by rw [State.set64, State.setReg_granted, State.setReg_granted]
@[simp] theorem State.set64_tests (a v : Nat) : (s.set64 a v).tests = s.tests := by rw [State.set64, State.setReg_tests, State.setReg_tests]
@[simp] theorem State.set64_nvOpen (a v : Nat) : (s.set64 a v).nvOpen = s.nvOpen := by rw [State.set64, State.setReg_nvOpen, State.setReg_nvOpen]
@[simp] theorem State.set64_mram (a v : Nat) : (s.set64 a v).mram = s.mram := by rw [State.set64, State.setReg_mram, State.setReg_mram]
@[simp] theorem State.set64_gbQueue (a v : Nat) : (s.set64 a v).gbQueue = s.gbQueue := by rw [State.set64, State.setReg_gbQueue, State.setReg_gbQueue]
@[simp] theorem State.set64_gbLimits (a v : Nat) : (s.set64 a v).gbLimits = s.gbLimits := by rw [State.set64, State.setReg_gbLimits, State.setReg_gbLimits]
@[simp] theorem State.set64_gbWindow (a v : Nat) : (s.set64 a v).gbWindow = s.gbWindow := by rw [State.set64, State.setReg_gbWindow, State.setReg_gbWindow]
@[simp] theorem State.set64_shadows (a v : Nat) : (s.set64 a v).shadows = s.shadows := by rw [State.set64, State.setReg_shadows, State.setReg_shadows]
@[simp] theorem State.set64_highs (a v : Nat) : (s.set64 a v).highs = s.highs := by rw [State.set64, State.setReg_highs, State.setReg_highs]
@[simp] theorem State.set64_core (a v : Nat) : (s.set64 a v).core = s.core := by rw [State.set64, State.setReg_core, State.setReg_core]
@[simp] theorem State.set64_hub (a v : Nat) : (s.set64 a v).hub = s.hub := by rw [State.set64, State.setReg_hub, State.setReg_hub]
@[simp] theorem State.set64_raised (a v : Nat) : (s.set64 a v).raised = s.raised := by rw [State.set64, State.setReg_raised, State.setReg_raised]
@[simp] theorem State.set64_out (a v : Nat) : (s.set64 a v).out = s.out := by rw [State.set64, State.setReg_out, State.setReg_out]
@[simp] theorem State.set64_pending (a v : Nat) : (s.set64 a v).pending = s.pending := by rw [State.set64, State.setReg_pending, State.setReg_pending]

@[simp] theorem State.add64_now (a k : Nat) : (s.add64 a k).now = s.now := by rw [State.add64, State.set64_now]
@[simp] theorem State.add64_free (a k : Nat) : (s.add64 a k).free = s.free := by rw [State.add64, State.set64_free]
@[simp] theorem State.add64_ports (a k : Nat) : (s.add64 a k).ports = s.ports := by rw [State.add64, State.set64_ports]
@[simp] theorem State.add64_pairs (a k : Nat) : (s.add64 a k).pairs = s.pairs := by rw [State.add64, State.set64_pairs]
@[simp] theorem State.add64_links (a k : Nat) : (s.add64 a k).links = s.links := by rw [State.add64, State.set64_links]
@[simp] theorem State.add64_queues (a k : Nat) : (s.add64 a k).queues = s.queues := by rw [State.add64, State.set64_queues]
@[simp] theorem State.add64_hosts (a k : Nat) : (s.add64 a k).hosts = s.hosts := by rw [State.add64, State.set64_hosts]
@[simp] theorem State.add64_lanes (a k : Nat) : (s.add64 a k).lanes = s.lanes := by rw [State.add64, State.set64_lanes]
@[simp] theorem State.add64_laneOf (a k : Nat) : (s.add64 a k).laneOf = s.laneOf := by rw [State.add64, State.set64_laneOf]
@[simp] theorem State.add64_tbl (a k : Nat) : (s.add64 a k).tbl = s.tbl := by rw [State.add64, State.set64_tbl]
@[simp] theorem State.add64_held (a k : Nat) : (s.add64 a k).held = s.held := by rw [State.add64, State.set64_held]
@[simp] theorem State.add64_snr (a k : Nat) : (s.add64 a k).snr = s.snr := by rw [State.add64, State.set64_snr]
@[simp] theorem State.add64_erle (a k : Nat) : (s.add64 a k).erle = s.erle := by rw [State.add64, State.set64_erle]
@[simp] theorem State.add64_errs (a k : Nat) : (s.add64 a k).errs = s.errs := by rw [State.add64, State.set64_errs]
@[simp] theorem State.add64_sigma (a k : Nat) : (s.add64 a k).sigma = s.sigma := by rw [State.add64, State.set64_sigma]
@[simp] theorem State.add64_noise (a k : Nat) : (s.add64 a k).noise = s.noise := by rw [State.add64, State.set64_noise]
@[simp] theorem State.add64_coef (a k : Nat) : (s.add64 a k).coef = s.coef := by rw [State.add64, State.set64_coef]
@[simp] theorem State.add64_seeds (a k : Nat) : (s.add64 a k).seeds = s.seeds := by rw [State.add64, State.set64_seeds]
@[simp] theorem State.add64_banks (a k : Nat) : (s.add64 a k).banks = s.banks := by rw [State.add64, State.set64_banks]
@[simp] theorem State.add64_rows (a k : Nat) : (s.add64 a k).rows = s.rows := by rw [State.add64, State.set64_rows]
@[simp] theorem State.add64_tiles (a k : Nat) : (s.add64 a k).tiles = s.tiles := by rw [State.add64, State.set64_tiles]
@[simp] theorem State.add64_diags (a k : Nat) : (s.add64 a k).diags = s.diags := by rw [State.add64, State.set64_diags]
@[simp] theorem State.add64_maps (a k : Nat) : (s.add64 a k).maps = s.maps := by rw [State.add64, State.set64_maps]
@[simp] theorem State.add64_traces (a k : Nat) : (s.add64 a k).traces = s.traces := by rw [State.add64, State.set64_traces]
@[simp] theorem State.add64_doms (a k : Nat) : (s.add64 a k).doms = s.doms := by rw [State.add64, State.set64_doms]
@[simp] theorem State.add64_cals (a k : Nat) : (s.add64 a k).cals = s.cals := by rw [State.add64, State.set64_cals]
@[simp] theorem State.add64_calRuns (a k : Nat) : (s.add64 a k).calRuns = s.calRuns := by rw [State.add64, State.set64_calRuns]
@[simp] theorem State.add64_calSaved (a k : Nat) : (s.add64 a k).calSaved = s.calSaved := by rw [State.add64, State.set64_calSaved]
@[simp] theorem State.add64_queued (a k : Nat) : (s.add64 a k).queued = s.queued := by rw [State.add64, State.set64_queued]
@[simp] theorem State.add64_running (a k : Nat) : (s.add64 a k).running = s.running := by rw [State.add64, State.set64_running]
@[simp] theorem State.add64_kept (a k : Nat) : (s.add64 a k).kept = s.kept := by rw [State.add64, State.set64_kept]
@[simp] theorem State.add64_jobs (a k : Nat) : (s.add64 a k).jobs = s.jobs := by rw [State.add64, State.set64_jobs]
@[simp] theorem State.add64_records (a k : Nat) : (s.add64 a k).records = s.records := by rw [State.add64, State.set64_records]
@[simp] theorem State.add64_eyes (a k : Nat) : (s.add64 a k).eyes = s.eyes := by rw [State.add64, State.set64_eyes]
@[simp] theorem State.add64_completions (a k : Nat) : (s.add64 a k).completions = s.completions := by rw [State.add64, State.set64_completions]
@[simp] theorem State.add64_claims (a k : Nat) : (s.add64 a k).claims = s.claims := by rw [State.add64, State.set64_claims]
@[simp] theorem State.add64_waiting (a k : Nat) : (s.add64 a k).waiting = s.waiting := by rw [State.add64, State.set64_waiting]
@[simp] theorem State.add64_later (a k : Nat) : (s.add64 a k).later = s.later := by rw [State.add64, State.set64_later]
@[simp] theorem State.add64_granted (a k : Nat) : (s.add64 a k).granted = s.granted := by rw [State.add64, State.set64_granted]
@[simp] theorem State.add64_tests (a k : Nat) : (s.add64 a k).tests = s.tests := by rw [State.add64, State.set64_tests]
@[simp] theorem State.add64_nvOpen (a k : Nat) : (s.add64 a k).nvOpen = s.nvOpen := by rw [State.add64, State.set64_nvOpen]
@[simp] theorem State.add64_mram (a k : Nat) : (s.add64 a k).mram = s.mram := by rw [State.add64, State.set64_mram]
@[simp] theorem State.add64_gbQueue (a k : Nat) : (s.add64 a k).gbQueue = s.gbQueue := by rw [State.add64, State.set64_gbQueue]
@[simp] theorem State.add64_gbLimits (a k : Nat) : (s.add64 a k).gbLimits = s.gbLimits := by rw [State.add64, State.set64_gbLimits]
@[simp] theorem State.add64_gbWindow (a k : Nat) : (s.add64 a k).gbWindow = s.gbWindow := by rw [State.add64, State.set64_gbWindow]
@[simp] theorem State.add64_shadows (a k : Nat) : (s.add64 a k).shadows = s.shadows := by rw [State.add64, State.set64_shadows]
@[simp] theorem State.add64_highs (a k : Nat) : (s.add64 a k).highs = s.highs := by rw [State.add64, State.set64_highs]
@[simp] theorem State.add64_core (a k : Nat) : (s.add64 a k).core = s.core := by rw [State.add64, State.set64_core]
@[simp] theorem State.add64_hub (a k : Nat) : (s.add64 a k).hub = s.hub := by rw [State.add64, State.set64_hub]
@[simp] theorem State.add64_raised (a k : Nat) : (s.add64 a k).raised = s.raised := by rw [State.add64, State.set64_raised]
@[simp] theorem State.add64_out (a k : Nat) : (s.add64 a k).out = s.out := by rw [State.add64, State.set64_out]
@[simp] theorem State.add64_pending (a k : Nat) : (s.add64 a k).pending = s.pending := by rw [State.add64, State.set64_pending]

@[simp] theorem State.inc64_now (a : Nat) : (s.inc64 a).now = s.now := by rw [State.inc64, State.add64_now]
@[simp] theorem State.inc64_free (a : Nat) : (s.inc64 a).free = s.free := by rw [State.inc64, State.add64_free]
@[simp] theorem State.inc64_ports (a : Nat) : (s.inc64 a).ports = s.ports := by rw [State.inc64, State.add64_ports]
@[simp] theorem State.inc64_pairs (a : Nat) : (s.inc64 a).pairs = s.pairs := by rw [State.inc64, State.add64_pairs]
@[simp] theorem State.inc64_links (a : Nat) : (s.inc64 a).links = s.links := by rw [State.inc64, State.add64_links]
@[simp] theorem State.inc64_queues (a : Nat) : (s.inc64 a).queues = s.queues := by rw [State.inc64, State.add64_queues]
@[simp] theorem State.inc64_hosts (a : Nat) : (s.inc64 a).hosts = s.hosts := by rw [State.inc64, State.add64_hosts]
@[simp] theorem State.inc64_lanes (a : Nat) : (s.inc64 a).lanes = s.lanes := by rw [State.inc64, State.add64_lanes]
@[simp] theorem State.inc64_laneOf (a : Nat) : (s.inc64 a).laneOf = s.laneOf := by rw [State.inc64, State.add64_laneOf]
@[simp] theorem State.inc64_tbl (a : Nat) : (s.inc64 a).tbl = s.tbl := by rw [State.inc64, State.add64_tbl]
@[simp] theorem State.inc64_held (a : Nat) : (s.inc64 a).held = s.held := by rw [State.inc64, State.add64_held]
@[simp] theorem State.inc64_snr (a : Nat) : (s.inc64 a).snr = s.snr := by rw [State.inc64, State.add64_snr]
@[simp] theorem State.inc64_erle (a : Nat) : (s.inc64 a).erle = s.erle := by rw [State.inc64, State.add64_erle]
@[simp] theorem State.inc64_errs (a : Nat) : (s.inc64 a).errs = s.errs := by rw [State.inc64, State.add64_errs]
@[simp] theorem State.inc64_sigma (a : Nat) : (s.inc64 a).sigma = s.sigma := by rw [State.inc64, State.add64_sigma]
@[simp] theorem State.inc64_noise (a : Nat) : (s.inc64 a).noise = s.noise := by rw [State.inc64, State.add64_noise]
@[simp] theorem State.inc64_coef (a : Nat) : (s.inc64 a).coef = s.coef := by rw [State.inc64, State.add64_coef]
@[simp] theorem State.inc64_seeds (a : Nat) : (s.inc64 a).seeds = s.seeds := by rw [State.inc64, State.add64_seeds]
@[simp] theorem State.inc64_banks (a : Nat) : (s.inc64 a).banks = s.banks := by rw [State.inc64, State.add64_banks]
@[simp] theorem State.inc64_rows (a : Nat) : (s.inc64 a).rows = s.rows := by rw [State.inc64, State.add64_rows]
@[simp] theorem State.inc64_tiles (a : Nat) : (s.inc64 a).tiles = s.tiles := by rw [State.inc64, State.add64_tiles]
@[simp] theorem State.inc64_diags (a : Nat) : (s.inc64 a).diags = s.diags := by rw [State.inc64, State.add64_diags]
@[simp] theorem State.inc64_maps (a : Nat) : (s.inc64 a).maps = s.maps := by rw [State.inc64, State.add64_maps]
@[simp] theorem State.inc64_traces (a : Nat) : (s.inc64 a).traces = s.traces := by rw [State.inc64, State.add64_traces]
@[simp] theorem State.inc64_doms (a : Nat) : (s.inc64 a).doms = s.doms := by rw [State.inc64, State.add64_doms]
@[simp] theorem State.inc64_cals (a : Nat) : (s.inc64 a).cals = s.cals := by rw [State.inc64, State.add64_cals]
@[simp] theorem State.inc64_calRuns (a : Nat) : (s.inc64 a).calRuns = s.calRuns := by rw [State.inc64, State.add64_calRuns]
@[simp] theorem State.inc64_calSaved (a : Nat) : (s.inc64 a).calSaved = s.calSaved := by rw [State.inc64, State.add64_calSaved]
@[simp] theorem State.inc64_queued (a : Nat) : (s.inc64 a).queued = s.queued := by rw [State.inc64, State.add64_queued]
@[simp] theorem State.inc64_running (a : Nat) : (s.inc64 a).running = s.running := by rw [State.inc64, State.add64_running]
@[simp] theorem State.inc64_kept (a : Nat) : (s.inc64 a).kept = s.kept := by rw [State.inc64, State.add64_kept]
@[simp] theorem State.inc64_jobs (a : Nat) : (s.inc64 a).jobs = s.jobs := by rw [State.inc64, State.add64_jobs]
@[simp] theorem State.inc64_records (a : Nat) : (s.inc64 a).records = s.records := by rw [State.inc64, State.add64_records]
@[simp] theorem State.inc64_eyes (a : Nat) : (s.inc64 a).eyes = s.eyes := by rw [State.inc64, State.add64_eyes]
@[simp] theorem State.inc64_completions (a : Nat) : (s.inc64 a).completions = s.completions := by rw [State.inc64, State.add64_completions]
@[simp] theorem State.inc64_claims (a : Nat) : (s.inc64 a).claims = s.claims := by rw [State.inc64, State.add64_claims]
@[simp] theorem State.inc64_waiting (a : Nat) : (s.inc64 a).waiting = s.waiting := by rw [State.inc64, State.add64_waiting]
@[simp] theorem State.inc64_later (a : Nat) : (s.inc64 a).later = s.later := by rw [State.inc64, State.add64_later]
@[simp] theorem State.inc64_granted (a : Nat) : (s.inc64 a).granted = s.granted := by rw [State.inc64, State.add64_granted]
@[simp] theorem State.inc64_tests (a : Nat) : (s.inc64 a).tests = s.tests := by rw [State.inc64, State.add64_tests]
@[simp] theorem State.inc64_nvOpen (a : Nat) : (s.inc64 a).nvOpen = s.nvOpen := by rw [State.inc64, State.add64_nvOpen]
@[simp] theorem State.inc64_mram (a : Nat) : (s.inc64 a).mram = s.mram := by rw [State.inc64, State.add64_mram]
@[simp] theorem State.inc64_gbQueue (a : Nat) : (s.inc64 a).gbQueue = s.gbQueue := by rw [State.inc64, State.add64_gbQueue]
@[simp] theorem State.inc64_gbLimits (a : Nat) : (s.inc64 a).gbLimits = s.gbLimits := by rw [State.inc64, State.add64_gbLimits]
@[simp] theorem State.inc64_gbWindow (a : Nat) : (s.inc64 a).gbWindow = s.gbWindow := by rw [State.inc64, State.add64_gbWindow]
@[simp] theorem State.inc64_shadows (a : Nat) : (s.inc64 a).shadows = s.shadows := by rw [State.inc64, State.add64_shadows]
@[simp] theorem State.inc64_highs (a : Nat) : (s.inc64 a).highs = s.highs := by rw [State.inc64, State.add64_highs]
@[simp] theorem State.inc64_core (a : Nat) : (s.inc64 a).core = s.core := by rw [State.inc64, State.add64_core]
@[simp] theorem State.inc64_hub (a : Nat) : (s.inc64 a).hub = s.hub := by rw [State.inc64, State.add64_hub]
@[simp] theorem State.inc64_raised (a : Nat) : (s.inc64 a).raised = s.raised := by rw [State.inc64, State.add64_raised]
@[simp] theorem State.inc64_out (a : Nat) : (s.inc64 a).out = s.out := by rw [State.inc64, State.add64_out]
@[simp] theorem State.inc64_pending (a : Nat) : (s.inc64 a).pending = s.pending := by rw [State.inc64, State.add64_pending]

@[simp] theorem State.intBit_now (i : Nat) : (s.intBit i).now = s.now := by rw [State.intBit, State.setFld_now]
@[simp] theorem State.intBit_free (i : Nat) : (s.intBit i).free = s.free := by rw [State.intBit, State.setFld_free]
@[simp] theorem State.intBit_ports (i : Nat) : (s.intBit i).ports = s.ports := by rw [State.intBit, State.setFld_ports]
@[simp] theorem State.intBit_pairs (i : Nat) : (s.intBit i).pairs = s.pairs := by rw [State.intBit, State.setFld_pairs]
@[simp] theorem State.intBit_links (i : Nat) : (s.intBit i).links = s.links := by rw [State.intBit, State.setFld_links]
@[simp] theorem State.intBit_queues (i : Nat) : (s.intBit i).queues = s.queues := by rw [State.intBit, State.setFld_queues]
@[simp] theorem State.intBit_hosts (i : Nat) : (s.intBit i).hosts = s.hosts := by rw [State.intBit, State.setFld_hosts]
@[simp] theorem State.intBit_lanes (i : Nat) : (s.intBit i).lanes = s.lanes := by rw [State.intBit, State.setFld_lanes]
@[simp] theorem State.intBit_laneOf (i : Nat) : (s.intBit i).laneOf = s.laneOf := by rw [State.intBit, State.setFld_laneOf]
@[simp] theorem State.intBit_tbl (i : Nat) : (s.intBit i).tbl = s.tbl := by rw [State.intBit, State.setFld_tbl]
@[simp] theorem State.intBit_held (i : Nat) : (s.intBit i).held = s.held := by rw [State.intBit, State.setFld_held]
@[simp] theorem State.intBit_snr (i : Nat) : (s.intBit i).snr = s.snr := by rw [State.intBit, State.setFld_snr]
@[simp] theorem State.intBit_erle (i : Nat) : (s.intBit i).erle = s.erle := by rw [State.intBit, State.setFld_erle]
@[simp] theorem State.intBit_errs (i : Nat) : (s.intBit i).errs = s.errs := by rw [State.intBit, State.setFld_errs]
@[simp] theorem State.intBit_sigma (i : Nat) : (s.intBit i).sigma = s.sigma := by rw [State.intBit, State.setFld_sigma]
@[simp] theorem State.intBit_noise (i : Nat) : (s.intBit i).noise = s.noise := by rw [State.intBit, State.setFld_noise]
@[simp] theorem State.intBit_coef (i : Nat) : (s.intBit i).coef = s.coef := by rw [State.intBit, State.setFld_coef]
@[simp] theorem State.intBit_seeds (i : Nat) : (s.intBit i).seeds = s.seeds := by rw [State.intBit, State.setFld_seeds]
@[simp] theorem State.intBit_banks (i : Nat) : (s.intBit i).banks = s.banks := by rw [State.intBit, State.setFld_banks]
@[simp] theorem State.intBit_rows (i : Nat) : (s.intBit i).rows = s.rows := by rw [State.intBit, State.setFld_rows]
@[simp] theorem State.intBit_tiles (i : Nat) : (s.intBit i).tiles = s.tiles := by rw [State.intBit, State.setFld_tiles]
@[simp] theorem State.intBit_diags (i : Nat) : (s.intBit i).diags = s.diags := by rw [State.intBit, State.setFld_diags]
@[simp] theorem State.intBit_maps (i : Nat) : (s.intBit i).maps = s.maps := by rw [State.intBit, State.setFld_maps]
@[simp] theorem State.intBit_traces (i : Nat) : (s.intBit i).traces = s.traces := by rw [State.intBit, State.setFld_traces]
@[simp] theorem State.intBit_doms (i : Nat) : (s.intBit i).doms = s.doms := by rw [State.intBit, State.setFld_doms]
@[simp] theorem State.intBit_cals (i : Nat) : (s.intBit i).cals = s.cals := by rw [State.intBit, State.setFld_cals]
@[simp] theorem State.intBit_calRuns (i : Nat) : (s.intBit i).calRuns = s.calRuns := by rw [State.intBit, State.setFld_calRuns]
@[simp] theorem State.intBit_calSaved (i : Nat) : (s.intBit i).calSaved = s.calSaved := by rw [State.intBit, State.setFld_calSaved]
@[simp] theorem State.intBit_queued (i : Nat) : (s.intBit i).queued = s.queued := by rw [State.intBit, State.setFld_queued]
@[simp] theorem State.intBit_running (i : Nat) : (s.intBit i).running = s.running := by rw [State.intBit, State.setFld_running]
@[simp] theorem State.intBit_kept (i : Nat) : (s.intBit i).kept = s.kept := by rw [State.intBit, State.setFld_kept]
@[simp] theorem State.intBit_jobs (i : Nat) : (s.intBit i).jobs = s.jobs := by rw [State.intBit, State.setFld_jobs]
@[simp] theorem State.intBit_records (i : Nat) : (s.intBit i).records = s.records := by rw [State.intBit, State.setFld_records]
@[simp] theorem State.intBit_eyes (i : Nat) : (s.intBit i).eyes = s.eyes := by rw [State.intBit, State.setFld_eyes]
@[simp] theorem State.intBit_completions (i : Nat) : (s.intBit i).completions = s.completions := by rw [State.intBit, State.setFld_completions]
@[simp] theorem State.intBit_claims (i : Nat) : (s.intBit i).claims = s.claims := by rw [State.intBit, State.setFld_claims]
@[simp] theorem State.intBit_waiting (i : Nat) : (s.intBit i).waiting = s.waiting := by rw [State.intBit, State.setFld_waiting]
@[simp] theorem State.intBit_later (i : Nat) : (s.intBit i).later = s.later := by rw [State.intBit, State.setFld_later]
@[simp] theorem State.intBit_granted (i : Nat) : (s.intBit i).granted = s.granted := by rw [State.intBit, State.setFld_granted]
@[simp] theorem State.intBit_tests (i : Nat) : (s.intBit i).tests = s.tests := by rw [State.intBit, State.setFld_tests]
@[simp] theorem State.intBit_nvOpen (i : Nat) : (s.intBit i).nvOpen = s.nvOpen := by rw [State.intBit, State.setFld_nvOpen]
@[simp] theorem State.intBit_mram (i : Nat) : (s.intBit i).mram = s.mram := by rw [State.intBit, State.setFld_mram]
@[simp] theorem State.intBit_gbQueue (i : Nat) : (s.intBit i).gbQueue = s.gbQueue := by rw [State.intBit, State.setFld_gbQueue]
@[simp] theorem State.intBit_gbLimits (i : Nat) : (s.intBit i).gbLimits = s.gbLimits := by rw [State.intBit, State.setFld_gbLimits]
@[simp] theorem State.intBit_gbWindow (i : Nat) : (s.intBit i).gbWindow = s.gbWindow := by rw [State.intBit, State.setFld_gbWindow]
@[simp] theorem State.intBit_shadows (i : Nat) : (s.intBit i).shadows = s.shadows := by rw [State.intBit, State.setFld_shadows]
@[simp] theorem State.intBit_highs (i : Nat) : (s.intBit i).highs = s.highs := by rw [State.intBit, State.setFld_highs]
@[simp] theorem State.intBit_core (i : Nat) : (s.intBit i).core = s.core := by rw [State.intBit, State.setFld_core]
@[simp] theorem State.intBit_hub (i : Nat) : (s.intBit i).hub = s.hub := by rw [State.intBit, State.setFld_hub]
@[simp] theorem State.intBit_raised (i : Nat) : (s.intBit i).raised = s.raised := by rw [State.intBit, State.setFld_raised]
@[simp] theorem State.intBit_out (i : Nat) : (s.intBit i).out = s.out := by rw [State.intBit, State.setFld_out]
@[simp] theorem State.intBit_pending (i : Nat) : (s.intBit i).pending = s.pending := by rw [State.intBit, State.setFld_pending]

@[simp] theorem State.setPort_now (n : Nat) (v : PortSt) : (s.setPort n v).now = s.now := by rw [State.setPort]
@[simp] theorem State.setPort_free (n : Nat) (v : PortSt) : (s.setPort n v).free = s.free := by rw [State.setPort]
@[simp] theorem State.setPort_regs (n : Nat) (v : PortSt) : (s.setPort n v).regs = s.regs := by rw [State.setPort]
@[simp] theorem State.setPort_pairs (n : Nat) (v : PortSt) : (s.setPort n v).pairs = s.pairs := by rw [State.setPort]
@[simp] theorem State.setPort_links (n : Nat) (v : PortSt) : (s.setPort n v).links = s.links := by rw [State.setPort]
@[simp] theorem State.setPort_queues (n : Nat) (v : PortSt) : (s.setPort n v).queues = s.queues := by rw [State.setPort]
@[simp] theorem State.setPort_hosts (n : Nat) (v : PortSt) : (s.setPort n v).hosts = s.hosts := by rw [State.setPort]
@[simp] theorem State.setPort_lanes (n : Nat) (v : PortSt) : (s.setPort n v).lanes = s.lanes := by rw [State.setPort]
@[simp] theorem State.setPort_laneOf (n : Nat) (v : PortSt) : (s.setPort n v).laneOf = s.laneOf := by rw [State.setPort]
@[simp] theorem State.setPort_tbl (n : Nat) (v : PortSt) : (s.setPort n v).tbl = s.tbl := by rw [State.setPort]
@[simp] theorem State.setPort_held (n : Nat) (v : PortSt) : (s.setPort n v).held = s.held := by rw [State.setPort]
@[simp] theorem State.setPort_snr (n : Nat) (v : PortSt) : (s.setPort n v).snr = s.snr := by rw [State.setPort]
@[simp] theorem State.setPort_erle (n : Nat) (v : PortSt) : (s.setPort n v).erle = s.erle := by rw [State.setPort]
@[simp] theorem State.setPort_errs (n : Nat) (v : PortSt) : (s.setPort n v).errs = s.errs := by rw [State.setPort]
@[simp] theorem State.setPort_sigma (n : Nat) (v : PortSt) : (s.setPort n v).sigma = s.sigma := by rw [State.setPort]
@[simp] theorem State.setPort_noise (n : Nat) (v : PortSt) : (s.setPort n v).noise = s.noise := by rw [State.setPort]
@[simp] theorem State.setPort_coef (n : Nat) (v : PortSt) : (s.setPort n v).coef = s.coef := by rw [State.setPort]
@[simp] theorem State.setPort_seeds (n : Nat) (v : PortSt) : (s.setPort n v).seeds = s.seeds := by rw [State.setPort]
@[simp] theorem State.setPort_banks (n : Nat) (v : PortSt) : (s.setPort n v).banks = s.banks := by rw [State.setPort]
@[simp] theorem State.setPort_rows (n : Nat) (v : PortSt) : (s.setPort n v).rows = s.rows := by rw [State.setPort]
@[simp] theorem State.setPort_tiles (n : Nat) (v : PortSt) : (s.setPort n v).tiles = s.tiles := by rw [State.setPort]
@[simp] theorem State.setPort_diags (n : Nat) (v : PortSt) : (s.setPort n v).diags = s.diags := by rw [State.setPort]
@[simp] theorem State.setPort_maps (n : Nat) (v : PortSt) : (s.setPort n v).maps = s.maps := by rw [State.setPort]
@[simp] theorem State.setPort_traces (n : Nat) (v : PortSt) : (s.setPort n v).traces = s.traces := by rw [State.setPort]
@[simp] theorem State.setPort_doms (n : Nat) (v : PortSt) : (s.setPort n v).doms = s.doms := by rw [State.setPort]
@[simp] theorem State.setPort_cals (n : Nat) (v : PortSt) : (s.setPort n v).cals = s.cals := by rw [State.setPort]
@[simp] theorem State.setPort_calRuns (n : Nat) (v : PortSt) : (s.setPort n v).calRuns = s.calRuns := by rw [State.setPort]
@[simp] theorem State.setPort_calSaved (n : Nat) (v : PortSt) : (s.setPort n v).calSaved = s.calSaved := by rw [State.setPort]
@[simp] theorem State.setPort_queued (n : Nat) (v : PortSt) : (s.setPort n v).queued = s.queued := by rw [State.setPort]
@[simp] theorem State.setPort_running (n : Nat) (v : PortSt) : (s.setPort n v).running = s.running := by rw [State.setPort]
@[simp] theorem State.setPort_kept (n : Nat) (v : PortSt) : (s.setPort n v).kept = s.kept := by rw [State.setPort]
@[simp] theorem State.setPort_jobs (n : Nat) (v : PortSt) : (s.setPort n v).jobs = s.jobs := by rw [State.setPort]
@[simp] theorem State.setPort_records (n : Nat) (v : PortSt) : (s.setPort n v).records = s.records := by rw [State.setPort]
@[simp] theorem State.setPort_eyes (n : Nat) (v : PortSt) : (s.setPort n v).eyes = s.eyes := by rw [State.setPort]
@[simp] theorem State.setPort_completions (n : Nat) (v : PortSt) : (s.setPort n v).completions = s.completions := by rw [State.setPort]
@[simp] theorem State.setPort_claims (n : Nat) (v : PortSt) : (s.setPort n v).claims = s.claims := by rw [State.setPort]
@[simp] theorem State.setPort_waiting (n : Nat) (v : PortSt) : (s.setPort n v).waiting = s.waiting := by rw [State.setPort]
@[simp] theorem State.setPort_later (n : Nat) (v : PortSt) : (s.setPort n v).later = s.later := by rw [State.setPort]
@[simp] theorem State.setPort_granted (n : Nat) (v : PortSt) : (s.setPort n v).granted = s.granted := by rw [State.setPort]
@[simp] theorem State.setPort_tests (n : Nat) (v : PortSt) : (s.setPort n v).tests = s.tests := by rw [State.setPort]
@[simp] theorem State.setPort_nvOpen (n : Nat) (v : PortSt) : (s.setPort n v).nvOpen = s.nvOpen := by rw [State.setPort]
@[simp] theorem State.setPort_mram (n : Nat) (v : PortSt) : (s.setPort n v).mram = s.mram := by rw [State.setPort]
@[simp] theorem State.setPort_gbQueue (n : Nat) (v : PortSt) : (s.setPort n v).gbQueue = s.gbQueue := by rw [State.setPort]
@[simp] theorem State.setPort_gbLimits (n : Nat) (v : PortSt) : (s.setPort n v).gbLimits = s.gbLimits := by rw [State.setPort]
@[simp] theorem State.setPort_gbWindow (n : Nat) (v : PortSt) : (s.setPort n v).gbWindow = s.gbWindow := by rw [State.setPort]
@[simp] theorem State.setPort_shadows (n : Nat) (v : PortSt) : (s.setPort n v).shadows = s.shadows := by rw [State.setPort]
@[simp] theorem State.setPort_highs (n : Nat) (v : PortSt) : (s.setPort n v).highs = s.highs := by rw [State.setPort]
@[simp] theorem State.setPort_core (n : Nat) (v : PortSt) : (s.setPort n v).core = s.core := by rw [State.setPort]
@[simp] theorem State.setPort_hub (n : Nat) (v : PortSt) : (s.setPort n v).hub = s.hub := by rw [State.setPort]
@[simp] theorem State.setPort_raised (n : Nat) (v : PortSt) : (s.setPort n v).raised = s.raised := by rw [State.setPort]
@[simp] theorem State.setPort_out (n : Nat) (v : PortSt) : (s.setPort n v).out = s.out := by rw [State.setPort]
@[simp] theorem State.setPort_pending (n : Nat) (v : PortSt) : (s.setPort n v).pending = s.pending := by rw [State.setPort]

@[simp] theorem State.modPort_now (n : Nat) (g : PortSt → PortSt) : (s.modPort n g).now = s.now := by rw [State.modPort, State.setPort_now]
@[simp] theorem State.modPort_free (n : Nat) (g : PortSt → PortSt) : (s.modPort n g).free = s.free := by rw [State.modPort, State.setPort_free]
@[simp] theorem State.modPort_regs (n : Nat) (g : PortSt → PortSt) : (s.modPort n g).regs = s.regs := by rw [State.modPort, State.setPort_regs]
@[simp] theorem State.modPort_pairs (n : Nat) (g : PortSt → PortSt) : (s.modPort n g).pairs = s.pairs := by rw [State.modPort, State.setPort_pairs]
@[simp] theorem State.modPort_links (n : Nat) (g : PortSt → PortSt) : (s.modPort n g).links = s.links := by rw [State.modPort, State.setPort_links]
@[simp] theorem State.modPort_queues (n : Nat) (g : PortSt → PortSt) : (s.modPort n g).queues = s.queues := by rw [State.modPort, State.setPort_queues]
@[simp] theorem State.modPort_hosts (n : Nat) (g : PortSt → PortSt) : (s.modPort n g).hosts = s.hosts := by rw [State.modPort, State.setPort_hosts]
@[simp] theorem State.modPort_lanes (n : Nat) (g : PortSt → PortSt) : (s.modPort n g).lanes = s.lanes := by rw [State.modPort, State.setPort_lanes]
@[simp] theorem State.modPort_laneOf (n : Nat) (g : PortSt → PortSt) : (s.modPort n g).laneOf = s.laneOf := by rw [State.modPort, State.setPort_laneOf]
@[simp] theorem State.modPort_tbl (n : Nat) (g : PortSt → PortSt) : (s.modPort n g).tbl = s.tbl := by rw [State.modPort, State.setPort_tbl]
@[simp] theorem State.modPort_held (n : Nat) (g : PortSt → PortSt) : (s.modPort n g).held = s.held := by rw [State.modPort, State.setPort_held]
@[simp] theorem State.modPort_snr (n : Nat) (g : PortSt → PortSt) : (s.modPort n g).snr = s.snr := by rw [State.modPort, State.setPort_snr]
@[simp] theorem State.modPort_erle (n : Nat) (g : PortSt → PortSt) : (s.modPort n g).erle = s.erle := by rw [State.modPort, State.setPort_erle]
@[simp] theorem State.modPort_errs (n : Nat) (g : PortSt → PortSt) : (s.modPort n g).errs = s.errs := by rw [State.modPort, State.setPort_errs]
@[simp] theorem State.modPort_sigma (n : Nat) (g : PortSt → PortSt) : (s.modPort n g).sigma = s.sigma := by rw [State.modPort, State.setPort_sigma]
@[simp] theorem State.modPort_noise (n : Nat) (g : PortSt → PortSt) : (s.modPort n g).noise = s.noise := by rw [State.modPort, State.setPort_noise]
@[simp] theorem State.modPort_coef (n : Nat) (g : PortSt → PortSt) : (s.modPort n g).coef = s.coef := by rw [State.modPort, State.setPort_coef]
@[simp] theorem State.modPort_seeds (n : Nat) (g : PortSt → PortSt) : (s.modPort n g).seeds = s.seeds := by rw [State.modPort, State.setPort_seeds]
@[simp] theorem State.modPort_banks (n : Nat) (g : PortSt → PortSt) : (s.modPort n g).banks = s.banks := by rw [State.modPort, State.setPort_banks]
@[simp] theorem State.modPort_rows (n : Nat) (g : PortSt → PortSt) : (s.modPort n g).rows = s.rows := by rw [State.modPort, State.setPort_rows]
@[simp] theorem State.modPort_tiles (n : Nat) (g : PortSt → PortSt) : (s.modPort n g).tiles = s.tiles := by rw [State.modPort, State.setPort_tiles]
@[simp] theorem State.modPort_diags (n : Nat) (g : PortSt → PortSt) : (s.modPort n g).diags = s.diags := by rw [State.modPort, State.setPort_diags]
@[simp] theorem State.modPort_maps (n : Nat) (g : PortSt → PortSt) : (s.modPort n g).maps = s.maps := by rw [State.modPort, State.setPort_maps]
@[simp] theorem State.modPort_traces (n : Nat) (g : PortSt → PortSt) : (s.modPort n g).traces = s.traces := by rw [State.modPort, State.setPort_traces]
@[simp] theorem State.modPort_doms (n : Nat) (g : PortSt → PortSt) : (s.modPort n g).doms = s.doms := by rw [State.modPort, State.setPort_doms]
@[simp] theorem State.modPort_cals (n : Nat) (g : PortSt → PortSt) : (s.modPort n g).cals = s.cals := by rw [State.modPort, State.setPort_cals]
@[simp] theorem State.modPort_calRuns (n : Nat) (g : PortSt → PortSt) : (s.modPort n g).calRuns = s.calRuns := by rw [State.modPort, State.setPort_calRuns]
@[simp] theorem State.modPort_calSaved (n : Nat) (g : PortSt → PortSt) : (s.modPort n g).calSaved = s.calSaved := by rw [State.modPort, State.setPort_calSaved]
@[simp] theorem State.modPort_queued (n : Nat) (g : PortSt → PortSt) : (s.modPort n g).queued = s.queued := by rw [State.modPort, State.setPort_queued]
@[simp] theorem State.modPort_running (n : Nat) (g : PortSt → PortSt) : (s.modPort n g).running = s.running := by rw [State.modPort, State.setPort_running]
@[simp] theorem State.modPort_kept (n : Nat) (g : PortSt → PortSt) : (s.modPort n g).kept = s.kept := by rw [State.modPort, State.setPort_kept]
@[simp] theorem State.modPort_jobs (n : Nat) (g : PortSt → PortSt) : (s.modPort n g).jobs = s.jobs := by rw [State.modPort, State.setPort_jobs]
@[simp] theorem State.modPort_records (n : Nat) (g : PortSt → PortSt) : (s.modPort n g).records = s.records := by rw [State.modPort, State.setPort_records]
@[simp] theorem State.modPort_eyes (n : Nat) (g : PortSt → PortSt) : (s.modPort n g).eyes = s.eyes := by rw [State.modPort, State.setPort_eyes]
@[simp] theorem State.modPort_completions (n : Nat) (g : PortSt → PortSt) : (s.modPort n g).completions = s.completions := by rw [State.modPort, State.setPort_completions]
@[simp] theorem State.modPort_claims (n : Nat) (g : PortSt → PortSt) : (s.modPort n g).claims = s.claims := by rw [State.modPort, State.setPort_claims]
@[simp] theorem State.modPort_waiting (n : Nat) (g : PortSt → PortSt) : (s.modPort n g).waiting = s.waiting := by rw [State.modPort, State.setPort_waiting]
@[simp] theorem State.modPort_later (n : Nat) (g : PortSt → PortSt) : (s.modPort n g).later = s.later := by rw [State.modPort, State.setPort_later]
@[simp] theorem State.modPort_granted (n : Nat) (g : PortSt → PortSt) : (s.modPort n g).granted = s.granted := by rw [State.modPort, State.setPort_granted]
@[simp] theorem State.modPort_tests (n : Nat) (g : PortSt → PortSt) : (s.modPort n g).tests = s.tests := by rw [State.modPort, State.setPort_tests]
@[simp] theorem State.modPort_nvOpen (n : Nat) (g : PortSt → PortSt) : (s.modPort n g).nvOpen = s.nvOpen := by rw [State.modPort, State.setPort_nvOpen]
@[simp] theorem State.modPort_mram (n : Nat) (g : PortSt → PortSt) : (s.modPort n g).mram = s.mram := by rw [State.modPort, State.setPort_mram]
@[simp] theorem State.modPort_gbQueue (n : Nat) (g : PortSt → PortSt) : (s.modPort n g).gbQueue = s.gbQueue := by rw [State.modPort, State.setPort_gbQueue]
@[simp] theorem State.modPort_gbLimits (n : Nat) (g : PortSt → PortSt) : (s.modPort n g).gbLimits = s.gbLimits := by rw [State.modPort, State.setPort_gbLimits]
@[simp] theorem State.modPort_gbWindow (n : Nat) (g : PortSt → PortSt) : (s.modPort n g).gbWindow = s.gbWindow := by rw [State.modPort, State.setPort_gbWindow]
@[simp] theorem State.modPort_shadows (n : Nat) (g : PortSt → PortSt) : (s.modPort n g).shadows = s.shadows := by rw [State.modPort, State.setPort_shadows]
@[simp] theorem State.modPort_highs (n : Nat) (g : PortSt → PortSt) : (s.modPort n g).highs = s.highs := by rw [State.modPort, State.setPort_highs]
@[simp] theorem State.modPort_core (n : Nat) (g : PortSt → PortSt) : (s.modPort n g).core = s.core := by rw [State.modPort, State.setPort_core]
@[simp] theorem State.modPort_hub (n : Nat) (g : PortSt → PortSt) : (s.modPort n g).hub = s.hub := by rw [State.modPort, State.setPort_hub]
@[simp] theorem State.modPort_raised (n : Nat) (g : PortSt → PortSt) : (s.modPort n g).raised = s.raised := by rw [State.modPort, State.setPort_raised]
@[simp] theorem State.modPort_out (n : Nat) (g : PortSt → PortSt) : (s.modPort n g).out = s.out := by rw [State.modPort, State.setPort_out]
@[simp] theorem State.modPort_pending (n : Nat) (g : PortSt → PortSt) : (s.modPort n g).pending = s.pending := by rw [State.modPort, State.setPort_pending]

@[simp] theorem State.setPair_now (n p : Nat) (v : PairSt) : (s.setPair n p v).now = s.now := by rw [State.setPair]
@[simp] theorem State.setPair_free (n p : Nat) (v : PairSt) : (s.setPair n p v).free = s.free := by rw [State.setPair]
@[simp] theorem State.setPair_regs (n p : Nat) (v : PairSt) : (s.setPair n p v).regs = s.regs := by rw [State.setPair]
@[simp] theorem State.setPair_ports (n p : Nat) (v : PairSt) : (s.setPair n p v).ports = s.ports := by rw [State.setPair]
@[simp] theorem State.setPair_links (n p : Nat) (v : PairSt) : (s.setPair n p v).links = s.links := by rw [State.setPair]
@[simp] theorem State.setPair_queues (n p : Nat) (v : PairSt) : (s.setPair n p v).queues = s.queues := by rw [State.setPair]
@[simp] theorem State.setPair_hosts (n p : Nat) (v : PairSt) : (s.setPair n p v).hosts = s.hosts := by rw [State.setPair]
@[simp] theorem State.setPair_lanes (n p : Nat) (v : PairSt) : (s.setPair n p v).lanes = s.lanes := by rw [State.setPair]
@[simp] theorem State.setPair_laneOf (n p : Nat) (v : PairSt) : (s.setPair n p v).laneOf = s.laneOf := by rw [State.setPair]
@[simp] theorem State.setPair_tbl (n p : Nat) (v : PairSt) : (s.setPair n p v).tbl = s.tbl := by rw [State.setPair]
@[simp] theorem State.setPair_held (n p : Nat) (v : PairSt) : (s.setPair n p v).held = s.held := by rw [State.setPair]
@[simp] theorem State.setPair_snr (n p : Nat) (v : PairSt) : (s.setPair n p v).snr = s.snr := by rw [State.setPair]
@[simp] theorem State.setPair_erle (n p : Nat) (v : PairSt) : (s.setPair n p v).erle = s.erle := by rw [State.setPair]
@[simp] theorem State.setPair_errs (n p : Nat) (v : PairSt) : (s.setPair n p v).errs = s.errs := by rw [State.setPair]
@[simp] theorem State.setPair_sigma (n p : Nat) (v : PairSt) : (s.setPair n p v).sigma = s.sigma := by rw [State.setPair]
@[simp] theorem State.setPair_noise (n p : Nat) (v : PairSt) : (s.setPair n p v).noise = s.noise := by rw [State.setPair]
@[simp] theorem State.setPair_coef (n p : Nat) (v : PairSt) : (s.setPair n p v).coef = s.coef := by rw [State.setPair]
@[simp] theorem State.setPair_seeds (n p : Nat) (v : PairSt) : (s.setPair n p v).seeds = s.seeds := by rw [State.setPair]
@[simp] theorem State.setPair_banks (n p : Nat) (v : PairSt) : (s.setPair n p v).banks = s.banks := by rw [State.setPair]
@[simp] theorem State.setPair_rows (n p : Nat) (v : PairSt) : (s.setPair n p v).rows = s.rows := by rw [State.setPair]
@[simp] theorem State.setPair_tiles (n p : Nat) (v : PairSt) : (s.setPair n p v).tiles = s.tiles := by rw [State.setPair]
@[simp] theorem State.setPair_diags (n p : Nat) (v : PairSt) : (s.setPair n p v).diags = s.diags := by rw [State.setPair]
@[simp] theorem State.setPair_maps (n p : Nat) (v : PairSt) : (s.setPair n p v).maps = s.maps := by rw [State.setPair]
@[simp] theorem State.setPair_traces (n p : Nat) (v : PairSt) : (s.setPair n p v).traces = s.traces := by rw [State.setPair]
@[simp] theorem State.setPair_doms (n p : Nat) (v : PairSt) : (s.setPair n p v).doms = s.doms := by rw [State.setPair]
@[simp] theorem State.setPair_cals (n p : Nat) (v : PairSt) : (s.setPair n p v).cals = s.cals := by rw [State.setPair]
@[simp] theorem State.setPair_calRuns (n p : Nat) (v : PairSt) : (s.setPair n p v).calRuns = s.calRuns := by rw [State.setPair]
@[simp] theorem State.setPair_calSaved (n p : Nat) (v : PairSt) : (s.setPair n p v).calSaved = s.calSaved := by rw [State.setPair]
@[simp] theorem State.setPair_queued (n p : Nat) (v : PairSt) : (s.setPair n p v).queued = s.queued := by rw [State.setPair]
@[simp] theorem State.setPair_running (n p : Nat) (v : PairSt) : (s.setPair n p v).running = s.running := by rw [State.setPair]
@[simp] theorem State.setPair_kept (n p : Nat) (v : PairSt) : (s.setPair n p v).kept = s.kept := by rw [State.setPair]
@[simp] theorem State.setPair_jobs (n p : Nat) (v : PairSt) : (s.setPair n p v).jobs = s.jobs := by rw [State.setPair]
@[simp] theorem State.setPair_records (n p : Nat) (v : PairSt) : (s.setPair n p v).records = s.records := by rw [State.setPair]
@[simp] theorem State.setPair_eyes (n p : Nat) (v : PairSt) : (s.setPair n p v).eyes = s.eyes := by rw [State.setPair]
@[simp] theorem State.setPair_completions (n p : Nat) (v : PairSt) : (s.setPair n p v).completions = s.completions := by rw [State.setPair]
@[simp] theorem State.setPair_claims (n p : Nat) (v : PairSt) : (s.setPair n p v).claims = s.claims := by rw [State.setPair]
@[simp] theorem State.setPair_waiting (n p : Nat) (v : PairSt) : (s.setPair n p v).waiting = s.waiting := by rw [State.setPair]
@[simp] theorem State.setPair_later (n p : Nat) (v : PairSt) : (s.setPair n p v).later = s.later := by rw [State.setPair]
@[simp] theorem State.setPair_granted (n p : Nat) (v : PairSt) : (s.setPair n p v).granted = s.granted := by rw [State.setPair]
@[simp] theorem State.setPair_tests (n p : Nat) (v : PairSt) : (s.setPair n p v).tests = s.tests := by rw [State.setPair]
@[simp] theorem State.setPair_nvOpen (n p : Nat) (v : PairSt) : (s.setPair n p v).nvOpen = s.nvOpen := by rw [State.setPair]
@[simp] theorem State.setPair_mram (n p : Nat) (v : PairSt) : (s.setPair n p v).mram = s.mram := by rw [State.setPair]
@[simp] theorem State.setPair_gbQueue (n p : Nat) (v : PairSt) : (s.setPair n p v).gbQueue = s.gbQueue := by rw [State.setPair]
@[simp] theorem State.setPair_gbLimits (n p : Nat) (v : PairSt) : (s.setPair n p v).gbLimits = s.gbLimits := by rw [State.setPair]
@[simp] theorem State.setPair_gbWindow (n p : Nat) (v : PairSt) : (s.setPair n p v).gbWindow = s.gbWindow := by rw [State.setPair]
@[simp] theorem State.setPair_shadows (n p : Nat) (v : PairSt) : (s.setPair n p v).shadows = s.shadows := by rw [State.setPair]
@[simp] theorem State.setPair_highs (n p : Nat) (v : PairSt) : (s.setPair n p v).highs = s.highs := by rw [State.setPair]
@[simp] theorem State.setPair_core (n p : Nat) (v : PairSt) : (s.setPair n p v).core = s.core := by rw [State.setPair]
@[simp] theorem State.setPair_hub (n p : Nat) (v : PairSt) : (s.setPair n p v).hub = s.hub := by rw [State.setPair]
@[simp] theorem State.setPair_raised (n p : Nat) (v : PairSt) : (s.setPair n p v).raised = s.raised := by rw [State.setPair]
@[simp] theorem State.setPair_out (n p : Nat) (v : PairSt) : (s.setPair n p v).out = s.out := by rw [State.setPair]
@[simp] theorem State.setPair_pending (n p : Nat) (v : PairSt) : (s.setPair n p v).pending = s.pending := by rw [State.setPair]

@[simp] theorem State.modPair_now (n p : Nat) (g : PairSt → PairSt) : (s.modPair n p g).now = s.now := by rw [State.modPair, State.setPair_now]
@[simp] theorem State.modPair_free (n p : Nat) (g : PairSt → PairSt) : (s.modPair n p g).free = s.free := by rw [State.modPair, State.setPair_free]
@[simp] theorem State.modPair_regs (n p : Nat) (g : PairSt → PairSt) : (s.modPair n p g).regs = s.regs := by rw [State.modPair, State.setPair_regs]
@[simp] theorem State.modPair_ports (n p : Nat) (g : PairSt → PairSt) : (s.modPair n p g).ports = s.ports := by rw [State.modPair, State.setPair_ports]
@[simp] theorem State.modPair_links (n p : Nat) (g : PairSt → PairSt) : (s.modPair n p g).links = s.links := by rw [State.modPair, State.setPair_links]
@[simp] theorem State.modPair_queues (n p : Nat) (g : PairSt → PairSt) : (s.modPair n p g).queues = s.queues := by rw [State.modPair, State.setPair_queues]
@[simp] theorem State.modPair_hosts (n p : Nat) (g : PairSt → PairSt) : (s.modPair n p g).hosts = s.hosts := by rw [State.modPair, State.setPair_hosts]
@[simp] theorem State.modPair_lanes (n p : Nat) (g : PairSt → PairSt) : (s.modPair n p g).lanes = s.lanes := by rw [State.modPair, State.setPair_lanes]
@[simp] theorem State.modPair_laneOf (n p : Nat) (g : PairSt → PairSt) : (s.modPair n p g).laneOf = s.laneOf := by rw [State.modPair, State.setPair_laneOf]
@[simp] theorem State.modPair_tbl (n p : Nat) (g : PairSt → PairSt) : (s.modPair n p g).tbl = s.tbl := by rw [State.modPair, State.setPair_tbl]
@[simp] theorem State.modPair_held (n p : Nat) (g : PairSt → PairSt) : (s.modPair n p g).held = s.held := by rw [State.modPair, State.setPair_held]
@[simp] theorem State.modPair_snr (n p : Nat) (g : PairSt → PairSt) : (s.modPair n p g).snr = s.snr := by rw [State.modPair, State.setPair_snr]
@[simp] theorem State.modPair_erle (n p : Nat) (g : PairSt → PairSt) : (s.modPair n p g).erle = s.erle := by rw [State.modPair, State.setPair_erle]
@[simp] theorem State.modPair_errs (n p : Nat) (g : PairSt → PairSt) : (s.modPair n p g).errs = s.errs := by rw [State.modPair, State.setPair_errs]
@[simp] theorem State.modPair_sigma (n p : Nat) (g : PairSt → PairSt) : (s.modPair n p g).sigma = s.sigma := by rw [State.modPair, State.setPair_sigma]
@[simp] theorem State.modPair_noise (n p : Nat) (g : PairSt → PairSt) : (s.modPair n p g).noise = s.noise := by rw [State.modPair, State.setPair_noise]
@[simp] theorem State.modPair_coef (n p : Nat) (g : PairSt → PairSt) : (s.modPair n p g).coef = s.coef := by rw [State.modPair, State.setPair_coef]
@[simp] theorem State.modPair_seeds (n p : Nat) (g : PairSt → PairSt) : (s.modPair n p g).seeds = s.seeds := by rw [State.modPair, State.setPair_seeds]
@[simp] theorem State.modPair_banks (n p : Nat) (g : PairSt → PairSt) : (s.modPair n p g).banks = s.banks := by rw [State.modPair, State.setPair_banks]
@[simp] theorem State.modPair_rows (n p : Nat) (g : PairSt → PairSt) : (s.modPair n p g).rows = s.rows := by rw [State.modPair, State.setPair_rows]
@[simp] theorem State.modPair_tiles (n p : Nat) (g : PairSt → PairSt) : (s.modPair n p g).tiles = s.tiles := by rw [State.modPair, State.setPair_tiles]
@[simp] theorem State.modPair_diags (n p : Nat) (g : PairSt → PairSt) : (s.modPair n p g).diags = s.diags := by rw [State.modPair, State.setPair_diags]
@[simp] theorem State.modPair_maps (n p : Nat) (g : PairSt → PairSt) : (s.modPair n p g).maps = s.maps := by rw [State.modPair, State.setPair_maps]
@[simp] theorem State.modPair_traces (n p : Nat) (g : PairSt → PairSt) : (s.modPair n p g).traces = s.traces := by rw [State.modPair, State.setPair_traces]
@[simp] theorem State.modPair_doms (n p : Nat) (g : PairSt → PairSt) : (s.modPair n p g).doms = s.doms := by rw [State.modPair, State.setPair_doms]
@[simp] theorem State.modPair_cals (n p : Nat) (g : PairSt → PairSt) : (s.modPair n p g).cals = s.cals := by rw [State.modPair, State.setPair_cals]
@[simp] theorem State.modPair_calRuns (n p : Nat) (g : PairSt → PairSt) : (s.modPair n p g).calRuns = s.calRuns := by rw [State.modPair, State.setPair_calRuns]
@[simp] theorem State.modPair_calSaved (n p : Nat) (g : PairSt → PairSt) : (s.modPair n p g).calSaved = s.calSaved := by rw [State.modPair, State.setPair_calSaved]
@[simp] theorem State.modPair_queued (n p : Nat) (g : PairSt → PairSt) : (s.modPair n p g).queued = s.queued := by rw [State.modPair, State.setPair_queued]
@[simp] theorem State.modPair_running (n p : Nat) (g : PairSt → PairSt) : (s.modPair n p g).running = s.running := by rw [State.modPair, State.setPair_running]
@[simp] theorem State.modPair_kept (n p : Nat) (g : PairSt → PairSt) : (s.modPair n p g).kept = s.kept := by rw [State.modPair, State.setPair_kept]
@[simp] theorem State.modPair_jobs (n p : Nat) (g : PairSt → PairSt) : (s.modPair n p g).jobs = s.jobs := by rw [State.modPair, State.setPair_jobs]
@[simp] theorem State.modPair_records (n p : Nat) (g : PairSt → PairSt) : (s.modPair n p g).records = s.records := by rw [State.modPair, State.setPair_records]
@[simp] theorem State.modPair_eyes (n p : Nat) (g : PairSt → PairSt) : (s.modPair n p g).eyes = s.eyes := by rw [State.modPair, State.setPair_eyes]
@[simp] theorem State.modPair_completions (n p : Nat) (g : PairSt → PairSt) : (s.modPair n p g).completions = s.completions := by rw [State.modPair, State.setPair_completions]
@[simp] theorem State.modPair_claims (n p : Nat) (g : PairSt → PairSt) : (s.modPair n p g).claims = s.claims := by rw [State.modPair, State.setPair_claims]
@[simp] theorem State.modPair_waiting (n p : Nat) (g : PairSt → PairSt) : (s.modPair n p g).waiting = s.waiting := by rw [State.modPair, State.setPair_waiting]
@[simp] theorem State.modPair_later (n p : Nat) (g : PairSt → PairSt) : (s.modPair n p g).later = s.later := by rw [State.modPair, State.setPair_later]
@[simp] theorem State.modPair_granted (n p : Nat) (g : PairSt → PairSt) : (s.modPair n p g).granted = s.granted := by rw [State.modPair, State.setPair_granted]
@[simp] theorem State.modPair_tests (n p : Nat) (g : PairSt → PairSt) : (s.modPair n p g).tests = s.tests := by rw [State.modPair, State.setPair_tests]
@[simp] theorem State.modPair_nvOpen (n p : Nat) (g : PairSt → PairSt) : (s.modPair n p g).nvOpen = s.nvOpen := by rw [State.modPair, State.setPair_nvOpen]
@[simp] theorem State.modPair_mram (n p : Nat) (g : PairSt → PairSt) : (s.modPair n p g).mram = s.mram := by rw [State.modPair, State.setPair_mram]
@[simp] theorem State.modPair_gbQueue (n p : Nat) (g : PairSt → PairSt) : (s.modPair n p g).gbQueue = s.gbQueue := by rw [State.modPair, State.setPair_gbQueue]
@[simp] theorem State.modPair_gbLimits (n p : Nat) (g : PairSt → PairSt) : (s.modPair n p g).gbLimits = s.gbLimits := by rw [State.modPair, State.setPair_gbLimits]
@[simp] theorem State.modPair_gbWindow (n p : Nat) (g : PairSt → PairSt) : (s.modPair n p g).gbWindow = s.gbWindow := by rw [State.modPair, State.setPair_gbWindow]
@[simp] theorem State.modPair_shadows (n p : Nat) (g : PairSt → PairSt) : (s.modPair n p g).shadows = s.shadows := by rw [State.modPair, State.setPair_shadows]
@[simp] theorem State.modPair_highs (n p : Nat) (g : PairSt → PairSt) : (s.modPair n p g).highs = s.highs := by rw [State.modPair, State.setPair_highs]
@[simp] theorem State.modPair_core (n p : Nat) (g : PairSt → PairSt) : (s.modPair n p g).core = s.core := by rw [State.modPair, State.setPair_core]
@[simp] theorem State.modPair_hub (n p : Nat) (g : PairSt → PairSt) : (s.modPair n p g).hub = s.hub := by rw [State.modPair, State.setPair_hub]
@[simp] theorem State.modPair_raised (n p : Nat) (g : PairSt → PairSt) : (s.modPair n p g).raised = s.raised := by rw [State.modPair, State.setPair_raised]
@[simp] theorem State.modPair_out (n p : Nat) (g : PairSt → PairSt) : (s.modPair n p g).out = s.out := by rw [State.modPair, State.setPair_out]
@[simp] theorem State.modPair_pending (n p : Nat) (g : PairSt → PairSt) : (s.modPair n p g).pending = s.pending := by rw [State.modPair, State.setPair_pending]

@[simp] theorem State.setLink_now (l : LinkId) (v : LinkSt) : (s.setLink l v).now = s.now := by rw [State.setLink]
@[simp] theorem State.setLink_free (l : LinkId) (v : LinkSt) : (s.setLink l v).free = s.free := by rw [State.setLink]
@[simp] theorem State.setLink_regs (l : LinkId) (v : LinkSt) : (s.setLink l v).regs = s.regs := by rw [State.setLink]
@[simp] theorem State.setLink_ports (l : LinkId) (v : LinkSt) : (s.setLink l v).ports = s.ports := by rw [State.setLink]
@[simp] theorem State.setLink_pairs (l : LinkId) (v : LinkSt) : (s.setLink l v).pairs = s.pairs := by rw [State.setLink]
@[simp] theorem State.setLink_queues (l : LinkId) (v : LinkSt) : (s.setLink l v).queues = s.queues := by rw [State.setLink]
@[simp] theorem State.setLink_hosts (l : LinkId) (v : LinkSt) : (s.setLink l v).hosts = s.hosts := by rw [State.setLink]
@[simp] theorem State.setLink_lanes (l : LinkId) (v : LinkSt) : (s.setLink l v).lanes = s.lanes := by rw [State.setLink]
@[simp] theorem State.setLink_laneOf (l : LinkId) (v : LinkSt) : (s.setLink l v).laneOf = s.laneOf := by rw [State.setLink]
@[simp] theorem State.setLink_tbl (l : LinkId) (v : LinkSt) : (s.setLink l v).tbl = s.tbl := by rw [State.setLink]
@[simp] theorem State.setLink_held (l : LinkId) (v : LinkSt) : (s.setLink l v).held = s.held := by rw [State.setLink]
@[simp] theorem State.setLink_snr (l : LinkId) (v : LinkSt) : (s.setLink l v).snr = s.snr := by rw [State.setLink]
@[simp] theorem State.setLink_erle (l : LinkId) (v : LinkSt) : (s.setLink l v).erle = s.erle := by rw [State.setLink]
@[simp] theorem State.setLink_errs (l : LinkId) (v : LinkSt) : (s.setLink l v).errs = s.errs := by rw [State.setLink]
@[simp] theorem State.setLink_sigma (l : LinkId) (v : LinkSt) : (s.setLink l v).sigma = s.sigma := by rw [State.setLink]
@[simp] theorem State.setLink_noise (l : LinkId) (v : LinkSt) : (s.setLink l v).noise = s.noise := by rw [State.setLink]
@[simp] theorem State.setLink_coef (l : LinkId) (v : LinkSt) : (s.setLink l v).coef = s.coef := by rw [State.setLink]
@[simp] theorem State.setLink_seeds (l : LinkId) (v : LinkSt) : (s.setLink l v).seeds = s.seeds := by rw [State.setLink]
@[simp] theorem State.setLink_banks (l : LinkId) (v : LinkSt) : (s.setLink l v).banks = s.banks := by rw [State.setLink]
@[simp] theorem State.setLink_rows (l : LinkId) (v : LinkSt) : (s.setLink l v).rows = s.rows := by rw [State.setLink]
@[simp] theorem State.setLink_tiles (l : LinkId) (v : LinkSt) : (s.setLink l v).tiles = s.tiles := by rw [State.setLink]
@[simp] theorem State.setLink_diags (l : LinkId) (v : LinkSt) : (s.setLink l v).diags = s.diags := by rw [State.setLink]
@[simp] theorem State.setLink_maps (l : LinkId) (v : LinkSt) : (s.setLink l v).maps = s.maps := by rw [State.setLink]
@[simp] theorem State.setLink_traces (l : LinkId) (v : LinkSt) : (s.setLink l v).traces = s.traces := by rw [State.setLink]
@[simp] theorem State.setLink_doms (l : LinkId) (v : LinkSt) : (s.setLink l v).doms = s.doms := by rw [State.setLink]
@[simp] theorem State.setLink_cals (l : LinkId) (v : LinkSt) : (s.setLink l v).cals = s.cals := by rw [State.setLink]
@[simp] theorem State.setLink_calRuns (l : LinkId) (v : LinkSt) : (s.setLink l v).calRuns = s.calRuns := by rw [State.setLink]
@[simp] theorem State.setLink_calSaved (l : LinkId) (v : LinkSt) : (s.setLink l v).calSaved = s.calSaved := by rw [State.setLink]
@[simp] theorem State.setLink_queued (l : LinkId) (v : LinkSt) : (s.setLink l v).queued = s.queued := by rw [State.setLink]
@[simp] theorem State.setLink_running (l : LinkId) (v : LinkSt) : (s.setLink l v).running = s.running := by rw [State.setLink]
@[simp] theorem State.setLink_kept (l : LinkId) (v : LinkSt) : (s.setLink l v).kept = s.kept := by rw [State.setLink]
@[simp] theorem State.setLink_jobs (l : LinkId) (v : LinkSt) : (s.setLink l v).jobs = s.jobs := by rw [State.setLink]
@[simp] theorem State.setLink_records (l : LinkId) (v : LinkSt) : (s.setLink l v).records = s.records := by rw [State.setLink]
@[simp] theorem State.setLink_eyes (l : LinkId) (v : LinkSt) : (s.setLink l v).eyes = s.eyes := by rw [State.setLink]
@[simp] theorem State.setLink_completions (l : LinkId) (v : LinkSt) : (s.setLink l v).completions = s.completions := by rw [State.setLink]
@[simp] theorem State.setLink_claims (l : LinkId) (v : LinkSt) : (s.setLink l v).claims = s.claims := by rw [State.setLink]
@[simp] theorem State.setLink_waiting (l : LinkId) (v : LinkSt) : (s.setLink l v).waiting = s.waiting := by rw [State.setLink]
@[simp] theorem State.setLink_later (l : LinkId) (v : LinkSt) : (s.setLink l v).later = s.later := by rw [State.setLink]
@[simp] theorem State.setLink_granted (l : LinkId) (v : LinkSt) : (s.setLink l v).granted = s.granted := by rw [State.setLink]
@[simp] theorem State.setLink_tests (l : LinkId) (v : LinkSt) : (s.setLink l v).tests = s.tests := by rw [State.setLink]
@[simp] theorem State.setLink_nvOpen (l : LinkId) (v : LinkSt) : (s.setLink l v).nvOpen = s.nvOpen := by rw [State.setLink]
@[simp] theorem State.setLink_mram (l : LinkId) (v : LinkSt) : (s.setLink l v).mram = s.mram := by rw [State.setLink]
@[simp] theorem State.setLink_gbQueue (l : LinkId) (v : LinkSt) : (s.setLink l v).gbQueue = s.gbQueue := by rw [State.setLink]
@[simp] theorem State.setLink_gbLimits (l : LinkId) (v : LinkSt) : (s.setLink l v).gbLimits = s.gbLimits := by rw [State.setLink]
@[simp] theorem State.setLink_gbWindow (l : LinkId) (v : LinkSt) : (s.setLink l v).gbWindow = s.gbWindow := by rw [State.setLink]
@[simp] theorem State.setLink_shadows (l : LinkId) (v : LinkSt) : (s.setLink l v).shadows = s.shadows := by rw [State.setLink]
@[simp] theorem State.setLink_highs (l : LinkId) (v : LinkSt) : (s.setLink l v).highs = s.highs := by rw [State.setLink]
@[simp] theorem State.setLink_core (l : LinkId) (v : LinkSt) : (s.setLink l v).core = s.core := by rw [State.setLink]
@[simp] theorem State.setLink_hub (l : LinkId) (v : LinkSt) : (s.setLink l v).hub = s.hub := by rw [State.setLink]
@[simp] theorem State.setLink_raised (l : LinkId) (v : LinkSt) : (s.setLink l v).raised = s.raised := by rw [State.setLink]
@[simp] theorem State.setLink_out (l : LinkId) (v : LinkSt) : (s.setLink l v).out = s.out := by rw [State.setLink]
@[simp] theorem State.setLink_pending (l : LinkId) (v : LinkSt) : (s.setLink l v).pending = s.pending := by rw [State.setLink]

@[simp] theorem State.modLink_now (l : LinkId) (g : LinkSt → LinkSt) : (s.modLink l g).now = s.now := by rw [State.modLink, State.setLink_now]
@[simp] theorem State.modLink_free (l : LinkId) (g : LinkSt → LinkSt) : (s.modLink l g).free = s.free := by rw [State.modLink, State.setLink_free]
@[simp] theorem State.modLink_regs (l : LinkId) (g : LinkSt → LinkSt) : (s.modLink l g).regs = s.regs := by rw [State.modLink, State.setLink_regs]
@[simp] theorem State.modLink_ports (l : LinkId) (g : LinkSt → LinkSt) : (s.modLink l g).ports = s.ports := by rw [State.modLink, State.setLink_ports]
@[simp] theorem State.modLink_pairs (l : LinkId) (g : LinkSt → LinkSt) : (s.modLink l g).pairs = s.pairs := by rw [State.modLink, State.setLink_pairs]
@[simp] theorem State.modLink_queues (l : LinkId) (g : LinkSt → LinkSt) : (s.modLink l g).queues = s.queues := by rw [State.modLink, State.setLink_queues]
@[simp] theorem State.modLink_hosts (l : LinkId) (g : LinkSt → LinkSt) : (s.modLink l g).hosts = s.hosts := by rw [State.modLink, State.setLink_hosts]
@[simp] theorem State.modLink_lanes (l : LinkId) (g : LinkSt → LinkSt) : (s.modLink l g).lanes = s.lanes := by rw [State.modLink, State.setLink_lanes]
@[simp] theorem State.modLink_laneOf (l : LinkId) (g : LinkSt → LinkSt) : (s.modLink l g).laneOf = s.laneOf := by rw [State.modLink, State.setLink_laneOf]
@[simp] theorem State.modLink_tbl (l : LinkId) (g : LinkSt → LinkSt) : (s.modLink l g).tbl = s.tbl := by rw [State.modLink, State.setLink_tbl]
@[simp] theorem State.modLink_held (l : LinkId) (g : LinkSt → LinkSt) : (s.modLink l g).held = s.held := by rw [State.modLink, State.setLink_held]
@[simp] theorem State.modLink_snr (l : LinkId) (g : LinkSt → LinkSt) : (s.modLink l g).snr = s.snr := by rw [State.modLink, State.setLink_snr]
@[simp] theorem State.modLink_erle (l : LinkId) (g : LinkSt → LinkSt) : (s.modLink l g).erle = s.erle := by rw [State.modLink, State.setLink_erle]
@[simp] theorem State.modLink_errs (l : LinkId) (g : LinkSt → LinkSt) : (s.modLink l g).errs = s.errs := by rw [State.modLink, State.setLink_errs]
@[simp] theorem State.modLink_sigma (l : LinkId) (g : LinkSt → LinkSt) : (s.modLink l g).sigma = s.sigma := by rw [State.modLink, State.setLink_sigma]
@[simp] theorem State.modLink_noise (l : LinkId) (g : LinkSt → LinkSt) : (s.modLink l g).noise = s.noise := by rw [State.modLink, State.setLink_noise]
@[simp] theorem State.modLink_coef (l : LinkId) (g : LinkSt → LinkSt) : (s.modLink l g).coef = s.coef := by rw [State.modLink, State.setLink_coef]
@[simp] theorem State.modLink_seeds (l : LinkId) (g : LinkSt → LinkSt) : (s.modLink l g).seeds = s.seeds := by rw [State.modLink, State.setLink_seeds]
@[simp] theorem State.modLink_banks (l : LinkId) (g : LinkSt → LinkSt) : (s.modLink l g).banks = s.banks := by rw [State.modLink, State.setLink_banks]
@[simp] theorem State.modLink_rows (l : LinkId) (g : LinkSt → LinkSt) : (s.modLink l g).rows = s.rows := by rw [State.modLink, State.setLink_rows]
@[simp] theorem State.modLink_tiles (l : LinkId) (g : LinkSt → LinkSt) : (s.modLink l g).tiles = s.tiles := by rw [State.modLink, State.setLink_tiles]
@[simp] theorem State.modLink_diags (l : LinkId) (g : LinkSt → LinkSt) : (s.modLink l g).diags = s.diags := by rw [State.modLink, State.setLink_diags]
@[simp] theorem State.modLink_maps (l : LinkId) (g : LinkSt → LinkSt) : (s.modLink l g).maps = s.maps := by rw [State.modLink, State.setLink_maps]
@[simp] theorem State.modLink_traces (l : LinkId) (g : LinkSt → LinkSt) : (s.modLink l g).traces = s.traces := by rw [State.modLink, State.setLink_traces]
@[simp] theorem State.modLink_doms (l : LinkId) (g : LinkSt → LinkSt) : (s.modLink l g).doms = s.doms := by rw [State.modLink, State.setLink_doms]
@[simp] theorem State.modLink_cals (l : LinkId) (g : LinkSt → LinkSt) : (s.modLink l g).cals = s.cals := by rw [State.modLink, State.setLink_cals]
@[simp] theorem State.modLink_calRuns (l : LinkId) (g : LinkSt → LinkSt) : (s.modLink l g).calRuns = s.calRuns := by rw [State.modLink, State.setLink_calRuns]
@[simp] theorem State.modLink_calSaved (l : LinkId) (g : LinkSt → LinkSt) : (s.modLink l g).calSaved = s.calSaved := by rw [State.modLink, State.setLink_calSaved]
@[simp] theorem State.modLink_queued (l : LinkId) (g : LinkSt → LinkSt) : (s.modLink l g).queued = s.queued := by rw [State.modLink, State.setLink_queued]
@[simp] theorem State.modLink_running (l : LinkId) (g : LinkSt → LinkSt) : (s.modLink l g).running = s.running := by rw [State.modLink, State.setLink_running]
@[simp] theorem State.modLink_kept (l : LinkId) (g : LinkSt → LinkSt) : (s.modLink l g).kept = s.kept := by rw [State.modLink, State.setLink_kept]
@[simp] theorem State.modLink_jobs (l : LinkId) (g : LinkSt → LinkSt) : (s.modLink l g).jobs = s.jobs := by rw [State.modLink, State.setLink_jobs]
@[simp] theorem State.modLink_records (l : LinkId) (g : LinkSt → LinkSt) : (s.modLink l g).records = s.records := by rw [State.modLink, State.setLink_records]
@[simp] theorem State.modLink_eyes (l : LinkId) (g : LinkSt → LinkSt) : (s.modLink l g).eyes = s.eyes := by rw [State.modLink, State.setLink_eyes]
@[simp] theorem State.modLink_completions (l : LinkId) (g : LinkSt → LinkSt) : (s.modLink l g).completions = s.completions := by rw [State.modLink, State.setLink_completions]
@[simp] theorem State.modLink_claims (l : LinkId) (g : LinkSt → LinkSt) : (s.modLink l g).claims = s.claims := by rw [State.modLink, State.setLink_claims]
@[simp] theorem State.modLink_waiting (l : LinkId) (g : LinkSt → LinkSt) : (s.modLink l g).waiting = s.waiting := by rw [State.modLink, State.setLink_waiting]
@[simp] theorem State.modLink_later (l : LinkId) (g : LinkSt → LinkSt) : (s.modLink l g).later = s.later := by rw [State.modLink, State.setLink_later]
@[simp] theorem State.modLink_granted (l : LinkId) (g : LinkSt → LinkSt) : (s.modLink l g).granted = s.granted := by rw [State.modLink, State.setLink_granted]
@[simp] theorem State.modLink_tests (l : LinkId) (g : LinkSt → LinkSt) : (s.modLink l g).tests = s.tests := by rw [State.modLink, State.setLink_tests]
@[simp] theorem State.modLink_nvOpen (l : LinkId) (g : LinkSt → LinkSt) : (s.modLink l g).nvOpen = s.nvOpen := by rw [State.modLink, State.setLink_nvOpen]
@[simp] theorem State.modLink_mram (l : LinkId) (g : LinkSt → LinkSt) : (s.modLink l g).mram = s.mram := by rw [State.modLink, State.setLink_mram]
@[simp] theorem State.modLink_gbQueue (l : LinkId) (g : LinkSt → LinkSt) : (s.modLink l g).gbQueue = s.gbQueue := by rw [State.modLink, State.setLink_gbQueue]
@[simp] theorem State.modLink_gbLimits (l : LinkId) (g : LinkSt → LinkSt) : (s.modLink l g).gbLimits = s.gbLimits := by rw [State.modLink, State.setLink_gbLimits]
@[simp] theorem State.modLink_gbWindow (l : LinkId) (g : LinkSt → LinkSt) : (s.modLink l g).gbWindow = s.gbWindow := by rw [State.modLink, State.setLink_gbWindow]
@[simp] theorem State.modLink_shadows (l : LinkId) (g : LinkSt → LinkSt) : (s.modLink l g).shadows = s.shadows := by rw [State.modLink, State.setLink_shadows]
@[simp] theorem State.modLink_highs (l : LinkId) (g : LinkSt → LinkSt) : (s.modLink l g).highs = s.highs := by rw [State.modLink, State.setLink_highs]
@[simp] theorem State.modLink_core (l : LinkId) (g : LinkSt → LinkSt) : (s.modLink l g).core = s.core := by rw [State.modLink, State.setLink_core]
@[simp] theorem State.modLink_hub (l : LinkId) (g : LinkSt → LinkSt) : (s.modLink l g).hub = s.hub := by rw [State.modLink, State.setLink_hub]
@[simp] theorem State.modLink_raised (l : LinkId) (g : LinkSt → LinkSt) : (s.modLink l g).raised = s.raised := by rw [State.modLink, State.setLink_raised]
@[simp] theorem State.modLink_out (l : LinkId) (g : LinkSt → LinkSt) : (s.modLink l g).out = s.out := by rw [State.modLink, State.setLink_out]
@[simp] theorem State.modLink_pending (l : LinkId) (g : LinkSt → LinkSt) : (s.modLink l g).pending = s.pending := by rw [State.modLink, State.setLink_pending]

@[simp] theorem State.setQueue_now (l : LinkId) (v : QueueSt) : (s.setQueue l v).now = s.now := by rw [State.setQueue]
@[simp] theorem State.setQueue_free (l : LinkId) (v : QueueSt) : (s.setQueue l v).free = s.free := by rw [State.setQueue]
@[simp] theorem State.setQueue_regs (l : LinkId) (v : QueueSt) : (s.setQueue l v).regs = s.regs := by rw [State.setQueue]
@[simp] theorem State.setQueue_ports (l : LinkId) (v : QueueSt) : (s.setQueue l v).ports = s.ports := by rw [State.setQueue]
@[simp] theorem State.setQueue_pairs (l : LinkId) (v : QueueSt) : (s.setQueue l v).pairs = s.pairs := by rw [State.setQueue]
@[simp] theorem State.setQueue_links (l : LinkId) (v : QueueSt) : (s.setQueue l v).links = s.links := by rw [State.setQueue]
@[simp] theorem State.setQueue_hosts (l : LinkId) (v : QueueSt) : (s.setQueue l v).hosts = s.hosts := by rw [State.setQueue]
@[simp] theorem State.setQueue_lanes (l : LinkId) (v : QueueSt) : (s.setQueue l v).lanes = s.lanes := by rw [State.setQueue]
@[simp] theorem State.setQueue_laneOf (l : LinkId) (v : QueueSt) : (s.setQueue l v).laneOf = s.laneOf := by rw [State.setQueue]
@[simp] theorem State.setQueue_tbl (l : LinkId) (v : QueueSt) : (s.setQueue l v).tbl = s.tbl := by rw [State.setQueue]
@[simp] theorem State.setQueue_held (l : LinkId) (v : QueueSt) : (s.setQueue l v).held = s.held := by rw [State.setQueue]
@[simp] theorem State.setQueue_snr (l : LinkId) (v : QueueSt) : (s.setQueue l v).snr = s.snr := by rw [State.setQueue]
@[simp] theorem State.setQueue_erle (l : LinkId) (v : QueueSt) : (s.setQueue l v).erle = s.erle := by rw [State.setQueue]
@[simp] theorem State.setQueue_errs (l : LinkId) (v : QueueSt) : (s.setQueue l v).errs = s.errs := by rw [State.setQueue]
@[simp] theorem State.setQueue_sigma (l : LinkId) (v : QueueSt) : (s.setQueue l v).sigma = s.sigma := by rw [State.setQueue]
@[simp] theorem State.setQueue_noise (l : LinkId) (v : QueueSt) : (s.setQueue l v).noise = s.noise := by rw [State.setQueue]
@[simp] theorem State.setQueue_coef (l : LinkId) (v : QueueSt) : (s.setQueue l v).coef = s.coef := by rw [State.setQueue]
@[simp] theorem State.setQueue_seeds (l : LinkId) (v : QueueSt) : (s.setQueue l v).seeds = s.seeds := by rw [State.setQueue]
@[simp] theorem State.setQueue_banks (l : LinkId) (v : QueueSt) : (s.setQueue l v).banks = s.banks := by rw [State.setQueue]
@[simp] theorem State.setQueue_rows (l : LinkId) (v : QueueSt) : (s.setQueue l v).rows = s.rows := by rw [State.setQueue]
@[simp] theorem State.setQueue_tiles (l : LinkId) (v : QueueSt) : (s.setQueue l v).tiles = s.tiles := by rw [State.setQueue]
@[simp] theorem State.setQueue_diags (l : LinkId) (v : QueueSt) : (s.setQueue l v).diags = s.diags := by rw [State.setQueue]
@[simp] theorem State.setQueue_maps (l : LinkId) (v : QueueSt) : (s.setQueue l v).maps = s.maps := by rw [State.setQueue]
@[simp] theorem State.setQueue_traces (l : LinkId) (v : QueueSt) : (s.setQueue l v).traces = s.traces := by rw [State.setQueue]
@[simp] theorem State.setQueue_doms (l : LinkId) (v : QueueSt) : (s.setQueue l v).doms = s.doms := by rw [State.setQueue]
@[simp] theorem State.setQueue_cals (l : LinkId) (v : QueueSt) : (s.setQueue l v).cals = s.cals := by rw [State.setQueue]
@[simp] theorem State.setQueue_calRuns (l : LinkId) (v : QueueSt) : (s.setQueue l v).calRuns = s.calRuns := by rw [State.setQueue]
@[simp] theorem State.setQueue_calSaved (l : LinkId) (v : QueueSt) : (s.setQueue l v).calSaved = s.calSaved := by rw [State.setQueue]
@[simp] theorem State.setQueue_queued (l : LinkId) (v : QueueSt) : (s.setQueue l v).queued = s.queued := by rw [State.setQueue]
@[simp] theorem State.setQueue_running (l : LinkId) (v : QueueSt) : (s.setQueue l v).running = s.running := by rw [State.setQueue]
@[simp] theorem State.setQueue_kept (l : LinkId) (v : QueueSt) : (s.setQueue l v).kept = s.kept := by rw [State.setQueue]
@[simp] theorem State.setQueue_jobs (l : LinkId) (v : QueueSt) : (s.setQueue l v).jobs = s.jobs := by rw [State.setQueue]
@[simp] theorem State.setQueue_records (l : LinkId) (v : QueueSt) : (s.setQueue l v).records = s.records := by rw [State.setQueue]
@[simp] theorem State.setQueue_eyes (l : LinkId) (v : QueueSt) : (s.setQueue l v).eyes = s.eyes := by rw [State.setQueue]
@[simp] theorem State.setQueue_completions (l : LinkId) (v : QueueSt) : (s.setQueue l v).completions = s.completions := by rw [State.setQueue]
@[simp] theorem State.setQueue_claims (l : LinkId) (v : QueueSt) : (s.setQueue l v).claims = s.claims := by rw [State.setQueue]
@[simp] theorem State.setQueue_waiting (l : LinkId) (v : QueueSt) : (s.setQueue l v).waiting = s.waiting := by rw [State.setQueue]
@[simp] theorem State.setQueue_later (l : LinkId) (v : QueueSt) : (s.setQueue l v).later = s.later := by rw [State.setQueue]
@[simp] theorem State.setQueue_granted (l : LinkId) (v : QueueSt) : (s.setQueue l v).granted = s.granted := by rw [State.setQueue]
@[simp] theorem State.setQueue_tests (l : LinkId) (v : QueueSt) : (s.setQueue l v).tests = s.tests := by rw [State.setQueue]
@[simp] theorem State.setQueue_nvOpen (l : LinkId) (v : QueueSt) : (s.setQueue l v).nvOpen = s.nvOpen := by rw [State.setQueue]
@[simp] theorem State.setQueue_mram (l : LinkId) (v : QueueSt) : (s.setQueue l v).mram = s.mram := by rw [State.setQueue]
@[simp] theorem State.setQueue_gbQueue (l : LinkId) (v : QueueSt) : (s.setQueue l v).gbQueue = s.gbQueue := by rw [State.setQueue]
@[simp] theorem State.setQueue_gbLimits (l : LinkId) (v : QueueSt) : (s.setQueue l v).gbLimits = s.gbLimits := by rw [State.setQueue]
@[simp] theorem State.setQueue_gbWindow (l : LinkId) (v : QueueSt) : (s.setQueue l v).gbWindow = s.gbWindow := by rw [State.setQueue]
@[simp] theorem State.setQueue_shadows (l : LinkId) (v : QueueSt) : (s.setQueue l v).shadows = s.shadows := by rw [State.setQueue]
@[simp] theorem State.setQueue_highs (l : LinkId) (v : QueueSt) : (s.setQueue l v).highs = s.highs := by rw [State.setQueue]
@[simp] theorem State.setQueue_core (l : LinkId) (v : QueueSt) : (s.setQueue l v).core = s.core := by rw [State.setQueue]
@[simp] theorem State.setQueue_hub (l : LinkId) (v : QueueSt) : (s.setQueue l v).hub = s.hub := by rw [State.setQueue]
@[simp] theorem State.setQueue_raised (l : LinkId) (v : QueueSt) : (s.setQueue l v).raised = s.raised := by rw [State.setQueue]
@[simp] theorem State.setQueue_out (l : LinkId) (v : QueueSt) : (s.setQueue l v).out = s.out := by rw [State.setQueue]
@[simp] theorem State.setQueue_pending (l : LinkId) (v : QueueSt) : (s.setQueue l v).pending = s.pending := by rw [State.setQueue]

@[simp] theorem State.modQueue_now (l : LinkId) (g : QueueSt → QueueSt) : (s.modQueue l g).now = s.now := by rw [State.modQueue, State.setQueue_now]
@[simp] theorem State.modQueue_free (l : LinkId) (g : QueueSt → QueueSt) : (s.modQueue l g).free = s.free := by rw [State.modQueue, State.setQueue_free]
@[simp] theorem State.modQueue_regs (l : LinkId) (g : QueueSt → QueueSt) : (s.modQueue l g).regs = s.regs := by rw [State.modQueue, State.setQueue_regs]
@[simp] theorem State.modQueue_ports (l : LinkId) (g : QueueSt → QueueSt) : (s.modQueue l g).ports = s.ports := by rw [State.modQueue, State.setQueue_ports]
@[simp] theorem State.modQueue_pairs (l : LinkId) (g : QueueSt → QueueSt) : (s.modQueue l g).pairs = s.pairs := by rw [State.modQueue, State.setQueue_pairs]
@[simp] theorem State.modQueue_links (l : LinkId) (g : QueueSt → QueueSt) : (s.modQueue l g).links = s.links := by rw [State.modQueue, State.setQueue_links]
@[simp] theorem State.modQueue_hosts (l : LinkId) (g : QueueSt → QueueSt) : (s.modQueue l g).hosts = s.hosts := by rw [State.modQueue, State.setQueue_hosts]
@[simp] theorem State.modQueue_lanes (l : LinkId) (g : QueueSt → QueueSt) : (s.modQueue l g).lanes = s.lanes := by rw [State.modQueue, State.setQueue_lanes]
@[simp] theorem State.modQueue_laneOf (l : LinkId) (g : QueueSt → QueueSt) : (s.modQueue l g).laneOf = s.laneOf := by rw [State.modQueue, State.setQueue_laneOf]
@[simp] theorem State.modQueue_tbl (l : LinkId) (g : QueueSt → QueueSt) : (s.modQueue l g).tbl = s.tbl := by rw [State.modQueue, State.setQueue_tbl]
@[simp] theorem State.modQueue_held (l : LinkId) (g : QueueSt → QueueSt) : (s.modQueue l g).held = s.held := by rw [State.modQueue, State.setQueue_held]
@[simp] theorem State.modQueue_snr (l : LinkId) (g : QueueSt → QueueSt) : (s.modQueue l g).snr = s.snr := by rw [State.modQueue, State.setQueue_snr]
@[simp] theorem State.modQueue_erle (l : LinkId) (g : QueueSt → QueueSt) : (s.modQueue l g).erle = s.erle := by rw [State.modQueue, State.setQueue_erle]
@[simp] theorem State.modQueue_errs (l : LinkId) (g : QueueSt → QueueSt) : (s.modQueue l g).errs = s.errs := by rw [State.modQueue, State.setQueue_errs]
@[simp] theorem State.modQueue_sigma (l : LinkId) (g : QueueSt → QueueSt) : (s.modQueue l g).sigma = s.sigma := by rw [State.modQueue, State.setQueue_sigma]
@[simp] theorem State.modQueue_noise (l : LinkId) (g : QueueSt → QueueSt) : (s.modQueue l g).noise = s.noise := by rw [State.modQueue, State.setQueue_noise]
@[simp] theorem State.modQueue_coef (l : LinkId) (g : QueueSt → QueueSt) : (s.modQueue l g).coef = s.coef := by rw [State.modQueue, State.setQueue_coef]
@[simp] theorem State.modQueue_seeds (l : LinkId) (g : QueueSt → QueueSt) : (s.modQueue l g).seeds = s.seeds := by rw [State.modQueue, State.setQueue_seeds]
@[simp] theorem State.modQueue_banks (l : LinkId) (g : QueueSt → QueueSt) : (s.modQueue l g).banks = s.banks := by rw [State.modQueue, State.setQueue_banks]
@[simp] theorem State.modQueue_rows (l : LinkId) (g : QueueSt → QueueSt) : (s.modQueue l g).rows = s.rows := by rw [State.modQueue, State.setQueue_rows]
@[simp] theorem State.modQueue_tiles (l : LinkId) (g : QueueSt → QueueSt) : (s.modQueue l g).tiles = s.tiles := by rw [State.modQueue, State.setQueue_tiles]
@[simp] theorem State.modQueue_diags (l : LinkId) (g : QueueSt → QueueSt) : (s.modQueue l g).diags = s.diags := by rw [State.modQueue, State.setQueue_diags]
@[simp] theorem State.modQueue_maps (l : LinkId) (g : QueueSt → QueueSt) : (s.modQueue l g).maps = s.maps := by rw [State.modQueue, State.setQueue_maps]
@[simp] theorem State.modQueue_traces (l : LinkId) (g : QueueSt → QueueSt) : (s.modQueue l g).traces = s.traces := by rw [State.modQueue, State.setQueue_traces]
@[simp] theorem State.modQueue_doms (l : LinkId) (g : QueueSt → QueueSt) : (s.modQueue l g).doms = s.doms := by rw [State.modQueue, State.setQueue_doms]
@[simp] theorem State.modQueue_cals (l : LinkId) (g : QueueSt → QueueSt) : (s.modQueue l g).cals = s.cals := by rw [State.modQueue, State.setQueue_cals]
@[simp] theorem State.modQueue_calRuns (l : LinkId) (g : QueueSt → QueueSt) : (s.modQueue l g).calRuns = s.calRuns := by rw [State.modQueue, State.setQueue_calRuns]
@[simp] theorem State.modQueue_calSaved (l : LinkId) (g : QueueSt → QueueSt) : (s.modQueue l g).calSaved = s.calSaved := by rw [State.modQueue, State.setQueue_calSaved]
@[simp] theorem State.modQueue_queued (l : LinkId) (g : QueueSt → QueueSt) : (s.modQueue l g).queued = s.queued := by rw [State.modQueue, State.setQueue_queued]
@[simp] theorem State.modQueue_running (l : LinkId) (g : QueueSt → QueueSt) : (s.modQueue l g).running = s.running := by rw [State.modQueue, State.setQueue_running]
@[simp] theorem State.modQueue_kept (l : LinkId) (g : QueueSt → QueueSt) : (s.modQueue l g).kept = s.kept := by rw [State.modQueue, State.setQueue_kept]
@[simp] theorem State.modQueue_jobs (l : LinkId) (g : QueueSt → QueueSt) : (s.modQueue l g).jobs = s.jobs := by rw [State.modQueue, State.setQueue_jobs]
@[simp] theorem State.modQueue_records (l : LinkId) (g : QueueSt → QueueSt) : (s.modQueue l g).records = s.records := by rw [State.modQueue, State.setQueue_records]
@[simp] theorem State.modQueue_eyes (l : LinkId) (g : QueueSt → QueueSt) : (s.modQueue l g).eyes = s.eyes := by rw [State.modQueue, State.setQueue_eyes]
@[simp] theorem State.modQueue_completions (l : LinkId) (g : QueueSt → QueueSt) : (s.modQueue l g).completions = s.completions := by rw [State.modQueue, State.setQueue_completions]
@[simp] theorem State.modQueue_claims (l : LinkId) (g : QueueSt → QueueSt) : (s.modQueue l g).claims = s.claims := by rw [State.modQueue, State.setQueue_claims]
@[simp] theorem State.modQueue_waiting (l : LinkId) (g : QueueSt → QueueSt) : (s.modQueue l g).waiting = s.waiting := by rw [State.modQueue, State.setQueue_waiting]
@[simp] theorem State.modQueue_later (l : LinkId) (g : QueueSt → QueueSt) : (s.modQueue l g).later = s.later := by rw [State.modQueue, State.setQueue_later]
@[simp] theorem State.modQueue_granted (l : LinkId) (g : QueueSt → QueueSt) : (s.modQueue l g).granted = s.granted := by rw [State.modQueue, State.setQueue_granted]
@[simp] theorem State.modQueue_tests (l : LinkId) (g : QueueSt → QueueSt) : (s.modQueue l g).tests = s.tests := by rw [State.modQueue, State.setQueue_tests]
@[simp] theorem State.modQueue_nvOpen (l : LinkId) (g : QueueSt → QueueSt) : (s.modQueue l g).nvOpen = s.nvOpen := by rw [State.modQueue, State.setQueue_nvOpen]
@[simp] theorem State.modQueue_mram (l : LinkId) (g : QueueSt → QueueSt) : (s.modQueue l g).mram = s.mram := by rw [State.modQueue, State.setQueue_mram]
@[simp] theorem State.modQueue_gbQueue (l : LinkId) (g : QueueSt → QueueSt) : (s.modQueue l g).gbQueue = s.gbQueue := by rw [State.modQueue, State.setQueue_gbQueue]
@[simp] theorem State.modQueue_gbLimits (l : LinkId) (g : QueueSt → QueueSt) : (s.modQueue l g).gbLimits = s.gbLimits := by rw [State.modQueue, State.setQueue_gbLimits]
@[simp] theorem State.modQueue_gbWindow (l : LinkId) (g : QueueSt → QueueSt) : (s.modQueue l g).gbWindow = s.gbWindow := by rw [State.modQueue, State.setQueue_gbWindow]
@[simp] theorem State.modQueue_shadows (l : LinkId) (g : QueueSt → QueueSt) : (s.modQueue l g).shadows = s.shadows := by rw [State.modQueue, State.setQueue_shadows]
@[simp] theorem State.modQueue_highs (l : LinkId) (g : QueueSt → QueueSt) : (s.modQueue l g).highs = s.highs := by rw [State.modQueue, State.setQueue_highs]
@[simp] theorem State.modQueue_core (l : LinkId) (g : QueueSt → QueueSt) : (s.modQueue l g).core = s.core := by rw [State.modQueue, State.setQueue_core]
@[simp] theorem State.modQueue_hub (l : LinkId) (g : QueueSt → QueueSt) : (s.modQueue l g).hub = s.hub := by rw [State.modQueue, State.setQueue_hub]
@[simp] theorem State.modQueue_raised (l : LinkId) (g : QueueSt → QueueSt) : (s.modQueue l g).raised = s.raised := by rw [State.modQueue, State.setQueue_raised]
@[simp] theorem State.modQueue_out (l : LinkId) (g : QueueSt → QueueSt) : (s.modQueue l g).out = s.out := by rw [State.modQueue, State.setQueue_out]
@[simp] theorem State.modQueue_pending (l : LinkId) (g : QueueSt → QueueSt) : (s.modQueue l g).pending = s.pending := by rw [State.modQueue, State.setQueue_pending]

@[simp] theorem State.setHost_now (n : Nat) (v : HostPort) : (s.setHost n v).now = s.now := by rw [State.setHost]
@[simp] theorem State.setHost_free (n : Nat) (v : HostPort) : (s.setHost n v).free = s.free := by rw [State.setHost]
@[simp] theorem State.setHost_regs (n : Nat) (v : HostPort) : (s.setHost n v).regs = s.regs := by rw [State.setHost]
@[simp] theorem State.setHost_ports (n : Nat) (v : HostPort) : (s.setHost n v).ports = s.ports := by rw [State.setHost]
@[simp] theorem State.setHost_pairs (n : Nat) (v : HostPort) : (s.setHost n v).pairs = s.pairs := by rw [State.setHost]
@[simp] theorem State.setHost_links (n : Nat) (v : HostPort) : (s.setHost n v).links = s.links := by rw [State.setHost]
@[simp] theorem State.setHost_queues (n : Nat) (v : HostPort) : (s.setHost n v).queues = s.queues := by rw [State.setHost]
@[simp] theorem State.setHost_lanes (n : Nat) (v : HostPort) : (s.setHost n v).lanes = s.lanes := by rw [State.setHost]
@[simp] theorem State.setHost_laneOf (n : Nat) (v : HostPort) : (s.setHost n v).laneOf = s.laneOf := by rw [State.setHost]
@[simp] theorem State.setHost_tbl (n : Nat) (v : HostPort) : (s.setHost n v).tbl = s.tbl := by rw [State.setHost]
@[simp] theorem State.setHost_held (n : Nat) (v : HostPort) : (s.setHost n v).held = s.held := by rw [State.setHost]
@[simp] theorem State.setHost_snr (n : Nat) (v : HostPort) : (s.setHost n v).snr = s.snr := by rw [State.setHost]
@[simp] theorem State.setHost_erle (n : Nat) (v : HostPort) : (s.setHost n v).erle = s.erle := by rw [State.setHost]
@[simp] theorem State.setHost_errs (n : Nat) (v : HostPort) : (s.setHost n v).errs = s.errs := by rw [State.setHost]
@[simp] theorem State.setHost_sigma (n : Nat) (v : HostPort) : (s.setHost n v).sigma = s.sigma := by rw [State.setHost]
@[simp] theorem State.setHost_noise (n : Nat) (v : HostPort) : (s.setHost n v).noise = s.noise := by rw [State.setHost]
@[simp] theorem State.setHost_coef (n : Nat) (v : HostPort) : (s.setHost n v).coef = s.coef := by rw [State.setHost]
@[simp] theorem State.setHost_seeds (n : Nat) (v : HostPort) : (s.setHost n v).seeds = s.seeds := by rw [State.setHost]
@[simp] theorem State.setHost_banks (n : Nat) (v : HostPort) : (s.setHost n v).banks = s.banks := by rw [State.setHost]
@[simp] theorem State.setHost_rows (n : Nat) (v : HostPort) : (s.setHost n v).rows = s.rows := by rw [State.setHost]
@[simp] theorem State.setHost_tiles (n : Nat) (v : HostPort) : (s.setHost n v).tiles = s.tiles := by rw [State.setHost]
@[simp] theorem State.setHost_diags (n : Nat) (v : HostPort) : (s.setHost n v).diags = s.diags := by rw [State.setHost]
@[simp] theorem State.setHost_maps (n : Nat) (v : HostPort) : (s.setHost n v).maps = s.maps := by rw [State.setHost]
@[simp] theorem State.setHost_traces (n : Nat) (v : HostPort) : (s.setHost n v).traces = s.traces := by rw [State.setHost]
@[simp] theorem State.setHost_doms (n : Nat) (v : HostPort) : (s.setHost n v).doms = s.doms := by rw [State.setHost]
@[simp] theorem State.setHost_cals (n : Nat) (v : HostPort) : (s.setHost n v).cals = s.cals := by rw [State.setHost]
@[simp] theorem State.setHost_calRuns (n : Nat) (v : HostPort) : (s.setHost n v).calRuns = s.calRuns := by rw [State.setHost]
@[simp] theorem State.setHost_calSaved (n : Nat) (v : HostPort) : (s.setHost n v).calSaved = s.calSaved := by rw [State.setHost]
@[simp] theorem State.setHost_queued (n : Nat) (v : HostPort) : (s.setHost n v).queued = s.queued := by rw [State.setHost]
@[simp] theorem State.setHost_running (n : Nat) (v : HostPort) : (s.setHost n v).running = s.running := by rw [State.setHost]
@[simp] theorem State.setHost_kept (n : Nat) (v : HostPort) : (s.setHost n v).kept = s.kept := by rw [State.setHost]
@[simp] theorem State.setHost_jobs (n : Nat) (v : HostPort) : (s.setHost n v).jobs = s.jobs := by rw [State.setHost]
@[simp] theorem State.setHost_records (n : Nat) (v : HostPort) : (s.setHost n v).records = s.records := by rw [State.setHost]
@[simp] theorem State.setHost_eyes (n : Nat) (v : HostPort) : (s.setHost n v).eyes = s.eyes := by rw [State.setHost]
@[simp] theorem State.setHost_completions (n : Nat) (v : HostPort) : (s.setHost n v).completions = s.completions := by rw [State.setHost]
@[simp] theorem State.setHost_claims (n : Nat) (v : HostPort) : (s.setHost n v).claims = s.claims := by rw [State.setHost]
@[simp] theorem State.setHost_waiting (n : Nat) (v : HostPort) : (s.setHost n v).waiting = s.waiting := by rw [State.setHost]
@[simp] theorem State.setHost_later (n : Nat) (v : HostPort) : (s.setHost n v).later = s.later := by rw [State.setHost]
@[simp] theorem State.setHost_granted (n : Nat) (v : HostPort) : (s.setHost n v).granted = s.granted := by rw [State.setHost]
@[simp] theorem State.setHost_tests (n : Nat) (v : HostPort) : (s.setHost n v).tests = s.tests := by rw [State.setHost]
@[simp] theorem State.setHost_nvOpen (n : Nat) (v : HostPort) : (s.setHost n v).nvOpen = s.nvOpen := by rw [State.setHost]
@[simp] theorem State.setHost_mram (n : Nat) (v : HostPort) : (s.setHost n v).mram = s.mram := by rw [State.setHost]
@[simp] theorem State.setHost_gbQueue (n : Nat) (v : HostPort) : (s.setHost n v).gbQueue = s.gbQueue := by rw [State.setHost]
@[simp] theorem State.setHost_gbLimits (n : Nat) (v : HostPort) : (s.setHost n v).gbLimits = s.gbLimits := by rw [State.setHost]
@[simp] theorem State.setHost_gbWindow (n : Nat) (v : HostPort) : (s.setHost n v).gbWindow = s.gbWindow := by rw [State.setHost]
@[simp] theorem State.setHost_shadows (n : Nat) (v : HostPort) : (s.setHost n v).shadows = s.shadows := by rw [State.setHost]
@[simp] theorem State.setHost_highs (n : Nat) (v : HostPort) : (s.setHost n v).highs = s.highs := by rw [State.setHost]
@[simp] theorem State.setHost_core (n : Nat) (v : HostPort) : (s.setHost n v).core = s.core := by rw [State.setHost]
@[simp] theorem State.setHost_hub (n : Nat) (v : HostPort) : (s.setHost n v).hub = s.hub := by rw [State.setHost]
@[simp] theorem State.setHost_raised (n : Nat) (v : HostPort) : (s.setHost n v).raised = s.raised := by rw [State.setHost]
@[simp] theorem State.setHost_out (n : Nat) (v : HostPort) : (s.setHost n v).out = s.out := by rw [State.setHost]
@[simp] theorem State.setHost_pending (n : Nat) (v : HostPort) : (s.setHost n v).pending = s.pending := by rw [State.setHost]

@[simp] theorem State.modHost_now (n : Nat) (g : HostPort → HostPort) : (s.modHost n g).now = s.now := by rw [State.modHost, State.setHost_now]
@[simp] theorem State.modHost_free (n : Nat) (g : HostPort → HostPort) : (s.modHost n g).free = s.free := by rw [State.modHost, State.setHost_free]
@[simp] theorem State.modHost_regs (n : Nat) (g : HostPort → HostPort) : (s.modHost n g).regs = s.regs := by rw [State.modHost, State.setHost_regs]
@[simp] theorem State.modHost_ports (n : Nat) (g : HostPort → HostPort) : (s.modHost n g).ports = s.ports := by rw [State.modHost, State.setHost_ports]
@[simp] theorem State.modHost_pairs (n : Nat) (g : HostPort → HostPort) : (s.modHost n g).pairs = s.pairs := by rw [State.modHost, State.setHost_pairs]
@[simp] theorem State.modHost_links (n : Nat) (g : HostPort → HostPort) : (s.modHost n g).links = s.links := by rw [State.modHost, State.setHost_links]
@[simp] theorem State.modHost_queues (n : Nat) (g : HostPort → HostPort) : (s.modHost n g).queues = s.queues := by rw [State.modHost, State.setHost_queues]
@[simp] theorem State.modHost_lanes (n : Nat) (g : HostPort → HostPort) : (s.modHost n g).lanes = s.lanes := by rw [State.modHost, State.setHost_lanes]
@[simp] theorem State.modHost_laneOf (n : Nat) (g : HostPort → HostPort) : (s.modHost n g).laneOf = s.laneOf := by rw [State.modHost, State.setHost_laneOf]
@[simp] theorem State.modHost_tbl (n : Nat) (g : HostPort → HostPort) : (s.modHost n g).tbl = s.tbl := by rw [State.modHost, State.setHost_tbl]
@[simp] theorem State.modHost_held (n : Nat) (g : HostPort → HostPort) : (s.modHost n g).held = s.held := by rw [State.modHost, State.setHost_held]
@[simp] theorem State.modHost_snr (n : Nat) (g : HostPort → HostPort) : (s.modHost n g).snr = s.snr := by rw [State.modHost, State.setHost_snr]
@[simp] theorem State.modHost_erle (n : Nat) (g : HostPort → HostPort) : (s.modHost n g).erle = s.erle := by rw [State.modHost, State.setHost_erle]
@[simp] theorem State.modHost_errs (n : Nat) (g : HostPort → HostPort) : (s.modHost n g).errs = s.errs := by rw [State.modHost, State.setHost_errs]
@[simp] theorem State.modHost_sigma (n : Nat) (g : HostPort → HostPort) : (s.modHost n g).sigma = s.sigma := by rw [State.modHost, State.setHost_sigma]
@[simp] theorem State.modHost_noise (n : Nat) (g : HostPort → HostPort) : (s.modHost n g).noise = s.noise := by rw [State.modHost, State.setHost_noise]
@[simp] theorem State.modHost_coef (n : Nat) (g : HostPort → HostPort) : (s.modHost n g).coef = s.coef := by rw [State.modHost, State.setHost_coef]
@[simp] theorem State.modHost_seeds (n : Nat) (g : HostPort → HostPort) : (s.modHost n g).seeds = s.seeds := by rw [State.modHost, State.setHost_seeds]
@[simp] theorem State.modHost_banks (n : Nat) (g : HostPort → HostPort) : (s.modHost n g).banks = s.banks := by rw [State.modHost, State.setHost_banks]
@[simp] theorem State.modHost_rows (n : Nat) (g : HostPort → HostPort) : (s.modHost n g).rows = s.rows := by rw [State.modHost, State.setHost_rows]
@[simp] theorem State.modHost_tiles (n : Nat) (g : HostPort → HostPort) : (s.modHost n g).tiles = s.tiles := by rw [State.modHost, State.setHost_tiles]
@[simp] theorem State.modHost_diags (n : Nat) (g : HostPort → HostPort) : (s.modHost n g).diags = s.diags := by rw [State.modHost, State.setHost_diags]
@[simp] theorem State.modHost_maps (n : Nat) (g : HostPort → HostPort) : (s.modHost n g).maps = s.maps := by rw [State.modHost, State.setHost_maps]
@[simp] theorem State.modHost_traces (n : Nat) (g : HostPort → HostPort) : (s.modHost n g).traces = s.traces := by rw [State.modHost, State.setHost_traces]
@[simp] theorem State.modHost_doms (n : Nat) (g : HostPort → HostPort) : (s.modHost n g).doms = s.doms := by rw [State.modHost, State.setHost_doms]
@[simp] theorem State.modHost_cals (n : Nat) (g : HostPort → HostPort) : (s.modHost n g).cals = s.cals := by rw [State.modHost, State.setHost_cals]
@[simp] theorem State.modHost_calRuns (n : Nat) (g : HostPort → HostPort) : (s.modHost n g).calRuns = s.calRuns := by rw [State.modHost, State.setHost_calRuns]
@[simp] theorem State.modHost_calSaved (n : Nat) (g : HostPort → HostPort) : (s.modHost n g).calSaved = s.calSaved := by rw [State.modHost, State.setHost_calSaved]
@[simp] theorem State.modHost_queued (n : Nat) (g : HostPort → HostPort) : (s.modHost n g).queued = s.queued := by rw [State.modHost, State.setHost_queued]
@[simp] theorem State.modHost_running (n : Nat) (g : HostPort → HostPort) : (s.modHost n g).running = s.running := by rw [State.modHost, State.setHost_running]
@[simp] theorem State.modHost_kept (n : Nat) (g : HostPort → HostPort) : (s.modHost n g).kept = s.kept := by rw [State.modHost, State.setHost_kept]
@[simp] theorem State.modHost_jobs (n : Nat) (g : HostPort → HostPort) : (s.modHost n g).jobs = s.jobs := by rw [State.modHost, State.setHost_jobs]
@[simp] theorem State.modHost_records (n : Nat) (g : HostPort → HostPort) : (s.modHost n g).records = s.records := by rw [State.modHost, State.setHost_records]
@[simp] theorem State.modHost_eyes (n : Nat) (g : HostPort → HostPort) : (s.modHost n g).eyes = s.eyes := by rw [State.modHost, State.setHost_eyes]
@[simp] theorem State.modHost_completions (n : Nat) (g : HostPort → HostPort) : (s.modHost n g).completions = s.completions := by rw [State.modHost, State.setHost_completions]
@[simp] theorem State.modHost_claims (n : Nat) (g : HostPort → HostPort) : (s.modHost n g).claims = s.claims := by rw [State.modHost, State.setHost_claims]
@[simp] theorem State.modHost_waiting (n : Nat) (g : HostPort → HostPort) : (s.modHost n g).waiting = s.waiting := by rw [State.modHost, State.setHost_waiting]
@[simp] theorem State.modHost_later (n : Nat) (g : HostPort → HostPort) : (s.modHost n g).later = s.later := by rw [State.modHost, State.setHost_later]
@[simp] theorem State.modHost_granted (n : Nat) (g : HostPort → HostPort) : (s.modHost n g).granted = s.granted := by rw [State.modHost, State.setHost_granted]
@[simp] theorem State.modHost_tests (n : Nat) (g : HostPort → HostPort) : (s.modHost n g).tests = s.tests := by rw [State.modHost, State.setHost_tests]
@[simp] theorem State.modHost_nvOpen (n : Nat) (g : HostPort → HostPort) : (s.modHost n g).nvOpen = s.nvOpen := by rw [State.modHost, State.setHost_nvOpen]
@[simp] theorem State.modHost_mram (n : Nat) (g : HostPort → HostPort) : (s.modHost n g).mram = s.mram := by rw [State.modHost, State.setHost_mram]
@[simp] theorem State.modHost_gbQueue (n : Nat) (g : HostPort → HostPort) : (s.modHost n g).gbQueue = s.gbQueue := by rw [State.modHost, State.setHost_gbQueue]
@[simp] theorem State.modHost_gbLimits (n : Nat) (g : HostPort → HostPort) : (s.modHost n g).gbLimits = s.gbLimits := by rw [State.modHost, State.setHost_gbLimits]
@[simp] theorem State.modHost_gbWindow (n : Nat) (g : HostPort → HostPort) : (s.modHost n g).gbWindow = s.gbWindow := by rw [State.modHost, State.setHost_gbWindow]
@[simp] theorem State.modHost_shadows (n : Nat) (g : HostPort → HostPort) : (s.modHost n g).shadows = s.shadows := by rw [State.modHost, State.setHost_shadows]
@[simp] theorem State.modHost_highs (n : Nat) (g : HostPort → HostPort) : (s.modHost n g).highs = s.highs := by rw [State.modHost, State.setHost_highs]
@[simp] theorem State.modHost_core (n : Nat) (g : HostPort → HostPort) : (s.modHost n g).core = s.core := by rw [State.modHost, State.setHost_core]
@[simp] theorem State.modHost_hub (n : Nat) (g : HostPort → HostPort) : (s.modHost n g).hub = s.hub := by rw [State.modHost, State.setHost_hub]
@[simp] theorem State.modHost_raised (n : Nat) (g : HostPort → HostPort) : (s.modHost n g).raised = s.raised := by rw [State.modHost, State.setHost_raised]
@[simp] theorem State.modHost_out (n : Nat) (g : HostPort → HostPort) : (s.modHost n g).out = s.out := by rw [State.modHost, State.setHost_out]
@[simp] theorem State.modHost_pending (n : Nat) (g : HostPort → HostPort) : (s.modHost n g).pending = s.pending := by rw [State.modHost, State.setHost_pending]

@[simp] theorem State.setLane_now (h : Nat) (v : LaneSt) : (s.setLane h v).now = s.now := by rw [State.setLane]
@[simp] theorem State.setLane_free (h : Nat) (v : LaneSt) : (s.setLane h v).free = s.free := by rw [State.setLane]
@[simp] theorem State.setLane_regs (h : Nat) (v : LaneSt) : (s.setLane h v).regs = s.regs := by rw [State.setLane]
@[simp] theorem State.setLane_ports (h : Nat) (v : LaneSt) : (s.setLane h v).ports = s.ports := by rw [State.setLane]
@[simp] theorem State.setLane_pairs (h : Nat) (v : LaneSt) : (s.setLane h v).pairs = s.pairs := by rw [State.setLane]
@[simp] theorem State.setLane_links (h : Nat) (v : LaneSt) : (s.setLane h v).links = s.links := by rw [State.setLane]
@[simp] theorem State.setLane_queues (h : Nat) (v : LaneSt) : (s.setLane h v).queues = s.queues := by rw [State.setLane]
@[simp] theorem State.setLane_hosts (h : Nat) (v : LaneSt) : (s.setLane h v).hosts = s.hosts := by rw [State.setLane]
@[simp] theorem State.setLane_laneOf (h : Nat) (v : LaneSt) : (s.setLane h v).laneOf = s.laneOf := by rw [State.setLane]
@[simp] theorem State.setLane_tbl (h : Nat) (v : LaneSt) : (s.setLane h v).tbl = s.tbl := by rw [State.setLane]
@[simp] theorem State.setLane_held (h : Nat) (v : LaneSt) : (s.setLane h v).held = s.held := by rw [State.setLane]
@[simp] theorem State.setLane_snr (h : Nat) (v : LaneSt) : (s.setLane h v).snr = s.snr := by rw [State.setLane]
@[simp] theorem State.setLane_erle (h : Nat) (v : LaneSt) : (s.setLane h v).erle = s.erle := by rw [State.setLane]
@[simp] theorem State.setLane_errs (h : Nat) (v : LaneSt) : (s.setLane h v).errs = s.errs := by rw [State.setLane]
@[simp] theorem State.setLane_sigma (h : Nat) (v : LaneSt) : (s.setLane h v).sigma = s.sigma := by rw [State.setLane]
@[simp] theorem State.setLane_noise (h : Nat) (v : LaneSt) : (s.setLane h v).noise = s.noise := by rw [State.setLane]
@[simp] theorem State.setLane_coef (h : Nat) (v : LaneSt) : (s.setLane h v).coef = s.coef := by rw [State.setLane]
@[simp] theorem State.setLane_seeds (h : Nat) (v : LaneSt) : (s.setLane h v).seeds = s.seeds := by rw [State.setLane]
@[simp] theorem State.setLane_banks (h : Nat) (v : LaneSt) : (s.setLane h v).banks = s.banks := by rw [State.setLane]
@[simp] theorem State.setLane_rows (h : Nat) (v : LaneSt) : (s.setLane h v).rows = s.rows := by rw [State.setLane]
@[simp] theorem State.setLane_tiles (h : Nat) (v : LaneSt) : (s.setLane h v).tiles = s.tiles := by rw [State.setLane]
@[simp] theorem State.setLane_diags (h : Nat) (v : LaneSt) : (s.setLane h v).diags = s.diags := by rw [State.setLane]
@[simp] theorem State.setLane_maps (h : Nat) (v : LaneSt) : (s.setLane h v).maps = s.maps := by rw [State.setLane]
@[simp] theorem State.setLane_traces (h : Nat) (v : LaneSt) : (s.setLane h v).traces = s.traces := by rw [State.setLane]
@[simp] theorem State.setLane_doms (h : Nat) (v : LaneSt) : (s.setLane h v).doms = s.doms := by rw [State.setLane]
@[simp] theorem State.setLane_cals (h : Nat) (v : LaneSt) : (s.setLane h v).cals = s.cals := by rw [State.setLane]
@[simp] theorem State.setLane_calRuns (h : Nat) (v : LaneSt) : (s.setLane h v).calRuns = s.calRuns := by rw [State.setLane]
@[simp] theorem State.setLane_calSaved (h : Nat) (v : LaneSt) : (s.setLane h v).calSaved = s.calSaved := by rw [State.setLane]
@[simp] theorem State.setLane_queued (h : Nat) (v : LaneSt) : (s.setLane h v).queued = s.queued := by rw [State.setLane]
@[simp] theorem State.setLane_running (h : Nat) (v : LaneSt) : (s.setLane h v).running = s.running := by rw [State.setLane]
@[simp] theorem State.setLane_kept (h : Nat) (v : LaneSt) : (s.setLane h v).kept = s.kept := by rw [State.setLane]
@[simp] theorem State.setLane_jobs (h : Nat) (v : LaneSt) : (s.setLane h v).jobs = s.jobs := by rw [State.setLane]
@[simp] theorem State.setLane_records (h : Nat) (v : LaneSt) : (s.setLane h v).records = s.records := by rw [State.setLane]
@[simp] theorem State.setLane_eyes (h : Nat) (v : LaneSt) : (s.setLane h v).eyes = s.eyes := by rw [State.setLane]
@[simp] theorem State.setLane_completions (h : Nat) (v : LaneSt) : (s.setLane h v).completions = s.completions := by rw [State.setLane]
@[simp] theorem State.setLane_claims (h : Nat) (v : LaneSt) : (s.setLane h v).claims = s.claims := by rw [State.setLane]
@[simp] theorem State.setLane_waiting (h : Nat) (v : LaneSt) : (s.setLane h v).waiting = s.waiting := by rw [State.setLane]
@[simp] theorem State.setLane_later (h : Nat) (v : LaneSt) : (s.setLane h v).later = s.later := by rw [State.setLane]
@[simp] theorem State.setLane_granted (h : Nat) (v : LaneSt) : (s.setLane h v).granted = s.granted := by rw [State.setLane]
@[simp] theorem State.setLane_tests (h : Nat) (v : LaneSt) : (s.setLane h v).tests = s.tests := by rw [State.setLane]
@[simp] theorem State.setLane_nvOpen (h : Nat) (v : LaneSt) : (s.setLane h v).nvOpen = s.nvOpen := by rw [State.setLane]
@[simp] theorem State.setLane_mram (h : Nat) (v : LaneSt) : (s.setLane h v).mram = s.mram := by rw [State.setLane]
@[simp] theorem State.setLane_gbQueue (h : Nat) (v : LaneSt) : (s.setLane h v).gbQueue = s.gbQueue := by rw [State.setLane]
@[simp] theorem State.setLane_gbLimits (h : Nat) (v : LaneSt) : (s.setLane h v).gbLimits = s.gbLimits := by rw [State.setLane]
@[simp] theorem State.setLane_gbWindow (h : Nat) (v : LaneSt) : (s.setLane h v).gbWindow = s.gbWindow := by rw [State.setLane]
@[simp] theorem State.setLane_shadows (h : Nat) (v : LaneSt) : (s.setLane h v).shadows = s.shadows := by rw [State.setLane]
@[simp] theorem State.setLane_highs (h : Nat) (v : LaneSt) : (s.setLane h v).highs = s.highs := by rw [State.setLane]
@[simp] theorem State.setLane_core (h : Nat) (v : LaneSt) : (s.setLane h v).core = s.core := by rw [State.setLane]
@[simp] theorem State.setLane_hub (h : Nat) (v : LaneSt) : (s.setLane h v).hub = s.hub := by rw [State.setLane]
@[simp] theorem State.setLane_raised (h : Nat) (v : LaneSt) : (s.setLane h v).raised = s.raised := by rw [State.setLane]
@[simp] theorem State.setLane_out (h : Nat) (v : LaneSt) : (s.setLane h v).out = s.out := by rw [State.setLane]
@[simp] theorem State.setLane_pending (h : Nat) (v : LaneSt) : (s.setLane h v).pending = s.pending := by rw [State.setLane]

@[simp] theorem State.modLane_now (h : Nat) (g : LaneSt → LaneSt) : (s.modLane h g).now = s.now := by rw [State.modLane, State.setLane_now]
@[simp] theorem State.modLane_free (h : Nat) (g : LaneSt → LaneSt) : (s.modLane h g).free = s.free := by rw [State.modLane, State.setLane_free]
@[simp] theorem State.modLane_regs (h : Nat) (g : LaneSt → LaneSt) : (s.modLane h g).regs = s.regs := by rw [State.modLane, State.setLane_regs]
@[simp] theorem State.modLane_ports (h : Nat) (g : LaneSt → LaneSt) : (s.modLane h g).ports = s.ports := by rw [State.modLane, State.setLane_ports]
@[simp] theorem State.modLane_pairs (h : Nat) (g : LaneSt → LaneSt) : (s.modLane h g).pairs = s.pairs := by rw [State.modLane, State.setLane_pairs]
@[simp] theorem State.modLane_links (h : Nat) (g : LaneSt → LaneSt) : (s.modLane h g).links = s.links := by rw [State.modLane, State.setLane_links]
@[simp] theorem State.modLane_queues (h : Nat) (g : LaneSt → LaneSt) : (s.modLane h g).queues = s.queues := by rw [State.modLane, State.setLane_queues]
@[simp] theorem State.modLane_hosts (h : Nat) (g : LaneSt → LaneSt) : (s.modLane h g).hosts = s.hosts := by rw [State.modLane, State.setLane_hosts]
@[simp] theorem State.modLane_laneOf (h : Nat) (g : LaneSt → LaneSt) : (s.modLane h g).laneOf = s.laneOf := by rw [State.modLane, State.setLane_laneOf]
@[simp] theorem State.modLane_tbl (h : Nat) (g : LaneSt → LaneSt) : (s.modLane h g).tbl = s.tbl := by rw [State.modLane, State.setLane_tbl]
@[simp] theorem State.modLane_held (h : Nat) (g : LaneSt → LaneSt) : (s.modLane h g).held = s.held := by rw [State.modLane, State.setLane_held]
@[simp] theorem State.modLane_snr (h : Nat) (g : LaneSt → LaneSt) : (s.modLane h g).snr = s.snr := by rw [State.modLane, State.setLane_snr]
@[simp] theorem State.modLane_erle (h : Nat) (g : LaneSt → LaneSt) : (s.modLane h g).erle = s.erle := by rw [State.modLane, State.setLane_erle]
@[simp] theorem State.modLane_errs (h : Nat) (g : LaneSt → LaneSt) : (s.modLane h g).errs = s.errs := by rw [State.modLane, State.setLane_errs]
@[simp] theorem State.modLane_sigma (h : Nat) (g : LaneSt → LaneSt) : (s.modLane h g).sigma = s.sigma := by rw [State.modLane, State.setLane_sigma]
@[simp] theorem State.modLane_noise (h : Nat) (g : LaneSt → LaneSt) : (s.modLane h g).noise = s.noise := by rw [State.modLane, State.setLane_noise]
@[simp] theorem State.modLane_coef (h : Nat) (g : LaneSt → LaneSt) : (s.modLane h g).coef = s.coef := by rw [State.modLane, State.setLane_coef]
@[simp] theorem State.modLane_seeds (h : Nat) (g : LaneSt → LaneSt) : (s.modLane h g).seeds = s.seeds := by rw [State.modLane, State.setLane_seeds]
@[simp] theorem State.modLane_banks (h : Nat) (g : LaneSt → LaneSt) : (s.modLane h g).banks = s.banks := by rw [State.modLane, State.setLane_banks]
@[simp] theorem State.modLane_rows (h : Nat) (g : LaneSt → LaneSt) : (s.modLane h g).rows = s.rows := by rw [State.modLane, State.setLane_rows]
@[simp] theorem State.modLane_tiles (h : Nat) (g : LaneSt → LaneSt) : (s.modLane h g).tiles = s.tiles := by rw [State.modLane, State.setLane_tiles]
@[simp] theorem State.modLane_diags (h : Nat) (g : LaneSt → LaneSt) : (s.modLane h g).diags = s.diags := by rw [State.modLane, State.setLane_diags]
@[simp] theorem State.modLane_maps (h : Nat) (g : LaneSt → LaneSt) : (s.modLane h g).maps = s.maps := by rw [State.modLane, State.setLane_maps]
@[simp] theorem State.modLane_traces (h : Nat) (g : LaneSt → LaneSt) : (s.modLane h g).traces = s.traces := by rw [State.modLane, State.setLane_traces]
@[simp] theorem State.modLane_doms (h : Nat) (g : LaneSt → LaneSt) : (s.modLane h g).doms = s.doms := by rw [State.modLane, State.setLane_doms]
@[simp] theorem State.modLane_cals (h : Nat) (g : LaneSt → LaneSt) : (s.modLane h g).cals = s.cals := by rw [State.modLane, State.setLane_cals]
@[simp] theorem State.modLane_calRuns (h : Nat) (g : LaneSt → LaneSt) : (s.modLane h g).calRuns = s.calRuns := by rw [State.modLane, State.setLane_calRuns]
@[simp] theorem State.modLane_calSaved (h : Nat) (g : LaneSt → LaneSt) : (s.modLane h g).calSaved = s.calSaved := by rw [State.modLane, State.setLane_calSaved]
@[simp] theorem State.modLane_queued (h : Nat) (g : LaneSt → LaneSt) : (s.modLane h g).queued = s.queued := by rw [State.modLane, State.setLane_queued]
@[simp] theorem State.modLane_running (h : Nat) (g : LaneSt → LaneSt) : (s.modLane h g).running = s.running := by rw [State.modLane, State.setLane_running]
@[simp] theorem State.modLane_kept (h : Nat) (g : LaneSt → LaneSt) : (s.modLane h g).kept = s.kept := by rw [State.modLane, State.setLane_kept]
@[simp] theorem State.modLane_jobs (h : Nat) (g : LaneSt → LaneSt) : (s.modLane h g).jobs = s.jobs := by rw [State.modLane, State.setLane_jobs]
@[simp] theorem State.modLane_records (h : Nat) (g : LaneSt → LaneSt) : (s.modLane h g).records = s.records := by rw [State.modLane, State.setLane_records]
@[simp] theorem State.modLane_eyes (h : Nat) (g : LaneSt → LaneSt) : (s.modLane h g).eyes = s.eyes := by rw [State.modLane, State.setLane_eyes]
@[simp] theorem State.modLane_completions (h : Nat) (g : LaneSt → LaneSt) : (s.modLane h g).completions = s.completions := by rw [State.modLane, State.setLane_completions]
@[simp] theorem State.modLane_claims (h : Nat) (g : LaneSt → LaneSt) : (s.modLane h g).claims = s.claims := by rw [State.modLane, State.setLane_claims]
@[simp] theorem State.modLane_waiting (h : Nat) (g : LaneSt → LaneSt) : (s.modLane h g).waiting = s.waiting := by rw [State.modLane, State.setLane_waiting]
@[simp] theorem State.modLane_later (h : Nat) (g : LaneSt → LaneSt) : (s.modLane h g).later = s.later := by rw [State.modLane, State.setLane_later]
@[simp] theorem State.modLane_granted (h : Nat) (g : LaneSt → LaneSt) : (s.modLane h g).granted = s.granted := by rw [State.modLane, State.setLane_granted]
@[simp] theorem State.modLane_tests (h : Nat) (g : LaneSt → LaneSt) : (s.modLane h g).tests = s.tests := by rw [State.modLane, State.setLane_tests]
@[simp] theorem State.modLane_nvOpen (h : Nat) (g : LaneSt → LaneSt) : (s.modLane h g).nvOpen = s.nvOpen := by rw [State.modLane, State.setLane_nvOpen]
@[simp] theorem State.modLane_mram (h : Nat) (g : LaneSt → LaneSt) : (s.modLane h g).mram = s.mram := by rw [State.modLane, State.setLane_mram]
@[simp] theorem State.modLane_gbQueue (h : Nat) (g : LaneSt → LaneSt) : (s.modLane h g).gbQueue = s.gbQueue := by rw [State.modLane, State.setLane_gbQueue]
@[simp] theorem State.modLane_gbLimits (h : Nat) (g : LaneSt → LaneSt) : (s.modLane h g).gbLimits = s.gbLimits := by rw [State.modLane, State.setLane_gbLimits]
@[simp] theorem State.modLane_gbWindow (h : Nat) (g : LaneSt → LaneSt) : (s.modLane h g).gbWindow = s.gbWindow := by rw [State.modLane, State.setLane_gbWindow]
@[simp] theorem State.modLane_shadows (h : Nat) (g : LaneSt → LaneSt) : (s.modLane h g).shadows = s.shadows := by rw [State.modLane, State.setLane_shadows]
@[simp] theorem State.modLane_highs (h : Nat) (g : LaneSt → LaneSt) : (s.modLane h g).highs = s.highs := by rw [State.modLane, State.setLane_highs]
@[simp] theorem State.modLane_core (h : Nat) (g : LaneSt → LaneSt) : (s.modLane h g).core = s.core := by rw [State.modLane, State.setLane_core]
@[simp] theorem State.modLane_hub (h : Nat) (g : LaneSt → LaneSt) : (s.modLane h g).hub = s.hub := by rw [State.modLane, State.setLane_hub]
@[simp] theorem State.modLane_raised (h : Nat) (g : LaneSt → LaneSt) : (s.modLane h g).raised = s.raised := by rw [State.modLane, State.setLane_raised]
@[simp] theorem State.modLane_out (h : Nat) (g : LaneSt → LaneSt) : (s.modLane h g).out = s.out := by rw [State.modLane, State.setLane_out]
@[simp] theorem State.modLane_pending (h : Nat) (g : LaneSt → LaneSt) : (s.modLane h g).pending = s.pending := by rw [State.modLane, State.setLane_pending]

@[simp] theorem State.setPortLane_now (n h : Nat) : (s.setPortLane n h).now = s.now := by rw [State.setPortLane]
@[simp] theorem State.setPortLane_free (n h : Nat) : (s.setPortLane n h).free = s.free := by rw [State.setPortLane]
@[simp] theorem State.setPortLane_regs (n h : Nat) : (s.setPortLane n h).regs = s.regs := by rw [State.setPortLane]
@[simp] theorem State.setPortLane_ports (n h : Nat) : (s.setPortLane n h).ports = s.ports := by rw [State.setPortLane]
@[simp] theorem State.setPortLane_pairs (n h : Nat) : (s.setPortLane n h).pairs = s.pairs := by rw [State.setPortLane]
@[simp] theorem State.setPortLane_links (n h : Nat) : (s.setPortLane n h).links = s.links := by rw [State.setPortLane]
@[simp] theorem State.setPortLane_queues (n h : Nat) : (s.setPortLane n h).queues = s.queues := by rw [State.setPortLane]
@[simp] theorem State.setPortLane_hosts (n h : Nat) : (s.setPortLane n h).hosts = s.hosts := by rw [State.setPortLane]
@[simp] theorem State.setPortLane_lanes (n h : Nat) : (s.setPortLane n h).lanes = s.lanes := by rw [State.setPortLane]
@[simp] theorem State.setPortLane_tbl (n h : Nat) : (s.setPortLane n h).tbl = s.tbl := by rw [State.setPortLane]
@[simp] theorem State.setPortLane_held (n h : Nat) : (s.setPortLane n h).held = s.held := by rw [State.setPortLane]
@[simp] theorem State.setPortLane_snr (n h : Nat) : (s.setPortLane n h).snr = s.snr := by rw [State.setPortLane]
@[simp] theorem State.setPortLane_erle (n h : Nat) : (s.setPortLane n h).erle = s.erle := by rw [State.setPortLane]
@[simp] theorem State.setPortLane_errs (n h : Nat) : (s.setPortLane n h).errs = s.errs := by rw [State.setPortLane]
@[simp] theorem State.setPortLane_sigma (n h : Nat) : (s.setPortLane n h).sigma = s.sigma := by rw [State.setPortLane]
@[simp] theorem State.setPortLane_noise (n h : Nat) : (s.setPortLane n h).noise = s.noise := by rw [State.setPortLane]
@[simp] theorem State.setPortLane_coef (n h : Nat) : (s.setPortLane n h).coef = s.coef := by rw [State.setPortLane]
@[simp] theorem State.setPortLane_seeds (n h : Nat) : (s.setPortLane n h).seeds = s.seeds := by rw [State.setPortLane]
@[simp] theorem State.setPortLane_banks (n h : Nat) : (s.setPortLane n h).banks = s.banks := by rw [State.setPortLane]
@[simp] theorem State.setPortLane_rows (n h : Nat) : (s.setPortLane n h).rows = s.rows := by rw [State.setPortLane]
@[simp] theorem State.setPortLane_tiles (n h : Nat) : (s.setPortLane n h).tiles = s.tiles := by rw [State.setPortLane]
@[simp] theorem State.setPortLane_diags (n h : Nat) : (s.setPortLane n h).diags = s.diags := by rw [State.setPortLane]
@[simp] theorem State.setPortLane_maps (n h : Nat) : (s.setPortLane n h).maps = s.maps := by rw [State.setPortLane]
@[simp] theorem State.setPortLane_traces (n h : Nat) : (s.setPortLane n h).traces = s.traces := by rw [State.setPortLane]
@[simp] theorem State.setPortLane_doms (n h : Nat) : (s.setPortLane n h).doms = s.doms := by rw [State.setPortLane]
@[simp] theorem State.setPortLane_cals (n h : Nat) : (s.setPortLane n h).cals = s.cals := by rw [State.setPortLane]
@[simp] theorem State.setPortLane_calRuns (n h : Nat) : (s.setPortLane n h).calRuns = s.calRuns := by rw [State.setPortLane]
@[simp] theorem State.setPortLane_calSaved (n h : Nat) : (s.setPortLane n h).calSaved = s.calSaved := by rw [State.setPortLane]
@[simp] theorem State.setPortLane_queued (n h : Nat) : (s.setPortLane n h).queued = s.queued := by rw [State.setPortLane]
@[simp] theorem State.setPortLane_running (n h : Nat) : (s.setPortLane n h).running = s.running := by rw [State.setPortLane]
@[simp] theorem State.setPortLane_kept (n h : Nat) : (s.setPortLane n h).kept = s.kept := by rw [State.setPortLane]
@[simp] theorem State.setPortLane_jobs (n h : Nat) : (s.setPortLane n h).jobs = s.jobs := by rw [State.setPortLane]
@[simp] theorem State.setPortLane_records (n h : Nat) : (s.setPortLane n h).records = s.records := by rw [State.setPortLane]
@[simp] theorem State.setPortLane_eyes (n h : Nat) : (s.setPortLane n h).eyes = s.eyes := by rw [State.setPortLane]
@[simp] theorem State.setPortLane_completions (n h : Nat) : (s.setPortLane n h).completions = s.completions := by rw [State.setPortLane]
@[simp] theorem State.setPortLane_claims (n h : Nat) : (s.setPortLane n h).claims = s.claims := by rw [State.setPortLane]
@[simp] theorem State.setPortLane_waiting (n h : Nat) : (s.setPortLane n h).waiting = s.waiting := by rw [State.setPortLane]
@[simp] theorem State.setPortLane_later (n h : Nat) : (s.setPortLane n h).later = s.later := by rw [State.setPortLane]
@[simp] theorem State.setPortLane_granted (n h : Nat) : (s.setPortLane n h).granted = s.granted := by rw [State.setPortLane]
@[simp] theorem State.setPortLane_tests (n h : Nat) : (s.setPortLane n h).tests = s.tests := by rw [State.setPortLane]
@[simp] theorem State.setPortLane_nvOpen (n h : Nat) : (s.setPortLane n h).nvOpen = s.nvOpen := by rw [State.setPortLane]
@[simp] theorem State.setPortLane_mram (n h : Nat) : (s.setPortLane n h).mram = s.mram := by rw [State.setPortLane]
@[simp] theorem State.setPortLane_gbQueue (n h : Nat) : (s.setPortLane n h).gbQueue = s.gbQueue := by rw [State.setPortLane]
@[simp] theorem State.setPortLane_gbLimits (n h : Nat) : (s.setPortLane n h).gbLimits = s.gbLimits := by rw [State.setPortLane]
@[simp] theorem State.setPortLane_gbWindow (n h : Nat) : (s.setPortLane n h).gbWindow = s.gbWindow := by rw [State.setPortLane]
@[simp] theorem State.setPortLane_shadows (n h : Nat) : (s.setPortLane n h).shadows = s.shadows := by rw [State.setPortLane]
@[simp] theorem State.setPortLane_highs (n h : Nat) : (s.setPortLane n h).highs = s.highs := by rw [State.setPortLane]
@[simp] theorem State.setPortLane_core (n h : Nat) : (s.setPortLane n h).core = s.core := by rw [State.setPortLane]
@[simp] theorem State.setPortLane_hub (n h : Nat) : (s.setPortLane n h).hub = s.hub := by rw [State.setPortLane]
@[simp] theorem State.setPortLane_raised (n h : Nat) : (s.setPortLane n h).raised = s.raised := by rw [State.setPortLane]
@[simp] theorem State.setPortLane_out (n h : Nat) : (s.setPortLane n h).out = s.out := by rw [State.setPortLane]
@[simp] theorem State.setPortLane_pending (n h : Nat) : (s.setPortLane n h).pending = s.pending := by rw [State.setPortLane]

@[simp] theorem State.setTile_now (t : Nat) (v : TileSt) : (s.setTile t v).now = s.now := by rw [State.setTile]
@[simp] theorem State.setTile_free (t : Nat) (v : TileSt) : (s.setTile t v).free = s.free := by rw [State.setTile]
@[simp] theorem State.setTile_regs (t : Nat) (v : TileSt) : (s.setTile t v).regs = s.regs := by rw [State.setTile]
@[simp] theorem State.setTile_ports (t : Nat) (v : TileSt) : (s.setTile t v).ports = s.ports := by rw [State.setTile]
@[simp] theorem State.setTile_pairs (t : Nat) (v : TileSt) : (s.setTile t v).pairs = s.pairs := by rw [State.setTile]
@[simp] theorem State.setTile_links (t : Nat) (v : TileSt) : (s.setTile t v).links = s.links := by rw [State.setTile]
@[simp] theorem State.setTile_queues (t : Nat) (v : TileSt) : (s.setTile t v).queues = s.queues := by rw [State.setTile]
@[simp] theorem State.setTile_hosts (t : Nat) (v : TileSt) : (s.setTile t v).hosts = s.hosts := by rw [State.setTile]
@[simp] theorem State.setTile_lanes (t : Nat) (v : TileSt) : (s.setTile t v).lanes = s.lanes := by rw [State.setTile]
@[simp] theorem State.setTile_laneOf (t : Nat) (v : TileSt) : (s.setTile t v).laneOf = s.laneOf := by rw [State.setTile]
@[simp] theorem State.setTile_tbl (t : Nat) (v : TileSt) : (s.setTile t v).tbl = s.tbl := by rw [State.setTile]
@[simp] theorem State.setTile_held (t : Nat) (v : TileSt) : (s.setTile t v).held = s.held := by rw [State.setTile]
@[simp] theorem State.setTile_snr (t : Nat) (v : TileSt) : (s.setTile t v).snr = s.snr := by rw [State.setTile]
@[simp] theorem State.setTile_erle (t : Nat) (v : TileSt) : (s.setTile t v).erle = s.erle := by rw [State.setTile]
@[simp] theorem State.setTile_errs (t : Nat) (v : TileSt) : (s.setTile t v).errs = s.errs := by rw [State.setTile]
@[simp] theorem State.setTile_sigma (t : Nat) (v : TileSt) : (s.setTile t v).sigma = s.sigma := by rw [State.setTile]
@[simp] theorem State.setTile_noise (t : Nat) (v : TileSt) : (s.setTile t v).noise = s.noise := by rw [State.setTile]
@[simp] theorem State.setTile_coef (t : Nat) (v : TileSt) : (s.setTile t v).coef = s.coef := by rw [State.setTile]
@[simp] theorem State.setTile_seeds (t : Nat) (v : TileSt) : (s.setTile t v).seeds = s.seeds := by rw [State.setTile]
@[simp] theorem State.setTile_banks (t : Nat) (v : TileSt) : (s.setTile t v).banks = s.banks := by rw [State.setTile]
@[simp] theorem State.setTile_rows (t : Nat) (v : TileSt) : (s.setTile t v).rows = s.rows := by rw [State.setTile]
@[simp] theorem State.setTile_diags (t : Nat) (v : TileSt) : (s.setTile t v).diags = s.diags := by rw [State.setTile]
@[simp] theorem State.setTile_maps (t : Nat) (v : TileSt) : (s.setTile t v).maps = s.maps := by rw [State.setTile]
@[simp] theorem State.setTile_traces (t : Nat) (v : TileSt) : (s.setTile t v).traces = s.traces := by rw [State.setTile]
@[simp] theorem State.setTile_doms (t : Nat) (v : TileSt) : (s.setTile t v).doms = s.doms := by rw [State.setTile]
@[simp] theorem State.setTile_cals (t : Nat) (v : TileSt) : (s.setTile t v).cals = s.cals := by rw [State.setTile]
@[simp] theorem State.setTile_calRuns (t : Nat) (v : TileSt) : (s.setTile t v).calRuns = s.calRuns := by rw [State.setTile]
@[simp] theorem State.setTile_calSaved (t : Nat) (v : TileSt) : (s.setTile t v).calSaved = s.calSaved := by rw [State.setTile]
@[simp] theorem State.setTile_queued (t : Nat) (v : TileSt) : (s.setTile t v).queued = s.queued := by rw [State.setTile]
@[simp] theorem State.setTile_running (t : Nat) (v : TileSt) : (s.setTile t v).running = s.running := by rw [State.setTile]
@[simp] theorem State.setTile_kept (t : Nat) (v : TileSt) : (s.setTile t v).kept = s.kept := by rw [State.setTile]
@[simp] theorem State.setTile_jobs (t : Nat) (v : TileSt) : (s.setTile t v).jobs = s.jobs := by rw [State.setTile]
@[simp] theorem State.setTile_records (t : Nat) (v : TileSt) : (s.setTile t v).records = s.records := by rw [State.setTile]
@[simp] theorem State.setTile_eyes (t : Nat) (v : TileSt) : (s.setTile t v).eyes = s.eyes := by rw [State.setTile]
@[simp] theorem State.setTile_completions (t : Nat) (v : TileSt) : (s.setTile t v).completions = s.completions := by rw [State.setTile]
@[simp] theorem State.setTile_claims (t : Nat) (v : TileSt) : (s.setTile t v).claims = s.claims := by rw [State.setTile]
@[simp] theorem State.setTile_waiting (t : Nat) (v : TileSt) : (s.setTile t v).waiting = s.waiting := by rw [State.setTile]
@[simp] theorem State.setTile_later (t : Nat) (v : TileSt) : (s.setTile t v).later = s.later := by rw [State.setTile]
@[simp] theorem State.setTile_granted (t : Nat) (v : TileSt) : (s.setTile t v).granted = s.granted := by rw [State.setTile]
@[simp] theorem State.setTile_tests (t : Nat) (v : TileSt) : (s.setTile t v).tests = s.tests := by rw [State.setTile]
@[simp] theorem State.setTile_nvOpen (t : Nat) (v : TileSt) : (s.setTile t v).nvOpen = s.nvOpen := by rw [State.setTile]
@[simp] theorem State.setTile_mram (t : Nat) (v : TileSt) : (s.setTile t v).mram = s.mram := by rw [State.setTile]
@[simp] theorem State.setTile_gbQueue (t : Nat) (v : TileSt) : (s.setTile t v).gbQueue = s.gbQueue := by rw [State.setTile]
@[simp] theorem State.setTile_gbLimits (t : Nat) (v : TileSt) : (s.setTile t v).gbLimits = s.gbLimits := by rw [State.setTile]
@[simp] theorem State.setTile_gbWindow (t : Nat) (v : TileSt) : (s.setTile t v).gbWindow = s.gbWindow := by rw [State.setTile]
@[simp] theorem State.setTile_shadows (t : Nat) (v : TileSt) : (s.setTile t v).shadows = s.shadows := by rw [State.setTile]
@[simp] theorem State.setTile_highs (t : Nat) (v : TileSt) : (s.setTile t v).highs = s.highs := by rw [State.setTile]
@[simp] theorem State.setTile_core (t : Nat) (v : TileSt) : (s.setTile t v).core = s.core := by rw [State.setTile]
@[simp] theorem State.setTile_hub (t : Nat) (v : TileSt) : (s.setTile t v).hub = s.hub := by rw [State.setTile]
@[simp] theorem State.setTile_raised (t : Nat) (v : TileSt) : (s.setTile t v).raised = s.raised := by rw [State.setTile]
@[simp] theorem State.setTile_out (t : Nat) (v : TileSt) : (s.setTile t v).out = s.out := by rw [State.setTile]
@[simp] theorem State.setTile_pending (t : Nat) (v : TileSt) : (s.setTile t v).pending = s.pending := by rw [State.setTile]

@[simp] theorem State.modTile_now (t : Nat) (g : TileSt → TileSt) : (s.modTile t g).now = s.now := by rw [State.modTile, State.setTile_now]
@[simp] theorem State.modTile_free (t : Nat) (g : TileSt → TileSt) : (s.modTile t g).free = s.free := by rw [State.modTile, State.setTile_free]
@[simp] theorem State.modTile_regs (t : Nat) (g : TileSt → TileSt) : (s.modTile t g).regs = s.regs := by rw [State.modTile, State.setTile_regs]
@[simp] theorem State.modTile_ports (t : Nat) (g : TileSt → TileSt) : (s.modTile t g).ports = s.ports := by rw [State.modTile, State.setTile_ports]
@[simp] theorem State.modTile_pairs (t : Nat) (g : TileSt → TileSt) : (s.modTile t g).pairs = s.pairs := by rw [State.modTile, State.setTile_pairs]
@[simp] theorem State.modTile_links (t : Nat) (g : TileSt → TileSt) : (s.modTile t g).links = s.links := by rw [State.modTile, State.setTile_links]
@[simp] theorem State.modTile_queues (t : Nat) (g : TileSt → TileSt) : (s.modTile t g).queues = s.queues := by rw [State.modTile, State.setTile_queues]
@[simp] theorem State.modTile_hosts (t : Nat) (g : TileSt → TileSt) : (s.modTile t g).hosts = s.hosts := by rw [State.modTile, State.setTile_hosts]
@[simp] theorem State.modTile_lanes (t : Nat) (g : TileSt → TileSt) : (s.modTile t g).lanes = s.lanes := by rw [State.modTile, State.setTile_lanes]
@[simp] theorem State.modTile_laneOf (t : Nat) (g : TileSt → TileSt) : (s.modTile t g).laneOf = s.laneOf := by rw [State.modTile, State.setTile_laneOf]
@[simp] theorem State.modTile_tbl (t : Nat) (g : TileSt → TileSt) : (s.modTile t g).tbl = s.tbl := by rw [State.modTile, State.setTile_tbl]
@[simp] theorem State.modTile_held (t : Nat) (g : TileSt → TileSt) : (s.modTile t g).held = s.held := by rw [State.modTile, State.setTile_held]
@[simp] theorem State.modTile_snr (t : Nat) (g : TileSt → TileSt) : (s.modTile t g).snr = s.snr := by rw [State.modTile, State.setTile_snr]
@[simp] theorem State.modTile_erle (t : Nat) (g : TileSt → TileSt) : (s.modTile t g).erle = s.erle := by rw [State.modTile, State.setTile_erle]
@[simp] theorem State.modTile_errs (t : Nat) (g : TileSt → TileSt) : (s.modTile t g).errs = s.errs := by rw [State.modTile, State.setTile_errs]
@[simp] theorem State.modTile_sigma (t : Nat) (g : TileSt → TileSt) : (s.modTile t g).sigma = s.sigma := by rw [State.modTile, State.setTile_sigma]
@[simp] theorem State.modTile_noise (t : Nat) (g : TileSt → TileSt) : (s.modTile t g).noise = s.noise := by rw [State.modTile, State.setTile_noise]
@[simp] theorem State.modTile_coef (t : Nat) (g : TileSt → TileSt) : (s.modTile t g).coef = s.coef := by rw [State.modTile, State.setTile_coef]
@[simp] theorem State.modTile_seeds (t : Nat) (g : TileSt → TileSt) : (s.modTile t g).seeds = s.seeds := by rw [State.modTile, State.setTile_seeds]
@[simp] theorem State.modTile_banks (t : Nat) (g : TileSt → TileSt) : (s.modTile t g).banks = s.banks := by rw [State.modTile, State.setTile_banks]
@[simp] theorem State.modTile_rows (t : Nat) (g : TileSt → TileSt) : (s.modTile t g).rows = s.rows := by rw [State.modTile, State.setTile_rows]
@[simp] theorem State.modTile_diags (t : Nat) (g : TileSt → TileSt) : (s.modTile t g).diags = s.diags := by rw [State.modTile, State.setTile_diags]
@[simp] theorem State.modTile_maps (t : Nat) (g : TileSt → TileSt) : (s.modTile t g).maps = s.maps := by rw [State.modTile, State.setTile_maps]
@[simp] theorem State.modTile_traces (t : Nat) (g : TileSt → TileSt) : (s.modTile t g).traces = s.traces := by rw [State.modTile, State.setTile_traces]
@[simp] theorem State.modTile_doms (t : Nat) (g : TileSt → TileSt) : (s.modTile t g).doms = s.doms := by rw [State.modTile, State.setTile_doms]
@[simp] theorem State.modTile_cals (t : Nat) (g : TileSt → TileSt) : (s.modTile t g).cals = s.cals := by rw [State.modTile, State.setTile_cals]
@[simp] theorem State.modTile_calRuns (t : Nat) (g : TileSt → TileSt) : (s.modTile t g).calRuns = s.calRuns := by rw [State.modTile, State.setTile_calRuns]
@[simp] theorem State.modTile_calSaved (t : Nat) (g : TileSt → TileSt) : (s.modTile t g).calSaved = s.calSaved := by rw [State.modTile, State.setTile_calSaved]
@[simp] theorem State.modTile_queued (t : Nat) (g : TileSt → TileSt) : (s.modTile t g).queued = s.queued := by rw [State.modTile, State.setTile_queued]
@[simp] theorem State.modTile_running (t : Nat) (g : TileSt → TileSt) : (s.modTile t g).running = s.running := by rw [State.modTile, State.setTile_running]
@[simp] theorem State.modTile_kept (t : Nat) (g : TileSt → TileSt) : (s.modTile t g).kept = s.kept := by rw [State.modTile, State.setTile_kept]
@[simp] theorem State.modTile_jobs (t : Nat) (g : TileSt → TileSt) : (s.modTile t g).jobs = s.jobs := by rw [State.modTile, State.setTile_jobs]
@[simp] theorem State.modTile_records (t : Nat) (g : TileSt → TileSt) : (s.modTile t g).records = s.records := by rw [State.modTile, State.setTile_records]
@[simp] theorem State.modTile_eyes (t : Nat) (g : TileSt → TileSt) : (s.modTile t g).eyes = s.eyes := by rw [State.modTile, State.setTile_eyes]
@[simp] theorem State.modTile_completions (t : Nat) (g : TileSt → TileSt) : (s.modTile t g).completions = s.completions := by rw [State.modTile, State.setTile_completions]
@[simp] theorem State.modTile_claims (t : Nat) (g : TileSt → TileSt) : (s.modTile t g).claims = s.claims := by rw [State.modTile, State.setTile_claims]
@[simp] theorem State.modTile_waiting (t : Nat) (g : TileSt → TileSt) : (s.modTile t g).waiting = s.waiting := by rw [State.modTile, State.setTile_waiting]
@[simp] theorem State.modTile_later (t : Nat) (g : TileSt → TileSt) : (s.modTile t g).later = s.later := by rw [State.modTile, State.setTile_later]
@[simp] theorem State.modTile_granted (t : Nat) (g : TileSt → TileSt) : (s.modTile t g).granted = s.granted := by rw [State.modTile, State.setTile_granted]
@[simp] theorem State.modTile_tests (t : Nat) (g : TileSt → TileSt) : (s.modTile t g).tests = s.tests := by rw [State.modTile, State.setTile_tests]
@[simp] theorem State.modTile_nvOpen (t : Nat) (g : TileSt → TileSt) : (s.modTile t g).nvOpen = s.nvOpen := by rw [State.modTile, State.setTile_nvOpen]
@[simp] theorem State.modTile_mram (t : Nat) (g : TileSt → TileSt) : (s.modTile t g).mram = s.mram := by rw [State.modTile, State.setTile_mram]
@[simp] theorem State.modTile_gbQueue (t : Nat) (g : TileSt → TileSt) : (s.modTile t g).gbQueue = s.gbQueue := by rw [State.modTile, State.setTile_gbQueue]
@[simp] theorem State.modTile_gbLimits (t : Nat) (g : TileSt → TileSt) : (s.modTile t g).gbLimits = s.gbLimits := by rw [State.modTile, State.setTile_gbLimits]
@[simp] theorem State.modTile_gbWindow (t : Nat) (g : TileSt → TileSt) : (s.modTile t g).gbWindow = s.gbWindow := by rw [State.modTile, State.setTile_gbWindow]
@[simp] theorem State.modTile_shadows (t : Nat) (g : TileSt → TileSt) : (s.modTile t g).shadows = s.shadows := by rw [State.modTile, State.setTile_shadows]
@[simp] theorem State.modTile_highs (t : Nat) (g : TileSt → TileSt) : (s.modTile t g).highs = s.highs := by rw [State.modTile, State.setTile_highs]
@[simp] theorem State.modTile_core (t : Nat) (g : TileSt → TileSt) : (s.modTile t g).core = s.core := by rw [State.modTile, State.setTile_core]
@[simp] theorem State.modTile_hub (t : Nat) (g : TileSt → TileSt) : (s.modTile t g).hub = s.hub := by rw [State.modTile, State.setTile_hub]
@[simp] theorem State.modTile_raised (t : Nat) (g : TileSt → TileSt) : (s.modTile t g).raised = s.raised := by rw [State.modTile, State.setTile_raised]
@[simp] theorem State.modTile_out (t : Nat) (g : TileSt → TileSt) : (s.modTile t g).out = s.out := by rw [State.modTile, State.setTile_out]
@[simp] theorem State.modTile_pending (t : Nat) (g : TileSt → TileSt) : (s.modTile t g).pending = s.pending := by rw [State.modTile, State.setTile_pending]

@[simp] theorem State.setDiag_now (g : Nat) (v : DiagSt) : (s.setDiag g v).now = s.now := by rw [State.setDiag]
@[simp] theorem State.setDiag_free (g : Nat) (v : DiagSt) : (s.setDiag g v).free = s.free := by rw [State.setDiag]
@[simp] theorem State.setDiag_regs (g : Nat) (v : DiagSt) : (s.setDiag g v).regs = s.regs := by rw [State.setDiag]
@[simp] theorem State.setDiag_ports (g : Nat) (v : DiagSt) : (s.setDiag g v).ports = s.ports := by rw [State.setDiag]
@[simp] theorem State.setDiag_pairs (g : Nat) (v : DiagSt) : (s.setDiag g v).pairs = s.pairs := by rw [State.setDiag]
@[simp] theorem State.setDiag_links (g : Nat) (v : DiagSt) : (s.setDiag g v).links = s.links := by rw [State.setDiag]
@[simp] theorem State.setDiag_queues (g : Nat) (v : DiagSt) : (s.setDiag g v).queues = s.queues := by rw [State.setDiag]
@[simp] theorem State.setDiag_hosts (g : Nat) (v : DiagSt) : (s.setDiag g v).hosts = s.hosts := by rw [State.setDiag]
@[simp] theorem State.setDiag_lanes (g : Nat) (v : DiagSt) : (s.setDiag g v).lanes = s.lanes := by rw [State.setDiag]
@[simp] theorem State.setDiag_laneOf (g : Nat) (v : DiagSt) : (s.setDiag g v).laneOf = s.laneOf := by rw [State.setDiag]
@[simp] theorem State.setDiag_tbl (g : Nat) (v : DiagSt) : (s.setDiag g v).tbl = s.tbl := by rw [State.setDiag]
@[simp] theorem State.setDiag_held (g : Nat) (v : DiagSt) : (s.setDiag g v).held = s.held := by rw [State.setDiag]
@[simp] theorem State.setDiag_snr (g : Nat) (v : DiagSt) : (s.setDiag g v).snr = s.snr := by rw [State.setDiag]
@[simp] theorem State.setDiag_erle (g : Nat) (v : DiagSt) : (s.setDiag g v).erle = s.erle := by rw [State.setDiag]
@[simp] theorem State.setDiag_errs (g : Nat) (v : DiagSt) : (s.setDiag g v).errs = s.errs := by rw [State.setDiag]
@[simp] theorem State.setDiag_sigma (g : Nat) (v : DiagSt) : (s.setDiag g v).sigma = s.sigma := by rw [State.setDiag]
@[simp] theorem State.setDiag_noise (g : Nat) (v : DiagSt) : (s.setDiag g v).noise = s.noise := by rw [State.setDiag]
@[simp] theorem State.setDiag_coef (g : Nat) (v : DiagSt) : (s.setDiag g v).coef = s.coef := by rw [State.setDiag]
@[simp] theorem State.setDiag_seeds (g : Nat) (v : DiagSt) : (s.setDiag g v).seeds = s.seeds := by rw [State.setDiag]
@[simp] theorem State.setDiag_banks (g : Nat) (v : DiagSt) : (s.setDiag g v).banks = s.banks := by rw [State.setDiag]
@[simp] theorem State.setDiag_rows (g : Nat) (v : DiagSt) : (s.setDiag g v).rows = s.rows := by rw [State.setDiag]
@[simp] theorem State.setDiag_tiles (g : Nat) (v : DiagSt) : (s.setDiag g v).tiles = s.tiles := by rw [State.setDiag]
@[simp] theorem State.setDiag_maps (g : Nat) (v : DiagSt) : (s.setDiag g v).maps = s.maps := by rw [State.setDiag]
@[simp] theorem State.setDiag_traces (g : Nat) (v : DiagSt) : (s.setDiag g v).traces = s.traces := by rw [State.setDiag]
@[simp] theorem State.setDiag_doms (g : Nat) (v : DiagSt) : (s.setDiag g v).doms = s.doms := by rw [State.setDiag]
@[simp] theorem State.setDiag_cals (g : Nat) (v : DiagSt) : (s.setDiag g v).cals = s.cals := by rw [State.setDiag]
@[simp] theorem State.setDiag_calRuns (g : Nat) (v : DiagSt) : (s.setDiag g v).calRuns = s.calRuns := by rw [State.setDiag]
@[simp] theorem State.setDiag_calSaved (g : Nat) (v : DiagSt) : (s.setDiag g v).calSaved = s.calSaved := by rw [State.setDiag]
@[simp] theorem State.setDiag_queued (g : Nat) (v : DiagSt) : (s.setDiag g v).queued = s.queued := by rw [State.setDiag]
@[simp] theorem State.setDiag_running (g : Nat) (v : DiagSt) : (s.setDiag g v).running = s.running := by rw [State.setDiag]
@[simp] theorem State.setDiag_kept (g : Nat) (v : DiagSt) : (s.setDiag g v).kept = s.kept := by rw [State.setDiag]
@[simp] theorem State.setDiag_jobs (g : Nat) (v : DiagSt) : (s.setDiag g v).jobs = s.jobs := by rw [State.setDiag]
@[simp] theorem State.setDiag_records (g : Nat) (v : DiagSt) : (s.setDiag g v).records = s.records := by rw [State.setDiag]
@[simp] theorem State.setDiag_eyes (g : Nat) (v : DiagSt) : (s.setDiag g v).eyes = s.eyes := by rw [State.setDiag]
@[simp] theorem State.setDiag_completions (g : Nat) (v : DiagSt) : (s.setDiag g v).completions = s.completions := by rw [State.setDiag]
@[simp] theorem State.setDiag_claims (g : Nat) (v : DiagSt) : (s.setDiag g v).claims = s.claims := by rw [State.setDiag]
@[simp] theorem State.setDiag_waiting (g : Nat) (v : DiagSt) : (s.setDiag g v).waiting = s.waiting := by rw [State.setDiag]
@[simp] theorem State.setDiag_later (g : Nat) (v : DiagSt) : (s.setDiag g v).later = s.later := by rw [State.setDiag]
@[simp] theorem State.setDiag_granted (g : Nat) (v : DiagSt) : (s.setDiag g v).granted = s.granted := by rw [State.setDiag]
@[simp] theorem State.setDiag_tests (g : Nat) (v : DiagSt) : (s.setDiag g v).tests = s.tests := by rw [State.setDiag]
@[simp] theorem State.setDiag_nvOpen (g : Nat) (v : DiagSt) : (s.setDiag g v).nvOpen = s.nvOpen := by rw [State.setDiag]
@[simp] theorem State.setDiag_mram (g : Nat) (v : DiagSt) : (s.setDiag g v).mram = s.mram := by rw [State.setDiag]
@[simp] theorem State.setDiag_gbQueue (g : Nat) (v : DiagSt) : (s.setDiag g v).gbQueue = s.gbQueue := by rw [State.setDiag]
@[simp] theorem State.setDiag_gbLimits (g : Nat) (v : DiagSt) : (s.setDiag g v).gbLimits = s.gbLimits := by rw [State.setDiag]
@[simp] theorem State.setDiag_gbWindow (g : Nat) (v : DiagSt) : (s.setDiag g v).gbWindow = s.gbWindow := by rw [State.setDiag]
@[simp] theorem State.setDiag_shadows (g : Nat) (v : DiagSt) : (s.setDiag g v).shadows = s.shadows := by rw [State.setDiag]
@[simp] theorem State.setDiag_highs (g : Nat) (v : DiagSt) : (s.setDiag g v).highs = s.highs := by rw [State.setDiag]
@[simp] theorem State.setDiag_core (g : Nat) (v : DiagSt) : (s.setDiag g v).core = s.core := by rw [State.setDiag]
@[simp] theorem State.setDiag_hub (g : Nat) (v : DiagSt) : (s.setDiag g v).hub = s.hub := by rw [State.setDiag]
@[simp] theorem State.setDiag_raised (g : Nat) (v : DiagSt) : (s.setDiag g v).raised = s.raised := by rw [State.setDiag]
@[simp] theorem State.setDiag_out (g : Nat) (v : DiagSt) : (s.setDiag g v).out = s.out := by rw [State.setDiag]
@[simp] theorem State.setDiag_pending (g : Nat) (v : DiagSt) : (s.setDiag g v).pending = s.pending := by rw [State.setDiag]

@[simp] theorem State.modDiag_now (g : Nat) (f : DiagSt → DiagSt) : (s.modDiag g f).now = s.now := by rw [State.modDiag, State.setDiag_now]
@[simp] theorem State.modDiag_free (g : Nat) (f : DiagSt → DiagSt) : (s.modDiag g f).free = s.free := by rw [State.modDiag, State.setDiag_free]
@[simp] theorem State.modDiag_regs (g : Nat) (f : DiagSt → DiagSt) : (s.modDiag g f).regs = s.regs := by rw [State.modDiag, State.setDiag_regs]
@[simp] theorem State.modDiag_ports (g : Nat) (f : DiagSt → DiagSt) : (s.modDiag g f).ports = s.ports := by rw [State.modDiag, State.setDiag_ports]
@[simp] theorem State.modDiag_pairs (g : Nat) (f : DiagSt → DiagSt) : (s.modDiag g f).pairs = s.pairs := by rw [State.modDiag, State.setDiag_pairs]
@[simp] theorem State.modDiag_links (g : Nat) (f : DiagSt → DiagSt) : (s.modDiag g f).links = s.links := by rw [State.modDiag, State.setDiag_links]
@[simp] theorem State.modDiag_queues (g : Nat) (f : DiagSt → DiagSt) : (s.modDiag g f).queues = s.queues := by rw [State.modDiag, State.setDiag_queues]
@[simp] theorem State.modDiag_hosts (g : Nat) (f : DiagSt → DiagSt) : (s.modDiag g f).hosts = s.hosts := by rw [State.modDiag, State.setDiag_hosts]
@[simp] theorem State.modDiag_lanes (g : Nat) (f : DiagSt → DiagSt) : (s.modDiag g f).lanes = s.lanes := by rw [State.modDiag, State.setDiag_lanes]
@[simp] theorem State.modDiag_laneOf (g : Nat) (f : DiagSt → DiagSt) : (s.modDiag g f).laneOf = s.laneOf := by rw [State.modDiag, State.setDiag_laneOf]
@[simp] theorem State.modDiag_tbl (g : Nat) (f : DiagSt → DiagSt) : (s.modDiag g f).tbl = s.tbl := by rw [State.modDiag, State.setDiag_tbl]
@[simp] theorem State.modDiag_held (g : Nat) (f : DiagSt → DiagSt) : (s.modDiag g f).held = s.held := by rw [State.modDiag, State.setDiag_held]
@[simp] theorem State.modDiag_snr (g : Nat) (f : DiagSt → DiagSt) : (s.modDiag g f).snr = s.snr := by rw [State.modDiag, State.setDiag_snr]
@[simp] theorem State.modDiag_erle (g : Nat) (f : DiagSt → DiagSt) : (s.modDiag g f).erle = s.erle := by rw [State.modDiag, State.setDiag_erle]
@[simp] theorem State.modDiag_errs (g : Nat) (f : DiagSt → DiagSt) : (s.modDiag g f).errs = s.errs := by rw [State.modDiag, State.setDiag_errs]
@[simp] theorem State.modDiag_sigma (g : Nat) (f : DiagSt → DiagSt) : (s.modDiag g f).sigma = s.sigma := by rw [State.modDiag, State.setDiag_sigma]
@[simp] theorem State.modDiag_noise (g : Nat) (f : DiagSt → DiagSt) : (s.modDiag g f).noise = s.noise := by rw [State.modDiag, State.setDiag_noise]
@[simp] theorem State.modDiag_coef (g : Nat) (f : DiagSt → DiagSt) : (s.modDiag g f).coef = s.coef := by rw [State.modDiag, State.setDiag_coef]
@[simp] theorem State.modDiag_seeds (g : Nat) (f : DiagSt → DiagSt) : (s.modDiag g f).seeds = s.seeds := by rw [State.modDiag, State.setDiag_seeds]
@[simp] theorem State.modDiag_banks (g : Nat) (f : DiagSt → DiagSt) : (s.modDiag g f).banks = s.banks := by rw [State.modDiag, State.setDiag_banks]
@[simp] theorem State.modDiag_rows (g : Nat) (f : DiagSt → DiagSt) : (s.modDiag g f).rows = s.rows := by rw [State.modDiag, State.setDiag_rows]
@[simp] theorem State.modDiag_tiles (g : Nat) (f : DiagSt → DiagSt) : (s.modDiag g f).tiles = s.tiles := by rw [State.modDiag, State.setDiag_tiles]
@[simp] theorem State.modDiag_maps (g : Nat) (f : DiagSt → DiagSt) : (s.modDiag g f).maps = s.maps := by rw [State.modDiag, State.setDiag_maps]
@[simp] theorem State.modDiag_traces (g : Nat) (f : DiagSt → DiagSt) : (s.modDiag g f).traces = s.traces := by rw [State.modDiag, State.setDiag_traces]
@[simp] theorem State.modDiag_doms (g : Nat) (f : DiagSt → DiagSt) : (s.modDiag g f).doms = s.doms := by rw [State.modDiag, State.setDiag_doms]
@[simp] theorem State.modDiag_cals (g : Nat) (f : DiagSt → DiagSt) : (s.modDiag g f).cals = s.cals := by rw [State.modDiag, State.setDiag_cals]
@[simp] theorem State.modDiag_calRuns (g : Nat) (f : DiagSt → DiagSt) : (s.modDiag g f).calRuns = s.calRuns := by rw [State.modDiag, State.setDiag_calRuns]
@[simp] theorem State.modDiag_calSaved (g : Nat) (f : DiagSt → DiagSt) : (s.modDiag g f).calSaved = s.calSaved := by rw [State.modDiag, State.setDiag_calSaved]
@[simp] theorem State.modDiag_queued (g : Nat) (f : DiagSt → DiagSt) : (s.modDiag g f).queued = s.queued := by rw [State.modDiag, State.setDiag_queued]
@[simp] theorem State.modDiag_running (g : Nat) (f : DiagSt → DiagSt) : (s.modDiag g f).running = s.running := by rw [State.modDiag, State.setDiag_running]
@[simp] theorem State.modDiag_kept (g : Nat) (f : DiagSt → DiagSt) : (s.modDiag g f).kept = s.kept := by rw [State.modDiag, State.setDiag_kept]
@[simp] theorem State.modDiag_jobs (g : Nat) (f : DiagSt → DiagSt) : (s.modDiag g f).jobs = s.jobs := by rw [State.modDiag, State.setDiag_jobs]
@[simp] theorem State.modDiag_records (g : Nat) (f : DiagSt → DiagSt) : (s.modDiag g f).records = s.records := by rw [State.modDiag, State.setDiag_records]
@[simp] theorem State.modDiag_eyes (g : Nat) (f : DiagSt → DiagSt) : (s.modDiag g f).eyes = s.eyes := by rw [State.modDiag, State.setDiag_eyes]
@[simp] theorem State.modDiag_completions (g : Nat) (f : DiagSt → DiagSt) : (s.modDiag g f).completions = s.completions := by rw [State.modDiag, State.setDiag_completions]
@[simp] theorem State.modDiag_claims (g : Nat) (f : DiagSt → DiagSt) : (s.modDiag g f).claims = s.claims := by rw [State.modDiag, State.setDiag_claims]
@[simp] theorem State.modDiag_waiting (g : Nat) (f : DiagSt → DiagSt) : (s.modDiag g f).waiting = s.waiting := by rw [State.modDiag, State.setDiag_waiting]
@[simp] theorem State.modDiag_later (g : Nat) (f : DiagSt → DiagSt) : (s.modDiag g f).later = s.later := by rw [State.modDiag, State.setDiag_later]
@[simp] theorem State.modDiag_granted (g : Nat) (f : DiagSt → DiagSt) : (s.modDiag g f).granted = s.granted := by rw [State.modDiag, State.setDiag_granted]
@[simp] theorem State.modDiag_tests (g : Nat) (f : DiagSt → DiagSt) : (s.modDiag g f).tests = s.tests := by rw [State.modDiag, State.setDiag_tests]
@[simp] theorem State.modDiag_nvOpen (g : Nat) (f : DiagSt → DiagSt) : (s.modDiag g f).nvOpen = s.nvOpen := by rw [State.modDiag, State.setDiag_nvOpen]
@[simp] theorem State.modDiag_mram (g : Nat) (f : DiagSt → DiagSt) : (s.modDiag g f).mram = s.mram := by rw [State.modDiag, State.setDiag_mram]
@[simp] theorem State.modDiag_gbQueue (g : Nat) (f : DiagSt → DiagSt) : (s.modDiag g f).gbQueue = s.gbQueue := by rw [State.modDiag, State.setDiag_gbQueue]
@[simp] theorem State.modDiag_gbLimits (g : Nat) (f : DiagSt → DiagSt) : (s.modDiag g f).gbLimits = s.gbLimits := by rw [State.modDiag, State.setDiag_gbLimits]
@[simp] theorem State.modDiag_gbWindow (g : Nat) (f : DiagSt → DiagSt) : (s.modDiag g f).gbWindow = s.gbWindow := by rw [State.modDiag, State.setDiag_gbWindow]
@[simp] theorem State.modDiag_shadows (g : Nat) (f : DiagSt → DiagSt) : (s.modDiag g f).shadows = s.shadows := by rw [State.modDiag, State.setDiag_shadows]
@[simp] theorem State.modDiag_highs (g : Nat) (f : DiagSt → DiagSt) : (s.modDiag g f).highs = s.highs := by rw [State.modDiag, State.setDiag_highs]
@[simp] theorem State.modDiag_core (g : Nat) (f : DiagSt → DiagSt) : (s.modDiag g f).core = s.core := by rw [State.modDiag, State.setDiag_core]
@[simp] theorem State.modDiag_hub (g : Nat) (f : DiagSt → DiagSt) : (s.modDiag g f).hub = s.hub := by rw [State.modDiag, State.setDiag_hub]
@[simp] theorem State.modDiag_raised (g : Nat) (f : DiagSt → DiagSt) : (s.modDiag g f).raised = s.raised := by rw [State.modDiag, State.setDiag_raised]
@[simp] theorem State.modDiag_out (g : Nat) (f : DiagSt → DiagSt) : (s.modDiag g f).out = s.out := by rw [State.modDiag, State.setDiag_out]
@[simp] theorem State.modDiag_pending (g : Nat) (f : DiagSt → DiagSt) : (s.modDiag g f).pending = s.pending := by rw [State.modDiag, State.setDiag_pending]

@[simp] theorem State.setDom_now (i : Nat) (v : DomSt) : (s.setDom i v).now = s.now := by rw [State.setDom]
@[simp] theorem State.setDom_free (i : Nat) (v : DomSt) : (s.setDom i v).free = s.free := by rw [State.setDom]
@[simp] theorem State.setDom_regs (i : Nat) (v : DomSt) : (s.setDom i v).regs = s.regs := by rw [State.setDom]
@[simp] theorem State.setDom_ports (i : Nat) (v : DomSt) : (s.setDom i v).ports = s.ports := by rw [State.setDom]
@[simp] theorem State.setDom_pairs (i : Nat) (v : DomSt) : (s.setDom i v).pairs = s.pairs := by rw [State.setDom]
@[simp] theorem State.setDom_links (i : Nat) (v : DomSt) : (s.setDom i v).links = s.links := by rw [State.setDom]
@[simp] theorem State.setDom_queues (i : Nat) (v : DomSt) : (s.setDom i v).queues = s.queues := by rw [State.setDom]
@[simp] theorem State.setDom_hosts (i : Nat) (v : DomSt) : (s.setDom i v).hosts = s.hosts := by rw [State.setDom]
@[simp] theorem State.setDom_lanes (i : Nat) (v : DomSt) : (s.setDom i v).lanes = s.lanes := by rw [State.setDom]
@[simp] theorem State.setDom_laneOf (i : Nat) (v : DomSt) : (s.setDom i v).laneOf = s.laneOf := by rw [State.setDom]
@[simp] theorem State.setDom_tbl (i : Nat) (v : DomSt) : (s.setDom i v).tbl = s.tbl := by rw [State.setDom]
@[simp] theorem State.setDom_held (i : Nat) (v : DomSt) : (s.setDom i v).held = s.held := by rw [State.setDom]
@[simp] theorem State.setDom_snr (i : Nat) (v : DomSt) : (s.setDom i v).snr = s.snr := by rw [State.setDom]
@[simp] theorem State.setDom_erle (i : Nat) (v : DomSt) : (s.setDom i v).erle = s.erle := by rw [State.setDom]
@[simp] theorem State.setDom_errs (i : Nat) (v : DomSt) : (s.setDom i v).errs = s.errs := by rw [State.setDom]
@[simp] theorem State.setDom_sigma (i : Nat) (v : DomSt) : (s.setDom i v).sigma = s.sigma := by rw [State.setDom]
@[simp] theorem State.setDom_noise (i : Nat) (v : DomSt) : (s.setDom i v).noise = s.noise := by rw [State.setDom]
@[simp] theorem State.setDom_coef (i : Nat) (v : DomSt) : (s.setDom i v).coef = s.coef := by rw [State.setDom]
@[simp] theorem State.setDom_seeds (i : Nat) (v : DomSt) : (s.setDom i v).seeds = s.seeds := by rw [State.setDom]
@[simp] theorem State.setDom_banks (i : Nat) (v : DomSt) : (s.setDom i v).banks = s.banks := by rw [State.setDom]
@[simp] theorem State.setDom_rows (i : Nat) (v : DomSt) : (s.setDom i v).rows = s.rows := by rw [State.setDom]
@[simp] theorem State.setDom_tiles (i : Nat) (v : DomSt) : (s.setDom i v).tiles = s.tiles := by rw [State.setDom]
@[simp] theorem State.setDom_diags (i : Nat) (v : DomSt) : (s.setDom i v).diags = s.diags := by rw [State.setDom]
@[simp] theorem State.setDom_maps (i : Nat) (v : DomSt) : (s.setDom i v).maps = s.maps := by rw [State.setDom]
@[simp] theorem State.setDom_traces (i : Nat) (v : DomSt) : (s.setDom i v).traces = s.traces := by rw [State.setDom]
@[simp] theorem State.setDom_cals (i : Nat) (v : DomSt) : (s.setDom i v).cals = s.cals := by rw [State.setDom]
@[simp] theorem State.setDom_calRuns (i : Nat) (v : DomSt) : (s.setDom i v).calRuns = s.calRuns := by rw [State.setDom]
@[simp] theorem State.setDom_calSaved (i : Nat) (v : DomSt) : (s.setDom i v).calSaved = s.calSaved := by rw [State.setDom]
@[simp] theorem State.setDom_queued (i : Nat) (v : DomSt) : (s.setDom i v).queued = s.queued := by rw [State.setDom]
@[simp] theorem State.setDom_running (i : Nat) (v : DomSt) : (s.setDom i v).running = s.running := by rw [State.setDom]
@[simp] theorem State.setDom_kept (i : Nat) (v : DomSt) : (s.setDom i v).kept = s.kept := by rw [State.setDom]
@[simp] theorem State.setDom_jobs (i : Nat) (v : DomSt) : (s.setDom i v).jobs = s.jobs := by rw [State.setDom]
@[simp] theorem State.setDom_records (i : Nat) (v : DomSt) : (s.setDom i v).records = s.records := by rw [State.setDom]
@[simp] theorem State.setDom_eyes (i : Nat) (v : DomSt) : (s.setDom i v).eyes = s.eyes := by rw [State.setDom]
@[simp] theorem State.setDom_completions (i : Nat) (v : DomSt) : (s.setDom i v).completions = s.completions := by rw [State.setDom]
@[simp] theorem State.setDom_claims (i : Nat) (v : DomSt) : (s.setDom i v).claims = s.claims := by rw [State.setDom]
@[simp] theorem State.setDom_waiting (i : Nat) (v : DomSt) : (s.setDom i v).waiting = s.waiting := by rw [State.setDom]
@[simp] theorem State.setDom_later (i : Nat) (v : DomSt) : (s.setDom i v).later = s.later := by rw [State.setDom]
@[simp] theorem State.setDom_granted (i : Nat) (v : DomSt) : (s.setDom i v).granted = s.granted := by rw [State.setDom]
@[simp] theorem State.setDom_tests (i : Nat) (v : DomSt) : (s.setDom i v).tests = s.tests := by rw [State.setDom]
@[simp] theorem State.setDom_nvOpen (i : Nat) (v : DomSt) : (s.setDom i v).nvOpen = s.nvOpen := by rw [State.setDom]
@[simp] theorem State.setDom_mram (i : Nat) (v : DomSt) : (s.setDom i v).mram = s.mram := by rw [State.setDom]
@[simp] theorem State.setDom_gbQueue (i : Nat) (v : DomSt) : (s.setDom i v).gbQueue = s.gbQueue := by rw [State.setDom]
@[simp] theorem State.setDom_gbLimits (i : Nat) (v : DomSt) : (s.setDom i v).gbLimits = s.gbLimits := by rw [State.setDom]
@[simp] theorem State.setDom_gbWindow (i : Nat) (v : DomSt) : (s.setDom i v).gbWindow = s.gbWindow := by rw [State.setDom]
@[simp] theorem State.setDom_shadows (i : Nat) (v : DomSt) : (s.setDom i v).shadows = s.shadows := by rw [State.setDom]
@[simp] theorem State.setDom_highs (i : Nat) (v : DomSt) : (s.setDom i v).highs = s.highs := by rw [State.setDom]
@[simp] theorem State.setDom_core (i : Nat) (v : DomSt) : (s.setDom i v).core = s.core := by rw [State.setDom]
@[simp] theorem State.setDom_hub (i : Nat) (v : DomSt) : (s.setDom i v).hub = s.hub := by rw [State.setDom]
@[simp] theorem State.setDom_raised (i : Nat) (v : DomSt) : (s.setDom i v).raised = s.raised := by rw [State.setDom]
@[simp] theorem State.setDom_out (i : Nat) (v : DomSt) : (s.setDom i v).out = s.out := by rw [State.setDom]
@[simp] theorem State.setDom_pending (i : Nat) (v : DomSt) : (s.setDom i v).pending = s.pending := by rw [State.setDom]

@[simp] theorem State.modDom_now (i : Nat) (g : DomSt → DomSt) : (s.modDom i g).now = s.now := by rw [State.modDom, State.setDom_now]
@[simp] theorem State.modDom_free (i : Nat) (g : DomSt → DomSt) : (s.modDom i g).free = s.free := by rw [State.modDom, State.setDom_free]
@[simp] theorem State.modDom_regs (i : Nat) (g : DomSt → DomSt) : (s.modDom i g).regs = s.regs := by rw [State.modDom, State.setDom_regs]
@[simp] theorem State.modDom_ports (i : Nat) (g : DomSt → DomSt) : (s.modDom i g).ports = s.ports := by rw [State.modDom, State.setDom_ports]
@[simp] theorem State.modDom_pairs (i : Nat) (g : DomSt → DomSt) : (s.modDom i g).pairs = s.pairs := by rw [State.modDom, State.setDom_pairs]
@[simp] theorem State.modDom_links (i : Nat) (g : DomSt → DomSt) : (s.modDom i g).links = s.links := by rw [State.modDom, State.setDom_links]
@[simp] theorem State.modDom_queues (i : Nat) (g : DomSt → DomSt) : (s.modDom i g).queues = s.queues := by rw [State.modDom, State.setDom_queues]
@[simp] theorem State.modDom_hosts (i : Nat) (g : DomSt → DomSt) : (s.modDom i g).hosts = s.hosts := by rw [State.modDom, State.setDom_hosts]
@[simp] theorem State.modDom_lanes (i : Nat) (g : DomSt → DomSt) : (s.modDom i g).lanes = s.lanes := by rw [State.modDom, State.setDom_lanes]
@[simp] theorem State.modDom_laneOf (i : Nat) (g : DomSt → DomSt) : (s.modDom i g).laneOf = s.laneOf := by rw [State.modDom, State.setDom_laneOf]
@[simp] theorem State.modDom_tbl (i : Nat) (g : DomSt → DomSt) : (s.modDom i g).tbl = s.tbl := by rw [State.modDom, State.setDom_tbl]
@[simp] theorem State.modDom_held (i : Nat) (g : DomSt → DomSt) : (s.modDom i g).held = s.held := by rw [State.modDom, State.setDom_held]
@[simp] theorem State.modDom_snr (i : Nat) (g : DomSt → DomSt) : (s.modDom i g).snr = s.snr := by rw [State.modDom, State.setDom_snr]
@[simp] theorem State.modDom_erle (i : Nat) (g : DomSt → DomSt) : (s.modDom i g).erle = s.erle := by rw [State.modDom, State.setDom_erle]
@[simp] theorem State.modDom_errs (i : Nat) (g : DomSt → DomSt) : (s.modDom i g).errs = s.errs := by rw [State.modDom, State.setDom_errs]
@[simp] theorem State.modDom_sigma (i : Nat) (g : DomSt → DomSt) : (s.modDom i g).sigma = s.sigma := by rw [State.modDom, State.setDom_sigma]
@[simp] theorem State.modDom_noise (i : Nat) (g : DomSt → DomSt) : (s.modDom i g).noise = s.noise := by rw [State.modDom, State.setDom_noise]
@[simp] theorem State.modDom_coef (i : Nat) (g : DomSt → DomSt) : (s.modDom i g).coef = s.coef := by rw [State.modDom, State.setDom_coef]
@[simp] theorem State.modDom_seeds (i : Nat) (g : DomSt → DomSt) : (s.modDom i g).seeds = s.seeds := by rw [State.modDom, State.setDom_seeds]
@[simp] theorem State.modDom_banks (i : Nat) (g : DomSt → DomSt) : (s.modDom i g).banks = s.banks := by rw [State.modDom, State.setDom_banks]
@[simp] theorem State.modDom_rows (i : Nat) (g : DomSt → DomSt) : (s.modDom i g).rows = s.rows := by rw [State.modDom, State.setDom_rows]
@[simp] theorem State.modDom_tiles (i : Nat) (g : DomSt → DomSt) : (s.modDom i g).tiles = s.tiles := by rw [State.modDom, State.setDom_tiles]
@[simp] theorem State.modDom_diags (i : Nat) (g : DomSt → DomSt) : (s.modDom i g).diags = s.diags := by rw [State.modDom, State.setDom_diags]
@[simp] theorem State.modDom_maps (i : Nat) (g : DomSt → DomSt) : (s.modDom i g).maps = s.maps := by rw [State.modDom, State.setDom_maps]
@[simp] theorem State.modDom_traces (i : Nat) (g : DomSt → DomSt) : (s.modDom i g).traces = s.traces := by rw [State.modDom, State.setDom_traces]
@[simp] theorem State.modDom_cals (i : Nat) (g : DomSt → DomSt) : (s.modDom i g).cals = s.cals := by rw [State.modDom, State.setDom_cals]
@[simp] theorem State.modDom_calRuns (i : Nat) (g : DomSt → DomSt) : (s.modDom i g).calRuns = s.calRuns := by rw [State.modDom, State.setDom_calRuns]
@[simp] theorem State.modDom_calSaved (i : Nat) (g : DomSt → DomSt) : (s.modDom i g).calSaved = s.calSaved := by rw [State.modDom, State.setDom_calSaved]
@[simp] theorem State.modDom_queued (i : Nat) (g : DomSt → DomSt) : (s.modDom i g).queued = s.queued := by rw [State.modDom, State.setDom_queued]
@[simp] theorem State.modDom_running (i : Nat) (g : DomSt → DomSt) : (s.modDom i g).running = s.running := by rw [State.modDom, State.setDom_running]
@[simp] theorem State.modDom_kept (i : Nat) (g : DomSt → DomSt) : (s.modDom i g).kept = s.kept := by rw [State.modDom, State.setDom_kept]
@[simp] theorem State.modDom_jobs (i : Nat) (g : DomSt → DomSt) : (s.modDom i g).jobs = s.jobs := by rw [State.modDom, State.setDom_jobs]
@[simp] theorem State.modDom_records (i : Nat) (g : DomSt → DomSt) : (s.modDom i g).records = s.records := by rw [State.modDom, State.setDom_records]
@[simp] theorem State.modDom_eyes (i : Nat) (g : DomSt → DomSt) : (s.modDom i g).eyes = s.eyes := by rw [State.modDom, State.setDom_eyes]
@[simp] theorem State.modDom_completions (i : Nat) (g : DomSt → DomSt) : (s.modDom i g).completions = s.completions := by rw [State.modDom, State.setDom_completions]
@[simp] theorem State.modDom_claims (i : Nat) (g : DomSt → DomSt) : (s.modDom i g).claims = s.claims := by rw [State.modDom, State.setDom_claims]
@[simp] theorem State.modDom_waiting (i : Nat) (g : DomSt → DomSt) : (s.modDom i g).waiting = s.waiting := by rw [State.modDom, State.setDom_waiting]
@[simp] theorem State.modDom_later (i : Nat) (g : DomSt → DomSt) : (s.modDom i g).later = s.later := by rw [State.modDom, State.setDom_later]
@[simp] theorem State.modDom_granted (i : Nat) (g : DomSt → DomSt) : (s.modDom i g).granted = s.granted := by rw [State.modDom, State.setDom_granted]
@[simp] theorem State.modDom_tests (i : Nat) (g : DomSt → DomSt) : (s.modDom i g).tests = s.tests := by rw [State.modDom, State.setDom_tests]
@[simp] theorem State.modDom_nvOpen (i : Nat) (g : DomSt → DomSt) : (s.modDom i g).nvOpen = s.nvOpen := by rw [State.modDom, State.setDom_nvOpen]
@[simp] theorem State.modDom_mram (i : Nat) (g : DomSt → DomSt) : (s.modDom i g).mram = s.mram := by rw [State.modDom, State.setDom_mram]
@[simp] theorem State.modDom_gbQueue (i : Nat) (g : DomSt → DomSt) : (s.modDom i g).gbQueue = s.gbQueue := by rw [State.modDom, State.setDom_gbQueue]
@[simp] theorem State.modDom_gbLimits (i : Nat) (g : DomSt → DomSt) : (s.modDom i g).gbLimits = s.gbLimits := by rw [State.modDom, State.setDom_gbLimits]
@[simp] theorem State.modDom_gbWindow (i : Nat) (g : DomSt → DomSt) : (s.modDom i g).gbWindow = s.gbWindow := by rw [State.modDom, State.setDom_gbWindow]
@[simp] theorem State.modDom_shadows (i : Nat) (g : DomSt → DomSt) : (s.modDom i g).shadows = s.shadows := by rw [State.modDom, State.setDom_shadows]
@[simp] theorem State.modDom_highs (i : Nat) (g : DomSt → DomSt) : (s.modDom i g).highs = s.highs := by rw [State.modDom, State.setDom_highs]
@[simp] theorem State.modDom_core (i : Nat) (g : DomSt → DomSt) : (s.modDom i g).core = s.core := by rw [State.modDom, State.setDom_core]
@[simp] theorem State.modDom_hub (i : Nat) (g : DomSt → DomSt) : (s.modDom i g).hub = s.hub := by rw [State.modDom, State.setDom_hub]
@[simp] theorem State.modDom_raised (i : Nat) (g : DomSt → DomSt) : (s.modDom i g).raised = s.raised := by rw [State.modDom, State.setDom_raised]
@[simp] theorem State.modDom_out (i : Nat) (g : DomSt → DomSt) : (s.modDom i g).out = s.out := by rw [State.modDom, State.setDom_out]
@[simp] theorem State.modDom_pending (i : Nat) (g : DomSt → DomSt) : (s.modDom i g).pending = s.pending := by rw [State.modDom, State.setDom_pending]

@[simp] theorem State.setCal_now (item target : Nat) (v : CalSt) : (s.setCal item target v).now = s.now := by rw [State.setCal]
@[simp] theorem State.setCal_free (item target : Nat) (v : CalSt) : (s.setCal item target v).free = s.free := by rw [State.setCal]
@[simp] theorem State.setCal_regs (item target : Nat) (v : CalSt) : (s.setCal item target v).regs = s.regs := by rw [State.setCal]
@[simp] theorem State.setCal_ports (item target : Nat) (v : CalSt) : (s.setCal item target v).ports = s.ports := by rw [State.setCal]
@[simp] theorem State.setCal_pairs (item target : Nat) (v : CalSt) : (s.setCal item target v).pairs = s.pairs := by rw [State.setCal]
@[simp] theorem State.setCal_links (item target : Nat) (v : CalSt) : (s.setCal item target v).links = s.links := by rw [State.setCal]
@[simp] theorem State.setCal_queues (item target : Nat) (v : CalSt) : (s.setCal item target v).queues = s.queues := by rw [State.setCal]
@[simp] theorem State.setCal_hosts (item target : Nat) (v : CalSt) : (s.setCal item target v).hosts = s.hosts := by rw [State.setCal]
@[simp] theorem State.setCal_lanes (item target : Nat) (v : CalSt) : (s.setCal item target v).lanes = s.lanes := by rw [State.setCal]
@[simp] theorem State.setCal_laneOf (item target : Nat) (v : CalSt) : (s.setCal item target v).laneOf = s.laneOf := by rw [State.setCal]
@[simp] theorem State.setCal_tbl (item target : Nat) (v : CalSt) : (s.setCal item target v).tbl = s.tbl := by rw [State.setCal]
@[simp] theorem State.setCal_held (item target : Nat) (v : CalSt) : (s.setCal item target v).held = s.held := by rw [State.setCal]
@[simp] theorem State.setCal_snr (item target : Nat) (v : CalSt) : (s.setCal item target v).snr = s.snr := by rw [State.setCal]
@[simp] theorem State.setCal_erle (item target : Nat) (v : CalSt) : (s.setCal item target v).erle = s.erle := by rw [State.setCal]
@[simp] theorem State.setCal_errs (item target : Nat) (v : CalSt) : (s.setCal item target v).errs = s.errs := by rw [State.setCal]
@[simp] theorem State.setCal_sigma (item target : Nat) (v : CalSt) : (s.setCal item target v).sigma = s.sigma := by rw [State.setCal]
@[simp] theorem State.setCal_noise (item target : Nat) (v : CalSt) : (s.setCal item target v).noise = s.noise := by rw [State.setCal]
@[simp] theorem State.setCal_coef (item target : Nat) (v : CalSt) : (s.setCal item target v).coef = s.coef := by rw [State.setCal]
@[simp] theorem State.setCal_seeds (item target : Nat) (v : CalSt) : (s.setCal item target v).seeds = s.seeds := by rw [State.setCal]
@[simp] theorem State.setCal_banks (item target : Nat) (v : CalSt) : (s.setCal item target v).banks = s.banks := by rw [State.setCal]
@[simp] theorem State.setCal_rows (item target : Nat) (v : CalSt) : (s.setCal item target v).rows = s.rows := by rw [State.setCal]
@[simp] theorem State.setCal_tiles (item target : Nat) (v : CalSt) : (s.setCal item target v).tiles = s.tiles := by rw [State.setCal]
@[simp] theorem State.setCal_diags (item target : Nat) (v : CalSt) : (s.setCal item target v).diags = s.diags := by rw [State.setCal]
@[simp] theorem State.setCal_maps (item target : Nat) (v : CalSt) : (s.setCal item target v).maps = s.maps := by rw [State.setCal]
@[simp] theorem State.setCal_traces (item target : Nat) (v : CalSt) : (s.setCal item target v).traces = s.traces := by rw [State.setCal]
@[simp] theorem State.setCal_doms (item target : Nat) (v : CalSt) : (s.setCal item target v).doms = s.doms := by rw [State.setCal]
@[simp] theorem State.setCal_calRuns (item target : Nat) (v : CalSt) : (s.setCal item target v).calRuns = s.calRuns := by rw [State.setCal]
@[simp] theorem State.setCal_calSaved (item target : Nat) (v : CalSt) : (s.setCal item target v).calSaved = s.calSaved := by rw [State.setCal]
@[simp] theorem State.setCal_queued (item target : Nat) (v : CalSt) : (s.setCal item target v).queued = s.queued := by rw [State.setCal]
@[simp] theorem State.setCal_running (item target : Nat) (v : CalSt) : (s.setCal item target v).running = s.running := by rw [State.setCal]
@[simp] theorem State.setCal_kept (item target : Nat) (v : CalSt) : (s.setCal item target v).kept = s.kept := by rw [State.setCal]
@[simp] theorem State.setCal_jobs (item target : Nat) (v : CalSt) : (s.setCal item target v).jobs = s.jobs := by rw [State.setCal]
@[simp] theorem State.setCal_records (item target : Nat) (v : CalSt) : (s.setCal item target v).records = s.records := by rw [State.setCal]
@[simp] theorem State.setCal_eyes (item target : Nat) (v : CalSt) : (s.setCal item target v).eyes = s.eyes := by rw [State.setCal]
@[simp] theorem State.setCal_completions (item target : Nat) (v : CalSt) : (s.setCal item target v).completions = s.completions := by rw [State.setCal]
@[simp] theorem State.setCal_claims (item target : Nat) (v : CalSt) : (s.setCal item target v).claims = s.claims := by rw [State.setCal]
@[simp] theorem State.setCal_waiting (item target : Nat) (v : CalSt) : (s.setCal item target v).waiting = s.waiting := by rw [State.setCal]
@[simp] theorem State.setCal_later (item target : Nat) (v : CalSt) : (s.setCal item target v).later = s.later := by rw [State.setCal]
@[simp] theorem State.setCal_granted (item target : Nat) (v : CalSt) : (s.setCal item target v).granted = s.granted := by rw [State.setCal]
@[simp] theorem State.setCal_tests (item target : Nat) (v : CalSt) : (s.setCal item target v).tests = s.tests := by rw [State.setCal]
@[simp] theorem State.setCal_nvOpen (item target : Nat) (v : CalSt) : (s.setCal item target v).nvOpen = s.nvOpen := by rw [State.setCal]
@[simp] theorem State.setCal_mram (item target : Nat) (v : CalSt) : (s.setCal item target v).mram = s.mram := by rw [State.setCal]
@[simp] theorem State.setCal_gbQueue (item target : Nat) (v : CalSt) : (s.setCal item target v).gbQueue = s.gbQueue := by rw [State.setCal]
@[simp] theorem State.setCal_gbLimits (item target : Nat) (v : CalSt) : (s.setCal item target v).gbLimits = s.gbLimits := by rw [State.setCal]
@[simp] theorem State.setCal_gbWindow (item target : Nat) (v : CalSt) : (s.setCal item target v).gbWindow = s.gbWindow := by rw [State.setCal]
@[simp] theorem State.setCal_shadows (item target : Nat) (v : CalSt) : (s.setCal item target v).shadows = s.shadows := by rw [State.setCal]
@[simp] theorem State.setCal_highs (item target : Nat) (v : CalSt) : (s.setCal item target v).highs = s.highs := by rw [State.setCal]
@[simp] theorem State.setCal_core (item target : Nat) (v : CalSt) : (s.setCal item target v).core = s.core := by rw [State.setCal]
@[simp] theorem State.setCal_hub (item target : Nat) (v : CalSt) : (s.setCal item target v).hub = s.hub := by rw [State.setCal]
@[simp] theorem State.setCal_raised (item target : Nat) (v : CalSt) : (s.setCal item target v).raised = s.raised := by rw [State.setCal]
@[simp] theorem State.setCal_out (item target : Nat) (v : CalSt) : (s.setCal item target v).out = s.out := by rw [State.setCal]
@[simp] theorem State.setCal_pending (item target : Nat) (v : CalSt) : (s.setCal item target v).pending = s.pending := by rw [State.setCal]

@[simp] theorem State.modCal_now (item target : Nat) (g : CalSt → CalSt) : (s.modCal item target g).now = s.now := by rw [State.modCal, State.setCal_now]
@[simp] theorem State.modCal_free (item target : Nat) (g : CalSt → CalSt) : (s.modCal item target g).free = s.free := by rw [State.modCal, State.setCal_free]
@[simp] theorem State.modCal_regs (item target : Nat) (g : CalSt → CalSt) : (s.modCal item target g).regs = s.regs := by rw [State.modCal, State.setCal_regs]
@[simp] theorem State.modCal_ports (item target : Nat) (g : CalSt → CalSt) : (s.modCal item target g).ports = s.ports := by rw [State.modCal, State.setCal_ports]
@[simp] theorem State.modCal_pairs (item target : Nat) (g : CalSt → CalSt) : (s.modCal item target g).pairs = s.pairs := by rw [State.modCal, State.setCal_pairs]
@[simp] theorem State.modCal_links (item target : Nat) (g : CalSt → CalSt) : (s.modCal item target g).links = s.links := by rw [State.modCal, State.setCal_links]
@[simp] theorem State.modCal_queues (item target : Nat) (g : CalSt → CalSt) : (s.modCal item target g).queues = s.queues := by rw [State.modCal, State.setCal_queues]
@[simp] theorem State.modCal_hosts (item target : Nat) (g : CalSt → CalSt) : (s.modCal item target g).hosts = s.hosts := by rw [State.modCal, State.setCal_hosts]
@[simp] theorem State.modCal_lanes (item target : Nat) (g : CalSt → CalSt) : (s.modCal item target g).lanes = s.lanes := by rw [State.modCal, State.setCal_lanes]
@[simp] theorem State.modCal_laneOf (item target : Nat) (g : CalSt → CalSt) : (s.modCal item target g).laneOf = s.laneOf := by rw [State.modCal, State.setCal_laneOf]
@[simp] theorem State.modCal_tbl (item target : Nat) (g : CalSt → CalSt) : (s.modCal item target g).tbl = s.tbl := by rw [State.modCal, State.setCal_tbl]
@[simp] theorem State.modCal_held (item target : Nat) (g : CalSt → CalSt) : (s.modCal item target g).held = s.held := by rw [State.modCal, State.setCal_held]
@[simp] theorem State.modCal_snr (item target : Nat) (g : CalSt → CalSt) : (s.modCal item target g).snr = s.snr := by rw [State.modCal, State.setCal_snr]
@[simp] theorem State.modCal_erle (item target : Nat) (g : CalSt → CalSt) : (s.modCal item target g).erle = s.erle := by rw [State.modCal, State.setCal_erle]
@[simp] theorem State.modCal_errs (item target : Nat) (g : CalSt → CalSt) : (s.modCal item target g).errs = s.errs := by rw [State.modCal, State.setCal_errs]
@[simp] theorem State.modCal_sigma (item target : Nat) (g : CalSt → CalSt) : (s.modCal item target g).sigma = s.sigma := by rw [State.modCal, State.setCal_sigma]
@[simp] theorem State.modCal_noise (item target : Nat) (g : CalSt → CalSt) : (s.modCal item target g).noise = s.noise := by rw [State.modCal, State.setCal_noise]
@[simp] theorem State.modCal_coef (item target : Nat) (g : CalSt → CalSt) : (s.modCal item target g).coef = s.coef := by rw [State.modCal, State.setCal_coef]
@[simp] theorem State.modCal_seeds (item target : Nat) (g : CalSt → CalSt) : (s.modCal item target g).seeds = s.seeds := by rw [State.modCal, State.setCal_seeds]
@[simp] theorem State.modCal_banks (item target : Nat) (g : CalSt → CalSt) : (s.modCal item target g).banks = s.banks := by rw [State.modCal, State.setCal_banks]
@[simp] theorem State.modCal_rows (item target : Nat) (g : CalSt → CalSt) : (s.modCal item target g).rows = s.rows := by rw [State.modCal, State.setCal_rows]
@[simp] theorem State.modCal_tiles (item target : Nat) (g : CalSt → CalSt) : (s.modCal item target g).tiles = s.tiles := by rw [State.modCal, State.setCal_tiles]
@[simp] theorem State.modCal_diags (item target : Nat) (g : CalSt → CalSt) : (s.modCal item target g).diags = s.diags := by rw [State.modCal, State.setCal_diags]
@[simp] theorem State.modCal_maps (item target : Nat) (g : CalSt → CalSt) : (s.modCal item target g).maps = s.maps := by rw [State.modCal, State.setCal_maps]
@[simp] theorem State.modCal_traces (item target : Nat) (g : CalSt → CalSt) : (s.modCal item target g).traces = s.traces := by rw [State.modCal, State.setCal_traces]
@[simp] theorem State.modCal_doms (item target : Nat) (g : CalSt → CalSt) : (s.modCal item target g).doms = s.doms := by rw [State.modCal, State.setCal_doms]
@[simp] theorem State.modCal_calRuns (item target : Nat) (g : CalSt → CalSt) : (s.modCal item target g).calRuns = s.calRuns := by rw [State.modCal, State.setCal_calRuns]
@[simp] theorem State.modCal_calSaved (item target : Nat) (g : CalSt → CalSt) : (s.modCal item target g).calSaved = s.calSaved := by rw [State.modCal, State.setCal_calSaved]
@[simp] theorem State.modCal_queued (item target : Nat) (g : CalSt → CalSt) : (s.modCal item target g).queued = s.queued := by rw [State.modCal, State.setCal_queued]
@[simp] theorem State.modCal_running (item target : Nat) (g : CalSt → CalSt) : (s.modCal item target g).running = s.running := by rw [State.modCal, State.setCal_running]
@[simp] theorem State.modCal_kept (item target : Nat) (g : CalSt → CalSt) : (s.modCal item target g).kept = s.kept := by rw [State.modCal, State.setCal_kept]
@[simp] theorem State.modCal_jobs (item target : Nat) (g : CalSt → CalSt) : (s.modCal item target g).jobs = s.jobs := by rw [State.modCal, State.setCal_jobs]
@[simp] theorem State.modCal_records (item target : Nat) (g : CalSt → CalSt) : (s.modCal item target g).records = s.records := by rw [State.modCal, State.setCal_records]
@[simp] theorem State.modCal_eyes (item target : Nat) (g : CalSt → CalSt) : (s.modCal item target g).eyes = s.eyes := by rw [State.modCal, State.setCal_eyes]
@[simp] theorem State.modCal_completions (item target : Nat) (g : CalSt → CalSt) : (s.modCal item target g).completions = s.completions := by rw [State.modCal, State.setCal_completions]
@[simp] theorem State.modCal_claims (item target : Nat) (g : CalSt → CalSt) : (s.modCal item target g).claims = s.claims := by rw [State.modCal, State.setCal_claims]
@[simp] theorem State.modCal_waiting (item target : Nat) (g : CalSt → CalSt) : (s.modCal item target g).waiting = s.waiting := by rw [State.modCal, State.setCal_waiting]
@[simp] theorem State.modCal_later (item target : Nat) (g : CalSt → CalSt) : (s.modCal item target g).later = s.later := by rw [State.modCal, State.setCal_later]
@[simp] theorem State.modCal_granted (item target : Nat) (g : CalSt → CalSt) : (s.modCal item target g).granted = s.granted := by rw [State.modCal, State.setCal_granted]
@[simp] theorem State.modCal_tests (item target : Nat) (g : CalSt → CalSt) : (s.modCal item target g).tests = s.tests := by rw [State.modCal, State.setCal_tests]
@[simp] theorem State.modCal_nvOpen (item target : Nat) (g : CalSt → CalSt) : (s.modCal item target g).nvOpen = s.nvOpen := by rw [State.modCal, State.setCal_nvOpen]
@[simp] theorem State.modCal_mram (item target : Nat) (g : CalSt → CalSt) : (s.modCal item target g).mram = s.mram := by rw [State.modCal, State.setCal_mram]
@[simp] theorem State.modCal_gbQueue (item target : Nat) (g : CalSt → CalSt) : (s.modCal item target g).gbQueue = s.gbQueue := by rw [State.modCal, State.setCal_gbQueue]
@[simp] theorem State.modCal_gbLimits (item target : Nat) (g : CalSt → CalSt) : (s.modCal item target g).gbLimits = s.gbLimits := by rw [State.modCal, State.setCal_gbLimits]
@[simp] theorem State.modCal_gbWindow (item target : Nat) (g : CalSt → CalSt) : (s.modCal item target g).gbWindow = s.gbWindow := by rw [State.modCal, State.setCal_gbWindow]
@[simp] theorem State.modCal_shadows (item target : Nat) (g : CalSt → CalSt) : (s.modCal item target g).shadows = s.shadows := by rw [State.modCal, State.setCal_shadows]
@[simp] theorem State.modCal_highs (item target : Nat) (g : CalSt → CalSt) : (s.modCal item target g).highs = s.highs := by rw [State.modCal, State.setCal_highs]
@[simp] theorem State.modCal_core (item target : Nat) (g : CalSt → CalSt) : (s.modCal item target g).core = s.core := by rw [State.modCal, State.setCal_core]
@[simp] theorem State.modCal_hub (item target : Nat) (g : CalSt → CalSt) : (s.modCal item target g).hub = s.hub := by rw [State.modCal, State.setCal_hub]
@[simp] theorem State.modCal_raised (item target : Nat) (g : CalSt → CalSt) : (s.modCal item target g).raised = s.raised := by rw [State.modCal, State.setCal_raised]
@[simp] theorem State.modCal_out (item target : Nat) (g : CalSt → CalSt) : (s.modCal item target g).out = s.out := by rw [State.modCal, State.setCal_out]
@[simp] theorem State.modCal_pending (item target : Nat) (g : CalSt → CalSt) : (s.modCal item target g).pending = s.pending := by rw [State.modCal, State.setCal_pending]

@[simp] theorem State.setMap_now (g m k v : Nat) : (s.setMap g m k v).now = s.now := by rw [State.setMap]
@[simp] theorem State.setMap_free (g m k v : Nat) : (s.setMap g m k v).free = s.free := by rw [State.setMap]
@[simp] theorem State.setMap_regs (g m k v : Nat) : (s.setMap g m k v).regs = s.regs := by rw [State.setMap]
@[simp] theorem State.setMap_ports (g m k v : Nat) : (s.setMap g m k v).ports = s.ports := by rw [State.setMap]
@[simp] theorem State.setMap_pairs (g m k v : Nat) : (s.setMap g m k v).pairs = s.pairs := by rw [State.setMap]
@[simp] theorem State.setMap_links (g m k v : Nat) : (s.setMap g m k v).links = s.links := by rw [State.setMap]
@[simp] theorem State.setMap_queues (g m k v : Nat) : (s.setMap g m k v).queues = s.queues := by rw [State.setMap]
@[simp] theorem State.setMap_hosts (g m k v : Nat) : (s.setMap g m k v).hosts = s.hosts := by rw [State.setMap]
@[simp] theorem State.setMap_lanes (g m k v : Nat) : (s.setMap g m k v).lanes = s.lanes := by rw [State.setMap]
@[simp] theorem State.setMap_laneOf (g m k v : Nat) : (s.setMap g m k v).laneOf = s.laneOf := by rw [State.setMap]
@[simp] theorem State.setMap_tbl (g m k v : Nat) : (s.setMap g m k v).tbl = s.tbl := by rw [State.setMap]
@[simp] theorem State.setMap_held (g m k v : Nat) : (s.setMap g m k v).held = s.held := by rw [State.setMap]
@[simp] theorem State.setMap_snr (g m k v : Nat) : (s.setMap g m k v).snr = s.snr := by rw [State.setMap]
@[simp] theorem State.setMap_erle (g m k v : Nat) : (s.setMap g m k v).erle = s.erle := by rw [State.setMap]
@[simp] theorem State.setMap_errs (g m k v : Nat) : (s.setMap g m k v).errs = s.errs := by rw [State.setMap]
@[simp] theorem State.setMap_sigma (g m k v : Nat) : (s.setMap g m k v).sigma = s.sigma := by rw [State.setMap]
@[simp] theorem State.setMap_noise (g m k v : Nat) : (s.setMap g m k v).noise = s.noise := by rw [State.setMap]
@[simp] theorem State.setMap_coef (g m k v : Nat) : (s.setMap g m k v).coef = s.coef := by rw [State.setMap]
@[simp] theorem State.setMap_seeds (g m k v : Nat) : (s.setMap g m k v).seeds = s.seeds := by rw [State.setMap]
@[simp] theorem State.setMap_banks (g m k v : Nat) : (s.setMap g m k v).banks = s.banks := by rw [State.setMap]
@[simp] theorem State.setMap_rows (g m k v : Nat) : (s.setMap g m k v).rows = s.rows := by rw [State.setMap]
@[simp] theorem State.setMap_tiles (g m k v : Nat) : (s.setMap g m k v).tiles = s.tiles := by rw [State.setMap]
@[simp] theorem State.setMap_diags (g m k v : Nat) : (s.setMap g m k v).diags = s.diags := by rw [State.setMap]
@[simp] theorem State.setMap_traces (g m k v : Nat) : (s.setMap g m k v).traces = s.traces := by rw [State.setMap]
@[simp] theorem State.setMap_doms (g m k v : Nat) : (s.setMap g m k v).doms = s.doms := by rw [State.setMap]
@[simp] theorem State.setMap_cals (g m k v : Nat) : (s.setMap g m k v).cals = s.cals := by rw [State.setMap]
@[simp] theorem State.setMap_calRuns (g m k v : Nat) : (s.setMap g m k v).calRuns = s.calRuns := by rw [State.setMap]
@[simp] theorem State.setMap_calSaved (g m k v : Nat) : (s.setMap g m k v).calSaved = s.calSaved := by rw [State.setMap]
@[simp] theorem State.setMap_queued (g m k v : Nat) : (s.setMap g m k v).queued = s.queued := by rw [State.setMap]
@[simp] theorem State.setMap_running (g m k v : Nat) : (s.setMap g m k v).running = s.running := by rw [State.setMap]
@[simp] theorem State.setMap_kept (g m k v : Nat) : (s.setMap g m k v).kept = s.kept := by rw [State.setMap]
@[simp] theorem State.setMap_jobs (g m k v : Nat) : (s.setMap g m k v).jobs = s.jobs := by rw [State.setMap]
@[simp] theorem State.setMap_records (g m k v : Nat) : (s.setMap g m k v).records = s.records := by rw [State.setMap]
@[simp] theorem State.setMap_eyes (g m k v : Nat) : (s.setMap g m k v).eyes = s.eyes := by rw [State.setMap]
@[simp] theorem State.setMap_completions (g m k v : Nat) : (s.setMap g m k v).completions = s.completions := by rw [State.setMap]
@[simp] theorem State.setMap_claims (g m k v : Nat) : (s.setMap g m k v).claims = s.claims := by rw [State.setMap]
@[simp] theorem State.setMap_waiting (g m k v : Nat) : (s.setMap g m k v).waiting = s.waiting := by rw [State.setMap]
@[simp] theorem State.setMap_later (g m k v : Nat) : (s.setMap g m k v).later = s.later := by rw [State.setMap]
@[simp] theorem State.setMap_granted (g m k v : Nat) : (s.setMap g m k v).granted = s.granted := by rw [State.setMap]
@[simp] theorem State.setMap_tests (g m k v : Nat) : (s.setMap g m k v).tests = s.tests := by rw [State.setMap]
@[simp] theorem State.setMap_nvOpen (g m k v : Nat) : (s.setMap g m k v).nvOpen = s.nvOpen := by rw [State.setMap]
@[simp] theorem State.setMap_mram (g m k v : Nat) : (s.setMap g m k v).mram = s.mram := by rw [State.setMap]
@[simp] theorem State.setMap_gbQueue (g m k v : Nat) : (s.setMap g m k v).gbQueue = s.gbQueue := by rw [State.setMap]
@[simp] theorem State.setMap_gbLimits (g m k v : Nat) : (s.setMap g m k v).gbLimits = s.gbLimits := by rw [State.setMap]
@[simp] theorem State.setMap_gbWindow (g m k v : Nat) : (s.setMap g m k v).gbWindow = s.gbWindow := by rw [State.setMap]
@[simp] theorem State.setMap_shadows (g m k v : Nat) : (s.setMap g m k v).shadows = s.shadows := by rw [State.setMap]
@[simp] theorem State.setMap_highs (g m k v : Nat) : (s.setMap g m k v).highs = s.highs := by rw [State.setMap]
@[simp] theorem State.setMap_core (g m k v : Nat) : (s.setMap g m k v).core = s.core := by rw [State.setMap]
@[simp] theorem State.setMap_hub (g m k v : Nat) : (s.setMap g m k v).hub = s.hub := by rw [State.setMap]
@[simp] theorem State.setMap_raised (g m k v : Nat) : (s.setMap g m k v).raised = s.raised := by rw [State.setMap]
@[simp] theorem State.setMap_out (g m k v : Nat) : (s.setMap g m k v).out = s.out := by rw [State.setMap]
@[simp] theorem State.setMap_pending (g m k v : Nat) : (s.setMap g m k v).pending = s.pending := by rw [State.setMap]

@[simp] theorem State.setTap_now (g src i v : Nat) : (s.setTap g src i v).now = s.now := by rw [State.setTap]
@[simp] theorem State.setTap_free (g src i v : Nat) : (s.setTap g src i v).free = s.free := by rw [State.setTap]
@[simp] theorem State.setTap_regs (g src i v : Nat) : (s.setTap g src i v).regs = s.regs := by rw [State.setTap]
@[simp] theorem State.setTap_ports (g src i v : Nat) : (s.setTap g src i v).ports = s.ports := by rw [State.setTap]
@[simp] theorem State.setTap_pairs (g src i v : Nat) : (s.setTap g src i v).pairs = s.pairs := by rw [State.setTap]
@[simp] theorem State.setTap_links (g src i v : Nat) : (s.setTap g src i v).links = s.links := by rw [State.setTap]
@[simp] theorem State.setTap_queues (g src i v : Nat) : (s.setTap g src i v).queues = s.queues := by rw [State.setTap]
@[simp] theorem State.setTap_hosts (g src i v : Nat) : (s.setTap g src i v).hosts = s.hosts := by rw [State.setTap]
@[simp] theorem State.setTap_lanes (g src i v : Nat) : (s.setTap g src i v).lanes = s.lanes := by rw [State.setTap]
@[simp] theorem State.setTap_laneOf (g src i v : Nat) : (s.setTap g src i v).laneOf = s.laneOf := by rw [State.setTap]
@[simp] theorem State.setTap_tbl (g src i v : Nat) : (s.setTap g src i v).tbl = s.tbl := by rw [State.setTap]
@[simp] theorem State.setTap_held (g src i v : Nat) : (s.setTap g src i v).held = s.held := by rw [State.setTap]
@[simp] theorem State.setTap_snr (g src i v : Nat) : (s.setTap g src i v).snr = s.snr := by rw [State.setTap]
@[simp] theorem State.setTap_erle (g src i v : Nat) : (s.setTap g src i v).erle = s.erle := by rw [State.setTap]
@[simp] theorem State.setTap_errs (g src i v : Nat) : (s.setTap g src i v).errs = s.errs := by rw [State.setTap]
@[simp] theorem State.setTap_sigma (g src i v : Nat) : (s.setTap g src i v).sigma = s.sigma := by rw [State.setTap]
@[simp] theorem State.setTap_noise (g src i v : Nat) : (s.setTap g src i v).noise = s.noise := by rw [State.setTap]
@[simp] theorem State.setTap_coef (g src i v : Nat) : (s.setTap g src i v).coef = s.coef := by rw [State.setTap]
@[simp] theorem State.setTap_seeds (g src i v : Nat) : (s.setTap g src i v).seeds = s.seeds := by rw [State.setTap]
@[simp] theorem State.setTap_banks (g src i v : Nat) : (s.setTap g src i v).banks = s.banks := by rw [State.setTap]
@[simp] theorem State.setTap_rows (g src i v : Nat) : (s.setTap g src i v).rows = s.rows := by rw [State.setTap]
@[simp] theorem State.setTap_tiles (g src i v : Nat) : (s.setTap g src i v).tiles = s.tiles := by rw [State.setTap]
@[simp] theorem State.setTap_diags (g src i v : Nat) : (s.setTap g src i v).diags = s.diags := by rw [State.setTap]
@[simp] theorem State.setTap_maps (g src i v : Nat) : (s.setTap g src i v).maps = s.maps := by rw [State.setTap]
@[simp] theorem State.setTap_doms (g src i v : Nat) : (s.setTap g src i v).doms = s.doms := by rw [State.setTap]
@[simp] theorem State.setTap_cals (g src i v : Nat) : (s.setTap g src i v).cals = s.cals := by rw [State.setTap]
@[simp] theorem State.setTap_calRuns (g src i v : Nat) : (s.setTap g src i v).calRuns = s.calRuns := by rw [State.setTap]
@[simp] theorem State.setTap_calSaved (g src i v : Nat) : (s.setTap g src i v).calSaved = s.calSaved := by rw [State.setTap]
@[simp] theorem State.setTap_queued (g src i v : Nat) : (s.setTap g src i v).queued = s.queued := by rw [State.setTap]
@[simp] theorem State.setTap_running (g src i v : Nat) : (s.setTap g src i v).running = s.running := by rw [State.setTap]
@[simp] theorem State.setTap_kept (g src i v : Nat) : (s.setTap g src i v).kept = s.kept := by rw [State.setTap]
@[simp] theorem State.setTap_jobs (g src i v : Nat) : (s.setTap g src i v).jobs = s.jobs := by rw [State.setTap]
@[simp] theorem State.setTap_records (g src i v : Nat) : (s.setTap g src i v).records = s.records := by rw [State.setTap]
@[simp] theorem State.setTap_eyes (g src i v : Nat) : (s.setTap g src i v).eyes = s.eyes := by rw [State.setTap]
@[simp] theorem State.setTap_completions (g src i v : Nat) : (s.setTap g src i v).completions = s.completions := by rw [State.setTap]
@[simp] theorem State.setTap_claims (g src i v : Nat) : (s.setTap g src i v).claims = s.claims := by rw [State.setTap]
@[simp] theorem State.setTap_waiting (g src i v : Nat) : (s.setTap g src i v).waiting = s.waiting := by rw [State.setTap]
@[simp] theorem State.setTap_later (g src i v : Nat) : (s.setTap g src i v).later = s.later := by rw [State.setTap]
@[simp] theorem State.setTap_granted (g src i v : Nat) : (s.setTap g src i v).granted = s.granted := by rw [State.setTap]
@[simp] theorem State.setTap_tests (g src i v : Nat) : (s.setTap g src i v).tests = s.tests := by rw [State.setTap]
@[simp] theorem State.setTap_nvOpen (g src i v : Nat) : (s.setTap g src i v).nvOpen = s.nvOpen := by rw [State.setTap]
@[simp] theorem State.setTap_mram (g src i v : Nat) : (s.setTap g src i v).mram = s.mram := by rw [State.setTap]
@[simp] theorem State.setTap_gbQueue (g src i v : Nat) : (s.setTap g src i v).gbQueue = s.gbQueue := by rw [State.setTap]
@[simp] theorem State.setTap_gbLimits (g src i v : Nat) : (s.setTap g src i v).gbLimits = s.gbLimits := by rw [State.setTap]
@[simp] theorem State.setTap_gbWindow (g src i v : Nat) : (s.setTap g src i v).gbWindow = s.gbWindow := by rw [State.setTap]
@[simp] theorem State.setTap_shadows (g src i v : Nat) : (s.setTap g src i v).shadows = s.shadows := by rw [State.setTap]
@[simp] theorem State.setTap_highs (g src i v : Nat) : (s.setTap g src i v).highs = s.highs := by rw [State.setTap]
@[simp] theorem State.setTap_core (g src i v : Nat) : (s.setTap g src i v).core = s.core := by rw [State.setTap]
@[simp] theorem State.setTap_hub (g src i v : Nat) : (s.setTap g src i v).hub = s.hub := by rw [State.setTap]
@[simp] theorem State.setTap_raised (g src i v : Nat) : (s.setTap g src i v).raised = s.raised := by rw [State.setTap]
@[simp] theorem State.setTap_out (g src i v : Nat) : (s.setTap g src i v).out = s.out := by rw [State.setTap]
@[simp] theorem State.setTap_pending (g src i v : Nat) : (s.setTap g src i v).pending = s.pending := by rw [State.setTap]

@[simp] theorem State.modHub_now (g : HubSt → HubSt) : (s.modHub g).now = s.now := by rw [State.modHub]
@[simp] theorem State.modHub_free (g : HubSt → HubSt) : (s.modHub g).free = s.free := by rw [State.modHub]
@[simp] theorem State.modHub_regs (g : HubSt → HubSt) : (s.modHub g).regs = s.regs := by rw [State.modHub]
@[simp] theorem State.modHub_ports (g : HubSt → HubSt) : (s.modHub g).ports = s.ports := by rw [State.modHub]
@[simp] theorem State.modHub_pairs (g : HubSt → HubSt) : (s.modHub g).pairs = s.pairs := by rw [State.modHub]
@[simp] theorem State.modHub_links (g : HubSt → HubSt) : (s.modHub g).links = s.links := by rw [State.modHub]
@[simp] theorem State.modHub_queues (g : HubSt → HubSt) : (s.modHub g).queues = s.queues := by rw [State.modHub]
@[simp] theorem State.modHub_hosts (g : HubSt → HubSt) : (s.modHub g).hosts = s.hosts := by rw [State.modHub]
@[simp] theorem State.modHub_lanes (g : HubSt → HubSt) : (s.modHub g).lanes = s.lanes := by rw [State.modHub]
@[simp] theorem State.modHub_laneOf (g : HubSt → HubSt) : (s.modHub g).laneOf = s.laneOf := by rw [State.modHub]
@[simp] theorem State.modHub_tbl (g : HubSt → HubSt) : (s.modHub g).tbl = s.tbl := by rw [State.modHub]
@[simp] theorem State.modHub_held (g : HubSt → HubSt) : (s.modHub g).held = s.held := by rw [State.modHub]
@[simp] theorem State.modHub_snr (g : HubSt → HubSt) : (s.modHub g).snr = s.snr := by rw [State.modHub]
@[simp] theorem State.modHub_erle (g : HubSt → HubSt) : (s.modHub g).erle = s.erle := by rw [State.modHub]
@[simp] theorem State.modHub_errs (g : HubSt → HubSt) : (s.modHub g).errs = s.errs := by rw [State.modHub]
@[simp] theorem State.modHub_sigma (g : HubSt → HubSt) : (s.modHub g).sigma = s.sigma := by rw [State.modHub]
@[simp] theorem State.modHub_noise (g : HubSt → HubSt) : (s.modHub g).noise = s.noise := by rw [State.modHub]
@[simp] theorem State.modHub_coef (g : HubSt → HubSt) : (s.modHub g).coef = s.coef := by rw [State.modHub]
@[simp] theorem State.modHub_seeds (g : HubSt → HubSt) : (s.modHub g).seeds = s.seeds := by rw [State.modHub]
@[simp] theorem State.modHub_banks (g : HubSt → HubSt) : (s.modHub g).banks = s.banks := by rw [State.modHub]
@[simp] theorem State.modHub_rows (g : HubSt → HubSt) : (s.modHub g).rows = s.rows := by rw [State.modHub]
@[simp] theorem State.modHub_tiles (g : HubSt → HubSt) : (s.modHub g).tiles = s.tiles := by rw [State.modHub]
@[simp] theorem State.modHub_diags (g : HubSt → HubSt) : (s.modHub g).diags = s.diags := by rw [State.modHub]
@[simp] theorem State.modHub_maps (g : HubSt → HubSt) : (s.modHub g).maps = s.maps := by rw [State.modHub]
@[simp] theorem State.modHub_traces (g : HubSt → HubSt) : (s.modHub g).traces = s.traces := by rw [State.modHub]
@[simp] theorem State.modHub_doms (g : HubSt → HubSt) : (s.modHub g).doms = s.doms := by rw [State.modHub]
@[simp] theorem State.modHub_cals (g : HubSt → HubSt) : (s.modHub g).cals = s.cals := by rw [State.modHub]
@[simp] theorem State.modHub_calRuns (g : HubSt → HubSt) : (s.modHub g).calRuns = s.calRuns := by rw [State.modHub]
@[simp] theorem State.modHub_calSaved (g : HubSt → HubSt) : (s.modHub g).calSaved = s.calSaved := by rw [State.modHub]
@[simp] theorem State.modHub_queued (g : HubSt → HubSt) : (s.modHub g).queued = s.queued := by rw [State.modHub]
@[simp] theorem State.modHub_running (g : HubSt → HubSt) : (s.modHub g).running = s.running := by rw [State.modHub]
@[simp] theorem State.modHub_kept (g : HubSt → HubSt) : (s.modHub g).kept = s.kept := by rw [State.modHub]
@[simp] theorem State.modHub_jobs (g : HubSt → HubSt) : (s.modHub g).jobs = s.jobs := by rw [State.modHub]
@[simp] theorem State.modHub_records (g : HubSt → HubSt) : (s.modHub g).records = s.records := by rw [State.modHub]
@[simp] theorem State.modHub_eyes (g : HubSt → HubSt) : (s.modHub g).eyes = s.eyes := by rw [State.modHub]
@[simp] theorem State.modHub_completions (g : HubSt → HubSt) : (s.modHub g).completions = s.completions := by rw [State.modHub]
@[simp] theorem State.modHub_claims (g : HubSt → HubSt) : (s.modHub g).claims = s.claims := by rw [State.modHub]
@[simp] theorem State.modHub_waiting (g : HubSt → HubSt) : (s.modHub g).waiting = s.waiting := by rw [State.modHub]
@[simp] theorem State.modHub_later (g : HubSt → HubSt) : (s.modHub g).later = s.later := by rw [State.modHub]
@[simp] theorem State.modHub_granted (g : HubSt → HubSt) : (s.modHub g).granted = s.granted := by rw [State.modHub]
@[simp] theorem State.modHub_tests (g : HubSt → HubSt) : (s.modHub g).tests = s.tests := by rw [State.modHub]
@[simp] theorem State.modHub_nvOpen (g : HubSt → HubSt) : (s.modHub g).nvOpen = s.nvOpen := by rw [State.modHub]
@[simp] theorem State.modHub_mram (g : HubSt → HubSt) : (s.modHub g).mram = s.mram := by rw [State.modHub]
@[simp] theorem State.modHub_gbQueue (g : HubSt → HubSt) : (s.modHub g).gbQueue = s.gbQueue := by rw [State.modHub]
@[simp] theorem State.modHub_gbLimits (g : HubSt → HubSt) : (s.modHub g).gbLimits = s.gbLimits := by rw [State.modHub]
@[simp] theorem State.modHub_gbWindow (g : HubSt → HubSt) : (s.modHub g).gbWindow = s.gbWindow := by rw [State.modHub]
@[simp] theorem State.modHub_shadows (g : HubSt → HubSt) : (s.modHub g).shadows = s.shadows := by rw [State.modHub]
@[simp] theorem State.modHub_highs (g : HubSt → HubSt) : (s.modHub g).highs = s.highs := by rw [State.modHub]
@[simp] theorem State.modHub_core (g : HubSt → HubSt) : (s.modHub g).core = s.core := by rw [State.modHub]
@[simp] theorem State.modHub_raised (g : HubSt → HubSt) : (s.modHub g).raised = s.raised := by rw [State.modHub]
@[simp] theorem State.modHub_out (g : HubSt → HubSt) : (s.modHub g).out = s.out := by rw [State.modHub]
@[simp] theorem State.modHub_pending (g : HubSt → HubSt) : (s.modHub g).pending = s.pending := by rw [State.modHub]

@[simp] theorem State.raise_now (code sev : Nat) (ps : List Nat) : (s.raise code sev ps).now = s.now := by rw [State.raise]
@[simp] theorem State.raise_free (code sev : Nat) (ps : List Nat) : (s.raise code sev ps).free = s.free := by rw [State.raise]
@[simp] theorem State.raise_regs (code sev : Nat) (ps : List Nat) : (s.raise code sev ps).regs = s.regs := by rw [State.raise]
@[simp] theorem State.raise_ports (code sev : Nat) (ps : List Nat) : (s.raise code sev ps).ports = s.ports := by rw [State.raise]
@[simp] theorem State.raise_pairs (code sev : Nat) (ps : List Nat) : (s.raise code sev ps).pairs = s.pairs := by rw [State.raise]
@[simp] theorem State.raise_links (code sev : Nat) (ps : List Nat) : (s.raise code sev ps).links = s.links := by rw [State.raise]
@[simp] theorem State.raise_queues (code sev : Nat) (ps : List Nat) : (s.raise code sev ps).queues = s.queues := by rw [State.raise]
@[simp] theorem State.raise_hosts (code sev : Nat) (ps : List Nat) : (s.raise code sev ps).hosts = s.hosts := by rw [State.raise]
@[simp] theorem State.raise_lanes (code sev : Nat) (ps : List Nat) : (s.raise code sev ps).lanes = s.lanes := by rw [State.raise]
@[simp] theorem State.raise_laneOf (code sev : Nat) (ps : List Nat) : (s.raise code sev ps).laneOf = s.laneOf := by rw [State.raise]
@[simp] theorem State.raise_tbl (code sev : Nat) (ps : List Nat) : (s.raise code sev ps).tbl = s.tbl := by rw [State.raise]
@[simp] theorem State.raise_held (code sev : Nat) (ps : List Nat) : (s.raise code sev ps).held = s.held := by rw [State.raise]
@[simp] theorem State.raise_snr (code sev : Nat) (ps : List Nat) : (s.raise code sev ps).snr = s.snr := by rw [State.raise]
@[simp] theorem State.raise_erle (code sev : Nat) (ps : List Nat) : (s.raise code sev ps).erle = s.erle := by rw [State.raise]
@[simp] theorem State.raise_errs (code sev : Nat) (ps : List Nat) : (s.raise code sev ps).errs = s.errs := by rw [State.raise]
@[simp] theorem State.raise_sigma (code sev : Nat) (ps : List Nat) : (s.raise code sev ps).sigma = s.sigma := by rw [State.raise]
@[simp] theorem State.raise_noise (code sev : Nat) (ps : List Nat) : (s.raise code sev ps).noise = s.noise := by rw [State.raise]
@[simp] theorem State.raise_coef (code sev : Nat) (ps : List Nat) : (s.raise code sev ps).coef = s.coef := by rw [State.raise]
@[simp] theorem State.raise_seeds (code sev : Nat) (ps : List Nat) : (s.raise code sev ps).seeds = s.seeds := by rw [State.raise]
@[simp] theorem State.raise_banks (code sev : Nat) (ps : List Nat) : (s.raise code sev ps).banks = s.banks := by rw [State.raise]
@[simp] theorem State.raise_rows (code sev : Nat) (ps : List Nat) : (s.raise code sev ps).rows = s.rows := by rw [State.raise]
@[simp] theorem State.raise_tiles (code sev : Nat) (ps : List Nat) : (s.raise code sev ps).tiles = s.tiles := by rw [State.raise]
@[simp] theorem State.raise_diags (code sev : Nat) (ps : List Nat) : (s.raise code sev ps).diags = s.diags := by rw [State.raise]
@[simp] theorem State.raise_maps (code sev : Nat) (ps : List Nat) : (s.raise code sev ps).maps = s.maps := by rw [State.raise]
@[simp] theorem State.raise_traces (code sev : Nat) (ps : List Nat) : (s.raise code sev ps).traces = s.traces := by rw [State.raise]
@[simp] theorem State.raise_doms (code sev : Nat) (ps : List Nat) : (s.raise code sev ps).doms = s.doms := by rw [State.raise]
@[simp] theorem State.raise_cals (code sev : Nat) (ps : List Nat) : (s.raise code sev ps).cals = s.cals := by rw [State.raise]
@[simp] theorem State.raise_calRuns (code sev : Nat) (ps : List Nat) : (s.raise code sev ps).calRuns = s.calRuns := by rw [State.raise]
@[simp] theorem State.raise_calSaved (code sev : Nat) (ps : List Nat) : (s.raise code sev ps).calSaved = s.calSaved := by rw [State.raise]
@[simp] theorem State.raise_queued (code sev : Nat) (ps : List Nat) : (s.raise code sev ps).queued = s.queued := by rw [State.raise]
@[simp] theorem State.raise_running (code sev : Nat) (ps : List Nat) : (s.raise code sev ps).running = s.running := by rw [State.raise]
@[simp] theorem State.raise_kept (code sev : Nat) (ps : List Nat) : (s.raise code sev ps).kept = s.kept := by rw [State.raise]
@[simp] theorem State.raise_jobs (code sev : Nat) (ps : List Nat) : (s.raise code sev ps).jobs = s.jobs := by rw [State.raise]
@[simp] theorem State.raise_records (code sev : Nat) (ps : List Nat) : (s.raise code sev ps).records = s.records := by rw [State.raise]
@[simp] theorem State.raise_eyes (code sev : Nat) (ps : List Nat) : (s.raise code sev ps).eyes = s.eyes := by rw [State.raise]
@[simp] theorem State.raise_completions (code sev : Nat) (ps : List Nat) : (s.raise code sev ps).completions = s.completions := by rw [State.raise]
@[simp] theorem State.raise_claims (code sev : Nat) (ps : List Nat) : (s.raise code sev ps).claims = s.claims := by rw [State.raise]
@[simp] theorem State.raise_waiting (code sev : Nat) (ps : List Nat) : (s.raise code sev ps).waiting = s.waiting := by rw [State.raise]
@[simp] theorem State.raise_later (code sev : Nat) (ps : List Nat) : (s.raise code sev ps).later = s.later := by rw [State.raise]
@[simp] theorem State.raise_granted (code sev : Nat) (ps : List Nat) : (s.raise code sev ps).granted = s.granted := by rw [State.raise]
@[simp] theorem State.raise_tests (code sev : Nat) (ps : List Nat) : (s.raise code sev ps).tests = s.tests := by rw [State.raise]
@[simp] theorem State.raise_nvOpen (code sev : Nat) (ps : List Nat) : (s.raise code sev ps).nvOpen = s.nvOpen := by rw [State.raise]
@[simp] theorem State.raise_mram (code sev : Nat) (ps : List Nat) : (s.raise code sev ps).mram = s.mram := by rw [State.raise]
@[simp] theorem State.raise_gbQueue (code sev : Nat) (ps : List Nat) : (s.raise code sev ps).gbQueue = s.gbQueue := by rw [State.raise]
@[simp] theorem State.raise_gbLimits (code sev : Nat) (ps : List Nat) : (s.raise code sev ps).gbLimits = s.gbLimits := by rw [State.raise]
@[simp] theorem State.raise_gbWindow (code sev : Nat) (ps : List Nat) : (s.raise code sev ps).gbWindow = s.gbWindow := by rw [State.raise]
@[simp] theorem State.raise_shadows (code sev : Nat) (ps : List Nat) : (s.raise code sev ps).shadows = s.shadows := by rw [State.raise]
@[simp] theorem State.raise_highs (code sev : Nat) (ps : List Nat) : (s.raise code sev ps).highs = s.highs := by rw [State.raise]
@[simp] theorem State.raise_core (code sev : Nat) (ps : List Nat) : (s.raise code sev ps).core = s.core := by rw [State.raise]
@[simp] theorem State.raise_hub (code sev : Nat) (ps : List Nat) : (s.raise code sev ps).hub = s.hub := by rw [State.raise]
@[simp] theorem State.raise_out (code sev : Nat) (ps : List Nat) : (s.raise code sev ps).out = s.out := by rw [State.raise]
@[simp] theorem State.raise_pending (code sev : Nat) (ps : List Nat) : (s.raise code sev ps).pending = s.pending := by rw [State.raise]

@[simp] theorem State.emit_now (o : Out) : (s.emit o).now = s.now := by rw [State.emit]
@[simp] theorem State.emit_free (o : Out) : (s.emit o).free = s.free := by rw [State.emit]
@[simp] theorem State.emit_regs (o : Out) : (s.emit o).regs = s.regs := by rw [State.emit]
@[simp] theorem State.emit_ports (o : Out) : (s.emit o).ports = s.ports := by rw [State.emit]
@[simp] theorem State.emit_pairs (o : Out) : (s.emit o).pairs = s.pairs := by rw [State.emit]
@[simp] theorem State.emit_links (o : Out) : (s.emit o).links = s.links := by rw [State.emit]
@[simp] theorem State.emit_queues (o : Out) : (s.emit o).queues = s.queues := by rw [State.emit]
@[simp] theorem State.emit_hosts (o : Out) : (s.emit o).hosts = s.hosts := by rw [State.emit]
@[simp] theorem State.emit_lanes (o : Out) : (s.emit o).lanes = s.lanes := by rw [State.emit]
@[simp] theorem State.emit_laneOf (o : Out) : (s.emit o).laneOf = s.laneOf := by rw [State.emit]
@[simp] theorem State.emit_tbl (o : Out) : (s.emit o).tbl = s.tbl := by rw [State.emit]
@[simp] theorem State.emit_held (o : Out) : (s.emit o).held = s.held := by rw [State.emit]
@[simp] theorem State.emit_snr (o : Out) : (s.emit o).snr = s.snr := by rw [State.emit]
@[simp] theorem State.emit_erle (o : Out) : (s.emit o).erle = s.erle := by rw [State.emit]
@[simp] theorem State.emit_errs (o : Out) : (s.emit o).errs = s.errs := by rw [State.emit]
@[simp] theorem State.emit_sigma (o : Out) : (s.emit o).sigma = s.sigma := by rw [State.emit]
@[simp] theorem State.emit_noise (o : Out) : (s.emit o).noise = s.noise := by rw [State.emit]
@[simp] theorem State.emit_coef (o : Out) : (s.emit o).coef = s.coef := by rw [State.emit]
@[simp] theorem State.emit_seeds (o : Out) : (s.emit o).seeds = s.seeds := by rw [State.emit]
@[simp] theorem State.emit_banks (o : Out) : (s.emit o).banks = s.banks := by rw [State.emit]
@[simp] theorem State.emit_rows (o : Out) : (s.emit o).rows = s.rows := by rw [State.emit]
@[simp] theorem State.emit_tiles (o : Out) : (s.emit o).tiles = s.tiles := by rw [State.emit]
@[simp] theorem State.emit_diags (o : Out) : (s.emit o).diags = s.diags := by rw [State.emit]
@[simp] theorem State.emit_maps (o : Out) : (s.emit o).maps = s.maps := by rw [State.emit]
@[simp] theorem State.emit_traces (o : Out) : (s.emit o).traces = s.traces := by rw [State.emit]
@[simp] theorem State.emit_doms (o : Out) : (s.emit o).doms = s.doms := by rw [State.emit]
@[simp] theorem State.emit_cals (o : Out) : (s.emit o).cals = s.cals := by rw [State.emit]
@[simp] theorem State.emit_calRuns (o : Out) : (s.emit o).calRuns = s.calRuns := by rw [State.emit]
@[simp] theorem State.emit_calSaved (o : Out) : (s.emit o).calSaved = s.calSaved := by rw [State.emit]
@[simp] theorem State.emit_queued (o : Out) : (s.emit o).queued = s.queued := by rw [State.emit]
@[simp] theorem State.emit_running (o : Out) : (s.emit o).running = s.running := by rw [State.emit]
@[simp] theorem State.emit_kept (o : Out) : (s.emit o).kept = s.kept := by rw [State.emit]
@[simp] theorem State.emit_jobs (o : Out) : (s.emit o).jobs = s.jobs := by rw [State.emit]
@[simp] theorem State.emit_records (o : Out) : (s.emit o).records = s.records := by rw [State.emit]
@[simp] theorem State.emit_eyes (o : Out) : (s.emit o).eyes = s.eyes := by rw [State.emit]
@[simp] theorem State.emit_completions (o : Out) : (s.emit o).completions = s.completions := by rw [State.emit]
@[simp] theorem State.emit_claims (o : Out) : (s.emit o).claims = s.claims := by rw [State.emit]
@[simp] theorem State.emit_waiting (o : Out) : (s.emit o).waiting = s.waiting := by rw [State.emit]
@[simp] theorem State.emit_later (o : Out) : (s.emit o).later = s.later := by rw [State.emit]
@[simp] theorem State.emit_granted (o : Out) : (s.emit o).granted = s.granted := by rw [State.emit]
@[simp] theorem State.emit_tests (o : Out) : (s.emit o).tests = s.tests := by rw [State.emit]
@[simp] theorem State.emit_nvOpen (o : Out) : (s.emit o).nvOpen = s.nvOpen := by rw [State.emit]
@[simp] theorem State.emit_mram (o : Out) : (s.emit o).mram = s.mram := by rw [State.emit]
@[simp] theorem State.emit_gbQueue (o : Out) : (s.emit o).gbQueue = s.gbQueue := by rw [State.emit]
@[simp] theorem State.emit_gbLimits (o : Out) : (s.emit o).gbLimits = s.gbLimits := by rw [State.emit]
@[simp] theorem State.emit_gbWindow (o : Out) : (s.emit o).gbWindow = s.gbWindow := by rw [State.emit]
@[simp] theorem State.emit_shadows (o : Out) : (s.emit o).shadows = s.shadows := by rw [State.emit]
@[simp] theorem State.emit_highs (o : Out) : (s.emit o).highs = s.highs := by rw [State.emit]
@[simp] theorem State.emit_core (o : Out) : (s.emit o).core = s.core := by rw [State.emit]
@[simp] theorem State.emit_hub (o : Out) : (s.emit o).hub = s.hub := by rw [State.emit]
@[simp] theorem State.emit_raised (o : Out) : (s.emit o).raised = s.raised := by rw [State.emit]
@[simp] theorem State.emit_pending (o : Out) : (s.emit o).pending = s.pending := by rw [State.emit]

@[simp] theorem State.draw_now : s.draw.2.now = s.now := by rw [State.draw]
@[simp] theorem State.random_now : s.random.2.now = s.now := by rw [State.random]
@[simp] theorem State.draw_regs : s.draw.2.regs = s.regs := by rw [State.draw]
@[simp] theorem State.random_regs : s.random.2.regs = s.regs := by rw [State.random]
@[simp] theorem State.draw_ports : s.draw.2.ports = s.ports := by rw [State.draw]
@[simp] theorem State.random_ports : s.random.2.ports = s.ports := by rw [State.random]
@[simp] theorem State.draw_pairs : s.draw.2.pairs = s.pairs := by rw [State.draw]
@[simp] theorem State.random_pairs : s.random.2.pairs = s.pairs := by rw [State.random]
@[simp] theorem State.draw_links : s.draw.2.links = s.links := by rw [State.draw]
@[simp] theorem State.random_links : s.random.2.links = s.links := by rw [State.random]
@[simp] theorem State.draw_queues : s.draw.2.queues = s.queues := by rw [State.draw]
@[simp] theorem State.random_queues : s.random.2.queues = s.queues := by rw [State.random]
@[simp] theorem State.draw_hosts : s.draw.2.hosts = s.hosts := by rw [State.draw]
@[simp] theorem State.random_hosts : s.random.2.hosts = s.hosts := by rw [State.random]
@[simp] theorem State.draw_lanes : s.draw.2.lanes = s.lanes := by rw [State.draw]
@[simp] theorem State.random_lanes : s.random.2.lanes = s.lanes := by rw [State.random]
@[simp] theorem State.draw_laneOf : s.draw.2.laneOf = s.laneOf := by rw [State.draw]
@[simp] theorem State.random_laneOf : s.random.2.laneOf = s.laneOf := by rw [State.random]
@[simp] theorem State.draw_tbl : s.draw.2.tbl = s.tbl := by rw [State.draw]
@[simp] theorem State.random_tbl : s.random.2.tbl = s.tbl := by rw [State.random]
@[simp] theorem State.draw_held : s.draw.2.held = s.held := by rw [State.draw]
@[simp] theorem State.random_held : s.random.2.held = s.held := by rw [State.random]
@[simp] theorem State.draw_snr : s.draw.2.snr = s.snr := by rw [State.draw]
@[simp] theorem State.random_snr : s.random.2.snr = s.snr := by rw [State.random]
@[simp] theorem State.draw_erle : s.draw.2.erle = s.erle := by rw [State.draw]
@[simp] theorem State.random_erle : s.random.2.erle = s.erle := by rw [State.random]
@[simp] theorem State.draw_errs : s.draw.2.errs = s.errs := by rw [State.draw]
@[simp] theorem State.random_errs : s.random.2.errs = s.errs := by rw [State.random]
@[simp] theorem State.draw_sigma : s.draw.2.sigma = s.sigma := by rw [State.draw]
@[simp] theorem State.random_sigma : s.random.2.sigma = s.sigma := by rw [State.random]
@[simp] theorem State.draw_noise : s.draw.2.noise = s.noise := by rw [State.draw]
@[simp] theorem State.random_noise : s.random.2.noise = s.noise := by rw [State.random]
@[simp] theorem State.draw_coef : s.draw.2.coef = s.coef := by rw [State.draw]
@[simp] theorem State.random_coef : s.random.2.coef = s.coef := by rw [State.random]
@[simp] theorem State.draw_seeds : s.draw.2.seeds = s.seeds := by rw [State.draw]
@[simp] theorem State.random_seeds : s.random.2.seeds = s.seeds := by rw [State.random]
@[simp] theorem State.draw_banks : s.draw.2.banks = s.banks := by rw [State.draw]
@[simp] theorem State.random_banks : s.random.2.banks = s.banks := by rw [State.random]
@[simp] theorem State.draw_rows : s.draw.2.rows = s.rows := by rw [State.draw]
@[simp] theorem State.random_rows : s.random.2.rows = s.rows := by rw [State.random]
@[simp] theorem State.draw_tiles : s.draw.2.tiles = s.tiles := by rw [State.draw]
@[simp] theorem State.random_tiles : s.random.2.tiles = s.tiles := by rw [State.random]
@[simp] theorem State.draw_diags : s.draw.2.diags = s.diags := by rw [State.draw]
@[simp] theorem State.random_diags : s.random.2.diags = s.diags := by rw [State.random]
@[simp] theorem State.draw_maps : s.draw.2.maps = s.maps := by rw [State.draw]
@[simp] theorem State.random_maps : s.random.2.maps = s.maps := by rw [State.random]
@[simp] theorem State.draw_traces : s.draw.2.traces = s.traces := by rw [State.draw]
@[simp] theorem State.random_traces : s.random.2.traces = s.traces := by rw [State.random]
@[simp] theorem State.draw_doms : s.draw.2.doms = s.doms := by rw [State.draw]
@[simp] theorem State.random_doms : s.random.2.doms = s.doms := by rw [State.random]
@[simp] theorem State.draw_cals : s.draw.2.cals = s.cals := by rw [State.draw]
@[simp] theorem State.random_cals : s.random.2.cals = s.cals := by rw [State.random]
@[simp] theorem State.draw_calRuns : s.draw.2.calRuns = s.calRuns := by rw [State.draw]
@[simp] theorem State.random_calRuns : s.random.2.calRuns = s.calRuns := by rw [State.random]
@[simp] theorem State.draw_calSaved : s.draw.2.calSaved = s.calSaved := by rw [State.draw]
@[simp] theorem State.random_calSaved : s.random.2.calSaved = s.calSaved := by rw [State.random]
@[simp] theorem State.draw_queued : s.draw.2.queued = s.queued := by rw [State.draw]
@[simp] theorem State.random_queued : s.random.2.queued = s.queued := by rw [State.random]
@[simp] theorem State.draw_running : s.draw.2.running = s.running := by rw [State.draw]
@[simp] theorem State.random_running : s.random.2.running = s.running := by rw [State.random]
@[simp] theorem State.draw_kept : s.draw.2.kept = s.kept := by rw [State.draw]
@[simp] theorem State.random_kept : s.random.2.kept = s.kept := by rw [State.random]
@[simp] theorem State.draw_jobs : s.draw.2.jobs = s.jobs := by rw [State.draw]
@[simp] theorem State.random_jobs : s.random.2.jobs = s.jobs := by rw [State.random]
@[simp] theorem State.draw_records : s.draw.2.records = s.records := by rw [State.draw]
@[simp] theorem State.random_records : s.random.2.records = s.records := by rw [State.random]
@[simp] theorem State.draw_eyes : s.draw.2.eyes = s.eyes := by rw [State.draw]
@[simp] theorem State.random_eyes : s.random.2.eyes = s.eyes := by rw [State.random]
@[simp] theorem State.draw_completions : s.draw.2.completions = s.completions := by rw [State.draw]
@[simp] theorem State.random_completions : s.random.2.completions = s.completions := by rw [State.random]
@[simp] theorem State.draw_claims : s.draw.2.claims = s.claims := by rw [State.draw]
@[simp] theorem State.random_claims : s.random.2.claims = s.claims := by rw [State.random]
@[simp] theorem State.draw_waiting : s.draw.2.waiting = s.waiting := by rw [State.draw]
@[simp] theorem State.random_waiting : s.random.2.waiting = s.waiting := by rw [State.random]
@[simp] theorem State.draw_later : s.draw.2.later = s.later := by rw [State.draw]
@[simp] theorem State.random_later : s.random.2.later = s.later := by rw [State.random]
@[simp] theorem State.draw_granted : s.draw.2.granted = s.granted := by rw [State.draw]
@[simp] theorem State.random_granted : s.random.2.granted = s.granted := by rw [State.random]
@[simp] theorem State.draw_tests : s.draw.2.tests = s.tests := by rw [State.draw]
@[simp] theorem State.random_tests : s.random.2.tests = s.tests := by rw [State.random]
@[simp] theorem State.draw_nvOpen : s.draw.2.nvOpen = s.nvOpen := by rw [State.draw]
@[simp] theorem State.random_nvOpen : s.random.2.nvOpen = s.nvOpen := by rw [State.random]
@[simp] theorem State.draw_mram : s.draw.2.mram = s.mram := by rw [State.draw]
@[simp] theorem State.random_mram : s.random.2.mram = s.mram := by rw [State.random]
@[simp] theorem State.draw_gbQueue : s.draw.2.gbQueue = s.gbQueue := by rw [State.draw]
@[simp] theorem State.random_gbQueue : s.random.2.gbQueue = s.gbQueue := by rw [State.random]
@[simp] theorem State.draw_gbLimits : s.draw.2.gbLimits = s.gbLimits := by rw [State.draw]
@[simp] theorem State.random_gbLimits : s.random.2.gbLimits = s.gbLimits := by rw [State.random]
@[simp] theorem State.draw_gbWindow : s.draw.2.gbWindow = s.gbWindow := by rw [State.draw]
@[simp] theorem State.random_gbWindow : s.random.2.gbWindow = s.gbWindow := by rw [State.random]
@[simp] theorem State.draw_shadows : s.draw.2.shadows = s.shadows := by rw [State.draw]
@[simp] theorem State.random_shadows : s.random.2.shadows = s.shadows := by rw [State.random]
@[simp] theorem State.draw_highs : s.draw.2.highs = s.highs := by rw [State.draw]
@[simp] theorem State.random_highs : s.random.2.highs = s.highs := by rw [State.random]
@[simp] theorem State.draw_core : s.draw.2.core = s.core := by rw [State.draw]
@[simp] theorem State.random_core : s.random.2.core = s.core := by rw [State.random]
@[simp] theorem State.draw_hub : s.draw.2.hub = s.hub := by rw [State.draw]
@[simp] theorem State.random_hub : s.random.2.hub = s.hub := by rw [State.random]
@[simp] theorem State.draw_raised : s.draw.2.raised = s.raised := by rw [State.draw]
@[simp] theorem State.random_raised : s.random.2.raised = s.raised := by rw [State.random]
@[simp] theorem State.draw_out : s.draw.2.out = s.out := by rw [State.draw]
@[simp] theorem State.random_out : s.random.2.out = s.out := by rw [State.random]
@[simp] theorem State.draw_pending : s.draw.2.pending = s.pending := by rw [State.draw]
@[simp] theorem State.random_pending : s.random.2.pending = s.pending := by rw [State.random]

/-! ### Registers -/

/-- A read after a write of the same register. -/
@[simp] theorem State.reg_setReg_same (a : Nat) (v : Word) : (s.setReg a v).reg a = v := SMap.get_put_same _ _ _ _

/-- A write leaves every other register. -/
theorem State.reg_setReg_other (a b : Nat) (v : Word) (h : b ≠ a) : (s.setReg a v).reg b = s.reg b :=
  SMap.get_put_other _ _ _ _ _ h

/-- A write of a field leaves every other register. -/
theorem State.reg_setFld_other (f : Fld) (v b : Nat) (h : b ≠ f.addr) : (s.setFld f v).reg b = s.reg b :=
  State.reg_setReg_other s _ _ _ h

/-- Counting one changes no other register, and its own by one. -/
theorem State.reg_inc_other (a b : Nat) (h : b ≠ a) : (s.inc a).reg b = s.reg b := State.reg_setReg_other s _ _ _ h
@[simp] theorem State.reg_inc_same (a : Nat) : (s.inc a).reg a = s.reg a + 1 := State.reg_setReg_same s _ _

/-- A state with the same registers reads the same. -/
theorem State.reg_congr (s t : State) (h : t.regs = s.regs) (a : Nat) : t.reg a = s.reg a := by simp [State.reg, h]
theorem State.fld_congr (s t : State) (h : t.regs = s.regs) (f : Fld) : t.fld f = s.fld f := by
  simp [State.fld, State.reg_congr s t h]
theorem State.flag_congr (s t : State) (h : t.regs = s.regs) (f : Fld) : t.flag f = s.flag f := by
  simp [State.flag, State.fld_congr s t h]

/-! ### Records of the stores -/

@[simp] theorem State.port_setPort (n : Nat) (v : PortSt) : (s.setPort n v).port n = v := SMap.get_put_same _ _ _ _
@[simp] theorem State.pair_setPair (n p : Nat) (v : PairSt) : (s.setPair n p v).pair n p = v := SMap.get_put_same _ _ _ _
@[simp] theorem State.link_setLink (l : LinkId) (v : LinkSt) : (s.setLink l v).link l = v := SMap.get_put_same _ _ _ _
@[simp] theorem State.queue_setQueue (l : LinkId) (v : QueueSt) : (s.setQueue l v).queue l = v := SMap.get_put_same _ _ _ _
@[simp] theorem State.host_setHost (n : Nat) (v : HostPort) : (s.setHost n v).host n = v := SMap.get_put_same _ _ _ _
@[simp] theorem State.lane_setLane (h : Nat) (v : LaneSt) : (s.setLane h v).lane h = v := SMap.get_put_same _ _ _ _
@[simp] theorem State.tile_setTile (t : Nat) (v : TileSt) : (s.setTile t v).tile t = v := SMap.get_put_same _ _ _ _
@[simp] theorem State.diag_setDiag (g : Nat) (v : DiagSt) : (s.setDiag g v).diag g = v := SMap.get_put_same _ _ _ _
@[simp] theorem State.dom_setDom (i : Nat) (v : DomSt) : (s.setDom i v).dom i = v := SMap.get_put_same _ _ _ _
@[simp] theorem State.cal_setCal (i t : Nat) (v : CalSt) : (s.setCal i t v).cal i t = v := SMap.get_put_same _ _ _ _
@[simp] theorem State.portLane_setPortLane (n h : Nat) : (s.setPortLane n h).portLane n = h := SMap.get_put_same _ _ _ _

/-! ### The tail of what is recorded -/

@[simp] theorem State.raised_raise (code sev : Nat) (ps : List Nat) :
    (s.raise code sev ps).raised = s.raised ++ [⟨code, sev, ps⟩] := by rw [State.raise]
@[simp] theorem State.out_emit (o : Out) : (s.emit o).out = s.out ++ [o] := by rw [State.emit]
@[simp] theorem State.hub_modHub (g : HubSt → HubSt) : (s.modHub g).hub = g s.hub := by rw [State.modHub]

end Sys2Proof.Machine
end

