-- ==== Sys2Proof/Laws/Fields.lean ====
section
/-! SUPPORT. Register fields and records read after a write: the written one, and those apart from it. -/
namespace Sys2Proof.Machine

variable (s : State)

theorem insertBits_lt (w hi lo v : Nat) (hw : w < 2 ^ 32) (hl : lo ≤ hi) (hh : hi < 32) : insertBits w hi lo v < 2 ^ 32 := by
  unfold insertBits
  have h1 : w % 2 ^ lo < 2 ^ lo := Nat.mod_lt _ (by positivity)
  have h2 : v % 2 ^ (hi + 1 - lo) < 2 ^ (hi + 1 - lo) := Nat.mod_lt _ (by positivity)
  have e1 : 2 ^ (hi + 1 - lo) * 2 ^ lo = 2 ^ (hi + 1) := by rw [← pow_add]; congr 1; omega
  have e2 : 2 ^ (32 - (hi + 1)) * 2 ^ (hi + 1) = 2 ^ 32 := by rw [← pow_add]; congr 1; omega
  have h3 : w / 2 ^ (hi + 1) < 2 ^ (32 - (hi + 1)) := by
    rw [Nat.div_lt_iff_lt_mul (by positivity), e2]; exact hw
  calc w % 2 ^ lo + v % 2 ^ (hi + 1 - lo) * 2 ^ lo + w / 2 ^ (hi + 1) * 2 ^ (hi + 1)
      < 2 ^ (hi + 1) + w / 2 ^ (hi + 1) * 2 ^ (hi + 1) := by
        have : (v % 2 ^ (hi + 1 - lo) + 1) * 2 ^ lo ≤ 2 ^ (hi + 1) := by rw [← e1]; exact Nat.mul_le_mul_right _ h2
        have := Nat.add_mul (v % 2 ^ (hi + 1 - lo)) 1 (2 ^ lo)
        omega
    _ = (w / 2 ^ (hi + 1) + 1) * 2 ^ (hi + 1) := by ring
    _ ≤ 2 ^ 32 := by rw [← e2]; exact Nat.mul_le_mul_right _ h3

theorem testBit_insertBits (w hi lo v i : Nat) (hl : lo ≤ hi) :
    (insertBits w hi lo v).testBit i = if lo ≤ i ∧ i ≤ hi then v.testBit (i - lo) else w.testBit i := by
  have e1 : 2 ^ (hi + 1) = 2 ^ (hi + 1 - lo) * 2 ^ lo := by rw [← pow_add]; congr 1; omega
  have h1 : w % 2 ^ lo < 2 ^ lo := Nat.mod_lt _ (by positivity)
  have h2 : v % 2 ^ (hi + 1 - lo) < 2 ^ (hi + 1 - lo) := Nat.mod_lt _ (by positivity)
  have e : insertBits w hi lo v = 2 ^ lo * (2 ^ (hi + 1 - lo) * (w / 2 ^ (hi + 1)) + v % 2 ^ (hi + 1 - lo)) + w % 2 ^ lo := by
    unfold insertBits; rw [e1]; ring
  rw [e]
  by_cases hi' : i < lo
  · rw [Nat.testBit_two_pow_mul_add _ h1, if_pos hi', if_neg (by omega), Nat.testBit_mod_two_pow]; simp [hi']
  · rw [Nat.testBit_two_pow_mul_add _ h1, if_neg hi', Nat.testBit_two_pow_mul_add _ h2]
    by_cases hj : i - lo < hi + 1 - lo
    · rw [if_pos hj, if_pos (by omega), Nat.testBit_mod_two_pow]; simp [hj]
    · rw [if_neg hj, if_neg (by omega), Nat.testBit_div_two_pow]; congr 1; omega

theorem testBit_bits (v hi lo i : Nat) : (bits v hi lo).testBit i = (decide (i < hi + 1 - lo) && v.testBit (i + lo)) := by
  rw [bits, Nat.testBit_mod_two_pow, Nat.testBit_div_two_pow, Nat.add_comm]

theorem bits_insertBits_same (w hi lo v : Nat) (hl : lo ≤ hi) : bits (insertBits w hi lo v) hi lo = v % 2 ^ (hi + 1 - lo) := by
  apply Nat.eq_of_testBit_eq
  intro i
  rw [testBit_bits, testBit_insertBits _ _ _ _ _ hl, Nat.testBit_mod_two_pow]
  by_cases h : i < hi + 1 - lo
  · rw [if_pos (by omega)]; simp [h]
  · simp [h]

theorem bits_insertBits_apart (w hi lo v hj lj : Nat) (hl : lo ≤ hi) (h : hj < lo ∨ hi < lj) :
    bits (insertBits w hi lo v) hj lj = bits w hj lj := by
  apply Nat.eq_of_testBit_eq
  intro i
  rw [testBit_bits, testBit_bits, testBit_insertBits _ _ _ _ _ hl]
  by_cases g : i < hj + 1 - lj
  · rw [if_neg (by omega)]
  · simp [g]

theorem word_toNat (n : Nat) : (word n).toNat = n % 2 ^ 32 := BitVec.toNat_ofNat _ _

/-- A field reads what was written to it. -/
theorem State.fld_setFld_same (f : Fld) (v : Nat) (hl : f.lo ≤ f.hi) (hh : f.hi < 32) :
    (s.setFld f v).fld f = v % 2 ^ (f.hi + 1 - f.lo) := by
  rw [State.fld, State.setFld, State.reg_setReg_same, word_toNat, Nat.mod_eq_of_lt (insertBits_lt _ _ _ _ (s.reg _).isLt hl hh),
    bits_insertBits_same _ _ _ _ hl]

/-- A field of another register, or of other bits of the register, is left. -/
theorem State.fld_setFld_apart (f g : Fld) (v : Nat) (hl : f.lo ≤ f.hi) (hh : f.hi < 32)
    (h : g.addr ≠ f.addr ∨ g.hi < f.lo ∨ f.hi < g.lo) : (s.setFld f v).fld g = s.fld g := by
  by_cases e : g.addr = f.addr
  · rw [State.fld, State.setFld, e, State.reg_setReg_same, word_toNat,
      Nat.mod_eq_of_lt (insertBits_lt _ _ _ _ (s.reg _).isLt hl hh), bits_insertBits_apart _ _ _ _ _ _ hl (h.resolve_left (· e)),
      State.fld, e]
  · rw [State.fld, State.fld, State.reg_setFld_other _ _ _ _ e]

theorem State.fld_setReg_same (f : Fld) (v : Word) : (s.setReg f.addr v).fld f = bits v.toNat f.hi f.lo := by
  rw [State.fld, State.reg_setReg_same]

theorem State.fld_setReg_other (f : Fld) (a : Nat) (v : Word) (h : f.addr ≠ a) : (s.setReg a v).fld f = s.fld f := by
  rw [State.fld, State.fld, State.reg_setReg_other _ _ _ _ h]

theorem State.fld_inc_other (f : Fld) (a : Nat) (h : f.addr ≠ a) : (s.inc a).fld f = s.fld f := State.fld_setReg_other s f a _ h

/-! ### Records -/

@[simp] theorem State.port_modPort (n : Nat) (g : PortSt → PortSt) : (s.modPort n g).port n = g (s.port n) := State.port_setPort _ _ _
@[simp] theorem State.pair_modPair (n p : Nat) (g : PairSt → PairSt) : (s.modPair n p g).pair n p = g (s.pair n p) := State.pair_setPair _ _ _ _
@[simp] theorem State.link_modLink (l : LinkId) (g : LinkSt → LinkSt) : (s.modLink l g).link l = g (s.link l) := State.link_setLink _ _ _
@[simp] theorem State.queue_modQueue (l : LinkId) (g : QueueSt → QueueSt) : (s.modQueue l g).queue l = g (s.queue l) := State.queue_setQueue _ _ _
@[simp] theorem State.host_modHost (n : Nat) (g : HostPort → HostPort) : (s.modHost n g).host n = g (s.host n) := State.host_setHost _ _ _
@[simp] theorem State.lane_modLane (h : Nat) (g : LaneSt → LaneSt) : (s.modLane h g).lane h = g (s.lane h) := State.lane_setLane _ _ _
@[simp] theorem State.tile_modTile (t : Nat) (g : TileSt → TileSt) : (s.modTile t g).tile t = g (s.tile t) := State.tile_setTile _ _ _
@[simp] theorem State.diag_modDiag (i : Nat) (g : DiagSt → DiagSt) : (s.modDiag i g).diag i = g (s.diag i) := State.diag_setDiag _ _ _
@[simp] theorem State.dom_modDom (i : Nat) (g : DomSt → DomSt) : (s.modDom i g).dom i = g (s.dom i) := State.dom_setDom _ _ _
@[simp] theorem State.cal_modCal (i t : Nat) (g : CalSt → CalSt) : (s.modCal i t g).cal i t = g (s.cal i t) := State.cal_setCal _ _ _ _

/-! ### States with the same stores read the same -/

theorem State.port_congr {s t : State} (h : t.ports = s.ports) (n : Nat) : t.port n = s.port n := by rw [State.port, State.port, h]
theorem State.pair_congr {s t : State} (h : t.pairs = s.pairs) (n p : Nat) : t.pair n p = s.pair n p := by rw [State.pair, State.pair, h]
theorem State.link_congr {s t : State} (h : t.links = s.links) (l : LinkId) : t.link l = s.link l := by rw [State.link, State.link, h]
theorem State.queue_congr {s t : State} (h : t.queues = s.queues) (l : LinkId) : t.queue l = s.queue l := by rw [State.queue, State.queue, h]
theorem State.host_congr {s t : State} (h : t.hosts = s.hosts) (n : Nat) : t.host n = s.host n := by rw [State.host, State.host, h]
theorem State.lane_congr {s t : State} (h : t.lanes = s.lanes) (n : Nat) : t.lane n = s.lane n := by rw [State.lane, State.lane, h]
theorem State.portLane_congr {s t : State} (h : t.laneOf = s.laneOf) (n : Nat) : t.portLane n = s.portLane n := by
  rw [State.portLane, State.portLane, h]
theorem State.tile_congr {s t : State} (h : t.tiles = s.tiles) (n : Nat) : t.tile n = s.tile n := by rw [State.tile, State.tile, h]
theorem State.diag_congr {s t : State} (h : t.diags = s.diags) (n : Nat) : t.diag n = s.diag n := by rw [State.diag, State.diag, h]
theorem State.dom_congr {s t : State} (h : t.doms = s.doms) (n : Nat) : t.dom n = s.dom n := by rw [State.dom, State.dom, h]
theorem State.cal_congr {s t : State} (h : t.cals = s.cals) (i n : Nat) : t.cal i n = s.cal i n := by rw [State.cal, State.cal, h]

end Sys2Proof.Machine
end

