-- ==== Sys2Proof/Laws/Keeps.lean ====
section
/-! SUPPORT. What every operation of the device keeps: the queue and the clock, what has been sent, the invariant, and the kinds of state it does not touch; with the rules for
composing it. -/
namespace Sys2Proof.Machine

/-- A step may change this kind of state. -/
class May (F : Kind → Prop) (k : Kind) : Prop where
  may : F k

/-- A step may reset the device: it may change every kind of state but the MRAM, what the CALIB bodies hold and what was sent. -/
class MayReset (F : Kind → Prop) : Prop where
  may : ∀ k, k ≠ .mram → k ≠ .calSaved → k ≠ .out → F k

theorem Same.trans {k : Kind} {r s t : State} (h : Same k r s) (g : Same k s t) : Same k r t := by
  cases k <;> exact Eq.trans g h

/-- From one state to a later one: the queue and the clock stand, outputs are only appended, the invariant passes on, and only the
kinds of state in F change. -/
structure Keeps (F : Kind → Prop) (r t : State) : Prop where
  pending : t.pending = r.pending
  now : t.now = r.now
  out : r.out <+: t.out
  inv : Inv r → Inv t
  same : ∀ k, ¬ F k → Same k r t

theorem keeps_refl (F : Kind → Prop) (r : State) : Keeps F r r :=
  ⟨rfl, rfl, List.prefix_rfl, id, fun k _ => by cases k <;> rfl⟩

theorem Keeps.trans {F : Kind → Prop} {r s t : State} (h : Keeps F r s) (g : Keeps F s t) : Keeps F r t :=
  ⟨g.pending.trans h.pending, g.now.trans h.now, h.out.trans g.out, fun x => g.inv (h.inv x),
    fun k hk => (h.same k hk).trans (g.same k hk)⟩

/-- What a command answers, where it answers a next state. -/
structure OutKeeps (F : Kind → Prop) (r : State) (o : Host.Outcome State Fault Refusal) : Prop where
  keeps : ∀ t, o = .next t → Keeps F r t

theorem outKeeps_next {F : Kind → Prop} {r t : State} (h : Keeps F r t) : OutKeeps F r (.next t) :=
  ⟨fun u hu => by cases hu; exact h⟩

theorem outKeeps_ite {F : Kind → Prop} {r : State} {c : Prop} [Decidable c] {a b : Host.Outcome State Fault Refusal}
    (ha : OutKeeps F r a) (hb : OutKeeps F r b) : OutKeeps F r (if c then a else b) := by split <;> assumption

theorem keeps_ite {F : Kind → Prop} {r : State} {c : Prop} [Decidable c] {a b : State} (ha : Keeps F r a) (hb : Keeps F r b) :
    Keeps F r (if c then a else b) := by split <;> assumption

/-- The same for each item of a list. -/
theorem keeps_forEach {F : Kind → Prop} {α : Type} {r s : State} (xs : List α) (f : α → State → State) (h : Keeps F r s)
    (hf : ∀ x t, Keeps F r t → Keeps F r (f x t)) : Keeps F r (forEach xs f s) := by
  induction xs generalizing s with
  | nil => exact h
  | cons x xs ih => exact ih (hf x s h)

theorem keeps_foldl {F : Kind → Prop} {α : Type} {r s : State} (xs : List α) (f : State → α → State) (h : Keeps F r s)
    (hf : ∀ x t, Keeps F r t → Keeps F r (f t x)) : Keeps F r (xs.foldl f s) := by
  induction xs generalizing s with
  | nil => exact h
  | cons x xs ih => exact ih (hf x s h)

/-! ### The invariant, store by store -/

theorem canonical_iff (s : State) : s.canonical = true ↔
    SMap.wf regReset s.regs = true ∧ SMap.wf (fun _ => PortSt.reset) s.ports = true ∧ SMap.wf (fun _ => PairSt.reset) s.pairs = true ∧
    SMap.wf (fun _ => LinkSt.reset) s.links = true ∧ SMap.wf (fun _ => QueueSt.reset) s.queues = true ∧
    SMap.wf (fun _ => HostPort.reset) s.hosts = true ∧ SMap.wf (fun _ => LaneSt.reset) s.lanes = true ∧
    SMap.wf (fun k => k) s.laneOf = true ∧ SMap.wf (fun _ => emptyEntry) s.tbl = true ∧ SMap.wf (fun _ => emptyEntry) s.held = true ∧
    SMap.wf (fun _ => 0) s.snr = true ∧ SMap.wf (fun _ => 0) s.erle = true ∧ SMap.wf (fun _ => none) s.coef = true ∧
    SMap.wf (fun _ => 0) s.seeds = true ∧ SMap.wf (fun _ => 0) s.banks.used = true ∧ SMap.wf (fun _ => 0) s.rows = true ∧
    SMap.wf (fun _ => TileSt.reset) s.tiles = true ∧ SMap.wf (fun _ => DiagSt.reset) s.diags = true ∧
    SMap.wf (fun _ => 0xFFFF) s.maps = true ∧ SMap.wf (fun _ => 0) s.traces = true ∧ SMap.wf DomSt.reset s.doms = true ∧
    SMap.wf (fun _ => CalSt.reset) s.cals = true ∧ Memory.wf s.mram = true ∧ SMap.wf (fun _ => 0) s.shadows = true ∧
    SMap.wf (fun _ => 0) s.highs = true ∧ SMap.wf (fun _ => none) s.core = true ∧ SMap.wf (fun _ => (0, 0)) s.errs = true ∧
    SMap.wf (fun _ => 0) s.sigma = true ∧ SMap.wf (fun _ => 0) s.noise = true := by
  simp only [State.canonical, Bool.and_eq_true, and_assoc]

/-! ### Updates of fields -/

/-! Fields that the invariant does not speak of. -/

theorem keeps_upd_calRuns {F : Kind → Prop} [May F .calRuns] {r s : State} {x0 : List CalRun} (h : Keeps F r s) :
    Keeps F r { s with calRuns := x0 } :=
  h.trans ⟨rfl, rfl, List.prefix_rfl, id, (fun k hk => by cases k <;> first | rfl | exact (hk May.may).elim)⟩

theorem keeps_upd_calSaved {F : Kind → Prop} [May F .calSaved] {r s : State} {x0 : List (List Nat × SMap CalSt)} (h : Keeps F r s) :
    Keeps F r { s with calSaved := x0 } :=
  h.trans ⟨rfl, rfl, List.prefix_rfl, id, (fun k hk => by cases k <;> first | rfl | exact (hk May.may).elim)⟩

theorem keeps_upd_completions {F : Kind → Prop} [May F .completions] {r s : State} {x0 : List Completion} (h : Keeps F r s) :
    Keeps F r { s with completions := x0 } :=
  h.trans ⟨rfl, rfl, List.prefix_rfl, id, (fun k hk => by cases k <;> first | rfl | exact (hk May.may).elim)⟩

theorem keeps_upd_eyes {F : Kind → Prop} [May F .eyes] {r s : State} {x0 : List (Nat × Nat × List Nat)} (h : Keeps F r s) :
    Keeps F r { s with eyes := x0 } :=
  h.trans ⟨rfl, rfl, List.prefix_rfl, id, (fun k hk => by cases k <;> first | rfl | exact (hk May.may).elim)⟩

theorem keeps_upd_free {F : Kind → Prop} [May F .free] {r s : State} {x0 : Nat} (h : Keeps F r s) :
    Keeps F r { s with free := x0 } :=
  h.trans ⟨rfl, rfl, List.prefix_rfl, id, (fun k hk => by cases k <;> first | rfl | exact (hk May.may).elim)⟩

theorem keeps_upd_gbLimits {F : Kind → Prop} [May F .gbLimits] {r s : State} {x0 : List (Nat × Nat)} (h : Keeps F r s) :
    Keeps F r { s with gbLimits := x0 } :=
  h.trans ⟨rfl, rfl, List.prefix_rfl, id, (fun k hk => by cases k <;> first | rfl | exact (hk May.may).elim)⟩

theorem keeps_upd_gbQueue {F : Kind → Prop} [May F .gbQueue] {r s : State} {x0 : List (Nat × List Nat)} (h : Keeps F r s) :
    Keeps F r { s with gbQueue := x0 } :=
  h.trans ⟨rfl, rfl, List.prefix_rfl, id, (fun k hk => by cases k <;> first | rfl | exact (hk May.may).elim)⟩

theorem keeps_upd_gbWindow {F : Kind → Prop} [May F .gbWindow] {r s : State} {x0 : List (Nat × Nat × Nat)} (h : Keeps F r s) :
    Keeps F r { s with gbWindow := x0 } :=
  h.trans ⟨rfl, rfl, List.prefix_rfl, id, (fun k hk => by cases k <;> first | rfl | exact (hk May.may).elim)⟩

theorem keeps_upd_granted {F : Kind → Prop} [May F .granted] {r s : State} {x0 : List (Pkt × Nat)} (h : Keeps F r s) :
    Keeps F r { s with granted := x0 } :=
  h.trans ⟨rfl, rfl, List.prefix_rfl, id, (fun k hk => by cases k <;> first | rfl | exact (hk May.may).elim)⟩

theorem keeps_upd_hub {F : Kind → Prop} [May F .hub] {r s : State} {x0 : HubSt} (h : Keeps F r s) :
    Keeps F r { s with hub := x0 } :=
  h.trans ⟨rfl, rfl, List.prefix_rfl, id, (fun k hk => by cases k <;> first | rfl | exact (hk May.may).elim)⟩

theorem keeps_upd_jobs {F : Kind → Prop} [May F .jobs] {r s : State} {x0 : List Job} (h : Keeps F r s) :
    Keeps F r { s with jobs := x0 } :=
  h.trans ⟨rfl, rfl, List.prefix_rfl, id, (fun k hk => by cases k <;> first | rfl | exact (hk May.may).elim)⟩

theorem keeps_upd_jobs_records {F : Kind → Prop} [May F .jobs] [May F .records] {r s : State} {x0 : List Job} {x1 : List (List Nat)} (h : Keeps F r s) :
    Keeps F r { s with jobs := x0, records := x1 } :=
  h.trans ⟨rfl, rfl, List.prefix_rfl, id, (fun k hk => by cases k <;> first | rfl | exact (hk May.may).elim)⟩

theorem keeps_upd_later {F : Kind → Prop} [May F .later] {r s : State} {x0 : List Waiting} (h : Keeps F r s) :
    Keeps F r { s with later := x0 } :=
  h.trans ⟨rfl, rfl, List.prefix_rfl, id, (fun k hk => by cases k <;> first | rfl | exact (hk May.may).elim)⟩

theorem keeps_upd_nvOpen {F : Kind → Prop} [May F .nvOpen] {r s : State} {x0 : List NvOpen} (h : Keeps F r s) :
    Keeps F r { s with nvOpen := x0 } :=
  h.trans ⟨rfl, rfl, List.prefix_rfl, id, (fun k hk => by cases k <;> first | rfl | exact (hk May.may).elim)⟩

theorem keeps_upd_queued {F : Kind → Prop} [May F .queued] {r s : State} {x0 : List Pkt} (h : Keeps F r s) :
    Keeps F r { s with queued := x0 } :=
  h.trans ⟨rfl, rfl, List.prefix_rfl, id, (fun k hk => by cases k <;> first | rfl | exact (hk May.may).elim)⟩

theorem keeps_upd_queued_running {F : Kind → Prop} [May F .queued] [May F .running] {r s : State} {x0 : List Pkt} {x1 : List Pkt} (h : Keeps F r s) :
    Keeps F r { s with queued := x0, running := x1 } :=
  h.trans ⟨rfl, rfl, List.prefix_rfl, id, (fun k hk => by cases k <;> first | rfl | exact (hk May.may).elim)⟩

theorem keeps_upd_queued_running_waiting_granted {F : Kind → Prop} [May F .queued] [May F .running] [May F .waiting] [May F .granted] {r s : State} {x0 : List Pkt} {x1 : List Pkt} {x2 : List Waiting} {x3 : List (Pkt × Nat)} (h : Keeps F r s) :
    Keeps F r { s with queued := x0, running := x1, waiting := x2, granted := x3 } :=
  h.trans ⟨rfl, rfl, List.prefix_rfl, id, (fun k hk => by cases k <;> first | rfl | exact (hk May.may).elim)⟩

theorem keeps_upd_raised {F : Kind → Prop} [May F .raised] {r s : State} {x0 : List Event} (h : Keeps F r s) :
    Keeps F r { s with raised := x0 } :=
  h.trans ⟨rfl, rfl, List.prefix_rfl, id, (fun k hk => by cases k <;> first | rfl | exact (hk May.may).elim)⟩

theorem keeps_upd_records {F : Kind → Prop} [May F .records] {r s : State} {x0 : List (List Nat)} (h : Keeps F r s) :
    Keeps F r { s with records := x0 } :=
  h.trans ⟨rfl, rfl, List.prefix_rfl, id, (fun k hk => by cases k <;> first | rfl | exact (hk May.may).elim)⟩

theorem keeps_upd_running {F : Kind → Prop} [May F .running] {r s : State} {x0 : List Pkt} (h : Keeps F r s) :
    Keeps F r { s with running := x0 } :=
  h.trans ⟨rfl, rfl, List.prefix_rfl, id, (fun k hk => by cases k <;> first | rfl | exact (hk May.may).elim)⟩

theorem keeps_upd_tests {F : Kind → Prop} [May F .tests] {r s : State} {x0 : List Test} (h : Keeps F r s) :
    Keeps F r { s with tests := x0 } :=
  h.trans ⟨rfl, rfl, List.prefix_rfl, id, (fun k hk => by cases k <;> first | rfl | exact (hk May.may).elim)⟩

theorem keeps_upd_waiting {F : Kind → Prop} [May F .waiting] {r s : State} {x0 : List Waiting} (h : Keeps F r s) :
    Keeps F r { s with waiting := x0 } :=
  h.trans ⟨rfl, rfl, List.prefix_rfl, id, (fun k hk => by cases k <;> first | rfl | exact (hk May.may).elim)⟩

theorem keeps_upd_waiting_later {F : Kind → Prop} [May F .waiting] [May F .later] {r s : State} {x0 : List Waiting} {x1 : List Waiting} (h : Keeps F r s) :
    Keeps F r { s with waiting := x0, later := x1 } :=
  h.trans ⟨rfl, rfl, List.prefix_rfl, id, (fun k hk => by cases k <;> first | rfl | exact (hk May.may).elim)⟩

theorem keeps_out {F : Kind → Prop} [May F .out] {r s : State} {xs : List Out} (h : Keeps F r s) : Keeps F r { s with out := s.out ++ xs } :=
  h.trans ⟨rfl, rfl, List.prefix_append _ _, id, (fun k hk => by cases k <;> first | rfl | exact (hk May.may).elim)⟩

theorem keeps_kept {F : Kind → Prop} [May F .kept] {r s : State} {xs : List Kept} (h : Keeps F r s) (g : s.kept.length ≤ 64 → xs.length ≤ 64) :
    Keeps F r { s with kept := xs } :=
  h.trans ⟨rfl, rfl, List.prefix_rfl, fun i => ⟨i.1, g i.2.1, i.2.2⟩, (fun k hk => by cases k <;> first | rfl | exact (hk May.may).elim)⟩

theorem keeps_claims {F : Kind → Prop} [May F .claims] {r s : State} {xs : List Claim} (h : Keeps F r s)
    (g : ∀ c ∈ xs, c ∈ s.claims ∨ 1 ≤ c.handle ∧ c.handle ≤ 0xFFFF) : Keeps F r { s with claims := xs } :=
  h.trans ⟨rfl, rfl, List.prefix_rfl, fun i => ⟨i.1, i.2.1, fun c hc => (g c hc).elim (i.2.2 c) id⟩, (fun k hk => by cases k <;> first | rfl | exact (hk May.may).elim)⟩

theorem keeps_regs {F : Kind → Prop} [May F .regs] {r s : State} {m : SMap Word} (h : Keeps F r s) (g : SMap.wf regReset s.regs = true → SMap.wf regReset m = true) :
    Keeps F r { s with regs := m } :=
  h.trans ⟨rfl, rfl, List.prefix_rfl, fun i => ⟨(canonical_iff _).2 (by
    have c := (canonical_iff _).1 i.1
    exact ⟨g c.1, c.2.1, c.2.2.1, c.2.2.2.1, c.2.2.2.2.1, c.2.2.2.2.2.1, c.2.2.2.2.2.2.1, c.2.2.2.2.2.2.2.1, c.2.2.2.2.2.2.2.2.1, c.2.2.2.2.2.2.2.2.2.1, c.2.2.2.2.2.2.2.2.2.2.1, c.2.2.2.2.2.2.2.2.2.2.2.1, c.2.2.2.2.2.2.2.2.2.2.2.2.1, c.2.2.2.2.2.2.2.2.2.2.2.2.2.1, c.2.2.2.2.2.2.2.2.2.2.2.2.2.2.1, c.2.2.2.2.2.2.2.2.2.2.2.2.2.2.2.1, c.2.2.2.2.2.2.2.2.2.2.2.2.2.2.2.2.1, c.2.2.2.2.2.2.2.2.2.2.2.2.2.2.2.2.2.1, c.2.2.2.2.2.2.2.2.2.2.2.2.2.2.2.2.2.2.1, c.2.2.2.2.2.2.2.2.2.2.2.2.2.2.2.2.2.2.2.1, c.2.2.2.2.2.2.2.2.2.2.2.2.2.2.2.2.2.2.2.2.1, c.2.2.2.2.2.2.2.2.2.2.2.2.2.2.2.2.2.2.2.2.2.1, c.2.2.2.2.2.2.2.2.2.2.2.2.2.2.2.2.2.2.2.2.2.2.1, c.2.2.2.2.2.2.2.2.2.2.2.2.2.2.2.2.2.2.2.2.2.2.2.1, c.2.2.2.2.2.2.2.2.2.2.2.2.2.2.2.2.2.2.2.2.2.2.2.2.1, c.2.2.2.2.2.2.2.2.2.2.2.2.2.2.2.2.2.2.2.2.2.2.2.2.2.1, c.2.2.2.2.2.2.2.2.2.2.2.2.2.2.2.2.2.2.2.2.2.2.2.2.2.2.1, c.2.2.2.2.2.2.2.2.2.2.2.2.2.2.2.2.2.2.2.2.2.2.2.2.2.2.2.1, c.2.2.2.2.2.2.2.2.2.2.2.2.2.2.2.2.2.2.2.2.2.2.2.2.2.2.2.2⟩), i.2.1, i.2.2⟩, (fun k hk => by cases k <;> first | rfl | exact (hk May.may).elim)⟩

theorem keeps_regs_put {F : Kind → Prop} [May F .regs] {r s : State} {k : Nat} {v : Word} (h : Keeps F r s) :
    Keeps F r { s with regs := SMap.put regReset s.regs k v } := keeps_regs h (SMap.wf_put _ _ _ _)

theorem keeps_regs_filter {F : Kind → Prop} [May F .regs] {r s : State} {q : Nat × Word → Bool} (h : Keeps F r s) :
    Keeps F r { s with regs := s.regs.filter q } := keeps_regs h (SMap.wf_filter _ _ _)

theorem keeps_ports {F : Kind → Prop} [May F .ports] {r s : State} {m : SMap PortSt} (h : Keeps F r s) (g : SMap.wf (fun _ => PortSt.reset) s.ports = true → SMap.wf (fun _ => PortSt.reset) m = true) :
    Keeps F r { s with ports := m } :=
  h.trans ⟨rfl, rfl, List.prefix_rfl, fun i => ⟨(canonical_iff _).2 (by
    have c := (canonical_iff _).1 i.1
    exact ⟨c.1, g c.2.1, c.2.2.1, c.2.2.2.1, c.2.2.2.2.1, c.2.2.2.2.2.1, c.2.2.2.2.2.2.1, c.2.2.2.2.2.2.2.1, c.2.2.2.2.2.2.2.2.1, c.2.2.2.2.2.2.2.2.2.1, c.2.2.2.2.2.2.2.2.2.2.1, c.2.2.2.2.2.2.2.2.2.2.2.1, c.2.2.2.2.2.2.2.2.2.2.2.2.1, c.2.2.2.2.2.2.2.2.2.2.2.2.2.1, c.2.2.2.2.2.2.2.2.2.2.2.2.2.2.1, c.2.2.2.2.2.2.2.2.2.2.2.2.2.2.2.1, c.2.2.2.2.2.2.2.2.2.2.2.2.2.2.2.2.1, c.2.2.2.2.2.2.2.2.2.2.2.2.2.2.2.2.2.1, c.2.2.2.2.2.2.2.2.2.2.2.2.2.2.2.2.2.2.1, c.2.2.2.2.2.2.2.2.2.2.2.2.2.2.2.2.2.2.2.1, c.2.2.2.2.2.2.2.2.2.2.2.2.2.2.2.2.2.2.2.2.1, c.2.2.2.2.2.2.2.2.2.2.2.2.2.2.2.2.2.2.2.2.2.1, c.2.2.2.2.2.2.2.2.2.2.2.2.2.2.2.2.2.2.2.2.2.2.1, c.2.2.2.2.2.2.2.2.2.2.2.2.2.2.2.2.2.2.2.2.2.2.2.1, c.2.2.2.2.2.2.2.2.2.2.2.2.2.2.2.2.2.2.2.2.2.2.2.2.1, c.2.2.2.2.2.2.2.2.2.2.2.2.2.2.2.2.2.2.2.2.2.2.2.2.2.1, c.2.2.2.2.2.2.2.2.2.2.2.2.2.2.2.2.2.2.2.2.2.2.2.2.2.2.1, c.2.2.2.2.2.2.2.2.2.2.2.2.2.2.2.2.2.2.2.2.2.2.2.2.2.2.2.1, c.2.2.2.2.2.2.2.2.2.2.2.2.2.2.2.2.2.2.2.2.2.2.2.2.2.2.2.2⟩), i.2.1, i.2.2⟩, (fun k hk => by cases k <;> first | rfl | exact (hk May.may).elim)⟩

theorem keeps_ports_put {F : Kind → Prop} [May F .ports] {r s : State} {k : Nat} {v : PortSt} (h : Keeps F r s) :
    Keeps F r { s with ports := SMap.put (fun _ => PortSt.reset) s.ports k v } := keeps_ports h (SMap.wf_put _ _ _ _)

theorem keeps_ports_filter {F : Kind → Prop} [May F .ports] {r s : State} {q : Nat × PortSt → Bool} (h : Keeps F r s) :
    Keeps F r { s with ports := s.ports.filter q } := keeps_ports h (SMap.wf_filter _ _ _)

theorem keeps_pairs {F : Kind → Prop} [May F .pairs] {r s : State} {m : SMap PairSt} (h : Keeps F r s) (g : SMap.wf (fun _ => PairSt.reset) s.pairs = true → SMap.wf (fun _ => PairSt.reset) m = true) :
    Keeps F r { s with pairs := m } :=
  h.trans ⟨rfl, rfl, List.prefix_rfl, fun i => ⟨(canonical_iff _).2 (by
    have c := (canonical_iff _).1 i.1
    exact ⟨c.1, c.2.1, g c.2.2.1, c.2.2.2.1, c.2.2.2.2.1, c.2.2.2.2.2.1, c.2.2.2.2.2.2.1, c.2.2.2.2.2.2.2.1, c.2.2.2.2.2.2.2.2.1, c.2.2.2.2.2.2.2.2.2.1, c.2.2.2.2.2.2.2.2.2.2.1, c.2.2.2.2.2.2.2.2.2.2.2.1, c.2.2.2.2.2.2.2.2.2.2.2.2.1, c.2.2.2.2.2.2.2.2.2.2.2.2.2.1, c.2.2.2.2.2.2.2.2.2.2.2.2.2.2.1, c.2.2.2.2.2.2.2.2.2.2.2.2.2.2.2.1, c.2.2.2.2.2.2.2.2.2.2.2.2.2.2.2.2.1, c.2.2.2.2.2.2.2.2.2.2.2.2.2.2.2.2.2.1, c.2.2.2.2.2.2.2.2.2.2.2.2.2.2.2.2.2.2.1, c.2.2.2.2.2.2.2.2.2.2.2.2.2.2.2.2.2.2.2.1, c.2.2.2.2.2.2.2.2.2.2.2.2.2.2.2.2.2.2.2.2.1, c.2.2.2.2.2.2.2.2.2.2.2.2.2.2.2.2.2.2.2.2.2.1, c.2.2.2.2.2.2.2.2.2.2.2.2.2.2.2.2.2.2.2.2.2.2.1, c.2.2.2.2.2.2.2.2.2.2.2.2.2.2.2.2.2.2.2.2.2.2.2.1, c.2.2.2.2.2.2.2.2.2.2.2.2.2.2.2.2.2.2.2.2.2.2.2.2.1, c.2.2.2.2.2.2.2.2.2.2.2.2.2.2.2.2.2.2.2.2.2.2.2.2.2.1, c.2.2.2.2.2.2.2.2.2.2.2.2.2.2.2.2.2.2.2.2.2.2.2.2.2.2.1, c.2.2.2.2.2.2.2.2.2.2.2.2.2.2.2.2.2.2.2.2.2.2.2.2.2.2.2.1, c.2.2.2.2.2.2.2.2.2.2.2.2.2.2.2.2.2.2.2.2.2.2.2.2.2.2.2.2⟩), i.2.1, i.2.2⟩, (fun k hk => by cases k <;> first | rfl | exact (hk May.may).elim)⟩

theorem keeps_pairs_put {F : Kind → Prop} [May F .pairs] {r s : State} {k : Nat} {v : PairSt} (h : Keeps F r s) :
    Keeps F r { s with pairs := SMap.put (fun _ => PairSt.reset) s.pairs k v } := keeps_pairs h (SMap.wf_put _ _ _ _)

theorem keeps_pairs_filter {F : Kind → Prop} [May F .pairs] {r s : State} {q : Nat × PairSt → Bool} (h : Keeps F r s) :
    Keeps F r { s with pairs := s.pairs.filter q } := keeps_pairs h (SMap.wf_filter _ _ _)

theorem keeps_links {F : Kind → Prop} [May F .links] {r s : State} {m : SMap LinkSt} (h : Keeps F r s) (g : SMap.wf (fun _ => LinkSt.reset) s.links = true → SMap.wf (fun _ => LinkSt.reset) m = true) :
    Keeps F r { s with links := m } :=
  h.trans ⟨rfl, rfl, List.prefix_rfl, fun i => ⟨(canonical_iff _).2 (by
    have c := (canonical_iff _).1 i.1
    exact ⟨c.1, c.2.1, c.2.2.1, g c.2.2.2.1, c.2.2.2.2.1, c.2.2.2.2.2.1, c.2.2.2.2.2.2.1, c.2.2.2.2.2.2.2.1, c.2.2.2.2.2.2.2.2.1, c.2.2.2.2.2.2.2.2.2.1, c.2.2.2.2.2.2.2.2.2.2.1, c.2.2.2.2.2.2.2.2.2.2.2.1, c.2.2.2.2.2.2.2.2.2.2.2.2.1, c.2.2.2.2.2.2.2.2.2.2.2.2.2.1, c.2.2.2.2.2.2.2.2.2.2.2.2.2.2.1, c.2.2.2.2.2.2.2.2.2.2.2.2.2.2.2.1, c.2.2.2.2.2.2.2.2.2.2.2.2.2.2.2.2.1, c.2.2.2.2.2.2.2.2.2.2.2.2.2.2.2.2.2.1, c.2.2.2.2.2.2.2.2.2.2.2.2.2.2.2.2.2.2.1, c.2.2.2.2.2.2.2.2.2.2.2.2.2.2.2.2.2.2.2.1, c.2.2.2.2.2.2.2.2.2.2.2.2.2.2.2.2.2.2.2.2.1, c.2.2.2.2.2.2.2.2.2.2.2.2.2.2.2.2.2.2.2.2.2.1, c.2.2.2.2.2.2.2.2.2.2.2.2.2.2.2.2.2.2.2.2.2.2.1, c.2.2.2.2.2.2.2.2.2.2.2.2.2.2.2.2.2.2.2.2.2.2.2.1, c.2.2.2.2.2.2.2.2.2.2.2.2.2.2.2.2.2.2.2.2.2.2.2.2.1, c.2.2.2.2.2.2.2.2.2.2.2.2.2.2.2.2.2.2.2.2.2.2.2.2.2.1, c.2.2.2.2.2.2.2.2.2.2.2.2.2.2.2.2.2.2.2.2.2.2.2.2.2.2.1, c.2.2.2.2.2.2.2.2.2.2.2.2.2.2.2.2.2.2.2.2.2.2.2.2.2.2.2.1, c.2.2.2.2.2.2.2.2.2.2.2.2.2.2.2.2.2.2.2.2.2.2.2.2.2.2.2.2⟩), i.2.1, i.2.2⟩, (fun k hk => by cases k <;> first | rfl | exact (hk May.may).elim)⟩

theorem keeps_links_put {F : Kind → Prop} [May F .links] {r s : State} {k : Nat} {v : LinkSt} (h : Keeps F r s) :
    Keeps F r { s with links := SMap.put (fun _ => LinkSt.reset) s.links k v } := keeps_links h (SMap.wf_put _ _ _ _)

theorem keeps_links_filter {F : Kind → Prop} [May F .links] {r s : State} {q : Nat × LinkSt → Bool} (h : Keeps F r s) :
    Keeps F r { s with links := s.links.filter q } := keeps_links h (SMap.wf_filter _ _ _)

theorem keeps_queues {F : Kind → Prop} [May F .queues] {r s : State} {m : SMap QueueSt} (h : Keeps F r s) (g : SMap.wf (fun _ => QueueSt.reset) s.queues = true → SMap.wf (fun _ => QueueSt.reset) m = true) :
    Keeps F r { s with queues := m } :=
  h.trans ⟨rfl, rfl, List.prefix_rfl, fun i => ⟨(canonical_iff _).2 (by
    have c := (canonical_iff _).1 i.1
    exact ⟨c.1, c.2.1, c.2.2.1, c.2.2.2.1, g c.2.2.2.2.1, c.2.2.2.2.2.1, c.2.2.2.2.2.2.1, c.2.2.2.2.2.2.2.1, c.2.2.2.2.2.2.2.2.1, c.2.2.2.2.2.2.2.2.2.1, c.2.2.2.2.2.2.2.2.2.2.1, c.2.2.2.2.2.2.2.2.2.2.2.1, c.2.2.2.2.2.2.2.2.2.2.2.2.1, c.2.2.2.2.2.2.2.2.2.2.2.2.2.1, c.2.2.2.2.2.2.2.2.2.2.2.2.2.2.1, c.2.2.2.2.2.2.2.2.2.2.2.2.2.2.2.1, c.2.2.2.2.2.2.2.2.2.2.2.2.2.2.2.2.1, c.2.2.2.2.2.2.2.2.2.2.2.2.2.2.2.2.2.1, c.2.2.2.2.2.2.2.2.2.2.2.2.2.2.2.2.2.2.1, c.2.2.2.2.2.2.2.2.2.2.2.2.2.2.2.2.2.2.2.1, c.2.2.2.2.2.2.2.2.2.2.2.2.2.2.2.2.2.2.2.2.1, c.2.2.2.2.2.2.2.2.2.2.2.2.2.2.2.2.2.2.2.2.2.1, c.2.2.2.2.2.2.2.2.2.2.2.2.2.2.2.2.2.2.2.2.2.2.1, c.2.2.2.2.2.2.2.2.2.2.2.2.2.2.2.2.2.2.2.2.2.2.2.1, c.2.2.2.2.2.2.2.2.2.2.2.2.2.2.2.2.2.2.2.2.2.2.2.2.1, c.2.2.2.2.2.2.2.2.2.2.2.2.2.2.2.2.2.2.2.2.2.2.2.2.2.1, c.2.2.2.2.2.2.2.2.2.2.2.2.2.2.2.2.2.2.2.2.2.2.2.2.2.2.1, c.2.2.2.2.2.2.2.2.2.2.2.2.2.2.2.2.2.2.2.2.2.2.2.2.2.2.2.1, c.2.2.2.2.2.2.2.2.2.2.2.2.2.2.2.2.2.2.2.2.2.2.2.2.2.2.2.2⟩), i.2.1, i.2.2⟩, (fun k hk => by cases k <;> first | rfl | exact (hk May.may).elim)⟩

theorem keeps_queues_put {F : Kind → Prop} [May F .queues] {r s : State} {k : Nat} {v : QueueSt} (h : Keeps F r s) :
    Keeps F r { s with queues := SMap.put (fun _ => QueueSt.reset) s.queues k v } := keeps_queues h (SMap.wf_put _ _ _ _)

theorem keeps_hosts {F : Kind → Prop} [May F .hosts] {r s : State} {m : SMap HostPort} (h : Keeps F r s) (g : SMap.wf (fun _ => HostPort.reset) s.hosts = true → SMap.wf (fun _ => HostPort.reset) m = true) :
    Keeps F r { s with hosts := m } :=
  h.trans ⟨rfl, rfl, List.prefix_rfl, fun i => ⟨(canonical_iff _).2 (by
    have c := (canonical_iff _).1 i.1
    exact ⟨c.1, c.2.1, c.2.2.1, c.2.2.2.1, c.2.2.2.2.1, g c.2.2.2.2.2.1, c.2.2.2.2.2.2.1, c.2.2.2.2.2.2.2.1, c.2.2.2.2.2.2.2.2.1, c.2.2.2.2.2.2.2.2.2.1, c.2.2.2.2.2.2.2.2.2.2.1, c.2.2.2.2.2.2.2.2.2.2.2.1, c.2.2.2.2.2.2.2.2.2.2.2.2.1, c.2.2.2.2.2.2.2.2.2.2.2.2.2.1, c.2.2.2.2.2.2.2.2.2.2.2.2.2.2.1, c.2.2.2.2.2.2.2.2.2.2.2.2.2.2.2.1, c.2.2.2.2.2.2.2.2.2.2.2.2.2.2.2.2.1, c.2.2.2.2.2.2.2.2.2.2.2.2.2.2.2.2.2.1, c.2.2.2.2.2.2.2.2.2.2.2.2.2.2.2.2.2.2.1, c.2.2.2.2.2.2.2.2.2.2.2.2.2.2.2.2.2.2.2.1, c.2.2.2.2.2.2.2.2.2.2.2.2.2.2.2.2.2.2.2.2.1, c.2.2.2.2.2.2.2.2.2.2.2.2.2.2.2.2.2.2.2.2.2.1, c.2.2.2.2.2.2.2.2.2.2.2.2.2.2.2.2.2.2.2.2.2.2.1, c.2.2.2.2.2.2.2.2.2.2.2.2.2.2.2.2.2.2.2.2.2.2.2.1, c.2.2.2.2.2.2.2.2.2.2.2.2.2.2.2.2.2.2.2.2.2.2.2.2.1, c.2.2.2.2.2.2.2.2.2.2.2.2.2.2.2.2.2.2.2.2.2.2.2.2.2.1, c.2.2.2.2.2.2.2.2.2.2.2.2.2.2.2.2.2.2.2.2.2.2.2.2.2.2.1, c.2.2.2.2.2.2.2.2.2.2.2.2.2.2.2.2.2.2.2.2.2.2.2.2.2.2.2.1, c.2.2.2.2.2.2.2.2.2.2.2.2.2.2.2.2.2.2.2.2.2.2.2.2.2.2.2.2⟩), i.2.1, i.2.2⟩, (fun k hk => by cases k <;> first | rfl | exact (hk May.may).elim)⟩

theorem keeps_hosts_put {F : Kind → Prop} [May F .hosts] {r s : State} {k : Nat} {v : HostPort} (h : Keeps F r s) :
    Keeps F r { s with hosts := SMap.put (fun _ => HostPort.reset) s.hosts k v } := keeps_hosts h (SMap.wf_put _ _ _ _)

theorem keeps_lanes {F : Kind → Prop} [May F .lanes] {r s : State} {m : SMap LaneSt} (h : Keeps F r s) (g : SMap.wf (fun _ => LaneSt.reset) s.lanes = true → SMap.wf (fun _ => LaneSt.reset) m = true) :
    Keeps F r { s with lanes := m } :=
  h.trans ⟨rfl, rfl, List.prefix_rfl, fun i => ⟨(canonical_iff _).2 (by
    have c := (canonical_iff _).1 i.1
    exact ⟨c.1, c.2.1, c.2.2.1, c.2.2.2.1, c.2.2.2.2.1, c.2.2.2.2.2.1, g c.2.2.2.2.2.2.1, c.2.2.2.2.2.2.2.1, c.2.2.2.2.2.2.2.2.1, c.2.2.2.2.2.2.2.2.2.1, c.2.2.2.2.2.2.2.2.2.2.1, c.2.2.2.2.2.2.2.2.2.2.2.1, c.2.2.2.2.2.2.2.2.2.2.2.2.1, c.2.2.2.2.2.2.2.2.2.2.2.2.2.1, c.2.2.2.2.2.2.2.2.2.2.2.2.2.2.1, c.2.2.2.2.2.2.2.2.2.2.2.2.2.2.2.1, c.2.2.2.2.2.2.2.2.2.2.2.2.2.2.2.2.1, c.2.2.2.2.2.2.2.2.2.2.2.2.2.2.2.2.2.1, c.2.2.2.2.2.2.2.2.2.2.2.2.2.2.2.2.2.2.1, c.2.2.2.2.2.2.2.2.2.2.2.2.2.2.2.2.2.2.2.1, c.2.2.2.2.2.2.2.2.2.2.2.2.2.2.2.2.2.2.2.2.1, c.2.2.2.2.2.2.2.2.2.2.2.2.2.2.2.2.2.2.2.2.2.1, c.2.2.2.2.2.2.2.2.2.2.2.2.2.2.2.2.2.2.2.2.2.2.1, c.2.2.2.2.2.2.2.2.2.2.2.2.2.2.2.2.2.2.2.2.2.2.2.1, c.2.2.2.2.2.2.2.2.2.2.2.2.2.2.2.2.2.2.2.2.2.2.2.2.1, c.2.2.2.2.2.2.2.2.2.2.2.2.2.2.2.2.2.2.2.2.2.2.2.2.2.1, c.2.2.2.2.2.2.2.2.2.2.2.2.2.2.2.2.2.2.2.2.2.2.2.2.2.2.1, c.2.2.2.2.2.2.2.2.2.2.2.2.2.2.2.2.2.2.2.2.2.2.2.2.2.2.2.1, c.2.2.2.2.2.2.2.2.2.2.2.2.2.2.2.2.2.2.2.2.2.2.2.2.2.2.2.2⟩), i.2.1, i.2.2⟩, (fun k hk => by cases k <;> first | rfl | exact (hk May.may).elim)⟩

theorem keeps_lanes_put {F : Kind → Prop} [May F .lanes] {r s : State} {k : Nat} {v : LaneSt} (h : Keeps F r s) :
    Keeps F r { s with lanes := SMap.put (fun _ => LaneSt.reset) s.lanes k v } := keeps_lanes h (SMap.wf_put _ _ _ _)

theorem keeps_laneOf {F : Kind → Prop} [May F .laneOf] {r s : State} {m : SMap Nat} (h : Keeps F r s) (g : SMap.wf (fun k => k) s.laneOf = true → SMap.wf (fun k => k) m = true) :
    Keeps F r { s with laneOf := m } :=
  h.trans ⟨rfl, rfl, List.prefix_rfl, fun i => ⟨(canonical_iff _).2 (by
    have c := (canonical_iff _).1 i.1
    exact ⟨c.1, c.2.1, c.2.2.1, c.2.2.2.1, c.2.2.2.2.1, c.2.2.2.2.2.1, c.2.2.2.2.2.2.1, g c.2.2.2.2.2.2.2.1, c.2.2.2.2.2.2.2.2.1, c.2.2.2.2.2.2.2.2.2.1, c.2.2.2.2.2.2.2.2.2.2.1, c.2.2.2.2.2.2.2.2.2.2.2.1, c.2.2.2.2.2.2.2.2.2.2.2.2.1, c.2.2.2.2.2.2.2.2.2.2.2.2.2.1, c.2.2.2.2.2.2.2.2.2.2.2.2.2.2.1, c.2.2.2.2.2.2.2.2.2.2.2.2.2.2.2.1, c.2.2.2.2.2.2.2.2.2.2.2.2.2.2.2.2.1, c.2.2.2.2.2.2.2.2.2.2.2.2.2.2.2.2.2.1, c.2.2.2.2.2.2.2.2.2.2.2.2.2.2.2.2.2.2.1, c.2.2.2.2.2.2.2.2.2.2.2.2.2.2.2.2.2.2.2.1, c.2.2.2.2.2.2.2.2.2.2.2.2.2.2.2.2.2.2.2.2.1, c.2.2.2.2.2.2.2.2.2.2.2.2.2.2.2.2.2.2.2.2.2.1, c.2.2.2.2.2.2.2.2.2.2.2.2.2.2.2.2.2.2.2.2.2.2.1, c.2.2.2.2.2.2.2.2.2.2.2.2.2.2.2.2.2.2.2.2.2.2.2.1, c.2.2.2.2.2.2.2.2.2.2.2.2.2.2.2.2.2.2.2.2.2.2.2.2.1, c.2.2.2.2.2.2.2.2.2.2.2.2.2.2.2.2.2.2.2.2.2.2.2.2.2.1, c.2.2.2.2.2.2.2.2.2.2.2.2.2.2.2.2.2.2.2.2.2.2.2.2.2.2.1, c.2.2.2.2.2.2.2.2.2.2.2.2.2.2.2.2.2.2.2.2.2.2.2.2.2.2.2.1, c.2.2.2.2.2.2.2.2.2.2.2.2.2.2.2.2.2.2.2.2.2.2.2.2.2.2.2.2⟩), i.2.1, i.2.2⟩, (fun k hk => by cases k <;> first | rfl | exact (hk May.may).elim)⟩

theorem keeps_laneOf_put {F : Kind → Prop} [May F .laneOf] {r s : State} {k : Nat} {v : Nat} (h : Keeps F r s) :
    Keeps F r { s with laneOf := SMap.put (fun k => k) s.laneOf k v } := keeps_laneOf h (SMap.wf_put _ _ _ _)

theorem keeps_tbl {F : Kind → Prop} [May F .tbl] {r s : State} {m : SMap Nat} (h : Keeps F r s) (g : SMap.wf (fun _ => emptyEntry) s.tbl = true → SMap.wf (fun _ => emptyEntry) m = true) :
    Keeps F r { s with tbl := m } :=
  h.trans ⟨rfl, rfl, List.prefix_rfl, fun i => ⟨(canonical_iff _).2 (by
    have c := (canonical_iff _).1 i.1
    exact ⟨c.1, c.2.1, c.2.2.1, c.2.2.2.1, c.2.2.2.2.1, c.2.2.2.2.2.1, c.2.2.2.2.2.2.1, c.2.2.2.2.2.2.2.1, g c.2.2.2.2.2.2.2.2.1, c.2.2.2.2.2.2.2.2.2.1, c.2.2.2.2.2.2.2.2.2.2.1, c.2.2.2.2.2.2.2.2.2.2.2.1, c.2.2.2.2.2.2.2.2.2.2.2.2.1, c.2.2.2.2.2.2.2.2.2.2.2.2.2.1, c.2.2.2.2.2.2.2.2.2.2.2.2.2.2.1, c.2.2.2.2.2.2.2.2.2.2.2.2.2.2.2.1, c.2.2.2.2.2.2.2.2.2.2.2.2.2.2.2.2.1, c.2.2.2.2.2.2.2.2.2.2.2.2.2.2.2.2.2.1, c.2.2.2.2.2.2.2.2.2.2.2.2.2.2.2.2.2.2.1, c.2.2.2.2.2.2.2.2.2.2.2.2.2.2.2.2.2.2.2.1, c.2.2.2.2.2.2.2.2.2.2.2.2.2.2.2.2.2.2.2.2.1, c.2.2.2.2.2.2.2.2.2.2.2.2.2.2.2.2.2.2.2.2.2.1, c.2.2.2.2.2.2.2.2.2.2.2.2.2.2.2.2.2.2.2.2.2.2.1, c.2.2.2.2.2.2.2.2.2.2.2.2.2.2.2.2.2.2.2.2.2.2.2.1, c.2.2.2.2.2.2.2.2.2.2.2.2.2.2.2.2.2.2.2.2.2.2.2.2.1, c.2.2.2.2.2.2.2.2.2.2.2.2.2.2.2.2.2.2.2.2.2.2.2.2.2.1, c.2.2.2.2.2.2.2.2.2.2.2.2.2.2.2.2.2.2.2.2.2.2.2.2.2.2.1, c.2.2.2.2.2.2.2.2.2.2.2.2.2.2.2.2.2.2.2.2.2.2.2.2.2.2.2.1, c.2.2.2.2.2.2.2.2.2.2.2.2.2.2.2.2.2.2.2.2.2.2.2.2.2.2.2.2⟩), i.2.1, i.2.2⟩, (fun k hk => by cases k <;> first | rfl | exact (hk May.may).elim)⟩

theorem keeps_tbl_put {F : Kind → Prop} [May F .tbl] {r s : State} {k : Nat} {v : Nat} (h : Keeps F r s) :
    Keeps F r { s with tbl := SMap.put (fun _ => emptyEntry) s.tbl k v } := keeps_tbl h (SMap.wf_put _ _ _ _)

theorem keeps_tbl_filter {F : Kind → Prop} [May F .tbl] {r s : State} {q : Nat × Nat → Bool} (h : Keeps F r s) :
    Keeps F r { s with tbl := s.tbl.filter q } := keeps_tbl h (SMap.wf_filter _ _ _)

theorem keeps_held {F : Kind → Prop} [May F .held] {r s : State} {m : SMap Nat} (h : Keeps F r s) (g : SMap.wf (fun _ => emptyEntry) s.held = true → SMap.wf (fun _ => emptyEntry) m = true) :
    Keeps F r { s with held := m } :=
  h.trans ⟨rfl, rfl, List.prefix_rfl, fun i => ⟨(canonical_iff _).2 (by
    have c := (canonical_iff _).1 i.1
    exact ⟨c.1, c.2.1, c.2.2.1, c.2.2.2.1, c.2.2.2.2.1, c.2.2.2.2.2.1, c.2.2.2.2.2.2.1, c.2.2.2.2.2.2.2.1, c.2.2.2.2.2.2.2.2.1, g c.2.2.2.2.2.2.2.2.2.1, c.2.2.2.2.2.2.2.2.2.2.1, c.2.2.2.2.2.2.2.2.2.2.2.1, c.2.2.2.2.2.2.2.2.2.2.2.2.1, c.2.2.2.2.2.2.2.2.2.2.2.2.2.1, c.2.2.2.2.2.2.2.2.2.2.2.2.2.2.1, c.2.2.2.2.2.2.2.2.2.2.2.2.2.2.2.1, c.2.2.2.2.2.2.2.2.2.2.2.2.2.2.2.2.1, c.2.2.2.2.2.2.2.2.2.2.2.2.2.2.2.2.2.1, c.2.2.2.2.2.2.2.2.2.2.2.2.2.2.2.2.2.2.1, c.2.2.2.2.2.2.2.2.2.2.2.2.2.2.2.2.2.2.2.1, c.2.2.2.2.2.2.2.2.2.2.2.2.2.2.2.2.2.2.2.2.1, c.2.2.2.2.2.2.2.2.2.2.2.2.2.2.2.2.2.2.2.2.2.1, c.2.2.2.2.2.2.2.2.2.2.2.2.2.2.2.2.2.2.2.2.2.2.1, c.2.2.2.2.2.2.2.2.2.2.2.2.2.2.2.2.2.2.2.2.2.2.2.1, c.2.2.2.2.2.2.2.2.2.2.2.2.2.2.2.2.2.2.2.2.2.2.2.2.1, c.2.2.2.2.2.2.2.2.2.2.2.2.2.2.2.2.2.2.2.2.2.2.2.2.2.1, c.2.2.2.2.2.2.2.2.2.2.2.2.2.2.2.2.2.2.2.2.2.2.2.2.2.2.1, c.2.2.2.2.2.2.2.2.2.2.2.2.2.2.2.2.2.2.2.2.2.2.2.2.2.2.2.1, c.2.2.2.2.2.2.2.2.2.2.2.2.2.2.2.2.2.2.2.2.2.2.2.2.2.2.2.2⟩), i.2.1, i.2.2⟩, (fun k hk => by cases k <;> first | rfl | exact (hk May.may).elim)⟩

theorem keeps_held_put {F : Kind → Prop} [May F .held] {r s : State} {k : Nat} {v : Nat} (h : Keeps F r s) :
    Keeps F r { s with held := SMap.put (fun _ => emptyEntry) s.held k v } := keeps_held h (SMap.wf_put _ _ _ _)

theorem keeps_held_filter {F : Kind → Prop} [May F .held] {r s : State} {q : Nat × Nat → Bool} (h : Keeps F r s) :
    Keeps F r { s with held := s.held.filter q } := keeps_held h (SMap.wf_filter _ _ _)

theorem keeps_snr {F : Kind → Prop} [May F .snr] {r s : State} {m : SMap Nat} (h : Keeps F r s) (g : SMap.wf (fun _ => 0) s.snr = true → SMap.wf (fun _ => 0) m = true) :
    Keeps F r { s with snr := m } :=
  h.trans ⟨rfl, rfl, List.prefix_rfl, fun i => ⟨(canonical_iff _).2 (by
    have c := (canonical_iff _).1 i.1
    exact ⟨c.1, c.2.1, c.2.2.1, c.2.2.2.1, c.2.2.2.2.1, c.2.2.2.2.2.1, c.2.2.2.2.2.2.1, c.2.2.2.2.2.2.2.1, c.2.2.2.2.2.2.2.2.1, c.2.2.2.2.2.2.2.2.2.1, g c.2.2.2.2.2.2.2.2.2.2.1, c.2.2.2.2.2.2.2.2.2.2.2.1, c.2.2.2.2.2.2.2.2.2.2.2.2.1, c.2.2.2.2.2.2.2.2.2.2.2.2.2.1, c.2.2.2.2.2.2.2.2.2.2.2.2.2.2.1, c.2.2.2.2.2.2.2.2.2.2.2.2.2.2.2.1, c.2.2.2.2.2.2.2.2.2.2.2.2.2.2.2.2.1, c.2.2.2.2.2.2.2.2.2.2.2.2.2.2.2.2.2.1, c.2.2.2.2.2.2.2.2.2.2.2.2.2.2.2.2.2.2.1, c.2.2.2.2.2.2.2.2.2.2.2.2.2.2.2.2.2.2.2.1, c.2.2.2.2.2.2.2.2.2.2.2.2.2.2.2.2.2.2.2.2.1, c.2.2.2.2.2.2.2.2.2.2.2.2.2.2.2.2.2.2.2.2.2.1, c.2.2.2.2.2.2.2.2.2.2.2.2.2.2.2.2.2.2.2.2.2.2.1, c.2.2.2.2.2.2.2.2.2.2.2.2.2.2.2.2.2.2.2.2.2.2.2.1, c.2.2.2.2.2.2.2.2.2.2.2.2.2.2.2.2.2.2.2.2.2.2.2.2.1, c.2.2.2.2.2.2.2.2.2.2.2.2.2.2.2.2.2.2.2.2.2.2.2.2.2.1, c.2.2.2.2.2.2.2.2.2.2.2.2.2.2.2.2.2.2.2.2.2.2.2.2.2.2.1, c.2.2.2.2.2.2.2.2.2.2.2.2.2.2.2.2.2.2.2.2.2.2.2.2.2.2.2.1, c.2.2.2.2.2.2.2.2.2.2.2.2.2.2.2.2.2.2.2.2.2.2.2.2.2.2.2.2⟩), i.2.1, i.2.2⟩, (fun k hk => by cases k <;> first | rfl | exact (hk May.may).elim)⟩

theorem keeps_snr_put {F : Kind → Prop} [May F .snr] {r s : State} {k : Nat} {v : Nat} (h : Keeps F r s) :
    Keeps F r { s with snr := SMap.put (fun _ => 0) s.snr k v } := keeps_snr h (SMap.wf_put _ _ _ _)

theorem keeps_snr_filter {F : Kind → Prop} [May F .snr] {r s : State} {q : Nat × Nat → Bool} (h : Keeps F r s) :
    Keeps F r { s with snr := s.snr.filter q } := keeps_snr h (SMap.wf_filter _ _ _)

theorem keeps_erle {F : Kind → Prop} [May F .erle] {r s : State} {m : SMap Nat} (h : Keeps F r s) (g : SMap.wf (fun _ => 0) s.erle = true → SMap.wf (fun _ => 0) m = true) :
    Keeps F r { s with erle := m } :=
  h.trans ⟨rfl, rfl, List.prefix_rfl, fun i => ⟨(canonical_iff _).2 (by
    have c := (canonical_iff _).1 i.1
    exact ⟨c.1, c.2.1, c.2.2.1, c.2.2.2.1, c.2.2.2.2.1, c.2.2.2.2.2.1, c.2.2.2.2.2.2.1, c.2.2.2.2.2.2.2.1, c.2.2.2.2.2.2.2.2.1, c.2.2.2.2.2.2.2.2.2.1, c.2.2.2.2.2.2.2.2.2.2.1, g c.2.2.2.2.2.2.2.2.2.2.2.1, c.2.2.2.2.2.2.2.2.2.2.2.2.1, c.2.2.2.2.2.2.2.2.2.2.2.2.2.1, c.2.2.2.2.2.2.2.2.2.2.2.2.2.2.1, c.2.2.2.2.2.2.2.2.2.2.2.2.2.2.2.1, c.2.2.2.2.2.2.2.2.2.2.2.2.2.2.2.2.1, c.2.2.2.2.2.2.2.2.2.2.2.2.2.2.2.2.2.1, c.2.2.2.2.2.2.2.2.2.2.2.2.2.2.2.2.2.2.1, c.2.2.2.2.2.2.2.2.2.2.2.2.2.2.2.2.2.2.2.1, c.2.2.2.2.2.2.2.2.2.2.2.2.2.2.2.2.2.2.2.2.1, c.2.2.2.2.2.2.2.2.2.2.2.2.2.2.2.2.2.2.2.2.2.1, c.2.2.2.2.2.2.2.2.2.2.2.2.2.2.2.2.2.2.2.2.2.2.1, c.2.2.2.2.2.2.2.2.2.2.2.2.2.2.2.2.2.2.2.2.2.2.2.1, c.2.2.2.2.2.2.2.2.2.2.2.2.2.2.2.2.2.2.2.2.2.2.2.2.1, c.2.2.2.2.2.2.2.2.2.2.2.2.2.2.2.2.2.2.2.2.2.2.2.2.2.1, c.2.2.2.2.2.2.2.2.2.2.2.2.2.2.2.2.2.2.2.2.2.2.2.2.2.2.1, c.2.2.2.2.2.2.2.2.2.2.2.2.2.2.2.2.2.2.2.2.2.2.2.2.2.2.2.1, c.2.2.2.2.2.2.2.2.2.2.2.2.2.2.2.2.2.2.2.2.2.2.2.2.2.2.2.2⟩), i.2.1, i.2.2⟩, (fun k hk => by cases k <;> first | rfl | exact (hk May.may).elim)⟩

theorem keeps_erle_put {F : Kind → Prop} [May F .erle] {r s : State} {k : Nat} {v : Nat} (h : Keeps F r s) :
    Keeps F r { s with erle := SMap.put (fun _ => 0) s.erle k v } := keeps_erle h (SMap.wf_put _ _ _ _)

theorem keeps_erle_filter {F : Kind → Prop} [May F .erle] {r s : State} {q : Nat × Nat → Bool} (h : Keeps F r s) :
    Keeps F r { s with erle := s.erle.filter q } := keeps_erle h (SMap.wf_filter _ _ _)

theorem keeps_coef {F : Kind → Prop} [May F .coef] {r s : State} {m : SMap (Option Word)} (h : Keeps F r s) (g : SMap.wf (fun _ => none) s.coef = true → SMap.wf (fun _ => none) m = true) :
    Keeps F r { s with coef := m } :=
  h.trans ⟨rfl, rfl, List.prefix_rfl, fun i => ⟨(canonical_iff _).2 (by
    have c := (canonical_iff _).1 i.1
    exact ⟨c.1, c.2.1, c.2.2.1, c.2.2.2.1, c.2.2.2.2.1, c.2.2.2.2.2.1, c.2.2.2.2.2.2.1, c.2.2.2.2.2.2.2.1, c.2.2.2.2.2.2.2.2.1, c.2.2.2.2.2.2.2.2.2.1, c.2.2.2.2.2.2.2.2.2.2.1, c.2.2.2.2.2.2.2.2.2.2.2.1, g c.2.2.2.2.2.2.2.2.2.2.2.2.1, c.2.2.2.2.2.2.2.2.2.2.2.2.2.1, c.2.2.2.2.2.2.2.2.2.2.2.2.2.2.1, c.2.2.2.2.2.2.2.2.2.2.2.2.2.2.2.1, c.2.2.2.2.2.2.2.2.2.2.2.2.2.2.2.2.1, c.2.2.2.2.2.2.2.2.2.2.2.2.2.2.2.2.2.1, c.2.2.2.2.2.2.2.2.2.2.2.2.2.2.2.2.2.2.1, c.2.2.2.2.2.2.2.2.2.2.2.2.2.2.2.2.2.2.2.1, c.2.2.2.2.2.2.2.2.2.2.2.2.2.2.2.2.2.2.2.2.1, c.2.2.2.2.2.2.2.2.2.2.2.2.2.2.2.2.2.2.2.2.2.1, c.2.2.2.2.2.2.2.2.2.2.2.2.2.2.2.2.2.2.2.2.2.2.1, c.2.2.2.2.2.2.2.2.2.2.2.2.2.2.2.2.2.2.2.2.2.2.2.1, c.2.2.2.2.2.2.2.2.2.2.2.2.2.2.2.2.2.2.2.2.2.2.2.2.1, c.2.2.2.2.2.2.2.2.2.2.2.2.2.2.2.2.2.2.2.2.2.2.2.2.2.1, c.2.2.2.2.2.2.2.2.2.2.2.2.2.2.2.2.2.2.2.2.2.2.2.2.2.2.1, c.2.2.2.2.2.2.2.2.2.2.2.2.2.2.2.2.2.2.2.2.2.2.2.2.2.2.2.1, c.2.2.2.2.2.2.2.2.2.2.2.2.2.2.2.2.2.2.2.2.2.2.2.2.2.2.2.2⟩), i.2.1, i.2.2⟩, (fun k hk => by cases k <;> first | rfl | exact (hk May.may).elim)⟩

theorem keeps_coef_put {F : Kind → Prop} [May F .coef] {r s : State} {k : Nat} {v : (Option Word)} (h : Keeps F r s) :
    Keeps F r { s with coef := SMap.put (fun _ => none) s.coef k v } := keeps_coef h (SMap.wf_put _ _ _ _)

theorem keeps_coef_filter {F : Kind → Prop} [May F .coef] {r s : State} {q : Nat × (Option Word) → Bool} (h : Keeps F r s) :
    Keeps F r { s with coef := s.coef.filter q } := keeps_coef h (SMap.wf_filter _ _ _)

theorem keeps_seeds {F : Kind → Prop} [May F .seeds] {r s : State} {m : SMap Nat} (h : Keeps F r s) (g : SMap.wf (fun _ => 0) s.seeds = true → SMap.wf (fun _ => 0) m = true) :
    Keeps F r { s with seeds := m } :=
  h.trans ⟨rfl, rfl, List.prefix_rfl, fun i => ⟨(canonical_iff _).2 (by
    have c := (canonical_iff _).1 i.1
    exact ⟨c.1, c.2.1, c.2.2.1, c.2.2.2.1, c.2.2.2.2.1, c.2.2.2.2.2.1, c.2.2.2.2.2.2.1, c.2.2.2.2.2.2.2.1, c.2.2.2.2.2.2.2.2.1, c.2.2.2.2.2.2.2.2.2.1, c.2.2.2.2.2.2.2.2.2.2.1, c.2.2.2.2.2.2.2.2.2.2.2.1, c.2.2.2.2.2.2.2.2.2.2.2.2.1, g c.2.2.2.2.2.2.2.2.2.2.2.2.2.1, c.2.2.2.2.2.2.2.2.2.2.2.2.2.2.1, c.2.2.2.2.2.2.2.2.2.2.2.2.2.2.2.1, c.2.2.2.2.2.2.2.2.2.2.2.2.2.2.2.2.1, c.2.2.2.2.2.2.2.2.2.2.2.2.2.2.2.2.2.1, c.2.2.2.2.2.2.2.2.2.2.2.2.2.2.2.2.2.2.1, c.2.2.2.2.2.2.2.2.2.2.2.2.2.2.2.2.2.2.2.1, c.2.2.2.2.2.2.2.2.2.2.2.2.2.2.2.2.2.2.2.2.1, c.2.2.2.2.2.2.2.2.2.2.2.2.2.2.2.2.2.2.2.2.2.1, c.2.2.2.2.2.2.2.2.2.2.2.2.2.2.2.2.2.2.2.2.2.2.1, c.2.2.2.2.2.2.2.2.2.2.2.2.2.2.2.2.2.2.2.2.2.2.2.1, c.2.2.2.2.2.2.2.2.2.2.2.2.2.2.2.2.2.2.2.2.2.2.2.2.1, c.2.2.2.2.2.2.2.2.2.2.2.2.2.2.2.2.2.2.2.2.2.2.2.2.2.1, c.2.2.2.2.2.2.2.2.2.2.2.2.2.2.2.2.2.2.2.2.2.2.2.2.2.2.1, c.2.2.2.2.2.2.2.2.2.2.2.2.2.2.2.2.2.2.2.2.2.2.2.2.2.2.2.1, c.2.2.2.2.2.2.2.2.2.2.2.2.2.2.2.2.2.2.2.2.2.2.2.2.2.2.2.2⟩), i.2.1, i.2.2⟩, (fun k hk => by cases k <;> first | rfl | exact (hk May.may).elim)⟩

theorem keeps_seeds_put {F : Kind → Prop} [May F .seeds] {r s : State} {k : Nat} {v : Nat} (h : Keeps F r s) :
    Keeps F r { s with seeds := SMap.put (fun _ => 0) s.seeds k v } := keeps_seeds h (SMap.wf_put _ _ _ _)

theorem keeps_seeds_filter {F : Kind → Prop} [May F .seeds] {r s : State} {q : Nat × Nat → Bool} (h : Keeps F r s) :
    Keeps F r { s with seeds := s.seeds.filter q } := keeps_seeds h (SMap.wf_filter _ _ _)

theorem keeps_banks {F : Kind → Prop} [May F .banks] {r s : State} {m : BedUse} (h : Keeps F r s) (g : SMap.wf (fun _ => 0) s.banks.used = true → SMap.wf (fun _ => 0) m.used = true) :
    Keeps F r { s with banks := m } :=
  h.trans ⟨rfl, rfl, List.prefix_rfl, fun i => ⟨(canonical_iff _).2 (by
    have c := (canonical_iff _).1 i.1
    exact ⟨c.1, c.2.1, c.2.2.1, c.2.2.2.1, c.2.2.2.2.1, c.2.2.2.2.2.1, c.2.2.2.2.2.2.1, c.2.2.2.2.2.2.2.1, c.2.2.2.2.2.2.2.2.1, c.2.2.2.2.2.2.2.2.2.1, c.2.2.2.2.2.2.2.2.2.2.1, c.2.2.2.2.2.2.2.2.2.2.2.1, c.2.2.2.2.2.2.2.2.2.2.2.2.1, c.2.2.2.2.2.2.2.2.2.2.2.2.2.1, g c.2.2.2.2.2.2.2.2.2.2.2.2.2.2.1, c.2.2.2.2.2.2.2.2.2.2.2.2.2.2.2.1, c.2.2.2.2.2.2.2.2.2.2.2.2.2.2.2.2.1, c.2.2.2.2.2.2.2.2.2.2.2.2.2.2.2.2.2.1, c.2.2.2.2.2.2.2.2.2.2.2.2.2.2.2.2.2.2.1, c.2.2.2.2.2.2.2.2.2.2.2.2.2.2.2.2.2.2.2.1, c.2.2.2.2.2.2.2.2.2.2.2.2.2.2.2.2.2.2.2.2.1, c.2.2.2.2.2.2.2.2.2.2.2.2.2.2.2.2.2.2.2.2.2.1, c.2.2.2.2.2.2.2.2.2.2.2.2.2.2.2.2.2.2.2.2.2.2.1, c.2.2.2.2.2.2.2.2.2.2.2.2.2.2.2.2.2.2.2.2.2.2.2.1, c.2.2.2.2.2.2.2.2.2.2.2.2.2.2.2.2.2.2.2.2.2.2.2.2.1, c.2.2.2.2.2.2.2.2.2.2.2.2.2.2.2.2.2.2.2.2.2.2.2.2.2.1, c.2.2.2.2.2.2.2.2.2.2.2.2.2.2.2.2.2.2.2.2.2.2.2.2.2.2.1, c.2.2.2.2.2.2.2.2.2.2.2.2.2.2.2.2.2.2.2.2.2.2.2.2.2.2.2.1, c.2.2.2.2.2.2.2.2.2.2.2.2.2.2.2.2.2.2.2.2.2.2.2.2.2.2.2.2⟩), i.2.1, i.2.2⟩, (fun k hk => by cases k <;> first | rfl | exact (hk May.may).elim)⟩

theorem keeps_banks_put {F : Kind → Prop} [May F .banks] {r s : State} {k : Nat} {v : Nat} (h : Keeps F r s) :
    Keeps F r { s with banks := { s.banks with used := SMap.put (fun _ => 0) s.banks.used k v } } :=
  keeps_banks h (SMap.wf_put _ _ _ _)

theorem keeps_banks_shared {F : Kind → Prop} [May F .banks] {r s : State} {v : Nat} (h : Keeps F r s) :
    Keeps F r { s with banks := { s.banks with shared := v } } := keeps_banks h id

theorem keeps_rows {F : Kind → Prop} [May F .rows] {r s : State} {m : SMap Nat} (h : Keeps F r s) (g : SMap.wf (fun _ => 0) s.rows = true → SMap.wf (fun _ => 0) m = true) :
    Keeps F r { s with rows := m } :=
  h.trans ⟨rfl, rfl, List.prefix_rfl, fun i => ⟨(canonical_iff _).2 (by
    have c := (canonical_iff _).1 i.1
    exact ⟨c.1, c.2.1, c.2.2.1, c.2.2.2.1, c.2.2.2.2.1, c.2.2.2.2.2.1, c.2.2.2.2.2.2.1, c.2.2.2.2.2.2.2.1, c.2.2.2.2.2.2.2.2.1, c.2.2.2.2.2.2.2.2.2.1, c.2.2.2.2.2.2.2.2.2.2.1, c.2.2.2.2.2.2.2.2.2.2.2.1, c.2.2.2.2.2.2.2.2.2.2.2.2.1, c.2.2.2.2.2.2.2.2.2.2.2.2.2.1, c.2.2.2.2.2.2.2.2.2.2.2.2.2.2.1, g c.2.2.2.2.2.2.2.2.2.2.2.2.2.2.2.1, c.2.2.2.2.2.2.2.2.2.2.2.2.2.2.2.2.1, c.2.2.2.2.2.2.2.2.2.2.2.2.2.2.2.2.2.1, c.2.2.2.2.2.2.2.2.2.2.2.2.2.2.2.2.2.2.1, c.2.2.2.2.2.2.2.2.2.2.2.2.2.2.2.2.2.2.2.1, c.2.2.2.2.2.2.2.2.2.2.2.2.2.2.2.2.2.2.2.2.1, c.2.2.2.2.2.2.2.2.2.2.2.2.2.2.2.2.2.2.2.2.2.1, c.2.2.2.2.2.2.2.2.2.2.2.2.2.2.2.2.2.2.2.2.2.2.1, c.2.2.2.2.2.2.2.2.2.2.2.2.2.2.2.2.2.2.2.2.2.2.2.1, c.2.2.2.2.2.2.2.2.2.2.2.2.2.2.2.2.2.2.2.2.2.2.2.2.1, c.2.2.2.2.2.2.2.2.2.2.2.2.2.2.2.2.2.2.2.2.2.2.2.2.2.1, c.2.2.2.2.2.2.2.2.2.2.2.2.2.2.2.2.2.2.2.2.2.2.2.2.2.2.1, c.2.2.2.2.2.2.2.2.2.2.2.2.2.2.2.2.2.2.2.2.2.2.2.2.2.2.2.1, c.2.2.2.2.2.2.2.2.2.2.2.2.2.2.2.2.2.2.2.2.2.2.2.2.2.2.2.2⟩), i.2.1, i.2.2⟩, (fun k hk => by cases k <;> first | rfl | exact (hk May.may).elim)⟩

theorem keeps_rows_put {F : Kind → Prop} [May F .rows] {r s : State} {k : Nat} {v : Nat} (h : Keeps F r s) :
    Keeps F r { s with rows := SMap.put (fun _ => 0) s.rows k v } := keeps_rows h (SMap.wf_put _ _ _ _)

theorem keeps_rows_filter {F : Kind → Prop} [May F .rows] {r s : State} {q : Nat × Nat → Bool} (h : Keeps F r s) :
    Keeps F r { s with rows := s.rows.filter q } := keeps_rows h (SMap.wf_filter _ _ _)

theorem keeps_tiles {F : Kind → Prop} [May F .tiles] {r s : State} {m : SMap TileSt} (h : Keeps F r s) (g : SMap.wf (fun _ => TileSt.reset) s.tiles = true → SMap.wf (fun _ => TileSt.reset) m = true) :
    Keeps F r { s with tiles := m } :=
  h.trans ⟨rfl, rfl, List.prefix_rfl, fun i => ⟨(canonical_iff _).2 (by
    have c := (canonical_iff _).1 i.1
    exact ⟨c.1, c.2.1, c.2.2.1, c.2.2.2.1, c.2.2.2.2.1, c.2.2.2.2.2.1, c.2.2.2.2.2.2.1, c.2.2.2.2.2.2.2.1, c.2.2.2.2.2.2.2.2.1, c.2.2.2.2.2.2.2.2.2.1, c.2.2.2.2.2.2.2.2.2.2.1, c.2.2.2.2.2.2.2.2.2.2.2.1, c.2.2.2.2.2.2.2.2.2.2.2.2.1, c.2.2.2.2.2.2.2.2.2.2.2.2.2.1, c.2.2.2.2.2.2.2.2.2.2.2.2.2.2.1, c.2.2.2.2.2.2.2.2.2.2.2.2.2.2.2.1, g c.2.2.2.2.2.2.2.2.2.2.2.2.2.2.2.2.1, c.2.2.2.2.2.2.2.2.2.2.2.2.2.2.2.2.2.1, c.2.2.2.2.2.2.2.2.2.2.2.2.2.2.2.2.2.2.1, c.2.2.2.2.2.2.2.2.2.2.2.2.2.2.2.2.2.2.2.1, c.2.2.2.2.2.2.2.2.2.2.2.2.2.2.2.2.2.2.2.2.1, c.2.2.2.2.2.2.2.2.2.2.2.2.2.2.2.2.2.2.2.2.2.1, c.2.2.2.2.2.2.2.2.2.2.2.2.2.2.2.2.2.2.2.2.2.2.1, c.2.2.2.2.2.2.2.2.2.2.2.2.2.2.2.2.2.2.2.2.2.2.2.1, c.2.2.2.2.2.2.2.2.2.2.2.2.2.2.2.2.2.2.2.2.2.2.2.2.1, c.2.2.2.2.2.2.2.2.2.2.2.2.2.2.2.2.2.2.2.2.2.2.2.2.2.1, c.2.2.2.2.2.2.2.2.2.2.2.2.2.2.2.2.2.2.2.2.2.2.2.2.2.2.1, c.2.2.2.2.2.2.2.2.2.2.2.2.2.2.2.2.2.2.2.2.2.2.2.2.2.2.2.1, c.2.2.2.2.2.2.2.2.2.2.2.2.2.2.2.2.2.2.2.2.2.2.2.2.2.2.2.2⟩), i.2.1, i.2.2⟩, (fun k hk => by cases k <;> first | rfl | exact (hk May.may).elim)⟩

theorem keeps_tiles_put {F : Kind → Prop} [May F .tiles] {r s : State} {k : Nat} {v : TileSt} (h : Keeps F r s) :
    Keeps F r { s with tiles := SMap.put (fun _ => TileSt.reset) s.tiles k v } := keeps_tiles h (SMap.wf_put _ _ _ _)

theorem keeps_diags {F : Kind → Prop} [May F .diags] {r s : State} {m : SMap DiagSt} (h : Keeps F r s) (g : SMap.wf (fun _ => DiagSt.reset) s.diags = true → SMap.wf (fun _ => DiagSt.reset) m = true) :
    Keeps F r { s with diags := m } :=
  h.trans ⟨rfl, rfl, List.prefix_rfl, fun i => ⟨(canonical_iff _).2 (by
    have c := (canonical_iff _).1 i.1
    exact ⟨c.1, c.2.1, c.2.2.1, c.2.2.2.1, c.2.2.2.2.1, c.2.2.2.2.2.1, c.2.2.2.2.2.2.1, c.2.2.2.2.2.2.2.1, c.2.2.2.2.2.2.2.2.1, c.2.2.2.2.2.2.2.2.2.1, c.2.2.2.2.2.2.2.2.2.2.1, c.2.2.2.2.2.2.2.2.2.2.2.1, c.2.2.2.2.2.2.2.2.2.2.2.2.1, c.2.2.2.2.2.2.2.2.2.2.2.2.2.1, c.2.2.2.2.2.2.2.2.2.2.2.2.2.2.1, c.2.2.2.2.2.2.2.2.2.2.2.2.2.2.2.1, c.2.2.2.2.2.2.2.2.2.2.2.2.2.2.2.2.1, g c.2.2.2.2.2.2.2.2.2.2.2.2.2.2.2.2.2.1, c.2.2.2.2.2.2.2.2.2.2.2.2.2.2.2.2.2.2.1, c.2.2.2.2.2.2.2.2.2.2.2.2.2.2.2.2.2.2.2.1, c.2.2.2.2.2.2.2.2.2.2.2.2.2.2.2.2.2.2.2.2.1, c.2.2.2.2.2.2.2.2.2.2.2.2.2.2.2.2.2.2.2.2.2.1, c.2.2.2.2.2.2.2.2.2.2.2.2.2.2.2.2.2.2.2.2.2.2.1, c.2.2.2.2.2.2.2.2.2.2.2.2.2.2.2.2.2.2.2.2.2.2.2.1, c.2.2.2.2.2.2.2.2.2.2.2.2.2.2.2.2.2.2.2.2.2.2.2.2.1, c.2.2.2.2.2.2.2.2.2.2.2.2.2.2.2.2.2.2.2.2.2.2.2.2.2.1, c.2.2.2.2.2.2.2.2.2.2.2.2.2.2.2.2.2.2.2.2.2.2.2.2.2.2.1, c.2.2.2.2.2.2.2.2.2.2.2.2.2.2.2.2.2.2.2.2.2.2.2.2.2.2.2.1, c.2.2.2.2.2.2.2.2.2.2.2.2.2.2.2.2.2.2.2.2.2.2.2.2.2.2.2.2⟩), i.2.1, i.2.2⟩, (fun k hk => by cases k <;> first | rfl | exact (hk May.may).elim)⟩

theorem keeps_diags_put {F : Kind → Prop} [May F .diags] {r s : State} {k : Nat} {v : DiagSt} (h : Keeps F r s) :
    Keeps F r { s with diags := SMap.put (fun _ => DiagSt.reset) s.diags k v } := keeps_diags h (SMap.wf_put _ _ _ _)

theorem keeps_diags_filter {F : Kind → Prop} [May F .diags] {r s : State} {q : Nat × DiagSt → Bool} (h : Keeps F r s) :
    Keeps F r { s with diags := s.diags.filter q } := keeps_diags h (SMap.wf_filter _ _ _)

theorem keeps_maps {F : Kind → Prop} [May F .maps] {r s : State} {m : SMap Nat} (h : Keeps F r s) (g : SMap.wf (fun _ => 0xFFFF) s.maps = true → SMap.wf (fun _ => 0xFFFF) m = true) :
    Keeps F r { s with maps := m } :=
  h.trans ⟨rfl, rfl, List.prefix_rfl, fun i => ⟨(canonical_iff _).2 (by
    have c := (canonical_iff _).1 i.1
    exact ⟨c.1, c.2.1, c.2.2.1, c.2.2.2.1, c.2.2.2.2.1, c.2.2.2.2.2.1, c.2.2.2.2.2.2.1, c.2.2.2.2.2.2.2.1, c.2.2.2.2.2.2.2.2.1, c.2.2.2.2.2.2.2.2.2.1, c.2.2.2.2.2.2.2.2.2.2.1, c.2.2.2.2.2.2.2.2.2.2.2.1, c.2.2.2.2.2.2.2.2.2.2.2.2.1, c.2.2.2.2.2.2.2.2.2.2.2.2.2.1, c.2.2.2.2.2.2.2.2.2.2.2.2.2.2.1, c.2.2.2.2.2.2.2.2.2.2.2.2.2.2.2.1, c.2.2.2.2.2.2.2.2.2.2.2.2.2.2.2.2.1, c.2.2.2.2.2.2.2.2.2.2.2.2.2.2.2.2.2.1, g c.2.2.2.2.2.2.2.2.2.2.2.2.2.2.2.2.2.2.1, c.2.2.2.2.2.2.2.2.2.2.2.2.2.2.2.2.2.2.2.1, c.2.2.2.2.2.2.2.2.2.2.2.2.2.2.2.2.2.2.2.2.1, c.2.2.2.2.2.2.2.2.2.2.2.2.2.2.2.2.2.2.2.2.2.1, c.2.2.2.2.2.2.2.2.2.2.2.2.2.2.2.2.2.2.2.2.2.2.1, c.2.2.2.2.2.2.2.2.2.2.2.2.2.2.2.2.2.2.2.2.2.2.2.1, c.2.2.2.2.2.2.2.2.2.2.2.2.2.2.2.2.2.2.2.2.2.2.2.2.1, c.2.2.2.2.2.2.2.2.2.2.2.2.2.2.2.2.2.2.2.2.2.2.2.2.2.1, c.2.2.2.2.2.2.2.2.2.2.2.2.2.2.2.2.2.2.2.2.2.2.2.2.2.2.1, c.2.2.2.2.2.2.2.2.2.2.2.2.2.2.2.2.2.2.2.2.2.2.2.2.2.2.2.1, c.2.2.2.2.2.2.2.2.2.2.2.2.2.2.2.2.2.2.2.2.2.2.2.2.2.2.2.2⟩), i.2.1, i.2.2⟩, (fun k hk => by cases k <;> first | rfl | exact (hk May.may).elim)⟩

theorem keeps_maps_put {F : Kind → Prop} [May F .maps] {r s : State} {k : Nat} {v : Nat} (h : Keeps F r s) :
    Keeps F r { s with maps := SMap.put (fun _ => 0xFFFF) s.maps k v } := keeps_maps h (SMap.wf_put _ _ _ _)

theorem keeps_maps_filter {F : Kind → Prop} [May F .maps] {r s : State} {q : Nat × Nat → Bool} (h : Keeps F r s) :
    Keeps F r { s with maps := s.maps.filter q } := keeps_maps h (SMap.wf_filter _ _ _)

theorem keeps_traces {F : Kind → Prop} [May F .traces] {r s : State} {m : SMap Nat} (h : Keeps F r s) (g : SMap.wf (fun _ => 0) s.traces = true → SMap.wf (fun _ => 0) m = true) :
    Keeps F r { s with traces := m } :=
  h.trans ⟨rfl, rfl, List.prefix_rfl, fun i => ⟨(canonical_iff _).2 (by
    have c := (canonical_iff _).1 i.1
    exact ⟨c.1, c.2.1, c.2.2.1, c.2.2.2.1, c.2.2.2.2.1, c.2.2.2.2.2.1, c.2.2.2.2.2.2.1, c.2.2.2.2.2.2.2.1, c.2.2.2.2.2.2.2.2.1, c.2.2.2.2.2.2.2.2.2.1, c.2.2.2.2.2.2.2.2.2.2.1, c.2.2.2.2.2.2.2.2.2.2.2.1, c.2.2.2.2.2.2.2.2.2.2.2.2.1, c.2.2.2.2.2.2.2.2.2.2.2.2.2.1, c.2.2.2.2.2.2.2.2.2.2.2.2.2.2.1, c.2.2.2.2.2.2.2.2.2.2.2.2.2.2.2.1, c.2.2.2.2.2.2.2.2.2.2.2.2.2.2.2.2.1, c.2.2.2.2.2.2.2.2.2.2.2.2.2.2.2.2.2.1, c.2.2.2.2.2.2.2.2.2.2.2.2.2.2.2.2.2.2.1, g c.2.2.2.2.2.2.2.2.2.2.2.2.2.2.2.2.2.2.2.1, c.2.2.2.2.2.2.2.2.2.2.2.2.2.2.2.2.2.2.2.2.1, c.2.2.2.2.2.2.2.2.2.2.2.2.2.2.2.2.2.2.2.2.2.1, c.2.2.2.2.2.2.2.2.2.2.2.2.2.2.2.2.2.2.2.2.2.2.1, c.2.2.2.2.2.2.2.2.2.2.2.2.2.2.2.2.2.2.2.2.2.2.2.1, c.2.2.2.2.2.2.2.2.2.2.2.2.2.2.2.2.2.2.2.2.2.2.2.2.1, c.2.2.2.2.2.2.2.2.2.2.2.2.2.2.2.2.2.2.2.2.2.2.2.2.2.1, c.2.2.2.2.2.2.2.2.2.2.2.2.2.2.2.2.2.2.2.2.2.2.2.2.2.2.1, c.2.2.2.2.2.2.2.2.2.2.2.2.2.2.2.2.2.2.2.2.2.2.2.2.2.2.2.1, c.2.2.2.2.2.2.2.2.2.2.2.2.2.2.2.2.2.2.2.2.2.2.2.2.2.2.2.2⟩), i.2.1, i.2.2⟩, (fun k hk => by cases k <;> first | rfl | exact (hk May.may).elim)⟩

theorem keeps_traces_put {F : Kind → Prop} [May F .traces] {r s : State} {k : Nat} {v : Nat} (h : Keeps F r s) :
    Keeps F r { s with traces := SMap.put (fun _ => 0) s.traces k v } := keeps_traces h (SMap.wf_put _ _ _ _)

theorem keeps_traces_filter {F : Kind → Prop} [May F .traces] {r s : State} {q : Nat × Nat → Bool} (h : Keeps F r s) :
    Keeps F r { s with traces := s.traces.filter q } := keeps_traces h (SMap.wf_filter _ _ _)

theorem keeps_doms {F : Kind → Prop} [May F .doms] {r s : State} {m : SMap DomSt} (h : Keeps F r s) (g : SMap.wf DomSt.reset s.doms = true → SMap.wf DomSt.reset m = true) :
    Keeps F r { s with doms := m } :=
  h.trans ⟨rfl, rfl, List.prefix_rfl, fun i => ⟨(canonical_iff _).2 (by
    have c := (canonical_iff _).1 i.1
    exact ⟨c.1, c.2.1, c.2.2.1, c.2.2.2.1, c.2.2.2.2.1, c.2.2.2.2.2.1, c.2.2.2.2.2.2.1, c.2.2.2.2.2.2.2.1, c.2.2.2.2.2.2.2.2.1, c.2.2.2.2.2.2.2.2.2.1, c.2.2.2.2.2.2.2.2.2.2.1, c.2.2.2.2.2.2.2.2.2.2.2.1, c.2.2.2.2.2.2.2.2.2.2.2.2.1, c.2.2.2.2.2.2.2.2.2.2.2.2.2.1, c.2.2.2.2.2.2.2.2.2.2.2.2.2.2.1, c.2.2.2.2.2.2.2.2.2.2.2.2.2.2.2.1, c.2.2.2.2.2.2.2.2.2.2.2.2.2.2.2.2.1, c.2.2.2.2.2.2.2.2.2.2.2.2.2.2.2.2.2.1, c.2.2.2.2.2.2.2.2.2.2.2.2.2.2.2.2.2.2.1, c.2.2.2.2.2.2.2.2.2.2.2.2.2.2.2.2.2.2.2.1, g c.2.2.2.2.2.2.2.2.2.2.2.2.2.2.2.2.2.2.2.2.1, c.2.2.2.2.2.2.2.2.2.2.2.2.2.2.2.2.2.2.2.2.2.1, c.2.2.2.2.2.2.2.2.2.2.2.2.2.2.2.2.2.2.2.2.2.2.1, c.2.2.2.2.2.2.2.2.2.2.2.2.2.2.2.2.2.2.2.2.2.2.2.1, c.2.2.2.2.2.2.2.2.2.2.2.2.2.2.2.2.2.2.2.2.2.2.2.2.1, c.2.2.2.2.2.2.2.2.2.2.2.2.2.2.2.2.2.2.2.2.2.2.2.2.2.1, c.2.2.2.2.2.2.2.2.2.2.2.2.2.2.2.2.2.2.2.2.2.2.2.2.2.2.1, c.2.2.2.2.2.2.2.2.2.2.2.2.2.2.2.2.2.2.2.2.2.2.2.2.2.2.2.1, c.2.2.2.2.2.2.2.2.2.2.2.2.2.2.2.2.2.2.2.2.2.2.2.2.2.2.2.2⟩), i.2.1, i.2.2⟩, (fun k hk => by cases k <;> first | rfl | exact (hk May.may).elim)⟩

theorem keeps_doms_put {F : Kind → Prop} [May F .doms] {r s : State} {k : Nat} {v : DomSt} (h : Keeps F r s) :
    Keeps F r { s with doms := SMap.put DomSt.reset s.doms k v } := keeps_doms h (SMap.wf_put _ _ _ _)

theorem keeps_doms_filter {F : Kind → Prop} [May F .doms] {r s : State} {q : Nat × DomSt → Bool} (h : Keeps F r s) :
    Keeps F r { s with doms := s.doms.filter q } := keeps_doms h (SMap.wf_filter _ _ _)

theorem keeps_cals {F : Kind → Prop} [May F .cals] {r s : State} {m : SMap CalSt} (h : Keeps F r s) (g : SMap.wf (fun _ => CalSt.reset) s.cals = true → SMap.wf (fun _ => CalSt.reset) m = true) :
    Keeps F r { s with cals := m } :=
  h.trans ⟨rfl, rfl, List.prefix_rfl, fun i => ⟨(canonical_iff _).2 (by
    have c := (canonical_iff _).1 i.1
    exact ⟨c.1, c.2.1, c.2.2.1, c.2.2.2.1, c.2.2.2.2.1, c.2.2.2.2.2.1, c.2.2.2.2.2.2.1, c.2.2.2.2.2.2.2.1, c.2.2.2.2.2.2.2.2.1, c.2.2.2.2.2.2.2.2.2.1, c.2.2.2.2.2.2.2.2.2.2.1, c.2.2.2.2.2.2.2.2.2.2.2.1, c.2.2.2.2.2.2.2.2.2.2.2.2.1, c.2.2.2.2.2.2.2.2.2.2.2.2.2.1, c.2.2.2.2.2.2.2.2.2.2.2.2.2.2.1, c.2.2.2.2.2.2.2.2.2.2.2.2.2.2.2.1, c.2.2.2.2.2.2.2.2.2.2.2.2.2.2.2.2.1, c.2.2.2.2.2.2.2.2.2.2.2.2.2.2.2.2.2.1, c.2.2.2.2.2.2.2.2.2.2.2.2.2.2.2.2.2.2.1, c.2.2.2.2.2.2.2.2.2.2.2.2.2.2.2.2.2.2.2.1, c.2.2.2.2.2.2.2.2.2.2.2.2.2.2.2.2.2.2.2.2.1, g c.2.2.2.2.2.2.2.2.2.2.2.2.2.2.2.2.2.2.2.2.2.1, c.2.2.2.2.2.2.2.2.2.2.2.2.2.2.2.2.2.2.2.2.2.2.1, c.2.2.2.2.2.2.2.2.2.2.2.2.2.2.2.2.2.2.2.2.2.2.2.1, c.2.2.2.2.2.2.2.2.2.2.2.2.2.2.2.2.2.2.2.2.2.2.2.2.1, c.2.2.2.2.2.2.2.2.2.2.2.2.2.2.2.2.2.2.2.2.2.2.2.2.2.1, c.2.2.2.2.2.2.2.2.2.2.2.2.2.2.2.2.2.2.2.2.2.2.2.2.2.2.1, c.2.2.2.2.2.2.2.2.2.2.2.2.2.2.2.2.2.2.2.2.2.2.2.2.2.2.2.1, c.2.2.2.2.2.2.2.2.2.2.2.2.2.2.2.2.2.2.2.2.2.2.2.2.2.2.2.2⟩), i.2.1, i.2.2⟩, (fun k hk => by cases k <;> first | rfl | exact (hk May.may).elim)⟩

theorem keeps_cals_put {F : Kind → Prop} [May F .cals] {r s : State} {k : Nat} {v : CalSt} (h : Keeps F r s) :
    Keeps F r { s with cals := SMap.put (fun _ => CalSt.reset) s.cals k v } := keeps_cals h (SMap.wf_put _ _ _ _)

theorem keeps_mram {F : Kind → Prop} [May F .mram] {r s : State} {m : SMap Byte} (h : Keeps F r s) (g : SMap.wf mramReset s.mram = true → SMap.wf mramReset m = true) :
    Keeps F r { s with mram := m } :=
  h.trans ⟨rfl, rfl, List.prefix_rfl, fun i => ⟨(canonical_iff _).2 (by
    have c := (canonical_iff _).1 i.1
    exact ⟨c.1, c.2.1, c.2.2.1, c.2.2.2.1, c.2.2.2.2.1, c.2.2.2.2.2.1, c.2.2.2.2.2.2.1, c.2.2.2.2.2.2.2.1, c.2.2.2.2.2.2.2.2.1, c.2.2.2.2.2.2.2.2.2.1, c.2.2.2.2.2.2.2.2.2.2.1, c.2.2.2.2.2.2.2.2.2.2.2.1, c.2.2.2.2.2.2.2.2.2.2.2.2.1, c.2.2.2.2.2.2.2.2.2.2.2.2.2.1, c.2.2.2.2.2.2.2.2.2.2.2.2.2.2.1, c.2.2.2.2.2.2.2.2.2.2.2.2.2.2.2.1, c.2.2.2.2.2.2.2.2.2.2.2.2.2.2.2.2.1, c.2.2.2.2.2.2.2.2.2.2.2.2.2.2.2.2.2.1, c.2.2.2.2.2.2.2.2.2.2.2.2.2.2.2.2.2.2.1, c.2.2.2.2.2.2.2.2.2.2.2.2.2.2.2.2.2.2.2.1, c.2.2.2.2.2.2.2.2.2.2.2.2.2.2.2.2.2.2.2.2.1, c.2.2.2.2.2.2.2.2.2.2.2.2.2.2.2.2.2.2.2.2.2.1, g c.2.2.2.2.2.2.2.2.2.2.2.2.2.2.2.2.2.2.2.2.2.2.1, c.2.2.2.2.2.2.2.2.2.2.2.2.2.2.2.2.2.2.2.2.2.2.2.1, c.2.2.2.2.2.2.2.2.2.2.2.2.2.2.2.2.2.2.2.2.2.2.2.2.1, c.2.2.2.2.2.2.2.2.2.2.2.2.2.2.2.2.2.2.2.2.2.2.2.2.2.1, c.2.2.2.2.2.2.2.2.2.2.2.2.2.2.2.2.2.2.2.2.2.2.2.2.2.2.1, c.2.2.2.2.2.2.2.2.2.2.2.2.2.2.2.2.2.2.2.2.2.2.2.2.2.2.2.1, c.2.2.2.2.2.2.2.2.2.2.2.2.2.2.2.2.2.2.2.2.2.2.2.2.2.2.2.2⟩), i.2.1, i.2.2⟩, (fun k hk => by cases k <;> first | rfl | exact (hk May.may).elim)⟩

theorem keeps_mram_put {F : Kind → Prop} [May F .mram] {r s : State} {k : Nat} {v : Byte} (h : Keeps F r s) :
    Keeps F r { s with mram := SMap.put mramReset s.mram k v } := keeps_mram h (SMap.wf_put _ _ _ _)

theorem keeps_shadows {F : Kind → Prop} [May F .shadows] {r s : State} {m : SMap Word} (h : Keeps F r s) (g : SMap.wf (fun _ => 0) s.shadows = true → SMap.wf (fun _ => 0) m = true) :
    Keeps F r { s with shadows := m } :=
  h.trans ⟨rfl, rfl, List.prefix_rfl, fun i => ⟨(canonical_iff _).2 (by
    have c := (canonical_iff _).1 i.1
    exact ⟨c.1, c.2.1, c.2.2.1, c.2.2.2.1, c.2.2.2.2.1, c.2.2.2.2.2.1, c.2.2.2.2.2.2.1, c.2.2.2.2.2.2.2.1, c.2.2.2.2.2.2.2.2.1, c.2.2.2.2.2.2.2.2.2.1, c.2.2.2.2.2.2.2.2.2.2.1, c.2.2.2.2.2.2.2.2.2.2.2.1, c.2.2.2.2.2.2.2.2.2.2.2.2.1, c.2.2.2.2.2.2.2.2.2.2.2.2.2.1, c.2.2.2.2.2.2.2.2.2.2.2.2.2.2.1, c.2.2.2.2.2.2.2.2.2.2.2.2.2.2.2.1, c.2.2.2.2.2.2.2.2.2.2.2.2.2.2.2.2.1, c.2.2.2.2.2.2.2.2.2.2.2.2.2.2.2.2.2.1, c.2.2.2.2.2.2.2.2.2.2.2.2.2.2.2.2.2.2.1, c.2.2.2.2.2.2.2.2.2.2.2.2.2.2.2.2.2.2.2.1, c.2.2.2.2.2.2.2.2.2.2.2.2.2.2.2.2.2.2.2.2.1, c.2.2.2.2.2.2.2.2.2.2.2.2.2.2.2.2.2.2.2.2.2.1, c.2.2.2.2.2.2.2.2.2.2.2.2.2.2.2.2.2.2.2.2.2.2.1, g c.2.2.2.2.2.2.2.2.2.2.2.2.2.2.2.2.2.2.2.2.2.2.2.1, c.2.2.2.2.2.2.2.2.2.2.2.2.2.2.2.2.2.2.2.2.2.2.2.2.1, c.2.2.2.2.2.2.2.2.2.2.2.2.2.2.2.2.2.2.2.2.2.2.2.2.2.1, c.2.2.2.2.2.2.2.2.2.2.2.2.2.2.2.2.2.2.2.2.2.2.2.2.2.2.1, c.2.2.2.2.2.2.2.2.2.2.2.2.2.2.2.2.2.2.2.2.2.2.2.2.2.2.2.1, c.2.2.2.2.2.2.2.2.2.2.2.2.2.2.2.2.2.2.2.2.2.2.2.2.2.2.2.2⟩), i.2.1, i.2.2⟩, (fun k hk => by cases k <;> first | rfl | exact (hk May.may).elim)⟩

theorem keeps_shadows_put {F : Kind → Prop} [May F .shadows] {r s : State} {k : Nat} {v : Word} (h : Keeps F r s) :
    Keeps F r { s with shadows := SMap.put (fun _ => 0) s.shadows k v } := keeps_shadows h (SMap.wf_put _ _ _ _)

theorem keeps_highs {F : Kind → Prop} [May F .highs] {r s : State} {m : SMap Word} (h : Keeps F r s) (g : SMap.wf (fun _ => 0) s.highs = true → SMap.wf (fun _ => 0) m = true) :
    Keeps F r { s with highs := m } :=
  h.trans ⟨rfl, rfl, List.prefix_rfl, fun i => ⟨(canonical_iff _).2 (by
    have c := (canonical_iff _).1 i.1
    exact ⟨c.1, c.2.1, c.2.2.1, c.2.2.2.1, c.2.2.2.2.1, c.2.2.2.2.2.1, c.2.2.2.2.2.2.1, c.2.2.2.2.2.2.2.1, c.2.2.2.2.2.2.2.2.1, c.2.2.2.2.2.2.2.2.2.1, c.2.2.2.2.2.2.2.2.2.2.1, c.2.2.2.2.2.2.2.2.2.2.2.1, c.2.2.2.2.2.2.2.2.2.2.2.2.1, c.2.2.2.2.2.2.2.2.2.2.2.2.2.1, c.2.2.2.2.2.2.2.2.2.2.2.2.2.2.1, c.2.2.2.2.2.2.2.2.2.2.2.2.2.2.2.1, c.2.2.2.2.2.2.2.2.2.2.2.2.2.2.2.2.1, c.2.2.2.2.2.2.2.2.2.2.2.2.2.2.2.2.2.1, c.2.2.2.2.2.2.2.2.2.2.2.2.2.2.2.2.2.2.1, c.2.2.2.2.2.2.2.2.2.2.2.2.2.2.2.2.2.2.2.1, c.2.2.2.2.2.2.2.2.2.2.2.2.2.2.2.2.2.2.2.2.1, c.2.2.2.2.2.2.2.2.2.2.2.2.2.2.2.2.2.2.2.2.2.1, c.2.2.2.2.2.2.2.2.2.2.2.2.2.2.2.2.2.2.2.2.2.2.1, c.2.2.2.2.2.2.2.2.2.2.2.2.2.2.2.2.2.2.2.2.2.2.2.1, g c.2.2.2.2.2.2.2.2.2.2.2.2.2.2.2.2.2.2.2.2.2.2.2.2.1, c.2.2.2.2.2.2.2.2.2.2.2.2.2.2.2.2.2.2.2.2.2.2.2.2.2.1, c.2.2.2.2.2.2.2.2.2.2.2.2.2.2.2.2.2.2.2.2.2.2.2.2.2.2.1, c.2.2.2.2.2.2.2.2.2.2.2.2.2.2.2.2.2.2.2.2.2.2.2.2.2.2.2.1, c.2.2.2.2.2.2.2.2.2.2.2.2.2.2.2.2.2.2.2.2.2.2.2.2.2.2.2.2⟩), i.2.1, i.2.2⟩, (fun k hk => by cases k <;> first | rfl | exact (hk May.may).elim)⟩

theorem keeps_highs_put {F : Kind → Prop} [May F .highs] {r s : State} {k : Nat} {v : Word} (h : Keeps F r s) :
    Keeps F r { s with highs := SMap.put (fun _ => 0) s.highs k v } := keeps_highs h (SMap.wf_put _ _ _ _)

theorem keeps_core {F : Kind → Prop} [May F .core] {r s : State} {m : SMap (Option Word)} (h : Keeps F r s) (g : SMap.wf (fun _ => none) s.core = true → SMap.wf (fun _ => none) m = true) :
    Keeps F r { s with core := m } :=
  h.trans ⟨rfl, rfl, List.prefix_rfl, fun i => ⟨(canonical_iff _).2 (by
    have c := (canonical_iff _).1 i.1
    exact ⟨c.1, c.2.1, c.2.2.1, c.2.2.2.1, c.2.2.2.2.1, c.2.2.2.2.2.1, c.2.2.2.2.2.2.1, c.2.2.2.2.2.2.2.1, c.2.2.2.2.2.2.2.2.1, c.2.2.2.2.2.2.2.2.2.1, c.2.2.2.2.2.2.2.2.2.2.1, c.2.2.2.2.2.2.2.2.2.2.2.1, c.2.2.2.2.2.2.2.2.2.2.2.2.1, c.2.2.2.2.2.2.2.2.2.2.2.2.2.1, c.2.2.2.2.2.2.2.2.2.2.2.2.2.2.1, c.2.2.2.2.2.2.2.2.2.2.2.2.2.2.2.1, c.2.2.2.2.2.2.2.2.2.2.2.2.2.2.2.2.1, c.2.2.2.2.2.2.2.2.2.2.2.2.2.2.2.2.2.1, c.2.2.2.2.2.2.2.2.2.2.2.2.2.2.2.2.2.2.1, c.2.2.2.2.2.2.2.2.2.2.2.2.2.2.2.2.2.2.2.1, c.2.2.2.2.2.2.2.2.2.2.2.2.2.2.2.2.2.2.2.2.1, c.2.2.2.2.2.2.2.2.2.2.2.2.2.2.2.2.2.2.2.2.2.1, c.2.2.2.2.2.2.2.2.2.2.2.2.2.2.2.2.2.2.2.2.2.2.1, c.2.2.2.2.2.2.2.2.2.2.2.2.2.2.2.2.2.2.2.2.2.2.2.1, c.2.2.2.2.2.2.2.2.2.2.2.2.2.2.2.2.2.2.2.2.2.2.2.2.1, g c.2.2.2.2.2.2.2.2.2.2.2.2.2.2.2.2.2.2.2.2.2.2.2.2.2.1, c.2.2.2.2.2.2.2.2.2.2.2.2.2.2.2.2.2.2.2.2.2.2.2.2.2.2.1, c.2.2.2.2.2.2.2.2.2.2.2.2.2.2.2.2.2.2.2.2.2.2.2.2.2.2.2.1, c.2.2.2.2.2.2.2.2.2.2.2.2.2.2.2.2.2.2.2.2.2.2.2.2.2.2.2.2⟩), i.2.1, i.2.2⟩, (fun k hk => by cases k <;> first | rfl | exact (hk May.may).elim)⟩

theorem keeps_core_put {F : Kind → Prop} [May F .core] {r s : State} {k : Nat} {v : (Option Word)} (h : Keeps F r s) :
    Keeps F r { s with core := SMap.put (fun _ => none) s.core k v } := keeps_core h (SMap.wf_put _ _ _ _)

theorem keeps_errs {F : Kind → Prop} [May F .errs] {r s : State} {m : SMap (Nat × Nat)} (h : Keeps F r s) (g : SMap.wf (fun _ => (0, 0)) s.errs = true → SMap.wf (fun _ => (0, 0)) m = true) :
    Keeps F r { s with errs := m } :=
  h.trans ⟨rfl, rfl, List.prefix_rfl, fun i => ⟨(canonical_iff _).2 (by
    have c := (canonical_iff _).1 i.1
    exact ⟨c.1, c.2.1, c.2.2.1, c.2.2.2.1, c.2.2.2.2.1, c.2.2.2.2.2.1, c.2.2.2.2.2.2.1, c.2.2.2.2.2.2.2.1, c.2.2.2.2.2.2.2.2.1, c.2.2.2.2.2.2.2.2.2.1, c.2.2.2.2.2.2.2.2.2.2.1, c.2.2.2.2.2.2.2.2.2.2.2.1, c.2.2.2.2.2.2.2.2.2.2.2.2.1, c.2.2.2.2.2.2.2.2.2.2.2.2.2.1, c.2.2.2.2.2.2.2.2.2.2.2.2.2.2.1, c.2.2.2.2.2.2.2.2.2.2.2.2.2.2.2.1, c.2.2.2.2.2.2.2.2.2.2.2.2.2.2.2.2.1, c.2.2.2.2.2.2.2.2.2.2.2.2.2.2.2.2.2.1, c.2.2.2.2.2.2.2.2.2.2.2.2.2.2.2.2.2.2.1, c.2.2.2.2.2.2.2.2.2.2.2.2.2.2.2.2.2.2.2.1, c.2.2.2.2.2.2.2.2.2.2.2.2.2.2.2.2.2.2.2.2.1, c.2.2.2.2.2.2.2.2.2.2.2.2.2.2.2.2.2.2.2.2.2.1, c.2.2.2.2.2.2.2.2.2.2.2.2.2.2.2.2.2.2.2.2.2.2.1, c.2.2.2.2.2.2.2.2.2.2.2.2.2.2.2.2.2.2.2.2.2.2.2.1, c.2.2.2.2.2.2.2.2.2.2.2.2.2.2.2.2.2.2.2.2.2.2.2.2.1, c.2.2.2.2.2.2.2.2.2.2.2.2.2.2.2.2.2.2.2.2.2.2.2.2.2.1, g c.2.2.2.2.2.2.2.2.2.2.2.2.2.2.2.2.2.2.2.2.2.2.2.2.2.2.1, c.2.2.2.2.2.2.2.2.2.2.2.2.2.2.2.2.2.2.2.2.2.2.2.2.2.2.2.1, c.2.2.2.2.2.2.2.2.2.2.2.2.2.2.2.2.2.2.2.2.2.2.2.2.2.2.2.2⟩), i.2.1, i.2.2⟩, (fun k hk => by cases k <;> first | rfl | exact (hk May.may).elim)⟩

theorem keeps_errs_put {F : Kind → Prop} [May F .errs] {r s : State} {k : Nat} {v : (Nat × Nat)} (h : Keeps F r s) :
    Keeps F r { s with errs := SMap.put (fun _ => (0, 0)) s.errs k v } := keeps_errs h (SMap.wf_put _ _ _ _)

theorem keeps_errs_filter {F : Kind → Prop} [May F .errs] {r s : State} {q : Nat × (Nat × Nat) → Bool} (h : Keeps F r s) :
    Keeps F r { s with errs := s.errs.filter q } := keeps_errs h (SMap.wf_filter _ _ _)

theorem keeps_sigma {F : Kind → Prop} [May F .sigma] {r s : State} {m : SMap Nat} (h : Keeps F r s) (g : SMap.wf (fun _ => 0) s.sigma = true → SMap.wf (fun _ => 0) m = true) :
    Keeps F r { s with sigma := m } :=
  h.trans ⟨rfl, rfl, List.prefix_rfl, fun i => ⟨(canonical_iff _).2 (by
    have c := (canonical_iff _).1 i.1
    exact ⟨c.1, c.2.1, c.2.2.1, c.2.2.2.1, c.2.2.2.2.1, c.2.2.2.2.2.1, c.2.2.2.2.2.2.1, c.2.2.2.2.2.2.2.1, c.2.2.2.2.2.2.2.2.1, c.2.2.2.2.2.2.2.2.2.1, c.2.2.2.2.2.2.2.2.2.2.1, c.2.2.2.2.2.2.2.2.2.2.2.1, c.2.2.2.2.2.2.2.2.2.2.2.2.1, c.2.2.2.2.2.2.2.2.2.2.2.2.2.1, c.2.2.2.2.2.2.2.2.2.2.2.2.2.2.1, c.2.2.2.2.2.2.2.2.2.2.2.2.2.2.2.1, c.2.2.2.2.2.2.2.2.2.2.2.2.2.2.2.2.1, c.2.2.2.2.2.2.2.2.2.2.2.2.2.2.2.2.2.1, c.2.2.2.2.2.2.2.2.2.2.2.2.2.2.2.2.2.2.1, c.2.2.2.2.2.2.2.2.2.2.2.2.2.2.2.2.2.2.2.1, c.2.2.2.2.2.2.2.2.2.2.2.2.2.2.2.2.2.2.2.2.1, c.2.2.2.2.2.2.2.2.2.2.2.2.2.2.2.2.2.2.2.2.2.1, c.2.2.2.2.2.2.2.2.2.2.2.2.2.2.2.2.2.2.2.2.2.2.1, c.2.2.2.2.2.2.2.2.2.2.2.2.2.2.2.2.2.2.2.2.2.2.2.1, c.2.2.2.2.2.2.2.2.2.2.2.2.2.2.2.2.2.2.2.2.2.2.2.2.1, c.2.2.2.2.2.2.2.2.2.2.2.2.2.2.2.2.2.2.2.2.2.2.2.2.2.1, c.2.2.2.2.2.2.2.2.2.2.2.2.2.2.2.2.2.2.2.2.2.2.2.2.2.2.1, g c.2.2.2.2.2.2.2.2.2.2.2.2.2.2.2.2.2.2.2.2.2.2.2.2.2.2.2.1, c.2.2.2.2.2.2.2.2.2.2.2.2.2.2.2.2.2.2.2.2.2.2.2.2.2.2.2.2⟩), i.2.1, i.2.2⟩, (fun k hk => by cases k <;> first | rfl | exact (hk May.may).elim)⟩

theorem keeps_sigma_put {F : Kind → Prop} [May F .sigma] {r s : State} {k : Nat} {v : Nat} (h : Keeps F r s) :
    Keeps F r { s with sigma := SMap.put (fun _ => 0) s.sigma k v } := keeps_sigma h (SMap.wf_put _ _ _ _)

theorem keeps_sigma_filter {F : Kind → Prop} [May F .sigma] {r s : State} {q : Nat × Nat → Bool} (h : Keeps F r s) :
    Keeps F r { s with sigma := s.sigma.filter q } := keeps_sigma h (SMap.wf_filter _ _ _)

theorem keeps_noise {F : Kind → Prop} [May F .noise] {r s : State} {m : SMap Nat} (h : Keeps F r s) (g : SMap.wf (fun _ => 0) s.noise = true → SMap.wf (fun _ => 0) m = true) :
    Keeps F r { s with noise := m } :=
  h.trans ⟨rfl, rfl, List.prefix_rfl, fun i => ⟨(canonical_iff _).2 (by
    have c := (canonical_iff _).1 i.1
    exact ⟨c.1, c.2.1, c.2.2.1, c.2.2.2.1, c.2.2.2.2.1, c.2.2.2.2.2.1, c.2.2.2.2.2.2.1, c.2.2.2.2.2.2.2.1, c.2.2.2.2.2.2.2.2.1, c.2.2.2.2.2.2.2.2.2.1, c.2.2.2.2.2.2.2.2.2.2.1, c.2.2.2.2.2.2.2.2.2.2.2.1, c.2.2.2.2.2.2.2.2.2.2.2.2.1, c.2.2.2.2.2.2.2.2.2.2.2.2.2.1, c.2.2.2.2.2.2.2.2.2.2.2.2.2.2.1, c.2.2.2.2.2.2.2.2.2.2.2.2.2.2.2.1, c.2.2.2.2.2.2.2.2.2.2.2.2.2.2.2.2.1, c.2.2.2.2.2.2.2.2.2.2.2.2.2.2.2.2.2.1, c.2.2.2.2.2.2.2.2.2.2.2.2.2.2.2.2.2.2.1, c.2.2.2.2.2.2.2.2.2.2.2.2.2.2.2.2.2.2.2.1, c.2.2.2.2.2.2.2.2.2.2.2.2.2.2.2.2.2.2.2.2.1, c.2.2.2.2.2.2.2.2.2.2.2.2.2.2.2.2.2.2.2.2.2.1, c.2.2.2.2.2.2.2.2.2.2.2.2.2.2.2.2.2.2.2.2.2.2.1, c.2.2.2.2.2.2.2.2.2.2.2.2.2.2.2.2.2.2.2.2.2.2.2.1, c.2.2.2.2.2.2.2.2.2.2.2.2.2.2.2.2.2.2.2.2.2.2.2.2.1, c.2.2.2.2.2.2.2.2.2.2.2.2.2.2.2.2.2.2.2.2.2.2.2.2.2.1, c.2.2.2.2.2.2.2.2.2.2.2.2.2.2.2.2.2.2.2.2.2.2.2.2.2.2.1, c.2.2.2.2.2.2.2.2.2.2.2.2.2.2.2.2.2.2.2.2.2.2.2.2.2.2.2.1, g c.2.2.2.2.2.2.2.2.2.2.2.2.2.2.2.2.2.2.2.2.2.2.2.2.2.2.2.2⟩), i.2.1, i.2.2⟩, (fun k hk => by cases k <;> first | rfl | exact (hk May.may).elim)⟩

theorem keeps_noise_put {F : Kind → Prop} [May F .noise] {r s : State} {k : Nat} {v : Nat} (h : Keeps F r s) :
    Keeps F r { s with noise := SMap.put (fun _ => 0) s.noise k v } := keeps_noise h (SMap.wf_put _ _ _ _)

theorem keeps_noise_filter {F : Kind → Prop} [May F .noise] {r s : State} {q : Nat × Nat → Bool} (h : Keeps F r s) :
    Keeps F r { s with noise := s.noise.filter q } := keeps_noise h (SMap.wf_filter _ _ _)

theorem keeps_match_pair {F : Kind → Prop} {α : Type} {r : State} {f : α → State → State} {q : α × State} :
    Keeps F r q.2 → (∀ a t, Keeps F r t → Keeps F r (f a t)) → Keeps F r (match q with | (a, t) => f a t) := by
  intro h hf
  cases q
  exact hf _ _ h

/-- The same of a fold that gathers a value beside the state. -/
theorem keeps_foldl_snd {F : Kind → Prop} {α β : Type} {r : State} (xs : List α) (f : β × State → α → β × State) (q : β × State)
    (h : Keeps F r q.2) (hf : ∀ x p, Keeps F r p.2 → Keeps F r (f p x).2) : Keeps F r (xs.foldl f q).2 := by
  induction xs generalizing q with
  | nil => exact h
  | cons x xs ih => exact ih (f q x) (hf x q h)

/-- An update that leaves what the invariant reads of the queue, the clock, the outputs, the replies and the claims. -/
theorem keeps_stores {F : Kind → Prop} {r s t : State} (h : Keeps F r s) (hp : t.pending = s.pending) (hn : t.now = s.now) (ho : t.out = s.out)
    (hk : t.kept = s.kept) (hc : t.claims = s.claims) (hs : s.canonical = true → t.canonical = true) (hf : ∀ k, ¬ F k → Same k s t) : Keeps F r t :=
  h.trans ⟨hp, hn, ho ▸ List.prefix_rfl, fun i => ⟨hs i.1, hk ▸ i.2.1, hc ▸ i.2.2⟩, hf⟩

/-- The same of what may answer a state. -/
structure OptKeeps (F : Kind → Prop) (r : State) (o : Option State) : Prop where
  keeps : ∀ t, o = some t → Keeps F r t

theorem optKeeps_none {F : Kind → Prop} {r : State} : OptKeeps F r none := ⟨fun _ h => by cases h⟩

theorem optKeeps_some {F : Kind → Prop} {r t : State} (h : Keeps F r t) : OptKeeps F r (some t) := ⟨fun u hu => by cases hu; exact h⟩

theorem optKeeps_ite {F : Kind → Prop} {r : State} {c : Prop} [Decidable c] {a b : Option State} (ha : OptKeeps F r a) (hb : OptKeeps F r b) :
    OptKeeps F r (if c then a else b) := by split <;> assumption

theorem optKeeps_getD {F : Kind → Prop} {r t : State} {o : Option State} (h : OptKeeps F r o) (k : Keeps F r t) : Keeps F r (o.getD t) := by
  cases o with
  | none => exact k
  | some u => exact h.keeps u rfl

/-- What `Keeps` says, of what answers a value and a state. -/
def KeepsP {α : Type} (F : Kind → Prop) (r : State) (p : α × State) : Prop := Keeps F r p.2

theorem keepsP_mk {F : Kind → Prop} {α : Type} {r t : State} {a : α} (h : Keeps F r t) : KeepsP F r (a, t) := h

theorem keepsP_ite {F : Kind → Prop} {α : Type} {r : State} {c : Prop} [Decidable c] {a b : α × State} (ha : KeepsP F r a) (hb : KeepsP F r b) :
    KeepsP F r (if c then a else b) := by split <;> assumption

theorem keeps_of_eq {F : Kind → Prop} {α : Type} {r t : State} {p : α × State} {a : α} (e : p = (a, t)) (h : Keeps F r p.2) : Keeps F r t := by subst e; exact h

theorem keeps_of_eq3 {F : Kind → Prop} {α β : Type} {r t : State} {p : α × β × State} {a : α} {b : β} (e : p = (a, b, t)) (h : Keeps F r p.2.2) : Keeps F r t := by
  subst e; exact h

theorem keeps_ite_snd {F : Kind → Prop} {α : Type} {r : State} {c : Prop} [Decidable c] {a b : α × State} (ha : Keeps F r a.2) (hb : Keeps F r b.2) :
    Keeps F r (if c then a else b).2 := by split <;> assumption

end Sys2Proof.Machine
end

