-- ==== Sys2Proof/Laws/KeepsOps.lean ====
section
/-! SUPPORT. What the operations of Machine/Ops.lean keep. -/
set_option linter.unusedTactic false
set_option linter.unreachableTactic false
set_option linter.tactic.unusedName false
namespace Sys2Proof.Machine

theorem keeps_setReg {F : Kind → Prop} [May F .regs] {r s : State} {x1 x2 : _} (h : Keeps F r s) : Keeps F r (State.setReg s x1 x2) := by
  unfold State.setReg; exact keeps_regs_put h

theorem keeps_setFld {F : Kind → Prop} [May F .regs] {r s : State} {x1 x2 : _} (h : Keeps F r s) : Keeps F r (State.setFld s x1 x2) := by
  unfold State.setFld
  repeat' first
    | with_reducible assumption
    | intro _
    | with_reducible apply keeps_ite
    | with_reducible apply keeps_setReg
    | with_reducible apply keeps_ite_snd
    | with_reducible apply keeps_foldl_snd
    | with_reducible apply keeps_foldl
    | split
    | dsimp -zeta only
    | with_reducible refine keeps_of_eq (by with_reducible assumption) ?_
    | with_reducible refine keeps_of_eq3 (by with_reducible assumption) ?_
    | dsimp only

theorem keeps_clearReg {F : Kind → Prop} [May F .regs] {r s : State} {x1 : _} (h : Keeps F r s) : Keeps F r (State.clearReg s x1) := by
  unfold State.clearReg
  repeat' first
    | with_reducible assumption
    | intro _
    | with_reducible apply keeps_ite
    | with_reducible apply keeps_setReg
    | with_reducible apply keeps_ite_snd
    | with_reducible apply keeps_foldl_snd
    | with_reducible apply keeps_foldl
    | split
    | dsimp -zeta only
    | with_reducible refine keeps_of_eq (by with_reducible assumption) ?_
    | with_reducible refine keeps_of_eq3 (by with_reducible assumption) ?_
    | dsimp only

theorem keeps_inc {F : Kind → Prop} [May F .regs] {r s : State} {x1 : _} (h : Keeps F r s) : Keeps F r (State.inc s x1) := by
  unfold State.inc
  repeat' first
    | with_reducible assumption
    | intro _
    | with_reducible apply keeps_ite
    | with_reducible apply keeps_setReg
    | with_reducible apply keeps_ite_snd
    | with_reducible apply keeps_foldl_snd
    | with_reducible apply keeps_foldl
    | split
    | dsimp -zeta only
    | with_reducible refine keeps_of_eq (by with_reducible assumption) ?_
    | with_reducible refine keeps_of_eq3 (by with_reducible assumption) ?_
    | dsimp only

theorem keeps_addTo {F : Kind → Prop} [May F .regs] {r s : State} {x1 x2 : _} (h : Keeps F r s) : Keeps F r (State.addTo s x1 x2) := by
  unfold State.addTo
  repeat' first
    | with_reducible assumption
    | intro _
    | with_reducible apply keeps_ite
    | with_reducible apply keeps_setReg
    | with_reducible apply keeps_ite_snd
    | with_reducible apply keeps_foldl_snd
    | with_reducible apply keeps_foldl
    | split
    | dsimp -zeta only
    | with_reducible refine keeps_of_eq (by with_reducible assumption) ?_
    | with_reducible refine keeps_of_eq3 (by with_reducible assumption) ?_
    | dsimp only

theorem keeps_set64 {F : Kind → Prop} [May F .regs] {r s : State} {x1 x2 : _} (h : Keeps F r s) : Keeps F r (State.set64 s x1 x2) := by
  unfold State.set64
  repeat' first
    | with_reducible assumption
    | intro _
    | with_reducible apply keeps_ite
    | with_reducible apply keeps_setReg
    | with_reducible apply keeps_ite_snd
    | with_reducible apply keeps_foldl_snd
    | with_reducible apply keeps_foldl
    | split
    | dsimp -zeta only
    | with_reducible refine keeps_of_eq (by with_reducible assumption) ?_
    | with_reducible refine keeps_of_eq3 (by with_reducible assumption) ?_
    | dsimp only

theorem keeps_add64 {F : Kind → Prop} [May F .regs] {r s : State} {x1 x2 : _} (h : Keeps F r s) : Keeps F r (State.add64 s x1 x2) := by
  unfold State.add64
  repeat' first
    | with_reducible assumption
    | intro _
    | with_reducible apply keeps_ite
    | with_reducible apply keeps_set64
    | with_reducible apply keeps_ite_snd
    | with_reducible apply keeps_foldl_snd
    | with_reducible apply keeps_foldl
    | split
    | dsimp -zeta only
    | with_reducible refine keeps_of_eq (by with_reducible assumption) ?_
    | with_reducible refine keeps_of_eq3 (by with_reducible assumption) ?_
    | dsimp only

theorem keeps_inc64 {F : Kind → Prop} [May F .regs] {r s : State} {x1 : _} (h : Keeps F r s) : Keeps F r (State.inc64 s x1) := by
  unfold State.inc64
  repeat' first
    | with_reducible assumption
    | intro _
    | with_reducible apply keeps_ite
    | with_reducible apply keeps_add64
    | with_reducible apply keeps_ite_snd
    | with_reducible apply keeps_foldl_snd
    | with_reducible apply keeps_foldl
    | split
    | dsimp -zeta only
    | with_reducible refine keeps_of_eq (by with_reducible assumption) ?_
    | with_reducible refine keeps_of_eq3 (by with_reducible assumption) ?_
    | dsimp only

theorem keeps_setPort {F : Kind → Prop} [May F .ports] {r s : State} {x1 x2 : _} (h : Keeps F r s) : Keeps F r (State.setPort s x1 x2) := by
  unfold State.setPort; exact keeps_ports_put h

theorem keeps_modPort {F : Kind → Prop} [May F .ports] {r s : State} {x1 x2 : _} (h : Keeps F r s) : Keeps F r (State.modPort s x1 x2) := by
  unfold State.modPort
  repeat' first
    | with_reducible assumption
    | intro _
    | with_reducible apply keeps_ite
    | with_reducible apply keeps_setPort
    | with_reducible apply keeps_ite_snd
    | with_reducible apply keeps_foldl_snd
    | with_reducible apply keeps_foldl
    | split
    | dsimp -zeta only
    | with_reducible refine keeps_of_eq (by with_reducible assumption) ?_
    | with_reducible refine keeps_of_eq3 (by with_reducible assumption) ?_
    | dsimp only

theorem keeps_setPair {F : Kind → Prop} [May F .pairs] {r s : State} {x1 x2 x3 : _} (h : Keeps F r s) : Keeps F r (State.setPair s x1 x2 x3) := by
  unfold State.setPair; exact keeps_pairs_put h

theorem keeps_modPair {F : Kind → Prop} [May F .pairs] {r s : State} {x1 x2 x3 : _} (h : Keeps F r s) : Keeps F r (State.modPair s x1 x2 x3) := by
  unfold State.modPair
  repeat' first
    | with_reducible assumption
    | intro _
    | with_reducible apply keeps_ite
    | with_reducible apply keeps_setPair
    | with_reducible apply keeps_ite_snd
    | with_reducible apply keeps_foldl_snd
    | with_reducible apply keeps_foldl
    | split
    | dsimp -zeta only
    | with_reducible refine keeps_of_eq (by with_reducible assumption) ?_
    | with_reducible refine keeps_of_eq3 (by with_reducible assumption) ?_
    | dsimp only

theorem keeps_setLink {F : Kind → Prop} [May F .links] {r s : State} {x1 x2 : _} (h : Keeps F r s) : Keeps F r (State.setLink s x1 x2) := by
  unfold State.setLink; exact keeps_links_put h

theorem keeps_modLink {F : Kind → Prop} [May F .links] {r s : State} {x1 x2 : _} (h : Keeps F r s) : Keeps F r (State.modLink s x1 x2) := by
  unfold State.modLink
  repeat' first
    | with_reducible assumption
    | intro _
    | with_reducible apply keeps_ite
    | with_reducible apply keeps_setLink
    | with_reducible apply keeps_ite_snd
    | with_reducible apply keeps_foldl_snd
    | with_reducible apply keeps_foldl
    | split
    | dsimp -zeta only
    | with_reducible refine keeps_of_eq (by with_reducible assumption) ?_
    | with_reducible refine keeps_of_eq3 (by with_reducible assumption) ?_
    | dsimp only

theorem keeps_setQueue {F : Kind → Prop} [May F .queues] {r s : State} {x1 x2 : _} (h : Keeps F r s) : Keeps F r (State.setQueue s x1 x2) := by
  unfold State.setQueue; exact keeps_queues_put h

theorem keeps_modQueue {F : Kind → Prop} [May F .queues] {r s : State} {x1 x2 : _} (h : Keeps F r s) : Keeps F r (State.modQueue s x1 x2) := by
  unfold State.modQueue
  repeat' first
    | with_reducible assumption
    | intro _
    | with_reducible apply keeps_ite
    | with_reducible apply keeps_setQueue
    | with_reducible apply keeps_ite_snd
    | with_reducible apply keeps_foldl_snd
    | with_reducible apply keeps_foldl
    | split
    | dsimp -zeta only
    | with_reducible refine keeps_of_eq (by with_reducible assumption) ?_
    | with_reducible refine keeps_of_eq3 (by with_reducible assumption) ?_
    | dsimp only

theorem keeps_setHost {F : Kind → Prop} [May F .hosts] {r s : State} {x1 x2 : _} (h : Keeps F r s) : Keeps F r (State.setHost s x1 x2) := by
  unfold State.setHost; exact keeps_hosts_put h

theorem keeps_modHost {F : Kind → Prop} [May F .hosts] {r s : State} {x1 x2 : _} (h : Keeps F r s) : Keeps F r (State.modHost s x1 x2) := by
  unfold State.modHost
  repeat' first
    | with_reducible assumption
    | intro _
    | with_reducible apply keeps_ite
    | with_reducible apply keeps_setHost
    | with_reducible apply keeps_ite_snd
    | with_reducible apply keeps_foldl_snd
    | with_reducible apply keeps_foldl
    | split
    | dsimp -zeta only
    | with_reducible refine keeps_of_eq (by with_reducible assumption) ?_
    | with_reducible refine keeps_of_eq3 (by with_reducible assumption) ?_
    | dsimp only

theorem keeps_setLane {F : Kind → Prop} [May F .lanes] {r s : State} {x1 x2 : _} (h : Keeps F r s) : Keeps F r (State.setLane s x1 x2) := by
  unfold State.setLane; exact keeps_lanes_put h

theorem keeps_modLane {F : Kind → Prop} [May F .lanes] {r s : State} {x1 x2 : _} (h : Keeps F r s) : Keeps F r (State.modLane s x1 x2) := by
  unfold State.modLane
  repeat' first
    | with_reducible assumption
    | intro _
    | with_reducible apply keeps_ite
    | with_reducible apply keeps_setLane
    | with_reducible apply keeps_ite_snd
    | with_reducible apply keeps_foldl_snd
    | with_reducible apply keeps_foldl
    | split
    | dsimp -zeta only
    | with_reducible refine keeps_of_eq (by with_reducible assumption) ?_
    | with_reducible refine keeps_of_eq3 (by with_reducible assumption) ?_
    | dsimp only

theorem keeps_setPortLane {F : Kind → Prop} [May F .laneOf] {r s : State} {x1 x2 : _} (h : Keeps F r s) : Keeps F r (State.setPortLane s x1 x2) := by
  unfold State.setPortLane; exact keeps_laneOf_put h

theorem keeps_setTile {F : Kind → Prop} [May F .tiles] {r s : State} {x1 x2 : _} (h : Keeps F r s) : Keeps F r (State.setTile s x1 x2) := by
  unfold State.setTile; exact keeps_tiles_put h

theorem keeps_modTile {F : Kind → Prop} [May F .tiles] {r s : State} {x1 x2 : _} (h : Keeps F r s) : Keeps F r (State.modTile s x1 x2) := by
  unfold State.modTile
  repeat' first
    | with_reducible assumption
    | intro _
    | with_reducible apply keeps_ite
    | with_reducible apply keeps_setTile
    | with_reducible apply keeps_ite_snd
    | with_reducible apply keeps_foldl_snd
    | with_reducible apply keeps_foldl
    | split
    | dsimp -zeta only
    | with_reducible refine keeps_of_eq (by with_reducible assumption) ?_
    | with_reducible refine keeps_of_eq3 (by with_reducible assumption) ?_
    | dsimp only

theorem keeps_setDiag {F : Kind → Prop} [May F .diags] {r s : State} {x1 x2 : _} (h : Keeps F r s) : Keeps F r (State.setDiag s x1 x2) := by
  unfold State.setDiag; exact keeps_diags_put h

theorem keeps_modDiag {F : Kind → Prop} [May F .diags] {r s : State} {x1 x2 : _} (h : Keeps F r s) : Keeps F r (State.modDiag s x1 x2) := by
  unfold State.modDiag
  repeat' first
    | with_reducible assumption
    | intro _
    | with_reducible apply keeps_ite
    | with_reducible apply keeps_setDiag
    | with_reducible apply keeps_ite_snd
    | with_reducible apply keeps_foldl_snd
    | with_reducible apply keeps_foldl
    | split
    | dsimp -zeta only
    | with_reducible refine keeps_of_eq (by with_reducible assumption) ?_
    | with_reducible refine keeps_of_eq3 (by with_reducible assumption) ?_
    | dsimp only

theorem keeps_setDom {F : Kind → Prop} [May F .doms] {r s : State} {x1 x2 : _} (h : Keeps F r s) : Keeps F r (State.setDom s x1 x2) := by
  unfold State.setDom; exact keeps_doms_put h

theorem keeps_modDom {F : Kind → Prop} [May F .doms] {r s : State} {x1 x2 : _} (h : Keeps F r s) : Keeps F r (State.modDom s x1 x2) := by
  unfold State.modDom
  repeat' first
    | with_reducible assumption
    | intro _
    | with_reducible apply keeps_ite
    | with_reducible apply keeps_setDom
    | with_reducible apply keeps_ite_snd
    | with_reducible apply keeps_foldl_snd
    | with_reducible apply keeps_foldl
    | split
    | dsimp -zeta only
    | with_reducible refine keeps_of_eq (by with_reducible assumption) ?_
    | with_reducible refine keeps_of_eq3 (by with_reducible assumption) ?_
    | dsimp only

theorem keeps_setCal {F : Kind → Prop} [May F .cals] {r s : State} {x1 x2 x3 : _} (h : Keeps F r s) : Keeps F r (State.setCal s x1 x2 x3) := by
  unfold State.setCal; exact keeps_cals_put h

theorem keeps_modCal {F : Kind → Prop} [May F .cals] {r s : State} {x1 x2 x3 : _} (h : Keeps F r s) : Keeps F r (State.modCal s x1 x2 x3) := by
  unfold State.modCal
  repeat' first
    | with_reducible assumption
    | intro _
    | with_reducible apply keeps_ite
    | with_reducible apply keeps_setCal
    | with_reducible apply keeps_ite_snd
    | with_reducible apply keeps_foldl_snd
    | with_reducible apply keeps_foldl
    | split
    | dsimp -zeta only
    | with_reducible refine keeps_of_eq (by with_reducible assumption) ?_
    | with_reducible refine keeps_of_eq3 (by with_reducible assumption) ?_
    | dsimp only

theorem keeps_setMap {F : Kind → Prop} [May F .maps] {r s : State} {x1 x2 x3 x4 : _} (h : Keeps F r s) : Keeps F r (State.setMap s x1 x2 x3 x4) := by
  unfold State.setMap; exact keeps_maps_put h

theorem keeps_setTap {F : Kind → Prop} [May F .traces] {r s : State} {x1 x2 x3 x4 : _} (h : Keeps F r s) : Keeps F r (State.setTap s x1 x2 x3 x4) := by
  unfold State.setTap; exact keeps_traces_put h

theorem keeps_modHub {F : Kind → Prop} [May F .hub] {r s : State} {x1 : _} (h : Keeps F r s) : Keeps F r (State.modHub s x1) := by
  unfold State.modHub
  repeat' first
    | with_reducible assumption
    | intro _
    | with_reducible apply keeps_ite
    | with_reducible apply keeps_ite_snd
    | with_reducible apply keeps_foldl_snd
    | with_reducible apply keeps_foldl
    | split
    | dsimp -zeta only
    | with_reducible refine keeps_of_eq (by with_reducible assumption) ?_
    | with_reducible refine keeps_of_eq3 (by with_reducible assumption) ?_
    | dsimp only
    | with_reducible apply keeps_upd_hub

theorem keeps_draw {F : Kind → Prop} [May F .free] {r s : State} (h : Keeps F r s) : Keeps F r (State.draw s).2 := by
  show KeepsP F r _
  unfold State.draw
  repeat' first
    | with_reducible assumption
    | intro _
    | with_reducible apply keepsP_mk
    | with_reducible apply keepsP_ite
    | with_reducible apply keeps_ite
    | with_reducible apply keeps_ite_snd
    | with_reducible apply keeps_foldl_snd
    | with_reducible apply keeps_foldl
    | split
    | dsimp -zeta only
    | with_reducible refine keeps_of_eq (by with_reducible assumption) ?_
    | with_reducible refine keeps_of_eq3 (by with_reducible assumption) ?_
    | dsimp only
    | with_reducible apply keeps_upd_free

theorem keeps_random {F : Kind → Prop} [May F .free] {r s : State} (h : Keeps F r s) : Keeps F r (State.random s).2 := by
  show KeepsP F r _
  unfold State.random
  repeat' first
    | with_reducible assumption
    | intro _
    | with_reducible apply keepsP_mk
    | with_reducible apply keepsP_ite
    | with_reducible apply keeps_ite
    | with_reducible apply keeps_ite_snd
    | with_reducible apply keeps_foldl_snd
    | with_reducible apply keeps_foldl
    | split
    | dsimp -zeta only
    | with_reducible refine keeps_of_eq (by with_reducible assumption) ?_
    | with_reducible refine keeps_of_eq3 (by with_reducible assumption) ?_
    | dsimp only
    | with_reducible apply keeps_upd_free

theorem keeps_raise {F : Kind → Prop} [May F .raised] {r s : State} {x1 x2 x3 : _} (h : Keeps F r s) : Keeps F r (State.raise s x1 x2 x3) := by
  unfold State.raise
  repeat' first
    | with_reducible assumption
    | intro _
    | with_reducible apply keeps_ite
    | with_reducible apply keeps_ite_snd
    | with_reducible apply keeps_foldl_snd
    | with_reducible apply keeps_foldl
    | split
    | dsimp -zeta only
    | with_reducible refine keeps_of_eq (by with_reducible assumption) ?_
    | with_reducible refine keeps_of_eq3 (by with_reducible assumption) ?_
    | dsimp only
    | with_reducible apply keeps_upd_raised

theorem keeps_emit {F : Kind → Prop} [May F .out] {r s : State} {x1 : _} (h : Keeps F r s) : Keeps F r (State.emit s x1) := by
  unfold State.emit
  repeat' first
    | with_reducible assumption
    | intro _
    | with_reducible apply keeps_ite
    | with_reducible apply keeps_ite_snd
    | with_reducible apply keeps_foldl_snd
    | with_reducible apply keeps_foldl
    | split
    | dsimp -zeta only
    | with_reducible refine keeps_of_eq (by with_reducible assumption) ?_
    | with_reducible refine keeps_of_eq3 (by with_reducible assumption) ?_
    | dsimp only
    | with_reducible apply keeps_out

theorem keeps_intBit {F : Kind → Prop} [May F .regs] {r s : State} {x1 : _} (h : Keeps F r s) : Keeps F r (State.intBit s x1) := by
  unfold State.intBit
  repeat' first
    | with_reducible assumption
    | intro _
    | with_reducible apply keeps_ite
    | with_reducible apply keeps_setFld
    | with_reducible apply keeps_ite_snd
    | with_reducible apply keeps_foldl_snd
    | with_reducible apply keeps_foldl
    | split
    | dsimp -zeta only
    | with_reducible refine keeps_of_eq (by with_reducible assumption) ?_
    | with_reducible refine keeps_of_eq3 (by with_reducible assumption) ?_
    | dsimp only

end Sys2Proof.Machine
end

