-- ==== Sys2Proof/Laws/KeepsOperands.lean ====
section
/-! SUPPORT. What the operations of Machine/Operands.lean keep. -/
set_option linter.unusedTactic false
set_option linter.unreachableTactic false
set_option linter.tactic.unusedName false
namespace Sys2Proof.Machine

theorem keeps_setEntry {F : Kind → Prop} [May F .tbl] {r s : State} {x1 x2 x3 x4 x5 x6 : _} (h : Keeps F r s) : Keeps F r (State.setEntry s x1 x2 x3 x4 x5 x6) := by
  unfold State.setEntry; exact keeps_tbl_put h

theorem keeps_setBank {F : Kind → Prop} [May F .tbl] {r s : State} {x1 x2 x3 x4 x5 : _} (h : Keeps F r s) : Keeps F r (State.setBank s x1 x2 x3 x4 x5) := by
  unfold State.setBank
  repeat' first
    | with_reducible assumption
    | intro _
    | with_reducible apply keeps_ite
    | with_reducible apply keeps_setEntry
    | with_reducible apply keeps_ite_snd
    | with_reducible apply keeps_foldl_snd
    | with_reducible apply keeps_foldl
    | split
    | dsimp -zeta only
    | with_reducible refine keeps_of_eq (by with_reducible assumption) ?_
    | with_reducible refine keeps_of_eq3 (by with_reducible assumption) ?_
    | dsimp only

theorem keeps_setHeldTable {F : Kind → Prop} [May F .held] {r s : State} {x1 x2 x3 x4 x5 : _} (h : Keeps F r s) : Keeps F r (State.setHeldTable s x1 x2 x3 x4 x5) := by
  unfold State.setHeldTable
  refine keeps_held h ?_
  generalize s.held = m
  generalize List.range 512 = ks
  intro hm
  induction ks generalizing m with
  | nil => exact hm
  | cons k ks ih => exact ih _ (SMap.wf_put _ _ _ _ hm)

theorem keeps_setSnr {F : Kind → Prop} [May F .snr] {r s : State} {x1 x2 x3 x4 : _} (h : Keeps F r s) : Keeps F r (State.setSnr s x1 x2 x3 x4) := by
  unfold State.setSnr
  repeat' first
    | with_reducible assumption
    | intro _
    | with_reducible apply keeps_ite
    | with_reducible apply keeps_ite_snd
    | with_reducible apply keeps_foldl_snd
    | with_reducible apply keeps_foldl
    | split
    | dsimp -zeta only
    | with_reducible refine keeps_of_eq (by with_reducible assumption) ?_
    | with_reducible refine keeps_of_eq3 (by with_reducible assumption) ?_
    | dsimp only
    | with_reducible apply keeps_snr_put
    | with_reducible apply keeps_erle_put

theorem keeps_setErle {F : Kind → Prop} [May F .erle] {r s : State} {x1 x2 x3 x4 : _} (h : Keeps F r s) : Keeps F r (State.setErle s x1 x2 x3 x4) := by
  unfold State.setErle; exact keeps_erle_put h

end Sys2Proof.Machine
end

