-- ==== Sys2Proof/Laws/KeepsCoefOps.lean ====
section
/-! SUPPORT. What the operations of Machine/CoefOps.lean keep. -/
set_option linter.unusedTactic false
set_option linter.unreachableTactic false
set_option linter.tactic.unusedName false
namespace Sys2Proof.Machine

theorem keeps_setCoef {F : Kind → Prop} [May F .coef] {r s : State} {x1 x2 x3 x4 : _} (h : Keeps F r s) : Keeps F r (State.setCoef s x1 x2 x3 x4) := by
  unfold State.setCoef; exact keeps_coef_put h

theorem keeps_setSeed {F : Kind → Prop} [May F .seeds] {r s : State} {x1 x2 x3 x4 : _} (h : Keeps F r s) : Keeps F r (State.setSeed s x1 x2 x3 x4) := by
  unfold State.setSeed; exact keeps_seeds_put h

theorem keeps_clearMem {F : Kind → Prop} [May F .coef] [May F .seeds] {r s : State} {x0 x1 : _} (h : Keeps F r s) : Keeps F r (clearMem x0 x1 s) := by
  unfold clearMem
  repeat' first
    | with_reducible assumption
    | intro _
    | with_reducible apply keeps_ite
    | with_reducible apply keeps_setSeed
    | with_reducible apply keeps_ite_snd
    | with_reducible apply keeps_foldl_snd
    | with_reducible apply keeps_foldl
    | split
    | dsimp -zeta only
    | with_reducible refine keeps_of_eq (by with_reducible assumption) ?_
    | with_reducible refine keeps_of_eq3 (by with_reducible assumption) ?_
    | dsimp only
    | with_reducible apply keeps_coef_filter

theorem keeps_trainMem {F : Kind → Prop} [May F .free] [May F .coef] [May F .seeds] {r s : State} {x0 x1 : _} (h : Keeps F r s) : Keeps F r (trainMem x0 x1 s) := by
  unfold trainMem
  repeat' first
    | with_reducible assumption
    | intro _
    | with_reducible apply keeps_ite
    | with_reducible apply keeps_clearMem
    | with_reducible apply keeps_setSeed
    | with_reducible apply keeps_ite_snd
    | with_reducible apply keeps_foldl_snd
    | with_reducible apply keeps_foldl
    | split
    | dsimp -zeta only
    | with_reducible refine keeps_of_eq (by with_reducible assumption) ?_
    | with_reducible refine keeps_of_eq3 (by with_reducible assumption) ?_
    | dsimp only
    | with_reducible apply keeps_upd_free

theorem keeps_trainPart {F : Kind → Prop} [May F .free] [May F .coef] [May F .seeds] {r s : State} {x0 x1 x2 : _} (h : Keeps F r s) : Keeps F r (trainPart x0 x1 x2 s) := by
  unfold trainPart
  repeat' first
    | with_reducible assumption
    | intro _
    | with_reducible apply keeps_ite
    | with_reducible apply keeps_setSeed
    | with_reducible apply keeps_ite_snd
    | with_reducible apply keeps_foldl_snd
    | with_reducible apply keeps_foldl
    | split
    | dsimp -zeta only
    | with_reducible refine keeps_of_eq (by with_reducible assumption) ?_
    | with_reducible refine keeps_of_eq3 (by with_reducible assumption) ?_
    | dsimp only
    | with_reducible apply keeps_coef_filter
    | with_reducible apply keeps_upd_free

theorem keeps_trainRow {F : Kind → Prop} [May F .free] [May F .coef] [May F .seeds] {r s : State} {x0 : _} (h : Keeps F r s) : Keeps F r (trainRow x0 s) := by
  unfold trainRow
  repeat' first
    | with_reducible assumption
    | intro _
    | with_reducible apply keeps_ite
    | with_reducible apply keeps_clearMem
    | with_reducible apply keeps_setSeed
    | with_reducible apply keeps_ite_snd
    | with_reducible apply keeps_foldl_snd
    | with_reducible apply keeps_foldl
    | split
    | dsimp -zeta only
    | with_reducible refine keeps_of_eq (by with_reducible assumption) ?_
    | with_reducible refine keeps_of_eq3 (by with_reducible assumption) ?_
    | dsimp only
    | with_reducible apply keeps_upd_free

theorem keeps_setWeights {F : Kind → Prop} [May F .coef] [May F .seeds] {r s : State} {x0 x1 x2 : _} (h : Keeps F r s) : Keeps F r (setWeights x0 x1 x2 s) := by
  unfold setWeights
  repeat' first
    | with_reducible assumption
    | intro _
    | with_reducible apply keeps_ite
    | with_reducible apply keeps_clearMem
    | with_reducible apply keeps_setSeed
    | with_reducible apply keeps_forEach
    | with_reducible apply keeps_ite_snd
    | with_reducible apply keeps_foldl_snd
    | with_reducible apply keeps_foldl
    | split
    | dsimp -zeta only
    | with_reducible refine keeps_of_eq (by with_reducible assumption) ?_
    | with_reducible refine keeps_of_eq3 (by with_reducible assumption) ?_
    | dsimp only

theorem keeps_copyListed {F : Kind → Prop} [May F .coef] {r s : State} {x0 x1 x2 x3 x4 x5 : _} (h : Keeps F r s) : Keeps F r (copyListed x0 x1 x2 x3 x4 x5 s) := by
  unfold copyListed
  repeat' first
    | with_reducible assumption
    | intro _
    | with_reducible apply keeps_ite
    | with_reducible apply keeps_setCoef
    | with_reducible apply keeps_forEach
    | with_reducible apply keeps_ite_snd
    | with_reducible apply keeps_foldl_snd
    | with_reducible apply keeps_foldl
    | split
    | dsimp -zeta only
    | with_reducible refine keeps_of_eq (by with_reducible assumption) ?_
    | with_reducible refine keeps_of_eq3 (by with_reducible assumption) ?_
    | dsimp only

theorem keeps_copyPart {F : Kind → Prop} [May F .coef] [May F .seeds] {r s : State} {x0 x1 x2 x3 x4 x5 x6 x7 : _} (h : Keeps F r s) : Keeps F r (copyPart x0 x1 x2 x3 x4 x5 x6 x7 s) := by
  unfold copyPart
  repeat' first
    | with_reducible assumption
    | intro _
    | with_reducible apply keeps_ite
    | with_reducible apply keeps_setSeed
    | with_reducible apply keeps_copyListed
    | with_reducible apply keeps_ite_snd
    | with_reducible apply keeps_foldl_snd
    | with_reducible apply keeps_foldl
    | split
    | dsimp -zeta only
    | with_reducible refine keeps_of_eq (by with_reducible assumption) ?_
    | with_reducible refine keeps_of_eq3 (by with_reducible assumption) ?_
    | dsimp only

theorem keeps_gatherEcho {F : Kind → Prop} [May F .coef] [May F .seeds] {r s : State} {x0 x1 x2 : _} (h : Keeps F r s) : Keeps F r (gatherEcho x0 x1 x2 s) := by
  unfold gatherEcho
  repeat' first
    | with_reducible assumption
    | intro _
    | with_reducible apply keeps_ite
    | with_reducible apply keeps_copyPart
    | with_reducible apply keeps_setCoef
    | with_reducible apply keeps_ite_snd
    | with_reducible apply keeps_foldl_snd
    | with_reducible apply keeps_foldl
    | split
    | dsimp -zeta only
    | with_reducible refine keeps_of_eq (by with_reducible assumption) ?_
    | with_reducible refine keeps_of_eq3 (by with_reducible assumption) ?_
    | dsimp only

theorem keeps_gatherSet {F : Kind → Prop} [May F .coef] [May F .seeds] {r s : State} {x0 x1 x2 : _} (h : Keeps F r s) : Keeps F r (gatherSet x0 x1 x2 s) := by
  unfold gatherSet
  repeat' first
    | with_reducible assumption
    | intro _
    | with_reducible apply keeps_ite
    | with_reducible apply keeps_gatherEcho
    | with_reducible apply keeps_copyPart
    | with_reducible apply keeps_clearMem
    | with_reducible apply keeps_ite_snd
    | with_reducible apply keeps_foldl_snd
    | with_reducible apply keeps_foldl
    | split
    | dsimp -zeta only
    | with_reducible refine keeps_of_eq (by with_reducible assumption) ?_
    | with_reducible refine keeps_of_eq3 (by with_reducible assumption) ?_
    | dsimp only

theorem keeps_restoreStored {F : Kind → Prop} [May F .regs] [May F .pairs] [May F .coef] [May F .seeds] {r s : State} {x0 x1 : _} (h : Keeps F r s) : Keeps F r (restoreStored x0 x1 s) := by
  unfold restoreStored
  repeat' first
    | with_reducible assumption
    | intro _
    | with_reducible apply keeps_ite
    | with_reducible apply keeps_clearMem
    | with_reducible apply keeps_copyPart
    | with_reducible apply keeps_setFld
    | with_reducible apply keeps_modPair
    | with_reducible apply keeps_ite_snd
    | with_reducible apply keeps_foldl_snd
    | with_reducible apply keeps_foldl
    | split
    | dsimp -zeta only
    | with_reducible refine keeps_of_eq (by with_reducible assumption) ?_
    | with_reducible refine keeps_of_eq3 (by with_reducible assumption) ?_
    | dsimp only

theorem keeps_freshSlice {F : Kind → Prop} [May F .free] [May F .coef] [May F .seeds] {r s : State} {x0 x1 : _} (h : Keeps F r s) : Keeps F r (freshSlice x0 x1 s) := by
  unfold freshSlice
  repeat' first
    | with_reducible assumption
    | intro _
    | with_reducible apply keeps_ite
    | with_reducible apply keeps_trainPart
    | with_reducible apply keeps_setWeights
    | with_reducible apply keeps_trainRow
    | with_reducible apply keeps_trainMem
    | with_reducible apply keeps_setCoef
    | with_reducible apply keeps_setSeed
    | with_reducible apply keeps_forEach
    | with_reducible apply keeps_ite_snd
    | with_reducible apply keeps_foldl_snd
    | with_reducible apply keeps_foldl
    | split
    | dsimp -zeta only
    | with_reducible refine keeps_of_eq (by with_reducible assumption) ?_
    | with_reducible refine keeps_of_eq3 (by with_reducible assumption) ?_
    | dsimp only

theorem keeps_dropEcho {F : Kind → Prop} [May F .coef] {r s : State} {x0 x1 : _} (h : Keeps F r s) : Keeps F r (dropEcho x0 x1 s) := by
  unfold dropEcho
  repeat' first
    | with_reducible assumption
    | intro _
    | with_reducible apply keeps_ite
    | with_reducible apply keeps_ite_snd
    | with_reducible apply keeps_foldl_snd
    | with_reducible apply keeps_foldl
    | split
    | dsimp -zeta only
    | with_reducible refine keeps_of_eq (by with_reducible assumption) ?_
    | with_reducible refine keeps_of_eq3 (by with_reducible assumption) ?_
    | dsimp only
    | with_reducible apply keeps_coef_filter

theorem keeps_refreshStored {F : Kind → Prop} [May F .regs] [May F .pairs] [May F .coef] [May F .seeds] {r s : State} {x0 x1 : _} (h : Keeps F r s) : Keeps F r (refreshStored x0 x1 s) := by
  unfold refreshStored
  repeat' first
    | with_reducible assumption
    | intro _
    | with_reducible apply keeps_ite
    | with_reducible apply keeps_gatherEcho
    | with_reducible apply keeps_dropEcho
    | with_reducible apply keeps_modPair
    | with_reducible apply keeps_setFld
    | with_reducible apply keeps_ite_snd
    | with_reducible apply keeps_foldl_snd
    | with_reducible apply keeps_foldl
    | split
    | dsimp -zeta only
    | with_reducible refine keeps_of_eq (by with_reducible assumption) ?_
    | with_reducible refine keeps_of_eq3 (by with_reducible assumption) ?_
    | dsimp only

theorem keeps_setNoise {F : Kind → Prop} [May F .noise] {r s : State} {x1 x2 x3 : _} (h : Keeps F r s) : Keeps F r (State.setNoise s x1 x2 x3) := by
  unfold State.setNoise; exact keeps_noise_put h

theorem keeps_takeSnapshot {F : Kind → Prop} [May F .pairs] [May F .coef] [May F .seeds] {r s : State} {x0 x1 x2 : _} (h : Keeps F r s) : Keeps F r (takeSnapshot x0 x1 x2 s) := by
  unfold takeSnapshot
  repeat' first
    | with_reducible assumption
    | intro _
    | with_reducible apply keeps_ite
    | with_reducible apply keeps_modPair
    | with_reducible apply keeps_clearMem
    | with_reducible apply keeps_setCoef
    | with_reducible apply keeps_copyPart
    | with_reducible apply keeps_setSeed
    | with_reducible apply keeps_forEach
    | with_reducible apply keeps_ite_snd
    | with_reducible apply keeps_foldl_snd
    | with_reducible apply keeps_foldl
    | split
    | dsimp -zeta only
    | with_reducible refine keeps_of_eq (by with_reducible assumption) ?_
    | with_reducible refine keeps_of_eq3 (by with_reducible assumption) ?_
    | dsimp only

end Sys2Proof.Machine
end

