-- ==== Sys2Proof/Laws/KeepsJobOps.lean ====
section
/-! SUPPORT. What the operations of Machine/JobOps.lean keep. -/
set_option linter.unusedTactic false
set_option linter.unreachableTactic false
set_option linter.tactic.unusedName false
namespace Sys2Proof.Machine

theorem keeps_setNvByte {F : Kind → Prop} [May F .mram] {r s : State} {x1 x2 : _} (h : Keeps F r s) : Keeps F r (State.setNvByte s x1 x2) := by
  unfold State.setNvByte; exact keeps_mram_put h

theorem keeps_showSpares {F : Kind → Prop} [May F .regs] {r s : State} {x0 : _} (h : Keeps F r s) : Keeps F r (showSpares x0 s) := by
  unfold showSpares
  repeat' first
    | with_reducible assumption
    | intro _
    | with_reducible apply keeps_ite
    | with_reducible apply keeps_setFld
    | with_reducible apply keeps_ite_snd
    | with_reducible apply keeps_foldl_snd
    | with_reducible apply keeps_foldl
    | split
    | dsimp -zeta only
    | with_reducible refine keeps_of_eq (by with_reducible assumption) ?_
    | with_reducible refine keeps_of_eq3 (by with_reducible assumption) ?_
    | dsimp only

theorem keeps_setSliceState {F : Kind → Prop} [May F .regs] {r s : State} {x0 x1 x2 : _} (h : Keeps F r s) : Keeps F r (setSliceState x0 x1 x2 s) := by
  unfold setSliceState
  repeat' first
    | with_reducible assumption
    | intro _
    | with_reducible apply keeps_ite
    | with_reducible apply keeps_showSpares
    | with_reducible apply keeps_setFld
    | with_reducible apply keeps_ite_snd
    | with_reducible apply keeps_foldl_snd
    | with_reducible apply keeps_foldl
    | split
    | dsimp -zeta only
    | with_reducible refine keeps_of_eq (by with_reducible assumption) ?_
    | with_reducible refine keeps_of_eq3 (by with_reducible assumption) ?_
    | dsimp only

theorem keeps_setFeSlice {F : Kind → Prop} [May F .regs] {r s : State} {x0 x1 x2 : _} (h : Keeps F r s) : Keeps F r (setFeSlice x0 x1 x2 s) := by
  unfold setFeSlice
  repeat' first
    | with_reducible assumption
    | intro _
    | with_reducible apply keeps_ite
    | with_reducible apply keeps_setFld
    | with_reducible apply keeps_ite_snd
    | with_reducible apply keeps_foldl_snd
    | with_reducible apply keeps_foldl
    | split
    | dsimp -zeta only
    | with_reducible refine keeps_of_eq (by with_reducible assumption) ?_
    | with_reducible refine keeps_of_eq3 (by with_reducible assumption) ?_
    | dsimp only

theorem keeps_showClaims {F : Kind → Prop} [May F .regs] {r s : State} (h : Keeps F r s) : Keeps F r (showClaims s) := by
  unfold showClaims
  repeat' first
    | with_reducible assumption
    | intro _
    | with_reducible apply keeps_ite
    | with_reducible apply keeps_setFld
    | with_reducible apply keeps_ite_snd
    | with_reducible apply keeps_foldl_snd
    | with_reducible apply keeps_foldl
    | split
    | dsimp -zeta only
    | with_reducible refine keeps_of_eq (by with_reducible assumption) ?_
    | with_reducible refine keeps_of_eq3 (by with_reducible assumption) ?_
    | dsimp only

theorem nextHandle_bounds (s : State) : 1 ≤ nextHandle s ∧ nextHandle s ≤ 0xFFFF := by
  unfold nextHandle
  cases hf : List.find? (fun h => s.claims.all (fun c => c.handle != h)) ((List.range 66).map (fun i => (s.hub.handle + i) % 65535 + 1)) with
  | none => simp [hf]
  | some v =>
    have hv := List.mem_of_find?_eq_some hf
    simp only [List.mem_map] at hv
    obtain ⟨i, -, rfl⟩ := hv
    simp only [hf, Option.getD_some]
    omega

theorem keeps_takeClaim {F : Kind → Prop} [May F .regs] [May F .claims] [May F .hub] {r s : State} {x0 x1 x2 x3 x4 : _} (h : Keeps F r s) : Keeps F r (takeClaim x0 x1 x2 x3 x4 s).2 := by
  unfold takeClaim
  refine keeps_showClaims (keeps_inc (keeps_modHub (keeps_claims h ?_)))
  intro c hc
  rcases List.mem_append.1 hc with hc | hc
  · exact .inl hc
  · rw [List.mem_singleton.1 hc]; exact .inr (nextHandle_bounds s)

theorem keeps_refill {F : Kind → Prop} [May F .waiting] [May F .later] {r s : State} {k : Nat} (h : Keeps F r s) : Keeps F r (refill k s) := by
  induction k generalizing s with
  | zero => exact h
  | succ k ih =>
    unfold refill
    split
    · exact h
    · exact keeps_ite (ih (keeps_upd_waiting_later h)) h

theorem keeps_askInternal {F : Kind → Prop} [May F .regs] [May F .waiting] [May F .later] {r s : State} {x0 x1 x2 : _} (h : Keeps F r s) : Keeps F r (askInternal x0 x1 x2 s) := by
  unfold askInternal
  exact keeps_showClaims (keeps_refill (keeps_upd_later h))

theorem keeps_releaseClaim {F : Kind → Prop} [May F .regs] [May F .claims] [May F .waiting] [May F .later] {r s : State} {x : _} (h : Keeps F r s) : Keeps F r (releaseClaim x s) := by
  unfold releaseClaim
  exact keeps_showClaims (keeps_refill (keeps_claims h (fun c hc => .inl (List.mem_of_mem_filter hc))))

theorem keeps_finishJob {F : Kind → Prop} [May F .regs] [May F .completions] [May F .claims] [May F .waiting] [May F .later] {r s : State} {x0 x1 x2 x3 x4 : _} (h : Keeps F r s) : Keeps F r (finishJob x0 x1 x2 x3 x4 s) := by
  unfold finishJob
  repeat' first
    | with_reducible assumption
    | intro _
    | with_reducible apply keeps_ite
    | with_reducible apply keeps_releaseClaim
    | with_reducible apply keeps_ite_snd
    | with_reducible apply keeps_foldl_snd
    | with_reducible apply keeps_foldl
    | split
    | dsimp -zeta only
    | with_reducible refine keeps_of_eq (by with_reducible assumption) ?_
    | with_reducible refine keeps_of_eq3 (by with_reducible assumption) ?_
    | dsimp only
    | with_reducible apply keeps_upd_completions

theorem keeps_abortJobs {F : Kind → Prop} [May F .regs] [May F .completions] [May F .claims] [May F .waiting] [May F .later] {r s : State} {x0 x1 x2 : _} (h : Keeps F r s) : Keeps F r (abortJobs x0 x1 x2 s) := by
  unfold abortJobs
  repeat' first
    | with_reducible assumption
    | intro _
    | with_reducible apply keeps_ite
    | with_reducible apply keeps_finishJob
    | with_reducible apply keeps_forEach
    | with_reducible apply keeps_ite_snd
    | with_reducible apply keeps_foldl_snd
    | with_reducible apply keeps_foldl
    | split
    | dsimp -zeta only
    | with_reducible refine keeps_of_eq (by with_reducible assumption) ?_
    | with_reducible refine keeps_of_eq3 (by with_reducible assumption) ?_
    | dsimp only

theorem keeps_askRepair {F : Kind → Prop} [May F .regs] [May F .waiting] [May F .later] {r s : State} {x0 x1 : _} (h : Keeps F r s) : Keeps F r (askRepair x0 x1 s) := by
  unfold askRepair
  repeat' first
    | with_reducible assumption
    | intro _
    | with_reducible apply keeps_ite
    | with_reducible apply keeps_askInternal
    | with_reducible apply keeps_ite_snd
    | with_reducible apply keeps_foldl_snd
    | with_reducible apply keeps_foldl
    | split
    | dsimp -zeta only
    | with_reducible refine keeps_of_eq (by with_reducible assumption) ?_
    | with_reducible refine keeps_of_eq3 (by with_reducible assumption) ?_
    | dsimp only

end Sys2Proof.Machine
end

