-- ==== Sys2Proof/Laws/KeepsSideOps.lean ====
section
/-! SUPPORT. What the operations of Machine/SideOps.lean keep. -/
set_option linter.unusedTactic false
set_option linter.unreachableTactic false
set_option linter.tactic.unusedName false
namespace Sys2Proof.Machine

theorem keeps_abortReflect {F : Kind → Prop} [May F .regs] [May F .diags] [May F .completions] [May F .claims] [May F .waiting] [May F .later] [May F .raised] {r s : State} {x0 x1 : _} (h : Keeps F r s) : Keeps F r (abortReflect x0 x1 s) := by
  unfold abortReflect
  repeat' first
    | with_reducible assumption
    | intro _
    | with_reducible apply keeps_ite
    | with_reducible apply keeps_setFld
    | with_reducible apply keeps_raise
    | with_reducible apply keeps_inc
    | with_reducible apply keeps_finishJob
    | with_reducible apply keeps_modDiag
    | with_reducible apply keeps_ite_snd
    | with_reducible apply keeps_foldl_snd
    | with_reducible apply keeps_foldl
    | split
    | dsimp -zeta only
    | with_reducible refine keeps_of_eq (by with_reducible assumption) ?_
    | with_reducible refine keeps_of_eq3 (by with_reducible assumption) ?_
    | dsimp only

theorem keeps_abortContext {F : Kind → Prop} [May F .regs] [May F .diags] [May F .completions] [May F .claims] [May F .waiting] [May F .later] [May F .raised] {r s : State} {x0 x1 x2 : _} (h : Keeps F r s) : Keeps F r (abortContext x0 x1 x2 s) := by
  unfold abortContext
  repeat' first
    | with_reducible assumption
    | intro _
    | with_reducible apply keeps_ite
    | with_reducible apply keeps_abortReflect
    | with_reducible apply keeps_forEach
    | with_reducible apply keeps_ite_snd
    | with_reducible apply keeps_foldl_snd
    | with_reducible apply keeps_foldl
    | split
    | dsimp -zeta only
    | with_reducible refine keeps_of_eq (by with_reducible assumption) ?_
    | with_reducible refine keeps_of_eq3 (by with_reducible assumption) ?_
    | dsimp only

theorem keeps_histFlag {F : Kind → Prop} [May F .diags] {r s : State} {x0 x1 x2 : _} (h : Keeps F r s) : Keeps F r (histFlag x0 x1 x2 s) := by
  unfold histFlag
  repeat' first
    | with_reducible assumption
    | intro _
    | with_reducible apply keeps_ite
    | with_reducible apply keeps_modDiag
    | with_reducible apply keeps_ite_snd
    | with_reducible apply keeps_foldl_snd
    | with_reducible apply keeps_foldl
    | split
    | dsimp -zeta only
    | with_reducible refine keeps_of_eq (by with_reducible assumption) ?_
    | with_reducible refine keeps_of_eq3 (by with_reducible assumption) ?_
    | dsimp only

theorem keeps_histFlags {F : Kind → Prop} [May F .diags] {r s : State} {x0 x1 : _} (h : Keeps F r s) : Keeps F r (histFlags x0 x1 s) := by
  unfold histFlags
  repeat' first
    | with_reducible assumption
    | intro _
    | with_reducible apply keeps_ite
    | with_reducible apply keeps_histFlag
    | with_reducible apply keeps_forEach
    | with_reducible apply keeps_ite_snd
    | with_reducible apply keeps_foldl_snd
    | with_reducible apply keeps_foldl
    | split
    | dsimp -zeta only
    | with_reducible refine keeps_of_eq (by with_reducible assumption) ?_
    | with_reducible refine keeps_of_eq3 (by with_reducible assumption) ?_
    | dsimp only

theorem keeps_captureProfile {F : Kind → Prop} [May F .diags] {r s : State} {x0 x1 x2 : _} (h : Keeps F r s) : Keeps F r (captureProfile x0 x1 x2 s) := by
  unfold captureProfile
  repeat' first
    | with_reducible assumption
    | intro _
    | with_reducible apply keeps_ite
    | with_reducible apply keeps_modDiag
    | with_reducible apply keeps_ite_snd
    | with_reducible apply keeps_foldl_snd
    | with_reducible apply keeps_foldl
    | split
    | dsimp -zeta only
    | with_reducible refine keeps_of_eq (by with_reducible assumption) ?_
    | with_reducible refine keeps_of_eq3 (by with_reducible assumption) ?_
    | dsimp only

theorem keeps_histSample {F : Kind → Prop} [May F .diags] {r s : State} {x0 x1 : _} (h : Keeps F r s) : Keeps F r (histSample x0 x1 s) := by
  unfold histSample
  repeat' first
    | with_reducible assumption
    | intro _
    | with_reducible apply keeps_ite
    | with_reducible apply keeps_modDiag
    | with_reducible apply keeps_ite_snd
    | with_reducible apply keeps_foldl_snd
    | with_reducible apply keeps_foldl
    | split
    | dsimp -zeta only
    | with_reducible refine keeps_of_eq (by with_reducible assumption) ?_
    | with_reducible refine keeps_of_eq3 (by with_reducible assumption) ?_
    | dsimp only

theorem keeps_showStale {F : Kind → Prop} [May F .regs] {r s : State} {x0 x1 : _} (h : Keeps F r s) : Keeps F r (showStale x0 x1 s) := by
  unfold showStale
  repeat' first
    | with_reducible assumption
    | intro _
    | with_reducible apply keeps_ite
    | with_reducible apply keeps_setFld
    | with_reducible apply keeps_ite_snd
    | with_reducible apply keeps_foldl_snd
    | with_reducible apply keeps_foldl
    | split
    | dsimp -zeta only
    | with_reducible refine keeps_of_eq (by with_reducible assumption) ?_
    | with_reducible refine keeps_of_eq3 (by with_reducible assumption) ?_
    | dsimp only

theorem keeps_markStale {F : Kind → Prop} [May F .regs] [May F .pairs] [May F .cals] {r s : State} {x0 x1 : _} (h : Keeps F r s) : Keeps F r (markStale x0 x1 s) := by
  unfold markStale
  repeat' first
    | with_reducible assumption
    | intro _
    | with_reducible apply keeps_ite
    | with_reducible apply keeps_showStale
    | with_reducible apply keeps_modPair
    | with_reducible apply keeps_modCal
    | with_reducible apply keeps_setFld
    | with_reducible apply keeps_forEach
    | with_reducible apply keeps_ite_snd
    | with_reducible apply keeps_foldl_snd
    | with_reducible apply keeps_foldl
    | split
    | dsimp -zeta only
    | with_reducible refine keeps_of_eq (by with_reducible assumption) ?_
    | with_reducible refine keeps_of_eq3 (by with_reducible assumption) ?_
    | dsimp only

theorem keeps_clearStale {F : Kind → Prop} [May F .regs] [May F .pairs] [May F .cals] {r s : State} {x0 x1 : _} (h : Keeps F r s) : Keeps F r (clearStale x0 x1 s) := by
  unfold clearStale
  repeat' first
    | with_reducible assumption
    | intro _
    | with_reducible apply keeps_ite
    | with_reducible apply keeps_modPair
    | with_reducible apply keeps_modCal
    | with_reducible apply keeps_setFld
    | with_reducible apply keeps_forEach
    | with_reducible apply keeps_ite_snd
    | with_reducible apply keeps_foldl_snd
    | with_reducible apply keeps_foldl
    | split
    | dsimp -zeta only
    | with_reducible refine keeps_of_eq (by with_reducible assumption) ?_
    | with_reducible refine keeps_of_eq3 (by with_reducible assumption) ?_
    | dsimp only

theorem keeps_abortAsked {F : Kind → Prop} [May F .regs] [May F .cals] [May F .completions] [May F .claims] [May F .waiting] [May F .later] {r s : State} {x0 x1 : _} (h : Keeps F r s) : Keeps F r (abortAsked x0 x1 s) := by
  unfold abortAsked
  repeat' first
    | with_reducible assumption
    | intro _
    | with_reducible apply keeps_ite
    | with_reducible apply keeps_finishJob
    | with_reducible apply keeps_modCal
    | with_reducible apply keeps_forEach
    | with_reducible apply keeps_ite_snd
    | with_reducible apply keeps_foldl_snd
    | with_reducible apply keeps_foldl
    | split
    | dsimp -zeta only
    | with_reducible refine keeps_of_eq (by with_reducible assumption) ?_
    | with_reducible refine keeps_of_eq3 (by with_reducible assumption) ?_
    | dsimp only

theorem keeps_showCalBusy {F : Kind → Prop} [May F .regs] {r s : State} {x0 : _} (h : Keeps F r s) : Keeps F r (showCalBusy x0 s) := by
  unfold showCalBusy
  repeat' first
    | with_reducible assumption
    | intro _
    | with_reducible apply keeps_ite
    | with_reducible apply keeps_setFld
    | with_reducible apply keeps_ite_snd
    | with_reducible apply keeps_foldl_snd
    | with_reducible apply keeps_foldl
    | split
    | dsimp -zeta only
    | with_reducible refine keeps_of_eq (by with_reducible assumption) ?_
    | with_reducible refine keeps_of_eq3 (by with_reducible assumption) ?_
    | dsimp only

theorem keeps_showRefBusy {F : Kind → Prop} [May F .regs] {r s : State} (h : Keeps F r s) : Keeps F r (showRefBusy s) := by
  unfold showRefBusy
  repeat' first
    | with_reducible assumption
    | intro _
    | with_reducible apply keeps_ite
    | with_reducible apply keeps_setFld
    | with_reducible apply keeps_ite_snd
    | with_reducible apply keeps_foldl_snd
    | with_reducible apply keeps_foldl
    | split
    | dsimp -zeta only
    | with_reducible refine keeps_of_eq (by with_reducible assumption) ?_
    | with_reducible refine keeps_of_eq3 (by with_reducible assumption) ?_
    | dsimp only

theorem keeps_releaseTaken {F : Kind → Prop} [May F .regs] [May F .claims] [May F .waiting] [May F .later] {r s : State} {x0 : _} (h : Keeps F r s) : Keeps F r (releaseTaken x0 s) := by
  unfold releaseTaken
  repeat' first
    | with_reducible assumption
    | intro _
    | with_reducible apply keeps_ite
    | with_reducible apply keeps_releaseClaim
    | with_reducible apply keeps_ite_snd
    | with_reducible apply keeps_foldl_snd
    | with_reducible apply keeps_foldl
    | split
    | dsimp -zeta only
    | with_reducible refine keeps_of_eq (by with_reducible assumption) ?_
    | with_reducible refine keeps_of_eq3 (by with_reducible assumption) ?_
    | dsimp only

theorem keeps_abandonRun {F : Kind → Prop} [May F .regs] [May F .pairs] [May F .cals] [May F .calRuns] [May F .completions] [May F .claims] [May F .waiting] [May F .later] [May F .raised] {r s : State} {x0 x1 : _} (h : Keeps F r s) : Keeps F r (abandonRun x0 x1 s) := by
  unfold abandonRun
  repeat' first
    | with_reducible assumption
    | intro _
    | with_reducible apply keeps_ite
    | with_reducible apply keeps_modCal
    | with_reducible apply keeps_clearStale
    | with_reducible apply keeps_raise
    | with_reducible apply keeps_inc
    | with_reducible apply keeps_releaseTaken
    | with_reducible apply keeps_abortAsked
    | with_reducible apply keeps_showRefBusy
    | with_reducible apply keeps_showCalBusy
    | with_reducible apply keeps_ite_snd
    | with_reducible apply keeps_foldl_snd
    | with_reducible apply keeps_foldl
    | split
    | dsimp -zeta only
    | with_reducible refine keeps_of_eq (by with_reducible assumption) ?_
    | with_reducible refine keeps_of_eq3 (by with_reducible assumption) ?_
    | dsimp only
    | with_reducible apply keeps_upd_calRuns

theorem keeps_abandonRuns {F : Kind → Prop} [May F .regs] [May F .pairs] [May F .cals] [May F .calRuns] [May F .completions] [May F .claims] [May F .waiting] [May F .later] [May F .raised] {r s : State} {x0 x1 : _} (h : Keeps F r s) : Keeps F r (abandonRuns x0 x1 s) := by
  unfold abandonRuns
  repeat' first
    | with_reducible assumption
    | intro _
    | with_reducible apply keeps_ite
    | with_reducible apply keeps_abandonRun
    | with_reducible apply keeps_forEach
    | with_reducible apply keeps_ite_snd
    | with_reducible apply keeps_foldl_snd
    | with_reducible apply keeps_foldl
    | split
    | dsimp -zeta only
    | with_reducible refine keeps_of_eq (by with_reducible assumption) ?_
    | with_reducible refine keeps_of_eq3 (by with_reducible assumption) ?_
    | dsimp only

theorem keeps_endSwapJob {F : Kind → Prop} [May F .regs] [May F .completions] [May F .claims] [May F .waiting] [May F .later] [May F .tests] {r s : State} {x0 x1 : _} (h : Keeps F r s) : Keeps F r (endSwapJob x0 x1 s) := by
  unfold endSwapJob
  repeat' first
    | with_reducible assumption
    | intro _
    | with_reducible apply keeps_ite
    | with_reducible apply keeps_finishJob
    | with_reducible apply keeps_releaseTaken
    | with_reducible apply keeps_forEach
    | with_reducible apply keeps_ite_snd
    | with_reducible apply keeps_foldl_snd
    | with_reducible apply keeps_foldl
    | split
    | dsimp -zeta only
    | with_reducible refine keeps_of_eq (by with_reducible assumption) ?_
    | with_reducible refine keeps_of_eq3 (by with_reducible assumption) ?_
    | dsimp only
    | with_reducible apply keeps_upd_tests

theorem keeps_takeSwapOut {F : Kind → Prop} [May F .tiles] {r s : State} {x0 x1 : _} (h : Keeps F r s) : Keeps F r (takeSwapOut x0 x1 s) := by
  unfold takeSwapOut
  repeat' first
    | with_reducible assumption
    | intro _
    | with_reducible apply keeps_ite
    | with_reducible apply keeps_modTile
    | with_reducible apply keeps_ite_snd
    | with_reducible apply keeps_foldl_snd
    | with_reducible apply keeps_foldl
    | split
    | dsimp -zeta only
    | with_reducible refine keeps_of_eq (by with_reducible assumption) ?_
    | with_reducible refine keeps_of_eq3 (by with_reducible assumption) ?_
    | dsimp only

theorem keeps_abandonSwap {F : Kind → Prop} [May F .regs] [May F .tiles] [May F .completions] [May F .claims] [May F .waiting] [May F .later] [May F .tests] [May F .raised] {r s : State} {x0 x1 x2 x3 x4 : _} (h : Keeps F r s) : Keeps F r (abandonSwap x0 x1 x2 x3 x4 s) := by
  unfold abandonSwap
  repeat' first
    | with_reducible assumption
    | intro _
    | with_reducible apply keeps_ite
    | with_reducible apply keeps_takeSwapOut
    | with_reducible apply keeps_setSliceState
    | with_reducible apply keeps_raise
    | with_reducible apply keeps_modTile
    | with_reducible apply keeps_endSwapJob
    | with_reducible apply keeps_ite_snd
    | with_reducible apply keeps_foldl_snd
    | with_reducible apply keeps_foldl
    | split
    | dsimp -zeta only
    | with_reducible refine keeps_of_eq (by with_reducible assumption) ?_
    | with_reducible refine keeps_of_eq3 (by with_reducible assumption) ?_
    | dsimp only

theorem keeps_disturbTests {F : Kind → Prop} [May F .regs] [May F .tiles] [May F .completions] [May F .claims] [May F .waiting] [May F .later] [May F .tests] [May F .raised] {r s : State} {x0 : _} (h : Keeps F r s) : Keeps F r (disturbTests x0 s) := by
  unfold disturbTests
  repeat' first
    | with_reducible assumption
    | intro _
    | with_reducible apply keeps_ite
    | with_reducible apply keeps_abandonSwap
    | with_reducible apply keeps_setFld
    | with_reducible apply keeps_releaseClaim
    | with_reducible apply keeps_finishJob
    | with_reducible apply keeps_forEach
    | with_reducible apply keeps_ite_snd
    | with_reducible apply keeps_foldl_snd
    | with_reducible apply keeps_foldl
    | split
    | dsimp -zeta only
    | with_reducible refine keeps_of_eq (by with_reducible assumption) ?_
    | with_reducible refine keeps_of_eq3 (by with_reducible assumption) ?_
    | dsimp only
    | with_reducible apply keeps_upd_tests

theorem keeps_sideShowtime {F : Kind → Prop} [May F .regs] [May F .tiles] {r s : State} {x0 : _} (h : Keeps F r s) : Keeps F r (sideShowtime x0 s) := by
  unfold sideShowtime
  repeat' first
    | with_reducible assumption
    | intro _
    | with_reducible apply keeps_ite
    | with_reducible apply keeps_setSliceState
    | with_reducible apply keeps_modTile
    | with_reducible apply keeps_forEach
    | with_reducible apply keeps_ite_snd
    | with_reducible apply keeps_foldl_snd
    | with_reducible apply keeps_foldl
    | split
    | dsimp -zeta only
    | with_reducible refine keeps_of_eq (by with_reducible assumption) ?_
    | with_reducible refine keeps_of_eq3 (by with_reducible assumption) ?_
    | dsimp only

theorem keeps_sideEnable {F : Kind → Prop} [May F .regs] [May F .ports] [May F .diags] [May F .doms] [May F .completions] [May F .claims] [May F .waiting] [May F .later] [May F .raised] {r s : State} {x0 : _} (h : Keeps F r s) : Keeps F r (sideEnable x0 s) := by
  unfold sideEnable
  repeat' first
    | with_reducible assumption
    | intro _
    | with_reducible apply keeps_ite
    | with_reducible apply keeps_abortContext
    | with_reducible apply keeps_modPort
    | with_reducible apply keeps_modDom
    | with_reducible apply keeps_forEach
    | with_reducible apply keeps_ite_snd
    | with_reducible apply keeps_foldl_snd
    | with_reducible apply keeps_foldl
    | split
    | dsimp -zeta only
    | with_reducible refine keeps_of_eq (by with_reducible assumption) ?_
    | with_reducible refine keeps_of_eq3 (by with_reducible assumption) ?_
    | dsimp only

theorem keeps_sideLinkDown {F : Kind → Prop} [May F .regs] [May F .tiles] [May F .diags] [May F .completions] [May F .claims] [May F .waiting] [May F .later] [May F .tests] [May F .raised] {r s : State} {x0 : _} (h : Keeps F r s) : Keeps F r (sideLinkDown x0 s) := by
  unfold sideLinkDown
  repeat' first
    | with_reducible assumption
    | intro _
    | with_reducible apply keeps_ite
    | with_reducible apply keeps_abortContext
    | with_reducible apply keeps_histFlags
    | with_reducible apply keeps_captureProfile
    | with_reducible apply keeps_disturbTests
    | with_reducible apply keeps_forEach
    | with_reducible apply keeps_ite_snd
    | with_reducible apply keeps_foldl_snd
    | with_reducible apply keeps_foldl
    | split
    | dsimp -zeta only
    | with_reducible refine keeps_of_eq (by with_reducible assumption) ?_
    | with_reducible refine keeps_of_eq3 (by with_reducible assumption) ?_
    | dsimp only

theorem keeps_sideRetrain {F : Kind → Prop} [May F .regs] [May F .pairs] [May F .tiles] [May F .diags] [May F .cals] [May F .calRuns] [May F .completions] [May F .claims] [May F .waiting] [May F .later] [May F .tests] [May F .raised] {r s : State} {x0 : _} (h : Keeps F r s) : Keeps F r (sideRetrain x0 s) := by
  unfold sideRetrain
  repeat' first
    | with_reducible assumption
    | intro _
    | with_reducible apply keeps_ite
    | with_reducible apply keeps_abortContext
    | with_reducible apply keeps_disturbTests
    | with_reducible apply keeps_histFlags
    | with_reducible apply keeps_abandonRuns
    | with_reducible apply keeps_ite_snd
    | with_reducible apply keeps_foldl_snd
    | with_reducible apply keeps_foldl
    | split
    | dsimp -zeta only
    | with_reducible refine keeps_of_eq (by with_reducible assumption) ?_
    | with_reducible refine keeps_of_eq3 (by with_reducible assumption) ?_
    | dsimp only

theorem keeps_sideStartup {F : Kind → Prop} [May F .regs] [May F .tiles] [May F .diags] [May F .completions] [May F .claims] [May F .waiting] [May F .later] [May F .tests] [May F .raised] {r s : State} {x0 : _} (h : Keeps F r s) : Keeps F r (sideStartup x0 s) := by
  unfold sideStartup
  repeat' first
    | with_reducible assumption
    | intro _
    | with_reducible apply keeps_ite
    | with_reducible apply keeps_disturbTests
    | with_reducible apply keeps_abortContext
    | with_reducible apply keeps_ite_snd
    | with_reducible apply keeps_foldl_snd
    | with_reducible apply keeps_foldl
    | split
    | dsimp -zeta only
    | with_reducible refine keeps_of_eq (by with_reducible assumption) ?_
    | with_reducible refine keeps_of_eq3 (by with_reducible assumption) ?_
    | dsimp only

theorem keeps_sideG2 {F : Kind → Prop} [May F .regs] [May F .pairs] [May F .cals] [May F .calRuns] [May F .completions] [May F .claims] [May F .waiting] [May F .later] [May F .raised] {r s : State} {x0 : _} (h : Keeps F r s) : Keeps F r (sideG2 x0 s) := by
  unfold sideG2
  repeat' first
    | with_reducible assumption
    | intro _
    | with_reducible apply keeps_ite
    | with_reducible apply keeps_abandonRuns
    | with_reducible apply keeps_ite_snd
    | with_reducible apply keeps_foldl_snd
    | with_reducible apply keeps_foldl
    | split
    | dsimp -zeta only
    | with_reducible refine keeps_of_eq (by with_reducible assumption) ?_
    | with_reducible refine keeps_of_eq3 (by with_reducible assumption) ?_
    | dsimp only

theorem keeps_internalRepair {F : Kind → Prop} [May F .regs] [May F .waiting] [May F .later] {r s : State} {x0 x1 x2 : _} (h : Keeps F r s) : Keeps F r (internalRepair x0 x1 x2 s) := by
  unfold internalRepair
  repeat' first
    | with_reducible assumption
    | intro _
    | with_reducible apply keeps_ite
    | with_reducible apply keeps_askRepair
    | with_reducible apply keeps_ite_snd
    | with_reducible apply keeps_foldl_snd
    | with_reducible apply keeps_foldl
    | split
    | dsimp -zeta only
    | with_reducible refine keeps_of_eq (by with_reducible assumption) ?_
    | with_reducible refine keeps_of_eq3 (by with_reducible assumption) ?_
    | dsimp only

end Sys2Proof.Machine
end

