-- ==== Sys2Proof/Laws/KeepsModeOps.lean ====
section
/-! SUPPORT. What the operations of Machine/ModeOps.lean keep. -/
set_option linter.unusedTactic false
set_option linter.unreachableTactic false
set_option linter.tactic.unusedName false
namespace Sys2Proof.Machine

theorem keeps_showEei {F : Kind → Prop} [May F .regs] {r s : State} {x0 : _} (h : Keeps F r s) : Keeps F r (showEei x0 s) := by
  unfold showEei
  repeat' first
    | with_reducible assumption
    | intro _
    | with_reducible apply keeps_ite
    | with_reducible apply keeps_setFld
    | with_reducible apply keeps_ite_snd
    | with_reducible apply keeps_foldl_snd
    | with_reducible apply keeps_foldl
    | split
    | dsimp -zeta only
    | with_reducible refine keeps_of_eq (by with_reducible assumption) ?_
    | with_reducible refine keeps_of_eq3 (by with_reducible assumption) ?_
    | dsimp only

theorem keeps_reasonEvents {F : Kind → Prop} [May F .raised] {r s : State} {x0 : _} (h : Keeps F r s) : Keeps F r (reasonEvents x0 s) := by
  unfold reasonEvents
  repeat' first
    | with_reducible assumption
    | intro _
    | with_reducible apply keeps_ite
    | with_reducible apply keeps_raise
    | with_reducible apply keeps_forEach
    | with_reducible apply keeps_ite_snd
    | with_reducible apply keeps_foldl_snd
    | with_reducible apply keeps_foldl
    | split
    | dsimp -zeta only
    | with_reducible refine keeps_of_eq (by with_reducible assumption) ?_
    | with_reducible refine keeps_of_eq3 (by with_reducible assumption) ?_
    | dsimp only

theorem keeps_showModes {F : Kind → Prop} [May F .regs] [May F .raised] {r s : State} {x0 : _} (h : Keeps F r s) : Keeps F r (showModes x0 s) := by
  unfold showModes
  repeat' first
    | with_reducible assumption
    | intro _
    | with_reducible apply keeps_ite
    | with_reducible apply keeps_reasonEvents
    | with_reducible apply keeps_inc
    | with_reducible apply keeps_setFld
    | with_reducible apply keeps_setReg
    | with_reducible apply keeps_showEei
    | with_reducible apply keeps_ite_snd
    | with_reducible apply keeps_foldl_snd
    | with_reducible apply keeps_foldl
    | split
    | dsimp -zeta only
    | with_reducible refine keeps_of_eq (by with_reducible assumption) ?_
    | with_reducible refine keeps_of_eq3 (by with_reducible assumption) ?_
    | dsimp only

theorem keeps_refreshModes {F : Kind → Prop} [May F .regs] [May F .raised] {r s : State} {x0 : _} (h : Keeps F r s) : Keeps F r (refreshModes x0 s) := by
  unfold refreshModes
  repeat' first
    | with_reducible assumption
    | intro _
    | with_reducible apply keeps_ite
    | with_reducible apply keeps_showModes
    | with_reducible apply keeps_ite_snd
    | with_reducible apply keeps_foldl_snd
    | with_reducible apply keeps_foldl
    | split
    | dsimp -zeta only
    | with_reducible refine keeps_of_eq (by with_reducible assumption) ?_
    | with_reducible refine keeps_of_eq3 (by with_reducible assumption) ?_
    | dsimp only

end Sys2Proof.Machine
end

