-- ==== Sys2Proof/Laws/KeepsTtOps.lean ====
section
/-! SUPPORT. What the operations of Machine/TtOps.lean keep. -/
set_option linter.unusedTactic false
set_option linter.unreachableTactic false
set_option linter.tactic.unusedName false
namespace Sys2Proof.Machine

theorem keeps_setBankState {F : Kind → Prop} [May F .regs] {r s : State} {x0 x1 : _} (h : Keeps F r s) : Keeps F r (setBankState x0 x1 s) := by
  unfold setBankState
  repeat' first
    | with_reducible assumption
    | intro _
    | with_reducible apply keeps_ite
    | with_reducible apply keeps_setFld
    | with_reducible apply keeps_ite_snd
    | with_reducible apply keeps_foldl_snd
    | with_reducible apply keeps_foldl
    | split
    | dsimp -zeta only
    | with_reducible refine keeps_of_eq (by with_reducible assumption) ?_
    | with_reducible refine keeps_of_eq3 (by with_reducible assumption) ?_
    | dsimp only

theorem keeps_setBedsUsed {F : Kind → Prop} [May F .banks] {r s : State} {x0 x1 : _} (h : Keeps F r s) : Keeps F r (setBedsUsed x0 x1 s) := by
  unfold setBedsUsed
  repeat' first
    | with_reducible assumption
    | intro _
    | with_reducible apply keeps_ite
    | with_reducible apply keeps_ite_snd
    | with_reducible apply keeps_foldl_snd
    | with_reducible apply keeps_foldl
    | split
    | dsimp -zeta only
    | with_reducible refine keeps_of_eq (by with_reducible assumption) ?_
    | with_reducible refine keeps_of_eq3 (by with_reducible assumption) ?_
    | dsimp only
    | with_reducible apply keeps_banks_put

theorem keeps_setShared {F : Kind → Prop} [May F .banks] {r s : State} {x0 : _} (h : Keeps F r s) : Keeps F r (setShared x0 s) := by
  unfold setShared
  repeat' first
    | with_reducible assumption
    | intro _
    | with_reducible apply keeps_ite
    | with_reducible apply keeps_ite_snd
    | with_reducible apply keeps_foldl_snd
    | with_reducible apply keeps_foldl
    | split
    | dsimp -zeta only
    | with_reducible refine keeps_of_eq (by with_reducible assumption) ?_
    | with_reducible refine keeps_of_eq3 (by with_reducible assumption) ?_
    | dsimp only
    | with_reducible apply keeps_banks_shared

theorem keeps_showPool {F : Kind → Prop} [May F .regs] {r s : State} (h : Keeps F r s) : Keeps F r (showPool s) := by
  unfold showPool
  repeat' first
    | with_reducible assumption
    | intro _
    | with_reducible apply keeps_ite
    | with_reducible apply keeps_setFld
    | with_reducible apply keeps_ite_snd
    | with_reducible apply keeps_foldl_snd
    | with_reducible apply keeps_foldl
    | split
    | dsimp -zeta only
    | with_reducible refine keeps_of_eq (by with_reducible assumption) ?_
    | with_reducible refine keeps_of_eq3 (by with_reducible assumption) ?_
    | dsimp only

theorem keeps_showBeds {F : Kind → Prop} [May F .regs] {r s : State} {x0 : _} (h : Keeps F r s) : Keeps F r (showBeds x0 s) := by
  unfold showBeds
  repeat' first
    | with_reducible assumption
    | intro _
    | with_reducible apply keeps_ite
    | with_reducible apply keeps_setFld
    | with_reducible apply keeps_ite_snd
    | with_reducible apply keeps_foldl_snd
    | with_reducible apply keeps_foldl
    | split
    | dsimp -zeta only
    | with_reducible refine keeps_of_eq (by with_reducible assumption) ?_
    | with_reducible refine keeps_of_eq3 (by with_reducible assumption) ?_
    | dsimp only

theorem keeps_showBanks {F : Kind → Prop} [May F .regs] {r s : State} (h : Keeps F r s) : Keeps F r (showBanks s) := by
  unfold showBanks
  repeat' first
    | with_reducible assumption
    | intro _
    | with_reducible apply keeps_ite
    | with_reducible apply keeps_showPool
    | with_reducible apply keeps_setFld
    | with_reducible apply keeps_ite_snd
    | with_reducible apply keeps_foldl_snd
    | with_reducible apply keeps_foldl
    | split
    | dsimp -zeta only
    | with_reducible refine keeps_of_eq (by with_reducible assumption) ?_
    | with_reducible refine keeps_of_eq3 (by with_reducible assumption) ?_
    | dsimp only

theorem keeps_takeBed {F : Kind → Prop} [May F .free] [May F .regs] [May F .banks] [May F .raised] {r s : State} {x0 x1 x2 : _} (h : Keeps F r s) : Keeps F r (takeBed x0 x1 x2 s).2 := by
  show KeepsP F r _
  unfold takeBed
  repeat' first
    | with_reducible assumption
    | intro _
    | with_reducible apply keepsP_mk
    | with_reducible apply keepsP_ite
    | with_reducible apply keeps_ite
    | with_reducible apply keeps_raise
    | with_reducible apply keeps_draw
    | with_reducible apply keeps_setBedsUsed
    | with_reducible apply keeps_showPool
    | with_reducible apply keeps_setShared
    | with_reducible apply keeps_ite_snd
    | with_reducible apply keeps_foldl_snd
    | with_reducible apply keeps_foldl
    | split
    | dsimp -zeta only
    | with_reducible refine keeps_of_eq (by with_reducible assumption) ?_
    | with_reducible refine keeps_of_eq3 (by with_reducible assumption) ?_
    | dsimp only

theorem keeps_grantTo {F : Kind → Prop} [May F .free] [May F .regs] [May F .banks] [May F .raised] {r s : State} {x0 x1 x2 x3 : _} (h : Keeps F r s) : Keeps F r (grantTo x0 x1 x2 x3 s).2 := by
  show KeepsP F r _
  unfold grantTo
  repeat' first
    | with_reducible assumption
    | intro _
    | with_reducible apply keepsP_mk
    | with_reducible apply keepsP_ite
    | with_reducible apply keeps_ite
    | with_reducible apply keeps_takeBed
    | with_reducible apply keeps_ite_snd
    | with_reducible apply keeps_foldl_snd
    | with_reducible apply keeps_foldl
    | split
    | dsimp -zeta only
    | with_reducible refine keeps_of_eq (by with_reducible assumption) ?_
    | with_reducible refine keeps_of_eq3 (by with_reducible assumption) ?_
    | dsimp only

theorem keeps_grantBed {F : Kind → Prop} [May F .free] [May F .regs] [May F .banks] [May F .raised] {r s : State} {x0 x1 x2 : _} (h : Keeps F r s) : Keeps F r (grantBed x0 x1 x2 s).2 := by
  show KeepsP F r _
  unfold grantBed
  repeat' first
    | with_reducible assumption
    | intro _
    | with_reducible apply keepsP_mk
    | with_reducible apply keepsP_ite
    | with_reducible apply keeps_ite
    | with_reducible apply keeps_grantTo
    | with_reducible apply keeps_ite_snd
    | with_reducible apply keeps_foldl_snd
    | with_reducible apply keeps_foldl
    | split
    | dsimp -zeta only
    | with_reducible refine keeps_of_eq (by with_reducible assumption) ?_
    | with_reducible refine keeps_of_eq3 (by with_reducible assumption) ?_
    | dsimp only

theorem keeps_releaseBed {F : Kind → Prop} [May F .regs] [May F .banks] {r s : State} {x0 x1 : _} (h : Keeps F r s) : Keeps F r (releaseBed x0 x1 s) := by
  unfold releaseBed
  repeat' first
    | with_reducible assumption
    | intro _
    | with_reducible apply keeps_ite
    | with_reducible apply keeps_setBedsUsed
    | with_reducible apply keeps_showPool
    | with_reducible apply keeps_setShared
    | with_reducible apply keeps_ite_snd
    | with_reducible apply keeps_foldl_snd
    | with_reducible apply keeps_foldl
    | split
    | dsimp -zeta only
    | with_reducible refine keeps_of_eq (by with_reducible assumption) ?_
    | with_reducible refine keeps_of_eq3 (by with_reducible assumption) ?_
    | dsimp only

theorem keeps_releaseBeds {F : Kind → Prop} [May F .regs] [May F .banks] {r s : State} {n d bs : _} (h : Keeps F r s) : Keeps F r (releaseBeds n d bs s) := by
  unfold releaseBeds
  generalize dirBeds s n d = k
  induction bs generalizing k s with
  | nil => exact h
  | cons b bs ih => exact ih (keeps_releaseBed h) _

theorem keeps_capNotice {F : Kind → Prop} [May F .queues] {r s : State} {x0 : _} (h : Keeps F r s) : Keeps F r (capNotice x0 s) := by
  unfold capNotice
  repeat' first
    | with_reducible assumption
    | intro _
    | with_reducible apply keeps_ite
    | with_reducible apply keeps_modQueue
    | with_reducible apply keeps_ite_snd
    | with_reducible apply keeps_foldl_snd
    | with_reducible apply keeps_foldl
    | split
    | dsimp -zeta only
    | with_reducible refine keeps_of_eq (by with_reducible assumption) ?_
    | with_reducible refine keeps_of_eq3 (by with_reducible assumption) ?_
    | dsimp only

theorem keeps_capAgree {F : Kind → Prop} [May F .queues] {r s : State} {x0 x1 x2 : _} (h : Keeps F r s) : Keeps F r (capAgree x0 x1 x2 s) := by
  unfold capAgree
  repeat' first
    | with_reducible assumption
    | intro _
    | with_reducible apply keeps_ite
    | with_reducible apply keeps_modQueue
    | with_reducible apply keeps_ite_snd
    | with_reducible apply keeps_foldl_snd
    | with_reducible apply keeps_foldl
    | split
    | dsimp -zeta only
    | with_reducible refine keeps_of_eq (by with_reducible assumption) ?_
    | with_reducible refine keeps_of_eq3 (by with_reducible assumption) ?_
    | dsimp only

theorem keeps_capAwait {F : Kind → Prop} [May F .queues] {r s : State} {x0 x1 : _} (h : Keeps F r s) : Keeps F r (capAwait x0 x1 s) := by
  unfold capAwait
  repeat' first
    | with_reducible assumption
    | intro _
    | with_reducible apply keeps_ite
    | with_reducible apply keeps_modQueue
    | with_reducible apply keeps_ite_snd
    | with_reducible apply keeps_foldl_snd
    | with_reducible apply keeps_foldl
    | split
    | dsimp -zeta only
    | with_reducible refine keeps_of_eq (by with_reducible assumption) ?_
    | with_reducible refine keeps_of_eq3 (by with_reducible assumption) ?_
    | dsimp only

theorem keeps_capDrained {F : Kind → Prop} [May F .queues] {r s : State} {x0 : _} (h : Keeps F r s) : Keeps F r (capDrained x0 s) := by
  unfold capDrained
  repeat' first
    | with_reducible assumption
    | intro _
    | with_reducible apply keeps_ite
    | with_reducible apply keeps_modQueue
    | with_reducible apply keeps_ite_snd
    | with_reducible apply keeps_foldl_snd
    | with_reducible apply keeps_foldl
    | split
    | dsimp -zeta only
    | with_reducible refine keeps_of_eq (by with_reducible assumption) ?_
    | with_reducible refine keeps_of_eq3 (by with_reducible assumption) ?_
    | dsimp only

theorem keeps_capCancel {F : Kind → Prop} [May F .queues] {r s : State} {x0 x1 : _} (h : Keeps F r s) : Keeps F r (capCancel x0 x1 s) := by
  unfold capCancel
  repeat' first
    | with_reducible assumption
    | intro _
    | with_reducible apply keeps_ite
    | with_reducible apply keeps_modQueue
    | with_reducible apply keeps_ite_snd
    | with_reducible apply keeps_foldl_snd
    | with_reducible apply keeps_foldl
    | split
    | dsimp -zeta only
    | with_reducible refine keeps_of_eq (by with_reducible assumption) ?_
    | with_reducible refine keeps_of_eq3 (by with_reducible assumption) ?_
    | dsimp only

theorem keeps_setFrames {F : Kind → Prop} [May F .queues] {r s : State} {x0 x1 x2 : _} (h : Keeps F r s) : Keeps F r (setFrames x0 x1 x2 s) := by
  unfold setFrames
  repeat' first
    | with_reducible assumption
    | intro _
    | with_reducible apply keeps_ite
    | with_reducible apply keeps_modQueue
    | with_reducible apply keeps_ite_snd
    | with_reducible apply keeps_foldl_snd
    | with_reducible apply keeps_foldl
    | split
    | dsimp -zeta only
    | with_reducible refine keeps_of_eq (by with_reducible assumption) ?_
    | with_reducible refine keeps_of_eq3 (by with_reducible assumption) ?_
    | dsimp only

theorem keeps_dropFrames {F : Kind → Prop} [May F .regs] [May F .queues] [May F .banks] {r s : State} {x0 x1 x2 : _} (h : Keeps F r s) : Keeps F r (dropFrames x0 x1 x2 s).2 := by
  show KeepsP F r _
  unfold dropFrames
  repeat' first
    | with_reducible assumption
    | intro _
    | with_reducible apply keepsP_mk
    | with_reducible apply keepsP_ite
    | with_reducible apply keeps_ite
    | with_reducible apply keeps_releaseBeds
    | with_reducible apply keeps_setFrames
    | with_reducible apply keeps_ite_snd
    | with_reducible apply keeps_foldl_snd
    | with_reducible apply keeps_foldl
    | split
    | dsimp -zeta only
    | with_reducible refine keeps_of_eq (by with_reducible assumption) ?_
    | with_reducible refine keeps_of_eq3 (by with_reducible assumption) ?_
    | dsimp only

theorem keeps_expireFrames {F : Kind → Prop} [May F .regs] [May F .queues] [May F .banks] [May F .raised] {r s : State} {x0 x1 x2 x3 : _} (h : Keeps F r s) : Keeps F r (expireFrames x0 x1 x2 x3 s) := by
  unfold expireFrames
  repeat' first
    | with_reducible assumption
    | intro _
    | with_reducible apply keeps_ite
    | with_reducible apply keeps_dropFrames
    | with_reducible apply keeps_raise
    | with_reducible apply keeps_addTo
    | with_reducible apply keeps_ite_snd
    | with_reducible apply keeps_foldl_snd
    | with_reducible apply keeps_foldl
    | split
    | dsimp -zeta only
    | with_reducible refine keeps_of_eq (by with_reducible assumption) ?_
    | with_reducible refine keeps_of_eq3 (by with_reducible assumption) ?_
    | dsimp only

theorem keeps_dropCodewords {F : Kind → Prop} [May F .regs] [May F .queues] {r s : State} {x0 x1 : _} (h : Keeps F r s) : Keeps F r (dropCodewords x0 x1 s).2 := by
  show KeepsP F r _
  unfold dropCodewords
  repeat' first
    | with_reducible assumption
    | intro _
    | with_reducible apply keepsP_mk
    | with_reducible apply keepsP_ite
    | with_reducible apply keeps_ite
    | with_reducible apply keeps_addTo
    | with_reducible apply keeps_modQueue
    | with_reducible apply keeps_ite_snd
    | with_reducible apply keeps_foldl_snd
    | with_reducible apply keeps_foldl
    | split
    | dsimp -zeta only
    | with_reducible refine keeps_of_eq (by with_reducible assumption) ?_
    | with_reducible refine keeps_of_eq3 (by with_reducible assumption) ?_
    | dsimp only

theorem keeps_expireCodewords {F : Kind → Prop} [May F .regs] [May F .queues] [May F .raised] {r s : State} {x0 x1 x2 : _} (h : Keeps F r s) : Keeps F r (expireCodewords x0 x1 x2 s) := by
  unfold expireCodewords
  repeat' first
    | with_reducible assumption
    | intro _
    | with_reducible apply keeps_ite
    | with_reducible apply keeps_dropCodewords
    | with_reducible apply keeps_raise
    | with_reducible apply keeps_addTo
    | with_reducible apply keeps_ite_snd
    | with_reducible apply keeps_foldl_snd
    | with_reducible apply keeps_foldl
    | split
    | dsimp -zeta only
    | with_reducible refine keeps_of_eq (by with_reducible assumption) ?_
    | with_reducible refine keeps_of_eq3 (by with_reducible assumption) ?_
    | dsimp only

theorem keeps_expireRxCodewords {F : Kind → Prop} [May F .regs] [May F .queues] [May F .raised] {r s : State} {x0 x1 x2 : _} (h : Keeps F r s) : Keeps F r (expireRxCodewords x0 x1 x2 s) := by
  unfold expireRxCodewords
  repeat' first
    | with_reducible assumption
    | intro _
    | with_reducible apply keeps_ite
    | with_reducible apply keeps_modQueue
    | with_reducible apply keeps_raise
    | with_reducible apply keeps_addTo
    | with_reducible apply keeps_ite_snd
    | with_reducible apply keeps_foldl_snd
    | with_reducible apply keeps_foldl
    | split
    | dsimp -zeta only
    | with_reducible refine keeps_of_eq (by with_reducible assumption) ?_
    | with_reducible refine keeps_of_eq3 (by with_reducible assumption) ?_
    | dsimp only

theorem keeps_pushPair {F : Kind → Prop} [May F .queues] {r s : State} {x0 x1 x2 x3 : _} (h : Keeps F r s) : Keeps F r (pushPair x0 x1 x2 x3 s) := by
  unfold pushPair
  repeat' first
    | with_reducible assumption
    | intro _
    | with_reducible apply keeps_ite
    | with_reducible apply keeps_modQueue
    | with_reducible apply keeps_ite_snd
    | with_reducible apply keeps_foldl_snd
    | with_reducible apply keeps_foldl
    | split
    | dsimp -zeta only
    | with_reducible refine keeps_of_eq (by with_reducible assumption) ?_
    | with_reducible refine keeps_of_eq3 (by with_reducible assumption) ?_
    | dsimp only

theorem keeps_dropCodewordBits {F : Kind → Prop} [May F .regs] [May F .queues] [May F .banks] {r s : State} {x0 x1 : _} (h : Keeps F r s) : Keeps F r (dropCodewordBits x0 x1 s) := by
  unfold dropCodewordBits
  repeat' first
    | with_reducible assumption
    | intro _
    | with_reducible apply keeps_ite
    | with_reducible apply keeps_releaseBeds
    | with_reducible apply keeps_modQueue
    | with_reducible apply keeps_ite_snd
    | with_reducible apply keeps_foldl_snd
    | with_reducible apply keeps_foldl
    | split
    | dsimp -zeta only
    | with_reducible refine keeps_of_eq (by with_reducible assumption) ?_
    | with_reducible refine keeps_of_eq3 (by with_reducible assumption) ?_
    | dsimp only

theorem keeps_clearCodewords {F : Kind → Prop} [May F .regs] [May F .queues] [May F .banks] {r s : State} {x0 : _} (h : Keeps F r s) : Keeps F r (clearCodewords x0 s) := by
  unfold clearCodewords
  repeat' first
    | with_reducible assumption
    | intro _
    | with_reducible apply keeps_ite
    | with_reducible apply keeps_releaseBeds
    | with_reducible apply keeps_modQueue
    | with_reducible apply keeps_ite_snd
    | with_reducible apply keeps_foldl_snd
    | with_reducible apply keeps_foldl
    | split
    | dsimp -zeta only
    | with_reducible refine keeps_of_eq (by with_reducible assumption) ?_
    | with_reducible refine keeps_of_eq3 (by with_reducible assumption) ?_
    | dsimp only

theorem keeps_expireAll {F : Kind → Prop} [May F .regs] [May F .queues] [May F .banks] [May F .raised] {r s : State} {x0 x1 : _} (h : Keeps F r s) : Keeps F r (expireAll x0 x1 s) := by
  unfold expireAll
  repeat' first
    | with_reducible assumption
    | intro _
    | with_reducible apply keeps_ite
    | with_reducible apply keeps_expireFrames
    | with_reducible apply keeps_ite_snd
    | with_reducible apply keeps_foldl_snd
    | with_reducible apply keeps_foldl
    | split
    | dsimp -zeta only
    | with_reducible refine keeps_of_eq (by with_reducible assumption) ?_
    | with_reducible refine keeps_of_eq3 (by with_reducible assumption) ?_
    | dsimp only

theorem keeps_flushTx {F : Kind → Prop} [May F .regs] [May F .queues] [May F .banks] {r s : State} {x0 : _} (h : Keeps F r s) : Keeps F r (flushTx x0 s) := by
  unfold flushTx
  repeat' first
    | with_reducible assumption
    | intro _
    | with_reducible apply keeps_ite
    | with_reducible apply keeps_releaseBeds
    | with_reducible apply keeps_modQueue
    | with_reducible apply keeps_setFrames
    | with_reducible apply keeps_showBeds
    | with_reducible apply keeps_addTo
    | with_reducible apply keeps_ite_snd
    | with_reducible apply keeps_foldl_snd
    | with_reducible apply keeps_foldl
    | split
    | dsimp -zeta only
    | with_reducible refine keeps_of_eq (by with_reducible assumption) ?_
    | with_reducible refine keeps_of_eq3 (by with_reducible assumption) ?_
    | dsimp only

theorem keeps_fcJudge {F : Kind → Prop} [May F .queues] [May F .hosts] {r s : State} {x0 x1 : _} (h : Keeps F r s) : Keeps F r (fcJudge x0 x1 s) := by
  unfold fcJudge
  repeat' first
    | with_reducible assumption
    | intro _
    | with_reducible apply keeps_ite
    | with_reducible apply keeps_modHost
    | with_reducible apply keeps_modQueue
    | with_reducible apply keeps_forEach
    | with_reducible apply keeps_ite_snd
    | with_reducible apply keeps_foldl_snd
    | with_reducible apply keeps_foldl
    | split
    | dsimp -zeta only
    | with_reducible refine keeps_of_eq (by with_reducible assumption) ?_
    | with_reducible refine keeps_of_eq3 (by with_reducible assumption) ?_
    | dsimp only

theorem keeps_showRoute {F : Kind → Prop} [May F .regs] {r s : State} {x0 : _} (h : Keeps F r s) : Keeps F r (showRoute x0 s) := by
  unfold showRoute
  repeat' first
    | with_reducible assumption
    | intro _
    | with_reducible apply keeps_ite
    | with_reducible apply keeps_setFld
    | with_reducible apply keeps_ite_snd
    | with_reducible apply keeps_foldl_snd
    | with_reducible apply keeps_foldl
    | split
    | dsimp -zeta only
    | with_reducible refine keeps_of_eq (by with_reducible assumption) ?_
    | with_reducible refine keeps_of_eq3 (by with_reducible assumption) ?_
    | dsimp only

theorem keeps_appendTx {F : Kind → Prop} [May F .queues] {r s : State} {x0 x1 x2 x3 : _} (h : Keeps F r s) : Keeps F r (appendTx x0 x1 x2 x3 s) := by
  unfold appendTx
  repeat' first
    | with_reducible assumption
    | intro _
    | with_reducible apply keeps_ite
    | with_reducible apply keeps_modQueue
    | with_reducible apply keeps_ite_snd
    | with_reducible apply keeps_foldl_snd
    | with_reducible apply keeps_foldl
    | split
    | dsimp -zeta only
    | with_reducible refine keeps_of_eq (by with_reducible assumption) ?_
    | with_reducible refine keeps_of_eq3 (by with_reducible assumption) ?_
    | dsimp only

theorem keeps_endOpen {F : Kind → Prop} [May F .queues] {r s : State} {x0 x1 x2 : _} (h : Keeps F r s) : Keeps F r (endOpen x0 x1 x2 s) := by
  unfold endOpen
  repeat' first
    | with_reducible assumption
    | intro _
    | with_reducible apply keeps_ite
    | with_reducible apply keeps_modQueue
    | with_reducible apply keeps_appendTx
    | with_reducible apply keeps_ite_snd
    | with_reducible apply keeps_foldl_snd
    | with_reducible apply keeps_foldl
    | split
    | dsimp -zeta only
    | with_reducible refine keeps_of_eq (by with_reducible assumption) ?_
    | with_reducible refine keeps_of_eq3 (by with_reducible assumption) ?_
    | dsimp only

theorem keeps_refuseFrame {F : Kind → Prop} [May F .regs] [May F .queues] {r s : State} {x0 x1 x2 : _} (h : Keeps F r s) : Keeps F r (refuseFrame x0 x1 x2 s) := by
  unfold refuseFrame
  repeat' first
    | with_reducible assumption
    | intro _
    | with_reducible apply keeps_ite
    | with_reducible apply keeps_endOpen
    | with_reducible apply keeps_inc
    | with_reducible apply keeps_ite_snd
    | with_reducible apply keeps_foldl_snd
    | with_reducible apply keeps_foldl
    | split
    | dsimp -zeta only
    | with_reducible refine keeps_of_eq (by with_reducible assumption) ?_
    | with_reducible refine keeps_of_eq3 (by with_reducible assumption) ?_
    | dsimp only

theorem keeps_noSlot {F : Kind → Prop} [May F .free] {r s : State} (h : Keeps F r s) : Keeps F r (noSlot s).2 := by
  show KeepsP F r _
  unfold noSlot
  repeat' first
    | with_reducible assumption
    | intro _
    | with_reducible apply keepsP_mk
    | with_reducible apply keepsP_ite
    | with_reducible apply keeps_ite
    | with_reducible apply keeps_draw
    | with_reducible apply keeps_ite_snd
    | with_reducible apply keeps_foldl_snd
    | with_reducible apply keeps_foldl
    | split
    | dsimp -zeta only
    | with_reducible refine keeps_of_eq (by with_reducible assumption) ?_
    | with_reducible refine keeps_of_eq3 (by with_reducible assumption) ?_
    | dsimp only

theorem keeps_noteLag {F : Kind → Prop} [May F .regs] {r s : State} {x0 x1 : _} (h : Keeps F r s) : Keeps F r (noteLag x0 x1 s) := by
  unfold noteLag
  repeat' first
    | with_reducible assumption
    | intro _
    | with_reducible apply keeps_ite
    | with_reducible apply keeps_setFld
    | with_reducible apply keeps_ite_snd
    | with_reducible apply keeps_foldl_snd
    | with_reducible apply keeps_foldl
    | split
    | dsimp -zeta only
    | with_reducible refine keeps_of_eq (by with_reducible assumption) ?_
    | with_reducible refine keeps_of_eq3 (by with_reducible assumption) ?_
    | dsimp only

theorem keeps_admitBlock {F : Kind → Prop} [May F .free] [May F .regs] [May F .queues] [May F .banks] [May F .raised] {r s : State} {x0 x1 x2 x3 : _} (h : Keeps F r s) : Keeps F r (admitBlock x0 x1 x2 x3 s).2 := by
  show KeepsP F r _
  unfold admitBlock
  repeat' first
    | with_reducible assumption
    | intro _
    | with_reducible apply keepsP_mk
    | with_reducible apply keepsP_ite
    | with_reducible apply keeps_ite
    | with_reducible apply keeps_refuseFrame
    | with_reducible apply keeps_noSlot
    | with_reducible apply keeps_grantBed
    | with_reducible apply keeps_releaseBed
    | with_reducible apply keeps_appendTx
    | with_reducible apply keeps_modQueue
    | with_reducible apply keeps_noteLag
    | with_reducible apply keeps_inc64
    | with_reducible apply keeps_ite_snd
    | with_reducible apply keeps_foldl_snd
    | with_reducible apply keeps_foldl
    | split
    | dsimp -zeta only
    | with_reducible refine keeps_of_eq (by with_reducible assumption) ?_
    | with_reducible refine keeps_of_eq3 (by with_reducible assumption) ?_
    | dsimp only

theorem keeps_tailDrop {F : Kind → Prop} [May F .regs] [May F .queues] [May F .hosts] [May F .banks] [May F .raised] {r s : State} {x0 x1 : _} (h : Keeps F r s) : Keeps F r (tailDrop x0 x1 s) := by
  unfold tailDrop
  repeat' first
    | with_reducible assumption
    | intro _
    | with_reducible apply keeps_ite
    | with_reducible apply keeps_releaseBeds
    | with_reducible apply keeps_setFrames
    | with_reducible apply keeps_inc
    | with_reducible apply keeps_raise
    | with_reducible apply keeps_modHost
    | with_reducible apply keeps_ite_snd
    | with_reducible apply keeps_foldl_snd
    | with_reducible apply keeps_foldl
    | split
    | dsimp -zeta only
    | with_reducible refine keeps_of_eq (by with_reducible assumption) ?_
    | with_reducible refine keeps_of_eq3 (by with_reducible assumption) ?_
    | dsimp only

theorem keeps_storeBlock {F : Kind → Prop} [May F .free] [May F .regs] [May F .queues] [May F .hosts] [May F .banks] [May F .raised] {r s : State} {x0 x1 x2 x3 : _} (h : Keeps F r s) : Keeps F r (storeBlock x0 x1 x2 x3 s).2 := by
  show KeepsP F r _
  unfold storeBlock
  repeat' first
    | with_reducible assumption
    | intro _
    | with_reducible apply keepsP_mk
    | with_reducible apply keepsP_ite
    | with_reducible apply keeps_ite
    | with_reducible apply keeps_tailDrop
    | with_reducible apply keeps_grantBed
    | with_reducible apply keeps_appendTx
    | with_reducible apply keeps_ite_snd
    | with_reducible apply keeps_foldl_snd
    | with_reducible apply keeps_foldl
    | split
    | dsimp -zeta only
    | with_reducible refine keeps_of_eq (by with_reducible assumption) ?_
    | with_reducible refine keeps_of_eq3 (by with_reducible assumption) ?_
    | dsimp only

theorem keeps_formGroup {F : Kind → Prop} [May F .free] [May F .regs] [May F .queues] [May F .hosts] [May F .banks] [May F .raised] {r s : State} {x0 x1 x2 x3 : _} (h : Keeps F r s) : Keeps F r (formGroup x0 x1 x2 x3 s).2 := by
  show KeepsP F r _
  unfold formGroup
  repeat' first
    | with_reducible assumption
    | intro _
    | with_reducible apply keepsP_mk
    | with_reducible apply keepsP_ite
    | with_reducible apply keeps_ite
    | with_reducible apply keeps_modQueue
    | with_reducible apply keeps_modHost
    | with_reducible apply keeps_endOpen
    | with_reducible apply keeps_admitBlock
    | with_reducible apply keeps_storeBlock
    | with_reducible apply keeps_ite_snd
    | with_reducible apply keeps_foldl_snd
    | with_reducible apply keeps_foldl
    | split
    | dsimp -zeta only
    | with_reducible refine keeps_of_eq (by with_reducible assumption) ?_
    | with_reducible refine keeps_of_eq3 (by with_reducible assumption) ?_
    | dsimp only

theorem keeps_dropRest {F : Kind → Prop} [May F .hosts] {r s : State} {x0 : _} (h : Keeps F r s) : Keeps F r (dropRest x0 s) := by
  unfold dropRest
  repeat' first
    | with_reducible assumption
    | intro _
    | with_reducible apply keeps_ite
    | with_reducible apply keeps_modHost
    | with_reducible apply keeps_ite_snd
    | with_reducible apply keeps_foldl_snd
    | with_reducible apply keeps_foldl
    | split
    | dsimp -zeta only
    | with_reducible refine keeps_of_eq (by with_reducible assumption) ?_
    | with_reducible refine keeps_of_eq3 (by with_reducible assumption) ?_
    | dsimp only

theorem keeps_drainStage {F : Kind → Prop} [May F .free] [May F .regs] [May F .queues] [May F .hosts] [May F .banks] [May F .raised] {r s : State} {n : Port} {fuel : Nat} (h : Keeps F r s) : Keeps F r (drainStage n fuel s) := by
  induction fuel generalizing s with
  | zero => exact h
  | succ k ih =>
    unfold drainStage
    repeat' first
      | with_reducible apply ih
      | with_reducible assumption
      | intro _
      | with_reducible apply keeps_ite
      | with_reducible apply keeps_noSlot
      | with_reducible apply keeps_formGroup
      | with_reducible apply keeps_modHost
      | with_reducible apply keeps_dropRest
      | with_reducible apply keeps_ite_snd
      | with_reducible apply keeps_foldl_snd
      | with_reducible apply keeps_foldl
      | split
      | dsimp -zeta only
      | with_reducible refine keeps_of_eq (by with_reducible assumption) ?_
      | with_reducible refine keeps_of_eq3 (by with_reducible assumption) ?_
      | dsimp only

theorem keeps_formBlock {F : Kind → Prop} [May F .free] [May F .regs] [May F .queues] [May F .hosts] [May F .banks] [May F .raised] {r s : State} {x0 x1 x2 : _} (h : Keeps F r s) : Keeps F r (formBlock x0 x1 x2 s) := by
  unfold formBlock
  repeat' first
    | with_reducible assumption
    | intro _
    | with_reducible apply keeps_ite
    | with_reducible apply keeps_modHost
    | with_reducible apply keeps_noSlot
    | with_reducible apply keeps_formGroup
    | with_reducible apply keeps_dropRest
    | with_reducible apply keeps_tailDrop
    | with_reducible apply keeps_ite_snd
    | with_reducible apply keeps_foldl_snd
    | with_reducible apply keeps_foldl
    | split
    | dsimp -zeta only
    | with_reducible refine keeps_of_eq (by with_reducible assumption) ?_
    | with_reducible refine keeps_of_eq3 (by with_reducible assumption) ?_
    | dsimp only

theorem keeps_pushBlock {F : Kind → Prop} [May F .free] [May F .regs] [May F .queues] [May F .hosts] [May F .banks] [May F .raised] {r s : State} {x0 x1 x2 x3 : _} (h : Keeps F r s) : Keeps F r (pushBlock x0 x1 x2 x3 s) := by
  unfold pushBlock
  repeat' first
    | with_reducible assumption
    | intro _
    | with_reducible apply keeps_ite
    | with_reducible apply keeps_modHost
    | with_reducible apply keeps_formBlock
    | with_reducible apply keeps_ite_snd
    | with_reducible apply keeps_foldl_snd
    | with_reducible apply keeps_foldl
    | split
    | dsimp -zeta only
    | with_reducible refine keeps_of_eq (by with_reducible assumption) ?_
    | with_reducible refine keeps_of_eq3 (by with_reducible assumption) ?_
    | dsimp only

theorem keeps_closeWithError {F : Kind → Prop} [May F .free] [May F .regs] [May F .queues] [May F .hosts] [May F .banks] [May F .raised] {r s : State} {x0 x1 : _} (h : Keeps F r s) : Keeps F r (closeWithError x0 x1 s) := by
  unfold closeWithError
  repeat' first
    | with_reducible assumption
    | intro _
    | with_reducible apply keeps_ite
    | with_reducible apply keeps_pushBlock
    | with_reducible apply keeps_ite_snd
    | with_reducible apply keeps_foldl_snd
    | with_reducible apply keeps_foldl
    | split
    | dsimp -zeta only
    | with_reducible refine keeps_of_eq (by with_reducible assumption) ?_
    | with_reducible refine keeps_of_eq3 (by with_reducible assumption) ?_
    | dsimp only

theorem keeps_queueOrdered {F : Kind → Prop} [May F .free] [May F .regs] [May F .queues] [May F .banks] [May F .raised] {r s : State} {x0 x1 x2 : _} (h : Keeps F r s) : Keeps F r (queueOrdered x0 x1 x2 s) := by
  unfold queueOrdered
  repeat' first
    | with_reducible assumption
    | intro _
    | with_reducible apply keeps_ite
    | with_reducible apply keeps_takeBed
    | with_reducible apply keeps_modQueue
    | with_reducible apply keeps_inc
    | with_reducible apply keeps_forEach
    | with_reducible apply keeps_ite_snd
    | with_reducible apply keeps_foldl_snd
    | with_reducible apply keeps_foldl
    | split
    | dsimp -zeta only
    | with_reducible refine keeps_of_eq (by with_reducible assumption) ?_
    | with_reducible refine keeps_of_eq3 (by with_reducible assumption) ?_
    | dsimp only

theorem keeps_cutFrame {F : Kind → Prop} [May F .free] [May F .regs] [May F .queues] [May F .hosts] [May F .banks] [May F .raised] {r s : State} {x0 x1 x2 : _} (h : Keeps F r s) : Keeps F r (cutFrame x0 x1 x2 s) := by
  unfold cutFrame
  repeat' first
    | with_reducible assumption
    | intro _
    | with_reducible apply keeps_ite
    | with_reducible apply keeps_modHost
    | with_reducible apply keeps_inc
    | with_reducible apply keeps_closeWithError
    | with_reducible apply keeps_ite_snd
    | with_reducible apply keeps_foldl_snd
    | with_reducible apply keeps_foldl
    | split
    | dsimp -zeta only
    | with_reducible refine keeps_of_eq (by with_reducible assumption) ?_
    | with_reducible refine keeps_of_eq3 (by with_reducible assumption) ?_
    | dsimp only

theorem keeps_ingressBlock {F : Kind → Prop} [May F .free] [May F .regs] [May F .queues] [May F .hosts] [May F .banks] [May F .raised] {r s : State} {x0 x1 x2 : _} (h : Keeps F r s) : Keeps F r (ingressBlock x0 x1 x2 s) := by
  unfold ingressBlock
  repeat' first
    | with_reducible assumption
    | intro _
    | with_reducible apply keeps_ite
    | with_reducible apply keeps_inc
    | with_reducible apply keeps_closeWithError
    | with_reducible apply keeps_modHost
    | with_reducible apply keeps_pushBlock
    | with_reducible apply keeps_cutFrame
    | with_reducible apply keeps_queueOrdered
    | with_reducible apply keeps_ite_snd
    | with_reducible apply keeps_foldl_snd
    | with_reducible apply keeps_foldl
    | split
    | dsimp -zeta only
    | with_reducible refine keeps_of_eq (by with_reducible assumption) ?_
    | with_reducible refine keeps_of_eq3 (by with_reducible assumption) ?_
    | dsimp only

theorem keeps_refuseCodeword {F : Kind → Prop} [May F .regs] {r s : State} {x0 x1 x2 : _} (h : Keeps F r s) : Keeps F r (refuseCodeword x0 x1 x2 s).2 := by
  show KeepsP F r _
  unfold refuseCodeword
  repeat' first
    | with_reducible assumption
    | intro _
    | with_reducible apply keepsP_mk
    | with_reducible apply keepsP_ite
    | with_reducible apply keeps_ite
    | with_reducible apply keeps_inc
    | with_reducible apply keeps_ite_snd
    | with_reducible apply keeps_foldl_snd
    | with_reducible apply keeps_foldl
    | split
    | dsimp -zeta only
    | with_reducible refine keeps_of_eq (by with_reducible assumption) ?_
    | with_reducible refine keeps_of_eq3 (by with_reducible assumption) ?_
    | dsimp only

theorem keeps_admitCodeword {F : Kind → Prop} [May F .free] [May F .regs] [May F .queues] [May F .banks] [May F .raised] {r s : State} {x0 x1 x2 : _} (h : Keeps F r s) : Keeps F r (admitCodeword x0 x1 x2 s).2 := by
  show KeepsP F r _
  unfold admitCodeword
  repeat' first
    | with_reducible assumption
    | intro _
    | with_reducible apply keepsP_mk
    | with_reducible apply keepsP_ite
    | with_reducible apply keeps_ite
    | with_reducible apply keeps_refuseCodeword
    | with_reducible apply keeps_noSlot
    | with_reducible apply keeps_grantBed
    | with_reducible apply keeps_grantTo
    | with_reducible apply keeps_releaseBed
    | with_reducible apply keeps_modQueue
    | with_reducible apply keeps_noteLag
    | with_reducible apply keeps_inc64
    | with_reducible apply keeps_ite_snd
    | with_reducible apply keeps_foldl_snd
    | with_reducible apply keeps_foldl
    | split
    | dsimp -zeta only
    | with_reducible refine keeps_of_eq (by with_reducible assumption) ?_
    | with_reducible refine keeps_of_eq3 (by with_reducible assumption) ?_
    | dsimp only

theorem keeps_ingressCodeword {F : Kind → Prop} [May F .free] [May F .regs] [May F .queues] [May F .hosts] [May F .banks] [May F .raised] {r s : State} {x0 x1 x2 : _} (h : Keeps F r s) : Keeps F r (ingressCodeword x0 x1 x2 s) := by
  unfold ingressCodeword
  repeat' first
    | with_reducible assumption
    | intro _
    | with_reducible apply keeps_ite
    | with_reducible apply keeps_modHost
    | with_reducible apply keeps_admitCodeword
    | with_reducible apply keeps_pushPair
    | with_reducible apply keeps_ite_snd
    | with_reducible apply keeps_foldl_snd
    | with_reducible apply keeps_foldl
    | split
    | dsimp -zeta only
    | with_reducible refine keeps_of_eq (by with_reducible assumption) ?_
    | with_reducible refine keeps_of_eq3 (by with_reducible assumption) ?_
    | dsimp only

theorem keeps_takeBlock {F : Kind → Prop} [May F .regs] [May F .queues] [May F .banks] {r s : State} {x0 x1 : _} (h : Keeps F r s) : Keeps F r (takeBlock x0 x1 s).2 := by
  show KeepsP F r _
  unfold takeBlock
  repeat' first
    | with_reducible assumption
    | intro _
    | with_reducible apply keepsP_mk
    | with_reducible apply keepsP_ite
    | with_reducible apply keeps_ite
    | with_reducible apply keeps_releaseBeds
    | with_reducible apply keeps_setFrames
    | with_reducible apply keeps_ite_snd
    | with_reducible apply keeps_foldl_snd
    | with_reducible apply keeps_foldl
    | split
    | dsimp -zeta only
    | with_reducible refine keeps_of_eq (by with_reducible assumption) ?_
    | with_reducible refine keeps_of_eq3 (by with_reducible assumption) ?_
    | dsimp only

theorem keeps_takeBlocks {F : Kind → Prop} [May F .regs] [May F .queues] [May F .banks] {r s : State} {l : LinkId} {d : Dir} {k : Nat} (h : Keeps F r s) : Keeps F r (takeBlocks l d k s).2 := by
  induction k generalizing s with
  | zero => exact h
  | succ k ih =>
    unfold takeBlocks
    split
    · exact keeps_of_eq (by assumption) (keeps_takeBlock h)
    · exact ih (keeps_of_eq (by assumption) (keeps_takeBlock h))

theorem keeps_closeRx {F : Kind → Prop} [May F .queues] {r s : State} {x0 : _} (h : Keeps F r s) : Keeps F r (closeRx x0 s) := by
  unfold closeRx
  repeat' first
    | with_reducible assumption
    | intro _
    | with_reducible apply keeps_ite
    | with_reducible apply keeps_modQueue
    | with_reducible apply keeps_ite_snd
    | with_reducible apply keeps_foldl_snd
    | with_reducible apply keeps_foldl
    | split
    | dsimp -zeta only
    | with_reducible refine keeps_of_eq (by with_reducible assumption) ?_
    | with_reducible refine keeps_of_eq3 (by with_reducible assumption) ?_
    | dsimp only

theorem keeps_breakRx {F : Kind → Prop} [May F .queues] {r s : State} {x0 : _} (h : Keeps F r s) : Keeps F r (breakRx x0 s) := by
  unfold breakRx
  repeat' first
    | with_reducible assumption
    | intro _
    | with_reducible apply keeps_ite
    | with_reducible apply keeps_closeRx
    | with_reducible apply keeps_modQueue
    | with_reducible apply keeps_ite_snd
    | with_reducible apply keeps_foldl_snd
    | with_reducible apply keeps_foldl
    | split
    | dsimp -zeta only
    | with_reducible refine keeps_of_eq (by with_reducible assumption) ?_
    | with_reducible refine keeps_of_eq3 (by with_reducible assumption) ?_
    | dsimp only

theorem keeps_receiveBlock {F : Kind → Prop} [May F .free] [May F .regs] [May F .queues] [May F .hosts] [May F .banks] [May F .raised] {r s : State} {x0 x1 x2 : _} (h : Keeps F r s) : Keeps F r (receiveBlock x0 x1 x2 s) := by
  unfold receiveBlock
  repeat' first
    | with_reducible assumption
    | intro _
    | with_reducible apply keeps_ite
    | with_reducible apply keeps_modQueue
    | with_reducible apply keeps_closeRx
    | with_reducible apply keeps_setFrames
    | with_reducible apply keeps_takeBed
    | with_reducible apply keeps_grantBed
    | with_reducible apply keeps_tailDrop
    | with_reducible apply keeps_ite_snd
    | with_reducible apply keeps_foldl_snd
    | with_reducible apply keeps_foldl
    | split
    | dsimp -zeta only
    | with_reducible refine keeps_of_eq (by with_reducible assumption) ?_
    | with_reducible refine keeps_of_eq3 (by with_reducible assumption) ?_
    | dsimp only

theorem keeps_receiveBlocks {F : Kind → Prop} [May F .free] [May F .regs] [May F .queues] [May F .hosts] [May F .banks] [May F .raised] {r s : State} {x0 x1 x2 : _} (h : Keeps F r s) : Keeps F r (receiveBlocks x0 x1 x2 s) := by
  unfold receiveBlocks
  repeat' first
    | with_reducible assumption
    | intro _
    | with_reducible apply keeps_ite
    | with_reducible apply keeps_showBeds
    | with_reducible apply keeps_receiveBlock
    | with_reducible apply keeps_forEach
    | with_reducible apply keeps_ite_snd
    | with_reducible apply keeps_foldl_snd
    | with_reducible apply keeps_foldl
    | split
    | dsimp -zeta only
    | with_reducible refine keeps_of_eq (by with_reducible assumption) ?_
    | with_reducible refine keeps_of_eq3 (by with_reducible assumption) ?_
    | dsimp only

end Sys2Proof.Machine
end

