-- ==== Sys2Proof/Laws/KeepsLinkOps.lean ====
section
/-! SUPPORT. What the operations of Machine/LinkOps.lean keep. -/
set_option linter.unusedTactic false
set_option linter.unreachableTactic false
set_option linter.tactic.unusedName false
namespace Sys2Proof.Machine

theorem keeps_showChanges {F : Kind → Prop} [May F .regs] {r s : State} {x0 : _} (h : Keeps F r s) : Keeps F r (showChanges x0 s) := by
  unfold showChanges
  repeat' first
    | with_reducible assumption
    | intro _
    | with_reducible apply keeps_ite
    | with_reducible apply keeps_setFld
    | with_reducible apply keeps_setReg
    | with_reducible apply keeps_forEach
    | with_reducible apply keeps_ite_snd
    | with_reducible apply keeps_foldl_snd
    | with_reducible apply keeps_foldl
    | split
    | dsimp -zeta only
    | with_reducible refine keeps_of_eq (by with_reducible assumption) ?_
    | with_reducible refine keeps_of_eq3 (by with_reducible assumption) ?_
    | dsimp only

theorem keeps_stateChange {F : Kind → Prop} [May F .regs] {r s : State} {x0 x1 x2 : _} (h : Keeps F r s) : Keeps F r (stateChange x0 x1 x2 s) := by
  unfold stateChange
  repeat' first
    | with_reducible assumption
    | intro _
    | with_reducible apply keeps_ite
    | with_reducible apply keeps_setFld
    | with_reducible apply keeps_ite_snd
    | with_reducible apply keeps_foldl_snd
    | with_reducible apply keeps_foldl
    | split
    | dsimp -zeta only
    | with_reducible refine keeps_of_eq (by with_reducible assumption) ?_
    | with_reducible refine keeps_of_eq3 (by with_reducible assumption) ?_
    | dsimp only

theorem keeps_showPort {F : Kind → Prop} [May F .regs] {r s : State} {x0 : _} (h : Keeps F r s) : Keeps F r (showPort x0 s) := by
  unfold showPort
  repeat' first
    | with_reducible assumption
    | intro _
    | with_reducible apply keeps_ite
    | with_reducible apply keeps_stateChange
    | with_reducible apply keeps_setReg
    | with_reducible apply keeps_setFld
    | with_reducible apply keeps_ite_snd
    | with_reducible apply keeps_foldl_snd
    | with_reducible apply keeps_foldl
    | split
    | dsimp -zeta only
    | with_reducible refine keeps_of_eq (by with_reducible assumption) ?_
    | with_reducible refine keeps_of_eq3 (by with_reducible assumption) ?_
    | dsimp only

theorem keeps_showSub {F : Kind → Prop} [May F .regs] {r s : State} {x0 x1 : _} (h : Keeps F r s) : Keeps F r (showSub x0 x1 s) := by
  unfold showSub
  repeat' first
    | with_reducible assumption
    | intro _
    | with_reducible apply keeps_ite
    | with_reducible apply keeps_setReg
    | with_reducible apply keeps_stateChange
    | with_reducible apply keeps_setFld
    | with_reducible apply keeps_ite_snd
    | with_reducible apply keeps_foldl_snd
    | with_reducible apply keeps_foldl
    | split
    | dsimp -zeta only
    | with_reducible refine keeps_of_eq (by with_reducible assumption) ?_
    | with_reducible refine keeps_of_eq3 (by with_reducible assumption) ?_
    | dsimp only

theorem keeps_showLink {F : Kind → Prop} [May F .regs] [May F .raised] {r s : State} {x0 : _} (h : Keeps F r s) : Keeps F r (showLink x0 s) := by
  unfold showLink
  repeat' first
    | with_reducible assumption
    | intro _
    | with_reducible apply keeps_ite
    | with_reducible apply keeps_showPort
    | with_reducible apply keeps_showSub
    | with_reducible apply keeps_refreshModes
    | with_reducible apply keeps_showChanges
    | with_reducible apply keeps_ite_snd
    | with_reducible apply keeps_foldl_snd
    | with_reducible apply keeps_foldl
    | split
    | dsimp -zeta only
    | with_reducible refine keeps_of_eq (by with_reducible assumption) ?_
    | with_reducible refine keeps_of_eq3 (by with_reducible assumption) ?_
    | dsimp only

theorem keeps_sendPort {F : Kind → Prop} [May F .links] {r s : State} {x0 x1 x2 x3 : _} (h : Keeps F r s) : Keeps F r (sendPort x0 x1 x2 x3 s) := by
  unfold sendPort
  repeat' first
    | with_reducible assumption
    | intro _
    | with_reducible apply keeps_ite
    | with_reducible apply keeps_modLink
    | with_reducible apply keeps_ite_snd
    | with_reducible apply keeps_foldl_snd
    | with_reducible apply keeps_foldl
    | split
    | dsimp -zeta only
    | with_reducible refine keeps_of_eq (by with_reducible assumption) ?_
    | with_reducible refine keeps_of_eq3 (by with_reducible assumption) ?_
    | dsimp only

theorem keeps_sendPair {F : Kind → Prop} [May F .pairs] {r s : State} {x0 x1 x2 x3 x4 : _} (h : Keeps F r s) : Keeps F r (sendPair x0 x1 x2 x3 x4 s) := by
  unfold sendPair
  repeat' first
    | with_reducible assumption
    | intro _
    | with_reducible apply keeps_ite
    | with_reducible apply keeps_modPair
    | with_reducible apply keeps_ite_snd
    | with_reducible apply keeps_foldl_snd
    | with_reducible apply keeps_foldl
    | split
    | dsimp -zeta only
    | with_reducible refine keeps_of_eq (by with_reducible assumption) ?_
    | with_reducible refine keeps_of_eq3 (by with_reducible assumption) ?_
    | dsimp only

theorem keeps_agree {F : Kind → Prop} [May F .links] {r s : State} {x0 x1 x2 : _} (h : Keeps F r s) : Keeps F r (agree x0 x1 x2 s) := by
  unfold agree
  repeat' first
    | with_reducible assumption
    | intro _
    | with_reducible apply keeps_ite
    | with_reducible apply keeps_modLink
    | with_reducible apply keeps_ite_snd
    | with_reducible apply keeps_foldl_snd
    | with_reducible apply keeps_foldl
    | split
    | dsimp -zeta only
    | with_reducible refine keeps_of_eq (by with_reducible assumption) ?_
    | with_reducible refine keeps_of_eq3 (by with_reducible assumption) ?_
    | dsimp only

theorem keeps_dropChange {F : Kind → Prop} [May F .links] {r s : State} {x0 x1 : _} (h : Keeps F r s) : Keeps F r (dropChange x0 x1 s) := by
  unfold dropChange
  repeat' first
    | with_reducible assumption
    | intro _
    | with_reducible apply keeps_ite
    | with_reducible apply keeps_modLink
    | with_reducible apply keeps_ite_snd
    | with_reducible apply keeps_foldl_snd
    | with_reducible apply keeps_foldl
    | split
    | dsimp -zeta only
    | with_reducible refine keeps_of_eq (by with_reducible assumption) ?_
    | with_reducible refine keeps_of_eq3 (by with_reducible assumption) ?_
    | dsimp only

theorem keeps_endSwap {F : Kind → Prop} [May F .regs] [May F .pairs] {r s : State} {x0 x1 : _} (h : Keeps F r s) : Keeps F r (endSwap x0 x1 s) := by
  unfold endSwap
  repeat' first
    | with_reducible assumption
    | intro _
    | with_reducible apply keeps_ite
    | with_reducible apply keeps_setFld
    | with_reducible apply keeps_modPair
    | with_reducible apply keeps_ite_snd
    | with_reducible apply keeps_foldl_snd
    | with_reducible apply keeps_foldl
    | split
    | dsimp -zeta only
    | with_reducible refine keeps_of_eq (by with_reducible assumption) ?_
    | with_reducible refine keeps_of_eq3 (by with_reducible assumption) ?_
    | dsimp only

theorem keeps_dropRxSwap {F : Kind → Prop} [May F .regs] [May F .pairs] {r s : State} {x0 x1 : _} (h : Keeps F r s) : Keeps F r (dropRxSwap x0 x1 s) := by
  unfold dropRxSwap
  repeat' first
    | with_reducible assumption
    | intro _
    | with_reducible apply keeps_ite
    | with_reducible apply keeps_endSwap
    | with_reducible apply keeps_modPair
    | with_reducible apply keeps_ite_snd
    | with_reducible apply keeps_foldl_snd
    | with_reducible apply keeps_foldl
    | split
    | dsimp -zeta only
    | with_reducible refine keeps_of_eq (by with_reducible assumption) ?_
    | with_reducible refine keeps_of_eq3 (by with_reducible assumption) ?_
    | dsimp only

theorem keeps_reloadTxShadow {F : Kind → Prop} [May F .pairs] {r s : State} {x0 x1 : _} (h : Keeps F r s) : Keeps F r (reloadTxShadow x0 x1 s) := by
  unfold reloadTxShadow
  repeat' first
    | with_reducible assumption
    | intro _
    | with_reducible apply keeps_ite
    | with_reducible apply keeps_modPair
    | with_reducible apply keeps_ite_snd
    | with_reducible apply keeps_foldl_snd
    | with_reducible apply keeps_foldl
    | split
    | dsimp -zeta only
    | with_reducible refine keeps_of_eq (by with_reducible assumption) ?_
    | with_reducible refine keeps_of_eq3 (by with_reducible assumption) ?_
    | dsimp only

theorem keeps_endRate {F : Kind → Prop} [May F .links] {r s : State} {x0 : _} (h : Keeps F r s) : Keeps F r (endRate x0 s) := by
  unfold endRate
  repeat' first
    | with_reducible assumption
    | intro _
    | with_reducible apply keeps_ite
    | with_reducible apply keeps_modLink
    | with_reducible apply keeps_ite_snd
    | with_reducible apply keeps_foldl_snd
    | with_reducible apply keeps_foldl
    | split
    | dsimp -zeta only
    | with_reducible refine keeps_of_eq (by with_reducible assumption) ?_
    | with_reducible refine keeps_of_eq3 (by with_reducible assumption) ?_
    | dsimp only

theorem keeps_dropRxTables {F : Kind → Prop} [May F .regs] [May F .pairs] [May F .links] {r s : State} {x0 : _} (h : Keeps F r s) : Keeps F r (dropRxTables x0 s) := by
  unfold dropRxTables
  repeat' first
    | with_reducible assumption
    | intro _
    | with_reducible apply keeps_ite
    | with_reducible apply keeps_modLink
    | with_reducible apply keeps_endRate
    | with_reducible apply keeps_dropRxSwap
    | with_reducible apply keeps_forEach
    | with_reducible apply keeps_ite_snd
    | with_reducible apply keeps_foldl_snd
    | with_reducible apply keeps_foldl
    | split
    | dsimp -zeta only
    | with_reducible refine keeps_of_eq (by with_reducible assumption) ?_
    | with_reducible refine keeps_of_eq3 (by with_reducible assumption) ?_
    | dsimp only

theorem keeps_dropTxTables {F : Kind → Prop} [May F .pairs] {r s : State} {x0 : _} (h : Keeps F r s) : Keeps F r (dropTxTables x0 s) := by
  unfold dropTxTables
  repeat' first
    | with_reducible assumption
    | intro _
    | with_reducible apply keeps_ite
    | with_reducible apply keeps_reloadTxShadow
    | with_reducible apply keeps_forEach
    | with_reducible apply keeps_ite_snd
    | with_reducible apply keeps_foldl_snd
    | with_reducible apply keeps_foldl
    | split
    | dsimp -zeta only
    | with_reducible refine keeps_of_eq (by with_reducible assumption) ?_
    | with_reducible refine keeps_of_eq3 (by with_reducible assumption) ?_
    | dsimp only

theorem keeps_endExchange {F : Kind → Prop} [May F .regs] [May F .pairs] [May F .links] {r s : State} {x0 : _} (h : Keeps F r s) : Keeps F r (endExchange x0 s) := by
  unfold endExchange
  repeat' first
    | with_reducible assumption
    | intro _
    | with_reducible apply keeps_ite
    | with_reducible apply keeps_dropTxTables
    | with_reducible apply keeps_dropRxTables
    | with_reducible apply keeps_ite_snd
    | with_reducible apply keeps_foldl_snd
    | with_reducible apply keeps_foldl
    | split
    | dsimp -zeta only
    | with_reducible refine keeps_of_eq (by with_reducible assumption) ?_
    | with_reducible refine keeps_of_eq3 (by with_reducible assumption) ?_
    | dsimp only

theorem keeps_cancelChange {F : Kind → Prop} [May F .regs] [May F .pairs] [May F .links] [May F .queues] {r s : State} {x0 x1 : _} (h : Keeps F r s) : Keeps F r (cancelChange x0 x1 s) := by
  unfold cancelChange
  repeat' first
    | with_reducible assumption
    | intro _
    | with_reducible apply keeps_ite
    | with_reducible apply keeps_capCancel
    | with_reducible apply keeps_dropChange
    | with_reducible apply keeps_endExchange
    | with_reducible apply keeps_reloadTxShadow
    | with_reducible apply keeps_dropRxSwap
    | with_reducible apply keeps_dropTxTables
    | with_reducible apply keeps_dropRxTables
    | with_reducible apply keeps_modLink
    | with_reducible apply keeps_ite_snd
    | with_reducible apply keeps_foldl_snd
    | with_reducible apply keeps_foldl
    | split
    | dsimp -zeta only
    | with_reducible refine keeps_of_eq (by with_reducible assumption) ?_
    | with_reducible refine keeps_of_eq3 (by with_reducible assumption) ?_
    | dsimp only

theorem keeps_cancelProposal {F : Kind → Prop} [May F .regs] [May F .pairs] [May F .links] {r s : State} {x0 x1 : _} (h : Keeps F r s) : Keeps F r (cancelProposal x0 x1 s) := by
  unfold cancelProposal
  repeat' first
    | with_reducible assumption
    | intro _
    | with_reducible apply keeps_ite
    | with_reducible apply keeps_modLink
    | with_reducible apply keeps_dropRxSwap
    | with_reducible apply keeps_dropRxTables
    | with_reducible apply keeps_endExchange
    | with_reducible apply keeps_ite_snd
    | with_reducible apply keeps_foldl_snd
    | with_reducible apply keeps_foldl
    | split
    | dsimp -zeta only
    | with_reducible refine keeps_of_eq (by with_reducible assumption) ?_
    | with_reducible refine keeps_of_eq3 (by with_reducible assumption) ?_
    | dsimp only

theorem keeps_cancelFrom {F : Kind → Prop} [May F .regs] [May F .pairs] [May F .links] [May F .queues] {r s : State} {x0 x1 x2 : _} (h : Keeps F r s) : Keeps F r (cancelFrom x0 x1 x2 s) := by
  unfold cancelFrom
  repeat' first
    | with_reducible assumption
    | intro _
    | with_reducible apply keeps_ite
    | with_reducible apply keeps_cancelProposal
    | with_reducible apply keeps_cancelChange
    | with_reducible apply keeps_forEach
    | with_reducible apply keeps_ite_snd
    | with_reducible apply keeps_foldl_snd
    | with_reducible apply keeps_foldl
    | split
    | dsimp -zeta only
    | with_reducible refine keeps_of_eq (by with_reducible assumption) ?_
    | with_reducible refine keeps_of_eq3 (by with_reducible assumption) ?_
    | dsimp only

theorem keeps_settleLocal {F : Kind → Prop} [May F .regs] [May F .ports] {r s : State} {x0 : _} (h : Keeps F r s) : Keeps F r (settleLocal x0 s) := by
  unfold settleLocal
  repeat' first
    | with_reducible assumption
    | intro _
    | with_reducible apply keeps_ite
    | with_reducible apply keeps_modPort
    | with_reducible apply keeps_setFld
    | with_reducible apply keeps_ite_snd
    | with_reducible apply keeps_foldl_snd
    | with_reducible apply keeps_foldl
    | split
    | dsimp -zeta only
    | with_reducible refine keeps_of_eq (by with_reducible assumption) ?_
    | with_reducible refine keeps_of_eq3 (by with_reducible assumption) ?_
    | dsimp only

theorem keeps_clearStream {F : Kind → Prop} [May F .queues] {r s : State} {x0 : _} (h : Keeps F r s) : Keeps F r (clearStream x0 s) := by
  unfold clearStream
  repeat' first
    | with_reducible assumption
    | intro _
    | with_reducible apply keeps_ite
    | with_reducible apply keeps_modQueue
    | with_reducible apply keeps_ite_snd
    | with_reducible apply keeps_foldl_snd
    | with_reducible apply keeps_foldl
    | split
    | dsimp -zeta only
    | with_reducible refine keeps_of_eq (by with_reducible assumption) ?_
    | with_reducible refine keeps_of_eq3 (by with_reducible assumption) ?_
    | dsimp only

theorem keeps_dropSubPattern {F : Kind → Prop} [May F .regs] [May F .ports] {r s : State} {x0 : _} (h : Keeps F r s) : Keeps F r (dropSubPattern x0 s) := by
  unfold dropSubPattern
  repeat' first
    | with_reducible assumption
    | intro _
    | with_reducible apply keeps_ite
    | with_reducible apply keeps_modPort
    | with_reducible apply keeps_setFld
    | with_reducible apply keeps_ite_snd
    | with_reducible apply keeps_foldl_snd
    | with_reducible apply keeps_foldl
    | split
    | dsimp -zeta only
    | with_reducible refine keeps_of_eq (by with_reducible assumption) ?_
    | with_reducible refine keeps_of_eq3 (by with_reducible assumption) ?_
    | dsimp only

theorem keeps_clearLink {F : Kind → Prop} [May F .regs] [May F .ports] [May F .pairs] [May F .links] [May F .queues] [May F .banks] {r s : State} {x0 : _} (h : Keeps F r s) : Keeps F r (clearLink x0 s) := by
  unfold clearLink
  repeat' first
    | with_reducible assumption
    | intro _
    | with_reducible apply keeps_ite
    | with_reducible apply keeps_modLink
    | with_reducible apply keeps_setFld
    | with_reducible apply keeps_modPair
    | with_reducible apply keeps_endSwap
    | with_reducible apply keeps_dropSubPattern
    | with_reducible apply keeps_settleLocal
    | with_reducible apply keeps_clearStream
    | with_reducible apply keeps_clearCodewords
    | with_reducible apply keeps_breakRx
    | with_reducible apply keeps_forEach
    | with_reducible apply keeps_ite_snd
    | with_reducible apply keeps_foldl_snd
    | with_reducible apply keeps_foldl
    | split
    | dsimp -zeta only
    | with_reducible refine keeps_of_eq (by with_reducible assumption) ?_
    | with_reducible refine keeps_of_eq3 (by with_reducible assumption) ?_
    | dsimp only

theorem keeps_drawIdentity {F : Kind → Prop} [May F .free] {r s : State} (h : Keeps F r s) : Keeps F r (drawIdentity s).2 := by
  show KeepsP F r _
  unfold drawIdentity
  repeat' first
    | with_reducible assumption
    | intro _
    | with_reducible apply keepsP_mk
    | with_reducible apply keepsP_ite
    | with_reducible apply keeps_ite
    | with_reducible apply keeps_random
    | with_reducible apply keeps_ite_snd
    | with_reducible apply keeps_foldl_snd
    | with_reducible apply keeps_foldl
    | split
    | dsimp -zeta only
    | with_reducible refine keeps_of_eq (by with_reducible assumption) ?_
    | with_reducible refine keeps_of_eq3 (by with_reducible assumption) ?_
    | dsimp only

theorem keeps_drawSlots {F : Kind → Prop} [May F .free] [May F .links] {r s : State} {x0 : _} (h : Keeps F r s) : Keeps F r (drawSlots x0 s) := by
  unfold drawSlots
  repeat' first
    | with_reducible assumption
    | intro _
    | with_reducible apply keeps_ite
    | with_reducible apply keeps_random
    | with_reducible apply keeps_modLink
    | with_reducible apply keeps_ite_snd
    | with_reducible apply keeps_foldl_snd
    | with_reducible apply keeps_foldl
    | split
    | dsimp -zeta only
    | with_reducible refine keeps_of_eq (by with_reducible assumption) ?_
    | with_reducible refine keeps_of_eq3 (by with_reducible assumption) ?_
    | dsimp only

theorem keeps_enterG0One {F : Kind → Prop} [May F .free] [May F .regs] [May F .pairs] [May F .links] [May F .queues] [May F .banks] [May F .tiles] [May F .diags] [May F .completions] [May F .claims] [May F .waiting] [May F .later] [May F .tests] [May F .raised] {r s : State} {x0 : _} (h : Keeps F r s) : Keeps F r (enterG0One x0 s) := by
  unfold enterG0One
  repeat' first
    | with_reducible assumption
    | intro _
    | with_reducible apply keeps_ite
    | with_reducible apply keeps_drawIdentity
    | with_reducible apply keeps_modLink
    | with_reducible apply keeps_setFld
    | with_reducible apply keeps_modPair
    | with_reducible apply keeps_sideStartup
    | with_reducible apply keeps_flushTx
    | with_reducible apply keeps_drawSlots
    | with_reducible apply keeps_forEach
    | with_reducible apply keeps_ite_snd
    | with_reducible apply keeps_foldl_snd
    | with_reducible apply keeps_foldl
    | split
    | dsimp -zeta only
    | with_reducible refine keeps_of_eq (by with_reducible assumption) ?_
    | with_reducible refine keeps_of_eq3 (by with_reducible assumption) ?_
    | dsimp only

theorem keeps_enterG0 {F : Kind → Prop} [May F .free] [May F .regs] [May F .ports] [May F .pairs] [May F .links] [May F .queues] [May F .banks] [May F .tiles] [May F .diags] [May F .completions] [May F .claims] [May F .waiting] [May F .later] [May F .tests] [May F .raised] {r s : State} {x0 : _} (h : Keeps F r s) : Keeps F r (enterG0 x0 s) := by
  unfold enterG0
  repeat' first
    | with_reducible assumption
    | intro _
    | with_reducible apply keeps_ite
    | with_reducible apply keeps_enterG0One
    | with_reducible apply keeps_modLink
    | with_reducible apply keeps_showPort
    | with_reducible apply keeps_showSub
    | with_reducible apply keeps_clearLink
    | with_reducible apply keeps_setLink
    | with_reducible apply keeps_forEach
    | with_reducible apply keeps_ite_snd
    | with_reducible apply keeps_foldl_snd
    | with_reducible apply keeps_foldl
    | split
    | dsimp -zeta only
    | with_reducible refine keeps_of_eq (by with_reducible assumption) ?_
    | with_reducible refine keeps_of_eq3 (by with_reducible assumption) ?_
    | dsimp only

theorem keeps_askTier {F : Kind → Prop} [May F .links] {r s : State} {x0 : _} (h : Keeps F r s) : Keeps F r (askTier x0 s) := by
  unfold askTier
  repeat' first
    | with_reducible assumption
    | intro _
    | with_reducible apply keeps_ite
    | with_reducible apply keeps_modLink
    | with_reducible apply keeps_forEach
    | with_reducible apply keeps_ite_snd
    | with_reducible apply keeps_foldl_snd
    | with_reducible apply keeps_foldl
    | split
    | dsimp -zeta only
    | with_reducible refine keeps_of_eq (by with_reducible assumption) ?_
    | with_reducible refine keeps_of_eq3 (by with_reducible assumption) ?_
    | dsimp only

theorem keeps_enterHoldOff {F : Kind → Prop} [May F .free] [May F .links] {r s : State} {x0 : _} (h : Keeps F r s) : Keeps F r (enterHoldOff x0 s) := by
  unfold enterHoldOff
  repeat' first
    | with_reducible assumption
    | intro _
    | with_reducible apply keeps_ite
    | with_reducible apply keeps_drawSlots
    | with_reducible apply keeps_modLink
    | with_reducible apply keeps_ite_snd
    | with_reducible apply keeps_foldl_snd
    | with_reducible apply keeps_foldl
    | split
    | dsimp -zeta only
    | with_reducible refine keeps_of_eq (by with_reducible assumption) ?_
    | with_reducible refine keeps_of_eq3 (by with_reducible assumption) ?_
    | dsimp only

theorem keeps_linkDown {F : Kind → Prop} [May F .free] [May F .regs] [May F .ports] [May F .pairs] [May F .links] [May F .queues] [May F .banks] [May F .tiles] [May F .diags] [May F .completions] [May F .claims] [May F .waiting] [May F .later] [May F .tests] [May F .raised] {r s : State} {x0 x1 : _} (h : Keeps F r s) : Keeps F r (linkDown x0 x1 s) := by
  unfold linkDown
  repeat' first
    | with_reducible assumption
    | intro _
    | with_reducible apply keeps_ite
    | with_reducible apply keeps_expireRxCodewords
    | with_reducible apply keeps_expireCodewords
    | with_reducible apply keeps_clearLink
    | with_reducible apply keeps_modLink
    | with_reducible apply keeps_inc
    | with_reducible apply keeps_raise
    | with_reducible apply keeps_showBeds
    | with_reducible apply keeps_expireAll
    | with_reducible apply keeps_capNotice
    | with_reducible apply keeps_sideLinkDown
    | with_reducible apply keeps_enterG0
    | with_reducible apply keeps_flushTx
    | with_reducible apply keeps_enterHoldOff
    | with_reducible apply keeps_showRoute
    | with_reducible apply keeps_showLink
    | with_reducible apply keeps_ite_snd
    | with_reducible apply keeps_foldl_snd
    | with_reducible apply keeps_foldl
    | split
    | dsimp -zeta only
    | with_reducible refine keeps_of_eq (by with_reducible assumption) ?_
    | with_reducible refine keeps_of_eq3 (by with_reducible assumption) ?_
    | dsimp only

theorem keeps_disableLink {F : Kind → Prop} [May F .free] [May F .regs] [May F .ports] [May F .pairs] [May F .links] [May F .queues] [May F .banks] [May F .tiles] [May F .diags] [May F .completions] [May F .claims] [May F .waiting] [May F .later] [May F .tests] [May F .raised] {r s : State} {x0 : _} (h : Keeps F r s) : Keeps F r (disableLink x0 s) := by
  unfold disableLink
  repeat' first
    | with_reducible assumption
    | intro _
    | with_reducible apply keeps_ite
    | with_reducible apply keeps_linkDown
    | with_reducible apply keeps_showLink
    | with_reducible apply keeps_flushTx
    | with_reducible apply keeps_modLink
    | with_reducible apply keeps_clearLink
    | with_reducible apply keeps_ite_snd
    | with_reducible apply keeps_foldl_snd
    | with_reducible apply keeps_foldl
    | split
    | dsimp -zeta only
    | with_reducible refine keeps_of_eq (by with_reducible assumption) ?_
    | with_reducible refine keeps_of_eq3 (by with_reducible assumption) ?_
    | dsimp only

theorem keeps_startupFail {F : Kind → Prop} [May F .free] [May F .regs] [May F .ports] [May F .pairs] [May F .links] [May F .queues] [May F .banks] [May F .raised] {r s : State} {x0 x1 : _} (h : Keeps F r s) : Keeps F r (startupFail x0 x1 s) := by
  unfold startupFail
  repeat' first
    | with_reducible assumption
    | intro _
    | with_reducible apply keeps_ite
    | with_reducible apply keeps_clearLink
    | with_reducible apply keeps_inc
    | with_reducible apply keeps_raise
    | with_reducible apply keeps_modLink
    | with_reducible apply keeps_showLink
    | with_reducible apply keeps_enterHoldOff
    | with_reducible apply keeps_ite_snd
    | with_reducible apply keeps_foldl_snd
    | with_reducible apply keeps_foldl
    | split
    | dsimp -zeta only
    | with_reducible refine keeps_of_eq (by with_reducible assumption) ?_
    | with_reducible refine keeps_of_eq3 (by with_reducible assumption) ?_
    | dsimp only

theorem keeps_fastRetrainFail {F : Kind → Prop} [May F .free] [May F .regs] [May F .ports] [May F .pairs] [May F .links] [May F .queues] [May F .banks] [May F .tiles] [May F .diags] [May F .completions] [May F .claims] [May F .waiting] [May F .later] [May F .tests] [May F .raised] {r s : State} {x0 x1 : _} (h : Keeps F r s) : Keeps F r (fastRetrainFail x0 x1 s) := by
  unfold fastRetrainFail
  repeat' first
    | with_reducible assumption
    | intro _
    | with_reducible apply keeps_ite
    | with_reducible apply keeps_raise
    | with_reducible apply keeps_inc
    | with_reducible apply keeps_linkDown
    | with_reducible apply keeps_modLink
    | with_reducible apply keeps_ite_snd
    | with_reducible apply keeps_foldl_snd
    | with_reducible apply keeps_foldl
    | split
    | dsimp -zeta only
    | with_reducible refine keeps_of_eq (by with_reducible assumption) ?_
    | with_reducible refine keeps_of_eq3 (by with_reducible assumption) ?_
    | dsimp only

theorem keeps_phaseFail {F : Kind → Prop} [May F .free] [May F .regs] [May F .ports] [May F .pairs] [May F .links] [May F .queues] [May F .banks] [May F .tiles] [May F .diags] [May F .completions] [May F .claims] [May F .waiting] [May F .later] [May F .tests] [May F .raised] {r s : State} {x0 x1 : _} (h : Keeps F r s) : Keeps F r (phaseFail x0 x1 s) := by
  unfold phaseFail
  repeat' first
    | with_reducible assumption
    | intro _
    | with_reducible apply keeps_ite
    | with_reducible apply keeps_fastRetrainFail
    | with_reducible apply keeps_startupFail
    | with_reducible apply keeps_ite_snd
    | with_reducible apply keeps_foldl_snd
    | with_reducible apply keeps_foldl
    | split
    | dsimp -zeta only
    | with_reducible refine keeps_of_eq (by with_reducible assumption) ?_
    | with_reducible refine keeps_of_eq3 (by with_reducible assumption) ?_
    | dsimp only

theorem keeps_eeiBreak {F : Kind → Prop} [May F .regs] [May F .pairs] [May F .links] {r s : State} {x0 : _} (h : Keeps F r s) : Keeps F r (eeiBreak x0 s) := by
  unfold eeiBreak
  repeat' first
    | with_reducible assumption
    | intro _
    | with_reducible apply keeps_ite
    | with_reducible apply keeps_modLink
    | with_reducible apply keeps_modPair
    | with_reducible apply keeps_setFld
    | with_reducible apply keeps_forEach
    | with_reducible apply keeps_ite_snd
    | with_reducible apply keeps_foldl_snd
    | with_reducible apply keeps_foldl
    | split
    | dsimp -zeta only
    | with_reducible refine keeps_of_eq (by with_reducible assumption) ?_
    | with_reducible refine keeps_of_eq3 (by with_reducible assumption) ?_
    | dsimp only

theorem keeps_requestRetrain {F : Kind → Prop} [May F .regs] [May F .pairs] [May F .links] {r s : State} {x0 x1 : _} (h : Keeps F r s) : Keeps F r (requestRetrain x0 x1 s) := by
  unfold requestRetrain
  repeat' first
    | with_reducible assumption
    | intro _
    | with_reducible apply keeps_ite
    | with_reducible apply keeps_modLink
    | with_reducible apply keeps_eeiBreak
    | with_reducible apply keeps_agree
    | with_reducible apply keeps_sendPort
    | with_reducible apply keeps_ite_snd
    | with_reducible apply keeps_foldl_snd
    | with_reducible apply keeps_foldl
    | split
    | dsimp -zeta only
    | with_reducible refine keeps_of_eq (by with_reducible assumption) ?_
    | with_reducible refine keeps_of_eq3 (by with_reducible assumption) ?_
    | dsimp only

theorem keeps_requestForced {F : Kind → Prop} [May F .free] [May F .regs] [May F .ports] [May F .pairs] [May F .links] [May F .queues] [May F .banks] [May F .tiles] [May F .diags] [May F .completions] [May F .claims] [May F .waiting] [May F .later] [May F .tests] [May F .raised] {r s : State} {x0 x1 : _} (h : Keeps F r s) : Keeps F r (requestForced x0 x1 s) := by
  unfold requestForced
  repeat' first
    | with_reducible assumption
    | intro _
    | with_reducible apply keeps_ite
    | with_reducible apply keeps_fastRetrainFail
    | with_reducible apply keeps_agree
    | with_reducible apply keeps_sendPort
    | with_reducible apply keeps_requestRetrain
    | with_reducible apply keeps_ite_snd
    | with_reducible apply keeps_foldl_snd
    | with_reducible apply keeps_foldl
    | split
    | dsimp -zeta only
    | with_reducible refine keeps_of_eq (by with_reducible assumption) ?_
    | with_reducible refine keeps_of_eq3 (by with_reducible assumption) ?_
    | dsimp only

theorem keeps_deadFirst {F : Kind → Prop} [May F .links] {r s : State} {x0 : _} (h : Keeps F r s) : Keeps F r (deadFirst x0 s) := by
  unfold deadFirst
  repeat' first
    | with_reducible assumption
    | intro _
    | with_reducible apply keeps_ite
    | with_reducible apply keeps_modLink
    | with_reducible apply keeps_ite_snd
    | with_reducible apply keeps_foldl_snd
    | with_reducible apply keeps_foldl
    | split
    | dsimp -zeta only
    | with_reducible refine keeps_of_eq (by with_reducible assumption) ?_
    | with_reducible refine keeps_of_eq3 (by with_reducible assumption) ?_
    | dsimp only

theorem keeps_agreeFallback {F : Kind → Prop} [May F .regs] [May F .pairs] [May F .links] [May F .queues] {r s : State} {x0 x1 x2 x3 : _} (h : Keeps F r s) : Keeps F r (agreeFallback x0 x1 x2 x3 s) := by
  unfold agreeFallback
  repeat' first
    | with_reducible assumption
    | intro _
    | with_reducible apply keeps_ite
    | with_reducible apply keeps_eeiBreak
    | with_reducible apply keeps_cancelFrom
    | with_reducible apply keeps_capAgree
    | with_reducible apply keeps_agree
    | with_reducible apply keeps_ite_snd
    | with_reducible apply keeps_foldl_snd
    | with_reducible apply keeps_foldl
    | split
    | dsimp -zeta only
    | with_reducible refine keeps_of_eq (by with_reducible assumption) ?_
    | with_reducible refine keeps_of_eq3 (by with_reducible assumption) ?_
    | dsimp only

theorem keeps_pairFault {F : Kind → Prop} [May F .free] [May F .regs] [May F .ports] [May F .pairs] [May F .links] [May F .queues] [May F .banks] [May F .tiles] [May F .diags] [May F .completions] [May F .claims] [May F .waiting] [May F .later] [May F .tests] [May F .raised] {r s : State} {x0 x1 x2 : _} (h : Keeps F r s) : Keeps F r (pairFault x0 x1 x2 s) := by
  unfold pairFault
  repeat' first
    | with_reducible assumption
    | intro _
    | with_reducible apply keeps_ite
    | with_reducible apply keeps_fastRetrainFail
    | with_reducible apply keeps_modLink
    | with_reducible apply keeps_deadFirst
    | with_reducible apply keeps_agreeFallback
    | with_reducible apply keeps_sendPort
    | with_reducible apply keeps_linkDown
    | with_reducible apply keeps_ite_snd
    | with_reducible apply keeps_foldl_snd
    | with_reducible apply keeps_foldl
    | split
    | dsimp -zeta only
    | with_reducible refine keeps_of_eq (by with_reducible assumption) ?_
    | with_reducible refine keeps_of_eq3 (by with_reducible assumption) ?_
    | dsimp only

theorem keeps_failSubAdc {F : Kind → Prop} [May F .free] [May F .regs] [May F .ports] [May F .pairs] [May F .links] [May F .queues] [May F .banks] [May F .tiles] [May F .diags] [May F .completions] [May F .claims] [May F .waiting] [May F .later] [May F .tests] [May F .raised] {r s : State} {x0 x1 x2 : _} (h : Keeps F r s) : Keeps F r (failSubAdc x0 x1 x2 s) := by
  unfold failSubAdc
  repeat' first
    | with_reducible assumption
    | intro _
    | with_reducible apply keeps_ite
    | with_reducible apply keeps_setFld
    | with_reducible apply keeps_raise
    | with_reducible apply keeps_modPair
    | with_reducible apply keeps_askRepair
    | with_reducible apply keeps_showLink
    | with_reducible apply keeps_pairFault
    | with_reducible apply keeps_ite_snd
    | with_reducible apply keeps_foldl_snd
    | with_reducible apply keeps_foldl
    | split
    | dsimp -zeta only
    | with_reducible refine keeps_of_eq (by with_reducible assumption) ?_
    | with_reducible refine keeps_of_eq3 (by with_reducible assumption) ?_
    | dsimp only

theorem keeps_dropLink {F : Kind → Prop} [May F .free] [May F .regs] [May F .ports] [May F .pairs] [May F .links] [May F .queues] [May F .banks] [May F .tiles] [May F .diags] [May F .completions] [May F .claims] [May F .waiting] [May F .later] [May F .tests] [May F .raised] {r s : State} {x0 x1 : _} (h : Keeps F r s) : Keeps F r (dropLink x0 x1 s) := by
  unfold dropLink
  repeat' first
    | with_reducible assumption
    | intro _
    | with_reducible apply keeps_ite
    | with_reducible apply keeps_linkDown
    | with_reducible apply keeps_showLink
    | with_reducible apply keeps_flushTx
    | with_reducible apply keeps_enterHoldOff
    | with_reducible apply keeps_clearLink
    | with_reducible apply keeps_ite_snd
    | with_reducible apply keeps_foldl_snd
    | with_reducible apply keeps_foldl
    | split
    | dsimp -zeta only
    | with_reducible refine keeps_of_eq (by with_reducible assumption) ?_
    | with_reducible refine keeps_of_eq3 (by with_reducible assumption) ?_
    | dsimp only

end Sys2Proof.Machine
end

