-- ==== Sys2Proof/Laws/KeepsEeiOps.lean ====
section
/-! SUPPORT. What the operations of Machine/EeiOps.lean keep. -/
set_option linter.unusedTactic false
set_option linter.unreachableTactic false
set_option linter.tactic.unusedName false
namespace Sys2Proof.Machine

theorem keeps_restartGain {F : Kind → Prop} [May F .regs] [May F .pairs] {r s : State} {x0 x1 : _} (h : Keeps F r s) : Keeps F r (restartGain x0 x1 s) := by
  unfold restartGain
  repeat' first
    | with_reducible assumption
    | intro _
    | with_reducible apply keeps_ite
    | with_reducible apply keeps_modPair
    | with_reducible apply keeps_setFld
    | with_reducible apply keeps_ite_snd
    | with_reducible apply keeps_foldl_snd
    | with_reducible apply keeps_foldl
    | split
    | dsimp -zeta only
    | with_reducible refine keeps_of_eq (by with_reducible assumption) ?_
    | with_reducible refine keeps_of_eq3 (by with_reducible assumption) ?_
    | dsimp only

theorem keeps_startFast {F : Kind → Prop} [May F .regs] [May F .ports] [May F .pairs] [May F .links] [May F .queues] [May F .coef] [May F .seeds] [May F .tiles] [May F .diags] [May F .cals] [May F .calRuns] [May F .completions] [May F .claims] [May F .waiting] [May F .later] [May F .tests] [May F .raised] {r s : State} {x0 x1 x2 x3 : _} (h : Keeps F r s) : Keeps F r (startFast x0 x1 x2 x3 s) := by
  unfold startFast
  repeat' first
    | with_reducible assumption
    | intro _
    | with_reducible apply keeps_ite
    | with_reducible apply keeps_cancelFrom
    | with_reducible apply keeps_eeiBreak
    | with_reducible apply keeps_modLink
    | with_reducible apply keeps_restoreStored
    | with_reducible apply keeps_modPair
    | with_reducible apply keeps_endExchange
    | with_reducible apply keeps_restartGain
    | with_reducible apply keeps_setFld
    | with_reducible apply keeps_clearStream
    | with_reducible apply keeps_dropSubPattern
    | with_reducible apply keeps_showRoute
    | with_reducible apply keeps_sideRetrain
    | with_reducible apply keeps_capNotice
    | with_reducible apply keeps_forEach
    | with_reducible apply keeps_ite_snd
    | with_reducible apply keeps_foldl_snd
    | with_reducible apply keeps_foldl
    | split
    | dsimp -zeta only
    | with_reducible refine keeps_of_eq (by with_reducible assumption) ?_
    | with_reducible refine keeps_of_eq3 (by with_reducible assumption) ?_
    | dsimp only

theorem keeps_beginRetrain {F : Kind → Prop} [May F .free] [May F .regs] [May F .ports] [May F .pairs] [May F .links] [May F .queues] [May F .coef] [May F .seeds] [May F .banks] [May F .tiles] [May F .diags] [May F .cals] [May F .calRuns] [May F .completions] [May F .claims] [May F .waiting] [May F .later] [May F .tests] [May F .raised] {r s : State} {x0 x1 x2 x3 : _} (h : Keeps F r s) : Keeps F r (beginRetrain x0 x1 x2 x3 s) := by
  unfold beginRetrain
  repeat' first
    | with_reducible assumption
    | intro _
    | with_reducible apply keeps_ite
    | with_reducible apply keeps_modLink
    | with_reducible apply keeps_fastRetrainFail
    | with_reducible apply keeps_linkDown
    | with_reducible apply keeps_eeiBreak
    | with_reducible apply keeps_startFast
    | with_reducible apply keeps_ite_snd
    | with_reducible apply keeps_foldl_snd
    | with_reducible apply keeps_foldl
    | split
    | dsimp -zeta only
    | with_reducible refine keeps_of_eq (by with_reducible assumption) ?_
    | with_reducible refine keeps_of_eq3 (by with_reducible assumption) ?_
    | dsimp only

theorem keeps_countRefusal {F : Kind → Prop} [May F .regs] [May F .links] {r s : State} {x0 x1 : _} (h : Keeps F r s) : Keeps F r (countRefusal x0 x1 s) := by
  unfold countRefusal
  repeat' first
    | with_reducible assumption
    | intro _
    | with_reducible apply keeps_ite
    | with_reducible apply keeps_inc
    | with_reducible apply keeps_modLink
    | with_reducible apply keeps_setFld
    | with_reducible apply keeps_ite_snd
    | with_reducible apply keeps_foldl_snd
    | with_reducible apply keeps_foldl
    | split
    | dsimp -zeta only
    | with_reducible refine keeps_of_eq (by with_reducible assumption) ?_
    | with_reducible refine keeps_of_eq3 (by with_reducible assumption) ?_
    | dsimp only

theorem keeps_countAbort {F : Kind → Prop} [May F .regs] [May F .links] {r s : State} {x0 x1 : _} (h : Keeps F r s) : Keeps F r (countAbort x0 x1 s) := by
  unfold countAbort
  repeat' first
    | with_reducible assumption
    | intro _
    | with_reducible apply keeps_ite
    | with_reducible apply keeps_inc
    | with_reducible apply keeps_modLink
    | with_reducible apply keeps_setFld
    | with_reducible apply keeps_ite_snd
    | with_reducible apply keeps_foldl_snd
    | with_reducible apply keeps_foldl
    | split
    | dsimp -zeta only
    | with_reducible refine keeps_of_eq (by with_reducible assumption) ?_
    | with_reducible refine keeps_of_eq3 (by with_reducible assumption) ?_
    | dsimp only

theorem keeps_modEei {F : Kind → Prop} [May F .links] {r s : State} {x0 x1 : _} (h : Keeps F r s) : Keeps F r (modEei x0 x1 s) := by
  unfold modEei
  repeat' first
    | with_reducible assumption
    | intro _
    | with_reducible apply keeps_ite
    | with_reducible apply keeps_modLink
    | with_reducible apply keeps_ite_snd
    | with_reducible apply keeps_foldl_snd
    | with_reducible apply keeps_foldl
    | split
    | dsimp -zeta only
    | with_reducible refine keeps_of_eq (by with_reducible assumption) ?_
    | with_reducible refine keeps_of_eq3 (by with_reducible assumption) ?_
    | dsimp only

theorem keeps_agreeEntry {F : Kind → Prop} [May F .regs] [May F .links] {r s : State} {x0 x1 x2 : _} (h : Keeps F r s) : Keeps F r (agreeEntry x0 x1 x2 s) := by
  unfold agreeEntry
  repeat' first
    | with_reducible assumption
    | intro _
    | with_reducible apply keeps_ite
    | with_reducible apply keeps_modEei
    | with_reducible apply keeps_setReg
    | with_reducible apply keeps_agree
    | with_reducible apply keeps_ite_snd
    | with_reducible apply keeps_foldl_snd
    | with_reducible apply keeps_foldl
    | split
    | dsimp -zeta only
    | with_reducible refine keeps_of_eq (by with_reducible assumption) ?_
    | with_reducible refine keeps_of_eq3 (by with_reducible assumption) ?_
    | dsimp only

theorem keeps_dropEntry {F : Kind → Prop} [May F .links] {r s : State} {x0 : _} (h : Keeps F r s) : Keeps F r (dropEntry x0 s) := by
  unfold dropEntry
  repeat' first
    | with_reducible assumption
    | intro _
    | with_reducible apply keeps_ite
    | with_reducible apply keeps_modLink
    | with_reducible apply keeps_modEei
    | with_reducible apply keeps_ite_snd
    | with_reducible apply keeps_foldl_snd
    | with_reducible apply keeps_foldl
    | split
    | dsimp -zeta only
    | with_reducible refine keeps_of_eq (by with_reducible assumption) ?_
    | with_reducible refine keeps_of_eq3 (by with_reducible assumption) ?_
    | dsimp only

theorem keeps_sendTraining {F : Kind → Prop} [May F .regs] [May F .out] {r s : State} {x0 x1 x2 x3 : _} (h : Keeps F r s) : Keeps F r (sendTraining x0 x1 x2 x3 s) := by
  unfold sendTraining
  repeat' first
    | with_reducible assumption
    | intro _
    | with_reducible apply keeps_ite
    | with_reducible apply keeps_emit
    | with_reducible apply keeps_countClips
    | with_reducible apply keeps_ite_snd
    | with_reducible apply keeps_foldl_snd
    | with_reducible apply keeps_foldl
    | split
    | dsimp -zeta only
    | with_reducible refine keeps_of_eq (by with_reducible assumption) ?_
    | with_reducible refine keeps_of_eq3 (by with_reducible assumption) ?_
    | dsimp only

theorem keeps_startAlerts {F : Kind → Prop} [May F .regs] [May F .links] [May F .out] {r s : State} {x0 : _} (h : Keeps F r s) : Keeps F r (startAlerts x0 s) := by
  unfold startAlerts
  repeat' first
    | with_reducible assumption
    | intro _
    | with_reducible apply keeps_ite
    | with_reducible apply keeps_sendTraining
    | with_reducible apply keeps_emit
    | with_reducible apply keeps_countClips
    | with_reducible apply keeps_sendPort
    | with_reducible apply keeps_modEei
    | with_reducible apply keeps_forEach
    | with_reducible apply keeps_ite_snd
    | with_reducible apply keeps_foldl_snd
    | with_reducible apply keeps_foldl
    | split
    | dsimp -zeta only
    | with_reducible refine keeps_of_eq (by with_reducible assumption) ?_
    | with_reducible refine keeps_of_eq3 (by with_reducible assumption) ?_
    | dsimp only

theorem keeps_beginWake {F : Kind → Prop} [May F .regs] [May F .links] [May F .out] {r s : State} {x0 x1 : _} (h : Keeps F r s) : Keeps F r (beginWake x0 x1 s) := by
  unfold beginWake
  repeat' first
    | with_reducible assumption
    | intro _
    | with_reducible apply keeps_ite
    | with_reducible apply keeps_modEei
    | with_reducible apply keeps_startAlerts
    | with_reducible apply keeps_setFld
    | with_reducible apply keeps_ite_snd
    | with_reducible apply keeps_foldl_snd
    | with_reducible apply keeps_foldl
    | split
    | dsimp -zeta only
    | with_reducible refine keeps_of_eq (by with_reducible assumption) ?_
    | with_reducible refine keeps_of_eq3 (by with_reducible assumption) ?_
    | dsimp only

theorem keeps_endDepth {F : Kind → Prop} [May F .pairs] [May F .links] {r s : State} {x0 : _} (h : Keeps F r s) : Keeps F r (endDepth x0 s) := by
  unfold endDepth
  repeat' first
    | with_reducible assumption
    | intro _
    | with_reducible apply keeps_ite
    | with_reducible apply keeps_modEei
    | with_reducible apply keeps_modPair
    | with_reducible apply keeps_modLink
    | with_reducible apply keeps_forEach
    | with_reducible apply keeps_ite_snd
    | with_reducible apply keeps_foldl_snd
    | with_reducible apply keeps_foldl
    | split
    | dsimp -zeta only
    | with_reducible refine keeps_of_eq (by with_reducible assumption) ?_
    | with_reducible refine keeps_of_eq3 (by with_reducible assumption) ?_
    | dsimp only

theorem keeps_wakeCause {F : Kind → Prop} [May F .regs] [May F .links] [May F .out] {r s : State} {x0 x1 : _} (h : Keeps F r s) : Keeps F r (wakeCause x0 x1 s) := by
  unfold wakeCause
  repeat' first
    | with_reducible assumption
    | intro _
    | with_reducible apply keeps_ite
    | with_reducible apply keeps_beginWake
    | with_reducible apply keeps_countAbort
    | with_reducible apply keeps_sendPort
    | with_reducible apply keeps_dropEntry
    | with_reducible apply keeps_setFld
    | with_reducible apply keeps_modEei
    | with_reducible apply keeps_modLink
    | with_reducible apply keeps_ite_snd
    | with_reducible apply keeps_foldl_snd
    | with_reducible apply keeps_foldl
    | split
    | dsimp -zeta only
    | with_reducible refine keeps_of_eq (by with_reducible assumption) ?_
    | with_reducible refine keeps_of_eq3 (by with_reducible assumption) ?_
    | dsimp only

theorem keeps_wakePort {F : Kind → Prop} [May F .regs] [May F .links] [May F .out] {r s : State} {x0 x1 : _} (h : Keeps F r s) : Keeps F r (wakePort x0 x1 s) := by
  unfold wakePort
  repeat' first
    | with_reducible assumption
    | intro _
    | with_reducible apply keeps_ite
    | with_reducible apply keeps_wakeCause
    | with_reducible apply keeps_forEach
    | with_reducible apply keeps_ite_snd
    | with_reducible apply keeps_foldl_snd
    | with_reducible apply keeps_foldl
    | split
    | dsimp -zeta only
    | with_reducible refine keeps_of_eq (by with_reducible assumption) ?_
    | with_reducible refine keeps_of_eq3 (by with_reducible assumption) ?_
    | dsimp only

theorem keeps_setQuiet {F : Kind → Prop} [May F .pairs] {r s : State} {x0 x1 : _} (h : Keeps F r s) : Keeps F r (setQuiet x0 x1 s) := by
  unfold setQuiet
  repeat' first
    | with_reducible assumption
    | intro _
    | with_reducible apply keeps_ite
    | with_reducible apply keeps_modPair
    | with_reducible apply keeps_forEach
    | with_reducible apply keeps_ite_snd
    | with_reducible apply keeps_foldl_snd
    | with_reducible apply keeps_foldl
    | split
    | dsimp -zeta only
    | with_reducible refine keeps_of_eq (by with_reducible assumption) ?_
    | with_reducible refine keeps_of_eq3 (by with_reducible assumption) ?_
    | dsimp only

theorem keeps_hostActive {F : Kind → Prop} [May F .regs] [May F .links] [May F .out] {r s : State} {x0 : _} (h : Keeps F r s) : Keeps F r (hostActive x0 s) := by
  unfold hostActive
  repeat' first
    | with_reducible assumption
    | intro _
    | with_reducible apply keeps_ite
    | with_reducible apply keeps_wakeCause
    | with_reducible apply keeps_modEei
    | with_reducible apply keeps_ite_snd
    | with_reducible apply keeps_foldl_snd
    | with_reducible apply keeps_foldl
    | split
    | dsimp -zeta only
    | with_reducible refine keeps_of_eq (by with_reducible assumption) ?_
    | with_reducible refine keeps_of_eq3 (by with_reducible assumption) ?_
    | dsimp only

theorem keeps_applyBudget {F : Kind → Prop} [May F .regs] [May F .ports] [May F .links] [May F .raised] [May F .out] {r s : State} {x0 : _} (h : Keeps F r s) : Keeps F r (applyBudget x0 s) := by
  unfold applyBudget
  repeat' first
    | with_reducible assumption
    | intro _
    | with_reducible apply keeps_ite
    | with_reducible apply keeps_modEei
    | with_reducible apply keeps_modPort
    | with_reducible apply keeps_wakeCause
    | with_reducible apply keeps_refreshModes
    | with_reducible apply keeps_ite_snd
    | with_reducible apply keeps_foldl_snd
    | with_reducible apply keeps_foldl
    | split
    | dsimp -zeta only
    | with_reducible refine keeps_of_eq (by with_reducible assumption) ?_
    | with_reducible refine keeps_of_eq3 (by with_reducible assumption) ?_
    | dsimp only

theorem keeps_partialFail {F : Kind → Prop} [May F .free] [May F .regs] [May F .ports] [May F .pairs] [May F .links] [May F .queues] [May F .coef] [May F .seeds] [May F .banks] [May F .tiles] [May F .diags] [May F .cals] [May F .calRuns] [May F .completions] [May F .claims] [May F .waiting] [May F .later] [May F .tests] [May F .raised] {r s : State} {x0 : _} (h : Keeps F r s) : Keeps F r (partialFail x0 s) := by
  unfold partialFail
  repeat' first
    | with_reducible assumption
    | intro _
    | with_reducible apply keeps_ite
    | with_reducible apply keeps_raise
    | with_reducible apply keeps_inc
    | with_reducible apply keeps_beginRetrain
    | with_reducible apply keeps_endDepth
    | with_reducible apply keeps_ite_snd
    | with_reducible apply keeps_foldl_snd
    | with_reducible apply keeps_foldl
    | split
    | dsimp -zeta only
    | with_reducible refine keeps_of_eq (by with_reducible assumption) ?_
    | with_reducible refine keeps_of_eq3 (by with_reducible assumption) ?_
    | dsimp only

end Sys2Proof.Machine
end

