-- ==== Sys2Proof/Laws/KeepsNvOps.lean ====
section
/-! SUPPORT. What the operations of Machine/NvOps.lean keep. -/
set_option linter.unusedTactic false
set_option linter.unreachableTactic false
set_option linter.tactic.unusedName false
namespace Sys2Proof.Machine

theorem keeps_putBytes {F : Kind → Prop} [May F .mram] {r s : State} {a : Nat} {bs : List Nat} (h : Keeps F r s) : Keeps F r (putBytes a bs s) := by
  induction bs generalizing a s with
  | nil => exact h
  | cons b bs ih => exact ih (keeps_setNvByte h)

theorem keeps_nvPut {F : Kind → Prop} [May F .regs] [May F .mram] {r s : State} {x0 x1 : _} (h : Keeps F r s) : Keeps F r (nvPut x0 x1 s) := by
  unfold nvPut
  repeat' first
    | with_reducible assumption
    | intro _
    | with_reducible apply keeps_ite
    | with_reducible apply keeps_add64
    | with_reducible apply keeps_putBytes
    | with_reducible apply keeps_ite_snd
    | with_reducible apply keeps_foldl_snd
    | with_reducible apply keeps_foldl
    | split
    | dsimp -zeta only
    | with_reducible refine keeps_of_eq (by with_reducible assumption) ?_
    | with_reducible refine keeps_of_eq3 (by with_reducible assumption) ?_
    | dsimp only

theorem keeps_storeGen {F : Kind → Prop} [May F .regs] [May F .mram] {r s : State} (h : Keeps F r s) : Keeps F r (storeGen s) := by
  unfold storeGen
  repeat' first
    | with_reducible assumption
    | intro _
    | with_reducible apply keeps_ite
    | with_reducible apply keeps_nvPut
    | with_reducible apply keeps_ite_snd
    | with_reducible apply keeps_foldl_snd
    | with_reducible apply keeps_foldl
    | split
    | dsimp -zeta only
    | with_reducible refine keeps_of_eq (by with_reducible assumption) ?_
    | with_reducible refine keeps_of_eq3 (by with_reducible assumption) ?_
    | dsimp only

theorem keeps_nvFault {F : Kind → Prop} [May F .free] [May F .regs] [May F .mram] [May F .raised] {r s : State} {x0 x1 x2 : _} (h : Keeps F r s) : Keeps F r (nvFault x0 x1 x2 s) := by
  unfold nvFault
  repeat' first
    | with_reducible assumption
    | intro _
    | with_reducible apply keeps_ite
    | with_reducible apply keeps_draw
    | with_reducible apply keeps_add64
    | with_reducible apply keeps_putBytes
    | with_reducible apply keeps_raise
    | with_reducible apply keeps_inc
    | with_reducible apply keeps_setFld
    | with_reducible apply keeps_ite_snd
    | with_reducible apply keeps_foldl_snd
    | with_reducible apply keeps_foldl
    | split
    | dsimp -zeta only
    | with_reducible refine keeps_of_eq (by with_reducible assumption) ?_
    | with_reducible refine keeps_of_eq3 (by with_reducible assumption) ?_
    | dsimp only

theorem keeps_nvFails {F : Kind → Prop} [May F .free] [May F .regs] [May F .mram] [May F .raised] {r s : State} {x0 x1 x2 x3 x4 : _} (h : Keeps F r s) : Keeps F r (nvFails x0 x1 x2 x3 x4 s) := by
  unfold nvFails
  repeat' first
    | with_reducible assumption
    | intro _
    | with_reducible apply keeps_ite
    | with_reducible apply keeps_nvFault
    | with_reducible apply keeps_ite_snd
    | with_reducible apply keeps_foldl_snd
    | with_reducible apply keeps_foldl
    | split
    | dsimp -zeta only
    | with_reducible refine keeps_of_eq (by with_reducible assumption) ?_
    | with_reducible refine keeps_of_eq3 (by with_reducible assumption) ?_
    | dsimp only

theorem keeps_invalidate {F : Kind → Prop} [May F .regs] [May F .mram] {r s : State} {x0 x1 : _} (h : Keeps F r s) : Keeps F r (invalidate x0 x1 s) := by
  unfold invalidate
  repeat' first
    | with_reducible assumption
    | intro _
    | with_reducible apply keeps_ite
    | with_reducible apply keeps_nvPut
    | with_reducible apply keeps_ite_snd
    | with_reducible apply keeps_foldl_snd
    | with_reducible apply keeps_foldl
    | split
    | dsimp -zeta only
    | with_reducible refine keeps_of_eq (by with_reducible assumption) ?_
    | with_reducible refine keeps_of_eq3 (by with_reducible assumption) ?_
    | dsimp only

theorem keeps_commitBank {F : Kind → Prop} [May F .regs] [May F .mram] [May F .raised] {r s : State} {x0 x1 x2 x3 x4 : _} (h : Keeps F r s) : Keeps F r (commitBank x0 x1 x2 x3 x4 s).2 := by
  show KeepsP F r _
  unfold commitBank
  repeat' first
    | with_reducible assumption
    | intro _
    | with_reducible apply keepsP_mk
    | with_reducible apply keepsP_ite
    | with_reducible apply keeps_ite
    | with_reducible apply keeps_nvPut
    | with_reducible apply keeps_raise
    | with_reducible apply keeps_inc
    | with_reducible apply keeps_ite_snd
    | with_reducible apply keeps_foldl_snd
    | with_reducible apply keeps_foldl
    | split
    | dsimp -zeta only
    | with_reducible refine keeps_of_eq (by with_reducible assumption) ?_
    | with_reducible refine keeps_of_eq3 (by with_reducible assumption) ?_
    | dsimp only

theorem keeps_writePartition {F : Kind → Prop} [May F .regs] [May F .mram] [May F .raised] {r s : State} {x0 x1 : _} (h : Keeps F r s) : Keeps F r (writePartition x0 x1 s).2 := by
  show KeepsP F r _
  unfold writePartition
  repeat' first
    | with_reducible assumption
    | intro _
    | with_reducible apply keepsP_mk
    | with_reducible apply keepsP_ite
    | with_reducible apply keeps_ite
    | with_reducible apply keeps_nvPut
    | with_reducible apply keeps_invalidate
    | with_reducible apply keeps_commitBank
    | with_reducible apply keeps_ite_snd
    | with_reducible apply keeps_foldl_snd
    | with_reducible apply keeps_foldl
    | split
    | dsimp -zeta only
    | with_reducible refine keeps_of_eq (by with_reducible assumption) ?_
    | with_reducible refine keeps_of_eq3 (by with_reducible assumption) ?_
    | dsimp only

theorem keeps_rewriteRepair {F : Kind → Prop} [May F .regs] [May F .mram] [May F .raised] {r s : State} {x0 x1 : _} (h : Keeps F r s) : Keeps F r (rewriteRepair x0 x1 s) := by
  unfold rewriteRepair
  repeat' first
    | with_reducible assumption
    | intro _
    | with_reducible apply keeps_ite
    | with_reducible apply keeps_raise
    | with_reducible apply keeps_writePartition
    | with_reducible apply keeps_forEach
    | with_reducible apply keeps_ite_snd
    | with_reducible apply keeps_foldl_snd
    | with_reducible apply keeps_foldl
    | split
    | dsimp -zeta only
    | with_reducible refine keeps_of_eq (by with_reducible assumption) ?_
    | with_reducible refine keeps_of_eq3 (by with_reducible assumption) ?_
    | dsimp only

end Sys2Proof.Machine
end

