-- ==== Sys2Proof/Laws/KeepsLaneOps.lean ====
section
/-! SUPPORT. What the operations of Machine/LaneOps.lean keep. -/
set_option linter.unusedTactic false
set_option linter.unreachableTactic false
set_option linter.tactic.unusedName false
namespace Sys2Proof.Machine

theorem keeps_laneInt {F : Kind → Prop} [May F .regs] {r s : State} {x0 : _} (h : Keeps F r s) : Keeps F r (laneInt x0 s) := by
  unfold laneInt
  repeat' first
    | with_reducible assumption
    | intro _
    | with_reducible apply keeps_ite
    | with_reducible apply keeps_setFld
    | with_reducible apply keeps_ite_snd
    | with_reducible apply keeps_foldl_snd
    | with_reducible apply keeps_foldl
    | split
    | dsimp -zeta only
    | with_reducible refine keeps_of_eq (by with_reducible assumption) ?_
    | with_reducible refine keeps_of_eq3 (by with_reducible assumption) ?_
    | dsimp only

theorem keeps_setLaneState {F : Kind → Prop} [May F .regs] {r s : State} {x0 x1 : _} (h : Keeps F r s) : Keeps F r (setLaneState x0 x1 s) := by
  unfold setLaneState
  repeat' first
    | with_reducible assumption
    | intro _
    | with_reducible apply keeps_ite
    | with_reducible apply keeps_laneInt
    | with_reducible apply keeps_setFld
    | with_reducible apply keeps_ite_snd
    | with_reducible apply keeps_foldl_snd
    | with_reducible apply keeps_foldl
    | split
    | dsimp -zeta only
    | with_reducible refine keeps_of_eq (by with_reducible assumption) ?_
    | with_reducible refine keeps_of_eq3 (by with_reducible assumption) ?_
    | dsimp only

theorem keeps_setLanePort {F : Kind → Prop} [May F .regs] {r s : State} {x0 x1 : _} (h : Keeps F r s) : Keeps F r (setLanePort x0 x1 s) := by
  unfold setLanePort
  repeat' first
    | with_reducible assumption
    | intro _
    | with_reducible apply keeps_ite
    | with_reducible apply keeps_setFld
    | with_reducible apply keeps_ite_snd
    | with_reducible apply keeps_foldl_snd
    | with_reducible apply keeps_foldl
    | split
    | dsimp -zeta only
    | with_reducible refine keeps_of_eq (by with_reducible assumption) ?_
    | with_reducible refine keeps_of_eq3 (by with_reducible assumption) ?_
    | dsimp only

theorem keeps_settleSpares {F : Kind → Prop} [May F .hub] {r s : State} (h : Keeps F r s) : Keeps F r (settleSpares s) := by
  unfold settleSpares
  repeat' first
    | with_reducible assumption
    | intro _
    | with_reducible apply keeps_ite
    | with_reducible apply keeps_modHub
    | with_reducible apply keeps_ite_snd
    | with_reducible apply keeps_foldl_snd
    | with_reducible apply keeps_foldl
    | split
    | dsimp -zeta only
    | with_reducible refine keeps_of_eq (by with_reducible assumption) ?_
    | with_reducible refine keeps_of_eq3 (by with_reducible assumption) ?_
    | dsimp only

theorem keeps_setSpareState {F : Kind → Prop} [May F .regs] [May F .hub] {r s : State} {x0 x1 : _} (h : Keeps F r s) : Keeps F r (setSpareState x0 x1 s) := by
  unfold setSpareState
  repeat' first
    | with_reducible assumption
    | intro _
    | with_reducible apply keeps_ite
    | with_reducible apply keeps_settleSpares
    | with_reducible apply keeps_laneInt
    | with_reducible apply keeps_setFld
    | with_reducible apply keeps_ite_snd
    | with_reducible apply keeps_foldl_snd
    | with_reducible apply keeps_foldl
    | split
    | dsimp -zeta only
    | with_reducible refine keeps_of_eq (by with_reducible assumption) ?_
    | with_reducible refine keeps_of_eq3 (by with_reducible assumption) ?_
    | dsimp only

theorem keeps_abortEye {F : Kind → Prop} [May F .regs] [May F .lanes] [May F .eyes] [May F .completions] [May F .claims] [May F .waiting] [May F .later] {r s : State} {x0 : _} (h : Keeps F r s) : Keeps F r (abortEye x0 s) := by
  unfold abortEye
  repeat' first
    | with_reducible assumption
    | intro _
    | with_reducible apply keeps_ite
    | with_reducible apply keeps_setFld
    | with_reducible apply keeps_modLane
    | with_reducible apply keeps_finishJob
    | with_reducible apply keeps_ite_snd
    | with_reducible apply keeps_foldl_snd
    | with_reducible apply keeps_foldl
    | split
    | dsimp -zeta only
    | with_reducible refine keeps_of_eq (by with_reducible assumption) ?_
    | with_reducible refine keeps_of_eq3 (by with_reducible assumption) ?_
    | dsimp only
    | with_reducible apply keeps_upd_eyes

theorem keeps_startEye {F : Kind → Prop} [May F .regs] {r s : State} {x0 : _} (h : Keeps F r s) : Keeps F r (startEye x0 s) := by
  unfold startEye
  repeat' first
    | with_reducible assumption
    | intro _
    | with_reducible apply keeps_ite
    | with_reducible apply keeps_setFld
    | with_reducible apply keeps_ite_snd
    | with_reducible apply keeps_foldl_snd
    | with_reducible apply keeps_foldl
    | split
    | dsimp -zeta only
    | with_reducible refine keeps_of_eq (by with_reducible assumption) ?_
    | with_reducible refine keeps_of_eq3 (by with_reducible assumption) ?_
    | dsimp only

theorem keeps_aimEye {F : Kind → Prop} [May F .regs] {r s : State} {x0 x1 : _} (h : Keeps F r s) : Keeps F r (aimEye x0 x1 s) := by
  unfold aimEye
  repeat' first
    | with_reducible assumption
    | intro _
    | with_reducible apply keeps_ite
    | with_reducible apply keeps_setFld
    | with_reducible apply keeps_ite_snd
    | with_reducible apply keeps_foldl_snd
    | with_reducible apply keeps_foldl
    | split
    | dsimp -zeta only
    | with_reducible refine keeps_of_eq (by with_reducible assumption) ?_
    | with_reducible refine keeps_of_eq3 (by with_reducible assumption) ?_
    | dsimp only

theorem keeps_prbsUnlock {F : Kind → Prop} [May F .regs] [May F .lanes] {r s : State} {x0 : _} (h : Keeps F r s) : Keeps F r (prbsUnlock x0 s) := by
  unfold prbsUnlock
  repeat' first
    | with_reducible assumption
    | intro _
    | with_reducible apply keeps_ite
    | with_reducible apply keeps_modLane
    | with_reducible apply keeps_setFld
    | with_reducible apply keeps_ite_snd
    | with_reducible apply keeps_foldl_snd
    | with_reducible apply keeps_foldl
    | split
    | dsimp -zeta only
    | with_reducible refine keeps_of_eq (by with_reducible assumption) ?_
    | with_reducible refine keeps_of_eq3 (by with_reducible assumption) ?_
    | dsimp only

theorem keeps_setPrbs {F : Kind → Prop} [May F .regs] [May F .lanes] [May F .claims] [May F .waiting] [May F .later] {r s : State} {x0 x1 x2 : _} (h : Keeps F r s) : Keeps F r (setPrbs x0 x1 x2 s) := by
  unfold setPrbs
  repeat' first
    | with_reducible assumption
    | intro _
    | with_reducible apply keeps_ite
    | with_reducible apply keeps_setFld
    | with_reducible apply keeps_modLane
    | with_reducible apply keeps_releaseClaim
    | with_reducible apply keeps_forEach
    | with_reducible apply keeps_ite_snd
    | with_reducible apply keeps_foldl_snd
    | with_reducible apply keeps_foldl
    | split
    | dsimp -zeta only
    | with_reducible refine keeps_of_eq (by with_reducible assumption) ?_
    | with_reducible refine keeps_of_eq3 (by with_reducible assumption) ?_
    | dsimp only

theorem keeps_injectBits {F : Kind → Prop} [May F .lanes] {r s : State} {x0 x1 : _} (h : Keeps F r s) : Keeps F r (injectBits x0 x1 s) := by
  unfold injectBits
  repeat' first
    | with_reducible assumption
    | intro _
    | with_reducible apply keeps_ite
    | with_reducible apply keeps_modLane
    | with_reducible apply keeps_ite_snd
    | with_reducible apply keeps_foldl_snd
    | with_reducible apply keeps_foldl
    | split
    | dsimp -zeta only
    | with_reducible refine keeps_of_eq (by with_reducible assumption) ?_
    | with_reducible refine keeps_of_eq3 (by with_reducible assumption) ?_
    | dsimp only

theorem keeps_setLocks {F : Kind → Prop} [May F .regs] {r s : State} {x0 x1 : _} (h : Keeps F r s) : Keeps F r (setLocks x0 x1 s) := by
  unfold setLocks
  repeat' first
    | with_reducible assumption
    | intro _
    | with_reducible apply keeps_ite
    | with_reducible apply keeps_setFld
    | with_reducible apply keeps_ite_snd
    | with_reducible apply keeps_foldl_snd
    | with_reducible apply keeps_foldl
    | split
    | dsimp -zeta only
    | with_reducible refine keeps_of_eq (by with_reducible assumption) ?_
    | with_reducible refine keeps_of_eq3 (by with_reducible assumption) ?_
    | dsimp only

theorem keeps_adaptCtle {F : Kind → Prop} [May F .free] [May F .regs] {r s : State} {x0 : _} (h : Keeps F r s) : Keeps F r (adaptCtle x0 s) := by
  unfold adaptCtle
  repeat' first
    | with_reducible assumption
    | intro _
    | with_reducible apply keeps_ite
    | with_reducible apply keeps_draw
    | with_reducible apply keeps_setFld
    | with_reducible apply keeps_ite_snd
    | with_reducible apply keeps_foldl_snd
    | with_reducible apply keeps_foldl
    | split
    | dsimp -zeta only
    | with_reducible refine keeps_of_eq (by with_reducible assumption) ?_
    | with_reducible refine keeps_of_eq3 (by with_reducible assumption) ?_
    | dsimp only

theorem keeps_rateTaken {F : Kind → Prop} [May F .regs] [May F .pairs] [May F .links] [May F .raised] {r s : State} {x0 : _} (h : Keeps F r s) : Keeps F r (rateTaken x0 s) := by
  unfold rateTaken
  repeat' first
    | with_reducible assumption
    | intro _
    | with_reducible apply keeps_ite
    | with_reducible apply keeps_showLink
    | with_reducible apply keeps_requestRetrain
    | with_reducible apply keeps_forEach
    | with_reducible apply keeps_ite_snd
    | with_reducible apply keeps_foldl_snd
    | with_reducible apply keeps_foldl
    | split
    | dsimp -zeta only
    | with_reducible refine keeps_of_eq (by with_reducible assumption) ?_
    | with_reducible refine keeps_of_eq3 (by with_reducible assumption) ?_
    | dsimp only

theorem keeps_acquire {F : Kind → Prop} [May F .regs] [May F .lanes] {r s : State} {x0 x1 : _} (h : Keeps F r s) : Keeps F r (acquire x0 x1 s) := by
  unfold acquire
  repeat' first
    | with_reducible assumption
    | intro _
    | with_reducible apply keeps_ite
    | with_reducible apply keeps_modLane
    | with_reducible apply keeps_setFld
    | with_reducible apply keeps_setLocks
    | with_reducible apply keeps_setLaneState
    | with_reducible apply keeps_ite_snd
    | with_reducible apply keeps_foldl_snd
    | with_reducible apply keeps_foldl
    | split
    | dsimp -zeta only
    | with_reducible refine keeps_of_eq (by with_reducible assumption) ?_
    | with_reducible refine keeps_of_eq3 (by with_reducible assumption) ?_
    | dsimp only

theorem keeps_octetOn {F : Kind → Prop} [May F .doms] {r s : State} {x0 : _} (h : Keeps F r s) : Keeps F r (octetOn x0 s) := by
  unfold octetOn
  repeat' first
    | with_reducible assumption
    | intro _
    | with_reducible apply keeps_ite
    | with_reducible apply keeps_modDom
    | with_reducible apply keeps_ite_snd
    | with_reducible apply keeps_foldl_snd
    | with_reducible apply keeps_foldl
    | split
    | dsimp -zeta only
    | with_reducible refine keeps_of_eq (by with_reducible assumption) ?_
    | with_reducible refine keeps_of_eq3 (by with_reducible assumption) ?_
    | dsimp only

theorem keeps_clearLaneStatus {F : Kind → Prop} [May F .regs] {r s : State} {x0 : _} (h : Keeps F r s) : Keeps F r (clearLaneStatus x0 s) := by
  unfold clearLaneStatus
  repeat' first
    | with_reducible assumption
    | intro _
    | with_reducible apply keeps_ite
    | with_reducible apply keeps_ite_snd
    | with_reducible apply keeps_foldl_snd
    | with_reducible apply keeps_foldl
    | split
    | dsimp -zeta only
    | with_reducible refine keeps_of_eq (by with_reducible assumption) ?_
    | with_reducible refine keeps_of_eq3 (by with_reducible assumption) ?_
    | dsimp only
    | with_reducible apply keeps_regs_filter

theorem keeps_keepFailed {F : Kind → Prop} [May F .regs] {r s : State} {x0 : _} (h : Keeps F r s) : Keeps F r (keepFailed x0 s) := by
  unfold keepFailed
  repeat' first
    | with_reducible assumption
    | intro _
    | with_reducible apply keeps_ite
    | with_reducible apply keeps_setFld
    | with_reducible apply keeps_ite_snd
    | with_reducible apply keeps_foldl_snd
    | with_reducible apply keeps_foldl
    | split
    | dsimp -zeta only
    | with_reducible refine keeps_of_eq (by with_reducible assumption) ?_
    | with_reducible refine keeps_of_eq3 (by with_reducible assumption) ?_
    | dsimp only

theorem keeps_octetOff {F : Kind → Prop} [May F .regs] [May F .doms] {r s : State} {x0 : _} (h : Keeps F r s) : Keeps F r (octetOff x0 s) := by
  unfold octetOff
  repeat' first
    | with_reducible assumption
    | intro _
    | with_reducible apply keeps_ite
    | with_reducible apply keeps_modDom
    | with_reducible apply keeps_setFld
    | with_reducible apply keeps_keepFailed
    | with_reducible apply keeps_setLanePort
    | with_reducible apply keeps_clearLaneStatus
    | with_reducible apply keeps_forEach
    | with_reducible apply keeps_ite_snd
    | with_reducible apply keeps_foldl_snd
    | with_reducible apply keeps_foldl
    | split
    | dsimp -zeta only
    | with_reducible refine keeps_of_eq (by with_reducible assumption) ?_
    | with_reducible refine keeps_of_eq3 (by with_reducible assumption) ?_
    | dsimp only

theorem keeps_octetJudge {F : Kind → Prop} [May F .regs] [May F .doms] {r s : State} {x0 : _} (h : Keeps F r s) : Keeps F r (octetJudge x0 s) := by
  unfold octetJudge
  repeat' first
    | with_reducible assumption
    | intro _
    | with_reducible apply keeps_ite
    | with_reducible apply keeps_octetOff
    | with_reducible apply keeps_ite_snd
    | with_reducible apply keeps_foldl_snd
    | with_reducible apply keeps_foldl
    | split
    | dsimp -zeta only
    | with_reducible refine keeps_of_eq (by with_reducible assumption) ?_
    | with_reducible refine keeps_of_eq3 (by with_reducible assumption) ?_
    | dsimp only

theorem keeps_enableLane {F : Kind → Prop} [May F .regs] [May F .pairs] [May F .links] [May F .lanes] [May F .doms] [May F .raised] {r s : State} {x0 : _} (h : Keeps F r s) : Keeps F r (enableLane x0 s) := by
  unfold enableLane
  repeat' first
    | with_reducible assumption
    | intro _
    | with_reducible apply keeps_ite
    | with_reducible apply keeps_octetOn
    | with_reducible apply keeps_setFld
    | with_reducible apply keeps_acquire
    | with_reducible apply keeps_rateTaken
    | with_reducible apply keeps_ite_snd
    | with_reducible apply keeps_foldl_snd
    | with_reducible apply keeps_foldl
    | split
    | dsimp -zeta only
    | with_reducible refine keeps_of_eq (by with_reducible assumption) ?_
    | with_reducible refine keeps_of_eq3 (by with_reducible assumption) ?_
    | dsimp only

theorem keeps_disableLane {F : Kind → Prop} [May F .regs] [May F .lanes] [May F .doms] [May F .eyes] [May F .completions] [May F .claims] [May F .waiting] [May F .later] [May F .hub] {r s : State} {x0 : _} (h : Keeps F r s) : Keeps F r (disableLane x0 s) := by
  unfold disableLane
  repeat' first
    | with_reducible assumption
    | intro _
    | with_reducible apply keeps_ite
    | with_reducible apply keeps_abortEye
    | with_reducible apply keeps_setFld
    | with_reducible apply keeps_modLane
    | with_reducible apply keeps_setSpareState
    | with_reducible apply keeps_setLanePort
    | with_reducible apply keeps_setLaneState
    | with_reducible apply keeps_setLocks
    | with_reducible apply keeps_prbsUnlock
    | with_reducible apply keeps_octetJudge
    | with_reducible apply keeps_ite_snd
    | with_reducible apply keeps_foldl_snd
    | with_reducible apply keeps_foldl
    | split
    | dsimp -zeta only
    | with_reducible refine keeps_of_eq (by with_reducible assumption) ?_
    | with_reducible refine keeps_of_eq3 (by with_reducible assumption) ?_
    | dsimp only

theorem keeps_recordFault {F : Kind → Prop} [May F .regs] [May F .raised] {r s : State} {x0 x1 x2 : _} (h : Keeps F r s) : Keeps F r (recordFault x0 x1 x2 s) := by
  unfold recordFault
  repeat' first
    | with_reducible assumption
    | intro _
    | with_reducible apply keeps_ite
    | with_reducible apply keeps_setFld
    | with_reducible apply keeps_inc
    | with_reducible apply keeps_raise
    | with_reducible apply keeps_ite_snd
    | with_reducible apply keeps_foldl_snd
    | with_reducible apply keeps_foldl
    | split
    | dsimp -zeta only
    | with_reducible refine keeps_of_eq (by with_reducible assumption) ?_
    | with_reducible refine keeps_of_eq3 (by with_reducible assumption) ?_
    | dsimp only

theorem keeps_loseFrame {F : Kind → Prop} [May F .free] [May F .regs] [May F .queues] [May F .hosts] [May F .banks] [May F .raised] {r s : State} {x0 : _} (h : Keeps F r s) : Keeps F r (loseFrame x0 s) := by
  unfold loseFrame
  repeat' first
    | with_reducible assumption
    | intro _
    | with_reducible apply keeps_ite
    | with_reducible apply keeps_refuseFrame
    | with_reducible apply keeps_inc
    | with_reducible apply keeps_closeWithError
    | with_reducible apply keeps_modHost
    | with_reducible apply keeps_ite_snd
    | with_reducible apply keeps_foldl_snd
    | with_reducible apply keeps_foldl
    | split
    | dsimp -zeta only
    | with_reducible refine keeps_of_eq (by with_reducible assumption) ?_
    | with_reducible refine keeps_of_eq3 (by with_reducible assumption) ?_
    | dsimp only

theorem keeps_moveIngress {F : Kind → Prop} [May F .free] [May F .regs] [May F .queues] [May F .hosts] [May F .lanes] [May F .laneOf] [May F .banks] [May F .raised] {r s : State} {x0 x1 : _} (h : Keeps F r s) : Keeps F r (moveIngress x0 x1 s) := by
  unfold moveIngress
  repeat' first
    | with_reducible assumption
    | intro _
    | with_reducible apply keeps_ite
    | with_reducible apply keeps_loseFrame
    | with_reducible apply keeps_setPortLane
    | with_reducible apply keeps_modLane
    | with_reducible apply keeps_ite_snd
    | with_reducible apply keeps_foldl_snd
    | with_reducible apply keeps_foldl
    | split
    | dsimp -zeta only
    | with_reducible refine keeps_of_eq (by with_reducible assumption) ?_
    | with_reducible refine keeps_of_eq3 (by with_reducible assumption) ?_
    | dsimp only

theorem keeps_substitute {F : Kind → Prop} [May F .free] [May F .regs] [May F .queues] [May F .hosts] [May F .lanes] [May F .laneOf] [May F .banks] [May F .hub] [May F .raised] {r s : State} {x0 x1 x2 : _} (h : Keeps F r s) : Keeps F r (substitute x0 x1 x2 s) := by
  unfold substitute
  repeat' first
    | with_reducible assumption
    | intro _
    | with_reducible apply keeps_ite
    | with_reducible apply keeps_setLanePort
    | with_reducible apply keeps_moveIngress
    | with_reducible apply keeps_setLaneState
    | with_reducible apply keeps_setFld
    | with_reducible apply keeps_raise
    | with_reducible apply keeps_setSpareState
    | with_reducible apply keeps_ite_snd
    | with_reducible apply keeps_foldl_snd
    | with_reducible apply keeps_foldl
    | split
    | dsimp -zeta only
    | with_reducible refine keeps_of_eq (by with_reducible assumption) ?_
    | with_reducible refine keeps_of_eq3 (by with_reducible assumption) ?_
    | dsimp only

theorem keeps_failSpare {F : Kind → Prop} [May F .regs] [May F .hub] [May F .raised] {r s : State} {x0 x1 : _} (h : Keeps F r s) : Keeps F r (failSpare x0 x1 s) := by
  unfold failSpare
  repeat' first
    | with_reducible assumption
    | intro _
    | with_reducible apply keeps_ite
    | with_reducible apply keeps_setSpareState
    | with_reducible apply keeps_setLaneState
    | with_reducible apply keeps_recordFault
    | with_reducible apply keeps_ite_snd
    | with_reducible apply keeps_foldl_snd
    | with_reducible apply keeps_foldl
    | split
    | dsimp -zeta only
    | with_reducible refine keeps_of_eq (by with_reducible assumption) ?_
    | with_reducible refine keeps_of_eq3 (by with_reducible assumption) ?_
    | dsimp only

theorem keeps_failLane {F : Kind → Prop} [May F .free] [May F .regs] [May F .queues] [May F .hosts] [May F .lanes] [May F .laneOf] [May F .banks] [May F .hub] [May F .raised] {r s : State} {x0 x1 : _} (h : Keeps F r s) : Keeps F r (failLane x0 x1 s) := by
  unfold failLane
  repeat' first
    | with_reducible assumption
    | intro _
    | with_reducible apply keeps_ite
    | with_reducible apply keeps_setSpareState
    | with_reducible apply keeps_modLane
    | with_reducible apply keeps_substitute
    | with_reducible apply keeps_recordFault
    | with_reducible apply keeps_acquire
    | with_reducible apply keeps_setLaneState
    | with_reducible apply keeps_ite_snd
    | with_reducible apply keeps_foldl_snd
    | with_reducible apply keeps_foldl
    | split
    | dsimp -zeta only
    | with_reducible refine keeps_of_eq (by with_reducible assumption) ?_
    | with_reducible refine keeps_of_eq3 (by with_reducible assumption) ?_
    | dsimp only

theorem keeps_showFault {F : Kind → Prop} [May F .regs] [May F .lanes] [May F .eyes] [May F .completions] [May F .claims] [May F .waiting] [May F .later] {r s : State} {x0 x1 : _} (h : Keeps F r s) : Keeps F r (showFault x0 x1 s) := by
  unfold showFault
  repeat' first
    | with_reducible assumption
    | intro _
    | with_reducible apply keeps_ite
    | with_reducible apply keeps_setFld
    | with_reducible apply keeps_inc
    | with_reducible apply keeps_modLane
    | with_reducible apply keeps_abortEye
    | with_reducible apply keeps_ite_snd
    | with_reducible apply keeps_foldl_snd
    | with_reducible apply keeps_foldl
    | split
    | dsimp -zeta only
    | with_reducible refine keeps_of_eq (by with_reducible assumption) ?_
    | with_reducible refine keeps_of_eq3 (by with_reducible assumption) ?_
    | dsimp only

theorem keeps_laneFault {F : Kind → Prop} [May F .free] [May F .regs] [May F .queues] [May F .hosts] [May F .lanes] [May F .laneOf] [May F .banks] [May F .eyes] [May F .completions] [May F .claims] [May F .waiting] [May F .later] [May F .hub] [May F .raised] {r s : State} {x0 x1 : _} (h : Keeps F r s) : Keeps F r (laneFault x0 x1 s) := by
  unfold laneFault
  repeat' first
    | with_reducible assumption
    | intro _
    | with_reducible apply keeps_ite
    | with_reducible apply keeps_showFault
    | with_reducible apply keeps_recordFault
    | with_reducible apply keeps_failLane
    | with_reducible apply keeps_failSpare
    | with_reducible apply keeps_ite_snd
    | with_reducible apply keeps_foldl_snd
    | with_reducible apply keeps_foldl
    | split
    | dsimp -zeta only
    | with_reducible refine keeps_of_eq (by with_reducible assumption) ?_
    | with_reducible refine keeps_of_eq3 (by with_reducible assumption) ?_
    | dsimp only

theorem keeps_completeSwitch {F : Kind → Prop} [May F .regs] [May F .hosts] [May F .hub] [May F .raised] {r s : State} {x0 : _} (h : Keeps F r s) : Keeps F r (completeSwitch x0 s) := by
  unfold completeSwitch
  repeat' first
    | with_reducible assumption
    | intro _
    | with_reducible apply keeps_ite
    | with_reducible apply keeps_modHost
    | with_reducible apply keeps_inc
    | with_reducible apply keeps_setSpareState
    | with_reducible apply keeps_raise
    | with_reducible apply keeps_ite_snd
    | with_reducible apply keeps_foldl_snd
    | with_reducible apply keeps_foldl
    | split
    | dsimp -zeta only
    | with_reducible refine keeps_of_eq (by with_reducible assumption) ?_
    | with_reducible refine keeps_of_eq3 (by with_reducible assumption) ?_
    | dsimp only

theorem keeps_spareIgnored {F : Kind → Prop} [May F .regs] {r s : State} {x0 : _} (h : Keeps F r s) : Keeps F r (spareIgnored x0 s) := by
  unfold spareIgnored
  repeat' first
    | with_reducible assumption
    | intro _
    | with_reducible apply keeps_ite
    | with_reducible apply keeps_setFld
    | with_reducible apply keeps_ite_snd
    | with_reducible apply keeps_foldl_snd
    | with_reducible apply keeps_foldl
    | split
    | dsimp -zeta only
    | with_reducible refine keeps_of_eq (by with_reducible assumption) ?_
    | with_reducible refine keeps_of_eq3 (by with_reducible assumption) ?_
    | dsimp only

theorem keeps_hostDone {F : Kind → Prop} [May F .regs] [May F .hosts] [May F .hub] [May F .raised] {r s : State} {x0 : _} (h : Keeps F r s) : Keeps F r (hostDone x0 s) := by
  unfold hostDone
  repeat' first
    | with_reducible assumption
    | intro _
    | with_reducible apply keeps_ite
    | with_reducible apply keeps_completeSwitch
    | with_reducible apply keeps_setFld
    | with_reducible apply keeps_spareIgnored
    | with_reducible apply keeps_ite_snd
    | with_reducible apply keeps_foldl_snd
    | with_reducible apply keeps_foldl
    | split
    | dsimp -zeta only
    | with_reducible refine keeps_of_eq (by with_reducible assumption) ?_
    | with_reducible refine keeps_of_eq3 (by with_reducible assumption) ?_
    | dsimp only

theorem keeps_askSubstitute {F : Kind → Prop} [May F .free] [May F .regs] [May F .queues] [May F .hosts] [May F .lanes] [May F .laneOf] [May F .banks] [May F .hub] [May F .raised] {r s : State} {x0 x1 : _} (h : Keeps F r s) : Keeps F r (askSubstitute x0 x1 s) := by
  unfold askSubstitute
  repeat' first
    | with_reducible assumption
    | intro _
    | with_reducible apply keeps_ite
    | with_reducible apply keeps_spareIgnored
    | with_reducible apply keeps_recordFault
    | with_reducible apply keeps_failLane
    | with_reducible apply keeps_ite_snd
    | with_reducible apply keeps_foldl_snd
    | with_reducible apply keeps_foldl
    | split
    | dsimp -zeta only
    | with_reducible refine keeps_of_eq (by with_reducible assumption) ?_
    | with_reducible refine keeps_of_eq3 (by with_reducible assumption) ?_
    | dsimp only

theorem keeps_askRevert {F : Kind → Prop} [May F .regs] [May F .lanes] [May F .doms] [May F .hub] {r s : State} {x0 : _} (h : Keeps F r s) : Keeps F r (askRevert x0 s) := by
  unfold askRevert
  repeat' first
    | with_reducible assumption
    | intro _
    | with_reducible apply keeps_ite
    | with_reducible apply keeps_spareIgnored
    | with_reducible apply keeps_octetOn
    | with_reducible apply keeps_setFld
    | with_reducible apply keeps_acquire
    | with_reducible apply keeps_setSpareState
    | with_reducible apply keeps_modLane
    | with_reducible apply keeps_ite_snd
    | with_reducible apply keeps_foldl_snd
    | with_reducible apply keeps_foldl
    | split
    | dsimp -zeta only
    | with_reducible refine keeps_of_eq (by with_reducible assumption) ?_
    | with_reducible refine keeps_of_eq3 (by with_reducible assumption) ?_
    | dsimp only

theorem keeps_writeSpareCfg {F : Kind → Prop} [May F .regs] [May F .lanes] [May F .doms] [May F .eyes] [May F .completions] [May F .claims] [May F .waiting] [May F .later] [May F .hub] {r s : State} {x0 x1 : _} (h : Keeps F r s) : Keeps F r (writeSpareCfg x0 x1 s) := by
  unfold writeSpareCfg
  repeat' first
    | with_reducible assumption
    | intro _
    | with_reducible apply keeps_ite
    | with_reducible apply keeps_setReg
    | with_reducible apply keeps_octetOn
    | with_reducible apply keeps_octetJudge
    | with_reducible apply keeps_setSpareState
    | with_reducible apply keeps_acquire
    | with_reducible apply keeps_abortEye
    | with_reducible apply keeps_modLane
    | with_reducible apply keeps_setLaneState
    | with_reducible apply keeps_setLocks
    | with_reducible apply keeps_prbsUnlock
    | with_reducible apply keeps_ite_snd
    | with_reducible apply keeps_foldl_snd
    | with_reducible apply keeps_foldl
    | split
    | dsimp -zeta only
    | with_reducible refine keeps_of_eq (by with_reducible assumption) ?_
    | with_reducible refine keeps_of_eq3 (by with_reducible assumption) ?_
    | dsimp only

theorem keeps_octetFails {F : Kind → Prop} [May F .free] [May F .regs] [May F .queues] [May F .hosts] [May F .lanes] [May F .laneOf] [May F .banks] [May F .eyes] [May F .completions] [May F .claims] [May F .waiting] [May F .later] [May F .hub] [May F .raised] {r s : State} {x0 : _} (h : Keeps F r s) : Keeps F r (octetFails x0 s) := by
  unfold octetFails
  repeat' first
    | with_reducible assumption
    | intro _
    | with_reducible apply keeps_ite
    | with_reducible apply keeps_prbsUnlock
    | with_reducible apply keeps_abortEye
    | with_reducible apply keeps_laneFault
    | with_reducible apply keeps_modLane
    | with_reducible apply keeps_failSpare
    | with_reducible apply keeps_forEach
    | with_reducible apply keeps_ite_snd
    | with_reducible apply keeps_foldl_snd
    | with_reducible apply keeps_foldl
    | split
    | dsimp -zeta only
    | with_reducible refine keeps_of_eq (by with_reducible assumption) ?_
    | with_reducible refine keeps_of_eq3 (by with_reducible assumption) ?_
    | dsimp only

theorem keeps_octetLocks {F : Kind → Prop} [May F .regs] [May F .lanes] [May F .hub] {r s : State} {x0 : _} (h : Keeps F r s) : Keeps F r (octetLocks x0 s) := by
  unfold octetLocks
  repeat' first
    | with_reducible assumption
    | intro _
    | with_reducible apply keeps_ite
    | with_reducible apply keeps_setLaneState
    | with_reducible apply keeps_setLocks
    | with_reducible apply keeps_modLane
    | with_reducible apply keeps_setSpareState
    | with_reducible apply keeps_forEach
    | with_reducible apply keeps_ite_snd
    | with_reducible apply keeps_foldl_snd
    | with_reducible apply keeps_foldl
    | split
    | dsimp -zeta only
    | with_reducible refine keeps_of_eq (by with_reducible assumption) ?_
    | with_reducible refine keeps_of_eq3 (by with_reducible assumption) ?_
    | dsimp only

end Sys2Proof.Machine
end

