-- ==== Sys2Proof/Laws/KeepsHostLanes.lean ====
section
/-! SUPPORT. What the operations of Machine/HostLanes.lean keep. -/
set_option linter.unusedTactic false
set_option linter.unreachableTactic false
set_option linter.tactic.unusedName false
namespace Sys2Proof.Machine

theorem keeps_execLaneFault {F : Kind → Prop} [May F .free] [May F .regs] [May F .queues] [May F .hosts] [May F .lanes] [May F .laneOf] [May F .banks] [May F .eyes] [May F .completions] [May F .claims] [May F .waiting] [May F .later] [May F .hub] [May F .raised] {r s : State} {x0 x1 : _} (h : Keeps F r s) : OutKeeps F r (execLaneFault x0 x1 s) := by
  unfold execLaneFault
  repeat' first
    | with_reducible assumption
    | intro _
    | with_reducible apply outKeeps_next
    | with_reducible apply outKeeps_ite
    | with_reducible apply keeps_ite
    | with_reducible apply keeps_laneFault
    | with_reducible apply keeps_ite_snd
    | with_reducible apply keeps_foldl_snd
    | with_reducible apply keeps_foldl
    | split
    | dsimp -zeta only
    | with_reducible refine keeps_of_eq (by with_reducible assumption) ?_
    | with_reducible refine keeps_of_eq3 (by with_reducible assumption) ?_
    | dsimp only

theorem keeps_execHostDone {F : Kind → Prop} [May F .regs] [May F .hosts] [May F .hub] [May F .raised] {r s : State} {x0 : _} (h : Keeps F r s) : OutKeeps F r (execHostDone x0 s) := by
  unfold execHostDone
  repeat' first
    | with_reducible assumption
    | intro _
    | with_reducible apply outKeeps_next
    | with_reducible apply outKeeps_ite
    | with_reducible apply keeps_ite
    | with_reducible apply keeps_hostDone
    | with_reducible apply keeps_ite_snd
    | with_reducible apply keeps_foldl_snd
    | with_reducible apply keeps_foldl
    | split
    | dsimp -zeta only
    | with_reducible refine keeps_of_eq (by with_reducible assumption) ?_
    | with_reducible refine keeps_of_eq3 (by with_reducible assumption) ?_
    | dsimp only

theorem keeps_execHostWaitExpire {F : Kind → Prop} [May F .regs] [May F .hosts] [May F .hub] [May F .raised] {r s : State} {x0 : _} (h : Keeps F r s) : OutKeeps F r (execHostWaitExpire x0 s) := by
  unfold execHostWaitExpire
  repeat' first
    | with_reducible assumption
    | intro _
    | with_reducible apply outKeeps_next
    | with_reducible apply outKeeps_ite
    | with_reducible apply keeps_ite
    | with_reducible apply keeps_raise
    | with_reducible apply keeps_inc
    | with_reducible apply keeps_completeSwitch
    | with_reducible apply keeps_ite_snd
    | with_reducible apply keeps_foldl_snd
    | with_reducible apply keeps_foldl
    | split
    | dsimp -zeta only
    | with_reducible refine keeps_of_eq (by with_reducible assumption) ?_
    | with_reducible refine keeps_of_eq3 (by with_reducible assumption) ?_
    | dsimp only

theorem keeps_execSubstitute {F : Kind → Prop} [May F .free] [May F .regs] [May F .queues] [May F .hosts] [May F .lanes] [May F .laneOf] [May F .banks] [May F .hub] [May F .raised] {r s : State} {x0 x1 : _} (h : Keeps F r s) : OutKeeps F r (execSubstitute x0 x1 s) := by
  unfold execSubstitute
  repeat' first
    | with_reducible assumption
    | intro _
    | with_reducible apply outKeeps_next
    | with_reducible apply outKeeps_ite
    | with_reducible apply keeps_ite
    | with_reducible apply keeps_askSubstitute
    | with_reducible apply keeps_ite_snd
    | with_reducible apply keeps_foldl_snd
    | with_reducible apply keeps_foldl
    | split
    | dsimp -zeta only
    | with_reducible refine keeps_of_eq (by with_reducible assumption) ?_
    | with_reducible refine keeps_of_eq3 (by with_reducible assumption) ?_
    | dsimp only

theorem keeps_execRevert {F : Kind → Prop} [May F .regs] [May F .lanes] [May F .doms] [May F .hub] {r s : State} {x0 : _} (h : Keeps F r s) : OutKeeps F r (execRevert x0 s) := by
  unfold execRevert
  repeat' first
    | with_reducible assumption
    | intro _
    | with_reducible apply outKeeps_next
    | with_reducible apply outKeeps_ite
    | with_reducible apply keeps_ite
    | with_reducible apply keeps_askRevert
    | with_reducible apply keeps_ite_snd
    | with_reducible apply keeps_foldl_snd
    | with_reducible apply keeps_foldl
    | split
    | dsimp -zeta only
    | with_reducible refine keeps_of_eq (by with_reducible assumption) ?_
    | with_reducible refine keeps_of_eq3 (by with_reducible assumption) ?_
    | dsimp only

theorem keeps_writeLaneEnable {F : Kind → Prop} [May F .regs] [May F .pairs] [May F .links] [May F .lanes] [May F .doms] [May F .eyes] [May F .completions] [May F .claims] [May F .waiting] [May F .later] [May F .hub] [May F .raised] {r s : State} {x0 x1 : _} (h : Keeps F r s) : Keeps F r (writeLaneEnable x0 x1 s) := by
  unfold writeLaneEnable
  repeat' first
    | with_reducible assumption
    | intro _
    | with_reducible apply keeps_ite
    | with_reducible apply keeps_enableLane
    | with_reducible apply keeps_disableLane
    | with_reducible apply keeps_ite_snd
    | with_reducible apply keeps_foldl_snd
    | with_reducible apply keeps_foldl
    | split
    | dsimp -zeta only
    | with_reducible refine keeps_of_eq (by with_reducible assumption) ?_
    | with_reducible refine keeps_of_eq3 (by with_reducible assumption) ?_
    | dsimp only

theorem keeps_writeLaneRate {F : Kind → Prop} [May F .regs] {r s : State} {x0 x1 : _} (h : Keeps F r s) : Keeps F r (writeLaneRate x0 x1 s) := by
  unfold writeLaneRate
  repeat' first
    | with_reducible assumption
    | intro _
    | with_reducible apply keeps_ite
    | with_reducible apply keeps_setFld
    | with_reducible apply keeps_ite_snd
    | with_reducible apply keeps_foldl_snd
    | with_reducible apply keeps_foldl
    | split
    | dsimp -zeta only
    | with_reducible refine keeps_of_eq (by with_reducible assumption) ?_
    | with_reducible refine keeps_of_eq3 (by with_reducible assumption) ?_
    | dsimp only

theorem keeps_execLaneEnableWrite {F : Kind → Prop} [May F .regs] [May F .pairs] [May F .links] [May F .lanes] [May F .doms] [May F .eyes] [May F .completions] [May F .claims] [May F .waiting] [May F .later] [May F .hub] [May F .raised] {r s : State} {x0 x1 : _} (h : Keeps F r s) : OutKeeps F r (execLaneEnableWrite x0 x1 s) := by
  unfold execLaneEnableWrite
  repeat' first
    | with_reducible assumption
    | intro _
    | with_reducible apply outKeeps_next
    | with_reducible apply outKeeps_ite
    | with_reducible apply keeps_ite
    | with_reducible apply keeps_writeLaneEnable
    | with_reducible apply keeps_ite_snd
    | with_reducible apply keeps_foldl_snd
    | with_reducible apply keeps_foldl
    | split
    | dsimp -zeta only
    | with_reducible refine keeps_of_eq (by with_reducible assumption) ?_
    | with_reducible refine keeps_of_eq3 (by with_reducible assumption) ?_
    | dsimp only

theorem keeps_execLaneRateWrite {F : Kind → Prop} [May F .regs] {r s : State} {x0 x1 : _} (h : Keeps F r s) : OutKeeps F r (execLaneRateWrite x0 x1 s) := by
  unfold execLaneRateWrite
  repeat' first
    | with_reducible assumption
    | intro _
    | with_reducible apply outKeeps_next
    | with_reducible apply outKeeps_ite
    | with_reducible apply keeps_ite
    | with_reducible apply keeps_writeLaneRate
    | with_reducible apply keeps_ite_snd
    | with_reducible apply keeps_foldl_snd
    | with_reducible apply keeps_foldl
    | split
    | dsimp -zeta only
    | with_reducible refine keeps_of_eq (by with_reducible assumption) ?_
    | with_reducible refine keeps_of_eq3 (by with_reducible assumption) ?_
    | dsimp only

theorem keeps_execLaneAcquired {F : Kind → Prop} [May F .free] [May F .regs] [May F .pairs] [May F .links] [May F .queues] [May F .hosts] [May F .lanes] [May F .laneOf] [May F .banks] [May F .raised] {r s : State} {x0 : _} (h : Keeps F r s) : OutKeeps F r (execLaneAcquired x0 s) := by
  unfold execLaneAcquired
  repeat' first
    | with_reducible assumption
    | intro _
    | with_reducible apply outKeeps_next
    | with_reducible apply outKeeps_ite
    | with_reducible apply keeps_ite
    | with_reducible apply keeps_adaptCtle
    | with_reducible apply keeps_setLocks
    | with_reducible apply keeps_setLaneState
    | with_reducible apply keeps_setLanePort
    | with_reducible apply keeps_moveIngress
    | with_reducible apply keeps_modLane
    | with_reducible apply keeps_rateTaken
    | with_reducible apply keeps_ite_snd
    | with_reducible apply keeps_foldl_snd
    | with_reducible apply keeps_foldl
    | split
    | dsimp -zeta only
    | with_reducible refine keeps_of_eq (by with_reducible assumption) ?_
    | with_reducible refine keeps_of_eq3 (by with_reducible assumption) ?_
    | dsimp only

theorem keeps_writeFfe {F : Kind → Prop} [May F .regs] [May F .out] {r s : State} {x0 x1 : _} (h : Keeps F r s) : Keeps F r (writeFfe x0 x1 s) := by
  unfold writeFfe
  repeat' first
    | with_reducible assumption
    | intro _
    | with_reducible apply keeps_ite
    | with_reducible apply keeps_setFld
    | with_reducible apply keeps_emit
    | with_reducible apply keeps_ite_snd
    | with_reducible apply keeps_foldl_snd
    | with_reducible apply keeps_foldl
    | split
    | dsimp -zeta only
    | with_reducible refine keeps_of_eq (by with_reducible assumption) ?_
    | with_reducible refine keeps_of_eq3 (by with_reducible assumption) ?_
    | dsimp only

theorem keeps_execHlTxFfeWrite {F : Kind → Prop} [May F .regs] [May F .out] {r s : State} {x0 x1 : _} (h : Keeps F r s) : OutKeeps F r (execHlTxFfeWrite x0 x1 s) := by
  unfold execHlTxFfeWrite
  repeat' first
    | with_reducible assumption
    | intro _
    | with_reducible apply outKeeps_next
    | with_reducible apply outKeeps_ite
    | with_reducible apply keeps_ite
    | with_reducible apply keeps_writeFfe
    | with_reducible apply keeps_ite_snd
    | with_reducible apply keeps_foldl_snd
    | with_reducible apply keeps_foldl
    | split
    | dsimp -zeta only
    | with_reducible refine keeps_of_eq (by with_reducible assumption) ?_
    | with_reducible refine keeps_of_eq3 (by with_reducible assumption) ?_
    | dsimp only

theorem keeps_execSpareModeWrite {F : Kind → Prop} [May F .regs] [May F .lanes] [May F .doms] [May F .eyes] [May F .completions] [May F .claims] [May F .waiting] [May F .later] [May F .hub] {r s : State} {x0 x1 : _} (h : Keeps F r s) : OutKeeps F r (execSpareModeWrite x0 x1 s) := by
  unfold execSpareModeWrite
  repeat' first
    | with_reducible assumption
    | intro _
    | with_reducible apply outKeeps_next
    | with_reducible apply outKeeps_ite
    | with_reducible apply keeps_ite
    | with_reducible apply keeps_writeSpareCfg
    | with_reducible apply keeps_ite_snd
    | with_reducible apply keeps_foldl_snd
    | with_reducible apply keeps_foldl
    | split
    | dsimp -zeta only
    | with_reducible refine keeps_of_eq (by with_reducible assumption) ?_
    | with_reducible refine keeps_of_eq3 (by with_reducible assumption) ?_
    | dsimp only

theorem keeps_writeEyeCtrl {F : Kind → Prop} [May F .regs] [May F .lanes] [May F .eyes] [May F .completions] [May F .claims] [May F .waiting] [May F .later] {r s : State} {x0 x1 : _} (h : Keeps F r s) : Keeps F r (writeEyeCtrl x0 x1 s) := by
  unfold writeEyeCtrl
  repeat' first
    | with_reducible assumption
    | intro _
    | with_reducible apply keeps_ite
    | with_reducible apply keeps_abortEye
    | with_reducible apply keeps_setFld
    | with_reducible apply keeps_startEye
    | with_reducible apply keeps_ite_snd
    | with_reducible apply keeps_foldl_snd
    | with_reducible apply keeps_foldl
    | split
    | dsimp -zeta only
    | with_reducible refine keeps_of_eq (by with_reducible assumption) ?_
    | with_reducible refine keeps_of_eq3 (by with_reducible assumption) ?_
    | dsimp only

theorem keeps_execEyeScanStart {F : Kind → Prop} [May F .regs] [May F .lanes] [May F .eyes] [May F .completions] [May F .claims] [May F .waiting] [May F .later] {r s : State} {x0 x1 : _} (h : Keeps F r s) : OutKeeps F r (execEyeScanStart x0 x1 s) := by
  unfold execEyeScanStart
  repeat' first
    | with_reducible assumption
    | intro _
    | with_reducible apply outKeeps_next
    | with_reducible apply outKeeps_ite
    | with_reducible apply keeps_ite
    | with_reducible apply keeps_writeEyeCtrl
    | with_reducible apply keeps_ite_snd
    | with_reducible apply keeps_foldl_snd
    | with_reducible apply keeps_foldl
    | split
    | dsimp -zeta only
    | with_reducible refine keeps_of_eq (by with_reducible assumption) ?_
    | with_reducible refine keeps_of_eq3 (by with_reducible assumption) ?_
    | dsimp only

theorem keeps_execEyeScanDone {F : Kind → Prop} [May F .regs] [May F .lanes] [May F .jobs] [May F .eyes] [May F .completions] [May F .claims] [May F .waiting] [May F .later] {r s : State} {x0 x1 : _} (h : Keeps F r s) : OutKeeps F r (execEyeScanDone x0 x1 s) := by
  unfold execEyeScanDone
  repeat' first
    | with_reducible assumption
    | intro _
    | with_reducible apply outKeeps_next
    | with_reducible apply outKeeps_ite
    | with_reducible apply keeps_ite
    | with_reducible apply keeps_set64
    | with_reducible apply keeps_setFld
    | with_reducible apply keeps_startEye
    | with_reducible apply keeps_aimEye
    | with_reducible apply keeps_finishJob
    | with_reducible apply keeps_modLane
    | with_reducible apply keeps_ite_snd
    | with_reducible apply keeps_foldl_snd
    | with_reducible apply keeps_foldl
    | split
    | dsimp -zeta only
    | with_reducible refine keeps_of_eq (by with_reducible assumption) ?_
    | with_reducible refine keeps_of_eq3 (by with_reducible assumption) ?_
    | dsimp only
    | with_reducible apply keeps_upd_jobs
    | with_reducible apply keeps_upd_eyes

theorem keeps_writePrbsCtrl {F : Kind → Prop} [May F .regs] [May F .lanes] [May F .claims] [May F .waiting] [May F .later] {r s : State} {x0 x1 : _} (h : Keeps F r s) : Keeps F r (writePrbsCtrl x0 x1 s) := by
  unfold writePrbsCtrl
  repeat' first
    | with_reducible assumption
    | intro _
    | with_reducible apply keeps_ite
    | with_reducible apply keeps_setFld
    | with_reducible apply keeps_setPrbs
    | with_reducible apply keeps_injectBits
    | with_reducible apply keeps_ite_snd
    | with_reducible apply keeps_foldl_snd
    | with_reducible apply keeps_foldl
    | split
    | dsimp -zeta only
    | with_reducible refine keeps_of_eq (by with_reducible assumption) ?_
    | with_reducible refine keeps_of_eq3 (by with_reducible assumption) ?_
    | dsimp only

theorem keeps_execPrbsEnableWrite {F : Kind → Prop} [May F .regs] [May F .lanes] [May F .claims] [May F .waiting] [May F .later] {r s : State} {x0 x1 : _} (h : Keeps F r s) : OutKeeps F r (execPrbsEnableWrite x0 x1 s) := by
  unfold execPrbsEnableWrite
  repeat' first
    | with_reducible assumption
    | intro _
    | with_reducible apply outKeeps_next
    | with_reducible apply outKeeps_ite
    | with_reducible apply keeps_ite
    | with_reducible apply keeps_writePrbsCtrl
    | with_reducible apply keeps_ite_snd
    | with_reducible apply keeps_foldl_snd
    | with_reducible apply keeps_foldl
    | split
    | dsimp -zeta only
    | with_reducible refine keeps_of_eq (by with_reducible assumption) ?_
    | with_reducible refine keeps_of_eq3 (by with_reducible assumption) ?_
    | dsimp only

theorem keeps_execPrbsInjSingle {F : Kind → Prop} [May F .lanes] {r s : State} {x0 : _} (h : Keeps F r s) : OutKeeps F r (execPrbsInjSingle x0 s) := by
  unfold execPrbsInjSingle
  repeat' first
    | with_reducible assumption
    | intro _
    | with_reducible apply outKeeps_next
    | with_reducible apply outKeeps_ite
    | with_reducible apply keeps_ite
    | with_reducible apply keeps_injectBits
    | with_reducible apply keeps_ite_snd
    | with_reducible apply keeps_foldl_snd
    | with_reducible apply keeps_foldl
    | split
    | dsimp -zeta only
    | with_reducible refine keeps_of_eq (by with_reducible assumption) ?_
    | with_reducible refine keeps_of_eq3 (by with_reducible assumption) ?_
    | dsimp only

theorem keeps_execPrbsInjBurst {F : Kind → Prop} [May F .lanes] {r s : State} {x0 : _} (h : Keeps F r s) : OutKeeps F r (execPrbsInjBurst x0 s) := by
  unfold execPrbsInjBurst
  repeat' first
    | with_reducible assumption
    | intro _
    | with_reducible apply outKeeps_next
    | with_reducible apply outKeeps_ite
    | with_reducible apply keeps_ite
    | with_reducible apply keeps_injectBits
    | with_reducible apply keeps_ite_snd
    | with_reducible apply keeps_foldl_snd
    | with_reducible apply keeps_foldl
    | split
    | dsimp -zeta only
    | with_reducible refine keeps_of_eq (by with_reducible assumption) ?_
    | with_reducible refine keeps_of_eq3 (by with_reducible assumption) ?_
    | dsimp only

theorem keeps_execPrbsCheckerLock {F : Kind → Prop} [May F .regs] {r s : State} {x0 : _} (h : Keeps F r s) : OutKeeps F r (execPrbsCheckerLock x0 s) := by
  unfold execPrbsCheckerLock
  repeat' first
    | with_reducible assumption
    | intro _
    | with_reducible apply outKeeps_next
    | with_reducible apply outKeeps_ite
    | with_reducible apply keeps_ite
    | with_reducible apply keeps_setFld
    | with_reducible apply keeps_ite_snd
    | with_reducible apply keeps_foldl_snd
    | with_reducible apply keeps_foldl
    | split
    | dsimp -zeta only
    | with_reducible refine keeps_of_eq (by with_reducible assumption) ?_
    | with_reducible refine keeps_of_eq3 (by with_reducible assumption) ?_
    | dsimp only

theorem keeps_execPrbsLockLoss {F : Kind → Prop} [May F .regs] [May F .lanes] {r s : State} {x0 x1 x2 : _} (h : Keeps F r s) : OutKeeps F r (execPrbsLockLoss x0 x1 x2 s) := by
  unfold execPrbsLockLoss
  repeat' first
    | with_reducible assumption
    | intro _
    | with_reducible apply outKeeps_next
    | with_reducible apply outKeeps_ite
    | with_reducible apply keeps_ite
    | with_reducible apply keeps_add64
    | with_reducible apply keeps_prbsUnlock
    | with_reducible apply keeps_ite_snd
    | with_reducible apply keeps_foldl_snd
    | with_reducible apply keeps_foldl
    | split
    | dsimp -zeta only
    | with_reducible refine keeps_of_eq (by with_reducible assumption) ?_
    | with_reducible refine keeps_of_eq3 (by with_reducible assumption) ?_
    | dsimp only

end Sys2Proof.Machine
end

