-- ==== Sys2Proof/Laws/KeepsSliceOps.lean ====
section
/-! SUPPORT. What the operations of Machine/SliceOps.lean keep. -/
set_option linter.unusedTactic false
set_option linter.unreachableTactic false
set_option linter.tactic.unusedName false
namespace Sys2Proof.Machine

theorem keeps_useRow {F : Kind → Prop} [May F .rows] {r s : State} {x0 x1 : _} (h : Keeps F r s) : Keeps F r (useRow x0 x1 s) := by
  unfold useRow
  repeat' first
    | with_reducible assumption
    | intro _
    | with_reducible apply keeps_ite
    | with_reducible apply keeps_ite_snd
    | with_reducible apply keeps_foldl_snd
    | with_reducible apply keeps_foldl
    | split
    | dsimp -zeta only
    | with_reducible refine keeps_of_eq (by with_reducible assumption) ?_
    | with_reducible refine keeps_of_eq3 (by with_reducible assumption) ?_
    | dsimp only
    | with_reducible apply keeps_rows_put

theorem keeps_showRows {F : Kind → Prop} [May F .regs] {r s : State} {x0 x1 : _} (h : Keeps F r s) : Keeps F r (showRows x0 x1 s) := by
  unfold showRows
  repeat' first
    | with_reducible assumption
    | intro _
    | with_reducible apply keeps_ite
    | with_reducible apply keeps_setFld
    | with_reducible apply keeps_ite_snd
    | with_reducible apply keeps_foldl_snd
    | with_reducible apply keeps_foldl
    | split
    | dsimp -zeta only
    | with_reducible refine keeps_of_eq (by with_reducible assumption) ?_
    | with_reducible refine keeps_of_eq3 (by with_reducible assumption) ?_
    | dsimp only

theorem keeps_applyTileRepair {F : Kind → Prop} [May F .regs] [May F .pairs] [May F .rows] {r s : State} {x0 x1 : _} (h : Keeps F r s) : Keeps F r (applyTileRepair x0 x1 s) := by
  unfold applyTileRepair
  repeat' first
    | with_reducible assumption
    | intro _
    | with_reducible apply keeps_ite
    | with_reducible apply keeps_setFld
    | with_reducible apply keeps_modPair
    | with_reducible apply keeps_showRows
    | with_reducible apply keeps_useRow
    | with_reducible apply keeps_ite_snd
    | with_reducible apply keeps_foldl_snd
    | with_reducible apply keeps_foldl
    | split
    | dsimp -zeta only
    | with_reducible refine keeps_of_eq (by with_reducible assumption) ?_
    | with_reducible refine keeps_of_eq3 (by with_reducible assumption) ?_
    | dsimp only

theorem keeps_rebuildSlices {F : Kind → Prop} [May F .regs] [May F .pairs] [May F .rows] {r s : State} {x0 : _} (h : Keeps F r s) : Keeps F r (rebuildSlices x0 s) := by
  unfold rebuildSlices
  repeat' first
    | with_reducible assumption
    | intro _
    | with_reducible apply keeps_ite
    | with_reducible apply keeps_clearReg
    | with_reducible apply keeps_applyTileRepair
    | with_reducible apply keeps_setSliceState
    | with_reducible apply keeps_setFeSlice
    | with_reducible apply keeps_showSpares
    | with_reducible apply keeps_forEach
    | with_reducible apply keeps_ite_snd
    | with_reducible apply keeps_foldl_snd
    | with_reducible apply keeps_foldl
    | split
    | dsimp -zeta only
    | with_reducible refine keeps_of_eq (by with_reducible assumption) ?_
    | with_reducible refine keeps_of_eq3 (by with_reducible assumption) ?_
    | dsimp only
    | with_reducible apply keeps_rows_filter

theorem keeps_fillBanks {F : Kind → Prop} [May F .regs] {r s : State} {k : Nat} (h : Keeps F r s) : Keeps F r (fillBanks k s) := by
  induction k generalizing s with
  | zero => exact keeps_showBanks h
  | succ k ih =>
    unfold fillBanks
    refine keeps_ite ?_ (keeps_showBanks h)
    split
    · exact ih (keeps_setBankState h)
    · exact keeps_showBanks h

theorem keeps_rebuildBanks {F : Kind → Prop} [May F .regs] [May F .rows] {r s : State} (h : Keeps F r s) : Keeps F r (rebuildBanks s) := by
  unfold rebuildBanks
  repeat' first
    | with_reducible assumption
    | intro _
    | with_reducible apply keeps_ite
    | with_reducible apply keeps_clearReg
    | with_reducible apply keeps_setBankState
    | with_reducible apply keeps_useRow
    | with_reducible apply keeps_fillBanks
    | with_reducible apply keeps_forEach
    | with_reducible apply keeps_ite_snd
    | with_reducible apply keeps_foldl_snd
    | with_reducible apply keeps_foldl
    | split
    | dsimp -zeta only
    | with_reducible refine keeps_of_eq (by with_reducible assumption) ?_
    | with_reducible refine keeps_of_eq3 (by with_reducible assumption) ?_
    | dsimp only
    | with_reducible apply keeps_rows_filter

theorem keeps_moveBank {F : Kind → Prop} [May F .regs] [May F .raised] {r s : State} {x0 x1 : _} (h : Keeps F r s) : Keeps F r (moveBank x0 x1 s) := by
  unfold moveBank
  repeat' first
    | with_reducible assumption
    | intro _
    | with_reducible apply keeps_ite
    | with_reducible apply keeps_fillBanks
    | with_reducible apply keeps_raise
    | with_reducible apply keeps_setBankState
    | with_reducible apply keeps_ite_snd
    | with_reducible apply keeps_foldl_snd
    | with_reducible apply keeps_foldl
    | split
    | dsimp -zeta only
    | with_reducible refine keeps_of_eq (by with_reducible assumption) ?_
    | with_reducible refine keeps_of_eq3 (by with_reducible assumption) ?_
    | dsimp only

theorem keeps_startSwap {F : Kind → Prop} [May F .regs] [May F .tiles] {r s : State} {x0 x1 x2 x3 x4 : _} (h : Keeps F r s) : Keeps F r (startSwap x0 x1 x2 x3 x4 s) := by
  unfold startSwap
  repeat' first
    | with_reducible assumption
    | intro _
    | with_reducible apply keeps_ite
    | with_reducible apply keeps_modTile
    | with_reducible apply keeps_setSliceState
    | with_reducible apply keeps_ite_snd
    | with_reducible apply keeps_foldl_snd
    | with_reducible apply keeps_foldl
    | split
    | dsimp -zeta only
    | with_reducible refine keeps_of_eq (by with_reducible assumption) ?_
    | with_reducible refine keeps_of_eq3 (by with_reducible assumption) ?_
    | dsimp only

theorem keeps_stageSwap {F : Kind → Prop} [May F .tiles] {r s : State} {x0 x1 x2 : _} (h : Keeps F r s) : Keeps F r (stageSwap x0 x1 x2 s) := by
  unfold stageSwap
  repeat' first
    | with_reducible assumption
    | intro _
    | with_reducible apply keeps_ite
    | with_reducible apply keeps_modTile
    | with_reducible apply keeps_ite_snd
    | with_reducible apply keeps_foldl_snd
    | with_reducible apply keeps_foldl
    | split
    | dsimp -zeta only
    | with_reducible refine keeps_of_eq (by with_reducible assumption) ?_
    | with_reducible refine keeps_of_eq3 (by with_reducible assumption) ?_
    | dsimp only

theorem keeps_askSwitch {F : Kind → Prop} [May F .regs] [May F .tiles] {r s : State} {x0 x1 : _} (h : Keeps F r s) : Keeps F r (askSwitch x0 x1 s) := by
  unfold askSwitch
  repeat' first
    | with_reducible assumption
    | intro _
    | with_reducible apply keeps_ite
    | with_reducible apply keeps_stageSwap
    | with_reducible apply keeps_showSpares
    | with_reducible apply keeps_modTile
    | with_reducible apply keeps_ite_snd
    | with_reducible apply keeps_foldl_snd
    | with_reducible apply keeps_foldl
    | split
    | dsimp -zeta only
    | with_reducible refine keeps_of_eq (by with_reducible assumption) ?_
    | with_reducible refine keeps_of_eq3 (by with_reducible assumption) ?_
    | dsimp only

theorem keeps_showBist {F : Kind → Prop} [May F .regs] {r s : State} (h : Keeps F r s) : Keeps F r (showBist s) := by
  unfold showBist
  repeat' first
    | with_reducible assumption
    | intro _
    | with_reducible apply keeps_ite
    | with_reducible apply keeps_setFld
    | with_reducible apply keeps_setReg
    | with_reducible apply keeps_ite_snd
    | with_reducible apply keeps_foldl_snd
    | with_reducible apply keeps_foldl
    | split
    | dsimp -zeta only
    | with_reducible refine keeps_of_eq (by with_reducible assumption) ?_
    | with_reducible refine keeps_of_eq3 (by with_reducible assumption) ?_
    | dsimp only

theorem keeps_addTest {F : Kind → Prop} [May F .regs] [May F .tests] {r s : State} {x0 x1 x2 x3 x4 x5 : _} (h : Keeps F r s) : Keeps F r (addTest x0 x1 x2 x3 x4 x5 s) := by
  unfold addTest
  repeat' first
    | with_reducible assumption
    | intro _
    | with_reducible apply keeps_ite
    | with_reducible apply keeps_showBist
    | with_reducible apply keeps_ite_snd
    | with_reducible apply keeps_foldl_snd
    | with_reducible apply keeps_foldl
    | split
    | dsimp -zeta only
    | with_reducible refine keeps_of_eq (by with_reducible assumption) ?_
    | with_reducible refine keeps_of_eq3 (by with_reducible assumption) ?_
    | dsimp only
    | with_reducible apply keeps_upd_tests

theorem keeps_putTest {F : Kind → Prop} [May F .regs] [May F .tests] {r s : State} {x0 : _} (h : Keeps F r s) : Keeps F r (putTest x0 s) := by
  unfold putTest
  repeat' first
    | with_reducible assumption
    | intro _
    | with_reducible apply keeps_ite
    | with_reducible apply keeps_showBist
    | with_reducible apply keeps_ite_snd
    | with_reducible apply keeps_foldl_snd
    | with_reducible apply keeps_foldl
    | split
    | dsimp -zeta only
    | with_reducible refine keeps_of_eq (by with_reducible assumption) ?_
    | with_reducible refine keeps_of_eq3 (by with_reducible assumption) ?_
    | dsimp only
    | with_reducible apply keeps_upd_tests

theorem keeps_beginUnit {F : Kind → Prop} [May F .regs] [May F .links] [May F .tiles] [May F .tests] [May F .out] {r s : State} {x0 x1 x2 x3 : _} (h : Keeps F r s) : Keeps F r (beginUnit x0 x1 x2 x3 s) := by
  unfold beginUnit
  repeat' first
    | with_reducible assumption
    | intro _
    | with_reducible apply keeps_ite
    | with_reducible apply keeps_addTest
    | with_reducible apply keeps_startSwap
    | with_reducible apply keeps_wakePort
    | with_reducible apply keeps_setSliceState
    | with_reducible apply keeps_fillBanks
    | with_reducible apply keeps_setBankState
    | with_reducible apply keeps_showBanks
    | with_reducible apply keeps_inc
    | with_reducible apply keeps_setFld
    | with_reducible apply keeps_ite_snd
    | with_reducible apply keeps_foldl_snd
    | with_reducible apply keeps_foldl
    | split
    | dsimp -zeta only
    | with_reducible refine keeps_of_eq (by with_reducible assumption) ?_
    | with_reducible refine keeps_of_eq3 (by with_reducible assumption) ?_
    | dsimp only

theorem keeps_releaseOwn {F : Kind → Prop} [May F .regs] [May F .claims] [May F .waiting] [May F .later] {r s : State} {x0 : _} (h : Keeps F r s) : Keeps F r (releaseOwn x0 s) := by
  unfold releaseOwn
  repeat' first
    | with_reducible assumption
    | intro _
    | with_reducible apply keeps_ite
    | with_reducible apply keeps_releaseClaim
    | with_reducible apply keeps_ite_snd
    | with_reducible apply keeps_foldl_snd
    | with_reducible apply keeps_foldl
    | split
    | dsimp -zeta only
    | with_reducible refine keeps_of_eq (by with_reducible assumption) ?_
    | with_reducible refine keeps_of_eq3 (by with_reducible assumption) ?_
    | dsimp only

theorem keeps_endTest {F : Kind → Prop} [May F .regs] [May F .completions] [May F .claims] [May F .waiting] [May F .later] [May F .tests] {r s : State} {x0 x1 x2 : _} (h : Keeps F r s) : Keeps F r (endTest x0 x1 x2 s) := by
  unfold endTest
  repeat' first
    | with_reducible assumption
    | intro _
    | with_reducible apply keeps_ite
    | with_reducible apply keeps_setReg
    | with_reducible apply keeps_inc
    | with_reducible apply keeps_showBist
    | with_reducible apply keeps_releaseOwn
    | with_reducible apply keeps_finishJob
    | with_reducible apply keeps_ite_snd
    | with_reducible apply keeps_foldl_snd
    | with_reducible apply keeps_foldl
    | split
    | dsimp -zeta only
    | with_reducible refine keeps_of_eq (by with_reducible assumption) ?_
    | with_reducible refine keeps_of_eq3 (by with_reducible assumption) ?_
    | dsimp only
    | with_reducible apply keeps_upd_tests

theorem keeps_preempt {F : Kind → Prop} [May F .regs] [May F .tiles] [May F .completions] [May F .claims] [May F .waiting] [May F .later] [May F .tests] [May F .raised] {r s : State} {x0 x1 x2 : _} (h : Keeps F r s) : Keeps F r (preempt x0 x1 x2 s) := by
  unfold preempt
  repeat' first
    | with_reducible assumption
    | intro _
    | with_reducible apply keeps_ite
    | with_reducible apply keeps_inc
    | with_reducible apply keeps_abandonSwap
    | with_reducible apply keeps_ite_snd
    | with_reducible apply keeps_foldl_snd
    | with_reducible apply keeps_foldl
    | split
    | dsimp -zeta only
    | with_reducible refine keeps_of_eq (by with_reducible assumption) ?_
    | with_reducible refine keeps_of_eq3 (by with_reducible assumption) ?_
    | dsimp only

theorem keeps_replaceSlice {F : Kind → Prop} [May F .free] [May F .regs] [May F .ports] [May F .pairs] [May F .links] [May F .queues] [May F .banks] [May F .tiles] [May F .diags] [May F .completions] [May F .claims] [May F .waiting] [May F .later] [May F .tests] [May F .raised] {r s : State} {x0 x1 x2 x3 x4 : _} (h : Keeps F r s) : Keeps F r (replaceSlice x0 x1 x2 x3 x4 s) := by
  unfold replaceSlice
  repeat' first
    | with_reducible assumption
    | intro _
    | with_reducible apply keeps_ite
    | with_reducible apply keeps_modTile
    | with_reducible apply keeps_preempt
    | with_reducible apply keeps_setSliceState
    | with_reducible apply keeps_showSpares
    | with_reducible apply keeps_raise
    | with_reducible apply keeps_showBist
    | with_reducible apply keeps_showLink
    | with_reducible apply keeps_eeiBreak
    | with_reducible apply keeps_setFeSlice
    | with_reducible apply keeps_askInternal
    | with_reducible apply keeps_pairFault
    | with_reducible apply keeps_ite_snd
    | with_reducible apply keeps_foldl_snd
    | with_reducible apply keeps_foldl
    | split
    | dsimp -zeta only
    | with_reducible refine keeps_of_eq (by with_reducible assumption) ?_
    | with_reducible refine keeps_of_eq3 (by with_reducible assumption) ?_
    | dsimp only

theorem keeps_sliceFault {F : Kind → Prop} [May F .free] [May F .regs] [May F .ports] [May F .pairs] [May F .links] [May F .queues] [May F .banks] [May F .tiles] [May F .diags] [May F .completions] [May F .claims] [May F .waiting] [May F .later] [May F .tests] [May F .raised] {r s : State} {x0 x1 x2 : _} (h : Keeps F r s) : Keeps F r (sliceFault x0 x1 x2 s) := by
  unfold sliceFault
  repeat' first
    | with_reducible assumption
    | intro _
    | with_reducible apply keeps_ite
    | with_reducible apply keeps_setFld
    | with_reducible apply keeps_inc
    | with_reducible apply keeps_askRepair
    | with_reducible apply keeps_abandonSwap
    | with_reducible apply keeps_setSliceState
    | with_reducible apply keeps_replaceSlice
    | with_reducible apply keeps_askInternal
    | with_reducible apply keeps_raise
    | with_reducible apply keeps_abortReflect
    | with_reducible apply keeps_forEach
    | with_reducible apply keeps_ite_snd
    | with_reducible apply keeps_foldl_snd
    | with_reducible apply keeps_foldl
    | split
    | dsimp -zeta only
    | with_reducible refine keeps_of_eq (by with_reducible assumption) ?_
    | with_reducible refine keeps_of_eq3 (by with_reducible assumption) ?_
    | dsimp only

theorem keeps_connectFault {F : Kind → Prop} [May F .free] [May F .regs] [May F .ports] [May F .pairs] [May F .links] [May F .queues] [May F .coef] [May F .seeds] [May F .banks] [May F .tiles] [May F .diags] [May F .completions] [May F .claims] [May F .waiting] [May F .later] [May F .tests] [May F .raised] {r s : State} {x0 x1 : _} (h : Keeps F r s) : Keeps F r (connectFault x0 x1 s) := by
  unfold connectFault
  repeat' first
    | with_reducible assumption
    | intro _
    | with_reducible apply keeps_ite
    | with_reducible apply keeps_setSliceState
    | with_reducible apply keeps_setFeSlice
    | with_reducible apply keeps_setFld
    | with_reducible apply keeps_restoreStored
    | with_reducible apply keeps_freshSlice
    | with_reducible apply keeps_askInternal
    | with_reducible apply keeps_showLink
    | with_reducible apply keeps_requestForced
    | with_reducible apply keeps_ite_snd
    | with_reducible apply keeps_foldl_snd
    | with_reducible apply keeps_foldl
    | split
    | dsimp -zeta only
    | with_reducible refine keeps_of_eq (by with_reducible assumption) ?_
    | with_reducible refine keeps_of_eq3 (by with_reducible assumption) ?_
    | dsimp only

theorem keeps_connectSwap {F : Kind → Prop} [May F .regs] [May F .tiles] [May F .completions] [May F .claims] [May F .waiting] [May F .later] [May F .tests] [May F .hub] [May F .raised] {r s : State} {x0 x1 : _} (h : Keeps F r s) : Keeps F r (connectSwap x0 x1 s) := by
  unfold connectSwap
  repeat' first
    | with_reducible assumption
    | intro _
    | with_reducible apply keeps_ite
    | with_reducible apply keeps_setSliceState
    | with_reducible apply keeps_setFeSlice
    | with_reducible apply keeps_setFld
    | with_reducible apply keeps_raise
    | with_reducible apply keeps_modTile
    | with_reducible apply keeps_endTest
    | with_reducible apply keeps_showBist
    | with_reducible apply keeps_finishJob
    | with_reducible apply keeps_takeClaim
    | with_reducible apply keeps_putTest
    | with_reducible apply keeps_ite_snd
    | with_reducible apply keeps_foldl_snd
    | with_reducible apply keeps_foldl
    | split
    | dsimp -zeta only
    | with_reducible refine keeps_of_eq (by with_reducible assumption) ?_
    | with_reducible refine keeps_of_eq3 (by with_reducible assumption) ?_
    | dsimp only

theorem keeps_repairRows {F : Kind → Prop} [May F .regs] [May F .rows] [May F .raised] {r s : State} {unit : Nat} {fs : List MemFail} {done : List (Nat × Nat)} (h : Keeps F r s) :
    Keeps F r (repairRows unit fs done s).2.2 := by
  induction fs generalizing done s with
  | nil => exact h
  | cons f fs ih =>
    unfold repairRows
    split
    · exact h
    · split
      · exact h
      · split
        · exact h
        · exact ih (keeps_ite (keeps_showRows (keeps_raise (keeps_inc (keeps_useRow h)))) (keeps_raise (keeps_inc (keeps_useRow h))))

theorem keeps_sliceFreed {F : Kind → Prop} [May F .regs] [May F .tiles] [May F .completions] [May F .claims] [May F .waiting] [May F .later] [May F .tests] {r s : State} {x0 x1 x2 x3 : _} (h : Keeps F r s) : Keeps F r (sliceFreed x0 x1 x2 x3 s) := by
  unfold sliceFreed
  repeat' first
    | with_reducible assumption
    | intro _
    | with_reducible apply keeps_ite
    | with_reducible apply keeps_putTest
    | with_reducible apply keeps_startSwap
    | with_reducible apply keeps_endTest
    | with_reducible apply keeps_setSliceState
    | with_reducible apply keeps_ite_snd
    | with_reducible apply keeps_foldl_snd
    | with_reducible apply keeps_foldl
    | split
    | dsimp -zeta only
    | with_reducible refine keeps_of_eq (by with_reducible assumption) ?_
    | with_reducible refine keeps_of_eq3 (by with_reducible assumption) ?_
    | dsimp only

theorem keeps_sliceOutcome {F : Kind → Prop} [May F .regs] [May F .tiles] [May F .completions] [May F .claims] [May F .waiting] [May F .later] [May F .tests] [May F .raised] {r s : State} {x0 x1 x2 x3 : _} (h : Keeps F r s) : Keeps F r (sliceOutcome x0 x1 x2 x3 s) := by
  unfold sliceOutcome
  repeat' first
    | with_reducible assumption
    | intro _
    | with_reducible apply keeps_ite
    | with_reducible apply keeps_raise
    | with_reducible apply keeps_askRepair
    | with_reducible apply keeps_endTest
    | with_reducible apply keeps_setSliceState
    | with_reducible apply keeps_sliceFreed
    | with_reducible apply keeps_ite_snd
    | with_reducible apply keeps_foldl_snd
    | with_reducible apply keeps_foldl
    | split
    | dsimp -zeta only
    | with_reducible refine keeps_of_eq (by with_reducible assumption) ?_
    | with_reducible refine keeps_of_eq3 (by with_reducible assumption) ?_
    | dsimp only

theorem keeps_bankOutcome {F : Kind → Prop} [May F .regs] [May F .completions] [May F .claims] [May F .waiting] [May F .later] [May F .tests] [May F .raised] {r s : State} {x0 x1 x2 x3 : _} (h : Keeps F r s) : Keeps F r (bankOutcome x0 x1 x2 x3 s) := by
  unfold bankOutcome
  repeat' first
    | with_reducible assumption
    | intro _
    | with_reducible apply keeps_ite
    | with_reducible apply keeps_raise
    | with_reducible apply keeps_endTest
    | with_reducible apply keeps_askRepair
    | with_reducible apply keeps_showBanks
    | with_reducible apply keeps_setBankState
    | with_reducible apply keeps_moveBank
    | with_reducible apply keeps_ite_snd
    | with_reducible apply keeps_foldl_snd
    | with_reducible apply keeps_foldl
    | split
    | dsimp -zeta only
    | with_reducible refine keeps_of_eq (by with_reducible assumption) ?_
    | with_reducible refine keeps_of_eq3 (by with_reducible assumption) ?_
    | dsimp only

theorem keeps_testDone {F : Kind → Prop} [May F .free] [May F .regs] [May F .ports] [May F .pairs] [May F .links] [May F .queues] [May F .banks] [May F .rows] [May F .tiles] [May F .diags] [May F .completions] [May F .claims] [May F .waiting] [May F .later] [May F .tests] [May F .raised] {r s : State} {x0 x1 : _} (h : Keeps F r s) : Keeps F r (testDone x0 x1 s) := by
  unfold testDone
  repeat' first
    | with_reducible assumption
    | intro _
    | with_reducible apply keeps_ite
    | with_reducible apply keeps_sliceOutcome
    | with_reducible apply keeps_bankOutcome
    | with_reducible apply keeps_endTest
    | with_reducible apply keeps_setFld
    | with_reducible apply keeps_repairRows
    | with_reducible apply keeps_intBit
    | with_reducible apply keeps_raise
    | with_reducible apply keeps_inc
    | with_reducible apply keeps_failSubAdc
    | with_reducible apply keeps_ite_snd
    | with_reducible apply keeps_foldl_snd
    | with_reducible apply keeps_foldl
    | split
    | dsimp -zeta only
    | with_reducible refine keeps_of_eq (by with_reducible assumption) ?_
    | with_reducible refine keeps_of_eq3 (by with_reducible assumption) ?_
    | dsimp only

theorem keeps_showSweep {F : Kind → Prop} [May F .regs] {r s : State} (h : Keeps F r s) : Keeps F r (showSweep s) := by
  unfold showSweep
  repeat' first
    | with_reducible assumption
    | intro _
    | with_reducible apply keeps_ite
    | with_reducible apply keeps_setFld
    | with_reducible apply keeps_ite_snd
    | with_reducible apply keeps_foldl_snd
    | with_reducible apply keeps_foldl
    | split
    | dsimp -zeta only
    | with_reducible refine keeps_of_eq (by with_reducible assumption) ?_
    | with_reducible refine keeps_of_eq3 (by with_reducible assumption) ?_
    | dsimp only

theorem keeps_sweepNext {F : Kind → Prop} [May F .regs] [May F .hub] {r s : State} (h : Keeps F r s) : Keeps F r (sweepNext s) := by
  unfold sweepNext
  repeat' first
    | with_reducible assumption
    | intro _
    | with_reducible apply keeps_ite
    | with_reducible apply keeps_setFld
    | with_reducible apply keeps_inc
    | with_reducible apply keeps_modHub
    | with_reducible apply keeps_showSweep
    | with_reducible apply keeps_ite_snd
    | with_reducible apply keeps_foldl_snd
    | with_reducible apply keeps_foldl
    | split
    | dsimp -zeta only
    | with_reducible refine keeps_of_eq (by with_reducible assumption) ?_
    | with_reducible refine keeps_of_eq3 (by with_reducible assumption) ?_
    | dsimp only

theorem keeps_skipUnit {F : Kind → Prop} [May F .regs] [May F .hub] [May F .raised] {r s : State} {x0 x1 x2 : _} (h : Keeps F r s) : Keeps F r (skipUnit x0 x1 x2 s) := by
  unfold skipUnit
  repeat' first
    | with_reducible assumption
    | intro _
    | with_reducible apply keeps_ite
    | with_reducible apply keeps_inc
    | with_reducible apply keeps_raise
    | with_reducible apply keeps_modHub
    | with_reducible apply keeps_ite_snd
    | with_reducible apply keeps_foldl_snd
    | with_reducible apply keeps_foldl
    | split
    | dsimp -zeta only
    | with_reducible refine keeps_of_eq (by with_reducible assumption) ?_
    | with_reducible refine keeps_of_eq3 (by with_reducible assumption) ?_
    | dsimp only

theorem keeps_sweepStart {F : Kind → Prop} [May F .regs] [May F .links] [May F .tiles] [May F .claims] [May F .tests] [May F .hub] [May F .raised] [May F .out] {r s : State} (h : Keeps F r s) : Keeps F r (sweepStart s) := by
  unfold sweepStart
  repeat' first
    | with_reducible assumption
    | intro _
    | with_reducible apply keeps_ite
    | with_reducible apply keeps_modHub
    | with_reducible apply keeps_sweepNext
    | with_reducible apply keeps_skipUnit
    | with_reducible apply keeps_takeClaim
    | with_reducible apply keeps_beginUnit
    | with_reducible apply keeps_ite_snd
    | with_reducible apply keeps_foldl_snd
    | with_reducible apply keeps_foldl
    | split
    | dsimp -zeta only
    | with_reducible refine keeps_of_eq (by with_reducible assumption) ?_
    | with_reducible refine keeps_of_eq3 (by with_reducible assumption) ?_
    | dsimp only

theorem keeps_sweepDue {F : Kind → Prop} [May F .regs] [May F .links] [May F .tiles] [May F .claims] [May F .tests] [May F .hub] [May F .raised] [May F .out] {r s : State} (h : Keeps F r s) : Keeps F r (sweepDue s) := by
  unfold sweepDue
  repeat' first
    | with_reducible assumption
    | intro _
    | with_reducible apply keeps_ite
    | with_reducible apply keeps_sweepStart
    | with_reducible apply keeps_modHub
    | with_reducible apply keeps_ite_snd
    | with_reducible apply keeps_foldl_snd
    | with_reducible apply keeps_foldl
    | split
    | dsimp -zeta only
    | with_reducible refine keeps_of_eq (by with_reducible assumption) ?_
    | with_reducible refine keeps_of_eq3 (by with_reducible assumption) ?_
    | dsimp only

theorem keeps_tileLinkFailed {F : Kind → Prop} [May F .free] [May F .regs] [May F .ports] [May F .pairs] [May F .links] [May F .queues] [May F .banks] [May F .tiles] [May F .diags] [May F .doms] [May F .completions] [May F .claims] [May F .waiting] [May F .later] [May F .tests] [May F .raised] {r s : State} {x0 : _} (h : Keeps F r s) : Keeps F r (tileLinkFailed x0 s) := by
  unfold tileLinkFailed
  repeat' first
    | with_reducible assumption
    | intro _
    | with_reducible apply keeps_ite
    | with_reducible apply keeps_modTile
    | with_reducible apply keeps_abortReflect
    | with_reducible apply keeps_dropLink
    | with_reducible apply keeps_intBit
    | with_reducible apply keeps_setFld
    | with_reducible apply keeps_modDom
    | with_reducible apply keeps_forEach
    | with_reducible apply keeps_ite_snd
    | with_reducible apply keeps_foldl_snd
    | with_reducible apply keeps_foldl
    | split
    | dsimp -zeta only
    | with_reducible refine keeps_of_eq (by with_reducible assumption) ?_
    | with_reducible refine keeps_of_eq3 (by with_reducible assumption) ?_
    | dsimp only

end Sys2Proof.Machine
end

