-- ==== Sys2Proof/Laws/KeepsCal.lean ====
section
/-! SUPPORT. What the operations of Machine/Cal.lean keep. -/
set_option linter.unusedTactic false
set_option linter.unreachableTactic false
set_option linter.tactic.unusedName false
namespace Sys2Proof.Machine

theorem keeps_setTrims {F : Kind → Prop} [May F .cals] {r s : State} {x0 x1 : _} (h : Keeps F r s) : Keeps F r (setTrims x0 x1 s) := by
  unfold setTrims
  repeat' first
    | with_reducible assumption
    | intro _
    | with_reducible apply keeps_ite
    | with_reducible apply keeps_modCal
    | with_reducible apply keeps_ite_snd
    | with_reducible apply keeps_foldl_snd
    | with_reducible apply keeps_foldl
    | split
    | dsimp -zeta only
    | with_reducible refine keeps_of_eq (by with_reducible assumption) ?_
    | with_reducible refine keeps_of_eq3 (by with_reducible assumption) ?_
    | dsimp only

theorem keeps_estimateTrims {F : Kind → Prop} [May F .free] [May F .cals] {r s : State} {x0 x1 : _} (h : Keeps F r s) : Keeps F r (estimateTrims x0 x1 s) := by
  unfold estimateTrims
  repeat' first
    | with_reducible assumption
    | intro _
    | with_reducible apply keeps_ite
    | with_reducible apply keeps_draw
    | with_reducible apply keeps_modCal
    | with_reducible apply keeps_ite_snd
    | with_reducible apply keeps_foldl_snd
    | with_reducible apply keeps_foldl
    | split
    | dsimp -zeta only
    | with_reducible refine keeps_of_eq (by with_reducible assumption) ?_
    | with_reducible refine keeps_of_eq3 (by with_reducible assumption) ?_
    | dsimp only

theorem keeps_countDeferrals {F : Kind → Prop} [May F .regs] [May F .cals] {r s : State} (h : Keeps F r s) : Keeps F r (countDeferrals s) := by
  unfold countDeferrals
  repeat' first
    | with_reducible assumption
    | intro _
    | with_reducible apply keeps_ite
    | with_reducible apply keeps_inc
    | with_reducible apply keeps_modCal
    | with_reducible apply keeps_forEach
    | with_reducible apply keeps_ite_snd
    | with_reducible apply keeps_foldl_snd
    | with_reducible apply keeps_foldl
    | split
    | dsimp -zeta only
    | with_reducible refine keeps_of_eq (by with_reducible assumption) ?_
    | with_reducible refine keeps_of_eq3 (by with_reducible assumption) ?_
    | dsimp only

theorem keeps_answerAsked {F : Kind → Prop} [May F .regs] [May F .cals] [May F .completions] [May F .claims] [May F .waiting] [May F .later] {r s : State} {x0 x1 x2 : _} (h : Keeps F r s) : Keeps F r (answerAsked x0 x1 x2 s) := by
  unfold answerAsked
  repeat' first
    | with_reducible assumption
    | intro _
    | with_reducible apply keeps_ite
    | with_reducible apply keeps_finishJob
    | with_reducible apply keeps_modCal
    | with_reducible apply keeps_forEach
    | with_reducible apply keeps_ite_snd
    | with_reducible apply keeps_foldl_snd
    | with_reducible apply keeps_foldl
    | split
    | dsimp -zeta only
    | with_reducible refine keeps_of_eq (by with_reducible assumption) ?_
    | with_reducible refine keeps_of_eq3 (by with_reducible assumption) ?_
    | dsimp only

theorem keeps_closeRun {F : Kind → Prop} [May F .regs] [May F .pairs] [May F .cals] [May F .calRuns] [May F .completions] [May F .claims] [May F .waiting] [May F .later] {r s : State} {x0 x1 : _} (h : Keeps F r s) : Keeps F r (closeRun x0 x1 s) := by
  unfold closeRun
  repeat' first
    | with_reducible assumption
    | intro _
    | with_reducible apply keeps_ite
    | with_reducible apply keeps_releaseTaken
    | with_reducible apply keeps_answerAsked
    | with_reducible apply keeps_showRefBusy
    | with_reducible apply keeps_showCalBusy
    | with_reducible apply keeps_clearStale
    | with_reducible apply keeps_ite_snd
    | with_reducible apply keeps_foldl_snd
    | with_reducible apply keeps_foldl
    | split
    | dsimp -zeta only
    | with_reducible refine keeps_of_eq (by with_reducible assumption) ?_
    | with_reducible refine keeps_of_eq3 (by with_reducible assumption) ?_
    | dsimp only
    | with_reducible apply keeps_upd_calRuns

theorem keeps_rejectRun {F : Kind → Prop} [May F .regs] [May F .pairs] [May F .cals] [May F .calRuns] [May F .completions] [May F .claims] [May F .waiting] [May F .later] [May F .raised] {r s : State} {x0 x1 x2 x3 : _} (h : Keeps F r s) : Keeps F r (rejectRun x0 x1 x2 x3 s) := by
  unfold rejectRun
  repeat' first
    | with_reducible assumption
    | intro _
    | with_reducible apply keeps_ite
    | with_reducible apply keeps_modCal
    | with_reducible apply keeps_raise
    | with_reducible apply keeps_intBit
    | with_reducible apply keeps_inc
    | with_reducible apply keeps_closeRun
    | with_reducible apply keeps_ite_snd
    | with_reducible apply keeps_foldl_snd
    | with_reducible apply keeps_foldl
    | split
    | dsimp -zeta only
    | with_reducible refine keeps_of_eq (by with_reducible assumption) ?_
    | with_reducible refine keeps_of_eq3 (by with_reducible assumption) ?_
    | dsimp only

theorem keeps_acceptRun {F : Kind → Prop} [May F .regs] [May F .pairs] [May F .cals] [May F .calRuns] [May F .completions] [May F .claims] [May F .waiting] [May F .later] {r s : State} {x0 x1 x2 x3 : _} (h : Keeps F r s) : Keeps F r (acceptRun x0 x1 x2 x3 s) := by
  unfold acceptRun
  repeat' first
    | with_reducible assumption
    | intro _
    | with_reducible apply keeps_ite
    | with_reducible apply keeps_modCal
    | with_reducible apply keeps_closeRun
    | with_reducible apply keeps_inc
    | with_reducible apply keeps_ite_snd
    | with_reducible apply keeps_foldl_snd
    | with_reducible apply keeps_foldl
    | split
    | dsimp -zeta only
    | with_reducible refine keeps_of_eq (by with_reducible assumption) ?_
    | with_reducible refine keeps_of_eq3 (by with_reducible assumption) ?_
    | dsimp only

theorem keeps_showRefWait {F : Kind → Prop} [May F .regs] {r s : State} (h : Keeps F r s) : Keeps F r (showRefWait s) := by
  unfold showRefWait
  repeat' first
    | with_reducible assumption
    | intro _
    | with_reducible apply keeps_ite
    | with_reducible apply keeps_setFld
    | with_reducible apply keeps_forEach
    | with_reducible apply keeps_ite_snd
    | with_reducible apply keeps_foldl_snd
    | with_reducible apply keeps_foldl
    | split
    | dsimp -zeta only
    | with_reducible refine keeps_of_eq (by with_reducible assumption) ?_
    | with_reducible refine keeps_of_eq3 (by with_reducible assumption) ?_
    | dsimp only

theorem keeps_checkReference {F : Kind → Prop} [May F .regs] [May F .hub] [May F .raised] {r s : State} {x0 x1 : _} (h : Keeps F r s) : Keeps F r (checkReference x0 x1 s).2 := by
  show KeepsP F r _
  unfold checkReference
  repeat' first
    | with_reducible assumption
    | intro _
    | with_reducible apply keepsP_mk
    | with_reducible apply keepsP_ite
    | with_reducible apply keeps_ite
    | with_reducible apply keeps_modHub
    | with_reducible apply keeps_setFld
    | with_reducible apply keeps_raise
    | with_reducible apply keeps_ite_snd
    | with_reducible apply keeps_foldl_snd
    | with_reducible apply keeps_foldl
    | split
    | dsimp -zeta only
    | with_reducible refine keeps_of_eq (by with_reducible assumption) ?_
    | with_reducible refine keeps_of_eq3 (by with_reducible assumption) ?_
    | dsimp only

theorem keeps_beginCalRun {F : Kind → Prop} [May F .regs] [May F .pairs] [May F .cals] [May F .calRuns] [May F .completions] [May F .claims] [May F .waiting] [May F .later] [May F .hub] [May F .raised] {r s : State} {x0 x1 x2 x3 : _} (h : Keeps F r s) : Keeps F r (beginCalRun x0 x1 x2 x3 s) := by
  unfold beginCalRun
  repeat' first
    | with_reducible assumption
    | intro _
    | with_reducible apply keeps_ite
    | with_reducible apply keeps_markStale
    | with_reducible apply keeps_showRefBusy
    | with_reducible apply keeps_showCalBusy
    | with_reducible apply keeps_checkReference
    | with_reducible apply keeps_showRefWait
    | with_reducible apply keeps_rejectRun
    | with_reducible apply keeps_ite_snd
    | with_reducible apply keeps_foldl_snd
    | with_reducible apply keeps_foldl
    | split
    | dsimp -zeta only
    | with_reducible refine keeps_of_eq (by with_reducible assumption) ?_
    | with_reducible refine keeps_of_eq3 (by with_reducible assumption) ?_
    | dsimp only
    | with_reducible apply keeps_upd_calRuns

theorem keeps_execCalRunStart {F : Kind → Prop} [May F .regs] [May F .pairs] [May F .cals] [May F .calRuns] [May F .completions] [May F .claims] [May F .waiting] [May F .later] [May F .hub] [May F .raised] {r s : State} {x0 x1 x2 : _} (h : Keeps F r s) : OutKeeps F r (execCalRunStart x0 x1 x2 s) := by
  unfold execCalRunStart
  repeat' first
    | with_reducible assumption
    | intro _
    | with_reducible apply outKeeps_next
    | with_reducible apply outKeeps_ite
    | with_reducible apply keeps_ite
    | with_reducible apply keeps_beginCalRun
    | with_reducible apply keeps_takeClaim
    | with_reducible apply keeps_askInternal
    | with_reducible apply keeps_ite_snd
    | with_reducible apply keeps_foldl_snd
    | with_reducible apply keeps_foldl
    | split
    | dsimp -zeta only
    | with_reducible refine keeps_of_eq (by with_reducible assumption) ?_
    | with_reducible refine keeps_of_eq3 (by with_reducible assumption) ?_
    | dsimp only

theorem keeps_execCalRunDone {F : Kind → Prop} [May F .free] [May F .regs] [May F .ports] [May F .pairs] [May F .links] [May F .queues] [May F .banks] [May F .tiles] [May F .diags] [May F .cals] [May F .calRuns] [May F .completions] [May F .claims] [May F .waiting] [May F .later] [May F .tests] [May F .raised] {r s : State} {x0 x1 x2 : _} (h : Keeps F r s) : OutKeeps F r (execCalRunDone x0 x1 x2 s) := by
  unfold execCalRunDone
  repeat' first
    | with_reducible assumption
    | intro _
    | with_reducible apply outKeeps_next
    | with_reducible apply outKeeps_ite
    | with_reducible apply keeps_ite
    | with_reducible apply keeps_showRefWait
    | with_reducible apply keeps_acceptRun
    | with_reducible apply keeps_rejectRun
    | with_reducible apply keeps_failSubAdc
    | with_reducible apply keeps_ite_snd
    | with_reducible apply keeps_foldl_snd
    | with_reducible apply keeps_foldl
    | split
    | dsimp -zeta only
    | with_reducible refine keeps_of_eq (by with_reducible assumption) ?_
    | with_reducible refine keeps_of_eq3 (by with_reducible assumption) ?_
    | dsimp only

theorem keeps_execCalRunTimeout {F : Kind → Prop} [May F .regs] [May F .pairs] [May F .cals] [May F .calRuns] [May F .completions] [May F .claims] [May F .waiting] [May F .later] [May F .raised] {r s : State} {x0 x1 : _} (h : Keeps F r s) : OutKeeps F r (execCalRunTimeout x0 x1 s) := by
  unfold execCalRunTimeout
  repeat' first
    | with_reducible assumption
    | intro _
    | with_reducible apply outKeeps_next
    | with_reducible apply outKeeps_ite
    | with_reducible apply keeps_ite
    | with_reducible apply keeps_showRefWait
    | with_reducible apply keeps_rejectRun
    | with_reducible apply keeps_ite_snd
    | with_reducible apply keeps_foldl_snd
    | with_reducible apply keeps_foldl
    | split
    | dsimp -zeta only
    | with_reducible refine keeps_of_eq (by with_reducible assumption) ?_
    | with_reducible refine keeps_of_eq3 (by with_reducible assumption) ?_
    | dsimp only

theorem keeps_execCalRetry {F : Kind → Prop} [May F .cals] {r s : State} {x0 x1 : _} (h : Keeps F r s) : OutKeeps F r (execCalRetry x0 x1 s) := by
  unfold execCalRetry
  repeat' first
    | with_reducible assumption
    | intro _
    | with_reducible apply outKeeps_next
    | with_reducible apply outKeeps_ite
    | with_reducible apply keeps_ite
    | with_reducible apply keeps_modCal
    | with_reducible apply keeps_ite_snd
    | with_reducible apply keeps_foldl_snd
    | with_reducible apply keeps_foldl
    | split
    | dsimp -zeta only
    | with_reducible refine keeps_of_eq (by with_reducible assumption) ?_
    | with_reducible refine keeps_of_eq3 (by with_reducible assumption) ?_
    | dsimp only

theorem keeps_execCalRunStartTimeout {F : Kind → Prop} [May F .regs] [May F .cals] [May F .completions] [May F .claims] [May F .waiting] [May F .later] {r s : State} {x0 x1 : _} (h : Keeps F r s) : OutKeeps F r (execCalRunStartTimeout x0 x1 s) := by
  unfold execCalRunStartTimeout
  repeat' first
    | with_reducible assumption
    | intro _
    | with_reducible apply outKeeps_next
    | with_reducible apply outKeeps_ite
    | with_reducible apply keeps_ite
    | with_reducible apply keeps_abortAsked
    | with_reducible apply keeps_ite_snd
    | with_reducible apply keeps_foldl_snd
    | with_reducible apply keeps_foldl
    | split
    | dsimp -zeta only
    | with_reducible refine keeps_of_eq (by with_reducible assumption) ?_
    | with_reducible refine keeps_of_eq3 (by with_reducible assumption) ?_
    | dsimp only

theorem keeps_execTrimTrackTick {F : Kind → Prop} [May F .free] [May F .regs] [May F .cals] {r s : State} {x0 : _} (h : Keeps F r s) : OutKeeps F r (execTrimTrackTick x0 s) := by
  unfold execTrimTrackTick
  repeat' first
    | with_reducible assumption
    | intro _
    | with_reducible apply outKeeps_next
    | with_reducible apply outKeeps_ite
    | with_reducible apply keeps_ite
    | with_reducible apply keeps_setFld
    | with_reducible apply keeps_setTrims
    | with_reducible apply keeps_estimateTrims
    | with_reducible apply keeps_modCal
    | with_reducible apply keeps_countDeferrals
    | with_reducible apply keeps_forEach
    | with_reducible apply keeps_ite_snd
    | with_reducible apply keeps_foldl_snd
    | with_reducible apply keeps_foldl
    | split
    | dsimp -zeta only
    | with_reducible refine keeps_of_eq (by with_reducible assumption) ?_
    | with_reducible refine keeps_of_eq3 (by with_reducible assumption) ?_
    | dsimp only

end Sys2Proof.Machine
end

