-- ==== Sys2Proof/Laws/KeepsLineReceive.lean ====
section
/-! SUPPORT. What the operations of Machine/LineReceive.lean keep. -/
set_option linter.unusedTactic false
set_option linter.unreachableTactic false
set_option linter.tactic.unusedName false
namespace Sys2Proof.Machine

theorem keeps_addErrors {F : Kind → Prop} [May F .errs] {r s : State} {x0 x1 x2 : _} (h : Keeps F r s) : Keeps F r (addErrors x0 x1 x2 s) := by
  unfold addErrors
  repeat' first
    | with_reducible assumption
    | intro _
    | with_reducible apply keeps_ite
    | with_reducible apply keeps_forEach
    | with_reducible apply keeps_ite_snd
    | with_reducible apply keeps_foldl_snd
    | with_reducible apply keeps_foldl
    | split
    | dsimp -zeta only
    | with_reducible refine keeps_of_eq (by with_reducible assumption) ?_
    | with_reducible refine keeps_of_eq3 (by with_reducible assumption) ?_
    | dsimp only
    | with_reducible apply keeps_errs_put

theorem keeps_moveCoef {F : Kind → Prop} [May F .coef] {r s : State} {x0 x1 x2 x3 x4 : _} (h : Keeps F r s) : Keeps F r (moveCoef x0 x1 x2 x3 x4 s) := by
  unfold moveCoef
  repeat' first
    | with_reducible assumption
    | intro _
    | with_reducible apply keeps_ite
    | with_reducible apply keeps_setCoef
    | with_reducible apply keeps_ite_snd
    | with_reducible apply keeps_foldl_snd
    | with_reducible apply keeps_foldl
    | split
    | dsimp -zeta only
    | with_reducible refine keeps_of_eq (by with_reducible assumption) ?_
    | with_reducible refine keeps_of_eq3 (by with_reducible assumption) ?_
    | dsimp only

theorem keeps_adaptEcho {F : Kind → Prop} [May F .coef] {r s : State} {x0 x1 x2 : _} (h : Keeps F r s) : Keeps F r (adaptEcho x0 x1 x2 s) := by
  unfold adaptEcho
  repeat' first
    | with_reducible assumption
    | intro _
    | with_reducible apply keeps_ite
    | with_reducible apply keeps_setCoef
    | with_reducible apply keeps_forEach
    | with_reducible apply keeps_ite_snd
    | with_reducible apply keeps_foldl_snd
    | with_reducible apply keeps_foldl
    | split
    | dsimp -zeta only
    | with_reducible refine keeps_of_eq (by with_reducible assumption) ?_
    | with_reducible refine keeps_of_eq3 (by with_reducible assumption) ?_
    | dsimp only

theorem keeps_adaptPair {F : Kind → Prop} [May F .coef] {r s : State} {x0 x1 x2 x3 : _} (h : Keeps F r s) : Keeps F r (adaptPair x0 x1 x2 x3 s) := by
  unfold adaptPair
  repeat' first
    | with_reducible assumption
    | intro _
    | with_reducible apply keeps_ite
    | with_reducible apply keeps_adaptEcho
    | with_reducible apply keeps_moveCoef
    | with_reducible apply keeps_forEach
    | with_reducible apply keeps_ite_snd
    | with_reducible apply keeps_foldl_snd
    | with_reducible apply keeps_foldl
    | split
    | dsimp -zeta only
    | with_reducible refine keeps_of_eq (by with_reducible assumption) ?_
    | with_reducible refine keeps_of_eq3 (by with_reducible assumption) ?_
    | dsimp only

theorem keeps_keepSymbol {F : Kind → Prop} [May F .regs] [May F .pairs] {r s : State} {x1 x2 x3 : _} (h : Keeps F r s) : Keeps F r (keepSymbol s x1 x2 x3 s) := by
  unfold keepSymbol
  repeat' first
    | with_reducible assumption
    | intro _
    | with_reducible apply keeps_ite
    | with_reducible apply keeps_addTo
    | with_reducible apply keeps_modPair
    | with_reducible apply keeps_ite_snd
    | with_reducible apply keeps_foldl_snd
    | with_reducible apply keeps_foldl
    | split
    | dsimp -zeta only
    | with_reducible refine keeps_of_eq (by with_reducible assumption) ?_
    | with_reducible refine keeps_of_eq3 (by with_reducible assumption) ?_
    | dsimp only

theorem keeps_takeSymbol {F : Kind → Prop} [May F .regs] [May F .pairs] [May F .errs] [May F .coef] {r s : State} {l : LinkId} {xs : List RxBins} {x : RxBins} {v : RxPairValues} {es snr : List (Nat × Cx)} (h : Keeps F r s) : Keeps F r (takeSymbol l xs x v es snr s) := by
  have ha : ∀ t, Keeps F r (keepSymbol s l x t (adaptPair l xs x es (addErrors l.n x.p snr s))) :=
    fun t => keeps_addTo (keeps_modPair (keeps_adaptPair (keeps_addErrors h)))
  unfold takeSymbol
  exact keeps_ite (keeps_stepLoop (ha _)) (ha _)

theorem keeps_checkPattern {F : Kind → Prop} [May F .regs] [May F .pairs] {r s : State} {x0 x1 x2 : _} (h : Keeps F r s) : Keeps F r (checkPattern x0 x1 x2 s) := by
  unfold checkPattern
  repeat' first
    | with_reducible assumption
    | intro _
    | with_reducible apply keeps_ite
    | with_reducible apply keeps_addTo
    | with_reducible apply keeps_modPair
    | with_reducible apply keeps_setFld
    | with_reducible apply keeps_ite_snd
    | with_reducible apply keeps_foldl_snd
    | with_reducible apply keeps_foldl
    | split
    | dsimp -zeta only
    | with_reducible refine keeps_of_eq (by with_reducible assumption) ?_
    | with_reducible refine keeps_of_eq3 (by with_reducible assumption) ?_
    | dsimp only

theorem keeps_openPayload {F : Kind → Prop} [May F .pairs] {r s : State} {x0 x1 x2 x3 : _} (h : Keeps F r s) : Keeps F r (openPayload x0 x1 x2 x3 s).2 := by
  show KeepsP F r _
  unfold openPayload
  repeat' first
    | with_reducible assumption
    | intro _
    | with_reducible apply keepsP_mk
    | with_reducible apply keepsP_ite
    | with_reducible apply keeps_ite
    | with_reducible apply keeps_modPair
    | with_reducible apply keeps_ite_snd
    | with_reducible apply keeps_foldl_snd
    | with_reducible apply keeps_foldl
    | split
    | dsimp -zeta only
    | with_reducible refine keeps_of_eq (by with_reducible assumption) ?_
    | with_reducible refine keeps_of_eq3 (by with_reducible assumption) ?_
    | dsimp only

theorem keeps_takeStream {F : Kind → Prop} [May F .regs] [May F .queues] {r s : State} {x0 x1 : _} (h : Keeps F r s) : Keeps F r (takeStream x0 x1 s) := by
  unfold takeStream
  repeat' first
    | with_reducible assumption
    | intro _
    | with_reducible apply keeps_ite
    | with_reducible apply keeps_modQueue
    | with_reducible apply keeps_addTo
    | with_reducible apply keeps_add64
    | with_reducible apply keeps_ite_snd
    | with_reducible apply keeps_foldl_snd
    | with_reducible apply keeps_foldl
    | split
    | dsimp -zeta only
    | with_reducible refine keeps_of_eq (by with_reducible assumption) ?_
    | with_reducible refine keeps_of_eq3 (by with_reducible assumption) ?_
    | dsimp only

theorem keeps_openRx {F : Kind → Prop} [May F .links] [May F .queues] {r s : State} {x0 : _} (h : Keeps F r s) : Keeps F r (openRx x0 s) := by
  unfold openRx
  repeat' first
    | with_reducible assumption
    | intro _
    | with_reducible apply keeps_ite
    | with_reducible apply keeps_modQueue
    | with_reducible apply keeps_modEei
    | with_reducible apply keeps_ite_snd
    | with_reducible apply keeps_foldl_snd
    | with_reducible apply keeps_foldl
    | split
    | dsimp -zeta only
    | with_reducible refine keeps_of_eq (by with_reducible assumption) ?_
    | with_reducible refine keeps_of_eq3 (by with_reducible assumption) ?_
    | dsimp only

theorem keeps_countAlert {F : Kind → Prop} [May F .links] [May F .queues] {r s : State} {x0 : _} (h : Keeps F r s) : Keeps F r (countAlert x0 s) := by
  unfold countAlert
  repeat' first
    | with_reducible assumption
    | intro _
    | with_reducible apply keeps_ite
    | with_reducible apply keeps_openRx
    | with_reducible apply keeps_modEei
    | with_reducible apply keeps_ite_snd
    | with_reducible apply keeps_foldl_snd
    | with_reducible apply keeps_foldl
    | split
    | dsimp -zeta only
    | with_reducible refine keeps_of_eq (by with_reducible assumption) ?_
    | with_reducible refine keeps_of_eq3 (by with_reducible assumption) ?_
    | dsimp only

theorem keeps_resumeAtStage {F : Kind → Prop} [May F .links] [May F .queues] {r s : State} {x0 : _} (h : Keeps F r s) : Keeps F r (resumeAtStage x0 s) := by
  unfold resumeAtStage
  repeat' first
    | with_reducible assumption
    | intro _
    | with_reducible apply keeps_ite
    | with_reducible apply keeps_openRx
    | with_reducible apply keeps_ite_snd
    | with_reducible apply keeps_foldl_snd
    | with_reducible apply keeps_foldl
    | split
    | dsimp -zeta only
    | with_reducible refine keeps_of_eq (by with_reducible assumption) ?_
    | with_reducible refine keeps_of_eq3 (by with_reducible assumption) ?_
    | dsimp only

theorem keeps_rxSymbol {F : Kind → Prop} [May F .regs] [May F .pairs] [May F .links] [May F .queues] [May F .errs] [May F .coef] {r s : State} {x0 x1 : _} (h : Keeps F r s) : Keeps F r (rxSymbol x0 x1 s) := by
  unfold rxSymbol
  repeat' first
    | with_reducible assumption
    | intro _
    | with_reducible apply keeps_ite
    | with_reducible apply keeps_countAlert
    | with_reducible apply keeps_takeSymbol
    | with_reducible apply keeps_add64
    | with_reducible apply keeps_openPayload
    | with_reducible apply keeps_checkPattern
    | with_reducible apply keeps_takeStream
    | with_reducible apply keeps_modPair
    | with_reducible apply keeps_modLink
    | with_reducible apply keeps_modQueue
    | with_reducible apply keeps_forEach
    | with_reducible apply keeps_ite_snd
    | with_reducible apply keeps_foldl_snd
    | with_reducible apply keeps_foldl
    | split
    | dsimp -zeta only
    | with_reducible refine keeps_of_eq (by with_reducible assumption) ?_
    | with_reducible refine keeps_of_eq3 (by with_reducible assumption) ?_
    | dsimp only

theorem keeps_rxWaymark {F : Kind → Prop} [May F .regs] [May F .pairs] [May F .links] [May F .errs] [May F .coef] {r s : State} {x0 x1 : _} (h : Keeps F r s) : Keeps F r (rxWaymark x0 x1 s).2 := by
  show KeepsP F r _
  unfold rxWaymark
  repeat' first
    | with_reducible assumption
    | intro _
    | with_reducible apply keepsP_mk
    | with_reducible apply keepsP_ite
    | with_reducible apply keeps_ite
    | with_reducible apply keeps_modEei
    | with_reducible apply keeps_takeSymbol
    | with_reducible apply keeps_forEach
    | with_reducible apply keeps_ite_snd
    | with_reducible apply keeps_foldl_snd
    | with_reducible apply keeps_foldl
    | split
    | dsimp -zeta only
    | with_reducible refine keeps_of_eq (by with_reducible assumption) ?_
    | with_reducible refine keeps_of_eq3 (by with_reducible assumption) ?_
    | dsimp only

theorem keeps_updateSnr {F : Kind → Prop} [May F .snr] [May F .sigma] {r s : State} {x0 x1 x2 : _} (h : Keeps F r s) : Keeps F r (updateSnr x0 x1 x2 s) := by
  unfold updateSnr
  repeat' first
    | with_reducible assumption
    | intro _
    | with_reducible apply keeps_ite
    | with_reducible apply keeps_setSnr
    | with_reducible apply keeps_forEach
    | with_reducible apply keeps_ite_snd
    | with_reducible apply keeps_foldl_snd
    | with_reducible apply keeps_foldl
    | split
    | dsimp -zeta only
    | with_reducible refine keeps_of_eq (by with_reducible assumption) ?_
    | with_reducible refine keeps_of_eq3 (by with_reducible assumption) ?_
    | dsimp only
    | with_reducible apply keeps_sigma_put

theorem keeps_clearErrors {F : Kind → Prop} [May F .pairs] [May F .errs] {r s : State} {x0 x1 : _} (h : Keeps F r s) : Keeps F r (clearErrors x0 x1 s) := by
  unfold clearErrors
  repeat' first
    | with_reducible assumption
    | intro _
    | with_reducible apply keeps_ite
    | with_reducible apply keeps_modPair
    | with_reducible apply keeps_ite_snd
    | with_reducible apply keeps_foldl_snd
    | with_reducible apply keeps_foldl
    | split
    | dsimp -zeta only
    | with_reducible refine keeps_of_eq (by with_reducible assumption) ?_
    | with_reducible refine keeps_of_eq3 (by with_reducible assumption) ?_
    | dsimp only
    | with_reducible apply keeps_errs_filter

end Sys2Proof.Machine
end

