-- ==== Sys2Proof/Laws/KeepsModes.lean ====
section
/-! SUPPORT. What the operations of Machine/Modes.lean keep. -/
set_option linter.unusedTactic false
set_option linter.unreachableTactic false
set_option linter.tactic.unusedName false
namespace Sys2Proof.Machine

theorem keeps_setStream {F : Kind → Prop} [May F .links] {r s : State} {x0 x1 x2 : _} (h : Keeps F r s) : Keeps F r (setStream x0 x1 x2 s) := by
  unfold setStream
  repeat' first
    | with_reducible assumption
    | intro _
    | with_reducible apply keeps_ite
    | with_reducible apply keeps_modLink
    | with_reducible apply keeps_ite_snd
    | with_reducible apply keeps_foldl_snd
    | with_reducible apply keeps_foldl
    | split
    | dsimp -zeta only
    | with_reducible refine keeps_of_eq (by with_reducible assumption) ?_
    | with_reducible refine keeps_of_eq3 (by with_reducible assumption) ?_
    | dsimp only

theorem keeps_loseStream {F : Kind → Prop} [May F .links] {r s : State} {x0 x1 : _} (h : Keeps F r s) : Keeps F r (loseStream x0 x1 s) := by
  unfold loseStream
  repeat' first
    | with_reducible assumption
    | intro _
    | with_reducible apply keeps_ite
    | with_reducible apply keeps_setStream
    | with_reducible apply keeps_ite_snd
    | with_reducible apply keeps_foldl_snd
    | with_reducible apply keeps_foldl
    | split
    | dsimp -zeta only
    | with_reducible refine keeps_of_eq (by with_reducible assumption) ?_
    | with_reducible refine keeps_of_eq3 (by with_reducible assumption) ?_
    | dsimp only

theorem keeps_loseTransparent {F : Kind → Prop} [May F .links] {r s : State} {x0 : _} (h : Keeps F r s) : Keeps F r (loseTransparent x0 s) := by
  unfold loseTransparent
  repeat' first
    | with_reducible assumption
    | intro _
    | with_reducible apply keeps_ite
    | with_reducible apply keeps_modLink
    | with_reducible apply keeps_loseStream
    | with_reducible apply keeps_forEach
    | with_reducible apply keeps_ite_snd
    | with_reducible apply keeps_foldl_snd
    | with_reducible apply keeps_foldl
    | split
    | dsimp -zeta only
    | with_reducible refine keeps_of_eq (by with_reducible assumption) ?_
    | with_reducible refine keeps_of_eq3 (by with_reducible assumption) ?_
    | dsimp only

theorem keeps_beginEntries {F : Kind → Prop} [May F .regs] [May F .pairs] [May F .links] [May F .tbl] {r s : State} {x0 x1 x2 : _} (h : Keeps F r s) : Keeps F r (beginEntries x0 x1 x2 s) := by
  unfold beginEntries
  repeat' first
    | with_reducible assumption
    | intro _
    | with_reducible apply keeps_ite
    | with_reducible apply keeps_modPair
    | with_reducible apply keeps_setBank
    | with_reducible apply keeps_setFld
    | with_reducible apply keeps_modLink
    | with_reducible apply keeps_forEach
    | with_reducible apply keeps_ite_snd
    | with_reducible apply keeps_foldl_snd
    | with_reducible apply keeps_foldl
    | split
    | dsimp -zeta only
    | with_reducible refine keeps_of_eq (by with_reducible assumption) ?_
    | with_reducible refine keeps_of_eq3 (by with_reducible assumption) ?_
    | dsimp only

theorem keeps_beginModeTables {F : Kind → Prop} [May F .regs] [May F .pairs] [May F .links] [May F .tbl] {r s : State} {x0 x1 x2 : _} (h : Keeps F r s) : Keeps F r (beginModeTables x0 x1 x2 s) := by
  unfold beginModeTables
  repeat' first
    | with_reducible assumption
    | intro _
    | with_reducible apply keeps_ite
    | with_reducible apply keeps_modLink
    | with_reducible apply keeps_beginEntries
    | with_reducible apply keeps_ite_snd
    | with_reducible apply keeps_foldl_snd
    | with_reducible apply keeps_foldl
    | split
    | dsimp -zeta only
    | with_reducible refine keeps_of_eq (by with_reducible assumption) ?_
    | with_reducible refine keeps_of_eq3 (by with_reducible assumption) ?_
    | dsimp only

theorem keeps_startModeAsk {F : Kind → Prop} [May F .regs] [May F .pairs] [May F .links] [May F .tbl] {r s : State} {x0 : _} (h : Keeps F r s) : Keeps F r (startModeAsk x0 s) := by
  unfold startModeAsk
  repeat' first
    | with_reducible assumption
    | intro _
    | with_reducible apply keeps_ite
    | with_reducible apply keeps_beginModeTables
    | with_reducible apply keeps_modLink
    | with_reducible apply keeps_ite_snd
    | with_reducible apply keeps_foldl_snd
    | with_reducible apply keeps_foldl
    | split
    | dsimp -zeta only
    | with_reducible refine keeps_of_eq (by with_reducible assumption) ?_
    | with_reducible refine keeps_of_eq3 (by with_reducible assumption) ?_
    | dsimp only

theorem keeps_retryTransparent {F : Kind → Prop} [May F .regs] [May F .pairs] [May F .links] [May F .tbl] {r s : State} {x0 : _} (h : Keeps F r s) : Keeps F r (retryTransparent x0 s) := by
  unfold retryTransparent
  repeat' first
    | with_reducible assumption
    | intro _
    | with_reducible apply keeps_ite
    | with_reducible apply keeps_beginModeTables
    | with_reducible apply keeps_ite_snd
    | with_reducible apply keeps_foldl_snd
    | with_reducible apply keeps_foldl
    | split
    | dsimp -zeta only
    | with_reducible refine keeps_of_eq (by with_reducible assumption) ?_
    | with_reducible refine keeps_of_eq3 (by with_reducible assumption) ?_
    | dsimp only

theorem keeps_judgeTransparent {F : Kind → Prop} [May F .regs] [May F .pairs] [May F .links] [May F .tbl] {r s : State} {x0 : _} (h : Keeps F r s) : Keeps F r (judgeTransparent x0 s) := by
  unfold judgeTransparent
  repeat' first
    | with_reducible assumption
    | intro _
    | with_reducible apply keeps_ite
    | with_reducible apply keeps_retryTransparent
    | with_reducible apply keeps_loseTransparent
    | with_reducible apply keeps_ite_snd
    | with_reducible apply keeps_foldl_snd
    | with_reducible apply keeps_foldl
    | split
    | dsimp -zeta only
    | with_reducible refine keeps_of_eq (by with_reducible assumption) ?_
    | with_reducible refine keeps_of_eq3 (by with_reducible assumption) ?_
    | dsimp only

theorem keeps_proposeMode {F : Kind → Prop} [May F .regs] [May F .pairs] [May F .links] [May F .tbl] {r s : State} {x0 x1 x2 : _} (h : Keeps F r s) : Keeps F r (proposeMode x0 x1 x2 s) := by
  unfold proposeMode
  repeat' first
    | with_reducible assumption
    | intro _
    | with_reducible apply keeps_ite
    | with_reducible apply keeps_modLink
    | with_reducible apply keeps_endExchange
    | with_reducible apply keeps_beginModeTables
    | with_reducible apply keeps_sendPort
    | with_reducible apply keeps_ite_snd
    | with_reducible apply keeps_foldl_snd
    | with_reducible apply keeps_foldl
    | split
    | dsimp -zeta only
    | with_reducible refine keeps_of_eq (by with_reducible assumption) ?_
    | with_reducible refine keeps_of_eq3 (by with_reducible assumption) ?_
    | dsimp only

theorem keeps_afterPending {F : Kind → Prop} [May F .regs] [May F .ports] [May F .pairs] [May F .links] [May F .tbl] {r s : State} {x0 x1 : _} (h : Keeps F r s) : Keeps F r (afterPending x0 x1 s) := by
  unfold afterPending
  repeat' first
    | with_reducible assumption
    | intro _
    | with_reducible apply keeps_ite
    | with_reducible apply keeps_modPort
    | with_reducible apply keeps_proposeMode
    | with_reducible apply keeps_ite_snd
    | with_reducible apply keeps_foldl_snd
    | with_reducible apply keeps_foldl
    | split
    | dsimp -zeta only
    | with_reducible refine keeps_of_eq (by with_reducible assumption) ?_
    | with_reducible refine keeps_of_eq3 (by with_reducible assumption) ?_
    | dsimp only

theorem keeps_afterRetrain {F : Kind → Prop} [May F .regs] [May F .ports] [May F .pairs] [May F .links] [May F .tbl] {r s : State} {x0 : _} (h : Keeps F r s) : Keeps F r (afterRetrain x0 s) := by
  unfold afterRetrain
  repeat' first
    | with_reducible assumption
    | intro _
    | with_reducible apply keeps_ite
    | with_reducible apply keeps_afterPending
    | with_reducible apply keeps_forEach
    | with_reducible apply keeps_ite_snd
    | with_reducible apply keeps_foldl_snd
    | with_reducible apply keeps_foldl
    | split
    | dsimp -zeta only
    | with_reducible refine keeps_of_eq (by with_reducible assumption) ?_
    | with_reducible refine keeps_of_eq3 (by with_reducible assumption) ?_
    | dsimp only

theorem keeps_waitLocal {F : Kind → Prop} [May F .ports] {r s : State} {x0 x1 x2 : _} (h : Keeps F r s) : Keeps F r (waitLocal x0 x1 x2 s) := by
  unfold waitLocal
  repeat' first
    | with_reducible assumption
    | intro _
    | with_reducible apply keeps_ite
    | with_reducible apply keeps_modPort
    | with_reducible apply keeps_ite_snd
    | with_reducible apply keeps_foldl_snd
    | with_reducible apply keeps_foldl
    | split
    | dsimp -zeta only
    | with_reducible refine keeps_of_eq (by with_reducible assumption) ?_
    | with_reducible refine keeps_of_eq3 (by with_reducible assumption) ?_
    | dsimp only

theorem keeps_testNotice {F : Kind → Prop} [May F .queues] {r s : State} {x0 x1 x2 : _} (h : Keeps F r s) : Keeps F r (testNotice x0 x1 x2 s) := by
  unfold testNotice
  repeat' first
    | with_reducible assumption
    | intro _
    | with_reducible apply keeps_ite
    | with_reducible apply keeps_capAwait
    | with_reducible apply keeps_forEach
    | with_reducible apply keeps_ite_snd
    | with_reducible apply keeps_foldl_snd
    | with_reducible apply keeps_foldl
    | split
    | dsimp -zeta only
    | with_reducible refine keeps_of_eq (by with_reducible assumption) ?_
    | with_reducible refine keeps_of_eq3 (by with_reducible assumption) ?_
    | dsimp only

theorem keeps_patternNotice {F : Kind → Prop} [May F .queues] {r s : State} {x0 : _} (h : Keeps F r s) : Keeps F r (patternNotice x0 s) := by
  unfold patternNotice
  repeat' first
    | with_reducible assumption
    | intro _
    | with_reducible apply keeps_ite
    | with_reducible apply keeps_testNotice
    | with_reducible apply keeps_ite_snd
    | with_reducible apply keeps_foldl_snd
    | with_reducible apply keeps_foldl
    | split
    | dsimp -zeta only
    | with_reducible refine keeps_of_eq (by with_reducible assumption) ?_
    | with_reducible refine keeps_of_eq3 (by with_reducible assumption) ?_
    | dsimp only

theorem keeps_testSettled {F : Kind → Prop} [May F .queues] {r s : State} {x0 : _} (h : Keeps F r s) : Keeps F r (testSettled x0 s) := by
  unfold testSettled
  repeat' first
    | with_reducible assumption
    | intro _
    | with_reducible apply keeps_ite
    | with_reducible apply keeps_capDrained
    | with_reducible apply keeps_forEach
    | with_reducible apply keeps_ite_snd
    | with_reducible apply keeps_foldl_snd
    | with_reducible apply keeps_foldl
    | split
    | dsimp -zeta only
    | with_reducible refine keeps_of_eq (by with_reducible assumption) ?_
    | with_reducible refine keeps_of_eq3 (by with_reducible assumption) ?_
    | dsimp only

theorem keeps_startBundle {F : Kind → Prop} [May F .regs] [May F .coef] [May F .seeds] {r s : State} {x0 : _} (h : Keeps F r s) : Keeps F r (startBundle x0 s) := by
  unfold startBundle
  repeat' first
    | with_reducible assumption
    | intro _
    | with_reducible apply keeps_ite
    | with_reducible apply keeps_setFld
    | with_reducible apply keeps_clearMem
    | with_reducible apply keeps_forEach
    | with_reducible apply keeps_ite_snd
    | with_reducible apply keeps_foldl_snd
    | with_reducible apply keeps_foldl
    | split
    | dsimp -zeta only
    | with_reducible refine keeps_of_eq (by with_reducible assumption) ?_
    | with_reducible refine keeps_of_eq3 (by with_reducible assumption) ?_
    | dsimp only

theorem keeps_putLocal {F : Kind → Prop} [May F .regs] [May F .ports] [May F .coef] [May F .seeds] {r s : State} {x0 x1 x2 : _} (h : Keeps F r s) : Keeps F r (putLocal x0 x1 x2 s) := by
  unfold putLocal
  repeat' first
    | with_reducible assumption
    | intro _
    | with_reducible apply keeps_ite
    | with_reducible apply keeps_modPort
    | with_reducible apply keeps_startBundle
    | with_reducible apply keeps_ite_snd
    | with_reducible apply keeps_foldl_snd
    | with_reducible apply keeps_foldl
    | split
    | dsimp -zeta only
    | with_reducible refine keeps_of_eq (by with_reducible assumption) ?_
    | with_reducible refine keeps_of_eq3 (by with_reducible assumption) ?_
    | dsimp only

theorem keeps_writeLocal {F : Kind → Prop} [May F .regs] [May F .ports] [May F .links] [May F .queues] [May F .coef] [May F .seeds] [May F .out] {r s : State} {x0 x1 x2 : _} (h : Keeps F r s) : Keeps F r (writeLocal x0 x1 x2 s) := by
  unfold writeLocal
  repeat' first
    | with_reducible assumption
    | intro _
    | with_reducible apply keeps_ite
    | with_reducible apply keeps_putLocal
    | with_reducible apply keeps_waitLocal
    | with_reducible apply keeps_testNotice
    | with_reducible apply keeps_wakePort
    | with_reducible apply keeps_ite_snd
    | with_reducible apply keeps_foldl_snd
    | with_reducible apply keeps_foldl
    | split
    | dsimp -zeta only
    | with_reducible refine keeps_of_eq (by with_reducible assumption) ?_
    | with_reducible refine keeps_of_eq3 (by with_reducible assumption) ?_
    | dsimp only

theorem keeps_applyLocal {F : Kind → Prop} [May F .regs] [May F .ports] [May F .links] [May F .queues] [May F .coef] [May F .seeds] [May F .out] {r s : State} {x0 x1 : _} (h : Keeps F r s) : Keeps F r (applyLocal x0 x1 s) := by
  unfold applyLocal
  repeat' first
    | with_reducible assumption
    | intro _
    | with_reducible apply keeps_ite
    | with_reducible apply keeps_putLocal
    | with_reducible apply keeps_modPort
    | with_reducible apply keeps_writeLocal
    | with_reducible apply keeps_ite_snd
    | with_reducible apply keeps_foldl_snd
    | with_reducible apply keeps_foldl
    | split
    | dsimp -zeta only
    | with_reducible refine keeps_of_eq (by with_reducible assumption) ?_
    | with_reducible refine keeps_of_eq3 (by with_reducible assumption) ?_
    | dsimp only

theorem keeps_writePortMode {F : Kind → Prop} [May F .regs] [May F .ports] [May F .pairs] [May F .links] [May F .queues] [May F .tbl] [May F .coef] [May F .seeds] [May F .raised] [May F .out] {r s : State} {x0 x1 : _} (h : Keeps F r s) : Keeps F r (writePortMode x0 x1 s) := by
  unfold writePortMode
  repeat' first
    | with_reducible assumption
    | intro _
    | with_reducible apply keeps_ite
    | with_reducible apply keeps_setReg
    | with_reducible apply keeps_writeLocal
    | with_reducible apply keeps_modPort
    | with_reducible apply keeps_proposeMode
    | with_reducible apply keeps_refreshModes
    | with_reducible apply keeps_forEach
    | with_reducible apply keeps_ite_snd
    | with_reducible apply keeps_foldl_snd
    | with_reducible apply keeps_foldl
    | split
    | dsimp -zeta only
    | with_reducible refine keeps_of_eq (by with_reducible assumption) ?_
    | with_reducible refine keeps_of_eq3 (by with_reducible assumption) ?_
    | dsimp only

theorem keeps_execPortModeWrite {F : Kind → Prop} [May F .regs] [May F .ports] [May F .pairs] [May F .links] [May F .queues] [May F .tbl] [May F .coef] [May F .seeds] [May F .raised] [May F .out] {r s : State} {x0 x1 : _} (h : Keeps F r s) : OutKeeps F r (execPortModeWrite x0 x1 s) := by
  unfold execPortModeWrite
  repeat' first
    | with_reducible assumption
    | intro _
    | with_reducible apply outKeeps_next
    | with_reducible apply outKeeps_ite
    | with_reducible apply keeps_ite
    | with_reducible apply keeps_writePortMode
    | with_reducible apply keeps_ite_snd
    | with_reducible apply keeps_foldl_snd
    | with_reducible apply keeps_foldl
    | split
    | dsimp -zeta only
    | with_reducible refine keeps_of_eq (by with_reducible assumption) ?_
    | with_reducible refine keeps_of_eq3 (by with_reducible assumption) ?_
    | dsimp only

theorem keeps_execTimetableModeApply {F : Kind → Prop} [May F .regs] [May F .ports] [May F .links] [May F .queues] [May F .coef] [May F .seeds] [May F .raised] [May F .out] {r s : State} {x0 : _} (h : Keeps F r s) : OutKeeps F r (execTimetableModeApply x0 s) := by
  unfold execTimetableModeApply
  repeat' first
    | with_reducible assumption
    | intro _
    | with_reducible apply outKeeps_next
    | with_reducible apply outKeeps_ite
    | with_reducible apply keeps_ite
    | with_reducible apply keeps_refreshModes
    | with_reducible apply keeps_applyLocal
    | with_reducible apply keeps_ite_snd
    | with_reducible apply keeps_foldl_snd
    | with_reducible apply keeps_foldl
    | split
    | dsimp -zeta only
    | with_reducible refine keeps_of_eq (by with_reducible assumption) ?_
    | with_reducible refine keeps_of_eq3 (by with_reducible assumption) ?_
    | dsimp only

theorem keeps_execBundleModeApply {F : Kind → Prop} [May F .regs] [May F .ports] [May F .links] [May F .queues] [May F .coef] [May F .seeds] [May F .raised] [May F .out] {r s : State} {x0 : _} (h : Keeps F r s) : OutKeeps F r (execBundleModeApply x0 s) := by
  unfold execBundleModeApply
  repeat' first
    | with_reducible assumption
    | intro _
    | with_reducible apply outKeeps_next
    | with_reducible apply outKeeps_ite
    | with_reducible apply keeps_ite
    | with_reducible apply keeps_refreshModes
    | with_reducible apply keeps_applyLocal
    | with_reducible apply keeps_ite_snd
    | with_reducible apply keeps_foldl_snd
    | with_reducible apply keeps_foldl
    | split
    | dsimp -zeta only
    | with_reducible refine keeps_of_eq (by with_reducible assumption) ?_
    | with_reducible refine keeps_of_eq3 (by with_reducible assumption) ?_
    | dsimp only

theorem keeps_releaseHeld {F : Kind → Prop} [May F .queues] {r s : State} {x0 : _} (h : Keeps F r s) : Keeps F r (releaseHeld x0 s) := by
  unfold releaseHeld
  repeat' first
    | with_reducible assumption
    | intro _
    | with_reducible apply keeps_ite
    | with_reducible apply keeps_modQueue
    | with_reducible apply keeps_forEach
    | with_reducible apply keeps_ite_snd
    | with_reducible apply keeps_foldl_snd
    | with_reducible apply keeps_foldl
    | split
    | dsimp -zeta only
    | with_reducible refine keeps_of_eq (by with_reducible assumption) ?_
    | with_reducible refine keeps_of_eq3 (by with_reducible assumption) ?_
    | dsimp only

theorem keeps_execTestModeDrainPoint {F : Kind → Prop} [May F .regs] [May F .ports] [May F .links] [May F .queues] [May F .coef] [May F .seeds] [May F .raised] [May F .out] {r s : State} {x0 x1 : _} (h : Keeps F r s) : OutKeeps F r (execTestModeDrainPoint x0 x1 s) := by
  unfold execTestModeDrainPoint
  repeat' first
    | with_reducible assumption
    | intro _
    | with_reducible apply outKeeps_next
    | with_reducible apply outKeeps_ite
    | with_reducible apply keeps_ite
    | with_reducible apply keeps_releaseHeld
    | with_reducible apply keeps_applyLocal
    | with_reducible apply keeps_capNotice
    | with_reducible apply keeps_testSettled
    | with_reducible apply keeps_wakePort
    | with_reducible apply keeps_refreshModes
    | with_reducible apply keeps_showLink
    | with_reducible apply keeps_showRoute
    | with_reducible apply keeps_forEach
    | with_reducible apply keeps_ite_snd
    | with_reducible apply keeps_foldl_snd
    | with_reducible apply keeps_foldl
    | split
    | dsimp -zeta only
    | with_reducible refine keeps_of_eq (by with_reducible assumption) ?_
    | with_reducible refine keeps_of_eq3 (by with_reducible assumption) ?_
    | dsimp only

theorem keeps_announcePattern {F : Kind → Prop} [May F .regs] [May F .ports] [May F .pairs] [May F .links] [May F .queues] [May F .tbl] [May F .coef] [May F .seeds] [May F .out] {r s : State} {x0 : _} (h : Keeps F r s) : Keeps F r (announcePattern x0 s) := by
  unfold announcePattern
  repeat' first
    | with_reducible assumption
    | intro _
    | with_reducible apply keeps_ite
    | with_reducible apply keeps_testSettled
    | with_reducible apply keeps_modPair
    | with_reducible apply keeps_modPort
    | with_reducible apply keeps_setFld
    | with_reducible apply keeps_capNotice
    | with_reducible apply keeps_judgeTransparent
    | with_reducible apply keeps_wakePort
    | with_reducible apply keeps_writeLocal
    | with_reducible apply keeps_forEach
    | with_reducible apply keeps_ite_snd
    | with_reducible apply keeps_foldl_snd
    | with_reducible apply keeps_foldl
    | split
    | dsimp -zeta only
    | with_reducible refine keeps_of_eq (by with_reducible assumption) ?_
    | with_reducible refine keeps_of_eq3 (by with_reducible assumption) ?_
    | dsimp only

theorem keeps_injectPattern {F : Kind → Prop} [May F .pairs] {r s : State} {x0 x1 : _} (h : Keeps F r s) : Keeps F r (injectPattern x0 x1 s) := by
  unfold injectPattern
  repeat' first
    | with_reducible assumption
    | intro _
    | with_reducible apply keeps_ite
    | with_reducible apply keeps_modPair
    | with_reducible apply keeps_forEach
    | with_reducible apply keeps_ite_snd
    | with_reducible apply keeps_foldl_snd
    | with_reducible apply keeps_foldl
    | split
    | dsimp -zeta only
    | with_reducible refine keeps_of_eq (by with_reducible assumption) ?_
    | with_reducible refine keeps_of_eq3 (by with_reducible assumption) ?_
    | dsimp only

theorem keeps_execPatternInjSingle {F : Kind → Prop} [May F .pairs] {r s : State} {x0 : _} (h : Keeps F r s) : OutKeeps F r (execPatternInjSingle x0 s) := by
  unfold execPatternInjSingle
  repeat' first
    | with_reducible assumption
    | intro _
    | with_reducible apply outKeeps_next
    | with_reducible apply outKeeps_ite
    | with_reducible apply keeps_ite
    | with_reducible apply keeps_injectPattern
    | with_reducible apply keeps_ite_snd
    | with_reducible apply keeps_foldl_snd
    | with_reducible apply keeps_foldl
    | split
    | dsimp -zeta only
    | with_reducible refine keeps_of_eq (by with_reducible assumption) ?_
    | with_reducible refine keeps_of_eq3 (by with_reducible assumption) ?_
    | dsimp only

theorem keeps_execPatternInjBurst {F : Kind → Prop} [May F .pairs] {r s : State} {x0 : _} (h : Keeps F r s) : OutKeeps F r (execPatternInjBurst x0 s) := by
  unfold execPatternInjBurst
  repeat' first
    | with_reducible assumption
    | intro _
    | with_reducible apply outKeeps_next
    | with_reducible apply outKeeps_ite
    | with_reducible apply keeps_ite
    | with_reducible apply keeps_injectPattern
    | with_reducible apply keeps_ite_snd
    | with_reducible apply keeps_foldl_snd
    | with_reducible apply keeps_foldl
    | split
    | dsimp -zeta only
    | with_reducible refine keeps_of_eq (by with_reducible assumption) ?_
    | with_reducible refine keeps_of_eq3 (by with_reducible assumption) ?_
    | dsimp only

theorem keeps_dropProposal {F : Kind → Prop} [May F .links] {r s : State} {x0 x1 : _} (h : Keeps F r s) : Keeps F r (dropProposal x0 x1 s) := by
  unfold dropProposal
  repeat' first
    | with_reducible assumption
    | intro _
    | with_reducible apply keeps_ite
    | with_reducible apply keeps_modLink
    | with_reducible apply keeps_ite_snd
    | with_reducible apply keeps_foldl_snd
    | with_reducible apply keeps_foldl
    | split
    | dsimp -zeta only
    | with_reducible refine keeps_of_eq (by with_reducible assumption) ?_
    | with_reducible refine keeps_of_eq3 (by with_reducible assumption) ?_
    | dsimp only

theorem keeps_consume {F : Kind → Prop} [May F .links] {r s : State} {x0 x1 x2 : _} (h : Keeps F r s) : Keeps F r (consume x0 x1 x2 s) := by
  unfold consume
  repeat' first
    | with_reducible assumption
    | intro _
    | with_reducible apply keeps_ite
    | with_reducible apply keeps_modLink
    | with_reducible apply keeps_ite_snd
    | with_reducible apply keeps_foldl_snd
    | with_reducible apply keeps_foldl
    | split
    | dsimp -zeta only
    | with_reducible refine keeps_of_eq (by with_reducible assumption) ?_
    | with_reducible refine keeps_of_eq3 (by with_reducible assumption) ?_
    | dsimp only

theorem keeps_crossing {F : Kind → Prop} [May F .links] {r s : State} {x0 x1 : _} (h : Keeps F r s) : Keeps F r (crossing x0 x1 s).2 := by
  show KeepsP F r _
  unfold crossing
  repeat' first
    | with_reducible assumption
    | intro _
    | with_reducible apply keepsP_mk
    | with_reducible apply keepsP_ite
    | with_reducible apply keeps_ite
    | with_reducible apply keeps_modLink
    | with_reducible apply keeps_dropProposal
    | with_reducible apply keeps_ite_snd
    | with_reducible apply keeps_foldl_snd
    | with_reducible apply keeps_foldl
    | split
    | dsimp -zeta only
    | with_reducible refine keeps_of_eq (by with_reducible assumption) ?_
    | with_reducible refine keeps_of_eq3 (by with_reducible assumption) ?_
    | dsimp only

theorem keeps_agreeMode {F : Kind → Prop} [May F .links] [May F .queues] {r s : State} {x0 x1 x2 x3 : _} (h : Keeps F r s) : Keeps F r (agreeMode x0 x1 x2 x3 s) := by
  unfold agreeMode
  repeat' first
    | with_reducible assumption
    | intro _
    | with_reducible apply keeps_ite
    | with_reducible apply keeps_capAgree
    | with_reducible apply keeps_agree
    | with_reducible apply keeps_ite_snd
    | with_reducible apply keeps_foldl_snd
    | with_reducible apply keeps_foldl
    | split
    | dsimp -zeta only
    | with_reducible refine keeps_of_eq (by with_reducible assumption) ?_
    | with_reducible refine keeps_of_eq3 (by with_reducible assumption) ?_
    | dsimp only

theorem keeps_declineMode {F : Kind → Prop} [May F .regs] [May F .pairs] [May F .links] [May F .tbl] {r s : State} {x0 x1 x2 x3 : _} (h : Keeps F r s) : Keeps F r (declineMode x0 x1 x2 x3 s) := by
  unfold declineMode
  repeat' first
    | with_reducible assumption
    | intro _
    | with_reducible apply keeps_ite
    | with_reducible apply keeps_endExchange
    | with_reducible apply keeps_dropTxTables
    | with_reducible apply keeps_modLink
    | with_reducible apply keeps_beginModeTables
    | with_reducible apply keeps_ite_snd
    | with_reducible apply keeps_foldl_snd
    | with_reducible apply keeps_foldl
    | split
    | dsimp -zeta only
    | with_reducible refine keeps_of_eq (by with_reducible assumption) ?_
    | with_reducible refine keeps_of_eq3 (by with_reducible assumption) ?_
    | dsimp only

theorem keeps_execModePropose {F : Kind → Prop} [May F .regs] [May F .pairs] [May F .links] [May F .queues] [May F .tbl] [May F .raised] {r s : State} {x0 x1 x2 : _} (h : Keeps F r s) : OutKeeps F r (execModePropose x0 x1 x2 s) := by
  unfold execModePropose
  repeat' first
    | with_reducible assumption
    | intro _
    | with_reducible apply outKeeps_next
    | with_reducible apply outKeeps_ite
    | with_reducible apply keeps_ite
    | with_reducible apply keeps_consume
    | with_reducible apply keeps_crossing
    | with_reducible apply keeps_showLink
    | with_reducible apply keeps_declineMode
    | with_reducible apply keeps_sendPort
    | with_reducible apply keeps_agreeMode
    | with_reducible apply keeps_modLink
    | with_reducible apply keeps_ite_snd
    | with_reducible apply keeps_foldl_snd
    | with_reducible apply keeps_foldl
    | split
    | dsimp -zeta only
    | with_reducible refine keeps_of_eq (by with_reducible assumption) ?_
    | with_reducible refine keeps_of_eq3 (by with_reducible assumption) ?_
    | dsimp only

theorem keeps_execModeAccept {F : Kind → Prop} [May F .regs] [May F .links] [May F .queues] [May F .raised] {r s : State} {x0 x1 x2 : _} (h : Keeps F r s) : OutKeeps F r (execModeAccept x0 x1 x2 s) := by
  unfold execModeAccept
  repeat' first
    | with_reducible assumption
    | intro _
    | with_reducible apply outKeeps_next
    | with_reducible apply outKeeps_ite
    | with_reducible apply keeps_ite
    | with_reducible apply keeps_consume
    | with_reducible apply keeps_dropProposal
    | with_reducible apply keeps_showLink
    | with_reducible apply keeps_agreeMode
    | with_reducible apply keeps_ite_snd
    | with_reducible apply keeps_foldl_snd
    | with_reducible apply keeps_foldl
    | split
    | dsimp -zeta only
    | with_reducible refine keeps_of_eq (by with_reducible assumption) ?_
    | with_reducible refine keeps_of_eq3 (by with_reducible assumption) ?_
    | dsimp only

theorem keeps_execModeDecline {F : Kind → Prop} [May F .regs] [May F .ports] [May F .pairs] [May F .links] [May F .tbl] [May F .raised] {r s : State} {x0 x1 x2 : _} (h : Keeps F r s) : OutKeeps F r (execModeDecline x0 x1 x2 s) := by
  unfold execModeDecline
  repeat' first
    | with_reducible assumption
    | intro _
    | with_reducible apply outKeeps_next
    | with_reducible apply outKeeps_ite
    | with_reducible apply keeps_ite
    | with_reducible apply keeps_consume
    | with_reducible apply keeps_inc
    | with_reducible apply keeps_dropProposal
    | with_reducible apply keeps_modLink
    | with_reducible apply keeps_endExchange
    | with_reducible apply keeps_showLink
    | with_reducible apply keeps_afterPending
    | with_reducible apply keeps_ite_snd
    | with_reducible apply keeps_foldl_snd
    | with_reducible apply keeps_foldl
    | split
    | dsimp -zeta only
    | with_reducible refine keeps_of_eq (by with_reducible assumption) ?_
    | with_reducible refine keeps_of_eq3 (by with_reducible assumption) ?_
    | dsimp only

theorem keeps_swapBanks {F : Kind → Prop} [May F .regs] [May F .pairs] {r s : State} {x0 x1 : _} (h : Keeps F r s) : Keeps F r (swapBanks x0 x1 s) := by
  unfold swapBanks
  repeat' first
    | with_reducible assumption
    | intro _
    | with_reducible apply keeps_ite
    | with_reducible apply keeps_setFld
    | with_reducible apply keeps_inc
    | with_reducible apply keeps_modPair
    | with_reducible apply keeps_forEach
    | with_reducible apply keeps_ite_snd
    | with_reducible apply keeps_foldl_snd
    | with_reducible apply keeps_foldl
    | split
    | dsimp -zeta only
    | with_reducible refine keeps_of_eq (by with_reducible assumption) ?_
    | with_reducible refine keeps_of_eq3 (by with_reducible assumption) ?_
    | dsimp only

theorem keeps_applyCoding {F : Kind → Prop} [May F .regs] [May F .pairs] [May F .links] {r s : State} {x0 x1 x2 : _} (h : Keeps F r s) : Keeps F r (applyCoding x0 x1 x2 s) := by
  unfold applyCoding
  repeat' first
    | with_reducible assumption
    | intro _
    | with_reducible apply keeps_ite
    | with_reducible apply keeps_swapBanks
    | with_reducible apply keeps_modLink
    | with_reducible apply keeps_ite_snd
    | with_reducible apply keeps_foldl_snd
    | with_reducible apply keeps_foldl
    | split
    | dsimp -zeta only
    | with_reducible refine keeps_of_eq (by with_reducible assumption) ?_
    | with_reducible refine keeps_of_eq3 (by with_reducible assumption) ?_
    | dsimp only

theorem keeps_applyModeDir {F : Kind → Prop} [May F .regs] [May F .pairs] [May F .links] {r s : State} {x0 x1 x2 x3 : _} (h : Keeps F r s) : Keeps F r (applyModeDir x0 x1 x2 x3 s) := by
  unfold applyModeDir
  repeat' first
    | with_reducible assumption
    | intro _
    | with_reducible apply keeps_ite
    | with_reducible apply keeps_setStream
    | with_reducible apply keeps_swapBanks
    | with_reducible apply keeps_applyCoding
    | with_reducible apply keeps_ite_snd
    | with_reducible apply keeps_foldl_snd
    | with_reducible apply keeps_foldl
    | split
    | dsimp -zeta only
    | with_reducible refine keeps_of_eq (by with_reducible assumption) ?_
    | with_reducible refine keeps_of_eq3 (by with_reducible assumption) ?_
    | dsimp only

theorem keeps_modeRetrain {F : Kind → Prop} [May F .free] [May F .regs] [May F .ports] [May F .pairs] [May F .links] [May F .queues] [May F .coef] [May F .seeds] [May F .banks] [May F .tiles] [May F .diags] [May F .cals] [May F .calRuns] [May F .completions] [May F .claims] [May F .waiting] [May F .later] [May F .tests] [May F .raised] {r s : State} {x0 x1 x2 x3 : _} (h : Keeps F r s) : Keeps F r (modeRetrain x0 x1 x2 x3 s) := by
  unfold modeRetrain
  repeat' first
    | with_reducible assumption
    | intro _
    | with_reducible apply keeps_ite
    | with_reducible apply keeps_modLink
    | with_reducible apply keeps_beginRetrain
    | with_reducible apply keeps_ite_snd
    | with_reducible apply keeps_foldl_snd
    | with_reducible apply keeps_foldl
    | split
    | dsimp -zeta only
    | with_reducible refine keeps_of_eq (by with_reducible assumption) ?_
    | with_reducible refine keeps_of_eq3 (by with_reducible assumption) ?_
    | dsimp only

theorem keeps_applyModeWhole {F : Kind → Prop} [May F .free] [May F .regs] [May F .ports] [May F .pairs] [May F .links] [May F .queues] [May F .held] [May F .snr] [May F .coef] [May F .seeds] [May F .banks] [May F .tiles] [May F .diags] [May F .cals] [May F .calRuns] [May F .completions] [May F .claims] [May F .waiting] [May F .later] [May F .tests] [May F .raised] {r s : State} {x0 x1 x2 x3 : _} (h : Keeps F r s) : Keeps F r (applyModeWhole x0 x1 x2 x3 s) := by
  unfold applyModeWhole
  repeat' first
    | with_reducible assumption
    | intro _
    | with_reducible apply keeps_ite
    | with_reducible apply keeps_modLink
    | with_reducible apply keeps_modeRetrain
    | with_reducible apply keeps_clearBands
    | with_reducible apply keeps_linkDown
    | with_reducible apply keeps_setHeldTable
    | with_reducible apply keeps_forEach
    | with_reducible apply keeps_ite_snd
    | with_reducible apply keeps_foldl_snd
    | with_reducible apply keeps_foldl
    | split
    | dsimp -zeta only
    | with_reducible refine keeps_of_eq (by with_reducible assumption) ?_
    | with_reducible refine keeps_of_eq3 (by with_reducible assumption) ?_
    | dsimp only

theorem keeps_execModeChangeApply {F : Kind → Prop} [May F .free] [May F .regs] [May F .ports] [May F .pairs] [May F .links] [May F .queues] [May F .tbl] [May F .held] [May F .snr] [May F .coef] [May F .seeds] [May F .banks] [May F .tiles] [May F .diags] [May F .cals] [May F .calRuns] [May F .completions] [May F .claims] [May F .waiting] [May F .later] [May F .tests] [May F .raised] {r s : State} {x0 : _} (h : Keeps F r s) : OutKeeps F r (execModeChangeApply x0 s) := by
  unfold execModeChangeApply
  repeat' first
    | with_reducible assumption
    | intro _
    | with_reducible apply outKeeps_next
    | with_reducible apply outKeeps_ite
    | with_reducible apply keeps_ite
    | with_reducible apply keeps_applyModeDir
    | with_reducible apply keeps_modLink
    | with_reducible apply keeps_applyModeWhole
    | with_reducible apply keeps_endRate
    | with_reducible apply keeps_judgeTransparent
    | with_reducible apply keeps_capNotice
    | with_reducible apply keeps_showLink
    | with_reducible apply keeps_afterPending
    | with_reducible apply keeps_ite_snd
    | with_reducible apply keeps_foldl_snd
    | with_reducible apply keeps_foldl
    | split
    | dsimp -zeta only
    | with_reducible refine keeps_of_eq (by with_reducible assumption) ?_
    | with_reducible refine keeps_of_eq3 (by with_reducible assumption) ?_
    | dsimp only

end Sys2Proof.Machine
end

