-- ==== Sys2Proof/Laws/KeepsWaymark.lean ====
section
/-! SUPPORT. What the operations of Machine/Waymark.lean keep. -/
set_option linter.unusedTactic false
set_option linter.unreachableTactic false
set_option linter.tactic.unusedName false
namespace Sys2Proof.Machine

theorem keeps_putMessage {F : Kind → Prop} [May F .regs] [May F .out] {r s : State} {x0 x1 x2 x3 x4 x5 : _} (h : Keeps F r s) : Keeps F r (putMessage x0 x1 x2 x3 x4 x5 s) := by
  unfold putMessage
  repeat' first
    | with_reducible assumption
    | intro _
    | with_reducible apply keeps_ite
    | with_reducible apply keeps_setReg
    | with_reducible apply keeps_emit
    | with_reducible apply keeps_countClips
    | with_reducible apply keeps_forEach
    | with_reducible apply keeps_ite_snd
    | with_reducible apply keeps_foldl_snd
    | with_reducible apply keeps_foldl
    | split
    | dsimp -zeta only
    | with_reducible refine keeps_of_eq (by with_reducible assumption) ?_
    | with_reducible refine keeps_of_eq3 (by with_reducible assumption) ?_
    | dsimp only

theorem keeps_sendNew {F : Kind → Prop} [May F .regs] [May F .pairs] [May F .out] {r s : State} {x0 x1 x2 x3 : _} (h : Keeps F r s) : Keeps F r (sendNew x0 x1 x2 x3 s) := by
  unfold sendNew
  repeat' first
    | with_reducible assumption
    | intro _
    | with_reducible apply keeps_ite
    | with_reducible apply keeps_modPair
    | with_reducible apply keeps_putMessage
    | with_reducible apply keeps_ite_snd
    | with_reducible apply keeps_foldl_snd
    | with_reducible apply keeps_foldl
    | split
    | dsimp -zeta only
    | with_reducible refine keeps_of_eq (by with_reducible assumption) ?_
    | with_reducible refine keeps_of_eq3 (by with_reducible assumption) ?_
    | dsimp only

theorem keeps_recordSent {F : Kind → Prop} [May F .regs] [May F .links] {r s : State} {x0 x1 x2 : _} (h : Keeps F r s) : Keeps F r (recordSent x0 x1 x2 s) := by
  unfold recordSent
  repeat' first
    | with_reducible assumption
    | intro _
    | with_reducible apply keeps_ite
    | with_reducible apply keeps_modLink
    | with_reducible apply keeps_inc
    | with_reducible apply keeps_ite_snd
    | with_reducible apply keeps_foldl_snd
    | with_reducible apply keeps_foldl
    | split
    | dsimp -zeta only
    | with_reducible refine keeps_of_eq (by with_reducible assumption) ?_
    | with_reducible refine keeps_of_eq3 (by with_reducible assumption) ?_
    | dsimp only

theorem keeps_resend {F : Kind → Prop} [May F .regs] [May F .pairs] [May F .out] {r s : State} {x0 x1 x2 : _} (h : Keeps F r s) : Keeps F r (resend x0 x1 x2 s) := by
  unfold resend
  repeat' first
    | with_reducible assumption
    | intro _
    | with_reducible apply keeps_ite
    | with_reducible apply keeps_modPair
    | with_reducible apply keeps_putMessage
    | with_reducible apply keeps_ite_snd
    | with_reducible apply keeps_foldl_snd
    | with_reducible apply keeps_foldl
    | split
    | dsimp -zeta only
    | with_reducible refine keeps_of_eq (by with_reducible assumption) ?_
    | with_reducible refine keeps_of_eq3 (by with_reducible assumption) ?_
    | dsimp only

theorem keeps_sendOne {F : Kind → Prop} [May F .regs] [May F .pairs] [May F .links] [May F .out] {r s : State} {x0 x1 x2 : _} (h : Keeps F r s) : Keeps F r (sendOne x0 x1 x2 s) := by
  unfold sendOne
  repeat' first
    | with_reducible assumption
    | intro _
    | with_reducible apply keeps_ite
    | with_reducible apply keeps_modPair
    | with_reducible apply keeps_putMessage
    | with_reducible apply keeps_sendNew
    | with_reducible apply keeps_inc
    | with_reducible apply keeps_setFld
    | with_reducible apply keeps_modLink
    | with_reducible apply keeps_resend
    | with_reducible apply keeps_ite_snd
    | with_reducible apply keeps_foldl_snd
    | with_reducible apply keeps_foldl
    | split
    | dsimp -zeta only
    | with_reducible refine keeps_of_eq (by with_reducible assumption) ?_
    | with_reducible refine keeps_of_eq3 (by with_reducible assumption) ?_
    | dsimp only

theorem keeps_tickPair {F : Kind → Prop} [May F .pairs] {r s : State} {x0 x1 : _} (h : Keeps F r s) : Keeps F r (tickPair x0 x1 s) := by
  unfold tickPair
  repeat' first
    | with_reducible assumption
    | intro _
    | with_reducible apply keeps_ite
    | with_reducible apply keeps_modPair
    | with_reducible apply keeps_ite_snd
    | with_reducible apply keeps_foldl_snd
    | with_reducible apply keeps_foldl
    | split
    | dsimp -zeta only
    | with_reducible refine keeps_of_eq (by with_reducible assumption) ?_
    | with_reducible refine keeps_of_eq3 (by with_reducible assumption) ?_
    | dsimp only

theorem keeps_takeAck {F : Kind → Prop} [May F .pairs] [May F .links] {r s : State} {x0 x1 x2 : _} (h : Keeps F r s) : Keeps F r (takeAck x0 x1 x2 s) := by
  unfold takeAck
  repeat' first
    | with_reducible assumption
    | intro _
    | with_reducible apply keeps_ite
    | with_reducible apply keeps_modPair
    | with_reducible apply keeps_modLink
    | with_reducible apply keeps_ite_snd
    | with_reducible apply keeps_foldl_snd
    | with_reducible apply keeps_foldl
    | split
    | dsimp -zeta only
    | with_reducible refine keeps_of_eq (by with_reducible assumption) ?_
    | with_reducible refine keeps_of_eq3 (by with_reducible assumption) ?_
    | dsimp only

theorem keeps_deliver {F : Kind → Prop} [May F .links] {r s : State} {x0 x1 x2 : _} (h : Keeps F r s) : Keeps F r (deliver x0 x1 x2 s) := by
  unfold deliver
  repeat' first
    | with_reducible assumption
    | intro _
    | with_reducible apply keeps_ite
    | with_reducible apply keeps_modLink
    | with_reducible apply keeps_ite_snd
    | with_reducible apply keeps_foldl_snd
    | with_reducible apply keeps_foldl
    | split
    | dsimp -zeta only
    | with_reducible refine keeps_of_eq (by with_reducible assumption) ?_
    | with_reducible refine keeps_of_eq3 (by with_reducible assumption) ?_
    | dsimp only

theorem keeps_acceptSeq {F : Kind → Prop} [May F .pairs] [May F .links] {r s : State} {x0 x1 x2 : _} (h : Keeps F r s) : Keeps F r (acceptSeq x0 x1 x2 s) := by
  unfold acceptSeq
  repeat' first
    | with_reducible assumption
    | intro _
    | with_reducible apply keeps_ite
    | with_reducible apply keeps_modPair
    | with_reducible apply keeps_deliver
    | with_reducible apply keeps_ite_snd
    | with_reducible apply keeps_foldl_snd
    | with_reducible apply keeps_foldl
    | split
    | dsimp -zeta only
    | with_reducible refine keeps_of_eq (by with_reducible assumption) ?_
    | with_reducible refine keeps_of_eq3 (by with_reducible assumption) ?_
    | dsimp only

theorem keeps_receivePair {F : Kind → Prop} [May F .regs] [May F .pairs] [May F .links] {r s : State} {x0 x1 : _} (h : Keeps F r s) : Keeps F r (receivePair x0 x1 s) := by
  unfold receivePair
  repeat' first
    | with_reducible assumption
    | intro _
    | with_reducible apply keeps_ite
    | with_reducible apply keeps_modPair
    | with_reducible apply keeps_inc
    | with_reducible apply keeps_setReg
    | with_reducible apply keeps_takeAck
    | with_reducible apply keeps_acceptSeq
    | with_reducible apply keeps_deliver
    | with_reducible apply keeps_forEach
    | with_reducible apply keeps_ite_snd
    | with_reducible apply keeps_foldl_snd
    | with_reducible apply keeps_foldl
    | split
    | dsimp -zeta only
    | with_reducible refine keeps_of_eq (by with_reducible assumption) ?_
    | with_reducible refine keeps_of_eq3 (by with_reducible assumption) ?_
    | dsimp only

theorem keeps_compareCount {F : Kind → Prop} [May F .regs] [May F .pairs] [May F .links] [May F .raised] {r s : State} {x0 x1 x2 : _} (h : Keeps F r s) : Keeps F r (compareCount x0 x1 x2 s) := by
  unfold compareCount
  repeat' first
    | with_reducible assumption
    | intro _
    | with_reducible apply keeps_ite
    | with_reducible apply keeps_modLink
    | with_reducible apply keeps_sendPort
    | with_reducible apply keeps_raise
    | with_reducible apply keeps_inc
    | with_reducible apply keeps_requestRetrain
    | with_reducible apply keeps_ite_snd
    | with_reducible apply keeps_foldl_snd
    | with_reducible apply keeps_foldl
    | split
    | dsimp -zeta only
    | with_reducible refine keeps_of_eq (by with_reducible assumption) ?_
    | with_reducible refine keeps_of_eq3 (by with_reducible assumption) ?_
    | dsimp only

theorem keeps_compareAll {F : Kind → Prop} [May F .regs] [May F .pairs] [May F .links] [May F .raised] {r s : State} {l : LinkId} {ms : List (Nat × Msg)} {run : Nat} (h : Keeps F r s) : Keeps F r (compareAll l ms run s).2 := by
  induction ms generalizing run s with
  | nil => exact h
  | cons m ms ih => exact ih (keeps_compareCount h)

theorem keeps_lapseSwaps {F : Kind → Prop} [May F .regs] [May F .pairs] [May F .links] {r s : State} {x0 : _} (h : Keeps F r s) : Keeps F r (lapseSwaps x0 s) := by
  unfold lapseSwaps
  repeat' first
    | with_reducible assumption
    | intro _
    | with_reducible apply keeps_ite
    | with_reducible apply keeps_cancelProposal
    | with_reducible apply keeps_forEach
    | with_reducible apply keeps_ite_snd
    | with_reducible apply keeps_foldl_snd
    | with_reducible apply keeps_foldl
    | split
    | dsimp -zeta only
    | with_reducible refine keeps_of_eq (by with_reducible assumption) ?_
    | with_reducible refine keeps_of_eq3 (by with_reducible assumption) ?_
    | dsimp only

theorem keeps_hearPattern {F : Kind → Prop} [May F .regs] [May F .ports] [May F .pairs] [May F .links] [May F .tbl] {r s : State} {x0 x1 : _} (h : Keeps F r s) : Keeps F r (hearPattern x0 x1 s) := by
  unfold hearPattern
  repeat' first
    | with_reducible assumption
    | intro _
    | with_reducible apply keeps_ite
    | with_reducible apply keeps_modPair
    | with_reducible apply keeps_setFld
    | with_reducible apply keeps_modPort
    | with_reducible apply keeps_judgeTransparent
    | with_reducible apply keeps_forEach
    | with_reducible apply keeps_ite_snd
    | with_reducible apply keeps_foldl_snd
    | with_reducible apply keeps_foldl
    | split
    | dsimp -zeta only
    | with_reducible refine keeps_of_eq (by with_reducible assumption) ?_
    | with_reducible refine keeps_of_eq3 (by with_reducible assumption) ?_
    | dsimp only

theorem keeps_hearSymbol {F : Kind → Prop} [May F .regs] [May F .ports] [May F .pairs] [May F .links] [May F .queues] [May F .tbl] [May F .raised] [May F .out] {r s : State} {x0 x1 : _} (h : Keeps F r s) : Keeps F r (hearSymbol x0 x1 s) := by
  unfold hearSymbol
  repeat' first
    | with_reducible assumption
    | intro _
    | with_reducible apply keeps_ite
    | with_reducible apply keeps_receivePair
    | with_reducible apply keeps_compareAll
    | with_reducible apply keeps_modLink
    | with_reducible apply keeps_hearPattern
    | with_reducible apply keeps_beginWake
    | with_reducible apply keeps_inc
    | with_reducible apply keeps_lapseSwaps
    | with_reducible apply keeps_resumeAtStage
    | with_reducible apply keeps_modQueue
    | with_reducible apply keeps_forEach
    | with_reducible apply keeps_ite_snd
    | with_reducible apply keeps_foldl_snd
    | with_reducible apply keeps_foldl
    | split
    | dsimp -zeta only
    | with_reducible refine keeps_of_eq (by with_reducible assumption) ?_
    | with_reducible refine keeps_of_eq3 (by with_reducible assumption) ?_
    | dsimp only

theorem keeps_execWaymarkSymbolRx {F : Kind → Prop} [May F .regs] [May F .ports] [May F .pairs] [May F .links] [May F .queues] [May F .tbl] [May F .errs] [May F .coef] [May F .raised] [May F .out] {r s : State} {x0 x1 : _} (h : Keeps F r s) : OutKeeps F r (execWaymarkSymbolRx x0 x1 s) := by
  unfold execWaymarkSymbolRx
  repeat' first
    | with_reducible assumption
    | intro _
    | with_reducible apply outKeeps_next
    | with_reducible apply outKeeps_ite
    | with_reducible apply keeps_ite
    | with_reducible apply keeps_rxWaymark
    | with_reducible apply keeps_showLink
    | with_reducible apply keeps_hearSymbol
    | with_reducible apply keeps_ite_snd
    | with_reducible apply keeps_foldl_snd
    | with_reducible apply keeps_foldl
    | split
    | dsimp -zeta only
    | with_reducible refine keeps_of_eq (by with_reducible assumption) ?_
    | with_reducible refine keeps_of_eq3 (by with_reducible assumption) ?_
    | dsimp only

theorem keeps_execWaymarkSyncLoss {F : Kind → Prop} [May F .free] [May F .regs] [May F .ports] [May F .pairs] [May F .links] [May F .queues] [May F .banks] [May F .tiles] [May F .diags] [May F .completions] [May F .claims] [May F .waiting] [May F .later] [May F .tests] [May F .raised] {r s : State} {x0 : _} (h : Keeps F r s) : OutKeeps F r (execWaymarkSyncLoss x0 s) := by
  unfold execWaymarkSyncLoss
  repeat' first
    | with_reducible assumption
    | intro _
    | with_reducible apply outKeeps_next
    | with_reducible apply outKeeps_ite
    | with_reducible apply keeps_ite
    | with_reducible apply keeps_linkDown
    | with_reducible apply keeps_phaseFail
    | with_reducible apply keeps_ite_snd
    | with_reducible apply keeps_foldl_snd
    | with_reducible apply keeps_foldl
    | split
    | dsimp -zeta only
    | with_reducible refine keeps_of_eq (by with_reducible assumption) ?_
    | with_reducible refine keeps_of_eq3 (by with_reducible assumption) ?_
    | dsimp only

theorem keeps_execWmMessageAbandon {F : Kind → Prop} [May F .regs] [May F .pairs] [May F .links] [May F .raised] {r s : State} {x0 x1 : _} (h : Keeps F r s) : OutKeeps F r (execWmMessageAbandon x0 x1 s) := by
  unfold execWmMessageAbandon
  repeat' first
    | with_reducible assumption
    | intro _
    | with_reducible apply outKeeps_next
    | with_reducible apply outKeeps_ite
    | with_reducible apply keeps_ite
    | with_reducible apply keeps_modPair
    | with_reducible apply keeps_raise
    | with_reducible apply keeps_inc
    | with_reducible apply keeps_modLink
    | with_reducible apply keeps_showLink
    | with_reducible apply keeps_requestRetrain
    | with_reducible apply keeps_ite_snd
    | with_reducible apply keeps_foldl_snd
    | with_reducible apply keeps_foldl
    | split
    | dsimp -zeta only
    | with_reducible refine keeps_of_eq (by with_reducible assumption) ?_
    | with_reducible refine keeps_of_eq3 (by with_reducible assumption) ?_
    | dsimp only

theorem keeps_execWmStatus {F : Kind → Prop} [May F .links] {r s : State} {x0 x1 x2 : _} (h : Keeps F r s) : OutKeeps F r (execWmStatus x0 x1 x2 s) := by
  unfold execWmStatus
  repeat' first
    | with_reducible assumption
    | intro _
    | with_reducible apply outKeeps_next
    | with_reducible apply outKeeps_ite
    | with_reducible apply keeps_ite
    | with_reducible apply keeps_consume
    | with_reducible apply keeps_ite_snd
    | with_reducible apply keeps_foldl_snd
    | with_reducible apply keeps_foldl
    | split
    | dsimp -zeta only
    | with_reducible refine keeps_of_eq (by with_reducible assumption) ?_
    | with_reducible refine keeps_of_eq3 (by with_reducible assumption) ?_
    | dsimp only

theorem keeps_execStageCheck {F : Kind → Prop} [May F .regs] [May F .links] [May F .raised] {r s : State} {x0 x1 x2 : _} (h : Keeps F r s) : OutKeeps F r (execStageCheck x0 x1 x2 s) := by
  unfold execStageCheck
  repeat' first
    | with_reducible assumption
    | intro _
    | with_reducible apply outKeeps_next
    | with_reducible apply outKeeps_ite
    | with_reducible apply keeps_ite
    | with_reducible apply keeps_modLink
    | with_reducible apply keeps_consume
    | with_reducible apply keeps_showLink
    | with_reducible apply keeps_raise
    | with_reducible apply keeps_inc
    | with_reducible apply keeps_ite_snd
    | with_reducible apply keeps_foldl_snd
    | with_reducible apply keeps_foldl
    | split
    | dsimp -zeta only
    | with_reducible refine keeps_of_eq (by with_reducible assumption) ?_
    | with_reducible refine keeps_of_eq3 (by with_reducible assumption) ?_
    | dsimp only

theorem keeps_execWmUnknownCode {F : Kind → Prop} [May F .regs] {r s : State} {x0 x1 x2 : _} (h : Keeps F r s) : OutKeeps F r (execWmUnknownCode x0 x1 x2 s) := by
  unfold execWmUnknownCode
  repeat' first
    | with_reducible assumption
    | intro _
    | with_reducible apply outKeeps_next
    | with_reducible apply outKeeps_ite
    | with_reducible apply keeps_ite
    | with_reducible apply keeps_inc
    | with_reducible apply keeps_ite_snd
    | with_reducible apply keeps_foldl_snd
    | with_reducible apply keeps_foldl
    | split
    | dsimp -zeta only
    | with_reducible refine keeps_of_eq (by with_reducible assumption) ?_
    | with_reducible refine keeps_of_eq3 (by with_reducible assumption) ?_
    | dsimp only

end Sys2Proof.Machine
end

