-- ==== Sys2Proof/Laws/KeepsCoach.lean ====
section
/-! SUPPORT. What the operations of Machine/Coach.lean keep. -/
set_option linter.unusedTactic false
set_option linter.unreachableTactic false
set_option linter.tactic.unusedName false
namespace Sys2Proof.Machine

theorem keeps_sendLabels {F : Kind → Prop} [May F .regs] [May F .out] {r s : State} {x0 x1 x2 : _} (h : Keeps F r s) : Keeps F r (sendLabels x0 x1 x2 s) := by
  unfold sendLabels
  repeat' first
    | with_reducible assumption
    | intro _
    | with_reducible apply keeps_ite
    | with_reducible apply keeps_emit
    | with_reducible apply keeps_countClips
    | with_reducible apply keeps_ite_snd
    | with_reducible apply keeps_foldl_snd
    | with_reducible apply keeps_foldl
    | split
    | dsimp -zeta only
    | with_reducible refine keeps_of_eq (by with_reducible assumption) ?_
    | with_reducible refine keeps_of_eq3 (by with_reducible assumption) ?_
    | dsimp only

theorem keeps_sendPrbs {F : Kind → Prop} [May F .regs] [May F .pairs] [May F .out] {r s : State} {x0 x1 x2 : _} (h : Keeps F r s) : Keeps F r (sendPrbs x0 x1 x2 s) := by
  unfold sendPrbs
  repeat' first
    | with_reducible assumption
    | intro _
    | with_reducible apply keeps_ite
    | with_reducible apply keeps_sendLabels
    | with_reducible apply keeps_modPair
    | with_reducible apply keeps_ite_snd
    | with_reducible apply keeps_foldl_snd
    | with_reducible apply keeps_foldl
    | split
    | dsimp -zeta only
    | with_reducible refine keeps_of_eq (by with_reducible assumption) ?_
    | with_reducible refine keeps_of_eq3 (by with_reducible assumption) ?_
    | dsimp only

theorem keeps_sendPairSymbol {F : Kind → Prop} [May F .regs] [May F .pairs] [May F .out] {r s : State} {x0 x1 x2 x3 x4 : _} (h : Keeps F r s) : Keeps F r (sendPairSymbol x0 x1 x2 x3 x4 s) := by
  unfold sendPairSymbol
  repeat' first
    | with_reducible assumption
    | intro _
    | with_reducible apply keeps_ite
    | with_reducible apply keeps_sendLabels
    | with_reducible apply keeps_modPair
    | with_reducible apply keeps_ite_snd
    | with_reducible apply keeps_foldl_snd
    | with_reducible apply keeps_foldl
    | split
    | dsimp -zeta only
    | with_reducible refine keeps_of_eq (by with_reducible assumption) ?_
    | with_reducible refine keeps_of_eq3 (by with_reducible assumption) ?_
    | dsimp only

theorem keeps_sendSymbol {F : Kind → Prop} [May F .regs] [May F .pairs] [May F .queues] [May F .out] {r s : State} {x0 x1 : _} (h : Keeps F r s) : Keeps F r (sendSymbol x0 x1 s) := by
  unfold sendSymbol
  repeat' first
    | with_reducible assumption
    | intro _
    | with_reducible apply keeps_ite
    | with_reducible apply keeps_sendPairSymbol
    | with_reducible apply keeps_sendPrbs
    | with_reducible apply keeps_sendLabels
    | with_reducible apply keeps_modQueue
    | with_reducible apply keeps_forEach
    | with_reducible apply keeps_ite_snd
    | with_reducible apply keeps_foldl_snd
    | with_reducible apply keeps_foldl
    | split
    | dsimp -zeta only
    | with_reducible refine keeps_of_eq (by with_reducible assumption) ?_
    | with_reducible refine keeps_of_eq3 (by with_reducible assumption) ?_
    | dsimp only

theorem keeps_codePairs {F : Kind → Prop} [May F .queues] {r s : State} {l : LinkId} {k : Nat} (h : Keeps F r s) : Keeps F r (codePairs l k s) := by
  induction k generalizing s with
  | zero => exact h
  | succ k ih =>
    unfold codePairs
    exact keeps_ite h (ih (keeps_modQueue h))

theorem keeps_sendSymbols {F : Kind → Prop} [May F .regs] [May F .pairs] [May F .queues] [May F .out] {r s : State} {l : LinkId} {k : Nat} (h : Keeps F r s) : Keeps F r (sendSymbols l k s) := by
  induction k generalizing s with
  | zero => exact h
  | succ k ih =>
    unfold sendSymbols
    exact keeps_ite h (ih (keeps_sendSymbol (keeps_modQueue h)))

theorem keeps_takePaced {F : Kind → Prop} [May F .regs] [May F .queues] [May F .banks] {r s : State} {x0 : _} (h : Keeps F r s) : Keeps F r (takePaced x0 s).2 := by
  show KeepsP F r _
  unfold takePaced
  repeat' first
    | with_reducible assumption
    | intro _
    | with_reducible apply keepsP_mk
    | with_reducible apply keepsP_ite
    | with_reducible apply keeps_ite
    | with_reducible apply keeps_takeBlocks
    | with_reducible apply keeps_modQueue
    | with_reducible apply keeps_ite_snd
    | with_reducible apply keeps_foldl_snd
    | with_reducible apply keeps_foldl
    | split
    | dsimp -zeta only
    | with_reducible refine keeps_of_eq (by with_reducible assumption) ?_
    | with_reducible refine keeps_of_eq3 (by with_reducible assumption) ?_
    | dsimp only

theorem keeps_pushCodewords {F : Kind → Prop} [May F .queues] {r s : State} {x0 x1 x2 : _} (h : Keeps F r s) : Keeps F r (pushCodewords x0 x1 x2 s) := by
  unfold pushCodewords
  repeat' first
    | with_reducible assumption
    | intro _
    | with_reducible apply keeps_ite
    | with_reducible apply keeps_modQueue
    | with_reducible apply keeps_ite_snd
    | with_reducible apply keeps_foldl_snd
    | with_reducible apply keeps_foldl
    | split
    | dsimp -zeta only
    | with_reducible refine keeps_of_eq (by with_reducible assumption) ?_
    | with_reducible refine keeps_of_eq3 (by with_reducible assumption) ?_
    | dsimp only

theorem keeps_nextCoach {F : Kind → Prop} [May F .regs] [May F .queues] [May F .banks] {r s : State} {x0 : _} (h : Keeps F r s) : Keeps F r (nextCoach x0 s).2 := by
  show KeepsP F r _
  unfold nextCoach
  repeat' first
    | with_reducible assumption
    | intro _
    | with_reducible apply keepsP_mk
    | with_reducible apply keepsP_ite
    | with_reducible apply keeps_ite
    | with_reducible apply keeps_dropCodewordBits
    | with_reducible apply keeps_takePaced
    | with_reducible apply keeps_modQueue
    | with_reducible apply keeps_ite_snd
    | with_reducible apply keeps_foldl_snd
    | with_reducible apply keeps_foldl
    | split
    | dsimp -zeta only
    | with_reducible refine keeps_of_eq (by with_reducible assumption) ?_
    | with_reducible refine keeps_of_eq3 (by with_reducible assumption) ?_
    | dsimp only

theorem keeps_loopNear {F : Kind → Prop} [May F .free] [May F .regs] [May F .queues] [May F .hosts] [May F .banks] [May F .raised] {r s : State} {x0 : _} (h : Keeps F r s) : Keeps F r (loopNear x0 s) := by
  unfold loopNear
  repeat' first
    | with_reducible assumption
    | intro _
    | with_reducible apply keeps_ite
    | with_reducible apply keeps_dropCodewordBits
    | with_reducible apply keeps_pushCodewords
    | with_reducible apply keeps_modQueue
    | with_reducible apply keeps_takePaced
    | with_reducible apply keeps_receiveBlocks
    | with_reducible apply keeps_ite_snd
    | with_reducible apply keeps_foldl_snd
    | with_reducible apply keeps_foldl
    | split
    | dsimp -zeta only
    | with_reducible refine keeps_of_eq (by with_reducible assumption) ?_
    | with_reducible refine keeps_of_eq3 (by with_reducible assumption) ?_
    | dsimp only

theorem keeps_sendCoach {F : Kind → Prop} [May F .regs] [May F .links] [May F .queues] [May F .out] {r s : State} {x0 x1 : _} (h : Keeps F r s) : Keeps F r (sendCoach x0 x1 s) := by
  unfold sendCoach
  repeat' first
    | with_reducible assumption
    | intro _
    | with_reducible apply keeps_ite
    | with_reducible apply keeps_modLink
    | with_reducible apply keeps_inc64
    | with_reducible apply keeps_emit
    | with_reducible apply keeps_modQueue
    | with_reducible apply keeps_ite_snd
    | with_reducible apply keeps_foldl_snd
    | with_reducible apply keeps_foldl
    | split
    | dsimp -zeta only
    | with_reducible refine keeps_of_eq (by with_reducible assumption) ?_
    | with_reducible refine keeps_of_eq3 (by with_reducible assumption) ?_
    | dsimp only

theorem keeps_pumpLine {F : Kind → Prop} [May F .regs] [May F .pairs] [May F .queues] [May F .out] {r s : State} {x0 : _} (h : Keeps F r s) : Keeps F r (pumpLine x0 s) := by
  unfold pumpLine
  repeat' first
    | with_reducible assumption
    | intro _
    | with_reducible apply keeps_ite
    | with_reducible apply keeps_sendSymbols
    | with_reducible apply keeps_codePairs
    | with_reducible apply keeps_ite_snd
    | with_reducible apply keeps_foldl_snd
    | with_reducible apply keeps_foldl
    | split
    | dsimp -zeta only
    | with_reducible refine keeps_of_eq (by with_reducible assumption) ?_
    | with_reducible refine keeps_of_eq3 (by with_reducible assumption) ?_
    | dsimp only

theorem keeps_execCoachTx {F : Kind → Prop} [May F .free] [May F .regs] [May F .pairs] [May F .links] [May F .queues] [May F .hosts] [May F .banks] [May F .raised] [May F .out] {r s : State} {x0 : _} (h : Keeps F r s) : OutKeeps F r (execCoachTx x0 s) := by
  unfold execCoachTx
  repeat' first
    | with_reducible assumption
    | intro _
    | with_reducible apply outKeeps_next
    | with_reducible apply outKeeps_ite
    | with_reducible apply keeps_ite
    | with_reducible apply keeps_pumpLine
    | with_reducible apply keeps_showBeds
    | with_reducible apply keeps_loopNear
    | with_reducible apply keeps_nextCoach
    | with_reducible apply keeps_fcJudge
    | with_reducible apply keeps_sendCoach
    | with_reducible apply keeps_ite_snd
    | with_reducible apply keeps_foldl_snd
    | with_reducible apply keeps_foldl
    | split
    | dsimp -zeta only
    | with_reducible refine keeps_of_eq (by with_reducible assumption) ?_
    | with_reducible refine keeps_of_eq3 (by with_reducible assumption) ?_
    | dsimp only

theorem keeps_routeCoach {F : Kind → Prop} [May F .free] [May F .regs] [May F .queues] [May F .hosts] [May F .banks] [May F .raised] {r s : State} {x0 x1 x2 x3 x4 : _} (h : Keeps F r s) : Keeps F r (routeCoach x0 x1 x2 x3 x4 s) := by
  unfold routeCoach
  repeat' first
    | with_reducible assumption
    | intro _
    | with_reducible apply keeps_ite
    | with_reducible apply keeps_pushCodewords
    | with_reducible apply keeps_receiveBlocks
    | with_reducible apply keeps_inc
    | with_reducible apply keeps_modQueue
    | with_reducible apply keeps_ite_snd
    | with_reducible apply keeps_foldl_snd
    | with_reducible apply keeps_foldl
    | split
    | dsimp -zeta only
    | with_reducible refine keeps_of_eq (by with_reducible assumption) ?_
    | with_reducible refine keeps_of_eq3 (by with_reducible assumption) ?_
    | dsimp only

theorem keeps_takeCoach {F : Kind → Prop} [May F .free] [May F .regs] [May F .links] [May F .queues] [May F .hosts] [May F .banks] [May F .raised] {r s : State} {x0 x1 x2 x3 : _} (h : Keeps F r s) : Keeps F r (takeCoach x0 x1 x2 x3 s) := by
  unfold takeCoach
  repeat' first
    | with_reducible assumption
    | intro _
    | with_reducible apply keeps_ite
    | with_reducible apply keeps_inc64
    | with_reducible apply keeps_inc
    | with_reducible apply keeps_modLink
    | with_reducible apply keeps_showBeds
    | with_reducible apply keeps_routeCoach
    | with_reducible apply keeps_ite_snd
    | with_reducible apply keeps_foldl_snd
    | with_reducible apply keeps_foldl
    | split
    | dsimp -zeta only
    | with_reducible refine keeps_of_eq (by with_reducible assumption) ?_
    | with_reducible refine keeps_of_eq3 (by with_reducible assumption) ?_
    | dsimp only

theorem keeps_markCoach {F : Kind → Prop} [May F .queues] {r s : State} {x0 : _} (h : Keeps F r s) : Keeps F r (markCoach x0 s) := by
  unfold markCoach
  repeat' first
    | with_reducible assumption
    | intro _
    | with_reducible apply keeps_ite
    | with_reducible apply keeps_modQueue
    | with_reducible apply keeps_ite_snd
    | with_reducible apply keeps_foldl_snd
    | with_reducible apply keeps_foldl
    | split
    | dsimp -zeta only
    | with_reducible refine keeps_of_eq (by with_reducible assumption) ?_
    | with_reducible refine keeps_of_eq3 (by with_reducible assumption) ?_
    | dsimp only

theorem keeps_rxSymbolOf {F : Kind → Prop} [May F .regs] [May F .pairs] [May F .links] [May F .queues] [May F .errs] [May F .coef] {r s : State} {x0 x1 : _} (h : Keeps F r s) : Keeps F r (rxSymbolOf x0 x1 s) := by
  unfold rxSymbolOf
  repeat' first
    | with_reducible assumption
    | intro _
    | with_reducible apply keeps_ite
    | with_reducible apply keeps_rxSymbol
    | with_reducible apply keeps_markCoach
    | with_reducible apply keeps_ite_snd
    | with_reducible apply keeps_foldl_snd
    | with_reducible apply keeps_foldl
    | split
    | dsimp -zeta only
    | with_reducible refine keeps_of_eq (by with_reducible assumption) ?_
    | with_reducible refine keeps_of_eq3 (by with_reducible assumption) ?_
    | dsimp only

theorem keeps_receiveCoach {F : Kind → Prop} [May F .free] [May F .regs] [May F .pairs] [May F .links] [May F .queues] [May F .hosts] [May F .errs] [May F .coef] [May F .banks] [May F .raised] {r s : State} {x0 x1 x2 : _} (h : Keeps F r s) : Keeps F r (receiveCoach x0 x1 x2 s) := by
  unfold receiveCoach
  repeat' first
    | with_reducible assumption
    | intro _
    | with_reducible apply keeps_ite
    | with_reducible apply keeps_rxSymbolOf
    | with_reducible apply keeps_modQueue
    | with_reducible apply keeps_markCoach
    | with_reducible apply keeps_takeCoach
    | with_reducible apply keeps_forEach
    | with_reducible apply keeps_ite_snd
    | with_reducible apply keeps_foldl_snd
    | with_reducible apply keeps_foldl
    | split
    | dsimp -zeta only
    | with_reducible refine keeps_of_eq (by with_reducible assumption) ?_
    | with_reducible refine keeps_of_eq3 (by with_reducible assumption) ?_
    | dsimp only

theorem keeps_execCoachRx {F : Kind → Prop} [May F .free] [May F .regs] [May F .pairs] [May F .links] [May F .queues] [May F .hosts] [May F .errs] [May F .coef] [May F .banks] [May F .raised] {r s : State} {x0 x1 x2 x3 x4 x5 x6 : _} (h : Keeps F r s) : OutKeeps F r (execCoachRx x0 x1 x2 x3 x4 x5 x6 s) := by
  unfold execCoachRx
  repeat' first
    | with_reducible assumption
    | intro _
    | with_reducible apply outKeeps_next
    | with_reducible apply outKeeps_ite
    | with_reducible apply keeps_ite
    | with_reducible apply keeps_receiveCoach
    | with_reducible apply keeps_ite_snd
    | with_reducible apply keeps_foldl_snd
    | with_reducible apply keeps_foldl
    | split
    | dsimp -zeta only
    | with_reducible refine keeps_of_eq (by with_reducible assumption) ?_
    | with_reducible refine keeps_of_eq3 (by with_reducible assumption) ?_
    | dsimp only

theorem keeps_stepTblIndex {F : Kind → Prop} [May F .regs] {r s : State} {x0 x1 : _} (h : Keeps F r s) : Keeps F r (stepTblIndex x0 x1 s) := by
  unfold stepTblIndex
  repeat' first
    | with_reducible assumption
    | intro _
    | with_reducible apply keeps_ite
    | with_reducible apply keeps_setFld
    | with_reducible apply keeps_ite_snd
    | with_reducible apply keeps_foldl_snd
    | with_reducible apply keeps_foldl
    | split
    | dsimp -zeta only
    | with_reducible refine keeps_of_eq (by with_reducible assumption) ?_
    | with_reducible refine keeps_of_eq3 (by with_reducible assumption) ?_
    | dsimp only

theorem keeps_writeTblData {F : Kind → Prop} [May F .regs] {r s : State} {x0 x1 : _} (h : Keeps F r s) : Keeps F r (writeTblData x0 x1 s) := by
  unfold writeTblData
  repeat' first
    | with_reducible assumption
    | intro _
    | with_reducible apply keeps_ite
    | with_reducible apply keeps_stepTblIndex
    | with_reducible apply keeps_setFld
    | with_reducible apply keeps_ite_snd
    | with_reducible apply keeps_foldl_snd
    | with_reducible apply keeps_foldl
    | split
    | dsimp -zeta only
    | with_reducible refine keeps_of_eq (by with_reducible assumption) ?_
    | with_reducible refine keeps_of_eq3 (by with_reducible assumption) ?_
    | dsimp only

theorem keeps_execPairTblDataWrite {F : Kind → Prop} [May F .regs] {r s : State} {x0 x1 x2 : _} (h : Keeps F r s) : OutKeeps F r (execPairTblDataWrite x0 x1 x2 s) := by
  unfold execPairTblDataWrite
  repeat' first
    | with_reducible assumption
    | intro _
    | with_reducible apply outKeeps_next
    | with_reducible apply outKeeps_ite
    | with_reducible apply keeps_ite
    | with_reducible apply keeps_writeTblData
    | with_reducible apply keeps_ite_snd
    | with_reducible apply keeps_foldl_snd
    | with_reducible apply keeps_foldl
    | split
    | dsimp -zeta only
    | with_reducible refine keeps_of_eq (by with_reducible assumption) ?_
    | with_reducible refine keeps_of_eq3 (by with_reducible assumption) ?_
    | dsimp only

theorem keeps_writeEntries {F : Kind → Prop} [May F .tbl] {r s : State} {x0 x1 x2 : _} (h : Keeps F r s) : Keeps F r (writeEntries x0 x1 x2 s) := by
  unfold writeEntries
  repeat' first
    | with_reducible assumption
    | intro _
    | with_reducible apply keeps_ite
    | with_reducible apply keeps_setEntry
    | with_reducible apply keeps_ite_snd
    | with_reducible apply keeps_foldl_snd
    | with_reducible apply keeps_foldl
    | split
    | dsimp -zeta only
    | with_reducible refine keeps_of_eq (by with_reducible assumption) ?_
    | with_reducible refine keeps_of_eq3 (by with_reducible assumption) ?_
    | dsimp only

theorem keeps_reloadShadow {F : Kind → Prop} [May F .tbl] {r s : State} {x0 x1 x2 : _} (h : Keeps F r s) : Keeps F r (reloadShadow x0 x1 x2 s) := by
  unfold reloadShadow
  repeat' first
    | with_reducible assumption
    | intro _
    | with_reducible apply keeps_ite
    | with_reducible apply keeps_setBank
    | with_reducible apply keeps_ite_snd
    | with_reducible apply keeps_foldl_snd
    | with_reducible apply keeps_foldl
    | split
    | dsimp -zeta only
    | with_reducible refine keeps_of_eq (by with_reducible assumption) ?_
    | with_reducible refine keeps_of_eq3 (by with_reducible assumption) ?_
    | dsimp only

theorem keeps_execTableShadowCopyDone {F : Kind → Prop} [May F .regs] [May F .pairs] [May F .tbl] {r s : State} {x0 x1 x2 : _} (h : Keeps F r s) : OutKeeps F r (execTableShadowCopyDone x0 x1 x2 s) := by
  unfold execTableShadowCopyDone
  repeat' first
    | with_reducible assumption
    | intro _
    | with_reducible apply outKeeps_next
    | with_reducible apply outKeeps_ite
    | with_reducible apply keeps_ite
    | with_reducible apply keeps_reloadShadow
    | with_reducible apply keeps_modPair
    | with_reducible apply keeps_writeEntries
    | with_reducible apply keeps_setFld
    | with_reducible apply keeps_forEach
    | with_reducible apply keeps_ite_snd
    | with_reducible apply keeps_foldl_snd
    | with_reducible apply keeps_foldl
    | split
    | dsimp -zeta only
    | with_reducible refine keeps_of_eq (by with_reducible assumption) ?_
    | with_reducible refine keeps_of_eq3 (by with_reducible assumption) ?_
    | dsimp only

theorem keeps_execSwapEntry {F : Kind → Prop} [May F .regs] [May F .pairs] [May F .links] [May F .tbl] {r s : State} {x0 x1 x2 : _} (h : Keeps F r s) : OutKeeps F r (execSwapEntry x0 x1 x2 s) := by
  unfold execSwapEntry
  repeat' first
    | with_reducible assumption
    | intro _
    | with_reducible apply outKeeps_next
    | with_reducible apply outKeeps_ite
    | with_reducible apply keeps_ite
    | with_reducible apply keeps_inc
    | with_reducible apply keeps_consume
    | with_reducible apply keeps_modPair
    | with_reducible apply keeps_writeEntries
    | with_reducible apply keeps_ite_snd
    | with_reducible apply keeps_foldl_snd
    | with_reducible apply keeps_foldl
    | split
    | dsimp -zeta only
    | with_reducible refine keeps_of_eq (by with_reducible assumption) ?_
    | with_reducible refine keeps_of_eq3 (by with_reducible assumption) ?_
    | dsimp only

theorem keeps_countDecline {F : Kind → Prop} [May F .regs] {r s : State} {x0 x1 : _} (h : Keeps F r s) : Keeps F r (countDecline x0 x1 s) := by
  unfold countDecline
  repeat' first
    | with_reducible assumption
    | intro _
    | with_reducible apply keeps_ite
    | with_reducible apply keeps_inc
    | with_reducible apply keeps_ite_snd
    | with_reducible apply keeps_foldl_snd
    | with_reducible apply keeps_foldl
    | split
    | dsimp -zeta only
    | with_reducible refine keeps_of_eq (by with_reducible assumption) ?_
    | with_reducible refine keeps_of_eq3 (by with_reducible assumption) ?_
    | dsimp only

theorem keeps_execSwapCommit {F : Kind → Prop} [May F .regs] [May F .pairs] [May F .links] [May F .queues] [May F .raised] {r s : State} {x0 x1 x2 : _} (h : Keeps F r s) : OutKeeps F r (execSwapCommit x0 x1 x2 s) := by
  unfold execSwapCommit
  repeat' first
    | with_reducible assumption
    | intro _
    | with_reducible apply outKeeps_next
    | with_reducible apply outKeeps_ite
    | with_reducible apply keeps_ite
    | with_reducible apply keeps_consume
    | with_reducible apply keeps_modPair
    | with_reducible apply keeps_showLink
    | with_reducible apply keeps_reloadTxShadow
    | with_reducible apply keeps_countDecline
    | with_reducible apply keeps_sendPair
    | with_reducible apply keeps_capAgree
    | with_reducible apply keeps_agree
    | with_reducible apply keeps_ite_snd
    | with_reducible apply keeps_foldl_snd
    | with_reducible apply keeps_foldl
    | split
    | dsimp -zeta only
    | with_reducible refine keeps_of_eq (by with_reducible assumption) ?_
    | with_reducible refine keeps_of_eq3 (by with_reducible assumption) ?_
    | dsimp only

theorem keeps_dropCommit {F : Kind → Prop} [May F .links] {r s : State} {x0 x1 x2 : _} (h : Keeps F r s) : Keeps F r (dropCommit x0 x1 x2 s) := by
  unfold dropCommit
  repeat' first
    | with_reducible assumption
    | intro _
    | with_reducible apply keeps_ite
    | with_reducible apply keeps_modLink
    | with_reducible apply keeps_ite_snd
    | with_reducible apply keeps_foldl_snd
    | with_reducible apply keeps_foldl
    | split
    | dsimp -zeta only
    | with_reducible refine keeps_of_eq (by with_reducible assumption) ?_
    | with_reducible refine keeps_of_eq3 (by with_reducible assumption) ?_
    | dsimp only

theorem keeps_execSwapAccept {F : Kind → Prop} [May F .regs] [May F .pairs] [May F .links] [May F .raised] {r s : State} {x0 x1 x2 : _} (h : Keeps F r s) : OutKeeps F r (execSwapAccept x0 x1 x2 s) := by
  unfold execSwapAccept
  repeat' first
    | with_reducible assumption
    | intro _
    | with_reducible apply outKeeps_next
    | with_reducible apply outKeeps_ite
    | with_reducible apply keeps_ite
    | with_reducible apply keeps_consume
    | with_reducible apply keeps_dropCommit
    | with_reducible apply keeps_showLink
    | with_reducible apply keeps_dropRxSwap
    | with_reducible apply keeps_agree
    | with_reducible apply keeps_ite_snd
    | with_reducible apply keeps_foldl_snd
    | with_reducible apply keeps_foldl
    | split
    | dsimp -zeta only
    | with_reducible refine keeps_of_eq (by with_reducible assumption) ?_
    | with_reducible refine keeps_of_eq3 (by with_reducible assumption) ?_
    | dsimp only

theorem keeps_execSwapDecline {F : Kind → Prop} [May F .regs] [May F .pairs] [May F .links] [May F .raised] {r s : State} {x0 x1 x2 : _} (h : Keeps F r s) : OutKeeps F r (execSwapDecline x0 x1 x2 s) := by
  unfold execSwapDecline
  repeat' first
    | with_reducible assumption
    | intro _
    | with_reducible apply outKeeps_next
    | with_reducible apply outKeeps_ite
    | with_reducible apply keeps_ite
    | with_reducible apply keeps_consume
    | with_reducible apply keeps_modPair
    | with_reducible apply keeps_countDecline
    | with_reducible apply keeps_dropCommit
    | with_reducible apply keeps_showLink
    | with_reducible apply keeps_dropRxSwap
    | with_reducible apply keeps_ite_snd
    | with_reducible apply keeps_foldl_snd
    | with_reducible apply keeps_foldl
    | split
    | dsimp -zeta only
    | with_reducible refine keeps_of_eq (by with_reducible assumption) ?_
    | with_reducible refine keeps_of_eq3 (by with_reducible assumption) ?_
    | dsimp only

theorem keeps_execTableSwapApply {F : Kind → Prop} [May F .regs] [May F .pairs] [May F .links] [May F .queues] [May F .diags] [May F .raised] {r s : State} {x0 x1 x2 : _} (h : Keeps F r s) : OutKeeps F r (execTableSwapApply x0 x1 x2 s) := by
  unfold execTableSwapApply
  repeat' first
    | with_reducible assumption
    | intro _
    | with_reducible apply outKeeps_next
    | with_reducible apply outKeeps_ite
    | with_reducible apply keeps_ite
    | with_reducible apply keeps_dropChange
    | with_reducible apply keeps_modPair
    | with_reducible apply keeps_setFld
    | with_reducible apply keeps_inc
    | with_reducible apply keeps_histFlag
    | with_reducible apply keeps_modLink
    | with_reducible apply keeps_showLink
    | with_reducible apply keeps_capNotice
    | with_reducible apply keeps_ite_snd
    | with_reducible apply keeps_foldl_snd
    | with_reducible apply keeps_foldl
    | split
    | dsimp -zeta only
    | with_reducible refine keeps_of_eq (by with_reducible assumption) ?_
    | with_reducible refine keeps_of_eq3 (by with_reducible assumption) ?_
    | dsimp only

theorem keeps_evaluatePair {F : Kind → Prop} [May F .regs] [May F .pairs] [May F .links] [May F .tbl] {r s : State} {x0 x1 : _} (h : Keeps F r s) : Keeps F r (evaluatePair x0 x1 s) := by
  unfold evaluatePair
  repeat' first
    | with_reducible assumption
    | intro _
    | with_reducible apply keeps_ite
    | with_reducible apply keeps_setFld
    | with_reducible apply keeps_modLink
    | with_reducible apply keeps_inc
    | with_reducible apply keeps_setBank
    | with_reducible apply keeps_modPair
    | with_reducible apply keeps_ite_snd
    | with_reducible apply keeps_foldl_snd
    | with_reducible apply keeps_foldl
    | split
    | dsimp -zeta only
    | with_reducible refine keeps_of_eq (by with_reducible assumption) ?_
    | with_reducible refine keeps_of_eq3 (by with_reducible assumption) ?_
    | dsimp only

theorem keeps_evaluateUp {F : Kind → Prop} [May F .links] {r s : State} {x0 : _} (h : Keeps F r s) : Keeps F r (evaluateUp x0 s) := by
  unfold evaluateUp
  repeat' first
    | with_reducible assumption
    | intro _
    | with_reducible apply keeps_ite
    | with_reducible apply keeps_modLink
    | with_reducible apply keeps_ite_snd
    | with_reducible apply keeps_foldl_snd
    | with_reducible apply keeps_foldl
    | split
    | dsimp -zeta only
    | with_reducible refine keeps_of_eq (by with_reducible assumption) ?_
    | with_reducible refine keeps_of_eq3 (by with_reducible assumption) ?_
    | dsimp only

theorem keeps_execSwapEvaluation {F : Kind → Prop} [May F .regs] [May F .pairs] [May F .links] [May F .tbl] [May F .raised] {r s : State} {x0 : _} (h : Keeps F r s) : OutKeeps F r (execSwapEvaluation x0 s) := by
  unfold execSwapEvaluation
  repeat' first
    | with_reducible assumption
    | intro _
    | with_reducible apply outKeeps_next
    | with_reducible apply outKeeps_ite
    | with_reducible apply keeps_ite
    | with_reducible apply keeps_evaluatePair
    | with_reducible apply keeps_showLink
    | with_reducible apply keeps_retryTransparent
    | with_reducible apply keeps_evaluateUp
    | with_reducible apply keeps_forEach
    | with_reducible apply keeps_ite_snd
    | with_reducible apply keeps_foldl_snd
    | with_reducible apply keeps_foldl
    | split
    | dsimp -zeta only
    | with_reducible refine keeps_of_eq (by with_reducible assumption) ?_
    | with_reducible refine keeps_of_eq3 (by with_reducible assumption) ?_
    | dsimp only

theorem keeps_execSwapCommitSend {F : Kind → Prop} [May F .regs] [May F .pairs] [May F .raised] {r s : State} {x0 x1 : _} (h : Keeps F r s) : OutKeeps F r (execSwapCommitSend x0 x1 s) := by
  unfold execSwapCommitSend
  repeat' first
    | with_reducible assumption
    | intro _
    | with_reducible apply outKeeps_next
    | with_reducible apply outKeeps_ite
    | with_reducible apply keeps_ite
    | with_reducible apply keeps_sendPair
    | with_reducible apply keeps_modPair
    | with_reducible apply keeps_showLink
    | with_reducible apply keeps_setFld
    | with_reducible apply keeps_ite_snd
    | with_reducible apply keeps_foldl_snd
    | with_reducible apply keeps_foldl
    | split
    | dsimp -zeta only
    | with_reducible refine keeps_of_eq (by with_reducible assumption) ?_
    | with_reducible refine keeps_of_eq3 (by with_reducible assumption) ?_
    | dsimp only

end Sys2Proof.Machine
end

