-- ==== Sys2Proof/Laws/KeepsDiag.lean ====
section
/-! SUPPORT. What the operations of Machine/Diag.lean keep. -/
set_option linter.unusedTactic false
set_option linter.unreachableTactic false
set_option linter.tactic.unusedName false
namespace Sys2Proof.Machine

theorem keeps_refuseRun {F : Kind → Prop} [May F .regs] {r s : State} {x0 x1 x2 x3 : _} (h : Keeps F r s) : Keeps F r (refuseRun x0 x1 x2 x3 s) := by
  unfold refuseRun
  repeat' first
    | with_reducible assumption
    | intro _
    | with_reducible apply keeps_ite
    | with_reducible apply keeps_setFld
    | with_reducible apply keeps_ite_snd
    | with_reducible apply keeps_foldl_snd
    | with_reducible apply keeps_foldl
    | split
    | dsimp -zeta only
    | with_reducible refine keeps_of_eq (by with_reducible assumption) ?_
    | with_reducible refine keeps_of_eq3 (by with_reducible assumption) ?_
    | dsimp only

theorem keeps_beginRun {F : Kind → Prop} [May F .regs] {r s : State} {x0 x1 x2 : _} (h : Keeps F r s) : Keeps F r (beginRun x0 x1 x2 s) := by
  unfold beginRun
  repeat' first
    | with_reducible assumption
    | intro _
    | with_reducible apply keeps_ite
    | with_reducible apply keeps_setFld
    | with_reducible apply keeps_ite_snd
    | with_reducible apply keeps_foldl_snd
    | with_reducible apply keeps_foldl
    | split
    | dsimp -zeta only
    | with_reducible refine keeps_of_eq (by with_reducible assumption) ?_
    | with_reducible refine keeps_of_eq3 (by with_reducible assumption) ?_
    | dsimp only

theorem keeps_startReflect {F : Kind → Prop} [May F .regs] [May F .diags] [May F .out] {r s : State} {x0 x1 : _} (h : Keeps F r s) : Keeps F r (startReflect x0 x1 s) := by
  unfold startReflect
  repeat' first
    | with_reducible assumption
    | intro _
    | with_reducible apply keeps_ite
    | with_reducible apply keeps_refuseRun
    | with_reducible apply keeps_modDiag
    | with_reducible apply keeps_histFlag
    | with_reducible apply keeps_beginRun
    | with_reducible apply keeps_emit
    | with_reducible apply keeps_ite_snd
    | with_reducible apply keeps_foldl_snd
    | with_reducible apply keeps_foldl
    | split
    | dsimp -zeta only
    | with_reducible refine keeps_of_eq (by with_reducible assumption) ?_
    | with_reducible refine keeps_of_eq3 (by with_reducible assumption) ?_
    | dsimp only

theorem keeps_startMaps {F : Kind → Prop} [May F .regs] [May F .diags] {r s : State} {x0 x1 : _} (h : Keeps F r s) : Keeps F r (startMaps x0 x1 s) := by
  unfold startMaps
  repeat' first
    | with_reducible assumption
    | intro _
    | with_reducible apply keeps_ite
    | with_reducible apply keeps_refuseRun
    | with_reducible apply keeps_setFld
    | with_reducible apply keeps_modDiag
    | with_reducible apply keeps_beginRun
    | with_reducible apply keeps_setReg
    | with_reducible apply keeps_forEach
    | with_reducible apply keeps_ite_snd
    | with_reducible apply keeps_foldl_snd
    | with_reducible apply keeps_foldl
    | split
    | dsimp -zeta only
    | with_reducible refine keeps_of_eq (by with_reducible assumption) ?_
    | with_reducible refine keeps_of_eq3 (by with_reducible assumption) ?_
    | dsimp only

theorem keeps_writeDiagCtrl {F : Kind → Prop} [May F .regs] [May F .diags] [May F .completions] [May F .claims] [May F .waiting] [May F .later] [May F .raised] [May F .out] {r s : State} {x0 x1 x2 : _} (h : Keeps F r s) : Keeps F r (writeDiagCtrl x0 x1 x2 s) := by
  unfold writeDiagCtrl
  repeat' first
    | with_reducible assumption
    | intro _
    | with_reducible apply keeps_ite
    | with_reducible apply keeps_setFld
    | with_reducible apply keeps_abortReflect
    | with_reducible apply keeps_startMaps
    | with_reducible apply keeps_refuseRun
    | with_reducible apply keeps_startReflect
    | with_reducible apply keeps_ite_snd
    | with_reducible apply keeps_foldl_snd
    | with_reducible apply keeps_foldl
    | split
    | dsimp -zeta only
    | with_reducible refine keeps_of_eq (by with_reducible assumption) ?_
    | with_reducible refine keeps_of_eq3 (by with_reducible assumption) ?_
    | dsimp only

theorem keeps_execReflectStart {F : Kind → Prop} [May F .regs] [May F .diags] [May F .completions] [May F .claims] [May F .waiting] [May F .later] [May F .raised] [May F .out] {r s : State} {x0 x1 x2 : _} (h : Keeps F r s) : OutKeeps F r (execReflectStart x0 x1 x2 s) := by
  unfold execReflectStart
  repeat' first
    | with_reducible assumption
    | intro _
    | with_reducible apply outKeeps_next
    | with_reducible apply outKeeps_ite
    | with_reducible apply keeps_ite
    | with_reducible apply keeps_writeDiagCtrl
    | with_reducible apply keeps_ite_snd
    | with_reducible apply keeps_foldl_snd
    | with_reducible apply keeps_foldl
    | split
    | dsimp -zeta only
    | with_reducible refine keeps_of_eq (by with_reducible assumption) ?_
    | with_reducible refine keeps_of_eq3 (by with_reducible assumption) ?_
    | dsimp only

theorem keeps_execMapsStart {F : Kind → Prop} [May F .regs] [May F .diags] [May F .completions] [May F .claims] [May F .waiting] [May F .later] [May F .raised] [May F .out] {r s : State} {x0 x1 x2 : _} (h : Keeps F r s) : OutKeeps F r (execMapsStart x0 x1 x2 s) := by
  unfold execMapsStart
  repeat' first
    | with_reducible assumption
    | intro _
    | with_reducible apply outKeeps_next
    | with_reducible apply outKeeps_ite
    | with_reducible apply keeps_ite
    | with_reducible apply keeps_writeDiagCtrl
    | with_reducible apply keeps_ite_snd
    | with_reducible apply keeps_foldl_snd
    | with_reducible apply keeps_foldl
    | split
    | dsimp -zeta only
    | with_reducible refine keeps_of_eq (by with_reducible assumption) ?_
    | with_reducible refine keeps_of_eq3 (by with_reducible assumption) ?_
    | dsimp only

theorem keeps_execDiagCtrlAbort {F : Kind → Prop} [May F .regs] [May F .diags] [May F .completions] [May F .claims] [May F .waiting] [May F .later] [May F .raised] {r s : State} {x0 x1 : _} (h : Keeps F r s) : OutKeeps F r (execDiagCtrlAbort x0 x1 s) := by
  unfold execDiagCtrlAbort
  repeat' first
    | with_reducible assumption
    | intro _
    | with_reducible apply outKeeps_next
    | with_reducible apply outKeeps_ite
    | with_reducible apply keeps_ite
    | with_reducible apply keeps_abortReflect
    | with_reducible apply keeps_ite_snd
    | with_reducible apply keeps_foldl_snd
    | with_reducible apply keeps_foldl
    | split
    | dsimp -zeta only
    | with_reducible refine keeps_of_eq (by with_reducible assumption) ?_
    | with_reducible refine keeps_of_eq3 (by with_reducible assumption) ?_
    | dsimp only

theorem keeps_checkMaps {F : Kind → Prop} [May F .regs] {r s : State} {x0 x1 : _} (h : Keeps F r s) : Keeps F r (checkMaps x0 x1 s) := by
  unfold checkMaps
  repeat' first
    | with_reducible assumption
    | intro _
    | with_reducible apply keeps_ite
    | with_reducible apply keeps_setFld
    | with_reducible apply keeps_setReg
    | with_reducible apply keeps_ite_snd
    | with_reducible apply keeps_foldl_snd
    | with_reducible apply keeps_foldl
    | split
    | dsimp -zeta only
    | with_reducible refine keeps_of_eq (by with_reducible assumption) ?_
    | with_reducible refine keeps_of_eq3 (by with_reducible assumption) ?_
    | dsimp only

theorem keeps_storeResponse {F : Kind → Prop} [May F .maps] [May F .traces] {r s : State} {n p m : _} (h : Keeps F r s) : Keeps F r (storeResponse n p m s) := by
  unfold storeResponse
  exact keeps_forEach _ _ (keeps_forEach _ _ (keeps_maps_filter (keeps_traces_filter h))
    (fun _ _ k => keeps_forEach _ _ k (fun _ _ k => keeps_setTap k)))
    (fun _ _ k => keeps_setMap k)

theorem keeps_execReflectDone {F : Kind → Prop} [May F .regs] [May F .diags] [May F .maps] [May F .traces] [May F .completions] [May F .claims] [May F .waiting] [May F .later] [May F .raised] {r s : State} {x0 x1 x2 : _} (h : Keeps F r s) : OutKeeps F r (execReflectDone x0 x1 x2 s) := by
  unfold execReflectDone
  repeat' first
    | with_reducible assumption
    | intro _
    | with_reducible apply outKeeps_next
    | with_reducible apply outKeeps_ite
    | with_reducible apply keeps_ite
    | with_reducible apply keeps_storeResponse
    | with_reducible apply keeps_setReg
    | with_reducible apply keeps_checkMaps
    | with_reducible apply keeps_inc
    | with_reducible apply keeps_raise
    | with_reducible apply keeps_finishJob
    | with_reducible apply keeps_modDiag
    | with_reducible apply keeps_forEach
    | with_reducible apply keeps_ite_snd
    | with_reducible apply keeps_foldl_snd
    | with_reducible apply keeps_foldl
    | split
    | dsimp -zeta only
    | with_reducible refine keeps_of_eq (by with_reducible assumption) ?_
    | with_reducible refine keeps_of_eq3 (by with_reducible assumption) ?_
    | dsimp only

theorem keeps_fillPilots {F : Kind → Prop} [May F .maps] {r s : State} {x0 x1 : _} (h : Keeps F r s) : Keeps F r (fillPilots x0 x1 s) := by
  unfold fillPilots
  repeat' first
    | with_reducible assumption
    | intro _
    | with_reducible apply keeps_ite
    | with_reducible apply keeps_setMap
    | with_reducible apply keeps_forEach
    | with_reducible apply keeps_ite_snd
    | with_reducible apply keeps_foldl_snd
    | with_reducible apply keeps_foldl
    | split
    | dsimp -zeta only
    | with_reducible refine keeps_of_eq (by with_reducible assumption) ?_
    | with_reducible refine keeps_of_eq3 (by with_reducible assumption) ?_
    | dsimp only

theorem keeps_mapsRunEnds {F : Kind → Prop} [May F .diags] [May F .completions] {r s : State} {x0 x1 x2 : _} (h : Keeps F r s) : Keeps F r (mapsRunEnds x0 x1 x2 s) := by
  unfold mapsRunEnds
  repeat' first
    | with_reducible assumption
    | intro _
    | with_reducible apply keeps_ite
    | with_reducible apply keeps_modDiag
    | with_reducible apply keeps_ite_snd
    | with_reducible apply keeps_foldl_snd
    | with_reducible apply keeps_foldl
    | split
    | dsimp -zeta only
    | with_reducible refine keeps_of_eq (by with_reducible assumption) ?_
    | with_reducible refine keeps_of_eq3 (by with_reducible assumption) ?_
    | dsimp only
    | with_reducible apply keeps_upd_completions

theorem keeps_execMapsDone {F : Kind → Prop} [May F .regs] [May F .diags] [May F .maps] [May F .completions] {r s : State} {x0 x1 x2 : _} (h : Keeps F r s) : OutKeeps F r (execMapsDone x0 x1 x2 s) := by
  unfold execMapsDone
  repeat' first
    | with_reducible assumption
    | intro _
    | with_reducible apply outKeeps_next
    | with_reducible apply outKeeps_ite
    | with_reducible apply keeps_ite
    | with_reducible apply keeps_setMap
    | with_reducible apply keeps_setReg
    | with_reducible apply keeps_modDiag
    | with_reducible apply keeps_fillPilots
    | with_reducible apply keeps_checkMaps
    | with_reducible apply keeps_setFld
    | with_reducible apply keeps_mapsRunEnds
    | with_reducible apply keeps_inc
    | with_reducible apply keeps_forEach
    | with_reducible apply keeps_ite_snd
    | with_reducible apply keeps_foldl_snd
    | with_reducible apply keeps_foldl
    | split
    | dsimp -zeta only
    | with_reducible refine keeps_of_eq (by with_reducible assumption) ?_
    | with_reducible refine keeps_of_eq3 (by with_reducible assumption) ?_
    | dsimp only
    | with_reducible apply keeps_maps_filter

theorem keeps_flagsNow {F : Kind → Prop} [May F .diags] {r s : State} {x0 x1 : _} (h : Keeps F r s) : Keeps F r (flagsNow x0 x1 s) := by
  unfold flagsNow
  repeat' first
    | with_reducible assumption
    | intro _
    | with_reducible apply keeps_ite
    | with_reducible apply keeps_histFlag
    | with_reducible apply keeps_ite_snd
    | with_reducible apply keeps_foldl_snd
    | with_reducible apply keeps_foldl
    | split
    | dsimp -zeta only
    | with_reducible refine keeps_of_eq (by with_reducible assumption) ?_
    | with_reducible refine keeps_of_eq3 (by with_reducible assumption) ?_
    | dsimp only

theorem keeps_execHistoryRecord {F : Kind → Prop} [May F .regs] [May F .diags] {r s : State} {x0 x1 : _} (h : Keeps F r s) : OutKeeps F r (execHistoryRecord x0 x1 s) := by
  unfold execHistoryRecord
  repeat' first
    | with_reducible assumption
    | intro _
    | with_reducible apply outKeeps_next
    | with_reducible apply outKeeps_ite
    | with_reducible apply keeps_ite
    | with_reducible apply keeps_flagsNow
    | with_reducible apply keeps_setReg
    | with_reducible apply keeps_modDiag
    | with_reducible apply keeps_captureProfile
    | with_reducible apply keeps_ite_snd
    | with_reducible apply keeps_foldl_snd
    | with_reducible apply keeps_foldl
    | split
    | dsimp -zeta only
    | with_reducible refine keeps_of_eq (by with_reducible assumption) ?_
    | with_reducible refine keeps_of_eq3 (by with_reducible assumption) ?_
    | dsimp only

theorem keeps_histClear {F : Kind → Prop} [May F .regs] [May F .diags] {r s : State} {x0 : _} (h : Keeps F r s) : Keeps F r (histClear x0 s) := by
  unfold histClear
  repeat' first
    | with_reducible assumption
    | intro _
    | with_reducible apply keeps_ite
    | with_reducible apply keeps_setReg
    | with_reducible apply keeps_modDiag
    | with_reducible apply keeps_forEach
    | with_reducible apply keeps_ite_snd
    | with_reducible apply keeps_foldl_snd
    | with_reducible apply keeps_foldl
    | split
    | dsimp -zeta only
    | with_reducible refine keeps_of_eq (by with_reducible assumption) ?_
    | with_reducible refine keeps_of_eq3 (by with_reducible assumption) ?_
    | dsimp only

theorem keeps_execHistClear {F : Kind → Prop} [May F .regs] [May F .diags] {r s : State} {x0 : _} (h : Keeps F r s) : OutKeeps F r (execHistClear x0 s) := by
  unfold execHistClear
  repeat' first
    | with_reducible assumption
    | intro _
    | with_reducible apply outKeeps_next
    | with_reducible apply outKeeps_ite
    | with_reducible apply keeps_ite
    | with_reducible apply keeps_histClear
    | with_reducible apply keeps_ite_snd
    | with_reducible apply keeps_foldl_snd
    | with_reducible apply keeps_foldl
    | split
    | dsimp -zeta only
    | with_reducible refine keeps_of_eq (by with_reducible assumption) ?_
    | with_reducible refine keeps_of_eq3 (by with_reducible assumption) ?_
    | dsimp only

end Sys2Proof.Machine
end

