-- ==== Sys2Proof/Laws/KeepsResets.lean ====
section
/-! SUPPORT. What the operations of Machine/Resets.lean keep. -/
set_option linter.unusedTactic false
set_option linter.unreachableTactic false
set_option linter.tactic.unusedName false
namespace Sys2Proof.Machine

theorem keeps_dropPorts {F : Kind → Prop} [May F .regs] [May F .ports] [May F .pairs] [May F .links] [May F .tbl] [May F .held] [May F .snr] [May F .erle] [May F .errs] [May F .sigma] [May F .noise] [May F .coef] [May F .seeds] [May F .diags] [May F .maps] [May F .traces] {r s : State} {p : _} (h : Keeps F r s) : Keeps F r (dropPorts p s) := by
  refine keeps_stores h rfl rfl rfl rfl rfl (fun c => ?_) (fun k hk => by cases k <;> first | rfl | exact (hk May.may).elim)
  rw [canonical_iff] at c ⊢
  unfold dropPorts
  refine ⟨?_, ?_, ?_, ?_, ?_, ?_, ?_, ?_, ?_, ?_, ?_, ?_, ?_, ?_, ?_, ?_, ?_, ?_, ?_, ?_, ?_, ?_, ?_, ?_, ?_, ?_, ?_, ?_, ?_⟩
  all_goals dsimp only
  all_goals simp only [SMap.wf_filter, c]

theorem keeps_flushRx {F : Kind → Prop} [May F .regs] [May F .queues] [May F .banks] [May F .raised] {r s : State} {x0 : _} (h : Keeps F r s) : Keeps F r (flushRx x0 s) := by
  unfold flushRx
  repeat' first
    | with_reducible assumption
    | intro _
    | with_reducible apply keeps_ite
    | with_reducible apply keeps_expireFrames
    | with_reducible apply keeps_releaseBeds
    | with_reducible apply keeps_setFrames
    | with_reducible apply keeps_showBeds
    | with_reducible apply keeps_addTo
    | with_reducible apply keeps_ite_snd
    | with_reducible apply keeps_foldl_snd
    | with_reducible apply keeps_foldl
    | split
    | dsimp -zeta only
    | with_reducible refine keeps_of_eq (by with_reducible assumption) ?_
    | with_reducible refine keeps_of_eq3 (by with_reducible assumption) ?_
    | dsimp only

theorem keeps_quitPort {F : Kind → Prop} [May F .free] [May F .regs] [May F .ports] [May F .pairs] [May F .links] [May F .queues] [May F .banks] [May F .tiles] [May F .diags] [May F .completions] [May F .claims] [May F .waiting] [May F .later] [May F .tests] [May F .raised] {r s : State} {x0 : _} (h : Keeps F r s) : Keeps F r (quitPort x0 s) := by
  unfold quitPort
  repeat' first
    | with_reducible assumption
    | intro _
    | with_reducible apply keeps_ite
    | with_reducible apply keeps_abortContext
    | with_reducible apply keeps_disableLink
    | with_reducible apply keeps_flushRx
    | with_reducible apply keeps_flushTx
    | with_reducible apply keeps_expireAll
    | with_reducible apply keeps_mapsRunEnds
    | with_reducible apply keeps_forEach
    | with_reducible apply keeps_ite_snd
    | with_reducible apply keeps_foldl_snd
    | with_reducible apply keeps_foldl
    | split
    | dsimp -zeta only
    | with_reducible refine keeps_of_eq (by with_reducible assumption) ?_
    | with_reducible refine keeps_of_eq3 (by with_reducible assumption) ?_
    | dsimp only

theorem keeps_applySubAdcs {F : Kind → Prop} [May F .regs] [May F .pairs] {r s : State} {x0 : _} (h : Keeps F r s) : Keeps F r (applySubAdcs x0 s) := by
  unfold applySubAdcs
  repeat' first
    | with_reducible assumption
    | intro _
    | with_reducible apply keeps_ite
    | with_reducible apply keeps_setFld
    | with_reducible apply keeps_modPair
    | with_reducible apply keeps_forEach
    | with_reducible apply keeps_ite_snd
    | with_reducible apply keeps_foldl_snd
    | with_reducible apply keeps_foldl
    | split
    | dsimp -zeta only
    | with_reducible refine keeps_of_eq (by with_reducible assumption) ?_
    | with_reducible refine keeps_of_eq3 (by with_reducible assumption) ?_
    | dsimp only

theorem keeps_askRecommit {F : Kind → Prop} [May F .hub] {r s : State} {x0 x1 : _} (h : Keeps F r s) : Keeps F r (askRecommit x0 x1 s) := by
  unfold askRecommit
  repeat' first
    | with_reducible assumption
    | intro _
    | with_reducible apply keeps_ite
    | with_reducible apply keeps_modHub
    | with_reducible apply keeps_ite_snd
    | with_reducible apply keeps_foldl_snd
    | with_reducible apply keeps_foldl
    | split
    | dsimp -zeta only
    | with_reducible refine keeps_of_eq (by with_reducible assumption) ?_
    | with_reducible refine keeps_of_eq3 (by with_reducible assumption) ?_
    | dsimp only

theorem keeps_portReset {F : Kind → Prop} [May F .free] [May F .regs] [May F .ports] [May F .pairs] [May F .links] [May F .queues] [May F .tbl] [May F .held] [May F .snr] [May F .erle] [May F .errs] [May F .sigma] [May F .noise] [May F .coef] [May F .seeds] [May F .banks] [May F .tiles] [May F .diags] [May F .maps] [May F .traces] [May F .completions] [May F .claims] [May F .waiting] [May F .later] [May F .tests] [May F .hub] [May F .raised] {r s : State} {x0 : _} (h : Keeps F r s) : Keeps F r (portReset x0 s) := by
  unfold portReset
  repeat' first
    | with_reducible assumption
    | intro _
    | with_reducible apply keeps_ite
    | with_reducible apply keeps_quitPort
    | with_reducible apply keeps_applySubAdcs
    | with_reducible apply keeps_dropPorts
    | with_reducible apply keeps_askRecommit
    | with_reducible apply keeps_refreshModes
    | with_reducible apply keeps_ite_snd
    | with_reducible apply keeps_foldl_snd
    | with_reducible apply keeps_foldl
    | split
    | dsimp -zeta only
    | with_reducible refine keeps_of_eq (by with_reducible assumption) ?_
    | with_reducible refine keeps_of_eq3 (by with_reducible assumption) ?_
    | dsimp only

theorem keeps_endTileWork {F : Kind → Prop} [May F .regs] [May F .pairs] [May F .cals] [May F .calRuns] [May F .completions] [May F .claims] [May F .waiting] [May F .later] [May F .tests] [May F .raised] {r s : State} {x0 : _} (h : Keeps F r s) : Keeps F r (endTileWork x0 s) := by
  unfold endTileWork
  repeat' first
    | with_reducible assumption
    | intro _
    | with_reducible apply keeps_ite
    | with_reducible apply keeps_abandonRuns
    | with_reducible apply keeps_endSwapJob
    | with_reducible apply keeps_releaseOwn
    | with_reducible apply keeps_finishJob
    | with_reducible apply keeps_abortAsked
    | with_reducible apply keeps_showBist
    | with_reducible apply keeps_releaseClaim
    | with_reducible apply keeps_forEach
    | with_reducible apply keeps_ite_snd
    | with_reducible apply keeps_foldl_snd
    | with_reducible apply keeps_foldl
    | split
    | dsimp -zeta only
    | with_reducible refine keeps_of_eq (by with_reducible assumption) ?_
    | with_reducible refine keeps_of_eq3 (by with_reducible assumption) ?_
    | dsimp only
    | with_reducible apply keeps_upd_tests

theorem wf_resetCals (t : Nat) (m : SMap CalSt) (h : SMap.wf (fun _ => CalSt.reset) m = true) :
    SMap.wf (fun _ => CalSt.reset) (resetCals t m) = true := by
  unfold resetCals
  refine SMap.wf_filterMap _ _ _ ?_ ?_ h
  · intro e e' he
    dsimp only at he
    split at he
    · split at he
      · cases he
      · cases he; rfl
    · cases he; rfl
  · intro e e' hn he
    dsimp only at he
    split at he
    · split at he
      · cases he
      · cases he; assumption
    · cases he; exact hn

theorem keeps_tileBlocks {F : Kind → Prop} [May F .regs] [May F .cals] {r s : State} {t : Nat} {q : Nat × Word → Bool} (h : Keeps F r s) :
    Keeps F r { s with regs := s.regs.filter q, cals := resetCals t s.cals } :=
  keeps_cals (s := { s with regs := s.regs.filter q }) (keeps_regs_filter h) (wf_resetCals t _)

theorem keeps_tileReset {F : Kind → Prop} [May F .free] [May F .regs] [May F .ports] [May F .pairs] [May F .links] [May F .queues] [May F .tbl] [May F .held] [May F .snr] [May F .erle] [May F .errs] [May F .sigma] [May F .noise] [May F .coef] [May F .seeds] [May F .banks] [May F .tiles] [May F .diags] [May F .maps] [May F .traces] [May F .doms] [May F .cals] [May F .calRuns] [May F .completions] [May F .claims] [May F .waiting] [May F .later] [May F .tests] [May F .raised] {r s : State} {t : _} (h : Keeps F r s) : Keeps F r (tileReset t s) := by
  unfold tileReset
  with_reducible apply keeps_modDom
  with_reducible apply keeps_setTile
  with_reducible apply keeps_forEach
  · with_reducible apply keeps_doms_filter
    with_reducible apply keeps_tileBlocks
    with_reducible apply keeps_dropPorts
    with_reducible apply keeps_endTileWork
    with_reducible apply keeps_forEach _ _ h
    intro _ _ k
    exact keeps_quitPort k
  · intro _ _ k
    exact keeps_raise k

theorem keeps_tileUp {F : Kind → Prop} [May F .regs] [May F .doms] {r s : State} {x0 : _} (h : Keeps F r s) : Keeps F r (tileUp x0 s) := by
  unfold tileUp
  repeat' first
    | with_reducible assumption
    | intro _
    | with_reducible apply keeps_ite
    | with_reducible apply keeps_setFld
    | with_reducible apply keeps_modDom
    | with_reducible apply keeps_ite_snd
    | with_reducible apply keeps_foldl_snd
    | with_reducible apply keeps_foldl
    | split
    | dsimp -zeta only
    | with_reducible refine keeps_of_eq (by with_reducible assumption) ?_
    | with_reducible refine keeps_of_eq3 (by with_reducible assumption) ?_
    | dsimp only

theorem keeps_tileTrims {F : Kind → Prop} [May F .cals] {r s : State} {x0 : _} (h : Keeps F r s) : Keeps F r (tileTrims x0 s) := by
  unfold tileTrims
  repeat' first
    | with_reducible assumption
    | intro _
    | with_reducible apply keeps_ite
    | with_reducible apply keeps_setTrims
    | with_reducible apply keeps_forEach
    | with_reducible apply keeps_ite_snd
    | with_reducible apply keeps_foldl_snd
    | with_reducible apply keeps_foldl
    | split
    | dsimp -zeta only
    | with_reducible refine keeps_of_eq (by with_reducible assumption) ?_
    | with_reducible refine keeps_of_eq3 (by with_reducible assumption) ?_
    | dsimp only

/-- A reset of the state that keeps the clock, the queue, what was sent and the MRAM keeps the invariant, whatever it keeps of the
registers. -/
theorem keeps_resetTo {F : Kind → Prop} [MayReset F] {r s t : State} (h : Keeps F r s) (hp : t.pending = s.pending) (hn : t.now = s.now) (ho : t.out = s.out)
    (hm : t.mram = s.mram) (hv : t.calSaved = s.calSaved) (hk : t.kept = []) (hc : t.claims = [])
    (hr : SMap.wf regReset s.regs = true → SMap.wf regReset t.regs = true)
    (he : { t with regs := [], mram := [], now := 0, out := [], pending := [] }.canonical = true) : Keeps F r t := by
  refine h.trans ⟨hp, hn, ho ▸ List.prefix_rfl, fun i => ⟨?_, by simp [hk], by simp [hc]⟩, fun k hF => by
    cases k
    case mram => exact hm
    case calSaved => exact hv
    case out => exact ho
    all_goals exact (hF (MayReset.may _ (by decide) (by decide) (by decide))).elim⟩
  have c := (canonical_iff _).1 i.1
  have e := (canonical_iff _).1 he
  rw [canonical_iff]
  refine ⟨hr c.1, e.2.1, e.2.2.1, e.2.2.2.1, e.2.2.2.2.1, e.2.2.2.2.2.1, e.2.2.2.2.2.2.1, e.2.2.2.2.2.2.2.1, e.2.2.2.2.2.2.2.2.1,
    e.2.2.2.2.2.2.2.2.2.1, e.2.2.2.2.2.2.2.2.2.2.1, e.2.2.2.2.2.2.2.2.2.2.2.1, e.2.2.2.2.2.2.2.2.2.2.2.2.1,
    e.2.2.2.2.2.2.2.2.2.2.2.2.2.1, e.2.2.2.2.2.2.2.2.2.2.2.2.2.2.1, e.2.2.2.2.2.2.2.2.2.2.2.2.2.2.2.1,
    e.2.2.2.2.2.2.2.2.2.2.2.2.2.2.2.2.1, e.2.2.2.2.2.2.2.2.2.2.2.2.2.2.2.2.2.1, e.2.2.2.2.2.2.2.2.2.2.2.2.2.2.2.2.2.2.1,
    e.2.2.2.2.2.2.2.2.2.2.2.2.2.2.2.2.2.2.2.1, e.2.2.2.2.2.2.2.2.2.2.2.2.2.2.2.2.2.2.2.2.1,
    e.2.2.2.2.2.2.2.2.2.2.2.2.2.2.2.2.2.2.2.2.2.1, ?_, e.2.2.2.2.2.2.2.2.2.2.2.2.2.2.2.2.2.2.2.2.2.2.2⟩
  rw [hm]; exact c.2.2.2.2.2.2.2.2.2.2.2.2.2.2.2.2.2.2.2.2.2.2.1

theorem keeps_deviceReset {F : Kind → Prop} [May F .regs] [May F .raised] [MayReset F] {r s : State} {c : _} (h : Keeps F r s) : Keeps F r (deviceReset c s) := by
  unfold deviceReset
  have h1 := keeps_forEach s.calRuns (fun x s => s.raise 0x5004 0 [x.item, x.target, 2]) h (fun _ _ k => keeps_raise k)
  exact keeps_inc (keeps_setFld (keeps_setFld (keeps_setFld (keeps_setReg (keeps_setReg
    (keeps_resetTo h1 rfl rfl rfl rfl rfl rfl rfl (SMap.wf_filter _ _ _) rfl))))))

theorem keeps_coldReset {F : Kind → Prop} [May F .regs] [May F .mram] [MayReset F] {r s : State} {c : _} (h : Keeps F r s) : Keeps F r (coldReset c s) := by
  unfold coldReset
  exact keeps_setFld (keeps_setReg (keeps_setFld (keeps_putBytes (keeps_resetTo h rfl rfl rfl rfl rfl rfl rfl (fun _ => rfl) rfl))))

theorem keeps_sampleStrap {F : Kind → Prop} [May F .regs] {r s : State} {x0 : _} (h : Keeps F r s) : Keeps F r (sampleStrap x0 s) := by
  unfold sampleStrap
  repeat' first
    | with_reducible assumption
    | intro _
    | with_reducible apply keeps_ite
    | with_reducible apply keeps_setFld
    | with_reducible apply keeps_ite_snd
    | with_reducible apply keeps_foldl_snd
    | with_reducible apply keeps_foldl
    | split
    | dsimp -zeta only
    | with_reducible refine keeps_of_eq (by with_reducible assumption) ?_
    | with_reducible refine keeps_of_eq3 (by with_reducible assumption) ?_
    | dsimp only

theorem keeps_beginBoot {F : Kind → Prop} [May F .hub] {r s : State} (h : Keeps F r s) : Keeps F r (beginBoot s) := by
  unfold beginBoot
  repeat' first
    | with_reducible assumption
    | intro _
    | with_reducible apply keeps_ite
    | with_reducible apply keeps_modHub
    | with_reducible apply keeps_ite_snd
    | with_reducible apply keeps_foldl_snd
    | with_reducible apply keeps_foldl
    | split
    | dsimp -zeta only
    | with_reducible refine keeps_of_eq (by with_reducible assumption) ?_
    | with_reducible refine keeps_of_eq3 (by with_reducible assumption) ?_
    | dsimp only

theorem keeps_execRailGood {F : Kind → Prop} [May F .regs] [May F .hub] {r s : State} {x0 x1 : _} (h : Keeps F r s) : OutKeeps F r (execRailGood x0 x1 s) := by
  unfold execRailGood
  repeat' first
    | with_reducible assumption
    | intro _
    | with_reducible apply outKeeps_next
    | with_reducible apply outKeeps_ite
    | with_reducible apply keeps_ite
    | with_reducible apply keeps_setFld
    | with_reducible apply keeps_beginBoot
    | with_reducible apply keeps_sampleStrap
    | with_reducible apply keeps_ite_snd
    | with_reducible apply keeps_foldl_snd
    | with_reducible apply keeps_foldl
    | split
    | dsimp -zeta only
    | with_reducible refine keeps_of_eq (by with_reducible assumption) ?_
    | with_reducible refine keeps_of_eq3 (by with_reducible assumption) ?_
    | dsimp only

theorem keeps_execRailLost {F : Kind → Prop} [May F .regs] [May F .mram] [May F .hub] [May F .raised] [MayReset F] {r s : State} {x0 : _} (h : Keeps F r s) : OutKeeps F r (execRailLost x0 s) := by
  unfold execRailLost
  repeat' first
    | with_reducible assumption
    | intro _
    | with_reducible apply outKeeps_next
    | with_reducible apply outKeeps_ite
    | with_reducible apply keeps_ite
    | with_reducible apply keeps_setFld
    | with_reducible apply keeps_coldReset
    | with_reducible apply keeps_modHub
    | with_reducible apply keeps_deviceReset
    | with_reducible apply keeps_ite_snd
    | with_reducible apply keeps_foldl_snd
    | with_reducible apply keeps_foldl
    | split
    | dsimp -zeta only
    | with_reducible refine keeps_of_eq (by with_reducible assumption) ?_
    | with_reducible refine keeps_of_eq3 (by with_reducible assumption) ?_
    | dsimp only

theorem keeps_execResetNAssert {F : Kind → Prop} [May F .regs] [May F .mram] [MayReset F] {r s : State} (h : Keeps F r s) : OutKeeps F r (execResetNAssert s) := by
  unfold execResetNAssert
  repeat' first
    | with_reducible assumption
    | intro _
    | with_reducible apply outKeeps_next
    | with_reducible apply outKeeps_ite
    | with_reducible apply keeps_ite
    | with_reducible apply keeps_coldReset
    | with_reducible apply keeps_ite_snd
    | with_reducible apply keeps_foldl_snd
    | with_reducible apply keeps_foldl
    | split
    | dsimp -zeta only
    | with_reducible refine keeps_of_eq (by with_reducible assumption) ?_
    | with_reducible refine keeps_of_eq3 (by with_reducible assumption) ?_
    | dsimp only

theorem keeps_execResetNRelease {F : Kind → Prop} [May F .regs] [May F .hub] {r s : State} {x0 : _} (h : Keeps F r s) : OutKeeps F r (execResetNRelease x0 s) := by
  unfold execResetNRelease
  repeat' first
    | with_reducible assumption
    | intro _
    | with_reducible apply outKeeps_next
    | with_reducible apply outKeeps_ite
    | with_reducible apply keeps_ite
    | with_reducible apply keeps_sampleStrap
    | with_reducible apply keeps_beginBoot
    | with_reducible apply keeps_ite_snd
    | with_reducible apply keeps_foldl_snd
    | with_reducible apply keeps_foldl
    | split
    | dsimp -zeta only
    | with_reducible refine keeps_of_eq (by with_reducible assumption) ?_
    | with_reducible refine keeps_of_eq3 (by with_reducible assumption) ?_
    | dsimp only

theorem keeps_execDeviceResetStart {F : Kind → Prop} [May F .regs] [May F .raised] [MayReset F] {r s : State} (h : Keeps F r s) : OutKeeps F r (execDeviceResetStart s) := by
  unfold execDeviceResetStart
  repeat' first
    | with_reducible assumption
    | intro _
    | with_reducible apply outKeeps_next
    | with_reducible apply outKeeps_ite
    | with_reducible apply keeps_ite
    | with_reducible apply keeps_deviceReset
    | with_reducible apply keeps_ite_snd
    | with_reducible apply keeps_foldl_snd
    | with_reducible apply keeps_foldl
    | split
    | dsimp -zeta only
    | with_reducible refine keeps_of_eq (by with_reducible assumption) ?_
    | with_reducible refine keeps_of_eq3 (by with_reducible assumption) ?_
    | dsimp only

theorem keeps_execDeviceResetEnd {F : Kind → Prop} [May F .hub] {r s : State} (h : Keeps F r s) : OutKeeps F r (execDeviceResetEnd s) := by
  unfold execDeviceResetEnd
  repeat' first
    | with_reducible assumption
    | intro _
    | with_reducible apply outKeeps_next
    | with_reducible apply outKeeps_ite
    | with_reducible apply keeps_ite
    | with_reducible apply keeps_beginBoot
    | with_reducible apply keeps_ite_snd
    | with_reducible apply keeps_foldl_snd
    | with_reducible apply keeps_foldl
    | split
    | dsimp -zeta only
    | with_reducible refine keeps_of_eq (by with_reducible assumption) ?_
    | with_reducible refine keeps_of_eq3 (by with_reducible assumption) ?_
    | dsimp only

theorem keeps_execBootWatchdogExpire {F : Kind → Prop} [May F .regs] [May F .hub] [May F .raised] [MayReset F] {r s : State} (h : Keeps F r s) : OutKeeps F r (execBootWatchdogExpire s) := by
  unfold execBootWatchdogExpire
  repeat' first
    | with_reducible assumption
    | intro _
    | with_reducible apply outKeeps_next
    | with_reducible apply outKeeps_ite
    | with_reducible apply keeps_ite
    | with_reducible apply keeps_raise
    | with_reducible apply keeps_setFld
    | with_reducible apply keeps_deviceReset
    | with_reducible apply keeps_modHub
    | with_reducible apply keeps_ite_snd
    | with_reducible apply keeps_foldl_snd
    | with_reducible apply keeps_foldl
    | split
    | dsimp -zeta only
    | with_reducible refine keeps_of_eq (by with_reducible assumption) ?_
    | with_reducible refine keeps_of_eq3 (by with_reducible assumption) ?_
    | dsimp only

end Sys2Proof.Machine
end

