-- ==== Sys2Proof/Laws/KeepsDomains.lean ====
section
/-! SUPPORT. What the operations of Machine/Domains.lean keep. -/
set_option linter.unusedTactic false
set_option linter.unreachableTactic false
set_option linter.tactic.unusedName false
namespace Sys2Proof.Machine

theorem keeps_countWake {F : Kind → Prop} [May F .regs] [May F .doms] {r s : State} {x0 : _} (h : Keeps F r s) : Keeps F r (countWake x0 s) := by
  unfold countWake
  repeat' first
    | with_reducible assumption
    | intro _
    | with_reducible apply keeps_ite
    | with_reducible apply keeps_inc
    | with_reducible apply keeps_modDom
    | with_reducible apply keeps_ite_snd
    | with_reducible apply keeps_foldl_snd
    | with_reducible apply keeps_foldl
    | split
    | dsimp -zeta only
    | with_reducible refine keeps_of_eq (by with_reducible assumption) ?_
    | with_reducible refine keeps_of_eq3 (by with_reducible assumption) ?_
    | dsimp only

theorem keeps_tileWake {F : Kind → Prop} [May F .regs] [May F .pairs] [May F .rows] [May F .doms] [May F .cals] [May F .hub] {r s : State} {x0 : _} (h : Keeps F r s) : Keeps F r (tileWake x0 s) := by
  unfold tileWake
  repeat' first
    | with_reducible assumption
    | intro _
    | with_reducible apply keeps_ite
    | with_reducible apply keeps_askRecommit
    | with_reducible apply keeps_tileUp
    | with_reducible apply keeps_tileTrims
    | with_reducible apply keeps_applySubAdcs
    | with_reducible apply keeps_rebuildSlices
    | with_reducible apply keeps_ite_snd
    | with_reducible apply keeps_foldl_snd
    | with_reducible apply keeps_foldl
    | split
    | dsimp -zeta only
    | with_reducible refine keeps_of_eq (by with_reducible assumption) ?_
    | with_reducible refine keeps_of_eq3 (by with_reducible assumption) ?_
    | dsimp only

theorem keeps_finishWake {F : Kind → Prop} [May F .regs] [May F .pairs] [May F .rows] [May F .doms] [May F .cals] [May F .hub] {r s : State} {x0 : _} (h : Keeps F r s) : Keeps F r (finishWake x0 s) := by
  unfold finishWake
  repeat' first
    | with_reducible assumption
    | intro _
    | with_reducible apply keeps_ite
    | with_reducible apply keeps_tileWake
    | with_reducible apply keeps_modDom
    | with_reducible apply keeps_ite_snd
    | with_reducible apply keeps_foldl_snd
    | with_reducible apply keeps_foldl
    | split
    | dsimp -zeta only
    | with_reducible refine keeps_of_eq (by with_reducible assumption) ?_
    | with_reducible refine keeps_of_eq3 (by with_reducible assumption) ?_
    | dsimp only

theorem keeps_recordStall {F : Kind → Prop} [May F .regs] {r s : State} {x0 : _} (h : Keeps F r s) : Keeps F r (recordStall x0 s) := by
  unfold recordStall
  repeat' first
    | with_reducible assumption
    | intro _
    | with_reducible apply keeps_ite
    | with_reducible apply keeps_setFld
    | with_reducible apply keeps_ite_snd
    | with_reducible apply keeps_foldl_snd
    | with_reducible apply keeps_foldl
    | split
    | dsimp -zeta only
    | with_reducible refine keeps_of_eq (by with_reducible assumption) ?_
    | with_reducible refine keeps_of_eq3 (by with_reducible assumption) ?_
    | dsimp only

theorem keeps_wakeNow {F : Kind → Prop} [May F .free] [May F .regs] [May F .pairs] [May F .rows] [May F .doms] [May F .cals] [May F .hub] {r s : State} {x0 : _} (h : Keeps F r s) : Keeps F r (wakeNow x0 s) := by
  unfold wakeNow
  repeat' first
    | with_reducible assumption
    | intro _
    | with_reducible apply keeps_ite
    | with_reducible apply keeps_finishWake
    | with_reducible apply keeps_countWake
    | with_reducible apply keeps_draw
    | with_reducible apply keeps_recordStall
    | with_reducible apply keeps_forEach
    | with_reducible apply keeps_ite_snd
    | with_reducible apply keeps_foldl_snd
    | with_reducible apply keeps_foldl
    | split
    | dsimp -zeta only
    | with_reducible refine keeps_of_eq (by with_reducible assumption) ?_
    | with_reducible refine keeps_of_eq3 (by with_reducible assumption) ?_
    | dsimp only

theorem keeps_startWake {F : Kind → Prop} [May F .doms] {r s : State} {x0 : _} (h : Keeps F r s) : Keeps F r (startWake x0 s) := by
  unfold startWake
  repeat' first
    | with_reducible assumption
    | intro _
    | with_reducible apply keeps_ite
    | with_reducible apply keeps_modDom
    | with_reducible apply keeps_ite_snd
    | with_reducible apply keeps_foldl_snd
    | with_reducible apply keeps_foldl
    | split
    | dsimp -zeta only
    | with_reducible refine keeps_of_eq (by with_reducible assumption) ?_
    | with_reducible refine keeps_of_eq3 (by with_reducible assumption) ?_
    | dsimp only

theorem keeps_startWakes {F : Kind → Prop} [May F .regs] [May F .doms] {r s : State} (h : Keeps F r s) : Keeps F r (startWakes s) := by
  unfold startWakes
  repeat' first
    | with_reducible assumption
    | intro _
    | with_reducible apply keeps_ite
    | with_reducible apply keeps_startWake
    | with_reducible apply keeps_countWake
    | with_reducible apply keeps_forEach
    | with_reducible apply keeps_ite_snd
    | with_reducible apply keeps_foldl_snd
    | with_reducible apply keeps_foldl
    | split
    | dsimp -zeta only
    | with_reducible refine keeps_of_eq (by with_reducible assumption) ?_
    | with_reducible refine keeps_of_eq3 (by with_reducible assumption) ?_
    | dsimp only

theorem keeps_losePair {F : Kind → Prop} [May F .regs] [May F .pairs] [May F .tbl] [May F .held] [May F .snr] [May F .erle] [May F .errs] [May F .sigma] [May F .noise] [May F .coef] [May F .seeds] {r s : State} {g : _} (h : Keeps F r s) : Keeps F r (losePair g s) := by
  unfold losePair
  exact keeps_applySubAdcs (keeps_seeds_filter (keeps_coef_filter (keeps_noise_filter (keeps_sigma_filter (keeps_errs_filter (keeps_erle_filter
    (keeps_snr_filter (keeps_held_filter (keeps_tbl_filter (keeps_pairs_filter (keeps_regs_filter h)))))))))))

theorem keeps_downSub {F : Kind → Prop} [May F .doms] {r s : State} {x0 : _} (h : Keeps F r s) : Keeps F r (downSub x0 s) := by
  unfold downSub
  repeat' first
    | with_reducible assumption
    | intro _
    | with_reducible apply keeps_ite
    | with_reducible apply keeps_modDom
    | with_reducible apply keeps_ite_snd
    | with_reducible apply keeps_foldl_snd
    | with_reducible apply keeps_foldl
    | split
    | dsimp -zeta only
    | with_reducible refine keeps_of_eq (by with_reducible assumption) ?_
    | with_reducible refine keeps_of_eq3 (by with_reducible assumption) ?_
    | dsimp only

theorem keeps_portPowerOff {F : Kind → Prop} [May F .regs] [May F .ports] [May F .pairs] [May F .tbl] [May F .held] [May F .snr] [May F .erle] [May F .errs] [May F .sigma] [May F .noise] [May F .coef] [May F .seeds] [May F .doms] {r s : State} {x0 : _} (h : Keeps F r s) : Keeps F r (portPowerOff x0 s) := by
  unfold portPowerOff
  repeat' first
    | with_reducible assumption
    | intro _
    | with_reducible apply keeps_ite
    | with_reducible apply keeps_modPort
    | with_reducible apply keeps_downSub
    | with_reducible apply keeps_losePair
    | with_reducible apply keeps_forEach
    | with_reducible apply keeps_ite_snd
    | with_reducible apply keeps_foldl_snd
    | with_reducible apply keeps_foldl
    | split
    | dsimp -zeta only
    | with_reducible refine keeps_of_eq (by with_reducible assumption) ?_
    | with_reducible refine keeps_of_eq3 (by with_reducible assumption) ?_
    | dsimp only

theorem keeps_tilePowerOff {F : Kind → Prop} [May F .regs] [May F .ports] [May F .pairs] [May F .links] [May F .tbl] [May F .held] [May F .snr] [May F .erle] [May F .errs] [May F .sigma] [May F .noise] [May F .coef] [May F .seeds] [May F .rows] [May F .tiles] [May F .diags] [May F .maps] [May F .traces] [May F .doms] {r s : State} {t : _} (h : Keeps F r s) : Keeps F r (tilePowerOff t s) := by
  unfold tilePowerOff
  exact keeps_modDom (keeps_applySubAdcs (keeps_rebuildSlices (keeps_setTile (keeps_doms_filter (keeps_regs_filter (keeps_dropPorts h))))))

theorem keeps_powerOff {F : Kind → Prop} [May F .regs] [May F .ports] [May F .pairs] [May F .links] [May F .tbl] [May F .held] [May F .snr] [May F .erle] [May F .errs] [May F .sigma] [May F .noise] [May F .coef] [May F .seeds] [May F .rows] [May F .tiles] [May F .diags] [May F .maps] [May F .traces] [May F .doms] {r s : State} {x0 : _} (h : Keeps F r s) : Keeps F r (powerOff x0 s) := by
  unfold powerOff
  repeat' first
    | with_reducible assumption
    | intro _
    | with_reducible apply keeps_ite
    | with_reducible apply keeps_modDom
    | with_reducible apply keeps_tilePowerOff
    | with_reducible apply keeps_octetOff
    | with_reducible apply keeps_downSub
    | with_reducible apply keeps_losePair
    | with_reducible apply keeps_ite_snd
    | with_reducible apply keeps_foldl_snd
    | with_reducible apply keeps_foldl
    | split
    | dsimp -zeta only
    | with_reducible refine keeps_of_eq (by with_reducible assumption) ?_
    | with_reducible refine keeps_of_eq3 (by with_reducible assumption) ?_
    | dsimp only

theorem keeps_domIgnored {F : Kind → Prop} [May F .regs] {r s : State} (h : Keeps F r s) : Keeps F r (domIgnored s) := by
  unfold domIgnored
  repeat' first
    | with_reducible assumption
    | intro _
    | with_reducible apply keeps_ite
    | with_reducible apply keeps_setFld
    | with_reducible apply keeps_ite_snd
    | with_reducible apply keeps_foldl_snd
    | with_reducible apply keeps_foldl
    | split
    | dsimp -zeta only
    | with_reducible refine keeps_of_eq (by with_reducible assumption) ?_
    | with_reducible refine keeps_of_eq3 (by with_reducible assumption) ?_
    | dsimp only

theorem keeps_domRetry {F : Kind → Prop} [May F .regs] [May F .doms] [May F .raised] {r s : State} {x0 : _} (h : Keeps F r s) : Keeps F r (domRetry x0 s) := by
  unfold domRetry
  repeat' first
    | with_reducible assumption
    | intro _
    | with_reducible apply keeps_ite
    | with_reducible apply keeps_domIgnored
    | with_reducible apply keeps_raise
    | with_reducible apply keeps_modDom
    | with_reducible apply keeps_ite_snd
    | with_reducible apply keeps_foldl_snd
    | with_reducible apply keeps_foldl
    | split
    | dsimp -zeta only
    | with_reducible refine keeps_of_eq (by with_reducible assumption) ?_
    | with_reducible refine keeps_of_eq3 (by with_reducible assumption) ?_
    | dsimp only

theorem keeps_domOff {F : Kind → Prop} [May F .regs] [May F .ports] [May F .pairs] [May F .links] [May F .tbl] [May F .held] [May F .snr] [May F .erle] [May F .errs] [May F .sigma] [May F .noise] [May F .coef] [May F .seeds] [May F .rows] [May F .tiles] [May F .diags] [May F .maps] [May F .traces] [May F .doms] {r s : State} {x0 : _} (h : Keeps F r s) : Keeps F r (domOff x0 s) := by
  unfold domOff
  repeat' first
    | with_reducible assumption
    | intro _
    | with_reducible apply keeps_ite
    | with_reducible apply keeps_domIgnored
    | with_reducible apply keeps_powerOff
    | with_reducible apply keeps_ite_snd
    | with_reducible apply keeps_foldl_snd
    | with_reducible apply keeps_foldl
    | split
    | dsimp -zeta only
    | with_reducible refine keeps_of_eq (by with_reducible assumption) ?_
    | with_reducible refine keeps_of_eq3 (by with_reducible assumption) ?_
    | dsimp only

theorem keeps_writeDomCtrl {F : Kind → Prop} [May F .regs] [May F .ports] [May F .pairs] [May F .links] [May F .tbl] [May F .held] [May F .snr] [May F .erle] [May F .errs] [May F .sigma] [May F .noise] [May F .coef] [May F .seeds] [May F .rows] [May F .tiles] [May F .diags] [May F .maps] [May F .traces] [May F .doms] [May F .raised] {r s : State} {x0 : _} (h : Keeps F r s) : Keeps F r (writeDomCtrl x0 s) := by
  unfold writeDomCtrl
  repeat' first
    | with_reducible assumption
    | intro _
    | with_reducible apply keeps_ite
    | with_reducible apply keeps_domRetry
    | with_reducible apply keeps_domOff
    | with_reducible apply keeps_ite_snd
    | with_reducible apply keeps_foldl_snd
    | with_reducible apply keeps_foldl
    | split
    | dsimp -zeta only
    | with_reducible refine keeps_of_eq (by with_reducible assumption) ?_
    | with_reducible refine keeps_of_eq3 (by with_reducible assumption) ?_
    | dsimp only

theorem keeps_judgeOctets {F : Kind → Prop} [May F .regs] [May F .doms] {r s : State} (h : Keeps F r s) : Keeps F r (judgeOctets s) := by
  unfold judgeOctets
  repeat' first
    | with_reducible assumption
    | intro _
    | with_reducible apply keeps_ite
    | with_reducible apply keeps_octetJudge
    | with_reducible apply keeps_octetOn
    | with_reducible apply keeps_forEach
    | with_reducible apply keeps_ite_snd
    | with_reducible apply keeps_foldl_snd
    | with_reducible apply keeps_foldl
    | split
    | dsimp -zeta only
    | with_reducible refine keeps_of_eq (by with_reducible assumption) ?_
    | with_reducible refine keeps_of_eq3 (by with_reducible assumption) ?_
    | dsimp only

theorem keeps_writeAvsCfg {F : Kind → Prop} [May F .regs] [May F .hub] {r s : State} {x0 : _} (h : Keeps F r s) : Keeps F r (writeAvsCfg x0 s) := by
  unfold writeAvsCfg
  repeat' first
    | with_reducible assumption
    | intro _
    | with_reducible apply keeps_ite
    | with_reducible apply keeps_setFld
    | with_reducible apply keeps_modHub
    | with_reducible apply keeps_ite_snd
    | with_reducible apply keeps_foldl_snd
    | with_reducible apply keeps_foldl
    | split
    | dsimp -zeta only
    | with_reducible refine keeps_of_eq (by with_reducible assumption) ?_
    | with_reducible refine keeps_of_eq3 (by with_reducible assumption) ?_
    | dsimp only

end Sys2Proof.Machine
end

