-- ==== Sys2Proof/Laws/KeepsGuestbook.lean ====
section
/-! SUPPORT. What the operations of Machine/Guestbook.lean keep. -/
set_option linter.unusedTactic false
set_option linter.unreachableTactic false
set_option linter.tactic.unusedName false
namespace Sys2Proof.Machine

theorem keeps_showGbQueue {F : Kind → Prop} [May F .regs] {r s : State} (h : Keeps F r s) : Keeps F r (showGbQueue s) := by
  unfold showGbQueue
  repeat' first
    | with_reducible assumption
    | intro _
    | with_reducible apply keeps_ite
    | with_reducible apply keeps_setFld
    | with_reducible apply keeps_ite_snd
    | with_reducible apply keeps_foldl_snd
    | with_reducible apply keeps_foldl
    | split
    | dsimp -zeta only
    | with_reducible refine keeps_of_eq (by with_reducible assumption) ?_
    | with_reducible refine keeps_of_eq3 (by with_reducible assumption) ?_
    | dsimp only

theorem keeps_queueRecord {F : Kind → Prop} [May F .regs] [May F .gbQueue] {r s : State} {x0 : _} (h : Keeps F r s) : Keeps F r (queueRecord x0 s) := by
  unfold queueRecord
  repeat' first
    | with_reducible assumption
    | intro _
    | with_reducible apply keeps_ite
    | with_reducible apply keeps_showGbQueue
    | with_reducible apply keeps_inc
    | with_reducible apply keeps_setFld
    | with_reducible apply keeps_intBit
    | with_reducible apply keeps_ite_snd
    | with_reducible apply keeps_foldl_snd
    | with_reducible apply keeps_foldl
    | split
    | dsimp -zeta only
    | with_reducible refine keeps_of_eq (by with_reducible assumption) ?_
    | with_reducible refine keeps_of_eq3 (by with_reducible assumption) ?_
    | dsimp only
    | with_reducible apply keeps_upd_gbQueue

theorem keeps_acceptEvent {F : Kind → Prop} [May F .regs] [May F .gbQueue] {r s : State} {x0 : _} (h : Keeps F r s) : Keeps F r (acceptEvent x0 s).2 := by
  show KeepsP F r _
  unfold acceptEvent
  repeat' first
    | with_reducible assumption
    | intro _
    | with_reducible apply keepsP_mk
    | with_reducible apply keepsP_ite
    | with_reducible apply keeps_ite
    | with_reducible apply keeps_inc
    | with_reducible apply keeps_queueRecord
    | with_reducible apply keeps_setFld
    | with_reducible apply keeps_ite_snd
    | with_reducible apply keeps_foldl_snd
    | with_reducible apply keeps_foldl
    | split
    | dsimp -zeta only
    | with_reducible refine keeps_of_eq (by with_reducible assumption) ?_
    | with_reducible refine keeps_of_eq3 (by with_reducible assumption) ?_
    | dsimp only

theorem keeps_countCode {F : Kind → Prop} [May F .gbWindow] {r s : State} {x0 x1 x2 : _} (h : Keeps F r s) : Keeps F r (countCode x0 x1 x2 s) := by
  unfold countCode
  repeat' first
    | with_reducible assumption
    | intro _
    | with_reducible apply keeps_ite
    | with_reducible apply keeps_ite_snd
    | with_reducible apply keeps_foldl_snd
    | with_reducible apply keeps_foldl
    | split
    | dsimp -zeta only
    | with_reducible refine keeps_of_eq (by with_reducible assumption) ?_
    | with_reducible refine keeps_of_eq3 (by with_reducible assumption) ?_
    | dsimp only
    | with_reducible apply keeps_upd_gbWindow

theorem keeps_limitEvent {F : Kind → Prop} [May F .regs] [May F .gbQueue] [May F .gbWindow] {r s : State} {x0 : _} (h : Keeps F r s) : Keeps F r (limitEvent x0 s) := by
  unfold limitEvent
  repeat' first
    | with_reducible assumption
    | intro _
    | with_reducible apply keeps_ite
    | with_reducible apply keeps_acceptEvent
    | with_reducible apply keeps_inc
    | with_reducible apply keeps_countCode
    | with_reducible apply keeps_ite_snd
    | with_reducible apply keeps_foldl_snd
    | with_reducible apply keeps_foldl
    | split
    | dsimp -zeta only
    | with_reducible refine keeps_of_eq (by with_reducible assumption) ?_
    | with_reducible refine keeps_of_eq3 (by with_reducible assumption) ?_
    | dsimp only
    | with_reducible apply keeps_upd_gbWindow

theorem keeps_execGbEventAccept {F : Kind → Prop} [May F .regs] [May F .gbQueue] [May F .gbWindow] [May F .raised] {r s : State} (h : Keeps F r s) : OutKeeps F r (execGbEventAccept s) := by
  unfold execGbEventAccept
  repeat' first
    | with_reducible assumption
    | intro _
    | with_reducible apply outKeeps_next
    | with_reducible apply outKeeps_ite
    | with_reducible apply keeps_ite
    | with_reducible apply keeps_limitEvent
    | with_reducible apply keeps_ite_snd
    | with_reducible apply keeps_foldl_snd
    | with_reducible apply keeps_foldl
    | split
    | dsimp -zeta only
    | with_reducible refine keeps_of_eq (by with_reducible assumption) ?_
    | with_reducible refine keeps_of_eq3 (by with_reducible assumption) ?_
    | dsimp only
    | with_reducible apply keeps_upd_raised

theorem keeps_execGbRateWindowEnd {F : Kind → Prop} [May F .gbWindow] [May F .hub] [May F .raised] {r s : State} (h : Keeps F r s) : OutKeeps F r (execGbRateWindowEnd s) := by
  unfold execGbRateWindowEnd
  repeat' first
    | with_reducible assumption
    | intro _
    | with_reducible apply outKeeps_next
    | with_reducible apply outKeeps_ite
    | with_reducible apply keeps_ite
    | with_reducible apply keeps_modHub
    | with_reducible apply keeps_raise
    | with_reducible apply keeps_forEach
    | with_reducible apply keeps_ite_snd
    | with_reducible apply keeps_foldl_snd
    | with_reducible apply keeps_foldl
    | split
    | dsimp -zeta only
    | with_reducible refine keeps_of_eq (by with_reducible assumption) ?_
    | with_reducible refine keeps_of_eq3 (by with_reducible assumption) ?_
    | dsimp only
    | with_reducible apply keeps_upd_gbWindow

theorem keeps_execGbRecordWrite {F : Kind → Prop} [May F .free] [May F .regs] [May F .mram] [May F .gbQueue] [May F .raised] {r s : State} {x0 : _} (h : Keeps F r s) : OutKeeps F r (execGbRecordWrite x0 s) := by
  unfold execGbRecordWrite
  repeat' first
    | with_reducible assumption
    | intro _
    | with_reducible apply outKeeps_next
    | with_reducible apply outKeeps_ite
    | with_reducible apply keeps_ite
    | with_reducible apply keeps_showGbQueue
    | with_reducible apply keeps_nvPut
    | with_reducible apply keeps_draw
    | with_reducible apply keeps_nvFault
    | with_reducible apply keeps_ite_snd
    | with_reducible apply keeps_foldl_snd
    | with_reducible apply keeps_foldl
    | split
    | dsimp -zeta only
    | with_reducible refine keeps_of_eq (by with_reducible assumption) ?_
    | with_reducible refine keeps_of_eq3 (by with_reducible assumption) ?_
    | dsimp only
    | with_reducible apply keeps_upd_gbQueue

theorem keeps_gbClear {F : Kind → Prop} [May F .regs] [May F .mram] [May F .gbQueue] {r s : State} (h : Keeps F r s) : Keeps F r (gbClear s).2 := by
  show KeepsP F r _
  unfold gbClear
  repeat' first
    | with_reducible assumption
    | intro _
    | with_reducible apply keepsP_mk
    | with_reducible apply keepsP_ite
    | with_reducible apply keeps_ite
    | with_reducible apply keeps_storeGen
    | with_reducible apply keeps_setFld
    | with_reducible apply keeps_showGbQueue
    | with_reducible apply keeps_setReg
    | with_reducible apply keeps_acceptEvent
    | with_reducible apply keeps_ite_snd
    | with_reducible apply keeps_foldl_snd
    | with_reducible apply keeps_foldl
    | split
    | dsimp -zeta only
    | with_reducible refine keeps_of_eq (by with_reducible assumption) ?_
    | with_reducible refine keeps_of_eq3 (by with_reducible assumption) ?_
    | dsimp only
    | with_reducible apply keeps_upd_gbQueue

theorem keeps_execGbClearDoorbell {F : Kind → Prop} [May F .regs] [May F .mram] [May F .gbQueue] {r s : State} (h : Keeps F r s) : OutKeeps F r (execGbClearDoorbell s) := by
  unfold execGbClearDoorbell
  repeat' first
    | with_reducible assumption
    | intro _
    | with_reducible apply outKeeps_next
    | with_reducible apply outKeeps_ite
    | with_reducible apply keeps_ite
    | with_reducible apply keeps_gbClear
    | with_reducible apply keeps_ite_snd
    | with_reducible apply keeps_foldl_snd
    | with_reducible apply keeps_foldl
    | split
    | dsimp -zeta only
    | with_reducible refine keeps_of_eq (by with_reducible assumption) ?_
    | with_reducible refine keeps_of_eq3 (by with_reducible assumption) ?_
    | dsimp only

theorem keeps_findNext {F : Kind → Prop} [May F .regs] {r s : State} (h : Keeps F r s) : Keeps F r (findNext s) := by
  unfold findNext
  repeat' first
    | with_reducible assumption
    | intro _
    | with_reducible apply keeps_ite
    | with_reducible apply keeps_setFld
    | with_reducible apply keeps_ite_snd
    | with_reducible apply keeps_foldl_snd
    | with_reducible apply keeps_foldl
    | split
    | dsimp -zeta only
    | with_reducible refine keeps_of_eq (by with_reducible assumption) ?_
    | with_reducible refine keeps_of_eq3 (by with_reducible assumption) ?_
    | dsimp only

theorem keeps_execOpSecondsStore {F : Kind → Prop} [May F .free] [May F .regs] [May F .mram] [May F .raised] {r s : State} {x0 : _} (h : Keeps F r s) : OutKeeps F r (execOpSecondsStore x0 s) := by
  unfold execOpSecondsStore
  repeat' first
    | with_reducible assumption
    | intro _
    | with_reducible apply outKeeps_next
    | with_reducible apply outKeeps_ite
    | with_reducible apply keeps_ite
    | with_reducible apply keeps_nvFails
    | with_reducible apply keeps_nvPut
    | with_reducible apply keeps_ite_snd
    | with_reducible apply keeps_foldl_snd
    | with_reducible apply keeps_foldl
    | split
    | dsimp -zeta only
    | with_reducible refine keeps_of_eq (by with_reducible assumption) ?_
    | with_reducible refine keeps_of_eq3 (by with_reducible assumption) ?_
    | dsimp only

end Sys2Proof.Machine
end

