-- ==== Sys2Proof/Laws/KeepsBusRead.lean ====
section
/-! SUPPORT. What the operations of Machine/BusRead.lean keep. -/
set_option linter.unusedTactic false
set_option linter.unreachableTactic false
set_option linter.tactic.unusedName false
namespace Sys2Proof.Machine

theorem keeps_readCoef {F : Kind → Prop} {r s : State} {x0 x1 : _} (h : Keeps F r s) : Keeps F r (readCoef x0 x1 s).2 := by
  show KeepsP F r _
  unfold readCoef
  repeat' first
    | with_reducible assumption
    | intro _
    | with_reducible apply keepsP_mk
    | with_reducible apply keepsP_ite
    | with_reducible apply keeps_ite
    | with_reducible apply keeps_ite_snd
    | with_reducible apply keeps_foldl_snd
    | with_reducible apply keeps_foldl
    | split
    | dsimp -zeta only
    | with_reducible refine keeps_of_eq (by with_reducible assumption) ?_
    | with_reducible refine keeps_of_eq3 (by with_reducible assumption) ?_
    | dsimp only

theorem keeps_stepIndex {F : Kind → Prop} [May F .regs] {r s : State} {x0 x1 x2 : _} (h : Keeps F r s) : Keeps F r (stepIndex x0 x1 x2 s) := by
  unfold stepIndex
  repeat' first
    | with_reducible assumption
    | intro _
    | with_reducible apply keeps_ite
    | with_reducible apply keeps_setFld
    | with_reducible apply keeps_ite_snd
    | with_reducible apply keeps_foldl_snd
    | with_reducible apply keeps_foldl
    | split
    | dsimp -zeta only
    | with_reducible refine keeps_of_eq (by with_reducible assumption) ?_
    | with_reducible refine keeps_of_eq3 (by with_reducible assumption) ?_
    | dsimp only

theorem keeps_windowStep {F : Kind → Prop} [May F .regs] {r s : State} {b : Blk} {i a : Nat} (h : Keeps F r s) : OptKeeps F r (windowStep b i a s) := by
  cases b
  all_goals dsimp only [windowStep]
  all_goals repeat' first
    | with_reducible exact optKeeps_none
    | with_reducible apply optKeeps_ite
    | with_reducible exact optKeeps_some (keeps_stepIndex h)
    | with_reducible exact optKeeps_some (keeps_stepTblIndex h)
    | with_reducible exact optKeeps_some (keeps_stepCoefIndex h)

theorem keeps_windowData {F : Kind → Prop} {r s : State} {x0 x1 x2 : _} (h : Keeps F r s) : Keeps F r (windowData x0 x1 x2 s).2 := by
  show KeepsP F r _
  unfold windowData
  repeat' first
    | with_reducible assumption
    | intro _
    | with_reducible apply keepsP_mk
    | with_reducible apply keepsP_ite
    | with_reducible apply keeps_ite
    | with_reducible apply keeps_readCoef
    | with_reducible apply keeps_ite_snd
    | with_reducible apply keeps_foldl_snd
    | with_reducible apply keeps_foldl
    | split
    | dsimp -zeta only
    | with_reducible refine keeps_of_eq (by with_reducible assumption) ?_
    | with_reducible refine keeps_of_eq3 (by with_reducible assumption) ?_
    | dsimp only

theorem keeps_stepCore {F : Kind → Prop} [May F .regs] {r s : State} (h : Keeps F r s) : Keeps F r (stepCore s) := by
  unfold stepCore
  repeat' first
    | with_reducible assumption
    | intro _
    | with_reducible apply keeps_ite
    | with_reducible apply keeps_stepIndex
    | with_reducible apply keeps_ite_snd
    | with_reducible apply keeps_foldl_snd
    | with_reducible apply keeps_foldl
    | split
    | dsimp -zeta only
    | with_reducible refine keeps_of_eq (by with_reducible assumption) ?_
    | with_reducible refine keeps_of_eq3 (by with_reducible assumption) ?_
    | dsimp only

theorem keeps_readCore {F : Kind → Prop} [May F .free] [May F .regs] [May F .core] {r s : State} {x0 : _} (h : Keeps F r s) : Keeps F r (readCore x0 s).2 := by
  show KeepsP F r _
  unfold readCore
  repeat' first
    | with_reducible assumption
    | intro _
    | with_reducible apply keepsP_mk
    | with_reducible apply keepsP_ite
    | with_reducible apply keeps_ite
    | with_reducible apply keeps_stepCore
    | with_reducible apply keeps_draw
    | with_reducible apply keeps_ite_snd
    | with_reducible apply keeps_foldl_snd
    | with_reducible apply keeps_foldl
    | split
    | dsimp -zeta only
    | with_reducible refine keeps_of_eq (by with_reducible assumption) ?_
    | with_reducible refine keeps_of_eq3 (by with_reducible assumption) ?_
    | dsimp only
    | with_reducible apply keeps_core_put

theorem keeps_writeCore {F : Kind → Prop} [May F .regs] [May F .core] {r s : State} {x0 : _} (h : Keeps F r s) : Keeps F r (writeCore x0 s) := by
  unfold writeCore
  repeat' first
    | with_reducible assumption
    | intro _
    | with_reducible apply keeps_ite
    | with_reducible apply keeps_stepCore
    | with_reducible apply keeps_ite_snd
    | with_reducible apply keeps_foldl_snd
    | with_reducible apply keeps_foldl
    | split
    | dsimp -zeta only
    | with_reducible refine keeps_of_eq (by with_reducible assumption) ?_
    | with_reducible refine keeps_of_eq3 (by with_reducible assumption) ?_
    | dsimp only
    | with_reducible apply keeps_core_put

theorem keeps_restartRc {F : Kind → Prop} [May F .regs] {r s : State} {x0 x1 x2 : _} (h : Keeps F r s) : Keeps F r (restartRc x0 x1 x2 s) := by
  unfold restartRc
  repeat' first
    | with_reducible assumption
    | intro _
    | with_reducible apply keeps_ite
    | with_reducible apply keeps_setFld
    | with_reducible apply keeps_forEach
    | with_reducible apply keeps_ite_snd
    | with_reducible apply keeps_foldl_snd
    | with_reducible apply keeps_foldl
    | split
    | dsimp -zeta only
    | with_reducible refine keeps_of_eq (by with_reducible assumption) ?_
    | with_reducible refine keeps_of_eq3 (by with_reducible assumption) ?_
    | dsimp only

theorem keeps_serveRead {F : Kind → Prop} [May F .free] [May F .regs] [May F .shadows] [May F .core] {r s : State} {m a inc : _} (h : Keeps F r s) : Keeps F r (serveRead m a inc s).2 := by
  unfold serveRead
  split
  · exact h
  · refine keeps_ite_snd (keeps_readCore h) ?_
    split
    · exact keeps_ite (keeps_windowData h) (optKeeps_getD (keeps_windowStep (keeps_windowData h)) (keeps_windowData h))
    · refine keeps_ite ?_ (keeps_restartRc ?_) <;> split <;> first | exact keeps_shadows_put h | exact h

theorem keeps_busRead {F : Kind → Prop} [May F .free] [May F .regs] [May F .shadows] [May F .core] {r s : State} {x0 x1 x2 : _} (h : Keeps F r s) : Keeps F r (busRead x0 x1 x2 s).2 := by
  show KeepsP F r _
  unfold busRead
  repeat' first
    | with_reducible assumption
    | intro _
    | with_reducible apply keepsP_mk
    | with_reducible apply keepsP_ite
    | with_reducible apply keeps_ite
    | with_reducible apply keeps_serveRead
    | with_reducible apply keeps_draw
    | with_reducible apply keeps_ite_snd
    | with_reducible apply keeps_foldl_snd
    | with_reducible apply keeps_foldl
    | split
    | dsimp -zeta only
    | with_reducible refine keeps_of_eq (by with_reducible assumption) ?_
    | with_reducible refine keeps_of_eq3 (by with_reducible assumption) ?_
    | dsimp only

end Sys2Proof.Machine
end

