-- ==== Sys2Proof/Laws/KeepsBusWrite.lean ====
section
/-! SUPPORT. What the operations of Machine/BusWrite.lean keep. -/
set_option linter.unusedTactic false
set_option linter.unreachableTactic false
set_option linter.tactic.unusedName false
namespace Sys2Proof.Machine

theorem keeps_endCommit {F : Kind → Prop} [May F .free] [May F .regs] [May F .ports] [May F .pairs] [May F .links] [May F .queues] [May F .banks] [May F .tiles] [May F .diags] [May F .doms] [May F .running] [May F .kept] [May F .completions] [May F .claims] [May F .waiting] [May F .later] [May F .tests] [May F .hub] [May F .raised] [May F .out] {r s : State} {x0 x1 : _} (h : Keeps F r s) : Keeps F r (endCommit x0 x1 s) := by
  unfold endCommit
  repeat' first
    | with_reducible assumption
    | intro _
    | with_reducible apply keeps_ite
    | with_reducible apply keeps_setReg
    | with_reducible apply keeps_setFld
    | with_reducible apply keeps_modHub
    | with_reducible apply keeps_raise
    | with_reducible apply keeps_startPort
    | with_reducible apply keeps_finalReply
    | with_reducible apply keeps_forEach
    | with_reducible apply keeps_ite_snd
    | with_reducible apply keeps_foldl_snd
    | with_reducible apply keeps_foldl
    | split
    | dsimp -zeta only
    | with_reducible refine keeps_of_eq (by with_reducible assumption) ?_
    | with_reducible refine keeps_of_eq3 (by with_reducible assumption) ?_
    | dsimp only

theorem keeps_nextCommit {F : Kind → Prop} [May F .hub] {r s : State} (h : Keeps F r s) : Keeps F r (nextCommit s) := by
  unfold nextCommit
  repeat' first
    | with_reducible assumption
    | intro _
    | with_reducible apply keeps_ite
    | with_reducible apply keeps_modHub
    | with_reducible apply keeps_ite_snd
    | with_reducible apply keeps_foldl_snd
    | with_reducible apply keeps_foldl
    | split
    | dsimp -zeta only
    | with_reducible refine keeps_of_eq (by with_reducible assumption) ?_
    | with_reducible refine keeps_of_eq3 (by with_reducible assumption) ?_
    | dsimp only

theorem keeps_startCommit {F : Kind → Prop} [May F .hub] {r s : State} {x0 x1 : _} (h : Keeps F r s) : Keeps F r (startCommit x0 x1 s) := by
  unfold startCommit
  repeat' first
    | with_reducible assumption
    | intro _
    | with_reducible apply keeps_ite
    | with_reducible apply keeps_nextCommit
    | with_reducible apply keeps_modHub
    | with_reducible apply keeps_ite_snd
    | with_reducible apply keeps_foldl_snd
    | with_reducible apply keeps_foldl
    | split
    | dsimp -zeta only
    | with_reducible refine keeps_of_eq (by with_reducible assumption) ?_
    | with_reducible refine keeps_of_eq3 (by with_reducible assumption) ?_
    | dsimp only

theorem keeps_finishCommit {F : Kind → Prop} [May F .free] [May F .regs] [May F .ports] [May F .pairs] [May F .links] [May F .queues] [May F .banks] [May F .tiles] [May F .diags] [May F .doms] [May F .running] [May F .kept] [May F .completions] [May F .claims] [May F .waiting] [May F .later] [May F .tests] [May F .hub] [May F .raised] [May F .out] {r s : State} (h : Keeps F r s) : Keeps F r (finishCommit s) := by
  unfold finishCommit
  repeat' first
    | with_reducible assumption
    | intro _
    | with_reducible apply keeps_ite
    | with_reducible apply keeps_nextCommit
    | with_reducible apply keeps_endCommit
    | with_reducible apply keeps_ite_snd
    | with_reducible apply keeps_foldl_snd
    | with_reducible apply keeps_foldl
    | split
    | dsimp -zeta only
    | with_reducible refine keeps_of_eq (by with_reducible assumption) ?_
    | with_reducible refine keeps_of_eq3 (by with_reducible assumption) ?_
    | dsimp only

theorem keeps_settleCommits {F : Kind → Prop} [May F .free] [May F .regs] [May F .ports] [May F .pairs] [May F .links] [May F .queues] [May F .banks] [May F .tiles] [May F .diags] [May F .doms] [May F .running] [May F .kept] [May F .completions] [May F .claims] [May F .waiting] [May F .later] [May F .tests] [May F .hub] [May F .raised] [May F .out] {r s : State} (h : Keeps F r s) : Keeps F r (settleCommits s) := by
  unfold settleCommits
  repeat' first
    | with_reducible assumption
    | intro _
    | with_reducible apply keeps_ite
    | with_reducible apply keeps_finishCommit
    | with_reducible apply keeps_ite_snd
    | with_reducible apply keeps_foldl_snd
    | with_reducible apply keeps_foldl
    | split
    | dsimp -zeta only
    | with_reducible refine keeps_of_eq (by with_reducible assumption) ?_
    | with_reducible refine keeps_of_eq3 (by with_reducible assumption) ?_
    | dsimp only

theorem keeps_clearFenced {F : Kind → Prop} [May F .free] [May F .regs] [May F .ports] [May F .pairs] [May F .links] [May F .queues] [May F .banks] [May F .tiles] [May F .diags] [May F .doms] [May F .completions] [May F .claims] [May F .waiting] [May F .later] [May F .tests] [May F .raised] {r s : State} (h : Keeps F r s) : Keeps F r (clearFenced s) := by
  unfold clearFenced
  repeat' first
    | with_reducible assumption
    | intro _
    | with_reducible apply keeps_ite
    | with_reducible apply keeps_setFld
    | with_reducible apply keeps_startPort
    | with_reducible apply keeps_forEach
    | with_reducible apply keeps_ite_snd
    | with_reducible apply keeps_foldl_snd
    | with_reducible apply keeps_foldl
    | split
    | dsimp -zeta only
    | with_reducible refine keeps_of_eq (by with_reducible assumption) ?_
    | with_reducible refine keeps_of_eq3 (by with_reducible assumption) ?_
    | dsimp only

theorem keeps_writeCheckCfg {F : Kind → Prop} [May F .regs] [May F .hub] {r s : State} {x0 : _} (h : Keeps F r s) : Keeps F r (writeCheckCfg x0 s) := by
  unfold writeCheckCfg
  repeat' first
    | with_reducible assumption
    | intro _
    | with_reducible apply keeps_ite
    | with_reducible apply keeps_setFld
    | with_reducible apply keeps_modHub
    | with_reducible apply keeps_ite_snd
    | with_reducible apply keeps_foldl_snd
    | with_reducible apply keeps_foldl
    | split
    | dsimp -zeta only
    | with_reducible refine keeps_of_eq (by with_reducible assumption) ?_
    | with_reducible refine keeps_of_eq3 (by with_reducible assumption) ?_
    | dsimp only

theorem keeps_expireWindow {F : Kind → Prop} [May F .hub] [May F .raised] {r s : State} (h : Keeps F r s) : Keeps F r (expireWindow s) := by
  unfold expireWindow
  repeat' first
    | with_reducible assumption
    | intro _
    | with_reducible apply keeps_ite
    | with_reducible apply keeps_raise
    | with_reducible apply keeps_modHub
    | with_reducible apply keeps_ite_snd
    | with_reducible apply keeps_foldl_snd
    | with_reducible apply keeps_foldl
    | split
    | dsimp -zeta only
    | with_reducible refine keeps_of_eq (by with_reducible assumption) ?_
    | with_reducible refine keeps_of_eq3 (by with_reducible assumption) ?_
    | dsimp only

theorem keeps_refuseLocked {F : Kind → Prop} [May F .regs] [May F .raised] {r s : State} {x0 x1 : _} (h : Keeps F r s) : Keeps F r (refuseLocked x0 x1 s) := by
  unfold refuseLocked
  repeat' first
    | with_reducible assumption
    | intro _
    | with_reducible apply keeps_ite
    | with_reducible apply keeps_inc
    | with_reducible apply keeps_setReg
    | with_reducible apply keeps_setFld
    | with_reducible apply keeps_raise
    | with_reducible apply keeps_intBit
    | with_reducible apply keeps_ite_snd
    | with_reducible apply keeps_foldl_snd
    | with_reducible apply keeps_foldl
    | split
    | dsimp -zeta only
    | with_reducible refine keeps_of_eq (by with_reducible assumption) ?_
    | with_reducible refine keeps_of_eq3 (by with_reducible assumption) ?_
    | dsimp only

theorem keeps_writeLockable {F : Kind → Prop} [May F .regs] [May F .hub] [May F .raised] {r s : State} {x0 x1 x2 : _} (h : Keeps F r s) : Keeps F r (writeLockable x0 x1 x2 s).2 := by
  show KeepsP F r _
  unfold writeLockable
  repeat' first
    | with_reducible assumption
    | intro _
    | with_reducible apply keepsP_mk
    | with_reducible apply keepsP_ite
    | with_reducible apply keeps_ite
    | with_reducible apply keeps_expireWindow
    | with_reducible apply keeps_refuseLocked
    | with_reducible apply keeps_writeCheckCfg
    | with_reducible apply keeps_modHub
    | with_reducible apply keeps_ite_snd
    | with_reducible apply keeps_foldl_snd
    | with_reducible apply keeps_foldl
    | split
    | dsimp -zeta only
    | with_reducible refine keeps_of_eq (by with_reducible assumption) ?_
    | with_reducible refine keeps_of_eq3 (by with_reducible assumption) ?_
    | dsimp only

theorem keeps_writeKey {F : Kind → Prop} [May F .regs] [May F .hub] [May F .raised] {r s : State} {x0 x1 : _} (h : Keeps F r s) : Keeps F r (writeKey x0 x1 s) := by
  unfold writeKey
  repeat' first
    | with_reducible assumption
    | intro _
    | with_reducible apply keeps_ite
    | with_reducible apply keeps_expireWindow
    | with_reducible apply keeps_modHub
    | with_reducible apply keeps_raise
    | with_reducible apply keeps_intBit
    | with_reducible apply keeps_inc
    | with_reducible apply keeps_setFld
    | with_reducible apply keeps_ite_snd
    | with_reducible apply keeps_foldl_snd
    | with_reducible apply keeps_foldl
    | split
    | dsimp -zeta only
    | with_reducible refine keeps_of_eq (by with_reducible assumption) ?_
    | with_reducible refine keeps_of_eq3 (by with_reducible assumption) ?_
    | dsimp only

theorem keeps_setLock {F : Kind → Prop} [May F .regs] [May F .raised] {r s : State} {x0 : _} (h : Keeps F r s) : Keeps F r (setLock x0 s) := by
  unfold setLock
  repeat' first
    | with_reducible assumption
    | intro _
    | with_reducible apply keeps_ite
    | with_reducible apply keeps_raise
    | with_reducible apply keeps_setFld
    | with_reducible apply keeps_ite_snd
    | with_reducible apply keeps_foldl_snd
    | with_reducible apply keeps_foldl
    | split
    | dsimp -zeta only
    | with_reducible refine keeps_of_eq (by with_reducible assumption) ?_
    | with_reducible refine keeps_of_eq3 (by with_reducible assumption) ?_
    | dsimp only

theorem keeps_writeLaneCfg {F : Kind → Prop} [May F .regs] [May F .pairs] [May F .links] [May F .lanes] [May F .doms] [May F .eyes] [May F .completions] [May F .claims] [May F .waiting] [May F .later] [May F .hub] [May F .raised] {r s : State} {x0 x1 : _} (h : Keeps F r s) : Keeps F r (writeLaneCfg x0 x1 s) := by
  unfold writeLaneCfg
  repeat' first
    | with_reducible assumption
    | intro _
    | with_reducible apply keeps_ite
    | with_reducible apply keeps_setFld
    | with_reducible apply keeps_octetOn
    | with_reducible apply keeps_writeLaneEnable
    | with_reducible apply keeps_writeLaneRate
    | with_reducible apply keeps_ite_snd
    | with_reducible apply keeps_foldl_snd
    | with_reducible apply keeps_foldl
    | split
    | dsimp -zeta only
    | with_reducible refine keeps_of_eq (by with_reducible assumption) ?_
    | with_reducible refine keeps_of_eq3 (by with_reducible assumption) ?_
    | dsimp only

theorem keeps_writeSpare {F : Kind → Prop} [May F .regs] [May F .lanes] [May F .doms] [May F .eyes] [May F .completions] [May F .claims] [May F .waiting] [May F .later] [May F .hub] {r s : State} {x0 x1 : _} (h : Keeps F r s) : Keeps F r (writeSpare x0 x1 s) := by
  unfold writeSpare
  repeat' first
    | with_reducible assumption
    | intro _
    | with_reducible apply keeps_ite
    | with_reducible apply keeps_setReg
    | with_reducible apply keeps_octetOn
    | with_reducible apply keeps_writeSpareCfg
    | with_reducible apply keeps_ite_snd
    | with_reducible apply keeps_foldl_snd
    | with_reducible apply keeps_foldl
    | split
    | dsimp -zeta only
    | with_reducible refine keeps_of_eq (by with_reducible assumption) ?_
    | with_reducible refine keeps_of_eq3 (by with_reducible assumption) ?_
    | dsimp only

theorem keeps_writeSpareCtrl {F : Kind → Prop} [May F .free] [May F .regs] [May F .queues] [May F .hosts] [May F .lanes] [May F .laneOf] [May F .banks] [May F .doms] [May F .hub] [May F .raised] {r s : State} {x0 x1 : _} (h : Keeps F r s) : Keeps F r (writeSpareCtrl x0 x1 s) := by
  unfold writeSpareCtrl
  repeat' first
    | with_reducible assumption
    | intro _
    | with_reducible apply keeps_ite
    | with_reducible apply keeps_hostDone
    | with_reducible apply keeps_askSubstitute
    | with_reducible apply keeps_askRevert
    | with_reducible apply keeps_spareIgnored
    | with_reducible apply keeps_ite_snd
    | with_reducible apply keeps_foldl_snd
    | with_reducible apply keeps_foldl
    | split
    | dsimp -zeta only
    | with_reducible refine keeps_of_eq (by with_reducible assumption) ?_
    | with_reducible refine keeps_of_eq3 (by with_reducible assumption) ?_
    | dsimp only

theorem keeps_writeWrap {F : Kind → Prop} [May F .regs] [May F .raised] {r s : State} {x0 : _} (h : Keeps F r s) : Keeps F r (writeWrap x0 s) := by
  unfold writeWrap
  repeat' first
    | with_reducible assumption
    | intro _
    | with_reducible apply keeps_ite
    | with_reducible apply keeps_raise
    | with_reducible apply keeps_setFld
    | with_reducible apply keeps_ite_snd
    | with_reducible apply keeps_foldl_snd
    | with_reducible apply keeps_foldl
    | split
    | dsimp -zeta only
    | with_reducible refine keeps_of_eq (by with_reducible assumption) ?_
    | with_reducible refine keeps_of_eq3 (by with_reducible assumption) ?_
    | dsimp only

theorem keeps_writeStartupCfg {F : Kind → Prop} [May F .free] [May F .regs] [May F .ports] [May F .pairs] [May F .links] [May F .queues] [May F .banks] [May F .tiles] [May F .diags] [May F .doms] [May F .completions] [May F .claims] [May F .waiting] [May F .later] [May F .tests] [May F .raised] {r s : State} {x0 x1 : _} (h : Keeps F r s) : Keeps F r (writeStartupCfg x0 x1 s) := by
  unfold writeStartupCfg
  repeat' first
    | with_reducible assumption
    | intro _
    | with_reducible apply keeps_ite
    | with_reducible apply keeps_setReg
    | with_reducible apply keeps_setFld
    | with_reducible apply keeps_writeEnable
    | with_reducible apply keeps_ite_snd
    | with_reducible apply keeps_foldl_snd
    | with_reducible apply keeps_foldl
    | split
    | dsimp -zeta only
    | with_reducible refine keeps_of_eq (by with_reducible assumption) ?_
    | with_reducible refine keeps_of_eq3 (by with_reducible assumption) ?_
    | dsimp only

theorem keeps_writeRateCfg {F : Kind → Prop} [May F .regs] [May F .links] {r s : State} {x0 x1 : _} (h : Keeps F r s) : Keeps F r (writeRateCfg x0 x1 s) := by
  unfold writeRateCfg
  repeat' first
    | with_reducible assumption
    | intro _
    | with_reducible apply keeps_ite
    | with_reducible apply keeps_setReg
    | with_reducible apply keeps_askTier
    | with_reducible apply keeps_ite_snd
    | with_reducible apply keeps_foldl_snd
    | with_reducible apply keeps_foldl
    | split
    | dsimp -zeta only
    | with_reducible refine keeps_of_eq (by with_reducible assumption) ?_
    | with_reducible refine keeps_of_eq3 (by with_reducible assumption) ?_
    | dsimp only

theorem keeps_writeSpecial {F : Kind → Prop} [May F .free] [May F .regs] [May F .ports] [May F .pairs] [May F .links] [May F .queues] [May F .hosts] [May F .lanes] [May F .laneOf] [May F .tbl] [May F .held] [May F .snr] [May F .erle] [May F .errs] [May F .sigma] [May F .noise] [May F .coef] [May F .seeds] [May F .banks] [May F .rows] [May F .tiles] [May F .diags] [May F .maps] [May F .traces] [May F .doms] [May F .cals] [May F .calRuns] [May F .eyes] [May F .completions] [May F .claims] [May F .waiting] [May F .later] [May F .tests] [May F .mram] [May F .gbQueue] [May F .core] [May F .hub] [May F .raised] [May F .out] {r s : State} {b : Blk} {i a v : Nat} (h : Keeps F r s) : OptKeeps F r (writeSpecial b i a v s) := by
  cases b
  all_goals dsimp only [writeSpecial]
  all_goals repeat' first
    | with_reducible exact optKeeps_none
    | with_reducible apply optKeeps_ite
    | with_reducible exact keeps_windowStep h
    | with_reducible apply optKeeps_some
    | with_reducible apply keeps_ite
    | with_reducible assumption
    | with_reducible apply keeps_writeClkDiv
    | with_reducible apply keeps_writeAvsCfg
    | with_reducible apply keeps_writeDomCtrl
    | with_reducible apply keeps_startCommit
    | with_reducible apply keeps_clearFenced
    | with_reducible apply keeps_writeLaneCfg
    | with_reducible apply keeps_writeFfe
    | with_reducible apply keeps_writeEyeCtrl
    | with_reducible apply keeps_writePrbsCtrl
    | with_reducible apply keeps_writeSpare
    | with_reducible apply keeps_writeSpareCtrl
    | with_reducible apply keeps_gbClear
    | with_reducible apply keeps_writeCore
    | with_reducible apply keeps_swapLpll
    | with_reducible apply keeps_writePortMode
    | with_reducible apply keeps_writeStartupCfg
    | with_reducible apply keeps_writeRateCfg
    | with_reducible apply keeps_writeTblData
    | with_reducible apply keeps_writeCoefWindow
    | with_reducible apply keeps_writeCoefData
    | with_reducible apply keeps_writeDiagCtrl

theorem keeps_afterWrite {F : Kind → Prop} [May F .regs] [May F .pairs] [May F .queues] [May F .diags] [May F .doms] [May F .hub] [May F .raised] {r s : State} {x0 x1 x2 x3 : _} (h : Keeps F r s) : Keeps F r (afterWrite x0 x1 x2 x3 s) := by
  unfold afterWrite
  repeat' first
    | with_reducible assumption
    | intro _
    | with_reducible apply keeps_ite
    | with_reducible apply keeps_judgeDividers
    | with_reducible apply keeps_showCdc
    | with_reducible apply keeps_judgeOctets
    | with_reducible apply keeps_settleNotified
    | with_reducible apply keeps_injectPattern
    | with_reducible apply keeps_refreshModes
    | with_reducible apply keeps_patternNotice
    | with_reducible apply keeps_histClear
    | with_reducible apply keeps_ite_snd
    | with_reducible apply keeps_foldl_snd
    | with_reducible apply keeps_foldl
    | split
    | dsimp -zeta only
    | with_reducible refine keeps_of_eq (by with_reducible assumption) ?_
    | with_reducible refine keeps_of_eq3 (by with_reducible assumption) ?_
    | dsimp only

theorem keeps_writeLost {F : Kind → Prop} [May F .regs] [May F .raised] {r s : State} {x0 x1 : _} (h : Keeps F r s) : Keeps F r (writeLost x0 x1 s) := by
  unfold writeLost
  repeat' first
    | with_reducible assumption
    | intro _
    | with_reducible apply keeps_ite
    | with_reducible apply keeps_inc
    | with_reducible apply keeps_setReg
    | with_reducible apply keeps_setFld
    | with_reducible apply keeps_raise
    | with_reducible apply keeps_intBit
    | with_reducible apply keeps_ite_snd
    | with_reducible apply keeps_foldl_snd
    | with_reducible apply keeps_foldl
    | split
    | dsimp -zeta only
    | with_reducible refine keeps_of_eq (by with_reducible assumption) ?_
    | with_reducible refine keeps_of_eq3 (by with_reducible assumption) ?_
    | dsimp only

theorem keeps_write64 {F : Kind → Prop} [May F .regs] [May F .highs] {r s : State} {x0 x1 x2 x3 x4 x5 : _} (h : Keeps F r s) : Keeps F r (write64 x0 x1 x2 x3 x4 x5 s) := by
  unfold write64
  repeat' first
    | with_reducible assumption
    | intro _
    | with_reducible apply keeps_ite
    | with_reducible apply keeps_set64
    | with_reducible apply keeps_ite_snd
    | with_reducible apply keeps_foldl_snd
    | with_reducible apply keeps_foldl
    | split
    | dsimp -zeta only
    | with_reducible refine keeps_of_eq (by with_reducible assumption) ?_
    | with_reducible refine keeps_of_eq3 (by with_reducible assumption) ?_
    | dsimp only
    | with_reducible apply keeps_highs_put

theorem keeps_writePlain {F : Kind → Prop} [May F .free] [May F .regs] [May F .ports] [May F .pairs] [May F .links] [May F .queues] [May F .hosts] [May F .lanes] [May F .laneOf] [May F .tbl] [May F .held] [May F .snr] [May F .erle] [May F .errs] [May F .sigma] [May F .noise] [May F .coef] [May F .seeds] [May F .banks] [May F .rows] [May F .tiles] [May F .diags] [May F .maps] [May F .traces] [May F .doms] [May F .cals] [May F .calRuns] [May F .eyes] [May F .completions] [May F .claims] [May F .waiting] [May F .later] [May F .tests] [May F .mram] [May F .gbQueue] [May F .highs] [May F .core] [May F .hub] [May F .raised] [May F .out] {r s : State} {x0 x1 x2 x3 : _} (h : Keeps F r s) : Keeps F r (writePlain x0 x1 x2 x3 s) := by
  unfold writePlain
  repeat' first
    | with_reducible assumption
    | intro _
    | with_reducible apply keeps_ite
    | with_reducible apply keeps_write64
    | with_reducible apply keeps_writeSpecial
    | with_reducible apply keeps_setReg
    | with_reducible apply keeps_writeWrap
    | with_reducible apply keeps_setFld
    | with_reducible apply keeps_writeLost
    | with_reducible apply keeps_afterWrite
    | exact (keeps_writeSpecial h).keeps _ (by assumption)
    | with_reducible apply keeps_ite_snd
    | with_reducible apply keeps_foldl_snd
    | with_reducible apply keeps_foldl
    | split
    | dsimp -zeta only
    | with_reducible refine keeps_of_eq (by with_reducible assumption) ?_
    | with_reducible refine keeps_of_eq3 (by with_reducible assumption) ?_
    | dsimp only

theorem keeps_writeReg {F : Kind → Prop} [May F .free] [May F .regs] [May F .ports] [May F .pairs] [May F .links] [May F .queues] [May F .hosts] [May F .lanes] [May F .laneOf] [May F .tbl] [May F .held] [May F .snr] [May F .erle] [May F .errs] [May F .sigma] [May F .noise] [May F .coef] [May F .seeds] [May F .banks] [May F .rows] [May F .tiles] [May F .diags] [May F .maps] [May F .traces] [May F .doms] [May F .cals] [May F .calRuns] [May F .running] [May F .kept] [May F .eyes] [May F .completions] [May F .claims] [May F .waiting] [May F .later] [May F .tests] [May F .mram] [May F .gbQueue] [May F .highs] [May F .core] [May F .hub] [May F .raised] [May F .out] {r s : State} {x0 x1 x2 x3 : _} (h : Keeps F r s) : Keeps F r (writeReg x0 x1 x2 x3 s).2 := by
  show KeepsP F r _
  unfold writeReg
  repeat' first
    | with_reducible assumption
    | intro _
    | with_reducible apply keepsP_mk
    | with_reducible apply keepsP_ite
    | with_reducible apply keeps_ite
    | with_reducible apply keeps_writeLockable
    | with_reducible apply keeps_writeKey
    | with_reducible apply keeps_setLock
    | with_reducible apply keeps_writePlain
    | with_reducible apply keeps_settleCommits
    | with_reducible apply keeps_ite_snd
    | with_reducible apply keeps_foldl_snd
    | with_reducible apply keeps_foldl
    | split
    | dsimp -zeta only
    | with_reducible refine keeps_of_eq (by with_reducible assumption) ?_
    | with_reducible refine keeps_of_eq3 (by with_reducible assumption) ?_
    | dsimp only

end Sys2Proof.Machine
end

