-- ==== Sys2Proof/Laws/KeepsConfigCheck.lean ====
section
/-! SUPPORT. What the operations of Machine/ConfigCheck.lean keep. -/
set_option linter.unusedTactic false
set_option linter.unreachableTactic false
set_option linter.tactic.unusedName false
namespace Sys2Proof.Machine

theorem keeps_ownWrite {F : Kind → Prop} [May F .free] [May F .regs] [May F .ports] [May F .pairs] [May F .links] [May F .queues] [May F .hosts] [May F .lanes] [May F .laneOf] [May F .tbl] [May F .held] [May F .snr] [May F .erle] [May F .errs] [May F .sigma] [May F .noise] [May F .coef] [May F .seeds] [May F .banks] [May F .rows] [May F .tiles] [May F .diags] [May F .maps] [May F .traces] [May F .doms] [May F .cals] [May F .calRuns] [May F .running] [May F .kept] [May F .eyes] [May F .completions] [May F .claims] [May F .waiting] [May F .later] [May F .tests] [May F .mram] [May F .gbQueue] [May F .highs] [May F .core] [May F .hub] [May F .raised] [May F .out] {r s : State} {x0 x1 : _} (h : Keeps F r s) : Keeps F r (ownWrite x0 x1 s) := by
  unfold ownWrite
  repeat' first
    | with_reducible assumption
    | intro _
    | with_reducible apply keeps_ite
    | with_reducible apply keeps_writeReg
    | with_reducible apply keeps_wakeNow
    | with_reducible apply keeps_ite_snd
    | with_reducible apply keeps_foldl_snd
    | with_reducible apply keeps_foldl
    | split
    | dsimp -zeta only
    | with_reducible refine keeps_of_eq (by with_reducible assumption) ?_
    | with_reducible refine keeps_of_eq3 (by with_reducible assumption) ?_
    | dsimp only

theorem keeps_reload {F : Kind → Prop} [May F .free] [May F .regs] [May F .ports] [May F .pairs] [May F .links] [May F .queues] [May F .hosts] [May F .lanes] [May F .laneOf] [May F .tbl] [May F .held] [May F .snr] [May F .erle] [May F .errs] [May F .sigma] [May F .noise] [May F .coef] [May F .seeds] [May F .banks] [May F .rows] [May F .tiles] [May F .diags] [May F .maps] [May F .traces] [May F .doms] [May F .cals] [May F .calRuns] [May F .running] [May F .kept] [May F .eyes] [May F .completions] [May F .claims] [May F .waiting] [May F .later] [May F .tests] [May F .mram] [May F .gbQueue] [May F .highs] [May F .core] [May F .hub] [May F .raised] [May F .out] {r s : State} (h : Keeps F r s) : Keeps F r (reload s) := by
  unfold reload
  repeat' first
    | with_reducible assumption
    | intro _
    | with_reducible apply keeps_ite
    | with_reducible apply keeps_ownWrite
    | with_reducible apply keeps_raise
    | with_reducible apply keeps_inc
    | with_reducible apply keeps_setFld
    | with_reducible apply keeps_forEach
    | with_reducible apply keeps_ite_snd
    | with_reducible apply keeps_foldl_snd
    | with_reducible apply keeps_foldl
    | split
    | dsimp -zeta only
    | with_reducible refine keeps_of_eq (by with_reducible assumption) ?_
    | with_reducible refine keeps_of_eq3 (by with_reducible assumption) ?_
    | dsimp only

theorem keeps_fence {F : Kind → Prop} [May F .free] [May F .regs] [May F .ports] [May F .pairs] [May F .links] [May F .queues] [May F .banks] [May F .tiles] [May F .diags] [May F .completions] [May F .claims] [May F .waiting] [May F .later] [May F .tests] [May F .raised] {r s : State} (h : Keeps F r s) : Keeps F r (fence s) := by
  unfold fence
  repeat' first
    | with_reducible assumption
    | intro _
    | with_reducible apply keeps_ite
    | with_reducible apply keeps_stopPort
    | with_reducible apply keeps_setFld
    | with_reducible apply keeps_raise
    | with_reducible apply keeps_forEach
    | with_reducible apply keeps_ite_snd
    | with_reducible apply keeps_foldl_snd
    | with_reducible apply keeps_foldl
    | split
    | dsimp -zeta only
    | with_reducible refine keeps_of_eq (by with_reducible assumption) ?_
    | with_reducible refine keeps_of_eq3 (by with_reducible assumption) ?_
    | dsimp only

theorem keeps_checkAction {F : Kind → Prop} [May F .free] [May F .regs] [May F .ports] [May F .pairs] [May F .links] [May F .queues] [May F .hosts] [May F .lanes] [May F .laneOf] [May F .tbl] [May F .held] [May F .snr] [May F .erle] [May F .errs] [May F .sigma] [May F .noise] [May F .coef] [May F .seeds] [May F .banks] [May F .rows] [May F .tiles] [May F .diags] [May F .maps] [May F .traces] [May F .doms] [May F .cals] [May F .calRuns] [May F .running] [May F .kept] [May F .eyes] [May F .completions] [May F .claims] [May F .waiting] [May F .later] [May F .tests] [May F .mram] [May F .gbQueue] [May F .highs] [May F .core] [May F .hub] [May F .raised] [May F .out] {r s : State} (h : Keeps F r s) : Keeps F r (checkAction s) := by
  unfold checkAction
  repeat' first
    | with_reducible assumption
    | intro _
    | with_reducible apply keeps_ite
    | with_reducible apply keeps_modHub
    | with_reducible apply keeps_reload
    | with_reducible apply keeps_fence
    | with_reducible apply keeps_ite_snd
    | with_reducible apply keeps_foldl_snd
    | with_reducible apply keeps_foldl
    | split
    | dsimp -zeta only
    | with_reducible refine keeps_of_eq (by with_reducible assumption) ?_
    | with_reducible refine keeps_of_eq3 (by with_reducible assumption) ?_
    | dsimp only

theorem keeps_recommitSegs {F : Kind → Prop} [May F .regs] [May F .hub] [May F .raised] {r s : State} (h : Keeps F r s) : Keeps F r (recommitSegs s) := by
  unfold recommitSegs
  repeat' first
    | with_reducible assumption
    | intro _
    | with_reducible apply keeps_ite
    | with_reducible apply keeps_setReg
    | with_reducible apply keeps_raise
    | with_reducible apply keeps_modHub
    | with_reducible apply keeps_forEach
    | with_reducible apply keeps_ite_snd
    | with_reducible apply keeps_foldl_snd
    | with_reducible apply keeps_foldl
    | split
    | dsimp -zeta only
    | with_reducible refine keeps_of_eq (by with_reducible assumption) ?_
    | with_reducible refine keeps_of_eq3 (by with_reducible assumption) ?_
    | dsimp only

theorem keeps_cleanPass {F : Kind → Prop} [May F .free] [May F .regs] [May F .ports] [May F .pairs] [May F .links] [May F .queues] [May F .hosts] [May F .lanes] [May F .laneOf] [May F .tbl] [May F .held] [May F .snr] [May F .erle] [May F .errs] [May F .sigma] [May F .noise] [May F .coef] [May F .seeds] [May F .banks] [May F .rows] [May F .tiles] [May F .diags] [May F .maps] [May F .traces] [May F .doms] [May F .cals] [May F .calRuns] [May F .running] [May F .kept] [May F .eyes] [May F .completions] [May F .claims] [May F .waiting] [May F .later] [May F .tests] [May F .mram] [May F .gbQueue] [May F .highs] [May F .core] [May F .hub] [May F .raised] [May F .out] {r s : State} (h : Keeps F r s) : Keeps F r (cleanPass s) := by
  unfold cleanPass
  repeat' first
    | with_reducible assumption
    | intro _
    | with_reducible apply keeps_ite
    | with_reducible apply keeps_recommitSegs
    | with_reducible apply keeps_inc
    | with_reducible apply keeps_setFld
    | with_reducible apply keeps_setReg
    | with_reducible apply keeps_modHub
    | with_reducible apply keeps_raise
    | with_reducible apply keeps_intBit
    | with_reducible apply keeps_checkAction
    | with_reducible apply keeps_ite_snd
    | with_reducible apply keeps_foldl_snd
    | with_reducible apply keeps_foldl
    | split
    | dsimp -zeta only
    | with_reducible refine keeps_of_eq (by with_reducible assumption) ?_
    | with_reducible refine keeps_of_eq3 (by with_reducible assumption) ?_
    | dsimp only

theorem keeps_execCfgWalkerPass {F : Kind → Prop} [May F .free] [May F .regs] [May F .ports] [May F .pairs] [May F .links] [May F .queues] [May F .hosts] [May F .lanes] [May F .laneOf] [May F .tbl] [May F .held] [May F .snr] [May F .erle] [May F .errs] [May F .sigma] [May F .noise] [May F .coef] [May F .seeds] [May F .banks] [May F .rows] [May F .tiles] [May F .diags] [May F .maps] [May F .traces] [May F .doms] [May F .cals] [May F .calRuns] [May F .running] [May F .kept] [May F .eyes] [May F .completions] [May F .claims] [May F .waiting] [May F .later] [May F .tests] [May F .mram] [May F .gbQueue] [May F .highs] [May F .core] [May F .hub] [May F .raised] [May F .out] {r s : State} {x0 : _} (h : Keeps F r s) : OutKeeps F r (execCfgWalkerPass x0 s) := by
  unfold execCfgWalkerPass
  repeat' first
    | with_reducible assumption
    | intro _
    | with_reducible apply outKeeps_next
    | with_reducible apply outKeeps_ite
    | with_reducible apply keeps_ite
    | with_reducible apply keeps_inc
    | with_reducible apply keeps_cleanPass
    | with_reducible apply keeps_ite_snd
    | with_reducible apply keeps_foldl_snd
    | with_reducible apply keeps_foldl
    | split
    | dsimp -zeta only
    | with_reducible refine keeps_of_eq (by with_reducible assumption) ?_
    | with_reducible refine keeps_of_eq3 (by with_reducible assumption) ?_
    | dsimp only

theorem keeps_execCfgCommit {F : Kind → Prop} [May F .hub] {r s : State} (h : Keeps F r s) : OutKeeps F r (execCfgCommit s) := by
  unfold execCfgCommit
  repeat' first
    | with_reducible assumption
    | intro _
    | with_reducible apply outKeeps_next
    | with_reducible apply outKeeps_ite
    | with_reducible apply keeps_ite
    | with_reducible apply keeps_startCommit
    | with_reducible apply keeps_ite_snd
    | with_reducible apply keeps_foldl_snd
    | with_reducible apply keeps_foldl
    | split
    | dsimp -zeta only
    | with_reducible refine keeps_of_eq (by with_reducible assumption) ?_
    | with_reducible refine keeps_of_eq3 (by with_reducible assumption) ?_
    | dsimp only

theorem keeps_execCommitPassDone {F : Kind → Prop} [May F .free] [May F .regs] [May F .ports] [May F .pairs] [May F .links] [May F .queues] [May F .banks] [May F .tiles] [May F .diags] [May F .doms] [May F .running] [May F .kept] [May F .completions] [May F .claims] [May F .waiting] [May F .later] [May F .tests] [May F .hub] [May F .raised] [May F .out] {r s : State} (h : Keeps F r s) : OutKeeps F r (execCommitPassDone s) := by
  unfold execCommitPassDone
  repeat' first
    | with_reducible assumption
    | intro _
    | with_reducible apply outKeeps_next
    | with_reducible apply outKeeps_ite
    | with_reducible apply keeps_ite
    | with_reducible apply keeps_finishCommit
    | with_reducible apply keeps_ite_snd
    | with_reducible apply keeps_foldl_snd
    | with_reducible apply keeps_foldl
    | split
    | dsimp -zeta only
    | with_reducible refine keeps_of_eq (by with_reducible assumption) ?_
    | with_reducible refine keeps_of_eq3 (by with_reducible assumption) ?_
    | dsimp only

theorem keeps_execCfgCheckEnableWrite {F : Kind → Prop} [May F .regs] [May F .hub] [May F .raised] {r s : State} {x0 x1 : _} (h : Keeps F r s) : OutKeeps F r (execCfgCheckEnableWrite x0 x1 s) := by
  unfold execCfgCheckEnableWrite
  repeat' first
    | with_reducible assumption
    | intro _
    | with_reducible apply outKeeps_next
    | with_reducible apply outKeeps_ite
    | with_reducible apply keeps_ite
    | with_reducible apply keeps_writeLockable
    | with_reducible apply keeps_ite_snd
    | with_reducible apply keeps_foldl_snd
    | with_reducible apply keeps_foldl
    | split
    | dsimp -zeta only
    | with_reducible refine keeps_of_eq (by with_reducible assumption) ?_
    | with_reducible refine keeps_of_eq3 (by with_reducible assumption) ?_
    | dsimp only

theorem keeps_execCfgFencedClear {F : Kind → Prop} [May F .free] [May F .regs] [May F .ports] [May F .pairs] [May F .links] [May F .queues] [May F .banks] [May F .tiles] [May F .diags] [May F .doms] [May F .completions] [May F .claims] [May F .waiting] [May F .later] [May F .tests] [May F .raised] {r s : State} (h : Keeps F r s) : OutKeeps F r (execCfgFencedClear s) := by
  unfold execCfgFencedClear
  repeat' first
    | with_reducible assumption
    | intro _
    | with_reducible apply outKeeps_next
    | with_reducible apply outKeeps_ite
    | with_reducible apply keeps_ite
    | with_reducible apply keeps_clearFenced
    | with_reducible apply keeps_ite_snd
    | with_reducible apply keeps_foldl_snd
    | with_reducible apply keeps_foldl
    | split
    | dsimp -zeta only
    | with_reducible refine keeps_of_eq (by with_reducible assumption) ?_
    | with_reducible refine keeps_of_eq3 (by with_reducible assumption) ?_
    | dsimp only

theorem keeps_execHubLockWrite {F : Kind → Prop} [May F .regs] [May F .raised] {r s : State} {x0 x1 : _} (h : Keeps F r s) : OutKeeps F r (execHubLockWrite x0 x1 s) := by
  unfold execHubLockWrite
  repeat' first
    | with_reducible assumption
    | intro _
    | with_reducible apply outKeeps_next
    | with_reducible apply outKeeps_ite
    | with_reducible apply keeps_ite
    | with_reducible apply keeps_setLock
    | with_reducible apply keeps_ite_snd
    | with_reducible apply keeps_foldl_snd
    | with_reducible apply keeps_foldl
    | split
    | dsimp -zeta only
    | with_reducible refine keeps_of_eq (by with_reducible assumption) ?_
    | with_reducible refine keeps_of_eq3 (by with_reducible assumption) ?_
    | dsimp only

theorem keeps_execUnlockKeyWrite {F : Kind → Prop} [May F .regs] [May F .hub] [May F .raised] {r s : State} {x0 x1 : _} (h : Keeps F r s) : OutKeeps F r (execUnlockKeyWrite x0 x1 s) := by
  unfold execUnlockKeyWrite
  repeat' first
    | with_reducible assumption
    | intro _
    | with_reducible apply outKeeps_next
    | with_reducible apply outKeeps_ite
    | with_reducible apply keeps_ite
    | with_reducible apply keeps_writeKey
    | with_reducible apply keeps_ite_snd
    | with_reducible apply keeps_foldl_snd
    | with_reducible apply keeps_foldl
    | split
    | dsimp -zeta only
    | with_reducible refine keeps_of_eq (by with_reducible assumption) ?_
    | with_reducible refine keeps_of_eq3 (by with_reducible assumption) ?_
    | dsimp only

theorem keeps_execUnlockWindowExpire {F : Kind → Prop} [May F .hub] [May F .raised] {r s : State} (h : Keeps F r s) : OutKeeps F r (execUnlockWindowExpire s) := by
  unfold execUnlockWindowExpire
  repeat' first
    | with_reducible assumption
    | intro _
    | with_reducible apply outKeeps_next
    | with_reducible apply outKeeps_ite
    | with_reducible apply keeps_ite
    | with_reducible apply keeps_expireWindow
    | with_reducible apply keeps_ite_snd
    | with_reducible apply keeps_foldl_snd
    | with_reducible apply keeps_foldl
    | split
    | dsimp -zeta only
    | with_reducible refine keeps_of_eq (by with_reducible assumption) ?_
    | with_reducible refine keeps_of_eq3 (by with_reducible assumption) ?_
    | dsimp only

theorem keeps_execWrapWrite {F : Kind → Prop} [May F .regs] [May F .raised] {r s : State} {x0 : _} (h : Keeps F r s) : OutKeeps F r (execWrapWrite x0 s) := by
  unfold execWrapWrite
  repeat' first
    | with_reducible assumption
    | intro _
    | with_reducible apply outKeeps_next
    | with_reducible apply outKeeps_ite
    | with_reducible apply keeps_ite
    | with_reducible apply keeps_writeWrap
    | with_reducible apply keeps_ite_snd
    | with_reducible apply keeps_foldl_snd
    | with_reducible apply keeps_foldl
    | split
    | dsimp -zeta only
    | with_reducible refine keeps_of_eq (by with_reducible assumption) ?_
    | with_reducible refine keeps_of_eq3 (by with_reducible assumption) ?_
    | dsimp only

end Sys2Proof.Machine
end

