-- ==== Sys2Proof/Laws/KeepsPorter.lean ====
section
/-! SUPPORT. What the operations of Machine/Porter.lean keep. -/
set_option linter.unusedTactic false
set_option linter.unreachableTactic false
set_option linter.tactic.unusedName false
namespace Sys2Proof.Machine

theorem keeps_writeRecord {F : Kind → Prop} [May F .jobs] [May F .records] {r s : State} {x0 x1 x2 : _} (h : Keeps F r s) : Keeps F r (writeRecord x0 x1 x2 s) := by
  unfold writeRecord
  repeat' first
    | with_reducible assumption
    | intro _
    | with_reducible apply keeps_ite
    | with_reducible apply keeps_ite_snd
    | with_reducible apply keeps_foldl_snd
    | with_reducible apply keeps_foldl
    | split
    | dsimp -zeta only
    | with_reducible refine keeps_of_eq (by with_reducible assumption) ?_
    | with_reducible refine keeps_of_eq3 (by with_reducible assumption) ?_
    | dsimp only
    | with_reducible apply keeps_upd_jobs_records

theorem keeps_countRun {F : Kind → Prop} [May F .jobs] [May F .records] {r s : State} {x0 x1 : _} (h : Keeps F r s) : Keeps F r (countRun x0 x1 s) := by
  unfold countRun
  repeat' first
    | with_reducible assumption
    | intro _
    | with_reducible apply keeps_ite
    | with_reducible apply keeps_writeRecord
    | with_reducible apply keeps_ite_snd
    | with_reducible apply keeps_foldl_snd
    | with_reducible apply keeps_foldl
    | split
    | dsimp -zeta only
    | with_reducible refine keeps_of_eq (by with_reducible assumption) ?_
    | with_reducible refine keeps_of_eq3 (by with_reducible assumption) ?_
    | dsimp only
    | with_reducible apply keeps_upd_jobs

theorem keeps_takeCompletion {F : Kind → Prop} [May F .jobs] [May F .records] {r s : State} {x0 : _} (h : Keeps F r s) : Keeps F r (takeCompletion x0 s) := by
  unfold takeCompletion
  repeat' first
    | with_reducible assumption
    | intro _
    | with_reducible apply keeps_ite
    | with_reducible apply keeps_countRun
    | with_reducible apply keeps_writeRecord
    | with_reducible apply keeps_ite_snd
    | with_reducible apply keeps_foldl_snd
    | with_reducible apply keeps_foldl
    | split
    | dsimp -zeta only
    | with_reducible refine keeps_of_eq (by with_reducible assumption) ?_
    | with_reducible refine keeps_of_eq3 (by with_reducible assumption) ?_
    | dsimp only

theorem keeps_execCompletionAccept {F : Kind → Prop} [May F .jobs] [May F .records] [May F .completions] [May F .hub] {r s : State} (h : Keeps F r s) : OutKeeps F r (execCompletionAccept s) := by
  unfold execCompletionAccept
  repeat' first
    | with_reducible assumption
    | intro _
    | with_reducible apply outKeeps_next
    | with_reducible apply outKeeps_ite
    | with_reducible apply keeps_ite
    | with_reducible apply keeps_modHub
    | with_reducible apply keeps_takeCompletion
    | with_reducible apply keeps_ite_snd
    | with_reducible apply keeps_foldl_snd
    | with_reducible apply keeps_foldl
    | split
    | dsimp -zeta only
    | with_reducible refine keeps_of_eq (by with_reducible assumption) ?_
    | with_reducible refine keeps_of_eq3 (by with_reducible assumption) ?_
    | dsimp only
    | with_reducible apply keeps_upd_completions

theorem keeps_haltPair {F : Kind → Prop} [May F .regs] [May F .hub] [May F .raised] {r s : State} {x0 x1 x2 : _} (h : Keeps F r s) : Keeps F r (haltPair x0 x1 x2 s) := by
  unfold haltPair
  repeat' first
    | with_reducible assumption
    | intro _
    | with_reducible apply keeps_ite
    | with_reducible apply keeps_setFld
    | with_reducible apply keeps_setReg
    | with_reducible apply keeps_modHub
    | with_reducible apply keeps_inc
    | with_reducible apply keeps_raise
    | with_reducible apply keeps_ite_snd
    | with_reducible apply keeps_foldl_snd
    | with_reducible apply keeps_foldl
    | split
    | dsimp -zeta only
    | with_reducible refine keeps_of_eq (by with_reducible assumption) ?_
    | with_reducible refine keeps_of_eq3 (by with_reducible assumption) ?_
    | dsimp only

theorem keeps_leaveHalt {F : Kind → Prop} [May F .regs] [May F .core] {r s : State} (h : Keeps F r s) : Keeps F r (leaveHalt s) := by
  unfold leaveHalt
  exact keeps_core (keeps_setReg (keeps_setFld (keeps_setFld (keeps_setFld (keeps_setFld h))))) (fun _ => rfl)

theorem keeps_catchUp {F : Kind → Prop} [May F .free] [May F .regs] [May F .ports] [May F .pairs] [May F .links] [May F .queues] [May F .hosts] [May F .lanes] [May F .laneOf] [May F .tbl] [May F .held] [May F .snr] [May F .erle] [May F .errs] [May F .sigma] [May F .noise] [May F .coef] [May F .seeds] [May F .banks] [May F .rows] [May F .tiles] [May F .diags] [May F .maps] [May F .traces] [May F .doms] [May F .cals] [May F .calRuns] [May F .running] [May F .kept] [May F .jobs] [May F .records] [May F .eyes] [May F .completions] [May F .claims] [May F .waiting] [May F .later] [May F .tests] [May F .mram] [May F .gbQueue] [May F .highs] [May F .core] [May F .hub] [May F .raised] [May F .out] {r s : State} (h : Keeps F r s) : Keeps F r (catchUp s) := by
  unfold catchUp
  repeat' first
    | with_reducible assumption
    | intro _
    | with_reducible apply keeps_ite
    | with_reducible apply keeps_takeCompletion
    | with_reducible apply keeps_modHub
    | with_reducible apply keeps_reload
    | with_reducible apply keeps_sweepDue
    | with_reducible apply keeps_forEach
    | with_reducible apply keeps_ite_snd
    | with_reducible apply keeps_foldl_snd
    | with_reducible apply keeps_foldl
    | split
    | dsimp -zeta only
    | with_reducible refine keeps_of_eq (by with_reducible assumption) ?_
    | with_reducible refine keeps_of_eq3 (by with_reducible assumption) ?_
    | dsimp only

theorem keeps_halt {F : Kind → Prop} [May F .regs] [May F .hub] [May F .raised] {r s : State} {x0 : _} (h : Keeps F r s) : Keeps F r (halt x0 s) := by
  unfold halt
  repeat' first
    | with_reducible assumption
    | intro _
    | with_reducible apply keeps_ite
    | with_reducible apply keeps_haltPair
    | with_reducible apply keeps_ite_snd
    | with_reducible apply keeps_foldl_snd
    | with_reducible apply keeps_foldl
    | split
    | dsimp -zeta only
    | with_reducible refine keeps_of_eq (by with_reducible assumption) ?_
    | with_reducible refine keeps_of_eq3 (by with_reducible assumption) ?_
    | dsimp only

theorem keeps_resume {F : Kind → Prop} [May F .free] [May F .regs] [May F .ports] [May F .pairs] [May F .links] [May F .queues] [May F .hosts] [May F .lanes] [May F .laneOf] [May F .tbl] [May F .held] [May F .snr] [May F .erle] [May F .errs] [May F .sigma] [May F .noise] [May F .coef] [May F .seeds] [May F .banks] [May F .rows] [May F .tiles] [May F .diags] [May F .maps] [May F .traces] [May F .doms] [May F .cals] [May F .calRuns] [May F .running] [May F .kept] [May F .jobs] [May F .records] [May F .eyes] [May F .completions] [May F .claims] [May F .waiting] [May F .later] [May F .tests] [May F .mram] [May F .gbQueue] [May F .highs] [May F .core] [May F .hub] [May F .raised] [May F .out] {r s : State} (h : Keeps F r s) : Keeps F r (resume s) := by
  unfold resume
  repeat' first
    | with_reducible assumption
    | intro _
    | with_reducible apply keeps_ite
    | with_reducible apply keeps_catchUp
    | with_reducible apply keeps_leaveHalt
    | with_reducible apply keeps_raise
    | with_reducible apply keeps_ite_snd
    | with_reducible apply keeps_foldl_snd
    | with_reducible apply keeps_foldl
    | split
    | dsimp -zeta only
    | with_reducible refine keeps_of_eq (by with_reducible assumption) ?_
    | with_reducible refine keeps_of_eq3 (by with_reducible assumption) ?_
    | dsimp only

theorem keeps_stepPair {F : Kind → Prop} [May F .regs] [May F .core] [May F .hub] [May F .raised] {r s : State} {pc : _} (h : Keeps F r s) : Keeps F r (stepPair pc s) := by
  unfold stepPair
  exact keeps_ite h (keeps_haltPair (keeps_core h (fun _ => rfl)))

theorem keeps_execPorterHalt {F : Kind → Prop} [May F .regs] [May F .hub] [May F .raised] {r s : State} {x0 : _} (h : Keeps F r s) : OutKeeps F r (execPorterHalt x0 s) := by
  unfold execPorterHalt
  repeat' first
    | with_reducible assumption
    | intro _
    | with_reducible apply outKeeps_next
    | with_reducible apply outKeeps_ite
    | with_reducible apply keeps_ite
    | with_reducible apply keeps_halt
    | with_reducible apply keeps_ite_snd
    | with_reducible apply keeps_foldl_snd
    | with_reducible apply keeps_foldl
    | split
    | dsimp -zeta only
    | with_reducible refine keeps_of_eq (by with_reducible assumption) ?_
    | with_reducible refine keeps_of_eq3 (by with_reducible assumption) ?_
    | dsimp only

theorem keeps_execPorterBreakpoint {F : Kind → Prop} [May F .regs] [May F .hub] [May F .raised] {r s : State} {x0 x1 : _} (h : Keeps F r s) : OutKeeps F r (execPorterBreakpoint x0 x1 s) := by
  unfold execPorterBreakpoint
  repeat' first
    | with_reducible assumption
    | intro _
    | with_reducible apply outKeeps_next
    | with_reducible apply outKeeps_ite
    | with_reducible apply keeps_ite
    | with_reducible apply keeps_haltPair
    | with_reducible apply keeps_ite_snd
    | with_reducible apply keeps_foldl_snd
    | with_reducible apply keeps_foldl
    | split
    | dsimp -zeta only
    | with_reducible refine keeps_of_eq (by with_reducible assumption) ?_
    | with_reducible refine keeps_of_eq3 (by with_reducible assumption) ?_
    | dsimp only

theorem keeps_execPorterResume {F : Kind → Prop} [May F .free] [May F .regs] [May F .ports] [May F .pairs] [May F .links] [May F .queues] [May F .hosts] [May F .lanes] [May F .laneOf] [May F .tbl] [May F .held] [May F .snr] [May F .erle] [May F .errs] [May F .sigma] [May F .noise] [May F .coef] [May F .seeds] [May F .banks] [May F .rows] [May F .tiles] [May F .diags] [May F .maps] [May F .traces] [May F .doms] [May F .cals] [May F .calRuns] [May F .running] [May F .kept] [May F .jobs] [May F .records] [May F .eyes] [May F .completions] [May F .claims] [May F .waiting] [May F .later] [May F .tests] [May F .mram] [May F .gbQueue] [May F .highs] [May F .core] [May F .hub] [May F .raised] [May F .out] {r s : State} (h : Keeps F r s) : OutKeeps F r (execPorterResume s) := by
  unfold execPorterResume
  repeat' first
    | with_reducible assumption
    | intro _
    | with_reducible apply outKeeps_next
    | with_reducible apply outKeeps_ite
    | with_reducible apply keeps_ite
    | with_reducible apply keeps_resume
    | with_reducible apply keeps_ite_snd
    | with_reducible apply keeps_foldl_snd
    | with_reducible apply keeps_foldl
    | split
    | dsimp -zeta only
    | with_reducible refine keeps_of_eq (by with_reducible assumption) ?_
    | with_reducible refine keeps_of_eq3 (by with_reducible assumption) ?_
    | dsimp only

theorem keeps_execPorterStep {F : Kind → Prop} [May F .regs] [May F .core] [May F .hub] [May F .raised] {r s : State} {x0 : _} (h : Keeps F r s) : OutKeeps F r (execPorterStep x0 s) := by
  unfold execPorterStep
  repeat' first
    | with_reducible assumption
    | intro _
    | with_reducible apply outKeeps_next
    | with_reducible apply outKeeps_ite
    | with_reducible apply keeps_ite
    | with_reducible apply keeps_stepPair
    | with_reducible apply keeps_ite_snd
    | with_reducible apply keeps_foldl_snd
    | with_reducible apply keeps_foldl
    | split
    | dsimp -zeta only
    | with_reducible refine keeps_of_eq (by with_reducible assumption) ?_
    | with_reducible refine keeps_of_eq3 (by with_reducible assumption) ?_
    | dsimp only

theorem keeps_execDbgCoreDataAccess {F : Kind → Prop} [May F .free] [May F .regs] [May F .core] {r s : State} {x0 : _} (h : Keeps F r s) : OutKeeps F r (execDbgCoreDataAccess x0 s) := by
  unfold execDbgCoreDataAccess
  repeat' first
    | with_reducible assumption
    | intro _
    | with_reducible apply outKeeps_next
    | with_reducible apply outKeeps_ite
    | with_reducible apply keeps_ite
    | with_reducible apply keeps_readCore
    | with_reducible apply keeps_writeCore
    | with_reducible apply keeps_ite_snd
    | with_reducible apply keeps_foldl_snd
    | with_reducible apply keeps_foldl
    | split
    | dsimp -zeta only
    | with_reducible refine keeps_of_eq (by with_reducible assumption) ?_
    | with_reducible refine keeps_of_eq3 (by with_reducible assumption) ?_
    | dsimp only

theorem keeps_writePorterCtrl {F : Kind → Prop} [May F .free] [May F .regs] [May F .ports] [May F .pairs] [May F .links] [May F .queues] [May F .hosts] [May F .lanes] [May F .laneOf] [May F .tbl] [May F .held] [May F .snr] [May F .erle] [May F .errs] [May F .sigma] [May F .noise] [May F .coef] [May F .seeds] [May F .banks] [May F .rows] [May F .tiles] [May F .diags] [May F .maps] [May F .traces] [May F .doms] [May F .cals] [May F .calRuns] [May F .running] [May F .kept] [May F .jobs] [May F .records] [May F .eyes] [May F .completions] [May F .claims] [May F .waiting] [May F .later] [May F .tests] [May F .mram] [May F .gbQueue] [May F .highs] [May F .core] [May F .hub] [May F .raised] [May F .out] {r s : State} {x0 : _} (h : Keeps F r s) : Keeps F r (writePorterCtrl x0 s) := by
  unfold writePorterCtrl
  repeat' first
    | with_reducible assumption
    | intro _
    | with_reducible apply keeps_ite
    | with_reducible apply keeps_draw
    | with_reducible apply keeps_halt
    | with_reducible apply keeps_resume
    | with_reducible apply keeps_stepPair
    | with_reducible apply keeps_ite_snd
    | with_reducible apply keeps_foldl_snd
    | with_reducible apply keeps_foldl
    | split
    | dsimp -zeta only
    | with_reducible refine keeps_of_eq (by with_reducible assumption) ?_
    | with_reducible refine keeps_of_eq3 (by with_reducible assumption) ?_
    | dsimp only

theorem keeps_takeover {F : Kind → Prop} [May F .free] [May F .regs] [May F .ports] [May F .pairs] [May F .links] [May F .queues] [May F .hosts] [May F .lanes] [May F .laneOf] [May F .tbl] [May F .held] [May F .snr] [May F .erle] [May F .errs] [May F .sigma] [May F .noise] [May F .coef] [May F .seeds] [May F .banks] [May F .rows] [May F .tiles] [May F .diags] [May F .maps] [May F .traces] [May F .doms] [May F .cals] [May F .calRuns] [May F .running] [May F .kept] [May F .jobs] [May F .records] [May F .eyes] [May F .completions] [May F .claims] [May F .waiting] [May F .later] [May F .tests] [May F .mram] [May F .gbQueue] [May F .highs] [May F .core] [May F .hub] [May F .raised] [May F .out] [MayReset F] {r s : State} {x0 : _} (h : Keeps F r s) : Keeps F r (takeover x0 s) := by
  unfold takeover
  repeat' first
    | with_reducible assumption
    | intro _
    | with_reducible apply keeps_ite
    | with_reducible apply keeps_deviceReset
    | with_reducible apply keeps_raise
    | with_reducible apply keeps_setFld
    | with_reducible apply keeps_intBit
    | with_reducible apply keeps_inc
    | with_reducible apply keeps_endTest
    | with_reducible apply keeps_askInternal
    | with_reducible apply keeps_catchUp
    | with_reducible apply keeps_leaveHalt
    | with_reducible apply keeps_ite_snd
    | with_reducible apply keeps_foldl_snd
    | with_reducible apply keeps_foldl
    | split
    | dsimp -zeta only
    | with_reducible refine keeps_of_eq (by with_reducible assumption) ?_
    | with_reducible refine keeps_of_eq3 (by with_reducible assumption) ?_
    | dsimp only

theorem keeps_execPorterTakeover {F : Kind → Prop} [May F .free] [May F .regs] [May F .ports] [May F .pairs] [May F .links] [May F .queues] [May F .hosts] [May F .lanes] [May F .laneOf] [May F .tbl] [May F .held] [May F .snr] [May F .erle] [May F .errs] [May F .sigma] [May F .noise] [May F .coef] [May F .seeds] [May F .banks] [May F .rows] [May F .tiles] [May F .diags] [May F .maps] [May F .traces] [May F .doms] [May F .cals] [May F .calRuns] [May F .running] [May F .kept] [May F .jobs] [May F .records] [May F .eyes] [May F .completions] [May F .claims] [May F .waiting] [May F .later] [May F .tests] [May F .mram] [May F .gbQueue] [May F .highs] [May F .core] [May F .hub] [May F .raised] [May F .out] [MayReset F] {r s : State} {x0 : _} (h : Keeps F r s) : OutKeeps F r (execPorterTakeover x0 s) := by
  unfold execPorterTakeover
  repeat' first
    | with_reducible assumption
    | intro _
    | with_reducible apply outKeeps_next
    | with_reducible apply outKeeps_ite
    | with_reducible apply keeps_ite
    | with_reducible apply keeps_takeover
    | with_reducible apply keeps_ite_snd
    | with_reducible apply keeps_foldl_snd
    | with_reducible apply keeps_foldl
    | split
    | dsimp -zeta only
    | with_reducible refine keeps_of_eq (by with_reducible assumption) ?_
    | with_reducible refine keeps_of_eq3 (by with_reducible assumption) ?_
    | dsimp only

end Sys2Proof.Machine
end

