-- ==== Sys2Proof/Laws/KeepsAccess.lean ====
section
/-! SUPPORT. What the operations of Machine/Access.lean keep. -/
set_option linter.unusedTactic false
set_option linter.unreachableTactic false
set_option linter.tactic.unusedName false
namespace Sys2Proof.Machine

theorem keeps_busWrite {F : Kind → Prop} [May F .free] [May F .regs] [May F .ports] [May F .pairs] [May F .links] [May F .queues] [May F .hosts] [May F .lanes] [May F .laneOf] [May F .tbl] [May F .held] [May F .snr] [May F .erle] [May F .errs] [May F .sigma] [May F .noise] [May F .coef] [May F .seeds] [May F .banks] [May F .rows] [May F .tiles] [May F .diags] [May F .maps] [May F .traces] [May F .doms] [May F .cals] [May F .calRuns] [May F .running] [May F .kept] [May F .jobs] [May F .records] [May F .eyes] [May F .completions] [May F .claims] [May F .waiting] [May F .later] [May F .tests] [May F .mram] [May F .gbQueue] [May F .highs] [May F .core] [May F .hub] [May F .raised] [May F .out] {r s : State} {x0 x1 x2 x3 : _} (h : Keeps F r s) : Keeps F r (busWrite x0 x1 x2 x3 s).2 := by
  show KeepsP F r _
  unfold busWrite
  repeat' first
    | with_reducible assumption
    | intro _
    | with_reducible apply keepsP_mk
    | with_reducible apply keepsP_ite
    | with_reducible apply keeps_ite
    | with_reducible apply keeps_writePorterCtrl
    | with_reducible apply keeps_writeReg
    | with_reducible apply keeps_ite_snd
    | with_reducible apply keeps_foldl_snd
    | with_reducible apply keeps_foldl
    | split
    | dsimp -zeta only
    | with_reducible refine keeps_of_eq (by with_reducible assumption) ?_
    | with_reducible refine keeps_of_eq3 (by with_reducible assumption) ?_
    | dsimp only

theorem keeps_endWith {F : Kind → Prop} [May F .regs] [May F .hub] [May F .out] {r s : State} {x0 x1 x2 : _} (h : Keeps F r s) : Keeps F r (endWith x0 x1 x2 s) := by
  unfold endWith
  repeat' first
    | with_reducible assumption
    | intro _
    | with_reducible apply keeps_ite
    | with_reducible apply keeps_inc
    | with_reducible apply keeps_modHub
    | with_reducible apply keeps_emit
    | with_reducible apply keeps_ite_snd
    | with_reducible apply keeps_foldl_snd
    | with_reducible apply keeps_foldl
    | split
    | dsimp -zeta only
    | with_reducible refine keeps_of_eq (by with_reducible assumption) ?_
    | with_reducible refine keeps_of_eq3 (by with_reducible assumption) ?_
    | dsimp only

theorem keeps_perform {F : Kind → Prop} [May F .free] [May F .regs] [May F .ports] [May F .pairs] [May F .links] [May F .queues] [May F .hosts] [May F .lanes] [May F .laneOf] [May F .tbl] [May F .held] [May F .snr] [May F .erle] [May F .errs] [May F .sigma] [May F .noise] [May F .coef] [May F .seeds] [May F .banks] [May F .rows] [May F .tiles] [May F .diags] [May F .maps] [May F .traces] [May F .doms] [May F .cals] [May F .calRuns] [May F .running] [May F .kept] [May F .jobs] [May F .records] [May F .eyes] [May F .completions] [May F .claims] [May F .waiting] [May F .later] [May F .tests] [May F .mram] [May F .gbQueue] [May F .shadows] [May F .highs] [May F .core] [May F .hub] [May F .raised] [May F .out] {r s : State} {x0 x1 : _} (h : Keeps F r s) : Keeps F r (perform x0 x1 s) := by
  unfold perform
  repeat' first
    | with_reducible assumption
    | intro _
    | with_reducible apply keeps_ite
    | with_reducible apply keeps_busRead
    | with_reducible apply keeps_endWith
    | with_reducible apply keeps_busWrite
    | with_reducible apply keeps_ite_snd
    | with_reducible apply keeps_foldl_snd
    | with_reducible apply keeps_foldl
    | split
    | dsimp -zeta only
    | with_reducible refine keeps_of_eq (by with_reducible assumption) ?_
    | with_reducible refine keeps_of_eq3 (by with_reducible assumption) ?_
    | dsimp only

theorem keeps_endAccess {F : Kind → Prop} [May F .free] [May F .regs] [May F .ports] [May F .pairs] [May F .links] [May F .queues] [May F .hosts] [May F .lanes] [May F .laneOf] [May F .tbl] [May F .held] [May F .snr] [May F .erle] [May F .errs] [May F .sigma] [May F .noise] [May F .coef] [May F .seeds] [May F .banks] [May F .rows] [May F .tiles] [May F .diags] [May F .maps] [May F .traces] [May F .doms] [May F .cals] [May F .calRuns] [May F .running] [May F .kept] [May F .jobs] [May F .records] [May F .eyes] [May F .completions] [May F .claims] [May F .waiting] [May F .later] [May F .tests] [May F .mram] [May F .gbQueue] [May F .shadows] [May F .highs] [May F .core] [May F .hub] [May F .raised] [May F .out] {r s : State} {x0 x1 : _} (h : Keeps F r s) : Keeps F r (endAccess x0 x1 s) := by
  unfold endAccess
  repeat' first
    | with_reducible assumption
    | intro _
    | with_reducible apply keeps_ite
    | with_reducible apply keeps_endWith
    | with_reducible apply keeps_setReg
    | with_reducible apply keeps_setFld
    | with_reducible apply keeps_perform
    | with_reducible apply keeps_ite_snd
    | with_reducible apply keeps_foldl_snd
    | with_reducible apply keeps_foldl
    | split
    | dsimp -zeta only
    | with_reducible refine keeps_of_eq (by with_reducible assumption) ?_
    | with_reducible refine keeps_of_eq3 (by with_reducible assumption) ?_
    | dsimp only

theorem keeps_drainWakes {F : Kind → Prop} [May F .free] [May F .regs] [May F .ports] [May F .pairs] [May F .links] [May F .queues] [May F .hosts] [May F .lanes] [May F .laneOf] [May F .tbl] [May F .held] [May F .snr] [May F .erle] [May F .errs] [May F .sigma] [May F .noise] [May F .coef] [May F .seeds] [May F .banks] [May F .rows] [May F .tiles] [May F .diags] [May F .maps] [May F .traces] [May F .doms] [May F .cals] [May F .calRuns] [May F .running] [May F .kept] [May F .jobs] [May F .records] [May F .eyes] [May F .completions] [May F .claims] [May F .waiting] [May F .later] [May F .tests] [May F .mram] [May F .gbQueue] [May F .shadows] [May F .highs] [May F .core] [May F .hub] [May F .raised] [May F .out] {r s : State} {left xs : _} (h : Keeps F r s) : Keeps F r (drainWakes left xs s) := by
  induction xs generalizing left s with
  | nil => exact keeps_modHub h
  | cons x xs ih =>
    unfold drainWakes
    exact keeps_ite (ih h) (ih (keeps_endAccess h))

theorem keeps_settleWakes {F : Kind → Prop} [May F .free] [May F .regs] [May F .ports] [May F .pairs] [May F .links] [May F .queues] [May F .hosts] [May F .lanes] [May F .laneOf] [May F .tbl] [May F .held] [May F .snr] [May F .erle] [May F .errs] [May F .sigma] [May F .noise] [May F .coef] [May F .seeds] [May F .banks] [May F .rows] [May F .tiles] [May F .diags] [May F .maps] [May F .traces] [May F .doms] [May F .cals] [May F .calRuns] [May F .running] [May F .kept] [May F .jobs] [May F .records] [May F .eyes] [May F .completions] [May F .claims] [May F .waiting] [May F .later] [May F .tests] [May F .mram] [May F .gbQueue] [May F .shadows] [May F .highs] [May F .core] [May F .hub] [May F .raised] [May F .out] {r s : State} (h : Keeps F r s) : Keeps F r (settleWakes s) := by
  unfold settleWakes
  repeat' first
    | with_reducible assumption
    | intro _
    | with_reducible apply keeps_ite
    | with_reducible apply keeps_startWakes
    | with_reducible apply keeps_drainWakes
    | with_reducible apply keeps_ite_snd
    | with_reducible apply keeps_foldl_snd
    | with_reducible apply keeps_foldl
    | split
    | dsimp -zeta only
    | with_reducible refine keeps_of_eq (by with_reducible assumption) ?_
    | with_reducible refine keeps_of_eq3 (by with_reducible assumption) ?_
    | dsimp only

theorem keeps_access {F : Kind → Prop} [May F .free] [May F .regs] [May F .ports] [May F .pairs] [May F .links] [May F .queues] [May F .hosts] [May F .lanes] [May F .laneOf] [May F .tbl] [May F .held] [May F .snr] [May F .erle] [May F .errs] [May F .sigma] [May F .noise] [May F .coef] [May F .seeds] [May F .banks] [May F .rows] [May F .tiles] [May F .diags] [May F .maps] [May F .traces] [May F .doms] [May F .cals] [May F .calRuns] [May F .running] [May F .kept] [May F .jobs] [May F .records] [May F .eyes] [May F .completions] [May F .claims] [May F .waiting] [May F .later] [May F .tests] [May F .mram] [May F .gbQueue] [May F .shadows] [May F .highs] [May F .core] [May F .hub] [May F .raised] [May F .out] {r s : State} {x0 x1 : _} (h : Keeps F r s) : Keeps F r (access x0 x1 s) := by
  unfold access
  repeat' first
    | with_reducible assumption
    | intro _
    | with_reducible apply keeps_ite
    | with_reducible apply keeps_modHub
    | with_reducible apply keeps_startWakes
    | with_reducible apply keeps_endAccess
    | with_reducible apply keeps_ite_snd
    | with_reducible apply keeps_foldl_snd
    | with_reducible apply keeps_foldl
    | split
    | dsimp -zeta only
    | with_reducible refine keeps_of_eq (by with_reducible assumption) ?_
    | with_reducible refine keeps_of_eq3 (by with_reducible assumption) ?_
    | dsimp only

theorem keeps_dapOverrun {F : Kind → Prop} [May F .regs] {r s : State} (h : Keeps F r s) : Keeps F r (dapOverrun s) := by
  unfold dapOverrun
  repeat' first
    | with_reducible assumption
    | intro _
    | with_reducible apply keeps_ite
    | with_reducible apply keeps_setFld
    | with_reducible apply keeps_ite_snd
    | with_reducible apply keeps_foldl_snd
    | with_reducible apply keeps_foldl
    | split
    | dsimp -zeta only
    | with_reducible refine keeps_of_eq (by with_reducible assumption) ?_
    | with_reducible refine keeps_of_eq3 (by with_reducible assumption) ?_
    | dsimp only

theorem keeps_issue {F : Kind → Prop} [May F .free] [May F .regs] [May F .ports] [May F .pairs] [May F .links] [May F .queues] [May F .hosts] [May F .lanes] [May F .laneOf] [May F .tbl] [May F .held] [May F .snr] [May F .erle] [May F .errs] [May F .sigma] [May F .noise] [May F .coef] [May F .seeds] [May F .banks] [May F .rows] [May F .tiles] [May F .diags] [May F .maps] [May F .traces] [May F .doms] [May F .cals] [May F .calRuns] [May F .running] [May F .kept] [May F .jobs] [May F .records] [May F .eyes] [May F .completions] [May F .claims] [May F .waiting] [May F .later] [May F .tests] [May F .mram] [May F .gbQueue] [May F .shadows] [May F .highs] [May F .core] [May F .hub] [May F .raised] [May F .out] {r s : State} {x0 x1 : _} (h : Keeps F r s) : Keeps F r (issue x0 x1 s) := by
  unfold issue
  repeat' first
    | with_reducible assumption
    | intro _
    | with_reducible apply keeps_ite
    | with_reducible apply keeps_dapOverrun
    | with_reducible apply keeps_access
    | with_reducible apply keeps_ite_snd
    | with_reducible apply keeps_foldl_snd
    | with_reducible apply keeps_foldl
    | split
    | dsimp -zeta only
    | with_reducible refine keeps_of_eq (by with_reducible assumption) ?_
    | with_reducible refine keeps_of_eq3 (by with_reducible assumption) ?_
    | dsimp only

theorem keeps_execRegisterWrite {F : Kind → Prop} [May F .free] [May F .regs] [May F .ports] [May F .pairs] [May F .links] [May F .queues] [May F .hosts] [May F .lanes] [May F .laneOf] [May F .tbl] [May F .held] [May F .snr] [May F .erle] [May F .errs] [May F .sigma] [May F .noise] [May F .coef] [May F .seeds] [May F .banks] [May F .rows] [May F .tiles] [May F .diags] [May F .maps] [May F .traces] [May F .doms] [May F .cals] [May F .calRuns] [May F .running] [May F .kept] [May F .jobs] [May F .records] [May F .eyes] [May F .completions] [May F .claims] [May F .waiting] [May F .later] [May F .tests] [May F .mram] [May F .gbQueue] [May F .shadows] [May F .highs] [May F .core] [May F .hub] [May F .raised] [May F .out] {r s : State} {x0 x1 : _} (h : Keeps F r s) : OutKeeps F r (execRegisterWrite x0 x1 s) := by
  unfold execRegisterWrite
  repeat' first
    | with_reducible assumption
    | intro _
    | with_reducible apply outKeeps_next
    | with_reducible apply outKeeps_ite
    | with_reducible apply keeps_ite
    | with_reducible apply keeps_issue
    | with_reducible apply keeps_ite_snd
    | with_reducible apply keeps_foldl_snd
    | with_reducible apply keeps_foldl
    | split
    | dsimp -zeta only
    | with_reducible refine keeps_of_eq (by with_reducible assumption) ?_
    | with_reducible refine keeps_of_eq3 (by with_reducible assumption) ?_
    | dsimp only

theorem keeps_execRcRead {F : Kind → Prop} [May F .free] [May F .regs] [May F .ports] [May F .pairs] [May F .links] [May F .queues] [May F .hosts] [May F .lanes] [May F .laneOf] [May F .tbl] [May F .held] [May F .snr] [May F .erle] [May F .errs] [May F .sigma] [May F .noise] [May F .coef] [May F .seeds] [May F .banks] [May F .rows] [May F .tiles] [May F .diags] [May F .maps] [May F .traces] [May F .doms] [May F .cals] [May F .calRuns] [May F .running] [May F .kept] [May F .jobs] [May F .records] [May F .eyes] [May F .completions] [May F .claims] [May F .waiting] [May F .later] [May F .tests] [May F .mram] [May F .gbQueue] [May F .shadows] [May F .highs] [May F .core] [May F .hub] [May F .raised] [May F .out] {r s : State} {x0 x1 : _} (h : Keeps F r s) : OutKeeps F r (execRcRead x0 x1 s) := by
  unfold execRcRead
  repeat' first
    | with_reducible assumption
    | intro _
    | with_reducible apply outKeeps_next
    | with_reducible apply outKeeps_ite
    | with_reducible apply keeps_ite
    | with_reducible apply keeps_issue
    | with_reducible apply keeps_ite_snd
    | with_reducible apply keeps_foldl_snd
    | with_reducible apply keeps_foldl
    | split
    | dsimp -zeta only
    | with_reducible refine keeps_of_eq (by with_reducible assumption) ?_
    | with_reducible refine keeps_of_eq3 (by with_reducible assumption) ?_
    | dsimp only

theorem keeps_execCounterLowRead {F : Kind → Prop} [May F .free] [May F .regs] [May F .ports] [May F .pairs] [May F .links] [May F .queues] [May F .hosts] [May F .lanes] [May F .laneOf] [May F .tbl] [May F .held] [May F .snr] [May F .erle] [May F .errs] [May F .sigma] [May F .noise] [May F .coef] [May F .seeds] [May F .banks] [May F .rows] [May F .tiles] [May F .diags] [May F .maps] [May F .traces] [May F .doms] [May F .cals] [May F .calRuns] [May F .running] [May F .kept] [May F .jobs] [May F .records] [May F .eyes] [May F .completions] [May F .claims] [May F .waiting] [May F .later] [May F .tests] [May F .mram] [May F .gbQueue] [May F .shadows] [May F .highs] [May F .core] [May F .hub] [May F .raised] [May F .out] {r s : State} {x0 : _} (h : Keeps F r s) : OutKeeps F r (execCounterLowRead x0 s) := by
  unfold execCounterLowRead
  repeat' first
    | with_reducible assumption
    | intro _
    | with_reducible apply outKeeps_next
    | with_reducible apply outKeeps_ite
    | with_reducible apply keeps_ite
    | with_reducible apply keeps_issue
    | with_reducible apply keeps_ite_snd
    | with_reducible apply keeps_foldl_snd
    | with_reducible apply keeps_foldl
    | split
    | dsimp -zeta only
    | with_reducible refine keeps_of_eq (by with_reducible assumption) ?_
    | with_reducible refine keeps_of_eq3 (by with_reducible assumption) ?_
    | dsimp only

theorem keeps_execCounterHighWrite {F : Kind → Prop} [May F .free] [May F .regs] [May F .ports] [May F .pairs] [May F .links] [May F .queues] [May F .hosts] [May F .lanes] [May F .laneOf] [May F .tbl] [May F .held] [May F .snr] [May F .erle] [May F .errs] [May F .sigma] [May F .noise] [May F .coef] [May F .seeds] [May F .banks] [May F .rows] [May F .tiles] [May F .diags] [May F .maps] [May F .traces] [May F .doms] [May F .cals] [May F .calRuns] [May F .running] [May F .kept] [May F .jobs] [May F .records] [May F .eyes] [May F .completions] [May F .claims] [May F .waiting] [May F .later] [May F .tests] [May F .mram] [May F .gbQueue] [May F .shadows] [May F .highs] [May F .core] [May F .hub] [May F .raised] [May F .out] {r s : State} {x0 : _} (h : Keeps F r s) : OutKeeps F r (execCounterHighWrite x0 s) := by
  unfold execCounterHighWrite
  repeat' first
    | with_reducible assumption
    | intro _
    | with_reducible apply outKeeps_next
    | with_reducible apply outKeeps_ite
    | with_reducible apply keeps_ite
    | with_reducible apply keeps_issue
    | with_reducible apply keeps_ite_snd
    | with_reducible apply keeps_foldl_snd
    | with_reducible apply keeps_foldl
    | split
    | dsimp -zeta only
    | with_reducible refine keeps_of_eq (by with_reducible assumption) ?_
    | with_reducible refine keeps_of_eq3 (by with_reducible assumption) ?_
    | dsimp only

theorem keeps_execCounterLowWrite {F : Kind → Prop} [May F .free] [May F .regs] [May F .ports] [May F .pairs] [May F .links] [May F .queues] [May F .hosts] [May F .lanes] [May F .laneOf] [May F .tbl] [May F .held] [May F .snr] [May F .erle] [May F .errs] [May F .sigma] [May F .noise] [May F .coef] [May F .seeds] [May F .banks] [May F .rows] [May F .tiles] [May F .diags] [May F .maps] [May F .traces] [May F .doms] [May F .cals] [May F .calRuns] [May F .running] [May F .kept] [May F .jobs] [May F .records] [May F .eyes] [May F .completions] [May F .claims] [May F .waiting] [May F .later] [May F .tests] [May F .mram] [May F .gbQueue] [May F .shadows] [May F .highs] [May F .core] [May F .hub] [May F .raised] [May F .out] {r s : State} {x0 x1 : _} (h : Keeps F r s) : OutKeeps F r (execCounterLowWrite x0 x1 s) := by
  unfold execCounterLowWrite
  repeat' first
    | with_reducible assumption
    | intro _
    | with_reducible apply outKeeps_next
    | with_reducible apply outKeeps_ite
    | with_reducible apply keeps_ite
    | with_reducible apply keeps_issue
    | with_reducible apply keeps_ite_snd
    | with_reducible apply keeps_foldl_snd
    | with_reducible apply keeps_foldl
    | split
    | dsimp -zeta only
    | with_reducible refine keeps_of_eq (by with_reducible assumption) ?_
    | with_reducible refine keeps_of_eq3 (by with_reducible assumption) ?_
    | dsimp only

theorem keeps_execWindowDataAccess {F : Kind → Prop} [May F .free] [May F .regs] [May F .ports] [May F .pairs] [May F .links] [May F .queues] [May F .hosts] [May F .lanes] [May F .laneOf] [May F .tbl] [May F .held] [May F .snr] [May F .erle] [May F .errs] [May F .sigma] [May F .noise] [May F .coef] [May F .seeds] [May F .banks] [May F .rows] [May F .tiles] [May F .diags] [May F .maps] [May F .traces] [May F .doms] [May F .cals] [May F .calRuns] [May F .running] [May F .kept] [May F .jobs] [May F .records] [May F .eyes] [May F .completions] [May F .claims] [May F .waiting] [May F .later] [May F .tests] [May F .mram] [May F .gbQueue] [May F .shadows] [May F .highs] [May F .core] [May F .hub] [May F .raised] [May F .out] {r s : State} {x0 : _} (h : Keeps F r s) : OutKeeps F r (execWindowDataAccess x0 s) := by
  unfold execWindowDataAccess
  repeat' first
    | with_reducible assumption
    | intro _
    | with_reducible apply outKeeps_next
    | with_reducible apply outKeeps_ite
    | with_reducible apply keeps_ite
    | with_reducible apply keeps_issue
    | with_reducible apply keeps_ite_snd
    | with_reducible apply keeps_foldl_snd
    | with_reducible apply keeps_foldl
    | split
    | dsimp -zeta only
    | with_reducible refine keeps_of_eq (by with_reducible assumption) ?_
    | with_reducible refine keeps_of_eq3 (by with_reducible assumption) ?_
    | dsimp only

theorem keeps_execDomainWakeOnAccess {F : Kind → Prop} [May F .free] [May F .regs] [May F .ports] [May F .pairs] [May F .links] [May F .queues] [May F .hosts] [May F .lanes] [May F .laneOf] [May F .tbl] [May F .held] [May F .snr] [May F .erle] [May F .errs] [May F .sigma] [May F .noise] [May F .coef] [May F .seeds] [May F .banks] [May F .rows] [May F .tiles] [May F .diags] [May F .maps] [May F .traces] [May F .doms] [May F .cals] [May F .calRuns] [May F .running] [May F .kept] [May F .jobs] [May F .records] [May F .eyes] [May F .completions] [May F .claims] [May F .waiting] [May F .later] [May F .tests] [May F .mram] [May F .gbQueue] [May F .shadows] [May F .highs] [May F .core] [May F .hub] [May F .raised] [May F .out] {r s : State} {x0 : _} (h : Keeps F r s) : OutKeeps F r (execDomainWakeOnAccess x0 s) := by
  unfold execDomainWakeOnAccess
  repeat' first
    | with_reducible assumption
    | intro _
    | with_reducible apply outKeeps_next
    | with_reducible apply outKeeps_ite
    | with_reducible apply keeps_ite
    | with_reducible apply keeps_issue
    | with_reducible apply keeps_ite_snd
    | with_reducible apply keeps_foldl_snd
    | with_reducible apply keeps_foldl
    | split
    | dsimp -zeta only
    | with_reducible refine keeps_of_eq (by with_reducible assumption) ?_
    | with_reducible refine keeps_of_eq3 (by with_reducible assumption) ?_
    | dsimp only

theorem keeps_execDomainWakeDone {F : Kind → Prop} [May F .free] [May F .regs] [May F .ports] [May F .pairs] [May F .links] [May F .queues] [May F .hosts] [May F .lanes] [May F .laneOf] [May F .tbl] [May F .held] [May F .snr] [May F .erle] [May F .errs] [May F .sigma] [May F .noise] [May F .coef] [May F .seeds] [May F .banks] [May F .rows] [May F .tiles] [May F .diags] [May F .maps] [May F .traces] [May F .doms] [May F .cals] [May F .calRuns] [May F .running] [May F .kept] [May F .jobs] [May F .records] [May F .eyes] [May F .completions] [May F .claims] [May F .waiting] [May F .later] [May F .tests] [May F .mram] [May F .gbQueue] [May F .shadows] [May F .highs] [May F .core] [May F .hub] [May F .raised] [May F .out] {r s : State} {x0 x1 : _} (h : Keeps F r s) : OutKeeps F r (execDomainWakeDone x0 x1 s) := by
  unfold execDomainWakeDone
  repeat' first
    | with_reducible assumption
    | intro _
    | with_reducible apply outKeeps_next
    | with_reducible apply outKeeps_ite
    | with_reducible apply keeps_ite
    | with_reducible apply keeps_recordStall
    | with_reducible apply keeps_settleWakes
    | with_reducible apply keeps_finishWake
    | with_reducible apply keeps_ite_snd
    | with_reducible apply keeps_foldl_snd
    | with_reducible apply keeps_foldl
    | split
    | dsimp -zeta only
    | with_reducible refine keeps_of_eq (by with_reducible assumption) ?_
    | with_reducible refine keeps_of_eq3 (by with_reducible assumption) ?_
    | dsimp only

theorem keeps_execDomainWakeFail {F : Kind → Prop} [May F .free] [May F .regs] [May F .ports] [May F .pairs] [May F .links] [May F .queues] [May F .hosts] [May F .lanes] [May F .laneOf] [May F .tbl] [May F .held] [May F .snr] [May F .erle] [May F .errs] [May F .sigma] [May F .noise] [May F .coef] [May F .seeds] [May F .banks] [May F .rows] [May F .tiles] [May F .diags] [May F .maps] [May F .traces] [May F .doms] [May F .cals] [May F .calRuns] [May F .running] [May F .kept] [May F .jobs] [May F .records] [May F .eyes] [May F .completions] [May F .claims] [May F .waiting] [May F .later] [May F .tests] [May F .mram] [May F .gbQueue] [May F .shadows] [May F .highs] [May F .core] [May F .hub] [May F .raised] [May F .out] {r s : State} {x0 : _} (h : Keeps F r s) : OutKeeps F r (execDomainWakeFail x0 s) := by
  unfold execDomainWakeFail
  repeat' first
    | with_reducible assumption
    | intro _
    | with_reducible apply outKeeps_next
    | with_reducible apply outKeeps_ite
    | with_reducible apply keeps_ite
    | with_reducible apply keeps_setFld
    | with_reducible apply keeps_modDom
    | with_reducible apply keeps_raise
    | with_reducible apply keeps_intBit
    | with_reducible apply keeps_inc
    | with_reducible apply keeps_settleWakes
    | with_reducible apply keeps_ite_snd
    | with_reducible apply keeps_foldl_snd
    | with_reducible apply keeps_foldl
    | split
    | dsimp -zeta only
    | with_reducible refine keeps_of_eq (by with_reducible assumption) ?_
    | with_reducible refine keeps_of_eq3 (by with_reducible assumption) ?_
    | dsimp only

theorem keeps_execDomainReturn {F : Kind → Prop} [May F .regs] [May F .ports] [May F .pairs] [May F .links] [May F .tbl] [May F .held] [May F .snr] [May F .erle] [May F .errs] [May F .sigma] [May F .noise] [May F .coef] [May F .seeds] [May F .rows] [May F .tiles] [May F .diags] [May F .maps] [May F .traces] [May F .doms] {r s : State} {x0 : _} (h : Keeps F r s) : OutKeeps F r (execDomainReturn x0 s) := by
  unfold execDomainReturn
  repeat' first
    | with_reducible assumption
    | intro _
    | with_reducible apply outKeeps_next
    | with_reducible apply outKeeps_ite
    | with_reducible apply keeps_ite
    | with_reducible apply keeps_modDom
    | with_reducible apply keeps_losePair
    | with_reducible apply keeps_powerOff
    | with_reducible apply keeps_ite_snd
    | with_reducible apply keeps_foldl_snd
    | with_reducible apply keeps_foldl
    | split
    | dsimp -zeta only
    | with_reducible refine keeps_of_eq (by with_reducible assumption) ?_
    | with_reducible refine keeps_of_eq3 (by with_reducible assumption) ?_
    | dsimp only

theorem keeps_execDomainPowerDownDone {F : Kind → Prop} [May F .free] [May F .regs] [May F .ports] [May F .pairs] [May F .links] [May F .queues] [May F .hosts] [May F .lanes] [May F .laneOf] [May F .tbl] [May F .held] [May F .snr] [May F .erle] [May F .errs] [May F .sigma] [May F .noise] [May F .coef] [May F .seeds] [May F .banks] [May F .rows] [May F .tiles] [May F .diags] [May F .maps] [May F .traces] [May F .doms] [May F .cals] [May F .calRuns] [May F .running] [May F .kept] [May F .jobs] [May F .records] [May F .eyes] [May F .completions] [May F .claims] [May F .waiting] [May F .later] [May F .tests] [May F .mram] [May F .gbQueue] [May F .shadows] [May F .highs] [May F .core] [May F .hub] [May F .raised] [May F .out] {r s : State} {x0 : _} (h : Keeps F r s) : OutKeeps F r (execDomainPowerDownDone x0 s) := by
  unfold execDomainPowerDownDone
  repeat' first
    | with_reducible assumption
    | intro _
    | with_reducible apply outKeeps_next
    | with_reducible apply outKeeps_ite
    | with_reducible apply keeps_ite
    | with_reducible apply keeps_settleWakes
    | with_reducible apply keeps_modDom
    | with_reducible apply keeps_ite_snd
    | with_reducible apply keeps_foldl_snd
    | with_reducible apply keeps_foldl
    | split
    | dsimp -zeta only
    | with_reducible refine keeps_of_eq (by with_reducible assumption) ?_
    | with_reducible refine keeps_of_eq3 (by with_reducible assumption) ?_
    | dsimp only

theorem keeps_execPortPowerOff {F : Kind → Prop} [May F .regs] [May F .ports] [May F .pairs] [May F .tbl] [May F .held] [May F .snr] [May F .erle] [May F .errs] [May F .sigma] [May F .noise] [May F .coef] [May F .seeds] [May F .doms] {r s : State} {x0 : _} (h : Keeps F r s) : OutKeeps F r (execPortPowerOff x0 s) := by
  unfold execPortPowerOff
  repeat' first
    | with_reducible assumption
    | intro _
    | with_reducible apply outKeeps_next
    | with_reducible apply outKeeps_ite
    | with_reducible apply keeps_ite
    | with_reducible apply keeps_portPowerOff
    | with_reducible apply keeps_ite_snd
    | with_reducible apply keeps_foldl_snd
    | with_reducible apply keeps_foldl
    | split
    | dsimp -zeta only
    | with_reducible refine keeps_of_eq (by with_reducible assumption) ?_
    | with_reducible refine keeps_of_eq3 (by with_reducible assumption) ?_
    | dsimp only

theorem keeps_execTilePowerOff {F : Kind → Prop} [May F .regs] [May F .ports] [May F .pairs] [May F .links] [May F .tbl] [May F .held] [May F .snr] [May F .erle] [May F .errs] [May F .sigma] [May F .noise] [May F .coef] [May F .seeds] [May F .rows] [May F .tiles] [May F .diags] [May F .maps] [May F .traces] [May F .doms] {r s : State} {x0 : _} (h : Keeps F r s) : OutKeeps F r (execTilePowerOff x0 s) := by
  unfold execTilePowerOff
  repeat' first
    | with_reducible assumption
    | intro _
    | with_reducible apply outKeeps_next
    | with_reducible apply outKeeps_ite
    | with_reducible apply keeps_ite
    | with_reducible apply keeps_tilePowerOff
    | with_reducible apply keeps_ite_snd
    | with_reducible apply keeps_foldl_snd
    | with_reducible apply keeps_foldl
    | split
    | dsimp -zeta only
    | with_reducible refine keeps_of_eq (by with_reducible assumption) ?_
    | with_reducible refine keeps_of_eq3 (by with_reducible assumption) ?_
    | dsimp only

theorem keeps_execDomainRetry {F : Kind → Prop} [May F .regs] [May F .doms] [May F .raised] {r s : State} {x0 : _} (h : Keeps F r s) : OutKeeps F r (execDomainRetry x0 s) := by
  unfold execDomainRetry
  repeat' first
    | with_reducible assumption
    | intro _
    | with_reducible apply outKeeps_next
    | with_reducible apply outKeeps_ite
    | with_reducible apply keeps_ite
    | with_reducible apply keeps_domRetry
    | with_reducible apply keeps_ite_snd
    | with_reducible apply keeps_foldl_snd
    | with_reducible apply keeps_foldl
    | split
    | dsimp -zeta only
    | with_reducible refine keeps_of_eq (by with_reducible assumption) ?_
    | with_reducible refine keeps_of_eq3 (by with_reducible assumption) ?_
    | dsimp only

theorem keeps_execDomainOffRequest {F : Kind → Prop} [May F .regs] [May F .ports] [May F .pairs] [May F .links] [May F .tbl] [May F .held] [May F .snr] [May F .erle] [May F .errs] [May F .sigma] [May F .noise] [May F .coef] [May F .seeds] [May F .rows] [May F .tiles] [May F .diags] [May F .maps] [May F .traces] [May F .doms] {r s : State} {x0 : _} (h : Keeps F r s) : OutKeeps F r (execDomainOffRequest x0 s) := by
  unfold execDomainOffRequest
  repeat' first
    | with_reducible assumption
    | intro _
    | with_reducible apply outKeeps_next
    | with_reducible apply outKeeps_ite
    | with_reducible apply keeps_ite
    | with_reducible apply keeps_domOff
    | with_reducible apply keeps_ite_snd
    | with_reducible apply keeps_foldl_snd
    | with_reducible apply keeps_foldl
    | split
    | dsimp -zeta only
    | with_reducible refine keeps_of_eq (by with_reducible assumption) ?_
    | with_reducible refine keeps_of_eq3 (by with_reducible assumption) ?_
    | dsimp only

theorem keeps_execAvsCfgWrite {F : Kind → Prop} [May F .regs] [May F .hub] {r s : State} {x0 : _} (h : Keeps F r s) : OutKeeps F r (execAvsCfgWrite x0 s) := by
  unfold execAvsCfgWrite
  repeat' first
    | with_reducible assumption
    | intro _
    | with_reducible apply outKeeps_next
    | with_reducible apply outKeeps_ite
    | with_reducible apply keeps_ite
    | with_reducible apply keeps_writeAvsCfg
    | with_reducible apply keeps_ite_snd
    | with_reducible apply keeps_foldl_snd
    | with_reducible apply keeps_foldl
    | split
    | dsimp -zeta only
    | with_reducible refine keeps_of_eq (by with_reducible assumption) ?_
    | with_reducible refine keeps_of_eq3 (by with_reducible assumption) ?_
    | dsimp only

theorem keeps_commandVolts {F : Kind → Prop} [May F .hub] [May F .out] {r s : State} {x0 : _} (h : Keeps F r s) : Keeps F r (commandVolts x0 s) := by
  unfold commandVolts
  repeat' first
    | with_reducible assumption
    | intro _
    | with_reducible apply keeps_ite
    | with_reducible apply keeps_emit
    | with_reducible apply keeps_modHub
    | with_reducible apply keeps_ite_snd
    | with_reducible apply keeps_foldl_snd
    | with_reducible apply keeps_foldl
    | split
    | dsimp -zeta only
    | with_reducible refine keeps_of_eq (by with_reducible assumption) ?_
    | with_reducible refine keeps_of_eq3 (by with_reducible assumption) ?_
    | dsimp only

theorem keeps_avsFails {F : Kind → Prop} [May F .regs] [May F .raised] {r s : State} {x0 x1 : _} (h : Keeps F r s) : Keeps F r (avsFails x0 x1 s) := by
  unfold avsFails
  repeat' first
    | with_reducible assumption
    | intro _
    | with_reducible apply keeps_ite
    | with_reducible apply keeps_raise
    | with_reducible apply keeps_intBit
    | with_reducible apply keeps_inc
    | with_reducible apply keeps_setFld
    | with_reducible apply keeps_ite_snd
    | with_reducible apply keeps_foldl_snd
    | with_reducible apply keeps_foldl
    | split
    | dsimp -zeta only
    | with_reducible refine keeps_of_eq (by with_reducible assumption) ?_
    | with_reducible refine keeps_of_eq3 (by with_reducible assumption) ?_
    | dsimp only

theorem keeps_execAvsUpdate {F : Kind → Prop} [May F .regs] [May F .hub] [May F .raised] [May F .out] {r s : State} {x0 x1 x2 x3 : _} (h : Keeps F r s) : OutKeeps F r (execAvsUpdate x0 x1 x2 x3 s) := by
  unfold execAvsUpdate
  repeat' first
    | with_reducible assumption
    | intro _
    | with_reducible apply outKeeps_next
    | with_reducible apply outKeeps_ite
    | with_reducible apply keeps_ite
    | with_reducible apply keeps_setFld
    | with_reducible apply keeps_commandVolts
    | with_reducible apply keeps_modHub
    | with_reducible apply keeps_avsFails
    | with_reducible apply keeps_ite_snd
    | with_reducible apply keeps_foldl_snd
    | with_reducible apply keeps_foldl
    | split
    | dsimp -zeta only
    | with_reducible refine keeps_of_eq (by with_reducible assumption) ?_
    | with_reducible refine keeps_of_eq3 (by with_reducible assumption) ?_
    | dsimp only

theorem keeps_execTempAlertAssert {F : Kind → Prop} [May F .hub] [May F .raised] {r s : State} (h : Keeps F r s) : OutKeeps F r (execTempAlertAssert s) := by
  unfold execTempAlertAssert
  repeat' first
    | with_reducible assumption
    | intro _
    | with_reducible apply outKeeps_next
    | with_reducible apply outKeeps_ite
    | with_reducible apply keeps_ite
    | with_reducible apply keeps_modHub
    | with_reducible apply keeps_raise
    | with_reducible apply keeps_ite_snd
    | with_reducible apply keeps_foldl_snd
    | with_reducible apply keeps_foldl
    | split
    | dsimp -zeta only
    | with_reducible refine keeps_of_eq (by with_reducible assumption) ?_
    | with_reducible refine keeps_of_eq3 (by with_reducible assumption) ?_
    | dsimp only

theorem keeps_execTempAlertRelease {F : Kind → Prop} [May F .hub] [May F .raised] {r s : State} (h : Keeps F r s) : OutKeeps F r (execTempAlertRelease s) := by
  unfold execTempAlertRelease
  repeat' first
    | with_reducible assumption
    | intro _
    | with_reducible apply outKeeps_next
    | with_reducible apply outKeeps_ite
    | with_reducible apply keeps_ite
    | with_reducible apply keeps_raise
    | with_reducible apply keeps_modHub
    | with_reducible apply keeps_ite_snd
    | with_reducible apply keeps_foldl_snd
    | with_reducible apply keeps_foldl
    | split
    | dsimp -zeta only
    | with_reducible refine keeps_of_eq (by with_reducible assumption) ?_
    | with_reducible refine keeps_of_eq3 (by with_reducible assumption) ?_
    | dsimp only

theorem keeps_loadIr {F : Kind → Prop} [May F .hub] [May F .out] {r s : State} {x0 : _} (h : Keeps F r s) : Keeps F r (loadIr x0 s) := by
  unfold loadIr
  repeat' first
    | with_reducible assumption
    | intro _
    | with_reducible apply keeps_ite
    | with_reducible apply keeps_modHub
    | with_reducible apply keeps_emit
    | with_reducible apply keeps_ite_snd
    | with_reducible apply keeps_foldl_snd
    | with_reducible apply keeps_foldl
    | split
    | dsimp -zeta only
    | with_reducible refine keeps_of_eq (by with_reducible assumption) ?_
    | with_reducible refine keeps_of_eq3 (by with_reducible assumption) ?_
    | dsimp only

theorem keeps_execDapOperation {F : Kind → Prop} [May F .free] [May F .regs] [May F .ports] [May F .pairs] [May F .links] [May F .queues] [May F .hosts] [May F .lanes] [May F .laneOf] [May F .tbl] [May F .held] [May F .snr] [May F .erle] [May F .errs] [May F .sigma] [May F .noise] [May F .coef] [May F .seeds] [May F .banks] [May F .rows] [May F .tiles] [May F .diags] [May F .maps] [May F .traces] [May F .doms] [May F .cals] [May F .calRuns] [May F .running] [May F .kept] [May F .jobs] [May F .records] [May F .eyes] [May F .completions] [May F .claims] [May F .waiting] [May F .later] [May F .tests] [May F .mram] [May F .gbQueue] [May F .shadows] [May F .highs] [May F .core] [May F .hub] [May F .raised] [May F .out] {r s : State} {x0 x1 x2 : _} (h : Keeps F r s) : OutKeeps F r (execDapOperation x0 x1 x2 s) := by
  unfold execDapOperation
  repeat' first
    | with_reducible assumption
    | intro _
    | with_reducible apply outKeeps_next
    | with_reducible apply outKeeps_ite
    | with_reducible apply keeps_ite
    | with_reducible apply keeps_loadIr
    | with_reducible apply keeps_issue
    | with_reducible apply keeps_dapOverrun
    | with_reducible apply keeps_ite_snd
    | with_reducible apply keeps_foldl_snd
    | with_reducible apply keeps_foldl
    | split
    | dsimp -zeta only
    | with_reducible refine keeps_of_eq (by with_reducible assumption) ?_
    | with_reducible refine keeps_of_eq3 (by with_reducible assumption) ?_
    | dsimp only

theorem keeps_endBoardTest {F : Kind → Prop} [May F .regs] [May F .lanes] [May F .hub] [May F .raised] {r s : State} (h : Keeps F r s) : Keeps F r (endBoardTest s) := by
  unfold endBoardTest
  repeat' first
    | with_reducible assumption
    | intro _
    | with_reducible apply keeps_ite
    | with_reducible apply keeps_setFld
    | with_reducible apply keeps_modHub
    | with_reducible apply keeps_setLaneState
    | with_reducible apply keeps_setLocks
    | with_reducible apply keeps_modLane
    | with_reducible apply keeps_raise
    | with_reducible apply keeps_forEach
    | with_reducible apply keeps_ite_snd
    | with_reducible apply keeps_foldl_snd
    | with_reducible apply keeps_foldl
    | split
    | dsimp -zeta only
    | with_reducible refine keeps_of_eq (by with_reducible assumption) ?_
    | with_reducible refine keeps_of_eq3 (by with_reducible assumption) ?_
    | dsimp only

theorem keeps_execBoardTestBegin {F : Kind → Prop} [May F .regs] [May F .lanes] [May F .hub] [May F .raised] [May F .out] {r s : State} {x0 : _} (h : Keeps F r s) : OutKeeps F r (execBoardTestBegin x0 s) := by
  unfold execBoardTestBegin
  repeat' first
    | with_reducible assumption
    | intro _
    | with_reducible apply outKeeps_next
    | with_reducible apply outKeeps_ite
    | with_reducible apply keeps_ite
    | with_reducible apply keeps_endBoardTest
    | with_reducible apply keeps_modHub
    | with_reducible apply keeps_loadIr
    | with_reducible apply keeps_dropSync
    | with_reducible apply keeps_setFld
    | with_reducible apply keeps_raise
    | with_reducible apply keeps_emit
    | with_reducible apply keeps_forEach
    | with_reducible apply keeps_ite_snd
    | with_reducible apply keeps_foldl_snd
    | with_reducible apply keeps_foldl
    | split
    | dsimp -zeta only
    | with_reducible refine keeps_of_eq (by with_reducible assumption) ?_
    | with_reducible refine keeps_of_eq3 (by with_reducible assumption) ?_
    | dsimp only

theorem keeps_execBoardTestEnd {F : Kind → Prop} [May F .free] [May F .regs] [May F .lanes] [May F .hub] [May F .raised] [May F .out] {r s : State} (h : Keeps F r s) : OutKeeps F r (execBoardTestEnd s) := by
  unfold execBoardTestEnd
  repeat' first
    | with_reducible assumption
    | intro _
    | with_reducible apply outKeeps_next
    | with_reducible apply outKeeps_ite
    | with_reducible apply keeps_ite
    | with_reducible apply keeps_loadIr
    | with_reducible apply keeps_endBoardTest
    | with_reducible apply keeps_draw
    | with_reducible apply keeps_emit
    | with_reducible apply keeps_ite_snd
    | with_reducible apply keeps_foldl_snd
    | with_reducible apply keeps_foldl
    | split
    | dsimp -zeta only
    | with_reducible refine keeps_of_eq (by with_reducible assumption) ?_
    | with_reducible refine keeps_of_eq3 (by with_reducible assumption) ?_
    | dsimp only

theorem keeps_execTapReset {F : Kind → Prop} [May F .regs] [May F .lanes] [May F .hub] [May F .raised] {r s : State} (h : Keeps F r s) : OutKeeps F r (execTapReset s) := by
  unfold execTapReset
  repeat' first
    | with_reducible assumption
    | intro _
    | with_reducible apply outKeeps_next
    | with_reducible apply outKeeps_ite
    | with_reducible apply keeps_ite
    | with_reducible apply keeps_endBoardTest
    | with_reducible apply keeps_modHub
    | with_reducible apply keeps_ite_snd
    | with_reducible apply keeps_foldl_snd
    | with_reducible apply keeps_foldl
    | split
    | dsimp -zeta only
    | with_reducible refine keeps_of_eq (by with_reducible assumption) ?_
    | with_reducible refine keeps_of_eq3 (by with_reducible assumption) ?_
    | dsimp only

end Sys2Proof.Machine
end

