-- ==== Sys2Proof/Laws/KeepsBoot.lean ====
section
/-! SUPPORT. What the operations of Machine/Boot.lean keep. -/
set_option linter.unusedTactic false
set_option linter.unreachableTactic false
set_option linter.tactic.unusedName false
namespace Sys2Proof.Machine

theorem keeps_reportBank {F : Kind → Prop} [May F .regs] [May F .raised] {r s : State} {x0 x1 : _} (h : Keeps F r s) : Keeps F r (reportBank x0 x1 s) := by
  unfold reportBank
  repeat' first
    | with_reducible assumption
    | intro _
    | with_reducible apply keeps_ite
    | with_reducible apply keeps_raise
    | with_reducible apply keeps_intBit
    | with_reducible apply keeps_ite_snd
    | with_reducible apply keeps_foldl_snd
    | with_reducible apply keeps_foldl
    | split
    | dsimp -zeta only
    | with_reducible refine keeps_of_eq (by with_reducible assumption) ?_
    | with_reducible refine keeps_of_eq3 (by with_reducible assumption) ?_
    | dsimp only

theorem keeps_loadPartition {F : Kind → Prop} [May F .regs] [May F .raised] {r s : State} {x0 : _} (h : Keeps F r s) : Keeps F r (loadPartition x0 s) := by
  unfold loadPartition
  repeat' first
    | with_reducible assumption
    | intro _
    | with_reducible apply keeps_ite
    | with_reducible apply keeps_setFld
    | with_reducible apply keeps_reportBank
    | with_reducible apply keeps_raise
    | with_reducible apply keeps_intBit
    | with_reducible apply keeps_ite_snd
    | with_reducible apply keeps_foldl_snd
    | with_reducible apply keeps_foldl
    | split
    | dsimp -zeta only
    | with_reducible refine keeps_of_eq (by with_reducible assumption) ?_
    | with_reducible refine keeps_of_eq3 (by with_reducible assumption) ?_
    | dsimp only

theorem keeps_loadConfig {F : Kind → Prop} [May F .hub] {r s : State} (h : Keeps F r s) : Keeps F r (loadConfig s) := by
  unfold loadConfig
  repeat' first
    | with_reducible assumption
    | intro _
    | with_reducible apply keeps_ite
    | with_reducible apply keeps_modHub
    | with_reducible apply keeps_ite_snd
    | with_reducible apply keeps_foldl_snd
    | with_reducible apply keeps_foldl
    | split
    | dsimp -zeta only
    | with_reducible refine keeps_of_eq (by with_reducible assumption) ?_
    | with_reducible refine keeps_of_eq3 (by with_reducible assumption) ?_
    | dsimp only

theorem SMap.above_map {α : Type} (ks : List Nat) (f : Nat → α) (b : Nat) (h : ∀ k ∈ ks, b < k) :
    SMap.above b (ks.map (fun k => (k, f k))) = true := by
  induction ks with
  | nil => rfl
  | cons k ks ih => simp [SMap.above, h k (by simp), ih (fun j hj => h j (by simp [hj]))]

theorem SMap.wf_map {α : Type} [DecidableEq α] (d : Nat → α) (ks : List Nat) (f : Nat → α) (hp : ks.Pairwise (· < ·)) (hf : ∀ k, f k ≠ d k) :
    SMap.wf d (ks.map (fun k => (k, f k))) = true := by
  induction ks with
  | nil => rfl
  | cons k ks ih =>
    rw [List.pairwise_cons] at hp
    simp [SMap.wf, hf k, ih hp.2, SMap.above_map ks f k hp.1]

theorem calKeys_rising : calKeys.Pairwise (· < ·) := by
  unfold calKeys
  rw [List.pairwise_append, List.pairwise_append]
  have hr : ∀ n c, ((List.range n).map (fun g => c + g)).Pairwise (· < ·) := fun n c => by
    rw [List.pairwise_map]
    exact List.Pairwise.imp (fun h => by omega) List.pairwise_lt_range
  refine ⟨⟨?_, hr _ _, ?_⟩, ?_, ?_⟩
  · rw [List.pairwise_flatMap]
    refine ⟨fun i _ => hr _ _, ?_⟩
    refine List.Pairwise.imp ?_ (show [1, 2, 3, 4].Pairwise (· < ·) by decide)
    intro a b hab x hx y hy
    simp only [List.mem_map, List.mem_range] at hx hy
    obtain ⟨p, hp, rfl⟩ := hx
    obtain ⟨q, hq, rfl⟩ := hy
    omega
  · intro a ha b hb
    simp only [List.mem_map, List.mem_range, List.mem_flatMap] at ha hb
    obtain ⟨i, hi, u, hu, rfl⟩ := ha
    obtain ⟨q, hq, rfl⟩ := hb
    have hi4 : ∀ i ∈ [1, 2, 3, 4], i ≤ 4 := by decide
    have := hi4 i hi
    omega
  · rw [List.pairwise_flatMap]
    refine ⟨fun i _ => hr _ _, ?_⟩
    refine List.Pairwise.imp ?_ List.pairwise_lt_range
    intro a b hab x hx y hy
    simp only [List.mem_map, List.mem_range] at hx hy
    obtain ⟨p, hp, rfl⟩ := hx
    obtain ⟨q, hq, rfl⟩ := hy
    omega
  · intro a ha b hb
    simp only [List.mem_map, List.mem_range, List.mem_flatMap, List.mem_append] at ha hb
    obtain ⟨q, hq, v, hv, rfl⟩ := hb
    have hi4 : ∀ i ∈ [1, 2, 3, 4], i ≤ 4 := by decide
    rcases ha with ⟨i, hi, u, hu, rfl⟩ | ⟨u, hu, rfl⟩
    · have := hi4 i hi
      omega
    · omega

theorem keeps_loadCalib {F : Kind → Prop} [May F .free] [May F .cals] {r s : State} (h : Keeps F r s) : Keeps F r (loadCalib s) := by
  unfold loadCalib
  split
  · exact h
  · split
    · exact keeps_cals h (fun _ => SMap.wf_map _ _ _ calKeys_rising (fun k e => by
        have := congrArg CalSt.first e; cases this))
    · refine keeps_cals (s := { s with free := s.free + 2 ^ 29 }) (keeps_upd_free h) (fun _ => SMap.wf_map _ _ _ calKeys_rising ?_)
      intro k e
      have := congrArg CalSt.first e
      simp [foreignCal, CalSt.reset] at this

theorem keeps_bootClocks {F : Kind → Prop} [May F .regs] [May F .hub] [May F .raised] {r s : State} (h : Keeps F r s) : Keeps F r (bootClocks s) := by
  unfold bootClocks
  repeat' first
    | with_reducible assumption
    | intro _
    | with_reducible apply keeps_ite
    | with_reducible apply keeps_findNext
    | with_reducible apply keeps_setFld
    | with_reducible apply keeps_modHub
    | with_reducible apply keeps_raise
    | with_reducible apply keeps_ite_snd
    | with_reducible apply keeps_foldl_snd
    | with_reducible apply keeps_foldl
    | split
    | dsimp -zeta only
    | with_reducible refine keeps_of_eq (by with_reducible assumption) ?_
    | with_reducible refine keeps_of_eq3 (by with_reducible assumption) ?_
    | dsimp only

theorem keeps_bootFirmware {F : Kind → Prop} [May F .regs] [May F .raised] {r s : State} (h : Keeps F r s) : Keeps F r (bootFirmware s) := by
  unfold bootFirmware
  repeat' first
    | with_reducible assumption
    | intro _
    | with_reducible apply keeps_ite
    | with_reducible apply keeps_setFld
    | with_reducible apply keeps_loadPartition
    | with_reducible apply keeps_setReg
    | with_reducible apply keeps_raise
    | with_reducible apply keeps_ite_snd
    | with_reducible apply keeps_foldl_snd
    | with_reducible apply keeps_foldl
    | split
    | dsimp -zeta only
    | with_reducible refine keeps_of_eq (by with_reducible assumption) ?_
    | with_reducible refine keeps_of_eq3 (by with_reducible assumption) ?_
    | dsimp only

theorem keeps_bootLoads {F : Kind → Prop} [May F .free] [May F .regs] [May F .cals] [May F .hub] [May F .raised] {r s : State} (h : Keeps F r s) : Keeps F r (bootLoads s) := by
  unfold bootLoads
  repeat' first
    | with_reducible assumption
    | intro _
    | with_reducible apply keeps_ite
    | with_reducible apply keeps_loadPartition
    | with_reducible apply keeps_loadCalib
    | with_reducible apply keeps_loadConfig
    | with_reducible apply keeps_modHub
    | with_reducible apply keeps_ite_snd
    | with_reducible apply keeps_foldl_snd
    | with_reducible apply keeps_foldl
    | split
    | dsimp -zeta only
    | with_reducible refine keeps_of_eq (by with_reducible assumption) ?_
    | with_reducible refine keeps_of_eq3 (by with_reducible assumption) ?_
    | dsimp only

theorem keeps_barLane {F : Kind → Prop} [May F .regs] [May F .lanes] [May F .hub] {r s : State} {x0 : _} (h : Keeps F r s) : Keeps F r (barLane x0 s) := by
  unfold barLane
  repeat' first
    | with_reducible assumption
    | intro _
    | with_reducible apply keeps_ite
    | with_reducible apply keeps_setLaneState
    | with_reducible apply keeps_modLane
    | with_reducible apply keeps_setSpareState
    | with_reducible apply keeps_ite_snd
    | with_reducible apply keeps_foldl_snd
    | with_reducible apply keeps_foldl
    | split
    | dsimp -zeta only
    | with_reducible refine keeps_of_eq (by with_reducible assumption) ?_
    | with_reducible refine keeps_of_eq3 (by with_reducible assumption) ?_
    | dsimp only

theorem keeps_assignWires {F : Kind → Prop} [May F .tiles] {r s : State} {x0 : _} (h : Keeps F r s) : Keeps F r (assignWires x0 s) := by
  unfold assignWires
  repeat' first
    | with_reducible assumption
    | intro _
    | with_reducible apply keeps_ite
    | with_reducible apply keeps_modTile
    | with_reducible apply keeps_ite_snd
    | with_reducible apply keeps_foldl_snd
    | with_reducible apply keeps_foldl
    | split
    | dsimp -zeta only
    | with_reducible refine keeps_of_eq (by with_reducible assumption) ?_
    | with_reducible refine keeps_of_eq3 (by with_reducible assumption) ?_
    | dsimp only

theorem keeps_bootTile {F : Kind → Prop} [May F .regs] [May F .pairs] [May F .rows] [May F .tiles] [May F .doms] {r s : State} {x0 x1 : _} (h : Keeps F r s) : Keeps F r (bootTile x0 x1 s) := by
  unfold bootTile
  repeat' first
    | with_reducible assumption
    | intro _
    | with_reducible apply keeps_ite
    | with_reducible apply keeps_rebuildSlices
    | with_reducible apply keeps_assignWires
    | with_reducible apply keeps_modTile
    | with_reducible apply keeps_intBit
    | with_reducible apply keeps_setFld
    | with_reducible apply keeps_modDom
    | with_reducible apply keeps_tileUp
    | with_reducible apply keeps_ite_snd
    | with_reducible apply keeps_foldl_snd
    | with_reducible apply keeps_foldl
    | split
    | dsimp -zeta only
    | with_reducible refine keeps_of_eq (by with_reducible assumption) ?_
    | with_reducible refine keeps_of_eq3 (by with_reducible assumption) ?_
    | dsimp only

theorem keeps_bootRepair {F : Kind → Prop} [May F .regs] [May F .pairs] [May F .lanes] [May F .rows] [May F .tiles] [May F .doms] [May F .hub] {r s : State} {x0 : _} (h : Keeps F r s) : Keeps F r (bootRepair x0 s) := by
  unfold bootRepair
  repeat' first
    | with_reducible assumption
    | intro _
    | with_reducible apply keeps_ite
    | with_reducible apply keeps_rebuildBanks
    | with_reducible apply keeps_addTo
    | with_reducible apply keeps_barLane
    | with_reducible apply keeps_bootTile
    | with_reducible apply keeps_forEach
    | with_reducible apply keeps_ite_snd
    | with_reducible apply keeps_foldl_snd
    | with_reducible apply keeps_foldl
    | split
    | dsimp -zeta only
    | with_reducible refine keeps_of_eq (by with_reducible assumption) ?_
    | with_reducible refine keeps_of_eq3 (by with_reducible assumption) ?_
    | dsimp only

theorem keeps_bootEntry {F : Kind → Prop} [May F .free] [May F .regs] [May F .ports] [May F .pairs] [May F .links] [May F .queues] [May F .hosts] [May F .lanes] [May F .laneOf] [May F .tbl] [May F .held] [May F .snr] [May F .erle] [May F .errs] [May F .sigma] [May F .noise] [May F .coef] [May F .seeds] [May F .banks] [May F .rows] [May F .tiles] [May F .diags] [May F .maps] [May F .traces] [May F .doms] [May F .cals] [May F .calRuns] [May F .running] [May F .kept] [May F .eyes] [May F .completions] [May F .claims] [May F .waiting] [May F .later] [May F .tests] [May F .mram] [May F .gbQueue] [May F .highs] [May F .core] [May F .hub] [May F .raised] [May F .out] {r s : State} {x0 : _} (h : Keeps F r s) : Keeps F r (bootEntry x0 s) := by
  unfold bootEntry
  repeat' first
    | with_reducible assumption
    | intro _
    | with_reducible apply keeps_ite
    | with_reducible apply keeps_ownWrite
    | with_reducible apply keeps_inc
    | with_reducible apply keeps_ite_snd
    | with_reducible apply keeps_foldl_snd
    | with_reducible apply keeps_foldl
    | split
    | dsimp -zeta only
    | with_reducible refine keeps_of_eq (by with_reducible assumption) ?_
    | with_reducible refine keeps_of_eq3 (by with_reducible assumption) ?_
    | dsimp only

theorem keeps_bootConfig {F : Kind → Prop} [May F .free] [May F .regs] [May F .ports] [May F .pairs] [May F .links] [May F .queues] [May F .hosts] [May F .lanes] [May F .laneOf] [May F .tbl] [May F .held] [May F .snr] [May F .erle] [May F .errs] [May F .sigma] [May F .noise] [May F .coef] [May F .seeds] [May F .banks] [May F .rows] [May F .tiles] [May F .diags] [May F .maps] [May F .traces] [May F .doms] [May F .cals] [May F .calRuns] [May F .running] [May F .kept] [May F .eyes] [May F .completions] [May F .claims] [May F .waiting] [May F .later] [May F .tests] [May F .mram] [May F .gbQueue] [May F .highs] [May F .core] [May F .hub] [May F .raised] [May F .out] {r s : State} (h : Keeps F r s) : Keeps F r (bootConfig s) := by
  unfold bootConfig
  repeat' first
    | with_reducible assumption
    | intro _
    | with_reducible apply keeps_ite
    | with_reducible apply keeps_setTrims
    | with_reducible apply keeps_endCommit
    | with_reducible apply keeps_bootEntry
    | with_reducible apply keeps_forEach
    | with_reducible apply keeps_ite_snd
    | with_reducible apply keeps_foldl_snd
    | with_reducible apply keeps_foldl
    | split
    | dsimp -zeta only
    | with_reducible refine keeps_of_eq (by with_reducible assumption) ?_
    | with_reducible refine keeps_of_eq3 (by with_reducible assumption) ?_
    | dsimp only

theorem keeps_bootVolts {F : Kind → Prop} [May F .hub] {r s : State} (h : Keeps F r s) : Keeps F r (bootVolts s) := by
  unfold bootVolts
  repeat' first
    | with_reducible assumption
    | intro _
    | with_reducible apply keeps_ite
    | with_reducible apply keeps_modHub
    | with_reducible apply keeps_ite_snd
    | with_reducible apply keeps_foldl_snd
    | with_reducible apply keeps_foldl
    | split
    | dsimp -zeta only
    | with_reducible refine keeps_of_eq (by with_reducible assumption) ?_
    | with_reducible refine keeps_of_eq3 (by with_reducible assumption) ?_
    | dsimp only

theorem keeps_beginLine {F : Kind → Prop} [May F .free] [May F .regs] [May F .ports] [May F .pairs] [May F .links] [May F .queues] [May F .lanes] [May F .banks] [May F .tiles] [May F .diags] [May F .doms] [May F .eyes] [May F .completions] [May F .claims] [May F .waiting] [May F .later] [May F .tests] [May F .hub] [May F .raised] {r s : State} (h : Keeps F r s) : Keeps F r (beginLine s) := by
  unfold beginLine
  repeat' first
    | with_reducible assumption
    | intro _
    | with_reducible apply keeps_ite
    | with_reducible apply keeps_enableLane
    | with_reducible apply keeps_setFld
    | with_reducible apply keeps_writeSpareCfg
    | with_reducible apply keeps_startPort
    | with_reducible apply keeps_forEach
    | with_reducible apply keeps_ite_snd
    | with_reducible apply keeps_foldl_snd
    | with_reducible apply keeps_foldl
    | split
    | dsimp -zeta only
    | with_reducible refine keeps_of_eq (by with_reducible assumption) ?_
    | with_reducible refine keeps_of_eq3 (by with_reducible assumption) ?_
    | dsimp only

theorem keeps_bootReady {F : Kind → Prop} [May F .free] [May F .regs] [May F .ports] [May F .pairs] [May F .links] [May F .queues] [May F .lanes] [May F .banks] [May F .tiles] [May F .diags] [May F .doms] [May F .eyes] [May F .completions] [May F .claims] [May F .waiting] [May F .later] [May F .tests] [May F .hub] [May F .raised] {r s : State} (h : Keeps F r s) : Keeps F r (bootReady s) := by
  unfold bootReady
  repeat' first
    | with_reducible assumption
    | intro _
    | with_reducible apply keeps_ite
    | with_reducible apply keeps_setReg
    | with_reducible apply keeps_setFld
    | with_reducible apply keeps_modHub
    | with_reducible apply keeps_raise
    | with_reducible apply keeps_beginLine
    | with_reducible apply keeps_askNotice
    | with_reducible apply keeps_ite_snd
    | with_reducible apply keeps_foldl_snd
    | with_reducible apply keeps_foldl
    | split
    | dsimp -zeta only
    | with_reducible refine keeps_of_eq (by with_reducible assumption) ?_
    | with_reducible refine keeps_of_eq3 (by with_reducible assumption) ?_
    | dsimp only

theorem keeps_bootStep {F : Kind → Prop} [May F .free] [May F .regs] [May F .ports] [May F .pairs] [May F .links] [May F .queues] [May F .hosts] [May F .lanes] [May F .laneOf] [May F .tbl] [May F .held] [May F .snr] [May F .erle] [May F .errs] [May F .sigma] [May F .noise] [May F .coef] [May F .seeds] [May F .banks] [May F .rows] [May F .tiles] [May F .diags] [May F .maps] [May F .traces] [May F .doms] [May F .cals] [May F .calRuns] [May F .running] [May F .kept] [May F .eyes] [May F .completions] [May F .claims] [May F .waiting] [May F .later] [May F .tests] [May F .mram] [May F .gbQueue] [May F .highs] [May F .core] [May F .hub] [May F .raised] [May F .out] {r s : State} {x0 x1 : _} (h : Keeps F r s) : Keeps F r (bootStep x0 x1 s) := by
  unfold bootStep
  repeat' first
    | with_reducible assumption
    | intro _
    | with_reducible apply keeps_ite
    | with_reducible apply keeps_bootClocks
    | with_reducible apply keeps_bootFirmware
    | with_reducible apply keeps_bootLoads
    | with_reducible apply keeps_bootRepair
    | with_reducible apply keeps_bootConfig
    | with_reducible apply keeps_bootVolts
    | with_reducible apply keeps_bootReady
    | with_reducible apply keeps_ite_snd
    | with_reducible apply keeps_foldl_snd
    | with_reducible apply keeps_foldl
    | split
    | dsimp -zeta only
    | with_reducible refine keeps_of_eq (by with_reducible assumption) ?_
    | with_reducible refine keeps_of_eq3 (by with_reducible assumption) ?_
    | dsimp only

theorem keeps_execBootStepDone {F : Kind → Prop} [May F .free] [May F .regs] [May F .ports] [May F .pairs] [May F .links] [May F .queues] [May F .hosts] [May F .lanes] [May F .laneOf] [May F .tbl] [May F .held] [May F .snr] [May F .erle] [May F .errs] [May F .sigma] [May F .noise] [May F .coef] [May F .seeds] [May F .banks] [May F .rows] [May F .tiles] [May F .diags] [May F .maps] [May F .traces] [May F .doms] [May F .cals] [May F .calRuns] [May F .running] [May F .kept] [May F .eyes] [May F .completions] [May F .claims] [May F .waiting] [May F .later] [May F .tests] [May F .mram] [May F .gbQueue] [May F .highs] [May F .core] [May F .hub] [May F .raised] [May F .out] {r s : State} {x0 : _} (h : Keeps F r s) : OutKeeps F r (execBootStepDone x0 s) := by
  unfold execBootStepDone
  repeat' first
    | with_reducible assumption
    | intro _
    | with_reducible apply outKeeps_next
    | with_reducible apply outKeeps_ite
    | with_reducible apply keeps_ite
    | with_reducible apply keeps_setFld
    | with_reducible apply keeps_bootStep
    | with_reducible apply keeps_ite_snd
    | with_reducible apply keeps_foldl_snd
    | with_reducible apply keeps_foldl
    | split
    | dsimp -zeta only
    | with_reducible refine keeps_of_eq (by with_reducible assumption) ?_
    | with_reducible refine keeps_of_eq3 (by with_reducible assumption) ?_
    | dsimp only

end Sys2Proof.Machine
end

