-- ==== Sys2Proof/Laws/KeepsRing.lean ====
section
/-! SUPPORT. What the operations of Machine/Ring.lean keep. -/
set_option linter.unusedTactic false
set_option linter.unreachableTactic false
set_option linter.tactic.unusedName false
namespace Sys2Proof.Machine

theorem keeps_setRingLost {F : Kind → Prop} [May F .hub] {r s : State} {x0 x1 : _} (h : Keeps F r s) : Keeps F r (setRingLost x0 x1 s) := by
  unfold setRingLost
  repeat' first
    | with_reducible assumption
    | intro _
    | with_reducible apply keeps_ite
    | with_reducible apply keeps_modHub
    | with_reducible apply keeps_ite_snd
    | with_reducible apply keeps_foldl_snd
    | with_reducible apply keeps_foldl
    | split
    | dsimp -zeta only
    | with_reducible refine keeps_of_eq (by with_reducible assumption) ?_
    | with_reducible refine keeps_of_eq3 (by with_reducible assumption) ?_
    | dsimp only

theorem keeps_inputSync {F : Kind → Prop} [May F .regs] [May F .hub] [May F .raised] {r s : State} {x0 : _} (h : Keeps F r s) : Keeps F r (inputSync x0 s) := by
  unfold inputSync
  repeat' first
    | with_reducible assumption
    | intro _
    | with_reducible apply keeps_ite
    | with_reducible apply keeps_setRingLost
    | with_reducible apply keeps_setFld
    | with_reducible apply keeps_modHub
    | with_reducible apply keeps_askNotice
    | with_reducible apply keeps_raise
    | with_reducible apply keeps_intBit
    | with_reducible apply keeps_inc
    | with_reducible apply keeps_ite_snd
    | with_reducible apply keeps_foldl_snd
    | with_reducible apply keeps_foldl
    | split
    | dsimp -zeta only
    | with_reducible refine keeps_of_eq (by with_reducible assumption) ?_
    | with_reducible refine keeps_of_eq3 (by with_reducible assumption) ?_
    | dsimp only

theorem keeps_execRingInputSync {F : Kind → Prop} [May F .regs] [May F .hub] [May F .raised] {r s : State} {x0 : _} (h : Keeps F r s) : OutKeeps F r (execRingInputSync x0 s) := by
  unfold execRingInputSync
  repeat' first
    | with_reducible assumption
    | intro _
    | with_reducible apply outKeeps_next
    | with_reducible apply outKeeps_ite
    | with_reducible apply keeps_ite
    | with_reducible apply keeps_inputSync
    | with_reducible apply keeps_ite_snd
    | with_reducible apply keeps_foldl_snd
    | with_reducible apply keeps_foldl
    | split
    | dsimp -zeta only
    | with_reducible refine keeps_of_eq (by with_reducible assumption) ?_
    | with_reducible refine keeps_of_eq3 (by with_reducible assumption) ?_
    | dsimp only

theorem keeps_execRingSyncLoss {F : Kind → Prop} [May F .regs] [May F .hub] {r s : State} {x0 x1 : _} (h : Keeps F r s) : OutKeeps F r (execRingSyncLoss x0 x1 s) := by
  unfold execRingSyncLoss
  repeat' first
    | with_reducible assumption
    | intro _
    | with_reducible apply outKeeps_next
    | with_reducible apply outKeeps_ite
    | with_reducible apply keeps_ite
    | with_reducible apply keeps_setRingLost
    | with_reducible apply keeps_addTo
    | with_reducible apply keeps_setFld
    | with_reducible apply keeps_ite_snd
    | with_reducible apply keeps_foldl_snd
    | with_reducible apply keeps_foldl
    | split
    | dsimp -zeta only
    | with_reducible refine keeps_of_eq (by with_reducible assumption) ?_
    | with_reducible refine keeps_of_eq3 (by with_reducible assumption) ?_
    | dsimp only

theorem keeps_execRingGlitch {F : Kind → Prop} [May F .regs] [May F .hub] [May F .raised] {r s : State} {x0 : _} (h : Keeps F r s) : OutKeeps F r (execRingGlitch x0 s) := by
  unfold execRingGlitch
  repeat' first
    | with_reducible assumption
    | intro _
    | with_reducible apply outKeeps_next
    | with_reducible apply outKeeps_ite
    | with_reducible apply keeps_ite
    | with_reducible apply keeps_inputSync
    | with_reducible apply keeps_ite_snd
    | with_reducible apply keeps_foldl_snd
    | with_reducible apply keeps_foldl
    | split
    | dsimp -zeta only
    | with_reducible refine keeps_of_eq (by with_reducible assumption) ?_
    | with_reducible refine keeps_of_eq3 (by with_reducible assumption) ?_
    | dsimp only

theorem keeps_execRingBreak {F : Kind → Prop} [May F .regs] [May F .hub] [May F .raised] {r s : State} {x0 : _} (h : Keeps F r s) : OutKeeps F r (execRingBreak x0 s) := by
  unfold execRingBreak
  repeat' first
    | with_reducible assumption
    | intro _
    | with_reducible apply outKeeps_next
    | with_reducible apply outKeeps_ite
    | with_reducible apply keeps_ite
    | with_reducible apply keeps_intBit
    | with_reducible apply keeps_inc
    | with_reducible apply keeps_setFld
    | with_reducible apply keeps_askNotice
    | with_reducible apply keeps_raise
    | with_reducible apply keeps_ite_snd
    | with_reducible apply keeps_foldl_snd
    | with_reducible apply keeps_foldl
    | split
    | dsimp -zeta only
    | with_reducible refine keeps_of_eq (by with_reducible assumption) ?_
    | with_reducible refine keeps_of_eq3 (by with_reducible assumption) ?_
    | dsimp only

theorem keeps_execRingRestored {F : Kind → Prop} [May F .regs] [May F .hub] [May F .raised] {r s : State} {x0 : _} (h : Keeps F r s) : OutKeeps F r (execRingRestored x0 s) := by
  unfold execRingRestored
  repeat' first
    | with_reducible assumption
    | intro _
    | with_reducible apply outKeeps_next
    | with_reducible apply outKeeps_ite
    | with_reducible apply keeps_ite
    | with_reducible apply keeps_inputSync
    | with_reducible apply keeps_ite_snd
    | with_reducible apply keeps_foldl_snd
    | with_reducible apply keeps_foldl
    | split
    | dsimp -zeta only
    | with_reducible refine keeps_of_eq (by with_reducible assumption) ?_
    | with_reducible refine keeps_of_eq3 (by with_reducible assumption) ?_
    | dsimp only

theorem keeps_forwardBytes {F : Kind → Prop} [May F .out] {r s : State} {x0 x1 : _} (h : Keeps F r s) : Keeps F r (forwardBytes x0 x1 s) := by
  unfold forwardBytes
  repeat' first
    | with_reducible assumption
    | intro _
    | with_reducible apply keeps_ite
    | with_reducible apply keeps_emit
    | with_reducible apply keeps_ite_snd
    | with_reducible apply keeps_foldl_snd
    | with_reducible apply keeps_foldl
    | split
    | dsimp -zeta only
    | with_reducible refine keeps_of_eq (by with_reducible assumption) ?_
    | with_reducible refine keeps_of_eq3 (by with_reducible assumption) ?_
    | dsimp only

theorem keeps_countErrs {F : Kind → Prop} [May F .regs] [May F .hub] {r s : State} {x0 x1 : _} (h : Keeps F r s) : Keeps F r (countErrs x0 x1 s) := by
  unfold countErrs
  repeat' first
    | with_reducible assumption
    | intro _
    | with_reducible apply keeps_ite
    | with_reducible apply keeps_addTo
    | with_reducible apply keeps_setRingLost
    | with_reducible apply keeps_setFld
    | with_reducible apply keeps_ite_snd
    | with_reducible apply keeps_foldl_snd
    | with_reducible apply keeps_foldl
    | split
    | dsimp -zeta only
    | with_reducible refine keeps_of_eq (by with_reducible assumption) ?_
    | with_reducible refine keeps_of_eq3 (by with_reducible assumption) ?_
    | dsimp only

theorem keeps_execPacketForward {F : Kind → Prop} [May F .regs] [May F .hub] [May F .out] {r s : State} {x0 x1 : _} (h : Keeps F r s) : OutKeeps F r (execPacketForward x0 x1 s) := by
  unfold execPacketForward
  repeat' first
    | with_reducible assumption
    | intro _
    | with_reducible apply outKeeps_next
    | with_reducible apply outKeeps_ite
    | with_reducible apply keeps_ite
    | with_reducible apply keeps_forwardBytes
    | with_reducible apply keeps_countErrs
    | with_reducible apply keeps_ite_snd
    | with_reducible apply keeps_foldl_snd
    | with_reducible apply keeps_foldl
    | split
    | dsimp -zeta only
    | with_reducible refine keeps_of_eq (by with_reducible assumption) ?_
    | with_reducible refine keeps_of_eq3 (by with_reducible assumption) ?_
    | dsimp only

theorem keeps_moveRing {F : Kind → Prop} [May F .queued] [May F .running] [May F .waiting] [May F .granted] {r s : State} {x0 : _} (h : Keeps F r s) : Keeps F r (moveRing x0 s) := by
  unfold moveRing
  repeat' first
    | with_reducible assumption
    | intro _
    | with_reducible apply keeps_ite
    | with_reducible apply keeps_ite_snd
    | with_reducible apply keeps_foldl_snd
    | with_reducible apply keeps_foldl
    | split
    | dsimp -zeta only
    | with_reducible refine keeps_of_eq (by with_reducible assumption) ?_
    | with_reducible refine keeps_of_eq3 (by with_reducible assumption) ?_
    | dsimp only
    | with_reducible apply keeps_upd_queued_running_waiting_granted

theorem keeps_takeCommand {F : Kind → Prop} [May F .regs] [May F .queued] [May F .running] [May F .waiting] [May F .granted] [May F .out] {r s : State} {x0 : _} (h : Keeps F r s) : Keeps F r (takeCommand x0 s) := by
  unfold takeCommand
  repeat' first
    | with_reducible assumption
    | intro _
    | with_reducible apply keeps_ite
    | with_reducible apply keeps_inc
    | with_reducible apply keeps_moveRing
    | with_reducible apply keeps_emitReply
    | with_reducible apply keeps_refuse
    | with_reducible apply keeps_ite_snd
    | with_reducible apply keeps_foldl_snd
    | with_reducible apply keeps_foldl
    | split
    | dsimp -zeta only
    | with_reducible refine keeps_of_eq (by with_reducible assumption) ?_
    | with_reducible refine keeps_of_eq3 (by with_reducible assumption) ?_
    | dsimp only
    | with_reducible apply keeps_upd_queued

theorem keeps_execPacketRx {F : Kind → Prop} [May F .regs] [May F .queued] [May F .running] [May F .waiting] [May F .granted] [May F .hub] [May F .out] {r s : State} {x0 x1 : _} (h : Keeps F r s) : OutKeeps F r (execPacketRx x0 x1 s) := by
  unfold execPacketRx
  repeat' first
    | with_reducible assumption
    | intro _
    | with_reducible apply outKeeps_next
    | with_reducible apply outKeeps_ite
    | with_reducible apply keeps_ite
    | with_reducible apply keeps_countErrs
    | with_reducible apply keeps_forwardBytes
    | with_reducible apply keeps_inc
    | with_reducible apply keeps_refuse
    | with_reducible apply keeps_takeCommand
    | with_reducible apply keeps_ite_snd
    | with_reducible apply keeps_foldl_snd
    | with_reducible apply keeps_foldl
    | split
    | dsimp -zeta only
    | with_reducible refine keeps_of_eq (by with_reducible assumption) ?_
    | with_reducible refine keeps_of_eq3 (by with_reducible assumption) ?_
    | dsimp only

theorem keeps_countBad {F : Kind → Prop} [May F .regs] {r s : State} {x0 : _} (h : Keeps F r s) : Keeps F r (countBad x0 s) := by
  unfold countBad
  repeat' first
    | with_reducible assumption
    | intro _
    | with_reducible apply keeps_ite
    | with_reducible apply keeps_inc
    | with_reducible apply keeps_ite_snd
    | with_reducible apply keeps_foldl_snd
    | with_reducible apply keeps_foldl
    | split
    | dsimp -zeta only
    | with_reducible refine keeps_of_eq (by with_reducible assumption) ?_
    | with_reducible refine keeps_of_eq3 (by with_reducible assumption) ?_
    | dsimp only

theorem keeps_enumerateHere {F : Kind → Prop} [May F .regs] [May F .raised] {r s : State} {x0 x1 x2 : _} (h : Keeps F r s) : Keeps F r (enumerateHere x0 x1 x2 s).2 := by
  show KeepsP F r _
  unfold enumerateHere
  repeat' first
    | with_reducible assumption
    | intro _
    | with_reducible apply keepsP_mk
    | with_reducible apply keepsP_ite
    | with_reducible apply keeps_ite
    | with_reducible apply keeps_setFld
    | with_reducible apply keeps_raise
    | with_reducible apply keeps_intBit
    | with_reducible apply keeps_ite_snd
    | with_reducible apply keeps_foldl_snd
    | with_reducible apply keeps_foldl
    | split
    | dsimp -zeta only
    | with_reducible refine keeps_of_eq (by with_reducible assumption) ?_
    | with_reducible refine keeps_of_eq3 (by with_reducible assumption) ?_
    | dsimp only

theorem keeps_execEnumerate {F : Kind → Prop} [May F .regs] [May F .hub] [May F .raised] [May F .out] {r s : State} {x0 x1 : _} (h : Keeps F r s) : OutKeeps F r (execEnumerate x0 x1 s) := by
  unfold execEnumerate
  repeat' first
    | with_reducible assumption
    | intro _
    | with_reducible apply outKeeps_next
    | with_reducible apply outKeeps_ite
    | with_reducible apply keeps_ite
    | with_reducible apply keeps_countErrs
    | with_reducible apply keeps_enumerateHere
    | with_reducible apply keeps_forwardBytes
    | with_reducible apply keeps_countBad
    | with_reducible apply keeps_ite_snd
    | with_reducible apply keeps_foldl_snd
    | with_reducible apply keeps_foldl
    | split
    | dsimp -zeta only
    | with_reducible refine keeps_of_eq (by with_reducible assumption) ?_
    | with_reducible refine keeps_of_eq3 (by with_reducible assumption) ?_
    | dsimp only

theorem keeps_takeEpoch {F : Kind → Prop} [May F .regs] [May F .hub] {r s : State} {x0 x1 x2 : _} (h : Keeps F r s) : Keeps F r (takeEpoch x0 x1 x2 s) := by
  unfold takeEpoch
  repeat' first
    | with_reducible assumption
    | intro _
    | with_reducible apply keeps_ite
    | with_reducible apply keeps_setFld
    | with_reducible apply keeps_set64
    | with_reducible apply keeps_modHub
    | with_reducible apply keeps_inc
    | with_reducible apply keeps_ite_snd
    | with_reducible apply keeps_foldl_snd
    | with_reducible apply keeps_foldl
    | split
    | dsimp -zeta only
    | with_reducible refine keeps_of_eq (by with_reducible assumption) ?_
    | with_reducible refine keeps_of_eq3 (by with_reducible assumption) ?_
    | dsimp only

theorem keeps_execSeqEpoch {F : Kind → Prop} [May F .regs] [May F .hub] [May F .out] {r s : State} {x0 x1 x2 : _} (h : Keeps F r s) : OutKeeps F r (execSeqEpoch x0 x1 x2 s) := by
  unfold execSeqEpoch
  repeat' first
    | with_reducible assumption
    | intro _
    | with_reducible apply outKeeps_next
    | with_reducible apply outKeeps_ite
    | with_reducible apply keeps_ite
    | with_reducible apply keeps_countErrs
    | with_reducible apply keeps_forwardBytes
    | with_reducible apply keeps_takeEpoch
    | with_reducible apply keeps_countBad
    | with_reducible apply keeps_ite_snd
    | with_reducible apply keeps_foldl_snd
    | with_reducible apply keeps_foldl
    | split
    | dsimp -zeta only
    | with_reducible refine keeps_of_eq (by with_reducible assumption) ?_
    | with_reducible refine keeps_of_eq3 (by with_reducible assumption) ?_
    | dsimp only

theorem keeps_execRingPing {F : Kind → Prop} [May F .regs] [May F .hub] [May F .out] {r s : State} {x0 x1 : _} (h : Keeps F r s) : OutKeeps F r (execRingPing x0 x1 s) := by
  unfold execRingPing
  repeat' first
    | with_reducible assumption
    | intro _
    | with_reducible apply outKeeps_next
    | with_reducible apply outKeeps_ite
    | with_reducible apply keeps_ite
    | with_reducible apply keeps_forwardBytes
    | with_reducible apply keeps_countErrs
    | with_reducible apply keeps_countBad
    | with_reducible apply keeps_ite_snd
    | with_reducible apply keeps_foldl_snd
    | with_reducible apply keeps_foldl
    | split
    | dsimp -zeta only
    | with_reducible refine keeps_of_eq (by with_reducible assumption) ?_
    | with_reducible refine keeps_of_eq3 (by with_reducible assumption) ?_
    | dsimp only

theorem keeps_execRingControlReserved {F : Kind → Prop} [May F .regs] [May F .hub] [May F .out] {r s : State} {x0 x1 : _} (h : Keeps F r s) : OutKeeps F r (execRingControlReserved x0 x1 s) := by
  unfold execRingControlReserved
  repeat' first
    | with_reducible assumption
    | intro _
    | with_reducible apply outKeeps_next
    | with_reducible apply outKeeps_ite
    | with_reducible apply keeps_ite
    | with_reducible apply keeps_countErrs
    | with_reducible apply keeps_forwardBytes
    | with_reducible apply keeps_countBad
    | with_reducible apply keeps_ite_snd
    | with_reducible apply keeps_foldl_snd
    | with_reducible apply keeps_foldl
    | split
    | dsimp -zeta only
    | with_reducible refine keeps_of_eq (by with_reducible assumption) ?_
    | with_reducible refine keeps_of_eq3 (by with_reducible assumption) ?_
    | dsimp only

theorem keeps_execCommandStart {F : Kind → Prop} [May F .regs] [May F .queued] [May F .running] [May F .kept] [May F .out] {r s : State} (h : Keeps F r s) : OutKeeps F r (execCommandStart s) := by
  unfold execCommandStart
  repeat' first
    | with_reducible assumption
    | intro _
    | with_reducible apply outKeeps_next
    | with_reducible apply outKeeps_ite
    | with_reducible apply keeps_ite
    | with_reducible apply keeps_finalReply
    | with_reducible apply keeps_ite_snd
    | with_reducible apply keeps_foldl_snd
    | with_reducible apply keeps_foldl
    | split
    | dsimp -zeta only
    | with_reducible refine keeps_of_eq (by with_reducible assumption) ?_
    | with_reducible refine keeps_of_eq3 (by with_reducible assumption) ?_
    | dsimp only
    | with_reducible apply keeps_upd_queued_running

theorem keeps_execCommandTimeout {F : Kind → Prop} [May F .regs] [May F .running] [May F .kept] [May F .out] {r s : State} {x0 x1 : _} (h : Keeps F r s) : OutKeeps F r (execCommandTimeout x0 x1 s) := by
  unfold execCommandTimeout
  repeat' first
    | with_reducible assumption
    | intro _
    | with_reducible apply outKeeps_next
    | with_reducible apply outKeeps_ite
    | with_reducible apply keeps_ite
    | with_reducible apply keeps_finalReply
    | with_reducible apply keeps_ite_snd
    | with_reducible apply keeps_foldl_snd
    | with_reducible apply keeps_foldl
    | split
    | dsimp -zeta only
    | with_reducible refine keeps_of_eq (by with_reducible assumption) ?_
    | with_reducible refine keeps_of_eq3 (by with_reducible assumption) ?_
    | dsimp only

theorem keeps_execReplyRetentionExpire {F : Kind → Prop} [May F .kept] {r s : State} (h : Keeps F r s) : OutKeeps F r (execReplyRetentionExpire s) :=
  outKeeps_next (keeps_kept h (fun g => by rw [List.length_drop]; omega))

theorem keeps_execNoticeSend {F : Kind → Prop} [May F .regs] [May F .hub] [May F .out] {r s : State} (h : Keeps F r s) : OutKeeps F r (execNoticeSend s) := by
  unfold execNoticeSend
  repeat' first
    | with_reducible assumption
    | intro _
    | with_reducible apply outKeeps_next
    | with_reducible apply outKeeps_ite
    | with_reducible apply keeps_ite
    | with_reducible apply keeps_newNotice
    | with_reducible apply keeps_modHub
    | with_reducible apply keeps_ite_snd
    | with_reducible apply keeps_foldl_snd
    | with_reducible apply keeps_foldl
    | split
    | dsimp -zeta only
    | with_reducible refine keeps_of_eq (by with_reducible assumption) ?_
    | with_reducible refine keeps_of_eq3 (by with_reducible assumption) ?_
    | dsimp only

theorem keeps_execIntRepeatExpire {F : Kind → Prop} [May F .regs] [May F .out] {r s : State} (h : Keeps F r s) : OutKeeps F r (execIntRepeatExpire s) := by
  unfold execIntRepeatExpire
  repeat' first
    | with_reducible assumption
    | intro _
    | with_reducible apply outKeeps_next
    | with_reducible apply outKeeps_ite
    | with_reducible apply keeps_ite
    | with_reducible apply keeps_sendNotice
    | with_reducible apply keeps_ite_snd
    | with_reducible apply keeps_foldl_snd
    | with_reducible apply keeps_foldl
    | split
    | dsimp -zeta only
    | with_reducible refine keeps_of_eq (by with_reducible assumption) ?_
    | with_reducible refine keeps_of_eq3 (by with_reducible assumption) ?_
    | dsimp only

theorem keeps_execSeqTickSaturate {F : Kind → Prop} [May F .regs] [May F .hub] [May F .raised] {r s : State} (h : Keeps F r s) : OutKeeps F r (execSeqTickSaturate s) := by
  unfold execSeqTickSaturate
  repeat' first
    | with_reducible assumption
    | intro _
    | with_reducible apply outKeeps_next
    | with_reducible apply outKeeps_ite
    | with_reducible apply keeps_ite
    | with_reducible apply keeps_modHub
    | with_reducible apply keeps_setFld
    | with_reducible apply keeps_raise
    | with_reducible apply keeps_ite_snd
    | with_reducible apply keeps_foldl_snd
    | with_reducible apply keeps_foldl
    | split
    | dsimp -zeta only
    | with_reducible refine keeps_of_eq (by with_reducible assumption) ?_
    | with_reducible refine keeps_of_eq3 (by with_reducible assumption) ?_
    | dsimp only

end Sys2Proof.Machine
end

