-- ==== Sys2Proof/Laws/KeepsCmdOps.lean ====
section
/-! SUPPORT. What the operations of Machine/CmdOps.lean keep. -/
set_option linter.unusedTactic false
set_option linter.unreachableTactic false
set_option linter.tactic.unusedName false
namespace Sys2Proof.Machine

theorem keeps_badParam {F : Kind → Prop} [May F .regs] [May F .running] [May F .kept] [May F .out] {r s : State} {x0 : _} (h : Keeps F r s) : Keeps F r (badParam x0 s) := by
  unfold badParam
  repeat' first
    | with_reducible assumption
    | intro _
    | with_reducible apply keeps_ite
    | with_reducible apply keeps_finalReply
    | with_reducible apply keeps_ite_snd
    | with_reducible apply keeps_foldl_snd
    | with_reducible apply keeps_foldl
    | split
    | dsimp -zeta only
    | with_reducible refine keeps_of_eq (by with_reducible assumption) ?_
    | with_reducible refine keeps_of_eq3 (by with_reducible assumption) ?_
    | dsimp only

theorem keeps_answer {F : Kind → Prop} [May F .regs] [May F .running] [May F .kept] [May F .out] {r s : State} {x0 x1 : _} (h : Keeps F r s) : Keeps F r (answer x0 x1 s) := by
  unfold answer
  repeat' first
    | with_reducible assumption
    | intro _
    | with_reducible apply keeps_ite
    | with_reducible apply keeps_finalReply
    | with_reducible apply keeps_ite_snd
    | with_reducible apply keeps_foldl_snd
    | with_reducible apply keeps_foldl
    | split
    | dsimp -zeta only
    | with_reducible refine keeps_of_eq (by with_reducible assumption) ?_
    | with_reducible refine keeps_of_eq3 (by with_reducible assumption) ?_
    | dsimp only

theorem keeps_gate {F : Kind → Prop} [May F .regs] [May F .running] [May F .kept] [May F .out] {r s : State} {op phases len c run : _} (h : Keeps F r s) (hg : ∀ p t, Keeps F r t → Keeps F r (run p t)) :
    OutKeeps F r (gate op phases len c run s) := by
  unfold gate
  exact outKeeps_ite (outKeeps_next h) (outKeeps_ite (outKeeps_next (keeps_finalReply h)) (outKeeps_ite (outKeeps_next (keeps_finalReply h))
    (outKeeps_ite (outKeeps_next (keeps_badParam h)) (outKeeps_next (hg _ _ h)))))

theorem keeps_readyFor {F : Kind → Prop} [May F .free] [May F .regs] [May F .pairs] [May F .rows] [May F .doms] [May F .cals] [May F .hub] {r s : State} {k a : Nat} (h : Keeps F r s) : Keeps F r (readyFor k a s).2 := by
  induction k generalizing s with
  | zero => exact h
  | succ k ih =>
    unfold readyFor
    split
    · exact h
    · exact ih (keeps_wakeNow h)
    · exact h
    · exact h
    · exact h

theorem keeps_needs {F : Kind → Prop} [May F .free] [May F .regs] [May F .pairs] [May F .rows] [May F .doms] [May F .cals] [May F .hub] {r s : State} {as : List Nat} (h : Keeps F r s) : Keeps F r (needs as s).2 := by
  induction as generalizing s with
  | nil => exact h
  | cons a as ih =>
    unfold needs
    split
    · exact ih (keeps_of_eq (by assumption) (keeps_readyFor h))
    · exact keeps_of_eq (by assumption) (keeps_readyFor h)

theorem keeps_itemWithRegs {F : Kind → Prop} [May F .free] [May F .regs] [May F .pairs] [May F .rows] [May F .doms] [May F .cals] [May F .hub] {r s : State} {as go : _} (h : Keeps F r s) (hg : ∀ t, Keeps F r t → Keeps F r (go t)) :
    Keeps F r (itemWithRegs as go s).2 := by
  unfold itemWithRegs
  have h1 : Keeps F r (needs as s).2 := keeps_needs h
  generalize needs as s = q at h1 ⊢
  split
  · exact hg _ h1
  · exact h1

theorem keeps_withRegs {F : Kind → Prop} [May F .free] [May F .regs] [May F .pairs] [May F .rows] [May F .doms] [May F .cals] [May F .running] [May F .kept] [May F .hub] [May F .out] {r s : State} {p as go : _} (h : Keeps F r s) (hg : ∀ t, Keeps F r t → Keeps F r (go t)) : Keeps F r (withRegs p as go s) := by
  unfold withRegs
  split
  · exact hg _ (keeps_of_eq (by assumption) (keeps_needs h))
  · exact keeps_finalReply (keeps_of_eq (by assumption) (keeps_needs h))

theorem keeps_readWord {F : Kind → Prop} [May F .free] [May F .regs] [May F .shadows] [May F .core] {r s : State} {x0 : _} (h : Keeps F r s) : Keeps F r (readWord x0 s).2 := by
  show KeepsP F r _
  unfold readWord
  repeat' first
    | with_reducible assumption
    | intro _
    | with_reducible apply keepsP_mk
    | with_reducible apply keepsP_ite
    | with_reducible apply keeps_ite
    | with_reducible apply keeps_busRead
    | with_reducible apply keeps_ite_snd
    | with_reducible apply keeps_foldl_snd
    | with_reducible apply keeps_foldl
    | split
    | dsimp -zeta only
    | with_reducible refine keeps_of_eq (by with_reducible assumption) ?_
    | with_reducible refine keeps_of_eq3 (by with_reducible assumption) ?_
    | dsimp only

theorem keeps_readBytes {F : Kind → Prop} [May F .free] [May F .regs] [May F .shadows] [May F .core] {r s : State} {as : List Nat} (h : Keeps F r s) : Keeps F r (readBytes as s).2 := by
  induction as generalizing s with
  | nil => exact h
  | cons a as ih => exact ih (keeps_readWord h)

theorem keeps_answerRegs {F : Kind → Prop} [May F .free] [May F .regs] [May F .running] [May F .kept] [May F .shadows] [May F .core] [May F .out] {r s : State} {x0 x1 : _} (h : Keeps F r s) : Keeps F r (answerRegs x0 x1 s) := by
  unfold answerRegs
  repeat' first
    | with_reducible assumption
    | intro _
    | with_reducible apply keeps_ite
    | with_reducible apply keeps_readBytes
    | with_reducible apply keeps_answer
    | with_reducible apply keeps_ite_snd
    | with_reducible apply keeps_foldl_snd
    | with_reducible apply keeps_foldl
    | split
    | dsimp -zeta only
    | with_reducible refine keeps_of_eq (by with_reducible assumption) ?_
    | with_reducible refine keeps_of_eq3 (by with_reducible assumption) ?_
    | dsimp only

theorem keeps_readRegs {F : Kind → Prop} [May F .free] [May F .regs] [May F .pairs] [May F .rows] [May F .doms] [May F .cals] [May F .running] [May F .kept] [May F .shadows] [May F .core] [May F .hub] [May F .out] {r s : State} {x0 x1 : _} (h : Keeps F r s) : Keeps F r (readRegs x0 x1 s) := by
  unfold readRegs
  repeat' first
    | with_reducible assumption
    | intro _
    | with_reducible apply keeps_ite
    | with_reducible apply keeps_withRegs
    | with_reducible apply keeps_answerRegs
    | with_reducible apply keeps_ite_snd
    | with_reducible apply keeps_foldl_snd
    | with_reducible apply keeps_foldl
    | split
    | dsimp -zeta only
    | with_reducible refine keeps_of_eq (by with_reducible assumption) ?_
    | with_reducible refine keeps_of_eq3 (by with_reducible assumption) ?_
    | dsimp only

theorem keeps_writeWord {F : Kind → Prop} [May F .free] [May F .regs] [May F .ports] [May F .pairs] [May F .links] [May F .queues] [May F .hosts] [May F .lanes] [May F .laneOf] [May F .tbl] [May F .held] [May F .snr] [May F .erle] [May F .errs] [May F .sigma] [May F .noise] [May F .coef] [May F .seeds] [May F .banks] [May F .rows] [May F .tiles] [May F .diags] [May F .maps] [May F .traces] [May F .doms] [May F .cals] [May F .calRuns] [May F .running] [May F .kept] [May F .jobs] [May F .records] [May F .eyes] [May F .completions] [May F .claims] [May F .waiting] [May F .later] [May F .tests] [May F .mram] [May F .gbQueue] [May F .highs] [May F .core] [May F .hub] [May F .raised] [May F .out] {r s : State} {x0 x1 : _} (h : Keeps F r s) : Keeps F r (writeWord x0 x1 s) := by
  unfold writeWord
  repeat' first
    | with_reducible assumption
    | intro _
    | with_reducible apply keeps_ite
    | with_reducible apply keeps_busWrite
    | with_reducible apply keeps_ite_snd
    | with_reducible apply keeps_foldl_snd
    | with_reducible apply keeps_foldl
    | split
    | dsimp -zeta only
    | with_reducible refine keeps_of_eq (by with_reducible assumption) ?_
    | with_reducible refine keeps_of_eq3 (by with_reducible assumption) ?_
    | dsimp only

theorem keeps_putFields {F : Kind → Prop} [May F .free] [May F .regs] [May F .ports] [May F .pairs] [May F .links] [May F .queues] [May F .hosts] [May F .lanes] [May F .laneOf] [May F .tbl] [May F .held] [May F .snr] [May F .erle] [May F .errs] [May F .sigma] [May F .noise] [May F .coef] [May F .seeds] [May F .banks] [May F .rows] [May F .tiles] [May F .diags] [May F .maps] [May F .traces] [May F .doms] [May F .cals] [May F .calRuns] [May F .running] [May F .kept] [May F .jobs] [May F .records] [May F .eyes] [May F .completions] [May F .claims] [May F .waiting] [May F .later] [May F .tests] [May F .mram] [May F .gbQueue] [May F .highs] [May F .core] [May F .hub] [May F .raised] [May F .out] {r s : State} {x0 x1 : _} (h : Keeps F r s) : Keeps F r (putFields x0 x1 s) := by
  unfold putFields
  repeat' first
    | with_reducible assumption
    | intro _
    | with_reducible apply keeps_ite
    | with_reducible apply keeps_writeWord
    | with_reducible apply keeps_ite_snd
    | with_reducible apply keeps_foldl_snd
    | with_reducible apply keeps_foldl
    | split
    | dsimp -zeta only
    | with_reducible refine keeps_of_eq (by with_reducible assumption) ?_
    | with_reducible refine keeps_of_eq3 (by with_reducible assumption) ?_
    | dsimp only

theorem keeps_clearCounter {F : Kind → Prop} [May F .free] [May F .regs] [May F .ports] [May F .pairs] [May F .links] [May F .queues] [May F .hosts] [May F .lanes] [May F .laneOf] [May F .tbl] [May F .held] [May F .snr] [May F .erle] [May F .errs] [May F .sigma] [May F .noise] [May F .coef] [May F .seeds] [May F .banks] [May F .rows] [May F .tiles] [May F .diags] [May F .maps] [May F .traces] [May F .doms] [May F .cals] [May F .calRuns] [May F .running] [May F .kept] [May F .jobs] [May F .records] [May F .eyes] [May F .completions] [May F .claims] [May F .waiting] [May F .later] [May F .tests] [May F .mram] [May F .gbQueue] [May F .highs] [May F .core] [May F .hub] [May F .raised] [May F .out] {r s : State} {x0 : _} (h : Keeps F r s) : Keeps F r (clearCounter x0 s) := by
  unfold clearCounter
  repeat' first
    | with_reducible assumption
    | intro _
    | with_reducible apply keeps_ite
    | with_reducible apply keeps_writeWord
    | with_reducible apply keeps_ite_snd
    | with_reducible apply keeps_foldl_snd
    | with_reducible apply keeps_foldl
    | split
    | dsimp -zeta only
    | with_reducible refine keeps_of_eq (by with_reducible assumption) ?_
    | with_reducible refine keeps_of_eq3 (by with_reducible assumption) ?_
    | dsimp only

theorem keeps_doItems {F : Kind → Prop} {α : Type} {r s : State} {f : α → State → Nat × State} {xs : List α} {done : Nat} (h : Keeps F r s)
    (hf : ∀ x t, Keeps F r t → Keeps F r (f x t).2) : Keeps F r (doItems f xs done s).2.2 := by
  induction xs generalizing done s with
  | nil => exact h
  | cons x xs ih =>
    unfold doItems
    split
    · exact ih (keeps_of_eq (by assumption) (hf _ _ h))
    · exact keeps_of_eq (by assumption) (hf _ _ h)

theorem keeps_multi {F : Kind → Prop} [May F .regs] [May F .running] [May F .kept] [May F .out] {α : Type} {r s : State} {p : Pkt} {f : α → State → Nat × State} {xs : List α} (h : Keeps F r s)
    (hf : ∀ x t, Keeps F r t → Keeps F r (f x t).2) : Keeps F r (multi p f xs s) := by
  unfold multi
  exact keeps_finalReply (keeps_doItems h hf)

theorem keeps_wakeShown {F : Kind → Prop} [May F .regs] [May F .links] [May F .raised] [May F .out] {r s : State} {x0 x1 : _} (h : Keeps F r s) : Keeps F r (wakeShown x0 x1 s) := by
  unfold wakeShown
  repeat' first
    | with_reducible assumption
    | intro _
    | with_reducible apply keeps_ite
    | with_reducible apply keeps_showLink
    | with_reducible apply keeps_wakePort
    | with_reducible apply keeps_forEach
    | with_reducible apply keeps_ite_snd
    | with_reducible apply keeps_foldl_snd
    | with_reducible apply keeps_foldl
    | split
    | dsimp -zeta only
    | with_reducible refine keeps_of_eq (by with_reducible assumption) ?_
    | with_reducible refine keeps_of_eq3 (by with_reducible assumption) ?_
    | dsimp only

theorem keeps_grantWake {F : Kind → Prop} [May F .regs] [May F .links] [May F .raised] [May F .out] {r s : State} {x0 x1 : _} (h : Keeps F r s) : Keeps F r (grantWake x0 x1 s) := by
  unfold grantWake
  repeat' first
    | with_reducible assumption
    | intro _
    | with_reducible apply keeps_ite
    | with_reducible apply keeps_wakeShown
    | with_reducible apply keeps_ite_snd
    | with_reducible apply keeps_foldl_snd
    | with_reducible apply keeps_foldl
    | split
    | dsimp -zeta only
    | with_reducible refine keeps_of_eq (by with_reducible assumption) ?_
    | with_reducible refine keeps_of_eq3 (by with_reducible assumption) ?_
    | dsimp only

theorem keeps_withClaim {F : Kind → Prop} [May F .regs] [May F .links] [May F .running] [May F .kept] [May F .claims] [May F .waiting] [May F .hub] [May F .raised] [May F .out] {r s : State} {kind res byClaim p go : _} (h : Keeps F r s) (hg : ∀ n b t, Keeps F r t → Keeps F r (go n b t)) :
    Keeps F r (withClaim kind res byClaim p go s) := by
  unfold withClaim
  split
  · exact hg _ _ _ h
  · exact keeps_ite (hg _ _ _ (keeps_grantWake (keeps_takeClaim h))) (keeps_ite (keeps_finalReply (keeps_inc h))
      (keeps_ite (keeps_finalReply h) (keeps_interimReply (keeps_showClaims (keeps_upd_waiting h)))))

theorem keeps_stay {F : Kind → Prop} [May F .running] {r s : State} {x0 : _} (h : Keeps F r s) : Keeps F r (stay x0 s) := by
  unfold stay
  repeat' first
    | with_reducible assumption
    | intro _
    | with_reducible apply keeps_ite
    | with_reducible apply keeps_ite_snd
    | with_reducible apply keeps_foldl_snd
    | with_reducible apply keeps_foldl
    | split
    | dsimp -zeta only
    | with_reducible refine keeps_of_eq (by with_reducible assumption) ?_
    | with_reducible refine keeps_of_eq3 (by with_reducible assumption) ?_
    | dsimp only
    | with_reducible apply keeps_upd_running

theorem keeps_whenQual {F : Kind → Prop} [May F .running] {r s : State} {p go : _} (h : Keeps F r s) (hg : ∀ t, Keeps F r t → Keeps F r (go t)) : Keeps F r (whenQual p go s) := by
  unfold whenQual
  exact keeps_ite (hg _ h) (keeps_stay h)

theorem keeps_ignoredBy {F : Kind → Prop} [May F .regs] {r s : State} {f request : _} (h : Keeps F r s) (hg : ∀ t, Keeps F r t → Keeps F r (request t)) :
    Keeps F r (ignoredBy f request s).2 := by
  unfold ignoredBy
  exact keeps_setFld (hg _ (keeps_setFld h))

theorem keeps_longOnly {F : Kind → Prop} [May F .regs] [May F .running] [May F .kept] [May F .out] {r s : State} {p go : _} (h : Keeps F r s) (hg : ∀ t, Keeps F r t → Keeps F r (go t)) : Keeps F r (longOnly p go s) := by
  unfold longOnly
  exact keeps_ite (keeps_finalReply h) (hg _ h)

theorem keeps_acceptJob {F : Kind → Prop} [May F .regs] [May F .running] [May F .kept] [May F .jobs] [May F .hub] [May F .out] {r s : State} {x0 x1 x2 x3 x4 x5 : _} (h : Keeps F r s) : Keeps F r (acceptJob x0 x1 x2 x3 x4 x5 s).2 := by
  show KeepsP F r _
  unfold acceptJob
  repeat' first
    | with_reducible assumption
    | intro _
    | with_reducible apply keepsP_mk
    | with_reducible apply keepsP_ite
    | with_reducible apply keeps_ite
    | with_reducible apply keeps_beginJob
    | with_reducible apply keeps_answer
    | with_reducible apply keeps_ite_snd
    | with_reducible apply keeps_foldl_snd
    | with_reducible apply keeps_foldl
    | split
    | dsimp -zeta only
    | with_reducible refine keeps_of_eq (by with_reducible assumption) ?_
    | with_reducible refine keeps_of_eq3 (by with_reducible assumption) ?_
    | dsimp only

theorem keeps_stopSwap {F : Kind → Prop} [May F .regs] [May F .tiles] [May F .completions] [May F .claims] [May F .waiting] [May F .later] [May F .tests] [May F .raised] {r s : State} {x0 x1 : _} (h : Keeps F r s) : Keeps F r (stopSwap x0 x1 s) := by
  unfold stopSwap
  repeat' first
    | with_reducible assumption
    | intro _
    | with_reducible apply keeps_ite
    | with_reducible apply keeps_showBist
    | with_reducible apply keeps_abandonSwap
    | with_reducible apply keeps_endSwapJob
    | with_reducible apply keeps_modTile
    | with_reducible apply keeps_ite_snd
    | with_reducible apply keeps_foldl_snd
    | with_reducible apply keeps_foldl
    | split
    | dsimp -zeta only
    | with_reducible refine keeps_of_eq (by with_reducible assumption) ?_
    | with_reducible refine keeps_of_eq3 (by with_reducible assumption) ?_
    | dsimp only

theorem keeps_stopTest {F : Kind → Prop} [May F .regs] [May F .tiles] [May F .completions] [May F .claims] [May F .waiting] [May F .later] [May F .tests] [May F .raised] {r s : State} {x0 : _} (h : Keeps F r s) : Keeps F r (stopTest x0 s) := by
  unfold stopTest
  repeat' first
    | with_reducible assumption
    | intro _
    | with_reducible apply keeps_ite
    | with_reducible apply keeps_stopSwap
    | with_reducible apply keeps_setSliceState
    | with_reducible apply keeps_showBanks
    | with_reducible apply keeps_raise
    | with_reducible apply keeps_setBankState
    | with_reducible apply keeps_moveBank
    | with_reducible apply keeps_setFld
    | with_reducible apply keeps_endTest
    | with_reducible apply keeps_ite_snd
    | with_reducible apply keeps_foldl_snd
    | with_reducible apply keeps_foldl
    | split
    | dsimp -zeta only
    | with_reducible refine keeps_of_eq (by with_reducible assumption) ?_
    | with_reducible refine keeps_of_eq3 (by with_reducible assumption) ?_
    | dsimp only

theorem wf_dropJob (n : Nat) (m : SMap DiagSt) (h : SMap.wf (fun _ => DiagSt.reset) m = true) :
    SMap.wf (fun _ => DiagSt.reset) (m.filterMap (fun x =>
      if x.2.job = n then (let d : DiagSt := { x.2 with job := 0 }; if d = DiagSt.reset then none else some (x.1, d)) else some x)) = true := by
  refine SMap.wf_filterMap _ _ _ ?_ ?_ h
  · intro e e' he
    dsimp only at he
    split at he
    · split at he
      · cases he
      · cases he; rfl
    · cases he; rfl
  · intro e e' hn he
    dsimp only at he
    split at he
    · split at he
      · cases he
      · cases he; assumption
    · cases he; exact hn

theorem keeps_abortJob {F : Kind → Prop} [May F .regs] [May F .lanes] [May F .tiles] [May F .diags] [May F .cals] [May F .eyes] [May F .completions] [May F .claims] [May F .waiting] [May F .later] [May F .tests] [May F .raised] {r s : State} {x0 : _} (h : Keeps F r s) : Keeps F r (abortJob x0 s) := by
  unfold abortJob
  split
  · exact keeps_abortEye h
  · exact keeps_abortReflect h
  · exact keeps_finishJob (keeps_diags h (wf_dropJob _ _))
  · exact keeps_finishJob (keeps_modCal h)
  · split
    · exact keeps_stopSwap h
    · exact keeps_finishJob h
  all_goals repeat' first
    | with_reducible assumption
    | intro _
    | with_reducible apply keeps_ite
    | with_reducible apply keeps_abortEye
    | with_reducible apply keeps_abortReflect
    | with_reducible apply keeps_finishJob
    | with_reducible apply keeps_modCal
    | with_reducible apply keeps_stopSwap
    | with_reducible apply keeps_stopTest
    | with_reducible apply keeps_ite_snd
    | with_reducible apply keeps_foldl_snd
    | with_reducible apply keeps_foldl
    | split
    | dsimp -zeta only
    | with_reducible refine keeps_of_eq (by with_reducible assumption) ?_
    | with_reducible refine keeps_of_eq3 (by with_reducible assumption) ?_
    | dsimp only

theorem keeps_endUse {F : Kind → Prop} [May F .regs] [May F .lanes] [May F .tiles] [May F .diags] [May F .cals] [May F .eyes] [May F .completions] [May F .claims] [May F .waiting] [May F .later] [May F .tests] [May F .raised] {r s : State} {x0 : _} (h : Keeps F r s) : Keeps F r (endUse x0 s) := by
  unfold endUse
  repeat' first
    | with_reducible assumption
    | intro _
    | with_reducible apply keeps_ite
    | with_reducible apply keeps_abortJob
    | with_reducible apply keeps_stopTest
    | with_reducible apply keeps_abortReflect
    | with_reducible apply keeps_abortEye
    | with_reducible apply keeps_stopSwap
    | with_reducible apply keeps_setPrbs
    | with_reducible apply keeps_forEach
    | with_reducible apply keeps_ite_snd
    | with_reducible apply keeps_foldl_snd
    | with_reducible apply keeps_foldl
    | split
    | dsimp -zeta only
    | with_reducible refine keeps_of_eq (by with_reducible assumption) ?_
    | with_reducible refine keeps_of_eq3 (by with_reducible assumption) ?_
    | dsimp only

theorem keeps_releaseUse {F : Kind → Prop} [May F .regs] [May F .lanes] [May F .tiles] [May F .diags] [May F .cals] [May F .eyes] [May F .completions] [May F .claims] [May F .waiting] [May F .later] [May F .tests] [May F .raised] {r s : State} {x0 : _} (h : Keeps F r s) : Keeps F r (releaseUse x0 s) := by
  unfold releaseUse
  repeat' first
    | with_reducible assumption
    | intro _
    | with_reducible apply keeps_ite
    | with_reducible apply keeps_releaseClaim
    | with_reducible apply keeps_endUse
    | with_reducible apply keeps_ite_snd
    | with_reducible apply keeps_foldl_snd
    | with_reducible apply keeps_foldl
    | split
    | dsimp -zeta only
    | with_reducible refine keeps_of_eq (by with_reducible assumption) ?_
    | with_reducible refine keeps_of_eq3 (by with_reducible assumption) ?_
    | dsimp only

end Sys2Proof.Machine
end

