-- ==== Sys2Proof/Laws/KeepsCalCommands.lean ====
section
/-! SUPPORT. What the operations of Machine/CalCommands.lean keep. -/
set_option linter.unusedTactic false
set_option linter.unreachableTactic false
set_option linter.tactic.unusedName false
namespace Sys2Proof.Machine

theorem keeps_withItem {F : Kind → Prop} [May F .regs] [May F .running] [May F .kept] [May F .out] {r s : State} {p run : _} (h : Keeps F r s) (hg : ∀ a b t, Keeps F r t → Keeps F r (run a b t)) : Keeps F r (withItem p run s) := by
  unfold withItem
  exact keeps_ite (hg _ _ _ h) (keeps_badParam h)

theorem keeps_beginCal {F : Kind → Prop} [May F .regs] [May F .cals] [May F .running] [May F .kept] [May F .jobs] [May F .hub] [May F .out] {r s : State} {x0 x1 x2 : _} (h : Keeps F r s) : Keeps F r (beginCal x0 x1 x2 s) := by
  unfold beginCal
  repeat' first
    | with_reducible assumption
    | intro _
    | with_reducible apply keeps_ite
    | with_reducible apply keeps_acceptJob
    | with_reducible apply keeps_modCal
    | with_reducible apply keeps_ite_snd
    | with_reducible apply keeps_foldl_snd
    | with_reducible apply keeps_foldl
    | split
    | dsimp -zeta only
    | with_reducible refine keeps_of_eq (by with_reducible assumption) ?_
    | with_reducible refine keeps_of_eq3 (by with_reducible assumption) ?_
    | dsimp only

theorem keeps_execCalRun {F : Kind → Prop} [May F .regs] [May F .links] [May F .cals] [May F .running] [May F .kept] [May F .jobs] [May F .claims] [May F .waiting] [May F .hub] [May F .raised] [May F .out] {r s : State} {x0 : _} (h : Keeps F r s) : OutKeeps F r (execCalRun x0 s) := by
  unfold execCalRun
  repeat' first
    | with_reducible assumption
    | intro _
    | with_reducible apply outKeeps_next
    | with_reducible apply outKeeps_ite
    | with_reducible apply keeps_ite
    | with_reducible apply keeps_gate
    | with_reducible apply keeps_withItem
    | with_reducible apply keeps_longOnly
    | with_reducible apply keeps_withClaim
    | with_reducible apply keeps_beginCal
    | with_reducible apply keeps_ite_snd
    | with_reducible apply keeps_foldl_snd
    | with_reducible apply keeps_foldl
    | split
    | dsimp -zeta only
    | with_reducible refine keeps_of_eq (by with_reducible assumption) ?_
    | with_reducible refine keeps_of_eq3 (by with_reducible assumption) ?_
    | dsimp only

theorem keeps_execCalStatus {F : Kind → Prop} [May F .regs] [May F .running] [May F .kept] [May F .out] {r s : State} {x0 : _} (h : Keeps F r s) : OutKeeps F r (execCalStatus x0 s) := by
  unfold execCalStatus
  repeat' first
    | with_reducible assumption
    | intro _
    | with_reducible apply outKeeps_next
    | with_reducible apply outKeeps_ite
    | with_reducible apply keeps_ite
    | with_reducible apply keeps_gate
    | with_reducible apply keeps_withItem
    | with_reducible apply keeps_answer
    | with_reducible apply keeps_ite_snd
    | with_reducible apply keeps_foldl_snd
    | with_reducible apply keeps_foldl
    | split
    | dsimp -zeta only
    | with_reducible refine keeps_of_eq (by with_reducible assumption) ?_
    | with_reducible refine keeps_of_eq3 (by with_reducible assumption) ?_
    | dsimp only

theorem keeps_execCalCfg {F : Kind → Prop} [May F .free] [May F .regs] [May F .ports] [May F .pairs] [May F .links] [May F .queues] [May F .hosts] [May F .lanes] [May F .laneOf] [May F .tbl] [May F .held] [May F .snr] [May F .erle] [May F .errs] [May F .sigma] [May F .noise] [May F .coef] [May F .seeds] [May F .banks] [May F .rows] [May F .tiles] [May F .diags] [May F .maps] [May F .traces] [May F .doms] [May F .cals] [May F .calRuns] [May F .running] [May F .kept] [May F .jobs] [May F .records] [May F .eyes] [May F .completions] [May F .claims] [May F .waiting] [May F .later] [May F .tests] [May F .mram] [May F .gbQueue] [May F .highs] [May F .core] [May F .hub] [May F .raised] [May F .out] {r s : State} {x0 : _} (h : Keeps F r s) : OutKeeps F r (execCalCfg x0 s) := by
  unfold execCalCfg
  repeat' first
    | with_reducible assumption
    | intro _
    | with_reducible apply outKeeps_next
    | with_reducible apply outKeeps_ite
    | with_reducible apply keeps_ite
    | with_reducible apply keeps_gate
    | with_reducible apply keeps_badParam
    | with_reducible apply keeps_putFields
    | with_reducible apply keeps_answer
    | with_reducible apply keeps_ite_snd
    | with_reducible apply keeps_foldl_snd
    | with_reducible apply keeps_foldl
    | split
    | dsimp -zeta only
    | with_reducible refine keeps_of_eq (by with_reducible assumption) ?_
    | with_reducible refine keeps_of_eq3 (by with_reducible assumption) ?_
    | dsimp only

theorem keeps_beginCalSave {F : Kind → Prop} [May F .free] [May F .regs] [May F .calSaved] [May F .running] [May F .kept] [May F .jobs] [May F .completions] [May F .claims] [May F .waiting] [May F .later] [May F .mram] [May F .hub] [May F .raised] [May F .out] {r s : State} {x0 x1 x2 x3 : _} (h : Keeps F r s) : Keeps F r (beginCalSave x0 x1 x2 x3 s) := by
  unfold beginCalSave
  repeat' first
    | with_reducible assumption
    | intro _
    | with_reducible apply keeps_ite
    | with_reducible apply keeps_acceptJob
    | with_reducible apply keeps_draw
    | with_reducible apply keeps_writePartition
    | with_reducible apply keeps_nvFails
    | with_reducible apply keeps_finishJob
    | with_reducible apply keeps_ite_snd
    | with_reducible apply keeps_foldl_snd
    | with_reducible apply keeps_foldl
    | split
    | dsimp -zeta only
    | with_reducible refine keeps_of_eq (by with_reducible assumption) ?_
    | with_reducible refine keeps_of_eq3 (by with_reducible assumption) ?_
    | dsimp only
    | with_reducible apply keeps_upd_calSaved

theorem keeps_execCalSave {F : Kind → Prop} [May F .free] [May F .regs] [May F .links] [May F .calSaved] [May F .running] [May F .kept] [May F .jobs] [May F .completions] [May F .claims] [May F .waiting] [May F .later] [May F .mram] [May F .hub] [May F .raised] [May F .out] {r s : State} {x0 x1 : _} (h : Keeps F r s) : OutKeeps F r (execCalSave x0 x1 s) := by
  unfold execCalSave
  repeat' first
    | with_reducible assumption
    | intro _
    | with_reducible apply outKeeps_next
    | with_reducible apply outKeeps_ite
    | with_reducible apply keeps_ite
    | with_reducible apply keeps_gate
    | with_reducible apply keeps_longOnly
    | with_reducible apply keeps_whenQual
    | with_reducible apply keeps_withClaim
    | with_reducible apply keeps_beginCalSave
    | with_reducible apply keeps_ite_snd
    | with_reducible apply keeps_foldl_snd
    | with_reducible apply keeps_foldl
    | split
    | dsimp -zeta only
    | with_reducible refine keeps_of_eq (by with_reducible assumption) ?_
    | with_reducible refine keeps_of_eq3 (by with_reducible assumption) ?_
    | dsimp only

theorem keeps_eeiItem {F : Kind → Prop} [May F .free] [May F .regs] [May F .ports] [May F .pairs] [May F .links] [May F .queues] [May F .hosts] [May F .lanes] [May F .laneOf] [May F .tbl] [May F .held] [May F .snr] [May F .erle] [May F .errs] [May F .sigma] [May F .noise] [May F .coef] [May F .seeds] [May F .banks] [May F .rows] [May F .tiles] [May F .diags] [May F .maps] [May F .traces] [May F .doms] [May F .cals] [May F .calRuns] [May F .running] [May F .kept] [May F .jobs] [May F .records] [May F .eyes] [May F .completions] [May F .claims] [May F .waiting] [May F .later] [May F .tests] [May F .mram] [May F .gbQueue] [May F .highs] [May F .core] [May F .hub] [May F .raised] [May F .out] {r s : State} {p n : _} (h : Keeps F r s) : Keeps F r (eeiItem p n s).2 :=
  keeps_itemWithRegs h (fun _ k => keeps_putFields (keeps_putFields k))

theorem keeps_execEeiSet {F : Kind → Prop} [May F .free] [May F .regs] [May F .ports] [May F .pairs] [May F .links] [May F .queues] [May F .hosts] [May F .lanes] [May F .laneOf] [May F .tbl] [May F .held] [May F .snr] [May F .erle] [May F .errs] [May F .sigma] [May F .noise] [May F .coef] [May F .seeds] [May F .banks] [May F .rows] [May F .tiles] [May F .diags] [May F .maps] [May F .traces] [May F .doms] [May F .cals] [May F .calRuns] [May F .running] [May F .kept] [May F .jobs] [May F .records] [May F .eyes] [May F .completions] [May F .claims] [May F .waiting] [May F .later] [May F .tests] [May F .mram] [May F .gbQueue] [May F .highs] [May F .core] [May F .hub] [May F .raised] [May F .out] {r s : State} {x0 : _} (h : Keeps F r s) : OutKeeps F r (execEeiSet x0 s) := by
  unfold execEeiSet
  repeat' first
    | with_reducible assumption
    | intro _
    | with_reducible apply outKeeps_next
    | with_reducible apply outKeeps_ite
    | with_reducible apply keeps_ite
    | with_reducible apply keeps_gate
    | with_reducible apply keeps_badParam
    | with_reducible apply keeps_multi
    | with_reducible apply keeps_eeiItem
    | with_reducible apply keeps_ite_snd
    | with_reducible apply keeps_foldl_snd
    | with_reducible apply keeps_foldl
    | split
    | dsimp -zeta only
    | with_reducible refine keeps_of_eq (by with_reducible assumption) ?_
    | with_reducible refine keeps_of_eq3 (by with_reducible assumption) ?_
    | dsimp only

theorem keeps_execEeiWake {F : Kind → Prop} [May F .regs] [May F .links] [May F .running] [May F .kept] [May F .raised] [May F .out] {r s : State} {x0 : _} (h : Keeps F r s) : OutKeeps F r (execEeiWake x0 s) := by
  unfold execEeiWake
  repeat' first
    | with_reducible assumption
    | intro _
    | with_reducible apply outKeeps_next
    | with_reducible apply outKeeps_ite
    | with_reducible apply keeps_ite
    | with_reducible apply keeps_gate
    | with_reducible apply keeps_showLink
    | with_reducible apply keeps_wakeCause
    | with_reducible apply keeps_answer
    | with_reducible apply keeps_forEach
    | with_reducible apply keeps_ite_snd
    | with_reducible apply keeps_foldl_snd
    | with_reducible apply keeps_foldl
    | split
    | dsimp -zeta only
    | with_reducible refine keeps_of_eq (by with_reducible assumption) ?_
    | with_reducible refine keeps_of_eq3 (by with_reducible assumption) ?_
    | dsimp only

theorem keeps_execPwrDomain {F : Kind → Prop} [May F .free] [May F .regs] [May F .ports] [May F .pairs] [May F .links] [May F .queues] [May F .hosts] [May F .lanes] [May F .laneOf] [May F .tbl] [May F .held] [May F .snr] [May F .erle] [May F .errs] [May F .sigma] [May F .noise] [May F .coef] [May F .seeds] [May F .banks] [May F .rows] [May F .tiles] [May F .diags] [May F .maps] [May F .traces] [May F .doms] [May F .cals] [May F .calRuns] [May F .running] [May F .kept] [May F .jobs] [May F .records] [May F .eyes] [May F .completions] [May F .claims] [May F .waiting] [May F .later] [May F .tests] [May F .mram] [May F .gbQueue] [May F .highs] [May F .core] [May F .hub] [May F .raised] [May F .out] {r s : State} {x0 : _} (h : Keeps F r s) : OutKeeps F r (execPwrDomain x0 s) := by
  unfold execPwrDomain
  repeat' first
    | with_reducible assumption
    | intro _
    | with_reducible apply outKeeps_next
    | with_reducible apply outKeeps_ite
    | with_reducible apply keeps_ite
    | with_reducible apply keeps_gate
    | with_reducible apply keeps_badParam
    | with_reducible apply keeps_ignoredBy
    | with_reducible apply keeps_writeWord
    | with_reducible apply keeps_answer
    | with_reducible apply keeps_ite_snd
    | with_reducible apply keeps_foldl_snd
    | with_reducible apply keeps_foldl
    | split
    | dsimp -zeta only
    | with_reducible refine keeps_of_eq (by with_reducible assumption) ?_
    | with_reducible refine keeps_of_eq3 (by with_reducible assumption) ?_
    | dsimp only

theorem keeps_execPwrAvs {F : Kind → Prop} [May F .free] [May F .regs] [May F .ports] [May F .pairs] [May F .links] [May F .queues] [May F .hosts] [May F .lanes] [May F .laneOf] [May F .tbl] [May F .held] [May F .snr] [May F .erle] [May F .errs] [May F .sigma] [May F .noise] [May F .coef] [May F .seeds] [May F .banks] [May F .rows] [May F .tiles] [May F .diags] [May F .maps] [May F .traces] [May F .doms] [May F .cals] [May F .calRuns] [May F .running] [May F .kept] [May F .jobs] [May F .records] [May F .eyes] [May F .completions] [May F .claims] [May F .waiting] [May F .later] [May F .tests] [May F .mram] [May F .gbQueue] [May F .shadows] [May F .highs] [May F .core] [May F .hub] [May F .raised] [May F .out] {r s : State} {x0 : _} (h : Keeps F r s) : OutKeeps F r (execPwrAvs x0 s) := by
  unfold execPwrAvs
  repeat' first
    | with_reducible assumption
    | intro _
    | with_reducible apply outKeeps_next
    | with_reducible apply outKeeps_ite
    | with_reducible apply keeps_ite
    | with_reducible apply keeps_gate
    | with_reducible apply keeps_badParam
    | with_reducible apply keeps_readBytes
    | with_reducible apply keeps_putFields
    | with_reducible apply keeps_answer
    | with_reducible apply keeps_ite_snd
    | with_reducible apply keeps_foldl_snd
    | with_reducible apply keeps_foldl
    | split
    | dsimp -zeta only
    | with_reducible refine keeps_of_eq (by with_reducible assumption) ?_
    | with_reducible refine keeps_of_eq3 (by with_reducible assumption) ?_
    | dsimp only

theorem keeps_execPwrStatus {F : Kind → Prop} [May F .free] [May F .regs] [May F .running] [May F .kept] [May F .shadows] [May F .core] [May F .out] {r s : State} {x0 : _} (h : Keeps F r s) : OutKeeps F r (execPwrStatus x0 s) := by
  unfold execPwrStatus
  repeat' first
    | with_reducible assumption
    | intro _
    | with_reducible apply outKeeps_next
    | with_reducible apply outKeeps_ite
    | with_reducible apply keeps_ite
    | with_reducible apply keeps_gate
    | with_reducible apply keeps_answerRegs
    | with_reducible apply keeps_ite_snd
    | with_reducible apply keeps_foldl_snd
    | with_reducible apply keeps_foldl
    | split
    | dsimp -zeta only
    | with_reducible refine keeps_of_eq (by with_reducible assumption) ?_
    | with_reducible refine keeps_of_eq3 (by with_reducible assumption) ?_
    | dsimp only

end Sys2Proof.Machine
end

