-- ==== Sys2Proof/Laws/KeepsCncCommands.lean ====
section
/-! SUPPORT. What the operations of Machine/CncCommands.lean keep. -/
set_option linter.unusedTactic false
set_option linter.unreachableTactic false
set_option linter.tactic.unusedName false
namespace Sys2Proof.Machine

theorem keeps_beginClaim {F : Kind → Prop} [May F .regs] [May F .running] [May F .kept] [May F .out] {r s : State} {x0 x1 x2 : _} (h : Keeps F r s) : Keeps F r (beginClaim x0 x1 x2 s) := by
  unfold beginClaim
  repeat' first
    | with_reducible assumption
    | intro _
    | with_reducible apply keeps_ite
    | with_reducible apply keeps_answer
    | with_reducible apply keeps_ite_snd
    | with_reducible apply keeps_foldl_snd
    | with_reducible apply keeps_foldl
    | split
    | dsimp -zeta only
    | with_reducible refine keeps_of_eq (by with_reducible assumption) ?_
    | with_reducible refine keeps_of_eq3 (by with_reducible assumption) ?_
    | dsimp only

theorem keeps_execCncClaim {F : Kind → Prop} [May F .regs] [May F .links] [May F .running] [May F .kept] [May F .claims] [May F .waiting] [May F .hub] [May F .raised] [May F .out] {r s : State} {x0 : _} (h : Keeps F r s) : OutKeeps F r (execCncClaim x0 s) := by
  unfold execCncClaim
  repeat' first
    | with_reducible assumption
    | intro _
    | with_reducible apply outKeeps_next
    | with_reducible apply outKeeps_ite
    | with_reducible apply keeps_ite
    | with_reducible apply keeps_gate
    | with_reducible apply keeps_badParam
    | with_reducible apply keeps_withClaim
    | with_reducible apply keeps_beginClaim
    | with_reducible apply keeps_ite_snd
    | with_reducible apply keeps_foldl_snd
    | with_reducible apply keeps_foldl
    | split
    | dsimp -zeta only
    | with_reducible refine keeps_of_eq (by with_reducible assumption) ?_
    | with_reducible refine keeps_of_eq3 (by with_reducible assumption) ?_
    | dsimp only

theorem keeps_execCncRelease {F : Kind → Prop} [May F .regs] [May F .lanes] [May F .tiles] [May F .diags] [May F .cals] [May F .running] [May F .kept] [May F .eyes] [May F .completions] [May F .claims] [May F .waiting] [May F .later] [May F .tests] [May F .raised] [May F .out] {r s : State} {x0 : _} (h : Keeps F r s) : OutKeeps F r (execCncRelease x0 s) := by
  unfold execCncRelease
  repeat' first
    | with_reducible assumption
    | intro _
    | with_reducible apply outKeeps_next
    | with_reducible apply outKeeps_ite
    | with_reducible apply keeps_ite
    | with_reducible apply keeps_gate
    | with_reducible apply keeps_answer
    | with_reducible apply keeps_releaseUse
    | with_reducible apply keeps_badParam
    | with_reducible apply keeps_ite_snd
    | with_reducible apply keeps_foldl_snd
    | with_reducible apply keeps_foldl
    | split
    | dsimp -zeta only
    | with_reducible refine keeps_of_eq (by with_reducible assumption) ?_
    | with_reducible refine keeps_of_eq3 (by with_reducible assumption) ?_
    | dsimp only

theorem keeps_execCncList {F : Kind → Prop} [May F .regs] [May F .running] [May F .kept] [May F .out] {r s : State} {x0 : _} (h : Keeps F r s) : OutKeeps F r (execCncList x0 s) := by
  unfold execCncList
  repeat' first
    | with_reducible assumption
    | intro _
    | with_reducible apply outKeeps_next
    | with_reducible apply outKeeps_ite
    | with_reducible apply keeps_ite
    | with_reducible apply keeps_gate
    | with_reducible apply keeps_badParam
    | with_reducible apply keeps_answer
    | with_reducible apply keeps_ite_snd
    | with_reducible apply keeps_foldl_snd
    | with_reducible apply keeps_foldl
    | split
    | dsimp -zeta only
    | with_reducible refine keeps_of_eq (by with_reducible assumption) ?_
    | with_reducible refine keeps_of_eq3 (by with_reducible assumption) ?_
    | dsimp only

theorem keeps_beginSwap {F : Kind → Prop} [May F .regs] [May F .tiles] [May F .running] [May F .kept] [May F .jobs] [May F .claims] [May F .waiting] [May F .later] [May F .tests] [May F .hub] [May F .out] {r s : State} {x0 x1 x2 : _} (h : Keeps F r s) : Keeps F r (beginSwap x0 x1 x2 s) := by
  unfold beginSwap
  repeat' first
    | with_reducible assumption
    | intro _
    | with_reducible apply keeps_ite
    | with_reducible apply keeps_acceptJob
    | with_reducible apply keeps_addTest
    | with_reducible apply keeps_startSwap
    | with_reducible apply keeps_badParam
    | with_reducible apply keeps_releaseClaim
    | with_reducible apply keeps_ite_snd
    | with_reducible apply keeps_foldl_snd
    | with_reducible apply keeps_foldl
    | split
    | dsimp -zeta only
    | with_reducible refine keeps_of_eq (by with_reducible assumption) ?_
    | with_reducible refine keeps_of_eq3 (by with_reducible assumption) ?_
    | dsimp only

theorem keeps_execSliceSwap {F : Kind → Prop} [May F .regs] [May F .links] [May F .tiles] [May F .running] [May F .kept] [May F .jobs] [May F .claims] [May F .waiting] [May F .later] [May F .tests] [May F .hub] [May F .raised] [May F .out] {r s : State} {x0 : _} (h : Keeps F r s) : OutKeeps F r (execSliceSwap x0 s) := by
  unfold execSliceSwap
  repeat' first
    | with_reducible assumption
    | intro _
    | with_reducible apply outKeeps_next
    | with_reducible apply outKeeps_ite
    | with_reducible apply keeps_ite
    | with_reducible apply keeps_gate
    | with_reducible apply keeps_badParam
    | with_reducible apply keeps_longOnly
    | with_reducible apply keeps_withClaim
    | with_reducible apply keeps_beginSwap
    | with_reducible apply keeps_ite_snd
    | with_reducible apply keeps_foldl_snd
    | with_reducible apply keeps_foldl
    | split
    | dsimp -zeta only
    | with_reducible refine keeps_of_eq (by with_reducible assumption) ?_
    | with_reducible refine keeps_of_eq3 (by with_reducible assumption) ?_
    | dsimp only

theorem keeps_beginBist {F : Kind → Prop} [May F .regs] [May F .links] [May F .tiles] [May F .running] [May F .kept] [May F .jobs] [May F .tests] [May F .hub] [May F .out] {r s : State} {x0 x1 x2 : _} (h : Keeps F r s) : Keeps F r (beginBist x0 x1 x2 s) := by
  unfold beginBist
  repeat' first
    | with_reducible assumption
    | intro _
    | with_reducible apply keeps_ite
    | with_reducible apply keeps_acceptJob
    | with_reducible apply keeps_beginUnit
    | with_reducible apply keeps_ite_snd
    | with_reducible apply keeps_foldl_snd
    | with_reducible apply keeps_foldl
    | split
    | dsimp -zeta only
    | with_reducible refine keeps_of_eq (by with_reducible assumption) ?_
    | with_reducible refine keeps_of_eq3 (by with_reducible assumption) ?_
    | dsimp only

theorem keeps_execBistRun {F : Kind → Prop} [May F .regs] [May F .links] [May F .tiles] [May F .running] [May F .kept] [May F .jobs] [May F .claims] [May F .waiting] [May F .tests] [May F .hub] [May F .raised] [May F .out] {r s : State} {x0 : _} (h : Keeps F r s) : OutKeeps F r (execBistRun x0 s) := by
  unfold execBistRun
  repeat' first
    | with_reducible assumption
    | intro _
    | with_reducible apply outKeeps_next
    | with_reducible apply outKeeps_ite
    | with_reducible apply keeps_ite
    | with_reducible apply keeps_gate
    | with_reducible apply keeps_badParam
    | with_reducible apply keeps_longOnly
    | with_reducible apply keeps_withClaim
    | with_reducible apply keeps_beginBist
    | with_reducible apply keeps_ite_snd
    | with_reducible apply keeps_foldl_snd
    | with_reducible apply keeps_foldl
    | split
    | dsimp -zeta only
    | with_reducible refine keeps_of_eq (by with_reducible assumption) ?_
    | with_reducible refine keeps_of_eq3 (by with_reducible assumption) ?_
    | dsimp only

theorem keeps_execBistCfg {F : Kind → Prop} [May F .free] [May F .regs] [May F .ports] [May F .pairs] [May F .links] [May F .queues] [May F .hosts] [May F .lanes] [May F .laneOf] [May F .tbl] [May F .held] [May F .snr] [May F .erle] [May F .errs] [May F .sigma] [May F .noise] [May F .coef] [May F .seeds] [May F .banks] [May F .rows] [May F .tiles] [May F .diags] [May F .maps] [May F .traces] [May F .doms] [May F .cals] [May F .calRuns] [May F .running] [May F .kept] [May F .jobs] [May F .records] [May F .eyes] [May F .completions] [May F .claims] [May F .waiting] [May F .later] [May F .tests] [May F .mram] [May F .gbQueue] [May F .highs] [May F .core] [May F .hub] [May F .raised] [May F .out] {r s : State} {x0 : _} (h : Keeps F r s) : OutKeeps F r (execBistCfg x0 s) := by
  unfold execBistCfg
  repeat' first
    | with_reducible assumption
    | intro _
    | with_reducible apply outKeeps_next
    | with_reducible apply outKeeps_ite
    | with_reducible apply keeps_ite
    | with_reducible apply keeps_gate
    | with_reducible apply keeps_badParam
    | with_reducible apply keeps_putFields
    | with_reducible apply keeps_answer
    | with_reducible apply keeps_ite_snd
    | with_reducible apply keeps_foldl_snd
    | with_reducible apply keeps_foldl
    | split
    | dsimp -zeta only
    | with_reducible refine keeps_of_eq (by with_reducible assumption) ?_
    | with_reducible refine keeps_of_eq3 (by with_reducible assumption) ?_
    | dsimp only

theorem keeps_execPorterSwitch {F : Kind → Prop} [May F .free] [May F .regs] [May F .ports] [May F .pairs] [May F .links] [May F .queues] [May F .hosts] [May F .lanes] [May F .laneOf] [May F .tbl] [May F .held] [May F .snr] [May F .erle] [May F .errs] [May F .sigma] [May F .noise] [May F .coef] [May F .seeds] [May F .banks] [May F .rows] [May F .tiles] [May F .diags] [May F .maps] [May F .traces] [May F .doms] [May F .cals] [May F .calRuns] [May F .running] [May F .kept] [May F .jobs] [May F .records] [May F .eyes] [May F .completions] [May F .claims] [May F .waiting] [May F .later] [May F .tests] [May F .mram] [May F .gbQueue] [May F .highs] [May F .core] [May F .hub] [May F .raised] [May F .out] [MayReset F] {r s : State} {x0 : _} (h : Keeps F r s) : OutKeeps F r (execPorterSwitch x0 s) := by
  unfold execPorterSwitch
  repeat' first
    | with_reducible assumption
    | intro _
    | with_reducible apply outKeeps_next
    | with_reducible apply outKeeps_ite
    | with_reducible apply keeps_ite
    | with_reducible apply keeps_gate
    | with_reducible apply keeps_takeover
    | with_reducible apply keeps_answer
    | with_reducible apply keeps_ite_snd
    | with_reducible apply keeps_foldl_snd
    | with_reducible apply keeps_foldl
    | split
    | dsimp -zeta only
    | with_reducible refine keeps_of_eq (by with_reducible assumption) ?_
    | with_reducible refine keeps_of_eq3 (by with_reducible assumption) ?_
    | dsimp only

end Sys2Proof.Machine
end

