-- ==== Sys2Proof/Laws/KeepsDiagCommands.lean ====
section
/-! SUPPORT. What the operations of Machine/DiagCommands.lean keep. -/
set_option linter.unusedTactic false
set_option linter.unreachableTactic false
set_option linter.tactic.unusedName false
namespace Sys2Proof.Machine

theorem keeps_withGpair {F : Kind → Prop} [May F .regs] [May F .running] [May F .kept] [May F .out] {r s : State} {p run : _} (h : Keeps F r s) (hg : ∀ a b t, Keeps F r t → Keeps F r (run a b t)) : Keeps F r (withGpair p run s) := by
  unfold withGpair
  exact keeps_ite (keeps_badParam h) (hg _ _ _ h)

theorem keeps_beginReflect {F : Kind → Prop} [May F .free] [May F .regs] [May F .ports] [May F .pairs] [May F .links] [May F .queues] [May F .hosts] [May F .lanes] [May F .laneOf] [May F .tbl] [May F .held] [May F .snr] [May F .erle] [May F .errs] [May F .sigma] [May F .noise] [May F .coef] [May F .seeds] [May F .banks] [May F .rows] [May F .tiles] [May F .diags] [May F .maps] [May F .traces] [May F .doms] [May F .cals] [May F .calRuns] [May F .running] [May F .kept] [May F .jobs] [May F .records] [May F .eyes] [May F .completions] [May F .claims] [May F .waiting] [May F .later] [May F .tests] [May F .mram] [May F .gbQueue] [May F .highs] [May F .core] [May F .hub] [May F .raised] [May F .out] {r s : State} {x0 x1 x2 : _} (h : Keeps F r s) : Keeps F r (beginReflect x0 x1 x2 s) := by
  unfold beginReflect
  repeat' first
    | with_reducible assumption
    | intro _
    | with_reducible apply keeps_ite
    | with_reducible apply keeps_acceptJob
    | with_reducible apply keeps_putFields
    | with_reducible apply keeps_writeWord
    | with_reducible apply keeps_finishJob
    | with_reducible apply keeps_modDiag
    | with_reducible apply keeps_ite_snd
    | with_reducible apply keeps_foldl_snd
    | with_reducible apply keeps_foldl
    | split
    | dsimp -zeta only
    | with_reducible refine keeps_of_eq (by with_reducible assumption) ?_
    | with_reducible refine keeps_of_eq3 (by with_reducible assumption) ?_
    | dsimp only

theorem keeps_execDiagReflect {F : Kind → Prop} [May F .free] [May F .regs] [May F .ports] [May F .pairs] [May F .links] [May F .queues] [May F .hosts] [May F .lanes] [May F .laneOf] [May F .tbl] [May F .held] [May F .snr] [May F .erle] [May F .errs] [May F .sigma] [May F .noise] [May F .coef] [May F .seeds] [May F .banks] [May F .rows] [May F .tiles] [May F .diags] [May F .maps] [May F .traces] [May F .doms] [May F .cals] [May F .calRuns] [May F .running] [May F .kept] [May F .jobs] [May F .records] [May F .eyes] [May F .completions] [May F .claims] [May F .waiting] [May F .later] [May F .tests] [May F .mram] [May F .gbQueue] [May F .highs] [May F .core] [May F .hub] [May F .raised] [May F .out] {r s : State} {x0 : _} (h : Keeps F r s) : OutKeeps F r (execDiagReflect x0 s) := by
  unfold execDiagReflect
  repeat' first
    | with_reducible assumption
    | intro _
    | with_reducible apply outKeeps_next
    | with_reducible apply outKeeps_ite
    | with_reducible apply keeps_ite
    | with_reducible apply keeps_gate
    | with_reducible apply keeps_withGpair
    | with_reducible apply keeps_badParam
    | with_reducible apply keeps_longOnly
    | with_reducible apply keeps_withRegs
    | with_reducible apply keeps_withClaim
    | with_reducible apply keeps_beginReflect
    | with_reducible apply keeps_ite_snd
    | with_reducible apply keeps_foldl_snd
    | with_reducible apply keeps_foldl
    | split
    | dsimp -zeta only
    | with_reducible refine keeps_of_eq (by with_reducible assumption) ?_
    | with_reducible refine keeps_of_eq3 (by with_reducible assumption) ?_
    | dsimp only

theorem keeps_execDiagResult {F : Kind → Prop} [May F .free] [May F .regs] [May F .pairs] [May F .rows] [May F .doms] [May F .cals] [May F .running] [May F .kept] [May F .shadows] [May F .core] [May F .hub] [May F .out] {r s : State} {x0 : _} (h : Keeps F r s) : OutKeeps F r (execDiagResult x0 s) := by
  unfold execDiagResult
  repeat' first
    | with_reducible assumption
    | intro _
    | with_reducible apply outKeeps_next
    | with_reducible apply outKeeps_ite
    | with_reducible apply keeps_ite
    | with_reducible apply keeps_gate
    | with_reducible apply keeps_withGpair
    | with_reducible apply keeps_readRegs
    | with_reducible apply keeps_ite_snd
    | with_reducible apply keeps_foldl_snd
    | with_reducible apply keeps_foldl
    | split
    | dsimp -zeta only
    | with_reducible refine keeps_of_eq (by with_reducible assumption) ?_
    | with_reducible refine keeps_of_eq3 (by with_reducible assumption) ?_
    | dsimp only

theorem keeps_startMapsRun {F : Kind → Prop} [May F .free] [May F .regs] [May F .ports] [May F .pairs] [May F .links] [May F .queues] [May F .hosts] [May F .lanes] [May F .laneOf] [May F .tbl] [May F .held] [May F .snr] [May F .erle] [May F .errs] [May F .sigma] [May F .noise] [May F .coef] [May F .seeds] [May F .banks] [May F .rows] [May F .tiles] [May F .diags] [May F .maps] [May F .traces] [May F .doms] [May F .cals] [May F .calRuns] [May F .running] [May F .kept] [May F .jobs] [May F .records] [May F .eyes] [May F .completions] [May F .claims] [May F .waiting] [May F .later] [May F .tests] [May F .mram] [May F .gbQueue] [May F .highs] [May F .core] [May F .hub] [May F .raised] [May F .out] {r s : State} {x0 x1 : _} (h : Keeps F r s) : Keeps F r (startMapsRun x0 x1 s) := by
  unfold startMapsRun
  repeat' first
    | with_reducible assumption
    | intro _
    | with_reducible apply keeps_ite
    | with_reducible apply keeps_writeWord
    | with_reducible apply keeps_modDiag
    | with_reducible apply keeps_ite_snd
    | with_reducible apply keeps_foldl_snd
    | with_reducible apply keeps_foldl
    | split
    | dsimp -zeta only
    | with_reducible refine keeps_of_eq (by with_reducible assumption) ?_
    | with_reducible refine keeps_of_eq3 (by with_reducible assumption) ?_
    | dsimp only
    | with_reducible apply keeps_upd_completions

theorem keeps_execDiagMaps {F : Kind → Prop} [May F .free] [May F .regs] [May F .ports] [May F .pairs] [May F .links] [May F .queues] [May F .hosts] [May F .lanes] [May F .laneOf] [May F .tbl] [May F .held] [May F .snr] [May F .erle] [May F .errs] [May F .sigma] [May F .noise] [May F .coef] [May F .seeds] [May F .banks] [May F .rows] [May F .tiles] [May F .diags] [May F .maps] [May F .traces] [May F .doms] [May F .cals] [May F .calRuns] [May F .running] [May F .kept] [May F .jobs] [May F .records] [May F .eyes] [May F .completions] [May F .claims] [May F .waiting] [May F .later] [May F .tests] [May F .mram] [May F .gbQueue] [May F .highs] [May F .core] [May F .hub] [May F .raised] [May F .out] {r s : State} {x0 : _} (h : Keeps F r s) : OutKeeps F r (execDiagMaps x0 s) := by
  unfold execDiagMaps
  repeat' first
    | with_reducible assumption
    | intro _
    | with_reducible apply outKeeps_next
    | with_reducible apply outKeeps_ite
    | with_reducible apply keeps_ite
    | with_reducible apply keeps_gate
    | with_reducible apply keeps_longOnly
    | with_reducible apply keeps_withRegs
    | with_reducible apply keeps_acceptJob
    | with_reducible apply keeps_finishJob
    | with_reducible apply keeps_startMapsRun
    | with_reducible apply keeps_forEach
    | with_reducible apply keeps_ite_snd
    | with_reducible apply keeps_foldl_snd
    | with_reducible apply keeps_foldl
    | split
    | dsimp -zeta only
    | with_reducible refine keeps_of_eq (by with_reducible assumption) ?_
    | with_reducible refine keeps_of_eq3 (by with_reducible assumption) ?_
    | dsimp only

theorem keeps_execDiagAbort {F : Kind → Prop} [May F .free] [May F .regs] [May F .pairs] [May F .rows] [May F .diags] [May F .doms] [May F .cals] [May F .running] [May F .kept] [May F .completions] [May F .claims] [May F .waiting] [May F .later] [May F .hub] [May F .raised] [May F .out] {r s : State} {x0 : _} (h : Keeps F r s) : OutKeeps F r (execDiagAbort x0 s) := by
  unfold execDiagAbort
  repeat' first
    | with_reducible assumption
    | intro _
    | with_reducible apply outKeeps_next
    | with_reducible apply outKeeps_ite
    | with_reducible apply keeps_ite
    | with_reducible apply keeps_gate
    | with_reducible apply keeps_withGpair
    | with_reducible apply keeps_withRegs
    | with_reducible apply keeps_answer
    | with_reducible apply keeps_abortReflect
    | with_reducible apply keeps_ite_snd
    | with_reducible apply keeps_foldl_snd
    | with_reducible apply keeps_foldl
    | split
    | dsimp -zeta only
    | with_reducible refine keeps_of_eq (by with_reducible assumption) ?_
    | with_reducible refine keeps_of_eq3 (by with_reducible assumption) ?_
    | dsimp only

theorem keeps_execDiagMapRead {F : Kind → Prop} [May F .free] [May F .regs] [May F .pairs] [May F .rows] [May F .doms] [May F .cals] [May F .running] [May F .kept] [May F .hub] [May F .out] {r s : State} {x0 : _} (h : Keeps F r s) : OutKeeps F r (execDiagMapRead x0 s) := by
  unfold execDiagMapRead
  repeat' first
    | with_reducible assumption
    | intro _
    | with_reducible apply outKeeps_next
    | with_reducible apply outKeeps_ite
    | with_reducible apply keeps_ite
    | with_reducible apply keeps_gate
    | with_reducible apply keeps_withGpair
    | with_reducible apply keeps_badParam
    | with_reducible apply keeps_withRegs
    | with_reducible apply keeps_answer
    | with_reducible apply keeps_ite_snd
    | with_reducible apply keeps_foldl_snd
    | with_reducible apply keeps_foldl
    | split
    | dsimp -zeta only
    | with_reducible refine keeps_of_eq (by with_reducible assumption) ?_
    | with_reducible refine keeps_of_eq3 (by with_reducible assumption) ?_
    | dsimp only

theorem keeps_execDiagTraceRead {F : Kind → Prop} [May F .free] [May F .regs] [May F .pairs] [May F .rows] [May F .doms] [May F .cals] [May F .running] [May F .kept] [May F .hub] [May F .out] {r s : State} {x0 : _} (h : Keeps F r s) : OutKeeps F r (execDiagTraceRead x0 s) := by
  unfold execDiagTraceRead
  repeat' first
    | with_reducible assumption
    | intro _
    | with_reducible apply outKeeps_next
    | with_reducible apply outKeeps_ite
    | with_reducible apply keeps_ite
    | with_reducible apply keeps_gate
    | with_reducible apply keeps_withGpair
    | with_reducible apply keeps_badParam
    | with_reducible apply keeps_withRegs
    | with_reducible apply keeps_answer
    | with_reducible apply keeps_ite_snd
    | with_reducible apply keeps_foldl_snd
    | with_reducible apply keeps_foldl
    | split
    | dsimp -zeta only
    | with_reducible refine keeps_of_eq (by with_reducible assumption) ?_
    | with_reducible refine keeps_of_eq3 (by with_reducible assumption) ?_
    | dsimp only

theorem keeps_execDiagHistory {F : Kind → Prop} [May F .free] [May F .regs] [May F .pairs] [May F .rows] [May F .doms] [May F .cals] [May F .running] [May F .kept] [May F .hub] [May F .out] {r s : State} {x0 : _} (h : Keeps F r s) : OutKeeps F r (execDiagHistory x0 s) := by
  unfold execDiagHistory
  repeat' first
    | with_reducible assumption
    | intro _
    | with_reducible apply outKeeps_next
    | with_reducible apply outKeeps_ite
    | with_reducible apply keeps_ite
    | with_reducible apply keeps_gate
    | with_reducible apply keeps_withGpair
    | with_reducible apply keeps_badParam
    | with_reducible apply keeps_withRegs
    | with_reducible apply keeps_answer
    | with_reducible apply keeps_ite_snd
    | with_reducible apply keeps_foldl_snd
    | with_reducible apply keeps_foldl
    | split
    | dsimp -zeta only
    | with_reducible refine keeps_of_eq (by with_reducible assumption) ?_
    | with_reducible refine keeps_of_eq3 (by with_reducible assumption) ?_
    | dsimp only

theorem keeps_execDiagProfile {F : Kind → Prop} [May F .free] [May F .regs] [May F .pairs] [May F .rows] [May F .doms] [May F .cals] [May F .running] [May F .kept] [May F .hub] [May F .out] {r s : State} {x0 : _} (h : Keeps F r s) : OutKeeps F r (execDiagProfile x0 s) := by
  unfold execDiagProfile
  repeat' first
    | with_reducible assumption
    | intro _
    | with_reducible apply outKeeps_next
    | with_reducible apply outKeeps_ite
    | with_reducible apply keeps_ite
    | with_reducible apply keeps_gate
    | with_reducible apply keeps_withGpair
    | with_reducible apply keeps_badParam
    | with_reducible apply keeps_withRegs
    | with_reducible apply keeps_answer
    | with_reducible apply keeps_ite_snd
    | with_reducible apply keeps_foldl_snd
    | with_reducible apply keeps_foldl
    | split
    | dsimp -zeta only
    | with_reducible refine keeps_of_eq (by with_reducible assumption) ?_
    | with_reducible refine keeps_of_eq3 (by with_reducible assumption) ?_
    | dsimp only

theorem keeps_execDiagSnr {F : Kind → Prop} [May F .free] [May F .regs] [May F .pairs] [May F .rows] [May F .doms] [May F .cals] [May F .running] [May F .kept] [May F .hub] [May F .out] {r s : State} {x0 : _} (h : Keeps F r s) : OutKeeps F r (execDiagSnr x0 s) := by
  unfold execDiagSnr
  repeat' first
    | with_reducible assumption
    | intro _
    | with_reducible apply outKeeps_next
    | with_reducible apply outKeeps_ite
    | with_reducible apply keeps_ite
    | with_reducible apply keeps_gate
    | with_reducible apply keeps_withGpair
    | with_reducible apply keeps_badParam
    | with_reducible apply keeps_withRegs
    | with_reducible apply keeps_answer
    | with_reducible apply keeps_ite_snd
    | with_reducible apply keeps_foldl_snd
    | with_reducible apply keeps_foldl
    | split
    | dsimp -zeta only
    | with_reducible refine keeps_of_eq (by with_reducible assumption) ?_
    | with_reducible refine keeps_of_eq3 (by with_reducible assumption) ?_
    | dsimp only

end Sys2Proof.Machine
end

