-- ==== Sys2Proof/Laws/KeepsNvCommands.lean ====
section
/-! SUPPORT. What the operations of Machine/NvCommands.lean keep. -/
set_option linter.unusedTactic false
set_option linter.unreachableTactic false
set_option linter.tactic.unusedName false
namespace Sys2Proof.Machine

theorem keeps_withPart {F : Kind → Prop} [May F .regs] [May F .running] [May F .kept] [May F .out] {r s : State} {p run : _} (h : Keeps F r s) (hg : ∀ a t, Keeps F r t → Keeps F r (run a t)) : Keeps F r (withPart p run s) := by
  unfold withPart
  exact keeps_ite (keeps_badParam h) (hg _ _ h)

theorem keeps_execNvInfo {F : Kind → Prop} [May F .regs] [May F .running] [May F .kept] [May F .out] {r s : State} {x0 : _} (h : Keeps F r s) : OutKeeps F r (execNvInfo x0 s) := by
  unfold execNvInfo
  repeat' first
    | with_reducible assumption
    | intro _
    | with_reducible apply outKeeps_next
    | with_reducible apply outKeeps_ite
    | with_reducible apply keeps_ite
    | with_reducible apply keeps_gate
    | with_reducible apply keeps_withPart
    | with_reducible apply keeps_answer
    | with_reducible apply keeps_ite_snd
    | with_reducible apply keeps_foldl_snd
    | with_reducible apply keeps_foldl
    | split
    | dsimp -zeta only
    | with_reducible refine keeps_of_eq (by with_reducible assumption) ?_
    | with_reducible refine keeps_of_eq3 (by with_reducible assumption) ?_
    | dsimp only

theorem keeps_execNvRead {F : Kind → Prop} [May F .regs] [May F .running] [May F .kept] [May F .out] {r s : State} {x0 : _} (h : Keeps F r s) : OutKeeps F r (execNvRead x0 s) := by
  unfold execNvRead
  repeat' first
    | with_reducible assumption
    | intro _
    | with_reducible apply outKeeps_next
    | with_reducible apply outKeeps_ite
    | with_reducible apply keeps_ite
    | with_reducible apply keeps_gate
    | with_reducible apply keeps_withPart
    | with_reducible apply keeps_badParam
    | with_reducible apply keeps_answer
    | with_reducible apply keeps_ite_snd
    | with_reducible apply keeps_foldl_snd
    | with_reducible apply keeps_foldl
    | split
    | dsimp -zeta only
    | with_reducible refine keeps_of_eq (by with_reducible assumption) ?_
    | with_reducible refine keeps_of_eq3 (by with_reducible assumption) ?_
    | dsimp only

theorem keeps_beginNvOpen {F : Kind → Prop} [May F .free] [May F .regs] [May F .running] [May F .kept] [May F .nvOpen] [May F .mram] [May F .raised] [May F .out] {r s : State} {x0 x1 x2 x3 : _} (h : Keeps F r s) : Keeps F r (beginNvOpen x0 x1 x2 x3 s) := by
  unfold beginNvOpen
  repeat' first
    | with_reducible assumption
    | intro _
    | with_reducible apply keeps_ite
    | with_reducible apply keeps_nvFails
    | with_reducible apply keeps_invalidate
    | with_reducible apply keeps_answer
    | with_reducible apply keeps_ite_snd
    | with_reducible apply keeps_foldl_snd
    | with_reducible apply keeps_foldl
    | split
    | dsimp -zeta only
    | with_reducible refine keeps_of_eq (by with_reducible assumption) ?_
    | with_reducible refine keeps_of_eq3 (by with_reducible assumption) ?_
    | dsimp only
    | with_reducible apply keeps_upd_nvOpen

theorem keeps_execNvOpen {F : Kind → Prop} [May F .free] [May F .regs] [May F .links] [May F .running] [May F .kept] [May F .claims] [May F .waiting] [May F .nvOpen] [May F .mram] [May F .hub] [May F .raised] [May F .out] {r s : State} {x0 x1 : _} (h : Keeps F r s) : OutKeeps F r (execNvOpen x0 x1 s) := by
  unfold execNvOpen
  repeat' first
    | with_reducible assumption
    | intro _
    | with_reducible apply outKeeps_next
    | with_reducible apply outKeeps_ite
    | with_reducible apply keeps_ite
    | with_reducible apply keeps_gate
    | with_reducible apply keeps_withPart
    | with_reducible apply keeps_whenQual
    | with_reducible apply keeps_withClaim
    | with_reducible apply keeps_beginNvOpen
    | with_reducible apply keeps_ite_snd
    | with_reducible apply keeps_foldl_snd
    | with_reducible apply keeps_foldl
    | split
    | dsimp -zeta only
    | with_reducible refine keeps_of_eq (by with_reducible assumption) ?_
    | with_reducible refine keeps_of_eq3 (by with_reducible assumption) ?_
    | dsimp only

theorem keeps_withOpen {F : Kind → Prop} [May F .regs] [May F .running] [May F .kept] [May F .out] {r s : State} {p run : _} (h : Keeps F r s) (hg : ∀ o t, Keeps F r t → Keeps F r (run o t)) : Keeps F r (withOpen p run s) := by
  unfold withOpen
  split
  · exact keeps_badParam h
  · exact keeps_ite (keeps_badParam h) (keeps_ite (keeps_finalReply (keeps_inc h)) (hg _ _ h))

theorem keeps_execNvWrite {F : Kind → Prop} [May F .free] [May F .regs] [May F .running] [May F .kept] [May F .mram] [May F .raised] [May F .out] {r s : State} {x0 x1 : _} (h : Keeps F r s) : OutKeeps F r (execNvWrite x0 x1 s) := by
  unfold execNvWrite
  repeat' first
    | with_reducible assumption
    | intro _
    | with_reducible apply outKeeps_next
    | with_reducible apply outKeeps_ite
    | with_reducible apply keeps_ite
    | with_reducible apply keeps_gate
    | with_reducible apply keeps_withOpen
    | with_reducible apply keeps_badParam
    | with_reducible apply keeps_whenQual
    | with_reducible apply keeps_answer
    | with_reducible apply keeps_nvFails
    | with_reducible apply keeps_nvPut
    | with_reducible apply keeps_ite_snd
    | with_reducible apply keeps_foldl_snd
    | with_reducible apply keeps_foldl
    | split
    | dsimp -zeta only
    | with_reducible refine keeps_of_eq (by with_reducible assumption) ?_
    | with_reducible refine keeps_of_eq3 (by with_reducible assumption) ?_
    | dsimp only

theorem keeps_closeNv {F : Kind → Prop} [May F .regs] [May F .claims] [May F .waiting] [May F .later] [May F .nvOpen] {r s : State} {x0 : _} (h : Keeps F r s) : Keeps F r (closeNv x0 s) := by
  unfold closeNv
  repeat' first
    | with_reducible assumption
    | intro _
    | with_reducible apply keeps_ite
    | with_reducible apply keeps_releaseTaken
    | with_reducible apply keeps_ite_snd
    | with_reducible apply keeps_foldl_snd
    | with_reducible apply keeps_foldl
    | split
    | dsimp -zeta only
    | with_reducible refine keeps_of_eq (by with_reducible assumption) ?_
    | with_reducible refine keeps_of_eq3 (by with_reducible assumption) ?_
    | dsimp only
    | with_reducible apply keeps_upd_nvOpen

theorem keeps_commitFormat {F : Kind → Prop} [May F .free] {r s : State} {x0 : _} (h : Keeps F r s) : Keeps F r (commitFormat x0 s).2 := by
  show KeepsP F r _
  unfold commitFormat
  repeat' first
    | with_reducible assumption
    | intro _
    | with_reducible apply keepsP_mk
    | with_reducible apply keepsP_ite
    | with_reducible apply keeps_ite
    | with_reducible apply keeps_draw
    | with_reducible apply keeps_ite_snd
    | with_reducible apply keeps_foldl_snd
    | with_reducible apply keeps_foldl
    | split
    | dsimp -zeta only
    | with_reducible refine keeps_of_eq (by with_reducible assumption) ?_
    | with_reducible refine keeps_of_eq3 (by with_reducible assumption) ?_
    | dsimp only

theorem keeps_execNvCommit {F : Kind → Prop} [May F .free] [May F .regs] [May F .running] [May F .kept] [May F .jobs] [May F .completions] [May F .claims] [May F .waiting] [May F .later] [May F .nvOpen] [May F .mram] [May F .hub] [May F .raised] [May F .out] {r s : State} {x0 x1 : _} (h : Keeps F r s) : OutKeeps F r (execNvCommit x0 x1 s) := by
  unfold execNvCommit
  repeat' first
    | with_reducible assumption
    | intro _
    | with_reducible apply outKeeps_next
    | with_reducible apply outKeeps_ite
    | with_reducible apply keeps_ite
    | with_reducible apply keeps_gate
    | with_reducible apply keeps_withOpen
    | with_reducible apply keeps_badParam
    | with_reducible apply keeps_longOnly
    | with_reducible apply keeps_whenQual
    | with_reducible apply keeps_acceptJob
    | with_reducible apply keeps_finishJob
    | with_reducible apply keeps_closeNv
    | with_reducible apply keeps_commitFormat
    | with_reducible apply keeps_commitBank
    | with_reducible apply keeps_nvFails
    | with_reducible apply keeps_ite_snd
    | with_reducible apply keeps_foldl_snd
    | with_reducible apply keeps_foldl
    | split
    | dsimp -zeta only
    | with_reducible refine keeps_of_eq (by with_reducible assumption) ?_
    | with_reducible refine keeps_of_eq3 (by with_reducible assumption) ?_
    | dsimp only

theorem keeps_execNvClose {F : Kind → Prop} [May F .regs] [May F .running] [May F .kept] [May F .claims] [May F .waiting] [May F .later] [May F .nvOpen] [May F .out] {r s : State} {x0 : _} (h : Keeps F r s) : OutKeeps F r (execNvClose x0 s) := by
  unfold execNvClose
  repeat' first
    | with_reducible assumption
    | intro _
    | with_reducible apply outKeeps_next
    | with_reducible apply outKeeps_ite
    | with_reducible apply keeps_ite
    | with_reducible apply keeps_gate
    | with_reducible apply keeps_withOpen
    | with_reducible apply keeps_answer
    | with_reducible apply keeps_closeNv
    | with_reducible apply keeps_ite_snd
    | with_reducible apply keeps_foldl_snd
    | with_reducible apply keeps_foldl
    | split
    | dsimp -zeta only
    | with_reducible refine keeps_of_eq (by with_reducible assumption) ?_
    | with_reducible refine keeps_of_eq3 (by with_reducible assumption) ?_
    | dsimp only

theorem keeps_beginSaveConfig {F : Kind → Prop} [May F .free] [May F .regs] [May F .running] [May F .kept] [May F .jobs] [May F .completions] [May F .claims] [May F .waiting] [May F .later] [May F .mram] [May F .hub] [May F .raised] [May F .out] {r s : State} {x0 x1 x2 x3 : _} (h : Keeps F r s) : Keeps F r (beginSaveConfig x0 x1 x2 x3 s) := by
  unfold beginSaveConfig
  repeat' first
    | with_reducible assumption
    | intro _
    | with_reducible apply keeps_ite
    | with_reducible apply keeps_acceptJob
    | with_reducible apply keeps_writePartition
    | with_reducible apply keeps_finishJob
    | with_reducible apply keeps_nvFails
    | with_reducible apply keeps_ite_snd
    | with_reducible apply keeps_foldl_snd
    | with_reducible apply keeps_foldl
    | split
    | dsimp -zeta only
    | with_reducible refine keeps_of_eq (by with_reducible assumption) ?_
    | with_reducible refine keeps_of_eq3 (by with_reducible assumption) ?_
    | dsimp only

theorem keeps_execNvSaveConfig {F : Kind → Prop} [May F .free] [May F .regs] [May F .links] [May F .running] [May F .kept] [May F .jobs] [May F .completions] [May F .claims] [May F .waiting] [May F .later] [May F .mram] [May F .hub] [May F .raised] [May F .out] {r s : State} {x0 x1 : _} (h : Keeps F r s) : OutKeeps F r (execNvSaveConfig x0 x1 s) := by
  unfold execNvSaveConfig
  repeat' first
    | with_reducible assumption
    | intro _
    | with_reducible apply outKeeps_next
    | with_reducible apply outKeeps_ite
    | with_reducible apply keeps_ite
    | with_reducible apply keeps_gate
    | with_reducible apply keeps_longOnly
    | with_reducible apply keeps_whenQual
    | with_reducible apply keeps_withClaim
    | with_reducible apply keeps_beginSaveConfig
    | with_reducible apply keeps_ite_snd
    | with_reducible apply keeps_foldl_snd
    | with_reducible apply keeps_foldl
    | split
    | dsimp -zeta only
    | with_reducible refine keeps_of_eq (by with_reducible assumption) ?_
    | with_reducible refine keeps_of_eq3 (by with_reducible assumption) ?_
    | dsimp only

theorem keeps_execGbInfo {F : Kind → Prop} [May F .regs] [May F .running] [May F .kept] [May F .out] {r s : State} {x0 : _} (h : Keeps F r s) : OutKeeps F r (execGbInfo x0 s) := by
  unfold execGbInfo
  repeat' first
    | with_reducible assumption
    | intro _
    | with_reducible apply outKeeps_next
    | with_reducible apply outKeeps_ite
    | with_reducible apply keeps_ite
    | with_reducible apply keeps_gate
    | with_reducible apply keeps_answer
    | with_reducible apply keeps_ite_snd
    | with_reducible apply keeps_foldl_snd
    | with_reducible apply keeps_foldl
    | split
    | dsimp -zeta only
    | with_reducible refine keeps_of_eq (by with_reducible assumption) ?_
    | with_reducible refine keeps_of_eq3 (by with_reducible assumption) ?_
    | dsimp only

theorem keeps_execGbRead {F : Kind → Prop} [May F .regs] [May F .running] [May F .kept] [May F .out] {r s : State} {x0 : _} (h : Keeps F r s) : OutKeeps F r (execGbRead x0 s) := by
  unfold execGbRead
  repeat' first
    | with_reducible assumption
    | intro _
    | with_reducible apply outKeeps_next
    | with_reducible apply outKeeps_ite
    | with_reducible apply keeps_ite
    | with_reducible apply keeps_gate
    | with_reducible apply keeps_badParam
    | with_reducible apply keeps_answer
    | with_reducible apply keeps_ite_snd
    | with_reducible apply keeps_foldl_snd
    | with_reducible apply keeps_foldl
    | split
    | dsimp -zeta only
    | with_reducible refine keeps_of_eq (by with_reducible assumption) ?_
    | with_reducible refine keeps_of_eq3 (by with_reducible assumption) ?_
    | dsimp only

theorem keeps_execGbClear {F : Kind → Prop} [May F .regs] [May F .running] [May F .kept] [May F .mram] [May F .gbQueue] [May F .out] {r s : State} {c : _} (h : Keeps F r s) : OutKeeps F r (execGbClear c s) := by
  unfold execGbClear
  refine keeps_gate h (fun p t k => ?_)
  have h1 : Keeps F r (gbClear t).2 := keeps_gbClear k
  generalize gbClear t = q at h1 ⊢
  exact keeps_match_pair h1 (fun _ _ k => keeps_answer k)

theorem keeps_execGbRate {F : Kind → Prop} [May F .free] [May F .regs] [May F .ports] [May F .pairs] [May F .links] [May F .queues] [May F .hosts] [May F .lanes] [May F .laneOf] [May F .tbl] [May F .held] [May F .snr] [May F .erle] [May F .errs] [May F .sigma] [May F .noise] [May F .coef] [May F .seeds] [May F .banks] [May F .rows] [May F .tiles] [May F .diags] [May F .maps] [May F .traces] [May F .doms] [May F .cals] [May F .calRuns] [May F .running] [May F .kept] [May F .jobs] [May F .records] [May F .eyes] [May F .completions] [May F .claims] [May F .waiting] [May F .later] [May F .tests] [May F .mram] [May F .gbQueue] [May F .gbLimits] [May F .highs] [May F .core] [May F .hub] [May F .raised] [May F .out] {r s : State} {x0 : _} (h : Keeps F r s) : OutKeeps F r (execGbRate x0 s) := by
  unfold execGbRate
  repeat' first
    | with_reducible assumption
    | intro _
    | with_reducible apply outKeeps_next
    | with_reducible apply outKeeps_ite
    | with_reducible apply keeps_ite
    | with_reducible apply keeps_gate
    | with_reducible apply keeps_answer
    | with_reducible apply keeps_writeWord
    | with_reducible apply keeps_badParam
    | with_reducible apply keeps_ite_snd
    | with_reducible apply keeps_foldl_snd
    | with_reducible apply keeps_foldl
    | split
    | dsimp -zeta only
    | with_reducible refine keeps_of_eq (by with_reducible assumption) ?_
    | with_reducible refine keeps_of_eq3 (by with_reducible assumption) ?_
    | dsimp only
    | with_reducible apply keeps_upd_gbLimits

end Sys2Proof.Machine
end

