-- ==== Sys2Proof/Laws/KeepsEei.lean ====
section
/-! SUPPORT. What the operations of Machine/Eei.lean keep. -/
set_option linter.unusedTactic false
set_option linter.unreachableTactic false
set_option linter.tactic.unusedName false
namespace Sys2Proof.Machine

theorem keeps_execEeiProposeSend {F : Kind → Prop} [May F .regs] [May F .links] [May F .raised] {r s : State} {x0 : _} (h : Keeps F r s) : OutKeeps F r (execEeiProposeSend x0 s) := by
  unfold execEeiProposeSend
  repeat' first
    | with_reducible assumption
    | intro _
    | with_reducible apply outKeeps_next
    | with_reducible apply outKeeps_ite
    | with_reducible apply keeps_ite
    | with_reducible apply keeps_showLink
    | with_reducible apply keeps_countRefusal
    | with_reducible apply keeps_modEei
    | with_reducible apply keeps_sendPort
    | with_reducible apply keeps_ite_snd
    | with_reducible apply keeps_foldl_snd
    | with_reducible apply keeps_foldl
    | split
    | dsimp -zeta only
    | with_reducible refine keeps_of_eq (by with_reducible assumption) ?_
    | with_reducible refine keeps_of_eq3 (by with_reducible assumption) ?_
    | dsimp only

theorem keeps_execEeiPropose {F : Kind → Prop} [May F .regs] [May F .links] [May F .raised] {r s : State} {x0 x1 x2 : _} (h : Keeps F r s) : OutKeeps F r (execEeiPropose x0 x1 x2 s) := by
  unfold execEeiPropose
  repeat' first
    | with_reducible assumption
    | intro _
    | with_reducible apply outKeeps_next
    | with_reducible apply outKeeps_ite
    | with_reducible apply keeps_ite
    | with_reducible apply keeps_consume
    | with_reducible apply keeps_crossing
    | with_reducible apply keeps_showLink
    | with_reducible apply keeps_countRefusal
    | with_reducible apply keeps_sendPort
    | with_reducible apply keeps_agreeEntry
    | with_reducible apply keeps_ite_snd
    | with_reducible apply keeps_foldl_snd
    | with_reducible apply keeps_foldl
    | split
    | dsimp -zeta only
    | with_reducible refine keeps_of_eq (by with_reducible assumption) ?_
    | with_reducible refine keeps_of_eq3 (by with_reducible assumption) ?_
    | dsimp only

theorem keeps_execEeiAccept {F : Kind → Prop} [May F .regs] [May F .links] [May F .raised] {r s : State} {x0 x1 x2 : _} (h : Keeps F r s) : OutKeeps F r (execEeiAccept x0 x1 x2 s) := by
  unfold execEeiAccept
  repeat' first
    | with_reducible assumption
    | intro _
    | with_reducible apply outKeeps_next
    | with_reducible apply outKeeps_ite
    | with_reducible apply keeps_ite
    | with_reducible apply keeps_consume
    | with_reducible apply keeps_dropProposal
    | with_reducible apply keeps_showLink
    | with_reducible apply keeps_countAbort
    | with_reducible apply keeps_modEei
    | with_reducible apply keeps_agreeEntry
    | with_reducible apply keeps_ite_snd
    | with_reducible apply keeps_foldl_snd
    | with_reducible apply keeps_foldl
    | split
    | dsimp -zeta only
    | with_reducible refine keeps_of_eq (by with_reducible assumption) ?_
    | with_reducible refine keeps_of_eq3 (by with_reducible assumption) ?_
    | dsimp only

theorem keeps_execEeiRefuse {F : Kind → Prop} [May F .regs] [May F .links] [May F .raised] {r s : State} {x0 x1 x2 : _} (h : Keeps F r s) : OutKeeps F r (execEeiRefuse x0 x1 x2 s) := by
  unfold execEeiRefuse
  repeat' first
    | with_reducible assumption
    | intro _
    | with_reducible apply outKeeps_next
    | with_reducible apply outKeeps_ite
    | with_reducible apply keeps_ite
    | with_reducible apply keeps_consume
    | with_reducible apply keeps_countRefusal
    | with_reducible apply keeps_setFld
    | with_reducible apply keeps_dropProposal
    | with_reducible apply keeps_showLink
    | with_reducible apply keeps_modEei
    | with_reducible apply keeps_ite_snd
    | with_reducible apply keeps_foldl_snd
    | with_reducible apply keeps_foldl
    | split
    | dsimp -zeta only
    | with_reducible refine keeps_of_eq (by with_reducible assumption) ?_
    | with_reducible refine keeps_of_eq3 (by with_reducible assumption) ?_
    | dsimp only

theorem keeps_execEeiAbort {F : Kind → Prop} [May F .regs] [May F .links] [May F .raised] [May F .out] {r s : State} {x0 x1 x2 : _} (h : Keeps F r s) : OutKeeps F r (execEeiAbort x0 x1 x2 s) := by
  unfold execEeiAbort
  repeat' first
    | with_reducible assumption
    | intro _
    | with_reducible apply outKeeps_next
    | with_reducible apply outKeeps_ite
    | with_reducible apply keeps_ite
    | with_reducible apply keeps_consume
    | with_reducible apply keeps_showLink
    | with_reducible apply keeps_countAbort
    | with_reducible apply keeps_dropEntry
    | with_reducible apply keeps_wakeCause
    | with_reducible apply keeps_dropProposal
    | with_reducible apply keeps_modEei
    | with_reducible apply keeps_ite_snd
    | with_reducible apply keeps_foldl_snd
    | with_reducible apply keeps_foldl
    | split
    | dsimp -zeta only
    | with_reducible refine keeps_of_eq (by with_reducible assumption) ?_
    | with_reducible refine keeps_of_eq3 (by with_reducible assumption) ?_
    | dsimp only

theorem keeps_execEeiWakeMsg {F : Kind → Prop} [May F .regs] [May F .links] [May F .raised] [May F .out] {r s : State} {x0 x1 x2 : _} (h : Keeps F r s) : OutKeeps F r (execEeiWakeMsg x0 x1 x2 s) := by
  unfold execEeiWakeMsg
  repeat' first
    | with_reducible assumption
    | intro _
    | with_reducible apply outKeeps_next
    | with_reducible apply outKeeps_ite
    | with_reducible apply keeps_ite
    | with_reducible apply keeps_consume
    | with_reducible apply keeps_setFld
    | with_reducible apply keeps_showLink
    | with_reducible apply keeps_modEei
    | with_reducible apply keeps_beginWake
    | with_reducible apply keeps_ite_snd
    | with_reducible apply keeps_foldl_snd
    | with_reducible apply keeps_foldl
    | split
    | dsimp -zeta only
    | with_reducible refine keeps_of_eq (by with_reducible assumption) ?_
    | with_reducible refine keeps_of_eq3 (by with_reducible assumption) ?_
    | dsimp only

theorem keeps_execEeiBudgetApply {F : Kind → Prop} [May F .regs] [May F .ports] [May F .links] [May F .raised] [May F .out] {r s : State} {x0 : _} (h : Keeps F r s) : OutKeeps F r (execEeiBudgetApply x0 s) := by
  unfold execEeiBudgetApply
  repeat' first
    | with_reducible assumption
    | intro _
    | with_reducible apply outKeeps_next
    | with_reducible apply outKeeps_ite
    | with_reducible apply keeps_ite
    | with_reducible apply keeps_applyBudget
    | with_reducible apply keeps_ite_snd
    | with_reducible apply keeps_foldl_snd
    | with_reducible apply keeps_foldl
    | split
    | dsimp -zeta only
    | with_reducible refine keeps_of_eq (by with_reducible assumption) ?_
    | with_reducible refine keeps_of_eq3 (by with_reducible assumption) ?_
    | dsimp only

theorem keeps_execEeiEntry {F : Kind → Prop} [May F .regs] [May F .pairs] [May F .links] [May F .queues] [May F .raised] [May F .out] {r s : State} {x0 : _} (h : Keeps F r s) : OutKeeps F r (execEeiEntry x0 s) := by
  unfold execEeiEntry
  repeat' first
    | with_reducible assumption
    | intro _
    | with_reducible apply outKeeps_next
    | with_reducible apply outKeeps_ite
    | with_reducible apply keeps_ite
    | with_reducible apply keeps_modLink
    | with_reducible apply keeps_setQuiet
    | with_reducible apply keeps_modEei
    | with_reducible apply keeps_modQueue
    | with_reducible apply keeps_inc
    | with_reducible apply keeps_showLink
    | with_reducible apply keeps_beginWake
    | with_reducible apply keeps_ite_snd
    | with_reducible apply keeps_foldl_snd
    | with_reducible apply keeps_foldl
    | split
    | dsimp -zeta only
    | with_reducible refine keeps_of_eq (by with_reducible assumption) ?_
    | with_reducible refine keeps_of_eq3 (by with_reducible assumption) ?_
    | dsimp only

theorem keeps_execEeiRefresh {F : Kind → Prop} [May F .regs] [May F .pairs] [May F .errs] [May F .raised] {r s : State} {x0 x1 : _} (h : Keeps F r s) : OutKeeps F r (execEeiRefresh x0 x1 s) := by
  unfold execEeiRefresh
  repeat' first
    | with_reducible assumption
    | intro _
    | with_reducible apply outKeeps_next
    | with_reducible apply outKeeps_ite
    | with_reducible apply keeps_ite
    | with_reducible apply keeps_clearErrors
    | with_reducible apply keeps_measurePilots
    | with_reducible apply keeps_showMonitors
    | with_reducible apply keeps_showLink
    | with_reducible apply keeps_showFreq
    | with_reducible apply keeps_forEach
    | with_reducible apply keeps_ite_snd
    | with_reducible apply keeps_foldl_snd
    | with_reducible apply keeps_foldl
    | split
    | dsimp -zeta only
    | with_reducible refine keeps_of_eq (by with_reducible assumption) ?_
    | with_reducible refine keeps_of_eq3 (by with_reducible assumption) ?_
    | dsimp only

theorem keeps_execEeiWakeCause {F : Kind → Prop} [May F .regs] [May F .links] [May F .raised] [May F .out] {r s : State} {x0 x1 : _} (h : Keeps F r s) : OutKeeps F r (execEeiWakeCause x0 x1 s) := by
  unfold execEeiWakeCause
  repeat' first
    | with_reducible assumption
    | intro _
    | with_reducible apply outKeeps_next
    | with_reducible apply outKeeps_ite
    | with_reducible apply keeps_ite
    | with_reducible apply keeps_showLink
    | with_reducible apply keeps_wakeCause
    | with_reducible apply keeps_ite_snd
    | with_reducible apply keeps_foldl_snd
    | with_reducible apply keeps_foldl
    | split
    | dsimp -zeta only
    | with_reducible refine keeps_of_eq (by with_reducible assumption) ?_
    | with_reducible refine keeps_of_eq3 (by with_reducible assumption) ?_
    | dsimp only

theorem keeps_execEeiPrestepDone {F : Kind → Prop} [May F .regs] [May F .links] [May F .raised] [May F .out] {r s : State} {x0 : _} (h : Keeps F r s) : OutKeeps F r (execEeiPrestepDone x0 s) := by
  unfold execEeiPrestepDone
  repeat' first
    | with_reducible assumption
    | intro _
    | with_reducible apply outKeeps_next
    | with_reducible apply outKeeps_ite
    | with_reducible apply keeps_ite
    | with_reducible apply keeps_showLink
    | with_reducible apply keeps_startAlerts
    | with_reducible apply keeps_modEei
    | with_reducible apply keeps_ite_snd
    | with_reducible apply keeps_foldl_snd
    | with_reducible apply keeps_foldl
    | split
    | dsimp -zeta only
    | with_reducible refine keeps_of_eq (by with_reducible assumption) ?_
    | with_reducible refine keeps_of_eq3 (by with_reducible assumption) ?_
    | dsimp only

theorem keeps_execWakeDetect {F : Kind → Prop} [May F .regs] [May F .links] [May F .raised] {r s : State} {x0 : _} (h : Keeps F r s) : OutKeeps F r (execWakeDetect x0 s) := by
  unfold execWakeDetect
  repeat' first
    | with_reducible assumption
    | intro _
    | with_reducible apply outKeeps_next
    | with_reducible apply outKeeps_ite
    | with_reducible apply keeps_ite
    | with_reducible apply keeps_modEei
    | with_reducible apply keeps_showLink
    | with_reducible apply keeps_ite_snd
    | with_reducible apply keeps_foldl_snd
    | with_reducible apply keeps_foldl
    | split
    | dsimp -zeta only
    | with_reducible refine keeps_of_eq (by with_reducible assumption) ?_
    | with_reducible refine keeps_of_eq3 (by with_reducible assumption) ?_
    | dsimp only

theorem keeps_execWakeConfirmTimeout {F : Kind → Prop} [May F .regs] [May F .links] [May F .raised] {r s : State} {x0 : _} (h : Keeps F r s) : OutKeeps F r (execWakeConfirmTimeout x0 s) := by
  unfold execWakeConfirmTimeout
  repeat' first
    | with_reducible assumption
    | intro _
    | with_reducible apply outKeeps_next
    | with_reducible apply outKeeps_ite
    | with_reducible apply keeps_ite
    | with_reducible apply keeps_modEei
    | with_reducible apply keeps_showLink
    | with_reducible apply keeps_inc
    | with_reducible apply keeps_ite_snd
    | with_reducible apply keeps_foldl_snd
    | with_reducible apply keeps_foldl
    | split
    | dsimp -zeta only
    | with_reducible refine keeps_of_eq (by with_reducible assumption) ?_
    | with_reducible refine keeps_of_eq3 (by with_reducible assumption) ?_
    | dsimp only

theorem keeps_execEeiResume {F : Kind → Prop} [May F .regs] [May F .pairs] [May F .links] [May F .queues] [May F .raised] {r s : State} {x0 x1 x2 : _} (h : Keeps F r s) : OutKeeps F r (execEeiResume x0 x1 x2 s) := by
  unfold execEeiResume
  repeat' first
    | with_reducible assumption
    | intro _
    | with_reducible apply outKeeps_next
    | with_reducible apply outKeeps_ite
    | with_reducible apply keeps_ite
    | with_reducible apply keeps_endDepth
    | with_reducible apply keeps_modLink
    | with_reducible apply keeps_modQueue
    | with_reducible apply keeps_add64
    | with_reducible apply keeps_showLink
    | with_reducible apply keeps_setFld
    | with_reducible apply keeps_ite_snd
    | with_reducible apply keeps_foldl_snd
    | with_reducible apply keeps_foldl
    | split
    | dsimp -zeta only
    | with_reducible refine keeps_of_eq (by with_reducible assumption) ?_
    | with_reducible refine keeps_of_eq3 (by with_reducible assumption) ?_
    | dsimp only

theorem keeps_execPartialFastRetrainStart {F : Kind → Prop} [May F .regs] [May F .pairs] [May F .links] [May F .raised] {r s : State} {x0 : _} (h : Keeps F r s) : OutKeeps F r (execPartialFastRetrainStart x0 s) := by
  unfold execPartialFastRetrainStart
  repeat' first
    | with_reducible assumption
    | intro _
    | with_reducible apply outKeeps_next
    | with_reducible apply outKeeps_ite
    | with_reducible apply keeps_ite
    | with_reducible apply keeps_modPair
    | with_reducible apply keeps_showLink
    | with_reducible apply keeps_modLink
    | with_reducible apply keeps_forEach
    | with_reducible apply keeps_ite_snd
    | with_reducible apply keeps_foldl_snd
    | with_reducible apply keeps_foldl
    | split
    | dsimp -zeta only
    | with_reducible refine keeps_of_eq (by with_reducible assumption) ?_
    | with_reducible refine keeps_of_eq3 (by with_reducible assumption) ?_
    | dsimp only

theorem keeps_execPartialFastRetrainFail {F : Kind → Prop} [May F .free] [May F .regs] [May F .ports] [May F .pairs] [May F .links] [May F .queues] [May F .coef] [May F .seeds] [May F .banks] [May F .tiles] [May F .diags] [May F .cals] [May F .calRuns] [May F .completions] [May F .claims] [May F .waiting] [May F .later] [May F .tests] [May F .raised] {r s : State} {x0 : _} (h : Keeps F r s) : OutKeeps F r (execPartialFastRetrainFail x0 s) := by
  unfold execPartialFastRetrainFail
  repeat' first
    | with_reducible assumption
    | intro _
    | with_reducible apply outKeeps_next
    | with_reducible apply outKeeps_ite
    | with_reducible apply keeps_ite
    | with_reducible apply keeps_showLink
    | with_reducible apply keeps_partialFail
    | with_reducible apply keeps_ite_snd
    | with_reducible apply keeps_foldl_snd
    | with_reducible apply keeps_foldl
    | split
    | dsimp -zeta only
    | with_reducible refine keeps_of_eq (by with_reducible assumption) ?_
    | with_reducible refine keeps_of_eq3 (by with_reducible assumption) ?_
    | dsimp only

theorem keeps_execCalDeferralWake {F : Kind → Prop} [May F .regs] [May F .links] [May F .raised] [May F .out] {r s : State} {x0 x1 : _} (h : Keeps F r s) : OutKeeps F r (execCalDeferralWake x0 x1 s) := by
  unfold execCalDeferralWake
  repeat' first
    | with_reducible assumption
    | intro _
    | with_reducible apply outKeeps_next
    | with_reducible apply outKeeps_ite
    | with_reducible apply keeps_ite
    | with_reducible apply keeps_showLink
    | with_reducible apply keeps_wakeCause
    | with_reducible apply keeps_raise
    | with_reducible apply keeps_ite_snd
    | with_reducible apply keeps_foldl_snd
    | with_reducible apply keeps_foldl
    | split
    | dsimp -zeta only
    | with_reducible refine keeps_of_eq (by with_reducible assumption) ?_
    | with_reducible refine keeps_of_eq3 (by with_reducible assumption) ?_
    | dsimp only

end Sys2Proof.Machine
end

