-- ==== Sys2Proof/Laws/KeepsLanePcs.lean ====
section
/-! SUPPORT. What the operations of Machine/LanePcs.lean keep. -/
set_option linter.unusedTactic false
set_option linter.unreachableTactic false
set_option linter.tactic.unusedName false
namespace Sys2Proof.Machine

theorem keeps_laneBits {F : Kind → Prop} [May F .lanes] [May F .out] {r s : State} {x0 x1 : _} (h : Keeps F r s) : Keeps F r (laneBits x0 x1 s) := by
  unfold laneBits
  repeat' first
    | with_reducible assumption
    | intro _
    | with_reducible apply keeps_ite
    | with_reducible apply keeps_emit
    | with_reducible apply keeps_modLane
    | with_reducible apply keeps_ite_snd
    | with_reducible apply keeps_foldl_snd
    | with_reducible apply keeps_foldl
    | split
    | dsimp -zeta only
    | with_reducible refine keeps_of_eq (by with_reducible assumption) ?_
    | with_reducible refine keeps_of_eq3 (by with_reducible assumption) ?_
    | dsimp only

theorem keeps_laneBlock {F : Kind → Prop} [May F .lanes] [May F .out] {r s : State} {x0 x1 : _} (h : Keeps F r s) : Keeps F r (laneBlock x0 x1 s) := by
  unfold laneBlock
  repeat' first
    | with_reducible assumption
    | intro _
    | with_reducible apply keeps_ite
    | with_reducible apply keeps_modLane
    | with_reducible apply keeps_laneBits
    | with_reducible apply keeps_ite_snd
    | with_reducible apply keeps_foldl_snd
    | with_reducible apply keeps_foldl
    | split
    | dsimp -zeta only
    | with_reducible refine keeps_of_eq (by with_reducible assumption) ?_
    | with_reducible refine keeps_of_eq3 (by with_reducible assumption) ?_
    | dsimp only

theorem keeps_sendHost {F : Kind → Prop} [May F .lanes] [May F .out] {r s : State} {x0 x1 : _} (h : Keeps F r s) : Keeps F r (sendHost x0 x1 s) := by
  unfold sendHost
  repeat' first
    | with_reducible assumption
    | intro _
    | with_reducible apply keeps_ite
    | with_reducible apply keeps_laneBlock
    | with_reducible apply keeps_emit
    | with_reducible apply keeps_ite_snd
    | with_reducible apply keeps_foldl_snd
    | with_reducible apply keeps_foldl
    | split
    | dsimp -zeta only
    | with_reducible refine keeps_of_eq (by with_reducible assumption) ?_
    | with_reducible refine keeps_of_eq3 (by with_reducible assumption) ?_
    | dsimp only

theorem keeps_sendPattern {F : Kind → Prop} [May F .lanes] [May F .out] {r s : State} {x0 : _} (h : Keeps F r s) : Keeps F r (sendPattern x0 s) := by
  unfold sendPattern
  repeat' first
    | with_reducible assumption
    | intro _
    | with_reducible apply keeps_ite
    | with_reducible apply keeps_modLane
    | with_reducible apply keeps_emit
    | with_reducible apply keeps_ite_snd
    | with_reducible apply keeps_foldl_snd
    | with_reducible apply keeps_foldl
    | split
    | dsimp -zeta only
    | with_reducible refine keeps_of_eq (by with_reducible assumption) ?_
    | with_reducible refine keeps_of_eq3 (by with_reducible assumption) ?_
    | dsimp only

theorem keeps_sideLane {F : Kind → Prop} [May F .lanes] [May F .out] {r s : State} {x0 : _} (h : Keeps F r s) : Keeps F r (sideLane x0 s) := by
  unfold sideLane
  repeat' first
    | with_reducible assumption
    | intro _
    | with_reducible apply keeps_ite
    | with_reducible apply keeps_sendPattern
    | with_reducible apply keeps_laneBlock
    | with_reducible apply keeps_ite_snd
    | with_reducible apply keeps_foldl_snd
    | with_reducible apply keeps_foldl
    | split
    | dsimp -zeta only
    | with_reducible refine keeps_of_eq (by with_reducible assumption) ?_
    | with_reducible refine keeps_of_eq3 (by with_reducible assumption) ?_
    | dsimp only

theorem keeps_alignBits {F : Kind → Prop} [May F .regs] [May F .lanes] {r s : State} {x0 x1 : _} (h : Keeps F r s) : Keeps F r (alignBits x0 x1 s) := by
  unfold alignBits
  repeat' first
    | with_reducible assumption
    | intro _
    | with_reducible apply keeps_ite
    | with_reducible apply keeps_modLane
    | with_reducible apply keeps_setFld
    | with_reducible apply keeps_ite_snd
    | with_reducible apply keeps_foldl_snd
    | with_reducible apply keeps_foldl
    | split
    | dsimp -zeta only
    | with_reducible refine keeps_of_eq (by with_reducible assumption) ?_
    | with_reducible refine keeps_of_eq3 (by with_reducible assumption) ?_
    | dsimp only

theorem keeps_takePair {F : Kind → Prop} [May F .free] [May F .regs] [May F .queues] [May F .hosts] [May F .lanes] [May F .laneOf] [May F .banks] [May F .eyes] [May F .completions] [May F .claims] [May F .waiting] [May F .later] [May F .hub] [May F .raised] {r s : State} {x0 x1 : _} (h : Keeps F r s) : Keeps F r (takePair x0 x1 s) := by
  unfold takePair
  repeat' first
    | with_reducible assumption
    | intro _
    | with_reducible apply keeps_ite
    | with_reducible apply keeps_modLane
    | with_reducible apply keeps_add64
    | with_reducible apply keeps_addTo
    | with_reducible apply keeps_laneFault
    | with_reducible apply keeps_ite_snd
    | with_reducible apply keeps_foldl_snd
    | with_reducible apply keeps_foldl
    | split
    | dsimp -zeta only
    | with_reducible refine keeps_of_eq (by with_reducible assumption) ?_
    | with_reducible refine keeps_of_eq3 (by with_reducible assumption) ?_
    | dsimp only

theorem keeps_takePairs {F : Kind → Prop} [May F .free] [May F .regs] [May F .queues] [May F .hosts] [May F .lanes] [May F .laneOf] [May F .banks] [May F .eyes] [May F .completions] [May F .claims] [May F .waiting] [May F .later] [May F .hub] [May F .raised] {r s : State} {x : Nat} {fuel : Nat} (h : Keeps F r s) : Keeps F r (takePairs x fuel s) := by
  induction fuel generalizing s with
  | zero => exact h
  | succ k ih =>
    unfold takePairs
    repeat' first
      | with_reducible apply ih
      | with_reducible assumption
      | intro _
      | with_reducible apply keeps_ite
      | with_reducible apply keeps_takePair
      | with_reducible apply keeps_modLane
      | with_reducible apply keeps_ite_snd
      | with_reducible apply keeps_foldl_snd
      | with_reducible apply keeps_foldl
      | split
      | dsimp -zeta only
      | with_reducible refine keeps_of_eq (by with_reducible assumption) ?_
      | with_reducible refine keeps_of_eq3 (by with_reducible assumption) ?_
      | dsimp only

theorem keeps_checkSymbol {F : Kind → Prop} [May F .regs] [May F .lanes] {r s : State} {x0 x1 x2 : _} (h : Keeps F r s) : Keeps F r (checkSymbol x0 x1 x2 s) := by
  unfold checkSymbol
  repeat' first
    | with_reducible assumption
    | intro _
    | with_reducible apply keeps_ite
    | with_reducible apply keeps_modLane
    | with_reducible apply keeps_add64
    | with_reducible apply keeps_prbsUnlock
    | with_reducible apply keeps_setFld
    | with_reducible apply keeps_ite_snd
    | with_reducible apply keeps_foldl_snd
    | with_reducible apply keeps_foldl
    | split
    | dsimp -zeta only
    | with_reducible refine keeps_of_eq (by with_reducible assumption) ?_
    | with_reducible refine keeps_of_eq3 (by with_reducible assumption) ?_
    | dsimp only

theorem keeps_checkLane {F : Kind → Prop} [May F .regs] [May F .lanes] {r s : State} {x : Nat} {bs : List Bool} (h : Keeps F r s) : Keeps F r (checkLane x bs s) := by
  fun_induction checkLane x bs s with
  | case1 b1 b0 bs s ih => exact ih (keeps_checkSymbol h)
  | case2 => exact h

theorem keeps_hearLevels {F : Kind → Prop} [May F .free] [May F .regs] [May F .queues] [May F .hosts] [May F .lanes] [May F .laneOf] [May F .banks] [May F .eyes] [May F .completions] [May F .claims] [May F .waiting] [May F .later] [May F .hub] [May F .raised] {r s : State} {x0 x1 : _} (h : Keeps F r s) : Keeps F r (hearLevels x0 x1 s) := by
  unfold hearLevels
  repeat' first
    | with_reducible assumption
    | intro _
    | with_reducible apply keeps_ite
    | with_reducible apply keeps_checkLane
    | with_reducible apply keeps_alignBits
    | with_reducible apply keeps_adaptCtle
    | with_reducible apply keeps_modLane
    | with_reducible apply keeps_takePairs
    | with_reducible apply keeps_ite_snd
    | with_reducible apply keeps_foldl_snd
    | with_reducible apply keeps_foldl
    | split
    | dsimp -zeta only
    | with_reducible refine keeps_of_eq (by with_reducible assumption) ?_
    | with_reducible refine keeps_of_eq3 (by with_reducible assumption) ?_
    | dsimp only

end Sys2Proof.Machine
end

