-- ==== Sys2Proof/Laws/KeepsPortCommands.lean ====
section
/-! SUPPORT. What the operations of Machine/PortCommands.lean keep. -/
set_option linter.unusedTactic false
set_option linter.unreachableTactic false
set_option linter.tactic.unusedName false
namespace Sys2Proof.Machine

theorem keeps_withPort {F : Kind → Prop} [May F .regs] [May F .running] [May F .kept] [May F .out] {r s : State} {p run : _} (h : Keeps F r s) (hg : ∀ a t, Keeps F r t → Keeps F r (run a t)) : Keeps F r (withPort p run s) := by
  unfold withPort
  exact keeps_ite (keeps_badParam h) (hg _ _ h)

theorem keeps_enablePort {F : Kind → Prop} [May F .free] [May F .regs] [May F .ports] [May F .pairs] [May F .links] [May F .queues] [May F .hosts] [May F .lanes] [May F .laneOf] [May F .tbl] [May F .held] [May F .snr] [May F .erle] [May F .errs] [May F .sigma] [May F .noise] [May F .coef] [May F .seeds] [May F .banks] [May F .rows] [May F .tiles] [May F .diags] [May F .maps] [May F .traces] [May F .doms] [May F .cals] [May F .calRuns] [May F .running] [May F .kept] [May F .jobs] [May F .records] [May F .eyes] [May F .completions] [May F .claims] [May F .waiting] [May F .later] [May F .tests] [May F .mram] [May F .gbQueue] [May F .highs] [May F .core] [May F .hub] [May F .raised] [May F .out] {r s : State} {x0 x1 : _} (h : Keeps F r s) : Keeps F r (enablePort x0 x1 s).2 :=
  keeps_itemWithRegs h (fun _ k => keeps_putFields k)

theorem keeps_execPortEnable {F : Kind → Prop} [May F .free] [May F .regs] [May F .ports] [May F .pairs] [May F .links] [May F .queues] [May F .hosts] [May F .lanes] [May F .laneOf] [May F .tbl] [May F .held] [May F .snr] [May F .erle] [May F .errs] [May F .sigma] [May F .noise] [May F .coef] [May F .seeds] [May F .banks] [May F .rows] [May F .tiles] [May F .diags] [May F .maps] [May F .traces] [May F .doms] [May F .cals] [May F .calRuns] [May F .running] [May F .kept] [May F .jobs] [May F .records] [May F .eyes] [May F .completions] [May F .claims] [May F .waiting] [May F .later] [May F .tests] [May F .mram] [May F .gbQueue] [May F .highs] [May F .core] [May F .hub] [May F .raised] [May F .out] {r s : State} {x0 : _} (h : Keeps F r s) : OutKeeps F r (execPortEnable x0 s) := by
  unfold execPortEnable
  repeat' first
    | with_reducible assumption
    | intro _
    | with_reducible apply outKeeps_next
    | with_reducible apply outKeeps_ite
    | with_reducible apply keeps_ite
    | with_reducible apply keeps_gate
    | with_reducible apply keeps_badParam
    | with_reducible apply keeps_multi
    | with_reducible apply keeps_enablePort
    | with_reducible apply keeps_ite_snd
    | with_reducible apply keeps_foldl_snd
    | with_reducible apply keeps_foldl
    | split
    | dsimp -zeta only
    | with_reducible refine keeps_of_eq (by with_reducible assumption) ?_
    | with_reducible refine keeps_of_eq3 (by with_reducible assumption) ?_
    | dsimp only

theorem keeps_readLow {F : Kind → Prop} [May F .free] [May F .regs] [May F .shadows] [May F .core] {r s : State} {as : List (Nat × Nat)} (h : Keeps F r s) : Keeps F r (readLow as s).2 := by
  induction as generalizing s with
  | nil => exact h
  | cons a as ih => exact ih (keeps_readWord h)

theorem keeps_answerModes {F : Kind → Prop} [May F .free] [May F .regs] [May F .running] [May F .kept] [May F .shadows] [May F .core] [May F .out] {r s : State} {x0 x1 : _} (h : Keeps F r s) : Keeps F r (answerModes x0 x1 s) :=
  keeps_answer (keeps_readLow h)

theorem keeps_execPortModeSet {F : Kind → Prop} [May F .free] [May F .regs] [May F .ports] [May F .pairs] [May F .links] [May F .queues] [May F .hosts] [May F .lanes] [May F .laneOf] [May F .tbl] [May F .held] [May F .snr] [May F .erle] [May F .errs] [May F .sigma] [May F .noise] [May F .coef] [May F .seeds] [May F .banks] [May F .rows] [May F .tiles] [May F .diags] [May F .maps] [May F .traces] [May F .doms] [May F .cals] [May F .calRuns] [May F .running] [May F .kept] [May F .jobs] [May F .records] [May F .eyes] [May F .completions] [May F .claims] [May F .waiting] [May F .later] [May F .tests] [May F .mram] [May F .gbQueue] [May F .shadows] [May F .highs] [May F .core] [May F .hub] [May F .raised] [May F .out] {r s : State} {x0 : _} (h : Keeps F r s) : OutKeeps F r (execPortModeSet x0 s) := by
  unfold execPortModeSet
  repeat' first
    | with_reducible assumption
    | intro _
    | with_reducible apply outKeeps_next
    | with_reducible apply outKeeps_ite
    | with_reducible apply keeps_ite
    | with_reducible apply keeps_gate
    | with_reducible apply keeps_withPort
    | with_reducible apply keeps_withRegs
    | with_reducible apply keeps_answerModes
    | with_reducible apply keeps_writeWord
    | with_reducible apply keeps_ite_snd
    | with_reducible apply keeps_foldl_snd
    | with_reducible apply keeps_foldl
    | split
    | dsimp -zeta only
    | with_reducible refine keeps_of_eq (by with_reducible assumption) ?_
    | with_reducible refine keeps_of_eq3 (by with_reducible assumption) ?_
    | dsimp only

theorem keeps_retrainLink {F : Kind → Prop} [May F .regs] [May F .pairs] [May F .links] [May F .raised] {r s : State} {x0 x1 : _} (h : Keeps F r s) : Keeps F r (retrainLink x0 x1 s).2 := by
  show KeepsP F r _
  unfold retrainLink
  repeat' first
    | with_reducible assumption
    | intro _
    | with_reducible apply keepsP_mk
    | with_reducible apply keepsP_ite
    | with_reducible apply keeps_ite
    | with_reducible apply keeps_showLink
    | with_reducible apply keeps_requestRetrain
    | with_reducible apply keeps_ite_snd
    | with_reducible apply keeps_foldl_snd
    | with_reducible apply keeps_foldl
    | split
    | dsimp -zeta only
    | with_reducible refine keeps_of_eq (by with_reducible assumption) ?_
    | with_reducible refine keeps_of_eq3 (by with_reducible assumption) ?_
    | dsimp only

theorem keeps_retrainLinks {F : Kind → Prop} [May F .regs] [May F .pairs] [May F .links] [May F .raised] {r s : State} {cause : Nat} {ls : List LinkId} {x : Nat × Nat} (h : Keeps F r s) :
    Keeps F r (retrainLinks cause ls x s).2 := by
  induction ls generalizing x s with
  | nil => exact h
  | cons l ls ih => exact ih (keeps_retrainLink h)

theorem keeps_execPortRetrain {F : Kind → Prop} [May F .free] [May F .regs] [May F .pairs] [May F .links] [May F .rows] [May F .doms] [May F .cals] [May F .running] [May F .kept] [May F .hub] [May F .raised] [May F .out] {r s : State} {x0 : _} (h : Keeps F r s) : OutKeeps F r (execPortRetrain x0 s) := by
  unfold execPortRetrain
  repeat' first
    | with_reducible assumption
    | intro _
    | with_reducible apply outKeeps_next
    | with_reducible apply outKeeps_ite
    | with_reducible apply keeps_ite
    | with_reducible apply keeps_gate
    | with_reducible apply keeps_withPort
    | with_reducible apply keeps_badParam
    | with_reducible apply keeps_withRegs
    | with_reducible apply keeps_retrainLinks
    | with_reducible apply keeps_answer
    | with_reducible apply keeps_ite_snd
    | with_reducible apply keeps_foldl_snd
    | with_reducible apply keeps_foldl
    | split
    | dsimp -zeta only
    | with_reducible refine keeps_of_eq (by with_reducible assumption) ?_
    | with_reducible refine keeps_of_eq3 (by with_reducible assumption) ?_
    | dsimp only

theorem keeps_execPortRate {F : Kind → Prop} [May F .free] [May F .regs] [May F .ports] [May F .pairs] [May F .links] [May F .queues] [May F .hosts] [May F .lanes] [May F .laneOf] [May F .tbl] [May F .held] [May F .snr] [May F .erle] [May F .errs] [May F .sigma] [May F .noise] [May F .coef] [May F .seeds] [May F .banks] [May F .rows] [May F .tiles] [May F .diags] [May F .maps] [May F .traces] [May F .doms] [May F .cals] [May F .calRuns] [May F .running] [May F .kept] [May F .jobs] [May F .records] [May F .eyes] [May F .completions] [May F .claims] [May F .waiting] [May F .later] [May F .tests] [May F .mram] [May F .gbQueue] [May F .highs] [May F .core] [May F .hub] [May F .raised] [May F .out] {r s : State} {x0 : _} (h : Keeps F r s) : OutKeeps F r (execPortRate x0 s) := by
  unfold execPortRate
  repeat' first
    | with_reducible assumption
    | intro _
    | with_reducible apply outKeeps_next
    | with_reducible apply outKeeps_ite
    | with_reducible apply keeps_ite
    | with_reducible apply keeps_gate
    | with_reducible apply keeps_withPort
    | with_reducible apply keeps_badParam
    | with_reducible apply keeps_withRegs
    | with_reducible apply keeps_askTier
    | with_reducible apply keeps_putFields
    | with_reducible apply keeps_answer
    | with_reducible apply keeps_ite_snd
    | with_reducible apply keeps_foldl_snd
    | with_reducible apply keeps_foldl
    | split
    | dsimp -zeta only
    | with_reducible refine keeps_of_eq (by with_reducible assumption) ?_
    | with_reducible refine keeps_of_eq3 (by with_reducible assumption) ?_
    | dsimp only

theorem keeps_execPortStatus {F : Kind → Prop} [May F .free] [May F .regs] [May F .pairs] [May F .rows] [May F .doms] [May F .cals] [May F .running] [May F .kept] [May F .shadows] [May F .core] [May F .hub] [May F .out] {r s : State} {x0 : _} (h : Keeps F r s) : OutKeeps F r (execPortStatus x0 s) := by
  unfold execPortStatus
  repeat' first
    | with_reducible assumption
    | intro _
    | with_reducible apply outKeeps_next
    | with_reducible apply outKeeps_ite
    | with_reducible apply keeps_ite
    | with_reducible apply keeps_gate
    | with_reducible apply keeps_withPort
    | with_reducible apply keeps_readRegs
    | with_reducible apply keeps_ite_snd
    | with_reducible apply keeps_foldl_snd
    | with_reducible apply keeps_foldl
    | split
    | dsimp -zeta only
    | with_reducible refine keeps_of_eq (by with_reducible assumption) ?_
    | with_reducible refine keeps_of_eq3 (by with_reducible assumption) ?_
    | dsimp only

theorem keeps_summaryBytes {F : Kind → Prop} [May F .free] [May F .regs] [May F .shadows] [May F .core] {r s : State} {ns : List Nat} (h : Keeps F r s) : Keeps F r (summaryBytes ns s).2 := by
  induction ns generalizing s with
  | nil => exact h
  | cons n ns ih =>
    unfold summaryBytes
    exact ih (keeps_ite_snd h (keeps_readBytes h))

theorem keeps_execPortSummary {F : Kind → Prop} [May F .free] [May F .regs] [May F .pairs] [May F .rows] [May F .doms] [May F .cals] [May F .running] [May F .kept] [May F .shadows] [May F .core] [May F .hub] [May F .out] {r s : State} {x0 : _} (h : Keeps F r s) : OutKeeps F r (execPortSummary x0 s) := by
  unfold execPortSummary
  repeat' first
    | with_reducible assumption
    | intro _
    | with_reducible apply outKeeps_next
    | with_reducible apply outKeeps_ite
    | with_reducible apply keeps_ite
    | with_reducible apply keeps_gate
    | with_reducible apply keeps_withRegs
    | with_reducible apply keeps_summaryBytes
    | with_reducible apply keeps_answer
    | with_reducible apply keeps_ite_snd
    | with_reducible apply keeps_foldl_snd
    | with_reducible apply keeps_foldl
    | split
    | dsimp -zeta only
    | with_reducible refine keeps_of_eq (by with_reducible assumption) ?_
    | with_reducible refine keeps_of_eq3 (by with_reducible assumption) ?_
    | dsimp only

theorem keeps_execPortCounters {F : Kind → Prop} [May F .free] [May F .regs] [May F .ports] [May F .pairs] [May F .links] [May F .queues] [May F .hosts] [May F .lanes] [May F .laneOf] [May F .tbl] [May F .held] [May F .snr] [May F .erle] [May F .errs] [May F .sigma] [May F .noise] [May F .coef] [May F .seeds] [May F .banks] [May F .rows] [May F .tiles] [May F .diags] [May F .maps] [May F .traces] [May F .doms] [May F .cals] [May F .calRuns] [May F .running] [May F .kept] [May F .jobs] [May F .records] [May F .eyes] [May F .completions] [May F .claims] [May F .waiting] [May F .later] [May F .tests] [May F .mram] [May F .gbQueue] [May F .shadows] [May F .highs] [May F .core] [May F .hub] [May F .raised] [May F .out] {r s : State} {x0 : _} (h : Keeps F r s) : OutKeeps F r (execPortCounters x0 s) := by
  unfold execPortCounters
  repeat' first
    | with_reducible assumption
    | intro _
    | with_reducible apply outKeeps_next
    | with_reducible apply outKeeps_ite
    | with_reducible apply keeps_ite
    | with_reducible apply keeps_gate
    | with_reducible apply keeps_withPort
    | with_reducible apply keeps_badParam
    | with_reducible apply keeps_withRegs
    | with_reducible apply keeps_readBytes
    | with_reducible apply keeps_answer
    | with_reducible apply keeps_clearCounter
    | with_reducible apply keeps_forEach
    | with_reducible apply keeps_ite_snd
    | with_reducible apply keeps_foldl_snd
    | with_reducible apply keeps_foldl
    | split
    | dsimp -zeta only
    | with_reducible refine keeps_of_eq (by with_reducible assumption) ?_
    | with_reducible refine keeps_of_eq3 (by with_reducible assumption) ?_
    | dsimp only

theorem keeps_execPortPeer {F : Kind → Prop} [May F .free] [May F .regs] [May F .pairs] [May F .rows] [May F .doms] [May F .cals] [May F .running] [May F .kept] [May F .shadows] [May F .core] [May F .hub] [May F .out] {r s : State} {x0 : _} (h : Keeps F r s) : OutKeeps F r (execPortPeer x0 s) := by
  unfold execPortPeer
  repeat' first
    | with_reducible assumption
    | intro _
    | with_reducible apply outKeeps_next
    | with_reducible apply outKeeps_ite
    | with_reducible apply keeps_ite
    | with_reducible apply keeps_gate
    | with_reducible apply keeps_withPort
    | with_reducible apply keeps_readRegs
    | with_reducible apply keeps_ite_snd
    | with_reducible apply keeps_foldl_snd
    | with_reducible apply keeps_foldl
    | split
    | dsimp -zeta only
    | with_reducible refine keeps_of_eq (by with_reducible assumption) ?_
    | with_reducible refine keeps_of_eq3 (by with_reducible assumption) ?_
    | dsimp only

theorem keeps_execPortFlowctl {F : Kind → Prop} [May F .free] [May F .regs] [May F .ports] [May F .pairs] [May F .links] [May F .queues] [May F .hosts] [May F .lanes] [May F .laneOf] [May F .tbl] [May F .held] [May F .snr] [May F .erle] [May F .errs] [May F .sigma] [May F .noise] [May F .coef] [May F .seeds] [May F .banks] [May F .rows] [May F .tiles] [May F .diags] [May F .maps] [May F .traces] [May F .doms] [May F .cals] [May F .calRuns] [May F .running] [May F .kept] [May F .jobs] [May F .records] [May F .eyes] [May F .completions] [May F .claims] [May F .waiting] [May F .later] [May F .tests] [May F .mram] [May F .gbQueue] [May F .shadows] [May F .highs] [May F .core] [May F .hub] [May F .raised] [May F .out] {r s : State} {x0 : _} (h : Keeps F r s) : OutKeeps F r (execPortFlowctl x0 s) := by
  unfold execPortFlowctl
  repeat' first
    | with_reducible assumption
    | intro _
    | with_reducible apply outKeeps_next
    | with_reducible apply outKeeps_ite
    | with_reducible apply keeps_ite
    | with_reducible apply keeps_gate
    | with_reducible apply keeps_withPort
    | with_reducible apply keeps_badParam
    | with_reducible apply keeps_withRegs
    | with_reducible apply keeps_answerRegs
    | with_reducible apply keeps_putFields
    | with_reducible apply keeps_ite_snd
    | with_reducible apply keeps_foldl_snd
    | with_reducible apply keeps_foldl
    | split
    | dsimp -zeta only
    | with_reducible refine keeps_of_eq (by with_reducible assumption) ?_
    | with_reducible refine keeps_of_eq3 (by with_reducible assumption) ?_
    | dsimp only

theorem keeps_execPortSublinks {F : Kind → Prop} [May F .free] [May F .regs] [May F .pairs] [May F .rows] [May F .doms] [May F .cals] [May F .running] [May F .kept] [May F .shadows] [May F .core] [May F .hub] [May F .out] {r s : State} {x0 : _} (h : Keeps F r s) : OutKeeps F r (execPortSublinks x0 s) := by
  unfold execPortSublinks
  repeat' first
    | with_reducible assumption
    | intro _
    | with_reducible apply outKeeps_next
    | with_reducible apply outKeeps_ite
    | with_reducible apply keeps_ite
    | with_reducible apply keeps_gate
    | with_reducible apply keeps_withPort
    | with_reducible apply keeps_readRegs
    | with_reducible apply keeps_ite_snd
    | with_reducible apply keeps_foldl_snd
    | with_reducible apply keeps_foldl
    | split
    | dsimp -zeta only
    | with_reducible refine keeps_of_eq (by with_reducible assumption) ?_
    | with_reducible refine keeps_of_eq3 (by with_reducible assumption) ?_
    | dsimp only

end Sys2Proof.Machine
end

