-- ==== Sys2Proof/Laws/KeepsTiles.lean ====
section
/-! SUPPORT. What the operations of Machine/Tiles.lean keep. -/
set_option linter.unusedTactic false
set_option linter.unreachableTactic false
set_option linter.tactic.unusedName false
namespace Sys2Proof.Machine

theorem keeps_execSliceFault {F : Kind → Prop} [May F .free] [May F .regs] [May F .ports] [May F .pairs] [May F .links] [May F .queues] [May F .banks] [May F .tiles] [May F .diags] [May F .completions] [May F .claims] [May F .waiting] [May F .later] [May F .tests] [May F .raised] {r s : State} {x0 x1 x2 : _} (h : Keeps F r s) : OutKeeps F r (execSliceFault x0 x1 x2 s) := by
  unfold execSliceFault
  repeat' first
    | with_reducible assumption
    | intro _
    | with_reducible apply outKeeps_next
    | with_reducible apply outKeeps_ite
    | with_reducible apply keeps_ite
    | with_reducible apply keeps_sliceFault
    | with_reducible apply keeps_ite_snd
    | with_reducible apply keeps_foldl_snd
    | with_reducible apply keeps_foldl
    | split
    | dsimp -zeta only
    | with_reducible refine keeps_of_eq (by with_reducible assumption) ?_
    | with_reducible refine keeps_of_eq3 (by with_reducible assumption) ?_
    | dsimp only

theorem keeps_execCrossbarChange {F : Kind → Prop} [May F .free] [May F .regs] [May F .ports] [May F .pairs] [May F .links] [May F .queues] [May F .coef] [May F .seeds] [May F .banks] [May F .tiles] [May F .diags] [May F .completions] [May F .claims] [May F .waiting] [May F .later] [May F .tests] [May F .hub] [May F .raised] {r s : State} {x0 x1 : _} (h : Keeps F r s) : OutKeeps F r (execCrossbarChange x0 x1 s) := by
  unfold execCrossbarChange
  repeat' first
    | with_reducible assumption
    | intro _
    | with_reducible apply outKeeps_next
    | with_reducible apply outKeeps_ite
    | with_reducible apply keeps_ite
    | with_reducible apply keeps_modTile
    | with_reducible apply keeps_inc
    | with_reducible apply keeps_connectFault
    | with_reducible apply keeps_connectSwap
    | with_reducible apply keeps_showSpares
    | with_reducible apply keeps_ite_snd
    | with_reducible apply keeps_foldl_snd
    | with_reducible apply keeps_foldl
    | split
    | dsimp -zeta only
    | with_reducible refine keeps_of_eq (by with_reducible assumption) ?_
    | with_reducible refine keeps_of_eq3 (by with_reducible assumption) ?_
    | dsimp only

theorem keeps_execSliceScrub {F : Kind → Prop} [May F .regs] {r s : State} {x0 x1 x2 : _} (h : Keeps F r s) : OutKeeps F r (execSliceScrub x0 x1 x2 s) := by
  unfold execSliceScrub
  repeat' first
    | with_reducible assumption
    | intro _
    | with_reducible apply outKeeps_next
    | with_reducible apply outKeeps_ite
    | with_reducible apply keeps_ite
    | with_reducible apply keeps_addTo
    | with_reducible apply keeps_ite_snd
    | with_reducible apply keeps_foldl_snd
    | with_reducible apply keeps_foldl
    | split
    | dsimp -zeta only
    | with_reducible refine keeps_of_eq (by with_reducible assumption) ?_
    | with_reducible refine keeps_of_eq3 (by with_reducible assumption) ?_
    | dsimp only

theorem keeps_execTileLinkCheckFail {F : Kind → Prop} [May F .free] [May F .regs] [May F .ports] [May F .pairs] [May F .links] [May F .queues] [May F .hosts] [May F .lanes] [May F .laneOf] [May F .tbl] [May F .held] [May F .snr] [May F .erle] [May F .errs] [May F .sigma] [May F .noise] [May F .coef] [May F .seeds] [May F .banks] [May F .rows] [May F .tiles] [May F .diags] [May F .maps] [May F .traces] [May F .doms] [May F .cals] [May F .calRuns] [May F .running] [May F .kept] [May F .jobs] [May F .records] [May F .eyes] [May F .completions] [May F .claims] [May F .waiting] [May F .later] [May F .tests] [May F .mram] [May F .gbQueue] [May F .shadows] [May F .highs] [May F .core] [May F .hub] [May F .raised] [May F .out] {r s : State} {x0 x1 : _} (h : Keeps F r s) : OutKeeps F r (execTileLinkCheckFail x0 x1 s) := by
  unfold execTileLinkCheckFail
  repeat' first
    | with_reducible assumption
    | intro _
    | with_reducible apply outKeeps_next
    | with_reducible apply outKeeps_ite
    | with_reducible apply keeps_ite
    | with_reducible apply keeps_modTile
    | with_reducible apply keeps_settleWakes
    | with_reducible apply keeps_tileLinkFailed
    | with_reducible apply keeps_ite_snd
    | with_reducible apply keeps_foldl_snd
    | with_reducible apply keeps_foldl
    | split
    | dsimp -zeta only
    | with_reducible refine keeps_of_eq (by with_reducible assumption) ?_
    | with_reducible refine keeps_of_eq3 (by with_reducible assumption) ?_
    | dsimp only

theorem keeps_execTileLinkLockLoss {F : Kind → Prop} [May F .free] [May F .regs] [May F .ports] [May F .pairs] [May F .links] [May F .queues] [May F .hosts] [May F .lanes] [May F .laneOf] [May F .tbl] [May F .held] [May F .snr] [May F .erle] [May F .errs] [May F .sigma] [May F .noise] [May F .coef] [May F .seeds] [May F .banks] [May F .rows] [May F .tiles] [May F .diags] [May F .maps] [May F .traces] [May F .doms] [May F .cals] [May F .calRuns] [May F .running] [May F .kept] [May F .jobs] [May F .records] [May F .eyes] [May F .completions] [May F .claims] [May F .waiting] [May F .later] [May F .tests] [May F .mram] [May F .gbQueue] [May F .shadows] [May F .highs] [May F .core] [May F .hub] [May F .raised] [May F .out] {r s : State} {x0 : _} (h : Keeps F r s) : OutKeeps F r (execTileLinkLockLoss x0 s) := by
  unfold execTileLinkLockLoss
  repeat' first
    | with_reducible assumption
    | intro _
    | with_reducible apply outKeeps_next
    | with_reducible apply outKeeps_ite
    | with_reducible apply keeps_ite
    | with_reducible apply keeps_settleWakes
    | with_reducible apply keeps_tileLinkFailed
    | with_reducible apply keeps_ite_snd
    | with_reducible apply keeps_foldl_snd
    | with_reducible apply keeps_foldl
    | split
    | dsimp -zeta only
    | with_reducible refine keeps_of_eq (by with_reducible assumption) ?_
    | with_reducible refine keeps_of_eq3 (by with_reducible assumption) ?_
    | dsimp only

theorem keeps_execBistUnitDue {F : Kind → Prop} [May F .regs] [May F .links] [May F .tiles] [May F .claims] [May F .tests] [May F .hub] [May F .raised] [May F .out] {r s : State} (h : Keeps F r s) : OutKeeps F r (execBistUnitDue s) := by
  unfold execBistUnitDue
  repeat' first
    | with_reducible assumption
    | intro _
    | with_reducible apply outKeeps_next
    | with_reducible apply outKeeps_ite
    | with_reducible apply keeps_ite
    | with_reducible apply keeps_sweepDue
    | with_reducible apply keeps_modHub
    | with_reducible apply keeps_ite_snd
    | with_reducible apply keeps_foldl_snd
    | with_reducible apply keeps_foldl
    | split
    | dsimp -zeta only
    | with_reducible refine keeps_of_eq (by with_reducible assumption) ?_
    | with_reducible refine keeps_of_eq3 (by with_reducible assumption) ?_
    | dsimp only

theorem keeps_execBistTestDone {F : Kind → Prop} [May F .free] [May F .regs] [May F .ports] [May F .pairs] [May F .links] [May F .queues] [May F .banks] [May F .rows] [May F .tiles] [May F .diags] [May F .completions] [May F .claims] [May F .waiting] [May F .later] [May F .tests] [May F .hub] [May F .raised] [May F .out] {r s : State} {x0 x1 : _} (h : Keeps F r s) : OutKeeps F r (execBistTestDone x0 x1 s) := by
  unfold execBistTestDone
  repeat' first
    | with_reducible assumption
    | intro _
    | with_reducible apply outKeeps_next
    | with_reducible apply outKeeps_ite
    | with_reducible apply keeps_ite
    | with_reducible apply keeps_sweepDue
    | with_reducible apply keeps_testDone
    | with_reducible apply keeps_ite_snd
    | with_reducible apply keeps_foldl_snd
    | with_reducible apply keeps_foldl
    | split
    | dsimp -zeta only
    | with_reducible refine keeps_of_eq (by with_reducible assumption) ?_
    | with_reducible refine keeps_of_eq3 (by with_reducible assumption) ?_
    | dsimp only

theorem keeps_execBankDrained {F : Kind → Prop} [May F .regs] [May F .tests] [May F .raised] {r s : State} {x0 : _} (h : Keeps F r s) : OutKeeps F r (execBankDrained x0 s) := by
  unfold execBankDrained
  repeat' first
    | with_reducible assumption
    | intro _
    | with_reducible apply outKeeps_next
    | with_reducible apply outKeeps_ite
    | with_reducible apply keeps_ite
    | with_reducible apply keeps_putTest
    | with_reducible apply keeps_moveBank
    | with_reducible apply keeps_ite_snd
    | with_reducible apply keeps_foldl_snd
    | with_reducible apply keeps_foldl
    | split
    | dsimp -zeta only
    | with_reducible refine keeps_of_eq (by with_reducible assumption) ?_
    | with_reducible refine keeps_of_eq3 (by with_reducible assumption) ?_
    | dsimp only

theorem keeps_execBankDrainTimeout {F : Kind → Prop} [May F .regs] [May F .links] [May F .tiles] [May F .completions] [May F .claims] [May F .waiting] [May F .later] [May F .tests] [May F .hub] [May F .raised] [May F .out] {r s : State} {x0 : _} (h : Keeps F r s) : OutKeeps F r (execBankDrainTimeout x0 s) := by
  unfold execBankDrainTimeout
  repeat' first
    | with_reducible assumption
    | intro _
    | with_reducible apply outKeeps_next
    | with_reducible apply outKeeps_ite
    | with_reducible apply keeps_ite
    | with_reducible apply keeps_inc
    | with_reducible apply keeps_raise
    | with_reducible apply keeps_setBankState
    | with_reducible apply keeps_moveBank
    | with_reducible apply keeps_endTest
    | with_reducible apply keeps_showBanks
    | with_reducible apply keeps_skipUnit
    | with_reducible apply keeps_sweepDue
    | with_reducible apply keeps_ite_snd
    | with_reducible apply keeps_foldl_snd
    | with_reducible apply keeps_foldl
    | split
    | dsimp -zeta only
    | with_reducible refine keeps_of_eq (by with_reducible assumption) ?_
    | with_reducible refine keeps_of_eq3 (by with_reducible assumption) ?_
    | dsimp only

theorem keeps_execMaintSwapCopyDone {F : Kind → Prop} [May F .regs] [May F .tiles] {r s : State} {x0 x1 : _} (h : Keeps F r s) : OutKeeps F r (execMaintSwapCopyDone x0 x1 s) := by
  unfold execMaintSwapCopyDone
  repeat' first
    | with_reducible assumption
    | intro _
    | with_reducible apply outKeeps_next
    | with_reducible apply outKeeps_ite
    | with_reducible apply keeps_ite
    | with_reducible apply keeps_stageSwap
    | with_reducible apply keeps_askSwitch
    | with_reducible apply keeps_ite_snd
    | with_reducible apply keeps_foldl_snd
    | with_reducible apply keeps_foldl
    | split
    | dsimp -zeta only
    | with_reducible refine keeps_of_eq (by with_reducible assumption) ?_
    | with_reducible refine keeps_of_eq3 (by with_reducible assumption) ?_
    | dsimp only

theorem keeps_execMaintSwapShadowDone {F : Kind → Prop} [May F .regs] [May F .tiles] [May F .completions] [May F .claims] [May F .waiting] [May F .later] [May F .tests] [May F .raised] {r s : State} {x0 x1 x2 : _} (h : Keeps F r s) : OutKeeps F r (execMaintSwapShadowDone x0 x1 x2 s) := by
  unfold execMaintSwapShadowDone
  repeat' first
    | with_reducible assumption
    | intro _
    | with_reducible apply outKeeps_next
    | with_reducible apply outKeeps_ite
    | with_reducible apply keeps_ite
    | with_reducible apply keeps_askSwitch
    | with_reducible apply keeps_showBist
    | with_reducible apply keeps_abandonSwap
    | with_reducible apply keeps_askInternal
    | with_reducible apply keeps_askRepair
    | with_reducible apply keeps_ite_snd
    | with_reducible apply keeps_foldl_snd
    | with_reducible apply keeps_foldl
    | split
    | dsimp -zeta only
    | with_reducible refine keeps_of_eq (by with_reducible assumption) ?_
    | with_reducible refine keeps_of_eq3 (by with_reducible assumption) ?_
    | dsimp only

end Sys2Proof.Machine
end

