-- ==== Sys2Proof/Laws/KeepsTimetable.lean ====
section
/-! SUPPORT. What the operations of Machine/Timetable.lean keep. -/
set_option linter.unusedTactic false
set_option linter.unreachableTactic false
set_option linter.tactic.unusedName false
namespace Sys2Proof.Machine

theorem keeps_takeIngress {F : Kind → Prop} [May F .free] [May F .regs] [May F .links] [May F .queues] [May F .hosts] [May F .lanes] [May F .banks] [May F .raised] [May F .out] {r s : State} {x0 x1 : _} (h : Keeps F r s) : Keeps F r (takeIngress x0 x1 s) := by
  unfold takeIngress
  repeat' first
    | with_reducible assumption
    | intro _
    | with_reducible apply keeps_ite
    | with_reducible apply keeps_modLane
    | with_reducible apply keeps_ingressCodeword
    | with_reducible apply keeps_ingressBlock
    | with_reducible apply keeps_hostActive
    | with_reducible apply keeps_ite_snd
    | with_reducible apply keeps_foldl_snd
    | with_reducible apply keeps_foldl
    | split
    | dsimp -zeta only
    | with_reducible refine keeps_of_eq (by with_reducible assumption) ?_
    | with_reducible refine keeps_of_eq3 (by with_reducible assumption) ?_
    | dsimp only

theorem keeps_execIngressBlock {F : Kind → Prop} [May F .free] [May F .regs] [May F .links] [May F .queues] [May F .hosts] [May F .lanes] [May F .laneOf] [May F .banks] [May F .eyes] [May F .completions] [May F .claims] [May F .waiting] [May F .later] [May F .hub] [May F .raised] [May F .out] {r s : State} {x0 x1 x2 x3 : _} (h : Keeps F r s) : OutKeeps F r (execIngressBlock x0 x1 x2 x3 s) := by
  unfold execIngressBlock
  repeat' first
    | with_reducible assumption
    | intro _
    | with_reducible apply outKeeps_next
    | with_reducible apply outKeeps_ite
    | with_reducible apply keeps_ite
    | with_reducible apply keeps_hearLevels
    | with_reducible apply keeps_drainStage
    | with_reducible apply keeps_showRoute
    | with_reducible apply keeps_showBeds
    | with_reducible apply keeps_fcJudge
    | with_reducible apply keeps_takeIngress
    | with_reducible apply keeps_ite_snd
    | with_reducible apply keeps_foldl_snd
    | with_reducible apply keeps_foldl
    | split
    | dsimp -zeta only
    | with_reducible refine keeps_of_eq (by with_reducible assumption) ?_
    | with_reducible refine keeps_of_eq3 (by with_reducible assumption) ?_
    | dsimp only

theorem keeps_sendBlocks {F : Kind → Prop} [May F .hosts] [May F .lanes] [May F .out] {r s : State} {x0 x1 : _} (h : Keeps F r s) : Keeps F r (sendBlocks x0 x1 s) := by
  unfold sendBlocks
  repeat' first
    | with_reducible assumption
    | intro _
    | with_reducible apply keeps_ite
    | with_reducible apply keeps_sendHost
    | with_reducible apply keeps_modHost
    | with_reducible apply keeps_ite_snd
    | with_reducible apply keeps_foldl_snd
    | with_reducible apply keeps_foldl
    | split
    | dsimp -zeta only
    | with_reducible refine keeps_of_eq (by with_reducible assumption) ?_
    | with_reducible refine keeps_of_eq3 (by with_reducible assumption) ?_
    | dsimp only

theorem keeps_egressNext {F : Kind → Prop} [May F .regs] [May F .queues] [May F .hosts] [May F .lanes] [May F .banks] [May F .out] {r s : State} {x0 : _} (h : Keeps F r s) : Keeps F r (egressNext x0 s) := by
  unfold egressNext
  repeat' first
    | with_reducible assumption
    | intro _
    | with_reducible apply keeps_ite
    | with_reducible apply keeps_sendHost
    | with_reducible apply keeps_takeBlock
    | with_reducible apply keeps_modHost
    | with_reducible apply keeps_showBeds
    | with_reducible apply keeps_inc64
    | with_reducible apply keeps_sendBlocks
    | with_reducible apply keeps_ite_snd
    | with_reducible apply keeps_foldl_snd
    | with_reducible apply keeps_foldl
    | split
    | dsimp -zeta only
    | with_reducible refine keeps_of_eq (by with_reducible assumption) ?_
    | with_reducible refine keeps_of_eq3 (by with_reducible assumption) ?_
    | dsimp only

theorem keeps_sendWords {F : Kind → Prop} [May F .hosts] [May F .lanes] [May F .out] {r s : State} {x0 x1 : _} (h : Keeps F r s) : Keeps F r (sendWords x0 x1 s) := by
  unfold sendWords
  repeat' first
    | with_reducible assumption
    | intro _
    | with_reducible apply keeps_ite
    | with_reducible apply keeps_emit
    | with_reducible apply keeps_modHost
    | with_reducible apply keeps_laneBits
    | with_reducible apply keeps_ite_snd
    | with_reducible apply keeps_foldl_snd
    | with_reducible apply keeps_foldl
    | split
    | dsimp -zeta only
    | with_reducible refine keeps_of_eq (by with_reducible assumption) ?_
    | with_reducible refine keeps_of_eq3 (by with_reducible assumption) ?_
    | dsimp only

theorem keeps_codewordNext {F : Kind → Prop} [May F .regs] [May F .queues] [May F .hosts] [May F .lanes] [May F .out] {r s : State} {x0 : _} (h : Keeps F r s) : Keeps F r (codewordNext x0 s) := by
  unfold codewordNext
  repeat' first
    | with_reducible assumption
    | intro _
    | with_reducible apply keeps_ite
    | with_reducible apply keeps_modQueue
    | with_reducible apply keeps_addTo
    | with_reducible apply keeps_sendWords
    | with_reducible apply keeps_ite_snd
    | with_reducible apply keeps_foldl_snd
    | with_reducible apply keeps_foldl
    | split
    | dsimp -zeta only
    | with_reducible refine keeps_of_eq (by with_reducible assumption) ?_
    | with_reducible refine keeps_of_eq3 (by with_reducible assumption) ?_
    | dsimp only

theorem keeps_egressBlock {F : Kind → Prop} [May F .regs] [May F .queues] [May F .hosts] [May F .lanes] [May F .banks] [May F .out] {r s : State} {x0 x1 : _} (h : Keeps F r s) : Keeps F r (egressBlock x0 x1 s) := by
  unfold egressBlock
  repeat' first
    | with_reducible assumption
    | intro _
    | with_reducible apply keeps_ite
    | with_reducible apply keeps_sendHost
    | with_reducible apply keeps_codewordNext
    | with_reducible apply keeps_sendWords
    | with_reducible apply keeps_fcJudge
    | with_reducible apply keeps_egressNext
    | with_reducible apply keeps_sendBlocks
    | with_reducible apply keeps_ite_snd
    | with_reducible apply keeps_foldl_snd
    | with_reducible apply keeps_foldl
    | split
    | dsimp -zeta only
    | with_reducible refine keeps_of_eq (by with_reducible assumption) ?_
    | with_reducible refine keeps_of_eq3 (by with_reducible assumption) ?_
    | dsimp only

theorem keeps_egressWait {F : Kind → Prop} [May F .hosts] [May F .lanes] [May F .out] {r s : State} {x0 : _} (h : Keeps F r s) : Keeps F r (egressWait x0 s) := by
  unfold egressWait
  repeat' first
    | with_reducible assumption
    | intro _
    | with_reducible apply keeps_ite
    | with_reducible apply keeps_sendHost
    | with_reducible apply keeps_modHost
    | with_reducible apply keeps_ite_snd
    | with_reducible apply keeps_foldl_snd
    | with_reducible apply keeps_foldl
    | split
    | dsimp -zeta only
    | with_reducible refine keeps_of_eq (by with_reducible assumption) ?_
    | with_reducible refine keeps_of_eq3 (by with_reducible assumption) ?_
    | dsimp only

theorem keeps_execEgressBlock {F : Kind → Prop} [May F .regs] [May F .queues] [May F .hosts] [May F .lanes] [May F .banks] [May F .out] {r s : State} {x0 x1 : _} (h : Keeps F r s) : OutKeeps F r (execEgressBlock x0 x1 s) := by
  unfold execEgressBlock
  repeat' first
    | with_reducible assumption
    | intro _
    | with_reducible apply outKeeps_next
    | with_reducible apply outKeeps_ite
    | with_reducible apply keeps_ite
    | with_reducible apply keeps_sideLane
    | with_reducible apply keeps_sendPattern
    | with_reducible apply keeps_egressWait
    | with_reducible apply keeps_egressBlock
    | with_reducible apply keeps_forEach
    | with_reducible apply keeps_ite_snd
    | with_reducible apply keeps_foldl_snd
    | with_reducible apply keeps_foldl
    | split
    | dsimp -zeta only
    | with_reducible refine keeps_of_eq (by with_reducible assumption) ?_
    | with_reducible refine keeps_of_eq3 (by with_reducible assumption) ?_
    | dsimp only

theorem keeps_execFarEgressReport {F : Kind → Prop} [May F .queues] [May F .hosts] {r s : State} {x0 x1 x2 : _} (h : Keeps F r s) : OutKeeps F r (execFarEgressReport x0 x1 x2 s) := by
  unfold execFarEgressReport
  repeat' first
    | with_reducible assumption
    | intro _
    | with_reducible apply outKeeps_next
    | with_reducible apply outKeeps_ite
    | with_reducible apply keeps_ite
    | with_reducible apply keeps_fcJudge
    | with_reducible apply keeps_modQueue
    | with_reducible apply keeps_ite_snd
    | with_reducible apply keeps_foldl_snd
    | with_reducible apply keeps_foldl
    | split
    | dsimp -zeta only
    | with_reducible refine keeps_of_eq (by with_reducible assumption) ?_
    | with_reducible refine keeps_of_eq3 (by with_reducible assumption) ?_
    | dsimp only

theorem keeps_execFrameExpiry {F : Kind → Prop} [May F .regs] [May F .queues] [May F .hosts] [May F .banks] [May F .raised] {r s : State} {x0 x1 x2 x3 : _} (h : Keeps F r s) : OutKeeps F r (execFrameExpiry x0 x1 x2 x3 s) := by
  unfold execFrameExpiry
  repeat' first
    | with_reducible assumption
    | intro _
    | with_reducible apply outKeeps_next
    | with_reducible apply outKeeps_ite
    | with_reducible apply keeps_ite
    | with_reducible apply keeps_expireFrames
    | with_reducible apply keeps_expireCodewords
    | with_reducible apply keeps_expireRxCodewords
    | with_reducible apply keeps_fcJudge
    | with_reducible apply keeps_showBeds
    | with_reducible apply keeps_ite_snd
    | with_reducible apply keeps_foldl_snd
    | with_reducible apply keeps_foldl
    | split
    | dsimp -zeta only
    | with_reducible refine keeps_of_eq (by with_reducible assumption) ?_
    | with_reducible refine keeps_of_eq3 (by with_reducible assumption) ?_
    | dsimp only

theorem keeps_execFcXoffRepeat {F : Kind → Prop} [May F .hosts] {r s : State} {x0 : _} (h : Keeps F r s) : OutKeeps F r (execFcXoffRepeat x0 s) := by
  unfold execFcXoffRepeat
  repeat' first
    | with_reducible assumption
    | intro _
    | with_reducible apply outKeeps_next
    | with_reducible apply outKeeps_ite
    | with_reducible apply keeps_ite
    | with_reducible apply keeps_modHost
    | with_reducible apply keeps_ite_snd
    | with_reducible apply keeps_foldl_snd
    | with_reducible apply keeps_foldl
    | split
    | dsimp -zeta only
    | with_reducible refine keeps_of_eq (by with_reducible assumption) ?_
    | with_reducible refine keeps_of_eq3 (by with_reducible assumption) ?_
    | dsimp only

theorem keeps_execFcFrameInsert {F : Kind → Prop} [May F .regs] [May F .hosts] [May F .lanes] [May F .out] {r s : State} {x0 x1 : _} (h : Keeps F r s) : OutKeeps F r (execFcFrameInsert x0 x1 s) := by
  unfold execFcFrameInsert
  repeat' first
    | with_reducible assumption
    | intro _
    | with_reducible apply outKeeps_next
    | with_reducible apply outKeeps_ite
    | with_reducible apply keeps_ite
    | with_reducible apply keeps_modHost
    | with_reducible apply keeps_setFld
    | with_reducible apply keeps_inc
    | with_reducible apply keeps_sendHost
    | with_reducible apply keeps_forEach
    | with_reducible apply keeps_ite_snd
    | with_reducible apply keeps_foldl_snd
    | with_reducible apply keeps_foldl
    | split
    | dsimp -zeta only
    | with_reducible refine keeps_of_eq (by with_reducible assumption) ?_
    | with_reducible refine keeps_of_eq3 (by with_reducible assumption) ?_
    | dsimp only

theorem keeps_lastError {F : Kind → Prop} [May F .regs] {r s : State} {x0 x1 x2 : _} (h : Keeps F r s) : Keeps F r (lastError x0 x1 x2 s) := by
  unfold lastError
  repeat' first
    | with_reducible assumption
    | intro _
    | with_reducible apply keeps_ite
    | with_reducible apply keeps_setFld
    | with_reducible apply keeps_ite_snd
    | with_reducible apply keeps_foldl_snd
    | with_reducible apply keeps_foldl
    | split
    | dsimp -zeta only
    | with_reducible refine keeps_of_eq (by with_reducible assumption) ?_
    | with_reducible refine keeps_of_eq3 (by with_reducible assumption) ?_
    | dsimp only

theorem keeps_execHostelScrubPass {F : Kind → Prop} [May F .regs] {r s : State} {x0 : _} (h : Keeps F r s) : OutKeeps F r (execHostelScrubPass x0 s) := by
  unfold execHostelScrubPass
  repeat' first
    | with_reducible assumption
    | intro _
    | with_reducible apply outKeeps_next
    | with_reducible apply outKeeps_ite
    | with_reducible apply keeps_ite
    | with_reducible apply keeps_lastError
    | with_reducible apply keeps_inc64
    | with_reducible apply keeps_forEach
    | with_reducible apply keeps_ite_snd
    | with_reducible apply keeps_foldl_snd
    | with_reducible apply keeps_foldl
    | split
    | dsimp -zeta only
    | with_reducible refine keeps_of_eq (by with_reducible assumption) ?_
    | with_reducible refine keeps_of_eq3 (by with_reducible assumption) ?_
    | dsimp only

theorem keeps_fenceQueue {F : Kind → Prop} [May F .regs] [May F .queues] [May F .hosts] [May F .banks] [May F .raised] {r s : State} {b l d : _} (h : Keeps F r s) : Keeps F r (fenceQueue b l d s).2.2 := by
  unfold fenceQueue
  extract_lets hit cws isOpen s1 s2 s3 c s4 tt gone lost s5 s6 s7
  split
  · exact h
  have h3 : Keeps F r s3 := keeps_setFrames (keeps_releaseBeds (keeps_dropFrames h))
  clear_value s3
  have hc : Keeps F r c.2 := by unfold c; split; exacts [keeps_dropCodewords h3, h3]
  clear_value c
  have h4 : Keeps F r s4 := keeps_ite (keeps_modQueue (keeps_releaseBeds hc)) hc
  clear_value s4
  have h6 : Keeps F r s6 := keeps_addTo (keeps_ite h4 (keeps_raise (keeps_addTo h4)))
  clear_value s6
  refine keeps_showBeds ?_
  unfold s7
  cases d
  · exact keeps_ite (keeps_dropRest (keeps_modHost h6)) h6
  · exact keeps_ite (keeps_modQueue h6) h6

theorem keeps_fenceLinks {F : Kind → Prop} [May F .regs] [May F .queues] [May F .hosts] [May F .banks] [May F .raised] {r : State} {b : Nat} (ls : List LinkId) (x : Nat × Nat × State) (h : Keeps F r x.2.2) :
    Keeps F r (ls.foldl (fun (x : Nat × Nat × State) l =>
      let u := fenceQueue b l .tx x.2.2
      let v := fenceQueue b l .rx u.2.2
      (x.1 + u.1 + v.1, x.2.1 + u.2.1 + v.2.1, v.2.2)) x).2.2 := by
  induction ls generalizing x with
  | nil => exact h
  | cons l ls ih => exact ih _ (keeps_fenceQueue (keeps_fenceQueue h))

theorem keeps_execHostelFence {F : Kind → Prop} [May F .regs] [May F .queues] [May F .hosts] [May F .banks] [May F .waiting] [May F .later] [May F .raised] {r s : State} {bank addr : _} (h : Keeps F r s) : OutKeeps F r (execHostelFence bank addr s) := by
  unfold execHostelFence
  refine outKeeps_ite ?_ (outKeeps_next h)
  extract_lets was spare a b x c e f g
  have ha : Keeps F r a := keeps_setBankState h
  have hb : Keeps F r b := by
    unfold b
    clear_value spare
    cases spare with
    | none => exact ha
    | some b => exact keeps_setBankState ha
  clear_value b
  have hx : Keeps F r x.2.2 := by
    unfold x
    generalize everyLink = ls
    exact keeps_fenceLinks ls (0, 0, b) hb
  clear_value x
  have hc : Keeps F r c := keeps_setBedsUsed hx
  clear_value c
  have he : Keeps F r e := by
    unfold e
    with_reducible apply keeps_intBit
    with_reducible apply keeps_showBanks
    with_reducible apply keeps_inc
    with_reducible apply keeps_inc
    exact hc
  clear_value e
  have hf : Keeps F r f := by
    unfold f
    with_reducible apply keeps_lastError
    exact he
  clear_value f
  have hg : Keeps F r g := by
    unfold g
    with_reducible apply keeps_raise
    exact hf
  with_reducible apply outKeeps_next
  with_reducible apply keeps_internalRepair
  with_reducible exact hg

end Sys2Proof.Machine
end

