-- ==== Sys2Proof/Laws/Reads.lean ====
section
/-! SUPPORT. What a read of the state gives after an update of another kind of state. -/
namespace Sys2Proof.Machine

variable (s : State)

@[simp] theorem State.setReg_port (a : Nat) (v : Word) (n' : Nat) : (s.setReg a v).port n' = s.port n' := State.port_congr (State.setReg_ports s a v) n'
@[simp] theorem State.setReg_pair (a : Nat) (v : Word) (n' p' : Nat) : (s.setReg a v).pair n' p' = s.pair n' p' := State.pair_congr (State.setReg_pairs s a v) n' p'
@[simp] theorem State.setReg_link (a : Nat) (v : Word) (l' : LinkId) : (s.setReg a v).link l' = s.link l' := State.link_congr (State.setReg_links s a v) l'
@[simp] theorem State.setReg_queue (a : Nat) (v : Word) (l' : LinkId) : (s.setReg a v).queue l' = s.queue l' := State.queue_congr (State.setReg_queues s a v) l'
@[simp] theorem State.setReg_host (a : Nat) (v : Word) (n' : Nat) : (s.setReg a v).host n' = s.host n' := State.host_congr (State.setReg_hosts s a v) n'
@[simp] theorem State.setReg_lane (a : Nat) (v : Word) (h' : Nat) : (s.setReg a v).lane h' = s.lane h' := State.lane_congr (State.setReg_lanes s a v) h'
@[simp] theorem State.setReg_portLane (a : Nat) (v : Word) (n' : Nat) : (s.setReg a v).portLane n' = s.portLane n' := State.portLane_congr (State.setReg_laneOf s a v) n'
@[simp] theorem State.setReg_tile (a : Nat) (v : Word) (n' : Nat) : (s.setReg a v).tile n' = s.tile n' := State.tile_congr (State.setReg_tiles s a v) n'
@[simp] theorem State.setReg_diag (a : Nat) (v : Word) (g' : Nat) : (s.setReg a v).diag g' = s.diag g' := State.diag_congr (State.setReg_diags s a v) g'
@[simp] theorem State.setReg_dom (a : Nat) (v : Word) (i' : Nat) : (s.setReg a v).dom i' = s.dom i' := State.dom_congr (State.setReg_doms s a v) i'
@[simp] theorem State.setReg_cal (a : Nat) (v : Word) (i' g' : Nat) : (s.setReg a v).cal i' g' = s.cal i' g' := State.cal_congr (State.setReg_cals s a v) i' g'
@[simp] theorem State.setFld_port (f : Fld) (v : Nat) (n' : Nat) : (s.setFld f v).port n' = s.port n' := State.port_congr (State.setFld_ports s f v) n'
@[simp] theorem State.setFld_pair (f : Fld) (v : Nat) (n' p' : Nat) : (s.setFld f v).pair n' p' = s.pair n' p' := State.pair_congr (State.setFld_pairs s f v) n' p'
@[simp] theorem State.setFld_link (f : Fld) (v : Nat) (l' : LinkId) : (s.setFld f v).link l' = s.link l' := State.link_congr (State.setFld_links s f v) l'
@[simp] theorem State.setFld_queue (f : Fld) (v : Nat) (l' : LinkId) : (s.setFld f v).queue l' = s.queue l' := State.queue_congr (State.setFld_queues s f v) l'
@[simp] theorem State.setFld_host (f : Fld) (v : Nat) (n' : Nat) : (s.setFld f v).host n' = s.host n' := State.host_congr (State.setFld_hosts s f v) n'
@[simp] theorem State.setFld_lane (f : Fld) (v : Nat) (h' : Nat) : (s.setFld f v).lane h' = s.lane h' := State.lane_congr (State.setFld_lanes s f v) h'
@[simp] theorem State.setFld_portLane (f : Fld) (v : Nat) (n' : Nat) : (s.setFld f v).portLane n' = s.portLane n' := State.portLane_congr (State.setFld_laneOf s f v) n'
@[simp] theorem State.setFld_tile (f : Fld) (v : Nat) (n' : Nat) : (s.setFld f v).tile n' = s.tile n' := State.tile_congr (State.setFld_tiles s f v) n'
@[simp] theorem State.setFld_diag (f : Fld) (v : Nat) (g' : Nat) : (s.setFld f v).diag g' = s.diag g' := State.diag_congr (State.setFld_diags s f v) g'
@[simp] theorem State.setFld_dom (f : Fld) (v : Nat) (i' : Nat) : (s.setFld f v).dom i' = s.dom i' := State.dom_congr (State.setFld_doms s f v) i'
@[simp] theorem State.setFld_cal (f : Fld) (v : Nat) (i' g' : Nat) : (s.setFld f v).cal i' g' = s.cal i' g' := State.cal_congr (State.setFld_cals s f v) i' g'
@[simp] theorem State.clearReg_port (a : Nat) (n' : Nat) : (s.clearReg a).port n' = s.port n' := State.port_congr (State.clearReg_ports s a) n'
@[simp] theorem State.clearReg_pair (a : Nat) (n' p' : Nat) : (s.clearReg a).pair n' p' = s.pair n' p' := State.pair_congr (State.clearReg_pairs s a) n' p'
@[simp] theorem State.clearReg_link (a : Nat) (l' : LinkId) : (s.clearReg a).link l' = s.link l' := State.link_congr (State.clearReg_links s a) l'
@[simp] theorem State.clearReg_queue (a : Nat) (l' : LinkId) : (s.clearReg a).queue l' = s.queue l' := State.queue_congr (State.clearReg_queues s a) l'
@[simp] theorem State.clearReg_host (a : Nat) (n' : Nat) : (s.clearReg a).host n' = s.host n' := State.host_congr (State.clearReg_hosts s a) n'
@[simp] theorem State.clearReg_lane (a : Nat) (h' : Nat) : (s.clearReg a).lane h' = s.lane h' := State.lane_congr (State.clearReg_lanes s a) h'
@[simp] theorem State.clearReg_portLane (a : Nat) (n' : Nat) : (s.clearReg a).portLane n' = s.portLane n' := State.portLane_congr (State.clearReg_laneOf s a) n'
@[simp] theorem State.clearReg_tile (a : Nat) (n' : Nat) : (s.clearReg a).tile n' = s.tile n' := State.tile_congr (State.clearReg_tiles s a) n'
@[simp] theorem State.clearReg_diag (a : Nat) (g' : Nat) : (s.clearReg a).diag g' = s.diag g' := State.diag_congr (State.clearReg_diags s a) g'
@[simp] theorem State.clearReg_dom (a : Nat) (i' : Nat) : (s.clearReg a).dom i' = s.dom i' := State.dom_congr (State.clearReg_doms s a) i'
@[simp] theorem State.clearReg_cal (a : Nat) (i' g' : Nat) : (s.clearReg a).cal i' g' = s.cal i' g' := State.cal_congr (State.clearReg_cals s a) i' g'
@[simp] theorem State.inc_port (a : Nat) (n' : Nat) : (s.inc a).port n' = s.port n' := State.port_congr (State.inc_ports s a) n'
@[simp] theorem State.inc_pair (a : Nat) (n' p' : Nat) : (s.inc a).pair n' p' = s.pair n' p' := State.pair_congr (State.inc_pairs s a) n' p'
@[simp] theorem State.inc_link (a : Nat) (l' : LinkId) : (s.inc a).link l' = s.link l' := State.link_congr (State.inc_links s a) l'
@[simp] theorem State.inc_queue (a : Nat) (l' : LinkId) : (s.inc a).queue l' = s.queue l' := State.queue_congr (State.inc_queues s a) l'
@[simp] theorem State.inc_host (a : Nat) (n' : Nat) : (s.inc a).host n' = s.host n' := State.host_congr (State.inc_hosts s a) n'
@[simp] theorem State.inc_lane (a : Nat) (h' : Nat) : (s.inc a).lane h' = s.lane h' := State.lane_congr (State.inc_lanes s a) h'
@[simp] theorem State.inc_portLane (a : Nat) (n' : Nat) : (s.inc a).portLane n' = s.portLane n' := State.portLane_congr (State.inc_laneOf s a) n'
@[simp] theorem State.inc_tile (a : Nat) (n' : Nat) : (s.inc a).tile n' = s.tile n' := State.tile_congr (State.inc_tiles s a) n'
@[simp] theorem State.inc_diag (a : Nat) (g' : Nat) : (s.inc a).diag g' = s.diag g' := State.diag_congr (State.inc_diags s a) g'
@[simp] theorem State.inc_dom (a : Nat) (i' : Nat) : (s.inc a).dom i' = s.dom i' := State.dom_congr (State.inc_doms s a) i'
@[simp] theorem State.inc_cal (a : Nat) (i' g' : Nat) : (s.inc a).cal i' g' = s.cal i' g' := State.cal_congr (State.inc_cals s a) i' g'
@[simp] theorem State.addTo_port (a k : Nat) (n' : Nat) : (s.addTo a k).port n' = s.port n' := State.port_congr (State.addTo_ports s a k) n'
@[simp] theorem State.addTo_pair (a k : Nat) (n' p' : Nat) : (s.addTo a k).pair n' p' = s.pair n' p' := State.pair_congr (State.addTo_pairs s a k) n' p'
@[simp] theorem State.addTo_link (a k : Nat) (l' : LinkId) : (s.addTo a k).link l' = s.link l' := State.link_congr (State.addTo_links s a k) l'
@[simp] theorem State.addTo_queue (a k : Nat) (l' : LinkId) : (s.addTo a k).queue l' = s.queue l' := State.queue_congr (State.addTo_queues s a k) l'
@[simp] theorem State.addTo_host (a k : Nat) (n' : Nat) : (s.addTo a k).host n' = s.host n' := State.host_congr (State.addTo_hosts s a k) n'
@[simp] theorem State.addTo_lane (a k : Nat) (h' : Nat) : (s.addTo a k).lane h' = s.lane h' := State.lane_congr (State.addTo_lanes s a k) h'
@[simp] theorem State.addTo_portLane (a k : Nat) (n' : Nat) : (s.addTo a k).portLane n' = s.portLane n' := State.portLane_congr (State.addTo_laneOf s a k) n'
@[simp] theorem State.addTo_tile (a k : Nat) (n' : Nat) : (s.addTo a k).tile n' = s.tile n' := State.tile_congr (State.addTo_tiles s a k) n'
@[simp] theorem State.addTo_diag (a k : Nat) (g' : Nat) : (s.addTo a k).diag g' = s.diag g' := State.diag_congr (State.addTo_diags s a k) g'
@[simp] theorem State.addTo_dom (a k : Nat) (i' : Nat) : (s.addTo a k).dom i' = s.dom i' := State.dom_congr (State.addTo_doms s a k) i'
@[simp] theorem State.addTo_cal (a k : Nat) (i' g' : Nat) : (s.addTo a k).cal i' g' = s.cal i' g' := State.cal_congr (State.addTo_cals s a k) i' g'
@[simp] theorem State.set64_port (a v : Nat) (n' : Nat) : (s.set64 a v).port n' = s.port n' := State.port_congr (State.set64_ports s a v) n'
@[simp] theorem State.set64_pair (a v : Nat) (n' p' : Nat) : (s.set64 a v).pair n' p' = s.pair n' p' := State.pair_congr (State.set64_pairs s a v) n' p'
@[simp] theorem State.set64_link (a v : Nat) (l' : LinkId) : (s.set64 a v).link l' = s.link l' := State.link_congr (State.set64_links s a v) l'
@[simp] theorem State.set64_queue (a v : Nat) (l' : LinkId) : (s.set64 a v).queue l' = s.queue l' := State.queue_congr (State.set64_queues s a v) l'
@[simp] theorem State.set64_host (a v : Nat) (n' : Nat) : (s.set64 a v).host n' = s.host n' := State.host_congr (State.set64_hosts s a v) n'
@[simp] theorem State.set64_lane (a v : Nat) (h' : Nat) : (s.set64 a v).lane h' = s.lane h' := State.lane_congr (State.set64_lanes s a v) h'
@[simp] theorem State.set64_portLane (a v : Nat) (n' : Nat) : (s.set64 a v).portLane n' = s.portLane n' := State.portLane_congr (State.set64_laneOf s a v) n'
@[simp] theorem State.set64_tile (a v : Nat) (n' : Nat) : (s.set64 a v).tile n' = s.tile n' := State.tile_congr (State.set64_tiles s a v) n'
@[simp] theorem State.set64_diag (a v : Nat) (g' : Nat) : (s.set64 a v).diag g' = s.diag g' := State.diag_congr (State.set64_diags s a v) g'
@[simp] theorem State.set64_dom (a v : Nat) (i' : Nat) : (s.set64 a v).dom i' = s.dom i' := State.dom_congr (State.set64_doms s a v) i'
@[simp] theorem State.set64_cal (a v : Nat) (i' g' : Nat) : (s.set64 a v).cal i' g' = s.cal i' g' := State.cal_congr (State.set64_cals s a v) i' g'
@[simp] theorem State.add64_port (a k : Nat) (n' : Nat) : (s.add64 a k).port n' = s.port n' := State.port_congr (State.add64_ports s a k) n'
@[simp] theorem State.add64_pair (a k : Nat) (n' p' : Nat) : (s.add64 a k).pair n' p' = s.pair n' p' := State.pair_congr (State.add64_pairs s a k) n' p'
@[simp] theorem State.add64_link (a k : Nat) (l' : LinkId) : (s.add64 a k).link l' = s.link l' := State.link_congr (State.add64_links s a k) l'
@[simp] theorem State.add64_queue (a k : Nat) (l' : LinkId) : (s.add64 a k).queue l' = s.queue l' := State.queue_congr (State.add64_queues s a k) l'
@[simp] theorem State.add64_host (a k : Nat) (n' : Nat) : (s.add64 a k).host n' = s.host n' := State.host_congr (State.add64_hosts s a k) n'
@[simp] theorem State.add64_lane (a k : Nat) (h' : Nat) : (s.add64 a k).lane h' = s.lane h' := State.lane_congr (State.add64_lanes s a k) h'
@[simp] theorem State.add64_portLane (a k : Nat) (n' : Nat) : (s.add64 a k).portLane n' = s.portLane n' := State.portLane_congr (State.add64_laneOf s a k) n'
@[simp] theorem State.add64_tile (a k : Nat) (n' : Nat) : (s.add64 a k).tile n' = s.tile n' := State.tile_congr (State.add64_tiles s a k) n'
@[simp] theorem State.add64_diag (a k : Nat) (g' : Nat) : (s.add64 a k).diag g' = s.diag g' := State.diag_congr (State.add64_diags s a k) g'
@[simp] theorem State.add64_dom (a k : Nat) (i' : Nat) : (s.add64 a k).dom i' = s.dom i' := State.dom_congr (State.add64_doms s a k) i'
@[simp] theorem State.add64_cal (a k : Nat) (i' g' : Nat) : (s.add64 a k).cal i' g' = s.cal i' g' := State.cal_congr (State.add64_cals s a k) i' g'
@[simp] theorem State.inc64_port (a : Nat) (n' : Nat) : (s.inc64 a).port n' = s.port n' := State.port_congr (State.inc64_ports s a) n'
@[simp] theorem State.inc64_pair (a : Nat) (n' p' : Nat) : (s.inc64 a).pair n' p' = s.pair n' p' := State.pair_congr (State.inc64_pairs s a) n' p'
@[simp] theorem State.inc64_link (a : Nat) (l' : LinkId) : (s.inc64 a).link l' = s.link l' := State.link_congr (State.inc64_links s a) l'
@[simp] theorem State.inc64_queue (a : Nat) (l' : LinkId) : (s.inc64 a).queue l' = s.queue l' := State.queue_congr (State.inc64_queues s a) l'
@[simp] theorem State.inc64_host (a : Nat) (n' : Nat) : (s.inc64 a).host n' = s.host n' := State.host_congr (State.inc64_hosts s a) n'
@[simp] theorem State.inc64_lane (a : Nat) (h' : Nat) : (s.inc64 a).lane h' = s.lane h' := State.lane_congr (State.inc64_lanes s a) h'
@[simp] theorem State.inc64_portLane (a : Nat) (n' : Nat) : (s.inc64 a).portLane n' = s.portLane n' := State.portLane_congr (State.inc64_laneOf s a) n'
@[simp] theorem State.inc64_tile (a : Nat) (n' : Nat) : (s.inc64 a).tile n' = s.tile n' := State.tile_congr (State.inc64_tiles s a) n'
@[simp] theorem State.inc64_diag (a : Nat) (g' : Nat) : (s.inc64 a).diag g' = s.diag g' := State.diag_congr (State.inc64_diags s a) g'
@[simp] theorem State.inc64_dom (a : Nat) (i' : Nat) : (s.inc64 a).dom i' = s.dom i' := State.dom_congr (State.inc64_doms s a) i'
@[simp] theorem State.inc64_cal (a : Nat) (i' g' : Nat) : (s.inc64 a).cal i' g' = s.cal i' g' := State.cal_congr (State.inc64_cals s a) i' g'
@[simp] theorem State.intBit_port (i : Nat) (n' : Nat) : (s.intBit i).port n' = s.port n' := State.port_congr (State.intBit_ports s i) n'
@[simp] theorem State.intBit_pair (i : Nat) (n' p' : Nat) : (s.intBit i).pair n' p' = s.pair n' p' := State.pair_congr (State.intBit_pairs s i) n' p'
@[simp] theorem State.intBit_link (i : Nat) (l' : LinkId) : (s.intBit i).link l' = s.link l' := State.link_congr (State.intBit_links s i) l'
@[simp] theorem State.intBit_queue (i : Nat) (l' : LinkId) : (s.intBit i).queue l' = s.queue l' := State.queue_congr (State.intBit_queues s i) l'
@[simp] theorem State.intBit_host (i : Nat) (n' : Nat) : (s.intBit i).host n' = s.host n' := State.host_congr (State.intBit_hosts s i) n'
@[simp] theorem State.intBit_lane (i : Nat) (h' : Nat) : (s.intBit i).lane h' = s.lane h' := State.lane_congr (State.intBit_lanes s i) h'
@[simp] theorem State.intBit_portLane (i : Nat) (n' : Nat) : (s.intBit i).portLane n' = s.portLane n' := State.portLane_congr (State.intBit_laneOf s i) n'
@[simp] theorem State.intBit_tile (i : Nat) (n' : Nat) : (s.intBit i).tile n' = s.tile n' := State.tile_congr (State.intBit_tiles s i) n'
@[simp] theorem State.intBit_diag (i : Nat) (g' : Nat) : (s.intBit i).diag g' = s.diag g' := State.diag_congr (State.intBit_diags s i) g'
@[simp] theorem State.intBit_dom (i : Nat) (i' : Nat) : (s.intBit i).dom i' = s.dom i' := State.dom_congr (State.intBit_doms s i) i'
@[simp] theorem State.intBit_cal (i : Nat) (i' g' : Nat) : (s.intBit i).cal i' g' = s.cal i' g' := State.cal_congr (State.intBit_cals s i) i' g'
@[simp] theorem State.setPort_reg (n : Nat) (v : PortSt) (a' : Nat) : (s.setPort n v).reg a' = s.reg a' := State.reg_congr _ _ (State.setPort_regs s n v) a'
@[simp] theorem State.setPort_fld (n : Nat) (v : PortSt) (f' : Fld) : (s.setPort n v).fld f' = s.fld f' := State.fld_congr _ _ (State.setPort_regs s n v) f'
@[simp] theorem State.setPort_flag (n : Nat) (v : PortSt) (f' : Fld) : (s.setPort n v).flag f' = s.flag f' := State.flag_congr _ _ (State.setPort_regs s n v) f'
@[simp] theorem State.setPort_pair (n : Nat) (v : PortSt) (n' p' : Nat) : (s.setPort n v).pair n' p' = s.pair n' p' := State.pair_congr (State.setPort_pairs s n v) n' p'
@[simp] theorem State.setPort_link (n : Nat) (v : PortSt) (l' : LinkId) : (s.setPort n v).link l' = s.link l' := State.link_congr (State.setPort_links s n v) l'
@[simp] theorem State.setPort_queue (n : Nat) (v : PortSt) (l' : LinkId) : (s.setPort n v).queue l' = s.queue l' := State.queue_congr (State.setPort_queues s n v) l'
@[simp] theorem State.setPort_host (n : Nat) (v : PortSt) (n' : Nat) : (s.setPort n v).host n' = s.host n' := State.host_congr (State.setPort_hosts s n v) n'
@[simp] theorem State.setPort_lane (n : Nat) (v : PortSt) (h' : Nat) : (s.setPort n v).lane h' = s.lane h' := State.lane_congr (State.setPort_lanes s n v) h'
@[simp] theorem State.setPort_portLane (n : Nat) (v : PortSt) (n' : Nat) : (s.setPort n v).portLane n' = s.portLane n' := State.portLane_congr (State.setPort_laneOf s n v) n'
@[simp] theorem State.setPort_tile (n : Nat) (v : PortSt) (n' : Nat) : (s.setPort n v).tile n' = s.tile n' := State.tile_congr (State.setPort_tiles s n v) n'
@[simp] theorem State.setPort_diag (n : Nat) (v : PortSt) (g' : Nat) : (s.setPort n v).diag g' = s.diag g' := State.diag_congr (State.setPort_diags s n v) g'
@[simp] theorem State.setPort_dom (n : Nat) (v : PortSt) (i' : Nat) : (s.setPort n v).dom i' = s.dom i' := State.dom_congr (State.setPort_doms s n v) i'
@[simp] theorem State.setPort_cal (n : Nat) (v : PortSt) (i' g' : Nat) : (s.setPort n v).cal i' g' = s.cal i' g' := State.cal_congr (State.setPort_cals s n v) i' g'
@[simp] theorem State.modPort_reg (n : Nat) (g : PortSt → PortSt) (a' : Nat) : (s.modPort n g).reg a' = s.reg a' := State.reg_congr _ _ (State.modPort_regs s n g) a'
@[simp] theorem State.modPort_fld (n : Nat) (g : PortSt → PortSt) (f' : Fld) : (s.modPort n g).fld f' = s.fld f' := State.fld_congr _ _ (State.modPort_regs s n g) f'
@[simp] theorem State.modPort_flag (n : Nat) (g : PortSt → PortSt) (f' : Fld) : (s.modPort n g).flag f' = s.flag f' := State.flag_congr _ _ (State.modPort_regs s n g) f'
@[simp] theorem State.modPort_pair (n : Nat) (g : PortSt → PortSt) (n' p' : Nat) : (s.modPort n g).pair n' p' = s.pair n' p' := State.pair_congr (State.modPort_pairs s n g) n' p'
@[simp] theorem State.modPort_link (n : Nat) (g : PortSt → PortSt) (l' : LinkId) : (s.modPort n g).link l' = s.link l' := State.link_congr (State.modPort_links s n g) l'
@[simp] theorem State.modPort_queue (n : Nat) (g : PortSt → PortSt) (l' : LinkId) : (s.modPort n g).queue l' = s.queue l' := State.queue_congr (State.modPort_queues s n g) l'
@[simp] theorem State.modPort_host (n : Nat) (g : PortSt → PortSt) (n' : Nat) : (s.modPort n g).host n' = s.host n' := State.host_congr (State.modPort_hosts s n g) n'
@[simp] theorem State.modPort_lane (n : Nat) (g : PortSt → PortSt) (h' : Nat) : (s.modPort n g).lane h' = s.lane h' := State.lane_congr (State.modPort_lanes s n g) h'
@[simp] theorem State.modPort_portLane (n : Nat) (g : PortSt → PortSt) (n' : Nat) : (s.modPort n g).portLane n' = s.portLane n' := State.portLane_congr (State.modPort_laneOf s n g) n'
@[simp] theorem State.modPort_tile (n : Nat) (g : PortSt → PortSt) (n' : Nat) : (s.modPort n g).tile n' = s.tile n' := State.tile_congr (State.modPort_tiles s n g) n'
@[simp] theorem State.modPort_diag (n : Nat) (g : PortSt → PortSt) (g' : Nat) : (s.modPort n g).diag g' = s.diag g' := State.diag_congr (State.modPort_diags s n g) g'
@[simp] theorem State.modPort_dom (n : Nat) (g : PortSt → PortSt) (i' : Nat) : (s.modPort n g).dom i' = s.dom i' := State.dom_congr (State.modPort_doms s n g) i'
@[simp] theorem State.modPort_cal (n : Nat) (g : PortSt → PortSt) (i' g' : Nat) : (s.modPort n g).cal i' g' = s.cal i' g' := State.cal_congr (State.modPort_cals s n g) i' g'
@[simp] theorem State.setPair_reg (n p : Nat) (v : PairSt) (a' : Nat) : (s.setPair n p v).reg a' = s.reg a' := State.reg_congr _ _ (State.setPair_regs s n p v) a'
@[simp] theorem State.setPair_fld (n p : Nat) (v : PairSt) (f' : Fld) : (s.setPair n p v).fld f' = s.fld f' := State.fld_congr _ _ (State.setPair_regs s n p v) f'
@[simp] theorem State.setPair_flag (n p : Nat) (v : PairSt) (f' : Fld) : (s.setPair n p v).flag f' = s.flag f' := State.flag_congr _ _ (State.setPair_regs s n p v) f'
@[simp] theorem State.setPair_port (n p : Nat) (v : PairSt) (n' : Nat) : (s.setPair n p v).port n' = s.port n' := State.port_congr (State.setPair_ports s n p v) n'
@[simp] theorem State.setPair_link (n p : Nat) (v : PairSt) (l' : LinkId) : (s.setPair n p v).link l' = s.link l' := State.link_congr (State.setPair_links s n p v) l'
@[simp] theorem State.setPair_queue (n p : Nat) (v : PairSt) (l' : LinkId) : (s.setPair n p v).queue l' = s.queue l' := State.queue_congr (State.setPair_queues s n p v) l'
@[simp] theorem State.setPair_host (n p : Nat) (v : PairSt) (n' : Nat) : (s.setPair n p v).host n' = s.host n' := State.host_congr (State.setPair_hosts s n p v) n'
@[simp] theorem State.setPair_lane (n p : Nat) (v : PairSt) (h' : Nat) : (s.setPair n p v).lane h' = s.lane h' := State.lane_congr (State.setPair_lanes s n p v) h'
@[simp] theorem State.setPair_portLane (n p : Nat) (v : PairSt) (n' : Nat) : (s.setPair n p v).portLane n' = s.portLane n' := State.portLane_congr (State.setPair_laneOf s n p v) n'
@[simp] theorem State.setPair_tile (n p : Nat) (v : PairSt) (n' : Nat) : (s.setPair n p v).tile n' = s.tile n' := State.tile_congr (State.setPair_tiles s n p v) n'
@[simp] theorem State.setPair_diag (n p : Nat) (v : PairSt) (g' : Nat) : (s.setPair n p v).diag g' = s.diag g' := State.diag_congr (State.setPair_diags s n p v) g'
@[simp] theorem State.setPair_dom (n p : Nat) (v : PairSt) (i' : Nat) : (s.setPair n p v).dom i' = s.dom i' := State.dom_congr (State.setPair_doms s n p v) i'
@[simp] theorem State.setPair_cal (n p : Nat) (v : PairSt) (i' g' : Nat) : (s.setPair n p v).cal i' g' = s.cal i' g' := State.cal_congr (State.setPair_cals s n p v) i' g'
@[simp] theorem State.modPair_reg (n p : Nat) (g : PairSt → PairSt) (a' : Nat) : (s.modPair n p g).reg a' = s.reg a' := State.reg_congr _ _ (State.modPair_regs s n p g) a'
@[simp] theorem State.modPair_fld (n p : Nat) (g : PairSt → PairSt) (f' : Fld) : (s.modPair n p g).fld f' = s.fld f' := State.fld_congr _ _ (State.modPair_regs s n p g) f'
@[simp] theorem State.modPair_flag (n p : Nat) (g : PairSt → PairSt) (f' : Fld) : (s.modPair n p g).flag f' = s.flag f' := State.flag_congr _ _ (State.modPair_regs s n p g) f'
@[simp] theorem State.modPair_port (n p : Nat) (g : PairSt → PairSt) (n' : Nat) : (s.modPair n p g).port n' = s.port n' := State.port_congr (State.modPair_ports s n p g) n'
@[simp] theorem State.modPair_link (n p : Nat) (g : PairSt → PairSt) (l' : LinkId) : (s.modPair n p g).link l' = s.link l' := State.link_congr (State.modPair_links s n p g) l'
@[simp] theorem State.modPair_queue (n p : Nat) (g : PairSt → PairSt) (l' : LinkId) : (s.modPair n p g).queue l' = s.queue l' := State.queue_congr (State.modPair_queues s n p g) l'
@[simp] theorem State.modPair_host (n p : Nat) (g : PairSt → PairSt) (n' : Nat) : (s.modPair n p g).host n' = s.host n' := State.host_congr (State.modPair_hosts s n p g) n'
@[simp] theorem State.modPair_lane (n p : Nat) (g : PairSt → PairSt) (h' : Nat) : (s.modPair n p g).lane h' = s.lane h' := State.lane_congr (State.modPair_lanes s n p g) h'
@[simp] theorem State.modPair_portLane (n p : Nat) (g : PairSt → PairSt) (n' : Nat) : (s.modPair n p g).portLane n' = s.portLane n' := State.portLane_congr (State.modPair_laneOf s n p g) n'
@[simp] theorem State.modPair_tile (n p : Nat) (g : PairSt → PairSt) (n' : Nat) : (s.modPair n p g).tile n' = s.tile n' := State.tile_congr (State.modPair_tiles s n p g) n'
@[simp] theorem State.modPair_diag (n p : Nat) (g : PairSt → PairSt) (g' : Nat) : (s.modPair n p g).diag g' = s.diag g' := State.diag_congr (State.modPair_diags s n p g) g'
@[simp] theorem State.modPair_dom (n p : Nat) (g : PairSt → PairSt) (i' : Nat) : (s.modPair n p g).dom i' = s.dom i' := State.dom_congr (State.modPair_doms s n p g) i'
@[simp] theorem State.modPair_cal (n p : Nat) (g : PairSt → PairSt) (i' g' : Nat) : (s.modPair n p g).cal i' g' = s.cal i' g' := State.cal_congr (State.modPair_cals s n p g) i' g'
@[simp] theorem State.setLink_reg (l : LinkId) (v : LinkSt) (a' : Nat) : (s.setLink l v).reg a' = s.reg a' := State.reg_congr _ _ (State.setLink_regs s l v) a'
@[simp] theorem State.setLink_fld (l : LinkId) (v : LinkSt) (f' : Fld) : (s.setLink l v).fld f' = s.fld f' := State.fld_congr _ _ (State.setLink_regs s l v) f'
@[simp] theorem State.setLink_flag (l : LinkId) (v : LinkSt) (f' : Fld) : (s.setLink l v).flag f' = s.flag f' := State.flag_congr _ _ (State.setLink_regs s l v) f'
@[simp] theorem State.setLink_port (l : LinkId) (v : LinkSt) (n' : Nat) : (s.setLink l v).port n' = s.port n' := State.port_congr (State.setLink_ports s l v) n'
@[simp] theorem State.setLink_pair (l : LinkId) (v : LinkSt) (n' p' : Nat) : (s.setLink l v).pair n' p' = s.pair n' p' := State.pair_congr (State.setLink_pairs s l v) n' p'
@[simp] theorem State.setLink_queue (l : LinkId) (v : LinkSt) (l' : LinkId) : (s.setLink l v).queue l' = s.queue l' := State.queue_congr (State.setLink_queues s l v) l'
@[simp] theorem State.setLink_host (l : LinkId) (v : LinkSt) (n' : Nat) : (s.setLink l v).host n' = s.host n' := State.host_congr (State.setLink_hosts s l v) n'
@[simp] theorem State.setLink_lane (l : LinkId) (v : LinkSt) (h' : Nat) : (s.setLink l v).lane h' = s.lane h' := State.lane_congr (State.setLink_lanes s l v) h'
@[simp] theorem State.setLink_portLane (l : LinkId) (v : LinkSt) (n' : Nat) : (s.setLink l v).portLane n' = s.portLane n' := State.portLane_congr (State.setLink_laneOf s l v) n'
@[simp] theorem State.setLink_tile (l : LinkId) (v : LinkSt) (n' : Nat) : (s.setLink l v).tile n' = s.tile n' := State.tile_congr (State.setLink_tiles s l v) n'
@[simp] theorem State.setLink_diag (l : LinkId) (v : LinkSt) (g' : Nat) : (s.setLink l v).diag g' = s.diag g' := State.diag_congr (State.setLink_diags s l v) g'
@[simp] theorem State.setLink_dom (l : LinkId) (v : LinkSt) (i' : Nat) : (s.setLink l v).dom i' = s.dom i' := State.dom_congr (State.setLink_doms s l v) i'
@[simp] theorem State.setLink_cal (l : LinkId) (v : LinkSt) (i' g' : Nat) : (s.setLink l v).cal i' g' = s.cal i' g' := State.cal_congr (State.setLink_cals s l v) i' g'
@[simp] theorem State.modLink_reg (l : LinkId) (g : LinkSt → LinkSt) (a' : Nat) : (s.modLink l g).reg a' = s.reg a' := State.reg_congr _ _ (State.modLink_regs s l g) a'
@[simp] theorem State.modLink_fld (l : LinkId) (g : LinkSt → LinkSt) (f' : Fld) : (s.modLink l g).fld f' = s.fld f' := State.fld_congr _ _ (State.modLink_regs s l g) f'
@[simp] theorem State.modLink_flag (l : LinkId) (g : LinkSt → LinkSt) (f' : Fld) : (s.modLink l g).flag f' = s.flag f' := State.flag_congr _ _ (State.modLink_regs s l g) f'
@[simp] theorem State.modLink_port (l : LinkId) (g : LinkSt → LinkSt) (n' : Nat) : (s.modLink l g).port n' = s.port n' := State.port_congr (State.modLink_ports s l g) n'
@[simp] theorem State.modLink_pair (l : LinkId) (g : LinkSt → LinkSt) (n' p' : Nat) : (s.modLink l g).pair n' p' = s.pair n' p' := State.pair_congr (State.modLink_pairs s l g) n' p'
@[simp] theorem State.modLink_queue (l : LinkId) (g : LinkSt → LinkSt) (l' : LinkId) : (s.modLink l g).queue l' = s.queue l' := State.queue_congr (State.modLink_queues s l g) l'
@[simp] theorem State.modLink_host (l : LinkId) (g : LinkSt → LinkSt) (n' : Nat) : (s.modLink l g).host n' = s.host n' := State.host_congr (State.modLink_hosts s l g) n'
@[simp] theorem State.modLink_lane (l : LinkId) (g : LinkSt → LinkSt) (h' : Nat) : (s.modLink l g).lane h' = s.lane h' := State.lane_congr (State.modLink_lanes s l g) h'
@[simp] theorem State.modLink_portLane (l : LinkId) (g : LinkSt → LinkSt) (n' : Nat) : (s.modLink l g).portLane n' = s.portLane n' := State.portLane_congr (State.modLink_laneOf s l g) n'
@[simp] theorem State.modLink_tile (l : LinkId) (g : LinkSt → LinkSt) (n' : Nat) : (s.modLink l g).tile n' = s.tile n' := State.tile_congr (State.modLink_tiles s l g) n'
@[simp] theorem State.modLink_diag (l : LinkId) (g : LinkSt → LinkSt) (g' : Nat) : (s.modLink l g).diag g' = s.diag g' := State.diag_congr (State.modLink_diags s l g) g'
@[simp] theorem State.modLink_dom (l : LinkId) (g : LinkSt → LinkSt) (i' : Nat) : (s.modLink l g).dom i' = s.dom i' := State.dom_congr (State.modLink_doms s l g) i'
@[simp] theorem State.modLink_cal (l : LinkId) (g : LinkSt → LinkSt) (i' g' : Nat) : (s.modLink l g).cal i' g' = s.cal i' g' := State.cal_congr (State.modLink_cals s l g) i' g'
@[simp] theorem State.setQueue_reg (l : LinkId) (v : QueueSt) (a' : Nat) : (s.setQueue l v).reg a' = s.reg a' := State.reg_congr _ _ (State.setQueue_regs s l v) a'
@[simp] theorem State.setQueue_fld (l : LinkId) (v : QueueSt) (f' : Fld) : (s.setQueue l v).fld f' = s.fld f' := State.fld_congr _ _ (State.setQueue_regs s l v) f'
@[simp] theorem State.setQueue_flag (l : LinkId) (v : QueueSt) (f' : Fld) : (s.setQueue l v).flag f' = s.flag f' := State.flag_congr _ _ (State.setQueue_regs s l v) f'
@[simp] theorem State.setQueue_port (l : LinkId) (v : QueueSt) (n' : Nat) : (s.setQueue l v).port n' = s.port n' := State.port_congr (State.setQueue_ports s l v) n'
@[simp] theorem State.setQueue_pair (l : LinkId) (v : QueueSt) (n' p' : Nat) : (s.setQueue l v).pair n' p' = s.pair n' p' := State.pair_congr (State.setQueue_pairs s l v) n' p'
@[simp] theorem State.setQueue_link (l : LinkId) (v : QueueSt) (l' : LinkId) : (s.setQueue l v).link l' = s.link l' := State.link_congr (State.setQueue_links s l v) l'
@[simp] theorem State.setQueue_host (l : LinkId) (v : QueueSt) (n' : Nat) : (s.setQueue l v).host n' = s.host n' := State.host_congr (State.setQueue_hosts s l v) n'
@[simp] theorem State.setQueue_lane (l : LinkId) (v : QueueSt) (h' : Nat) : (s.setQueue l v).lane h' = s.lane h' := State.lane_congr (State.setQueue_lanes s l v) h'
@[simp] theorem State.setQueue_portLane (l : LinkId) (v : QueueSt) (n' : Nat) : (s.setQueue l v).portLane n' = s.portLane n' := State.portLane_congr (State.setQueue_laneOf s l v) n'
@[simp] theorem State.setQueue_tile (l : LinkId) (v : QueueSt) (n' : Nat) : (s.setQueue l v).tile n' = s.tile n' := State.tile_congr (State.setQueue_tiles s l v) n'
@[simp] theorem State.setQueue_diag (l : LinkId) (v : QueueSt) (g' : Nat) : (s.setQueue l v).diag g' = s.diag g' := State.diag_congr (State.setQueue_diags s l v) g'
@[simp] theorem State.setQueue_dom (l : LinkId) (v : QueueSt) (i' : Nat) : (s.setQueue l v).dom i' = s.dom i' := State.dom_congr (State.setQueue_doms s l v) i'
@[simp] theorem State.setQueue_cal (l : LinkId) (v : QueueSt) (i' g' : Nat) : (s.setQueue l v).cal i' g' = s.cal i' g' := State.cal_congr (State.setQueue_cals s l v) i' g'
@[simp] theorem State.modQueue_reg (l : LinkId) (g : QueueSt → QueueSt) (a' : Nat) : (s.modQueue l g).reg a' = s.reg a' := State.reg_congr _ _ (State.modQueue_regs s l g) a'
@[simp] theorem State.modQueue_fld (l : LinkId) (g : QueueSt → QueueSt) (f' : Fld) : (s.modQueue l g).fld f' = s.fld f' := State.fld_congr _ _ (State.modQueue_regs s l g) f'
@[simp] theorem State.modQueue_flag (l : LinkId) (g : QueueSt → QueueSt) (f' : Fld) : (s.modQueue l g).flag f' = s.flag f' := State.flag_congr _ _ (State.modQueue_regs s l g) f'
@[simp] theorem State.modQueue_port (l : LinkId) (g : QueueSt → QueueSt) (n' : Nat) : (s.modQueue l g).port n' = s.port n' := State.port_congr (State.modQueue_ports s l g) n'
@[simp] theorem State.modQueue_pair (l : LinkId) (g : QueueSt → QueueSt) (n' p' : Nat) : (s.modQueue l g).pair n' p' = s.pair n' p' := State.pair_congr (State.modQueue_pairs s l g) n' p'
@[simp] theorem State.modQueue_link (l : LinkId) (g : QueueSt → QueueSt) (l' : LinkId) : (s.modQueue l g).link l' = s.link l' := State.link_congr (State.modQueue_links s l g) l'
@[simp] theorem State.modQueue_host (l : LinkId) (g : QueueSt → QueueSt) (n' : Nat) : (s.modQueue l g).host n' = s.host n' := State.host_congr (State.modQueue_hosts s l g) n'
@[simp] theorem State.modQueue_lane (l : LinkId) (g : QueueSt → QueueSt) (h' : Nat) : (s.modQueue l g).lane h' = s.lane h' := State.lane_congr (State.modQueue_lanes s l g) h'
@[simp] theorem State.modQueue_portLane (l : LinkId) (g : QueueSt → QueueSt) (n' : Nat) : (s.modQueue l g).portLane n' = s.portLane n' := State.portLane_congr (State.modQueue_laneOf s l g) n'
@[simp] theorem State.modQueue_tile (l : LinkId) (g : QueueSt → QueueSt) (n' : Nat) : (s.modQueue l g).tile n' = s.tile n' := State.tile_congr (State.modQueue_tiles s l g) n'
@[simp] theorem State.modQueue_diag (l : LinkId) (g : QueueSt → QueueSt) (g' : Nat) : (s.modQueue l g).diag g' = s.diag g' := State.diag_congr (State.modQueue_diags s l g) g'
@[simp] theorem State.modQueue_dom (l : LinkId) (g : QueueSt → QueueSt) (i' : Nat) : (s.modQueue l g).dom i' = s.dom i' := State.dom_congr (State.modQueue_doms s l g) i'
@[simp] theorem State.modQueue_cal (l : LinkId) (g : QueueSt → QueueSt) (i' g' : Nat) : (s.modQueue l g).cal i' g' = s.cal i' g' := State.cal_congr (State.modQueue_cals s l g) i' g'
@[simp] theorem State.setHost_reg (n : Nat) (v : HostPort) (a' : Nat) : (s.setHost n v).reg a' = s.reg a' := State.reg_congr _ _ (State.setHost_regs s n v) a'
@[simp] theorem State.setHost_fld (n : Nat) (v : HostPort) (f' : Fld) : (s.setHost n v).fld f' = s.fld f' := State.fld_congr _ _ (State.setHost_regs s n v) f'
@[simp] theorem State.setHost_flag (n : Nat) (v : HostPort) (f' : Fld) : (s.setHost n v).flag f' = s.flag f' := State.flag_congr _ _ (State.setHost_regs s n v) f'
@[simp] theorem State.setHost_port (n : Nat) (v : HostPort) (n' : Nat) : (s.setHost n v).port n' = s.port n' := State.port_congr (State.setHost_ports s n v) n'
@[simp] theorem State.setHost_pair (n : Nat) (v : HostPort) (n' p' : Nat) : (s.setHost n v).pair n' p' = s.pair n' p' := State.pair_congr (State.setHost_pairs s n v) n' p'
@[simp] theorem State.setHost_link (n : Nat) (v : HostPort) (l' : LinkId) : (s.setHost n v).link l' = s.link l' := State.link_congr (State.setHost_links s n v) l'
@[simp] theorem State.setHost_queue (n : Nat) (v : HostPort) (l' : LinkId) : (s.setHost n v).queue l' = s.queue l' := State.queue_congr (State.setHost_queues s n v) l'
@[simp] theorem State.setHost_lane (n : Nat) (v : HostPort) (h' : Nat) : (s.setHost n v).lane h' = s.lane h' := State.lane_congr (State.setHost_lanes s n v) h'
@[simp] theorem State.setHost_portLane (n : Nat) (v : HostPort) (n' : Nat) : (s.setHost n v).portLane n' = s.portLane n' := State.portLane_congr (State.setHost_laneOf s n v) n'
@[simp] theorem State.setHost_tile (n : Nat) (v : HostPort) (n' : Nat) : (s.setHost n v).tile n' = s.tile n' := State.tile_congr (State.setHost_tiles s n v) n'
@[simp] theorem State.setHost_diag (n : Nat) (v : HostPort) (g' : Nat) : (s.setHost n v).diag g' = s.diag g' := State.diag_congr (State.setHost_diags s n v) g'
@[simp] theorem State.setHost_dom (n : Nat) (v : HostPort) (i' : Nat) : (s.setHost n v).dom i' = s.dom i' := State.dom_congr (State.setHost_doms s n v) i'
@[simp] theorem State.setHost_cal (n : Nat) (v : HostPort) (i' g' : Nat) : (s.setHost n v).cal i' g' = s.cal i' g' := State.cal_congr (State.setHost_cals s n v) i' g'
@[simp] theorem State.modHost_reg (n : Nat) (g : HostPort → HostPort) (a' : Nat) : (s.modHost n g).reg a' = s.reg a' := State.reg_congr _ _ (State.modHost_regs s n g) a'
@[simp] theorem State.modHost_fld (n : Nat) (g : HostPort → HostPort) (f' : Fld) : (s.modHost n g).fld f' = s.fld f' := State.fld_congr _ _ (State.modHost_regs s n g) f'
@[simp] theorem State.modHost_flag (n : Nat) (g : HostPort → HostPort) (f' : Fld) : (s.modHost n g).flag f' = s.flag f' := State.flag_congr _ _ (State.modHost_regs s n g) f'
@[simp] theorem State.modHost_port (n : Nat) (g : HostPort → HostPort) (n' : Nat) : (s.modHost n g).port n' = s.port n' := State.port_congr (State.modHost_ports s n g) n'
@[simp] theorem State.modHost_pair (n : Nat) (g : HostPort → HostPort) (n' p' : Nat) : (s.modHost n g).pair n' p' = s.pair n' p' := State.pair_congr (State.modHost_pairs s n g) n' p'
@[simp] theorem State.modHost_link (n : Nat) (g : HostPort → HostPort) (l' : LinkId) : (s.modHost n g).link l' = s.link l' := State.link_congr (State.modHost_links s n g) l'
@[simp] theorem State.modHost_queue (n : Nat) (g : HostPort → HostPort) (l' : LinkId) : (s.modHost n g).queue l' = s.queue l' := State.queue_congr (State.modHost_queues s n g) l'
@[simp] theorem State.modHost_lane (n : Nat) (g : HostPort → HostPort) (h' : Nat) : (s.modHost n g).lane h' = s.lane h' := State.lane_congr (State.modHost_lanes s n g) h'
@[simp] theorem State.modHost_portLane (n : Nat) (g : HostPort → HostPort) (n' : Nat) : (s.modHost n g).portLane n' = s.portLane n' := State.portLane_congr (State.modHost_laneOf s n g) n'
@[simp] theorem State.modHost_tile (n : Nat) (g : HostPort → HostPort) (n' : Nat) : (s.modHost n g).tile n' = s.tile n' := State.tile_congr (State.modHost_tiles s n g) n'
@[simp] theorem State.modHost_diag (n : Nat) (g : HostPort → HostPort) (g' : Nat) : (s.modHost n g).diag g' = s.diag g' := State.diag_congr (State.modHost_diags s n g) g'
@[simp] theorem State.modHost_dom (n : Nat) (g : HostPort → HostPort) (i' : Nat) : (s.modHost n g).dom i' = s.dom i' := State.dom_congr (State.modHost_doms s n g) i'
@[simp] theorem State.modHost_cal (n : Nat) (g : HostPort → HostPort) (i' g' : Nat) : (s.modHost n g).cal i' g' = s.cal i' g' := State.cal_congr (State.modHost_cals s n g) i' g'
@[simp] theorem State.setLane_reg (h : Nat) (v : LaneSt) (a' : Nat) : (s.setLane h v).reg a' = s.reg a' := State.reg_congr _ _ (State.setLane_regs s h v) a'
@[simp] theorem State.setLane_fld (h : Nat) (v : LaneSt) (f' : Fld) : (s.setLane h v).fld f' = s.fld f' := State.fld_congr _ _ (State.setLane_regs s h v) f'
@[simp] theorem State.setLane_flag (h : Nat) (v : LaneSt) (f' : Fld) : (s.setLane h v).flag f' = s.flag f' := State.flag_congr _ _ (State.setLane_regs s h v) f'
@[simp] theorem State.setLane_port (h : Nat) (v : LaneSt) (n' : Nat) : (s.setLane h v).port n' = s.port n' := State.port_congr (State.setLane_ports s h v) n'
@[simp] theorem State.setLane_pair (h : Nat) (v : LaneSt) (n' p' : Nat) : (s.setLane h v).pair n' p' = s.pair n' p' := State.pair_congr (State.setLane_pairs s h v) n' p'
@[simp] theorem State.setLane_link (h : Nat) (v : LaneSt) (l' : LinkId) : (s.setLane h v).link l' = s.link l' := State.link_congr (State.setLane_links s h v) l'
@[simp] theorem State.setLane_queue (h : Nat) (v : LaneSt) (l' : LinkId) : (s.setLane h v).queue l' = s.queue l' := State.queue_congr (State.setLane_queues s h v) l'
@[simp] theorem State.setLane_host (h : Nat) (v : LaneSt) (n' : Nat) : (s.setLane h v).host n' = s.host n' := State.host_congr (State.setLane_hosts s h v) n'
@[simp] theorem State.setLane_portLane (h : Nat) (v : LaneSt) (n' : Nat) : (s.setLane h v).portLane n' = s.portLane n' := State.portLane_congr (State.setLane_laneOf s h v) n'
@[simp] theorem State.setLane_tile (h : Nat) (v : LaneSt) (n' : Nat) : (s.setLane h v).tile n' = s.tile n' := State.tile_congr (State.setLane_tiles s h v) n'
@[simp] theorem State.setLane_diag (h : Nat) (v : LaneSt) (g' : Nat) : (s.setLane h v).diag g' = s.diag g' := State.diag_congr (State.setLane_diags s h v) g'
@[simp] theorem State.setLane_dom (h : Nat) (v : LaneSt) (i' : Nat) : (s.setLane h v).dom i' = s.dom i' := State.dom_congr (State.setLane_doms s h v) i'
@[simp] theorem State.setLane_cal (h : Nat) (v : LaneSt) (i' g' : Nat) : (s.setLane h v).cal i' g' = s.cal i' g' := State.cal_congr (State.setLane_cals s h v) i' g'
@[simp] theorem State.modLane_reg (h : Nat) (g : LaneSt → LaneSt) (a' : Nat) : (s.modLane h g).reg a' = s.reg a' := State.reg_congr _ _ (State.modLane_regs s h g) a'
@[simp] theorem State.modLane_fld (h : Nat) (g : LaneSt → LaneSt) (f' : Fld) : (s.modLane h g).fld f' = s.fld f' := State.fld_congr _ _ (State.modLane_regs s h g) f'
@[simp] theorem State.modLane_flag (h : Nat) (g : LaneSt → LaneSt) (f' : Fld) : (s.modLane h g).flag f' = s.flag f' := State.flag_congr _ _ (State.modLane_regs s h g) f'
@[simp] theorem State.modLane_port (h : Nat) (g : LaneSt → LaneSt) (n' : Nat) : (s.modLane h g).port n' = s.port n' := State.port_congr (State.modLane_ports s h g) n'
@[simp] theorem State.modLane_pair (h : Nat) (g : LaneSt → LaneSt) (n' p' : Nat) : (s.modLane h g).pair n' p' = s.pair n' p' := State.pair_congr (State.modLane_pairs s h g) n' p'
@[simp] theorem State.modLane_link (h : Nat) (g : LaneSt → LaneSt) (l' : LinkId) : (s.modLane h g).link l' = s.link l' := State.link_congr (State.modLane_links s h g) l'
@[simp] theorem State.modLane_queue (h : Nat) (g : LaneSt → LaneSt) (l' : LinkId) : (s.modLane h g).queue l' = s.queue l' := State.queue_congr (State.modLane_queues s h g) l'
@[simp] theorem State.modLane_host (h : Nat) (g : LaneSt → LaneSt) (n' : Nat) : (s.modLane h g).host n' = s.host n' := State.host_congr (State.modLane_hosts s h g) n'
@[simp] theorem State.modLane_portLane (h : Nat) (g : LaneSt → LaneSt) (n' : Nat) : (s.modLane h g).portLane n' = s.portLane n' := State.portLane_congr (State.modLane_laneOf s h g) n'
@[simp] theorem State.modLane_tile (h : Nat) (g : LaneSt → LaneSt) (n' : Nat) : (s.modLane h g).tile n' = s.tile n' := State.tile_congr (State.modLane_tiles s h g) n'
@[simp] theorem State.modLane_diag (h : Nat) (g : LaneSt → LaneSt) (g' : Nat) : (s.modLane h g).diag g' = s.diag g' := State.diag_congr (State.modLane_diags s h g) g'
@[simp] theorem State.modLane_dom (h : Nat) (g : LaneSt → LaneSt) (i' : Nat) : (s.modLane h g).dom i' = s.dom i' := State.dom_congr (State.modLane_doms s h g) i'
@[simp] theorem State.modLane_cal (h : Nat) (g : LaneSt → LaneSt) (i' g' : Nat) : (s.modLane h g).cal i' g' = s.cal i' g' := State.cal_congr (State.modLane_cals s h g) i' g'
@[simp] theorem State.setPortLane_reg (n h : Nat) (a' : Nat) : (s.setPortLane n h).reg a' = s.reg a' := State.reg_congr _ _ (State.setPortLane_regs s n h) a'
@[simp] theorem State.setPortLane_fld (n h : Nat) (f' : Fld) : (s.setPortLane n h).fld f' = s.fld f' := State.fld_congr _ _ (State.setPortLane_regs s n h) f'
@[simp] theorem State.setPortLane_flag (n h : Nat) (f' : Fld) : (s.setPortLane n h).flag f' = s.flag f' := State.flag_congr _ _ (State.setPortLane_regs s n h) f'
@[simp] theorem State.setPortLane_port (n h : Nat) (n' : Nat) : (s.setPortLane n h).port n' = s.port n' := State.port_congr (State.setPortLane_ports s n h) n'
@[simp] theorem State.setPortLane_pair (n h : Nat) (n' p' : Nat) : (s.setPortLane n h).pair n' p' = s.pair n' p' := State.pair_congr (State.setPortLane_pairs s n h) n' p'
@[simp] theorem State.setPortLane_link (n h : Nat) (l' : LinkId) : (s.setPortLane n h).link l' = s.link l' := State.link_congr (State.setPortLane_links s n h) l'
@[simp] theorem State.setPortLane_queue (n h : Nat) (l' : LinkId) : (s.setPortLane n h).queue l' = s.queue l' := State.queue_congr (State.setPortLane_queues s n h) l'
@[simp] theorem State.setPortLane_host (n h : Nat) (n' : Nat) : (s.setPortLane n h).host n' = s.host n' := State.host_congr (State.setPortLane_hosts s n h) n'
@[simp] theorem State.setPortLane_lane (n h : Nat) (h' : Nat) : (s.setPortLane n h).lane h' = s.lane h' := State.lane_congr (State.setPortLane_lanes s n h) h'
@[simp] theorem State.setPortLane_tile (n h : Nat) (n' : Nat) : (s.setPortLane n h).tile n' = s.tile n' := State.tile_congr (State.setPortLane_tiles s n h) n'
@[simp] theorem State.setPortLane_diag (n h : Nat) (g' : Nat) : (s.setPortLane n h).diag g' = s.diag g' := State.diag_congr (State.setPortLane_diags s n h) g'
@[simp] theorem State.setPortLane_dom (n h : Nat) (i' : Nat) : (s.setPortLane n h).dom i' = s.dom i' := State.dom_congr (State.setPortLane_doms s n h) i'
@[simp] theorem State.setPortLane_cal (n h : Nat) (i' g' : Nat) : (s.setPortLane n h).cal i' g' = s.cal i' g' := State.cal_congr (State.setPortLane_cals s n h) i' g'
@[simp] theorem State.setTile_reg (t : Nat) (v : TileSt) (a' : Nat) : (s.setTile t v).reg a' = s.reg a' := State.reg_congr _ _ (State.setTile_regs s t v) a'
@[simp] theorem State.setTile_fld (t : Nat) (v : TileSt) (f' : Fld) : (s.setTile t v).fld f' = s.fld f' := State.fld_congr _ _ (State.setTile_regs s t v) f'
@[simp] theorem State.setTile_flag (t : Nat) (v : TileSt) (f' : Fld) : (s.setTile t v).flag f' = s.flag f' := State.flag_congr _ _ (State.setTile_regs s t v) f'
@[simp] theorem State.setTile_port (t : Nat) (v : TileSt) (n' : Nat) : (s.setTile t v).port n' = s.port n' := State.port_congr (State.setTile_ports s t v) n'
@[simp] theorem State.setTile_pair (t : Nat) (v : TileSt) (n' p' : Nat) : (s.setTile t v).pair n' p' = s.pair n' p' := State.pair_congr (State.setTile_pairs s t v) n' p'
@[simp] theorem State.setTile_link (t : Nat) (v : TileSt) (l' : LinkId) : (s.setTile t v).link l' = s.link l' := State.link_congr (State.setTile_links s t v) l'
@[simp] theorem State.setTile_queue (t : Nat) (v : TileSt) (l' : LinkId) : (s.setTile t v).queue l' = s.queue l' := State.queue_congr (State.setTile_queues s t v) l'
@[simp] theorem State.setTile_host (t : Nat) (v : TileSt) (n' : Nat) : (s.setTile t v).host n' = s.host n' := State.host_congr (State.setTile_hosts s t v) n'
@[simp] theorem State.setTile_lane (t : Nat) (v : TileSt) (h' : Nat) : (s.setTile t v).lane h' = s.lane h' := State.lane_congr (State.setTile_lanes s t v) h'
@[simp] theorem State.setTile_portLane (t : Nat) (v : TileSt) (n' : Nat) : (s.setTile t v).portLane n' = s.portLane n' := State.portLane_congr (State.setTile_laneOf s t v) n'
@[simp] theorem State.setTile_diag (t : Nat) (v : TileSt) (g' : Nat) : (s.setTile t v).diag g' = s.diag g' := State.diag_congr (State.setTile_diags s t v) g'
@[simp] theorem State.setTile_dom (t : Nat) (v : TileSt) (i' : Nat) : (s.setTile t v).dom i' = s.dom i' := State.dom_congr (State.setTile_doms s t v) i'
@[simp] theorem State.setTile_cal (t : Nat) (v : TileSt) (i' g' : Nat) : (s.setTile t v).cal i' g' = s.cal i' g' := State.cal_congr (State.setTile_cals s t v) i' g'
@[simp] theorem State.modTile_reg (t : Nat) (g : TileSt → TileSt) (a' : Nat) : (s.modTile t g).reg a' = s.reg a' := State.reg_congr _ _ (State.modTile_regs s t g) a'
@[simp] theorem State.modTile_fld (t : Nat) (g : TileSt → TileSt) (f' : Fld) : (s.modTile t g).fld f' = s.fld f' := State.fld_congr _ _ (State.modTile_regs s t g) f'
@[simp] theorem State.modTile_flag (t : Nat) (g : TileSt → TileSt) (f' : Fld) : (s.modTile t g).flag f' = s.flag f' := State.flag_congr _ _ (State.modTile_regs s t g) f'
@[simp] theorem State.modTile_port (t : Nat) (g : TileSt → TileSt) (n' : Nat) : (s.modTile t g).port n' = s.port n' := State.port_congr (State.modTile_ports s t g) n'
@[simp] theorem State.modTile_pair (t : Nat) (g : TileSt → TileSt) (n' p' : Nat) : (s.modTile t g).pair n' p' = s.pair n' p' := State.pair_congr (State.modTile_pairs s t g) n' p'
@[simp] theorem State.modTile_link (t : Nat) (g : TileSt → TileSt) (l' : LinkId) : (s.modTile t g).link l' = s.link l' := State.link_congr (State.modTile_links s t g) l'
@[simp] theorem State.modTile_queue (t : Nat) (g : TileSt → TileSt) (l' : LinkId) : (s.modTile t g).queue l' = s.queue l' := State.queue_congr (State.modTile_queues s t g) l'
@[simp] theorem State.modTile_host (t : Nat) (g : TileSt → TileSt) (n' : Nat) : (s.modTile t g).host n' = s.host n' := State.host_congr (State.modTile_hosts s t g) n'
@[simp] theorem State.modTile_lane (t : Nat) (g : TileSt → TileSt) (h' : Nat) : (s.modTile t g).lane h' = s.lane h' := State.lane_congr (State.modTile_lanes s t g) h'
@[simp] theorem State.modTile_portLane (t : Nat) (g : TileSt → TileSt) (n' : Nat) : (s.modTile t g).portLane n' = s.portLane n' := State.portLane_congr (State.modTile_laneOf s t g) n'
@[simp] theorem State.modTile_diag (t : Nat) (g : TileSt → TileSt) (g' : Nat) : (s.modTile t g).diag g' = s.diag g' := State.diag_congr (State.modTile_diags s t g) g'
@[simp] theorem State.modTile_dom (t : Nat) (g : TileSt → TileSt) (i' : Nat) : (s.modTile t g).dom i' = s.dom i' := State.dom_congr (State.modTile_doms s t g) i'
@[simp] theorem State.modTile_cal (t : Nat) (g : TileSt → TileSt) (i' g' : Nat) : (s.modTile t g).cal i' g' = s.cal i' g' := State.cal_congr (State.modTile_cals s t g) i' g'
@[simp] theorem State.setDiag_reg (g : Nat) (v : DiagSt) (a' : Nat) : (s.setDiag g v).reg a' = s.reg a' := State.reg_congr _ _ (State.setDiag_regs s g v) a'
@[simp] theorem State.setDiag_fld (g : Nat) (v : DiagSt) (f' : Fld) : (s.setDiag g v).fld f' = s.fld f' := State.fld_congr _ _ (State.setDiag_regs s g v) f'
@[simp] theorem State.setDiag_flag (g : Nat) (v : DiagSt) (f' : Fld) : (s.setDiag g v).flag f' = s.flag f' := State.flag_congr _ _ (State.setDiag_regs s g v) f'
@[simp] theorem State.setDiag_port (g : Nat) (v : DiagSt) (n' : Nat) : (s.setDiag g v).port n' = s.port n' := State.port_congr (State.setDiag_ports s g v) n'
@[simp] theorem State.setDiag_pair (g : Nat) (v : DiagSt) (n' p' : Nat) : (s.setDiag g v).pair n' p' = s.pair n' p' := State.pair_congr (State.setDiag_pairs s g v) n' p'
@[simp] theorem State.setDiag_link (g : Nat) (v : DiagSt) (l' : LinkId) : (s.setDiag g v).link l' = s.link l' := State.link_congr (State.setDiag_links s g v) l'
@[simp] theorem State.setDiag_queue (g : Nat) (v : DiagSt) (l' : LinkId) : (s.setDiag g v).queue l' = s.queue l' := State.queue_congr (State.setDiag_queues s g v) l'
@[simp] theorem State.setDiag_host (g : Nat) (v : DiagSt) (n' : Nat) : (s.setDiag g v).host n' = s.host n' := State.host_congr (State.setDiag_hosts s g v) n'
@[simp] theorem State.setDiag_lane (g : Nat) (v : DiagSt) (h' : Nat) : (s.setDiag g v).lane h' = s.lane h' := State.lane_congr (State.setDiag_lanes s g v) h'
@[simp] theorem State.setDiag_portLane (g : Nat) (v : DiagSt) (n' : Nat) : (s.setDiag g v).portLane n' = s.portLane n' := State.portLane_congr (State.setDiag_laneOf s g v) n'
@[simp] theorem State.setDiag_tile (g : Nat) (v : DiagSt) (n' : Nat) : (s.setDiag g v).tile n' = s.tile n' := State.tile_congr (State.setDiag_tiles s g v) n'
@[simp] theorem State.setDiag_dom (g : Nat) (v : DiagSt) (i' : Nat) : (s.setDiag g v).dom i' = s.dom i' := State.dom_congr (State.setDiag_doms s g v) i'
@[simp] theorem State.setDiag_cal (g : Nat) (v : DiagSt) (i' g' : Nat) : (s.setDiag g v).cal i' g' = s.cal i' g' := State.cal_congr (State.setDiag_cals s g v) i' g'
@[simp] theorem State.modDiag_reg (g : Nat) (f : DiagSt → DiagSt) (a' : Nat) : (s.modDiag g f).reg a' = s.reg a' := State.reg_congr _ _ (State.modDiag_regs s g f) a'
@[simp] theorem State.modDiag_fld (g : Nat) (f : DiagSt → DiagSt) (f' : Fld) : (s.modDiag g f).fld f' = s.fld f' := State.fld_congr _ _ (State.modDiag_regs s g f) f'
@[simp] theorem State.modDiag_flag (g : Nat) (f : DiagSt → DiagSt) (f' : Fld) : (s.modDiag g f).flag f' = s.flag f' := State.flag_congr _ _ (State.modDiag_regs s g f) f'
@[simp] theorem State.modDiag_port (g : Nat) (f : DiagSt → DiagSt) (n' : Nat) : (s.modDiag g f).port n' = s.port n' := State.port_congr (State.modDiag_ports s g f) n'
@[simp] theorem State.modDiag_pair (g : Nat) (f : DiagSt → DiagSt) (n' p' : Nat) : (s.modDiag g f).pair n' p' = s.pair n' p' := State.pair_congr (State.modDiag_pairs s g f) n' p'
@[simp] theorem State.modDiag_link (g : Nat) (f : DiagSt → DiagSt) (l' : LinkId) : (s.modDiag g f).link l' = s.link l' := State.link_congr (State.modDiag_links s g f) l'
@[simp] theorem State.modDiag_queue (g : Nat) (f : DiagSt → DiagSt) (l' : LinkId) : (s.modDiag g f).queue l' = s.queue l' := State.queue_congr (State.modDiag_queues s g f) l'
@[simp] theorem State.modDiag_host (g : Nat) (f : DiagSt → DiagSt) (n' : Nat) : (s.modDiag g f).host n' = s.host n' := State.host_congr (State.modDiag_hosts s g f) n'
@[simp] theorem State.modDiag_lane (g : Nat) (f : DiagSt → DiagSt) (h' : Nat) : (s.modDiag g f).lane h' = s.lane h' := State.lane_congr (State.modDiag_lanes s g f) h'
@[simp] theorem State.modDiag_portLane (g : Nat) (f : DiagSt → DiagSt) (n' : Nat) : (s.modDiag g f).portLane n' = s.portLane n' := State.portLane_congr (State.modDiag_laneOf s g f) n'
@[simp] theorem State.modDiag_tile (g : Nat) (f : DiagSt → DiagSt) (n' : Nat) : (s.modDiag g f).tile n' = s.tile n' := State.tile_congr (State.modDiag_tiles s g f) n'
@[simp] theorem State.modDiag_dom (g : Nat) (f : DiagSt → DiagSt) (i' : Nat) : (s.modDiag g f).dom i' = s.dom i' := State.dom_congr (State.modDiag_doms s g f) i'
@[simp] theorem State.modDiag_cal (g : Nat) (f : DiagSt → DiagSt) (i' g' : Nat) : (s.modDiag g f).cal i' g' = s.cal i' g' := State.cal_congr (State.modDiag_cals s g f) i' g'
@[simp] theorem State.setDom_reg (i : Nat) (v : DomSt) (a' : Nat) : (s.setDom i v).reg a' = s.reg a' := State.reg_congr _ _ (State.setDom_regs s i v) a'
@[simp] theorem State.setDom_fld (i : Nat) (v : DomSt) (f' : Fld) : (s.setDom i v).fld f' = s.fld f' := State.fld_congr _ _ (State.setDom_regs s i v) f'
@[simp] theorem State.setDom_flag (i : Nat) (v : DomSt) (f' : Fld) : (s.setDom i v).flag f' = s.flag f' := State.flag_congr _ _ (State.setDom_regs s i v) f'
@[simp] theorem State.setDom_port (i : Nat) (v : DomSt) (n' : Nat) : (s.setDom i v).port n' = s.port n' := State.port_congr (State.setDom_ports s i v) n'
@[simp] theorem State.setDom_pair (i : Nat) (v : DomSt) (n' p' : Nat) : (s.setDom i v).pair n' p' = s.pair n' p' := State.pair_congr (State.setDom_pairs s i v) n' p'
@[simp] theorem State.setDom_link (i : Nat) (v : DomSt) (l' : LinkId) : (s.setDom i v).link l' = s.link l' := State.link_congr (State.setDom_links s i v) l'
@[simp] theorem State.setDom_queue (i : Nat) (v : DomSt) (l' : LinkId) : (s.setDom i v).queue l' = s.queue l' := State.queue_congr (State.setDom_queues s i v) l'
@[simp] theorem State.setDom_host (i : Nat) (v : DomSt) (n' : Nat) : (s.setDom i v).host n' = s.host n' := State.host_congr (State.setDom_hosts s i v) n'
@[simp] theorem State.setDom_lane (i : Nat) (v : DomSt) (h' : Nat) : (s.setDom i v).lane h' = s.lane h' := State.lane_congr (State.setDom_lanes s i v) h'
@[simp] theorem State.setDom_portLane (i : Nat) (v : DomSt) (n' : Nat) : (s.setDom i v).portLane n' = s.portLane n' := State.portLane_congr (State.setDom_laneOf s i v) n'
@[simp] theorem State.setDom_tile (i : Nat) (v : DomSt) (n' : Nat) : (s.setDom i v).tile n' = s.tile n' := State.tile_congr (State.setDom_tiles s i v) n'
@[simp] theorem State.setDom_diag (i : Nat) (v : DomSt) (g' : Nat) : (s.setDom i v).diag g' = s.diag g' := State.diag_congr (State.setDom_diags s i v) g'
@[simp] theorem State.setDom_cal (i : Nat) (v : DomSt) (i' g' : Nat) : (s.setDom i v).cal i' g' = s.cal i' g' := State.cal_congr (State.setDom_cals s i v) i' g'
@[simp] theorem State.modDom_reg (i : Nat) (g : DomSt → DomSt) (a' : Nat) : (s.modDom i g).reg a' = s.reg a' := State.reg_congr _ _ (State.modDom_regs s i g) a'
@[simp] theorem State.modDom_fld (i : Nat) (g : DomSt → DomSt) (f' : Fld) : (s.modDom i g).fld f' = s.fld f' := State.fld_congr _ _ (State.modDom_regs s i g) f'
@[simp] theorem State.modDom_flag (i : Nat) (g : DomSt → DomSt) (f' : Fld) : (s.modDom i g).flag f' = s.flag f' := State.flag_congr _ _ (State.modDom_regs s i g) f'
@[simp] theorem State.modDom_port (i : Nat) (g : DomSt → DomSt) (n' : Nat) : (s.modDom i g).port n' = s.port n' := State.port_congr (State.modDom_ports s i g) n'
@[simp] theorem State.modDom_pair (i : Nat) (g : DomSt → DomSt) (n' p' : Nat) : (s.modDom i g).pair n' p' = s.pair n' p' := State.pair_congr (State.modDom_pairs s i g) n' p'
@[simp] theorem State.modDom_link (i : Nat) (g : DomSt → DomSt) (l' : LinkId) : (s.modDom i g).link l' = s.link l' := State.link_congr (State.modDom_links s i g) l'
@[simp] theorem State.modDom_queue (i : Nat) (g : DomSt → DomSt) (l' : LinkId) : (s.modDom i g).queue l' = s.queue l' := State.queue_congr (State.modDom_queues s i g) l'
@[simp] theorem State.modDom_host (i : Nat) (g : DomSt → DomSt) (n' : Nat) : (s.modDom i g).host n' = s.host n' := State.host_congr (State.modDom_hosts s i g) n'
@[simp] theorem State.modDom_lane (i : Nat) (g : DomSt → DomSt) (h' : Nat) : (s.modDom i g).lane h' = s.lane h' := State.lane_congr (State.modDom_lanes s i g) h'
@[simp] theorem State.modDom_portLane (i : Nat) (g : DomSt → DomSt) (n' : Nat) : (s.modDom i g).portLane n' = s.portLane n' := State.portLane_congr (State.modDom_laneOf s i g) n'
@[simp] theorem State.modDom_tile (i : Nat) (g : DomSt → DomSt) (n' : Nat) : (s.modDom i g).tile n' = s.tile n' := State.tile_congr (State.modDom_tiles s i g) n'
@[simp] theorem State.modDom_diag (i : Nat) (g : DomSt → DomSt) (g' : Nat) : (s.modDom i g).diag g' = s.diag g' := State.diag_congr (State.modDom_diags s i g) g'
@[simp] theorem State.modDom_cal (i : Nat) (g : DomSt → DomSt) (i' g' : Nat) : (s.modDom i g).cal i' g' = s.cal i' g' := State.cal_congr (State.modDom_cals s i g) i' g'
@[simp] theorem State.setCal_reg (item target : Nat) (v : CalSt) (a' : Nat) : (s.setCal item target v).reg a' = s.reg a' := State.reg_congr _ _ (State.setCal_regs s item target v) a'
@[simp] theorem State.setCal_fld (item target : Nat) (v : CalSt) (f' : Fld) : (s.setCal item target v).fld f' = s.fld f' := State.fld_congr _ _ (State.setCal_regs s item target v) f'
@[simp] theorem State.setCal_flag (item target : Nat) (v : CalSt) (f' : Fld) : (s.setCal item target v).flag f' = s.flag f' := State.flag_congr _ _ (State.setCal_regs s item target v) f'
@[simp] theorem State.setCal_port (item target : Nat) (v : CalSt) (n' : Nat) : (s.setCal item target v).port n' = s.port n' := State.port_congr (State.setCal_ports s item target v) n'
@[simp] theorem State.setCal_pair (item target : Nat) (v : CalSt) (n' p' : Nat) : (s.setCal item target v).pair n' p' = s.pair n' p' := State.pair_congr (State.setCal_pairs s item target v) n' p'
@[simp] theorem State.setCal_link (item target : Nat) (v : CalSt) (l' : LinkId) : (s.setCal item target v).link l' = s.link l' := State.link_congr (State.setCal_links s item target v) l'
@[simp] theorem State.setCal_queue (item target : Nat) (v : CalSt) (l' : LinkId) : (s.setCal item target v).queue l' = s.queue l' := State.queue_congr (State.setCal_queues s item target v) l'
@[simp] theorem State.setCal_host (item target : Nat) (v : CalSt) (n' : Nat) : (s.setCal item target v).host n' = s.host n' := State.host_congr (State.setCal_hosts s item target v) n'
@[simp] theorem State.setCal_lane (item target : Nat) (v : CalSt) (h' : Nat) : (s.setCal item target v).lane h' = s.lane h' := State.lane_congr (State.setCal_lanes s item target v) h'
@[simp] theorem State.setCal_portLane (item target : Nat) (v : CalSt) (n' : Nat) : (s.setCal item target v).portLane n' = s.portLane n' := State.portLane_congr (State.setCal_laneOf s item target v) n'
@[simp] theorem State.setCal_tile (item target : Nat) (v : CalSt) (n' : Nat) : (s.setCal item target v).tile n' = s.tile n' := State.tile_congr (State.setCal_tiles s item target v) n'
@[simp] theorem State.setCal_diag (item target : Nat) (v : CalSt) (g' : Nat) : (s.setCal item target v).diag g' = s.diag g' := State.diag_congr (State.setCal_diags s item target v) g'
@[simp] theorem State.setCal_dom (item target : Nat) (v : CalSt) (i' : Nat) : (s.setCal item target v).dom i' = s.dom i' := State.dom_congr (State.setCal_doms s item target v) i'
@[simp] theorem State.modCal_reg (item target : Nat) (g : CalSt → CalSt) (a' : Nat) : (s.modCal item target g).reg a' = s.reg a' := State.reg_congr _ _ (State.modCal_regs s item target g) a'
@[simp] theorem State.modCal_fld (item target : Nat) (g : CalSt → CalSt) (f' : Fld) : (s.modCal item target g).fld f' = s.fld f' := State.fld_congr _ _ (State.modCal_regs s item target g) f'
@[simp] theorem State.modCal_flag (item target : Nat) (g : CalSt → CalSt) (f' : Fld) : (s.modCal item target g).flag f' = s.flag f' := State.flag_congr _ _ (State.modCal_regs s item target g) f'
@[simp] theorem State.modCal_port (item target : Nat) (g : CalSt → CalSt) (n' : Nat) : (s.modCal item target g).port n' = s.port n' := State.port_congr (State.modCal_ports s item target g) n'
@[simp] theorem State.modCal_pair (item target : Nat) (g : CalSt → CalSt) (n' p' : Nat) : (s.modCal item target g).pair n' p' = s.pair n' p' := State.pair_congr (State.modCal_pairs s item target g) n' p'
@[simp] theorem State.modCal_link (item target : Nat) (g : CalSt → CalSt) (l' : LinkId) : (s.modCal item target g).link l' = s.link l' := State.link_congr (State.modCal_links s item target g) l'
@[simp] theorem State.modCal_queue (item target : Nat) (g : CalSt → CalSt) (l' : LinkId) : (s.modCal item target g).queue l' = s.queue l' := State.queue_congr (State.modCal_queues s item target g) l'
@[simp] theorem State.modCal_host (item target : Nat) (g : CalSt → CalSt) (n' : Nat) : (s.modCal item target g).host n' = s.host n' := State.host_congr (State.modCal_hosts s item target g) n'
@[simp] theorem State.modCal_lane (item target : Nat) (g : CalSt → CalSt) (h' : Nat) : (s.modCal item target g).lane h' = s.lane h' := State.lane_congr (State.modCal_lanes s item target g) h'
@[simp] theorem State.modCal_portLane (item target : Nat) (g : CalSt → CalSt) (n' : Nat) : (s.modCal item target g).portLane n' = s.portLane n' := State.portLane_congr (State.modCal_laneOf s item target g) n'
@[simp] theorem State.modCal_tile (item target : Nat) (g : CalSt → CalSt) (n' : Nat) : (s.modCal item target g).tile n' = s.tile n' := State.tile_congr (State.modCal_tiles s item target g) n'
@[simp] theorem State.modCal_diag (item target : Nat) (g : CalSt → CalSt) (g' : Nat) : (s.modCal item target g).diag g' = s.diag g' := State.diag_congr (State.modCal_diags s item target g) g'
@[simp] theorem State.modCal_dom (item target : Nat) (g : CalSt → CalSt) (i' : Nat) : (s.modCal item target g).dom i' = s.dom i' := State.dom_congr (State.modCal_doms s item target g) i'
@[simp] theorem State.setMap_reg (g m k v : Nat) (a' : Nat) : (s.setMap g m k v).reg a' = s.reg a' := State.reg_congr _ _ (State.setMap_regs s g m k v) a'
@[simp] theorem State.setMap_fld (g m k v : Nat) (f' : Fld) : (s.setMap g m k v).fld f' = s.fld f' := State.fld_congr _ _ (State.setMap_regs s g m k v) f'
@[simp] theorem State.setMap_flag (g m k v : Nat) (f' : Fld) : (s.setMap g m k v).flag f' = s.flag f' := State.flag_congr _ _ (State.setMap_regs s g m k v) f'
@[simp] theorem State.setMap_port (g m k v : Nat) (n' : Nat) : (s.setMap g m k v).port n' = s.port n' := State.port_congr (State.setMap_ports s g m k v) n'
@[simp] theorem State.setMap_pair (g m k v : Nat) (n' p' : Nat) : (s.setMap g m k v).pair n' p' = s.pair n' p' := State.pair_congr (State.setMap_pairs s g m k v) n' p'
@[simp] theorem State.setMap_link (g m k v : Nat) (l' : LinkId) : (s.setMap g m k v).link l' = s.link l' := State.link_congr (State.setMap_links s g m k v) l'
@[simp] theorem State.setMap_queue (g m k v : Nat) (l' : LinkId) : (s.setMap g m k v).queue l' = s.queue l' := State.queue_congr (State.setMap_queues s g m k v) l'
@[simp] theorem State.setMap_host (g m k v : Nat) (n' : Nat) : (s.setMap g m k v).host n' = s.host n' := State.host_congr (State.setMap_hosts s g m k v) n'
@[simp] theorem State.setMap_lane (g m k v : Nat) (h' : Nat) : (s.setMap g m k v).lane h' = s.lane h' := State.lane_congr (State.setMap_lanes s g m k v) h'
@[simp] theorem State.setMap_portLane (g m k v : Nat) (n' : Nat) : (s.setMap g m k v).portLane n' = s.portLane n' := State.portLane_congr (State.setMap_laneOf s g m k v) n'
@[simp] theorem State.setMap_tile (g m k v : Nat) (n' : Nat) : (s.setMap g m k v).tile n' = s.tile n' := State.tile_congr (State.setMap_tiles s g m k v) n'
@[simp] theorem State.setMap_diag (g m k v : Nat) (g' : Nat) : (s.setMap g m k v).diag g' = s.diag g' := State.diag_congr (State.setMap_diags s g m k v) g'
@[simp] theorem State.setMap_dom (g m k v : Nat) (i' : Nat) : (s.setMap g m k v).dom i' = s.dom i' := State.dom_congr (State.setMap_doms s g m k v) i'
@[simp] theorem State.setMap_cal (g m k v : Nat) (i' g' : Nat) : (s.setMap g m k v).cal i' g' = s.cal i' g' := State.cal_congr (State.setMap_cals s g m k v) i' g'
@[simp] theorem State.setTap_reg (g src i v : Nat) (a' : Nat) : (s.setTap g src i v).reg a' = s.reg a' := State.reg_congr _ _ (State.setTap_regs s g src i v) a'
@[simp] theorem State.setTap_fld (g src i v : Nat) (f' : Fld) : (s.setTap g src i v).fld f' = s.fld f' := State.fld_congr _ _ (State.setTap_regs s g src i v) f'
@[simp] theorem State.setTap_flag (g src i v : Nat) (f' : Fld) : (s.setTap g src i v).flag f' = s.flag f' := State.flag_congr _ _ (State.setTap_regs s g src i v) f'
@[simp] theorem State.setTap_port (g src i v : Nat) (n' : Nat) : (s.setTap g src i v).port n' = s.port n' := State.port_congr (State.setTap_ports s g src i v) n'
@[simp] theorem State.setTap_pair (g src i v : Nat) (n' p' : Nat) : (s.setTap g src i v).pair n' p' = s.pair n' p' := State.pair_congr (State.setTap_pairs s g src i v) n' p'
@[simp] theorem State.setTap_link (g src i v : Nat) (l' : LinkId) : (s.setTap g src i v).link l' = s.link l' := State.link_congr (State.setTap_links s g src i v) l'
@[simp] theorem State.setTap_queue (g src i v : Nat) (l' : LinkId) : (s.setTap g src i v).queue l' = s.queue l' := State.queue_congr (State.setTap_queues s g src i v) l'
@[simp] theorem State.setTap_host (g src i v : Nat) (n' : Nat) : (s.setTap g src i v).host n' = s.host n' := State.host_congr (State.setTap_hosts s g src i v) n'
@[simp] theorem State.setTap_lane (g src i v : Nat) (h' : Nat) : (s.setTap g src i v).lane h' = s.lane h' := State.lane_congr (State.setTap_lanes s g src i v) h'
@[simp] theorem State.setTap_portLane (g src i v : Nat) (n' : Nat) : (s.setTap g src i v).portLane n' = s.portLane n' := State.portLane_congr (State.setTap_laneOf s g src i v) n'
@[simp] theorem State.setTap_tile (g src i v : Nat) (n' : Nat) : (s.setTap g src i v).tile n' = s.tile n' := State.tile_congr (State.setTap_tiles s g src i v) n'
@[simp] theorem State.setTap_diag (g src i v : Nat) (g' : Nat) : (s.setTap g src i v).diag g' = s.diag g' := State.diag_congr (State.setTap_diags s g src i v) g'
@[simp] theorem State.setTap_dom (g src i v : Nat) (i' : Nat) : (s.setTap g src i v).dom i' = s.dom i' := State.dom_congr (State.setTap_doms s g src i v) i'
@[simp] theorem State.setTap_cal (g src i v : Nat) (i' g' : Nat) : (s.setTap g src i v).cal i' g' = s.cal i' g' := State.cal_congr (State.setTap_cals s g src i v) i' g'
@[simp] theorem State.modHub_reg (g : HubSt → HubSt) (a' : Nat) : (s.modHub g).reg a' = s.reg a' := State.reg_congr _ _ (State.modHub_regs s g) a'
@[simp] theorem State.modHub_fld (g : HubSt → HubSt) (f' : Fld) : (s.modHub g).fld f' = s.fld f' := State.fld_congr _ _ (State.modHub_regs s g) f'
@[simp] theorem State.modHub_flag (g : HubSt → HubSt) (f' : Fld) : (s.modHub g).flag f' = s.flag f' := State.flag_congr _ _ (State.modHub_regs s g) f'
@[simp] theorem State.modHub_port (g : HubSt → HubSt) (n' : Nat) : (s.modHub g).port n' = s.port n' := State.port_congr (State.modHub_ports s g) n'
@[simp] theorem State.modHub_pair (g : HubSt → HubSt) (n' p' : Nat) : (s.modHub g).pair n' p' = s.pair n' p' := State.pair_congr (State.modHub_pairs s g) n' p'
@[simp] theorem State.modHub_link (g : HubSt → HubSt) (l' : LinkId) : (s.modHub g).link l' = s.link l' := State.link_congr (State.modHub_links s g) l'
@[simp] theorem State.modHub_queue (g : HubSt → HubSt) (l' : LinkId) : (s.modHub g).queue l' = s.queue l' := State.queue_congr (State.modHub_queues s g) l'
@[simp] theorem State.modHub_host (g : HubSt → HubSt) (n' : Nat) : (s.modHub g).host n' = s.host n' := State.host_congr (State.modHub_hosts s g) n'
@[simp] theorem State.modHub_lane (g : HubSt → HubSt) (h' : Nat) : (s.modHub g).lane h' = s.lane h' := State.lane_congr (State.modHub_lanes s g) h'
@[simp] theorem State.modHub_portLane (g : HubSt → HubSt) (n' : Nat) : (s.modHub g).portLane n' = s.portLane n' := State.portLane_congr (State.modHub_laneOf s g) n'
@[simp] theorem State.modHub_tile (g : HubSt → HubSt) (n' : Nat) : (s.modHub g).tile n' = s.tile n' := State.tile_congr (State.modHub_tiles s g) n'
@[simp] theorem State.modHub_diag (g : HubSt → HubSt) (g' : Nat) : (s.modHub g).diag g' = s.diag g' := State.diag_congr (State.modHub_diags s g) g'
@[simp] theorem State.modHub_dom (g : HubSt → HubSt) (i' : Nat) : (s.modHub g).dom i' = s.dom i' := State.dom_congr (State.modHub_doms s g) i'
@[simp] theorem State.modHub_cal (g : HubSt → HubSt) (i' g' : Nat) : (s.modHub g).cal i' g' = s.cal i' g' := State.cal_congr (State.modHub_cals s g) i' g'
@[simp] theorem State.raise_reg (code sev : Nat) (ps : List Nat) (a' : Nat) : (s.raise code sev ps).reg a' = s.reg a' := State.reg_congr _ _ (State.raise_regs s code sev ps) a'
@[simp] theorem State.raise_fld (code sev : Nat) (ps : List Nat) (f' : Fld) : (s.raise code sev ps).fld f' = s.fld f' := State.fld_congr _ _ (State.raise_regs s code sev ps) f'
@[simp] theorem State.raise_flag (code sev : Nat) (ps : List Nat) (f' : Fld) : (s.raise code sev ps).flag f' = s.flag f' := State.flag_congr _ _ (State.raise_regs s code sev ps) f'
@[simp] theorem State.raise_port (code sev : Nat) (ps : List Nat) (n' : Nat) : (s.raise code sev ps).port n' = s.port n' := State.port_congr (State.raise_ports s code sev ps) n'
@[simp] theorem State.raise_pair (code sev : Nat) (ps : List Nat) (n' p' : Nat) : (s.raise code sev ps).pair n' p' = s.pair n' p' := State.pair_congr (State.raise_pairs s code sev ps) n' p'
@[simp] theorem State.raise_link (code sev : Nat) (ps : List Nat) (l' : LinkId) : (s.raise code sev ps).link l' = s.link l' := State.link_congr (State.raise_links s code sev ps) l'
@[simp] theorem State.raise_queue (code sev : Nat) (ps : List Nat) (l' : LinkId) : (s.raise code sev ps).queue l' = s.queue l' := State.queue_congr (State.raise_queues s code sev ps) l'
@[simp] theorem State.raise_host (code sev : Nat) (ps : List Nat) (n' : Nat) : (s.raise code sev ps).host n' = s.host n' := State.host_congr (State.raise_hosts s code sev ps) n'
@[simp] theorem State.raise_lane (code sev : Nat) (ps : List Nat) (h' : Nat) : (s.raise code sev ps).lane h' = s.lane h' := State.lane_congr (State.raise_lanes s code sev ps) h'
@[simp] theorem State.raise_portLane (code sev : Nat) (ps : List Nat) (n' : Nat) : (s.raise code sev ps).portLane n' = s.portLane n' := State.portLane_congr (State.raise_laneOf s code sev ps) n'
@[simp] theorem State.raise_tile (code sev : Nat) (ps : List Nat) (n' : Nat) : (s.raise code sev ps).tile n' = s.tile n' := State.tile_congr (State.raise_tiles s code sev ps) n'
@[simp] theorem State.raise_diag (code sev : Nat) (ps : List Nat) (g' : Nat) : (s.raise code sev ps).diag g' = s.diag g' := State.diag_congr (State.raise_diags s code sev ps) g'
@[simp] theorem State.raise_dom (code sev : Nat) (ps : List Nat) (i' : Nat) : (s.raise code sev ps).dom i' = s.dom i' := State.dom_congr (State.raise_doms s code sev ps) i'
@[simp] theorem State.raise_cal (code sev : Nat) (ps : List Nat) (i' g' : Nat) : (s.raise code sev ps).cal i' g' = s.cal i' g' := State.cal_congr (State.raise_cals s code sev ps) i' g'
@[simp] theorem State.emit_reg (o : Out) (a' : Nat) : (s.emit o).reg a' = s.reg a' := State.reg_congr _ _ (State.emit_regs s o) a'
@[simp] theorem State.emit_fld (o : Out) (f' : Fld) : (s.emit o).fld f' = s.fld f' := State.fld_congr _ _ (State.emit_regs s o) f'
@[simp] theorem State.emit_flag (o : Out) (f' : Fld) : (s.emit o).flag f' = s.flag f' := State.flag_congr _ _ (State.emit_regs s o) f'
@[simp] theorem State.emit_port (o : Out) (n' : Nat) : (s.emit o).port n' = s.port n' := State.port_congr (State.emit_ports s o) n'
@[simp] theorem State.emit_pair (o : Out) (n' p' : Nat) : (s.emit o).pair n' p' = s.pair n' p' := State.pair_congr (State.emit_pairs s o) n' p'
@[simp] theorem State.emit_link (o : Out) (l' : LinkId) : (s.emit o).link l' = s.link l' := State.link_congr (State.emit_links s o) l'
@[simp] theorem State.emit_queue (o : Out) (l' : LinkId) : (s.emit o).queue l' = s.queue l' := State.queue_congr (State.emit_queues s o) l'
@[simp] theorem State.emit_host (o : Out) (n' : Nat) : (s.emit o).host n' = s.host n' := State.host_congr (State.emit_hosts s o) n'
@[simp] theorem State.emit_lane (o : Out) (h' : Nat) : (s.emit o).lane h' = s.lane h' := State.lane_congr (State.emit_lanes s o) h'
@[simp] theorem State.emit_portLane (o : Out) (n' : Nat) : (s.emit o).portLane n' = s.portLane n' := State.portLane_congr (State.emit_laneOf s o) n'
@[simp] theorem State.emit_tile (o : Out) (n' : Nat) : (s.emit o).tile n' = s.tile n' := State.tile_congr (State.emit_tiles s o) n'
@[simp] theorem State.emit_diag (o : Out) (g' : Nat) : (s.emit o).diag g' = s.diag g' := State.diag_congr (State.emit_diags s o) g'
@[simp] theorem State.emit_dom (o : Out) (i' : Nat) : (s.emit o).dom i' = s.dom i' := State.dom_congr (State.emit_doms s o) i'
@[simp] theorem State.emit_cal (o : Out) (i' g' : Nat) : (s.emit o).cal i' g' = s.cal i' g' := State.cal_congr (State.emit_cals s o) i' g'
@[simp] theorem State.draw_reg (a' : Nat) : s.draw.2.reg a' = s.reg a' := State.reg_congr _ _ (State.draw_regs s ) a'
@[simp] theorem State.draw_fld (f' : Fld) : s.draw.2.fld f' = s.fld f' := State.fld_congr _ _ (State.draw_regs s ) f'
@[simp] theorem State.draw_flag (f' : Fld) : s.draw.2.flag f' = s.flag f' := State.flag_congr _ _ (State.draw_regs s ) f'
@[simp] theorem State.random_reg (a' : Nat) : s.random.2.reg a' = s.reg a' := State.reg_congr _ _ (State.random_regs s ) a'
@[simp] theorem State.random_fld (f' : Fld) : s.random.2.fld f' = s.fld f' := State.fld_congr _ _ (State.random_regs s ) f'
@[simp] theorem State.random_flag (f' : Fld) : s.random.2.flag f' = s.flag f' := State.flag_congr _ _ (State.random_regs s ) f'
@[simp] theorem State.draw_port (n' : Nat) : s.draw.2.port n' = s.port n' := State.port_congr (State.draw_ports s ) n'
@[simp] theorem State.random_port (n' : Nat) : s.random.2.port n' = s.port n' := State.port_congr (State.random_ports s ) n'
@[simp] theorem State.draw_pair (n' p' : Nat) : s.draw.2.pair n' p' = s.pair n' p' := State.pair_congr (State.draw_pairs s ) n' p'
@[simp] theorem State.random_pair (n' p' : Nat) : s.random.2.pair n' p' = s.pair n' p' := State.pair_congr (State.random_pairs s ) n' p'
@[simp] theorem State.draw_link (l' : LinkId) : s.draw.2.link l' = s.link l' := State.link_congr (State.draw_links s ) l'
@[simp] theorem State.random_link (l' : LinkId) : s.random.2.link l' = s.link l' := State.link_congr (State.random_links s ) l'
@[simp] theorem State.draw_queue (l' : LinkId) : s.draw.2.queue l' = s.queue l' := State.queue_congr (State.draw_queues s ) l'
@[simp] theorem State.random_queue (l' : LinkId) : s.random.2.queue l' = s.queue l' := State.queue_congr (State.random_queues s ) l'
@[simp] theorem State.draw_host (n' : Nat) : s.draw.2.host n' = s.host n' := State.host_congr (State.draw_hosts s ) n'
@[simp] theorem State.random_host (n' : Nat) : s.random.2.host n' = s.host n' := State.host_congr (State.random_hosts s ) n'
@[simp] theorem State.draw_lane (h' : Nat) : s.draw.2.lane h' = s.lane h' := State.lane_congr (State.draw_lanes s ) h'
@[simp] theorem State.random_lane (h' : Nat) : s.random.2.lane h' = s.lane h' := State.lane_congr (State.random_lanes s ) h'
@[simp] theorem State.draw_portLane (n' : Nat) : s.draw.2.portLane n' = s.portLane n' := State.portLane_congr (State.draw_laneOf s ) n'
@[simp] theorem State.random_portLane (n' : Nat) : s.random.2.portLane n' = s.portLane n' := State.portLane_congr (State.random_laneOf s ) n'
@[simp] theorem State.draw_tile (n' : Nat) : s.draw.2.tile n' = s.tile n' := State.tile_congr (State.draw_tiles s ) n'
@[simp] theorem State.random_tile (n' : Nat) : s.random.2.tile n' = s.tile n' := State.tile_congr (State.random_tiles s ) n'
@[simp] theorem State.draw_diag (g' : Nat) : s.draw.2.diag g' = s.diag g' := State.diag_congr (State.draw_diags s ) g'
@[simp] theorem State.random_diag (g' : Nat) : s.random.2.diag g' = s.diag g' := State.diag_congr (State.random_diags s ) g'
@[simp] theorem State.draw_dom (i' : Nat) : s.draw.2.dom i' = s.dom i' := State.dom_congr (State.draw_doms s ) i'
@[simp] theorem State.random_dom (i' : Nat) : s.random.2.dom i' = s.dom i' := State.dom_congr (State.random_doms s ) i'
@[simp] theorem State.draw_cal (i' g' : Nat) : s.draw.2.cal i' g' = s.cal i' g' := State.cal_congr (State.draw_cals s ) i' g'
@[simp] theorem State.random_cal (i' g' : Nat) : s.random.2.cal i' g' = s.cal i' g' := State.cal_congr (State.random_cals s ) i' g'

end Sys2Proof.Machine
end

