-- ==== Sys2Proof/WellFormed.lean ====
section
/-! DEFINITION. Which commands are well formed: each operand within what its rule admits. The machine itself is total (log entry 11). -/
namespace Sys2Proof

/-- A number within a range. -/
def inRange (lo hi v : Nat) : Bool := decide (lo ≤ v ∧ v ≤ hi)

/-- A number of so many bits. -/
def fitsBits (w v : Nat) : Bool := decide (v < 2 ^ w)

/-- The fields of a waymark message have their widths (R101). -/
def msgOk (m : Msg) : Bool :=
  fitsBits 8 m.code && fitsBits 4 m.seq && fitsBits 4 m.ack && fitsBits 32 m.stage && fitsBits 8 m.now && fitsBits 4 m.pmask &&
    fitsBits 2 m.ppoly && fitsBits 32 m.arg

/-- A receive window's references are those of pairs of the device (R114). -/
def windowOk (x : RxWindow) : Bool := x.refs.all (fun r => fitsBits 9 r.g)

/-- A transmit power fits its register field (R113). -/
def powersOk (ms : List StageMeas) : Bool := ms.all (fun m => decide (-32768 ≤ m.power ∧ m.power ≤ 32767) && fitsBits 16 m.terr)

/-- Windows of one pair. -/
def pairWindowsOk (p : Pair) (xs : List RxWindow) : Bool := xs.all (fun x => x.p == p && windowOk x)

/-- E2 has 128 taps of 16 bits (R150). -/
def tapsOk (e2 : List Int) : Bool := e2.length == 128 && e2.all (fun v => decide (-32768 ≤ v ∧ v ≤ 32767))

/-- Received levels are those of PAM4 (R267). -/
def levelsOk (rx : List Int) : Bool := rx.all (fun v => decide (v = -3 ∨ v = -1 ∨ v = 1 ∨ v = 3))

/-- A burst has at most two pages of 64 bits (R163, R164). -/
def burstOk (b : Burst) : Bool := decide (b.pages.length ≤ 2) && b.pages.all (fitsBits 64) && fitsBits 32 b.sender && fitsBits 32 b.echo

/-- The fields of a start-up frame have their widths (R182); a reserved KIND is discarded, not ill-formed. -/
def frameOk (f : SuFrame) : Bool := fitsBits 4 f.kind && fitsBits 4 f.set && fitsBits 20 f.arg && fitsBits 32 f.crc

/-- Bytes are bytes. -/
def bytesOk (bs : List Nat) : Bool := bs.all (fitsBits 8)

/-- A packet comes as ten-bit codes (R388). -/
def ringOk (rx : RingRx) : Bool := rx.codes.all (fun c => decide (c < 1024))

/-- A call comes on a ring from a host agent with at most 1024 bytes of parameters (R398). -/
def callOk (c : Call) : Bool :=
  inRange 0 1 c.ring && inRange 0x80 0x87 c.src && fitsBits 8 c.tag && fitsBits 3 c.flags && decide (c.body.length ≤ 1024) && bytesOk c.body

/-- An access names a bus address (R446). -/
def accessOk (x : BusAccess) : Bool := fitsBits 32 x.a

/-- A command is well formed. -/
def Instr.wf : Instr → Bool
  | .sliceFault _ _ code => inRange 1 4 code
  | .crossbarChange _ j => inRange 0 63 j
  | .sliceScrub _ _ _ => true
  | .tileLinkCheckFail _ _ => true
  | .portModeWrite _ _ => true
  | .timetableModeApply _ => true
  | .bundleModeApply _ => true
  | .testModeDrainPoint _ b => inRange 0 11 b
  | .patternInjSingle _ => true
  | .patternInjBurst _ => true
  | .modeChangeApply _ => true
  | .coachTx _ => true
  | .coachRx _ _ a b c d _ => pairWindowsOk 0 a && pairWindowsOk 1 b && pairWindowsOk 2 c && pairWindowsOk 3 d
  | .waymarkSymbolTx _ => true
  | .waymarkSymbolRx _ rx => rx.all windowOk
  | .waymarkSyncLoss _ => true
  | .wmMessageAbandon _ _ => true
  | .wmStatus _ _ m => msgOk m
  | .swapEntry _ _ m => msgOk m
  | .swapCommit _ _ m => msgOk m
  | .swapAccept _ _ m => msgOk m
  | .swapDecline _ _ m => msgOk m
  | .ratePropose _ _ m => msgOk m
  | .rateAccept _ _ m => msgOk m
  | .rateDecline _ _ m => msgOk m
  | .modePropose _ _ m => msgOk m
  | .modeAccept _ _ m => msgOk m
  | .modeDecline _ _ m => msgOk m
  | .eeiPropose _ _ m => msgOk m
  | .eeiAccept _ _ m => msgOk m
  | .eeiRefuse _ _ m => msgOk m
  | .eeiAbort _ _ m => msgOk m
  | .eeiWakeMsg _ _ m => msgOk m
  | .faultNotice _ _ m => msgOk m
  | .retrainRequest _ _ m => msgOk m
  | .stageCheck _ _ m => msgOk m
  | .wmUnknownCode _ _ m => msgOk m
  | .pairTblDataWrite _ _ _ => true
  | .tableShadowCopyDone _ _ _ => true
  | .subadcTakeSlot _ _ slot _ => inRange 0 63 slot
  | .subadcFail _ _ sub => inRange 0 64 sub
  | .gainLimitRetrain _ => true
  | .timingErrorRetrain _ => true
  | .echoDriftCheck _ _ _ e2 => tapsOk e2
  | .echoStoreRefresh _ _ => true
  | .echoTapSaturation _ => true
  | .fextHReestimate _ fext _ _ => fitsBits 16 fext
  | .deadPairDeclare _ _ => true
  | .coefSnapshotRequest _ _ _ => true
  | .coefSnapshotDone _ _ => true
  | .coefMemSelect _ _ _ => true
  | .coefDataWrite _ _ _ => true
  | .startupEnableSet _ => true
  | .startupEnableClear _ => true
  | .g0BackoffExpire _ => true
  | .g0ReplyTimeout _ => true
  | .preambleDetect _ _ _ _ _ => true
  | .captureOverride _ _ _ _ _ _ => true
  | .burstHeaderDecode _ _ _ _ => true
  | .greet _ b => burstOk b
  | .reply _ b => burstOk b
  | .confirm _ b => burstOk b
  | .confirmAck _ b => burstOk b
  | .confirmNak _ b => burstOk b
  | .confirmTimeout _ => true
  | .g1ResponderTimeout _ => true
  | .setupIntervalEnd _ => true
  | .g2SlotStep _ _ => true
  | .verdictSend _ => true
  | .verdict _ b => burstOk b
  | .g3Start _ => true
  | .g3SyncTimeout _ => true
  | .g4aTableCompute _ => true
  | .startupTableFrame _ f => frameOk f
  | .carryingSetDecide _ => true
  | .startupStatusFrame _ f => frameOk f
  | .startupAbortFrame _ f => frameOk f
  | .verifyResult _ _ => true
  | .showStageName _ => true
  | .showTimeout _ => true
  | .showtimeEntry _ => true
  | .fastRetrainStart _ => true
  | .fastRetrainFail _ cause => inRange 0 15 cause
  | .startupFail _ cause => inRange 0 15 cause
  | .holdOffExpire _ => true
  | .stageBoundary _ meas => powersOk meas
  | .swapEvaluation _ => true
  | .swapCommitSend _ _ => true
  | .tableSwapApply _ _ _ => true
  | .rateTrigger _ => true
  | .rateProposeSend _ => true
  | .rateChangeApply _ _ => true
  | .coachLossRetrain _ => true
  | .tripairFallbackApply _ _ => true
  | .tripairRestoreRequest _ _ => true
  | .linkDown _ cause => inRange 0 15 cause
  | .ingressBlock _ _ _ rx => levelsOk rx
  | .egressBlock _ _ => true
  | .farEgressReport _ _ _ => true
  | .frameExpiry _ _ _ cause => inRange 1 5 cause
  | .fcXoffRepeat _ => true
  | .fcFrameInsert _ _ => true
  | .hostelScrubPass corrected => corrected.all (fun x => inRange 0 65 x.bank && fitsBits 24 x.word)
  | .hostelFence bank _ => inRange 0 65 bank
  | .laneFault _ cause => inRange 1 5 cause
  | .hostDone _ => true
  | .hostWaitExpire _ => true
  | .substitute _ i => inRange 0 15 i
  | .revert _ => true
  | .laneEnableWrite _ _ => true
  | .laneRateWrite _ _ => true
  | .laneAcquired _ => true
  | .hlTxFfeWrite _ _ => true
  | .spareModeWrite _ _ => true
  | .eyeScanStart _ _ => true
  | .eyeScanDone _ _ => true
  | .prbsEnableWrite _ _ => true
  | .prbsInjSingle _ => true
  | .prbsInjBurst _ => true
  | .prbsCheckerLock _ => true
  | .prbsLockLoss _ _ _ => true
  | .eeiProposeSend _ => true
  | .eeiBudgetApply _ => true
  | .eeiEntry _ => true
  | .eeiRefresh _ meas => powersOk meas
  | .eeiWakeCause _ cause => inRange 1 10 cause
  | .eeiPrestepDone _ => true
  | .wakeDetect _ => true
  | .wakeConfirmTimeout _ => true
  | .eeiResume _ _ _ => true
  | .partialFastRetrainStart _ => true
  | .partialFastRetrainFail _ => true
  | .calDeferralWake _ item => inRange 1 6 item
  | .reflectStart _ _ _ => true
  | .reflectDone _ _ _ => true
  | .diagCtrlAbort _ _ => true
  | .mapsStart _ _ _ => true
  | .mapsDone _ _ _ => true
  | .historyRecord _ _ => true
  | .histClear _ => true
  | .refclkLost => true
  | .refclkQualified => true
  | .lpllActiveUnlock _ => true
  | .lpllBothUnlock _ => true
  | .lpllStandbyUnlock _ => true
  | .lpllRelock _ _ => true
  | .lpllSwap _ => true
  | .hpllUnlock _ => true
  | .hpllRelock _ => true
  | .hubPllUnlock => true
  | .hubPllRelock => true
  | .ringPllUnlock => true
  | .ringPllRelock => true
  | .clkDivWrite _ => true
  | .clockSwitchStep dom => inRange 0 4 dom
  | .clockSwitchForced dom _ => inRange 0 4 dom
  | .railGood _ strap => fitsBits 6 strap
  | .railLost _ => true
  | .resetNAssert => true
  | .avsUpdate _ _ _ _ => true
  | .avsCfgWrite _ => true
  | .domainWakeOnAccess x => accessOk x
  | .domainWakeDone id _ => fitsBits 12 id
  | .domainWakeFail id => fitsBits 12 id
  | .domainReturn id => fitsBits 12 id
  | .portPowerOff _ => true
  | .tilePowerOff _ => true
  | .domainRetry id => fitsBits 12 id
  | .domainOffRequest id => fitsBits 12 id
  | .bootStepDone _ => true
  | .bootWatchdogExpire => true
  | .deviceResetStart => true
  | .tileResetDone _ _ => true
  | .ringInputSync _ => true
  | .ringGlitch _ => true
  | .ringBreak _ => true
  | .ringRestored _ => true
  | .packetRx _ rx => ringOk rx
  | .enumerate _ rx => ringOk rx
  | .seqEpoch _ rx _ => ringOk rx
  | .ringPing _ rx => ringOk rx
  | .ringControlReserved _ rx => ringOk rx
  | .commandStart => true
  | .commandTimeout src tag => inRange 0x80 0x87 src && fitsBits 8 tag
  | .replyRetentionExpire => true
  | .noticeSend => true
  | .intRepeatExpire => true
  | .seqTickSaturate => true
  | .wrapWrite _ => true
  | .devNop c => callOk c
  | .devIdentify c => callOk c
  | .devStatus c => callOk c
  | .deviceReset c => callOk c
  | .tileReset c => callOk c
  | .portReset c => callOk c
  | .devIntRead c => callOk c
  | .devIntClear c => callOk c
  | .devTemps c => callOk c
  | .devJobs c => callOk c
  | .devJobAbort c => callOk c
  | .portEnable c => callOk c
  | .portModeSet c => callOk c
  | .portRetrain c => callOk c
  | .portRate c => callOk c
  | .portStatus c => callOk c
  | .portSummary c => callOk c
  | .portCounters c => callOk c
  | .portPeer c => callOk c
  | .portFlowctl c => callOk c
  | .portSublinks c => callOk c
  | .hlEnable c => callOk c
  | .hlStatus c => callOk c
  | .hlFfe c => callOk c
  | .hlSpareSet c => callOk c
  | .hlSpareAct c => callOk c
  | .hlEyeScan c => callOk c
  | .hlEyeResult c => callOk c
  | .hlPrbs c => callOk c
  | .hlPrbsRead c => callOk c
  | .hlPrbsInject c => callOk c
  | .diagReflect c => callOk c
  | .diagResult c => callOk c
  | .diagMaps c => callOk c
  | .diagMapRead c => callOk c
  | .diagTraceRead c => callOk c
  | .diagHistory c => callOk c
  | .diagProfile c => callOk c
  | .diagSnr c => callOk c
  | .diagAbort c => callOk c
  | .calRun c => callOk c
  | .calStatus c => callOk c
  | .calCfg c => callOk c
  | .calSave c _ => callOk c
  | .eeiSet c => callOk c
  | .eeiWake c => callOk c
  | .pwrDomain c => callOk c
  | .pwrAvs c => callOk c
  | .pwrStatus c => callOk c
  | .nvInfo c => callOk c
  | .nvRead c => callOk c
  | .nvOpen c _ => callOk c
  | .nvWrite c _ => callOk c
  | .nvCommit c _ => callOk c
  | .nvClose c => callOk c
  | .nvSaveConfig c _ => callOk c
  | .gbInfo c => callOk c
  | .gbRead c => callOk c
  | .gbClear c => callOk c
  | .gbRate c => callOk c
  | .regRead c => callOk c
  | .regWrite c => callOk c
  | .regReadList c => callOk c
  | .regRmw c => callOk c
  | .regWriteBlock c => callOk c
  | .commitConfig c => callOk c
  | .cncClaim c => callOk c
  | .cncRelease c => callOk c
  | .cncList c => callOk c
  | .sliceSwap c => callOk c
  | .bistRun c => callOk c
  | .bistCfg c => callOk c
  | .porterSwitch c => callOk c
  | .lockSet c => callOk c
  | .unlockWrite c => callOk c
  | .lockStatus c => callOk c
  | .completionAccept => true
  | .registerWrite x _ => accessOk x
  | .rcRead x _ => accessOk x
  | .counterLowRead x => accessOk x
  | .counterHighWrite x => accessOk x
  | .counterLowWrite x _ => accessOk x
  | .windowDataAccess x => accessOk x
  | .cfgWalkerPass _ => true
  | .cfgCommit => true
  | .commitPassDone => true
  | .cfgCheckEnableWrite _ _ => true
  | .cfgFencedClear => true
  | .hubLockWrite _ _ => true
  | .unlockKeyWrite _ _ => true
  | .unlockWindowExpire => true
  | .trimTrackTick _ => true
  | .calRunStart item target _ => inRange 1 6 item && fitsBits 16 target
  | .calRunDone item target _ => inRange 1 6 item && fitsBits 16 target
  | .calRunTimeout item target => inRange 1 6 item && fitsBits 16 target
  | .calRetry item target => inRange 1 6 item && fitsBits 16 target
  | .opSecondsStore _ => true
  | .gbEventAccept => true
  | .gbRecordWrite _ => true
  | .gbClearDoorbell => true
  | .gbRateWindowEnd => true
  | .porterTakeover cause => inRange 1 3 cause
  | .bistUnitDue => true
  | .bistTestDone unit _ => fitsBits 32 unit
  | .bankDrained _ => true
  | .bankDrainTimeout _ => true
  | .maintSwapCopyDone _ _ => true
  | .maintSwapShadowDone _ _ _ => true
  | .claimGrant _ => true
  | .dapOperation op a v => inRange 0 3 op && fitsBits 32 a && fitsBits 32 v
  | .boardTestBegin load => fitsBits 8 load.ir
  | .boardTestEnd => true
  | .tapReset => true
  | .porterHalt _ => true
  | .porterBreakpoint _ _ => true
  | .porterResume => true
  | .porterStep _ => true
  | .dbgCoreDataAccess _ => true
  | .tempAlertAssert => true
  | .tempAlertRelease => true
  | .tileLinkLockLoss _ => true
  | .frontendFault _ _ => true
  | .resetNRelease strap => fitsBits 6 strap
  | .deviceResetEnd => true
  | .ringSyncLoss _ _ => true
  | .packetForward _ rx => ringOk rx
  | .calRunStartTimeout item target => inRange 1 6 item && fitsBits 16 target
  | .domainPowerDownDone id => fitsBits 12 id

end Sys2Proof
end

