-- ==== Sys2Proof/Tests/Slice0.lean ====
section
/-! SUPPORT. Tests: each check of WellFormed refuses an ill-formed command; single steps on small states with results from the spec; for each
clause of a statement a state and operands that meet its conditions. -/
set_option Elab.async false
namespace Sys2Proof.Tests
open Sys2Proof Sys2Proof.Machine Sys2Proof.Claims

/-! ### WellFormed refuses -/

/-- A field that does not fit its width: a waymark message, a start-up frame, a temperature figure, a strap, a tap, a TAP instruction (R101, R182). -/
theorem test_wf_refuses_wide_fields :
    ([.wmStatus ⟨0, none⟩ 0 ⟨256, 0, 0, 0, 0, 0, 0, 0⟩, .swapEntry ⟨0, none⟩ 0 ⟨0, 0, 0, 2 ^ 32, 0, 0, 0, 0⟩, .startupAbortFrame ⟨0, none⟩ ⟨3, 0, 0, 2 ^ 20, [], 0⟩,
      .fextHReestimate ⟨0, none⟩ 65536 0 0, .railGood 0 64, .resetNRelease 64, .boardTestBegin ⟨256, [], 0⟩, .echoDriftCheck 0 none 0 (List.replicate 128 32768), .dapOperation 0 (2 ^ 32) 0,
      .domainRetry 4096, .domainWakeFail 4096, .bistTestDone (2 ^ 32) [], .commandTimeout 0x80 256, .hostelScrubPass [⟨0, 2 ^ 24, false⟩],
      .stageBoundary ⟨0, none⟩ [⟨0, 65536, 0⟩]] : List Instr).all (fun i => !i.wf) = true := by
  decide +kernel

/-- A number outside its range: codes of a slice fault, causes, items, slots, banks, domains, targets, host agents. -/
theorem test_wf_refuses_out_of_range :
    ([.sliceFault 0 0 0, .sliceFault 0 0 5, .crossbarChange 0 64, .testModeDrainPoint 0 12, .subadcTakeSlot 0 0 64 false, .subadcFail 0 0 65,
      .fastRetrainFail ⟨0, none⟩ 16, .startupFail ⟨0, none⟩ 16, .linkDown ⟨0, none⟩ 16, .frameExpiry ⟨0, none⟩ .tx 0 0, .hostelFence 66 0,
      .laneFault 0 0, .laneFault 0 6, .substitute 0 16, .eeiWakeCause ⟨0, none⟩ 0, .calDeferralWake ⟨0, none⟩ 7, .clockSwitchStep 5,
      .clockSwitchForced 5 0, .commandTimeout 0x88 0, .calRetry 0 0, .calRetry 1 65536, .porterTakeover 0, .dapOperation 4 0 0] :
      List Instr).all (fun i => !i.wf) = true := by decide +kernel

/-- A window of another pair or with a reference beyond the device's pairs, E2 without its 128 taps, a level that PAM4 lacks, a burst of three pages, a
start-up frame whose kind or set does not fit, a code of more than ten bits, a call whose bytes are no bytes, a call with a long body, a call from no
host agent, an access beyond the bus. -/
theorem test_wf_refuses_malformed_operands :
    ([.coachRx 0 none [] [⟨0, 0, [], []⟩] [] [] 0, .waymarkSymbolRx ⟨0, none⟩ [⟨0, 0, [], [⟨512, []⟩]⟩], .echoDriftCheck 0 none 0 [],
      .ingressBlock 0 0 0 [2], .greet ⟨0, none⟩ ⟨0, 1, 5, 0, 0, [0, 0, 0], false, 0, [0], []⟩,
      .startupTableFrame ⟨0, none⟩ ⟨16, 0, 0, 0, [], 0⟩, .startupTableFrame ⟨0, none⟩ ⟨1, 0, 16, 0, [], 0⟩, .packetRx 0 ⟨true, [1024]⟩,
      .devNop ⟨0, 0x80, 0, 0, [256]⟩, .devNop ⟨0, 0x80, 0, 0, List.replicate 1025 0⟩, .devNop ⟨0, 0x7F, 0, 0, []⟩, .devNop ⟨2, 0x80, 0, 0, []⟩,
      .devNop ⟨0, 0x80, 0, 8, []⟩, .rcRead ⟨2 ^ 32, none, .ring⟩ ⟨none, 0, 0⟩] : List Instr).all (fun i => !i.wf) = true := by decide +kernel

/-- And it accepts a command within its ranges. -/
theorem test_wf_accepts : (Instr.devNop ⟨1, 0x87, 255, 7, [255]⟩).wf = true := by decide

/-! ### Figures of the spec -/

/-- The check value of R6. -/
theorem test_crc32c_check_value : crc32c [0x31, 0x32, 0x33, 0x34, 0x35, 0x36, 0x37, 0x38, 0x39] = 0xE3069283 := by decide +kernel

/-- The worked example of chapter 1: at reset TILE_XBAR_MAP5 of tile 2 reads 0x1716_1514, and TILE_SLICE_STATE4 shows four FREE spares. -/
theorem test_crossbar_at_reset : State.reset.reg 0x12000114 = 0x17161514 ∧ State.reset.reg 0x12000150 = 0x55 := by decide +kernel

/-- A word of 16 bits in two's complement: 0xFFF6 is -10, or -1.0 dB in 0.1 dB (R8). -/
theorem test_signed : signed 16 0xFFF6 = -10 := by decide

/-! ### States for the witnesses -/
def l0 : LinkId := ⟨0, none⟩
def atLink (g : LinkSt → LinkSt) : State := State.reset.modLink l0 g
def b0 : Burst := ⟨0, 1, 5, 0, 0, [0x01 * 2 ^ 56, 0], false, 0, [0], []⟩
def f0 : SuFrame := sealFrame ⟨1, 0, 0, 0, [], 0⟩
/-- A TABLE frame that names tier 100 and carries four bits on each of 292 subcarriers. -/
def f1 : SuFrame := sealFrame ⟨1, 0, 0, 3 * 2 ^ 17 + 15 * 2 ^ 12, List.replicate 302 (entryOf 4 12), 0⟩

def lit (s : State) : State := ((s.setFld (PORT_STARTUP_CFG.ENABLE 0) 1).setFld CLK_STATUS.REF_QUAL 1).setFld (TILE_CLK_STATUS.M_LOCK 0) 1 |>.setFld PWR_PHASE.PHASE 1

def hostUp : State := (State.reset.setFld (HL_STATUS.STATE 0) 2).setFld (CLK_HPLL_STATUS.LOCKED 0) 1
def lit2 : State := ((State.reset.setFld CLK_STATUS.REF_QUAL 1).setFld CLK_STATUS.HUBPLL_LOCK 1).setFld CLK_STATUS.RINGPLL_LOCK 1
/-- The device READY in phase T with tile 0 and octets 0 and 16 on, and what serves pair 0 awake. -/
def up : State :=
  forEach [0x020, 0x040, 0x050, 0x200, 0x400] (fun id s => s.modDom id (fun d => { d with state := 3, awake := true }))
    (((State.reset.setFld PWR_PHASE.READY 1).setFld PWR_PHASE.PHASE 2).setFld PWR_PHASE.BOOT_STEP 9)
def call (body : List Nat) : Call := ⟨0, 0x80, 1, 0, body⟩
/-- Link 0 in showtime with the bits of a coach received: its bytes, then four CRC bytes. -/
def coachHeard (crc : Nat) : State :=
  (atLink (fun k => { k with phase := 7 })).modQueue l0 (fun q => { q with
    rxBits := (coachBits 64 (List.replicate 40 0) ++ bitsLsb 32 crc).map (fun b => (b, false)) })

/-- The received values of a header sent over a channel that changes nothing. -/
def rxOf (hdr : Nat) : List Cx :=
  (List.range 16).map (fun i => turnAt (32 * (i * i))) ++ (inPairs (fillSymbols 128 (codeword (bitsMsb 122 hdr))).flatten).map qpskPoint
/-- What a ring input receives of a packet of these bytes. -/
def heardPacket (bs : List Nat) : RingRx :=
  let cs := encodeChars (ringChars bs) false
  ⟨decide (0 < codesBalance (cs.take 1)), cs.drop 1⟩

/-- A pair whose far end sends PRBS on it, so that coaches take no share of it, with one subcarrier of six bits and no SNR; and its table after
that subcarrier has come down to two bits. -/
def swapWitness : State :=
  let s := (atLink (fun k => { k with phase := 7, carryRx := 1, streamRx := 4 })).modPair 0 0 (fun q => { q with sinceSwap := 64 })
  { s.modPort 0 (fun q => { q with farPmask := 1 }) with tbl := [(tblKey 0 0 .rx 0 4, entryOf 6 12)] }
def swappedTable : List Nat :=
  (List.replicate 512 emptyEntry).set 4 (entryOf 2 (gainFor (-2 * targetMargin swapWitness 0 - req false false 2)))

/-- The margins, the share, the table and the SNRs of that state. -/
theorem swap_witness_reads : targetMargin swapWitness l0.n = 30 ∧ min (swapWitness.fld (PORT_SWAP_CFG.SWAP_DOWN l0.n)) 60 = 15 ∧
    swapWitness.fld (PORT_SWAP_CFG.WEAK_MIN l0.n) ≤ 1 ∧ dirShare swapWitness l0 .rx = 0 ∧ plainRx (swapWitness.link l0) = false ∧
    isReach (swapWitness.link l0) = false ∧ swapWitness.active l0.n 0 .rx = (List.replicate 512 emptyEntry).set 4 (entryOf 6 12) ∧
    snrList swapWitness l0.n 0 = List.replicate 512 0 := by decide +kernel

/-- Reading a list of one value, and of one value but at one place; a map over a range that has one value but at one place. -/
theorem getD_alike (n k e : Nat) : (List.replicate n e).getD k e = e := by
  simp only [List.getD_eq_getElem?_getD, List.getElem?_replicate]
  split_ifs <;> rfl
theorem getD_but_one (n k j e v : Nat) (h : j < n) : ((List.replicate n e).set j v).getD k e = if k = j then v else e := by
  simp only [List.getD_eq_getElem?_getD, List.getElem?_set, List.getElem?_replicate, List.length_replicate, eq_comm (a := j), h, if_true]
  split_ifs <;> rfl
theorem map_but_one (f : Nat → Nat) (n j e v : Nat) (h : j < n) (hf : ∀ k, f k = if k = j then v else e) :
    (List.range n).map f = (List.replicate n e).set j v := by
  apply List.ext_getElem?
  intro k
  simp only [List.getElem?_map, List.getElem?_set, List.getElem?_replicate, List.length_replicate]
  by_cases hk : k < n
  · rw [List.getElem?_range hk]
    by_cases hj : j = k
    · subst hj; simp [hf, h]
    · simp [hf, hj, hk, Ne.symm hj]
  · have hj : j ≠ k := by omega
    simp [hk, hj]

/-- Its table has a weak subcarrier. -/
theorem swap_witness_weak : 1 ≤ weakCount false false ((List.replicate 512 emptyEntry).set 4 (entryOf 6 12)) (List.replicate 512 0) 30 15 := by
  apply Nat.succ_le_of_lt
  unfold weakCount
  exact List.length_pos_of_mem (a := 4) (List.mem_filter.2 ⟨List.mem_range.2 (by decide), by
    simp only [getD_but_one 512 _ 4 _ _ (by decide), getD_alike, if_true]
    norm_num [entryB, entryOf, subMargin, req]⟩)

/-- With no deficit nothing is raised. -/
theorem raise_none (ex : Nat → Nat → Int) (fuel : Nat) (b : List Nat) : raiseLoop ex fuel 0 b = some b := by
  cases fuel <;> rfl

/-- The bits of a subcarrier once those below the threshold are lowered (R204), and the swap of a table that loses none of its share. -/
def loweredAt (plain reach : Bool) (t snr : List Nat) (target down k : Nat) : Nat :=
  if 2 ≤ (t.map entryB).getD k 0 ∧ subMargin plain reach (snr.getD k 0) ((t.map entryB).getD k 0) < 2 * target - 2 * down
  then lowerBits plain reach (5 * snr.getD k 0) (2 * target) 12 ((t.map entryB).getD k 0) else (t.map entryB).getD k 0

theorem swapTable_without_deficit (plain reach : Bool) (t snr : List Nat) (target down : Nat) :
    swapTable plain reach t snr target down 0 = some ((List.range 512).map (fun k =>
      if ((List.range 512).map (loweredAt plain reach t snr target down)).getD k 0 = (t.map entryB).getD k 0 then t.getD k emptyEntry
      else entryOf (((List.range 512).map (loweredAt plain reach t snr target down)).getD k 0)
        (gainFor (5 * snr.getD k 0 - 2 * target -
          req plain reach (((List.range 512).map (loweredAt plain reach t snr target down)).getD k 0))))) := by
  unfold swapTable
  simp only [Nat.zero_sub, raise_none]
  rfl

/-- Its table after the swap. -/
theorem swap_witness_swaps :
    swapTable false false ((List.replicate 512 emptyEntry).set 4 (entryOf 6 12)) (List.replicate 512 0) 30 15 0 = some swappedTable := by
  have hm : ((List.replicate 512 emptyEntry).set 4 (entryOf 6 12)).map entryB = (List.replicate 512 0).set 4 6 := by decide +kernel
  have h1 := map_but_one (loweredAt false false ((List.replicate 512 emptyEntry).set 4 (entryOf 6 12)) (List.replicate 512 0) 30 15)
    512 4 0 2 (by decide)
    (fun k => by
      simp only [loweredAt, hm, getD_but_one 512 _ 4 _ _ (by decide), getD_alike]
      by_cases h : k = 4 <;> simp only [h, if_true, if_false] <;> decide)
  rw [swapTable_without_deficit]
  simp only [h1, hm, getD_but_one 512 _ 4 _ _ (by decide), getD_alike]
  rw [map_but_one _ 512 4 emptyEntry (entryOf 2 (gainFor (-2 * targetMargin swapWitness 0 - req false false 2))) (by decide)
    (fun k => by by_cases h : k = 4 <;> simp only [h, if_true, if_false]; rfl)]
  rfl

/-- That state meets every condition of the clause of swapEvaluation that begins a swap. -/
theorem swap_witness_meets : (swapWitness.link l0).phase = 7 ∧ (swapWitness.link l0).eei.inDepth = false ∧
    maskPairs (swapWitness.link l0).carryRx = [0] ∧ swapWitness.flag (PAIR_QUALITY.STALE l0.n 0) = false ∧ mayStartSwap swapWitness l0 0 = true ∧
    max 1 (swapWitness.fld (PORT_SWAP_CFG.WEAK_MIN l0.n)) ≤ weakCount (plainRx (swapWitness.link l0)) (isReach (swapWitness.link l0))
      (swapWitness.active l0.n 0 .rx) (snrList swapWitness l0.n 0) (targetMargin swapWitness l0.n)
      (min (swapWitness.fld (PORT_SWAP_CFG.SWAP_DOWN l0.n)) 60) ∧
    swapTable (plainRx (swapWitness.link l0)) (isReach (swapWitness.link l0)) (swapWitness.active l0.n 0 .rx) (snrList swapWitness l0.n 0)
      (targetMargin swapWitness l0.n) (min (swapWitness.fld (PORT_SWAP_CFG.SWAP_DOWN l0.n)) 60) (dirShare swapWitness l0 .rx) =
      some swappedTable := by
  obtain ⟨h1, h2, h3, h4, h5, h6, h7, h8⟩ := swap_witness_reads
  refine ⟨by decide +kernel, by decide +kernel, by decide +kernel, by decide +kernel, by decide +kernel, ?_, ?_⟩
  · rw [h1, h2, h5, h6, h7, h8]
    exact Nat.le_trans (Nat.max_le.2 ⟨Nat.le_refl 1, h3⟩) swap_witness_weak
  · rw [h1, h2, h4, h5, h6, h7, h8]
    exact swap_witness_swaps

/-- A header sent over a channel that changes nothing is decoded as sent (R161, R162). -/
theorem header_decodes : decodedHeader (rxOf (burstHeader 1 2 0 1 5 0 0)) = burstHeader 1 2 0 1 5 0 0 := by decide +kernel

/-- The condition of EmptyQueueLetsAMicrosecondPass can hold. -/
theorem empty_queue_can_hold : ∃ s : State, s.pending = [] := ⟨State.reset, rfl⟩

/-- The conditions of EveryStepKeepsTheInvariant can hold. -/
theorem invariant_and_step_can_hold : ∃ s t : State, Inv s ∧ step s = .next t :=
  ⟨State.reset, idleStep State.reset, ⟨by decide, by decide, by decide⟩, rfl⟩

/-- The conditions of CommandsChangeOnlyTheirKindsOfState can hold. -/
theorem footprint_can_hold : ∃ (c : Instr) (s t : State) (k : Kind), exec c s = .next t ∧ k ∉ footprint c :=
  ⟨.wmUnknownCode 0 0 ⟨1, 0, 0, 0, 0, 0, 0, 0⟩, State.reset, _, .mram, rfl, by decide⟩

/-- The condition of CommandsLeaveQueueAndClock can hold. -/
theorem next_can_hold : ∃ (c : Instr) (s t : State), exec c s = .next t := ⟨.wmUnknownCode 0 0 ⟨1, 0, 0, 0, 0, 0, 0, 0⟩, State.reset, _, rfl⟩

/-- The condition of CrcHasTheParametersOfTheManual can hold. -/
theorem bytes_can_hold : ∃ bs : List Nat, bs ≠ [] ∧ ∀ b ∈ bs, b < 256 := ⟨[255], by decide⟩

/-- The conditions of NoReplyMeansNoReply can hold. -/
theorem noreply_can_hold : (∃ p : Pkt, bit p.call.flags 2 = true) ∧ ∃ c : Call, bit c.flags 2 = true :=
  ⟨⟨⟨⟨0, 0x80, 0, 4, []⟩, 0, 0⟩, by decide⟩, ⟨⟨0, 0x80, 0, 4, []⟩, by decide⟩⟩

set_option maxRecDepth 40000 in
/-- The conditions of CoachInAFailedCodewordIsCrcBad can hold. -/
theorem coach_failed_can_hold :
    (∃ (n : Port) (sub : Option Pair) (a b c d : List RxWindow) (s : State) (bad : Nat),
      let l : LinkId := ⟨n, sub⟩
      let rx := bySymbol [a, b, c, d]
      4 ≤ (s.link l).phase ∧ (s.link l).phase ≤ 8 ∧ 10320 ≤ (bitsIn l rx s).length ∧
      ((bitsIn l rx s).take 10320).any (·.2) = true ∧ bad ≠ coachCrc (coachIn l rx s).hdr (coachIn l rx s).blocks) ∧
    (∃ bs : List Bool, bs.length = 10880) ∧
    ∃ (l : LinkId) (bs : List Bool) (s : State), isReach (s.link l) = true ∧ 10880 ≤ ((s.queue l).rxCoded ++ bs).length ∧
      (s.queue l).rxIlv < reachM (shareStream l (s.link l).streamRx) :=
  ⟨⟨0, none, [], [], [], [], (atLink (fun k => { k with phase := 7 })).modQueue l0 (fun q => { q with rxBits := List.replicate 10320 (false, true) }), 0,
      by decide +kernel⟩,
    ⟨List.replicate 10880 false, List.length_replicate⟩,
    ⟨l0, List.replicate 10880 false, atLink (fun k => { k with phase := 7, negotiated := 2, streamRx := 3 }), by decide +kernel⟩⟩

set_option maxRecDepth 40000 in
/-- The conditions of TheFirstGoodMessageGivesTheFarCount can hold, those of its last clause at the end of the range. -/
theorem heard_can_hold :
    (∃ (l : LinkId) (hs : List Heard) (s : State) (p : Nat) (m : Msg) (more : List (Nat × Msg)), (s.link l).phase = 7 ∧ (s.link l).synced = true ∧
      isHigher (s.link l) = true ∧ goodMessages hs (maskPairs (s.link l).carryRx) = (p, m) :: more) ∧
    (∃ (l : LinkId) (hs : List Heard) (s : State) (p : Nat) (m : Msg) (more : List (Nat × Msg)), (s.link l).phase = 7 ∧ (s.link l).synced = true ∧
      isHigher (s.link l) = false ∧ goodMessages hs (maskPairs (s.link l).carryRx) = (p, m) :: more) ∧
    (∃ (l : LinkId) (hs : List Heard) (s : State), (s.link l).phase = 7 ∧ goodMessages hs (maskPairs (s.link l).carryRx) = []) ∧
    (∃ (l : LinkId) (hs : List Heard) (s : State) (p : Nat) (m : Msg) (more : List (Nat × Msg)), (s.link l).phase = 4 ∧ (s.link l).synced = false ∧
      goodMessages hs (linkPairs l) = (p, m) :: more) ∧ ∃ now : Nat, now < 256 :=
  ⟨⟨l0, [⟨0, false, 0, crc16 (bitsMsb 96 0)⟩], atLink (fun k => { k with phase := 7, synced := true, ownId := 1, carryRx := 15 }), 0,
      ⟨0, 0, 0, 0, 0, 0, 0, 0⟩, [], by decide +kernel⟩,
    ⟨l0, [⟨0, false, 0, crc16 (bitsMsb 96 0)⟩], atLink (fun k => { k with phase := 7, synced := true, carryRx := 15 }), 0,
      ⟨0, 0, 0, 0, 0, 0, 0, 0⟩, [], by decide +kernel⟩,
    ⟨l0, [], atLink (fun k => { k with phase := 7 }), by decide +kernel⟩,
    ⟨l0, [⟨0, false, 0, crc16 (bitsMsb 96 0)⟩], atLink (fun k => { k with phase := 4 }), 0, ⟨0, 0, 0, 0, 0, 0, 0, 0⟩, [], by decide +kernel⟩,
    ⟨255, by decide⟩⟩

/-- The conditions of LaterStagesByTheModularRule can hold at the edge of the range. -/
theorem stages_can_hold : ∃ s c : Nat, s % 2 ^ 32 ≠ c % 2 ^ 32 ∧ (s + 2 ^ 31) % 2 ^ 32 ≠ c % 2 ^ 32 ∧ later s c = true :=
  ⟨2 ^ 31 - 1, 0, by decide⟩

/-- The conditions of ResetAssignsSlicesAndLanes can hold at the ends of the ranges. -/
theorem slices_can_hold : ∃ t i : Nat, t < 8 ∧ 64 ≤ i ∧ i < 68 := ⟨7, 67, by decide⟩

set_option maxRecDepth 20000 in
/-- The conditions of each clause of GreetingReceiverAnswers can hold (preambleDetect, captureOverride, burstHeaderDecode, burstHeaderDecode, g0BackoffExpire, g0ReplyTimeout). -/
theorem greeting_receiver_answers_can_hold :
    (∃ (n : Port) (p : Pair) (before : List Int) (rx : List Int) (e : Nat) (s : State), listens (s.link (linkOfPair s n p)) = true ∧ (scanPreamble (detThresh (s.link (linkOfPair s n p))) (fun _ => true) (s.pair n p).detRun (s.pair n p).detFirst before rx).hit = some e ∧ (s.pair n p).detect = none) ∧
    (∃ (n : Port) (p : Pair) (before : List Int) (rx : List Int) (d : Nat) (e : Nat) (s : State), listens (s.link (linkOfPair s n p)) = true ∧ (s.pair n p).detect = some d ∧ (s.pair n p).hdrDone = false ∧ (scanPreamble (detThresh (s.link (linkOfPair s n p))) (captures (s.link (linkOfPair s n p)) d) 0 0 before rx).hit = some e) ∧
    (∃ (n : Port) (p : Pair) (rx : List (Int × Int)) (s : State), (s.pair n p).detect ≠ none ∧ crc16 (bitsMsb 106 (decodedHeader rx / 65536)) = decodedHeader rx % 65536 ∧ 1 ≤ bits (decodedHeader rx) 121 118 ∧ bits (decodedHeader rx) 121 118 ≤ 6) ∧
    (∃ (n : Port) (p : Pair) (rx : List (Int × Int)) (s : State), (s.pair n p).detect ≠ none ∧ crc16 (bitsMsb 106 (decodedHeader rx / 65536)) ≠ decodedHeader rx % 65536) ∧
    (∃ (l : LinkId) (s : State), (s.link l).phase = 1 ∧ (s.link l).waitReply = false) ∧
    (∃ (l : LinkId) (s : State), (s.link l).phase = 1 ∧ (s.link l).waitReply = true) :=
  ⟨⟨0, 0, List.replicate 767 1, [1], 7, (atLink (fun k => { k with phase := 1 })).modPair 0 0 (fun q => { q with detRun := 63, detFirst := 7 }), by decide +kernel⟩,
   ⟨0, 0, List.replicate 767 1, List.replicate 64 1, 0, 512, (atLink (fun k => { k with phase := 1 })).modPair 0 0 (fun q => { q with detect := some 0 }), by decide +kernel⟩,
   ⟨0, 0, rxOf (burstHeader 1 2 0 1 5 0 0), State.reset.modPair 0 0 (fun q => { q with detect := some 0 }), by rw [header_decodes]; decide +kernel⟩,
   ⟨0, 0, [], State.reset.modPair 0 0 (fun q => { q with detect := some 0 }), by decide +kernel⟩,
   ⟨l0, atLink (fun k => { k with phase := 1 }), by decide +kernel⟩,
   ⟨l0, atLink (fun k => { k with phase := 1, waitReply := true }), by decide +kernel⟩⟩

set_option maxRecDepth 20000 in
/-- The conditions of each clause of GreetingExchange can hold (greet, reply, confirm, confirm, confirmAck, confirmNak, confirmTimeout). -/
theorem greeting_exchange_can_hold :
    (∃ (l : LinkId) (b : Burst) (s : State), (acceptBurst l b true s).1 = true ∧ (s.link l).phase = 1 ∧ (s.link l).waitReply = false) ∧
    (∃ (l : LinkId) (b : Burst) (s : State), (acceptBurst l b true s).1 = true ∧ (s.link l).phase = 1 ∧ (s.link l).waitReply = true ∧ b.echo = (s.link l).ownId ∧ b.attempt % 256 = (s.link l).attempt % 256 ∧ protoOk (acceptBurst l b true s).2 l b.pages = true) ∧
    (∃ (l : LinkId) (b : Burst) (s : State), (acceptBurst l b true s).1 = true ∧ (s.link l).phase = 2 ∧ (s.link l).initiator = false ∧ protoOk (acceptBurst l b true s).2 l b.pages = true ∧ crc16 (bitsMsb 32 ((resolve l b.pages (acceptBurst l b true s).2).link l).resultWord) = b.resultCrc) ∧
    (∃ (l : LinkId) (b : Burst) (s : State), (acceptBurst l b true s).1 = true ∧ (s.link l).phase = 2 ∧ (s.link l).initiator = false ∧ protoOk (acceptBurst l b true s).2 l b.pages = true ∧ crc16 (bitsMsb 32 ((resolve l b.pages (acceptBurst l b true s).2).link l).resultWord) ≠ b.resultCrc) ∧
    (∃ (l : LinkId) (b : Burst) (s : State), (acceptBurst l b false s).1 = true ∧ (s.link l).phase = 2 ∧ (s.link l).initiator = true) ∧
    (∃ (l : LinkId) (b : Burst) (s : State), (acceptBurst l b false s).1 = true ∧ (s.link l).phase = 2 ∧ (s.link l).initiator = true) ∧
    (∃ (l : LinkId) (s : State), (s.link l).phase = 2 ∧ (s.link l).initiator = true ∧ (s.link l).setup = false ∧ (s.link l).confirms < 3) :=
  ⟨⟨l0, b0, atLink (fun k => { k with phase := 1, ownId := 9 }), by decide +kernel⟩,
   ⟨l0, { b0 with echo := 9 }, atLink (fun k => { k with phase := 1, ownId := 9, waitReply := true, attempt := 1 }), by decide +kernel⟩,
   ⟨l0, { b0 with echo := 9, resultCrc := crc16 (bitsMsb 32 (0)) }, atLink (fun k => { k with phase := 2, ownId := 9, peerId := 5 }), by decide +kernel⟩,
   ⟨l0, { b0 with echo := 9 }, atLink (fun k => { k with phase := 2, ownId := 9, peerId := 5 }), by decide +kernel⟩,
   ⟨l0, { b0 with echo := 9 }, atLink (fun k => { k with phase := 2, ownId := 9, peerId := 5, initiator := true }), by decide +kernel⟩,
   ⟨l0, { b0 with echo := 9 }, atLink (fun k => { k with phase := 2, ownId := 9, peerId := 5, initiator := true }), by decide +kernel⟩,
   ⟨l0, atLink (fun k => { k with phase := 2, initiator := true }), by decide +kernel⟩⟩

set_option maxRecDepth 20000 in
/-- The conditions of each clause of GreetingExchange can hold (g1ResponderTimeout, setupIntervalEnd). -/
theorem greeting_exchange_can_hold_2 :
    (∃ (l : LinkId) (s : State), (s.link l).phase = 2 ∧ (s.link l).initiator = false ∧ (s.link l).confirmed = false) ∧
    (∃ (l : LinkId) (s : State), (s.link l).phase = 2 ∧ (s.link l).setup = true) :=
  ⟨⟨l0, atLink (fun k => { k with phase := 2 }), by decide +kernel⟩,
   ⟨l0, atLink (fun k => { k with phase := 2, setup := true }), by decide +kernel⟩⟩

set_option maxRecDepth 20000 in
/-- The conditions of each clause of TrainingAndVerdict can hold (g2SlotStep, verdictSend, verdict, g3Start, g3Start, g3SyncTimeout). -/
theorem training_and_verdict_can_hold :
    (∃ (l : LinkId) (s : State), (s.link l).phase = 3 ∧ (s.link l).g2Step < 14) ∧
    (∃ (l : LinkId) (s : State), (s.link l).phase = 3 ∧ 14 ≤ (s.link l).g2Step) ∧
    (∃ (l : LinkId) (b : Burst) (s : State), (acceptBurst l b false s).1 = true ∧ (s.link l).phase = 3) ∧
    (∃ (l : LinkId) (v : Nat) (s : State), (s.link l).phase = 3 ∧ 14 ≤ (s.link l).g2Step ∧ (s.link l).peerVerdict = some v ∧ bit (verdictWord s l) 58 = false ∧ bit v 58 = false) ∧
    (∃ (l : LinkId) (v : Nat) (s : State), (s.link l).phase = 3 ∧ 14 ≤ (s.link l).g2Step ∧ (s.link l).peerVerdict = some v ∧ bit (verdictWord s l) 58 = false ∧ bit v 58 = true) ∧
    (∃ (l : LinkId) (s : State), (s.link l).phase = 4 ∧ (s.link l).synced = false ∧ 128 ≤ (s.link l).own) :=
  ⟨⟨l0, atLink (fun k => { k with phase := 3 }), by decide +kernel⟩,
   ⟨l0, atLink (fun k => { k with phase := 3, g2Step := 14 }), by decide +kernel⟩,
   ⟨l0, { b0 with echo := 9 }, atLink (fun k => { k with phase := 3, ownId := 9, peerId := 5 }), by decide +kernel⟩,
   ⟨l0, 0, atLink (fun k => { k with phase := 3, g2Step := 14, peerVerdict := some 0 }), by decide +kernel⟩,
   ⟨l0, 2 ^ 58, atLink (fun k => { k with phase := 3, g2Step := 14, peerVerdict := some (2 ^ 58) }), by decide +kernel⟩,
   ⟨l0, atLink (fun k => { k with phase := 4, own := 128 }), by decide +kernel⟩⟩

set_option maxRecDepth 20000 in
/-- The conditions of each clause of TablesAndVerify can hold (g4aTableCompute, startupTableFrame, carryingSetDecide, carryingSetDecide, startupStatusFrame, startupAbortFrame, verifyResult). -/
theorem tables_and_verify_can_hold :
    (∃ (l : LinkId) (s : State), (s.link l).phase = 5 ∧ 5120 ≤ (s.link l).own ∧ (s.link l).ownStreams = [] ∧ (s.link l).excluded = 0) ∧
    (∃ (l : LinkId) (f : SuFrame) (s : State), (s.link l).phase = 5 ∧ frameGood f = true ∧ f.kind = 1 ∧ f.pair.val ∈ linkPairs l ∧ f.set < 5 ∧ tableValid s l f.pair.val .tx (linkShare (s.link l) l (bits f.arg 19 17) (if f.set = 0 then (linkPairs l).length else 3)) (frameTable f) = true ∧ (∀ x ∈ (s.link l).peerTables, ¬ (x.1 = f.pair.val ∧ x.2.1 = f.set))) ∧
    (∃ (l : LinkId) (s : State), (s.link l).phase = 6 ∧ 5376 ≤ (s.link l).own ∧ (s.link l).decided = false ∧ (s.link l).peerTables = []) ∧
    (∃ (l : LinkId) (own : Nat × Nat) (s : State), (s.link l).phase = 6 ∧ 5376 ≤ (s.link l).own ∧ (s.link l).decided = false ∧ l.sub = none ∧ (s.link l).excluded = 0 ∧ peerCarry (s.link l) = some 15 ∧ (s.link l).ownStreams.find? (fun x => x.1 == 0) = some own ∧ allPairs.all (fun p => (s.link l).peerTables.any (fun x => x.1 == p && x.2.1 == 0)) = true) ∧
    (∃ (l : LinkId) (f : SuFrame) (s : State), (s.link l).phase = 6 ∧ frameGood f = true ∧ f.kind = 2 ∧ bit (s.link l).carryRx f.pair.val = true) ∧
    (∃ (l : LinkId) (f : SuFrame) (s : State), ((s.link l).phase = 5 ∨ (s.link l).phase = 6) ∧ frameGood f = true ∧ f.kind = 3) ∧
    (∃ (n : Port) (sub : Option Pair) (s : State), inSequence (s.link ⟨n, sub⟩) = true ∧ resultStage (s.link ⟨n, sub⟩) ≤ seqStage (s.link ⟨n, sub⟩) ∧ (s.link ⟨n, sub⟩).verify = 0) :=
  ⟨⟨l0, atLink (fun k => { k with phase := 5, own := 5120 }), by decide +kernel⟩,
   ⟨l0, f1, atLink (fun k => { k with phase := 5 }), by decide +kernel, by decide +kernel, by decide +kernel, by decide +kernel, by decide +kernel, by decide +kernel, by decide +kernel⟩,
   ⟨l0, atLink (fun k => { k with phase := 6, own := 5376 }), by decide +kernel⟩,
   ⟨l0, (0, 0), atLink (fun k => { k with phase := 6, own := 5376, ownStreams := [(0, 0)], peerTables := [(0, 0, 0, 15), (1, 0, 0, 15), (2, 0, 0, 15), (3, 0, 0, 15)] }), by decide +kernel⟩,
   ⟨l0, sealFrame { f0 with kind := 2 }, atLink (fun k => { k with phase := 6, carryRx := 15 }), by decide +kernel⟩,
   ⟨l0, sealFrame { f0 with kind := 3 }, atLink (fun k => { k with phase := 5 }), by decide +kernel⟩,
   ⟨0, none, atLink (fun k => { k with phase := 6, own := 6016 }), by decide +kernel⟩⟩

set_option maxRecDepth 20000 in
/-- The conditions of each clause of TablesAndVerify can hold (showStageName). -/
theorem tables_and_verify_can_hold_2 :
    (∃ (l : LinkId) (s : State), isHigher (s.link l) = true ∧ 4 ≤ (s.link l).phase ∧ (s.link l).phase ≤ 6 ∧ (s.link l).verify = 1 ∧ (s.link l).farVerify = 1 ∧ (s.link l).showStage = none) :=
  ⟨l0, atLink (fun k => { k with phase := 6, ownId := 2, peerId := 1, verify := 1, farVerify := 1 }), by decide +kernel⟩

set_option maxRecDepth 20000 in
/-- The conditions of each clause of ShowtimeAndFailures can hold (showTimeout, showtimeEntry, fastRetrainStart, fastRetrainFail, startupFail, holdOffExpire, startupEnableSet). -/
theorem showtime_and_failures_can_hold :
    (∃ (l : LinkId) (s : State), isHigher (s.link l) = false ∧ (s.link l).phase = 6 ∧ (s.link l).eei.partialFr = false ∧ (s.link l).farShow = none ∧ 6047 < (s.link l).own) ∧
    (∃ (l : LinkId) (v : Nat) (s : State), (s.link l).phase = 6 ∧ (s.link l).decided = true ∧ (s.link l).verify = 1 ∧ (s.link l).showStage = some v ∧ reached (s.link l).own v = true ∧ reached (s.link l).far v = true ∧ (s.link l).farShow = some v) ∧
    (∃ (l : LinkId) (cause : Nat) (st : Nat) (s : State), (s.link l).phase = 7 ∧ (s.link l).changes = [⟨st, .retrain cause false, false, false⟩] ∧ reached (s.link l).own st = true ∧ fastAllowed s l = true) ∧
    (∃ (l : LinkId) (s : State), (s.link l).phase = 8) ∧
    (∃ (l : LinkId) (cause : Nat) (s : State), 1 ≤ cause ∧ cause ≤ 0xC ∧ 1 ≤ (s.link l).phase ∧ (s.link l).phase ≤ 6) ∧
    (∃ (l : LinkId) (s : State), (s.link l).phase = 10 ∧ portEnabled s l.n = true ∧ tileClocked s l.n = true ∧ breakoutSet s l.n = false ∧ l.sub = none) ∧
    (∃ (n : Port) (s : State), portAllowed s n = true ∧ (s.link (portLink n)).phase = 0) :=
  ⟨⟨l0, atLink (fun k => { k with phase := 6, own := 6048 }), by decide +kernel⟩,
   ⟨l0, 6032, atLink (fun k => { k with phase := 6, decided := true, verify := 1, showStage := some 6032, farShow := some 6032, own := 6032, far := 6032 }), by decide +kernel⟩,
   ⟨l0, 2, 0, (atLink (fun k => { k with phase := 7, ownId := 1, peerId := 2, changes := [⟨0, .retrain 2 false, false, false⟩] }) |> fun s => forEach allPairs (fun p s => s.modPair 0 p (fun q => { q with storedIds := some (1, 2) })) s), by decide +kernel⟩,
   ⟨l0, atLink (fun k => { k with phase := 8 }), by decide +kernel⟩,
   ⟨l0, 5, atLink (fun k => { k with phase := 4 }), by decide +kernel⟩,
   ⟨l0, lit (atLink (fun k => { k with phase := 10 })), by decide +kernel⟩,
   ⟨0, lit State.reset, by decide +kernel⟩⟩

set_option maxRecDepth 20000 in
/-- The conditions of each clause of ShowtimeAndFailures can hold (startupEnableClear). -/
theorem showtime_and_failures_can_hold_2 :
    (∃ (n : Port) (s : State), isBreakout s n = false ∧ (isUp s (portLink n) = true ∨ inStartup s (portLink n) = true)) :=
  ⟨0, atLink (fun k => { k with phase := 7 }), by decide +kernel⟩

set_option maxRecDepth 20000 in
/-- The conditions of each clause of EeiAgreement can hold (eeiProposeSend, eeiPropose, eeiAccept, eeiRefuse, eeiAbort, eeiWakeMsg, eeiBudgetApply). -/
theorem eei_agreement_can_hold :
    (∃ (l : LinkId) (s : State), (s.link l).phase = 7 ∧ inEffect s l.n mEEI = true ∧ hostIdle s l = true ∧ eeiHoldOff s l.n ≤ (s.link l).eei.hold ∧ eeiBusy (s.link l) = false ∧ 0 < min (linkAllowed s l) (s.link l).eei.cap ∧ refuser s l 0 false = none) ∧
    (∃ (l : LinkId) (p : Pair) (m : Msg) (s : State), (s.link l).phase = 7 ∧ proposedEntry (s.link l) = none ∧ eeiRefusal (consume l p m s) l (m.arg % 4) (msgStage m) = none) ∧
    (∃ (l : LinkId) (m : Msg) (q : Proposal) (s : State), proposalAt (s.link l) 0x40 (msgStage m) = some q ∧ (s.link l).eei.abortCode = none ∧ agreedAt (s.link l) q.stage = false) ∧
    (∃ (l : LinkId) (m : Msg) (q : Proposal) (s : State), proposalAt (s.link l) 0x40 (msgStage m) = some q) ∧
    (∃ (l : LinkId) (m : Msg) (s : State), (s.link l).phase = 7 ∧ (s.link l).eei.agreed = true ∧ (s.link l).eei.entry = msgStage m) ∧
    (∃ (l : LinkId) (m : Msg) (s : State), (s.link l).phase = 7 ∧ (s.link l).eei.agreed = true ∧ (s.link l).eei.entry = msgStage m) ∧
    (∃ (l : LinkId) (s : State), (s.link l).eei.agreed = false ∧ (s.link l).eei.inDepth = false) :=
  ⟨⟨l0, (atLink (fun k => { k with phase := 7, eei := { k.eei with idle := 70000, hold := 255, budget := 1000000 } })).modPort 0 (fun k => { k with localOn := 64 }), by decide +kernel⟩,
   ⟨l0, 0, ⟨0x40, 0, 0, 5, 0, 0, 0, 1⟩, (atLink (fun k => { k with phase := 7, eei := { k.eei with idle := 70000, budget := 1000000 } })).modPort 0 (fun k => { k with localOn := 64 }), by decide +kernel⟩,
   ⟨l0, ⟨0x41, 0, 0, 5, 0, 0, 0, 1⟩, ⟨0x40, 5, 1⟩, atLink (fun k => { k with phase := 7, proposals := [⟨0x40, 5, 1⟩] }), by decide +kernel⟩,
   ⟨l0, ⟨0x42, 0, 0, 5, 0, 0, 0, 2⟩, ⟨0x40, 5, 1⟩, atLink (fun k => { k with phase := 7, proposals := [⟨0x40, 5, 1⟩] }), by decide +kernel⟩,
   ⟨l0, ⟨0x43, 0, 0, 5, 0, 0, 0, 2⟩, atLink (fun k => { k with phase := 7, eei := { k.eei with agreed := true, entry := 5 } }), by decide +kernel⟩,
   ⟨l0, ⟨0x44, 0, 0, 5, 0, 0, 0, 2⟩, atLink (fun k => { k with phase := 7, eei := { k.eei with agreed := true, entry := 5 } }), by decide +kernel⟩,
   ⟨l0, State.reset, by decide +kernel⟩⟩

set_option maxRecDepth 20000 in
/-- The conditions of each clause of EeiDepthAndWake can hold (eeiEntry, eeiRefresh, eeiWakeCause, eeiPrestepDone, wakeDetect, wakeConfirmTimeout, eeiResume). -/
theorem eei_depth_and_wake_can_hold :
    (∃ (l : LinkId) (s : State), (s.link l).phase = 7 ∧ (s.link l).eei.agreed = true ∧ reached (s.link l).own (s.link l).eei.entry = true ∧ (s.link l).eei.enterWake = false) ∧
    (∃ (l : LinkId) (s : State), (s.link l).phase = 7 ∧ refreshStage (s.link l) = true) ∧
    (∃ (l : LinkId) (s : State), (s.link l).phase = 7 ∧ (s.link l).eei.inDepth = true ∧ (s.link l).eei.waking = none) ∧
    (∃ (l : LinkId) (s : State), (s.link l).eei.inDepth = true ∧ (s.link l).eei.waking.isSome = true ∧ (s.link l).eei.preDone = false ∧ (s.link l).eei.alertSent = false) ∧
    (∃ (l : LinkId) (s : State), (s.link l).eei.inDepth = true ∧ (s.link l).eei.waking = none) ∧
    (∃ (l : LinkId) (s : State), (s.link l).eei.inDepth = true ∧ (s.link l).eei.detected = true ∧ (s.link l).eei.waking = none ∧ (s.link l).eei.preDone = true) ∧
    (∃ (l : LinkId) (s : State), (s.link l).phase = 7 ∧ mayResume (s.link l) = true) :=
  ⟨⟨l0, atLink (fun k => { k with phase := 7, eei := { k.eei with agreed := true, entry := 0 } }), by decide +kernel⟩,
   ⟨l0, atLink (fun k => { k with phase := 7, carryRx := 15, eei := { k.eei with inDepth := true, depth := 1 } }), by decide +kernel⟩,
   ⟨l0, atLink (fun k => { k with phase := 7, eei := { k.eei with inDepth := true, depth := 1 } }), by decide +kernel⟩,
   ⟨l0, atLink (fun k => { k with phase := 7, eei := { k.eei with inDepth := true, depth := 2, waking := some 5 } }), by decide +kernel⟩,
   ⟨l0, atLink (fun k => { k with phase := 7, eei := { k.eei with inDepth := true, depth := 2 } }), by decide +kernel⟩,
   ⟨l0, atLink (fun k => { k with phase := 7, eei := { k.eei with inDepth := true, depth := 2, detected := true, preDone := true } }), by decide +kernel⟩,
   ⟨l0, atLink (fun k => { k with phase := 7, eei := { k.eei with inDepth := true, depth := 1, waking := some 5, alertSent := true } }), by decide +kernel⟩⟩

set_option maxRecDepth 20000 in
/-- The conditions of each clause of EeiDepthAndWake can hold (partialFastRetrainStart, partialFastRetrainFail, calDeferralWake). -/
theorem eei_depth_and_wake_can_hold_2 :
    (∃ (l : LinkId) (s : State), (s.link l).eei.inDepth = true ∧ (s.link l).eei.depth = 3 ∧ (s.link l).eei.alertSent = true ∧ (s.link l).eei.alertHeard = true ∧ (s.link l).eei.partialFr = false) ∧
    (∃ (l : LinkId) (s : State), (s.link l).phase = 7 ∧ (s.link l).eei.partialFr = true ∧ fastAllowed s l = true) ∧
    (∃ (l : LinkId) (s : State), (s.link l).phase = 7 ∧ (s.link l).eei.inDepth = true ∧ (s.link l).eei.waking = none) :=
  ⟨⟨l0, atLink (fun k => { k with phase := 7, eei := { k.eei with inDepth := true, depth := 3, alertSent := true, alertHeard := true } }), by decide +kernel⟩,
   ⟨l0, (atLink (fun k => { k with phase := 7, ownId := 1, peerId := 2, eei := { k.eei with partialFr := true } }) |> fun s => forEach allPairs (fun p s => s.modPair 0 p (fun q => { q with storedIds := some (1, 2) })) s), by decide +kernel⟩,
   ⟨l0, atLink (fun k => { k with phase := 7, eei := { k.eei with inDepth := true, depth := 1 } }), by decide +kernel⟩⟩

set_option maxRecDepth 20000 in
/-- The conditions of each clause of ReceiverLimitsAndDrift can hold (subadcTakeSlot, subadcFail, gainLimitRetrain, timingErrorRetrain, echoTapSaturation, echoDriftCheck, echoStoreRefresh). -/
theorem receiver_limits_and_drift_can_hold :
    (∃ (n : Port) (p : Pair) (s : State), s.flag (PAIR_ADC_STATUS.COMMITTED n p) = false) ∧
    (∃ (n : Port) (p : Pair) (s : State), (s.pair n p).badSub = none) ∧
    (∃ (l : LinkId) (p : Nat) (s : State), MayAsk (s.link l) ∧ (s.link l).asked = false ∧ p ∈ maskPairs (s.link l).carryRx ∧ 16 ≤ (s.pair l.n p).gainRun) ∧
    (∃ (l : LinkId) (p : Nat) (s : State), MayAsk (s.link l) ∧ (s.link l).asked = false ∧ p ∈ maskPairs (s.link l).carryRx ∧ 2 ≤ (s.pair l.n p).timingRun) ∧
    (∃ (l : LinkId) (p : Nat) (i : Nat) (r : Nat) (s : State), MayAsk (s.link l) ∧ (s.link l).asked = false ∧ p ∈ maskPairs (s.link l).carryRx ∧ (i, r) ∈ (s.pair l.n p).satTaps ∧ 16 ≤ r) ∧
    (∃ (n : Port) (sub : Option Pair) (p : Pair) (s : State), (s.link ⟨n, sub⟩).phase = 7 ∧ driftOf (driftSums s n p 8 (s.link ⟨n, sub⟩).splitband) ≤ signed 16 (s.fld (PORT_ECHO_DRIFT_CFG.RETRAIN n))) ∧
    (∃ (n : Port) (p : Pair) (s : State), (s.pair n p).storeDue = true) :=
  ⟨⟨0, 0, State.reset, by decide +kernel⟩,
   ⟨0, 0, State.reset, by decide +kernel⟩,
   ⟨l0, 0, (atLink (fun k => { k with phase := 7, carryRx := 15 })).modPair 0 0 (fun k => { k with gainRun := 16 }), by decide +kernel⟩,
   ⟨l0, 0, (atLink (fun k => { k with phase := 7, carryRx := 15 })).modPair 0 0 (fun k => { k with timingRun := 2 }), by decide +kernel⟩,
   ⟨l0, 0, 5, 16, (atLink (fun k => { k with phase := 7, carryRx := 15 })).modPair 0 0 (fun k => { k with satTaps := [(5, 16)] }), by decide +kernel⟩,
   ⟨0, none, 0, atLink (fun k => { k with phase := 7, splitband := true }), by decide +kernel⟩,
   ⟨0, 0, (State.reset).modPair 0 0 (fun k => { k with storeDue := true }), by decide +kernel⟩⟩

set_option maxRecDepth 20000 in
/-- The conditions of each clause of ReceiverLimitsAndDrift can hold (fextHReestimate). -/
theorem receiver_limits_and_drift_can_hold_2 :
    (∃ (l : LinkId) (s : State), (s.link l).phase = 7) :=
  ⟨l0, atLink (fun k => { k with phase := 7 }), by decide +kernel⟩

set_option maxRecDepth 20000 in
/-- The conditions of each clause of DeadPairsAndCoefficients can hold (deadPairDeclare, coefSnapshotRequest, coefSnapshotDone, coefDataWrite, coefDataWrite). -/
theorem dead_pairs_and_coefficients_can_hold :
    (∃ (l : LinkId) (p : Pair) (s : State), canFallBack s l p = true ∧ pendingFault (s.link l) = 0 ∧ bit ((s.link l).carry ||| (s.link l).carryRx) p.val = true ∧ s.flag (PAIR_QUALITY.DEAD l.n p) = false ∧ deadStages s l.n ≤ (s.pair l.n p).deadRun) ∧
    (∃ (v : Word), bit v.toNat 31 = true) ∧
    (∃ (n : Port) (p : Pair) (s : State), s.flag (PAIR_COEF_STATUS.SNAP_BUSY n p) = true) ∧
    (∃ (n : Port) (p : Pair) (s : State), mayWriteCoef s n = true ∧ 2 ≤ s.fld (PAIR_COEF_ADDR.MEM n p) ∧ s.fld (PAIR_COEF_ADDR.MEM n p) ≤ 8 ∧ s.fld (PAIR_COEF_ADDR.INDEX n p) < memEntries (s.fld (PAIR_COEF_ADDR.MEM n p))) ∧
    (∃ (n : Port) (s : State), mayWriteCoef s n = false) :=
  ⟨⟨l0, 0, (atLink (fun k => { k with phase := 7, carry := 15, carryRx := 15, negotiated := 32, ownStreams := [(1, 3)], peerTables := [(1, 1, 3, 15), (2, 1, 3, 15), (3, 1, 3, 15)] })).modPair 0 0 (fun k => { k with deadRun := 13 }), by decide +kernel⟩,
   ⟨0x80000000, by decide +kernel⟩,
   ⟨0, 0, State.reset.setFld (PAIR_COEF_STATUS.SNAP_BUSY 0 0) 1, by decide +kernel⟩,
   ⟨0, 0, (State.reset.setFld (PAIR_COEF_ADDR.MEM 0 0) 2).setFld PWR_PHASE.PHASE 2, by decide +kernel⟩,
   ⟨0, State.reset, by decide +kernel⟩⟩

set_option maxRecDepth 20000 in
/-- The conditions of each clause of WaymarkChannelSendsAndReceives can hold (waymarkSymbolTx, waymarkSymbolRx, waymarkSyncLoss, wmMessageAbandon, stageCheck, wmUnknownCode). -/
theorem waymark_channel_sends_and_receives_can_hold :
    (∃ (l : LinkId) (s : State), (s.link l).wmSent = false) ∧
    (∃ (l : LinkId) (s : State), (s.link l).phase = 7) ∧
    (∃ (l : LinkId) (s : State), (s.link l).phase = 7 ∧ (∀ p ∈ maskPairs (s.link l).carryRx, 2 ≤ (s.pair l.n p).missRun)) ∧
    (∃ (l : LinkId) (p : Pair) (o : OutMsg) (rest : List OutMsg) (s : State), (s.pair l.n p).outs = o :: rest ∧ max 8 (s.fld (PORT_LINK_CFG.WM_RETRY l.n)) ≤ o.first) ∧
    (∃ (l : LinkId) (s : State), isHigher (s.link l) = false) ∧
    (∃ (m : Msg), knownCode m.code = false) :=
  ⟨⟨l0, atLink (fun k => { k with phase := 7, carry := 15 }), by decide +kernel⟩,
   ⟨l0, atLink (fun k => { k with phase := 7 }), by decide +kernel⟩,
   ⟨l0, (atLink (fun k => { k with phase := 7, carryRx := 1 })).modPair 0 0 (fun k => { k with missRun := 2 }), by decide +kernel, by decide +kernel⟩,
   ⟨l0, 0, ⟨⟨0x20, none, 0, true⟩, 0, 0, 0, 300⟩, [], (atLink (fun k => { k with phase := 7 })).modPair 0 0 (fun k => { k with outs := [⟨⟨0x20, none, 0, true⟩, 0, 0, 0, 300⟩] }), by decide +kernel⟩,
   ⟨l0, atLink (fun k => { k with phase := 7 }), by decide +kernel⟩,
   ⟨⟨0x02, 0, 0, 7, 0, 0, 0, 0⟩, by decide +kernel⟩⟩

set_option maxRecDepth 20000 in
/-- The conditions of each clause of CoachesAndTables can hold (coachTx, coachRx, coachRx). -/
theorem coaches_and_tables_can_hold :
    (∃ (l : LinkId) (s : State), (s.link l).phase = 7 ∧ (s.link l).eei.inDepth = false ∧ lineBusy (pumpLine l s) l = false ∧ carryList (pumpLine l s) l ≠ [] ∧ beyondEntry (pumpLine l s) l = false) ∧
    (∃ (n : Port) (sub : Option Pair) (a : List RxWindow) (b : List RxWindow) (c : List RxWindow) (d : List RxWindow) (s : State), (s.link ⟨n, sub⟩).phase = 7 ∧ 10320 ≤ (bitsIn ⟨n, sub⟩ (bySymbol [a, b, c, d]) s).length ∧ coachFailed ⟨n, sub⟩ (bySymbol [a, b, c, d]) s = false ∧ (coachIn ⟨n, sub⟩ (bySymbol [a, b, c, d]) s).crc = coachCrc (coachIn ⟨n, sub⟩ (bySymbol [a, b, c, d]) s).hdr (coachIn ⟨n, sub⟩ (bySymbol [a, b, c, d]) s).blocks ∧ (coachIn ⟨n, sub⟩ (bySymbol [a, b, c, d]) s).hdr / 64 % 4 ≠ 3) ∧
    (∃ (n : Port) (sub : Option Pair) (a : List RxWindow) (b : List RxWindow) (c : List RxWindow) (d : List RxWindow) (s : State), (s.link ⟨n, sub⟩).phase = 7 ∧ 10320 ≤ (bitsIn ⟨n, sub⟩ (bySymbol [a, b, c, d]) s).length ∧ (coachFailed ⟨n, sub⟩ (bySymbol [a, b, c, d]) s = true ∨ (coachIn ⟨n, sub⟩ (bySymbol [a, b, c, d]) s).crc ≠ coachCrc (coachIn ⟨n, sub⟩ (bySymbol [a, b, c, d]) s).hdr (coachIn ⟨n, sub⟩ (bySymbol [a, b, c, d]) s).blocks ∨ (coachIn ⟨n, sub⟩ (bySymbol [a, b, c, d]) s).hdr / 64 % 4 = 3)) :=
  ⟨⟨l0, atLink (fun k => { k with phase := 7, carry := 15 }), by decide +kernel⟩,
   ⟨0, none, [], [], [], [], coachHeard (coachCrc 64 (List.replicate 40 0)), by decide +kernel⟩,
   ⟨0, none, [], [], [], [], coachHeard 0, by decide +kernel⟩⟩

set_option maxRecDepth 20000 in
/-- The conditions of each clause of CoachesAndTables can hold (coachRx, tableShadowCopyDone, swapEntry). -/
theorem coaches_and_tables_can_hold_2 :
    (∃ (n : Port) (sub : Option Pair) (a : List RxWindow) (b : List RxWindow) (c : List RxWindow) (d : List RxWindow) (s : State), (s.link ⟨n, sub⟩).phase = 7 ∧ (bitsIn ⟨n, sub⟩ (bySymbol [a, b, c, d]) s).length < 10320) ∧
    (∃ (n : Port) (p : Pair) (s : State), (s.pair n p).copyRx = true) ∧
    (∃ (l : LinkId) (p : Pair) (s : State), s.flag (PAIR_TBL_STATUS.COPY_BUSY l.n p) = true) :=
  ⟨⟨0, none, [], [], [], [], atLink (fun k => { k with phase := 7 }), by decide +kernel⟩,
   ⟨0, 0, (State.reset).modPair 0 0 (fun k => { k with copyRx := true }), by decide +kernel⟩,
   ⟨l0, 0, State.reset.setFld (PAIR_TBL_STATUS.COPY_BUSY 0 0) 1, by decide +kernel⟩⟩

set_option maxRecDepth 20000 in
/-- The conditions of each clause of CoachesAndTables can hold (swapEntry, swapCommit, swapAccept). -/
theorem coaches_and_tables_can_hold_3 :
    (∃ (l : LinkId) (p : Pair) (m : Msg) (s : State), s.flag (PAIR_TBL_STATUS.COPY_BUSY l.n p) = false ∧ isExcluded (bits m.arg 31 23) = false) ∧
    (∃ (l : LinkId) (p : Pair) (m : Msg) (s : State), (s.link l).phase = 7 ∧ swapDeclineReason (consume l p m s) l p m = none) ∧
    (∃ (l : LinkId) (p : Pair) (m : Msg) (s : State), commitAt (s.link l) p (msgStage m) = true ∧ reached (s.link l).farPrev (msgStage m) = false ∧ agreedAt (s.link l) (msgStage m) = false) :=
  ⟨⟨l0, 0, ⟨0x10, 0, 0, 0, 0, 0, 0, 10 * 2 ^ 23⟩, State.reset, by decide +kernel⟩,
   ⟨l0, 0, ⟨0x11, 0, 0, 5, 0, 0, 0, bankCrc (List.replicate 512 emptyEntry) * 65536⟩, atLink (fun k => { k with phase := 7 }), by decide +kernel⟩,
   ⟨l0, 0, ⟨0x12, 0, 0, 5, 0, 0, 0, 0⟩, atLink (fun k => { k with phase := 7, proposals := [⟨0x11, 5, 0⟩] }), by decide +kernel⟩⟩

set_option maxRecDepth 20000 in
/-- The conditions of each clause of CoachesAndTables can hold (swapDecline, tableSwapApply, swapEvaluation). -/
theorem coaches_and_tables_can_hold_4 :
    (∃ (l : LinkId) (p : Pair) (m : Msg) (s : State), commitAt (s.link l) p (msgStage m) = true) ∧
    (∃ (l : LinkId) (p : Pair) (d : Dir) (c : Change) (s : State), swapDue (s.link l) p d = some c) ∧
    (∃ (l : LinkId) (p : Nat) (tb : List Nat) (s : State), (s.link l).phase = 7 ∧ (s.link l).eei.inDepth = false ∧ maskPairs (s.link l).carryRx = [p] ∧ s.flag (PAIR_QUALITY.STALE l.n p) = false ∧ mayStartSwap s l p = true ∧ max 1 (s.fld (PORT_SWAP_CFG.WEAK_MIN l.n)) ≤ weakCount (plainRx (s.link l)) (isReach (s.link l)) (s.active l.n p .rx) (snrList s l.n p) (targetMargin s l.n) (min (s.fld (PORT_SWAP_CFG.SWAP_DOWN l.n)) 60) ∧ swapTable (plainRx (s.link l)) (isReach (s.link l)) (s.active l.n p .rx) (snrList s l.n p) (targetMargin s l.n) (min (s.fld (PORT_SWAP_CFG.SWAP_DOWN l.n)) 60) (dirShare s l .rx) = some tb) :=
  ⟨⟨l0, 0, ⟨0x13, 0, 0, 5, 0, 0, 0, 0⟩, atLink (fun k => { k with phase := 7, proposals := [⟨0x11, 5, 0⟩] }), by decide +kernel⟩,
   ⟨l0, 0, .tx, ⟨0, .swap 0 .tx, false, true⟩, atLink (fun k => { k with phase := 7, changes := [⟨0, .swap 0 .tx, false, true⟩] }), by decide +kernel⟩,
   ⟨l0, 0, swappedTable, swapWitness, swap_witness_meets⟩⟩

set_option maxRecDepth 20000 in
/-- The conditions of each clause of CoachesAndTables can hold (swapEvaluation, swapCommitSend). -/
theorem coaches_and_tables_can_hold_5 :
    (∃ (n : Port) (p : Pair) (s : State), (s.link ⟨n, some p⟩).phase = 7 ∧ (s.link ⟨n, some p⟩).eei.inDepth = false) ∧
    (∃ (l : LinkId) (p : Pair) (s : State), (s.link l).phase = 7 ∧ entriesDone s l p = true ∧ (s.link l).rateWait = none) :=
  ⟨⟨0, 0, (State.reset.modLink ⟨0, some 0⟩ (fun k => { k with phase := 7 })), by decide +kernel⟩,
   ⟨l0, 0, (atLink (fun k => { k with phase := 7 })).modPair 0 0 (fun k => { k with swap := .entries, nextEntry := 496 }), by decide +kernel⟩⟩

set_option maxRecDepth 20000 in
/-- The conditions of each clause of ModeWritesAndLocalModes can hold (portModeWrite, portModeWrite, timetableModeApply, bundleModeApply, testModeDrainPoint, patternInjSingle, patternInjBurst). -/
theorem mode_writes_and_local_modes_can_hold :
    (∃ (n : Port) (v : Word) (s : State), v.toNat / 2 ^ 16 % 4096 = 8 ∧ portShow s n = false ∧ bit (s.port n).localWait 3 = false) ∧
    (∃ (n : Port) (v : Word) (s : State), v.toNat / 2 ^ 16 % 4096 = 1 ∧ bit (s.port n).localOn 0 = !bit v.toNat 0 ∧ bit (s.port n).localWait 0 = false) ∧
    (∃ (n : Port) (s : State), (s.host n).isOpen = false ∧ bit (s.port n).localWait 0 = true ∧ bit (modeSet s n) 0 = bit (s.port n).localVal 0) ∧
    (∃ (n : Port) (s : State), bit (s.port n).localWait 3 = true ∧ bit (modeSet s n) 3 = bit (s.port n).localVal 3) ∧
    (∃ (n : Port) (b : Nat) (s : State), isTestMode b = true ∧ allAwake s n = true ∧ drained s n = true ∧ bit (s.port n).localWait b = true ∧ bit (modeSet s n) b = bit (s.port n).localVal b) ∧
    (∃ (n : Port) (p : Nat) (s : State), inEffect s n mPATTERN = true ∧ p ∈ maskPairs (sentPattern s n)) ∧
    (∃ (n : Port) (p : Nat) (s : State), inEffect s n mPATTERN = true ∧ p ∈ maskPairs (sentPattern s n)) :=
  ⟨⟨0, 0x00080008, State.reset, by decide +kernel⟩,
   ⟨0, 0x00010001, State.reset, by decide +kernel⟩,
   ⟨0, (State.reset).modPort 0 (fun k => { k with localWait := 1 }), by decide +kernel⟩,
   ⟨0, (State.reset).modPort 0 (fun k => { k with localWait := 8 }), by decide +kernel⟩,
   ⟨0, 9, (State.reset).modPort 0 (fun k => { k with localWait := 512 }), by decide +kernel⟩,
   ⟨0, 0, ((atLink (fun k => { k with phase := 7 })).modPort 0 (fun k => { k with localOn := 2048, patMask := 15 })), by decide +kernel⟩,
   ⟨0, 0, ((atLink (fun k => { k with phase := 7 })).modPort 0 (fun k => { k with localOn := 2048, patMask := 15 })), by decide +kernel⟩⟩

set_option maxRecDepth 20000 in
/-- The conditions of each clause of ModeAgreement can hold (modePropose, modePropose, modeAccept, modeDecline, modeChangeApply). -/
theorem mode_agreement_can_hold :
    (∃ (l : LinkId) (p : Pair) (m : Msg) (r : Nat) (s : State), (s.link l).phase = 7 ∧ (s.link l).proposals.find? (fun q => q.code == 0x30) = none ∧ modeDeclineReason (consume l p m s) l (m.arg % 16) (bit m.arg 4) (msgStage m) = some r) ∧
    (∃ (l : LinkId) (p : Pair) (m : Msg) (s : State), (s.link l).phase = 7 ∧ (s.link l).proposals.find? (fun q => q.code == 0x30) = none ∧ modeDeclineReason (consume l p m s) l (m.arg % 16) (bit m.arg 4) (msgStage m) = none) ∧
    (∃ (l : LinkId) (m : Msg) (q : Proposal) (s : State), proposalAt (s.link l) 0x30 (msgStage m) = some q ∧ agreedAt (s.link l) q.stage = false) ∧
    (∃ (l : LinkId) (m : Msg) (q : Proposal) (s : State), proposalAt (s.link l) 0x30 (msgStage m) = some q ∧ bit (s.port l.n).rewritten (q.arg % 16) = false ∧ q.arg % 16 < 7) ∧
    (∃ (l : LinkId) (c : Change) (b : Nat) (on : Bool) (s : State), (s.link l).phase = 7 ∧ modeChangeDue (s.link l) = some (c, b, on) ∧ (b = 7 ∨ b = 8) ∧ c.txDone = false ∧ reached (s.link l).own c.stage = true ∧ bit (s.port l.n).rewritten b = false) :=
  ⟨⟨l0, 0, ⟨0, 0, 0, 0, 0, 0, 0, 15⟩, 2, atLink (fun k => { k with phase := 7 }), by decide +kernel⟩,
   ⟨l0, 0, ⟨0, 0, 0, 100, 0, 0, 0, 1⟩, atLink (fun k => { k with phase := 7 }), by decide +kernel⟩,
   ⟨l0, ⟨0, 0, 0, 9, 0, 0, 0, 0⟩, ⟨0x30, 9, 17⟩, atLink (fun k => { k with proposals := [⟨0x30, 9, 17⟩] }), by decide +kernel⟩,
   ⟨l0, ⟨0, 0, 0, 9, 0, 0, 0, 3⟩, ⟨0x30, 9, 17⟩, atLink (fun k => { k with proposals := [⟨0x30, 9, 17⟩] }), by decide +kernel⟩,
   ⟨l0, ⟨3, .mode 8 true, false, false⟩, 8, true, atLink (fun k => { k with phase := 7, own := 3, changes := [⟨3, .mode 8 true, false, false⟩] }), by decide +kernel⟩⟩

set_option maxRecDepth 20000 in
/-- The conditions of each clause of RateChanges can hold (rateTrigger, rateTrigger, rateTrigger, rateProposeSend, ratePropose, ratePropose, rateAccept). -/
theorem rate_changes_can_hold :
    (∃ (l : LinkId) (x : Nat) (ts : List (Nat × List Nat)) (s : State), (s.link l).phase = 7 ∧ (s.link l).eei.inDepth = false ∧ rateBusy (s.link l) = false ∧ (s.link l).rateHold = 0 ∧ rateDue s l = true ∧ (linkPairs l).any (fun p => swapBusy s l p) = false ∧ faultBusy (s.link l) = false ∧ bestTier s l = some (x, ts) ∧ (x = (s.link l).streamRx ∨ l.sub.isSome = true)) ∧
    (∃ (l : LinkId) (x : Nat) (ts : List (Nat × List Nat)) (s : State), (s.link l).phase = 7 ∧ (s.link l).eei.inDepth = false ∧ rateBusy (s.link l) = false ∧ (s.link l).rateHold = 0 ∧ rateDue s l = true ∧ (linkPairs l).any (fun p => swapBusy s l p) = false ∧ faultBusy (s.link l) = false ∧ bestTier s l = some (x, ts) ∧ x ≠ (s.link l).streamRx ∧ l.sub = none ∧ retrainAgreed (s.link l) = none) ∧
    (∃ (l : LinkId) (s : State), (s.link l).eei.inDepth = false ∧ rateBusy (s.link l) = false ∧ (s.link l).rateHold = 0 ∧ rateDue s l = true ∧ (linkPairs l).any (fun p => swapBusy s l p) = false ∧ faultBusy (s.link l) = false ∧ bestTier s l = none ∧ MayAsk (s.link l)) ∧
    (∃ (l : LinkId) (w : Nat) (s : State), (s.link l).phase = 7 ∧ allEntriesDone s l = true ∧ (s.link l).rateWait = some w ∧ w ≤ 3 ∧ swapAgreed (s.link l) = false) ∧
    (∃ (l : LinkId) (p : Pair) (m : Msg) (r : Nat) (s : State), (s.link l).phase = 7 ∧ rateDeclineReason (consume l p m s) l (m.arg % 4) (msgStage m) = some r) ∧
    (∃ (l : LinkId) (p : Pair) (m : Msg) (s : State), (s.link l).phase = 7 ∧ rateDeclineReason (consume l p m s) l (m.arg % 4) (msgStage m) = none) ∧
    (∃ (l : LinkId) (m : Msg) (q : Proposal) (s : State), proposalAt (s.link l) 0x20 (msgStage m) = some q ∧ agreedAt (s.link l) q.stage = false) :=
  ⟨⟨l0, 0, [], (atLink (fun k => { k with phase := 7, upRun := 64, streamRx := 0 })).setFld (PORT_RATE_CFG.AUTO_UP 0) 1, by decide +kernel⟩,
   ⟨l0, 0, [], atLink (fun k => { k with phase := 7, rateAsk := true, streamRx := 3 }), by decide +kernel⟩,
   ⟨l0, (atLink (fun k => { k with phase := 7, rateAsk := true, streamRx := 3, carryRx := 15 })), by decide +kernel⟩,
   ⟨l0, 2, atLink (fun k => { k with phase := 7, rateWait := some 2 }), by decide +kernel⟩,
   ⟨l0, 0, ⟨0, 0, 0, 0, 0, 0, 0, 0⟩, 5, atLink (fun k => { k with phase := 7, maxTier := 1 }), by decide +kernel⟩,
   ⟨l0, 0, ⟨0, 0, 0, 100, 0, 0, 0, 3⟩, atLink (fun k => { k with phase := 7, carry := 0, streamTx := 3 }), by decide +kernel⟩,
   ⟨l0, ⟨0, 0, 0, 9, 0, 0, 0, 0⟩, ⟨0x20, 9, 2⟩, atLink (fun k => { k with proposals := [⟨0x20, 9, 2⟩] }), by decide +kernel⟩⟩

set_option maxRecDepth 20000 in
/-- The conditions of each clause of RateChanges can hold (rateDecline, rateChangeApply). -/
theorem rate_changes_can_hold_2 :
    (∃ (l : LinkId) (m : Msg) (q : Proposal) (s : State), proposalAt (s.link l) 0x20 (msgStage m) = some q) ∧
    (∃ (l : LinkId) (d : Dir) (c : Change) (x : Nat) (s : State), rateDueAt (s.link l) d = some (c, x)) :=
  ⟨⟨l0, ⟨0, 0, 0, 9, 0, 0, 0, 0⟩, ⟨0x20, 9, 2⟩, atLink (fun k => { k with proposals := [⟨0x20, 9, 2⟩] }), by decide +kernel⟩,
   ⟨l0, .tx, ⟨5, .rate 2 .tx, false, true⟩, 2, atLink (fun k => { k with own := 5, changes := [⟨5, .rate 2 .tx, false, true⟩] }), by decide +kernel⟩⟩

set_option maxRecDepth 20000 in
/-- The conditions of each clause of ShowtimeStagesAndFallback can hold (stageBoundary, stageBoundary, coachLossRetrain, coachLossRetrain, faultNotice, retrainRequest, tripairFallbackApply). -/
theorem showtime_stages_and_fallback_can_hold :
    (∃ (l : LinkId) (s : State), (s.link l).phase = 7 ∧ (s.link l).eei.partialFr = false ∧ isHigher (s.link l) = true) ∧
    (∃ (l : LinkId) (s : State), (s.link l).phase = 7 ∧ (s.link l).eei.partialFr = false ∧ (s.link l).eei.inDepth = false ∧ isHigher (s.link l) = false) ∧
    (∃ (l : LinkId) (s : State), MayAsk (s.link l) ∧ lossLimit s l ≤ (s.link l).lossRun ∧ (s.link l).lossAfterFallback = false) ∧
    (∃ (l : LinkId) (s : State), MayAsk (s.link l) ∧ lossLimit s l ≤ (s.link l).lossRun ∧ (s.link l).lossAfterFallback = true) ∧
    (∃ (l : LinkId) (m : Msg) (s : State), (s.link l).phase = 7 ∧ pendingFault (s.link l) = 0 ∧ 2 ≤ (maskPairs (m.arg % 16)).length) ∧
    (∃ (l : LinkId) (s : State), isUp s l = true ∧ retrainAgreed (s.link l) = none) ∧
    (∃ (l : LinkId) (d : Dir) (c : Change) (m : Nat) (code : Nat) (p : Nat) (s : State), faultDue (s.link l) d = some (c, m, code) ∧ maskPairs m = [p]) :=
  ⟨⟨l0, atLink (fun k => { k with phase := 7, ownId := 1 }), by decide +kernel⟩,
   ⟨l0, atLink (fun k => { k with phase := 7 }), by decide +kernel⟩,
   ⟨l0, atLink (fun k => { k with phase := 7, lossRun := 16, lossAfterFallback := false }), by decide +kernel⟩,
   ⟨l0, atLink (fun k => { k with phase := 7, lossRun := 16, lossAfterFallback := true }), by decide +kernel⟩,
   ⟨l0, ⟨0, 0, 0, 0, 0, 0, 0, 3⟩, atLink (fun k => { k with phase := 7 }), by decide +kernel⟩,
   ⟨l0, atLink (fun k => { k with phase := 7 }), by decide +kernel⟩,
   ⟨l0, .tx, ⟨5, .fault 4 1, false, false⟩, 4, 1, 2, atLink (fun k => { k with own := 5, carry := 15, changes := [⟨5, .fault 4 1, false, false⟩] }), by decide +kernel⟩⟩

set_option maxRecDepth 20000 in
/-- The conditions of each clause of ShowtimeStagesAndFallback can hold (tripairRestoreRequest, linkDown, frontendFault). -/
theorem showtime_stages_and_fallback_can_hold_2 :
    (∃ (l : LinkId) (p : Pair) (s : State), MayAsk (s.link l) ∧ s.flag (PORT_TRIPAIR_CFG.RESTORE l.n) = true ∧ isFallen (s.link l) p = true ∧ max 256 (s.fld (PORT_TRIPAIR_CFG.RESTORE_STAGES l.n)) ≤ (s.pair l.n p).restoreRun) ∧
    (∃ (l : LinkId) (cause : Nat) (s : State), isUp s l = true ∧ cause ≠ 7 ∧ cause ≠ 8 ∧ cause ≠ 9 ∧ cause ≠ 0xA) ∧
    (∃ (n : Port) (p : Pair) (s : State), canFallBack s (linkOfPair s n p) p = true ∧ pendingFault (s.link (linkOfPair s n p)) = 0 ∧ bit ((s.link (linkOfPair s n p)).carry ||| (s.link (linkOfPair s n p)).carryRx) p.val = true) :=
  ⟨⟨l0, 0, (((atLink (fun k => { k with phase := 7, deadMask := 1 })).modPair 0 0 (fun k => { k with restoreRun := 256 })).setFld (PORT_TRIPAIR_CFG.RESTORE 0) 1).setFld (PORT_TRIPAIR_CFG.RESTORE_STAGES 0) 1, by decide +kernel⟩,
   ⟨l0, 2, atLink (fun k => { k with phase := 7 }), by decide +kernel⟩,
   ⟨0, 0, atLink (fun k => { k with phase := 7, carry := 15, carryRx := 15, negotiated := 32, ownStreams := [(1, 3)], peerTables := [(1, 1, 3, 15), (2, 1, 3, 15), (3, 1, 3, 15)] }), by decide +kernel⟩⟩

set_option maxRecDepth 20000 in
/-- The conditions of each clause of SlicesAndCrossbar can hold (sliceFault, crossbarChange, tileLinkCheckFail, tileLinkCheckFail, tileLinkLockLoss). -/
theorem slices_and_crossbar_can_hold :
    (∃ (t : Tile) (sl : SliceIx) (code : Nat) (s : State), sliceState s t sl ≠ 3 ∧ 1 ≤ code ∧ code ≤ 4 ∧ frontEnd s t sl = none ∧ (s.tile t).changes.find? (fun c => c.fault && c.slice == sl.val) = none) ∧
    (∃ (t : Tile) (j : Nat) (c : XChange) (s : State), nextChange (s.tile t) = some c ∧ c.fault = false ∧ 1 ≤ j ∧ j ≤ 62 ∧ swapOf s t c.old = none) ∧
    (∃ (t : Tile) (s : State), (s.tile t).linkDown = false) ∧
    (∃ (t : Tile) (s : State), (s.tile t).linkDown = false ∧ s.hub.wakes = []) ∧
    (∃ (t : Tile) (s : State), (s.tile t).linkDown = false ∧ s.hub.wakes = []) :=
  ⟨⟨0, 64, 1, State.reset, by decide +kernel⟩,
   ⟨0, 5, ⟨0, 64, false, 0⟩, State.reset.modTile 0 (fun k => { k with changes := [⟨0, 64, false, 0⟩] }), by decide +kernel⟩,
   ⟨0, State.reset, by decide +kernel⟩,
   ⟨0, State.reset, by decide +kernel⟩,
   ⟨0, State.reset, by decide +kernel⟩⟩

set_option maxRecDepth 20000 in
/-- The conditions of each clause of TestsBanksAndSwaps can hold (bistUnitDue, bistTestDone, bankDrained, bankDrained, bankDrainTimeout, maintSwapCopyDone, maintSwapShadowDone). -/
theorem tests_banks_and_swaps_can_hold :
    (∃ (s : State), s.flag BIST_CFG.ENABLE = true ∧ s.fld PWR_PHASE.PHASE = 2 ∧ s.tests.any (fun x => x.periodic) = true) ∧
    (∃ (unit : Nat) (x : Test) (s : State), s.tests.find? (fun x => x.unit == unit && x.stage == .test) = some x ∧ unitKind unit = 3 ∧ s.hub.bistDue = 0) ∧
    (∃ (b : Fin 66) (x : Test) (s : State), bankState s b = 2 ∧ bedsUsed s b = 0 ∧ s.tests.find? (fun x => x.unit == bankUnit b) = some x ∧ x.stage = .wait) ∧
    (∃ (b : Fin 66) (s : State), bankState s b = 2 ∧ bedsUsed s b = 0 ∧ s.tests.find? (fun x => x.unit == bankUnit b) = none) ∧
    (∃ (b : Fin 66) (x : Test) (s : State), s.tests.find? (fun x => x.unit == bankUnit b && x.stage == .wait) = some x ∧ x.periodic = false ∧ s.hub.bistDue = 0) ∧
    (∃ (t : Tile) (old : SliceIx) (w : MSwap) (f : Nat) (s : State), swapOf s t old = some w ∧ w.stage = .copy ∧ frontEnd s t old = some f ∧ inShow s (feLink s t f) = true) ∧
    (∃ (t : Tile) (old : SliceIx) (w : MSwap) (f : Nat) (s : State), swapOf s t old = some w ∧ w.stage = .shadow ∧ frontEnd s t w.old = some f) :=
  ⟨⟨({ State.reset with tests := [⟨0, 0, 0, true, .test, 0, 0⟩] }.setFld BIST_CFG.ENABLE 1).setFld PWR_PHASE.PHASE 2, by decide +kernel⟩,
   ⟨porterUnit, ⟨porterUnit, 0, 0, true, .test, 0, 0⟩, { State.reset with tests := [⟨porterUnit, 0, 0, true, .test, 0, 0⟩] }, by decide +kernel⟩,
   ⟨3, ⟨bankUnit 3, 0, 0, true, .wait, 0, 0⟩, setBankState 3 2 { State.reset with tests := [⟨bankUnit 3, 0, 0, true, .wait, 0, 0⟩] }, by decide +kernel⟩,
   ⟨65, setBankState 65 2 State.reset, by decide +kernel⟩,
   ⟨3, ⟨bankUnit 3, 0, 0, false, .wait, 0, 0⟩, { State.reset with tests := [⟨bankUnit 3, 0, 0, false, .wait, 0, 0⟩] }, by decide +kernel⟩,
   ⟨0, 0, ⟨0, 64, .copy, false, 0⟩, 0, (atLink (fun k => { k with phase := 7 })).modTile 0 (fun k => { k with swaps := [⟨0, 64, .copy, false, 0⟩] }), by decide +kernel⟩,
   ⟨0, 0, ⟨0, 64, .shadow, false, 0⟩, 0, State.reset.modTile 0 (fun k => { k with swaps := [⟨0, 64, .shadow, false, 0⟩] }), by decide +kernel⟩⟩

set_option maxRecDepth 20000 in
/-- The conditions of each clause of HostBlocksAndFrames can hold (ingressBlock, ingressBlock, egressBlock, egressBlock, egressBlock, egressBlock, fcXoffRepeat). -/
theorem host_blocks_and_frames_can_hold :
    (∃ (n : Port) (h : Lane) (rx : List Int) (b : HostBlock) (bs : List HostBlock) (v : State) (s : State), hearLevels h rx s = v ∧ ingressOn v n = true ∧ (v.host n).stage = [] ∧ (v.lane (v.portLane n)).rxBlocks = b :: bs ∧ inEffect v n mTRANSPARENT = false ∧ blockKind b = .start ∧ (v.host n).isOpen = false ∧ (v.host n).dropping = false) ∧
    (∃ (n : Port) (h : Lane) (rx : List Int) (s : State), ingressOn (hearLevels h rx s) n = false) ∧
    (∃ (n : Port) (v : State) (s : State), forEach (sideLanes s n) sideLane s = v ∧ patternOn v (v.portLane n) = false ∧ egressHeld v n = false ∧ egressDown v n = false ∧ portShow v n = false) ∧
    (∃ (n : Port) (v : State) (s : State), forEach (sideLanes s n) sideLane s = v ∧ patternOn v (v.portLane n) = true) ∧
    (∃ (n : Port) (v : State) (s : State), forEach (sideLanes s n) sideLane s = v ∧ patternOn v (v.portLane n) = false ∧ egressHeld v n = true ∧ egressDown v n = false) ∧
    (∃ (n : Port) (b : HostBlock) (bs : List HostBlock) (v : State) (s : State), forEach (sideLanes s n) sideLane s = v ∧ patternOn v (v.portLane n) = false ∧ egressHeld v n = false ∧ egressDown v n = false ∧ portShow v n = true ∧ inEffect v n mTRANSPARENT = false ∧ (v.host n).egress = b :: bs) ∧
    (∃ (n : Port) (s : State), fcOn s n = true ∧ (s.host n).xoffOn = true ∧ (activeLinks s n).any (xoffCond s) = true) :=
  ⟨⟨0, 0, [], ⟨true, 0x78⟩, [], hostUp.modLane 0 (fun k => { k with rxBlocks := [⟨true, 0x78⟩] }), hostUp.modLane 0 (fun k => { k with rxBlocks := [⟨true, 0x78⟩] }), by decide +kernel⟩,
   ⟨0, 0, [], State.reset, by decide +kernel⟩,
   ⟨0, (forEach (sideLanes hostUp 0) sideLane hostUp), hostUp, by decide +kernel⟩,
   ⟨0, (forEach (sideLanes (((State.reset.setFld (HL_STATUS.STATE 0) 2).setFld (HL_PRBS_CTRL.TX_EN 0) 1).setFld (CLK_HPLL_STATUS.LOCKED 0) 1) 0) sideLane (((State.reset.setFld (HL_STATUS.STATE 0) 2).setFld (HL_PRBS_CTRL.TX_EN 0) 1).setFld (CLK_HPLL_STATUS.LOCKED 0) 1)), (((State.reset.setFld (HL_STATUS.STATE 0) 2).setFld (HL_PRBS_CTRL.TX_EN 0) 1).setFld (CLK_HPLL_STATUS.LOCKED 0) 1), by decide +kernel⟩,
   ⟨0, (forEach (sideLanes (hostUp.modHost 0 (fun k => { k with resume := true })) 0) sideLane (hostUp.modHost 0 (fun k => { k with resume := true }))), (hostUp.modHost 0 (fun k => { k with resume := true })), by decide +kernel⟩,
   ⟨0, idleBlock, [], (forEach (sideLanes ((hostUp.modLink l0 (fun k => { k with phase := 7 })).modHost 0 (fun k => { k with egress := [idleBlock] })) 0) sideLane ((hostUp.modLink l0 (fun k => { k with phase := 7 })).modHost 0 (fun k => { k with egress := [idleBlock] }))), ((hostUp.modLink l0 (fun k => { k with phase := 7 })).modHost 0 (fun k => { k with egress := [idleBlock] })), by decide +kernel⟩,
   ⟨0, (State.reset.setFld (TT_PORT_CFG.FC_SEL 0) 1).modHost 0 (fun k => { k with xoffOn := true }), by decide +kernel⟩⟩

set_option maxRecDepth 20000 in
/-- The conditions of each clause of HostBlocksAndFrames can hold (fcFrameInsert, hostelScrubPass, hostelFence). -/
theorem host_blocks_and_frames_can_hold_2 :
    (∃ (n : Port) (q : Nat) (s : State), (s.host n).fcWait = some q ∧ (s.host n).fcAt = none ∧ fcOn s n = true ∧ egressDown s n = false ∧ egressHeld s n = false ∧ (s.host n).fcBetween = false ∧ egressBoundary s n = true) ∧
    (∃ (corrected : List Corrected) (x : Corrected) (s : State), (corrected.filter (fun x => !x.scrub || s.flag HOSTEL_CFG.SCRUB_EN)).getLast? = some x) ∧
    (∃ (bank : Nat) (s : State), bank < 66 ∧ bankState s bank ≠ 3) :=
  ⟨⟨0, 100, (hostUp.setFld (TT_PORT_CFG.FC_SEL 0) 1).modHost 0 (fun k => { k with fcWait := some 100 }), by decide +kernel⟩,
   ⟨[⟨3, 40, false⟩], ⟨3, 40, false⟩, State.reset, by decide +kernel⟩,
   ⟨5, State.reset, by decide +kernel⟩⟩

set_option maxRecDepth 20000 in
/-- The conditions of each clause of HostLanesFaultsAndSpares can hold (laneFault, hostDone, hostWaitExpire, substitute, revert, laneEnableWrite, laneEnableWrite). -/
theorem host_lanes_faults_and_spares_can_hold :
    (∃ (h : Lane) (s : State), laneState s h = 2 ∧ laneClaim s 6 h = false ∧ s.hub.boardTest = none ∧ h.val < 128 ∧ s.flag (HL_FAULT_CFG.AUTO h) = false) ∧
    (∃ (g : Group) (s : State), spareState s g = 2) ∧
    (∃ (g : Group) (s : State), spareState s g = 2) ∧
    (∃ (g : Group) (i : Nat) (s : State), spareState s g ≠ 2 ∧ spareState s g ≠ 4 ∧ laneState s (16 * g.val + i % 16) ≠ 4 ∧ laneClaim s 6 (16 * g.val + i % 16) = false ∧ (s.lane (16 * g.val + i % 16)).revert = false ∧ s.portLane (16 * g.val + i % 16) = (16 * g.val + i % 16) ∧ isProtected s (groupOf (16 * g.val + i % 16)) (16 * g.val + i % 16) = true) ∧
    (∃ (g : Group) (s : State), spareState s g = 3 ∧ laneState s (spareFor s g) ≠ 3) ∧
    (∃ (h : Lane) (s : State), h.val < 128 ∧ s.fld PWR_PHASE.PHASE ≠ 3 ∧ s.flag (HL_CFG.ENABLE h) = false ∧ (s.lane h).barred = false ∧ laneState s h = 0) ∧
    (∃ (h : Lane) (s : State), h.val < 128 ∧ (s.lane h).barred = true ∧ s.flag (HL_EYE_STATUS.BUSY h) = false ∧ s.flag PWR_DOMAIN_CFG.OCTET_AUTO_OFF = false) :=
  ⟨⟨0, (State.reset.setFld (HL_STATUS.STATE 0) 2).setFld (HL_FAULT_CFG.AUTO 0) 0, by decide +kernel⟩,
   ⟨0, State.reset.setFld (HL_SPARE_STATUS.STATE 128) 2, by decide +kernel⟩,
   ⟨0, State.reset.setFld (HL_SPARE_STATUS.STATE 128) 2, by decide +kernel⟩,
   ⟨0, 3, ((State.reset.setFld (HL_SPARE_STATUS.STATE 128) 1).setFld (HL_SPARE_CFG.MODE 128) 1).setFld (HL_STATUS.AM_LOCK 128) 1, by decide +kernel⟩,
   ⟨0, State.reset.setFld (HL_SPARE_STATUS.STATE 128) 3, by decide +kernel⟩,
   ⟨0, State.reset, by decide +kernel⟩,
   ⟨0, (State.reset.modLane 0 (fun k => { k with barred := true })).setFld PWR_DOMAIN_CFG.OCTET_AUTO_OFF 0, by decide +kernel⟩⟩

set_option maxRecDepth 20000 in
/-- The conditions of each clause of HostLanesFaultsAndSpares can hold (laneRateWrite, laneAcquired, spareModeWrite). -/
theorem host_lanes_faults_and_spares_can_hold_2 :
    (∃ (h : Lane), h.val < 128) ∧
    (∃ (h : Lane) (s : State), laneState s h = 1 ∧ s.hub.boardTest = none ∧ h.val < 128 ∧ (s.lane h).revert = false) ∧
    (∃ (g : Group) (v : Word) (s : State), (s.lane (spareLane g)).barred = false ∧ isWarm s g = false ∧ bits v.toNat 31 30 ≠ 1) :=
  ⟨⟨0, by decide +kernel⟩,
   ⟨0, State.reset.setFld (HL_STATUS.STATE 0) 1, by decide +kernel⟩,
   ⟨0, 0x000F0123, State.reset, by decide +kernel⟩⟩

set_option maxRecDepth 20000 in
/-- The conditions of each clause of HostLanesEyesAndPatterns can hold (eyeScanStart, eyeScanDone, prbsEnableWrite, prbsInjSingle, prbsInjBurst, prbsCheckerLock, prbsLockLoss). -/
theorem host_lanes_eyes_and_patterns_can_hold :
    (∃ (h : Lane) (v : Word) (s : State), s.flag (HL_EYE_STATUS.BUSY h) = false ∧ bit v.toNat 31 = true ∧ laneClaim s 4 h = true ∧ laneState s h ≠ 0) ∧
    (∃ (h : Lane) (s : State), s.flag (HL_EYE_STATUS.BUSY h) = true ∧ (s.lane h).eyeJob = 0) ∧
    (∃ (h : Lane) (v : Word) (s : State), bit v.toNat 31 = true ∧ laneClaim s 6 h = true) ∧
    (∃ (h : Lane) (s : State), s.flag (HL_PRBS_CTRL.TX_EN h) = true) ∧
    (∃ (h : Lane) (s : State), s.flag (HL_PRBS_CTRL.TX_EN h) = true) ∧
    (∃ (h : Lane) (s : State), s.flag (HL_PRBS_CTRL.RX_EN h) = true) ∧
    (∃ (h : Lane) (s : State), s.flag (HL_PRBS_STATUS.LOCKED h) = true) :=
  ⟨⟨0, 0x80000000, { State.reset.setFld (HL_STATUS.STATE 0) 2 with claims := [⟨0, 4, 0, none, 0, true⟩] }, by decide +kernel⟩,
   ⟨0, State.reset.setFld (HL_EYE_STATUS.BUSY 0) 1, by decide +kernel⟩,
   ⟨0, 0x80000000, { State.reset with claims := [⟨0, 6, 0, none, 0, true⟩] }, by decide +kernel⟩,
   ⟨0, State.reset.setFld (HL_PRBS_CTRL.TX_EN 0) 1, by decide +kernel⟩,
   ⟨0, State.reset.setFld (HL_PRBS_CTRL.TX_EN 0) 1, by decide +kernel⟩,
   ⟨0, State.reset.setFld (HL_PRBS_CTRL.RX_EN 0) 1, by decide +kernel⟩,
   ⟨0, State.reset.setFld (HL_PRBS_STATUS.LOCKED 0) 1, by decide +kernel⟩⟩

set_option maxRecDepth 20000 in
/-- The conditions of each clause of HubClocks can hold (clockSwitchStep, clockSwitchForced, clockSwitchForced, hubPllUnlock, hubPllRelock, ringPllUnlock, ringPllRelock). -/
theorem hub_clocks_can_hold :
    (∃ (dom : Nat) (rest : List Nat) (s : State), s.hub.switches = dom :: rest) ∧
    (∃ (t : Tile) (s : State), (s.tile t).switchAt = some s.now) ∧
    (∃ (dom : Nat) (rest : List Nat) (s : State), dom ≠ 4 ∧ s.hub.switches = dom :: rest) ∧
    (∃ (s : State), s.flag CLK_STATUS.REF_QUAL = true ∧ s.flag CLK_STATUS.HUBPLL_LOCK = true) ∧
    (∃ (a : Nat) (s : State), s.flag CLK_STATUS.REF_QUAL = true ∧ s.flag CLK_STATUS.HUBPLL_LOCK = false ∧ s.hub.hubLostAt = some a) ∧
    (∃ (s : State), s.flag CLK_STATUS.REF_QUAL = true ∧ s.flag CLK_STATUS.RINGPLL_LOCK = true) ∧
    (∃ (s : State), s.flag CLK_STATUS.REF_QUAL = true) :=
  ⟨⟨2, [1], State.reset.modHub (fun h => { h with switches := [2, 1] }), by decide +kernel⟩,
   ⟨0, State.reset.modTile 0 (fun k => { k with switchAt := some 0 }), by decide +kernel⟩,
   ⟨2, [1], State.reset.modHub (fun h => { h with switches := [2, 1] }), by decide +kernel⟩,
   ⟨lit2, by decide +kernel⟩,
   ⟨0, (State.reset.setFld CLK_STATUS.REF_QUAL 1).modHub (fun h => { h with hubLostAt := some 0 }), by decide +kernel⟩,
   ⟨lit2, by decide +kernel⟩,
   ⟨lit2, by decide +kernel⟩⟩

set_option maxRecDepth 20000 in
/-- The conditions of each clause of HubClocks can hold (refclkLost, refclkQualified). -/
theorem hub_clocks_can_hold_2 :
    (∃ (s : State), s.flag CLK_STATUS.REF_QUAL = true) ∧
    (∃ (a : Nat) (s : State), s.flag CLK_STATUS.REF_QUAL = false ∧ s.hub.refLostAt = some a) :=
  ⟨⟨lit2, by decide +kernel⟩,
   ⟨0, State.reset.modHub (fun h => { h with refLostAt := some 0 }), by decide +kernel⟩⟩

set_option maxRecDepth 20000 in
/-- The conditions of each clause of TileAndHostPlls can hold (lpllActiveUnlock, lpllSwap, lpllBothUnlock, lpllStandbyUnlock, lpllRelock, hpllUnlock, hpllRelock). -/
theorem tile_and_host_plls_can_hold :
    (∃ (t : Tile) (s : State), (∀ l, (s.link l).phase = 0) ∧ s.flag (lpllLock t (activeLpll s t)) = true ∧ s.flag (lpllLock t (1 - activeLpll s t)) = true) ∧
    (∃ (t : Tile) (s : State), (∀ l, (s.link l).phase = 0) ∧ s.flag (lpllLock t (1 - activeLpll s t)) = true) ∧
    (∃ (t : Tile) (s : State), (∀ l, (s.link l).phase = 0) ∧ s.flag (TILE_CLK_STATUS.M_LOCK t) = true ∧ s.flag (TILE_CLK_STATUS.S_LOCK t) = true) ∧
    (∃ (t : Tile) (s : State), s.flag (lpllLock t (1 - activeLpll s t)) = true ∧ s.flag (lpllLock t (1 - (1 - activeLpll s t))) = true) ∧
    (∃ (t : Tile) (sub : Bool) (s : State), s.flag CLK_STATUS.REF_QUAL = true ∧ s.flag (lpllLock t sub.toNat) = false ∧ (s.dom (0x020 + t)).state = 3 ∧ s.flag (lpllLock t (1 - sub.toNat)) = true) ∧
    (∃ (o : Octet) (s : State), s.flag (CLK_HPLL_STATUS.LOCKED o) = true) ∧
    (∃ (o : Octet) (s : State), s.flag CLK_STATUS.REF_QUAL = true ∧ s.flag (CLK_HPLL_STATUS.LOCKED o) = false ∧ (s.dom (0x040 + o)).state = 3) :=
  ⟨⟨0, (State.reset.setFld (TILE_CLK_STATUS.M_LOCK 0) 1).setFld (TILE_CLK_STATUS.S_LOCK 0) 1, fun _ => rfl, by decide +kernel, by decide +kernel⟩,
   ⟨0, (State.reset.setFld (TILE_CLK_STATUS.M_LOCK 0) 1).setFld (TILE_CLK_STATUS.S_LOCK 0) 1, fun _ => rfl, by decide +kernel⟩,
   ⟨0, (State.reset.setFld (TILE_CLK_STATUS.M_LOCK 0) 1).setFld (TILE_CLK_STATUS.S_LOCK 0) 1, fun _ => rfl, by decide +kernel, by decide +kernel⟩,
   ⟨0, (State.reset.setFld (TILE_CLK_STATUS.M_LOCK 0) 1).setFld (TILE_CLK_STATUS.S_LOCK 0) 1, by decide +kernel⟩,
   ⟨0, true, ((State.reset.setFld (TILE_CLK_STATUS.M_LOCK 0) 1).setFld CLK_STATUS.REF_QUAL 1).modDom 0x020 (fun d => { d with state := 3 }), by decide +kernel⟩,
   ⟨0, State.reset.setFld (CLK_HPLL_STATUS.LOCKED 0) 1, by decide +kernel⟩,
   ⟨0, (State.reset.setFld CLK_STATUS.REF_QUAL 1).modDom 0x040 (fun d => { d with state := 3 }), by decide +kernel⟩⟩

set_option maxRecDepth 20000 in
/-- The conditions of each clause of DeviceCommandsAnswer can hold (devNop, devIdentify, devStatus, devIntRead, devIntClear, devTemps, devJobs). -/
theorem device_commands_answer_can_hold :
    (∃ (c : Call) (s : State), Admits 0x0000 inSTR c s ∧ paramLen (pktOf s 0x0000 c) = 0) ∧
    (∃ (c : Call) (s : State), Admits 0x0001 inSTR c s ∧ paramLen (pktOf s 0x0001 c) = 0) ∧
    (∃ (c : Call) (s : State), Admits 0x0002 inSTR c s ∧ paramLen (pktOf s 0x0002 c) = 0) ∧
    (∃ (c : Call) (s : State), Admits 0x0006 inSTR c s ∧ paramLen (pktOf s 0x0006 c) = 0) ∧
    (∃ (c : Call) (s : State), Admits 0x0007 inSTR c s ∧ paramLen (pktOf s 0x0007 c) = 4) ∧
    (∃ (c : Call) (s : State), Admits 0x0008 inSTR c s ∧ paramLen (pktOf s 0x0008 c) = 0 ∧ needs (((List.range 8).filter (fun t => !tileDark s t)).map (fun t => TILE_TEMP t 0)) s = (0, s)) ∧
    (∃ (c : Call) (s : State), Admits 0x0010 inSTR c s ∧ paramLen (pktOf s 0x0010 c) = 1 ∧ 1 ≤ u8 (pktOf s 0x0010 c) 0 ∧ u8 (pktOf s 0x0010 c) 0 ≤ 63) :=
  ⟨⟨call ([]), up, by decide +kernel⟩,
   ⟨call ([]), up, by decide +kernel⟩,
   ⟨call ([]), up, by decide +kernel⟩,
   ⟨call ([]), up, by decide +kernel⟩,
   ⟨call ([1, 0, 0, 0]), up, by decide +kernel⟩,
   ⟨call ([]), up, by decide +kernel⟩,
   ⟨call ([63]), up, by decide +kernel⟩⟩

set_option maxRecDepth 20000 in
/-- The conditions of each clause of DeviceCommandsAnswer can hold (devJobAbort, devJobAbort). -/
theorem device_commands_answer_can_hold_2 :
    (∃ (c : Call) (s : State), Admits 0x0011 inSTR c s ∧ paramLen (pktOf s 0x0011 c) = 2 ∧ u16 (pktOf s 0x0011 c) 0 ≠ 0 ∧ s.jobs.find? (fun j => j.num == u16 (pktOf s 0x0011 c) 0 && jobLive s j.num) = none) ∧
    (∃ (c : Call) (j : Job) (s : State), Admits 0x0011 inSTR c s ∧ paramLen (pktOf s 0x0011 c) = 2 ∧ u16 (pktOf s 0x0011 c) 0 ≠ 0 ∧ s.jobs.find? (fun j => j.num == u16 (pktOf s 0x0011 c) 0 && jobLive s j.num) = some j ∧ j.op ≠ 0x0004) :=
  ⟨⟨call ([5, 0]), up, by decide +kernel⟩,
   ⟨call ([5, 0]), ⟨5, 0x0604, 0x80, 0, 0, false, 0, 0, 0, 0, [], []⟩, { up with jobs := [⟨5, 0x0604, 0x80, 0, 0, false, 0, 0, 0, 0, [], []⟩] }, by decide +kernel⟩⟩

set_option maxRecDepth 20000 in
/-- The conditions of each clause of ResetCommandsAct can hold (deviceReset, tileReset, tileReset, portReset, tileResetDone, tileResetDone). -/
theorem reset_commands_act_can_hold :
    (∃ (c : Call) (s : State), Admits 0x0003 inSTR c s ∧ paramLen (pktOf s 0x0003 c) = 1 ∧ (u8 (pktOf s 0x0003 c) 0 ≤ 2 ∨ u8 (pktOf s 0x0003 c) 0 = 0xFF)) ∧
    (∃ (c : Call) (s : State), Admits 0x0004 inST c s ∧ paramLen (pktOf s 0x0004 c) = 1 ∧ u8 (pktOf s 0x0004 c) 0 < 8 ∧ recordsFull s = false ∧ (s.tile (u8 (pktOf s 0x0004 c) 0)).inReset = true) ∧
    (∃ (c : Call) (s : State), Admits 0x0004 inST c s ∧ paramLen (pktOf s 0x0004 c) = 1 ∧ u8 (pktOf s 0x0004 c) 0 < 8 ∧ recordsFull s = false ∧ (s.tile (u8 (pktOf s 0x0004 c) 0)).inReset = false ∧ s.hub.wakes = []) ∧
    (∃ (c : Call) (s : State), Admits 0x0005 inST c s ∧ paramLen (pktOf s 0x0005 c) = 1 ∧ u8 (pktOf s 0x0005 c) 0 < 128 ∧ (s.tile (tileOf (toPort (u8 (pktOf s 0x0005 c) 0)))).inReset = false ∧ needs [PORT_STARTUP_CFG (toPort (u8 (pktOf s 0x0005 c) 0))] s = (0, s)) ∧
    (∃ (t : Tile) (s : State), (s.tile t).inReset = true) ∧
    (∃ (t : Tile) (s : State), (s.tile t).inReset = true) :=
  ⟨⟨call ([0xFF]), up, by decide +kernel⟩,
   ⟨call ([0]), (up.modTile 0 (fun k => { k with inReset := true })), by decide +kernel⟩,
   ⟨call ([0]), up, by decide +kernel⟩,
   ⟨call ([1]), up, by decide +kernel⟩,
   ⟨0, (up.modTile 0 (fun k => { k with inReset := true })), by decide +kernel⟩,
   ⟨0, (up.modTile 0 (fun k => { k with inReset := true })), by decide +kernel⟩⟩

set_option maxRecDepth 20000 in
/-- The conditions of each clause of RegisterCommandsAnswer can hold (regRead, regReadList, regWrite, regWriteBlock, regRmw, commitConfig). -/
theorem register_commands_answer_can_hold :
    (∃ (c : Call) (s : State), Admits 0x0800 inSTR c s ∧ paramLen (pktOf s 0x0800 c) = 8 ∧ u32 (pktOf s 0x0800 c) 0 % 4 = 0 ∧ 1 ≤ u16 (pktOf s 0x0800 c) 4 ∧ u16 (pktOf s 0x0800 c) 4 ≤ 256 ∧ u8 (pktOf s 0x0800 c) 6 ≤ 1) ∧
    (∃ (c : Call) (s : State), Admits 0x0802 inSTR c s ∧ paramLen (pktOf s 0x0802 c) % 4 = 0 ∧ 4 ≤ paramLen (pktOf s 0x0802 c) ∧ paramLen (pktOf s 0x0802 c) ≤ 1024) ∧
    (∃ (c : Call) (s : State), Admits 0x0801 inSTR c s ∧ paramLen (pktOf s 0x0801 c) % 8 = 0 ∧ 8 ≤ paramLen (pktOf s 0x0801 c) ∧ paramLen (pktOf s 0x0801 c) ≤ 1024) ∧
    (∃ (c : Call) (s : State), Admits 0x0804 inSTR c s ∧ paramLen (pktOf s 0x0804 c) % 4 = 0 ∧ 12 ≤ paramLen (pktOf s 0x0804 c) ∧ paramLen (pktOf s 0x0804 c) ≤ 1024 ∧ u8 (pktOf s 0x0804 c) 4 ≤ 1) ∧
    (∃ (c : Call) (s : State), Admits 0x0803 inSTR c s ∧ paramLen (pktOf s 0x0803 c) = 12 ∧ (u32 (pktOf s 0x0803 c) 0) % 4 = 0 ∧ needs [(u32 (pktOf s 0x0803 c) 0)] s = (0, s) ∧ (busWrite .ring (u32 (pktOf s 0x0803 c) 0) (rmwWords (isMasked (u32 (pktOf s 0x0803 c) 0)) (readWord (u32 (pktOf s 0x0803 c) 0) s).1 (u32 (pktOf s 0x0803 c) 4) (u32 (pktOf s 0x0803 c) 8)).1 noUpdate (readWord (u32 (pktOf s 0x0803 c) 0) s).2).1 = 0) ∧
    (∃ (c : Call) (s : State), Admits 0x0805 inSTR c s ∧ paramLen (pktOf s 0x0805 c) = 0 ∧ s.hub.commit = none ∧ s.hub.commits = []) :=
  ⟨⟨call ([0, 0, 0, 0, 1, 0, 0, 0]), up, by decide +kernel⟩,
   ⟨call ([0, 0, 0, 0]), up, by decide +kernel⟩,
   ⟨call ([0, 0, 0, 0, 0, 0, 0, 0]), up, by decide +kernel⟩,
   ⟨call ([0, 0, 0, 0, 0, 0, 0, 0, 0, 0, 0, 0]), up, by decide +kernel⟩,
   ⟨call ([0x14, 0, 0, 0, 0, 0, 0, 0, 0, 0, 0, 0]), up, by decide +kernel⟩,
   ⟨call ([]), up, by decide +kernel⟩⟩

set_option maxRecDepth 20000 in
/-- The conditions of each clause of LockCommandsAndLocks can hold (lockSet, unlockWrite, lockStatus). -/
theorem lock_commands_and_locks_can_hold :
    (∃ (c : Call) (s : State), Admits 0x0A00 [1] c s ∧ paramLen (pktOf s 0x0A00 c) = 0 ∧ s.fld HUB_LOCK.LOCK = 0) ∧
    (∃ (c : Call) (s : State), Admits 0x0A01 [2] c s ∧ paramLen (pktOf s 0x0A01 c) = 12 ∧ isLockable (u32 (pktOf s 0x0A01 c) 4) = true ∧ u16 (pktOf s 0x0A01 c) 0 = 0x5EA7) ∧
    (∃ (c : Call) (s : State), Admits 0x0A02 inST c s ∧ paramLen (pktOf s 0x0A02 c) = 0) :=
  ⟨⟨call ([]), (up.setFld PWR_PHASE.PHASE 1), by decide +kernel⟩,
   ⟨call ([0xA7, 0x5E, 0, 0] ++ bytesLsb 4 CFG_CHECK_CFG ++ [0, 0, 0, 0]), up, by decide +kernel⟩,
   ⟨call ([]), up, by decide +kernel⟩⟩

set_option maxRecDepth 20000 in
/-- The conditions of each clause of PortCommandsAnswer can hold (portEnable, portModeSet, portRetrain, portRetrain, portRate, portStatus, portSummary). -/
theorem port_commands_answer_can_hold :
    (∃ (c : Call) (s : State), Admits 0x0100 inST c s ∧ paramLen (pktOf s 0x0100 c) = 17 ∧ u8 (pktOf s 0x0100 c) 16 ≤ 1) ∧
    (∃ (c : Call) (s : State), Admits 0x0101 inST c s ∧ paramLen (pktOf s 0x0101 c) = 6 ∧ u8 (pktOf s 0x0101 c) 0 < 128 ∧ needs [PORT_MODE (toPort (u8 (pktOf s 0x0101 c) 0))] s = (0, s)) ∧
    (∃ (c : Call) (s : State), Admits 0x0102 inST c s ∧ paramLen (pktOf s 0x0102 c) = 3 ∧ u8 (pktOf s 0x0102 c) 0 < 128 ∧ u8 (pktOf s 0x0102 c) 1 = 0 ∧ isBreakout s (toPort (u8 (pktOf s 0x0102 c) 0)) = false ∧ needs [PORT_LINK_STATUS (toPort (u8 (pktOf s 0x0102 c) 0))] s = (0, s) ∧ MayAsk (s.link (portLink (toPort (u8 (pktOf s 0x0102 c) 0))))) ∧
    (∃ (c : Call) (s : State), Admits 0x0102 inST c s ∧ paramLen (pktOf s 0x0102 c) = 3 ∧ u8 (pktOf s 0x0102 c) 0 < 128 ∧ u8 (pktOf s 0x0102 c) 1 ≤ 1 ∧ isBreakout s (toPort (u8 (pktOf s 0x0102 c) 0)) = false ∧ needs [PORT_LINK_STATUS (toPort (u8 (pktOf s 0x0102 c) 0))] s = (0, s) ∧ (s.link (portLink (toPort (u8 (pktOf s 0x0102 c) 0)))).phase = 0) ∧
    (∃ (c : Call) (s : State), Admits 0x0103 inST c s ∧ paramLen (pktOf s 0x0103 c) = 2 ∧ u8 (pktOf s 0x0103 c) 0 < 128 ∧ u8 (pktOf s 0x0103 c) 1 ≤ 3 ∧ needs [PORT_RATE_CFG (toPort (u8 (pktOf s 0x0103 c) 0))] s = (0, s)) ∧
    (∃ (c : Call) (s : State), Admits 0x0104 inST c s ∧ paramLen (pktOf s 0x0104 c) = 1 ∧ u8 (pktOf s 0x0104 c) 0 < 128 ∧ needs [PORT_LINK_STATUS (toPort (u8 (pktOf s 0x0104 c) 0)), PORT_STARTUP_STATUS (toPort (u8 (pktOf s 0x0104 c) 0)), PORT_MODE_EFFECTIVE (toPort (u8 (pktOf s 0x0104 c) 0)), PORT_MODE_INACTIVE (toPort (u8 (pktOf s 0x0104 c) 0)), PORT_QUALITY (toPort (u8 (pktOf s 0x0104 c) 0)), PORT_FRAMING_TX (toPort (u8 (pktOf s 0x0104 c) 0)), PORT_FRAMING_RX (toPort (u8 (pktOf s 0x0104 c) 0)), PORT_STAGE_NOW (toPort (u8 (pktOf s 0x0104 c) 0)), EEI_STATUS (toPort (u8 (pktOf s 0x0104 c) 0)), TT_STATUS (toPort (u8 (pktOf s 0x0104 c) 0)), TT_BOUND (toPort (u8 (pktOf s 0x0104 c) 0))] s = (0, s)) ∧
    (∃ (c : Call) (s : State), Admits 0x0105 inST c s ∧ paramLen (pktOf s 0x0105 c) = 0 ∧ needs ((List.range 128).flatMap (summaryRegs s)) s = (0, s)) :=
  ⟨⟨call (1 :: List.replicate 16 0), up, by decide +kernel⟩,
   ⟨call ([0, 0, 8, 0, 8, 0]), up, by decide +kernel⟩,
   ⟨call ([0, 0, 0xFF]), (up.modLink l0 (fun k => { k with phase := 7 })), by decide +kernel⟩,
   ⟨call ([0, 0, 0xFF]), up, by decide +kernel⟩,
   ⟨call ([0, 3]), up, by decide +kernel⟩,
   ⟨call ([0]), up, by decide +kernel⟩,
   ⟨call ([]), up, by decide +kernel⟩⟩

set_option maxRecDepth 20000 in
/-- The conditions of each clause of PortCommandsAnswer can hold (portCounters, portCounters, portPeer, portFlowctl, portSublinks, hlStatus, diagResult). -/
theorem port_commands_answer_can_hold_2 :
    (∃ (c : Call) (s : State), Admits 0x0106 inST c s ∧ paramLen (pktOf s 0x0106 c) = 3 ∧ u8 (pktOf s 0x0106 c) 0 < 128 ∧ u8 (pktOf s 0x0106 c) 1 ≤ 6 ∧ u8 (pktOf s 0x0106 c) 2 = 0 ∧ needs (counterSet (toPort (u8 (pktOf s 0x0106 c) 0)) (u8 (pktOf s 0x0106 c) 1)) s = (0, s)) ∧
    (∃ (c : Call) (s : State), Admits 0x0106 inST c s ∧ paramLen (pktOf s 0x0106 c) = 3 ∧ u8 (pktOf s 0x0106 c) 0 < 128 ∧ u8 (pktOf s 0x0106 c) 1 ≤ 6 ∧ u8 (pktOf s 0x0106 c) 2 = 1 ∧ needs (counterSet (toPort (u8 (pktOf s 0x0106 c) 0)) (u8 (pktOf s 0x0106 c) 1)) s = (0, s)) ∧
    (∃ (c : Call) (s : State), Admits 0x0107 inST c s ∧ paramLen (pktOf s 0x0107 c) = 1 ∧ u8 (pktOf s 0x0107 c) 0 < 128 ∧ needs [PORT_OWN_ID (toPort (u8 (pktOf s 0x0107 c) 0)), PORT_PEER_ID (toPort (u8 (pktOf s 0x0107 c) 0)), PORT_PEER_TAG (toPort (u8 (pktOf s 0x0107 c) 0)), PORT_PEER_INFO (toPort (u8 (pktOf s 0x0107 c) 0)), PORT_STARTUP_RESULT (toPort (u8 (pktOf s 0x0107 c) 0))] s = (0, s)) ∧
    (∃ (c : Call) (s : State), Admits 0x0108 inST c s ∧ paramLen (pktOf s 0x0108 c) = 16 ∧ u8 (pktOf s 0x0108 c) 0 < 128 ∧ fits (applied (u8 (pktOf s 0x0108 c) 1) [(0, TT_PORT_CFG.FC_SEL (toPort (u8 (pktOf s 0x0108 c) 0)), u8 (pktOf s 0x0108 c) 2), (1, TT_PORT_CFG.PFC_MASK (toPort (u8 (pktOf s 0x0108 c) 0)), u8 (pktOf s 0x0108 c) 3)]) = true ∧ needs [TT_PORT_CFG (toPort (u8 (pktOf s 0x0108 c) 0)), TT_FC_CFG (toPort (u8 (pktOf s 0x0108 c) 0)), TT_FC_BEDS (toPort (u8 (pktOf s 0x0108 c) 0)), TT_CAP (toPort (u8 (pktOf s 0x0108 c) 0))] s = (0, s)) ∧
    (∃ (c : Call) (s : State), Admits 0x0109 inST c s ∧ paramLen (pktOf s 0x0109 c) = 1 ∧ u8 (pktOf s 0x0109 c) 0 < 128 ∧ needs (allPairs.flatMap (fun q => [PAIR_SUB_LINK_STATUS (toPort (u8 (pktOf s 0x0109 c) 0)) q, PAIR_SUB_STARTUP (toPort (u8 (pktOf s 0x0109 c) 0)) q, PAIR_SUB_OWN_ID (toPort (u8 (pktOf s 0x0109 c) 0)) q, PAIR_SUB_PEER_ID (toPort (u8 (pktOf s 0x0109 c) 0)) q])) s = (0, s)) ∧
    (∃ (c : Call) (s : State), Admits 0x0201 inST c s ∧ paramLen (pktOf s 0x0201 c) = 1 ∧ u8 (pktOf s 0x0201 c) 0 < 136 ∧ needs [HL_STATUS (u8 (pktOf s 0x0201 c) 0), HL_FAULT_STATUS (u8 (pktOf s 0x0201 c) 0), HL_RS_UNCORR (u8 (pktOf s 0x0201 c) 0), HL_AM_LOSS (u8 (pktOf s 0x0201 c) 0), HL_RS_CW (u8 (pktOf s 0x0201 c) 0), HL_RS_CW (u8 (pktOf s 0x0201 c) 0) + 4, HL_RS_CORR_SYM (u8 (pktOf s 0x0201 c) 0), HL_RS_CORR_SYM (u8 (pktOf s 0x0201 c) 0) + 4] s = (0, s)) ∧
    (∃ (c : Call) (s : State), Admits 0x0301 inST c s ∧ paramLen (pktOf s 0x0301 c) = 2 ∧ u16 (pktOf s 0x0301 c) 0 < 512 ∧ needs ([DIAG_STATUS (portOf (u16 (pktOf s 0x0301 c) 0)) (pairOf (u16 (pktOf s 0x0301 c) 0)), DIAG_INFO (portOf (u16 (pktOf s 0x0301 c) 0)) (pairOf (u16 (pktOf s 0x0301 c) 0)), DIAG_TIME (portOf (u16 (pktOf s 0x0301 c) 0)) (pairOf (u16 (pktOf s 0x0301 c) 0))] ++ (List.range 16).map (fun j => DIAG_EVENT (portOf (u16 (pktOf s 0x0301 c) 0)) (pairOf (u16 (pktOf s 0x0301 c) 0)) j)) s = (0, s)) :=
  ⟨⟨call ([0, 6, 0]), up, by decide +kernel⟩,
   ⟨call ([0, 6, 1]), up, by decide +kernel⟩,
   ⟨call ([0]), up, by decide +kernel⟩,
   ⟨call ([0, 1, 1, 0, 0, 0, 0, 0, 0, 0, 0, 0, 0, 0, 0, 0]), up, by decide +kernel⟩,
   ⟨call ([0]), up, by decide +kernel⟩,
   ⟨call ([0]), up, by decide +kernel⟩,
   ⟨call ([0, 0]), up, by decide +kernel⟩⟩

set_option maxRecDepth 20000 in
/-- The conditions of each clause of HostLaneCommandsAnswer can hold (hlEnable, hlFfe, hlSpareSet, hlSpareAct, hlEyeScan, hlEyeResult, hlPrbs). -/
theorem host_lane_commands_answer_can_hold :
    (∃ (c : Call) (s : State), Admits 0x0200 inST c s ∧ paramLen (pktOf s 0x0200 c) = 19 ∧ u8 (pktOf s 0x0200 c) 17 ≤ 1 ∧ (u8 (pktOf s 0x0200 c) 18 ≤ 1 ∨ u8 (pktOf s 0x0200 c) 18 = 0xFF)) ∧
    (∃ (c : Call) (s : State), Admits 0x0202 inST c s ∧ paramLen (pktOf s 0x0202 c) = 4 ∧ u8 (pktOf s 0x0202 c) 0 < 136 ∧ fits [(HL_TX_FFE.PRE (u8 (pktOf s 0x0202 c) 0), u8 (pktOf s 0x0202 c) 1), (HL_TX_FFE.POST (u8 (pktOf s 0x0202 c) 0), u8 (pktOf s 0x0202 c) 2), (HL_TX_FFE.AMP (u8 (pktOf s 0x0202 c) 0), u8 (pktOf s 0x0202 c) 3)] = true ∧ needs [HL_TX_FFE (u8 (pktOf s 0x0202 c) 0), HL_STATUS (u8 (pktOf s 0x0202 c) 0)] s = (0, s)) ∧
    (∃ (c : Call) (s : State), Admits 0x0203 inST c s ∧ paramLen (pktOf s 0x0203 c) = 8 ∧ u8 (pktOf s 0x0203 c) 0 < 8 ∧ fits (applied (u8 (pktOf s 0x0203 c) 1) [(0, HL_SPARE_CFG.MODE (spareLane (u8 (pktOf s 0x0203 c) 0)), u8 (pktOf s 0x0203 c) 2), (1, HL_SPARE_CFG.RATE (spareLane (u8 (pktOf s 0x0203 c) 0)), u8 (pktOf s 0x0203 c) 3), (2, HL_SPARE_CFG.PREFER_EN (spareLane (u8 (pktOf s 0x0203 c) 0)), u8 (pktOf s 0x0203 c) 4), (2, HL_SPARE_CFG.PREFER (spareLane (u8 (pktOf s 0x0203 c) 0)), u8 (pktOf s 0x0203 c) 5), (3, HL_SPARE_CFG.HOST_WAIT (spareLane (u8 (pktOf s 0x0203 c) 0)), u16 (pktOf s 0x0203 c) 6)]) = true ∧ needs [HL_SPARE_CFG (spareLane (u8 (pktOf s 0x0203 c) 0)), HL_SPARE_STATUS (spareLane (u8 (pktOf s 0x0203 c) 0))] s = (0, s)) ∧
    (∃ (c : Call) (s : State), Admits 0x0204 inST c s ∧ paramLen (pktOf s 0x0204 c) = 3 ∧ u8 (pktOf s 0x0204 c) 0 < 8 ∧ 1 ≤ u8 (pktOf s 0x0204 c) 1 ∧ u8 (pktOf s 0x0204 c) 1 ≤ 3 ∧ (u8 (pktOf s 0x0204 c) 1 = 1 → u8 (pktOf s 0x0204 c) 2 ≤ 15) ∧ needs [HL_SPARE_CTRL (spareLane (u8 (pktOf s 0x0204 c) 0)), HL_SPARE_STATUS (spareLane (u8 (pktOf s 0x0204 c) 0))] s = (0, s)) ∧
    (∃ (c : Call) (cl : Claim) (s : State), Admits 0x0205 inST c s ∧ paramLen (pktOf s 0x0205 c) = 8 ∧ eyeParamsOk (pktOf s 0x0205 c) = true ∧ (eyeGrid (pktOf s 0x0205 c)).length ≤ 1024 ∧ recordsFull s = false ∧ needs [HL_EYE_STATUS (u8 (pktOf s 0x0205 c) 0)] s = (0, s) ∧ heldClaim s (pktOf s 0x0205 c).call.src 4 (u8 (pktOf s 0x0205 c) 0) = some cl ∧ s.flag (HL_EYE_STATUS.BUSY (u8 (pktOf s 0x0205 c) 0)) = false ∧ laneState s (u8 (pktOf s 0x0205 c) 0) ≠ 0) ∧
    (∃ (c : Call) (points : Nat) (es : List Nat) (s : State), Admits 0x0206 inST c s ∧ paramLen (pktOf s 0x0206 c) = 6 ∧ eyeOf s (u16 (pktOf s 0x0206 c) 0) = some (points, es) ∧ 1 ≤ u16 (pktOf s 0x0206 c) 4 ∧ u16 (pktOf s 0x0206 c) 4 ≤ 255 ∧ u16 (pktOf s 0x0206 c) 2 + u16 (pktOf s 0x0206 c) 4 ≤ points) ∧
    (∃ (c : Call) (cl : Claim) (s : State), Admits 0x0207 inST c s ∧ paramLen (pktOf s 0x0207 c) = 26 ∧ u8 (pktOf s 0x0207 c) 0 < 136 ∧ u8 (pktOf s 0x0207 c) 1 = 1 ∧ u8 (pktOf s 0x0207 c) 2 ≤ 1 ∧ u8 (pktOf s 0x0207 c) 3 ≤ 3 ∧ u8 (pktOf s 0x0207 c) 4 ≤ 3 ∧ needs [HL_PRBS_CTRL (u8 (pktOf s 0x0207 c) 0)] s = (0, s) ∧ heldClaim s (pktOf s 0x0207 c).call.src 6 (u8 (pktOf s 0x0207 c) 0) = some cl) :=
  ⟨⟨call (1 :: (List.replicate 16 0 ++ [1, 0xFF])), up, by decide +kernel⟩,
   ⟨call ([0, 5, 6, 7]), up, by decide +kernel⟩,
   ⟨call ([0, 8, 0, 0, 0, 0, 10, 0]), up, by decide +kernel⟩,
   ⟨call ([0, 2, 0]), up, by decide +kernel⟩,
   ⟨call ([0, 0, 0xF0, 0x10, 0xC0, 0x3F, 4, 10]), ⟨7, 4, 0, none, 0x80, true⟩, { up.setFld (HL_STATUS.STATE 0) 2 with claims := [⟨7, 4, 0, none, 0x80, true⟩] }, by decide +kernel⟩,
   ⟨call ([1, 0, 0, 0, 2, 0]), 2, [5, 6], { up with eyes := [(1, 2, [5, 6])] }, by decide +kernel⟩,
   ⟨call ([0, 1, 1] ++ List.replicate 23 0), ⟨7, 6, 0, none, 0x80, true⟩, { up with claims := [⟨7, 6, 0, none, 0x80, true⟩] }, by decide +kernel⟩⟩

set_option maxRecDepth 20000 in
/-- The conditions of each clause of HostLaneCommandsAnswer can hold (hlPrbsRead, hlPrbsInject). -/
theorem host_lane_commands_answer_can_hold_2 :
    (∃ (c : Call) (s : State), Admits 0x0208 inST c s ∧ paramLen (pktOf s 0x0208 c) = 2 ∧ u8 (pktOf s 0x0208 c) 0 < 136 ∧ u8 (pktOf s 0x0208 c) 1 ≤ 1 ∧ needs [HL_PRBS_BITS (u8 (pktOf s 0x0208 c) 0), HL_PRBS_BITS (u8 (pktOf s 0x0208 c) 0) + 4, HL_PRBS_ERR (u8 (pktOf s 0x0208 c) 0), HL_PRBS_ERR (u8 (pktOf s 0x0208 c) 0) + 4, HL_PRBS_STATUS (u8 (pktOf s 0x0208 c) 0)] s = (0, s)) ∧
    (∃ (c : Call) (s : State), Admits 0x0209 inST c s ∧ paramLen (pktOf s 0x0209 c) = 3 ∧ u8 (pktOf s 0x0209 c) 0 < 136 ∧ 1 ≤ u8 (pktOf s 0x0209 c) 1 ∧ u8 (pktOf s 0x0209 c) 1 ≤ 2 ∧ s.flag (HL_PRBS_CTRL.TX_EN (u8 (pktOf s 0x0209 c) 0)) = true ∧ needs [HL_PRBS_CTRL (u8 (pktOf s 0x0209 c) 0)] s = (0, s)) :=
  ⟨⟨call ([0, 1]), up, by decide +kernel⟩,
   ⟨call ([0, 2, 9]), (up.setFld (HL_PRBS_CTRL.TX_EN 0) 1), by decide +kernel⟩⟩

set_option maxRecDepth 20000 in
/-- The conditions of each clause of DiagnosticCommandsAnswer can hold (diagReflect, diagMaps, diagMapRead, diagTraceRead, diagHistory, diagProfile, diagProfile). -/
theorem diagnostic_commands_answer_can_hold :
    (∃ (c : Call) (cl : Claim) (s : State), Admits 0x0300 inST c s ∧ paramLen (pktOf s 0x0300 c) = 10 ∧ u16 (pktOf s 0x0300 c) 0 < 512 ∧ u8 (pktOf s 0x0300 c) 2 ≤ 3 ∧ u8 (pktOf s 0x0300 c) 3 ≤ 1 ∧ u8 (pktOf s 0x0300 c) 4 ≤ 15 ∧ recordsFull s = false ∧ needs [DIAG_CFG (portOf (u16 (pktOf s 0x0300 c) 0)), DIAG_STATUS (portOf (u16 (pktOf s 0x0300 c) 0)) (pairOf (u16 (pktOf s 0x0300 c) 0))] s = (0, s) ∧ heldClaim s (pktOf s 0x0300 c).call.src 3 (u16 (pktOf s 0x0300 c) 0) = some cl) ∧
    (∃ (c : Call) (s : State), Admits 0x0302 inST c s ∧ paramLen (pktOf s 0x0302 c) = 16 ∧ recordsFull s = false ∧ needs ((maskItems (pktOf s 0x0302 c) 0 16).map (fun n => DIAG_STATUS n 0)) s = (0, s)) ∧
    (∃ (c : Call) (s : State), Admits 0x0303 inST c s ∧ paramLen (pktOf s 0x0303 c) = 8 ∧ u16 (pktOf s 0x0303 c) 0 < 512 ∧ u8 (pktOf s 0x0303 c) 2 ≤ 15 ∧ 1 ≤ u16 (pktOf s 0x0303 c) 6 ∧ u16 (pktOf s 0x0303 c) 4 + u16 (pktOf s 0x0303 c) 6 ≤ 512 ∧ needs [DIAG_MAP_DATA (portOf (u16 (pktOf s 0x0303 c) 0)) (pairOf (u16 (pktOf s 0x0303 c) 0))] s = (0, s)) ∧
    (∃ (c : Call) (s : State), Admits 0x0304 inST c s ∧ paramLen (pktOf s 0x0304 c) = 8 ∧ u16 (pktOf s 0x0304 c) 0 < 512 ∧ u8 (pktOf s 0x0304 c) 2 ≤ 3 ∧ 1 ≤ u16 (pktOf s 0x0304 c) 6 ∧ u16 (pktOf s 0x0304 c) 6 ≤ 512 ∧ u16 (pktOf s 0x0304 c) 4 + u16 (pktOf s 0x0304 c) 6 ≤ 16384 ∧ needs [DIAG_TRACE_DATA (portOf (u16 (pktOf s 0x0304 c) 0)) (pairOf (u16 (pktOf s 0x0304 c) 0))] s = (0, s)) ∧
    (∃ (c : Call) (s : State), Admits 0x0305 inST c s ∧ paramLen (pktOf s 0x0305 c) = 9 ∧ u16 (pktOf s 0x0305 c) 0 < 512 ∧ 1 ≤ u8 (pktOf s 0x0305 c) 8 ∧ u8 (pktOf s 0x0305 c) 8 ≤ 63 ∧ needs [DIAG_HIST_DATA (portOf (u16 (pktOf s 0x0305 c) 0)) (pairOf (u16 (pktOf s 0x0305 c) 0))] s = (0, s)) ∧
    (∃ (c : Call) (x : Nat × Nat × List Nat) (s : State), Admits 0x0306 inST c s ∧ paramLen (pktOf s 0x0306 c) = 3 ∧ u16 (pktOf s 0x0306 c) 0 < 512 ∧ u8 (pktOf s 0x0306 c) 2 ≤ 7 ∧ (s.diag (u16 (pktOf s 0x0306 c) 0)).profiles[u8 (pktOf s 0x0306 c) 2]? = some x ∧ needs [DIAG_HIST_DATA (portOf (u16 (pktOf s 0x0306 c) 0)) (pairOf (u16 (pktOf s 0x0306 c) 0))] s = (0, s)) ∧
    (∃ (c : Call) (s : State), Admits 0x0306 inST c s ∧ paramLen (pktOf s 0x0306 c) = 3 ∧ u16 (pktOf s 0x0306 c) 0 < 512 ∧ u8 (pktOf s 0x0306 c) 2 ≤ 7 ∧ (s.diag (u16 (pktOf s 0x0306 c) 0)).profiles[u8 (pktOf s 0x0306 c) 2]? = none ∧ needs [DIAG_HIST_DATA (portOf (u16 (pktOf s 0x0306 c) 0)) (pairOf (u16 (pktOf s 0x0306 c) 0))] s = (0, s)) :=
  ⟨⟨call ([0, 0, 1, 1, 4, 0, 100, 0, 0, 0]), ⟨7, 3, 0, some 0, 0x80, true⟩, { up with claims := [⟨7, 3, 0, some 0, 0x80, true⟩] }, by decide +kernel⟩,
   ⟨call (1 :: List.replicate 15 0), up, by decide +kernel⟩,
   ⟨call ([0, 0, 15, 0, 0, 0, 0, 2]), up, by decide +kernel⟩,
   ⟨call ([0, 0, 3, 0, 0, 0, 0, 2]), up, by decide +kernel⟩,
   ⟨call ([0, 0, 0, 0, 0, 0, 0, 0, 63]), up, by decide +kernel⟩,
   ⟨call ([0, 0, 0]), (5, 1, [7]), (up.modDiag 0 (fun d => { d with profiles := [(5, 1, [7])] })), by decide +kernel⟩,
   ⟨call ([0, 0, 7]), up, by decide +kernel⟩⟩

set_option maxRecDepth 20000 in
/-- The conditions of each clause of DiagnosticCommandsAnswer can hold (diagSnr, diagAbort). -/
theorem diagnostic_commands_answer_can_hold_2 :
    (∃ (c : Call) (s : State), Admits 0x0307 inST c s ∧ paramLen (pktOf s 0x0307 c) = 6 ∧ u16 (pktOf s 0x0307 c) 0 < 512 ∧ 1 ≤ u16 (pktOf s 0x0307 c) 4 ∧ u16 (pktOf s 0x0307 c) 4 ≤ 256 ∧ u16 (pktOf s 0x0307 c) 2 + u16 (pktOf s 0x0307 c) 4 ≤ 512 ∧ needs [PAIR_SNR_DATA (portOf (u16 (pktOf s 0x0307 c) 0)) (pairOf (u16 (pktOf s 0x0307 c) 0))] s = (0, s)) ∧
    (∃ (c : Call) (s : State), Admits 0x0308 inST c s ∧ paramLen (pktOf s 0x0308 c) = 2 ∧ u16 (pktOf s 0x0308 c) 0 < 512 ∧ needs [DIAG_STATUS (portOf (u16 (pktOf s 0x0308 c) 0)) (pairOf (u16 (pktOf s 0x0308 c) 0))] s = (0, s)) :=
  ⟨⟨call ([0, 0, 0, 1, 0, 1]), up, by decide +kernel⟩,
   ⟨call ([0, 0]), up, by decide +kernel⟩⟩

set_option maxRecDepth 20000 in
/-- The conditions of each clause of CalibrationAndPowerCommandsAnswer can hold (calRun, calStatus, calStatus, calCfg, calSave, eeiSet, eeiWake). -/
theorem calibration_and_power_commands_answer_can_hold :
    (∃ (c : Call) (cl : Claim) (s : State), Admits 0x0400 inST c s ∧ paramLen (pktOf s 0x0400 c) = 4 ∧ calValid (u8 (pktOf s 0x0400 c) 0) (u16 (pktOf s 0x0400 c) 2) = true ∧ recordsFull s = false ∧ heldClaim s (pktOf s 0x0400 c).call.src 2 (calRes (u8 (pktOf s 0x0400 c) 0) (u16 (pktOf s 0x0400 c) 2)) = some cl) ∧
    (∃ (c : Call) (s : State), Admits 0x0401 inST c s ∧ paramLen (pktOf s 0x0401 c) = 4 ∧ calValid (u8 (pktOf s 0x0401 c) 0) (u16 (pktOf s 0x0401 c) 2) = true ∧ s.flag CAL_CFG.REPORT = true) ∧
    (∃ (c : Call) (s : State), Admits 0x0401 inST c s ∧ paramLen (pktOf s 0x0401 c) = 4 ∧ calValid (u8 (pktOf s 0x0401 c) 0) (u16 (pktOf s 0x0401 c) 2) = true ∧ s.flag CAL_CFG.REPORT = false) ∧
    (∃ (c : Call) (s : State), Admits 0x0402 inST c s ∧ paramLen (pktOf s 0x0402 c) = 6 ∧ fits (applied (u8 (pktOf s 0x0402 c) 0) [(0, CAL_CFG.REPORT, u8 (pktOf s 0x0402 c) 1), (1, CAL_CFG.VERIFY, u8 (pktOf s 0x0402 c) 2), (2, CAL_CFG.DTEMP, u16 (pktOf s 0x0402 c) 4)]) = true ∧ (bit (u8 (pktOf s 0x0402 c) 0) 2 = true → 5 ≤ u16 (pktOf s 0x0402 c) 4 ∧ u16 (pktOf s 0x0402 c) 4 ≤ 200)) ∧
    (∃ (c : Call) (fails : List Nat) (cl : Claim) (s : State), Admits 0x0403 inST c s ∧ paramLen (pktOf s 0x0403 c) = 0 ∧ recordsFull s = false ∧ s.flag CLK_STATUS.REF_QUAL = true ∧ heldClaim s (pktOf s 0x0403 c).call.src 7 2 = some cl ∧ fails = []) ∧
    (∃ (c : Call) (s : State), Admits 0x0500 inST c s ∧ paramLen (pktOf s 0x0500 c) = 24 ∧ fits (applied (u8 (pktOf s 0x0500 c) 16) [(0, EEI_WAKE_BUDGET.BUDGET 0, u32 (pktOf s 0x0500 c) 20), (1, EEI_CFG.MAX_DEPTH 0, u8 (pktOf s 0x0500 c) 17)]) = true) ∧
    (∃ (c : Call) (s : State), Admits 0x0501 inST c s ∧ paramLen (pktOf s 0x0501 c) = 16) :=
  ⟨⟨call ([4, 0, 0, 0]), ⟨7, 2, 0x4000000, some 0, 0x80, true⟩, { up with claims := [⟨7, 2, 0x4000000, some 0, 0x80, true⟩] }, by decide +kernel⟩,
   ⟨call ([1, 0, 0, 0]), (up.setFld CAL_CFG.REPORT 1), by decide +kernel⟩,
   ⟨call ([1, 0, 0, 0]), up, by decide +kernel⟩,
   ⟨call ([7, 1, 1, 0, 200, 0]), up, by decide +kernel⟩,
   ⟨call [], [], ⟨7, 7, 2, none, 0x80, true⟩, { up.setFld CLK_STATUS.REF_QUAL 1 with claims := [⟨7, 7, 2, none, 0x80, true⟩] }, by decide +kernel⟩,
   ⟨call (1 :: List.replicate 23 0), up, by decide +kernel⟩,
   ⟨call (List.replicate 16 255), up, by decide +kernel⟩⟩

set_option maxRecDepth 20000 in
/-- The conditions of each clause of CalibrationAndPowerCommandsAnswer can hold (pwrDomain, pwrAvs, pwrStatus). -/
theorem calibration_and_power_commands_answer_can_hold_2 :
    (∃ (c : Call) (s : State), Admits 0x0502 inST c s ∧ paramLen (pktOf s 0x0502 c) = 3 ∧ u16 (pktOf s 0x0502 c) 0 ≤ 0xFFF ∧ u8 (pktOf s 0x0502 c) 2 ≤ 2) ∧
    (∃ (c : Call) (s : State), Admits 0x0503 inST c s ∧ paramLen (pktOf s 0x0503 c) = 6 ∧ fits (applied (u8 (pktOf s 0x0503 c) 0) [(0, PWR_AVS_CFG.ENABLE, u8 (pktOf s 0x0503 c) 1), (1, PWR_AVS_CFG.VMIN, u16 (pktOf s 0x0503 c) 2), (2, PWR_AVS_CFG.VMAX, u16 (pktOf s 0x0503 c) 4)]) = true) ∧
    (∃ (c : Call) (s : State), Admits 0x0504 inST c s ∧ paramLen (pktOf s 0x0504 c) = 0) :=
  ⟨⟨call ([0x20, 0, 2]), up, by decide +kernel⟩,
   ⟨call ([7, 1, 200, 2, 200, 2]), up, by decide +kernel⟩,
   ⟨call ([]), up, by decide +kernel⟩⟩

set_option maxRecDepth 20000 in
/-- The conditions of each clause of StorageAndGuestbookCommandsAnswer can hold (nvInfo, nvRead, nvOpen, nvWrite, nvCommit, nvCommit, nvClose). -/
theorem storage_and_guestbook_commands_answer_can_hold :
    (∃ (c : Call) (s : State), Admits 0x0600 inSTR c s ∧ paramLen (pktOf s 0x0600 c) = 1 ∧ u8 (pktOf s 0x0600 c) 0 < 4) ∧
    (∃ (c : Call) (b : Nat) (s : State), Admits 0x0601 inSTR c s ∧ paramLen (pktOf s 0x0601 c) = 10 ∧ u8 (pktOf s 0x0601 c) 0 < 4 ∧ readBank s (u8 (pktOf s 0x0601 c) 0) (u8 (pktOf s 0x0601 c) 1) = some b ∧ 1 ≤ u16 (pktOf s 0x0601 c) 8 ∧ u16 (pktOf s 0x0601 c) 8 ≤ 1024 ∧ u32 (pktOf s 0x0601 c) 4 + u16 (pktOf s 0x0601 c) 8 ≤ bodyMax (u8 (pktOf s 0x0601 c) 0)) ∧
    (∃ (c : Call) (fails : List Nat) (cl : Claim) (s : State), Admits 0x0602 inSTR c s ∧ paramLen (pktOf s 0x0602 c) = 1 ∧ u8 (pktOf s 0x0602 c) 0 < 4 ∧ s.flag CLK_STATUS.REF_QUAL = true ∧ heldClaim s (pktOf s 0x0602 c).call.src (nvKind (u8 (pktOf s 0x0602 c) 0)) (u8 (pktOf s 0x0602 c) 0) = some cl ∧ fails = []) ∧
    (∃ (c : Call) (fails : List Nat) (o : NvOpen) (s : State), Admits 0x0603 inSTR c s ∧ 9 ≤ paramLen (pktOf s 0x0603 c) ∧ paramLen (pktOf s 0x0603 c) ≤ 1024 ∧ s.nvOpen.find? (fun o => o.part == u8 (pktOf s 0x0603 c) 0) = some o ∧ s.claims.any (fun x => x.handle == o.handle) = true ∧ o.src = (pktOf s 0x0603 c).call.src ∧ u32 (pktOf s 0x0603 c) 4 + ((pktOf s 0x0603 c).call.body.drop 8).length ≤ bodyMax o.part ∧ s.flag CLK_STATUS.REF_QUAL = true ∧ fails = []) ∧
    (∃ (c : Call) (fails : List Nat) (o : NvOpen) (s : State), Admits 0x0604 inSTR c s ∧ paramLen (pktOf s 0x0604 c) = 12 ∧ s.nvOpen.find? (fun o => o.part == u8 (pktOf s 0x0604 c) 0) = some o ∧ s.claims.any (fun x => x.handle == o.handle) = true ∧ o.src = (pktOf s 0x0604 c).call.src ∧ u32 (pktOf s 0x0604 c) 4 ≤ bodyMax o.part ∧ recordsFull s = false ∧ s.flag CLK_STATUS.REF_QUAL = true ∧ crc32c (nvBytes s (bankBase o.part o.bank + 32) (u32 (pktOf s 0x0604 c) 4)) = u32 (pktOf s 0x0604 c) 8 ∧ fails = []) ∧
    (∃ (c : Call) (o : NvOpen) (s : State), Admits 0x0604 inSTR c s ∧ paramLen (pktOf s 0x0604 c) = 12 ∧ s.nvOpen.find? (fun o => o.part == u8 (pktOf s 0x0604 c) 0) = some o ∧ s.claims.any (fun x => x.handle == o.handle) = true ∧ o.src = (pktOf s 0x0604 c).call.src ∧ u32 (pktOf s 0x0604 c) 4 ≤ bodyMax o.part ∧ recordsFull s = false ∧ s.flag CLK_STATUS.REF_QUAL = true ∧ crc32c (nvBytes s (bankBase o.part o.bank + 32) (u32 (pktOf s 0x0604 c) 4)) ≠ u32 (pktOf s 0x0604 c) 8) ∧
    (∃ (c : Call) (o : NvOpen) (s : State), Admits 0x0605 inSTR c s ∧ paramLen (pktOf s 0x0605 c) = 1 ∧ s.nvOpen.find? (fun o => o.part == u8 (pktOf s 0x0605 c) 0) = some o ∧ s.claims.any (fun x => x.handle == o.handle) = true ∧ o.src = (pktOf s 0x0605 c).call.src) :=
  ⟨⟨call ([3]), up, by decide +kernel⟩,
   ⟨call ([3, 1, 0, 0, 0, 0, 0, 0, 4, 0]), 1, up, by decide +kernel⟩,
   ⟨call [1], [], ⟨7, 7, 1, none, 0x80, true⟩, { up.setFld CLK_STATUS.REF_QUAL 1 with claims := [⟨7, 7, 1, none, 0x80, true⟩] }, by decide +kernel⟩,
   ⟨call [1, 0, 0, 0, 0, 0, 0, 0, 9], [], ⟨1, 0, 0x80, 7⟩, { up.setFld CLK_STATUS.REF_QUAL 1 with claims := [⟨7, 7, 1, none, 0x80, true⟩], nvOpen := [⟨1, 0, 0x80, 7⟩] }, by decide +kernel⟩,
   ⟨call ([1, 0, 0, 0, 0, 0, 0, 0] ++ bytesLsb 4 (crc32c [])), [], ⟨1, 0, 0x80, 7⟩, { up.setFld CLK_STATUS.REF_QUAL 1 with claims := [⟨7, 7, 1, none, 0x80, true⟩], nvOpen := [⟨1, 0, 0x80, 7⟩] }, by decide +kernel⟩,
   ⟨call ([1, 0, 0, 0, 4, 0, 0, 0, 1, 0, 0, 0]), ⟨1, 0, 0x80, 7⟩, { up.setFld CLK_STATUS.REF_QUAL 1 with claims := [⟨7, 7, 1, none, 0x80, true⟩], nvOpen := [⟨1, 0, 0x80, 7⟩] }, by decide +kernel⟩,
   ⟨call ([1]), ⟨1, 0, 0x80, 7⟩, { up.setFld CLK_STATUS.REF_QUAL 1 with claims := [⟨7, 7, 1, none, 0x80, true⟩], nvOpen := [⟨1, 0, 0x80, 7⟩] }, by decide +kernel⟩⟩

set_option maxRecDepth 20000 in
/-- The conditions of each clause of StorageAndGuestbookCommandsAnswer can hold (nvSaveConfig, gbInfo, gbRead, gbClear, gbRate, gbRate, gbRate). -/
theorem storage_and_guestbook_commands_answer_can_hold_2 :
    (∃ (c : Call) (fails : List Nat) (cl : Claim) (s : State), Admits 0x0606 inSTR c s ∧ paramLen (pktOf s 0x0606 c) = 0 ∧ recordsFull s = false ∧ s.flag CLK_STATUS.REF_QUAL = true ∧ heldClaim s (pktOf s 0x0606 c).call.src 7 1 = some cl ∧ fails = []) ∧
    (∃ (c : Call) (s : State), Admits 0x0700 inSTR c s ∧ paramLen (pktOf s 0x0700 c) = 0) ∧
    (∃ (c : Call) (s : State), Admits 0x0701 inSTR c s ∧ paramLen (pktOf s 0x0701 c) = 3 ∧ u16 (pktOf s 0x0701 c) 0 ≤ 32767 ∧ 1 ≤ u8 (pktOf s 0x0701 c) 2 ∧ u8 (pktOf s 0x0701 c) 2 ≤ 32) ∧
    (∃ (c : Call) (s : State), Admits 0x0702 inSTR c s ∧ paramLen (pktOf s 0x0702 c) = 0) ∧
    (∃ (c : Call) (s : State), Admits 0x0703 inSTR c s ∧ paramLen (pktOf s 0x0703 c) = 3 ∧ u16 (pktOf s 0x0703 c) 0 = 0xFFFF) ∧
    (∃ (c : Call) (s : State), Admits 0x0703 inSTR c s ∧ paramLen (pktOf s 0x0703 c) = 3 ∧ u16 (pktOf s 0x0703 c) 0 ≠ 0xFFFF ∧ u8 (pktOf s 0x0703 c) 2 = s.fld GB_RATE_DEFAULT.LIMIT) ∧
    (∃ (c : Call) (s : State), Admits 0x0703 inSTR c s ∧ paramLen (pktOf s 0x0703 c) = 3 ∧ u16 (pktOf s 0x0703 c) 0 ≠ 0xFFFF ∧ u8 (pktOf s 0x0703 c) 2 ≠ s.fld GB_RATE_DEFAULT.LIMIT ∧ (s.gbLimits.filter (fun x => x.1 != u16 (pktOf s 0x0703 c) 0)).length < 64) :=
  ⟨⟨call [], [], ⟨7, 7, 1, none, 0x80, true⟩, { up.setFld CLK_STATUS.REF_QUAL 1 with claims := [⟨7, 7, 1, none, 0x80, true⟩] }, by decide +kernel⟩,
   ⟨call ([]), up, by decide +kernel⟩,
   ⟨call ([255, 127, 32]), up, by decide +kernel⟩,
   ⟨call ([]), up, by decide +kernel⟩,
   ⟨call ([255, 255, 9]), up, by decide +kernel⟩,
   ⟨call ([1, 0, 60]), (up.setFld GB_RATE_DEFAULT.LIMIT 60), by decide +kernel⟩,
   ⟨call ([1, 0, 61]), (up.setFld GB_RATE_DEFAULT.LIMIT 60), by decide +kernel⟩⟩

set_option maxRecDepth 20000 in
/-- The conditions of each clause of ConciergeCommandsAnswer can hold (cncClaim, cncClaim, cncRelease, cncList, sliceSwap, bistRun, bistCfg). -/
theorem concierge_commands_answer_can_hold :
    (∃ (c : Call) (s : State), Admits 0x0900 inST c s ∧ paramLen (pktOf s 0x0900 c) = 8 ∧ claimOk s (u8 (pktOf s 0x0900 c) 0) (u32 (pktOf s 0x0900 c) 4) = true ∧ heldClaim s (pktOf s 0x0900 c).call.src (u8 (pktOf s 0x0900 c) 0) (u32 (pktOf s 0x0900 c) 4) = none ∧ grantable s (u8 (pktOf s 0x0900 c) 0) (u32 (pktOf s 0x0900 c) 4) = true) ∧
    (∃ (c : Call) (cl : Claim) (s : State), Admits 0x0900 inST c s ∧ paramLen (pktOf s 0x0900 c) = 8 ∧ claimOk s (u8 (pktOf s 0x0900 c) 0) (u32 (pktOf s 0x0900 c) 4) = true ∧ heldClaim s (pktOf s 0x0900 c).call.src (u8 (pktOf s 0x0900 c) 0) (u32 (pktOf s 0x0900 c) 4) = some cl) ∧
    (∃ (c : Call) (x : Claim) (s : State), Admits 0x0901 inST c s ∧ paramLen (pktOf s 0x0901 c) = 2 ∧ s.claims.find? (fun x => x.handle == u16 (pktOf s 0x0901 c) 0 && x.src == (pktOf s 0x0901 c).call.src) = some x) ∧
    (∃ (c : Call) (s : State), Admits 0x0902 inST c s ∧ paramLen (pktOf s 0x0902 c) = 2 ∧ u8 (pktOf s 0x0902 c) 0 ≤ 127) ∧
    (∃ (c : Call) (cl : Claim) (sp : Nat) (s : State), Admits 0x0903 inST c s ∧ paramLen (pktOf s 0x0903 c) = 2 ∧ u8 (pktOf s 0x0903 c) 0 < 8 ∧ u8 (pktOf s 0x0903 c) 1 < 68 ∧ sliceState s (u8 (pktOf s 0x0903 c) 0) (u8 (pktOf s 0x0903 c) 1) = 0 ∧ recordsFull s = false ∧ heldClaim s (pktOf s 0x0903 c).call.src 5 (u8 (pktOf s 0x0903 c) 0 * 2 ^ 24 + u8 (pktOf s 0x0903 c) 1) = some cl ∧ (slicesIn s (u8 (pktOf s 0x0903 c) 0) 1).head? = some sp) ∧
    (∃ (c : Call) (cl : Claim) (s : State), Admits 0x0904 inST c s ∧ paramLen (pktOf s 0x0904 c) = 4 ∧ unitOk s (u32 (pktOf s 0x0904 c) 0) = true ∧ recordsFull s = false ∧ heldClaim s (pktOf s 0x0904 c).call.src 1 (plainUnit (u32 (pktOf s 0x0904 c) 0)) = some cl) ∧
    (∃ (c : Call) (s : State), Admits 0x0905 inST c s ∧ paramLen (pktOf s 0x0905 c) = 4 ∧ fits (applied (u8 (pktOf s 0x0905 c) 0) [(0, BIST_CFG.ENABLE, u8 (pktOf s 0x0905 c) 1), (1, BIST_CFG.SWEEP, u16 (pktOf s 0x0905 c) 2)]) = true ∧ (bit (u8 (pktOf s 0x0905 c) 0) 1 = true → 1 ≤ u16 (pktOf s 0x0905 c) 2 ∧ u16 (pktOf s 0x0905 c) 2 ≤ 720)) :=
  ⟨⟨call ([6, 0, 0, 0, 135, 0, 0, 0]), up, by decide +kernel⟩,
   ⟨call ([6, 0, 0, 0, 135, 0, 0, 0]), ⟨7, 6, 135, none, 0x80, true⟩, { up with claims := [⟨7, 6, 135, none, 0x80, true⟩] }, by decide +kernel⟩,
   ⟨call ([7, 0]), ⟨7, 6, 135, none, 0x80, true⟩, { up with claims := [⟨7, 6, 135, none, 0x80, true⟩] }, by decide +kernel⟩,
   ⟨call ([127, 0]), up, by decide +kernel⟩,
   ⟨call ([0, 3]), ⟨7, 5, 3, some 3, 0x80, true⟩, 64, { up with claims := [⟨7, 5, 3, some 3, 0x80, true⟩] }, by decide +kernel⟩,
   ⟨call ([3, 0, 0, 0x10]), ⟨7, 1, 0x10000003, some 3, 0x80, true⟩, { up with claims := [⟨7, 1, 0x10000003, some 3, 0x80, true⟩] }, by decide +kernel⟩,
   ⟨call ([3, 1, 0xD0, 2]), up, by decide +kernel⟩⟩

set_option maxRecDepth 20000 in
/-- The conditions of each clause of ConciergeCommandsAnswer can hold (porterSwitch). -/
theorem concierge_commands_answer_can_hold_2 :
    (∃ (c : Call) (s : State), Admits 0x0906 [2] c s ∧ paramLen (pktOf s 0x0906 c) = 0 ∧ s.flag BIST_PORTER_STATUS.STANDBY_READY = true) :=
  ⟨call ([]), (up.setFld BIST_PORTER_STATUS.STANDBY_READY 1), by decide +kernel⟩

set_option maxRecDepth 20000 in
/-- The conditions of each clause of BusAccessesAreServed can hold (registerWrite, rcRead, counterLowRead, counterHighWrite, counterLowWrite, windowDataAccess, windowDataAccess). -/
theorem bus_accesses_are_served_can_hold :
    (∃ (x : BusAccess) (v : Word) (s : State), x.wr = some v ∧ x.m ≠ .dap ∧ halted s = false ∧ mustWait s s.hub.wakes x = false ∧ reach s x.m x.a = .go) ∧
    (∃ (x : BusAccess) (s : State), x.wr = none ∧ hasRc x.a = true ∧ x.m ≠ .dap ∧ halted s = false ∧ mustWait s s.hub.wakes x = false ∧ reach s x.m x.a = .go) ∧
    (∃ (x : BusAccess) (s : State), x.wr = none ∧ halfAt x.a = .low ∧ isWindow s x.a = false ∧ x.m ≠ .dap ∧ halted s = false ∧ mustWait s s.hub.wakes x = false ∧ reach s x.m x.a = .go) ∧
    (∃ (x : BusAccess) (v : Word) (s : State), x.wr = some v ∧ halfAt x.a = .high ∧ x.m ≠ .dap ∧ halted s = false ∧ mustWait s s.hub.wakes x = false ∧ reach s x.m x.a = .go) ∧
    (∃ (x : BusAccess) (v : Word) (s : State), x.wr = some v ∧ halfAt x.a = .low ∧ x.m ≠ .dap ∧ halted s = false ∧ mustWait s s.hub.wakes x = false ∧ reach s x.m x.a = .go) ∧
    (∃ (x : BusAccess) (s : State), x.wr = none ∧ isWindow s x.a = true ∧ x.m ≠ .dap ∧ halted s = false ∧ mustWait s s.hub.wakes x = false ∧ reach s x.m x.a = .go) ∧
    (∃ (x : BusAccess) (v : Word) (s : State), x.wr = some v ∧ isWindow s x.a = true ∧ x.m ≠ .dap ∧ halted s = false ∧ mustWait s s.hub.wakes x = false ∧ reach s x.m x.a = .go) :=
  ⟨⟨⟨HUB_SCRATCH, some 5, .ring⟩, 5, (State.reset.setFld PWR_PHASE.BOOT_STEP 9), by decide +kernel⟩,
   ⟨⟨PWR_WAKE_MAX, none, .firmware⟩, (State.reset.setFld PWR_PHASE.BOOT_STEP 9), by decide +kernel⟩,
   ⟨⟨MR_CMDS, none, .ring⟩, (State.reset.setFld PWR_PHASE.BOOT_STEP 9), by decide +kernel⟩,
   ⟨⟨MR_CMDS + 4, some 5, .ring⟩, 5, (State.reset.setFld PWR_PHASE.BOOT_STEP 9), by decide +kernel⟩,
   ⟨⟨MR_CMDS, some 5, .ring⟩, 5, (State.reset.setFld PWR_PHASE.BOOT_STEP 9), by decide +kernel⟩,
   ⟨⟨GB_READ_DATA, none, .ring⟩, (State.reset.setFld PWR_PHASE.BOOT_STEP 9), by decide +kernel⟩,
   ⟨⟨GB_READ_DATA, some 5, .ring⟩, 5, (State.reset.setFld PWR_PHASE.BOOT_STEP 9), by decide +kernel⟩⟩

set_option maxRecDepth 20000 in
/-- The conditions of each clause of BusAccessesAreServed can hold (dapOperation, dapOperation). -/
theorem bus_accesses_are_served_can_hold_2 :
    (∃ (op : Nat) (a : Nat) (s : State), op % 4 = 1 ∧ s.hub.boardTest = none ∧ s.hub.dapState ≠ 1 ∧ mustWait s s.hub.wakes ⟨a % 2 ^ 32 / 4 * 4, none, .dap⟩ = false ∧ reach s .dap (a % 2 ^ 32 / 4 * 4) = .go) ∧
    (∃ (op : Nat) (a : Nat) (v : Nat) (s : State), op % 4 = 2 ∧ a = HUB_SCRATCH ∧ s.hub.boardTest = none ∧ s.hub.dapState ≠ 1 ∧ mustWait s s.hub.wakes ⟨a, some (word v), .dap⟩ = false ∧ reach s .dap a = .go) :=
  ⟨⟨1, HUB_SCRATCH, (State.reset.setFld PWR_PHASE.BOOT_STEP 9), by decide +kernel⟩,
   ⟨2, HUB_SCRATCH, 5, (State.reset.setFld PWR_PHASE.BOOT_STEP 9), by decide +kernel⟩⟩

set_option maxRecDepth 20000 in
/-- The conditions of each clause of DomainsWakeAndPowerDown can hold (domainWakeOnAccess, domainWakeDone, domainWakeDone, domainWakeFail, domainReturn, domainReturn, domainPowerDownDone). -/
theorem domains_wake_and_power_down_can_hold :
    (∃ (x : BusAccess) (ids : List Nat) (s : State), x.m ≠ .dap ∧ halted s = false ∧ reach s x.m x.a = .wait ids) ∧
    (∃ (id : Nat) (s : State), (s.dom id).state = 4 ∧ domState s id = 4 ∧ s.hub.wakes = []) ∧
    (∃ (id : Nat) (s : State), (s.dom id).state = 4 ∧ domState s id = 4) ∧
    (∃ (id : Nat) (s : State), (s.dom id).state = 4 ∧ domState s id = 4 ∧ s.hub.wakes = []) ∧
    (∃ (id : Nat) (s : State), (s.dom id).awake = true ∧ accessWaits s id = false ∧ (domKind id = 4 ∨ domKind id = 5)) ∧
    (∃ (id : Nat) (s : State), (s.dom id).awake = true ∧ accessWaits s id = false ∧ 1 ≤ domKind id ∧ domKind id ≤ 3) ∧
    (∃ (id : Nat) (s : State), (s.dom id).down = true ∧ s.hub.wakes = []) :=
  ⟨⟨⟨TILE_TEMP 0 0, none, .ring⟩, [0x020], (State.reset.setFld PWR_PHASE.BOOT_STEP 9), by decide +kernel⟩,
   ⟨0x020, ((State.reset.setFld PWR_PHASE.BOOT_STEP 9).modDom 0x020 (fun d => { d with state := 4 })), by decide +kernel⟩,
   ⟨0x020, ((State.reset.setFld PWR_PHASE.BOOT_STEP 9).modDom 0x020 (fun d => { d with state := 4 })), by decide +kernel⟩,
   ⟨0x020, ((State.reset.setFld PWR_PHASE.BOOT_STEP 9).modDom 0x020 (fun d => { d with state := 4 })), by decide +kernel⟩,
   ⟨0x201, (up.modDom 0x201 (fun d => { d with awake := true })), by decide +kernel⟩,
   ⟨0x020, up, by decide +kernel⟩,
   ⟨0x201, (up.modDom 0x201 (fun d => { d with down := true })), by decide +kernel⟩⟩

set_option maxRecDepth 20000 in
/-- The conditions of each clause of DomainsWakeAndPowerDown can hold (portPowerOff, tilePowerOff, domainRetry, domainOffRequest). -/
theorem domains_wake_and_power_down_can_hold_2 :
    (∃ (n : Port) (s : State), (s.port n).frontOff = false ∧ portOffCond s n = true ∧ tileState s (tileOf n) = 3 ∧ (allPairs.flatMap (fun p => [0x200 + gpair n p, 0x400 + 68 * pairTile (gpair n p) + pairSlice s (gpair n p)])).any (accessWaits s) = false) ∧
    (∃ (t : Tile) (s : State), tileOffCond s t = true ∧ accessWaits s (0x020 + t) = false) ∧
    (∃ (id : Nat) (s : State), domKind id ≠ 6 ∧ domState s id = 5 ∧ (domKind id = 2 → (s.tile (id - 0x020)).linkDown = false)) ∧
    (∃ (id : Nat) (s : State), offCond s id = true ∧ accessWaits s id = false ∧ (s.dom id).down = false) :=
  ⟨⟨0, (up.setReg PWR_DOMAIN_CFG 0xFFFFFFFF), by decide +kernel⟩,
   ⟨0, (up.setReg PWR_DOMAIN_CFG 0xFFFFFFFF), by decide +kernel⟩,
   ⟨0x020, (up.modDom 0x020 (fun d => { d with state := 5 })), by decide +kernel⟩,
   ⟨0x020, (up.setReg PWR_DOMAIN_CFG 0xFFFFFFFF), by decide +kernel⟩⟩

set_option maxRecDepth 20000 in
/-- The conditions of each clause of CoreVoltageAndTemperatureAlert can hold (avsUpdate, avsUpdate, tempAlertAssert, tempAlertRelease). -/
theorem core_voltage_and_temperature_alert_can_hold :
    (∃ (want : Nat) (target : Nat) (mv : Nat) (s : State), s.hub.resetting = false ∧ s.flag PWR_PHASE.FW_ROM = false ∧ 7 ≤ s.fld PWR_PHASE.BOOT_STEP ∧ s.flag PWR_AVS_STATUS.FAULT = false ∧ nextVolts want s = some (target, mv)) ∧
    (∃ (want : Nat) (target : Nat) (mv : Nat) (s : State), s.hub.resetting = false ∧ s.flag PWR_PHASE.FW_ROM = false ∧ 7 ≤ s.fld PWR_PHASE.BOOT_STEP ∧ s.flag PWR_AVS_STATUS.FAULT = false ∧ nextVolts want s = some (target, mv)) ∧
    (∃ (d : Nat × Nat) (s : State), s.hub.tempAlert = none ∧ (liveSensors s).find? (fun d => decide (864 ≤ sensorTemp s d)) = some d) ∧
    (∃ (a : Nat) (s : State), s.hub.tempAlert = some a ∧ (liveSensors s).all (fun d => decide (sensorTemp s d ≤ 824)) = true) :=
  ⟨⟨750, 750, 790, ((up.setFld PWR_AVS_CFG.ENABLE 1).setFld PWR_AVS_CFG.VMAX 800), by decide +kernel⟩,
   ⟨750, 750, 790, ((up.setFld PWR_AVS_CFG.ENABLE 1).setFld PWR_AVS_CFG.VMAX 800), by decide +kernel⟩,
   ⟨(8, 1), (up.setFld (CAL_HUB_TEMP.TEMP 1) 864), by decide +kernel⟩,
   ⟨0, (up.modHub (fun h => { h with tempAlert := some 0 })), by decide +kernel⟩⟩

set_option maxRecDepth 20000 in
/-- The conditions of each clause of BoardTestAndTap can hold (boardTestBegin, boardTestEnd). -/
theorem board_test_and_tap_can_hold :
    (∃ (load : BoardLoad) (s : State), isBoardTest load.ir = true ∧ s.hub.boardTest ≠ some load.ir) ∧
    (∃ (j : Nat) (s : State), s.hub.boardTest = some j) :=
  ⟨⟨⟨4, [], 0⟩, up, by decide +kernel⟩,
   ⟨3, (up.modHub (fun h => { h with boardTest := some 3 })), by decide +kernel⟩⟩

set_option maxRecDepth 20000 in
/-- The conditions of each clause of ResetsBeginAndEnd can hold (railGood, railGood, railLost, railLost, resetNRelease, deviceResetStart, deviceResetEnd). -/
theorem resets_begin_and_end_can_hold :
    (∃ (r : Fin 7) (s : State), bit (s.fld PWR_RAIL_STATUS.GOOD) r = false) ∧
    (∃ (r : Fin 7) (s : State), bit (s.fld PWR_RAIL_STATUS.GOOD) r = false ∧ railsGood (s.setFld ⟨PWR_RAIL_STATUS, r, r⟩ 1) = true ∧ s.hub.resetting = true ∧ (resetCause s = 1 ∨ resetCause s = 3)) ∧
    (∃ (r : Fin 7) (s : State), bit (s.fld PWR_RAIL_STATUS.GOOD) r = true ∧ r.val = 6) ∧
    (∃ (r : Fin 7) (s : State), bit (s.fld PWR_RAIL_STATUS.GOOD) r = true ∧ r.val ≠ 6 ∧ s.hub.resetting = false) ∧
    (∃ (s : State), s.hub.resetting = true ∧ resetCause s = 2 ∧ railsGood s = true) ∧
    (∃ (s : State), s.hub.resetDue = true) ∧
    (∃ (s : State), s.hub.resetting = true ∧ (resetCause s = 4 ∨ resetCause s = 5)) :=
  ⟨⟨3, (up.setReg PWR_RAIL_STATUS 0), by decide +kernel⟩,
   ⟨3, (((up.setReg PWR_RAIL_STATUS 0x77).setFld PWR_RESET_CAUSE.CAUSE 3).modHub (fun h => { h with resetting := true })), by decide +kernel⟩,
   ⟨6, (up.setReg PWR_RAIL_STATUS 0x7F), by decide +kernel⟩,
   ⟨2, (up.setReg PWR_RAIL_STATUS 0x7F), by decide +kernel⟩,
   ⟨(((up.setReg PWR_RAIL_STATUS 0x7F).setFld PWR_RESET_CAUSE.CAUSE 2).modHub (fun h => { h with resetting := true })), by decide +kernel⟩,
   ⟨(up.modHub (fun h => { h with resetDue := true })), by decide +kernel⟩,
   ⟨((up.setFld PWR_RESET_CAUSE.CAUSE 4).modHub (fun h => { h with resetting := true })), by decide +kernel⟩⟩

set_option maxRecDepth 20000 in
/-- The conditions of each clause of ResetsBeginAndEnd can hold (bootWatchdogExpire, bootStepDone). -/
theorem resets_begin_and_end_can_hold_2 :
    (∃ (s : State), s.hub.resetting = false ∧ s.flag PWR_PHASE.READY = false ∧ s.fld PWR_PHASE.BOOT_STEP ≠ 0) ∧
    (∃ (s : State), stepEnds s = true ∧ s.fld PWR_PHASE.BOOT_STEP ≤ 8) :=
  ⟨⟨(State.reset.setFld PWR_PHASE.BOOT_STEP 9), by decide +kernel⟩,
   ⟨((State.reset.setFld PWR_PHASE.BOOT_STEP 5).modHub (fun h => { h with resetting := false })), by decide +kernel⟩⟩

set_option maxRecDepth 20000 in
/-- The conditions of each clause of RingInputsSyncAndBreak can hold (ringInputSync, ringSyncLoss, ringGlitch, ringBreak, ringRestored). -/
theorem ring_inputs_sync_and_break_can_hold :
    (∃ (r : Fin 2) (s : State), bypassed s = false ∧ s.flag (ringSync r) = false) ∧
    (∃ (r : Fin 2) (s : State), bypassed s = false ∧ s.flag (ringSync r) = true) ∧
    (∃ (r : Fin 2) (t0 : Nat) (s : State), bypassed s = false ∧ s.flag (ringSync r) = false ∧ ringLost s r = some t0 ∧ s.flag (ringBroken r) = false) ∧
    (∃ (r : Fin 2) (t0 : Nat) (s : State), bypassed s = false ∧ ringLost s r = some t0 ∧ s.flag (ringBroken r) = false) ∧
    (∃ (r : Fin 2) (t0 : Nat) (s : State), bypassed s = false ∧ s.flag (ringSync r) = false ∧ s.flag (ringBroken r) = true ∧ ringLost s r = some t0) :=
  ⟨⟨1, ((((up.setFld CLK_STATUS.REF_QUAL 1).setFld CLK_STATUS.RINGPLL_LOCK 1).setFld MR_STATUS.MR0_SYNC 1).setFld MR_ID.ASSIGNED 1), by decide +kernel⟩,
   ⟨0, ((((up.setFld CLK_STATUS.REF_QUAL 1).setFld CLK_STATUS.RINGPLL_LOCK 1).setFld MR_STATUS.MR0_SYNC 1).setFld MR_ID.ASSIGNED 1), by decide +kernel⟩,
   ⟨1, 0, (((((up.setFld CLK_STATUS.REF_QUAL 1).setFld CLK_STATUS.RINGPLL_LOCK 1).setFld MR_STATUS.MR0_SYNC 1).setFld MR_ID.ASSIGNED 1).modHub (fun h => { h with lost1 := some 0 })), by decide +kernel⟩,
   ⟨1, 0, (((((up.setFld CLK_STATUS.REF_QUAL 1).setFld CLK_STATUS.RINGPLL_LOCK 1).setFld MR_STATUS.MR0_SYNC 1).setFld MR_ID.ASSIGNED 1).modHub (fun h => { h with lost1 := some 0 })), by decide +kernel⟩,
   ⟨1, 0, ((((((up.setFld CLK_STATUS.REF_QUAL 1).setFld CLK_STATUS.RINGPLL_LOCK 1).setFld MR_STATUS.MR0_SYNC 1).setFld MR_ID.ASSIGNED 1).modHub (fun h => { h with lost1 := some 0 })).setFld MR_STATUS.MR1_BREAK 1), by decide +kernel⟩⟩

set_option maxRecDepth 20000 in
/-- The conditions of each clause of PacketsAndRingControl can hold (packetForward, packetRx, enumerate, seqEpoch, ringPing, ringControlReserved). -/
theorem packets_and_ring_control_can_hold :
    (∃ (r : Fin 2) (rx : RingRx) (pk : Packet) (s : State), packetOf rx = pk ∧ hears s r = true ∧ toMe s pk = false ∧ toAll pk = false) ∧
    (∃ (r : Fin 2) (rx : RingRx) (pk : Packet) (s : State), packetOf rx = pk ∧ hears s r = true ∧ toMe s pk = true ∧ isControl (pkOp pk) = false ∧ intact pk = true ∧ fromHost pk = true ∧ crcPasses pk = true ∧ (inUse s).any (fun q => sameTag q (pkCommand r pk)) = false ∧ s.kept.find? (fun k => sameCmd k.pkt (pkCommand r pk)) = none ∧ s.queued.length + s.running.length < 32) ∧
    (∃ (r : Fin 2) (rx : RingRx) (pk : Packet) (i : Nat) (s : State), packetOf rx = pk ∧ controlOf s r pk 0xF0 = true ∧ controlActs pk 9 = true ∧ s.fld MR_ID.STRAP = 0x3F ∧ (List.range 64).find? (fun i => !bit (ofBytesLsb ((pkBody pk).drop 1)) i) = some i) ∧
    (∃ (r : Fin 2) (rx : RingRx) (pk : Packet) (s : State), packetOf rx = pk ∧ controlOf s r pk 0xF1 = true ∧ controlActs pk 7 = true ∧ (s.flag MR_STATUS.EPOCH_SET = false ∨ later (ofBytesLsb ((pkBody pk).take 4)) (bits (s.val64 MR_SEQ) 47 16) = true)) ∧
    (∃ (r : Fin 2) (rx : RingRx) (pk : Packet) (s : State), packetOf rx = pk ∧ controlOf s r pk 0xF2 = true) ∧
    (∃ (r : Fin 2) (rx : RingRx) (pk : Packet) (s : State), packetOf rx = pk ∧ hears s r = true ∧ 0xF3 ≤ pkOp pk ∧ pkOp pk ≤ 0xFF ∧ toMe s pk = false) :=
  ⟨⟨0, (heardPacket (([0xC3, 7, 0x80, 1, 1, 0, 0, 0, 0, 0, 0, 0, 0, 0, 0, 0] ++ []) ++ bytesLsb 4 (crc32c ([0xC3, 7, 0x80, 1, 1, 0, 0, 0, 0, 0, 0, 0, 0, 0, 0, 0] ++ [])))), (packetOf (heardPacket (([0xC3, 7, 0x80, 1, 1, 0, 0, 0, 0, 0, 0, 0, 0, 0, 0, 0] ++ []) ++ bytesLsb 4 (crc32c ([0xC3, 7, 0x80, 1, 1, 0, 0, 0, 0, 0, 0, 0, 0, 0, 0, 0] ++ []))))), ((((up.setFld CLK_STATUS.REF_QUAL 1).setFld CLK_STATUS.RINGPLL_LOCK 1).setFld MR_STATUS.MR0_SYNC 1).setFld MR_ID.ASSIGNED 1), by decide +kernel⟩,
   ⟨0, (heardPacket (([0xC3, 0, 0x80, 1, 1, 0, 0, 0, 0, 0, 0, 0, 0, 0, 0, 0] ++ []) ++ bytesLsb 4 (crc32c ([0xC3, 0, 0x80, 1, 1, 0, 0, 0, 0, 0, 0, 0, 0, 0, 0, 0] ++ [])))), (packetOf (heardPacket (([0xC3, 0, 0x80, 1, 1, 0, 0, 0, 0, 0, 0, 0, 0, 0, 0, 0] ++ []) ++ bytesLsb 4 (crc32c ([0xC3, 0, 0x80, 1, 1, 0, 0, 0, 0, 0, 0, 0, 0, 0, 0, 0] ++ []))))), ((((up.setFld CLK_STATUS.REF_QUAL 1).setFld CLK_STATUS.RINGPLL_LOCK 1).setFld MR_STATUS.MR0_SYNC 1).setFld MR_ID.ASSIGNED 1), by decide +kernel⟩,
   ⟨0, (heardPacket (([0xC3, 255, 0x80, 1, 240, 0, 0, 9, 0, 0, 0, 0, 0, 0, 0, 0] ++ [5, 1, 0, 0, 0, 0, 0, 0, 0]) ++ bytesLsb 4 (crc32c ([0xC3, 255, 0x80, 1, 240, 0, 0, 9, 0, 0, 0, 0, 0, 0, 0, 0] ++ [5, 1, 0, 0, 0, 0, 0, 0, 0])))), (packetOf (heardPacket (([0xC3, 255, 0x80, 1, 240, 0, 0, 9, 0, 0, 0, 0, 0, 0, 0, 0] ++ [5, 1, 0, 0, 0, 0, 0, 0, 0]) ++ bytesLsb 4 (crc32c ([0xC3, 255, 0x80, 1, 240, 0, 0, 9, 0, 0, 0, 0, 0, 0, 0, 0] ++ [5, 1, 0, 0, 0, 0, 0, 0, 0]))))), 1, (((((up.setFld CLK_STATUS.REF_QUAL 1).setFld CLK_STATUS.RINGPLL_LOCK 1).setFld MR_STATUS.MR0_SYNC 1).setFld MR_ID.ASSIGNED 1).setFld MR_ID.STRAP 63), by decide +kernel⟩,
   ⟨0, (heardPacket (([0xC3, 255, 0x80, 1, 241, 0, 0, 7, 0, 0, 0, 0, 0, 0, 0, 0] ++ [5, 1, 0, 0, 20, 0, 0]) ++ bytesLsb 4 (crc32c ([0xC3, 255, 0x80, 1, 241, 0, 0, 7, 0, 0, 0, 0, 0, 0, 0, 0] ++ [5, 1, 0, 0, 20, 0, 0])))), (packetOf (heardPacket (([0xC3, 255, 0x80, 1, 241, 0, 0, 7, 0, 0, 0, 0, 0, 0, 0, 0] ++ [5, 1, 0, 0, 20, 0, 0]) ++ bytesLsb 4 (crc32c ([0xC3, 255, 0x80, 1, 241, 0, 0, 7, 0, 0, 0, 0, 0, 0, 0, 0] ++ [5, 1, 0, 0, 20, 0, 0]))))), ((((up.setFld CLK_STATUS.REF_QUAL 1).setFld CLK_STATUS.RINGPLL_LOCK 1).setFld MR_STATUS.MR0_SYNC 1).setFld MR_ID.ASSIGNED 1), by decide +kernel⟩,
   ⟨0, (heardPacket (([0xC3, 255, 0x80, 1, 242, 0, 0, 0, 0, 0, 0, 0, 0, 0, 0, 0] ++ []) ++ bytesLsb 4 (crc32c ([0xC3, 255, 0x80, 1, 242, 0, 0, 0, 0, 0, 0, 0, 0, 0, 0, 0] ++ [])))), (packetOf (heardPacket (([0xC3, 255, 0x80, 1, 242, 0, 0, 0, 0, 0, 0, 0, 0, 0, 0, 0] ++ []) ++ bytesLsb 4 (crc32c ([0xC3, 255, 0x80, 1, 242, 0, 0, 0, 0, 0, 0, 0, 0, 0, 0, 0] ++ []))))), ((((up.setFld CLK_STATUS.REF_QUAL 1).setFld CLK_STATUS.RINGPLL_LOCK 1).setFld MR_STATUS.MR0_SYNC 1).setFld MR_ID.ASSIGNED 1), by decide +kernel⟩,
   ⟨0, (heardPacket (([0xC3, 255, 0x80, 1, 245, 0, 0, 0, 0, 0, 0, 0, 0, 0, 0, 0] ++ []) ++ bytesLsb 4 (crc32c ([0xC3, 255, 0x80, 1, 245, 0, 0, 0, 0, 0, 0, 0, 0, 0, 0, 0] ++ [])))), (packetOf (heardPacket (([0xC3, 255, 0x80, 1, 245, 0, 0, 0, 0, 0, 0, 0, 0, 0, 0, 0] ++ []) ++ bytesLsb 4 (crc32c ([0xC3, 255, 0x80, 1, 245, 0, 0, 0, 0, 0, 0, 0, 0, 0, 0, 0] ++ []))))), ((((up.setFld CLK_STATUS.REF_QUAL 1).setFld CLK_STATUS.RINGPLL_LOCK 1).setFld MR_STATUS.MR0_SYNC 1).setFld MR_ID.ASSIGNED 1), by decide +kernel⟩⟩

set_option maxRecDepth 20000 in
/-- The conditions of each clause of ExecutorsNoticesAndRetention can hold (commandStart, commandStart, commandTimeout, noticeSend, noticeSend, intRepeatExpire, seqTickSaturate). -/
theorem executors_notices_and_retention_can_hold :
    (∃ (p : Pkt) (rest : List Pkt) (s : State), s.queued = p :: rest ∧ halted s = false ∧ s.hub.resetDue = false ∧ s.hub.resetting = false ∧ s.running.length < 4 ∧ fenced s = false ∧ (bit p.call.flags 0 = true → s.running = []) ∧ opcodes.contains p.op = true) ∧
    (∃ (p : Pkt) (rest : List Pkt) (s : State), s.queued = p :: rest ∧ halted s = false ∧ s.hub.resetDue = false ∧ s.hub.resetting = false ∧ s.running.length < 4 ∧ fenced s = false ∧ (bit p.call.flags 0 = true → s.running = []) ∧ opcodes.contains p.op = false ∧ isReady s = true ∧ bit p.call.flags 2 = false) ∧
    (∃ (src : Nat) (tag : Nat) (p : Pkt) (s : State), s.running.find? (fun p => p.call.src == src && p.call.tag == tag) = some p ∧ isLong p.op = false ∧ halted s = false ∧ bit p.call.flags 2 = false) ∧
    (∃ (ty : Nat) (ring : Nat) (arg : Nat) (rest : List (Nat × Nat × Nat)) (s : State), bypassed s = false ∧ s.hub.notices = (ty, ring, arg) :: rest) ∧
    (∃ (s : State), bypassed s = false ∧ s.hub.notices = [] ∧ summary s &&& s.hub.notified ≠ summary s) ∧
    (∃ (s : State), bypassed s = false ∧ s.fld MR_CFG.INT_REPEAT ≠ 0 ∧ summary s ≠ 0 ∧ s.hub.notified ≠ 0) ∧
    (∃ (s : State), s.flag MR_STATUS.SEQ_STALE = false) :=
  ⟨⟨⟨call [], 1, 0⟩, [], { up with queued := [⟨call [], 1, 0⟩] }, by decide +kernel⟩,
   ⟨⟨call [], 0x7777, 0⟩, [], { up with queued := [⟨call [], 0x7777, 0⟩] }, by decide +kernel⟩,
   ⟨0x80, 1, ⟨call [], 1, 0⟩, { up with running := [⟨call [], 1, 0⟩] }, by decide +kernel⟩,
   ⟨2, 0, 5, [], (((((up.setFld CLK_STATUS.REF_QUAL 1).setFld CLK_STATUS.RINGPLL_LOCK 1).setFld MR_STATUS.MR0_SYNC 1).setFld MR_ID.ASSIGNED 1).modHub (fun h => { h with notices := [(2, 0, 5)] })), by decide +kernel⟩,
   ⟨((((((up.setFld CLK_STATUS.REF_QUAL 1).setFld CLK_STATUS.RINGPLL_LOCK 1).setFld MR_STATUS.MR0_SYNC 1).setFld MR_ID.ASSIGNED 1).setFld ⟨HUB_INT_STATUS, 1, 1⟩ 1).setReg HUB_INT_ENABLE 0xFFFFFFFF), by decide +kernel⟩,
   ⟨((((((((up.setFld CLK_STATUS.REF_QUAL 1).setFld CLK_STATUS.RINGPLL_LOCK 1).setFld MR_STATUS.MR0_SYNC 1).setFld MR_ID.ASSIGNED 1).setFld ⟨HUB_INT_STATUS, 1, 1⟩ 1).setReg HUB_INT_ENABLE 0xFFFFFFFF).setFld MR_CFG.INT_REPEAT 1).modHub (fun h => { h with notified := 2 })), by decide +kernel⟩,
   ⟨(up.setFld MR_STATUS.SEQ_STALE 0), by decide +kernel⟩⟩

set_option maxRecDepth 20000 in
/-- The conditions of each clause of ConfigurationCheckAndLocks can hold (cfgWalkerPass, cfgWalkerPass, cfgCommit, commitPassDone, cfgCheckEnableWrite, cfgCheckEnableWrite, cfgFencedClear). -/
theorem configuration_check_and_locks_can_hold :
    (∃ (s : State), walkersRun s = true) ∧
    (∃ (s : State), walkersRun s = true) ∧
    (∃ (s : State), s.hub.commit = none ∧ s.hub.commits = []) ∧
    (∃ (cause : Nat) (s : State), s.hub.commit = some (cause, none) ∧ s.hub.commits = []) ∧
    (∃ (s : State), windowOver s = false ∧ isLocked s = false) ∧
    (∃ (s : State), windowOver s = false ∧ isLocked s = true) ∧
    (∃ (s : State), s.flag CFG_CHECK_STATUS.FENCED = true) :=
  ⟨⟨((up.setFld CFG_CHECK_CFG.ENABLE 1).modHub (fun h => { h with resetting := false })), by decide +kernel⟩,
   ⟨((up.setFld CFG_CHECK_CFG.ENABLE 1).modHub (fun h => { h with resetting := false })), by decide +kernel⟩,
   ⟨up, by decide +kernel⟩,
   ⟨1, (up.modHub (fun h => { h with commit := some (1, none), commits := [] })), by decide +kernel⟩,
   ⟨(up.setFld PWR_PHASE.PHASE 1), by decide +kernel⟩,
   ⟨((up.setFld PWR_PHASE.PHASE 1).setFld HUB_LOCK.LOCK 1), by decide +kernel⟩,
   ⟨(up.setFld CFG_CHECK_STATUS.FENCED 1), by decide +kernel⟩⟩

set_option maxRecDepth 20000 in
/-- The conditions of each clause of ConfigurationCheckAndLocks can hold (hubLockWrite, unlockKeyWrite, unlockKeyWrite, unlockWindowExpire). -/
theorem configuration_check_and_locks_can_hold_2 :
    (∃ (v : Word) (s : State), bit v.toNat 0 = true ∧ s.fld PWR_PHASE.PHASE = 1 ∧ s.fld HUB_LOCK.LOCK = 0) ∧
    (∃ (v : Word) (s : State), s.fld PWR_PHASE.PHASE ≠ 1 ∧ v.toNat % 65536 = 0x5EA7) ∧
    (∃ (v : Word) (s : State), s.fld PWR_PHASE.PHASE ≠ 1 ∧ v.toNat % 65536 ≠ 0x5EA7) ∧
    (∃ (t0 : Nat) (m : Nat) (s : State), s.hub.window = some (t0, m)) :=
  ⟨⟨1, (up.setFld PWR_PHASE.PHASE 1), by decide +kernel⟩,
   ⟨0x5EA7, up, by decide +kernel⟩,
   ⟨0x5EA8, up, by decide +kernel⟩,
   ⟨0, 1, (up.modHub (fun h => { h with window := some (0, 1) })), by decide +kernel⟩⟩

set_option maxRecDepth 20000 in
/-- The conditions of each clause of PorterCompletionsHaltsAndTakeover can hold (completionAccept, completionAccept, porterHalt, porterBreakpoint, porterResume, porterStep, dbgCoreDataAccess). -/
theorem porter_completions_halts_and_takeover_can_hold :
    (∃ (c : Completion) (j : Job) (s : State), halted s = false ∧ nextCompletion s.completions = some c ∧ c.run = false ∧ s.jobs.find? (fun j => j.num == c.job) = some j) ∧
    (∃ (c : Completion) (s : State), halted s = true ∧ nextCompletion s.completions = some c ∧ s.hub.porterQ.length < 512) ∧
    (∃ (s : State), halted s = false ∧ porterUp s = true) ∧
    (∃ (i : Fin 4) (pc : Word) (s : State), halted s = false ∧ porterUp s = true ∧ s.flag (DBG_BREAK.EN i) = true ∧ s.fld (DBG_BREAK.ADDR i) = pc.toNat / 4) ∧
    (∃ (s : State), halted s = true) ∧
    (∃ (s : State), halted s = true) ∧
    (∃ (s : State), halted s = true ∧ s.fld DBG_CORE_ADDR.SPACE ≠ 3) :=
  ⟨⟨⟨5, 0, 1, 3, 0, 9, false⟩, ⟨3, 0x0205, 0x80, 1, 0, false, 0, 0, 0, 0, [], []⟩, { up with completions := [⟨5, 0, 1, 3, 0, 9, false⟩], jobs := [⟨3, 0x0205, 0x80, 1, 0, false, 0, 0, 0, 0, [], []⟩] }, by decide +kernel⟩,
   ⟨⟨5, 0, 1, 3, 0, 9, false⟩, { (up.setFld DBG_PORTER_STATUS.HALTED 1) with completions := [⟨5, 0, 1, 3, 0, 9, false⟩] }, by decide +kernel⟩,
   ⟨(up.modHub (fun h => { h with resetting := false })), by decide +kernel⟩,
   ⟨2, 0x100, (((up.modHub (fun h => { h with resetting := false })).setFld (DBG_BREAK.EN 2) 1).setFld (DBG_BREAK.ADDR 2) 0x40), by decide +kernel⟩,
   ⟨(up.setFld DBG_PORTER_STATUS.HALTED 1), by decide +kernel⟩,
   ⟨(up.setFld DBG_PORTER_STATUS.HALTED 1), by decide +kernel⟩,
   ⟨(up.setFld DBG_PORTER_STATUS.HALTED 1), by decide +kernel⟩⟩

set_option maxRecDepth 20000 in
/-- The conditions of each clause of PorterCompletionsHaltsAndTakeover can hold (dbgCoreDataAccess, porterTakeover, porterTakeover). -/
theorem porter_completions_halts_and_takeover_can_hold_2 :
    (∃ (v : Word) (s : State), halted s = true ∧ s.fld DBG_CORE_ADDR.SPACE ≠ 3 ∧ SMap.get (fun _ => none) s.core (coreKey s) = some v) ∧
    (∃ (cause : Nat) (s : State), porterUp s = true ∧ 1 ≤ cause ∧ cause ≤ 3 ∧ (halted s = true → cause ≠ 3) ∧ s.flag BIST_PORTER_STATUS.STANDBY_READY = true) ∧
    (∃ (cause : Nat) (s : State), porterUp s = true ∧ 1 ≤ cause ∧ cause ≤ 3 ∧ (halted s = true → cause ≠ 3) ∧ s.flag BIST_PORTER_STATUS.STANDBY_READY = false) :=
  ⟨⟨7, { (up.setFld DBG_PORTER_STATUS.HALTED 1) with core := [(0, some 7)] }, by decide +kernel⟩,
   ⟨2, ((up.modHub (fun h => { h with resetting := false })).setFld BIST_PORTER_STATUS.STANDBY_READY 1), by decide +kernel⟩,
   ⟨2, (up.modHub (fun h => { h with resetting := false })), by decide +kernel⟩⟩

set_option maxRecDepth 20000 in
/-- The conditions of each clause of GuestbookAndSystemArea can hold (gbEventAccept, gbEventAccept, gbRecordWrite, gbClearDoorbell, opSecondsStore). -/
theorem guestbook_and_system_area_can_hold :
    (∃ (e : Event) (rest : List Event) (s : State), s.raised = e :: rest ∧ e.code < 0xB000 ∧ s.flag GB_STATUS.FULL = false ∧ s.gbQueue.length < 512 ∧ gbLimit s e.code = 0 ∧ (s.reg GB_RECORDED).toNat < 2 ^ 32 - 2) ∧
    (∃ (e : Event) (rest : List Event) (s : State), s.raised = e :: rest ∧ e.code < 0xB000 ∧ s.flag GB_STATUS.FULL = true ∧ gbLimit s e.code = 0) ∧
    (∃ (slot : Nat) (bs : List Nat) (rest : List (Nat × List Nat)) (s : State), s.gbQueue = (slot, bs) :: rest ∧ s.flag CLK_STATUS.REF_QUAL = true ∧ 2 ≤ s.fld PWR_PHASE.BOOT_STEP) ∧
    (∃ (s : State), s.flag CLK_STATUS.REF_QUAL = true ∧ s.nvByte 0x7A0008 ≠ (s.fld GB_STATUS.GEN + 1) % 256) ∧
    (∃ (s : State), s.flag CLK_STATUS.REF_QUAL = true) :=
  ⟨⟨⟨0x2010, 1, [1, 2]⟩, [], { (up.setFld GB_RATE_DEFAULT.LIMIT 0) with raised := [⟨0x2010, 1, [1, 2]⟩] }, by decide +kernel⟩,
   ⟨⟨0x2010, 1, [1, 2]⟩, [], { ((up.setFld GB_RATE_DEFAULT.LIMIT 0).setFld GB_STATUS.FULL 1) with raised := [⟨0x2010, 1, [1, 2]⟩] }, by decide +kernel⟩,
   ⟨3, [1, 2], [], { (up.setFld CLK_STATUS.REF_QUAL 1) with gbQueue := [(3, [1, 2])] }, by decide +kernel⟩,
   ⟨(up.setFld CLK_STATUS.REF_QUAL 1), by decide +kernel⟩,
   ⟨(up.setFld CLK_STATUS.REF_QUAL 1), by decide +kernel⟩⟩

set_option maxRecDepth 20000 in
/-- The conditions of each clause of CalibrationRunsAndTrims can hold (calRunStart, calRunStart, calRunDone, calRunTimeout, calRetry, calRunStartTimeout, trimTrackTick). -/
theorem calibration_runs_and_trims_can_hold :
    (∃ (item : Nat) (target : Nat) (ref : RefMeas) (k : Claim) (s : State), calValid item target = true ∧ s.flag CLK_STATUS.REF_QUAL = true ∧ s.calRuns.any (fun r => (servingSensor r.item r.target).1 == (servingSensor item target).1) = false ∧ nextRun s (servingSensor item target).1 = some (item, target) ∧ calClaim s item target = some k ∧ (item = 3 ∨ (if item = 4 then ref.rcal.natAbs ≤ 500 else ref.vref.natAbs ≤ 200))) ∧
    (∃ (item : Nat) (target : Nat) (ref : RefMeas) (s : State), calValid item target = true ∧ s.flag CLK_STATUS.REF_QUAL = true ∧ s.calRuns.any (fun r => (servingSensor r.item r.target).1 == (servingSensor item target).1) = false ∧ nextRun s (servingSensor item target).1 = some (item, target) ∧ calClaim s item target = none ∧ grantable s 2 (calRes item target) = true ∧ (item = 3 ∨ (if item = 4 then ref.rcal.natAbs ≤ 500 else ref.vref.natAbs ≤ 200))) ∧
    (∃ (item : Nat) (target : Nat) (r : CalRun) (s : State), s.calRuns.find? (fun r => r.item == item && r.target == target) = some r ∧ (item = 3 ∨ refHolder s = some r)) ∧
    (∃ (item : Nat) (target : Nat) (r : CalRun) (s : State), s.calRuns.find? (fun r => r.item == item && r.target == target) = some r) ∧
    (∃ (item : Nat) (target : Nat) (s : State), (s.cal item target).state = 7) ∧
    (∃ (item : Nat) (target : Nat) (s : State), (s.cal item target).asked ≠ [] ∧ calRunning s item target = false) ∧
    (∃ (die : Nat) (i : Nat) (s : State), die < 8 ∧ i < 4 ∧ s.flag (TILE_TEMP.STALE die i) = false ∧ (s.dom (0x020 + die)).state = 3) :=
  ⟨⟨6, 0x800, ⟨0, 0⟩, ⟨7, 2, 0x6000800, none, 0xFF, false⟩, ({ (up.setFld CLK_STATUS.REF_QUAL 1) with claims := [⟨7, 2, 0x6000800, none, 0xFF, false⟩] }.modCal 6 0x800 (fun c => { c with asked := [3] })), by decide +kernel⟩,
   ⟨6, 0x800, ⟨0, 0⟩, ((up.setFld CLK_STATUS.REF_QUAL 1).modCal 6 0x800 (fun c => { c with asked := [3] })), by decide +kernel⟩,
   ⟨6, 0x800, ⟨6, 0x800, 0, false⟩, { up with calRuns := [⟨6, 0x800, 0, false⟩] }, by decide +kernel⟩,
   ⟨6, 0x800, ⟨6, 0x800, 0, false⟩, { up with calRuns := [⟨6, 0x800, 0, false⟩] }, by decide +kernel⟩,
   ⟨6, 0x800, (up.modCal 6 0x800 (fun c => { c with state := 7 })), by decide +kernel⟩,
   ⟨6, 0x800, ((up.setFld CLK_STATUS.REF_QUAL 1).modCal 6 0x800 (fun c => { c with asked := [3] })), by decide +kernel⟩,
   ⟨0, 1, up, by decide +kernel⟩⟩

set_option maxRecDepth 20000 in
/-- The conditions of each clause of DiagnosticRunsAndHistory can hold (reflectStart, diagCtrlAbort, mapsStart, reflectDone, mapsDone, historyRecord). -/
theorem diagnostic_runs_and_history_can_hold :
    (∃ (n : Port) (p : Pair) (v : Word) (s : State), bit v.toNat 31 = true ∧ bit v.toNat 30 = false ∧ bit v.toNat 24 = false ∧ s.flag (DIAG_STATUS.BUSY n p) = false ∧ reflectReason s n p = 0) ∧
    (∃ (n : Port) (p : Pair) (s : State), reflecting s (gpair n p) = true) ∧
    (∃ (n : Port) (p : Pair) (v : Word) (s : State), bit v.toNat 31 = true ∧ bit v.toNat 30 = false ∧ bit v.toNat 24 = true ∧ s.flag (DIAG_STATUS.BUSY n p) = false ∧ portShow s n = true ∧ (carriers s n).any (fun q => isStale (s.pair n q)) = false) ∧
    (∃ (n : Port) (p : Pair) (s : State), reflecting s (gpair n p) = true) ∧
    (∃ (n : Port) (p : Pair) (s : State), s.flag (DIAG_STATUS.BUSY n p) = true ∧ s.fld (DIAG_STATUS.KIND n p) = 1) ∧
    (∃ (n : Port) (s : State), s.flag (DIAG_HIST_CFG.HIST_EN n) = true) :=
  ⟨⟨0, 1, 0x80010003, { up with claims := [⟨7, 3, 1, some 1, 0x80, true⟩] }, by decide +kernel⟩,
   ⟨0, 1, ((up.setFld (DIAG_STATUS.BUSY 0 1) 1).setFld (DIAG_STATUS.KIND 0 1) 0), by decide +kernel⟩,
   ⟨0, 1, 0x81000000, (up.modLink l0 (fun k => { k with phase := 7, carry := 15, carryRx := 15 })), by decide +kernel⟩,
   ⟨0, 1, ((up.setFld (DIAG_STATUS.BUSY 0 1) 1).setFld (DIAG_STATUS.KIND 0 1) 0), by decide +kernel⟩,
   ⟨0, 1, ((up.setFld (DIAG_STATUS.BUSY 0 1) 1).setFld (DIAG_STATUS.KIND 0 1) 1), by decide +kernel⟩,
   ⟨0, (up.setFld (DIAG_HIST_CFG.HIST_EN 0) 1), by decide +kernel⟩⟩

set_option maxRecDepth 20000 in
/-- The conditions of each clause of ClaimGrantsGoOn can hold (claimGrant, claimGrant, claimGrant). -/
theorem claim_grants_go_on_can_hold :
    (∃ (p : Pkt) (h : Nat) (gs : List (Pkt × Nat)) (s : State), halted s = false ∧ s.granted = (p, h) :: gs ∧ p.op = 0x0900 ∧ bit p.call.flags 2 = false ∧ s.claims.any (fun x => x.handle == h) = true) ∧
    (∃ (w : Waiting) (rest : List Waiting) (i : Nat) (k : Nat) (s : State), (halted s = true ∨ s.granted = []) ∧ firstGrant s [] s.waiting = some (w, rest) ∧ w.why = .cal i k) ∧
    (∃ (w : Waiting) (rest : List Waiting) (p : Pkt) (s : State), halted s = false ∧ s.granted = [] ∧ firstGrant s [] s.waiting = some (w, rest) ∧ w.why = .command p ∧ p.op = 0x0900 ∧ bit p.call.flags 2 = false) :=
  ⟨⟨⟨call [6, 0, 0, 0, 135, 0, 0, 0], 0x0900, 0⟩, 7, [], { up with granted := [(⟨call [6, 0, 0, 0, 135, 0, 0, 0], 0x0900, 0⟩, 7)], claims := [⟨7, 6, 135, none, 0x80, true⟩] }, by decide +kernel⟩,
   ⟨⟨2, 0x6000800, none, 0xFF, .cal 6 0x800⟩, [], 6, 0x800, { up with waiting := [⟨2, 0x6000800, none, 0xFF, .cal 6 0x800⟩] }, by decide +kernel⟩,
   ⟨⟨6, 135, none, 0x80, .command ⟨call [6, 0, 0, 0, 135, 0, 0, 0], 0x0900, 0⟩⟩, [], ⟨call [6, 0, 0, 0, 135, 0, 0, 0], 0x0900, 0⟩, { up with waiting := [⟨6, 135, none, 0x80, .command ⟨call [6, 0, 0, 0, 135, 0, 0, 0], 0x0900, 0⟩⟩] }, by decide +kernel⟩⟩

end Sys2Proof.Tests
end

section
/-! PROOF. The CRC-32C of the model is the shift register that R6 describes: the model's register is the reversal of that one, and the eight shifts
of a byte take its bits least significant first. -/
namespace Sys2Proof.Claims
open Sys2Proof Sys2Proof.Machine

/-! ### One byte is eight bits, least significant first -/

/-- One bit into the model's CRC-32C register: it meets the register's lowest bit, and the register goes down by one. -/
def crc32cTake (c : Nat) (b : Bool) : Nat := crc32cBit (c ^^^ b.toNat)

theorem bit_zero_toNat (v : Nat) : (bit v 0).toNat = v % 2 := by
  rw [bit, Nat.toNat_testBit, Nat.pow_zero, Nat.div_one]

/-- What stands above the lowest bit passes through a shift: the feedback looks at the lowest bit alone. -/
theorem crc32cBit_xor_eq_take (c v : Nat) : crc32cBit (c ^^^ v) = crc32cTake c (bit v 0) ^^^ v / 2 := by
  have hfeed : (c ^^^ v) % 2 = (c ^^^ v % 2) % 2 := by simp [Nat.xor_mod_two_eq]
  have hshift : (c ^^^ v) / 2 = (c ^^^ v % 2) / 2 ^^^ v / 2 := by simp [Nat.xor_div_two]
  rw [crc32cTake, bit_zero_toNat, crc32cBit, crc32cBit, hfeed, hshift]
  split
  · exact Nat.xor_right_comm _ _ _
  · rfl

/-- `n` shifts of the register with `v` added to it take the lowest `n` bits of `v` one after another; the rest of `v` is still to come. -/
theorem iterate_crc32cBit_xor (n c v : Nat) :
    crc32cBit^[n] (c ^^^ v) = ((List.range n).map (bit v)).foldl crc32cTake c ^^^ v / 2 ^ n := by
  induction n with
  | zero => simp
  | succ n ih =>
    have hbit : bit (v / 2 ^ n) 0 = bit v n := by rw [bit, bit, Nat.testBit_div_two_pow, Nat.zero_add]
    rw [Function.iterate_succ_apply', ih, crc32cBit_xor_eq_take, hbit, Nat.div_div_eq_div_mul, ← Nat.pow_succ, List.range_succ]
    simp

theorem crc32cByte_eq_foldl_bits (c b : Nat) (hb : b < 256) :
    crc32cByte c b = ((List.range 8).map (bit b)).foldl crc32cTake c := by
  have hrest : b / 2 ^ 8 = 0 := Nat.div_eq_of_lt hb
  calc crc32cByte c b = crc32cBit^[8] (c ^^^ b) := rfl
    _ = ((List.range 8).map (bit b)).foldl crc32cTake c ^^^ b / 2 ^ 8 := iterate_crc32cBit_xor 8 c b
    _ = _ := by rw [hrest, Nat.xor_zero]

theorem foldl_crc32cByte_eq_foldl_bits (bs : List Nat) (hbs : ∀ b ∈ bs, b < 256) (c : Nat) :
    bs.foldl crc32cByte c = (bs.flatMap (fun b => (List.range 8).map (bit b))).foldl crc32cTake c := by
  rw [List.foldl_flatMap]
  exact List.foldl_ext _ _ c fun c b hb => crc32cByte_eq_foldl_bits c b (hbs b hb)

/-! ### The model's register is the manual's, reversed -/

theorem reverse_xor {w : Nat} (x y : BitVec w) : (x ^^^ y).reverse = x.reverse ^^^ y.reverse := by
  ext i hi
  simp [BitVec.getElem_reverse]

theorem reverse_toNat_mod_two {w : Nat} (r : BitVec w) : r.reverse.toNat % 2 = r.msb.toNat := by
  rw [← bit_zero_toNat, bit, BitVec.testBit_toNat, BitVec.getLsbD_reverse, BitVec.msb]

theorem reverse_shiftLeft_one_toNat {w : Nat} (r : BitVec w) : (r <<< 1).reverse.toNat = r.reverse.toNat / 2 := by
  refine Nat.eq_of_testBit_eq fun i => ?_
  rw [Nat.testBit_div_two, BitVec.testBit_toNat, BitVec.testBit_toNat, BitVec.getLsbD_reverse, BitVec.getLsbD_reverse,
    BitVec.getMsbD_shiftLeft, Nat.add_comm]

/-- A shift of the manual's register towards its most significant bit is a shift of the model's towards its lowest. -/
theorem crc32cTake_reverse (r : BitVec 32) (b : Bool) : crc32cTake r.reverse.toNat b = (crcShift r b).reverse.toNat := by
  have hpoly : (0x1EDC6F41#32).reverse.toNat = 0x82F63B78 := by decide +kernel
  have hbit : b.toNat / 2 = 0 := by cases b <;> rfl
  have hshift : (r.reverse.toNat ^^^ b.toNat) / 2 = (r <<< 1).reverse.toNat := by
    rw [Nat.xor_div_two, hbit, Nat.xor_zero, reverse_shiftLeft_one_toNat]
  have hfeed : (r.reverse.toNat ^^^ b.toNat) % 2 = 1 ↔ (r.msb != b) = true := by
    rw [Nat.xor_mod_two_eq, Nat.add_mod, reverse_toNat_mod_two]
    cases r.msb <;> cases b <;> decide
  simp only [crc32cTake, crc32cBit, crcShift, hfeed, hshift]
  split
  · rw [reverse_xor, BitVec.toNat_xor, hpoly]
  · rfl

theorem foldl_crc32cTake_reverse (bits : List Bool) (r : BitVec 32) :
    bits.foldl crc32cTake r.reverse.toNat = (bits.foldl crcShift r).reverse.toNat :=
  List.foldl_hom (fun r : BitVec 32 => r.reverse.toNat) crc32cTake_reverse

theorem crc32c_eq_crcOfParameters (bs : List Nat) (hbs : ∀ b ∈ bs, b < 256) : crc32c bs = (crcOfParameters bs).toNat := by
  have hones : (0xFFFFFFFF#32).reverse.toNat = 0xFFFFFFFF := by decide +kernel
  have hfold := foldl_crc32cTake_reverse (bs.flatMap fun b => (List.range 8).map (bit b)) 0xFFFFFFFF#32
  rw [hones, ← foldl_crc32cByte_eq_foldl_bits bs hbs] at hfold
  rw [crc32c, crcOfParameters, hfold, BitVec.toNat_xor, BitVec.toNat_ofNat]

/-- Settles O8: the model's register is the reversed one of R6, and each byte's eight shifts take its bits least significant first. -/
theorem crcHasTheParametersOfTheManual : Obligations.CrcHasTheParametersOfTheManual :=
  ⟨crc32c_eq_crcOfParameters, by decide +kernel⟩

end Sys2Proof.Claims
end

section
/-! SUPPORT. What the registers of a tile's common block and the host port's lane read right after reset. -/
namespace Sys2Proof.Machine

/-- An offset within a tile's common block is classified as that tile's (R447). -/
theorem classify_tileBase (t off : Nat) (ht : t < 8) (ho : off < 0x00100000) :
    classify (tileBase t + off) = some (.tile, t, off) := by
  have htile : (tileBase t + off - 0x10000000) / 0x01000000 = t := by unfold tileBase; omega
  have hoff : (tileBase t + off - 0x10000000) % 0x01000000 = off := by unfold tileBase; omega
  have hlow : ¬ tileBase t + off < 0x10000000 := by unfold tileBase; omega
  have hhigh : 0x10000000 ≤ tileBase t + off ∧ tileBase t + off < 0x18000000 := by unfold tileBase; omega
  unfold classify
  rw [if_neg (by omega), if_neg (by omega), if_neg (by omega), if_neg (by omega), if_neg (by omega), if_neg (by omega), if_neg (by omega),
    if_neg (by omega), if_neg (by omega), if_neg (by omega), if_neg (by omega), if_pos hhigh]
  simp only [htile, hoff, ho, if_true]

theorem regReset_of_indexReset {a v : Nat} {b : Blk} {i off : Nat} (hc : classify a = some (b, i, off)) (hv : indexReset b i off = some v) :
    regReset a = word v := by
  simp only [regReset, hc, hv]

/-- At reset a word of the crossbar map names four slices that follow one another (R23). -/
theorem regReset_TILE_XBAR_MAP (t q : Nat) (ht : t < 8) (hq : q < 16) :
    regReset (TILE_XBAR_MAP t q) = word (4 * q + (4 * q + 1) * 0x100 + (4 * q + 2) * 0x10000 + (4 * q + 3) * 0x1000000) := by
  have hc : classify (TILE_XBAR_MAP t q) = some (.tile, t, 0x100 + 4 * q) := by
    rw [TILE_XBAR_MAP, Nat.add_assoc]
    exact classify_tileBase t _ ht (by omega)
  refine regReset_of_indexReset hc ?_
  have hrange : 0x100 ≤ 0x100 + 4 * q ∧ 0x100 + 4 * q < 0x140 := by omega
  simp only [indexReset, if_pos hrange, Nat.add_sub_cancel_left]

/-- At reset the last word of the slice states shows four slices FREE (R23). -/
theorem regReset_TILE_SLICE_STATE_four (t : Nat) (ht : t < 8) : regReset (TILE_SLICE_STATE t 4) = word 0x55 :=
  regReset_of_indexReset (classify_tileBase t 0x150 ht (by decide)) rfl

theorem State.reg_reset (a : Nat) : State.reset.reg a = regReset a := rfl

/-- The four bytes of word `q` of the crossbar map at reset are the slices 4q to 4q + 3. -/
theorem byte_of_crossbar_word : ∀ q < 16, ∀ r < 4,
    bits (word (4 * q + (4 * q + 1) * 0x100 + (4 * q + 2) * 0x10000 + (4 * q + 3) * 0x1000000)).toNat (8 * r + 6) (8 * r) = 4 * q + r := by
  decide

theorem feSlice_reset (t f : Nat) (ht : t < 8) (hf : f < 64) : feSlice State.reset t f = f := by
  have hword : f / 4 < 16 := by omega
  rw [feSlice, State.reg_reset, regReset_TILE_XBAR_MAP t (f / 4) ht hword, byte_of_crossbar_word _ hword _ (Nat.mod_lt f (by decide)),
    Nat.div_add_mod]

theorem frontEnd_reset_spare (t i : Nat) (ht : t < 8) (hi : 64 ≤ i) : frontEnd State.reset t i = none := by
  refine List.find?_eq_none.mpr fun f hf => ?_
  have hlt : f < 64 := List.mem_range.mp hf
  rw [feSlice_reset t f ht hlt, beq_iff_eq]
  omega

theorem sliceState_reset_spare (t i : Nat) (ht : t < 8) (hlo : 64 ≤ i) (hhi : i < 68) : sliceState State.reset t i = 1 := by
  have hword : i / 16 = 4 := by omega
  rw [sliceState, State.reg_reset, hword, regReset_TILE_SLICE_STATE_four t ht]
  interval_cases i <;> decide

theorem portLane_reset (n : Nat) : State.reset.portLane n = n := rfl

end Sys2Proof.Machine
end

section
/-! PROOF. The crossbar and the host lanes right after reset, read from the reset values of the register map. -/
namespace Sys2Proof.Claims
open Sys2Proof Sys2Proof.Machine

/-- Settles O13, from the reset values of TILE_XBAR_MAP and TILE_SLICE_STATE. -/
theorem resetAssignsSlicesAndLanes : Obligations.ResetAssignsSlicesAndLanes :=
  ⟨feSlice_reset, fun t i ht hlo hhi => ⟨frontEnd_reset_spare t i ht hlo, sliceState_reset_spare t i ht hlo hhi⟩, fun n _ => portLane_reset n⟩

end Sys2Proof.Claims
end

section
/-! SUPPORT. What the operations of the Timetable, the Hostel and the host lanes answer: the records of a port and of a link after them, the frames
left in a queue, 64-bit counters, the last error of the Hostel. -/
namespace Sys2Proof.Machine

/-! ### A step for every item of a list -/

theorem forEach_cons {α : Type} (x : α) (xs : List α) (f : α → State → State) (s : State) :
    forEach (x :: xs) f s = forEach xs f (f x s) := rfl

theorem forEach_append {α : Type} (xs ys : List α) (f : α → State → State) (s : State) :
    forEach (xs ++ ys) f s = forEach ys f (forEach xs f s) := List.foldl_append

/-- What every step leaves as it was, all of them leave as it was. -/
theorem forEach_eq_of_step_eq {α β : Type} (g : State → β) (f : α → State → State) (hf : ∀ x s, g (f x s) = g s) (xs : List α) (s : State) :
    g (forEach xs f s) = g s := by
  induction xs generalizing s with
  | nil => rfl
  | cons x xs ih => exact (ih (f x s)).trans (hf x s)

/-! ### Kinds of state that an operation leaves -/

theorem sendHost_hosts (n : Port) (b : HostBlock) (s : State) : (sendHost n b s).hosts = s.hosts :=
  (@keeps_sendHost (· ∈ [.lanes, .out]) ⟨by decide⟩ ⟨by decide⟩ s s n b (keeps_refl _ s)).same .hosts (by decide)

theorem hostActive_hosts (l : LinkId) (s : State) : (hostActive l s).hosts = s.hosts :=
  (@keeps_hostActive (· ∈ [.regs, .links, .out]) ⟨by decide⟩ ⟨by decide⟩ ⟨by decide⟩ s s l (keeps_refl _ s)).same .hosts (by decide)

theorem fcJudge_regs (n : Port) (t : Rat) (s : State) : (fcJudge n t s).regs = s.regs :=
  (@keeps_fcJudge (· ∈ [.queues, .hosts]) ⟨by decide⟩ ⟨by decide⟩ s s n t (keeps_refl _ s)).same .regs (by decide)

theorem internalRepair_raised (type unit spare : Nat) (s : State) : (internalRepair type unit spare s).raised = s.raised :=
  (@keeps_internalRepair (· ∈ [.regs, .waiting, .later]) ⟨by decide⟩ ⟨by decide⟩ ⟨by decide⟩ s s type unit spare (keeps_refl _ s)).same .raised
    (by decide)

theorem showBeds_hosts (n : Port) (s : State) : (showBeds n s).hosts = s.hosts := by simp [showBeds]
theorem showBeds_queues (n : Port) (s : State) : (showBeds n s).queues = s.queues := by simp [showBeds]
theorem showRoute_hosts (n : Port) (s : State) : (showRoute n s).hosts = s.hosts := by simp [showRoute]

theorem inEffect_modLane (n : Port) (i h : Nat) (g : LaneSt → LaneSt) (s : State) : inEffect (s.modLane h g) n i = inEffect s n i := rfl

/-! ### A change of one link's queue -/

/-- A change of a link's queue either is made to what another link names or leaves it. -/
theorem State.queue_modQueue_or (s : State) (l m : LinkId) (g : QueueSt → QueueSt) :
    (s.modQueue m g).queue l = g (s.queue l) ∨ (s.modQueue m g).queue l = s.queue l := by
  by_cases hk : linkKey l = linkKey m
  · left
    rw [State.queue, State.modQueue, State.setQueue, State.queue, State.queue, hk]
    exact SMap.get_put_same _ _ _ _
  · exact .inr (SMap.get_put_other _ _ _ _ _ hk)

/-- Ending the lag of the last block of some links changes nothing else in any queue. -/
theorem queue_forEach_lastLag (ls : List LinkId) (l : LinkId) (s : State) :
    ∃ x, (forEach ls (fun l s => s.modQueue l (fun q => { q with lastLag := 0 })) s).queue l = { s.queue l with lastLag := x } := by
  induction ls generalizing s with
  | nil => exact ⟨_, rfl⟩
  | cons m ls ih =>
    obtain ⟨x, hx⟩ := ih (s.modQueue m (fun q => { q with lastLag := 0 }))
    refine ⟨x, hx.trans ?_⟩
    obtain h | h := s.queue_modQueue_or l m (fun q => { q with lastLag := 0 }) <;> rw [h]

/-! ### Judging the flow control conditions (R253) -/

theorem fcJudge_queue (n : Port) (t : Rat) (l : LinkId) (s : State) :
    ∃ x, (fcJudge n t s).queue l = { s.queue l with lastLag := x } := by
  simp only [fcJudge]
  split
  · exact ⟨_, rfl⟩
  split
  · exact ⟨_, State.modHost_queue _ _ _ _⟩
  split
  · obtain ⟨x, hx⟩ := queue_forEach_lastLag (activeLinks s n) l (s.modHost n (fun h => { h with xoffOn := false, fcWait := some 0 }))
    exact ⟨x, by rw [hx, State.modHost_queue]⟩
  · exact ⟨_, rfl⟩

theorem fcJudge_host (n : Port) (t : Rat) (s : State) :
    ∃ x w, (fcJudge n t s).host n = { s.host n with xoffOn := x, fcWait := w } := by
  simp only [fcJudge]
  split
  · exact ⟨_, _, rfl⟩
  split
  · exact ⟨_, _, State.host_modHost _ _ _⟩
  split
  · refine ⟨false, some 0, ?_⟩
    rw [forEach_eq_of_step_eq (fun s => s.host n) _ (fun l s => State.modQueue_host s l _ n)]
    exact State.host_modHost _ _ _
  · exact ⟨_, _, rfl⟩

/-- What is shown of a port's beds and route after judging leaves its record. -/
theorem judged_and_shown_host (n : Port) (t : Rat) (s : State) :
    ∃ x w, (showRoute n (showBeds n (fcJudge n t s))).host n = { s.host n with xoffOn := x, fcWait := w } := by
  obtain ⟨x, w, hjudge⟩ := fcJudge_host n t s
  exact ⟨x, w, by rw [State.host_congr (showRoute_hosts n _), State.host_congr (showBeds_hosts n _), hjudge]⟩

theorem frames_congr {s t : State} (h : t.queues = s.queues) (l : LinkId) (d : Dir) : frames t l d = frames s l d := by
  cases d <;> simp only [frames, State.queue_congr h]

theorem frames_fcJudge (n : Port) (t : Rat) (l : LinkId) (d : Dir) (s : State) : frames (fcJudge n t s) l d = frames s l d := by
  obtain ⟨x, hx⟩ := fcJudge_queue n t l s
  cases d <;> simp only [frames, hx]

/-! ### Frames that leave a queue (R245) -/

theorem frames_setFrames (l : LinkId) (d : Dir) (fs : List Frame) (s : State) : frames (setFrames l d fs s) l d = fs := by
  cases d <;> simp [frames, setFrames]

theorem state_of_mem_truncated {f g : Frame} (h : f ∈ truncated g) : f.state = .refused := by
  unfold truncated at h
  split at h
  · rw [List.mem_singleton.mp h]
  · exact absurd h List.not_mem_nil

/-- After frames were removed, a frame of the queue was not selected, or is what is left of one and not accepted. -/
theorem mem_frames_dropFrames {l : LinkId} {d : Dir} {p : Frame → Bool} {s : State} {f : Frame}
    (h : f ∈ frames (dropFrames l d p s).2 l d) : p f = false ∨ f.state = .refused := by
  rw [dropFrames, frames_setFrames, List.mem_flatMap] at h
  obtain ⟨g, -, hg⟩ := h
  split at hg
  · exact .inr (state_of_mem_truncated hg)
  · next hp => rw [List.mem_singleton.mp hg]; exact .inl (Bool.eq_false_iff.mpr hp)

/-- No accepted frame under TIMETABLE that `p` selects is left. -/
theorem not_selected_of_mem_expireFrames {l : LinkId} {d : Dir} {p : Frame → Bool} {cause : Nat} {s : State} {f : Frame}
    (h : f ∈ frames (expireFrames l d p cause s) l d) (htt : f.tt = true) (hos : f.os = false) (hacc : f.state = .accepted) :
    p f = false := by
  have hdrop : frames (expireFrames l d p cause s) l d =
      frames (dropFrames l d (fun f => f.tt && !f.os && f.state == .accepted && p f) s).2 l d := by
    simp only [expireFrames]
    split
    · rfl
    · exact frames_congr (by simp) l d
  obtain hp | href := mem_frames_dropFrames (hdrop ▸ h)
  · simpa [htt, hos, hacc] using hp
  · rw [hacc] at href; cases href

theorem frames_dropCodewords (l : LinkId) (p : CwUnit → Bool) (s : State) : frames (dropCodewords l p s).2 l .tx = frames s l .tx := by
  simp only [dropCodewords]
  split
  · rfl
  · simp [frames]

theorem frames_expireCodewords (l : LinkId) (p : Rat → Bool) (cause : Nat) (s : State) :
    frames (expireCodewords l p cause s) l .tx = frames s l .tx := by
  refine Eq.trans ?_ (frames_dropCodewords l (fun u => u.due.any p) s)
  simp only [expireCodewords]
  split
  · rfl
  · exact frames_congr (by simp) l .tx

theorem frames_expireRxCodewords (l : LinkId) (p : Rat → Bool) (cause : Nat) (s : State) :
    frames (expireRxCodewords l p cause s) l .rx = frames s l .rx := by
  simp only [expireRxCodewords]
  split <;> simp [frames]

/-! ### Host blocks at the ingress (R229, R230) -/

/-- Fewer than four blocks of a frame wait for their 257b block. -/
theorem pushBlock_host_of_lt {n : Port} {b : HostBlock} {t : Rat} {s : State} (h : (s.host n).group.length < 3) :
    (pushBlock n b false t s).host n = { s.host n with group := (s.host n).group ++ [b] } := by
  have hfew : ¬ 4 ≤ ((s.host n).group ++ [b]).length := by rw [List.length_append, List.length_singleton]; omega
  simp only [pushBlock, State.host_modHost, Bool.false_or, decide_eq_true_eq, if_neg hfew]

theorem ingressBlock_start_host {n : Port} {b : HostBlock} {t : Rat} {s : State} (hk : blockKind b = .start)
    (ho : (s.host n).isOpen = false) (hd : (s.host n).dropping = false) :
    (ingressBlock n b t s).host n =
      { s.host n with isOpen := true, dropping := false, cut := false, length := 0, group := [b], lastOs := none } := by
  simp only [ingressBlock, hk, ho, hd, Bool.false_and, Bool.or_self, Bool.false_eq_true, if_false]
  rw [pushBlock_host_of_lt (by simp), State.host_modHost]
  rfl

/-- Outside TRANSPARENT the port's record after its next block is that of `ingressBlock`: what the block wakes is the link's. -/
theorem takeIngress_host {n : Port} {t : Rat} {s : State} {b : HostBlock} {bs : List HostBlock}
    (hb : (s.lane (s.portLane n)).rxBlocks = b :: bs) (ht : inEffect s n mTRANSPARENT = false) :
    (takeIngress n t s).host n = (ingressBlock n b t (s.modLane (s.portLane n) (fun k => { k with rxBlocks := bs }))).host n := by
  have hmode : inEffect (s.modLane (s.portLane n) (fun k => { k with rxBlocks := bs })) n mTRANSPARENT = false := by
    rw [inEffect_modLane, ht]
  simp only [takeIngress, hb, hmode, Bool.false_eq_true, if_false]
  split <;> split
  · exact State.host_congr (hostActive_hosts _ _) n
  · rfl
  · exact State.host_congr (hostActive_hosts _ _) n
  · rfl

theorem drainStage_of_empty {n : Port} {s : State} (h : (s.host n).stage = []) : drainStage n (s.host n).stage.length s = s := by
  rw [h]; rfl

/-! ### Blocks for the host (R232) -/

theorem egressBlock_of_not_portShow {n : Port} {t : Rat} {s : State} (hd : egressDown s n = false) (hs : portShow s n = false) :
    egressBlock n t s = sendHost n localFault s := by simp [egressBlock, hd, hs]

theorem egressBlock_of_waiting {n : Port} {t : Rat} {s : State} {b : HostBlock} {bs : List HostBlock} (hd : egressDown s n = false)
    (hs : portShow s n = true) (ht : inEffect s n mTRANSPARENT = false) (he : (s.host n).egress = b :: bs) :
    egressBlock n t s = sendHost n b (s.modHost n (fun h => { h with egress := bs })) := by
  simp [egressBlock, sendBlocks, hd, hs, ht, he]

theorem egressWait_out {n : Port} {s : State} (hd : egressDown s n = false) : (egressWait n s).out = (sendHost n idleBlock s).out := by
  simp only [egressWait, hd, Bool.false_eq_true, if_false]
  split
  · exact State.modHost_out _ _ _
  · rfl

/-! ### The generated flow control frame (R252) -/

theorem State.fld_eq_of_reg_eq {s t : State} {f : Fld} (h : t.reg f.addr = s.reg f.addr) : t.fld f = s.fld f := by
  rw [State.fld, State.fld, h]

theorem fcFrame_congr {s t : State} {n : Port} (hhi : t.reg TT_FC_SA_HI = s.reg TT_FC_SA_HI) (hlo : t.reg TT_FC_SA_LO = s.reg TT_FC_SA_LO)
    (hcfg : t.reg (TT_PORT_CFG n) = s.reg (TT_PORT_CFG n)) (q : Nat) : fcFrame t n q = fcFrame s n q := by
  have hsa : t.fld TT_FC_SA_HI.SA = s.fld TT_FC_SA_HI.SA := State.fld_eq_of_reg_eq hhi
  have hmask : t.fld (TT_PORT_CFG.PFC_MASK n) = s.fld (TT_PORT_CFG.PFC_MASK n) := State.fld_eq_of_reg_eq hcfg
  have hsel : t.fld (TT_PORT_CFG.FC_SEL n) = s.fld (TT_PORT_CFG.FC_SEL n) := State.fld_eq_of_reg_eq hcfg
  simp only [fcFrame, hsa, hlo, hmask, hsel]

/-- The waiting generated frame with pause time `q` is taken at time `t`: counted, and XOFF shown (R254). -/
def takeFcFrame (n : Port) (t : Rat) (q : Nat) (s : State) : State :=
  ((s.modHost n (fun h => { h with fcWait := none, fcAt := some t, fcBetween := true })).inc (TT_FC_SENT n)).setFld (TT_STATUS.XOFF n)
    (decide (q ≠ 0)).toNat

theorem takeFcFrame_out (n : Port) (t : Rat) (q : Nat) (s : State) : (takeFcFrame n t q s).out = s.out := by simp [takeFcFrame]

theorem takeFcFrame_host (n : Port) (t : Rat) (q : Nat) (s : State) :
    (takeFcFrame n t q s).host n = { s.host n with fcWait := none, fcAt := some t, fcBetween := true } := by simp [takeFcFrame]

/-- The registers that the frame is made of lie below those that taking it changes. -/
theorem fcFrame_takeFcFrame (n : Port) (t : Rat) (q : Nat) (s : State) : fcFrame (takeFcFrame n t q s) n q = fcFrame s n q := by
  have hbelow (a : Nat) (h : a < TT_STATUS n) : (takeFcFrame n t q s).reg a = s.reg a := by
    have hsent : TT_STATUS n < TT_FC_SENT n := by unfold TT_STATUS TT_FC_SENT; omega
    rw [takeFcFrame, State.reg_setFld_other _ _ _ _ h.ne, State.reg_inc_other _ _ _ (h.trans hsent).ne, State.modHost_reg]
  refine fcFrame_congr (hbelow _ ?_) (hbelow _ ?_) (hbelow _ ?_) q
  · unfold TT_FC_SA_HI TT_STATUS hostelBase ttBase; omega
  · unfold TT_FC_SA_LO TT_STATUS hostelBase ttBase; omega
  · unfold TT_PORT_CFG TT_STATUS; omega

theorem execFcFrameInsert_of_waiting {n : Port} {t : Rat} {q : Nat} {s : State} (hwait : (s.host n).fcWait = some q)
    (hat : (s.host n).fcAt = none) (hfc : fcOn s n = true) (hdown : egressDown s n = false) (hheld : egressHeld s n = false)
    (hbetween : (s.host n).fcBetween = false) (hedge : egressBoundary s n = true) :
    execFcFrameInsert n t s =
      .next (forEach (frameBlocks (fcFrame s n q) ++ [idleBlock]) (sendHost n) (takeFcFrame n t q s)) := by
  rw [← fcFrame_takeFcFrame n t q s]
  simp only [execFcFrameInsert, hwait, hat, hfc, hdown, hheld, hbetween, hedge]
  rfl

/-! ### 64-bit counters (R454) and the last error of the Hostel (R260) -/

theorem State.val64_lt (s : State) (a : Nat) : s.val64 a < 2 ^ 64 := by
  have hlo := (s.reg a).isLt
  have hhi := (s.reg (a + 4)).isLt
  unfold State.val64
  omega

theorem State.val64_set64 (s : State) (a v : Nat) : (s.set64 a v).val64 a = v % 2 ^ 64 := by
  rw [State.val64, State.set64, State.reg_setReg_other _ _ _ _ (by omega), State.reg_setReg_same, State.reg_setReg_same, word_toNat, word_toNat]
  omega

theorem State.val64_inc64 (s : State) (a : Nat) : (s.inc64 a).val64 a = (s.val64 a + 1) % 2 ^ 64 := State.val64_set64 s a _

theorem reg_lastError_other (uncorr bank w a : Nat) (s : State) (h : a ≠ HOSTEL_ECC_LAST) : (lastError uncorr bank w s).reg a = s.reg a := by
  rw [lastError, State.reg_setFld_other _ _ _ _ h, State.reg_setFld_other _ _ _ _ h, State.reg_setFld_other _ _ _ _ h]

theorem lastError_WORD (uncorr bank w : Nat) (s : State) : (lastError uncorr bank w s).fld HOSTEL_ECC_LAST.WORD = w % 2 ^ 24 :=
  State.fld_setFld_same _ _ _ (by decide) (by decide)

theorem lastError_BANK (uncorr bank w : Nat) (s : State) : (lastError uncorr bank w s).fld HOSTEL_ECC_LAST.BANK = bank % 2 ^ 7 := by
  rw [lastError, State.fld_setFld_apart _ _ _ _ (by decide) (by decide) (by decide)]
  exact State.fld_setFld_same _ _ _ (by decide) (by decide)

theorem lastError_UNCORR (uncorr bank w : Nat) (s : State) : (lastError uncorr bank w s).fld HOSTEL_ECC_LAST.UNCORR = uncorr % 2 := by
  rw [lastError, State.fld_setFld_apart _ _ _ _ (by decide) (by decide) (by decide),
    State.fld_setFld_apart _ _ _ _ (by decide) (by decide) (by decide)]
  exact State.fld_setFld_same _ _ _ (by decide) (by decide)

/-- One corrected error of the Hostel is counted and is the last one shown (R237, R260). -/
def noteCorrected (x : Corrected) (s : State) : State := lastError 0 x.bank x.word (s.inc64 HOSTEL_ECC_CORR)

theorem execHostelScrubPass_eq (corrected : List Corrected) (s : State) :
    execHostelScrubPass corrected s = .next (forEach (corrected.filter (fun x => !x.scrub || s.flag HOSTEL_CFG.SCRUB_EN)) noteCorrected s) := rfl

theorem val64_noteCorrected (x : Corrected) (s : State) :
    (noteCorrected x s).val64 HOSTEL_ECC_CORR = (s.val64 HOSTEL_ECC_CORR + 1) % 2 ^ 64 := by
  rw [← State.val64_inc64, State.val64, noteCorrected, reg_lastError_other _ _ _ _ _ (by decide), reg_lastError_other _ _ _ _ _ (by decide)]
  rfl

theorem val64_forEach_noteCorrected (xs : List Corrected) (s : State) :
    (forEach xs noteCorrected s).val64 HOSTEL_ECC_CORR = (s.val64 HOSTEL_ECC_CORR + xs.length) % 2 ^ 64 := by
  induction xs generalizing s with
  | nil => rw [List.length_nil, Nat.add_zero, Nat.mod_eq_of_lt (s.val64_lt _)]; rfl
  | cons x xs ih =>
    rw [forEach_cons, ih, val64_noteCorrected, Nat.mod_add_mod, List.length_cons, Nat.add_assoc, Nat.add_comm 1]

/-! ### Fencing a bank (R237) -/

/-- A fence ends with event 0x4001, which names the spare, and the REPAIR entry. -/
theorem execHostelFence_next {bank : Nat} {s : State} (addr : Nat) (hb : bank < 66) (hs : bankState s bank ≠ 3) :
    ∃ (u : State) (a b : Nat), execHostelFence bank addr s = .next (internalRepair 1 bank 0xFFFF
      (u.raise 0x4001 2 [bank, (if bankState s bank = 0 then (banksIn s 1).head? else none).getD 0xFF, a, b])) := by
  unfold execHostelFence
  rw [if_pos ⟨hb, hs⟩]
  exact ⟨_, _, _, rfl⟩

end Sys2Proof.Machine
end

section
/-! PROOF. The commands of the Timetable and the Hostel, one clause of the statement after the other. -/
namespace Sys2Proof.Claims
open Sys2Proof Sys2Proof.Machine

/-! ### What leaves beside the levels of the lanes -/

theorem besideLanes_append (xs ys : List Out) : besideLanes (xs ++ ys) = besideLanes xs ++ besideLanes ys := List.filter_append _ _

theorem besideLanes_emit_lane (h : Nat) (levels : List Int) (s : State) : besideLanes (s.emit (.lane h levels)).out = besideLanes s.out := by
  rw [State.out_emit, besideLanes_append]
  exact List.append_nil _

theorem besideLanes_laneBits (h : Nat) (bs : List Bool) (s : State) : besideLanes (laneBits h bs s).out = besideLanes s.out := by
  rw [laneBits, besideLanes_emit_lane, State.modLane_out]

theorem besideLanes_laneBlock (h : Nat) (b : HostBlock) (s : State) : besideLanes (laneBlock h b s).out = besideLanes s.out := by
  unfold laneBlock
  extract_lets k g x bs s1 s2
  split
  · rw [State.modLane_out]
  split
  · rw [State.modLane_out]
  · rw [besideLanes_laneBits, State.modLane_out, State.modLane_out]

theorem besideLanes_sendPattern (h : Nat) (s : State) : besideLanes (sendPattern h s).out = besideLanes s.out := by
  rw [sendPattern, besideLanes_emit_lane, State.modLane_out]

theorem besideLanes_sideLane (h : Nat) (s : State) : besideLanes (sideLane h s).out = besideLanes s.out := by
  unfold sideLane
  split
  · exact besideLanes_sendPattern h s
  split
  · exact besideLanes_laneBlock h idleBlock s
  · rfl

theorem besideLanes_sideLanes (hs : List Nat) (s : State) : besideLanes (forEach hs sideLane s).out = besideLanes s.out :=
  forEach_eq_of_step_eq (fun s => besideLanes s.out) sideLane besideLanes_sideLane hs s

theorem besideLanes_sendHost (n : Port) (b : HostBlock) (s : State) :
    besideLanes (sendHost n b s).out = besideLanes s.out ++ [.hostBlock n b] := by
  rw [sendHost, besideLanes_laneBlock, State.out_emit, besideLanes_append]
  rfl

theorem besideLanes_sendHosts (n : Port) (bs : List HostBlock) (s : State) :
    besideLanes (forEach bs (sendHost n) s).out = besideLanes s.out ++ bs.map (.hostBlock n) := by
  induction bs generalizing s with
  | nil => exact (List.append_nil _).symm
  | cons b bs ih =>
    rw [forEach_cons, ih, besideLanes_sendHost, List.append_assoc]
    rfl

/-! ### Host blocks in (R36, R229) -/

/-- A block that starts a frame opens it. -/
theorem ingressBlock_opens_frame {n : Port} {h : Lane} {t : Rat} {rx : List Int} {b : HostBlock} {bs : List HostBlock} {v s : State}
    (hv : hearLevels h rx s = v) (hon : ingressOn v n = true) (hstage : (v.host n).stage = [])
    (hblocks : (v.lane (v.portLane n)).rxBlocks = b :: bs) (hmode : inEffect v n mTRANSPARENT = false) (hkind : blockKind b = .start)
    (hopen : (v.host n).isOpen = false) (hdrop : (v.host n).dropping = false) :
    ∃ u : State, exec (.ingressBlock n h t rx) s = .next u ∧ (u.host n).isOpen = true ∧ (u.host n).group = [b] ∧ (u.host n).length = 0 := by
  have hexec : exec (.ingressBlock n h t rx) s = .next (showRoute n (showBeds n (fcJudge n t (takeIngress n t v)))) := by
    show execIngressBlock n h t rx s = _
    simp only [execIngressBlock, hv, hon, drainStage_of_empty hstage]
    rfl
  obtain ⟨x, w, hhost⟩ := judged_and_shown_host n t (takeIngress n t v)
  refine ⟨_, hexec, ?_⟩
  rw [hhost, takeIngress_host hblocks hmode, ingressBlock_start_host hkind (by rwa [State.modLane_host]) (by rwa [State.modLane_host])]
  exact ⟨rfl, rfl, rfl⟩

theorem ingressBlock_off_only_hears {n : Port} {h : Lane} {t : Rat} {rx : List Int} {s : State}
    (hoff : ingressOn (hearLevels h rx s) n = false) : exec (.ingressBlock n h t rx) s = .next (hearLevels h rx s) := by
  show execIngressBlock n h t rx s = _
  simp only [execIngressBlock, hoff]
  rfl

/-! ### Host blocks out (R232, R278, R286) -/

section
variable {n : Port} {t : Rat} {v s : State} (hv : forEach (sideLanes s n) sideLane s = v)
include hv

theorem besideLanes_of_sideLanes : besideLanes v.out = besideLanes s.out := by rw [← hv, besideLanes_sideLanes]

/-- What EGRESS_BLOCK does once the side lanes have had their time. -/
theorem exec_egressBlock : exec (.egressBlock n t) s = if patternOn v (v.portLane n) then .next (sendPattern (v.portLane n) v)
    else if egressHeld v n then .next (egressWait n v) else .next (egressBlock n t v) := by
  subst hv; rfl

theorem egressBlock_sends_pattern (hpat : patternOn v (v.portLane n) = true) :
    ∃ u : State, exec (.egressBlock n t) s = .next u ∧ u = sendPattern (v.portLane n) v :=
  ⟨_, by rw [exec_egressBlock hv, hpat]; rfl, rfl⟩

theorem egressBlock_held_sends_idle (hpat : patternOn v (v.portLane n) = false) (hheld : egressHeld v n = true) (hdown : egressDown v n = false) :
    ∃ u : State, exec (.egressBlock n t) s = .next u ∧ besideLanes u.out = besideLanes s.out ++ [.hostBlock n idleBlock] := by
  refine ⟨egressWait n v, ?_, ?_⟩
  · rw [exec_egressBlock hv, hpat, hheld]; rfl
  · rw [egressWait_out hdown, besideLanes_sendHost, besideLanes_of_sideLanes hv]

theorem egressBlock_sends_localFault (hpat : patternOn v (v.portLane n) = false) (hheld : egressHeld v n = false)
    (hdown : egressDown v n = false) (hshow : portShow v n = false) :
    ∃ u : State, exec (.egressBlock n t) s = .next u ∧ besideLanes u.out = besideLanes s.out ++ [.hostBlock n localFault] := by
  refine ⟨sendHost n localFault v, ?_, ?_⟩
  · rw [exec_egressBlock hv, hpat, hheld, egressBlock_of_not_portShow hdown hshow]; rfl
  · rw [besideLanes_sendHost, besideLanes_of_sideLanes hv]

theorem egressBlock_sends_oldest {b : HostBlock} {bs : List HostBlock} (hpat : patternOn v (v.portLane n) = false)
    (hheld : egressHeld v n = false) (hdown : egressDown v n = false) (hshow : portShow v n = true)
    (hmode : inEffect v n mTRANSPARENT = false) (hegress : (v.host n).egress = b :: bs) :
    ∃ u : State, exec (.egressBlock n t) s = .next u ∧ besideLanes u.out = besideLanes s.out ++ [.hostBlock n b] ∧
      (u.host n).egress = bs := by
  refine ⟨sendHost n b (v.modHost n (fun h => { h with egress := bs })), ?_, ?_, ?_⟩
  · rw [exec_egressBlock hv, hpat, hheld, egressBlock_of_waiting hdown hshow hmode hegress]; rfl
  · rw [besideLanes_sendHost, State.modHost_out, besideLanes_of_sideLanes hv]
  · rw [State.host_congr (sendHost_hosts _ _ _), State.host_modHost]

end

/-! ### The far capacity and frames that expire (R233, R245) -/

theorem farEgressReport_sets_far (n : Port) (sub : Option Pair) (t : Rat) (s : State) :
    ∃ u : State, exec (.farEgressReport n sub t) s = .next u ∧ (u.queue ⟨n, sub⟩).far = farCapacity s ⟨n, sub⟩ ∧ u.regs = s.regs := by
  refine ⟨_, rfl, ?_, (fcJudge_regs _ _ _).trans (State.modQueue_regs _ _ _)⟩
  obtain ⟨x, hx⟩ := fcJudge_queue n t ⟨n, sub⟩ (s.modQueue ⟨n, sub⟩ (fun q => { q with far := farCapacity s ⟨n, sub⟩ }))
  rw [hx, State.queue_modQueue]

/-- The frames that FRAME_EXPIRY leaves are those that the expiry of frames leaves: codewords and flow control are beside them. -/
theorem frameExpiry_frames (l : LinkId) (d : Dir) (t : Rat) (cause : Nat) (s : State) :
    ∃ u : State, exec (.frameExpiry l d t cause) s = .next u ∧
      frames u l d = frames (expireFrames l d (fun f => decide (f.deadline < t)) cause s) l d := by
  refine ⟨_, rfl, ?_⟩
  rw [frames_fcJudge, frames_congr (showBeds_queues _ _)]
  cases d
  · exact frames_expireCodewords _ _ _ _
  · exact frames_expireRxCodewords _ _ _ _

theorem frameExpiry_leaves_none_late (l : LinkId) (d : Dir) (t : Rat) (cause : Nat) (s : State) :
    ∃ u : State, exec (.frameExpiry l d t cause) s = .next u ∧
      (∀ f ∈ frames u l d, f.tt = true → f.os = false → f.state = .accepted → ¬ f.deadline < t) := by
  obtain ⟨u, hu, hframes⟩ := frameExpiry_frames l d t cause s
  refine ⟨u, hu, fun f hf htt hos hacc => ?_⟩
  exact of_decide_eq_false (not_selected_of_mem_expireFrames (hframes ▸ hf) htt hos hacc)

/-! ### Flow control (R253, R254) -/

theorem fcXoffRepeat_renews_pause {n : Port} {s : State} (hfc : fcOn s n = true) (hx : (s.host n).xoffOn = true)
    (hcond : (activeLinks s n).any (xoffCond s) = true) :
    ∃ t : State, exec (.fcXoffRepeat n) s = .next t ∧ (t.host n).fcWait = some (s.fld (TT_FC_CFG.QUANTA n)) ∧ t.regs = s.regs := by
  refine ⟨s.modHost n (fun h => { h with fcWait := some (s.fld (TT_FC_CFG.QUANTA n)) }), ?_, ?_, State.modHost_regs _ _ _⟩
  · show execFcXoffRepeat n s = _
    simp only [execFcXoffRepeat, hfc, hx, hcond]
    rfl
  · rw [State.host_modHost]

theorem fcFrameInsert_sends_frame {n : Port} {t : Rat} {q : Nat} {s : State} (hwait : (s.host n).fcWait = some q)
    (hat : (s.host n).fcAt = none) (hfc : fcOn s n = true) (hdown : egressDown s n = false) (hheld : egressHeld s n = false)
    (hbetween : (s.host n).fcBetween = false) (hedge : egressBoundary s n = true) :
    ∃ u : State, exec (.fcFrameInsert n t) s = .next u ∧
      besideLanes u.out = besideLanes s.out ++ (frameBlocks (fcFrame s n q) ++ [idleBlock]).map (Out.hostBlock n) ∧
      (u.host n).fcWait = none ∧ (u.host n).fcBetween = true := by
  refine ⟨_, execFcFrameInsert_of_waiting hwait hat hfc hdown hheld hbetween hedge, ?_, ?_⟩
  · rw [besideLanes_sendHosts, takeFcFrame_out]
  · rw [State.host_congr (forEach_eq_of_step_eq State.hosts (sendHost n) (sendHost_hosts n) _ _), takeFcFrame_host]
    exact ⟨rfl, rfl⟩

/-! ### Errors of the Hostel (R237) -/

theorem hostelScrubPass_counts (corrected : List Corrected) (s : State) :
    ∃ t : State, exec (.hostelScrubPass corrected) s = .next t ∧ t.val64 HOSTEL_ECC_CORR =
      (s.val64 HOSTEL_ECC_CORR + (corrected.filter (fun x => !x.scrub || s.flag HOSTEL_CFG.SCRUB_EN)).length) % 2 ^ 64 :=
  ⟨_, execHostelScrubPass_eq corrected s, val64_forEach_noteCorrected _ s⟩

theorem hostelScrubPass_shows_last {corrected : List Corrected} {x : Corrected} {s : State}
    (hlast : (corrected.filter (fun x => !x.scrub || s.flag HOSTEL_CFG.SCRUB_EN)).getLast? = some x) :
    ∃ t : State, exec (.hostelScrubPass corrected) s = .next t ∧ t.fld HOSTEL_ECC_LAST.UNCORR = 0 ∧
      t.fld HOSTEL_ECC_LAST.BANK = x.bank % 2 ^ 7 ∧ t.fld HOSTEL_ECC_LAST.WORD = x.word % 2 ^ 24 := by
  obtain ⟨ys, hys⟩ := List.getLast?_eq_some_iff.mp hlast
  refine ⟨_, execHostelScrubPass_eq corrected s, ?_⟩
  rw [hys, forEach_append]
  exact ⟨lastError_UNCORR _ _ _ _, lastError_BANK _ _ _ _, lastError_WORD _ _ _ _⟩

theorem hostelFence_raises {bank : Nat} (addr : Nat) {s : State} (hb : bank < 66) (hs : bankState s bank ≠ 3) :
    ∃ t : State, exec (.hostelFence bank addr) s = .next t ∧ ∃ a b : Nat,
      (⟨0x4001, 2, [bank, (if bankState s bank = 0 then (banksIn s 1).head? else none).getD 0xFF, a, b]⟩ : Event) ∈ t.raised := by
  obtain ⟨u, a, b, hu⟩ := execHostelFence_next addr hb hs
  refine ⟨_, hu, a, b, ?_⟩
  rw [internalRepair_raised, State.raised_raise]
  exact List.mem_append_right _ (List.mem_singleton_self _)

/-- Settles O31, clause by clause: what reaches the host is told beside the levels of the lanes, and flow control is judged beside the queues. -/
theorem hostBlocksAndFrames : Obligations.HostBlocksAndFrames :=
  ⟨fun _ _ _ _ _ _ _ _ => ingressBlock_opens_frame,
    fun _ _ _ _ _ hoff => ⟨_, ingressBlock_off_only_hears hoff, rfl⟩,
    fun _ _ _ _ => egressBlock_sends_localFault,
    fun _ _ _ _ => egressBlock_sends_pattern,
    fun _ _ _ _ => egressBlock_held_sends_idle,
    fun _ _ _ _ _ _ hv => egressBlock_sends_oldest hv,
    farEgressReport_sets_far,
    frameExpiry_leaves_none_late,
    fun _ _ => fcXoffRepeat_renews_pause,
    fun _ _ _ _ => fcFrameInsert_sends_frame,
    hostelScrubPass_counts,
    fun _ _ _ => hostelScrubPass_shows_last,
    fun _ addr _ => hostelFence_raises addr⟩

end Sys2Proof.Claims
end

section
/-! SUPPORT. What the operations of modes, messages and the waymark channel answer: a bit after it was set, the records of links, ports and pairs after
an operation, and what a step for every item of a list brings about. -/
namespace Sys2Proof.Machine

/-! ### A bit of a mask -/

theorem bit_setBit_same (m i : Nat) (on : Bool) : bit (setBit m i on) i = on := by
  unfold setBit
  by_cases h : bit m i = true
  · have hcleared : bit (m - 2 ^ i) i = false := by
      have hle : 2 ^ i ≤ m := Nat.ge_two_pow_of_testBit h
      have hflip := Nat.testBit_two_pow_add_eq (m - 2 ^ i) i
      rw [Nat.add_sub_cancel' hle, show m.testBit i = true from h] at hflip
      exact Bool.not_eq_eq_eq_not.mp hflip.symm
    cases on <;> simp [h, hcleared]
  · have hset : bit (m + 2 ^ i) i = true := by
      rw [bit, Nat.add_comm, Nat.testBit_two_pow_add_eq]
      simpa [bit] using h
    cases on <;> simp [h, hset]

/-! ### A step for every item of a list brings something about for each -/

theorem forEach_of_mem {α : Type} {P : α → State → Prop} {f : α → State → State} (hmake : ∀ x s, P x (f x s))
    (hkeep : ∀ x y s, P x s → P x (f y s)) {x : α} {xs : List α} (hx : x ∈ xs) (s : State) : P x (forEach xs f s) := by
  have hlater (ys : List α) (s : State) (h : P x s) : P x (forEach ys f s) := by
    induction ys generalizing s with
    | nil => exact h
    | cons y ys ih => exact ih _ (hkeep x y s h)
  induction xs generalizing s with
  | nil => exact absurd hx List.not_mem_nil
  | cons y ys ih =>
    obtain rfl | hmem := List.mem_cons.mp hx
    · exact hlater ys _ (hmake x s)
    · exact ih hmem (f y s)

/-! ### A change of one pair's or one link's record -/

theorem State.pair_modPair_or (s : State) (n p m q : Nat) (g : PairSt → PairSt) :
    (s.modPair m q g).pair n p = g (s.pair n p) ∨ (s.modPair m q g).pair n p = s.pair n p := by
  by_cases hk : gpair n p = gpair m q
  · left
    rw [State.pair, State.modPair, State.setPair, State.pair, State.pair, hk]
    exact SMap.get_put_same _ _ _ _
  · exact .inr (SMap.get_put_other _ _ _ _ _ hk)

theorem State.link_modLink_or (s : State) (l m : LinkId) (g : LinkSt → LinkSt) :
    (s.modLink m g).link l = g (s.link l) ∨ (s.modLink m g).link l = s.link l := by
  by_cases hk : linkKey l = linkKey m
  · left
    rw [State.link, State.modLink, State.setLink, State.link, State.link, hk]
    exact SMap.get_put_same _ _ _ _
  · exact .inr (SMap.get_put_other _ _ _ _ _ hk)

/-! ### Operations that leave the links' records -/

theorem showLink_links (l : LinkId) (s : State) : (showLink l s).links = s.links :=
  (@keeps_showLink (· ∈ [.regs, .raised]) ⟨by decide⟩ ⟨by decide⟩ s s l (keeps_refl _ s)).same .links (by decide)

theorem showLink_pairs (l : LinkId) (s : State) : (showLink l s).pairs = s.pairs :=
  (@keeps_showLink (· ∈ [.regs, .raised]) ⟨by decide⟩ ⟨by decide⟩ s s l (keeps_refl _ s)).same .pairs (by decide)

theorem showRoute_links (n : Port) (s : State) : (showRoute n s).links = s.links := by simp [showRoute]

theorem showBeds_links (n : Port) (s : State) : (showBeds n s).links = s.links := by simp [showBeds]

theorem capNotice_links (l : LinkId) (s : State) : (capNotice l s).links = s.links := State.modQueue_links _ _ _

theorem expireAll_links (l : LinkId) (cause : Nat) (s : State) : (expireAll l cause s).links = s.links :=
  (@keeps_expireAll (· ∈ [.regs, .queues, .banks, .raised]) ⟨by decide⟩ ⟨by decide⟩ ⟨by decide⟩ ⟨by decide⟩ s s l cause (keeps_refl _ s)).same
    .links (by decide)

theorem sideLinkDown_links (l : LinkId) (s : State) : (sideLinkDown l s).links = s.links :=
  (@keeps_sideLinkDown (· ∈ [.regs, .tiles, .diags, .completions, .claims, .waiting, .later, .tests, .raised]) ⟨by decide⟩ ⟨by decide⟩ ⟨by decide⟩
    ⟨by decide⟩ ⟨by decide⟩ ⟨by decide⟩ ⟨by decide⟩ ⟨by decide⟩ ⟨by decide⟩ s s l (keeps_refl _ s)).same .links (by decide)

theorem sendFrames_links (l : LinkId) (s : State) : (sendFrames l s).links = s.links :=
  (@keeps_sendFrames (· ∈ [.regs, .pairs, .out]) ⟨by decide⟩ ⟨by decide⟩ ⟨by decide⟩ s s l (keeps_refl _ s)).same .links (by decide)

theorem sendSync_links (l : LinkId) (p : Nat) (s : State) : (sendSync l p s).links = s.links :=
  (@keeps_sendSync (· ∈ [.regs, .out]) ⟨by decide⟩ ⟨by decide⟩ s s l p (keeps_refl _ s)).same .links (by decide)

theorem dropRxSwap_links (n p : Nat) (s : State) : (dropRxSwap n p s).links = s.links := by simp [dropRxSwap, endSwap]

theorem dropTxTables_links (l : LinkId) (s : State) : (dropTxTables l s).links = s.links :=
  (@keeps_dropTxTables (· ∈ [.pairs]) ⟨by decide⟩ s s l (keeps_refl _ s)).same .links (by decide)

theorem swapBanks_links (l : LinkId) (d : Dir) (s : State) : (swapBanks l d s).links = s.links :=
  (@keeps_swapBanks (· ∈ [.regs, .pairs]) ⟨by decide⟩ ⟨by decide⟩ s s l d (keeps_refl _ s)).same .links (by decide)

theorem setBank_links (n p : Nat) (d : Dir) (b : Nat) (t : List Nat) (s : State) : (s.setBank n p d b t).links = s.links :=
  (@keeps_setBank (· ∈ [.tbl]) ⟨by decide⟩ s s n p d b t (keeps_refl _ s)).same .links (by decide)

/-! ### What stands of a link while messages, proposals and exchanges of tables come and go -/

/-- From one record of a link to a later one: its phase, the far count, the agreed changes and the modes in effect are the same, whether the
stage's waymark symbol was sent and received too, and the messages that wait still do, but for those that propose tables. -/
structure LinkSt.Stands (k k' : LinkSt) : Prop where
  phase : k'.phase = k.phase
  far : k'.far = k.far
  wmSent : k'.wmSent = k.wmSent
  rxSeen : k'.rxSeen = k.rxSeen
  changes : k'.changes = k.changes
  negotiated : k'.negotiated = k.negotiated
  answers : ∀ w ∈ k.waiting, proposesTables w.code w.arg = false → w ∈ k'.waiting

/-- A change of other fields. -/
theorem LinkSt.Stands.of_eq {k k' : LinkSt} (h : (k'.phase, k'.far, k'.wmSent, k'.rxSeen, k'.changes, k'.negotiated, k'.waiting) =
    (k.phase, k.far, k.wmSent, k.rxSeen, k.changes, k.negotiated, k.waiting)) : k.Stands k' := by
  obtain ⟨hphase, hfar, hsent, hseen, hchanges, hmodes, hwaiting⟩ : _ ∧ _ ∧ _ ∧ _ ∧ _ ∧ _ ∧ _ := by simpa only [Prod.mk.injEq] using h
  exact ⟨hphase, hfar, hsent, hseen, hchanges, hmodes, fun _ hw _ => hwaiting ▸ hw⟩

theorem LinkSt.Stands.refl (k : LinkSt) : k.Stands k := .of_eq rfl

theorem LinkSt.Stands.trans {k₁ k₂ k₃ : LinkSt} (h : k₁.Stands k₂) (g : k₂.Stands k₃) : k₁.Stands k₃ :=
  ⟨g.phase.trans h.phase, g.far.trans h.far, g.wmSent.trans h.wmSent, g.rxSeen.trans h.rxSeen, g.changes.trans h.changes,
    g.negotiated.trans h.negotiated, fun w hw ht => g.answers w (h.answers w hw ht) ht⟩

/-- The same of every link of the device, from one state to a later one. -/
def LinksStand (s t : State) : Prop := ∀ l, (s.link l).Stands (t.link l)

theorem LinksStand.trans {r s t : State} (h : LinksStand r s) (g : LinksStand s t) : LinksStand r t := fun l => (h l).trans (g l)

theorem linksStand_of_links {s t : State} (h : t.links = s.links) : LinksStand s t := fun l => by
  rw [State.link_congr h]
  exact .refl _

theorem linksStand_refl (s : State) : LinksStand s s := linksStand_of_links rfl

theorem linksStand_modLink {g : LinkSt → LinkSt} (l : LinkId) (s : State)
    (hg : ∀ k : LinkSt, k.Stands (g k) := by exact fun _ => .of_eq rfl) : LinksStand s (s.modLink l g) := fun m => by
  obtain h | h := s.link_modLink_or m l g <;> rw [h]
  · exact hg _
  · exact .refl _

theorem linksStand_forEach {α : Type} {f : α → State → State} (hf : ∀ x s, LinksStand s (f x s)) (xs : List α) (s : State) :
    LinksStand s (forEach xs f s) := by
  induction xs generalizing s with
  | nil => exact linksStand_refl s
  | cons x xs ih => exact (hf x s).trans (ih (f x s))

/-- Taking out the waiting messages that propose tables leaves the others. -/
theorem LinkSt.stands_without_tables (k : LinkSt) (qs : List Proposal) :
    k.Stands { k with waiting := k.waiting.filter (fun w => !proposesTables w.code w.arg), withdrawn := qs } :=
  ⟨rfl, rfl, rfl, rfl, rfl, rfl, fun _ hw ht => List.mem_filter.mpr ⟨hw, by rw [ht]; rfl⟩⟩

theorem linksStand_endRate (l : LinkId) (s : State) : LinksStand s (endRate l s) := linksStand_modLink l s

theorem linksStand_modEei (l : LinkId) (g : EeiSt → EeiSt) (s : State) : LinksStand s (modEei l g s) := linksStand_modLink l s

theorem linksStand_dropRxTables (l : LinkId) (s : State) : LinksStand s (dropRxTables l s) :=
  ((linksStand_modLink l s fun k => k.stands_without_tables _).trans
    (linksStand_forEach (fun p s => linksStand_of_links (dropRxSwap_links l.n p s)) _ _)).trans (linksStand_endRate l _)

theorem linksStand_endExchange (l : LinkId) (s : State) : LinksStand s (endExchange l s) :=
  (linksStand_dropRxTables l s).trans (linksStand_of_links (dropTxTables_links l _))

/-- A proposal that ends without effect takes its exchange or its depth with it, and no more. -/
theorem linksStand_cancelProposal (l : LinkId) (q : Proposal) (s : State) : LinksStand s (cancelProposal l q s) := by
  unfold cancelProposal
  extract_lets s1
  have hdrop : LinksStand s s1 := linksStand_modLink l s
  refine hdrop.trans ?_
  split
  · exact linksStand_of_links (dropRxSwap_links _ _ _)
  split
  · exact linksStand_dropRxTables l _
  split
  · exact linksStand_endExchange l _
  split
  · exact linksStand_modLink l _
  · exact linksStand_refl _

theorem linksStand_lapseSwaps (l : LinkId) (s : State) : LinksStand s (lapseSwaps l s) := linksStand_forEach (linksStand_cancelProposal l) _ s

theorem linksStand_resumeAtStage (l : LinkId) (s : State) : LinksStand s (resumeAtStage l s) := by
  have hopen : LinksStand s (openRx l s) := (linksStand_modEei l _ s).trans (linksStand_of_links (State.modQueue_links _ _ _))
  unfold resumeAtStage
  extract_lets k
  split
  · exact hopen
  · exact linksStand_refl s

theorem linksStand_beginEntries (l : LinkId) (wait : Nat) (ts : List (Nat × List Nat)) (s : State) : LinksStand s (beginEntries l wait ts s) := by
  unfold beginEntries
  extract_lets n s1 s2
  have hbanks : LinksStand s s1 := linksStand_forEach (fun _ _ => linksStand_of_links (by rw [State.modPair_links, setBank_links])) ts s
  have hcounts : LinksStand s1 s2 := linksStand_forEach (fun _ _ => linksStand_of_links (State.setFld_links _ _ _)) ts s1
  exact (hbanks.trans hcounts).trans (linksStand_modLink l s2)

/-- An exchange of tables waits, shows why it cannot be, or begins. -/
theorem linksStand_beginModeTables (l : LinkId) (b : Nat) (on : Bool) (s : State) : LinksStand s (beginModeTables l b on s) := by
  unfold beginModeTables
  extract_lets k
  split
  · exact linksStand_modLink l s
  split
  · split
    · exact linksStand_modLink l s
    split
    · exact linksStand_beginEntries l _ _ s
    · exact linksStand_modLink l s
  · split
    · exact linksStand_beginEntries l _ _ s
    · exact linksStand_modLink l s

theorem linksStand_setStream (l : LinkId) (d : Dir) (x : Nat) (s : State) : LinksStand s (setStream l d x s) :=
  linksStand_modLink l s fun _ => by cases d <;> exact .of_eq rfl

theorem linksStand_loseTransparent (l : LinkId) (s : State) : LinksStand s (loseTransparent l s) := by
  unfold loseTransparent
  extract_lets s1
  have hlow : LinksStand s s1 := linksStand_modLink l s
  refine hlow.trans (linksStand_forEach (fun d s => ?_) _ _)
  split
  · exact linksStand_refl s
  · exact linksStand_setStream l d _ s

theorem linksStand_judgeTransparent (l : LinkId) (s : State) : LinksStand s (judgeTransparent l s) := by
  have hretry (s : State) : LinksStand s (retryTransparent l s) := by
    unfold retryTransparent
    extract_lets k
    split
    · exact linksStand_beginModeTables l _ _ s
    · exact linksStand_refl s
  unfold judgeTransparent
  split
  · exact (linksStand_loseTransparent l s).trans (hretry _)
  · exact hretry s

/-- A declined exchange of tables ends, waits or begins; the answer still goes out. -/
theorem linksStand_declineMode (l : LinkId) (b : Nat) (on : Bool) (r : Nat) (s : State) : LinksStand s (declineMode l b on r s) := by
  have hend (c : Bool) : LinksStand s (if c then endExchange l s else dropTxTables l s) := by
    cases c
    · exact linksStand_of_links (dropTxTables_links l s)
    · exact linksStand_endExchange l s
  unfold declineMode
  extract_lets mine s1
  split
  · exact (hend mine).trans (linksStand_modLink l s1)
  split
  · split
    · split
      · exact linksStand_refl s
      · refine LinksStand.trans ?_ (linksStand_beginModeTables l b on _)
        exact linksStand_modLink l s
    · exact hend mine
  · exact linksStand_refl s

theorem linksStand_recordSent (l : LinkId) (w : WMsg) (stage : Nat) (s : State) : LinksStand s (recordSent l w stage s) := by
  unfold recordSent
  split
  · exact linksStand_modLink l s
  split
  · exact linksStand_of_links (State.inc_links _ _)
  split
  · exact LinksStand.trans (linksStand_of_links (State.inc_links _ _)) (linksStand_modLink l _)
  · exact linksStand_refl s

/-! ### What one pair sends in a waymark symbol (R103 to R105) -/

/-- From one state to a later one a waymark symbol with a message leaves on pair `p` of link `l`, and the links stand. -/
structure SendsWaymark (l : LinkId) (p : Nat) (s t : State) : Prop where
  stands : LinksStand s t
  out : s.out <+: t.out
  sent : ∃ m y, Out.waymark l p m y ∈ t.out

theorem SendsWaymark.then {l : LinkId} {p : Nat} {s t u : State} (h : SendsWaymark l p s t) (hl : LinksStand t u) (ho : u.out = t.out) :
    SendsWaymark l p s u :=
  ⟨h.stands.trans hl, ho ▸ h.out, ho ▸ h.sent⟩

theorem SendsWaymark.after {l : LinkId} {p : Nat} {r s t : State} (h : SendsWaymark l p s t) (hl : LinksStand r s) (ho : s.out = r.out) :
    SendsWaymark l p r t :=
  ⟨hl.trans h.stands, ho ▸ h.out, h.sent⟩

theorem putMessage_sends (l : LinkId) (p code seq stage arg : Nat) (s : State) : SendsWaymark l p s (putMessage l p code seq stage arg s) := by
  have hkeeps := @keeps_putMessage (· ∈ [.regs, .out]) ⟨by decide⟩ ⟨by decide⟩ s s l p code seq stage arg (keeps_refl _ s)
  refine ⟨linksStand_of_links (hkeeps.same .links (by decide)), hkeeps.out, ?_⟩
  unfold putMessage
  extract_lets k pm pp ack m w s1 y
  exact ⟨m, y, List.mem_append_right _ (List.mem_singleton_self _)⟩

theorem sendNew_sends (l : LinkId) (p : Nat) (w : WMsg) (stage : Nat) (s : State) : SendsWaymark l p s (sendNew l p w stage s) :=
  (putMessage_sends l p _ _ _ _ _).after (linksStand_of_links (State.modPair_links _ _ _ _)) (State.modPair_out _ _ _ _)

theorem resend_sends (l : LinkId) (p : Nat) (o : OutMsg) (s : State) : SendsWaymark l p s (resend l p o s) :=
  (putMessage_sends l p _ _ _ _ _).after (linksStand_of_links (State.modPair_links _ _ _ _)) (State.modPair_out _ _ _ _)

/-- Whatever a pair sends, it sends one message. -/
theorem sendOne_sends (l : LinkId) (hold : Bool) (p : Nat) (s : State) : SendsWaymark l p s (sendOne l hold p s) := by
  unfold sendOne
  extract_lets n k q statusDue dues due best free fresh plan status idle low newMsg
  clear_value due fresh plan
  have hstatus : SendsWaymark l p s (status s) :=
    (putMessage_sends l p _ _ _ _ s).then (linksStand_of_links (State.modPair_links _ _ _ _)) (State.modPair_out _ _ _ _)
  have hnew (w : WMsg) : SendsWaymark l p s (newMsg w s) := by
    have hsent := (sendNew_sends l p w (firstStage s l w) _).after (r := s)
      (linksStand_of_links (State.modPair_links _ n p (fun k => { k with waiting := k.waiting.erase w }))) (State.modPair_out _ _ _ _)
    simp only [newMsg]
    split
    · exact hsent.then (linksStand_modLink l _) (State.modLink_out _ _ _)
    · exact hsent
  have hlow : SendsWaymark l p s (low s) := by
    simp only [low]
    split
    · exact hstatus
    split
    · next i rest =>
      have hentry := sendNew_sends l p ⟨0x10, none, entryArg (s.shadow n p .rx) i, false⟩ k.own s
      exact hentry.then (linksStand_of_links (by simp)) (by simp)
    · exact putMessage_sends l p _ _ _ _ s
  have hagain (o : OutMsg) : SendsWaymark l p s (if best = 6 && statusDue then status s else resend l p o s) := by
    split
    · exact hstatus
    · exact resend_sends l p o s
  match due, fresh with
  | some o, some w =>
    show SendsWaymark l p s (if best ≤ prio w.code then _ else _)
    split
    · exact hagain o
    · exact hnew w
  | some o, none => exact hagain o
  | none, some w => exact hnew w
  | none, none => exact hlow

/-! ### A stage's waymark symbol on all its pairs -/

/-- The stage's waymark symbol of a link is sent, and each of the pairs has sent one with a message. -/
def AllSent (l : LinkId) (ps : List Nat) (s : State) : Prop :=
  (s.link l).wmSent = true ∧ ∀ p ∈ ps, ∃ m y, Out.waymark l p m y ∈ s.out

theorem AllSent.later {l : LinkId} {ps : List Nat} {s t : State} (h : AllSent l ps s) (hl : LinksStand s t) (ho : s.out <+: t.out) :
    AllSent l ps t := by
  refine ⟨(hl l).wmSent.trans h.1, fun p hp => ?_⟩
  obtain ⟨m, y, hmem⟩ := h.2 p hp
  exact ⟨m, y, ho.subset hmem⟩

/-- Where every pair sends in its turn, all have sent at the end. -/
theorem allSent_forEach {l : LinkId} {f : Nat → State → State} (hf : ∀ p s, SendsWaymark l p s (f p s)) (ps : List Nat) {s : State}
    (hs : (s.link l).wmSent = true) : AllSent l ps (forEach ps f s) := by
  refine ⟨(linksStand_forEach (fun p s => (hf p s).stands) ps s l).wmSent.trans hs, fun p hp => ?_⟩
  refine forEach_of_mem (P := fun p s => ∃ m y, Out.waymark l p m y ∈ s.out) (fun p s => (hf p s).sent) ?_ hp s
  rintro p q s ⟨m, y, hmem⟩
  exact ⟨m, y, (hf q s).out.subset hmem⟩

theorem AllSent.recorded {l : LinkId} {ps : List Nat} {s : State} (h : AllSent l ps s) (w : WMsg) (stage : Nat) :
    AllSent l ps (recordSent l w stage s) :=
  h.later (linksStand_recordSent l w stage s)
    (@keeps_recordSent (fun _ => True) ⟨trivial⟩ ⟨trivial⟩ s s l w stage (keeps_refl _ s)).out

/-- The start-up frames of the stage, and what is shown, take nothing back. -/
theorem AllSent.shown {l : LinkId} {ps : List Nat} {s : State} (h : AllSent l ps s) : AllSent l ps (showLink l (sendFrames l s)) :=
  h.later (linksStand_of_links ((showLink_links l _).trans (sendFrames_links l s)))
    (@keeps_showLink (fun _ => True) ⟨trivial⟩ ⟨trivial⟩ s _ l
      (@keeps_sendFrames (fun _ => True) ⟨trivial⟩ ⟨trivial⟩ ⟨trivial⟩ s s l (keeps_refl _ s))).out

/-! ### A link that leaves showtime (R193, R224) -/

theorem enterHoldOff_phase (l : LinkId) (s : State) : ((enterHoldOff l s).link l).phase = 10 := by simp [enterHoldOff]

theorem enterHoldOff_lastDown (l : LinkId) (s : State) : ((enterHoldOff l s).link l).lastDown = (s.link l).lastDown := by
  simp [enterHoldOff, drawSlots]

/-- A cause that neither starts up again nor disables holds off. -/
theorem linkDown_holds_off {l : LinkId} {cause : Nat} {s : State} (hup : isUp s l = true) (hcause : cause ∉ [7, 8, 9, 0xA]) :
    ((linkDown l cause s).link l).phase = 10 ∧ ((linkDown l cause s).link l).lastDown = cause := by
  simp only [List.mem_cons, List.not_mem_nil, or_false, not_or] at hcause
  obtain ⟨h7, h8, h9, hA⟩ := hcause
  unfold linkDown
  rw [if_neg (by simp [hup])]
  extract_lets k s1 s2 s3 s4 s5 s6 s7 s8 s9
  have hdown : (s3.link l).lastDown = cause := congrArg LinkSt.lastDown (State.link_modLink s2 l _)
  have hcounted : s5.links = s3.links := by
    simp only [s5, s4]
    split <;> simp
  have hside : s8.links = s3.links := calc
    s8.links = s7.links := sideLinkDown_links l s7
    _ = (expireAll l (expiryCause cause) (capNotice l s6)).links := showBeds_links l.n _
    _ = (capNotice l s6).links := expireAll_links l _ _
    _ = s6.links := capNotice_links l s6
    _ = s5.links := State.raise_links _ _ _ _
    _ = s3.links := hcounted
  have hnext : s9 = enterHoldOff l s8 := by simp only [s9, h7, h8, h9, hA, or_self, if_false]
  have hshown : (showRoute l.n (showLink l s9)).link l = s9.link l :=
    State.link_congr ((showRoute_links l.n _).trans (showLink_links l s9)) l
  rw [hshown, hnext, enterHoldOff_phase, enterHoldOff_lastDown, State.link_congr hside l]
  exact ⟨rfl, hdown⟩

/-! ### A retrain request leaves what is outstanding on the pairs (R202) -/

theorem eeiBreak_outs (l : LinkId) (s : State) (n p : Nat) : ((eeiBreak l s).pair n p).outs = (s.pair n p).outs := by
  have hquiet (q : Nat) (s : State) : ((s.modPair l.n q (fun k => { k with quiet := false })).pair n p).outs = (s.pair n p).outs := by
    obtain h | h := s.pair_modPair_or n p l.n q (fun k => { k with quiet := false }) <;> rw [h]
  unfold eeiBreak
  extract_lets e s1 s2 s3
  split
  · rw [State.setFld_pair, forEach_eq_of_step_eq (fun s => (s.pair n p).outs) _ hquiet, State.modLink_pair, State.modLink_pair]
  · rw [State.modLink_pair]

theorem requestRetrain_outs (l : LinkId) (cause : Nat) (s : State) (n p : Nat) :
    ((requestRetrain l cause s).pair n p).outs = (s.pair n p).outs := by
  unfold requestRetrain
  extract_lets k unsent st s1
  split
  · rfl
  split
  · split
    · rw [State.modLink_pair]
    · rfl
  · rfl
  split
  · rfl
  · rw [agree, sendPort, State.modLink_pair, State.modLink_pair]
    exact eeiBreak_outs l s n p

end Sys2Proof.Machine
end

section
/-! PROOF. The waymark channel, one clause of the statement after the other. -/
namespace Sys2Proof.Claims
open Sys2Proof Sys2Proof.Machine

/-! ### Symbols sent (R53, R99 to R105) -/

theorem waymarkSymbolTx_sends {l : LinkId} {s : State} (hnot : (s.link l).wmSent = false) :
    ∃ t : State, exec (.waymarkSymbolTx l) s = .next t ∧ AllSent l (sendPairs (announcePattern l s) l) t := by
  show ∃ t, execWaymarkSymbolTx l s = .next t ∧ _
  unfold execWaymarkSymbolTx
  rw [if_neg (by simp [hnot])]
  extract_lets s1 k ps s2 s3 s4 cand
  have hmarked : (s4.link l).wmSent = true := by
    have hsync : s4.links = s3.links := forEach_eq_of_step_eq State.links (sendSync l) (sendSync_links l) _ s3
    rw [State.link_congr hsync]
    exact congrArg LinkSt.wmSent (State.link_modLink s2 l _)
  have hone (hold : Bool) : AllSent l ps (forEach ps (sendOne l hold) s4) := allSent_forEach (sendOne_sends l hold) ps hmarked
  clear_value cand
  cases cand with
  | none => exact ⟨_, rfl, (hone false).shown⟩
  | some w =>
    dsimp only
    split
    · refine ⟨_, rfl, ((allSent_forEach (fun p s => sendNew_sends l p w _ s) ps ?_).recorded w _).shown⟩
      exact (congrArg LinkSt.wmSent (State.link_modLink s4 l _)).trans hmarked
    · exact ⟨_, rfl, (hone true).shown⟩

/-! ### Symbols received (R114, R180, R200) -/

/-- In showtime a symbol of which nothing is heard counts the far stage on. -/
theorem hearSymbol_nil {l : LinkId} {s : State} (hphase : (s.link l).phase = 7) : hearSymbol l [] s =
    lapseSwaps l (resumeAtStage l (((s.inc (PORT_STAGE_GUESS l.n)).modLink l (fun k => { k with
      far := stagePlus (s.link l).far 1, farPrev := k.far, rxSeen := true })).modQueue l (fun q => { q with
        rxSym := 0, rxCoded := [], rxIlv := 0 }))) := by
  have hnone : forEach [] (receivePair l) s = s := rfl
  simp only [hearSymbol, hnone, goodMessages, List.filter_nil, List.map_nil, hphase, true_or, if_true]

theorem waymarkSymbolRx_unheard_goes_on {l : LinkId} {s : State} (hphase : (s.link l).phase = 7) :
    ∃ t : State, exec (.waymarkSymbolRx l []) s = .next t ∧ (t.link l).far = stagePlus (s.link l).far 1 ∧ (t.link l).rxSeen = true := by
  let s1 := (rxWaymark l [] s).2
  have hstand : LinksStand s s1 := linksStand_modEei l (fun e => { e with alertSyms := e.alertSyms.map (· + 1) }) s
  have hexec : exec (.waymarkSymbolRx l []) s = .next (showLink l (hearSymbol l [] s1)) := by
    show execWaymarkSymbolRx l [] s = _
    simp only [execWaymarkSymbolRx, hphase]
    rfl
  refine ⟨_, hexec, ?_⟩
  rw [State.link_congr (showLink_links l _), hearSymbol_nil ((hstand l).phase.trans hphase)]
  generalize hs2 : ((s1.inc (PORT_STAGE_GUESS l.n)).modLink l _).modQueue l _ = s2
  have hrest := ((linksStand_resumeAtStage l s2).trans (linksStand_lapseSwaps l _)) l
  have hcounted : (s2.link l).far = stagePlus (s1.link l).far 1 ∧ (s2.link l).rxSeen = true := by
    rw [← hs2, State.modQueue_link, State.link_modLink]
    exact ⟨rfl, rfl⟩
  rw [hrest.far, hrest.rxSeen, hcounted.1, (hstand l).far]
  exact ⟨rfl, hcounted.2⟩

theorem waymarkSyncLoss_takes_link_down {l : LinkId} {s : State} (hphase : (s.link l).phase = 7)
    (hmiss : ∀ p ∈ maskPairs (s.link l).carryRx, 2 ≤ (s.pair l.n p).missRun) :
    ∃ t : State, exec (.waymarkSyncLoss l) s = .next t ∧ (t.link l).phase = 10 ∧ (t.link l).lastDown = 1 := by
  have hup : isUp s l = true := by simp [isUp, hphase]
  have hall : (maskPairs (s.link l).carryRx).any (fun p => decide ((s.pair l.n p).missRun < 2)) = false :=
    List.any_eq_false.mpr fun p hp => by
      rw [decide_eq_true_eq, Nat.not_lt]
      exact hmiss p hp
  refine ⟨linkDown l 1 s, ?_, linkDown_holds_off hup (by decide)⟩
  show execWaymarkSyncLoss l s = _
  simp only [execWaymarkSyncLoss, hphase, if_true, hall, Bool.false_eq_true, if_false]

/-! ### Messages (R102, R105, R145, R201, R202) -/

theorem wmMessageAbandon_drops_oldest {l : LinkId} {p : Pair} {o : OutMsg} {rest : List OutMsg} {s : State}
    (houts : (s.pair l.n p).outs = o :: rest) (hlimit : max 8 (s.fld (PORT_LINK_CFG.WM_RETRY l.n)) ≤ o.first) :
    ∃ t : State, exec (.wmMessageAbandon l p) s = .next t ∧ (t.pair l.n p).outs = rest := by
  show ∃ t, execWmMessageAbandon l p s = .next t ∧ _
  simp only [execWmMessageAbandon, houts, if_neg (Nat.not_lt.mpr hlimit)]
  refine ⟨_, rfl, ?_⟩
  rw [State.pair_congr (showLink_pairs l _), requestRetrain_outs]
  simp

theorem stageCheck_adopts_count {l : LinkId} {p : Pair} {m : Msg} {s : State} (hlower : isHigher (s.link l) = false) :
    ∃ t : State, exec (.stageCheck l p m) s = .next t ∧ (t.link l).far = msgStage m ∧ (t.link l).checkAcked = true := by
  show ∃ t, execStageCheck l p m s = .next t ∧ _
  unfold execStageCheck
  extract_lets s1 k s2
  have hrecord : k = { s.link l with inbox := (s.link l).inbox.filter (fun x => x != (p.val, m)), checkAcked := true } := by
    simp only [k, s1, consume, State.link_modLink]
  have hlower' : isHigher k = false := by rw [hrecord]; exact hlower
  have hacked : k.checkAcked = true := by rw [hrecord]
  split
  · next hsame =>
    have hfar : k.far = msgStage m := by simpa [hlower'] using hsame
    refine ⟨_, rfl, ?_⟩
    rw [State.link_congr (showLink_links l s1)]
    exact ⟨hfar, hacked⟩
  · have hraised : s2.link l = k := (State.raise_link _ _ _ _ _).trans (State.inc_link _ _ _)
    refine ⟨_, rfl, ?_⟩
    rw [State.link_congr (showLink_links l _), State.link_modLink, hraised]
    exact ⟨rfl, hacked⟩

theorem wmUnknownCode_counts {n : Port} {p : Pair} {m : Msg} {s : State} (hcode : knownCode m.code = false) :
    ∃ t : State, exec (.wmUnknownCode n p m) s = .next t ∧
      (t.reg (PAIR_WM_UNKNOWN n p) = s.reg (PAIR_WM_UNKNOWN n p) + 1 ∧ ∀ a, a ≠ PAIR_WM_UNKNOWN n p → t.reg a = s.reg a) := by
  refine ⟨s.inc (PAIR_WM_UNKNOWN n p), ?_, State.reg_inc_same _ _, State.reg_inc_other s _⟩
  show execWmUnknownCode n p m s = _
  rw [execWmUnknownCode, hcode]
  rfl

theorem wmStatus_takes_message (l : LinkId) (p : Pair) (m : Msg) (s : State) :
    ∃ t : State, exec (.wmStatus l p m) s = .next t ∧
      ((t.link l).inbox = (s.link l).inbox.filter (fun x => x != (p.val, m)) ∧ t.regs = s.regs ∧ t.pairs = s.pairs) :=
  ⟨consume l p m s, rfl, congrArg LinkSt.inbox (State.link_modLink s l _), State.modLink_regs _ _ _, State.modLink_pairs _ _ _⟩

/-- Settles O23, clause by clause: what the pairs send is only added to what has left, and bookkeeping leaves the counts of a link. -/
theorem waymarkChannelSendsAndReceives : Obligations.WaymarkChannelSendsAndReceives :=
  ⟨fun _ _ => waymarkSymbolTx_sends, fun _ _ => waymarkSymbolRx_unheard_goes_on, fun _ _ => waymarkSyncLoss_takes_link_down,
    fun _ _ _ _ _ => wmMessageAbandon_drops_oldest, wmStatus_takes_message, fun _ _ _ _ => stageCheck_adopts_count,
    fun _ _ _ _ => wmUnknownCode_counts⟩

end Sys2Proof.Claims
end

section
/-! PROOF. Writes of PORT_MODE, the modes that one end switches alone, and PATTERN's error injection, one clause of the statement after the other. -/
namespace Sys2Proof.Claims
open Sys2Proof Sys2Proof.Machine

/-! ### A local mode put in force (R45, R590) -/

theorem startBundle_ports (n : Port) (s : State) : (startBundle n s).ports = s.ports :=
  (@keeps_startBundle (· ∈ [.regs, .coef, .seeds]) ⟨by decide⟩ ⟨by decide⟩ ⟨by decide⟩ s s n (keeps_refl _ s)).same .ports (by decide)

theorem startBundle_reg_PORT_MODE (n : Port) (s : State) : (startBundle n s).reg (PORT_MODE n) = s.reg (PORT_MODE n) := by
  have hcleared (xs : List Nat) (s : State) : (forEach xs (fun p s => clearMem (gpair n p) 4 s) s).regs = s.regs :=
    forEach_eq_of_step_eq State.regs _ (fun p s =>
      (@keeps_clearMem (· ∈ [.coef, .seeds]) ⟨by decide⟩ ⟨by decide⟩ s s (gpair n p) 4 (keeps_refl _ s)).same .regs (by decide)) xs s
  have hapart : PORT_MODE n ≠ PORT_XT_STATUS n := by unfold PORT_MODE PORT_XT_STATUS; omega
  rw [startBundle, State.reg_setFld_other _ _ _ _ hapart, State.reg_setFld_other _ _ _ _ hapart, State.reg_congr _ _ (hcleared _ _)]

theorem putLocal_port (n : Port) (b : Nat) (v : Bool) (s : State) :
    (putLocal n b v s).port n = { s.port n with localOn := setBit (s.port n).localOn b v } := by
  unfold putLocal
  extract_lets was s1
  split
  · rw [State.port_congr (startBundle_ports n s1), State.port_modPort]
  · exact State.port_modPort _ _ _

theorem putLocal_localOn (n : Port) (b : Nat) (v : Bool) (s : State) : bit ((putLocal n b v s).port n).localOn b = v := by
  rw [putLocal_port]
  exact bit_setBit_same _ _ _

theorem modeSet_putLocal (n : Port) (b : Nat) (v : Bool) (s : State) : modeSet (putLocal n b v s) n = modeSet s n := by
  unfold modeSet putLocal
  extract_lets was s1
  split
  · rw [startBundle_reg_PORT_MODE, State.modPort_reg]
  · rw [State.modPort_reg]

/-- A write of the value in effect leaves it in effect. -/
theorem writeLocal_same {n : Port} {b : Nat} {v : Bool} {s : State} (hon : bit (s.port n).localOn b = v) :
    bit ((writeLocal n b v s).port n).localOn b = v := by
  unfold writeLocal
  extract_lets k
  split
  · exact hon
  split
  · exact putLocal_localOn n b v s
  rw [if_pos (beq_iff_eq.mpr hon)]
  exact hon

/-- Outside showtime a write acts at once (R48), but for TIMETABLE and PATTERN. -/
theorem writeLocal_outside_showtime {n : Port} {b : Nat} {v : Bool} {s : State} (hwait : bit (s.port n).localWait b = false)
    (htimetable : b ≠ 0) (hpattern : b ≠ mPATTERN) (hshow : portShow s n = false) : writeLocal n b v s = putLocal n b v s := by
  simp [writeLocal, hwait, htimetable, hpattern, hshow]

theorem writeLocal_TIMETABLE {n : Port} {v : Bool} {s : State} (hwait : bit (s.port n).localWait 0 = false)
    (hon : bit (s.port n).localOn 0 = !v) : writeLocal n 0 v s = waitLocal n 0 v s := by
  have hpattern : (0 == mPATTERN) = false := rfl
  have htest : isTestMode 0 = false := rfl
  simp [writeLocal, hwait, hpattern, hon, htest]

/-- A value that waits, and that the register still has, takes effect. -/
theorem applyLocal_takes_effect {n : Port} {b : Nat} {s : State} (hwait : bit (s.port n).localWait b = true)
    (hset : bit (modeSet s n) b = bit (s.port n).localVal b) : bit ((applyLocal n b s).port n).localOn b = bit (s.port n).localVal b := by
  unfold applyLocal
  extract_lets k s1
  rw [if_neg (by simp [k, hwait])]
  have hsame : bit (modeSet s1 n) b = bit (s.port n).localVal b := by
    rw [modeSet_putLocal, ← hset]
    simp only [modeSet, State.modPort_reg]
  rw [hsame]
  exact writeLocal_same (putLocal_localOn n b _ _)

/-! ### What leaves the ports' records -/

theorem refreshModes_ports (n : Port) (s : State) : (refreshModes n s).ports = s.ports :=
  (@keeps_refreshModes (· ∈ [.regs, .raised]) ⟨by decide⟩ ⟨by decide⟩ s s n (keeps_refl _ s)).same .ports (by decide)

theorem showLink_ports (l : LinkId) (s : State) : (showLink l s).ports = s.ports :=
  (@keeps_showLink (· ∈ [.regs, .raised]) ⟨by decide⟩ ⟨by decide⟩ s s l (keeps_refl _ s)).same .ports (by decide)

theorem showRoute_ports (n : Port) (s : State) : (showRoute n s).ports = s.ports := by simp [showRoute]

theorem releaseHeld_ports (n : Port) (s : State) : (releaseHeld n s).ports = s.ports :=
  (@keeps_releaseHeld (· ∈ [.queues]) ⟨by decide⟩ s s n (keeps_refl _ s)).same .ports (by decide)

theorem testSettled_ports (n : Port) (s : State) : (testSettled n s).ports = s.ports :=
  (@keeps_testSettled (· ∈ [.queues]) ⟨by decide⟩ s s n (keeps_refl _ s)).same .ports (by decide)

theorem wakePort_ports (n : Port) (cause : Nat) (s : State) : (wakePort n cause s).ports = s.ports :=
  (@keeps_wakePort (· ∈ [.regs, .links, .out]) ⟨by decide⟩ ⟨by decide⟩ ⟨by decide⟩ s s n cause (keeps_refl _ s)).same .ports (by decide)

/-! ### Writes of PORT_MODE (R42, R45) -/

theorem portShow_setReg (n : Port) (a : Nat) (w : Word) (s : State) : portShow (s.setReg a w) n = portShow s n := rfl

/-- A write that selects one local bit changes the register and writes that mode. -/
theorem writePortMode_port_of_one {n : Port} {v b : Nat} {s : State} (hsel : (List.range 12).filter (bit (v / 2 ^ 16 % 4096)) = [b])
    (hlocal : isLocalMode b = true) :
    ∃ w, (writePortMode n v s).port n = (writeLocal n b (bit v b) (s.setReg (PORT_MODE n) w)).port n := by
  unfold writePortMode
  extract_lets sel new s1 s2
  refine ⟨word new, ?_⟩
  have hwritten : s2 = writeLocal n b (bit v b) s1 := by
    simp only [s2, sel, hsel]
    show (if isLocalMode b then writeLocal n b (bit v b) s1 else _) = _
    rw [if_pos hlocal]
  rw [State.port_congr (refreshModes_ports n s2), hwritten]

theorem portModeWrite_BUNDLE_outside_showtime {n : Port} {v : Word} {s : State} (hsel : v.toNat / 2 ^ 16 % 4096 = 8)
    (hshow : portShow s n = false) (hwait : bit (s.port n).localWait 3 = false) :
    ∃ t : State, exec (.portModeWrite n v) s = .next t ∧ bit (t.port n).localOn 3 = bit v.toNat 3 := by
  have honly : (List.range 12).filter (bit (v.toNat / 2 ^ 16 % 4096)) = [3] := by
    rw [hsel]
    decide
  obtain ⟨w, hw⟩ := writePortMode_port_of_one (n := n) (s := s) honly rfl
  have hwait' : bit ((s.setReg (PORT_MODE n) w).port n).localWait 3 = false := by rw [State.setReg_port]; exact hwait
  refine ⟨writePortMode n v.toNat s, rfl, ?_⟩
  rw [hw, writeLocal_outside_showtime hwait' (by decide) (by decide) ((portShow_setReg n _ w s).trans hshow)]
  exact putLocal_localOn _ _ _ _

theorem portModeWrite_TIMETABLE_waits {n : Port} {v : Word} {s : State} (hsel : v.toNat / 2 ^ 16 % 4096 = 1)
    (hon : bit (s.port n).localOn 0 = !bit v.toNat 0) (hwait : bit (s.port n).localWait 0 = false) :
    ∃ t : State, exec (.portModeWrite n v) s = .next t ∧
      (bit (t.port n).localWait 0 = true ∧ bit (t.port n).localVal 0 = bit v.toNat 0) := by
  have honly : (List.range 12).filter (bit (v.toNat / 2 ^ 16 % 4096)) = [0] := by
    rw [hsel]
    decide
  obtain ⟨w, hw⟩ := writePortMode_port_of_one (n := n) (s := s) honly rfl
  have hwait' : bit ((s.setReg (PORT_MODE n) w).port n).localWait 0 = false := by rw [State.setReg_port]; exact hwait
  have hon' : bit ((s.setReg (PORT_MODE n) w).port n).localOn 0 = !bit v.toNat 0 := by rw [State.setReg_port]; exact hon
  refine ⟨writePortMode n v.toNat s, rfl, ?_⟩
  rw [hw, writeLocal_TIMETABLE hwait' hon', waitLocal, State.port_modPort]
  exact ⟨bit_setBit_same _ _ _, bit_setBit_same _ _ _⟩

/-! ### Waiting changes take effect (R45, R50, R250) -/

theorem timetableModeApply_takes_effect {n : Port} {s : State} (hclosed : (s.host n).isOpen = false)
    (hwait : bit (s.port n).localWait 0 = true) (hset : bit (modeSet s n) 0 = bit (s.port n).localVal 0) :
    ∃ t : State, exec (.timetableModeApply n) s = .next t ∧ bit (t.port n).localOn 0 = bit (s.port n).localVal 0 := by
  refine ⟨refreshModes n (applyLocal n 0 s), ?_, ?_⟩
  · show execTimetableModeApply n s = _
    rw [execTimetableModeApply, hclosed]
    rfl
  · rw [State.port_congr (refreshModes_ports n _)]
    exact applyLocal_takes_effect hwait hset

theorem bundleModeApply_takes_effect {n : Port} {s : State} (hwait : bit (s.port n).localWait 3 = true)
    (hset : bit (modeSet s n) 3 = bit (s.port n).localVal 3) :
    ∃ t : State, exec (.bundleModeApply n) s = .next t ∧ bit (t.port n).localOn 3 = bit (s.port n).localVal 3 := by
  refine ⟨refreshModes n (applyLocal n 3 s), rfl, ?_⟩
  rw [State.port_congr (refreshModes_ports n _)]
  exact applyLocal_takes_effect hwait hset

theorem testModeDrainPoint_takes_effect {n : Port} {b : Nat} {s : State} (htest : isTestMode b = true) (hawake : allAwake s n = true)
    (hdrained : drained s n = true) (hwait : bit (s.port n).localWait b = true)
    (hset : bit (modeSet s n) b = bit (s.port n).localVal b) :
    ∃ t : State, exec (.testModeDrainPoint n b) s = .next t ∧ bit (t.port n).localOn b = bit (s.port n).localVal b := by
  show ∃ t, execTestModeDrainPoint n b s = .next t ∧ _
  unfold execTestModeDrainPoint
  rw [if_neg (by simp [htest, hawake, hdrained, hwait])]
  extract_lets s1 s2 s3
  have hcaps (s : State) : (forEach (activeLinks s1 n) capNotice (testSettled n s)).ports = s.ports :=
    (forEach_eq_of_step_eq State.ports capNotice (fun l s => State.modQueue_ports s l _) _ _).trans (testSettled_ports n s)
  have hcapacity : s2.ports = s1.ports := by
    simp only [s2]
    split
    · rfl
    · exact hcaps s1
  have hwoken : s3.ports = s2.ports := by
    simp only [s3]
    split
    · exact wakePort_ports n 3 s2
    · rfl
  have hshown : (refreshModes n (forEach (activeLinks s3 n) showLink (showRoute n s3))).ports = (applyLocal n b s).ports := by
    rw [refreshModes_ports, forEach_eq_of_step_eq State.ports showLink showLink_ports, showRoute_ports, hwoken, hcapacity]
    exact releaseHeld_ports n _
  refine ⟨_, rfl, ?_⟩
  rw [State.port_congr hshown]
  exact applyLocal_takes_effect hwait hset

/-! ### Error injection (R42, R53) -/

theorem injectPattern_injects {n : Port} {p count : Nat} {s : State} (hmode : inEffect s n mPATTERN = true)
    (hp : p ∈ maskPairs (sentPattern s n)) :
    count ≤ ((injectPattern n count s).pair n p).injBits ∧ (injectPattern n count s).regs = s.regs := by
  rw [injectPattern, if_pos hmode]
  refine ⟨?_, forEach_eq_of_step_eq State.regs _ (fun q s => State.modPair_regs s n q _) _ s⟩
  refine forEach_of_mem (P := fun p s => count ≤ (s.pair n p).injBits) (fun q s => ?_) (fun p q s h => ?_) hp s
  · rw [State.pair_modPair]
    exact Nat.le_max_right _ _
  · obtain hsame | hother := s.pair_modPair_or n p n q (fun k => { k with injBits := max k.injBits count })
    · rw [hsame]
      exact h.trans (Nat.le_max_left _ _)
    · rwa [hother]

/-- Settles O25, clause by clause: a local mode put in force stays so when its register is read again. -/
theorem modeWritesAndLocalModes : Obligations.ModeWritesAndLocalModes :=
  ⟨fun _ _ _ => portModeWrite_BUNDLE_outside_showtime, fun _ _ _ => portModeWrite_TIMETABLE_waits,
    fun _ _ => timetableModeApply_takes_effect, fun _ _ => bundleModeApply_takes_effect, fun _ _ _ => testModeDrainPoint_takes_effect,
    fun _ _ _ hmode hp => ⟨_, rfl, injectPattern_injects hmode hp⟩, fun _ _ _ hmode hp => ⟨_, rfl, injectPattern_injects hmode hp⟩⟩

end Sys2Proof.Claims
end

section
/-! PROOF. The modes that both ends agree, one clause of the statement after the other. -/
namespace Sys2Proof.Claims
open Sys2Proof Sys2Proof.Machine

/-! ### The records of a link along a negotiated change (R46, R47) -/

theorem consume_link (l : LinkId) (p : Nat) (m : Msg) (s : State) :
    (consume l p m s).link l = { s.link l with inbox := (s.link l).inbox.filter (fun x => x != (p, m)) } := State.link_modLink s l _

theorem dropProposal_link (l : LinkId) (q : Proposal) (s : State) :
    (dropProposal l q s).link l = { s.link l with proposals := (s.link l).proposals.filter (fun x => x != q) } := State.link_modLink s l _

theorem sendPort_link (l : LinkId) (code : Nat) (stage : Option Nat) (arg : Nat) (s : State) :
    (sendPort l code stage arg s).link l = { s.link l with waiting := (s.link l).waiting ++ [⟨code, stage, arg, true⟩] } :=
  State.link_modLink s l _

theorem agreeMode_link (l : LinkId) (b : Nat) (on : Bool) (stage : Nat) (s : State) :
    (agreeMode l b on stage s).link l = { s.link l with changes := (s.link l).changes ++ [⟨stage, .mode b on, false, false⟩] } := by
  rw [agreeMode, capAgree, State.modQueue_link, agree, State.link_modLink]

theorem not_mem_dropped (q : Proposal) (qs : List Proposal) : q ∉ qs.filter (fun x => x != q) := by simp

/-- With no proposal of this end open nothing crosses. -/
theorem crossing_of_none {l : LinkId} {code : Nat} {s : State} (h : (s.link l).proposals.find? (fun q => q.code == code) = none) :
    crossing l code s = (true, s) := by rw [crossing, h]

theorem afterPending_of_not_rewritten {l : LinkId} {b : Nat} {s : State} (h : bit (s.port l.n).rewritten b = false) :
    afterPending l b s = s := by simp [afterPending, h]

/-! ### Proposals answered -/

section
variable {l : LinkId} {p : Pair} {m : Msg} {s : State}

theorem modePropose_declined {r : Nat} (hphase : (s.link l).phase = 7)
    (hopen : (s.link l).proposals.find? (fun q => q.code == 0x30) = none)
    (hreason : modeDeclineReason (consume l p m s) l (m.arg % 16) (bit m.arg 4) (msgStage m) = some r) :
    ∃ t : State, exec (.modePropose l p m) s = .next t ∧
      (⟨0x32, some (msgStage m), r, true⟩ : WMsg) ∈ (t.link l).waiting ∧ (t.link l).changes = (s.link l).changes := by
  have hrecord := consume_link l p m s
  generalize hs1 : consume l p m s = s1 at hrecord hreason
  have hexec : exec (.modePropose l p m) s =
      .next (showLink l (declineMode l (m.arg % 16) (bit m.arg 4) r (sendPort l 0x32 (some (msgStage m)) r s1))) := by
    have hphase1 : (s1.link l).phase = 7 := by rw [hrecord]; exact hphase
    have hcross : crossing l 0x30 s1 = (true, s1) := crossing_of_none (by rw [hrecord]; exact hopen)
    show execModePropose l p m s = _
    simp only [execModePropose, hs1, hphase1, hcross, hreason]
    rfl
  have hstand := linksStand_declineMode l (m.arg % 16) (bit m.arg 4) r (sendPort l 0x32 (some (msgStage m)) r s1) l
  have hsent := sendPort_link l 0x32 (some (msgStage m)) r s1
  refine ⟨_, hexec, ?_, ?_⟩
  · rw [State.link_congr (showLink_links l _)]
    refine hstand.answers _ ?_ rfl
    rw [hsent]
    exact List.mem_append_right _ (List.mem_singleton_self _)
  · rw [State.link_congr (showLink_links l _), hstand.changes, hsent, hrecord]

theorem modePropose_accepted (hphase : (s.link l).phase = 7)
    (hopen : (s.link l).proposals.find? (fun q => q.code == 0x30) = none)
    (hreason : modeDeclineReason (consume l p m s) l (m.arg % 16) (bit m.arg 4) (msgStage m) = none) :
    ∃ t : State, exec (.modePropose l p m) s = .next t ∧ (⟨0x31, some (msgStage m), m.arg % 32, true⟩ : WMsg) ∈ (t.link l).waiting ∧
      (⟨msgStage m, .mode (m.arg % 16) (bit m.arg 4), false, false⟩ : Change) ∈ (t.link l).changes := by
  have hrecord := consume_link l p m s
  have hphase1 : ((consume l p m s).link l).phase = 7 := by rw [hrecord]; exact hphase
  have hcross : crossing l 0x30 (consume l p m s) = (true, consume l p m s) := crossing_of_none (by rw [hrecord]; exact hopen)
  have hagreed := agreeMode_link l (m.arg % 16) (bit m.arg 4) (msgStage m) (consume l p m s)
  show ∃ t, execModePropose l p m s = .next t ∧ _
  simp only [execModePropose, hphase1, hcross, hreason]
  refine ⟨_, rfl, ?_⟩
  rw [State.link_congr (showLink_links l _), sendPort_link, State.link_modLink]
  refine ⟨List.mem_append_right _ (List.mem_singleton_self _), ?_⟩
  dsimp only
  rw [hagreed]
  exact List.mem_append_right _ (List.mem_singleton_self _)

/-! ### Replies taken -/

theorem modeAccept_agrees {q : Proposal} (hq : proposalAt (s.link l) 0x30 (msgStage m) = some q) (hfree : agreedAt (s.link l) q.stage = false) :
    ∃ t : State, exec (.modeAccept l p m) s = .next t ∧
      (⟨q.stage, .mode (q.arg % 16) (bit q.arg 4), false, false⟩ : Change) ∈ (t.link l).changes ∧ q ∉ (t.link l).proposals := by
  have hrecord := consume_link l p m s
  have hq1 : proposalAt ((consume l p m s).link l) 0x30 (msgStage m) = some q := by rw [hrecord]; exact hq
  have hdrop := dropProposal_link l q (consume l p m s)
  have hfree1 : agreedAt ((dropProposal l q (consume l p m s)).link l) q.stage = false := by rw [hdrop, hrecord]; exact hfree
  have hexec : exec (.modeAccept l p m) s =
      .next (showLink l (agreeMode l (q.arg % 16) (bit q.arg 4) q.stage (dropProposal l q (consume l p m s)))) := by
    show execModeAccept l p m s = _
    simp only [execModeAccept, hq1, hfree1]
    rfl
  refine ⟨_, hexec, ?_⟩
  rw [State.link_congr (showLink_links l _), agreeMode_link, hdrop]
  exact ⟨List.mem_append_right _ (List.mem_singleton_self _), not_mem_dropped q _⟩

theorem modeDecline_marks {q : Proposal} (hq : proposalAt (s.link l) 0x30 (msgStage m) = some q)
    (hwritten : bit (s.port l.n).rewritten (q.arg % 16) = false) (hmode : q.arg % 16 < 7) :
    ∃ t : State, exec (.modeDecline l p m) s = .next t ∧ bit (t.link l).declined (q.arg % 16) = true ∧ q ∉ (t.link l).proposals := by
  have hq1 : proposalAt ((consume l p m s).link l) 0x30 (msgStage m) = some q := by rw [consume_link]; exact hq
  have htransparent : (q.arg % 16 == mTRANSPARENT) = false := beq_eq_false_iff_ne.mpr (Nat.ne_of_lt hmode)
  have hplain : ¬ q.arg % 16 = mPLAIN := Nat.ne_of_lt (hmode.trans (by decide))
  show ∃ t, execModeDecline l p m s = .next t ∧ _
  simp only [execModeDecline, hq1, htransparent, hplain, Bool.false_and, Bool.false_eq_true, if_false, false_and, or_self]
  refine ⟨_, rfl, ?_⟩
  rw [State.link_congr (showLink_links l _), afterPending_of_not_rewritten (by simpa [consume, dropProposal] using hwritten),
    State.link_modLink, State.inc_link, dropProposal_link]
  exact ⟨bit_setBit_same _ _ _, not_mem_dropped q _⟩

end

/-! ### An exchange of tables applies: TRANSPARENT and PLAIN (R45, R58, R198) -/

theorem applyCoding_tx_negotiates (l : LinkId) (on : Bool) (s : State) :
    bit ((applyCoding l on .tx s).link l).negotiated mPLAIN = on := by
  rw [applyCoding, State.link_modLink]
  exact bit_setBit_same _ _ _

/-- What the receive direction takes over leaves the modes agreed. -/
theorem applyModeDir_rx_negotiated (l : LinkId) (b : Nat) (on : Bool) (s : State) :
    ((applyModeDir l b on .rx s).link l).negotiated = (s.link l).negotiated := by
  unfold applyModeDir
  split
  · split
    · rw [setStream, State.link_modLink, State.link_congr (swapBanks_links l .rx s)]
    · rw [setStream, State.link_modLink]
  split
  · rw [applyCoding, State.link_modLink, State.link_congr (swapBanks_links l .rx s)]
  · rfl

theorem applyModeDir_ports (l : LinkId) (b : Nat) (on : Bool) (d : Dir) (s : State) : (applyModeDir l b on d s).ports = s.ports :=
  (@keeps_applyModeDir (· ∈ [.regs, .pairs, .links]) ⟨by decide⟩ ⟨by decide⟩ ⟨by decide⟩ s s l b on d (keeps_refl _ s)).same .ports (by decide)

theorem judgeTransparent_ports (l : LinkId) (s : State) : (judgeTransparent l s).ports = s.ports :=
  (@keeps_judgeTransparent (· ∈ [.regs, .pairs, .links, .tbl]) ⟨by decide⟩ ⟨by decide⟩ ⟨by decide⟩ ⟨by decide⟩ s s l (keeps_refl _ s)).same
    .ports (by decide)

theorem applyModeWhole_TRANSPARENT (l : LinkId) (c : Change) (on : Bool) (s : State) :
    applyModeWhole l c mTRANSPARENT on s = s.modLink l (fun k => { k with negotiated := setBit k.negotiated mTRANSPARENT on }) := rfl

theorem applyModeWhole_PLAIN (l : LinkId) (c : Change) (on : Bool) (s : State) : applyModeWhole l c mPLAIN on s = s := rfl

/-- Where a change of PLAIN has already been applied to the transmit direction, TRANSPARENT and PLAIN stand as agreed. -/
theorem applyModeWhole_negotiates {l : LinkId} {c : Change} {b : Nat} {on : Bool} {s : State} (hb : b = mTRANSPARENT ∨ b = mPLAIN)
    (hplain : b = mPLAIN → bit (s.link l).negotiated b = on) : bit ((applyModeWhole l c b on s).link l).negotiated b = on := by
  obtain rfl | rfl := hb
  · rw [applyModeWhole_TRANSPARENT, State.link_modLink]
    exact bit_setBit_same _ _ _
  · exact hplain rfl

theorem applyModeWhole_ports {b : Nat} (hb : b = mTRANSPARENT ∨ b = mPLAIN) (l : LinkId) (c : Change) (on : Bool) (s : State) :
    (applyModeWhole l c b on s).ports = s.ports := by
  obtain rfl | rfl := hb
  · rw [applyModeWhole_TRANSPARENT, State.modLink_ports]
  · rfl

/-- From one state to a later one the links stand and no port's record changes. -/
def Settles (s t : State) : Prop := LinksStand s t ∧ t.ports = s.ports

theorem Settles.refl (s : State) : Settles s s := ⟨linksStand_refl s, rfl⟩

theorem Settles.trans {r s t : State} (h : Settles r s) (g : Settles s t) : Settles r t := ⟨h.1.trans g.1, g.2.trans h.2⟩

theorem settles_ite {c : Prop} [Decidable c] {r s t : State} (hs : Settles r s) (ht : Settles r t) : Settles r (if c then s else t) := by
  split <;> assumption

theorem modeChangeApply_negotiates {l : LinkId} {c : Change} {b : Nat} {on : Bool} {s : State} (hphase : (s.link l).phase = 7)
    (hdue : modeChangeDue (s.link l) = some (c, b, on)) (hb : b = mTRANSPARENT ∨ b = mPLAIN) (hopen : c.txDone = false)
    (hreached : reached (s.link l).own c.stage = true) (hwritten : bit (s.port l.n).rewritten b = false) :
    ∃ t : State, exec (.modeChangeApply l) s = .next t ∧ bit (t.link l).negotiated b = on := by
  show ∃ t, execModeChangeApply l s = .next t ∧ _
  unfold execModeChangeApply
  rw [if_neg (by simp [hphase]), hdue]
  dsimp -zeta only
  extract_lets k tx rx c' both s1 s2 rest s3 twoSided s4 u1 u2 u3 s5
  have htx : tx = true := by simp [tx, hopen, k, hreached]
  have htwo : twoSided = true := by simpa [twoSided] using hb
  have hs1 : s1 = applyModeDir l b on .tx s := by simp only [s1, htx, if_true]
  have hs4 : s4 = applyModeWhole l c b on s3 := by simp [s4, htx, htwo]
  have hs2 : (s2.link l).negotiated = (s1.link l).negotiated ∧ s2.ports = s1.ports := by
    simp only [s2]
    split
    · exact ⟨applyModeDir_rx_negotiated l b on s1, applyModeDir_ports l b on .rx s1⟩
    · exact ⟨rfl, rfl⟩
  have hs3 : (s3.link l).negotiated = (s2.link l).negotiated := by simp only [s3, State.link_modLink]
  have hon : bit (s4.link l).negotiated b = on := by
    rw [hs4]
    refine applyModeWhole_negotiates hb fun hplain => ?_
    rw [hs3, hs2.1, hs1, hplain]
    exact applyCoding_tx_negotiates l on s
  -- what the end of the exchange brings with it in showtime
  have hs5 : Settles s4 s5 := by
    have h1 : Settles s4 u1 := settles_ite ⟨linksStand_endRate l s4, State.modLink_ports _ _ _⟩ (.refl s4)
    have h2 : Settles u1 u2 := settles_ite ⟨linksStand_judgeTransparent l u1, judgeTransparent_ports l u1⟩ (.refl u1)
    have h3 : Settles u2 u3 := ⟨linksStand_modLink l u2, State.modLink_ports _ _ _⟩
    refine settles_ite (((h1.trans h2).trans h3).trans (Settles.trans ?_ ⟨linksStand_of_links (capNotice_links l _), State.modQueue_ports _ _ _⟩))
      (.refl s4)
    exact settles_ite (.refl u3) ⟨linksStand_modLink l u3, State.modLink_ports _ _ _⟩
  have hports : s5.ports = s.ports := by
    rw [hs5.2, hs4, applyModeWhole_ports hb, State.modLink_ports, hs2.2, hs1, applyModeDir_ports]
  refine ⟨_, rfl, ?_⟩
  rw [State.link_congr (showLink_links l _), afterPending_of_not_rewritten (by rwa [State.port_congr hports]), (hs5.1 l).negotiated]
  exact hon

/-- Settles O26, clause by clause: an answer goes out beside what its exchange of tables brings, and an agreed mode stands through the rest. -/
theorem modeAgreement : Obligations.ModeAgreement :=
  ⟨fun _ _ _ _ _ => modePropose_declined, fun _ _ _ _ => modePropose_accepted, fun _ _ _ _ _ => modeAccept_agrees,
    fun _ _ _ _ _ => modeDecline_marks, fun _ _ _ _ _ => modeChangeApply_negotiates⟩

end Sys2Proof.Claims
end

section
/-! SUPPORT. The modular order of stage counts; what a pair of received codewords gives. -/
namespace Sys2Proof.Machine

/-! ### Stages (R70) -/

theorem later_iff (s c : Nat) :
    later s c = true ↔ 1 ≤ ((s : Int) - c) % 2 ^ 32 ∧ ((s : Int) - c) % 2 ^ 32 ≤ 2 ^ 31 - 1 := by
  have hdiff : (((s + 2 ^ 32 - c % 2 ^ 32) % 2 ^ 32 : Nat) : Int) = ((s : Int) - c) % 2 ^ 32 := by omega
  simp only [later, decide_eq_true_eq, ← hdiff]
  omega

/-- Where two stages differ and do not lie opposite each other, one of them is later. -/
theorem later_iff_not_later {s c : Nat} (hne : s % 2 ^ 32 ≠ c % 2 ^ 32) (hopposite : (s + 2 ^ 31) % 2 ^ 32 ≠ c % 2 ^ 32) :
    later s c = true ↔ later c s = false := by
  rw [← Bool.not_eq_true, later_iff, later_iff]
  omega

/-! ### A pair of received codewords (R89, R91) -/

theorem length_symbols10 (n : Nat) (bs : List Bool) (h : bs.length = 10 * n) : (symbols10 n bs).length = n := by
  induction n generalizing bs with
  | zero => rfl
  | succ n ih =>
    have hne : bs.isEmpty = false := by
      cases bs with
      | nil => simp at h
      | cons _ _ => rfl
    have hrest : (bs.drop 10).length = 10 * n := by rw [List.length_drop, h]; omega
    rw [symbols10, hne, if_neg Bool.false_ne_true, List.length_cons, ih _ hrest]

theorem length_evens {α : Type} : ∀ xs : List α, (evens xs).length = (xs.length + 1) / 2
  | [] => by simp [evens]
  | [_] => by simp [evens]
  | _ :: _ :: xs => by rw [evens, List.length_cons, length_evens xs, List.length_cons, List.length_cons]; omega

theorem map_interleave {α β : Type} (f : α → β) : ∀ xs ys : List α, (interleave xs ys).map f = interleave (xs.map f) (ys.map f)
  | [], [] => rfl
  | [], _ :: _ => rfl
  | _ :: _, [] => rfl
  | x :: xs, y :: ys => by simp only [interleave, List.map_cons, map_interleave f xs ys]

/-- A decoded word is as long as the received one. -/
theorem length_of_rsDecode {par c : Nat} {w v : List Nat} (h : rsDecode par w = some (v, c)) : v.length = w.length := by
  simp only [rsDecode] at h
  split at h
  · cases h; rfl
  split at h
  · cases h
  · cases h; simp

/-- What `openWords` makes of one received codeword: its message symbols, each with whether the word failed, the symbols corrected, and
whether it failed as a count. -/
def openWord (par : Nat) (w : List Nat) : List (Nat × Bool) × Nat × Nat :=
  match rsDecode par w with
  | some (v, c) => ((v.take (544 - par)).map (fun x => (x, false)), c, 0)
  | none => ((w.take (544 - par)).map (fun x => (x, true)), 0, 1)

theorem openWord_fails {par : Nat} {w : List Nat} (h : w.length = 544) :
    (openWord par w).1.map (·.2) = List.replicate (544 - par) (rsDecode par w).isNone ∧
      (openWord par w).2.2 = (rsDecode par w).isNone.toNat := by
  have hmarks (v : List Nat) (b : Bool) (hv : v.length = 544) :
      ((v.take (544 - par)).map (fun x => (x, b))).map (·.2) = List.replicate (544 - par) b := by
    rw [List.map_map]
    exact List.map_const'.trans (by rw [List.length_take, hv, Nat.min_eq_left (Nat.sub_le _ _)])
  unfold openWord
  cases hdecode : rsDecode par w with
  | none => exact ⟨hmarks w true h, rfl⟩
  | some x =>
    obtain ⟨v, c⟩ := x
    exact ⟨hmarks v false ((length_of_rsDecode hdecode).trans h), rfl⟩

/-- The bits of marked symbols, each with the mark of its symbol. -/
def markedBits (xs : List (Nat × Bool)) : List (Bool × Bool) := xs.flatMap (fun x => (bitsLsb 10 x.1).map (fun y => (y, x.2)))

theorem openPair_bits (bs : List Bool) : (openPair bs).1 =
    markedBits (interleave (openWord 24 (evens (symbols10 1088 bs))).1 (openWord 24 (evens ((symbols10 1088 bs).drop 1))).1) := rfl

theorem openPair_failed (bs : List Bool) : (openPair bs).2.2 =
    (openWord 24 (evens (symbols10 1088 bs))).2.2 + (openWord 24 (evens ((symbols10 1088 bs).drop 1))).2.2 := rfl

/-- Each symbol's mark stands ten times. -/
theorem markedBits_marks (xs : List (Nat × Bool)) : (markedBits xs).map (·.2) = (xs.map (·.2)).flatMap (List.replicate 10) := by
  rw [markedBits, List.map_flatMap, List.flatMap_map]
  refine List.flatMap_congr fun x _ => ?_
  rw [List.map_map]
  exact List.map_const'.trans (by rw [bitsLsb, List.length_map, List.length_range])

theorem openPair_marks {bs : List Bool} (h : bs.length = 10880) :
    let a := (rsDecode 24 (evens (symbols10 1088 bs))).isNone
    let b := (rsDecode 24 (evens ((symbols10 1088 bs).drop 1))).isNone
    (openPair bs).1.map (·.2) = (interleave (List.replicate 520 a) (List.replicate 520 b)).flatMap (List.replicate 10) ∧
      (openPair bs).2.2 = a.toNat + b.toNat := by
  intro a b
  have hsyms : (symbols10 1088 bs).length = 1088 := length_symbols10 1088 bs h
  obtain ⟨hmarksA, hcountA⟩ := openWord_fails (par := 24) (w := evens (symbols10 1088 bs)) (by rw [length_evens, hsyms])
  obtain ⟨hmarksB, hcountB⟩ := openWord_fails (par := 24) (w := evens ((symbols10 1088 bs).drop 1))
    (by rw [length_evens, List.length_drop, hsyms])
  exact ⟨by rw [openPair_bits, markedBits_marks, map_interleave, hmarksA, hmarksB], by rw [openPair_failed, hcountA, hcountB]⟩

/-! ### The coach stream received in REACH (R90, R91, R112) -/

theorem State.reg_add64_other (s : State) (a k b : Nat) (hlo : b ≠ a) (hhi : b ≠ a + 4) : (s.add64 a k).reg b = s.reg b := by
  rw [State.add64, State.set64, State.reg_setReg_other _ _ _ _ hhi, State.reg_setReg_other _ _ _ _ hlo]

theorem State.reg_addTo_same (s : State) (a k : Nat) : (s.addTo a k).reg a = s.reg a + word k := State.reg_setReg_same s _ _

/-- A whole pair of codewords counts those that failed, and its marked bits join the stream. -/
theorem takeStream_takes_pair {l : LinkId} {bs : List Bool} {s : State} (hreach : isReach (s.link l) = true)
    (hwhole : 10880 ≤ ((s.queue l).rxCoded ++ bs).length) (hroom : (s.queue l).rxIlv < reachM (shareStream l (s.link l).streamRx)) :
    (takeStream l bs s).reg (PORT_RS_UNCORR l.n) =
        s.reg (PORT_RS_UNCORR l.n) + word (openPair (((s.queue l).rxCoded ++ bs).take 10880)).2.2 ∧
      ((takeStream l bs s).queue l).rxBits = (s.queue l).rxBits ++ (openPair (((s.queue l).rxCoded ++ bs).take 10880)).1 := by
  have htaken : ¬ (((s.queue l).rxCoded ++ bs).length < 10880 ∨
      reachM (shareStream l (s.link l).streamRx) ≤ (s.queue l).rxIlv) := by omega
  simp only [takeStream, hreach, Bool.not_true, Bool.false_eq_true, if_false, if_neg htaken]
  constructor
  · rw [State.modQueue_reg, State.reg_addTo_same, State.reg_add64_other, State.reg_add64_other] <;>
      · simp only [PORT_RS_UNCORR, PORT_RS_CORR_SYM, PORT_RS_CW]; omega
  · rw [State.queue_modQueue, State.addTo_queue, State.add64_queue, State.add64_queue]

/-! ### A coach received (R91 to R97) -/

/-- With a failed codeword a coach's own CRC decides nothing: it is taken as one whose CRC is wrong. -/
theorem takeCoach_of_failed {l : LinkId} {c : Coach} {bad : Nat} {t : Rat} {s : State} (hbad : bad ≠ coachCrc c.hdr c.blocks) :
    takeCoach l c true t s = takeCoach l { c with crc := bad } false t s := by
  have hwrong : (bad == coachCrc c.hdr c.blocks) = false := beq_eq_false_iff_ne.mpr hbad
  simp only [takeCoach, hwrong, Bool.not_false, Bool.or_true, Bool.true_or, Bool.not_true, Bool.and_false, Bool.false_and]

end Sys2Proof.Machine
end

section
/-! PROOF. The modular order of stages, and coaches with bits in a codeword that failed to decode. -/
namespace Sys2Proof.Claims
open Sys2Proof Sys2Proof.Machine

/-- Settles O12: the model's difference of two counts is that of the integers modulo 2^32. -/
theorem laterStagesByTheModularRule : Obligations.LaterStagesByTheModularRule :=
  ⟨later_iff, fun _ _ => later_iff_not_later⟩

/-! ### Coaches received -/

/-- COACH_RX of a link that receives coaches, where the bits of a whole coach have come. -/
theorem exec_coachRx_of_whole {n : Port} {sub : Option Pair} {a b c d : List RxWindow} {t : Rat} {s : State}
    (hphase : 4 ≤ (s.link ⟨n, sub⟩).phase ∧ (s.link ⟨n, sub⟩).phase ≤ 8) (hwhole : 10320 ≤ (bitsIn ⟨n, sub⟩ (bySymbol [a, b, c, d]) s).length) :
    exec (.coachRx n sub a b c d t) s =
      .next (markCoach ⟨n, sub⟩ (takeCoach ⟨n, sub⟩ (coachIn ⟨n, sub⟩ (bySymbol [a, b, c, d]) s)
        (coachFailed ⟨n, sub⟩ (bySymbol [a, b, c, d]) s) t
        ((afterSymbols ⟨n, sub⟩ (bySymbol [a, b, c, d]) s).modQueue ⟨n, sub⟩ (fun q => { q with
          rxBits := (bitsIn ⟨n, sub⟩ (bySymbol [a, b, c, d]) s).drop 10320 })))) := by
  have hfew : ¬ (bitsIn ⟨n, sub⟩ (bySymbol [a, b, c, d]) s).length < 10320 := Nat.not_lt.mpr hwhole
  show execCoachRx n sub a b c d t s = _
  rw [execCoachRx, receiveCoach, if_neg (by simp [hphase])]
  exact congrArg Host.Outcome.next (if_neg hfew)

theorem coachRx_failed_as_bad_crc {n : Port} {sub : Option Pair} {a b c d : List RxWindow} {t : Rat} {s : State} {bad : Nat}
    (hfrom : 4 ≤ (s.link ⟨n, sub⟩).phase) (hto : (s.link ⟨n, sub⟩).phase ≤ 8)
    (hwhole : 10320 ≤ (bitsIn ⟨n, sub⟩ (bySymbol [a, b, c, d]) s).length)
    (hfailed : ((bitsIn ⟨n, sub⟩ (bySymbol [a, b, c, d]) s).take 10320).any (·.2) = true)
    (hbad : bad ≠ coachCrc (coachIn ⟨n, sub⟩ (bySymbol [a, b, c, d]) s).hdr (coachIn ⟨n, sub⟩ (bySymbol [a, b, c, d]) s).blocks) :
    exec (.coachRx n sub a b c d t) s =
      .next (markCoach ⟨n, sub⟩ (takeCoach ⟨n, sub⟩ { coachIn ⟨n, sub⟩ (bySymbol [a, b, c, d]) s with crc := bad } false t
        ((afterSymbols ⟨n, sub⟩ (bySymbol [a, b, c, d]) s).modQueue ⟨n, sub⟩ (fun q => { q with
          rxBits := (bitsIn ⟨n, sub⟩ (bySymbol [a, b, c, d]) s).drop 10320 })))) := by
  have hany : coachFailed ⟨n, sub⟩ (bySymbol [a, b, c, d]) s = true := by rw [coachFailed, hfailed, Bool.true_or]
  rw [exec_coachRx_of_whole ⟨hfrom, hto⟩ hwhole, hany, takeCoach_of_failed hbad]

/-- Settles O10: a coach with a failed codeword is CRC_BAD before its CRC is looked at, and each 10-bit symbol has the mark of its word. -/
theorem coachInAFailedCodewordIsCrcBad : Obligations.CoachInAFailedCodewordIsCrcBad :=
  ⟨fun _ _ _ _ _ _ _ _ _ => coachRx_failed_as_bad_crc, fun _ => openPair_marks, fun _ _ _ => takeStream_takes_pair⟩

end Sys2Proof.Claims
end

section
/-! SUPPORT. What the operations of showtime make of a link's record: a retrain request, a stage's counts, an exchange of tables that ends or
waits, a fallback. -/
namespace Sys2Proof.Machine

/-! ### Agreed changes and depths that end (R71, R301) -/

/-- A change of one direction is done in the other from the start. -/
def doneElsewhere (kind : ChangeKind) (d : Dir) : Bool :=
  match kind with
  | .swap _ e => e != d
  | .rate _ e => e != d
  | _ => false

theorem agree_link (l : LinkId) (stage : Nat) (kind : ChangeKind) (s : State) : (agree l stage kind s).link l = { s.link l with
    changes := (s.link l).changes ++ [⟨stage, kind, doneElsewhere kind .tx, doneElsewhere kind .rx⟩] } := State.link_modLink s l _

theorem capAgree_links (l : LinkId) (c stage : Nat) (s : State) : (capAgree l c stage s).links = s.links := State.modQueue_links _ _ _

/-- A depth that ends at once changes nothing of the link beside its EEI record. -/
theorem eeiBreak_link (l : LinkId) (s : State) : ∃ e, (eeiBreak l s).link l = { s.link l with eei := e } := by
  unfold eeiBreak
  extract_lets e s1 s2 s3
  have hwoken (xs : List Nat) (s : State) :
      (forEach xs (fun p s => s.modPair l.n.val p (fun k => { k with quiet := false })) s).link l = s.link l :=
    forEach_eq_of_step_eq (fun s => s.link l) _ (fun p s => State.modPair_link s l.n.val p _ l) xs s
  have h2 : ∃ e, s2.link l = { s.link l with eei := e } := by
    simp only [s2, s1, State.link_modLink]
    exact ⟨_, rfl⟩
  obtain ⟨e2, h2⟩ := h2
  split
  · simp only [State.setFld_link, s3, hwoken, h2]
    exact ⟨_, rfl⟩
  · simp only [s1, State.link_modLink]
    exact ⟨_, rfl⟩

/-! ### Retrain requests (R148, R223) -/

/-- With no retrain agreed or pending in showtime a cause that the receiver does not hold back is requested and agreed. -/
theorem requestRetrain_of_free {l : LinkId} {cause : Nat} {s : State} (hphase : (s.link l).phase = 7)
    (hnone : retrainAgreed (s.link l) = none) (hmodes : modeRetrains (s.link l) = false) (hcause : 3 < cause) :
    requestRetrain l cause s = agree l (stagePlus (nextWaymark (s.link l)) 4) (.retrain cause (isFullCause cause))
      (sendPort l 0x51 (some (stagePlus (nextWaymark (s.link l)) 4)) cause (eeiBreak l s)) := by
  have hlate : decide (1 ≤ cause ∧ cause ≤ 3) = false := decide_eq_false (by omega)
  simp only [requestRetrain, hphase, hlate, hnone, hmodes, Bool.and_false]
  rfl

theorem mem_changes_agree (l : LinkId) (stage : Nat) (kind : ChangeKind) (s : State) :
    (⟨stage, kind, doneElsewhere kind .tx, doneElsewhere kind .rx⟩ : Change) ∈ ((agree l stage kind s).link l).changes := by
  rw [agree_link]
  exact List.mem_append_right _ (List.mem_singleton_self _)

theorem mem_waiting_sendPort (l : LinkId) (code : Nat) (stage : Option Nat) (arg : Nat) (s : State) :
    (⟨code, stage, arg, true⟩ : WMsg) ∈ ((sendPort l code stage arg s).link l).waiting := by
  rw [sendPort, State.link_modLink]
  exact List.mem_append_right _ (List.mem_singleton_self _)

/-! ### Exchanges of tables that wait, begin or end (R45, R205) -/

theorem beginEntries_link (l : LinkId) (wait : Nat) (ts : List (Nat × List Nat)) (s : State) :
    (beginEntries l wait ts s).link l = { s.link l with rateWait := some wait } := by
  unfold beginEntries
  extract_lets n s1 s2
  have hbanks : s1.links = s.links := forEach_eq_of_step_eq State.links _ (fun _ _ => by rw [State.modPair_links, setBank_links]) ts s
  have hcounts : s2.links = s1.links := forEach_eq_of_step_eq State.links _ (fun _ _ => State.setFld_links _ _ _) ts s1
  rw [State.link_modLink, State.link_congr (hcounts.trans hbanks)]

theorem beginModeTables_link (l : LinkId) (b : Nat) (on : Bool) (s : State) : ∃ asks low wait declined,
    (beginModeTables l b on s).link l =
      { s.link l with modeAsk := asks, capacityLow := low, rateWait := wait, declined := declined } := by
  unfold beginModeTables
  extract_lets k
  split
  · exact ⟨_, _, _, _, State.link_modLink s l _⟩
  split
  · split
    · exact ⟨_, _, _, _, State.link_modLink s l _⟩
    split
    · exact ⟨_, _, _, _, beginEntries_link l _ _ s⟩
    · exact ⟨_, _, _, _, State.link_modLink s l _⟩
  · split
    · exact ⟨_, _, _, _, beginEntries_link l _ _ s⟩
    · exact ⟨_, _, _, _, State.link_modLink s l _⟩

theorem startModeAsk_link (l : LinkId) (s : State) : ∃ asks low wait declined, (startModeAsk l s).link l =
    { s.link l with modeAsk := asks, capacityLow := low, rateWait := wait, declined := declined } := by
  unfold startModeAsk
  extract_lets k
  split
  · exact ⟨_, _, _, _, rfl⟩
  split
  · exact ⟨_, _, _, _, rfl⟩
  · next b on rest _ =>
    obtain ⟨asks, low, wait, declined, h⟩ := beginModeTables_link l b on (s.modLink l (fun k => { k with modeAsk := rest }))
    rw [State.link_modLink] at h
    exact ⟨asks, low, wait, declined, h⟩

theorem dropRxTables_link (l : LinkId) (s : State) : ∃ waiting withdrawn,
    (dropRxTables l s).link l = { s.link l with waiting := waiting, withdrawn := withdrawn, rateWait := none } := by
  have hpairs (s : State) : (forEach (linkPairs l) (dropRxSwap l.n.val) s).links = s.links :=
    forEach_eq_of_step_eq State.links _ (fun p s => dropRxSwap_links l.n p s) _ s
  rw [dropRxTables, endRate, State.link_modLink, State.link_congr (hpairs _), State.link_modLink]
  exact ⟨_, _, rfl⟩

/-! ### The stage boundary (R69, R197, R208) -/

theorem countCoaches_link {l : LinkId} {s : State} (hphase : (s.link l).phase = 7) : ∃ hist after run since,
    (countCoaches l s).link l = { s.link l with
      badHist := hist, stageBad := 0, lossAfterFallback := after, lossRun := run, sinceFallback := since } := by
  unfold countCoaches
  extract_lets k loss s1
  have hlink : s1.link l = s.link l := by
    simp only [s1]
    split
    · exact State.inc_link _ _ _
    · rfl
  rw [if_neg (not_not_intro hphase), State.link_modLink, hlink]
  exact ⟨_, _, _, _, rfl⟩

theorem countRuns_link {l : LinkId} {s : State} (hphase : (s.link l).phase = 7) : ∃ down hold idle held,
    (countRuns l s).link l = { s.link l with
      downRun := down, rateHold := hold, eei := { (s.link l).eei with idle := idle, hold := held } } := by
  have hpairs (xs : List Nat) (s : State) :
      (forEach xs (fun p s => s.modPair l.n p (fun q => { q with sinceSwap := min 255 (q.sinceSwap + 1) })) s).link l = s.link l :=
    forEach_eq_of_step_eq (fun s => s.link l) _ (fun p s => State.modPair_link s l.n.val p _ l) xs s
  unfold countRuns
  extract_lets k down low busy s1
  rw [if_neg (not_not_intro hphase), hpairs, State.link_modLink]
  exact ⟨_, _, _, _, rfl⟩

theorem startCoaches_of_showtime {l : LinkId} {s : State} (hphase : (s.link l).phase = 7) : startCoaches l s = s := by
  simp [startCoaches, hphase]

theorem countStage_link {l : LinkId} {s : State} (hphase : (s.link l).phase = 7) : ∃ far adopted stage,
    (countStage l s).link l = { s.link l with
      own := nextOwn (s.link l), wmSent := false, asked := false, rxSeen := false, far := far, adopted := adopted, showStage := stage } := by
  unfold countStage
  extract_lets k own counts s1 s2 named
  have h1 : s1.link l = s.link l := by
    simp only [s1]
    split
    · exact State.inc_link _ _ _
    · rfl
  have h2 : s2.link l = s.link l := by
    simp only [s2]
    split
    · exact (State.inc_link _ _ _).trans h1
    · exact h1
  rw [startCoaches_of_showtime (by rw [State.link_modLink, h2]; exact hphase), State.link_modLink, h2]
  exact ⟨_, _, _, rfl⟩

theorem advancePhase_of_showtime {l : LinkId} {s : State} (hphase : (s.link l).phase = 7) (hwhole : (s.link l).eei.partialFr = false) :
    advancePhase l s = s := by simp [advancePhase, hphase, hwhole]

theorem inSequence_of_showtime {k : LinkSt} (hphase : k.phase = 7) (hwhole : k.eei.partialFr = false) : inSequence k = false := by
  simp [inSequence, hphase, hwhole]

theorem verifyFails_of_showtime {l : LinkId} {s : State} (hphase : (s.link l).phase = 7) (hwhole : (s.link l).eei.partialFr = false) :
    verifyFails l s = s := by
  simp only [verifyFails, inSequence_of_showtime hphase hwhole]
  rfl

theorem forEach_sendPort_link (l : LinkId) (qs : List Proposal) (s : State) : ∃ waiting,
    (forEach qs (fun q s => sendPort l q.code none q.arg s) s).link l = { s.link l with waiting := waiting } := by
  induction qs generalizing s with
  | nil => exact ⟨_, rfl⟩
  | cons q qs ih =>
    obtain ⟨waiting, h⟩ := ih (sendPort l q.code none q.arg s)
    refine ⟨waiting, h.trans ?_⟩
    rw [sendPort, State.link_modLink]

theorem boundaryMessages_link (l : LinkId) (s : State) : ∃ waiting,
    (boundaryMessages l s).link l = { s.link l with withdrawn := [], waiting := waiting } := by
  unfold boundaryMessages
  extract_lets k s1 e
  have hsent : ∃ waiting, s1.link l = { s.link l with withdrawn := [], waiting := waiting } := by
    obtain ⟨waiting, h⟩ := forEach_sendPort_link l k.withdrawn (s.modLink l (fun k => { k with withdrawn := [] }))
    rw [State.link_modLink] at h
    exact ⟨waiting, h⟩
  split
  · obtain ⟨waiting, h⟩ := hsent
    rw [sendPort, State.link_modLink, State.link_modLink, h]
    exact ⟨_, rfl⟩
  · exact hsent

theorem showMonitors_links (l : LinkId) (meas : List StageMeas) (s : State) : (showMonitors l meas s).links = s.links :=
  (@keeps_showMonitors (· ∈ [.regs]) ⟨by decide⟩ s s l meas (keeps_refl _ s)).same .links (by decide)

theorem showFreq_links (l : LinkId) (s : State) : (showFreq l s).links = s.links :=
  (@keeps_showFreq (· ∈ [.regs]) ⟨by decide⟩ s s l (keeps_refl _ s)).same .links (by decide)

theorem measurePair_links (l : LinkId) (p : Nat) (s : State) : (measurePair l p s).links = s.links :=
  (@keeps_measurePair (· ∈ [.regs, .pairs, .snr, .sigma]) ⟨by decide⟩ ⟨by decide⟩ ⟨by decide⟩ ⟨by decide⟩ s s l p (keeps_refl _ s)).same
    .links (by decide)

theorem endStagePair_links (l : LinkId) (p : Nat) (s : State) : (endStagePair l p s).links = s.links :=
  (@keeps_endStagePair (· ∈ [.pairs, .errs]) ⟨by decide⟩ ⟨by decide⟩ s s l p (keeps_refl _ s)).same .links (by decide)

theorem linkQuality_links (l : LinkId) (s : State) : (linkQuality l s).links = s.links :=
  (@keeps_linkQuality (· ∈ [.regs, .diags]) ⟨by decide⟩ ⟨by decide⟩ s s l (keeps_refl _ s)).same .links (by decide)

theorem boundaryPairs_links (l : LinkId) (s : State) : (boundaryPairs l s).links = s.links :=
  (@keeps_boundaryPairs (· ∈ [.pairs, .tbl]) ⟨by decide⟩ ⟨by decide⟩ s s l (keeps_refl _ s)).same .links (by decide)

theorem reachCapacity_links (l : LinkId) (s : State) : (reachCapacity l s).links = s.links := State.modQueue_links _ _ _

/-- What a stage measures as it ends is not the link's. -/
theorem measured_links (l : LinkId) (meas : List StageMeas) (on : Bool) (s : State) :
    (forEach (linkPairs l) (endStagePair l) (if on then showFreq l (forEach (linkPairs l) (measurePair l) (showMonitors l meas s))
      else showMonitors l meas s)).links = s.links := by
  have hmeasured (s : State) : (showFreq l (forEach (linkPairs l) (measurePair l) s)).links = s.links :=
    (showFreq_links l _).trans (forEach_eq_of_step_eq State.links _ (measurePair_links l) _ s)
  rw [forEach_eq_of_step_eq State.links _ (endStagePair_links l)]
  split
  · rw [hmeasured, showMonitors_links]
  · exact showMonitors_links l meas s

/-- At a boundary in showtime, outside a partial fast retrain, the next stage has its count and no bad coach yet. -/
theorem execStageBoundary_counts {l : LinkId} {meas : List StageMeas} {s : State} (hphase : (s.link l).phase = 7)
    (hwhole : (s.link l).eei.partialFr = false) :
    ∃ t : State, execStageBoundary l meas s = .next t ∧ (t.link l).own = nextOwn (s.link l) ∧ (t.link l).stageBad = 0 := by
  unfold execStageBoundary
  extract_lets k on s1 s2 s3 s4 s5 s6 s7
  rw [if_neg (by simp [k, hphase])]
  refine ⟨_, rfl, ?_⟩
  have h3 : s3.link l = s.link l := State.link_congr (measured_links l meas on s) l
  obtain ⟨hist, after, run, since, hcoaches⟩ := countCoaches_link (l := l) (s := s3) (by rw [h3]; exact hphase)
  have h4 : s4.link l = (countCoaches l s3).link l := State.link_congr (linkQuality_links l _) l
  rw [hcoaches, h3] at h4
  obtain ⟨down, hold, idle, held, hruns⟩ := countRuns_link (l := l) (s := s4) (by rw [h4]; exact hphase)
  obtain ⟨asks, low, wait, declined, h5⟩ := startModeAsk_link l (boundaryPairs l (countRuns l s4))
  rw [State.link_congr (boundaryPairs_links l _), hruns, h4] at h5
  have hphase5 : (s5.link l).phase = 7 := by rw [h5]; exact hphase
  obtain ⟨far, adopted, stage, hcount⟩ := countStage_link hphase5
  have h6 : s6 = countStage l s5 := advancePhase_of_showtime (by rw [hcount]; exact hphase5) (by rw [hcount, h5]; exact hwhole)
  have h7 : (reachCapacity l s7).link l = (countStage l s5).link l := by
    rw [State.link_congr (reachCapacity_links l s7), State.modQueue_link, h6]
  obtain ⟨waiting, hmessages⟩ := boundaryMessages_link l (reachCapacity l s7)
  rw [h7, hcount, h5] at hmessages
  rw [State.link_congr (showLink_links l _), verifyFails_of_showtime (by rw [hmessages]; exact hphase) (by rw [hmessages]; exact hwhole),
    hmessages]
  exact ⟨rfl, rfl⟩

theorem nextOwn_of_higher {k : LinkSt} (h : isHigher k = true) : nextOwn k = stagePlus k.own 1 := by simp [nextOwn, h]

theorem nextOwn_of_lower {k : LinkSt} (h : isHigher k = false) (hphase : k.phase = 7) (hwhole : k.eei.partialFr = false)
    (hawake : k.eei.inDepth = false) : nextOwn k = stagePlus k.far 1 := by simp [nextOwn, h, hphase, hwhole, hawake]

/-! ### Fault notices and fallbacks (R215 to R217) -/

/-- Two pairs or more to lose, none of them agreed before, take the port down. -/
theorem noticeFallback_of_pairs {l : LinkId} {mask code stage : Nat} {s : State} (hnone : pendingFault (s.link l) = 0)
    (hpairs : 2 ≤ (maskPairs mask).length) : noticeFallback l mask code stage s = linkDown l (if code = 3 then 3 else 2) s := by
  simp only [noticeFallback, hnone, Nat.or_zero]
  split
  · next p h => rw [h] at hpairs; exact absurd hpairs (by simp)
  · next h => rw [h] at hpairs; exact absurd hpairs (by simp)
  · rfl

theorem setWeights_links (n p : Nat) (ps : List Nat) (s : State) : (setWeights n p ps s).links = s.links :=
  (@keeps_setWeights (· ∈ [.coef, .seeds]) ⟨by decide⟩ ⟨by decide⟩ s s n p ps (keeps_refl _ s)).same .links (by decide)

/-- A direction that moves to its held tables loses the pair from its carrying set; the dead pairs and the coach-loss run stand. -/
theorem moveToHeld_carry (l : LinkId) (d : Dir) (p : Nat) (s : State) :
    carryOf ((moveToHeld l d p s).link l) d = pairsMask ((maskPairs (carryOf (s.link l) d)).filter (· != p)) ∧
      ((moveToHeld l d p s).link l).deadMask = (s.link l).deadMask ∧ ((moveToHeld l d p s).link l).lossRun = (s.link l).lossRun := by
  unfold moveToHeld
  extract_lets n k st rest s1 s2 m s3 s4
  have h1 : s1.links = s.links := forEach_eq_of_step_eq State.links _ (fun q s => by rw [reloadShadow, setBank_links, setBank_links]) rest s
  have h2 : s2.links = s.links := by
    cases d with
    | tx => exact h1
    | rx => exact (forEach_eq_of_step_eq State.links _ (setWeights_links n · rest) rest s1).trans h1
  have h4 : ∃ low tx rx, s4.link l = { s3.link l with capacityLow := low, streamTx := tx, streamRx := rx } := by
    simp only [s4]
    split
    · simp only [setStream, State.link_modLink]
      cases d <;> exact ⟨_, _, _, rfl⟩
    · simp only [loseStream, setStream, State.link_modLink]
      cases d <;> exact ⟨_, _, _, rfl⟩
  obtain ⟨low, tx, rx, h4⟩ := h4
  have h3 : carryOf (s3.link l) d = m ∧ (s3.link l).deadMask = (s.link l).deadMask ∧ (s3.link l).lossRun = (s.link l).lossRun := by
    simp only [s3, State.link_modLink, State.link_congr h2 l]
    cases d <;> exact ⟨rfl, rfl, rfl⟩
  cases d with
  | tx =>
    simp only [h4]
    exact h3
  | rx =>
    obtain ⟨waiting, withdrawn, hdrop⟩ :=
      dropRxTables_link l (s4.modLink l (fun k => { k with rateAsk := k.rateAsk || decide (tierNow k < ceiling s4 l) }))
    simp only [hdrop, State.link_modLink, h4]
    exact h3

theorem mem_changes_deadFirst {l : LinkId} {c : Change} {s : State} (h : c ∈ (s.link l).changes)
    (hkind : ∀ cause full, c.kind ≠ .retrain cause full) : c ∈ ((deadFirst l s).link l).changes := by
  rw [deadFirst, State.link_modLink]
  dsimp only
  split
  · refine List.mem_filter.mpr ⟨h, ?_⟩
    split
    · next cause full hc => exact absurd hc (hkind cause full)
    · rfl
  · exact h

/-- A carrying pair fails that the link can do without: its fallback is agreed and told. -/
theorem pairFault_of_canFallBack {l : LinkId} {p code : Nat} {s : State} (hcan : canFallBack s l p = true)
    (hnone : pendingFault (s.link l) = 0) (hcarry : bit ((s.link l).carry ||| (s.link l).carryRx) p = true) :
    pairFault l p code s = sendPort l 0x50 (some (stagePlus (nextWaymark (s.link l)) 4)) (2 ^ p + code * 256)
      (deadFirst l (agreeFallback l p code (stagePlus (nextWaymark (s.link l)) 4) s)) := by
  have hphase : (s.link l).phase = 7 := by
    simp only [canFallBack, Bool.and_eq_true, beq_iff_eq] at hcan
    tauto
  have hzero : bit 0 p = false := Nat.zero_testBit p
  simp only [pairFault, hphase, hcarry, hnone, hzero, hcan]
  rfl

end Sys2Proof.Machine
end

section
/-! PROOF. The statement about showtime's stages, fallbacks and retrain requests (O28). -/
namespace Sys2Proof.Claims
open Sys2Proof Sys2Proof.Machine

/-- A cause that may be asked for is asked for, and showing the link takes nothing of it. -/
theorem retrainAsked_of_mayAsk {l : LinkId} {cause : Nat} {s : State} (hmay : MayAsk (s.link l)) (hcause : 3 < cause) :
    RetrainAsked cause l s (requestRetrain l cause s) := by
  obtain ⟨hphase, hnone, hmodes⟩ := hmay
  rw [requestRetrain_of_free hphase hnone hmodes hcause]
  refine ⟨mem_changes_agree l _ (.retrain cause (isFullCause cause)) _, ?_⟩
  rw [agree_link]
  exact mem_waiting_sendPort l _ _ _ _

theorem RetrainAsked.congr {cause : Nat} {l : LinkId} {s t u : State} (h : RetrainAsked cause l s t) (hu : u.links = t.links) :
    RetrainAsked cause l s u := by
  unfold RetrainAsked
  rw [State.link_congr hu]
  exact h

theorem stageBoundary_of_higher {l : LinkId} {meas : List StageMeas} {s : State} (hphase : (s.link l).phase = 7)
    (hwhole : (s.link l).eei.partialFr = false) (hhigher : isHigher (s.link l) = true) :
    ∃ t : State, exec (.stageBoundary l meas) s = .next t ∧ (t.link l).own = stagePlus (s.link l).own 1 ∧ (t.link l).stageBad = 0 := by
  obtain ⟨t, hexec, hown, hbad⟩ := execStageBoundary_counts (meas := meas) hphase hwhole
  exact ⟨t, hexec, hown.trans (nextOwn_of_higher hhigher), hbad⟩

theorem stageBoundary_of_lower {l : LinkId} {meas : List StageMeas} {s : State} (hphase : (s.link l).phase = 7)
    (hwhole : (s.link l).eei.partialFr = false) (hawake : (s.link l).eei.inDepth = false) (hlower : isHigher (s.link l) = false) :
    ∃ t : State, exec (.stageBoundary l meas) s = .next t ∧ (t.link l).own = stagePlus (s.link l).far 1 ∧ (t.link l).stageBad = 0 := by
  obtain ⟨t, hexec, hown, hbad⟩ := execStageBoundary_counts (meas := meas) hphase hwhole
  exact ⟨t, hexec, hown.trans (nextOwn_of_lower hlower hphase hwhole hawake), hbad⟩

theorem coachLoss_asks {l : LinkId} {s : State} (hmay : MayAsk (s.link l)) (hlimit : lossLimit s l ≤ (s.link l).lossRun)
    (hafter : (s.link l).lossAfterFallback = false) :
    ∃ t : State, exec (.coachLossRetrain l) s = .next t ∧ RetrainAsked 4 l s t := by
  refine ⟨showLink l (requestRetrain l 4 s), ?_, (retrainAsked_of_mayAsk hmay (by decide)).congr (showLink_links l _)⟩
  show execCoachLossRetrain l s = _
  simp [execCoachLossRetrain, hmay.1, Nat.not_lt.mpr hlimit, hafter]

theorem coachLoss_asks_after_fallback {l : LinkId} {s : State} (hmay : MayAsk (s.link l)) (hlimit : lossLimit s l ≤ (s.link l).lossRun)
    (hafter : (s.link l).lossAfterFallback = true) :
    ∃ t : State, exec (.coachLossRetrain l) s = .next t ∧ RetrainAsked 10 l s t := by
  show ∃ t, execCoachLossRetrain l s = .next t ∧ _
  simp only [execCoachLossRetrain, hmay.1, Nat.not_lt.mpr hlimit, hafter]
  refine ⟨_, rfl, (retrainAsked_of_mayAsk hmay (by decide)).congr ((showLink_links l _).trans ?_)⟩
  split
  · rfl
  · rw [State.raise_links, State.inc_links]

theorem faultNotice_of_pairs {l : LinkId} {p : Pair} {m : Msg} {s : State} (hphase : (s.link l).phase = 7) (hnone : pendingFault (s.link l) = 0)
    (hpairs : 2 ≤ (maskPairs (m.arg % 16)).length) :
    ∃ t : State, exec (.faultNotice l p m) s = .next t ∧
      ((t.link l).phase = 10 ∧ (t.link l).lastDown = if faultCode (bits m.arg 15 8) = 3 then 3 else 2) := by
  have hconsumed : ((consume l p m s).link l).phase = 7 := by rw [consume_link]; exact hphase
  obtain ⟨e, hbreak⟩ := eeiBreak_link l (consume l p m s)
  rw [consume_link] at hbreak
  refine ⟨showLink l (noticeFallback l (m.arg % 16) (faultCode (bits m.arg 15 8)) (msgStage m) (eeiBreak l (consume l p m s))), ?_, ?_⟩
  · show execFaultNotice l p m s = _
    simp [execFaultNotice, hconsumed]
  · rw [State.link_congr (showLink_links l _), noticeFallback_of_pairs (by rw [hbreak]; exact hnone) hpairs]
    exact linkDown_holds_off (by simp [isUp, hbreak, hphase]) (by split <;> decide)

theorem retrainRequest_agrees {l : LinkId} {p : Pair} {m : Msg} {s : State} (hup : isUp s l = true) (hnone : retrainAgreed (s.link l) = none) :
    ∃ t : State, exec (.retrainRequest l p m) s = .next t ∧
      ((⟨if reached (s.link l).own (msgStage m) then stagePlus (s.link l).own 1 else msgStage m,
        .retrain (m.arg % 256) (isFullCause (m.arg % 256)), false, false⟩ : Change) ∈ (t.link l).changes ∧
      (t.link l).lastRetrain = m.arg % 256) := by
  have hup' : isUp (consume l p m s) l = true := by rw [isUp, consume_link]; exact hup
  have hnone' : retrainAgreed ((consume l p m s).link l) = none := by rw [consume_link]; exact hnone
  show ∃ t, execRetrainRequest l p m s = .next t ∧ _
  have hown : ((consume l p m s).link l).own = (s.link l).own := by rw [consume_link]
  simp only [execRetrainRequest, hup', hnone', hown]
  refine ⟨_, rfl, ?_⟩
  rw [State.link_congr (showLink_links l _)]
  refine ⟨mem_changes_agree l _ (.retrain (m.arg % 256) (isFullCause (m.arg % 256))) _, ?_⟩
  obtain ⟨e, hbreak⟩ := eeiBreak_link l ((((consume l p m s).inc (PORT_RETRAIN_RX l.n)).raise 0x2027 0 [l.n, m.arg % 256, msgStage m]).modLink l
    (fun k => { k with lastRetrain := m.arg % 256 }))
  rw [agree_link, hbreak, State.link_modLink]

theorem fallback_takes_pair {l : LinkId} {d : Dir} {c : Change} {m code p : Nat} {s : State} (hdue : faultDue (s.link l) d = some (c, m, code))
    (hpair : maskPairs m = [p]) :
    ∃ t : State, exec (.tripairFallbackApply l d) s = .next t ∧ bit (t.link l).deadMask p = true ∧
      carryOf (t.link l) d = pairsMask ((maskPairs (carryOf (s.link l) d)).filter (· != p)) ∧ (t.link l).lossRun = 0 := by
  show ∃ t, execTripairFallbackApply l d s = .next t ∧ _
  unfold execTripairFallbackApply
  simp -zeta only [hdue, hpair]
  extract_lets first c' both upd s0 s1 s2
  refine ⟨_, rfl, ?_⟩
  rw [State.link_congr ((showLink_links l _).trans (capNotice_links l _)), judgeStreams, State.link_modLink, State.setFld_link]
  have h1 : s1.link l = (moveToHeld l d p (s.modLink l (fun k => { k with
      changes := upd k, deadMask := setBit k.deadMask p true, lossRun := 0, sinceFallback := 0 }))).link l := by
    simp only [s1]
    split
    · rw [State.modPair_link, State.raise_link, State.inc_link]
    · rfl
  obtain ⟨hcarry, hdead, hloss⟩ := moveToHeld_carry l d p (s.modLink l (fun k => { k with
      changes := upd k, deadMask := setBit k.deadMask p true, lossRun := 0, sinceFallback := 0 }))
  rw [← h1, State.link_modLink] at hcarry hdead hloss
  refine ⟨?_, ?_, hloss⟩
  · show bit (s1.link l).deadMask p = true
    rw [hdead]
    exact bit_setBit_same _ _ _
  · cases d <;> exact hcarry

theorem tripairRestore_asks {l : LinkId} {p : Pair} {s : State} (hmay : MayAsk (s.link l))
    (hrestore : s.flag (PORT_TRIPAIR_CFG.RESTORE l.n) = true) (hfallen : isFallen (s.link l) p = true)
    (hrun : max 256 (s.fld (PORT_TRIPAIR_CFG.RESTORE_STAGES l.n)) ≤ (s.pair l.n p).restoreRun) :
    ∃ t : State, exec (.tripairRestoreRequest l p) s = .next t ∧ RetrainAsked 0xB l s t := by
  refine ⟨showLink l (requestRetrain l 0xB s), ?_, (retrainAsked_of_mayAsk hmay (by decide)).congr (showLink_links l _)⟩
  show execTripairRestoreRequest l p s = _
  simp only [execTripairRestoreRequest, hrestore, hfallen, decide_eq_true hrun]
  rfl

theorem linkDown_of_up {l : LinkId} {cause : Nat} {s : State} (hup : isUp s l = true) (hcause : cause ≠ 7 ∧ cause ≠ 8 ∧ cause ≠ 9 ∧ cause ≠ 0xA) :
    ∃ t : State, exec (.linkDown l cause) s = .next t ∧ (t.link l).phase = 10 ∧ (t.link l).lastDown = cause :=
  ⟨linkDown l cause s, rfl, linkDown_holds_off hup (by simpa [not_or] using hcause)⟩

theorem frontendFault_falls_back {n : Port} {p : Pair} {s : State} (hcan : canFallBack s (linkOfPair s n p) p = true)
    (hnone : pendingFault (s.link (linkOfPair s n p)) = 0)
    (hcarry : bit ((s.link (linkOfPair s n p)).carry ||| (s.link (linkOfPair s n p)).carryRx) p.val = true) :
    ∃ t : State, exec (.frontendFault n p) s = .next t ∧
      (⟨stagePlus (nextWaymark (s.link (linkOfPair s n p))) 4, .fault (2 ^ p.val) 4, false, false⟩ : Change) ∈
        (t.link (linkOfPair s n p)).changes ∧
      (⟨0x50, some (stagePlus (nextWaymark (s.link (linkOfPair s n p))) 4), 2 ^ p.val + 1024, true⟩ : WMsg) ∈
        (t.link (linkOfPair s n p)).waiting := by
  refine ⟨showLink (linkOfPair s n p) (pairFault (linkOfPair s n p) p 4 s), rfl, ?_⟩
  rw [State.link_congr (showLink_links _ _), pairFault_of_canFallBack hcan hnone hcarry]
  refine ⟨?_, mem_waiting_sendPort _ _ _ _ _⟩
  rw [sendPort_link]
  dsimp only
  refine mem_changes_deadFirst ?_ (fun _ _ => ChangeKind.noConfusion)
  rw [agreeFallback, State.link_congr (capAgree_links _ _ _ _)]
  exact mem_changes_agree _ _ (.fault (2 ^ p.val) 4) _

/-- Settles O28, clause by clause: what a request, a notice or a fallback writes in the link's record stands through the rest of its step. -/
theorem showtimeStagesAndFallback : Obligations.ShowtimeStagesAndFallback :=
  ⟨fun _ _ _ => stageBoundary_of_higher, fun _ _ _ => stageBoundary_of_lower, fun _ _ => coachLoss_asks,
    fun _ _ => coachLoss_asks_after_fallback, fun _ _ _ _ => faultNotice_of_pairs, fun _ _ _ _ => retrainRequest_agrees,
    fun _ _ _ _ _ _ _ => fallback_takes_pair, fun _ _ _ => tripairRestore_asks, fun _ _ _ => linkDown_of_up,
    fun _ _ _ => frontendFault_falls_back⟩

end Sys2Proof.Claims
end

section
/-! SUPPORT. The entries of a pair's tables after writes. -/
namespace Sys2Proof.Machine

/-! ### Entries of the tables (R73, R113) -/

theorem State.entry_setEntry_same (s : State) (n p : Nat) (d : Dir) (b k e : Nat) : (s.setEntry n p d b k e).entry n p d b k = e :=
  SMap.get_put_same _ _ _ _

theorem State.entry_setEntry_other (s : State) {n p : Nat} {d d' : Dir} {b b' k k' : Nat} (e : Nat)
    (h : tblKey n p d' b' k' ≠ tblKey n p d b k) : (s.setEntry n p d b k e).entry n p d' b' k' = s.entry n p d' b' k' :=
  SMap.get_put_other _ _ _ _ _ h

theorem tblKey_ne_of_index {n p : Nat} {d : Dir} {b k k' : Nat} (h : k' ≠ k) : tblKey n p d b k' ≠ tblKey n p d b k := by
  unfold tblKey
  omega

/-- Receive and transmit entries lie apart. -/
theorem tblKey_ne_of_dir {n p b b' k k' : Nat} (hk : k < 512) (hk' : k' < 512) : tblKey n p .rx b' k' ≠ tblKey n p .tx b k := by
  simp only [tblKey, dirNat]
  omega

theorem lt_of_not_isExcluded {i : Nat} (h : isExcluded i = false) : i < 496 := by
  simp only [isExcluded, Bool.or_eq_false_iff, decide_eq_false_iff_not, not_le] at h
  exact h.2

theorem State.getD_bank (s : State) (n p : Nat) (d : Dir) {b k : Nat} (hk : k < 512) :
    (s.bank n p d b).getD k emptyEntry = s.entry n p d b k := by
  simp [State.bank, List.getD_eq_getElem?_getD, hk]

/-- Writing some entries of a bank: each of them reads from the table. -/
theorem entry_foldl_setEntry (n p : Nat) (d : Dir) (b : Nat) (t ks : List Nat) (k : Nat) (s : State) :
    (ks.foldl (fun s k => s.setEntry n p d b k (t.getD k emptyEntry)) s).entry n p d b k =
      if k ∈ ks then t.getD k emptyEntry else s.entry n p d b k := by
  induction ks generalizing s with
  | nil => rfl
  | cons j ks ih =>
    rw [List.foldl_cons, ih]
    by_cases hlater : k ∈ ks
    · rw [if_pos hlater, if_pos (List.mem_cons_of_mem _ hlater)]
    rw [if_neg hlater]
    by_cases hj : k = j
    · rw [hj, State.entry_setEntry_same, if_pos (List.mem_cons_self ..)]
    · rw [State.entry_setEntry_other _ _ (tblKey_ne_of_index hj), if_neg (by simp [hj, hlater])]

theorem State.entry_setBank (s : State) (n p : Nat) (d : Dir) (b : Nat) (t : List Nat) {k : Nat} (hk : k < 512) :
    (s.setBank n p d b t).entry n p d b k = t.getD k emptyEntry := by
  rw [State.setBank, entry_foldl_setEntry, if_pos (List.mem_range.mpr hk)]

theorem State.entry_congr {s t : State} (h : t.tbl = s.tbl) (n p : Nat) (d : Dir) (b k : Nat) : t.entry n p d b k = s.entry n p d b k := by
  rw [State.entry, State.entry, h]

/-- The shadow that is loaded reads as the active bank. -/
theorem entry_reloadShadow (n p : Nat) (d : Dir) {k : Nat} (s : State) (hk : k < 512) :
    (reloadShadow n p d s).entry n p d (shadowBank s n p d) k = s.entry n p d (activeBank s n p d) k := by
  rw [reloadShadow, State.entry_setBank _ _ _ _ _ _ hk, State.active, State.getD_bank _ _ _ _ hk]

theorem writeEntries_pairs (n p arg : Nat) (s : State) : (writeEntries n p arg s).pairs = s.pairs :=
  (@keeps_writeEntries (· ∈ [.tbl]) ⟨by decide⟩ s s n p arg (keeps_refl _ s)).same .pairs (by decide)

/-- Entries of a SWAP_ENTRY go to the transmit table alone (R205). -/
theorem entry_writeEntries_rx (n p arg b : Nat) {k : Nat} (s : State) (hk : k < 512) :
    (writeEntries n p arg s).entry n p .rx b k = s.entry n p .rx b k := by
  have hset (i b' e : Nat) (s : State) :
      (if isExcluded i then s else s.setEntry n p .tx b' i e).entry n p .rx b k = s.entry n p .rx b k := by
    split
    · rfl
    · next h =>
      have hi := lt_of_not_isExcluded (Bool.eq_false_iff.mpr h)
      exact State.entry_setEntry_other _ _ (tblKey_ne_of_dir (by omega) hk)
  exact (hset _ _ _ _).trans (hset _ _ _ _)

/-- The first of the two entries stands where its index says, unless that is excluded. -/
theorem entry_writeEntries_first {n p arg : Nat} (s : State) (h : isExcluded (bits arg 31 23) = false) :
    (writeEntries n p arg s).entry n p .tx (shadowBank s n p .tx) (bits arg 31 23) = entryOf (bits arg 22 19) (bits arg 18 14) := by
  simp only [writeEntries, h, Bool.false_eq_true, if_false]
  split
  · exact State.entry_setEntry_same _ _ _ _ _ _ _
  · rw [State.entry_setEntry_other _ _ (tblKey_ne_of_index (by omega))]
    exact State.entry_setEntry_same _ _ _ _ _ _ _

end Sys2Proof.Machine
end

section
/-! SUPPORT. What the coaches a link receives leave of its record. -/
namespace Sys2Proof.Machine

/-! ### Coaches received (R92, R95) -/

/-- What a link keeps of the coaches it receives: the last SEQ and the bad coaches of the stage. -/
def coachCount (l : LinkId) (s : State) : Option Nat × Nat := ((s.link l).coachRx, (s.link l).stageBad)

theorem coachCount_congr {s t : State} (l : LinkId) (h : t.links = s.links) : coachCount l t = coachCount l s := by
  rw [coachCount, State.link_congr h, coachCount]

theorem coachCount_modEei (l : LinkId) (g : EeiSt → EeiSt) (s : State) : coachCount l (modEei l g s) = coachCount l s := by
  rw [coachCount, modEei, State.link_modLink, coachCount]

theorem coachCount_countAlert (l : LinkId) (s : State) : coachCount l (countAlert l s) = coachCount l s := by
  unfold countAlert
  extract_lets k
  split
  · rw [openRx, coachCount_congr l (State.modQueue_links _ _ _), coachCount_modEei]
  · exact coachCount_modEei l _ s

theorem takeSymbol_links (l : LinkId) (xs : List RxBins) (x : RxBins) (v : RxPairValues) (es snr : List (Nat × Cx)) (s : State) :
    (takeSymbol l xs x v es snr s).links = s.links :=
  (@keeps_takeSymbol (· ∈ [.regs, .pairs, .errs, .coef]) ⟨by decide⟩ ⟨by decide⟩ ⟨by decide⟩ ⟨by decide⟩ s s l xs x v es snr (keeps_refl _ s)).same
    .links (by decide)

theorem openPayload_links (l : LinkId) (p : Nat) (isPrbs : Bool) (bs : List Bool) (s : State) :
    (openPayload l p isPrbs bs s).2.links = s.links :=
  (@keeps_openPayload (· ∈ [.pairs]) ⟨by decide⟩ s s l p isPrbs bs (keeps_refl _ s)).same .links (by decide)

theorem checkPattern_links (n : Port) (p : Nat) (bs : List Bool) (s : State) : (checkPattern n p bs s).links = s.links :=
  (@keeps_checkPattern (· ∈ [.regs, .pairs]) ⟨by decide⟩ ⟨by decide⟩ s s n p bs (keeps_refl _ s)).same .links (by decide)

theorem takeStream_links (l : LinkId) (bs : List Bool) (s : State) : (takeStream l bs s).links = s.links :=
  (@keeps_takeStream (· ∈ [.regs, .queues]) ⟨by decide⟩ ⟨by decide⟩ s s l bs (keeps_refl _ s)).same .links (by decide)

theorem markCoach_links (l : LinkId) (s : State) : (markCoach l s).links = s.links := State.modQueue_links _ _ _

/-- A fold that gathers a value beside the state leaves what each of its steps leaves. -/
theorem foldl_snd_eq_of_step_eq {α β γ : Type} (q : State → γ) (f : β × State → α → β × State) (h : ∀ a x, q (f a x).2 = q a.2) (xs : List α)
    (a : β × State) : q (xs.foldl f a).2 = q a.2 := by
  induction xs generalizing a with
  | nil => rfl
  | cons x xs ih => exact (ih (f a x)).trans (h a x)

theorem coachCount_rxSymbol (l : LinkId) (rx : List RxWindow) (s : State) : coachCount l (rxSymbol l rx s) = coachCount l s := by
  unfold rxSymbol
  extract_lets s1 xs k n j ps show_ prbs_ mask decodes dec ds s2 bitsOf s3 gathered counted s4
  have h1 : coachCount l s1 = coachCount l s := coachCount_countAlert l s
  split
  · exact h1
  have h2 : s2.links = s1.links :=
    forEach_eq_of_step_eq State.links _ (fun d s => (takeSymbol_links l xs _ _ _ _ _).trans (State.add64_links _ _ _)) ds s1
  have h3 : s3.links = s2.links :=
    forEach_eq_of_step_eq State.links _ (fun p s => (checkPattern_links _ _ _ _).trans (openPayload_links l p true _ s)) _ s2
  have h4 : coachCount l s4 = coachCount l s2 := by
    simp only [s4]
    split
    · refine coachCount_congr l (((takeStream_links l _ _).trans ?_).trans h3)
      exact foldl_snd_eq_of_step_eq State.links _ (by intro a p; exact openPayload_links l p false _ a.2) _ _
    split
    · rw [coachCount, State.link_modLink]
      refine coachCount_congr l ?_
      exact foldl_snd_eq_of_step_eq State.links _ (by intro a p; exact (State.modPair_links _ _ _ _).trans (openPayload_links l p true _ a.2)) _ _
    · rfl
  rw [coachCount_congr l (State.modQueue_links _ _ _), h4, coachCount_congr l h2, h1]

theorem coachCount_rxSymbols (l : LinkId) (rx : List (List RxWindow)) (s : State) :
    coachCount l (forEach rx (rxSymbolOf l) s) = coachCount l s := by
  refine forEach_eq_of_step_eq (coachCount l) _ (fun x s => ?_) rx s
  unfold rxSymbolOf
  extract_lets fresh s1
  split
  · exact (coachCount_congr l (markCoach_links l s1)).trans (coachCount_rxSymbol l x s)
  · exact coachCount_rxSymbol l x s

/-- A coach that the receiver may not use: a wrong CRC, a failed codeword, or the reserved type (R91, R92). -/
def coachIsBad (c : Coach) (failed : Bool) : Bool := c.crc != coachCrc c.hdr c.blocks || failed || c.hdr / 64 % 4 == 3

theorem coachIsBad_iff {c : Coach} {failed : Bool} :
    coachIsBad c failed = true ↔ failed = true ∨ c.crc ≠ coachCrc c.hdr c.blocks ∨ c.hdr / 64 % 4 = 3 := by
  simp only [coachIsBad, Bool.or_eq_true, bne_iff_ne, beq_iff_eq]
  tauto

theorem routeCoach_links (l : LinkId) (ty : Nat) (blocks : List Nat) (bad : Bool) (t : Rat) (s : State) :
    (routeCoach l ty blocks bad t s).links = s.links :=
  (@keeps_routeCoach (· ∈ [.free, .regs, .queues, .hosts, .banks, .raised]) ⟨by decide⟩ ⟨by decide⟩ ⟨by decide⟩ ⟨by decide⟩ ⟨by decide⟩ ⟨by decide⟩
    s s l ty blocks bad t (keeps_refl _ s)).same .links (by decide)

/-- A coach that is used gives its SEQ; a bad one is counted, and the SEQ expected next stands in for its own (log entry 47). -/
theorem coachCount_takeCoach (l : LinkId) (c : Coach) (failed : Bool) (t : Rat) (s : State) :
    coachCount l (takeCoach l c failed t s) =
      (if coachIsBad c failed then (s.link l).coachRx.map (fun e => (e + 1) % 64) else some (c.hdr % 64),
        (s.link l).stageBad + (coachIsBad c failed).toNat) := by
  unfold takeCoach
  extract_lets k n good ty seq crcBad hdrBad bad s1 s2 s3 s4 want s5 ref s6
  have hbad : bad = coachIsBad c failed := by
    have hor (x y : Bool) : (x || (!x && y)) = (x || y) := by cases x <;> rfl
    exact hor crcBad (ty == 3)
  have h2 : s2.links = s.links := by
    simp only [s2, s1]
    split_ifs <;> simp
  have h4 : s4.links = s2.links := by
    simp only [s4, s3]
    split_ifs <;> simp
  have h5 : s5.links = s4.links := by
    simp only [s5]
    split_ifs <;> simp
  have h6 : s6.link l = { s.link l with coachRx := ref, stageBad := (s.link l).stageBad + bad.toNat } := by
    rw [State.link_modLink, State.link_congr (h5.trans (h4.trans h2))]
  rw [coachCount_congr l ((showBeds_links n _).trans (routeCoach_links l ty c.blocks bad t s6)), coachCount, h6, ← hbad]

end Sys2Proof.Machine
end

section
/-! SUPPORT. Coaches sent. -/
namespace Sys2Proof.Machine

theorem pumpLine_links (l : LinkId) (s : State) : (pumpLine l s).links = s.links :=
  (@keeps_pumpLine (· ∈ [.regs, .pairs, .queues, .out]) ⟨by decide⟩ ⟨by decide⟩ ⟨by decide⟩ ⟨by decide⟩ s s l (keeps_refl _ s)).same
    .links (by decide)

theorem pumpLine_out (l : LinkId) (s : State) : s.out <+: (pumpLine l s).out :=
  (@keeps_pumpLine (fun _ => True) ⟨trivial⟩ ⟨trivial⟩ ⟨trivial⟩ ⟨trivial⟩ s s l (keeps_refl _ s)).out

theorem loopNear_links (l : LinkId) (s : State) : (loopNear l s).links = s.links :=
  (@keeps_loopNear (· ∈ [.free, .regs, .queues, .hosts, .banks, .raised]) ⟨by decide⟩ ⟨by decide⟩ ⟨by decide⟩ ⟨by decide⟩ ⟨by decide⟩ ⟨by decide⟩
    s s l (keeps_refl _ s)).same .links (by decide)

theorem nextCoach_links (l : LinkId) (s : State) : (nextCoach l s).2.links = s.links :=
  (@keeps_nextCoach (· ∈ [.regs, .queues, .banks]) ⟨by decide⟩ ⟨by decide⟩ ⟨by decide⟩ s s l (keeps_refl _ s)).same .links (by decide)

theorem fcJudge_links (n : Port) (t : Rat) (s : State) : (fcJudge n t s).links = s.links :=
  (@keeps_fcJudge (· ∈ [.queues, .hosts]) ⟨by decide⟩ ⟨by decide⟩ s s n t (keeps_refl _ s)).same .links (by decide)

theorem fcJudge_out (n : Port) (t : Rat) (s : State) : (fcJudge n t s).out = s.out :=
  (@keeps_fcJudge (· ∈ [.queues, .hosts]) ⟨by decide⟩ ⟨by decide⟩ s s n t (keeps_refl _ s)).same .out (by decide)

theorem showBeds_out (n : Port) (s : State) : (showBeds n s).out = s.out :=
  (@keeps_showBeds (· ∈ [.regs]) ⟨by decide⟩ s s n (keeps_refl _ s)).same .out (by decide)

theorem sendCoach_link (l : LinkId) (x : Nat × List Nat) (s : State) :
    (sendCoach l x s).link l = { s.link l with coachTx := ((s.link l).coachTx + 1) % 64 } := by
  unfold sendCoach
  extract_lets n seq hdr crc s1 s2 s3 s4
  have h3 : s3.links = s1.links := by
    simp only [s3, s2]
    split_ifs <;> simp
  rw [State.modQueue_link, State.emit_link, State.link_congr h3, State.link_modLink]

/-- The coach that goes out is the last of the outputs. -/
theorem sendCoach_sends (l : LinkId) (x : Nat × List Nat) (s : State) : ∃ c, Out.coach l c ∈ (sendCoach l x s).out := by
  unfold sendCoach
  extract_lets n seq hdr crc s1 s2 s3 s4
  refine ⟨⟨hdr, x.2, crc⟩, ?_⟩
  rw [State.modQueue_out]
  exact List.mem_append_right _ (List.mem_singleton_self _)

end Sys2Proof.Machine
end

section
/-! PROOF. Coaches sent and received (O24). -/
namespace Sys2Proof.Claims
open Sys2Proof Sys2Proof.Machine

theorem coachTx_sends {l : LinkId} {s : State} (hphase : (s.link l).phase = 7) (hawake : (s.link l).eei.inDepth = false)
    (hline : lineBusy (pumpLine l s) l = false) (hcarry : carryList (pumpLine l s) l ≠ []) (hentry : beyondEntry (pumpLine l s) l = false) :
    ∃ t : State, exec (.coachTx l) s = .next t ∧ ((t.link l).coachTx = ((s.link l).coachTx + 1) % 64 ∧ ∃ c, Out.coach l c ∈ t.out) := by
  have hsends : sendsCoaches (s.link l) = true := by simp [sendsCoaches, hphase]
  have hcarry' : (carryList (pumpLine l s) l).isEmpty = false := by simpa using hcarry
  have hexec : exec (.coachTx l) s = .next (showBeds l.n (fcJudge l.n (((nextCoach l (loopNear l (pumpLine l s))).2).now * 1000 : Nat)
      (pumpLine l (sendCoach l (nextCoach l (loopNear l (pumpLine l s))).1 (nextCoach l (loopNear l (pumpLine l s))).2)))) := by
    show execCoachTx l s = _
    simp only [execCoachTx, hsends, hawake, hline, hcarry', hentry]
    rfl
  refine ⟨_, hexec, ?_, ?_⟩
  · rw [State.link_congr ((showBeds_links _ _).trans ((fcJudge_links _ _ _).trans (pumpLine_links l _))), sendCoach_link,
      State.link_congr ((nextCoach_links l _).trans ((loopNear_links l _).trans (pumpLine_links l s)))]
  · obtain ⟨c, hc⟩ := sendCoach_sends l (nextCoach l (loopNear l (pumpLine l s))).1 (nextCoach l (loopNear l (pumpLine l s))).2
    refine ⟨c, ?_⟩
    rw [showBeds_out, fcJudge_out]
    exact (pumpLine_out l _).subset hc

section
variable {n : Port} {sub : Option Pair} {a b c d : List RxWindow} {t : Rat} {s : State}

theorem coachCount_coachRx (hphase : (s.link ⟨n, sub⟩).phase = 7)
    (hwhole : 10320 ≤ (bitsIn ⟨n, sub⟩ (bySymbol [a, b, c, d]) s).length) :
    ∃ u : State, exec (.coachRx n sub a b c d t) s = .next u ∧ coachCount ⟨n, sub⟩ u =
      (if coachIsBad (coachIn ⟨n, sub⟩ (bySymbol [a, b, c, d]) s) (coachFailed ⟨n, sub⟩ (bySymbol [a, b, c, d]) s)
        then (s.link ⟨n, sub⟩).coachRx.map (fun e => (e + 1) % 64) else some ((coachIn ⟨n, sub⟩ (bySymbol [a, b, c, d]) s).hdr % 64),
        (s.link ⟨n, sub⟩).stageBad +
          (coachIsBad (coachIn ⟨n, sub⟩ (bySymbol [a, b, c, d]) s) (coachFailed ⟨n, sub⟩ (bySymbol [a, b, c, d]) s)).toNat) := by
  have hreceived : coachCount ⟨n, sub⟩ (afterSymbols ⟨n, sub⟩ (bySymbol [a, b, c, d]) s) = coachCount ⟨n, sub⟩ s :=
    coachCount_rxSymbols _ _ s
  obtain ⟨hseq, hbad⟩ := Prod.mk.inj hreceived
  refine ⟨_, exec_coachRx_of_whole (by omega) hwhole, ?_⟩
  rw [coachCount_congr _ (markCoach_links _ _), coachCount_takeCoach, State.modQueue_link, hseq, hbad]

theorem coachRx_takes (hphase : (s.link ⟨n, sub⟩).phase = 7)
    (hwhole : 10320 ≤ (bitsIn ⟨n, sub⟩ (bySymbol [a, b, c, d]) s).length)
    (hdecoded : coachFailed ⟨n, sub⟩ (bySymbol [a, b, c, d]) s = false)
    (hcrc : (coachIn ⟨n, sub⟩ (bySymbol [a, b, c, d]) s).crc =
      coachCrc (coachIn ⟨n, sub⟩ (bySymbol [a, b, c, d]) s).hdr (coachIn ⟨n, sub⟩ (bySymbol [a, b, c, d]) s).blocks)
    (htype : (coachIn ⟨n, sub⟩ (bySymbol [a, b, c, d]) s).hdr / 64 % 4 ≠ 3) :
    ∃ u : State, exec (.coachRx n sub a b c d t) s = .next u ∧
      (u.link ⟨n, sub⟩).coachRx = some ((coachIn ⟨n, sub⟩ (bySymbol [a, b, c, d]) s).hdr % 64) ∧
      (u.link ⟨n, sub⟩).stageBad = (s.link ⟨n, sub⟩).stageBad := by
  obtain ⟨u, hexec, hcount⟩ := coachCount_coachRx (t := t) hphase hwhole
  have hgood : coachIsBad (coachIn ⟨n, sub⟩ (bySymbol [a, b, c, d]) s) (coachFailed ⟨n, sub⟩ (bySymbol [a, b, c, d]) s) = false := by
    simp [coachIsBad, hdecoded, hcrc, htype]
  rw [hgood] at hcount
  obtain ⟨hseq, hbad⟩ := Prod.mk.inj hcount
  exact ⟨u, hexec, hseq, hbad⟩

theorem coachRx_counts_bad (hphase : (s.link ⟨n, sub⟩).phase = 7)
    (hwhole : 10320 ≤ (bitsIn ⟨n, sub⟩ (bySymbol [a, b, c, d]) s).length)
    (hbad : coachFailed ⟨n, sub⟩ (bySymbol [a, b, c, d]) s = true ∨ (coachIn ⟨n, sub⟩ (bySymbol [a, b, c, d]) s).crc ≠
        coachCrc (coachIn ⟨n, sub⟩ (bySymbol [a, b, c, d]) s).hdr (coachIn ⟨n, sub⟩ (bySymbol [a, b, c, d]) s).blocks ∨
      (coachIn ⟨n, sub⟩ (bySymbol [a, b, c, d]) s).hdr / 64 % 4 = 3) :
    ∃ u : State, exec (.coachRx n sub a b c d t) s = .next u ∧
      ((u.link ⟨n, sub⟩).coachRx = (s.link ⟨n, sub⟩).coachRx.map (fun e => (e + 1) % 64) ∧
      (u.link ⟨n, sub⟩).stageBad = (s.link ⟨n, sub⟩).stageBad + 1) := by
  obtain ⟨u, hexec, hcount⟩ := coachCount_coachRx (t := t) hphase hwhole
  have hbad' : coachIsBad (coachIn ⟨n, sub⟩ (bySymbol [a, b, c, d]) s) (coachFailed ⟨n, sub⟩ (bySymbol [a, b, c, d]) s) = true :=
    coachIsBad_iff.mpr hbad
  rw [hbad'] at hcount
  obtain ⟨hseq, hcounted⟩ := Prod.mk.inj hcount
  exact ⟨u, hexec, hseq, hcounted⟩

theorem coachRx_waits (hphase : (s.link ⟨n, sub⟩).phase = 7) (hshort : (bitsIn ⟨n, sub⟩ (bySymbol [a, b, c, d]) s).length < 10320) :
    ∃ u : State, exec (.coachRx n sub a b c d t) s = .next u ∧ u = afterSymbols ⟨n, sub⟩ (bySymbol [a, b, c, d]) s := by
  refine ⟨_, ?_, rfl⟩
  show execCoachRx n sub a b c d t s = _
  rw [execCoachRx, receiveCoach, if_neg (by simp [hphase])]
  exact congrArg Host.Outcome.next (if_pos hshort)

end

end Sys2Proof.Claims
end

section
/-! SUPPORT. The exchange of a pair's tables. -/
namespace Sys2Proof.Machine

theorem capAgree_pairs (l : LinkId) (c stage : Nat) (s : State) : (capAgree l c stage s).pairs = s.pairs := State.modQueue_pairs _ _ _

theorem capNotice_pairs (l : LinkId) (s : State) : (capNotice l s).pairs = s.pairs := State.modQueue_pairs _ _ _

theorem sendPair_pair (n p code : Nat) (stage : Option Nat) (arg : Nat) (s : State) : (sendPair n p code stage arg s).pair n p =
    { s.pair n p with waiting := (s.pair n p).waiting ++ [⟨code, stage, arg, false⟩] } := State.pair_modPair s n p _

theorem dropRxSwap_pair (n p : Nat) (s : State) : (dropRxSwap n p s).pair n p = { s.pair n p with
    reloadRx := true, waiting := (s.pair n p).waiting.filter (fun w => w.code != 0x11), swap := .idle, nextEntry := 0 } := by
  rw [dropRxSwap, endSwap, State.setFld_pair, State.pair_modPair, State.pair_modPair]

theorem dropCommit_link (l : LinkId) (p stage : Nat) (s : State) : (dropCommit l p stage s).link l =
    { s.link l with proposals := (s.link l).proposals.filter (fun q => q != ⟨0x11, stage, p⟩) } := State.link_modLink s l _

theorem dropChange_link (l : LinkId) (c : Change) (s : State) :
    (dropChange l c s).link l = { s.link l with changes := (s.link l).changes.filter (fun x => x != c) } := State.link_modLink s l _

theorem stepTblIndex_fld {n p : Nat} {f : Fld} (s : State) (h : f.addr ≠ PAIR_TBL_ADDR n p) : (stepTblIndex n p s).fld f = s.fld f := by
  unfold stepTblIndex
  extract_lets i
  split
  · exact State.fld_setReg_other _ _ _ _ h
  · rfl

theorem stepTblIndex_tbl (n p : Nat) (s : State) : (stepTblIndex n p s).tbl = s.tbl := by
  unfold stepTblIndex
  extract_lets i
  split
  · exact State.setFld_tbl _ _ _
  · rfl

theorem histFlag_links (n p b : Nat) (s : State) : (histFlag n p b s).links = s.links := State.modDiag_links _ _ _

theorem histFlag_pairs (n p b : Nat) (s : State) : (histFlag n p b s).pairs = s.pairs := State.modDiag_pairs _ _ _

/-- A SWAP_ENTRY taken in: consumed and counted. -/
def takeSwapEntry (l : LinkId) (p : Nat) (m : Msg) (s : State) : State :=
  ((consume l p m s).inc (PAIR_SWAP_ENTRY_RX l.n p)).modPair l.n p (fun k => { k with rxEntries := k.rxEntries + 1 })

theorem takeSwapEntry_pair (l : LinkId) (p : Nat) (m : Msg) (s : State) :
    (takeSwapEntry l p m s).pair l.n p = { s.pair l.n p with rxEntries := (s.pair l.n p).rxEntries + 1 } := by
  rw [takeSwapEntry, State.pair_modPair, State.inc_pair, consume, State.modLink_pair]

/-- Counting the entry writes nothing of the table status. -/
theorem takeSwapEntry_fld_status (l : LinkId) (p : Nat) (m : Msg) (s : State) {f : Fld} (hf : f.addr = PAIR_TBL_STATUS l.n p) :
    (takeSwapEntry l p m s).fld f = s.fld f := by
  have haddr : f.addr ≠ PAIR_SWAP_ENTRY_RX l.n p := by
    rw [hf]
    simp [PAIR_TBL_STATUS, PAIR_SWAP_ENTRY_RX]
  rw [takeSwapEntry, State.fld_congr _ _ (State.modPair_regs _ _ _ _), State.fld_inc_other _ _ _ haddr, consume,
    State.fld_congr _ _ (State.modLink_regs _ _ _)]

theorem shadowBank_takeSwapEntry (l : LinkId) (p : Nat) (m : Msg) (s : State) :
    shadowBank (takeSwapEntry l p m s) l.n p .tx = shadowBank s l.n p .tx := by
  rw [shadowBank, activeBank, takeSwapEntry_fld_status l p m s rfl, shadowBank, activeBank]

end Sys2Proof.Machine
end

section
/-! PROOF. Tables written, entered, agreed, declined and applied (O24). -/
namespace Sys2Proof.Claims
open Sys2Proof Sys2Proof.Machine

theorem pairTblDataWrite_ignored {n : Port} {p : Pair} {v : Word} {s : State} :
    ∃ t : State, exec (.pairTblDataWrite n p v) s = .next t ∧ t.flag (PAIR_TBL_STATUS.HOST_WRITE_IGNORED n p) = true ∧ t.tbl = s.tbl := by
  refine ⟨writeTblData n p s, rfl, ?_, ?_⟩
  · have haddr : (PAIR_TBL_STATUS.HOST_WRITE_IGNORED n p).addr ≠ PAIR_TBL_ADDR n p := by
      simp [PAIR_TBL_STATUS.HOST_WRITE_IGNORED, PAIR_TBL_STATUS, PAIR_TBL_ADDR]
    rw [writeTblData, State.flag, stepTblIndex_fld _ haddr, State.fld_setFld_same _ _ _ (le_refl 8) (by decide : 8 < 32)]
    rfl
  · rw [writeTblData, stepTblIndex_tbl, State.setFld_tbl]

theorem tableShadowCopyDone_loads {n : Port} {p : Pair} {s : State} (hruns : (s.pair n p).copyRx = true) :
    ∃ t : State, exec (.tableShadowCopyDone n p .rx) s = .next t ∧ ((t.pair n p).copyRx = false ∧
      ∀ k < 512, t.entry n p .rx (shadowBank s n p .rx) k = s.entry n p .rx (activeBank s n p .rx) k) := by
  show ∃ t, execTableShadowCopyDone n p .rx s = .next t ∧ _
  unfold execTableShadowCopyDone
  extract_lets q runs s1 s2 busy s3
  rw [if_neg (by simp [runs, q, hruns])]
  have hpair : (s2.pair n p).copyRx = false := by simp [s2]
  have hentry : ∀ k < 512, s2.entry n p .rx (shadowBank s n p .rx) k = s.entry n p .rx (activeBank s n p .rx) k := by
    intro k hk
    rw [State.entry_congr (State.modPair_tbl _ _ _ _)]
    exact entry_reloadShadow n p .rx s hk
  have hheld (xs : List Nat) (u : State) : ((forEach xs (writeEntries n p) u).pair n p).copyRx = (u.pair n p).copyRx :=
    forEach_eq_of_step_eq (fun u => (u.pair n p).copyRx) _ (fun x u => by rw [State.pair_congr (writeEntries_pairs n p x u)]) xs u
  have hwritten (xs : List Nat) (u : State) (k : Nat) (hk : k < 512) :
      (forEach xs (writeEntries n p) u).entry n p .rx (shadowBank s n p .rx) k = u.entry n p .rx (shadowBank s n p .rx) k :=
    forEach_eq_of_step_eq (fun u => u.entry n p .rx (shadowBank s n p .rx) k) _ (fun x u => entry_writeEntries_rx _ _ _ _ u hk) xs u
  refine ⟨_, rfl, ?_, fun k hk => ?_⟩
  · rw [State.setFld_pair]
    simp only [s3]
    split
    · exact hpair
    · rw [hheld, State.pair_modPair]
      dsimp only
      exact hpair
  · rw [State.entry_congr (State.setFld_tbl _ _ _), ← hentry k hk]
    simp only [s3]
    split
    · rfl
    · rw [hwritten _ _ _ hk, State.entry_congr (State.modPair_tbl _ _ _ _)]

theorem swapEntry_held {l : LinkId} {p : Pair} {m : Msg} {s : State} (hbusy : s.flag (PAIR_TBL_STATUS.COPY_BUSY l.n p) = true) :
    ∃ t : State, exec (.swapEntry l p m) s = .next t ∧ (t.pair l.n p).rxEntries = (s.pair l.n p).rxEntries + 1 ∧
      (t.pair l.n p).heldEntries = (s.pair l.n p).heldEntries ++ [m.arg] := by
  have hbusy' : (takeSwapEntry l p m s).flag (PAIR_TBL_STATUS.COPY_BUSY l.n p) = true := by
    rw [State.flag, takeSwapEntry_fld_status l p m s rfl]
    exact hbusy
  refine ⟨(takeSwapEntry l p m s).modPair l.n p (fun k => { k with heldEntries := k.heldEntries ++ [m.arg] }),
    congrArg Host.Outcome.next (if_pos hbusy'), ?_⟩
  rw [State.pair_modPair, takeSwapEntry_pair]
  exact ⟨rfl, rfl⟩

theorem swapEntry_written {l : LinkId} {p : Pair} {m : Msg} {s : State} (hfree : s.flag (PAIR_TBL_STATUS.COPY_BUSY l.n p) = false)
    (hindex : isExcluded (bits m.arg 31 23) = false) :
    ∃ t : State, exec (.swapEntry l p m) s = .next t ∧ (t.pair l.n p).rxEntries = (s.pair l.n p).rxEntries + 1 ∧
      t.entry l.n p .tx (shadowBank s l.n p .tx) (bits m.arg 31 23) = entryOf (bits m.arg 22 19) (bits m.arg 18 14) := by
  have hfree' : ¬ (takeSwapEntry l p m s).flag (PAIR_TBL_STATUS.COPY_BUSY l.n p) = true := by
    rw [State.flag, takeSwapEntry_fld_status l p m s rfl]
    exact Bool.eq_false_iff.mp hfree
  refine ⟨writeEntries l.n p m.arg (takeSwapEntry l p m s), congrArg Host.Outcome.next (if_neg hfree'), ?_, ?_⟩
  · rw [State.pair_congr (writeEntries_pairs _ _ _ _), takeSwapEntry_pair]
  · rw [← shadowBank_takeSwapEntry l p m s]
    exact entry_writeEntries_first _ hindex

theorem swapCommit_agrees {l : LinkId} {p : Pair} {m : Msg} {s : State} (hphase : (s.link l).phase = 7)
    (hreason : swapDeclineReason (consume l p m s) l p m = none) :
    ∃ t : State, exec (.swapCommit l p m) s = .next t ∧ (⟨msgStage m, .swap p .tx, false, true⟩ : Change) ∈ (t.link l).changes ∧
      (t.pair l.n p).rxEntries = 0 ∧ (⟨0x12, some (msgStage m), 0, false⟩ : WMsg) ∈ (t.pair l.n p).waiting := by
  have hphase1 : ((consume l p m s).link l).phase = 7 := by rw [consume_link]; exact hphase
  show ∃ t, execSwapCommit l p m s = .next t ∧ _
  simp only [execSwapCommit, hphase1, hreason]
  refine ⟨_, rfl, ?_⟩
  rw [State.link_congr ((showLink_links l _).trans (capAgree_links l _ _ _)), State.pair_congr ((showLink_pairs l _).trans (capAgree_pairs l _ _ _))]
  refine ⟨mem_changes_agree l _ (.swap p .tx) _, ?_⟩
  rw [agree, State.modLink_pair, sendPair_pair, State.pair_modPair]
  exact ⟨rfl, List.mem_append_right _ (List.mem_singleton_self _)⟩

theorem swapAccept_agrees {l : LinkId} {p : Pair} {m : Msg} {s : State} (hopen : commitAt (s.link l) p (msgStage m) = true)
    (htime : reached (s.link l).farPrev (msgStage m) = false) (hfree : agreedAt (s.link l) (msgStage m) = false) :
    ∃ t : State, exec (.swapAccept l p m) s = .next t ∧ (⟨msgStage m, .swap p .rx, true, false⟩ : Change) ∈ (t.link l).changes ∧
      commitAt (t.link l) p (msgStage m) = false := by
  have hopen1 : commitAt ((consume l p m s).link l) p (msgStage m) = true := by rw [consume_link]; exact hopen
  have htime1 : reached ((consume l p m s).link l).farPrev (msgStage m) = false := by rw [consume_link]; exact htime
  have hfree1 : agreedAt ((consume l p m s).link l) (msgStage m) = false := by rw [consume_link]; exact hfree
  show ∃ t, execSwapAccept l p m s = .next t ∧ _
  simp only [execSwapAccept, hopen1, htime1, hfree1]
  refine ⟨_, rfl, ?_⟩
  rw [State.link_congr (showLink_links l _)]
  refine ⟨mem_changes_agree l _ (.swap p .rx) _, ?_⟩
  rw [agree_link, dropCommit_link]
  simp [commitAt]

theorem swapDecline_ends {l : LinkId} {p : Pair} {m : Msg} {s : State} (hopen : commitAt (s.link l) p (msgStage m) = true) :
    ∃ t : State, exec (.swapDecline l p m) s = .next t ∧ (t.pair l.n p).swap = .idle ∧ (t.pair l.n p).reloadRx = true ∧
      (t.pair l.n p).sinceSwap = 0 := by
  have hopen1 : commitAt ((consume l p m s).link l) p (msgStage m) = true := by rw [consume_link]; exact hopen
  show ∃ t, execSwapDecline l p m s = .next t ∧ _
  simp only [execSwapDecline, hopen1, if_true]
  refine ⟨_, rfl, ?_⟩
  rw [State.pair_congr (showLink_pairs l _), dropRxSwap_pair, State.pair_modPair]
  exact ⟨rfl, rfl, rfl⟩

theorem tableSwapApply_begins_copy {l : LinkId} {p : Pair} {d : Dir} {c : Change} {s : State} (hdue : swapDue (s.link l) p d = some c) :
    ∃ t : State, exec (.tableSwapApply l p d) s = .next t ∧ ((t.link l).changes = (s.link l).changes.filter (fun x => x != c) ∧
      (d = .tx → (t.pair l.n p).copyTx = true) ∧ (d = .rx → (t.pair l.n p).copyRx = true ∧ (t.pair l.n p).swap = .idle)) := by
  show ∃ t, execTableSwapApply l p d s = .next t ∧ _
  unfold execTableSwapApply
  rw [hdue]
  dsimp -zeta only
  extract_lets n s1 s2 s3 s4
  refine ⟨_, rfl, ?_⟩
  rw [State.link_congr ((showLink_links l _).trans (capNotice_links l _)), State.pair_congr ((showLink_pairs l _).trans (capNotice_pairs l _)),
    State.link_congr (histFlag_links _ _ _ _), State.pair_congr (histFlag_pairs _ _ _ _), State.link_modLink, State.modLink_pair]
  have h3 : s3.links = s2.links ∧ s3.pairs = s2.pairs := by simp [s3]
  have h1 : s1.link l = { s.link l with changes := (s.link l).changes.filter (fun x => x != c) } := dropChange_link l c s
  rw [State.link_congr h3.1, State.pair_congr h3.2]
  cases d with
  | tx =>
    have h2 : s2.link l = s1.link l := by simp [s2]
    have hcopy : s2.pair l.n p = _ := State.pair_modPair _ l.n p _
    exact ⟨by rw [h2, h1], fun _ => by rw [hcopy], nofun⟩
  | rx =>
    have h2 : s2.link l = s1.link l := by simp [s2]
    have hcopy : s2.pair l.n p = _ := State.pair_modPair _ l.n p _
    exact ⟨by rw [h2, h1], nofun, fun _ => by rw [hcopy]; exact ⟨rfl, rfl⟩⟩

theorem swapEvaluation_of_subLink {n : Port} {p : Pair} {s : State} (hphase : (s.link ⟨n, some p⟩).phase = 7)
    (hawake : (s.link ⟨n, some p⟩).eei.inDepth = false) :
    ∃ t : State, exec (.swapEvaluation ⟨n, some p⟩) s = .next t ∧ (t.link ⟨n, some p⟩).upRun = 0 := by
  show ∃ t, execSwapEvaluation ⟨n, some p⟩ s = .next t ∧ _
  simp only [execSwapEvaluation, hphase, hawake]
  refine ⟨_, rfl, ?_⟩
  rw [State.link_congr (showLink_links _ _)]
  simp [retryTransparent, evaluateUp]

theorem swapCommitSend_sends {l : LinkId} {p : Pair} {s : State} (hphase : (s.link l).phase = 7) (hdone : entriesDone s l p = true)
    (hwait : (s.link l).rateWait = none) :
    ∃ t : State, exec (.swapCommitSend l p) s = .next t ∧ (t.pair l.n p).swap = .commit ∧ (t.pair l.n p).txEntries = 0 ∧
      (t.pair l.n p).waiting = (s.pair l.n p).waiting ++
        [⟨0x11, none, bankCrc (s.shadow l.n p .rx) * 65536 + (s.pair l.n p).txEntries % 65536, false⟩] := by
  show ∃ t, execSwapCommitSend l p s = .next t ∧ _
  simp only [execSwapCommitSend, hphase, hdone, hwait]
  refine ⟨_, rfl, ?_⟩
  rw [State.pair_congr (showLink_pairs l _), State.setFld_pair, State.setFld_pair, sendPair_pair, State.pair_modPair]
  exact ⟨rfl, rfl, rfl⟩

end Sys2Proof.Claims
end

section
/-! SUPPORT. The count of weak subcarriers beside the registers that show a link (R204). -/
namespace Sys2Proof.Machine

/-! ### Registers apart from PAIR_SWAP_STATUS -/

theorem portReg_ne_swapStatus {m n p off : Nat} (hp : p < 4) (hoff : off < 0x8000) : portBase m + off ≠ PAIR_SWAP_STATUS n p := by
  simp only [portBase, PAIR_SWAP_STATUS, pairBase]
  omega

theorem pairReg_ne_swapStatus {m q n p off : Nat} (hoff : off < 0x1000 ∧ off ≠ 0x300) : pairBase m q + off ≠ PAIR_SWAP_STATUS n p := by
  simp only [PAIR_SWAP_STATUS, pairBase, portBase]
  omega

theorem lowReg_ne_swapStatus {a n p : Nat} (ha : a < 0x10100000) : a ≠ PAIR_SWAP_STATUS n p := by
  simp only [PAIR_SWAP_STATUS, pairBase, portBase]
  omega

/-- From one state to the other the count of weak subcarriers of a pair stands. -/
def WeakStands (n p : Nat) (s t : State) : Prop := t.fld (PAIR_SWAP_STATUS.WEAK n p) = s.fld (PAIR_SWAP_STATUS.WEAK n p)

namespace WeakStands

variable {n p : Nat} {r s : State}

theorem setReg {a : Nat} {v : Word} (h : WeakStands n p r s) (ha : a ≠ PAIR_SWAP_STATUS n p) : WeakStands n p r (s.setReg a v) :=
  (State.fld_setReg_other s (PAIR_SWAP_STATUS.WEAK n p) a v ha.symm).trans h

/-- A register of a port. -/
theorem portReg {m off : Nat} {v : Word} (h : WeakStands n p r s) (hp : p < 4) (hoff : off < 0x8000 := by decide) :
    WeakStands n p r (s.setReg (portBase m + off) v) := h.setReg (portReg_ne_swapStatus hp hoff)

theorem portFld {m off hi lo v : Nat} (h : WeakStands n p r s) (hp : p < 4) (hoff : off < 0x8000 := by decide) :
    WeakStands n p r (s.setFld ⟨portBase m + off, hi, lo⟩ v) := h.setReg (portReg_ne_swapStatus hp hoff)

/-- A register of a pair, of this pair or another. -/
theorem pairReg {m q off : Nat} {v : Word} (h : WeakStands n p r s) (hoff : off < 0x1000 ∧ off ≠ 0x300 := by decide) :
    WeakStands n p r (s.setReg (pairBase m q + off) v) := h.setReg (pairReg_ne_swapStatus hoff)

theorem pairFld {m q off hi lo v : Nat} (h : WeakStands n p r s) (hoff : off < 0x1000 ∧ off ≠ 0x300 := by decide) :
    WeakStands n p r (s.setFld ⟨pairBase m q + off, hi, lo⟩ v) := h.setReg (pairReg_ne_swapStatus hoff)

/-- A register of the timetable block of a port. -/
theorem timetableReg {m : Port} {off : Nat} {v : Word} (h : WeakStands n p r s) (hoff : off < 0x100 := by decide) :
    WeakStands n p r (s.setReg (ttBase m + off) v) := by
  refine h.setReg (lowReg_ne_swapStatus ?_)
  simp only [ttBase]
  omega

theorem timetableFld {m : Port} {off hi lo v : Nat} (h : WeakStands n p r s) (hoff : off < 0x100 := by decide) :
    WeakStands n p r (s.setFld ⟨ttBase m + off, hi, lo⟩ v) := h.timetableReg hoff

/-- Another field of the register, below WEAK or above it. -/
theorem statusFld {m q hi lo v : Nat} (h : WeakStands n p r s) (hlo : lo ≤ hi) (hhi : hi < 32) (hbits : hi < 16 ∨ 24 < lo) :
    WeakStands n p r (s.setFld ⟨PAIR_SWAP_STATUS m q, hi, lo⟩ v) :=
  (State.fld_setFld_apart s _ _ _ hlo hhi (.inr (hbits.symm.imp id id))).trans h

theorem of_regs {t : State} (h : WeakStands n p r s) (ht : t.regs = s.regs) : WeakStands n p r t := (State.fld_congr _ _ ht _).trans h

theorem stateChange {m : Port} {f : Fld} {v : Nat} (h : WeakStands n p r s) : WeakStands n p r (stateChange m f v s) := by
  unfold Machine.stateChange
  split
  · exact h
  · refine h.setReg (lowReg_ne_swapStatus ?_)
    simp only [HUB_INT_PORT, hubBase]
    omega

end WeakStands

section
variable {n p : Nat} (hp : p < 4)
include hp

theorem weakStands_showPort (m : Port) (s : State) : WeakStands n p s (showPort m s) := by
  unfold showPort
  extract_lets l k hi su tri ls p0 p1 info s1 s2 s3 s4 s5 s6 s7
  have h1 : WeakStands n p s s1 := WeakStands.stateChange rfl
  have h3 : WeakStands n p s s3 := ((((h1.portReg hp).portReg hp).portFld hp).portFld hp).portFld hp
  have h4 : WeakStands n p s s4 := by
    simp only [s4]
    split
    · exact h3.portReg hp
    · exact h3
  have h7 : WeakStands n p s s7 := (((((h4.portReg hp).portReg hp).portReg hp).portReg hp).portReg hp).portReg hp
  exact (h7.portReg hp).portReg hp

theorem weakStands_showSub (m : Port) (q : Pair) (s : State) : WeakStands n p s (showSub m q s) := by
  unfold showSub
  extract_lets k brk v s1 s2 s3 s4 s5 s6 s7 s8
  have h2 : WeakStands n p s s2 := ((WeakStands.pairReg rfl).pairReg).pairReg
  have h4 : WeakStands n p s s4 := h2.stateChange.pairReg
  split
  · have h6 : WeakStands n p s s6 := ((((h4.portReg hp).portReg hp).portReg hp).portReg hp).portReg hp
    have h8 : WeakStands n p s s8 := (h6.stateChange.portReg hp).portFld hp
    exact (h8.portReg hp).portReg hp
  · exact h4

theorem weakStands_showChanges (l : LinkId) (s : State) : WeakStands n p s (showChanges l s) := by
  unfold showChanges
  extract_lets k s1
  have h1 : WeakStands n p s s1 := by
    refine forEach_eq_of_step_eq (fun s => s.fld (PAIR_SWAP_STATUS.WEAK n p)) _ (fun q s => ?_) (linkPairs l) s
    extract_lets mine st s2 s3
    have h3 : WeakStands n p s s3 := WeakStands.statusFld (WeakStands.pairFld (WeakStands.pairFld rfl)) (le_refl 31) (by decide) (.inr (by decide))
    clear_value st
    split
    · exact h3.pairReg
    · exact h3
  split
  · exact h1.portReg hp
  · exact (h1.portReg hp).portReg hp

theorem weakStands_showModes (m : Port) (s : State) : WeakStands n p s (showModes m s) := by
  unfold showModes
  extract_lets eff fc changed r0 r1 ina pend st b mm tt s1 s2 s3 s4 s5 s6 s7 s8 s9
  have h1 : WeakStands n p s s1 := .of_regs rfl ((@keeps_reasonEvents (· ∈ [.raised]) ⟨by decide⟩ s s m (keeps_refl _ s)).same .regs (by decide))
  have h2 : WeakStands n p s s2 := by
    simp only [s2]
    split
    · exact h1.portReg hp
    · exact h1
  have h6 : WeakStands n p s s6 := ((((((h2.portFld hp).portFld hp).portFld hp).portReg hp).portReg hp).portFld hp).portFld hp
  have h7 : WeakStands n p s s7 := by
    simp only [s7]
    clear_value st
    split
    · exact h6.portReg hp
    · exact h6
  have h9 : WeakStands n p s s9 := h7.timetableReg.timetableReg.timetableFld
  split
  · exact h9
  · exact ((h9.portFld hp).portFld hp).portFld hp

theorem weakStands_showLink (l : LinkId) (s : State) : WeakStands n p s (showLink l s) := by
  unfold showLink
  extract_lets s1
  have h1 : WeakStands n p s s1 := by
    simp only [s1]
    split
    · exact weakStands_showPort hp l.n s
    · exact weakStands_showSub hp l.n _ s
  exact ((weakStands_showModes hp _ _).trans (weakStands_showModes hp _ _)).trans ((weakStands_showChanges hp l s1).trans h1)

end

/-! ### The evaluation of a pair (R203, R204) -/

theorem setBank_regs (n p : Nat) (d : Dir) (b : Nat) (t : List Nat) (s : State) : (s.setBank n p d b t).regs = s.regs :=
  (@keeps_setBank (· ∈ [.tbl]) ⟨by decide⟩ s s n p d b t (keeps_refl _ s)).same .regs (by decide)

/-- The coding, target margin and reduction limit of a link, and the active receive table and SNRs of a pair, give its weak subcarriers. -/
def weakOf (s : State) (l : LinkId) (p : Nat) : Nat :=
  weakCount (plainRx (s.link l)) (isReach (s.link l)) (s.active l.n p .rx) (snrList s l.n p) (targetMargin s l.n)
    (min (s.fld (PORT_SWAP_CFG.SWAP_DOWN l.n)) 60)

/-- The table that a swap of a pair would bring, from the same measures. -/
def swapTableOf (s : State) (l : LinkId) (p : Nat) : Option (List Nat) :=
  swapTable (plainRx (s.link l)) (isReach (s.link l)) (s.active l.n p .rx) (snrList s l.n p) (targetMargin s l.n)
    (min (s.fld (PORT_SWAP_CFG.SWAP_DOWN l.n)) 60) (dirShare s l .rx)

theorem dirShare_setFld (s : State) (l : LinkId) (f : Fld) (v : Nat) : dirShare (s.setFld f v) l .rx = dirShare s l .rx := by
  simp [dirShare, streamShare, streamPairs, coachList]

theorem testOn_setFld (s : State) (n : Port) (f : Fld) (v : Nat) : testOn (s.setFld f v) n = testOn s n := by
  have hshow : inShow (s.setFld f v) = inShow s := funext fun l => by simp [inShow]
  simp only [testOn, portShow, activeLinks, isBreakout, localOn, sentPattern, State.setFld_link, State.setFld_port, hshow]
  rfl

theorem mayStartSwap_setFld {s : State} {l : LinkId} (p : Nat) {f : Fld} (v : Nat) (h : PORT_SWAP_CFG l.n ≠ f.addr) :
    mayStartSwap (s.setFld f v) l p = mayStartSwap s l p := by
  have hauto : (s.setFld f v).flag (PORT_SWAP_CFG.AUTO l.n) = s.flag (PORT_SWAP_CFG.AUTO l.n) :=
    congrArg (· != 0) (State.fld_setReg_other s (PORT_SWAP_CFG.AUTO l.n) f.addr _ h)
  have hholdoff : (s.setFld f v).fld (PORT_SWAP_CFG.HOLDOFF l.n) = s.fld (PORT_SWAP_CFG.HOLDOFF l.n) :=
    State.fld_setReg_other s (PORT_SWAP_CFG.HOLDOFF l.n) f.addr _ h
  simp only [mayStartSwap, hauto, hholdoff, swapBusy, testOn_setFld, State.setFld_link, State.setFld_pair]

/-- A pair's count of weak subcarriers is shown, its shadow takes the new table, and its entries start. -/
def startEntries (l : LinkId) (p : Nat) (tb : List Nat) (s : State) : State :=
  let s1 := s.setFld (PAIR_SWAP_STATUS.WEAK l.n p) (weakOf s l p)
  ((s1.setBank l.n p .rx (shadowBank s1 l.n p .rx) tb).setFld (PAIR_SWAP_STATUS.TO_SEND l.n p)
    (min 255 (entryPlan (s.active l.n p .rx) tb 492 4).length)).modPair l.n p (fun k => { k with swap := .entries, nextEntry := 4 })

theorem startEntries_pair (l : LinkId) (p : Nat) (tb : List Nat) (s : State) :
    ((startEntries l p tb s).pair l.n p).swap = .entries ∧ ((startEntries l p tb s).pair l.n p).nextEntry = 4 := by
  rw [startEntries, State.pair_modPair]
  exact ⟨rfl, rfl⟩

theorem startEntries_weak (l : LinkId) (p : Nat) (tb : List Nat) (s : State) :
    (startEntries l p tb s).fld (PAIR_SWAP_STATUS.WEAK l.n p) = weakOf s l p % 2 ^ 9 := by
  unfold startEntries
  extract_lets s1
  have h1 : s1.fld (PAIR_SWAP_STATUS.WEAK l.n p) = weakOf s l p % 2 ^ 9 :=
    State.fld_setFld_same s _ _ (by decide : 16 ≤ 24) (by decide : 24 < 32)
  have hbank : WeakStands l.n p s1 (s1.setBank l.n p .rx (shadowBank s1 l.n p .rx) tb) := .of_regs rfl (setBank_regs _ _ _ _ _ _)
  have hsend := hbank.statusFld (m := l.n) (q := p) (hi := 15) (lo := 8) (v := min 255 (entryPlan (s.active l.n p .rx) tb 492 4).length)
    (by decide) (by decide) (.inl (by decide))
  exact (hsend.of_regs (State.modPair_regs _ _ _ _)).trans h1

theorem evaluatePair_of_startable {l : LinkId} {p : Nat} {tb : List Nat} {s : State} (hp : p < 4)
    (hstale : s.flag (PAIR_QUALITY.STALE l.n p) = false) (hmay : mayStartSwap s l p = true)
    (hweak : max 1 (s.fld (PORT_SWAP_CFG.WEAK_MIN l.n)) ≤ weakOf s l p) (htable : swapTableOf s l p = some tb) :
    evaluatePair l p s = startEntries l p tb s := by
  have hcfg : PORT_SWAP_CFG l.n ≠ (PAIR_SWAP_STATUS.WEAK l.n p).addr := portReg_ne_swapStatus (off := 0x400) hp (by decide)
  have hheard : ¬ (s.flag (PAIR_QUALITY.STALE l.n p) || (s.pair l.n p).quiet) = true := by
    simp only [mayStartSwap, Bool.and_eq_true, Bool.not_eq_true'] at hmay
    simp [hstale, hmay.2]
  have hstart : max 1 ((s.setFld (PAIR_SWAP_STATUS.WEAK l.n p) (weakOf s l p)).fld (PORT_SWAP_CFG.WEAK_MIN l.n)) ≤ weakOf s l p ∧
      mayStartSwap (s.setFld (PAIR_SWAP_STATUS.WEAK l.n p) (weakOf s l p)) l p = true := by
    rw [mayStartSwap_setFld p _ hcfg, State.fld_setFld_apart s _ _ _ (by decide : 16 ≤ 24) (by decide : 24 < 32) (.inl hcfg)]
    exact ⟨hweak, hmay⟩
  rw [swapTableOf, ← dirShare_setFld s l (PAIR_SWAP_STATUS.WEAK l.n p) (weakOf s l p)] at htable
  unfold evaluatePair
  extract_lets n k tg dn act snr weak s1
  have htable1 : swapTable (plainRx k) (isReach k) act snr tg dn (dirShare s1 l .rx) = some tb := htable
  refine (if_neg hheard).trans ((if_pos hstart).trans ?_)
  rw [htable1]
  rfl

/-- With a swap that runs the TRANSPARENT stream is not tried again. -/
theorem retryTransparent_of_swap {l : LinkId} {p : Nat} {s : State} (hp : p < 4) (hswap : (s.pair l.n p).swap = .entries) :
    retryTransparent l s = s := by
  have hbusy : swapBusy s l p = true := by simp [swapBusy, hswap]
  have hall : (linkPairs l).all (fun q => !swapBusy s l q) = false ∨ l.sub.isNone = false := by
    cases hsub : l.sub with
    | none =>
      have hmem : p ∈ linkPairs l := by
        simp only [linkPairs, hsub, allPairs, List.mem_cons, List.not_mem_nil, or_false]
        omega
      exact .inl (List.all_eq_false.mpr ⟨p, hmem, by simp [hbusy]⟩)
    | some q => exact .inr rfl
  unfold retryTransparent
  extract_lets k
  obtain h | h := hall <;> simp [h]

theorem evaluateUp_pairs (l : LinkId) (s : State) : (evaluateUp l s).pairs = s.pairs := State.modLink_pairs _ _ _

theorem evaluateUp_regs (l : LinkId) (s : State) : (evaluateUp l s).regs = s.regs := State.modLink_regs _ _ _

end Sys2Proof.Machine
end

section
/-! PROOF. The statement about coaches and tables (O24). -/
namespace Sys2Proof.Claims
open Sys2Proof Sys2Proof.Machine

theorem swapEvaluation_starts {l : LinkId} {p : Nat} {tb : List Nat} {s : State} (hphase : (s.link l).phase = 7)
    (hawake : (s.link l).eei.inDepth = false) (hpair : maskPairs (s.link l).carryRx = [p])
    (hstale : s.flag (PAIR_QUALITY.STALE l.n p) = false) (hmay : mayStartSwap s l p = true)
    (hweak : max 1 (s.fld (PORT_SWAP_CFG.WEAK_MIN l.n)) ≤ weakOf s l p) (htable : swapTableOf s l p = some tb) :
    ∃ t : State, exec (.swapEvaluation l) s = .next t ∧ (t.pair l.n p).swap = .entries ∧ (t.pair l.n p).nextEntry = 4 ∧
      t.fld (PAIR_SWAP_STATUS.WEAK l.n p) = weakOf s l p % 2 ^ 9 := by
  have hp : p < 4 := by
    have hmem : p ∈ maskPairs (s.link l).carryRx := by simp [hpair]
    simp only [maskPairs, allPairs, List.mem_filter, List.mem_cons, List.not_mem_nil, or_false] at hmem
    omega
  obtain ⟨hswap, hentry⟩ := startEntries_pair l p tb s
  have hswapUp : ((evaluateUp l (startEntries l p tb s)).pair l.n p).swap = .entries := by
    rw [State.pair_congr (evaluateUp_pairs l _)]
    exact hswap
  refine ⟨showLink l (evaluateUp l (startEntries l p tb s)), ?_, ?_, ?_, ?_⟩
  · show execSwapEvaluation l s = _
    simp only [execSwapEvaluation, hphase, hawake, hpair, forEach_cons, evaluatePair_of_startable hp hstale hmay hweak htable]
    exact congrArg (fun u => Host.Outcome.next (showLink l u)) (retryTransparent_of_swap hp hswapUp)
  · rw [State.pair_congr (showLink_pairs l _)]
    exact hswapUp
  · rw [State.pair_congr (showLink_pairs l _), State.pair_congr (evaluateUp_pairs l _)]
    exact hentry
  · exact ((weakStands_showLink hp l _).trans (State.fld_congr _ _ (evaluateUp_regs l _) _)).trans (startEntries_weak l p tb s)

/-- Settles O24, clause by clause: what a coach, a message or a stage writes of a link or of a pair's tables stands through what is shown
after it. -/
theorem coachesAndTables : Obligations.CoachesAndTables :=
  ⟨fun _ _ => coachTx_sends, fun _ _ _ _ _ _ _ _ => coachRx_takes, fun _ _ _ _ _ _ _ _ => coachRx_counts_bad,
    fun _ _ _ _ _ _ _ _ => coachRx_waits, fun _ _ _ _ => pairTblDataWrite_ignored, fun _ _ _ => tableShadowCopyDone_loads,
    fun _ _ _ _ => swapEntry_held, fun _ _ _ _ => swapEntry_written, fun _ _ _ _ => swapCommit_agrees, fun _ _ _ _ => swapAccept_agrees,
    fun _ _ _ _ => swapDecline_ends, fun _ _ _ _ _ => tableSwapApply_begins_copy, fun _ _ _ _ => swapEvaluation_starts,
    fun _ _ _ => swapEvaluation_of_subLink, fun _ _ _ => swapCommitSend_sends⟩

end Sys2Proof.Claims
end

section
/-! SUPPORT. What the operations on a receiver's registers and coefficient memories answer: fields just written, the windows onto the coefficient
memories, retrains that the receiver asks for and pairs that it declares dead. -/
namespace Sys2Proof.Machine

/-! ### Fields just written -/

theorem State.flag_setFld_one (s : State) (f : Fld) (hl : f.lo ≤ f.hi) (hh : f.hi < 32) : (s.setFld f 1).flag f = true := by
  have hone : 1 % 2 ^ (f.hi + 1 - f.lo) = 1 := Nat.one_mod_two_pow (by omega)
  simp [State.flag, State.fld_setFld_same s f 1 hl hh, hone]

theorem State.flag_setFld_zero (s : State) (f : Fld) (hl : f.lo ≤ f.hi) (hh : f.hi < 32) : (s.setFld f 0).flag f = false := by
  simp [State.flag, State.fld_setFld_same s f 0 hl hh]

theorem State.flag_setFld_apart (s : State) (f g : Fld) (v : Nat) (hl : f.lo ≤ f.hi) (hh : f.hi < 32)
    (h : g.addr ≠ f.addr ∨ g.hi < f.lo ∨ f.hi < g.lo) : (s.setFld f v).flag g = s.flag g := by
  rw [State.flag, State.fld_setFld_apart s f g v hl hh h, State.flag]

/-- A field takes the bits of its own place in a word as they are. -/
theorem State.fld_setFld_bits (s : State) {a hi lo : Nat} (v : Nat) (hl : lo ≤ hi) (hh : hi < 32) :
    (s.setFld ⟨a, hi, lo⟩ (bits v hi lo)).fld ⟨a, hi, lo⟩ = bits v hi lo :=
  (State.fld_setFld_same s _ _ hl hh).trans (Nat.mod_mod _ _)

/-! ### The coefficient windows (R149 to R151) -/

theorem coefStatus_ne_coefAddr (n p : Nat) : PAIR_COEF_STATUS n p ≠ PAIR_COEF_ADDR n p := by simp [PAIR_COEF_STATUS, PAIR_COEF_ADDR]

/-- A write of PAIR_COEF_ADDR leaves its fields as written and no valid snapshot. -/
theorem writeCoefAddr_fields (n : Port) (p : Pair) (v : Word) (s : State) :
    (writeCoefAddr n p v s).fld (PAIR_COEF_ADDR.MEM n p) = bits v.toNat 19 16 ∧
      (writeCoefAddr n p v s).fld (PAIR_COEF_ADDR.INDEX n p) = bits v.toNat 12 0 ∧
      (writeCoefAddr n p v s).fld (PAIR_COEF_ADDR.AUTO_INC n p) = bits v.toNat 24 24 ∧
      (writeCoefAddr n p v s).flag (PAIR_COEF_STATUS.SNAP_VALID n p) = false := by
  unfold writeCoefAddr
  refine ⟨?mem, ?index, ?autoInc, State.flag_setFld_zero _ _ (Nat.le_refl 2) (by decide : 2 < 32)⟩
  all_goals simp [State.fld_setFld_bits, State.fld_setFld_apart, PAIR_COEF_ADDR.MEM, PAIR_COEF_ADDR.INDEX, PAIR_COEF_ADDR.AUTO_INC,
    PAIR_COEF_STATUS.SNAP_VALID, (coefStatus_ne_coefAddr n p).symm]

theorem stepCoefIndex_coef (n p : Nat) (s : State) : (stepCoefIndex n p s).coef = s.coef := by
  unfold stepCoefIndex
  extract_lets i last
  split
  · exact State.setFld_coef _ _ _
  · rfl

theorem stepCoefIndex_flag {n p : Nat} {f : Fld} (s : State) (h : f.addr ≠ PAIR_COEF_ADDR n p) : (stepCoefIndex n p s).flag f = s.flag f := by
  unfold stepCoefIndex
  extract_lets i last
  split
  · exact State.flag_setFld_apart _ _ _ _ (Nat.zero_le 12) (by decide : 12 < 32) (.inl h)
  · rfl

theorem State.coefAt_congr {s t : State} (h : t.coef = s.coef) (g mem i : Nat) : t.coefAt g mem i = s.coefAt g mem i := by
  rw [State.coefAt, State.coefAt, h]

theorem State.coefAt_setCoef_same (s : State) (g mem i : Nat) (v : Word) : (s.setCoef g mem i v).coefAt g mem i = some v := by
  rw [State.coefAt, State.setCoef, SMap.get_put_same]

/-- An entry of a memory of whole words takes the word written. -/
theorem coefAt_writeCoefEntry {n p mem i : Nat} (v : Word) (s : State) (hwords : 2 ≤ mem ∧ mem ≤ 8) (hi : i < memEntries mem) :
    (writeCoefEntry n p mem i v s).coefAt (gpair n p) mem i = some v := by
  rw [writeCoefEntry, if_neg (by omega), if_neg (by omega), if_neg (by omega)]
  exact State.coefAt_setCoef_same _ _ _ _ _

/-! ### Retrains that the receiver asks for, and dead pairs (R147, R148, R191) -/

/-- With no request of the receiver in this stage, and no retrain agreed or pending in showtime, a cause is requested and agreed. -/
theorem requestRetrain_of_unasked {l : LinkId} {cause : Nat} {s : State} (hphase : (s.link l).phase = 7)
    (hnone : retrainAgreed (s.link l) = none) (hmodes : modeRetrains (s.link l) = false) (hasked : (s.link l).asked = false) :
    requestRetrain l cause s = agree l (stagePlus (nextWaymark (s.link l)) 4) (.retrain cause (isFullCause cause))
      (sendPort l 0x51 (some (stagePlus (nextWaymark (s.link l)) 4)) cause (eeiBreak l s)) := by
  simp only [requestRetrain, hphase, hasked, hnone, hmodes, Bool.false_and]
  rfl

theorem captureProfile_links (n p cause : Nat) (s : State) : (captureProfile n p cause s).links = s.links := State.modDiag_links _ _ _

theorem canFallBack_congr {l : LinkId} {s t : State} (h : t.links = s.links) (d : Nat) : canFallBack t l d = canFallBack s l d := by
  rw [canFallBack, State.link_congr h l, canFallBack]

theorem canFallBack_phase {l : LinkId} {d : Nat} {s : State} (h : canFallBack s l d = true) : (s.link l).phase = 7 := by
  simp only [canFallBack, Bool.and_eq_true, beq_iff_eq] at h
  tauto

end Sys2Proof.Machine
end

section
/-! PROOF. Dead pairs, coefficient snapshots, the selection of memories and coefficient writes, one clause of the statement after the other. -/
namespace Sys2Proof.Claims
open Sys2Proof Sys2Proof.Machine

/-- The fault of a carrying pair that the link can do without is agreed and told. -/
theorem pairFault_agrees {l : LinkId} {p code : Nat} {s : State} (hcan : canFallBack s l p = true) (hnone : pendingFault (s.link l) = 0)
    (hcarry : bit ((s.link l).carry ||| (s.link l).carryRx) p = true) :
    (⟨stagePlus (nextWaymark (s.link l)) 4, .fault (2 ^ p) code, false, false⟩ : Change) ∈ ((pairFault l p code s).link l).changes ∧
      (⟨0x50, some (stagePlus (nextWaymark (s.link l)) 4), 2 ^ p + code * 256, true⟩ : WMsg) ∈ ((pairFault l p code s).link l).waiting := by
  rw [pairFault_of_canFallBack hcan hnone hcarry]
  refine ⟨?_, mem_waiting_sendPort _ _ _ _ _⟩
  rw [sendPort_link]
  dsimp only
  refine mem_changes_deadFirst ?_ (fun _ _ => ChangeKind.noConfusion)
  rw [agreeFallback, State.link_congr (capAgree_links _ _ _ _)]
  exact mem_changes_agree _ _ (.fault (2 ^ p) code) _

/-- What is counted, kept and shown of a dead pair leaves the link's record as the fault finds it. -/
theorem deadPairDeclare_falls_back {l : LinkId} {p : Pair} {s : State} (hcan : canFallBack s l p = true)
    (hnone : pendingFault (s.link l) = 0) (hcarry : bit ((s.link l).carry ||| (s.link l).carryRx) p.val = true)
    (halive : s.flag (PAIR_QUALITY.DEAD l.n p) = false) (hrun : deadStages s l.n ≤ (s.pair l.n p).deadRun) :
    ∃ t : State, exec (.deadPairDeclare l p) s = .next t ∧
      (⟨stagePlus (nextWaymark (s.link l)) 4, .fault (2 ^ p.val) 1, false, false⟩ : Change) ∈ (t.link l).changes ∧
      (⟨0x50, some (stagePlus (nextWaymark (s.link l)) 4), 2 ^ p.val + 256, true⟩ : WMsg) ∈ (t.link l).waiting := by
  show ∃ t, execDeadPairDeclare l p s = .next t ∧ _
  have hup : isUp s l = true := by simp [isUp, canFallBack_phase hcan]
  have hdue : (!isUp s l || s.flag (PAIR_QUALITY.DEAD l.n p) || decide ((s.pair l.n p).deadRun < deadStages s l.n)) = false := by
    simp [hup, halive, hrun]
  unfold execDeadPairDeclare
  extract_lets n s1 s2
  rw [if_neg (Bool.eq_false_iff.mp hdue)]
  refine ⟨_, rfl, ?_⟩
  have h2 : s2.links = s.links := by
    simp only [s2, s1, State.setFld_links, histFlag_links, captureProfile_links, State.inc_links]
  rw [State.link_congr (showLink_links l _), ← State.link_congr h2 l]
  rw [← State.link_congr h2 l] at hnone hcarry
  exact pairFault_agrees ((canFallBack_congr h2 p).trans hcan) hnone hcarry

theorem coefSnapshotRequest_begins {n : Port} {p : Pair} {v : Word} {s : State} (hsnap : bit v.toNat 31 = true) :
    ∃ t : State, exec (.coefSnapshotRequest n p v) s = .next t ∧ t.fld (PAIR_COEF_ADDR.MEM n p) = bits v.toNat 19 16 ∧
      t.fld (PAIR_COEF_ADDR.INDEX n p) = bits v.toNat 12 0 ∧ t.flag (PAIR_COEF_STATUS.SNAP_VALID n p) = false ∧
      t.flag (PAIR_COEF_STATUS.SNAP_BUSY n p) = true := by
  obtain ⟨hmem, hindex, -, hvalid⟩ := writeCoefAddr_fields n p v s
  have haddr {f : Fld} (hf : f.addr = PAIR_COEF_ADDR n p) :
      ((writeCoefAddr n p v s).setFld (PAIR_COEF_STATUS.SNAP_BUSY n p) 1).fld f = (writeCoefAddr n p v s).fld f :=
    State.fld_setFld_apart _ _ _ _ (Nat.le_refl 1) (by decide : 1 < 32) (.inl (hf ▸ (coefStatus_ne_coefAddr n p).symm))
  refine ⟨(writeCoefAddr n p v s).setFld (PAIR_COEF_STATUS.SNAP_BUSY n p) 1, congrArg _ (if_pos hsnap), (haddr rfl).trans hmem,
    (haddr rfl).trans hindex, ?_, State.flag_setFld_one _ _ (Nat.le_refl 1) (by decide : 1 < 32)⟩
  rwa [State.flag_setFld_apart _ _ _ _ (Nat.le_refl 1) (by decide : 1 < 32) (.inr (.inr (by decide : 1 < 2)))]

theorem coefSnapshotDone_valid {n : Port} {p : Pair} {s : State} (hbusy : s.flag (PAIR_COEF_STATUS.SNAP_BUSY n p) = true) :
    ∃ t : State, exec (.coefSnapshotDone n p) s = .next t ∧ t.flag (PAIR_COEF_STATUS.SNAP_BUSY n p) = false ∧
      t.flag (PAIR_COEF_STATUS.SNAP_VALID n p) = true := by
  show ∃ t, execCoefSnapshotDone n p s = .next t ∧ _
  simp only [execCoefSnapshotDone, hbusy]
  refine ⟨_, rfl, ?_, State.flag_setFld_one _ _ (Nat.le_refl 2) (by decide : 2 < 32)⟩
  rw [State.flag_setFld_apart _ _ _ _ (Nat.le_refl 2) (by decide : 2 < 32) (.inr (.inl (by decide : 1 < 2)))]
  exact State.flag_setFld_zero _ _ (Nat.le_refl 1) (by decide : 1 < 32)

theorem coefMemSelect_selects (n : Port) (p : Pair) (v : Word) (s : State) :
    ∃ t : State, exec (.coefMemSelect n p v) s = .next t ∧ t.fld (PAIR_COEF_ADDR.MEM n p) = bits v.toNat 19 16 ∧
      t.fld (PAIR_COEF_ADDR.INDEX n p) = bits v.toNat 12 0 ∧ t.fld (PAIR_COEF_ADDR.AUTO_INC n p) = bits v.toNat 24 24 ∧
      t.flag (PAIR_COEF_STATUS.SNAP_VALID n p) = false :=
  ⟨writeCoefAddr n p v s, rfl, writeCoefAddr_fields n p v s⟩

theorem coefDataWrite_stores {n : Port} {p : Pair} {v : Word} {s : State} (hmay : mayWriteCoef s n = true)
    (hlo : 2 ≤ s.fld (PAIR_COEF_ADDR.MEM n p)) (hhi : s.fld (PAIR_COEF_ADDR.MEM n p) ≤ 8)
    (hindex : s.fld (PAIR_COEF_ADDR.INDEX n p) < memEntries (s.fld (PAIR_COEF_ADDR.MEM n p))) :
    ∃ t : State, exec (.coefDataWrite n p v) s = .next t ∧
      t.coefAt (gpair n p) (s.fld (PAIR_COEF_ADDR.MEM n p)) (s.fld (PAIR_COEF_ADDR.INDEX n p)) = some v := by
  refine ⟨writeCoefData n p v s, rfl, ?_⟩
  simp only [writeCoefData, hmay, if_true]
  rw [State.coefAt_congr (stepCoefIndex_coef n p _)]
  exact coefAt_writeCoefEntry v s ⟨hlo, hhi⟩ hindex

theorem coefDataWrite_ignored {n : Port} {p : Pair} {v : Word} {s : State} (hlocked : mayWriteCoef s n = false) :
    ∃ t : State, exec (.coefDataWrite n p v) s = .next t ∧ t.flag (PAIR_COEF_STATUS.WRITE_IGNORED n p) = true ∧ t.coef = s.coef := by
  refine ⟨writeCoefData n p v s, rfl, ?_⟩
  simp only [writeCoefData, hlocked, Bool.false_eq_true, if_false]
  rw [stepCoefIndex_flag _ (coefStatus_ne_coefAddr n p), stepCoefIndex_coef]
  exact ⟨State.flag_setFld_one _ _ (Nat.le_refl 3) (by decide : 3 < 32), State.setFld_coef _ _ _⟩

/-- Settles O22, clause by clause: a write of a window's fields reads back, and what is shown of a dead pair leaves the fault agreed. -/
theorem deadPairsAndCoefficients : Obligations.DeadPairsAndCoefficients :=
  ⟨fun _ _ _ => deadPairDeclare_falls_back, fun _ _ _ _ => coefSnapshotRequest_begins, fun _ _ _ => coefSnapshotDone_valid,
    coefMemSelect_selects, fun _ _ _ _ => coefDataWrite_stores, fun _ _ _ _ => coefDataWrite_ignored⟩

end Sys2Proof.Claims
end

section
/-! SUPPORT. The register fields and records of a pair's receiver after a failed sub-ADC, and of its figures after they are shown. -/
namespace Sys2Proof.Machine

theorem unsigned_lt (w : Nat) (i : Int) : unsigned w i < 2 ^ w := by
  have hpos : (0 : Int) < (2 ^ w : Nat) := by positivity
  exact (Int.toNat_lt (Int.emod_nonneg i hpos.ne')).mpr (Int.emod_lt_of_pos i hpos)

theorem adcSwaps_ne_adcStatus (n p : Nat) : PAIR_ADC_SWAPS n p ≠ PAIR_ADC_STATUS n p := by simp [PAIR_ADC_SWAPS, PAIR_ADC_STATUS]

theorem askRepair_pairs (add remove : List Repair) (s : State) : (askRepair add remove s).pairs = s.pairs :=
  (@keeps_askRepair (· ∈ [.regs, .waiting, .later]) ⟨by decide⟩ ⟨by decide⟩ ⟨by decide⟩ s s add remove (keeps_refl _ s)).same
    .pairs (by decide)

/-- The first failed sub-ADC of a pair is noted (R120). -/
theorem failSubAdc_badSub {n : Port} {p : Pair} (i : Nat) {s : State} (hnone : (s.pair n p).badSub = none) :
    ((failSubAdc n p i s).pair n p).badSub = some i := by
  simp only [failSubAdc, hnone, State.pair_congr (askRepair_pairs _ _ _), State.raise_pair, State.pair_modPair]

/-- Show both drift figures of a pair (R131). -/
def showDrift (n p stored trained : Nat) (s : State) : State :=
  (s.setFld (PAIR_ECHO_DRIFT.STORED n p) stored).setFld (PAIR_ECHO_DRIFT.TRAINED n p) trained

theorem showDrift_fields (n p : Nat) (x y : Int) (s : State) :
    (showDrift n p (unsigned 16 x) (unsigned 16 y) s).fld (PAIR_ECHO_DRIFT.STORED n p) = unsigned 16 x ∧
      (showDrift n p (unsigned 16 x) (unsigned 16 y) s).fld (PAIR_ECHO_DRIFT.TRAINED n p) = unsigned 16 y := by
  unfold showDrift
  constructor
  · rw [State.fld_setFld_apart _ _ _ _ (by decide : 16 ≤ 31) (by decide : 31 < 32) (.inr (.inl (by decide : 15 < 16))),
      State.fld_setFld_same _ _ _ (Nat.zero_le 15) (by decide : 15 < 32)]
    exact Nat.mod_eq_of_lt (unsigned_lt 16 x)
  · rw [State.fld_setFld_same _ _ _ (by decide : 16 ≤ 31) (by decide : 31 < 32)]
    exact Nat.mod_eq_of_lt (unsigned_lt 16 y)

theorem showDrift_fld_other (n p x y : Nat) (s : State) {f : Fld} (h : f.addr ≠ PAIR_ECHO_DRIFT n p) :
    (showDrift n p x y s).fld f = s.fld f :=
  State.fld_eq_of_reg_eq ((State.reg_setFld_other _ _ _ _ h).trans (State.reg_setFld_other _ _ _ _ h))

theorem driftCfg_ne_echoDrift (n p : Nat) : PORT_ECHO_DRIFT_CFG n ≠ PAIR_ECHO_DRIFT n p := by
  simp only [PORT_ECHO_DRIFT_CFG, PAIR_ECHO_DRIFT, pairBase]
  omega

/-- Show the crosstalk suppressions of a port's own pairs (R135). -/
def showCrosstalk (n fext nextOwn : Nat) (s : State) : State :=
  (s.setFld (PORT_XT_STATUS.FEXT n) (min fext 255)).setFld (PORT_XT_STATUS.NEXT_OWN n) (min nextOwn 255)

theorem showCrosstalk_fields (n fext nextOwn : Nat) (s : State) :
    (showCrosstalk n fext nextOwn s).fld (PORT_XT_STATUS.FEXT n) = min fext 255 ∧
      (showCrosstalk n fext nextOwn s).fld (PORT_XT_STATUS.NEXT_OWN n) = min nextOwn 255 := by
  unfold showCrosstalk
  constructor
  · rw [State.fld_setFld_apart _ _ _ _ (Nat.zero_le 7) (by decide : 7 < 32) (.inr (.inr (by decide : 7 < 8))),
      State.fld_setFld_same _ _ _ (by decide : 8 ≤ 15) (by decide : 15 < 32)]
    exact Nat.mod_eq_of_lt (show min fext 255 < 256 by omega)
  · rw [State.fld_setFld_same _ _ _ (Nat.zero_le 7) (by decide : 7 < 32)]
    exact Nat.mod_eq_of_lt (show min nextOwn 255 < 256 by omega)

/-- The partner's figure and BUNDLE_CONVERGED stand above the figures of the own pairs. -/
theorem showPartner_fld (n next conv : Nat) (s : State) {f : Fld} (h : f.hi < 16) :
    ((s.setFld (PORT_XT_STATUS.NEXT_PARTNER n) next).setFld (PORT_XT_STATUS.BUNDLE_CONVERGED n) conv).fld f = s.fld f := by
  rw [State.fld_setFld_apart _ _ _ _ (Nat.le_refl 24) (by decide : 24 < 32) (.inr (.inl (show f.hi < 24 by omega))),
    State.fld_setFld_apart _ _ _ _ (by decide : 16 ≤ 23) (by decide : 23 < 32) (.inr (.inl h))]

end Sys2Proof.Machine
end

section
/-! PROOF. The receiver's limits, its echo drift and its crosstalk figures, one clause of the statement after the other. -/
namespace Sys2Proof.Claims
open Sys2Proof Sys2Proof.Machine

theorem subadcTakeSlot_takes {n : Port} {p : Pair} {slot : Nat} {s : State} (hfree : s.flag (PAIR_ADC_STATUS.COMMITTED n p) = false) :
    ∃ t : State, exec (.subadcTakeSlot n p slot false) s = .next t ∧ (t.fld (PAIR_ADC_STATUS.SPARE_SLOT n p) = slot % 64 ∧
      t.reg (PAIR_ADC_SWAPS n p) = s.reg (PAIR_ADC_SWAPS n p) + 1 ∧
      ∀ a, a ≠ PAIR_ADC_STATUS n p → a ≠ PAIR_ADC_SWAPS n p → t.reg a = s.reg a) := by
  refine ⟨(s.setFld (PAIR_ADC_STATUS.SPARE_SLOT n p) (slot % 64)).inc (PAIR_ADC_SWAPS n p), ?_, ?_, ?_, fun a hstatus hswaps => ?_⟩
  · show execSubadcTakeSlot n p slot false s = _
    simp [execSubadcTakeSlot, hfree]
  · rw [State.fld_inc_other _ _ _ (adcSwaps_ne_adcStatus n p).symm, State.fld_setFld_same _ _ _ (Nat.zero_le 6) (by decide : 6 < 32)]
    exact Nat.mod_eq_of_lt (show slot % 64 < 128 by omega)
  · rw [State.reg_inc_same, State.reg_setFld_other _ _ _ _ (adcSwaps_ne_adcStatus n p)]
  · rw [State.reg_inc_other _ _ _ hswaps, State.reg_setFld_other _ _ _ _ hstatus]

theorem subadcFail_notes {n : Port} {p : Pair} {sub : Nat} {s : State} (hnone : (s.pair n p).badSub = none) :
    ∃ t : State, exec (.subadcFail n p sub) s = .next t ∧ (t.pair n p).badSub = some (sub % 64) :=
  ⟨failSubAdc n p (sub % 64) s, rfl, failSubAdc_badSub _ hnone⟩

/-- A cause that may be asked for, where the receiver asked for none in this stage, is asked for, and showing the link takes nothing of it. -/
theorem retrainAsked_of_unasked {l : LinkId} {cause : Nat} {s : State} (hmay : MayAsk (s.link l)) (hasked : (s.link l).asked = false) :
    RetrainAsked cause l s (showLink l (requestRetrain l cause s)) := by
  obtain ⟨hphase, hnone, hmodes⟩ := hmay
  rw [requestRetrain_of_unasked hphase hnone hmodes hasked]
  refine RetrainAsked.congr ⟨mem_changes_agree l _ (.retrain cause (isFullCause cause)) _, ?_⟩ (showLink_links l _)
  rw [agree_link]
  exact mem_waiting_sendPort l _ _ _ _

theorem gainLimitRetrain_asks {l : LinkId} {p : Nat} {s : State} (hmay : MayAsk (s.link l)) (hasked : (s.link l).asked = false)
    (hpair : p ∈ maskPairs (s.link l).carryRx) (hrun : 16 ≤ (s.pair l.n p).gainRun) :
    ∃ t : State, exec (.gainLimitRetrain l) s = .next t ∧ RetrainAsked 3 l s t := by
  have hhit : (maskPairs (s.link l).carryRx).any (fun p => decide (16 ≤ (s.pair l.n p).gainRun) ||
      decide (s.fld (PORT_RX_LIMITS.CLIP_MAX l.n) < (s.pair l.n p).clips.sum)) = true := List.any_eq_true.mpr ⟨p, hpair, by simp [hrun]⟩
  exact ⟨_, congrArg Host.Outcome.next (if_pos hhit), retrainAsked_of_unasked hmay hasked⟩

theorem timingErrorRetrain_asks {l : LinkId} {p : Nat} {s : State} (hmay : MayAsk (s.link l)) (hasked : (s.link l).asked = false)
    (hpair : p ∈ maskPairs (s.link l).carryRx) (hrun : 2 ≤ (s.pair l.n p).timingRun) :
    ∃ t : State, exec (.timingErrorRetrain l) s = .next t ∧ RetrainAsked 2 l s t := by
  have hhit : (maskPairs (s.link l).carryRx).any (fun p => decide (2 ≤ (s.pair l.n p).timingRun)) = true :=
    List.any_eq_true.mpr ⟨p, hpair, decide_eq_true hrun⟩
  exact ⟨_, congrArg Host.Outcome.next (if_pos hhit), retrainAsked_of_unasked hmay hasked⟩

theorem echoTapSaturation_asks {l : LinkId} {p i r : Nat} {s : State} (hmay : MayAsk (s.link l)) (hasked : (s.link l).asked = false)
    (hpair : p ∈ maskPairs (s.link l).carryRx) (htap : (i, r) ∈ (s.pair l.n p).satTaps) (hrun : 16 ≤ r) :
    ∃ t : State, exec (.echoTapSaturation l) s = .next t ∧ RetrainAsked 1 l s t := by
  have hhit : (maskPairs (s.link l).carryRx).any (fun p => (s.pair l.n p).satTaps.any (fun x => decide (16 ≤ x.2))) = true :=
    List.any_eq_true.mpr ⟨p, hpair, List.any_eq_true.mpr ⟨(i, r), htap, decide_eq_true hrun⟩⟩
  exact ⟨_, congrArg Host.Outcome.next (if_pos hhit), retrainAsked_of_unasked hmay hasked⟩

theorem echoDriftCheck_shows {n : Port} {sub : Option Pair} {p : Pair} {e2 : List Int} {s : State} (hphase : (s.link ⟨n, sub⟩).phase = 7)
    (hwithin : driftOf (driftSums s n p 8 (s.link ⟨n, sub⟩).splitband) ≤ signed 16 (s.fld (PORT_ECHO_DRIFT_CFG.RETRAIN n))) :
    ∃ t : State, exec (.echoDriftCheck n sub p e2) s = .next t ∧
      t.fld (PAIR_ECHO_DRIFT.STORED n p) = unsigned 16 (driftOf (driftSums s n p 7 (s.link ⟨n, sub⟩).splitband)) ∧
      t.fld (PAIR_ECHO_DRIFT.TRAINED n p) = unsigned 16 (driftOf (driftSums s n p 8 (s.link ⟨n, sub⟩).splitband)) ∧
      (t.pair n p).storeDue = ((s.pair n p).storeDue ||
        decide (signed 16 (s.fld (PORT_ECHO_DRIFT_CFG.STORE n)) < driftOf (driftSums s n p 7 (s.link ⟨n, sub⟩).splitband))) := by
  show ∃ t, execEchoDriftCheck n sub p e2 s = .next t ∧ _
  unfold execEchoDriftCheck
  extract_lets l split st tr s1 s2
  rw [if_neg (by simp [l, hphase])]
  have hregs : s2.regs = s1.regs := by
    simp only [s2]
    split
    · exact State.modPair_regs _ _ _ _
    · rfl
  have h1 : s1 = showDrift n p (unsigned 16 st) (unsigned 16 tr) s := rfl
  have hcfg {f : Fld} (hf : f.addr = PORT_ECHO_DRIFT_CFG n) : s1.fld f = s.fld f := by
    rw [h1]
    exact showDrift_fld_other n p _ _ s (hf ▸ driftCfg_ne_echoDrift n p)
  have hpair : s1.pair n p = s.pair n p := by simp only [s1, State.setFld_pair]
  have hretrain : ¬ signed 16 (s2.fld (PORT_ECHO_DRIFT_CFG.RETRAIN n)) < tr := by
    rw [State.fld_congr _ _ hregs, hcfg rfl]
    exact not_lt.mpr hwithin
  obtain ⟨hstored, htrained⟩ := showDrift_fields n p st tr s
  rw [← h1] at hstored htrained
  refine ⟨s2, congrArg _ (if_neg hretrain), (State.fld_congr _ _ hregs _).trans hstored, (State.fld_congr _ _ hregs _).trans htrained, ?_⟩
  simp only [s2, hcfg (f := PORT_ECHO_DRIFT_CFG.STORE n) rfl]
  split
  · next hdue => rw [State.pair_modPair, decide_eq_true hdue, Bool.or_true]
  · next hsmall => rw [hpair, decide_eq_false hsmall, Bool.or_false]

theorem echoStoreRefresh_stores {n : Port} {p : Pair} {s : State} (hdue : (s.pair n p).storeDue = true) :
    ∃ t : State, exec (.echoStoreRefresh n p) s = .next t ∧ (t.pair n p).storeDue = false ∧
      (t.pair n p).storedIds = some ((s.link (linkOfPair s n p)).ownId, (s.link (linkOfPair s n p)).peerId) := by
  show ∃ t, execEchoStoreRefresh n p s = .next t ∧ _
  simp only [execEchoStoreRefresh, hdue]
  refine ⟨_, rfl, ?_⟩
  rw [State.inc_pair, State.pair_modPair]
  exact ⟨rfl, rfl⟩

theorem fextHReestimate_shows {l : LinkId} {fext nextOwn nextPartner : Nat} {s : State} (hphase : (s.link l).phase = 7) :
    ∃ t : State, exec (.fextHReestimate l fext nextOwn nextPartner) s = .next t ∧ t.fld (PORT_XT_STATUS.FEXT l.n) = min fext 255 ∧
      t.fld (PORT_XT_STATUS.NEXT_OWN l.n) = min nextOwn 255 := by
  show ∃ t, execFextHReestimate l fext nextOwn nextPartner s = .next t ∧ _
  unfold execFextHReestimate
  extract_lets n s1 s2 s3
  rw [if_neg (by simp [hphase])]
  have h2 : s2 = showCrosstalk n fext nextOwn s1 := rfl
  have hown {f : Fld} (hf : f.hi < 16) : s3.fld f = s2.fld f := by
    simp only [s3]
    split
    · exact showPartner_fld n _ _ s2 hf
    · rfl
  obtain ⟨hfext, hnext⟩ := showCrosstalk_fields n fext nextOwn s1
  rw [← h2] at hfext hnext
  exact ⟨s3, rfl, (hown (by decide : 15 < 16)).trans hfext, (hown (by decide : 7 < 16)).trans hnext⟩

/-- Settles O21, clause by clause: a limit reached on one carrying pair asks for the link's retrain, and what is written of a pair reads back. -/
theorem receiverLimitsAndDrift : Obligations.ReceiverLimitsAndDrift :=
  ⟨fun _ _ _ _ => subadcTakeSlot_takes, fun _ _ _ _ => subadcFail_notes, fun _ _ _ => gainLimitRetrain_asks,
    fun _ _ _ => timingErrorRetrain_asks, fun _ _ _ _ _ => echoTapSaturation_asks, fun _ _ _ _ _ => echoDriftCheck_shows,
    fun _ _ _ => echoStoreRefresh_stores, fun _ _ _ _ _ => fextHReestimate_shows⟩

end Sys2Proof.Claims
end

section
/-! SUPPORT. What the operations of start-up make of a link's record: a burst accepted, a slot of training, the start of G3, a failure. -/
namespace Sys2Proof.Machine

/-! ### Bursts (R158, R169) -/

theorem countPairs_links (n : Port) (ps : List Pair) (a : Nat → Nat → Nat) (s : State) : (countPairs n ps a s).links = s.links :=
  (@keeps_countPairs (· ∈ [.regs]) ⟨by decide⟩ s s n ps a (keeps_refl _ s)).same .links (by decide)

/-- A guard that refuses a burst takes nothing from what the burst leaves once it is accepted. -/
theorem links_of_accepted_ite {c : Prop} [Decidable c] {x y : Bool × State} {s : State} (hrefused : y.1 = false)
    (h : x.1 = true → x.2.links = s.links) : (if c then y else x).1 = true → (if c then y else x).2.links = s.links := by
  split
  · exact fun hok => absurd (hrefused.symm.trans hok) Bool.false_ne_true
  · exact h

/-- A burst that is accepted leaves the links' records. -/
theorem acceptBurst_links {l : LinkId} {b : Burst} {caps : Bool} {s : State} :
    (acceptBurst l b caps s).1 = true → (acceptBurst l b caps s).2.links = s.links := by
  unfold acceptBurst
  extract_lets n k heard collided unequal levels
  have hheard : heard.links = s.links := by
    simp only [heard]
    split
    · exact countPairs_links _ _ _ _
    · rfl
  have hlevels : levels.links = heard.links := by
    refine forEach_eq_of_step_eq State.links _ (fun p s => ?_) _ _
    dsimp only
    split
    · rw [State.modPair_links, State.setFld_links]
    · rw [State.setFld_links]
  have hcollision {c : Prop} [Decidable c] {x y : State} : (if c then (false, x) else (false, y)).1 = false := by split <;> rfl
  iterate 2 refine links_of_accepted_ite rfl ?_
  refine links_of_accepted_ite hcollision ?_
  iterate 4 refine links_of_accepted_ite rfl ?_
  exact fun _ => hlevels.trans hheard

/-! ### Training slots (R124 to R129) -/

/-- Where a link stands in start-up: its phase, and the next step of its training slots. -/
def g2Place (l : LinkId) (s : State) : Nat × Nat := ((s.link l).phase, (s.link l).g2Step)

theorem g2Place_congr {s t : State} (l : LinkId) (h : t.links = s.links) : g2Place l t = g2Place l s := by
  rw [g2Place, State.link_congr h, g2Place]

theorem g2Place_modLink {g : LinkSt → LinkSt} (l : LinkId) (s : State) (hg : ∀ k, (g k).phase = k.phase ∧ (g k).g2Step = k.g2Step) :
    g2Place l (s.modLink l g) = g2Place l s := by
  obtain ⟨hphase, hstep⟩ := hg (s.link l)
  rw [g2Place, State.link_modLink, hphase, hstep, g2Place]

theorem trainMem_links (g mem : Nat) (s : State) : (trainMem g mem s).links = s.links :=
  (@keeps_trainMem (· ∈ [.free, .coef, .seeds]) ⟨by decide⟩ ⟨by decide⟩ ⟨by decide⟩ s s g mem (keeps_refl _ s)).same .links (by decide)

theorem trainPart_links (g mem j : Nat) (s : State) : (trainPart g mem j s).links = s.links :=
  (@keeps_trainPart (· ∈ [.free, .coef, .seeds]) ⟨by decide⟩ ⟨by decide⟩ ⟨by decide⟩ s s g mem j (keeps_refl _ s)).same .links (by decide)

theorem gatherSet_links (n p set : Nat) (s : State) : (gatherSet n p set s).links = s.links :=
  (@keeps_gatherSet (· ∈ [.coef, .seeds]) ⟨by decide⟩ ⟨by decide⟩ s s n p set (keeps_refl _ s)).same .links (by decide)

theorem setErles_links (n p : Nat) (f : Nat × Nat → State → Nat) (xs : List (Nat × Nat)) (s : State) :
    (forEach xs (fun x s => s.setErle n p x.1 (f x s)) s).links = s.links := by
  refine forEach_eq_of_step_eq State.links _ (fun x s => ?_) xs s
  rfl

theorem setSnrs_links (n p : Nat) (xs : List (Nat × Nat)) (s : State) :
    (forEach xs (fun x s => s.setSnr n p x.1 x.2) s).links = s.links := by
  refine forEach_eq_of_step_eq State.links _ (fun x s => ?_) xs s
  rfl

theorem restartGain_links (n p : Nat) (s : State) : (restartGain n p s).links = s.links := by simp [restartGain]

theorem rescale_links (n p d : Nat) (s : State) : (rescale n p d s).links = s.links :=
  (@keeps_rescale (· ∈ [.coef]) ⟨by decide⟩ s s n p d (keeps_refl _ s)).same .links (by decide)

theorem measureNoise_links (n : Nat) (m : G2Meas) (s : State) : (measureNoise n m s).links = s.links :=
  (@keeps_measureNoise (· ∈ [.noise]) ⟨by decide⟩ s s n m (keeps_refl _ s)).same .links (by decide)

theorem sendTraining_links (l : LinkId) (first count p : Nat) (s : State) : (sendTraining l first count p s).links = s.links :=
  (@keeps_sendTraining (· ∈ [.regs, .out]) ⟨by decide⟩ ⟨by decide⟩ s s l first count p (keeps_refl _ s)).same .links (by decide)

/-- What an end trains while it transmits is not where the link stands. -/
theorem g2Place_g2Send (l : LinkId) (step : Nat) (m : G2Meas) (s : State) : g2Place l (g2Send l step m s) = g2Place l s := by
  unfold g2Send
  extract_lets n p g k gain scaled trimmed deep residual echo _ gathered settled noted shown
  split
  case h_1 =>
    refine g2Place_congr l ?_
    rw [restartGain_links, State.setFld_links, State.setFld_links]
    simp only [scaled]
    split
    · rfl
    · exact rescale_links _ _ _ _
  case h_2 => exact g2Place_congr l (by rw [State.setFld_links, State.modPair_links])
  case h_3 => exact g2Place_congr l (by rw [trainMem_links, State.setFld_links])
  case h_4 =>
    refine g2Place_congr l ((forEach_eq_of_step_eq State.links _ (trainPart_links g 3) _ _).trans ?_)
    rw [trainMem_links, State.setFld_links]
  case h_5 =>
    refine g2Place_congr l ?_
    rw [State.setFld_links, State.setFld_links]
    exact setErles_links _ _ _ _ _
  case h_6 =>
    have hshown : shown.links = s.links := by
      simp only [shown, noted, gathered, State.setFld_links, State.modPair_links, gatherSet_links]
    split
    · refine (g2Place_congr l (State.setFld_links _ _ _)).trans ((g2Place_modLink l shown ?_).trans (g2Place_congr l hshown))
      exact fun _ => ⟨rfl, rfl⟩
    · exact g2Place_congr l hshown
  case h_7 => rfl

/-- What an end measures while it listens is not where the link stands. -/
theorem g2Place_g2Listen (l : LinkId) (step : Nat) (m : G2Meas) (s : State) : g2Place l (g2Listen l step m s) = g2Place l s := by
  unfold g2Listen
  extract_lets n p g s1 s2
  split
  case h_1 =>
    have h2 : s2.links = s.links := by simp only [s2, s1, State.setFld_links, State.modPair_links]
    split
    · exact g2Place_congr l h2
    · refine (g2Place_modLink l s2 ?_).trans (g2Place_congr l h2)
      exact fun _ => ⟨rfl, rfl⟩
  case h_2 => exact g2Place_congr l (by rw [trainMem_links, State.setFld_links])
  case h_3 => exact g2Place_congr l (by rw [setWeights_links, trainPart_links])
  case h_4 => exact g2Place_congr l (setSnrs_links n p _ s)
  case h_5 => rfl

/-! ### The start of G3 (R110, R178, R179) -/

theorem clearBands_links (l : LinkId) (s : State) : (clearBands l s).links = s.links :=
  (@keeps_clearBands (· ∈ [.snr]) ⟨by decide⟩ s s l (keeps_refl _ s)).same .links (by decide)

/-- The band plan of G3 is noted: SPLITBAND as the verdicts ask for it, or as it is resolved (R178). -/
def chooseBand (l : LinkId) (sb : Bool) (s : State) : State :=
  (if sb then (s.inc (PORT_SB_AUTO l.n)).setFld (PORT_RX_STATUS.SB_CHOSEN l.n) 1 else s).modLink l (fun k =>
    { k with splitband := sb || bit k.resolved mSPLITBAND, sbAuto := sb })

theorem chooseBand_splitband (l : LinkId) (sb : Bool) (s : State) :
    ((chooseBand l sb s).link l).splitband = (sb || bit (s.link l).resolved mSPLITBAND) := by
  rw [chooseBand, State.link_modLink]
  cases sb
  · rfl
  · simp

theorem enterG3_link (l : LinkId) (s : State) : ((enterG3 l s).link l).phase = 4 ∧ ((enterG3 l s).link l).own = 0 ∧
    ((enterG3 l s).link l).synced = false ∧ ((enterG3 l s).link l).splitband = (s.link l).splitband := by
  unfold enterG3
  extract_lets s1
  have hpairs (g : PairSt → PairSt) (s : State) : (forEach (linkPairs l) (fun p s => s.modPair l.n.val p g) s).links = s.links :=
    forEach_eq_of_step_eq State.links _ (fun _ _ => State.modPair_links _ _ _ _) _ s
  rw [State.link_congr (hpairs _ _), State.link_congr (clearBands_links l s1), State.link_modLink]
  exact ⟨rfl, rfl, rfl, rfl⟩

/-! ### A start-up that fails (R192, R193) -/

/-- What stops on a port and in a queue with the link is not in the links' records. -/
theorem stopStream_links (l : LinkId) (s : State) :
    (clearStream l (clearCodewords l (breakRx l (dropSubPattern l (settleLocal l s))))).links = s.links := calc
  _ = (clearCodewords l (breakRx l (dropSubPattern l (settleLocal l s)))).links := State.modQueue_links _ _ _
  _ = (breakRx l (dropSubPattern l (settleLocal l s))).links :=
    (@keeps_clearCodewords (· ∈ [.regs, .queues, .banks]) ⟨by decide⟩ ⟨by decide⟩ ⟨by decide⟩ _ _ l (keeps_refl _ _)).same .links (by decide)
  _ = (dropSubPattern l (settleLocal l s)).links :=
    (@keeps_breakRx (· ∈ [.queues]) ⟨by decide⟩ _ _ l (keeps_refl _ _)).same .links (by decide)
  _ = (settleLocal l s).links :=
    (@keeps_dropSubPattern (· ∈ [.regs, .ports]) ⟨by decide⟩ ⟨by decide⟩ _ _ l (keeps_refl _ _)).same .links (by decide)
  _ = s.links := (@keeps_settleLocal (· ∈ [.regs, .ports]) ⟨by decide⟩ ⟨by decide⟩ _ _ l (keeps_refl _ _)).same .links (by decide)

theorem clearLink_remoteCause (l : LinkId) (s : State) : ((clearLink l s).link l).remoteCause = (s.link l).remoteCause := by
  unfold clearLink
  extract_lets e e0 s1 s2 s3
  have h2 : s2.links = s1.links := forEach_eq_of_step_eq State.links _ (fun p s => by simp [endSwap]) _ _
  have h3 : s3.links = s2.links := by
    simp only [s3]
    split <;> simp
  rw [State.link_congr (((stopStream_links l s3).trans h3).trans h2), State.link_modLink]

theorem enterHoldOff_causes (l : LinkId) (s : State) : ((enterHoldOff l s).link l).lastCause = (s.link l).lastCause ∧
    ((enterHoldOff l s).link l).remoteCause = (s.link l).remoteCause := by
  simp [enterHoldOff, drawSlots]

/-- A start-up that fails holds off and notes its cause; the cause that the peer gave stands. -/
theorem startupFail_link {l : LinkId} {cause : Nat} {s : State} (hphase : 1 ≤ (s.link l).phase ∧ (s.link l).phase ≤ 6) :
    ((startupFail l cause s).link l).lastCause = cause ∧ ((startupFail l cause s).link l).phase = 10 ∧
      ((startupFail l cause s).link l).remoteCause = (s.link l).remoteCause := by
  unfold startupFail
  extract_lets k s1 s2 s3 c lim hit s4 s5
  rw [if_neg (by simp [k, hphase]), State.link_congr (showLink_links l _)]
  have h4 : s4.link l = (clearLink l s).link l := by
    simp only [s4, s3, s2, s1]
    split
    · rw [State.raise_link, State.raise_link, State.inc_link]
    · rw [State.raise_link, State.inc_link]
  obtain ⟨hlast, hremote⟩ := enterHoldOff_causes l s5
  rw [enterHoldOff_phase, hlast, hremote]
  simp only [s5, State.link_modLink, h4, clearLink_remoteCause, and_self]

end Sys2Proof.Machine
end

section
/-! PROOF. G2 and the start of G3, one clause of the statement after the other. -/
namespace Sys2Proof.Claims
open Sys2Proof Sys2Proof.Machine

theorem sendVerdict_out (l : LinkId) (v : Nat) (s : State) : (sendBurst l tVERDICT [v] s).out = s.out ++
    [burstOut l 6 (burstHeader 6 1 (s.link l).level (s.link l).peerAttempt (s.link l).ownId (s.link l).peerId 0) [v] (s.link l).level] := rfl

theorem g2SlotStep_next {l : LinkId} {meas : List G2Meas} {s : State} (hphase : (s.link l).phase = 3) (hslot : (s.link l).g2Step < 14) :
    ∃ t : State, exec (.g2SlotStep l meas) s = .next t ∧ (t.link l).g2Step = (s.link l).g2Step + 1 ∧ (t.link l).phase = 3 := by
  show ∃ t, execG2SlotStep l meas s = .next t ∧ _
  unfold execG2SlotStep
  extract_lets k sends step ms x s1 s2 s3
  rw [if_neg (by simp [k, hphase, hslot])]
  have h1 : s1.links = s.links := by
    simp only [s1]
    split
    · exact forEach_eq_of_step_eq State.links _ (measureNoise_links l.n) _ _
    · rfl
  have h2 : g2Place l s2 = g2Place l s1 := by
    refine forEach_eq_of_step_eq (g2Place l) _ (fun m s => ?_) _ _
    split
    · exact g2Place_g2Send l step m s
    · exact g2Place_g2Listen l step m s
  have h3 : s3.links = s2.links := by
    simp only [s3]
    split
    · exact forEach_eq_of_step_eq State.links _ (sendTraining_links l x.1 x.2) _ _
    · rfl
  have hplace : g2Place l s3 = g2Place l s := ((g2Place_congr l h3).trans h2).trans (g2Place_congr l h1)
  obtain ⟨hphase3, hstep3⟩ := Prod.mk.inj hplace
  refine ⟨_, rfl, ?_⟩
  rw [State.link_congr (showLink_links l _), State.link_modLink]
  exact ⟨congrArg (· + 1) hstep3, hphase3.trans hphase⟩

theorem verdictSend_sends {l : LinkId} {s : State} (hphase : (s.link l).phase = 3) (hslots : 14 ≤ (s.link l).g2Step) :
    ∃ t : State, exec (.verdictSend l) s = .next t ∧ (t.link l).ownVerdict = verdictWord s l ∧ t.out = s.out ++
      [burstOut l 6 (burstHeader 6 1 (s.link l).level (s.link l).peerAttempt (s.link l).ownId (s.link l).peerId 0) [verdictWord s l]
        (s.link l).level] := by
  show ∃ t, execVerdictSend l s = .next t ∧ _
  unfold execVerdictSend
  extract_lets k v
  rw [if_neg (by simp [k, hphase, hslots])]
  refine ⟨_, rfl, ?_, ?_⟩
  · rw [sendBurst, State.emit_link, State.link_modLink]
  · rw [sendVerdict_out, State.modLink_out, State.link_modLink]

theorem verdict_kept {l : LinkId} {b : Burst} {s : State} (hok : (acceptBurst l b false s).1 = true) (hphase : (s.link l).phase = 3) :
    ∃ t : State, exec (.verdict l b) s = .next t ∧ (t.link l).peerVerdict = some (b.pages.getD 0 0) := by
  have hlink : (acceptBurst l b false s).2.link l = s.link l := State.link_congr (acceptBurst_links hok) l
  refine ⟨showLink l ((acceptBurst l b false s).2.modLink l (fun k => { k with peerVerdict := some (b.pages.getD 0 0) })), ?_, ?_⟩
  · show execVerdict l b s = _
    simp [execVerdict, hok, hlink, hphase]
  · rw [State.link_congr (showLink_links l _), State.link_modLink]

section
variable {l : LinkId} {v : Nat} {s : State}

theorem g3Start_enters (hphase : (s.link l).phase = 3) (hslots : 14 ≤ (s.link l).g2Step) (hpeer : (s.link l).peerVerdict = some v)
    (hown : bit (verdictWord s l) 58 = false) (hpass : bit v 58 = false) :
    ∃ t : State, exec (.g3Start l) s = .next t ∧ (t.link l).phase = 4 ∧ (t.link l).own = 0 ∧ (t.link l).synced = false ∧
      (t.link l).splitband = ((bit (verdictWord s l) 59 || bit v 59) || bit (s.link l).resolved mSPLITBAND) := by
  refine ⟨showLink l (enterG3 l (chooseBand l (bit (verdictWord s l) 59 || bit v 59) s)), ?_, ?_⟩
  · show execG3Start l s = _
    simp only [execG3Start, hphase, hpeer, hown, hpass, Nat.not_lt.mpr hslots]
    rfl
  · obtain ⟨hentered, hown, hsynced, hband⟩ := enterG3_link l (chooseBand l (bit (verdictWord s l) 59 || bit v 59) s)
    rw [State.link_congr (showLink_links l _)]
    exact ⟨hentered, hown, hsynced, hband.trans (chooseBand_splitband l _ s)⟩

theorem g3Start_fails_with_peer (hphase : (s.link l).phase = 3) (hslots : 14 ≤ (s.link l).g2Step) (hpeer : (s.link l).peerVerdict = some v)
    (hown : bit (verdictWord s l) 58 = false) (hfail : bit v 58 = true) :
    ∃ t : State, exec (.g3Start l) s = .next t ∧ (t.link l).lastCause = 0xC ∧ (t.link l).phase = 10 ∧
      (t.link l).remoteCause = bits v 55 48 := by
  refine ⟨startupFail l 0xC (s.modLink l (fun k => { k with remoteCause := bits v 55 48 })), ?_, ?_⟩
  · show execG3Start l s = _
    simp [execG3Start, hphase, hslots, hpeer, hown, hfail]
  · obtain ⟨hlast, hheld, hremote⟩ := startupFail_link (l := l) (cause := 0xC)
      (s := s.modLink l (fun k => { k with remoteCause := bits v 55 48 })) (by rw [State.link_modLink, hphase]; decide)
    exact ⟨hlast, hheld, hremote.trans (congrArg LinkSt.remoteCause (State.link_modLink s l _))⟩

end

theorem g3SyncTimeout_fails {l : LinkId} {s : State} (hphase : (s.link l).phase = 4) (hsync : (s.link l).synced = false)
    (hlate : 128 ≤ (s.link l).own) :
    ∃ t : State, exec (.g3SyncTimeout l) s = .next t ∧ (t.link l).lastCause = 6 ∧ (t.link l).phase = 10 := by
  obtain ⟨hlast, hheld, -⟩ := startupFail_link (l := l) (cause := 6) (s := s) (by omega)
  refine ⟨startupFail l 6 s, ?_, hlast, hheld⟩
  show execG3SyncTimeout l s = _
  simp [execG3SyncTimeout, hphase, hsync, hlate]

/-- Settles O16, clause by clause: what a slot trains and what a burst or a failure shows leaves the link where the clause has it. -/
theorem trainingAndVerdict : Obligations.TrainingAndVerdict :=
  ⟨fun _ _ _ => g2SlotStep_next, fun _ _ => verdictSend_sends, fun _ _ _ => verdict_kept, fun _ _ _ => g3Start_enters,
    fun _ _ _ => g3Start_fails_with_peer, fun _ _ => g3SyncTimeout_fails⟩

end Sys2Proof.Claims
end

section
/-! SUPPORT. A burst received on a pair: what its detection and its end leave of the pair and of the registers; a burst that is sent,
and the wait that is drawn. -/
namespace Sys2Proof.Machine

theorem linkOfPair_n (s : State) (n : Port) (p : Pair) : (linkOfPair s n p).n = n := by
  unfold linkOfPair
  split <;> rfl

theorem greetDet_ne_agc (n p : Nat) : PAIR_GREET_DET n p ≠ PAIR_AGC n p := by simp [PAIR_GREET_DET, PAIR_AGC]

theorem greetCapture_ne (n p : Nat) : PAIR_GREET_CAPTURE n p ≠ PAIR_GREET_DET n p ∧ PAIR_GREET_CAPTURE n p ≠ PAIR_AGC n p := by
  simp [PAIR_GREET_CAPTURE, PAIR_GREET_DET, PAIR_AGC]

theorem greetHdrBad_ne_agc (n p : Nat) : PAIR_GREET_HDR_BAD n p ≠ PAIR_AGC n p := by simp [PAIR_GREET_HDR_BAD, PAIR_AGC]

section
variable (l : LinkId) (p level gain : Nat) (s : State)

theorem beginDetect_pair : (beginDetect l p level gain s).pair l.n p =
    { s.pair l.n p with detect := some level, hdrDone := false, detLive := true } := by
  unfold beginDetect
  extract_lets s1
  have h1 : s1.pair l.n p = { s.pair l.n p with detect := some level, hdrDone := false, detLive := true } := by
    rw [State.inc_pair, State.pair_modPair]
  split
  · rw [State.setFld_pair, State.setFld_pair, h1]
  · exact h1

/-- A detection writes the AGC's register and its own counter. -/
theorem beginDetect_reg {a : Nat} (h : a ≠ PAIR_AGC l.n p) :
    (beginDetect l p level gain s).reg a = (s.inc (PAIR_GREET_DET l.n p)).reg a := by
  unfold beginDetect
  extract_lets s1
  split
  · rw [State.reg_setFld_other _ _ _ _ h, State.reg_setFld_other _ _ _ _ h]
    rfl
  · rfl

theorem beginDetect_counts : (beginDetect l p level gain s).reg (PAIR_GREET_DET l.n p) = s.reg (PAIR_GREET_DET l.n p) + 1 := by
  rw [beginDetect_reg l p level gain s (greetDet_ne_agc _ _), State.reg_inc_same]

theorem detected_of_none (h : (s.pair l.n p).detect = none) : detected l p level gain s = beginDetect l p level gain s := by
  simp only [detected, h]

theorem endBurst_pair : (endBurst l p s).pair l.n p = { s.pair l.n p with detect := none, hdrDone := false, detLive := false } := by
  unfold endBurst
  extract_lets s1
  split
  · rw [State.setFld_pair, State.pair_modPair]
  · exact State.pair_modPair _ _ _ _

theorem endBurst_reg {a : Nat} (h : a ≠ PAIR_AGC l.n p) : (endBurst l p s).reg a = s.reg a := by
  unfold endBurst
  extract_lets s1
  split
  · exact State.reg_setFld_other s1 _ _ _ h
  · rfl

end

/-- The end of a detection that lasts is noted beside the burst that is received. -/
theorem endDetect_pair (n p : Nat) (fell : Bool) (s : State) : ∃ live,
    (endDetect n p fell s).pair n p = { s.pair n p with detLive := live } := by
  unfold endDetect
  split
  · exact ⟨_, State.pair_modPair _ _ _ _⟩
  · exact ⟨_, rfl⟩

theorem endDetect_reg (n p a : Nat) (fell : Bool) (s : State) : (endDetect n p fell s).reg a = s.reg a := by
  unfold endDetect
  split <;> rfl

/-! ### Bursts sent (R164, R174) -/

theorem page0_modLink {g : LinkSt → LinkSt} (l : LinkId) (s : State) (hg : ∀ k, (g k).tier = k.tier) :
    page0 (s.modLink l g) l = page0 s l := by
  have htier : ((s.modLink l g).link l).tier = (s.link l).tier := by rw [State.link_modLink, hg]
  unfold page0
  rw [htier]
  rfl

theorem sendCaps_link (l : LinkId) (ty : Nat) (s : State) :
    (sendCaps l ty s).link l = { s.link l with sentHalf := laneHalf s l.n } := by
  rw [sendCaps, sendBurst, State.emit_link, State.link_modLink]

theorem showLink_out (l : LinkId) (s : State) : (showLink l s).out = s.out :=
  (@keeps_showLink (· ∈ [.regs, .raised]) ⟨by decide⟩ ⟨by decide⟩ s s l (keeps_refl _ s)).same .out (by decide)

theorem drawSlots_links (l : LinkId) (s : State) : ∃ w < 64, (drawSlots l s).links = (s.modLink l (fun k => { k with wait := w })).links :=
  ⟨_, Nat.mod_lt _ (by decide), rfl⟩

theorem drawSlots_link (l : LinkId) (s : State) : ∃ w < 64, (drawSlots l s).link l = { s.link l with wait := w } := by
  obtain ⟨w, hw, h⟩ := drawSlots_links l s
  exact ⟨w, hw, (State.link_congr h l).trans (State.link_modLink s l _)⟩

end Sys2Proof.Machine
end

section
/-! PROOF. The greeting receiver and the back-off of G0, one clause of the statement after the other. -/
namespace Sys2Proof.Claims
open Sys2Proof Sys2Proof.Machine

section
variable {n : Port} {p : Pair} {before rx : List Int} {gain : Nat} {s : State}

theorem preambleDetect_detects {e : Nat} (hlistens : listens (s.link (linkOfPair s n p)) = true)
    (hhit : (scanPreamble (detThresh (s.link (linkOfPair s n p))) (fun _ => true) (s.pair n p).detRun (s.pair n p).detFirst before rx).hit = some e)
    (hnone : (s.pair n p).detect = none) :
    ∃ t : State, exec (.preambleDetect n p before rx gain) s = .next t ∧ (t.pair n p).detect = some e ∧ (t.pair n p).hdrDone = false ∧
      t.reg (PAIR_GREET_DET n p) = s.reg (PAIR_GREET_DET n p) + 1 := by
  show ∃ t, execPreambleDetect n p before rx gain s = .next t ∧ _
  unfold execPreambleDetect
  extract_lets l k q x s1
  rw [if_neg (by simp [k, l, hlistens]), show x.hit = some e from hhit]
  have hn : l.n = n := linkOfPair_n s n p
  obtain ⟨live, h1⟩ := endDetect_pair n p x.before (s.modPair n p (fun q => { q with detRun := x.run, detFirst := x.first }))
  rw [State.pair_modPair] at h1
  have hbegin : detected l p e gain s1 = beginDetect l p e gain s1 := detected_of_none l p e gain s1 (by rw [hn, h1]; exact hnone)
  have hpair := beginDetect_pair l p e gain s1
  have hcount := beginDetect_counts l p e gain s1
  obtain ⟨live', ht⟩ := endDetect_pair n p x.after (detected l p e gain s1)
  rw [hn] at hpair hcount
  refine ⟨_, rfl, ?_, ?_, ?_⟩
  · rw [ht, hbegin, hpair]
  · rw [ht, hbegin, hpair]
  · rw [endDetect_reg, hbegin, hcount, endDetect_reg]
    rfl

theorem captureOverride_takes {frozenInTime : Bool} {d e : Nat} (hlistens : listens (s.link (linkOfPair s n p)) = true)
    (hdetect : (s.pair n p).detect = some d) (hheader : (s.pair n p).hdrDone = false)
    (hhit : (scanPreamble (detThresh (s.link (linkOfPair s n p))) (captures (s.link (linkOfPair s n p)) d) 0 0 before rx).hit = some e) :
    ∃ t : State, exec (.captureOverride n p before rx gain frozenInTime) s = .next t ∧
      ((t.pair n p).detect = (if frozenInTime then some e else none) ∧ t.reg (PAIR_GREET_CAPTURE n p) = s.reg (PAIR_GREET_CAPTURE n p) + 1) := by
  have hn : (linkOfPair s n p).n = n := linkOfPair_n s n p
  obtain ⟨hdet, hagc⟩ := greetCapture_ne n p
  let u := beginDetect (linkOfPair s n p) p e gain (s.inc (PAIR_GREET_CAPTURE n p))
  have hpair : (u.pair n p).detect = some e := by
    have h := beginDetect_pair (linkOfPair s n p) p e gain (s.inc (PAIR_GREET_CAPTURE n p))
    rw [hn] at h
    rw [h]
  have hcount : u.reg (PAIR_GREET_CAPTURE n p) = s.reg (PAIR_GREET_CAPTURE n p) + 1 := by
    rw [beginDetect_reg _ _ _ _ _ (by rw [hn]; exact hagc), hn, State.reg_inc_other _ _ _ hdet]
    exact State.reg_inc_same s _
  refine ⟨if frozenInTime then u else endBurst (linkOfPair s n p) p u, ?_, ?_⟩
  · show execCaptureOverride n p before rx gain frozenInTime s = _
    unfold execCaptureOverride
    extract_lets l k q
    rw [show q.detect = some d from hdetect]
    dsimp only
    rw [if_neg (by simp [k, q, l, hlistens, hheader]), hhit]
  · cases frozenInTime
    · have h := endBurst_pair (linkOfPair s n p) p u
      rw [hn] at h
      refine ⟨congrArg PairSt.detect h, ?_⟩
      exact (endBurst_reg _ _ _ (by rw [hn]; exact hagc)).trans hcount
    · exact ⟨hpair, hcount⟩

end

section
variable {n : Port} {p : Pair} {rx : List (Int × Int)} {body : Option (List (Int × Int))} {s : State}

theorem endBurst_linkOfPair_detect (u : State) : ((endBurst (linkOfPair s n p) p u).pair n p).detect = none := by
  have h := endBurst_pair (linkOfPair s n p) p u
  rw [linkOfPair_n] at h
  rw [h]

theorem burstHeaderDecode_takes (hdetect : (s.pair n p).detect ≠ none)
    (hcrc : crc16 (bitsMsb 106 (decodedHeader rx / 65536)) = decodedHeader rx % 65536) (hlo : 1 ≤ bits (decodedHeader rx) 121 118)
    (hhi : bits (decodedHeader rx) 121 118 ≤ 6) :
    ∃ t : State, exec (.burstHeaderDecode n p rx body) s = .next t ∧
      ((body = none → (t.pair n p).hdrDone = true ∧ (t.pair n p).detect = (s.pair n p).detect) ∧ (body ≠ none → (t.pair n p).detect = none)) := by
  show ∃ t, execBurstHeaderDecode n p rx body s = .next t ∧ _
  unfold execBurstHeaderDecode
  extract_lets l hdr ty
  rw [if_neg (by simp [hdetect]), if_neg (by simp [hdr, ty, hcrc, hlo, hhi])]
  cases body with
  | none => exact ⟨_, rfl, fun _ => by simp, fun h => absurd rfl h⟩
  | some ys =>
    dsimp only
    split
    · exact ⟨_, rfl, nofun, fun _ => endBurst_linkOfPair_detect _⟩
    · exact ⟨_, rfl, nofun, fun _ => endBurst_linkOfPair_detect _⟩

theorem burstHeaderDecode_counts_bad (hdetect : (s.pair n p).detect ≠ none)
    (hcrc : crc16 (bitsMsb 106 (decodedHeader rx / 65536)) ≠ decodedHeader rx % 65536) :
    ∃ t : State, exec (.burstHeaderDecode n p rx body) s = .next t ∧ (t.pair n p).detect = none ∧
      t.reg (PAIR_GREET_HDR_BAD n p) = s.reg (PAIR_GREET_HDR_BAD n p) + 1 := by
  show ∃ t, execBurstHeaderDecode n p rx body s = .next t ∧ _
  unfold execBurstHeaderDecode
  extract_lets l hdr ty
  rw [if_neg (by simp [hdetect]), if_pos (by simp [hdr, hcrc])]
  refine ⟨_, rfl, endBurst_linkOfPair_detect _, ?_⟩
  rw [endBurst_reg _ _ _ (by rw [linkOfPair_n]; exact greetHdrBad_ne_agc n p), State.reg_inc_same]

end

section
variable {l : LinkId} {s : State}

theorem sendCaps_greet_out : (sendCaps l tGREET s).out = s.out ++
    [burstOut l 1 (burstHeader 1 2 (s.link l).level (s.link l).attempt (s.link l).ownId 0 0) [page0 s l, page1 s l] (s.link l).level] := by
  simp only [sendCaps, sendBurst, State.link_modLink]
  rfl

theorem g0BackoffExpire_greets (hphase : (s.link l).phase = 1) (hwait : (s.link l).waitReply = false) :
    ∃ t : State, exec (.g0BackoffExpire l) s = .next t ∧ (t.link l).attempt = (s.link l).attempt + 1 ∧ (t.link l).waitReply = true ∧
      t.out = s.out ++ [burstOut l 1 (burstHeader 1 2 (s.link l).level ((s.link l).attempt + 1) (s.link l).ownId 0 0) [page0 s l, page1 s l]
        (s.link l).level] := by
  show ∃ t, execG0BackoffExpire l s = .next t ∧ _
  unfold execG0BackoffExpire
  extract_lets k s1
  rw [if_neg (by simp [k, hphase, hwait])]
  have hsent : (showLink l (sendCaps l tGREET s1)).link l = { s1.link l with sentHalf := laneHalf s1 l.n } :=
    (State.link_congr (showLink_links l _) l).trans (sendCaps_link l tGREET s1)
  have h1 : s1.link l = { s.link l with attempt := (s.link l).attempt + 1, waitReply := true, wait := 1 } := State.link_modLink s l _
  have hpage : page0 s1 l = page0 s l := page0_modLink l s fun _ => rfl
  refine ⟨_, rfl, ?_, ?_, ?_⟩
  · rw [hsent, h1]
  · rw [hsent, h1]
  · rw [showLink_out, sendCaps_greet_out, h1, hpage]
    rfl

theorem g0ReplyTimeout_backs_off (hphase : (s.link l).phase = 1) (hwait : (s.link l).waitReply = true) :
    ∃ t : State, exec (.g0ReplyTimeout l) s = .next t ∧ (t.link l).waitReply = false ∧ (t.link l).level = min ((s.link l).level + 1) 3 ∧
      (t.link l).phase = 1 ∧ (t.link l).wait < 64 := by
  show ∃ t, execG0ReplyTimeout l s = .next t ∧ _
  unfold execG0ReplyTimeout
  extract_lets k s1
  rw [if_neg (by simp [k, hphase, hwait])]
  obtain ⟨w, hw, hdrawn⟩ := drawSlots_link l (s1.modLink l (fun k => { k with waitReply := false, level := min (k.level + 1) 3 }))
  refine ⟨_, rfl, ?_⟩
  rw [State.link_congr (showLink_links l _), hdrawn, State.link_modLink, State.inc_link]
  exact ⟨rfl, rfl, hphase, hw⟩

end

/-- Settles O14, clause by clause: what a detection or its end writes of the gain control is not in the counters of the receiver. -/
theorem greetingReceiverAnswers : Obligations.GreetingReceiverAnswers :=
  ⟨fun _ _ _ _ _ _ _ => preambleDetect_detects, fun _ _ _ _ _ _ _ _ _ => captureOverride_takes,
    fun _ _ _ _ _ => burstHeaderDecode_takes, fun _ _ _ _ _ => burstHeaderDecode_counts_bad,
    fun _ _ => g0BackoffExpire_greets, fun _ _ => g0ReplyTimeout_backs_off⟩

end Sys2Proof.Claims
end

section
/-! SUPPORT. What the bursts of the greeting exchange leave of a link's record: one that is accepted, one that is sent, a result that is resolved. -/
namespace Sys2Proof.Machine

theorem acceptBurst_of_accepted {l : LinkId} {b : Burst} {caps : Bool} {s : State} (hok : (acceptBurst l b caps s).1 = true) :
    ∃ u, acceptBurst l b caps s = (true, u) ∧ u.link l = s.link l :=
  ⟨_, Prod.ext hok rfl, State.link_congr (acceptBurst_links hok) l⟩

theorem resolve_link (l : LinkId) (pages : List Nat) (s : State) : ∃ modes tier dec result, (resolve l pages s).link l = { s.link l with
    peerPages := pages, resolved := modes, maxTier := tier, declined := dec, resultWord := result } :=
  ⟨_, _, _, _, State.link_modLink s l _⟩

theorem page0_resolve (l : LinkId) (pages : List Nat) (s : State) : page0 (resolve l pages s) l = page0 s l := by
  unfold resolve
  extract_lets
  exact page0_modLink l s fun _ => rfl

theorem page0_emit (l : LinkId) (o : Out) (s : State) : page0 (s.emit o) l = page0 s l := rfl

theorem page0_sendCaps (l : LinkId) (ty : Nat) (s : State) : page0 (sendCaps l ty s) l = page0 s l := by
  unfold sendCaps sendBurst
  extract_lets
  exact (page0_emit _ _ _).trans (page0_modLink l s fun _ => rfl)

theorem sideG2_links (l : LinkId) (s : State) : (sideG2 l s).links = s.links :=
  (@keeps_sideG2 (· ∈ [.regs, .pairs, .cals, .calRuns, .completions, .claims, .waiting, .later, .raised]) ⟨by decide⟩ ⟨by decide⟩ ⟨by decide⟩
    ⟨by decide⟩ ⟨by decide⟩ ⟨by decide⟩ ⟨by decide⟩ ⟨by decide⟩ ⟨by decide⟩ s s l (keeps_refl _ s)).same .links (by decide)

end Sys2Proof.Machine
end

section
/-! PROOF. The greeting exchange, one clause of the statement after the other. -/
namespace Sys2Proof.Claims
open Sys2Proof Sys2Proof.Machine

section
variable {l : LinkId} {b : Burst} {s : State}

theorem greet_makes_responder (hok : (acceptBurst l b true s).1 = true) (hphase : (s.link l).phase = 1) (hwait : (s.link l).waitReply = false) :
    ∃ t : State, exec (.greet l b) s = .next t ∧ (t.link l).phase = 2 ∧ (t.link l).initiator = false ∧ (t.link l).peerId = b.sender ∧
      (t.link l).peerPages = b.pages ∧ (t.link l).level = max (s.link l).level (b.level % 4) := by
  obtain ⟨u, hu, hlink⟩ := acceptBurst_of_accepted hok
  show ∃ t, execGreet l b s = .next t ∧ _
  unfold execGreet
  rw [hu]
  dsimp -zeta only
  extract_lets k s1
  rw [if_neg (by simp [k, hlink, hphase, hwait])]
  refine ⟨_, rfl, ?_⟩
  rw [State.link_congr (showLink_links l _), sendCaps_link, State.link_modLink, hlink]
  exact ⟨rfl, rfl, rfl, rfl, rfl⟩

theorem reply_makes_initiator (hok : (acceptBurst l b true s).1 = true) (hphase : (s.link l).phase = 1) (hwait : (s.link l).waitReply = true)
    (hecho : b.echo = (s.link l).ownId) (hattempt : b.attempt % 256 = (s.link l).attempt % 256)
    (hproto : protoOk (acceptBurst l b true s).2 l b.pages = true) :
    ∃ t : State, exec (.reply l b) s = .next t ∧ (t.link l).phase = 2 ∧ (t.link l).initiator = true ∧ (t.link l).peerId = b.sender ∧
      (t.link l).peerPages = b.pages ∧ (t.link l).confirms = 1 := by
  obtain ⟨u, hu, hlink⟩ := acceptBurst_of_accepted hok
  rw [hu] at hproto
  show ∃ t, execReply l b s = .next t ∧ _
  unfold execReply
  rw [hu]
  dsimp -zeta only
  extract_lets k s1 s2
  rw [if_neg (by simp [k, hlink, hphase, hwait, hecho, hattempt])]
  have hpage : page0 s2 l = page0 u l :=
    ((page0_sendCaps l tCONFIRM _).trans (page0_resolve l b.pages s1)).trans (page0_modLink l u fun _ => rfl)
  have hagreed : protoOk s2 l b.pages = true := by rwa [protoOk, hpage]
  obtain ⟨modes, tier, dec, result, hresolved⟩ := resolve_link l b.pages s1
  refine ⟨_, rfl, ?_⟩
  rw [if_pos hagreed, State.link_congr (showLink_links l s2), sendCaps_link, hresolved, State.link_modLink]
  exact ⟨rfl, rfl, rfl, rfl, rfl⟩

section
variable (hok : (acceptBurst l b true s).1 = true) (hphase : (s.link l).phase = 2) (hresponder : (s.link l).initiator = false)
  (hproto : protoOk (acceptBurst l b true s).2 l b.pages = true)
include hok hphase hresponder hproto

/-- A CONFIRM that a responder accepts is answered by what its CRC is against that of the result resolved here. -/
theorem exec_confirm_of_accepted : exec (.confirm l b) s =
    if crc16 (bitsMsb 32 ((resolve l b.pages (acceptBurst l b true s).2).link l).resultWord) = b.resultCrc then
      .next (showLink l (sendBurst l tACK [] ((resolve l b.pages (acceptBurst l b true s).2).modLink l (fun k =>
        { k with confirmed := true, setup := true }))))
    else .next (startupFail l 3 (sendBurst l tNAK [] (resolve l b.pages (acceptBurst l b true s).2))) := by
  obtain ⟨u, hu, hlink⟩ := acceptBurst_of_accepted hok
  rw [hu] at hproto ⊢
  show execConfirm l b s = _
  unfold execConfirm
  rw [hu]
  dsimp -zeta only
  extract_lets k s1
  rw [if_neg (by simp [k, hlink, hphase, hresponder]), if_neg (by simp [hproto])]

theorem confirm_sets_up
    (hcrc : crc16 (bitsMsb 32 ((resolve l b.pages (acceptBurst l b true s).2).link l).resultWord) = b.resultCrc) :
    ∃ t : State, exec (.confirm l b) s = .next t ∧ (t.link l).confirmed = true ∧ (t.link l).setup = true ∧ (t.link l).peerPages = b.pages ∧
      (t.link l).phase = 2 := by
  have hlink : (acceptBurst l b true s).2.link l = s.link l := State.link_congr (acceptBurst_links hok) l
  obtain ⟨modes, tier, dec, result, hresolved⟩ := resolve_link l b.pages (acceptBurst l b true s).2
  refine ⟨_, (exec_confirm_of_accepted hok hphase hresponder hproto).trans (if_pos hcrc), ?_⟩
  rw [State.link_congr (showLink_links l _), sendBurst, State.emit_link, State.link_modLink, hresolved, hlink]
  exact ⟨rfl, rfl, rfl, hphase⟩

theorem confirm_fails
    (hcrc : crc16 (bitsMsb 32 ((resolve l b.pages (acceptBurst l b true s).2).link l).resultWord) ≠ b.resultCrc) :
    ∃ t : State, exec (.confirm l b) s = .next t ∧ (t.link l).lastCause = 3 ∧ (t.link l).phase = 10 := by
  have hlink : (acceptBurst l b true s).2.link l = s.link l := State.link_congr (acceptBurst_links hok) l
  obtain ⟨modes, tier, dec, result, hresolved⟩ := resolve_link l b.pages (acceptBurst l b true s).2
  have hstill : ((sendBurst l tNAK [] (resolve l b.pages (acceptBurst l b true s).2)).link l).phase = 2 := by
    rw [sendBurst, State.emit_link, hresolved, hlink]
    exact hphase
  obtain ⟨hlast, hheld, -⟩ := startupFail_link (l := l) (cause := 3) (by rw [hstill]; decide)
  exact ⟨_, (exec_confirm_of_accepted hok hphase hresponder hproto).trans (if_neg hcrc), hlast, hheld⟩

end

theorem confirmAck_sets_up (hok : (acceptBurst l b false s).1 = true) (hphase : (s.link l).phase = 2) (hinitiator : (s.link l).initiator = true) :
    ∃ t : State, exec (.confirmAck l b) s = .next t ∧ (t.link l).confirmed = true ∧ (t.link l).setup = true ∧ (t.link l).phase = 2 := by
  obtain ⟨u, hu, hlink⟩ := acceptBurst_of_accepted hok
  show ∃ t, execConfirmAck l b s = .next t ∧ _
  unfold execConfirmAck
  rw [hu]
  dsimp -zeta only
  extract_lets k
  rw [if_neg (by simp [k, hlink, hphase, hinitiator])]
  refine ⟨_, rfl, ?_⟩
  rw [State.link_congr (showLink_links l _), State.link_modLink, hlink]
  exact ⟨rfl, rfl, hphase⟩

theorem confirmNak_fails (hok : (acceptBurst l b false s).1 = true) (hphase : (s.link l).phase = 2) (hinitiator : (s.link l).initiator = true) :
    ∃ t : State, exec (.confirmNak l b) s = .next t ∧ (t.link l).lastCause = 3 ∧ (t.link l).phase = 10 := by
  obtain ⟨u, hu, hlink⟩ := acceptBurst_of_accepted hok
  obtain ⟨hlast, hheld, -⟩ := startupFail_link (l := l) (cause := 3) (s := u) (by rw [hlink, hphase]; decide)
  refine ⟨startupFail l 3 u, ?_, hlast, hheld⟩
  show execConfirmNak l b s = _
  simp [execConfirmNak, hu, hlink, hphase, hinitiator]

end

section
variable {l : LinkId} {s : State}

theorem confirmTimeout_repeats (hphase : (s.link l).phase = 2) (hinitiator : (s.link l).initiator = true) (hsetup : (s.link l).setup = false)
    (hfew : (s.link l).confirms < 3) :
    ∃ t : State, exec (.confirmTimeout l) s = .next t ∧ (t.link l).confirms = (s.link l).confirms + 1 ∧ (t.link l).phase = 2 := by
  show ∃ t, execConfirmTimeout l s = .next t ∧ _
  unfold execConfirmTimeout
  extract_lets k
  rw [if_neg (by simp [k, hphase, hinitiator, hsetup]), if_pos hfew]
  refine ⟨_, rfl, ?_⟩
  rw [State.link_congr (showLink_links l _), sendCaps_link, State.link_modLink]
  exact ⟨rfl, hphase⟩

theorem g1ResponderTimeout_fails (hphase : (s.link l).phase = 2) (hresponder : (s.link l).initiator = false)
    (hopen : (s.link l).confirmed = false) :
    ∃ t : State, exec (.g1ResponderTimeout l) s = .next t ∧ (t.link l).lastCause = 1 ∧ (t.link l).phase = 10 := by
  obtain ⟨hlast, hheld, -⟩ := startupFail_link (l := l) (cause := 1) (s := s) (by rw [hphase]; decide)
  refine ⟨startupFail l 1 s, ?_, hlast, hheld⟩
  show execG1ResponderTimeout l s = _
  simp [execG1ResponderTimeout, hphase, hresponder, hopen]

theorem setupIntervalEnd_enters_g2 (hphase : (s.link l).phase = 2) (hsetup : (s.link l).setup = true) :
    ∃ t : State, exec (.setupIntervalEnd l) s = .next t ∧ (t.link l).phase = 3 ∧ (t.link l).g2Step = 0 ∧
      (t.link l).negotiated = (s.link l).resolved ∧ (t.link l).splitband = false := by
  show ∃ t, execSetupIntervalEnd l s = .next t ∧ _
  unfold execSetupIntervalEnd
  extract_lets k s1 s2
  rw [if_neg (by simp [k, hphase, hsetup])]
  refine ⟨_, rfl, ?_⟩
  rw [State.link_congr ((showLink_links l _).trans (sideG2_links l s2)), State.setFld_link, State.setFld_link, State.link_modLink]
  exact ⟨rfl, rfl, rfl, rfl⟩

end

/-- Settles O15, clause by clause: an accepted burst leaves the link's record, and what is sent or shown after it leaves what it wrote. -/
theorem greetingExchange : Obligations.GreetingExchange :=
  ⟨fun _ _ _ => greet_makes_responder, fun _ _ _ => reply_makes_initiator, fun _ _ _ => confirm_sets_up, fun _ _ _ => confirm_fails,
    fun _ _ _ => confirmAck_sets_up, fun _ _ _ => confirmNak_fails, fun _ _ => confirmTimeout_repeats,
    fun _ _ => g1ResponderTimeout_fails, fun _ _ => setupIntervalEnd_enters_g2⟩

end Sys2Proof.Claims
end

section
/-! SUPPORT. What a failed start-up keeps of a link's record, and what the tables of G4 and the choice of the carrying set write in it. -/
namespace Sys2Proof.Machine

theorem forEach_of_step {α : Type} {P : State → Prop} {f : α → State → State} (hf : ∀ x s, P s → P (f x s)) (xs : List α) {s : State}
    (h : P s) : P (forEach xs f s) := by
  induction xs generalizing s with
  | nil => exact h
  | cons x xs ih => exact ih (hf x s h)

/-! ### A start-up that fails (R192, R193) -/

/-- A link that stops keeps its phase and the streams of its own tables. -/
theorem clearLink_links (l : LinkId) (s : State) : ∃ g : LinkSt → LinkSt, (clearLink l s).links = (s.modLink l g).links ∧
    ∀ k, (g k).phase = k.phase ∧ (g k).ownStreams = k.ownStreams := by
  unfold clearLink
  extract_lets e e0 s1 s2 s3
  have h2 : s2.links = s1.links := forEach_eq_of_step_eq State.links _ (fun p s => by simp [endSwap]) _ _
  have h3 : s3.links = s2.links := by
    simp only [s3]
    split <;> simp
  exact ⟨_, ((stopStream_links l s3).trans h3).trans h2, fun _ => ⟨rfl, rfl⟩⟩

theorem enterHoldOff_link (l : LinkId) (s : State) : ∃ w, (enterHoldOff l s).link l = { s.link l with phase := 10, wait := w } := by
  obtain ⟨w, -, h⟩ := drawSlots_link l s
  rw [enterHoldOff, State.link_modLink, h]
  exact ⟨_, rfl⟩

/-- A failure counts one more in a row, and forgets no stream of the tables computed. -/
theorem startupFail_counts {l : LinkId} {cause : Nat} {s : State} (hphase : 1 ≤ (s.link l).phase ∧ (s.link l).phase ≤ 6) :
    ((startupFail l cause s).link l).consecFail = min ((s.link l).consecFail + 1) 255 ∧
      ((startupFail l cause s).link l).ownStreams = (s.link l).ownStreams := by
  unfold startupFail
  extract_lets k s1 s2 s3 c lim hit s4 s5
  have h4 : s4.link l = (clearLink l s).link l := by
    simp only [s4, s3, s2, s1]
    split
    · rw [State.raise_link, State.raise_link, State.inc_link]
    · rw [State.raise_link, State.inc_link]
  obtain ⟨g, hcleared, hkept⟩ := clearLink_links l s
  obtain ⟨w, hheld⟩ := enterHoldOff_link l s5
  have h5 : s5.link l = { g (s.link l) with consecFail := c, limit := (g (s.link l)).limit || hit, lastCause := cause } := by
    rw [State.link_modLink, h4, State.link_congr hcleared, State.link_modLink]
  rw [if_neg (by simp [k, hphase]), State.link_congr (showLink_links l _), hheld, h5]
  exact ⟨rfl, (hkept _).2⟩

theorem phaseFail_of_startup {l : LinkId} {cause : Nat} {s : State} (hphase : (s.link l).phase ≠ 8) :
    phaseFail l cause s = startupFail l cause s := if_neg hphase

/-! ### Tables held and chosen (R181 to R184) -/

theorem setHeldTable_links (s : State) (n p : Nat) (d : Dir) (set : Nat) (t : List Nat) : (s.setHeldTable n p d set t).links = s.links :=
  (@keeps_setHeldTable (· ∈ [.held]) ⟨by decide⟩ s s n p d set t (keeps_refl _ s)).same .links (by decide)

theorem holdSet_ownStreams (l : LinkId) (set : Nat) (x : Nat × List (Nat × List Nat)) (s : State) :
    ((holdSet l set x s).link l).ownStreams = (s.link l).ownStreams ++ [(set, x.1)] := by
  have hheld : (forEach x.2 (fun t s => s.setHeldTable l.n t.1 .rx set t.2) s).links = s.links :=
    forEach_eq_of_step_eq State.links _ (fun _ _ => setHeldTable_links _ _ _ _ _ _) _ s
  rw [holdSet, State.link_modLink, State.link_congr hheld]

/-- The first stream recorded stays the first when others are. -/
theorem holdSet_keeps_first {l : LinkId} {y : Nat × Nat} (set : Nat) (x : Nat × List (Nat × List Nat)) {s : State}
    (h : (s.link l).ownStreams.head? = some y) : ((holdSet l set x s).link l).ownStreams.head? = some y := by
  rw [holdSet_ownStreams, List.head?_append, h]
  rfl

theorem setStream_link (l : LinkId) (d : Dir) (x : Nat) (s : State) : ∃ tx rx,
    (setStream l d x s).link l = { s.link l with streamTx := tx, streamRx := rx } := by
  rw [setStream, State.link_modLink]
  cases d
  · exact ⟨_, _, rfl⟩
  · exact ⟨_, _, rfl⟩

/-- The pairs chosen carry in both directions, whatever TRANSPARENT comes to. -/
theorem chooseSet_carries (l : LinkId) (set carry rx tx : Nat) (s : State) : ((chooseSet l set carry rx tx s).link l).decided = true ∧
    ((chooseSet l set carry rx tx s).link l).carry = carry ∧ ((chooseSet l set carry rx tx s).link l).carryRx = carry := by
  unfold chooseSet
  extract_lets n s1 s2 isT s3
  have h2 : (s2.link l).decided = true ∧ (s2.link l).carry = carry ∧ (s2.link l).carryRx = carry := by
    simp only [s2, State.link_modLink, and_self]
  have hlost (d : Dir) (x : Nat) : ((setStream l d x s3).link l).decided = true ∧ ((setStream l d x s3).link l).carry = carry ∧
      ((setStream l d x s3).link l).carryRx = carry := by
    obtain ⟨a, b, h⟩ := setStream_link l d x s3
    rw [h]
    simpa only [s3, State.link_modLink] using h2
  split
  · exact hlost _ _
  split
  · exact hlost _ _
  · simpa only [State.link_modLink] using h2

end Sys2Proof.Machine
end

section
/-! PROOF. Tables, the carrying set and VERIFY, one clause of the statement after the other. -/
namespace Sys2Proof.Claims
open Sys2Proof Sys2Proof.Machine

theorem g4aTableCompute_tries_streams {l : LinkId} {s : State} (hphase : (s.link l).phase = 5) (hend : 5120 ≤ (s.link l).own)
    (hfirst : (s.link l).ownStreams = []) (hall : (s.link l).excluded = 0) :
    ∃ t : State, exec (.g4aTableCompute l) s = .next t ∧
      ((t.link l).ownStreams.head? = (bestStream s l (linkPairs l)).map (fun x => (0, x.1)) ∧
        (bestStream s l (linkPairs l) = none → (t.link l).lastCause = 8)) := by
  show ∃ t, execG4aTableCompute l s = .next t ∧ _
  unfold execG4aTableCompute
  extract_lets k ready ps tri full
  have hps : ps = linkPairs l := List.filter_eq_self.mpr fun p _ => by simp [k, hall, bit]
  rw [if_neg (by simp [ready, k, hphase, hend, hfirst]), if_pos (by simp [full, hps]), hps]
  cases hbest : bestStream s l (linkPairs l) with
  | none =>
    dsimp only
    rw [phaseFail_of_startup (by omega)]
    have hstart : 1 ≤ (s.link l).phase ∧ (s.link l).phase ≤ 6 := by omega
    refine ⟨_, rfl, ?_, fun _ => (startupFail_link hstart).1⟩
    rw [(startupFail_counts hstart).2, hfirst]
    rfl
  | some x =>
    dsimp only
    refine ⟨_, rfl, ?_, nofun⟩
    have hheld : ((holdSet l 0 x s).link l).ownStreams.head? = some (0, x.1) := by rw [holdSet_ownStreams, hfirst]; rfl
    rw [State.link_congr (showLink_links l _)]
    split
    · refine forEach_of_step (P := fun s => (s.link l).ownStreams.head? = some (0, x.1)) (fun d s h => ?_) _ hheld
      split
      · exact holdSet_keeps_first _ _ h
      · exact h
    · exact hheld

section
variable {l : LinkId} {f : SuFrame} {s : State}

theorem startupTableFrame_keeps_table (hphase : (s.link l).phase = 5) (hgood : frameGood f = true) (hkind : f.kind = 1)
    (hpair : f.pair.val ∈ linkPairs l) (hset : f.set < 5)
    (hvalid : tableValid s l f.pair.val .tx
      (linkShare (s.link l) l (bits f.arg 19 17) (if f.set = 0 then (linkPairs l).length else 3)) (frameTable f) = true)
    (hnew : ∀ x ∈ (s.link l).peerTables, ¬ (x.1 = f.pair.val ∧ x.2.1 = f.set)) :
    ∃ t : State, exec (.startupTableFrame l f) s = .next t ∧
      (t.link l).peerTables = (s.link l).peerTables ++ [(f.pair.val, f.set, bits f.arg 19 17, bits f.arg 15 12)] := by
  show ∃ t, execStartupTableFrame l f s = .next t ∧ _
  unfold execStartupTableFrame
  extract_lets k open_ p set t pairs s1
  have hmod : set = f.set := Nat.mod_eq_of_lt (by omega)
  have hfirst (x y : Nat) : (f.pair.val, f.set, x, y) ∉ (s.link l).peerTables := fun h => hnew _ h ⟨rfl, rfl⟩
  have hlink : s1.link l = s.link l := State.link_congr (setHeldTable_links _ _ _ _ _ _) l
  rw [if_neg (by simp [open_, k, hphase, hgood, hkind, p, hpair, hfirst, hmod, hset]), if_neg (by simp [pairs, t, p, k, hmod, hvalid])]
  refine ⟨_, rfl, ?_⟩
  rw [State.link_modLink, hlink, hmod]

theorem startupStatusFrame_takes (hphase : (s.link l).phase = 6) (hgood : frameGood f = true) (hkind : f.kind = 2)
    (hcarry : bit (s.link l).carryRx f.pair.val = true) :
    ∃ t : State, exec (.startupStatusFrame l f) s = .next t ∧ ((t.link l).farVerify = bits f.arg 19 18 ∧
      (bit f.arg 17 = true → (t.link l).farShow = some (bits (f.body.headD 0) 63 32))) := by
  show ∃ t, execStartupStatusFrame l f s = .next t ∧ _
  unfold execStartupStatusFrame
  extract_lets k v s1
  rw [if_neg (by simp [k, inSequence, carryOf, hphase, hgood, hkind, hcarry])]
  refine ⟨_, rfl, ?_⟩
  by_cases hshow : bit f.arg 17 = true
  · rw [if_pos hshow, State.link_modLink, State.link_modLink]
    exact ⟨rfl, fun _ => rfl⟩
  · rw [if_neg hshow, State.link_modLink]
    exact ⟨rfl, fun h => absurd h hshow⟩

theorem startupAbortFrame_fails (hphase : (s.link l).phase = 5 ∨ (s.link l).phase = 6) (hgood : frameGood f = true) (hkind : f.kind = 3) :
    ∃ t : State, exec (.startupAbortFrame l f) s = .next t ∧ (t.link l).remoteCause = f.arg % 256 ∧ (t.link l).lastCause = 0xC ∧
      (t.link l).phase = 10 := by
  let u := s.modLink l (fun k => { k with remoteCause := f.arg % 256 })
  have hu : u.link l = { s.link l with remoteCause := f.arg % 256 } := State.link_modLink s l _
  have hstart : 1 ≤ (u.link l).phase ∧ (u.link l).phase ≤ 6 := by
    rw [hu]
    show 1 ≤ (s.link l).phase ∧ (s.link l).phase ≤ 6
    omega
  obtain ⟨hlast, hheld, hremote⟩ := startupFail_link (cause := 0xC) hstart
  refine ⟨startupFail l 0xC u, ?_, hremote.trans (congrArg LinkSt.remoteCause hu), hlast, hheld⟩
  show execStartupAbortFrame l f s = _
  rw [execStartupAbortFrame, if_neg (by obtain h | h := hphase <;> simp [h, hgood, hkind]), phaseFail_of_startup (s := u) (by omega)]

end

section
variable {l : LinkId} {s : State}

theorem carryingSetDecide_fails_without_tables (hphase : (s.link l).phase = 6) (hstage : 5376 ≤ (s.link l).own)
    (hopen : (s.link l).decided = false) (hnone : (s.link l).peerTables = []) :
    ∃ t : State, exec (.carryingSetDecide l) s = .next t ∧ (t.link l).lastCause = 9 ∧ (t.link l).phase = 10 := by
  obtain ⟨hlast, hheld, -⟩ := startupFail_link (l := l) (cause := 9) (s := s) (by omega)
  refine ⟨startupFail l 9 s, ?_, hlast, hheld⟩
  show execCarryingSetDecide l s = _
  rw [← phaseFail_of_startup (by omega)]
  simp [execCarryingSetDecide, hphase, hstage, hopen, peerCarry, hnone]

theorem carryingSetDecide_takes_all {own : Nat × Nat} (hphase : (s.link l).phase = 6) (hstage : 5376 ≤ (s.link l).own)
    (hopen : (s.link l).decided = false) (hport : l.sub = none) (hall : (s.link l).excluded = 0) (hpeer : peerCarry (s.link l) = some 15)
    (hown : (s.link l).ownStreams.find? (fun x => x.1 == 0) = some own)
    (htables : allPairs.all (fun p => (s.link l).peerTables.any (fun x => x.1 == p && x.2.1 == 0)) = true) :
    ∃ t : State, exec (.carryingSetDecide l) s = .next t ∧ (t.link l).decided = true ∧ (t.link l).carry = 15 ∧ (t.link l).carryRx = 15 := by
  have hpairs : linkPairs l = allPairs := by rw [linkPairs, hport]
  have hps : (linkPairs l).filter (fun p => !bit (s.link l).excluded p && bit 15 p) = allPairs := by
    rw [hpairs, hall]
    decide
  have hmiss : (linkPairs l).filter (fun p => !allPairs.contains p) = [] := by
    rw [hpairs]
    decide
  have hsent : allPairs.all (fun p => ((s.link l).peerTables.filter (fun x => x.2.1 == 0 && allPairs.contains x.1)).any (fun x => x.1 == p)) =
      true := by
    simp only [List.all_eq_true, List.any_eq_true, List.mem_filter, Bool.and_eq_true, beq_iff_eq, List.contains_iff_mem] at htables ⊢
    intro p hp
    obtain ⟨x, hx, rfl, hzero⟩ := htables p hp
    exact ⟨x, ⟨hx, hzero, hp⟩, rfl⟩
  have hdecided : ∃ tx, exec (.carryingSetDecide l) s = .next (showLink l (chooseSet l 0 (pairsMask allPairs) own.2 tx s)) := by
    show ∃ tx, execCarryingSetDecide l s = _
    simp only [execCarryingSetDecide, hphase, hstage, hopen, hpeer, hps, hmiss, hown, hsent]
    exact ⟨_, rfl⟩
  obtain ⟨tx, hdecided⟩ := hdecided
  refine ⟨_, hdecided, ?_⟩
  rw [State.link_congr (showLink_links l _)]
  exact chooseSet_carries l 0 15 own.2 tx s

theorem showStageName_names (hhigher : isHigher (s.link l) = true) (hlo : 4 ≤ (s.link l).phase) (hhi : (s.link l).phase ≤ 6)
    (hown : (s.link l).verify = 1) (hfar : (s.link l).farVerify = 1) (hnone : (s.link l).showStage = none) :
    ∃ t : State, exec (.showStageName l) s = .next t ∧ (t.link l).showStage = some (stagePlus (s.link l).own 17) := by
  show ∃ t, execShowStageName l s = .next t ∧ _
  unfold execShowStageName
  extract_lets k d
  have hd : d = 16 := by simp [d, k, hlo, hhi]
  rw [if_neg (by simp [k, inSequence, hlo, hhi, hhigher, hown, hfar, hnone])]
  refine ⟨_, rfl, ?_⟩
  rw [State.link_congr (showLink_links l _), State.link_modLink, hd]

end

theorem verifyResult_judges {n : Port} {sub : Option Pair} {s : State} (hruns : inSequence (s.link ⟨n, sub⟩) = true)
    (hstage : resultStage (s.link ⟨n, sub⟩) ≤ seqStage (s.link ⟨n, sub⟩)) (hopen : (s.link ⟨n, sub⟩).verify = 0) :
    ∃ t : State, exec (.verifyResult n sub) s = .next t ∧ ((t.link ⟨n, sub⟩).verify =
      if (s.link ⟨n, sub⟩).errSyms ≤ s.fld (PORT_STARTUP_CFG.VERIFY_MAX n) ∧ 0 ≤ portMargin s ⟨n, sub⟩ then 1 else 2) := by
  show ∃ t, execVerifyResult n sub s = .next t ∧ _
  unfold execVerifyResult
  extract_lets l k pass
  rw [if_neg (by simp [k, l, hruns, hstage, hopen])]
  refine ⟨_, rfl, ?_⟩
  rw [State.link_congr (showLink_links l _), State.link_modLink]
  simp only [pass, Bool.and_eq_true, decide_eq_true_eq]
  rfl

/-- Settles O17, clause by clause: what a frame or a judgement writes in the link's record stands, and a failure keeps the causes. -/
theorem tablesAndVerify : Obligations.TablesAndVerify :=
  ⟨fun _ _ => g4aTableCompute_tries_streams, fun _ _ _ => startupTableFrame_keeps_table,
    fun _ _ => carryingSetDecide_fails_without_tables, fun _ _ _ => carryingSetDecide_takes_all,
    fun _ _ _ => startupStatusFrame_takes, fun _ _ _ => startupAbortFrame_fails, fun _ _ _ => verifyResult_judges,
    fun _ _ => showStageName_names⟩

end Sys2Proof.Claims
end

section
/-! SUPPORT. A link's record beside its exchanges of tables; links that leave showtime, enter G0, are enabled or stopped; the start of a fast
retrain. -/
namespace Sys2Proof.Machine

/-! ### A link's record beside its messages and exchanges of tables (R45, R46, R58, R205) -/

/-- The record without what messages, exchanges of tables and the streams they bring write in it. -/
def LinkSt.withoutExchanges (k : LinkSt) : LinkSt :=
  { k with waiting := [], withdrawn := [], modeAsk := [], rateWait := none, capacityLow := false, declined := 0, streamTx := 0, streamRx := 0 }

section
variable (k : LinkSt)

@[simp] theorem LinkSt.withoutExchanges_phase : k.withoutExchanges.phase = k.phase := rfl
@[simp] theorem LinkSt.withoutExchanges_fast : k.withoutExchanges.fast = k.fast := rfl
@[simp] theorem LinkSt.withoutExchanges_decided : k.withoutExchanges.decided = k.decided := rfl
@[simp] theorem LinkSt.withoutExchanges_consecFail : k.withoutExchanges.consecFail = k.consecFail := rfl
@[simp] theorem LinkSt.withoutExchanges_limit : k.withoutExchanges.limit = k.limit := rfl
@[simp] theorem LinkSt.withoutExchanges_frStage : k.withoutExchanges.frStage = k.frStage := rfl
@[simp] theorem LinkSt.withoutExchanges_frCause : k.withoutExchanges.frCause = k.frCause := rfl

end

/-- The rest of a link's record in a state. -/
def beside (l : LinkId) (s : State) : LinkSt := (s.link l).withoutExchanges

theorem beside_congr {s t : State} (l : LinkId) (h : t.links = s.links) : beside l t = beside l s := by
  rw [beside, State.link_congr h, beside]

theorem beside_modLink {g : LinkSt → LinkSt} (l : LinkId) (s : State)
    (hg : ∀ k, (g k).withoutExchanges = k.withoutExchanges := by exact fun _ => rfl) : beside l (s.modLink l g) = beside l s := by
  rw [beside, State.link_modLink, hg, beside]

theorem beside_endExchange (l : LinkId) (s : State) : beside l (endExchange l s) = beside l s := by
  obtain ⟨waiting, withdrawn, h⟩ := dropRxTables_link l s
  rw [endExchange, beside_congr l (dropTxTables_links l _), beside, h]
  rfl

theorem beside_beginModeTables (l : LinkId) (b : Nat) (on : Bool) (s : State) : beside l (beginModeTables l b on s) = beside l s := by
  obtain ⟨asks, low, wait, declined, h⟩ := beginModeTables_link l b on s
  rw [beside, h]
  rfl

theorem beside_proposeMode (l : LinkId) (b : Nat) (on : Bool) (s : State) : beside l (proposeMode l b on s) = beside l s := by
  have hended (c : Bool) : beside l (if c then endExchange l s else s) = beside l s := by
    cases c
    · rfl
    · exact beside_endExchange l s
  unfold proposeMode
  extract_lets k s1 s2
  have h2 : beside l s2 = beside l s := (beside_modLink l s1).trans (hended _)
  split
  · rfl
  split
  · exact (beside_modLink l s1).trans (hended _)
  split
  · rfl
  split
  · exact (beside_beginModeTables l b on s2).trans h2
  · exact (beside_modLink l s2).trans h2

theorem beside_afterRetrain (l : LinkId) (s : State) : beside l (afterRetrain l s) = beside l s := by
  refine forEach_eq_of_step_eq (beside l) _ (fun b s => ?_) _ s
  unfold afterPending
  split
  · exact (beside_proposeMode l b _ _).trans (beside_congr l (State.modPort_links _ _ _))
  · rfl

theorem beside_loseTransparent (l : LinkId) (s : State) : beside l (loseTransparent l s) = beside l s := by
  unfold loseTransparent
  extract_lets s1
  have hlost : beside l s1 = beside l s := beside_modLink l s
  refine (forEach_eq_of_step_eq (beside l) _ (fun d s => ?_) _ s1).trans hlost
  split
  · rfl
  · exact beside_modLink l s fun _ => by cases d <;> rfl

theorem beside_judgeTransparent (l : LinkId) (s : State) : beside l (judgeTransparent l s) = beside l s := by
  have hretry (s : State) : beside l (retryTransparent l s) = beside l s := by
    unfold retryTransparent
    extract_lets k
    split
    · exact beside_beginModeTables l _ _ s
    · rfl
  unfold judgeTransparent
  split
  · exact (hretry _).trans (beside_loseTransparent l s)
  · exact hretry s

/-! ### Operations of start-up that leave the links' records -/

theorem flushTx_links (l : LinkId) (s : State) : (flushTx l s).links = s.links :=
  (@keeps_flushTx (· ∈ [.regs, .queues, .banks]) ⟨by decide⟩ ⟨by decide⟩ ⟨by decide⟩ s s l (keeps_refl _ s)).same .links (by decide)

theorem sideStartup_links (l : LinkId) (s : State) : (sideStartup l s).links = s.links :=
  (@keeps_sideStartup (· ∈ [.regs, .tiles, .diags, .completions, .claims, .waiting, .later, .tests, .raised]) ⟨by decide⟩ ⟨by decide⟩ ⟨by decide⟩
    ⟨by decide⟩ ⟨by decide⟩ ⟨by decide⟩ ⟨by decide⟩ ⟨by decide⟩ ⟨by decide⟩ s s l (keeps_refl _ s)).same .links (by decide)

theorem sideShowtime_links (l : LinkId) (s : State) : (sideShowtime l s).links = s.links :=
  (@keeps_sideShowtime (· ∈ [.regs, .tiles]) ⟨by decide⟩ ⟨by decide⟩ s s l (keeps_refl _ s)).same .links (by decide)

theorem sideRetrain_links (l : LinkId) (s : State) : (sideRetrain l s).links = s.links :=
  (@keeps_sideRetrain (fun k => k ≠ .links) ⟨by decide⟩ ⟨by decide⟩ ⟨by decide⟩ ⟨by decide⟩ ⟨by decide⟩ ⟨by decide⟩ ⟨by decide⟩ ⟨by decide⟩
    ⟨by decide⟩ ⟨by decide⟩ ⟨by decide⟩ ⟨by decide⟩ s s l (keeps_refl _ s)).same .links (by decide)

theorem dropSubPattern_links (l : LinkId) (s : State) : (dropSubPattern l s).links = s.links :=
  (@keeps_dropSubPattern (· ∈ [.regs, .ports]) ⟨by decide⟩ ⟨by decide⟩ s s l (keeps_refl _ s)).same .links (by decide)

theorem restoreStored_links (n p : Nat) (s : State) : (restoreStored n p s).links = s.links :=
  (@keeps_restoreStored (· ∈ [.regs, .pairs, .coef, .seeds]) ⟨by decide⟩ ⟨by decide⟩ ⟨by decide⟩ ⟨by decide⟩ s s n p (keeps_refl _ s)).same
    .links (by decide)

theorem clearMem_links (g mem : Nat) (s : State) : (clearMem g mem s).links = s.links :=
  (@keeps_clearMem (· ∈ [.coef, .seeds]) ⟨by decide⟩ ⟨by decide⟩ s s g mem (keeps_refl _ s)).same .links (by decide)

theorem showPort_links (n : Port) (s : State) : (showPort n s).links = s.links :=
  (@keeps_showPort (· ∈ [.regs]) ⟨by decide⟩ s s n (keeps_refl _ s)).same .links (by decide)

theorem showSub_links (n : Port) (p : Pair) (s : State) : (showSub n p s).links = s.links :=
  (@keeps_showSub (· ∈ [.regs]) ⟨by decide⟩ s s n p (keeps_refl _ s)).same .links (by decide)

theorem drawIdentity_links (s : State) : (drawIdentity s).2.links = s.links :=
  (@keeps_drawIdentity (· ∈ [.free]) ⟨by decide⟩ s s (keeps_refl _ s)).same .links (by decide)

theorem modLink_links_congr {s t : State} (h : t.links = s.links) (l : LinkId) (g : LinkSt → LinkSt) :
    (t.modLink l g).links = (s.modLink l g).links := by
  simp only [State.modLink, State.setLink, State.link, h]

/-! ### G0 (R108, R156, R170) -/

/-- G0 entry writes the link's own record and draws its wait; the peer's identity stands. -/
theorem enterG0One_links (l : LinkId) (s : State) : ∃ (g : LinkSt → LinkSt) (w : Nat),
    (∀ k, (g k).phase = 1 ∧ (g k).peerId = k.peerId ∧ (g k).waitReply = false) ∧
    (enterG0One l s).links = ((s.modLink l g).modLink l (fun k => { k with wait := w })).links := by
  unfold enterG0One
  rcases hdrawn : drawIdentity s with ⟨i, u⟩
  have hu : u.links = s.links := (congrArg (fun x => x.2.links) hdrawn).symm.trans (drawIdentity_links s)
  dsimp -zeta only
  extract_lets s1 s2
  have h2 : s2.links = s1.links :=
    forEach_eq_of_step_eq State.links _ (fun _ _ => by rw [State.setFld_links, State.modPair_links]) _ _
  obtain ⟨g, h1, hg⟩ : ∃ g, s1.links = (s.modLink l g).links ∧ ∀ k, (g k).phase = 1 ∧ (g k).peerId = k.peerId ∧ (g k).waitReply = false :=
    ⟨_, modLink_links_congr hu l _, fun _ => ⟨rfl, rfl, rfl⟩⟩
  obtain ⟨w, -, hwait⟩ := drawSlots_links l s2
  exact ⟨g, w, hg, (((sideStartup_links l _).trans (flushTx_links l _)).trans hwait).trans (modLink_links_congr (h2.trans h1) l _)⟩

theorem enterG0One_link (l : LinkId) (s : State) : ((enterG0One l s).link l).phase = 1 ∧
    ((enterG0One l s).link l).peerId = (s.link l).peerId ∧ ((enterG0One l s).link l).waitReply = false := by
  obtain ⟨g, w, hg, h⟩ := enterG0One_links l s
  rw [State.link_congr h, State.link_modLink, State.link_modLink]
  exact hg (s.link l)

theorem enterG0One_phase (l m : LinkId) (s : State) :
    ((enterG0One m s).link l).phase = 1 ∨ ((enterG0One m s).link l).phase = (s.link l).phase := by
  obtain ⟨g, w, hg, h⟩ := enterG0One_links m s
  have hwait : (((s.modLink m g).modLink m (fun k => { k with wait := w })).link l).phase = ((s.modLink m g).link l).phase := by
    obtain h | h := (s.modLink m g).link_modLink_or l m (fun k => { k with wait := w }) <;> rw [h]
  rw [State.link_congr h, hwait]
  obtain h | h := s.link_modLink_or l m g <;> rw [h]
  · exact .inl (hg _).1
  · exact .inr rfl

theorem clearLink_phase (l m : LinkId) (s : State) : ((clearLink m s).link l).phase = (s.link l).phase := by
  obtain ⟨g, h, hg⟩ := clearLink_links m s
  rw [State.link_congr h]
  obtain h | h := s.link_modLink_or l m g <;> rw [h]
  exact (hg _).1

theorem isUp_eq_false_iff {s : State} {l : LinkId} : isUp s l = false ↔ (s.link l).phase ≠ 7 ∧ (s.link l).phase ≠ 8 := by simp [isUp]

theorem isUp_congr {s t : State} {l : LinkId} (h : (t.link l).phase = (s.link l).phase) : isUp t l = isUp s l := by rw [isUp, h, isUp]

theorem isUp_of_links {s t : State} {l : LinkId} (h : t.links = s.links) : isUp t l = isUp s l :=
  isUp_congr (congrArg LinkSt.phase (State.link_congr h l))

theorem inStartup_of_links {s t : State} (h : t.links = s.links) (l : LinkId) : inStartup t l = inStartup s l := by
  simp only [inStartup, State.link_congr h]

theorem isBreakout_of_links {s t : State} (h : t.links = s.links) (n : Port) : isBreakout t n = isBreakout s n := by
  rw [isBreakout, State.link_congr h, isBreakout]

theorem enterG0One_not_up {l : LinkId} (m : LinkId) {s : State} (h : isUp s l = false) : isUp (enterG0One m s) l = false := by
  obtain hphase | hphase := enterG0One_phase l m s
  · exact isUp_eq_false_iff.mpr (by omega)
  · exact (isUp_congr hphase).trans h

theorem modLink_not_up {g : LinkSt → LinkSt} {l : LinkId} (m : LinkId) {s : State} (hg : ∀ k, (g k).phase ≠ 7 ∧ (g k).phase ≠ 8)
    (h : isUp s l = false) : isUp (s.modLink m g) l = false := by
  rw [isUp_eq_false_iff] at h ⊢
  obtain hlink | hlink := s.link_modLink_or l m g <;> rw [hlink]
  · exact hg _
  · exact h

theorem showForm_links (n : Port) (s : State) : (showPort n (forEach [0, 1, 2, 3] (showSub n) s)).links = s.links :=
  (showPort_links n _).trans (forEach_eq_of_step_eq State.links _ (fun p s => showSub_links n p s) _ s)

/-- No link comes into showtime or a fast retrain by G0 entry, of itself or of another link. -/
theorem enterG0_not_up {l : LinkId} (m : LinkId) {s : State} (h : isUp s l = false) : isUp (enterG0 m s) l = false := by
  have hdown (k : LinkSt) : (changedForm k).phase ≠ 7 ∧ (changedForm k).phase ≠ 8 := by
    show LinkSt.reset.phase ≠ 7 ∧ LinkSt.reset.phase ≠ 8
    decide
  have hparts (ms : List LinkId) {s : State} (h : isUp s l = false) : isUp (forEach ms enterG0One s) l = false :=
    forEach_of_step (P := fun s => isUp s l = false) (fun m _ h => enterG0One_not_up m h) ms h
  unfold enterG0
  extract_lets n s1 s2 last s3 s4
  split
  · split
    · split
      · exact enterG0One_not_up m h
      · exact h
    · rw [isUp_of_links (showForm_links n s2)]
      exact hparts _ (modLink_not_up _ (fun _ => by simp) h)
  · split
    · exact enterG0One_not_up m h
    split
    · exact enterG0One_not_up m h
    · have hcleared : isUp s3 l = false := by
        refine forEach_of_step (P := fun s => isUp s l = false) (fun m s h => ?_) _ h
        rw [isUp_congr (clearLink_phase l m _)]
        exact modLink_not_up (g := fun _ => LinkSt.reset) m (fun _ => by decide) h
      rw [isUp_of_links (showForm_links n s4)]
      exact enterG0One_not_up _ (modLink_not_up (g := fun _ => last) _ (fun _ => hdown _) hcleared)

theorem enterG0_of_port {l : LinkId} {s : State} (hport : l.sub = none) (hform : breakoutSet s l.n = false) :
    enterG0 l s = enterG0One l s := by
  unfold enterG0
  extract_lets n
  rw [if_neg (by simp [n, hform]), hport]

/-- A port enters G0, or takes the BREAKOUT form. -/
theorem enterG0_portLink_phase (n : Port) (s : State) :
    ((enterG0 (portLink n) s).link (portLink n)).phase = 1 ∨ ((enterG0 (portLink n) s).link (portLink n)).phase = 9 := by
  cases hform : breakoutSet s n with
  | false =>
    rw [enterG0_of_port (l := portLink n) rfl hform]
    exact .inl (enterG0One_link _ s).1
  | true =>
    unfold enterG0
    extract_lets n' s1 s2
    rw [if_pos (show breakoutSet s n' = true from hform)]
    show ((showPort n' (forEach [0, 1, 2, 3] (showSub n') s2)).link (portLink n)).phase = 1 ∨
      ((showPort n' (forEach [0, 1, 2, 3] (showSub n') s2)).link (portLink n)).phase = 9
    rw [State.link_congr (showForm_links n' s2)]
    have h1 : (s1.link (portLink n)).phase = 9 := congrArg LinkSt.phase (State.link_modLink s _ _)
    refine forEach_of_step (P := fun s => (s.link (portLink n)).phase = 1 ∨ (s.link (portLink n)).phase = 9) (fun m s h => ?_) _ (.inr h1)
    obtain hentered | hphase := enterG0One_phase (portLink n) m s
    · exact .inl hentered
    · exact h.imp hphase.trans hphase.trans

/-! ### A link that leaves showtime (R224) -/

/-- A link that leaves showtime is down before its cause decides what follows. -/
theorem linkDown_links {l : LinkId} {s : State} (cause : Nat) (hup : isUp s l = true) : ∃ u : State, (u.link l).phase = 0 ∧
    (linkDown l cause s).links = (if cause = 7 ∨ cause = 8 ∨ cause = 0xA then enterG0 l u
      else if cause = 9 then flushTx l u else enterHoldOff l u).links := by
  unfold linkDown
  rw [if_neg (by simp [hup])]
  extract_lets k s1 s2 s3 s4 s5 s6 s7 s8 s9
  have hcounted : s5.links = s3.links := by
    simp only [s5, s4]
    split <;> simp
  have hside : s8.links = s3.links := calc
    s8.links = s7.links := sideLinkDown_links l s7
    _ = (expireAll l (expiryCause cause) (capNotice l s6)).links := showBeds_links l.n _
    _ = (capNotice l s6).links := expireAll_links l _ _
    _ = s6.links := capNotice_links l s6
    _ = s5.links := State.raise_links _ _ _ _
    _ = s3.links := hcounted
  refine ⟨s8, ?_, (showRoute_links l.n _).trans (showLink_links l s9)⟩
  rw [State.link_congr hside, State.link_modLink]

theorem disableLink_phase {l : LinkId} {s : State} (hruns : isUp s l = true ∨ inStartup s l = true) :
    ((disableLink l s).link l).phase = 0 := by
  unfold disableLink
  split
  · next hup =>
    obtain ⟨u, hdown, h⟩ := linkDown_links 9 hup
    rw [State.link_congr (h.trans (flushTx_links l u))]
    exact hdown
  · next hup =>
    rw [if_pos (hruns.resolve_left hup), State.link_congr ((showLink_links l _).trans (flushTx_links l _)), State.link_modLink]

theorem fastRetrainFail_not_up {l : LinkId} {s : State} (cause : Nat) (hphase : (s.link l).phase = 8) :
    isUp (fastRetrainFail l cause s) l = false := by
  unfold fastRetrainFail
  extract_lets s1
  rw [if_neg (by simp [hphase])]
  have h1 : s1.link l = s.link l := (State.raise_link _ _ _ _ _).trans (State.inc_link _ _ _)
  have hup : isUp (s1.modLink l (fun k => { k with lastCause := 0xD })) l = true := by simp [isUp, h1, hphase]
  obtain ⟨u, hdown, h⟩ := linkDown_links 0xA hup
  rw [isUp_of_links h]
  exact enterG0_not_up l (isUp_eq_false_iff.mpr (by omega))

/-! ### The start of a fast retrain (R189, R190) -/

theorem fastAllowed_modLink {g : LinkSt → LinkSt} (l : LinkId) (s : State)
    (hg : ∀ k, (g k).ownId = k.ownId ∧ (g k).peerId = k.peerId) : fastAllowed (s.modLink l g) l = fastAllowed s l := by
  obtain ⟨hown, hpeer⟩ := hg (s.link l)
  simp only [fastAllowed, State.link_modLink, hown, hpeer, State.modLink_pair, State.modLink_flag]

theorem startFast_link (l : LinkId) (f cause restarts : Nat) (s : State) : ((startFast l f cause restarts s).link l).phase = 8 ∧
    ((startFast l f cause restarts s).link l).decided = false ∧ ((startFast l f cause restarts s).link l).frCause = cause ∧
    ((startFast l f cause restarts s).link l).frStage = f := by
  unfold startFast
  extract_lets s1 s2 s3 s4 s5
  have h3 : s3.links = (endExchange l s2).links := forEach_eq_of_step_eq State.links _ (fun p s => by
    rw [restoreStored_links, State.modPair_links]) _ _
  have h4 : s4.links = s3.links := forEach_eq_of_step_eq State.links _ (fun p s => by
    rw [restartGain_links, State.setFld_links]) _ _
  have h5 : s5.links = s4.links := (State.modQueue_links _ _ _).trans (dropSubPattern_links l s4)
  have hshown : (showRoute l.n (sideRetrain l (capNotice l s5))).links = s5.links :=
    ((showRoute_links l.n _).trans (sideRetrain_links l _)).trans (capNotice_links l s5)
  have hbeside : beside l (showRoute l.n (sideRetrain l (capNotice l s5))) = beside l s2 :=
    (beside_congr l (((hshown.trans h5).trans h4).trans h3)).trans (beside_endExchange l s2)
  have h2 : (beside l s2).phase = 8 ∧ (beside l s2).decided = false ∧ (beside l s2).frCause = cause ∧ (beside l s2).frStage = f := by
    rw [beside, State.link_modLink]
    exact ⟨rfl, rfl, rfl, rfl⟩
  rw [← hbeside] at h2
  simpa only [beside, LinkSt.withoutExchanges_phase, LinkSt.withoutExchanges_decided, LinkSt.withoutExchanges_frCause,
    LinkSt.withoutExchanges_frStage] using h2

theorem beginRetrain_of_fast {l : LinkId} {f cause : Nat} {s : State} (hphase : (s.link l).phase ≠ 8) (hfast : fastAllowed s l = true) :
    beginRetrain l f cause false s = startFast l f cause 0 (s.modLink l (fun k => { k with lastRetrain := cause })) := by
  unfold beginRetrain
  extract_lets r s1
  have hr : r = 0 := if_neg hphase
  have hsame : fastAllowed s1 l = fastAllowed s l := fastAllowed_modLink l s fun _ => ⟨rfl, rfl⟩
  have h1 : fastAllowed s1 l = true := hsame.trans hfast
  rw [if_neg (by simp [h1]), if_neg (by omega), hr]

/-! ### ENABLE of a port (R27, R194, R466) -/

theorem not_recovery_of_portAllowed {s : State} {n : Port} (h : portAllowed s n = true) : s.fld PWR_PHASE.PHASE ≠ 3 := by
  simp only [portAllowed, Bool.and_eq_true, bne_iff_ne] at h
  obtain ⟨⟨⟨⟨-, hrecovery⟩, -⟩, -⟩, -⟩ := h
  exact hrecovery

theorem portAllowed_setFld_ENABLE (s : State) (n : Port) (v : Nat) :
    portAllowed (s.setFld (PORT_STARTUP_CFG.ENABLE n) v) n = portAllowed s n := by
  have hbase (a : Nat) (ha : a < 0x10100000) : a ≠ (PORT_STARTUP_CFG.ENABLE n).addr := by
    show a ≠ PORT_STARTUP_CFG n
    simp only [PORT_STARTUP_CFG, portBase]
    omega
  have hreg (a : Nat) (ha : a < 0x10100000) : (s.setFld (PORT_STARTUP_CFG.ENABLE n) v).reg a = s.reg a :=
    State.reg_setFld_other s _ _ _ (hbase a ha)
  have hpower : (s.setFld (PORT_STARTUP_CFG.ENABLE n) v).fld PWR_PHASE.PHASE = s.fld PWR_PHASE.PHASE :=
    State.fld_eq_of_reg_eq (hreg _ (by decide))
  have hfenced : (s.setFld (PORT_STARTUP_CFG.ENABLE n) v).fld CFG_CHECK_STATUS.FENCED = s.fld CFG_CHECK_STATUS.FENCED :=
    State.fld_eq_of_reg_eq (hreg _ (by decide))
  simp only [portAllowed, State.flag, hpower, hfenced, State.setFld_tile]

end Sys2Proof.Machine
end

section
/-! PROOF. Showtime, fast retrain, failures and ENABLE, one clause of the statement after the other. -/
namespace Sys2Proof.Claims
open Sys2Proof Sys2Proof.Machine

section
variable {l : LinkId} {s : State}

theorem showTimeout_fails (hlower : isHigher (s.link l) = false) (hphase : (s.link l).phase = 6) (hwhole : (s.link l).eei.partialFr = false)
    (hnone : (s.link l).farShow = none) (hlate : 6047 < (s.link l).own) :
    ∃ t : State, exec (.showTimeout l) s = .next t ∧ (t.link l).lastCause = 0xB ∧ (t.link l).phase = 10 := by
  obtain ⟨hlast, hheld, -⟩ := startupFail_link (l := l) (cause := 0xB) (s := s) (by omega)
  refine ⟨startupFail l 0xB s, ?_, hlast, hheld⟩
  show execShowTimeout l s = _
  rw [← phaseFail_of_startup (by omega)]
  simp [execShowTimeout, inSequence, seqStage, showLimit, hlower, hphase, hwhole, hnone, hlate]

theorem showtimeEntry_enters {v : Nat} (hphase : (s.link l).phase = 6) (hdecided : (s.link l).decided = true) (hverify : (s.link l).verify = 1)
    (hstage : (s.link l).showStage = some v) (hown : reached (s.link l).own v = true) (hfar : reached (s.link l).far v = true)
    (hpeer : (s.link l).farShow = some v) :
    ∃ t : State, exec (.showtimeEntry l) s = .next t ∧ (t.link l).phase = 7 ∧ (t.link l).consecFail = 0 ∧ (t.link l).limit = false ∧
      (t.link l).fast = false := by
  show ∃ t, execShowtimeEntry l s = .next t ∧ _
  unfold execShowtimeEntry
  extract_lets n k fr us s1 s2 s3 s4 s5 s6 s7 s8 s9 s10 s11
  rw [if_neg (by simp [k, hphase, hdecided, hverify]), show k.showStage = some v from hstage]
  dsimp -zeta only
  rw [if_neg (by simp [k, hown, hfar, hpeer])]
  have hfr : fr = false := by simp [fr, k, hphase]
  have h2 : s2.links = s1.links := forEach_eq_of_step_eq State.links _ (fun _ _ => by rw [State.modPair_links, State.setFld_links]) _ s1
  have h4 : s4.links = s2.links := by simp [s4, s3, hfr]
  have h7 : s7.links = s4.links := by simp [s7, s6, s5, hfr]
  have h8 : s8.links = s7.links := by
    simp only [s8, hfr]
    refine (forEach_eq_of_step_eq State.links _ (fun _ _ => clearMem_links _ _ _) _ _).trans ?_
    rw [State.setFld_links, State.setFld_links]
  have h9 : s9.links = s1.links := ((((State.setFld_links _ _ _).trans h8).trans h7).trans h4).trans h2
  have h11 : ∃ e, s11.link l = { s1.link l with eei := e } := by
    rw [← State.link_congr h9]
    exact ⟨_, (State.modQueue_link _ _ _ _).trans (State.link_modLink s9 l _)⟩
  obtain ⟨e, h11⟩ := h11
  have hbeside : beside l (judgeTransparent l (afterRetrain l (sideShowtime l s11))) = beside l s11 :=
    ((beside_judgeTransparent l _).trans (beside_afterRetrain l _)).trans (beside_congr l (sideShowtime_links l s11))
  have hshown (u : State) : (showRoute n (showLink l (capNotice l u))).links = u.links :=
    ((showRoute_links n _).trans (showLink_links l _)).trans (capNotice_links l u)
  have hentered : (beside l s11).phase = 7 ∧ (beside l s11).consecFail = 0 ∧ (beside l s11).limit = false ∧ (beside l s11).fast = false := by
    rw [beside, h11, State.link_modLink]
    exact ⟨rfl, rfl, rfl, hfr⟩
  rw [← hbeside, ← beside_congr l (hshown _)] at hentered
  refine ⟨_, rfl, ?_⟩
  simpa only [beside, LinkSt.withoutExchanges_phase, LinkSt.withoutExchanges_consecFail, LinkSt.withoutExchanges_limit,
    LinkSt.withoutExchanges_fast] using hentered

theorem fastRetrainStart_begins {cause st : Nat} (hphase : (s.link l).phase = 7)
    (hchanges : (s.link l).changes = [⟨st, .retrain cause false, false, false⟩]) (hstage : reached (s.link l).own st = true)
    (hfast : fastAllowed s l = true) :
    ∃ t : State, exec (.fastRetrainStart l) s = .next t ∧ (t.link l).phase = 8 ∧ (t.link l).decided = false ∧ (t.link l).frCause = cause ∧
      (t.link l).frStage = (s.link l).own := by
  show ∃ t, execFastRetrainStart l s = .next t ∧ _
  unfold execFastRetrainStart
  extract_lets k due u
  have hdue : earliest due = some ⟨st, .retrain cause false, false, false⟩ := by simp [due, k, hchanges, hstage, earliest]
  rw [if_neg (by simp [isUp, hphase]), hdue]
  dsimp -zeta only
  extract_lets full
  have hfull : full = false := by simp [full, k, hchanges]
  have hu : (u.link l).phase = 7 := by rw [State.link_modLink]; exact hphase
  have hsame : fastAllowed u l = fastAllowed s l := fastAllowed_modLink l s fun _ => ⟨rfl, rfl⟩
  refine ⟨_, rfl, ?_⟩
  rw [hfull, beginRetrain_of_fast (by omega) (hsame.trans hfast), State.link_congr (showLink_links l _)]
  exact startFast_link l _ cause 0 _

theorem fastRetrainFail_leaves (cause : Nat) (hphase : (s.link l).phase = 8) :
    ∃ t : State, exec (.fastRetrainFail l cause) s = .next t ∧ (t.link l).phase ≠ 8 ∧ (t.link l).phase ≠ 7 :=
  ⟨fastRetrainFail l cause s, rfl, (isUp_eq_false_iff.mp (fastRetrainFail_not_up cause hphase)).symm⟩

theorem startupFail_holds_off {cause : Nat} (hlo : 1 ≤ cause) (hhi : cause ≤ 0xC) (hstart : 1 ≤ (s.link l).phase)
    (hend : (s.link l).phase ≤ 6) :
    ∃ t : State, exec (.startupFail l cause) s = .next t ∧ (t.link l).lastCause = cause ∧ (t.link l).phase = 10 ∧
      (t.link l).consecFail = min ((s.link l).consecFail + 1) 255 := by
  obtain ⟨hlast, hheld, -⟩ := startupFail_link (cause := cause) ⟨hstart, hend⟩
  refine ⟨startupFail l cause s, ?_, hlast, hheld, (startupFail_counts ⟨hstart, hend⟩).1⟩
  show execStartupFail l cause s = _
  rw [execStartupFail, if_neg (by omega), if_neg (by omega), if_pos ⟨hlo, hhi⟩]

theorem holdOffExpire_enters_g0 (hphase : (s.link l).phase = 10) (henabled : portEnabled s l.n = true) (hclock : tileClocked s l.n = true)
    (hform : breakoutSet s l.n = false) (hport : l.sub = none) :
    ∃ t : State, exec (.holdOffExpire l) s = .next t ∧ (t.link l).phase = 1 ∧ (t.link l).peerId = (s.link l).peerId ∧
      (t.link l).waitReply = false := by
  refine ⟨showLink l (enterG0 l s), ?_, ?_⟩
  · show execHoldOffExpire l s = _
    simp [execHoldOffExpire, hphase, henabled, hclock]
  · rw [State.link_congr (showLink_links l _), enterG0_of_port hport hform]
    exact enterG0One_link l s

end

section
variable {n : Port} {s : State}

theorem startupEnableSet_starts (hallowed : portAllowed s n = true) (hrest : (s.link (portLink n)).phase = 0) :
    ∃ t : State, exec (.startupEnableSet n) s = .next t ∧
      ((t.link (portLink n)).phase = 1 ∨ (t.link (portLink n)).phase = 9 ∨ (t.link (portLink n)).phase = 10) := by
  let enabled := s.setFld (PORT_STARTUP_CFG.ENABLE n) 1
  have hflag : enabled.flag (PORT_STARTUP_CFG.ENABLE n) = true := State.flag_setFld_one s _ (Nat.le_refl 31) (by decide : 31 < 32)
  have hmay : portEnabled enabled n = true := by simp [portEnabled, hflag, enabled, portAllowed_setFld_ENABLE, hallowed]
  have hdown : (activeLinks enabled n).all (fun l => (enabled.link l).phase == 0) = true := by
    simp [enabled, activeLinks, isBreakout, hrest]
  have hwrite : writeEnable n true s = startPort n enabled := by
    rw [writeEnable, if_neg (by decide), if_neg (not_recovery_of_portAllowed hallowed)]
  refine ⟨startPort n enabled, congrArg Host.Outcome.next hwrite, ?_⟩
  unfold startPort
  rw [if_pos (by rw [hmay, hdown]; rfl)]
  extract_lets u
  split
  · have hshown : (forEach (portLinks n) showLink (enterG0 (portLink n) u)).links = (enterG0 (portLink n) u).links :=
      forEach_eq_of_step_eq State.links _ showLink_links _ _
    rw [State.link_congr hshown]
    exact (enterG0_portLink_phase n u).imp id .inl
  · rw [State.link_congr (showLink_links _ _), enterHoldOff_phase]
    exact .inr (.inr rfl)

theorem startupEnableClear_stops (hform : isBreakout s n = false) (hruns : isUp s (portLink n) = true ∨ inStartup s (portLink n) = true) :
    ∃ t : State, exec (.startupEnableClear n) s = .next t ∧ (t.link (portLink n)).phase = 0 := by
  let u := s.setFld (PORT_STARTUP_CFG.ENABLE n) 0
  have hlinks : u.links = s.links := State.setFld_links _ _ _
  have hu : isBreakout u n = false := (isBreakout_of_links hlinks n).trans hform
  rw [← isUp_of_links hlinks, ← inStartup_of_links hlinks] at hruns
  refine ⟨disableLink (portLink n) u, ?_, disableLink_phase hruns⟩
  have hactive : activeLinks u n = [portLink n] := by simp [activeLinks, hu]
  have hstop : stopPort n u = forEach [portLink n] disableLink u := by simp [stopPort, hu, hactive]
  exact congrArg Host.Outcome.next hstop

end

/-- Settles O18, clause by clause: what follows an entry or a failure in its step leaves the link where the clause has it. -/
theorem showtimeAndFailures : Obligations.ShowtimeAndFailures :=
  ⟨fun _ _ => showTimeout_fails, fun _ _ _ => showtimeEntry_enters, fun _ _ _ _ => fastRetrainStart_begins,
    fun _ cause _ => fastRetrainFail_leaves cause, fun _ _ _ => startupFail_holds_off, fun _ _ => holdOffExpire_enters_g0,
    fun _ _ => startupEnableSet_starts, fun _ _ => startupEnableClear_stops⟩

end Sys2Proof.Claims
end

section
/-! SUPPORT. The counts of a link while it hears a waymark symbol: what its pairs receive, what the comparison of counts makes of them, and what
follows once the far count is taken. -/
namespace Sys2Proof.Machine

/-! ### What a link holds of the far stage (R69, R156, R199) -/

/-- The far count of a link, whether it is synchronised, and the identities that say which end is the higher. -/
def LinkSt.counts (k : LinkSt) : Nat × Bool × Nat × Nat := (k.far, k.synced, k.ownId, k.peerId)

/-- The same of a link in a state. -/
def countsOf (l : LinkId) (s : State) : Nat × Bool × Nat × Nat := (s.link l).counts

theorem countsOf_congr {s t : State} (l : LinkId) (h : t.links = s.links) : countsOf l t = countsOf l s := by
  rw [countsOf, State.link_congr h, countsOf]

theorem countsOf_modLink {g : LinkSt → LinkSt} (l : LinkId) (s : State) (hg : ∀ k, (g k).counts = k.counts := by exact fun _ => rfl) :
    countsOf l (s.modLink l g) = countsOf l s := by
  rw [countsOf, State.link_modLink, hg, countsOf]

/-- What messages and exchanges of tables leave of a record, they leave of its counts. -/
theorem countsOf_of_beside {l : LinkId} {s t : State} (h : beside l t = beside l s) : countsOf l t = countsOf l s := (congrArg LinkSt.counts h :)

theorem far_of_countsOf {l : LinkId} {s t : State} (h : countsOf l t = countsOf l s) : (t.link l).far = (s.link l).far := congrArg Prod.fst h

theorem synced_of_countsOf {l : LinkId} {s t : State} (h : countsOf l t = countsOf l s) : (t.link l).synced = (s.link l).synced :=
  congrArg (·.2.1) h

theorem isHigher_of_countsOf {l : LinkId} {s t : State} (h : countsOf l t = countsOf l s) : isHigher (t.link l) = isHigher (s.link l) :=
  congrArg (fun c : Nat × Bool × Nat × Nat => decide (c.2.2.2 < c.2.2.1)) h

/-! ### What a pair receives (R100, R105, R200) -/

theorem countsOf_takeAck (l : LinkId) (p ack : Nat) (s : State) : countsOf l (takeAck l p ack s) = countsOf l s := by
  unfold takeAck
  extract_lets outs rest gone s1
  have h1 : countsOf l s1 = countsOf l s := countsOf_congr l (State.modPair_links _ _ _ _)
  split
  · split
    · exact (countsOf_modLink l s1).trans h1
    · exact h1
  · rfl

theorem countsOf_deliver (l : LinkId) (p : Nat) (m : Msg) (s : State) : countsOf l (deliver l p m s) = countsOf l s := by
  unfold deliver
  extract_lets id
  split
  · split
    · rfl
    · exact countsOf_modLink l s
  · exact countsOf_modLink l s

theorem countsOf_acceptSeq (l : LinkId) (p : Nat) (m : Msg) (s : State) : countsOf l (acceptSeq l p m s) = countsOf l s := by
  unfold acceptSeq
  extract_lets q d s1
  have h1 : countsOf l s1 = countsOf l s := countsOf_congr l (State.modPair_links _ _ _ _)
  split
  · split
    · exact h1
    · exact (countsOf_deliver l p m s1).trans h1
  split
  · rfl
  split
  · split
    · rfl
    · exact (countsOf_deliver l p m _).trans (countsOf_congr l (State.modPair_links _ _ _ _))
  · rfl

theorem countsOf_receivePair (l : LinkId) (r : Heard) (s : State) : countsOf l (receivePair l r s) = countsOf l s := by
  unfold receivePair
  extract_lets n p mute s1 s2 m s3
  have h1 : countsOf l s1 = countsOf l s := countsOf_congr l (State.modPair_links _ _ _ _)
  have h2 : countsOf l s2 = countsOf l s1 := countsOf_congr l (forEach_eq_of_step_eq State.links _ (fun _ _ => State.setReg_links _ _ _) _ s1)
  have h3 : countsOf l s3 = countsOf l s := (countsOf_takeAck l p _ s2).trans (h2.trans h1)
  split
  · exact countsOf_congr l ((State.modPair_links _ _ _ _).trans (State.inc_links _ _))
  split
  · exact h1
  split
  · exact (countsOf_congr l (State.inc_links _ _)).trans h1
  split
  · exact h2.trans h1
  split
  · exact (countsOf_acceptSeq l p m s3).trans h3
  split
  · exact (countsOf_deliver l p m s3).trans h3
  · exact h3

theorem countsOf_receivePairs (l : LinkId) (hs : List Heard) (s : State) : countsOf l (forEach hs (receivePair l) s) = countsOf l s :=
  forEach_eq_of_step_eq (countsOf l) _ (countsOf_receivePair l) hs s

/-! ### Counts compared (R201) -/

theorem countsOf_sendPort (l : LinkId) (code : Nat) (stage : Option Nat) (arg : Nat) (s : State) :
    countsOf l (sendPort l code stage arg s) = countsOf l s := by rw [sendPort, countsOf_modLink]

theorem countsOf_agree (l : LinkId) (stage : Nat) (kind : ChangeKind) (s : State) : countsOf l (agree l stage kind s) = countsOf l s := by
  rw [agree, countsOf_modLink]

theorem countsOf_requestRetrain (l : LinkId) (cause : Nat) (s : State) : countsOf l (requestRetrain l cause s) = countsOf l s := by
  unfold requestRetrain
  extract_lets k unsent st s1
  have hbroken : countsOf l s1 = countsOf l s := by
    obtain ⟨e, h⟩ := eeiBreak_link l s
    rw [countsOf, h, countsOf]
    rfl
  split
  · rfl
  split
  · split
    · exact countsOf_modLink l s
    · rfl
  · rfl
  split
  · rfl
  · rw [countsOf_agree, countsOf_sendPort, hbroken]

theorem countsOf_compareCount (l : LinkId) (run c : Nat) (s : State) : countsOf l (compareCount l run c s) = countsOf l s := by
  unfold compareCount
  extract_lets k wrong d s1 s2
  have h1 : countsOf l s1 = countsOf l s := by
    simp only [s1]
    exact countsOf_modLink l s
  have h2 : countsOf l s2 = countsOf l s := by
    refine Eq.trans ?_ h1
    simp only [s2]
    split
    · split
      · rfl
      · exact (countsOf_sendPort l _ _ _ _).trans (countsOf_modLink l s1)
    · exact countsOf_congr l ((State.raise_links _ _ _ _).trans (State.inc_links _ _))
  split
  · exact countsOf_modLink l s
  split
  · exact (countsOf_requestRetrain l 5 _).trans ((countsOf_modLink l s2).trans h2)
  · exact h2

theorem countsOf_compareAll (l : LinkId) (ms : List (Nat × Msg)) (run : Nat) (s : State) :
    countsOf l (compareAll l ms run s).2 = countsOf l s := by
  induction ms generalizing run s with
  | nil => rfl
  | cons x ms ih => exact (ih _ _).trans (countsOf_compareCount l run _ s)

/-- The lower end takes the count of one message after the other. -/
theorem compareAll_of_lower {l : LinkId} (ms : List (Nat × Msg)) (run : Nat) {s : State} (hlower : isHigher (s.link l) = false) :
    (compareAll l ms run s).1 = ms.foldl (fun c x => carriedCount c x.2) run := by
  induction ms generalizing run s with
  | nil => rfl
  | cons x ms ih =>
    simp only [compareAll, hlower, List.foldl_cons]
    exact ih _ ((isHigher_of_countsOf (countsOf_compareCount l run _ s)).trans hlower)

/-! ### What follows once the count is taken (R53, R207, R305) -/

theorem countsOf_hearPattern (l : LinkId) (m : Msg) (s : State) : countsOf l (hearPattern l m s) = countsOf l s := by
  unfold hearPattern
  extract_lets n ps old mask fresh s1 s2 s3 keep s4
  have h1 : s1.links = s.links := forEach_eq_of_step_eq State.links _ (fun _ _ => State.modPair_links _ _ _ _) ps s
  have h2 : s2.links = s1.links := forEach_eq_of_step_eq State.links _ (fun _ _ => State.modPair_links _ _ _ _) fresh s1
  have h4 : countsOf l s4 = countsOf l s := by
    refine countsOf_congr l (Eq.trans ?_ (h2.trans h1))
    simp only [s4, s3, State.setFld_links, State.modPort_links]
  split
  · exact h4
  · exact (countsOf_of_beside (beside_judgeTransparent l s4)).trans h4

theorem countsOf_modEei (l : LinkId) (g : EeiSt → EeiSt) (s : State) : countsOf l (modEei l g s) = countsOf l s := by
  rw [modEei, countsOf_modLink]

theorem countClips_links (n : Port) (p : Nat) (ys : List LineSymbol) (s : State) : (countClips n p ys s).links = s.links :=
  (@keeps_countClips (· ∈ [.regs]) ⟨by decide⟩ s s n p ys (keeps_refl _ s)).same .links (by decide)

theorem countsOf_startAlerts (l : LinkId) (s : State) : countsOf l (startAlerts l s) = countsOf l s := by
  have hsent (s : State) : (forEach (maskPairs (s.link l).carry) (fun p u =>
      sendTraining l 0 (wakeTraining (s.link l).eei.depth) p
        ((countClips l.n p (alertSymbols u l.n p) u).emit (.alert l p (alertSymbols u l.n p)))) s).links = s.links :=
    (forEach_eq_of_step_eq State.links _ (fun p u => (sendTraining_links l 0 _ p _).trans
      ((State.emit_links _ _).trans (countClips_links _ _ _ u))) _ s)
  unfold startAlerts
  extract_lets e s1
  split
  · exact (countsOf_sendPort l _ _ _ _).trans ((countsOf_modEei l _ s1).trans (countsOf_congr l (hsent s)))
  · rfl

theorem countsOf_beginWake (l : LinkId) (cause : Nat) (s : State) : countsOf l (beginWake l cause s) = countsOf l s :=
  (countsOf_startAlerts l _).trans ((countsOf_congr l (State.setFld_links _ _ _)).trans (countsOf_modEei l _ s))

theorem countsOf_resumeAtStage (l : LinkId) (s : State) : countsOf l (resumeAtStage l s) = countsOf l s := by
  unfold resumeAtStage
  extract_lets k
  split
  · exact (countsOf_congr l (State.modQueue_links _ _ _)).trans (countsOf_modEei l _ s)
  · rfl

theorem countsOf_cancelProposal (l : LinkId) (q : Proposal) (s : State) : countsOf l (cancelProposal l q s) = countsOf l s := by
  unfold cancelProposal
  extract_lets s1
  have h1 : countsOf l s1 = countsOf l s := by
    simp only [s1]
    exact countsOf_modLink l s
  refine Eq.trans ?_ h1
  split
  · exact countsOf_congr l (dropRxSwap_links _ _ _)
  split
  · obtain ⟨waiting, withdrawn, h⟩ := dropRxTables_link l s1
    rw [countsOf, h, countsOf]
    rfl
  split
  · exact countsOf_of_beside (beside_endExchange l s1)
  split
  · exact countsOf_modLink l s1
  · rfl

theorem countsOf_lapseSwaps (l : LinkId) (s : State) : countsOf l (lapseSwaps l s) = countsOf l s :=
  forEach_eq_of_step_eq (countsOf l) _ (countsOf_cancelProposal l) _ s

/-- The far stage's data symbols follow, and swaps not accepted by then lapse: the counts stand. -/
theorem countsOf_nextStage (l : LinkId) (g : QueueSt → QueueSt) (s : State) :
    countsOf l (lapseSwaps l (resumeAtStage l (s.modQueue l g))) = countsOf l s := by
  rw [countsOf_lapseSwaps, countsOf_resumeAtStage, countsOf_congr l (State.modQueue_links _ _ _)]

/-! ### A waymark symbol heard (R199, R201) -/

/-- The pairs whose messages a link counts by. -/
def countingPairs (l : LinkId) (k : LinkSt) : List Nat := if k.phase = 7 then maskPairs k.carryRx else linkPairs l

theorem countingPairs_of_showtime {l : LinkId} {k : LinkSt} (hphase : k.phase = 7) : countingPairs l k = maskPairs k.carryRx := if_pos hphase

/-- The count of the first good message of a symbol. -/
def firstCount (k : LinkSt) (m : Msg) : Nat := if k.synced then carriedCount (stagePlus k.far 1) m else m.stage

theorem firstCount_of_synced {k : LinkSt} (m : Msg) (hsynced : k.synced = true) :
    firstCount k m = carriedCount (stagePlus k.far 1) m := if_pos hsynced

/-- What the counts come to where a message passes: the higher end takes the first one's, the lower end where it compares the last one's. -/
theorem hearSymbol_of_good {l : LinkId} {hs : List Heard} {s : State} {p : Nat} {m : Msg} {more : List (Nat × Msg)}
    (hgood : goodMessages hs (countingPairs l (s.link l)) = (p, m) :: more) :
    ((hearSymbol l hs s).link l).synced = true ∧ ((hearSymbol l hs s).link l).far =
      if isHigher (s.link l) then firstCount (s.link l) m
      else if ((s.link l).phase = 7 ∨ (s.link l).phase = 8) ∧ (s.link l).synced then
        (compareAll l ((p, m) :: more) (stagePlus (s.link l).far 1) (forEach hs (receivePair l) s)).1
      else firstCount (s.link l) m := by
  unfold hearSymbol
  extract_lets k s1 ps good run e s2
  change good = _ at hgood
  clear_value good
  subst hgood
  rw [synced_of_countsOf (countsOf_nextStage l _ s2), far_of_countsOf (countsOf_nextStage l _ s2)]
  dsimp -zeta only [s2]
  extract_lets first r c s3 s4 near
  have hr : r.1 = if (k.phase = 7 ∨ k.phase = 8) ∧ k.synced then (compareAll l ((p, m) :: more) run s1).1 else first := by
    simp only [r]
    split <;> rfl
  have htaken : (s3.link l).synced = true ∧ (s3.link l).far = c := by simp only [s3, State.link_modLink, and_self]
  have hheard (b : Prop) [Decidable b] : countsOf l (if b then beginWake l 6 s4 else s4) = countsOf l s3 := by
    refine Eq.trans ?_ (countsOf_hearPattern l m s3)
    split
    · exact countsOf_beginWake l 6 s4
    · rfl
  rw [synced_of_countsOf (hheard _), far_of_countsOf (hheard _), htaken.1, htaken.2]
  refine ⟨rfl, ?_⟩
  simp only [c, hr]
  rfl

/-- Where in showtime none passes, the far stage is counted on. -/
theorem hearSymbol_of_none {l : LinkId} {hs : List Heard} {s : State} (hphase : (s.link l).phase = 7)
    (hnone : goodMessages hs (countingPairs l (s.link l)) = []) : ((hearSymbol l hs s).link l).far = stagePlus (s.link l).far 1 := by
  unfold hearSymbol
  extract_lets k s1 ps good run e s2
  change good = _ at hnone
  clear_value good
  subst hnone
  have hcounted : (s2.link l).far = run := by
    simp only [s2, k, hphase, true_or, if_true, State.link_modLink]
  exact (far_of_countsOf (countsOf_nextStage l _ s2)).trans hcounted

/-- The count nearest another by a low byte ends in that byte and lies from 128 below to 127 above. -/
theorem nearestCount_spec {now : Nat} (run : Nat) (hnow : now < 256) :
    nearestCount run now % 256 = now ∧ ((nearestCount run now : Int) - run + 128) % 2 ^ 32 < 256 := by
  unfold nearestCount stagePlus
  extract_lets d
  split <;> omega

end Sys2Proof.Machine
end

section
/-! PROOF. The far count after a waymark symbol (O11). -/
namespace Sys2Proof.Claims
open Sys2Proof Sys2Proof.Machine

section
variable {l : LinkId} {hs : List Heard} {s : State} {p : Nat} {m : Msg} {more : List (Nat × Msg)}

theorem waymarkSymbolRx_hears {rx : List RxWindow} (hfrom : 4 ≤ (s.link l).phase) (hto : (s.link l).phase ≤ 8) :
    exec (.waymarkSymbolRx l rx) s = .next (showLink l (hearSymbol l (rxWaymark l rx s).1 (rxWaymark l rx s).2)) := by
  show execWaymarkSymbolRx l rx s = _
  rw [execWaymarkSymbolRx, if_neg (by simp [hfrom, hto])]

theorem higher_takes_first (hphase : (s.link l).phase = 7) (hsynced : (s.link l).synced = true) (hhigher : isHigher (s.link l) = true)
    (hgood : goodMessages hs (maskPairs (s.link l).carryRx) = (p, m) :: more) :
    ((hearSymbol l hs s).link l).far = carriedCount (stagePlus (s.link l).far 1) m := by
  rw [← countingPairs_of_showtime (l := l) hphase] at hgood
  rw [(hearSymbol_of_good hgood).2, if_pos hhigher, firstCount_of_synced m hsynced]

theorem lower_takes_each (hphase : (s.link l).phase = 7) (hsynced : (s.link l).synced = true) (hlower : isHigher (s.link l) = false)
    (hgood : goodMessages hs (maskPairs (s.link l).carryRx) = (p, m) :: more) :
    ((hearSymbol l hs s).link l).far =
      more.foldl (fun c x => carriedCount c x.2) (carriedCount (stagePlus (s.link l).far 1) m) := by
  rw [← countingPairs_of_showtime (l := l) hphase] at hgood
  rw [(hearSymbol_of_good hgood).2, if_neg (by simp [hlower]), if_pos ⟨.inl hphase, hsynced⟩,
    compareAll_of_lower _ _ ((isHigher_of_countsOf (countsOf_receivePairs l hs s)).trans hlower), List.foldl_cons]

theorem unsynced_takes_stage (hphase : (s.link l).phase = 4) (hsynced : (s.link l).synced = false)
    (hgood : goodMessages hs (linkPairs l) = (p, m) :: more) :
    ((hearSymbol l hs s).link l).far = m.stage ∧ ((hearSymbol l hs s).link l).synced = true := by
  have hpairs : countingPairs l (s.link l) = linkPairs l := if_neg (by omega)
  have hfirst : firstCount (s.link l) m = m.stage := if_neg (by simp [hsynced])
  obtain ⟨hmarked, hfar⟩ := hearSymbol_of_good (hpairs ▸ hgood)
  rw [if_neg (c := _ ∧ _) (by simp [hsynced]), hfirst, ite_self] at hfar
  exact ⟨hfar, hmarked⟩

end

/-- Settles O11, clause by clause: the count taken from the messages stands through all that hearing the symbol brings with it. -/
theorem theFirstGoodMessageGivesTheFarCount : Obligations.TheFirstGoodMessageGivesTheFarCount :=
  ⟨fun _ _ _ => waymarkSymbolRx_hears, fun _ _ _ _ _ _ => higher_takes_first, fun _ _ _ _ _ _ => lower_takes_each,
    fun _ _ _ hphase hnone => hearSymbol_of_none hphase (countingPairs_of_showtime hphase ▸ hnone),
    fun _ _ _ _ _ _ => unsynced_takes_stage, fun run _ => nearestCount_spec run⟩

end Sys2Proof.Claims
end

section
/-! SUPPORT. What the steps of a rate change make of a link's record. -/
namespace Sys2Proof.Machine

/-! ### Rate changes asked for, declined and applied (R205, R211 to R213) -/

theorem awaitReply_links (l : LinkId) (s : State) : (awaitReply l s).links = s.links :=
  forEach_eq_of_step_eq State.links _ (fun _ _ => State.modPair_links _ _ _ _) _ s

theorem clearTriggers_link (l : LinkId) (s : State) : (clearTriggers l s).link l =
    { s.link l with rateTrig := false, rateAsk := false, downRun := 0, upRun := 0 } := State.link_modLink s l _

theorem endRate_link (l : LinkId) (s : State) : (endRate l s).link l = { s.link l with rateWait := none } := State.link_modLink s l _

theorem endSwap_links (n p : Nat) (s : State) : (endSwap n p s).links = s.links := by rw [endSwap, State.setFld_links, State.modPair_links]

theorem histFlags_links (l : LinkId) (b : Nat) (s : State) : (histFlags l b s).links = s.links :=
  forEach_eq_of_step_eq State.links _ (fun p s => histFlag_links l.n p b s) _ s

/-- A declined change waits for nothing, holds off for HOLDOFF stages and at least 4, and leaves the other proposals. -/
theorem rateDeclined_link (l : LinkId) (s : State) : ∃ waiting withdrawn hold, 4 ≤ hold ∧ (rateDeclined l s).link l =
    { s.link l with waiting := waiting, withdrawn := withdrawn, rateWait := none, rateHold := hold } := by
  obtain ⟨waiting, withdrawn, h⟩ := dropRxTables_link l s
  rw [rateDeclined, State.link_modLink, h]
  exact ⟨_, _, _, Nat.le_max_left 4 _, rfl⟩

theorem judgeStreams_link (l : LinkId) (s : State) : ∃ low, (judgeStreams l s).link l = { s.link l with capacityLow := low } := by
  rw [judgeStreams, State.link_modLink]
  exact ⟨_, rfl⟩

/-- The stream that the direction carries from now on; the changes stand. -/
theorem setStream_streamOf (l : LinkId) (d : Dir) (x : Nat) (s : State) :
    streamOf ((setStream l d x s).link l) d = x ∧ ((setStream l d x s).link l).changes = (s.link l).changes := by
  rw [setStream, State.link_modLink]
  cases d <;> exact ⟨rfl, rfl⟩

/-- The change that is due for a direction, taken out; its stream is the direction's. -/
theorem streamOf_after_change (l : LinkId) (d : Dir) (c : Change) (x : Nat) (s : State) :
    let t := judgeStreams l (setStream l d x (swapBanks l d (dropChange l c s)))
    streamOf (t.link l) d = x ∧ c ∉ (t.link l).changes := by
  intro t
  obtain ⟨low, hjudged⟩ := judgeStreams_link l (setStream l d x (swapBanks l d (dropChange l c s)))
  obtain ⟨hstream, hchanges⟩ := setStream_streamOf l d x (swapBanks l d (dropChange l c s))
  rw [State.link_congr (swapBanks_links l d _), dropChange_link] at hchanges
  refine ⟨Eq.trans ?_ hstream, ?_⟩
  · simp only [t, hjudged]
    cases d <;> rfl
  · simp only [t, hjudged, hchanges]
    simp

end Sys2Proof.Machine
end

section
/-! PROOF. The statement about rate changes (O27). -/
namespace Sys2Proof.Claims
open Sys2Proof Sys2Proof.Machine

section
variable {l : LinkId} {s : State}

/-! ### A trigger that is due (R211) -/

/-- A trigger is due and nothing of the link stands in its way. -/
def TriggerFree (l : LinkId) (s : State) : Prop :=
  (s.link l).phase = 7 ∧ (s.link l).eei.inDepth = false ∧ rateBusy (s.link l) = false ∧ (s.link l).rateHold = 0 ∧ rateDue s l = true ∧
    (linkPairs l).any (fun p => swapBusy s l p) = false ∧ faultBusy (s.link l) = false

/-- Then none of what holds a trigger back does. -/
theorem TriggerFree.not_held (h : TriggerFree l s) : ((s.link l).phase != 7 || (s.link l).eei.inDepth || rateBusy (s.link l) ||
    (s.link l).rateHold != 0 || !rateDue s l || (linkPairs l).any (fun p => swapBusy s l p) || faultBusy (s.link l)) = false := by
  obtain ⟨hphase, hawake, hbusy, hhold, hdue, hswaps, hfault⟩ := h
  rw [hphase, hawake, hbusy, hhold, hdue, hswaps, hfault]
  rfl

theorem rateTrigger_clears {x : Nat} {ts : List (Nat × List Nat)} (hfree : TriggerFree l s) (hbest : bestTier s l = some (x, ts))
    (hsame : x = (s.link l).streamRx ∨ l.sub.isSome = true) :
    ∃ t : State, exec (.rateTrigger l) s = .next t ∧
      (t.link l).rateAsk = false ∧ (t.link l).rateTrig = false ∧ (t.link l).downRun = 0 ∧ (t.link l).upRun = 0 := by
  refine ⟨clearTriggers l s, ?_, by simp only [clearTriggers_link, and_self]⟩
  show execRateTrigger l s = _
  simp only [execRateTrigger, hfree.not_held, hbest, Bool.false_eq_true, if_false]
  exact if_pos (by simpa using hsame)

theorem rateTrigger_waits {x : Nat} {ts : List (Nat × List Nat)} (hfree : TriggerFree l s) (hbest : bestTier s l = some (x, ts))
    (hother : x ≠ (s.link l).streamRx) (hport : l.sub = none) (hnone : retrainAgreed (s.link l) = none) :
    ∃ t : State, exec (.rateTrigger l) s = .next t ∧ (t.link l).rateWait = some x := by
  refine ⟨showLink l (beginEntries l x ts s), ?_, by rw [State.link_congr (showLink_links l _), beginEntries_link]⟩
  show execRateTrigger l s = _
  simp only [execRateTrigger, hfree.not_held, hbest, hother, hport, hnone]
  rfl

theorem rateTrigger_asks (hfree : TriggerFree l s) (hbest : bestTier s l = none) (hmay : MayAsk (s.link l)) :
    ∃ t : State, exec (.rateTrigger l) s = .next t ∧ RetrainAsked 7 l s t := by
  refine ⟨showLink l (requestRetrain l 7 s), ?_, (retrainAsked_of_mayAsk hmay (by decide)).congr (showLink_links l _)⟩
  show execRateTrigger l s = _
  simp only [execRateTrigger, hfree.not_held, hbest, Bool.false_eq_true, if_false]

/-! ### Proposals sent and answered (R106, R212) -/

theorem rateProposeSend_sends {w : Nat} (hphase : (s.link l).phase = 7) (hdone : allEntriesDone s l = true)
    (hwait : (s.link l).rateWait = some w) (htier : w ≤ 3) (hswap : swapAgreed (s.link l) = false) :
    ∃ t : State, exec (.rateProposeSend l) s = .next t ∧
      (⟨0x20, none, w, true⟩ : WMsg) ∈ (t.link l).waiting ∧ (t.link l).rateWait = some w := by
  refine ⟨showLink l (sendPort l 0x20 none w (awaitReply l s)), ?_, ?_⟩
  · show execRateProposeSend l s = _
    simp [execRateProposeSend, hphase, hdone, hwait, htier, hswap]
  · rw [State.link_congr (showLink_links l _)]
    refine ⟨mem_waiting_sendPort l _ _ _ _, ?_⟩
    rw [sendPort_link, State.link_congr (awaitReply_links l s)]
    exact hwait

variable {p : Pair} {m : Msg}

theorem ratePropose_declined {r : Nat} (hphase : (s.link l).phase = 7)
    (hreason : rateDeclineReason (consume l p m s) l (m.arg % 4) (msgStage m) = some r) :
    ∃ t : State, exec (.ratePropose l p m) s = .next t ∧
      (⟨0x22, some (msgStage m), r, true⟩ : WMsg) ∈ (t.link l).waiting ∧ (t.link l).changes = (s.link l).changes := by
  have hphase1 : ((consume l p m s).link l).phase = 7 := by rw [consume_link]; exact hphase
  refine ⟨showLink l ((sendPort l 0x22 (some (msgStage m)) r (dropTxTables l (consume l p m s))).inc (PORT_RATE_DECLINES l.n)), ?_, ?_⟩
  · show execRatePropose l p m s = _
    simp only [execRatePropose, hphase1, hreason]
    rfl
  · rw [State.link_congr (showLink_links l _), State.inc_link]
    refine ⟨mem_waiting_sendPort l _ _ _ _, ?_⟩
    rw [sendPort_link, State.link_congr (dropTxTables_links l _), consume_link]

theorem ratePropose_accepted (hphase : (s.link l).phase = 7)
    (hreason : rateDeclineReason (consume l p m s) l (m.arg % 4) (msgStage m) = none) :
    ∃ t : State, exec (.ratePropose l p m) s = .next t ∧ (⟨0x21, some (msgStage m), 0, true⟩ : WMsg) ∈ (t.link l).waiting ∧
      (⟨msgStage m, .rate (m.arg % 4) .tx, false, true⟩ : Change) ∈ (t.link l).changes := by
  have hphase1 : ((consume l p m s).link l).phase = 7 := by rw [consume_link]; exact hphase
  show ∃ t, execRatePropose l p m s = .next t ∧ _
  simp only [execRatePropose, hphase1, hreason]
  refine ⟨_, rfl, ?_⟩
  rw [State.link_congr ((showLink_links l _).trans (capAgree_links l _ _ _))]
  refine ⟨?_, mem_changes_agree l _ (.rate (m.arg % 4) .tx) _⟩
  rw [agree_link]
  dsimp only
  exact mem_waiting_sendPort l _ _ _ _

/-! ### Replies taken (R212, R213) -/

theorem rateAccept_agrees {q : Proposal} (hq : proposalAt (s.link l) 0x20 (msgStage m) = some q) (hfree : agreedAt (s.link l) q.stage = false) :
    ∃ t : State, exec (.rateAccept l p m) s = .next t ∧
      (⟨q.stage, .rate (q.arg % 4) .rx, true, false⟩ : Change) ∈ (t.link l).changes ∧ q ∉ (t.link l).proposals := by
  have hq1 : proposalAt ((consume l p m s).link l) 0x20 (msgStage m) = some q := by rw [consume_link]; exact hq
  have hdrop := dropProposal_link l q (consume l p m s)
  have hfree1 : agreedAt ((dropProposal l q (consume l p m s)).link l) q.stage = false := by rw [hdrop, consume_link]; exact hfree
  refine ⟨showLink l (agree l q.stage (.rate (q.arg % 4) .rx) (dropProposal l q (consume l p m s))), ?_, ?_⟩
  · show execRateAccept l p m s = _
    simp only [execRateAccept, hq1, hfree1]
    rfl
  · rw [State.link_congr (showLink_links l _)]
    refine ⟨mem_changes_agree l _ (.rate (q.arg % 4) .rx) _, ?_⟩
    rw [agree_link, hdrop]
    exact not_mem_dropped q _

theorem rateDecline_holds_off {q : Proposal} (hq : proposalAt (s.link l) 0x20 (msgStage m) = some q) :
    ∃ t : State, exec (.rateDecline l p m) s = .next t ∧
      (t.link l).rateWait = none ∧ 4 ≤ (t.link l).rateHold ∧ q ∉ (t.link l).proposals := by
  have hq1 : proposalAt ((consume l p m s).link l) 0x20 (msgStage m) = some q := by rw [consume_link]; exact hq
  obtain ⟨waiting, withdrawn, hold, hfour, hdeclined⟩ :=
    rateDeclined_link l ((dropProposal l q (consume l p m s)).inc (PORT_RATE_DECLINES l.n))
  rw [State.inc_link, dropProposal_link] at hdeclined
  refine ⟨showLink l (rateDeclined l ((dropProposal l q (consume l p m s)).inc (PORT_RATE_DECLINES l.n))), ?_, ?_⟩
  · show execRateDecline l p m s = _
    simp only [execRateDecline, hq1]
  · rw [State.link_congr (showLink_links l _), hdeclined]
    exact ⟨rfl, hfour, not_mem_dropped q _⟩

/-! ### A change applied (R73, R213) -/

theorem rateChangeApply_applies {d : Dir} {c : Change} {x : Nat} (hdue : rateDueAt (s.link l) d = some (c, x)) :
    ∃ t : State, exec (.rateChangeApply l d) s = .next t ∧ streamOf (t.link l) d = x ∧ c ∉ (t.link l).changes ∧ (t.link l).lossRun = 0 := by
  show ∃ t, execRateChangeApply l d s = .next t ∧ _
  unfold execRateChangeApply
  rw [hdue]
  dsimp -zeta only
  extract_lets old s1 s2 s3 s4
  obtain ⟨hstream, hgone⟩ : streamOf (s1.link l) d = x ∧ c ∉ (s1.link l).changes := streamOf_after_change l d c x s
  clear_value s1
  have h3 : s3.link l = { s1.link l with lossRun := 0 } := by
    rw [State.link_congr (histFlags_links l 7 _), State.link_modLink, State.raise_link, State.inc_link]
  refine ⟨_, rfl, ?_⟩
  rw [State.link_congr (showLink_links l _)]
  cases d with
  | tx =>
    rw [State.link_congr (capNotice_links l s3), h3]
    exact ⟨hstream, hgone, rfl⟩
  | rx =>
    have hswaps (xs : List Nat) (s : State) : (forEach xs (fun p s => endSwap l.n p s) s).links = s.links :=
      forEach_eq_of_step_eq State.links _ (fun p s => endSwap_links l.n p s) xs s
    rw [State.link_congr (hswaps _ _), endRate_link, clearTriggers_link, h3]
    have hrx : (s1.link l).streamRx = x := hstream
    exact ⟨hrx, hgone, rfl⟩

end

/-- Settles O27, clause by clause: what a step of a rate change writes in the link's record stands through the rest of that step. -/
theorem rateChanges : Obligations.RateChanges :=
  ⟨fun _ _ _ _ hphase hawake hbusy hhold hdue hswaps hfault =>
      rateTrigger_clears ⟨hphase, hawake, hbusy, hhold, hdue, hswaps, hfault⟩,
    fun _ _ _ _ hphase hawake hbusy hhold hdue hswaps hfault =>
      rateTrigger_waits ⟨hphase, hawake, hbusy, hhold, hdue, hswaps, hfault⟩,
    fun _ _ hawake hbusy hhold hdue hswaps hfault hbest hmay =>
      rateTrigger_asks ⟨hmay.1, hawake, hbusy, hhold, hdue, hswaps, hfault⟩ hbest hmay,
    fun _ _ _ => rateProposeSend_sends, fun _ _ _ _ _ => ratePropose_declined, fun _ _ _ _ => ratePropose_accepted,
    fun _ _ _ _ _ => rateAccept_agrees, fun _ _ _ _ _ => rateDecline_holds_off, fun _ _ _ _ _ => rateChangeApply_applies⟩

end Sys2Proof.Claims
end

section
/-! SUPPORT. What the operations of the host lanes answer: the states of lanes and spares after they are set, a lane that is enabled or disabled, a
fault that is recorded, a spare that takes over and turns back, and a write of a spare's settings. -/
namespace Sys2Proof.Machine

/-! ### Kinds of state that an operation leaves -/

@[simp] theorem setLaneState_lanes (h st : Nat) (s : State) : (setLaneState h st s).lanes = s.lanes :=
  (@keeps_setLaneState (· ∈ [.regs]) ⟨by decide⟩ s s h st (keeps_refl _ s)).same .lanes (by decide)

@[simp] theorem setLaneState_laneOf (h st : Nat) (s : State) : (setLaneState h st s).laneOf = s.laneOf :=
  (@keeps_setLaneState (· ∈ [.regs]) ⟨by decide⟩ s s h st (keeps_refl _ s)).same .laneOf (by decide)

theorem keeps_own_setSpareState (g st : Nat) (s : State) : Keeps (· ∈ [.regs, .hub]) s (setSpareState g st s) :=
  @keeps_setSpareState (· ∈ [.regs, .hub]) ⟨by decide⟩ ⟨by decide⟩ s s g st (keeps_refl _ s)

@[simp] theorem setSpareState_lanes (g st : Nat) (s : State) : (setSpareState g st s).lanes = s.lanes :=
  (keeps_own_setSpareState g st s).same .lanes (by decide)

@[simp] theorem setSpareState_laneOf (g st : Nat) (s : State) : (setSpareState g st s).laneOf = s.laneOf :=
  (keeps_own_setSpareState g st s).same .laneOf (by decide)

@[simp] theorem setSpareState_raised (g st : Nat) (s : State) : (setSpareState g st s).raised = s.raised :=
  (keeps_own_setSpareState g st s).same .raised (by decide)

theorem settleSpares_regs (s : State) : (settleSpares s).regs = s.regs := by
  unfold settleSpares
  split
  · rfl
  · exact State.modHub_regs _ _

@[simp] theorem setLanePort_laneOf (h p : Nat) (s : State) : (setLanePort h p s).laneOf = s.laneOf := State.setFld_laneOf _ _ _

@[simp] theorem setLocks_lanes (h v : Nat) (s : State) : (setLocks h v s).lanes = s.lanes := by simp [setLocks]

theorem adaptCtle_lanes (h : Nat) (s : State) : (adaptCtle h s).lanes = s.lanes :=
  (@keeps_adaptCtle (· ∈ [.free, .regs]) ⟨by decide⟩ ⟨by decide⟩ s s h (keeps_refl _ s)).same .lanes (by decide)

theorem octetOn_regs (o : Nat) (s : State) : (octetOn o s).regs = s.regs :=
  (@keeps_octetOn (· ∈ [.doms]) ⟨by decide⟩ s s o (keeps_refl _ s)).same .regs (by decide)

theorem octetOn_lanes (o : Nat) (s : State) : (octetOn o s).lanes = s.lanes :=
  (@keeps_octetOn (· ∈ [.doms]) ⟨by decide⟩ s s o (keeps_refl _ s)).same .lanes (by decide)

theorem rateTaken_lanes (n : Port) (s : State) : (rateTaken n s).lanes = s.lanes :=
  (@keeps_rateTaken (· ∈ [.regs, .pairs, .links, .raised]) ⟨by decide⟩ ⟨by decide⟩ ⟨by decide⟩ ⟨by decide⟩ s s n (keeps_refl _ s)).same .lanes
    (by decide)

/-! ### Fields and eye scans (R284) -/

theorem State.flag_setFld_toNat (s : State) (f : Fld) (b : Bool) (hl : f.lo ≤ f.hi) (hh : f.hi < 32) : (s.setFld f b.toNat).flag f = b := by
  cases b
  · exact State.flag_setFld_zero s f hl hh
  · exact State.flag_setFld_one s f hl hh

theorem abortEye_of_idle {h : Nat} {s : State} (hidle : s.flag (HL_EYE_STATUS.BUSY h) = false) : abortEye h s = s := by
  simp [abortEye, hidle]

/-! ### The state of a lane and of a spare (R288, R289, R475) -/

/-- The interrupt bits of the lanes lie below the lanes' blocks (R447). -/
theorem laneInt_fld {h : Nat} {f : Fld} (s : State) (hh : h < 136) (hf : laneBase 0 ≤ f.addr) : (laneInt h s).fld f = s.fld f := by
  have hbelow : f.addr ≠ HUB_INT_LANE (h / 32) := by
    simp only [laneBase] at hf
    simp only [HUB_INT_LANE, hubBase]
    omega
  exact State.fld_setFld_apart s _ f 1 (Nat.le_refl _) (Nat.mod_lt h (by decide)) (.inl hbelow)

theorem laneState_setLaneState {h st : Nat} (s : State) (hh : h < 136) (hst : st < 16) : laneState (setLaneState h st s) h = st := by
  unfold setLaneState
  split
  next hsame => exact hsame
  next =>
    rw [laneState, laneInt_fld _ hh (by simp only [HL_STATUS.STATE, HL_STATUS, laneBase]; omega),
      State.fld_setFld_same _ _ _ (by decide : 28 ≤ 31) (by decide : 31 < 32)]
    exact Nat.mod_eq_of_lt hst

theorem spareState_setSpareState (g : Group) {st : Nat} (s : State) (hst : st < 16) : spareState (setSpareState g st s) g = st := by
  unfold setSpareState
  split
  next hsame => exact hsame
  next =>
    have hg : spareLane g < 136 := by simp only [spareLane]; omega
    rw [spareState, State.fld_congr _ _ (settleSpares_regs _),
      laneInt_fld _ hg (by simp only [HL_SPARE_STATUS.STATE, HL_SPARE_STATUS, laneBase]; omega),
      State.fld_setFld_same _ _ _ (by decide : 28 ≤ 31) (by decide : 31 < 32)]
    exact Nat.mod_eq_of_lt hst

/-! ### A lane that is enabled or disabled (R265, R268, R269, R272, R280) -/

/-- A lane that starts to acquire does so with the rate it is given and the precoding and polarity of its block. -/
theorem acquire_settings (h : Nat) (half : Bool) (s : State) :
    ((acquire h half s).lane h).half = half ∧ ((acquire h half s).lane h).preTx = s.flag (HL_CFG.PRECODE_TX h) ∧
      ((acquire h half s).lane h).invRx = s.flag (HL_CFG.RX_INV h) := by
  unfold acquire
  extract_lets s1 s2
  have htaken : s2.lane h = s1.lane h := by rw [State.setFld_lane, State.lane_congr (setLocks_lanes h 0 s1)]
  split
  · rw [State.lane_congr (setLaneState_lanes h 1 s2), htaken, State.lane_modLane]
    exact ⟨rfl, rfl, rfl⟩
  · rw [State.lane_modLane, htaken, State.lane_modLane]
    exact ⟨rfl, rfl, rfl⟩

/-- A disabled lane that no REPAIR entry bars takes the settings of its block when it is enabled. -/
theorem enableLane_settings {h : Nat} {s : State} (hoff : s.flag (HL_CFG.ENABLE h) = false) (hfree : (s.lane h).barred = false)
    (hrest : laneState s h = 0) :
    ((enableLane h s).lane h).half = s.flag (HL_CFG.RATE h) ∧ ((enableLane h s).lane h).preTx = s.flag (HL_CFG.PRECODE_TX h) ∧
      ((enableLane h s).lane h).invRx = s.flag (HL_CFG.RX_INV h) := by
  unfold enableLane
  rw [if_neg (by simp [hoff])]
  extract_lets s1 s2
  have hreg (f : Fld) (hf : f.addr ≠ HL_CFG h ∨ f.hi < 31) : s1.flag f = s.flag f := by
    rw [State.flag_congr _ _ (octetOn_regs _ _)]
    exact State.flag_setFld_apart s _ f 1 (Nat.le_refl 31) (by decide : 31 < 32) (hf.imp_right .inl)
  have hstate : laneState s1 h = 0 := by
    rw [laneState, State.fld_congr _ _ (octetOn_regs _ _), State.fld_setFld_apart _ _ _ _ (Nat.le_refl 31) (by decide : 31 < 32)
      (.inl (by simp [HL_STATUS.STATE, HL_CFG.ENABLE, HL_STATUS, HL_CFG]))]
    exact hrest
  have hbarred : (s1.lane h).barred = false := by rw [State.lane_congr (octetOn_lanes _ _), State.setFld_lane, hfree]
  have hlane : (if s2.portLane h = h then rateTaken (toPort h) s2 else s2).lane h = s2.lane h := by
    split
    · exact State.lane_congr (rateTaken_lanes _ _) h
    · rfl
  rw [if_neg (by simp [hbarred, hstate]), hlane, ← hreg (HL_CFG.RATE h) (.inr (by decide : 30 < 31)),
    ← hreg (HL_CFG.PRECODE_TX h) (.inr (by decide : 29 < 31)), ← hreg (HL_CFG.RX_INV h) (.inr (by decide : 26 < 31))]
  exact acquire_settings h _ s1

/-- A disabled lane that a REPAIR entry bars keeps its state: with no eye scan running and its octet left on, ENABLE is cleared, and
the lane waits for no HPLL. -/
theorem disableLane_of_barred {h : Nat} {s : State} (hbarred : (s.lane h).barred = true) (hidle : s.flag (HL_EYE_STATUS.BUSY h) = false)
    (hkept : s.flag PWR_DOMAIN_CFG.OCTET_AUTO_OFF = false) :
    disableLane h s = (s.setFld (HL_CFG.ENABLE h) 0).modLane h (fun k => { k with hpllDown := false }) := by
  have hreg (f : Fld) (hf : f.addr ≠ HL_CFG h) : (s.setFld (HL_CFG.ENABLE h) 0).flag f = s.flag f :=
    State.flag_setFld_apart s _ f 0 (Nat.le_refl 31) (by decide : 31 < 32) (.inl hf)
  have hscan : abortEye h (s.setFld (HL_CFG.ENABLE h) 0) = s.setFld (HL_CFG.ENABLE h) 0 :=
    abortEye_of_idle ((hreg _ (by simp [HL_EYE_STATUS.BUSY, HL_EYE_STATUS, HL_CFG])).trans hidle)
  have hon : (s.setFld (HL_CFG.ENABLE h) 0).flag PWR_DOMAIN_CFG.OCTET_AUTO_OFF = false :=
    (hreg PWR_DOMAIN_CFG.OCTET_AUTO_OFF (show PWR_DOMAIN_CFG ≠ HL_CFG h by unfold PWR_DOMAIN_CFG hubBase HL_CFG laneBase; omega)).trans hkept
  simp [disableLane, hscan, hbarred, octetJudge, hon]

/-! ### Faults, substitution, revert (R277 to R281) -/

/-- A recorded fault raises its event with the port the lane carries, and is the lane's last cause. -/
theorem recordFault_records {h cause : Nat} (took : Bool) (s : State) (hlo : 1 ≤ cause) (hhi : cause ≤ 7) :
    (⟨0x3001, 2, [h, cause, lanePort s h, took.toNat]⟩ : Event) ∈ (recordFault h cause took s).raised ∧
      (recordFault h cause took s).fld (HL_FAULT_STATUS.LAST_CAUSE h) = cause := by
  unfold recordFault
  extract_lets s1 s2
  have hcounter : HL_FAULT_STATUS h ≠ HL_FAULTS h := by simp [HL_FAULT_STATUS, HL_FAULTS]
  have hport : lanePort s2 h = lanePort s h := by
    have hstatus : HL_STATUS h ≠ HL_FAULT_STATUS h := by simp [HL_STATUS, HL_FAULT_STATUS]
    have hfaults : HL_STATUS h ≠ HL_FAULTS h := by simp [HL_STATUS, HL_FAULTS]
    rw [lanePort, State.fld_inc_other _ _ _ hfaults, State.fld_setFld_apart _ _ _ _ (by decide : 8 ≤ 14) (by decide : 14 < 32) (.inl hstatus),
      State.fld_setFld_apart _ _ _ _ (Nat.le_refl _) (show cause - 1 < 32 by omega) (.inl hstatus), lanePort]
  constructor
  · rw [hport]
    exact List.mem_append_right _ (List.mem_singleton.2 rfl)
  · rw [State.raise_fld, State.fld_inc_other _ _ _ hcounter, State.fld_setFld_same _ _ _ (by decide : 8 ≤ 14) (by decide : 14 < 32)]
    exact Nat.mod_eq_of_lt (show cause < 128 by omega)

/-- A transmitter fault of a lane in service without automatic substitution is recorded, and the lane goes on. -/
theorem laneFault_of_manual {h : Nat} {s : State} (hon : laneState s h = 2) (hclaim : laneClaim s 6 h = false) (hboard : s.hub.boardTest = none)
    (hh : h < 128) (hauto : s.flag (HL_FAULT_CFG.AUTO h) = false) : laneFault h 5 s = recordFault h 5 false s := by
  have hshow : showFault h 5 s = s := by simp [showFault]
  unfold laneFault
  dsimp only
  rw [if_neg (by simp [hon, hclaim, hboard]), hshow, if_neg (by simp [hclaim]), if_neg (by simp [hon, Nat.not_le.2 hh]), if_pos hh,
    if_neg (by simp [hauto])]

/-- A spare whose switch is in progress carries the port's traffic once it is complete. -/
theorem completeSwitch_of_waiting (g : Group) {s : State} (hwaits : spareState s g = 2) :
    spareState (completeSwitch g s) g = 3 ∧ (completeSwitch g s).raised = s.raised := by
  unfold completeSwitch
  extract_lets sp h n s1
  obtain ⟨hregs, hraised⟩ : s1.regs = s.regs ∧ s1.raised = s.raised := by
    simp only [s1]
    split
    · exact ⟨rfl, rfl⟩
    · exact ⟨State.modHost_regs _ _ _, State.modHost_raised _ _ _⟩
  rw [if_pos (by rw [spareState, State.fld_congr _ _ hregs]; exact hwaits)]
  constructor
  · rw [spareState, State.fld_inc_other _ _ _ (by simp [HL_SPARE_STATUS.STATE, HL_SPARE_STATUS, HL_SPARE_SUBS, sp])]
    exact spareState_setSpareState g _ (by decide)
  · rw [State.inc_raised, setSpareState_raised, hraised]

theorem spareWaits_of_waiting {s : State} {g : Nat} (hwaits : spareState s g = 2) : spareWaits s g = true := by simp [spareWaits, hwaits]

theorem moveIngress_portLane (p h : Nat) (s : State) : (moveIngress p h s).portLane p = h := SMap.get_put_same _ _ _ _

/-- After a substitution the port uses the spare of the lane's group. -/
theorem substitute_takes (h cause : Nat) (slow : Bool) (s : State) :
    (substitute h cause slow s).portLane h = spareLane (groupOf h) ∧
      (⟨0x3002, 1, [h, spareLane (groupOf h), cause, h]⟩ : Event) ∈ (substitute h cause slow s).raised := by
  unfold substitute
  extract_lets g sp p s1 s2 s3 s4 s5
  have hmoved : (setSpareState g 2 s5).laneOf = (moveIngress p sp s).laneOf := by simp [s5, s4, s3, s2, s1]
  constructor
  · rw [State.raise_portLane, State.portLane_congr hmoved]
    exact moveIngress_portLane p sp s
  · exact List.mem_append_right _ (List.mem_singleton.2 rfl)

/-- A protected lane on its own port that fails is replaced by the spare. -/
theorem failLane_of_protected {h cause : Nat} {s : State} (hrevert : (s.lane h).revert = false) (hown : s.portLane h = h)
    (hprot : isProtected s (groupOf h) h = true) : failLane h cause s = substitute h cause false (recordFault h cause true s) := by
  unfold failLane
  dsimp only
  rw [hrevert, if_neg Bool.false_ne_true, if_pos (by simp [hown, hprot])]

/-- A sound lane that a spare stands for is asked back: it waits to acquire, and the spare is REVERTING. -/
theorem askRevert_of_sound (g : Group) {s : State} (hserves : spareState s g = 3) (hsound : laneState s (spareFor s g) ≠ 3) :
    ((askRevert g s).lane (spareFor s g)).revert = true ∧ spareState (askRevert g s) g = 4 := by
  unfold askRevert
  extract_lets h s1 s2
  rw [if_neg (by simp [hserves, h, hsound])]
  constructor
  · rw [State.lane_congr (setSpareState_lanes _ _ _), State.lane_modLane]
  · exact spareState_setSpareState g _ (by decide)

/-! ### HL_SPARE_CFG (R276, R280, R289) -/

/-- What a write leaves in HL_SPARE_CFG: its own fields as written, the bits of none as they were. -/
def spareCfgWord (v keep : Nat) : Nat :=
  bits v 31 29 * 2 ^ 29 + bits keep 28 21 * 2 ^ 21 + bits v 20 16 * 2 ^ 16 + bits keep 15 10 * 2 ^ 10 + bits v 9 0

theorem spareCfgWord_fields (v keep : Nat) : spareCfgWord v keep < 2 ^ 32 ∧ bits (spareCfgWord v keep) 31 30 = bits v 31 30 ∧
    bits (spareCfgWord v keep) 19 16 = bits v 19 16 ∧ bits (spareCfgWord v keep) 9 0 = bits v 9 0 := by
  have hmode : bits v 31 30 = bits v 31 29 / 2 := by simp only [bits]; omega
  have hprefer : bits v 19 16 = bits v 20 16 % 16 := by simp only [bits]; omega
  have htop : bits v 31 29 < 8 := Nat.mod_lt _ (by decide)
  have hkept : bits keep 28 21 < 256 := Nat.mod_lt _ (by decide)
  have hpick : bits v 20 16 < 32 := Nat.mod_lt _ (by decide)
  have hleft : bits keep 15 10 < 64 := Nat.mod_lt _ (by decide)
  have hwait : bits v 9 0 < 1024 := Nat.mod_lt _ (by decide)
  rw [hmode, hprefer, spareCfgWord]
  generalize bits v 31 29 = a at *
  generalize bits keep 28 21 = b at *
  generalize bits v 20 16 = c at *
  generalize bits keep 15 10 = d at *
  generalize bits v 9 0 = e at *
  simp only [bits]
  omega

/-- A write that leaves a spare OFF, which no REPAIR entry bars, is a write of the register alone. -/
theorem writeSpareCfg_of_cold {g v : Nat} {s : State} (hfree : (s.lane (spareLane g)).barred = false) (hcold : isWarm s g = false)
    (hmode : bits v 31 30 ≠ 1) :
    writeSpareCfg g v s = s.setReg (HL_SPARE_CFG (spareLane g)) (word (spareCfgWord v (s.reg (HL_SPARE_CFG (spareLane g))).toNat)) := by
  obtain ⟨hlt, hfield, -, -⟩ := spareCfgWord_fields v (s.reg (HL_SPARE_CFG (spareLane g))).toNat
  unfold writeSpareCfg
  extract_lets sp warm keep w t
  have hw : w < 2 ^ 32 := hlt
  have hstays : isWarm t g = false := by
    have hread : t.fld (HL_SPARE_CFG.MODE sp) = bits (word w).toNat 31 30 := State.fld_setReg_same s (HL_SPARE_CFG.MODE sp) (word w)
    rw [isWarm, hread, word_toNat, Nat.mod_eq_of_lt hw]
    exact beq_eq_false_iff_ne.2 (hfield ▸ hmode)
  have hbar : (t.lane sp).barred = false := (congrArg LaneSt.barred (State.setReg_lane s _ _ sp)).trans hfree
  have hwarm : warm = false := hcold
  rw [if_neg (by simp [hbar]), if_neg (by simp [hstays]), if_neg (by simp [hwarm])]
  rfl

end Sys2Proof.Machine
end

section
/-! PROOF. The statement about the host lanes' faults, settings and spares (O32). -/
namespace Sys2Proof.Claims
open Sys2Proof Sys2Proof.Machine

section
variable {h : Lane} {g : Group} {s : State}

/-! ### Faults and spares (R277 to R281) -/

theorem laneFault_records (hon : laneState s h = 2) (hclaim : laneClaim s 6 h = false) (hboard : s.hub.boardTest = none) (hh : h.val < 128)
    (hauto : s.flag (HL_FAULT_CFG.AUTO h) = false) :
    ∃ t : State, exec (.laneFault h 5) s = .next t ∧ (⟨0x3001, 2, [h.val, 5, lanePort s h, 0]⟩ : Event) ∈ t.raised ∧
      t.fld (HL_FAULT_STATUS.LAST_CAUSE h) = 5 := by
  refine ⟨recordFault h 5 false s, ?_, recordFault_records false s (by decide) (by decide)⟩
  show execLaneFault h 5 s = _
  rw [execLaneFault, if_neg (by decide), laneFault_of_manual hon hclaim hboard hh hauto]

theorem hostDone_completes (hwaits : spareState s g = 2) : ∃ t : State, exec (.hostDone g) s = .next t ∧ spareState t g = 3 := by
  refine ⟨_, rfl, ?_⟩
  rw [hostDone, if_pos (spareWaits_of_waiting hwaits)]
  refine (completeSwitch_of_waiting g ?_).1
  rw [spareState, State.fld_setFld_apart _ _ _ _ (Nat.le_refl 8) (by decide : 8 < 32) (.inr (.inr (by decide : 8 < 28)))]
  exact hwaits

theorem hostWaitExpire_completes (hwaits : spareState s g = 2) :
    ∃ t : State, exec (.hostWaitExpire g) s = .next t ∧ spareState t g = 3 ∧ (⟨0x3003, 1, [spareLane g, spareFor s g]⟩ : Event) ∈ t.raised := by
  have hstill : spareState ((s.inc (HL_SPARE_HOST_LATE (spareLane g))).raise 0x3003 1 [spareLane g, spareFor s g]) g = 2 := by
    rw [spareState, State.raise_fld, State.fld_inc_other _ _ _ (by simp [HL_SPARE_STATUS.STATE, HL_SPARE_STATUS, HL_SPARE_HOST_LATE])]
    exact hwaits
  obtain ⟨hcarries, hraised⟩ := completeSwitch_of_waiting g hstill
  refine ⟨_, ?_, hcarries, hraised ▸ List.mem_append_right _ (List.mem_singleton.2 rfl)⟩
  show execHostWaitExpire g s = _
  simp [execHostWaitExpire, spareWaits_of_waiting hwaits]

theorem substitute_replaces {i : Nat} (hstill : spareState s g ≠ 2) (hheld : spareState s g ≠ 4) (hown : laneState s (16 * g.val + i % 16) ≠ 4)
    (hclaim : laneClaim s 6 (16 * g.val + i % 16) = false) (hrevert : (s.lane (16 * g.val + i % 16)).revert = false)
    (hport : s.portLane (16 * g.val + i % 16) = 16 * g.val + i % 16)
    (hprot : isProtected s (groupOf (16 * g.val + i % 16)) (16 * g.val + i % 16) = true) :
    ∃ t : State, exec (.substitute g i) s = .next t ∧ t.portLane (16 * g.val + i % 16) = spareLane (groupOf (16 * g.val + i % 16)) ∧
      (⟨0x3002, 1, [(16 * g.val + i % 16), spareLane (groupOf (16 * g.val + i % 16)), 7, (16 * g.val + i % 16)]⟩ : Event) ∈ t.raised := by
  refine ⟨_, ?_, substitute_takes (16 * g.val + i % 16) 7 false (recordFault (16 * g.val + i % 16) 7 true s)⟩
  rw [← failLane_of_protected hrevert hport hprot]
  show execSubstitute g i s = _
  simp [execSubstitute, askSubstitute, hstill, hheld, hown, hclaim]

theorem revert_turns_back (hserves : spareState s g = 3) (hsound : laneState s (spareFor s g) ≠ 3) :
    ∃ t : State, exec (.revert g) s = .next t ∧ (t.lane (spareFor s g)).revert = true ∧ spareState t g = 4 :=
  ⟨_, rfl, askRevert_of_sound g hserves hsound⟩

/-! ### Enabling, rate, acquisition (R265, R272, R275) -/

theorem laneEnableWrite_on (hh : h.val < 128) (hphase : s.fld PWR_PHASE.PHASE ≠ 3) (hoff : s.flag (HL_CFG.ENABLE h) = false)
    (hfree : (s.lane h).barred = false) (hrest : laneState s h = 0) :
    ∃ t : State, exec (.laneEnableWrite h true) s = .next t ∧ (t.lane h).half = s.flag (HL_CFG.RATE h) ∧
      (t.lane h).preTx = s.flag (HL_CFG.PRECODE_TX h) ∧ (t.lane h).invRx = s.flag (HL_CFG.RX_INV h) := by
  refine ⟨enableLane h s, ?_, enableLane_settings hoff hfree hrest⟩
  show execLaneEnableWrite h true s = _
  rw [execLaneEnableWrite, writeLaneEnable, if_neg (Nat.not_le.2 hh), if_pos rfl, if_neg hphase]

theorem laneEnableWrite_off (hh : h.val < 128) (hbarred : (s.lane h).barred = true) (hidle : s.flag (HL_EYE_STATUS.BUSY h) = false)
    (hkept : s.flag PWR_DOMAIN_CFG.OCTET_AUTO_OFF = false) :
    ∃ t : State, exec (.laneEnableWrite h false) s = .next t ∧ t.flag (HL_CFG.ENABLE h) = false := by
  refine ⟨disableLane h s, ?_, ?_⟩
  · show execLaneEnableWrite h false s = _
    rw [execLaneEnableWrite, writeLaneEnable, if_neg (Nat.not_le.2 hh), if_neg Bool.false_ne_true]
  · rw [disableLane_of_barred hbarred hidle hkept, State.modLane_flag]
    exact State.flag_setFld_zero _ _ (Nat.le_refl 31) (by decide : 31 < 32)

theorem laneRateWrite_waits (half : Bool) (hh : h.val < 128) :
    ∃ t : State, exec (.laneRateWrite h half) s = .next t ∧ (t.fld (HL_CFG.RATE h) = half.toNat ∧
      (s.flag (HL_CFG.ENABLE h) = true → t.fld (HL_STATUS.RATE_PENDING h) = 1)) := by
  refine ⟨_, rfl, ?_⟩
  have henabled : (s.setFld (HL_CFG.RATE h) half.toNat).flag (HL_CFG.ENABLE h) = s.flag (HL_CFG.ENABLE h) :=
    State.flag_setFld_apart _ _ _ _ (Nat.le_refl 30) (by decide : 30 < 32) (.inr (.inr (by decide : 30 < 31)))
  have hrate : (s.setFld (HL_CFG.RATE h) half.toNat).fld (HL_CFG.RATE h) = half.toNat := by
    rw [State.fld_setFld_same _ _ _ (Nat.le_refl 30) (by decide : 30 < 32)]
    exact Nat.mod_eq_of_lt half.toNat_lt
  rw [writeLaneRate, if_neg (Nat.not_le.2 hh)]
  dsimp only
  rw [henabled]
  by_cases hon : s.flag (HL_CFG.ENABLE h) = true
  · rw [if_pos hon]
    refine ⟨?_, fun _ => State.fld_setFld_same _ _ _ (Nat.le_refl 4) (by decide : 4 < 32)⟩
    rw [State.fld_setFld_apart _ _ _ _ (Nat.le_refl 4) (by decide : 4 < 32) (.inl (by simp [HL_CFG.RATE, HL_STATUS.RATE_PENDING, HL_CFG, HL_STATUS]))]
    exact hrate
  · rw [if_neg hon]
    exact ⟨hrate, fun h => absurd h hon⟩

theorem laneAcquired_serves (hacquires : laneState s h = 1) (hboard : s.hub.boardTest = none) (hh : h.val < 128)
    (hrevert : (s.lane h).revert = false) : ∃ t : State, exec (.laneAcquired h) s = .next t ∧ laneState t h = 2 := by
  have hstays : ((adaptCtle h (setLocks h 1 s)).lane h).revert = false := by
    rw [State.lane_congr (adaptCtle_lanes _ _), State.lane_congr (setLocks_lanes _ _ _), hrevert]
  refine ⟨setLaneState h 2 (adaptCtle h (setLocks h 1 s)), ?_, laneState_setLaneState _ h.isLt (by decide)⟩
  show execLaneAcquired h s = _
  simp [execLaneAcquired, hacquires, hboard, hstays, Nat.not_le.2 hh]

/-! ### Transmit levels and HL_SPARE_CFG (R270, R276, R280) -/

theorem hlTxFfeWrite_takes (v : Word) :
    ∃ t : State, exec (.hlTxFfeWrite h v) s = .next t ∧ t.fld (HL_TX_FFE.AMP h) = bits v.toNat 19 16 ∧
      t.fld (HL_TX_FFE.PRE h) = bits v.toNat 12 8 ∧ t.fld (HL_TX_FFE.POST h) = bits v.toNat 5 0 ∧
      t.flag (HL_STATUS.FFE_CLAMPED h) = decide (64 < bits v.toNat 12 8 + bits v.toNat 5 0) := by
  have hstatus : HL_TX_FFE h ≠ HL_STATUS h := by simp [HL_TX_FFE, HL_STATUS]
  refine ⟨_, rfl, ?amp, ?pre, ?post, ?clamped⟩
  case clamped =>
    rw [writeFfe, State.emit_flag]
    exact State.flag_setFld_toNat _ _ _ (Nat.le_refl 3) (by decide : 3 < 32)
  all_goals simp [writeFfe, State.fld_setFld_bits, State.fld_setFld_apart, HL_TX_FFE.AMP, HL_TX_FFE.PRE, HL_TX_FFE.POST, HL_STATUS.FFE_CLAMPED,
    hstatus]

theorem spareModeWrite_takes {v : Word} (hfree : (s.lane (spareLane g)).barred = false) (hcold : isWarm s g = false)
    (hmode : bits v.toNat 31 30 ≠ 1) :
    ∃ t : State, exec (.spareModeWrite g v) s = .next t ∧ t.fld (HL_SPARE_CFG.HOST_WAIT (spareLane g)) = bits v.toNat 9 0 ∧
      t.fld (HL_SPARE_CFG.PREFER (spareLane g)) = bits v.toNat 19 16 := by
  obtain ⟨hlt, -, hprefer, hwait⟩ := spareCfgWord_fields v.toNat (s.reg (HL_SPARE_CFG (spareLane g))).toNat
  refine ⟨_, rfl, ?_⟩
  rw [writeSpareCfg_of_cold hfree hcold hmode, ← hprefer, ← hwait]
  simp only [State.fld, HL_SPARE_CFG.HOST_WAIT, HL_SPARE_CFG.PREFER, State.reg_setReg_same, word_toNat, Nat.mod_eq_of_lt hlt, and_self]

end

/-- Settles O32, clause by clause: each operation's own rule says what it leaves in the lane, its block and its group's spare. -/
theorem hostLanesFaultsAndSpares : Obligations.HostLanesFaultsAndSpares :=
  ⟨fun _ _ => laneFault_records, fun _ _ => hostDone_completes, fun _ _ => hostWaitExpire_completes, fun _ _ _ => substitute_replaces,
    fun _ _ => revert_turns_back, fun _ _ => laneEnableWrite_on, fun _ _ => laneEnableWrite_off, fun _ half _ => laneRateWrite_waits half,
    fun _ _ => laneAcquired_serves, fun _ v _ => hlTxFfeWrite_takes v, fun _ _ _ => spareModeWrite_takes⟩

end Sys2Proof.Claims
end

section
/-! SUPPORT. What the operations of eye scans and of the pattern generator and checker of a host lane answer. -/
namespace Sys2Proof.Machine

/-! ### One bit, and fields beside a 64-bit counter (R8, R454) -/

theorem bits_self (v i : Nat) : bits v i i = (bit v i).toNat := by rw [bits, bit, Nat.toNat_testBit, Nat.add_sub_cancel_left, Nat.pow_one]

/-- A field of another register is left by a count of 64 bits. -/
theorem State.flag_add64_other (s : State) (f : Fld) (a k : Nat) (hlo : f.addr ≠ a) (hhi : f.addr ≠ a + 4) : (s.add64 a k).flag f = s.flag f := by
  rw [State.flag, State.fld_eq_of_reg_eq (State.reg_add64_other s a k f.addr hlo hhi), State.flag]

/-! ### Eye scans (R283, R284, R435) -/

theorem eyeCtrl_ne_eyeStatus (h : Nat) : HL_EYE_CTRL h ≠ HL_EYE_STATUS h := by simp [HL_EYE_CTRL, HL_EYE_STATUS]

/-- A scan that starts is BUSY and not DONE; the registers other than its status stand. -/
theorem startEye_shows (h : Nat) (s : State) : (startEye h s).flag (HL_EYE_STATUS.BUSY h) = true ∧ (startEye h s).flag (HL_EYE_STATUS.DONE h) = false ∧
    ∀ f : Fld, f.addr ≠ HL_EYE_STATUS h → (startEye h s).fld f = s.fld f := by
  unfold startEye
  refine ⟨?_, ?_, fun f hf => ?_⟩
  · rw [State.flag_setFld_apart _ _ _ _ (Nat.le_refl 2) (by decide : 2 < 32) (.inr (.inl (by decide : 0 < 2))),
      State.flag_setFld_apart _ _ _ _ (Nat.le_refl 1) (by decide : 1 < 32) (.inr (.inl (by decide : 0 < 1)))]
    exact State.flag_setFld_one _ _ (Nat.le_refl 0) (by decide : 0 < 32)
  · rw [State.flag_setFld_apart _ _ _ _ (Nat.le_refl 2) (by decide : 2 < 32) (.inr (.inl (by decide : 1 < 2)))]
    exact State.flag_setFld_zero _ _ (Nat.le_refl 1) (by decide : 1 < 32)
  · rw [State.fld_setFld_apart _ _ _ _ (Nat.le_refl 2) (by decide : 2 < 32) (.inl hf),
      State.fld_setFld_apart _ _ _ _ (Nat.le_refl 1) (by decide : 1 < 32) (.inl hf),
      State.fld_setFld_apart _ _ _ _ (Nat.le_refl 0) (by decide : 0 < 32) (.inl hf)]

/-- The fields of HL_EYE_CTRL as a write sets them, without START. -/
def setEyeFields (h w : Nat) (s : State) : State :=
  (((s.setFld (HL_EYE_CTRL.EYE h) (bits w 25 24)).setFld (HL_EYE_CTRL.PHASE h) (bits w 21 16)).setFld
    (HL_EYE_CTRL.VOFF h) (bits w 14 8)).setFld (HL_EYE_CTRL.DWELL h) (bits w 5 0)

theorem setEyeFields_fields (h w : Nat) (s : State) : (setEyeFields h w s).fld (HL_EYE_CTRL.PHASE h) = bits w 21 16 ∧
    (setEyeFields h w s).fld (HL_EYE_CTRL.VOFF h) = bits w 14 8 ∧ (setEyeFields h w s).fld (HL_EYE_CTRL.DWELL h) = bits w 5 0 := by
  simp [setEyeFields, State.fld_setFld_bits, State.fld_setFld_apart, HL_EYE_CTRL.EYE, HL_EYE_CTRL.PHASE, HL_EYE_CTRL.VOFF, HL_EYE_CTRL.DWELL]

/-- Under the eye-scan grant, on a lane that is on and scans nothing, START starts a scan with the settings written. -/
theorem writeEyeCtrl_of_claim {h w : Nat} {s : State} (hidle : s.flag (HL_EYE_STATUS.BUSY h) = false) (hstart : bit w 31 = true)
    (hclaim : laneClaim s 4 h = true) (hon : laneState s h ≠ 0) : writeEyeCtrl h w s = startEye h (setEyeFields h w s) := by
  have hstays : laneState (setEyeFields h w s) h = laneState s h := by
    have hstatus : HL_STATUS h ≠ HL_EYE_CTRL h := by simp [HL_STATUS, HL_EYE_CTRL]
    simp [laneState, setEyeFields, State.fld_setFld_apart, HL_STATUS.STATE, HL_EYE_CTRL.EYE, HL_EYE_CTRL.PHASE, HL_EYE_CTRL.VOFF,
      HL_EYE_CTRL.DWELL, hstatus]
  have hclaims : laneClaim (setEyeFields h w s) 4 h = true := by simpa [laneClaim, setEyeFields] using hclaim
  unfold writeEyeCtrl
  rw [abortEye_of_idle hidle]
  change (if !bit w 31 then setEyeFields h w s else if !laneClaim (setEyeFields h w s) 4 h then _
    else if laneState (setEyeFields h w s) h = 0 then _ else _) = _
  rw [if_neg (by simp [hstart]), if_neg (by simp [hclaims]), if_neg (hstays ▸ hon)]
  rfl

/-- A scan that no job runs ends with its counts. -/
theorem execEyeScanDone_of_no_job {h : Lane} {s : State} (errors : Nat) (hbusy : s.flag (HL_EYE_STATUS.BUSY h) = true)
    (hjob : (s.lane h).eyeJob = 0) :
    ∃ u : State, execEyeScanDone h errors s = .next ((u.setFld (HL_EYE_STATUS.BUSY h) 0).setFld (HL_EYE_STATUS.DONE h) 1) := by
  refine ⟨(s.set64 (HL_EYE_UI h) (2 ^ eyeDwell s h)).set64 (HL_EYE_ERR h) (min errors (2 ^ eyeDwell s h)), ?_⟩
  have hnone : s.jobs.find? (fun j => (0 : Nat) != 0 && j.num == 0) = none := List.find?_eq_none.2 (by simp)
  have hlane : (((s.set64 (HL_EYE_UI h) (2 ^ eyeDwell s h)).set64 (HL_EYE_ERR h) (min errors (2 ^ eyeDwell s h))).lane h).eyeJob = 0 := by
    simp [hjob]
  rw [execEyeScanDone, if_neg (by simp [hbusy])]
  dsimp only
  rw [hlane, State.set64_jobs, State.set64_jobs, hnone]

/-! ### Patterns (R286, R287, R431) -/

/-- With the generator on, no claim is released: the enables read as they are set. -/
theorem setPrbs_of_generator {rx : Nat} (h : Nat) (s : State) (hrx : rx < 2) :
    (setPrbs h 1 rx s).flag (HL_PRBS_CTRL.TX_EN h) = true ∧ (setPrbs h 1 rx s).fld (HL_PRBS_CTRL.RX_EN h) = rx := by
  unfold setPrbs
  extract_lets was s1 s2 s3 s4
  have hregs : s4.regs = s2.regs := by
    simp only [s4, s3]
    split
    · exact State.modLane_regs _ _ _
    · rfl
  rw [if_neg (by simp), State.flag_congr _ _ hregs, State.fld_congr _ _ hregs]
  constructor
  · rw [State.flag_setFld_apart _ _ _ _ (Nat.le_refl 30) (by decide : 30 < 32) (.inr (.inr (by decide : 30 < 31)))]
    exact State.flag_setFld_one _ _ (Nat.le_refl 31) (by decide : 31 < 32)
  · rw [State.fld_setFld_same _ _ _ (Nat.le_refl 30) (by decide : 30 < 32)]
    exact Nat.mod_eq_of_lt hrx

theorem injectBits_regs (h k : Nat) (s : State) : (injectBits h k s).regs = s.regs := by
  unfold injectBits
  split
  · exact State.modLane_regs _ _ _
  · rfl

/-- A generator that is on has so many more bits to invert. -/
theorem injectBits_of_generator {h : Nat} {s : State} (k : Nat) (hgen : s.flag (HL_PRBS_CTRL.TX_EN h) = true) :
    ((injectBits h k s).lane h).inject = (s.lane h).inject + k ∧ (injectBits h k s).regs = s.regs := by
  refine ⟨?_, injectBits_regs h k s⟩
  rw [injectBits, if_pos hgen, State.lane_modLane]

/-- A write of HL_PRBS_CTRL under the grant that sets TX_EN leaves both enables and the pattern as written. -/
theorem writePrbsCtrl_fields {h w : Nat} {s : State} (hgen : bit w 31 = true) (hclaim : laneClaim s 6 h = true) :
    (writePrbsCtrl h w s).flag (HL_PRBS_CTRL.TX_EN h) = true ∧ (writePrbsCtrl h w s).fld (HL_PRBS_CTRL.RX_EN h) = bits w 30 30 ∧
      (writePrbsCtrl h w s).fld (HL_PRBS_CTRL.TX_PAT h) = bits w 27 26 := by
  have hone : bits w 31 31 = 1 := by rw [bits_self, hgen]; rfl
  obtain ⟨htx, hrx⟩ := setPrbs_of_generator (rx := bits w 30 30) h s (Nat.mod_lt _ (by decide))
  unfold writePrbsCtrl
  rw [if_neg (by simp [hclaim]), hone]
  extract_lets s1 s2 s3 s4
  have hregs : (if bit w 16 then injectBits h (max 1 (bits w 15 8)) s4 else s4).regs = s3.regs := by
    have h4 : s4.regs = s3.regs := by
      simp only [s4]
      split
      · exact injectBits_regs _ _ _
      · rfl
    split
    · rw [injectBits_regs, h4]
    · exact h4
  have hapart (f : Fld) (hf : 30 ≤ f.lo) : s3.fld f = s1.fld f := by
    simp only [s3, s2]
    rw [State.fld_setFld_apart _ _ f _ (Nat.zero_le 7) (by decide : 7 < 32) (.inr (.inr (Nat.lt_of_lt_of_le (by decide : 7 < 30) hf))),
      State.fld_setFld_apart _ _ f _ (by decide : 8 ≤ 15) (by decide : 15 < 32) (.inr (.inr (Nat.lt_of_lt_of_le (by decide : 15 < 30) hf))),
      State.fld_setFld_apart _ _ f _ (by decide : 24 ≤ 25) (by decide : 25 < 32) (.inr (.inr (Nat.lt_of_lt_of_le (by decide : 25 < 30) hf))),
      State.fld_setFld_apart _ _ f _ (by decide : 26 ≤ 27) (by decide : 27 < 32) (.inr (.inr (Nat.lt_of_lt_of_le (by decide : 27 < 30) hf)))]
  simp only [State.flag, State.fld_congr _ _ hregs]
  refine ⟨?_, ?_, ?_⟩
  · rw [hapart _ (by decide : 30 ≤ 31)]
    exact htx
  · rw [hapart _ (Nat.le_refl 30)]
    exact hrx
  · simp [s3, s2, State.fld_setFld_bits, State.fld_setFld_apart, HL_PRBS_CTRL.TX_PAT, HL_PRBS_CTRL.RX_PAT, HL_PRBS_CTRL.BURST_LEN,
      HL_PRBS_CTRL.USER_LEN]

/-- A checker that loses lock shows it. -/
theorem prbsUnlock_unlocks (h : Nat) (s : State) : (prbsUnlock h s).flag (HL_PRBS_STATUS.LOCKED h) = false := by
  unfold prbsUnlock
  split
  next =>
    rw [State.flag_setFld_apart _ _ _ _ (by decide : 16 ≤ 31) (by decide : 31 < 32) (.inr (.inl (by decide : 0 < 16)))]
    exact State.flag_setFld_zero _ _ (Nat.le_refl 0) (by decide : 0 < 32)
  next hunlocked => exact Bool.eq_false_iff.2 hunlocked

end Sys2Proof.Machine
end

section
/-! PROOF. The statement about eye scans and test patterns of the host lanes (O33). -/
namespace Sys2Proof.Claims
open Sys2Proof Sys2Proof.Machine

section
variable {h : Lane} {s : State}

/-! ### Eye scans (R283, R284, R435) -/

theorem eyeScanStart_starts {v : Word} (hidle : s.flag (HL_EYE_STATUS.BUSY h) = false) (hstart : bit v.toNat 31 = true)
    (hclaim : laneClaim s 4 h = true) (hon : laneState s h ≠ 0) :
    ∃ t : State, exec (.eyeScanStart h v) s = .next t ∧ t.flag (HL_EYE_STATUS.BUSY h) = true ∧ t.flag (HL_EYE_STATUS.DONE h) = false ∧
      t.fld (HL_EYE_CTRL.PHASE h) = bits v.toNat 21 16 ∧ t.fld (HL_EYE_CTRL.VOFF h) = bits v.toNat 14 8 ∧
      t.fld (HL_EYE_CTRL.DWELL h) = bits v.toNat 5 0 := by
  obtain ⟨hphase, hvoff, hdwell⟩ := setEyeFields_fields h v.toNat s
  obtain ⟨hbusy, hnot, hstands⟩ := startEye_shows h (setEyeFields h v.toNat s)
  refine ⟨startEye h (setEyeFields h v.toNat s), ?_, hbusy, hnot, (hstands _ (eyeCtrl_ne_eyeStatus h)).trans hphase,
    (hstands _ (eyeCtrl_ne_eyeStatus h)).trans hvoff, (hstands _ (eyeCtrl_ne_eyeStatus h)).trans hdwell⟩
  exact congrArg Host.Outcome.next (writeEyeCtrl_of_claim hidle hstart hclaim hon)

/-- A scan of no job ends here. -/
theorem eyeScanDone_ends (errors : Nat) (hbusy : s.flag (HL_EYE_STATUS.BUSY h) = true) (hjob : (s.lane h).eyeJob = 0) :
    ∃ t : State, exec (.eyeScanDone h errors) s = .next t ∧ t.flag (HL_EYE_STATUS.BUSY h) = false ∧ t.flag (HL_EYE_STATUS.DONE h) = true := by
  obtain ⟨u, hends⟩ := execEyeScanDone_of_no_job errors hbusy hjob
  refine ⟨_, hends, ?_, State.flag_setFld_one _ _ (Nat.le_refl 1) (by decide : 1 < 32)⟩
  rw [State.flag_setFld_apart _ _ _ _ (Nat.le_refl 1) (by decide : 1 < 32) (.inr (.inl (by decide : 0 < 1)))]
  exact State.flag_setFld_zero _ _ (Nat.le_refl 0) (by decide : 0 < 32)

/-! ### Patterns (R286, R287) -/

theorem prbsEnableWrite_sets {v : Word} (hgen : bit v.toNat 31 = true) (hclaim : laneClaim s 6 h = true) :
    ∃ t : State, exec (.prbsEnableWrite h v) s = .next t ∧ t.flag (HL_PRBS_CTRL.TX_EN h) = true ∧
      t.flag (HL_PRBS_CTRL.RX_EN h) = bit v.toNat 30 ∧ t.fld (HL_PRBS_CTRL.TX_PAT h) = bits v.toNat 27 26 := by
  obtain ⟨htx, hrx, hpat⟩ := writePrbsCtrl_fields hgen hclaim
  exact ⟨_, rfl, htx, by rw [State.flag, hrx, bits_self]; cases bit v.toNat 30 <;> rfl, hpat⟩

theorem prbsInjSingle_inverts (hgen : s.flag (HL_PRBS_CTRL.TX_EN h) = true) :
    ∃ t : State, exec (.prbsInjSingle h) s = .next t ∧ (t.lane h).inject = (s.lane h).inject + 1 ∧ t.regs = s.regs :=
  ⟨_, rfl, injectBits_of_generator 1 hgen⟩

theorem prbsInjBurst_inverts (hgen : s.flag (HL_PRBS_CTRL.TX_EN h) = true) :
    ∃ t : State, exec (.prbsInjBurst h) s = .next t ∧ (t.lane h).inject = (s.lane h).inject + max 1 (s.fld (HL_PRBS_CTRL.BURST_LEN h)) ∧
      t.regs = s.regs :=
  ⟨_, rfl, injectBits_of_generator _ hgen⟩

theorem prbsCheckerLock_locks (hcheck : s.flag (HL_PRBS_CTRL.RX_EN h) = true) :
    ∃ t : State, exec (.prbsCheckerLock h) s = .next t ∧ t.flag (HL_PRBS_STATUS.LOCKED h) = true :=
  ⟨_, if_pos hcheck, State.flag_setFld_one _ _ (Nat.le_refl 0) (by decide : 0 < 32)⟩

theorem prbsLockLoss_unlocks (compared wrong : Nat) (hlocked : s.flag (HL_PRBS_STATUS.LOCKED h) = true) :
    ∃ t : State, exec (.prbsLockLoss h compared wrong) s = .next t ∧ t.flag (HL_PRBS_STATUS.LOCKED h) = false := by
  refine ⟨((prbsUnlock h s).add64 (HL_PRBS_BITS h) compared).add64 (HL_PRBS_ERR h) wrong, ?_, ?_⟩
  · show execPrbsLockLoss h compared wrong s = _
    rw [execPrbsLockLoss, if_neg (by simp [hlocked])]
  · have herr : HL_PRBS_STATUS h ≠ HL_PRBS_ERR h ∧ HL_PRBS_STATUS h ≠ HL_PRBS_ERR h + 4 := by simp [HL_PRBS_STATUS, HL_PRBS_ERR]
    have hbits : HL_PRBS_STATUS h ≠ HL_PRBS_BITS h ∧ HL_PRBS_STATUS h ≠ HL_PRBS_BITS h + 4 := by simp [HL_PRBS_STATUS, HL_PRBS_BITS]
    rw [State.flag_add64_other _ _ _ _ herr.1 herr.2, State.flag_add64_other _ _ _ _ hbits.1 hbits.2]
    exact prbsUnlock_unlocks h s

end

/-- Settles O33, clause by clause: a scan shows what it was aimed at, and the generator and the checker what was asked of them. -/
theorem hostLanesEyesAndPatterns : Obligations.HostLanesEyesAndPatterns :=
  ⟨fun _ _ _ => eyeScanStart_starts, fun _ errors _ => eyeScanDone_ends errors, fun _ _ _ => prbsEnableWrite_sets, fun _ _ => prbsInjSingle_inverts,
    fun _ _ => prbsInjBurst_inverts, fun _ _ => prbsCheckerLock_locks, fun _ compared wrong _ => prbsLockLoss_unlocks compared wrong⟩

end Sys2Proof.Claims
end

section
/-! SUPPORT. What the operations of Energy-Efficient Idle answer: the record of a link after an entry is agreed or dropped, as a wake begins and as its depth
ends, and what leaves with the alerts. -/
namespace Sys2Proof.Machine

/-! ### Kinds of state that an operation leaves -/

theorem refreshModes_links (n : Port) (s : State) : (refreshModes n s).links = s.links :=
  (@keeps_refreshModes (· ∈ [.regs, .raised]) ⟨by decide⟩ ⟨by decide⟩ s s n (keeps_refl _ s)).same .links (by decide)

theorem beginWake_pairs (l : LinkId) (cause : Nat) (s : State) : (beginWake l cause s).pairs = s.pairs :=
  (@keeps_beginWake (· ∈ [.regs, .links, .out]) ⟨by decide⟩ ⟨by decide⟩ ⟨by decide⟩ s s l cause (keeps_refl _ s)).same .pairs (by decide)

/-! ### An entry agreed, refused, dropped (R296, R308, R313) -/

theorem modEei_link (l : LinkId) (g : EeiSt → EeiSt) (s : State) : (modEei l g s).link l = { s.link l with eei := g (s.link l).eei } :=
  State.link_modLink s l _

theorem countRefusal_link (l : LinkId) (code : Nat) (s : State) :
    (countRefusal l code s).link l = { s.link l with eei := { (s.link l).eei with hold := 0 } } := by
  unfold countRefusal
  split <;> rw [State.link_modLink, State.setFld_link]
  rw [State.inc_link]

theorem countAbort_link (l : LinkId) (code : Nat) (s : State) :
    (countAbort l code s).link l = { s.link l with eei := { (s.link l).eei with hold := 0 } } := by
  unfold countAbort
  split <;> rw [State.link_modLink, State.setFld_link]
  rw [State.inc_link]

theorem agreeEntry_link (l : LinkId) (depth stage : Nat) (s : State) : (agreeEntry l depth stage s).link l = { s.link l with
    eei := { (s.link l).eei with depth := depth, entry := stage, agreed := true, enterWake := false, peerWake := false, sendWake := false },
    changes := (s.link l).changes ++ [⟨stage, .eei depth, false, false⟩] } := by
  rw [agreeEntry, State.setReg_link, agree_link, modEei_link]
  rfl

theorem dropEntry_link (l : LinkId) (s : State) : ∃ changes, (dropEntry l s).link l = { s.link l with
    changes := changes,
    eei := { (s.link l).eei with agreed := false, enterWake := false, peerWake := false, sendWake := false, abortCode := none } } := by
  rw [dropEntry, modEei_link, State.link_modLink]
  exact ⟨_, rfl⟩

/-- Outside an entry and a depth the new budget and depth wake nothing (R45, R294). -/
theorem applyBudget_link {l : LinkId} {s : State} (hfree : (s.link l).eei.agreed = false) (hawake : (s.link l).eei.inDepth = false) :
    ∃ cap, (applyBudget l s).link l = { s.link l with eei := { (s.link l).eei with
      budget := min (s.fld (EEI_WAKE_BUDGET.BUDGET l.n)) 1000000, maxDepth := s.fld (EEI_CFG.MAX_DEPTH l.n), cap := cap } } := by
  unfold applyBudget
  extract_lets n b d s1 v s2 e s3
  have h2 : s2.link l = s1.link l := by
    simp only [s2]
    split
    · exact State.modPort_link _ _ _ l
    · rfl
  have hnone : s3 = s2 := if_neg (by simp [e, h2, s1, modEei_link, hfree, hawake])
  rw [State.link_congr (refreshModes_links n _), hnone, h2, modEei_link]
  exact ⟨_, rfl⟩

/-! ### A wake (R302, R303) -/

/-- A pair's alert symbols, and the training after them. -/
def alertPair (l : LinkId) (count p : Nat) (s : State) : State :=
  sendTraining l 0 count p ((countClips l.n p (alertSymbols s l.n p) s).emit (.alert l p (alertSymbols s l.n p)))

theorem keeps_alertPair (l : LinkId) (count p : Nat) (s : State) : Keeps (· ∈ [.regs, .out]) s (alertPair l count p s) :=
  @keeps_sendTraining _ ⟨by decide⟩ ⟨by decide⟩ _ _ _ _ _ _
    (@keeps_emit _ ⟨by decide⟩ _ _ _ (@keeps_countClips _ ⟨by decide⟩ _ _ _ _ _ (keeps_refl _ s)))

theorem alertPairs_links (l : LinkId) (count : Nat) (ps : List Nat) (s : State) : (forEach ps (alertPair l count) s).links = s.links :=
  forEach_eq_of_step_eq State.links _ (fun p s => (keeps_alertPair l count p s).same .links (by decide)) ps s

/-- Where a wake has a cause and its pre-step is over, every carrying pair alerts the far end, and EEI_WAKE waits to be sent. -/
theorem startAlerts_of_due {l : LinkId} {s : State} (hwaking : (s.link l).eei.waking.isSome = true) (hpre : (s.link l).eei.preDone = true)
    (hnew : (s.link l).eei.alertSent = false) : ∃ stage, startAlerts l s = sendPort l 0x44 (some stage) 0 (modEei l
      (fun e => { e with alertSent := true, sendWake := true }) (forEach (maskPairs (s.link l).carry) (alertPair l (wakeTraining (s.link l).eei.depth)) s)) := by
  rw [startAlerts, if_pos (by simp [hwaking, hpre, hnew])]
  exact ⟨_, rfl⟩

/-- The alerts, and EEI_WAKE after them, are all that a wake sends. -/
theorem startAlerts_link (l : LinkId) (s : State) : ∃ waiting alertSent sendWake, (startAlerts l s).link l =
    { s.link l with waiting := waiting, eei := { (s.link l).eei with alertSent := alertSent, sendWake := sendWake } } := by
  unfold startAlerts
  extract_lets e s1
  split
  · have h1 : s1.links = s.links := alertPairs_links l _ _ s
    rw [Claims.sendPort_link, modEei_link, State.link_congr h1]
    exact ⟨_, _, _, rfl⟩
  · exact ⟨_, _, _, rfl⟩

theorem beginWake_link (l : LinkId) (cause : Nat) (s : State) : ∃ waiting preDone alertSent sendWake, (beginWake l cause s).link l =
    { s.link l with waiting := waiting, eei := { (s.link l).eei with
      waking := some cause, wakeAt := s.now, preDone := preDone, confirmed := true, cap := 3, alertSent := alertSent, sendWake := sendWake } } := by
  unfold beginWake
  extract_lets s1
  obtain ⟨waiting, alertSent, sendWake, h⟩ := startAlerts_link l (s1.setFld (EEI_STATUS.LAST_WAKE l.n) cause)
  rw [h, State.setFld_link, modEei_link]
  exact ⟨_, _, _, _, rfl⟩

/-- In a depth with no wake under way, a cause begins one. -/
theorem wakeCause_of_depth {l : LinkId} {s : State} (cause : Nat) (hphase : (s.link l).phase = 7) (hdepth : (s.link l).eei.inDepth = true)
    (hquiet : (s.link l).eei.waking = none) : wakeCause l cause s = beginWake l cause s := by
  simp [wakeCause, hphase, hdepth, hquiet]

theorem wakeCause_wakes {l : LinkId} {s : State} (cause : Nat) (hphase : (s.link l).phase = 7) (hdepth : (s.link l).eei.inDepth = true)
    (hquiet : (s.link l).eei.waking = none) :
    ((wakeCause l cause s).link l).eei.waking = some cause ∧ ((wakeCause l cause s).link l).eei.confirmed = true := by
  obtain ⟨_, _, _, _, h⟩ := beginWake_link l cause s
  rw [wakeCause_of_depth cause hphase hdepth hquiet, h]
  exact ⟨rfl, rfl⟩

/-- Pair `p` of the link has sent its eight alert symbols. -/
def AlertSent (l : LinkId) (p : Nat) (s : State) : Prop := ∃ ys, ys.length = 8 ∧ Out.alert l p ys ∈ s.out

theorem AlertSent.later {l : LinkId} {p : Nat} {s t : State} (h : AlertSent l p s) (ho : s.out <+: t.out) : AlertSent l p t := by
  obtain ⟨ys, hlen, hmem⟩ := h
  exact ⟨ys, hlen, ho.subset hmem⟩

theorem alertPair_sends (l : LinkId) (count p : Nat) (s : State) : AlertSent l p (alertPair l count p s) := by
  have hsent : AlertSent l p ((countClips l.n p (alertSymbols s l.n p) s).emit (.alert l p (alertSymbols s l.n p))) :=
    ⟨_, by simp [alertSymbols], List.mem_append_right _ (List.mem_singleton_self _)⟩
  exact hsent.later (@keeps_sendTraining (· ∈ [.regs, .out]) ⟨by decide⟩ ⟨by decide⟩ _ _ l 0 count p (keeps_refl _ _)).out

theorem startAlerts_alerts {l : LinkId} {s : State} (hwaking : (s.link l).eei.waking.isSome = true) (hpre : (s.link l).eei.preDone = true)
    (hnew : (s.link l).eei.alertSent = false) : ((startAlerts l s).link l).eei.preDone = true ∧ ((startAlerts l s).link l).eei.alertSent = true ∧
      ∀ p ∈ maskPairs (s.link l).carry, AlertSent l p (startAlerts l s) := by
  obtain ⟨stage, hsent⟩ := startAlerts_of_due hwaking hpre hnew
  rw [hsent, Claims.sendPort_link, modEei_link, State.link_congr (alertPairs_links l _ _ s)]
  refine ⟨hpre, rfl, fun p hp => ?_⟩
  have halerts : AlertSent l p (forEach (maskPairs (s.link l).carry) (alertPair l (wakeTraining (s.link l).eei.depth)) s) :=
    forEach_of_mem (alertPair_sends l _) (fun _ q u h => h.later (keeps_alertPair l _ q u).out) hp s
  exact halerts.later (by rw [sendPort, State.modLink_out, modEei, State.modLink_out])

/-! ### A depth entered and left (R298, R313) -/

theorem setQuiet_link (l : LinkId) (on : Bool) (s : State) (m : LinkId) : (setQuiet l on s).link m = s.link m :=
  forEach_eq_of_step_eq (fun s => s.link m) _ (fun p s => State.modPair_link s l.n p _ m) _ s

theorem setQuiet_quiet (l : LinkId) (on : Bool) (s : State) {p : Nat} (hp : p ∈ maskPairs ((s.link l).carry ||| (s.link l).carryRx)) :
    ((setQuiet l on s).pair l.n p).quiet = on := by
  refine forEach_of_mem (P := fun p s => (s.pair l.n p).quiet = on) (fun p s => ?_) (fun p q s hq => ?_) hp s
  · rw [State.pair_modPair]
  · obtain h | h := s.pair_modPair_or l.n p l.n q (fun k => { k with quiet := on }) <;> rw [h]
    exact hq

theorem endDepth_link (l : LinkId) (s : State) : ∃ waiting, (endDepth l s).link l = { s.link l with
    waiting := waiting,
    eei := { (s.link l).eei with
      inDepth := false, waking := none, detected := false, preDone := false, confirmed := false, alertSent := false, alertHeard := false,
      partialFr := false, enterWake := false, peerWake := false, sendWake := false, hold := 0, cap := 3 } } := by
  unfold endDepth
  extract_lets s1 s2
  have h2 : s2.link l = s1.link l := forEach_eq_of_step_eq (fun s => s.link l) _ (fun p s => State.modPair_link s l.n.val p _ l) _ s1
  rw [State.link_modLink, h2, modEei_link]
  exact ⟨_, rfl⟩

/-- The end of a depth leaves the sets that the pairs stored. -/
theorem endDepth_storedIds (l : LinkId) (s : State) (n p : Nat) : ((endDepth l s).pair n p).storedIds = (s.pair n p).storedIds := by
  have hquiet (q : Nat) (s : State) : ((s.modPair l.n.val q (fun k => { k with quiet := false })).pair n p).storedIds = (s.pair n p).storedIds := by
    obtain h | h := s.pair_modPair_or n p l.n.val q (fun k => { k with quiet := false }) <;> rw [h]
  rw [endDepth, State.modLink_pair, forEach_eq_of_step_eq (fun s => (s.pair n p).storedIds) _ hquiet, modEei, State.modLink_pair]

theorem endDepth_regs (l : LinkId) (s : State) : (endDepth l s).regs = s.regs :=
  (@keeps_endDepth (· ∈ [.pairs, .links]) ⟨by decide⟩ ⟨by decide⟩ s s l (keeps_refl _ s)).same .regs (by decide)

/-- Whether a fast retrain is allowed depends on FR_ALLOW, the two identities and the stored sets (R190). -/
theorem fastAllowed_congr {l : LinkId} {s t : State} (hflag : t.flag (PORT_STARTUP_CFG.FR_ALLOW l.n) = s.flag (PORT_STARTUP_CFG.FR_ALLOW l.n))
    (hown : (t.link l).ownId = (s.link l).ownId) (hpeer : (t.link l).peerId = (s.link l).peerId)
    (hstored : ∀ p, (t.pair l.n p).storedIds = (s.pair l.n p).storedIds) : fastAllowed t l = fastAllowed s l := by
  simp only [fastAllowed, hflag, hown, hpeer, hstored]

theorem fastAllowed_endDepth (l : LinkId) (s : State) : fastAllowed (endDepth l s) l = fastAllowed s l := by
  obtain ⟨_, h⟩ := endDepth_link l s
  exact fastAllowed_congr (State.flag_congr _ _ (endDepth_regs l s) _) (by rw [h]) (by rw [h]) (endDepth_storedIds l s l.n)

/-- A partial fast retrain that fails where a fast one is allowed goes on as that, with cause MARGIN (R307). -/
theorem partialFail_link {l : LinkId} {s : State} (hphase : (s.link l).phase ≠ 8) (hpartial : (s.link l).eei.partialFr = true)
    (hfast : fastAllowed s l = true) : ((partialFail l s).link l).phase = 8 ∧ ((partialFail l s).link l).frCause = 7 := by
  unfold partialFail
  rw [if_neg (by simp [hpartial])]
  extract_lets s1
  have h1 : s1.link l = s.link l := (State.raise_link _ _ _ _ l).trans (State.inc_link s _ l)
  have hflag : s1.flag (PORT_STARTUP_CFG.FR_ALLOW l.n) = s.flag (PORT_STARTUP_CFG.FR_ALLOW l.n) := by
    have hne : (PORT_STARTUP_CFG.FR_ALLOW l.n).addr ≠ EEI_WAKE_LATE l.n := by simp [PORT_STARTUP_CFG.FR_ALLOW, PORT_STARTUP_CFG, EEI_WAKE_LATE]
    rw [State.raise_flag, State.flag, State.fld_inc_other s _ _ hne, State.flag]
  have hfast1 : fastAllowed s1 l = true := by
    rw [← hfast]
    exact fastAllowed_congr hflag (by rw [h1]) (by rw [h1]) fun p => by rw [State.raise_pair, State.inc_pair]
  obtain ⟨_, hended⟩ := endDepth_link l s1
  have hphase1 : ((endDepth l s1).link l).phase ≠ 8 := by rw [hended, h1]; exact hphase
  rw [beginRetrain_of_fast hphase1 ((fastAllowed_endDepth l s1).trans hfast1)]
  obtain ⟨h8, -, hcause, -⟩ := startFast_link l (s.link l).own 7 0 ((endDepth l s1).modLink l (fun k => { k with lastRetrain := 7 }))
  rw [h1]
  exact ⟨h8, hcause⟩

end Sys2Proof.Machine
end

section
/-! SUPPORT. What the pilots of a refresh make of the run of weak stages of each pair. -/
namespace Sys2Proof.Machine

/-! ### One step of many, and what the others leave -/

/-- Where the other items of a list leave a view of the state, at the end it is that right after an item's own step. -/
theorem forEach_view_of_mem {α β : Type} (view : State → β) {f : α → State → State} {x : α} {xs : List α} (hnodup : xs.Nodup) (hx : x ∈ xs)
    (hother : ∀ y s, y ≠ x → view (f y s) = view s) (s : State) : ∃ u, view u = view s ∧ view (forEach xs f s) = view (f x u) := by
  have hleft (ys : List α) (hys : x ∉ ys) (s : State) : view (forEach ys f s) = view s := by
    induction ys generalizing s with
    | nil => rfl
    | cons y ys ih =>
      obtain ⟨hne, hys⟩ := not_or.mp (mt List.mem_cons.mpr hys)
      exact (ih hys (f y s)).trans (hother y s (Ne.symm hne))
  obtain ⟨ys, zs, rfl⟩ := List.append_of_mem hx
  obtain ⟨-, htail, hapart⟩ := List.nodup_append.mp hnodup
  have hys : x ∉ ys := fun h => hapart x h x List.mem_cons_self rfl
  refine ⟨forEach ys f s, hleft ys hys s, ?_⟩
  rw [forEach_append, forEach_cons, hleft zs (List.nodup_cons.mp htail).1]

theorem maskPairs_nodup (m : Nat) : (maskPairs m).Nodup := List.Nodup.filter _ (by decide)

/-- Taking out entries of other keys leaves what a key reads. -/
theorem SMap.get_filter {α : Type} (d : Nat → α) {q : Nat × α → Bool} {k : Nat} (hk : ∀ v, q (k, v) = true) (m : SMap α) :
    SMap.get d (m.filter q) k = SMap.get d m k := by
  induction m with
  | nil => rfl
  | cons e m ih =>
    obtain ⟨j, v⟩ := e
    by_cases hj : k = j
    · subst hj
      rw [List.filter_cons_of_pos (hk v), SMap.get, if_pos rfl, SMap.get, if_pos rfl]
    · rw [SMap.get, if_neg hj, ← ih]
      by_cases hq : q (j, v) = true
      · rw [List.filter_cons_of_pos hq, SMap.get, if_neg hj]
      · rw [List.filter_cons_of_neg hq]

theorem gpair_ne {p q : Nat} (n : Nat) (h : q ≠ p) : gpair n p ≠ gpair n q := by
  simp only [gpair]
  omega

theorem State.pair_modPair_other (s : State) {n p q : Nat} (g : PairSt → PairSt) (h : q ≠ p) : (s.modPair n q g).pair n p = s.pair n p :=
  SMap.get_put_other _ _ _ _ _ (gpair_ne n h)

/-! ### The pilots of a refresh (R147, R299) -/

/-- The pilot SNR is that of the pair's own errors, on the pilots that the link receives. -/
theorem pilotSnr_congr {l : LinkId} {p : Nat} {s t : State} (hlink : t.link l = s.link l)
    (herrs : ∀ k < 512, t.errOf (gpair l.n p) k = s.errOf (gpair l.n p) k) : pilotSnr t l p = pilotSnr s l p := by
  have hvalues := List.filterMap_congr (l := rxPilots (s.link l))
    (f := fun k => if (t.errOf (gpair l.n p) k).2 = 0 then none
      else some (snrCode (2 * 4096 * (t.errOf (gpair l.n p) k).2) (t.errOf (gpair l.n p) k).1))
    (g := fun k => if (s.errOf (gpair l.n p) k).2 = 0 then none
      else some (snrCode (2 * 4096 * (s.errOf (gpair l.n p) k).2) (s.errOf (gpair l.n p) k).1))
    fun k hk => by rw [herrs k (List.mem_range.mp (List.mem_filter.mp hk).1)]
  simp only [pilotSnr, hlink]
  rw [hvalues]

/-- What a refresh goes by for a pair: the pilots' SNR, the dead limit, the link's phase; and the run that it counts. -/
def refreshView (l : LinkId) (p : Nat) (s : State) : Option Nat × Nat × Nat × Nat :=
  (pilotSnr s l p, s.fld (PORT_RX_LIMITS.DEAD_SNR l.n), (s.link l).phase, (s.pair l.n p).deadRun)

theorem showMonitors_refreshView (l : LinkId) (p : Nat) (meas : List StageMeas) (s : State) :
    refreshView l p (showMonitors l meas s) = refreshView l p s := by
  have hkeeps := @keeps_showMonitors (· ∈ [.regs]) ⟨by decide⟩ s s l meas (keeps_refl _ s)
  have hlink : (showMonitors l meas s).link l = s.link l := State.link_congr (showMonitors_links l meas s) l
  have hpair : (showMonitors l meas s).pair l.n p = s.pair l.n p := State.pair_congr (hkeeps.same .pairs (by decide)) _ _
  have herrs : (showMonitors l meas s).errs = s.errs := hkeeps.same .errs (by decide)
  have hdead : (showMonitors l meas s).fld (PORT_RX_LIMITS.DEAD_SNR l.n) = s.fld (PORT_RX_LIMITS.DEAD_SNR l.n) := by
    refine forEach_eq_of_step_eq (fun s => s.fld (PORT_RX_LIMITS.DEAD_SNR l.n)) _ (fun m s => ?_) _ s
    have hterr : PORT_RX_LIMITS l.n ≠ PAIR_TR_STATUS l.n m.p := by simp only [PORT_RX_LIMITS, PAIR_TR_STATUS, pairBase]; omega
    have hpower : PORT_RX_LIMITS l.n ≠ PAIR_TX_POWER l.n m.p := by simp only [PORT_RX_LIMITS, PAIR_TX_POWER, pairBase]; omega
    dsimp only
    split
    · exact State.fld_eq_of_reg_eq (State.reg_setFld_other _ _ _ _ hterr)
    · exact State.fld_eq_of_reg_eq ((State.reg_setFld_other _ _ _ _ hpower).trans (State.reg_setFld_other _ _ _ _ hterr))
  have hsnr : pilotSnr (showMonitors l meas s) l p = pilotSnr s l p :=
    pilotSnr_congr hlink fun k _ => by rw [State.errOf, State.errOf, herrs]
  rw [refreshView, hsnr, hdead, hlink, hpair, refreshView]

theorem showFreq_pairs (l : LinkId) (s : State) : (showFreq l s).pairs = s.pairs :=
  (@keeps_showFreq (· ∈ [.regs]) ⟨by decide⟩ s s l (keeps_refl _ s)).same .pairs (by decide)

theorem measurePilots_errs (l : LinkId) (q : Nat) (s : State) : (measurePilots l q s).errs = s.errs :=
  (@keeps_measurePilots (· ∈ [.regs, .pairs]) ⟨by decide⟩ ⟨by decide⟩ s s l q (keeps_refl _ s)).same .errs (by decide)

theorem measurePilots_links (l : LinkId) (q : Nat) (s : State) : (measurePilots l q s).links = s.links :=
  (@keeps_measurePilots (· ∈ [.regs, .pairs]) ⟨by decide⟩ ⟨by decide⟩ s s l q (keeps_refl _ s)).same .links (by decide)

theorem measurePilots_deadLimit (l : LinkId) (q : Nat) (s : State) :
    (measurePilots l q s).fld (PORT_RX_LIMITS.DEAD_SNR l.n) = s.fld (PORT_RX_LIMITS.DEAD_SNR l.n) := by
  have hne : PORT_RX_LIMITS l.n ≠ PAIR_PILOT_SNR l.n q := by simp only [PORT_RX_LIMITS, PAIR_PILOT_SNR, pairBase]; omega
  unfold measurePilots
  extract_lets n k dead
  split
  · rfl
  · rw [State.modPair_fld]
    exact State.fld_eq_of_reg_eq (State.reg_setFld_other _ _ _ _ hne)

theorem clearErrors_regs (n q : Nat) (s : State) : (clearErrors n q s).regs = s.regs :=
  (@keeps_clearErrors (· ∈ [.pairs, .errs]) ⟨by decide⟩ ⟨by decide⟩ s s n q (keeps_refl _ s)).same .regs (by decide)

theorem clearErrors_links (n q : Nat) (s : State) : (clearErrors n q s).links = s.links :=
  (@keeps_clearErrors (· ∈ [.pairs, .errs]) ⟨by decide⟩ ⟨by decide⟩ s s n q (keeps_refl _ s)).same .links (by decide)

theorem clearErrors_pair_other {n p q : Nat} (s : State) (h : q ≠ p) : (clearErrors n q s).pair n p = s.pair n p :=
  State.pair_modPair_other _ _ h

theorem clearErrors_deadRun (n p : Nat) (s : State) : ((clearErrors n p s).pair n p).deadRun = (s.pair n p).deadRun := by
  rw [clearErrors, State.pair_modPair]
  rfl

/-- The errors of the other pairs stand. -/
theorem clearErrors_errOf_other {n p q k : Nat} (s : State) (h : q ≠ p) (hk : k < 512) :
    (clearErrors n q s).errOf (gpair n p) k = s.errOf (gpair n p) k := by
  have hkept : (gpair n p * 512 + k) / 512 ≠ gpair n q := by
    have := gpair_ne n h
    omega
  rw [clearErrors, State.errOf, State.modPair_errs, SMap.get_filter _ (fun v => by simpa using hkept), State.errOf]

theorem measurePilots_pair_other {l : LinkId} {p q : Nat} (s : State) (h : q ≠ p) : (measurePilots l q s).pair l.n p = s.pair l.n p := by
  unfold measurePilots
  extract_lets n k dead
  split
  · rfl
  · rw [State.pair_modPair_other _ _ h, State.setFld_pair]

/-- The pilots of another pair, and clearing its errors, leave what a pair goes by. -/
theorem refreshView_other {l : LinkId} {p q : Nat} (s : State) (h : q ≠ p) :
    refreshView l p (clearErrors l.n q (measurePilots l q s)) = refreshView l p s := by
  have hlink : (clearErrors l.n q (measurePilots l q s)).link l = s.link l :=
    State.link_congr ((clearErrors_links _ _ _).trans (measurePilots_links l q s)) l
  have hdead : (clearErrors l.n q (measurePilots l q s)).fld (PORT_RX_LIMITS.DEAD_SNR l.n) = s.fld (PORT_RX_LIMITS.DEAD_SNR l.n) :=
    (State.fld_congr _ _ (clearErrors_regs _ _ _) _).trans (measurePilots_deadLimit l q s)
  have hsnr : pilotSnr (clearErrors l.n q (measurePilots l q s)) l p = pilotSnr s l p :=
    pilotSnr_congr hlink fun k hk => by rw [clearErrors_errOf_other _ h hk, State.errOf, measurePilots_errs, State.errOf]
  rw [refreshView, hsnr, hdead, hlink, clearErrors_pair_other _ h, measurePilots_pair_other s h, refreshView]

/-- The run of weak stages after one more: an SNR below the dead limit adds one, another clears it, none leaves it. -/
def weakRun (snr : Option Nat) (dead run : Nat) : Nat :=
  match snr with
  | none => run
  | some v => if v < dead then run + 1 else 0

/-- A pair's own pilots in showtime. -/
theorem measurePilots_deadRun {l : LinkId} {p : Nat} {s : State} (hphase : (s.link l).phase = 7) :
    ((measurePilots l p s).pair l.n p).deadRun =
      weakRun (pilotSnr s l p) (s.fld (PORT_RX_LIMITS.DEAD_SNR l.n)) (s.pair l.n p).deadRun := by
  unfold measurePilots
  cases pilotSnr s l p with
  | none => rfl
  | some v => simp [hphase, weakRun]

/-- The same of every receiving pair after all of them. -/
theorem deadRun_after_refresh {l : LinkId} {p : Nat} {ps : List Nat} {s : State} (meas : List StageMeas) (hnodup : ps.Nodup) (hp : p ∈ ps)
    (hphase : (s.link l).phase = 7) :
    ((forEach ps (fun p s => clearErrors l.n p (measurePilots l p s)) (showMonitors l meas s)).pair l.n p).deadRun =
      weakRun (pilotSnr s l p) (s.fld (PORT_RX_LIMITS.DEAD_SNR l.n)) (s.pair l.n p).deadRun := by
  obtain ⟨u, hbefore, hafter⟩ := forEach_view_of_mem (refreshView l p) (f := fun p s => clearErrors l.n p (measurePilots l p s)) hnodup hp
    (fun _ s h => refreshView_other s h) (showMonitors l meas s)
  rw [showMonitors_refreshView] at hbefore
  simp only [refreshView, Prod.mk.injEq] at hbefore hafter
  obtain ⟨hsnr, hdead, hphaseU, hrun⟩ := hbefore
  obtain ⟨-, -, -, hrunAfter⟩ := hafter
  rw [hrunAfter, clearErrors_deadRun, measurePilots_deadRun (hphaseU.trans hphase), hsnr, hdead, hrun]

end Sys2Proof.Machine
end

section
/-! PROOF. The statement about the agreement of an entry (O19). -/
namespace Sys2Proof.Claims
open Sys2Proof Sys2Proof.Machine

section
variable {l : LinkId} {p : Pair} {m : Msg} {s : State}

/-! ### Proposals sent and answered (R295, R47, R296) -/

theorem eeiProposeSend_sends (hphase : (s.link l).phase = 7) (hmode : inEffect s l.n mEEI = true) (hidle : hostIdle s l = true)
    (hhold : eeiHoldOff s l.n ≤ (s.link l).eei.hold) (hfree : eeiBusy (s.link l) = false) (hdepth : 0 < min (linkAllowed s l) (s.link l).eei.cap)
    (hmay : refuser s l 0 false = none) :
    ∃ t : State, exec (.eeiProposeSend l) s = .next t ∧
      (t.link l).waiting = (s.link l).waiting ++ [⟨0x40, none, min (linkAllowed s l) (s.link l).eei.cap, true⟩] := by
  refine ⟨showLink l (sendPort l 0x40 none (min (linkAllowed s l) (s.link l).eei.cap) s), ?_, ?_⟩
  · show execEeiProposeSend l s = _
    simp only [execEeiProposeSend, hphase, hmode, hidle, hfree, if_neg (Nat.ne_of_gt hdepth), hmay, decide_eq_false (Nat.not_lt.mpr hhold)]
    rfl
  · rw [State.link_congr (showLink_links l _), sendPort_link]

theorem eeiPropose_agrees (hphase : (s.link l).phase = 7) (hopen : proposedEntry (s.link l) = none)
    (hmay : eeiRefusal (consume l p m s) l (m.arg % 4) (msgStage m) = none) :
    ∃ t : State, exec (.eeiPropose l p m) s = .next t ∧ (t.link l).eei.agreed = true ∧ (t.link l).eei.depth = m.arg % 4 ∧
      (t.link l).eei.entry = msgStage m ∧ (t.link l).waiting = (s.link l).waiting ++ [⟨0x41, some (msgStage m), m.arg % 4, true⟩] := by
  have hphase1 : ((consume l p m s).link l).phase = 7 := by rw [consume_link]; exact hphase
  have hcross : crossing l 0x40 (consume l p m s) = (true, consume l p m s) := crossing_of_none (by rw [consume_link]; exact hopen)
  refine ⟨showLink l (agreeEntry l (m.arg % 4) (msgStage m) (sendPort l 0x41 (some (msgStage m)) (m.arg % 4) (consume l p m s))), ?_, ?_⟩
  · show execEeiPropose l p m s = _
    simp only [execEeiPropose, hphase1, hcross, hmay]
    rfl
  · rw [State.link_congr (showLink_links l _), agreeEntry_link, sendPort_link, consume_link]
    exact ⟨rfl, rfl, rfl, rfl⟩

theorem eeiAccept_agrees {q : Proposal} (hq : proposalAt (s.link l) 0x40 (msgStage m) = some q) (habort : (s.link l).eei.abortCode = none)
    (hfree : agreedAt (s.link l) q.stage = false) :
    ∃ t : State, exec (.eeiAccept l p m) s = .next t ∧ (t.link l).eei.agreed = true ∧ (t.link l).eei.depth = q.arg % 4 ∧
      (t.link l).eei.entry = q.stage := by
  have hq1 : proposalAt ((consume l p m s).link l) 0x40 (msgStage m) = some q := by rw [consume_link]; exact hq
  have habort1 : ((consume l p m s).link l).eei.abortCode = none := by rw [consume_link]; exact habort
  have hfree1 : agreedAt ((dropProposal l q (consume l p m s)).link l) q.stage = false := by rw [dropProposal_link, consume_link]; exact hfree
  show ∃ t, execEeiAccept l p m s = .next t ∧ _
  simp only [execEeiAccept, hq1, habort1, hfree1]
  refine ⟨_, rfl, ?_⟩
  rw [State.link_congr (showLink_links l _), modEei_link, agreeEntry_link]
  exact ⟨rfl, rfl, rfl⟩

/-! ### An entry refused or aborted (R296, R308, R310) -/

theorem eeiRefuse_ends {q : Proposal} (hq : proposalAt (s.link l) 0x40 (msgStage m) = some q) :
    ∃ t : State, exec (.eeiRefuse l p m) s = .next t ∧ (t.link l).eei.hold = 0 ∧
      (t.link l).eei.cap = (if m.arg % 256 = 2 then q.arg % 4 - 1 else (s.link l).eei.cap) ∧
      (t.link l).proposals = (s.link l).proposals.filter (fun x => x != q) := by
  have hq1 : proposalAt ((consume l p m s).link l) 0x40 (msgStage m) = some q := by rw [consume_link]; exact hq
  show ∃ t, execEeiRefuse l p m s = .next t ∧ _
  simp only [execEeiRefuse, hq1]
  refine ⟨_, rfl, ?_⟩
  rw [State.link_congr (showLink_links l _), modEei_link, countRefusal_link, State.setFld_link, dropProposal_link, consume_link]
  exact ⟨rfl, rfl, rfl⟩

theorem eeiAbort_drops (hphase : (s.link l).phase = 7) (hagreed : (s.link l).eei.agreed = true) (hentry : (s.link l).eei.entry = msgStage m) :
    ∃ t : State, exec (.eeiAbort l p m) s = .next t ∧ (t.link l).eei.agreed = false ∧ (t.link l).eei.hold = 0 := by
  obtain ⟨changes, hdropped⟩ := dropEntry_link l (consume l p m s)
  refine ⟨showLink l (countAbort l 6 (dropEntry l (consume l p m s))), ?_, ?_⟩
  · show execEeiAbort l p m s = _
    simp [execEeiAbort, consume_link, hphase, hagreed, hentry]
  · rw [State.link_congr (showLink_links l _), countAbort_link, hdropped]
    exact ⟨rfl, rfl⟩

/-! ### A wake before the entry, and the budget (R309, R45, R294) -/

theorem eeiWakeMsg_notes (hphase : (s.link l).phase = 7) (hagreed : (s.link l).eei.agreed = true) (hentry : (s.link l).eei.entry = msgStage m) :
    ∃ t : State, exec (.eeiWakeMsg l p m) s = .next t ∧ (t.link l).eei.enterWake = true ∧ (t.link l).eei.peerWake = true := by
  show ∃ t, execEeiWakeMsg l p m s = .next t ∧ _
  unfold execEeiWakeMsg
  extract_lets s1 k e s2
  rw [if_neg (by simp [k, s1, consume_link, hphase]), if_pos (by simp [e, k, s1, consume_link, hagreed, hentry])]
  refine ⟨_, rfl, ?_⟩
  rw [State.link_congr (showLink_links l _), modEei_link]
  exact ⟨rfl, rfl⟩

theorem eeiBudgetApply_applies (hfree : (s.link l).eei.agreed = false) (hawake : (s.link l).eei.inDepth = false) :
    ∃ t : State, exec (.eeiBudgetApply l) s = .next t ∧ (t.link l).eei.budget = min (s.fld (EEI_WAKE_BUDGET.BUDGET l.n)) 1000000 ∧
      (t.link l).eei.maxDepth = s.fld (EEI_CFG.MAX_DEPTH l.n) := by
  obtain ⟨cap, h⟩ := applyBudget_link hfree hawake
  refine ⟨applyBudget l s, rfl, ?_⟩
  rw [h]
  exact ⟨rfl, rfl⟩

end

/-- Settles O19, clause by clause: what an answer, an abort or a budget writes in the link's record stands through the rest of its step. -/
theorem eeiAgreement : Obligations.EeiAgreement :=
  ⟨fun _ _ => eeiProposeSend_sends, fun _ _ _ _ => eeiPropose_agrees, fun _ _ _ _ _ => eeiAccept_agrees, fun _ _ _ _ _ => eeiRefuse_ends,
    fun _ _ _ _ => eeiAbort_drops, fun _ _ _ _ => eeiWakeMsg_notes, fun _ _ => eeiBudgetApply_applies⟩

end Sys2Proof.Claims
end

section
/-! PROOF. The statement about the depths and waking (O20). -/
namespace Sys2Proof.Claims
open Sys2Proof Sys2Proof.Machine

section
variable {l : LinkId} {s : State}

/-! ### In the depth (R298, R147, R299) -/

theorem eeiEntry_enters (hphase : (s.link l).phase = 7) (hagreed : (s.link l).eei.agreed = true)
    (hreached : reached (s.link l).own (s.link l).eei.entry = true) (hstay : (s.link l).eei.enterWake = false) :
    ∃ t : State, exec (.eeiEntry l) s = .next t ∧ (t.link l).eei.agreed = false ∧ (t.link l).eei.inDepth = true ∧
      ∀ p ∈ maskPairs ((s.link l).carry ||| (s.link l).carryRx), (t.pair l.n p).quiet = true := by
  show ∃ t, execEeiEntry l s = .next t ∧ _
  unfold execEeiEntry
  extract_lets k e s1 s2 s3 s4
  rw [if_neg (by simp [k, e, hphase, hagreed, hreached]), if_neg (by simp [e, k, hstay])]
  have hlink : s4.link l = s2.link l := by rw [State.inc_link, State.modQueue_link]
  have hentered : (s4.link l).eei.agreed = false ∧ (s4.link l).eei.inDepth = true := by
    rw [hlink, setQuiet_link, modEei_link]
    exact ⟨rfl, rfl⟩
  have hquiet : ∀ p ∈ maskPairs ((s.link l).carry ||| (s.link l).carryRx), (s4.pair l.n p).quiet = true := fun p hp => by
    rw [State.inc_pair, State.modQueue_pair]
    refine setQuiet_quiet l true _ ?_
    rw [modEei_link, State.link_modLink]
    exact hp
  clear_value s4
  have hwake (c : Prop) [Decidable c] : (if c then beginWake l 3 s4 else s4).pairs = s4.pairs ∧
      ((if c then beginWake l 3 s4 else s4).link l).eei.agreed = false ∧ ((if c then beginWake l 3 s4 else s4).link l).eei.inDepth = true := by
    split
    · obtain ⟨_, _, _, _, h⟩ := beginWake_link l 3 s4
      rw [h]
      exact ⟨beginWake_pairs l 3 s4, hentered⟩
    · exact ⟨rfl, hentered⟩
  obtain ⟨hpairs, hfree, hdepth⟩ := hwake (testOn s4 l.n = true)
  refine ⟨_, rfl, ?_⟩
  rw [State.link_congr (showLink_links l _)]
  refine ⟨hfree, hdepth, fun p hp => ?_⟩
  rw [State.pair_congr ((showLink_pairs l _).trans hpairs)]
  exact hquiet p hp

theorem eeiRefresh_counts (meas : List StageMeas) (hphase : (s.link l).phase = 7) (hstage : refreshStage (s.link l) = true) :
    ∃ t : State, exec (.eeiRefresh l meas) s = .next t ∧ ∀ p ∈ maskPairs (s.link l).carryRx,
      (t.pair l.n p).deadRun = weakRun (pilotSnr s l p) (s.fld (PORT_RX_LIMITS.DEAD_SNR l.n)) (s.pair l.n p).deadRun := by
  show ∃ t, execEeiRefresh l meas s = .next t ∧ _
  unfold execEeiRefresh
  extract_lets k n u
  rw [if_neg (by simp [k, hphase, hstage])]
  refine ⟨_, rfl, fun p hp => ?_⟩
  rw [State.pair_congr (showLink_pairs l _), State.pair_congr (showFreq_pairs l u)]
  exact deadRun_after_refresh meas (maskPairs_nodup _) hp hphase

/-! ### A wake at this end (R302, R303, R306) -/

theorem eeiWakeCause_wakes (cause : Nat) (hphase : (s.link l).phase = 7) (hdepth : (s.link l).eei.inDepth = true)
    (hquiet : (s.link l).eei.waking = none) :
    ∃ t : State, exec (.eeiWakeCause l cause) s = .next t ∧ (t.link l).eei.waking = some cause ∧ (t.link l).eei.confirmed = true := by
  refine ⟨showLink l (wakeCause l cause s), rfl, ?_⟩
  rw [State.link_congr (showLink_links l _)]
  exact wakeCause_wakes cause hphase hdepth hquiet

theorem calDeferralWake_wakes (item : Nat) (hphase : (s.link l).phase = 7) (hdepth : (s.link l).eei.inDepth = true)
    (hquiet : (s.link l).eei.waking = none) :
    ∃ t : State, exec (.calDeferralWake l item) s = .next t ∧ (t.link l).eei.waking = some 4 ∧ (t.link l).eei.confirmed = true := by
  have hraised : (s.raise 0x2051 0 [l.n, item]).link l = s.link l := State.raise_link _ _ _ _ l
  refine ⟨showLink l (wakeCause l 4 (s.raise 0x2051 0 [l.n, item])), if_neg (by simp [hdepth]), ?_⟩
  rw [State.link_congr (showLink_links l _)]
  exact wakeCause_wakes 4 (by rw [hraised, hphase]) (by rw [hraised, hdepth]) (by rw [hraised, hquiet])

theorem eeiPrestepDone_alerts (hdepth : (s.link l).eei.inDepth = true) (hwaking : (s.link l).eei.waking.isSome = true)
    (hpre : (s.link l).eei.preDone = false) (hnew : (s.link l).eei.alertSent = false) :
    ∃ t : State, exec (.eeiPrestepDone l) s = .next t ∧ (t.link l).eei.preDone = true ∧ (t.link l).eei.alertSent = true ∧
      ∀ p ∈ maskPairs (s.link l).carry, AlertSent l p t := by
  have hdone := modEei_link l (fun e => { e with preDone := true }) s
  have halerts := startAlerts_alerts (l := l) (s := modEei l (fun e => { e with preDone := true }) s)
    (by rw [hdone]; exact hwaking) (by rw [hdone]) (by rw [hdone]; exact hnew)
  rw [hdone] at halerts
  obtain ⟨hpreDone, hsent, hall⟩ := halerts
  refine ⟨showLink l (startAlerts l (modEei l (fun e => { e with preDone := true }) s)), ?_, ?_⟩
  · show execEeiPrestepDone l s = _
    simp [execEeiPrestepDone, hdepth, hwaking, hpre]
  · rw [State.link_congr (showLink_links l _)]
    exact ⟨hpreDone, hsent, fun p hp => (hall p hp).later (by rw [showLink_out])⟩

/-! ### A wake of the far end (R305) -/

theorem wakeDetect_notes (hdepth : (s.link l).eei.inDepth = true) (hquiet : (s.link l).eei.waking = none) :
    ∃ t : State, exec (.wakeDetect l) s = .next t ∧ (t.link l).eei.detected = true ∧ (t.link l).eei.alertHeard = true := by
  show ∃ t, execWakeDetect l s = .next t ∧ _
  unfold execWakeDetect
  extract_lets e
  rw [if_neg (by simp [e, hdepth]), if_neg (by simp [e, hquiet])]
  refine ⟨_, rfl, ?_⟩
  rw [State.link_congr (showLink_links l _), modEei_link]
  exact ⟨rfl, rfl⟩

theorem wakeConfirmTimeout_sleeps (hdepth : (s.link l).eei.inDepth = true) (hdetected : (s.link l).eei.detected = true)
    (hquiet : (s.link l).eei.waking = none) (hpre : (s.link l).eei.preDone = true) :
    ∃ t : State, exec (.wakeConfirmTimeout l) s = .next t ∧ (t.link l).eei.detected = false ∧ (t.link l).eei.alertHeard = false ∧
      (t.link l).eei.preDone = false ∧ (t.link l).eei.inDepth = true := by
  show ∃ t, execWakeConfirmTimeout l s = .next t ∧ _
  unfold execWakeConfirmTimeout
  extract_lets e s1
  rw [if_neg (by simp [e, hdepth, hdetected, hquiet, hpre])]
  refine ⟨_, rfl, ?_⟩
  rw [State.link_congr (showLink_links l _), State.inc_link, modEei_link]
  exact ⟨rfl, rfl, rfl, hdepth⟩

/-! ### Out of the depth (R304, R307, R313) -/

theorem eeiResume_ends (quietUs wakeNs : Nat) (hphase : (s.link l).phase = 7) (hresume : mayResume (s.link l) = true) :
    ∃ t : State, exec (.eeiResume l quietUs wakeNs) s = .next t ∧ (t.link l).eei.inDepth = false ∧ (t.link l).eei.waking = none ∧
      (t.link l).eei.hold = 0 := by
  show ∃ t, execEeiResume l quietUs wakeNs s = .next t ∧ _
  unfold execEeiResume
  extract_lets n k s1 s2 s3 w
  rw [if_neg (by simp [k, hphase, hresume])]
  obtain ⟨waiting, hended⟩ := endDepth_link l (s.modLink l (fun k => { k with verify := 0, farVerify := 0 }))
  have h3 : (if s3.fld (EEI_WAKE_MAX.TIME n) < w then s3.setFld (EEI_WAKE_MAX.TIME n) w else s3).link l = s1.link l := by
    split
    · rw [State.setFld_link, State.add64_link, State.modQueue_link]
    · rw [State.add64_link, State.modQueue_link]
  refine ⟨_, rfl, ?_⟩
  rw [State.link_congr (showLink_links l _), h3, hended]
  exact ⟨rfl, rfl, rfl⟩

theorem partialFastRetrainStart_begins (hdepth : (s.link l).eei.inDepth = true) (hlong : (s.link l).eei.depth = 3)
    (hsent : (s.link l).eei.alertSent = true) (hheard : (s.link l).eei.alertHeard = true) (hwhole : (s.link l).eei.partialFr = false) :
    ∃ t : State, exec (.partialFastRetrainStart l) s = .next t ∧ (t.link l).eei.partialFr = true ∧
      (t.link l).eei.partialAt = (s.link l).own ∧ (t.link l).verify = 0 := by
  show ∃ t, execPartialFastRetrainStart l s = .next t ∧ _
  unfold execPartialFastRetrainStart
  extract_lets k e s1
  rw [if_neg (by simp [e, k, hdepth, hlong, hsent, hheard, hwhole])]
  have h1 : s1.links = s.links := forEach_eq_of_step_eq State.links _ (fun _ _ => State.modPair_links _ _ _ _) _ s
  refine ⟨_, rfl, ?_⟩
  rw [State.link_congr (showLink_links l _), State.link_modLink, State.link_congr h1]
  exact ⟨rfl, rfl, rfl⟩

theorem partialFastRetrainFail_goes_on (hphase : (s.link l).phase = 7) (hpartial : (s.link l).eei.partialFr = true)
    (hfast : fastAllowed s l = true) :
    ∃ t : State, exec (.partialFastRetrainFail l) s = .next t ∧ (t.link l).phase = 8 ∧ (t.link l).frCause = 7 := by
  refine ⟨showLink l (partialFail l s), rfl, ?_⟩
  rw [State.link_congr (showLink_links l _)]
  exact partialFail_link (by omega) hpartial hfast

end

/-- Settles O20, clause by clause: what a step of the depth or of a wake writes in the link's record and its pairs stands through the rest of that step. -/
theorem eeiDepthAndWake : Obligations.EeiDepthAndWake := by
  refine ⟨fun _ _ => eeiEntry_enters, fun l meas s hphase hstage => ?refresh, fun _ cause _ => eeiWakeCause_wakes cause,
    fun _ _ => eeiPrestepDone_alerts, fun _ _ => wakeDetect_notes, fun _ _ => wakeConfirmTimeout_sleeps,
    fun _ quietUs wakeNs _ => eeiResume_ends quietUs wakeNs, fun _ _ => partialFastRetrainStart_begins,
    fun _ _ => partialFastRetrainFail_goes_on, fun _ item _ => calDeferralWake_wakes item⟩
  case refresh =>
    obtain ⟨t, hexec, hruns⟩ := eeiRefresh_counts meas hphase hstage
    refine ⟨t, hexec, fun p hp => ?_⟩
    rw [hruns p hp]
    generalize pilotSnr s l p = snr
    cases snr <;> rfl

end Sys2Proof.Claims
end

section
/-! SUPPORT. The cable diagnostics: the registers of a pair apart from each other, what the end of a job leaves, and what a run that starts, ends or
is recorded shows. -/
namespace Sys2Proof.Machine

/-! ### Registers of pairs apart (R447) -/

theorem diagStatus_ne_diagCtrl {m n p q : Nat} (hq : q < 4) (hp : p < 4) : DIAG_STATUS m q ≠ DIAG_CTRL n p := by
  simp only [DIAG_STATUS, DIAG_CTRL, pairBase, portBase]
  omega

theorem diagRuns_ne_mapStatus (n p q : Nat) : DIAG_RUNS n p ≠ DIAG_MAP_STATUS n q := by
  simp only [DIAG_RUNS, DIAG_MAP_STATUS, pairBase]
  omega

theorem diagRuns_ne_event (n p : Nat) {j : Nat} (hj : j < 16) : DIAG_RUNS n p ≠ DIAG_EVENT n p j := by
  simp only [DIAG_RUNS, DIAG_EVENT]
  omega

theorem histSeq_ne (n : Nat) {p q : Nat} (h : p ≠ q) : DIAG_HIST_SEQ n p ≠ DIAG_HIST_SEQ n q := by
  simp only [DIAG_HIST_SEQ, pairBase]
  omega

/-- The hub's CNC_STATUS lies outside the blocks of the pairs. -/
theorem diagRegs_ne_cncStatus (n p : Nat) : DIAG_STATUS n p ≠ CNC_STATUS ∧ DIAG_TIME n p ≠ CNC_STATUS ∧ DIAG_RUNS n p ≠ CNC_STATUS ∧
    DIAG_ABORTS n p ≠ CNC_STATUS := by
  simp only [DIAG_STATUS, DIAG_TIME, DIAG_RUNS, DIAG_ABORTS, pairBase, portBase, CNC_STATUS, cncBase]
  omega

/-- What the steps for the items of a list leave as it was, all of them leave as it was. -/
theorem forEach_eq_of_mem_step_eq {α β : Type} (view : State → β) {f : α → State → State} {xs : List α}
    (hf : ∀ x ∈ xs, ∀ s, view (f x s) = view s) (s : State) : view (forEach xs f s) = view s := by
  induction xs generalizing s with
  | nil => rfl
  | cons x xs ih =>
    exact (ih (fun y hy => hf y (List.mem_cons_of_mem x hy)) (f x s)).trans (hf x List.mem_cons_self s)

theorem gpair_div (n : Nat) (p : Pair) : gpair n p / 4 = n := by
  simp only [gpair]
  omega

theorem gpair_mod (n : Nat) (p : Pair) : gpair n p % 4 = p := by
  simp only [gpair]
  omega

theorem State.flag_eq_of_reg_eq {s t : State} {f : Fld} (h : t.reg f.addr = s.reg f.addr) : t.flag f = s.flag f := by
  rw [State.flag, State.fld_eq_of_reg_eq h, State.flag]

theorem State.diag_modDiag_other (s : State) {g i : Nat} (f : DiagSt → DiagSt) (h : i ≠ g) : (s.modDiag g f).diag i = s.diag i :=
  SMap.get_put_other _ _ _ _ _ h

/-! ### The end of a job (R428, R431, R545): of the registers only CNC_STATUS changes -/

theorem reg_showClaims_other {a : Nat} (s : State) (h : a ≠ CNC_STATUS) : (showClaims s).reg a = s.reg a := by
  unfold showClaims
  rw [State.reg_setFld_other _ _ _ _ h, State.reg_setFld_other _ _ _ _ h, State.reg_setFld_other _ _ _ _ h]

theorem refill_regs (k : Nat) (s : State) : (refill k s).regs = s.regs :=
  (@keeps_refill (· ∈ [.waiting, .later]) ⟨by decide⟩ ⟨by decide⟩ s s k (keeps_refl _ s)).same .regs (by decide)

theorem reg_releaseClaim_other {a : Nat} (h : Nat) (s : State) (ha : a ≠ CNC_STATUS) : (releaseClaim h s).reg a = s.reg a := by
  rw [releaseClaim, reg_showClaims_other _ ha]
  exact State.reg_congr _ _ (refill_regs 48 _) a

theorem reg_finishJob_other {a : Nat} (num status arg tile unit : Nat) (s : State) (ha : a ≠ CNC_STATUS) :
    (finishJob num status arg tile unit s).reg a = s.reg a := by
  unfold finishJob
  split
  · rfl
  · dsimp only
    split
    · split
      · exact reg_releaseClaim_other _ _ ha
      · rfl
    · rfl

theorem finishJob_raised (num status arg tile unit : Nat) (s : State) : (finishJob num status arg tile unit s).raised = s.raised :=
  (@keeps_finishJob (· ∈ [.regs, .completions, .claims, .waiting, .later]) ⟨by decide⟩ ⟨by decide⟩ ⟨by decide⟩ ⟨by decide⟩ ⟨by decide⟩ s s
    num status arg tile unit (keeps_refl _ s)).same .raised (by decide)

/-! ### A run that starts (R317, R325, R334) -/

/-- The fields of DIAG_CTRL as a write stores them. -/
def setDiagCtrl (n p w : Nat) (s : State) : State :=
  (((s.setFld (DIAG_CTRL.KIND n p) (bits w 24 24)).setFld (DIAG_CTRL.LEVEL n p) (bits w 17 16)).setFld
    (DIAG_CTRL.CROSS n p) (bits w 8 8)).setFld (DIAG_CTRL.AVG n p) (bits w 3 0)

theorem setDiagCtrl_fields (n p w : Nat) (s : State) : (setDiagCtrl n p w s).fld (DIAG_CTRL.AVG n p) = bits w 3 0 ∧
    (setDiagCtrl n p w s).fld (DIAG_CTRL.LEVEL n p) = bits w 17 16 := by
  simp [setDiagCtrl, State.fld_setFld_bits, State.fld_setFld_apart, DIAG_CTRL.KIND, DIAG_CTRL.LEVEL, DIAG_CTRL.CROSS, DIAG_CTRL.AVG]

theorem reg_setDiagCtrl_other {n p a : Nat} (w : Nat) (s : State) (h : a ≠ DIAG_CTRL n p) : (setDiagCtrl n p w s).reg a = s.reg a := by
  unfold setDiagCtrl
  rw [State.reg_setFld_other _ _ _ _ h, State.reg_setFld_other _ _ _ _ h, State.reg_setFld_other _ _ _ _ h, State.reg_setFld_other _ _ _ _ h]

/-- A START on a pair that runs no diagnostic is judged by the state that the stored fields leave. -/
theorem writeDiagCtrl_of_start {n : Port} {p : Pair} {w : Nat} {s : State} (hstart : bit w 31 = true) (habort : bit w 30 = false)
    (hidle : s.flag (DIAG_STATUS.BUSY n p) = false) :
    writeDiagCtrl n p w s = if bit w 24 then startMaps n p (setDiagCtrl n p w s) else startReflect n p (setDiagCtrl n p w s) := by
  have hstill : (setDiagCtrl n p w s).flag (DIAG_STATUS.BUSY n p) = false :=
    (State.flag_eq_of_reg_eq (reg_setDiagCtrl_other w s (diagStatus_ne_diagCtrl p.isLt p.isLt))).trans hidle
  have hgoes : ¬ (!bit w 31 ∨ (setDiagCtrl n p w s).flag (DIAG_STATUS.BUSY n p)) := by simp [hstart, hstill]
  unfold writeDiagCtrl
  simp only [habort, Bool.false_and, Bool.false_eq_true, if_false]
  exact if_neg hgoes

theorem reflecting_setDiagCtrl (n : Nat) (p : Pair) (w g : Nat) (s : State) : reflecting (setDiagCtrl n p w s) g = reflecting s g := by
  have hreg := reg_setDiagCtrl_other w s (diagStatus_ne_diagCtrl (m := g / 4) (n := n) (Nat.mod_lt g (by decide)) p.isLt)
  rw [reflecting, State.flag_eq_of_reg_eq (f := DIAG_STATUS.BUSY (g / 4) (g % 4)) hreg,
    State.fld_eq_of_reg_eq (f := DIAG_STATUS.KIND (g / 4) (g % 4)) hreg, reflecting]

/-- The reasons that refuse a REFLECT do not look at DIAG_CTRL. -/
theorem reflectReason_setDiagCtrl (n : Port) (p : Pair) (w : Nat) (s : State) :
    reflectReason (setDiagCtrl n p w s) n p = reflectReason s n p := by
  have hcfg : PORT_STARTUP_CFG n ≠ DIAG_CTRL n p := by
    simp only [PORT_STARTUP_CFG, DIAG_CTRL, pairBase]
    omega
  have henable : (setDiagCtrl n p w s).flag (PORT_STARTUP_CFG.ENABLE n) = s.flag (PORT_STARTUP_CFG.ENABLE n) :=
    State.flag_eq_of_reg_eq (reg_setDiagCtrl_other w s hcfg)
  have hlinks : (setDiagCtrl n p w s).links = s.links := by simp [setDiagCtrl]
  have hclaim : claimOnPair (setDiagCtrl n p w s) 3 (gpair n p) = claimOnPair s 3 (gpair n p) := by simp [claimOnPair, setDiagCtrl]
  have hidle : idleContext (setDiagCtrl n p w s) n = idleContext s n := by
    simp only [idleContext, henable, isBreakout_of_links hlinks, State.link_congr hlinks]
  have hfallen : fallenContext (setDiagCtrl n p w s) n p = fallenContext s n p := by simp only [fallenContext, State.link_congr hlinks]
  have hothers : allPairs.any (fun q => q != p && reflecting (setDiagCtrl n p w s) (gpair n q)) =
      allPairs.any (fun q => q != p && reflecting s (gpair n q)) := by simp only [reflecting_setDiagCtrl]
  rw [reflectReason, hclaim, hidle, hfallen, hothers, reflectReason]

/-- The conditions of a MAPS run do not look at DIAG_CTRL. -/
theorem portShow_setDiagCtrl (n : Port) (p w : Nat) (s : State) : portShow (setDiagCtrl n p w s) n = portShow s n := by
  have hlinks : (setDiagCtrl n p w s).links = s.links := by simp [setDiagCtrl]
  have hshow : inShow (setDiagCtrl n p w s) = inShow s := funext fun l => by rw [inShow, State.link_congr hlinks, inShow]
  rw [portShow, activeLinks, isBreakout_of_links hlinks, hshow, portShow, activeLinks]

theorem staleCarriers_setDiagCtrl (n : Port) (p w : Nat) (s : State) :
    (carriers (setDiagCtrl n p w s) n).any (fun q => isStale ((setDiagCtrl n p w s).pair n q)) =
      (carriers s n).any (fun q => isStale (s.pair n q)) := by
  have hlinks : (setDiagCtrl n p w s).links = s.links := by simp [setDiagCtrl]
  have hports : (setDiagCtrl n p w s).ports = s.ports := by simp [setDiagCtrl]
  have hpairs : (setDiagCtrl n p w s).pairs = s.pairs := by simp [setDiagCtrl]
  have hcarriers : carriers (setDiagCtrl n p w s) n = carriers s n := by
    rw [carriers, activeLinks, isBreakout_of_links hlinks, State.port_congr hports, carriers, activeLinks]
    simp only [State.link_congr hlinks]
  simp only [hcarriers, State.pair_congr hpairs]

/-- A run that begins is BUSY with its kind; the registers other than DIAG_STATUS stand. -/
theorem beginRun_shows (n : Port) (p : Nat) {kind : Nat} (s : State) (hkind : kind < 2) : (beginRun n p kind s).flag (DIAG_STATUS.BUSY n p) = true ∧
    (beginRun n p kind s).fld (DIAG_STATUS.KIND n p) = kind ∧
    ∀ f : Fld, f.addr ≠ DIAG_STATUS n p → (beginRun n p kind s).fld f = s.fld f := by
  unfold beginRun
  refine ⟨State.flag_setFld_one _ _ (Nat.le_refl 6) (by decide : 6 < 32), ?_, fun f hf => State.fld_eq_of_reg_eq ?_⟩
  · simp [State.fld_setFld_same, State.fld_setFld_apart, DIAG_STATUS.RESULT, DIAG_STATUS.KIND, DIAG_STATUS.REASON, DIAG_STATUS.BUSY,
      Nat.mod_eq_of_lt hkind]
  · rw [State.reg_setFld_other _ _ _ _ hf, State.reg_setFld_other _ _ _ _ hf, State.reg_setFld_other _ _ _ _ hf, State.reg_setFld_other _ _ _ _ hf]

/-- A REFLECT that nothing refuses begins; what comes with it leaves the registers. -/
theorem startReflect_of_free {n : Port} {p : Nat} {s : State} (hfree : reflectReason s n p = 0) :
    ∃ u : State, u.regs = s.regs ∧ (startReflect n p s).regs = (beginRun n p 0 u).regs := by
  rw [startReflect, if_neg (by simp [hfree])]
  refine ⟨_, ?_, State.modDiag_regs _ _ _⟩
  rw [State.emit_regs, State.modDiag_regs]

/-- A MAPS run in showtime, with no carrying pair stale, begins. -/
theorem startMaps_of_fresh {n : Port} {p : Nat} {s : State} (hshow : portShow s n = true)
    (hfresh : (carriers s n).any (fun q => isStale (s.pair n q)) = false) : ∃ u : State, startMaps n p s = beginRun n p 1 u := by
  rw [startMaps, if_neg (by simp [hshow]), if_neg (by simp only [hfresh]; decide)]
  exact ⟨_, rfl⟩

/-! ### A REFLECT that is aborted or done (R320, R327, R332) -/

/-- A running REFLECT shows the reason of its abort. -/
theorem abortReflect_shows {n : Nat} {p : Pair} {reason : Nat} {s : State} (hruns : reflecting s (gpair n p) = true) (hreason : reason < 256) :
    (abortReflect (gpair n p) reason s).flag (DIAG_STATUS.BUSY n p) = false ∧
    (abortReflect (gpair n p) reason s).fld (DIAG_STATUS.RESULT n p) = 4 ∧
    (abortReflect (gpair n p) reason s).fld (DIAG_STATUS.REASON n p) = reason ∧
    (abortReflect (gpair n p) reason s).reg (DIAG_ABORTS n p) = s.reg (DIAG_ABORTS n p) + 1 ∧
    (abortReflect (gpair n p) reason s).raised = s.raised ++ [⟨0x2061, 0, [n, p.val, reason]⟩] := by
  have haborts : DIAG_ABORTS n p ≠ DIAG_STATUS n p := by simp [DIAG_ABORTS, DIAG_STATUS]
  obtain ⟨hstat, -, -, habortsCnc⟩ := diagRegs_ne_cncStatus n p
  unfold abortReflect
  rw [if_neg (by simp [hruns]), gpair_div, gpair_mod]
  extract_lets m q s1 s2 arg job
  have hjob {a : Nat} (ha : a ≠ CNC_STATUS) (t : State) : (finishJob job 0x0B arg (pairTile (gpair n p)) n t).reg a = t.reg a :=
    reg_finishJob_other _ _ _ _ _ t ha
  have hstatus : (finishJob job 0x0B arg (pairTile (gpair n p)) n (s2.modDiag (gpair n p) (fun d => { d with job := 0 }))).reg (DIAG_STATUS n p) =
      (s1.setFld (DIAG_STATUS.REASON n p) reason).reg (DIAG_STATUS n p) := by
    rw [hjob hstat, State.modDiag_reg, State.raise_reg, State.reg_inc_other _ _ _ haborts.symm]
  refine ⟨?_, ?_, ?_, ?_, ?_⟩
  · rw [State.flag_eq_of_reg_eq hstatus]
    simp [s1, m, q, State.flag_setFld_apart, State.flag_setFld_zero, DIAG_STATUS.BUSY, DIAG_STATUS.RESULT, DIAG_STATUS.REASON]
  · rw [State.fld_eq_of_reg_eq hstatus]
    simp [s1, m, q, State.fld_setFld_same, State.fld_setFld_apart, DIAG_STATUS.BUSY, DIAG_STATUS.RESULT, DIAG_STATUS.REASON]
  · rw [State.fld_eq_of_reg_eq hstatus, State.fld_setFld_same _ _ _ (by decide : 16 ≤ 23) (by decide : 23 < 32)]
    exact Nat.mod_eq_of_lt hreason
  · rw [hjob habortsCnc, State.modDiag_reg, State.raise_reg, State.reg_inc_same, State.reg_setFld_other _ _ _ _ haborts,
      State.reg_setFld_other _ _ _ _ haborts, State.reg_setFld_other _ _ _ _ haborts]
  · rw [finishJob_raised]
    simp [s1, s2, m, q, State.raise]

theorem reg_checkMaps_other {n : Port} {p a : Nat} (s : State) (h : a ≠ DIAG_MAP_STATUS n p) : (checkMaps n p s).reg a = s.reg a := by
  unfold checkMaps
  dsimp only
  split
  · exact State.reg_setFld_other _ _ _ _ h
  · exact State.reg_setReg_other _ _ _ _ h

theorem storeResponse_regs (n : Port) (p : Nat) (r : ReflectResult) (s : State) : (storeResponse n p r s).regs = s.regs :=
  (@keeps_storeResponse (· ∈ [.maps, .traces]) ⟨by decide⟩ ⟨by decide⟩ s s n p r (keeps_refl _ s)).same .regs (by decide)

/-- The word of a finished REFLECT: its result and the OVERFLOW mark stand beside BUSY and EVENTS. -/
theorem reflectStatus_fields {result ov count : Nat} (hov : ov < 2) (hcount : count < 32) :
    bits (word (result * 2 ^ 28 + ov * 32 + count)).toNat 6 6 = 0 ∧ bits (word (result * 2 ^ 28 + ov * 32 + count)).toNat 4 0 = count := by
  simp only [word_toNat, bits]
  omega

/-- The registers that a finished REFLECT writes after its status: figures, time, count, and the check of its maps. -/
def noteReflect (n : Port) (p : Nat) (info time : Word) (s : State) : State :=
  checkMaps n p (((s.setReg (DIAG_INFO n p) info).setReg (DIAG_TIME n p) time).inc (DIAG_RUNS n p))

theorem noteReflect_registers (n : Port) (p : Nat) (info time : Word) (s : State) :
    (noteReflect n p info time s).reg (DIAG_STATUS n p) = s.reg (DIAG_STATUS n p) ∧ (noteReflect n p info time s).reg (DIAG_TIME n p) = time ∧
      (noteReflect n p info time s).reg (DIAG_RUNS n p) = s.reg (DIAG_RUNS n p) + 1 := by
  unfold noteReflect
  refine ⟨?_, ?_, ?_⟩
  · rw [reg_checkMaps_other _ (by simp [DIAG_STATUS, DIAG_MAP_STATUS]), State.reg_inc_other _ _ _ (by simp [DIAG_STATUS, DIAG_RUNS]),
      State.reg_setReg_other _ _ _ _ (by simp [DIAG_STATUS, DIAG_TIME]), State.reg_setReg_other _ _ _ _ (by simp [DIAG_STATUS, DIAG_INFO])]
  · rw [reg_checkMaps_other _ (by simp [DIAG_TIME, DIAG_MAP_STATUS]), State.reg_inc_other _ _ _ (by simp [DIAG_TIME, DIAG_RUNS]),
      State.reg_setReg_same]
  · rw [reg_checkMaps_other _ (diagRuns_ne_mapStatus n p p), State.reg_inc_same, State.reg_setReg_other _ _ _ _ (by simp [DIAG_RUNS, DIAG_TIME]),
      State.reg_setReg_other _ _ _ _ (by simp [DIAG_RUNS, DIAG_INFO])]

/-- A finished REFLECT is no longer BUSY, is counted, and shows its time and the events of its echo. -/
theorem execReflectDone_shows {n : Port} {p : Pair} {s : State} (r : ReflectMeas) (hruns : reflecting s (gpair n p) = true) :
    ∃ t : State, execReflectDone n p r s = .next t ∧ t.flag (DIAG_STATUS.BUSY n p) = false ∧
      t.reg (DIAG_RUNS n p) = s.reg (DIAG_RUNS n p) + 1 ∧ t.reg (DIAG_TIME n p) = word r.timeUs ∧
      t.fld (DIAG_STATUS.EVENTS n p) = min 16 (classifyAll s n p (reflEvents s n (reflectResult s n p r).refs)).length := by
  generalize hdone : execReflectDone n p r s = o
  unfold execReflectDone at hdone
  extract_lets +onlyGivenNames g x es kept periods low s1 s2 s3 s4 s5 at hdone
  rw [if_neg (by simp [g, hruns])] at hdone
  obtain ⟨hstatus, htime, hnoted⟩ : s5.reg (DIAG_STATUS n p) = s3.reg (DIAG_STATUS n p) ∧ s5.reg (DIAG_TIME n p) = word r.timeUs ∧
      s5.reg (DIAG_RUNS n p) = s3.reg (DIAG_RUNS n p) + 1 := noteReflect_registers n p _ _ s3
  have hevents : s2.reg (DIAG_RUNS n p) = s1.reg (DIAG_RUNS n p) :=
    forEach_eq_of_mem_step_eq (fun s => s.reg (DIAG_RUNS n p))
      (fun _ hj _ => State.reg_setReg_other _ _ _ _ (diagRuns_ne_event n p (List.mem_range.mp hj))) s1
  have hcount : s5.reg (DIAG_RUNS n p) = s.reg (DIAG_RUNS n p) + 1 := by
    rw [hnoted, State.reg_setReg_other _ _ _ _ (by simp [DIAG_RUNS, DIAG_STATUS]), hevents, State.reg_congr _ _ (storeResponse_regs n p x s)]
  have hkept : kept.length = min 16 es.length := List.length_take
  obtain ⟨hbusy, hshown⟩ := reflectStatus_fields (result := if low then 2 else 1) (ov := (decide (16 < es.length)).toNat) (count := kept.length)
    (Bool.toNat_lt _) (by omega)
  -- From here the state so far is a variable: nothing below looks into it.
  obtain ⟨u, hu⟩ : ∃ u, u = s5 := ⟨s5, rfl⟩
  rw [← hu] at hdone hstatus htime hcount
  extract_lets s6 job at hdone
  subst hdone
  have hs6 : s6.regs = u.regs := by
    simp only [s6]
    split
    · exact State.raise_regs _ _ _ _
    · rfl
  have hend {a : Nat} (ha : a ≠ CNC_STATUS) :
      (finishJob job 0 (s6.reg (DIAG_STATUS n p)).toNat (pairTile g) n (s6.modDiag g (fun d => { d with job := 0 }))).reg a = u.reg a := by
    rw [reg_finishJob_other _ _ _ _ _ _ ha, State.modDiag_reg, State.reg_congr _ _ hs6]
  obtain ⟨hstatCnc, htimeCnc, hrunsCnc, -⟩ := diagRegs_ne_cncStatus n p
  refine ⟨_, rfl, ?_, (hend hrunsCnc).trans hcount, (hend htimeCnc).trans htime, ?_⟩
  · rw [State.flag_eq_of_reg_eq ((hend hstatCnc).trans hstatus)]
    exact congrArg (· != 0) ((State.fld_setReg_same s2 (DIAG_STATUS.BUSY n p) _).trans hbusy)
  · rw [State.fld_eq_of_reg_eq ((hend hstatCnc).trans hstatus)]
    exact ((State.fld_setReg_same s2 (DIAG_STATUS.EVENTS n p) _).trans hshown).trans hkept

/-! ### A MAPS run that is done (R325 to R327) -/

theorem fillPilots_regs (g m : Nat) (s : State) : (fillPilots g m s).regs = s.regs :=
  (@keeps_fillPilots (· ∈ [.maps]) ⟨by decide⟩ s s g m (keeps_refl _ s)).same .regs (by decide)

theorem mapsRunEnds_regs (n : Port) (p status : Nat) (s : State) : (mapsRunEnds n p status s).regs = s.regs :=
  (@keeps_mapsRunEnds (· ∈ [.diags, .completions]) ⟨by decide⟩ ⟨by decide⟩ s s n p status (keeps_refl _ s)).same .regs (by decide)

/-- A finished MAPS run is no longer BUSY, has RESULT 1 and is counted. -/
theorem execMapsDone_shows {n : Port} {p : Pair} {s : State} (timeUs : Nat) (hbusy : s.flag (DIAG_STATUS.BUSY n p) = true)
    (hkind : s.fld (DIAG_STATUS.KIND n p) = 1) :
    ∃ t : State, execMapsDone n p timeUs s = .next t ∧ t.flag (DIAG_STATUS.BUSY n p) = false ∧ t.fld (DIAG_STATUS.RESULT n p) = 1 ∧
      t.reg (DIAG_RUNS n p) = s.reg (DIAG_RUNS n p) + 1 := by
  generalize hdone : execMapsDone n p timeUs s = o
  unfold execMapsDone at hdone
  rw [if_neg (by simp [hbusy, hkind])] at hdone
  extract_lets mine s1 s2 s3 s4 s5 s6 at hdone
  subst hdone
  have hs4 : s4.reg (DIAG_RUNS n p) = s3.reg (DIAG_RUNS n p) :=
    forEach_eq_of_step_eq (fun s => s.reg (DIAG_RUNS n p)) _ (fun q s => forEach_eq_of_step_eq (fun s => s.reg (DIAG_RUNS n p)) _
      (fun m s => State.reg_congr _ _ (fillPilots_regs _ _ _) _) _ s) _ s3
  have hs5 : s5.reg (DIAG_RUNS n p) = s4.reg (DIAG_RUNS n p) :=
    forEach_eq_of_step_eq (fun s => s.reg (DIAG_RUNS n p)) _ (fun q s =>
      (reg_checkMaps_other _ (diagRuns_ne_mapStatus n p q)).trans
        (State.reg_setFld_other _ _ _ _ (diagRuns_ne_mapStatus n p q))) _ s4
  have hs2 : s2.reg (DIAG_RUNS n p) = s1.reg (DIAG_RUNS n p) :=
    forEach_eq_of_step_eq (fun s => s.reg (DIAG_RUNS n p)) _ (fun e s => State.setMap_reg _ _ _ _ _ _) _ s1
  have hs3 : s3.reg (DIAG_RUNS n p) = s2.reg (DIAG_RUNS n p) :=
    (State.reg_setReg_other _ _ _ _ (by simp [DIAG_RUNS, DIAG_TIME])).trans (State.modDiag_reg _ _ _ _)
  have hruns : DIAG_RUNS n p ≠ DIAG_STATUS n p := by simp [DIAG_RUNS, DIAG_STATUS]
  refine ⟨_, rfl, ?_, ?_, ?_⟩
  · rw [State.flag_congr _ _ (mapsRunEnds_regs _ _ _ _), State.flag_eq_of_reg_eq (State.reg_inc_other _ _ _ hruns.symm)]
    exact State.flag_setFld_zero _ _ (Nat.le_refl 6) (by decide : 6 < 32)
  · rw [State.fld_congr _ _ (mapsRunEnds_regs _ _ _ _), State.fld_inc_other _ _ _ hruns.symm]
    simp [s6, State.fld_setFld_same, State.fld_setFld_apart, DIAG_STATUS.RESULT, DIAG_STATUS.BUSY]
  · rw [State.reg_congr _ _ (mapsRunEnds_regs _ _ _ _), State.reg_inc_same]
    simp only [s6]
    rw [State.reg_setFld_other _ _ _ _ hruns, State.reg_setFld_other _ _ _ _ hruns, hs5, hs4, hs3, hs2]
    rfl

/-! ### History (R329 to R331) -/

theorem histFlag_recs (n p b : Nat) (s : State) : ((histFlag n p b s).diag (gpair n p)).recs = (s.diag (gpair n p)).recs := by simp [histFlag]

theorem flagsNow_recs (n : Port) (p : Nat) (s : State) : ((flagsNow n p s).diag (gpair n p)).recs = (s.diag (gpair n p)).recs := by
  unfold flagsNow
  extract_lets put shows
  have hput (b : Nat) (c : Bool) (s : State) : ((put b c s).diag (gpair n p)).recs = (s.diag (gpair n p)).recs := by
    simp only [put]
    split
    · exact histFlag_recs n p b s
    · rfl
  simp only [hput]

theorem flagsNow_regs (n : Port) (p : Nat) (s : State) : (flagsNow n p s).regs = s.regs :=
  (@keeps_flagsNow (· ∈ [.diags]) ⟨by decide⟩ s s n p (keeps_refl _ s)).same .regs (by decide)

theorem captureProfile_regs (n p cause : Nat) (s : State) : (captureProfile n p cause s).regs = s.regs := State.modDiag_regs _ _ _

theorem captureProfile_recs (n p cause : Nat) (s : State) :
    ((captureProfile n p cause s).diag (gpair n p)).recs = (s.diag (gpair n p)).recs := by simp [captureProfile]

/-- A record takes the number that SEQ shows, before the newest 255; SEQ goes on, skipping 0xFFFFFFFF. -/
theorem execHistoryRecord_shows {n : Port} {p : Pair} {s : State} (hon : s.flag (DIAG_HIST_CFG.HIST_EN n) = true) :
    ∃ (t : State) (w : Nat × Nat × Nat), execHistoryRecord n p s = .next t ∧
      t.reg (DIAG_HIST_SEQ n p) = word (if (s.reg (DIAG_HIST_SEQ n p)).toNat = 0xFFFFFFFE then 0 else (s.reg (DIAG_HIST_SEQ n p)).toNat + 1) ∧
      (t.diag (gpair n p)).recs = ((s.reg (DIAG_HIST_SEQ n p)).toNat, w) :: (s.diag (gpair n p)).recs.take 255 := by
  generalize hnext : execHistoryRecord n p s = o
  unfold execHistoryRecord at hnext
  rw [if_neg (by simpa [DIAG_HIST_CFG.HIST_EN] using hon)] at hnext
  extract_lets s1 seq stage s2 base at hnext
  generalize historyWords s1 n p = ws at hnext
  obtain ⟨w2, w3⟩ := ws
  dsimp -zeta only at hnext
  extract_lets s3 every s4 at hnext
  subst hnext
  have hseq : seq = (s.reg (DIAG_HIST_SEQ n p)).toNat := congrArg BitVec.toNat (State.reg_congr _ _ (flagsNow_regs n p s) _)
  have hreg : s4.reg (DIAG_HIST_SEQ n p) = word (if seq = 0xFFFFFFFE then 0 else seq + 1) := by
    rw [State.reg_congr _ _ (flagsNow_regs n p s3), State.modDiag_reg, State.reg_setReg_same]
  have hrecs : (s4.diag (gpair n p)).recs = (seq, stage, w2, w3) :: (s.diag (gpair n p)).recs.take 255 := by
    rw [flagsNow_recs, State.diag_modDiag, State.setReg_diag, flagsNow_recs]
    rfl
  rw [← hseq]
  refine ⟨_, (stage, w2, w3), rfl, ?_, ?_⟩
  · split
    · rw [State.reg_congr _ _ (captureProfile_regs n p 1 s4), hreg]
    · exact hreg
  · split
    · rw [captureProfile_recs, hrecs]
    · exact hrecs

/-- The history of a pair is empty: no record, no profile, SEQ 0. -/
def HistoryEmpty (n p : Nat) (s : State) : Prop :=
  (s.diag (gpair n p)).recs = [] ∧ (s.diag (gpair n p)).profiles = [] ∧ s.reg (DIAG_HIST_SEQ n p) = 0

theorem histClear_empties (n : Port) (s : State) {p : Nat} (hp : p ∈ allPairs) : HistoryEmpty n p (histClear n s) := by
  have hmake (q : Nat) (s : State) : HistoryEmpty n q
      ((s.modDiag (gpair n q) (fun d => { d with recs := [], profiles := [] })).setReg (DIAG_HIST_SEQ n q) 0) := by
    refine ⟨?_, ?_, State.reg_setReg_same _ _ _⟩ <;> rw [State.setReg_diag, State.diag_modDiag]
  refine forEach_of_mem (P := HistoryEmpty n) hmake (fun q r s h => ?_) hp s
  by_cases hqr : q = r
  · exact hqr ▸ hmake q s
  · obtain ⟨hrecs, hprofiles, hseq⟩ := h
    rw [HistoryEmpty, State.setReg_diag, State.diag_modDiag_other _ _ (gpair_ne n (Ne.symm hqr)), State.reg_setReg_other _ _ _ _ (histSeq_ne n hqr),
      State.modDiag_reg]
    exact ⟨hrecs, hprofiles, hseq⟩

end Sys2Proof.Machine
end

section
/-! PROOF. The statement about the cable diagnostics and the history (O58). -/
namespace Sys2Proof.Claims
open Sys2Proof Sys2Proof.Machine

section
variable {n : Port} {p : Pair} {s : State}

/-! ### Runs that start (R317, R325) -/

theorem reflectStart_runs {v : Word} (hstart : bit v.toNat 31 = true) (habort : bit v.toNat 30 = false) (hkind : bit v.toNat 24 = false)
    (hidle : s.flag (DIAG_STATUS.BUSY n p) = false) (hfree : reflectReason s n p = 0) :
    ∃ t : State, exec (.reflectStart n p v) s = .next t ∧ t.flag (DIAG_STATUS.BUSY n p) = true ∧ t.fld (DIAG_STATUS.KIND n p) = 0 ∧
      t.fld (DIAG_CTRL.AVG n p) = bits v.toNat 3 0 ∧ t.fld (DIAG_CTRL.LEVEL n p) = bits v.toNat 17 16 := by
  obtain ⟨u, hu, hruns⟩ := startReflect_of_free ((reflectReason_setDiagCtrl n p v.toNat s).trans hfree)
  obtain ⟨hbusy, hreflect, hstands⟩ := beginRun_shows n p (kind := 0) u (by decide)
  obtain ⟨havg, hlevel⟩ := setDiagCtrl_fields n p v.toNat s
  have hctrl : DIAG_CTRL n p ≠ DIAG_STATUS n p := (diagStatus_ne_diagCtrl p.isLt p.isLt).symm
  refine ⟨startReflect n p (setDiagCtrl n p v.toNat s), ?_, ?_⟩
  · change execReflectStart n p v s = _
    rw [execReflectStart, if_neg (by simp [hkind, hstart]), writeDiagCtrl_of_start hstart habort hidle, if_neg (by simp [hkind])]
  · simp only [State.flag_congr _ _ hruns, State.fld_congr _ _ hruns]
    exact ⟨hbusy, hreflect, (hstands (DIAG_CTRL.AVG n p) hctrl).trans ((State.fld_congr _ _ hu _).trans havg),
      (hstands (DIAG_CTRL.LEVEL n p) hctrl).trans ((State.fld_congr _ _ hu _).trans hlevel)⟩

theorem mapsStart_runs {v : Word} (hstart : bit v.toNat 31 = true) (habort : bit v.toNat 30 = false) (hkind : bit v.toNat 24 = true)
    (hidle : s.flag (DIAG_STATUS.BUSY n p) = false) (hshow : portShow s n = true)
    (hfresh : (carriers s n).any (fun q => isStale (s.pair n q)) = false) :
    ∃ t : State, exec (.mapsStart n p v) s = .next t ∧ t.flag (DIAG_STATUS.BUSY n p) = true ∧ t.fld (DIAG_STATUS.KIND n p) = 1 := by
  obtain ⟨u, hruns⟩ := startMaps_of_fresh (p := p) ((portShow_setDiagCtrl n p v.toNat s).trans hshow)
    ((staleCarriers_setDiagCtrl n p v.toNat s).trans hfresh)
  obtain ⟨hbusy, hmaps, -⟩ := beginRun_shows n p (kind := 1) u (by decide)
  refine ⟨beginRun n p 1 u, ?_, hbusy, hmaps⟩
  change execMapsStart n p v s = _
  rw [execMapsStart, if_neg (by simp [hkind, hstart]), writeDiagCtrl_of_start hstart habort hidle, if_pos hkind, hruns]

/-! ### Runs that end (R320, R325, R332) -/

theorem diagCtrlAbort_aborts (hruns : reflecting s (gpair n p) = true) :
    ∃ t : State, exec (.diagCtrlAbort n p) s = .next t ∧ t.flag (DIAG_STATUS.BUSY n p) = false ∧ t.fld (DIAG_STATUS.RESULT n p) = 4 ∧
      t.fld (DIAG_STATUS.REASON n p) = 7 ∧ t.reg (DIAG_ABORTS n p) = s.reg (DIAG_ABORTS n p) + 1 ∧
      t.raised = s.raised ++ [⟨0x2061, 0, [n.val, p.val, 7]⟩] :=
  ⟨abortReflect (gpair n p) 7 s, rfl, abortReflect_shows hruns (by decide)⟩

/-! ### History (R329, R331) -/

theorem historyRecord_records (hon : s.flag (DIAG_HIST_CFG.HIST_EN n) = true) :
    ∃ t : State, exec (.historyRecord n p) s = .next t ∧
      (t.reg (DIAG_HIST_SEQ n p) = word (if (s.reg (DIAG_HIST_SEQ n p)).toNat = 0xFFFFFFFE then 0 else (s.reg (DIAG_HIST_SEQ n p)).toNat + 1) ∧
      (t.diag (gpair n p)).recs.head?.map (fun x => x.1) = some (s.reg (DIAG_HIST_SEQ n p)).toNat ∧
      (t.diag (gpair n p)).recs.tail = (s.diag (gpair n p)).recs.take 255) := by
  obtain ⟨t, w, hnext, hseq, hrecs⟩ := execHistoryRecord_shows (p := p) hon
  rw [show exec (.historyRecord n p) s = .next t from hnext]
  refine ⟨t, rfl, hseq, ?_, ?_⟩ <;> rw [hrecs] <;> rfl

end

/-- Settles O58, clause by clause: what a run writes in DIAG_STATUS stands through the rest of its step, and a record or a clear touches the history
of its own pair alone. -/
theorem diagnosticRunsAndHistory : Obligations.DiagnosticRunsAndHistory :=
  ⟨fun _ _ _ _ => reflectStart_runs, fun _ _ _ => diagCtrlAbort_aborts, fun _ _ _ _ => mapsStart_runs, fun _ _ r _ => execReflectDone_shows r,
    fun _ _ timeUs _ => execMapsDone_shows timeUs, fun _ _ _ => historyRecord_records, fun n s => ⟨histClear n s, rfl, fun _ => histClear_empties n s⟩⟩

end Sys2Proof.Claims
end

section
/-! SUPPORT. What the operations of the hub's clocks leave: the hub's record through flags, dividers and what expires, and the clock through the loss of
its reference. -/
namespace Sys2Proof.Machine

/-! ### Flags, dividers and forced switches (R342 to R345, R357) -/

@[simp] theorem clkFlag_hub (i : Nat) (s : State) : (clkFlag i s).hub = s.hub := by simp [clkFlag]
@[simp] theorem clkFlag_raised (i : Nat) (s : State) : (clkFlag i s).raised = s.raised := by simp [clkFlag]
@[simp] theorem clkFlag_now (i : Nat) (s : State) : (clkFlag i s).now = s.now := by simp [clkFlag]

/-- An interrupt bit is set in HUB_INT_STATUS alone: no field of another register changes with it. -/
theorem State.flag_intBit_other (s : State) {i : Nat} {f : Fld} (hi : i < 32) (hf : f.addr ≠ HUB_INT_STATUS) : (s.intBit i).flag f = s.flag f :=
  State.flag_setFld_apart s _ f 1 (Nat.le_refl i) hi (.inl hf)

theorem clkFlag_flag_other {i : Nat} {f : Fld} (s : State) (hi : i < 32) (hflags : f.addr ≠ CLK_FLAGS) (hint : f.addr ≠ HUB_INT_STATUS) :
    (clkFlag i s).flag f = s.flag f := by
  rw [clkFlag, State.flag_intBit_other _ (by decide) hint, State.flag_setFld_apart _ _ _ _ (Nat.le_refl i) hi (.inl hflags)]

theorem judgeDividers_hub (s : State) : (judgeDividers s).hub = s.hub :=
  (@keeps_judgeDividers (· ∈ [.regs, .raised]) ⟨by decide⟩ ⟨by decide⟩ s s (keeps_refl _ s)).same .hub (by decide)

theorem judgeDividers_links (s : State) : (judgeDividers s).links = s.links :=
  (@keeps_judgeDividers (· ∈ [.regs, .raised]) ⟨by decide⟩ ⟨by decide⟩ s s (keeps_refl _ s)).same .links (by decide)

/-- A write of CLK_DIV sets the order of the switches by the divider register as written; the dividers in use are those from before. -/
theorem writeClkDiv_switches (v : Nat) (s : State) : (writeClkDiv v s).hub.switches =
    switchOrder (s.setReg CLK_DIV (word (bits v 8 8 * 256 + bits v 5 4 * 16 + bits v 1 0))) := by
  rw [writeClkDiv, judgeDividers_hub, State.setFld_hub]
  rfl

theorem writeClkDiv_links (v : Nat) (s : State) : (writeClkDiv v s).links = s.links := by
  rw [writeClkDiv, judgeDividers_links, State.setFld_links, State.modHub_links, State.setReg_links]

/-- The domain that is first in the order has switched: the rest still waits. -/
theorem switchDomain_switches {d : Nat} {rest : List Nat} {s : State} (hfirst : s.hub.switches = d :: rest) :
    (switchDomain d s).hub.switches = rest := by
  unfold switchDomain
  rw [hfirst]
  dsimp only
  rw [if_neg (fun h => h rfl), judgeDividers_hub, State.setFld_hub]
  rfl

theorem forced_hub (d t : Nat) (s : State) : (forced d t s).hub = s.hub := by
  unfold forced
  split <;> simp

theorem forced_tiles (d t : Nat) (s : State) : (forced d t s).tiles = s.tiles := by
  unfold forced
  split <;> simp [clkFlag]

theorem forced_raises (d t : Nat) (s : State) : (⟨0x1040, 1, [d, if d = 4 then t else 0]⟩ : Event) ∈ (forced d t s).raised :=
  List.mem_append_right _ (List.mem_singleton.2 rfl)

/-! ### The hub PLL: what expires leaves the hub's record (R259, R355) -/

theorem expireFrames_hub (l : LinkId) (d : Dir) (p : Frame → Bool) (cause : Nat) (s : State) : (expireFrames l d p cause s).hub = s.hub :=
  (@keeps_expireFrames (· ∈ [.regs, .queues, .banks, .raised]) ⟨by decide⟩ ⟨by decide⟩ ⟨by decide⟩ ⟨by decide⟩ s s l d p cause
    (keeps_refl _ s)).same .hub (by decide)

theorem expireCodewords_hub (l : LinkId) (p : Rat → Bool) (cause : Nat) (s : State) : (expireCodewords l p cause s).hub = s.hub :=
  (@keeps_expireCodewords (· ∈ [.regs, .queues, .raised]) ⟨by decide⟩ ⟨by decide⟩ ⟨by decide⟩ s s l p cause (keeps_refl _ s)).same .hub (by decide)

theorem expireRxCodewords_hub (l : LinkId) (p : Rat → Bool) (cause : Nat) (s : State) : (expireRxCodewords l p cause s).hub = s.hub :=
  (@keeps_expireRxCodewords (· ∈ [.regs, .queues, .raised]) ⟨by decide⟩ ⟨by decide⟩ ⟨by decide⟩ s s l p cause (keeps_refl _ s)).same .hub
    (by decide)

theorem showBeds_hub (n : Port) (s : State) : (showBeds n s).hub = s.hub := by simp [showBeds]

theorem execHubPllUnlock_notes {s : State} (hqual : s.flag CLK_STATUS.REF_QUAL = true) (hlock : s.flag CLK_STATUS.HUBPLL_LOCK = true) :
    ∃ t : State, execHubPllUnlock s = .next t ∧ t.hub.hubLostAt = some s.now ∧ t.links = s.links := by
  generalize hnext : execHubPllUnlock s = o
  have hkeeps := @keeps_execHubPllUnlock (· ∈ [.regs, .queues, .banks, .hub, .raised]) ⟨by decide⟩ ⟨by decide⟩ ⟨by decide⟩ ⟨by decide⟩ ⟨by decide⟩
    s s (keeps_refl _ s)
  have hlinks (t : State) (ht : o = .next t) : t.links = s.links := (hkeeps.keeps t (hnext.trans ht)).same .links (by decide)
  rw [execHubPllUnlock, if_neg (by simp [hqual, hlock])] at hnext
  refine ⟨_, hnext.symm, ?_, hlinks _ hnext.symm⟩
  refine (congrArg HubSt.hubLostAt (forEach_eq_of_step_eq State.hub _ (fun n s => ?_) _ _)).trans ?_
  · rw [showBeds_hub]
    refine forEach_eq_of_step_eq State.hub _ (fun l s => ?_) _ _
    simp only [expireRxCodewords_hub, expireCodewords_hub, expireFrames_hub]
  · rw [State.raise_hub]
    exact congrArg some (by rw [clkFlag_now, State.setFld_now])

theorem execHubPllRelock_ends {a : Nat} {s : State} (hqual : s.flag CLK_STATUS.REF_QUAL = true) (hlock : s.flag CLK_STATUS.HUBPLL_LOCK = false)
    (hlost : s.hub.hubLostAt = some a) : ∃ t : State, execHubPllRelock s = .next t ∧ t.flag CLK_STATUS.HUBPLL_LOCK = true ∧
      t.hub.hubLostAt = none ∧ t.raised = s.raised ++ [⟨0x1031, 0, [s.now - a]⟩] := by
  have hstill : (s.setFld CLK_STATUS.HUBPLL_LOCK 1).hub.hubLostAt = some a := (congrArg HubSt.hubLostAt (State.setFld_hub _ _ _)).trans hlost
  rw [execHubPllRelock, if_neg (by simp [hqual, hlock])]
  dsimp only
  rw [hstill]
  refine ⟨_, rfl, ?_, ?_, ?_⟩
  · rw [State.raise_flag, State.modHub_flag]
    exact State.flag_setFld_one _ _ (Nat.le_refl 28) (by decide : 28 < 32)
  · rw [State.raise_hub]
    rfl
  · simp [State.raise]

/-! ### The ring PLL (R355, R392) -/

@[simp] theorem dropSync_raised (s : State) : (dropSync s).raised = s.raised := by simp [dropSync]
@[simp] theorem dropSync_now (s : State) : (dropSync s).now = s.now := by simp [dropSync]

theorem dropSync_refLostAt (s : State) : (dropSync s).hub.refLostAt = s.hub.refLostAt := by simp [dropSync]

theorem dropSync_flag_other {f : Fld} (s : State) (hf : f.addr ≠ MR_STATUS) : (dropSync s).flag f = s.flag f := by
  rw [dropSync, State.modHub_flag, State.flag_setFld_apart _ _ _ _ (Nat.le_refl 30) (by decide : 30 < 32) (.inl hf),
    State.flag_setFld_apart _ _ _ _ (Nat.le_refl 31) (by decide : 31 < 32) (.inl hf)]

theorem dropSync_unsyncs (s : State) : (dropSync s).flag MR_STATUS.MR0_SYNC = false ∧ (dropSync s).flag MR_STATUS.MR1_SYNC = false := by
  rw [dropSync, State.modHub_flag, State.modHub_flag]
  constructor
  · rw [State.flag_setFld_apart _ _ _ _ (Nat.le_refl 30) (by decide : 30 < 32) (.inr (.inr (by decide : 30 < 31)))]
    exact State.flag_setFld_zero _ _ (Nat.le_refl 31) (by decide : 31 < 32)
  · exact State.flag_setFld_zero _ _ (Nat.le_refl 30) (by decide : 30 < 32)

/-! ### The reference clock (R337, R338, R347, R349) -/

/-- The clock stands through the command, so the loss is noted at the time it was found. -/
theorem execRefclkLost_notes {s : State} (hqual : s.flag CLK_STATUS.REF_QUAL = true) :
    ∃ t : State, execRefclkLost s = .next t ∧ t.hub.refLostAt = some s.now ∧ ∃ down : Nat, (⟨0x1001, 2, [down]⟩ : Event) ∈ t.raised := by
  generalize hnext : execRefclkLost s = o
  have (k : Kind) : May (fun _ => True) k := ⟨trivial⟩
  have hnow (t : State) (ht : o = .next t) : t.now = s.now :=
    ((keeps_execRefclkLost (F := fun _ => True) (keeps_refl _ s)).keeps t (hnext.trans ht)).now
  rw [execRefclkLost, if_neg (by simp [hqual])] at hnext
  extract_lets s1 s2 s3 down s4 s5 s6 at hnext
  have hclock : s5.now = s.now := by
    rw [← hnow _ hnext.symm]
    simp [s6]
  refine ⟨_, hnext.symm, ?_, down, List.mem_append_right _ (List.mem_singleton.2 rfl)⟩
  rw [State.raise_hub, State.inc_hub, dropSync_refLostAt, ← hclock]
  rfl

theorem storeGen_hub (s : State) : (storeGen s).hub = s.hub :=
  (@keeps_storeGen (· ∈ [.regs, .mram]) ⟨by decide⟩ ⟨by decide⟩ s s (keeps_refl _ s)).same .hub (by decide)

theorem storeGen_raised (s : State) : (storeGen s).raised = s.raised :=
  (@keeps_storeGen (· ∈ [.regs, .mram]) ⟨by decide⟩ ⟨by decide⟩ s s (keeps_refl _ s)).same .raised (by decide)

theorem storeGen_now (s : State) : (storeGen s).now = s.now :=
  (@keeps_storeGen (· ∈ [.regs, .mram]) ⟨by decide⟩ ⟨by decide⟩ s s (keeps_refl _ s)).now

theorem execRefclkQualified_ends {a : Nat} {s : State} (hqual : s.flag CLK_STATUS.REF_QUAL = false) (hlost : s.hub.refLostAt = some a) :
    ∃ t : State, execRefclkQualified s = .next t ∧ t.hub.refLostAt = none ∧ t.reg CLK_REF_LOST_TIME = word (s.now - a) ∧
      t.raised = s.raised ++ [⟨0x1002, 0, [s.now - a]⟩] := by
  rw [execRefclkQualified, if_neg (by simp [hqual])]
  extract_lets s1 s2 s3
  have hs2 : s2.hub = s.hub ∧ s2.now = s.now ∧ s2.raised = s.raised := by
    simp only [s2]
    split <;> simp [s1, storeGen_hub, storeGen_now, storeGen_raised]
  obtain ⟨hhub, hnow, hraised⟩ : s3.hub = s.hub ∧ s3.now = s.now ∧ s3.raised = s.raised := by
    simp only [s3]
    split <;> simp [hs2]
  rw [hhub, hlost]
  refine ⟨_, rfl, ?_, ?_, ?_⟩
  · rw [State.raise_hub, State.setReg_hub, clkFlag_hub]
    rfl
  · rw [State.raise_reg, State.reg_setReg_same, hnow]
  · rw [← hnow, ← hraised]
    simp [State.raise]

end Sys2Proof.Machine
end

section
/-! PROOF. The statement about the hub's clocks, its PLLs and the reference clock (O34). -/
namespace Sys2Proof.Claims
open Sys2Proof Sys2Proof.Machine

section
variable {s : State}

/-! ### Dividers and switches (R342 to R345) -/

theorem clockSwitchStep_ends_first {dom : Nat} {rest : List Nat} (hfirst : s.hub.switches = dom :: rest) :
    ∃ t : State, exec (.clockSwitchStep dom) s = .next t ∧ t.hub.switches = rest :=
  ⟨switchDomain dom s, rfl, switchDomain_switches hfirst⟩

/-- A tile's own switch of this moment is over once it is found to have been forced. -/
theorem clockSwitchForced_of_tile {t : Tile} (hat : (s.tile t).switchAt = some s.now) :
    ∃ u : State, exec (.clockSwitchForced 4 t) s = .next u ∧ (u.tile t).switchAt = none ∧ (⟨0x1040, 1, [4, t]⟩ : Event) ∈ u.raised := by
  refine ⟨forced 4 t (s.modTile t (fun k => { k with switchAt := none })), ?_, ?_, forced_raises 4 t _⟩
  · show execClockSwitchForced 4 t s = _
    rw [execClockSwitchForced, if_pos rfl, if_pos hat]
  · rw [State.tile_congr (forced_tiles _ _ _), State.tile_modTile]

theorem clockSwitchForced_of_hub {dom : Nat} (t : Tile) {rest : List Nat} (hdom : dom ≠ 4) (hfirst : s.hub.switches = dom :: rest) :
    ∃ u : State, exec (.clockSwitchForced dom t) s = .next u ∧ u.hub.switches = rest ∧ (⟨0x1040, 1, [dom, 0]⟩ : Event) ∈ u.raised := by
  refine ⟨forced dom 0 (switchDomain dom s), ?_, ?_, ?_⟩
  · show execClockSwitchForced dom t s = _
    rw [execClockSwitchForced, if_neg hdom, if_pos (by rw [hfirst]; rfl)]
  · rw [forced_hub, switchDomain_switches hfirst]
  · simpa [hdom] using forced_raises dom 0 (switchDomain dom s)

/-! ### The ring PLL (R349, R355, R392) -/

theorem ringPllUnlock_drops_sync (hqual : s.flag CLK_STATUS.REF_QUAL = true) (hlock : s.flag CLK_STATUS.RINGPLL_LOCK = true) :
    ∃ t : State, exec .ringPllUnlock s = .next t ∧ t.flag CLK_STATUS.RINGPLL_LOCK = false ∧ t.flag MR_STATUS.MR0_SYNC = false ∧
      t.flag MR_STATUS.MR1_SYNC = false ∧ t.raised = s.raised ++ [⟨0x9010, 1, []⟩] := by
  obtain ⟨hsync0, hsync1⟩ := dropSync_unsyncs ((clkFlag 4 (s.setFld CLK_STATUS.RINGPLL_LOCK 0)).raise 0x9010 1 [])
  refine ⟨_, ?_, ?_, hsync0, hsync1, ?_⟩
  · show execRingPllUnlock s = _
    rw [execRingPllUnlock, if_neg (by simp [hqual, hlock])]
  · rw [dropSync_flag_other _ (by decide), State.raise_flag, clkFlag_flag_other _ (by decide) (by decide) (by decide)]
    exact State.flag_setFld_zero _ _ (Nat.le_refl 27) (by decide : 27 < 32)
  · simp [State.raise]

theorem ringPllRelock_locks (hqual : s.flag CLK_STATUS.REF_QUAL = true) :
    ∃ t : State, exec .ringPllRelock s = .next t ∧ t.flag CLK_STATUS.RINGPLL_LOCK = true ∧ t.links = s.links := by
  refine ⟨s.setFld CLK_STATUS.RINGPLL_LOCK 1, ?_, State.flag_setFld_one _ _ (Nat.le_refl 27) (by decide : 27 < 32), State.setFld_links _ _ _⟩
  show execRingPllRelock s = _
  rw [execRingPllRelock, if_neg (by simp [hqual])]

end

/-- Settles O34, clause by clause: what follows a switch, a loss or a lock in its step leaves the hub's record and the clock. -/
theorem hubClocks : Obligations.HubClocks :=
  ⟨fun v s => ⟨writeClkDiv v.toNat s, rfl, writeClkDiv_switches v.toNat s, writeClkDiv_links v.toNat s⟩, fun _ _ _ => clockSwitchStep_ends_first,
    fun _ _ => clockSwitchForced_of_tile, fun _ t _ _ => clockSwitchForced_of_hub t, fun _ => execHubPllUnlock_notes,
    fun _ _ => execHubPllRelock_ends, fun _ => ringPllUnlock_drops_sync, fun _ => ringPllRelock_locks, fun _ => execRefclkLost_notes,
    fun _ _ => execRefclkQualified_ends⟩

end Sys2Proof.Claims
end

section
/-! SUPPORT. What the operations of the PLLs of tiles and octets leave: a tile's switch through what follows it while the links rest, and the losses
noted through what happens to the lanes of an octet. -/
namespace Sys2Proof.Machine

/-! ### LPLLs (R350 to R353) -/

theorem lpllLock_addr (t i : Nat) : (lpllLock t i).addr = TILE_CLK_STATUS t := by
  unfold lpllLock
  split <;> rfl

theorem tileClkStatus_ne_intStatus (t : Nat) : TILE_CLK_STATUS t ≠ HUB_INT_STATUS := by
  unfold TILE_CLK_STATUS tileBase HUB_INT_STATUS hubBase
  omega

/-- The lock of an LPLL is one bit, among the highest of its register. -/
theorem lpllLock_high (t i : Nat) : (lpllLock t i).lo = (lpllLock t i).hi ∧ 29 ≤ (lpllLock t i).hi ∧ (lpllLock t i).hi < 32 := by
  unfold lpllLock
  split <;> simp [TILE_CLK_STATUS.M_LOCK, TILE_CLK_STATUS.S_LOCK]

/-- The loss flag of an LPLL is one bit, among the lowest of its register. -/
theorem lpllUnlock_low (t i : Nat) : (lpllUnlock t i).lo = (lpllUnlock t i).hi ∧ (lpllUnlock t i).hi < 3 := by
  unfold lpllUnlock
  split <;> simp [TILE_CLK_STATUS.M_UNLOCK, TILE_CLK_STATUS.S_UNLOCK]

/-- What is noted beside a lock that is lost leaves the upper bits of the register. -/
theorem flag_lpllUnlock_apart {t i : Nat} {f : Fld} (s : State) (haddr : f.addr = TILE_CLK_STATUS t) (hlo : 3 ≤ f.lo) :
    ((s.setFld (lpllUnlock t i) 1).intBit 5).flag f = s.flag f := by
  obtain ⟨hone, hlow⟩ := lpllUnlock_low t i
  rw [State.flag_intBit_other _ (by decide) (haddr ▸ tileClkStatus_ne_intStatus t),
    State.flag_setFld_apart _ _ _ _ hone.le (by omega) (.inr (.inr (by omega)))]

/-- A loss of lock leaves what stands above the loss flags and is not the lock itself. -/
theorem loseLpll_flag_other {t i : Nat} {f : Fld} (s : State) (haddr : f.addr = TILE_CLK_STATUS t) (hlo : 3 ≤ f.lo)
    (hapart : f.hi < (lpllLock t i).lo ∨ (lpllLock t i).hi < f.lo) : (loseLpll t i s).flag f = s.flag f := by
  obtain ⟨hone, -, hhi⟩ := lpllLock_high t i
  unfold loseLpll
  split
  · rw [State.modHub_flag, flag_lpllUnlock_apart _ haddr hlo, State.flag_setFld_apart _ _ _ _ hone.le hhi (.inr hapart)]
  · rfl

theorem loseLpll_unlocks (t i : Nat) (s : State) : (loseLpll t i s).flag (lpllLock t i) = false := by
  obtain ⟨hone, hlo, hhi⟩ := lpllLock_high t i
  unfold loseLpll
  split
  · rw [State.modHub_flag, flag_lpllUnlock_apart _ (lpllLock_addr t i) (by omega)]
    exact State.flag_setFld_zero _ _ hone.le hhi
  next hunlocked => simpa using hunlocked

/-- The loss of a locked LPLL is noted. -/
theorem loseLpll_notes {t i : Nat} {s : State} (hlock : s.flag (lpllLock t i) = true) :
    bit (loseLpll t i s).hub.pllLost (20 + 2 * t + i) = true := by
  rw [loseLpll, if_pos hlock]
  exact bit_setBit_same _ _ _

theorem keeps_own_loseLpll (t i : Nat) (s : State) : Keeps (· ∈ [.regs, .hub]) s (loseLpll t i s) :=
  @keeps_loseLpll (· ∈ [.regs, .hub]) ⟨by decide⟩ ⟨by decide⟩ s s t i (keeps_refl _ s)

theorem loseLpll_raised (t i : Nat) (s : State) : (loseLpll t i s).raised = s.raised := (keeps_own_loseLpll t i s).same .raised (by decide)
theorem loseLpll_links (t i : Nat) (s : State) : (loseLpll t i s).links = s.links := (keeps_own_loseLpll t i s).same .links (by decide)

/-- Every link of the device is at rest. -/
def AllAtRest (s : State) : Prop := ∀ l, (s.link l).phase = 0

theorem AllAtRest.of_links {s t : State} (h : AllAtRest s) (hlinks : t.links = s.links) : AllAtRest t := fun l => by
  rw [State.link_congr hlinks]
  exact h l

/-- A step that leaves the state as it is does so for every item of a list. -/
theorem forEach_of_fixed {α : Type} {f : α → State → State} {s : State} (hf : ∀ x, f x s = s) (xs : List α) : forEach xs f s = s :=
  List.foldl_fixed' hf xs

theorem requestForced_of_rest {l : LinkId} {cause : Nat} {s : State} (hrest : (s.link l).phase = 0) : requestForced l cause s = s := by
  simp [requestForced, requestRetrain, hrest]

theorem dropLink_of_rest {l : LinkId} {cause : Nat} {s : State} (hrest : (s.link l).phase = 0) : dropLink l cause s = s := by
  simp [dropLink, isUp, inStartup, hrest]

/-- Every link is at rest, and the last switch of a tile's LPLL was ordered at `at_`. -/
def RestsSwitched (t at_ : Nat) (s : State) : Prop := AllAtRest s ∧ (s.tile t).switchAt = some at_

theorem RestsSwitched.of_eq {t at_ : Nat} {s u : State} (h : RestsSwitched t at_ s) (hlinks : u.links = s.links) (htiles : u.tiles = s.tiles) :
    RestsSwitched t at_ u := ⟨h.1.of_links hlinks, by rw [State.tile_congr htiles]; exact h.2⟩

theorem RestsSwitched.modTile {t at_ m : Nat} {s : State} {g : TileSt → TileSt} (h : RestsSwitched t at_ s)
    (hg : ∀ k, (g k).switchAt = k.switchAt) : RestsSwitched t at_ (s.modTile m g) := by
  refine ⟨h.1.of_links (State.modTile_links _ _ _), ?_⟩
  by_cases hm : t = m
  · rw [hm, State.tile_modTile, hg, ← hm]
    exact h.2
  · exact (congrArg TileSt.switchAt (SMap.get_put_other _ _ _ _ _ hm)).trans h.2

theorem restsSwitched_abandonRuns {t at_ : Nat} (reason : Nat) (p : CalRun → Bool) {s : State} (h : RestsSwitched t at_ s) :
    RestsSwitched t at_ (abandonRuns reason p s) := by
  have hkeeps := @keeps_abandonRuns (· ∈ [.regs, .pairs, .cals, .calRuns, .completions, .claims, .waiting, .later, .raised]) ⟨by decide⟩ ⟨by decide⟩
    ⟨by decide⟩ ⟨by decide⟩ ⟨by decide⟩ ⟨by decide⟩ ⟨by decide⟩ ⟨by decide⟩ ⟨by decide⟩ s s reason p (keeps_refl _ s)
  exact h.of_eq (hkeeps.same .links (by decide)) (hkeeps.same .tiles (by decide))

/-- A swap that restarts keeps its tile's switch. -/
theorem restsSwitched_abandonSwap {t at_ : Nat} (m : Nat) (w : MSwap) (st : Nat) {s : State} (h : RestsSwitched t at_ s) :
    RestsSwitched t at_ (abandonSwap m w st 0 true s) := by
  have hout : RestsSwitched t at_ (takeSwapOut m w s) := h.modTile fun _ => rfl
  have hslice := @keeps_setSliceState (· ∈ [.regs]) ⟨by decide⟩ _ _ m w.spare st (keeps_refl _ (takeSwapOut m w s))
  rw [abandonSwap, if_pos rfl, if_pos rfl]
  exact (hout.of_eq (hslice.same .links (by decide)) (hslice.same .tiles (by decide))).modTile fun _ => rfl

theorem restsSwitched_abortReflect {t at_ : Nat} (g reason : Nat) {s : State} (h : RestsSwitched t at_ s) :
    RestsSwitched t at_ (abortReflect g reason s) := by
  have hkeeps := @keeps_abortReflect (· ∈ [.regs, .diags, .completions, .claims, .waiting, .later, .raised]) ⟨by decide⟩ ⟨by decide⟩ ⟨by decide⟩
    ⟨by decide⟩ ⟨by decide⟩ ⟨by decide⟩ ⟨by decide⟩ s s g reason (keeps_refl _ s)
  exact h.of_eq (hkeeps.same .links (by decide)) (hkeeps.same .tiles (by decide))

/-- A link at rest asks for no retrain; it is only shown. -/
theorem restsSwitched_showForced {t at_ : Nat} (l : LinkId) (cause : Nat) {s : State} (h : RestsSwitched t at_ s) :
    RestsSwitched t at_ (showLink l (requestForced l cause s)) := by
  have hshow := @keeps_showLink (· ∈ [.regs, .raised]) ⟨by decide⟩ ⟨by decide⟩ s s l (keeps_refl _ s)
  rw [requestForced_of_rest (h.1 l)]
  exact h.of_eq (hshow.same .links (by decide)) (hshow.same .tiles (by decide))

/-- While every link rests, a tile that switches to its other LPLL has ordered the switch at this moment (R346, R350, R351). -/
theorem lpllSwitch_switchAt {t cause : Nat} {s : State} (hrest : AllAtRest s) :
    ((lpllSwitch t cause s).tile t).switchAt = some s.now := by
  unfold lpllSwitch
  extract_lets now s1 s2 s3 s4
  have h2 : RestsSwitched t s.now s2 := by
    refine ⟨hrest.of_links (by simp [s2, s1]), ?_⟩
    rw [State.tile_modTile]
    simp [s1]
  have h3 : RestsSwitched t s.now s3 := restsSwitched_abandonRuns 1 _ h2
  have h4 : RestsSwitched t s.now s4 := forEach_of_step (fun w _ h => restsSwitched_abandonSwap t w 1 h) _ h3
  refine (forEach_of_step (P := RestsSwitched t s.now) (fun n u h => ?_) _ h4).2
  have hruns := forEach_of_step (fun p _ h => restsSwitched_abortReflect (gpair n p) 6 h) allPairs h
  exact forEach_of_step (fun l _ h => restsSwitched_showForced l 9 h) _ hruns

/-! ### HPLLs: what happens to the lanes of an octet leaves the losses noted (R277, R280, R354) -/

theorem setSpareState_pllLost (g st : Nat) (s : State) : (setSpareState g st s).hub.pllLost = s.hub.pllLost := by
  have hsettle (u : State) : (settleSpares u).hub.pllLost = u.hub.pllLost := by
    unfold settleSpares
    split <;> rfl
  unfold setSpareState
  split
  · rfl
  · rw [hsettle]
    simp [laneInt]

theorem setLaneState_hub (h st : Nat) (s : State) : (setLaneState h st s).hub = s.hub :=
  (@keeps_setLaneState (· ∈ [.regs]) ⟨by decide⟩ s s h st (keeps_refl _ s)).same .hub (by decide)

theorem recordFault_hub (h cause : Nat) (took : Bool) (s : State) : (recordFault h cause took s).hub = s.hub := by simp [recordFault]

theorem acquire_hub (h : Nat) (half : Bool) (s : State) : (acquire h half s).hub = s.hub :=
  (@keeps_acquire (· ∈ [.regs, .lanes]) ⟨by decide⟩ ⟨by decide⟩ s s h half (keeps_refl _ s)).same .hub (by decide)

theorem moveIngress_hub (p h : Nat) (s : State) : (moveIngress p h s).hub = s.hub :=
  (@keeps_moveIngress (· ∈ [.free, .regs, .queues, .hosts, .lanes, .laneOf, .banks, .raised]) ⟨by decide⟩ ⟨by decide⟩ ⟨by decide⟩ ⟨by decide⟩
    ⟨by decide⟩ ⟨by decide⟩ ⟨by decide⟩ ⟨by decide⟩ s s p h (keeps_refl _ s)).same .hub (by decide)

theorem showFault_hub (h cause : Nat) (s : State) : (showFault h cause s).hub = s.hub :=
  (@keeps_showFault (· ∈ [.regs, .lanes, .eyes, .completions, .claims, .waiting, .later]) ⟨by decide⟩ ⟨by decide⟩ ⟨by decide⟩ ⟨by decide⟩
    ⟨by decide⟩ ⟨by decide⟩ ⟨by decide⟩ s s h cause (keeps_refl _ s)).same .hub (by decide)

theorem abortEye_hub (h : Nat) (s : State) : (abortEye h s).hub = s.hub :=
  (@keeps_abortEye (· ∈ [.regs, .lanes, .eyes, .completions, .claims, .waiting, .later]) ⟨by decide⟩ ⟨by decide⟩ ⟨by decide⟩ ⟨by decide⟩
    ⟨by decide⟩ ⟨by decide⟩ ⟨by decide⟩ s s h (keeps_refl _ s)).same .hub (by decide)

theorem prbsUnlock_hub (h : Nat) (s : State) : (prbsUnlock h s).hub = s.hub :=
  (@keeps_prbsUnlock (· ∈ [.regs, .lanes]) ⟨by decide⟩ ⟨by decide⟩ s s h (keeps_refl _ s)).same .hub (by decide)

theorem substitute_pllLost (h cause : Nat) (slow : Bool) (s : State) : (substitute h cause slow s).hub.pllLost = s.hub.pllLost := by
  unfold substitute
  simp [setSpareState_pllLost, setLaneState_hub, setLanePort, moveIngress_hub]

theorem failSpare_pllLost (sp cause : Nat) (s : State) : (failSpare sp cause s).hub.pllLost = s.hub.pllLost := by
  rw [failSpare, setSpareState_pllLost, setLaneState_hub, recordFault_hub]

theorem failLane_pllLost (h cause : Nat) (s : State) : (failLane h cause s).hub.pllLost = s.hub.pllLost := by
  unfold failLane
  extract_lets g sp s1 rate differs slow own s2
  have hrevert : s1.hub.pllLost = s.hub.pllLost := by
    simp only [s1]
    split
    · rw [setSpareState_pllLost, State.modLane_hub]
    · rfl
  have hacquire : (if differs then acquire sp rate s2 else s2).hub = s1.hub := by
    split <;> simp [acquire_hub, s2, recordFault_hub]
  refine Eq.trans ?_ hrevert
  split
  · rw [substitute_pllLost, recordFault_hub]
  · split
    · rw [substitute_pllLost, hacquire]
    · rw [setLaneState_hub, recordFault_hub]

theorem laneFault_pllLost (h cause : Nat) (s : State) : (laneFault h cause s).hub.pllLost = s.hub.pllLost := by
  unfold laneFault
  extract_lets st held pattern transparent s1
  have hshow : s1.hub = s.hub := showFault_hub h cause s
  split
  · rfl
  refine Eq.trans ?_ (congrArg HubSt.pllLost hshow)
  split
  · rw [recordFault_hub]
  split
  · rfl
  split
  · split
    · exact failLane_pllLost h cause s1
    · rw [recordFault_hub]
  · exact failSpare_pllLost h cause s1

theorem octetFails_pllLost (o : Nat) (s : State) : (octetFails o s).hub.pllLost = s.hub.pllLost := by
  unfold octetFails
  extract_lets hs s1 sp pick order
  have hquiet : s1.hub.pllLost = s.hub.pllLost :=
    forEach_eq_of_step_eq (fun u : State => u.hub.pllLost) _ (fun h u => by rw [prbsUnlock_hub, abortEye_hub]) hs s
  refine Eq.trans ?_ hquiet
  split
  · refine forEach_eq_of_step_eq (fun u : State => u.hub.pllLost) _ (fun h u => ?_) order s1
    dsimp only
    split <;> split <;> simp [laneFault_pllLost]
  · refine forEach_eq_of_step_eq (fun u : State => u.hub.pllLost) _ (fun g u => ?_) (List.range 8) s1
    dsimp only
    split <;> simp [failSpare_pllLost]

theorem octetLocks_pllLost (o : Nat) (s : State) : (octetLocks o s).hub.pllLost = s.hub.pllLost := by
  unfold octetLocks
  refine forEach_eq_of_step_eq (fun u : State => u.hub.pllLost) _ (fun h u => ?_) _ s
  extract_lets u1
  have hlane : u1.hub = u.hub := by simp [u1, setLaneState_hub, setLocks]
  refine Eq.trans ?_ (congrArg HubSt.pllLost hlane)
  split
  · rfl
  split
  · exact setSpareState_pllLost _ _ _
  · rfl

end Sys2Proof.Machine
end

section
/-! PROOF. The statement about the PLLs of tiles and octets (O35). -/
namespace Sys2Proof.Claims
open Sys2Proof Sys2Proof.Machine

section
variable {t : Tile} {o : Octet} {s : State}

/-! ### LPLLs (R349 to R353) -/

theorem lpllActiveUnlock_switches (hrest : AllAtRest s) (hactive : s.flag (lpllLock t (activeLpll s t)) = true)
    (hother : s.flag (lpllLock t (1 - activeLpll s t)) = true) :
    ∃ u : State, exec (.lpllActiveUnlock t) s = .next u ∧ (u.tile t).switchAt = some s.now := by
  refine ⟨lpllSwitch t 1 (loseLpll t (activeLpll s t) s), ?_, ?_⟩
  · show execLpllActiveUnlock t s = _
    rw [execLpllActiveUnlock]
    exact if_pos (by simp [hactive, hother])
  · rw [lpllSwitch_switchAt (hrest.of_links (loseLpll_links _ _ _)), (keeps_own_loseLpll _ _ _).now]

theorem lpllSwap_switches (hrest : AllAtRest s) (hother : s.flag (lpllLock t (1 - activeLpll s t)) = true) :
    ∃ u : State, exec (.lpllSwap t) s = .next u ∧ (u.tile t).switchAt = some s.now := by
  refine ⟨lpllSwitch t 2 s, ?_, lpllSwitch_switchAt hrest⟩
  show execLpllSwap t s = _
  rw [execLpllSwap, swapLpll, if_pos hother]

/-- With the links at rest none goes down: the two losses and the event are all. -/
theorem lpllBothUnlock_coasts (hrest : AllAtRest s) (hm : s.flag (TILE_CLK_STATUS.M_LOCK t) = true) :
    ∃ u : State, exec (.lpllBothUnlock t) s = .next u ∧ u.flag (TILE_CLK_STATUS.COASTING t) = true ∧
      u.flag (TILE_CLK_STATUS.M_LOCK t) = false ∧ u.flag (TILE_CLK_STATUS.S_LOCK t) = false ∧ u.raised = s.raised ++ [⟨0x1011, 2, [t.val]⟩] := by
  have hdrop (u : State) (h : AllAtRest u) :
      forEach (tilePorts t) (fun n s => forEach (activeLinks s n) (fun l s => dropLink l 6 s) s) u = u := by
    refine forEach_of_fixed (fun n => ?_) _
    exact forEach_of_fixed (fun l => dropLink_of_rest (h l)) _
  refine ⟨((loseLpll t 1 (loseLpll t 0 s)).setFld (TILE_CLK_STATUS.COASTING t) 1).raise 0x1011 2 [t], ?_, ?_, ?_, ?_, ?_⟩
  · show execLpllBothUnlock t s = _
    rw [execLpllBothUnlock, if_neg (by simp [hm])]
    exact congrArg _ (hdrop _ (hrest.of_links (by simp [loseLpll_links])))
  · rw [State.raise_flag]
    exact State.flag_setFld_one _ _ (Nat.le_refl 28) (by decide : 28 < 32)
  · rw [State.raise_flag, State.flag_setFld_apart _ _ _ _ (Nat.le_refl 28) (by decide : 28 < 32) (.inr (.inr (by decide : 28 < 30))),
      loseLpll_flag_other (i := 1) (f := TILE_CLK_STATUS.M_LOCK t) _ rfl (by decide : 3 ≤ 30) (.inr (by decide : 29 < 30))]
    exact loseLpll_unlocks t 0 s
  · rw [State.raise_flag, State.flag_setFld_apart _ _ _ _ (Nat.le_refl 28) (by decide : 28 < 32) (.inr (.inr (by decide : 28 < 29)))]
    exact loseLpll_unlocks t 1 _
  · rw [State.raise, State.setFld_raised, loseLpll_raised, loseLpll_raised]

theorem lpllStandbyUnlock_notes (hstandby : s.flag (lpllLock t (1 - activeLpll s t)) = true)
    (hother : s.flag (lpllLock t (1 - (1 - activeLpll s t))) = true) :
    ∃ u : State, exec (.lpllStandbyUnlock t) s = .next u ∧ u.raised = s.raised ++ [⟨0x1012, 0, [t.val, 1 - activeLpll s t, 0]⟩] ∧
      bit u.hub.pllLost (20 + 2 * t + (1 - activeLpll s t)) = true := by
  refine ⟨(loseLpll t (1 - activeLpll s t) s).raise 0x1012 0 [t, 1 - activeLpll s t, 0], ?_, ?_, loseLpll_notes hstandby⟩
  · show execLpllStandbyUnlock t s = _
    rw [execLpllStandbyUnlock]
    exact if_pos (by simp [hstandby, hother])
  · rw [State.raise, loseLpll_raised]

theorem lpllRelock_locks {sub : Bool} (hqual : s.flag CLK_STATUS.REF_QUAL = true) (hlost : s.flag (lpllLock t sub.toNat) = false)
    (hon : (s.dom (0x020 + t)).state = 3) (hother : s.flag (lpllLock t (1 - sub.toNat)) = true) :
    ∃ u : State, execLpllRelock t sub s = .next u ∧ bit u.hub.pllLost (20 + 2 * t + sub.toNat) = false ∧
      u.flag (lpllLock t sub.toNat) = true := by
  obtain ⟨hone, -, hhi⟩ := lpllLock_high t sub.toNat
  rw [execLpllRelock]
  extract_lets alone other s1
  have hlocked : bit s1.hub.pllLost (20 + 2 * t + sub.toNat) = false ∧ s1.flag (lpllLock t sub.toNat) = true := by
    simp only [s1, State.hub_modHub, State.modHub_flag]
    exact ⟨bit_setBit_same _ _ _, State.flag_setFld_one _ _ hone.le hhi⟩
  rw [if_neg (by simp [hqual, hlost, hon]), if_pos hother]
  refine ⟨_, rfl, ?_⟩
  split
  · exact hlocked
  · exact hlocked

/-! ### HPLLs (R349, R354) -/

theorem hpllUnlock_notes (hlock : s.flag (CLK_HPLL_STATUS.LOCKED o) = true) :
    ∃ t : State, execHpllUnlock o s = .next t ∧ bit t.hub.pllLost o = true ∧ ∃ k : Nat, (⟨0x1020, 2, [o.val, k]⟩ : Event) ∈ t.raised := by
  rw [execHpllUnlock, if_neg (by simp [hlock])]
  extract_lets s1 s2 s3 s4 before s5
  refine ⟨_, rfl, ?_, _, List.mem_append_right _ (List.mem_singleton.2 rfl)⟩
  rw [State.raise_hub, octetFails_pllLost]
  exact bit_setBit_same _ _ _

theorem hpllRelock_clears (hqual : s.flag CLK_STATUS.REF_QUAL = true) (hlost : s.flag (CLK_HPLL_STATUS.LOCKED o) = false)
    (hon : (s.dom (0x040 + o)).state = 3) :
    ∃ t : State, execHpllRelock o s = .next t ∧ bit t.hub.pllLost o = false ∧
      (bit s.hub.pllLost o = true → (⟨0x1021, 0, [o.val]⟩ : Event) ∈ t.raised) := by
  rw [execHpllRelock, if_neg (by simp [hqual, hlost, hon])]
  extract_lets s1 alone s2
  have hcleared : bit s2.hub.pllLost o = false := by
    rw [octetLocks_pllLost]
    exact bit_setBit_same _ _ _
  have halone : alone = bit s.hub.pllLost o := by simp [alone, s1]
  refine ⟨_, rfl, ?_, fun hown => ?_⟩
  · split
    · exact hcleared
    · exact hcleared
  · rw [if_pos (halone.trans hown)]
    exact List.mem_append_right _ (List.mem_singleton.2 rfl)

end

/-- Settles O35, clause by clause: a link at rest takes no part in what a tile's PLL does, and the losses noted stand through what happens to the
lanes. -/
theorem tileAndHostPlls : Obligations.TileAndHostPlls :=
  ⟨fun _ _ => lpllActiveUnlock_switches, fun _ _ => lpllSwap_switches, fun _ _ hrest hm _ => lpllBothUnlock_coasts hrest hm,
    fun _ _ => lpllStandbyUnlock_notes, fun _ _ _ => lpllRelock_locks, fun _ _ => hpllUnlock_notes, fun _ _ => hpllRelock_clears⟩

end Sys2Proof.Claims
end

section
/-! SUPPORT. Every command changes only the kinds of state in its footprint: what Laws says of each meaning, brought together for `exec`. -/
-- the whole text is compiled at once: its threads share one memory limit
set_option Elab.async false
namespace Sys2Proof.Machine

/-- The kind of state is one of those listed. -/
def Within (ks : List Kind) (k : Kind) : Prop := k ∈ ks

theorem may_within_head (k : Kind) (ks : List Kind) : May (Within (k :: ks)) k := ⟨List.mem_cons_self⟩

theorem may_within_tail (j k : Kind) (ks : List Kind) [h : May (Within ks) k] : May (Within (j :: ks)) k :=
  ⟨List.mem_cons_of_mem _ h.may⟩

end Sys2Proof.Machine
namespace Sys2Proof.Claims
open Sys2Proof Sys2Proof.Machine

/-! ### The footprints that are told by what they leave out -/

theorem allBut_saved : allBut [.calSaved] =
    [.free, .regs, .ports, .pairs, .links, .queues, .hosts, .lanes, .laneOf, .tbl, .held, .snr, .erle, .errs, .sigma, .noise, .coef, .seeds, .banks,
     .rows, .tiles, .diags, .maps, .traces, .doms, .cals, .calRuns, .queued, .running, .kept, .jobs, .records, .eyes, .completions, .claims, .waiting,
     .later, .granted, .tests, .nvOpen, .mram, .gbQueue, .gbLimits, .gbWindow, .shadows, .highs, .core, .hub, .raised, .out] := rfl

theorem allBut_saved_out : allBut [.calSaved, .out] =
    [.free, .regs, .ports, .pairs, .links, .queues, .hosts, .lanes, .laneOf, .tbl, .held, .snr, .erle, .errs, .sigma, .noise, .coef, .seeds, .banks,
     .rows, .tiles, .diags, .maps, .traces, .doms, .cals, .calRuns, .queued, .running, .kept, .jobs, .records, .eyes, .completions, .claims, .waiting,
     .later, .granted, .tests, .nvOpen, .mram, .gbQueue, .gbLimits, .gbWindow, .shadows, .highs, .core, .hub, .raised] := rfl

theorem allBut_saved_mram_out : allBut [.calSaved, .mram, .out] =
    [.free, .regs, .ports, .pairs, .links, .queues, .hosts, .lanes, .laneOf, .tbl, .held, .snr, .erle, .errs, .sigma, .noise, .coef, .seeds, .banks,
     .rows, .tiles, .diags, .maps, .traces, .doms, .cals, .calRuns, .queued, .running, .kept, .jobs, .records, .eyes, .completions, .claims, .waiting,
     .later, .granted, .tests, .nvOpen, .gbQueue, .gbLimits, .gbWindow, .shadows, .highs, .core, .hub, .raised] := rfl

theorem allBut_claimGrant : allBut [.queued, .gbLimits, .gbWindow] =
    [.free, .regs, .ports, .pairs, .links, .queues, .hosts, .lanes, .laneOf, .tbl, .held, .snr, .erle, .errs, .sigma, .noise, .coef, .seeds, .banks,
     .rows, .tiles, .diags, .maps, .traces, .doms, .cals, .calRuns, .calSaved, .running, .kept, .jobs, .records, .eyes, .completions, .claims,
     .waiting, .later, .granted, .tests, .nvOpen, .mram, .gbQueue, .shadows, .highs, .core, .hub, .raised, .out] := rfl

theorem allBut_access : allBut [.calSaved, .queued, .granted, .nvOpen, .gbLimits, .gbWindow] =
    [.free, .regs, .ports, .pairs, .links, .queues, .hosts, .lanes, .laneOf, .tbl, .held, .snr, .erle, .errs, .sigma, .noise, .coef, .seeds, .banks,
     .rows, .tiles, .diags, .maps, .traces, .doms, .cals, .calRuns, .running, .kept, .jobs, .records, .eyes, .completions, .claims, .waiting, .later,
     .tests, .mram, .gbQueue, .shadows, .highs, .core, .hub, .raised, .out] := rfl

theorem allBut_write : allBut [.calSaved, .queued, .granted, .nvOpen, .gbLimits, .gbWindow, .shadows] =
    [.free, .regs, .ports, .pairs, .links, .queues, .hosts, .lanes, .laneOf, .tbl, .held, .snr, .erle, .errs, .sigma, .noise, .coef, .seeds, .banks,
     .rows, .tiles, .diags, .maps, .traces, .doms, .cals, .calRuns, .running, .kept, .jobs, .records, .eyes, .completions, .claims, .waiting, .later,
     .tests, .mram, .gbQueue, .highs, .core, .hub, .raised, .out] := rfl

theorem allBut_gbRate : allBut [.calSaved, .queued, .granted, .nvOpen, .gbWindow, .shadows] =
    [.free, .regs, .ports, .pairs, .links, .queues, .hosts, .lanes, .laneOf, .tbl, .held, .snr, .erle, .errs, .sigma, .noise, .coef, .seeds, .banks,
     .rows, .tiles, .diags, .maps, .traces, .doms, .cals, .calRuns, .running, .kept, .jobs, .records, .eyes, .completions, .claims, .waiting, .later,
     .tests, .mram, .gbQueue, .gbLimits, .highs, .core, .hub, .raised, .out] := rfl

theorem allBut_configPass : allBut [.calSaved, .queued, .jobs, .records, .granted, .nvOpen, .gbLimits, .gbWindow, .shadows] =
    [.free, .regs, .ports, .pairs, .links, .queues, .hosts, .lanes, .laneOf, .tbl, .held, .snr, .erle, .errs, .sigma, .noise, .coef, .seeds, .banks,
     .rows, .tiles, .diags, .maps, .traces, .doms, .cals, .calRuns, .running, .kept, .eyes, .completions, .claims, .waiting, .later, .tests, .mram,
     .gbQueue, .highs, .core, .hub, .raised, .out] := rfl

theorem allBut_portReset : allBut [.hosts, .lanes, .laneOf, .calRuns, .calSaved, .queued, .jobs, .records, .eyes, .granted, .nvOpen, .mram, .gbQueue, .gbLimits, .gbWindow, .shadows, .highs, .core] =
    [.free, .regs, .ports, .pairs, .links, .queues, .tbl, .held, .snr, .erle, .errs, .sigma, .noise, .coef, .seeds, .banks, .rows, .tiles, .diags,
     .maps, .traces, .doms, .cals, .running, .kept, .completions, .claims, .waiting, .later, .tests, .hub, .raised, .out] := rfl

theorem mem_allBut {ks : List Kind} {k : Kind} (h : k ∉ ks) : k ∈ allBut ks :=
  List.mem_filter.2 ⟨by cases k <;> decide, by simpa using h⟩

/-- A footprint that leaves out the outputs, what CAL_SAVE has stored and perhaps the MRAM allows a reset. -/
theorem mayReset_within_allBut {ks : List Kind} (h : ∀ k ∈ ks, k = .mram ∨ k = .calSaved ∨ k = .out) : MayReset (Within (allBut ks)) :=
  ⟨fun k hmram hsaved hout => mem_allBut fun hk => by simpa [hmram, hsaved, hout] using h k hk⟩

theorem exec_keeps_footprint (c : Instr) (s : State) : OutKeeps (Within (footprint c)) s (exec c s) := by
  have hhead := may_within_head
  have htail := @may_within_tail
  have hreset := mayReset_within_allBut (ks := [.calSaved]) (by decide)
  have hresetOut := mayReset_within_allBut (ks := [.calSaved, .out]) (by decide)
  have hresetMram := mayReset_within_allBut (ks := [.calSaved, .mram, .out]) (by decide)
  rw [allBut_saved] at hreset
  rw [allBut_saved_out] at hresetOut
  rw [allBut_saved_mram_out] at hresetMram
  cases c with (dsimp only [footprint, allBut_saved, allBut_saved_out, allBut_saved_mram_out, allBut_claimGrant, allBut_access, allBut_write, allBut_gbRate, allBut_configPass, allBut_portReset])
  | sliceFault _ _ _ => exact keeps_execSliceFault (keeps_refl _ s)
  | crossbarChange _ _ => exact keeps_execCrossbarChange (keeps_refl _ s)
  | sliceScrub _ _ _ => exact keeps_execSliceScrub (keeps_refl _ s)
  | tileLinkCheckFail _ _ => exact keeps_execTileLinkCheckFail (keeps_refl _ s)
  | portModeWrite _ _ => exact keeps_execPortModeWrite (keeps_refl _ s)
  | timetableModeApply _ => exact keeps_execTimetableModeApply (keeps_refl _ s)
  | bundleModeApply _ => exact keeps_execBundleModeApply (keeps_refl _ s)
  | testModeDrainPoint _ _ => exact keeps_execTestModeDrainPoint (keeps_refl _ s)
  | patternInjSingle _ => exact keeps_execPatternInjSingle (keeps_refl _ s)
  | patternInjBurst _ => exact keeps_execPatternInjBurst (keeps_refl _ s)
  | modeChangeApply _ => exact keeps_execModeChangeApply (keeps_refl _ s)
  | coachTx _ => exact keeps_execCoachTx (keeps_refl _ s)
  | coachRx _ _ _ _ _ _ _ => exact keeps_execCoachRx (keeps_refl _ s)
  | waymarkSymbolTx _ => exact keeps_execWaymarkSymbolTx (keeps_refl _ s)
  | waymarkSymbolRx _ _ => exact keeps_execWaymarkSymbolRx (keeps_refl _ s)
  | waymarkSyncLoss _ => exact keeps_execWaymarkSyncLoss (keeps_refl _ s)
  | wmMessageAbandon _ _ => exact keeps_execWmMessageAbandon (keeps_refl _ s)
  | wmStatus _ _ _ => exact keeps_execWmStatus (keeps_refl _ s)
  | swapEntry _ _ _ => exact keeps_execSwapEntry (keeps_refl _ s)
  | swapCommit _ _ _ => exact keeps_execSwapCommit (keeps_refl _ s)
  | swapAccept _ _ _ => exact keeps_execSwapAccept (keeps_refl _ s)
  | swapDecline _ _ _ => exact keeps_execSwapDecline (keeps_refl _ s)
  | ratePropose _ _ _ => exact keeps_execRatePropose (keeps_refl _ s)
  | rateAccept _ _ _ => exact keeps_execRateAccept (keeps_refl _ s)
  | rateDecline _ _ _ => exact keeps_execRateDecline (keeps_refl _ s)
  | modePropose _ _ _ => exact keeps_execModePropose (keeps_refl _ s)
  | modeAccept _ _ _ => exact keeps_execModeAccept (keeps_refl _ s)
  | modeDecline _ _ _ => exact keeps_execModeDecline (keeps_refl _ s)
  | eeiPropose _ _ _ => exact keeps_execEeiPropose (keeps_refl _ s)
  | eeiAccept _ _ _ => exact keeps_execEeiAccept (keeps_refl _ s)
  | eeiRefuse _ _ _ => exact keeps_execEeiRefuse (keeps_refl _ s)
  | eeiAbort _ _ _ => exact keeps_execEeiAbort (keeps_refl _ s)
  | eeiWakeMsg _ _ _ => exact keeps_execEeiWakeMsg (keeps_refl _ s)
  | faultNotice _ _ _ => exact keeps_execFaultNotice (keeps_refl _ s)
  | retrainRequest _ _ _ => exact keeps_execRetrainRequest (keeps_refl _ s)
  | stageCheck _ _ _ => exact keeps_execStageCheck (keeps_refl _ s)
  | wmUnknownCode _ _ _ => exact keeps_execWmUnknownCode (keeps_refl _ s)
  | pairTblDataWrite _ _ v => exact keeps_execPairTblDataWrite (x2 := v) (keeps_refl _ s)
  | tableShadowCopyDone _ _ _ => exact keeps_execTableShadowCopyDone (keeps_refl _ s)
  | subadcTakeSlot _ _ _ _ => exact keeps_execSubadcTakeSlot (keeps_refl _ s)
  | subadcFail _ _ _ => exact keeps_execSubadcFail (keeps_refl _ s)
  | gainLimitRetrain _ => exact keeps_execGainLimitRetrain (keeps_refl _ s)
  | timingErrorRetrain _ => exact keeps_execTimingErrorRetrain (keeps_refl _ s)
  | echoDriftCheck _ _ _ v3 => exact keeps_execEchoDriftCheck (x3 := v3) (keeps_refl _ s)
  | echoStoreRefresh _ _ => exact keeps_execEchoStoreRefresh (keeps_refl _ s)
  | echoTapSaturation _ => exact keeps_execEchoTapSaturation (keeps_refl _ s)
  | fextHReestimate _ _ _ _ => exact keeps_execFextHReestimate (keeps_refl _ s)
  | deadPairDeclare _ _ => exact keeps_execDeadPairDeclare (keeps_refl _ s)
  | coefSnapshotRequest _ _ _ => exact keeps_execCoefSnapshotRequest (keeps_refl _ s)
  | coefSnapshotDone _ _ => exact keeps_execCoefSnapshotDone (keeps_refl _ s)
  | coefMemSelect _ _ _ => exact keeps_execCoefMemSelect (keeps_refl _ s)
  | coefDataWrite _ _ _ => exact keeps_execCoefDataWrite (keeps_refl _ s)
  | startupEnableSet _ => exact keeps_execStartupEnableSet (keeps_refl _ s)
  | startupEnableClear _ => exact keeps_execStartupEnableClear (keeps_refl _ s)
  | g0BackoffExpire _ => exact keeps_execG0BackoffExpire (keeps_refl _ s)
  | g0ReplyTimeout _ => exact keeps_execG0ReplyTimeout (keeps_refl _ s)
  | preambleDetect _ _ _ _ _ => exact keeps_execPreambleDetect (keeps_refl _ s)
  | captureOverride _ _ _ _ _ _ => exact keeps_execCaptureOverride (keeps_refl _ s)
  | burstHeaderDecode _ _ _ _ => exact keeps_execBurstHeaderDecode (keeps_refl _ s)
  | greet _ _ => exact keeps_execGreet (keeps_refl _ s)
  | reply _ _ => exact keeps_execReply (keeps_refl _ s)
  | confirm _ _ => exact keeps_execConfirm (keeps_refl _ s)
  | confirmAck _ _ => exact keeps_execConfirmAck (keeps_refl _ s)
  | confirmNak _ _ => exact keeps_execConfirmNak (keeps_refl _ s)
  | confirmTimeout _ => exact keeps_execConfirmTimeout (keeps_refl _ s)
  | g1ResponderTimeout _ => exact keeps_execG1ResponderTimeout (keeps_refl _ s)
  | setupIntervalEnd _ => exact keeps_execSetupIntervalEnd (keeps_refl _ s)
  | g2SlotStep _ _ => exact keeps_execG2SlotStep (keeps_refl _ s)
  | verdictSend _ => exact keeps_execVerdictSend (keeps_refl _ s)
  | verdict _ _ => exact keeps_execVerdict (keeps_refl _ s)
  | g3Start _ => exact keeps_execG3Start (keeps_refl _ s)
  | g3SyncTimeout _ => exact keeps_execG3SyncTimeout (keeps_refl _ s)
  | g4aTableCompute _ => exact keeps_execG4aTableCompute (keeps_refl _ s)
  | startupTableFrame _ _ => exact keeps_execStartupTableFrame (keeps_refl _ s)
  | carryingSetDecide _ => exact keeps_execCarryingSetDecide (keeps_refl _ s)
  | startupStatusFrame _ _ => exact keeps_execStartupStatusFrame (keeps_refl _ s)
  | startupAbortFrame _ _ => exact keeps_execStartupAbortFrame (keeps_refl _ s)
  | verifyResult _ _ => exact keeps_execVerifyResult (keeps_refl _ s)
  | showStageName _ => exact keeps_execShowStageName (keeps_refl _ s)
  | showTimeout _ => exact keeps_execShowTimeout (keeps_refl _ s)
  | showtimeEntry _ => exact keeps_execShowtimeEntry (keeps_refl _ s)
  | fastRetrainStart _ => exact keeps_execFastRetrainStart (keeps_refl _ s)
  | fastRetrainFail _ _ => exact keeps_execFastRetrainFail (keeps_refl _ s)
  | startupFail _ _ => exact keeps_execStartupFail (keeps_refl _ s)
  | holdOffExpire _ => exact keeps_execHoldOffExpire (keeps_refl _ s)
  | stageBoundary _ _ => exact keeps_execStageBoundary (keeps_refl _ s)
  | swapEvaluation _ => exact keeps_execSwapEvaluation (keeps_refl _ s)
  | swapCommitSend _ _ => exact keeps_execSwapCommitSend (keeps_refl _ s)
  | tableSwapApply _ _ _ => exact keeps_execTableSwapApply (keeps_refl _ s)
  | rateTrigger _ => exact keeps_execRateTrigger (keeps_refl _ s)
  | rateProposeSend _ => exact keeps_execRateProposeSend (keeps_refl _ s)
  | rateChangeApply _ _ => exact keeps_execRateChangeApply (keeps_refl _ s)
  | coachLossRetrain _ => exact keeps_execCoachLossRetrain (keeps_refl _ s)
  | tripairFallbackApply _ _ => exact keeps_execTripairFallbackApply (keeps_refl _ s)
  | tripairRestoreRequest _ _ => exact keeps_execTripairRestoreRequest (keeps_refl _ s)
  | linkDown _ _ => exact keeps_execLinkDown (keeps_refl _ s)
  | ingressBlock _ _ _ _ => exact keeps_execIngressBlock (keeps_refl _ s)
  | egressBlock _ _ => exact keeps_execEgressBlock (keeps_refl _ s)
  | farEgressReport _ _ _ => exact keeps_execFarEgressReport (keeps_refl _ s)
  | frameExpiry _ _ _ _ => exact keeps_execFrameExpiry (keeps_refl _ s)
  | fcXoffRepeat _ => exact keeps_execFcXoffRepeat (keeps_refl _ s)
  | fcFrameInsert _ _ => exact keeps_execFcFrameInsert (keeps_refl _ s)
  | hostelScrubPass _ => exact keeps_execHostelScrubPass (keeps_refl _ s)
  | hostelFence _ _ => exact keeps_execHostelFence (keeps_refl _ s)
  | laneFault _ _ => exact keeps_execLaneFault (keeps_refl _ s)
  | hostDone _ => exact keeps_execHostDone (keeps_refl _ s)
  | hostWaitExpire _ => exact keeps_execHostWaitExpire (keeps_refl _ s)
  | substitute _ _ => exact keeps_execSubstitute (keeps_refl _ s)
  | revert _ => exact keeps_execRevert (keeps_refl _ s)
  | laneEnableWrite _ _ => exact keeps_execLaneEnableWrite (keeps_refl _ s)
  | laneRateWrite _ _ => exact keeps_execLaneRateWrite (keeps_refl _ s)
  | laneAcquired _ => exact keeps_execLaneAcquired (keeps_refl _ s)
  | hlTxFfeWrite _ _ => exact keeps_execHlTxFfeWrite (keeps_refl _ s)
  | spareModeWrite _ _ => exact keeps_execSpareModeWrite (keeps_refl _ s)
  | eyeScanStart _ _ => exact keeps_execEyeScanStart (keeps_refl _ s)
  | eyeScanDone _ _ => exact keeps_execEyeScanDone (keeps_refl _ s)
  | prbsEnableWrite _ _ => exact keeps_execPrbsEnableWrite (keeps_refl _ s)
  | prbsInjSingle _ => exact keeps_execPrbsInjSingle (keeps_refl _ s)
  | prbsInjBurst _ => exact keeps_execPrbsInjBurst (keeps_refl _ s)
  | prbsCheckerLock _ => exact keeps_execPrbsCheckerLock (keeps_refl _ s)
  | prbsLockLoss _ _ _ => exact keeps_execPrbsLockLoss (keeps_refl _ s)
  | eeiProposeSend _ => exact keeps_execEeiProposeSend (keeps_refl _ s)
  | eeiBudgetApply _ => exact keeps_execEeiBudgetApply (keeps_refl _ s)
  | eeiEntry _ => exact keeps_execEeiEntry (keeps_refl _ s)
  | eeiRefresh _ _ => exact keeps_execEeiRefresh (keeps_refl _ s)
  | eeiWakeCause _ _ => exact keeps_execEeiWakeCause (keeps_refl _ s)
  | eeiPrestepDone _ => exact keeps_execEeiPrestepDone (keeps_refl _ s)
  | wakeDetect _ => exact keeps_execWakeDetect (keeps_refl _ s)
  | wakeConfirmTimeout _ => exact keeps_execWakeConfirmTimeout (keeps_refl _ s)
  | eeiResume _ _ _ => exact keeps_execEeiResume (keeps_refl _ s)
  | partialFastRetrainStart _ => exact keeps_execPartialFastRetrainStart (keeps_refl _ s)
  | partialFastRetrainFail _ => exact keeps_execPartialFastRetrainFail (keeps_refl _ s)
  | calDeferralWake _ _ => exact keeps_execCalDeferralWake (keeps_refl _ s)
  | reflectStart _ _ _ => exact keeps_execReflectStart (keeps_refl _ s)
  | reflectDone _ _ _ => exact keeps_execReflectDone (keeps_refl _ s)
  | diagCtrlAbort _ _ => exact keeps_execDiagCtrlAbort (keeps_refl _ s)
  | mapsStart _ _ _ => exact keeps_execMapsStart (keeps_refl _ s)
  | mapsDone _ _ _ => exact keeps_execMapsDone (keeps_refl _ s)
  | historyRecord _ _ => exact keeps_execHistoryRecord (keeps_refl _ s)
  | histClear _ => exact keeps_execHistClear (keeps_refl _ s)
  | refclkLost => exact keeps_execRefclkLost (keeps_refl _ s)
  | refclkQualified => exact keeps_execRefclkQualified (keeps_refl _ s)
  | lpllActiveUnlock _ => exact keeps_execLpllActiveUnlock (keeps_refl _ s)
  | lpllBothUnlock _ => exact keeps_execLpllBothUnlock (keeps_refl _ s)
  | lpllStandbyUnlock _ => exact keeps_execLpllStandbyUnlock (keeps_refl _ s)
  | lpllRelock _ _ => exact keeps_execLpllRelock (keeps_refl _ s)
  | lpllSwap _ => exact keeps_execLpllSwap (keeps_refl _ s)
  | hpllUnlock _ => exact keeps_execHpllUnlock (keeps_refl _ s)
  | hpllRelock _ => exact keeps_execHpllRelock (keeps_refl _ s)
  | hubPllUnlock => exact keeps_execHubPllUnlock (keeps_refl _ s)
  | hubPllRelock => exact keeps_execHubPllRelock (keeps_refl _ s)
  | ringPllUnlock => exact keeps_execRingPllUnlock (keeps_refl _ s)
  | ringPllRelock => exact keeps_execRingPllRelock (keeps_refl _ s)
  | clkDivWrite _ => exact keeps_execClkDivWrite (keeps_refl _ s)
  | clockSwitchStep _ => exact keeps_execClockSwitchStep (keeps_refl _ s)
  | clockSwitchForced _ _ => exact keeps_execClockSwitchForced (keeps_refl _ s)
  | railGood _ _ => exact keeps_execRailGood (keeps_refl _ s)
  | railLost _ => exact keeps_execRailLost (keeps_refl _ s)
  | resetNAssert => exact keeps_execResetNAssert (keeps_refl _ s)
  | avsUpdate _ _ _ _ => exact keeps_execAvsUpdate (keeps_refl _ s)
  | avsCfgWrite _ => exact keeps_execAvsCfgWrite (keeps_refl _ s)
  | domainWakeOnAccess _ => exact keeps_execDomainWakeOnAccess (keeps_refl _ s)
  | domainWakeDone _ _ => exact keeps_execDomainWakeDone (keeps_refl _ s)
  | domainWakeFail _ => exact keeps_execDomainWakeFail (keeps_refl _ s)
  | domainReturn _ => exact keeps_execDomainReturn (keeps_refl _ s)
  | portPowerOff _ => exact keeps_execPortPowerOff (keeps_refl _ s)
  | tilePowerOff _ => exact keeps_execTilePowerOff (keeps_refl _ s)
  | domainRetry _ => exact keeps_execDomainRetry (keeps_refl _ s)
  | domainOffRequest _ => exact keeps_execDomainOffRequest (keeps_refl _ s)
  | bootStepDone _ => exact keeps_execBootStepDone (keeps_refl _ s)
  | bootWatchdogExpire => exact keeps_execBootWatchdogExpire (keeps_refl _ s)
  | deviceResetStart => exact keeps_execDeviceResetStart (keeps_refl _ s)
  | tileResetDone _ _ => exact keeps_execTileResetDone (keeps_refl _ s)
  | ringInputSync _ => exact keeps_execRingInputSync (keeps_refl _ s)
  | ringGlitch _ => exact keeps_execRingGlitch (keeps_refl _ s)
  | ringBreak _ => exact keeps_execRingBreak (keeps_refl _ s)
  | ringRestored _ => exact keeps_execRingRestored (keeps_refl _ s)
  | packetRx _ _ => exact keeps_execPacketRx (keeps_refl _ s)
  | enumerate _ _ => exact keeps_execEnumerate (keeps_refl _ s)
  | seqEpoch _ _ _ => exact keeps_execSeqEpoch (keeps_refl _ s)
  | ringPing _ _ => exact keeps_execRingPing (keeps_refl _ s)
  | ringControlReserved _ _ => exact keeps_execRingControlReserved (keeps_refl _ s)
  | commandStart => exact keeps_execCommandStart (keeps_refl _ s)
  | commandTimeout _ _ => exact keeps_execCommandTimeout (keeps_refl _ s)
  | replyRetentionExpire => exact keeps_execReplyRetentionExpire (keeps_refl _ s)
  | noticeSend => exact keeps_execNoticeSend (keeps_refl _ s)
  | intRepeatExpire => exact keeps_execIntRepeatExpire (keeps_refl _ s)
  | seqTickSaturate => exact keeps_execSeqTickSaturate (keeps_refl _ s)
  | wrapWrite _ => exact keeps_execWrapWrite (keeps_refl _ s)
  | devNop _ => exact keeps_execDevNop (keeps_refl _ s)
  | devIdentify _ => exact keeps_execDevIdentify (keeps_refl _ s)
  | devStatus _ => exact keeps_execDevStatus (keeps_refl _ s)
  | deviceReset _ => exact keeps_execDeviceReset (keeps_refl _ s)
  | tileReset _ => exact keeps_execTileReset (keeps_refl _ s)
  | portReset _ => exact keeps_execPortReset (keeps_refl _ s)
  | devIntRead _ => exact keeps_execDevIntRead (keeps_refl _ s)
  | devIntClear _ => exact keeps_execDevIntClear (keeps_refl _ s)
  | devTemps _ => exact keeps_execDevTemps (keeps_refl _ s)
  | devJobs _ => exact keeps_execDevJobs (keeps_refl _ s)
  | devJobAbort _ => exact keeps_execDevJobAbort (keeps_refl _ s)
  | portEnable _ => exact keeps_execPortEnable (keeps_refl _ s)
  | portModeSet _ => exact keeps_execPortModeSet (keeps_refl _ s)
  | portRetrain _ => exact keeps_execPortRetrain (keeps_refl _ s)
  | portRate _ => exact keeps_execPortRate (keeps_refl _ s)
  | portStatus _ => exact keeps_execPortStatus (keeps_refl _ s)
  | portSummary _ => exact keeps_execPortSummary (keeps_refl _ s)
  | portCounters _ => exact keeps_execPortCounters (keeps_refl _ s)
  | portPeer _ => exact keeps_execPortPeer (keeps_refl _ s)
  | portFlowctl _ => exact keeps_execPortFlowctl (keeps_refl _ s)
  | portSublinks _ => exact keeps_execPortSublinks (keeps_refl _ s)
  | hlEnable _ => exact keeps_execHlEnable (keeps_refl _ s)
  | hlStatus _ => exact keeps_execHlStatus (keeps_refl _ s)
  | hlFfe _ => exact keeps_execHlFfe (keeps_refl _ s)
  | hlSpareSet _ => exact keeps_execHlSpareSet (keeps_refl _ s)
  | hlSpareAct _ => exact keeps_execHlSpareAct (keeps_refl _ s)
  | hlEyeScan _ => exact keeps_execHlEyeScan (keeps_refl _ s)
  | hlEyeResult _ => exact keeps_execHlEyeResult (keeps_refl _ s)
  | hlPrbs _ => exact keeps_execHlPrbs (keeps_refl _ s)
  | hlPrbsRead _ => exact keeps_execHlPrbsRead (keeps_refl _ s)
  | hlPrbsInject _ => exact keeps_execHlPrbsInject (keeps_refl _ s)
  | diagReflect _ => exact keeps_execDiagReflect (keeps_refl _ s)
  | diagResult _ => exact keeps_execDiagResult (keeps_refl _ s)
  | diagMaps _ => exact keeps_execDiagMaps (keeps_refl _ s)
  | diagMapRead _ => exact keeps_execDiagMapRead (keeps_refl _ s)
  | diagTraceRead _ => exact keeps_execDiagTraceRead (keeps_refl _ s)
  | diagHistory _ => exact keeps_execDiagHistory (keeps_refl _ s)
  | diagProfile _ => exact keeps_execDiagProfile (keeps_refl _ s)
  | diagSnr _ => exact keeps_execDiagSnr (keeps_refl _ s)
  | diagAbort _ => exact keeps_execDiagAbort (keeps_refl _ s)
  | calRun _ => exact keeps_execCalRun (keeps_refl _ s)
  | calStatus _ => exact keeps_execCalStatus (keeps_refl _ s)
  | calCfg _ => exact keeps_execCalCfg (keeps_refl _ s)
  | calSave _ _ => exact keeps_execCalSave (keeps_refl _ s)
  | eeiSet _ => exact keeps_execEeiSet (keeps_refl _ s)
  | eeiWake _ => exact keeps_execEeiWake (keeps_refl _ s)
  | pwrDomain _ => exact keeps_execPwrDomain (keeps_refl _ s)
  | pwrAvs _ => exact keeps_execPwrAvs (keeps_refl _ s)
  | pwrStatus _ => exact keeps_execPwrStatus (keeps_refl _ s)
  | nvInfo _ => exact keeps_execNvInfo (keeps_refl _ s)
  | nvRead _ => exact keeps_execNvRead (keeps_refl _ s)
  | nvOpen _ _ => exact keeps_execNvOpen (keeps_refl _ s)
  | nvWrite _ _ => exact keeps_execNvWrite (keeps_refl _ s)
  | nvCommit _ _ => exact keeps_execNvCommit (keeps_refl _ s)
  | nvClose _ => exact keeps_execNvClose (keeps_refl _ s)
  | nvSaveConfig _ _ => exact keeps_execNvSaveConfig (keeps_refl _ s)
  | gbInfo _ => exact keeps_execGbInfo (keeps_refl _ s)
  | gbRead _ => exact keeps_execGbRead (keeps_refl _ s)
  | gbClear _ => exact keeps_execGbClear (keeps_refl _ s)
  | gbRate _ => exact keeps_execGbRate (keeps_refl _ s)
  | regRead _ => exact keeps_execRegRead (keeps_refl _ s)
  | regWrite _ => exact keeps_execRegWrite (keeps_refl _ s)
  | regReadList _ => exact keeps_execRegReadList (keeps_refl _ s)
  | regRmw _ => exact keeps_execRegRmw (keeps_refl _ s)
  | regWriteBlock _ => exact keeps_execRegWriteBlock (keeps_refl _ s)
  | commitConfig _ => exact keeps_execCommitConfig (keeps_refl _ s)
  | cncClaim _ => exact keeps_execCncClaim (keeps_refl _ s)
  | cncRelease _ => exact keeps_execCncRelease (keeps_refl _ s)
  | cncList _ => exact keeps_execCncList (keeps_refl _ s)
  | sliceSwap _ => exact keeps_execSliceSwap (keeps_refl _ s)
  | bistRun _ => exact keeps_execBistRun (keeps_refl _ s)
  | bistCfg _ => exact keeps_execBistCfg (keeps_refl _ s)
  | porterSwitch _ => exact keeps_execPorterSwitch (keeps_refl _ s)
  | lockSet _ => exact keeps_execLockSet (keeps_refl _ s)
  | unlockWrite _ => exact keeps_execUnlockWrite (keeps_refl _ s)
  | lockStatus _ => exact keeps_execLockStatus (keeps_refl _ s)
  | completionAccept => exact keeps_execCompletionAccept (keeps_refl _ s)
  | registerWrite _ _ => exact keeps_execRegisterWrite (keeps_refl _ s)
  | rcRead _ _ => exact keeps_execRcRead (keeps_refl _ s)
  | counterLowRead _ => exact keeps_execCounterLowRead (keeps_refl _ s)
  | counterHighWrite _ => exact keeps_execCounterHighWrite (keeps_refl _ s)
  | counterLowWrite _ _ => exact keeps_execCounterLowWrite (keeps_refl _ s)
  | windowDataAccess _ => exact keeps_execWindowDataAccess (keeps_refl _ s)
  | cfgWalkerPass _ => exact keeps_execCfgWalkerPass (keeps_refl _ s)
  | cfgCommit => exact keeps_execCfgCommit (keeps_refl _ s)
  | commitPassDone => exact keeps_execCommitPassDone (keeps_refl _ s)
  | cfgCheckEnableWrite _ _ => exact keeps_execCfgCheckEnableWrite (keeps_refl _ s)
  | cfgFencedClear => exact keeps_execCfgFencedClear (keeps_refl _ s)
  | hubLockWrite _ _ => exact keeps_execHubLockWrite (keeps_refl _ s)
  | unlockKeyWrite _ _ => exact keeps_execUnlockKeyWrite (keeps_refl _ s)
  | unlockWindowExpire => exact keeps_execUnlockWindowExpire (keeps_refl _ s)
  | trimTrackTick _ => exact keeps_execTrimTrackTick (keeps_refl _ s)
  | calRunStart _ _ _ => exact keeps_execCalRunStart (keeps_refl _ s)
  | calRunDone _ _ _ => exact keeps_execCalRunDone (keeps_refl _ s)
  | calRunTimeout _ _ => exact keeps_execCalRunTimeout (keeps_refl _ s)
  | calRetry _ _ => exact keeps_execCalRetry (keeps_refl _ s)
  | opSecondsStore _ => exact keeps_execOpSecondsStore (keeps_refl _ s)
  | gbEventAccept => exact keeps_execGbEventAccept (keeps_refl _ s)
  | gbRecordWrite _ => exact keeps_execGbRecordWrite (keeps_refl _ s)
  | gbClearDoorbell => exact keeps_execGbClearDoorbell (keeps_refl _ s)
  | gbRateWindowEnd => exact keeps_execGbRateWindowEnd (keeps_refl _ s)
  | porterTakeover _ => exact keeps_execPorterTakeover (keeps_refl _ s)
  | bistUnitDue => exact keeps_execBistUnitDue (keeps_refl _ s)
  | bistTestDone _ _ => exact keeps_execBistTestDone (keeps_refl _ s)
  | bankDrained _ => exact keeps_execBankDrained (keeps_refl _ s)
  | bankDrainTimeout _ => exact keeps_execBankDrainTimeout (keeps_refl _ s)
  | maintSwapCopyDone _ _ => exact keeps_execMaintSwapCopyDone (keeps_refl _ s)
  | maintSwapShadowDone _ _ _ => exact keeps_execMaintSwapShadowDone (keeps_refl _ s)
  | claimGrant _ => exact keeps_execClaimGrant (keeps_refl _ s)
  | dapOperation _ _ _ => exact keeps_execDapOperation (keeps_refl _ s)
  | boardTestBegin _ => exact keeps_execBoardTestBegin (keeps_refl _ s)
  | boardTestEnd => exact keeps_execBoardTestEnd (keeps_refl _ s)
  | tapReset => exact keeps_execTapReset (keeps_refl _ s)
  | porterHalt _ => exact keeps_execPorterHalt (keeps_refl _ s)
  | porterBreakpoint _ _ => exact keeps_execPorterBreakpoint (keeps_refl _ s)
  | porterResume => exact keeps_execPorterResume (keeps_refl _ s)
  | porterStep _ => exact keeps_execPorterStep (keeps_refl _ s)
  | dbgCoreDataAccess _ => exact keeps_execDbgCoreDataAccess (keeps_refl _ s)
  | tempAlertAssert => exact keeps_execTempAlertAssert (keeps_refl _ s)
  | tempAlertRelease => exact keeps_execTempAlertRelease (keeps_refl _ s)
  | tileLinkLockLoss _ => exact keeps_execTileLinkLockLoss (keeps_refl _ s)
  | frontendFault _ _ => exact keeps_execFrontendFault (keeps_refl _ s)
  | resetNRelease _ => exact keeps_execResetNRelease (keeps_refl _ s)
  | deviceResetEnd => exact keeps_execDeviceResetEnd (keeps_refl _ s)
  | ringSyncLoss _ _ => exact keeps_execRingSyncLoss (keeps_refl _ s)
  | packetForward _ _ => exact keeps_execPacketForward (keeps_refl _ s)
  | calRunStartTimeout _ _ => exact keeps_execCalRunStartTimeout (keeps_refl _ s)
  | domainPowerDownDone _ => exact keeps_execDomainPowerDownDone (keeps_refl _ s)

end Sys2Proof.Claims
end

section
/-! PROOF. The queue, the clock, the outputs, the invariant and the footprints: what every command and every step keeps, and a step as the
meaning of the command in front. -/
-- the whole text is compiled at once: its threads share one memory limit
set_option Elab.async false
namespace Sys2Proof.Claims
open Sys2Proof Sys2Proof.Machine

theorem keeps_of_exec {c : Instr} {s t : State} (h : exec c s = .next t) : Keeps (Within (footprint c)) s t :=
  (exec_keeps_footprint c s).keeps t h

/-- Settles O1: a step looks at the front of the queue and at nothing else. -/
theorem stepRunsTheFrontCommand : Obligations.StepRunsTheFrontCommand := fun _ _ _ => rfl

theorem step_of_empty {s : State} (hempty : s.pending = []) : step s = .next (idleStep s) := by
  rw [step, hempty]

theorem step_of_cons {c : Instr} {q : List Instr} {s : State} (hq : s.pending = c :: q) : step s = exec c { s with pending := q } := by
  rw [step, hq]

/-- Settles O2: with an empty queue a step is a tick. -/
theorem emptyQueueLetsAMicrosecondPass : Obligations.EmptyQueueLetsAMicrosecondPass := fun _ => step_of_empty

/-- Settles O5: what Laws says of the meaning of each command, for the kinds in its footprint. -/
theorem commandsChangeOnlyTheirKindsOfState : Obligations.CommandsChangeOnlyTheirKindsOfState :=
  fun _ _ _ k hnext hk => (keeps_of_exec hnext).same k hk

/-- Settles O6: no command takes from the queue, moves the clock or takes back what was sent. -/
theorem commandsLeaveQueueAndClock : Obligations.CommandsLeaveQueueAndClock := by
  intro c s t hnext
  have hkeeps := keeps_of_exec hnext
  obtain ⟨more, hmore⟩ := hkeeps.out
  exact ⟨hkeeps.pending, hkeeps.now, more, hmore.symm⟩

/-- Settles O3: at reset every store lists nothing, so it is in canonical form. -/
theorem resetMeetsTheInvariant : Obligations.ResetMeetsTheInvariant :=
  ⟨by decide, by decide, by decide⟩

/-- The invariant does not speak of the queue or the clock. -/
theorem inv_pending {s : State} (hinv : Inv s) (q : List Instr) : Inv { s with pending := q } := hinv

theorem inv_idleStep {s : State} (hinv : Inv s) : Inv (idleStep s) := hinv

/-- Settles O4: a tick changes the clock only, and every command passes the invariant on. -/
theorem everyStepKeepsTheInvariant : Obligations.EveryStepKeepsTheInvariant := by
  intro s t hinv hstep
  cases hq : s.pending with
  | nil =>
    rw [step_of_empty hq] at hstep
    cases hstep
    exact inv_idleStep hinv
  | cons c q =>
    rw [step_of_cons hq] at hstep
    exact (keeps_of_exec hstep).inv (inv_pending hinv q)

end Sys2Proof.Claims
end

section
/-! PROOF. No command stops the device: each meaning is built of conditions, choices and names for later states, and ends in a next state on every way
through (log entry 9). -/
-- the whole text is compiled at once: its threads share one memory limit
set_option Elab.async false
namespace Sys2Proof.Claims
open Sys2Proof Sys2Proof.Machine

theorem answers_next (t : State) : ∃ u, (.next t : Host.Outcome State Fault Refusal) = .next u := ⟨t, rfl⟩

theorem answers_ite {c : Prop} [Decidable c] {a b : Host.Outcome State Fault Refusal} (ha : ∃ t, a = .next t) (hb : ∃ t, b = .next t) :
    ∃ t, (if c then a else b) = .next t := by
  split <;> assumption

/-- A ring command is executed, refused with a reply, or ignored (R407, R424, R555). -/
theorem gate_answers (op : Nat) (phases : List Nat) (len : Nat → Bool) (c : Call) (run : Pkt → State → State) (s : State) :
    ∃ t, gate op phases len c run s = .next t :=
  answers_ite ⟨_, rfl⟩ (answers_ite ⟨_, rfl⟩ (answers_ite ⟨_, rfl⟩ (answers_ite ⟨_, rfl⟩ ⟨_, rfl⟩)))

theorem gateRead_answers (op : Nat) (len : Nat → Bool) (addrs : Pkt → List Nat) (c : Call) (run : Pkt → State → State) (s : State) :
    ∃ t, gateRead op len addrs c run s = .next t :=
  answers_ite (gate_answers ..) (answers_ite ⟨_, rfl⟩ (answers_ite ⟨_, rfl⟩ (answers_ite ⟨_, rfl⟩ ⟨_, rfl⟩)))

/-- Settles O7: the ring commands pass a gate that always answers, and the way through any other meaning ends in a next state. -/
theorem everyCommandAnswersANextState : Obligations.EveryCommandAnswersANextState := by
  intro c s
  cases c <;> dsimp only [exec]
  case devNop | devIdentify | devStatus | deviceReset | tileReset | portReset | devIntRead | devIntClear | devTemps | devJobs | devJobAbort |
      portEnable | portModeSet | portRetrain | portRate | portStatus | portSummary | portCounters | portPeer | portFlowctl | portSublinks | hlEnable |
      hlStatus | hlFfe | hlSpareSet | hlSpareAct | hlEyeScan | hlEyeResult | hlPrbs | hlPrbsRead | hlPrbsInject | diagReflect | diagResult | diagMaps
      | diagMapRead | diagTraceRead | diagHistory | diagProfile | diagSnr | diagAbort | calRun | calStatus | calCfg | calSave | eeiSet | eeiWake |
      pwrDomain | pwrAvs | pwrStatus | nvInfo | nvRead | nvOpen | nvWrite | nvCommit | nvClose | nvSaveConfig | gbInfo | gbRead | gbClear | gbRate |
      regWrite | regRmw | regWriteBlock | commitConfig | cncClaim | cncRelease | cncList | sliceSwap | bistRun | bistCfg | porterSwitch | lockSet |
      unlockWrite | lockStatus =>
    exact gate_answers ..
  case regRead | regReadList =>
    dsimp only [execRegRead, execRegReadList]
    exact gateRead_answers ..
  all_goals
    dsimp -zeta only [execSliceScrub, execPortModeWrite, execTimetableModeApply, execBundleModeApply, execPatternInjSingle, execPatternInjBurst,
      execCoachRx, execWmStatus, execWmUnknownCode, execPairTblDataWrite, execSubadcFail, execCoefSnapshotRequest, execCoefMemSelect,
      execCoefDataWrite, execStartupEnableSet, execStartupEnableClear, execFastRetrainFail, execStartupFail, execLinkDown, execHostDone,
      execSubstitute, execRevert, execLaneEnableWrite, execLaneRateWrite, execHlTxFfeWrite, execSpareModeWrite, execEyeScanStart, execPrbsEnableWrite,
      execPrbsInjSingle, execPrbsInjBurst, execEeiBudgetApply, execEeiWakeCause, execPartialFastRetrainFail, execDiagCtrlAbort, execHistClear,
      execLpllSwap, execClkDivWrite, execClockSwitchStep, execResetNAssert, execAvsCfgWrite, execDomainRetry, execDomainOffRequest, execRingInputSync,
      execReplyRetentionExpire, execWrapWrite, execCfgCommit, execCfgCheckEnableWrite, execCfgFencedClear, execHubLockWrite, execUnlockKeyWrite,
      execUnlockWindowExpire, execGbClearDoorbell, execTapReset, execPorterHalt, execPorterResume, execPorterStep, execSliceFault, execCrossbarChange,
      execTileLinkCheckFail, execTestModeDrainPoint, execModeChangeApply, execCoachTx, execWaymarkSymbolTx, execWaymarkSymbolRx, execWaymarkSyncLoss,
      execWmMessageAbandon, execSwapEntry, execSwapCommit, execSwapAccept, execSwapDecline, execRatePropose, execRateAccept, execRateDecline,
      execModePropose, execModeAccept, execModeDecline, execEeiPropose, execEeiAccept, execEeiRefuse, execEeiAbort, execEeiWakeMsg, execFaultNotice,
      execRetrainRequest, execStageCheck, execTableShadowCopyDone, execSubadcTakeSlot, execGainLimitRetrain, execTimingErrorRetrain,
      execEchoDriftCheck, execEchoStoreRefresh, execEchoTapSaturation, execFextHReestimate, execDeadPairDeclare, execCoefSnapshotDone,
      execG0BackoffExpire, execG0ReplyTimeout, execPreambleDetect, execCaptureOverride, execBurstHeaderDecode, execGreet, execReply, execConfirm,
      execConfirmAck, execConfirmNak, execConfirmTimeout, execG1ResponderTimeout, execSetupIntervalEnd, execG2SlotStep, execVerdictSend, execVerdict,
      execG3Start, execG3SyncTimeout, execG4aTableCompute, execStartupTableFrame, execCarryingSetDecide, execStartupStatusFrame,
      execStartupAbortFrame, execVerifyResult, execShowStageName, execShowTimeout, execShowtimeEntry, execFastRetrainStart, execHoldOffExpire,
      execStageBoundary, execSwapEvaluation, execSwapCommitSend, execTableSwapApply, execRateTrigger, execRateProposeSend, execRateChangeApply,
      execCoachLossRetrain, execTripairFallbackApply, execTripairRestoreRequest, execIngressBlock, execEgressBlock, execFarEgressReport,
      execFrameExpiry, execFcXoffRepeat, execFcFrameInsert, execHostelScrubPass, execHostelFence, execLaneFault, execHostWaitExpire, execLaneAcquired,
      execEyeScanDone, execPrbsCheckerLock, execPrbsLockLoss, execEeiProposeSend, execEeiEntry, execEeiRefresh, execEeiPrestepDone, execWakeDetect,
      execWakeConfirmTimeout, execEeiResume, execPartialFastRetrainStart, execCalDeferralWake, execReflectStart, execReflectDone, execMapsStart,
      execMapsDone, execHistoryRecord, execRefclkLost, execRefclkQualified, execLpllActiveUnlock, execLpllBothUnlock, execLpllStandbyUnlock,
      execLpllRelock, execHpllUnlock, execHpllRelock, execHubPllUnlock, execHubPllRelock, execRingPllUnlock, execRingPllRelock, execClockSwitchForced,
      execRailGood, execRailLost, execAvsUpdate, execDomainWakeOnAccess, execDomainWakeDone, execDomainWakeFail, execDomainReturn, execPortPowerOff,
      execTilePowerOff, execBootStepDone, execBootWatchdogExpire, execDeviceResetStart, execTileResetDone, execRingGlitch, execRingBreak,
      execRingRestored, execPacketRx, execEnumerate, execSeqEpoch, execRingPing, execRingControlReserved, execCommandStart, execCommandTimeout,
      execNoticeSend, execIntRepeatExpire, execSeqTickSaturate, execCompletionAccept, execRegisterWrite, execRcRead, execCounterLowRead,
      execCounterHighWrite, execCounterLowWrite, execWindowDataAccess, execCfgWalkerPass, execCommitPassDone, execTrimTrackTick, execCalRunStart,
      execCalRunDone, execCalRunTimeout, execCalRetry, execOpSecondsStore, execGbEventAccept, execGbRecordWrite, execGbRateWindowEnd,
      execPorterTakeover, execBistUnitDue, execBistTestDone, execBankDrained, execBankDrainTimeout, execMaintSwapCopyDone, execMaintSwapShadowDone,
      execClaimGrant, execDapOperation, execBoardTestBegin, execBoardTestEnd, execPorterBreakpoint, execDbgCoreDataAccess, execTempAlertAssert,
      execTempAlertRelease, execTileLinkLockLoss, execFrontendFault, execResetNRelease, execDeviceResetEnd, execRingSyncLoss, execPacketForward,
      execCalRunStartTimeout, execDomainPowerDownDone]
    repeat' first
      | with_reducible exact answers_next _
      | with_reducible refine answers_ite ?_ ?_
      | split
      | (extract_lets; clear_value *)

end Sys2Proof.Claims
end

section
/-! SUPPORT. Kinds of state that an operation leaves; what a reply makes of the state: the counters of MR, the executor, the retained replies and what is sent; nothing else (R402 to R404). -/
-- the whole text is compiled at once: its threads share one memory limit
set_option Elab.async false
namespace Sys2Proof.Machine

/-! ### Kinds of state that stand -/

/-- What Laws says of an operation, for the kinds of state listed: `ks` are the kinds it may change, and the rules for lists are at hand as
instances. -/
theorem keeps_within (ks : List Kind) {s t : State}
    (h : (∀ k ks, May (Within (k :: ks)) k) → (∀ j k ks [May (Within ks) k], May (Within (j :: ks)) k) → Keeps (Within ks) s t) :
    Keeps (Within ks) s t := h may_within_head @may_within_tail

/-- The same, read as a kind of state that stands. -/
theorem leaves (ks : List Kind) (k : Kind) {s t : State}
    (h : (∀ k ks, May (Within (k :: ks)) k) → (∀ j k ks [May (Within ks) k], May (Within (j :: ks)) k) → Keeps (Within ks) s t)
    (hk : k ∉ ks := by decide) : Same k s t := (keeps_within ks h).same k hk

theorem Keeps.stands {ks : List Kind} {s t : State} (h : Keeps (Within ks) s t) (k : Kind) (hk : k ∉ ks := by decide) : Same k s t := h.same k hk

/-- Operations that Laws speaks of leave the clock. -/
theorem now_of_keeps {s t : State} (h : ∀ (F : Kind → Prop) [∀ k, May F k], Keeps F s t) : t.now = s.now := by
  have hmay (k : Kind) : May (fun _ => True) k := ⟨trivial⟩
  exact (h (fun _ => True)).now

/-! ### Replies (R402 to R404) -/

theorem emitReply_regs (c : Call) (op status : Nat) (interim replay : Bool) (body : List Nat) (s : State) :
    (emitReply c op status interim replay body s).regs = s.regs := by
  unfold emitReply
  split <;> rfl

theorem emitReply_kept (c : Call) (op status : Nat) (interim replay : Bool) (body : List Nat) (s : State) :
    (emitReply c op status interim replay body s).kept = s.kept := by
  unfold emitReply
  split <;> rfl

/-- The counters a final reply moves before it is sent or suppressed. -/
def countReply (p : Pkt) (status : Nat) (s : State) : State :=
  if executed status then (leaveExecutor p s).inc64 MR_CMDS else leaveExecutor p s

theorem countReply_reg (p : Pkt) (status : Nat) (s : State) {a : Nat} (hlo : a ≠ MR_CMDS) (hhi : a ≠ MR_CMDS + 4) :
    (countReply p status s).reg a = s.reg a := by
  unfold countReply
  split
  · exact State.reg_add64_other _ _ _ _ hlo hhi
  · rfl

theorem countReply_out (p : Pkt) (status : Nat) (s : State) : (countReply p status s).out = s.out := by
  unfold countReply
  split
  · exact State.inc64_out _ _
  · rfl

theorem countReply_kept (p : Pkt) (status : Nat) (s : State) : (countReply p status s).kept = s.kept := by
  unfold countReply
  split
  · exact State.inc64_kept _ _
  · rfl

theorem countReply_now (p : Pkt) (status : Nat) (s : State) : (countReply p status s).now = s.now := by
  unfold countReply
  split
  · exact State.inc64_now _ _
  · rfl

/-- With NOREPLY set only counters move (R403). -/
theorem finalReply_of_noReply {p : Pkt} (hno : bit p.call.flags 2 = true) (status : Nat) (body : List Nat) (s : State) :
    finalReply p status body s = if status = 0 then countReply p status s else (countReply p status s).inc MR_NOREPLY_ERR := by
  rw [finalReply, if_pos hno]
  rfl

/-- The replies retained once one more is: the newest 64 (R404). -/
def retain (k : Kept) (ks : List Kept) : List Kept := (ks ++ [k]).drop ((ks ++ [k]).length - 64)

theorem getLast?_retain (k : Kept) (ks : List Kept) : (retain k ks).getLast? = some k := by
  have hshort : (ks ++ [k]).length - 64 ≤ ks.length := by simp
  rw [retain, List.drop_append_of_le_length hshort, List.getLast?_append]
  rfl

/-- Else the reply is retained and sent (R404). -/
theorem finalReply_of_reply {p : Pkt} (hreply : bit p.call.flags 2 = false) (status : Nat) (body : List Nat) (s : State) :
    finalReply p status body s = emitReply p.call p.op status false false body
      { countReply p status s with kept := retain ⟨p, status, body, (countReply p status s).now⟩ (countReply p status s).kept } := by
  rw [finalReply, if_neg (by simp [hreply])]
  rfl

theorem finalReply_kept {p : Pkt} (hreply : bit p.call.flags 2 = false) (status : Nat) (body : List Nat) (s : State) :
    (finalReply p status body s).kept = retain ⟨p, status, body, s.now⟩ s.kept := by
  rw [finalReply_of_reply hreply, emitReply_kept, countReply_now, countReply_kept]

/-- The registers apart from the counters of replies. -/
theorem finalReply_reg (p : Pkt) (status : Nat) (body : List Nat) (s : State) {a : Nat} (hlo : a ≠ MR_CMDS) (hhi : a ≠ MR_CMDS + 4)
    (herr : a ≠ MR_NOREPLY_ERR) : (finalReply p status body s).reg a = s.reg a := by
  cases hno : bit p.call.flags 2 with
  | true =>
    rw [finalReply_of_noReply hno]
    split
    · exact countReply_reg p status s hlo hhi
    · rw [State.inc, State.reg_setReg_other _ _ _ _ herr, countReply_reg p status s hlo hhi]
  | false =>
    rw [finalReply_of_reply hno, State.reg_congr _ _ (emitReply_regs ..)]
    exact countReply_reg p status s hlo hhi

theorem finalReply_fld (p : Pkt) (status : Nat) (body : List Nat) (s : State) {f : Fld} (hlo : f.addr ≠ MR_CMDS)
    (hhi : f.addr ≠ MR_CMDS + 4) (herr : f.addr ≠ MR_NOREPLY_ERR) : (finalReply p status body s).fld f = s.fld f := by
  rw [State.fld, State.fld, finalReply_reg p status body s hlo hhi herr]

end Sys2Proof.Machine
namespace Sys2Proof.Claims
open Sys2Proof Sys2Proof.Machine

theorem finalReply_keeps (p : Pkt) (status : Nat) (body : List Nat) (s : State) :
    Keeps (Within [.regs, .running, .kept, .out]) s (finalReply p status body s) :=
  keeps_within _ fun _ _ => keeps_finalReply (keeps_refl _ s)

theorem finalReply_now (p : Pkt) (status : Nat) (body : List Nat) (s : State) : (finalReply p status body s).now = s.now :=
  (finalReply_keeps p status body s).now

theorem onlyReplied_finalReply (p : Pkt) (status : Nat) (body : List Nat) (s : State) : OnlyReplied s (finalReply p status body s) :=
  ⟨fun k hk => (finalReply_keeps p status body s).stands k hk, fun _ hlo hhi herr => finalReply_reg p status body s hlo hhi herr⟩

/-- A final reply to a command at the command's own time is the one retained last (R404). -/
theorem answered_finalReply {op : Nat} {c : Call} {s u : State} (hreply : bit (pktOf s op c).call.flags 2 = false) (hnow : u.now = s.now)
    (status : Nat) (body : List Nat) : Answered op c status body s (finalReply (pktOf s op c) status body u) := by
  rw [Answered, finalReply_kept hreply, getLast?_retain, hnow]

end Sys2Proof.Claims
end

section
/-! PROOF. With NOREPLY set nothing is sent (O9). -/
-- the whole text is compiled at once: its threads share one memory limit
set_option Elab.async false
namespace Sys2Proof.Claims
open Sys2Proof Sys2Proof.Machine

theorem finalReply_noReply {p : Pkt} (hno : bit p.call.flags 2 = true) (status : Nat) (body : List Nat) (s : State) :
    (finalReply p status body s).out = s.out ∧
      (finalReply p status body s).reg MR_NOREPLY_ERR = s.reg MR_NOREPLY_ERR + (if status = 0 then 0 else 1) := by
  have hcount : (countReply p status s).reg MR_NOREPLY_ERR = s.reg MR_NOREPLY_ERR := countReply_reg p status s (by decide) (by decide)
  rw [finalReply_of_noReply hno]
  split
  · exact ⟨countReply_out p status s, by rw [hcount]; exact (BitVec.add_zero _).symm⟩
  · exact ⟨by rw [State.inc_out, countReply_out], by rw [State.inc, State.reg_setReg_same, hcount]⟩

theorem interimReply_noReply {p : Pkt} (hno : bit p.call.flags 2 = true) (s : State) :
    (interimReply p s).out = s.out ∧ (interimReply p s).reg MR_NOREPLY_ERR = s.reg MR_NOREPLY_ERR := by
  rw [interimReply, if_pos hno]
  exact ⟨State.inc_out _ _, State.reg_setReg_other _ _ _ _ (by decide)⟩

theorem refuse_noReply {c : Call} (hno : bit c.flags 2 = true) (op status : Nat) (s : State) :
    (refuse c op status s).out = s.out ∧ (refuse c op status s).reg MR_NOREPLY_ERR = s.reg MR_NOREPLY_ERR + 1 := by
  rw [refuse, if_pos hno]
  exact ⟨State.inc_out _ _, State.reg_setReg_same _ _ _⟩

/-- Settles O9: each kind of answer looks at NOREPLY before it sends, and only the counter of MR moves. -/
theorem noReplyMeansNoReply : Obligations.NoReplyMeansNoReply :=
  ⟨fun _ status body s hno => finalReply_noReply hno status body s, fun _ s hno => interimReply_noReply hno s,
    fun _ op status s hno => refuse_noReply hno op status s⟩

end Sys2Proof.Claims
end

section
/-! SUPPORT. A ring command that is executed: the gate lets it through, and its final reply comes from what it has made of the state. -/
-- the whole text is compiled at once: its threads share one memory limit
set_option Elab.async false
namespace Sys2Proof.Claims
open Sys2Proof Sys2Proof.Machine

/-! ### The time of the answer -/

@[simp] theorem readBytes_now (as : List Nat) (s : State) : (readBytes as s).2.now = s.now :=
  now_of_keeps fun F _ => keeps_readBytes (keeps_refl F s)

@[simp] theorem writeWord_now (a v : Nat) (s : State) : (writeWord a v s).now = s.now :=
  now_of_keeps fun F _ => keeps_writeWord (keeps_refl F s)

@[simp] theorem abortJob_now (j : Job) (s : State) : (abortJob j s).now = s.now :=
  now_of_keeps fun F _ => keeps_abortJob (keeps_refl F s)

/-! ### Through the gate (R407, R424, R555) -/

theorem gate_of_admits {op : Nat} {phases : List Nat} {len : Nat → Bool} {c : Call} {s : State} (run : Pkt → State → State)
    (hadmits : Admits op phases c s) (hlen : len (paramLen (pktOf s op c)) = true) :
    gate op phases len c run s = .next (run (pktOf s op c) s) := by
  obtain ⟨hhalted, hresetting, hdue, hready, hphase, -⟩ := hadmits
  simp [gate, hhalted, hresetting, hdue, hready, hlen, hphase]

section
variable {o m : Host.Outcome State Fault Refusal} {op : Nat} {phases : List Nat} {len : Nat → Bool} {c : Call} {run : Pkt → State → State}
  {s u : State} {status : Nat} {body : List Nat}

/-- What a command that the gate lets through leaves; `m` is the command's meaning by its name. -/
theorem command_leaves {P : State → Prop} (hexec : o = m) (hgate : m = gate op phases len c run s) (hadmits : Admits op phases c s)
    (hlen : len (paramLen (pktOf s op c)) = true) (hrun : P (run (pktOf s op c) s)) : ∃ t : State, o = .next t ∧ P t :=
  ⟨_, by rw [hexec, hgate, gate_of_admits run hadmits hlen], hrun⟩

theorem answered_of_eq {t : State} (hadmits : Admits op phases c s) (hrun : t = finalReply (pktOf s op c) status body u) (hnow : u.now = s.now) :
    Answered op c status body s t ∧ OnlyReplied u t := by
  obtain ⟨-, -, -, -, -, hreply⟩ := hadmits
  rw [hrun]
  exact ⟨answered_finalReply hreply hnow status body, onlyReplied_finalReply ..⟩

/-- A command whose execution ends in a final reply. -/
theorem command_replies (hexec : o = m) (hgate : m = gate op phases len c run s) (hadmits : Admits op phases c s)
    (hlen : len (paramLen (pktOf s op c)) = true) (hrun : run (pktOf s op c) s = finalReply (pktOf s op c) status body u) (hnow : u.now = s.now) :
    ∃ t : State, o = .next t ∧ Answered op c status body s t ∧ OnlyReplied u t :=
  command_leaves hexec hgate hadmits hlen (answered_of_eq hadmits hrun hnow)

end

theorem answerRegs_eq (p : Pkt) (as : List Nat) (s : State) : answerRegs p as s = finalReply p 0 (readBytes as s).1 (readBytes as s).2 := rfl

theorem withRegs_of_ready {as : List Nat} {s : State} (hready : needs as s = (0, s)) (p : Pkt) (go : State → State) :
    withRegs p as go s = go s := by
  simp only [withRegs, hready]

end Sys2Proof.Claims
end

section
/-! PROOF. The commands of the device group, one clause of the statement after the other (O36). -/
-- the whole text is compiled at once: its threads share one memory limit
set_option Elab.async false
namespace Sys2Proof.Claims
open Sys2Proof Sys2Proof.Machine

/-- DEV_JOBS in its range: the oldest records are given and taken away (R429). -/
theorem execDevJobs_gives {c : Call} {s : State} (hadmits : Admits 0x0010 inSTR c s) (hlen : paramLen (pktOf s 0x0010 c) = 1)
    (hlo : 1 ≤ u8 (pktOf s 0x0010 c) 0) (hhi : u8 (pktOf s 0x0010 c) 0 ≤ 63) {max : Nat} (hmax : u8 (pktOf s 0x0010 c) 0 = max) :
    ∃ t : State, exec (.devJobs c) s = .next t ∧
      Answered 0x0010 c 0 (bytesLsb 2 (s.records.take max).length ++ bytesLsb 2 (s.records.drop max).length ++ (s.records.take max).flatten) s t ∧
      t.records = s.records.drop max := by
  subst hmax
  refine command_leaves (m := execDevJobs c s) rfl rfl hadmits (by simp [hlen]) ?_
  have hrange : ¬(u8 (pktOf s 0x0010 c) 0 < 1 ∨ 63 < u8 (pktOf s 0x0010 c) 0) := by omega
  simp only [if_neg hrange]
  obtain ⟨hanswered, hrest, -⟩ := answered_of_eq (u := settleNotified { s with records := s.records.drop _ }) hadmits rfl rfl
  exact ⟨hanswered, hrest .records (by decide)⟩

/-- Settles O36, clause by clause: each command passes the gate and ends in its final reply. -/
theorem deviceCommandsAnswer : Obligations.DeviceCommandsAnswer :=
  ⟨fun c s hadmits hlen => command_replies (m := execDevNop c s) rfl rfl hadmits (by simp [hlen]) rfl rfl,
   fun c s hadmits hlen => command_replies (m := execDevIdentify c s) rfl rfl hadmits (by simp [hlen]) rfl (readBytes_now ..),
   fun c s hadmits hlen => command_replies (m := execDevStatus c s) rfl rfl hadmits (by simp [hlen]) rfl (readBytes_now ..),
   fun c s hadmits hlen => command_replies (m := execDevIntRead c s) rfl rfl hadmits (by simp [hlen]) (answerRegs_eq ..) (readBytes_now ..),
   fun c s hadmits hlen => command_replies (m := execDevIntClear c s) rfl rfl hadmits (by simp [hlen]) (answerRegs_eq ..) (by simp),
   fun c s hadmits hlen hneeds =>
    command_replies (m := execDevTemps c s) rfl rfl hadmits (by simp [hlen]) (withRegs_of_ready hneeds _ _) rfl,
   fun c s hadmits hlen hlo hhi => execDevJobs_gives hadmits hlen hlo hhi rfl,
   fun c s hadmits hlen hnum hnone =>
    command_replies (m := execDevJobAbort c s) rfl rfl hadmits (by simp [hlen]) (by simp only [if_neg hnum, hnone]; rfl) rfl,
   fun c j s hadmits hlen hnum hsome hop =>
    command_replies (m := execDevJobAbort c s) rfl rfl hadmits (by simp [hlen]) (by simp only [if_neg hnum, hsome, if_neg hop]; rfl) (abortJob_now ..)⟩

end Sys2Proof.Claims
end

section
/-! SUPPORT. Resets of a tile: what they leave of its record and its domain; the accesses that wait for a wake, where there are none. -/
-- the whole text is compiled at once: its threads share one memory limit
set_option Elab.async false
namespace Sys2Proof.Claims
open Sys2Proof Sys2Proof.Machine

/-! ### Accesses that wait (R371) -/

theorem drainWakes_nil (left : List BusAccess) (s : State) : drainWakes left [] s = s.modHub (fun h => { h with wakes := left }) := rfl

/-- Where no access waits, none is judged again. -/
theorem settleWakes_of_none {s : State} (hnone : s.hub.wakes = []) : settleWakes s = s := by
  have hsame : s.modHub (fun h => { h with wakes := [] }) = s := by
    rw [State.modHub, ← hnone]
  rw [settleWakes, hnone, drainWakes_nil, hsame, startWakes, hnone]
  rfl

/-! ### TILE_RESET (R377) -/

theorem tileReset_inReset (t : Nat) (s : State) : ((tileReset t s).tile t).inReset = true := by
  unfold tileReset
  extract_lets
  rw [State.modDom_tile, State.tile_setTile]

theorem tileReset_dom (t : Nat) (s : State) : ((tileReset t s).dom (0x020 + t)).state = 6 := by
  unfold tileReset
  extract_lets
  rw [State.dom_modDom]

theorem tileReset_hub (t : Nat) (s : State) : (tileReset t s).hub = s.hub :=
  leaves [.free, .regs, .ports, .pairs, .links, .queues, .tbl, .held, .snr, .erle, .errs, .sigma, .noise, .coef, .seeds, .banks, .tiles, .diags, .maps,
    .traces, .doms, .cals, .calRuns, .completions, .claims, .waiting, .later, .tests, .raised] .hub fun _ _ => keeps_tileReset (keeps_refl _ s)

theorem tileUp_dom (t : Nat) (s : State) : ((tileUp t s).dom (0x020 + t)).state = 3 := by
  simp [tileUp]

theorem tileUp_tiles (t : Nat) (s : State) : (tileUp t s).tiles = s.tiles := by
  simp [tileUp]

theorem tileTrims_tiles (t : Nat) (s : State) : (tileTrims t s).tiles = s.tiles :=
  leaves [.cals] .tiles fun _ _ => keeps_tileTrims (keeps_refl _ s)

theorem finishJob_keeps (num status arg tile unit : Nat) (s : State) :
    Keeps (Within [.regs, .completions, .claims, .waiting, .later]) s (finishJob num status arg tile unit s) :=
  keeps_within _ fun _ _ => keeps_finishJob (keeps_refl _ s)

/-- What follows the end of a tile's reset: the segment is to be committed again, and the jobs and commands that waited for it end. -/
theorem tileResetEnds_keeps (t cause status : Nat) (js : List Job) (ps : List Pkt) (s : State) :
    Keeps (Within [.regs, .running, .kept, .completions, .claims, .waiting, .later, .hub, .out]) s
      (forEach ps (fun p s => answer p [] s) (askRecommit t cause (forEach js (fun j s => finishJob j.num status 0 t 0 s) s))) :=
  keeps_within _ fun _ _ => keeps_forEach _ _ (keeps_askRecommit (keeps_forEach _ _ (keeps_refl _ s) fun _ _ h => keeps_finishJob h))
    fun _ _ h => keeps_answer h

/-- TILE_RESET_DONE with the link up: the domain is ON (R377). -/
theorem execTileResetDone_up {t : Tile} {s : State} (hreset : (s.tile t).inReset = true) :
    ∃ u : State, exec (.tileResetDone t true) s = .next u ∧ (u.tile t).inReset = false ∧ (u.dom (0x020 + t)).state = 3 := by
  show ∃ u : State, execTileResetDone t true s = .next u ∧ _
  rw [execTileResetDone, if_neg (by simp [hreset])]
  extract_lets was s1 s2 sUp s3 js s4
  have hends : Keeps _ s3 (forEach (absorbed s4 t) (fun p s => answer p [] s) (askRecommit t 4 s4)) := tileResetEnds_keeps t 4 0 js _ s3
  refine ⟨_, rfl, ?_, ?_⟩
  · rw [State.tile_congr (hends.stands .tiles) t]
    have hup : (sUp.tile t).inReset = false := by
      rw [State.tile_congr (tileUp_tiles _ _), State.tile_congr (tileTrims_tiles _ _), State.tile_modTile]
    simp only [s3, if_true]
    split <;> simpa using hup
  · rw [State.dom_congr (hends.stands .doms) (0x020 + t)]
    have hup : (sUp.dom (0x020 + t)).state = 3 := tileUp_dom _ _
    simp only [s3, if_true]
    split <;> simpa using hup

/-- With the link down: the domain is in FAULT (R372, R377). -/
theorem execTileResetDone_down {t : Tile} {s : State} (hreset : (s.tile t).inReset = true) :
    ∃ u : State, exec (.tileResetDone t false) s = .next u ∧ (u.tile t).inReset = false ∧ (u.tile t).linkDown = true ∧
      (u.dom (0x020 + t)).state = 5 := by
  show ∃ u : State, execTileResetDone t false s = .next u ∧ _
  rw [execTileResetDone, if_neg (by simp [hreset])]
  extract_lets was s1 s2 sUp s3 js s4
  have hends : Keeps _ s3 (forEach (absorbed s4 t) (fun p s => answer p [] s) (askRecommit t 4 s4)) := tileResetEnds_keeps t 4 0x0B js _ s3
  have htile : s3.tile t = { s1.tile t with inReset := false, linkDown := true } := by
    have htrims : s2.tile t = _ := State.tile_congr (tileTrims_tiles _ _) t
    rw [State.tile_modTile] at htrims
    simpa [s3] using htrims
  refine ⟨_, rfl, ?_, ?_, ?_⟩
  · rw [State.tile_congr (hends.stands .tiles) t, htile]
  · rw [State.tile_congr (hends.stands .tiles) t, htile]
  · rw [State.dom_congr (hends.stands .doms) (0x020 + t)]
    simp [s3]

end Sys2Proof.Claims
end

section
/-! PROOF. The commands that reset, one clause of the statement after the other (O37). -/
-- the whole text is compiled at once: its threads share one memory limit
set_option Elab.async false
namespace Sys2Proof.Claims
open Sys2Proof Sys2Proof.Machine

@[simp] theorem pktOf_op (s : State) (op : Nat) (c : Call) : (pktOf s op c).op = op := by
  unfold pktOf
  split
  next p hfound =>
    have hp := List.find?_some hfound
    simp only [Bool.and_eq_true, beq_iff_eq] at hp
    exact hp.1.1
  · rfl

@[simp] theorem portReset_now (n : Port) (s : State) : (portReset n s).now = s.now :=
  now_of_keeps fun F _ => keeps_portReset (keeps_refl F s)

/-- DEVICE_RESET with a phase it knows (R379, R384). -/
theorem execDeviceReset_due {c : Call} {s : State} (hadmits : Admits 0x0003 inSTR c s) (hlen : paramLen (pktOf s 0x0003 c) = 1)
    (hphase : u8 (pktOf s 0x0003 c) 0 ≤ 2 ∨ u8 (pktOf s 0x0003 c) 0 = 0xFF) :
    ∃ t : State, exec (.deviceReset c) s = .next t ∧ Answered 0x0003 c 0 [] s t ∧ t.hub.resetDue = true := by
  refine command_leaves (m := execDeviceReset c s) rfl rfl hadmits (by simp [hlen]) ?_
  have hknown : ¬(2 < u8 (pktOf s 0x0003 c) 0 ∧ u8 (pktOf s 0x0003 c) 0 ≠ 0xFF) := by omega
  simp only [if_neg hknown]
  obtain ⟨-, -, -, -, -, hreply⟩ := hadmits
  refine ⟨answered_finalReply hreply ?_ 0 [], rfl⟩
  split <;> simp

/-- The state in which a long command's job has begun. -/
def jobBegun (p : Pkt) (h : Nat) (owns : Bool) (res left : Nat) (grid : List (Int × Int)) (s : State) : State := (beginJob p h owns res left grid s).2

theorem jobBegun_jobs (p : Pkt) (h : Nat) (owns : Bool) (res left : Nat) (grid : List (Int × Int)) (s : State) :
    (jobBegun p h owns res left grid s).jobs = s.jobs ++ [⟨nextJob s, p.op, p.call.src, p.call.tag, h, owns, res, left, 0, 0, grid, []⟩] := rfl

@[simp] theorem jobBegun_now (p : Pkt) (h : Nat) (owns : Bool) (res left : Nat) (grid : List (Int × Int)) (s : State) :
    (jobBegun p h owns res left grid s).now = s.now := rfl

/-- A long command is accepted: its job begins, and the job result is its reply (R427). -/
theorem acceptJob_eq (p : Pkt) (h : Nat) (owns : Bool) (res left : Nat) (grid : List (Int × Int)) (s : State) :
    acceptJob p h owns res left grid s =
      (nextJob s, finalReply p 0 (jobResult (nextJob s) h) (jobBegun p h owns res left grid s)) := rfl

section
variable {c : Call} {s : State} (hadmits : Admits 0x0004 inST c s) (hlen : paramLen (pktOf s 0x0004 c) = 1)
  (htile : u8 (pktOf s 0x0004 c) 0 < 8) (hroom : recordsFull s = false)

/-- The state in which a TILE_RESET has been accepted (R427). -/
def tileResetAccepted (c : Call) (s : State) : State := (acceptJob (pktOf s 0x0004 c) 0 false (u8 (pktOf s 0x0004 c) 0) 0 [] s).2

theorem tileResetAccepted_eq (c : Call) (s : State) : tileResetAccepted c s = finalReply (pktOf s 0x0004 c) 0 (jobResult (nextJob s) 0)
    (jobBegun (pktOf s 0x0004 c) 0 false (u8 (pktOf s 0x0004 c) 0) 0 [] s) := by
  rw [tileResetAccepted, acceptJob_eq]

theorem tileResetAccepted_onlyReplied (c : Call) (s : State) :
    OnlyReplied (jobBegun (pktOf s 0x0004 c) 0 false (u8 (pktOf s 0x0004 c) 0) 0 [] s) (tileResetAccepted c s) := by
  rw [tileResetAccepted_eq]
  exact onlyReplied_finalReply ..

theorem tileResetAccepted_tiles (c : Call) (s : State) : (tileResetAccepted c s).tiles = s.tiles :=
  (tileResetAccepted_onlyReplied c s).1 .tiles (by decide)

include hadmits hlen htile hroom

theorem execTileReset_accepts {P : State → Prop}
    (hrun : P (if ((tileResetAccepted c s).tile (u8 (pktOf s 0x0004 c) 0)).inReset then tileResetAccepted c s
      else settleWakes (tileReset (u8 (pktOf s 0x0004 c) 0) (tileResetAccepted c s)))) :
    ∃ t : State, exec (.tileReset c) s = .next t ∧ P t := by
  refine command_leaves (m := execTileReset c s) rfl rfl hadmits (by simp [hlen]) ?_
  simp only [if_neg (Nat.not_le.2 htile), longOnly, hroom, if_neg Bool.false_ne_true]
  exact hrun

/-- A tile in reset already is left to its reset; the job ends with that (R378). -/
theorem execTileReset_joins (hreset : (s.tile (u8 (pktOf s 0x0004 c) 0)).inReset = true) :
    ∃ t : State, exec (.tileReset c) s = .next t ∧ (Answered 0x0004 c 0 (jobResult (nextJob s) 0) s t ∧
      (∃ j ∈ t.jobs, j.num = nextJob s ∧ j.op = 0x0004 ∧ j.res = u8 (pktOf s 0x0004 c) 0) ∧ t.tiles = s.tiles) := by
  have htiles := tileResetAccepted_tiles c s
  refine execTileReset_accepts hadmits hlen htile hroom ?_
  rw [State.tile_congr htiles, if_pos hreset]
  refine ⟨(answered_of_eq hadmits (tileResetAccepted_eq c s) (jobBegun_now ..)).1, ?_, htiles⟩
  have hjobs : (tileResetAccepted c s).jobs = _ := (tileResetAccepted_onlyReplied c s).1 .jobs (by decide)
  rw [hjobs, jobBegun_jobs]
  exact ⟨_, List.mem_append_right _ List.mem_cons_self, rfl, pktOf_op s _ c, rfl⟩

theorem execTileReset_resets (hreset : (s.tile (u8 (pktOf s 0x0004 c) 0)).inReset = false) (hwakes : s.hub.wakes = []) :
    ∃ t : State, exec (.tileReset c) s = .next t ∧ (t.tile (u8 (pktOf s 0x0004 c) 0)).inReset = true ∧
      (t.dom (0x020 + u8 (pktOf s 0x0004 c) 0)).state = 6 := by
  refine execTileReset_accepts hadmits hlen htile hroom ?_
  have hhub : (tileResetAccepted c s).hub = _ := (tileResetAccepted_onlyReplied c s).1 .hub (by decide)
  have hnone : (tileReset (u8 (pktOf s 0x0004 c) 0) (tileResetAccepted c s)).hub.wakes = [] := by
    rw [tileReset_hub, hhub]
    exact hwakes
  rw [State.tile_congr (tileResetAccepted_tiles c s), hreset, if_neg Bool.false_ne_true, settleWakes_of_none hnone]
  exact ⟨tileReset_inReset _ _, tileReset_dom _ _⟩

end

/-- PORT_RESET of a port whose tile is not in reset (R375, R378). -/
theorem execPortReset_resets {c : Call} {s : State} (hadmits : Admits 0x0005 inST c s) (hlen : paramLen (pktOf s 0x0005 c) = 1)
    (hport : u8 (pktOf s 0x0005 c) 0 < 128) (htile : (s.tile (tileOf (toPort (u8 (pktOf s 0x0005 c) 0)))).inReset = false)
    (hneeds : needs [PORT_STARTUP_CFG (toPort (u8 (pktOf s 0x0005 c) 0))] s = (0, s)) :
    ∃ t : State, exec (.portReset c) s = .next t ∧ Answered 0x0005 c 0 [] s t ∧ OnlyReplied (portReset (toPort (u8 (pktOf s 0x0005 c) 0)) s) t := by
  refine command_replies (m := execPortReset c s) rfl rfl hadmits (by simp [hlen]) ?_ (portReset_now ..)
  simp only [if_neg (Nat.not_le.2 hport), htile, if_neg Bool.false_ne_true, withRegs_of_ready hneeds]
  rfl

/-- Settles O37, clause by clause: a reset's last writes are the tile's record and its domain. -/
theorem resetCommandsAct : Obligations.ResetCommandsAct :=
  ⟨fun _ _ => execDeviceReset_due, fun _ _ => execTileReset_joins, fun _ _ => execTileReset_resets, fun _ _ => execPortReset_resets,
    fun _ _ => execTileResetDone_up, fun _ _ => execTileResetDone_down⟩

end Sys2Proof.Claims
end

section
/-! PROOF. The commands of the register access group, one clause of the statement after the other (O38). -/
-- the whole text is compiled at once: its threads share one memory limit
set_option Elab.async false
namespace Sys2Proof.Claims
open Sys2Proof Sys2Proof.Machine

/-! ### The time of the answer -/

theorem doItems_now {α : Type} {f : α → State → Nat × State} (hf : ∀ x s, (f x s).2.now = s.now) (xs : List α) (done : Nat) (s : State) :
    (doItems f xs done s).2.2.now = s.now := by
  induction xs generalizing done s with
  | nil => rfl
  | cons x xs ih =>
    unfold doItems
    have hx := hf x s
    split
    next u hfx => exact (ih _ _).trans (by rw [← hx, hfx])
    next st u _ hfx => rw [← hx, hfx]

@[simp] theorem readItems_now (as : List Nat) (s : State) : (readItems as s).2.2.now = s.now :=
  now_of_keeps fun F _ => keeps_readItems (keeps_refl F s)

@[simp] theorem readWord_now (a : Nat) (s : State) : (readWord a s).2.now = s.now :=
  now_of_keeps fun F _ => keeps_readWord (keeps_refl F s)

@[simp] theorem busWrite_now (m : Master) (a v : Nat) (hw : HwUpdate) (s : State) : (busWrite m a v hw s).2.now = s.now :=
  now_of_keeps fun F _ => keeps_busWrite (keeps_refl F s)

@[simp] theorem writeItem_now (x : Nat × Nat) (s : State) : (writeItem x s).2.now = s.now :=
  now_of_keeps fun F _ => keeps_writeItem (keeps_refl F s)

/-! ### Reads and writes of several registers (R426, R442) -/

theorem answerItems_eq (p : Pkt) (as : List Nat) (s : State) :
    answerItems p as s = finalReply p (if (readItems as s).2.1 then 0 else 10) (readItems as s).1 (readItems as s).2.2 := rfl

theorem multi_eq {α : Type} (p : Pkt) (f : α → State → Nat × State) (xs : List α) (s : State) :
    multi p f xs s = finalReply p (if (doItems f xs 0 s).2.1 = 0 then 0 else 10) (multiHeader (doItems f xs 0 s).1 (doItems f xs 0 s).2.1)
      (doItems f xs 0 s).2.2 := rfl

theorem ready_of_admits {op : Nat} {phases : List Nat} {c : Call} {s : State} (hadmits : Admits op phases c s) : isReady s = true := by
  obtain ⟨-, -, -, hready, -⟩ := hadmits
  exact hready

theorem gateRead_of_ready {op : Nat} {len : Nat → Bool} {addrs : Pkt → List Nat} {c : Call} {run : Pkt → State → State} {s : State}
    (hready : isReady s = true) : gateRead op len addrs c run s = gate op inSTR len c run s := by
  rw [gateRead, if_pos hready]

/-- A command that reads, admitted in any phase: `gateRead` lets it through too. -/
theorem commandRead_replies {o m : Host.Outcome State Fault Refusal} {op : Nat} {len : Nat → Bool} {addrs : Pkt → List Nat} {c : Call}
    {run : Pkt → State → State} {s u : State} {status : Nat} {body : List Nat} (hexec : o = m) (hgate : m = gateRead op len addrs c run s)
    (hadmits : Admits op inSTR c s) (hlen : len (paramLen (pktOf s op c)) = true)
    (hrun : run (pktOf s op c) s = finalReply (pktOf s op c) status body u) (hnow : u.now = s.now) :
    ∃ t : State, o = .next t ∧ Answered op c status body s t ∧ OnlyReplied u t :=
  command_replies hexec (hgate.trans (gateRead_of_ready (ready_of_admits hadmits))) hadmits hlen hrun hnow

theorem itemReady_of_ready {a : Nat} {s : State} (haligned : a % 4 = 0) (hneeds : needs [a] s = (0, s)) : itemReady a s = (0, s) := by
  rw [itemReady, if_neg (not_not_intro haligned), hneeds]

/-! ### COMMIT_CONFIG (R464) -/

theorem stay_mem (p : Pkt) (s : State) : p ∈ (stay p s).running := by
  unfold stay
  split
  next hin => simpa using hin
  · exact List.mem_append_right _ List.mem_cons_self

theorem stay_hub (p : Pkt) (s : State) : (stay p s).hub = s.hub := by
  unfold stay
  split <;> rfl

theorem stay_regs (p : Pkt) (s : State) : (stay p s).regs = s.regs := by
  unfold stay
  split <;> rfl

/-- Where no commit pass runs or waits, one asked for begins at once. -/
theorem startCommit_of_none {s : State} (hcommit : s.hub.commit = none) (hcommits : s.hub.commits = []) (cause : Nat) (call : Option Call) :
    startCommit cause call s = s.modHub (fun h => { h with commit := some (cause, call), commits := [] }) := by
  have hnext : nextCommit { s with hub := { s.hub with commits := [(cause, call)] } } =
      s.modHub (fun h => { h with commit := some (cause, call), commits := [] }) := by
    simp only [nextCommit, hcommit]
    rfl
  rw [← hnext, startCommit, State.modHub, hcommits]
  rfl

/-- The addresses of a block in the layout of REG_READ. -/
def readAddrs (p : Pkt) : List Nat := blockAddrs (u32 p 0) (u16 p 4) (u8 p 6)

theorem execRegRead_eq (c : Call) (s : State) : execRegRead c s = gateRead 0x0800 (· == 8) readAddrs c (fun p s =>
    if u32 p 0 % 4 ≠ 0 ∨ u16 p 4 < 1 ∨ 256 < u16 p 4 ∨ 1 < u8 p 6 then badParam p s else answerItems p (readAddrs p) s) s := rfl

/-- Settles O38, clause by clause: each command passes the gate, and what it has read or written is in its final reply. -/
theorem registerCommandsAnswer : Obligations.RegisterCommandsAnswer := by
  refine ⟨fun c s hadmits hlen haligned hlo hhi hfixed => ?_, fun c s hadmits hlen => ?_, fun c s hadmits hlen => ?_,
    fun c s hadmits hlen hfixed => ?_, fun c s hadmits hlen haligned hneeds hstatus => ?_, fun c s hadmits hlen hcommit hcommits => ?_⟩
  · have hok : ¬(u32 (pktOf s 0x0800 c) 0 % 4 ≠ 0 ∨ u16 (pktOf s 0x0800 c) 4 < 1 ∨ 256 < u16 (pktOf s 0x0800 c) 4 ∨ 1 < u8 (pktOf s 0x0800 c) 6) := by
      omega
    exact commandRead_replies (m := execRegRead c s) rfl (execRegRead_eq c s) hadmits (by simp [hlen])
      ((if_neg hok).trans (answerItems_eq ..)) (readItems_now ..)
  · exact commandRead_replies (m := execRegReadList c s) rfl rfl hadmits (by simp [hlen]) (answerItems_eq ..)
      (readItems_now ..)
  · exact command_replies (m := execRegWrite c s) rfl rfl hadmits (by simp [hlen]) (multi_eq ..) (doItems_now writeItem_now ..)
  · exact command_replies (m := execRegWriteBlock c s) rfl rfl hadmits (by simp [hlen])
      ((if_neg (Nat.not_lt.2 hfixed)).trans (multi_eq ..)) (doItems_now writeItem_now ..)
  · refine command_replies (m := execRegRmw c s) rfl rfl hadmits (by simp [hlen]) ?_ ((busWrite_now ..).trans (readWord_now ..))
    simp only [itemReady_of_ready haligned hneeds]
    generalize readWord _ s = read at hstatus ⊢
    obtain ⟨old, u⟩ := read
    generalize rmwWords _ old _ _ = words at hstatus ⊢
    obtain ⟨word, new⟩ := words
    generalize busWrite _ _ word _ u = written at hstatus ⊢
    obtain ⟨status, t⟩ := written
    obtain rfl : status = 0 := hstatus
    rfl
  · refine command_leaves (m := execCommitConfig c s) rfl rfl hadmits (by simp [hlen]) ?_
    have hidle : ¬(s.hub.commit.toList ++ s.hub.commits).any (fun x => x.2 == some (pktOf s 0x0805 c).call) = true := by
      simp [hcommit, hcommits]
    rw [if_neg hidle, startCommit_of_none (by rw [stay_hub, hcommit]) (by rw [stay_hub, hcommits])]
    exact ⟨rfl, rfl, stay_mem .., stay_regs ..⟩

end Sys2Proof.Claims
end

section
/-! SUPPORT. The parameters of a command in their ranges, and the time after what a command writes and reads. -/
-- the whole text is compiled at once: its threads share one memory limit
set_option Elab.async false
namespace Sys2Proof.Claims
open Sys2Proof Sys2Proof.Machine

/-! ### Parameters in range (R408) -/

section
variable {p : Pkt} {as : List Nat} {s : State}

theorem withPort_of_lt (hport : u8 p 0 < 128) (run : Port → State → State) : withPort p run s = run (toPort (u8 p 0)) s :=
  if_neg (Nat.not_le.2 hport)

theorem withLane_of_lt (hlane : u8 p 0 < 136) (run : Nat → State → State) : withLane p run s = run (u8 p 0) s :=
  if_neg (Nat.not_le.2 hlane)

theorem withGpair_of_lt (hpair : u16 p 0 < 512) (run : Port → Pair → State → State) :
    withGpair p run s = run (portOf (u16 p 0)) (pairOf (u16 p 0)) s :=
  if_neg (Nat.not_le.2 hpair)

theorem readRegs_of_ready (hneeds : needs as s = (0, s)) : readRegs p as s = finalReply p 0 (readBytes as s).1 (readBytes as s).2 :=
  withRegs_of_ready hneeds p _

end

/-! ### The time of the answer -/

@[simp] theorem putFields_now (a : Nat) (fvs : List (Fld × Nat)) (s : State) : (putFields a fvs s).now = s.now :=
  now_of_keeps fun F _ => keeps_putFields (keeps_refl F s)

@[simp] theorem clearCounter_now (a : Nat) (s : State) : (clearCounter a s).now = s.now :=
  now_of_keeps fun F _ => keeps_clearCounter (keeps_refl F s)

@[simp] theorem readLow_now (as : List (Nat × Nat)) (s : State) : (readLow as s).2.now = s.now :=
  now_of_keeps fun F _ => keeps_readLow (keeps_refl F s)

@[simp] theorem summaryBytes_now (ns : List Nat) (s : State) : (summaryBytes ns s).2.now = s.now :=
  now_of_keeps fun F _ => keeps_summaryBytes (keeps_refl F s)

@[simp] theorem askTier_now (n : Port) (s : State) : (askTier n s).now = s.now :=
  now_of_keeps fun F _ => keeps_askTier (keeps_refl F s)

@[simp] theorem enablePort_now (on n : Nat) (s : State) : (enablePort on n s).2.now = s.now :=
  now_of_keeps fun F _ => keeps_enablePort (keeps_refl F s)

theorem forEach_now {α : Type} {f : α → State → State} (hf : ∀ x s, (f x s).now = s.now) (xs : List α) (s : State) :
    (forEach xs f s).now = s.now := by
  induction xs generalizing s with
  | nil => rfl
  | cons x xs ih => rw [forEach_cons, ih, hf]

end Sys2Proof.Claims
end

section
/-! PROOF. The lock commands (O39). -/
-- the whole text is compiled at once: its threads share one memory limit
set_option Elab.async false
namespace Sys2Proof.Claims
open Sys2Proof Sys2Proof.Machine

@[simp] theorem writeKey_now (m : Master) (v : Nat) (s : State) : (writeKey m v s).now = s.now :=
  now_of_keeps fun F _ => keeps_writeKey (keeps_refl F s)

/-- LOCK_SET in SERVICE, where LOCK is not set yet (R469). -/
theorem setLock_of_unlocked {m : Master} {s : State} (hphase : s.fld PWR_PHASE.PHASE = 1) (hlock : s.fld HUB_LOCK.LOCK = 0) :
    setLock m s = (s.setFld HUB_LOCK.LOCK 1).raise 0x8004 0 [masterCode m] := if_pos ⟨hphase, hlock⟩

theorem execLockSet_locks {c : Call} {s : State} (hadmits : Admits 0x0A00 [1] c s) (hlen : paramLen (pktOf s 0x0A00 c) = 0)
    (hlock : s.fld HUB_LOCK.LOCK = 0) : ∃ t : State, exec (.lockSet c) s = .next t ∧ Answered 0x0A00 c 0 [] s t ∧ t.fld HUB_LOCK.LOCK = 1 ∧
      t.raised = s.raised ++ [⟨0x8004, 0, [masterCode .ring]⟩] := by
  refine command_leaves (m := execLockSet c s) rfl rfl hadmits (by simp [hlen]) ?_
  obtain ⟨-, -, -, -, hphase, hreply⟩ := hadmits
  rw [setLock_of_unlocked (List.mem_singleton.1 hphase) hlock]
  refine ⟨answered_finalReply hreply (by simp) 0 [], ?_, ?_⟩
  · rw [answer, finalReply_fld _ _ _ _ (by decide) (by decide) (by decide), State.raise_fld, State.fld_setFld_same _ _ _ (by decide) (by decide)]
    rfl
  · exact (onlyReplied_finalReply ..).1 .raised (by decide)

theorem execUnlockWrite_writes {c : Call} {s : State} (hadmits : Admits 0x0A01 [2] c s) (hlen : paramLen (pktOf s 0x0A01 c) = 12)
    (hlockable : isLockable (u32 (pktOf s 0x0A01 c) 4) = true) (hkey : u16 (pktOf s 0x0A01 c) 0 = 0x5EA7) {r : Nat × State}
    (hwrite : busWrite .ring (u32 (pktOf s 0x0A01 c) 4) (u32 (pktOf s 0x0A01 c) 8) noUpdate (writeKey .ring (u16 (pktOf s 0x0A01 c) 0) s) = r) :
    ∃ t : State, exec (.unlockWrite c) s = .next t ∧ Answered 0x0A01 c r.1 [] s t ∧ OnlyReplied r.2 t := by
  subst hwrite
  refine command_replies (m := execUnlockWrite c s) rfl rfl hadmits (by simp [hlen]) ?_ (by simp)
  simp only [hlockable, Bool.not_true, if_neg Bool.false_ne_true, if_neg (not_not_intro hkey)]

/-- Settles O39, clause by clause: LOCK_SET and UNLOCK_WRITE do what a write of the register does. -/
theorem lockCommandsAndLocks : Obligations.LockCommandsAndLocks :=
  ⟨fun _ _ => execLockSet_locks, fun _ _ hadmits hlen hlockable hkey => execUnlockWrite_writes hadmits hlen hlockable hkey rfl,
    fun c s hadmits hlen => command_replies (m := execLockStatus c s) rfl rfl hadmits (by simp [hlen]) rfl rfl⟩

end Sys2Proof.Claims
end

section
/-! PROOF. The port commands, one clause of the statement after the other (O40). -/
-- the whole text is compiled at once: its threads share one memory limit
set_option Elab.async false
namespace Sys2Proof.Claims
open Sys2Proof Sys2Proof.Machine

/-! ### PORT_RETRAIN (R189, R223) -/

theorem activeLinks_of_whole {n : Port} {s : State} (hform : isBreakout s n = false) : activeLinks s n = [portLink n] := by
  rw [activeLinks, hform, if_neg Bool.false_ne_true]

theorem retrainLinks_single (cause : Nat) (l : LinkId) (s : State) : retrainLinks cause [l] (0, 0) s =
    (if (retrainLink cause l s).1.1 = 0 then (0, 0) else (retrainLink cause l s).1, (retrainLink cause l s).2) := by
  simp [retrainLinks]

/-- A link that may ask does. -/
theorem retrainLinks_of_mayAsk {l : LinkId} {s : State} (hmay : MayAsk (s.link l)) (cause : Nat) :
    retrainLinks cause [l] (0, 0) s = ((1, stagePlus (nextWaymark (s.link l)) 4), showLink l (requestRetrain l cause s)) := by
  obtain ⟨hphase, hnone, hmodes⟩ := hmay
  simp [retrainLinks_single, retrainLink, hphase, hnone, hmodes]

/-- On a link that is down nothing is asked for. -/
theorem retrainLinks_of_down {l : LinkId} {s : State} (hphase : (s.link l).phase = 0) (cause : Nat) :
    retrainLinks cause [l] (0, 0) s = ((0, 0), s) := by
  simp [retrainLinks_single, retrainLink, hphase]

@[simp] theorem retrainLinks_now (cause : Nat) (ls : List LinkId) (x : Nat × Nat) (s : State) : (retrainLinks cause ls x s).2.now = s.now :=
  now_of_keeps fun F _ => keeps_retrainLinks (keeps_refl F s)

/-- PORT_RETRAIN of a port that is no BREAKOUT: the outcome of its one link. -/
theorem execPortRetrain_answers {c : Call} {s : State} (hadmits : Admits 0x0102 inST c s) (hlen : paramLen (pktOf s 0x0102 c) = 3)
    (hport : u8 (pktOf s 0x0102 c) 0 < 128) (hpair : u8 (pktOf s 0x0102 c) 1 ≤ 1) (hform : isBreakout s (toPort (u8 (pktOf s 0x0102 c) 0)) = false)
    (hneeds : needs [PORT_LINK_STATUS (toPort (u8 (pktOf s 0x0102 c) 0))] s = (0, s)) {x : Nat × Nat} {u : State}
    (hasked : retrainLinks (if u8 (pktOf s 0x0102 c) 1 = 0 then 0xC else 0xD) [portLink (toPort (u8 (pktOf s 0x0102 c) 0))] (0, 0) s = (x, u)) :
    ∃ t : State, exec (.portRetrain c) s = .next t ∧ Answered 0x0102 c 0 ([x.1, 0, 0, 0] ++ bytesLsb 4 x.2) s t ∧ OnlyReplied u t := by
  refine command_replies (m := execPortRetrain c s) rfl rfl hadmits (by simp [hlen]) ?_ (u := u) ?_
  · simp only [withPort_of_lt hport, hform, Nat.not_lt.2 hpair, withRegs_of_ready hneeds, activeLinks_of_whole hform, Bool.false_eq_true,
      false_and, or_self, if_false, hasked]
    rfl
  · rw [← retrainLinks_now (if u8 (pktOf s 0x0102 c) 1 = 0 then 0xC else 0xD) [portLink (toPort (u8 (pktOf s 0x0102 c) 0))] (0, 0) s, hasked]

theorem execPortRetrain_asks {c : Call} {s : State} (hadmits : Admits 0x0102 inST c s) (hlen : paramLen (pktOf s 0x0102 c) = 3)
    (hport : u8 (pktOf s 0x0102 c) 0 < 128) (hpair : u8 (pktOf s 0x0102 c) 1 = 0) (hform : isBreakout s (toPort (u8 (pktOf s 0x0102 c) 0)) = false)
    (hneeds : needs [PORT_LINK_STATUS (toPort (u8 (pktOf s 0x0102 c) 0))] s = (0, s))
    (hmay : MayAsk (s.link (portLink (toPort (u8 (pktOf s 0x0102 c) 0))))) :
    ∃ t : State, exec (.portRetrain c) s = .next t ∧
      Answered 0x0102 c 0 ([1, 0, 0, 0] ++ bytesLsb 4 (stagePlus (nextWaymark (s.link (portLink (toPort (u8 (pktOf s 0x0102 c) 0))))) 4)) s t ∧
      RetrainAsked 0xC (portLink (toPort (u8 (pktOf s 0x0102 c) 0))) s t := by
  have hcause : (if u8 (pktOf s 0x0102 c) 1 = 0 then 0xC else 0xD) = 0xC := if_pos hpair
  have hasked := retrainLinks_of_mayAsk hmay 0xC
  rw [← hcause] at hasked
  obtain ⟨t, ht, hanswered, hkinds, -⟩ := execPortRetrain_answers hadmits hlen hport (by omega) hform hneeds hasked
  have hlinks : t.links = _ := hkinds .links (by decide)
  refine ⟨t, ht, hanswered, RetrainAsked.congr ?_ (hlinks.trans (showLink_links _ _))⟩
  rw [hcause]
  exact retrainAsked_of_mayAsk hmay (by decide)

/-! ### The other port commands (R433, R434) -/

theorem answerModes_eq (p : Pkt) (n : Port) (s : State) : answerModes p n s =
    finalReply p 0 (readLow [(PORT_MODE_EFFECTIVE n, 2), (PORT_MODE_INACTIVE n, 2), (PORT_MODE_REASON0 n, 4), (PORT_MODE_REASON1 n, 2),
      (PORT_MODE_PENDING n, 2)] s).1
      (readLow [(PORT_MODE_EFFECTIVE n, 2), (PORT_MODE_INACTIVE n, 2), (PORT_MODE_REASON0 n, 4), (PORT_MODE_REASON1 n, 2),
        (PORT_MODE_PENDING n, 2)] s).2 := rfl

theorem answer_eq_finalReply (p : Pkt) (body : List Nat) (s : State) : answer p body s = finalReply p 0 body s := rfl

/-- PORT_COUNTERS: the set is read, and with CLEAR then cleared. -/
theorem execPortCounters_answers {c : Call} {s : State} (hadmits : Admits 0x0106 inST c s) (hlen : paramLen (pktOf s 0x0106 c) = 3)
    (hport : u8 (pktOf s 0x0106 c) 0 < 128) (hset : u8 (pktOf s 0x0106 c) 1 ≤ 6) (hclear : u8 (pktOf s 0x0106 c) 2 ≤ 1)
    (hneeds : needs (counterSet (toPort (u8 (pktOf s 0x0106 c) 0)) (u8 (pktOf s 0x0106 c) 1)) s = (0, s)) :
    ∃ t : State, exec (.portCounters c) s = .next t ∧
      Answered 0x0106 c 0 (readBytes (counterSet (toPort (u8 (pktOf s 0x0106 c) 0)) (u8 (pktOf s 0x0106 c) 1)) s).1 s t ∧
      OnlyReplied (if u8 (pktOf s 0x0106 c) 2 = 1
        then forEach (counterSet (toPort (u8 (pktOf s 0x0106 c) 0)) (u8 (pktOf s 0x0106 c) 1)) clearCounter
          (readBytes (counterSet (toPort (u8 (pktOf s 0x0106 c) 0)) (u8 (pktOf s 0x0106 c) 1)) s).2
        else (readBytes (counterSet (toPort (u8 (pktOf s 0x0106 c) 0)) (u8 (pktOf s 0x0106 c) 1)) s).2) t := by
  refine command_replies (m := execPortCounters c s) rfl rfl hadmits (by simp [hlen]) ?_ ?_
  · have hok : ¬(6 < u8 (pktOf s 0x0106 c) 1 ∨ 1 < u8 (pktOf s 0x0106 c) 2) := by omega
    simp only [withPort_of_lt hport, if_neg hok, withRegs_of_ready hneeds]
    exact answer_eq_finalReply _ _ _
  · split
    · rw [forEach_now clearCounter_now, readBytes_now]
    · exact readBytes_now ..

theorem execPortRate_answers {c : Call} {s : State} (hadmits : Admits 0x0103 inST c s) (hlen : paramLen (pktOf s 0x0103 c) = 2) {n : Port}
    {tier : Nat} (hport : u8 (pktOf s 0x0103 c) 0 < 128) (htier : u8 (pktOf s 0x0103 c) 1 ≤ 3) (hn : toPort (u8 (pktOf s 0x0103 c) 0) = n)
    (ht : u8 (pktOf s 0x0103 c) 1 = tier) (hneeds : needs [PORT_RATE_CFG n] s = (0, s)) {u : State}
    (hu : askTier n (putFields (PORT_RATE_CFG n) [(PORT_RATE_CFG.REQ_TIER n, tier)] s) = u) :
    ∃ t : State, exec (.portRate c) s = .next t ∧ Answered 0x0103 c 0 [u.fld (PORT_LINK_STATUS.TIER_TX n), u.fld (PORT_LINK_STATUS.TIER_RX n),
      max tier (u.fld (PORT_STARTUP_RESULT.MAX_TIER n)), 0] s t ∧ OnlyReplied u t := by
  subst hn ht hu
  refine command_replies (m := execPortRate c s) rfl rfl hadmits (by simp [hlen]) ?_ (by simp)
  exact (withPort_of_lt hport _).trans ((if_neg (Nat.not_lt.2 htier)).trans ((withRegs_of_ready hneeds _ _).trans (answer_eq_finalReply ..)))

/-- Settles O40, clause by clause: each command passes the gate and its parameters' ranges, and ends in its final reply. -/
theorem portCommandsAnswer : Obligations.PortCommandsAnswer := by
  refine ⟨fun c s hadmits hlen hon => ?_, fun c s hadmits hlen hport hneeds => ?_, fun _ _ => execPortRetrain_asks,
    fun c s hadmits hlen hport hpair hform hneeds hphase => ?_, fun c s hadmits hlen hport htier hneeds => ?_,
    fun c s hadmits hlen hport hneeds => ?_, fun c s hadmits hlen hneeds => ?_, fun c s hadmits hlen hport hset hclear hneeds => ?_,
    fun c s hadmits hlen hport hset hclear hneeds => ?_, fun c s hadmits hlen hport hneeds => ?_,
    fun c s hadmits hlen hport hfits hneeds => ?_, fun c s hadmits hlen hport hneeds => ?_, fun c s hadmits hlen hlane hneeds => ?_,
    fun c s hadmits hlen hpair hneeds => ?_⟩
  · exact command_replies (m := execPortEnable c s) rfl rfl hadmits (by simp [hlen]) ((if_neg (Nat.not_lt.2 hon)).trans (multi_eq ..))
      (doItems_now (enablePort_now _) ..)
  · exact command_replies (m := execPortModeSet c s) rfl rfl hadmits (by simp [hlen])
      ((withPort_of_lt hport _).trans ((withRegs_of_ready hneeds _ _).trans (answerModes_eq ..))) (by simp)
  · exact execPortRetrain_answers hadmits hlen hport hpair hform hneeds (retrainLinks_of_down hphase _)
  · exact execPortRate_answers hadmits hlen hport htier rfl rfl hneeds rfl
  · exact command_replies (m := execPortStatus c s) rfl rfl hadmits (by simp [hlen])
      ((withPort_of_lt hport _).trans (readRegs_of_ready hneeds)) (readBytes_now ..)
  · refine command_replies (m := execPortSummary c s) rfl rfl hadmits (by simp [hlen]) ?_ (summaryBytes_now ..)
    rw [withRegs_of_ready hneeds]
    generalize summaryBytes (List.range 128) s = r
    rfl
  · have h := execPortCounters_answers hadmits hlen hport hset (by omega) hneeds
    rwa [hclear, if_neg (by decide)] at h
  · have h := execPortCounters_answers hadmits hlen hport hset (by omega) hneeds
    rwa [hclear, if_pos rfl] at h
  · exact command_replies (m := execPortPeer c s) rfl rfl hadmits (by simp [hlen])
      ((withPort_of_lt hport _).trans (readRegs_of_ready hneeds)) (readBytes_now ..)
  · refine command_replies (m := execPortFlowctl c s) rfl rfl hadmits (by simp [hlen]) ?_ (by simp)
    simp only [withPort_of_lt hport, hfits, Bool.not_true, if_neg Bool.false_ne_true, withRegs_of_ready hneeds, answerRegs_eq]
  · exact command_replies (m := execPortSublinks c s) rfl rfl hadmits (by simp [hlen])
      ((withPort_of_lt hport _).trans (readRegs_of_ready hneeds)) (readBytes_now ..)
  · exact command_replies (m := execHlStatus c s) rfl rfl hadmits (by simp [hlen])
      ((withLane_of_lt hlane _).trans (readRegs_of_ready hneeds)) (readBytes_now ..)
  · exact command_replies (m := execDiagResult c s) rfl rfl hadmits (by simp [hlen])
      ((withGpair_of_lt hpair _).trans (readRegs_of_ready hneeds)) (readBytes_now ..)

end Sys2Proof.Claims
end

section
/-! SUPPORT. Writes of the bus that reach a configuration field: the commit pass that runs ends first, and with it the command that waits for it (R464). -/
-- the whole text is compiled at once: its threads share one memory limit
set_option Elab.async false
namespace Sys2Proof.Claims
open Sys2Proof Sys2Proof.Machine

/-! ### A write of a register that neither the Porter's doorbells nor a lock guards -/

theorem busWrite_plain {a : Nat} (ha : a ∉ [DBG_PORTER_CTRL, CFG_CHECK_CFG, UNLOCK_KEY, HUB_LOCK]) (m : Master) (v : Nat) (s : State) :
    busWrite m a v noUpdate s = (0, writePlain m a v noUpdate (if isCfgReg a then settleCommits s else s)) := by
  simp only [List.mem_cons, List.not_mem_nil, or_false, not_or] at ha
  obtain ⟨hporter, hcheck, hkey, hlock⟩ := ha
  rw [busWrite, if_neg hporter, writeReg, if_neg hcheck, if_neg hkey, if_neg hlock]

theorem writeWord_plain {a : Nat} (ha : a ∉ [DBG_PORTER_CTRL, CFG_CHECK_CFG, UNLOCK_KEY, HUB_LOCK]) (v : Nat) (s : State) :
    writeWord a v s = writePlain .ring a v noUpdate (if isCfgReg a then settleCommits s else s) := by
  rw [writeWord, busWrite_plain ha]

/-- What a write of a register makes of the state answers no command. -/
theorem writePlain_kept (m : Master) (a v : Nat) (hw : HwUpdate) (s : State) : (writePlain m a v hw s).kept = s.kept :=
  leaves [.free, .regs, .ports, .pairs, .links, .queues, .hosts, .lanes, .laneOf, .tbl, .held, .snr, .erle, .errs, .sigma, .noise, .coef, .seeds,
    .banks, .rows, .tiles, .diags, .maps, .traces, .doms, .cals, .calRuns, .eyes, .completions, .claims, .waiting, .later, .tests, .mram, .gbQueue,
    .highs, .core, .hub, .raised, .out] .kept fun _ _ => keeps_writePlain (keeps_refl _ s)

theorem writePlain_running (m : Master) (a v : Nat) (hw : HwUpdate) (s : State) : (writePlain m a v hw s).running = s.running :=
  leaves [.free, .regs, .ports, .pairs, .links, .queues, .hosts, .lanes, .laneOf, .tbl, .held, .snr, .erle, .errs, .sigma, .noise, .coef, .seeds,
    .banks, .rows, .tiles, .diags, .maps, .traces, .doms, .cals, .calRuns, .eyes, .completions, .claims, .waiting, .later, .tests, .mram, .gbQueue,
    .highs, .core, .hub, .raised, .out] .running fun _ _ => keeps_writePlain (keeps_refl _ s)

/-! ### The commit that runs (R464) -/

/-- The final reply ends the command's stay in its executor. -/
theorem finalReply_running (p : Pkt) (status : Nat) (body : List Nat) (s : State) :
    (finalReply p status body s).running = s.running.filter (fun q => q != p) := by
  have hcount : (countReply p status s).running = s.running.filter (fun q => q != p) := by
    unfold countReply
    split
    · rw [State.inc64_running, leaveExecutor]
    · rw [leaveExecutor]
  cases hno : bit p.call.flags 2 with
  | true =>
    rw [finalReply_of_noReply hno]
    split
    · exact hcount
    · rw [State.inc_running, hcount]
  | false =>
    rw [finalReply_of_reply hno]
    unfold emitReply
    split <;> exact hcount

theorem finalReply_idle {s : State} (hidle : s.running = []) (p : Pkt) (status : Nat) (body : List Nat) : (finalReply p status body s).running = [] := by
  rw [finalReply_running, hidle, List.filter_nil]

/-- A commit pass that no command asked for ends without an answer. -/
theorem endCommit_none_running (cause : Nat) (s : State) : (endCommit cause none s).running = s.running := by
  refine leaves [.free, .regs, .ports, .pairs, .links, .queues, .banks, .tiles, .diags, .doms, .completions, .claims, .waiting, .later, .tests, .raised,
    .hub] .running fun hself hother => ?_
  unfold endCommit
  dsimp only
  have hended := keeps_forEach (F := Within [.free, .regs, .ports, .pairs, .links, .queues, .banks, .tiles, .diags, .doms, .completions, .claims, .waiting,
    .later, .tests, .raised, .hub]) (List.range 9) (fun j s => if segSkipped s j then s else s.setReg (CFG_SEG_REF j) (word (segCrc s j)))
    (keeps_refl _ s) fun j t h => keeps_ite h (keeps_setReg h)
  split
  · exact keeps_forEach _ _ (keeps_raise (keeps_modHub (keeps_setFld (keeps_setFld (keeps_setFld (keeps_setReg hended))))))
      fun _ _ h => keeps_startPort h
  · exact keeps_raise (keeps_modHub (keeps_setFld (keeps_setFld (keeps_setFld (keeps_setReg hended)))))

/-- Where a command waits for the pass, its answer is the last that the pass does. -/
theorem endCommit_answers (cause : Nat) (c : Call) (s : State) : ∃ body : List Nat,
    endCommit cause (some c) s = finalReply (pktOf (endCommit cause none s) 0x0805 c) 0 body (endCommit cause none s) := ⟨_, rfl⟩

theorem nextCommit_kept (s : State) : (nextCommit s).kept = s.kept := by
  unfold nextCommit
  split <;> rfl

theorem pktOf_of_idle {s : State} (hidle : s.running = []) (op : Nat) (c : Call) : (pktOf s op c).call = c := by
  simp [pktOf, hidle]

/-- A write that waits for the commit pass of a command comes after that command's answer. -/
theorem settleCommits_answers {cause : Nat} {c : Call} {s : State} (hcommit : s.hub.commit = some (cause, some c)) (hcommits : s.hub.commits = [])
    (hidle : s.running = []) (hreply : bit c.flags 2 = false) : ∃ k : Kept, (settleCommits s).kept.getLast? = some k ∧ k.pkt.op = 0x0805 := by
  obtain ⟨body, hend⟩ := endCommit_answers cause c s
  have hsettle : settleCommits s = nextCommit (endCommit cause (some c) s) := by
    rw [settleCommits, hcommits]
    show finishCommit s = _
    rw [finishCommit, hcommit]
  have hcall : bit (pktOf (endCommit cause none s) 0x0805 c).call.flags 2 = false := by
    rwa [pktOf_of_idle ((endCommit_none_running cause s).trans hidle)]
  rw [hsettle, nextCommit_kept, hend, finalReply_kept hcall, getLast?_retain]
  exact ⟨_, rfl, pktOf_op ..⟩

/-! ### The packet of a command while registers are written -/

/-- The commands in executors that no commit pass answers. -/
def uncommitted (s : State) : List Pkt := s.running.filter (fun p => p.op != 0x0805)

theorem uncommitted_finalReply {p : Pkt} (hop : p.op = 0x0805) (status : Nat) (body : List Nat) (s : State) :
    uncommitted (finalReply p status body s) = uncommitted s := by
  rw [uncommitted, finalReply_running, List.filter_filter]
  refine List.filter_congr fun q _ => ?_
  cases hq : q.op != 0x0805 with
  | false => rfl
  | true => simp only [Bool.true_and, bne_iff_ne]; rintro rfl; simp [hop] at hq

theorem uncommitted_finishCommit (s : State) : uncommitted (finishCommit s) = uncommitted s := by
  have hnext (t : State) : uncommitted (nextCommit t) = uncommitted t := by
    unfold nextCommit
    split <;> rfl
  unfold finishCommit
  split
  · rfl
  next cause call _ =>
    rw [hnext]
    cases call with
    | none => rw [uncommitted, endCommit_none_running, uncommitted]
    | some c =>
      obtain ⟨body, hend⟩ := endCommit_answers cause c s
      rw [hend, uncommitted_finalReply (pktOf_op ..), uncommitted, endCommit_none_running, uncommitted]

theorem uncommitted_settleCommits (s : State) : uncommitted (settleCommits s) = uncommitted s := by
  unfold settleCommits
  induction List.range (s.hub.commits.length + 1) generalizing s with
  | nil => rfl
  | cons _ xs ih => exact (ih (finishCommit s)).trans (uncommitted_finishCommit s)

theorem uncommitted_writeWord {a : Nat} (ha : a ∉ [DBG_PORTER_CTRL, CFG_CHECK_CFG, UNLOCK_KEY, HUB_LOCK]) (v : Nat) (s : State) :
    uncommitted (writeWord a v s) = uncommitted s := by
  rw [writeWord_plain ha, uncommitted, writePlain_running]
  split
  · exact uncommitted_settleCommits s
  · rfl

/-- The parameters of a command other than COMMIT_CONFIG while registers are written. -/
theorem pktOf_call_congr {s t : State} (h : uncommitted t = uncommitted s) {op : Nat} (hop : op ≠ 0x0805) (c : Call) :
    (pktOf t op c).call = (pktOf s op c).call := by
  have hfind (u : State) : u.running.find? (fun p => p.op == op && p.call.src == c.src && p.call.tag == c.tag) =
      (uncommitted u).find? (fun p => p.op == op && p.call.src == c.src && p.call.tag == c.tag) := by
    rw [uncommitted, List.find?_filter]
    congr 1
    funext p
    cases hp : p.op == op with
    | false => simp
    | true =>
      have hother : (p.op != 0x0805) = true := bne_iff_ne.2 (by rwa [eq_of_beq hp])
      simp only [hother, Bool.true_and, true_and, Bool.decide_eq_true]
  simp only [pktOf, hfind, h]
  split <;> rfl

/-- Two loops whose steps agree where an invariant of theirs holds. -/
theorem forEach_congr_of_inv {α : Type} {f g : α → State → State} {P : State → Prop} {xs : List α} (hstep : ∀ x ∈ xs, ∀ s, P s → f x s = g x s)
    (hinv : ∀ x ∈ xs, ∀ s, P s → P (g x s)) {s : State} (hs : P s) : forEach xs f s = forEach xs g s := by
  induction xs generalizing s with
  | nil => rfl
  | cons x xs ih =>
    show forEach xs f (f x s) = forEach xs g (g x s)
    rw [hstep x List.mem_cons_self s hs]
    exact ih (fun y hy => hstep y (List.mem_cons_of_mem x hy)) (fun y hy => hinv y (List.mem_cons_of_mem x hy)) (hinv x List.mem_cons_self s hs)

end Sys2Proof.Claims
end


section
/-! PROOF. The host lane commands, one clause of the statement after the other (O41). -/
-- the whole text is compiled at once: its threads share one memory limit
set_option Elab.async false
namespace Sys2Proof.Claims
open Sys2Proof Sys2Proof.Machine

@[simp] theorem enableItem_now (on rate h : Nat) (s : State) : (enableItem on rate h s).2.now = s.now :=
  now_of_keeps fun F _ => keeps_enableItem (keeps_refl F s)

@[simp] theorem eyeWords_now (es : List Nat) (k i : Nat) (s : State) : (eyeWords es k i s).2.now = s.now :=
  now_of_keeps fun F _ => keeps_eyeWords (keeps_refl F s)

@[simp] theorem ignoredBy_writeWord_now (f : Fld) (a v : Nat) (s : State) : (ignoredBy f (writeWord a v) s).2.now = s.now :=
  now_of_keeps fun F _ => keeps_ignoredBy (keeps_refl F s) fun _ h => keeps_writeWord h

theorem withGroup_of_lt {p : Pkt} {s : State} (hgroup : u8 p 0 < 8) (run : Nat → State → State) : withGroup p run s = run (u8 p 0) s :=
  if_neg (Nat.not_le.2 hgroup)

/-- A command goes on under the claim that its agent holds (R431). -/
theorem withClaim_of_held {kind res : Nat} {p : Pkt} {cl : Claim} {s : State} (hheld : heldClaim s p.call.src kind res = some cl) (byClaim : Bool)
    (go : Nat → Bool → State → State) : withClaim kind res byClaim p go s = go cl.handle false s := by
  rw [withClaim, hheld]

/-- A long command is accepted while the records have room (R429). -/
theorem longOnly_of_room {s : State} (hroom : recordsFull s = false) (p : Pkt) (go : State → State) : longOnly p go s = go s := by
  rw [longOnly, hroom, if_neg Bool.false_ne_true]

/-! ### HL_EYE_SCAN (R427, R435) -/

/-- The state with the settings of an eye scan in the lane's registers, and its job. -/
def eyeAimed (p : Pkt) (num : Nat) (s : State) : State :=
  aimEye (u8 p 0) ((eyeGrid p).headD (0, 0))
    (((s.setFld (HL_EYE_CTRL.EYE (u8 p 0)) (u8 p 1)).setFld (HL_EYE_CTRL.DWELL (u8 p 0)) (u8 p 7)).modLane (u8 p 0)
      (fun k => { k with eyeJob := num }))

theorem eyeAimed_keeps (p : Pkt) (num : Nat) (s : State) : Keeps (Within [.regs, .lanes]) s (startEye (u8 p 0) (eyeAimed p num s)) :=
  keeps_within _ fun _ _ => keeps_startEye (keeps_aimEye (keeps_modLane (keeps_setFld (keeps_setFld (keeps_refl _ s)))))

theorem eyeAimed_laneState (p : Pkt) (num : Nat) (s : State) : laneState (eyeAimed p num s) (u8 p 0) = laneState s (u8 p 0) := by
  have hstatus : HL_STATUS (u8 p 0) ≠ HL_EYE_CTRL (u8 p 0) := by simp [HL_STATUS, HL_EYE_CTRL]
  simp [laneState, eyeAimed, aimEye, State.fld_setFld_apart, HL_STATUS.STATE, HL_EYE_CTRL.EYE, HL_EYE_CTRL.PHASE, HL_EYE_CTRL.VOFF,
    HL_EYE_CTRL.DWELL, hstatus]

theorem eyeAimed_job (p : Pkt) (num : Nat) (s : State) : ((startEye (u8 p 0) (eyeAimed p num s)).lane (u8 p 0)).eyeJob = num := by
  simp [startEye, eyeAimed, aimEye]

/-- The scan begins on a lane that is on and scans nothing. -/
theorem beginEye_of_idle {p : Pkt} {s : State} (hidle : s.flag (HL_EYE_STATUS.BUSY (u8 p 0)) = false) (hlane : u8 p 0 < 136)
    (hon : laneState s (u8 p 0) ≠ 0) (h : Nat) (owns : Bool) : beginEye p h owns s =
      startEye (u8 p 0) (eyeAimed p (nextJob s) (finalReply p 0 (jobResult (nextJob s) h) (jobBegun p h owns (u8 p 0) 0 (eyeGrid p) s))) := by
  have hstate : laneState (finalReply p 0 (jobResult (nextJob s) h) (jobBegun p h owns (u8 p 0) 0 (eyeGrid p) s)) (u8 p 0) = laneState s (u8 p 0) := by
    have haddr : HL_STATUS (u8 p 0) ≠ MR_CMDS ∧ HL_STATUS (u8 p 0) ≠ MR_CMDS + 4 ∧ HL_STATUS (u8 p 0) ≠ MR_NOREPLY_ERR := by
      simp only [HL_STATUS, MR_CMDS, MR_NOREPLY_ERR, laneBase, mrBase]
      omega
    obtain ⟨hlo, hhi, herr⟩ := haddr
    exact finalReply_fld _ _ _ _ hlo hhi herr
  rw [← hstate, ← eyeAimed_laneState p (nextJob s)] at hon
  simp only [beginEye, abortEye_of_idle hidle, acceptJob_eq]
  exact if_neg hon

theorem execHlEyeScan_begins {c : Call} {cl : Claim} {s : State} (hadmits : Admits 0x0205 inST c s) (hlen : paramLen (pktOf s 0x0205 c) = 8)
    (hok : eyeParamsOk (pktOf s 0x0205 c) = true) (hgrid : (eyeGrid (pktOf s 0x0205 c)).length ≤ 1024) (hroom : recordsFull s = false)
    (hneeds : needs [HL_EYE_STATUS (u8 (pktOf s 0x0205 c) 0)] s = (0, s))
    (hheld : heldClaim s (pktOf s 0x0205 c).call.src 4 (u8 (pktOf s 0x0205 c) 0) = some cl)
    (hidle : s.flag (HL_EYE_STATUS.BUSY (u8 (pktOf s 0x0205 c) 0)) = false) (hon : laneState s (u8 (pktOf s 0x0205 c) 0) ≠ 0) :
    ∃ t : State, exec (.hlEyeScan c) s = .next t ∧ (Answered 0x0205 c 0 (jobResult (nextJob s) cl.handle) s t ∧
      t.flag (HL_EYE_STATUS.BUSY (u8 (pktOf s 0x0205 c) 0)) = true ∧ (t.lane (u8 (pktOf s 0x0205 c) 0)).eyeJob = nextJob s ∧
      ∃ j ∈ t.jobs, j.num = nextJob s ∧ j.op = 0x0205 ∧ j.grid = eyeGrid (pktOf s 0x0205 c)) := by
  have hlane : u8 (pktOf s 0x0205 c) 0 < 136 := by
    simp only [eyeParamsOk, decide_eq_true_eq] at hok
    exact hok.1
  refine command_leaves (m := execHlEyeScan c s) rfl rfl hadmits (by simp [hlen]) ?_
  simp only [hok, Bool.not_true, if_neg Bool.false_ne_true, if_neg (Nat.not_lt.2 hgrid), longOnly_of_room hroom, withRegs_of_ready hneeds,
    withClaim_of_held hheld, beginEye_of_idle hidle hlane hon]
  obtain ⟨-, -, -, -, -, hreply⟩ := hadmits
  have hkeeps := eyeAimed_keeps (pktOf s 0x0205 c) (nextJob s) (finalReply (pktOf s 0x0205 c) 0 (jobResult (nextJob s) cl.handle)
    (jobBegun (pktOf s 0x0205 c) cl.handle false (u8 (pktOf s 0x0205 c) 0) 0 (eyeGrid (pktOf s 0x0205 c)) s))
  refine ⟨?_, (startEye_shows _ _).1, eyeAimed_job .., ?_⟩
  · have hanswered := answered_finalReply hreply (jobBegun_now (pktOf s 0x0205 c) cl.handle false (u8 (pktOf s 0x0205 c) 0) 0
      (eyeGrid (pktOf s 0x0205 c)) s) 0 (jobResult (nextJob s) cl.handle)
    exact (congrArg List.getLast? (hkeeps.stands .kept)).trans hanswered
  · obtain ⟨hreplied, -⟩ := onlyReplied_finalReply (pktOf s 0x0205 c) 0 (jobResult (nextJob s) cl.handle)
      (jobBegun (pktOf s 0x0205 c) cl.handle false (u8 (pktOf s 0x0205 c) 0) 0 (eyeGrid (pktOf s 0x0205 c)) s)
    have hbegun : _ = _ := hreplied .jobs (by decide)
    have hjobs : _ = _ := hkeeps.stands .jobs
    rw [hjobs, hbegun, jobBegun_jobs]
    exact ⟨_, List.mem_append_right _ List.mem_cons_self, rfl, pktOf_op s _ c, rfl⟩

/-! ### The other host lane commands (R435) -/

theorem execHlFfe_answers {c : Call} {s : State} (hadmits : Admits 0x0202 inST c s) (hlen : paramLen (pktOf s 0x0202 c) = 4) {h : Nat}
    (hlane : u8 (pktOf s 0x0202 c) 0 < 136) (hh : u8 (pktOf s 0x0202 c) 0 = h) {fvs : List (Fld × Nat)}
    (hfvs : [(HL_TX_FFE.PRE h, u8 (pktOf s 0x0202 c) 1), (HL_TX_FFE.POST h, u8 (pktOf s 0x0202 c) 2), (HL_TX_FFE.AMP h, u8 (pktOf s 0x0202 c) 3)] = fvs)
    (hfits : fits fvs = true) (hneeds : needs [HL_TX_FFE h, HL_STATUS h] s = (0, s)) {r : List Nat × State}
    (hr : readBytes [HL_TX_FFE h] (putFields (HL_TX_FFE h) fvs s) = r) : ∃ t : State, exec (.hlFfe c) s = .next t ∧
      Answered 0x0202 c 0 (r.1 ++ [r.2.fld (HL_STATUS.FFE_CLAMPED h), 0, 0, 0]) s t ∧ OnlyReplied r.2 t := by
  subst hh hfvs hr
  refine command_replies (m := execHlFfe c s) rfl rfl hadmits (by simp [hlen]) ?_ (by simp)
  simp only [withLane_of_lt hlane, hfits, Bool.not_true, if_neg Bool.false_ne_true, withRegs_of_ready hneeds]
  generalize readBytes _ _ = read
  rfl

theorem prbs_plain {h i : Nat} (hlane : h < 136) (hi : i < 5) :
    HL_PRBS_CTRL h ∉ [DBG_PORTER_CTRL, CFG_CHECK_CFG, UNLOCK_KEY, HUB_LOCK] ∧
      HL_PRBS_USER h i ∉ [DBG_PORTER_CTRL, CFG_CHECK_CFG, UNLOCK_KEY, HUB_LOCK] := by
  simp only [List.mem_cons, List.not_mem_nil, or_false]
  unfold HL_PRBS_CTRL HL_PRBS_USER laneBase DBG_PORTER_CTRL dbgBase CFG_CHECK_CFG UNLOCK_KEY HUB_LOCK hubBase
  omega

theorem uncommitted_putFields {a : Nat} (ha : a ∉ [DBG_PORTER_CTRL, CFG_CHECK_CFG, UNLOCK_KEY, HUB_LOCK]) (fvs : List (Fld × Nat)) (s : State) :
    uncommitted (putFields a fvs s) = uncommitted s := by
  unfold putFields
  split
  · rfl
  · exact uncommitted_writeWord ha _ s

/-- The user pattern of HL_PRBS, word by word: the command's packet is the same all along. -/
theorem prbsUser_eq {c : Call} {s u : State} (hlane : u8 (pktOf s 0x0207 c) 0 < 136) (hu : uncommitted u = uncommitted s) :
    forEach (List.range 5) (fun i t => writeWord (HL_PRBS_USER (u8 (pktOf t 0x0207 c) 0) i) (u32 (pktOf t 0x0207 c) (6 + 4 * i)) t) u =
      forEach (List.range 5) (fun i t => writeWord (HL_PRBS_USER (u8 (pktOf s 0x0207 c) 0) i) (u32 (pktOf s 0x0207 c) (6 + 4 * i)) t) u := by
  refine forEach_congr_of_inv (P := fun t => uncommitted t = uncommitted s) (fun i _ t ht => ?_) (fun i hi t ht => ?_) hu
  · simp only [u8, u32, pktOf_call_congr ht (by decide : 0x0207 ≠ 0x0805)]
  · exact (uncommitted_writeWord (prbs_plain hlane (List.mem_range.1 hi)).2 _ t).trans ht

/-- Settles O41, clause by clause: each command passes the gate and its parameters' ranges, and ends in its final reply. -/
theorem hostLaneCommandsAnswer : Obligations.HostLaneCommandsAnswer := by
  refine ⟨fun c s hadmits hlen hon hrate => ?_, fun c s hadmits hlen hlane hfits hneeds => ?_, fun c s hadmits hlen hgroup hfits hneeds => ?_,
    fun c s hadmits hlen hgroup hlo hhi hspare hneeds => ?_, fun _ _ _ => execHlEyeScan_begins,
    fun c points es s hadmits hlen heye hlo hhi hin => ?_, fun c cl s hadmits hlen hlane htx hrx htxpat hrxpat hneeds hheld => ?_,
    fun c s hadmits hlen hlane hclear hneeds => ?_, fun c s hadmits hlen hlane hlo hhi htx hneeds => ?_⟩
  · have hok : ¬(1 < u8 (pktOf s 0x0200 c) 17 ∨ (1 < u8 (pktOf s 0x0200 c) 18 ∧ u8 (pktOf s 0x0200 c) 18 ≠ 0xFF)) := by omega
    exact command_replies (m := execHlEnable c s) rfl rfl hadmits (by simp [hlen]) ((if_neg hok).trans (multi_eq ..))
      (doItems_now (enableItem_now _ _) ..)
  · exact execHlFfe_answers hadmits hlen hlane rfl rfl hfits hneeds rfl
  · refine command_replies (m := execHlSpareSet c s) rfl rfl hadmits (by simp [hlen]) ?_ (by simp)
    simp only [withGroup_of_lt hgroup, hfits, Bool.not_true, if_neg Bool.false_ne_true, withRegs_of_ready hneeds, answerRegs_eq]
  · refine command_replies (m := execHlSpareAct c s) rfl rfl hadmits (by simp [hlen]) ?_ (by simp)
    have hok : ¬(u8 (pktOf s 0x0204 c) 1 < 1 ∨ 3 < u8 (pktOf s 0x0204 c) 1 ∨ (u8 (pktOf s 0x0204 c) 1 = 1 ∧ 15 < u8 (pktOf s 0x0204 c) 2)) := by
      omega
    simp only [withGroup_of_lt hgroup, if_neg hok, withRegs_of_ready hneeds]
    generalize ignoredBy _ _ s = rung
    obtain ⟨ignored, u⟩ := rung
    generalize readBytes _ u = read
    rfl
  · refine command_replies (m := execHlEyeResult c s) rfl rfl hadmits (by simp [hlen]) ?_ (eyeWords_now ..)
    have hok : ¬(u16 (pktOf s 0x0206 c) 4 < 1 ∨ 255 < u16 (pktOf s 0x0206 c) 4 ∨
        points < u16 (pktOf s 0x0206 c) 2 + u16 (pktOf s 0x0206 c) 4) := by omega
    simp only [heye, if_neg hok]
    generalize eyeWords _ _ _ s = read
    rfl
  · rw [prbsUser_eq hlane (uncommitted_putFields (prbs_plain hlane (by decide : 0 < 5)).1 _ s)]
    refine command_replies (m := execHlPrbs c s) rfl rfl hadmits (by simp [hlen]) ?_ (by simp [forEach_now])
    have hok : ¬(1 < u8 (pktOf s 0x0207 c) 1 ∨ 1 < u8 (pktOf s 0x0207 c) 2 ∨ 3 < u8 (pktOf s 0x0207 c) 3 ∨ 3 < u8 (pktOf s 0x0207 c) 4) := by
      omega
    have hon : ¬(u8 (pktOf s 0x0207 c) 1 = 0 ∧ u8 (pktOf s 0x0207 c) 2 = 0 ∧ (!prbsForeign s (pktOf s 0x0207 c)) = true) := by omega
    simp only [withLane_of_lt hlane, if_neg hok, withRegs_of_ready hneeds, if_neg hon, withClaim_of_held hheld, beginPrbs, Bool.false_eq_true,
      false_and, if_false, answerRegs_eq]
  · refine command_replies (m := execHlPrbsRead c s) rfl rfl hadmits (by simp [hlen]) ?_ (by split <;> simp)
    simp only [withLane_of_lt hlane, if_neg (Nat.not_lt.2 hclear), withRegs_of_ready hneeds]
    generalize readBytes _ s = read
    rfl
  · refine command_replies (m := execHlPrbsInject c s) rfl rfl hadmits (by simp [hlen]) ?_ (by simp)
    have hok : ¬(u8 (pktOf s 0x0209 c) 1 < 1 ∨ 2 < u8 (pktOf s 0x0209 c) 1 ∨ (!s.flag (HL_PRBS_CTRL.TX_EN (u8 (pktOf s 0x0209 c) 0))) = true) := by
      rw [htx]
      simp
      omega
    simp only [withLane_of_lt hlane, if_neg hok, withRegs_of_ready hneeds, answer]

end Sys2Proof.Claims
end

section
/-! PROOF. DIAG_REFLECT answers its job before it writes DIAG_CFG, which ends a commit pass that runs: the answer of COMMIT_CONFIG is the newest that is
retained (O42). -/
-- the whole text is compiled at once: its threads share one memory limit
set_option Elab.async false
namespace Sys2Proof.Claims
open Sys2Proof Sys2Proof.Machine

/-- The word that a command writes to a register to set some of its fields. -/
def fieldsWord (a : Nat) (fvs : List (Fld × Nat)) (s : State) : Nat := fvs.foldl (fun w x => insertBits w x.1.hi x.1.lo x.2) (keepWord s a)

theorem putFields_of_ne_nil (a : Nat) {fvs : List (Fld × Nat)} (hfvs : fvs ≠ []) (s : State) : putFields a fvs s = writeWord a (fieldsWord a fvs s) s := by
  rw [putFields, if_neg (by simpa using hfvs), fieldsWord]

theorem reflectEnds_kept (num why tile port g : Nat) (busy started : Bool) (f : DiagSt → DiagSt) (s : State) :
    (if busy then finishJob num 0x0B 3 tile port s else if started then s.modDiag g f else finishJob num 0x0B why tile port s).kept = s.kept := by
  split
  · exact (finishJob_keeps ..).stands .kept
  · split
    · rfl
    · exact (finishJob_keeps ..).stands .kept

/-- What DIAG_REFLECT writes to DIAG_CFG. -/
def reflectFields (p : Pkt) : List (Fld × Nat) := [(DIAG_CFG.LENGTH (portOf (u16 p 0)), u16 p 6)] ++
  (if u16 p 8 = 0 then [] else [(DIAG_CFG.DELAY_PS_M (portOf (u16 p 0)), u16 p 8)])

def reflectControl (p : Pkt) : Nat := 2 ^ 31 + u8 p 2 * 2 ^ 16 + u8 p 3 * 2 ^ 8 + u8 p 4

/-- The state in which DIAG_REFLECT has written DIAG_CFG, and that in which it has written DIAG_CTRL. -/
def reflectAimed (p : Pkt) (h : Nat) (s : State) : State := putFields (DIAG_CFG (portOf (u16 p 0))) (reflectFields p)
  (finalReply p 0 (jobResult (nextJob s) h) (jobBegun p h false (u16 p 0) 0 [] s))

def reflectWritten (p : Pkt) (h : Nat) (s : State) : State :=
  writeWord (DIAG_CTRL (portOf (u16 p 0)) (pairOf (u16 p 0))) (reflectControl p) (reflectAimed p h s)

theorem beginReflect_eq (p : Pkt) (h : Nat) (owns : Bool) (s : State) : beginReflect p h owns s =
    (if (reflectAimed p h s).flag (DIAG_STATUS.BUSY (portOf (u16 p 0)) (pairOf (u16 p 0)))
      then finishJob (nextJob s) 0x0B 3 (pairTile (u16 p 0)) (portOf (u16 p 0)) (reflectWritten p h s)
    else if (reflectWritten p h s).flag (DIAG_STATUS.BUSY (portOf (u16 p 0)) (pairOf (u16 p 0)))
      then (reflectWritten p h s).modDiag (u16 p 0) (fun d => { d with job := nextJob s })
    else finishJob (nextJob s) 0x0B ((reflectWritten p h s).fld (DIAG_STATUS.REASON (portOf (u16 p 0)) (pairOf (u16 p 0)))) (pairTile (u16 p 0))
      (portOf (u16 p 0)) (reflectWritten p h s)) := rfl

/-- The end of DIAG_REFLECT gives no further answer. -/
theorem beginReflect_kept (p : Pkt) (h : Nat) (owns : Bool) (s : State) : ∃ w : Nat, (beginReflect p h owns s).kept =
    (writeWord (DIAG_CTRL (portOf (u16 p 0)) (pairOf (u16 p 0))) (reflectControl p)
      (writeWord (DIAG_CFG (portOf (u16 p 0))) w (finalReply p 0 (jobResult (nextJob s) h) (jobBegun p h false (u16 p 0) 0 [] s)))).kept := by
  refine ⟨fieldsWord (DIAG_CFG (portOf (u16 p 0))) (reflectFields p)
    (finalReply p 0 (jobResult (nextJob s) h) (jobBegun p h false (u16 p 0) 0 [] s)), ?_⟩
  rw [beginReflect_eq, reflectEnds_kept, reflectWritten, reflectAimed, putFields_of_ne_nil _ (by simp [reflectFields])]

def reflectCall : Call := ⟨0, 0x80, 1, 0, [0, 0, 1, 1, 4, 0, 100, 0, 0, 0]⟩

def commitCall : Call := ⟨0, 0x80, 2, 0, []⟩

/-- The claim on pair 0 of port 0 for cable diagnostics. -/
def pairClaim : Claim := ⟨7, 3, 0, some 0, 0x80, true⟩

/-- TRAFFIC, READY, the domains of pair 0 awake, its claim held, and a commit pass running that COMMIT_CONFIG asked for. -/
def commitRuns : State :=
  { (forEach [0x020, 0x040, 0x050, 0x200, 0x400] (fun id s => s.modDom id (fun d => { d with state := 3, awake := true }))
      (((State.reset.setFld PWR_PHASE.READY 1).setFld PWR_PHASE.PHASE 2).setFld PWR_PHASE.BOOT_STEP 9)).modHub
        (fun h => { h with commit := some (1, some commitCall) }) with claims := [pairClaim] }

set_option maxRecDepth 20000 in
theorem commitRuns_admits : Admits 0x0300 inST reflectCall commitRuns ∧ recordsFull commitRuns = false ∧
    needs [DIAG_CFG (portOf (u16 (pktOf commitRuns 0x0300 reflectCall) 0)),
      DIAG_STATUS (portOf (u16 (pktOf commitRuns 0x0300 reflectCall) 0)) (pairOf (u16 (pktOf commitRuns 0x0300 reflectCall) 0))] commitRuns =
        (0, commitRuns) ∧
    heldClaim commitRuns (pktOf commitRuns 0x0300 reflectCall).call.src 3 (u16 (pktOf commitRuns 0x0300 reflectCall) 0) = some pairClaim := by
  decide +kernel

set_option maxRecDepth 20000 in
theorem reflectCall_params : paramLen (pktOf commitRuns 0x0300 reflectCall) = 10 ∧ u16 (pktOf commitRuns 0x0300 reflectCall) 0 = 0 ∧
    u8 (pktOf commitRuns 0x0300 reflectCall) 2 ≤ 3 ∧ u8 (pktOf commitRuns 0x0300 reflectCall) 3 ≤ 1 ∧
    u8 (pktOf commitRuns 0x0300 reflectCall) 4 ≤ 15 := by
  decide +kernel

theorem diagCfg_isCfgReg : isCfgReg (DIAG_CFG (portOf 0)) = true := by decide +kernel

theorem diagCtrl_not_isCfgReg : isCfgReg (DIAG_CTRL (portOf 0) (pairOf 0)) = false := by decide +kernel

/-- After DIAG_REFLECT the newest retained reply is that of COMMIT_CONFIG. -/
theorem beginReflect_answers_commit {p : Pkt} (hpair : u16 p 0 = 0) (h : Nat) :
    ∃ k : Kept, (beginReflect p h false commitRuns).kept.getLast? = some k ∧ k.pkt.op = 0x0805 := by
  obtain ⟨w, hkept⟩ := beginReflect_kept p h false commitRuns
  rw [hpair, writeWord_plain (by decide), diagCtrl_not_isCfgReg, if_neg Bool.false_ne_true, writePlain_kept,
    writeWord_plain (by decide), diagCfg_isCfgReg, if_pos rfl, writePlain_kept] at hkept
  rw [hkept]
  have hhub : (finalReply p 0 (jobResult (nextJob commitRuns) h) (jobBegun p h false (u16 p 0) 0 [] commitRuns)).hub = _ :=
    (onlyReplied_finalReply ..).1 .hub (by decide)
  rw [hpair] at hhub
  exact settleCommits_answers (by rw [hhub]; rfl) (by rw [hhub]; rfl) (finalReply_idle rfl _ _ _) rfl

/-- Refutes O42: DIAG_REFLECT under a claim that its agent holds, while a commit pass runs that COMMIT_CONFIG waits for. -/
theorem not_diagnosticCommandsAnswer : ¬ Obligations.DiagnosticCommandsAnswer := by
  intro hall
  obtain ⟨hreflect, -⟩ := hall
  obtain ⟨hadmits, hroom, hneeds, hheld⟩ := commitRuns_admits
  obtain ⟨hlen, hpair, hlevel, hcross, havg⟩ := reflectCall_params
  have hrange : u16 (pktOf commitRuns 0x0300 reflectCall) 0 < 512 := by omega
  have hok : ¬(3 < u8 (pktOf commitRuns 0x0300 reflectCall) 2 ∨ 1 < u8 (pktOf commitRuns 0x0300 reflectCall) 3 ∨
      15 < u8 (pktOf commitRuns 0x0300 reflectCall) 4) := by omega
  obtain ⟨t, ht, hanswered, -⟩ := hreflect reflectCall pairClaim commitRuns hadmits hlen hrange hlevel hcross havg hroom hneeds hheld
  obtain ⟨u, hu, hrun⟩ := command_leaves (o := exec (.diagReflect reflectCall) commitRuns)
    (P := (· = beginReflect (pktOf commitRuns 0x0300 reflectCall) pairClaim.handle false commitRuns))
    (m := execDiagReflect reflectCall commitRuns) rfl rfl hadmits (by simp [hlen])
    (by simp only [withGpair_of_lt hrange, if_neg hok, longOnly_of_room hroom, withRegs_of_ready hneeds, withClaim_of_held hheld])
  obtain rfl : t = u := by simpa [ht] using hu
  obtain ⟨k, hlast, hop⟩ := beginReflect_answers_commit hpair pairClaim.handle
  rw [Answered, hrun, hlast, Option.some.injEq] at hanswered
  rw [hanswered, pktOf_op] at hop
  exact absurd hop (by decide)

end Sys2Proof.Claims
end

section
/-! SUPPORT. Writes of the MRAM: what they count, and what they leave (R501, R505, R508). -/
-- the whole text is compiled at once: its threads share one memory limit
set_option Elab.async false
namespace Sys2Proof.Claims
open Sys2Proof Sys2Proof.Machine

theorem putBytes_regs (a : Nat) (bs : List Nat) (s : State) : (putBytes a bs s).regs = s.regs :=
  leaves [.mram] .regs fun _ _ => keeps_putBytes (keeps_refl _ s)

/-- A write of bytes counts words written, and no more. -/
theorem reg_nvPut_other {x : Nat} (a : Nat) (bs : List Nat) (s : State) (hlo : x ≠ NV_WORDS_WRITTEN) (hhi : x ≠ NV_WORDS_WRITTEN + 4) :
    (nvPut a bs s).reg x = s.reg x := by
  unfold nvPut
  split
  · rfl
  · rw [State.reg_add64_other _ _ _ _ hlo hhi, State.reg_congr _ _ (putBytes_regs ..)]

/-- A header written is one commit (R505). -/
theorem commitBank_commits (part b len crc fmt : Nat) (s : State) :
    (commitBank part b len crc fmt s).2.reg NV_COMMITS = s.reg NV_COMMITS + 1 := by
  simp only [commitBank]
  rw [State.raise_reg, State.inc, State.reg_setReg_same, reg_nvPut_other _ _ _ (by decide) (by decide)]

theorem writePartition_commits (part : Nat) (body : List Nat) (s : State) :
    (writePartition part body s).2.reg NV_COMMITS = s.reg NV_COMMITS + 1 := by
  simp only [writePartition]
  rw [commitBank_commits, invalidate, reg_nvPut_other _ _ _ (by decide) (by decide), reg_nvPut_other _ _ _ (by decide) (by decide)]

theorem writePartition_keeps (part : Nat) (body : List Nat) (s : State) : Keeps (Within [.regs, .mram, .raised]) s (writePartition part body s).2 :=
  keeps_within _ fun _ _ => keeps_writePartition (keeps_refl _ s)

/-- No word of the write fails to read back. -/
theorem nvFails_nil (part bank lo hi : Nat) (s : State) : nvFails part bank lo hi [] s = s := rfl

/-- A command that writes the MRAM begins while REFCLK is qualified (R348). -/
theorem whenQual_of_qualified {s : State} (hqual : s.flag CLK_STATUS.REF_QUAL = true) (p : Pkt) (go : State → State) : whenQual p go s = go s :=
  if_pos hqual

end Sys2Proof.Claims
end

section
/-! PROOF. The calibration and power commands, one clause of the statement after the other (O43). -/
-- the whole text is compiled at once: its threads share one memory limit
set_option Elab.async false
namespace Sys2Proof.Claims
open Sys2Proof Sys2Proof.Machine

@[simp] theorem eeiItem_now (p : Pkt) (n : Nat) (s : State) : (eeiItem p n s).2.now = s.now :=
  now_of_keeps fun F _ => keeps_eeiItem (keeps_refl F s)

theorem withItem_of_valid {p : Pkt} {s : State} (hvalid : calValid (u8 p 0) (u16 p 2) = true) (run : Nat → Nat → State → State) :
    withItem p run s = run (u8 p 0) (u16 p 2) s := if_pos hvalid

/-- CAL_RUN under a claim: the item-target is asked for by the job (R437, R490). -/
theorem execCalRun_asks {c : Call} {cl : Claim} {s : State} (hadmits : Admits 0x0400 inST c s) (hlen : paramLen (pktOf s 0x0400 c) = 4)
    (hvalid : calValid (u8 (pktOf s 0x0400 c) 0) (u16 (pktOf s 0x0400 c) 2) = true) (hroom : recordsFull s = false)
    (hheld : heldClaim s (pktOf s 0x0400 c).call.src 2 (calRes (u8 (pktOf s 0x0400 c) 0) (u16 (pktOf s 0x0400 c) 2)) = some cl) :
    ∃ t : State, exec (.calRun c) s = .next t ∧ (Answered 0x0400 c 0 (jobResult (nextJob s) cl.handle) s t ∧
      nextJob s ∈ (t.cal (u8 (pktOf s 0x0400 c) 0) (u16 (pktOf s 0x0400 c) 2)).asked ∧
      ∃ j ∈ t.jobs, j.num = nextJob s ∧ j.op = (pktOf s 0x0400 c).op ∧ j.handle = cl.handle) := by
  refine command_leaves (m := execCalRun c s) rfl rfl hadmits (by simp [hlen]) ?_
  simp only [withItem_of_valid hvalid, longOnly_of_room hroom, withClaim_of_held hheld, beginCal, acceptJob_eq]
  obtain ⟨-, -, -, -, -, hreply⟩ := hadmits
  have hanswered := answered_finalReply hreply (jobBegun_now (pktOf s 0x0400 c) cl.handle false (calRes (u8 (pktOf s 0x0400 c) 0)
    (u16 (pktOf s 0x0400 c) 2)) 0 [] s) 0 (jobResult (nextJob s) cl.handle)
  obtain ⟨hkinds, -⟩ := onlyReplied_finalReply (pktOf s 0x0400 c) 0 (jobResult (nextJob s) cl.handle) (jobBegun (pktOf s 0x0400 c) cl.handle false
    (calRes (u8 (pktOf s 0x0400 c) 0) (u16 (pktOf s 0x0400 c) 2)) 0 [] s)
  have hjobs : _ = _ := hkinds .jobs (by decide)
  rw [jobBegun_jobs] at hjobs
  generalize finalReply _ _ _ _ = u at hanswered hjobs ⊢
  refine ⟨hanswered, ?_, ?_⟩
  · rw [State.cal_modCal]
    exact List.mem_append_right _ List.mem_cons_self
  · rw [State.modCal_jobs, hjobs]
    exact ⟨_, List.mem_append_right _ List.mem_cons_self, rfl, rfl, rfl⟩

/-! ### CAL_SAVE (R437, R496) -/

/-- The body that CAL_SAVE writes, two free values. -/
def calBody (u : State) : List Nat := bytesLsb 4 u.draw.1 ++ bytesLsb 4 u.draw.2.draw.1

/-- The state in which the calibrations are at hand. -/
def calsTaken (u : State) : State := { u.draw.2.draw.2 with calSaved := (calBody u, savedCals u) :: u.calSaved }

theorem calsTaken_reg (u : State) (a : Nat) : (calsTaken u).reg a = u.reg a := rfl

/-- The state in which CAL_SAVE has been accepted. -/
def calSaveAccepted (p : Pkt) (h : Nat) (owns : Bool) (s : State) : State :=
  finalReply p 0 (jobResult (nextJob s) h) (jobBegun p h owns 2 0 [] s)

theorem beginCalSave_eq (p : Pkt) (h : Nat) (owns : Bool) (s : State) : beginCalSave [] p h owns s = finishJob (nextJob s) 0
    (writePartition 2 (calBody (calSaveAccepted p h owns s)) (calsTaken (calSaveAccepted p h owns s))).1 8 2
    (writePartition 2 (calBody (calSaveAccepted p h owns s)) (calsTaken (calSaveAccepted p h owns s))).2 := by
  simp only [beginCalSave, acceptJob_eq, nvFails_nil]
  rfl

/-- What CAL_SAVE leaves besides its job: the reply, the calibrations and one commit. -/
theorem calSaved_leaves (num : Nat) (body : List Nat) (u : State) :
    let t := finishJob num 0 (writePartition 2 body (calsTaken u)).1 8 2 (writePartition 2 body (calsTaken u)).2
    t.kept = u.kept ∧ t.calSaved.map (fun x => x.2) = savedCals u :: u.calSaved.map (fun x => x.2) ∧ t.reg NV_COMMITS = u.reg NV_COMMITS + 1 := by
  have hwritten := writePartition_keeps 2 body (calsTaken u)
  have hfinished := finishJob_keeps num 0 (writePartition 2 body (calsTaken u)).1 8 2 (writePartition 2 body (calsTaken u)).2
  have hkept : _ = _ := hfinished.stands .kept
  have hkept' : _ = _ := hwritten.stands .kept
  have hsaved : _ = _ := hfinished.stands .calSaved
  have hsaved' : _ = _ := hwritten.stands .calSaved
  refine ⟨hkept.trans hkept', ?_, ?_⟩
  · rw [hsaved, hsaved']
    rfl
  · rw [reg_finishJob_other _ _ _ _ _ _ (by decide), writePartition_commits, calsTaken_reg]

theorem execCalSave_saves {c : Call} {cl : Claim} {s : State} (hadmits : Admits 0x0403 inST c s) (hlen : paramLen (pktOf s 0x0403 c) = 0)
    (hroom : recordsFull s = false) (hqual : s.flag CLK_STATUS.REF_QUAL = true) (hheld : heldClaim s (pktOf s 0x0403 c).call.src 7 2 = some cl) :
    ∃ t : State, exec (.calSave c []) s = .next t ∧ (Answered 0x0403 c 0 (jobResult (nextJob s) cl.handle) s t ∧
      t.calSaved.map (fun x => x.2) = savedCals s :: s.calSaved.map (fun x => x.2) ∧ t.reg NV_COMMITS = s.reg NV_COMMITS + 1) := by
  refine command_leaves (m := execCalSave c [] s) rfl rfl hadmits (by simp [hlen]) ?_
  rw [longOnly_of_room hroom, whenQual_of_qualified hqual, withClaim_of_held hheld, beginCalSave_eq]
  obtain ⟨-, -, -, -, -, hreply⟩ := hadmits
  have hanswered := answered_finalReply hreply (jobBegun_now (pktOf s 0x0403 c) cl.handle false 2 0 [] s) 0 (jobResult (nextJob s) cl.handle)
  obtain ⟨hkinds, -⟩ := onlyReplied_finalReply (pktOf s 0x0403 c) 0 (jobResult (nextJob s) cl.handle) (jobBegun (pktOf s 0x0403 c) cl.handle false 2 0 [] s)
  have hcals : (calSaveAccepted (pktOf s 0x0403 c) cl.handle false s).cals = s.cals := hkinds .cals (by decide)
  have hsaved : (calSaveAccepted (pktOf s 0x0403 c) cl.handle false s).calSaved = s.calSaved := hkinds .calSaved (by decide)
  have hreg : (calSaveAccepted (pktOf s 0x0403 c) cl.handle false s).reg NV_COMMITS = s.reg NV_COMMITS :=
    finalReply_reg _ _ _ _ (by decide) (by decide) (by decide)
  obtain ⟨hkept, hmap, hcommits⟩ := calSaved_leaves (nextJob s) (calBody (calSaveAccepted (pktOf s 0x0403 c) cl.handle false s))
    (calSaveAccepted (pktOf s 0x0403 c) cl.handle false s)
  refine ⟨(congrArg List.getLast? hkept).trans hanswered, ?_, hcommits.trans (by rw [hreg])⟩
  rw [hmap, savedCals, hcals, hsaved, savedCals]

/-- Settles O43, clause by clause: each command passes the gate and its parameters' ranges, and ends in its final reply. -/
theorem calibrationAndPowerCommandsAnswer : Obligations.CalibrationAndPowerCommandsAnswer := by
  refine ⟨fun _ _ _ => execCalRun_asks, fun c s hadmits hlen hvalid hreport => ?_, fun c s hadmits hlen hvalid hreport => ?_,
    fun c s hadmits hlen hfits hrange => ?_, fun c fails cl s hadmits hlen hroom hqual hheld hfails => ?_, fun c s hadmits hlen hfits => ?_,
    fun c s hadmits hlen => ?_, fun c s hadmits hlen hdom hreq => ?_, fun c s hadmits hlen hfits => ?_, fun c s hadmits hlen => ?_⟩
  · refine command_replies (m := execCalStatus c s) rfl rfl hadmits (by simp [hlen]) ?_ rfl
    simp only [withItem_of_valid hvalid, hreport, if_true, answer]
  · refine command_replies (m := execCalStatus c s) rfl rfl hadmits (by simp [hlen]) ?_ rfl
    simp only [withItem_of_valid hvalid, hreport, if_neg Bool.false_ne_true, answer]
  · refine command_replies (m := execCalCfg c s) rfl rfl hadmits (by simp [hlen]) ?_ (putFields_now ..)
    have hok : ¬(bit (u8 (pktOf s 0x0402 c) 0) 2 = true ∧ (u16 (pktOf s 0x0402 c) 4 < 5 ∨ 200 < u16 (pktOf s 0x0402 c) 4)) := by
      rintro ⟨hdtemp, hout⟩
      have hin := hrange hdtemp
      omega
    simp only [hfits, Bool.not_true, Bool.false_eq_true, false_or, if_neg hok, answer]
  · subst hfails
    exact execCalSave_saves hadmits hlen hroom hqual hheld
  · refine command_replies (m := execEeiSet c s) rfl rfl hadmits (by simp [hlen]) ?_ (doItems_now (eeiItem_now _) ..)
    simp only [hfits, Bool.not_true, if_neg Bool.false_ne_true, multi_eq]
  · exact command_replies (m := execEeiWake c s) rfl rfl hadmits (by simp [hlen]) rfl
      (forEach_now (fun n t => forEach_now (fun l u => now_of_keeps fun F _ => keeps_showLink (keeps_wakeCause (keeps_refl F u))) _ _) _ _)
  · refine command_replies (m := execPwrDomain c s) rfl rfl hadmits (by simp [hlen]) ?_ (ignoredBy_writeWord_now ..)
    have hok : ¬(0xFFF < u16 (pktOf s 0x0502 c) 0 ∨ 2 < u8 (pktOf s 0x0502 c) 2) := by omega
    simp only [if_neg hok]
    generalize ignoredBy _ _ s = rung
    rfl
  · refine command_replies (m := execPwrAvs c s) rfl rfl hadmits (by simp [hlen]) ?_ (by simp)
    simp only [hfits, Bool.not_true, if_neg Bool.false_ne_true]
    generalize readBytes _ _ = read
    rfl
  · exact command_replies (m := execPwrStatus c s) rfl rfl hadmits (by simp [hlen]) (answerRegs_eq ..) (readBytes_now ..)

end Sys2Proof.Claims
end

section
/-! PROOF. The MRAM and Guestbook commands, one clause of the statement after the other (O44). -/
-- the whole text is compiled at once: its threads share one memory limit
set_option Elab.async false
namespace Sys2Proof.Claims
open Sys2Proof Sys2Proof.Machine

@[simp] theorem invalidate_now (part b : Nat) (s : State) : (invalidate part b s).now = s.now :=
  now_of_keeps fun F _ => keeps_invalidate (keeps_refl F s)

@[simp] theorem nvPut_now (a : Nat) (bs : List Nat) (s : State) : (nvPut a bs s).now = s.now :=
  now_of_keeps fun F _ => keeps_nvPut (keeps_refl F s)

@[simp] theorem closeNv_now (o : NvOpen) (s : State) : (closeNv o s).now = s.now :=
  now_of_keeps fun F _ => keeps_closeNv (keeps_refl F s)

@[simp] theorem gbClear_now (s : State) : (gbClear s).2.now = s.now :=
  now_of_keeps fun F _ => keeps_gbClear (keeps_refl F s)

theorem withPart_of_lt {p : Pkt} {s : State} (hpart : u8 p 0 < 4) (run : Nat → State → State) : withPart p run s = run (u8 p 0) s :=
  if_neg (Nat.not_le.2 hpart)

/-- A command on the open write of its agent, whose claim is held (R439). -/
theorem withOpen_of_open {p : Pkt} {o : NvOpen} {s : State} (hopen : s.nvOpen.find? (fun o => o.part == u8 p 0) = some o)
    (hclaim : s.claims.any (fun x => x.handle == o.handle) = true) (hsrc : o.src = p.call.src) (run : NvOpen → State → State) :
    withOpen p run s = run o s := by
  simp only [withOpen, hopen, hclaim, Bool.not_true, if_neg Bool.false_ne_true, if_neg (not_not_intro hsrc)]

theorem nvBytes_congr {s t : State} (h : t.mram = s.mram) (a count : Nat) : nvBytes t a count = nvBytes s a count := by
  simp only [nvBytes, State.nvByte, h]

/-! ### The open write is closed (R439) -/

theorem closeNv_nvOpen (o : NvOpen) (s : State) : (closeNv o s).nvOpen = s.nvOpen.filter (fun x => x != o) :=
  leaves [.regs, .claims, .waiting, .later] .nvOpen fun _ _ => keeps_releaseTaken (keeps_refl _ { s with nvOpen := s.nvOpen.filter (fun x => x != o) })

theorem not_mem_closeNv (o : NvOpen) (s : State) : o ∉ (closeNv o s).nvOpen := by
  simp [closeNv_nvOpen]

theorem closeNv_keeps (o : NvOpen) (s : State) : Keeps (Within [.regs, .claims, .waiting, .later, .nvOpen]) s (closeNv o s) :=
  keeps_within _ fun _ _ => keeps_closeNv (keeps_refl _ s)

theorem reg_closeNv_other {a : Nat} (o : NvOpen) (s : State) (ha : a ≠ CNC_STATUS) : (closeNv o s).reg a = s.reg a := by
  unfold closeNv releaseTaken
  split
  · exact reg_releaseClaim_other _ _ ha
  · rfl

/-! ### NV_OPEN and NV_COMMIT (R439, R505) -/

theorem beginNvOpen_eq (p : Pkt) (h : Nat) (owns : Bool) (s : State) : beginNvOpen [] p h owns s =
    finalReply p 0 ([writeBank s (u8 p 0), 0] ++ bytesLsb 2 h)
      { invalidate (u8 p 0) (writeBank s (u8 p 0)) s with
        nvOpen := s.nvOpen.filter (fun o => o.part != u8 p 0) ++ [⟨u8 p 0, writeBank s (u8 p 0), p.call.src, h⟩] } := by
  have hopen : (invalidate (u8 p 0) (writeBank s (u8 p 0)) s).nvOpen = s.nvOpen :=
    leaves [.regs, .mram] .nvOpen fun _ _ => keeps_invalidate (keeps_refl _ s)
  simp only [beginNvOpen, nvFails_nil, hopen, answer]

/-- The header of a commit, with the sequence it gets, and the state after it. -/
def headerPut (part bank len crc : Nat) (u : State) : Nat × State :=
  commitBank part bank len crc (commitFormat part u).1 (commitFormat part u).2

theorem commitFormat_keeps (part : Nat) (s : State) : Keeps (Within [.free]) s (commitFormat part s).2 :=
  keeps_within _ fun _ _ => keeps_commitFormat (keeps_refl _ s)

theorem headerPut_kept (part bank len crc : Nat) (u : State) : (headerPut part bank len crc u).2.kept = u.kept := by
  unfold headerPut
  exact leaves [.free, .regs, .mram, .raised] .kept fun _ _ => keeps_commitBank (keeps_commitFormat (keeps_refl _ u))

theorem headerPut_commits (part bank len crc : Nat) (u : State) : (headerPut part bank len crc u).2.reg NV_COMMITS = u.reg NV_COMMITS + 1 := by
  have hregs : (commitFormat part u).2.regs = u.regs := (commitFormat_keeps part u).stands .regs
  rw [headerPut, commitBank_commits, State.reg_congr _ _ hregs]

/-- What the end of a commit leaves besides its job, from the state in which the header is written. -/
theorem commitEnds_leaves (num failed seq : Nat) (o : NvOpen) (u : State) :
    let t := finishJob num failed seq 8 o.part (closeNv o u)
    t.kept = u.kept ∧ t.mram = u.mram ∧ t.reg NV_COMMITS = u.reg NV_COMMITS ∧ o ∉ t.nvOpen := by
  have hfinished := finishJob_keeps num failed seq 8 o.part (closeNv o u)
  have hclosed := closeNv_keeps o u
  have hkept : _ = _ := hfinished.stands .kept
  have hkept' : _ = _ := hclosed.stands .kept
  have hmram : _ = _ := hfinished.stands .mram
  have hmram' : _ = _ := hclosed.stands .mram
  have hstays : _ = _ := hfinished.stands .nvOpen
  refine ⟨hkept.trans hkept', hmram.trans hmram', ?_, ?_⟩
  · rw [reg_finishJob_other _ _ _ _ _ _ (by decide), reg_closeNv_other _ _ (by decide)]
  · rw [hstays]
    exact not_mem_closeNv o u

section
variable {c : Call} {o : NvOpen} {s : State} (hadmits : Admits 0x0604 inSTR c s) (hlen : paramLen (pktOf s 0x0604 c) = 12)
  (hopen : s.nvOpen.find? (fun o => o.part == u8 (pktOf s 0x0604 c) 0) = some o) (hclaim : s.claims.any (fun x => x.handle == o.handle) = true)
  (hsrc : o.src = (pktOf s 0x0604 c).call.src) (hmax : u32 (pktOf s 0x0604 c) 4 ≤ bodyMax o.part) (hroom : recordsFull s = false)
  (hqual : s.flag CLK_STATUS.REF_QUAL = true)

/-- The state in which an NV_COMMIT has been accepted (R427). -/
def nvCommitAccepted (c : Call) (o : NvOpen) (s : State) : State :=
  finalReply (pktOf s 0x0604 c) 0 (jobResult (nextJob s) 0) (jobBegun (pktOf s 0x0604 c) 0 false o.part 0 [] s)

theorem nvCommitAccepted_onlyReplied (c : Call) (o : NvOpen) (s : State) :
    OnlyReplied (jobBegun (pktOf s 0x0604 c) 0 false o.part 0 [] s) (nvCommitAccepted c o s) := onlyReplied_finalReply ..

/-- The state in which the header of the commit is written. -/
def nvCommitted (c : Call) (o : NvOpen) (s : State) : Nat × State :=
  headerPut o.part o.bank (u32 (pktOf s 0x0604 c) 4) (u32 (pktOf s 0x0604 c) 8) (nvCommitAccepted c o s)

theorem nvCommitAccepted_mram (c : Call) (o : NvOpen) (s : State) : (nvCommitAccepted c o s).mram = s.mram := by
  obtain ⟨hkinds, -⟩ := nvCommitAccepted_onlyReplied c o s
  exact hkinds .mram (by decide)

theorem nvCommitAccepted_commits (c : Call) (o : NvOpen) (s : State) : (nvCommitAccepted c o s).reg NV_COMMITS = s.reg NV_COMMITS :=
  finalReply_reg _ _ _ _ (by decide) (by decide) (by decide)

theorem nvCommitAccepted_answers (hreply : bit (pktOf s 0x0604 c).call.flags 2 = false) :
    Answered 0x0604 c 0 (jobResult (nextJob s) 0) s (nvCommitAccepted c o s) :=
  answered_finalReply hreply (jobBegun_now (pktOf s 0x0604 c) 0 false o.part 0 [] s) 0 (jobResult (nextJob s) 0)

include hadmits hlen hopen hclaim hsrc hmax hroom hqual

theorem execNvCommit_accepts {P : State → Prop} {fails : List Nat}
    (hrun : P (if crc32c (nvBytes s (bankBase o.part o.bank + 32) (u32 (pktOf s 0x0604 c) 4)) ≠ u32 (pktOf s 0x0604 c) 8
      then finishJob (nextJob s) 0x0B 0 8 o.part (closeNv o (nvCommitAccepted c o s))
      else finishJob (nextJob s) 0 (nvCommitted c o s).1 8 o.part
        (closeNv o (nvFails o.part o.bank (bankBase o.part o.bank) (bankBase o.part o.bank + 32) fails (nvCommitted c o s).2)))) :
    ∃ t : State, exec (.nvCommit c fails) s = .next t ∧ P t := by
  refine command_leaves (m := execNvCommit c fails s) rfl rfl hadmits (by simp [hlen]) ?_
  rw [← nvBytes_congr (nvCommitAccepted_mram c o s)] at hrun
  simp only [withOpen_of_open hopen hclaim hsrc, if_neg (Nat.not_lt.2 hmax), longOnly_of_room hroom, whenQual_of_qualified hqual, acceptJob_eq]
  exact hrun

theorem execNvCommit_commits (hcrc : crc32c (nvBytes s (bankBase o.part o.bank + 32) (u32 (pktOf s 0x0604 c) 4)) = u32 (pktOf s 0x0604 c) 8) :
    ∃ t : State, exec (.nvCommit c []) s = .next t ∧ Answered 0x0604 c 0 (jobResult (nextJob s) 0) s t ∧
      t.reg NV_COMMITS = s.reg NV_COMMITS + 1 ∧ o ∉ t.nvOpen := by
  refine execNvCommit_accepts hadmits hlen hopen hclaim hsrc hmax hroom hqual ?_
  rw [if_neg (not_not_intro hcrc), nvFails_nil]
  obtain ⟨-, -, -, -, -, hreply⟩ := hadmits
  obtain ⟨hkept, -, hcommits, hclosed⟩ := commitEnds_leaves (nextJob s) 0 (nvCommitted c o s).1 o (nvCommitted c o s).2
  refine ⟨(congrArg List.getLast? (hkept.trans (headerPut_kept ..))).trans (nvCommitAccepted_answers hreply), ?_, hclosed⟩
  rw [hcommits, nvCommitted, headerPut_commits, nvCommitAccepted_commits]

theorem execNvCommit_refuses {fails : List Nat}
    (hcrc : crc32c (nvBytes s (bankBase o.part o.bank + 32) (u32 (pktOf s 0x0604 c) 4)) ≠ u32 (pktOf s 0x0604 c) 8) :
    ∃ t : State, exec (.nvCommit c fails) s = .next t ∧ Answered 0x0604 c 0 (jobResult (nextJob s) 0) s t ∧ t.mram = s.mram ∧ o ∉ t.nvOpen := by
  refine execNvCommit_accepts hadmits hlen hopen hclaim hsrc hmax hroom hqual ?_
  rw [if_pos hcrc]
  obtain ⟨-, -, -, -, -, hreply⟩ := hadmits
  obtain ⟨hkept, hmram, -, hclosed⟩ := commitEnds_leaves (nextJob s) 0x0B 0 o (nvCommitAccepted c o s)
  exact ⟨(congrArg List.getLast? hkept).trans (nvCommitAccepted_answers hreply), hmram.trans (nvCommitAccepted_mram c o s), hclosed⟩

end

/-! ### NV_SAVE_CONFIG (R440, R508) -/

/-- The state in which an NV_SAVE_CONFIG has been accepted (R427). -/
def saveConfigAccepted (p : Pkt) (h : Nat) (owns : Bool) (s : State) : State :=
  finalReply p 0 (jobResult (nextJob s) h) (jobBegun p h owns 1 0 [] s)

theorem beginSaveConfig_eq (p : Pkt) (h : Nat) (owns : Bool) (s : State) : beginSaveConfig [] p h owns s = finishJob (nextJob s) 0
    (writePartition 1 (configBody (saveConfigAccepted p h owns s)) (saveConfigAccepted p h owns s)).1 8 1
    (writePartition 1 (configBody (saveConfigAccepted p h owns s)) (saveConfigAccepted p h owns s)).2 := by
  simp only [beginSaveConfig, acceptJob_eq, nvFails_nil, saveConfigAccepted]

/-- What a partition's commit leaves besides its job. -/
theorem partitionSaved_leaves (num part : Nat) (body : List Nat) (u : State) :
    let t := finishJob num 0 (writePartition part body u).1 8 part (writePartition part body u).2
    t.kept = u.kept ∧ t.reg NV_COMMITS = u.reg NV_COMMITS + 1 := by
  have hkept : _ = _ := (finishJob_keeps num 0 (writePartition part body u).1 8 part (writePartition part body u).2).stands .kept
  have hkept' : _ = _ := (writePartition_keeps part body u).stands .kept
  exact ⟨hkept.trans hkept', by rw [reg_finishJob_other _ _ _ _ _ _ (by decide), writePartition_commits]⟩

theorem execNvSaveConfig_commits {c : Call} {cl : Claim} {s : State} (hadmits : Admits 0x0606 inSTR c s)
    (hlen : paramLen (pktOf s 0x0606 c) = 0) (hroom : recordsFull s = false) (hqual : s.flag CLK_STATUS.REF_QUAL = true)
    (hheld : heldClaim s (pktOf s 0x0606 c).call.src 7 1 = some cl) : ∃ t : State, exec (.nvSaveConfig c []) s = .next t ∧
      Answered 0x0606 c 0 (jobResult (nextJob s) cl.handle) s t ∧ t.reg NV_COMMITS = s.reg NV_COMMITS + 1 := by
  refine command_leaves (m := execNvSaveConfig c [] s) rfl rfl hadmits (by simp [hlen]) ?_
  rw [longOnly_of_room hroom, whenQual_of_qualified hqual, withClaim_of_held hheld, beginSaveConfig_eq]
  obtain ⟨-, -, -, -, -, hreply⟩ := hadmits
  have hanswered := answered_finalReply hreply (jobBegun_now (pktOf s 0x0606 c) cl.handle false 1 0 [] s) 0 (jobResult (nextJob s) cl.handle)
  have hreg : (saveConfigAccepted (pktOf s 0x0606 c) cl.handle false s).reg NV_COMMITS = s.reg NV_COMMITS :=
    finalReply_reg _ _ _ _ (by decide) (by decide) (by decide)
  obtain ⟨hkept, hcommits⟩ := partitionSaved_leaves (nextJob s) 1 (configBody (saveConfigAccepted (pktOf s 0x0606 c) cl.handle false s))
    (saveConfigAccepted (pktOf s 0x0606 c) cl.handle false s)
  exact ⟨(congrArg List.getLast? hkept).trans hanswered, hcommits.trans (by rw [hreg])⟩

theorem gbClear_gone (s : State) : (gbClear s).1 = if s.flag GB_STATUS.FULL then 32767 else s.fld GB_STATUS.NEXT := by
  simp only [gbClear]

/-- Settles O44, clause by clause: each command passes the gate and its parameters' ranges, and ends in its final reply or its job. -/
theorem storageAndGuestbookCommandsAnswer : Obligations.StorageAndGuestbookCommandsAnswer := by
  refine ⟨fun c s hadmits hlen hpart => ?_, fun c b s hadmits hlen hpart hbank hlo hhi hin => ?_,
    fun c fails cl s hadmits hlen hpart hqual hheld hfails => ?_, fun c fails o s hadmits hlen hopen hclaim hsrc hmax hqual hfails => ?_,
    fun c fails o s hadmits hlen hopen hclaim hsrc hmax hroom hqual hcrc hfails => ?_,
    fun _ _ _ _ hadmits hlen hopen hclaim hsrc hmax hroom hqual hcrc =>
      execNvCommit_refuses hadmits hlen hopen hclaim hsrc hmax hroom hqual hcrc, fun c o s hadmits hlen hopen hclaim hsrc => ?_,
    fun c fails cl s hadmits hlen hroom hqual hheld hfails => ?_, fun c s hadmits hlen => ?_, fun c s hadmits hlen hslot hlo hhi => ?_,
    fun c s hadmits hlen => ?_, fun c s hadmits hlen hall => ?_, fun c s hadmits hlen hcode hdefault => ?_,
    fun c s hadmits hlen hcode hother hroom => ?_⟩
  · exact command_replies (m := execNvInfo c s) rfl rfl hadmits (by simp [hlen]) ((withPart_of_lt hpart _).trans (answer_eq_finalReply ..)) rfl
  · refine command_replies (m := execNvRead c s) rfl rfl hadmits (by simp [hlen]) ?_ rfl
    have hok : ¬(u16 (pktOf s 0x0601 c) 8 < 1 ∨ 1024 < u16 (pktOf s 0x0601 c) 8 ∨
        bodyMax (u8 (pktOf s 0x0601 c) 0) < u32 (pktOf s 0x0601 c) 4 + u16 (pktOf s 0x0601 c) 8) := by omega
    simp only [withPart_of_lt hpart, hbank, if_neg hok]
    exact answer_eq_finalReply ..
  · subst hfails
    refine command_replies (m := execNvOpen c [] s) rfl rfl hadmits (by simp [hlen]) ?_
      (invalidate_now (u8 (pktOf s 0x0602 c) 0) (writeBank s (u8 (pktOf s 0x0602 c) 0)) s)
    simp only [withPart_of_lt hpart, whenQual_of_qualified hqual, withClaim_of_held hheld, beginNvOpen_eq]
  · subst hfails
    refine command_replies (m := execNvWrite c [] s) rfl rfl hadmits (by simp [hlen]) ?_ (nvPut_now ..)
    simp only [withOpen_of_open hopen hclaim hsrc, if_neg (Nat.not_lt.2 hmax), whenQual_of_qualified hqual, nvFails_nil]
    exact answer_eq_finalReply ..
  · subst hfails
    exact execNvCommit_commits hadmits hlen hopen hclaim hsrc hmax hroom hqual hcrc
  · obtain ⟨t, ht, hanswered, hkinds, hregs⟩ := command_replies (m := execNvClose c s) rfl rfl hadmits (by simp [hlen])
      (withOpen_of_open hopen hclaim hsrc _) (closeNv_now o s)
    have hstays : t.nvOpen = _ := hkinds .nvOpen (by decide)
    exact ⟨t, ht, hanswered, ⟨hkinds, hregs⟩, hstays ▸ not_mem_closeNv o s⟩
  · subst hfails
    exact execNvSaveConfig_commits hadmits hlen hroom hqual hheld
  · exact command_replies (m := execGbInfo c s) rfl rfl hadmits (by simp [hlen]) (answer_eq_finalReply ..) rfl
  · refine command_replies (m := execGbRead c s) rfl rfl hadmits (by simp [hlen]) ?_ rfl
    have hok : ¬(32767 < u16 (pktOf s 0x0701 c) 0 ∨ u8 (pktOf s 0x0701 c) 2 < 1 ∨ 32 < u8 (pktOf s 0x0701 c) 2) := by omega
    exact (if_neg hok).trans (answer_eq_finalReply ..)
  · refine command_replies (m := execGbClear c s) rfl rfl hadmits (by simp [hlen]) ?_ (gbClear_now s)
    rw [← gbClear_gone]
    obtain ⟨gone, u⟩ := gbClear s
    exact answer_eq_finalReply ..
  · exact command_replies (m := execGbRate c s) rfl rfl hadmits (by simp [hlen]) ((if_pos hall).trans (answer_eq_finalReply ..)) (writeWord_now ..)
  · refine command_replies (m := execGbRate c s) rfl rfl hadmits (by simp [hlen]) ?_ rfl
    exact (if_neg hcode).trans ((if_pos hdefault).trans (answer_eq_finalReply ..))
  · refine command_replies (m := execGbRate c s) rfl rfl hadmits (by simp [hlen]) ?_ rfl
    exact (if_neg hcode).trans ((if_neg hother).trans ((if_neg (Nat.not_le.2 hroom)).trans (answer_eq_finalReply ..)))

end Sys2Proof.Claims
end

section
/-! SUPPORT. Tests, swaps, claims and the takeover: the state they leave, and the registers that they do not write (R431, R526, R528, R540 to R545). -/
-- the whole text is compiled at once: its threads share one memory limit
set_option Elab.async false
namespace Sys2Proof.Claims
open Sys2Proof Sys2Proof.Machine

/-! ### Fields that counts and summary bits leave -/

theorem State.fld_intBit_other (s : State) {i : Nat} {f : Fld} (hi : i < 32) (hf : f.addr ≠ HUB_INT_STATUS) : (s.intBit i).fld f = s.fld f :=
  State.fld_setFld_apart s _ f 1 (Nat.le_refl i) hi (.inl hf)

theorem State.flag_inc_other (s : State) {a : Nat} {f : Fld} (hf : f.addr ≠ a) : (s.inc a).flag f = s.flag f := by
  rw [State.flag, State.fld_inc_other _ _ _ hf, State.flag]

/-! ### Claims (R431, R542) -/

theorem releaseClaim_claims (h : Nat) (s : State) : (releaseClaim h s).claims = s.claims.filter (fun c => c.handle != h) :=
  leaves [.regs, .waiting, .later] .claims fun hself hother =>
    keeps_setFld (keeps_setFld (keeps_setFld (keeps_refill (keeps_refl _ { s with claims := s.claims.filter (fun c => c.handle != h) }))))

/-- A command takes a claim that nothing conflicts with (R402, R542). -/
theorem withClaim_of_grantable {kind res : Nat} {p : Pkt} {s : State} (hnone : heldClaim s p.call.src kind res = none)
    (hgrant : grantable s kind res = true) (byClaim : Bool) (go : Nat → Bool → State → State) : withClaim kind res byClaim p go s =
      go (nextHandle s) true (grantWake kind (claimPair s kind res) (takeClaim p.call.src kind res (claimPair s kind res) byClaim s).2) := by
  rw [withClaim, hnone]
  dsimp only
  rw [if_pos hgrant]
  rfl

theorem takeClaim_claims (src kind res : Nat) (pair : Option Nat) (byClaim : Bool) (s : State) :
    (takeClaim src kind res pair byClaim s).2.claims = s.claims ++ [⟨nextHandle s, kind, res, pair, src, byClaim⟩] := by
  simp [takeClaim, showClaims]

theorem grantWake_keeps (kind : Nat) (pair : Option Nat) (s : State) : Keeps (Within [.regs, .links, .raised, .out]) s (grantWake kind pair s) :=
  keeps_within _ fun _ _ => keeps_grantWake (keeps_refl _ s)

@[simp] theorem takeClaim_now (src kind res : Nat) (pair : Option Nat) (byClaim : Bool) (s : State) :
    (takeClaim src kind res pair byClaim s).2.now = s.now :=
  now_of_keeps fun F _ => keeps_takeClaim (keeps_refl F s)

@[simp] theorem releaseUse_now (x : Claim) (s : State) : (releaseUse x s).now = s.now :=
  now_of_keeps fun F _ => keeps_releaseUse (keeps_refl F s)

/-! ### Slices (R21, R531) -/

/-- The field of a slice in its state register. -/
def sliceFld (t i : Nat) : Fld := ⟨TILE_SLICE_STATE t (i / 16), 2 * (i % 16) + 1, 2 * (i % 16)⟩

theorem sliceState_eq_fld (s : State) (t i : Nat) : sliceState s t i = s.fld (sliceFld t i) := rfl

theorem sliceState_of_reg_eq {s u : State} {t i : Nat} (h : u.reg (TILE_SLICE_STATE t (i / 16)) = s.reg (TILE_SLICE_STATE t (i / 16))) :
    sliceState u t i = sliceState s t i := State.fld_eq_of_reg_eq (f := sliceFld t i) h

theorem reg_showSpares_other {t a : Nat} (s : State) (h : a ≠ TILE_SPARE_STATUS t) : (showSpares t s).reg a = s.reg a := by
  unfold showSpares
  rw [State.reg_setFld_other _ _ _ _ h, State.reg_setFld_other _ _ _ _ h, State.reg_setFld_other _ _ _ _ h, State.reg_setFld_other _ _ _ _ h]

theorem sliceState_setSliceState {t i st : Nat} (s : State) (hi : i < 68) (hst : st < 4) : sliceState (setSliceState t i st s) t i = st := by
  have haddr : TILE_SLICE_STATE t (i / 16) ≠ TILE_SPARE_STATUS t := by
    simp only [TILE_SLICE_STATE, TILE_SPARE_STATUS]
    omega
  have hsize : (sliceFld t i).hi + 1 - (sliceFld t i).lo = 2 := by
    simp only [sliceFld]
    omega
  rw [setSliceState, sliceState_of_reg_eq (reg_showSpares_other _ haddr), sliceState_eq_fld]
  show (s.setFld (sliceFld t i) st).fld (sliceFld t i) = st
  rw [State.fld_setFld_same _ _ _ (by simp only [sliceFld]; omega) (by simp only [sliceFld]; omega), hsize]
  exact Nat.mod_eq_of_lt hst

theorem startSwap_swaps (t old spare : Nat) (back : Bool) (handle : Nat) (s : State) :
    ((startSwap t old spare back handle s).tile t).swaps = (s.tile t).swaps ++ [⟨old, spare, .copy, back, handle⟩] := by
  have hkeeps : (startSwap t old spare back handle s).tiles =
      (s.modTile t (fun k => { k with swaps := k.swaps ++ [(⟨old, spare, .copy, back, handle⟩ : MSwap)] })).tiles :=
    leaves [.regs] .tiles fun _ _ => keeps_setSliceState (keeps_refl _ _)
  rw [State.tile_congr hkeeps, State.tile_modTile]

/-- The spare of a swap that begins is held. -/
theorem sliceState_startSwap {spare : Nat} (t old : Nat) (back : Bool) (handle : Nat) (s : State) (hspare : spare < 68) :
    sliceState (startSwap t old spare back handle s) t spare = 2 := by
  rw [startSwap]
  exact sliceState_setSliceState _ hspare (by decide)

theorem startSwap_keeps (t old spare : Nat) (back : Bool) (handle : Nat) (s : State) :
    Keeps (Within [.regs, .tiles]) s (startSwap t old spare back handle s) :=
  keeps_within _ fun _ _ => keeps_startSwap (keeps_refl _ s)

/-! ### Tests (R443, R530) -/

theorem reg_showBist_other {a : Nat} (s : State) (hstatus : a ≠ BIST_STATUS) (hcurrent : a ≠ BIST_CURRENT) : (showBist s).reg a = s.reg a := by
  unfold showBist
  dsimp only
  split
  · rw [State.reg_setReg_other _ _ _ _ hcurrent, State.reg_setFld_other _ _ _ _ hstatus, State.reg_setFld_other _ _ _ _ hstatus]
  · rw [State.reg_setReg_other _ _ _ _ hcurrent, State.reg_setFld_other _ _ _ _ hstatus, State.reg_setFld_other _ _ _ _ hstatus]

theorem addTest_tests (unit handle job : Nat) (periodic : Bool) (st : TestStage) (spare : Nat) (s : State) :
    (addTest unit handle job periodic st spare s).tests = s.tests ++ [⟨unit, handle, job, periodic, st, spare, 0⟩] :=
  leaves [.regs] .tests fun _ _ => keeps_showBist (keeps_refl _ { s with tests := s.tests ++ [⟨unit, handle, job, periodic, st, spare, 0⟩] })

theorem addTest_keeps (unit handle job : Nat) (periodic : Bool) (st : TestStage) (spare : Nat) (s : State) :
    Keeps (Within [.regs, .tests]) s (addTest unit handle job periodic st spare s) :=
  keeps_within _ fun _ _ => keeps_addTest (keeps_refl _ s)

theorem sliceState_addTest {t i : Nat} (hi : i < 68) {unit handle job : Nat} {periodic : Bool} {st : TestStage} {spare : Nat} {s : State} :
    sliceState (addTest unit handle job periodic st spare s) t i = sliceState s t i := by
  have haddr : TILE_SLICE_STATE t (i / 16) ≠ BIST_STATUS ∧ TILE_SLICE_STATE t (i / 16) ≠ BIST_CURRENT := by
    unfold TILE_SLICE_STATE BIST_STATUS BIST_CURRENT tileBase bistBase
    omega
  obtain ⟨hstatus, hcurrent⟩ := haddr
  rw [addTest, sliceState_of_reg_eq (reg_showBist_other _ hstatus hcurrent)]
  rfl

/-- A unit's test that is begun from a state with the same list of tests is on the list. -/
theorem mem_addTest {s u : State} (hu : u.tests = s.tests) (unit handle job : Nat) (periodic : Bool) (st : TestStage) (spare : Nat) :
    ∃ x ∈ (addTest unit handle job periodic st spare u).tests, x.unit = unit ∧ x.handle = handle ∧ x.job = job ∧ x.periodic = periodic := by
  rw [addTest_tests, hu]
  exact ⟨_, List.mem_append_right _ List.mem_cons_self, rfl, rfl, rfl, rfl⟩

/-- Whatever the unit is, its test is put on the list. -/
theorem mem_beginUnit (unit handle job : Nat) (periodic : Bool) (s : State) :
    ∃ x ∈ (beginUnit unit handle job periodic s).tests, x.unit = unit ∧ x.handle = handle ∧ x.job = job ∧ x.periodic = periodic := by
  have hregs {u : State} (h : Keeps (Within [.regs]) s u) : u.tests = s.tests := h.stands .tests
  unfold beginUnit
  dsimp only
  split
  · split
    · split
      · have hswap (sp : Nat) : (startSwap (unitTile unit) (unitElem unit) sp false handle s).tests = s.tests := (startSwap_keeps ..).stands .tests
        split
        · exact mem_addTest (hswap _) ..
        · split
          · have hwake (n : Port) (u : State) : (wakePort n 7 u).tests = u.tests :=
              leaves [.regs, .links, .out] .tests fun _ _ => keeps_wakePort (keeps_refl _ u)
            rw [hwake]
            exact mem_addTest (hswap _) ..
          · exact mem_addTest (hswap _) ..
      · exact mem_addTest rfl ..
    · split
      · exact mem_addTest (hregs (keeps_within _ fun _ _ => keeps_setSliceState (keeps_refl _ s))) ..
      · exact mem_addTest rfl ..
  · split
    · split
      · exact mem_addTest (hregs (keeps_within _ fun _ _ => keeps_fillBanks (keeps_setBankState (keeps_refl _ s)))) ..
      · split
        · exact mem_addTest (hregs (keeps_within _ fun _ _ => keeps_showBanks (keeps_setBankState (keeps_refl _ s)))) ..
        · exact mem_addTest rfl ..
    · split
      · refine mem_addTest (hregs (keeps_within _ fun _ _ => ?_)) ..
        exact keeps_ite (keeps_inc (keeps_setFld (keeps_refl _ s))) (keeps_refl _ s)
      · exact mem_addTest rfl ..

theorem beginUnit_keeps (unit handle job : Nat) (periodic : Bool) (s : State) :
    Keeps (Within [.regs, .links, .tiles, .tests, .out]) s (beginUnit unit handle job periodic s) :=
  keeps_within _ fun _ _ => keeps_beginUnit (keeps_refl _ s)

/-! ### The end of a test, and the takeover (R528) -/

theorem reg_releaseOwn_other {a : Nat} (h : Nat) (s : State) (ha : a ≠ CNC_STATUS) : (releaseOwn h s).reg a = s.reg a := by
  unfold releaseOwn
  split
  · exact reg_releaseClaim_other _ _ ha
  · rfl

theorem reg_endTest_other {a : Nat} (x : Test) (status result : Nat) (s : State)
    (ha : a ∉ [BIST_STATUS, BIST_CURRENT, BIST_LAST_UNIT, BIST_LAST_RESULT, BIST_RUNS, CNC_STATUS]) : (endTest x status result s).reg a = s.reg a := by
  simp only [List.mem_cons, List.not_mem_nil, or_false, not_or] at ha
  obtain ⟨hstatus, hcurrent, hunit, hresult, hruns, hclaims⟩ := ha
  unfold endTest
  dsimp only
  rw [reg_showBist_other _ hstatus hcurrent, reg_releaseOwn_other _ _ hclaims, reg_finishJob_other _ _ _ _ _ _ hclaims]
  split
  · rw [State.reg_setReg_other _ _ _ _ hresult, State.reg_setReg_other _ _ _ _ hunit, State.inc, State.reg_setReg_other _ _ _ _ hruns]
    rfl
  · rfl

theorem reg_askInternal_other {a : Nat} (kind res : Nat) (why : Why) (s : State) (ha : a ≠ CNC_STATUS) : (askInternal kind res why s).reg a = s.reg a := by
  rw [askInternal, reg_showClaims_other _ ha, State.reg_congr _ _ (refill_regs ..)]
  rfl

/-- The state in which the standby pair has been made the active one. -/
def pairSwitched (cause : Nat) (s : State) : State :=
  ((((s.setFld BIST_PORTER_STATUS.ACTIVE (1 - s.fld BIST_PORTER_STATUS.ACTIVE)).setFld DBG_PORTER_STATUS.PAIR
    (1 - s.fld BIST_PORTER_STATUS.ACTIVE)).inc BIST_PORTER_TAKEOVERS).intBit 16).raise 0x7020 2 [cause, 1 - s.fld BIST_PORTER_STATUS.ACTIVE]

/-- The pair that was active waits for its test; a test of the standby ends. -/
def standbyAsked (s : State) : State :=
  askInternal 1 porterUnit (.test porterUnit) (match s.tests.find? (fun x => x.unit == porterUnit) with
    | some x => endTest x 0x0B 0 s
    | none => s)

theorem standbyAsked_keeps (s : State) : Keeps (Within [.regs, .completions, .claims, .waiting, .later, .tests]) s (standbyAsked s) := by
  refine keeps_within _ fun _ _ => keeps_askInternal ?_
  split
  · exact keeps_endTest (keeps_refl _ s)
  · exact keeps_refl _ s

theorem reg_standbyAsked_other {a : Nat} (s : State)
    (ha : a ∉ [BIST_STATUS, BIST_CURRENT, BIST_LAST_UNIT, BIST_LAST_RESULT, BIST_RUNS, CNC_STATUS]) : (standbyAsked s).reg a = s.reg a := by
  have hclaims : a ≠ CNC_STATUS := by
    rintro rfl
    exact ha (by simp)
  rw [standbyAsked, reg_askInternal_other _ _ _ _ hclaims]
  split
  · exact reg_endTest_other _ _ _ _ ha
  · rfl

theorem takeover_of_ready {cause : Nat} {s : State} (hready : s.flag BIST_PORTER_STATUS.STANDBY_READY = true) : takeover cause s =
    if halted (standbyAsked (pairSwitched cause s)) then catchUp (leaveHalt (standbyAsked (pairSwitched cause s)))
    else standbyAsked (pairSwitched cause s) := by
  rw [takeover, if_neg (by simp [hready])]
  rfl

theorem pairSwitched_halted (cause : Nat) (s : State) : halted (standbyAsked (pairSwitched cause s)) = halted s := by
  have hasked : (standbyAsked (pairSwitched cause s)).reg DBG_PORTER_STATUS = (pairSwitched cause s).reg DBG_PORTER_STATUS :=
    reg_standbyAsked_other _ (by decide)
  rw [halted, State.flag_eq_of_reg_eq (f := DBG_PORTER_STATUS.HALTED) hasked, pairSwitched, State.raise_flag,
    State.flag_intBit_other _ (by decide) (by decide), State.flag_inc_other _ (by decide),
    State.flag_setFld_apart _ _ _ _ (by decide) (by decide) (by decide), State.flag_setFld_apart _ _ _ _ (by decide) (by decide) (by decide)]
  rfl

theorem pairSwitched_active (cause : Nat) (s : State) :
    (standbyAsked (pairSwitched cause s)).fld BIST_PORTER_STATUS.ACTIVE = 1 - s.fld BIST_PORTER_STATUS.ACTIVE := by
  have hasked : (standbyAsked (pairSwitched cause s)).reg BIST_PORTER_STATUS = (pairSwitched cause s).reg BIST_PORTER_STATUS :=
    reg_standbyAsked_other _ (by decide)
  rw [State.fld_eq_of_reg_eq (f := BIST_PORTER_STATUS.ACTIVE) hasked, pairSwitched, State.raise_fld, State.fld_intBit_other _ (by decide) (by decide),
    State.fld_inc_other _ _ _ (by decide), State.fld_setFld_apart _ _ _ _ (by decide) (by decide) (by decide),
    State.fld_setFld_same _ _ _ (by decide) (by decide)]
  exact Nat.mod_eq_of_lt (by show _ < 2; omega)

end Sys2Proof.Claims
end

section
/-! PROOF. The commands of claims, swaps, tests and the Porter, one clause of the statement after the other (O45). -/
-- the whole text is compiled at once: its threads share one memory limit
set_option Elab.async false
namespace Sys2Proof.Claims
open Sys2Proof Sys2Proof.Machine

/-- CNC_CLAIM of what nothing conflicts with (R431, R542). -/
theorem execCncClaim_takes {c : Call} {s : State} (hadmits : Admits 0x0900 inST c s) (hlen : paramLen (pktOf s 0x0900 c) = 8)
    (hok : claimOk s (u8 (pktOf s 0x0900 c) 0) (u32 (pktOf s 0x0900 c) 4) = true)
    (hnone : heldClaim s (pktOf s 0x0900 c).call.src (u8 (pktOf s 0x0900 c) 0) (u32 (pktOf s 0x0900 c) 4) = none)
    (hgrant : grantable s (u8 (pktOf s 0x0900 c) 0) (u32 (pktOf s 0x0900 c) 4) = true) :
    ∃ t : State, exec (.cncClaim c) s = .next t ∧ Answered 0x0900 c 0 (bytesLsb 2 (nextHandle s)) s t ∧
      t.claims = s.claims ++ [⟨nextHandle s, u8 (pktOf s 0x0900 c) 0, u32 (pktOf s 0x0900 c) 4,
        claimPair s (u8 (pktOf s 0x0900 c) 0) (u32 (pktOf s 0x0900 c) 4), (pktOf s 0x0900 c).call.src, true⟩] := by
  refine command_leaves (m := execCncClaim c s) rfl rfl hadmits (by simp [hlen]) ?_
  simp only [hok, Bool.not_true, if_neg Bool.false_ne_true, withClaim_of_grantable hnone hgrant, beginClaim, answer]
  obtain ⟨-, -, -, -, -, hreply⟩ := hadmits
  have hwake := grantWake_keeps (u8 (pktOf s 0x0900 c) 0) (claimPair s (u8 (pktOf s 0x0900 c) 0) (u32 (pktOf s 0x0900 c) 4))
    (takeClaim (pktOf s 0x0900 c).call.src (u8 (pktOf s 0x0900 c) 0) (u32 (pktOf s 0x0900 c) 4)
      (claimPair s (u8 (pktOf s 0x0900 c) 0) (u32 (pktOf s 0x0900 c) 4)) true s).2
  have hanswered := answered_finalReply hreply (hwake.now.trans (takeClaim_now ..)) 0 (bytesLsb 2 (nextHandle s))
  obtain ⟨hkinds, -⟩ := onlyReplied_finalReply (pktOf s 0x0900 c) 0 (bytesLsb 2 (nextHandle s)) (grantWake (u8 (pktOf s 0x0900 c) 0)
    (claimPair s (u8 (pktOf s 0x0900 c) 0) (u32 (pktOf s 0x0900 c) 4)) (takeClaim (pktOf s 0x0900 c).call.src (u8 (pktOf s 0x0900 c) 0)
      (u32 (pktOf s 0x0900 c) 4) (claimPair s (u8 (pktOf s 0x0900 c) 0) (u32 (pktOf s 0x0900 c) 4)) true s).2)
  have hclaims : _ = _ := hkinds .claims (by decide)
  have hclaims' : _ = _ := hwake.stands .claims
  exact ⟨hanswered, (hclaims.trans hclaims').trans (takeClaim_claims ..)⟩

theorem execCncRelease_releases {c : Call} {x : Claim} {s : State} (hadmits : Admits 0x0901 inST c s) (hlen : paramLen (pktOf s 0x0901 c) = 2)
    (hfound : s.claims.find? (fun x => x.handle == u16 (pktOf s 0x0901 c) 0 && x.src == (pktOf s 0x0901 c).call.src) = some x) :
    ∃ t : State, exec (.cncRelease c) s = .next t ∧ (Answered 0x0901 c 0 [] s t ∧ OnlyReplied (releaseUse x s) t ∧
      ∀ y ∈ t.claims, y.handle ≠ x.handle) := by
  obtain ⟨t, ht, hanswered, hreplied⟩ := command_replies (m := execCncRelease c s) (u := releaseUse x s) (status := 0) (body := []) rfl rfl hadmits
    (by simp [hlen]) (by simp only [hfound, answer]) (releaseUse_now x s)
  refine ⟨t, ht, hanswered, hreplied, ?_⟩
  have hclaims : t.claims = _ := hreplied.1 .claims (by decide)
  rw [hclaims, releaseUse, releaseClaim_claims]
  intro y hy
  simpa using (List.mem_filter.1 hy).2

theorem execSliceSwap_begins {c : Call} {cl : Claim} {sp : Nat} {s : State} (hadmits : Admits 0x0903 inST c s)
    (hlen : paramLen (pktOf s 0x0903 c) = 2) (htile : u8 (pktOf s 0x0903 c) 0 < 8) (hslice : u8 (pktOf s 0x0903 c) 1 < 68)
    (hserves : sliceState s (u8 (pktOf s 0x0903 c) 0) (u8 (pktOf s 0x0903 c) 1) = 0) (hroom : recordsFull s = false)
    (hheld : heldClaim s (pktOf s 0x0903 c).call.src 5 (u8 (pktOf s 0x0903 c) 0 * 2 ^ 24 + u8 (pktOf s 0x0903 c) 1) = some cl)
    (hspare : (slicesIn s (u8 (pktOf s 0x0903 c) 0) 1).head? = some sp) :
    ∃ t : State, exec (.sliceSwap c) s = .next t ∧ Answered 0x0903 c 0 (jobResult (nextJob s) cl.handle) s t ∧
      ⟨u8 (pktOf s 0x0903 c) 1, sp, .copy, false, cl.handle⟩ ∈ (t.tile (u8 (pktOf s 0x0903 c) 0)).swaps ∧
      sliceState t (u8 (pktOf s 0x0903 c) 0) sp = 2 := by
  have hsp : sp < 68 := List.mem_range.1 (List.mem_filter.1 (List.mem_of_mem_head? hspare)).1
  have hok : ¬(8 ≤ u8 (pktOf s 0x0903 c) 0 ∨ 68 ≤ u8 (pktOf s 0x0903 c) 1) := by omega
  refine command_leaves (m := execSliceSwap c s) rfl rfl hadmits (by simp [hlen]) ?_
  simp only [if_neg hok, hserves, ne_eq, not_true_eq_false, if_false, longOnly_of_room hroom, withClaim_of_held hheld, beginSwap, hspare, acceptJob_eq]
  obtain ⟨-, -, -, -, -, hreply⟩ := hadmits
  have hanswered := answered_finalReply hreply (jobBegun_now (pktOf s 0x0903 c) cl.handle false
    (sliceUnit (u8 (pktOf s 0x0903 c) 0) (u8 (pktOf s 0x0903 c) 1)) 0 [] s) 0
    (jobResult (nextJob s) cl.handle)
  generalize finalReply (pktOf s 0x0903 c) 0 (jobResult (nextJob s) cl.handle) _ = u at hanswered ⊢
  have hswap := startSwap_keeps (u8 (pktOf s 0x0903 c) 0) (u8 (pktOf s 0x0903 c) 1) sp false cl.handle u
  have hadd := addTest_keeps (sliceUnit (u8 (pktOf s 0x0903 c) 0) (u8 (pktOf s 0x0903 c) 1)) cl.handle 0 false .swap sp
    (startSwap (u8 (pktOf s 0x0903 c) 0) (u8 (pktOf s 0x0903 c) 1) sp false cl.handle u)
  refine ⟨?_, ?_, ?_⟩
  · have hkept : _ = _ := hadd.stands .kept
    have hkept' : _ = _ := hswap.stands .kept
    exact (congrArg List.getLast? (hkept.trans hkept')).trans hanswered
  · rw [State.tile_congr (hadd.stands .tiles), startSwap_swaps]
    exact List.mem_append_right _ List.mem_cons_self
  · rw [sliceState_addTest hsp, sliceState_startSwap _ _ _ _ _ hsp]

theorem execBistRun_begins {c : Call} {cl : Claim} {s : State} (hadmits : Admits 0x0904 inST c s) (hlen : paramLen (pktOf s 0x0904 c) = 4)
    (hok : unitOk s (u32 (pktOf s 0x0904 c) 0) = true) (hroom : recordsFull s = false)
    (hheld : heldClaim s (pktOf s 0x0904 c).call.src 1 (plainUnit (u32 (pktOf s 0x0904 c) 0)) = some cl) :
    ∃ t : State, exec (.bistRun c) s = .next t ∧ (Answered 0x0904 c 0 (jobResult (nextJob s) cl.handle) s t ∧
      ∃ x ∈ t.tests, x.unit = plainUnit (u32 (pktOf s 0x0904 c) 0) ∧ x.handle = cl.handle ∧ x.job = nextJob s ∧ x.periodic = false) := by
  refine command_leaves (m := execBistRun c s) rfl rfl hadmits (by simp [hlen]) ?_
  simp only [hok, Bool.not_true, if_neg Bool.false_ne_true, longOnly_of_room hroom, withClaim_of_held hheld, beginBist, acceptJob_eq]
  obtain ⟨-, -, -, -, -, hreply⟩ := hadmits
  have hanswered := answered_finalReply hreply (jobBegun_now (pktOf s 0x0904 c) cl.handle false (plainUnit (u32 (pktOf s 0x0904 c) 0)) 0 [] s) 0
    (jobResult (nextJob s) cl.handle)
  have hkept : _ = _ := (beginUnit_keeps (plainUnit (u32 (pktOf s 0x0904 c) 0)) cl.handle (nextJob s) false (finalReply (pktOf s 0x0904 c) 0
    (jobResult (nextJob s) cl.handle) (jobBegun (pktOf s 0x0904 c) cl.handle false (plainUnit (u32 (pktOf s 0x0904 c) 0)) 0 [] s))).stands .kept
  exact ⟨(congrArg List.getLast? hkept).trans hanswered, mem_beginUnit ..⟩

theorem execPorterSwitch_switches {c : Call} {s : State} (hadmits : Admits 0x0906 [2] c s) (hlen : paramLen (pktOf s 0x0906 c) = 0)
    (hready : s.flag BIST_PORTER_STATUS.STANDBY_READY = true) : ∃ t : State, exec (.porterSwitch c) s = .next t ∧ Answered 0x0906 c 0 [] s t ∧
      OnlyReplied (takeover 4 s) t ∧ t.fld BIST_PORTER_STATUS.ACTIVE = 1 - s.fld BIST_PORTER_STATUS.ACTIVE := by
  obtain ⟨hhalted, hresetting, -⟩ := id hadmits
  have htakeover : takeover 4 s = standbyAsked (pairSwitched 4 s) := by
    rw [takeover_of_ready hready, pairSwitched_halted, hhalted, if_neg Bool.false_ne_true]
  have hkeeps := standbyAsked_keeps (pairSwitched 4 s)
  have hnow : (takeover 4 s).now = s.now := by
    rw [htakeover, hkeeps.now]
    simp [pairSwitched]
  have hhub : (takeover 4 s).hub = s.hub := by
    have hasked : (standbyAsked (pairSwitched 4 s)).hub = _ := hkeeps.stands .hub
    rw [htakeover, hasked]
    simp [pairSwitched]
  obtain ⟨t, ht, hanswered, hreplied⟩ := command_replies (m := execPorterSwitch c s) (u := takeover 4 s) (status := 0) (body := []) rfl rfl hadmits
    (by simp [hlen]) (by simp only [hhub, hresetting, if_neg Bool.false_ne_true, answer]) hnow
  refine ⟨t, ht, hanswered, hreplied, ?_⟩
  rw [State.fld_eq_of_reg_eq (f := BIST_PORTER_STATUS.ACTIVE) (hreplied.2 _ (by decide) (by decide) (by decide)), htakeover, pairSwitched_active]

/-- Settles O45, clause by clause: each command passes the gate and its parameters' ranges, and ends in its final reply or its job. -/
theorem conciergeCommandsAnswer : Obligations.ConciergeCommandsAnswer := by
  refine ⟨fun _ _ => execCncClaim_takes, fun c cl s hadmits hlen hok hheld => ?_, fun _ _ _ => execCncRelease_releases,
    fun c s hadmits hlen hfirst => ?_, fun _ _ _ _ => execSliceSwap_begins, fun _ _ _ => execBistRun_begins,
    fun c s hadmits hlen hfits hrange => ?_, fun _ _ => execPorterSwitch_switches⟩
  · refine command_replies (m := execCncClaim c s) rfl rfl hadmits (by simp [hlen]) ?_ rfl
    simp only [hok, Bool.not_true, if_neg Bool.false_ne_true, withClaim_of_held hheld, beginClaim, answer]
  · exact command_replies (m := execCncList c s) rfl rfl hadmits (by simp [hlen]) (if_neg (Nat.not_lt.2 hfirst)) rfl
  · refine command_replies (m := execBistCfg c s) rfl rfl hadmits (by simp [hlen]) ?_ (putFields_now ..)
    have hok : ¬(bit (u8 (pktOf s 0x0905 c) 0) 1 = true ∧ (u16 (pktOf s 0x0905 c) 2 < 1 ∨ 720 < u16 (pktOf s 0x0905 c) 2)) := by
      rintro ⟨hsweep, hout⟩
      have hin := hrange hsweep
      omega
    simp only [hfits, Bool.not_true, Bool.false_eq_true, false_or, if_neg hok, answer]

end Sys2Proof.Claims
end

section
/-! PROOF. Accesses of the register bus and of the debug access port, one clause of the statement after the other (O46). -/
-- the whole text is compiled at once: its threads share one memory limit
set_option Elab.async false
namespace Sys2Proof.Claims
open Sys2Proof Sys2Proof.Machine

/-! ### A served access of a master other than the DAP (R452) -/

section
variable {x : BusAccess} {hw : HwUpdate} {s : State} (hm : x.m ≠ .dap) (hhalted : halted s = false)
  (hwait : mustWait s s.hub.wakes x = false) (hgo : reach s x.m x.a = .go)

include hm

theorem endWith_emits (v : Word) (status : Nat) : endWith x v status s = s.emit (.readData x v status) :=
  if_neg (by simpa using hm)

theorem access_performs (hwait : mustWait s s.hub.wakes x = false) (hgo : reach s x.m x.a = .go) : access x hw s = perform x hw s := by
  have hdap : ¬(x.m == .dap) = true := by simpa using hm
  simp only [access, if_neg hdap, hwait, if_neg Bool.false_ne_true, endAccess, hgo]

include hhalted hwait hgo

theorem issue_performs : issue x hw s = perform x hw s := by
  have hdap : ¬(x.m == .dap) = true := by simpa using hm
  rw [issue, if_neg hdap, hhalted, if_neg Bool.false_ne_true, access_performs hm hwait hgo]

theorem issue_writes {v : Word} (hwr : x.wr = some v) :
    issue x hw s = (busWrite x.m x.a v.toNat hw s).2.emit (.readData x 0 (busWrite x.m x.a v.toNat hw s).1) := by
  rw [issue_performs hm hhalted hwait hgo, perform, hwr]
  exact endWith_emits hm _ _

theorem issue_reads (hwr : x.wr = none) :
    issue x hw s = (busRead x.m x.a hw.inc s).2.emit (.readData x (busRead x.m x.a hw.inc s).1 0) := by
  rw [issue_performs hm hhalted hwait hgo, perform, hwr]
  exact endWith_emits hm _ _

end

/-! ### Counters of 64 bits (R455) -/

theorem busRead_shadows (m : Master) (a inc : Nat) (s : State) : (busRead m a inc s).2.shadows = (serveRead m a inc s).2.shadows := by
  unfold busRead
  dsimp only
  split <;> rfl

/-- A read of a low word fills the master's shadow with the high word shown. -/
theorem busRead_low_fills {a : Nat} {s : State} (hlow : halfAt a = .low) (hwindow : isWindow s a = false) (m : Master) (inc : Nat) :
    SMap.get (fun _ => 0) (busRead m a inc s).2.shadows (shadowKey a m) = word (shown s (a + 4)) := by
  have hcore : a ≠ DBG_CORE_DATA := by
    rintro rfl
    exact absurd hlow (by decide +kernel)
  rw [busRead_shadows]
  unfold halfAt at hlow
  unfold isWindow at hwindow
  unfold serveRead
  cases hreg : regAt a with
  | none => simp [hreg] at hlow
  | some row =>
    obtain ⟨b, i, r, j⟩ := row
    simp only [hreg] at hlow hwindow
    have hnone : windowStep b i a s = none := Option.not_isSome_iff_eq_none.1 (by simp [hwindow])
    have hrestart (t : State) : (restartRc a r.fields inc t).shadows = t.shadows :=
      leaves [.regs] .shadows fun _ _ => keeps_restartRc (keeps_refl _ t)
    simp only [if_neg hcore, hnone, hlow]
    split
    · exact SMap.get_put_same _ _ _ _
    · rw [hrestart]
      exact SMap.get_put_same _ _ _ _

/-! ### The debug access port (R552) -/

/-- The state with another instruction in the TAP and another record of outputs: no access depends on either. -/
def tapped (ir : Nat) (outs : List Out) (s : State) : State := { s with hub := { s.hub with ir := ir }, out := outs }

section
variable (ir : Nat) (outs : List Out) (s : State)

theorem reach_tapped (m : Master) (a : Nat) : reach (tapped ir outs s) m a = reach s m a := rfl

theorem shown_tapped (a : Nat) : shown (tapped ir outs s) a = shown s a := rfl

theorem windowData_tapped (b : Blk) (i a : Nat) : (windowData b i a (tapped ir outs s)).1 = (windowData b i a s).1 := by
  simp only [windowData, readCoef]
  cases b with
  | pair =>
    simp only [apply_ite Prod.fst]
    rfl
  | _ => rfl

theorem windowStep_tapped (b : Blk) (i a : Nat) : (windowStep b i a (tapped ir outs s)).isSome = (windowStep b i a s).isSome := by
  unfold windowStep
  cases b with
  | hub | cal | gb | cnc | pair =>
    simp only [apply_ite Option.isSome]
    rfl
  | _ => rfl

end

/-- The word that a read of DBG_CORE_DATA gives, and the free values left after it. -/
def coreWord (s : State) : Nat := if !halted s then 0 else if s.fld DBG_CORE_ADDR.SPACE = 3 then 0
  else (SMap.get (fun _ => none) s.core (coreKey s)).elim (word s.draw.1).toNat (·.toNat)

def coreFree (s : State) : Nat := if !halted s then s.free else if s.fld DBG_CORE_ADDR.SPACE = 3 then s.free
  else (SMap.get (fun _ => none) s.core (coreKey s)).elim (s.free + 1) (fun _ => s.free)

theorem readCore_fst (quiet : Bool) (s : State) : (readCore quiet s).1 = coreWord s := by
  unfold readCore coreWord
  split
  · rfl
  · dsimp only
    split
    · rfl
    · cases SMap.get (fun _ => none) s.core (coreKey s) <;> rfl

theorem readCore_free (quiet : Bool) (s : State) : (readCore quiet s).2.free = coreFree s := by
  have hfin (t : State) : (if quiet then t else stepCore t).free = t.free := by
    split
    · rfl
    · exact leaves [.regs] .free fun _ _ => keeps_stepCore (keeps_refl _ t)
  unfold readCore coreFree
  split
  · rfl
  · dsimp only
    split
    · exact hfin s
    · cases SMap.get (fun _ => none) s.core (coreKey s) with
      | some w => exact hfin s
      | none => exact hfin _

theorem serveRead_tapped (ir : Nat) (outs : List Out) (m : Master) (a inc : Nat) (s : State) :
    (serveRead m a inc (tapped ir outs s)).1 = (serveRead m a inc s).1 := by
  unfold serveRead
  cases regAt a with
  | none => rfl
  | some row =>
    obtain ⟨b, i, r, j⟩ := row
    by_cases hcore : a = DBG_CORE_DATA
    · simp only [if_pos hcore, readCore_fst]
      rfl
    · have hstep := windowStep_tapped ir outs s b i a
      simp only [if_neg hcore]
      cases hold : windowStep b i a s with
      | some u =>
        obtain ⟨w, hnew⟩ := Option.isSome_iff_exists.1 (hstep.trans (by rw [hold]; rfl))
        simp only [hnew, windowData_tapped]
      | none =>
        have hnew : windowStep b i a (tapped ir outs s) = none := by
          rw [← Option.not_isSome_iff_eq_none, hstep, hold]
          decide
        simp only [hnew, shown_tapped]
        rfl

theorem keeps_serveRead_plain {F : Kind → Prop} [May F .regs] [May F .shadows] {r s : State} {m : Master} {a inc : Nat} (ha : a ≠ DBG_CORE_DATA)
    (h : Keeps F r s) : Keeps F r (serveRead m a inc s).2 := by
  unfold serveRead
  split
  · exact h
  · rw [if_neg ha]
    split
    · exact keeps_ite (keeps_windowData h) (optKeeps_getD (keeps_windowStep (keeps_windowData h)) (keeps_windowData h))
    · have hshadow (b : Half) : Keeps F r (match b with
          | .low => { s with shadows := SMap.put (fun _ => 0) s.shadows (shadowKey a m) (word (shown s (a + 4))) }
          | _ => s) := by
        cases b with
        | low => exact keeps_shadows_put h
        | high | whole => exact h
      exact keeps_ite (hshadow _) (keeps_restartRc (hshadow _))

/-- A served read draws no free value, but for the first read of a core's word. -/
theorem serveRead_free (m : Master) (a inc : Nat) (s : State) :
    (serveRead m a inc s).2.free = if (regAt a).isSome ∧ a = DBG_CORE_DATA then coreFree s else s.free := by
  by_cases hcore : a = DBG_CORE_DATA
  · unfold serveRead
    cases regAt a with
    | none => rfl
    | some row =>
      obtain ⟨b, i, r, j⟩ := row
      rw [if_pos ⟨rfl, hcore⟩, ← readCore_free (quietRead s m)]
      dsimp only
      rw [if_pos hcore]
  · rw [if_neg (fun h => hcore h.2)]
    exact leaves [.regs, .shadows] .free fun _ _ => keeps_serveRead_plain hcore (keeps_refl _ s)

theorem busRead_fst (m : Master) (a inc : Nat) (s : State) : (busRead m a inc s).1 =
    if badDividers s then word (if Config.freeNat (serveRead m a inc s).2.free % 2 = 1 then Config.freeNat ((serveRead m a inc s).2.free + 1)
      else (serveRead m a inc s).1) else word (serveRead m a inc s).1 := by
  unfold busRead
  generalize serveRead m a inc s = served
  dsimp only
  split <;> rfl

theorem busRead_tapped (ir : Nat) (outs : List Out) (m : Master) (a inc : Nat) (s : State) :
    (busRead m a inc (tapped ir outs s)).1 = (busRead m a inc s).1 := by
  rw [busRead_fst, busRead_fst, serveRead_tapped, serveRead_free, serveRead_free]
  rfl

/-- The state with an operation of the DAP begun. -/
def dapBusy (a : Nat) (s : State) : State := s.modHub (fun h => { h with dapState := 1, dapAddr := a })

/-- The state with an operation of the DAP begun under its instruction. -/
def dapBegun (a : Nat) (s : State) : State := tapped 0x20 (loadIr 0x20 s).out (dapBusy a s)

theorem reach_dapBusy (m : Master) (a b : Nat) (s : State) : reach (dapBusy b s) m a = reach s m a := rfl

theorem reach_dapBegun (m : Master) (a b : Nat) (s : State) : reach (dapBegun b s) m a = reach s m a := by
  rw [dapBegun, reach_tapped, reach_dapBusy]

theorem behind_tapped (ir : Nat) (outs : List Out) (b : Nat) (s : State) (earlier : List BusAccess) (x : BusAccess) :
    behind (tapped ir outs (dapBusy b s)) earlier x = behind s earlier x := rfl

theorem mustWait_dapBegun (x : BusAccess) (b : Nat) (s : State) : mustWait (dapBegun b s) s.hub.wakes x = mustWait s s.hub.wakes x := by
  rw [mustWait, mustWait, reach_dapBegun, dapBegun, behind_tapped]

/-- An access of the DAP with no operation busy. -/
theorem access_dap (x : BusAccess) (hm : x.m = .dap) (s : State) : access x noUpdate (loadIr 0x20 s) =
    if mustWait (dapBegun x.a s) s.hub.wakes x then startWakes ((dapBegun x.a s).modHub (fun h => { h with wakes := h.wakes ++ [x] }))
    else endAccess x noUpdate (dapBegun x.a s) := by
  have hdap : (x.m == .dap) = true := by rw [hm]; rfl
  rw [access, if_pos hdap]
  rfl

section
variable {a : Nat} {wr : Option Word} {s : State} (hboard : s.hub.boardTest = none) (hidle : s.hub.dapState ≠ 1)
  (hwait : mustWait s s.hub.wakes ⟨a % 2 ^ 32 / 4 * 4, wr, .dap⟩ = false) (hgo : reach s .dap (a % 2 ^ 32 / 4 * 4) = .go)
include hboard hidle hwait hgo

theorem issue_dap : issue ⟨a, wr, .dap⟩ noUpdate (loadIr 0x20 s) =
    perform ⟨a % 2 ^ 32 / 4 * 4, wr, .dap⟩ noUpdate (dapBegun (a % 2 ^ 32 / 4 * 4) s) := by
  have hboard' : ¬(loadIr 0x20 s).hub.boardTest.isSome = true := by
    show ¬s.hub.boardTest.isSome = true
    simp [hboard]
  have hissue : issue ⟨a, wr, .dap⟩ noUpdate (loadIr 0x20 s) = access ⟨a % 2 ^ 32 / 4 * 4, wr, .dap⟩ noUpdate (loadIr 0x20 s) :=
    (if_pos rfl).trans ((if_neg hboard').trans (if_neg hidle))
  rw [hissue, access_dap _ rfl, mustWait_dapBegun, hwait, if_neg Bool.false_ne_true]
  simp only [endAccess, reach_dapBegun, hgo]

end

/-- The end of a DAP operation that is served: DONE with its word. -/
theorem endWith_dap {x : BusAccess} (hm : x.m = .dap) {s : State} (hbusy : s.hub.dapState = 1) (v : Word) :
    (endWith x v 0 s).hub = { s.hub with dapState := 0, dapData := if x.wr.isSome then 0 else v.toNat } ∧
      ∀ b ≠ DBG_DAP_OPS, (endWith x v 0 s).reg b = s.reg b := by
  have hdap : (x.m == .dap) = true := by rw [hm]; rfl
  have hend : endWith x v 0 s = (s.inc DBG_DAP_OPS).modHub (fun h => { h with dapState := 0, dapData := if x.wr.isSome then 0 else v.toNat }) :=
    (if_pos hdap).trans (if_neg (not_not_intro hbusy))
  refine ⟨by rw [hend]; simp, fun b hb => ?_⟩
  rw [hend, State.reg_congr _ _ (State.modHub_regs _ _), State.inc, State.reg_setReg_other _ _ _ _ hb]

theorem insertBits_word (old v : Nat) (hold : old < 2 ^ 32) : insertBits old 31 0 v = v % 2 ^ 32 := by
  rw [insertBits, Nat.div_eq_of_lt hold, Nat.pow_zero, Nat.mod_one]
  omega

/-- The one field of HUB_SCRATCH. -/
def scratchField : FieldDef := ⟨31, 0, .rw, false, 0⟩

theorem regAt_scratch : regAt HUB_SCRATCH = some (.hub, 0, ⟨16, 0, 1, .whole, [scratchField]⟩, 0) := rfl

theorem scratch_not_isCfgReg : isCfgReg HUB_SCRATCH = false := by decide +kernel

theorem writeSpecial_scratch (v : Nat) (s : State) : writeSpecial .hub 0 HUB_SCRATCH v s = none := by
  simp only [writeSpecial, windowStep, if_neg (by decide : ¬HUB_SCRATCH = CLK_DIV), if_neg (by decide : ¬HUB_SCRATCH = PWR_AVS_CFG),
    if_neg (by decide : ¬HUB_SCRATCH = PWR_DOM_CTRL), if_neg (by decide : ¬HUB_SCRATCH = CFG_COMMIT),
    if_neg (by decide : ¬HUB_SCRATCH = CFG_CHECK_STATUS), if_neg (by decide : ¬HUB_SCRATCH = PWR_DOM_DATA)]

theorem afterWrite_scratch (v : Nat) (s : State) : afterWrite .hub 0 HUB_SCRATCH v s = s := by
  simp only [afterWrite, if_neg (by decide : ¬(HUB_SCRATCH = CLK_CDC_OVERRUN0 ∨ HUB_SCRATCH = CLK_CDC_OVERRUN1)),
    if_neg (by decide : ¬HUB_SCRATCH = PWR_DOMAIN_CFG), if_neg (by decide : ¬(HUB_INT_STATUS ≤ HUB_SCRATCH ∧ HUB_SCRATCH < HUB_INT_LANE 5))]

theorem fieldAfter_scratch (old v : Nat) : fieldAfter HUB_SCRATCH scratchField old v noUpdate = bits v 31 0 := by
  have hcounter : isCounter HUB_SCRATCH ⟨31, 0, .rw, false, 0⟩ = false := by simp [isCounter]
  simp only [fieldAfter, scratchField, hcounter, if_neg Bool.false_ne_true]

theorem word_insertBits_all (old : Nat) (v : Word) (hold : old < 2 ^ 32) : word (insertBits old 31 0 (bits v.toNat 31 0)) = v := by
  have hv : bits v.toNat 31 0 % 2 ^ 32 = v.toNat := by
    have := v.isLt
    simp only [bits]
    omega
  rw [insertBits_word _ _ hold, hv]
  simp [word]

/-- A register whose write is a store of its fields (R452). -/
theorem writePlain_stores {a : Nat} {b : Blk} {i j : Nat} {r : RegDef} {v : Nat} {s : State} (hrow : regAt a = some (b, i, r, j))
    (hhalf : r.half = .whole) (hspecial : writeSpecial b i a v s = none) (hcfg : a ≠ MR_CFG) (m : Master) : writePlain m a v noUpdate s =
      afterWrite b i a v (s.setReg a (word (r.fields.foldl (fun w f => insertBits w f.hi f.lo (fieldAfter a f (s.reg a).toNat v noUpdate))
        (s.reg a).toNat))) := by
  have hlost : ∀ f : FieldDef → Bool, (noUpdate.rwh.isSome && r.fields.any f) = false := fun _ => rfl
  simp only [writePlain, hrow, hhalf, hspecial, if_neg hcfg, hlost, if_neg Bool.false_ne_true]

/-- HUB_SCRATCH is a plain store. -/
theorem busWrite_scratch (m : Master) (v : Word) (s : State) : busWrite m HUB_SCRATCH v.toNat noUpdate s = (0, s.setReg HUB_SCRATCH v) := by
  rw [busWrite_plain (by decide), scratch_not_isCfgReg, if_neg Bool.false_ne_true,
    writePlain_stores regAt_scratch rfl (writeSpecial_scratch ..) (by decide), afterWrite_scratch, List.foldl_cons, List.foldl_nil, fieldAfter_scratch]
  exact congrArg (fun w => (0, s.setReg HUB_SCRATCH w)) (word_insertBits_all _ v (BitVec.isLt _))

/-! ### The clauses -/

theorem isSome_of_eq {α : Type} {o : Option α} {v : α} (h : o = some v) : o.isSome = true := by rw [h]; rfl

theorem execDapOperation_reads {op a v : Nat} {s : State} (hop : op % 4 = 1) (hboard : s.hub.boardTest = none) (hidle : s.hub.dapState ≠ 1)
    (hwait : mustWait s s.hub.wakes ⟨a % 2 ^ 32 / 4 * 4, none, .dap⟩ = false) (hgo : reach s .dap (a % 2 ^ 32 / 4 * 4) = .go) :
    ∃ t : State, exec (.dapOperation op a v) s = .next t ∧ (t.hub.dapState = 0 ∧ t.hub.dapAddr = a % 2 ^ 32 / 4 * 4 ∧
      t.hub.dapData = (busRead .dap (a % 2 ^ 32 / 4 * 4) 0 (s.modHub (fun h => { h with dapState := 1, dapAddr := a % 2 ^ 32 / 4 * 4 }))).1.toNat) := by
  have hexec : exec (.dapOperation op a v) s = .next (issue ⟨a, none, .dap⟩ noUpdate (loadIr 0x20 s)) := by
    show execDapOperation op a v s = _
    simp only [execDapOperation, hop, hboard, Option.isSome_none, if_neg Bool.false_ne_true]
  refine ⟨_, hexec, ?_⟩
  rw [issue_dap hboard hidle hwait hgo, perform]
  have hhub : (busRead .dap (a % 2 ^ 32 / 4 * 4) 0 (dapBegun (a % 2 ^ 32 / 4 * 4) s)).2.hub = (dapBegun (a % 2 ^ 32 / 4 * 4) s).hub :=
    leaves [.free, .regs, .shadows, .core] .hub fun _ _ => keeps_busRead (keeps_refl _ _)
  have hbusy : (busRead .dap (a % 2 ^ 32 / 4 * 4) 0 (dapBegun (a % 2 ^ 32 / 4 * 4) s)).2.hub.dapState = 1 := by rw [hhub]; rfl
  obtain ⟨hended, -⟩ := endWith_dap (x := ⟨a % 2 ^ 32 / 4 * 4, none, .dap⟩) rfl hbusy
    (busRead .dap (a % 2 ^ 32 / 4 * 4) 0 (dapBegun (a % 2 ^ 32 / 4 * 4) s)).1
  refine ⟨(congrArg (·.dapState) hended).trans rfl, ?_, ?_⟩
  · refine (congrArg (·.dapAddr) hended).trans ?_
    show (busRead .dap (a % 2 ^ 32 / 4 * 4) 0 (dapBegun (a % 2 ^ 32 / 4 * 4) s)).2.hub.dapAddr = _
    rw [hhub]
    rfl
  · refine (congrArg (·.dapData) hended).trans ?_
    rw [dapBegun, busRead_tapped]
    rfl

theorem execDapOperation_writes {op a v : Nat} {s : State} (hop : op % 4 = 2) (ha : a = HUB_SCRATCH) (hboard : s.hub.boardTest = none)
    (hidle : s.hub.dapState ≠ 1) (hwait : mustWait s s.hub.wakes ⟨a, some (word v), .dap⟩ = false) (hgo : reach s .dap a = .go) :
    ∃ t : State, exec (.dapOperation op a v) s = .next t ∧ t.reg HUB_SCRATCH = word v ∧ t.hub.dapState = 0 ∧ t.hub.dapData = 0 := by
  have hexec : exec (.dapOperation op a v) s = .next (issue ⟨a, some (word v), .dap⟩ noUpdate (loadIr 0x20 s)) := by
    show execDapOperation op a v s = _
    simp only [execDapOperation, hop, hboard, Option.isSome_none, if_neg Bool.false_ne_true]
  have haligned : a % 2 ^ 32 / 4 * 4 = a := by
    rw [ha]
    decide
  refine ⟨_, hexec, ?_⟩
  rw [issue_dap hboard hidle (by rwa [haligned]) (by rwa [haligned]), haligned, ha, perform]
  simp only [busWrite_scratch]
  obtain ⟨hended, hregs⟩ := endWith_dap (x := ⟨HUB_SCRATCH, some (word v), .dap⟩) rfl
    (s := (dapBegun HUB_SCRATCH s).setReg HUB_SCRATCH (word v)) rfl 0
  rw [hended, hregs _ (by decide), State.reg_setReg_same]
  exact ⟨rfl, rfl, rfl⟩

/-- Settles O46, clause by clause: an access that is not held back is served by the bus write or read of its address. -/
theorem busAccessesAreServed : Obligations.BusAccessesAreServed := by
  refine ⟨fun x hw v s hwr hm hhalted hwait hgo => ?_, fun x hw s hwr hrc hm hhalted hwait hgo => ?_,
    fun x s hwr hlow hwindow hm hhalted hwait hgo => ?_, fun x v s hwr hhigh hm hhalted hwait hgo => ?_,
    fun x hw v s hwr hlow hm hhalted hwait hgo => ?_, fun x s hwr hwindow hm hhalted hwait hgo => ?_,
    fun x v s hwr hwindow hm hhalted hwait hgo => ?_, fun _ _ _ _ => execDapOperation_reads, fun _ _ _ _ => execDapOperation_writes⟩
  · exact ⟨_, if_neg (by simp [hwr]), issue_writes hm hhalted hwait hgo hwr⟩
  · exact ⟨_, if_neg (by simp [hwr, hrc]), issue_reads hm hhalted hwait hgo hwr⟩
  · refine ⟨_, if_neg (by simp [hwr, hlow]), issue_reads hm hhalted hwait hgo hwr, fun _ => ?_⟩
    rw [issue_reads hm hhalted hwait hgo hwr]
    exact busRead_low_fills hlow hwindow x.m 0
  · exact ⟨_, if_neg (by simp [hwr, hhigh]), issue_writes hm hhalted hwait hgo hwr⟩
  · exact ⟨_, if_neg (by simp [hwr, hlow]), issue_writes hm hhalted hwait hgo hwr⟩
  · exact ⟨_, if_neg (by simp [hwindow]), issue_reads hm hhalted hwait hgo hwr⟩
  · exact ⟨_, if_neg (by simp [hwindow]), issue_writes hm hhalted hwait hgo hwr⟩

end Sys2Proof.Claims
end

section
/-! SUPPORT. Power domains: what a wake and a power-down leave of a domain, and of the accesses that wait (R366, R367, R370, R371). -/
-- the whole text is compiled at once: its threads share one memory limit
set_option Elab.async false
namespace Sys2Proof.Claims
open Sys2Proof Sys2Proof.Machine

/-! ### Identifiers (R373) -/

theorem domKind_tile {id : Nat} (h : domKind id = 2) : 0x020 + (id - 0x020) = id := by
  unfold domKind at h
  split_ifs at h <;> omega

theorem domKind_octet {id : Nat} (h : domKind id = 3) : 0x040 + (id - 0x040) = id := by
  unfold domKind at h
  split_ifs at h <;> omega

/-! ### Wakes (R370, R371) -/

theorem startWakes_hub (s : State) : (startWakes s).hub = s.hub :=
  leaves [.regs, .doms] .hub fun _ _ => keeps_startWakes (keeps_refl _ s)

theorem recordStall_hub (ns : Nat) (s : State) : (recordStall ns s).hub = s.hub :=
  leaves [.regs] .hub fun _ _ => keeps_recordStall (keeps_refl _ s)

/-- A tile that wakes is rebuilt; no access is touched. -/
theorem tileWake_wakes (t : Nat) (s : State) : (tileWake t s).hub.wakes = s.hub.wakes := by
  have hrebuilt : (tileUp t (tileTrims t (applySubAdcs (fun n => n / 16 == t) (rebuildSlices t s)))).hub = s.hub :=
    leaves [.regs, .pairs, .rows, .doms, .cals] .hub fun _ _ => keeps_tileUp (keeps_tileTrims (keeps_applySubAdcs (keeps_rebuildSlices (keeps_refl _ s))))
  have hasked (u : State) : (askRecommit t 5 u).hub.wakes = u.hub.wakes := rfl
  rw [tileWake, hasked, hrebuilt]

theorem finishWake_wakes (id : Nat) (s : State) : (finishWake id s).hub.wakes = s.hub.wakes := by
  unfold finishWake
  dsimp only
  split
  · rw [State.modDom_hub, tileWake_wakes]
  · rw [State.modDom_hub, State.modDom_hub]

/-- A domain that has woken serves accesses. -/
theorem finishWake_dom (id : Nat) (s : State) : ((finishWake id s).dom id).awake = true ∧ ((finishWake id s).dom id).down = false := by
  unfold finishWake
  dsimp only
  rw [State.dom_modDom]
  exact ⟨rfl, rfl⟩

/-! ### Power-downs (R366, R367) -/

theorem losePair_doms (g : Nat) (s : State) : (losePair g s).doms = s.doms :=
  leaves [.regs, .pairs, .tbl, .held, .snr, .erle, .errs, .sigma, .noise, .coef, .seeds] .doms fun _ _ => keeps_losePair (keeps_refl _ s)

theorem losePair_ports (g : Nat) (s : State) : (losePair g s).ports = s.ports :=
  leaves [.regs, .pairs, .tbl, .held, .snr, .erle, .errs, .sigma, .noise, .coef, .seeds] .ports fun _ _ => keeps_losePair (keeps_refl _ s)

theorem tilePowerOff_dom (t : Nat) (s : State) : ((tilePowerOff t s).dom (0x020 + t)).state = 0 ∧ ((tilePowerOff t s).dom (0x020 + t)).down = true ∧
    ((tilePowerOff t s).dom (0x020 + t)).awake = false := by
  unfold tilePowerOff
  dsimp only
  rw [State.dom_modDom]
  exact ⟨rfl, rfl, rfl⟩

theorem octetOff_dom (o : Nat) (s : State) : ((octetOff o s).dom (0x040 + o)).awake = false := by
  unfold octetOff
  dsimp only
  have hlanes (u : State) : Keeps (Within [.regs]) u (forEach ((List.range 8).map (fun i => 8 * o + i)) (fun h s =>
      keepFailed h ((setLanePort h (lanePort s h) (clearLaneStatus h s)).setFld (HL_STATUS.FFE_CLAMPED h) (s.fld (HL_STATUS.FFE_CLAMPED h)))) u) :=
    keeps_within _ fun _ _ => keeps_forEach _ _ (keeps_refl _ u) fun _ _ h =>
      keeps_keepFailed (keeps_setFld (keeps_setLanePort (keeps_clearLaneStatus h)))
  rw [State.dom_congr ((hlanes _).stands .doms), State.setFld_dom, State.dom_modDom]

theorem downSub_dom (id : Nat) (s : State) : ((downSub id s).dom id).awake = false ∧ ((downSub id s).dom id).down = true := by
  rw [downSub, State.dom_modDom]
  exact ⟨rfl, rfl⟩

/-- The mark of a running power-down leaves what else a domain shows. -/
theorem modDom_down_dom (id : Nat) (s : State) : ((s.modDom id (fun d => { d with down := true })).dom id).awake = (s.dom id).awake ∧
    ((s.modDom id (fun d => { d with down := true })).dom id).down = true := by
  rw [State.dom_modDom]
  exact ⟨rfl, rfl⟩

/-- A domain of any kind that is powered off is not awake, and its power-down runs. -/
theorem powerOff_dom {id : Nat} (hlo : 1 ≤ domKind id) (hhi : domKind id ≤ 5) (s : State) :
    ((powerOff id s).dom id).awake = false ∧ ((powerOff id s).dom id).down = true := by
  unfold powerOff
  split
  next => exact ⟨by rw [State.dom_modDom], by rw [State.dom_modDom]⟩
  next hkind =>
    obtain ⟨-, hdown, hawake⟩ := tilePowerOff_dom (id - 0x020) s
    rw [domKind_tile hkind] at hdown hawake
    exact ⟨hawake, hdown⟩
  next hkind =>
    have hawake := octetOff_dom (id - 0x040) s
    rw [domKind_octet hkind] at hawake
    obtain ⟨hkept, hdown⟩ := modDom_down_dom id (octetOff (id - 0x040) s)
    exact ⟨hkept.trans hawake, hdown⟩
  next => exact downSub_dom ..
  next =>
    dsimp only
    split
    · rw [State.dom_congr (losePair_doms ..)]
      exact downSub_dom ..
    · exact downSub_dom ..
  next hcore htile hoctet hsub hslice =>
    obtain h | h | h | h | h : domKind id = 1 ∨ domKind id = 2 ∨ domKind id = 3 ∨ domKind id = 4 ∨ domKind id = 5 := by omega
    · exact absurd h hcore
    · exact absurd h htile
    · exact absurd h hoctet
    · exact absurd h hsub
    · exact absurd h hslice

theorem domKind_of_offCond {id : Nat} {s : State} (hoff : offCond s id = true) : 1 ≤ domKind id ∧ domKind id ≤ 5 := by
  unfold offCond at hoff
  split at hoff
  next hkind => omega
  next hkind => omega
  next hkind => omega
  next hkind => omega
  next hkind => omega
  next => exact absurd hoff Bool.false_ne_true

theorem portPowerOff_frontOff (n : Port) (s : State) : ((portPowerOff n s).port n).frontOff = true := by
  have hpairs : (portPowerOff n s).ports = (s.modPort n (fun k => { k with frontOff := true })).ports := by
    refine leaves [.regs, .pairs, .tbl, .held, .snr, .erle, .errs, .sigma, .noise, .coef, .seeds, .doms] .ports fun _ _ =>
      keeps_forEach _ _ (keeps_refl _ _) fun _ _ h => keeps_losePair ?_
    split
    · exact keeps_downSub (keeps_downSub h)
    · exact keeps_downSub h
  rw [State.port_congr hpairs, State.port_modPort]

end Sys2Proof.Claims
end

section
/-! PROOF. Power domains, one clause of the statement after the other (O47). -/
-- the whole text is compiled at once: its threads share one memory limit
set_option Elab.async false
namespace Sys2Proof.Claims
open Sys2Proof Sys2Proof.Machine

theorem execDomainWakeOnAccess_waits {x : BusAccess} {ids : List Nat} {s : State} (hm : x.m ≠ .dap) (hhalted : halted s = false)
    (hreach : reach s x.m x.a = .wait ids) : ∃ t : State, exec (.domainWakeOnAccess x) s = .next t ∧ t.hub.wakes = s.hub.wakes ++ [x] := by
  have hdap : ¬(x.m == .dap) = true := by simpa using hm
  have hwait : mustWait s s.hub.wakes x = true := by rw [mustWait, hreach]
  refine ⟨issue x noUpdate s, ?_, ?_⟩
  · show execDomainWakeOnAccess x s = _
    rw [execDomainWakeOnAccess, hreach]
  · simp only [issue, if_neg hdap, hhalted, if_neg Bool.false_ne_true, access, hwait, if_true]
    rw [startWakes_hub]
    rfl

theorem execDomainWakeDone_wakes {id stallNs : Nat} {s : State} (hstate : (s.dom id).state = 4) (hwaking : domState s id = 4) :
    exec (.domainWakeDone id stallNs) s =
      .next (settleWakes (finishWake id (if accessWaits s id then recordStall stallNs s else s))) :=
  if_neg (by simp [hstate, hwaking])

theorem execDomainWakeDone_awake {id stallNs : Nat} {s : State} (hstate : (s.dom id).state = 4) (hwaking : domState s id = 4)
    (hwakes : s.hub.wakes = []) : ∃ t : State, exec (.domainWakeDone id stallNs) s = .next t ∧ (t.dom id).awake = true ∧ (t.dom id).down = false := by
  refine ⟨_, execDomainWakeDone_wakes hstate hwaking, ?_⟩
  have hnone : (finishWake id (if accessWaits s id then recordStall stallNs s else s)).hub.wakes = [] := by
    rw [finishWake_wakes]
    split
    · rw [recordStall_hub, hwakes]
    · exact hwakes
  rw [settleWakes_of_none hnone]
  exact finishWake_dom ..

/-- The state in which a wake has failed: no access names the address. -/
theorem execDomainWakeFail_faults {id : Nat} {s : State} (hstate : (s.dom id).state = 4) (hwaking : domState s id = 4) (hwakes : s.hub.wakes = []) :
    ∃ t : State, exec (.domainWakeFail id) s = .next t ∧ (t.dom id).state = 5 ∧ t.fld PWR_DOMAIN_LAST_FAULT.ID = id % 2 ^ 12 ∧
      t.reg PWR_DOMAIN_FAULTS = s.reg PWR_DOMAIN_FAULTS + 1 ∧ t.raised = s.raised ++ [⟨0x1070, 2, [id, 0]⟩] := by
  show ∃ t : State, execDomainWakeFail id s = .next t ∧ _
  rw [execDomainWakeFail, if_neg (by simp [hstate, hwaking])]
  extract_lets needs addr s1 s2
  have haddr : addr = 0 := by simp [addr, hwakes]
  have hnone : s2.hub.wakes = [] := by simpa [s2, s1] using hwakes
  rw [settleWakes_of_none hnone]
  refine ⟨s2, rfl, ?_, ?_, ?_, ?_⟩
  · simp [s2, s1]
  · rw [State.raise_fld, State.fld_intBit_other _ (by decide) (by decide), State.fld_inc_other _ _ _ (by decide),
      State.fld_setFld_same _ _ _ (by decide) (by decide)]
    rfl
  · have hreg : s2.reg PWR_DOMAIN_FAULTS = s1.reg PWR_DOMAIN_FAULTS + 1 := by
      rw [State.raise_reg, State.intBit, State.reg_setFld_other _ _ _ _ (by decide), State.inc, State.reg_setReg_same]
    rw [hreg, State.reg_setFld_other _ _ _ _ (by decide), State.modDom_reg]
  · rw [← haddr]
    simp [s2, s1, State.raise]

theorem execDomainReturn_sub {id : Nat} {s : State} (hawake : (s.dom id).awake = true) (hwaits : accessWaits s id = false)
    (hkind : domKind id = 4 ∨ domKind id = 5) :
    ∃ t : State, exec (.domainReturn id) s = .next t ∧ (t.dom id).awake = false ∧ (t.dom id).down = decide (domBase s id < 3) := by
  show ∃ t : State, execDomainReturn id s = .next t ∧ _
  rw [execDomainReturn, if_neg (by simp [hawake, hwaits])]
  extract_lets kind base s1 s2
  rw [if_pos hkind]
  have hdom : (s1.dom id).awake = false ∧ (s1.dom id).down = decide (base < 3) := by simp [s1]
  split
  · split
    · refine ⟨_, rfl, ?_⟩
      rw [State.dom_congr (losePair_doms ..)]
      exact hdom
    · exact ⟨_, rfl, hdom⟩
  · exact ⟨_, rfl, hdom⟩

theorem execDomainReturn_common {id : Nat} {s : State} (hawake : (s.dom id).awake = true) (hwaits : accessWaits s id = false)
    (hlo : 1 ≤ domKind id) (hhi : domKind id ≤ 3) : ∃ t : State, exec (.domainReturn id) s = .next t ∧ (t.dom id).awake = false := by
  show ∃ t : State, execDomainReturn id s = .next t ∧ _
  rw [execDomainReturn, if_neg (by simp [hawake, hwaits])]
  extract_lets kind base s1 s2
  rw [if_neg (by omega)]
  refine ⟨_, rfl, ?_⟩
  split
  · exact (powerOff_dom hlo (by omega) s2).1
  · simp [s2]

theorem execDomainPowerDownDone_ends {id : Nat} {s : State} (hdown : (s.dom id).down = true) (hwakes : s.hub.wakes = []) :
    ∃ t : State, exec (.domainPowerDownDone id) s = .next t ∧ (t.dom id).down = false := by
  refine ⟨_, if_neg (by simp [hdown]), ?_⟩
  rw [settleWakes_of_none (by rw [State.modDom_hub, hwakes]), State.dom_modDom]

theorem domRetry_of_fault {id : Nat} {s : State} (hkind : domKind id ≠ 6) (hfault : domState s id = 5)
    (hlink : domKind id = 2 → (s.tile (id - 0x020)).linkDown = false) :
    domRetry id s = (s.modDom id (fun d => { d with state := 4 })).raise 0x1071 0 [id, 1] := by
  refine if_neg ?_
  rintro (hnone | hother | ⟨htile, hdown⟩)
  · exact hkind hnone
  · exact hother hfault
  · rw [hlink htile] at hdown
    exact absurd hdown Bool.false_ne_true

/-- Settles O47, clause by clause: the last write of each is the domain's own record. -/
theorem domainsWakeAndPowerDown : Obligations.DomainsWakeAndPowerDown := by
  refine ⟨fun _ _ _ => execDomainWakeOnAccess_waits, fun _ _ _ => execDomainWakeDone_awake,
    fun id stallNs s hstate hwaking => ⟨_, execDomainWakeDone_wakes hstate hwaking, rfl⟩, fun _ _ => execDomainWakeFail_faults,
    fun _ _ => execDomainReturn_sub, fun _ _ => execDomainReturn_common, fun _ _ => execDomainPowerDownDone_ends,
    fun n s hon hoff htile hwaits => ⟨_, if_neg (by simp [hon, hoff, htile, hwaits]), portPowerOff_frontOff n s⟩,
    fun t s hoff hwaits => ⟨_, if_neg (by simp [hoff, hwaits]), tilePowerOff_dom t s⟩,
    fun id s hkind hfault hlink => ⟨_, rfl, ?_⟩, fun id s hoff hwaits hdown => ⟨_, rfl, ?_⟩⟩
  · rw [domRetry_of_fault hkind hfault hlink, State.raise_dom, State.dom_modDom]
    exact ⟨rfl, by simp [State.raise]⟩
  · have hpower : domOff id s = powerOff id s := by
      rw [domOff, if_neg (by simp [hoff]), if_neg (by simp [hwaits, hdown])]
    obtain ⟨hlo, hhi⟩ := domKind_of_offCond hoff
    exact ⟨hpower, by rw [hpower]; exact (powerOff_dom hlo hhi s).2⟩

end Sys2Proof.Claims
end

section
/-! PROOF. The core voltage and the temperature alert, one clause of the statement after the other (O48). -/
-- the whole text is compiled at once: its threads share one memory limit
set_option Elab.async false
namespace Sys2Proof.Claims
open Sys2Proof Sys2Proof.Machine

/-- What both branches of a choice agree on, the choice shows. -/
theorem onIte_same {β : Type} (f : State → β) {c : Prop} [Decidable c] {t u : State} (h : f t = f u) : f (if c then t else u) = f u := by
  split
  · exact h
  · rfl

theorem writeAvsCfg_regs (v : Nat) (s : State) : (writeAvsCfg v s).regs = ((((s.setFld PWR_AVS_CFG.ENABLE (bits v 31 31)).setFld PWR_AVS_CFG.VMAX
    (bits v 27 16)).setFld PWR_AVS_CFG.VMIN (bits v 11 0)).setFld PWR_AVS_STATUS.FAULT 0).regs :=
  onIte_same State.regs (State.modHub_regs ..)

theorem writeAvsCfg_takes (v : Nat) (s : State) : (writeAvsCfg v s).fld PWR_AVS_CFG.ENABLE = bits v 31 31 ∧
    (writeAvsCfg v s).fld PWR_AVS_CFG.VMAX = bits v 27 16 ∧ (writeAvsCfg v s).fld PWR_AVS_CFG.VMIN = bits v 11 0 ∧
    (writeAvsCfg v s).fld PWR_AVS_STATUS.FAULT = 0 := by
  simp only [State.fld_congr _ _ (writeAvsCfg_regs v s)]
  refine ⟨?_, ?_, ?_, State.fld_setFld_same _ _ _ (by decide) (by decide)⟩
  · rw [State.fld_setFld_apart _ _ _ _ (by decide) (by decide) (by decide), State.fld_setFld_apart _ _ _ _ (by decide) (by decide) (by decide),
      State.fld_setFld_apart _ _ _ _ (by decide) (by decide) (by decide)]
    exact State.fld_setFld_bits _ _ (by decide) (by decide)
  · rw [State.fld_setFld_apart _ _ _ _ (by decide) (by decide) (by decide), State.fld_setFld_apart _ _ _ _ (by decide) (by decide) (by decide)]
    exact State.fld_setFld_bits _ _ (by decide) (by decide)
  · rw [State.fld_setFld_apart _ _ _ _ (by decide) (by decide) (by decide)]
    exact State.fld_setFld_bits _ _ (by decide) (by decide)

/-! ### AVS_UPDATE (R364, R365) -/

/-- The state in which the regulator has been sent a voltage that is new, or the one of an update without ENABLE. -/
def voltsSent (target mv : Nat) (fail : Option (Nat × Nat)) (s : State) : State :=
  if (mv != (s.setFld PWR_AVS_STATUS.TARGET target).hub.avsMv || !s.flag PWR_AVS_CFG.ENABLE) && fail.all (fun f => f.1 != 1) then commandVolts mv (s.setFld PWR_AVS_STATUS.TARGET target)
  else s.setFld PWR_AVS_STATUS.TARGET target

/-- The state in which an update without ENABLE is marked done, too. -/
def voltsCommanded (target mv : Nat) (fail : Option (Nat × Nat)) (s : State) : State :=
  if !s.flag PWR_AVS_CFG.ENABLE then (voltsSent target mv fail s).modHub (fun h => { h with avsOnce := true }) else voltsSent target mv fail s

theorem voltsCommanded_regs (target mv : Nat) (fail : Option (Nat × Nat)) (s : State) :
    (voltsCommanded target mv fail s).regs = (s.setFld PWR_AVS_STATUS.TARGET target).regs :=
  (onIte_same State.regs (State.modHub_regs ..)).trans (onIte_same State.regs (by simp [commandVolts]))

theorem voltsCommanded_raised (target mv : Nat) (fail : Option (Nat × Nat)) (s : State) : (voltsCommanded target mv fail s).raised = s.raised :=
  ((onIte_same State.raised (State.modHub_raised ..)).trans (onIte_same State.raised (by simp [commandVolts]))).trans (State.setFld_raised ..)

theorem voltsSent_avsMv (target mv : Nat) (s : State) : (voltsSent target mv none s).hub.avsMv = mv := by
  unfold voltsSent
  split
  next => simp [commandVolts]
  next hstays =>
    simp only [State.setFld_hub, Option.all_none, Bool.and_true, Bool.or_eq_true, bne_iff_ne, not_or, not_not] at hstays
    obtain ⟨hsame, -⟩ := hstays
    rw [State.setFld_hub, hsame]

theorem voltsCommanded_avsMv (target mv : Nat) (s : State) : (voltsCommanded target mv none s).hub.avsMv = mv :=
  (onIte_same (fun u => u.hub.avsMv) (by simp)).trans (voltsSent_avsMv ..)

section
variable {want vout iout target mv : Nat} {s : State} (hresetting : s.hub.resetting = false) (hrom : s.flag PWR_PHASE.FW_ROM = false)
  (hstep : 7 ≤ s.fld PWR_PHASE.BOOT_STEP) (hfault : s.flag PWR_AVS_STATUS.FAULT = false) (hnext : nextVolts want s = some (target, mv))

include hresetting hrom hstep hfault hnext

theorem execAvsUpdate_commands (fail : Option (Nat × Nat)) : exec (.avsUpdate want vout iout fail) s =
    match fail with
    | some (op, st) => .next (avsFails op st ((voltsCommanded target mv fail s).setFld PWR_AVS_STATUS.BUSY 0))
    | none => .next ((((voltsCommanded target mv fail s).setFld PWR_AVS_STATUS.VOUT vout).setFld PWR_AVS_IOUT.IOUT iout).setFld
        PWR_AVS_STATUS.BUSY (decide (mv ≠ target)).toNat) := by
  have hruns : ¬(s.hub.resetting || s.flag PWR_PHASE.FW_ROM || decide (s.fld PWR_PHASE.BOOT_STEP < 7) || s.flag PWR_AVS_STATUS.FAULT) = true := by
    simp [hresetting, hrom, hfault]
    omega
  show execAvsUpdate want vout iout fail s = _
  rw [execAvsUpdate, if_neg hruns, hnext]
  cases fail <;> rfl

theorem execAvsUpdate_shows : ∃ t : State, exec (.avsUpdate want vout iout none) s = .next t ∧ t.fld PWR_AVS_STATUS.TARGET = target % 2 ^ 12 ∧
    t.fld PWR_AVS_STATUS.VOUT = vout % 2 ^ 12 ∧ t.fld PWR_AVS_IOUT.IOUT = iout % 2 ^ 16 ∧ t.hub.avsMv = mv ∧
    t.fld PWR_AVS_STATUS.BUSY = (decide (mv ≠ target)).toNat := by
  refine ⟨_, execAvsUpdate_commands hresetting hrom hstep hfault hnext none, ?_, ?_, ?_, ?_, ?_⟩
  · rw [State.fld_setFld_apart _ _ _ _ (by decide) (by decide) (by decide), State.fld_setFld_apart _ _ _ _ (by decide) (by decide) (by decide),
      State.fld_setFld_apart _ _ _ _ (by decide) (by decide) (by decide), State.fld_congr _ _ (voltsCommanded_regs ..),
      State.fld_setFld_same _ _ _ (by decide) (by decide)]
    rfl
  · rw [State.fld_setFld_apart _ _ _ _ (by decide) (by decide) (by decide), State.fld_setFld_apart _ _ _ _ (by decide) (by decide) (by decide),
      State.fld_setFld_same _ _ _ (by decide) (by decide)]
    rfl
  · rw [State.fld_setFld_apart _ _ _ _ (by decide) (by decide) (by decide), State.fld_setFld_same _ _ _ (by decide) (by decide)]
    rfl
  · simp only [State.setFld_hub, voltsCommanded_avsMv]
  · rw [State.fld_setFld_same _ _ _ (by decide) (by decide)]
    exact Nat.mod_eq_of_lt (Bool.toNat_lt _)

theorem execAvsUpdate_fails (op st : Nat) : ∃ t : State, exec (.avsUpdate want vout iout (some (op, st))) s = .next t ∧
    t.fld PWR_AVS_STATUS.FAULT = 1 ∧ t.reg PWR_AVS_FAULTS = s.reg PWR_AVS_FAULTS + 1 ∧ t.raised = s.raised ++ [⟨0x1060, 1, [op, st]⟩] := by
  refine ⟨_, execAvsUpdate_commands hresetting hrom hstep hfault hnext (some (op, st)), ?_, ?_, ?_⟩
  · rw [avsFails, State.raise_fld, State.fld_intBit_other _ (by decide) (by decide), State.fld_inc_other _ _ _ (by decide),
      State.fld_setFld_same _ _ _ (by decide) (by decide)]
    rfl
  · rw [avsFails, State.raise_reg, State.intBit, State.reg_setFld_other _ _ _ _ (by decide), State.inc, State.reg_setReg_same,
      State.reg_setFld_other _ _ _ _ (by decide), State.reg_setFld_other _ _ _ _ (by decide), State.reg_congr _ _ (voltsCommanded_regs ..),
      State.reg_setFld_other _ _ _ _ (by decide)]
  · simp [avsFails, State.raise, voltsCommanded_raised]

end

/-- Settles O48, clause by clause. -/
theorem coreVoltageAndTemperatureAlert : Obligations.CoreVoltageAndTemperatureAlert := by
  refine ⟨fun v s => ⟨_, rfl, writeAvsCfg_takes v.toNat s⟩, fun _ _ _ _ _ _ => execAvsUpdate_shows,
    fun want vout iout op st target mv s hresetting hrom hstep hfault hnext =>
      execAvsUpdate_fails hresetting hrom hstep hfault hnext op st, fun d s hnone hhot => ?_, fun a s halert hcool => ?_⟩
  · refine ⟨(s.modHub (fun h => { h with tempAlert := some s.now })).raise 0x1080 1 [d.1, d.2, unsigned 32 (sensorTemp s d)], ?_, rfl, rfl⟩
    show execTempAlertAssert s = _
    simp only [execTempAlertAssert, hnone, hhot]
  · refine ⟨(s.modHub (fun h => { h with tempAlert := none })).raise 0x1081 0 [unsigned 32 (maxTemp s), (s.now - a) / 1000], ?_, rfl, rfl⟩
    show execTempAlertRelease s = _
    simp only [execTempAlertRelease, halert, hcool, if_true]

end Sys2Proof.Claims
end

section
/-! PROOF. Board test and the TAP, one clause of the statement after the other (O49). -/
-- the whole text is compiled at once: its threads share one memory limit
set_option Elab.async false
namespace Sys2Proof.Claims
open Sys2Proof Sys2Proof.Machine

/-- The lanes that acquired or served acquire anew (R550). -/
def acquireAnew (h : Nat) (s : State) : State :=
  if laneState s h = 1 ∨ laneState s h = 2 ∨ laneState s h = 5 then
    setLaneState h 1 (setLocks h 0 (s.modLane h (fun k => freshRx (freshTx k))))
  else s

theorem loadIr_keeps (ir : Nat) (s : State) : Keeps (Within [.hub, .out]) s (loadIr ir s) :=
  keeps_within _ fun _ _ => keeps_loadIr (keeps_refl _ s)

theorem endBoardTest_of_some {ir : Nat} {s : State} (htest : s.hub.boardTest = some ir) : endBoardTest s =
    (forEach (List.range 136) acquireAnew ((s.modHub (fun h => { h with boardTest := none, rejoin := true })).setFld
      DBG_DAP_STATUS.BOARD_TEST 0)).raise 0xA003 1 [2, ir] := by
  rw [endBoardTest, htest]
  rfl

theorem acquireAnew_hub (h : Nat) (s : State) : (acquireAnew h s).hub = s.hub := by
  unfold acquireAnew
  split
  · simp [setLaneState_hub, setLocks]
  · rfl

theorem reg_acquireAnew_dapStatus {h : Nat} (hh : h < 136) (s : State) : (acquireAnew h s).reg DBG_DAP_STATUS = s.reg DBG_DAP_STATUS := by
  have hstatus : DBG_DAP_STATUS ≠ HL_STATUS h := by
    simp only [DBG_DAP_STATUS, HL_STATUS, dbgBase, laneBase]
    omega
  have hint : DBG_DAP_STATUS ≠ HUB_INT_LANE (h / 32) := by
    simp only [DBG_DAP_STATUS, HUB_INT_LANE, dbgBase, hubBase]
    omega
  have hstate (st : Nat) (u : State) : (setLaneState h st u).reg DBG_DAP_STATUS = u.reg DBG_DAP_STATUS := by
    unfold setLaneState laneInt
    split
    · rfl
    · rw [State.reg_setFld_other _ _ _ _ hint, State.reg_setFld_other _ _ _ _ hstatus]
  unfold acquireAnew
  split
  · rw [hstate, setLocks, State.reg_setFld_other _ _ _ _ hstatus, State.reg_setFld_other _ _ _ _ hstatus, State.reg_setFld_other _ _ _ _ hstatus,
      State.modLane_reg]
  · rfl

/-- After it no board test runs, and BOARD_TEST shows none. -/
theorem endBoardTest_ends {ir : Nat} {s : State} (htest : s.hub.boardTest = some ir) : (endBoardTest s).hub.boardTest = none ∧
    (endBoardTest s).fld DBG_DAP_STATUS.BOARD_TEST = 0 ∧ (endBoardTest s).raised.getLast? = some ⟨0xA003, 1, [2, ir]⟩ := by
  rw [endBoardTest_of_some htest]
  refine ⟨?_, ?_, ?_⟩
  · rw [State.raise_hub, forEach_eq_of_step_eq State.hub _ acquireAnew_hub, State.setFld_hub]
    rfl
  · have hlanes := forEach_eq_of_mem_step_eq (fun u => u.reg DBG_DAP_STATUS) (f := acquireAnew) (xs := List.range 136)
      (fun h hh u => reg_acquireAnew_dapStatus (List.mem_range.1 hh) u)
      ((s.modHub (fun h => { h with boardTest := none, rejoin := true })).setFld DBG_DAP_STATUS.BOARD_TEST 0)
    rw [State.raise_fld, State.fld_eq_of_reg_eq (f := DBG_DAP_STATUS.BOARD_TEST) hlanes, State.fld_setFld_same _ _ _ (by decide) (by decide)]
    rfl
  · simp [State.raise]

/-- Whatever ran before, a TAP reset and a new instruction find no board test. -/
theorem endBoardTest_none (s : State) : (endBoardTest s).hub.boardTest = none := by
  cases htest : s.hub.boardTest with
  | none => rw [endBoardTest, htest, htest]
  | some ir => exact (endBoardTest_ends htest).1

theorem endBoardTest_dap (s : State) : (endBoardTest s).hub.dapState = s.hub.dapState ∧ (endBoardTest s).hub.dapAddr = s.hub.dapAddr ∧
    (endBoardTest s).hub.dapData = s.hub.dapData := by
  cases htest : s.hub.boardTest with
  | none => rw [endBoardTest, htest]; exact ⟨rfl, rfl, rfl⟩
  | some ir =>
    rw [endBoardTest_of_some htest, State.raise_hub, forEach_eq_of_step_eq State.hub _ acquireAnew_hub, State.setFld_hub]
    exact ⟨rfl, rfl, rfl⟩

theorem isBoardTest_endingIr (s : State) : isBoardTest (endingIr s) = false := by
  unfold endingIr
  dsimp only
  split
  next => rfl
  next hfree => exact Bool.eq_false_iff.2 hfree

/-- The pins go through the levels of the instruction. -/
theorem forEach_pins_keeps (levels : List Bool) (s : State) :
    Keeps (Within [.out]) s (forEach levels (fun i s => s.emit (.pins (pinsAt s i))) s) :=
  keeps_within _ fun _ _ => keeps_forEach _ _ (keeps_refl _ s) fun _ _ h => keeps_emit h

/-- The state in which the instruction of a board test is loaded. -/
def boardTestLoaded (load : BoardLoad) (s : State) : State :=
  loadIr load.ir (dropSync ((s.modHub (fun h => { h with boardTest := some load.ir, boundary := load.cells, rejoin := false })).setFld
    DBG_DAP_STATUS.BOARD_TEST 1))

theorem loadIr_hub (ir : Nat) (s : State) : (loadIr ir s).hub = { s.hub with ir := ir } := by
  rw [loadIr, State.emit_hub, State.hub_modHub]

theorem loadIr_regs (ir : Nat) (s : State) : (loadIr ir s).regs = s.regs := (loadIr_keeps ir s).stands .regs

theorem boardTestLoaded_hub (load : BoardLoad) (s : State) : (boardTestLoaded load s).hub.boardTest = some load.ir ∧
    (boardTestLoaded load s).hub.ir = load.ir ∧ (boardTestLoaded load s).hub.boundary = load.cells := by
  rw [boardTestLoaded, loadIr_hub, dropSync, State.hub_modHub, State.setFld_hub, State.setFld_hub, State.setFld_hub, State.hub_modHub]
  exact ⟨rfl, rfl, rfl⟩

theorem boardTestLoaded_shows (load : BoardLoad) (s : State) : (boardTestLoaded load s).fld DBG_DAP_STATUS.BOARD_TEST = 1 ∧
    (boardTestLoaded load s).flag MR_STATUS.MR0_SYNC = false ∧ (boardTestLoaded load s).flag MR_STATUS.MR1_SYNC = false := by
  rw [boardTestLoaded, State.fld_congr _ _ (loadIr_regs ..), State.flag_congr _ _ (loadIr_regs ..), State.flag_congr _ _ (loadIr_regs ..)]
  refine ⟨?_, dropSync_unsyncs _⟩
  rw [dropSync, State.modHub_fld, State.fld_setFld_apart _ _ _ _ (by decide) (by decide) (by decide),
    State.fld_setFld_apart _ _ _ _ (by decide) (by decide) (by decide)]
  exact State.fld_setFld_same _ _ _ (by decide) (by decide)

theorem execBoardTestBegin_loads {load : BoardLoad} {s : State} (hcode : isBoardTest load.ir = true) (hother : s.hub.boardTest ≠ some load.ir) :
    exec (.boardTestBegin load) s = .next ((forEach (acLevels load.ir load.idle) (fun i s => s.emit (.pins (pinsAt s i)))
      (boardTestLoaded load (endBoardTest s))).raise 0xA003 1 [1, load.ir]) :=
  if_neg (by simp [hcode, hother])

theorem execBoardTestBegin_begins {load : BoardLoad} {s : State} (hcode : isBoardTest load.ir = true) (hother : s.hub.boardTest ≠ some load.ir) :
    ∃ t : State, exec (.boardTestBegin load) s = .next t ∧ t.hub.boardTest = some load.ir ∧ t.hub.ir = load.ir ∧ t.hub.boundary = load.cells ∧
      t.fld DBG_DAP_STATUS.BOARD_TEST = 1 ∧ t.flag MR_STATUS.MR0_SYNC = false ∧ t.flag MR_STATUS.MR1_SYNC = false ∧
      t.raised.getLast? = some ⟨0xA003, 1, [1, load.ir]⟩ := by
  refine ⟨_, execBoardTestBegin_loads hcode hother, ?_⟩
  have hpins := forEach_pins_keeps (acLevels load.ir load.idle) (boardTestLoaded load (endBoardTest s))
  have hregs : _ = _ := hpins.stands .regs
  have hhub : _ = _ := hpins.stands .hub
  obtain ⟨htest, hir, hcells⟩ := boardTestLoaded_hub load (endBoardTest s)
  obtain ⟨hshown, hsync0, hsync1⟩ := boardTestLoaded_shows load (endBoardTest s)
  rw [State.raise_hub, hhub, State.raise_fld, State.fld_congr _ _ hregs, State.raise_flag, State.flag_congr _ _ hregs, State.raise_flag,
    State.flag_congr _ _ hregs, State.raised_raise, List.getLast?_concat]
  exact ⟨htest, hir, hcells, hshown, hsync0, hsync1, rfl⟩

theorem execBoardTestEnd_ends {j : Nat} {s : State} (htest : s.hub.boardTest = some j) : ∃ t : State, exec .boardTestEnd s = .next t ∧
    t.hub.boardTest = none ∧ t.hub.ir = endingIr s ∧ isBoardTest t.hub.ir = false ∧ t.fld DBG_DAP_STATUS.BOARD_TEST = 0 ∧
    t.raised.getLast? = some ⟨0xA003, 1, [2, j]⟩ := by
  refine ⟨_, rfl, ?_⟩
  obtain ⟨hnone, hshown, hraised⟩ := endBoardTest_ends (s := s.draw.2) (by rw [State.draw_hub, htest])
  have hevents : _ = _ := (loadIr_keeps (endingIr s) (endBoardTest s.draw.2)).stands .raised
  rw [State.emit_hub, State.emit_fld, State.emit_raised, loadIr_hub, State.fld_congr _ _ (loadIr_regs ..), hevents]
  exact ⟨hnone, rfl, isBoardTest_endingIr s, hshown, hraised⟩

/-- Settles O49, clause by clause. -/
theorem boardTestAndTap : Obligations.BoardTestAndTap := by
  refine ⟨fun _ _ => execBoardTestBegin_begins, fun _ _ => execBoardTestEnd_ends, fun s => ⟨_, rfl, endBoardTest_none _, ?_⟩⟩
  obtain ⟨hstate, haddr, hdata⟩ := endBoardTest_dap (s.modHub (fun h => { h with dapState := 0, dapAddr := 0, dapData := 0, ir := 2 }))
  exact ⟨hstate, haddr, hdata⟩

end Sys2Proof.Claims
end

section
/-! PROOF. The ring inputs: sync, its losses, breaks and their ends (R389, R394, R409), one clause of the statement after the other (O51). -/
-- the whole text is compiled at once: its threads share one memory limit
set_option Elab.async false
namespace Sys2Proof.Claims
open Sys2Proof Sys2Proof.Machine

/-! ### The registers of an input -/

theorem ringSync_bit : ∀ r : Fin 2, (ringSync r).addr = MR_STATUS ∧ (ringSync r).lo ≤ (ringSync r).hi ∧ (ringSync r).hi < 32 := by decide

theorem ringBroken_bit : ∀ r : Fin 2, (ringBroken r).addr = MR_STATUS ∧ (ringBroken r).lo ≤ (ringBroken r).hi ∧ (ringBroken r).hi < 32 := by decide

theorem ringSync_apart_ringBroken : ∀ r : Fin 2, (ringBroken r).hi < (ringSync r).lo := by decide

theorem ringCodeErr_ne_status : ∀ r : Fin 2, ringCodeErr r ≠ MR_STATUS := by decide

theorem ringGlitches_ne_status : ∀ r : Fin 2, ringGlitches r ≠ MR_STATUS := by decide

section
variable (r : Fin 2) (v : Nat) (s : State)

theorem flag_setSync_one : (s.setFld (ringSync r) 1).flag (ringSync r) = true := by
  obtain ⟨-, hle, hlt⟩ := ringSync_bit r
  exact State.flag_setFld_one _ _ hle hlt

theorem flag_setSync_zero : (s.setFld (ringSync r) 0).flag (ringSync r) = false := by
  obtain ⟨-, hle, hlt⟩ := ringSync_bit r
  exact State.flag_setFld_zero _ _ hle hlt

theorem flag_setBroken_one : (s.setFld (ringBroken r) 1).flag (ringBroken r) = true := by
  obtain ⟨-, hle, hlt⟩ := ringBroken_bit r
  exact State.flag_setFld_one _ _ hle hlt

theorem flag_setBroken_zero : (s.setFld (ringBroken r) 0).flag (ringBroken r) = false := by
  obtain ⟨-, hle, hlt⟩ := ringBroken_bit r
  exact State.flag_setFld_zero _ _ hle hlt

theorem sync_setBroken : (s.setFld (ringBroken r) v).flag (ringSync r) = s.flag (ringSync r) := by
  obtain ⟨-, hle, hlt⟩ := ringBroken_bit r
  exact State.flag_setFld_apart _ _ _ _ hle hlt (.inr (.inr (ringSync_apart_ringBroken r)))

theorem broken_setSync : (s.setFld (ringSync r) v).flag (ringBroken r) = s.flag (ringBroken r) := by
  obtain ⟨-, hle, hlt⟩ := ringSync_bit r
  exact State.flag_setFld_apart _ _ _ _ hle hlt (.inr (.inl (ringSync_apart_ringBroken r)))

end

/-! ### The loss that is kept -/

theorem ringLost_congr {s t : State} (h : t.hub = s.hub) (r : Nat) : ringLost t r = ringLost s r := by
  rw [ringLost, ringLost, h]

theorem ringLost_setRingLost (r : Nat) (t : Option Nat) (s : State) : ringLost (setRingLost r t s) r = t := by
  rw [ringLost, setRingLost, State.hub_modHub]
  split
  · rfl
  · rfl

theorem setRingLost_regs (r : Nat) (t : Option Nat) (s : State) : (setRingLost r t s).regs = s.regs := State.modHub_regs ..

theorem setRingLost_notices (r : Nat) (t : Option Nat) (s : State) : (setRingLost r t s).hub.notices = s.hub.notices := by
  rw [setRingLost, State.hub_modHub]
  split
  · rfl
  · rfl

/-! ### Sync gained (R389, R394, R409) -/

/-- The input shows sync and keeps no loss; with both in sync the device has rejoined. -/
def syncGained (r : Nat) (s : State) : State :=
  let s := setRingLost r none (s.setFld (ringSync r) 1)
  if s.flag MR_STATUS.MR0_SYNC && s.flag MR_STATUS.MR1_SYNC then s.modHub (fun h => { h with rejoin := false }) else s

theorem syncGained_regs (r : Nat) (s : State) : (syncGained r s).regs = (s.setFld (ringSync r) 1).regs :=
  (onIte_same State.regs (State.modHub_regs ..)).trans (setRingLost_regs ..)

theorem syncGained_lost (r : Nat) (s : State) : ringLost (syncGained r s) r = none :=
  (onIte_same (ringLost · r) (by simp [ringLost])).trans (ringLost_setRingLost ..)

theorem syncGained_notices (r : Nat) (s : State) : (syncGained r s).hub.notices = s.hub.notices :=
  (onIte_same (fun u => u.hub.notices) (by simp)).trans ((setRingLost_notices ..).trans (by simp))

theorem syncGained_keeps (r : Nat) (s : State) : Keeps (Within [.regs, .hub]) s (syncGained r s) := by
  refine keeps_within _ fun _ _ => ?_
  unfold syncGained
  exact keeps_ite (keeps_modHub (keeps_setRingLost (keeps_setFld (keeps_refl _ s)))) (keeps_setRingLost (keeps_setFld (keeps_refl _ s)))

theorem syncGained_raised (r : Nat) (s : State) : (syncGained r s).raised = s.raised := (syncGained_keeps r s).stands .raised

theorem bypassForced_of_open {s : State} (hopen : bypassed s = false) : bypassForced s = false := by
  rw [bypassed, Bool.or_eq_false_iff] at hopen
  exact hopen.1

section
variable {r : Fin 2} {s : State} (hopen : bypassed s = false) (hsync : s.flag (ringSync r) = false)

include hopen hsync

theorem inputSync_gains : inputSync r s = match ringLost s r with
    | none => syncGained r s
    | some t =>
      if (syncGained r s).flag (ringBroken r) then
        askNotice 4 r 0 ((((syncGained r s).setFld (ringBroken r) 0).intBit 10).raise 0x9002 0 [r.val, (syncGained r s).now - t])
      else (syncGained r s).inc (ringGlitches r) :=
  if_neg (by rw [bypassForced_of_open hopen, hsync]; exact Bool.false_ne_true)

theorem inputSync_first (hlost : ringLost s r = none) : inputSync r s = syncGained r s := by
  rw [inputSync_gains hopen hsync, hlost]

theorem inputSync_glitch {t0 : Nat} (hlost : ringLost s r = some t0) (hwhole : s.flag (ringBroken r) = false) :
    inputSync r s = (syncGained r s).inc (ringGlitches r) := by
  have hstill : ¬(syncGained r s).flag (ringBroken r) = true := by
    rw [State.flag_congr _ _ (syncGained_regs r s), broken_setSync, hwhole]
    exact Bool.false_ne_true
  rw [inputSync_gains hopen hsync, hlost]
  exact if_neg hstill

theorem inputSync_restores {t0 : Nat} (hlost : ringLost s r = some t0) (hbroken : s.flag (ringBroken r) = true) :
    inputSync r s = askNotice 4 r 0 ((((syncGained r s).setFld (ringBroken r) 0).intBit 10).raise 0x9002 0 [r.val, s.now - t0]) := by
  have hstill : (syncGained r s).flag (ringBroken r) = true := by
    rw [State.flag_congr _ _ (syncGained_regs r s), broken_setSync, hbroken]
  rw [inputSync_gains hopen hsync, hlost, ← (syncGained_keeps r s).now]
  exact if_pos hstill

end

theorem syncGained_sync (r : Fin 2) (s : State) : (syncGained r s).flag (ringSync r) = true := by
  rw [State.flag_congr _ _ (syncGained_regs r s), flag_setSync_one]

theorem glitchCounted (r : Fin 2) (s : State) : ((syncGained r s).inc (ringGlitches r)).flag (ringSync r) = true ∧
    ringLost ((syncGained r s).inc (ringGlitches r)) r = none ∧
    ((syncGained r s).inc (ringGlitches r)).reg (ringGlitches r) = s.reg (ringGlitches r) + 1 := by
  obtain ⟨haddr, -, -⟩ := ringSync_bit r
  have hother : (ringSync r).addr ≠ ringGlitches r := haddr ▸ (ringGlitches_ne_status r).symm
  refine ⟨?_, ?_, ?_⟩
  · rw [State.flag_inc_other _ hother, syncGained_sync]
  · rw [ringLost_congr (State.inc_hub ..), syncGained_lost]
  · rw [State.reg_inc_same, State.reg_congr _ _ (syncGained_regs r s), State.reg_setFld_other _ _ _ _ hother.symm]

theorem inputSync_shows {r : Fin 2} {s : State} (hopen : bypassed s = false) (hsync : s.flag (ringSync r) = false) :
    (inputSync r s).flag (ringSync r) = true ∧ ringLost (inputSync r s) r = none := by
  cases hlost : ringLost s r with
  | none =>
    rw [inputSync_first hopen hsync hlost]
    exact ⟨syncGained_sync r s, syncGained_lost r s⟩
  | some t0 =>
    cases hbroken : s.flag (ringBroken r) with
    | false =>
      rw [inputSync_glitch hopen hsync hlost hbroken]
      obtain ⟨hshown, hnone, -⟩ := glitchCounted r s
      exact ⟨hshown, hnone⟩
    | true =>
      rw [inputSync_restores hopen hsync hlost hbroken]
      obtain ⟨haddr, -, -⟩ := ringSync_bit r
      constructor
      · rw [askNotice, State.modHub_flag, State.raise_flag, State.flag_intBit_other _ (by decide) (haddr ▸ by decide), sync_setBroken,
          syncGained_sync]
      · rw [← syncGained_lost r s, ringLost, ringLost, askNotice, State.hub_modHub, State.raise_hub, State.intBit_hub, State.setFld_hub]

theorem execRingSyncLoss_loses {r : Fin 2} {errs : Nat} {s : State} (hopen : bypassed s = false) (hsync : s.flag (ringSync r) = true) :
    ∃ t : State, exec (.ringSyncLoss r errs) s = .next t ∧ t.flag (ringSync r) = false ∧ ringLost t r = some s.now ∧
      t.reg (ringCodeErr r) = s.reg (ringCodeErr r) + word errs := by
  obtain ⟨haddr, -, -⟩ := ringSync_bit r
  refine ⟨_, if_neg (by simp [hopen, hsync]), ?_, ringLost_setRingLost .., ?_⟩
  · rw [State.flag_congr _ _ (setRingLost_regs ..), State.flag, State.addTo, State.fld_setReg_other _ _ _ _ (haddr ▸ (ringCodeErr_ne_status r).symm)]
    exact flag_setSync_zero r s
  · rw [State.reg_congr _ _ (setRingLost_regs ..), State.reg_addTo_same, State.reg_setFld_other _ _ _ _ (haddr ▸ ringCodeErr_ne_status r)]

theorem execRingGlitch_counts {r : Fin 2} {t0 : Nat} {s : State} (hopen : bypassed s = false) (hsync : s.flag (ringSync r) = false)
    (hlost : ringLost s r = some t0) (hwhole : s.flag (ringBroken r) = false) : ∃ t : State, exec (.ringGlitch r) s = .next t ∧
      t.flag (ringSync r) = true ∧ ringLost t r = none ∧ t.reg (ringGlitches r) = s.reg (ringGlitches r) + 1 := by
  refine ⟨_, if_neg (by simp [hlost, hwhole]), ?_⟩
  rw [inputSync_glitch hopen hsync hlost hwhole]
  exact glitchCounted r s

theorem execRingBreak_breaks {r : Fin 2} {t0 : Nat} {s : State} (hopen : bypassed s = false) (hlost : ringLost s r = some t0)
    (hwhole : s.flag (ringBroken r) = false) : ∃ t : State, exec (.ringBreak r) s = .next t ∧ t.flag (ringBroken r) = true ∧
      t.reg MR_BREAKS = s.reg MR_BREAKS + 1 ∧ t.hub.notices = s.hub.notices ++ [(3, r.val, 0)] ∧ t.raised = s.raised ++ [⟨0x9001, 1, [r.val]⟩] := by
  obtain ⟨haddr, -, -⟩ := ringBroken_bit r
  refine ⟨_, if_neg (by simp [hopen, hlost, hwhole]), ?_, ?_, ?_, ?_⟩
  · rw [askNotice, State.modHub_flag, State.raise_flag, State.flag_intBit_other _ (by decide) (haddr ▸ by decide),
      State.flag_inc_other _ (haddr ▸ by decide), flag_setBroken_one]
  · rw [askNotice, State.modHub_reg, State.raise_reg, State.intBit, State.reg_setFld_other _ _ _ _ (by decide), State.reg_inc_same,
      State.reg_setFld_other _ _ _ _ (haddr ▸ by decide)]
  · rw [askNotice, State.hub_modHub, State.raise_hub, State.intBit_hub, State.inc_hub, State.setFld_hub]
  · rw [askNotice, State.modHub_raised, State.raised_raise, State.intBit_raised, State.inc_raised, State.setFld_raised]

theorem execRingRestored_restores {r : Fin 2} {t0 : Nat} {s : State} (hopen : bypassed s = false) (hsync : s.flag (ringSync r) = false)
    (hbroken : s.flag (ringBroken r) = true) (hlost : ringLost s r = some t0) : ∃ t : State, exec (.ringRestored r) s = .next t ∧
      t.flag (ringSync r) = true ∧ t.flag (ringBroken r) = false ∧ t.hub.notices = s.hub.notices ++ [(4, r.val, 0)] ∧
      t.raised = s.raised ++ [⟨0x9002, 0, [r.val, s.now - t0]⟩] := by
  obtain ⟨haddr, -, -⟩ := ringBroken_bit r
  refine ⟨_, if_neg (by simp [hbroken]), (inputSync_shows hopen hsync).1, ?_⟩
  rw [inputSync_restores hopen hsync hlost hbroken]
  refine ⟨?_, ?_, ?_⟩
  · rw [askNotice, State.modHub_flag, State.raise_flag, State.flag_intBit_other _ (by decide) (haddr ▸ by decide), flag_setBroken_zero]
  · rw [askNotice, State.hub_modHub, State.raise_hub, State.intBit_hub, State.setFld_hub, syncGained_notices]
  · rw [askNotice, State.modHub_raised, State.raised_raise, State.intBit_raised, State.setFld_raised, syncGained_raised]

/-- Settles O51, clause by clause: each way of gaining sync is one case of `inputSync`. -/
theorem ringInputsSyncAndBreak : Obligations.RingInputsSyncAndBreak :=
  ⟨fun _ _ hopen hsync => ⟨_, rfl, inputSync_shows hopen hsync⟩, fun _ _ _ => execRingSyncLoss_loses, fun _ _ _ => execRingGlitch_counts,
    fun _ _ _ => execRingBreak_breaks, fun _ _ _ => execRingRestored_restores⟩

end Sys2Proof.Claims
end

section
/-! SUPPORT. Packets on the ring: what counting their code errors and forwarding them leave and send (R389, R391, R395, R412). -/
-- the whole text is compiled at once: its threads share one memory limit
set_option Elab.async false
namespace Sys2Proof.Claims
open Sys2Proof Sys2Proof.Machine

theorem ringCodeErr_eq : ∀ r : Fin 2, ringCodeErr r = MR0_CODE_ERR ∨ ringCodeErr r = MR1_CODE_ERR := by decide

/-! ### Code errors (R389) -/

theorem countErrs_keeps (r : Nat) (pk : Packet) (s : State) : Keeps (Within [.regs, .hub]) s (countErrs r pk s) :=
  keeps_within _ fun _ _ => keeps_countErrs (keeps_refl _ s)

theorem countErrs_out (r : Nat) (pk : Packet) (s : State) : (countErrs r pk s).out = s.out := (countErrs_keeps r pk s).stands .out

theorem countErrs_queued (r : Nat) (pk : Packet) (s : State) : (countErrs r pk s).queued = s.queued := (countErrs_keeps r pk s).stands .queued

/-- Only the input's own counter and MR_STATUS are written. -/
theorem reg_countErrs_other (r : Fin 2) (pk : Packet) (s : State) {a : Nat} (hstatus : a ≠ MR_STATUS) (hcode0 : a ≠ MR0_CODE_ERR)
    (hcode1 : a ≠ MR1_CODE_ERR) : (countErrs r pk s).reg a = s.reg a := by
  obtain ⟨haddr, -, -⟩ := ringSync_bit r
  have hcode : a ≠ ringCodeErr r := by
    obtain h | h := ringCodeErr_eq r
    · exact h ▸ hcode0
    · exact h ▸ hcode1
  have hcounted : (s.addTo (ringCodeErr r) pk.errs).reg a = s.reg a := State.reg_setReg_other _ _ _ _ hcode
  unfold countErrs
  dsimp only
  split
  · rw [State.reg_congr _ _ (setRingLost_regs ..), State.reg_setFld_other _ _ _ _ (haddr ▸ hstatus), hcounted]
  · exact hcounted

/-- Of MR_STATUS, only the sync of the input. -/
theorem flag_countErrs_epochSet (r : Fin 2) (pk : Packet) (s : State) : (countErrs r pk s).flag MR_STATUS.EPOCH_SET = s.flag MR_STATUS.EPOCH_SET := by
  obtain ⟨haddr, hle, hlt⟩ := ringSync_bit r
  have hapart : ∀ r : Fin 2, 24 < (ringSync r).lo := by decide
  have hcounted : (s.addTo (ringCodeErr r) pk.errs).flag MR_STATUS.EPOCH_SET = s.flag MR_STATUS.EPOCH_SET := by
    rw [State.flag, State.addTo, State.fld_setReg_other _ _ _ _ (ringCodeErr_ne_status r).symm, State.flag]
  unfold countErrs
  dsimp only
  split
  · rw [State.flag_congr _ _ (setRingLost_regs ..), State.flag_setFld_apart _ _ _ _ hle hlt (.inr (.inl (hapart r))), hcounted]
  · exact hcounted

/-! ### Forwarding (R391, R412) -/

/-- What a packet forwarded at an input sends. -/
def forwarded (s : State) (r : Nat) (bs : List Nat) : List Out :=
  match through s r with | some o => [.forward o bs (ringCodes s.out o bs)] | none => []

theorem through_congr {s t : State} (h : t.reg MR_CFG = s.reg MR_CFG) (r : Nat) : through t r = through s r := by
  rw [through, through, wrapNow, wrapNow, State.fld_eq_of_reg_eq (f := MR_CFG.WRAP) h]

theorem forwardBytes_keeps (r : Nat) (bs : List Nat) (s : State) : Keeps (Within [.out]) s (forwardBytes r bs s) :=
  keeps_within _ fun _ _ => keeps_forwardBytes (keeps_refl _ s)

theorem forwardBytes_regs (r : Nat) (bs : List Nat) (s : State) : (forwardBytes r bs s).regs = s.regs := (forwardBytes_keeps r bs s).stands .regs

theorem forwardBytes_hub (r : Nat) (bs : List Nat) (s : State) : (forwardBytes r bs s).hub = s.hub := (forwardBytes_keeps r bs s).stands .hub

theorem forwardBytes_queued (r : Nat) (bs : List Nat) (s : State) : (forwardBytes r bs s).queued = s.queued :=
  (forwardBytes_keeps r bs s).stands .queued

theorem forwardBytes_out (r : Nat) (bs : List Nat) (s : State) : (forwardBytes r bs s).out = s.out ++ forwarded s r bs := by
  rw [forwardBytes, forwarded]
  cases through s r with
  | none => rw [List.append_nil]
  | some o => exact State.out_emit ..

/-- It goes out as from the state in which it came, where WRAP and what was sent are still as then. -/
theorem forwardBytes_sends {s u : State} (hout : u.out = s.out) (hwrap : u.reg MR_CFG = s.reg MR_CFG) (r : Nat) (bs : List Nat) :
    (forwardBytes r bs u).out = s.out ++ forwarded s r bs := by
  rw [forwardBytes_out, forwarded, forwarded, through_congr hwrap, hout]

theorem forwardBytes_counted (r : Fin 2) (pk : Packet) (bs : List Nat) (s : State) :
    (forwardBytes r bs (countErrs r pk s)).out = s.out ++ forwarded s r bs ∧ (forwardBytes r bs (countErrs r pk s)).queued = s.queued :=
  ⟨forwardBytes_sends (countErrs_out ..) (reg_countErrs_other r pk s (by decide) (by decide) (by decide)) r bs,
    (forwardBytes_queued ..).trans (countErrs_queued ..)⟩

theorem countBad_keeps (pk : Packet) (s : State) : Keeps (Within [.regs]) s (countBad pk s) := keeps_within _ fun _ _ => keeps_countBad (keeps_refl _ s)

/-- What is wrong with a packet is counted after it has been forwarded. -/
theorem forwardBytes_judged (c : Bool) (r : Fin 2) (pk : Packet) (bs : List Nat) (s : State) :
    (if c then countBad pk (forwardBytes r bs (countErrs r pk s)) else forwardBytes r bs (countErrs r pk s)).out = s.out ++ forwarded s r bs ∧
    (if c then countBad pk (forwardBytes r bs (countErrs r pk s)) else forwardBytes r bs (countErrs r pk s)).queued = s.queued := by
  obtain ⟨hout, hqueued⟩ := forwardBytes_counted r pk bs s
  have hjudged := countBad_keeps pk (forwardBytes r bs (countErrs r pk s))
  exact ⟨(onIte_same State.out (hjudged.stands .out)).trans hout, (onIte_same State.queued (hjudged.stands .queued)).trans hqueued⟩

end Sys2Proof.Claims
end

section
/-! PROOF. Packets and ring control, one clause of the statement after the other (O52). -/
-- the whole text is compiled at once: its threads share one memory limit
set_option Elab.async false
namespace Sys2Proof.Claims
open Sys2Proof Sys2Proof.Machine

/-! ### Packets for another device and commands for this one (R391, R395, R400) -/

/-- A DEVID is less than the address of all. -/
theorem toAll_of_toMe {s : State} {pk : Packet} (hme : toMe s pk = true) : toAll pk = false := by
  simp only [toMe, Bool.and_eq_true, beq_iff_eq] at hme
  obtain ⟨-, hdest⟩ := hme
  have hlt : s.fld MR_ID.DEVID < 2 ^ 6 := Nat.mod_lt _ (by decide)
  rw [toAll, beq_eq_false_iff_ne]
  omega

theorem toMe_of_toAll {pk : Packet} (hall : toAll pk = true) (s : State) : toMe s pk = false := by
  by_contra hme
  rw [Bool.not_eq_false] at hme
  rw [toAll_of_toMe hme] at hall
  exact absurd hall Bool.false_ne_true

theorem takeCommand_joins {p : Pkt} {s : State} (hnew : (inUse s).any (fun q => sameTag q p) = false)
    (hkept : s.kept.find? (fun k => sameCmd k.pkt p) = none) (hroom : s.queued.length + s.running.length < 32) :
    (takeCommand p s).queued = s.queued ++ [p] ∧ (takeCommand p s).out = s.out := by
  have hcopy : (inUse s).any (fun q => sameCmd q p) = false := by
    rw [List.any_eq_false] at hnew ⊢
    intro q hq
    simp [sameCmd, hnew q hq]
  rw [takeCommand, hcopy, if_neg Bool.false_ne_true, hkept]
  dsimp only
  rw [hnew, if_neg Bool.false_ne_true, if_neg (by omega)]
  exact ⟨rfl, rfl⟩

theorem execPacketForward_forwards {r : Fin 2} {rx : RingRx} {s : State} (hhears : hears s r = true) (hme : toMe s (packetOf rx) = false)
    (hall : toAll (packetOf rx) = false) : exec (.packetForward r rx) s = .next (forwardBytes r (packetOf rx).bytes (countErrs r (packetOf rx) s)) :=
  if_neg (by rw [hhears, hme, hall]; exact Bool.false_ne_true)

theorem execPacketRx_takes {r : Fin 2} {rx : RingRx} {s : State} (hhears : hears s r = true) (hme : toMe s (packetOf rx) = true)
    (hcontrol : isControl (pkOp (packetOf rx)) = false) (hintact : intact (packetOf rx) = true) (hhost : fromHost (packetOf rx) = true)
    (hcrc : crcPasses (packetOf rx) = true) :
    exec (.packetRx r rx) s = .next (takeCommand (pkCommand r (packetOf rx)) (countErrs r (packetOf rx) s)) := by
  have hheard : ¬(!hears s r || !(toMe s (packetOf rx) || toAll (packetOf rx)) || isControl (pkOp (packetOf rx))) = true := by
    rw [hhears, hme, hcontrol]
    exact Bool.false_ne_true
  show execPacketRx r rx s = _
  rw [execPacketRx, if_neg hheard]
  simp only [toAll_of_toMe hme, hintact, hhost, hcrc, Bool.not_true, if_neg Bool.false_ne_true]

theorem execPacketRx_queues {r : Fin 2} {rx : RingRx} {s : State} (hhears : hears s r = true) (hme : toMe s (packetOf rx) = true)
    (hcontrol : isControl (pkOp (packetOf rx)) = false) (hintact : intact (packetOf rx) = true) (hhost : fromHost (packetOf rx) = true)
    (hcrc : crcPasses (packetOf rx) = true) (hnew : (inUse s).any (fun q => sameTag q (pkCommand r (packetOf rx))) = false)
    (hkept : s.kept.find? (fun k => sameCmd k.pkt (pkCommand r (packetOf rx))) = none) (hroom : s.queued.length + s.running.length < 32) :
    ∃ t : State, exec (.packetRx r rx) s = .next t ∧ t.queued = s.queued ++ [pkCommand r (packetOf rx)] ∧ t.out = s.out := by
  obtain ⟨hqueued, hrunning, hwaiting, hgranted, hreplies⟩ : (countErrs r (packetOf rx) s).queued = s.queued ∧
      (countErrs r (packetOf rx) s).running = s.running ∧ (countErrs r (packetOf rx) s).waiting = s.waiting ∧
      (countErrs r (packetOf rx) s).granted = s.granted ∧ (countErrs r (packetOf rx) s).kept = s.kept :=
    have hkeeps := countErrs_keeps r (packetOf rx) s
    ⟨hkeeps.stands .queued, hkeeps.stands .running, hkeeps.stands .waiting, hkeeps.stands .granted, hkeeps.stands .kept⟩
  have huse : inUse (countErrs r (packetOf rx) s) = inUse s := by
    rw [inUse, inUse, waitingPkts, waitingPkts, hqueued, hrunning, hwaiting, hgranted]
  obtain ⟨hjoined, hout⟩ := takeCommand_joins (s := countErrs r (packetOf rx) s) (huse.symm ▸ hnew) (hreplies.symm ▸ hkept)
    (by rw [hqueued, hrunning]; exact hroom)
  refine ⟨_, execPacketRx_takes hhears hme hcontrol hintact hhost hcrc, ?_, hout.trans (countErrs_out ..)⟩
  rw [hjoined, hqueued]

/-! ### ENUMERATE (R397) -/

/-- The state in which the device has taken the place COUNT and a DEVID. -/
def placed (r count i : Nat) (s : State) : State :=
  ((((s.setFld MR_ID.POSITION count).setFld MR_ID.POS_RING r).setFld MR_ID.DEVID i).setFld MR_ID.ASSIGNED 1).setFld MR_ID.ENUMERATED 1

theorem placed_reads (r count i : Nat) (s : State) : (placed r count i s).fld MR_ID.POSITION = count % 2 ^ 7 ∧
    (placed r count i s).fld MR_ID.POS_RING = r % 2 ^ 1 ∧ (placed r count i s).fld MR_ID.DEVID = i % 2 ^ 6 ∧
    (placed r count i s).fld MR_ID.ASSIGNED = 1 ∧ (placed r count i s).fld MR_ID.ENUMERATED = 1 := by
  unfold placed
  refine ⟨?_, ?_, ?_, ?_, State.fld_setFld_same _ _ _ (by decide) (by decide)⟩
  · rw [State.fld_setFld_apart _ _ _ _ (by decide) (by decide) (by decide), State.fld_setFld_apart _ _ _ _ (by decide) (by decide) (by decide),
      State.fld_setFld_apart _ _ _ _ (by decide) (by decide) (by decide), State.fld_setFld_apart _ _ _ _ (by decide) (by decide) (by decide)]
    exact State.fld_setFld_same _ _ _ (by decide) (by decide)
  · rw [State.fld_setFld_apart _ _ _ _ (by decide) (by decide) (by decide), State.fld_setFld_apart _ _ _ _ (by decide) (by decide) (by decide),
      State.fld_setFld_apart _ _ _ _ (by decide) (by decide) (by decide)]
    exact State.fld_setFld_same _ _ _ (by decide) (by decide)
  · rw [State.fld_setFld_apart _ _ _ _ (by decide) (by decide) (by decide), State.fld_setFld_apart _ _ _ _ (by decide) (by decide) (by decide)]
    exact State.fld_setFld_same _ _ _ (by decide) (by decide)
  · rw [State.fld_setFld_apart _ _ _ _ (by decide) (by decide) (by decide)]
    exact State.fld_setFld_same _ _ _ (by decide) (by decide)

theorem placed_reg_cfg (r count i : Nat) (s : State) : (placed r count i s).reg MR_CFG = s.reg MR_CFG := by
  unfold placed
  rw [State.reg_setFld_other _ _ _ _ (by decide), State.reg_setFld_other _ _ _ _ (by decide), State.reg_setFld_other _ _ _ _ (by decide),
    State.reg_setFld_other _ _ _ _ (by decide), State.reg_setFld_other _ _ _ _ (by decide)]

theorem placed_out (r count i : Nat) (s : State) : (placed r count i s).out = s.out := by
  unfold placed
  rw [State.setFld_out, State.setFld_out, State.setFld_out, State.setFld_out, State.setFld_out]

/-- A map with a free DEVID is not full. -/
theorem map_not_full {map i : Nat} (hi : i < 64) (hfree : bit map i = false) : map % 2 ^ 64 ≠ 2 ^ 64 - 1 := by
  intro hfull
  have hset : (map % 2 ^ 64).testBit i = true := by rw [hfull, Nat.testBit_two_pow_sub_one, decide_eq_true hi]
  rw [Nat.testBit_mod_two_pow, decide_eq_true hi, Bool.true_and] at hset
  exact Bool.false_ne_true (hfree.symm.trans hset)

theorem enumerateHere_places {r count map i : Nat} {s : State} (hstrap : s.fld MR_ID.STRAP = 0x3F)
    (hfind : (List.range 64).find? (fun i => !bit map i) = some i) :
    enumerateHere r count map s = (((count + 1) % 256, setBit map i true), placed r count i s) := by
  have hi : i < 64 := List.mem_range.1 (List.mem_of_find?_eq_some hfind)
  have hfree : bit map i = false := by simpa using List.find?_some hfind
  have hstill : ((s.setFld MR_ID.POSITION count).setFld MR_ID.POS_RING r).fld MR_ID.STRAP = 0x3F := by
    rw [State.fld_setFld_apart _ _ _ _ (by decide) (by decide) (by decide), State.fld_setFld_apart _ _ _ _ (by decide) (by decide) (by decide), hstrap]
  obtain ⟨-, -, hdevid, hassigned, -⟩ := placed_reads r count i s
  have hown : (placed r count i s).flag MR_ID.ASSIGNED = true := by rw [State.flag, hassigned]; rfl
  unfold enumerateHere
  extract_lets s1 free s2 map'
  have hplaced : s2 = placed r count i s := by
    have hfirst : free = i := by simp only [free, hfind, Option.getD_some]
    rw [← hfirst]
    exact (if_pos hstill).trans (if_neg (map_not_full hi hfree))
  have hmap : map' = setBit map i true := by
    simp only [map', hplaced, hown, if_true, hdevid, Nat.mod_eq_of_lt (show i < 2 ^ 6 from hi)]
  rw [hmap, hplaced]

theorem toAll_of_controlActs {pk : Packet} {len : Nat} (hacts : controlActs pk len = true) : toAll pk = true := by
  simp only [controlActs, Bool.and_eq_true] at hacts
  obtain ⟨⟨⟨-, hall⟩, -⟩, -⟩ := hacts
  exact hall

theorem execEnumerate_places {r : Fin 2} {rx : RingRx} {i : Nat} {s : State} (hcontrol : controlOf s r (packetOf rx) 0xF0 = true)
    (hacts : controlActs (packetOf rx) 9 = true) (hstrap : s.fld MR_ID.STRAP = 0x3F)
    (hfind : (List.range 64).find? (fun i => !bit (ofBytesLsb ((pkBody (packetOf rx)).drop 1)) i) = some i) :
    exec (.enumerate r rx) s = .next (forwardBytes r (rewrite (packetOf rx) ((((pkBody (packetOf rx)).getD 0 0 + 1) % 256) ::
      bytesLsb 8 (setBit (ofBytesLsb ((pkBody (packetOf rx)).drop 1)) i true)))
      (placed r ((pkBody (packetOf rx)).getD 0 0) i (countErrs r (packetOf rx) s))) := by
  have hstill : (countErrs r (packetOf rx) s).fld MR_ID.STRAP = 0x3F :=
    (State.fld_eq_of_reg_eq (reg_countErrs_other r _ s (by decide) (by decide) (by decide))).trans hstrap
  have hplaced := enumerateHere_places (r := r) (count := (pkBody (packetOf rx)).getD 0 0) hstill hfind
  show execEnumerate r rx s = _
  simp only [execEnumerate, hcontrol, Bool.not_true, if_neg Bool.false_ne_true, hacts, if_true, hplaced]

/-! ### SEQ_EPOCH (R417, R418) -/

/-- The state in which a later EPOCH has been taken. -/
def epochTaken (epoch chain hold : Nat) (s : State) : State :=
  (((((s.set64 MR_SEQ (epoch % 2 ^ 32 * 2 ^ 16)).setFld MR_STATUS.EPOCH_SET 1).setFld MR_STATUS.SEQ_STALE 0).modHub
    (fun h => { h with epochAt := s.now, epochHold := hold / 100 })).setFld MR_STATUS.CHAIN chain).setFld MR_STATUS.LARGE_CHAIN (decide (16 < chain)).toNat

theorem takeEpoch_takes {epoch : Nat} {s : State}
    (hlater : s.flag MR_STATUS.EPOCH_SET = false ∨ later epoch (bits (s.val64 MR_SEQ) 47 16) = true) (chain hold : Nat) :
    takeEpoch epoch chain hold s = epochTaken epoch chain hold s := by
  have hnew : (!s.flag MR_STATUS.EPOCH_SET || later epoch (bits (s.val64 MR_SEQ) 47 16)) = true := by
    obtain h | h := hlater
    · rw [h, Bool.not_false, Bool.true_or]
    · rw [h, Bool.or_true]
  simp only [takeEpoch, hnew, if_true, epochTaken, State.setFld_now, State.set64_now]

theorem State.val64_setFld_other (s : State) {f : Fld} {a : Nat} (v : Nat) (hlo : a ≠ f.addr) (hhi : a + 4 ≠ f.addr) :
    (s.setFld f v).val64 a = s.val64 a := by
  rw [State.val64, State.val64, State.reg_setFld_other _ _ _ _ hlo, State.reg_setFld_other _ _ _ _ hhi]

theorem State.val64_congr {s t : State} (h : t.regs = s.regs) (a : Nat) : t.val64 a = s.val64 a := by
  rw [State.val64, State.val64, State.reg_congr _ _ h, State.reg_congr _ _ h]

theorem epochTaken_shows (epoch chain hold : Nat) (s : State) : (epochTaken epoch chain hold s).val64 MR_SEQ = epoch % 2 ^ 32 * 2 ^ 16 ∧
    (epochTaken epoch chain hold s).flag MR_STATUS.EPOCH_SET = true ∧ (epochTaken epoch chain hold s).flag MR_STATUS.SEQ_STALE = false ∧
    (epochTaken epoch chain hold s).hub.epochAt = s.now ∧ (epochTaken epoch chain hold s).fld MR_STATUS.LARGE_CHAIN = (decide (16 < chain)).toNat := by
  unfold epochTaken
  refine ⟨?_, ?_, ?_, ?_, ?_⟩
  · rw [State.val64_setFld_other _ _ (by decide) (by decide), State.val64_setFld_other _ _ (by decide) (by decide),
      State.val64_congr (State.modHub_regs ..), State.val64_setFld_other _ _ (by decide) (by decide),
      State.val64_setFld_other _ _ (by decide) (by decide), State.val64_set64]
    exact Nat.mod_eq_of_lt (by omega)
  · rw [State.flag_setFld_apart _ _ _ _ (by decide) (by decide) (by decide), State.flag_setFld_apart _ _ _ _ (by decide) (by decide) (by decide),
      State.modHub_flag, State.flag_setFld_apart _ _ _ _ (by decide) (by decide) (by decide), State.flag_setFld_one _ _ (by decide) (by decide)]
  · rw [State.flag_setFld_apart _ _ _ _ (by decide) (by decide) (by decide), State.flag_setFld_apart _ _ _ _ (by decide) (by decide) (by decide),
      State.modHub_flag, State.flag_setFld_zero _ _ (by decide) (by decide)]
  · rw [State.setFld_hub, State.setFld_hub, State.hub_modHub]
  · rw [State.fld_setFld_same _ _ _ (by decide) (by decide)]
    exact Nat.mod_eq_of_lt (Bool.toNat_lt _)

/-- The packet as it goes on: HOLD has grown by the time that it waited. -/
def heldOn (pk : Packet) (waited : Nat) : List Nat :=
  if intact pk && toAll pk && pkLen pk == 7 then
    rewrite pk ((pkBody pk).take 5 ++ bytesLsb 2 (min 0xFFFF (ofBytesLsb (((pkBody pk).drop 5).take 2) + (waited + 9) / 10)))
  else pk.bytes

theorem execSeqEpoch_takes {r : Fin 2} {rx : RingRx} {waited : Nat} {s : State} (hcontrol : controlOf s r (packetOf rx) 0xF1 = true)
    (hacts : controlActs (packetOf rx) 7 = true)
    (hlater : s.flag MR_STATUS.EPOCH_SET = false ∨ later (ofBytesLsb ((pkBody (packetOf rx)).take 4)) (bits (s.val64 MR_SEQ) 47 16) = true) :
    ∃ u hold, u.now = s.now ∧
      exec (.seqEpoch r rx waited) s = .next (epochTaken (ofBytesLsb ((pkBody (packetOf rx)).take 4)) ((pkBody (packetOf rx)).getD 4 0) hold u) := by
  have hme : toMe (countErrs r (packetOf rx) s) (packetOf rx) = false := toMe_of_toAll (toAll_of_controlActs hacts) _
  have hstill (bs : List Nat) : (forwardBytes r bs (countErrs r (packetOf rx) s)).flag MR_STATUS.EPOCH_SET = false ∨
      later (ofBytesLsb ((pkBody (packetOf rx)).take 4)) (bits ((forwardBytes r bs (countErrs r (packetOf rx) s)).val64 MR_SEQ) 47 16) = true := by
    rw [State.flag_congr _ _ (forwardBytes_regs ..), flag_countErrs_epochSet, State.val64_congr (forwardBytes_regs ..), State.val64,
      reg_countErrs_other r _ s (by decide) (by decide) (by decide), reg_countErrs_other r _ s (by decide) (by decide) (by decide), ← State.val64]
    exact hlater
  refine ⟨forwardBytes r (heldOn (packetOf rx) waited) (countErrs r (packetOf rx) s), ofBytesLsb (((pkBody (packetOf rx)).drop 5).take 2),
    (forwardBytes_keeps ..).now.trans (countErrs_keeps ..).now, ?_⟩
  show execSeqEpoch r rx waited s = _
  simp only [execSeqEpoch, hcontrol, Bool.not_true, if_neg Bool.false_ne_true, hacts, hme, if_true]
  exact congrArg Host.Outcome.next (takeEpoch_takes (hstill _) _ _)

/-! ### PING, reserved opcodes, WRAP (R410, R412, R423) -/

theorem execRingPing_forwards {r : Fin 2} {rx : RingRx} {s : State} (hcontrol : controlOf s r (packetOf rx) 0xF2 = true) :
    exec (.ringPing r rx) s = .next (if toAll (packetOf rx) then
      countBad (packetOf rx) (forwardBytes r (packetOf rx).bytes (countErrs r (packetOf rx) s))
      else forwardBytes r (packetOf rx).bytes (countErrs r (packetOf rx) s)) :=
  if_neg (by rw [hcontrol]; exact Bool.false_ne_true)

theorem toMe_countErrs (r : Fin 2) (pk : Packet) (s : State) : toMe (countErrs r pk s) pk = toMe s pk := by
  have hid := reg_countErrs_other r pk s (a := MR_ID) (by decide) (by decide) (by decide)
  rw [toMe, toMe, State.flag_eq_of_reg_eq (f := MR_ID.ASSIGNED) hid, State.fld_eq_of_reg_eq (f := MR_ID.DEVID) hid]

theorem toMe_forwardBytes (r : Nat) (bs : List Nat) (pk : Packet) (s : State) : toMe (forwardBytes r bs s) pk = toMe s pk := by
  rw [toMe, toMe, State.flag_congr _ _ (forwardBytes_regs ..), State.fld_congr _ _ (forwardBytes_regs ..)]

theorem execRingControlReserved_forwards {r : Fin 2} {rx : RingRx} {s : State} (hhears : hears s r = true) (hlo : 0xF3 ≤ pkOp (packetOf rx))
    (hhi : pkOp (packetOf rx) ≤ 0xFF) (hme : toMe s (packetOf rx) = false) : exec (.ringControlReserved r rx) s =
      .next (if toAll (packetOf rx) then countBad (packetOf rx) (forwardBytes r (packetOf rx).bytes (countErrs r (packetOf rx) s))
        else forwardBytes r (packetOf rx).bytes (countErrs r (packetOf rx) s)) := by
  have hheard : ¬(!hears s r || !decide (0xF3 ≤ pkOp (packetOf rx) ∧ pkOp (packetOf rx) ≤ 0xFF)) = true := by
    rw [hhears, decide_eq_true ⟨hlo, hhi⟩]
    exact Bool.false_ne_true
  show execRingControlReserved r rx s = _
  simp only [execRingControlReserved, if_neg hheard, toMe_countErrs, toMe_forwardBytes, hme, if_neg Bool.false_ne_true, Bool.false_or]

theorem writeWrap_stores (w : Nat) (s : State) : (writeWrap w s).fld MR_CFG.WRAP = w % 4 ∧
    (s.fld MR_CFG.WRAP ≠ w % 4 → (writeWrap w s).raised = s.raised ++ [⟨0x9004, 0, [s.fld MR_CFG.WRAP, w % 4]⟩]) := by
  unfold writeWrap
  dsimp only
  split
  next hsame => exact ⟨hsame, fun hdiff => absurd hsame hdiff⟩
  next =>
    refine ⟨?_, fun _ => ?_⟩
    · rw [State.raise_fld, State.fld_setFld_same _ _ _ (by decide) (by decide)]
      exact Nat.mod_mod _ _
    · rw [State.raised_raise, State.setFld_raised]

/-- Settles O52, clause by clause. -/
theorem packetsAndRingControl : Obligations.PacketsAndRingControl := by
  refine ⟨?_, ?_, ?_, ?_, ?_, ?_, fun v s => ⟨_, rfl, ?_⟩⟩
  · rintro r rx _ s rfl hhears hme hall
    exact ⟨_, execPacketForward_forwards hhears hme hall, forwardBytes_counted ..⟩
  · rintro r rx _ s rfl
    exact execPacketRx_queues
  · rintro r rx _ i s rfl hcontrol hacts hstrap hfind
    have hi : i < 64 := List.mem_range.1 (List.mem_of_find?_eq_some hfind)
    obtain ⟨hposition, hring, hdevid, hassigned, henumerated⟩ :=
      placed_reads r ((pkBody (packetOf rx)).getD 0 0) i (countErrs r (packetOf rx) s)
    refine ⟨_, execEnumerate_places hcontrol hacts hstrap hfind, ?_⟩
    simp only [State.fld_congr _ _ (forwardBytes_regs ..)]
    exact ⟨hposition, hring.trans (Nat.mod_eq_of_lt r.isLt), hdevid.trans (Nat.mod_eq_of_lt hi), hassigned, henumerated,
      forwardBytes_sends ((placed_out ..).trans (countErrs_out ..))
        ((placed_reg_cfg ..).trans (reg_countErrs_other r _ s (by decide) (by decide) (by decide))) r _⟩
  · rintro r rx waited _ s rfl hcontrol hacts hlater
    obtain ⟨u, hold, hnow, hexec⟩ := execSeqEpoch_takes (waited := waited) hcontrol hacts hlater
    rw [← hnow]
    exact ⟨_, hexec, epochTaken_shows ..⟩
  · rintro r rx _ s rfl hcontrol
    exact ⟨_, execRingPing_forwards hcontrol, forwardBytes_judged ..⟩
  · rintro r rx _ s rfl hhears hlo hhi hme
    exact ⟨_, execRingControlReserved_forwards hhears hlo hhi hme, forwardBytes_judged ..⟩
  · have hbits : bits v.toNat 1 0 % 4 = bits v.toNat 1 0 := Nat.mod_mod _ _
    have hstored := writeWrap_stores (bits v.toNat 1 0) s
    rw [hbits] at hstored
    exact hstored

end Sys2Proof.Claims
end

section
/-! PROOF. Executors, retained replies, notices and the time of the ring, one clause of the statement after the other (O53). -/
-- the whole text is compiled at once: its threads share one memory limit
set_option Elab.async false
namespace Sys2Proof.Claims
open Sys2Proof Sys2Proof.Machine

/-! ### Executors (R400, R401) -/

/-- The state in which an executor has taken the oldest queued command. -/
def dispatched (p : Pkt) (rest : List Pkt) (s : State) : State := { s with queued := rest, running := s.running ++ [p] }

section
variable {p : Pkt} {rest : List Pkt} {s : State} (hqueue : s.queued = p :: rest) (hhalted : halted s = false) (hdue : s.hub.resetDue = false)
  (hresetting : s.hub.resetting = false) (hfree : s.running.length < 4) (hfence : fenced s = false) (hown : bit p.call.flags 0 = true → s.running = [])

include hqueue hhalted hdue hresetting hfree hfence hown

theorem execCommandStart_dispatches : exec .commandStart s =
    if opcodes.contains p.op then .next (dispatched p rest s)
    else .next (finalReply p (if isReady s then 2 else 9) [] (dispatched p rest s)) := by
  have hgo : ¬(halted s || s.hub.resetDue || s.hub.resetting || decide (4 ≤ s.running.length) || fenced s ||
      (bit p.call.flags 0 && !s.running.isEmpty)) = true := by
    simp only [hhalted, hdue, hresetting, hfence, decide_eq_false (Nat.not_le.2 hfree), Bool.false_or, Bool.and_eq_true, not_and]
    intro hflag
    rw [hown hflag]
    exact Bool.false_ne_true
  show execCommandStart s = _
  rw [execCommandStart, hqueue]
  exact if_neg hgo

theorem execCommandStart_starts (hop : opcodes.contains p.op = true) : exec .commandStart s = .next (dispatched p rest s) :=
  (execCommandStart_dispatches hqueue hhalted hdue hresetting hfree hfence hown).trans (if_pos hop)

theorem execCommandStart_unknown (hop : opcodes.contains p.op = false) (hready : isReady s = true) :
    exec .commandStart s = .next (finalReply p 2 [] (dispatched p rest s)) := by
  rw [execCommandStart_dispatches hqueue hhalted hdue hresetting hfree hfence hown, if_neg (by rw [hop]; exact Bool.false_ne_true), if_pos hready]

end

theorem finalReply_retained {p : Pkt} (hreply : bit p.call.flags 2 = false) (status : Nat) (body : List Nat) (s : State) :
    (finalReply p status body s).kept.getLast? = some ⟨p, status, body, s.now⟩ := by
  rw [finalReply_kept hreply, getLast?_retain]

theorem finalReply_queued (p : Pkt) (status : Nat) (body : List Nat) (s : State) : (finalReply p status body s).queued = s.queued :=
  (finalReply_keeps p status body s).stands .queued

theorem not_mem_finalReply (p : Pkt) (status : Nat) (body : List Nat) (s : State) : p ∉ (finalReply p status body s).running := by
  rw [finalReply_running]
  simp

theorem execCommandTimeout_answers {src tag : Nat} {p : Pkt} {s : State}
    (hfind : s.running.find? (fun p => p.call.src == src && p.call.tag == tag) = some p) (hshort : isLong p.op = false) (hhalted : halted s = false) :
    exec (.commandTimeout src tag) s = .next (finalReply p 7 [] s) := by
  show execCommandTimeout src tag s = _
  rw [execCommandTimeout, hfind]
  exact if_neg (by rw [hshort, hhalted]; exact Bool.false_ne_true)

/-! ### Notices (R414, R415, R459) -/

theorem sendPacket_out (o : Nat) (bs : List Nat) (s : State) : (sendPacket o bs s).out.length = s.out.length + 1 := by
  rw [sendPacket, State.out_emit, List.length_append, List.length_singleton]

/-- On every output one packet. -/
theorem forEach_sendPacket_out (bs : List Nat) (os : List Nat) (s : State) :
    (forEach os (sendPacket · bs) s).out.length = s.out.length + os.length := by
  induction os generalizing s with
  | nil => rfl
  | cons o os ih =>
    have hrest := ih (sendPacket o bs s)
    rw [sendPacket_out] at hrest
    exact hrest.trans (by rw [List.length_cons, Nat.add_assoc, Nat.add_comm 1])

theorem forEach_sendPacket_keeps (bs : List Nat) (os : List Nat) (s : State) : Keeps (Within [.out]) s (forEach os (sendPacket · bs) s) :=
  keeps_within _ fun _ _ => keeps_forEach _ _ (keeps_refl _ s) fun _ _ h => keeps_sendPacket h

theorem sendNotice_counts (seq ty ring arg : Nat) (s : State) : (sendNotice seq ty ring arg s).hub = s.hub ∧
    (sendNotice seq ty ring arg s).reg MR_NOTICES = s.reg MR_NOTICES + 1 ∧
    (sendNotice seq ty ring arg s).out.length = s.out.length + (noticeRings s).length := by
  unfold sendNotice
  extract_lets body bytes
  have hsent := forEach_sendPacket_keeps bytes (noticeRings s) s
  refine ⟨?_, ?_, ?_⟩
  · rw [State.inc_hub]
    exact hsent.stands .hub
  · rw [State.reg_inc_same, State.reg_congr _ _ (hsent.stands .regs)]
  · rw [State.inc_out, forEach_sendPacket_out]

theorem noticeRings_congr {s t : State} (h : t.regs = s.regs) : noticeRings t = noticeRings s := by
  rw [noticeRings, noticeRings, outRing, outRing, wrapNow, wrapNow, State.fld_congr _ _ h]

/-- A new notice takes the next INT_SEQ and keeps it as the last where it is an interrupt. -/
theorem newNotice_counts (ty ring arg : Nat) (s : State) :
    (newNotice ty ring arg s).hub = { s.hub with
      intSeq := (s.hub.intSeq + 1) % 2 ^ 16, intLast := if ty = 1 then (s.hub.intSeq + 1) % 2 ^ 16 else s.hub.intLast } ∧
    (newNotice ty ring arg s).reg MR_NOTICES = s.reg MR_NOTICES + 1 ∧
    (newNotice ty ring arg s).out.length = s.out.length + (noticeRings s).length := by
  unfold newNotice
  extract_lets seq
  obtain ⟨hhub, hcount, hout⟩ := sendNotice_counts seq ty ring arg
    (s.modHub (fun h => { h with intSeq := seq, intLast := if ty = 1 then seq else h.intLast }))
  rw [hhub, hcount, hout, State.hub_modHub, State.modHub_reg, State.modHub_out, noticeRings_congr (State.modHub_regs ..)]
  exact ⟨rfl, rfl, rfl⟩

theorem execNoticeSend_due {ty ring arg : Nat} {rest : List (Nat × Nat × Nat)} {s : State} (hopen : bypassed s = false)
    (hdue : s.hub.notices = (ty, ring, arg) :: rest) :
    exec .noticeSend s = .next (newNotice ty ring arg (s.modHub (fun h => { h with notices := rest }))) := by
  show execNoticeSend s = _
  rw [execNoticeSend, hopen, if_neg Bool.false_ne_true, hdue]

theorem execNoticeSend_interrupts {s : State} (hopen : bypassed s = false) (hnone : s.hub.notices = [])
    (hnew : summary s &&& s.hub.notified ≠ summary s) :
    exec .noticeSend s = .next (newNotice 1 0 0 (s.modHub (fun h => { h with notified := summary s }))) := by
  show execNoticeSend s = _
  rw [execNoticeSend, hopen, if_neg Bool.false_ne_true, hnone]
  exact if_neg hnew

theorem execIntRepeatExpire_repeats {s : State} (hopen : bypassed s = false) (hrepeat : s.fld MR_CFG.INT_REPEAT ≠ 0) (hsummary : summary s ≠ 0)
    (hnotified : s.hub.notified ≠ 0) : exec .intRepeatExpire s = .next (sendNotice s.hub.intLast 1 0 0 s) :=
  if_neg (by simp [hopen, hrepeat, hsummary, hnotified])

/-! ### The time of the ring (R417, R418) -/

/-- The state in which TICK stands at its end. -/
def tickSaturated (s : State) : State := (s.setFld MR_STATUS.SEQ_STALE 1).modHub (fun h => { h with epochHold := max h.epochHold 0xFFFF })

theorem seqTick_tickSaturated (s : State) : seqTick (tickSaturated s) = 0xFFFF := by
  have hhold : (tickSaturated s).hub.epochHold = max s.hub.epochHold 0xFFFF := by
    rw [tickSaturated, State.hub_modHub, State.setFld_hub]
  rw [seqTick, hhold]
  omega

theorem execSeqTickSaturate_stales {s : State} (hfresh : s.flag MR_STATUS.SEQ_STALE = false) : ∃ t : State, exec .seqTickSaturate s = .next t ∧
    t.fld MR_STATUS.SEQ_STALE = 1 ∧ seqTick t = 0xFFFF ∧ t.raised = s.raised ++ [⟨0x9005, 1, [bits (s.val64 MR_SEQ) 47 16]⟩] := by
  refine ⟨(tickSaturated s).raise 0x9005 1 [bits ((tickSaturated s).val64 MR_SEQ) 47 16], if_neg (by simp [hfresh]), ?_, ?_, ?_⟩
  · rw [State.raise_fld, tickSaturated, State.modHub_fld, State.fld_setFld_same _ _ _ (by decide) (by decide)]
    rfl
  · rw [← seqTick_tickSaturated s, seqTick, seqTick, State.raise_now, State.raise_hub]
  · rw [State.raised_raise, tickSaturated, State.val64_congr (State.modHub_regs ..), State.val64_setFld_other _ _ (by decide) (by decide),
      State.modHub_raised, State.setFld_raised]

/-- Settles O53, clause by clause. -/
theorem executorsNoticesAndRetention : Obligations.ExecutorsNoticesAndRetention := by
  refine ⟨fun p rest s hqueue hhalted hdue hresetting hfree hfence hown hop =>
      ⟨_, execCommandStart_starts hqueue hhalted hdue hresetting hfree hfence hown hop, rfl, rfl⟩,
    fun p rest s hqueue hhalted hdue hresetting hfree hfence hown hop hready hreply =>
      ⟨_, execCommandStart_unknown hqueue hhalted hdue hresetting hfree hfence hown hop hready, finalReply_queued .., finalReply_retained hreply ..⟩,
    fun src tag p s hfind hshort hhalted hreply =>
      ⟨_, execCommandTimeout_answers hfind hshort hhalted, finalReply_retained hreply .., not_mem_finalReply _ _ _ _⟩,
    fun s => ⟨_, rfl, rfl, rfl, rfl, rfl⟩, fun ty ring arg rest s hopen hdue => ⟨_, execNoticeSend_due hopen hdue, ?_⟩,
    fun s hopen hnone hnew => ⟨_, execNoticeSend_interrupts hopen hnone hnew, ?_⟩,
    fun s hopen hrepeat hsummary hnotified => ⟨_, execIntRepeatExpire_repeats hopen hrepeat hsummary hnotified, ?_⟩, fun _ => execSeqTickSaturate_stales⟩
  · obtain ⟨hhub, hcount, hout⟩ := newNotice_counts ty ring arg (s.modHub (fun h => { h with notices := rest }))
    rw [State.modHub_reg] at hcount
    rw [State.modHub_out, noticeRings_congr (State.modHub_regs ..)] at hout
    rw [hhub, State.hub_modHub]
    exact ⟨rfl, rfl, hcount, hout⟩
  · obtain ⟨hhub, hcount, -⟩ := newNotice_counts 1 0 0 (s.modHub (fun h => { h with notified := summary s }))
    rw [State.modHub_reg] at hcount
    rw [hhub, State.hub_modHub]
    exact ⟨rfl, rfl, rfl, hcount⟩
  · obtain ⟨hhub, hcount, hout⟩ := sendNotice_counts s.hub.intLast 1 0 0 s
    rw [hhub]
    exact ⟨rfl, hcount, hout⟩

end Sys2Proof.Claims
end

section
/-! SUPPORT. The Guestbook: what queueing, accepting and clearing leave of its registers and of its queue (R514 to R518). -/
-- the whole text is compiled at once: its threads share one memory limit
set_option Elab.async false
namespace Sys2Proof.Claims
open Sys2Proof Sys2Proof.Machine

/-! ### Bytes of the array -/

theorem putBytes_mram_congr {s t : State} (h : t.mram = s.mram) (a : Nat) (bs : List Nat) : (putBytes a bs t).mram = (putBytes a bs s).mram := by
  induction bs generalizing a s t with
  | nil => exact h
  | cons b bs ih => exact ih (by rw [State.setNvByte, State.setNvByte, h]) (a + 1)

theorem nvPut_mram (a : Nat) (bs : List Nat) (s : State) : (nvPut a bs s).mram = (putBytes a bs s).mram := by
  unfold nvPut
  split
  next hempty => rw [List.isEmpty_iff.1 hempty]; rfl
  next => exact State.add64_mram ..

theorem nvPut_mram_congr {s t : State} (h : t.mram = s.mram) (a : Nat) (bs : List Nat) : (nvPut a bs t).mram = (nvPut a bs s).mram := by
  rw [nvPut_mram, nvPut_mram, putBytes_mram_congr h]

/-! ### The queue of records -/

theorem showGbQueue_keeps (s : State) : Keeps (Within [.regs]) s (showGbQueue s) := keeps_within _ fun _ _ => keeps_showGbQueue (keeps_refl _ s)

theorem reg_showGbQueue_other {a : Nat} (s : State) (h : a ≠ GB_QUEUE) : (showGbQueue s).reg a = s.reg a := by
  unfold showGbQueue
  dsimp only
  split
  · rw [State.reg_setFld_other _ _ _ _ h, State.reg_setFld_other _ _ _ _ h]
  · rw [State.reg_setFld_other _ _ _ _ h]

/-- The state in which an event has the slot NEXT. -/
def slotTaken (e : Event) (s : State) : State :=
  showGbQueue (({ s with gbQueue := s.gbQueue ++ [(s.fld GB_STATUS.NEXT, recordBytes s e)] }.setFld GB_STATUS.NEXT
    (s.fld GB_STATUS.NEXT + 1)).inc GB_RECORDED)

theorem queueRecord_eq (e : Event) (s : State) : queueRecord e s = if 1 ≤ e.sev then (slotTaken e s).intBit 1 else slotTaken e s := rfl

theorem slotTaken_gbQueue (e : Event) (s : State) : (slotTaken e s).gbQueue = s.gbQueue ++ [(s.fld GB_STATUS.NEXT, recordBytes s e)] := by
  have hqueue : _ = _ := (showGbQueue_keeps (({ s with gbQueue := s.gbQueue ++ [(s.fld GB_STATUS.NEXT, recordBytes s e)] }.setFld GB_STATUS.NEXT
    (s.fld GB_STATUS.NEXT + 1)).inc GB_RECORDED)).stands .gbQueue
  rw [slotTaken, hqueue, State.inc_gbQueue, State.setFld_gbQueue]

theorem queueRecord_gbQueue (e : Event) (s : State) : (queueRecord e s).gbQueue = s.gbQueue ++ [(s.fld GB_STATUS.NEXT, recordBytes s e)] := by
  rw [queueRecord_eq, ← slotTaken_gbQueue]
  exact onIte_same State.gbQueue (State.intBit_gbQueue ..)

theorem reg_queueRecord {a : Nat} (e : Event) (s : State) (ha : a ≠ HUB_INT_STATUS) : (queueRecord e s).reg a = (slotTaken e s).reg a := by
  rw [queueRecord_eq]
  exact onIte_same (fun u => u.reg a) (State.reg_setFld_other _ _ _ _ ha)

theorem queueRecord_recorded (e : Event) (s : State) : (queueRecord e s).reg GB_RECORDED = s.reg GB_RECORDED + 1 := by
  rw [reg_queueRecord _ _ (by decide), slotTaken, reg_showGbQueue_other _ (by decide), State.reg_inc_same, State.reg_setFld_other _ _ _ _ (by decide)]
  rfl

theorem reg_queueRecord_other {a : Nat} (e : Event) (s : State) (hint : a ≠ HUB_INT_STATUS) (hqueue : a ≠ GB_QUEUE) (hcount : a ≠ GB_RECORDED)
    (hstatus : a ≠ GB_STATUS) : (queueRecord e s).reg a = s.reg a := by
  rw [reg_queueRecord _ _ hint, slotTaken, reg_showGbQueue_other _ hqueue, State.reg_inc_other _ _ _ hcount, State.reg_setFld_other _ _ _ _ hstatus]
  rfl

/-- Of GB_STATUS a new record moves NEXT alone. -/
theorem queueRecord_status (e : Event) (s : State) : (queueRecord e s).fld GB_STATUS.NEXT = (s.fld GB_STATUS.NEXT + 1) % 2 ^ 16 ∧
    (queueRecord e s).fld GB_STATUS.GEN = s.fld GB_STATUS.GEN ∧ (queueRecord e s).fld GB_STATUS.FULL = s.fld GB_STATUS.FULL := by
  have hstatus : (queueRecord e s).reg GB_STATUS = ({ s with gbQueue := s.gbQueue ++ [(s.fld GB_STATUS.NEXT, recordBytes s e)] }.setFld
      GB_STATUS.NEXT (s.fld GB_STATUS.NEXT + 1)).reg GB_STATUS := by
    rw [reg_queueRecord _ _ (by decide), slotTaken, reg_showGbQueue_other _ (by decide), State.reg_inc_other _ _ _ (by decide)]
  refine ⟨?_, ?_, ?_⟩
  · rw [State.fld_eq_of_reg_eq (f := GB_STATUS.NEXT) hstatus]
    exact State.fld_setFld_same _ _ _ (by decide) (by decide)
  · rw [State.fld_eq_of_reg_eq (f := GB_STATUS.GEN) hstatus]
    exact State.fld_setFld_apart _ _ _ _ (by decide) (by decide) (by decide)
  · rw [State.fld_eq_of_reg_eq (f := GB_STATUS.FULL) hstatus]
    exact State.fld_setFld_apart _ _ _ _ (by decide) (by decide) (by decide)

/-! ### Acceptance (R514, R515) -/

theorem acceptEvent_full {s : State} (hfull : s.flag GB_STATUS.FULL = true) (e : Event) : acceptEvent e s = (false, s.inc GB_LOST) := if_pos hfull

section
variable {s : State} (hopen : s.flag GB_STATUS.FULL = false) (hroom : s.gbQueue.length < 512)

include hopen hroom

theorem acceptEvent_queues (e : Event) : (acceptEvent e s).2 =
    if (queueRecord e s).fld GB_STATUS.NEXT = 32767 then
      (queueRecord ⟨0x6010, 1, [32767, ((queueRecord e s).reg GB_LOST).toNat]⟩ (queueRecord e s)).setFld GB_STATUS.FULL 1
    else queueRecord e s := by
  rw [acceptEvent, if_neg (by rw [hopen]; exact Bool.false_ne_true), if_neg (Nat.not_le.2 hroom)]
  dsimp only
  split
  · rfl
  · rfl

/-- The record stands in the queue, and one or two more are counted. -/
theorem acceptEvent_records (e : Event) : (s.fld GB_STATUS.NEXT, recordBytes s e) ∈ (acceptEvent e s).2.gbQueue ∧
    ((acceptEvent e s).2.reg GB_RECORDED = s.reg GB_RECORDED + 1 ∨ (acceptEvent e s).2.reg GB_RECORDED = s.reg GB_RECORDED + 1 + 1) := by
  rw [acceptEvent_queues hopen hroom]
  split
  · refine ⟨?_, .inr ?_⟩
    · rw [State.setFld_gbQueue, queueRecord_gbQueue, queueRecord_gbQueue]
      simp
    · rw [State.reg_setFld_other _ _ _ _ (by decide), queueRecord_recorded, queueRecord_recorded]
  · refine ⟨?_, .inl (queueRecord_recorded ..)⟩
    rw [queueRecord_gbQueue]
    simp

end

/-! ### The rate limit (R518) -/

/-- A record says nothing of the rate window. -/
theorem recordBytes_window (s : State) (es : List Event) (ws : List (Nat × Nat × Nat)) (e : Event) :
    recordBytes { s with raised := es, gbWindow := ws } e = recordBytes s e := rfl

/-- An event whose code has no limit is accepted or lost; of the rest only the rate window changes. -/
theorem limitEvent_unlimited {e : Event} {s : State} (hcode : e.code < 0xB000) (hlimit : gbLimit s e.code = 0) :
    ∃ ws ws', limitEvent e s = { (acceptEvent e { s with gbWindow := ws }).2 with gbWindow := ws' } := by
  unfold limitEvent
  split
  next hno => omega
  next =>
    split
    next => exact ⟨s.gbWindow, (acceptEvent e s).2.gbWindow, rfl⟩
    next =>
      extract_lets known s1 acc lim
      split
      next => exact ⟨s.gbWindow, (acceptEvent e s).2.gbWindow, rfl⟩
      next =>
        have hwindow : ∃ ws, s1 = { s with gbWindow := ws } := by
          by_cases hknown : known = true
          · exact ⟨s.gbWindow, if_pos hknown⟩
          · exact ⟨_, if_neg hknown⟩
        obtain ⟨ws, hs1⟩ := hwindow
        have hfree : lim = 0 := by
          simp only [lim, hs1]
          exact hlimit
        rw [if_neg (by simp [hfree]), hs1]
        refine ⟨ws, ?_⟩
        obtain ⟨ok, u⟩ := acceptEvent e { s with gbWindow := ws }
        cases ok with
        | false => exact ⟨u.gbWindow, rfl⟩
        | true => exact ⟨_, rfl⟩

end Sys2Proof.Claims
end

section
/-! PROOF. The Guestbook and the seconds of the SYSTEM area, one clause of the statement after the other (O56). -/
-- the whole text is compiled at once: its threads share one memory limit
set_option Elab.async false
namespace Sys2Proof.Claims
open Sys2Proof Sys2Proof.Machine

theorem acceptEvent_keeps (e : Event) (s : State) : Keeps (Within [.regs, .gbQueue]) s (acceptEvent e s).2 :=
  keeps_within _ fun _ _ => keeps_acceptEvent (keeps_refl _ s)

theorem acceptEvent_raised (e : Event) (s : State) : (acceptEvent e s).2.raised = s.raised := (acceptEvent_keeps e s).stands .raised

theorem execGbEventAccept_limits {e : Event} {rest : List Event} {s : State} (hraised : s.raised = e :: rest) :
    exec .gbEventAccept s = .next (limitEvent e { s with raised := rest }) := by
  show execGbEventAccept s = _
  rw [execGbEventAccept, hraised]

theorem execGbEventAccept_records {e : Event} {rest : List Event} {s : State} (hraised : s.raised = e :: rest) (hcode : e.code < 0xB000)
    (hopen : s.flag GB_STATUS.FULL = false) (hroom : s.gbQueue.length < 512) (hlimit : gbLimit s e.code = 0)
    (hcount : (s.reg GB_RECORDED).toNat < 2 ^ 32 - 2) : ∃ t : State, exec .gbEventAccept s = .next t ∧ t.raised = rest ∧
      (s.fld GB_STATUS.NEXT, recordBytes s e) ∈ t.gbQueue ∧ (s.reg GB_RECORDED).toNat < (t.reg GB_RECORDED).toNat := by
  refine ⟨_, execGbEventAccept_limits hraised, ?_⟩
  obtain ⟨ws, ws', heq⟩ := limitEvent_unlimited (s := { s with raised := rest }) hcode hlimit
  have hrecords := acceptEvent_records (s := { s with raised := rest, gbWindow := ws }) hopen hroom e
  rw [recordBytes_window] at hrecords
  obtain ⟨hqueued, hmore⟩ := hrecords
  rw [heq]
  refine ⟨acceptEvent_raised .., hqueued, ?_⟩
  obtain hone | htwo := hmore
  · exact lt_of_lt_of_eq (b := (s.reg GB_RECORDED + 1).toNat) (by bv_omega) (congrArg BitVec.toNat hone).symm
  · exact lt_of_lt_of_eq (b := (s.reg GB_RECORDED + 1 + 1).toNat) (by bv_omega) (congrArg BitVec.toNat htwo).symm

theorem execGbEventAccept_loses {e : Event} {rest : List Event} {s : State} (hraised : s.raised = e :: rest) (hcode : e.code < 0xB000)
    (hfull : s.flag GB_STATUS.FULL = true) (hlimit : gbLimit s e.code = 0) : ∃ t : State, exec .gbEventAccept s = .next t ∧ t.raised = rest ∧
      t.gbQueue = s.gbQueue ∧ t.reg GB_LOST = s.reg GB_LOST + 1 := by
  refine ⟨_, execGbEventAccept_limits hraised, ?_⟩
  obtain ⟨ws, ws', heq⟩ := limitEvent_unlimited (s := { s with raised := rest }) hcode hlimit
  rw [heq, acceptEvent_full (s := { s with raised := rest, gbWindow := ws }) hfull]
  exact ⟨State.inc_raised (s := { s with raised := rest, gbWindow := ws }) GB_LOST, State.inc_gbQueue (s := { s with raised := rest, gbWindow := ws }) GB_LOST,
    State.reg_inc_same { s with raised := rest, gbWindow := ws } _⟩

theorem execGbRecordWrite_writes {slot : Nat} {bs : List Nat} {rest : List (Nat × List Nat)} {s : State} (hqueue : s.gbQueue = (slot, bs) :: rest)
    (hqual : s.flag CLK_STATUS.REF_QUAL = true) (hstep : 2 ≤ s.fld PWR_PHASE.BOOT_STEP) :
    exec (.gbRecordWrite false) s = .next (showGbQueue (nvPut (slotBase slot) bs { s with gbQueue := rest })) := by
  have hgo : ¬(!s.flag CLK_STATUS.REF_QUAL || decide (s.fld PWR_PHASE.BOOT_STEP < 2)) = true := by
    rw [hqual, decide_eq_false (Nat.not_lt.2 hstep)]
    exact Bool.false_ne_true
  show execGbRecordWrite false s = _
  rw [execGbRecordWrite, hqueue]
  exact if_neg hgo

/-! ### A clear (R516) -/

/-- The state in which GEN has moved on and is stored. -/
def genStored (s : State) : State := storeGen (s.setFld GB_STATUS.GEN ((s.fld GB_STATUS.GEN + 1) % 256))

/-- The state in which no record waits. -/
def queueEmptied (s : State) : State := { s with gbQueue := [] }

theorem queueEmptied_keeps (s : State) : Keeps (Within [.gbQueue]) s (queueEmptied s) := keeps_within _ fun _ _ => keeps_upd_gbQueue (keeps_refl _ s)

theorem queueEmptied_gbQueue (s : State) : (queueEmptied s).gbQueue = [] := rfl

theorem reg_queueEmptied (s : State) (a : Nat) : (queueEmptied s).reg a = s.reg a := rfl

/-- The state in which the Guestbook is empty. -/
def gbEmptied (s : State) : State :=
  (showGbQueue (queueEmptied (((genStored s).setFld GB_STATUS.NEXT 0).setFld GB_STATUS.FULL 0))).setReg GB_RECORDED 0

theorem snd_of_eq_pair {p : Nat × State} {n : Nat} {s : State} (h : p = (n, s)) : p.2 = s := by rw [h]

theorem gbClear_pair (s : State) : ∃ (n : Nat) (e : Event), gbClear s = (n, (acceptEvent e (gbEmptied s)).2) := by
  simp only [gbClear, gbEmptied, genStored, queueEmptied]
  exact ⟨_, _, rfl⟩

theorem gbClear_accepts (s : State) : ∃ e : Event, (gbClear s).2 = (acceptEvent e (gbEmptied s)).2 := by
  obtain ⟨n, e, heq⟩ := gbClear_pair s
  exact ⟨e, snd_of_eq_pair heq⟩

theorem reg_storeGen_other {a : Nat} (s : State) (hlo : a ≠ NV_WORDS_WRITTEN) (hhi : a ≠ NV_WORDS_WRITTEN + 4) : (storeGen s).reg a = s.reg a := by
  unfold storeGen
  dsimp only
  split
  · rfl
  · exact reg_nvPut_other _ _ _ hlo hhi

theorem genStored_gen (s : State) : (genStored s).fld GB_STATUS.GEN = (s.fld GB_STATUS.GEN + 1) % 256 := by
  rw [genStored, State.fld_eq_of_reg_eq (f := GB_STATUS.GEN) (reg_storeGen_other _ (by decide) (by decide)),
    State.fld_setFld_same _ _ _ (by decide) (by decide)]
  exact Nat.mod_mod _ _

theorem gbEmptied_shows (s : State) : (gbEmptied s).fld GB_STATUS.GEN = (s.fld GB_STATUS.GEN + 1) % 256 ∧ (gbEmptied s).fld GB_STATUS.NEXT = 0 ∧
    (gbEmptied s).flag GB_STATUS.FULL = false ∧ (gbEmptied s).reg GB_RECORDED = 0 ∧ (gbEmptied s).gbQueue = [] := by
  have hstatus : (gbEmptied s).reg GB_STATUS = (((genStored s).setFld GB_STATUS.NEXT 0).setFld GB_STATUS.FULL 0).reg GB_STATUS := by
    rw [gbEmptied, State.reg_setReg_other _ _ _ _ (by decide), reg_showGbQueue_other _ (by decide), reg_queueEmptied]
  refine ⟨?_, ?_, ?_, State.reg_setReg_same .., ?_⟩
  · rw [State.fld_eq_of_reg_eq (f := GB_STATUS.GEN) hstatus, State.fld_setFld_apart _ _ _ _ (by decide) (by decide) (by decide),
      State.fld_setFld_apart _ _ _ _ (by decide) (by decide) (by decide), genStored_gen]
  · rw [State.fld_eq_of_reg_eq (f := GB_STATUS.NEXT) hstatus, State.fld_setFld_apart _ _ _ _ (by decide) (by decide) (by decide),
      State.fld_setFld_same _ _ _ (by decide) (by decide)]
    rfl
  · rw [State.flag_eq_of_reg_eq (f := GB_STATUS.FULL) hstatus, State.flag_setFld_zero _ _ (by decide) (by decide)]
  · have hqueue : _ = _ := (showGbQueue_keeps (queueEmptied (((genStored s).setFld GB_STATUS.NEXT 0).setFld GB_STATUS.FULL 0))).stands .gbQueue
    rw [gbEmptied, State.setReg_gbQueue, hqueue, queueEmptied_gbQueue]

theorem gbEmptied_mram (s : State) : (gbEmptied s).mram = (genStored s).mram := by
  have hshown : _ = _ := (showGbQueue_keeps (queueEmptied (((genStored s).setFld GB_STATUS.NEXT 0).setFld GB_STATUS.FULL 0))).stands .mram
  have hemptied : _ = _ := (queueEmptied_keeps (((genStored s).setFld GB_STATUS.NEXT 0).setFld GB_STATUS.FULL 0)).stands .mram
  rw [gbEmptied, State.setReg_mram, hshown, hemptied, State.setFld_mram, State.setFld_mram]

/-- A clear leaves the one record that says so. -/
theorem gbClear_leaves_one (s : State) : (gbClear s).2.fld GB_STATUS.GEN = (s.fld GB_STATUS.GEN + 1) % 256 ∧ (gbClear s).2.fld GB_STATUS.NEXT = 1 ∧
    (gbClear s).2.fld GB_STATUS.FULL = 0 ∧ (gbClear s).2.reg GB_RECORDED = 1 ∧ (gbClear s).2.gbQueue.length = 1 := by
  obtain ⟨e, heq⟩ := gbClear_accepts s
  obtain ⟨hgen, hnext, hfull, hcount, hqueue⟩ := gbEmptied_shows s
  obtain ⟨hnext', hgen', hfull'⟩ := queueRecord_status e (gbEmptied s)
  have hfirst : (queueRecord e (gbEmptied s)).fld GB_STATUS.NEXT = 1 := by rw [hnext', hnext]; rfl
  have hzero : (gbEmptied s).fld GB_STATUS.FULL = 0 := by
    rw [State.flag, bne_eq_false_iff_eq] at hfull
    exact hfull
  rw [heq, acceptEvent_queues hfull (by rw [hqueue]; decide), if_neg (by rw [hfirst]; decide)]
  exact ⟨hgen'.trans hgen, hfirst, hfull'.trans hzero, by rw [queueRecord_recorded, hcount]; rfl, by rw [queueRecord_gbQueue, hqueue]; rfl⟩

theorem gbClear_stores {s : State} (hqual : s.flag CLK_STATUS.REF_QUAL = true) (hother : s.nvByte 0x7A0008 ≠ (s.fld GB_STATUS.GEN + 1) % 256) :
    (gbClear s).2.mram = (nvPut 0x7A0008 [(s.fld GB_STATUS.GEN + 1) % 256] s).mram := by
  obtain ⟨e, heq⟩ := gbClear_accepts s
  have haccepted : (acceptEvent e (gbEmptied s)).2.mram = (gbEmptied s).mram := (acceptEvent_keeps e _).stands .mram
  have hgen : (s.setFld GB_STATUS.GEN ((s.fld GB_STATUS.GEN + 1) % 256)).fld GB_STATUS.GEN = (s.fld GB_STATUS.GEN + 1) % 256 :=
    (State.fld_setFld_same _ _ _ (by decide) (by decide)).trans (Nat.mod_mod _ _)
  have hstill : (s.setFld GB_STATUS.GEN ((s.fld GB_STATUS.GEN + 1) % 256)).flag CLK_STATUS.REF_QUAL = true := by
    rw [State.flag_setFld_apart _ _ _ _ (by decide) (by decide) (by decide), hqual]
  have hbyte : (s.setFld GB_STATUS.GEN ((s.fld GB_STATUS.GEN + 1) % 256)).nvByte 0x7A0008 = s.nvByte 0x7A0008 := by
    rw [State.nvByte, State.nvByte, State.setFld_mram]
  have hstores : genStored s = nvPut 0x7A0008 [(s.fld GB_STATUS.GEN + 1) % 256] (s.setFld GB_STATUS.GEN ((s.fld GB_STATUS.GEN + 1) % 256)) := by
    rw [genStored, storeGen, hgen, hstill, hbyte, if_neg (by simpa using hother)]
  rw [heq, haccepted, gbEmptied_mram, hstores, nvPut_mram_congr (State.setFld_mram ..)]

/-! ### The window of the rate limit (R518) -/

theorem nvPut_keeps (a : Nat) (bs : List Nat) (s : State) : Keeps (Within [.regs, .mram]) s (nvPut a bs s) :=
  keeps_within _ fun _ _ => keeps_nvPut (keeps_refl _ s)

theorem nvPut_mram_dequeued (a : Nat) (bs : List Nat) (rest : List (Nat × List Nat)) (s : State) :
    (nvPut a bs { s with gbQueue := rest }).mram = (nvPut a bs s).mram := nvPut_mram_congr (s := s) (t := { s with gbQueue := rest }) rfl a bs

/-- The state in which a window has begun. -/
def windowEmptied (s : State) : State := { s with gbWindow := [] }.modHub (fun h => { h with rateStart := opSeconds s })

/-- The state in which the suppressions of the window before are reported. -/
def rateReports (s : State) : State :=
  let hit := s.gbWindow.filter (fun x => x.2.2 != 0)
  let sorted := (hit.map (fun x => (x.1 : Int))).foldr
    (fun x xs => (xs.takeWhile (fun y => decide (y < x))) ++ x :: xs.dropWhile (fun y => decide (y < x))) []
  forEach sorted (fun c u =>
    match hit.find? (fun x => (x.1 : Int) == c) with
    | some x => u.raise 0x6011 0 [x.1, x.2.2, x.2.1, s.hub.rateStart]
    | none => u) (windowEmptied s)

theorem rateReports_keeps (s : State) : Keeps (Within [.raised]) (windowEmptied s) (rateReports s) := by
  refine keeps_within _ fun _ _ => keeps_forEach _ _ (keeps_refl _ _) fun _ _ h => ?_
  split
  · exact keeps_raise h
  · exact h

/-- Settles O56, clause by clause. -/
theorem guestbookAndSystemArea : Obligations.GuestbookAndSystemArea := by
  refine ⟨fun _ _ _ => execGbEventAccept_records, fun _ _ _ => execGbEventAccept_loses,
    fun slot bs rest s hqueue hqual hstep => ⟨_, execGbRecordWrite_writes hqueue hqual hstep, ?_, ?_⟩, fun s => ⟨_, rfl, gbClear_leaves_one s⟩,
    fun s hqual hother => ⟨_, rfl, gbClear_stores hqual hother⟩, fun s => ⟨rateReports s, rfl, ?_⟩, fun s hqual => ⟨_, if_neg (by simp [hqual]), rfl⟩⟩
  · have hput : _ = _ := (nvPut_keeps (slotBase slot) bs { s with gbQueue := rest }).stands .gbQueue
    have hshow : _ = _ := (showGbQueue_keeps (nvPut (slotBase slot) bs { s with gbQueue := rest })).stands .gbQueue
    exact hshow.trans hput
  · have hshow : _ = _ := (showGbQueue_keeps (nvPut (slotBase slot) bs { s with gbQueue := rest })).stands .mram
    exact hshow.trans (nvPut_mram_dequeued ..)
  · have hraises : Keeps (Within [.raised]) (windowEmptied s) (rateReports s) := rateReports_keeps s
    have hhub : _ = _ := hraises.stands .hub
    have hregs : _ = _ := hraises.stands .regs
    exact ⟨hraises.stands .gbWindow, congrArg HubSt.rateStart hhub, hregs⟩

end Sys2Proof.Claims
end

section
/-! PROOF. Slices, the crossbar and the tile links, one clause of the statement after the other (O29). -/
-- the whole text is compiled at once: its threads share one memory limit
set_option Elab.async false
namespace Sys2Proof.Claims
open Sys2Proof Sys2Proof.Machine

/-! ### A slice that serves none (R527) -/

/-- A swap that is abandoned takes changes away and asks for none. -/
theorem abandonSwap_changes (t : Nat) (w : MSwap) (st reason : Nat) (s : State) : ((abandonSwap t w st reason false s).tile t).changes =
    (s.tile t).changes.filter (fun c => c.fault || c.old != w.old || c.slice != w.spare) := by
  have hended (u : State) : (endSwapJob t w u).tiles = u.tiles :=
    leaves [.regs, .completions, .claims, .waiting, .later, .tests] .tiles fun _ _ => keeps_endSwapJob (keeps_refl _ u)
  have hstate (u : State) : (setSliceState t w.spare st u).tiles = u.tiles := leaves [.regs] .tiles fun _ _ => keeps_setSliceState (keeps_refl _ u)
  unfold abandonSwap
  extract_lets s1 s2 s3
  have hraised : s3.tiles = s2.tiles := by
    simp only [s3]
    split
    · rfl
    · exact State.raise_tiles ..
  rw [if_neg Bool.false_ne_true, State.tile_congr (hended _), State.tile_modTile]
  show (s3.tile t).changes = _
  rw [State.tile_congr hraised, State.tile_congr (hstate _)]
  show ((s.modTile t _).tile t).changes = _
  rw [State.tile_modTile]

/-- No fault replacement on a tile waits to connect a slice. -/
def NoFaultChange (t sl : Nat) (s : State) : Prop := (s.tile t).changes.find? (fun c => c.fault && c.slice == sl) = none

theorem noFaultChange_abandonSwap {t sl : Nat} (w : MSwap) (st reason : Nat) {s : State} (h : NoFaultChange t sl s) :
    NoFaultChange t sl (abandonSwap t w st reason false s) := by
  rw [NoFaultChange, List.find?_eq_none] at h ⊢
  rw [abandonSwap_changes]
  exact fun c hc => h c (List.mem_filter.1 hc).1

theorem noFaultChange_congr {t sl : Nat} {s u : State} (hu : u.tiles = s.tiles) (h : NoFaultChange t sl s) : NoFaultChange t sl u := by
  rw [NoFaultChange, State.tile_congr hu]
  exact h

theorem askInternal_raised (kind res : Nat) (why : Why) (s : State) : (askInternal kind res why s).raised = s.raised :=
  leaves [.regs, .waiting, .later] .raised fun _ _ => keeps_askInternal (keeps_refl _ s)

theorem sliceFault_alone {t sl code : Nat} {s : State} (hserves : frontEnd s t sl = none) (hchange : NoFaultChange t sl s) :
    (⟨0x7010, 2, [t, sl, code, 0xFF]⟩ : Event) ∈ (sliceFault t sl code s).raised := by
  unfold sliceFault
  extract_lets fe was s1 s2 s3 s4 ws s5 s6 s7 s8
  have hfe : fe = none := hserves
  have hs2 : s2.tiles = s1.tiles := by
    simp only [s2]
    split
    · exact State.inc_tiles ..
    · rfl
  have hs4 : s4.tiles = s.tiles := by
    have hasked : s4.tiles = s3.tiles := leaves [.regs, .waiting, .later] .tiles fun _ _ => keeps_askRepair (keeps_refl _ s3)
    rw [hasked, State.inc_tiles, hs2, State.setFld_tiles]
  have hs5 : NoFaultChange t sl s5 :=
    forEach_of_step (fun w _ h => noFaultChange_abandonSwap w 3 0 h) ws (noFaultChange_congr hs4 hchange)
  have hs6 : NoFaultChange t sl s6 := noFaultChange_congr (leaves [.regs] .tiles fun _ _ => keeps_setSliceState (keeps_refl _ s5)) hs5
  have hfind : (s6.tile t).changes.find? (fun c => c.fault && c.slice == sl) = none := hs6
  have hlast : (⟨0x7010, 2, [t, sl, code, 0xFF]⟩ : Event) ∈ (s6.raise 0x7010 2 [t, sl, code, 0xFF]).raised := by simp
  rw [hfe]
  dsimp only
  rw [hfind]
  dsimp only
  split
  · rw [askInternal_raised]
    exact hlast
  · exact hlast

/-! ### The crossbar (R19, R20) -/

theorem connectSwap_gone {t : Nat} {c : XChange} {s : State} (hswap : swapOf s t c.old = none) : (connectSwap t c s).tiles = s.tiles := by
  have hstate (i st : Nat) (u : State) : (setSliceState t i st u).tiles = u.tiles := leaves [.regs] .tiles fun _ _ => keeps_setSliceState (keeps_refl _ u)
  unfold connectSwap
  extract_lets s1 g s2
  have hs2 : s2.tiles = s.tiles := by
    simp only [s2, s1]
    rw [State.setFld_tiles, State.raise_tiles, hstate, setFeSlice, State.setFld_tiles]
  have hgone : swapOf s2 t c.old = none := by
    rw [swapOf, State.tile_congr hs2]
    exact hswap
  rw [hgone]
  dsimp only
  rw [hstate, hs2]

theorem execCrossbarChange_makes {t : Tile} {j : Nat} {c : XChange} {s : State} (hnext : nextChange (s.tile t) = some c) (hfault : c.fault = false)
    (hlo : 1 ≤ j) (hhi : j ≤ 62) (hswap : swapOf s t c.old = none) :
    ∃ u : State, exec (.crossbarChange t j) s = .next u ∧ c ∉ (u.tile t).changes := by
  show ∃ u : State, execCrossbarChange t j s = .next u ∧ _
  rw [execCrossbarChange, hnext]
  dsimp only
  rw [if_neg (by omega), hfault, if_neg Bool.false_ne_true]
  refine ⟨_, rfl, ?_⟩
  have hgone : swapOf ((s.modTile t (fun k => { k with changes := k.changes.filter (· != c) })).inc (TILE_XBAR_SWITCHES t)) t c.old = none := by
    rw [swapOf, State.inc_tile, State.tile_modTile]
    exact hswap
  have hshown (u : State) : (showSpares t u).tiles = u.tiles := leaves [.regs] .tiles fun _ _ => keeps_showSpares (keeps_refl _ u)
  rw [State.tile_congr (hshown _), State.tile_congr (connectSwap_gone hgone), State.inc_tile, State.tile_modTile]
  simp

/-! ### Tile links (R27) -/

theorem tileLinkFailed_wakes (t : Nat) (s : State) : (tileLinkFailed t s).hub = s.hub :=
  leaves [.free, .regs, .ports, .pairs, .links, .queues, .banks, .tiles, .diags, .doms, .completions, .claims, .waiting, .later, .tests, .raised] .hub
    fun _ _ => keeps_tileLinkFailed (keeps_refl _ s)

/-- The domain of the tile is in FAULT, and the last fault names it. -/
theorem tileLinkFailed_faults (t : Tile) (s : State) : ((tileLinkFailed t s).dom (0x020 + t)).state = 5 ∧
    (tileLinkFailed t s).fld PWR_DOMAIN_LAST_FAULT.ID = 0x020 + t := by
  unfold tileLinkFailed
  extract_lets s1 ports s2
  have hid : 0x020 + t.val < 2 ^ 12 := by omega
  constructor
  · rw [State.intBit_dom, State.setFld_dom, State.dom_modDom]
  · rw [State.fld_intBit_other _ (by decide) (by decide), State.fld_setFld_same _ _ _ (by decide) (by decide)]
    exact Nat.mod_eq_of_lt hid

theorem settleWakes_tileLinkFailed {t : Tile} {s : State} (hwakes : s.hub.wakes = []) :
    ((settleWakes (tileLinkFailed t s)).dom (0x020 + t)).state = 5 ∧ (settleWakes (tileLinkFailed t s)).fld PWR_DOMAIN_LAST_FAULT.ID = 0x020 + t := by
  rw [settleWakes_of_none (by rw [tileLinkFailed_wakes, hwakes])]
  exact tileLinkFailed_faults t s

/-- Settles O29, clause by clause. -/
theorem slicesAndCrossbar : Obligations.SlicesAndCrossbar := by
  refine ⟨fun t sl code s hstate hlo hhi hserves hchange => ⟨_, if_neg (by omega), sliceFault_alone hserves hchange⟩,
    fun _ _ _ _ => execCrossbarChange_makes, fun t sl corrected s => ⟨_, rfl, State.reg_addTo_same .., fun a ha => State.reg_setReg_other _ _ _ _ ha⟩,
    fun t s hup => ⟨s.modTile t (fun k => { k with retries := k.retries + 1 }), if_neg (by simp [hup]), by rw [State.tile_modTile], State.modTile_regs ..⟩,
    fun t s hup hwakes => ⟨settleWakes (tileLinkFailed t (s.modTile t (fun k => { k with retries := k.retries + 1 }))), if_neg (by simp [hup]), ?_⟩,
    fun t s hup hwakes => ⟨_, if_neg (by simp [hup]), settleWakes_tileLinkFailed hwakes⟩⟩
  exact settleWakes_tileLinkFailed (by rw [State.modTile_hub, hwakes])

end Sys2Proof.Claims
end

section
/-! PROOF. Unit tests, banks under test and maintenance swaps, one clause of the statement after the other (O30). -/
-- the whole text is compiled at once: its threads share one memory limit
set_option Elab.async false
namespace Sys2Proof.Claims
open Sys2Proof Sys2Proof.Machine

/-! ### The end of a test, and the next one (R530, R533) -/

theorem endTest_tests (x : Test) (status result : Nat) (s : State) :
    (endTest x status result s).tests = s.tests.filter (fun y => y.unit != x.unit) := by
  unfold endTest
  extract_lets s1 s2
  obtain ⟨t, u⟩ := unitPlace x.unit
  have hcounted : s2.tests = s1.tests := by
    simp only [s2]
    split
    · rw [State.setReg_tests, State.setReg_tests, State.inc_tests]
    · rfl
  have hended : (showBist (releaseOwn x.handle (finishJob x.job status result t u s2))).tests = s2.tests :=
    leaves [.regs, .completions, .claims, .waiting, .later] .tests fun _ _ => keeps_showBist (keeps_releaseOwn (keeps_finishJob (keeps_refl _ s2)))
  dsimp only
  rw [hended, hcounted]

theorem endTest_keeps (x : Test) (status result : Nat) (s : State) :
    Keeps (Within [.regs, .completions, .claims, .waiting, .later, .tests]) s (endTest x status result s) :=
  keeps_within _ fun _ _ => keeps_endTest (keeps_refl _ s)

theorem sweepDue_of_none {s : State} (hnone : s.hub.bistDue = 0) : sweepDue s = s := if_neg (fun h => h.1 hnone)

theorem sweepDue_of_busy {s : State} (hbusy : s.tests.any (fun x => x.periodic) = true) : sweepDue s = s :=
  if_neg (fun h => by obtain ⟨-, hfree, -⟩ := h; rw [hbusy] at hfree; exact Bool.false_ne_true hfree)

theorem testDone_porter {x : Test} (hkind : unitKind x.unit = 3) (s : State) : testDone x [] s = endTest x 0 0 s := by
  rw [testDone, if_neg (by omega), if_neg (by omega), if_neg (by omega)]

theorem execBistTestDone_ends {unit : Nat} {x : Test} {s : State} (hfind : s.tests.find? (fun x => x.unit == unit && x.stage == .test) = some x)
    (hkind : unitKind unit = 3) (hnone : s.hub.bistDue = 0) : ∃ t : State, exec (.bistTestDone unit []) s = .next t ∧
      (∀ y ∈ t.tests, y.unit ≠ unit) ∧ (∀ y ∈ s.tests, y.unit ≠ unit → y ∈ t.tests) := by
  have hunit : x.unit = unit := by
    have hboth := List.find?_some hfind
    rw [Bool.and_eq_true, beq_iff_eq] at hboth
    exact hboth.1
  have hhub : (endTest x 0 0 s).hub = s.hub := (endTest_keeps x 0 0 s).stands .hub
  refine ⟨endTest x 0 0 s, ?_, ?_⟩
  · show execBistTestDone unit [] s = _
    rw [execBistTestDone, hfind]
    dsimp only
    rw [testDone_porter (hunit ▸ hkind), sweepDue_of_none (by rw [hhub, hnone])]
  · rw [endTest_tests, hunit]
    refine ⟨fun y hy => ?_, fun y hy hother => List.mem_filter.2 ⟨hy, by simpa using hother⟩⟩
    simpa using (List.mem_filter.1 hy).2

/-! ### Banks (R535, R537) -/

theorem fillBanks_raised (k : Nat) (s : State) : (fillBanks k s).raised = s.raised := leaves [.regs] .raised fun _ _ => keeps_fillBanks (keeps_refl _ s)

theorem moveBank_raises (b st : Nat) (s : State) : (moveBank b st s).raised = s.raised ++ [⟨0x4002, 0, [b, st]⟩] := by
  have hstate : (setBankState b st s).raised = s.raised := leaves [.regs] .raised fun _ _ => keeps_setBankState (keeps_refl _ s)
  rw [moveBank, fillBanks_raised, State.raised_raise, hstate]

theorem putTest_tests (x : Test) (s : State) : (putTest x s).tests = s.tests.map (fun y => if y.unit == x.unit then x else y) :=
  leaves [.regs] .tests fun _ _ => keeps_showBist (keeps_refl _ { s with tests := s.tests.map (fun y => if y.unit == x.unit then x else y) })

theorem mem_putTest {x y : Test} {s : State} (hy : y ∈ s.tests) (hunit : y.unit = x.unit) : x ∈ (putTest x s).tests := by
  rw [putTest_tests]
  exact List.mem_map.2 ⟨y, hy, if_pos (beq_iff_eq.2 hunit)⟩

theorem execBankDrained_tests {b : Fin 66} {x : Test} {s : State} (hstate : bankState s b = 2) (hbeds : bedsUsed s b = 0)
    (hfind : s.tests.find? (fun x => x.unit == bankUnit b) = some x) (hwaits : x.stage = .wait) :
    exec (.bankDrained b) s = .next (putTest { x with stage := .test } s) := by
  show execBankDrained b s = _
  rw [execBankDrained, if_neg (by omega), hfind]
  dsimp only
  rw [hwaits]
  rfl

theorem execBankDrained_moves {b : Fin 66} {s : State} (hstate : bankState s b = 2) (hbeds : bedsUsed s b = 0)
    (hfind : s.tests.find? (fun x => x.unit == bankUnit b) = none) : exec (.bankDrained b) s = .next (moveBank b 1 s) := by
  show execBankDrained b s = _
  rw [execBankDrained, if_neg (by omega), hfind]

/-- The replacement of a bank that goes back to service leaves it, at once where it holds no bed. -/
theorem replacementLeaves_keeps (extra : Option Nat) (s : State) :
    Keeps (Within [.regs, .raised]) s (match extra with | none => s | some c => if bedsUsed s c = 0 then moveBank c 1 s else setBankState c 2 s) ∧
    s.raised ⊆ (match extra with | none => s | some c => if bedsUsed s c = 0 then moveBank c 1 s else setBankState c 2 s).raised := by
  cases extra with
  | none => exact ⟨keeps_refl _ s, List.Subset.refl _⟩
  | some c =>
    dsimp only
    split
    · refine ⟨keeps_within _ fun _ _ => keeps_moveBank (keeps_refl _ s), ?_⟩
      rw [moveBank_raises]
      exact List.subset_append_left _ _
    · have hstate := keeps_within (s := s) (t := setBankState c 2 s) [.regs] fun _ _ => keeps_setBankState (keeps_refl _ s)
      have hraised : _ = _ := hstate.stands .raised
      exact ⟨keeps_within _ fun _ _ => keeps_setBankState (keeps_refl _ s), hraised ▸ List.Subset.refl _⟩

theorem execBankDrainTimeout_postpones {b : Fin 66} {x : Test} {s : State}
    (hfind : s.tests.find? (fun x => x.unit == bankUnit b && x.stage == .wait) = some x) (hdemand : x.periodic = false) (hnone : s.hub.bistDue = 0) :
    ∃ t : State, exec (.bankDrainTimeout b) s = .next t ∧ t.tests = s.tests.filter (fun y => y.unit != x.unit) ∧
      (⟨0x4002, 0, [b.val, 0]⟩ : Event) ∈ t.raised := by
  show ∃ t : State, execBankDrainTimeout b s = .next t ∧ _
  rw [execBankDrainTimeout, hfind]
  extract_lets s1 extra s2
  dsimp only
  have hs1 : s1.tests = s.tests ∧ s1.hub = s.hub ∧ s1.raised = s.raised ++ [⟨0x4002, 0, [b.val, 0]⟩] := by
    have hstate := keeps_within (s := s) (t := setBankState b 0 s) [.regs] fun _ _ => keeps_setBankState (keeps_refl _ s)
    have htests : _ = _ := hstate.stands .tests
    have hhub : _ = _ := hstate.stands .hub
    have hraised : _ = _ := hstate.stands .raised
    refine ⟨?_, ?_, ?_⟩
    · rw [State.inc_tests, State.raise_tests, htests]
    · rw [State.inc_hub, State.raise_hub, hhub]
    · rw [State.inc_raised, State.raised_raise, hraised]
  obtain ⟨htests1, hhub1, hraised1⟩ := hs1
  obtain ⟨hleaves, hmore⟩ := replacementLeaves_keeps extra s1
  have hs2 : Keeps (Within [.regs, .raised]) s1 s2 := hleaves
  have hshown : Keeps (Within [.regs]) s2 (showBanks s2) := keeps_within _ fun _ _ => keeps_showBanks (keeps_refl _ s2)
  have hended : Keeps (Within [.regs, .completions, .claims, .waiting, .later, .tests]) (showBanks s2) (endTest x 0x0B 0 (showBanks s2)) :=
    endTest_keeps x 0x0B 0 (showBanks s2)
  have hhub : (endTest x 0x0B 0 (showBanks s2)).hub = s.hub :=
    Eq.trans (hended.stands .hub) (Eq.trans (hshown.stands .hub) (Eq.trans (hs2.stands .hub) hhub1))
  have htests : (showBanks s2).tests = s.tests := Eq.trans (hshown.stands .tests) (Eq.trans (hs2.stands .tests) htests1)
  have hraised : (endTest x 0x0B 0 (showBanks s2)).raised = s2.raised := Eq.trans (hended.stands .raised) (hshown.stands .raised)
  rw [if_neg (by rw [hdemand]; exact Bool.false_ne_true), sweepDue_of_none (by rw [hhub, hnone])]
  refine ⟨_, rfl, ?_, ?_⟩
  · rw [← htests]
    exact endTest_tests ..
  · rw [hraised]
    exact hmore (by rw [hraised1]; simp)

/-! ### Maintenance swaps (R538) -/

theorem stageSwap_swaps {t : Nat} {w : MSwap} {s : State} (hw : w ∈ (s.tile t).swaps) (st : SwapStage) :
    ({ w with stage := st } : MSwap) ∈ ((stageSwap t w st s).tile t).swaps := by
  rw [stageSwap, State.tile_modTile]
  exact List.mem_map.2 ⟨w, hw, if_pos (beq_iff_eq.2 rfl)⟩

theorem mem_swaps_of_swapOf {t old : Nat} {w : MSwap} {s : State} (hswap : swapOf s t old = some w) : w ∈ (s.tile t).swaps :=
  List.mem_of_find?_eq_some hswap

/-- The spare of the swap waits to be connected, and the swap for its switch. -/
theorem askSwitch_asks {t f : Nat} {w : MSwap} {s : State} (hserves : frontEnd s t w.old = some f) (hw : w ∈ (s.tile t).swaps) :
    (⟨f, w.spare, false, w.old⟩ : XChange) ∈ ((askSwitch t w s).tile t).changes ∧
      ({ w with stage := .switch } : MSwap) ∈ ((askSwitch t w s).tile t).swaps := by
  have hshown (u : State) : (showSpares t u).tiles = u.tiles := leaves [.regs] .tiles fun _ _ => keeps_showSpares (keeps_refl _ u)
  rw [askSwitch, hserves]
  dsimp only
  rw [State.tile_congr (hshown _), State.tile_modTile]
  exact ⟨List.mem_append_right _ (List.mem_singleton.2 rfl), stageSwap_swaps hw .switch⟩

theorem execMaintSwapCopyDone_shadows {t : Tile} {old : SliceIx} {w : MSwap} {f : Nat} {s : State} (hswap : swapOf s t old = some w)
    (hstage : w.stage = .copy) (hserves : frontEnd s t old = some f) (hshow : inShow s (feLink s t f) = true) :
    exec (.maintSwapCopyDone t old) s = .next (stageSwap t w .shadow s) := by
  show execMaintSwapCopyDone t old s = _
  rw [execMaintSwapCopyDone, hswap]
  dsimp only
  rw [hstage, hserves]
  exact if_pos hshow

theorem execMaintSwapShadowDone_switches {t : Tile} {old : SliceIx} {w : MSwap} {s : State} (hswap : swapOf s t old = some w)
    (hstage : w.stage = .shadow) : exec (.maintSwapShadowDone t old true) s = .next (askSwitch t w s) := by
  show execMaintSwapShadowDone t old true s = _
  rw [execMaintSwapShadowDone, hswap]
  dsimp only
  rw [hstage]
  rfl

/-- Settles O30, clause by clause. -/
theorem testsBanksAndSwaps : Obligations.TestsBanksAndSwaps := by
  refine ⟨fun s hon hphase hbusy => ⟨s.modHub (fun h => { h with bistDue := 1 }), ?_, ?_, State.modHub_tests ..⟩,
    fun _ _ _ => execBistTestDone_ends, fun b x s hstate hbeds hfind hwaits => ⟨_, execBankDrained_tests hstate hbeds hfind hwaits, ?_⟩,
    fun b s hstate hbeds hfind => ⟨_, execBankDrained_moves hstate hbeds hfind, by rw [moveBank_raises]; simp⟩,
    fun _ _ _ => execBankDrainTimeout_postpones,
    fun t old w f s hswap hstage hserves hshow =>
      ⟨_, execMaintSwapCopyDone_shadows hswap hstage hserves hshow, stageSwap_swaps (mem_swaps_of_swapOf hswap) .shadow⟩,
    fun t old w f s hswap hstage hserves =>
      ⟨_, execMaintSwapShadowDone_switches hswap hstage, askSwitch_asks hserves (mem_swaps_of_swapOf hswap)⟩⟩
  · show execBistUnitDue s = _
    simp only [execBistUnitDue, hon, hphase]
    exact congrArg Host.Outcome.next (sweepDue_of_busy (by rw [State.modHub_tests]; exact hbusy))
  · rw [State.hub_modHub]
  · exact mem_putTest (List.mem_of_find?_eq_some hfind) rfl

end Sys2Proof.Claims
end

section
/-! SUPPORT. The standing registers: the few registers of the hub that say how far boot, the configuration check, the calibrations, the Concierge and
the Porter are. What happens to links, pairs, claims and slices leaves them, takes no event away, and touches neither the cores nor the Porter's
queue. -/
-- the whole text is compiled at once: its threads share one memory limit
set_option Elab.async false
namespace Sys2Proof.Claims
open Sys2Proof Sys2Proof.Machine

/-! ### The relation -/

def standingRegs : List Nat :=
  [PWR_PHASE, CFG_CHECK_STATUS, CAL_RUNS, CAL_FAILS, CNC_GRANTS, DBG_PORTER_STATUS, DBG_PORTER_PC, BIST_PORTER_STATUS, BIST_PORTER_TAKEOVERS,
    CFG_PASSES]

/-- `s` shows the standing registers `A` as `r`, and has forgotten none of its events. -/
structure Quiet (A : List Nat) (r s : State) : Prop where
  standing : A ⊆ standingRegs
  regs : ∀ a ∈ A, s.reg a = r.reg a
  raised : r.raised <+: s.raised
  core : s.core = r.core
  porterQ : s.hub.porterQ = r.hub.porterQ

theorem quiet_refl {A : List Nat} (hA : A ⊆ standingRegs) (s : State) : Quiet A s s :=
  ⟨hA, fun _ _ => rfl, List.prefix_refl _, rfl, rfl⟩

/-! ### Addresses that are none of a standing register -/

theorem off_high {a : Nat} (h : 0x10000000 ≤ a) : a ∉ standingRegs := by
  have hlow : ∀ b ∈ standingRegs, b < 0x10000000 := by decide
  exact fun ha => absurd (hlow a ha) (Nat.not_lt.2 h)

theorem off_port (n k : Nat) : portBase n + k ∉ standingRegs := off_high (by unfold portBase; omega)

theorem off_port_word (n k j : Nat) : portBase n + k + 4 * j ∉ standingRegs := off_high (by unfold portBase; omega)

theorem off_pair (n p k : Nat) : pairBase n p + k ∉ standingRegs := off_high (by unfold pairBase portBase; omega)

theorem off_tile (t k : Nat) : tileBase t + k ∉ standingRegs := off_high (by unfold tileBase; omega)

theorem off_tile_word (t k j : Nat) : tileBase t + k + 4 * j ∉ standingRegs := off_high (by unfold tileBase; omega)

theorem off_slice (t i k : Nat) : sliceBase t i + k ∉ standingRegs := off_high (by unfold sliceBase; omega)

/-- The blocks of lanes and of timetables lie apart from the standing registers. -/
theorem off_between {a : Nat} (hlo : 0x01000000 ≤ a) (hhi : a < 0x03000000) : a ∉ standingRegs := by
  have hout : ∀ b ∈ standingRegs, b < 0x01000000 ∨ 0x03000000 ≤ b := by decide
  intro ha
  have := hout a ha
  omega

theorem off_tt (n : Port) {k : Nat} (hk : k < 0x10000) : ttBase n + k ∉ standingRegs :=
  off_between (by unfold ttBase; omega) (by unfold ttBase; omega)

theorem off_lane {h : Nat} (hh : h < 256) {k : Nat} (hk : k < 0x1000) : laneBase h + k ∉ standingRegs :=
  off_between (by unfold laneBase; omega) (by unfold laneBase; omega)

theorem off_intLane {h : Nat} (hh : h < 256) : HUB_INT_LANE (h / 32) ∉ standingRegs := by
  have hall : ∀ j : Fin 8, HUB_INT_LANE j ∉ standingRegs := by decide
  exact hall ⟨h / 32, by omega⟩

theorem off_octet {o : Nat} (ho : o < 32) : CLK_HPLL_STATUS o ∉ standingRegs := by
  have hall : ∀ o : Fin 32, CLK_HPLL_STATUS o ∉ standingRegs := by decide
  exact hall ⟨o, ho⟩

/-! ### One operation of the state -/

section
variable {A : List Nat} {r s : State}

/-- A state with the same registers, events, core words and hub state. -/
theorem quiet_same {t : State} (h : Quiet A r s) (hregs : t.regs = s.regs) (hraised : t.raised = s.raised) (hcore : t.core = s.core)
    (hhub : t.hub = s.hub) : Quiet A r t :=
  ⟨h.standing, fun a ha => (State.reg_congr _ _ hregs a).trans (h.regs a ha), hraised ▸ h.raised, hcore.trans h.core, hhub ▸ h.porterQ⟩

/-- What writes no register, no event, no core word and nothing of the hub. -/
theorem quiet_keeps (ks : List Kind) {t : State} (h : Quiet A r s)
    (hk : (∀ k ks, May (Within (k :: ks)) k) → (∀ j k ks [May (Within ks) k], May (Within (j :: ks)) k) → Keeps (Within ks) s t)
    (hquiet : Kind.regs ∉ ks ∧ Kind.raised ∉ ks ∧ Kind.core ∉ ks ∧ Kind.hub ∉ ks := by decide) : Quiet A r t := by
  have hkeeps := keeps_within ks hk
  obtain ⟨hregs, hraised, hcore, hhub⟩ := hquiet
  exact quiet_same h (hkeeps.stands .regs hregs) (hkeeps.stands .raised hraised) (hkeeps.stands .core hcore) (hkeeps.stands .hub hhub)

theorem quiet_setReg {a : Nat} {v : Word} (h : Quiet A r s)
    (ha : a ∉ standingRegs := by
      first | exact off_pair _ _ _ | exact off_port_word _ _ _ | exact off_port _ _ | exact off_tile_word _ _ _ | exact off_tile _ _
            | exact off_slice _ _ _ | exact off_tt _ (by decide)) : Quiet A r (s.setReg a v) :=
  ⟨h.standing, fun b hb => (State.reg_setReg_other _ _ _ _ fun hab : b = a => ha (h.standing (hab ▸ hb))).trans (h.regs b hb), h.raised, h.core, h.porterQ⟩

theorem quiet_setFld {f : Fld} {v : Nat} (h : Quiet A r s)
    (hf : f.addr ∉ standingRegs := by
      first | exact off_pair _ _ _ | exact off_port_word _ _ _ | exact off_port _ _ | exact off_tile_word _ _ _ | exact off_tile _ _
            | exact off_slice _ _ _ | exact off_tt _ (by decide)) : Quiet A r (s.setFld f v) := quiet_setReg h hf

theorem quiet_inc {a : Nat} (h : Quiet A r s)
    (ha : a ∉ standingRegs := by
      first | exact off_pair _ _ _ | exact off_port_word _ _ _ | exact off_port _ _ | exact off_tile_word _ _ _ | exact off_tile _ _
            | exact off_slice _ _ _ | exact off_tt _ (by decide)) : Quiet A r (s.inc a) := quiet_setReg h ha

theorem quiet_addTo {a k : Nat} (h : Quiet A r s)
    (ha : a ∉ standingRegs := by
      first | exact off_pair _ _ _ | exact off_port_word _ _ _ | exact off_port _ _ | exact off_tile_word _ _ _ | exact off_tile _ _
            | exact off_slice _ _ _ | exact off_tt _ (by decide)) : Quiet A r (s.addTo a k) := quiet_setReg h ha

theorem quiet_intBit {i : Nat} (h : Quiet A r s) : Quiet A r (s.intBit i) := quiet_setFld h (by show HUB_INT_STATUS ∉ standingRegs; decide)

theorem quiet_raise {code sev : Nat} {ps : List Nat} (h : Quiet A r s) : Quiet A r (s.raise code sev ps) :=
  ⟨h.standing, h.regs, h.raised.trans (List.prefix_append _ _), h.core, h.porterQ⟩

theorem quiet_emit {o : Out} (h : Quiet A r s) : Quiet A r (s.emit o) := quiet_same h rfl rfl rfl rfl

theorem quiet_modHub {g : HubSt → HubSt} (h : Quiet A r s) (hg : (g s.hub).porterQ = s.hub.porterQ) : Quiet A r (s.modHub g) :=
  ⟨h.standing, h.regs, h.raised, h.core, hg.trans h.porterQ⟩

theorem quiet_ite {c : Prop} [Decidable c] {t u : State} (ht : Quiet A r t) (hu : Quiet A r u) : Quiet A r (if c then t else u) := by
  split
  · exact ht
  · exact hu

theorem quiet_option {o : Option Nat} {t : State} {f : Nat → State} (ht : Quiet A r t) (hf : ∀ x, Quiet A r (f x)) :
    Quiet A r (match o with | some x => f x | none => t) := by
  cases o with
  | none => exact ht
  | some x => exact hf x

/-- A step that may be taken. -/
theorem quiet_when {c : Prop} [Decidable c] {t u : State} (ht : Quiet A r t) (hu : Quiet A r t → Quiet A r u) : Quiet A r (if c then u else t) :=
  quiet_ite (hu ht) ht

theorem quiet_forEach {α : Type} (xs : List α) {f : α → State → State} (h : Quiet A r s) (hf : ∀ x t, Quiet A r t → Quiet A r (f x t)) :
    Quiet A r (forEach xs f s) := forEach_of_step hf xs h

theorem quiet_forEach_mem {α : Type} {xs : List α} {f : α → State → State} (h : Quiet A r s)
    (hf : ∀ x ∈ xs, ∀ t, Quiet A r t → Quiet A r (f x t)) : Quiet A r (forEach xs f s) := by
  induction xs generalizing s with
  | nil => exact h
  | cons x xs ih => exact ih (hf x List.mem_cons_self s h) fun y hy => hf y (List.mem_cons_of_mem _ hy)

theorem quiet_modLink {l : LinkId} {g : LinkSt → LinkSt} (h : Quiet A r s) : Quiet A r (s.modLink l g) := quiet_same h rfl rfl rfl rfl
theorem quiet_modPort {n : Nat} {g : PortSt → PortSt} (h : Quiet A r s) : Quiet A r (s.modPort n g) := quiet_same h rfl rfl rfl rfl
theorem quiet_modPair {n p : Nat} {g : PairSt → PairSt} (h : Quiet A r s) : Quiet A r (s.modPair n p g) := quiet_same h rfl rfl rfl rfl
theorem quiet_modQueue {l : LinkId} {g : QueueSt → QueueSt} (h : Quiet A r s) : Quiet A r (s.modQueue l g) := quiet_same h rfl rfl rfl rfl
theorem quiet_modLane {i : Nat} {g : LaneSt → LaneSt} (h : Quiet A r s) : Quiet A r (s.modLane i g) := quiet_same h rfl rfl rfl rfl
theorem quiet_modTile {t : Nat} {g : TileSt → TileSt} (h : Quiet A r s) : Quiet A r (s.modTile t g) := quiet_same h rfl rfl rfl rfl
theorem quiet_modDiag {g : Nat} {f : DiagSt → DiagSt} (h : Quiet A r s) : Quiet A r (s.modDiag g f) := quiet_same h rfl rfl rfl rfl
theorem quiet_modDom {i : Nat} {g : DomSt → DomSt} (h : Quiet A r s) : Quiet A r (s.modDom i g) := quiet_same h rfl rfl rfl rfl

end

/-! ### Beds, codewords and frames (R233, R237) -/

section
variable {A : List Nat} {r s : State}

theorem quiet_showPool (h : Quiet A r s) : Quiet A r (showPool s) := 
  quiet_ite (quiet_setFld (quiet_setFld h (by decide)) (by decide)) (quiet_setFld h (by decide))

theorem quiet_releaseBed {held b : Nat} (h : Quiet A r s) : Quiet A r (releaseBed held b s) := by
  have hused : Quiet A r (setBedsUsed b (bedsUsed s b - 1) s) := quiet_keeps [.banks] h fun _ _ => keeps_setBedsUsed (keeps_refl _ s)
  exact quiet_ite (quiet_showPool (quiet_keeps [.banks] hused fun _ _ => keeps_setShared (keeps_refl _ _))) hused

theorem quiet_releaseBeds {n : Port} {d : Dir} {bs : List Nat} (h : Quiet A r s) : Quiet A r (releaseBeds n d bs s) := by
  unfold releaseBeds
  generalize dirBeds s n d = held
  induction bs generalizing held s with
  | nil => exact h
  | cons b bs ih => exact ih (quiet_releaseBed h) _

theorem quiet_clearCodewords {l : LinkId} (h : Quiet A r s) : Quiet A r (clearCodewords l s) := by
  unfold clearCodewords
  exact quiet_modQueue (quiet_releaseBeds h)

theorem quiet_showBeds {n : Port} (h : Quiet A r s) : Quiet A r (showBeds n s) := quiet_setFld (quiet_setFld h)

theorem quiet_setFrames {l : LinkId} {d : Dir} {fs : List Frame} (h : Quiet A r s) : Quiet A r (setFrames l d fs s) :=
  quiet_keeps [.queues] h fun _ _ => keeps_setFrames (keeps_refl _ s)

theorem quiet_flushTx {l : LinkId} (h : Quiet A r s) : Quiet A r (flushTx l s) :=
  quiet_showBeds (quiet_addTo (quiet_modQueue (quiet_setFrames (quiet_releaseBeds h))))

theorem quiet_dropFrames {l : LinkId} {d : Dir} {p : Frame → Bool} (h : Quiet A r s) : Quiet A r (dropFrames l d p s).2 :=
  quiet_setFrames (quiet_releaseBeds h)

theorem off_expiredAt (n : Port) (d : Dir) : expiredAt n d ∉ standingRegs := by
  cases d
  · exact off_tt n (by decide)
  · exact off_tt n (by decide)

theorem quiet_expireFrames {l : LinkId} {d : Dir} {p : Frame → Bool} {cause : Nat} (h : Quiet A r s) : Quiet A r (expireFrames l d p cause s) := by
  have hdropped := quiet_dropFrames (l := l) (d := d) (p := fun f => f.tt && !f.os && f.state == .accepted && p f) h
  exact quiet_ite hdropped (quiet_raise (quiet_addTo hdropped (off_expiredAt _ _)))

theorem quiet_expireAll {l : LinkId} {cause : Nat} (h : Quiet A r s) : Quiet A r (expireAll l cause s) := quiet_expireFrames h

theorem quiet_dropCodewords {l : LinkId} {p : CwUnit → Bool} (h : Quiet A r s) : Quiet A r (dropCodewords l p s).2 := by
  unfold dropCodewords
  dsimp only
  split
  · exact h
  · exact quiet_addTo (quiet_modQueue h)

theorem quiet_expireCodewords {l : LinkId} {p : Rat → Bool} {cause : Nat} (h : Quiet A r s) : Quiet A r (expireCodewords l p cause s) := by
  have hdropped := quiet_dropCodewords (l := l) (p := fun u => u.due.any p) h
  exact quiet_ite hdropped (quiet_raise (quiet_addTo hdropped))

theorem quiet_expireRxCodewords {l : LinkId} {p : Rat → Bool} {cause : Nat} (h : Quiet A r s) : Quiet A r (expireRxCodewords l p cause s) :=
  quiet_ite h (quiet_raise (quiet_addTo (quiet_modQueue h)))

/-! ### Claims, jobs and swaps (R428, R431, R538) -/

theorem quiet_showClaims (h : Quiet A r s) : Quiet A r (showClaims s) :=
  quiet_setFld (quiet_setFld (quiet_setFld h (by decide)) (by decide)) (by decide)

theorem quiet_refill {k : Nat} (h : Quiet A r s) : Quiet A r (refill k s) := quiet_keeps [.waiting, .later] h fun _ _ => keeps_refill (keeps_refl _ s)

theorem quiet_releaseClaim {i : Nat} (h : Quiet A r s) : Quiet A r (releaseClaim i s) :=
  quiet_showClaims (quiet_refill (quiet_same h rfl rfl rfl rfl))

theorem quiet_askInternal {kind res : Nat} {why : Why} (h : Quiet A r s) : Quiet A r (askInternal kind res why s) :=
  quiet_showClaims (quiet_refill (quiet_same h rfl rfl rfl rfl))

theorem quiet_askRepair {add remove : List Repair} (h : Quiet A r s) : Quiet A r (askRepair add remove s) := quiet_askInternal h

theorem quiet_finishJob {num status arg tile unit : Nat} (h : Quiet A r s) : Quiet A r (finishJob num status arg tile unit s) := by
  have hdone : Quiet A r { s with completions := s.completions ++ [(⟨s.now, tile, unit, num, status, arg, false⟩ : Completion)] } :=
    quiet_same h rfl rfl rfl rfl
  unfold finishJob
  dsimp only
  split
  · exact h
  · split
    · exact quiet_ite (quiet_releaseClaim hdone) hdone
    · exact hdone

theorem quiet_releaseTaken {i : Nat} (h : Quiet A r s) : Quiet A r (releaseTaken i s) := quiet_ite (quiet_releaseClaim h) h

theorem quiet_endSwapJob {t : Nat} {w : MSwap} (h : Quiet A r s) : Quiet A r (endSwapJob t w s) := by
  refine quiet_releaseTaken ?_
  have hended := quiet_forEach (s.tests.filter (fun x => x.handle == w.handle)) (f := fun x s => finishJob x.job 0x0B 0 t x.unit s)
    (quiet_same (t := { s with tests := s.tests.filter (fun x => x.handle != w.handle) }) h rfl rfl rfl rfl) fun _ _ => quiet_finishJob
  split
  · exact quiet_finishJob hended
  · exact hended

theorem quiet_showSpares {t : Nat} (h : Quiet A r s) : Quiet A r (showSpares t s) := quiet_setFld (quiet_setFld (quiet_setFld (quiet_setFld h)))

theorem quiet_setSliceState {t i st : Nat} (h : Quiet A r s) : Quiet A r (setSliceState t i st s) := quiet_showSpares (quiet_setFld h)

theorem quiet_abandonSwap {t st reason : Nat} {w : MSwap} {restart : Bool} (h : Quiet A r s) : Quiet A r (abandonSwap t w st reason restart s) := by
  have hout : Quiet A r (setSliceState t w.spare st (takeSwapOut t w s)) :=
    quiet_setSliceState (quiet_keeps [.tiles] h fun _ _ => keeps_takeSwapOut (keeps_refl _ s))
  exact quiet_ite (quiet_modTile (quiet_ite hout (quiet_raise hout))) (quiet_endSwapJob (quiet_modTile (quiet_ite hout (quiet_raise hout))))

/-! ### Diagnostics and tests on a link (R332, R533) -/

theorem quiet_abortReflect {g reason : Nat} (h : Quiet A r s) : Quiet A r (abortReflect g reason s) :=
  quiet_ite h (quiet_finishJob (quiet_modDiag (quiet_raise (quiet_inc (quiet_setFld (quiet_setFld (quiet_setFld h)))))))

theorem quiet_abortContext {n : Port} {fallen : Bool} {reason : Nat} (h : Quiet A r s) : Quiet A r (abortContext n fallen reason s) :=
  quiet_forEach _ h fun _ _ ht => quiet_ite (quiet_abortReflect ht) ht

theorem quiet_disturbTests {l : LinkId} (h : Quiet A r s) : Quiet A r (disturbTests l s) :=
  quiet_forEach _ (quiet_same (quiet_forEach _ h fun _ _ => quiet_abandonSwap) rfl rfl rfl rfl) fun _ _ ht =>
    quiet_releaseClaim (quiet_finishJob (quiet_setFld ht))

theorem quiet_sideStartup {l : LinkId} (h : Quiet A r s) : Quiet A r (sideStartup l s) := quiet_disturbTests (quiet_abortContext h)

/-! ### What a port shows (R194, R210) -/

theorem off_intPort (n : Port) : HUB_INT_PORT (n.val / 32) ∉ standingRegs := by
  have hall : ∀ j : Fin 4, HUB_INT_PORT j ∉ standingRegs := by decide
  exact hall ⟨n.val / 32, by omega⟩

theorem quiet_stateChange {n : Port} {f : Fld} {v : Nat} (h : Quiet A r s) : Quiet A r (stateChange n f v s) :=
  quiet_ite h (quiet_setFld h (off_intPort n))

theorem quiet_showPort {n : Port} (h : Quiet A r s) : Quiet A r (showPort n s) :=
  quiet_setReg (quiet_setReg (quiet_setReg (quiet_setReg (quiet_setReg (quiet_setReg (quiet_setReg (quiet_setReg (quiet_when
    (quiet_setFld (quiet_setFld (quiet_setFld (quiet_setReg (quiet_setReg (quiet_stateChange h)))))) fun hshown => quiet_setReg hshown))))))))

theorem quiet_showSub {n : Port} {p : Pair} (h : Quiet A r s) : Quiet A r (showSub n p s) :=
  quiet_when (quiet_setReg (quiet_stateChange (quiet_setReg (quiet_setReg (quiet_setReg h))))) fun hshown =>
    quiet_setReg (quiet_setReg (quiet_setFld (quiet_setReg (quiet_stateChange (quiet_setReg (quiet_setReg (quiet_setReg (quiet_setReg
      (quiet_setReg hshown)))))))))

/-! ### Links: start-up, modes, changes (R73, R194, R201) -/

theorem quiet_endSwap {n p : Nat} (h : Quiet A r s) : Quiet A r (endSwap n p s) := quiet_setFld (quiet_modPair h)

theorem quiet_dropSubPattern {l : LinkId} (h : Quiet A r s) : Quiet A r (dropSubPattern l s) :=
  quiet_setFld (quiet_setFld (quiet_setFld (quiet_modPort h)))

theorem quiet_settleLocal {l : LinkId} (h : Quiet A r s) : Quiet A r (settleLocal l s) :=
  quiet_ite h (quiet_setFld (quiet_setFld (quiet_setFld (quiet_modPort h))))

theorem quiet_breakRx {l : LinkId} (h : Quiet A r s) : Quiet A r (breakRx l s) := quiet_keeps [.queues] h fun _ _ => keeps_breakRx (keeps_refl _ s)

theorem quiet_clearStream {l : LinkId} (h : Quiet A r s) : Quiet A r (clearStream l s) :=
  quiet_keeps [.queues] h fun _ _ => keeps_clearStream (keeps_refl _ s)

theorem quiet_clearLink {l : LinkId} (h : Quiet A r s) : Quiet A r (clearLink l s) :=
  quiet_clearStream (quiet_clearCodewords (quiet_breakRx (quiet_dropSubPattern (quiet_settleLocal (quiet_ite
    (quiet_forEach _ (quiet_modLink h) fun _ _ ht => quiet_setFld (quiet_modPair (quiet_endSwap ht)))
    (quiet_setFld (quiet_setFld (quiet_forEach _ (quiet_modLink h) fun _ _ ht => quiet_setFld (quiet_modPair (quiet_endSwap ht))))))))))

theorem quiet_drawIdentity (h : Quiet A r s) : Quiet A r (drawIdentity s).2 := quiet_keeps [.free] h fun _ _ => keeps_drawIdentity (keeps_refl _ s)

theorem quiet_drawSlots {l : LinkId} (h : Quiet A r s) : Quiet A r (drawSlots l s) :=
  quiet_keeps [.free, .links] h fun _ _ => keeps_drawSlots (keeps_refl _ s)

theorem quiet_enterG0One {l : LinkId} (h : Quiet A r s) : Quiet A r (enterG0One l s) := by
  have hdrawn := quiet_drawIdentity h
  unfold enterG0One
  exact quiet_sideStartup (quiet_flushTx (quiet_drawSlots (quiet_forEach _ (quiet_modLink hdrawn) fun _ _ ht => quiet_setFld (quiet_modPair ht))))

theorem quiet_setLink {l : LinkId} {k : LinkSt} (h : Quiet A r s) : Quiet A r (s.setLink l k) := quiet_same h rfl rfl rfl rfl

theorem quiet_enterG0 {l : LinkId} (h : Quiet A r s) : Quiet A r (enterG0 l s) := by
  unfold enterG0
  dsimp only
  split
  · split
    · exact quiet_when h quiet_enterG0One
    · exact quiet_showPort (quiet_forEach _ (quiet_forEach _ (quiet_modLink h) fun _ _ => quiet_enterG0One) fun _ _ => quiet_showSub)
  · split
    · exact quiet_enterG0One h
    · exact quiet_ite (quiet_enterG0One h) (quiet_showPort (quiet_forEach _ (quiet_enterG0One (quiet_setLink (quiet_forEach _ h
        fun _ _ ht => quiet_clearLink (quiet_setLink ht)))) fun _ _ => quiet_showSub))

theorem quiet_showEei {l : LinkId} (h : Quiet A r s) : Quiet A r (showEei l s) := quiet_setFld (quiet_setFld (quiet_setFld h))

/-- The events of a change of modes are raised and no more. -/
theorem quiet_reasonEvents {n : Port} (h : Quiet A r s) : Quiet A r (reasonEvents n s) :=
  quiet_forEach _ h fun _ _ ht => quiet_ite ht (quiet_raise ht)

theorem quiet_showModes {n : Port} (h : Quiet A r s) : Quiet A r (showModes n s) := by
  unfold showModes
  extract_lets eff fc changed r0 r1 ina pend st b m tt s1 s2 s3 s4 s5 s6 s7 s8 s9
  have hs6 : Quiet A r s6 := quiet_setFld (quiet_setFld (quiet_setReg (quiet_setReg (quiet_setFld (quiet_setFld (quiet_setFld (quiet_when
    (quiet_reasonEvents h) fun ht => quiet_inc ht)))))))
  have hs7 : Quiet A r s7 := quiet_option hs6 fun _ => quiet_setReg hs6
  have hs9 : Quiet A r s9 := quiet_setFld (quiet_setReg (quiet_setReg hs7))
  exact quiet_ite hs9 (quiet_showEei hs9)

theorem quiet_refreshModes {n : Port} (h : Quiet A r s) : Quiet A r (refreshModes n s) := quiet_showModes (quiet_showModes h)

theorem quiet_showChanges {l : LinkId} (h : Quiet A r s) : Quiet A r (showChanges l s) := by
  unfold showChanges
  extract_lets k s1
  have hs1 : Quiet A r s1 := by
    refine quiet_forEach _ h fun p t ht => ?_
    dsimp only
    split
    · exact quiet_setReg (quiet_setFld (quiet_setFld (quiet_setFld ht)))
    · exact quiet_setFld (quiet_setFld (quiet_setFld ht))
  split
  · exact quiet_setReg hs1
  · exact quiet_setReg (quiet_setReg hs1)

theorem quiet_showLink {l : LinkId} (h : Quiet A r s) : Quiet A r (showLink l s) := by
  refine quiet_refreshModes (quiet_showChanges ?_)
  split
  · exact quiet_showPort h
  · exact quiet_showSub h

theorem quiet_enterHoldOff {l : LinkId} (h : Quiet A r s) : Quiet A r (enterHoldOff l s) :=
  quiet_keeps [.free, .links] h fun _ _ => keeps_enterHoldOff (keeps_refl _ s)

theorem quiet_sideEnable {n : Port} (h : Quiet A r s) : Quiet A r (sideEnable n s) :=
  quiet_forEach _ (quiet_abortContext (quiet_modPort h)) fun _ _ ht => quiet_modDom (quiet_modDom ht)

theorem quiet_startPort {n : Port} (h : Quiet A r s) : Quiet A r (startPort n s) :=
  quiet_ite (quiet_ite (quiet_forEach _ (quiet_enterG0 (quiet_sideEnable h)) fun _ _ => quiet_showLink)
    (quiet_showLink (quiet_enterHoldOff (quiet_sideEnable h)))) h

/-! ### Links: EEI, agreed changes, retrains (R63, R73, R201) -/

theorem quiet_eeiBreak {l : LinkId} (h : Quiet A r s) : Quiet A r (eeiBreak l s) :=
  quiet_ite (quiet_setFld (quiet_forEach _ (quiet_modLink (quiet_modLink h)) fun _ _ => quiet_modPair)) (quiet_modLink h)

theorem quiet_agree {l : LinkId} {st : Nat} {k : ChangeKind} (h : Quiet A r s) : Quiet A r (agree l st k s) :=
  quiet_keeps [.links] h fun _ _ => keeps_agree (keeps_refl _ s)

theorem quiet_sendPort {l : LinkId} {code arg : Nat} {st : Option Nat} (h : Quiet A r s) : Quiet A r (sendPort l code st arg s) :=
  quiet_keeps [.links] h fun _ _ => keeps_sendPort (keeps_refl _ s)

theorem quiet_requestRetrain {l : LinkId} {cause : Nat} (h : Quiet A r s) : Quiet A r (requestRetrain l cause s) := by
  unfold requestRetrain
  dsimp only
  split
  · exact h
  · split
    · exact quiet_ite (quiet_modLink h) h
    · exact h
    · exact quiet_ite h (quiet_agree (quiet_sendPort (quiet_eeiBreak h)))

theorem quiet_dropRxSwap {n p : Nat} (h : Quiet A r s) : Quiet A r (dropRxSwap n p s) := quiet_endSwap (quiet_modPair h)

theorem quiet_dropRxTables {l : LinkId} (h : Quiet A r s) : Quiet A r (dropRxTables l s) :=
  quiet_keeps [.links] (quiet_forEach (linkPairs l) (quiet_modLink h) fun _ _ => quiet_dropRxSwap) fun _ _ => keeps_endRate (keeps_refl _ _)

theorem quiet_dropTxTables {l : LinkId} (h : Quiet A r s) : Quiet A r (dropTxTables l s) :=
  quiet_keeps [.pairs, .links] h fun _ _ => keeps_dropTxTables (keeps_refl _ s)

theorem quiet_endExchange {l : LinkId} (h : Quiet A r s) : Quiet A r (endExchange l s) := quiet_dropTxTables (quiet_dropRxTables h)

theorem quiet_cancelChange {l : LinkId} {c : Change} (h : Quiet A r s) : Quiet A r (cancelChange l c s) := by
  have hdropped : Quiet A r (capCancel l c.stage (dropChange l c s)) :=
    quiet_keeps [.links, .queues] h fun _ _ => keeps_capCancel (keeps_dropChange (keeps_refl _ s))
  unfold cancelChange
  dsimp only
  split
  · exact quiet_ite (quiet_endExchange hdropped) hdropped
  · exact quiet_keeps [.pairs] hdropped fun _ _ => keeps_reloadTxShadow (keeps_refl _ _)
  · exact quiet_dropRxSwap hdropped
  · exact quiet_dropTxTables hdropped
  · exact quiet_dropRxTables hdropped
  · exact quiet_modLink hdropped
  · exact hdropped

theorem quiet_cancelProposal {l : LinkId} {q : Proposal} (h : Quiet A r s) : Quiet A r (cancelProposal l q s) :=
  quiet_ite (quiet_dropRxSwap (quiet_modLink h)) (quiet_ite (quiet_dropRxTables (quiet_modLink h)) (quiet_ite (quiet_endExchange (quiet_modLink h))
    (quiet_ite (quiet_modLink (quiet_modLink h)) (quiet_modLink h))))

theorem quiet_cancelFrom {l : LinkId} {stage : Nat} {keep : Change → Bool} (h : Quiet A r s) : Quiet A r (cancelFrom l stage keep s) :=
  quiet_forEach _ (quiet_forEach _ h fun _ _ => quiet_cancelChange) fun _ _ => quiet_cancelProposal

theorem quiet_agreeFallback {l : LinkId} {p code stage : Nat} (h : Quiet A r s) : Quiet A r (agreeFallback l p code stage s) :=
  quiet_keeps [.queues] (quiet_agree (quiet_cancelFrom (quiet_eeiBreak h))) fun _ _ => keeps_capAgree (keeps_refl _ _)

/-! ### Links that go down (R192, R194) -/

theorem quiet_showRoute {n : Port} (h : Quiet A r s) : Quiet A r (showRoute n s) := quiet_setFld h

theorem quiet_captureProfile {n p cause : Nat} (h : Quiet A r s) : Quiet A r (captureProfile n p cause s) :=
  quiet_keeps [.diags] h fun _ _ => keeps_captureProfile (keeps_refl _ s)

theorem quiet_histFlags {l : LinkId} {i : Nat} (h : Quiet A r s) : Quiet A r (histFlags l i s) :=
  quiet_keeps [.diags] h fun _ _ => keeps_histFlags (keeps_refl _ s)

theorem quiet_sideLinkDown {l : LinkId} (h : Quiet A r s) : Quiet A r (sideLinkDown l s) :=
  quiet_disturbTests (quiet_histFlags (quiet_forEach (linkPairs l) (quiet_abortContext h) fun _ _ ht => quiet_captureProfile ht))

theorem quiet_capNotice {l : LinkId} (h : Quiet A r s) : Quiet A r (capNotice l s) :=
  quiet_keeps [.queues] h fun _ _ => keeps_capNotice (keeps_refl _ s)

theorem quiet_linkDown {l : LinkId} {cause : Nat} (h : Quiet A r s) : Quiet A r (linkDown l cause s) := by
  unfold linkDown
  extract_lets k s1 s2 s3 s4 s5 s6 s7 s8 s9
  have hs4 : Quiet A r s4 := quiet_inc (quiet_modLink (quiet_clearLink (quiet_expireRxCodewords (quiet_expireCodewords h))))
  have hs8 : Quiet A r s8 := quiet_sideLinkDown (quiet_showBeds (quiet_expireAll (quiet_capNotice (quiet_raise (quiet_ite (quiet_inc hs4) hs4)))))
  exact quiet_ite h (quiet_showRoute (quiet_showLink (quiet_ite (quiet_enterG0 hs8) (quiet_ite (quiet_flushTx hs8) (quiet_enterHoldOff hs8)))))

theorem quiet_fastRetrainFail {l : LinkId} {cause : Nat} (h : Quiet A r s) : Quiet A r (fastRetrainFail l cause s) :=
  quiet_ite h (quiet_linkDown (quiet_modLink (quiet_raise (quiet_inc h))))

theorem quiet_deadFirst {l : LinkId} (h : Quiet A r s) : Quiet A r (deadFirst l s) := quiet_keeps [.links] h fun _ _ => keeps_deadFirst (keeps_refl _ s)

theorem quiet_pairFault {l : LinkId} {p code : Nat} (h : Quiet A r s) : Quiet A r (pairFault l p code s) :=
  quiet_ite (quiet_fastRetrainFail (quiet_modLink h)) (quiet_ite h (quiet_ite h
    (quiet_ite (quiet_sendPort (quiet_deadFirst (quiet_agreeFallback h))) (quiet_linkDown h))))

theorem quiet_failSubAdc {n : Port} {p : Pair} {i : Nat} (h : Quiet A r s) : Quiet A r (failSubAdc n p i s) := by
  unfold failSubAdc
  split
  · exact quiet_askRepair (quiet_raise (quiet_modPair (quiet_setFld (quiet_setFld (quiet_setFld h)))))
  · exact quiet_ite h (quiet_showLink (quiet_pairFault h))

/-! ### Wakes of a port (R218, R431) -/

theorem quiet_countClips {n : Port} {p : Nat} {ys : List LineSymbol} (h : Quiet A r s) : Quiet A r (countClips n p ys s) := quiet_addTo h

theorem quiet_sendTraining {l : LinkId} {first count p : Nat} (h : Quiet A r s) : Quiet A r (sendTraining l first count p s) :=
  quiet_emit (quiet_countClips h)

theorem quiet_modEei {l : LinkId} {g : EeiSt → EeiSt} (h : Quiet A r s) : Quiet A r (modEei l g s) :=
  quiet_keeps [.links] h fun _ _ => keeps_modEei (keeps_refl _ s)

theorem quiet_startAlerts {l : LinkId} (h : Quiet A r s) : Quiet A r (startAlerts l s) :=
  quiet_ite (quiet_sendPort (quiet_modEei (quiet_forEach _ h fun _ _ ht => quiet_sendTraining (quiet_emit (quiet_countClips ht))))) h

theorem quiet_beginWake {l : LinkId} {cause : Nat} (h : Quiet A r s) : Quiet A r (beginWake l cause s) :=
  quiet_startAlerts (quiet_setFld (quiet_modEei h))

theorem quiet_countAbort {l : LinkId} {code : Nat} (h : Quiet A r s) : Quiet A r (countAbort l code s) := by
  unfold countAbort
  exact quiet_modLink (quiet_setFld (quiet_ite (quiet_inc h) h))

theorem quiet_wakeCause {l : LinkId} {cause : Nat} (h : Quiet A r s) : Quiet A r (wakeCause l cause s) := by
  unfold wakeCause
  extract_lets k e abortable
  refine quiet_ite h (quiet_ite (quiet_ite h (quiet_beginWake h)) (quiet_ite ?_ ?_))
  · refine quiet_ite h (quiet_ite (quiet_countAbort (quiet_sendPort ?_)) (quiet_sendPort (quiet_setFld (quiet_modEei h))))
    exact quiet_keeps [.links] h fun _ _ => keeps_dropEntry (keeps_refl _ s)
  · split
    · exact quiet_ite h (quiet_ite (quiet_modEei (quiet_sendPort h)) (quiet_modEei (quiet_setFld (quiet_sendPort h))))
    · exact quiet_modLink h

theorem quiet_wakePort {n : Port} {cause : Nat} (h : Quiet A r s) : Quiet A r (wakePort n cause s) := quiet_forEach _ h fun _ _ => quiet_wakeCause

theorem quiet_wakeShown {n : Port} {cause : Nat} (h : Quiet A r s) : Quiet A r (wakeShown n cause s) :=
  quiet_forEach _ (quiet_wakePort h) fun _ _ => quiet_showLink

theorem quiet_grantWake {kind : Nat} {pair : Option Nat} (h : Quiet A r s) : Quiet A r (grantWake kind pair s) := by
  unfold grantWake
  split
  · exact quiet_wakeShown h
  · exact h

/-! ### Lanes, octets and spares (R272, R366) -/

theorem quiet_laneInt {i : Nat} (hi : i < 256) (h : Quiet A r s) : Quiet A r (laneInt i s) := quiet_setFld h (off_intLane hi)

theorem quiet_setLaneState {i st : Nat} (hi : i < 256) (h : Quiet A r s) : Quiet A r (setLaneState i st s) :=
  quiet_ite h (quiet_laneInt hi (quiet_setFld h (off_lane hi (by decide))))

theorem quiet_setLocks {i v : Nat} (hi : i < 256) (h : Quiet A r s) : Quiet A r (setLocks i v s) :=
  quiet_setFld (quiet_setFld (quiet_setFld h (off_lane hi (by decide))) (off_lane hi (by decide))) (off_lane hi (by decide))

theorem quiet_acquire {i : Nat} {half : Bool} (hi : i < 256) (h : Quiet A r s) : Quiet A r (acquire i half s) := by
  have hcleared {g : LaneSt → LaneSt} : Quiet A r ((setLocks i 0 (s.modLane i g)).setFld (HL_STATUS.RATE_PENDING i) 0) :=
    quiet_setFld (quiet_setLocks hi (quiet_modLane h)) (off_lane hi (by decide))
  exact quiet_ite (quiet_setLaneState hi hcleared) (quiet_modLane hcleared)

theorem quiet_octetOn {o : Nat} (h : Quiet A r s) : Quiet A r (octetOn o s) := quiet_keeps [.doms] h fun _ _ => keeps_octetOn (keeps_refl _ s)

theorem quiet_rateTaken {n : Port} (h : Quiet A r s) : Quiet A r (rateTaken n s) :=
  quiet_forEach _ h fun _ _ ht => quiet_ite (quiet_showLink (quiet_requestRetrain ht)) ht

theorem quiet_enableLane {i : Nat} (hi : i < 256) (h : Quiet A r s) : Quiet A r (enableLane i s) := by
  have hon : Quiet A r (octetOn (octetOf i) (s.setFld (HL_CFG.ENABLE i) 1)) := quiet_octetOn (quiet_setFld h (off_lane hi (by decide)))
  exact quiet_ite h (quiet_ite hon (quiet_ite (quiet_rateTaken (quiet_acquire hi hon)) (quiet_acquire hi hon)))

theorem quiet_abortEye {i : Nat} (hi : i < 256) (h : Quiet A r s) : Quiet A r (abortEye i s) := by
  have hshown : Quiet A r (((s.setFld (HL_EYE_STATUS.BUSY i) 0).setFld (HL_EYE_STATUS.ABORTED i) 1).setFld (HL_EYE_STATUS.DONE i) 0) :=
    quiet_setFld (quiet_setFld (quiet_setFld h (off_lane hi (by decide))) (off_lane hi (by decide))) (off_lane hi (by decide))
  unfold abortEye
  dsimp only
  split
  · exact h
  · split
    · exact quiet_modLane (g := fun k => { k with eyeJob := 0 }) hshown
    · exact quiet_finishJob (quiet_keeps [.eyes] (quiet_modLane (g := fun k => { k with eyeJob := 0 }) hshown) fun _ _ =>
        keeps_upd_eyes (keeps_refl _ _))

theorem quiet_clearLaneStatus {i : Nat} (hi : i < 256) (h : Quiet A r s) : Quiet A r (clearLaneStatus i s) := by
  refine ⟨h.standing, fun a ha => ?_, h.raised, h.core, h.porterQ⟩
  rw [← h.regs a ha]
  have hout : ¬(laneBase i ≤ a ∧ a < laneBase i + 0x1000) := fun ⟨hlo, hhi⟩ =>
    off_between (a := a) (by unfold laneBase at hlo; omega) (by unfold laneBase at hhi; omega) (h.standing ha)
  exact SMap.get_filter _ (fun v => by simp [hout]) s.regs

theorem quiet_keepFailed {i : Nat} (hi : i < 256) (h : Quiet A r s) : Quiet A r (keepFailed i s) :=
  quiet_ite (quiet_ite (quiet_setFld h (off_lane hi (by decide))) (quiet_setFld (quiet_setFld h (off_lane hi (by decide))) (off_lane hi (by decide)))) h

theorem quiet_octetOff {o : Nat} (ho : o < 32) (h : Quiet A r s) : Quiet A r (octetOff o s) := by
  refine quiet_forEach_mem (quiet_setFld (quiet_modDom h) (off_octet ho)) fun i hi t ht => ?_
  obtain ⟨j, hj, rfl⟩ := List.mem_map.1 hi
  have hlane : 8 * o + j < 256 := by
    have := List.mem_range.1 hj
    omega
  exact quiet_keepFailed hlane (quiet_setFld (quiet_setFld (quiet_clearLaneStatus hlane ht) (off_lane hlane (by decide))) (off_lane hlane (by decide)))

theorem quiet_octetJudge {o : Nat} (ho : o < 32) (h : Quiet A r s) : Quiet A r (octetJudge o s) := quiet_ite (quiet_octetOff ho h) h

theorem quiet_prbsUnlock {i : Nat} (hi : i < 256) (h : Quiet A r s) : Quiet A r (prbsUnlock i s) :=
  quiet_ite (quiet_setFld (quiet_setFld (quiet_modLane h) (off_lane hi (by decide))) (off_lane hi (by decide))) h

theorem quiet_settleSpares (h : Quiet A r s) : Quiet A r (settleSpares s) := quiet_ite h (quiet_modHub h rfl)

theorem quiet_setSpareState {g st : Nat} (hg : spareLane g < 256) (h : Quiet A r s) : Quiet A r (setSpareState g st s) :=
  quiet_ite h (quiet_settleSpares (quiet_laneInt hg (quiet_setFld h (off_lane hg (by decide)))))

theorem quiet_writeSpareCfg {g v : Nat} (hg : spareLane g < 256) (h : Quiet A r s) : Quiet A r (writeSpareCfg g v s) := by
  unfold writeSpareCfg
  extract_lets sp warm keep v s1 s2 s3 s4
  have hs1 : Quiet A r s1 := quiet_setReg h (off_lane hg (by decide))
  have hs4 : Quiet A r s4 := quiet_setSpareState hg (quiet_setLaneState hg (quiet_setLocks hg (quiet_prbsUnlock hg (quiet_abortEye hg (quiet_modLane hs1)))))
  exact quiet_ite (quiet_ite (quiet_octetOn hs1) (quiet_octetJudge (by decide) hs1)) (quiet_ite (quiet_setSpareState hg (quiet_acquire hg (quiet_octetOn hs1)))
    (quiet_ite (quiet_octetJudge (by decide) hs4) hs1))

/-- The lanes, the spares and the ports that are enabled begin (R380). -/
theorem quiet_beginLine (h : Quiet A r s) : Quiet A r (beginLine s) := by
  refine quiet_ite h (quiet_forEach _ (quiet_forEach_mem (quiet_forEach_mem h fun i hi t ht => ?_) fun g hg t ht => ?_) fun _ _ => quiet_startPort)
  · have hlane : i < 256 := by
      have := List.mem_range.1 (List.mem_filter.1 hi).1
      omega
    exact quiet_enableLane hlane (quiet_setFld ht (off_lane hlane (by decide)))
  · have hspare : spareLane g < 256 := by
      have := List.mem_range.1 (List.mem_filter.1 hg).1
      unfold spareLane
      omega
    exact quiet_writeSpareCfg hspare (quiet_setFld ht (off_lane hspare (by decide)))

end

end Sys2Proof.Claims
end

section
/-! PROOF. Grants of the Concierge, one clause of the statement after the other (O59). -/
-- the whole text is compiled at once: its threads share one memory limit
set_option Elab.async false
namespace Sys2Proof.Claims
open Sys2Proof Sys2Proof.Machine

/-! ### A claim that leaves the queue (R540, R542) -/

/-- The state in which a waiting claim is held; `byClaim` where a CNC_CLAIM asked for it. -/
def claimHeld (w : Waiting) (rest : List Waiting) (byClaim : Bool) (s : State) : State :=
  grantWake w.kind w.pair (takeClaim w.src w.kind w.res w.pair byClaim (refill 48 { s with waiting := rest })).2

theorem refill_keeps (k : Nat) (s : State) : Keeps (Within [.waiting, .later]) s (refill k s) := keeps_within _ fun _ _ => keeps_refill (keeps_refl _ s)

theorem nextHandle_congr {s t : State} (hhub : t.hub = s.hub) (hclaims : t.claims = s.claims) : nextHandle t = nextHandle s := by
  rw [nextHandle, nextHandle, hhub, hclaims]

theorem nextHandle_refill (rest : List Waiting) (s : State) : nextHandle (refill 48 { s with waiting := rest }) = nextHandle s :=
  nextHandle_congr ((refill_keeps 48 { s with waiting := rest }).stands .hub) ((refill_keeps 48 { s with waiting := rest }).stands .claims)

theorem takeWaiting_of_cal {w : Waiting} {i k : Nat} (hwhy : w.why = .cal i k) (rest : List Waiting) (s : State) :
    takeWaiting w rest s = (nextHandle s, claimHeld w rest false s) := by
  rw [takeWaiting, hwhy, ← nextHandle_refill rest s]
  rfl

theorem takeWaiting_of_command {w : Waiting} {p : Pkt} (hwhy : w.why = .command p) (hop : p.op = 0x0900) (rest : List Waiting) (s : State) :
    takeWaiting w rest s = (nextHandle s, claimHeld w rest true s) := by
  rw [takeWaiting, hwhy, ← nextHandle_refill rest s]
  dsimp only
  rw [hop]
  rfl

theorem claimHeld_claims (w : Waiting) (rest : List Waiting) (byClaim : Bool) (s : State) :
    (claimHeld w rest byClaim s).claims = s.claims ++ [⟨nextHandle s, w.kind, w.res, w.pair, w.src, byClaim⟩] := by
  have hclaims : (refill 48 { s with waiting := rest }).claims = s.claims := (refill_keeps 48 { s with waiting := rest }).stands .claims
  have hwoken : (claimHeld w rest byClaim s).claims = _ := (grantWake_keeps ..).stands .claims
  rw [hwoken, takeClaim_claims, hclaims, nextHandle_refill]

theorem claimHeld_now (w : Waiting) (rest : List Waiting) (byClaim : Bool) (s : State) : (claimHeld w rest byClaim s).now = s.now := by
  rw [claimHeld, (grantWake_keeps ..).now, takeClaim_now, (refill_keeps ..).now]

theorem claimHeld_grants (w : Waiting) (rest : List Waiting) (byClaim : Bool) (s : State) :
    (claimHeld w rest byClaim s).reg CNC_GRANTS = s.reg CNC_GRANTS + 1 := by
  have hregs : (refill 48 { s with waiting := rest }).regs = s.regs := (refill_keeps 48 { s with waiting := rest }).stands .regs
  have hwoken := quiet_grantWake (kind := w.kind) (pair := w.pair) (quiet_refl (List.Subset.refl standingRegs)
    (takeClaim w.src w.kind w.res w.pair byClaim (refill 48 { s with waiting := rest })).2)
  rw [claimHeld, hwoken.regs _ (by decide), takeClaim, showClaims, State.reg_setFld_other _ _ _ _ (by decide),
    State.reg_setFld_other _ _ _ _ (by decide), State.reg_setFld_other _ _ _ _ (by decide), State.reg_inc_same, State.modHub_reg]
  exact congrArg (· + 1) (State.reg_congr _ _ hregs _)

/-! ### What the command does with it (R402, R431) -/

/-- A CNC_CLAIM under its claim is answered with the handle. -/
theorem goOn_answers {fails : List Nat} {p : Pkt} {h : Nat} {s : State} (hop : p.op = 0x0900) (hheld : s.claims.any (fun x => x.handle == h) = true) :
    goOn fails p h s = finalReply p 0 (bytesLsb 2 h) s := by
  have hlong : longOp p.op = false := by rw [hop]; rfl
  have hneeds : needs (grantRegs p) s = (0, s) := by
    rw [grantRegs, hop]
    rfl
  rw [goOn, hheld, hlong, hneeds]
  simp only [Bool.not_true, Bool.false_and, if_neg Bool.false_ne_true, beginGranted, hop]
  rfl

theorem execClaimGrant_goes_on {fails : List Nat} {p : Pkt} {h : Nat} {gs : List (Pkt × Nat)} {s : State} (hhalted : halted s = false)
    (hgranted : s.granted = (p, h) :: gs) : exec (.claimGrant fails) s = .next (goOn fails p h { s with granted := gs }) := by
  show execClaimGrant fails s = _
  rw [execClaimGrant, hhalted, hgranted]

theorem execClaimGrant_grants {fails : List Nat} {w : Waiting} {rest : List Waiting} {s : State} (hscan : halted s = true ∨ s.granted = [])
    (hfirst : firstGrant s [] s.waiting = some (w, rest)) :
    exec (.claimGrant fails) s = .next (useGrant fails w (takeWaiting w rest s).1 (takeWaiting w rest s).2) := by
  show execClaimGrant fails s = _
  unfold execClaimGrant
  split
  next p h gs hhalted hgranted =>
    obtain hhalt | hnone := hscan
    · exact absurd (hhalted.symm.trans hhalt) Bool.false_ne_true
    · exact absurd (hgranted.symm.trans hnone) (List.cons_ne_nil _ _)
  next =>
    rw [hfirst]

theorem claimHeld_halted (w : Waiting) (rest : List Waiting) (byClaim : Bool) (s : State) : halted (claimHeld w rest byClaim s) = halted s := by
  have hregs : (refill 48 { s with waiting := rest }).regs = s.regs := (refill_keeps 48 { s with waiting := rest }).stands .regs
  have hwoken := quiet_grantWake (kind := w.kind) (pair := w.pair) (quiet_refl (List.Subset.refl standingRegs)
    (takeClaim w.src w.kind w.res w.pair byClaim (refill 48 { s with waiting := rest })).2)
  have hreg : (claimHeld w rest byClaim s).reg DBG_PORTER_STATUS = s.reg DBG_PORTER_STATUS := by
    rw [claimHeld, hwoken.regs _ (by decide), takeClaim, showClaims, State.reg_setFld_other _ _ _ _ (by decide),
      State.reg_setFld_other _ _ _ _ (by decide), State.reg_setFld_other _ _ _ _ (by decide), State.reg_inc_other _ _ _ (by decide), State.modHub_reg]
    exact State.reg_congr _ _ hregs _
  exact State.flag_eq_of_reg_eq hreg

/-- Settles O59, clause by clause. -/
theorem claimGrantsGoOn : Obligations.ClaimGrantsGoOn := by
  refine ⟨fun fails p h gs s hhalted hgranted hop hreply hheld => ⟨_, execClaimGrant_goes_on hhalted hgranted, ?_⟩,
    fun fails w rest i k s hscan hfirst hwhy => ⟨_, execClaimGrant_grants hscan hfirst, ?_⟩,
    fun fails w rest p s hhalted hnone hfirst hwhy hop hreply => ⟨_, execClaimGrant_grants (.inr hnone) hfirst, ?_⟩⟩
  · rw [goOn_answers (s := { s with granted := gs }) hop hheld]
    exact ⟨(finalReply_keeps p 0 (bytesLsb 2 h) { s with granted := gs }).stands .granted, finalReply_retained hreply ..⟩
  · rw [takeWaiting_of_cal hwhy, useGrant, hwhy]
    exact ⟨claimHeld_claims .., claimHeld_grants ..⟩
  · have hheld : (claimHeld w rest true s).claims.any (fun x => x.handle == nextHandle s) = true := by
      rw [claimHeld_claims]
      simp
    rw [takeWaiting_of_command hwhy hop, useGrant, hwhy]
    dsimp only
    rw [claimHeld_halted, hhalted, if_neg Bool.false_ne_true, goOn_answers hop hheld, finalReply_retained hreply, claimHeld_now]
    exact ⟨Eq.trans ((finalReply_keeps ..).stands .claims) (claimHeld_claims ..), rfl⟩

end Sys2Proof.Claims
end

section
/-! SUPPORT. Calibration runs: what beginning and ending one leave of the runs, the counts and the item-target (R482 to R496). -/
-- the whole text is compiled at once: its threads share one memory limit
set_option Elab.async false
namespace Sys2Proof.Claims
open Sys2Proof Sys2Proof.Machine

/-! ### The beginning of a run -/

theorem markStale_keeps (item target : Nat) (s : State) : Keeps (Within [.regs, .pairs, .cals]) s (markStale item target s) :=
  keeps_within _ fun _ _ => keeps_markStale (keeps_refl _ s)

theorem markStale_stales (item target : Nat) (s : State) : ((markStale item target s).cal item target).stale = true := by
  unfold markStale
  extract_lets s1 s2
  have hstale : (s2.cal item target).stale = true := by rw [State.cal_modCal]
  split
  · rw [State.setFld_cal, hstale]
  · split
    · split
      · rw [State.setFld_cal, hstale]
      · rw [State.setFld_cal, hstale]
    · exact hstale

theorem checkReference_ok {item : Nat} {ref : RefMeas} (href : item = 3 ∨ (if item = 4 then ref.rcal.natAbs ≤ 500 else ref.vref.natAbs ≤ 200))
    (s : State) : (checkReference item ref s).1 = true := by
  unfold checkReference
  by_cases h3 : item = 3
  · rw [if_pos h3]
  · rw [if_neg h3]
    have hin := href.resolve_left h3
    by_cases h4 : item = 4
    · rw [if_pos h4] at hin
      simp only [if_pos h4, if_pos hin]
    · rw [if_neg h4] at hin
      simp only [if_neg h4, if_pos hin]

/-- A run whose reference is in order is in progress, and its outputs are stale. -/
theorem beginCalRun_begins {item target : Nat} {ref : RefMeas}
    (href : item = 3 ∨ (if item = 4 then ref.rcal.natAbs ≤ 500 else ref.vref.natAbs ≤ 200)) (h : Nat) (s : State) :
    (beginCalRun item target ref h s).calRuns = s.calRuns ++ [⟨item, target, h, s.flag CAL_CFG.VERIFY⟩] ∧
      ((beginCalRun item target ref h s).cal item target).stale = true ∧ (beginCalRun item target ref h s).claims = s.claims := by
  unfold beginCalRun
  extract_lets r s1 s2
  have hstale : (s1.cal item target).stale = true := markStale_stales ..
  have hs1 : Keeps (Within [.regs, .pairs, .cals]) { s with calRuns := s.calRuns ++ [r] } s1 := markStale_keeps ..
  have hs2 : Keeps (Within [.regs]) s1 s2 := keeps_within _ fun _ _ => keeps_showRefBusy (keeps_showCalBusy (keeps_refl _ s1))
  have hs3 : Keeps (Within [.regs, .hub, .raised]) s2 (checkReference item ref s2).2 := keeps_within _ fun _ _ => keeps_checkReference (keeps_refl _ s2)
  have hok := checkReference_ok href s2
  generalize checkReference item ref s2 = x at hs3 hok
  obtain ⟨ok, s3⟩ := x
  dsimp only at hs3 hok
  subst hok
  have hs4 : Keeps (Within [.regs]) s3 (showRefWait s3) := keeps_within _ fun _ _ => keeps_showRefWait (keeps_refl _ s3)
  dsimp only
  rw [if_pos rfl]
  refine ⟨?_, ?_, ?_⟩
  · exact Eq.trans (hs4.stands .calRuns) (Eq.trans (hs3.stands .calRuns) (Eq.trans (hs2.stands .calRuns) (hs1.stands .calRuns)))
  · have hcals : (showRefWait s3).cals = s1.cals := Eq.trans (hs4.stands .cals) (Eq.trans (hs3.stands .cals) (hs2.stands .cals))
    rw [State.cal_congr hcals, hstale]
  · exact Eq.trans (hs4.stands .claims) (Eq.trans (hs3.stands .claims) (Eq.trans (hs2.stands .claims) (hs1.stands .claims)))

/-! ### The end of a run (R485, R495, R496) -/

section
variable {A : List Nat} {r s : State}

theorem off_hubTemp (i : Nat) : CAL_HUB_TEMP (i % 4) ∉ standingRegs := by
  have hall : ∀ i : Fin 4, CAL_HUB_TEMP i ∉ standingRegs := by decide
  exact hall ⟨i % 4, by omega⟩

theorem quiet_clearStale {item target : Nat} (h : Quiet A r s) : Quiet A r (clearStale item target s) := by
  unfold clearStale
  extract_lets s1 s2
  have hs2 : Quiet A r s2 := quiet_keeps [.cals] (quiet_forEach _ h fun _ _ => quiet_modPair) fun _ _ => keeps_modCal (keeps_refl _ s1)
  exact quiet_ite (quiet_setFld hs2) (quiet_ite (quiet_ite (quiet_setFld hs2) (quiet_setFld hs2 (off_hubTemp target))) hs2)

theorem quiet_showCalBusy {die : Nat} (h : Quiet A r s) : Quiet A r (showCalBusy die s) := by
  refine quiet_ite ?_ (quiet_setFld h (by decide))
  split
  · exact quiet_setFld (quiet_setFld (quiet_setFld h))
  · exact quiet_setFld h

theorem quiet_showRefWait (h : Quiet A r s) : Quiet A r (showRefWait s) := quiet_forEach _ h fun _ _ ht => quiet_ite ht (quiet_setFld ht)

theorem quiet_answerAsked {item target : Nat} {pass : Bool} (h : Quiet A r s) : Quiet A r (answerAsked item target pass s) :=
  quiet_forEach _ (quiet_keeps [.cals] h fun _ _ => keeps_modCal (keeps_refl _ s)) fun _ _ => quiet_finishJob

theorem quiet_closeRun {x : CalRun} {pass : Bool} (h : Quiet A r s) : Quiet A r (closeRun x pass s) :=
  quiet_setFld (quiet_showCalBusy (quiet_clearStale (quiet_releaseTaken (quiet_answerAsked
    (quiet_keeps [.calRuns] h fun _ _ => keeps_upd_calRuns (keeps_refl _ s)))))) (by decide)

end

/-- The jobs that asked are answered, and are asked for no more. -/
theorem answerAsked_cal (item target : Nat) (pass : Bool) (s : State) :
    (answerAsked item target pass s).cal item target = { s.cal item target with asked := [] } := by
  have hjobs : Keeps (Within [.regs, .completions, .claims, .waiting, .later]) (s.modCal item target (fun c => { c with asked := [] }))
      (answerAsked item target pass s) :=
    keeps_within _ fun _ _ => keeps_forEach _ _ (keeps_refl _ _) fun _ _ => keeps_finishJob
  rw [State.cal_congr (hjobs.stands .cals), State.cal_modCal]

theorem clearStale_cal (item target : Nat) (s : State) : (clearStale item target s).cal item target = { s.cal item target with stale := false } := by
  unfold clearStale
  extract_lets s1 s2
  have hs1 : Keeps (Within [.pairs]) s s1 := keeps_within _ fun _ _ => keeps_forEach _ _ (keeps_refl _ s) fun _ _ => keeps_modPair
  have hcal : s2.cal item target = { s.cal item target with stale := false } := by
    rw [State.cal_modCal, State.cal_congr (hs1.stands .cals)]
  split
  · rw [State.setFld_cal, hcal]
  · split
    · split
      · rw [State.setFld_cal, hcal]
      · rw [State.setFld_cal, hcal]
    · exact hcal

/-- A run that ends is in progress no more, and leaves its item-target as it is but for STALE and the jobs that asked. -/
theorem closeRun_ends (r : CalRun) (pass : Bool) (s : State) : (closeRun r pass s).calRuns = s.calRuns.filter (· != r) ∧
    (closeRun r pass s).cal r.item r.target = { s.cal r.item r.target with asked := [], stale := false } := by
  unfold closeRun
  extract_lets s1 s2
  have hasked : (answerAsked r.item r.target pass s1).calRuns = s1.calRuns :=
    leaves [.regs, .completions, .claims, .waiting, .later, .cals] .calRuns fun _ _ => keeps_answerAsked (keeps_refl _ s1)
  have hs2 : Keeps (Within [.regs, .claims, .waiting, .later]) (answerAsked r.item r.target pass s1) s2 :=
    keeps_within _ fun _ _ => keeps_releaseTaken (keeps_refl _ _)
  have hclear : Keeps (Within [.regs, .pairs, .cals]) s2 (clearStale r.item r.target s2) := keeps_within _ fun _ _ => keeps_clearStale (keeps_refl _ s2)
  have hshown : Keeps (Within [.regs]) (clearStale r.item r.target s2)
      (showRefBusy (showCalBusy (servingSensor r.item r.target).1 (clearStale r.item r.target s2))) :=
    keeps_within _ fun _ _ => keeps_showRefBusy (keeps_showCalBusy (keeps_refl _ _))
  refine ⟨?_, ?_⟩
  · exact Eq.trans (hshown.stands .calRuns) (Eq.trans (hclear.stands .calRuns) (Eq.trans (hs2.stands .calRuns) hasked))
  · rw [State.cal_congr (hshown.stands .cals), clearStale_cal, State.cal_congr (hs2.stands .cals), answerAsked_cal]
    rfl

theorem notMem_filter_bne (r : CalRun) (rs : List CalRun) : r ∉ rs.filter (· != r) := by simp

/-- A rejected run is counted as one and as a failure, and its cause is kept. -/
theorem rejectRun_ends (r : CalRun) (cause : Nat) (dev : Int) (retry : Bool) (s : State) :
    r ∉ (rejectRun r cause dev retry s).calRuns ∧ (rejectRun r cause dev retry s).reg CAL_RUNS = s.reg CAL_RUNS + 1 ∧
      (rejectRun r cause dev retry s).reg CAL_FAILS = s.reg CAL_FAILS + 1 ∧
      ((rejectRun r cause dev retry s).cal r.item r.target).count = (s.cal r.item r.target).count + 1 ∧
      ((rejectRun r cause dev retry s).cal r.item r.target).cause = cause ∧ ((rejectRun r cause dev retry s).cal r.item r.target).lastFail = true := by
  unfold rejectRun
  extract_lets c again s1 s2 s3
  obtain ⟨hruns, hcal⟩ := closeRun_ends r false s3
  have hquiet := quiet_closeRun (x := r) (pass := false) (quiet_refl (List.Subset.refl standingRegs) s3)
  have hs3 : Keeps (Within [.raised]) s2 s3 := by
    refine keeps_within _ fun _ _ => ?_
    exact keeps_ite (keeps_refl _ s2) (keeps_raise (keeps_refl _ s2))
  have hs2 : Keeps (Within [.regs, .raised]) s1 s2 := keeps_within _ fun _ _ => keeps_raise (keeps_intBit (keeps_inc (keeps_inc (keeps_refl _ s1))))
  have hcals : s3.cals = s1.cals := Eq.trans (hs3.stands .cals) (hs2.stands .cals)
  have hregs : s3.regs = s2.regs := hs3.stands .regs
  refine ⟨?_, ?_, ?_, ?_⟩
  · rw [hruns]
    exact notMem_filter_bne _ _
  · rw [hquiet.regs _ (by decide), State.reg_congr _ _ hregs, State.raise_reg, State.intBit, State.reg_setFld_other _ _ _ _ (by decide),
      State.reg_inc_other _ _ _ (by decide), State.reg_inc_same, State.modCal_reg]
  · rw [hquiet.regs _ (by decide), State.reg_congr _ _ hregs, State.raise_reg, State.intBit, State.reg_setFld_other _ _ _ _ (by decide),
      State.reg_inc_same, State.reg_inc_other _ _ _ (by decide), State.modCal_reg]
  · rw [hcal, State.cal_congr hcals, State.cal_modCal]
    exact ⟨rfl, rfl, rfl⟩

theorem acceptRun_ends (r : CalRun) (t : Int) (d : List Rat) (dev : Int) (s : State) :
    r ∉ (acceptRun r t d dev s).calRuns ∧ (acceptRun r t d dev s).reg CAL_RUNS = s.reg CAL_RUNS + 1 ∧
      ((acceptRun r t d dev s).cal r.item r.target).count = (s.cal r.item r.target).count + 1 := by
  unfold acceptRun
  extract_lets vs s1
  obtain ⟨hruns, hcal⟩ := closeRun_ends r true (s1.inc CAL_RUNS)
  have hquiet := quiet_closeRun (x := r) (pass := true) (quiet_refl (List.Subset.refl standingRegs) (s1.inc CAL_RUNS))
  refine ⟨?_, ?_, ?_⟩
  · rw [hruns]
    exact notMem_filter_bne _ _
  · rw [hquiet.regs _ (by decide), State.reg_inc_same, State.modCal_reg]
  · rw [hcal, State.inc_cal, State.cal_modCal]

end Sys2Proof.Claims
end

section
/-! PROOF. Calibration runs, one clause of the statement after the other (O57). -/
-- the whole text is compiled at once: its threads share one memory limit
set_option Elab.async false
namespace Sys2Proof.Claims
open Sys2Proof Sys2Proof.Machine

section
variable {item target : Nat} {ref : RefMeas} {s : State} (hvalid : calValid item target = true) (hqual : s.flag CLK_STATUS.REF_QUAL = true)
  (hfree : s.calRuns.any (fun r => (servingSensor r.item r.target).1 == (servingSensor item target).1) = false)
  (hnext : nextRun s (servingSensor item target).1 = some (item, target))

include hvalid hqual hfree hnext

theorem execCalRunStart_held {k : Claim} (hclaim : calClaim s item target = some k) :
    exec (.calRunStart item target ref) s = .next (beginCalRun item target ref k.handle s) := by
  show execCalRunStart item target ref s = _
  rw [execCalRunStart, if_neg (by simp [hvalid, hqual, hfree, hnext]), hclaim]

theorem execCalRunStart_takes (hclaim : calClaim s item target = none) (hgrant : grantable s 2 (calRes item target) = true) :
    exec (.calRunStart item target ref) s = .next (beginCalRun item target ref (nextHandle s)
      (takeClaim 0xFF 2 (calRes item target) (claimPair s 2 (calRes item target)) false s).2) := by
  show execCalRunStart item target ref s = _
  rw [execCalRunStart, if_neg (by simp [hvalid, hqual, hfree, hnext]), hclaim]
  dsimp only
  rw [if_pos hgrant]
  rfl

end

theorem takeClaim_verify (src kind res : Nat) (pair : Option Nat) (byClaim : Bool) (s : State) :
    (takeClaim src kind res pair byClaim s).2.flag CAL_CFG.VERIFY = s.flag CAL_CFG.VERIFY := by
  refine State.flag_eq_of_reg_eq (f := CAL_CFG.VERIFY) ?_
  rw [takeClaim, showClaims, State.reg_setFld_other _ _ _ _ (by decide), State.reg_setFld_other _ _ _ _ (by decide),
    State.reg_setFld_other _ _ _ _ (by decide), State.reg_inc_other _ _ _ (by decide), State.modHub_reg]
  rfl

theorem showRefWait_keeps (s : State) : Keeps (Within [.regs]) s (showRefWait s) := keeps_within _ fun _ _ => keeps_showRefWait (keeps_refl _ s)

theorem reg_showRefWait {a : Nat} (s : State) (ha : a ∈ standingRegs) : (showRefWait s).reg a = s.reg a :=
  (quiet_showRefWait (quiet_refl (List.Subset.refl standingRegs) s)).regs a ha

/-- A sub-ADC that fails at the end of a run says nothing of runs. -/
theorem failSubAdc_keeps_runs (n : Port) (p : Pair) (i : Nat) (s : State) : (failSubAdc n p i s).calRuns = s.calRuns ∧
    (failSubAdc n p i s).cals = s.cals ∧ (failSubAdc n p i s).reg CAL_RUNS = s.reg CAL_RUNS := by
  have hkeeps := keeps_within (s := s) (t := failSubAdc n p i s) [.free, .regs, .ports, .pairs, .links, .queues, .banks, .tiles, .diags, .completions,
    .claims, .waiting, .later, .tests, .raised] fun _ _ => keeps_failSubAdc (keeps_refl _ s)
  exact ⟨hkeeps.stands .calRuns, hkeeps.stands .cals, (quiet_failSubAdc (quiet_refl (List.Subset.refl standingRegs) s)).regs _ (by decide)⟩

/-- What a run that ends leaves. -/
def RunEnds (r : CalRun) (s t : State) : Prop :=
  r ∉ t.calRuns ∧ t.reg CAL_RUNS = s.reg CAL_RUNS + 1 ∧ (t.cal r.item r.target).count = (s.cal r.item r.target).count + 1

theorem runEnds_showRefWait {r : CalRun} {s t : State} (h : RunEnds r s t) : RunEnds r s (showRefWait t) := by
  obtain ⟨hruns, hreg, hcount⟩ := h
  have hstill : (showRefWait t).calRuns = t.calRuns := (showRefWait_keeps t).stands .calRuns
  refine ⟨by rw [hstill]; exact hruns, by rw [reg_showRefWait _ (by decide), hreg], ?_⟩
  rw [State.cal_congr ((showRefWait_keeps t).stands .cals), hcount]

theorem runEnds_failSubAdc {r : CalRun} {s t : State} (h : RunEnds r s t) (n : Port) (p : Pair) (i : Nat) : RunEnds r s (failSubAdc n p i t) := by
  obtain ⟨hruns, hreg, hcount⟩ := h
  obtain ⟨hstill, hcals, hsame⟩ := failSubAdc_keeps_runs n p i t
  exact ⟨by rw [hstill]; exact hruns, by rw [hsame, hreg], by rw [State.cal_congr hcals, hcount]⟩

theorem runEnds_accept (r : CalRun) (t : Int) (d : List Rat) (dev : Int) (s : State) : RunEnds r s (acceptRun r t d dev s) := acceptRun_ends ..

theorem runEnds_reject (r : CalRun) (cause : Nat) (dev : Int) (retry : Bool) (s : State) : RunEnds r s (rejectRun r cause dev retry s) := by
  obtain ⟨hruns, hreg, -, hcount, -, -⟩ := rejectRun_ends r cause dev retry s
  exact ⟨hruns, hreg, hcount⟩

theorem run_named {item target : Nat} {r : CalRun} {s : State} (hfind : s.calRuns.find? (fun r => r.item == item && r.target == target) = some r) :
    r.item = item ∧ r.target = target := by
  simpa using List.find?_some hfind

theorem execCalRunDone_ends {item target : Nat} {r : CalRun} {s : State} (m : CalMeas)
    (hfind : s.calRuns.find? (fun r => r.item == item && r.target == target) = some r) (hholds : item = 3 ∨ refHolder s = some r) :
    ∃ t : State, exec (.calRunDone item target m) s = .next t ∧ RunEnds r s t := by
  show ∃ t : State, execCalRunDone item target m s = .next t ∧ _
  have hgo : ¬(item ≠ 3 ∧ refHolder s ≠ some r) := by
    rintro ⟨h3, hother⟩
    exact hother (hholds.resolve_left h3)
  rw [execCalRunDone, hfind]
  dsimp only
  rw [if_neg hgo]
  split
  · exact ⟨_, rfl, runEnds_showRefWait (runEnds_accept ..)⟩
  · refine ⟨_, rfl, runEnds_showRefWait ?_⟩
    split
    · exact runEnds_failSubAdc (runEnds_reject ..) _ _ _
    · exact runEnds_reject ..

theorem execCalRunTimeout_ends {item target : Nat} {r : CalRun} {s : State}
    (hfind : s.calRuns.find? (fun r => r.item == item && r.target == target) = some r) :
    exec (.calRunTimeout item target) s = .next (showRefWait (rejectRun r 5 0 true s)) := by
  show execCalRunTimeout item target s = _
  rw [execCalRunTimeout, hfind]

theorem abortAsked_asked (item target : Nat) (s : State) : ((abortAsked item target s).cal item target).asked = [] := by
  have hjobs : Keeps (Within [.regs, .completions, .claims, .waiting, .later]) (s.modCal item target (fun c => { c with asked := [] }))
      (abortAsked item target s) := keeps_within _ fun _ _ => keeps_forEach _ _ (keeps_refl _ _) fun _ _ => keeps_finishJob
  rw [State.cal_congr (hjobs.stands .cals), State.cal_modCal]

/-! ### The tick of the trims (R484) -/

theorem reg_countDeferrals_other {a : Nat} (s : State) (ha : a ≠ CAL_DEFERRALS) : (countDeferrals s).reg a = s.reg a := by
  refine forEach_of_step (P := fun t => t.reg a = s.reg a) (fun g t ht => ?_) _ rfl
  split
  · refine forEach_of_step (P := fun t => t.reg a = s.reg a) (fun i u hu => ?_) _ ht
    split
    · rw [State.reg_inc_other _ _ _ ha, State.modCal_reg, hu]
    · exact hu
  · refine forEach_of_step (P := fun t => t.reg a = s.reg a) (fun i u hu => ?_) _ ht
    split
    · rw [State.modCal_reg, hu]
    · exact hu

theorem tileTemp_ne (die i : Nat) : TILE_TEMP die i ≠ CAL_DEFERRALS := by
  have hlow : CAL_DEFERRALS < 0x10000000 := by decide
  simp only [TILE_TEMP, tileBase]
  omega

theorem execTrimTrackTick_shows {die i : Nat} (x : Int) {s : State} (hdie : die < 8) (hi : i < 4) (hfresh : s.flag (TILE_TEMP.STALE die i) = false)
    (hon : (s.dom (0x020 + die)).state = 3) :
    ∃ t : State, exec (.trimTrackTick [(4 * die + i, x)]) s = .next t ∧ t.fld (TILE_TEMP.TEMP die i) = unsigned 16 x := by
  show ∃ t : State, execTrimTrackTick [(4 * die + i, x)] s = .next t ∧ _
  unfold execTrimTrackTick
  extract_lets s1 s2
  have hs1 : s1 = s.setFld (TILE_TEMP.TEMP die i) (unsigned 16 x) := by
    have hdiv : (4 * die + i) / 4 = die := by omega
    have hmod : (4 * die + i) % 4 = i := by omega
    simp only [s1, forEach, List.foldl_cons, List.foldl_nil, hdiv, hmod, if_pos hdie, hfresh, hon]
    rfl
  have hs2 : Keeps (Within [.free, .cals]) s1 s2 := by
    refine keeps_within _ fun _ _ => keeps_forEach _ _ (keeps_refl _ s1) fun y t ht => ?_
    exact keeps_ite ht (keeps_ite (keeps_setTrims ht) (keeps_ite (keeps_estimateTrims ht) (keeps_modCal ht)))
  have hregs : s2.regs = s1.regs := hs2.stands .regs
  refine ⟨_, rfl, ?_⟩
  rw [State.fld_eq_of_reg_eq (f := TILE_TEMP.TEMP die i) ((reg_countDeferrals_other s2 (tileTemp_ne die i)).trans (State.reg_congr _ _ hregs _)), hs1,
    State.fld_setFld_same _ _ _ (Nat.zero_le _) (by show 15 < 32; decide)]
  exact Nat.mod_eq_of_lt (unsigned_lt 16 x)

/-- Settles O57, clause by clause. -/
theorem calibrationRunsAndTrims : Obligations.CalibrationRunsAndTrims := by
  refine ⟨fun item target ref k s hvalid hqual hfree hnext hclaim href => ⟨_, execCalRunStart_held hvalid hqual hfree hnext hclaim, ?_⟩,
    fun item target ref s hvalid hqual hfree hnext hclaim hgrant href => ⟨_, execCalRunStart_takes hvalid hqual hfree hnext hclaim hgrant, ?_⟩,
    fun item target m r s hfind hholds => ?_, fun item target r s hfind => ⟨_, execCalRunTimeout_ends hfind, ?_⟩,
    fun item target s hwaits => ⟨_, if_neg (not_not_intro hwaits), by rw [State.cal_modCal], State.modCal_regs ..⟩,
    fun item target s hasked hidle => ⟨_, if_neg (by simp [hasked, hidle]), abortAsked_asked ..⟩,
    fun die i x s hdie hi hfresh hon => execTrimTrackTick_shows x hdie hi hfresh hon⟩
  · obtain ⟨hruns, hstale, -⟩ := beginCalRun_begins (target := target) href k.handle s
    exact ⟨hruns, hstale⟩
  · obtain ⟨hruns, hstale, hclaims⟩ := beginCalRun_begins (target := target) href (nextHandle s)
      (takeClaim 0xFF 2 (calRes item target) (claimPair s 2 (calRes item target)) false s).2
    have htaken : Keeps (Within [.regs, .claims, .hub]) s (takeClaim 0xFF 2 (calRes item target) (claimPair s 2 (calRes item target)) false s).2 :=
      keeps_within _ fun _ _ => keeps_takeClaim (keeps_refl _ s)
    have hbefore : _ = _ := htaken.stands .calRuns
    refine ⟨?_, hstale, hclaims.trans (takeClaim_claims ..)⟩
    rw [hruns, hbefore, takeClaim_verify]
  · obtain ⟨t, hexec, hruns, hreg, hcount⟩ := execCalRunDone_ends m hfind hholds
    obtain ⟨hitem, htarget⟩ := run_named hfind
    rw [hitem, htarget] at hcount
    exact ⟨t, hexec, hruns, hreg, hcount⟩
  · obtain ⟨hruns, hreg, hfails, -, hcause, hlast⟩ := rejectRun_ends r 5 0 true s
    obtain ⟨hitem, htarget⟩ := run_named hfind
    have hstill : (showRefWait (rejectRun r 5 0 true s)).calRuns = (rejectRun r 5 0 true s).calRuns := (showRefWait_keeps _).stands .calRuns
    rw [hitem, htarget] at hcause hlast
    rw [hstill, reg_showRefWait _ (by decide), reg_showRefWait _ (by decide), State.cal_congr ((showRefWait_keeps _).stands .cals)]
    exact ⟨hruns, hreg, hfails, hcause, hlast⟩

end Sys2Proof.Claims
end

section
/-! SUPPORT. What a reset of device scope keeps and what it leaves (R375, R376). -/
-- the whole text is compiled at once: its threads share one memory limit
set_option Elab.async false
namespace Sys2Proof.Claims
open Sys2Proof Sys2Proof.Machine

/-! ### DEVICE_RESET and the supply reset -/

theorem deviceReset_clears (cause : Nat) (s : State) : (deviceReset cause s).hub.resetting = true ∧ (deviceReset cause s).hub.resetDue = false ∧
    (deviceReset cause s).hub.watchdogLimit = s.hub.watchdogLimit ∧ (deviceReset cause s).queued = [] ∧ (deviceReset cause s).running = [] ∧
    (deviceReset cause s).mram = s.mram := by
  unfold deviceReset
  extract_lets supply s1 clk mr h fresh freshHub t t1 t2 t3
  have hs1 : Keeps (Within [.raised]) s s1 := keeps_within _ fun _ _ => keeps_forEach _ _ (keeps_refl _ s) fun _ _ => keeps_raise
  have hhub : s1.hub = s.hub := hs1.stands .hub
  have hmram : s1.mram = s.mram := hs1.stands .mram
  have hlimit : s1.hub.watchdogLimit = s.hub.watchdogLimit := by rw [hhub]
  have ht : t.hub.resetting = true ∧ t.hub.resetDue = false ∧ t.hub.watchdogLimit = s.hub.watchdogLimit ∧ t.queued = [] ∧ t.running = [] ∧
      t.mram = s.mram := ⟨rfl, rfl, hlimit, rfl, rfl, hmram⟩
  simp only [State.inc_hub, State.setFld_hub, State.setReg_hub, State.inc_queued, State.setFld_queued, State.setReg_queued, State.inc_running,
    State.setFld_running, State.setReg_running, State.inc_mram, State.setFld_mram, State.setReg_mram, t3, t2, t1]
  exact ht

theorem deviceReset_shows_cause {cause : Nat} (hcause : cause < 256) (s : State) : (deviceReset cause s).fld PWR_RESET_CAUSE.CAUSE = cause := by
  unfold deviceReset
  extract_lets supply s1 clk mr h fresh freshHub t t1 t2 t3
  rw [State.fld_eq_of_reg_eq (f := PWR_RESET_CAUSE.CAUSE) (State.reg_inc_other _ _ _ (by decide)),
    State.fld_setFld_apart _ _ _ _ (by decide) (by decide) (by decide), State.fld_setFld_same _ _ _ (by decide) (by decide)]
  exact Nat.mod_eq_of_lt hcause

theorem deviceReset_shows_rails (s : State) : (deviceReset 3 s).fld PWR_RESET_CAUSE.RAIL = s.hub.railsLost % 64 := by
  unfold deviceReset
  extract_lets supply s1 clk mr h fresh freshHub t t1 t2 t3
  have hhub : s1.hub = s.hub :=
    leaves [.raised] .hub fun _ _ => keeps_forEach _ _ (keeps_refl _ s) fun _ _ => keeps_raise
  rw [State.fld_eq_of_reg_eq (f := PWR_RESET_CAUSE.RAIL) (State.reg_inc_other _ _ _ (by decide)),
    State.fld_setFld_same _ _ _ (by decide) (by decide)]
  have hsupply : (if supply then h.railsLost % 64 else 0) = s.hub.railsLost % 64 := by
    rw [if_pos (show supply = true from rfl)]
    exact congrArg (HubSt.railsLost · % 64) hhub
  rw [hsupply]
  exact Nat.mod_mod _ _

/-- The registers of the AON domain outlast the reset, but for the two that it writes. -/
theorem reg_deviceReset {a : Nat} (haon : aonRegs.contains a = true) (cause : Nat) (s : State) :
    (deviceReset cause s).reg a = if a = PWR_DEVICE_RESETS then s.reg a + 1 else
      if a = PWR_RESET_CAUSE then (deviceReset cause s).reg PWR_RESET_CAUSE else s.reg a := by
  by_cases hcause : a = PWR_RESET_CAUSE
  · rw [if_pos hcause, if_neg (by rw [hcause]; decide), hcause]
  rw [if_neg hcause]
  unfold deviceReset
  extract_lets supply s1 clk mr h fresh freshHub t t1 t2 t3
  have hregs : s1.regs = s.regs :=
    leaves [.raised] .regs fun _ _ => keeps_forEach _ _ (keeps_refl _ s) fun _ _ => keeps_raise
  have hshown : CLK_STATUS ∉ aonRegs ∧ MR_STATUS ∉ aonRegs ∧ DBG_DAP_STATUS ∉ aonRegs := by decide
  obtain ⟨hclk, hmr, hdap⟩ := hshown
  have hin : a ∈ aonRegs := List.contains_iff_mem.1 haon
  have ht3 : t3.reg a = s.reg a := by
    have hfiltered : t.reg a = s1.reg a := SMap.get_filter (q := fun x : Nat × Word => aonRegs.contains x.1 || (!supply && isGbReg x.1)) _
      (fun v => by simp only [haon, Bool.true_or]) s1.regs
    rw [State.reg_setFld_other _ _ _ _ (fun e : a = DBG_DAP_STATUS => hdap (e ▸ hin)), State.reg_setReg_other _ _ _ _ (fun e : a = MR_STATUS => hmr (e ▸ hin)),
      State.reg_setReg_other _ _ _ _ (fun e : a = CLK_STATUS => hclk (e ▸ hin)), hfiltered, State.reg_congr _ _ hregs]
  by_cases hcount : a = PWR_DEVICE_RESETS
  · subst hcount
    rw [if_pos rfl, State.reg_inc_same, State.reg_setFld_other _ _ _ _ (by decide), State.reg_setFld_other _ _ _ _ (by decide), ht3]
  · rw [if_neg hcount, State.reg_inc_other _ _ _ hcount, State.reg_setFld_other _ _ _ _ hcause, State.reg_setFld_other _ _ _ _ hcause, ht3]

/-! ### The cold reset -/

/-- A cold reset keeps MRAM, in which it counts the power cycle. -/
theorem coldReset_clears (cause : Nat) (s : State) : (coldReset cause s).hub.resetting = true ∧
    (coldReset cause s).mram = (putBytes 0x7A0004 (bytesLsb 2 (powerCycles s + 1)) s).mram ∧ (coldReset cause s).queued = [] ∧
    (coldReset cause s).running = [] ∧ (coldReset cause s).gbQueue = [] ∧ (coldReset cause s).claims = [] := by
  unfold coldReset
  extract_lets h fresh freshHub t t1 t2
  have hput : Keeps (Within [.mram]) t t1 := keeps_within _ fun _ _ => keeps_putBytes (keeps_refl _ t)
  have hhub : t1.hub = t.hub := hput.stands .hub
  have hqueued : t1.queued = t.queued := hput.stands .queued
  have hrunning : t1.running = t.running := hput.stands .running
  have hgb : t1.gbQueue = t.gbQueue := hput.stands .gbQueue
  have hclaims : t1.claims = t.claims := hput.stands .claims
  simp only [State.setFld_hub, State.setReg_hub, State.setFld_mram, State.setReg_mram, State.setFld_queued, State.setReg_queued,
    State.setFld_running, State.setReg_running, State.setFld_gbQueue, State.setReg_gbQueue, State.setFld_claims, State.setReg_claims, t2,
    hhub, hqueued, hrunning, hgb, hclaims]
  exact ⟨rfl, putBytes_mram_congr rfl _ _, rfl, rfl, rfl, rfl⟩

theorem coldReset_shows {cause : Nat} (hcause : cause < 256) (s : State) : (coldReset cause s).fld PWR_RESET_CAUSE.CAUSE = cause ∧
    (coldReset cause s).reg PWR_RAIL_STATUS = s.reg PWR_RAIL_STATUS := by
  unfold coldReset
  extract_lets h fresh freshHub t t1 t2
  refine ⟨?_, ?_⟩
  · rw [State.fld_setFld_same _ _ _ (by decide) (by decide)]
    exact Nat.mod_eq_of_lt hcause
  · rw [State.reg_setFld_other _ _ _ _ (by decide), State.reg_setReg_same]

theorem powerCycles_congr {s t : State} (h : t.mram = s.mram) : powerCycles t = powerCycles s := by
  rw [powerCycles, powerCycles, State.nvByte, State.nvByte, State.nvByte, State.nvByte, h]

/-! ### The beginning of the boot -/

theorem reg_sampleStrap_other {a : Nat} (ha : a ≠ MR_ID) (strap : Nat) (s : State) : (sampleStrap strap s).reg a = s.reg a := by
  unfold sampleStrap
  dsimp only
  split
  · rw [State.reg_setFld_other _ _ _ _ ha, State.reg_setFld_other _ _ _ _ ha, State.reg_setFld_other _ _ _ _ ha]
  · rw [State.reg_setFld_other _ _ _ _ ha, State.reg_setFld_other _ _ _ _ ha, State.reg_setFld_other _ _ _ _ ha]

theorem sampleStrap_strap (strap : Nat) (s : State) : (sampleStrap strap s).fld MR_ID.STRAP = strap % 64 := by
  unfold sampleStrap
  dsimp only
  split
  · rw [State.fld_setFld_apart _ _ _ _ (by decide) (by decide) (by decide), State.fld_setFld_apart _ _ _ _ (by decide) (by decide) (by decide),
      State.fld_setFld_same _ _ _ (by decide) (by decide)]
    exact Nat.mod_mod _ _
  · rw [State.fld_setFld_apart _ _ _ _ (by decide) (by decide) (by decide), State.fld_setFld_apart _ _ _ _ (by decide) (by decide) (by decide),
      State.fld_setFld_same _ _ _ (by decide) (by decide)]
    exact Nat.mod_mod _ _

@[simp] theorem sampleStrap_now (strap : Nat) (s : State) : (sampleStrap strap s).now = s.now := now_of_keeps fun F _ => keeps_sampleStrap (keeps_refl F s)

theorem beginBoot_begins (s : State) : (beginBoot s).hub.resetting = false ∧ (beginBoot s).hub.bootAt = s.now ∧ (beginBoot s).regs = s.regs :=
  ⟨rfl, rfl, rfl⟩

end Sys2Proof.Claims
end

section
/-! PROOF. Rails, resets and the boot, one clause of the statement after the other (O50). -/
-- the whole text is compiled at once: its threads share one memory limit
set_option Elab.async false
namespace Sys2Proof.Claims
open Sys2Proof Sys2Proof.Machine

/-! ### Rails (R362) -/

theorem rail_shown (r : Fin 7) (v : Nat) (s : State) : (s.setFld ⟨PWR_RAIL_STATUS, r, r⟩ v).fld ⟨PWR_RAIL_STATUS, r, r⟩ = v % 2 := by
  rw [State.fld_setFld_same _ _ _ (le_refl _) (by show r.val < 32; omega)]
  show v % 2 ^ (r.val + 1 - r.val) = _
  rw [Nat.add_sub_cancel_left, pow_one]

theorem resetCause_rail (r : Fin 7) (v : Nat) (s : State) : resetCause (s.setFld ⟨PWR_RAIL_STATUS, r, r⟩ v) = resetCause s :=
  State.fld_eq_of_reg_eq (f := PWR_RESET_CAUSE.CAUSE) (State.reg_setFld_other _ _ _ _ (by show PWR_RESET_CAUSE ≠ PWR_RAIL_STATUS; decide))

theorem execRailGood_shows {r : Fin 7} {strap : Nat} {s : State} (hbad : bit (s.fld PWR_RAIL_STATUS.GOOD) r = false) :
    ∃ t : State, exec (.railGood r strap) s = .next t ∧ t.fld ⟨PWR_RAIL_STATUS, r, r⟩ = 1 := by
  show ∃ t : State, execRailGood r strap s = .next t ∧ _
  rw [execRailGood, if_neg (by rw [hbad]; exact Bool.false_ne_true)]
  extract_lets s1
  have hs1 : s1.fld ⟨PWR_RAIL_STATUS, r, r⟩ = 1 := rail_shown r 1 s
  split
  · refine ⟨_, rfl, ?_⟩
    rw [beginBoot, State.modHub_fld]
    split
    · rw [State.fld_eq_of_reg_eq (f := ⟨PWR_RAIL_STATUS, r, r⟩) (reg_sampleStrap_other (by decide : PWR_RAIL_STATUS ≠ MR_ID) strap s1), hs1]
    · exact hs1
  · exact ⟨_, rfl, hs1⟩

theorem execRailGood_ends {r : Fin 7} {strap : Nat} {s : State} (hbad : bit (s.fld PWR_RAIL_STATUS.GOOD) r = false)
    (hgood : railsGood (s.setFld ⟨PWR_RAIL_STATUS, r, r⟩ 1) = true) (hreset : s.hub.resetting = true) (hcause : resetCause s = 1 ∨ resetCause s = 3) :
    ∃ t : State, exec (.railGood r strap) s = .next t ∧ t.hub.resetting = false ∧ t.hub.bootAt = s.now ∧
      (resetCause s = 1 → t.fld MR_ID.STRAP = strap % 64) := by
  show ∃ t : State, execRailGood r strap s = .next t ∧ _
  rw [execRailGood, if_neg (by rw [hbad]; exact Bool.false_ne_true)]
  dsimp only
  rw [if_pos (by simpa [resetCause_rail, hgood, hreset] using hcause), resetCause_rail]
  refine ⟨_, rfl, ?_, ?_, fun hpower => ?_⟩
  · rw [beginBoot, State.hub_modHub]
  · rw [beginBoot, State.hub_modHub]
    exact (onIte_same State.now (sampleStrap_now ..)).trans (State.setFld_now ..)
  · rw [beginBoot, State.modHub_fld, if_pos hpower]
    exact sampleStrap_strap ..

theorem execRailLost_cold {r : Fin 7} {s : State} (hgood : bit (s.fld PWR_RAIL_STATUS.GOOD) r = true) (haon : r.val = 6) :
    exec (.railLost r) s = .next (coldReset 1 (s.setFld ⟨PWR_RAIL_STATUS, r, r⟩ 0)) := by
  show execRailLost r s = _
  rw [execRailLost, if_neg (by rw [hgood]; exact Bool.false_ne_true)]
  exact if_pos haon

theorem execRailLost_supply {r : Fin 7} {s : State} (hgood : bit (s.fld PWR_RAIL_STATUS.GOOD) r = true) (hother : r.val ≠ 6)
    (hidle : s.hub.resetting = false) : exec (.railLost r) s =
      .next (deviceReset 3 ((s.setFld ⟨PWR_RAIL_STATUS, r, r⟩ 0).modHub (fun h => { h with railsLost := 2 ^ r.val }))) := by
  show execRailLost r s = _
  rw [execRailLost, if_neg (by rw [hgood]; exact Bool.false_ne_true)]
  dsimp only
  rw [if_neg hother, State.setFld_hub, hidle, Bool.false_and, Bool.false_and, if_neg Bool.false_ne_true, if_neg Bool.false_ne_true]

/-! ### RESET_N, DEVICE_RESET and the watchdog (R361, R379, R382) -/

theorem execResetNRelease_ends {strap : Nat} {s : State} (hreset : s.hub.resetting = true) (hcause : resetCause s = 2) (hgood : railsGood s = true) :
    exec (.resetNRelease strap) s = .next (beginBoot (sampleStrap strap s)) := by
  have hstill : railsGood (sampleStrap strap s) = true := by
    rw [railsGood, State.fld_eq_of_reg_eq (f := PWR_RAIL_STATUS.GOOD) (reg_sampleStrap_other (by decide) strap s)]
    exact hgood
  show execResetNRelease strap s = _
  rw [execResetNRelease, hreset, hcause]
  exact if_pos hstill

theorem execDeviceResetEnd_ends {s : State} (hreset : s.hub.resetting = true) (hcause : resetCause s = 4 ∨ resetCause s = 5) :
    exec .deviceResetEnd s = .next (beginBoot s) := by
  show execDeviceResetEnd s = _
  exact if_pos (by simpa [hreset] using hcause)

/-- The state in which a boot that fails is counted. -/
def bootFailed (s : State) : State :=
  ((s.setFld PWR_BOOT_FAILS.COUNT (min (s.fld PWR_BOOT_FAILS.COUNT + 1) 255)).raise 0x0002 1
    [s.fld PWR_PHASE.BOOT_STEP, min (s.fld PWR_BOOT_FAILS.COUNT + 1) 255]).modHub
    (fun h => { h with watchdogLimit := decide (3 ≤ min (s.fld PWR_BOOT_FAILS.COUNT + 1) 255) })

theorem execBootWatchdogExpire_resets {s : State} (hidle : s.hub.resetting = false) (hready : s.flag PWR_PHASE.READY = false)
    (hstep : s.fld PWR_PHASE.BOOT_STEP ≠ 0) : exec .bootWatchdogExpire s = .next (deviceReset 5 (bootFailed s)) := by
  show execBootWatchdogExpire s = _
  exact if_neg (by simp [hidle, hready, hstep])

theorem bootFailed_count (s : State) : (bootFailed s).fld PWR_BOOT_FAILS.COUNT = min (s.fld PWR_BOOT_FAILS.COUNT + 1) 255 := by
  rw [bootFailed, State.modHub_fld, State.raise_fld, State.fld_setFld_same _ _ _ (by decide) (by decide)]
  exact Nat.mod_eq_of_lt (Nat.lt_succ_of_le (Nat.min_le_right _ _))

/-! ### The steps of the boot (R380) -/

theorem nextStep_le {s : State} (hstep : s.fld PWR_PHASE.BOOT_STEP ≤ 8) : nextStep s ≤ 9 := by
  unfold nextStep
  dsimp only
  split
  · exact le_refl _
  · omega

theorem endPhase_lt (s : State) : endPhase s < 4 := by
  unfold endPhase
  split
  · decide
  · split
    · decide
    · decide
    · decide

/-- The last step sets READY and the phase, and the lines that begin leave them. -/
theorem bootReady_shows (s : State) : (bootReady s).fld PWR_PHASE.READY = 1 ∧ (bootReady s).fld PWR_PHASE.PHASE = endPhase s := by
  unfold bootReady
  extract_lets us bank s1 s2 s3 s4
  have hbegun := quiet_beginLine (quiet_refl (List.Subset.refl standingRegs) (askNotice 2 0 us s4))
  have hasked : (askNotice 2 0 us s4).regs = s4.regs := leaves [.hub] .regs fun _ _ => keeps_askNotice (keeps_refl _ s4)
  have hreg : (beginLine (askNotice 2 0 us s4)).reg PWR_PHASE = ((s.setFld PWR_PHASE.PHASE (endPhase s)).setFld PWR_PHASE.READY 1).reg PWR_PHASE := by
    rw [hbegun.regs _ (by decide), State.reg_congr _ _ hasked, State.raise_reg, State.modHub_reg, State.reg_setFld_other _ _ _ _ (by decide),
      State.reg_setFld_other _ _ _ _ (by decide), State.reg_setReg_other _ _ _ _ (by decide)]
  refine ⟨?_, ?_⟩
  · rw [State.fld_eq_of_reg_eq (f := PWR_PHASE.READY) hreg, State.fld_setFld_same _ _ _ (by decide) (by decide)]
    rfl
  · rw [State.fld_eq_of_reg_eq (f := PWR_PHASE.PHASE) hreg, State.fld_setFld_apart _ _ _ _ (by decide) (by decide) (by decide),
      State.fld_setFld_same _ _ _ (by decide) (by decide)]
    exact Nat.mod_eq_of_lt (endPhase_lt s)

theorem execBootStepDone_shows {failed : List Tile} {s : State} (hends : stepEnds s = true) (hstep : s.fld PWR_PHASE.BOOT_STEP ≤ 8) :
    ∃ t : State, exec (.bootStepDone failed) s = .next t ∧ t.fld PWR_PHASE.BOOT_STEP = nextStep s ∧
      (nextStep s = 9 → t.fld PWR_PHASE.READY = 1 ∧ t.fld PWR_PHASE.PHASE = endPhase s) := by
  have hle := nextStep_le hstep
  refine ⟨_, if_neg (by rw [hends]; exact Bool.false_ne_true), ?_, fun h9 => ?_⟩
  · rw [State.fld_setFld_same _ _ _ (by decide) (by decide)]
    exact Nat.mod_eq_of_lt (by show nextStep s < 16; omega)
  · rw [h9, State.fld_setFld_apart _ _ _ _ (by decide) (by decide) (by decide), State.fld_setFld_apart _ _ _ _ (by decide) (by decide) (by decide)]
    exact bootReady_shows s

/-- Settles O50, clause by clause. -/
theorem resetsBeginAndEnd : Obligations.ResetsBeginAndEnd := by
  refine ⟨fun _ _ _ => execRailGood_shows, fun _ _ _ => execRailGood_ends,
    fun r s hgood haon => ⟨_, execRailLost_cold hgood haon, ?_⟩, fun r s hgood hother hidle => ⟨_, execRailLost_supply hgood hother hidle, ?_⟩,
    fun s => ⟨_, rfl, ?_⟩, fun strap s hreset hcause hgood => ⟨_, execResetNRelease_ends hreset hcause hgood, rfl, sampleStrap_now .., sampleStrap_strap ..⟩,
    fun s hdue => ⟨_, if_pos hdue, ?_⟩, fun s hreset hcause => ⟨_, execDeviceResetEnd_ends hreset hcause, rfl, rfl⟩,
    fun s hidle hready hstep => ⟨_, execBootWatchdogExpire_resets hidle hready hstep, ?_⟩, fun _ _ => execBootStepDone_shows⟩
  · obtain ⟨hreset, hmram, hqueued, hrunning, hgb, -⟩ := coldReset_clears 1 (s.setFld ⟨PWR_RAIL_STATUS, r, r⟩ 0)
    obtain ⟨hcause, -⟩ := coldReset_shows (cause := 1) (by decide) (s.setFld ⟨PWR_RAIL_STATUS, r, r⟩ 0)
    rw [powerCycles_congr (State.setFld_mram ..), putBytes_mram_congr (State.setFld_mram ..)] at hmram
    exact ⟨hreset, hcause, hmram, hqueued, hrunning, hgb⟩
  · obtain ⟨hreset, -, -, -, -, hmram⟩ :=
      deviceReset_clears 3 ((s.setFld ⟨PWR_RAIL_STATUS, r, r⟩ 0).modHub (fun h => { h with railsLost := 2 ^ r.val }))
    have hsmall : 2 ^ r.val < 64 := Nat.pow_lt_pow_right (by decide) (by omega : r.val < 6)
    rw [deviceReset_shows_cause (by decide), deviceReset_shows_rails, State.hub_modHub, Nat.mod_eq_of_lt hsmall, hmram, State.modHub_mram,
      State.setFld_mram]
    exact ⟨hreset, rfl, rfl, rfl⟩
  · obtain ⟨hreset, hmram, -, hrunning, -, hclaims⟩ := coldReset_clears 2 s
    obtain ⟨hcause, hrails⟩ := coldReset_shows (cause := 2) (by decide) s
    exact ⟨hreset, hcause, hmram, hrails, hclaims, hrunning⟩
  · obtain ⟨hreset, hdue', -, hqueued, hrunning, hmram⟩ := deviceReset_clears 4 s
    exact ⟨hreset, hdue', deviceReset_shows_cause (by decide) s, reg_deviceReset (by decide) 4 s, hqueued, hrunning, hmram⟩
  · obtain ⟨hreset, -, hlimit, -, -, -⟩ := deviceReset_clears 5 (bootFailed s)
    have hcount : (deviceReset 5 (bootFailed s)).reg PWR_BOOT_FAILS = (bootFailed s).reg PWR_BOOT_FAILS := reg_deviceReset (by decide) 5 _
    exact ⟨hreset, deviceReset_shows_cause (by decide) _,
      (State.fld_eq_of_reg_eq (f := PWR_BOOT_FAILS.COUNT) hcount).trans (bootFailed_count s), hlimit⟩

end Sys2Proof.Claims
end

section
/-! SUPPORT. RELOAD writes the configuration registers from an image (R466): which registers those are, and that the writes, what they wake and what
follows from them leave the standing registers. -/
-- the whole text is compiled at once: its threads share one memory limit
set_option Elab.async false
namespace Sys2Proof.Claims
open Sys2Proof Sys2Proof.Machine

/-! ### The configuration registers (R461) -/

/-- The offsets of a block's configuration registers. -/
def cfgOffs (b : Blk) : List Nat := ((blkDefs b).filter (fun r => r.fields.any (fun f => f.cfg))).map (fun r => r.off)

theorem cfgRow_plain (b : Blk) : ∀ r ∈ blkDefs b, r.fields.any (fun f => f.cfg) = true → r.stride = 0 ∧ r.half = .whole := by
  cases b <;> decide +kernel

theorem findDef_row {rs : List RegDef} {off j : Nat} {r : RegDef} (h : findDef rs off = some (r, j)) : r ∈ rs ∧ (r.off = off ∨ r.stride ≠ 0) := by
  induction rs with
  | nil => exact absurd h (by simp [findDef])
  | cons x xs ih =>
    unfold findDef at h
    split at h
    next hoff =>
      obtain ⟨rfl, -⟩ := Prod.mk.inj (Option.some.inj h)
      exact ⟨List.mem_cons_self, .inl hoff⟩
    next =>
      split at h
      next hfamily =>
        obtain ⟨rfl, -⟩ := Prod.mk.inj (Option.some.inj h)
        exact ⟨List.mem_cons_self, .inr hfamily.2.1⟩
      next =>
        obtain ⟨hmem, hrow⟩ := ih h
        exact ⟨List.mem_cons_of_mem _ hmem, hrow⟩

/-- A configuration register is a whole register, and stands at one of the offsets of its block. -/
theorem isCfgReg_row {a : Nat} (h : isCfgReg a = true) : ∃ b i off r j, classify a = some (b, i, off) ∧ regAt a = some (b, i, r, j) ∧
    off ∈ cfgOffs b ∧ r.half = .whole := by
  unfold isCfgReg at h
  cases hreg : regAt a with
  | none => rw [hreg] at h; exact absurd h Bool.false_ne_true
  | some x =>
    obtain ⟨b, i, r, j⟩ := x
    rw [hreg] at h
    have hrow := hreg
    unfold regAt at hrow
    cases hclass : classify a with
    | none => rw [hclass] at hrow; exact absurd hrow (by simp)
    | some y =>
      obtain ⟨b', i', off⟩ := y
      rw [hclass] at hrow
      dsimp only at hrow
      cases hdef : findDef (blkDefs b') off with
      | none => rw [hdef] at hrow; exact absurd hrow (by simp)
      | some z =>
        obtain ⟨r', j'⟩ := z
        rw [hdef] at hrow
        dsimp only at hrow
        split at hrow
        · exact absurd hrow (by simp)
        · obtain ⟨rfl, rfl, rfl, rfl⟩ : b' = b ∧ i' = i ∧ r' = r ∧ j' = j := by simpa using hrow
          obtain ⟨hmem, hoff⟩ := findDef_row hdef
          obtain ⟨hstride, hhalf⟩ := cfgRow_plain b' r' hmem h
          refine ⟨b', i', off, r', j', rfl, rfl, ?_, hhalf⟩
          rw [← hoff.resolve_right (not_not_intro hstride)]
          exact List.mem_map_of_mem (List.mem_filter.2 ⟨hmem, h⟩)

/-- The offset in a place of the address map is the low part of the address, for the blocks where that matters here. -/
def OffsetOf (a : Nat) : Option (Blk × Nat × Nat) → Prop
  | none => True
  | some (b, i, off) => (b = .hub → off = a) ∧ (b = .lane → i < 136 ∧ off = a % 0x1000) ∧ (b = .pair → off = a % 0x1000)

theorem offsetOf_classify (a : Nat) : OffsetOf a (classify a) := by
  unfold classify
  dsimp only
  repeat' with_reducible refine iteInduction (motive := OffsetOf a) (fun _ => ?_) (fun _ => ?_)
  all_goals first | exact trivial | refine ⟨fun hb => ?_, fun hb => ?_, fun hb => ?_⟩ <;> cases hb <;> omega

theorem classify_offset {a i off : Nat} {b : Blk} (h : classify a = some (b, i, off)) : (b = .hub → off = a) ∧
    (b = .lane → i < 136 ∧ off = a % 0x1000) ∧ (b = .pair → off = a % 0x1000) := by
  have hplace := offsetOf_classify a
  rw [h] at hplace
  exact hplace

theorem isCfgReg_off {a : Nat} (h : isCfgReg a = true) : a ∉ standingRegs := by
  have hall : ∀ b ∈ standingRegs, isCfgReg b = false := by decide +kernel
  exact fun ha => Bool.false_ne_true ((hall a ha).symm.trans h)

/-! ### Wakes (R367, R369) -/

section
variable {A : List Nat} {r s : State}

theorem quiet_askRecommit {t cause : Nat} (h : Quiet A r s) : Quiet A r (askRecommit t cause s) := quiet_modHub h rfl

theorem quiet_clearReg {a : Nat} (h : Quiet A r s) (ha : a ∉ standingRegs) : Quiet A r (s.clearReg a) := quiet_setReg h ha

theorem quiet_subAdc {n p i : Nat} (h : Quiet A r s) : Quiet A r ((((s.setFld (PAIR_ADC_STATUS.SPARE_SLOT n p) i).setFld
    (PAIR_ADC_STATUS.COMMITTED n p) 1).setFld (PAIR_ADC_STATUS.DEGRADED n p) 1).modPair n p (fun k => { k with badSub := some i })) :=
  quiet_modPair (quiet_setFld (quiet_setFld (quiet_setFld h)))

theorem quiet_applySubAdcs {p : Nat → Bool} (h : Quiet A r s) : Quiet A r (applySubAdcs p s) := quiet_forEach _ h fun _ _ => quiet_subAdc

theorem quiet_showRows {t i : Nat} (h : Quiet A r s) : Quiet A r (showRows t i s) := quiet_setFld (quiet_setFld h)

theorem quiet_applyTileRepair {t : Nat} {x : Repair} (h : Quiet A r s) : Quiet A r (applyTileRepair t x s) :=
  quiet_ite (quiet_subAdc h) (quiet_ite (quiet_showRows (quiet_keeps [.rows] h fun _ _ => keeps_useRow (keeps_refl _ s))) h)

theorem quiet_setFeSlice {t f i : Nat} (h : Quiet A r s) : Quiet A r (setFeSlice t f i s) := quiet_setFld h

theorem quiet_rebuildSlices {t : Nat} (h : Quiet A r s) : Quiet A r (rebuildSlices t s) := by
  have hrows : Quiet A r { s with rows := s.rows.filter (fun x => decide (2 ^ 20 ≤ x.1) || x.1 / 16 / 68 != t) } := quiet_same h rfl rfl rfl rfl
  unfold rebuildSlices
  refine quiet_showSpares (quiet_forEach _ (quiet_forEach _ (quiet_forEach _ (quiet_forEach _ (quiet_forEach _ hrows ?_) ?_)
    fun _ _ => quiet_applyTileRepair) fun _ _ => quiet_setSliceState) fun f u hu => ?_)
  · exact fun _ _ hu => quiet_clearReg hu (off_tile_word _ _ _)
  · exact fun _ _ hu => quiet_clearReg hu (off_tile_word _ _ _)
  · split
    · exact quiet_setSliceState (quiet_setFeSlice hu)
    · exact quiet_setFeSlice hu

theorem quiet_tileUp {t : Nat} (h : Quiet A r s) : Quiet A r (tileUp t s) := by
  unfold tileUp
  exact quiet_modDom (quiet_setFld (quiet_setFld h))

theorem quiet_tileWake {t : Nat} (h : Quiet A r s) : Quiet A r (tileWake t s) :=
  quiet_askRecommit (quiet_tileUp (quiet_keeps [.cals] (quiet_applySubAdcs (quiet_rebuildSlices h)) fun _ _ => keeps_tileTrims (keeps_refl _ _)))

theorem quiet_finishWake {id : Nat} (h : Quiet A r s) : Quiet A r (finishWake id s) := by
  unfold finishWake
  exact quiet_modDom (quiet_ite (quiet_tileWake h) (quiet_modDom h))

theorem quiet_countWake {id : Nat} (h : Quiet A r s) : Quiet A r (countWake id s) := quiet_inc (quiet_modDom h) (by decide)

theorem quiet_recordStall {ns : Nat} (h : Quiet A r s) : Quiet A r (recordStall ns s) := quiet_ite (quiet_setFld h (by decide)) h

theorem quiet_wakeNow {ids : List Nat} (h : Quiet A r s) : Quiet A r (wakeNow ids s) := by
  unfold wakeNow
  exact quiet_recordStall (quiet_keeps [.free] (quiet_forEach ids h fun _ _ ht => quiet_finishWake (quiet_countWake ht)) fun _ _ =>
    keeps_draw (keeps_refl _ _))

/-! ### Commit passes (R464) -/

/-- A register that is none of `A`, though it may be a standing one. -/
theorem quiet_setOwn {f : Fld} {v : Nat} (hf : f.addr ∉ A) (h : Quiet A r s) : Quiet A r (s.setFld f v) :=
  ⟨h.standing, fun b hb => (State.reg_setReg_other _ _ _ _ fun hab : b = f.addr => hf (hab ▸ hb)).trans (h.regs b hb), h.raised, h.core, h.porterQ⟩

theorem quiet_mismatch {v : Nat} (hA : CFG_CHECK_STATUS ∉ A) (h : Quiet A r s) : Quiet A r (s.setFld CFG_CHECK_STATUS.MISMATCH v) :=
  quiet_setOwn (f := CFG_CHECK_STATUS.MISMATCH) hA h

theorem quiet_fenced {v : Nat} (hA : CFG_CHECK_STATUS ∉ A) (h : Quiet A r s) : Quiet A r (s.setFld CFG_CHECK_STATUS.FENCED v) :=
  quiet_setOwn (f := CFG_CHECK_STATUS.FENCED) hA h

theorem quiet_reloaded {v : Nat} (hA : CFG_CHECK_STATUS ∉ A) (h : Quiet A r s) : Quiet A r (s.setFld CFG_CHECK_STATUS.RELOADED v) :=
  quiet_setOwn (f := CFG_CHECK_STATUS.RELOADED) hA h

theorem quiet_finalReply {p : Pkt} {status : Nat} {body : List Nat} (h : Quiet A r s) : Quiet A r (finalReply p status body s) := by
  have hkeeps := finalReply_keeps p status body s
  have hhub : (finalReply p status body s).hub = s.hub := hkeeps.stands .hub
  have hraised : (finalReply p status body s).raised = s.raised := hkeeps.stands .raised
  have hcore : (finalReply p status body s).core = s.core := hkeeps.stands .core
  have hother : ∀ b ∈ standingRegs, b ≠ MR_CMDS ∧ b ≠ MR_CMDS + 4 ∧ b ≠ MR_NOREPLY_ERR := by decide
  refine ⟨h.standing, fun b hb => ?_, hraised ▸ h.raised, hcore.trans h.core, hhub ▸ h.porterQ⟩
  obtain ⟨hlo, hhi, herr⟩ := hother b (h.standing hb)
  exact (finalReply_reg p status body s hlo hhi herr).trans (h.regs b hb)

theorem off_segRef {j : Nat} (hj : j < 9) : CFG_SEG_REF j ∉ standingRegs := by
  have hall : ∀ j : Fin 9, CFG_SEG_REF j ∉ standingRegs := by decide
  exact hall ⟨j, hj⟩

theorem quiet_commitEnds {left : List (Nat × Nat)} (h : Quiet A r s) : Quiet A r (s.modHub (fun b =>
    { b with commit := none, episode := false, passes := 0, recommit := left })) := quiet_modHub h rfl

theorem quiet_endCommit {cause : Nat} {call : Option Call} (hA : CFG_CHECK_STATUS ∉ A) (h : Quiet A r s) : Quiet A r (endCommit cause call s) := by
  unfold endCommit
  extract_lets fenced s1 ref s2 s3 left s4 s5 s6
  have hs1 : Quiet A r s1 := quiet_forEach_mem h fun j hj t ht => quiet_ite ht (quiet_setReg ht (off_segRef (List.mem_range.1 hj)))
  have hs3 : Quiet A r s3 := quiet_reloaded hA (quiet_fenced hA (quiet_mismatch hA (quiet_setReg hs1 (by decide))))
  have hs5 : Quiet A r s5 := quiet_raise (quiet_commitEnds hs3)
  have hs6 : Quiet A r s6 := quiet_ite (quiet_forEach _ hs5 fun _ _ => quiet_startPort) hs5
  split
  · exact hs6
  · exact quiet_finalReply hs6

theorem quiet_nextCommit (h : Quiet A r s) : Quiet A r (nextCommit s) := by
  unfold nextCommit
  split
  · exact quiet_modHub h rfl
  · exact h

theorem quiet_finishCommit (hA : CFG_CHECK_STATUS ∉ A) (h : Quiet A r s) : Quiet A r (finishCommit s) := by
  unfold finishCommit
  split
  · exact h
  · exact quiet_nextCommit (quiet_endCommit hA h)

theorem quiet_settleCommits (hA : CFG_CHECK_STATUS ∉ A) (h : Quiet A r s) : Quiet A r (settleCommits s) := by
  show Quiet A r (forEach (List.range (s.hub.commits.length + 1)) (fun _ t => finishCommit t) s)
  exact quiet_forEach (f := fun _ t => finishCommit t) _ h fun _ t ht => quiet_finishCommit (s := t) hA ht

/-! ### Registers whose write acts (R452) -/

theorem quiet_writeAvsCfg {v : Nat} (h : Quiet A r s) : Quiet A r (writeAvsCfg v s) := by
  have hset {u : State} (hu : Quiet A r u) : Quiet A r (u.setFld PWR_AVS_STATUS.FAULT 0) := quiet_setFld hu (by decide)
  have hfields := hset (quiet_setFld (f := PWR_AVS_CFG.VMIN) (v := bits v 11 0) (quiet_setFld (f := PWR_AVS_CFG.VMAX) (v := bits v 27 16)
    (quiet_setFld (f := PWR_AVS_CFG.ENABLE) (v := bits v 31 31) h (by decide)) (by decide)) (by decide))
  exact quiet_ite (quiet_modHub hfields rfl) hfields

theorem quiet_showCdc (h : Quiet A r s) : Quiet A r (showCdc s) := quiet_setFld (quiet_ite (quiet_intBit h) h) (by decide)

theorem quiet_cdcOverrun {i : Nat} (h : Quiet A r s) : Quiet A r (cdcOverrun i s) :=
  quiet_ite h (quiet_showCdc (quiet_raise (quiet_setFld h (by show CLK_CDC_OVERRUN0 ∉ standingRegs; decide))))

theorem quiet_judgeDividers (h : Quiet A r s) : Quiet A r (judgeDividers s) := quiet_ite (quiet_cdcOverrun (quiet_cdcOverrun h)) (quiet_showCdc h)

theorem quiet_writeClkDiv {v : Nat} (h : Quiet A r s) : Quiet A r (writeClkDiv v s) :=
  quiet_judgeDividers (quiet_setFld (quiet_modHub (quiet_setReg h (by decide)) rfl) (by decide))

theorem quiet_writeFfe {i v : Nat} (hi : i < 256) (h : Quiet A r s) : Quiet A r (writeFfe i v s) :=
  quiet_emit (quiet_setFld (quiet_setFld (quiet_setFld (quiet_setFld h (off_lane hi (by decide))) (off_lane hi (by decide))) (off_lane hi (by decide)))
    (off_lane hi (by decide)))

theorem octetOf_lt {i : Nat} (hi : i < 256) : octetOf i < 32 := by
  unfold octetOf
  omega

theorem spareLane_groupOf_lt {i : Nat} (hi : i < 256) : spareLane (groupOf i) < 256 := by
  unfold spareLane groupOf
  split
  · omega
  · omega

theorem quiet_setLanePort {i n : Nat} (hi : i < 256) (h : Quiet A r s) : Quiet A r (setLanePort i n s) := quiet_setFld h (off_lane hi (by decide))

theorem quiet_disableLane {i : Nat} (hi : i < 256) (h : Quiet A r s) : Quiet A r (disableLane i s) := by
  unfold disableLane
  extract_lets s1 s2 s3
  have hs2 : Quiet A r s2 := quiet_modLane (quiet_abortEye hi (quiet_setFld h (off_lane hi (by decide))))
  refine quiet_octetJudge (octetOf_lt hi) (quiet_ite hs2 (quiet_setLaneState hi (quiet_setLocks hi (quiet_prbsUnlock hi ?_))))
  have hreverted := quiet_ite (c := (s2.lane i).revert = true) (quiet_setSpareState (st := 3) (spareLane_groupOf_lt hi)
    (quiet_modLane (i := i) (g := fun k => { k with revert := false }) hs2)) hs2
  exact quiet_ite hreverted (quiet_setLanePort hi hreverted)

theorem quiet_writeLaneEnable {i : Nat} {on : Bool} (hi : i < 256) (h : Quiet A r s) : Quiet A r (writeLaneEnable i on s) :=
  quiet_ite h (quiet_ite (quiet_ite h (quiet_enableLane hi h)) (quiet_disableLane hi h))

theorem quiet_writeLaneRate {i rate : Nat} (hi : i < 256) (h : Quiet A r s) : Quiet A r (writeLaneRate i rate s) := by
  have hset : Quiet A r (s.setFld (HL_CFG.RATE i) rate) := quiet_setFld h (off_lane hi (by decide))
  exact quiet_ite h (quiet_ite (quiet_setFld hset (off_lane hi (by decide))) hset)

theorem quiet_writeLaneCfg {i v : Nat} (hi : i < 256) (h : Quiet A r s) : Quiet A r (writeLaneCfg i v s) := by
  unfold writeLaneCfg
  extract_lets s1 s2 on rate s3 s4
  have hs2 : Quiet A r s2 := quiet_setFld (quiet_setFld (quiet_setFld (quiet_setFld h (off_lane hi (by decide))) (off_lane hi (by decide)))
    (off_lane hi (by decide))) (off_lane hi (by decide))
  have hs3 : Quiet A r s3 := quiet_setFld (quiet_setFld hs2 (off_lane hi (by decide))) (off_lane hi (by decide))
  exact quiet_ite hs2 (quiet_ite (quiet_ite (quiet_octetOn hs3) hs3) (quiet_ite (quiet_writeLaneEnable hi (quiet_writeLaneRate hi hs2))
    (quiet_setFld (quiet_ite (quiet_writeLaneEnable hi hs2) hs2) (off_lane hi (by decide)))))

theorem quiet_writeSpare {g v : Nat} (hg : spareLane g < 256) (h : Quiet A r s) : Quiet A r (writeSpare g v s) := by
  unfold writeSpare
  extract_lets keep s1
  have hs1 : Quiet A r s1 := quiet_setReg h (off_lane hg (by decide))
  exact quiet_ite (quiet_ite (quiet_octetOn hs1) hs1) (quiet_writeSpareCfg hg h)

theorem quiet_judgeOctets (h : Quiet A r s) : Quiet A r (judgeOctets s) := by
  refine quiet_forEach_mem h fun o ho t ht => quiet_ite (quiet_octetJudge ?_ ht) (quiet_octetOn ht)
  exact (List.mem_range.1 ho).trans (by decide)

/-! ### Ports (R42, R194, R211) -/

theorem quiet_beginEntries {l : LinkId} {wait : Nat} {ts : List (Nat × List Nat)} (h : Quiet A r s) : Quiet A r (beginEntries l wait ts s) := by
  unfold beginEntries
  refine quiet_modLink (quiet_forEach _ (quiet_forEach _ h fun x t ht => quiet_modPair ?_) fun _ _ ht => quiet_setFld ht)
  exact quiet_keeps [.tbl] ht fun _ _ => keeps_setBank (keeps_refl _ t)

theorem quiet_beginModeTables {l : LinkId} {b : Nat} {on : Bool} (h : Quiet A r s) : Quiet A r (beginModeTables l b on s) := by
  unfold beginModeTables
  extract_lets k
  refine quiet_ite (quiet_modLink h) (quiet_ite (quiet_ite (quiet_modLink h) ?_) ?_)
  · split
    · exact quiet_beginEntries h
    · exact quiet_modLink h
  · split
    · exact quiet_beginEntries h
    · exact quiet_modLink h

theorem quiet_proposeMode {l : LinkId} {b : Nat} {on : Bool} (h : Quiet A r s) : Quiet A r (proposeMode l b on s) := by
  unfold proposeMode
  extract_lets k s1 s2
  have hended {c : Prop} [Decidable c] : Quiet A r (if c then endExchange l s else s) := quiet_ite (quiet_endExchange h) h
  exact quiet_ite h (quiet_ite (quiet_modLink hended) (quiet_ite h (quiet_ite (quiet_beginModeTables (quiet_modLink hended))
    (quiet_sendPort (quiet_modLink hended)))))

theorem quiet_startBundle {n : Port} (h : Quiet A r s) : Quiet A r (startBundle n s) :=
  quiet_setFld (quiet_setFld (quiet_forEach _ h fun _ t ht => quiet_keeps [.coef, .seeds] ht fun _ _ => keeps_clearMem (keeps_refl _ t)))

theorem quiet_putLocal {n : Port} {b : Nat} {v : Bool} (h : Quiet A r s) : Quiet A r (putLocal n b v s) :=
  quiet_ite (quiet_startBundle (quiet_modPort h)) (quiet_modPort h)

theorem quiet_testNotice {n : Port} {b : Nat} {v : Bool} (h : Quiet A r s) : Quiet A r (testNotice n b v s) :=
  quiet_keeps [.queues] h fun _ _ => keeps_testNotice (keeps_refl _ s)

theorem quiet_writeLocal {n : Port} {b : Nat} {v : Bool} (h : Quiet A r s) : Quiet A r (writeLocal n b v s) := by
  have hwait : Quiet A r (waitLocal n b v s) := quiet_modPort h
  exact quiet_ite h (quiet_ite (quiet_putLocal h) (quiet_ite h (quiet_ite
    (quiet_ite (quiet_wakePort (quiet_testNotice hwait)) (quiet_testNotice hwait)) hwait)))

theorem quiet_writePortMode {n : Port} {v : Nat} (h : Quiet A r s) : Quiet A r (writePortMode n v s) :=
  quiet_refreshModes (quiet_forEach _ (quiet_setReg h) fun _ _ ht => quiet_ite (quiet_writeLocal ht) (quiet_ite (quiet_modPort ht)
    (quiet_forEach _ ht fun _ _ => quiet_proposeMode)))

theorem quiet_writeRateCfg {n : Port} {v : Nat} (h : Quiet A r s) : Quiet A r (writeRateCfg n v s) := by
  unfold writeRateCfg
  extract_lets was s1
  have hs1 : Quiet A r s1 := quiet_setReg h
  exact quiet_ite hs1 (quiet_keeps [.links] hs1 fun _ _ => keeps_askTier (keeps_refl _ s1))

theorem quiet_disableLink {l : LinkId} (h : Quiet A r s) : Quiet A r (disableLink l s) :=
  quiet_ite (quiet_linkDown h) (quiet_ite (quiet_showLink (quiet_flushTx (quiet_modLink (quiet_clearLink h)))) h)

theorem quiet_stopPort {n : Port} (h : Quiet A r s) : Quiet A r (stopPort n s) := by
  have hdown : Quiet A r (forEach (activeLinks s n) disableLink s) := quiet_forEach _ h fun _ _ => quiet_disableLink
  exact quiet_ite (quiet_forEach _ (quiet_modLink hdown) fun _ _ => quiet_showLink) hdown

theorem quiet_writeEnable {n : Port} {on : Bool} (h : Quiet A r s) : Quiet A r (writeEnable n on s) :=
  quiet_ite (quiet_stopPort (quiet_setFld h)) (quiet_ite h (quiet_startPort (quiet_setFld h)))

theorem quiet_writeStartupCfg {n : Port} {v : Nat} (h : Quiet A r s) : Quiet A r (writeStartupCfg n v s) := by
  unfold writeStartupCfg
  extract_lets was on s1 s2
  have hs2 : Quiet A r s2 := quiet_setFld (quiet_setReg h)
  exact quiet_ite hs2 (quiet_writeEnable hs2)

theorem quiet_histClear {n : Port} (h : Quiet A r s) : Quiet A r (histClear n s) := quiet_forEach _ h fun _ _ ht => quiet_setReg (quiet_modDiag ht)

/-! ### A write of a configuration register -/

theorem cfgOffs_values : cfgOffs .hub = [0x100, 0x230, 0x240, 0x304] ∧ cfgOffs .lane = [0, 4, 0xC, 0x10, 0x200] ∧ cfgOffs .pair = [0] ∧
    cfgOffs .tile = [] ∧ cfgOffs .dbg = [] ∧ cfgOffs .cal = [0] ∧ cfgOffs .gb = [0x20] ∧ cfgOffs .cnc = [] := by decide +kernel

/-- Of the registers of the hub whose write acts, two belong to the configuration. -/
theorem quiet_writeSpecial_hub {a v : Nat} {t : State} (ha : isCfgReg a = true) (hwrite : writeSpecial .hub 0 a v s = some t) (h : Quiet A r s) :
    Quiet A r t := by
  have hnone : ∀ x ∈ [PWR_DOM_CTRL, CFG_COMMIT, CFG_CHECK_STATUS, PWR_DOM_DATA], isCfgReg x = false := by decide +kernel
  have hne (x : Nat) (hx : x ∈ [PWR_DOM_CTRL, CFG_COMMIT, CFG_CHECK_STATUS, PWR_DOM_DATA]) : a ≠ x := fun hax =>
    Bool.false_ne_true ((hnone x hx).symm.trans (hax ▸ ha))
  simp only [writeSpecial, windowStep, if_neg (hne PWR_DOM_CTRL (by simp)), if_neg (hne CFG_COMMIT (by simp)),
    if_neg (hne CFG_CHECK_STATUS (by simp)), if_neg (hne PWR_DOM_DATA (by simp))] at hwrite
  split at hwrite
  · exact Option.some.inj hwrite ▸ quiet_writeClkDiv h
  · split at hwrite
    · exact Option.some.inj hwrite ▸ quiet_writeAvsCfg h
    · exact absurd hwrite (by simp)

theorem quiet_writeSpecial_lane {a i v : Nat} {t : State} (hi : i < 136) (hlow : a % 0x1000 ∈ cfgOffs .lane)
    (hwrite : writeSpecial .lane i a v s = some t) (h : Quiet A r s) : Quiet A r t := by
  have hne (k : Nat) (hk : k < 0x1000 ∧ k ∉ [0, 4, 0xC, 0x10, 0x200]) : a ≠ laneBase i + k := by
    obtain ⟨-, hlane, -⟩ := cfgOffs_values
    rw [hlane] at hlow
    intro hak
    have hoff : a % 0x1000 = k := by
      rw [hak, laneBase]
      omega
    exact hk.2 (hoff ▸ hlow)
  have hlane : i < 256 := by omega
  have hspare : spareLane (i - 128) < 256 := by
    unfold spareLane
    omega
  have heye : a ≠ HL_EYE_CTRL i := hne 0x40 (by decide)
  have hprbs : a ≠ HL_PRBS_CTRL i := hne 0x80 (by decide)
  have hctrl : a ≠ HL_SPARE_CTRL i := hne 0x210 (by decide)
  simp only [writeSpecial, if_neg heye, if_neg hprbs, if_neg hctrl] at hwrite
  split at hwrite
  · exact Option.some.inj hwrite ▸ quiet_writeLaneCfg hlane h
  · split at hwrite
    · exact Option.some.inj hwrite ▸ quiet_writeFfe hlane h
    · split at hwrite
      · exact Option.some.inj hwrite ▸ quiet_writeSpare hspare h
      · exact absurd hwrite (by simp)

theorem quiet_writeSpecial_port {a i v : Nat} {t : State} (hwrite : writeSpecial .port i a v s = some t) (h : Quiet A r s) : Quiet A r t := by
  simp only [writeSpecial] at hwrite
  split at hwrite
  · exact Option.some.inj hwrite ▸ quiet_writePortMode h
  · split at hwrite
    · exact Option.some.inj hwrite ▸ quiet_writeStartupCfg h
    · split at hwrite
      · exact Option.some.inj hwrite ▸ quiet_writeRateCfg h
      · exact absurd hwrite (by simp)

/-- No write of a configuration register of a pair acts. -/
theorem writeSpecial_pair {a i v : Nat} (hlow : a % 0x1000 ∈ cfgOffs .pair) : writeSpecial .pair i a v s = none := by
  have hne (k : Nat) (hk : k < 0x1000 ∧ k ≠ 0) : a ≠ pairBase (portOf i) (pairOf i) + k := by
    obtain ⟨-, -, hpair, -⟩ := cfgOffs_values
    rw [hpair, List.mem_singleton] at hlow
    unfold pairBase portBase
    omega
  have htbl : a ≠ PAIR_TBL_DATA (portOf i) (pairOf i) := hne 0x14 (by decide)
  have haddr : a ≠ PAIR_COEF_ADDR (portOf i) (pairOf i) := hne 0x140 (by decide)
  have hcoef : a ≠ PAIR_COEF_DATA (portOf i) (pairOf i) := hne 0x144 (by decide)
  have hdiag : a ≠ DIAG_CTRL (portOf i) (pairOf i) := hne 0x400 (by decide)
  have hsnr : a ≠ PAIR_SNR_DATA (portOf i) (pairOf i) := hne 0x134 (by decide)
  have hmap : a ≠ DIAG_MAP_DATA (portOf i) (pairOf i) := hne 0x414 (by decide)
  have htrace : a ≠ DIAG_TRACE_DATA (portOf i) (pairOf i) := hne 0x484 (by decide)
  have hhist : a ≠ DIAG_HIST_DATA (portOf i) (pairOf i) := hne 0x494 (by decide)
  simp only [writeSpecial, windowStep, if_neg htbl, if_neg haddr, if_neg hcoef, if_neg hdiag, if_neg hsnr, if_neg hmap, if_neg htrace, if_neg hhist]

/-- A block whose registers act only where none belongs to the configuration. -/
theorem writeSpecial_other {a i off v : Nat} {b : Blk} (hb : b ∉ [Blk.hub, .lane, .port, .pair]) (ha : isCfgReg a = true)
    (hoff : off ∈ cfgOffs b) : writeSpecial b i a v s = none := by
  have hnone : ∀ x ∈ [GB_CLEAR_CTRL, GB_READ_DATA, CAL_ITEM_DATA, CNC_LIST_DATA], isCfgReg x = false := by decide +kernel
  have hne (x : Nat) (hx : x ∈ [GB_CLEAR_CTRL, GB_READ_DATA, CAL_ITEM_DATA, CNC_LIST_DATA]) : a ≠ x := fun hax =>
    Bool.false_ne_true ((hnone x hx).symm.trans (hax ▸ ha))
  obtain ⟨-, -, -, htile, hdbg, -⟩ := cfgOffs_values
  cases b with
  | hub | lane | port | pair => exact absurd hb (by simp)
  | tile => rw [htile] at hoff; exact absurd hoff List.not_mem_nil
  | dbg => rw [hdbg] at hoff; exact absurd hoff List.not_mem_nil
  | gb => simp only [writeSpecial, windowStep, if_neg (hne GB_CLEAR_CTRL (by simp)), if_neg (hne GB_READ_DATA (by simp))]
  | cal => simp only [writeSpecial, windowStep, if_neg (hne CAL_ITEM_DATA (by simp))]
  | cnc => simp only [writeSpecial, windowStep, if_neg (hne CNC_LIST_DATA (by simp))]
  | hostel | ttPort | nv | bist | mr | slice => rfl

theorem quiet_writeSpecial {b : Blk} {a i off v : Nat} {t : State} (ha : isCfgReg a = true) (hclass : classify a = some (b, i, off))
    (hoff : off ∈ cfgOffs b) (hwrite : writeSpecial b i a v s = some t) (h : Quiet A r s) : Quiet A r t := by
  obtain ⟨-, hlane, hpair⟩ := classify_offset hclass
  by_cases hb : b ∈ [Blk.hub, .lane, .port, .pair]
  · simp only [List.mem_cons, List.not_mem_nil, or_false] at hb
    obtain rfl | rfl | rfl | rfl := hb
    · exact quiet_writeSpecial_hub (s := s) ha hwrite h
    · obtain ⟨hi, hlow⟩ := hlane rfl
      exact quiet_writeSpecial_lane hi (hlow ▸ hoff) hwrite h
    · exact quiet_writeSpecial_port hwrite h
    · rw [writeSpecial_pair (hpair rfl ▸ hoff)] at hwrite
      exact absurd hwrite (by simp)
  · rw [writeSpecial_other hb ha hoff] at hwrite
    exact absurd hwrite (by simp)

theorem quiet_afterWrite {b : Blk} {i a v : Nat} (h : Quiet A r s) : Quiet A r (afterWrite b i a v s) := by
  unfold afterWrite
  split
  · exact quiet_ite (quiet_judgeDividers (quiet_showCdc h)) (quiet_ite (quiet_judgeOctets h) (quiet_ite (quiet_modHub h rfl) h))
  · extract_lets n s1 s2
    have hinject {n : Port} {k : Nat} {u : State} (hu : Quiet A r u) : Quiet A r (injectPattern n k u) :=
      quiet_keeps [.pairs] hu fun _ _ => keeps_injectPattern (keeps_refl _ u)
    have hs1 : Quiet A r s1 := quiet_ite (hinject h) h
    have hs2 : Quiet A r s2 := quiet_ite (hinject hs1) hs1
    exact quiet_ite (quiet_refreshModes (quiet_keeps [.queues] hs2 fun _ _ => keeps_patternNotice (keeps_refl _ s2)))
      (quiet_ite (quiet_refreshModes h) (quiet_ite (quiet_ite (quiet_histClear h) h) h))
  · exact h

theorem quiet_writeWrap {w : Nat} (h : Quiet A r s) : Quiet A r (writeWrap w s) := quiet_ite h (quiet_raise (quiet_setFld h (by decide)))

theorem quiet_writeLost {m : Master} {a : Nat} (h : Quiet A r s) : Quiet A r (writeLost m a s) :=
  quiet_raise (quiet_intBit (quiet_inc (quiet_setReg (quiet_setFld h (by decide)) (by decide)) (by decide)))

theorem quiet_writePlain {m : Master} {a v : Nat} {hw : HwUpdate} (ha : isCfgReg a = true) (h : Quiet A r s) : Quiet A r (writePlain m a v hw s) := by
  obtain ⟨b, i, off, row, j, hclass, hrow, hoff, hhalf⟩ := isCfgReg_row ha
  unfold writePlain
  rw [hrow]
  dsimp only
  rw [hhalf]
  dsimp only
  split
  next t hwrite => exact quiet_writeSpecial ha hclass hoff hwrite h
  next =>
    have hset {w : Word} : Quiet A r (s.setReg a w) := quiet_setReg h (isCfgReg_off ha)
    have hwrap {w : Word} {k : Nat} : Quiet A r (writeWrap (bits v 1 0) ((s.setReg a w).setFld MR_CFG.WRAP k)) :=
      quiet_writeWrap (quiet_setFld hset (by decide))
    exact quiet_afterWrite (quiet_ite (quiet_writeLost (quiet_ite hwrap hset)) (quiet_ite hwrap hset))

theorem quiet_ownWrite {a v : Nat} (hA : CFG_CHECK_STATUS ∉ A) (ha : isCfgReg a = true) (h : Quiet A r s) : Quiet A r (ownWrite a v s) := by
  have hlocks : ∀ x ∈ [CFG_CHECK_CFG, UNLOCK_KEY, HUB_LOCK], isCfgReg x = false := by decide +kernel
  have hne (x : Nat) (hx : x ∈ [CFG_CHECK_CFG, UNLOCK_KEY, HUB_LOCK]) : a ≠ x := fun hax =>
    Bool.false_ne_true ((hlocks x hx).symm.trans (hax ▸ ha))
  have hwrite {u : State} (hu : Quiet A r u) : Quiet A r (writeReg .firmware a v noUpdate u).2 := by
    rw [writeReg, if_neg (hne CFG_CHECK_CFG (by simp)), if_neg (hne UNLOCK_KEY (by simp)), if_neg (hne HUB_LOCK (by simp)), if_pos ha]
    exact quiet_writePlain ha (quiet_settleCommits hA hu)
  unfold ownWrite
  split
  · exact hwrite h
  · exact hwrite (quiet_wakeNow h)
  · exact h

theorem quiet_reload (hA : CFG_CHECK_STATUS ∉ A) (h : Quiet A r s) : Quiet A r (reload s) := by
  refine quiet_raise (quiet_inc (quiet_reloaded hA (quiet_forEach_mem h fun e he t ht => ?_)) (by decide))
  exact quiet_ownWrite hA (List.mem_filter.1 he).2 ht

end

end Sys2Proof.Claims
end

section
/-! PROOF. The configuration check, its commits and the locks, one clause of the statement after the other (O54). -/
-- the whole text is compiled at once: its threads share one memory limit
set_option Elab.async false
namespace Sys2Proof.Claims
open Sys2Proof Sys2Proof.Machine

/-! ### Passes of the walkers (R462, R463, R466) -/

section
variable {A : List Nat} {r s : State}

theorem quiet_fence (hA : CFG_CHECK_STATUS ∉ A) (h : Quiet A r s) : Quiet A r (fence s) :=
  quiet_raise (quiet_forEach _ (quiet_fenced hA h) fun _ _ => quiet_stopPort)

theorem quiet_checkAction (hA : CFG_CHECK_STATUS ∉ A) (h : Quiet A r s) : Quiet A r (checkAction s) := by
  unfold checkAction
  split
  · exact quiet_ite (quiet_modHub h rfl) (quiet_reload hA h)
  · exact quiet_fence hA h
  · exact h

end

theorem reg_recommitSegs_passes (s : State) : (recommitSegs s).reg CFG_PASSES = s.reg CFG_PASSES := by
  have hseg (j : Nat) : CFG_PASSES ≠ CFG_SEG_REF j := by
    unfold CFG_PASSES CFG_SEG_REF
    omega
  refine forEach_of_step (P := fun t => t.reg CFG_PASSES = s.reg CFG_PASSES) (fun x t ht => ?_) _ rfl
  rw [State.modHub_reg, State.raise_reg, State.reg_setReg_other _ _ _ _ (by decide), State.reg_setReg_other _ _ _ _ (hseg x.1), ht]

/-- What a clean pass shows of its comparison. -/
def passShown (crc mis skipped : Nat) (s : State) : State :=
  ((s.setReg CFG_CRC_NOW (word crc)).setFld CFG_CHECK_STATUS.SEG_MISMATCH mis).setFld CFG_CHECK_STATUS.SKIPPED skipped

theorem passShown_passes (crc mis skipped : Nat) (s : State) : (passShown crc mis skipped s).reg CFG_PASSES = s.reg CFG_PASSES := by
  rw [passShown, State.reg_setFld_other _ _ _ _ (by decide), State.reg_setFld_other _ _ _ _ (by decide), State.reg_setReg_other _ _ _ _ (by decide)]

theorem reg_checkAction_passes (s : State) : (checkAction s).reg CFG_PASSES = s.reg CFG_PASSES :=
  (quiet_checkAction (A := [CFG_PASSES]) (by decide) (quiet_refl (by decide) s)).regs _ (by decide)

theorem cleanPass_counts (s : State) : (cleanPass s).reg CFG_PASSES = s.reg CFG_PASSES + 1 := by
  have hcounted : (recommitSegs (s.inc CFG_PASSES)).reg CFG_PASSES = s.reg CFG_PASSES + 1 := by
    rw [reg_recommitSegs_passes, State.reg_inc_same]
  unfold cleanPass
  extract_lets s1 refs crcs mask mis crc ref s2 s3 s4 s5 s6
  have hs3 : s3.reg CFG_PASSES = s.reg CFG_PASSES + 1 := (passShown_passes crc mis (mask (segSkipped s2)) s1).trans hcounted
  split
  · split
    · rw [State.raise_reg, State.reg_setFld_other _ _ _ _ (by decide), State.modHub_reg, hs3]
    · exact hs3
  · split
    · rw [State.modHub_reg, hs3]
    · rw [reg_checkAction_passes, State.raise_reg, State.reg_inc_other _ _ _ (by decide), State.intBit, State.reg_setFld_other _ _ _ _ (by decide),
        State.reg_setFld_other _ _ _ _ (by decide), State.modHub_reg, hs3]

/-! ### Commits (R464) -/

theorem startCommit_starts {cause : Nat} {call : Option Call} {s : State} (hidle : s.hub.commit = none) (hnone : s.hub.commits = []) :
    (startCommit cause call s).hub.commit = some (cause, call) ∧ (startCommit cause call s).hub.commits = [] ∧
      (startCommit cause call s).regs = s.regs := by
  rw [startCommit, nextCommit, State.hub_modHub, hidle, hnone]
  exact ⟨rfl, rfl, rfl⟩

theorem commitEnds_hub (left : List (Nat × Nat)) (s : State) :
    (s.modHub (fun b => { b with commit := none, episode := false, passes := 0, recommit := left })).hub.commit = none ∧
      (s.modHub (fun b => { b with commit := none, episode := false, passes := 0, recommit := left })).hub.commits = s.hub.commits := by
  rw [State.hub_modHub]
  exact ⟨rfl, rfl⟩

/-- A pass that answers no command leaves no commit, and nothing of the mismatch is shown. -/
theorem endCommit_clears (cause : Nat) (s : State) : (endCommit cause none s).hub.commit = none ∧
    (endCommit cause none s).hub.commits = s.hub.commits ∧ (endCommit cause none s).fld CFG_CHECK_STATUS.MISMATCH = 0 ∧
    (endCommit cause none s).fld CFG_CHECK_STATUS.FENCED = 0 ∧ (endCommit cause none s).fld CFG_CHECK_STATUS.RELOADED = 0 := by
  unfold endCommit
  extract_lets fenced s1 ref s2 s3 left s4 s5 s6
  have hs1 : Keeps (Within [.regs]) s s1 :=
    keeps_within _ fun _ _ => keeps_forEach _ _ (keeps_refl _ s) fun _ _ ht => keeps_ite ht (keeps_setReg ht)
  have hhub1 : s1.hub = s.hub := hs1.stands .hub
  have hquiet : Quiet standingRegs s5 s6 := quiet_ite (quiet_forEach _ (quiet_refl (List.Subset.refl _) s5) fun _ _ => quiet_startPort)
    (quiet_refl (List.Subset.refl _) s5)
  have hs6 : Keeps (Within [.free, .regs, .ports, .pairs, .links, .queues, .banks, .tiles, .diags, .doms, .completions, .claims, .waiting, .later,
      .tests, .raised]) s5 s6 :=
    keeps_within _ fun _ _ => keeps_ite (keeps_forEach _ _ (keeps_refl _ s5) fun _ _ => keeps_startPort) (keeps_refl _ s5)
  have hhub : s6.hub = s4.hub := Eq.trans (hs6.stands .hub) (State.raise_hub ..)
  obtain ⟨hcommit, hcommits⟩ : s4.hub.commit = none ∧ s4.hub.commits = s3.hub.commits := commitEnds_hub left s3
  have hhub3 : s3.hub = s1.hub := by rw [State.setFld_hub, State.setFld_hub, State.setFld_hub, State.setReg_hub]
  have hreg : s6.reg CFG_CHECK_STATUS = s3.reg CFG_CHECK_STATUS := by
    rw [hquiet.regs _ (by decide), State.raise_reg, State.modHub_reg]
  dsimp only
  rw [hhub, hcommit, hcommits, hhub3, hhub1, State.fld_eq_of_reg_eq (f := CFG_CHECK_STATUS.MISMATCH) hreg,
    State.fld_eq_of_reg_eq (f := CFG_CHECK_STATUS.FENCED) hreg, State.fld_eq_of_reg_eq (f := CFG_CHECK_STATUS.RELOADED) hreg]
  refine ⟨rfl, rfl, ?_, ?_, ?_⟩
  · rw [State.fld_setFld_apart _ _ _ _ (by decide) (by decide) (by decide), State.fld_setFld_apart _ _ _ _ (by decide) (by decide) (by decide)]
    exact State.fld_setFld_same _ _ _ (by decide) (by decide)
  · rw [State.fld_setFld_apart _ _ _ _ (by decide) (by decide) (by decide)]
    exact State.fld_setFld_same _ _ _ (by decide) (by decide)
  · exact State.fld_setFld_same _ _ _ (by decide) (by decide)

theorem execCommitPassDone_ends {cause : Nat} {s : State} (hruns : s.hub.commit = some (cause, none)) (hnone : s.hub.commits = []) :
    exec .commitPassDone s = .next (endCommit cause none s) := by
  obtain ⟨hcommit, hcommits, -⟩ := endCommit_clears cause s
  show execCommitPassDone s = _
  rw [execCommitPassDone, if_neg (by simp [hruns]), finishCommit, hruns]
  dsimp only
  rw [nextCommit, hcommit, hcommits, hnone]

/-! ### CFG_CHECK_CFG and FENCED (R465, R466, R471) -/

theorem writeCheckCfg_writes (v : Nat) (s : State) : (writeCheckCfg v s).fld CFG_CHECK_CFG.ENABLE = bits v 31 31 ∧
    (writeCheckCfg v s).fld CFG_CHECK_CFG.ACTION = bits v 1 0 ∧ (writeCheckCfg v s).hub.window = s.hub.window := by
  unfold writeCheckCfg
  extract_lets was s1
  have henable : s1.fld CFG_CHECK_CFG.ENABLE = bits v 31 31 := by
    rw [State.fld_setFld_apart _ _ _ _ (by decide) (by decide) (by decide)]
    exact State.fld_setFld_bits _ _ (by decide) (by decide)
  have haction : s1.fld CFG_CHECK_CFG.ACTION = bits v 1 0 := State.fld_setFld_bits _ _ (by decide) (by decide)
  have hhub : s1.hub = s.hub := by rw [State.setFld_hub, State.setFld_hub]
  split
  · rw [State.modHub_fld, State.modHub_fld, State.hub_modHub, State.fld_setFld_apart s1 CFG_CHECK_STATUS.MISMATCH CFG_CHECK_CFG.ENABLE _ (by decide) (by decide) (by decide),
      State.fld_setFld_apart s1 CFG_CHECK_STATUS.MISMATCH CFG_CHECK_CFG.ACTION _ (by decide) (by decide) (by decide), State.setFld_hub, hhub]
    exact ⟨henable, haction, rfl⟩
  · split
    · rw [State.modHub_fld, State.modHub_fld, State.hub_modHub, hhub]
      exact ⟨henable, haction, rfl⟩
    · exact ⟨henable, haction, congrArg HubSt.window hhub⟩

theorem execCfgCheckEnableWrite_writes {v : Word} {m : Master} {s : State} (hopen : windowOver s = false) (hfree : isLocked s = false) :
    ∃ t : State, exec (.cfgCheckEnableWrite v m) s = .next t ∧ t.fld CFG_CHECK_CFG.ENABLE = bits v.toNat 31 31 ∧
      t.fld CFG_CHECK_CFG.ACTION = bits v.toNat 1 0 ∧ t.hub.window = (if s.fld PWR_PHASE.PHASE = 1 then s.hub.window else none) := by
  have hwrite : (writeLockable m CFG_CHECK_CFG v.toNat s).2 = writeCheckCfg v.toNat (if s.fld PWR_PHASE.PHASE = 1 then s else
      s.modHub (fun h => { h with window := none })) := by
    rw [writeLockable, hopen, if_neg Bool.false_ne_true, hfree, if_neg Bool.false_ne_true]
  obtain ⟨henable, haction, hwindow⟩ := writeCheckCfg_writes v.toNat (if s.fld PWR_PHASE.PHASE = 1 then s else
    s.modHub (fun h => { h with window := none }))
  refine ⟨_, rfl, ?_⟩
  rw [hwrite]
  refine ⟨henable, haction, hwindow.trans ?_⟩
  split
  · rfl
  · rw [State.hub_modHub]

theorem execCfgCheckEnableWrite_refuses {v : Word} {m : Master} {s : State} (hopen : windowOver s = false) (hlocked : isLocked s = true) :
    exec (.cfgCheckEnableWrite v m) s = .next (refuseLocked CFG_CHECK_CFG m s) := by
  show execCfgCheckEnableWrite v m s = _
  rw [execCfgCheckEnableWrite, writeLockable, hopen, if_neg Bool.false_ne_true, hlocked, if_pos rfl]

theorem refuseLocked_records (a : Nat) (m : Master) (s : State) : (refuseLocked a m s).reg CFG_CHECK_CFG = s.reg CFG_CHECK_CFG ∧
    (refuseLocked a m s).fld HUB_LOCK_STATUS.VIOLATION = 1 ∧ (refuseLocked a m s).reg HUB_LOCK_LAST_ADDR = word a ∧
    (refuseLocked a m s).reg HUB_LOCK_VIOLATIONS = s.reg HUB_LOCK_VIOLATIONS + 1 ∧
    (refuseLocked a m s).raised = s.raised ++ [⟨0x8001, 1, [a, masterCode m, s.fld PWR_PHASE.PHASE]⟩] := by
  unfold refuseLocked
  extract_lets s1
  have hphase : s1.fld PWR_PHASE.PHASE = s.fld PWR_PHASE.PHASE := State.fld_eq_of_reg_eq (f := PWR_PHASE.PHASE) (by
    rw [State.reg_inc_other _ _ _ (by decide), State.reg_setReg_other _ _ _ _ (by decide), State.reg_setFld_other _ _ _ _ (by decide)])
  have hother {b : Nat} (hb : b ≠ HUB_INT_STATUS) : ((s1.intBit 8).raise 0x8001 1 [a, masterCode m, s1.fld PWR_PHASE.PHASE]).reg b = s1.reg b := by
    rw [State.raise_reg, State.intBit, State.reg_setFld_other _ _ _ _ hb]
  refine ⟨?_, ?_, ?_, ?_, ?_⟩
  · rw [hother (by decide), State.reg_inc_other _ _ _ (by decide), State.reg_setReg_other _ _ _ _ (by decide),
      State.reg_setFld_other _ _ _ _ (by decide)]
  · rw [State.fld_eq_of_reg_eq (f := HUB_LOCK_STATUS.VIOLATION) (hother (by decide)),
      State.fld_eq_of_reg_eq (f := HUB_LOCK_STATUS.VIOLATION) (State.reg_inc_other _ _ _ (by decide)),
      State.fld_eq_of_reg_eq (f := HUB_LOCK_STATUS.VIOLATION) (State.reg_setReg_other _ _ _ _ (by decide))]
    exact State.fld_setFld_same _ _ _ (by decide) (by decide)
  · rw [hother (by decide), State.reg_inc_other _ _ _ (by decide), State.reg_setReg_same]
  · rw [hother (by decide), State.reg_inc_same, State.reg_setReg_other _ _ _ _ (by decide), State.reg_setFld_other _ _ _ _ (by decide)]
  · rw [State.raised_raise, State.intBit_raised, hphase, State.inc_raised, State.setReg_raised, State.setFld_raised]

theorem clearFenced_clears {s : State} (hfenced : s.flag CFG_CHECK_STATUS.FENCED = true) : (clearFenced s).flag CFG_CHECK_STATUS.FENCED = false := by
  have hstarted {ns : List Port} {u : State} : (forEach ns startPort u).reg CFG_CHECK_STATUS = u.reg CFG_CHECK_STATUS :=
    (quiet_forEach ns (quiet_refl (List.Subset.refl standingRegs) u) fun _ _ => quiet_startPort).regs _ (by decide)
  rw [clearFenced, if_neg (by rw [hfenced]; exact Bool.false_ne_true), State.flag_eq_of_reg_eq (f := CFG_CHECK_STATUS.FENCED) hstarted]
  exact State.flag_setFld_zero _ _ (by decide) (by decide)

/-! ### LOCK and the unlock window (R469, R470) -/

theorem setLock_sets {m : Master} {s : State} (hservice : s.fld PWR_PHASE.PHASE = 1) (hopen : s.fld HUB_LOCK.LOCK = 0) :
    (setLock m s).fld HUB_LOCK.LOCK = 1 ∧ (setLock m s).raised = s.raised ++ [⟨0x8004, 0, [masterCode m]⟩] := by
  rw [setLock, if_pos ⟨hservice, hopen⟩, State.raise_fld, State.raised_raise, State.setFld_raised]
  exact ⟨State.fld_setFld_same _ _ _ (by decide) (by decide), rfl⟩

theorem expireWindow_keeps (s : State) : Keeps (Within [.hub, .raised]) s (expireWindow s) := keeps_within _ fun _ _ => keeps_expireWindow (keeps_refl _ s)

/-- The state in which a key is judged. -/
def keyJudged (s : State) : State := if windowOver s then expireWindow s else s

theorem keyJudged_keeps (s : State) : Keeps (Within [.hub, .raised]) s (keyJudged s) := by
  unfold keyJudged
  split
  · exact expireWindow_keeps s
  · exact keeps_refl _ s

theorem writeKey_opens {m : Master} {v : Nat} {s : State} (hout : s.fld PWR_PHASE.PHASE ≠ 1) (hkey : v % 65536 = 0x5EA7) :
    (writeKey m v s).hub.window = some (s.now, masterCode m) := by
  have hwrite : writeKey m v s = (keyJudged s).modHub (fun h => { h with window := some ((keyJudged s).now, masterCode m) }) := by
    rw [writeKey, if_neg hout]
    exact if_pos hkey
  rw [hwrite, State.hub_modHub, (keyJudged_keeps s).now]

theorem writeKey_closes {m : Master} {v : Nat} {s : State} (hout : s.fld PWR_PHASE.PHASE ≠ 1) (hkey : v % 65536 ≠ 0x5EA7) :
    (writeKey m v s).hub.window = none ∧ (writeKey m v s).fld HUB_LOCK_STATUS.KEY_BAD = 1 ∧
      (writeKey m v s).reg HUB_LOCK_KEY_BAD = s.reg HUB_LOCK_KEY_BAD + 1 := by
  have hwrite : writeKey m v s = (((((keyJudged s).modHub (fun h => { h with window := none })).setFld HUB_LOCK_STATUS.KEY_BAD 1).inc
      HUB_LOCK_KEY_BAD).intBit 8).raise 0x8002 1 [v % 65536, masterCode m] := by
    rw [writeKey, if_neg hout]
    exact if_neg hkey
  have hregs : (keyJudged s).regs = s.regs := (keyJudged_keeps s).stands .regs
  rw [hwrite]
  refine ⟨?_, ?_, ?_⟩
  · rw [State.raise_hub, State.intBit_hub, State.inc_hub, State.setFld_hub, State.hub_modHub]
  · rw [State.raise_fld, State.fld_intBit_other _ (by decide) (by decide), State.fld_eq_of_reg_eq (f := HUB_LOCK_STATUS.KEY_BAD)
      (State.reg_inc_other _ _ _ (by decide))]
    exact State.fld_setFld_same _ _ _ (by decide) (by decide)
  · rw [State.raise_reg, State.intBit, State.reg_setFld_other _ _ _ _ (by decide), State.reg_inc_same, State.reg_setFld_other _ _ _ _ (by decide),
      State.modHub_reg, State.reg_congr _ _ hregs]

theorem expireWindow_closes {t0 m : Nat} {s : State} (hwindow : s.hub.window = some (t0, m)) :
    (expireWindow s).hub.window = none ∧ (⟨0x8003, 0, [m]⟩ : Event) ∈ (expireWindow s).raised := by
  have hclosed : ((s.modHub (fun h => { h with window := none })).raise 0x8003 0 [m]).hub.window = none := by rw [State.raise_hub, State.hub_modHub]
  have hraised : (⟨0x8003, 0, [m]⟩ : Event) ∈ ((s.modHub (fun h => { h with window := none })).raise 0x8003 0 [m]).raised := by
    rw [State.raised_raise]
    exact List.mem_append_right _ (List.mem_singleton.2 rfl)
  rw [expireWindow, hwindow]
  dsimp only
  split
  · rw [State.raise_hub, State.raised_raise]
    exact ⟨hclosed, List.mem_append_left _ hraised⟩
  · exact ⟨hclosed, hraised⟩

/-- Settles O54, clause by clause. -/
theorem configurationCheckAndLocks : Obligations.ConfigurationCheckAndLocks := by
  have hruns {s : State} (h : walkersRun s = true) : ¬(!walkersRun s) = true := by
    rw [h]
    exact Bool.false_ne_true
  refine ⟨fun s h => ⟨_, if_neg (hruns h), State.reg_inc_same .., State.reg_inc_other _ _ _ (by decide)⟩,
    fun s h => ⟨_, if_neg (hruns h), cleanPass_counts s⟩, fun s hidle hnone => ⟨_, rfl, startCommit_starts hidle hnone⟩,
    fun cause s hcommit hnone => ⟨_, execCommitPassDone_ends hcommit hnone, ?_⟩, fun _ _ _ => execCfgCheckEnableWrite_writes,
    fun v m s hopen hlocked => ⟨_, execCfgCheckEnableWrite_refuses hopen hlocked, ?_⟩, fun s hfenced => ⟨_, rfl, clearFenced_clears hfenced⟩,
    fun v m s hset hservice hopen => ⟨_, rfl, ?_⟩, fun v m s hout hkey => ⟨_, rfl, writeKey_opens hout hkey⟩,
    fun v m s hout hkey => ⟨_, rfl, writeKey_closes hout hkey⟩, fun t0 m s hwindow => ⟨_, rfl, expireWindow_closes hwindow⟩⟩
  · obtain ⟨hnow, -, hshown⟩ := endCommit_clears cause s
    exact ⟨hnow, hshown⟩
  · obtain ⟨hcfg, hrecords⟩ := refuseLocked_records CFG_CHECK_CFG m s
    exact ⟨State.fld_eq_of_reg_eq (f := CFG_CHECK_CFG.ENABLE) hcfg, State.fld_eq_of_reg_eq (f := CFG_CHECK_CFG.ACTION) hcfg, hrecords⟩
  · rw [if_pos hset]
    exact setLock_sets hservice hopen

end Sys2Proof.Claims
end

section
/-! SUPPORT. What waited for the Porter (R555): the completions, the RELOAD and the self-test that a resumed pair catches up with leave the standing
registers. -/
-- the whole text is compiled at once: its threads share one memory limit
set_option Elab.async false
namespace Sys2Proof.Claims
open Sys2Proof Sys2Proof.Machine

section
variable {A : List Nat} {r s : State}

/-! ### The periodic test (R530 to R538) -/

theorem quiet_showBist (h : Quiet A r s) : Quiet A r (showBist s) := by
  unfold showBist
  extract_lets swapping s1
  have hs1 : Quiet A r s1 := quiet_setFld h (by decide)
  split
  · exact quiet_setReg (quiet_setFld hs1 (by decide)) (by decide)
  · exact quiet_setReg (quiet_setFld hs1 (by decide)) (by decide)

theorem quiet_addTest {unit handle job spare : Nat} {periodic : Bool} {st : TestStage} (h : Quiet A r s) :
    Quiet A r (addTest unit handle job periodic st spare s) := quiet_showBist (quiet_same h rfl rfl rfl rfl)

theorem quiet_setBankState {b st : Nat} (hb : b < 65536) (h : Quiet A r s) : Quiet A r (setBankState b st s) :=
  quiet_setFld h (off_between (by simp only [HOSTEL_BANK_STATE, hostelBase]; omega) (by simp only [HOSTEL_BANK_STATE, hostelBase]; omega))

theorem quiet_showBanks (h : Quiet A r s) : Quiet A r (showBanks s) := quiet_showPool (quiet_setFld (quiet_setFld h (by decide)) (by decide))

theorem bank_lt {s : State} {st b : Nat} (h : (banksIn s st).head? = some b) : b < 65536 :=
  (List.mem_range.1 (List.mem_filter.1 (List.mem_of_mem_head? h)).1).trans (by decide)

theorem quiet_fillBanks {k : Nat} (h : Quiet A r s) : Quiet A r (fillBanks k s) := by
  induction k generalizing s with
  | zero => exact quiet_showBanks h
  | succ k ih =>
    unfold fillBanks
    split
    · split
      next b hb => exact ih (quiet_setBankState (bank_lt hb) h)
      next => exact quiet_showBanks h
    · exact quiet_showBanks h

theorem quiet_startSwap {t old spare handle : Nat} {back : Bool} (h : Quiet A r s) : Quiet A r (startSwap t old spare back handle s) :=
  quiet_setSliceState (quiet_modTile h)

theorem unitElem_lt (unit : Nat) : unitElem unit < 65536 := Nat.mod_lt _ (by decide)

theorem quiet_beginUnit {unit handle job : Nat} {periodic : Bool} (h : Quiet A r s) : Quiet A r (beginUnit unit handle job periodic s) := by
  unfold beginUnit
  extract_lets t i g sub s1
  have hbank {st : Nat} : Quiet A r (setBankState i st s) := quiet_setBankState (unitElem_lt unit) h
  have hs1 : Quiet A r s1 := quiet_ite (quiet_inc (quiet_setFld h)) h
  refine quiet_ite (quiet_ite ?_ (quiet_ite (quiet_addTest (quiet_setSliceState h)) (quiet_addTest h)))
    (quiet_ite (quiet_ite (quiet_addTest (quiet_fillBanks hbank)) (quiet_ite (quiet_addTest (quiet_showBanks hbank)) (quiet_addTest h)))
      (quiet_ite (quiet_addTest hs1) (quiet_addTest h)))
  split
  · have hadded {sp : Nat} : Quiet A r (addTest unit handle job periodic .swap sp (startSwap t i sp false handle s)) := quiet_addTest (quiet_startSwap h)
    refine quiet_ite hadded ?_
    split
    · exact quiet_wakePort hadded
    · exact hadded
  · exact quiet_addTest h

theorem quiet_skipUnit {k reason : Nat} {again : Bool} (h : Quiet A r s) : Quiet A r (skipUnit k reason again s) :=
  quiet_ite (quiet_raise (quiet_inc h (by decide))) (quiet_modHub (quiet_inc h (by decide)) rfl)

theorem quiet_showSweep (h : Quiet A r s) : Quiet A r (showSweep s) := quiet_ite (quiet_setFld h (by decide)) h

theorem quiet_sweepNext (h : Quiet A r s) : Quiet A r (sweepNext s) := by
  have hover {u : State} (hu : Quiet A r u) : Quiet A r ((u.inc BIST_SWEEPS).setFld BIST_STATUS.SWEEP_POS 0) :=
    quiet_setFld (quiet_inc hu (by decide)) (by decide)
  exact quiet_ite (quiet_ite (hover (quiet_modHub h rfl)) (quiet_showSweep h)) (quiet_ite (quiet_setFld h (by decide))
    (quiet_ite (hover h) (quiet_showSweep (quiet_modHub h rfl))))

theorem quiet_takeClaim {src kind res : Nat} {pair : Option Nat} {byClaim : Bool} (hA : CNC_GRANTS ∉ A) (h : Quiet A r s) :
    Quiet A r (takeClaim src kind res pair byClaim s).2 := by
  have hheld : Quiet A r { s with claims := s.claims ++ [(⟨nextHandle s, kind, res, pair, src, byClaim⟩ : Claim)] } := quiet_same h rfl rfl rfl rfl
  have hnamed := quiet_modHub (g := fun b => { b with handle := nextHandle s }) hheld rfl
  unfold takeClaim
  refine quiet_showClaims ⟨h.standing, fun b hb => ?_, hnamed.raised, hnamed.core, hnamed.porterQ⟩
  rw [State.reg_inc_other _ _ _ (fun hgrants : b = CNC_GRANTS => hA (hgrants ▸ hb)), hnamed.regs b hb]

theorem quiet_sweepStart (hA : CNC_GRANTS ∉ A) (h : Quiet A r s) : Quiet A r (sweepStart s) := by
  unfold sweepStart
  extract_lets again k unit reason s1
  have hs1 : Quiet A r s1 := quiet_ite (quiet_modHub h rfl) h
  exact quiet_ite (quiet_sweepNext (quiet_skipUnit hs1)) (quiet_sweepNext (quiet_beginUnit (quiet_takeClaim hA hs1)))

theorem quiet_sweepDue (hA : CNC_GRANTS ∉ A) (h : Quiet A r s) : Quiet A r (sweepDue s) :=
  quiet_ite (quiet_sweepStart hA (quiet_modHub h rfl)) h

/-! ### The pair that runs again -/

/-- The state in which the Porter's queue has been taken. -/
def queueTaken (s : State) : State := s.modHub (fun h => { h with porterQ := [] })

theorem quiet_catchUp (hcheck : CFG_CHECK_STATUS ∉ A) (hgrants : CNC_GRANTS ∉ A) (h : Quiet A r (queueTaken s)) : Quiet A r (catchUp s) := by
  have htaken : Quiet A r (forEach s.hub.porterQ takeCompletion (queueTaken s)) :=
    quiet_forEach _ h fun _ t ht => quiet_keeps [.jobs, .records] ht fun _ _ => keeps_takeCompletion (keeps_refl _ t)
  exact quiet_sweepDue hgrants (quiet_ite (quiet_reload hcheck (quiet_modHub htaken rfl)) htaken)

end

/-- The registers of the Porter among the standing ones. -/
def porterRegs : List Nat := [DBG_PORTER_STATUS, DBG_PORTER_PC, BIST_PORTER_STATUS, BIST_PORTER_TAKEOVERS]

theorem catchUp_quiet (s : State) : Quiet porterRegs (queueTaken s) (catchUp s) :=
  quiet_catchUp (by decide) (by decide) (quiet_refl (by decide) (queueTaken s))

/-- The state in which nothing of a halt is shown. -/
def haltCleared (s : State) : State :=
  ((((s.setFld DBG_PORTER_STATUS.HALTED 0).setFld DBG_PORTER_STATUS.REASON 0).setFld DBG_PORTER_STATUS.BREAK 0).setFld
    DBG_PORTER_STATUS.IN_WINDOW 0).setReg DBG_PORTER_PC 0

/-- The state in which the debugger's words of the cores are forgotten. -/
def coreForgotten (s : State) : State := { s with core := [] }

theorem reg_coreForgotten (s : State) (a : Nat) : (coreForgotten s).reg a = s.reg a := rfl

theorem raised_coreForgotten (s : State) : (coreForgotten s).raised = s.raised := rfl

theorem leaveHalt_eq (s : State) : leaveHalt s = coreForgotten (haltCleared s) := rfl

theorem reg_leaveHalt (s : State) (a : Nat) : (leaveHalt s).reg a = (haltCleared s).reg a := by rw [leaveHalt_eq, reg_coreForgotten]

/-- A pair that leaves a halt shows none, and keeps which pair it is. -/
theorem leaveHalt_shows (s : State) : halted (leaveHalt s) = false ∧ (leaveHalt s).fld DBG_PORTER_STATUS.PAIR = s.fld DBG_PORTER_STATUS.PAIR ∧
    (leaveHalt s).reg DBG_PORTER_PC = 0 ∧ (leaveHalt s).core = [] := by
  have hstatus : (leaveHalt s).reg DBG_PORTER_STATUS = ((((s.setFld DBG_PORTER_STATUS.HALTED 0).setFld DBG_PORTER_STATUS.REASON 0).setFld
      DBG_PORTER_STATUS.BREAK 0).setFld DBG_PORTER_STATUS.IN_WINDOW 0).reg DBG_PORTER_STATUS := by
    rw [reg_leaveHalt, haltCleared, State.reg_setReg_other _ _ _ _ (by decide)]
  refine ⟨?_, ?_, by rw [reg_leaveHalt, haltCleared, State.reg_setReg_same], rfl⟩
  · rw [halted, State.flag_eq_of_reg_eq (f := DBG_PORTER_STATUS.HALTED) hstatus, State.flag_setFld_apart _ _ _ _ (by decide) (by decide) (by decide),
      State.flag_setFld_apart _ _ _ _ (by decide) (by decide) (by decide), State.flag_setFld_apart _ _ _ _ (by decide) (by decide) (by decide)]
    exact State.flag_setFld_zero _ _ (by decide) (by decide)
  · rw [State.fld_eq_of_reg_eq (f := DBG_PORTER_STATUS.PAIR) hstatus, State.fld_setFld_apart _ _ _ _ (by decide) (by decide) (by decide),
      State.fld_setFld_apart _ _ _ _ (by decide) (by decide) (by decide), State.fld_setFld_apart _ _ _ _ (by decide) (by decide) (by decide),
      State.fld_setFld_apart _ _ _ _ (by decide) (by decide) (by decide)]

theorem reg_leaveHalt_other {a : Nat} (s : State) (hstatus : a ≠ DBG_PORTER_STATUS) (hpc : a ≠ DBG_PORTER_PC) : (leaveHalt s).reg a = s.reg a := by
  rw [reg_leaveHalt, haltCleared, State.reg_setReg_other _ _ _ _ hpc, State.reg_setFld_other _ _ _ _ hstatus, State.reg_setFld_other _ _ _ _ hstatus,
    State.reg_setFld_other _ _ _ _ hstatus, State.reg_setFld_other _ _ _ _ hstatus]

theorem leaveHalt_raised (s : State) : (leaveHalt s).raised = s.raised :=
  leaves [.regs, .core] .raised fun _ _ => keeps_leaveHalt (keeps_refl _ s)

/-- A pair that has left its halt and caught up runs, with nothing of the halt and nothing in its queue. -/
theorem caughtUp_runs (s : State) : halted (catchUp (leaveHalt s)) = false ∧ (catchUp (leaveHalt s)).reg DBG_PORTER_PC = 0 ∧
    (catchUp (leaveHalt s)).core = [] ∧ (catchUp (leaveHalt s)).hub.porterQ = [] := by
  obtain ⟨hruns, -, hpc, hcore⟩ := leaveHalt_shows s
  have hquiet := catchUp_quiet (leaveHalt s)
  refine ⟨?_, ?_, ?_, ?_⟩
  · rw [halted, State.flag_eq_of_reg_eq (f := DBG_PORTER_STATUS.HALTED) (hquiet.regs _ (by decide)), queueTaken, State.modHub_flag]
    exact hruns
  · rw [hquiet.regs _ (by decide), queueTaken, State.modHub_reg, hpc]
  · rw [hquiet.core, queueTaken, State.modHub_core, hcore]
  · rw [hquiet.porterQ, queueTaken, State.hub_modHub]

end Sys2Proof.Claims
end

section
/-! PROOF. Completions, halts, core accesses and the takeover of the Porter, one clause of the statement after the other (O55). -/
-- the whole text is compiled at once: its threads share one memory limit
set_option Elab.async false
namespace Sys2Proof.Claims
open Sys2Proof Sys2Proof.Machine

/-! ### Completions (R445, R555) -/

theorem execCompletionAccept_writes {c : Completion} {j : Job} {s : State} (hruns : halted s = false) (hnext : nextCompletion s.completions = some c)
    (hjob : c.run = false) (hfind : s.jobs.find? (fun j => j.num == c.job) = some j) : exec .completionAccept s =
      .next { s with completions := s.completions.erase c, records := s.records ++ [recordOf s j c.status c.arg],
                     jobs := s.jobs.filter (fun x => x.num != j.num) } := by
  show execCompletionAccept s = _
  rw [execCompletionAccept, hnext]
  dsimp only
  rw [hruns, if_neg Bool.false_ne_true, takeCompletion]
  dsimp only
  rw [hfind, hjob]
  rfl

theorem execCompletionAccept_queues {c : Completion} {s : State} (hhalted : halted s = true) (hnext : nextCompletion s.completions = some c)
    (hroom : s.hub.porterQ.length < 512) : exec .completionAccept s =
      .next ({ s with completions := s.completions.erase c }.modHub (fun h => { h with porterQ := h.porterQ ++ [c] })) := by
  show execCompletionAccept s = _
  rw [execCompletionAccept, hnext]
  dsimp only
  rw [hhalted, if_pos rfl]
  exact if_neg (Nat.not_le.2 hroom)

/-! ### Halts (R554) -/

/-- What a halt shows. -/
theorem haltPair_shows {reason brk : Nat} (hreason : reason < 8) (hbrk : brk < 4) (pc : Word) (s : State) :
    (haltPair reason brk pc s).fld DBG_PORTER_STATUS.HALTED = 1 ∧ (haltPair reason brk pc s).fld DBG_PORTER_STATUS.REASON = reason ∧
      (haltPair reason brk pc s).fld DBG_PORTER_STATUS.BREAK = brk ∧ (haltPair reason brk pc s).reg DBG_PORTER_PC = pc ∧
      (haltPair reason brk pc s).reg DBG_HALTS = s.reg DBG_HALTS + 1 ∧
      (haltPair reason brk pc s).raised = s.raised ++ [⟨0xA002, 0, [1, reason, pc.toNat]⟩] := by
  unfold haltPair
  extract_lets s1 s2 s3
  have hs3 {a : Nat} : (s3.raise 0xA002 0 [1, reason, pc.toNat]).reg a = (s2.inc DBG_HALTS).reg a := by rw [State.raise_reg, State.modHub_reg]
  have hstatus : (s3.raise 0xA002 0 [1, reason, pc.toNat]).reg DBG_PORTER_STATUS =
      (s1.setFld DBG_PORTER_STATUS.IN_WINDOW s1.hub.window.isSome.toNat).reg DBG_PORTER_STATUS := by
    rw [hs3, State.reg_inc_other _ _ _ (by decide), State.reg_setReg_other _ _ _ _ (by decide)]
  refine ⟨?_, ?_, ?_, ?_, ?_, ?_⟩
  · rw [State.fld_eq_of_reg_eq (f := DBG_PORTER_STATUS.HALTED) hstatus, State.fld_setFld_apart _ _ _ _ (by decide) (by decide) (by decide),
      State.fld_setFld_apart _ _ _ _ (by decide) (by decide) (by decide), State.fld_setFld_apart _ _ _ _ (by decide) (by decide) (by decide)]
    exact State.fld_setFld_same _ _ _ (by decide) (by decide)
  · rw [State.fld_eq_of_reg_eq (f := DBG_PORTER_STATUS.REASON) hstatus, State.fld_setFld_apart _ _ _ _ (by decide) (by decide) (by decide),
      State.fld_setFld_apart _ _ _ _ (by decide) (by decide) (by decide), State.fld_setFld_same _ _ _ (by decide) (by decide)]
    exact Nat.mod_eq_of_lt hreason
  · rw [State.fld_eq_of_reg_eq (f := DBG_PORTER_STATUS.BREAK) hstatus, State.fld_setFld_apart _ _ _ _ (by decide) (by decide) (by decide),
      State.fld_setFld_same _ _ _ (by decide) (by decide)]
    exact Nat.mod_eq_of_lt hbrk
  · rw [hs3, State.reg_inc_other _ _ _ (by decide), State.reg_setReg_same]
  · rw [hs3, State.reg_inc_same, State.reg_setReg_other _ _ _ _ (by decide), State.reg_setFld_other _ _ _ _ (by decide),
      State.reg_setFld_other _ _ _ _ (by decide), State.reg_setFld_other _ _ _ _ (by decide), State.reg_setFld_other _ _ _ _ (by decide)]
  · rw [State.raised_raise, State.modHub_raised, State.inc_raised, State.setReg_raised, State.setFld_raised, State.setFld_raised,
      State.setFld_raised, State.setFld_raised]

theorem haltPair_core (reason brk : Nat) (pc : Word) (s : State) : (haltPair reason brk pc s).core = s.core :=
  leaves [.regs, .hub, .raised] .core fun _ _ => keeps_haltPair (keeps_refl _ s)

theorem execPorterHalt_halts {pc : Word} {s : State} (hruns : halted s = false) (hup : porterUp s = true) :
    exec (.porterHalt pc) s = .next (haltPair 1 0 pc s) := by
  show execPorterHalt pc s = _
  rw [execPorterHalt, halt, if_neg (by simp [hruns, hup])]

theorem execPorterBreakpoint_halts {i : Fin 4} {pc : Word} {s : State} (hruns : halted s = false) (hup : porterUp s = true)
    (henabled : s.flag (DBG_BREAK.EN i) = true) (hreached : s.fld (DBG_BREAK.ADDR i) = pc.toNat / 4) :
    exec (.porterBreakpoint i pc) s = .next (haltPair 2 i pc s) := by
  show execPorterBreakpoint i pc s = _
  rw [execPorterBreakpoint, if_neg (by simp [hruns, hup, henabled, hreached])]

theorem execPorterStep_halts {pc : Word} {s : State} (hhalted : halted s = true) :
    exec (.porterStep pc) s = .next (haltPair 3 0 pc (coreForgotten s)) := by
  show execPorterStep pc s = _
  rw [execPorterStep, stepPair, if_neg (by simp [hhalted]), coreForgotten]

theorem execPorterResume_resumes {s : State} (hhalted : halted s = true) : exec .porterResume s =
    .next (catchUp (leaveHalt (s.raise 0xA002 0 [2, s.fld DBG_PORTER_STATUS.REASON, (s.reg DBG_PORTER_PC).toNat]))) := by
  show execPorterResume s = _
  rw [execPorterResume, resume, if_neg (by simp [hhalted])]

/-! ### Words of the cores (R554) -/

theorem stepCore_core (s : State) : (stepCore s).core = s.core := leaves [.regs] .core fun _ _ => keeps_stepCore (keeps_refl _ s)

theorem writeCore_writes {v : Word} {s : State} (hhalted : halted s = true) (hspace : s.fld DBG_CORE_ADDR.SPACE ≠ 3) :
    SMap.get (fun _ => none) (writeCore v s).core (coreKey s) = some v := by
  rw [writeCore, if_neg (by simp [hhalted]), if_neg hspace, stepCore_core]
  exact SMap.get_put_same (fun _ => none) s.core (coreKey s) (some v)

theorem readCore_steps {v : Word} {s : State} (hhalted : halted s = true) (hspace : s.fld DBG_CORE_ADDR.SPACE ≠ 3)
    (hword : SMap.get (fun _ => none) s.core (coreKey s) = some v) : (readCore false s).2 = stepCore s := by
  rw [readCore, if_neg (by simp [hhalted])]
  dsimp only
  rw [if_neg hspace, hword]
  rfl

/-! ### The takeover (R528, R529) -/

theorem execPorterTakeover_takes {cause : Nat} {s : State} (hup : porterUp s = true) (hlo : 1 ≤ cause) (hhi : cause ≤ 3)
    (hwatchdog : halted s = true → cause ≠ 3) : exec (.porterTakeover cause) s = .next (takeover cause s) := by
  have hgo : (halted s && cause == 3) = false := by
    cases hhalted : halted s with
    | false => rfl
    | true => simpa using hwatchdog hhalted
  show execPorterTakeover cause s = _
  rw [execPorterTakeover, if_neg (by simp [hup, hgo]; omega)]

theorem pairSwitched_pair (cause : Nat) (s : State) :
    (standbyAsked (pairSwitched cause s)).fld DBG_PORTER_STATUS.PAIR = 1 - s.fld BIST_PORTER_STATUS.ACTIVE := by
  have hasked : (standbyAsked (pairSwitched cause s)).reg DBG_PORTER_STATUS = (pairSwitched cause s).reg DBG_PORTER_STATUS :=
    reg_standbyAsked_other _ (by decide)
  rw [State.fld_eq_of_reg_eq (f := DBG_PORTER_STATUS.PAIR) hasked, pairSwitched, State.raise_fld, State.fld_intBit_other _ (by decide) (by decide),
    State.fld_inc_other _ _ _ (by decide), State.fld_setFld_same _ _ _ (by decide) (by decide)]
  exact Nat.mod_eq_of_lt (by show _ < 2; omega)

theorem pairSwitched_counts (cause : Nat) (s : State) :
    (standbyAsked (pairSwitched cause s)).reg BIST_PORTER_TAKEOVERS = s.reg BIST_PORTER_TAKEOVERS + 1 := by
  rw [reg_standbyAsked_other _ (by decide), pairSwitched, State.raise_reg, State.intBit, State.reg_setFld_other _ _ _ _ (by decide),
    State.reg_inc_same, State.reg_setFld_other _ _ _ _ (by decide), State.reg_setFld_other _ _ _ _ (by decide)]

theorem pairSwitched_raises (cause : Nat) (s : State) :
    (⟨0x7020, 2, [cause, 1 - s.fld BIST_PORTER_STATUS.ACTIVE]⟩ : Event) ∈ (standbyAsked (pairSwitched cause s)).raised := by
  have hasked : _ = _ := (standbyAsked_keeps (pairSwitched cause s)).stands .raised
  rw [hasked, pairSwitched, State.raised_raise]
  exact List.mem_append_right _ (List.mem_singleton.2 rfl)

/-- A takeover shows the new pair, its count and the event, and the Porter runs. -/
theorem takeover_shows {cause : Nat} {s : State} (hready : s.flag BIST_PORTER_STATUS.STANDBY_READY = true) :
    (takeover cause s).fld BIST_PORTER_STATUS.ACTIVE = 1 - s.fld BIST_PORTER_STATUS.ACTIVE ∧
      (takeover cause s).fld DBG_PORTER_STATUS.PAIR = 1 - s.fld BIST_PORTER_STATUS.ACTIVE ∧
      (takeover cause s).reg BIST_PORTER_TAKEOVERS = s.reg BIST_PORTER_TAKEOVERS + 1 ∧ halted (takeover cause s) = false ∧
      (⟨0x7020, 2, [cause, 1 - s.fld BIST_PORTER_STATUS.ACTIVE]⟩ : Event) ∈ (takeover cause s).raised := by
  have hactive := pairSwitched_active cause s
  have hpair := pairSwitched_pair cause s
  have hcount := pairSwitched_counts cause s
  have hraised := pairSwitched_raises cause s
  rw [takeover_of_ready hready]
  generalize standbyAsked (pairSwitched cause s) = u at hactive hpair hcount hraised
  split
  · obtain ⟨-, hsame, -, -⟩ := leaveHalt_shows u
    obtain ⟨hruns, -, -, -⟩ := caughtUp_runs u
    have hquiet := catchUp_quiet (leaveHalt u)
    have hreg {a : Nat} (ha : a ∈ porterRegs) : (catchUp (leaveHalt u)).reg a = (leaveHalt u).reg a := by
      rw [hquiet.regs a ha, queueTaken, State.modHub_reg]
    refine ⟨?_, ?_, ?_, hruns, hquiet.raised.subset ?_⟩
    · rw [State.fld_eq_of_reg_eq (f := BIST_PORTER_STATUS.ACTIVE) (hreg (by decide)),
        State.fld_eq_of_reg_eq (f := BIST_PORTER_STATUS.ACTIVE) (reg_leaveHalt_other u (by decide) (by decide)), hactive]
    · rw [State.fld_eq_of_reg_eq (f := DBG_PORTER_STATUS.PAIR) (hreg (by decide)), hsame, hpair]
    · rw [hreg (by decide), reg_leaveHalt_other u (by decide) (by decide), hcount]
    · rw [queueTaken, State.modHub_raised, leaveHalt_raised]
      exact hraised
  next hruns => exact ⟨hactive, hpair, hcount, Bool.eq_false_iff.2 hruns, hraised⟩

theorem takeover_resets {cause : Nat} {s : State} (hnone : s.flag BIST_PORTER_STATUS.STANDBY_READY = false) :
    takeover cause s = deviceReset 5 (s.raise 0x7021 2 [cause]) := by
  rw [takeover, if_pos (by simp [hnone])]

/-- Settles O55, clause by clause. -/
theorem porterCompletionsHaltsAndTakeover : Obligations.PorterCompletionsHaltsAndTakeover := by
  refine ⟨fun c j s hruns hnext hjob hfind => ⟨_, execCompletionAccept_writes hruns hnext hjob hfind, rfl, rfl, rfl⟩,
    fun c s hhalted hnext hroom => ⟨_, execCompletionAccept_queues hhalted hnext hroom, by rw [State.hub_modHub], rfl, rfl⟩,
    fun pc s hruns hup => ⟨_, execPorterHalt_halts hruns hup, haltPair_shows (by decide) (by decide) pc s⟩,
    fun i pc s hruns hup henabled hreached =>
      ⟨_, execPorterBreakpoint_halts hruns hup henabled hreached, haltPair_shows (by decide) i.isLt pc s⟩,
    fun s hhalted => ⟨_, execPorterResume_resumes hhalted, caughtUp_runs _⟩, fun pc s hhalted => ⟨_, execPorterStep_halts hhalted, ?_⟩,
    fun v s hhalted hspace => ⟨_, rfl, writeCore_writes hhalted hspace⟩,
    fun v s hhalted hspace hword => ⟨_, rfl, readCore_steps hhalted hspace hword⟩,
    fun cause s hup hlo hhi hwatchdog hready => ⟨_, execPorterTakeover_takes hup hlo hhi hwatchdog, takeover_shows hready⟩,
    fun cause s hup hlo hhi hwatchdog hnone => ⟨_, execPorterTakeover_takes hup hlo hhi hwatchdog, ?_⟩⟩
  · obtain ⟨hhalt, hreason, hbreak, hpc, hcount, hraised⟩ := haltPair_shows (reason := 3) (brk := 0) (by decide) (by decide) pc (coreForgotten s)
    rw [reg_coreForgotten] at hcount
    rw [raised_coreForgotten] at hraised
    exact ⟨hhalt, hreason, hbreak, hpc, hcount, hraised, haltPair_core ..⟩
  · obtain ⟨hreset, -⟩ := deviceReset_clears 5 (s.raise 0x7021 2 [cause])
    rw [takeover_resets hnone]
    exact ⟨hreset, deviceReset_shows_cause (by decide) _⟩

end Sys2Proof.Claims
end
